-- ==== Sys2Proof/Word.lean ====
section
/-! DEFINITION. The machine's words and the one kind of table the state is made of: a sparse list of (key, value)
pairs in canonical form (keys strictly rising, no entry equal to what an unlisted key reads as). -/

namespace Sys2Proof

/-- A register word (R7, R36: every register is 32 bits wide). -/
abbrev Word := BitVec 32

/-- A byte of memory or of a packet. -/
abbrev Byte := BitVec 8

/-- A sparse table: pairs of a key and a value, keys strictly rising. -/
abbrev Tbl (α : Type) := List (Nat × α)

/-- What key `k` holds; `d` is what an unlisted key reads as. -/
def Tbl.get {α : Type} (d : Nat → α) : Tbl α → Nat → α
  | [], k => d k
  | (j, u) :: t, k => if k = j then u else Tbl.get d t k

/-- An entry put before the first one whose key is greater. -/
def Tbl.ins {α : Type} : Tbl α → Nat → α → Tbl α
  | [], k, v => [(k, v)]
  | (j, u) :: t, k, v => if k < j then (k, v) :: (j, u) :: t else (j, u) :: Tbl.ins t k v

/-- The table with `v` at key `k`; an entry that would equal the unlisted value is not listed. -/
def Tbl.set {α : Type} [DecidableEq α] (d : Nat → α) (t : Tbl α) (k : Nat) (v : α) : Tbl α :=
  let rest := t.filter (fun e => decide (e.1 ≠ k))
  if v = d k then rest else Tbl.ins rest k v

/-- Keys above `lo` strictly rising, and no entry equal to the unlisted value. -/
def Tbl.wfFrom {α : Type} [DecidableEq α] (d : Nat → α) : Nat → Tbl α → Bool
  | _, [] => true
  | lo, (j, u) :: t => decide (lo ≤ j) && decide (u ≠ d j) && Tbl.wfFrom d (j + 1) t

/-- The canonical form of a table. -/
def Tbl.wf {α : Type} [DecidableEq α] (d : Nat → α) (t : Tbl α) : Bool := Tbl.wfFrom d 0 t

/-- A set of numbers with no order, kept strictly rising: a table of unit values. -/
abbrev NSet := List Nat

/-- The set with `k` in it. -/
def NSet.add : NSet → Nat → NSet
  | [], k => [k]
  | j :: t, k => if k < j then k :: j :: t else if k = j then j :: t else j :: NSet.add t k

/-- The set without `k`. -/
def NSet.del (t : NSet) (k : Nat) : NSet := t.filter (fun j => decide (j ≠ k))

/-- Bits `hi` down to `lo` of a word, as a number. -/
def fld (w : Word) (hi lo : Nat) : Nat := (w.toNat >>> lo) % 2 ^ (hi + 1 - lo)

/-- Bit `i` of a word. -/
def bitOf (w : Word) (i : Nat) : Bool := w.getLsbD i

/-- A two's complement reading of the low `n` bits of `x`. -/
def sgn (n x : Nat) : Int := if x % 2 ^ n < 2 ^ (n - 1) then ((x % 2 ^ n : Nat) : Int) else ((x % 2 ^ n : Nat) : Int) - 2 ^ n

/-- A word with only bit `i` set. -/
def bitW (i : Nat) : Word := BitVec.ofNat 32 (2 ^ i)

/-- The division of naturals that rounds up. -/
def cdiv (a b : Nat) : Nat := (a + b - 1) / b

/-- `a` rounded up to a multiple of `b`. -/
def roundUp (a b : Nat) : Nat := cdiv a b * b

/-- `x` held between `lo` and `hi`, as the manual's clamp (R248). -/
def clampI (x lo hi : Int) : Int := min (max x lo) hi

end Sys2Proof
end

