-- ==== Sys2Proof/Syntax.lean ====
section
/-! DEFINITION. The commands and events of the part: one constructor of `Instr` per row of spec/opcode_table.json, and
the plain data they carry (frames, yoke frames, access words). A command carries what its sender or the outside world
decides; what the part decides is computed by its meaning. Numbers name units package-wide unless a line says otherwise. -/

namespace Sys2Proof

/-- The two requesters that the part keeps latched values for (R50). -/
inductive Requester where
  | host   -- a PCI Express request
  | core   -- a control core
  deriving DecidableEq, Repr

/-- The three references of the TIME block (R120). -/
inductive RefSource where
  | ptp
  | ref10m   -- REF10M_IN together with PPS_IN
  | crystal
  deriving DecidableEq, Repr

/-- One sample row data segment of a video packet (R150): its line, first sample and samples, each sample as three
12-bit components `c0 + 2^12 c1 + 2^24 c2` at the input's own bit depth. -/
structure Seg where
  line  : Nat
  first : Nat
  count : Nat
  px    : List Nat
  deriving DecidableEq, Repr

/-- One ST 291 packet of an ancillary packet (R157, R209). -/
structure AncPkt where
  did   : Nat
  sdid  : Nat
  bytes : Nat          -- what it takes of the picture's 16 KiB
  data  : List Byte    -- the eight data bits of its user data words, in order
  deriving DecidableEq, Repr

/-- A PTP message (R141, R449, R471), times in ns: what the servo's delay request-response mechanism reads of it. -/
structure PtpMsg where
  kind    : Nat         -- messageType: 0 Sync, 1 Delay_Req, 8 Follow_Up, 9 Delay_Resp, 11 Announce
  domain  : Nat
  seq     : Nat
  twoStep : Bool
  time    : Int         -- originTimestamp, preciseOriginTimestamp or receiveTimestamp
  corr    : Int         -- correctionField
  chosen  : Bool        -- it comes from the port that the best master clock algorithm chooses, and a Delay_Resp is this port's
  grandmaster : Nat
  logInterval : Int     -- logMessageInterval
  deriving DecidableEq, Repr

/-- What a received Ethernet frame carries, as far as the part acts on it (R139, R141). -/
inductive Body where
  /-- ST 2110-20: RTP timestamp, extended sequence number, field bit, segments. -/
  | video (ts eseq : Nat) (fieldBit : Bool) (segs : List Seg)
  /-- ST 2110-40. -/
  | anc (ts seq : Nat) (pkts : List AncPkt)
  /-- ST 2110-30: channels, bytes per sample (2 or 3), samples per channel, interleaved samples. -/
  | audio (ts seq channels width count : Nat) (samples : List Int)
  /-- A compressed stream: RTP timestamp, sequence number and marker, and the RTP payload (R159). -/
  | compressed (ts seq : Nat) (marker : Bool) (payload : List Byte)
  /-- A 28-byte command payload of R353. -/
  | command (magic op counter first count : Nat) (tag : BitVec 128)
  /-- A PTP event or general message. -/
  | ptp (m : PtpMsg)
  /-- Anything else. -/
  | other
  deriving DecidableEq, Repr

/-- One received Ethernet frame (R141): arrival is the lane receive timestamp of its last byte. -/
structure Frame where
  at_    : Nat          -- ns after the ST 2059-1 epoch
  stamp  : Nat          -- ns at which its message timestamp point passed the part's pins (R449)
  lane   : Nat
  len    : Nat          -- destination MAC address through FCS
  fcsOk  : Bool
  pause  : Bool         -- PAUSE or PFC (R444)
  ptpEth : Bool         -- Ethertype 0x88F7
  ipv4Udp : Bool
  frag   : Bool
  ipsumOk : Bool
  vlans  : List Nat
  sip    : Word
  dip    : Word
  sport  : Nat
  dport  : Nat
  body   : Body
  deriving DecidableEq, Repr

/-- What the physical outcome of one DRAM word access is (R295, R296). -/
inductive EccEvent where
  | clean
  | single
  | double
  deriving DecidableEq, Repr

/-- A HELLO payload (R395). -/
structure Hello where
  dieCount    : Nat
  role        : Nat
  partId      : Nat
  fwVersion   : Word
  activeSince : Nat
  pref        : Bool
  pinRx       : Bool
  running     : List Nat     -- package channels
  tieToken    : Nat
  deriving DecidableEq, Repr

/-- A BEAT payload (R395). -/
structure Beat where
  role    : Nat
  time    : Bool
  port    : Bool
  memory  : Bool
  dieFault : Bool
  quality : Nat
  counter : Nat
  deriving DecidableEq, Repr

/-- The header of a yoke frame as it arrives (R394). -/
structure YHdr where
  crcOk  : Bool      -- HCRC and CRC hold
  ackReq : Bool
  retry  : Bool
  seq    : Nat
  ack    : Nat
  deriving DecidableEq, Repr

/-- One service's entry of a state record (R370). -/
structure RecSvc where
  seqFirst : Nat
  seqNext  : Nat
  fecCol   : Nat
  fecRow   : Nat
  kcv      : Word
  fecPos   : Nat
  cc       : Nat
  patCc    : Nat
  valid    : Bool
  deriving DecidableEq, Repr

/-- A state record (R370). -/
structure Record where
  channel    : Nat
  generation : Nat
  picture    : Nat
  setCrc     : Word
  poc        : Nat
  kind       : Nat
  furrows    : Nat
  bits       : Nat
  fallow     : Nat
  deadline   : Nat
  ckptHeld   : Bool
  latched    : Bool
  baseQp     : Int
  bank       : Int
  budget     : Nat
  marks      : List Nat
  stallPoc   : List (Bool × Nat)
  pin        : Nat
  gdrPos     : Nat
  idrCount   : Nat
  services   : List RecSvc
  ancCrc     : Word
  reconHash  : BitVec 256
  inputHash  : List (BitVec 256)
  deriving DecidableEq, Repr

/-- What the bytes of an access unit prove to be when its decoding begins (R254, R255, R262–R267), in the terms of the stream's
standard. Pictures are named by their order count in the coded video sequence (for AVC recovery points, by frame number unwrapped). -/
structure AccessUnit where
  profile      : Nat       -- profile_idc, general_profile_idc
  constrained  : Bool      -- AVC: constraint_set1_flag
  level        : Nat       -- level_idc, general_level_idc
  chroma       : Nat       -- chroma_format_idc
  depth        : Nat       -- bits per sample, the larger of luma and chroma
  fieldCoded   : Bool      -- field, PAFF or MBAFF coding
  reordered    : Bool      -- some picture of the stream is output out of decoding order
  multilayer   : Bool      -- a multilayer or multiview extension
  width        : Nat
  height       : Nat
  ctu          : Nat       -- CTU or macroblock size
  dpb          : Nat       -- reference pictures the stream may hold (declared DPB size less one)
  refreshKind  : Nat       -- 0 none, 1 IDR, 2 CRA, 3 GDR, 4 recovery-point SEI
  recovery     : Nat       -- kinds 3 and 4: how much later the signalled recovery point lies in that order
  order        : Int       -- the picture's own place in that order
  isRef        : Bool      -- it is marked as a reference
  refs         : List Int  -- pictures its reference signalling names
  keep         : List Int  -- pictures that its marking leaves marked as references
  gaps         : Nat       -- AVC: frames missing by a gap in frame_num
  headerBad    : Bool      -- VVC: its picture header is damaged
  paramsBad    : Bool      -- a parameter set that it brings is damaged
  slices       : Nat
  deriving DecidableEq, Repr

/-- What one received TDM frame looks like at the pins (R409, R415). -/
structure TdmIn where
  at_      : Nat           -- ns of the FS rising edge
  bclks    : Nat           -- bit clocks since the previous FS edge
  ppm      : Int           -- measured frame rate over 48 frames, ppm from nominal
  din      : List Bool     -- DIN at each bit clock of the frame
  aes3NonAudio : List Bool -- per slot: an AES3 channel-status block with the non-audio bit ended here
  aes3Audio    : List Bool -- per slot: an AES3 block that signals audio ended here
  rxEmpty  : Bool          -- receive FIFO ran empty
  rxFull   : Bool
  txEmpty  : Bool
  txFull   : Bool
  slips    : List Nat      -- slipping slots whose phase reached one sample
  deriving DecidableEq, Repr

/-- The commands and events (rows of spec/opcode_table.json, in the table's order). -/
inductive Instr where
  -- power, reset, life cycle
  | supplyRise
  | supplyFall
  | perstAssert
  | perstRelease
  | pcieLinkReset (dropped : Nat)
  | warmResetRequest (value : Word)
  | coldResetRequest (value : Word)
  | resetRelease
  | ctrlStoreZeroised (die : Nat)
  | dramTrainingDone (die failed : Nat)
  | granuleWiped (die : Nat)
  | firmwareBoot (stagedReadErr activeReadErr previousReadErr : Bool)
  | sramZeroised (die : Nat)
  | domainPowerUpDone (die idx : Nat)
  | domainPowerGoodTimeout (die idx : Nat)
  | domainPowerDown (die idx : Nat)
  | domainHoldWrite (die : Nat) (value : Word)
  | laneCalibrated (lane : Nat) (ok : Bool)
  | lcArm (value : Word)
  | lcGo (value : Word)
  | lcArmTimeout
  | dieSleepRequest (die : Nat)
  | dieAsleep (die : Nat)
  | dieWakeRequest (die : Nat)
  | wakeDomainsUp (die : Nat)
  | wakeDramReady (die : Nat) (codes : List Nat)
  | wakeInterruptRestore (die : Nat)
  | wakeSramZeroised (die : Nat)
  | wakeFirmwareStarted (die : Nat)
  -- registers, staging and commit
  | registerWrite (req : Requester) (addr size : Nat) (value : BitVec 64)   -- the low half for a size of 4 bytes
  | stageWrite (req : Requester) (bar2 : Bool) (addr size : Nat) (value : BitVec 64)
  | commitTableWrite (set word : Nat) (value : Word)
  | commit (die page : Nat) (value : Word)
  | commitCheckStart
  | commitCheckEnd
  | statClear (die page : Nat) (value coincident : Word)
  | statSet (die page : Nat) (value : Word)
  | statAgainClear (die page : Nat) (value : Word) (coincident : Bool)
  | imaskWrite (die page : Nat) (value : Word)
  | imaskSet (die page : Nat) (value : Word)
  | imaskClr (die page : Nat) (value : Word)
  | counterLowRead (req : Requester) (die page n : Nat)
  | timeSnapRead (req : Requester)
  | barnMarkRead (req : Requester) (die engine : Nat)
  | yokeSinceRead (req : Requester) (take : Bool)
  -- boundaries and time
  | packageFurrowBoundary
  | pictureBoundary (ch : Nat)
  | referenceEligible (src : RefSource) (offset : Int)
  | ptpLock (offset : Int) (bound : Nat)
  | ref10mStop
  | ppsStop
  | ptpLost
  | refGlitch (pps : Bool)
  | refRefused (src : RefSource)
  | crystalStop
  | holdoverUpdate
  -- ingest
  | frameReceived (f : Frame)
  | lineFill (die slot pic line : Nat)
  | fillEnd (die slot pic line : Nat)
  | pathDown (entry t : Nat)
  | compressedGapLost (die src : Nat)
  | igmpReport (entry : Nat)
  -- composition
  | fenceRead (ch : Nat)
  | composeStart (ch furrow : Nat)
  | canvasPoint (ch furrow : Nat) (unfinished : List (Nat × Nat × Nat × Nat))   -- rectangles not composed: x0, x1, y0, y1
  -- coding
  | plantingInstant (ch furrow : Nat)
  | itemCreate (die owner : Nat)
  | queueReevaluate (die t : Nat)
  | itemDispatch (die unit t : Nat)
  | itemEnd (die slot t : Nat)
  | ctuCoded (ch furrow : Nat)
  | codedPoint (ch furrow : Nat)
  | deadlinePoint (ch furrow finished : Nat)
  | engineFault (die engine : Nat) (corrected : Bool)
  | trackingWindowEnd (die : Nat)
  | dspWindowEnd (die : Nat)
  -- decoded sources
  | accessUnitCutoff (die src : Nat) (au : AccessUnit)
  | decodedSlicePoint (die src : Nat) (damaged : Bool) (area : List (Nat × Nat))   -- runs of CTUs it covers: first, count
  | dueTime (die src : Nat)
  -- memory controller
  | refreshDue (die mch : Nat)
  | mr4PeriodicRead (die : Nat) (codes : List Nat)
  | thermalAlert (die : Nat) (codes : List Nat)
  | panicEntry (die port level : Nat)   -- the level that the port's buffer comes to
  | panicExit (die port level : Nat)
  | portRun (die port : Nat)
  | patrolPass (die : Nat) (singles doubles : List Nat)
  | apertureRead (off len : Nat) (ecc : EccEvent)
  | apertureWrite (off : Nat) (bytes : List (Option Byte)) (ecc : EccEvent)
  | hostAperWrite (value : Word)
  -- the yard
  | packetRelease (service : Nat)
  | portTransmit (lane t : Nat)
  | gateEntry (lane : Nat)
  | listStart (lane : Nat)
  | sapAnnounce
  | flowStopSet (die word : Nat) (value : Word)
  | flowStopClr (die word : Nat) (value : Word)
  | flowQuenchSet (die : Nat) (value : Word)
  | flowQuenchClr (die : Nat) (value : Word)
  | cmdStop (f : Frame)
  | cmdStart (f : Frame)
  | cmdQuench (f : Frame)
  | cmdUnquench (f : Frame)
  -- the yoke
  | helloReceived (h : YHdr) (p : Hello)
  | beatReceived (h : YHdr) (p : Beat)
  | heartbeatPulse (width : Nat)
  | heartbeatMissed (link : Bool)
  | helloSend
  | beatSend
  | pairingTimeout
  | pairRetry
  | stateFrame (h : YHdr) (r : Record)
  | verdictFrame (h : YHdr) (ch state cause picture : Nat)
  | voteFrame (h : YHdr) (set gen : Nat) (crc tableCrc : Word) (liveGen result : Nat)
  | decidePass (h : YHdr) (set gen effect : Nat)
  | decideFail (h : YHdr) (set gen : Nat)
  | decideCatchup (h : YHdr) (set liveGen : Nat)
  | voteTimeout
  | decideTimeout
  | copyBulk (h : YHdr) (ch stall off : Nat) (bytes : List Byte)
  | copyRow (h : YHdr) (ch stall off : Nat) (bytes : List Byte)
  | copyMirror (h : YHdr) (ch stall off : Nat) (bytes : List Byte)
  | bulkCopyDone (ch : Nat)
  | resyncRequest (h : YHdr) (ch : Nat)
  | resyncCheckpointTaken (h : YHdr) (ch pinned picture : Nat)
  | resyncCopyDone (h : YHdr) (ch picture : Nat) (joins : Bool)
  | resyncAbort (h : YHdr) (ch : Nat)
  | yieldFrame (h : YHdr) (cause tR tT : Nat)
  | yokeYield (value : Word)
  | yokeResync (value : Word)
  | takeover
  | doorbellFrame (h : YHdr) (source : Nat)
  | ackFrame (h : YHdr)
  | reliableRetry (seq : Nat)
  | ackTimer
  | dieFault (die : Nat) (cause : Option (Nat × Nat))   -- the bad data word a block read, and the reader's code
  | mirrorCopy (ch : Nat)
  -- audio
  | audioPacketRelease (service : Nat)
  | sampleReady (flow : Nat)
  | zcTimeout (tdm : Bool) (unit chan : Nat)
  | nonAudioClear (tdm : Bool) (unit chan : Nat)
  | tdmFrame (port : Nat) (f : TdmIn)
  | tdmClockStop (port : Nat)
  | tdmFaultClear (port : Nat)
  -- interrupts
  | icMessageArrival (sender : Nat)
  | icDoorbell (core : Option Nat) (value : Word)   -- by the host, or by control core `core`
  | icPendClr (value : Word) (coincident : Bool)
  | icEnSet (value : Word)
  | icEnClr (value : Word) (coincident : Bool)
  | icMaskSet (value : Word)
  | icMaskClr (value : Word) (coincident : Bool)
  | icRemote (value : Word)
  | icClaim (target : Nat) (late : List Nat)   -- `late`: senders whose oldest message arrives after the sampling edge, by the completion
  | icComplete (target : Nat) (value : Word)
  | routingWrite (source : Nat) (value : Word)
  | wakeTimeout (source : Nat)
  -- serial lanes
  | signalDetect (lane : Nat)
  | signalLoss (lane : Nat)
  | adaptationConverged (lane ctle dfe1 : Nat)
  | trainingComplete (lane : Nat) (precodeTx : Bool) (taps : Word)
  | trainingTimeout (lane : Nat)
  | trainingRetry (lane : Nat)
  | lockLoss (lane : Nat)
  | fecBlockEnd (lane symbols codewords uncorr : Nat)
  | ykIdleEntry (lane : Nat)
  | ykIdleExit (lane : Nat)
  | ykIdleRefresh (lane ctle dfe1 : Nat)   -- the settings that its receiver adapts to
  | ykExitLate (lane : Nat)
  | phyTxeqWrite (die blk : Nat) (value : Word)
  | phyReadapt (die blk : Nat) (value : Word)
  | eyeScanStart (die blk : Nat) (value : Word)
  | eyeScanAbort (die blk : Nat) (value : Word)
  | eyeCellDone (die blk count : Nat)
  -- host, boot load and services
  | bootLoadStart
  | bootWaitEnd
  | hostBootHoldRelease (value : Word)
  | hostBootAbort (value : Word)
  | nmosHeartbeat (ok : Bool)
  | is05Patch (receiver : Bool) (entry : Nat) (words : List (Nat × Word)) (readOnlyChange : Bool) (at_ : Option Nat)
  | is05Activation
  | delayReqSend (lane : Nat)
  -- firmware and keys
  | fwWriteStaged (value : Word)
  | fwWriteSettings (value : Word)
  | fwEraseStaged (value : Word)
  | fwEraseSettings (value : Word)
  | fwConfirm (value : Word)
  | fwCommandEnd (flashErr : Bool)
  | tackWrite (value : Word)
  | tackErase (value : Word)
  | tackAttest (value : Word)
  | tackCommandEnd
  -- rows added at the end of the table
  | packagePagesReady
  | pcieLinkUp (speed width : Nat) (flit : Bool)
  | pcieConfigWrite (msixEnable funcMask busMaster d3hot : Bool)
  | referenceEdge (pps : Bool) (residual : Int)
  | tdmClockReturn (port : Nat) (ppm : Int)
  deriving DecidableEq, Repr

end Sys2Proof
end

