-- ==== Sys2Proof/Decode.lean ====
section
/-! DEFINITION. The reading of a table word: spec/opcode_table.json gives no row bits, since the block's commands are
accesses and events, so no word spells a command. -/

namespace Sys2Proof

/-- The command that `nbits` bits `w` spell by the table's bits: none, for the table gives none. -/
def decodeTableWord (_nbits _w : Nat) : Option Instr := none

end Sys2Proof
end

