-- ==== Sys2Proof/Stream.lean ====
section
/-! DEFINITION. What a coded stream is made of (R196–R209, R223, R233–R236): tools, motion vectors, coding units, the syntax of a CTU, what an
engine may read to code one, parameter sets and NAL units. -/

namespace Sys2Proof

/-- Coding tools that R201 and R202 name. -/
inductive Tool where
  -- HEVC, used
  | transform4To32
  | intra35
  | strongIntraSmoothing
  | asymmetricMotion
  | merge5
  | amvp
  | transformSkip4
  | signHiding
  -- VVC, used
  | binaryTernarySplit
  | dualTree
  | intra67
  | mrl
  | isp
  | mip
  | cclm
  | mts
  | lfnst
  | sbt
  | transformSkip32
  | jointCbCr
  | dependentQuant
  | merge6
  | mmvd
  | sbTmvp
  | affine
  | prof
  | amvr
  | gpm
  | ciip
  | bcw
  | alf
  | ccAlf
  | gdrPictures
  | subpictures
  | virtualBoundaries      -- during gradual decoding refresh alone
  -- both, used
  | skip
  | tmvp
  | bSlices
  | ctuQpDelta
  | deblocking
  | sao
  | longTermRefs
  | recoveryPointSei
  -- HEVC, not used
  | tiles
  | dependentSlices
  | pcm
  | transquantBypass
  | constrainedIntra
  | rangeExtension
  | chromaQpAdjust
  | pictureHashSei
  -- VVC, not used
  | bdof
  | dmvr
  | smvd
  | lmcs
  | palette
  | ibc
  | act
  | bdpcm
  | chromaTransformSkip
  | referenceResampling
  | rasterSlices
  | tileRows
  | lossless
  -- both, not used
  | wavefront
  | weightedPrediction
  | scalingLists
  | temporalSublayers
  deriving DecidableEq, Repr

/-- The tools of R201's first column. -/
def hevcTools : List Tool :=
  [.transform4To32, .intra35, .strongIntraSmoothing, .asymmetricMotion, .merge5, .amvp, .transformSkip4, .signHiding, .skip, .tmvp,
   .bSlices, .ctuQpDelta, .deblocking, .sao, .longTermRefs, .recoveryPointSei]

/-- The tools of R202's first column, without subpictures and virtual boundaries. -/
def vvcTools : List Tool :=
  [.binaryTernarySplit, .dualTree, .intra67, .mrl, .isp, .mip, .cclm, .mts, .lfnst, .sbt, .transformSkip32, .jointCbCr, .dependentQuant,
   .merge6, .mmvd, .sbTmvp, .affine, .prof, .amvr, .gpm, .ciip, .bcw, .alf, .ccAlf, .gdrPictures, .skip, .tmvp, .bSlices, .ctuQpDelta,
   .deblocking, .sao, .longTermRefs]

/-- The tools that a channel uses (R201, R202): subpictures when enabled, virtual boundaries during gradual decoding refresh. -/
def usedTools (vvc subpic gdr : Bool) : List Tool :=
  if vvc then vvcTools ++ (if subpic then [.subpictures] else []) ++ (if gdr then [.virtualBoundaries] else []) else hevcTools

/-- A motion vector: an entry of the reference lists, and quarter luma samples (R203). -/
structure Mv where
  entry : Nat
  dx    : Int
  dy    : Int
  deriving DecidableEq, Repr, Inhabited

/-- A coding unit: its luma rectangle within the picture, and how it is predicted. -/
structure Cu where
  x     : Nat
  y     : Nat
  w     : Nat
  h     : Nat
  intra : Bool
  skip  : Bool
  merge : Option Nat      -- merge_idx
  luma  : Nat             -- intra: luma mode
  derivedChroma : Bool    -- intra: chroma mode derived from luma
  mvs   : List Mv         -- every vector that it or a sub-block of it uses
  tools : List Tool
  tuDepth : Nat           -- HEVC: depth of its transform tree
  tus : List Nat          -- HEVC: sizes of its transform blocks
  residual : Option Nat   -- a number that names its residual; none where every coded-block flag is 0
  qpDelta : Bool
  deriving DecidableEq, Repr, Inhabited

/-- The syntax of a CTU. -/
structure CtuSyn where
  cus     : List Cu
  saoLeft : Bool          -- sao_merge_left_flag
  sao     : Option Nat    -- SAO parameters of its own, none where SAO is off
  alf     : Option Nat    -- VVC: ALF and CC-ALF CTB flags and indices, none where all are 0
  deriving DecidableEq, Repr, Inhabited

/-- What the decoding of one CTU may read (R203, R208, R212, R213, R217): the stream before it and the pictures it refers to. Samples
are by component, column and line. -/
structure RecIn where
  words  : List Nat       -- the channel's live configuration that shapes coding
  poc    : Nat
  idr    : Bool
  gdr    : Option (Nat × Nat)
  col    : Nat
  row    : Nat
  qp     : Int
  refs   : List (Nat × Bool)            -- the lists of R223: POC, long-term
  filters : Nat                         -- the picture's ALF APS
  refPx  : Nat → Nat → Int → Int → Nat  -- samples of a list entry, within the window and padded
  refField : Nat → Nat → Nat → List Byte -- motion field of a list entry, by CTU column and row
  curPx  : Nat → Nat → Nat → Nat        -- reconstructed samples of this picture that may be read
  curCus : List Cu                      -- coding units of this picture that may be read
  slice  : List CtuSyn                  -- CTUs of its slice before it

/-- What the coding of one CTU may read (R216): nothing else shapes a coded bit. -/
structure CtuIn extends RecIn where
  input  : Nat → Nat → Nat → Nat        -- the furrow's input in the coded sampling and depth

/-- What in-loop filtering reads of a picture: one rectangle of its CTUs, over whose edges it does not go (R207, R208). -/
structure FilterIn where
  words  : List Nat
  idr    : Bool
  filters : Nat
  zone   : Nat × Nat × Nat × Nat        -- first and last furrow, first and last CTU column
  px     : Nat → Nat → Nat → Nat        -- reconstructed samples of the zone before filtering
  syn    : List (Nat × Nat × CtuSyn)    -- its CTUs by column and row
  qps    : List (Nat × Nat × Int)

/-- The HRD as it is signalled (R233), each value rounded up to the codec's units. -/
structure Hrd where
  tick     : Nat          -- num_units_in_tick
  scale    : Nat          -- time_scale
  tickDivisor : Nat
  duParams : Bool         -- sub-picture or DU parameters, in the picture timing SEI
  vclOnly  : Bool
  bitRate  : Nat
  cpbSize  : Nat          -- of the picture and of the DU
  cbr      : Bool
  lowDelay : Bool
  deriving DecidableEq, Repr, Inhabited

/-- A sequence parameter set, and what HEVC's video parameter set repeats of it (R196–R202, R207, R223, R233). -/
structure Sps where
  profile  : Nat
  tier     : Bool
  level    : Nat
  sampling : Nat
  depth    : Nat
  width    : Nat
  height   : Nat
  ctu      : Nat
  tools    : List Tool    -- signalled as enabled; every other one as disabled
  pocBits  : Nat          -- bits of the POC LSB (R204)
  longTerm : Bool         -- long-term reference pictures enabled, always (R223)
  dpb      : Nat
  primaries : Nat
  transfer : Nat
  matrix   : Nat
  fullRange : Bool
  hrd      : Hrd
  subpics  : List (Nat × Nat)   -- furrows of each subpicture: first, last
  deriving DecidableEq, Repr, Inhabited

/-- What a slice header or a picture header signals of the references (R223). -/
structure RefSig where
  short : List Nat        -- S(n): POC deltas from the picture, falling POC
  long  : List (Nat × Option Nat)   -- L(n): POC LSB, and the MSB cycle where the standard requires it
  collocated : Nat        -- entry of list 0
  deriving DecidableEq, Repr, Inhabited

/-- A NAL unit before the first slice of a picture, but for the freshness record (R205, R234). Each parameter set has identifier 0. -/
inductive Nal where
  | aud (idr : Bool)
  | vps (p : Sps)
  | sps (p : Sps)
  | pps (tileCols : List Nat) (tools : List Tool)       -- first CTU column of each VVC tile
  | aps (filters : Nat)
  | pictureHeader (poc : Nat) (idr : Bool) (gdr : Option Nat) (refs : RefSig) (boundary : Option Nat)   -- GDR: recovery POC count; virtual boundary in luma columns
  | buffering (delay : Nat)                              -- 90 kHz ticks
  | timing (dus : List (Nat × Nat))                      -- per decoding unit: removal delay in sub-ticks from T_n, NAL units
  | recovery (count : Nat) (exact broken : Bool)
  deriving DecidableEq, Repr, Inhabited

/-- What the bits of a slice come from: the picture, the slice's place, its reference signalling, and its CTUs with their QPs. -/
structure SliceSyn where
  words  : List Nat
  poc    : Nat
  idr    : Bool
  gdr    : Option (Nat × Nat)
  row    : Nat
  index  : Nat
  refs   : RefSig
  ctus   : List (CtuSyn × Int)
  deriving DecidableEq, Repr, Inhabited

end Sys2Proof
end

