-- ==== Sys2Proof/Config.lean ====
section
/-! DEFINITION. What an implementation fixes, and the values the manual leaves open: constants without a body, so that
nothing proved can rest on their value. -/

namespace Sys2Proof

/-- The part's PTP clock identity (R471): the spec gives none. -/
opaque Config.clockIdentity : Nat → Nat

/-- ECDSA P-384 signature by the private key of a public key (R497): it rests on that key and on a number drawn for it. -/
opaque Config.ecdsaSign : BitVec 768 → List Byte → List Byte

/-- The public key that the boot ROM generates; drawn from the part's noise source (R497). -/
opaque Config.newIdentity : Nat → BitVec 768

/-! ## The coding tools. The standards H.265 and H.266 and the engines' choices among what they allow are not part of the manual: each
is a function without a body of what R216 lets it depend on. -/

/-- How the engines code a CTU normally: motion search and mode decision. Its reader holds it to R201–R203. -/
opaque Config.encodeCtu : CtuIn → CtuSyn

/-- The bits that a CTU's syntax takes in its slice's arithmetic code, emulation prevention included; with the slice's alignment,
termination and trailing bits where it is the slice's last (R245). -/
opaque Config.ctuBits : RecIn → CtuSyn → Bool → Nat

/-- The vectors of a merge candidate: the coding unit's rectangle (x, y, width, height) and merge_idx. -/
opaque Config.mergeMvs : RecIn → Nat × Nat × Nat × Nat → Nat → List Mv

/-- A reconstructed sample of a CTU before in-loop filtering: component, column, line. A decoder's standard gives it,
from what a decoder has: the syntax that the slice's bytes carry and the samples before it, never the input (R217). -/
opaque Config.reconPx : RecIn → CtuSyn → Nat → Nat → Nat → Nat

/-- A sample after deblocking, SAO and ALF: component, column, line. -/
opaque Config.filterPx : FilterIn → Nat → Nat → Nat → Nat

/-- Luma rows at the bottom of a furrow whose in-loop filtering waits for the next furrow (R195), by codec: HEVC false, VVC true. -/
opaque Config.lateRows : Bool → Nat

/-- The ALF filters of a picture (R205), derived from the samples of earlier pictures: component, column, line. -/
opaque Config.alfFilters : List (Nat → Nat → Nat → Nat) → Nat

/-- A byte of a CTU's part of the motion field as it is kept in a stall (R219). -/
opaque Config.fieldByte : CtuSyn → Nat → Byte

/-- Bits of a slice header without reference signalling, for a slice with no CTU yet; R240 gives its bound. -/
opaque Config.sliceHeaderBits : SliceSyn → Nat

/-- A byte of a slice NAL unit after its NAL unit header. -/
opaque Config.sliceByte : SliceSyn → Nat → Byte

/-- What follows the NAL unit header in a NAL unit before the first slice, by codec. -/
opaque Config.nalPayload : Bool → Nal → List Byte

/-- The taps of an initial preset of IEEE 802.3ck, in the layout of `PHY_TXEQ` (R450). -/
opaque Config.presetTaps : Nat → Word

/-- How far the timestamp of a PTP event frame lies from the die's time copy, in ns, by the number of free values drawn before: R449
gives its bound, ±4 ns, which its reader applies. -/
opaque Config.stampError : Nat → Int

/-- Whether ARP has resolved a next hop on a port: lane, address and instant (R347). -/
opaque Config.nextHopResolved : Nat → Word → Nat → Bool

/-- A sequence number that the manual does not state (R383: a restart with no record received). -/
opaque Config.freeSeq : Nat → Nat

/-- What the bytes of a stream come to for the pictures that follow (parameter sets and the like): what the earlier bytes came to, and
the bytes of one access unit with its loss marks. -/
opaque Config.streamKey : Nat → List (Option Byte) → Nat

/-- What an access unit decodes to, as a number that names the decoding: codec, the stream before it, its bytes, and the samples of
each picture it refers to (decodings and their CTUs). What a decoder reconstructs is its standard's, bit by bit (R269); the standards
are not part of the manual, so it is a function without a body. -/
opaque Config.decodePicture : Nat → Nat → List (Option Byte) → List (List (Nat × List (Nat × Nat))) → Nat

/-- A sample of a decoding: component, column and line, chroma at half resolution both ways. Its reader keeps it to the bit depth. -/
opaque Config.decodedSample : Nat → Nat → Nat → Nat → Nat

/-- A chroma sample of 4:2:2 that stands between two chroma lines of 4:2:0: whether it lies in the upper or the lower line of their pair,
the sample above and the sample below. R177 upsamples 4:2:2 and does not say how 4:2:0 becomes 4:2:2. -/
opaque Config.chromaLine : Nat → Nat → Nat → Nat

/-- What a decoded layer shows before its source has ever offered it a picture (R171 does not say): layer, column, line. -/
opaque Config.unshownSample : Nat → Nat → Nat → Nat

/-- A sample that the sample-rate converter of a TDM input slot yields: port, slot, sample index. The manual gives the ratio
(R410) and no filter, so it is free. -/
opaque Config.asrcIn : Nat → Nat → Nat → Int

/-- A sample that the converter of a TDM output slot yields: port, slot, frame. -/
opaque Config.asrcOut : Nat → Nat → Nat → Int

/-- By how many slots a FIFO that ran empty or full has moved the channels of a TDM port (R415), and whether it left the sample of a slot
missing: the instant's free number, and the slot. -/
opaque Config.tdmSkew : Nat → Nat
opaque Config.tdmMissing : Nat → Nat → Bool

/-- Whether the skew of a port's lanes is within the deskew range of its form (R446): its first lane, and how often each lane has come
up. -/
opaque Config.deskewed : Nat → List Nat → Bool

/-- The 384-bit hash of the firmware's public key in the one-time fuses (R484). -/
opaque Config.keyHash : BitVec 384

/-- The set records that the firmware makes of a settings blob of another format: the format it converts to, and the blob. The
manual says that it converts (R490) and not how. -/
opaque Config.convertSettings : Nat → List Word → List Word

/-- Bytes that a command programs into flash besides the bytes it copies: the directory's layout is internal (R482). -/
opaque Config.directoryBytes : Nat

/-- Sectors erased for so many bytes; the flash device's sector size is its own (R482, R492). -/
opaque Config.flashSectors : Nat → Nat

/-- Bytes done so far by a flash command that is under way (R491). -/
opaque Config.bytesDone : Nat → Nat

/-- Bytes of a frame that the firmware sends for a service (IGMP, NMOS): the queue it joins and how many free values were
drawn before. The manual names the protocols and not their frames' lengths. -/
opaque Config.serviceBytes : Nat → Nat → Nat

/-- What the blocks read and wrote that the model does not follow, up to an instant: counters 32 + i and 48 + i of an MC page (R313). -/
opaque Config.unitTraffic : Nat → Nat → Nat → BitVec 64

end Sys2Proof
end

