-- ==== Sys2Proof/Machine/State.lean ====
section
/-! DEFINITION. The state of a VL-800 part, as plain data: every register, table, buffer, queue, counter and mode the
manual names. Sparse tables (`Tbl`) hold only what differs from the reset value, so equal machines are equal data. Each
structure's docstring names the rules it holds the state of. -/

namespace Sys2Proof.Machine

open Sys2Proof

/-- Why a command stops the model: never. No rule of the spec stops the part, so no meaning ends in a fault, and the type has no
value; an event that names a unit which the variant lacks is discarded as R4 discards an access to one. -/
inductive Fault where
  deriving DecidableEq, Repr

/-- Why a command has no meaning here. -/
inductive Refusal where
  /-- A command whose meaning is not written yet: raised by its arm of `exec` alone. A safe stop. -/
  | notModelled (mnemonic : String)
  deriving DecidableEq, Repr

/-- The three variants (R1, R2). -/
inductive Variant where
  | vl820
  | vl840
  | vl880
  deriving DecidableEq, Repr

/-- A UDP datagram that a port sends (R315, R334): the port's MAC address (R347), addresses, ports, DSCP, time to live, its tag
(PCP, VLAN), and its payload. -/
structure Dgram where
  mac     : Nat
  src     : Word
  dst     : Word
  sport   : Nat
  dport   : Nat
  dscp    : Nat
  ttl     : Nat
  tag     : Option (Nat × Nat)
  payload : List Byte
  deriving DecidableEq, Repr

/-- The kinds of resources that the part registers (R473). -/
inductive NmosKind where
  | node
  | device
  | source
  | flow
  | sender
  | receiver
  deriving DecidableEq, Repr

/-- What the part has put on its links and pins, newest first in `State.out`. -/
inductive Out where
  | read (value : Word)                                   -- data of a completed read
  | readBytes (bytes : List Byte)                         -- data of an aperture read
  | msix (vector addr : Nat) (data : Word)                -- R426
  | frame (lane cls flow path len seq : Nat) (rec : List Byte) (ip : Option Dgram)   -- a frame started on an Ethernet transmitter (R333)
  | hbPulse (width : Nat)                                 -- R376
  | yoke (lane : Nat) (bytes : List Byte)                  -- a yoke frame (R394) on a lane (R456)
  | igmpReport (lane : Nat) (group src : Word) (ssm : Bool)
  | igmpLeave (lane : Nat) (group : Word)
  | sap (flow : Nat) (deletion : Bool)
  | nmosHeartbeat
  | nmosRegister (resources : List (NmosKind × Nat))      -- R473: each resource with its identity
  | is05Answer (code cause set instant : Nat)             -- R474: HTTP code, CAUSE or the set's state code, activation time
  | delayReq (lane : Nat) (unicast : Bool) (seq : Nat)
  | wakeBurst (lane : Nat)                                -- R457
  | tdmOut (port : Nat) (bits : List (Option Bool))       -- DOUT at each bit clock of a frame; none: high impedance
  | audio (service first : Nat) (samples : List Int)      -- payload of an audio packet (R403)
  deriving DecidableEq, Repr

/-- The common header of a page (R41–R49, R52): what software and events change in it. -/
structure PageHdr where
  stat  : Word := 0
  again : Nat := 0
  imask : Word := 0xFFFFFFFF
  evtEn : Bool := false
  evtSrc : Nat := 0
  fault : Bool := false        -- READY.FAULT (R44)
  dirty : Bool := false        -- STAGE_GEN.DIRTY (R52)
  base  : Nat := 0             -- STAGE_GEN.BASE
  deriving DecidableEq, Repr

/-- The states of a commit set (R61). -/
inductive SetState where
  | idle
  | queued
  | check
  | apply
  | done
  | failed
  deriving DecidableEq, Repr

/-- What a set in CHECK still waits for after its own tests have passed. -/
inductive CheckPhase where
  | tests        -- the ordered tests run
  | domains      -- needed domains power up (R102)
  | vote         -- an active awaits the standby's VOTE (R365)
  | decision     -- a standby awaits the DECIDE
  deriving DecidableEq, Repr

/-- The single registers of a commit set (R56, R60, R61), and the entry as it stood when `COMMIT` was written (R57). -/
structure CSet where
  st    : SetState := .idle
  phase : CheckPhase := .tests
  gen   : Nat := 0
  cause : Nat := 0
  whr   : Word := 0
  crc   : Word := 0
  live  : Nat := 0
  passed : Bool := false        -- the set has passed since the last reset
  passGen : Nat := 0            -- the generation that a passing set takes while it waits for its domains (R102, R367)
  entry : List Word := []
  began  : Nat := 0            -- when its check started
  effect : Nat := 0            -- E of R366: no word takes effect before it; 0 for none
  deriving DecidableEq, Repr

/-- Resets in force, the life cycle, sleep and the power domains (R72–R109). -/
structure Pwr where
  supplied  : Bool := false    -- every rail within its operating range (R506, R508)
  hold      : Bool := false    -- the 2 ms internal hold runs (R78, R508)
  perst     : Bool := false    -- PERST# is asserted
  perstHolds : Bool := false   -- PERST# holds the part in reset (R79, R80)
  causeBits : Nat := 0         -- cause bits to set at the release
  originAt  : Nat := 0         -- when the bring-up origin was (R80)
  perstMode : Bool := false    -- PWR_RESET_CFG.PERST_MODE (RWS)
  cause     : Word := 0        -- PWR_RESET_CAUSE (RWS)
  fuses     : Nat := 0         -- blown life-cycle fuses (R92)
  armed     : Bool := false    -- PWR_LC.ARMED
  target    : Nat := 0         -- the armed TARGET
  asleep    : NSet := []
  sleepReg  : NSet := []       -- bits of PWR_SLEEP (R105)
  entering  : NSet := []
  waking    : NSet := []
  wakeWanted  : NSet := []     -- wake requests during entry (R107)
  sleepWanted : NSet := []     -- sleep requests during waking (R107)
  wakeStep  : Tbl Nat := []    -- per die: steps of R108 passed, 1 to 5
  domUp     : NSet := []       -- package domains 16 d + index that are up
  domRising : NSet := []       -- powering up
  domFault  : NSet := []
  domHold   : Tbl Nat := []    -- per die: PWR_DOM_HOLD
  domOnce   : NSet := []       -- domains brought up once since the bring-up origin (R81)
  ctrlZero  : NSet := []       -- dies whose control-core store is zeroised (R88)
  trained   : NSet := []       -- dies whose DRAM training ended (R309)
  granules  : Tbl Nat := []    -- per die: granules wiped, 0 to 60 (R89)
  sramZero  : NSet := []       -- dies whose remaining SRAM is zeroised
  pkgReady  : Bool := false    -- the 20 ms step of R81
  fwReady   : Bool := false    -- the 35 ms step
  laneCal   : NSet := []       -- lanes calibrated; 32 + i is YKi
  deriving DecidableEq, Repr

/-- What the PTP servo holds of a port (R141, R449, R471): the timestamps of the delay request-response mechanism. -/
structure PtpPort where
  syncSeq : Nat := 0
  t1      : Option Int := none  -- the last Sync left the master
  t2      : Option Int := none  -- it passed the part's pins, by the lane's timestamp
  master  : Word := 0           -- address of the chosen master
  reqSeq  : Nat := 0            -- sequenceId of the last Delay_Req
  t3      : Option Int := none  -- it passed the part's pins
  t4      : Option Int := none  -- it reached the master
  deriving DecidableEq, Repr

/-- Media time (R120–R129, R519). Times are ns after the ST 2059-1 epoch. -/
structure TimeSt where
  now      : Nat := 0
  quality  : Nat := 4          -- R124; FREERUN
  qualLog  : List (Nat × Nat) := []   -- changes of quality, newest first: the instant, and the quality before it
  source   : Nat := 2          -- TIME_STATE.SOURCE
  err      : Nat := 0xFFFFFFFF
  e0       : Nat := 0
  age      : Nat := 0
  eligPtp  : Bool := false
  eligRef  : Bool := false
  offPtp   : Int := 0          -- offset of the reference from media time when it became eligible
  offRef   : Int := 0
  everPtp  : Bool := false     -- PTP locked since the last cold or warm reset
  bound    : Option Nat := none -- offset bound of a PTP lock that awaits its step
  step     : Option Int := none -- a step awaits the next package furrow boundary (R128)
  grandmaster : Nat := 0
  syncInterval : Int := 0      -- logMessageInterval of the last Sync accepted (R123)
  crystalOk : Bool := true
  ptp      : Tbl PtpPort := []  -- by the first lane of a port
  deriving DecidableEq, Repr

/-- Channel states (R117). -/
inductive ChState where
  | idle
  | armed
  | running
  | draining
  | faulted
  deriving DecidableEq, Repr

/-- A CTU as it was coded (R236, R245, R252): bits of the slice it began, its own bits, how it was coded, its QP, its syntax. -/
structure CtuLog where
  hdr     : Nat
  cost    : Nat
  fallow  : Bool
  guarded : Bool
  qp      : Int
  syn     : CtuSyn
  deriving DecidableEq, Repr

/-- One furrow of a picture in progress: its points (R130, R155, R189, R195, R241, R249) and what the drill and the
marks hold for it (R137, R187, R241–R253). -/
structure Fur where
  composing  : Bool := false
  composeAt  : Nat := 0
  complete   : Bool := false   -- furrow-complete or canvas point passed
  live       : Bool := false   -- carries content of this picture
  stale      : Nat := 0        -- stale-layer bits
  inputStale : Bool := false
  concealed  : Bool := false
  planted    : Bool := false
  cap        : Int := 0
  capTerm    : Nat := 0        -- 0 borrowing, 1 yard, 2 reserve (R252)
  capReserve : Bool := false   -- the reserve term equals the cap (R247)
  baseQp     : Int := 0
  log        : List CtuLog := []  -- CTUs coded by the engines, first one first
  ctus       : Nat := 0        -- CTUs coded, those of the fallow path included
  sliceBits  : List Nat := []  -- bits of each begun slice, first slice first
  fallow     : Nat := 0
  latch      : Bool := false   -- furrow latch (R246)
  picLatch   : Bool := false   -- the picture latch was set in this furrow (R247)
  written    : Bool := false   -- its reconstruction is in the stall (R195, R212)
  coded      : Bool := false
  dlTested   : Bool := false
  dlFallow   : Bool := false   -- deadline fallow began
  emptyCut   : Bool := false
  role       : Nat := 0        -- part's yoke role at the coded point, as carried in records
  quality    : Nat := 4        -- TIME_STATE.QUALITY at the capture point
  packed     : Bool := false
  deriving DecidableEq, Repr

/-- A reference or finished picture of a barn: its index, POC and whether it is long-term (R220). -/
structure RefPic where
  n   : Nat
  poc : Nat
  lt  : Bool
  deriving DecidableEq, Repr

/-- One decoding that a picture's samples come from (R258, R265, R266): its number in `Config.decodePicture`, its geometry, whether
its samples have 8 bits, and the runs of CTUs (first, count) that slices decoded correctly. -/
structure DecLayer where
  key    : Nat
  width  : Nat
  height : Nat
  ctu    : Nat
  eight  : Bool
  good   : List (Nat × Nat)
  deriving DecidableEq, Repr

/-- A decoded picture of a source, in a stall (R258, R261, R265–R267). Where its first decoding covers no sample, the next one's
collocated sample stands. -/
structure DecPic where
  due       : Int               -- due time, in ninths of a ns
  concealed : Bool
  width     : Nat
  height    : Nat
  idx       : Nat               -- access unit number
  order     : Int
  isRef     : Bool              -- still marked as a reference
  stall     : Nat
  layers    : List DecLayer
  pinned    : Nat               -- canvas pictures showing it
  deriving DecidableEq, Repr

/-- A decoded picture as a layer shows it (R171): its source, and whether it is marked concealed. -/
structure ShownDec where
  source    : Nat
  pic       : DecPic
  concealed : Bool
  deriving DecidableEq, Repr

/-- One picture in progress of a channel: what is fixed at its boundary (R130, R204–R208, R220, R232, R235, R240, R248)
and its furrows. `cfg` is the channel's configuration as it stood at T_n; `flows` the flow-table entries of its services. -/
structure Pic where
  n        : Nat := 0
  shift    : Int := 0           -- media-time step that shifted its remaining furrows (R129)
  cfg      : Tbl Word := []
  flows    : List (Nat × List Word) := []
  svcs     : List (Nat × List Word) := []  -- services it packs (R320), with their YARD words at T_n
  gen      : Nat := 0
  partId   : Nat := 0
  idr      : Bool := false
  poc      : Nat := 0
  lt       : Bool := false
  gdrFirst : Bool := false
  gdr      : Option (Nat × Nat) := none   -- (j, G) of a cycle in progress
  idrCount : Nat := 0
  sRefs    : List RefPic := []
  lRefs    : List RefPic := []
  lead     : List (List Byte) := []    -- leading NAL units of furrow 0
  refSig   : RefSig := { short := [], long := [], collocated := 0 }
  filters  : Nat := 0          -- its ALF APS (R205)
  rho      : Nat := 0
  budget   : Int := 0
  overhead : Nat := 0
  bank     : Int := 0
  baseQp   : Int := 0
  mode     : Nat := 0
  prevHeld : Nat := 0          -- held-picture count of the picture before
  heldAll  : Bool := false     -- every furrow carries HELD (R326, R383, R388)
  heldAdd  : Nat := 0          -- pictures not emitted, added to HELD_COUNT after re-seating
  heldFrom : Option Nat := none -- HELD from this furrow on, after a takeover
  marks    : List Nat := []    -- stall marks at T_n, after R221
  stallPoc : List (Bool × Nat) := []
  pins     : Nat := 0
  ckptHeld : Bool := false     -- a checkpoint was held at T_n, one taken there included (R222, R370)
  seqFirst : List Nat := []    -- sequence number of each video service's first packet
  layerPic : Tbl (Option Int) := []  -- source picture m shown by a live-input layer, by LAYER page index
  offers   : List (Nat × Int × Bool) := []  -- decoded pictures offered: layer, due time, concealed
  shown    : List (Nat × ShownDec) := []  -- decoded pictures shown, those kept included, by LAYER page index
  fenced   : Bool := false     -- the fences were read (R183)
  fences   : Tbl Nat := []     -- FLIPPED of each flip group for this picture
  flippedG : NSet := []        -- groups that flipped at T_n
  staleL   : NSet := []        -- layers stale for this picture, by LAYER page index
  captions : List Nat := []
  ended    : Bool := false     -- picture end
  furs     : Tbl Fur := []
  deriving DecidableEq, Repr

/-- What the drill keeps of a finished picture (R232, R248). -/
structure PicSum where
  n      : Nat
  idr    : Bool
  bits   : Nat
  budget : Int
  fallow : Nat
  mode   : Nat
  baseQp : Int
  deriving DecidableEq, Repr

/-- A stall of a barn and its mark: 0 FREE, 1 CURRENT, 2 SHORT, 3 LONG, 4 CHECKPOINT (R221). -/
structure Stall where
  mark : Nat := 0
  poc  : Nat := 0
  n    : Nat := 0
  pin  : Bool := false
  deriving DecidableEq, Repr

/-- A channel: its state, pictures in progress, barn and drill state (R117–R253), and its re-seating (R385–R390). -/
structure Chan where
  st       : ChState := .idle
  armedAt  : Nat := 0
  next     : Nat := 0          -- index of the next picture
  any      : Bool := false     -- a picture has begun since the channel left ARMED
  begun    : Nat := 0          -- pictures begun since the reset
  first    : Nat := 0          -- that count at the first picture since the channel left ARMED
  pics     : List Pic := []    -- pictures in progress, oldest first
  sums     : List PicSum := [] -- finished pictures, newest first
  heldCount : Nat := 0
  mode     : Nat := 3          -- drill mode of the last picture; 3 before the first
  hrd      : Nat × Nat := (0, 0)  -- signalled bit rate and CPB size of the last picture
  idrKey   : List Nat := []    -- CH_VUI, CH_SLICE and band count of the last picture (R206)
  bank     : Int := 0
  bankLow  : Bool := false
  gen      : Nat := 0          -- generation in effect: LIVE_GEN of the set that holds the CH page (R71)
  poc      : Nat := 0
  stalls   : Tbl Stall := []
  sRefs    : List RefPic := []
  lRefs    : List RefPic := []
  last     : Option RefPic := none
  gdr      : Option (Nat × Nat) := none
  gdrKey   : Nat × Nat := (0, 0)  -- MODE and PERIOD of the last picture
  gdrNext  : Option Nat := none   -- a cycle of this length begins at the next picture
  sinceIdr : Nat := 0          -- pictures since the last IDR picture
  periodN  : Nat := 0          -- the count of MODE 0x2 (R208)
  capM     : Option Nat := none -- source picture whose captions were taken last (R209)
  holdNext : Bool := false     -- every furrow of the next picture carries HELD
  token    : Nat := 0
  forceIdr : Bool := false     -- the next picture is IDR (R383)
  forceInv : Option Nat := none -- an INVALIDATE of R388 awaits the next picture
  ckpt     : Option Nat := none  -- a checkpoint is held; POC LSB of its boundary's picture
  ckptSeat : Bool := false     -- it was taken for re-seating (R387)
  ckptWant : Bool := false     -- a resync checkpoint is requested
  notBefore : Nat := 0         -- no picture begins before this instant (R129, R383, R388)
  realign  : Bool := false
  passed   : Nat := 0          -- boundaries passed over at earlier steps of this re-alignment
  passFrom : Nat := 0          -- the first boundary passed over on the present timeline
  seat     : Option Nat := none -- local channel number 32 die + local on which it is re-seated
  mirrored : Option Nat := none -- last picture whose mirror point has passed
  mirrorRec : Option Record := none -- its record, in SPARE_DIE's memory
  lastRec  : Option Record := none  -- record of the last picture that ended, of a channel that is mirrored (R387)
  mirrorInit : Bool := false   -- the first copy of R387 is done
  silent   : Nat := 0          -- boundaries at which no picture was emitted (R326)
  deriving DecidableEq, Repr

/-- An RTP packet of a service before any encryption (R318–R320, R328). Its SSRC is the flow's. -/
structure RtpPkt where
  seq     : Nat
  roc     : Nat                 -- rollover counter (R322)
  ts      : Nat
  marker  : Bool
  pt      : Nat
  ext     : List Byte := []     -- the header extension of R328, empty for none
  payload : List Byte := []
  record  : List Byte := []     -- the freshness record that it carries or begins to carry; empty for none
  recAt   : List (Nat × Nat) := []   -- bytes of the record's NAL unit in the payload: which byte of the unit, and where
  deriving DecidableEq, Repr

/-- A built packet of a service waiting for its release (R318–R321, R337, R338). -/
structure Pkt where
  svc     : Nat
  ch      : Nat
  n       : Nat
  furrow  : Nat
  idx     : Nat                 -- 0 for the first packet of its furrow
  kind    : Nat                 -- 0 media, 1 column FEC, 2 row FEC
  rtp     : RtpPkt              -- of a FEC packet its header alone
  covers  : List RtpPkt         -- the media packets that a FEC packet covers, and
  fecStep : Nat                 -- how far apart they stand
  part    : Nat                 -- PART_ID at T_n
  ipLen   : Nat
  release : Nat
  last    : Bool                -- last packet of its picture
  flows   : List (Nat × List Word)
  dual    : Bool
  srtp    : Nat
  key     : Nat
  deriving DecidableEq, Repr

/-- A video or audio service (R314, R320, R321, R319). -/
structure Svc where
  active : Bool := false
  seq    : Nat := 0
  roc    : Nat := 0
  fecCol : Nat := 0
  fecRow : Nat := 0
  fecPos : Nat := 0
  ccVideo : Nat := 0
  ccPmt  : Nat := 0
  ccPat  : Nat := 0
  queue  : List Pkt := []
  fecPkts : List (Nat × RtpPkt) := []   -- media packets of the current matrix, by position
  fecShape : Option (Nat × Nat × Nat) := none  -- FEC, FEC_L and FEC_D of the current matrix, once one is begun
  lapsed : Bool := false        -- became invalid at a package furrow boundary since the last picture boundary (R320)
  ccAudio : Tbl Nat := []       -- continuity counters of the audio PIDs, by audio service
  next   : Nat := 0             -- audio: index of the next packet
  deriving DecidableEq, Repr

/-- A flow-table entry in effect (R336): the service it has joined and the words it sends under. -/
structure Flow where
  joined : Option Nat := none
  words  : List Word := []
  stopAt : Nat := 0             -- when its stop bit was set (R352)
  shape  : Nat × Nat := (0, 0)  -- rate and burst that its buckets last took (R340)
  tokA   : Nat := 0             -- subscriber buckets, in 1/8,000,000,000 byte
  tokB   : Nat := 0
  lastA  : Nat := 0
  lastB  : Nat := 0
  waitFrom : Option Nat := none  -- cleared at this instant, and not yet at a furrow's first packet (R352)
  resumeAt : Nat := 0           -- release of the packet at which it resumed
  target : Option Nat := none   -- service it waits to join (R336)
  counts : List Nat := [0, 0, 0, 0, 0, 0]   -- counters 16 to 21 of the FLOW page for it
  deriving DecidableEq, Repr

/-- A frame waiting at a port (R332, R342, R343). -/
structure QFrame where
  flow    : Nat := 0
  path    : Nat := 0
  release : Nat := 0
  len     : Nat := 0            -- destination MAC through FCS, tag included
  seq     : Nat := 0
  furrow0 : Bool := false       -- first packet of a furrow, or any audio packet
  heldWin : Bool := false       -- already counted as held in this window
  record  : List Byte := []
  ip      : Option Dgram := none
  yoked   : Bool := false       -- a packet of a yoked channel, for muting
  ch      : Nat := 0
  deriving DecidableEq, Repr

/-- A gate control list with its base and cycle (R346, R350). -/
structure GList where
  base    : Nat
  cycle   : Nat
  entries : List (Nat × Nat)    -- gates, interval
  start   : Nat
  deriving DecidableEq, Repr

/-- A port's transmitter (R332–R352), keyed by its first lane. -/
structure PortTx where
  busyTo  : Nat := 0            -- the wire is idle from this instant
  ptpQ    : List QFrame := []
  mgmtQ   : List QFrame := []
  media   : List QFrame := []
  anc     : List (List QFrame) := [[], [], [], [], [], []]
  deficit : List Nat := [0, 0, 0, 0, 0, 0]
  drrNext : Nat := 0
  visited : Bool := false
  tokPort : Nat := 0
  tokMgmt : Nat := 0
  lastFill : Nat := 0
  oper    : Option GList := none
  pend    : Option GList := none
  quenchAt : Nat := 0           -- when its quench bit was set (R352)
  mgmtBuf : Nat := 0            -- bytes of the management ingress buffer in use, other frames
  cmdBuf  : List (Nat × Nat) := []  -- command frames in its share: arrival, bytes
  shapeWait : Option QFrame := none  -- the media or ancillary frame that waits for the port shaper (R341)
  wait    : Word := 0           -- `FLOW_PORT_WAIT` as computed last (R351)
  heldQ   : Option Nat := none  -- ancillary queue whose frames a gate holds: first at the next window (R343)
  waitFrom : Option Nat := none  -- unquenched at this instant (R352)
  resumed : NSet := []          -- flows that have resumed since
  deriving DecidableEq, Repr

/-- A line of a buffered input picture: 0 not fully written, 1 written, 2 being filled, 3 filled (R150, R152). -/
structure LineSt where
  segs : List (Nat × Nat) := []
  st   : Nat := 0
  deriving DecidableEq, Repr

/-- A buffered input picture (R149–R157). -/
structure SlotPic where
  lines   : Tbl LineSt := []
  ready   : Nat := 0
  any     : Bool := false       -- a segment was written
  filled  : Bool := false       -- a line was filled
  old     : List (Nat × Nat × List Nat) := []  -- ready lines written again: line, ready-line count and samples until then (R150, R156)
  anc     : List AncPkt := []   -- ancillary packets in arrival order after the merge (R157)
  deriving DecidableEq, Repr

/-- A video input slot in effect (R146–R155). -/
structure Slot where
  valid  : Bool := false
  first  : Nat := 0             -- first picture it accepts
  cuts   : List (Nat × Nat) := []  -- (picture, cut-off in µs of the pictures before it), oldest first (R148)
  whole  : Option Nat := none   -- its first complete picture (R153)
  pics   : Tbl SlotPic := []
  deriving DecidableEq, Repr

/-- A classifier entry in effect: its policer (R145), the copies it passed (R151) and its counters (R162). -/
structure Entry where
  valid  : Bool := false
  tok    : Nat := 0             -- in 1/8,000,000 byte
  last   : Nat := 0
  since  : Nat := 0             -- it became an entry of its pair at this instant
  passAt : Option Nat := none   -- arrival of the last copy that passed its policer since
  down   : Bool := false        -- PATH_DOWN, as looked at last
  counts : List Nat := [0, 0, 0, 0]
  deriving DecidableEq, Repr

/-- The merge of a pair, keyed by its path A entry (R151): highest extended number taken, and numbers taken with the
arrival of their first copy. -/
structure Merge where
  high  : Option Nat := none
  taken : List (Nat × Nat) := []
  deriving DecidableEq, Repr

/-- A flip group (R181–R186), keyed 64 die + group. -/
structure Group where
  flipAt   : Option (Nat × Nat) := none   -- last flip: the canvas's channel, and its count of pictures begun then
  flipped  : Nat := 0           -- FLIPPED
  released : Nat := 0           -- RELEASED
  releases : List (Nat × Nat × Nat) := []   -- (FLIPPED value, canvas's channel and picture whose last canvas point releases it)
  deriving DecidableEq, Repr

/-- A layer in effect: what it showed last (R168–R171). -/
structure LayerSt where
  ch      : Option Nat := none  -- channel of the canvas that shows it
  m       : Option (Nat × Int) := none   -- the SOURCE and the source picture of the canvas picture before
  shown   : Option ShownDec := none   -- decoded picture last shown
  deriving DecidableEq, Repr

/-- A compressed packet that waits behind a gap in the sequence (R159): its extended number, and whether the gap just before it has
been declared lost; its arrival, RTP timestamp and marker; PAYLOAD and TS_PID of its entry; its payload. -/
structure RtpIn where
  q       : Nat
  lost    : Bool
  at_     : Nat
  ts      : Nat
  marker  : Bool
  form    : Nat
  pid     : Nat
  payload : List Byte
  deriving DecidableEq, Repr

/-- The access unit that the stream is in (R259): it stays open until its marker or the next one begins, whether or not its decoding
has begun. -/
structure OpenAu where
  no    : Nat                   -- its number among the access units of the stream
  tau   : Nat
  pres  : Int
  first : Nat                   -- arrival of its first packet, ns
  got   : Bool                  -- a byte of it has come
  loss  : Bool                  -- a loss mark awaits its first stored byte
  deriving DecidableEq, Repr

/-- An access unit in the bitstream buffer, not yet decoded (R258–R260); a loss mark stands among its bytes as `none`. -/
structure AuSt where
  no     : Nat
  tau    : Nat
  pres   : Int                  -- presentation time, in ninths of a ns
  first  : Nat                  -- arrival of its first packet, ns
  data   : List (Option Byte)
  dons   : List (Nat × Nat) := []  -- interleaved units: decoding order number and place in `data`
  tail   : Nat := 0             -- what stands in `data` behind the unit put in last
  places : List (Nat × Nat) := []  -- where its bytes stand in the bitstream buffer: offset, length
  deriving DecidableEq, Repr

/-- An access unit whose decoding has begun (R260, R266). -/
structure DecJob where
  no     : Nat
  due    : Int
  idx    : Nat
  width  : Nat
  height : Nat
  ctu    : Nat
  order  : Int
  isRef  : Bool
  stall  : Nat
  hist   : Nat                  -- what the stream's earlier bytes come to in `Config.streamKey`
  data   : List (Option Byte)
  refs   : List (Option Nat)    -- pictures it refers to, by access unit number; none for mid-grey
  good   : List (Nat × Nat)     -- CTUs that correct slices have covered
  slices : Nat
  left   : Nat                  -- slices not yet decoded
  ruined : Bool                 -- VVC: the damaged picture header makes it a copy
  clean  : Bool                 -- the concealed state clears at it
  told   : Bool                 -- and RECOVERED has said so
  hurt   : Bool                 -- a slice of it was concealed
  bad    : Bool                 -- concealed so far
  deriving DecidableEq, Repr

/-- A decode source (R256–R267), keyed 64 die + source. -/
structure Dec where
  st        : Nat := 0          -- 0 IDLE, 1 AWAITING, 2 DECODING, 3 UNSUPPORTED
  anchor    : Option (Nat × Nat) := none   -- (timestamp, arrival) of an ARRIVAL source
  hidden    : Bool := false     -- concealed state (R267)
  recover   : List (Nat × Int) := []  -- access units that signal a recovery point to come, and the point's place in the order
  hist      : Nat := 0          -- `Config.streamKey` of the bytes consumed
  loss      : Bool := false     -- a loss mark awaits the next byte
  nextSeq   : Option Nat := none
  pts       : Option Nat := none  -- PTS of the last PES packet (MPEG-TS)
  held      : List Byte := []   -- the last bytes of the last TS packet, where a delimiter may begin
  opened    : Nat := 0          -- access units opened so far
  wrote     : Nat := 0          -- bytes written to the bitstream buffer so far
  params    : Option AccessUnit := none  -- the parameter sets in use, as the last access unit showed them (R266)
  waiting   : List RtpIn := []  -- packets beyond a gap, in sequence order
  open_     : Option OpenAu := none
  aus       : List AuSt := []
  auCount   : Nat := 0          -- access units numbered so far; it goes on through IDLE
  lastPres  : Option Int := none   -- of the last access unit the source decoded
  prevPres  : Option Int := none   -- of the last access unit that came up
  curs      : List DecJob := []    -- being decoded, oldest first
  pics      : List DecPic := []    -- newest first
  deriving DecidableEq, Repr

/-- A work item (R271–R276). -/
structure Item where
  slot    : Nat
  owner   : Nat
  kind    : Nat                 -- 0 ANALYSE, 1 CODE, 2 ENTROPY, 3 COMPOSE, 4 DECODE, 5 PACK
  ch      : Nat
  n       : Nat
  furrow  : Nat
  idx     : Nat
  mask    : Nat                 -- engines it may run on
  ready   : Option Nat
  queue   : Nat
  deadline : Nat
  unit    : Option Nat          -- unit that serves it
  startAt : Nat                 -- its service began
  ended   : Bool                -- its work has ended; its flow has not released it yet
  deriving DecidableEq, Repr

/-- A die's dispatcher (R271–R290). -/
structure Dsp where
  items   : List Item := []
  done    : List (Nat × Nat × Nat × Nat × Nat) := []  -- released: owner, picture, furrow, kind, index; kept while the work could exist
  readyAt : List ((Nat × Nat × Nat × Nat × Nat) × Nat) := []  -- ready times (R275), of items not created yet too
  waits   : List ((Nat × Nat × Nat × Nat × Nat) × Nat) := []  -- bins of ended CODE and ENTROPY work that may still be created again (R283)
  freeAt  : Tbl Nat := []       -- when each unit became free
  busyFrom : Tbl (Option Nat) := []  -- since when each unit holds an item in service
  acc     : Tbl Nat := []       -- ns of the present window that each unit was busy, its present item apart
  winStart : Nat := 0
  waited  : NSet := []          -- owners whose next item has been counted as waiting for a slot
  last    : Tbl Nat := []       -- channel each pixel pipeline served last, plus one
  window  : Nat := 0x3E8
  winNow  : Nat := 0x3E8
  histSel : Nat := 0
  busy    : List Nat := [0, 0, 0, 0, 0, 0, 0]
  hwm     : Nat := 0
  hist    : Tbl Nat := []       -- 16 channel + bin
  tracking : Bool := false      -- engine DRAM requests are held (R279)
  admitDec : Nat := 0
  admitEng : Nat := 0
  headSet : Nat := 1
  headMin : Nat := 0x7D0
  deriving DecidableEq, Repr

/-- One memory channel's refresh state (R301–R304). -/
structure Mch where
  rate : Nat := 0               -- 0 1x, 1 2x, 2 4x
  debt : Nat := 0
  low  : Nat := 0               -- consecutive periodic reads below the class in use
  paying : Bool := false        -- owed commands are being issued back to back (R302, R304)
  payFor : Nat := 0             -- ns since that began
  paid : Nat := 0               -- owed commands issued since
  deriving DecidableEq, Repr

/-- A die's memory controller (R293–R313). -/
structure Mc where
  mapReg  : Nat := 2            -- MC_MAP (RWS): GROUP 0, GRAIN 2
  mapLive : Nat := 2
  mchs    : Tbl Mch := []
  panic   : NSet := []
  level   : Tbl Nat := []       -- bytes of a port's level, unlisted 0x8000 (R298)
  wm      : Tbl Nat := []       -- watermarks, unlisted 0x10
  errAddr : Nat := 0
  errInfo : Word := 0
  trackCount : Nat := 0         -- package furrow boundaries since the last request
  trackWant : Bool := false
  selfRefresh : Bool := false
  demand  : Nat := 0            -- live data demand without its fixed term, in 1/16,016 B/s
  deriving DecidableEq, Repr

/-- A channel's yoke state (R371–R375). -/
structure YCh where
  st     : Nat := 0             -- 0 NONE, 1 LOCKED, 2 DIVERGED, 3 RESYNC, 4 VERIFY
  cause  : Nat := 0
  own    : List Record := []    -- records built here and not yet compared, oldest first
  theirs : List Record := []
  lastRx : Option Record := none
  fails  : Nat := 0
  asked  : Bool := false        -- the host asked for its resync
  join   : Option Nat := none
  both   : Bool := false        -- both parts may run it: the first comparison decides (R372)
  gap    : Bool := false        -- records were missed, and none has been compared since
  deriving DecidableEq, Repr

/-- What a yoke frame says (R395). -/
inductive YMsg where
  | hello (h : Hello)
  | beat (b : Beat)
  | ack
  | state (r : Record)
  | verdict (ch st cause picture : Nat)
  | vote (set gen : Nat) (crc tableCrc : Word) (live result : Nat)
  | decide (set gen outcome effect : Nat)
  | copy (ch stall kind off : Nat) (bytes : List Byte)
  | yield (cause tR tT : Nat)
  | resync (ch op pinned picture : Nat)
  | doorbell (source : Nat)
  deriving DecidableEq, Repr

/-- A reliable frame that has been sent and awaits its acknowledgement (R396). -/
structure Unacked where
  seq   : Nat
  sends : Nat
  msg   : YMsg
  deriving DecidableEq, Repr

/-- A VOTE (R365, R395). -/
structure Vote where
  set    : Nat
  gen    : Nat
  crc    : Word
  tcrc   : Word                 -- checksum of the commit-table words
  live   : Nat
  result : Nat
  deriving DecidableEq, Repr

/-- The yoke (R356–R398). Roles: 0 OFF, 1 SOLE, 2 PAIRING, 3 ACTIVE, 4 STANDBY. -/
structure Yoke where
  role     : Nat := 0
  came     : Nat := 0           -- role left for PAIRING
  paired   : Nat := 0           -- role decided at pairing, advertised
  partner  : Nat := 0
  refusal  : Nat := 0
  barred   : Bool := false      -- equal tie tokens: no pairing until PAIR_EN is written 0 and 1 (R384)
  wait     : Bool := false      -- a refused pairing waits 1 s
  sundered : Bool := false      -- the partner was lost and none has been paired since (R378, R384)
  pinMiss  : Nat := 0
  linkMiss : Nat := 0
  pinLost  : Bool := false
  linkLost : Bool := false
  since    : Nat := 0           -- ACTIVE_SINCE
  takeAt   : Nat := 0           -- YOKE_TAKE
  pendTake : Option (Nat × Nat) := none   -- (tR, tT) of a takeover by this part
  pendYield : Option Nat := none          -- tT of a yield by this part
  lastBeat : Nat := 0           -- last heartbeat on either path, for tR
  beat     : Option Beat := none
  dual     : Option Bool := none -- dual active found: this part becomes STANDBY at the next boundary
  hello    : Option Hello := none
  seqTx    : Nat := 0
  seqRx    : Nat := 0
  unacked  : List Unacked := []
  early    : List (Nat × Instr) := []  -- reliable frames received ahead of their turn (R396)
  ackDue   : Bool := false
  beatN    : Nat := 0
  copyN    : Nat := 0           -- COPY frames sent, for their turn among the lanes (R456)
  chs      : Tbl YCh := []
  resyncCh : Option Nat := none
  resyncStep : Nat := 0
  resyncLeft : Nat := 0
  rows     : Option (Nat × Nat × Option Nat) := none  -- row stream of a channel (R374): from this picture on, up to the join picture
  votes    : List (Nat × Vote) := []  -- VOTEs held for the active's own checks, the last of each set, with their arrival (R365)
  replay   : Tbl (List Pkt) := []   -- per service: packets of its last three furrows
  deriving DecidableEq, Repr

/-- A pending zero-crossing change (R412): 0 mute, 1 unmute, 2 source change; from sample `se`. -/
structure ZcChange where
  kind : Nat := 0
  se   : Nat := 0
  word : Word := 0              -- the new route or output word
  deriving DecidableEq, Repr

/-- An audio flow in effect (R399–R413), keyed 64 die + flow. Samples are 24 bits wide, left-aligned. -/
structure AFlow where
  valid   : Bool := false
  samples : Tbl (Option Int) := []   -- channel + 64 * sample index, written samples
  ready   : Nat := 0            -- next sample index to become ready
  gap     : Bool := false       -- the packet time of `ready` already had an unwritten sample
  marks   : Tbl Nat := []       -- NET: per channel, sample of the last preamble, plus one
  routes  : Tbl Word := []      -- MIX: routes in force after zero crossings
  muted   : NSet := []          -- MIX: channels muted by their route
  held    : NSet := []          -- channels that unmute in services after a cleared mark
  spans   : List (Nat × Nat × Option Nat) := []  -- NET: samples that carry a mark: the channel, the first, and the first after (R413)
  holds   : List (Nat × Nat × Option Nat) := []  -- samples at zero from a cleared mark to the unmute, in the same form
  zc      : Tbl (Option ZcChange) := []  -- per channel its route's change; 64 + channel the unmute of `held`
  deriving DecidableEq, Repr

/-- TDM port states (R414). -/
inductive TdmState where
  | disabled
  | locking
  | running
  | misaligned
  | clockLost
  | fault
  deriving DecidableEq, Repr

/-- A TDM port (R408–R415). -/
structure Tdm where
  st      : TdmState := .disabled
  good    : Nat := 0            -- consecutive good frames
  bad     : Nat := 0            -- consecutive glitched frames
  ratio   : Int := 0            -- tracked ratio, ppm from nominal
  known   : Bool := false       -- the rate is known
  cfg     : List Word := []     -- AUD words in force: CTRL, IN_MASK, OUT_MASK, SLIP, AES3
  pend    : Bool := false       -- new words apply at the next FS edge
  restart : Bool := false       -- a restart awaits the next FS edge
  inputs  : List Int := []      -- last frame's input slots
  hist    : Tbl Int := []       -- input samples: slot + 32 * sample index
  ptr     : Tbl Nat := []       -- per input slot: sample index written last
  muted   : NSet := []          -- output slots held at zero until they unmute
  marks   : Tbl Nat := []       -- per input slot: sample of the last preamble, plus one
  aes3    : NSet := []          -- input slots marked by their channel status
  spans   : List (Nat × Nat × Option Nat) := []  -- samples that carry a mark: the input slot, the first, and the first after
  zc      : Tbl (Option ZcChange) := []
  src     : Tbl Word := []      -- output sources in force
  outPos  : Tbl Nat := []       -- per output slot: source sample played last
  frames  : Nat := 0            -- frames received or driven
  skewIn  : Nat := 0            -- slots by which a FIFO fault has moved the input channels (R414, R415)
  skewOut : Nat := 0            -- the same of the output channels
  past    : List (Nat × Word × Word) := []  -- newest first: from an instant on, input slots that yielded and those bit-exact (R402)
  deriving DecidableEq, Repr

/-- An interrupt source (R421, R424, R428, R433). -/
structure Src where
  pend   : Bool := false
  en     : Bool := false
  mask   : Bool := false
  svc    : Option (Nat × Nat) := none   -- in service: target, claimed priority
  redir  : Bool := false
  remote : Bool := false
  wake   : Bool := false
  fallback : Nat := 0
  target : Nat := 0
  prio   : Nat := 0
  deriving DecidableEq, Repr

/-- The interrupt controller (R419–R437). -/
structure Ic where
  srcs      : Tbl Src := []
  inflight  : List (Nat × Nat) := []      -- (sender, source), oldest first
  presented : Tbl Nat := []               -- per target: 1 + 16 * source + priority presented; 0 for none
  wakeQ     : List (Nat × Nat) := []      -- (source, target), in arrival order
  timeout   : Nat := 0x3E8
  hvec      : Tbl Nat := []               -- per host target: vector; unlisted its own number
  retained  : NSet := []                  -- dies whose interrupt state is in retention
  msixPend  : List (Nat × Nat) := []      -- pending vectors: vector and the target presented to
  deriving DecidableEq, Repr

/-- A lane (R438–R459), keyed by its package number; 32 + i is YKi. States: 0 OFF, 1 SEARCH, 2 LOCKING, 3 TRAINING,
4 UP, 5 IDLE, 6 FAULT. -/
structure Lane where
  st       : Nat := 0
  signal   : Bool := false
  lock     : Bool := false
  fecLock  : Bool := false
  trained  : Bool := false
  converged : Bool := false     -- adaptation has converged since the lane entered LOCKING
  preTx    : Bool := false      -- precoding as training set it, of the transmitter
  preRx    : Bool := false      -- and of the receiver, by its own request (R438)
  retry    : Bool := false      -- training waits its 100 ms
  syms     : Nat := 0           -- corrected symbols of its last block of codewords
  shares   : List Nat := []     -- a port's lane: its shares of blocks of which other lanes' are still to come (R448)
  portSyms : Nat := 0           -- a port's first lane: corrected symbols of the port's last block
  ups      : Nat := 0           -- how often it has come UP: its skew is that of this time (R446)
  rerun    : Bool := false      -- adaptation was restarted and has not converged since (R452)
  txeq     : Word := 0x10000000
  freeze   : Bool := false
  noPre    : Bool := false
  ctle     : Nat := 0
  dfe1     : Nat := 0
  txOn     : Bool := false
  dwell    : Nat := 0x14
  eye      : Nat := 1
  scanEye  : Nat := 1           -- eye of the scan begun last
  taps     : Option Word := none -- taps that training set
  busy     : Bool := false
  done     : Bool := false
  aborted  : Bool := false
  cells    : Nat := 0
  cellData : Tbl Nat := []
  margin   : Word := 0
  deriving DecidableEq, Repr

/-- The PCI Express function and the HOST page (R460–R481). -/
structure HostSt where
  up       : Bool := false
  speed    : Nat := 0
  width    : Nat := 0
  flit     : Bool := false
  msixEn   : Bool := false
  funcMask : Bool := false
  busMaster : Bool := false
  d3hot    : Bool := false
  aperDie  : Nat := 0
  aperBase : Nat := 0
  sdpSel   : Word := 0
  hold     : Bool := false      -- HOST_BOOT.HOLD
  held     : Bool := false      -- outputs are held (R481): from HOLD's rise to the boundary after it clears
  boot     : Nat := 0           -- HOST_BOOT.STATE
  abort    : Bool := false
  bootDone : Nat := 0
  bootSet  : Nat := 0
  bootList : List (Nat × List Word × List Word × Word) := []  -- stored sets left: set, entry words, staged words, CRC
  msixTab  : Tbl Word := []
  deriving DecidableEq, Repr

/-- The flash: image regions, the slot directory and the settings areas (R482–R490). Erased bytes are not listed. -/
structure Flash where
  images   : Tbl (List Byte) := []   -- per region 0 to 2
  active   : Nat := 0
  staged   : Option Nat := some 1
  previous : Option Nat := some 2
  confirmed : Bool := true
  allowance : Nat := 0
  full     : Bool := false      -- STAGED holds a completely written image
  tries    : Nat := 0
  settings : Tbl (List Word) := []   -- per area 0 and 1
  deriving DecidableEq, Repr

/-- The firmware and the FW page (R482–R492). -/
structure Fw where
  flash   : Flash := {}
  rollback : Nat := 0           -- blown rollback fuses
  version : Word := 0
  fmt     : Nat := 0
  bodyHash : List Byte := []
  fellBack : Bool := false
  stagedRes : Nat := 0
  activeRes : Nat := 0
  activeFail : Nat := 0
  area    : Nat := 0
  present : Bool := false
  recovery : Bool := false
  src     : Word := 0
  len     : Nat := 0
  op      : Nat := 0            -- command that is BUSY, 0 for none
  opTries : Nat := 0
  state   : Nat := 0            -- FW_RESULT
  cause   : Nat := 0
  whr     : Nat := 0
  confirmWait : Bool := false
  deriving DecidableEq, Repr

/-- A key slot of the tack store (R493). -/
structure KeySlot where
  full    : Bool := false
  len256  : Bool := false
  key     : BitVec 256 := 0
  salt    : BitVec 96 := 0
  used    : Bool := false
  counter : Nat := 0
  deriving DecidableEq, Repr

/-- The tack store and the TACK page (R493–R499). `saved` is the persistent copy in flash (R496). -/
structure Tack where
  slots   : Tbl KeySlot := []
  saved   : Tbl KeySlot := []
  kept    : Bool := false       -- flash holds a persistent copy (R496)
  idPub   : Option (BitVec 768) := none
  keyBuf  : BitVec 256 := 0
  saltBuf : BitVec 96 := 0
  busy    : Nat := 0            -- operation that is BUSY, 0 for none
  busySlot : Nat := 0
  busyLen : Bool := false
  state   : Nat := 0
  cause   : Nat := 0
  slot    : Nat := 0
  sel     : Nat := 0
  nonce   : BitVec 256 := 0
  report  : List Byte := []
  sig     : List Byte := []
  deriving DecidableEq, Repr

/-- The description of a flow (R329): its session version and text, and what announcing it takes. -/
structure SdpDesc where
  version : Nat := 0
  text    : List Byte := []     -- none where there is no description
  port    : Nat := 0            -- port of path A
  src     : Word := 0
  group   : Bool := false       -- its destination is a multicast address
  ssrc    : Nat := 0
  deriving DecidableEq, Repr

/-- Services the control cores run (R469–R475): descriptions announced, and the IS-05 activations in progress. -/
structure SvcFw where
  sdp      : Tbl SdpDesc := []  -- per flow (R329)
  igmp     : NSet := []         -- classifier entries whose group is joined
  regOk    : Bool := false      -- registered with the registry
  is05Sets : NSet := []         -- sets that IS-05 has committed and whose check has not ended
  is05Wait : List (Nat × Bool × Nat × List (Nat × Word)) := []  -- scheduled activations: instant, receiver, entry, words
  deriving DecidableEq, Repr

/-- The machine: the part's state and the commands that wait for it. -/
structure State where
  variant : Variant := .vl880
  pending : List Instr := []
  out     : List Out := []
  fresh   : Nat := 0            -- the model's own: how many free values have been drawn
  pwr     : Pwr := {}
  time    : TimeSt := {}
  pages   : Tbl PageHdr := []   -- key 8192 die + page
  ctrs    : Tbl (BitVec 64) := []   -- key 128 (8192 die + page) + counter
  hold    : Tbl Word := []      -- latched words, key 2 register + requester
  staged  : Tbl Word := []      -- by location
  live    : Tbl Word := []
  eff     : Tbl Word := []      -- words in effect (R71)
  regs    : Tbl Word := []      -- registers with no state of their own elsewhere
  ctab    : Tbl Word := []      -- commit table, key 16 set + word
  sets    : Tbl CSet := []
  queue   : List Nat := []      -- sets QUEUED, in order
  checking : Option Nat := none
  waits   : List (Nat × Option Nat) := []  -- (set in APPLY, channel or package) yet to take effect
  chans   : Tbl Chan := []
  svcs    : Tbl Svc := []
  flows   : Tbl Flow := []
  stops   : NSet := []          -- stopped flows (R351)
  quench  : NSet := []          -- quenched ports, by lane
  ports   : Tbl PortTx := []
  slots   : Tbl Slot := []      -- key 64 die + slot
  slotPx  : Tbl Nat := []       -- samples of buffered input pictures
  entries : Tbl Entry := []
  merges  : Tbl Merge := []
  groups  : Tbl Group := []
  layers  : Tbl LayerSt := []   -- key 256 die + pool entry
  canvPx  : Tbl Nat := []       -- samples of canvas pictures
  cachePx : Tbl Nat := []       -- reconstructed samples in the reference caches, before in-loop filtering (R213)
  decs    : Tbl Dec := []
  dsps    : Tbl Dsp := []
  mcs     : Tbl Mc := []
  dram    : List Host.Cell := []  -- key 2^34 die + usable address; an unlisted byte is zero (R89)
  poison  : NSet := []          -- data words with a poison code, key 2^29 die + word (R295)
  broken  : NSet := []          -- data words whose uncorrectable error is left in place (R296, R297)
  soft    : NSet := []          -- data words whose single-bit error a read has met and nothing has rewritten since (R295, R297)
  yoke    : Yoke := {}
  aflows  : Tbl AFlow := []
  tdms    : Tbl Tdm := []
  ic      : Ic := {}
  lanes   : Tbl Lane := []
  host    : HostSt := {}
  fw      : Fw := {}
  tack    : Tack := {}
  services : SvcFw := {}
  deriving DecidableEq, Repr

/-- The machine as its reset leaves it: supplies up, the internal reset just released (R73, R80, R508), no memory
zeroised, every register at the value the manual gives, no page ready. The power rails are up and PERST# is high; the
FAB domain of every die is up (R101). -/
def State.reset : State where
  pwr := { supplied := true, cause := 1, domUp := [15, 31, 47, 63, 79, 95, 111, 127]
           domRising := (List.range 128).filter (fun x => decide (x % 16 ≠ 15)) }

end Sys2Proof.Machine
end

