-- ==== Sys2Proof/Machine/Layout.lean ====
section
/-! DEFINITION. The staged words: what each resets to, and which of its bits are fields (R8, R42). A location is a BAR0
byte address, or 2^28 plus a BAR2 offset. -/

namespace Sys2Proof.Machine

open Sys2Proof

/-- The value of the first row of `l`, rows (first, last, value), whose range holds `o`; `d` where none does. -/
def rowOf (d : Word) : List (Nat × Nat × Word) → Nat → Word
  | [], _ => d
  | (a, b, w) :: l, o => if a ≤ o ∧ o ≤ b then w else rowOf d l o

/-! ## Reset values -/

/-- PKG (R33, R121, R357, R470). -/
def resetPkg (o : Nat) : Word :=
  rowOf 0 [(0x104, 0x104, 0x17F), (0x108, 0x108, 0x003207D0), (0x110, 0x110, 0x0F000000), (0x140, 0x140, 0x50),
    (0x144, 0x144, 0xFFFFFFFF), (0x148, 0x148, 0xFD), (0x150, 0x150, 0x50)] o

/-- YARD (R316, R329): three packing words a channel. -/
def resetYard (o : Nat) : Word :=
  if 0x100 ≤ o ∧ o < 0x280 then
    (if (o - 0x100) % 12 = 0 then 0x05DC6021 else if (o - 0x100) % 12 = 4 then 0x070A0A00 else 0x01000101)
  else if o = 0x300 then 0x1E else if o = 0x304 then 0xEFFFFFFF else 0

/-- SHAPE (R344): the quanta. -/
def resetShape (o : Nat) : Word := if 0x100 ≤ o ∧ o < 0x180 ∧ (o - 0x100) % 32 < 24 then 0x600 else 0

/-- GATE (R347). -/
def resetGate (o : Nat) : Word := rowOf 0 [(0x104, 0x104, 0x18), (0x118, 0x118, 0x00010000), (0x11C, 0x11C, 0x40000064)] o

/-- CH (R110, R197). -/
def resetCh (o : Nat) : Word := rowOf 0 [(0x10C, 0x10C, 3), (0x140, 0x140, 4), (0x144, 0x144, 0x01010100)] o

/-- DRILL (R229). -/
def resetDrill (o : Nat) : Word := rowOf 0 [(0x100, 0x100, 0x100), (0x110, 0x110, 0x33001E20), (0x114, 0x114, 0xF0)] o

/-- BARN (R218). -/
def resetBarn (o : Nat) : Word := if o = 0x104 then 0x1000 else 0

/-- LAYER (R164): opaque, BT.709, the identity matrix. -/
def resetLayer (o : Nat) : Word :=
  rowOf 0 [(0x11C, 0x11C, 0xFF), (0x180, 0x180, 1), (0x184, 0x184, 0x1000), (0x18C, 0x18C, 0x1000), (0x194, 0x194, 0x1000)] o

/-- AFL (R400). -/
def resetAfl (o : Nat) : Word :=
  rowOf 0 [(0x100, 0x100, 0x200105DC), (0x104, 0x104, 4), (0x114, 0x114, 0x6100), (0x11C, 0x11C, 0x6100), (0x124, 0x124, 0x6100),
    (0x12C, 0x12C, 0x6100)] o

/-- AUD (R408). -/
def resetAud (o : Nat) : Word := rowOf 0 [(0x100, 0x100, 0x07000007), (0x114, 0x114, 4)] o

/-- Reset value of the staged word at offset `o` of a page of number `p`. -/
def resetPage (p o : Nat) : Word :=
  if p = 0 then resetPkg o
  else if 8 ≤ p ∧ p ≤ 11 then resetAud o
  else if p = 0x107 then resetYard o
  else if p = 0x109 then resetShape o
  else if 0x10C ≤ p ∧ p ≤ 0x10F then resetGate o
  else if 0x200 ≤ p ∧ p < 0x220 then resetCh o
  else if 0x220 ≤ p ∧ p < 0x240 then resetDrill o
  else if 0x240 ≤ p ∧ p < 0x260 then resetBarn o
  else if 0x300 ≤ p ∧ p < 0x340 then resetAfl o
  else if 0x400 ≤ p ∧ p < 0x500 then resetLayer o
  else 0

/-- Reset value of the staged word at a location (staged and live alike, R42); TTL is the one table field that does not
reset to zero (R334). -/
def resetWord (a : Nat) : Word :=
  if a < 2 ^ 28 then resetPage (a / 4096 % 8192) (a % 4096)
  else
    let o := a - 2 ^ 28
    if 0x100000 ≤ o ∧ o < 0x300000 ∧ o % 64 = 20 then 0x40 else 0

/-! ## Fields -/

/-- Bits that are fields of the PKG page's words. -/
def maskPkg (o : Nat) : Word :=
  rowOf 0 [(0x100, 0x103, 0xFFF), (0x104, 0x107, 0x83FF), (0x108, 0x10B, 0xFFFFFFFF), (0x10C, 0x10F, 0xFFFF),
    (0x110, 0x113, 0xCF070000), (0x120, 0x13F, 0xFFFFFFFF), (0x140, 0x143, 0xE01FFFFF), (0x144, 0x147, 0xFFFFFFFF),
    (0x148, 0x14B, 0x800000FF), (0x14C, 0x14F, 0xFFFFFFFF), (0x150, 0x153, 0xFFFF), (0x400, 0x7FF, 0xFF8F7FFF)] o

def maskAud (o : Nat) : Word :=
  rowOf 0 [(0x100, 0x103, 0xFF9FFF1F), (0x104, 0x113, 0xFFFFFFFF), (0x114, 0x117, 0xC000003F), (0x180, 0x1FF, 0xC0007FFF)] o

/-- ING (R146): three words a slot. -/
def maskIng (o : Nat) : Word :=
  if 0x100 ≤ o ∧ o < 0x400 then
    (if (o - 0x100) % 12 = 0 then 0x9FFF1FFF else if (o - 0x100) % 12 = 4 then 0xFFF80FFF else 0x3FFFFF)
  else 0

/-- DEC (R256): three words a source. -/
def maskDec (o : Nat) : Word :=
  if 0x100 ≤ o ∧ o < 0x400 then
    (if (o - 0x100) % 12 = 0 then 0xFF00FFFF else if (o - 0x100) % 12 = 4 then 0x0FFF1FFF else 0x1F3FFFFF)
  else 0

def maskYard (o : Nat) : Word :=
  if 0x100 ≤ o ∧ o < 0x280 then
    (if (o - 0x100) % 12 = 0 then 0x3FFF7FFF else if (o - 0x100) % 12 = 4 then 0x071F1F00 else 0x1FFF1FFF)
  else rowOf 0 [(0x300, 0x303, 0x80000FFF), (0x304, 0x307, 0xFFFFFFFF), (0x400, 0x7FF, 0xFF800FFF)] o

def maskShape (o : Nat) : Word := if 0x100 ≤ o ∧ o < 0x180 ∧ (o - 0x100) % 32 < 24 then 0x3FFF else 0

def maskGate (o : Nat) : Word :=
  rowOf 0 [(0x100, 0x103, 0xFFFFFFFF), (0x104, 0x107, 0x3F), (0x108, 0x10B, 0xFFFFFFFF), (0x10C, 0x10F, 0xFFFF),
    (0x110, 0x113, 0xFFFFFFFF), (0x114, 0x117, 0x7FFFF), (0x118, 0x11F, 0xFFFFFFFF), (0x120, 0x123, 0x8FFFFFFF),
    (0x124, 0x127, 0xFFFFFFFF), (0x128, 0x12B, 0x800001FF), (0x12C, 0x137, 0xFFFFFFFF), (0x138, 0x13B, 0xFFFF)] o

def maskCh (o : Nat) : Word :=
  rowOf 0 [(0x100, 0x103, 0x101), (0x104, 0x107, 0x9FFF1FFF), (0x108, 0x10F, 0xF), (0x110, 0x113, 0x7FFF),
    (0x140, 0x143, 0x00FF013F), (0x144, 0x147, 0xFFFFFF01), (0x148, 0x14B, 0x103), (0x14C, 0x14F, 0xC0000FFF),
    (0x150, 0x153, 0x80007FFF), (0x154, 0x157, 0xF)] o

/-- DRILL (R229, R251): regions are pairs of words. -/
def maskDrill (o : Nat) : Word :=
  if 0x180 ≤ o ∧ o < 0x200 then (if (o - 0x180) % 8 < 4 then 0xE000FF1F else 0xFFFFFFFF)
  else rowOf 0 [(0x100, 0x103, 0x103), (0x104, 0x10B, 0xFFFFFFFF), (0x10C, 0x10F, 0xFFFFFF), (0x110, 0x113, 0xFFFFFFFF), (0x114, 0x117, 0xFFF)] o

def maskBarn (o : Nat) : Word := rowOf 0 [(0x100, 0x103, 0x3FFFFF), (0x104, 0x107, 0x9F037FFF), (0x108, 0x10B, 0xFFFFFF0F)] o

def maskAfl (o : Nat) : Word :=
  if 0x110 ≤ o ∧ o < 0x130 then (if (o - 0x110) % 8 < 4 then 0xFFFFCFFF else 0x1FFF7FFF)
  else rowOf 0 [(0x100, 0x103, 0xF03F7FFF), (0x104, 0x107, 0x3F), (0x180, 0x27F, 0xF000FFFF)] o

def maskLayer (o : Nat) : Word :=
  rowOf 0 [(0x100, 0x103, 0x801F0F07), (0x104, 0x107, 0x7FFF), (0x108, 0x117, 0x1FFF1FFF), (0x118, 0x11B, 3), (0x11C, 0x11F, 0x1FF),
    (0x120, 0x123, 0xFF3F), (0x124, 0x127, 0x310000FF), (0x128, 0x137, 0xE03FFFFF), (0x138, 0x13B, 0x0FFF0FFF), (0x13C, 0x13F, 0xFFF),
    (0x140, 0x143, 0x800F011F), (0x180, 0x183, 0x1F13), (0x184, 0x193, 0xFFFFFFFF), (0x194, 0x197, 0xFFFF), (0x198, 0x19B, 0xFFFFFFFF),
    (0x19C, 0x19F, 0xFFFF), (0x200, 0x2C3, 0x0FFF0FFF), (0x2C4, 0x2C7, 0xFFF), (0x300, 0x303, 0x3FFFFF), (0x304, 0x307, 0xFFF),
    (0x308, 0x30B, 0x80000000), (0x30C, 0x313, 0xFFFFFFFF)] o

/-- Fields of the staged word at offset `o` of a page of number `p`. -/
def maskPage (p o : Nat) : Word :=
  if p = 0 then maskPkg o
  else if 8 ≤ p ∧ p ≤ 11 then maskAud o
  else if p = 0x103 then maskIng o
  else if p = 0x105 then (if 0x100 ≤ o ∧ o < 0x104 then 0x3FFFFF else 0)
  else if p = 0x106 then maskDec o
  else if p = 0x107 then maskYard o
  else if p = 0x109 then maskShape o
  else if 0x10C ≤ p ∧ p ≤ 0x10F then maskGate o
  else if 0x110 ≤ p ∧ p ≤ 0x113 then (if 0x100 ≤ o ∧ o < 0x104 then 0x83000007 else 0)
  else if 0x200 ≤ p ∧ p < 0x220 then maskCh o
  else if 0x220 ≤ p ∧ p < 0x240 then maskDrill o
  else if 0x240 ≤ p ∧ p < 0x260 then maskBarn o
  else if 0x300 ≤ p ∧ p < 0x340 then maskAfl o
  else if 0x400 ≤ p ∧ p < 0x500 then maskLayer o
  else 0

/-- Fields of a flow-table word (R334) and of a classifier word (R142). -/
def maskFlow (i : Nat) : Word := [0xFF1F0FFF, 0xFFFFFFFF, 0xFFFFFFFF, 0xFFFFFFFF, 0xFCFFFFFF, 0xE00000FF, 0xFFFFFFFF, 0xFFFFFFFF].getD i 0
def maskCls (i : Nat) : Word := [0xFF1F7FFF, 0xFFFFFFFF, 0xFFFFFFFF, 0xFFFF0FFF, 0xFFFFFFFF, 0xFFFFFFFF, 0x1FFF073F].getD i 0

/-- What the staged word at a location keeps of a write. Reserved bits of a gate control list's entries are kept, since test 7 looks
at them (R349), and read as zero (`readMask`). -/
def fieldMask (a : Nat) : Word :=
  if a < 2 ^ 28 then maskPage (a / 4096 % 8192) (a % 4096)
  else
    let o := a - 2 ^ 28
    if 0x100000 ≤ o ∧ o < 0x300000 then maskFlow (o % 64 / 4)
    else if 0x300000 ≤ o ∧ o < 0x400000 then maskCls (o % 32 / 4)
    else if 0x410000 ≤ o ∧ o < 0x430000 then (if o % 4096 < 0x800 then 0xFFFFFFFF else 0)
    else if 0x430000 ≤ o ∧ o < 0x450000 then (if o % 4096 < 0x700 then 0x03FF03FF else 0)
    else 0

/-- What a read shows of the staged or live word of a table: reserved bits read as zero (R8). Of the kept bits only bits 31–4 of word 0
of a gate control list's entry are reserved (R346). -/
def readMask (a : Nat) : Word :=
  let o := a - 2 ^ 28
  if 0x410000 ≤ o ∧ o < 0x430000 ∧ o % 8 < 4 then 0xF else 0xFFFFFFFF

end Sys2Proof.Machine
end

