-- ==== Sys2Proof/Machine/Ops.lean ====
section
/-! DEFINITION. The named operations that every meaning is built from: where pages and words lie, the stores of words,
counters, the log of what the part sends, and readiness. A location is a `Nat`: a BAR0 byte address (R36), or 2^28 plus a
BAR2 offset for the staged tables (R39), so that the order of R59 is the order of numbers. -/

namespace Sys2Proof.Machine

open Sys2Proof

/-- Dies present (R2). -/
def dies (s : State) : Nat :=
  match s.variant with
  | .vl820 => 2
  | .vl840 => 4
  | .vl880 => 8

/-- The state with `o` put on the part's links or pins. -/
def emit (o : Out) (s : State) : State := { s with out := o :: s.out }

/-- The bytes of a number, most significant first. -/
def beBytes (n x : Nat) : List Byte := (List.range n).map (fun i => BitVec.ofNat 8 (x >>> (8 * (n - 1 - i))))

/-- The state after one free value has been drawn. -/
def draw (s : State) : State := { s with fresh := s.fresh + 1 }

/-- What the servo holds of the port whose first lane is `l`. -/
def ptpPort (s : State) (l : Nat) : PtpPort := s.time.ptp.get (fun _ => {}) l

/-- The state with a port's servo data changed by `f`. -/
def modPtp (l : Nat) (f : PtpPort → PtpPort) (s : State) : State :=
  { s with time := { s.time with ptp := s.time.ptp.set (fun _ => {}) l (f (ptpPort s l)) } }

/-- The timestamp of an event frame whose message timestamp point passes the pins at `t`: within ±4 ns of the time copy (R449). -/
def stampOf (s : State) (t : Nat) : Int := t + clampI (Config.stampError s.fresh) (-4) 4

/-! ## Pages and locations (R36–R40) -/

/-- The key of page `p` of die `d`. -/
def pkey (d p : Nat) : Nat := 8192 * d + p

/-- The die of a page key. -/
def keyDie (k : Nat) : Nat := k / 8192

/-- The page number of a page key. -/
def keyPage (k : Nat) : Nat := k % 8192

/-- The location of the word at offset `off` of a page. -/
def ploc (k off : Nat) : Nat := 4096 * k + off

/-- The location of the staged table word at BAR2 offset `o`. -/
def bar2loc (o : Nat) : Nat := 2 ^ 28 + o

/-- R37: package pages exist on die 0 only. -/
def packagePage (p : Nat) : Bool := decide (p < 12)

/-- R37: the per-die pages. -/
def diePage (p : Nat) : Bool :=
  (decide (0x100 ≤ p) && decide (p ≤ 0x113) && !(decide (p = 0x10A) || decide (p = 0x10B))) ||
  (decide (0x120 ≤ p) && decide (p ≤ 0x123)) || (decide (0x200 ≤ p) && decide (p ≤ 0x25F)) ||
  (decide (0x300 ≤ p) && decide (p ≤ 0x33F)) || (decide (0x400 ≤ p) && decide (p ≤ 0x4FF))

/-- The page exists in this variant (R4, R37, R38). -/
def pageExists (s : State) (k : Nat) : Bool :=
  decide (keyDie k < dies s) && (diePage (keyPage k) || (decide (keyDie k = 0) && packagePage (keyPage k)))

/-- Whether a page of this number has a staged area (R33, R72, R121, R162, R226, R288, R312, R397, R436, R450, R477,
R491, R494 say which have none). -/
def stagedPage (p : Nat) : Bool :=
  decide (p = 0) || (decide (8 ≤ p) && decide (p ≤ 0xB)) || decide (p = 0x103) || (decide (0x105 ≤ p) && decide (p ≤ 0x107)) ||
  decide (p = 0x109) || (decide (0x10C ≤ p) && decide (p ≤ 0x113)) || (decide (0x200 ≤ p) && decide (p ≤ 0x25F)) ||
  (decide (0x300 ≤ p) && decide (p ≤ 0x33F)) || (decide (0x400 ≤ p) && decide (p ≤ 0x4FF))

/-- The page numbers of R37 on a die: a die's own pages, the package pages before them on die 0. -/
def pagesOf (d : Nat) : List Nat :=
  ((if d = 0 then List.range 12 else []) ++ (List.range' 0x100 0x400).filter diePage).map (pkey d)

/-- Block type code (R37). -/
def pageType (p : Nat) : Nat :=
  if p < 12 then [0x01, 0xB0, 0x90, 0xD0, 0xE0, 0xC0, 0xC1, 0x70, 0x80, 0x80, 0x80, 0x80].getD p 0
  else if p < 0x10A then [0x02, 0x50, 0x40, 0x10, 0x11, 0x20, 0x34, 0x60, 0x61, 0x62].getD (p - 0x100) 0
  else if p < 0x110 then 0x63
  else if p < 0x114 then 0xA0
  else if p < 0x124 then 0x31
  else if p < 0x220 then 0x30
  else if p < 0x240 then 0x33
  else if p < 0x260 then 0x32
  else if p < 0x340 then 0x81
  else 0x21

/-- Instance number (R37): the index within the die, or within the package for package pages. -/
def pageInstance (p : Nat) : Nat :=
  if p < 8 then 0
  else if p < 12 then p - 8
  else if p < 0x10A then 0
  else if p < 0x110 then p - 0x10C
  else if p < 0x114 then p - 0x110
  else if p < 0x124 then p - 0x120
  else if p < 0x260 then (p - 0x200) % 0x20
  else if p < 0x340 then p - 0x300
  else p - 0x400

/-- `PAGE_ID` (R43). -/
def pageId (p : Nat) : Word := BitVec.ofNat 32 (pageType p * 2 ^ 16 + pageInstance p * 2 ^ 8 + 1)

/-- The page of the channel `ch`: 0x200 CH, 0x220 DRILL, 0x240 BARN (R37, R5). -/
def chPage (base ch : Nat) : Nat := pkey (ch / 32) (base + ch % 32)

/-- The PWR page. -/
def pgPwr : Nat := 4

/-! ## Counters (R50) -/

/-- The value of counter `n` of page `k`. -/
def counter (s : State) (k n : Nat) : BitVec 64 := s.ctrs.get (fun _ => 0) (128 * k + n)

/-- Counter `n` of page `k` advanced by `x`; it wraps at 2^64. -/
def bump (k n x : Nat) (s : State) : State :=
  { s with ctrs := s.ctrs.set (fun _ => 0) (128 * k + n) (counter s k n + BitVec.ofNat 64 x) }

/-- Counter `n` of page `k` raised to at least `x`, for the counters that keep a largest value. -/
def peakCtr (k n x : Nat) (s : State) : State :=
  if (counter s k n).toNat < x then { s with ctrs := s.ctrs.set (fun _ => 0) (128 * k + n) (BitVec.ofNat 64 x) } else s

/-! ## Page headers -/

/-- The header of page `k`. -/
def page (s : State) (k : Nat) : PageHdr := s.pages.get (fun _ => {}) k

/-- The state with page `k`'s header changed by `f`. -/
def modPage (k : Nat) (f : PageHdr → PageHdr) (s : State) : State :=
  { s with pages := s.pages.set (fun _ => {}) k (f (page s k)) }

/-! ## The stores of words (R51, R71) -/

/-- The staged word at a location. -/
def stagedW (s : State) (a : Nat) : Word := s.staged.get resetWord a

/-- The live word at a location: what the last pass made live (R63). -/
def liveW (s : State) (a : Nat) : Word := s.live.get resetWord a

/-- The word in effect at a location (R71). -/
def effW (s : State) (a : Nat) : Word := s.eff.get resetWord a

/-- Word `off` in effect of a channel's CH page. -/
def chW (s : State) (ch off : Nat) : Word := effW s (ploc (chPage 0x200 ch) off)

/-- Word `off` in effect of a channel's DRILL page. -/
def drW (s : State) (ch off : Nat) : Word := effW s (ploc (chPage 0x220 ch) off)

/-- Word `off` in effect of a channel's BARN page. -/
def bnW (s : State) (ch off : Nat) : Word := effW s (ploc (chPage 0x240 ch) off)

/-- Word `off` in effect of the PKG page. -/
def pkgW (s : State) (off : Nat) : Word := effW s off

/-- `dst` with its entries from `lo` up to but not `hi` replaced by those of `src`. -/
def splice {α : Type} (lo hi : Nat) (src dst : Tbl α) : Tbl α :=
  dst.filter (fun e => decide (e.1 < lo)) ++ src.filter (fun e => decide (lo ≤ e.1) && decide (e.1 < hi)) ++
    dst.filter (fun e => decide (hi ≤ e.1))

/-- Registers kept in `State.regs`, by location; each reads 0 until written. -/
def regW (s : State) (a : Nat) : Word := s.regs.get (fun _ => 0) a

/-- A register of `State.regs` set. -/
def setReg (a : Nat) (w : Word) (s : State) : State := { s with regs := s.regs.set (fun _ => 0) a w }

/-! ## Readiness (R84–R87) -/

/-- The power domain that powers a per-die page (R101), by index. -/
def pageDomain (p : Nat) : List Nat :=
  if p = 0x101 then [8, 9]
  else if p = 0x102 then [13, 14]
  else if p = 0x103 ∨ p = 0x104 then [6]
  else if p = 0x105 then [5]
  else if p = 0x106 then [4]
  else if 0x107 ≤ p ∧ p ≤ 0x10F then [7]
  else if 0x110 ≤ p ∧ p ≤ 0x113 then [10]
  else if 0x120 ≤ p ∧ p ≤ 0x123 then [p - 0x120]
  else if 0x300 ≤ p ∧ p ≤ 0x33F then [6]
  else if 0x400 ≤ p ∧ p ≤ 0x4FF then [5]
  else [15]

/-- `READY.POWERED`: the page's power domain is up; a package page lies in a domain that is not switched (R101). -/
def powered (s : State) (k : Nat) : Bool :=
  packagePage (keyPage k) || (pageDomain (keyPage k)).all (fun i => s.pwr.domUp.contains (16 * keyDie k + i))

/-- Granules of die `d` wiped (R89). -/
def granules (s : State) (d : Nat) : Nat := s.pwr.granules.get (fun _ => 0) d

/-- The bring-up step of a page of R81 is complete. -/
def stepDone (s : State) (k : Nat) : Bool :=
  let d := keyDie k
  let p := keyPage k
  let once := fun i => s.pwr.domOnce.contains (16 * d + i)
  if p < 12 then
    if p = 5 ∨ p = 6 then s.pwr.fwReady
    else if p = 7 then [32, 33, 34, 35].all s.pwr.laneCal.contains
    else s.pwr.pkgReady
  else if p = 0x101 ∨ (0x200 ≤ p ∧ p ≤ 0x25F) then decide (granules s d = 60)
  else if p = 0x105 ∨ p = 0x106 ∨ 0x400 ≤ p then decide (granules s d = 60) && (pageDomain p).all once
  else if p = 0x100 ∨ p = 0x102 then s.pwr.sramZero.contains d
  else if 0x110 ≤ p ∧ p ≤ 0x113 then s.pwr.laneCal.contains (4 * d + (p - 0x110))
  else (pageDomain p).all once

/-- The wake step of R108 at which a page's READY rises. -/
def wakeNeed (p : Nat) : Nat := if p = 0x101 then 3 else if p = 0x102 then 4 else 5

/-- The page's die neither sleeps nor enters sleep, and a waking die has reached the page's step; the DIE page is
exempt (R84). -/
def awakeFor (s : State) (k : Nat) : Bool :=
  let d := keyDie k
  decide (keyPage k = 0x100) ||
    (!s.pwr.asleep.contains d && !s.pwr.entering.contains d &&
      (!s.pwr.waking.contains d || decide (wakeNeed (keyPage k) ≤ s.pwr.wakeStep.get (fun _ => 0) d)))

/-- The 28 MiB of SRAM beside the control-core store of die `d` are being zeroised at bring-up (R81, R88): both banks are powered
and the zeroise has not ended. -/
def sramWiping (s : State) (d : Nat) : Bool :=
  s.pwr.domUp.contains (16 * d + 13) && s.pwr.domUp.contains (16 * d + 14) && !s.pwr.sramZero.contains d

/-- `READY.WIPING` (R85): a die's MC page is wiping from the start of the DRAM wipe to its last granule, its DIE and DSP pages while
the die's SRAM is zeroised at bring-up, and its DSP page from the SRAM banks' power-up to the zeroise's end on a wake (R108). The
DIE page stays READY through die sleep (R84). DEDUCED: the local state of a power domain is zeroised inside its power-up (R102),
so that page does not show WIPING for it. -/
def wiping (s : State) (k : Nat) : Bool :=
  let d := keyDie k
  if keyPage k = 0x101 then s.pwr.trained.contains d && decide (granules s d < 60)
  else if keyPage k = 0x100 then sramWiping s d
  else if keyPage k = 0x102 then
    sramWiping s d || (s.pwr.waking.contains d && decide (0 < s.pwr.wakeStep.get (fun _ => 0) d) && decide (s.pwr.wakeStep.get (fun _ => 0) d < 4))
  else false

/-- The MC page of die `d` is READY. -/
def mcReady (s : State) (d : Nat) : Bool :=
  let k := pkey d 0x101
  stepDone s k && awakeFor s k && !(page s k).fault && !wiping s k

/-- `READY.READY` (R82, R84). -/
def ready (s : State) (k : Nat) : Bool :=
  let p := keyPage k
  pageExists s k && stepDone s k && awakeFor s k && !(page s k).fault && !wiping s k &&
    (!((decide (0x200 ≤ p) && decide (p ≤ 0x25F)) || decide (p = 0x105) || decide (p = 0x106) || decide (0x400 ≤ p)) ||
      mcReady s (keyDie k))

/-- The part is held in reset or unpowered: no access reaches it and nothing in it acts (R73–R80). -/
def inReset (s : State) : Bool := !s.pwr.supplied || s.pwr.hold || s.pwr.perstHolds

/-- `k` where the part runs; a part in reset stays as it is. -/
def whenUp (s : State) (k : State → State) : State := if inReset s then s else k s

/-- `k` where `c` holds; else nothing happens. -/
def guard' (c : Bool) (k : State → State) (s : State) : State := if c then k s else s

/-- A command that concerns die `d`: a die the variant lacks raises no event; a part in reset stays as it is. -/
def atDie (d : Nat) (s : State) (k : State → State) : Host.Outcome State Fault Refusal :=
  if d < dies s then .next (whenUp s k) else .next s

end Sys2Proof.Machine
end

