-- ==== Sys2Proof/Machine/Crypto.lean ====
section
/-! DEFINITION. The cryptographic functions that the manual names by their standard: AES and its Galois/Counter Mode (FIPS 197, SP 800-38D)
for R322, R353 and R368, SHA-1, SHA-256 and SHA-384 (FIPS 180-4) for R369, R384, R473 and R484, and ECDSA verification on P-384 (FIPS 186)
for R484. -/

namespace Sys2Proof.Machine

open Sys2Proof

/-- A number in network byte order. -/
def beNat (l : List Byte) : Nat := l.foldl (fun a b => 256 * a + b.toNat) 0

/-- The low `n` bytes of a number whose byte 0 is the least significant, byte 0 first. -/
def lowFirst (n x : Nat) : List Byte := (List.range n).map (fun i => BitVec.ofNat 8 (x >>> (8 * i)))

/-! ## AES -/

/-- Multiplication by x in the field of AES. -/
def aesTwice (a : Byte) : Byte := if a.getMsbD 0 then (a <<< 1) ^^^ 0x1B else a <<< 1

/-- Multiplication in the field of AES. -/
def aesMul (a b : Byte) : Byte :=
  ((List.range 8).foldl (fun (r : Byte × Byte) i => (if b.getLsbD i then r.1 ^^^ r.2 else r.1, aesTwice r.2)) (0, a)).1

/-- The inverse, 0 for 0: the product of a², a⁴ and so on up to a¹²⁸. -/
def aesInv (a : Byte) : Byte :=
  ((List.range 7).foldl (fun (r : Byte × Byte) _ => (aesMul r.1 (aesMul r.2 r.2), aesMul r.2 r.2)) (1, a)).1

/-- The substitution of AES. -/
def aesSub (a : Byte) : Byte :=
  let b := aesInv a
  b ^^^ b.rotateLeft 1 ^^^ b.rotateLeft 2 ^^^ b.rotateLeft 3 ^^^ b.rotateLeft 4 ^^^ 0x63

/-- Two lists of bytes added bit by bit. -/
def addBytes (a b : List Byte) : List Byte := List.zipWith (fun x y => x ^^^ y) a b

/-- Round constant `i`, from 1. -/
def aesRcon (i : Nat) : Byte := (List.range (i - 1)).foldl (fun r _ => aesTwice r) 1

/-- Words of the expanded key, newest first: `n` more of a key of `nk` words. -/
def aesExpand (nk : Nat) : Nat → List (List Byte) → List (List Byte)
  | 0, l => l
  | n + 1, l =>
    let i := l.length
    let t := l.getD 0 []
    let t :=
      if i % nk = 0 then addBytes ((t.drop 1 ++ t.take 1).map aesSub) [aesRcon (i / nk), 0, 0, 0]
      else if 6 < nk ∧ i % nk = 4 then t.map aesSub
      else t
    aesExpand nk n (addBytes (l.getD (nk - 1) []) t :: l)

/-- Round keys of a key of 16 or 32 bytes. -/
def aesKeys (key : List Byte) : List (List Byte) :=
  let nk := key.length / 4
  let ws := (aesExpand nk (4 * (nk + 7) - nk) ((List.range nk).reverse.map (fun i => (key.drop (4 * i)).take 4))).reverse
  (List.range (nk + 7)).map (fun r => ((ws.drop (4 * r)).take 4).flatten)

/-- The rows of the state are rotated: byte 4 c + r comes from column c + r. -/
def aesShift (l : List Byte) : List Byte := (List.range 16).map (fun i => l.getD ((i + 4 * (i % 4)) % 16) 0)

/-- The columns of the state are mixed. -/
def aesMix (l : List Byte) : List Byte :=
  (List.range 16).map (fun i =>
    let b := fun j => l.getD (i / 4 * 4 + (i + j) % 4) 0
    aesTwice (b 0) ^^^ aesTwice (b 1) ^^^ b 1 ^^^ b 2 ^^^ b 3)

/-- One block encrypted under round keys. -/
def aesRounds (keys : List (List Byte)) (block : List Byte) : List Byte :=
  let s := addBytes block (keys.headD [])
  let s := (keys.tail.dropLast).foldl (fun s k => addBytes (aesMix (aesShift (s.map aesSub))) k) s
  addBytes (aesShift (s.map aesSub)) (keys.getLastD [])

/-- The key bytes of a slot of 128 or 256 bits, byte 0 lowest (R494). -/
def keyBytes (len256 : Bool) (key : BitVec 256) : List Byte := lowFirst (if len256 then 32 else 16) key.toNat

/-- The key check value (R368): the first four bytes of AES-ECB of a block of 16 zero bytes, in network byte order. -/
def kcv (len256 : Bool) (key : BitVec 256) : Word :=
  BitVec.ofNat 32 (beNat ((aesRounds (aesKeys (keyBytes len256 key)) (List.replicate 16 0)).take 4))

/-! ## Galois/Counter Mode -/

/-- Multiplication in the field of GCM, whose bit 0 is the most significant. -/
def gcmMul (x y : BitVec 128) : BitVec 128 :=
  ((List.range 128).foldl (fun (r : BitVec 128 × BitVec 128) i =>
    (if x.getMsbD i then r.1 ^^^ r.2 else r.1, if r.2.getLsbD 0 then (r.2 >>> 1) ^^^ (0xE1#128 <<< 120) else r.2 >>> 1)) (0, y)).1

/-- Blocks of 16 bytes, the last completed with zeros. -/
def gcmBlocks (l : List Byte) : List (BitVec 128) :=
  (List.range ((l.length + 15) / 16)).map (fun i =>
    let b := (l.drop (16 * i)).take 16
    BitVec.ofNat 128 (beNat (b ++ List.replicate (16 - b.length) 0)))

/-- Block `i` of the key stream of an initialisation vector of 12 bytes; block 0 masks the tag. -/
def gcmBlock (keys : List (List Byte)) (iv : List Byte) (i : Nat) : List Byte := aesRounds keys (iv ++ beBytes 4 (i + 1))

/-- `n` bytes of the key stream (R322). -/
def gcmStream (len256 : Bool) (key : BitVec 256) (iv : List Byte) (n : Nat) : List Byte :=
  let keys := aesKeys (keyBytes len256 key)
  ((List.range ((n + 15) / 16)).flatMap (fun i => gcmBlock keys iv (i + 1))).take n

/-- The tag over additional data and ciphertext (R322, R353). -/
def gcmTag (len256 : Bool) (key : BitVec 256) (iv aad text : List Byte) : BitVec 128 :=
  let keys := aesKeys (keyBytes len256 key)
  let h := BitVec.ofNat 128 (beNat (aesRounds keys (List.replicate 16 0)))
  let bs := gcmBlocks aad ++ gcmBlocks text ++ [BitVec.ofNat 128 (8 * aad.length * 2 ^ 64 + 8 * text.length)]
  bs.foldl (fun y b => gcmMul (y ^^^ b) h) 0 ^^^ BitVec.ofNat 128 (beNat (gcmBlock keys iv 0))

/-! ## SHA -/

/-- A message with its padding: a one bit, zeros, and its length in bits in `n` bytes, in blocks of 8 `n` bytes. -/
def shaPad (n : Nat) (l : List Byte) : List Byte :=
  let z := (16 * n - (l.length + 1 + n) % (8 * n)) % (8 * n)
  l ++ [0x80] ++ List.replicate z 0 ++ beBytes n (8 * l.length)

/-- Words of `w` bits. -/
def shaWords (w : Nat) (l : List Byte) : List (BitVec w) :=
  (List.range (l.length / (w / 8))).map (fun i => BitVec.ofNat w (beNat ((l.drop (i * (w / 8))).take (w / 8))))

/-- The padded message in blocks of 16 words. -/
def shaBlocks (w n : Nat) (l : List Byte) : List (List (BitVec w)) :=
  let m := shaPad n l
  (List.range (m.length / (8 * n))).map (fun i => shaWords w ((m.drop (8 * n * i)).take (8 * n)))

/-- The words put together. -/
def shaDigest {w : Nat} (l : List (BitVec w)) : Nat := l.foldl (fun a x => a * 2 ^ w + x.toNat) 0

/-- A number has no divisor but 1 and itself. -/
def isPrime (n : Nat) : Bool := decide (2 ≤ n) && (List.range n).all (fun d => decide (d < 2) || decide (n % d ≠ 0))

/-- The greatest number of at most `n` bits whose `e`-th power is at most `x`. -/
def rootOf (e x : Nat) : Nat → Nat → Nat
  | 0, r => r
  | n + 1, r => rootOf e x n (if (r + 2 ^ n) ^ e ≤ x then r + 2 ^ n else r)

/-- The first `w` bits of the fraction of the `e`-th root of `p`. -/
def rootBits (w e p : Nat) : BitVec w := BitVec.ofNat w (rootOf e (p * 2 ^ (w * e)) (w + 8) 0)

/-- The first 80 prime numbers. -/
def shaPrimes : List Nat := (List.range 410).filter isPrime

/-- Functions and constants of SHA-2 with words of `w` bits: rotations of the capital and of the small sigmas (of these the third a
shift), and the round constants. -/
structure Sha2 (w : Nat) where
  big0 : Nat × Nat × Nat
  big1 : Nat × Nat × Nat
  small0 : Nat × Nat × Nat
  small1 : Nat × Nat × Nat
  rounds : List (BitVec w)

/-- Three rotations added. -/
def shaBig {w : Nat} (r : Nat × Nat × Nat) (x : BitVec w) : BitVec w := x.rotateRight r.1 ^^^ x.rotateRight r.2.1 ^^^ x.rotateRight r.2.2

/-- Two rotations and a shift added. -/
def shaSmall {w : Nat} (r : Nat × Nat × Nat) (x : BitVec w) : BitVec w := x.rotateRight r.1 ^^^ x.rotateRight r.2.1 ^^^ (x >>> r.2.2)

/-- `n` more words of the message schedule, newest first. -/
def sha2Extend {w : Nat} (c : Sha2 w) : Nat → List (BitVec w) → List (BitVec w)
  | 0, l => l
  | n + 1, l =>
    sha2Extend c n ((shaSmall c.small1 (l.getD 1 0) + l.getD 6 0 + shaSmall c.small0 (l.getD 14 0) + l.getD 15 0) :: l)

/-- One round. -/
def sha2Round {w : Nat} (c : Sha2 w) (v : List (BitVec w)) (kw : BitVec w × BitVec w) : List (BitVec w) :=
  match v with
  | [a, b, d, e, f, g, h, i] =>
    let t1 := i + shaBig c.big1 f + ((f &&& g) ^^^ (~~~f &&& h)) + kw.1 + kw.2
    let t2 := shaBig c.big0 a + ((a &&& b) ^^^ (a &&& d) ^^^ (b &&& d))
    [t1 + t2, a, b, d, e + t1, f, g, h]
  | _ => v

/-- One block. -/
def sha2Block {w : Nat} (c : Sha2 w) (h : List (BitVec w)) (b : List (BitVec w)) : List (BitVec w) :=
  let ws := (sha2Extend c (c.rounds.length - 16) b.reverse).reverse
  List.zipWith (fun x y => x + y) h ((c.rounds.zip ws).foldl (sha2Round c) h)

/-- SHA-2 with words of 32 bits. -/
def sha2With32 : Sha2 32 :=
  { big0 := (2, 13, 22), big1 := (6, 11, 25), small0 := (7, 18, 3), small1 := (17, 19, 10), rounds := (shaPrimes.take 64).map (rootBits 32 3) }

/-- SHA-2 with words of 64 bits. -/
def sha2With64 : Sha2 64 :=
  { big0 := (28, 34, 39), big1 := (14, 18, 41), small0 := (1, 8, 7), small1 := (19, 61, 6), rounds := shaPrimes.map (rootBits 64 3) }

/-- SHA-256. -/
def sha256 (l : List Byte) : BitVec 256 :=
  BitVec.ofNat 256 (shaDigest ((shaBlocks 32 8 l).foldl (sha2Block sha2With32) ((shaPrimes.take 8).map (rootBits 32 2))))

/-- SHA-384. -/
def sha384 (l : List Byte) : BitVec 384 :=
  BitVec.ofNat 384 (shaDigest (((shaBlocks 64 16 l).foldl (sha2Block sha2With64) (((shaPrimes.drop 8).take 8).map (rootBits 64 2))).take 6))

/-- `n` more words of the schedule of SHA-1, newest first. -/
def sha1Extend : Nat → List (BitVec 32) → List (BitVec 32)
  | 0, l => l
  | n + 1, l => sha1Extend n ((l.getD 2 0 ^^^ l.getD 7 0 ^^^ l.getD 13 0 ^^^ l.getD 15 0).rotateLeft 1 :: l)

/-- Round `t` of SHA-1. -/
def sha1Round (v : List (BitVec 32)) (tw : Nat × BitVec 32) : List (BitVec 32) :=
  match v with
  | [a, b, c, d, e] =>
    let f :=
      if tw.1 < 20 then ((b &&& c) ^^^ (~~~b &&& d)) + 0x5A827999
      else if tw.1 < 40 then (b ^^^ c ^^^ d) + 0x6ED9EBA1
      else if tw.1 < 60 then ((b &&& c) ^^^ (b &&& d) ^^^ (c &&& d)) + 0x8F1BBCDC
      else (b ^^^ c ^^^ d) + 0xCA62C1D6
    [a.rotateLeft 5 + f + e + tw.2, a, b.rotateLeft 30, c, d]
  | _ => v

/-- SHA-1. -/
def sha1 (l : List Byte) : BitVec 160 :=
  BitVec.ofNat 160 (shaDigest ((shaBlocks 32 8 l).foldl (fun h b =>
    let ws := (sha1Extend 64 b.reverse).reverse
    List.zipWith (fun x y => x + y) h (((List.range 80).zip ws).foldl sha1Round h))
    [0x67452301, 0xEFCDAB89, 0x98BADCFE, 0x10325476, 0xC3D2E1F0]))

/-! ## ECDSA on P-384 -/

/-- The field, the order of the base point, the curve's constant term and the base point. -/
def p384p : Nat := 2 ^ 384 - 2 ^ 128 - 2 ^ 96 + 2 ^ 32 - 1
def p384n : Nat := 0xFFFFFFFFFFFFFFFFFFFFFFFFFFFFFFFFFFFFFFFFFFFFFFFFC7634D81F4372DDF581A0DB248B0A77AECEC196ACCC52973
def p384b : Nat := 0xB3312FA7E23EE7E4988E056BE3F82D19181D9C6EFE8141120314088F5013875AC656398D8A2ED19D2A85C8EDD3EC2AEF
def p384g : Nat × Nat :=
  (0xAA87CA22BE8B05378EB1C71EF320AD746E1D3B628BA79B9859F741E082542A385502F25DBF55296C3A545E3872760AB7,
   0x3617DE4A96262C6F5D9E98BF9292DC29F8F41DBD289A147CE9DA3113B5F0B8C00A60B1CE1D7E819D7A431D7C90EA0E5F)

/-- A power modulo `m`, of an exponent of at most `n` bits. -/
def powMod (m a e : Nat) : Nat → Nat
  | 0 => 1 % m
  | n + 1 =>
    let r := powMod m a (e / 2) n
    r * r % m * (if e % 2 = 1 then a else 1) % m

/-- The inverse modulo a prime below 2^384. -/
def invMod (m a : Nat) : Nat := powMod m a (m - 2) 384

/-- The sum of two points of the curve y² = x³ − 3x + b; none is the point at infinity. -/
def p384Add (a b : Option (Nat × Nat)) : Option (Nat × Nat) :=
  match a, b with
  | none, q => q
  | q, none => q
  | some (x1, y1), some (x2, y2) =>
    let p := p384p
    if x1 = x2 ∧ (y1 + y2) % p = 0 then none
    else
      let s :=
        if x1 = x2 then (3 * x1 * x1 + (p - 3)) * invMod p (2 * y1 % p) % p
        else (y2 + p - y1) * invMod p ((x2 + p - x1) % p) % p
      let x3 := (s * s + 2 * p - x1 - x2) % p
      some (x3, (s * (x1 + p - x3) + p - y1) % p)

/-- A multiple of a point, of a factor of at most `n` bits. -/
def p384Mul (q : Option (Nat × Nat)) (k : Nat) : Nat → Option (Nat × Nat)
  | 0 => none
  | n + 1 =>
    let r := p384Mul q (k / 2) n
    let d := p384Add r r
    if k % 2 = 1 then p384Add d q else d

/-- A signature of 96 bytes, r then s, verifies over the SHA-384 of a message under a public key, X then Y (R484). -/
def ecdsaVerify (pub : BitVec 768) (msg sig : List Byte) : Bool :=
  let x := pub.toNat / 2 ^ 384
  let y := pub.toNat % 2 ^ 384
  let r := beNat (sig.take 48)
  let s := beNat ((sig.drop 48).take 48)
  let n := p384n
  let w := invMod n s
  let q := p384Add (p384Mul (some p384g) ((sha384 msg).toNat * w % n) 384) (p384Mul (some (x, y)) (r * w % n) 384)
  decide (x < p384p) && decide (y < p384p) && decide (y * y % p384p = (x * x * x + (p384p - 3) * x + p384b) % p384p) &&
    decide (0 < r) && decide (r < n) && decide (0 < s) && decide (s < n) && (q.map (fun a => decide (a.1 % n = r))).getD false

end Sys2Proof.Machine
end

