-- ==== Sys2Proof/Machine/Flags.lean ====
section
/-! DEFINITION. The flag operations of every page (R45–R49): events on `STAT` bits, clears and sets, the collision
counter, the mask, and the message a page sends when an unmasked bit rises. -/

namespace Sys2Proof.Machine

open Sys2Proof

/-- A count that saturates at 0xFF (R47). -/
def sat8 (n : Nat) : Nat := min n 0xFF

/-- Ones in a word. -/
def ones (w : Word) : Nat := ((List.range 32).filter (bitOf w)).length

/-- R49: the page sends its SOURCE as one message. -/
def doorbell (k : Nat) (s : State) : State :=
  { s with ic := { s.ic with inflight := s.ic.inflight ++ [(k, (page s k).evtSrc)] } }

/-- An event on each `STAT` bit of `m` in page `k` (R46): a clear bit rises, an event on a set bit counts in
`STAT_AGAIN`; one message is sent when an unmasked bit rises while EN is 1 (R49). -/
def raise (k : Nat) (m : Word) (s : State) : State :=
  let h := page s k
  let rise := m &&& ~~~h.stat
  let s' := modPage k (fun h => { h with stat := h.stat ||| m, again := sat8 (h.again + ones (m &&& h.stat)) }) s
  if h.evtEn && decide (rise &&& ~~~h.imask ≠ 0) then doorbell k s' else s'

/-- `n` events on one bit at one instant. -/
def raiseN (k i n : Nat) (s : State) : State :=
  if n = 0 then s
  else
    let s' := raise k (bitW i) s
    modPage k (fun h => { h with again := sat8 (h.again + (n - 1)) }) s'

/-- One event on bit `i` of `STAT` of page `k`. -/
def raiseBit (k i : Nat) (s : State) : State := raise k (bitW i) s

/-- A clear of the bits of `v` while events strike the bits of `hit` in the same cycle: a bit of both stays set and the
collision is counted (R46). An event that strikes a bit not being cleared acts as any event. -/
def clearStat (k : Nat) (v hit : Word) (s : State) : State :=
  let h := page s k
  let both := v &&& hit
  let rise := hit &&& ~~~h.stat
  let s' := modPage k (fun h => { h with
    stat := (h.stat &&& ~~~v) ||| hit
    again := sat8 (h.again + ones (both ||| (hit &&& h.stat))) }) s
  if h.evtEn && decide (rise &&& ~~~h.imask ≠ 0) then doorbell k s' else s'

/-- A write to `STAT_AGAIN` (R47): 0x00 in COUNT, bits 7–0, clears it, other values are discarded; a count in the same cycle
leaves 1. Bits 31–8 are read-only (R42). -/
def writeAgain (k : Nat) (v : Word) (hit : Bool) (s : State) : State :=
  if fld v 7 0 = 0 then modPage k (fun h => { h with again := if hit then 1 else 0 }) s
  else modPage k (fun h => { h with again := if hit then sat8 (h.again + 1) else h.again }) s

/-- `IMASK` takes `v`; `send` says whether unmasking a bit already set raises a message (R49). -/
def setImask (k : Nat) (v : Word) (send : Bool) (s : State) : State :=
  let h := page s k
  let s' := modPage k (fun h => { h with imask := v }) s
  if send && h.evtEn && decide (h.imask &&& ~~~v &&& h.stat ≠ 0) then doorbell k s' else s'

/-- The sources that a page of die `d` may raise (R49). -/
def evtRange (k src : Nat) : Bool := decide (src / 512 = keyDie k)

/-- A write to `EVT_BASE` (R49): a SOURCE outside the range of the page's die discards the write. -/
def writeEvt (k : Nat) (v : Word) (s : State) : State :=
  if evtRange k (fld v 11 0) then modPage k (fun h => { h with evtEn := bitOf v 31, evtSrc := fld v 11 0 }) s else s

/-- Pages of `ks` whose READY fell between `s0` and `s1`: each fall is one event READY_DROP of the PWR page (R87). -/
def dropReady (ks : List Nat) (s0 s1 : State) : State :=
  raiseN pgPwr 2 (ks.filter (fun k => ready s0 k && !ready s1 k)).length s1

end Sys2Proof.Machine
end

