-- ==== Sys2Proof/Machine/Geometry.lean ====
section
/-! DEFINITION. Picture, furrow and time arithmetic (R20, R112, R130–R134), exact in integers; media time is in whole ns
after the ST 2059-1 epoch, and an instant that is not whole is met at the next whole ns. -/

namespace Sys2Proof.Machine

open Sys2Proof

/-- The rate code's pictures per second as (N, M) (R112); (0, 0) for none and for the reserved codes. -/
def rateOf (code : Nat) : Nat × Nat :=
  [(0, 0), (24000, 1001), (24, 1), (25, 1), (30000, 1001), (30, 1), (50, 1), (60000, 1001), (60, 1), (100, 1),
   (120000, 1001), (120, 1)].getD code (0, 0)

/-- A picture format: width, height, CTU size, rate N/M and delay D in furrow periods (R111–R113). -/
structure Fmt where
  w : Nat
  h : Nat
  c : Nat
  num : Nat
  den : Nat
  d : Nat
  deriving DecidableEq, Repr

/-- Furrows of a picture: ceil(H/c) (R20). -/
def Fmt.furrows (f : Fmt) : Nat := cdiv f.h f.c

/-- The line after the last of furrow `k`: L_k (R130). -/
def Fmt.lineEnd (f : Fmt) (k : Nat) : Nat := min ((k + 1) * f.c) f.h

/-- T_n, in whole ns, rounded up (R130). -/
def Fmt.bound (f : Fmt) (n : Nat) : Nat := cdiv (n * f.den * 1000000000) f.num

/-- The first picture boundary after instant `t`. -/
def Fmt.firstAfter (f : Fmt) (t : Nat) : Nat := t * f.num / (f.den * 1000000000) + 1

/-- The first picture boundary at or after instant `t`. -/
def Fmt.firstFrom (f : Fmt) (t : Nat) : Nat := cdiv (t * f.num) (f.den * 1000000000)

/-- Capture point of furrow `k` of picture `n` in units of 1/(N H) ns (R130). -/
def Fmt.captureU (f : Fmt) (n k : Nat) : Nat := (n * f.h + f.lineEnd k) * f.den * 1000000000

/-- Capture point in ns, rounded down. -/
def Fmt.capture (f : Fmt) (n k : Nat) : Nat := f.captureU n k / (f.num * f.h)

/-- One furrow period in units of 1/(N H) ns: P c / H (R130). -/
def Fmt.furrowU (f : Fmt) : Nat := f.c * f.den * 1000000000

/-- The emission point of furrow `k` of picture `n`, on the 8 ns tick (R133). -/
def Fmt.emission (f : Fmt) (n k : Nat) : Nat :=
  (f.captureU n k + f.d * f.furrowU + 20000 * (f.num * f.h)) / (f.num * f.h * 8) * 8

/-- The deadline point: 10 µs before the emission point (R249). -/
def Fmt.deadline (f : Fmt) (n k : Nat) : Nat := f.emission n k - 10000

/-- Luma samples per second, rounded up. -/
def Fmt.lumaRate (f : Fmt) : Nat := cdiv (f.w * f.h * f.num) f.den

/-- CTUs of furrow row: ceil(W/c). -/
def Fmt.ctuCols (f : Fmt) : Nat := cdiv f.w f.c

/-- The format that the words `CH_FORMAT`, `CH_RATE` and `CH_DELAY` spell. -/
def fmtOf (fw rw dw : Word) : Fmt :=
  { w := fld fw 12 0, h := fld fw 28 16, c := if bitOf fw 31 then 128 else 64
    num := (rateOf (fld rw 3 0)).1, den := (rateOf (fld rw 3 0)).2, d := fld dw 3 0 }

/-- Media time moves on to instant `t`, never back. -/
def advance (t : Nat) (s : State) : State := { s with time := { s.time with now := max s.time.now t } }

end Sys2Proof.Machine
end

