-- ==== Sys2Proof/Machine/Operands.lean ====
section
/-! DEFINITION. The operand forms of the block: the fields of the configuration words, read through a getter `g` from
locations to words, so that one reading serves the words in effect, the live words and the words a commit would make
live. -/

namespace Sys2Proof.Machine

open Sys2Proof

/-- The units of size `unit` bytes from location `base` up to `top` that a store lists a word of, each once. -/
def unitsIn (base top unit : Nat) (t : Tbl Word) : List Nat :=
  ((t.filter (fun e => decide (base ≤ e.1) && decide (e.1 < top))).map (fun e => (e.1 - base) / unit)).eraseDups

/-- A getter over a store of words. -/
def getW (t : Tbl Word) : Nat → Word := t.get resetWord

/-! ## Ingress classifier (R142) -/

/-- Word `i` of classifier entry `e`: its location. -/
def entLoc (e i : Nat) : Nat := bar2loc (0x300000 + 32 * e + 4 * i)

/-- A classifier entry. -/
structure EntCfg where
  valid : Bool
  kind : Nat
  path : Nat
  mVlan : Bool
  mSrc : Bool
  port : Nat
  peer : Nat
  dst : Word
  src : Word
  dport : Nat
  vlan : Nat
  cir : Nat
  cbs : Nat
  pid : Nat
  payload : Nat
  target : Nat
  deriving DecidableEq, Repr

/-- R142. -/
def entCfg (g : Nat → Word) (e : Nat) : EntCfg :=
  let w := fun i => g (entLoc e i)
  { valid := bitOf (w 0) 31, kind := fld (w 0) 30 28, path := fld (w 0) 27 26, mVlan := bitOf (w 0) 25
    mSrc := bitOf (w 0) 24, port := fld (w 0) 20 16, peer := fld (w 0) 14 0, dst := w 1, src := w 2
    dport := fld (w 3) 31 16, vlan := fld (w 3) 11 0, cir := (w 4).toNat, cbs := (w 5).toNat
    pid := fld (w 6) 28 16, payload := fld (w 6) 10 8, target := fld (w 6) 5 0 }

/-- Entries a store lists. -/
def entsOf (t : Tbl Word) : List Nat := unitsIn (entLoc 0 0) (entLoc 32768 0) 32 t

/-- The die that holds a classifier or flow-table entry (R12). -/
def entDie (e : Nat) : Nat := e / 4096

/-! ## Video input slots (R146) -/

/-- Location of word `i` (0 A, 1 B, 2 C) of slot `n` of die `d`. -/
def slotLoc (d n i : Nat) : Nat := ploc (pkey d 0x103) (0x100 + 12 * n + 4 * i)

/-- A slot's configuration. -/
structure SlotCfg where
  valid : Bool
  h : Nat
  w : Nat
  samp : Nat
  prim : Nat
  trans : Nat
  rate : Nat
  full : Bool
  cut : Nat       -- µs
  base : Nat      -- 4 KiB units
  deriving DecidableEq, Repr

/-- R146. -/
def slotCfg (g : Nat → Word) (d n : Nat) : SlotCfg :=
  let a := g (slotLoc d n 0)
  let b := g (slotLoc d n 1)
  let c := g (slotLoc d n 2)
  { valid := bitOf a 31, h := fld a 28 16, w := fld a 12 0, samp := fld b 31 28, prim := fld b 27 26
    trans := fld b 25 24, rate := fld b 23 20, full := bitOf b 19, cut := fld b 11 0, base := fld c 21 0 }

/-- The slots of die `d` that a store lists. -/
def slotsOf (t : Tbl Word) (d : Nat) : List Nat := unitsIn (slotLoc d 0 0) (slotLoc d 64 0) 12 t

/-- Bits per pixel of a sampling code (R147). -/
def bitsPerPixel (samp : Nat) : Nat := if samp = 0 then 20 else if samp ≤ 2 then 30 else 36

/-- Line stride in bytes (R147). -/
def SlotCfg.stride (c : SlotCfg) : Nat := roundUp (cdiv (c.w * bitsPerPixel c.samp) 8) 256

/-- Bytes of a slot's buffer: four pictures (R147). -/
def SlotCfg.bytes (c : SlotCfg) : Nat := 4 * (c.h * c.stride + 16384)

/-- The slot's own timeline as a format, so that R130 gives its boundaries. -/
def SlotCfg.fmt (c : SlotCfg) : Fmt :=
  { w := c.w, h := c.h, c := 64, num := (rateOf c.rate).1, den := (rateOf c.rate).2, d := 0 }

/-! ## Channels (R110–R114) -/

/-- Location of word `off` of channel `ch`'s CH page. -/
def chLoc (ch off : Nat) : Nat := ploc (chPage 0x200 ch) off

/-- `CH_CTRL.RUN`. -/
def chRun (g : Nat → Word) (ch : Nat) : Bool := bitOf (g (chLoc ch 0x100)) 0

/-- `CH_CTRL.COMPOSED`. -/
def chComposed (g : Nat → Word) (ch : Nat) : Bool := bitOf (g (chLoc ch 0x100)) 8

/-- The channel's format. -/
def chFmt (g : Nat → Word) (ch : Nat) : Fmt := fmtOf (g (chLoc ch 0x104)) (g (chLoc ch 0x108)) (g (chLoc ch 0x10C))

/-- `CH_INPUT.ENTRY`. -/
def chInput (g : Nat → Word) (ch : Nat) : Nat := fld (g (chLoc ch 0x110)) 14 0

/-- The channels of the part. -/
def channels (s : State) : List Nat := List.range (32 * dies s)

/-- The slot, as (die, slot), that an uncomposed channel reads. -/
def chSlot (g : Nat → Word) (ch : Nat) : Nat × Nat :=
  let e := chInput g ch
  (entDie e, (entCfg g e).target)

/-! ## The PKG page (R33, R121) -/

/-- `PKG_ESTATE.PART_ID`. -/
def partId (g : Nat → Word) : Nat := fld (g 0x100) 11 0

def stepAllow (g : Nat → Word) : Bool := bitOf (g 0x104) 15
def refEn (g : Nat → Word) : Bool := bitOf (g 0x104) 9
def ptpEn (g : Nat → Word) : Bool := bitOf (g 0x104) 8
def ptpDomain (g : Nat → Word) : Nat := fld (g 0x104) 7 0
def holdRate (g : Nat → Word) : Nat := fld (g 0x108) 31 16
def ppsDelay (g : Nat → Word) : Int := sgn 16 (fld (g 0x10C) 15 0)
/-- `PKG_YOKE` (R357). -/
def pairEn (g : Nat → Word) : Bool := bitOf (g 0x110) 31
def yokePref (g : Nat → Word) : Bool := bitOf (g 0x110) 30
def yokeLanes (g : Nat → Word) : Nat := fld (g 0x110) 27 24
def yieldMask (g : Nat → Word) : Nat := fld (g 0x110) 18 16

/-- `PKG_DUAL` bit of a channel (R357). -/
def dualSend (g : Nat → Word) (ch : Nat) : Bool := bitOf (g (0x120 + 4 * (ch / 32))) (ch % 32)

/-- `PKG_RESEAT` (R385): EN, SPARE_DIE, SPARE_LOCAL, SPARE_MASK, SPARE_ENTRY. -/
def reseatLoc (ch : Nat) : Nat := 0x400 + 4 * ch
def reseatEn (g : Nat → Word) (ch : Nat) : Bool := bitOf (g (reseatLoc ch)) 31
def spareDie (g : Nat → Word) (ch : Nat) : Nat := fld (g (reseatLoc ch)) 30 28
def spareLocal (g : Nat → Word) (ch : Nat) : Nat := fld (g (reseatLoc ch)) 27 23
def spareMask (g : Nat → Word) (ch : Nat) : Nat := fld (g (reseatLoc ch)) 19 16
def spareEntry (g : Nat → Word) (ch : Nat) : Nat := fld (g (reseatLoc ch)) 14 0

/-! ## Lanes and ports (R440) -/

/-- Location of `LANE_CTRL` of Ethernet lane `l`. -/
def laneLoc (l : Nat) : Nat := ploc (pkey (l / 4) (0x110 + l % 4)) 0x100

/-- FORM of lane `l`'s page. -/
def laneForm (g : Nat → Word) (l : Nat) : Nat := fld (g (laneLoc l)) 2 0

/-- MEDIA of lane `l`'s page. -/
def laneMedia (g : Nat → Word) (l : Nat) : Nat := fld (g (laneLoc l)) 25 24

/-- TX_EN of lane `l`'s page. -/
def laneTxEn (g : Nat → Word) (l : Nat) : Bool := bitOf (g (laneLoc l)) 31

/-- Lanes that a FORM covers (R440). -/
def formLanes (f : Nat) : Nat := if f = 0 then 0 else if f = 1 then 1 else if f = 2 then 2 else if f = 3 then 4 else 0

/-- The lanes of the port formed at lane `p`. -/
def portLanes (g : Nat → Word) (p : Nat) : List Nat := List.range' p (formLanes (laneForm g p))

/-- The first lane of the port that covers lane `l` (R440); none when it is unclaimed. -/
def portOf (g : Nat → Word) (l : Nat) : Option Nat :=
  (List.range' (l / 4 * 4) (l % 4 + 1)).find? (fun p => decide (l < p + formLanes (laneForm g p)))

/-- A port's MAC rate in Gb/s: 100 per lane (R30, R440). -/
def portGbps (g : Nat → Word) (p : Nat) : Nat := 100 * formLanes (laneForm g p)

def holdLimit (g : Nat → Word) : Nat := fld (g 0x108) 15 0

/-! ## Services (R314–R316) -/

/-- A service index that is a video service. -/
def isVideoSvc (v : Nat) : Bool := decide (v % 512 < 256)

/-- Channel of a video service (R314). -/
def svcCh (v : Nat) : Nat := 32 * (v / 512) + v % 512 / 8

/-- Video services of a channel. -/
def chSvcs (ch : Nat) : List Nat := List.range' (512 * (ch / 32) + 8 * (ch % 32)) 8

/-- The YARD page of die `d`. -/
def pgYard (d : Nat) : Nat := pkey d 0x107

/-- Location of `YARD_SVC` of a video service. -/
def svcLoc (v : Nat) : Nat := ploc (pgYard (v / 512)) (0x400 + 4 * (v % 512))

/-- Location of `YARD_PACK_A` (0), `_B` (1) or `_C` (2) of a channel. -/
def packLoc (ch i : Nat) : Nat := ploc (pgYard (ch / 32)) (0x100 + 12 * (ch % 32) + 4 * i)

/-- A video service's configuration, with the packing words of its channel (R316). -/
structure SvcCfg where
  valid : Bool
  form : Nat
  ext : Bool
  fec : Nat
  dual : Bool
  srtp : Nat
  key : Nat
  size : Nat
  pt : Nat
  idB : Nat
  idA : Nat
  tsPer : Nat
  fecD : Nat
  fecL : Nat
  pmt : Nat
  vpid : Nat
  deriving DecidableEq, Repr

/-- R316. -/
def svcCfg (g : Nat → Word) (v : Nat) : SvcCfg :=
  let w := g (svcLoc v)
  let a := g (packLoc (svcCh v) 0)
  let b := g (packLoc (svcCh v) 1)
  let c := g (packLoc (svcCh v) 2)
  { valid := bitOf w 31, form := fld w 30 29, ext := bitOf w 28, fec := fld w 27 26, dual := bitOf w 25
    srtp := fld w 24 23, key := fld w 11 0, size := fld a 29 16, pt := fld a 14 8, idB := fld a 7 4, idA := fld a 3 0
    tsPer := fld b 26 24, fecD := fld b 20 16, fecL := fld b 12 8, pmt := fld c 28 16, vpid := fld c 12 0 }

/-- Video services of die `d` that a store lists. -/
def svcsOf (t : Tbl Word) (d : Nat) : List Nat :=
  (unitsIn (svcLoc (512 * d)) (svcLoc (512 * d) + 1024) 4 t).map (fun i => 512 * d + i)

/-! ## The flow table (R334) -/

/-- Location of word `i` of flow-table entry `f`. -/
def flowLoc (f i : Nat) : Nat := bar2loc (0x100000 + 64 * f + 4 * i)

/-- A flow-table entry. -/
structure FlowCfg where
  valid : Bool
  audio : Bool
  tagged : Bool
  portB : Nat
  portA : Nat
  svc : Nat
  dstA : Word
  dstB : Word
  dport : Nat
  sport : Nat
  dscp : Nat
  vlanB : Nat
  vlanA : Nat
  pcp : Nat
  ttl : Nat
  cir : Nat
  cbs : Nat
  deriving DecidableEq, Repr

/-- R334, from an entry's words. -/
def flowCfgOf (w : Nat → Word) : FlowCfg :=
  { valid := bitOf (w 0) 31, audio := bitOf (w 0) 30, tagged := bitOf (w 0) 29, portB := fld (w 0) 28 24
    portA := fld (w 0) 20 16, svc := fld (w 0) 11 0, dstA := w 1, dstB := w 2, dport := fld (w 3) 31 16
    sport := fld (w 3) 15 0, dscp := fld (w 4) 31 26, vlanB := fld (w 4) 23 12, vlanA := fld (w 4) 11 0
    pcp := fld (w 5) 31 29, ttl := fld (w 5) 7 0, cir := (w 6).toNat, cbs := (w 7).toNat }

/-- R334. -/
def flowCfg (g : Nat → Word) (f : Nat) : FlowCfg := flowCfgOf (fun i => g (flowLoc f i))

/-- The 16 words of an entry. -/
def flowWords (g : Nat → Word) (f : Nat) : List Word := (List.range 16).map (fun i => g (flowLoc f i))

/-- An entry read from its saved words. -/
def flowCfgL (l : List Word) : FlowCfg := flowCfgOf (fun i => l.getD i 0)

/-- Entries that a store lists. -/
def flowsOf (t : Tbl Word) : List Nat := unitsIn (flowLoc 0 0) (flowLoc 32768 0) 64 t

/-! ## Ports: GATE and SHAPE pages, gate control lists (R344, R346, R347) -/

/-- The GATE page of a lane. -/
def pgGate (l : Nat) : Nat := pkey (l / 4) (0x10C + l % 4)

/-- Word `off` of the GATE page of lane `l`. -/
def gateW (g : Nat → Word) (l off : Nat) : Word := g (ploc (pgGate l) off)

def gateAddr (g : Nat → Word) (l : Nat) : Word := gateW g l 0x100
def gatePrefix (g : Nat → Word) (l : Nat) : Nat := fld (gateW g l 0x104) 5 0
def gateway (g : Nat → Word) (l : Nat) : Word := gateW g l 0x108
def gateMac (g : Nat → Word) (l : Nat) : Nat := fld (gateW g l 0x10C) 15 0 * 2 ^ 32 + (gateW g l 0x110).toNat
def shapeRate (g : Nat → Word) (l : Nat) : Nat := fld (gateW g l 0x114) 18 0
def shapeBurst (g : Nat → Word) (l : Nat) : Nat := (gateW g l 0x118).toNat
def mgmtBurst (g : Nat → Word) (l : Nat) : Nat := fld (gateW g l 0x11C) 31 16
def mgmtRate (g : Nat → Word) (l : Nat) : Nat := fld (gateW g l 0x11C) 15 0
def cmdEn (g : Nat → Word) (l : Nat) : Bool := bitOf (gateW g l 0x120) 31
def cmdKey (g : Nat → Word) (l : Nat) : Nat := fld (gateW g l 0x120) 27 16
def cmdPort (g : Nat → Word) (l : Nat) : Nat := fld (gateW g l 0x120) 15 0
def cmdSrc (g : Nat → Word) (l : Nat) : Word := gateW g l 0x124
def glEn (g : Nat → Word) (l : Nat) : Bool := bitOf (gateW g l 0x128) 31
def glLength (g : Nat → Word) (l : Nat) : Nat := fld (gateW g l 0x128) 8 0
def glCycle (g : Nat → Word) (l : Nat) : Nat := (gateW g l 0x12C).toNat
def glBaseNs (g : Nat → Word) (l : Nat) : Nat := (gateW g l 0x130).toNat

/-- Base time of the list in ns (R347). -/
def glBase (g : Nat → Word) (l : Nat) : Nat :=
  (fld (gateW g l 0x138) 15 0 * 2 ^ 32 + (gateW g l 0x134).toNat) * 1000000000 + glBaseNs g l

/-- Location of word `w` of entry `i` of the gate control list of lane `l` (R346). -/
def glLoc (l i w : Nat) : Nat := bar2loc (0x410000 + 4096 * l + 8 * i + 4 * w)

/-- The list's entries: (GATES, INTERVAL). -/
def glEntries (g : Nat → Word) (l : Nat) : List (Nat × Nat) :=
  (List.range (glLength g l)).map (fun i => (fld (g (glLoc l i 0)) 3 0, (g (glLoc l i 1)).toNat))

/-- `QUANTUM` of ancillary queue `q` of lane `l` (R344). -/
def quantum (g : Nat → Word) (l q : Nat) : Nat := fld (g (ploc (pkey (l / 4) 0x109) (0x100 + 32 * (l % 4) + 4 * q))) 13 0

/-! ## Rates of channels and services (R207, R229, R337, R339) -/

/-- Slices per furrow: 1, 2, 4 or 8 (R207). -/
def slicesPer (g : Nat → Word) (ch : Nat) : Nat := 2 ^ fld (g (chLoc ch 0x148)) 1 0

/-- Location of word `off` of a channel's DRILL page. -/
def drLoc (ch off : Nat) : Nat := ploc (chPage 0x220 ch) off

/-- The channel's peak rate in b/s: PEAK, or RATE where PEAK is 0 (R229). -/
def peakRate (g : Nat → Word) (ch : Nat) : Nat :=
  let p := (g (drLoc ch 0x108)).toNat
  1000 * (if p = 0 then (g (drLoc ch 0x104)).toNat else p)

/-! ## Audio flows and their services (R400, R403–R405) -/

/-- Location of word `off` of the AFL page of audio flow `f`, 64 die + local number. -/
def aflLoc (f off : Nat) : Nat := ploc (pkey (f / 64) (0x300 + f % 64)) off

/-- `AFL_CTRL`. -/
structure AflCfg where
  valid : Bool
  mix : Bool
  l24 : Bool
  pt125 : Bool
  chans : Nat
  latency : Nat      -- µs
  deriving DecidableEq, Repr

/-- R400. -/
def aflCfg (g : Nat → Word) (f : Nat) : AflCfg :=
  let w := g (aflLoc f 0x100)
  { valid := bitOf w 31, mix := bitOf w 30, l24 := bitOf w 29, pt125 := bitOf w 28, chans := fld w 21 16 + 1
    latency := fld w 14 0 }

/-- Samples of a packet time (R400). -/
def AflCfg.n (c : AflCfg) : Nat := if c.pt125 then 6 else 48

/-- Bytes of a sample (R404). -/
def AflCfg.width (c : AflCfg) : Nat := if c.l24 then 3 else 2

/-- Zero-crossing timeout of a flow in samples (R412). -/
def aflZc (g : Nat → Word) (f : Nat) : Nat := 24 * fld (g (aflLoc f 0x104)) 5 0

/-- The audio flow of an audio service, and its number there (R314). -/
def asvcFlow (v : Nat) : Nat := 64 * (v / 512) + (v % 512 - 256) / 4
def asvcNum (v : Nat) : Nat := v % 4

/-- The audio service `j` of flow `f`. -/
def asvcOf (f j : Nat) : Nat := 512 * (f / 64) + 256 + 4 * (f % 64) + j

/-- An audio service's words. -/
structure ASvcCfg where
  valid : Bool
  form1 : Bool
  dual : Bool
  srtp : Nat
  dataOk : Bool
  first : Nat
  count : Nat        -- channels carried
  key : Nat
  pid : Nat
  pt : Nat
  vsvc : Nat
  deriving DecidableEq, Repr

/-- R400. -/
def asvcCfg (g : Nat → Word) (v : Nat) : ASvcCfg :=
  let a := g (aflLoc (asvcFlow v) (0x110 + 8 * asvcNum v))
  let b := g (aflLoc (asvcFlow v) (0x114 + 8 * asvcNum v))
  { valid := bitOf a 31, form1 := bitOf a 30, dual := bitOf a 29, srtp := fld a 28 27, dataOk := bitOf a 26
    first := fld a 25 20, count := fld a 19 14 + 1, key := fld a 11 0, pid := fld b 28 16, pt := fld b 14 8, vsvc := fld b 7 0 }

/-- Largest frame cost of a FORM 0 audio service in bytes (R404). -/
def asvcCost (g : Nat → Word) (v : Nat) : Nat :=
  let f := aflCfg g (asvcFlow v)
  f.n * (asvcCfg g v).count * f.width + 98

/-- `AFL_ROUTE`: MUTE, SRC, A, B. -/
def routeW (g : Nat → Word) (f k : Nat) : Word := g (aflLoc f (0x180 + 4 * k))
def routeSrc (w : Word) : Nat := fld w 30 28
def routeA (w : Word) : Nat := fld w 15 8
def routeB (w : Word) : Nat := fld w 7 0

/-- The FORM 1 audio services that video service `v` carries: VALID flows of its die whose VSVC names it (R405). -/
def tsAudio (g : Nat → Word) (v : Nat) : List Nat :=
  (List.range' (512 * (v / 512) + 256) 256).filter (fun a =>
    let c := asvcCfg g a
    c.valid && c.form1 && decide (c.vsvc = v % 512) && (aflCfg g (asvcFlow a)).valid)

/-- TS packets of one PES of a FORM 1 service (R405). -/
def pesPackets (g : Nat → Word) (a : Nat) : Nat :=
  let f := aflCfg g (asvcFlow a)
  cdiv (18 + f.n * (asvcCfg g a).count / 2 * (if f.l24 then 7 else 5)) 184

/-- PES of a FORM 1 service that fall into a furrow captured between instants `a` (out) and `b` (in), which are multiples
of 1/u s (R405): packet time j ends at (j + 1) n / 48,000 s. -/
def pesIn (f : AflCfg) (a b u : Nat) : Nat := b * 48000 / (u * f.n) - a * 48000 / (u * f.n)

/-- The audio allowance of a video service (R337, R405). -/
def audioAllowance (g : Nat → Word) (v : Nat) : Nat :=
  let c := svcCfg g v
  let f := chFmt g (svcCh v)
  ((tsAudio g v).map (fun a =>
    let k := if (aflCfg g (asvcFlow a)).pt125 then 8000 else 1000
    (cdiv (f.c * f.den * k) (f.num * f.h) + 1) * pesPackets g a * (188 + cdiv 102 c.tsPer))).sum

/-- The allowance W of a video service (R337). -/
def allowance (g : Nat → Word) (v : Nat) : Nat :=
  let c := svcCfg g v
  let ch := svcCh v
  let f := chFmt g ch
  let b := cdiv (peakRate g ch * f.den * f.c / (f.num * f.h)) 8
  let lim := c.size - 40 - (if c.srtp ≠ 0 then 16 else 0)
  let x := if c.ext then 40 else 0
  let n := if c.form = 0 then cdiv b (lim - 4) + slicesPer g ch + 12 else cdiv (cdiv (b + 22) 184 + 3) c.tsPer
  let w := if c.form = 0 then b + 102 * n + x else 188 * (cdiv (b + 22) 184 + 3) + 102 * n + x + audioAllowance g v
  let w := if c.fec ≠ 0 then w + (cdiv n c.fecL + 1) * (c.size + 58) else w
  if c.fec = 2 then w + (cdiv n c.fecD + 1) * (c.size + 58) else w

/-- The committed rate of one path of a service in b/s: of a video service ceil(8 W N H / (M c)) (R339), of an audio service
its largest frame cost once a packet time (R404). -/
def svcRate (g : Nat → Word) (v : Nat) : Nat :=
  if isVideoSvc v then
    let f := chFmt g (svcCh v)
    cdiv (8 * allowance g v * f.num * f.h) (f.den * f.c)
  else 8 * asvcCost g v * (48000 / (aflCfg g (asvcFlow v)).n)

/-- The largest frame cost of a service in bytes (R334, R404). -/
def svcCost (g : Nat → Word) (v : Nat) : Nat := if isVideoSvc v then (svcCfg g v).size + 58 else asvcCost g v

/-- The service sends on two paths. -/
def svcDual (g : Nat → Word) (v : Nat) : Bool := if isVideoSvc v then (svcCfg g v).dual else (asvcCfg g v).dual

/-! ## TDM ports (R408) -/

/-- Word `off` of the AUD page of port `p`. -/
def audW (g : Nat → Word) (p off : Nat) : Word := g (ploc (8 + p) off)

def audEn (g : Nat → Word) (p : Nat) : Bool := bitOf (audW g p 0x100) 31
def audOutEn (g : Nat → Word) (p : Nat) : Bool := bitOf (audW g p 0x100) 30
def audAuto (g : Nat → Word) (p : Nat) : Bool := bitOf (audW g p 0x100) 28
def audZc (g : Nat → Word) (p : Nat) : Nat := 24 * fld (audW g p 0x114) 5 0

/-- `AUD_OUT_SRC` of output slot `i`. -/
def audOutSrc (g : Nat → Word) (p i : Nat) : Word := audW g p (0x180 + 4 * i)

/-- `AUD_CTRL`'s fields that shape a frame. -/
def ctlLeader (w : Word) : Bool := bitOf w 29
def ctlRate (w : Word) : Nat := fld w 27 26
def ctlWidth (w : Word) : Nat := [16, 20, 24, 32].getD (fld w 25 24) 32
def ctlSlots (w : Word) : Nat := fld w 4 0 + 1

/-- Bit clocks of a frame (R409). -/
def ctlBits (w : Word) : Nat := ctlSlots w * ctlWidth w
def ctlOffset (w : Word) : Nat := fld w 20 16

end Sys2Proof.Machine
end

