-- ==== Sys2Proof/Machine/Lanes.lean ====
section
/-! DEFINITION. Serial lanes: states, ports, counters of the DIE and LANE pages, and the eye scan (R438–R459), as
operations. Lane 0–31 is an Ethernet lane by its package number; 32 + i is YKi. -/

namespace Sys2Proof.Machine

open Sys2Proof

/-- Lane states (R446). -/
def stOff : Nat := 0
def stSearch : Nat := 1
def stLocking : Nat := 2
def stTraining : Nat := 3
def stUp : Nat := 4
def stIdle : Nat := 5
def stFault : Nat := 6

/-- The lane exists in this variant. -/
def laneExists (s : State) (l : Nat) : Bool := decide (l < 4 * dies s) || (decide (32 ≤ l) && decide (l < 36))

/-- Lane `l`. -/
def lane (s : State) (l : Nat) : Lane := s.lanes.get (fun _ => {}) l

/-- The state with lane `l` changed by `f`. -/
def modLane (l : Nat) (f : Lane → Lane) (s : State) : State := { s with lanes := s.lanes.set (fun _ => {}) l (f (lane s l)) }

/-- The DIE page that shows lane `l`, and its lane block there (R450). -/
def diePageOf (l : Nat) : Nat := if 32 ≤ l then pkey 0 0x100 else pkey (l / 4) 0x100
def laneBlock (l : Nat) : Nat := if 32 ≤ l then 4 + (l - 32) else l % 4

/-- The lane of block `j` of die `d`'s DIE page; none where the block does not exist. -/
def blockLane (d j : Nat) : Option Nat :=
  if j < 4 then some (4 * d + j) else if d = 0 ∧ j < 8 then some (32 + (j - 4)) else none

/-- The LANE page of an Ethernet lane. -/
def lanePage (l : Nat) : Nat := pkey (l / 4) (0x110 + l % 4)

/-- DIE page counter `n` of the lane (R459). -/
def dieCtr (l n x : Nat) : State → State := bump (diePageOf l) (16 * laneBlock l + n) x

/-- The lane's transmitter is enabled (R440, R456); a lane whose die's ING domain is down transmits nothing (R26). -/
def txEnabled (s : State) (l : Nat) : Bool :=
  if 32 ≤ l then pairEn (effW s) && (yokeLanes (effW s)).testBit (l - 32)
  else match portOf (effW s) l with
    | some p => laneTxEn (effW s) p && s.pwr.domUp.contains (16 * (l / 4) + 6)
    | none => false

/-- The skew of the lanes of the port at lane `p` is within range under the words `g` (R446); one lane has none. -/
def inSkew (g : Nat → Word) (s : State) (p : Nat) : Bool :=
  decide ((portLanes g p).length ≤ 1) || Config.deskewed p ((portLanes g p).map (fun l => (lane s l).ups))

/-- The port that the words `g` form at lane `p` is UP (R446). -/
def portUpIn (g : Nat → Word) (s : State) (p : Nat) : Bool :=
  !(portLanes g p).isEmpty && (portLanes g p).all (fun l => decide ((lane s l).st = stUp)) && inSkew g s p

/-- The port formed at lane `p` is UP. -/
def portUp (s : State) (p : Nat) : Bool := portUpIn (effW s) s p

/-- What LINK_UP of lane `l`'s page reports under the words `g`: the port in its first lane, else the lane (R458). -/
def linkCondIn (g : Nat → Word) (s : State) (l : Nat) : Bool :=
  if portOf g l = some l then portUpIn g s l else decide ((lane s l).st = stUp)

/-- What LINK_UP of lane `l`'s page reports. -/
def linkCond (s : State) (l : Nat) : Bool := linkCondIn (effW s) s l

/-- What DEGRADED of lane `l`'s page reports under the words `g` (R448, R458): more than 417 corrected symbols in the port's last block, in a
port's first lane; in another lane in its share of it. -/
def degradedIn (g : Nat → Word) (s : State) (l : Nat) : Bool :=
  decide (417 < if portOf g l = some l then (lane s l).portSyms else (lane s l).syms)

/-- What DEGRADED of lane `l`'s page reports. -/
def degradedCond (s : State) (l : Nat) : Bool := degradedIn (effW s) s l

/-- Events of the LANE page of lane `l` for what changed since `s0`, where the words `g` were in effect: LINK_UP, LINK_DOWN, DEGRADED. -/
def linkEvents (g : Nat → Word) (l : Nat) (s0 s : State) : State :=
  if 32 ≤ l then s
  else
    let k := lanePage l
    let a := linkCondIn g s0 l
    let b := linkCond s l
    let s1 := if !a && b then raiseBit k 0 s else if a && !b then bump k 9 1 (raiseBit k 2 s) else s
    if !degradedIn g s0 l && degradedCond s l then raiseBit k 1 s1 else s1

/-- The events of lane `l`'s own page and of its port's first lane's page. -/
def allLinkEvents (l : Nat) (s0 s : State) : State :=
  let g := effW s0
  let s1 := linkEvents g l s0 s
  match portOf (effW s) l with
  | some p => if p = l then s1 else linkEvents g p s0 s1
  | none => s1

/-- A running eye scan is aborted (R455). -/
def eyeAbort (l : Nat) (s : State) : State :=
  if (lane s l).busy then raiseBit (diePageOf l) 1 (modLane l (fun x => { x with busy := false, aborted := true }) s) else s

/-- The beat lane: the lowest-numbered lane of LANES that is UP or IDLE (R456). -/
def beatLane (s : State) : Option Nat :=
  [32, 33, 34, 35].find? (fun l => txEnabled s l && (decide ((lane s l).st = stUp) || decide ((lane s l).st = stIdle)))

/-- An idle yoke lane sends again: the burst, and the lane is UP (R457). -/
def idleExit (l : Nat) (s : State) : State :=
  emit (.wakeBurst l) (dieCtr l 8 1 (modLane l (fun x => { x with st := stUp, txOn := true }) s))

/-- A beat lane that is IDLE exits idle (R456). -/
def wakeBeat (s : State) : State :=
  match beatLane s with
  | some l => if (lane s l).st = stIdle then idleExit l s else s
  | none => s

/-- Lane `l` and the lanes of its port. -/
def portMates (s : State) (l : Nat) : List Nat :=
  match if 32 ≤ l then none else portOf (effW s) l with
  | some p => portLanes (effW s) p
  | none => [l]

/-- Blocks of codewords are counted anew as lane `l` has lost its lock. -/
def blocksAnew (l : Nat) (s : State) : State :=
  (portMates s l).foldl (fun s x => modLane x (fun y => { y with shares := [], portSyms := 0 }) s) (modLane l (fun y => { y with syms := 0 }) s)

/-- The lane enters state `st`; leaving UP or IDLE for another state aborts its scan. A lane that searches, is off or in FAULT has no
signal. -/
def laneMove (l st : Nat) (s0 : State) : State :=
  let old := (lane s0 l).st
  let s := modLane l (fun x => { x with
    st := st
    signal := x.signal && decide (2 ≤ st ∧ st ≤ 5)
    ups := if st = stUp ∧ x.st ≠ stUp ∧ x.st ≠ stIdle then x.ups + 1 else x.ups
    lock := decide (st = stTraining ∨ st = stUp ∨ st = stIdle)
    fecLock := decide (st = stUp ∨ st = stIdle)
    txOn := txEnabled s0 l && decide (st = stTraining ∨ st = stUp)
    trained := x.trained && decide (st = stUp ∨ st = stIdle)
    retry := false
    converged := x.converged && decide (2 ≤ st ∧ st ≤ 5) }) s0
  if st = stUp ∨ st = stIdle then s
  else blocksAnew l (if old = stUp ∨ old = stIdle then eyeAbort l s else s)

/-- The lane enters state `st`, with the events of its page and its port's; a lost beat lane is replaced. -/
def laneTo (l st : Nat) (s0 : State) : State :=
  let s := allLinkEvents l s0 (laneMove l st s0)
  if 32 ≤ l then wakeBeat s else s

/-- Die sleep or reset: OFF, unless the lane is in FAULT (R446). -/
def laneOff (l : Nat) (s : State) : State := if (lane s l).st = stFault then s else laneTo l stOff s

/-- The block domains of die `d` have been brought up once, those that failed apart (R81). -/
def blocksUp (s : State) (d : Nat) : Bool :=
  (page s (pkey d 0x100)).fault ||
    [0, 1, 2, 3, 4, 5, 6, 7, 10].all (fun i => s.pwr.domOnce.contains (16 * d + i) || s.pwr.domFault.contains (16 * d + i))

/-- The lanes of die `d` are calibrated, those that failed apart; the lead die's are the yoke lanes too (R81). -/
def lanesReady (s : State) (d : Nat) : Bool :=
  [0, 1, 2, 3].all (fun i => s.pwr.laneCal.contains (4 * d + i) || (page s (lanePage (4 * d + i))).fault) &&
    (decide (d ≠ 0) || [32, 33, 34, 35].all (fun l => s.pwr.laneCal.contains l || decide ((lane s l).st = stFault)))

/-- Calibration completes: the lane is ready and searches (R446). -/
def laneSearch (l : Nat) (s : State) : State :=
  let s := { s with pwr := { s.pwr with laneCal := NSet.add s.pwr.laneCal l } }
  if (lane s l).st = stOff then laneTo l stSearch s else s

/-- The lane goes back to LOCKING by `move` (R443, R446, R452): only where it has a signal. -/
def relockBy (move : Nat → Nat → State → State) (l : Nat) (s : State) : State :=
  let st := (lane s l).st
  if st = stUp ∨ st = stTraining ∨ st = stIdle ∨ st = stLocking then
    modLane l (fun x => { x with converged := false }) (move l stLocking s)
  else s

/-- The lane goes back to LOCKING. -/
def laneRelock (l : Nat) (s : State) : State := relockBy laneTo l s

/-- Lanes whose page is `k` (R446). DEDUCED: that of YK0–YK3 is the YOKE page, which R81 makes READY once they are calibrated. -/
def lanesOfPage (k : Nat) : List Nat :=
  let p := keyPage k
  if 0x110 ≤ p ∧ p ≤ 0x113 then [4 * keyDie k + (p - 0x110)] else if k = 7 then [32, 33, 34, 35] else []

/-- What follows on the FAULT of page `k`, which was in FAULT before where `was` says so: the event of a CE page (R227), and the page's lanes
enter FAULT (R446). -/
def faultActs (was : Bool) (k : Nat) (s : State) : State :=
  let s := if 0x120 ≤ keyPage k ∧ keyPage k < 0x124 ∧ was = false then raiseBit k 0 s else s
  (lanesOfPage k).foldl (fun s l => laneTo l stFault s) s

/-- Pages whose READY may fall as the pages `ks` fault: with an MC page, those of its whole die (R82). -/
def fallWith (ks : List Nat) : List Nat :=
  (ks.filter (fun k => decide (keyPage k = 0x101))).flatMap (fun k => pagesOf (keyDie k)) ++
    ks.filter (fun k => !ks.contains (pkey (keyDie k) 0x101))

/-- FAULT rises in the pages `ks` at one instant (R44, R87): READY_DROP for each page that was ready. -/
def setFaults (ks : List Nat) (s0 : State) : State :=
  let s := dropReady (fallWith ks) s0 (ks.foldl (fun s k => modPage k (fun h => { h with fault := true }) s) s0)
  ks.foldl (fun s k => faultActs (page s0 k).fault k s) s

/-- FAULT rises in one page. -/
def setFault (k : Nat) (s : State) : State := setFaults [k] s

/-! ## Equalisation and the eye scan (R450–R455) -/

/-- The sum of the magnitudes of the taps of a `PHY_TXEQ` word (R451). -/
def tapSum (v : Word) : Nat :=
  (sgn 4 (fld v 27 24)).natAbs + (sgn 5 (fld v 20 16)).natAbs + (sgn 6 (fld v 13 8)).natAbs + (sgn 5 (fld v 4 0)).natAbs

/-- A write to `PHY_TXEQ` (R451): taps above 24 in sum discard it whole, a PRESET outside 1–5 keeps the field. -/
def writeTxeq (l : Nat) (v : Word) (s : State) : State :=
  if 24 < tapSum v then s
  else
    let old := (lane s l).txeq
    let p := if 1 ≤ fld v 30 28 ∧ fld v 30 28 ≤ 5 then fld v 30 28 else fld old 30 28
    modLane l (fun x => { x with txeq := (v &&& 0x8F1F3F1F) ||| BitVec.ofNat 32 (p * 2 ^ 28) }) s

/-- A write to `PHY_RXEQ` (R452). With READAPT and FREEZE together adaptation runs, and freezes once it has converged. -/
def writeRxeq (l : Nat) (v : Word) (s : State) : State :=
  let s := modLane l (fun x => { x with freeze := bitOf v 31, noPre := bitOf v 29, rerun := x.rerun || bitOf v 30 }) s
  if bitOf v 30 then laneRelock l s else s

/-- A write to `PHY_EYE_CTRL` (R454, R455). -/
def writeEye (l : Nat) (v : Word) (s : State) : State :=
  let dw := fld v 20 16
  let ey := fld v 9 8
  let s := modLane l (fun x => { x with
    dwell := if 10 ≤ dw ∧ dw ≤ 30 then dw else x.dwell
    eye := if ey = 3 then x.eye else ey }) s
  if bitOf v 1 then eyeAbort l s
  else if bitOf v 0 && !(lane s l).busy then
    modLane l (fun x => { x with busy := true, done := false, aborted := false, cells := 0, cellData := [], scanEye := x.eye }) s
  else s

/-- The count of a cell of the grid (R453). -/
def cellAt (x : Lane) (r c : Nat) : Nat := x.cellData.get (fun _ => 0) (64 * r + c)

/-- Cells with count 0 from index 32 upward and from 31 downward, as long as they run (R454). -/
def runUp (f : Nat → Nat) : Nat → Nat → Nat
  | 0, _ => 0
  | n + 1, i => if f i = 0 then 1 + runUp f n (i + 1) else 0

/-- The same downward from `i`. -/
def runDown (f : Nat → Nat) : Nat → Nat
  | 0 => if f 0 = 0 then 1 else 0
  | i + 1 => if f (i + 1) = 0 then 1 + runDown f i else 0

/-- Cells with count 0 around cell 32, cell 32 included; 0 when cell 32 has a count. -/
def zeroSpan (f : Nat → Nat) : Nat := if f 32 = 0 then runUp f 32 32 + runDown f 31 else 0

/-- A cell's dwell ends with `n` disagreements (R453); the last completes the scan (R455). -/
def eyeCell (l n : Nat) (s : State) : State :=
  if (lane s l).busy then
    let s := modLane l (fun x => { x with
      cellData := x.cellData.set (fun _ => 0) x.cells (min n 65535), cells := x.cells + 1 }) s
    if (lane s l).cells = 4096 then
      let x := lane s l
      let hgt := zeroSpan (fun r => cellAt x r 32)
      let wid := zeroSpan (fun c => cellAt x 32 c)
      raiseBit (diePageOf l) 0 (modLane l (fun x => { x with
        busy := false, done := true, margin := BitVec.ofNat 32 (x.scanEye * 2 ^ 30 + hgt * 2 ^ 8 + wid) }) s)
    else s
  else s

/-- A yoke lane that LANES or PAIR_EN has dropped runs its receiver untrained, as an unclaimed lane does (R456); one in IDLE, which only a
lane of LANES holds (R457), locks again. -/
def untrain (l : Nat) (s : State) : State :=
  modLane l (fun x => { x with trained := false }) (if (lane s l).st = stIdle then laneRelock l s else s)

/-- A generation that changes lanes takes effect (R443, R456): `old` is the words in effect before. What the LANE pages reported under those
words is the measure of what has changed. -/
def lanesTakeEffect (old : Nat → Word) (s0 : State) : State :=
  let all := List.range (4 * dies s0)
  let eth := all.filter (fun l =>
    let p := portOf old l
    let q := portOf (effW s0) l
    decide (p ≠ q) ||
      (match p, q with
        | some a, some b => decide (laneForm old a ≠ laneForm (effW s0) b) || decide (laneMedia old a ≠ laneMedia (effW s0) b) ||
            (!laneTxEn old a && laneTxEn (effW s0) b)
        | _, _ => false))
  let was := fun l => pairEn old && (yokeLanes old).testBit (l - 32)
  let s := all.foldl (fun s l => linkEvents old l s0 s) (eth.foldl (fun s l => relockBy laneMove l s) s0)
  let s := ([32, 33, 34, 35].filter (fun l => !was l && txEnabled s l)).foldl (fun s l => laneRelock l s) s
  let s := ([32, 33, 34, 35].filter (fun l => was l && !txEnabled s l)).foldl (fun s l => untrain l s) s
  (all ++ [32, 33, 34, 35]).foldl (fun s l =>
    if (lane s l).txOn && !txEnabled s l then modLane l (fun x => { x with txOn := false }) s else s) s

end Sys2Proof.Machine
end

