-- ==== Sys2Proof/Machine/Sets.lean ====
section
/-! DEFINITION. Commit sets: the commit table, a set's members, the pages that alias it, its checksum, and the words of it that
have taken effect (R53–R60, R71). -/

namespace Sys2Proof.Machine

open Sys2Proof

/-! ## The commit table (R54) -/

/-- Word `w` of set `q`'s entry. -/
def ctabW (s : State) (q w : Nat) : Word := s.ctab.get (fun _ => 0) (16 * q + w)

/-- Words 0 to 13 of the entry. -/
def entryOf (s : State) (q : Nat) : List Word := (List.range 14).map (ctabW s q)

/-- A member word is valid. -/
def mwValid (w : Word) : Bool := bitOf w 31

/-- A member word names table pages. -/
def mwTables (w : Word) : Bool := bitOf w 30

/-- The pages, or table pages, that a member word names: first and count. -/
def mwFirst (w : Word) : Nat := fld w 29 14
def mwCount (w : Word) : Nat := fld w 13 1 + 1

/-- The word names BAR0 page `k`: FIRST counts die and page as a page key does. -/
def mwHas (tables : Bool) (w : Word) (k : Nat) : Bool :=
  mwValid w && (mwTables w == tables) && decide (mwFirst w ≤ k) && decide (k < mwFirst w + mwCount w)

/-- The pages (or table pages) that an entry names, each once, rising. -/
def membersOf (tables : Bool) (e : List Word) : List Nat :=
  (e.filter (fun w => mwValid w && (mwTables w == tables))).foldl (fun l w =>
    (List.range' (mwFirst w) (mwCount w)).foldl NSet.add l) []

/-- Sets of which a word of the table is listed, lowest first. -/
def namedSets (s : State) : List Nat := ((s.ctab.filter (fun e => decide (e.1 % 16 < 14))).map (fun e => e.1 / 16)).eraseDups

/-- The sets that name a page (or table page). -/
def setsNaming (tables : Bool) (s : State) (k : Nat) : List Nat :=
  (namedSets s).filter (fun q => (entryOf s q).any (fun w => mwHas tables w k))

/-- The set that a page aliases: the lowest-numbered that names it (R56). -/
def aliasSet (s : State) (k : Nat) : Option Nat := (setsNaming false s k).head?

/-- The reporting page of a set (R55): the first page of its first valid member word that names BAR0 pages. -/
def reportingPage (s : State) (q : Nat) : Option Nat := ((entryOf s q).find? (fun w => mwValid w && !mwTables w)).map mwFirst

/-- `f` done to the reporting page of a set, where it has one. -/
def atReport (q : Nat) (f : Nat → State → State) (s : State) : State :=
  match reportingPage s q with
  | none => s
  | some k => f k s

/-- `STAT` bit `i` of 31 to 28 of a set's reporting page, which reports the set that the page's aliases belong to: the events of a
higher-numbered set that names the page too are in no `STAT` (R56). -/
def raiseReport (q i : Nat) (s : State) : State :=
  atReport q (fun k s => if aliasSet s k = some q then raiseBit k i s else s) s

/-! ## The set's registers -/

/-- Set `q`. -/
def cset (s : State) (q : Nat) : CSet := s.sets.get (fun _ => {}) q

/-- The state with set `q` changed by `f`. -/
def modSet (q : Nat) (f : CSet → CSet) (s : State) : State := { s with sets := s.sets.set (fun _ => {}) q (f (cset s q)) }

/-- QUEUED, CHECK or APPLY. -/
def setBusy (s : State) (q : Nat) : Bool := decide ((cset s q).st = .queued) || decide ((cset s q).st = .check) || decide ((cset s q).st = .apply)

/-- Some set is QUEUED, CHECK or APPLY. -/
def anySetBusy (s : State) : Bool := s.sets.any (fun e => decide (e.2.st = .queued) || decide (e.2.st = .check) || decide (e.2.st = .apply))

/-- A set that names a page is in CHECK: the page is locked (R52, R53). -/
def locked (tables : Bool) (s : State) (k : Nat) : Bool := (setsNaming tables s k).any (fun q => decide ((cset s q).st = .check))

/-! ## Staged tables (R39) -/

/-- The die that holds table page `p`, for a table page of the staged tables. -/
def tablePageDie (p : Nat) : Option Nat :=
  if 0x100 ≤ p ∧ p < 0x300 then some ((p - 0x100) / 64)
  else if 0x300 ≤ p ∧ p < 0x400 then some ((p - 0x300) / 32)
  else if 0x410 ≤ p ∧ p < 0x430 then some ((p - 0x410) / 4)
  else if 0x430 ≤ p ∧ p < 0x450 then some ((p - 0x430) / 4)
  else none

/-- The table page is staged and its die is there. -/
def tablePageOk (s : State) (p : Nat) : Bool :=
  match tablePageDie p with
  | none => false
  | some d => decide (d < dies s)

/-- The page exists and has a staged area. -/
def pageOk (s : State) (k : Nat) : Bool := pageExists s k && stagedPage (keyPage k)

/-! ## The checksum (R59) -/

/-- One bit of the CRC-32C. -/
def crcBit (c : Word) : Word := if bitOf c 0 then (c >>> 1) ^^^ 0x82F63B78 else c >>> 1

/-- One byte. -/
def crcByte (c : Word) (b : Word) : Word := (List.range 8).foldl (fun c _ => crcBit c) (c ^^^ (b &&& 0xFF))

/-- One word, least significant byte first. -/
def crcWord (c w : Word) : Word := [0, 8, 16, 24].foldl (fun c i => crcByte c (w >>> i)) c

/-- The CRC-32C of a list of words. -/
def crc32c (l : List Word) : Word := l.foldl crcWord 0xFFFFFFFF ^^^ 0xFFFFFFFF

/-- The staged words of a member page: 448, zero where it has none. -/
def pageWords (s : State) (k : Nat) : List Word :=
  (List.range 448).map (fun i => if pageOk s k then stagedW s (ploc k (0x100 + 4 * i)) else 0)

/-- The staged words of a member table page: 1,024, zero where it has none. -/
def tablePageWords (s : State) (p : Nat) : List Word :=
  (List.range 1024).map (fun i => if tablePageOk s p then stagedW s (bar2loc (4096 * p + 4 * i)) else 0)

/-- The words of R59 of a set whose entry is `e`. -/
def stagedWords (s : State) (e : List Word) : List Word :=
  (membersOf false e).flatMap (pageWords s) ++ (membersOf true e).flatMap (tablePageWords s)

/-- The live checksum of set `q` (R367, R370): that of R59 over its live words, whether or not a generation of the set has passed. -/
def liveSum (s : State) (q : Nat) : Word := crc32c (stagedWords { s with staged := s.live } (entryOf s q))

/-! ## Locations (R59, R61) -/

/-- The entry `e` holds the staged word at location `a`. -/
def inEntry (e : List Word) (a : Nat) : Bool :=
  if a < 2 ^ 28 then decide (0x100 ≤ a % 4096) && decide (a % 4096 < 0x800) && e.any (fun w => mwHas false w (a / 4096))
  else e.any (fun w => mwHas true w ((a - 2 ^ 28) / 4096))

/-- The staged range of a page: from, up to. -/
def pageRange (k : Nat) : Nat × Nat := (ploc k 0x100, ploc k 0x800)

/-- The range of a table page. -/
def tableRange (p : Nat) : Nat × Nat := (bar2loc (4096 * p), bar2loc (4096 * (p + 1)))

/-- The staged ranges of an entry. -/
def entryRanges (e : List Word) : List (Nat × Nat) := (membersOf false e).map pageRange ++ (membersOf true e).map tableRange

/-- `dst` with ranges replaced by those of `src`. -/
def spliceAll (rs : List (Nat × Nat)) (src dst : Tbl Word) : Tbl Word := rs.foldl (fun t r => splice r.1 r.2 src t) dst

/-- `COMMIT_WHERE` for a location. -/
def whereWord (a : Nat) : Word :=
  if a < 2 ^ 28 then BitVec.ofNat 32 (a / 2 ^ 25 * 2 ^ 28 + a / 4096 % 8192 * 2 ^ 12 + a % 4096)
  else BitVec.ofNat 32 (2 ^ 31 + (a - 2 ^ 28))

/-! ## Banks of scaler coefficients (R174) -/

/-- The words that a picture of channel `ch` begins on: those in effect, and the coefficient tables that the channel's canvas
has switched to while another canvas still uses the old bank. -/
def picStore (s : State) (ch : Nat) (first : Bool) : Tbl Word :=
  let qs := (s.waits.map Prod.fst).eraseDups.filter (fun q =>
    !s.waits.contains (q, some ch) && !(first && s.waits.contains (q, none)))
  qs.foldl (fun t q =>
    let ps := (membersOf true (cset s q).entry).filter (fun p => decide (0x430 + 4 * (ch / 32) ≤ p) && decide (p < 0x434 + 4 * (ch / 32)))
    spliceAll (ps.map tableRange) s.live t) s.eff

/-- The code of a set's state (R61). -/
def setCode (x : SetState) : Nat :=
  match x with
  | .idle => 0
  | .queued => 1
  | .check => 2
  | .apply => 3
  | .done => 4
  | .failed => 5

end Sys2Proof.Machine
end

