-- ==== Sys2Proof/Machine/YFrame.lean ====
section
/-! DEFINITION. Yoke frames and state records as bytes, in network byte order (R7, R370, R394, R395). -/

namespace Sys2Proof.Machine

open Sys2Proof

/-- The CRC-32C of bytes. -/
def crcBytes (l : List Byte) : Word := l.foldl (fun c b => crcByte c (b.setWidth 32)) 0xFFFFFFFF ^^^ 0xFFFFFFFF

/-- A signed value of `n` bytes. -/
def beInt (n : Nat) (x : Int) : List Byte := beBytes n (x % (256 ^ n : Nat)).toNat

/-- `n` zero bytes. -/
def zeros (n : Nat) : List Byte := List.replicate n 0

/-- Bits from the most significant of the first byte on, as whole bytes: bit `i` of `n` bytes is set where `q` holds (R7). -/
def bitBytes' (n : Nat) (q : Nat → Bool) : List Byte :=
  (List.range n).map (fun i => BitVec.ofNat 8 (((List.range 8).map (fun j => if q (8 * i + j) then 2 ^ (7 - j) else 0)).sum))

/-- A SERVICE entry of a record (R370). DEDUCED: VALID is 'bit 0 of the low half' of byte 14, and bit 0 is the most significant bit
of what it numbers in a packet layout (R7), so VALID has weight 8 in the byte. -/
def recSvcBytes (x : RecSvc) : List Byte :=
  beBytes 2 x.seqFirst ++ beBytes 2 x.seqNext ++ beBytes 2 x.fecCol ++ beBytes 2 x.fecRow ++ beBytes 4 x.kcv.toNat ++ beBytes 1 x.fecPos ++
    beBytes 1 x.cc ++ beBytes 1 (16 * x.patCc + (if x.valid then 8 else 0)) ++ zeros 1

/-- The state record (R370): 4,096 bytes. DESIGN CHOICE: the rule numbers no bit of PIN; stall `s` has weight 2^s in it. -/
def recordBytes4k (r : Record) : List Byte :=
  let head := beBytes 2 r.channel ++ beBytes 2 r.generation ++ beBytes 8 r.picture ++ beBytes 4 r.setCrc.toNat ++ beBytes 2 r.poc ++
    beBytes 1 r.kind ++ beBytes 1 r.furrows ++ beBytes 4 r.bits ++ beBytes 2 r.fallow ++ beBytes 1 r.deadline ++
    bitBytes' 1 (fun i => (decide (i = 0) && r.ckptHeld) || (decide (i = 1) && r.latched)) ++ beInt 1 r.baseQp ++ zeros 3 ++ beInt 4 r.bank ++
    beBytes 4 r.budget ++ (List.range 8).map (fun i => BitVec.ofNat 8 (16 * r.marks.getD (2 * i) 0 + r.marks.getD (2 * i + 1) 0)) ++
    (List.range 16).flatMap (fun i =>
      let x := r.stallPoc.getD i (false, 0)
      beBytes 4 ((if x.1 then 2 ^ 31 else 0) + x.2 % 65536)) ++
    beBytes 2 r.pin ++ beBytes 2 r.gdrPos ++ beBytes 2 r.idrCount ++ zeros 2 ++
    (List.range 8).flatMap (fun j => ((r.services[j]?).map recSvcBytes).getD (zeros 16)) ++ beBytes 4 r.ancCrc.toNat ++ zeros 4 ++
    beBytes 32 r.reconHash.toNat ++ r.inputHash.flatMap (fun h => beBytes 32 h.toNat)
  head ++ zeros (4096 - head.length)

/-- The HELLO payload (R395). -/
def helloBytes (h : Hello) : List Byte :=
  beBytes 1 h.dieCount ++ beBytes 1 h.role ++ beBytes 2 h.partId ++ beBytes 4 h.fwVersion.toNat ++ beBytes 8 h.activeSince ++
    bitBytes' 1 (fun i => (decide (i = 0) && h.pref) || (decide (i = 1) && h.pinRx)) ++ zeros 3 ++ bitBytes' 32 h.running.contains ++
    beBytes 8 h.tieToken ++ zeros 4

/-- TYPE and payload of a frame (R395). -/
def yType : YMsg → Nat
  | .hello _ => 1
  | .beat _ => 2
  | .ack => 3
  | .state _ => 4
  | .verdict .. => 5
  | .vote .. => 6
  | .decide .. => 7
  | .copy .. => 8
  | .yield .. => 9
  | .resync .. => 10
  | .doorbell _ => 11

/-- DESIGN CHOICE: R395 numbers no bit of RESYNC's pinned stalls; stall `s` has weight 2^s in them, as in PIN of a record. -/
def yPayload : YMsg → List Byte
  | .hello h => helloBytes h
  | .beat b => beBytes 1 b.role ++ bitBytes' 1 (fun i => (decide (i = 0) && b.time) || (decide (i = 1) && b.port) || (decide (i = 2) && b.memory) ||
      (decide (i = 3) && b.dieFault)) ++ beBytes 1 b.quality ++ zeros 1 ++ beBytes 4 b.counter
  | .ack => []
  | .state r => recordBytes4k r
  | .verdict ch st cause n => beBytes 2 ch ++ beBytes 1 st ++ beBytes 1 cause ++ zeros 4 ++ beBytes 8 n
  | .vote q gen crc tab live res => beBytes 2 q ++ beBytes 2 gen ++ beBytes 4 crc.toNat ++ beBytes 4 tab.toNat ++ beBytes 2 live ++ beBytes 1 res ++
      zeros 9
  | .decide q gen out e => beBytes 2 q ++ beBytes 2 gen ++ beBytes 1 out ++ zeros 3 ++ beBytes 8 e
  | .copy ch stall kind off bytes => beBytes 2 ch ++ beBytes 1 stall ++ beBytes 1 kind ++ beBytes 4 off ++ zeros 8 ++ bytes
  | .yield cause tR tT => beBytes 1 cause ++ zeros 7 ++ beBytes 8 tR ++ beBytes 8 tT
  | .resync ch op pins n => beBytes 2 ch ++ beBytes 1 op ++ zeros 1 ++ beBytes 2 pins ++ zeros 2 ++ beBytes 8 n
  | .doorbell src => beBytes 2 (src % 4096) ++ zeros 2

/-- HELLO, BEAT and ACK are the unreliable types (R395). -/
def yReliable (m : YMsg) : Bool := decide (4 ≤ yType m)

/-- A frame (R394): the header with its HCRC, the payload, the CRC-32C over both. -/
def yFrame (seq ack : Nat) (retry : Bool) (m : YMsg) : List Byte :=
  let p := yPayload m
  let h := beBytes 1 (16 + yType m) ++ bitBytes' 1 (fun i => (decide (i = 0) && yReliable m) || (decide (i = 1) && retry)) ++ beBytes 2 p.length ++
    beBytes 4 (if yReliable m then seq else 0) ++ beBytes 4 ack ++ zeros 2
  let f := h ++ beBytes 2 ((crcBytes h).toNat % 65536) ++ p
  f ++ beBytes 4 (crcBytes f).toNat

end Sys2Proof.Machine
end

