-- ==== Sys2Proof/Machine/YokeBase.lean ====
section
/-! DEFINITION. The yoke's roles, reliable frames, yields and channel states, as operations (R360–R398). -/

namespace Sys2Proof.Machine

open Sys2Proof

/-- The YOKE page. -/
def pgYoke : Nat := 7

/-- Role codes (R360). -/
def roleOff : Nat := 0
def roleSole : Nat := 1
def rolePairing : Nat := 2
def roleActive : Nat := 3
def roleStandby : Nat := 4

/-- The yoke state of channel `ch`. -/
def ych (s : State) (ch : Nat) : YCh := s.yoke.chs.get (fun _ => {}) ch

/-- The state with channel `ch`'s yoke state changed by `f`. -/
def modYch (ch : Nat) (f : YCh → YCh) (s : State) : State :=
  { s with yoke := { s.yoke with chs := s.yoke.chs.set (fun _ => {}) ch (f (ych s ch)) } }

/-- The role that a record carries (R325, R360): a part in PAIRING that of the role it left. -/
def recordRole (r : Nat) : Nat := if r = roleOff then 0 else if r = roleStandby then 2 else 1

/-- Yoke states of a channel (R371). -/
def ysLocked : Nat := 1
def ysDiverged : Nat := 2
def ysResync : Nat := 3
def ysVerify : Nat := 4

/-- The part is ACTIVE or STANDBY. -/
def pairedRole (s : State) : Bool := decide (s.yoke.role = roleActive ∨ s.yoke.role = roleStandby)

/-- Some channel is LOCKED. -/
def anyLocked (s : State) : Bool := s.yoke.chs.any (fun e => decide (e.2.st = ysLocked))

/-- The part takes role `r` (R360–R362, R398): ACTIVE_SINCE restarts on entering SOLE or ACTIVE, PAIRED rises on entering
ACTIVE or STANDBY, and every channel's yoke state is NONE once the part is in neither. A yield that waits for its instant is the ACTIVE's
(R361), and two active parts are settled anew (R384). -/
def setRole (r : Nat) (s : State) : State :=
  let was := pairedRole s
  let s := { s with yoke := { s.yoke with
    role := r, dual := none, pendYield := if r = roleActive then s.yoke.pendYield else none
    since := if (r = roleSole ∨ r = roleActive) ∧ s.yoke.role ≠ r then s.time.now else s.yoke.since } }
  if pairedRole s then (if was then s else raiseBit pgYoke 0 s)
  else { s with yoke := { s.yoke with chs := [], resyncCh := none, resyncStep := 0, resyncLeft := 0, rows := none } }

/-- Lanes of LANES that are UP or IDLE (R456). -/
def yokeLanesOn (s : State) : List Nat :=
  [32, 33, 34, 35].filter (fun l => txEnabled s l && (decide ((lane s l).st = stUp) || decide ((lane s l).st = stIdle)))

/-- The lanes on which a frame travels (R395, R456): a HELLO on every lane, COPY frames round-robin, any other on the beat lane. -/
def frameLanes (s : State) : YMsg → List Nat
  | .hello _ => yokeLanesOn s
  | .copy .. => ((yokeLanesOn s)[s.yoke.copyN % max 1 (yokeLanesOn s).length]?).toList
  | _ => (beatLane s).toList

/-- A frame on one lane: an idle lane exits idle for it (R457). -/
def sendOn (bytes : List Byte) (s : State) (l : Nat) : State :=
  emit (.yoke l bytes) (if (lane s l).st = stIdle then idleExit l s else s)

/-- The count of COPY frames sent after one of kind `m`. -/
def copyTurn : YMsg → Nat → Nat
  | .copy .., n => n + 1
  | _, n => n

/-- A frame is sent; it acknowledges what has arrived in order (R394, R396). -/
def sendFrame (seq : Nat) (retry : Bool) (m : YMsg) (s : State) : State :=
  let ls := frameLanes s m
  ls.foldl (sendOn (yFrame seq s.yoke.seqRx retry m))
    { s with yoke := { s.yoke with ackDue := s.yoke.ackDue && ls.isEmpty, copyN := copyTurn m s.yoke.copyN } }

/-- A reliable frame is sent (R396): it takes the next SEQ and waits for its acknowledgement. -/
def sendRel (m : YMsg) (s : State) : State :=
  let n := s.yoke.seqTx + 1
  sendFrame n false m { s with yoke := { s.yoke with seqTx := n, unacked := s.yoke.unacked ++ [{ seq := n, sends := 1, msg := m }] } }

/-- Every reliable frame up to `n` is acknowledged (R396). -/
def ackUpTo (n : Nat) (s : State) : State :=
  { s with yoke := { s.yoke with unacked := s.yoke.unacked.filter (fun u => decide (n < u.seq)) } }

/-- The first package furrow boundary at or after an instant (R131). -/
def furrowFrom (t : Nat) : Nat := roundUp t 125000

/-- R379: the active yields for cause `c` (1–6): only when it is ACTIVE and a channel is LOCKED, and causes 4–6 only with
their bit of YIELD_MASK. The frame carries t_R, now, and t_T, the first package furrow boundary at least 20 µs later. -/
def yieldFor (c : Nat) (s : State) : State :=
  if decide (s.yoke.role = roleActive) && anyLocked s && s.yoke.pendYield.isNone &&
      (decide (c ≤ 3) || (yieldMask (effW s)).testBit (c - 4)) then
    let tT := furrowFrom (s.time.now + 20000)
    let s := sendRel (.yield c s.time.now tT) (emit (.hbPulse 1000) s)
    bump pgYoke 1 1 (raiseBit pgYoke 4 { s with yoke := { s.yoke with pendYield := some tT } })
  else s

/-- A channel becomes DIVERGED for a cause (R371, R372, R398). -/
def diverge (ch c : Nat) (s : State) : State :=
  if (ych s ch).st = ysDiverged then modYch ch (fun y => { y with cause := c }) s
  else bump pgYoke 4 1 (raiseBit pgYoke 6 (modYch ch (fun y => { y with st := ysDiverged, cause := c }) s))

/-- A channel becomes LOCKED (R372, R398). -/
def relock (ch : Nat) (s : State) : State :=
  if (ych s ch).st = ysLocked then s
  else raiseBit pgYoke 7 (modYch ch (fun y => { y with st := ysLocked, cause := 0, fails := 0, both := false, gap := false }) s)

/-- A resync or its verification failed (R375): the third failure in a row stops further requests. -/
def resyncFailed (ch : Nat) (s : State) : State :=
  let s := bump pgYoke 6 1 (modYch ch (fun y => { y with fails := y.fails + 1, join := none }) s)
  let s := if (ych s ch).fails = 3 then raiseBit pgYoke 8 s else s
  { s with yoke := { s.yoke with resyncCh := none, resyncStep := 0, resyncLeft := 0, rows := none } }

/-- The resync in progress aborts (R375): the channel returns to DIVERGED, and the partner is told. -/
def resyncAbort (tell : Bool) (s : State) : State :=
  match s.yoke.resyncCh with
  | none => s
  | some ch =>
    let c := (ych s ch).cause
    let s := resyncFailed ch (diverge ch c s)
    let s := { s with chans := s.chans.set (fun _ => {}) ch { (s.chans.get (fun _ => {}) ch) with ckptWant := false } }
    if tell then sendRel (.resync ch 5 0 0) s else s

/-- A cause for which a DIVERGED channel is resynchronised (R373): START, DEADLINE, OUTPUT, MISSING, RESEAT. -/
def resyncCause (c : Nat) : Bool := [1, 5, 6, 7, 8].contains c

/-- R373: the standby requests the resync of its lowest channel that needs one, one at a time. -/
def seekResync (s : State) : State :=
  if s.yoke.role = roleStandby ∧ s.yoke.resyncCh = none ∧ s.yoke.linkLost = false then
    match s.yoke.chs.find? (fun e => e.2.asked ||
        (decide (e.2.st = ysDiverged) && resyncCause e.2.cause && decide (e.2.fails < 3) && !e.2.both)) with
    | some (ch, _) =>
      sendRel (.resync ch 1 0 0) (modYch ch (fun y => { y with asked := false })
        { s with yoke := { s.yoke with resyncCh := some ch, resyncStep := 1 } })
    | none => s
  else s

/-- Exactly one path is lost (R378). -/
def pathFault (y : Yoke) : Bool := y.pinLost != y.linkLost

/-- The state after the lost flags of the paths changed from those of `s0` (R378): PATH_FAULT on a rise of its
condition; with both lost the partner is lost, a standby is to take over at the next boundary and an active is SOLE. DEDUCED: parts that tied seek
pairing again after a generation with PAIR_EN 0 and then 1 on one of them (R384); on the other one the loss of both paths tells of it. -/
def pathsChanged (s0 s : State) : State :=
  let s := if pathFault s.yoke && !pathFault s0.yoke then bump pgYoke 3 1 (raiseBit pgYoke 5 s) else s
  let s := if s.yoke.linkLost && !s0.yoke.linkLost then resyncAbort false s else s
  let s := if s.yoke.pinLost && s.yoke.linkLost then { s with yoke := { s.yoke with barred := false, dual := none } } else s
  if s.yoke.pinLost && s.yoke.linkLost && !(s0.yoke.pinLost && s0.yoke.linkLost) && pairedRole s then
    let s := bump pgYoke 2 1 (raiseBit pgYoke 2 { s with yoke := { s.yoke with sundered := true } })
    if s.yoke.role = roleActive then setRole roleSole s
    else
      { s with yoke := { s.yoke with pendTake := match s.yoke.pendTake with
                                      | some t => some t
                                      | none => some (s.yoke.lastBeat, furrowFrom s.time.now) } }
  else s

end Sys2Proof.Machine
end

