-- ==== Sys2Proof/Machine/Sched.lean ====
section
/-! DEFINITION. The yard's ports: classes, buckets, gates, stop and quench, commands, and one transmission decision
(R331–R355). A token is 1/8,000,000,000 byte, so that a rate of r b/s fills r tokens in a ns. -/

namespace Sys2Proof.Machine

open Sys2Proof

/-- Tokens of a byte. -/
def tokByte : Nat := 8000000000

/-- The port whose first lane is `l`. -/
def port (s : State) (l : Nat) : PortTx := s.ports.get (fun _ => {}) l

/-- The state with port `l` changed by `f`. -/
def modPort (l : Nat) (f : PortTx → PortTx) (s : State) : State := { s with ports := s.ports.set (fun _ => {}) l (f (port s l)) }

/-- Flow-table entry `f`'s state. -/
def flow (s : State) (f : Nat) : Flow := s.flows.get (fun _ => {}) f

/-- The state with flow `n` changed by `f`. -/
def modFlow (n : Nat) (f : Flow → Flow) (s : State) : State := { s with flows := s.flows.set (fun _ => {}) n (f (flow s n)) }

/-- One more, or `x` more, in a flow's own count `i` (counters 16 + i of the FLOW page, R354). -/
def flowCount (n i x : Nat) : State → State :=
  modFlow n (fun f => { f with counts := f.counts.set i (f.counts.getD i 0 + x) })

/-- The FLOW page of die `d`. -/
def pgFlow (d : Nat) : Nat := pkey d 0x108

/-- A bucket of `tok` tokens after `dt` ns at `rate` b/s, up to `burst` bytes (R340). -/
def fill (tok rate dt burst : Nat) : Nat := min (burst * tokByte) (tok + rate * dt)

/-! ## Gates (R346, R348) -/

/-- GATES at offset `x` into the cycle, and where that entry ends. -/
def gateAt : List (Nat × Nat) → Nat → Nat → Nat × Nat
  | [], _, a => (15, a)
  | (g, i) :: t, x, a => if x < a + i then (g, a + i) else gateAt t x (a + i)

/-- How long class `b` stays open from the start of entries `l`, up to the first that closes it. -/
def openRun (b : Nat) : List (Nat × Nat) → Nat
  | [] => 0
  | (g, i) :: t => if g.testBit b then i + openRun b t else 0

/-- The entries after offset `x`, the one at `x` cut to what is left of it, then the whole cycle once more. -/
def entriesFrom (l : List (Nat × Nat)) (x : Nat) : List (Nat × Nat) :=
  let rec go : List (Nat × Nat) → Nat → List (Nat × Nat)
    | [], _ => []
    | (g, i) :: t, a => if a + i ≤ x then go t (a + i) else (g, a + i - max a x) :: go t (a + i)
  go l 0 ++ l

/-- Time for which class `b` stays open under list `g` from offset `x` into its cycle: none when it never closes, 0 when it is closed. -/
def runFrom (g : GList) (b x : Nat) : Option Nat :=
  let r := openRun b (entriesFrom g.entries x)
  if g.cycle ≤ r then none else some r

/-- Time for which class `b` of a port stays open from instant `t`. A window that is open at the start of a pending list goes on with the
run of the new list's first entries, which is nothing where entry 0 closes the class (R350). -/
def windowLeft (p : PortTx) (b t : Nat) : Option Nat :=
  let base : Option Nat :=
    match p.oper with
    | none => none
    | some g => if g.cycle = 0 then none else runFrom g b ((t + g.cycle - g.base % g.cycle) % g.cycle)
  match p.pend with
  | none => base
  | some q =>
    let cut := q.start - t
    match base with
    | some r => if r < cut then some r else (runFrom q b 0).map (cut + ·)
    | none => (runFrom q b 0).map (cut + ·)

/-- The class's gate is open at `t`. -/
def gateOpen (p : PortTx) (b t : Nat) : Bool :=
  match windowLeft p b t with
  | none => true
  | some r => decide (0 < r)

/-- A frame of cost `k` bytes fits the window at `gbps` (R348): it ends no later than its window. -/
def fitsGate (p : PortTx) (b t k gbps : Nat) : Bool :=
  match windowLeft p b t with
  | none => true
  | some r => decide (k * 8 ≤ r * gbps)

/-! ## Buckets (R340, R341) -/

/-- The subscriber shaper of an entry: rate in b/s and burst in bytes (R334). -/
def subscriber (g : Nat → Word) (c : FlowCfg) : Nat × Nat :=
  if c.cir = 0 then
    (svcRate g c.svc, 2 * svcCost g c.svc)
  else (1000 * c.cir, c.cbs)

/-- The port's and the management bucket filled up to instant `t`. -/
def refillPort (l t : Nat) (s : State) : State :=
  let g := effW s
  modPort l (fun p => { p with
    tokPort := fill p.tokPort (shapeRate g l * 1000000) (t - p.lastFill) (shapeBurst g l)
    tokMgmt := fill p.tokMgmt (mgmtRate g l * 1000000) (t - p.lastFill) (mgmtBurst g l)
    lastFill := max p.lastFill t }) s

/-- Tokens of one path of a flow at instant `t`. -/
def flowTok (s : State) (n path t : Nat) : Nat :=
  let f := flow s n
  let sb := subscriber (effW s) (flowCfgL f.words)
  if path = 0 then fill f.tokA sb.1 (t - f.lastA) sb.2 else fill f.tokB sb.1 (t - f.lastB) sb.2

/-- `k` bytes taken from one path's bucket at `t`. -/
def takeFlowTok (n path t k : Nat) (s : State) : State :=
  let x := flowTok s n path t - k * tokByte
  modFlow n (fun f => if path = 0 then { f with tokA := x, lastA := t } else { f with tokB := x, lastB := t }) s

/-- Every bucket of a flow set to zero, with BUCKET_RESET on its die's FLOW page (R340). -/
def resetFlowBucket (n : Nat) (s : State) : State :=
  raiseBit (pgFlow (entDie n)) 4 (modFlow n (fun f => { f with
    tokA := 0, tokB := 0, lastA := s.time.now, lastB := s.time.now, shape := subscriber (effW s) (flowCfgL f.words) }) s)

/-! ## What a port discards (R351, R352, R363, R443, R481) -/

/-- The frame's flow has been stopped for 100 ns, or was stopped and has not met the first packet of a furrow released after the clear,
or the frame is of a packet before that one (R352). -/
def stoppedFrame (s : State) (q : QFrame) : Bool :=
  (s.stops.contains q.flow && decide ((flow s q.flow).stopAt + 100 ≤ s.time.now)) || decide (q.release < (flow s q.flow).resumeAt) ||
    (match (flow s q.flow).waitFrom with
      | none => false
      | some t => !(q.furrow0 && decide (t ≤ q.release)))

/-- The same for a quenched port. -/
def quenchedFrame (s : State) (l : Nat) (q : QFrame) : Bool :=
  (s.quench.contains l && decide ((port s l).quenchAt + 100 ≤ s.time.now)) ||
    (match (port s l).waitFrom with
      | none => false
      | some t => !((port s l).resumed.contains q.flow || (q.furrow0 && decide (t ≤ q.release))))

/-- A standby mutes a yoked channel's packets unless the channel is dual-send and LOCKED (R363, R382). -/
def mutedFrame (s : State) (q : QFrame) : Bool :=
  q.yoked && decide (s.yoke.role = roleStandby) && !(dualSend (effW s) q.ch && decide ((ych s q.ch).st = ysLocked))

/-- The transmitters of a port run, the ING domain of its die is up (R26: a die whose ING domain is down transmits nothing), and the
port is UP (R443). -/
def portSends (s : State) (l : Nat) : Bool := laneTxEn (effW s) l && s.pwr.domUp.contains (16 * (l / 4) + 6) && portUp s l

/-- What a service puts on port `l`: nothing leaves a port that does not send (R98). -/
def emitOn (l : Nat) (o : Out) (s : State) : State := if portSends s l then emit o s else s

/-- A media frame leaves without a wire: it is counted where the cause says, and for its flow (R354). -/
def discardMedia (l : Nat) (q : QFrame) (s : State) : State :=
  let d := l / 4
  flowCount q.flow 4 1
    (if mutedFrame s q then bump pgYoke 13 1 s
    else if stoppedFrame s q then raiseBit (pgFlow d) 0 (bump (pgFlow d) 2 1 s)
    else if quenchedFrame s l q || s.host.held then raiseBit (pgFlow d) 0 (bump (pgFlow d) 3 1 s)
    else if !portSends s l then bump (lanePage l) 8 1 s
    else bump (pgFlow d) 4 1 s)

/-- The next hop of a unicast destination on a port (R347): itself inside the port's subnet, else the gateway where there is one. -/
def nextHop (g : Nat → Word) (l : Nat) (a : Word) : Option Word :=
  let n := 32 - gatePrefix g l
  if a >>> n = gateAddr g l >>> n then some a else if gateway g l = 0 then none else some (gateway g l)

/-- The next hop of a frame's destination is known (R347): multicast needs none. A frame whose bytes the model does not hold is the
firmware's own, which resolved its next hop first. -/
def resolved (s : State) (l : Nat) (q : QFrame) : Bool :=
  match q.ip with
  | none => true
  | some dg =>
    decide (fld dg.dst 31 28 = 14) ||
      (match nextHop (effW s) l dg.dst with
        | none => false
        | some h => Config.nextHopResolved l h s.time.now)

/-- The frame is to be discarded at the port. -/
def mustDiscard (s : State) (l : Nat) (q : QFrame) : Bool :=
  mutedFrame s q || stoppedFrame s q || quenchedFrame s l q || s.host.held || !portSends s l || !resolved s l q

/-- Frames of a port that are due at `t` and must be discarded leave now. A frame that passes after a clear marks its flow
as resumed. -/
def purge (l t : Nat) : List QFrame → State → State
  | [], s => s
  | q :: qs, s =>
    if t < q.release then purge l t qs (modPort l (fun p => { p with media := p.media ++ [q] }) s)
    else if mustDiscard s l q then purge l t qs (discardMedia l q s)
    else
      let s := if (flow s q.flow).waitFrom.isSome then modFlow q.flow (fun f => { f with waitFrom := none, resumeAt := q.release }) s else s
      let s := modPort l (fun p => { p with
        media := p.media ++ [q]
        resumed := if p.waitFrom.isSome then NSet.add p.resumed q.flow else p.resumed }) s
      purge l t qs s

/-- Management and ancillary frames that leave a port without a wire: those whose next hop is not known (R347), and every ancillary frame
of a port that has been quenched for 100 ns (R352, R354). -/
def purgeQueues (l : Nat) (s : State) : State :=
  let p := port s l
  let quenched := s.quench.contains l && decide (p.quenchAt + 100 ≤ s.time.now)
  let keeps := fun q => !portSends s l || resolved s l q
  let lost := ((p.mgmtQ ++ (if quenched then [] else p.anc.flatten)).filter (fun q => !keeps q)).length
  let cut := if quenched then p.anc.flatten.length else 0
  let s := raiseN (pgFlow (l / 4)) 0 cut (bump (pgFlow (l / 4)) 3 cut (bump (pgFlow (l / 4)) 4 lost s))
  modPort l (fun x => { x with mgmtQ := p.mgmtQ.filter keeps
                               anc := if quenched then [[], [], [], [], [], []] else p.anc.map (fun q => q.filter keeps) }) s

/-! ## The transmission decision (R333, R342, R343) -/

/-- The frame's cost in a bucket and on the wire (R340). -/
def frameCost (q : QFrame) : Nat := q.len + 20

/-- Heads of the subscriber queues: the first frame of each (flow, path). -/
def heads : List QFrame → List (Nat × Nat) → List QFrame
  | [], _ => []
  | q :: qs, seen => if seen.contains (q.flow, q.path) then heads qs seen else q :: heads qs ((q.flow, q.path) :: seen)

/-- `a` goes before `b` in the media class: release instant, then flow, then path (R342). -/
def before (a b : QFrame) : Bool :=
  decide (a.release < b.release) ||
    (decide (a.release = b.release) && (decide (a.flow < b.flow) || (decide (a.flow = b.flow) && decide (a.path < b.path))))

/-- The first of a list in the order of R342. -/
def firstOf : List QFrame → Option QFrame
  | [] => none
  | q :: qs =>
    match firstOf qs with
    | none => some q
    | some r => if before r q then some r else some q

/-- A held frame is counted once per window (R348). -/
def holdFrame (l b n : Nat) (media : Bool) (s : State) : State :=
  let s := raiseBit (pgGate l) 1 (bump (pgGate l) (8 + b) 1 s)
  if media then flowCount n 5 1 s else s

/-- Marks a media frame as counted in this window. -/
def markHeld (q : QFrame) : List QFrame → List QFrame
  | [] => []
  | r :: rs => if r = q then { r with heldWin := true } :: rs else r :: markHeld q rs

/-- The eligible media head that fits, heads that do not fit being counted as held (R342, R348). -/
def pickMedia (l t gbps : Nat) : Nat → List QFrame → State → Option QFrame × State
  | 0, _, s => (none, s)
  | n + 1, cand, s =>
    match firstOf cand with
    | none => (none, s)
    | some q =>
      if fitsGate (port s l) 2 t (frameCost q) gbps then (some q, s)
      else
        let s := if q.heldWin then s
          else modPort l (fun p => { p with media := markHeld q p.media }) (holdFrame l 2 q.flow true s)
        pickMedia l t gbps n (cand.erase q) s

/-- The frame starts: the wire is busy for its cost at the port's rate, and it is counted (R354, R355, R458). -/
def startFrame (l b t gbps : Nat) (q : QFrame) (s : State) : State :=
  let s := modPort l (fun p => { p with busyTo := t + cdiv (frameCost q * 8) gbps }) s
  let s := bump (pgGate l) b 1 (bump (pgGate l) (4 + b) q.len s)
  let s := bump (lanePage l) 6 1 (bump (lanePage l) 7 q.len s)
  let s := if b = 2 then
      let d := entDie q.flow
      flowCount q.flow (2 * q.path) 1 (flowCount q.flow (2 * q.path + 1) q.len (bump (pgFlow d) 0 1 (bump (pgFlow d) 1 q.len s)))
    else if b = 0 then draw (modPtp l (fun p => if p.reqSeq = q.seq then { p with t3 := some (stampOf s (t + cdiv 64 gbps)) } else p) s)
    else s
  emit (.frame l b q.flow q.path q.len q.seq q.record q.ip) s

/-- The port shaper does not pass a frame: it waits, and no media or ancillary frame starts before the bucket holds enough (R341). -/
def shaperHolds (s : State) (l : Nat) (q : QFrame) : Bool :=
  decide (0 < shapeRate (effW s) l) && decide ((port s l).tokPort < frameCost q * tokByte)

/-- The frame that waits for the port shaper is `q`. -/
def shaperWait (l : Nat) (q : QFrame) (s : State) : State :=
  modPort l (fun p => { p with shapeWait := some { q with heldWin := false } }) s

/-- A frame that waits for the port shaper, still at the port and still short of tokens, keeps the two classes back (R341). -/
def shaperBlocks (s : State) (l : Nat) : Bool :=
  match (port s l).shapeWait with
  | none => false
  | some q => shaperHolds s l q && ((port s l).media ++ (port s l).anc.flatten).any (fun r => decide ({ r with heldWin := false } = q))

/-- One step of the deficit round (R343): the queue the round stands at is served, or passed. -/
def drr (l t gbps : Nat) : Nat → Nat → State → State
  | 0, _, s => s
  | n + 1, idle, s =>
    let p := port s l
    let i := p.drrNext
    let next := fun (p : PortTx) => { p with drrNext := (i + 1) % 6, visited := false }
    match p.anc.getD i [] with
    | [] =>
      let s := modPort l (fun p => next { p with deficit := p.deficit.set i 0 }) s
      if 5 < idle then s else drr l t gbps n (idle + 1) s
    | q :: qs =>
      let s := if p.visited then s
        else modPort l (fun p => { p with visited := true, deficit := p.deficit.set i (p.deficit.getD i 0 + quantum (effW s) l i) }) s
      let d := (port s l).deficit.getD i 0
      if d < frameCost q then drr l t gbps n 0 (modPort l next s)
      else if shaperHolds s l q then shaperWait l q s
      else if fitsGate (port s l) 3 t (frameCost q) gbps then
        let s := modPort l (fun p => { p with
          anc := p.anc.set i qs
          deficit := p.deficit.set i (if qs.isEmpty then 0 else d - frameCost q)
          tokPort := if 0 < shapeRate (effW s) l then p.tokPort - frameCost q * tokByte else p.tokPort }) s
        startFrame l 3 t gbps q s
      else
        let s := if q.heldWin then s
          else modPort l (fun p => { p with anc := p.anc.set i ({ q with heldWin := true } :: qs) }) (holdFrame l 3 0 false s)
        let s := modPort l (fun p => next { p with heldQ := match p.heldQ with
                                                   | some x => some x
                                                   | none => some i }) s
        if 5 < idle then s else drr l t gbps n (idle + 1) s

/-- A head that waits for its gate window to be long enough is counted as held (R348). -/
def holdHead (l b : Nat) (q : QFrame) (s : State) : State := if q.heldWin then s else holdFrame l b 0 false s

/-- The media class's turn: the eligible heads (R342), the port shaper (R341). Answers whether a frame started. -/
def tryMedia (l t gbps : Nat) (s : State) : Bool × State :=
  let cand := (heads ((port s l).media.filter (fun q => decide (q.release ≤ t))) []).filter
    (fun q => decide (frameCost q * tokByte ≤ flowTok s q.flow q.path t))
  let r := pickMedia l t gbps cand.length cand s
  match r.1 with
  | none => (false, r.2)
  | some q =>
    let s := r.2
    if shaperHolds s l q then (true, shaperWait l q s)
    else
      let s := modPort l (fun p => { p with
        media := p.media.erase q
        tokPort := if 0 < shapeRate (effW s) l then p.tokPort - frameCost q * tokByte else p.tokPort }) s
      (true, startFrame l 2 t gbps q (takeFlowTok q.flow q.path t (frameCost q) s))

/-- The port's decision at instant `t` with the wire idle: the first class, in the order PTP, management, media,
ancillary, that has a frame which may start, an open gate and a window it fits (R333). -/
def transmit (l t : Nat) (s : State) : State :=
  let gbps := portGbps (effW s) l
  let p := port s l
  let s := purgeQueues l (purge l t p.media (modPort l (fun p => { p with media := [] }) s))
  if !portSends s l then
    let n := p.ptpQ.length + p.mgmtQ.length + (p.anc.map List.length).sum
    bump (lanePage l) 8 n (modPort l (fun p => { p with ptpQ := [], mgmtQ := [], anc := [[], [], [], [], [], []] }) s)
  else
    let p := port s l
    let rest := fun (s : State) =>
      if shaperBlocks s l then s
      else
        let media := if gateOpen (port s l) 2 t then tryMedia l t gbps s else (false, s)
        if media.1 then media.2
        else if gateOpen (port media.2 l) 3 t then drr l t gbps 1000 0 media.2
        else media.2
    let mgmt := fun (s : State) =>
      match p.mgmtQ with
      | [] => rest s
      | q :: qs =>
        if gateOpen p 1 t && decide (frameCost q * tokByte ≤ (port s l).tokMgmt) then
          if fitsGate p 1 t (frameCost q) gbps then
            startFrame l 1 t gbps q (modPort l (fun p => { p with mgmtQ := qs, tokMgmt := p.tokMgmt - frameCost q * tokByte }) s)
          else rest (modPort l (fun p => { p with mgmtQ := { q with heldWin := true } :: qs }) (holdHead l 1 q s))
        else rest s
    match p.ptpQ with
    | [] => mgmt s
    | q :: qs =>
      if gateOpen p 0 t then
        if fitsGate p 0 t (frameCost q) gbps then startFrame l 0 t gbps q (modPort l (fun p => { p with ptpQ := qs }) s)
        else mgmt (modPort l (fun p => { p with ptpQ := { q with heldWin := true } :: qs }) (holdHead l 0 q s))
      else mgmt s

/-- A frame of `len` bytes joins an ancillary queue of the port (R343): 32 KiB each, a full queue discards it. -/
def ancJoin (l i len : Nat) (ip : Option Dgram) (s : State) : State :=
  let q := (port s l).anc.getD i []
  if 32768 < (q.map (fun f => f.len)).sum + len then bump (pgGate l) 15 1 s
  else modPort l (fun p => { p with anc := p.anc.set i (q ++ [{ len := len, release := s.time.now, ip := ip }]) }) s

/-- One whose bytes the model does not hold. -/
def ancQueue (l i len : Nat) (s : State) : State := ancJoin l i len none s

/-- A datagram as a frame: IPv4 and UDP headers, 18 bytes around it. -/
def ancFrame (l i : Nat) (dg : Dgram) (s : State) : State := ancJoin l i (dg.payload.length + 46) (some dg) s

/-! ## Stop, quench and commands (R351–R353) -/

/-- A frame that the firmware sends for a service joins queue `i` of the port; its length is a free value. -/
def serviceFrame (l i : Nat) (s : State) : State := ancQueue l i (Config.serviceBytes i s.fresh) (draw s)

/-- Stop bits set for flows the variant has (R352). -/
def stopFlows (fs : List Nat) (s : State) : State :=
  let hit := fs.filter (fun f => decide (f < 4096 * dies s) && !s.stops.contains f)
  hit.foldl (fun s f => modFlow f (fun x => { x with stopAt := s.time.now }) { s with stops := NSet.add s.stops f }) s

/-- Stop bits cleared; each flow resumes at the first packet of a furrow released after now (R352). -/
def startFlows (fs : List Nat) (s : State) : State :=
  let hit := fs.filter s.stops.contains
  let s := hit.foldl (fun s f => modFlow f (fun x => { x with waitFrom := some s.time.now }) s) s
  { s with stops := s.stops.filter (fun f => !fs.contains f) }

/-- Some port of die `d` is quenched: the condition behind QUENCHED (R354). -/
def anyQuenched (s : State) (d : Nat) : Bool := s.quench.any (fun l => decide (l / 4 = d))

/-- Ports quenched (R352, R354). -/
def quenchPorts (d : Nat) (ls : List Nat) (s0 : State) : State :=
  let s := (ls.filter (fun l => !s0.quench.contains l)).foldl (fun s l =>
    modPort l (fun p => { p with quenchAt := s.time.now }) { s with quench := NSet.add s.quench l }) s0
  if !anyQuenched s0 d && anyQuenched s d then raiseBit (pgFlow d) 1 s else s

/-- Ports unquenched. -/
def unquenchPorts (ls : List Nat) (s : State) : State :=
  let hit := ls.filter s.quench.contains
  let s := hit.foldl (fun s l => modPort l (fun p => { p with waitFrom := some s.time.now, resumed := [] }) s) s
  { s with quench := s.quench.filter (fun l => !ls.contains l) }

/-- Bytes 0–11 of a command, the additional data of its tag (R353). -/
def cmdBytes (magic op counter first count : Nat) : List Byte :=
  beBytes 2 magic ++ beBytes 1 op ++ [0] ++ beBytes 4 counter ++ beBytes 2 first ++ beBytes 2 count

/-- The tag under a slot's key, with a direction byte and the port (R353). -/
def cmdTag (k : KeySlot) (dir l : Nat) (magic op counter first count : Nat) : BitVec 128 :=
  gcmTag k.len256 k.key (List.replicate 6 0 ++ beBytes 1 dir ++ beBytes 1 l ++ beBytes 4 counter)
    (cmdBytes magic op counter first count) []

/-- A tack store slot. -/
def keySlot (s : State) (n : Nat) : KeySlot := s.tack.slots.get (fun _ => {}) n

/-- A tack store slot changed, in the working store and in its flash copy (R496). -/
def setKeySlot (n : Nat) (k : KeySlot) (s : State) : State :=
  { s with tack := { s.tack with slots := s.tack.slots.set (fun _ => {}) n k, saved := s.tack.saved.set (fun _ => {}) n k } }

/-- The frame is addressed to ADDR and CMD_PORT of the port of its lane, which accepts commands (R351): answers that port. -/
def cmdShare (s : State) (f : Frame) : Option Nat :=
  match portOf (effW s) f.lane with
  | none => none
  | some l => if cmdEn (effW s) l && decide (f.dip = gateAddr (effW s) l) && decide (f.dport = cmdPort (effW s) l) then some l else none

/-- It comes from CMD_SRC besides: the frame is a command (R353). -/
def cmdAddressed (s : State) (f : Frame) : Option Nat :=
  match cmdShare s f with
  | none => none
  | some l => if f.sip = cmdSrc (effW s) l then some l else none

/-- OP and range are valid (R353). -/
def cmdValid (magic op first count : Nat) : Bool :=
  decide (magic = 0xCA01) && decide (1 ≤ op) && decide (op ≤ 4) &&
    (decide (3 ≤ op) || (decide (1 ≤ count) && decide (count ≤ 4096) && decide (first + count ≤ 32768)))

/-- The acknowledgement of a command from UDP port `sport` (R353): the command's bytes with OP + 0x80 and their tag, from ADDR and CMD_PORT
to CMD_SRC and that port. DESIGN CHOICE: DSCP 0, time to live 64. -/
def cmdAck (g : Nat → Word) (k : KeySlot) (l sport magic op counter first count : Nat) : Dgram :=
  { mac := gateMac g l, src := gateAddr g l, dst := cmdSrc g l, sport := cmdPort g l, dport := sport, dscp := 0, ttl := 64, tag := none
    payload := cmdBytes magic (op + 0x80) counter first count ++
      beBytes 16 (cmdTag k 1 l magic (op + 0x80) counter first count).toNat }

/-- A command on port `l` (R353): on acceptance the slot's counter moves, the operation acts, and an acknowledgement is
queued in the management class; any other command is discarded and counted. -/
def command (l sport : Nat) (b : Body) (s : State) : State :=
  let d := l / 4
  match b with
  | .command magic op counter first count tag =>
    let n := cmdKey (effW s) l
    let k := keySlot s n
    if k.full && decide (tag = cmdTag k 0 l magic op counter first count) && decide (k.counter < counter) &&
        cmdValid magic op first count then
      let s := setKeySlot n { k with counter := counter } s
      let fs := List.range' first count
      let s := if op = 1 then stopFlows fs s else if op = 2 then startFlows fs s
        else if op = 3 then quenchPorts d [l] s else unquenchPorts [l] s
      let s := bump (pgFlow d) 5 1 (raiseBit (pgFlow d) 2 s)
      modPort l (fun p => { p with mgmtQ := p.mgmtQ ++
        [{ len := 74, release := s.time.now, ip := some (cmdAck (effW s) k l sport magic op counter first count) }] }) s
    else bump (pgFlow d) 6 1 (raiseBit (pgFlow d) 3 s)
  | _ => s

/-- A management-class frame of `len` bytes arrives on port `l` (R351): the share of other frames is 48 KiB of the die's
buffer; a full share discards it. -/
def mgmtArrive (l len : Nat) (s : State) : State :=
  let k := l / 4 * 4
  if 49152 < (port s k).mgmtBuf + len then bump (pgGate l) 14 1 (raiseBit (pgGate l) 2 s)
  else modPort k (fun p => { p with mgmtBuf := p.mgmtBuf + len }) s

/-- Bytes of command frames in the die's share at `t`: hardware has handled a command 2 µs after its arrival. DESIGN CHOICE: its bytes
are held for all of that time (R351, R353). -/
def cmdHeld (p : PortTx) (t : Nat) : List (Nat × Nat) := p.cmdBuf.filter (fun e => decide (t < e.1 + 2000))

/-! ## Gate control lists taking effect (R350) -/

/-- The list that the words in effect describe, pending from instant `t`. -/
def newList (g : Nat → Word) (l t : Nat) : GList :=
  let b := glBase g l
  let y := glCycle g l
  { base := b, cycle := y, entries := glEntries g l, start := if t < b then b else b + ((t - b) / y + 1) * y }

/-- GATES of a port at instant `t`: every gate is open without an operative list. -/
def gatesAt (p : PortTx) (t : Nat) : Nat :=
  match p.oper with
  | none => 15
  | some g => if g.cycle = 0 then 15 else (gateAt g.entries ((t + g.cycle - g.base % g.cycle) % g.cycle) 0).1

/-- The windows of the classes that `opens` picks begin: their frames may be counted as held once more (R348), and the ancillary queue
whose frames were held is the first to be visited (R343). -/
def gateWindowsBegin (opens : Nat → Bool) (p : PortTx) : PortTx :=
  let clr := fun b (q : QFrame) => if opens b then { q with heldWin := false } else q
  { p with
    ptpQ := p.ptpQ.map (clr 0), mgmtQ := p.mgmtQ.map (clr 1), media := p.media.map (clr 2)
    anc := p.anc.map (fun q => q.map (clr 3))
    drrNext := if opens 3 then p.heldQ.getD p.drrNext else p.drrNext
    visited := p.visited && !(opens 3 && p.heldQ.isSome)
    heldQ := if opens 3 then none else p.heldQ }

/-- GATES of a port change from `a` to `b`: the window of a class that was closed and is open begins. -/
def gatesTurn (a b : Nat) (p : PortTx) : PortTx := gateWindowsBegin (fun c => !a.testBit c && b.testBit c) p

/-- The longest run for which entries keep the media gate closed (R345). -/
def closedRun : List (Nat × Nat) → Nat → Nat
  | [], run => run
  | (g, i) :: l, run => if g.testBit 2 then max run (closedRun l 0) else closedRun l (run + i)

/-- The wait bound of port `l` (R345): ns, rounded up, saturating. -/
def portWait (s : State) (l : Nat) : Word :=
  let g := liveW s
  let p := port s l
  let longest := fun (x : Option GList) => match x with
    | some y => closedRun (y.entries ++ y.entries) 0
    | none => 0
  let sum := ((flowsOf s.live).map (fun f =>
    let c := flowCfg g f
    if !c.valid then 0
    else
      (if c.portA = l then svcCost g c.svc else 0) + (if svcDual g c.svc && decide (c.portB = l) then svcCost g c.svc else 0))).sum
  if portGbps g l = 0 then 0
  else
    BitVec.ofNat 32 (min 0xFFFFFFFF (max (longest p.oper) (longest p.pend) +
      cdiv (8 * (sum + mgmtBurst g l + 256 + 9236) * 1000) (portGbps g l * 1000 - mgmtRate g l)))

/-- `FLOW_PORT_WAIT` of port `l` is computed again (R351). -/
def takeWait (l : Nat) (s : State) : State := let w := portWait s l; modPort l (fun p => { p with wait := w }) s

/-- `FLOW_PORT_WAIT` of every port, as a set enters APPLY (R351). -/
def takeWaitsAll (s : State) : State := (List.range (4 * dies s)).foldl (fun s l => takeWait l s) s

/-- A passed generation changed the list of port `l` and takes effect now. -/
def listTakesEffect (l : Nat) (s : State) : State :=
  let g := effW s
  let t := s.time.now
  let had := (port s l).pend.isSome
  let s := if had then takeWait l (modPort l (fun p => { p with pend := none }) (bump (pgGate l) 13 1 s)) else s
  if glEn g l then
    let s := takeWait l (modPort l (fun p => { p with pend := some (newList g l t) }) s)
    if had then s else raiseBit (pgGate l) 3 s
  else modPort l (fun p => { gatesTurn (gatesAt p (t - 1)) 15 p with oper := none }) s

/-- At its start instant the pending list becomes operative; one that starts after its base time was past when it became pending raises
BASE_PAST (R350, R355). -/
def listStarts (l : Nat) (s : State) : State :=
  match (port s l).pend with
  | none => s
  | some q =>
    let s := advance q.start (modPort l (fun p =>
      { gatesTurn (gatesAt p (q.start - 1)) (gateAt q.entries 0 0).1 p with oper := some q, pend := none }) s)
    let s := if q.start = q.base then s else bump (pgGate l) 12 1 (raiseBit (pgGate l) 0 s)
    takeWait l s

/-- A gate entry begins: the windows that begin with it begin (R343, R348). -/
def gateBegins (l : Nat) (s : State) : State :=
  match (port s l).oper with
  | none => s
  | some g =>
    if g.cycle = 0 then s
    else
      let x := (s.time.now + g.cycle - g.base % g.cycle) % g.cycle
      let cur := gateAt g.entries x 0
      let t := s.time.now + (cur.2 - x)
      advance t (modPort l (fun p => gatesTurn cur.1 (gatesAt p t) p) s)

/-- Deficit of a port's ancillary queues whose quantum a generation changed (R343). -/
def quantaTakeEffect (old : Nat → Word) (s : State) : State :=
  (List.range (4 * dies s)).foldl (fun s l => (List.range 6).foldl (fun s q =>
    if quantum old l q ≠ quantum (effW s) l q then modPort l (fun p => { p with deficit := p.deficit.set q 0 }) s else s) s) s

/-- Port and management shapers of a port whose rate or burst a generation changed, or whose port it formed, are set to zero; the
other bucket keeps its credit (R340). The words of a lane that is no port's first have no effect (R347). -/
def shapersTakeEffect (old : Nat → Word) (s : State) : State :=
  (List.range (4 * dies s)).foldl (fun s l =>
    let g := effW s
    let formed := portOf old l ≠ some l
    let a := formed ∨ shapeRate old l ≠ shapeRate g l ∨ shapeBurst old l ≠ shapeBurst g l
    let b := formed ∨ mgmtRate old l ≠ mgmtRate g l ∨ mgmtBurst old l ≠ mgmtBurst g l
    if portOf g l ≠ some l ∨ ¬(a ∨ b) then s
    else
      let s := refillPort l s.time.now s
      let s := if a then raiseBit (pgFlow (l / 4)) 4 (modPort l (fun p => { p with tokPort := 0 }) s) else s
      if b then raiseBit (pgFlow (l / 4)) 4 (modPort l (fun p => { p with tokMgmt := 0 }) s) else s) s

/-- Gate lists that a generation changed become pending, and GL_EN 0 opens every gate (R350). -/
def listsTakeEffect (old : Nat → Word) (s : State) : State :=
  (List.range (4 * dies s)).foldl (fun s l =>
    let g := effW s
    if decide (glEn old l ≠ glEn g l) || (glEn g l && (decide (glCycle old l ≠ glCycle g l) || decide (glBase old l ≠ glBase g l) ||
        decide (glEntries old l ≠ glEntries g l))) then listTakesEffect l s else s) s

end Sys2Proof.Machine
end

