-- ==== Sys2Proof/Machine/Chan.lean ====
section
/-! DEFINITION. Channels, their pictures in progress and their furrows, as operations (R117–R119, R130, R137). -/

namespace Sys2Proof.Machine

open Sys2Proof

/-- Channel `ch`. -/
def chan (s : State) (ch : Nat) : Chan := s.chans.get (fun _ => {}) ch

/-- The state with channel `ch` changed by `f`. -/
def modChan (ch : Nat) (f : Chan → Chan) (s : State) : State := { s with chans := s.chans.set (fun _ => {}) ch (f (chan s ch)) }

/-- The channel whose pages report channel `ch`: its own, or while it is re-seated those of its spare's number (R389). -/
def reportCh (s : State) (ch : Nat) : Nat := (chan s ch).seat.getD ch

/-- The CH page that reports a channel. -/
def pgCh (s : State) (ch : Nat) : Nat := chPage 0x200 (reportCh s ch)

/-- The BARN and DRILL pages that report a channel. -/
def pgBarn (s : State) (ch : Nat) : Nat := chPage 0x240 (reportCh s ch)
def pgDrill (s : State) (ch : Nat) : Nat := chPage 0x220 (reportCh s ch)

/-- The die on which a channel runs (R13, R388). -/
def chDie (s : State) (ch : Nat) : Nat := reportCh s ch / 32

/-- `STAT` bit of a channel state that is a condition (R119). -/
def stBit (c : ChState) : Option Nat :=
  match c with
  | .idle => none
  | .armed => some 8
  | .running => some 9
  | .draining => some 10
  | .faulted => some 11

/-- The channel enters state `c` (R117–R119): the state's condition rises, and IDLE reached from DRAINING or FAULTED is the
event STOPPED. In IDLE nothing of a run is left: every stall is FREE and pins are cleared (R221), a stall's picture still being
the one it last held (R226); the count of held pictures goes on (R137). A DRAINING channel that was being re-aligned ends that too: the
boundaries passed over are counted, and no picture begins before the boundary at which its next one was due (R129). -/
def toChState (ch : Nat) (c : ChState) (s : State) : State :=
  let x := chan s ch
  let old := x.st
  let f := chFmt (effW s) ch
  let ends := decide (c = .idle) && decide (old = .draining) && x.realign
  let s := if ends then bump (pgCh s ch) 6 (x.passed + (x.next - x.passFrom)) (raiseBit (pgCh s ch) 5 s) else s
  let s := modChan ch (fun x => if c = .idle then
      { token := x.token, gen := x.gen, seat := x.seat, heldCount := x.heldCount, begun := x.begun
        notBefore := if ends then x.next * f.den * 1000000000 / f.num else 0
        stalls := x.stalls.filterMap (fun e => if e.2.poc = 0 ∧ e.2.n = 0 then none else some (e.1, { poc := e.2.poc, n := e.2.n })) }
    else { x with st := c }) s
  if old = c then s
  else
    match stBit c with
    | some i => raiseBit (pgCh s ch) i s
    | none => if old = .draining ∨ old = .faulted then raiseBit (pgCh s ch) 0 s else s

/-- RUNNING or DRAINING (R117). -/
def running (s : State) (ch : Nat) : Bool := decide ((chan s ch).st = .running) || decide ((chan s ch).st = .draining)

/-- Running in the wider sense of R94 and R105: any state but IDLE. -/
def notIdle (s : State) (ch : Nat) : Bool := decide ((chan s ch).st ≠ .idle)

/-- Some channel is not IDLE. -/
def anyRunning (s : State) : Bool := s.chans.any (fun e => decide (e.2.st ≠ .idle))

/-- Picture `n` in progress of a channel. -/
def pic? (s : State) (ch n : Nat) : Option Pic := (chan s ch).pics.find? (fun p => decide (p.n = n))

/-- The state with picture `n` of a channel changed by `f`. -/
def modPic (ch n : Nat) (f : Pic → Pic) (s : State) : State :=
  modChan ch (fun c => { c with pics := c.pics.map (fun p => if p.n = n then f p else p) }) s

/-- Furrow `k` of a picture. -/
def fur (p : Pic) (k : Nat) : Fur := p.furs.get (fun _ => {}) k

/-- The state with furrow `k` of picture `n` changed by `f`. -/
def modFur (ch n k : Nat) (f : Fur → Fur) (s : State) : State :=
  modPic ch n (fun p => { p with furs := p.furs.set (fun _ => {}) k (f (fur p k)) }) s

/-- The words of the pages of channel `ch`: CH, DRILL and BARN. -/
def chOwn (ch a : Nat) : Bool :=
  let k := a / 4096
  decide (k = chPage 0x200 ch) || decide (k = chPage 0x220 ch) || decide (k = chPage 0x240 ch)

/-- The location is a word of a LAYER page of die `d`, or of a scaler's coefficient table (R164, R173). -/
def canvasLoc (d a : Nat) : Bool :=
  (decide (ploc (pkey d 0x400) 0 ≤ a) && decide (a < ploc (pkey d 0x500) 0)) ||
    (decide (bar2loc (0x430000 + 16384 * d) ≤ a) && decide (a < bar2loc (0x430000 + 16384 * (d + 1))))

/-- The words a picture in progress keeps as they stood at T_n: its channel's own and those of its canvas (R71, R174). -/
def picOwn (ch a : Nat) : Bool := chOwn ch a || canvasLoc (ch / 32) a

/-- A word as a picture in progress sees it: its own words as they stood at T_n, every other in effect now. -/
def picG (s : State) (ch : Nat) (p : Pic) : Nat → Word :=
  fun a => if picOwn ch a then p.cfg.get resetWord a else effW s a

/-- The format of a picture in progress. -/
def picFmt (ch : Nat) (p : Pic) : Fmt :=
  let g := fun a => p.cfg.get resetWord a
  chFmt g ch

/-- The picture is re-aligned by a step: an instant of its timeline in media time after it (R129). -/
def shiftT (p : Pic) (t : Nat) : Nat := ((t : Int) + p.shift).toNat

/-- Emission point of furrow `k` of a picture, the shift of R129 included. -/
def picEmission (ch : Nat) (p : Pic) (k : Nat) : Nat := shiftT p ((picFmt ch p).emission p.n k)

/-- Capture point of furrow `k`, whole ns. -/
def picCapture (ch : Nat) (p : Pic) (k : Nat) : Nat := shiftT p ((picFmt ch p).capture p.n k)

/-- None of furrows 0 to `k` carries content of the picture (R137). -/
def heldTo (p : Pic) (k : Nat) : Bool := (List.range (k + 1)).all (fun j => !(fur p j).live)

/-- Some furrow carries content of the picture: it is live (R137). -/
def liveTo (p : Pic) (n : Nat) : Bool := (List.range n).any (fun j => (fur p j).live)

/-- HELD and HELD_COUNT of furrow `k` (R137, R326). DEDUCED: HELD is that of the furrow, fixed before its coded point; every
furrow of a held picture is held. -/
def heldOf (p : Pic) (k : Nat) : Bool × Nat :=
  let held := heldTo p k
  let cnt := if held then min 255 (p.prevHeld + 1) else 0
  let taken := match p.heldFrom with
    | none => false
    | some j => decide (j ≤ k)
  (held || p.heldAll || taken, min 255 (cnt + p.heldAdd))

end Sys2Proof.Machine
end

