-- ==== Sys2Proof/Machine/Yard.lean ====
section
/-! DEFINITION. The yard: services, packing, sequence numbers, FEC, the freshness record, release, and the flow table's
joins and leaves (R314–R330, R336–R338). -/

namespace Sys2Proof.Machine

open Sys2Proof

/-- Service `v`. -/
def svc (s : State) (v : Nat) : Svc := s.svcs.get (fun _ => {}) v

/-- The state with service `v` changed by `f`. -/
def modSvc (v : Nat) (f : Svc → Svc) (s : State) : State := { s with svcs := s.svcs.set (fun _ => {}) v (f (svc s v)) }

/-! ## RTP packets on the wire (R320–R322) -/

/-- The IPv4 length of a packet: IPv4, UDP and RTP headers, the header extension, the payload, the tag of SRTP. -/
def rtpIpLen (srtp : Nat) (r : RtpPkt) : Nat := 40 + r.ext.length + r.payload.length + (if srtp ≠ 0 then 16 else 0)

/-- The RTP header and its extension: version 2, no CSRC, no padding (R320, R328). -/
def rtpHead (ssrc : Nat) (r : RtpPkt) : List Byte :=
  [if r.ext = [] then 0x80 else 0x90, BitVec.ofNat 8 ((if r.marker then 128 else 0) + r.pt)] ++ beBytes 2 r.seq ++ beBytes 4 r.ts ++
    beBytes 4 ssrc ++ r.ext

/-- The GCM initialisation vector of RFC 7714: SSRC, rollover counter and sequence number in network byte order, each bit added to the
salt's. -/
def srtpIv (ssrc : Nat) (r : RtpPkt) (salt : BitVec 96) : List Byte :=
  addBytes (lowFirst 12 salt.toNat) (beBytes 12 (ssrc * 2 ^ 48 + r.roc % 2 ^ 32 * 2 ^ 16 + r.seq % 2 ^ 16))

/-- A media packet from the RTP header on as flow's `ssrc` sends it: in clear, or its payload encrypted and the header authenticated (R322). -/
def rtpBytes (ssrc srtp : Nat) (k : KeySlot) (r : RtpPkt) : List Byte :=
  let h := rtpHead ssrc r
  if srtp = 0 then h ++ r.payload
  else
    let iv := srtpIv ssrc r k.salt
    let l := decide (srtp = 2)
    let c := addBytes r.payload (gcmStream l k.key iv r.payload.length)
    h ++ c ++ beBytes 16 (gcmTag l k.key iv h c).toNat

/-- Bytes added bit by bit, the shorter list ending in zeros. -/
def xorBytes (a b : List Byte) : List Byte := (List.range (max a.length b.length)).map (fun i => a.getD i 0 ^^^ b.getD i 0)

/-- A number's bits added to another's. -/
def xorNats (l : List Nat) : Nat := l.foldl (fun a b => a ^^^ b) 0

/-- A FEC packet from the RTP header on (R321): the FEC header of ST 2022-1 over the packets it covers as the flow sends them, and their
bytes after the RTP header added. PRESUMED: payload type 96 and the layout of ST 2022-1. `off` and `na` are its step and count. -/
def fecBytes (ssrc srtp : Nat) (k : KeySlot) (r : RtpPkt) (covers : List RtpPkt) (row : Bool) (off na : Nat) : List Byte :=
  let l := covers.map (fun x => (rtpBytes ssrc srtp k x).drop 12)
  rtpHead ssrc { r with pt := 96, marker := false, ext := [] } ++
    beBytes 2 ((covers.head?.map (fun x => x.seq)).getD 0) ++ beBytes 2 (xorNats (l.map (fun x => x.length))) ++
    [BitVec.ofNat 8 (128 + xorNats (covers.map (fun x => x.pt)))] ++ beBytes 3 0 ++ beBytes 4 (xorNats (covers.map (fun x => x.ts))) ++
    [if row then 0x40 else 0, BitVec.ofNat 8 off, BitVec.ofNat 8 na, 0] ++ l.foldl xorBytes []

/-- The SSRC of a flow (R34, R320). -/
def ssrcOf (part f : Nat) : Nat := part * 2 ^ 20 + f

/-- The stream identifier of a service (R34). -/
def streamId (part v : Nat) : Nat := part * 4096 + v

/-! ## Release (R315, R322, R338) -/

/-- The die whose yard packs a service: that of its channel, which a re-seated one has left its own for (R389). -/
def svcDie (s : State) (v : Nat) : Nat := if isVideoSvc v then chDie s (svcCh v) else v / 512

/-- What a packet of a service is on one path of a flow, from the addresses on: FEC goes to the destination port + 2 or + 4 (R315, R320–R322). -/
def flowDgram (s : State) (p : Pkt) (f : Nat) (c : FlowCfg) (path : Nat) : Dgram :=
  let k := keySlot s p.key
  let ssrc := ssrcOf p.part f
  let l := if path = 0 then c.portA else c.portB
  { mac := gateMac (effW s) l, src := gateAddr (effW s) l, dst := if path = 0 then c.dstA else c.dstB, sport := c.sport
    dport := c.dport + 2 * p.kind, dscp := c.dscp, ttl := c.ttl
    tag := if c.tagged then some (c.pcp, if path = 0 then c.vlanA else c.vlanB) else none
    payload := if p.kind = 0 then rtpBytes ssrc p.srtp k p.rtp
      else fecBytes ssrc p.srtp k p.rtp p.covers (decide (p.kind = 2)) p.fecStep p.covers.length }

/-- One frame of a packet to one path of a flow (R315, R331): it waits at the port in release order. -/
def enqueue (p : Pkt) (f : Nat) (c : FlowCfg) (path : Nat) (yoked : Bool) (s : State) : State :=
  let l := if path = 0 then c.portA else c.portB
  let len := p.ipLen + 18 + (if c.tagged then 4 else 0)
  modPort l (fun q => { q with media := q.media ++ [
    { flow := f, path := path, release := p.release, len := len, seq := p.rtp.seq, furrow0 := decide (p.idx = 0)
      record := p.rtp.record, ip := some (flowDgram s p f c path), yoked := yoked, ch := p.ch }] }) s

/-- The slot is marked used at its first encryption (R323); persistent (R496). -/
def markUsed (n : Nat) (s : State) : State :=
  let k := keySlot s n
  if k.used then s else setKeySlot n { k with used := true } s

/-- A packet goes to the subscriber queues of every flow of its service, on both paths of a dual service; SRTP encrypts it
once per flow (R315, R321, R322). -/
def deliver (p : Pkt) (s : State) : State :=
  let yoked := pairEn (effW s)
  let d := svcDie s p.svc
  p.flows.foldl (fun s e =>
    let c := flowCfgL e.2
    let s := if p.srtp ≠ 0 ∧ p.kind = 0 then markUsed p.key (bump (pgYard d) 3 1 s) else s
    let s := if p.rtp.ext = [] then s else bump (pgYard d) 2 1 s
    let s := enqueue p e.1 c 0 yoked s
    if p.dual then enqueue p e.1 c 1 yoked s else s) s

/-- The replay store keeps the packets of a service's last three furrows (R363). -/
def keepReplay (p : Pkt) (s : State) : State :=
  if s.yoke.role ≠ roleStandby then s
  else
    let old := s.yoke.replay.get (fun _ => []) p.svc
    let l := old ++ [p]
    let marks := ((l.map (fun q => (q.n, q.furrow))).eraseDups).reverse.take 3
    { s with yoke := { s.yoke with replay := s.yoke.replay.set (fun _ => []) p.svc (l.filter (fun q => marks.contains (q.n, q.furrow))) } }

/-- A picture has nothing left to send: every furrow packed and no packet of it queued. -/
def picLeft (s : State) (ch : Nat) (p : Pic) : Bool :=
  p.ended && (List.range (picFmt ch p).furrows).all (fun k => (fur p k).packed) &&
    (chSvcs ch).all (fun v => (svc s v).queue.all (fun q => decide (q.n ≠ p.n)))

/-! ## Dispatchers and waiting times (R288, R289) -/

/-- The DSP page of die `d`. -/
def pgDsp (d : Nat) : Nat := pkey d 0x102

/-- A die's dispatcher. -/
def dsp (s : State) (d : Nat) : Dsp := s.dsps.get (fun _ => {}) d

/-- The state with a dispatcher changed by `f`. -/
def modDsp (d : Nat) (f : Dsp → Dsp) (s : State) : State := { s with dsps := s.dsps.set (fun _ => {}) d (f (dsp s d)) }

/-- What an item stands for: its owner, picture, furrow, kind and index. -/
def Item.key (i : Item) : Nat × Nat × Nat × Nat × Nat := (i.owner, i.n, i.furrow, i.kind, i.idx)

/-- The bin of a waiting time in ns (R289). -/
def waitBin (ns : Nat) : Nat := min 15 (if ns < 1000 then 0 else Nat.log2 (ns / 1000) + 1)

/-- The bin of an item that is or was in service: from its ready time to the start of its service. -/
def Item.bin (i : Item) : Nat := waitBin (i.startAt - i.ready.getD i.startAt)

/-- The local channel that an owner's histogram belongs to: none for a decode source. -/
def histCh (o : Nat) : Option Nat := if o < 32 then some o else if o < 96 then none else some (o - 96)

/-- A waiting time is recorded in bin `b` (R289). -/
def countWait (d : Nat) (a : Nat × Nat × Nat × Nat × Nat) (b : Nat) (s : State) : State :=
  bump (pgDsp d) (16 * a.2.2.2.1 + b) 1 (match histCh a.1 with
    | none => s
    | some c => modDsp d (fun x => { x with hist := x.hist.set (fun _ => 0) (16 * c + b) (x.hist.get (fun _ => 0) (16 * c + b) + 1) }) s)

/-- The waiting times kept of ended work that `q` picks are recorded. -/
def recordEnded (d : Nat) (q : Nat × Nat × Nat × Nat × Nat → Bool) (s : State) : State :=
  ((dsp s d).waits.filter (fun e => q e.1)).foldl (fun s e => countWait d e.1 e.2 s)
    (modDsp d (fun x => { x with waits := x.waits.filter (fun e => !q e.1) }) s)

/-- The waiting times of items in service that `q` picks are recorded. -/
def recordServed (d : Nat) (q : Item → Bool) (s : State) : State :=
  ((dsp s d).items.filter (fun i => i.unit.isSome && q i)).foldl (fun s i => countWait d i.key i.bin s) s

/-- Work items of a channel's pictures that `q` picks go with the pictures (R284). -/
def dropItems (ch : Nat) (q : Nat → Bool) (s : State) : State :=
  let d := chDie s ch
  let o := reportCh s ch % 32
  let hit := fun (a : Nat × Nat × Nat × Nat × Nat) => (decide (a.1 = o) || decide (a.1 = 96 + o)) && q a.2.1
  modDsp d (fun x => { x with
    items := x.items.filter (fun i => !hit i.key), done := x.done.filter (fun a => !hit a), readyAt := x.readyAt.filter (fun e => !hit e.1) })
    (recordServed d (fun i => hit i.key) (recordEnded d hit s))

/-- Pictures whose last packet has left go (CH counter 1); a draining channel with none left is IDLE (R118, R119). -/
def settle (ch : Nat) (s : State) : State :=
  let gone := (chan s ch).pics.filter (picLeft s ch)
  let s := if gone.isEmpty then s else dropItems ch (gone.map (fun p => p.n)).contains s
  let s := bump (pgCh s ch) 1 gone.length s
  let s := modChan ch (fun c => { c with pics := c.pics.filter (fun p => !picLeft s ch p) }) s
  if (chan s ch).st = .draining ∧ (chan s ch).pics.isEmpty = true then
    modYch ch (fun _ => {}) (toChState ch .idle (dropItems ch (fun _ => true) s))
  else s

/-- The service's next packet is released at its instant (R338). -/
def releaseNext (v : Nat) (s : State) : State :=
  match (svc s v).queue with
  | [] => s
  | p :: ps =>
    let s := advance p.release (modSvc v (fun x => { x with queue := ps }) s)
    let s := keepReplay p (deliver p s)
    settle p.ch s

/-! ## Joining and leaving services (R320, R336) -/

/-- A service's counters as it starts (R320–R322). -/
def startSvc (v : Nat) (s : State) : State := modSvc v (fun x => { active := true, queue := x.queue }) s

/-- At a picture boundary of `ch`: services that became valid start, those too that had become invalid since the boundary before, and those that
became invalid pack no more (R320); `fresh` when the channel enters RUNNING. -/
def svcsAtBoundary (ch : Nat) (fresh : Bool) (s : State) : State :=
  (chSvcs ch).foldl (fun s v =>
    let c := svcCfg (effW s) v
    if c.valid then (if fresh || !(svc s v).active || (svc s v).lapsed then startSvc v s else s)
    else modSvc v (fun x => { x with active := false }) s) s

/-- The services that pack a picture that begins now, with their YARD words (R320). -/
def packedSvcs (ch : Nat) (s : State) : List (Nat × List Word) :=
  ((chSvcs ch).filter (fun v => (svc s v).active)).map (fun v =>
    (v, [effW s (svcLoc v), effW s (packLoc ch 0), effW s (packLoc ch 1), effW s (packLoc ch 2)]))

/-- The words in effect make entry `f` carry service `v`. -/
def carries (g : Nat → Word) (f v : Nat) : Bool := (flowCfg g f).valid && decide ((flowCfg g f).svc = v)

/-- Entry `f`, whose words are now those of `g`, leaves its service: a moved entry then waits to join the new one (R336). -/
def flowLeave (g : Nat → Word) (f : Nat) (s : State) : State :=
  let c := flowCfg g f
  modFlow f (fun x => { x with joined := none, target := if c.valid then some c.svc else none }) s

/-- Entry `f` joins service `v` under its words of `g`: its buckets start at zero (R336, R340). -/
def flowJoin (g : Nat → Word) (f v : Nat) (s : State) : State :=
  resetFlowBucket f (modFlow f (fun x => { x with joined := some v, target := none, words := flowWords g f }) s)

/-- Video service `u` has a boundary at this very instant: one that its channel has yet to come to (R336). -/
def boundaryNow (s : State) (u : Nat) : Bool :=
  isVideoSvc u && running s (svcCh u) &&
    decide ((chFmt (effW s) (svcCh u)).bound (chan s (svcCh u)).next = s.time.now)

/-- The words of the flow table and of services that boundaries take now (R71, R336): those passed, but for a set that both parts of a yoke passed and
whose effect instant is still to come (R366), for which they are the words before. -/
def flowNow (s : State) (a : Nat) : Word :=
  if s.waits.any (fun x => decide (s.time.now < (cset s x.1).effect) &&
      (entryRanges (cset s x.1).entry).any (fun r => decide (r.1 ≤ a) && decide (a < r.2))) then effW s a
  else liveW s a

/-- At a package furrow boundary: video services that become invalid there (R320). -/
def svcsLapse (s : State) : State :=
  s.svcs.foldl (fun s e =>
    if isVideoSvc e.1 && e.2.active && !(svcCfg (flowNow s) e.1).valid then modSvc e.1 (fun x => { x with lapsed := true }) s else s) s

/-- Entry `f` at a boundary of service `v` (R336), its words being those of `g`: it leaves a service that they no longer name, which is
`v` or one whose boundary is at the same instant, joins `v` when it waits for it, and takes changed words that keep the service, with
a reset of buckets whose rate or burst changed, by the entry's words or by its channel's (R340). -/
def flowAtBoundary (g : Nat → Word) (v f : Nat) (s : State) : State :=
  let c := flowCfg g f
  let leaves := match (flow s f).joined with
    | none => false
    | some u => !(c.valid && decide (c.svc = u)) && (decide (u = v) || boundaryNow s u)
  let s := if leaves then flowLeave g f s else s
  let x := flow s f
  if c.valid = true ∧ c.svc = v then
    if x.joined = none then flowJoin g f v s
    else if x.joined = some v then
      let s := modFlow f (fun x => { x with words := flowWords g f }) s
      if x.shape ≠ subscriber (effW s) c then resetFlowBucket f s else s
    else s
  else s

/-- Entries known to the flow table: listed live, or still joined. -/
def knownFlows (s : State) : List Nat := (flowsOf s.live ++ s.flows.map Prod.fst).eraseDups

/-- Every entry at a boundary of service `v`. -/
def flowsAtBoundary (g : Nat → Word) (v : Nat) (s : State) : State := (knownFlows s).foldl (fun s f => flowAtBoundary g v f s) s

/-- The entries of a channel's services at its picture boundary, whether a picture begins there or not (R71, R336). The first boundary
of a channel that was ARMED takes the words of the last package furrow boundary (R71). -/
def chFlows (ch : Nat) (first : Bool) (s : State) : State :=
  let g := if first then effW s else flowNow s
  (chSvcs ch).foldl (fun s v => flowsAtBoundary g v s) s

/-- At a package furrow boundary, the entries of channels that are not running: a channel in IDLE or ARMED takes its words there (R71).
DESIGN CHOICE: an entry that its words move or make invalid leaves such a channel's service there, which has no picture boundary
(R336); it joins a service at that channel's first picture. -/
def idleFlows (s : State) : State :=
  (knownFlows s).foldl (fun s f =>
    match (flow s f).joined with
    | some u => if isVideoSvc u && !running s (svcCh u) && !carries (effW s) f u then flowLeave (effW s) f s else s
    | none => s) s

/-- The entries joined to the services of a channel, with their words: what pictures that begin now are sent under. -/
def joinedFlows (s : State) (v : Nat) : List (Nat × List Word) :=
  (s.flows.filter (fun e => decide (e.2.joined = some v))).map (fun e => (e.1, e.2.words))

end Sys2Proof.Machine
end

