-- ==== Sys2Proof/Machine/Dram.lean ====
section
/-! DEFINITION. A die's usable DRAM as bytes (R11, R89, R166): a sparse table of what is not zero, keyed by die and usable
address. -/

namespace Sys2Proof.Machine

open Sys2Proof

/-- Usable DRAM of a die: 15 GiB (R147). -/
def dramBytes : Nat := 15 * 2 ^ 30

/-- The key of a byte. -/
def memKey (d a : Nat) : Nat := 2 ^ 34 * d + a

/-- The byte at a usable address: an unlisted byte is zero, as the wipe leaves it (R89). -/
def dramGet (s : State) (d a : Nat) : Byte := Tbl.get (fun _ => (0 : Byte)) s.dram (memKey d a)

/-- A byte written. -/
def dramSet (d a : Nat) (b : Byte) (s : State) : State :=
  { s with dram := Tbl.set (fun _ => (0 : Byte)) s.dram (memKey d a) b }

/-- The memory's canonical form: addresses rising, and no byte that equals what an unlisted one reads as. -/
def Memory.wf (m : List Host.Cell) : Bool := Tbl.wf (fun _ => (0 : Byte)) m

/-- A little-endian 32-bit word (R182). -/
def dramRead32 (s : State) (d a : Nat) : Nat :=
  (dramGet s d a).toNat + 2 ^ 8 * (dramGet s d (a + 1)).toNat + 2 ^ 16 * (dramGet s d (a + 2)).toNat + 2 ^ 24 * (dramGet s d (a + 3)).toNat

/-- Bytes written from an address up. -/
def dramWrite (d : Nat) : Nat → List Byte → State → State
  | _, [], s => s
  | a, b :: bs, s => dramWrite d (a + 1) bs (dramSet d a b s)

/-- The bytes of a number, least significant first. -/
def leBytes (n x : Nat) : List Byte := (List.range n).map (fun i => BitVec.ofNat 8 (x >>> (8 * i)))

/-- Samples of ten bits as bytes, from the low bit up: four in five. -/
def pack10 : List Nat → List Byte
  | v0 :: v1 :: v2 :: v3 :: t => leBytes 5 (v0 % 1024 + 1024 * (v1 % 1024) + 1048576 * (v2 % 1024) + 1073741824 * (v3 % 1024)) ++ pack10 t
  | _ => []

/-- Sample `i` of ten bits from usable address `a` on. -/
def bits10 (s : State) (d a i : Nat) : Nat :=
  ((dramGet s d (a + i * 10 / 8)).toNat + 256 * (dramGet s d (a + i * 10 / 8 + 1)).toNat) / 2 ^ (i * 10 % 8) % 1024

/-! ## A memory controller's state -/

/-- The MC page of die `d`. -/
def pgMc (d : Nat) : Nat := pkey d 0x101

/-- A die's memory controller. -/
def mc (s : State) (d : Nat) : Mc := s.mcs.get (fun _ => {}) d

/-- The state with a memory controller changed by `f`. -/
def modMc (d : Nat) (f : Mc → Mc) (s : State) : State := { s with mcs := s.mcs.set (fun _ => {}) d (f (mc s d)) }

/-- Memory channel `i` of a controller. -/
def mch (x : Mc) (i : Nat) : Mch := x.mchs.get (fun _ => {}) i

/-- The state with a memory channel changed by `f`. -/
def modMch (d i : Nat) (f : Mch → Mch) (s : State) : State :=
  modMc d (fun x => { x with mchs := x.mchs.set (fun _ => {}) i (f (mch x i)) }) s

/-! ## The address map (R292–R294) -/

/-- Where a data word lies. -/
structure DramPlace where
  channel : Nat
  bank : Nat
  row : Nat
  burst : Nat
  deriving DecidableEq, Repr

/-- Channels per interleave group of a map value (R293). -/
def mapGroup (m : Nat) : Nat := [16, 8, 4, 2, 1].getD (m / 16 % 8) 16

/-- Interleave grain in bytes (R293). -/
def mapGrain (m : Nat) : Nat := 256 * 2 ^ (m % 16)

/-- R294 for the data word `w` (usable address / 32) under map value `m`. -/
def dramPlace (m w : Nat) : DramPlace :=
  let s := mapGroup m
  let q := mapGrain m / 32
  let n := 31457280 * s
  let grp := w / n
  let wr := w % n
  let j := wr / q
  let off := wr % q
  let x := j / s
  let h := (x ^^^ (x / 2 ^ 4) ^^^ (x / 2 ^ 8) ^^^ (x / 2 ^ 12) ^^^ (x / 2 ^ 16)) &&& 15
  let lw := x * q + off
  let r := lw / 60
  let row := r / 16
  { channel := grp * s + ((j % s) ^^^ (h &&& (s - 1)))
    bank := (r &&& 15) ^^^ (row &&& 15) ^^^ ((row / 16) &&& 15)
    row := row
    burst := lw % 60 }

/-! ## Errors (R295–R297) -/

/-- Key of a data word in the poison list. -/
def wordKey (d w : Nat) : Nat := 2 ^ 29 * d + w

/-- Data word `w` of die `d` carries a poison code. -/
def poisoned (s : State) (d w : Nat) : Bool := s.poison.contains (wordKey d w)

/-- A single-bit error is corrected on a read. -/
def eccCorrect (d : Nat) (s : State) : State := bump (pgMc d) 0 1 (raiseBit (pgMc d) 5 s)

/-- An uncorrectable error is read by `who`: it is logged when nothing is. -/
def eccBad (d w who : Nat) (s : State) : State :=
  let s := bump (pgMc d) 1 1 (raiseBit (pgMc d) 6 s)
  if bitOf (mc s d).errInfo 31 then s
  else
    let c := (dramPlace (mc s d).mapLive w).channel
    let p := if poisoned s d w then 2 ^ 30 else 0
    modMc d (fun m => { m with errAddr := w, errInfo := BitVec.ofNat 32 (2 ^ 31 + p + c * 2 ^ 16 + who) }) s

/-- A single-bit error that a read met is corrected and counted, and stays in the word until the word is written (R295, R297). -/
def meetSoft (d w : Nat) (s : State) : State := eccCorrect d { s with soft := NSet.add s.soft (wordKey d w) }

/-- An uncorrectable error that a read met stays in the word until the word is written (R297). -/
def leaveBad (d w : Nat) (s : State) : State :=
  if poisoned s d w then s else { s with broken := NSet.add s.broken (wordKey d w) }

/-- A read of the word meets an uncorrectable error. -/
def wordBad (s : State) (d w : Nat) : Bool := poisoned s d w || s.broken.contains (wordKey d w)

/-- Bytes read from and written to the channel of a word (counters 32 + i and 48 + i). -/
def countRead (d w : Nat) (s : State) : State := bump (pgMc d) (32 + (dramPlace (mc s d).mapLive w).channel) 32 s
def countWrite (d w : Nat) (s : State) : State := bump (pgMc d) (48 + (dramPlace (mc s d).mapLive w).channel) 32 s

/-- The data words of `n` bytes from usable address `a`. -/
def wordsOf (a n : Nat) : List Nat := if n = 0 then [] else List.range' (a / 32) ((a + n - 1) / 32 + 1 - a / 32)

/-- A read of the word meets a single-bit error that an earlier read met. -/
def wordSoft (s : State) (d w : Nat) : Bool := s.soft.contains (wordKey d w)

/-- The code of data word `w`, whose new bytes are in place (R295): less than a whole word is read, corrected, merged and written back, with a
poison code when the read found it uncorrectable; a whole word carries a new code. -/
def storeWord (d w : Nat) (whole : Bool) (e : EccEvent) (s : State) : State :=
  let bad := !whole && (wordBad s d w || decide (e = .double))
  let fix := !whole && !bad && (decide (e = .single) || wordSoft s d w)
  let s := if whole then s else countRead d w s
  let s := if fix then eccCorrect d s else s
  let s := countWrite d w s
  { s with
    poison := if bad then NSet.add s.poison (wordKey d w) else NSet.del s.poison (wordKey d w)
    broken := NSet.del s.broken (wordKey d w), soft := NSet.del s.soft (wordKey d w) }

/-- The words that `n` bytes written at `a` touch carry new codes. -/
def storeWords (d a n : Nat) (s : State) : State :=
  (wordsOf a n).foldl (fun s w => storeWord d w (decide (a ≤ 32 * w) && decide (32 * w + 32 ≤ a + n)) .clean s) s

/-- A block writes bytes. -/
def dramStore (d a : Nat) (bs : List Byte) (s : State) : State := storeWords d a bs.length (dramWrite d a bs s)

/-- A little-endian 32-bit word written. -/
def dramWrite32 (d a v : Nat) (s : State) : State := dramStore d a (leBytes 4 v) s

/-- A range of usable memory and who reads it, by the codes of `MC_ERR_INFO` (R312). -/
structure MemRange where
  who  : Nat
  die  : Nat
  addr : Nat
  len  : Nat
  deriving DecidableEq, Repr

/-- The words of a list of keys that `n` bytes from usable address `a` of die `d` touch. -/
def wordsIn (l : NSet) (d a n : Nat) : List Nat :=
  (l.filter (fun x => decide (wordKey d (a / 32) ≤ x) && decide (x * 32 < 2 ^ 34 * d + a + n))).map (fun x => x % 2 ^ 29)

/-- The bad words of `n` bytes from usable address `a` of die `d`. -/
def badWords (s : State) (d a n : Nat) : List Nat := wordsIn (s.poison ++ s.broken) d a n

/-- The single-bit errors that a read of ranges meets, corrected and counted (R295). -/
def correctIn (ls : List MemRange) (s : State) : State :=
  (ls.flatMap (fun r => (wordsIn s.soft r.die r.addr r.len).map (fun _ => r.die))).foldl (fun s d => eccCorrect d s) s

end Sys2Proof.Machine
end

