-- ==== Sys2Proof/Machine/Ingest.lean ====
section
/-! DEFINITION. Ingest: policing, merging two paths, the assignment of packets to pictures and lines, fills and the
furrow-complete point (R139–R162), as operations. -/

namespace Sys2Proof.Machine

open Sys2Proof

/-- The ING and CLS pages of die `d`. -/
def pgIng (d : Nat) : Nat := pkey d 0x103
def pgCls (d : Nat) : Nat := pkey d 0x104

/-- Slot `n` of die `d`. -/
def slot (s : State) (d n : Nat) : Slot := s.slots.get (fun _ => {}) (64 * d + n)

/-- The state with a slot changed by `f`. -/
def modSlot (d n : Nat) (f : Slot → Slot) (s : State) : State :=
  { s with slots := s.slots.set (fun _ => {}) (64 * d + n) (f (slot s d n)) }

/-- Picture `m` of a slot. -/
def slotPic (x : Slot) (m : Nat) : SlotPic := x.pics.get (fun _ => {}) m

/-- The state with picture `m` of a slot changed by `f`. -/
def modSlotPic (d n m : Nat) (f : SlotPic → SlotPic) (s : State) : State :=
  modSlot d n (fun x => { x with pics := x.pics.set (fun _ => {}) m (f (slotPic x m)) }) s

/-- Line `y` of a picture. -/
def lineOf (p : SlotPic) (y : Nat) : LineSt := p.lines.get (fun _ => {}) y

/-- Classifier entry `e`. -/
def entry (s : State) (e : Nat) : Entry := s.entries.get (fun _ => {}) e

/-- The state with a classifier entry changed by `f`. -/
def modEntry (e : Nat) (f : Entry → Entry) (s : State) : State :=
  { s with entries := s.entries.set (fun _ => {}) e (f (entry s e)) }

/-- One more, or `x` more, in an entry's own count `i` (counters 16 + i of the CLS page, R162). -/
def entCount (e i x : Nat) : State → State := modEntry e (fun n => { n with counts := n.counts.set i (n.counts.getD i 0 + x) })

/-! ## Classification and policing (R143, R145) -/

/-- A frame's VLAN identifier: a tag with VID 0 counts as untagged. -/
def vidOf (f : Frame) : Nat := f.vlans.headD 0

/-- R143: the frame, received on the port whose first lane is `p`, matches entry `c`. -/
def entMatches (c : EntCfg) (p : Nat) (f : Frame) : Bool :=
  c.valid && decide (c.port = p) && decide (f.dip = c.dst) && decide (f.dport = c.dport) &&
    (!c.mVlan || (decide (vidOf f = c.vlan) && decide (vidOf f ≠ 0))) && (!c.mSrc || decide (f.sip = c.src))

/-- How specific an entry is (R143). -/
def specificity (c : EntCfg) : Nat := (if c.mSrc then 2 else 0) + (if c.mVlan then 1 else 0)

/-- The most specific of the entries of die `d` that match. -/
def classify (s : State) (p : Nat) (f : Frame) : Option Nat :=
  let g := effW s
  ((entsOf s.eff).filter (fun e => decide (entDie e = p / 4) && entMatches (entCfg g e) p f)).foldl (fun b e =>
    match b with
    | none => some e
    | some o => if specificity (entCfg g o) < specificity (entCfg g e) then some e else some o) none

/-- Tokens of a policer's byte: a rate of CIR kb/s fills CIR of them in a ns. -/
def polByte : Nat := 8000000

/-- R151: no copy has passed entry `e`'s policer for 1 ms before `t`, and one has passed its peer's in that time. -/
def pathDownAt (s : State) (e t : Nat) : Bool :=
  let c := entCfg (effW s) e
  let x := entry s e
  c.valid && decide (c.path = 1 ∨ c.path = 2) && decide (x.passAt.getD x.since + 1000000 ≤ t) &&
    (match (entry s c.peer).passAt with
      | none => false
      | some q => decide (t ≤ q + 1000000))

/-- Some pair of die `d` meets PATH_DOWN (R151, R161). -/
def anyDown (s : State) (d : Nat) : Bool := s.entries.any (fun e => decide (entDie e.1 = d) && e.2.down)

/-- PATH_DOWN is looked at for an entry of a pair at instant `t`: the condition of the page rises with the first (R161). -/
def lookDown (e t : Nat) (s0 : State) : State :=
  let d := entDie e
  let s := modEntry e (fun n => { n with down := pathDownAt s0 e t }) s0
  if !anyDown s0 d && anyDown s d then raiseBit (pgIng d) 6 s else s

/-- A copy has passed the policer of entry `e` at `t`: both entries of a pair are looked at (R151). -/
def copyPassed (e t : Nat) (s : State) : State :=
  let c := entCfg (effW s) e
  if c.path = 1 ∨ c.path = 2 then lookDown c.peer t (lookDown e t (modEntry e (fun n => { n with passAt := some t }) s)) else s

/-- R145: the frame's cost is deducted when the bucket holds it. Answers whether the frame conforms. -/
def police (e t len : Nat) (s : State) : Bool × State :=
  let c := entCfg (effW s) e
  let n := entry s e
  let tok := min (c.cbs * polByte) (n.tok + c.cir * (t - n.last))
  let cost := (len + 20) * polByte
  let d := entDie e
  if cost ≤ tok then
    (true, copyPassed e t (entCount e 1 len (entCount e 0 1 (modEntry e (fun n => { n with tok := tok - cost, last := max n.last t }) s))))
  else
    (false, raiseBit (pgCls d) 1 (bump (pgCls d) 4 1 (entCount e 2 1 (modEntry e (fun n => { n with tok := tok, last := max n.last t }) s))))

/-! ## Merging (R151) -/

/-- The number congruent to `q` modulo `m` that lies nearest `high` (R151). DESIGN CHOICE: a number exactly half the range away is
equally near on both sides; the one in the highest number's own block of `m` is taken. -/
def unfoldSeq (m high q : Nat) : Nat :=
  let b := high / m * m + q % m
  if b + m / 2 < high then b + m else if high + m / 2 < b then b - m else b

/-- The pair of an entry: its path A entry. -/
def pairKey (c : EntCfg) (e : Nat) : Nat := if c.path = 2 then c.peer else e

/-- The merge of the pair whose path A entry is `k`. -/
def merge (s : State) (k : Nat) : Merge := s.merges.get (fun _ => {}) k

/-- The least taken number above `x`, with the arrival of its first copy. -/
def nextTaken (l : List (Nat × Nat)) (x : Nat) : Option (Nat × Nat) :=
  l.foldl (fun b e => if x < e.1 then
    match b with
    | none => some e
    | some o => if e.1 < o.1 then some e else some o
    else b) none

/-- R151 for a copy that arrives at `t` with sequence number `q` of `2^bits`: taken, with its extended number, or not.
A single path takes every packet. -/
def mergeCopy (e t bits q : Nat) (s : State) : Option Nat × State :=
  let c := entCfg (effW s) e
  let d := entDie e
  let k := pairKey c e
  let m := merge s k
  let x := match m.high with
    | none => 2 ^ 40 + q % 2 ^ bits
    | some h => unfoldSeq (2 ^ bits) h q
  let m' : Merge := { high := some (max x (m.high.getD x)), taken := if c.path = 0 then [] else (x, t) :: m.taken }
  let take := fun (s : State) => { s with merges := s.merges.set (fun _ => {}) k m' }
  let skew := fun (s : State) => raiseBit (pgIng d) 5 (bump (pgCls d) 10 1 s)
  if c.path = 0 then (some x, take s)
  else
    match m.taken.find? (fun p => decide (p.1 = x)) with
    | some p =>
      if t ≤ p.2 + 2000000 then (none, bump (pgCls d) 9 1 (entCount e 3 1 s)) else (none, skew s)
    | none =>
      match nextTaken m.taken x with
      | some p => if p.2 + 2000000 < t then (none, skew s) else (some x, take s)
      | none => (some x, take s)

/-! ## Pictures and lines (R149, R150) -/

/-- Cut-off of picture `m` in ns: a changed CUTOFF applies from a later picture, and pictures before it keep theirs (R148). -/
def cutNs (x : Slot) (c : SlotCfg) (m : Nat) : Nat :=
  1000 * (match x.cuts.find? (fun e => decide (m < e.1)) with
    | none => c.cut
    | some e => e.2)

/-- Instant `t` is before `a * P` of the slot's timeline plus `x` ns (exact). -/
def beforeT (f : Fmt) (t a x : Nat) : Bool := decide (t * f.num < a * f.den * 1000000000 + x * f.num)

/-- Decision instant of line `y` of picture `m`, cut-off less 4 µs, in whole ns rounded up (R150). -/
def decisionNs (x : Slot) (c : SlotCfg) (m y : Nat) : Nat :=
  cdiv ((m * c.h + y + 1) * c.fmt.den * 1000000000) (c.fmt.num * c.h) + cutNs x c m - 4000

/-- `t` is at or after the decision instant, exactly. -/
def decided (x : Slot) (c : SlotCfg) (t m y : Nat) : Bool := decide (decisionNs x c m y ≤ t)

/-- Timestamp of picture `m`: floor(90,000 T_m) mod 2^32 (R149). -/
def picTs (f : Fmt) (m : Nat) : Nat := m * f.den * 90000 / f.num % 2 ^ 32

/-- Two timestamps lie within one tick, modulo 2^32. -/
def nearTs (a b : Nat) : Bool :=
  decide (a % 2 ^ 32 = b % 2 ^ 32) || decide ((a + 1) % 2 ^ 32 = b % 2 ^ 32) || decide (a % 2 ^ 32 = (b + 1) % 2 ^ 32)

/-- The picture of the acceptance window whose timestamp matches (R149). -/
def matchPic (x : Slot) (c : SlotCfg) (t ts : Nat) : Option Nat :=
  let f := c.fmt
  if f.num = 0 then none
  else
    let m0 := t * f.num / (f.den * 1000000000)
    (List.range' (m0 - 1) 4).find? (fun m =>
      !beforeT f t (m - 2) 0 && beforeT f t (m + 1) (cutNs x c m) && nearTs (picTs f m) ts && decide (x.first ≤ m))

/-- Key of a sample of a buffered picture: the buffer of picture `m` is reused by picture m + 4 (R148). -/
def pxKey (d n m y i : Nat) : Nat := (((d * 64 + n) * 4 + m % 4) * 4320 + y) * 7680 + i

/-- Samples written from sample `i` of a line on. -/
def putPx (d n m y : Nat) : Nat → List Nat → Tbl Nat → Tbl Nat
  | _, [], t => t
  | i, v :: vs, t => putPx d n m y (i + 1) vs (t.set (fun _ => 0) (pxKey d n m y i) (v % 2 ^ 36))

/-- The samples of a line. -/
def getLine (s : State) (d n m y w : Nat) : List Nat := (List.range w).map (fun i => s.slotPx.get (fun _ => 0) (pxKey d n m y i))

/-- The segments cover samples 0 to `w` - 1. -/
def covers (segs : List (Nat × Nat)) (w : Nat) : Bool :=
  (List.range w).all (fun i => segs.any (fun e => decide (e.1 ≤ i) && decide (i < e.1 + e.2)))

/-- Lines that are written or filled, from line `y` on, of the next `n` (R155). A line once written or filled stays so. -/
def readyRun (p : SlotPic) : Nat → Nat → Nat
  | 0, _ => 0
  | n + 1, y => if (lineOf p y).st = 1 ∨ (lineOf p y).st = 3 then 1 + readyRun p n (y + 1) else 0

/-- Uncomposed channels whose picture in progress `m` reads a slot. -/
def slotReaders (s : State) (d n m : Nat) : List Nat :=
  (s.chans.map Prod.fst).filter (fun ch =>
    match pic? s ch m with
    | none => false
    | some p => !chComposed (picG s ch p) ch && decide (chSlot (picG s ch p) ch = (d, n)))

/-- The channel's furrow before furrow `k` of picture `p` has reached a step (R22): the one before in the picture, or the last of every
picture in progress before it. -/
def inOrder (s : State) (ch : Nat) (p : Pic) (k : Nat) (reached : Fur → Bool) : Bool :=
  if k = 0 then (chan s ch).pics.all (fun q => decide (p.n ≤ q.n) || reached (fur q ((picFmt ch q).furrows - 1)))
  else reached (fur p (k - 1))

/-- Furrow-complete points of picture `m` of an uncomposed channel that the ready-line count of its slot has reached, in the order
of furrows and pictures (R22, R155, R156, R137). DEDUCED: a furrow carries received content when a line of it was written and not
filled. -/
def completeFurrows (ch m : Nat) (s : State) : State :=
  match pic? s ch m with
  | none => s
  | some p =>
    let g := picG s ch p
    if chComposed g ch then s
    else
      let f := picFmt ch p
      let x := slotPic (slot s (chSlot g ch).1 (chSlot g ch).2) m
      (List.range f.furrows).foldl (fun s k =>
        if !(fur p k).complete && decide (f.lineEnd k ≤ x.ready) && inOrder s ch ((pic? s ch m).getD p) k (fun u => u.complete) then
          let ls := (List.range' (k * f.c) (f.lineEnd k - k * f.c)).map (fun y => (lineOf x y).st)
          modFur ch m k (fun u => { u with complete := true, live := ls.any (fun a => decide (a = 1))
                                           inputStale := ls.any (fun a => decide (a ≠ 1)) }) s
        else s) s

/-- Picture `m` of a channel and the pictures in progress after it, whose first furrows may wait for its last (R22). -/
def completeFrom (ch m : Nat) (s : State) : State :=
  (((chan s ch).pics.map (fun p => p.n)).filter (fun n => decide (m ≤ n))).foldl (fun s n => completeFurrows ch n s) s

/-- The ready-line count of picture `m` is taken again (R155); the first picture completed without a fill ends the black fills of the
pictures after it (R153). -/
def updateReady (d n m : Nat) (s : State) : State :=
  let c := slotCfg (effW s) d n
  let s := modSlotPic d n m (fun p => { p with ready := p.ready + readyRun p (c.h - p.ready) p.ready }) s
  let p := slotPic (slot s d n) m
  let s := if p.ready = c.h ∧ p.filled = false then
      modSlot d n (fun x => { x with whole := some (min m (x.whole.getD m)) }) s else s
  (slotReaders s d n m).foldl (fun s ch => completeFrom ch m s) s

/-- A line that was already counted as ready is about to be written again (R150): how it stood until now is kept, with the ready-line
count it stood under, for the readers whose furrow-complete point has passed (R156, R216). -/
def keepLine (d n m y : Nat) (s : State) : State :=
  let w := (slotCfg (effW s) d n).w
  let p := slotPic (slot s d n) m
  if y < p.ready then modSlotPic d n m (fun q => { q with old := q.old ++ [(y, p.ready, getLine s d n m y w)] }) s else s

/-- Sample `i` of line `y` as it stood when the ready-line count first reached `l`, the reader's furrow-complete point
(R155, R156). -/
def readyPx (s : State) (d n m l y i : Nat) : Nat :=
  match (slotPic (slot s d n) m).old.find? (fun e => decide (e.1 = y) && decide (l ≤ e.2.1)) with
  | some e => e.2.2.getD i 0
  | none => s.slotPx.get (fun _ => 0) (pxKey d n m y i)

/-- Usable address of line `y` of picture `m` in a slot's buffer (R147). -/
def slotLineAt (c : SlotCfg) (m y : Nat) : Nat := 4096 * c.base + m % 4 * (c.h * c.stride + 16384) + y * c.stride

/-- Samples `i` to `i + k` of a line are stored: the words they touch carry new codes (R147, R295). DESIGN CHOICE: a line's bits stand in
the order of its samples; R147 gives a line's place and length and no more. -/
def lineStored (d n m y i k : Nat) (s : State) : State :=
  let c := slotCfg (effW s) d n
  let b := bitsPerPixel c.samp
  let a := slotLineAt c m y
  storeWords d (a + i * b / 8) (cdiv ((i + k) * b) 8 - i * b / 8) s

/-- The lines that a reader reads of picture `m` of a slot, from line `y` on, `k` of them. -/
def slotReads (c : SlotCfg) (who d m y k : Nat) : List MemRange :=
  (List.range' y k).map (fun y => { who := who, die := d, addr := slotLineAt c m y, len := cdiv (c.w * bitsPerPixel c.samp) 8 })

/-- One sample row data segment (R150). -/
def putSegment (d n m t : Nat) (g : Seg) (s : State) : State :=
  let x := slot s d n
  let c := slotCfg (effW s) d n
  if c.h ≤ g.line ∨ c.w < g.first + g.count then raiseBit (pgIng d) 8 s
  else if beforeT c.fmt t (m - 1) 0 then raiseBit (pgIng d) 3 (bump (pgCls d) 7 1 s)
  else if decided x c t m g.line ∨ 2 ≤ (lineOf (slotPic x m) g.line).st then raiseBit (pgIng d) 2 (bump (pgCls d) 6 1 s)
  else
    let s := lineStored d n m g.line g.first g.count (keepLine d n m g.line s)
    let s := { s with slotPx := putPx d n m g.line g.first (g.px.take g.count) s.slotPx }
    modSlotPic d n m (fun p =>
      let segs := (g.first, g.count) :: (lineOf p g.line).segs
      { p with any := true
               lines := p.lines.set (fun _ => {}) g.line { segs := segs, st := if covers segs c.w then 1 else 0 } }) s

/-- A video packet that the merge has taken (R140, R149, R150). -/
def takeVideo (e t ts : Nat) (fieldBit : Bool) (segs : List Seg) (s : State) : State :=
  let d := entDie e
  let n := (entCfg (effW s) e).target
  let c := slotCfg (effW s) d n
  if fieldBit then raiseBit (pgIng d) 7 (bump (pgCls d) 12 1 s)
  else
    match matchPic (slot s d n) c t ts with
    | none => raiseBit (pgIng d) 4 (bump (pgCls d) 8 1 s)
    | some m => updateReady d n m (segs.foldl (fun s g => putSegment d n m t g s) s)

/-- Usable address of a picture's ancillary packets (R147). -/
def ancAt (c : SlotCfg) (m : Nat) : Nat := slotLineAt c m c.h

/-- An ancillary packet joins its picture: up to 255 packets and 16 KiB, in arrival order (R157), one behind the other. -/
def putAnc (d n m : Nat) (a : AncPkt) (s : State) : State :=
  let l := (slotPic (slot s d n) m).anc
  let used := (l.map (fun b => b.bytes)).sum
  if 255 ≤ l.length ∨ 16384 < used + a.bytes then bump (pgCls d) 11 1 s
  else
    let s := storeWords d (ancAt (slotCfg (effW s) d n) m + used) a.bytes s
    modSlotPic d n m (fun p => { p with anc := p.anc ++ [a] }) s

/-- The triples of a run of bytes whose `cc_valid` bit is set, as 24-bit numbers. -/
def validTriples : List Byte → List Nat
  | a :: b :: c :: r =>
    let t := a.toNat * 65536 + b.toNat * 256 + c.toNat
    if a.toNat / 4 % 2 = 1 then t :: validTriples r else validTriples r
  | _ => []

/-- The valid cc_data triples of a caption distribution packet (R209). PRESUMED: the form of SMPTE ST 334-2, which R209 names
through ST 334-1 and does not print: header 0x9669, length, rate, flags and a counter of two bytes; then a time-code section 0x71 of
five bytes where there is one; then the section 0x72, its count, and its triples. -/
def cdpTriples (l : List Byte) : List Nat :=
  if l.take 2 = [0x96, 0x69] then
    let r := l.drop 7
    let r := if r.head? = some 0x71 then r.drop 5 else r
    match r with
    | a :: n :: r => if a = 0x72 then validTriples (r.take (3 * (n.toNat % 32))) else []
    | _ => []
  else []

/-- The caption triples of a picture, from its ST 334-1 packets (R209). -/
def picTriples (p : SlotPic) : List Nat :=
  p.anc.flatMap (fun a => if a.did = 0x61 ∧ a.sdid = 0x01 then cdpTriples a.data else [])

/-- An ancillary packet that the merge has taken (R157): accepted until the last line's decision instant. -/
def takeAnc (e t ts : Nat) (pkts : List AncPkt) (s : State) : State :=
  let d := entDie e
  let n := (entCfg (effW s) e).target
  let c := slotCfg (effW s) d n
  match matchPic (slot s d n) c t ts with
  | none => raiseBit (pgIng d) 4 (bump (pgCls d) 8 1 s)
  | some m => if decided (slot s d n) c t m (c.h - 1) then s else pkts.foldl (fun s a => putAnc d n m a s) s

/-! ## Fills (R152–R155) -/

/-- Black in the slot's sampling, a sample as three components (R153). -/
def blackPx (samp : Nat) : Nat :=
  let pack := fun (y c : Nat) => y + 2 ^ 12 * c + 2 ^ 24 * c
  if samp = 0 ∨ samp = 2 then pack 64 512 else if samp = 4 then pack 256 2048 else 0

/-- LINE_FILL: at its decision instant a line not fully written takes the slot's previous picture's line; it is black in every picture
before the first complete one (R153), and in every picture before the first accepted one (R155); the picture's last line tells whether no segment
was written (R152–R154). -/
def lineFillOp (d n m y : Nat) (s : State) : State :=
  let x := slot s d n
  let c := slotCfg (effW s) d n
  let p := slotPic x m
  if x.valid && decide (y < c.h) && decide ((lineOf p y).st = 0) then
    let px := if x.whole.any (fun w => decide (w < m)) && decide (x.first ≤ m) then getLine s d n (m + 3) y c.w else List.replicate c.w (blackPx c.samp)
    let s := lineStored d n m y 0 c.w (advance (decisionNs x c m y) s)
    let s := { s with slotPx := putPx d n m y 0 px s.slotPx }
    let s := modSlotPic d n m (fun p => { p with
      filled := true, lines := p.lines.set (fun _ => {}) y { segs := [], st := 2 } }) s
    let s := bump (pgIng d) (2 * n) 1 (raiseBit (pgIng d) 0 s)
    if y + 1 = c.h ∧ p.any = false ∧ x.first ≤ m then bump (pgIng d) (2 * n + 1) 1 (raiseBit (pgIng d) 1 s) else s
  else s

/-- FILL_END: the ready-line count may advance. -/
def fillEndOp (d n m y : Nat) (s : State) : State :=
  if (lineOf (slotPic (slot s d n) m) y).st = 2 then
    updateReady d n m (modSlotPic d n m (fun p => { p with lines := p.lines.set (fun _ => {}) y { segs := [], st := 3 } }) s)
  else s

/-! ## Generations that change entries and slots (R145, R148, R149, R160) -/

/-- A group address (R160). -/
def multicast (a : Word) : Bool := decide (fld a 31 28 = 14)

/-- Entries take effect at a package furrow boundary: a bucket is full when its entry becomes valid or its CIR or CBS
changes, and a group that an entry no longer names is left. -/
def entriesTakeEffect (old : Nat → Word) (oldT : Tbl Word) (s : State) : State :=
  ((entsOf oldT ++ entsOf s.eff).eraseDups).foldl (fun s e =>
    let a := entCfg old e
    let b := entCfg (effW s) e
    if a = b then s
    else
      let s := if b.valid && (!a.valid || decide (a.cir ≠ b.cir) || decide (a.cbs ≠ b.cbs)) then
          modEntry e (fun n => { n with valid := true, tok := b.cbs * polByte, last := s.time.now }) s
        else if b.valid then s else modEntry e (fun n => { counts := n.counts }) s
      let s := if a.valid && b.valid && decide (a.path = b.path) && decide (a.peer = b.peer) then s
        else
          let s := modEntry e (fun n => { n with since := s.time.now, passAt := none, down := false }) s
          { s with merges := s.merges.set (fun _ => {}) (pairKey a e) {} }
      if a.valid && multicast a.dst && !(b.valid && decide (a.dst = b.dst) && decide (a.port = b.port)) &&
          s.services.igmp.contains e then
        serviceFrame a.port 1 <| emitOn a.port (.igmpLeave a.port a.dst) { s with services := { s.services with igmp := NSet.del s.services.igmp e } }
      else s) s

/-- Slots take effect: one that becomes valid or whose format changes starts afresh; a CUTOFF applies from the first
picture whose boundary follows (R148, R149). -/
def slotsTakeEffect (old : Nat → Word) (oldT : Tbl Word) (s : State) : State :=
  (List.range (dies s)).foldl (fun s d => ((slotsOf oldT d ++ slotsOf s.eff d).eraseDups).foldl (fun s n =>
    let a := slotCfg old d n
    let b := slotCfg (effW s) d n
    if a = b then s
    else if !b.valid then modSlot d n (fun _ => {}) s
    else if a.valid && decide ({ a with cut := b.cut } = b) then
      let m := b.fmt.firstAfter s.time.now
      modSlot d n (fun x => { x with cuts := x.cuts.filter (fun e => decide (m < e.1 + 8) && decide (e.1 < m)) ++
        (if x.cuts.any (fun e => decide (e.1 = m)) then x.cuts.filter (fun e => decide (e.1 = m)) else [(m, a.cut)]) }) s
    else
      let lo := pxKey d n 0 0 0
      let s := { s with slotPx := s.slotPx.filter (fun e => !(decide (lo ≤ e.1) && decide (e.1 < lo + 4 * 4320 * 7680))) }
      modSlot d n (fun _ => { valid := true, first := b.fmt.firstFrom s.time.now }) s) s) s

/-- PATH_DOWN: the condition of an entry of a pair is looked at, at instant `t` (R151, R161). -/
def pathDownOp (e t : Nat) (s : State) : State :=
  let c := entCfg (effW s) e
  if c.valid && decide (c.path = 1 ∨ c.path = 2) then lookDown e t (advance t s) else s

/-- R160: the membership report of a valid multicast entry goes out on its port, where that sends (R98). -/
def igmpReportOp (e : Nat) (s : State) : State :=
  let c := entCfg (effW s) e
  if c.valid && multicast c.dst then
    serviceFrame c.port 1 <| emitOn c.port (.igmpReport c.port c.dst c.src c.mSrc) { s with services := { s.services with igmp := NSet.add s.services.igmp e } }
  else s

end Sys2Proof.Machine
end

