-- ==== Sys2Proof/Machine/Audio.lean ====
section
/-! DEFINITION. Audio flows, audio services and TDM ports (R399–R418), as operations. A sample is 24 bits wide,
left-aligned; sample index s stands for s / 48,000 s after the epoch. -/

namespace Sys2Proof.Machine

open Sys2Proof

/-- The AFL page of flow `f` and the AUD page of port `p`. -/
def pgAfl (f : Nat) : Nat := pkey (f / 64) (0x300 + f % 64)
def pgAud (p : Nat) : Nat := 8 + p

/-- Audio flow `f`. -/
def aflow (s : State) (f : Nat) : AFlow := s.aflows.get (fun _ => {}) f

/-- The state with an audio flow changed by `g`. -/
def modAflow (f : Nat) (g : AFlow → AFlow) (s : State) : State := { s with aflows := s.aflows.set (fun _ => {}) f (g (aflow s f)) }

/-- TDM port `p`. -/
def tdm (s : State) (p : Nat) : Tdm := s.tdms.get (fun _ => {}) p

/-- The state with a TDM port changed by `g`. -/
def modTdm (p : Nat) (g : Tdm → Tdm) (s : State) : State := { s with tdms := s.tdms.set (fun _ => {}) p (g (tdm s p)) }

/-- First sample index at or after instant `t` in ns. -/
def sampleFrom (t : Nat) : Nat := cdiv (t * 48) 1000000

/-- Instant of sample `s` plus `us` µs, in ns rounded up (R399). -/
def sampleAt (s us : Nat) : Nat := cdiv (s * 62500) 3 + 1000 * us

/-- A written sample, zero where none was (R401). -/
def sampleOf (x : AFlow) (c s : Nat) : Int := (x.samples.get (fun _ => none) (c + 64 * s)).getD 0

/-- A sample written. -/
def putSample (c s : Nat) (v : Int) (x : AFlow) : AFlow := { x with samples := x.samples.set (fun _ => none) (c + 64 * s) (some v) }

/-! ## Samples that carry a mark (R413) -/

/-- Sample `n` of channel `c` lies in one of the spans. -/
def spanAt (l : List (Nat × Nat × Option Nat)) (c n : Nat) : Bool :=
  l.any (fun e => decide (e.1 = c) && decide (e.2.1 ≤ n) && e.2.2.all (fun m => decide (n < m)))

/-- A span of channel `c` begins at sample `n`; what ended long before is forgotten. -/
def spanOpen (c n : Nat) (l : List (Nat × Nat × Option Nat)) : List (Nat × Nat × Option Nat) :=
  l.filter (fun e => e.2.2.all (fun m => decide (n < m + 4096))) ++ [(c, n, none)]

/-- The span of channel `c` ends before sample `m`. -/
def spanClose (c m : Nat) (l : List (Nat × Nat × Option Nat)) : List (Nat × Nat × Option Nat) :=
  l.map (fun e => if e.1 = c ∧ e.2.2 = none then (e.1, e.2.1, some m) else e)

/-! ## TDM input slots as sources (R402, R410) -/

/-- Slots whose crossing is bit-exact: all of a leader at 48 kHz, and those that slip of a follower at 48 kHz. -/
def exactMask (x : Tdm) : Word :=
  let c := x.cfg.getD 0 0
  if ctlRate c = 1 then (if ctlLeader c then 0xFFFFFFFF else x.cfg.getD 3 0) else 0

/-- The slot's crossing is bit-exact. -/
def bitExact (x : Tdm) (i : Nat) : Bool := bitOf (exactMask x) i

/-- The port yields samples (R414). -/
def tdmYields (x : Tdm) : Bool := decide (x.st = .running) || decide (x.st = .misaligned)

/-- Input slots that yield samples. -/
def slotsYield (x : Tdm) : Word := if tdmYields x then x.cfg.getD 1 0 else 0

/-- What the port's input slots do from now on is noted, for samples that a MIX flow takes later (R402); the note of an instant is kept as
long as a latency of 20 ms can ask for it. -/
def noteTdm (p : Nat) (s : State) : State :=
  let t := s.time.now
  let x := tdm s p
  let m := (slotsYield x, exactMask x)
  if x.past.head?.map Prod.snd = some m then s
  else
    modTdm p (fun x => { x with
      past := (t, m) :: x.past.takeWhile (fun e => decide (t ≤ e.1 + 25000000)) ++ (x.past.dropWhile (fun e => decide (t ≤ e.1 + 25000000))).take 1 }) s

/-- Input slots that yielded at instant `t`, and those that were bit-exact. -/
def pastAt (x : Tdm) (t : Nat) : Word × Word := ((x.past.find? (fun e => decide (e.1 ≤ t))).map Prod.snd).getD (0, 0)

/-- The path of sample `s` of an input slot is bit-exact. DESIGN CHOICE: the path in use 250 µs after the sample is the sample's, where a
change of words falls between the two latencies. -/
def exactAt (x : Tdm) (i s : Nat) : Bool := bitOf (pastAt x (sampleAt s 250)).2 i

/-- Sample `s` of input slot `i` of port `p`, taken at the slot's ready time: 250 µs after it on a bit-exact path, 1,000 µs through the
converter (R402). -/
def slotSample (st : State) (p i s : Nat) : Int :=
  let x := tdm st p
  let exact := exactAt x i s
  if bitOf (pastAt x (sampleAt s (if exact then 250 else 1000))).1 i then
    if exact then x.hist.get (fun _ => 0) (i + 32 * s) else Config.asrcIn p i s
  else 0

/-- Input slot `i` carries a non-audio mark (R413). -/
def slotMark (st : State) (p i : Nat) : Bool :=
  decide ((tdm st p).marks.get (fun _ => 0) i ≠ 0) || (tdm st p).aes3.contains i

/-! ## Routes (R400, R402, R413) -/

/-- Sample `s` of what route word `w` of a flow of die `d` names; on an ASRC path a slot is zero where it carries a mark. -/
def routeSample (st : State) (d : Nat) (w : Word) (s : Nat) : Int :=
  if routeSrc w = 1 then sampleOf (aflow st (64 * d + routeA w)) (routeB w) s
  else if routeSrc w = 2 then
    if spanAt (tdm st (routeA w)).spans (routeB w) s && !exactAt (tdm st (routeA w)) (routeB w) s then 0
    else slotSample st (routeA w) (routeB w) s
  else 0

/-- Channel `c` of flow `f` carries a non-audio mark: its own in a NET flow, its source's in a MIX flow (R413). -/
def flowMark (st : State) (f c : Nat) : Bool :=
  if (aflCfg (effW st) f).mix then
    let w := (aflow st f).routes.get (fun _ => 0) c
    if routeSrc w = 1 then decide ((aflow st (64 * (f / 64) + routeA w)).marks.get (fun _ => 0) (routeB w) ≠ 0)
    else if routeSrc w = 2 then slotMark st (routeA w) (routeB w)
    else false
  else decide ((aflow st f).marks.get (fun _ => 0) c ≠ 0)

/-- Sample `n` of channel `c` of flow `f` carries the mark: that of its source in a MIX flow (R413). -/
def markAt (st : State) (f c n : Nat) : Bool :=
  if (aflCfg (effW st) f).mix then
    let w := (aflow st f).routes.get (fun _ => 0) c
    if routeSrc w = 1 then spanAt (aflow st (64 * (f / 64) + routeA w)).spans (routeB w) n
    else if routeSrc w = 2 then spanAt (tdm st (routeA w)).spans (routeB w) n
    else false
  else spanAt (aflow st f).spans c n

/-! ## Zero crossings (R412) -/

/-- The word in force, whether it is muted, and the change that waits. -/
structure ZcState where
  cur : Word
  muted : Bool
  zc : Option ZcChange
  deriving DecidableEq, Repr

/-- A change takes effect at instant `t`: mute, unmute or a new source, by the MUTE bits (bit 31) of the word in force and
the new one; a change that has not applied is replaced. Bits of `free` (DATA_OK of an output slot) are of no concern to R412: they change
at once, and a word that differs in nothing else is no second change. -/
def zcChange (free : Word) (x : ZcState) (w : Word) (t : Nat) : ZcState :=
  let se := sampleFrom t
  let before := (x.zc.map (fun z => z.word)).getD x.cur
  let x := { x with cur := (x.cur &&& ~~~free) ||| (w &&& free) }
  if before &&& ~~~free = w &&& ~~~free then { x with zc := x.zc.map (fun z => { z with word := w }) }
  else if bitOf w 31 then
    if x.muted then { x with cur := w, zc := none } else { x with zc := some { kind := 0, se := se, word := w } }
  else if x.muted then { x with zc := some { kind := 1, se := se, word := w } }
  else if x.cur = w then { x with zc := none }
  else { x with zc := some { kind := 2, se := se, word := w } }

/-- The change applies. -/
def zcApply (x : ZcState) : ZcState :=
  match x.zc with
  | none => x
  | some z => { cur := z.word, muted := decide (z.kind = 0), zc := none }

/-- Sample `v` after sample `u` is a crossing. -/
def crossing (u v : Int) : Bool := decide (v = 0) || decide (u < 0 ∧ 0 < v) || decide (0 < u ∧ v < 0) || decide (u = 0 ∧ v ≠ 0)

/-- Sample `s` of a stream whose words have values `val`: a waiting change applies when the stream that R412 names has a
crossing there. -/
def zcStep (val : Word → Nat → Int) (limit s : Nat) (x : ZcState) : ZcState :=
  match x.zc with
  | none => x
  | some z =>
    if s < z.se ∨ z.se + limit ≤ s then x
    else
      let y := fun t =>
        if z.kind = 0 then (if x.muted then 0 else val x.cur t)
        else if z.kind = 1 then val z.word t
        else val x.cur t
      if crossing (y (s - 1)) (y s) then zcApply x else x

/-- The samples of the stream up to `n` from the one after `from_` on, as far as the waiting change asks for them. -/
def zcRun (val : Word → Nat → Int) (limit from_ n : Nat) (x : ZcState) : ZcState :=
  match x.zc with
  | none => x
  | some z =>
    let a := max (from_ + 1) z.se
    (List.range' a (min (n + 1) (z.se + limit) - a)).foldl (fun x k => zcStep val limit k x) x

/-! ## Flows -/

/-- Channel `k` of a MIX flow as a stream. -/
def routeZc (x : AFlow) (k : Nat) : ZcState :=
  { cur := x.routes.get (fun _ => 0) k, muted := x.muted.contains k, zc := x.zc.get (fun _ => none) k }

/-- The stream's state put back. -/
def putRouteZc (k : Nat) (z : ZcState) (x : AFlow) : AFlow :=
  { x with routes := x.routes.set (fun _ => 0) k z.cur, muted := if z.muted then NSet.add x.muted k else NSet.del x.muted k
           zc := x.zc.set (fun _ => none) k z.zc }

/-- ST 337 burst preambles, left-aligned in 24 bits (R413): Pa and Pb at 16, 20 and 24 bits. -/
def preambles : List (Nat × Nat) := [(0xF87200, 0x4E1F00), (0x6F8720, 0x54E1F0), (0x96F872, 0xA54E1F)]

/-- `a` then `b` are Pa and Pb. -/
def isPreamble (a b : Int) : Bool := preambles.contains ((a % 2 ^ 24).toNat, (b % 2 ^ 24).toNat)

/-- Channel `c` has a preamble at sample `s`: across its pair of channels, or at this sample and the one before. -/
def preambleAt (v : Nat → Nat → Int) (c s : Nat) : Bool :=
  isPreamble (v (c / 2 * 2) s) (v (c / 2 * 2 + 1) s) || isPreamble (v c (s - 1)) (v c s)

/-- Channels that carried a mark in `s0` and from sample `m` on carry none in `s` unmute at a crossing, in services and in output slots
that hold them at zero (R413); the same on a route whose converter a marked slot had muted. -/
def marksCleared (m : Nat) (s0 s : State) : State :=
  let t := s.time.now
  let flows := (s.aflows.map Prod.fst)
  let s := flows.foldl (fun s f => (List.range (aflCfg (effW s) f).chans).foldl (fun s c =>
    if flowMark s0 f c && !flowMark s f c then
      let w := (aflow s f).routes.get (fun _ => 0) c
      let viaAsrc := (aflCfg (effW s) f).mix && decide (routeSrc w = 2) && !bitExact (tdm s (routeA w)) (routeB w)
      modAflow f (fun x =>
        let x := { x with held := NSet.add x.held c, holds := spanOpen c m (spanClose c m x.holds)
                          zc := x.zc.set (fun _ => none) (64 + c) (some { kind := 1, se := sampleFrom t }) }
        if viaAsrc && !x.muted.contains c then
          putRouteZc c { cur := w, muted := true, zc := some { kind := 1, se := sampleFrom t, word := w } } x
        else x) s
    else s) s) s
  [0, 1, 2, 3].foldl (fun s p => (List.range 32).foldl (fun s i =>
    let w := (tdm s p).src.get (fun _ => 0) i
    if flowMark s0 (fld w 14 6) (fld w 5 0) && !flowMark s (fld w 14 6) (fld w 5 0) && !(tdm s p).muted.contains i &&
        (!bitOf w 30 || !bitExact (tdm s p) i) then
      modTdm p (fun x => { x with
        muted := NSet.add x.muted i, zc := x.zc.set (fun _ => none) i (some { kind := 1, se := sampleFrom t, word := w }) }) s
    else s) s) s

/-- SAMPLE_READY for sample `x.ready` of a flow (R401, R402, R412, R413): a NET channel not yet written is zero, which each
packet time counts once; a MIX channel takes its source's sample under its route. -/
def sampleReadyOp (f : Nat) (s0 : State) : State :=
  let c := aflCfg (effW s0) f
  let x0 := aflow s0 f
  let n := x0.ready
  let s := advance (sampleAt n c.latency) s0
  let s := modAflow f (fun x => { x with gap := x.gap && decide (n % c.n ≠ 0) }) s
  let s :=
    if c.mix then
      modAflow f (fun x => (List.range c.chans).foldl (fun x k =>
        let z := zcStep (routeSample s (f / 64)) (aflZc (effW s) f) n (routeZc x k)
        let x := putRouteZc k z x
        putSample k n (if z.muted then 0 else routeSample s (f / 64) z.cur n) x) x) s
    else
      let missing := (List.range c.chans).any (fun k => decide (x0.samples.get (fun _ => none) (k + 64 * n) = none))
      let s := if missing && !(aflow s f).gap then bump (pgAfl f) 0 1 (raiseBit (pgAfl f) 0 s) else s
      let s := modAflow f (fun x =>
        let x := { x with gap := x.gap || missing }
        (List.range c.chans).foldl (fun x k => putSample k n (sampleOf x k n) x) x) s
      (List.range c.chans).foldl (fun s k =>
        if preambleAt (sampleOf (aflow s f)) k n then
          let had := decide ((aflow s f).marks.get (fun _ => 0) k ≠ 0)
          let s := modAflow f (fun x => { x with marks := x.marks.set (fun _ => 0) k (n + 1), held := NSet.del x.held k
                                                 spans := if had then x.spans else spanOpen k n x.spans
                                                 holds := spanClose k n x.holds
                                                 zc := x.zc.set (fun _ => none) (64 + k) none }) s
          if had then s else bump (pgAfl f) 2 1 (raiseBit (pgAfl f) 1 s)
        else s) s
  let s := modAflow f (fun x => (List.range c.chans).foldl (fun x k =>
    match x.zc.get (fun _ => none) (64 + k) with
    | none => x
    | some z =>
      if z.se ≤ n && crossing (sampleOf x k (n - 1)) (sampleOf x k n) then
        { x with held := NSet.del x.held k, holds := spanClose k n x.holds, zc := x.zc.set (fun _ => none) (64 + k) none }
      else x) x) s
  modAflow f (fun x => { x with
    ready := n + 1, samples := x.samples.filter (fun e => decide (n < e.1 / 64 + 2048)) }) s

/-- ZC_TIMEOUT of a channel of a flow (R412): a route's change, or the unmute after a mark, whose samples have run out. -/
def aflTimeout (f k : Nat) (s : State) : State :=
  let x := aflow s f
  let lim := aflZc (effW s) f
  let due := fun (z : Option ZcChange) =>
    match z with
    | none => false
    | some z => decide (z.se + lim ≤ x.ready)
  let hit := fun s => bump (pgAfl f) 3 1 (raiseBit (pgAfl f) 2 s)
  let s := if due (x.zc.get (fun _ => none) k) then hit (modAflow f (fun x => putRouteZc k (zcApply (routeZc x k)) x) s) else s
  if due (x.zc.get (fun _ => none) (64 + k)) then
    hit (modAflow f (fun y => { y with
      held := NSet.del y.held k, zc := y.zc.set (fun _ => none) (64 + k) none
      holds := spanClose k (((x.zc.get (fun _ => none) (64 + k)).map (fun z => z.se)).getD 0 + lim) y.holds }) s)
  else s

/-- NON_AUDIO_CLEAR of a NET channel (R413): 8,192 samples after the last preamble. -/
def aflMarkClear (f k : Nat) (s0 : State) : State :=
  let m := (aflow s0 f).marks.get (fun _ => 0) k
  if m ≠ 0 ∧ m - 1 + 8192 ≤ (aflow s0 f).ready then
    marksCleared (m - 1 + 8192) s0 (modAflow f (fun x => { x with
      marks := x.marks.set (fun _ => 0) k 0, spans := spanClose k (m - 1 + 8192) x.spans }) s0)
  else s0

/-- A packet for a NET flow that the merge has taken (R401). -/
def takeAudio (e t ts chans width count : Nat) (samples : List Int) (s : State) : State :=
  let f := 64 * entDie e + (entCfg (effW s) e).target
  let c := aflCfg (effW s) f
  let k := t * 48 / 1000000
  let n := unfoldSeq (2 ^ 32) k ts
  if c.mix ∨ c.valid = false then s
  else if chans ≠ c.chans ∨ width ≠ c.width ∨ count ≠ c.n then bump (pgAfl f) 4 1 s
  else if t * 48 + 48000000000 < n * 1000000 ∨ n * 1000000 + 48000000000 < t * 48 then bump (pgAfl f) 4 1 s
  else if n * 62500 + 3000 * c.latency ≤ 3 * t then bump (pgAfl f) 5 1 s
  else
    let v := fun (x : Int) => if width = 2 then x * 256 else x
    modAflow f (fun x => (List.range (chans * count)).foldl (fun x i =>
      putSample (i % chans) (n + i / chans) (v (samples.getD i 0)) x) x) s

/-! ## Audio services (R403, R404) -/

/-- The payload of an audio packet: channels FIRST up, interleaved by sample, zero where a channel carries a mark that may not pass
or has not unmuted since (R413). -/
def audioPayload (s : State) (v first : Nat) : List Int :=
  let c := asvcCfg (effW s) v
  let f := asvcFlow v
  let a := aflCfg (effW s) f
  (List.range (a.n * c.count)).map (fun i =>
    let k := c.first + i % c.count
    let n := first + i / c.count
    if !c.dataOk && (markAt s f k n || spanAt (aflow s f).holds k n) then 0 else sampleOf (aflow s f) k n)

/-- A sample as big-endian L16 or L24: its top `w` bytes (R403). -/
def sampleBe (w : Nat) (x : Int) : List Byte := beBytes w ((x % 2 ^ 24).toNat / 2 ^ (24 - 8 * w))

/-- The next packet of a FORM 0 audio service is built and released at (s + n)/48,000 + λ, once its samples are ready: one
copy to each path of every joined flow, encrypted where SRTP is on (R403). -/
def audioRelease (v : Nat) (s : State) : State :=
  let c := asvcCfg (effW s) v
  let f := asvcFlow v
  let a := aflCfg (effW s) f
  let i := (svc s v).next
  let first := i * a.n
  if (svc s v).active && !c.form1 && decide (first + a.n ≤ (aflow s f).ready) then
    let e := (first + a.n) * 62500 / 3 + 1000 * a.latency
    let p : Pkt :=
      { svc := v, ch := 256, n := i, furrow := 0, idx := 0, kind := 0, covers := [], fecStep := 0, part := partId (effW s)
        rtp := { seq := i % 65536, roc := i / 65536 % 2 ^ 32, ts := first % 2 ^ 32, marker := false, pt := c.pt
                 payload := (audioPayload s v first).flatMap (sampleBe a.width) }
        ipLen := 40 + (if c.srtp ≠ 0 then 16 else 0) + a.n * c.count * a.width, release := e
        last := true, flows := joinedFlows s v, dual := c.dual, srtp := c.srtp, key := c.key }
    let s := emit (.audio v first (audioPayload s v first)) (advance e s)
    let s := bump (pgAfl f) 1 1 (modSvc v (fun x => { x with next := i + 1, seq := (i + 1) % 65536 }) s)
    deliver p s
  else s

/-! ## Flows and services taking effect at a package furrow boundary (R400, R403, R412) -/

/-- Audio flows that a store lists. -/
def aflowsOf (s : State) : List Nat :=
  (List.range (dies s)).flatMap (fun d =>
    (unitsIn (ploc (pkey d 0x300) 0) (ploc (pkey d 0x340) 0) 4096 s.eff).map (fun i => 64 * d + i))

/-- One flow: it starts with the sample that becomes ready next, a flow of another KIND as one that starts; its routes change at crossings,
from silence where the channel had none. -/
def aflowTakesEffect (old : Nat → Word) (f : Nat) (s : State) : State :=
  let g := effW s
  let c := aflCfg g f
  let t := s.time.now
  if !c.valid then { s with aflows := s.aflows.set (fun _ => {}) f {} }
  else
    let c0 := aflCfg old f
    let s := if (aflow s f).valid && decide (c0.mix = c.mix) then s
      else modAflow f (fun _ => { valid := true, ready := sampleFrom (t - 1000 * c.latency) }) s
    if c.mix then
      modAflow f (fun x => (List.range 64).foldl (fun x k =>
        if k < c.chans then
          let was := c0.valid && c0.mix && decide (k < c0.chans)
          if was = false ∨ routeW old f k ≠ routeW g f k then putRouteZc k (zcChange 0 (routeZc x k) (routeW g f k) t) x else x
        else putRouteZc k { cur := 0, muted := false, zc := none } x) x) s
    else s

/-- One audio service: it begins with the first packet whose samples all lie ahead. DESIGN CHOICE: where the packet time has changed it
goes on with the first packet of the new packet time whose samples it has not sent. -/
def asvcTakesEffect (old : Nat → Word) (f j : Nat) (s : State) : State :=
  let v := asvcOf f j
  let c := asvcCfg (effW s) v
  let a := aflCfg (effW s) f
  let n0 := (aflCfg old f).n
  if c.valid && a.valid && !c.form1 then
    if (svc s v).active then (if n0 = a.n then s else modSvc v (fun x => { x with next := cdiv (x.next * n0) a.n }) s)
    else modSvc v (fun _ => { active := true, next := cdiv (sampleFrom s.time.now) a.n }) s
  else if (svc s v).active then modSvc v (fun _ => {}) s
  else s

/-- Every flow that is or was configured, at a package furrow boundary; entries of audio services join and leave there
(R336). -/
def aflowsTakeEffect (old : Nat → Word) (s : State) : State :=
  let fs := (aflowsOf s ++ s.aflows.map Prod.fst).eraseDups
  fs.foldl (fun s f => [0, 1, 2, 3].foldl (fun s j => asvcTakesEffect old f j s) (aflowTakesEffect old f s)) s

/-- Services that entries name: those of live words and those joined. -/
def audioSvcsNamed (s : State) : List Nat :=
  ((knownFlows s).flatMap (fun f => (flowCfg (liveW s) f).svc :: (flow s f).joined.toList)).eraseDups.filter (fun v => !isVideoSvc v)

/-- Flow-table entries at a boundary of every audio service. -/
def audioFlowsAtBoundary (s : State) : State := (audioSvcsNamed s).foldl (fun s v => flowsAtBoundary (flowNow s) v s) s

/-! ## TDM ports (R408–R415) -/

/-- The port enters state `st`; RUNNING, MISALIGNED, and FAULT or CLOCK_LOST are conditions (R414, R417). -/
def tdmTo (p : Nat) (st : TdmState) (s : State) : State :=
  let old := (tdm s p).st
  let bit := fun (x : TdmState) =>
    match x with
    | .running => some 0
    | .misaligned => some 1
    | .fault => some 2
    | .clockLost => some 2
    | _ => none
  let s := modTdm p (fun x => { x with st := st }) s
  match bit st with
  | none => s
  | some b => if bit old = some b then s else raiseBit (pgAud p) b s

/-- Slot `i` of a frame on DIN (R409): its first 24 bits, most significant first; lower bits, among them V, U, C and P of an AES3 slot, are
no part of the sample. -/
def dinSlot (w : Word) (din : List Bool) (i : Nat) : Int :=
  sgn 24 (((List.range (min 24 (ctlWidth w))).map (fun b =>
    if din.getD ((ctlOffset w + i * ctlWidth w + b) % ctlBits w) false then 2 ^ (23 - b) else 0)).sum)

/-- DOUT at bit clock `t` of a frame whose slots have values `v` (R409): none stands for high impedance. -/
def doutBit (w : Word) (v : List (Option Int)) (t : Nat) : Option Bool :=
  let q := (t + ctlBits w - ctlOffset w % ctlBits w) % ctlBits w
  (v.getD (q / ctlWidth w) none).map (fun x => decide (q % ctlWidth w < 24) && (x % 2 ^ 24).toNat.testBit (23 - q % ctlWidth w))

/-- Channels moved by `k` slots (R414), those of the slots that `gone` names missing. -/
def skewed {α : Type} (k : Nat) (gone : Nat → Bool) (z : α) (l : List α) : List α :=
  (List.range l.length).map (fun i => if gone i then z else l.getD ((i + k) % l.length) z)

/-- The input slots of a frame (R409, R414, R415). -/
def frameSlots (s : State) (p : Nat) (f : TdmIn) : List Int :=
  let x := tdm s p
  let w := x.cfg.getD 0 0
  skewed (if x.st = .misaligned then x.skewIn else 0) (fun i => (f.rxEmpty || f.rxFull) && Config.tdmMissing s.fresh i) 0
    ((List.range (ctlSlots w)).map (dinSlot w f.din))

/-- Output slots that the port drives. -/
def outSlots (x : Tdm) : List Nat := (List.range (ctlSlots (x.cfg.getD 0 0))).filter (bitOf (x.cfg.getD 2 0))

/-- Each of these output slots is silent and unmutes at a crossing of its source (R411, R412). -/
def unmuteSlots (p : Nat) (l : List Nat) (s : State) : State :=
  let se := sampleFrom s.time.now
  modTdm p (fun x => l.foldl (fun x i =>
    let w := audOutSrc (effW s) p i
    { x with muted := NSet.add x.muted i, src := x.src.set (fun _ => 0) i w
             zc := x.zc.set (fun _ => none) i (if bitOf w 31 then none else some { kind := 1, se := se, word := w }) }) x) s

/-- A restart at an FS edge (R415): the port runs, or locks where a follower's rate is unknown; every output unmutes. -/
def tdmRestart (p : Nat) (s : State) : State :=
  let x := tdm s p
  let s := modTdm p (fun x => { x with restart := false, good := 0, bad := 0, ptr := [], outPos := [], inputs := [], skewIn := 0, skewOut := 0 }) s
  let s := tdmTo p (if ctlLeader (x.cfg.getD 0 0) || x.known then .running else .locking) s
  unmuteSlots p (outSlots (tdm s p)) (bump (pgAud p) 4 1 (raiseBit (pgAud p) 9 s))

/-- The words that apply at an FS edge. -/
def audNow (g : Nat → Word) (p : Nat) : List Word := [0x100, 0x104, 0x108, 0x10C, 0x110].map (audW g p)

/-- Fields of `AUD_CTRL` whose change restarts an enabled port (R411): LEADER, RATE, WIDTH, FS_LONG, OFFSET, TOKEN, SLOTS. -/
def restartMask : Word := 0x2F9FFF1F

/-- New words apply at this FS edge: a change of shape or TOKEN asks for a restart; new output slots start silent. -/
def tdmApply (p : Nat) (s : State) : State :=
  let x := tdm s p
  let now := audNow (effW s) p
  let w0 := x.cfg.getD 0 0
  let again := !x.cfg.isEmpty && decide (w0 &&& restartMask ≠ now.getD 0 0 &&& restartMask)
  let oldOut := if x.cfg.isEmpty then [] else outSlots x
  let shape := decide (w0 &&& 0x2F9F001F ≠ now.getD 0 0 &&& 0x2F9F001F)
  let s := modTdm p (fun x => { x with cfg := now, pend := false, restart := x.restart || again, known := x.known && !shape }) s
  unmuteSlots p ((outSlots (tdm s p)).filter (fun i => !oldOut.contains i)) s

/-- Non-audio marks of input slots at a frame (R413): AES3 channel status, and ST 337 preambles in the samples. -/
def tdmMarks (p : Nat) (f : TdmIn) (l : List Int) (n : Nat) (s0 : State) : State :=
  let x := tdm s0 p
  let v := fun c t => if t = n then l.getD c 0 else x.inputs.getD c 0
  (List.range (ctlSlots (x.cfg.getD 0 0))).foldl (fun s i =>
    if !bitOf (x.cfg.getD 1 0) i then s
    else
      let aes := bitOf (x.cfg.getD 4 0) i && f.aes3NonAudio.getD i false
      let pre := preambleAt v i n
      let had := slotMark s p i
      let s1 := modTdm p (fun x => { x with
        aes3 := if aes then NSet.add x.aes3 i else x.aes3
        marks := if pre then x.marks.set (fun _ => 0) i (n + 1) else x.marks
        spans := if (aes || pre) && !had then spanOpen i n x.spans else x.spans }) s
      let s1 := if (aes || pre) && !had then bump (pgAud p) 8 1 (raiseBit (pgAud p) 11 s1) else s1
      if bitOf (x.cfg.getD 4 0) i && f.aes3Audio.getD i false && !aes then
        marksCleared n s1 (modTdm p (fun x => { x with
          aes3 := NSet.del x.aes3 i, marks := x.marks.set (fun _ => 0) i 0, spans := spanClose i n x.spans }) s1)
      else s1) s0

/-- The samples `l` of a frame (R410): a bit-exact slot appends one, drops it or repeats it where the slot is one of `slips`; `n` is the
sample index of the frame. -/
def tdmStore (p : Nat) (l : List Int) (slips : List Nat) (ppm : Int) (n : Nat) (s : State) : State :=
  let x := tdm s p
  (List.range (ctlSlots (x.cfg.getD 0 0))).foldl (fun s i =>
    if bitOf (x.cfg.getD 1 0) i && bitExact x i then
      let v := l.getD i 0
      let last := x.ptr.get (fun _ => 0) i
      let leader := ctlLeader (x.cfg.getD 0 0)
      let slip := !leader && slips.contains i && decide (last ≠ 0)
      let at_ := if leader ∨ last = 0 then n else if slip && decide (0 ≤ ppm) then last else last + 1
      let s := modTdm p (fun x => { x with
        hist := (x.hist.set (fun _ => 0) (i + 32 * at_) v).filter (fun e => decide (at_ < e.1 / 32 + 2048))
        ptr := x.ptr.set (fun _ => 0) i at_ }) s
      let s := if slip && !decide (0 ≤ ppm) then
          modTdm p (fun x => { x with hist := x.hist.set (fun _ => 0) (i + 32 * (at_ + 1)) v, ptr := x.ptr.set (fun _ => 0) i (at_ + 1) }) s
        else s
      if slip then bump (pgAud p) 5 1 (raiseBit (pgAud p) 10 s) else s
    else s) s

/-- Sample `n` of what an output word names. -/
def outSample (s : State) (w : Word) (n : Nat) : Int := sampleOf (aflow s (fld w 14 6)) (fld w 5 0) n

/-- The newest source sample that an output slot has reached at instant `t` (R410): ready time plus 250 µs on a bit-exact
path, plus 750 µs through the converter. -/
def outIndex (s : State) (p i : Nat) (w : Word) (t : Nat) : Nat :=
  let us := (aflCfg (effW s) (fld w 14 6)).latency + (if bitExact (tdm s p) i then 250 else 750)
  (t - 1000 * us) * 48 / 1000000

/-- Changes that wait at output slot `i` apply at crossings of the samples up to `n` (R412); a slot of another flow finds its place
anew. -/
def outRun (p i n : Nat) (s : State) : State :=
  let x := tdm s p
  let z0 : ZcState := { cur := x.src.get (fun _ => 0) i, muted := x.muted.contains i, zc := x.zc.get (fun _ => none) i }
  let z := zcRun (outSample s) (audZc (effW s) p) (x.outPos.get (fun _ => n - 1) i) n z0
  modTdm p (fun x => { x with
    src := x.src.set (fun _ => 0) i z.cur, muted := if z.muted then NSet.add x.muted i else NSet.del x.muted i
    zc := x.zc.set (fun _ => none) i z.zc
    outPos := if fld z.cur 14 6 = fld z0.cur 14 6 then x.outPos.set (fun _ => 0) i n else x.outPos.filter (fun e => decide (e.1 ≠ i)) }) s

/-- The sample that output slot `i` plays in a frame at instant `t` (R410): the newest it has reached; on a path that slips the one after
the last, repeated where the frames run fast and one sample dropped where they run slow when the phase has reached one sample. -/
def outPlays (p i t : Nat) (f : TdmIn) (s : State) : Nat × Bool :=
  let x := tdm s p
  match x.outPos.lookup i with
  | none => (outIndex s p i (x.src.get (fun _ => 0) i) t, false)
  | some m =>
    if bitExact x i && !ctlLeader (x.cfg.getD 0 0) then
      if f.slips.contains i then (if 0 ≤ f.ppm then m else m + 2, true) else (m + 1, false)
    else (outIndex s p i (x.src.get (fun _ => 0) i) t, false)

/-- Output slot `i` at a frame: samples played since the last frame are tested for crossings, the slot drives its sample, and a slip is
counted (R410, R417). -/
def outStep (p i t : Nat) (f : TdmIn) (s : State) : Int × State :=
  let m := outPlays p i t f s
  let s1 := outRun p i m.1 s
  let s1 := if m.2 then bump (pgAud p) 5 1 (raiseBit (pgAud p) 10 s1) else s1
  let x := tdm s1 p
  let w := x.src.get (fun _ => 0) i
  let n := x.outPos.get (fun _ => outIndex s1 p i w t) i
  let marked := markAt s1 (fld w 14 6) (fld w 5 0) n && (!bitOf w 30 || !bitExact x i)
  (if x.muted.contains i || marked then 0 else if bitExact x i then outSample s1 w n else Config.asrcOut p i x.frames, s1)

/-- What DOUT carries in a frame (R409, R414): samples while the port runs, zero in enabled slots otherwise, high impedance
outside OUT_MASK; nothing while OUT_EN is 0. `dry` tells that the transmit FIFO ran empty or full. -/
def tdmDrive (p : Nat) (f : TdmIn) (mute dry : Bool) (s : State) : State :=
  if !audOutEn (effW s) p || s.host.held then s
  else
    let w := (tdm s p).cfg.getD 0 0
    let n := ctlSlots w
    let r := (List.range n).foldl (fun (a : List (Option Int) × State) i =>
      if bitOf ((tdm a.2 p).cfg.getD 2 0) i then
        if tdmYields (tdm a.2 p) then
          let o := outStep p i f.at_ f a.2
          (a.1 ++ [some (if mute then 0 else o.1)], o.2)
        else (a.1 ++ [some 0], a.2)
      else (a.1 ++ [none], a.2)) ([], s)
    let x := tdm r.2 p
    let drives := fun i => bitOf (x.cfg.getD 2 0) i
    let v := skewed (if x.st = .misaligned then x.skewOut else 0) (fun i => dry && Config.tdmMissing (s.fresh + 1) i) (some 0) r.1
    let v := (List.range n).map (fun i => if drives i then some ((v.getD i none).getD 0) else none)
    emit (.tdmOut p ((List.range (ctlBits w)).map (doutBit w v))) r.2

/-- The tracker of a follower at a frame (R410, R415): it steers the ratio to the measured rate; more than 100 ppm from the tracked ratio
is a re-lock; outside 0.97–1.03 is a fault. -/
def tdmTrack (p : Nat) (ppm : Int) (s : State) : State :=
  let x := tdm s p
  if ctlLeader (x.cfg.getD 0 0) || !x.known then s
  else if 30000 < ppm.natAbs then tdmTo p .fault (bump (pgAud p) 7 1 (raiseBit (pgAud p) 7 s))
  else
    let s := modTdm p (fun y => { y with ratio := ppm }) s
    if 100 < (ppm - x.ratio).natAbs then raiseBit (pgAud p) 8 s else s

/-- FIFO faults of a frame (R415): by how far they move the channels is a free value. -/
def tdmFifo (p : Nat) (f : TdmIn) (s : State) : State :=
  let dry := f.rxEmpty || f.txEmpty
  let ovr := f.rxFull || f.txFull
  let s := if dry then bump (pgAud p) 2 1 (raiseBit (pgAud p) 3 s) else s
  let s := if ovr then bump (pgAud p) 3 1 (raiseBit (pgAud p) 4 s) else s
  if dry || ovr then
    let s := draw (draw (tdmTo p .misaligned (modTdm p (fun x => { x with
      skewIn := if f.rxEmpty || f.rxFull then x.skewIn + Config.tdmSkew s.fresh else x.skewIn
      skewOut := if f.txEmpty || f.txFull then x.skewOut + Config.tdmSkew (s.fresh + 1) else x.skewOut }) s)))
    if audAuto (effW s) p then modTdm p (fun x => { x with restart := true }) s else s
  else s

/-- Output slots that a stopped clock has faded, or was fading, unmute as the port runs again (R412, R415). -/
def unmuteStopped (p : Nat) (s : State) : State :=
  let x := tdm s p
  unmuteSlots p ((outSlots x).filter (fun i =>
    match x.zc.get (fun _ => none) i with
    | none => x.muted.contains i
    | some z => decide (z.kind = 0) && !bitOf z.word 31)) (modTdm p (fun x => { x with outPos := [] }) s)

/-- A good frame of a port that locks or runs. -/
def tdmGood (p : Nat) (f : TdmIn) (s : State) : State :=
  let x := tdm s p
  let leader := ctlLeader (x.cfg.getD 0 0)
  let n := f.at_ * 48 / 1000000
  let s := modTdm p (fun x => { x with bad := 0, good := x.good + 1 }) s
  let s :=
    if x.st = .locking then
      if leader then tdmTo p .running s
      else if 48 ≤ x.good + 1 then
        if 30000 < f.ppm.natAbs then tdmTo p .fault (bump (pgAud p) 7 1 (raiseBit (pgAud p) 7 s))
        else unmuteStopped p (tdmTo p .running (modTdm p (fun x => { x with known := true, ratio := f.ppm }) s))
      else s
    else tdmTrack p f.ppm s
  if tdmYields (tdm s p) then
    let fifo := f.rxEmpty || f.txEmpty || f.rxFull || f.txFull
    let muted := fifo && audAuto (effW s) p
    let l := if muted then (frameSlots s p f).map (fun _ => 0) else frameSlots s p f
    let s := tdmMarks p f l n (tdmStore p l f.slips f.ppm n s)
    let s := modTdm p (fun x => { x with inputs := l }) s
    tdmFifo p f (tdmDrive p f muted (f.txEmpty || f.txFull) s)
  else tdmDrive p f false false s

/-- A mistimed FS (R415): the frame is discarded, input slots repeat the frame before, and 16 in a row are a fault. -/
def tdmGlitch (p : Nat) (f : TdmIn) (s : State) : State :=
  let x := tdm s p
  let s := modTdm p (fun x => { x with good := 0, bad := x.bad + 1 }) s
  let s := bump (pgAud p) 1 1 (raiseBit (pgAud p) 5 s)
  let s := if tdmYields x then tdmStore p x.inputs [] f.ppm (f.at_ * 48 / 1000000) s else s
  if 16 ≤ x.bad + 1 then tdmTo p .fault s else s

/-- Frames per second of a port. -/
def ctlHz (w : Word) : Nat := if ctlRate w = 0 then 44100 else if ctlRate w = 2 then 96000 else 48000

/-- The frame's FS edge: where a leader puts it, at the media instant j/rate next to the one named, in ns rounded up (R409); of a follower,
where it came. -/
def fsEdge (w : Word) (f : TdmIn) : TdmIn :=
  if ctlLeader w then { f with at_ := cdiv ((f.at_ * ctlHz w + 500000000) / 1000000000 * 1000000000) (ctlHz w) } else f

/-- TDM_FRAME: one frame of an enabled port, from its FS edge (R409–R415); in FAULT its slots are zero while it is clocked. -/
def tdmFrameOp (p : Nat) (f0 : TdmIn) (s : State) : State :=
  if (tdm s p).st = .disabled then s
  else
    let f := fsEdge ((if (tdm s p).pend || (tdm s p).cfg.isEmpty then audNow (effW s) p else (tdm s p).cfg).getD 0 0) f0
    let s := advance f.at_ s
    let s := bump (pgAud p) 0 1 (modTdm p (fun x => { x with frames := x.frames + 1 }) s)
    let s := if (tdm s p).pend || (tdm s p).cfg.isEmpty then tdmApply p s else s
    let c := (tdm s p).cfg.getD 0 0
    noteTdm p (
      if (tdm s p).restart then tdmDrive p f true false (tdmRestart p s)
      else if (tdm s p).st = .clockLost then s
      else if (tdm s p).st = .fault then tdmDrive p f true false s
      else if !ctlLeader c && decide (f.bclks ≠ ctlBits c) then tdmGlitch p f s
      else tdmGood p f s)

/-- TDM_CLOCK_STOP (R415): the ratio freezes and every output channel fades to zero at a crossing. -/
def tdmClockStopOp (p : Nat) (s : State) : State :=
  let x := tdm s p
  if x.st = .disabled ∨ x.st = .clockLost ∨ ctlLeader (audW (effW s) p 0x100) = true then s
  else
    let se := sampleFrom s.time.now
    let s := noteTdm p (bump (pgAud p) 6 1 (raiseBit (pgAud p) 6 (tdmTo p .clockLost s)))
    modTdm p (fun x => (outSlots x).foldl (fun x i =>
      if x.muted.contains i then { x with zc := x.zc.set (fun _ => none) i none }
      else { x with zc := x.zc.set (fun _ => none) i (some { kind := 0, se := se, word := x.src.get (fun _ => 0) i }) }) x) s

/-- TDM_CLOCK_RETURN (R415): within 0.1 % of the frozen rate the port restarts at the next FS, else it locks again. -/
def tdmClockReturnOp (p : Nat) (ppm : Int) (s : State) : State :=
  let x := tdm s p
  if x.st = .clockLost then
    if x.known && decide ((ppm - x.ratio).natAbs ≤ 1000) then modTdm p (fun x => { x with restart := true }) s
    else modTdm p (fun x => { x with good := 0, bad := 0, known := false }) (tdmTo p .locking s)
  else s

/-- TDM_FAULT_CLEAR (R415): with AUTO_RESTART the port restarts at the next FS; else it waits for a TOKEN. -/
def tdmFaultClearOp (p : Nat) (s : State) : State :=
  if (tdm s p).st = .fault && audAuto (effW s) p then modTdm p (fun x => { x with restart := true }) s else s

/-- ZC_TIMEOUT of an output slot (R412), once the sample that the slot plays has reached the limit. While the clock is lost no frame
has tested the samples: crossings among them are found first. -/
def tdmTimeout (p i : Nat) (s : State) : State :=
  let n := outIndex s p i ((tdm s p).src.get (fun _ => 0) i) s.time.now
  let s := if (tdm s p).st = .clockLost then outRun p i n s else s
  let x := tdm s p
  match x.zc.get (fun _ => none) i with
  | none => s
  | some z =>
    if z.se + audZc (effW s) p ≤ n then
      let y := zcApply { cur := x.src.get (fun _ => 0) i, muted := x.muted.contains i, zc := some z }
      bump (pgAud p) 9 1 (raiseBit (pgAud p) 12 (modTdm p (fun x => { x with
        src := x.src.set (fun _ => 0) i y.cur, muted := if y.muted then NSet.add x.muted i else NSet.del x.muted i
        zc := x.zc.set (fun _ => none) i none }) s))
    else s

/-- NON_AUDIO_CLEAR of an input slot (R413). -/
def tdmMarkClear (p i : Nat) (s0 : State) : State :=
  let m := (tdm s0 p).marks.get (fun _ => 0) i
  if m ≠ 0 ∧ m - 1 + 8192 ≤ sampleFrom s0.time.now then
    marksCleared (m - 1 + 8192) s0 (modTdm p (fun x => { x with
      marks := x.marks.set (fun _ => 0) i 0, spans := if x.aes3.contains i then x.spans else spanClose i (m - 1 + 8192) x.spans }) s0)
  else s0

/-- One port at a package furrow boundary: EN takes effect, other words at the next FS edge, sources at crossings (R411,
R412, R414). -/
def tdmTakesEffect (old : Nat → Word) (p : Nat) (s : State) : State :=
  let g := effW s
  if !audEn g p then noteTdm p (modTdm p (fun x => { hist := x.hist, past := x.past }) s)
  else
    let s := if (tdm s p).st = .disabled then tdmTo p .locking s else s
    let s := if audNow old p ≠ audNow g p ∨ audEn old p = false then modTdm p (fun x => { x with pend := true }) s else s
    (List.range 32).foldl (fun s i =>
      if audOutSrc old p i ≠ audOutSrc g p i && !(tdm s p).cfg.isEmpty then
        let x := tdm s p
        let z := zcChange 0x40000000 { cur := x.src.get (fun _ => 0) i, muted := x.muted.contains i, zc := x.zc.get (fun _ => none) i }
          (audOutSrc g p i) s.time.now
        modTdm p (fun x => { x with
          src := x.src.set (fun _ => 0) i z.cur, muted := if z.muted then NSet.add x.muted i else NSet.del x.muted i
          zc := x.zc.set (fun _ => none) i z.zc }) s
      else s) s

/-- Every port. -/
def tdmsTakeEffect (old : Nat → Word) (s : State) : State := [0, 1, 2, 3].foldl (fun s p => tdmTakesEffect old p s) s

end Sys2Proof.Machine
end

