-- ==== Sys2Proof/Machine/Layers.lean ====
section
/-! DEFINITION. The LAYER pages and the canvases they form, as fields (R163–R168, R173, R192), and the alignment of a live
input (R168). -/

namespace Sys2Proof.Machine

open Sys2Proof

/-- Location of word `off` of LAYER page `i` (256 die + pool entry). -/
def layLoc (i off : Nat) : Nat := ploc (pkey (i / 256) (0x400 + i % 256)) off

/-- The LAYER page itself. -/
def pgLayer (i : Nat) : Nat := pkey (i / 256) (0x400 + i % 256)

/-- A layer's fields (R164). -/
structure LayCfg where
  valid : Bool
  canvas : Nat
  num : Nat
  kind : Nat
  source : Nat
  srcY : Nat
  srcX : Nat
  srcH : Nat
  srcW : Nat
  dstY : Nat
  dstX : Nat
  dstH : Nat
  dstW : Nat
  scaler : Nat
  premult : Bool
  alpha : Nat
  cadence : Nat
  group : Nat
  nbuf : Nat
  fmt : Bool
  pitch : Nat
  deriving DecidableEq, Repr

/-- R164. -/
def layCfg (g : Nat → Word) (i : Nat) : LayCfg :=
  let w := fun o => g (layLoc i o)
  { valid := bitOf (w 0x100) 31, canvas := fld (w 0x100) 20 16, num := fld (w 0x100) 11 8, kind := fld (w 0x100) 2 0
    source := fld (w 0x104) 14 0, srcY := fld (w 0x108) 28 16, srcX := fld (w 0x108) 12 0, srcH := fld (w 0x10C) 28 16
    srcW := fld (w 0x10C) 12 0, dstY := fld (w 0x110) 28 16, dstX := fld (w 0x110) 12 0, dstH := fld (w 0x114) 28 16
    dstW := fld (w 0x114) 12 0, scaler := fld (w 0x118) 1 0, premult := bitOf (w 0x11C) 8, alpha := fld (w 0x11C) 7 0
    cadence := fld (w 0x120) 15 8, group := fld (w 0x120) 5 0, nbuf := fld (w 0x124) 29 28, fmt := bitOf (w 0x124) 24
    pitch := fld (w 0x124) 7 0 }

/-- Buffer `b` of a still or graphics layer: its die and its address in bytes. -/
def layBuf (g : Nat → Word) (i b : Nat) : Nat × Nat :=
  (fld (g (layLoc i (0x128 + 4 * b))) 31 29, 4096 * fld (g (layLoc i (0x128 + 4 * b))) 21 0)

/-- A live input or a decoded source. -/
def LayCfg.video (c : LayCfg) : Bool := decide (c.kind = 2 ∨ c.kind = 3)

/-- A still or a graphics plane. -/
def LayCfg.drawn (c : LayCfg) : Bool := decide (c.kind = 1 ∨ c.kind = 4)

/-- R164: scaled unless the two sizes agree; layer 0 covers the canvas, its words ignored (R165). -/
def LayCfg.scaled (c : LayCfg) : Bool := decide (c.num ≠ 0) && (decide (c.srcW ≠ c.dstW) || decide (c.srcH ≠ c.dstH))

/-- Valid LAYER pages that a store lists. -/
def validLayers (t : Tbl Word) : List Nat :=
  t.filterMap (fun e =>
    let k := e.1 / 4096
    let p := keyPage k
    if e.1 < 2 ^ 28 ∧ e.1 % 4096 = 0x100 ∧ 0x400 ≤ p ∧ p < 0x500 ∧ bitOf e.2 31 = true then some (256 * keyDie k + (p - 0x400))
    else none)

/-- The layers of channel `ch`'s canvas, lowest page first. -/
def canvasLayers (t : Tbl Word) (ch : Nat) : List Nat :=
  (validLayers t).filter (fun i => decide (i / 256 = ch / 32) && decide ((layCfg (getW t) i).canvas = ch % 32))

/-- The page that holds layer 0 of a canvas: its canvas words are in force (R164). -/
def canvasBase (t : Tbl Word) (ch : Nat) : Option Nat := (canvasLayers t ch).find? (fun i => decide ((layCfg (getW t) i).num = 0))

/-- `CANVAS_BUF` of a canvas, in bytes (R164, R166). -/
def canvasBuf (t : Tbl Word) (ch : Nat) : Nat :=
  match canvasBase t ch with
  | none => 0
  | some i => 4096 * fld (getW t (layLoc i 0x300)) 21 0

/-- Line stride of a canvas buffer in the channel's sampling (R166). -/
def canvasStride (t : Tbl Word) (ch : Nat) : Nat :=
  let g := getW t
  roundUp ((chFmt g ch).w * (if fld (g (chLoc ch 0x140)) 5 4 = 1 then 20 else 15) / 8) 256

/-- Source allowance A in µs. -/
def canvasAllow (t : Tbl Word) (ch : Nat) : Nat :=
  match canvasBase t ch with
  | none => 0
  | some i => fld (getW t (layLoc i 0x304)) 11 0

/-- The blend order of R179: layer numbers, bottom first. -/
def blendOrder (t : Tbl Word) (ch : Nat) : List Nat :=
  match canvasBase t ch with
  | none => List.range 16
  | some i =>
    let g := getW t
    if bitOf (g (layLoc i 0x308)) 31 then
      (List.range 16).map (fun p => fld (g (layLoc i (0x30C + 4 * (p / 8)))) (4 * (p % 8) + 3) (4 * (p % 8)))
    else List.range 16

/-- A layer's rectangle meets furrow `k` (R187); layer 0 covers the canvas. -/
def LayCfg.meets (c : LayCfg) (f : Fmt) (k : Nat) : Bool :=
  if c.num = 0 then true else decide (c.dstY < f.lineEnd k) && decide (k * f.c < c.dstY + c.dstH)

/-- The integer source position of output line `y` (R172). -/
def srcPos (src dst y : Nat) : Int := (((2 * y + 1) * src : Nat) - (dst : Int)) / (2 * dst : Nat)

/-- `need` of R168 for furrow `k`: the last source line, relative to SRC_Y, that the furrow uses. -/
def needLine (c : LayCfg) (f : Fmt) (k : Nat) : Option Nat :=
  if c.meets f k then
    let y := min (f.lineEnd k) (c.dstY + c.dstH) - 1 - c.dstY
    some (if c.scaled then (min (srcPos c.srcH c.dstH y + 3) ((c.srcH : Int) - 1)).toNat else y)
  else none

/-- The alignment of R168, in units of 1/(1,000,000 Ns Hs Nc Hc) s. -/
def alignment (c : LayCfg) (f : Fmt) (sc : SlotCfg) : Int :=
  let uSrc : Int := (1000000 * sc.fmt.den * f.num * f.h : Nat)
  let uCan : Int := (1000000 * f.den * sc.fmt.num * sc.h : Nat)
  ((List.range f.furrows).foldl (fun (b : Option Int) k =>
    match needLine c f k with
    | none => b
    | some need =>
      let lead := ((c.srcY + need + 1 : Nat) : Int) * uSrc - (f.lineEnd k : Int) * uCan
      match b with
      | none => some lead
      | some d => some (max d lead)) none).getD 0

/-- The source picture m of R168 that a live-input layer shows in canvas picture `n`; it may lie before the epoch. -/
def sourcePic (c : LayCfg) (f : Fmt) (sc : SlotCfg) (aUs n : Nat) : Int :=
  let t : Int := (n * f.den * 1000000 * sc.fmt.num * sc.h * f.h + aUs * sc.fmt.num * sc.h * f.num * f.h : Nat) - alignment c f sc
  t / (sc.fmt.den * 1000000 * f.num * sc.h * f.h : Nat)

/-- The quality region of a layer with AUTO on a canvas of format `f` (R192): slot, columns and furrows, QP offset, guard. Layer 0 covers
the whole canvas (R165). -/
def autoRegion (g : Nat → Word) (i : Nat) (f : Fmt) : Option (Nat × (Nat × Nat × Nat × Nat) × Int × Bool) :=
  let w := g (layLoc i 0x140)
  let c := layCfg g i
  let r := if c.num = 0 then (0, f.ctuCols - 1, 0, f.furrows - 1)
    else (c.dstX / f.c, cdiv (c.dstX + c.dstW) f.c - 1, c.dstY / f.c, cdiv (c.dstY + c.dstH) f.c - 1)
  if bitOf w 31 then some (fld w 19 16, r, sgn 5 (fld w 4 0), bitOf w 8) else none

/-- Coefficient of a scaler (R173): location of the word that holds it, and its half. -/
def coefAt (g : Nat → Word) (d sc byteOff : Nat) : Int :=
  let w := g (bar2loc (0x430000 + 4096 * (4 * d + sc) + byteOff / 4 * 4))
  sgn 10 (fld w (16 * (byteOff / 2 % 2) + 9) (16 * (byteOff / 2 % 2)))

/-- Horizontal tap `t` of phase `p`. -/
def hCoef (g : Nat → Word) (d sc p t : Nat) : Int := coefAt g d sc (2 * (8 * p + t))

/-- Vertical tap `t` of phase `p`. -/
def vCoef (g : Nat → Word) (d sc p t : Nat) : Int := coefAt g d sc (0x400 + 2 * (6 * p + t))

end Sys2Proof.Machine
end

