-- ==== Sys2Proof/Machine/Depack.lean ====
section
/-! DEFINITION. Depacketising of compressed flows (R159): RTP payloads of AVC (RFC 6184), HEVC (RFC 7798) and VVC (RFC 9328), and
MPEG-TS over RTP (RFC 2250). PRESUMED: the payload formats, which R139 and R159 name by their RFC and do not print. -/

namespace Sys2Proof.Machine

open Sys2Proof

/-- A piece of an elementary stream: its timestamp where it brings one, whether an access unit delimiter begins it, its decoding order
number in an interleaved AVC flow, its bytes. -/
structure Chunk where
  ts    : Option Nat
  delim : Bool
  don   : Option Nat := none
  data  : List Byte
  deriving DecidableEq, Repr

/-- The bytes put before a NAL unit in the elementary stream. DESIGN CHOICE: the three-byte start code of the standards' byte stream
format; the buffer's own form is internal. -/
def startCode : List Byte := [0, 0, 1]

/-- Type of a NAL unit by its codec (0 AVC, 1 HEVC, 2 VVC) and first bytes. -/
def nalType (codec : Nat) (l : List Byte) : Nat :=
  let b := fun i => (l.getD i 0).toNat
  if codec = 0 then b 0 % 32 else if codec = 1 then b 0 / 2 % 64 else b 1 / 8

/-- The type of the codec's access unit delimiter. -/
def audType (codec : Nat) : Nat := if codec = 0 then 9 else if codec = 1 then 35 else 20

/-- A whole NAL unit, or the beginning of one. -/
def nalChunk (codec ts : Nat) (l : List Byte) : Chunk :=
  { ts := some ts, delim := decide (nalType codec l = audType codec), data := startCode ++ l }

/-- The units of an aggregation packet, each behind its length in two bytes; `n` bounds how many. -/
def aggUnits : Nat → List Byte → List (List Byte)
  | n + 1, a :: b :: r =>
    let k := a.toNat * 256 + b.toNat
    r.take k :: aggUnits n (r.drop k)
  | _, _ => []

/-- Units of a STAP-B from decoding order number `k` on. -/
def numbered (ts : Nat) : Nat → List (List Byte) → List Chunk
  | _, [] => []
  | k, l :: r => { nalChunk 0 ts l with don := some (k % 65536) } :: numbered ts (k + 1) r

/-- The units of an MTAP behind its base number `base`: length, difference of the decoding order number, timestamp offset of `w` bytes,
unit; `n` bounds how many. The length counts from the difference on. -/
def mtapUnits (ts base w : Nat) : Nat → List Byte → List Chunk
  | n + 1, a :: b :: r =>
    let k := a.toNat * 256 + b.toNat
    let off := ((r.drop 1).take w).foldl (fun x y => 256 * x + y.toNat) 0
    { nalChunk 0 ((ts + off) % 2 ^ 32) ((r.take k).drop (1 + w)) with don := some ((base + (r.getD 0 0).toNat) % 65536) } ::
      mtapUnits ts base w n (r.drop k)
  | _, _ => []

/-- Two bytes as a number. -/
def two (l : List Byte) : Nat := (l.getD 0 0).toNat * 256 + (l.getD 1 0).toNat

/-- RFC 6184: single units, STAP-A and STAP-B, MTAP16 and MTAP24, FU-A and FU-B. -/
def depackAvc (ts : Nat) (p : List Byte) : List Chunk :=
  match p with
  | [] => []
  | h :: r =>
    let t := h.toNat % 32
    if 1 ≤ t ∧ t ≤ 23 then [nalChunk 0 ts p]
    else if t = 24 then (aggUnits r.length r).map (nalChunk 0 ts)
    else if t = 25 then numbered ts (two r) (aggUnits r.length (r.drop 2))
    else if t = 26 then mtapUnits ts (two r) 2 r.length (r.drop 2)
    else if t = 27 then mtapUnits ts (two r) 3 r.length (r.drop 2)
    else if t = 28 ∨ t = 29 then
      match r with
      | [] => []
      | u :: r =>
        let don := if t = 29 then some (two r) else none
        let r := if t = 29 then r.drop 2 else r
        if 128 ≤ u.toNat then [{ nalChunk 0 ts (BitVec.ofNat 8 (h.toNat / 32 * 32 + u.toNat % 32) :: r) with don := don }]
        else [{ ts := some ts, delim := false, data := r }]
    else []

/-- RFC 7798: single units, aggregation packets, fragmentation units, and the packet within a PACI packet. -/
def depackHevc (ts : Nat) : Nat → List Byte → List Chunk
  | n + 1, a :: b :: r =>
    let t := a.toNat / 2 % 64
    let hdr := fun (t : Nat) => BitVec.ofNat 8 (a.toNat / 128 * 128 + t * 2 + a.toNat % 2)
    if t < 48 then [nalChunk 1 ts (a :: b :: r)]
    else if t = 48 then (aggUnits r.length r).map (nalChunk 1 ts)
    else if t = 49 then
      match r with
      | [] => []
      | u :: r =>
        if 128 ≤ u.toNat then [nalChunk 1 ts (hdr (u.toNat % 64) :: b :: r)] else [{ ts := some ts, delim := false, data := r }]
    else if t = 50 then
      match r with
      | u :: v :: r => depackHevc ts n (hdr (u.toNat / 2 % 64) :: b :: r.drop (u.toNat % 2 * 16 + v.toNat / 16))
      | _ => []
    else []
  | _, _ => []

/-- RFC 9328: single units, aggregation packets, fragmentation units. -/
def depackVvc (ts : Nat) (p : List Byte) : List Chunk :=
  match p with
  | a :: b :: r =>
    let t := b.toNat / 8
    if t < 28 then [nalChunk 2 ts p]
    else if t = 28 then (aggUnits r.length r).map (nalChunk 2 ts)
    else if t = 29 then
      match r with
      | [] => []
      | u :: r =>
        if 128 ≤ u.toNat then [nalChunk 2 ts (a :: BitVec.ofNat 8 (u.toNat % 32 * 8 + b.toNat % 8) :: r)]
        else [{ ts := some ts, delim := false, data := r }]
    else []
  | _ => []

/-- Bytes that tell an access unit delimiter: its start code and the bytes of its type. -/
def audLen (codec : Nat) : Nat := if codec = 2 then 5 else 4

/-- An access unit delimiter begins here. -/
def audHere (codec : Nat) (l : List Byte) : Bool := decide (l.take 3 = startCode) && decide (audLen codec ≤ l.length) &&
  decide (nalType codec (l.drop 3) = audType codec)

/-- Bytes of an elementary stream cut before each access unit delimiter: `cur` is the piece in hand, reversed. -/
def cutAuds (codec : Nat) (ts : Option Nat) : Bool → List Byte → List Byte → List Chunk
  | d, cur, [] => if cur = [] then [] else [{ ts := ts, delim := d, data := cur.reverse }]
  | d, cur, b :: r =>
    if audHere codec (b :: r) then
      (if cur = [] then [] else [{ ts := ts, delim := d, data := cur.reverse }]) ++ cutAuds codec ts true [b] r
    else cutAuds codec ts d (b :: cur) r

/-- The length of the end of a piece that may be the beginning of a delimiter, whose rest comes with the next TS packet. -/
def heldTail (codec : Nat) (l : List Byte) : Nat :=
  (((List.range (audLen codec)).reverse.filter (fun n =>
    decide (n ≤ l.length) && decide ((l.drop (l.length - n)).take 3 = startCode.take n))).head?).getD 0

/-- The payload of a TS packet of 188 bytes, behind its adaptation field. -/
def tsPayload (p : List Byte) : List Byte :=
  let afc := (p.getD 3 0).toNat / 16 % 4
  if afc = 1 then p.drop 4 else if afc = 3 then p.drop (5 + (p.getD 4 0).toNat) else []

/-- The PTS of a PES header modulo 2^32, where it has one. -/
def pesPts (p : List Byte) : Option Nat :=
  let b := fun i => (p.getD i 0).toNat
  if 128 ≤ b 7 then
    some ((b 9 / 2 % 8 * 2 ^ 30 + b 10 * 2 ^ 22 + b 11 / 2 * 2 ^ 15 + b 12 * 2 ^ 7 + b 13 / 2) % 2 ^ 32)
  else none

/-- One TS packet behind `held`, the bytes that the stream holds back (R159): only the PID of `TS_PID` is kept; a packet that starts a PES
packet brings its PTS, and what was held belongs to the one before. Answers the pieces and what is held back now. -/
def tsChunks (codec pid : Nat) (held p : List Byte) : List Chunk × List Byte :=
  let b := fun i => (p.getD i 0).toNat
  let cut := fun (ts : Option Nat) (l : List Byte) =>
    let n := l.length - heldTail codec l
    (cutAuds codec ts false [] (l.take n), l.drop n)
  if b 0 = 0x47 ∧ b 1 % 32 * 256 + b 2 = pid then
    let l := tsPayload p
    if b 1 / 64 % 2 = 1 then
      let before := cutAuds codec none false [] held
      if l.take 3 = startCode then
        let r := cut (pesPts l) (l.drop (9 + (l.getD 8 0).toNat))
        (before ++ (if r.1 = [] then [{ ts := pesPts l, delim := false, data := [] }] else r.1), r.2)
      else (before, [])
    else cut none (held ++ l)
  else ([], held)

/-- TS packets one after the other. -/
def tsRun (codec pid : Nat) : List Byte → List (List Byte) → List Chunk × List Byte
  | held, [] => ([], held)
  | held, p :: ps =>
    let a := tsChunks codec pid held p
    let r := tsRun codec pid a.2 ps
    (a.1 ++ r.1, r.2)

/-- The TS packets of an RTP payload; `n` bounds how many. -/
def tsPackets : Nat → List Byte → List (List Byte)
  | n + 1, b :: r => (b :: r).take 188 :: tsPackets n ((b :: r).drop 188)
  | _, _ => []

/-- The pieces of the elementary stream that a packet brings, by PAYLOAD of its entry, and what an MPEG-TS stream holds back behind them
(R142, R159); `codec` is the source's. -/
def depack (codec : Nat) (held : List Byte) (w : RtpIn) : List Chunk × List Byte :=
  if w.form = 0 then (depackAvc w.ts w.payload, held)
  else if w.form = 1 then (depackHevc w.ts 2 w.payload, held)
  else if w.form = 2 then (depackVvc w.ts w.payload, held)
  else tsRun codec w.pid held (tsPackets w.payload.length w.payload)

end Sys2Proof.Machine
end

