-- ==== Sys2Proof/Machine/DecSrc.lean ====
section
/-! DEFINITION. Decode sources (R254–R270): access units and their times, states, losses, concealment and offers. Times of
presentation and due times are kept exactly, in ninths of a ns. -/

namespace Sys2Proof.Machine

open Sys2Proof

/-- The DEC page of die `d`. -/
def pgDec (d : Nat) : Nat := pkey d 0x106

/-- A decode source's words (R256). -/
structure DecCfg where
  valid : Bool
  arrival : Bool
  codec : Nat
  rate : Nat
  delay : Nat      -- 10 µs units
  h : Nat
  w : Nat
  stalls : Nat
  base : Nat
  deriving DecidableEq, Repr

/-- Bytes of a stall of a source (R258). -/
def DecCfg.stallSize (c : DecCfg) : Nat :=
  let a := roundUp c.w 64 * roundUp c.h 64
  roundUp (a * 15 / 8 + a / 16 + 65536) 4096

/-- Location of word `i` (0 A, 1 B, 2 C) of source `n` of die `d`. -/
def decLoc (d n i : Nat) : Nat := ploc (pgDec d) (0x100 + 12 * n + 4 * i)

/-- R256. -/
def decCfg (g : Nat → Word) (d n : Nat) : DecCfg :=
  let a := g (decLoc d n 0)
  let b := g (decLoc d n 1)
  let c := g (decLoc d n 2)
  { valid := bitOf a 31, arrival := bitOf a 30, codec := fld a 29 28, rate := fld a 27 24, delay := fld a 15 0
    h := fld b 27 16, w := fld b 12 0, stalls := fld c 28 24, base := fld c 21 0 }

/-- Sources of die `d` that a store lists. -/
def decsOf (t : Tbl Word) (d : Nat) : List Nat := unitsIn (decLoc d 0 0) (decLoc d 64 0) 12 t

/-- L of R256: valid layers, on any die, whose SOURCE names source `q` (64 die + source). -/
def decUsers (t : Tbl Word) (q : Nat) : Nat :=
  ((validLayers t).filter (fun i => decide ((layCfg (getW t) i).kind = 3) && decide ((layCfg (getW t) i).source = q))).length

/-- Decode source `n` of die `d`. -/
def dec (s : State) (d n : Nat) : Dec := s.decs.get (fun _ => {}) (64 * d + n)

/-- The state with a decode source changed by `f`. -/
def modDec (d n : Nat) (f : Dec → Dec) (s : State) : State := { s with decs := s.decs.set (fun _ => {}) (64 * d + n) (f (dec s d n)) }

/-- Source states (R263). -/
def dsIdle : Nat := 0
def dsAwaiting : Nat := 1
def dsDecoding : Nat := 2
def dsUnsupported : Nat := 3

/-- Some source of die `d` is in state `st`. -/
def anyDec (s : State) (d st : Nat) : Bool := s.decs.any (fun e => decide (e.1 / 64 = d) && decide (e.2.st = st))

/-- The conditions AWAITING and UNSUPPORTED of the page rise (R263, R270). -/
def decConds (d : Nat) (s0 s : State) : State :=
  let s := if !anyDec s0 d dsAwaiting && anyDec s d dsAwaiting then raiseBit (pgDec d) 6 s else s
  if !anyDec s0 d dsUnsupported && anyDec s d dsUnsupported then raiseBit (pgDec d) 7 s else s

/-- Every source at a package furrow boundary (R258, R263): IDLE, with every stall freed, while invalid or shown by no layer; else
AWAITING. -/
def decsSettle (s : State) : State :=
  (List.range (dies s)).foldl (fun (s0 : State) d =>
    let ns := (decsOf s0.eff d ++ (s0.decs.filter (fun (e : Nat × Dec) => decide (e.1 / 64 = d))).map (fun (e : Nat × Dec) => e.1 % 64)).eraseDups
    decConds d s0 (ns.foldl (fun s n =>
      let on := (decCfg (effW s) d n).valid && decide (0 < decUsers s.eff (64 * d + n))
      if on then (if (dec s d n).st = dsIdle then modDec d n (fun x => { st := dsAwaiting, auCount := x.auCount }) s else s)
      else if (dec s d n).st = dsIdle then s else modDec d n (fun x => { auCount := x.auCount }) s) s0)) s

/-! ## Times (R259, R260) -/

/-- The picture period of a rate code in ninths of a ns, rounded up. -/
def period9 (rate : Nat) : Nat := cdiv (9000000000 * (rateOf rate).2) (rateOf rate).1

/-- The k nearest `x` with k ≡ tau modulo 2^32 (R259). -/
def nearestMod (tau : Nat) (x : Int) : Int :=
  let r : Int := (tau % 2 ^ 32 : Nat)
  r + 2 ^ 32 * ((x - r + 2 ^ 31) / 2 ^ 32)

/-- Presentation time of a timestamp whose access unit's first packet came at `t`: of MEDIA timing, or from an anchor (R259). -/
def presTime (c : DecCfg) (anchor : Option (Nat × Nat)) (tau t : Nat) : Int :=
  if c.arrival then
    match anchor with
    | none => (9 * t : Nat)
    | some (tau0, a0) =>
      (9 * a0 : Nat) + 100000 * nearestMod ((tau + 2 ^ 32 - tau0 % 2 ^ 32) % 2 ^ 32) (9 * ((t : Int) - a0) / 100000)
  else 100000 * nearestMod tau (9 * t / 100000 : Nat)

/-- An ARRIVAL source that has an anchor re-anchors on an access unit that its presentation time puts more than 100 ms from its
arrival `t` (R259). -/
def reanchors (c : DecCfg) (anchor : Option (Nat × Nat)) (pres : Int) (t : Nat) : Bool :=
  c.arrival && anchor.isSome && decide (900000000 < (pres - (9 * t : Nat)).natAbs)

/-- Due time (R260). -/
def dueOf (c : DecCfg) (pres : Int) : Int := pres + (90000 * c.delay : Nat)

/-- Cut-off: due time − Ps − 500 µs (R260), in whole ns rounded up. -/
def cutoffNs (c : DecCfg) (pres : Int) : Nat := cdiv (dueOf c pres - (period9 c.rate : Int) - 4500000).toNat 9

/-! ## Bytes and access units (R159, R258, R259, R260) -/

/-- Bytes of an access unit, loss marks apart. -/
def AuSt.bytes (a : AuSt) : Nat := (a.data.filter Option.isSome).length

/-- Unconsumed bytes of the bitstream buffer (R258). -/
def bufBytes (x : Dec) : Nat := (x.aus.map AuSt.bytes).sum

/-- A piece of the stream with timestamp `tau` begins an access unit (R259): none is open, the timestamp changes, or a delimiter follows
bytes of the open one. -/
def beginsAu (x : Dec) (tau : Nat) (delim : Bool) : Bool :=
  match x.open_ with
  | none => true
  | some o => decide (o.tau ≠ tau) || (delim && o.got)

/-- A new access unit is open (R259): its presentation time, and the source's re-anchoring on it. -/
def openAu (d n tau t : Nat) (s : State) : State :=
  let c := decCfg (effW s) d n
  let x := dec s d n
  let pres := presTime c x.anchor tau t
  if reanchors c x.anchor pres t then
    raiseBit (pgDec d) 5 (modDec d n (fun x => { x with
      anchor := some (tau, t), loss := false, opened := x.opened + 1
      open_ := some { no := x.opened, tau := tau, pres := (9 * t : Nat), first := t, got := false, loss := x.loss } }) s)
  else modDec d n (fun x => { x with
    loss := false, opened := x.opened + 1
    open_ := some { no := x.opened, tau := tau, pres := pres, first := t, got := false, loss := x.loss } }) s

/-- An interleaved unit belongs to an access unit of its timestamp that still waits, whichever was open last (RFC 6184): that one is
open again. -/
def reopenAu (d n tau : Nat) (s : State) : State :=
  match (dec s d n).aus.find? (fun a => decide (a.tau = tau)) with
  | none => s
  | some a => modDec d n (fun x => { x with open_ := some { no := a.no, tau := a.tau, pres := a.pres, first := a.first, got := true, loss := false } }) s

/-- Where in an access unit a unit with decoding order number `k` goes: before the first unit that follows it in decoding order. -/
def donPlace (a : AuSt) (k : Nat) : Nat :=
  (((a.dons.filter (fun e => decide (0 < (e.1 + 65536 - k) % 65536) && decide ((e.1 + 65536 - k) % 65536 < 32768))).map (fun e => e.2)).foldl
    min a.data.length)

/-- The bytes `l`, loss marks among them, put into an access unit at their place. -/
def auPut (don : Option Nat) (l : List (Option Byte)) (a : AuSt) : AuSt :=
  let p := match don with
    | some k => donPlace a k
    | none => a.data.length - a.tail
  { a with
    data := a.data.take p ++ l ++ a.data.drop p
    tail := a.data.length - p
    dons := (don.toList.map (fun k => (k, p))) ++ a.dons.map (fun e => if p ≤ e.2 ∧ don.isSome = true ∨ p < e.2 then (e.1, e.2 + l.length) else e) }

/-- The open access unit is in the buffer. -/
def inBuffer (x : Dec) (o : OpenAu) : Bool := x.aus.any (fun a => decide (a.no = o.no))

/-- The decoding of the open access unit has begun. -/
def inDecoding (x : Dec) (o : OpenAu) : Bool := x.curs.any (fun j => decide (j.no = o.no))

/-- The bytes `l`, loss marks among them, join the access unit `o`, which enters the buffer with its first; the decoding takes them where
it has begun (R260). -/
def storeAu (o : OpenAu) (don : Option Nat) (l : List (Option Byte)) (x : Dec) : Dec :=
  let k := (l.filter Option.isSome).length
  let here := (x.wrote % 2 ^ 23, k)
  if inBuffer x o then
    { x with wrote := x.wrote + k
             aus := x.aus.map (fun a => if a.no = o.no then { auPut don l a with places := a.places ++ [here] } else a) }
  else if inDecoding x o then
    { x with hist := Config.streamKey x.hist l, curs := x.curs.map (fun j => if j.no = o.no then { j with data := j.data ++ l } else j) }
  else
    { x with wrote := x.wrote + k
             aus := x.aus ++ [{ auPut don l { no := o.no, tau := o.tau, pres := o.pres, first := o.first, data := [] } with places := [here] }] }

/-- Bytes are discarded with a loss mark: it stands in the access unit where that is in the buffer or being decoded (R258, R260); else
it awaits the access unit's first stored byte. -/
def markLoss (o : OpenAu) (x : Dec) : Dec :=
  if inBuffer x o || inDecoding x o then storeAu o none [none] x
  else { x with open_ := x.open_.map (fun a => { a with loss := true }) }

/-- Words of the bitstream buffer that `n` bytes at ring offset `o` take, as ranges: the buffer is written round and round. DESIGN CHOICE:
R258 leaves the buffer's own layout internal; its bytes stand in the order of their arrival. -/
def ringRanges (c : DecCfg) (d o n : Nat) : List MemRange :=
  let m := min n (2 ^ 23 - o)
  [{ who := 0x41, die := d, addr := 4096 * c.base + o, len := m }, { who := 0x41, die := d, addr := 4096 * c.base, len := n - m }]

/-- A piece of the elementary stream that arrived at `t` (R258–R260): it goes to the access unit it belongs to, unless it comes at or
after its cut-off or finds the buffer full. DESIGN CHOICE: a piece that does not fit the 8 MiB is discarded whole, and the bytes of an access
unit leave the buffer at its cut-off (R258). Bytes of a stream that has shown no timestamp yet belong to no access unit. -/
def decChunk (d n t : Nat) (k : Chunk) (s : State) : State :=
  let c := decCfg (effW s) d n
  let s := if k.ts.isSome then modDec d n (fun x => { x with pts := k.ts }) s else s
  match (dec s d n).pts with
  | none => s
  | some tau =>
    let back := k.don.isSome && decide ((dec s d n).open_.map (fun o => o.tau) ≠ some tau) && (dec s d n).aus.any (fun a => decide (a.tau = tau))
    let s := if back then reopenAu d n tau s else if beginsAu (dec s d n) tau k.delim then openAu d n tau t s else s
    match (dec s d n).open_ with
    | none => s
    | some o0 =>
      let lost := o0.loss || (dec s d n).loss
      let o := { o0 with got := true, loss := false }
      if k.data = [] then s
      else if cutoffNs c o.pres ≤ t then
        modDec d n (fun x => markLoss o { x with loss := false, open_ := some { o with loss := lost } }) s
      else if 8 * 2 ^ 20 < bufBytes (dec s d n) + k.data.length then
        raiseBit (pgDec d) 4 (modDec d n (fun x => markLoss o { x with loss := false, open_ := some { o with loss := lost } }) s)
      else
        let at_ := (dec s d n).wrote % 2 ^ 23
        let s := (ringRanges c d at_ k.data.length).foldl (fun s r => storeWords d r.addr r.len s) s
        modDec d n (fun x => storeAu o k.don ((if lost then [none] else []) ++ k.data.map some) { x with loss := false, open_ := some o }) s

/-- What an MPEG-TS stream holds back goes to its access unit: a loss follows it, or the access unit's cut-off (R159, R260). -/
def decFlush (d n t : Nat) (s : State) : State :=
  let l := (dec s d n).held
  if l = [] then s else decChunk d n t { ts := none, delim := false, data := l } (modDec d n (fun x => { x with held := [] }) s)

/-- A packet in sequence order is depacketised; its marker ends the access unit (R159, R259). -/
def decPacket (d n : Nat) (w : RtpIn) (s : State) : State :=
  let r := depack (decCfg (effW s) d n).codec (dec s d n).held w
  let s := r.1.foldl (fun s k => decChunk d n w.at_ k s) (modDec d n (fun x => { x with held := r.2 }) s)
  if w.marker then modDec d n (fun x => { x with open_ := none }) (decFlush d n w.at_ s) else s

/-- Packets that wait are delivered as long as no gap that may still close stands before them (R159): a gap that is lost leaves a loss
mark. -/
def decDrain (d n : Nat) : Nat → State → State
  | 0, s => s
  | fuel + 1, s =>
    let x := dec s d n
    match x.waiting with
    | [] => s
    | w :: r =>
      if x.nextSeq = some w.q ∨ w.lost = true then
        let s := if x.nextSeq = some w.q then s else decFlush d n w.at_ s
        let s := modDec d n (fun x => { x with
          nextSeq := some (w.q + 1), waiting := r, loss := x.loss || decide (x.nextSeq ≠ some w.q) }) s
        decDrain d n fuel (decPacket d n w s)
      else s

/-- The first gap has not closed when the earliest packet beyond it has waited 2 ms: it is lost, and delivery goes on behind it
(R159). -/
def gapLost (d n : Nat) (s : State) : State :=
  let x := dec s d n
  match x.waiting with
  | [] => s
  | w :: r =>
    let s := advance (r.foldl (fun a v => min a v.at_) w.at_ + 2000000) s
    decDrain d n x.waiting.length (modDec d n (fun x => { x with waiting := { w with lost := true } :: r }) s)

/-- A packet put among those that wait, `prev` being the number before: a gap of more than 32,768 is lost at once; a number that waits
already, or whose gap is lost, is not taken (R159). -/
def putWaiting (prev : Nat) (w : RtpIn) : List RtpIn → List RtpIn
  | [] => [{ w with lost := decide (prev + 32769 < w.q) }]
  | v :: r =>
    if w.q = v.q then v :: r
    else if w.q < v.q then (if v.lost then v :: r else { w with lost := decide (prev + 32769 < w.q) } :: v :: r)
    else v :: putWaiting v.q w r

/-- A packet that the merge has taken, with extended number `q` (R159). A source that is IDLE discards it (R258). -/
def takeCompressed (d n q : Nat) (w : RtpIn) (s : State) : State :=
  let x := dec s d n
  if x.st = dsIdle then s
  else
    let want := x.nextSeq.getD q
    if q < want then s
    else
      let l := putWaiting (want - 1) { w with q := q } x.waiting
      decDrain d n l.length (modDec d n (fun x => { x with nextSeq := some want, waiting := l }) s)

/-! ## What is decoded (R254, R255, R262–R264) -/

/-- R254, R255: the stream is one that the engine decodes. PRESUMED: the codes of profiles and levels, which are the standards'. -/
def streamSupported (codec : Nat) (au : AccessUnit) : Bool :=
  decide (au.chroma = 1) && !au.fieldCoded && !au.reordered && !au.multilayer &&
    (if codec = 0 then
      ((decide (au.profile = 66) && au.constrained) || decide (au.profile = 77) || decide (au.profile = 100)) &&
        decide (au.level ≤ 52) && decide (au.depth = 8)
    else if codec = 1 then (decide (au.profile = 1) || decide (au.profile = 2)) && decide (au.level ≤ 156) && decide (au.depth ≤ 10)
    else decide (au.profile = 1) && decide (au.level ≤ 86) && decide (au.depth ≤ 10))

/-- R254, R255, R262, R264: the access unit is within what the source decodes. -/
def auSupported (c : DecCfg) (users : Nat) (prev : Option Int) (pres : Int) (au : AccessUnit) : Bool :=
  streamSupported c.codec au && decide (au.width ≤ c.w) && decide (au.height ≤ c.h) && decide (au.dpb + 2 + 2 * users ≤ c.stalls) &&
    (match prev with
      | none => true
      | some p => decide (p < pres))

/-- R264: the access unit comes too soon after the last that the source decoded. -/
def tooSoon (c : DecCfg) (last : Option Int) (pres : Int) : Bool :=
  match last with
  | none => false
  | some p => decide (pres - p < (period9 c.rate : Int) - 900000)

/-! ## References, stalls and concealment (R258, R261, R265–R267) -/

/-- A decoded picture still has its stall at `now`: as a reference, for a pin, for a decoding that refers to it, or because an offer may
still choose it (R261). -/
def holdsStall (x : Dec) (now : Nat) (p : DecPic) : Bool :=
  p.isRef || decide (0 < p.pinned) || x.curs.any (fun j => j.refs.contains (some p.idx)) ||
    !x.pics.any (fun q => decide (p.idx < q.idx) && decide (q.due ≤ 9 * now))

/-- The decoded pictures that still hold their stalls; those that do not are free for reuse (R261). -/
def freeDone (now : Nat) (x : Dec) : Dec := { x with pics := x.pics.filter (holdsStall x now) }

/-- The lowest-numbered stall that no picture holds; R262 leaves one. -/
def freeStall (x : Dec) (n : Nat) : Nat :=
  ((List.range n).find? (fun i => !(x.pics.any (fun p => decide (p.stall = i))) && !(x.curs.any (fun j => decide (j.stall = i))))).getD 0

/-- The picture that stands for place `o` of the order among those marked as references: its access unit number. -/
def refAt (x : Dec) (o : Int) : Option Nat :=
  match x.curs.reverse.find? (fun j => j.isRef && decide (j.order = o)) with
  | some j => some j.idx
  | none => (x.pics.find? (fun p => p.isRef && decide (p.order = o))).map (fun p => p.idx)

/-- The most recently decoded picture that is still marked as a reference; none for mid-grey (R265). -/
def substitute (x : Dec) : Option Nat :=
  match x.curs.reverse.find? (fun j => j.isRef) with
  | some j => some j.idx
  | none => (x.pics.find? (fun p => p.isRef)).map (fun p => p.idx)

/-- References substituted for an access unit (R265): named and never decoded, and missing by a gap in frame_num. -/
def missingRefs (x : Dec) (au : AccessUnit) : Nat := (au.refs.filter (fun r => (refAt x r).isNone)).length + au.gaps

/-- Only the pictures that the access unit's marking keeps stay references. -/
def keepRefs (l : List Int) (x : Dec) : Dec :=
  { x with
    pics := x.pics.map (fun p => { p with isRef := p.isRef && l.contains p.order })
    curs := x.curs.map (fun j => { j with isRef := j.isRef && l.contains j.order }) }

/-- A picture is reached at which the concealed state clears: RECOVERED where it was set (R267). -/
def decRecover (d n : Nat) (s : State) : State :=
  let s1 := modDec d n (fun x => { x with hidden := false, recover := [] }) s
  if (dec s d n).hidden then raiseBit (pgDec d) 8 s1 else s1

/-- A concealment in access unit `idx` (R265–R267): it and the pictures after it are concealed, up to one at which the state clears, which
is RECOVERED where no earlier concealment made it so; a recovery signalled before it no longer counts. -/
def concealFrom (d n idx : Nat) (s : State) : State :=
  let stop := (dec s d n).curs.find? (fun j => j.clean && decide (idx < j.idx))
  let hit := fun (i : Nat) => decide (idx ≤ i) && (match stop with
    | none => true
    | some k => decide (i < k.idx))
  let s := modDec d n (fun x => { x with
    curs := x.curs.map (fun j => if hit j.idx then { j with bad := true }
      else if stop.any (fun k => decide (k.idx = j.idx)) then { j with told := true } else j)
    hidden := x.hidden || stop.isNone
    recover := x.recover.filter (fun r => decide (idx < r.1)) }) s
  if stop.any (fun k => !k.told) then raiseBit (pgDec d) 8 s else s

/-- The area of CTU `i` is covered. -/
def inRuns (l : List (Nat × Nat)) (i : Nat) : Bool := l.any (fun e => decide (e.1 ≤ i) && decide (i < e.1 + e.2))

/-- CTUs, or macroblocks, of a picture. -/
def ctuCount (w h ctu : Nat) : Nat := cdiv w ctu * cdiv h ctu

/-- Every CTU of the picture is covered by a correctly decoded slice (R266). -/
def coveredAll (j : DecJob) : Bool := (List.range (ctuCount j.width j.height j.ctu)).all (inRuns j.good)

/-- What a reference gives to the decoding: the decodings it shows, and their CTUs. -/
def refContent (x : Dec) (r : Option Nat) : List (Nat × List (Nat × Nat)) :=
  match r with
  | none => []
  | some i => ((x.pics.find? (fun p => decide (p.idx = i))).map (fun p => p.layers.map (fun l => (l.key, l.good)))).getD []

/-- The decodings that picture `j` shows: its own where slices covered it, and for the rest those of the picture decoded before it, or
none, which is mid-grey (R266). -/
def picLayers (codec : Nat) (x : Dec) (j : DecJob) : List DecLayer :=
  let own : DecLayer := { key := Config.decodePicture codec j.hist j.data (j.refs.map (refContent x)), width := j.width, height := j.height,
                          ctu := j.ctu, eight := decide (codec = 0), good := j.good }
  if coveredAll j then [own] else if j.good = [] then ((x.pics.head?).map (fun p => p.layers)).getD []
  else own :: ((x.pics.head?).map (fun p => p.layers)).getD []

/-- A decoded picture is complete in its stall: clean unless concealed (R266, R267). A CTU that no slice covered is concealed. -/
def decFinish (d n : Nat) (j0 : DecJob) (s : State) : State :=
  let c := decCfg (effW s) d n
  let open' := !coveredAll j0
  let s := if open' && !j0.hurt then raiseBit (pgDec d) 1 s else s
  let s := if open' then concealFrom d n j0.idx s else s
  let j := { j0 with bad := j0.bad || open' }
  let x := dec s d n
  let p : DecPic := { due := j.due, concealed := j.bad, width := j.width, height := j.height, idx := j.idx, order := j.order
                      isRef := ((x.curs.find? (fun k => decide (k.idx = j.idx))).map (fun k => k.isRef)).getD false
                      stall := j.stall, layers := picLayers c.codec x j, pinned := 0 }
  let s := modDec d n (fun x => freeDone s.time.now { x with
    curs := x.curs.filter (fun k => decide (k.idx ≠ j.idx)), pics := p :: x.pics }) s
  let s := storeWords d (4096 * c.base + 2 ^ 23 + j.stall * c.stallSize) c.stallSize s
  if j.bad then bump (pgDec d) (64 + n) 1 s else s

/-- The access unit is decoded: reference substitution, refresh and recovery points, and its slices to come. -/
def decBegin (d n : Nat) (c : DecCfg) (a : AuSt) (au : AccessUnit) (s : State) : State :=
  let x := dec s d n
  let idx := x.auCount
  let subs := missingRefs x au
  let sub := substitute x
  let refs := au.refs.map (fun r => match refAt x r with
    | some i => some i
    | none => sub) ++ List.replicate au.gaps sub
  let s := modDec d n (fun x => { x with auCount := idx + 1, lastPres := some a.pres }) s
  let s := bump (pgDec d) n subs (raiseN (pgDec d) 0 subs s)
  let reached := decide (au.refreshKind = 1 ∨ au.refreshKind = 2) || (decide (subs = 0) &&
    ((dec s d n).recover.any (fun r => decide (r.2 ≤ au.order)) || (decide (3 ≤ au.refreshKind) && decide (au.recovery = 0))))
  let told := (dec s d n).hidden
  let s := if reached then decRecover d n s else s
  let s := if 0 < subs then concealFrom d n idx s else s
  let s := if 3 ≤ au.refreshKind ∧ 0 < au.recovery ∧ subs = 0 then
      modDec d n (fun x => { x with recover := x.recover ++ [(idx, au.order + au.recovery)] }) s
    else s
  let s := modDec d n (fun x => freeDone s.time.now (keepRefs au.keep x)) s
  let x := dec s d n
  let j : DecJob := { no := a.no, due := dueOf c a.pres, idx := idx, width := au.width, height := au.height, ctu := au.ctu
                      order := au.order, isRef := au.isRef, stall := freeStall x c.stalls, hist := x.hist, data := a.data, refs := refs
                      good := [], slices := au.slices, left := au.slices, ruined := au.headerBad
                      clean := reached && decide (subs = 0), told := told, hurt := false, bad := x.hidden }
  let s := modDec d n (fun x => { x with curs := x.curs ++ [j], hist := Config.streamKey x.hist a.data }) s
  if au.slices = 0 then decFinish d n j s else s

/-- Presentation times of access units that wait, oldest first, from anchor `an`: each one that the anchor puts more than 100 ms from its
arrival is itself the next anchor (R259). Answers them, the anchor and how often the source re-anchored. -/
def reTime (c : DecCfg) : Option (Nat × Nat) → List AuSt → List AuSt × Option (Nat × Nat) × Nat
  | an, [] => ([], an, 0)
  | an, b :: r =>
    let p := presTime c an b.tau b.first
    if reanchors c an p b.first then
      let z := reTime c (some (b.tau, b.first)) r
      ({ b with pres := (9 * b.first : Nat) } :: z.1, z.2.1, z.2.2 + 1)
    else
      let z := reTime c an r
      ({ b with pres := p } :: z.1, z.2.1, z.2.2)

/-- An ARRIVAL source takes a new anchor, or none: what waits is timed again, and so is what is open (R259). -/
def setAnchor (d n : Nat) (an : Option (Nat × Nat)) (s : State) : State :=
  let c := decCfg (effW s) d n
  if c.arrival then
    let x := dec s d n
    let z := reTime c an x.aus
    raiseN (pgDec d) 5 z.2.2 (modDec d n (fun x => { x with
      anchor := z.2.1, aus := z.1, open_ := x.open_.map (fun o => { o with pres := presTime c z.2.1 o.tau o.first }) }) s)
  else s

/-- An access unit is discarded: its bytes still count as the stream's. -/
def dropAu (d n : Nat) (a : AuSt) (s : State) : State := modDec d n (fun x => { x with hist := Config.streamKey x.hist a.data }) s

/-- The first access unit after AWAITING or UNSUPPORTED is a refresh (R263): it anchors an ARRIVAL source, and entry at a GDR picture or a
recovery-point SEI is concealed. -/
def decEnter (d n : Nat) (c : DecCfg) (a : AuSt) (au : AccessUnit) (s0 s : State) : State :=
  let s := setAnchor d n (some (a.tau, a.first)) (modDec d n (fun x => { x with st := dsDecoding }) s)
  let s := if 3 ≤ au.refreshKind then modDec d n (fun x => { x with hidden := true }) s else s
  decConds d s0 (decBegin d n c a au s)

/-- The access unit under the parameter sets in use: a damaged one is ignored, and the previous one stays (R266). -/
def underParams (x : Dec) (au : AccessUnit) : AccessUnit :=
  match x.params with
  | none => au
  | some q =>
    if au.paramsBad then
      { au with profile := q.profile, constrained := q.constrained, level := q.level, chroma := q.chroma, depth := q.depth
                fieldCoded := q.fieldCoded, reordered := q.reordered, multilayer := q.multilayer, width := q.width, height := q.height
                ctu := q.ctu, dpb := q.dpb }
    else au

/-- There are parameter sets to decode with: an undamaged one, or a previous one. -/
def hasParams (x : Dec) (au : AccessUnit) : Bool := !au.paramsBad || x.params.isSome

/-- ACCESS_UNIT_CUTOFF (R260, R263, R264): decoding of the oldest access unit begins, or it is discarded. -/
def accessUnitOp (d n : Nat) (au0 : AccessUnit) (s00 : State) : State :=
  let s0 := match (dec s00 d n).aus with
    | a :: _ =>
      if (dec s00 d n).open_.map (fun o => o.no) = some a.no then decFlush d n (cutoffNs (decCfg (effW s00) d n) a.pres - 1) s00 else s00
    | [] => s00
  let c := decCfg (effW s0) d n
  let x := dec s0 d n
  match x.aus with
  | [] => s0
  | a :: rest =>
    let au := underParams x au0
    let s := advance (cutoffNs c a.pres) (modDec d n (fun x => { x with
      aus := rest, prevPres := some a.pres, params := if au0.paramsBad then x.params else some au0 }) s0)
    let ok := hasParams x au0 && auSupported c (decUsers s.eff (64 * d + n)) x.prevPres a.pres au
    let soon := tooSoon c x.lastPres a.pres
    if x.st = dsAwaiting ∨ x.st = dsUnsupported then
      if ok && decide (au.refreshKind ≠ 0) then
        if soon then raiseBit (pgDec d) 3 (raiseBit (pgDec d) 9 (dropAu d n a s)) else decEnter d n c a au s0 s
      else raiseBit (pgDec d) 3 (dropAu d n a s)
    else if x.st = dsDecoding then
      if !ok then
        raiseBit (pgDec d) 3 (decConds d s0 (setAnchor d n none (dropAu d n a (modDec d n (fun x => { x with
          st := dsUnsupported, recover := [] }) s))))
      else if soon then raiseBit (pgDec d) 9 (dropAu d n a s) else decBegin d n c a au s
    else s

/-- A slice of the oldest picture in decoding is complete in its stall, and covers `area`; a damaged one is concealed (R266, R271); a
damaged VVC picture header damages them all. A loss mark outside every slice damages none: what was lost covers no CTU. -/
def slicePointOp (d n : Nat) (damaged : Bool) (area : List (Nat × Nat)) (s : State) : State :=
  match (dec s d n).curs with
  | [] => s
  | j :: rest =>
    let hurt := damaged || j.ruined
    let j' := { j with left := j.left - 1, hurt := j.hurt || hurt, bad := j.bad || hurt
                       good := if hurt then j.good else area ++ j.good }
    let s := modDec d n (fun x => { x with curs := j' :: rest }) s
    let s := if hurt then raiseBit (pgDec d) 1 (concealFrom d n j.idx s) else s
    if j.left ≤ 1 then decFinish d n j' s else s

/-- DUE_TIME (R260, R266): slices that are still undecoded at the picture's due time are damaged. -/
def dueTimeOp (d n : Nat) (s : State) : State :=
  match (dec s d n).curs with
  | [] => s
  | j :: _ =>
    let s := advance (cdiv j.due.toNat 9) s
    decFinish d n { j with hurt := true, bad := true } (raiseN (pgDec d) 1 j.left (concealFrom d n j.idx s))

/-! ## Samples (R258, R265, R266) -/

/-- A sample of the pictures stacked in `l` at 10 bits: component, column, line (chroma at half resolution). An 8-bit sample is shifted
left by 2; where no decoding covers the sample it is mid-grey. -/
def layersPx : List DecLayer → Nat → Nat → Nat → Nat
  | [], _, _, _ => 512
  | a :: r, k, x, y =>
    let lx := if k = 0 then x else 2 * x
    let ly := if k = 0 then y else 2 * y
    if lx < a.width ∧ ly < a.height ∧ inRuns a.good (ly / a.ctu * cdiv a.width a.ctu + lx / a.ctu) = true then
      let v := Config.decodedSample a.key k x y
      if a.eight then v % 256 * 4 else v % 1024
    else layersPx r k x y

/-! ## Offers (R261, R171) -/

/-- Newest decoded picture due no later than picture boundary `n` of a canvas of format `f`. -/
def newestDue (x : Dec) (f : Fmt) (n : Nat) : Option DecPic :=
  x.pics.find? (fun p => decide (p.due * (f.num : Int) ≤ (9 * n * f.den * 1000000000 : Nat)))

/-- What a source offers at T_n (R261): the picture, whether it is marked concealed, and whether it stands in for a missing
one. -/
def offerOf (c : DecCfg) (x : Dec) (f : Fmt) (n : Nat) : Option (DecPic × Bool × Bool) :=
  let r := rateOf c.rate
  if x.st ≠ dsDecoding then none
  else
    match newestDue x f n with
    | none => none
    | some p =>
      let t : Int := (9 * n * f.den * 1000000000 * r.1 : Nat)
      let due := p.due * (f.num * r.1 : Nat)
      let ps : Int := ((9 * r.2 * 1000000000 + 900000 * r.1) * f.num : Nat)
      if t - ps < due then some (p, p.concealed, false)
      else if t - 2 * ps < due then some (p, true, true)
      else none

end Sys2Proof.Machine
end

