-- ==== Sys2Proof/Machine/Pixels.lean ====
section
/-! DEFINITION. The paddock's arithmetic on samples: upsampling, scaling, colour conversion, blending and the output
sampling (R172, R177–R180). A sample has three components and an alpha of 12 bits. -/

namespace Sys2Proof.Machine

open Sys2Proof

/-- A pixel of 12-bit components. -/
structure Px where
  a0 : Nat
  a1 : Nat
  a2 : Nat
  al : Nat
  deriving DecidableEq, Repr

/-- Component `i`, alpha as the fourth. -/
def Px.at (p : Px) (i : Nat) : Nat := if i = 0 then p.a0 else if i = 1 then p.a1 else if i = 2 then p.a2 else p.al

/-- A pixel from its components. -/
def Px.of (f : Nat → Nat) : Px := { a0 := f 0, a1 := f 1, a2 := f 2, al := f 3 }

/-- A stored sample as three components, opaque. -/
def unpackPx (v : Nat) : Px := { a0 := v % 4096, a1 := v / 4096 % 4096, a2 := v / 16777216 % 4096, al := 4095 }

/-- Three components as one stored sample. -/
def packPx (c : Nat → Nat) : Nat := c 0 + 4096 * c 1 + 16777216 * c 2

/-- `x` held to 12 bits. -/
def clamp12 (x : Int) : Nat := (clampI x 0 4095).toNat

/-- R177 step 1 for a live input: 4:2:2 chroma at odd samples is interpolated, 10-bit values become 12-bit. -/
def inputPx (line : Nat → Nat) (w samp x : Nat) : Px :=
  let p := unpackPx (line x)
  let q := if samp = 0 ∧ x % 2 = 1 then
      let l := unpackPx (line (x - 1))
      let r := if x + 1 < w then unpackPx (line (x + 1)) else l
      { p with a1 := (l.a1 + r.a1 + 1) / 2, a2 := (l.a2 + r.a2 + 1) / 2 }
    else p
  if samp ≤ 2 then { a0 := q.a0 * 4 % 4096, a1 := q.a1 * 4 % 4096, a2 := q.a2 * 4 % 4096, al := 4095 } else q

/-- R177 step 1 for a decoded layer: 4:2:0 at 10 bits becomes 4:2:2 (how, the manual does not say), then 4:4:4 and 12 bits as a live
input's 4:2:2 does. -/
def decodedPx (p : DecPic) (x y : Nat) : Px :=
  let h := cdiv p.height 2
  let c422 := fun k x => (Config.chromaLine (y % 2) (layersPx p.layers k (x / 2) (if y % 2 = 0 then y / 2 - 1 else y / 2))
    (layersPx p.layers k (x / 2) (if y % 2 = 0 then y / 2 else min (y / 2 + 1) (h - 1)))) % 1024
  let c444 := fun k =>
    if x % 2 = 0 then c422 k x
    else
      let l := c422 k (x - 1)
      (l + (if x + 1 < p.width then c422 k (x + 1) else l) + 1) / 2
  { a0 := layersPx p.layers 0 x y * 4, a1 := c444 1 * 4, a2 := c444 2 * 4, al := 4095 }

/-- R177 step 1 for a drawn layer: the word of a pixel, widened by bit replication. PRESUMED: alpha in the top bits, then
the three components. -/
def drawnPx (fmt : Bool) (w : Nat) : Px :=
  if fmt then
    let x := fun s => let v := w / 2 ^ s % 1024
                      v * 4 + v / 256
    { a0 := x 20, a1 := x 10, a2 := x 0, al := w / 2 ^ 30 % 4 * 1365 }
  else
    let x := fun s => let v := w / 2 ^ s % 256
                      v * 16 + v / 16
    { a0 := x 16, a1 := x 8, a2 := x 0, al := x 24 }

/-! ## Scaling (R172) -/

/-- The phase of output position `y` (R172). -/
def phaseOf (src dst y : Nat) : Nat :=
  (64 * (((2 * y + 1) * src : Nat) - (dst : Int) - (2 * dst : Nat) * srcPos src dst y) / (2 * dst : Nat)).toNat

/-- Source index `i` held to the crop of `n`. -/
def cropI (i : Int) (n : Nat) : Nat := (clampI i 0 ((n : Int) - 1)).toNat

/-- One pass: Σ coefficient × sample, rounded. -/
def tapSum12 (n : Nat) (coef : Nat → Int) (v : Nat → Nat) : Nat :=
  clamp12 (((List.range n).foldl (fun a t => a + coef t * (v t : Int)) 0 + 128) / 256)

/-- A scaled component at (x, y) of the destination, `src` giving samples relative to the crop. -/
def scaleAt (c : LayCfg) (hc vc : Nat → Nat → Int) (src : Nat → Nat → Nat) (x y : Nat) : Nat :=
  let ix := srcPos c.srcW c.dstW x
  let iy := srcPos c.srcH c.dstH y
  let row := fun l => tapSum12 8 (hc (phaseOf c.srcW c.dstW x)) (fun t => src (cropI (ix - 3 + t) c.srcW) l)
  tapSum12 6 (vc (phaseOf c.srcH c.dstH y)) (fun t => row (cropI (iy - 2 + t) c.srcH))

/-! ## Colour (R177). PRESUMED: the constants of BT.709 and BT.2020, each matrix with its range scaling in one constant. -/

/-- Kr and Kb of a matrix code, in ten-thousandths. -/
def lumaK (m : Nat) : Nat × Nat := if m = 1 then (2126, 722) else (2627, 593)

/-- `num / den` rounded to the nearest multiple of 2^-12. -/
def q12 (num den : Int) : Int := (2 * num * 4096 + den) / (2 * den)

/-- Range of luma and chroma at 12 bits: offset, luma span, chroma span. -/
def rangeOf (full : Bool) : Int × Int × Int := if full then (0, 4095, 4095) else (256, 3504, 3584)

/-- A sum of three products with 2^-12 constants, rounded half up. -/
def mul3 (k0 k1 k2 a b c : Int) : Int := (k0 * a + k1 * b + k2 * c + 2048) / 4096

/-- Step 3: source components to full-range R'G'B'. -/
def inMatrix (m : Nat) (full : Bool) (p : Px) : Px :=
  if m = 0 then p
  else
    let k := lumaK m
    let r := rangeOf full
    let kr : Int := k.1
    let kb : Int := k.2
    let kg : Int := 10000 - kr - kb
    let y : Int := p.a0 - r.1
    let u : Int := p.a1 - 2048
    let v : Int := p.a2 - 2048
    let ky := q12 4095 r.2.1
    let kR := q12 (4095 * 2 * (10000 - kr)) (10000 * r.2.2)
    let kB := q12 (4095 * 2 * (10000 - kb)) (10000 * r.2.2)
    let gU := q12 (-(4095 * 2 * kb * (10000 - kb))) (10000 * kg * r.2.2)
    let gV := q12 (-(4095 * 2 * kr * (10000 - kr))) (10000 * kg * r.2.2)
    { p with a0 := clamp12 (mul3 ky 0 kR y u v), a1 := clamp12 (mul3 ky gU gV y u v), a2 := clamp12 (mul3 ky kB 0 y u v) }

/-- Step 6: R'G'B' to the canvas's Y'CbCr. -/
def outMatrix (m : Nat) (full : Bool) (p : Px) : Px :=
  let k := lumaK (m + 1)
  let r := rangeOf full
  let kr : Int := k.1
  let kb : Int := k.2
  let kg : Int := 10000 - kr - kb
  let c := fun n => q12 (n * r.2.1) (10000 * 4095)
  let b := fun n => q12 (n * r.2.2) (2 * (10000 - kb) * 4095)
  let d := fun n => q12 (n * r.2.2) (2 * (10000 - kr) * 4095)
  { p with
    a0 := clamp12 (mul3 (c kr) (c kg) (c kb) p.a0 p.a1 p.a2 + r.1)
    a1 := clamp12 (mul3 (b (-kr)) (b (-kg)) (b (10000 - kb)) p.a0 p.a1 p.a2 + 2048)
    a2 := clamp12 (mul3 (d (10000 - kr)) (d (-kg)) (d (-kb)) p.a0 p.a1 p.a2 + 2048) }

/-- Halfword `n` of a run of words that begins at offset `off` of LAYER page `i`. -/
def layHalf (g : Nat → Word) (i off n : Nat) : Nat := fld (g (layLoc i (off + 2 * n / 4 * 4))) (16 * (n % 2) + 15) (16 * (n % 2))

/-- Step 4: the programmable matrix. -/
def progMatrix (g : Nat → Word) (i : Nat) (p : Px) : Px :=
  let m := fun r c => sgn 16 (layHalf g i 0x184 (3 * r + c))
  let o := fun r => clamp12 ((m r 0 * p.a0 + m r 1 * p.a1 + m r 2 * p.a2 + 2048) / 4096 + sgn 16 (layHalf g i 0x198 r))
  { p with a0 := o 0, a1 := o 1, a2 := o 2 }

/-- Step 5: the transfer tables. -/
def tables (g : Nat → Word) (i : Nat) (p : Px) : Px :=
  let t := fun c n => layHalf g i 0x200 (33 * c + n) % 4096
  let o := fun c (v : Nat) =>
    let j := v / 128
    clamp12 ((t c j : Int) + (((t c (j + 1) : Int) - t c j) * (v % 128 : Nat) + 64) / 128)
  { p with a0 := o 0 p.a0, a1 := o 1 p.a1, a2 := o 2 p.a2 }

/-- Steps 3 to 6 of R177 for LAYER page `i`. DESIGN CHOICE: a still or graphics layer whose IN_MATRIX is not 0x0, which R177 says it must use
without a consequence, is converted by the matrix it names, as a video layer is. -/
def convert (g : Nat → Word) (i : Nat) (p : Px) : Px :=
  let w := g (layLoc i 0x180)
  let im := fld w 1 0
  let om := fld w 11 10
  let mx := bitOf w 8
  let tb := bitOf w 9
  if im = om + 1 ∧ bitOf w 4 = bitOf w 12 ∧ mx = false ∧ tb = false then p
  else
    let p := inMatrix im (bitOf w 4) p
    let p := if mx then progMatrix g i p else p
    let p := if tb then tables g i p else p
    outMatrix om (bitOf w 12) p

/-! ## Blending (R180) and the output sampling (R178) -/

/-- One layer's pixel over the accumulator. -/
def blend (c : LayCfg) (l acc : Px) : Px :=
  let gl := c.alpha * 16 + c.alpha / 16
  let a := ((if c.video then 4095 else l.al) * gl + 2047) / 4095
  let o := fun i =>
    if c.kind = 4 ∧ c.premult = true then min 4095 ((gl * l.at i + 2047) / 4095 + ((4095 - a) * acc.at i + 2047) / 4095)
    else (a * l.at i + (4095 - a) * acc.at i + 2047) / 4095
  { a0 := o 0, a1 := o 1, a2 := o 2, al := 4095 }

/-- 12 bits to 10 (R178). -/
def to10 (v : Nat) : Nat := min ((v + 2) / 4) 1023

/-- The 4:2:2 filter at even `x` of a line of `w` samples (R178). -/
def chroma422 (line : Nat → Nat) (w x : Nat) : Nat :=
  (line (x - 1) + 2 * line x + line (min (x + 1) (w - 1)) + 2) / 4

end Sys2Proof.Machine
end

