-- ==== Sys2Proof/Machine/Paddock.lean ====
section
/-! DEFINITION. The paddock: which source picture a layer shows, flip groups and fences, compose start and canvas point, the
marks of a furrow, and the canvas itself (R163–R194). -/

namespace Sys2Proof.Machine

open Sys2Proof

/-- The PAD page of die `d`. -/
def pgPad (d : Nat) : Nat := pkey d 0x105

/-- A layer in effect, by LAYER page index. -/
def layerSt (s : State) (i : Nat) : LayerSt := s.layers.get (fun _ => {}) i

/-- The state with a layer changed by `f`. -/
def modLayer (i : Nat) (f : LayerSt → LayerSt) (s : State) : State := { s with layers := s.layers.set (fun _ => {}) i (f (layerSt s i)) }

/-- Flip group `g` of die `d`. -/
def group (s : State) (d g : Nat) : Group := s.groups.get (fun _ => {}) (64 * d + g)

/-- The state with a flip group changed by `f`. -/
def modGroup (d g : Nat) (f : Group → Group) (s : State) : State :=
  { s with groups := s.groups.set (fun _ => {}) (64 * d + g) (f (group s d g)) }

/-- The slot, as (die, slot), that a live-input layer reads. -/
def layerSlot (g : Nat → Word) (c : LayCfg) : Nat × Nat := (entDie c.source, (entCfg g c.source).target)

/-- Layer `i` is stale for picture `n` (R187, R194): counted once for a picture. -/
def markStale (ch n i : Nat) (missing : Bool) (s : State) : State :=
  match pic? s ch n with
  | none => s
  | some p =>
    if p.staleL.contains i then s
    else
      let s := bump (pgLayer i) 0 1 (raiseBit (pgLayer i) 0 s)
      let s := if missing then raiseBit (pgLayer i) 5 s else s
      modPic ch n (fun p => { p with staleL := NSet.add p.staleL i }) s

/-! ## Sources at a picture boundary (R168, R171, R261) -/

/-- A live-input layer selects its source picture; repeats and skips are told from the canvas picture before, while the layer stays with
its source (R168). -/
def selectLive (ch n i : Nat) (p : Pic) (s : State) : State :=
  let g := picG s ch p
  let c := layCfg g i
  let sl := layerSlot g c
  let m := sourcePic c (picFmt ch p) (slotCfg g sl.1 sl.2) (canvasAllow p.cfg ch) n
  let s := match (layerSt s i).m with
    | none => s
    | some (src, m0) =>
      if src ≠ c.source then s
      else if m = m0 then bump (pgLayer i) 3 1 (raiseBit (pgLayer i) 3 s)
      else if m0 + 1 < m then bump (pgLayer i) 4 (m - m0 - 1).toNat (raiseBit (pgLayer i) 4 s)
      else s
  modPic ch n (fun p => { p with layerPic := p.layerPic.set (fun _ => none) i (some m) })
    (modLayer i (fun l => { l with m := some (c.source, m) }) s)

/-- A picture of a source is pinned once more (`up`), or once less (R261). -/
def pinDec (v : ShownDec) (up : Bool) (s : State) : State :=
  modDec (v.source / 64) (v.source % 64) (fun x => freeDone s.time.now { x with pics := x.pics.map (fun y =>
    if y.idx = v.pic.idx ∧ y.due = v.pic.due then { y with pinned := if up then y.pinned + 1 else y.pinned - 1 } else y) }) s

/-- A decoded layer takes what its source offers; with no picture, or one too small, it keeps the last and is stale (R171, R261). -/
def selectDecoded (ch n i : Nat) (p : Pic) (s : State) : State :=
  let c := layCfg (picG s ch p) i
  let d := c.source / 64
  let q := c.source % 64
  let o := offerOf (decCfg (effW s) d q) (dec s d q) (picFmt ch p) n
  let s := match o with
    | none => markStale ch n i true s
    | some r =>
      let s := if r.2.2 then raiseBit (pgDec d) 2 s else s
      let s := modPic ch n (fun p => { p with offers := (i, r.1.due, r.2.1) :: p.offers }) s
      if r.1.height < c.srcY + c.srcH ∨ r.1.width < c.srcX + c.srcW then markStale ch n i true s
      else modLayer i (fun l => { l with shown := some { source := c.source, pic := r.1, concealed := r.2.1 } }) s
  match (layerSt s i).shown with
  | none => s
  | some v =>
    let s := pinDec v true (modPic ch n (fun p => { p with shown := (i, v) :: p.shown }) s)
    if v.concealed then bump (pgLayer i) 2 1 (raiseBit (pgLayer i) 2 s) else s

/-- Layers that a canvas no longer shows keep nothing of what they showed (R168, R171). -/
def leaveLayers (ch : Nat) (t : Tbl Word) (s : State) : State :=
  (s.layers.filter (fun e => decide (e.2.ch = some ch) && !(canvasLayers t ch).contains e.1)).foldl (fun s e => modLayer e.1 (fun _ => {}) s) s

/-- Every layer of the canvas of picture `n` selects its source. -/
def selectSources (ch n : Nat) (s : State) : State :=
  match pic? s ch n with
  | none => s
  | some p =>
    (canvasLayers p.cfg ch).foldl (fun s i =>
      let c := layCfg (picG s ch p) i
      let s := modLayer i (fun l => if l.ch = some ch then l else { ch := some ch }) s
      if c.kind = 2 then selectLive ch n i p s else if c.kind = 3 then selectDecoded ch n i p s else s) (leaveLayers ch p.cfg s)

/-- The canvas starts afresh when its channel leaves ARMED: no layer has shown a picture, and a group that has not flipped counts from
this first picture (R183). -/
def canvasStart (ch : Nat) (s : State) : State :=
  (canvasLayers s.eff ch).foldl (fun s i => modLayer i (fun _ => {}) s) (modChan ch (fun c => { c with first := c.begun + 1 }) s)

/-! ## Fences (R182–R186) -/

/-- Address of a die's fence block. -/
def fenceBase (g : Nat → Word) (d : Nat) : Nat := 4096 * fld (g (ploc (pgPad d) 0x100)) 21 0

/-- RELEASED of a group is written (R183). -/
def writeReleased (d g v : Nat) (s : State) : State :=
  modGroup d g (fun x => { x with released := v }) (dramWrite32 d (fenceBase (effW s) d + 16 * g + 8) v s)

/-- Picture `n` of a channel is composed to its last canvas point, or is no longer in progress. -/
def composedThrough (s : State) (ch n : Nat) : Bool :=
  match pic? s ch n with
  | none => true
  | some p => (fur p ((picFmt ch p).furrows - 1)).complete

/-- Layers of a canvas that belong to flip group `g`. -/
def groupLayers (t : Tbl Word) (ch g : Nat) : List Nat :=
  (canvasLayers t ch).filter (fun i => (layCfg (getW t) i).drawn && decide ((layCfg (getW t) i).group = g))

/-- Pictures passed since the last flip of a group on the canvas, or since the first picture the canvas composed; the newest picture is
the one that begins (R183). -/
def passedFlip (s : State) (ch d g : Nat) : Nat :=
  (chan s ch).begun - (match (group s d g).flipAt with
    | none => (chan s ch).first
    | some (c, n) => if c = ch then n else (chan s ch).first)

/-- One flip group at boundary `n` (R183). -/
def fenceGroup (ch n : Nat) (t : Tbl Word) (s : State) (g : Nat) : State :=
  let d := ch / 32
  let ls := groupLayers t ch g
  let q := (ls.map (fun i => (layCfg (getW t) i).cadence)).headD 0
  let x := group s d g
  let fence := dramRead32 s d (fenceBase (effW s) d + 16 * g)
  let e := (fence + 2 ^ 32 - x.flipped) % 2 ^ 32
  let due := decide (0 < q) && decide (q ≤ passedFlip s ch d g)
  let s :=
    if 1 ≤ e ∧ e < 2 ^ 31 then
      let s := dramWrite32 d (fenceBase (effW s) d + 16 * g + 4) fence s
      let s := modGroup d g (fun x => { x with flipAt := some (ch, (chan s ch).begun), flipped := fence }) s
      let s := bump (pgPad d) (64 + g) 1 (bump (pgPad d) 0 1 s)
      let s := ls.foldl (fun s i => bump (pgLayer i) 5 1 s) s
      let s := modPic ch n (fun p => { p with flippedG := NSet.add p.flippedG g }) s
      if n = 0 ∨ composedThrough s ch (n - 1) = true then writeReleased d g fence s
      else modGroup d g (fun x => { x with releases := x.releases ++ [(fence, ch, n - 1)] }) s
    else
      let s := if 2 ^ 31 ≤ e then bump (pgPad d) 2 1 (raiseBit (pgPad d) 1 s) else s
      if due then ls.foldl (fun s i => markStale ch n i false s) (bump (pgPad d) 1 1 (raiseBit (pgPad d) 0 s)) else s
  modPic ch n (fun p => { p with fences := p.fences.set (fun _ => 0) g (group s d g).flipped }) s

/-- The fences that a canvas reads for its newest picture. DESIGN CHOICE: through port 8. -/
def fenceReads (s : State) (ch : Nat) : List MemRange :=
  match (chan s ch).pics.getLast? with
  | none => []
  | some p =>
    if p.fenced then []
    else ((canvasLayers p.cfg ch).filter (fun i => (layCfg (getW p.cfg) i).drawn)).map (fun i =>
      { who := 8, die := ch / 32, addr := fenceBase (effW s) (ch / 32) + 16 * (layCfg (getW p.cfg) i).group, len := 4 })

/-- FENCE_READ: the fences of every group of the canvas of the newest picture, once (R183, R184). -/
def fenceReadOp (ch : Nat) (s : State) : State :=
  match (chan s ch).pics.getLast? with
  | none => s
  | some p =>
    if p.fenced || !chComposed (picG s ch p) ch then s
    else
      let gs := ((canvasLayers p.cfg ch).filter (fun i => (layCfg (getW p.cfg) i).drawn)).map (fun i => (layCfg (getW p.cfg) i).group)
      gs.eraseDups.foldl (fenceGroup ch p.n p.cfg) (modPic ch p.n (fun p => { p with fenced := true }) s)

/-- A changed fence base: FLIPPED and RELEASED of every group are written into the new block (R167). -/
def fencesTakeEffect (old : Nat → Word) (s : State) : State :=
  (List.range (dies s)).foldl (fun (s : State) d =>
    if fenceBase old d = fenceBase (effW s) d then s
    else (List.range 64).foldl (fun (s : State) g =>
      let a := fenceBase (effW s) d + 16 * g
      dramWrite32 d (a + 8) (group s d g).released (dramWrite32 d (a + 4) (group s d g).flipped s)) s) s

/-! ## The canvas's samples (R172–R180) -/

/-- Key of a canvas sample: its line's address in the die's DRAM, in units of 256 bytes, and its column. A canvas buffer holds three
pictures (R166). -/
def canvKey (t : Tbl Word) (ch n y x : Nat) : Nat :=
  let a := canvasBuf t ch + ((n % 3) * (chFmt (getW t) ch).h + y) * canvasStride t ch
  (2 ^ 34 * (ch / 32) + a) / 256 * 8192 + x

/-- A source sample of layer `i`, relative to its crop, at 12 bits. -/
def sourcePx (s : State) (ch : Nat) (p : Pic) (i : Nat) (c : LayCfg) (x y : Nat) : Px :=
  let g := picG s ch p
  let sx := if c.num = 0 then x else c.srcX + x
  let sy := if c.num = 0 then y else c.srcY + y
  if c.kind = 2 then
    let sl := layerSlot g c
    let sc := slotCfg g sl.1 sl.2
    match p.layerPic.get (fun _ => none) i with
    | some (.ofNat m) => inputPx (fun j => s.slotPx.get (fun _ => 0) (pxKey sl.1 sl.2 m sy j)) sc.w sc.samp sx
    | _ => inputPx (fun _ => blackPx sc.samp) sc.w sc.samp sx
  else if c.kind = 3 then
    match p.shown.find? (fun o => decide (o.1 = i)) with
    | some o => decodedPx o.2.pic sx sy
    | none => unpackPx (Config.unshownSample i sx sy)
  else
    let b := layBuf g i (p.fences.get (fun _ => 0) c.group % (c.nbuf + 1))
    drawnPx c.fmt (dramRead32 s b.1 (b.2 + sy * (256 * c.pitch) + 4 * sx))

/-- Layer `i` at canvas sample (x, y), in canvas components. -/
def layerPx (s : State) (ch : Nat) (p : Pic) (i x y : Nat) : Px :=
  let g := picG s ch p
  let c := layCfg g i
  if c.kind = 0 then
    { a0 := fld (g (layLoc i 0x138)) 11 0, a1 := fld (g (layLoc i 0x138)) 27 16, a2 := fld (g (layLoc i 0x13C)) 11 0, al := 4095 }
  else
    let rx := if c.num = 0 then x else x - c.dstX
    let ry := if c.num = 0 then y else y - c.dstY
    let src := sourcePx s ch p i c
    let v := if c.scaled then Px.of (fun k => scaleAt c (hCoef g (i / 256) c.scaler) (vCoef g (i / 256) c.scaler) (fun a b => (src a b).at k) rx ry)
      else src rx ry
    convert g i v

/-- A layer's rectangle holds (x, y); layer 0 covers the canvas. -/
def LayCfg.covers (c : LayCfg) (x y : Nat) : Bool :=
  decide (c.num = 0) || (decide (c.dstX ≤ x) && decide (x < c.dstX + c.dstW) && decide (c.dstY ≤ y) && decide (y < c.dstY + c.dstH))

/-- The blended canvas at (x, y), 4:4:4 and 12 bits (R179, R180). -/
def canvasPx (s : State) (ch : Nat) (p : Pic) (x y : Nat) : Px :=
  let ls := canvasLayers p.cfg ch
  let cf := layCfg (picG s ch p)
  (blendOrder p.cfg ch).foldl (fun acc num =>
    match ls.find? (fun i => decide ((cf i).num = num)) with
    | none => acc
    | some i =>
      if num = 0 then layerPx s ch p i x y
      else if (cf i).covers x y then blend (cf i) (layerPx s ch p i x y) acc
      else acc) { a0 := 0, a1 := 0, a2 := 0, al := 4095 }

/-- A canvas sample in the channel's sampling (R178): chroma stands at even samples, and for 4:2:0 at even lines. -/
def canvasOut (s : State) (ch : Nat) (p : Pic) (w samp x y : Nat) : Nat :=
  let v := fun k y x => to10 ((canvasPx s ch p x y).at k)
  let h := fun k y => chroma422 (v k y) w x
  packPx (fun k =>
    if k = 0 then v 0 y x
    else if x % 2 = 1 then 0
    else if samp = 1 then h k y
    else if y % 2 = 1 then 0
    else (h k y + h k (y + 1) + 1) / 2)

/-- A sample lies in one of the rectangles. -/
def inRects (l : List (Nat × Nat × Nat × Nat)) (x y : Nat) : Bool :=
  l.any (fun r => decide (r.1 ≤ x) && decide (x < r.2.1) && decide (r.2.2.1 ≤ y) && decide (y < r.2.2.2))

/-- Usable address of line `y` of picture `n` in a canvas buffer, which holds three pictures (R166). -/
def canvasAt (t : Tbl Word) (ch n y : Nat) : Nat :=
  canvasBuf t ch + ((n % 3) * (chFmt (getW t) ch).h + y) * canvasStride t ch

/-- The bytes of canvas line `y` of samples `px`. DESIGN CHOICE: ten bits a sample from the low bit up, Y, then in 4:2:2 Cb and Cr, in 4:2:0
the Cb of the line pair at its even line and the Cr at its odd one; R166 gives a line's length and no more. -/
def canvasLine (samp w : Nat) (px : Nat → Nat → Nat) (y : Nat) : List Byte :=
  let row := fun k y => (List.range (w / 2)).map (fun x => (unpackPx (px (2 * x) y)).at k)
  pack10 ((List.range w).map (fun x => (unpackPx (px x y)).a0) ++
    (if samp = 1 then row 1 y ++ row 2 y else if y % 2 = 0 then row 1 y else row 2 (y - 1)))

/-- A sample as the canvas buffer holds it. -/
def canvasHeld (s : State) (ch : Nat) (p : Pic) (w samp x y : Nat) : Nat :=
  let at_ := fun y i => bits10 s (ch / 32) (canvasAt p.cfg ch p.n y) i
  packPx (fun k =>
    if k = 0 then at_ y x
    else if x % 2 = 1 then 0
    else if samp = 1 then at_ y (w + (k - 1) * (w / 2) + x / 2)
    else if y % 2 = 1 then 0
    else at_ (y + k - 1) (w + x / 2))

/-- The canvas lines of furrow `k` are composed and written to the canvas buffer, but for what lies in `left`: there the buffer keeps what
it held three pictures earlier (R191). Coding takes the samples as they stand at this canvas point (R216). -/
def composeFurrow (ch : Nat) (p : Pic) (k : Nat) (left : List (Nat × Nat × Nat × Nat)) (s : State) : State :=
  let f := picFmt ch p
  let samp := fld (picG s ch p (chLoc ch 0x140)) 5 4
  let ys := List.range' (k * f.c) (f.lineEnd k - k * f.c)
  let px := fun x y => if inRects left x y then canvasHeld s ch p f.w samp x y else canvasOut s ch p f.w samp x y
  ys.foldl (fun s y => dramStore (ch / 32) (canvasAt p.cfg ch p.n y) (canvasLine samp f.w px y) s)
    { s with canvPx := ys.foldl (fun t y => (List.range f.w).foldl (fun t x =>
        t.set (fun _ => 0) (canvKey p.cfg ch p.n y x) (px x y)) t) s.canvPx }

/-! ## Compose start and canvas point (R187–R191) -/

/-- The ready-line count of every live input covers what furrow `k` needs (R189). -/
def sourcesReady (s : State) (ch : Nat) (p : Pic) (k : Nat) : Bool :=
  let g := picG s ch p
  (canvasLayers p.cfg ch).all (fun i =>
    let c := layCfg g i
    if c.kind = 2 then
      match needLine c (picFmt ch p) k with
      | none => true
      | some need =>
        let sl := layerSlot g c
        match p.layerPic.get (fun _ => none) i with
        | some (.ofNat m) => decide (c.srcY + need < (slotPic (slot s sl.1 sl.2) m).ready)
        | _ => true
    else true)

/-- The canvas's preceding furrow has started: the one before in the picture, or the last of the picture before. -/
def precedingStarted (s : State) (ch : Nat) (p : Pic) (k : Nat) : Bool :=
  if k = 0 then
    (match pic? s ch (p.n - 1) with
      | none => true
      | some q => decide (p.n = 0) || (fur q ((picFmt ch q).furrows - 1)).composing)
  else (fur p (k - 1)).composing

/-- COMPOSE_START (R189): the oldest picture in progress whose furrow `k` has not started composes it, once its sources
reach. -/
def composeStartOp (ch k : Nat) (s : State) : State :=
  match (chan s ch).pics.find? (fun p => !(fur p k).composing) with
  | none => s
  | some p =>
    if chComposed (picG s ch p) ch && decide (k < (picFmt ch p).furrows) && sourcesReady s ch p k && precedingStarted s ch p k then
      modFur ch p.n k (fun u => { u with composing := true, composeAt := s.time.now }) s
    else s

/-- Source lines, taps included, that furrow `k` reads of a live-input layer (R187). -/
def linesRead (c : LayCfg) (f : Fmt) (k : Nat) : List Nat :=
  let y0 := max (k * f.c) c.dstY - c.dstY
  let y1 := min (f.lineEnd k) (c.dstY + c.dstH) - c.dstY
  let ys := List.range' y0 (y1 - y0)
  if c.scaled then
    (ys.flatMap (fun y => (List.range 6).map (fun (t : Nat) => c.srcY + cropI (srcPos c.srcH c.dstH y - 2 + t) c.srcH))).eraseDups
  else ys.map (fun y => c.srcY + y)

/-- What furrow `k` reads of a live input: whether its picture had a segment written, and whether a line was filled. A picture before
the epoch is all black fills (R170). -/
def liveInput (s : State) (ch : Nat) (p : Pic) (i k : Nat) : Bool × Bool :=
  let g := picG s ch p
  let c := layCfg g i
  let sl := layerSlot g c
  let x := slot s sl.1 sl.2
  let ls := linesRead c (picFmt ch p) k
  match p.layerPic.get (fun _ => none) i with
  | some (.ofNat m) =>
    let q := slotPic x m
    (q.any && decide (x.first ≤ m), ls.any (fun y => decide ((lineOf q y).st ≠ 1)))
  | _ => (false, !ls.isEmpty)

/-- Layer `i` shows a concealed picture (R187). -/
def showsConcealed (p : Pic) (i : Nat) : Bool := p.shown.any (fun o => decide (o.1 = i) && o.2.concealed)

/-- A layer carries live content for the picture; layer 0 never does (R188). -/
def layerLive (s : State) (ch : Nat) (p : Pic) (i k : Nat) : Bool :=
  let c := layCfg (picG s ch p) i
  if c.num = 0 then false
  else if c.kind = 2 then (liveInput s ch p i k).1
  else if c.kind = 3 then p.offers.any (fun o => decide (o.1 = i))
  else c.drawn && p.flippedG.contains c.group

/-- A layer's stale-layer bit in furrow `k` (R187, R191). -/
def layerStale (s : State) (ch : Nat) (p : Pic) (i k : Nat) (finished : Bool) : Bool :=
  let c := layCfg (picG s ch p) i
  !finished || p.staleL.contains i || (decide (c.kind = 2) && !(liveInput s ch p i k).1) || showsConcealed p i

/-- Releases that waited for the last canvas point of picture `n` of the canvas (R183), of groups the canvas may have lost since. -/
def releaseFences (ch n : Nat) (s : State) : State :=
  let d := ch / 32
  (List.range 64).foldl (fun s g =>
      let isDue := fun (r : Nat × Nat × Nat) => decide (r.2.1 = ch) && decide (r.2.2 ≤ n)
      match ((group s d g).releases.filter isDue).getLast? with
      | none => s
      | some r => writeReleased d g r.1 (modGroup d g (fun x => { x with releases := x.releases.filter (fun r => !isDue r) }) s)) s

/-- Pins of decoded pictures end with the last canvas point of the picture that shows them (R261). -/
def unpinDecoded (p : Pic) (s : State) : State := p.shown.foldl (fun s o => pinDec o.2 false s) s

/-- The canvas's furrow before furrow `k` of picture `p` has passed its canvas point (R22). -/
def precedingDone (s : State) (ch : Nat) (p : Pic) (k : Nat) : Bool :=
  if k = 0 then decide (p.n = 0) || composedThrough s ch (p.n - 1) else (fur p (k - 1)).complete

/-- The stall of picture number `i` of a decode source (R258), whose own layout is internal. DESIGN CHOICE: who reads of it reads all of
it. -/
def decStall (g : Nat → Word) (who d n i : Nat) : MemRange :=
  let c := decCfg g d n
  { who := who, die := d, addr := 4096 * c.base + 2 ^ 23 + i * c.stallSize, len := c.stallSize }

/-- What furrow `k` of a canvas is composed from (R168, R171, R172, R298): lines of live inputs, stills and graphics, and stalls of decoded
pictures. -/
def drawnReads (s : State) (ch k : Nat) : List MemRange :=
  match (chan s ch).pics.find? (fun p => (fur p k).composing && !(fur p k).complete) with
  | none => []
  | some p =>
    let g := picG s ch p
    let f := picFmt ch p
    (canvasLayers p.cfg ch).flatMap (fun i =>
      let c := layCfg g i
      match needLine c f k with
      | none => []
      | some last =>
        let y0 := if c.num = 0 then k * f.c else max (k * f.c) c.dstY - c.dstY
        let y0 := if c.scaled then (max (srcPos c.srcH c.dstH y0 - 2) 0).toNat else y0
        let who := fun d => if d ≠ ch / 32 then 0x42 else if c.scaled then 4 + c.scaler else 8
        let o := if c.num = 0 then (0, 0) else (c.srcX, c.srcY)
        if c.kind = 2 then
          let sl := layerSlot g c
          match p.layerPic.get (fun _ => none) i with
          | some (.ofNat m) => slotReads (slotCfg g sl.1 sl.2) (who sl.1) sl.1 m (o.2 + y0) (last + 1 - y0)
          | _ => []
        else if c.kind = 3 then
          match p.shown.find? (fun o => decide (o.1 = i)) with
          | some o => [decStall g (who (o.2.source / 64)) (o.2.source / 64) (o.2.source % 64) o.2.pic.stall]
          | none => []
        else if !c.drawn then []
        else
          let b := layBuf g i (p.fences.get (fun _ => 0) c.group % (c.nbuf + 1))
          let w := if c.num = 0 then f.w else c.srcW
          (List.range' y0 (last + 1 - y0)).map (fun y =>
            { who := who b.1, die := b.1, addr := b.2 + (o.2 + y) * (256 * c.pitch) + 4 * o.1, len := 4 * w }))

/-- CANVAS_POINT (R187–R191): one furrow period after its compose start the furrow is complete, with its marks; coding of it
may be planted. DESIGN CHOICE: PAD counter 3 counts every furrow whose canvas point passes, one that is late and in part unfinished
too (R193). DESIGN CHOICE: a layer marked stale in a furrow because the furrow was composed late (R191), or because it shows a
concealed picture, sets the furrow's stale-layer bit alone; STAT.STALE and counter 0 of its LAYER page (R194) are those of a source
that was missing or a fence that was missed (R183, R187). -/
def canvasPointOp (ch k : Nat) (left : List (Nat × Nat × Nat × Nat)) (s : State) : State :=
  match (chan s ch).pics.find? (fun p => (fur p k).composing && !(fur p k).complete) with
  | none => s
  | some p =>
    if !precedingDone s ch p k then s
    else
      let finished := left.isEmpty
      let g := picG s ch p
      let f := picFmt ch p
      let d := ch / 32
      let ls := (canvasLayers p.cfg ch).filter (fun i => (layCfg g i).meets f k)
      let live := ls.filter (fun i => decide ((layCfg g i).kind = 2))
      let filled := live.filter (fun i => (liveInput s ch p i k).2)
      let bits := (ls.filter (fun i => layerStale s ch p i k finished)).foldl (fun b i => b ||| 2 ^ (layCfg g i).num) 0
      let s1 := advance ((fur p k).composeAt + cdiv f.furrowU (f.num * f.h)) s
      let s1 := composeFurrow ch p k left s1
      let s1 := if finished then s1 else bump (pgPad d) 4 1 (raiseBit (pgPad d) 2 s1)
      let s1 := bump (pgPad d) 3 1 s1
      let s1 := filled.foldl (fun s i => bump (pgLayer i) 1 1 (raiseBit (pgLayer i) 1 s)) s1
      let s1 := (live.filter (fun i => !(liveInput s ch p i k).1 && !(List.range' (k + 1) (f.furrows - (k + 1))).any ((layCfg g i).meets f))).foldl
        (fun s i => markStale ch p.n i true s) s1
      let s1 := modFur ch p.n k (fun u => { u with
        complete := true
        live := ls.any (fun i => layerLive s ch p i k)
        stale := bits
        inputStale := !filled.isEmpty
        concealed := ls.any (showsConcealed p) }) s1
      if k + 1 = f.furrows then unpinDecoded p (releaseFences ch p.n s1) else s1

/-- Picture `m` of a slot turned out to have no segment written: layers that show it are stale, SRC_MISSING (R170, R194). -/
def sourceMissing (d n m : Nat) (s : State) : State :=
  let q := slotPic (slot s d n) m
  let c := slotCfg (effW s) d n
  if q.ready = c.h ∧ q.any = false ∧ c.valid = true then
    s.chans.foldl (fun s e => e.2.pics.foldl (fun s p =>
      p.layerPic.foldl (fun s l =>
        if l.2 = some (m : Int) ∧ layerSlot (picG s e.1 p) (layCfg (picG s e.1 p) l.1) = (d, n) then markStale e.1 p.n l.1 true s else s) s) s) s
  else s

end Sys2Proof.Machine
end

