-- ==== Sys2Proof/Machine/Barn.lean ====
section
/-! DEFINITION. The barn: reference sets, stall marks, checkpoints, forced actions and gradual refresh (R206–R225), as
operations on a channel. -/

namespace Sys2Proof.Machine

open Sys2Proof

/-- A BARN page's words (R218). -/
structure BarnCfg where
  base : Nat
  ckpt : Bool
  stalls : Nat
  numLong : Nat
  numRef : Nat
  ltPeriod : Nat
  token : Nat
  arg : Nat
  action : Nat
  deriving DecidableEq, Repr

/-- Location of word `off` of a channel's BARN page. -/
def bnLoc (ch off : Nat) : Nat := ploc (chPage 0x240 ch) off

/-- R218. -/
def barnCfg (g : Nat → Word) (ch : Nat) : BarnCfg :=
  let c := g (bnLoc ch 0x104)
  let f := g (bnLoc ch 0x108)
  { base := fld (g (bnLoc ch 0x100)) 21 0, ckpt := bitOf c 31, stalls := fld c 28 24, numLong := fld c 17 16
    numRef := fld c 14 12, ltPeriod := fld c 11 0, token := fld f 31 24, arg := fld f 23 8, action := fld f 3 0 }

/-- Stall size Z (R219). -/
def stallBytes (f : Fmt) (samp : Nat) : Nat :=
  let a := roundUp f.w f.c * roundUp f.h f.c
  roundUp (a * (if samp = 1 then 20 else 15) / 8 + a / 16 + 65536) 4096

/-- Coded sampling of a channel (R196): 0 for 4:2:0, 1 for 4:2:2. -/
def codedSamp (g : Nat → Word) (ch : Nat) : Nat := fld (g (chLoc ch 0x140)) 5 4

/-- Bytes of a channel's stall (R219). -/
def stallSize (g : Nat → Word) (ch : Nat) : Nat := stallBytes (chFmt g ch) (fld (g (chLoc ch 0x140)) 5 4)

/-- Address of stall `i` of a channel's barn. -/
def stallAt (g : Nat → Word) (ch i : Nat) : Nat := 4096 * (barnCfg g ch).base + i * stallSize g ch

/-- `CH_REFRESH` (R208): MODE and PERIOD. -/
def refreshCfg (g : Nat → Word) (ch : Nat) : Nat × Nat := (fld (g (chLoc ch 0x14C)) 31 30, fld (g (chLoc ch 0x14C)) 11 0)

/-- `CH_ENGINES.MASK` (R210). -/
def engMask (g : Nat → Word) (ch : Nat) : Nat := fld (g (chLoc ch 0x154)) 3 0

/-- Engines of a mask, lowest first. -/
def engines (m : Nat) : List Nat := (List.range 4).filter m.testBit

/-- `CH_ANC.CAPTIONS` (R209). -/
def captionsOn (g : Nat → Word) (ch : Nat) : Bool := bitOf (g (chLoc ch 0x150)) 31

/-- The channel codes VVC. -/
def isVvc (g : Nat → Word) (ch : Nat) : Bool := decide (fld (g (chLoc ch 0x140)) 1 0 = 1)

/-- The words whose change makes an IDR picture (R206): CH_VUI, CH_SLICE, and the band count while SUBPIC is 1. -/
def idrKeyOf (g : Nat → Word) (ch : Nat) : List Nat :=
  let sl := g (chLoc ch 0x148)
  [(g (chLoc ch 0x144)).toNat, sl.toNat, if bitOf sl 8 then (engines (engMask g ch)).length else 0]

/-! ## References (R220, R224) -/

/-- Candidates of R220 before a picture that is not IDR: short-term and long-term. -/
def candidates (c : Chan) : List RefPic × List RefPic :=
  match c.last with
  | none => (c.sRefs, c.lRefs)
  | some r => if r.lt then (c.sRefs, c.lRefs ++ [r]) else (c.sRefs ++ [r], c.lRefs)

/-- POC ≥ ARG, compared modulo 2^16 within 32,768 (R224). -/
def pocFrom (arg : Nat) (r : RefPic) : Bool := decide ((r.poc + 65536 - arg % 65536) % 65536 < 32768)

/-- A member put into a list of falling POC. -/
def insertPoc (r : RefPic) : List RefPic → List RefPic
  | [] => [r]
  | x :: t => if x.poc ≤ r.poc then r :: x :: t else x :: insertPoc r t

/-- The `n` members of highest POC, highest first. -/
def highest (n : Nat) (l : List RefPic) : List RefPic := (l.foldr insertPoc []).take n

/-- What a forced action and a re-seating's INVALIDATE leave of the candidates, and how many references they removed. -/
def actOn (b : BarnCfg) (act : Nat) (inv : Option Nat) (c : List RefPic × List RefPic) : (List RefPic × List RefPic) × Nat :=
  let drop := fun arg (c : List RefPic × List RefPic) =>
    (c.1.filter (fun r => !pocFrom arg r), c.2.filter (fun r => !pocFrom arg r))
  let c1 := match inv with
    | none => c
    | some a => drop a c
  let c2 := if act = 3 then drop b.arg c1 else c1
  let gone := c.1.length + c.2.length - (c2.1.length + c2.2.length)
  if act = 4 then
    match c2.1.find? (fun r => decide (r.poc % 65536 = b.arg)) with
    | none => (c2, gone)
    | some r => if b.numLong = 0 then (c2, gone) else ((c2.1.erase r, c2.2 ++ [{ r with lt := true }]), gone)
  else (c2, gone)

/-- The reference set that R220 keeps of the candidates. -/
def refSet (b : BarnCfg) (c : List RefPic × List RefPic) : List RefPic × List RefPic := (highest b.numRef c.1, highest b.numLong c.2)

/-! ## Stalls and marks (R221, R222) -/

/-- Stall marks. -/
def mkFree : Nat := 0
def mkCurrent : Nat := 1
def mkShort : Nat := 2
def mkLong : Nat := 3
def mkCkpt : Nat := 4

/-- Stall `i` of a channel. -/
def stall (c : Chan) (i : Nat) : Stall := c.stalls.get (fun _ => {}) i

/-- A channel with every stall changed by `f`. -/
def mapStalls (f : Stall → Stall) (c : Chan) : Chan :=
  { c with stalls := (List.range 16).foldl (fun t i => t.set (fun _ => {}) i (f (stall c i))) c.stalls }

/-- Stalls whose picture is not in the reference set are freed, or kept for the checkpoint (R221, R222). -/
def freeStalls (refs : List RefPic) (c : Chan) : Chan :=
  mapStalls (fun x =>
    if (x.mark = mkShort ∨ x.mark = mkLong) ∧ refs.all (fun r => decide (r.n ≠ x.n)) = true then
      { x with mark := if x.pin then mkCkpt else mkFree }
    else x) c

/-- The SHORT stall of the picture that a MARK_LONG has moved becomes LONG (R221), whether or not it stays a reference. -/
def longStalls (moved : Option Nat) (c : Chan) : Chan :=
  mapStalls (fun x => if x.mark = mkShort ∧ moved = some x.n then { x with mark := mkLong } else x) c

/-- The lowest FREE stall becomes CURRENT for picture `n`. -/
def takeStall (stalls n poc : Nat) (c : Chan) : Chan :=
  match (List.range stalls).find? (fun i => decide ((stall c i).mark = mkFree)) with
  | none => c
  | some i => { c with stalls := c.stalls.set (fun _ => {}) i { mark := mkCurrent, poc := poc % 65536, n := n, pin := false } }

/-- At its picture end the stall of picture `n` becomes SHORT or LONG. -/
def endStall (n : Nat) (lt : Bool) (c : Chan) : Chan :=
  mapStalls (fun x => if x.mark = mkCurrent ∧ x.n = n then { x with mark := if lt then mkLong else mkShort } else x) c

/-- R222: a checkpoint pins the stalls of the reference set. -/
def pinStalls (refs : List RefPic) (poc : Nat) (c : Chan) : Chan :=
  { mapStalls (fun x => if (x.mark = mkShort ∨ x.mark = mkLong ∨ x.mark = mkCurrent) ∧ refs.any (fun r => decide (r.n = x.n)) = true
      then { x with pin := true } else x) c with ckpt := some (poc % 65536) }

/-- R222: the checkpoint is released. -/
def unpinStalls (c : Chan) : Chan :=
  { mapStalls (fun x => { x with mark := if x.mark = mkCkpt then mkFree else x.mark, pin := false }) c with ckpt := none, ckptSeat := false }

/-- A checkpoint is released (R222). -/
def releaseCkpt (ch : Nat) (s : State) : State := if (chan s ch).ckpt.isSome then modChan ch unpinStalls s else s

/-- A checkpoint is taken at the boundary of picture `n` with reference set `refs` (R222, R225). -/
def takeCkpt (ch poc : Nat) (refs : List RefPic) (s : State) : State :=
  bump (pgBarn s ch) 6 1 (raiseBit (pgBarn s ch) 5 (modChan ch (pinStalls refs poc) s))

/-- Pinned stalls of a channel, a bit each. -/
def pinBits (c : Chan) : Nat := ((List.range 16).filter (fun i => (stall c i).pin)).foldl (fun a i => a + 2 ^ i) 0

/-! ## Gradual refresh (R208, R224) -/

/-- The cycle at a picture: its position and length, and the length of a cycle that the next picture begins. -/
def gdrStep (c : Chan) (mode period : Nat) (idr refresh : Bool) : Option (Nat × Nat) × Option Nat :=
  let len := if mode = 1 then period else max period 2
  if idr then (none, if refresh then some len else if mode = 1 then some period else none)
  else if refresh then (some (0, len), none)
  else if c.gdrKey ≠ (mode, period) then (if mode = 1 then some (0, period) else none, none)
  else
    match c.gdrNext with
    | some g => (some (0, g), none)
    | none =>
      match c.gdr with
      | some (j, g) => (if j + 1 < g then some (j + 1, g) else if mode = 1 then some (0, period) else none, none)
      | none => (if mode = 1 then some (0, period) else none, none)

/-- A forced action is applied or has no effect (R224, R225). -/
def forceCount (ch : Nat) (done : Bool) (s : State) : State :=
  if done then bump (pgBarn s ch) 2 1 (raiseBit (pgBarn s ch) 1 s) else bump (pgBarn s ch) 3 1 (raiseBit (pgBarn s ch) 2 s)

end Sys2Proof.Machine
end

