-- ==== Sys2Proof/Machine/Drill.lean ====
section
/-! DEFINITION. The drill's arithmetic (R229–R253): budgets, fallow ceilings and reserves, caps, QP steering, regions. All of
it is exact, and floor rounds toward minus infinity. -/

namespace Sys2Proof.Machine

open Sys2Proof

/-- A DRILL page's words (R229). -/
structure DrillCfg where
  reserve : Bool
  mode : Nat
  rate : Nat       -- b/s
  peak : Nat       -- b/s, RATE where PEAK is 0
  limit : Nat
  qpMax : Int
  qpMin : Int
  qpI : Int
  qpP : Int
  window : Nat
  deriving DecidableEq, Repr

/-- R229. -/
def drillCfg (g : Nat → Word) (ch : Nat) : DrillCfg :=
  let w := fun o => g (drLoc ch o)
  { reserve := bitOf (w 0x100) 8, mode := fld (w 0x100) 1 0, rate := 1000 * (w 0x104).toNat, peak := peakRate g ch
    limit := fld (w 0x10C) 23 0, qpMax := sgn 8 (fld (w 0x110) 31 24), qpMin := sgn 8 (fld (w 0x110) 23 16)
    qpI := sgn 8 (fld (w 0x110) 15 8), qpP := sgn 8 (fld (w 0x110) 7 0), window := fld (w 0x114) 11 0 }

/-- The codec's QP scale (R229). -/
def qpScale (g : Nat → Word) (ch : Nat) : Int × Int :=
  if isVvc g ch then (-12, 63) else if fld (g (chLoc ch 0x140)) 3 2 = 0 then (0, 51) else (-12, 51)

/-- floor(x × P). -/
def perPic (f : Fmt) (x : Nat) : Nat := x * f.den / f.num

/-- floor(x × F). -/
def perFurrow (f : Fmt) (x : Nat) : Nat := x * f.den * f.c / (f.num * f.h)

/-- The HRD bit rate (R232). -/
def hrdRate (d : DrillCfg) : Nat := if d.mode = 1 then d.peak else d.rate

/-- The CPB size of R233, before rounding to the codec's units. -/
def cpbSize (d : DrillCfg) (f : Fmt) : Nat :=
  f.d * perFurrow f (hrdRate d) + hrdRate d * f.den / (f.num * 2 * f.furrows)

/-! ## Fallow ceilings (R237–R240) -/

/-- The leaf count of a block of size `s` with `w` by `h` samples inside the picture (R238). -/
def leaves : Nat → Nat → Nat → Nat → Nat
  | 0, _, _, _ => 1
  | fuel + 1, s, w, h =>
    if s ≤ w ∧ s ≤ h then 1
    else
      let q := fun dx dy =>
        let qw := min (w - dx) (s / 2)
        let qh := min (h - dy) (s / 2)
        if 0 < qw ∧ 0 < qh then leaves fuel (s / 2) qw qh else 0
      q 0 0 + q (s / 2) 0 + q 0 (s / 2) + q (s / 2) (s / 2)

/-- Samples of CTU column `x`, furrow `k` inside the picture. -/
def ctuSize (f : Fmt) (x k : Nat) : Nat × Nat := (min f.c (f.w - x * f.c), min f.c (f.h - k * f.c))

/-- The fallow ceiling of a CTU (R239). For an intra-kind 128×128 CTU the leaves are those of its 64×64 quadrants. -/
def ceiling (f : Fmt) (x k : Nat) (intra : Bool) : Nat :=
  let z := ctuSize f x k
  let n :=
    if intra && decide (f.c = 128) then
      let q := fun dx dy => if dx < z.1 ∧ dy < z.2 then leaves 7 64 (min 64 (z.1 - dx)) (min 64 (z.2 - dy)) else 0
      q 0 0 + q 64 0 + q 0 64 + q 64 64
    else leaves 8 f.c z.1 z.2
  11 + n * (if intra then 29 else 13) + (if f.c = 128 then 8 else 0)

/-- R237: the CTU of column `x` is intra-kind: of an IDR picture, or up to the refresh columns of a cycle. -/
def intraKind (f : Fmt) (idr : Bool) (gdr : Option (Nat × Nat)) (x : Nat) : Bool :=
  idr || (match gdr with
    | none => false
    | some (j, g) => decide (x < (j + 1) * f.ctuCols / g))

/-- Slice of CTU column `x`, of `ns` slices over `wc` columns (R207). -/
def sliceOf (ns wc x : Nat) : Nat := ((List.range ns).filter (fun s => decide (s * wc / ns ≤ x))).length - 1

/-- CTU column `x` is the first, or the last, of its slice. -/
def firstOfSlice (ns wc x : Nat) : Bool := decide (x = 0) || decide (sliceOf ns wc (x - 1) ≠ sliceOf ns wc x)
def lastOfSlice (ns wc x : Nat) : Bool := decide (x + 1 = wc) || decide (sliceOf ns wc (x + 1) ≠ sliceOf ns wc x)

/-- Sum of the ceilings of columns from `x` on. -/
def ceilingsFrom (f : Fmt) (k : Nat) (idr : Bool) (gdr : Option (Nat × Nat)) (x : Nat) : Nat :=
  ((List.range' x (f.ctuCols - x)).map (fun y => ceiling f y k (intraKind f idr gdr y))).sum

/-- The fallow reserve Φ_k (R240). -/
def reserveOf (f : Fmt) (ns rho k : Nat) (idr : Bool) (gdr : Option (Nat × Nat)) : Nat :=
  ceilingsFrom f k idr gdr 0 + ns * (256 + rho)

/-- The reserve after CTU `x` (R240). -/
def reserveAfter (f : Fmt) (ns rho k x : Nat) (idr : Bool) (gdr : Option (Nat × Nat)) : Nat :=
  ceilingsFrom f k idr gdr (x + 1) + (256 + rho) * (ns - 1 - sliceOf ns f.ctuCols x) + (if lastOfSlice ns f.ctuCols x then 0 else 48)

/-- R230's and R244's worst case: every CTU intra-kind, ρ 320. -/
def worstReserve (f : Fmt) (ns k : Nat) : Nat := reserveOf f ns 320 k true none

/-! ## Regions (R251, R192) -/

/-- A quality region that governs CTUs. -/
structure Region where
  slot : Nat
  x0 : Nat
  x1 : Nat
  y0 : Nat
  y1 : Nat
  guard : Bool
  fixed : Option Int
  offset : Int
  deriving DecidableEq, Repr

/-- The channel's valid region slots: those of the DRILL page and those that AUTO layers fill. -/
def regions (t : Tbl Word) (ch : Nat) : List Region :=
  let g := getW t
  let own := (List.range 16).filterMap (fun q =>
    let a := g (drLoc ch (0x180 + 8 * q))
    let b := g (drLoc ch (0x184 + 8 * q))
    if bitOf a 31 then
      some { slot := q, x0 := fld b 7 0, x1 := fld b 23 16, y0 := fld b 15 8, y1 := fld b 31 24, guard := bitOf a 30
             fixed := if bitOf a 29 then some (sgn 8 (fld a 15 8)) else none, offset := sgn 5 (fld a 4 0) : Region }
    else none)
  let auto := (canvasLayers t ch).filterMap (fun i =>
    (autoRegion g i (chFmt g ch)).map (fun r =>
      { slot := r.1, x0 := r.2.1.1, x1 := r.2.1.2.1, y0 := r.2.1.2.2.1, y1 := r.2.1.2.2.2, guard := r.2.2.2, fixed := none
        offset := r.2.2.1 : Region }))
  own ++ (if chComposed g ch then auto else [])

/-- The region that governs the CTU at column `x` of furrow `k`: the lowest slot that covers it. -/
def regionAt (rs : List Region) (x k : Nat) : Option Region :=
  (rs.filter (fun r => decide (r.x0 ≤ x) && decide (x ≤ r.x1) && decide (r.y0 ≤ k) && decide (k ≤ r.y1))).foldl (fun b r =>
    match b with
    | none => some r
    | some o => if r.slot < o.slot then some r else some o) none

/-- R246: guarded. -/
def guarded (rs : List Region) (x k : Nat) : Bool :=
  match regionAt rs x k with
  | none => false
  | some r => r.guard

/-! ## Budgets and QPs (R232, R248) -/

/-- The VBR bank at T_n (R232): `prev` is picture n − 2 when it was coded in mode 0x1. -/
def bankStep (bank b : Int) (window : Nat) (prev : Option Nat) : Int :=
  match prev with
  | none => bank
  | some bits => max (-(window * b)) (min (window * b) (bank + b - bits))

/-- The picture budget B_n (R232). -/
def pictureBudget (d : DrillCfg) (f : Fmt) (bank : Int) : Int :=
  let b : Int := perPic f d.rate
  if d.mode = 1 then min (perPic f d.peak) (max (b / 2) (b + bank / 8)) else b

/-- The QP step of R248 from picture n − 2. -/
def qpStep (p : Option PicSum) : Int :=
  match p with
  | none => 0
  | some x =>
    if x.idr then 0
    else if 0 < x.fallow then 2
    else if 15 * x.budget < 16 * x.bits then 1
    else if 12 * x.budget < 16 * x.bits then 0
    else if 8 * x.budget < 16 * x.bits then -1
    else -2

/-- The base QP of a picture (R248); in fixed-QP mode its QP. `p1` is IDR and base QP of picture n − 1. -/
def pictureQp (d : DrillCfg) (idr : Bool) (p1 : Option (Bool × Int)) (p2 : Option PicSum) : Int :=
  if d.mode = 2 then (if idr then d.qpI else d.qpP)
  else if idr then d.qpI
  else
    let prev := match p1 with
      | none => d.qpP
      | some (i, q) => if i then d.qpP else q
    clampI (prev + qpStep p2) d.qpMin d.qpMax

/-- C_k: the cumulative share of furrow `k` (R235). -/
def share (f : Fmt) (spendable : Int) (k : Nat) : Int := spendable * (f.lineEnd k : Int) / (f.h : Int)

/-- The yard term Y_k (R242). -/
def yardTerm (d : DrillCfg) (f : Fmt) (k leadBits : Nat) (captions : Bool) : Int :=
  (perFurrow f d.peak : Int) - 512 - (if k = 0 then (leadBits : Int) else 0) - (if k + 1 = f.furrows ∧ captions = true then 1536 else 0)

/-- Bits of a furrow's slices: its spend (R235). -/
def spendOf (u : Fur) : Nat := u.sliceBits.sum

/-- Q_k: the bound of earlier spend (R241). -/
def earlierSpend (p : Pic) (f : Fmt) (k : Nat) : Int :=
  ((List.range k).map (fun j => if j + f.d + 2 ≤ k then (spendOf (fur p j) : Int) else (fur p j).cap)).sum

/-- A counter advanced by a signed amount, modulo 2^64 (R252 counter 10). -/
def bumpInt (k n : Nat) (x : Int) (s : State) : State :=
  { s with ctrs := s.ctrs.set (fun _ => 0) (128 * k + n) (counter s k n + BitVec.ofInt 64 x) }

end Sys2Proof.Machine
end

