-- ==== Sys2Proof/Machine/Codec.lean ====
section
/-! DEFINITION. Coding a CTU: what the engines read, the window of motion vectors, fallow syntax, reconstruction into the reference cache and
the stalls, and the NAL units around the slices (R198–R217, R223, R233–R236). -/

namespace Sys2Proof.Machine

open Sys2Proof

/-! ## The coded picture's shape -/

/-- Bits of a coded sample (R197). -/
def codedDepth (g : Nat → Word) (ch : Nat) : Nat := if !isVvc g ch && decide (fld (g (chLoc ch 0x140)) 3 2 = 0) then 8 else 10

/-- Luma columns, and luma lines, for each one of component `k` in a sampling. -/
def subX (k : Nat) : Nat := if k = 0 then 1 else 2
def subY (samp k : Nat) : Nat := if k = 0 ∨ samp = 1 then 1 else 2

/-- Columns and lines of component `k`'s plane in a stall: whole CTUs (R219). -/
def planeW (f : Fmt) (k : Nat) : Nat := roundUp f.w f.c / subX k
def planeH (f : Fmt) (samp k : Nat) : Nat := roundUp f.h f.c / subY samp k

/-- `CH_SLICE.SUBPIC` (R207). -/
def subpic (g : Nat → Word) (ch : Nat) : Bool := bitOf (g (chLoc ch 0x148)) 8

/-- Furrows of each band (R211): first, last. A band without a furrow, of a picture with fewer furrows than bands, is none. -/
def bands (g : Nat → Word) (ch : Nat) (f : Fmt) : List (Nat × Nat) :=
  let e := (engines (engMask g ch)).length
  ((List.range e).filter (fun b => decide (b * f.furrows / e < (b + 1) * f.furrows / e))).map (fun b =>
    (b * f.furrows / e, (b + 1) * f.furrows / e - 1))

/-- The furrows across whose edges prediction and filtering do not go: those of the subpicture of furrow `k`, or the whole picture's (R207). -/
def territory (g : Nat → Word) (ch : Nat) (f : Fmt) (k : Nat) : Nat × Nat :=
  if subpic g ch then ((bands g ch f).find? (fun b => decide (b.1 ≤ k) && decide (k ≤ b.2))).getD (0, f.furrows - 1) else (0, f.furrows - 1)

/-- The words of a channel that shape coding and are in no other field of `CtuIn` (R216); with SUBPIC the bands too (R213). -/
def codingWords (g : Nat → Word) (ch : Nat) (f : Fmt) : List Nat :=
  [f.w, f.h, f.c, (g (chLoc ch 0x140)).toNat, (g (chLoc ch 0x148)).toNat] ++
    (if subpic g ch then (bands g ch f).map Prod.fst else [])

/-! ## Stalls (R219). DESIGN CHOICE: Caerong's compression being transparent, a stall holds its planes uncompressed, ten bits a sample from
the low bit up, Y, Cb, Cr, each in raster order, and the motion field of each CTU after them. -/

/-- Index of a sample in a stall. -/
def planeAt (f : Fmt) (samp k x y : Nat) : Nat :=
  (if k = 0 then 0 else planeW f 0 * planeH f samp 0 + (k - 1) * (planeW f 1 * planeH f samp 1)) + y * planeW f k + x

/-- A sample of a stall whose first byte is at address `a` of die `d`. -/
def stallPx (s : State) (d a : Nat) (f : Fmt) (samp k x y : Nat) : Nat :=
  bits10 s d a (planeAt f samp k x y)

/-- Bytes of the motion field of a CTU, and where those of column `x` of furrow `k` begin in a stall. -/
def fieldLen (f : Fmt) : Nat := f.c * f.c / 16
def fieldAt (f : Fmt) (samp x k : Nat) : Nat :=
  roundUp f.w f.c * roundUp f.h f.c * (if samp = 1 then 20 else 15) / 8 + (k * f.ctuCols + x) * fieldLen f

/-- The stall that holds picture `n`. -/
def stallOf (c : Chan) (n : Nat) : Option Nat := (List.range 16).find? (fun i => decide ((stall c i).mark ≠ mkFree ∧ (stall c i).n = n))

/-- Address of the stall of picture `n` of a channel. -/
def picStall (s : State) (ch : Nat) (p : Pic) (n : Nat) : Option Nat := (stallOf (chan s ch) n).map (stallAt (picG s ch p) ch)

/-! ## The reference cache (R213) -/

/-- Key of a reconstructed sample of picture `n`: two pictures of a channel at most are in progress (R214). -/
def recKey (ch n k x y : Nat) : Nat := (((2 * ch + n % 2) * 3 + k) * 8192 + y) * 8192 + x

/-- A reconstructed sample before in-loop filtering. -/
def recPx (s : State) (ch n k x y : Nat) : Nat := s.cachePx.get (fun _ => 0) (recKey ch n k x y)

/-- Rows of the cache of picture `n` above luma line `y` leave it. -/
def dropRows (ch n samp y : Nat) (s : State) : State :=
  { s with cachePx := s.cachePx.filter (fun e =>
      let r := e.1 / 8192
      let k := r / 8192 % 3
      decide (r / 8192 / 3 ≠ 2 * ch + n % 2) || decide (y ≤ r % 8192 * subY samp k)) }

/-! ## Input (R198) -/

/-- A sample of the picture's input in the coded sampling and depth, component `k` at its own column and line: the canvas's, or the slot's
brought to the coded sampling. DEDUCED: the step to 8 bits of HEVC Main is taken for a canvas too, R197 giving the coded depth. -/
def codedInput (s : State) (ch : Nat) (p : Pic) (k x y : Nat) : Nat :=
  let g := picG s ch p
  let f := picFmt ch p
  let samp := codedSamp g ch
  let v10 :=
    if chComposed g ch then (unpackPx (s.canvPx.get (fun _ => 0) (canvKey p.cfg ch p.n (y * subY samp k) (x * subX k)))).at k
    else
      let sl := chSlot g ch
      let c := slotCfg g sl.1 sl.2
      let v := fun y x =>
        let r := (unpackPx (readyPx s sl.1 sl.2 p.n (f.lineEnd (y / f.c)) y x)).at k
        if c.samp ≤ 2 then r else to10 r
      let h := fun y => if c.samp = 0 then v y (2 * x) else chroma422 (v y) f.w (2 * x)
      if k = 0 then v y x
      else if samp = 1 then h y
      else (h (2 * y) + h (2 * y + 1) + 1) / 2
  if codedDepth g ch = 8 then min ((v10 + 2) / 4) 255 else v10

/-! ## References (R203, R208, R223) -/

/-- The reference lists of a picture (R223). -/
def refList (p : Pic) : List RefPic := p.sRefs ++ p.lRefs

/-- First CTU column of the refresh columns of picture `j` of a cycle of `g`: the columns before it are the clean region (R208). -/
def cleanEdge (f : Fmt) (j g : Nat) : Nat := j * f.ctuCols / g

/-- CTU column `x` lies in the clean region of its picture. -/
def inClean (f : Fmt) (p : Pic) (x : Nat) : Bool := p.gdr.any (fun c => decide (x < cleanEdge f c.1 c.2))

/-- The CTU is coded intra: of an IDR picture, or in the refresh columns (R204, R208). -/
def intraCtu (f : Fmt) (p : Pic) (x : Nat) : Bool :=
  p.idr || p.gdr.any (fun c => decide (cleanEdge f c.1 c.2 ≤ x) && decide (x < cleanEdge f (c.1 + 1) c.2))

/-- Luma columns of reference `r` that a CTU in the clean region of picture `p` may read: those of the clean region of a picture of the
same cycle, eight samples kept (R208). -/
def cleanCols (f : Fmt) (p : Pic) (r : RefPic) : Nat :=
  match p.gdr with
  | none => 0
  | some (j, g) => if p.n ≤ r.n + j ∧ r.n < p.n then cleanEdge f (j - (p.n - r.n)) g * f.c - 8 else 0

/-- A sample of entry `e` of the lists, at column and line `x`, `y` of component `k`, as the CTU at column `cx` of furrow `cy` may read it
(R203, R207, R208): within the search window and the taps around the CTU, the picture's edge or the subpicture's repeated, and for a CTU in the
clean region nothing outside that of the same cycle. -/
def refPx (s : State) (ch : Nat) (p : Pic) (cx cy e k : Nat) (x y : Int) : Nat :=
  let g := picG s ch p
  let f := picFmt ch p
  let samp := codedSamp g ch
  match (refList p)[e]? with
  | none => 0
  | some r =>
    match picStall s ch p r.n with
    | none => 0
    | some a =>
      let t := territory g ch f cy
      let sx := subX k
      let sy := subY samp k
      let x := clampI x (((cx * f.c : Nat) - 520 : Int) / sx) (((cx + 1) * f.c + 520 : Nat) / sx)
      let y := clampI y (((cy * f.c : Nat) - 264 : Int) / sy) (((cy + 1) * f.c + 264 : Nat) / sy)
      let x := (clampI x 0 ((f.w / sx : Nat) - 1)).toNat
      let y := (clampI y (t.1 * f.c / sy : Nat) ((f.lineEnd t.2 / sy : Nat) - 1)).toNat
      if inClean f p cx && decide (cleanCols f p r ≤ x * sx) then 0 else stallPx s (chDie s ch) a f samp k x y

/-- The input lines of furrow `k` (R130, R298): the slot's, or the canvas's. -/
def inputReads (s : State) (ch : Nat) (p : Pic) (k : Nat) : List MemRange :=
  let g := picG s ch p
  let f := picFmt ch p
  if chComposed g ch then
    (List.range' (k * f.c) (f.lineEnd k - k * f.c)).map (fun y =>
      { who := 0x40, die := ch / 32, addr := canvasAt p.cfg ch p.n y
        len := f.w * (if fld (g (chLoc ch 0x140)) 5 4 = 1 then 20 else 15) / 8 })
  else
    let sl := chSlot g ch
    slotReads (slotCfg g sl.1 sl.2) (if sl.1 = chDie s ch then 0x40 else 0x42) sl.1 p.n (k * f.c) (f.lineEnd k - k * f.c)

/-- The reference samples in the search window of the CTU at column `cx` of furrow `cy` (R203). -/
def windowReads (s : State) (ch : Nat) (p : Pic) (cx cy : Nat) : List MemRange :=
  let g := picG s ch p
  let f := picFmt ch p
  let samp := codedSamp g ch
  let t := territory g ch f cy
  (refList p).flatMap (fun r =>
    match picStall s ch p r.n with
    | none => []
    | some a => (List.range 3).flatMap (fun k =>
        let x0 := (cx * f.c - 520) / subX k
        let x1 := min (((cx + 1) * f.c + 520) / subX k) (f.w / subX k)
        let y0 := max (cy * f.c - 264) (t.1 * f.c) / subY samp k
        let y1 := min ((cy + 1) * f.c + 264) (f.lineEnd t.2) / subY samp k
        (List.range' y0 (y1 - y0)).map (fun y =>
          { who := 0x40, die := chDie s ch, addr := a + planeAt f samp k x0 y * 10 / 8, len := cdiv ((x1 - x0) * 10) 8 + 1 })))

/-- The motion field of entry `e`'s CTU at column `x` of furrow `k`, as the CTU at column `cx` of furrow `cy` may read it. -/
def refField (s : State) (ch : Nat) (p : Pic) (cx cy e x k : Nat) : List Byte :=
  let g := picG s ch p
  let f := picFmt ch p
  let t := territory g ch f cy
  match (refList p)[e]? with
  | none => []
  | some r =>
    match picStall s ch p r.n with
    | none => []
    | some a =>
      if k < t.1 ∨ t.2 < k ∨ (inClean f p cx = true ∧ cleanCols f p r < (x + 1) * f.c) then []
      else (List.range (fieldLen f)).map (fun i => dramGet s (chDie s ch) (a + fieldAt f (codedSamp g ch) x k + i))

/-- The CTU at column `x` of furrow `k` is reconstructed before the one at `cx`, `cy` and may be read for it (R208, R212, R213). -/
def mayRead (g : Nat → Word) (ch : Nat) (p : Pic) (cx cy x k : Nat) : Bool :=
  let f := picFmt ch p
  ((decide (k < cy) && decide (x ≤ cx + 2)) || (decide (k = cy) && decide (x < cx))) && decide ((territory g ch f cy).1 ≤ k) &&
    (!inClean f p cx || inClean f p x)

/-! ## What one CTU is coded from (R216) -/

/-- The inputs of the CTU at column `x` of furrow `k`. -/
def ctuIn (s : State) (ch : Nat) (p : Pic) (k x : Nat) (qp : Int) : CtuIn :=
  let g := picG s ch p
  let f := picFmt ch p
  let samp := codedSamp g ch
  let ns := slicesPer g ch
  let log := (fur p k).log
  { words := codingWords g ch f, poc := p.poc, idr := p.idr, gdr := p.gdr, col := x, row := k, qp := qp
    refs := (refList p).map (fun r => (r.poc, r.lt)), filters := p.filters
    input := fun c px py => if py * subY samp c < f.lineEnd k then codedInput s ch p c px py else 0
    refPx := refPx s ch p x k, refField := refField s ch p x k
    curPx := fun c px py =>
      if mayRead g ch p x k (px * subX c / f.c) (py * subY samp c / f.c) && decide (k * f.c ≤ py * subY samp c + 128) then recPx s ch p.n c px py
      else 0
    curCus := (List.range' (k - 1) (k + 1 - (k - 1))).flatMap (fun j => ((List.range f.ctuCols).filter (mayRead g ch p x k · j)).flatMap (fun y =>
      (((fur p j).log[y]?).map (fun e => e.syn.cus)).getD []))
    slice := ((List.range x).filter (fun y => decide (sliceOf ns f.ctuCols y = sliceOf ns f.ctuCols x))).filterMap (fun y =>
      (log[y]?).map (fun e => e.syn)) }

/-! ## The window (R203) and the tools (R201, R202) -/

/-- A vector lies in the search window: ±512 samples across, ±256 down, in quarter samples. -/
def mvInWindow (m : Mv) : Bool := decide (-2048 ≤ m.dx) && decide (m.dx ≤ 2048) && decide (-1024 ≤ m.dy) && decide (m.dy ≤ 1024)

/-- A vector held to the window, and to the `n` entries of the lists. -/
def holdMv (n : Nat) (m : Mv) : Mv := { entry := min m.entry (n - 1), dx := clampI m.dx (-2048) 2048, dy := clampI m.dy (-1024) 1024 }

/-- A coding unit as the engines may choose it: no vector leaves the window, a merge candidate that does is not chosen, no tool is used that
the channel does not use; intra in an intra CTU. HEVC has 35 intra modes, 5 merge candidates and transform blocks of 4×4 to 32×32 in trees of
depth 2 (R201); VVC 67 modes and 6 candidates (R202). -/
def holdCu (vvc : Bool) (tools : List Tool) (n : Nat) (intra : Bool) (u : Cu) : Cu :=
  let u := if intra || decide (n = 0) then { u with intra := true } else u
  let u := { u with
    luma := min u.luma (if vvc then 66 else 34), merge := u.merge.filter (fun i => decide (i < if vvc then 6 else 5))
    tuDepth := if vvc then 0 else min u.tuDepth 2, tus := if vvc then [] else u.tus.filter [4, 8, 16, 32].contains }
  if u.intra then { u with skip := false, merge := none, mvs := [], tools := u.tools.filter (fun t => tools.contains t) }
  else
    let ok := u.mvs.all mvInWindow
    { u with merge := if ok then u.merge else none, skip := u.skip && ok, mvs := u.mvs.map (holdMv n)
             tools := u.tools.filter (fun t => tools.contains t) }

/-! ## Fallow syntax (R236, R238) -/

/-- The leaf rectangles of a block of size `s` at (x, y) with `w` by `h` samples inside the picture, in the order of `leaves`. -/
def leafRects : Nat → Nat → Nat → Nat → Nat → Nat → List (Nat × Nat × Nat × Nat)
  | 0, _, x, y, w, h => [(x, y, w, h)]
  | fuel + 1, s, x, y, w, h =>
    if s ≤ w ∧ s ≤ h then [(x, y, s, s)]
    else
      let q := fun dx dy =>
        let qw := min (w - dx) (s / 2)
        let qh := min (h - dy) (s / 2)
        if 0 < qw ∧ 0 < qh then leafRects fuel (s / 2) (x + dx) (y + dy) qw qh else []
      q 0 0 ++ q (s / 2) 0 ++ q 0 (s / 2) ++ q (s / 2) (s / 2)

/-- The coding units of a fallow CTU: one, those that the picture edge forces, or one for each 64×64 quadrant (R236). -/
def fallowRects (f : Fmt) (x k : Nat) (intra : Bool) : List (Nat × Nat × Nat × Nat) :=
  let z := ctuSize f x k
  let x0 := x * f.c
  let y0 := k * f.c
  if intra && decide (f.c = 128) then
    let q := fun dx dy => if dx < z.1 ∧ dy < z.2 then leafRects 7 64 (x0 + dx) (y0 + dy) (min 64 (z.1 - dx)) (min 64 (z.2 - dy)) else []
    q 0 0 ++ q 64 0 ++ q 0 64 ++ q 64 64
  else leafRects 8 f.c x0 y0 z.1 z.2

/-- A fallow coding unit. PRESUMED: DC is luma mode 1 in both standards. -/
def fallowCu (inp : RecIn) (intra : Bool) (n : Nat) (r : Nat × Nat × Nat × Nat) : Cu :=
  if intra then
    { x := r.1, y := r.2.1, w := r.2.2.1, h := r.2.2.2, intra := true, skip := false, merge := none, luma := 1, derivedChroma := true, mvs := []
      tools := [], tuDepth := 0, tus := [], residual := none, qpDelta := false }
  else
    let i := if (Config.mergeMvs inp r 0).all mvInWindow then 0 else 1
    { x := r.1, y := r.2.1, w := r.2.2.1, h := r.2.2.2, intra := false, skip := true, merge := some i, luma := 0, derivedChroma := false
      mvs := (Config.mergeMvs inp r i).map (holdMv n), tools := [.skip], tuDepth := 0, tus := []
      residual := none, qpDelta := false }

/-- The syntax of a fallow CTU (R236, R237). -/
def fallowSyn (inp : RecIn) (f : Fmt) (ns : Nat) (p : Pic) : CtuSyn :=
  let intra := intraKind f p.idr p.gdr inp.col
  { cus := (fallowRects f inp.col inp.row intra).map (fallowCu inp intra (refList p).length)
    saoLeft := !firstOfSlice ns f.ctuCols inp.col, sao := none, alf := none }

/-! ## The partition (R201, R202) -/

/-- A coding unit has a size of its codec: a square of 8×8 to 64×64 samples in HEVC; sides of 4 samples to the CTU's in VVC. -/
def cuSizeOk (vvc : Bool) (c : Nat) (u : Cu) : Bool :=
  if vvc then ([4, 8, 16, 32, 64, 128].filter (fun n => decide (n ≤ c))).contains u.w && ([4, 8, 16, 32, 64, 128].filter (fun n => decide (n ≤ c))).contains u.h
  else [8, 16, 32, 64].contains u.w && decide (u.h = u.w)

/-- The coding units of CTU (x, k) cover the part of it that lies inside the picture, each 4×4 block of it once, and nothing else. -/
def ctuCovered (f : Fmt) (x k : Nat) (cus : List Cu) : Bool :=
  let z := ctuSize f x k
  let has := fun (bx by_ : Nat) (u : Cu) => decide (u.x ≤ bx) && decide (bx < u.x + u.w) && decide (u.y ≤ by_) && decide (by_ < u.y + u.h)
  cus.all (fun u => decide (x * f.c ≤ u.x) && decide (u.x + u.w ≤ x * f.c + z.1) && decide (k * f.c ≤ u.y) && decide (u.y + u.h ≤ k * f.c + z.2)) &&
    (List.range (cdiv z.1 4)).all (fun i => (List.range (cdiv z.2 4)).all (fun j =>
      decide ((cus.filter (has (x * f.c + 4 * i) (k * f.c + 4 * j))).length = 1)))

/-- The CTU at column `x` as the engines code it normally. Of what `Config.encodeCtu` may answer only a partition that the codec has is taken; for
any other the fallow one stands. -/
def normalSyn (inp : CtuIn) (g : Nat → Word) (ch : Nat) (p : Pic) : CtuSyn :=
  let f := picFmt ch p
  let vvc := isVvc g ch
  let intra := intraCtu f p inp.col
  let y := Config.encodeCtu inp
  let ok := y.cus.all (cuSizeOk vvc f.c) && ctuCovered f inp.col inp.row y.cus
  { y with
    cus := if ok then y.cus.map (holdCu vvc (usedTools vvc (subpic g ch) p.gdr.isSome) (refList p).length intra)
      else (fallowRects f inp.col inp.row intra).map (fallowCu inp.toRecIn intra (refList p).length)
    alf := if vvc then y.alf else none }

/-! ## Reconstruction (R212, R213, R217) -/

/-- The samples of a CTU enter the reference cache. -/
def putCtu (ch : Nat) (g : Nat → Word) (p : Pic) (inp : RecIn) (y : CtuSyn) (s : State) : State :=
  let f := picFmt ch p
  let samp := codedSamp g ch
  let m := 2 ^ codedDepth g ch
  { s with cachePx := (List.range 3).foldl (fun t k =>
      let w := f.c / subX k
      let h := f.c / subY samp k
      (List.range h).foldl (fun t j => (List.range w).foldl (fun t i =>
        let px := inp.col * w + i
        let py := inp.row * h + j
        t.set (fun _ => 0) (recKey ch p.n k px py) (Config.reconPx inp y k px py % m)) t) t) s.cachePx }

/-- The CTUs over whose edges the filtering of furrow `k`, column `x` does not go: first and last furrow, those of its subpicture (R207); first and
last column, one side of the edge of a VVC clean region (R208). -/
def zone (g : Nat → Word) (ch : Nat) (p : Pic) (x k : Nat) : Nat × Nat × Nat × Nat :=
  let f := picFmt ch p
  let t := territory g ch f k
  let e := if isVvc g ch then (p.gdr.map (fun q => cleanEdge f q.1 q.2)).getD 0 else 0
  (t.1, t.2, if x < e then 0 else e, if x < e then e - 1 else f.ctuCols - 1)

/-- What filtering reads of a zone once furrow `k` is reconstructed: the rows from 128 above that furrow on. -/
def filterIn (s : State) (ch : Nat) (p : Pic) (k : Nat) (z : Nat × Nat × Nat × Nat) : FilterIn :=
  let g := picG s ch p
  let f := picFmt ch p
  let samp := codedSamp g ch
  let inZone := fun x j => decide (z.1 ≤ j) && decide (j ≤ z.2.1) && decide (z.2.2.1 ≤ x) && decide (x ≤ z.2.2.2)
  let ctus := ((List.range' (k - 2) (k + 1 - (k - 2))).flatMap (fun j =>
    (List.range (fur p j).log.length).filterMap (fun x => ((fur p j).log[x]?).map (fun e => (x, j, e))))).filter (fun e => inZone e.1 e.2.1)
  { words := codingWords g ch f, idr := p.idr, filters := p.filters, zone := z
    px := fun c x y =>
      let ly := y * subY samp c
      if decide (ly < (k + 1) * f.c) && decide (k * f.c ≤ ly + 128) && inZone (x * subX c / f.c) (ly / f.c) then recPx s ch p.n c x y else 0
    syn := ctus.map (fun e => (e.1, e.2.1, e.2.2.syn)), qps := ctus.map (fun e => (e.1, e.2.1, e.2.2.qp)) }

/-- Rows of a furrow of `c` lines whose filtering waits for the next furrow. -/
def lateRows (g : Nat → Word) (ch c : Nat) : Nat := min (Config.lateRows (isVvc g ch)) (c - 1)

/-- The luma lines that are final with furrow `k` and were not with the one before: first, and the one after the last (R195). -/
def finalRows (g : Nat → Word) (ch : Nat) (f : Fmt) (k : Nat) : Nat × Nat :=
  (if k = 0 then 0 else k * f.c - lateRows g ch f.c, if k + 1 = f.furrows then roundUp f.h f.c else (k + 1) * f.c - lateRows g ch f.c)

/-- Lines `y0` up to `y1` of plane `k`, filtered, written to the stall at address `a`. -/
def writePlane (d a : Nat) (f : Fmt) (samp k y0 y1 : Nat) (px : Nat → Nat → Nat) (s : State) : State :=
  (List.range' y0 (y1 - y0)).foldl (fun s y =>
    dramStore d (a + planeAt f samp k 0 y * 10 / 8) (pack10 ((List.range (planeW f k)).map (fun x => px x y))) s) s

/-- The reconstruction of furrow `k`, and of the rows above it that awaited it, is filtered and written to the picture's stall with its motion field:
the write-back section of its CODE item, or the fallow path's (R195, R212, R217, R249). -/
def writeFurrow (ch n k : Nat) (s : State) : State :=
  match pic? s ch n with
  | none => s
  | some p =>
    match picStall s ch p p.n with
    | none => s
    | some a =>
      let g := picG s ch p
      let f := picFmt ch p
      let samp := codedSamp g ch
      let d := chDie s ch
      let m := 2 ^ codedDepth g ch
      let r := finalRows g ch f k
      let px := fun c x y => Config.filterPx (filterIn s ch p k (zone g ch p (x * subX c / f.c) (y * subY samp c / f.c))) c x y % m
      let s := (List.range 3).foldl (fun s c => writePlane d a f samp c (r.1 / subY samp c) (r.2 / subY samp c) (px c) s) s
      let s := (List.range f.ctuCols).foldl (fun s x =>
        match (fur p k).log[x]? with
        | none => s
        | some e => dramStore d (a + fieldAt f samp x k) ((List.range (fieldLen f)).map (Config.fieldByte e.syn)) s) s
      modFur ch n k (fun u => { u with written := true }) s

/-- Furrow `k` is coded, and no CTU of it or above it is coded again: of the cache the 128 rows above the next furrow's edge stay (R213). -/
def leaveCache (ch : Nat) (p : Pic) (k : Nat) (s : State) : State :=
  let f := picFmt ch p
  dropRows ch p.n (codedSamp (picG s ch p) ch) (if k + 1 = f.furrows then 8192 else (k + 1) * f.c - 128) s

/-- The bytes of one plane within the picture, raster order, 16 bits a sample, little-endian (R369). -/
def planeBytes (s : State) (d a : Nat) (f : Fmt) (samp k : Nat) : List Byte :=
  (List.range (f.h / subY samp k)).flatMap (fun y => (List.range (f.w / subX k)).flatMap (fun x => leBytes 2 (stallPx s d a f samp k x y)))

/-- The reconstruction hash of a picture (R369). -/
def reconHash (s : State) (ch : Nat) (p : Pic) : BitVec 256 :=
  match picStall s ch p p.n with
  | none => sha256 []
  | some a =>
    let g := picG s ch p
    sha256 ((List.range 3).flatMap (planeBytes s (chDie s ch) a (picFmt ch p) (codedSamp g ch)))

/-! ## Reference signalling (R223, R240) -/

/-- The MSB cycle of a long-term picture, where the standard requires it: another picture of `prev` has its POC LSB. -/
def msbCycle (poc : Nat) (prev : List Nat) (r : RefPic) : Option Nat :=
  if 1 < ((prev.filter (fun q => decide (q % 65536 = r.poc % 65536))).eraseDups).length then some (poc / 65536 - r.poc / 65536) else none

/-- What is signalled of the references of a picture of order count `poc`; `prev` are the order counts of the picture before it and of that
one's references (H.265's setOfPrevPocVals). -/
def refSigOf (poc : Nat) (prev : List Nat) (refs : List RefPic × List RefPic) : RefSig :=
  { short := refs.1.map (fun r => poc - r.poc), long := refs.2.map (fun r => (r.poc % 65536, msbCycle poc prev r)), collocated := 0 }

/-- Bits of an Exp-Golomb code (H.265). -/
def ueBits (v : Nat) : Nat := 2 * Nat.log2 (v + 1) + 1

/-- Bits of the negative pictures of a short-term RPS: delta_poc_s0_minus1 and its use flag. -/
def shortBits : Nat → List Nat → Nat
  | _, [] => 0
  | at_, x :: l => ueBits (x - at_ - 1) + 1 + shortBits x l

/-- Bits of the long-term pictures: LSB, use flag, MSB presence, and the MSB cycle coded as a difference. -/
def longBits : Nat → List (Nat × Option Nat) → Nat
  | _, [] => 0
  | at_, x :: l =>
    match x.2 with
    | none => 18 + longBits at_ l
    | some c => 18 + ueBits (c - at_) + longBits c l

/-- ρ of an HEVC picture (R223, R240): short_term_ref_pic_set_sps_flag, the explicit RPS, and the long-term syntax. -/
def rhoBits (r : RefSig) : Nat :=
  1 + ueBits r.short.length + 1 + shortBits 0 r.short + ueBits r.long.length + longBits 0 r.long

/-! ## NAL units (R204–R209, R233–R235) -/

/-- NAL unit types. PRESUMED: the codes of H.265 and H.266 for the units that R205 names. -/
def nalCode (vvc : Bool) (x : Nal) : Nat :=
  match x with
  | .aud _ => if vvc then 20 else 35
  | .vps _ => 32
  | .sps _ => if vvc then 15 else 33
  | .pps _ _ => if vvc then 16 else 34
  | .aps _ => 17
  | .pictureHeader .. => 19
  | .buffering _ => if vvc then 23 else 39
  | .timing _ => if vvc then 23 else 39
  | .recovery .. => if vvc then 23 else 39

/-- Type of a slice NAL unit: an IDR picture's, a GDR picture's, any other's. PRESUMED as `nalCode`. -/
def sliceType (vvc : Bool) (p : Pic) : Nat :=
  if p.idr then (if vvc then 8 else 20) else if vvc && p.gdrFirst then 10 else if vvc then 0 else 1

/-- The two bytes of a NAL unit header: layer 0, temporal sub-layer 0. -/
def nalHead (vvc : Bool) (t : Nat) : List Byte := if vvc then [0, BitVec.ofNat 8 (8 * t + 1)] else [BitVec.ofNat 8 (2 * t), 1]

/-- Emulation prevention: a byte 3 before each byte of 0 to 3 that follows two zero bytes. -/
def emulate : Nat → List Byte → List Byte
  | _, [] => []
  | z, b :: bs =>
    if 2 ≤ z ∧ b.toNat ≤ 3 then 3 :: b :: emulate (if b = 0 then 1 else 0) bs
    else b :: emulate (if b = 0 then z + 1 else 0) bs

/-- The HRD that the part signals (R232, R233). -/
def hrdOf (g : Nat → Word) (ch : Nat) : Hrd :=
  let f := chFmt g ch
  let d := drillCfg g ch
  { tick := f.den, scale := f.num, tickDivisor := 2 * f.furrows, duParams := true, vclOnly := true, bitRate := roundUp (hrdRate d) 64
    cpbSize := roundUp (cpbSize d f) 16, cbr := false, lowDelay := true }

/-- The sequence parameter set (R196–R202, R204, R223, R233). DESIGN CHOICE: the DPB it signals is the largest that R218 allows, four short-term and
two long-term references and the picture, so that no change of NUM_REF or NUM_LONG changes a parameter set (R223); and a VVC one enables virtual
boundaries in picture headers, which carry them during gradual decoding refresh alone (R202, R208). -/
def spsOf (g : Nat → Word) (ch : Nat) : Sps :=
  let f := chFmt g ch
  let c := g (chLoc ch 0x140)
  let v := g (chLoc ch 0x144)
  { profile := fld c 3 2, tier := bitOf c 8, level := fld c 23 16, sampling := codedSamp g ch, depth := codedDepth g ch
    width := f.w, height := f.h, ctu := f.c, tools := usedTools (isVvc g ch) (subpic g ch) true, pocBits := 16, longTerm := true
    dpb := 7, primaries := fld v 31 24, transfer := fld v 23 16, matrix := fld v 15 8, fullRange := bitOf v 0
    hrd := hrdOf g ch, subpics := if subpic g ch then bands g ch f else [] }

/-- Decoding units of a picture (R233, R234): the spacing of each furrow's capture point from the one before in sub-ticks, rounded to the
nearest, and its NAL units: the record, the slices, and in the first the `lead` leading ones. DESIGN CHOICE: the caption SEI, of which T_n does
not yet know whether it is sent, is not counted. -/
def decodingUnits (f : Fmt) (ns lead : Nat) : List (Nat × Nat) :=
  (List.range f.furrows).map (fun k =>
    let h := f.lineEnd k - (if k = 0 then 0 else f.lineEnd (k - 1))
    ((4 * f.furrows * h + f.h) / (2 * f.h), 1 + ns + (if k = 0 then lead else 0)))

/-- First CTU column of each tile of a VVC picture (R207). -/
def tileCols (ns wc : Nat) : List Nat := (List.range ns).map (fun s => s * wc / ns)

/-- The NAL units before the slices of a picture, in the order of R205 and R234; parameter sets in an IDR picture and in the first one of a
cycle. DESIGN CHOICE: each SEI message stands in a NAL unit of its own. -/
def leadNals (g : Nat → Word) (ch : Nat) (idr : Bool) (poc : Nat) (gdr : Option (Nat × Nat)) (refs : RefSig) (filters : Nat) : List Nal :=
  let f := chFmt g ch
  let vvc := isVvc g ch
  let ns := slicesPer g ch
  let first := decide (gdr.map (fun x => x.1) = some 0)
  let rec_ := gdr.bind (fun x => if x.1 = 0 then some (x.2 - 1) else none)
  let sps := spsOf g ch
  let sets := if idr || first then (if vvc then [] else [.vps sps]) ++ [.sps sps, .pps (if vvc then tileCols ns f.ctuCols else []) sps.tools] else []
  let head := if vvc then
      [.aps filters, .pictureHeader poc idr rec_ refs (gdr.map (fun x => cleanEdge f x.1 x.2 * f.c))] else []
  let buf := if idr || first then [.buffering (90000 * f.d * f.den * f.c / (f.num * f.h))] else []
  let recov := if !vvc && first then [.recovery (rec_.getD 0) false false] else []
  let n := 1 + sets.length + head.length + buf.length + 1 + recov.length
  [.aud idr] ++ sets ++ head ++ buf ++ [.timing (decodingUnits f ns n)] ++ recov

/-- The bytes of the leading NAL units, together at most `room`: R244 takes them as no more than 8,192 bits. -/
def nalBytes (vvc : Bool) : Nat → List Nal → List (List Byte)
  | _, [] => []
  | room, x :: l =>
    let b := (nalHead vvc (nalCode vvc x) ++ Config.nalPayload vvc x).take room
    b :: nalBytes vvc (room - b.length) l

/-- What slice `i` of furrow `k` is coded from; with no CTU before it has begun. -/
def sliceSyn (g : Nat → Word) (ch : Nat) (p : Pic) (k i : Nat) (log : List CtuLog) : SliceSyn :=
  let f := picFmt ch p
  { words := codingWords g ch f, poc := p.poc, idr := p.idr, gdr := p.gdr, row := k, index := i, refs := p.refSig
    ctus := ((List.range log.length).filter (fun x => decide (sliceOf (slicesPer g ch) f.ctuCols x = i))).filterMap (fun x =>
      (log[x]?).map (fun e => (e.syn, e.qp))) }

/-- Bits of the header of slice `i` of furrow `k`, its NAL unit header included (R240). -/
def headerBits (g : Nat → Word) (ch : Nat) (p : Pic) (k i : Nat) : Nat :=
  16 + p.rho + min 192 (Config.sliceHeaderBits (sliceSyn g ch p k i []))

/-- The slice NAL units of furrow `k`. -/
def sliceNals (g : Nat → Word) (ch : Nat) (p : Pic) (k : Nat) : List (List Byte) :=
  let u := fur p k
  (List.range u.sliceBits.length).map (fun i =>
    let y := sliceSyn g ch p k i u.log
    nalHead (isVvc g ch) (sliceType (isVvc g ch) p) ++ (List.range (cdiv (u.sliceBits.getD i 0) 8 - 2)).map (Config.sliceByte y))

/-- The caption SEI of a picture (R209): a suffix SEI, payload type 4, the triples in the ATSC A/53 form of cc_data. PRESUMED: the suffix SEI
types of the standards and A/53's cc_data bytes. -/
def captionNal (vvc : Bool) (l : List Nat) : List Byte :=
  let cc := [0x40 + BitVec.ofNat 8 l.length, (0xFF : Byte)] ++ l.flatMap (fun x => [BitVec.ofNat 8 (x / 65536), BitVec.ofNat 8 (x / 256), BitVec.ofNat 8 x]) ++
    [0xFF]
  let body := [0xB5, 0x00, 0x31, 0x47, 0x41, 0x39, 0x34, 0x03] ++ cc
  nalHead vvc (if vvc then 24 else 40) ++ emulate 0 ([4, BitVec.ofNat 8 body.length] ++ body ++ [0x80])

end Sys2Proof.Machine
end

