-- ==== Sys2Proof/Machine/Coding.lean ====
section
/-! DEFINITION. The life of a picture from its boundary to its picture end: what is fixed at T_n, planting, CTUs, the coded
point and deadline fallow (R130, R195, R204–R209, R220–R253). -/

namespace Sys2Proof.Machine

open Sys2Proof

/-! ## What is fixed at T_n -/

/-- The picture before the next one: IDR or not and its base QP. -/
def prevPic (c : Chan) : Option (Bool × Int) :=
  match c.pics.getLast? with
  | some p => some (p.idr, p.baseQp)
  | none => (c.sums.head?).map (fun x => (x.idr, x.baseQp))

/-- The picture two before the next one, if it is finished. -/
def prevPrev (c : Chan) : Option PicSum :=
  match c.pics.getLast? with
  | none => c.sums.drop 1 |>.head?
  | some p => (c.sums.find? (fun x => decide (x.n < p.n))).bind (fun x => if c.pics.all (fun q => q.ended || decide (q.n = p.n)) then some x else none)

/-- What R206, R208, R220, R224, R232 and R248 fix for picture `n` before anything changes. -/
structure Plan where
  idr : Bool
  other : Bool          -- IDR for a reason other than an empty reference set
  act : Nat             -- the forced action, 0 for none
  forced : Bool         -- the action is applied (R224)
  gone : Nat
  invDone : Option Nat  -- a re-seating's INVALIDATE: references it removed
  refs : List RefPic × List RefPic
  gdr : Option (Nat × Nat)
  gdrNext : Option Nat
  poc : Nat
  lt : Bool
  bank : Int
  budget : Int
  baseQp : Int
  moved : Option Nat    -- the picture that a MARK_LONG moves
  sig : RefSig          -- what is signalled of the references (R223)
  rho : Nat
  period : Nat
  deriving DecidableEq, Repr

/-- The plan of the next picture of channel `ch` on the words in effect. -/
def planPicture (g : Nat → Word) (ch : Nat) (c : Chan) (first : Bool) : Plan :=
  let f := chFmt g ch
  let b := barnCfg g ch
  let d := drillCfg g ch
  let rc := refreshCfg g ch
  let act := if b.token ≠ c.token then b.action else 0
  let period := if first || decide (rc ≠ c.gdrKey) then 0 else c.periodN + 1
  let other := first || c.forceIdr || decide (idrKeyOf g ch ≠ c.idrKey) || (decide (rc.1 = 2) && decide (rc.2 ≤ period)) ||
    decide ((hrdRate d, cpbSize d f) ≠ c.hrd) || decide (d.mode ≠ c.mode) || decide (act = 1)
  let a1 := actOn b 0 c.forceInv (candidates c)
  let a2 := actOn b act none a1.1
  let refs := if other then ([], []) else refSet b a2.1
  let idr := other || (refs.1.isEmpty && refs.2.isEmpty)
  let refresh := decide (act = 2) || c.forceInv.isSome
  let gd := gdrStep c rc.1 rc.2 idr refresh
  let poc := if idr then 0 else c.poc + 1
  let sig := refSigOf poc ((c.last.map (fun r => [r.poc])).getD [] ++ (c.sRefs ++ c.lRefs).map (fun r => r.poc)) refs
  let bnk := bankStep (if first || decide (d.mode = 1 ∧ c.mode ≠ 1) then 0 else c.bank) (perPic f d.rate) d.window
    (if d.mode = 1 then (prevPrev c).bind (fun x => if x.mode = 1 then some x.bits else none) else none)
  { idr := idr, other := other, act := act
    forced := decide (act = 1) || decide (act = 2) ||
      (!other && ((decide (act = 3) && decide (0 < a2.2)) || (decide (act = 4) && decide (a2.1.1.length < a1.1.1.length))))
    gone := if other then 0 else a2.2
    invDone := c.forceInv.map (fun _ => if other then 0 else a1.2)
    refs := refs, gdr := gd.1, gdrNext := gd.2, poc := poc
    lt := decide (0 < b.ltPeriod) && decide (poc % b.ltPeriod = 0)
    bank := bnk, budget := pictureBudget d f bnk
    baseQp := pictureQp d idr (prevPic c) (prevPrev c)
    moved := if other then none else (a2.1.2.find? (fun r => a1.1.1.any (fun x => decide (x.n = r.n)))).map (fun r => r.n)
    sig := sig, rho := if isVvc g ch || idr then 0 else min (rhoBits sig) 320
    period := if idr then 0 else period }

/-- The barn at T_n (R221, R222): a mark moved to LONG, stalls no longer referenced freed once picture n − 1 has ended, the
lowest FREE stall CURRENT for picture `n`. -/
def barnAtBoundary (stalls n : Nat) (q : Plan) (c : Chan) : Chan :=
  let refs := q.refs.1 ++ q.refs.2
  let c := longStalls q.moved c
  let c := if c.pics.all (fun p => p.ended) then freeStalls refs c else c
  takeStall stalls n q.poc c

/-- A checkpoint that is wanted is taken when CKPT is 1 and none is held (R222). -/
def wantsCkpt (g : Nat → Word) (ch : Nat) (c : Chan) : Bool := c.ckptWant && (barnCfg g ch).ckpt && c.ckpt.isNone

/-- The channel is to be mirrored (R387): EN is live, it runs on its own die. -/
def mirrors (s : State) (ch : Nat) : Bool := reseatEn (liveW s) ch && running s ch && (chan s ch).seat.isNone

/-- The initial checkpoint of R387 may be taken now: it waits while another is held. -/
def wantsMirror (s : State) (g : Nat → Word) (ch : Nat) : Bool :=
  mirrors s ch && !(chan s ch).mirrorInit && (chan s ch).ckpt.isNone && (barnCfg g ch).ckpt

/-- The picture's ALF filters (R205), from those of its references that have ended before T_n under R214: none after picture n − 2. -/
def picFilters (s : State) (g : Nat → Word) (ch n : Nat) (refs : List RefPic) : Nat :=
  Config.alfFilters ((refs.filter (fun r => decide (r.n + 1 < n))).filterMap (fun r =>
    (stallOf (chan s ch) r.n).map (fun i => stallPx s (chDie s ch) (stallAt g ch i) (chFmt g ch) (codedSamp g ch))))

/-- The picture as it stands at T_n. Its overhead: the leading NAL units, the records, the captions (R235). -/
def newPic (s : State) (ch n : Nat) (first : Bool) (q : Plan) : Pic :=
  let g := effW s
  let c := chan s ch
  let filters := picFilters s g ch n (q.refs.1 ++ q.refs.2)
  let lead := nalBytes (isVvc g ch) 1024 (leadNals g ch q.idr q.poc q.gdr q.sig filters)
  { n := n
    cfg := (picStore s ch first).filter (fun e => picOwn ch e.1)
    flows := (chSvcs ch).flatMap (fun v => joinedFlows s v), svcs := packedSvcs ch s
    gen := c.gen, partId := partId g, idr := q.idr, poc := q.poc, lt := q.lt
    gdrFirst := decide ((q.gdr.map (fun x => x.1)) = some 0), gdr := q.gdr
    idrCount := if q.idr then 0 else c.sinceIdr + 1
    sRefs := q.refs.1, lRefs := q.refs.2, lead := lead, refSig := q.sig, filters := filters, rho := q.rho, budget := q.budget
    overhead := 8 * (lead.map List.length).sum + 512 * (chFmt g ch).furrows + (if captionsOn g ch then 1536 else 0)
    bank := q.bank, baseQp := q.baseQp, mode := (drillCfg g ch).mode, prevHeld := c.heldCount
    heldAll := c.holdNext, heldAdd := if c.holdNext then c.silent else 0
    marks := (List.range 16).map (fun i => (stall c i).mark)
    stallPoc := (List.range 16).map (fun i => (decide ((stall c i).mark ≠ mkFree), (stall c i).poc))
    pins := pinBits c, ckptHeld := c.ckpt.isSome }

/-- Forced actions and the start of an IDR picture or a cycle are reported (R224, R225). -/
def reportPlan (ch : Nat) (q : Plan) (s : State) : State :=
  let k := pgBarn s ch
  let s := if q.idr then bump k 0 1 (raiseBit k 0 s) else s
  let s := if (q.gdr.map (fun x => x.1)) = some 0 then bump k 1 1 s else s
  let s := if q.act = 0 then s else forceCount ch q.forced s
  let s := match q.invDone with
    | none => s
    | some n => bump k 4 n (forceCount ch (decide (0 < n)) s)
  let s := bump k 4 q.gone s
  if q.idr && !q.other then raiseBit k 3 s else s

/-- Picture `n` of channel `ch` begins at T_n on the words in effect (R130, R204, R220, R232, R235, R248), with the checkpoint that a resync, or
the first mirror copy, asks for (R222, R374, R387). -/
def beginPicture (ch n : Nat) (first : Bool) (s : State) : State :=
  let g := effW s
  let b := barnCfg g ch
  let d := drillCfg g ch
  let s := svcsAtBoundary ch first s
  let s := if first then canvasStart ch s else s
  let q := planPicture g ch (chan s ch) first
  let s := reportPlan ch q s
  let ck := wantsCkpt g ch (chan s ch)
  let s := modChan ch (barnAtBoundary b.stalls n q) s
  let s := if ck then modChan ch (fun c => { c with ckptWant := false }) (takeCkpt ch q.poc (q.refs.1 ++ q.refs.2) s)
    else if !first && wantsMirror s g ch then modChan ch (fun c => { c with ckptSeat := true }) (takeCkpt ch q.poc (q.refs.1 ++ q.refs.2) s)
    else s
  let p := newPic s ch n first q
  let low := decide (d.mode = 1) && decide (q.bank = -(d.window * perPic (chFmt g ch) d.rate : Nat))
  let s := if low && !(chan s ch).bankLow then raiseBit (pgDrill s ch) 5 s else s
  let s := modChan ch (fun c => { c with
    next := n + 1, any := true, begun := c.begun + 1, pics := c.pics ++ [p], mode := d.mode, hrd := (hrdRate d, cpbSize d (chFmt g ch))
    idrKey := idrKeyOf g ch, bank := q.bank, bankLow := low, poc := q.poc, sRefs := q.refs.1, lRefs := q.refs.2
    last := some { n := n, poc := q.poc, lt := q.lt }, gdr := q.gdr, gdrKey := refreshCfg g ch, gdrNext := q.gdrNext
    sinceIdr := p.idrCount, periodN := q.period, token := b.token, forceIdr := false, forceInv := none, holdNext := false
    silent := 0 }) s
  let s := bump (pgDrill s ch) 0 1 (bump (pgCh s ch) 0 1 s)
  if chComposed g ch then selectSources ch n s
  else completeFurrows ch n s

/-! ## Planting (R241, R242, R248) -/

/-- The quality at instant `t` (R325): the present one, or that before the last change when `t` precedes it. -/
def qualityAt (s : State) (t : Nat) : Nat :=
  (s.time.qualLog.takeWhile (fun x => decide (t < x.1))).foldl (fun _ x => x.2) s.time.quality

/-- The three terms of R242: borrowing, yard, reserve. -/
def capTerms (g : Nat → Word) (ch : Nat) (p : Pic) (k : Nat) : Int × Int × Int :=
  let f := picFmt ch p
  let d := drillCfg g ch
  let ns := slicesPer g ch
  let spendable := p.budget - p.overhead
  let q := earlierSpend p f k
  let phi := fun j => (reserveOf f ns p.rho j p.idr p.gdr : Int)
  let later := ((List.range' (k + 1) (f.furrows - (k + 1))).map phi).sum
  (max (share f spendable k + d.limit - q) (phi k), yardTerm d f k (8 * (p.lead.map List.length).sum) (captionsOn g ch), spendable - q - later)

/-- The furrow's QP before drift (R248); in fixed-QP mode the picture's. -/
def furrowQp (g : Nat → Word) (ch : Nat) (p : Pic) (k : Nat) (cap : Int) : Int :=
  let f := picFmt ch p
  let d := drillCfg g ch
  if d.mode = 2 then p.baseQp
  else
    let sp := p.budget - p.overhead
    let j := k - (f.d + 2)
    let ahead := decide (f.d + 2 ≤ k)
    let e : Int := if ahead then (((List.range (j + 1)).map (fun i => spendOf (fur p i))).sum : Nat) else 0
    let c := if ahead then share f sp j else 0
    let dq := clampI (4 * (e - c) / max 1 (share f sp 0)) (-3) 3
    let own := if k = 0 then share f sp 0 else share f sp k - share f sp (k - 1)
    clampI (p.baseQp + (if cap < own then dq + 1 else dq)) d.qpMin d.qpMax

/-- PLANTING_INSTANT: the furrow's cap and base QP. Without a reserve no cap is planted (R244). DESIGN CHOICE: QP_AT_MAX belongs to the
drill's own choice of QP; in fixed-QP mode, whose QP the configuration states, it is never raised (R241, R252). -/
def plantOp (ch k : Nat) (s : State) : State :=
  match (chan s ch).pics.find? (fun p => !(fur p k).planted) with
  | none => s
  | some p =>
    if (fur p k).complete && decide (k < (picFmt ch p).furrows) && inOrder s ch p k (fun u => u.planted) then
      let g := picG s ch p
      let d := drillCfg g ch
      let t := capTerms g ch p k
      let cap := min t.1 (min t.2.1 t.2.2)
      let term := if t.1 = cap then 0 else if t.2.1 = cap then 1 else 2
      let cp := picCapture ch p k
      let s := advance cp s
      let q := furrowQp g ch p k cap
      let s := modFur ch p.n k (fun u => { u with
        planted := true, cap := cap, capTerm := term, capReserve := d.reserve && decide (t.2.2 = cap), baseQp := q
        quality := qualityAt s cp }) s
      let s := if d.reserve then bump (pgDrill s ch) (7 + term) 1 s else s
      if d.mode ≠ 2 ∧ q = d.qpMax then raiseBit (pgDrill s ch) 4 s else s
    else s

/-! ## CTUs (R245–R248) -/

/-- The band of furrow `k` of `n` furrows over `e` engines (R211). -/
def bandOf (n e k : Nat) : Nat := ((List.range e).filter (fun b => decide (b * n / e ≤ k))).length - 1

/-- The CE page of engine `e` of a die. -/
def pgCe (d e : Nat) : Nat := pkey d (0x120 + e)

/-- The engine that serves furrow `k`; a faulted one's work goes to the lowest working engine of the mask (R211, R215). -/
def engineOf (s : State) (ch : Nat) (p : Pic) (k : Nat) : Nat :=
  let es := engines (engMask (picG s ch p) ch)
  let e := es.getD (bandOf (picFmt ch p).furrows es.length k) 0
  if (page s (pgCe (chDie s ch) e)).fault then
    (es.find? (fun x => !(page s (pgCe (chDie s ch) x)).fault)).getD e
  else e

/-- QP of CTU `x` coded normally, before which the furrow spent `t` bits (R248). -/
def ctuQp (g : Nat → Word) (ch : Nat) (p : Pic) (k x : Nat) (rs : List Region) (t : Int) : Int :=
  let f := picFmt ch p
  let d := drillCfg g ch
  let r := regionAt rs x k
  let off := (r.map (fun r => r.offset)).getD 0
  match r.bind (fun r => r.fixed) with
  | some q => q
  | none =>
    if d.mode = 2 then
      let z := qpScale g ch
      clampI (p.baseQp + off) z.1 z.2
    else
      let u := fur p k
      let room := u.cap - reserveOf f (slicesPer g ch) p.rho k p.idr p.gdr
      let drift := clampI (8 * (t - room * x / f.ctuCols) / max 1 room) (-2) 3
      clampI (u.baseQp + drift + off) d.qpMin d.qpMax

/-- Bits of the slices of a furrow from what its CTUs took. -/
def logSlices (ns wc : Nat) (l : List CtuLog) : List Nat :=
  if l.isEmpty then []
  else (List.range (sliceOf ns wc (l.length - 1) + 1)).map (fun i =>
    (((List.range l.length).filter (fun x => decide (sliceOf ns wc x = i))).map (fun x =>
      ((l[x]?).map (fun e => e.hdr + e.cost)).getD 0)).sum)

/-- The picture latch is set in one of furrows 0 to `k` (R247). -/
def latchedTo (p : Pic) (k : Nat) : Bool := (List.range (k + 1)).any (fun j => (fur p j).picLatch)

/-- The picture latch is set (R247). -/
def picLatched (p : Pic) : Bool := p.furs.any (fun e => e.2.picLatch)

/-- The bound of the CTU at column `x` (R245). -/
def ctuBound (g : Nat → Word) (ch : Nat) (p : Pic) (k x : Nat) : Nat :=
  let f := picFmt ch p
  ceiling f x k (intraKind f p.idr p.gdr x) + (if lastOfSlice (slicesPer g ch) f.ctuCols x then 48 else 0)

/-- Header bits that the CTU at column `x` brings: those of the slice it begins (R240). -/
def ctuHeader (g : Nat → Word) (ch : Nat) (p : Pic) (k x : Nat) : Nat :=
  let f := picFmt ch p
  if firstOfSlice (slicesPer g ch) f.ctuCols x then headerBits g ch p k (sliceOf (slicesPer g ch) f.ctuCols x) else 0

/-- The CTU at column `x` coded fallow (R236, R239). -/
def fallowCtu (s : State) (ch : Nat) (p : Pic) (k x : Nat) : CtuLog :=
  let g := picG s ch p
  let f := picFmt ch p
  let inp := (ctuIn s ch p k x 0).toRecIn
  let y := fallowSyn inp f (slicesPer g ch) p
  { hdr := ctuHeader g ch p k x
    cost := min (Config.ctuBits inp y (lastOfSlice (slicesPer g ch) f.ctuCols x)) (ctuBound g ch p k x)
    fallow := true, guarded := guarded (regions p.cfg ch) x k, qp := 0, syn := y }

/-- The CTU at column `x` coded normally at its QP (R245, R248). -/
def normalCtu (s : State) (ch : Nat) (p : Pic) (k x : Nat) : CtuLog :=
  let g := picG s ch p
  let f := picFmt ch p
  let rs := regions p.cfg ch
  let h := ctuHeader g ch p k x
  let qp := ctuQp g ch p k x rs ((spendOf (fur p k) : Int) + h)
  let inp := ctuIn s ch p k x qp
  let y := normalSyn inp g ch p
  { hdr := h, cost := Config.ctuBits inp.toRecIn y (lastOfSlice (slicesPer g ch) f.ctuCols x), fallow := false, guarded := guarded rs x k, qp := qp
    syn := y }

/-- What the furrow's next CTU is coded as (R245–R247): its log entry. -/
def codeCtu (s : State) (ch : Nat) (p : Pic) (k : Nat) : CtuLog :=
  let g := picG s ch p
  let f := picFmt ch p
  let rs := regions p.cfg ch
  let d := drillCfg g ch
  let u := fur p k
  let ns := slicesPer g ch
  let x := u.ctus
  let e := normalCtu s ch p k x
  let t : Int := (spendOf u : Int) + e.hdr
  let a := u.cap - t - reserveAfter f ns p.rho k x p.idr p.gdr
  let after := ((List.range' (x + 1) (f.ctuCols - (x + 1))).filter (fun y => guarded rs y k)).length
  let held : Int := if e.guarded then 0 else (after : Int) * (u.cap / f.ctuCols)
  let latched := latchedTo p k || (u.latch && !e.guarded)
  let normal := !d.reserve || (!latched && decide ((ctuBound g ch p k x : Int) < a) && decide ((e.cost : Int) ≤ a - held))
  if normal then e else fallowCtu s ch p k x

/-- The order of R212 and R228 lets furrow `k`'s next CTU be coded: the furrow above has reconstructed two columns more, or all of them. DEDUCED:
a furrow above whose cap was set by the reserve term is coded to its end first, unless the picture latch is set already: so the latch covers
every CTU after it in coding order, whatever the order of work items. -/
def ctuMay (f : Fmt) (p : Pic) (k : Nat) : Bool :=
  (decide (k = 0) || decide (min ((fur p k).ctus + 3) f.ctuCols ≤ (fur p (k - 1)).ctus)) &&
    (List.range k).all (fun j => !(fur p j).capReserve || latchedTo p j || decide ((fur p j).ctus = f.ctuCols))

/-- A CTU enters its furrow's log, its samples the reference cache; a fallow one sets the furrow latch, and in a furrow whose cap was set by the
reserve term the picture latch (R213, R246, R247). -/
def logCtu (ch : Nat) (p : Pic) (k x : Nat) (e : CtuLog) (s : State) : State :=
  let g := picG s ch p
  let f := picFmt ch p
  let set := e.fallow && (fur p k).capReserve
  let s1 := modFur ch p.n k (fun u => { u with
    log := u.log ++ [e], ctus := u.ctus + 1, sliceBits := logSlices (slicesPer g ch) f.ctuCols (u.log ++ [e])
    fallow := u.fallow + (if e.fallow then 1 else 0), latch := u.latch || e.fallow, picLatch := u.picLatch || set })
    (putCtu ch g p (ctuIn s ch p k x e.qp).toRecIn e.syn s)
  if set && !picLatched p then raiseBit (pgDrill s ch) 1 s1 else s1

/-- CTU_CODED: the furrow's next CTU; latches and events of a fallow one (R245–R247, R252). -/
def ctuOp (ch k : Nat) (s : State) : State :=
  match (chan s ch).pics.find? (fun p => !(fur p k).coded) with
  | none => s
  | some p =>
    let f := picFmt ch p
    let u := fur p k
    if u.planted && decide (u.ctus < f.ctuCols) && decide (k < f.furrows) && ctuMay f p k then
      let e := codeCtu s ch p k
      let s := bump (pgCe (chDie s ch) (engineOf s ch p k)) 0 1 (logCtu ch p k u.ctus e s)
      if e.fallow then
        let s := raiseBit (pgDrill s ch) 0 s
        if e.guarded then raiseBit (pgDrill s ch) 3 s else s
      else s
    else s

/-- The counts of CTUs that keep the kind the engines coded them as (R252). DEDUCED: a CTU is counted when its kind can no
longer change, at its furrow's coded point or deadline fallow. -/
def countLog (ch : Nat) (l : List CtuLog) (s : State) : State :=
  let k := pgDrill s ch
  let fal := l.filter (fun e => e.fallow)
  let nor := l.filter (fun e => !e.fallow)
  let s := bump k 6 (fal.filter (fun e => e.guarded)).length (bump k 2 fal.length s)
  bump k 11 nor.length (bumpInt k 10 (nor.map (fun e => e.qp)).sum s)

/-! ## Coded point and picture end (R195, R119, R137, R209, R221) -/

/-- The ancillary picture whose captions picture `p` carries (R209): its slot and source picture. -/
def captionSource (s : State) (ch : Nat) (p : Pic) : Option (Nat × Nat × Nat) :=
  let g := picG s ch p
  if chComposed g ch then
    let e := fld (g (chLoc ch 0x150)) 14 0
    ((canvasLayers p.cfg ch).find? (fun i => decide ((layCfg g i).kind = 2) && decide ((layCfg g i).source = e))).bind (fun i =>
      let sl := layerSlot g (layCfg g i)
      match p.layerPic.get (fun _ => none) i with
      | some (.ofNat m) => some (sl.1, sl.2, m)
      | _ => none)
  else
    let sl := chSlot g ch
    some (sl.1, sl.2, p.n)

/-- What the captions of picture `p` are read from as its last furrow `k` ends (R209): the ancillary packets of its source picture. -/
def captionReads (s : State) (ch : Nat) (p : Pic) (k : Nat) : List MemRange :=
  if captionsOn (picG s ch p) ch && decide (k + 1 = (picFmt ch p).furrows) then
    match captionSource s ch p with
    | none => []
    | some (d, n, m) =>
      [{ who := if d = chDie s ch then 0x40 else 0x42, die := d, addr := ancAt (slotCfg (picG s ch p) d n) m
         len := ((slotPic (slot s d n) m).anc.map (fun b => b.bytes)).sum }]
  else []

/-- Captions of the picture are taken: up to 31 triples, the rest discarded and counted (R209, R225). -/
def takeCaptions (ch : Nat) (p : Pic) (s : State) : State :=
  if captionsOn (picG s ch p) ch then
    match captionSource s ch p with
    | none => s
    | some (d, n, m) =>
      if (chan s ch).capM = some m then s
      else
        let l := picTriples (slotPic (slot s d n) m)
        let s := modChan ch (fun c => { c with capM := some m }) (modPic ch p.n (fun p => { p with captions := l.take 31 }) s)
        if 31 < l.length then bump (pgBarn s ch) 5 (l.length - 31) (raiseBit (pgBarn s ch) 6 s) else s
  else s

/-- Size of a finished picture (R235): its caption SEI counts as the fixed overhead of R209. -/
def picBits (ch : Nat) (p : Pic) : Nat := p.overhead + ((List.range (picFmt ch p).furrows).map (fun k => spendOf (fur p k))).sum

/-- Fallow CTUs of a picture. -/
def picFallow (ch : Nat) (p : Pic) : Nat := ((List.range (picFmt ch p).furrows).map (fun k => (fur p k).fallow)).sum

/-- The picture end of picture `n` (R195): its stall's mark, held or live, its size, the recovery point. DEDUCED: DRILL counter 5 counts the
picture then, work that was discarded having lost its latch (R249). -/
def pictureEnd (ch n : Nat) (s : State) : State :=
  match pic? s ch n with
  | none => s
  | some p0 =>
    let s := takeCaptions ch p0 s
    let p := (pic? s ch n).getD p0
    let held := !liveTo p (picFmt ch p).furrows
    let cnt := if held then min 255 (p.prevHeld + 1) else 0
    let s := modPic ch n (fun p => { p with ended := true }) s
    let s := modChan ch (fun c => { c with
      heldCount := cnt
      pics := c.pics.map (fun q => if n < q.n then { q with prevHeld := cnt } else q)
      sums := ({ n := n, idr := p.idr, bits := picBits ch p, budget := p.budget, fallow := picFallow ch p, mode := p.mode
                 baseQp := p.baseQp } :: c.sums).take 4 }) s
    let s := modChan ch (fun c =>
      let c := endStall n (p.lt || c.lRefs.any (fun r => decide (r.n = n))) c
      match c.pics.getLast? with
      | none => c
      | some q => if n < q.n then freeStalls (q.sRefs ++ q.lRefs) c else c) s
    let s := if held then bump (pgCh s ch) 2 1 (raiseBit (pgCh s ch) 1 s) else s
    let s := if p.gdr.any (fun x => decide (x.1 + 1 = x.2)) then raiseBit (pgBarn s ch) 4 s else s
    let s := if picLatched p then bump (pgDrill s ch) 5 1 s else s
    bump (pgDrill s ch) 1 (picBits ch p) s

/-- The furrow's reconstruction is in its stall (R195): its CODE item's write-back put it there, or the fallow path puts it there now (R249). -/
def fallowWrites (ch n k : Nat) (u : Fur) (s : State) : State := if u.written then s else writeFurrow ch n k s

/-- CODED_POINT (R195): the furrow's CTUs are all coded, its reconstruction is written or the fallow path writes it, and the furrow before is coded;
its marks are reported (R119); the last furrow ends the picture. -/
def codedOp (ch k : Nat) (s : State) : State :=
  match (chan s ch).pics.find? (fun p => !(fur p k).coded) with
  | none => s
  | some p =>
    let f := picFmt ch p
    let u := fur p k
    if decide (u.ctus = f.ctuCols) && decide (k < f.furrows) && inOrder s ch p k (fun u => u.coded) && (u.written || (u.dlFallow && !u.emptyCut)) then
      let s := if u.dlFallow && !u.emptyCut then s else countLog ch u.log s
      let s := leaveCache ch p k (fallowWrites ch p.n k u s)
      let s := modFur ch p.n k (fun u => { u with coded := true, role := recordRole s.yoke.role }) s
      let q := pgCh s ch
      let s := if u.inputStale then bump q 3 1 (raiseBit q 2 s) else s
      let s := if 0 < u.stale then bump q 4 1 (raiseBit q 3 s) else s
      let s := if u.concealed then bump q 5 1 (raiseBit q 4 s) else s
      if k + 1 = f.furrows then pictureEnd ch p.n s else s
    else s

/-! ## Deadline fallow (R249, R250) -/

/-- The CTUs of furrow `k` from its next one to its last, coded by the fallow path, which writes their reconstruction too (R249). -/
def fallowRest (ch n k : Nat) : Nat → State → State
  | 0, s => s
  | fuel + 1, s =>
    match pic? s ch n with
    | none => s
    | some p =>
      let x := (fur p k).ctus
      if x < (picFmt ch p).ctuCols then fallowRest ch n k fuel (logCtu ch p k x (fallowCtu s ch p k x) s) else s

/-- A furrow's log cut at CTU `cut`. -/
def cutFur (ns wc cut : Nat) (u : Fur) : Fur :=
  let l := u.log.take cut
  { u with dlFallow := true, written := false, log := l, ctus := l.length, sliceBits := logSlices ns wc l, fallow := (l.filter (fun e => e.fallow)).length }

/-- DEADLINE_POINT: the drill tests the coded point, in the order of furrows (R22); deadline fallow cuts the furrow at CTU `cut`, the first whose entropy coding
has not finished (R249, R250). -/
def deadlineOp (ch k cut : Nat) (s : State) : State :=
  match (chan s ch).pics.find? (fun p => !(fur p k).dlTested) with
  | none => s
  | some p =>
    let f := picFmt ch p
    if decide (f.furrows ≤ k) || !inOrder s ch p k (fun u => u.dlTested || u.coded) then s
    else
      let u := fur p k
      let s := advance (shiftT p (f.deadline p.n k)) (modFur ch p.n k (fun u => { u with dlTested := true }) s)
      if u.coded then s
      else
        let g := picG s ch p
        let rs := regions p.cfg ch
        let ns := slicesPer g ch
        let cut := min cut u.log.length
        let lost := f.ctuCols - cut
        let dp := pgDrill s ch
        let s := bump dp 4 1 (raiseBit dp 2 s)
        if lost = 0 then
          let s := modFur ch p.n k (fun u => { u with dlFallow := true, emptyCut := true }) s
          if k + 1 = f.furrows then takeCaptions ch p s else s
        else
          let gone := ((List.range' cut lost).filter (fun x => guarded rs x k)).length
          let s := countLog ch (u.log.take cut) s
          let s := bump dp 3 lost (bump dp 6 gone s)
          let s := raiseN dp 3 gone s
          fallowRest ch p.n k f.ctuCols (modFur ch p.n k (cutFur ns f.ctuCols cut) s)

end Sys2Proof.Machine
end

