-- ==== Sys2Proof/Machine/Pack.lean ====
section
/-! DEFINITION. What the yard packs: the freshness record, the NAL units of a furrow, RTP payloads, MPEG-TS, sequence numbers and FEC, byte by
byte (R34, R205, R318–R328, R405). -/

namespace Sys2Proof.Machine

open Sys2Proof

/-! ## The freshness record (R324–R328) -/

/-- The 32 bytes of a record, in network byte order (R324). -/
def recordBytes (quality capture part role ch gen stale : Nat) (inputStale concealed held : Bool)
    (fallow heldCount k furrows : Nat) : List Byte :=
  beBytes 1 (16 + quality) ++ beBytes 6 (capture / 1000000000) ++ beBytes 4 (capture % 1000000000) ++
  beBytes 2 (part * 16 + role * 4) ++ beBytes 1 ch ++ beBytes 2 gen ++ beBytes 2 stale ++
  beBytes 1 ((if inputStale then 128 else 0) + (if concealed then 64 else 0) + (if held then 32 else 0)) ++
  beBytes 2 fallow ++ beBytes 1 heldCount ++ beBytes 1 k ++ beBytes 1 furrows ++ List.replicate 8 0x5A

/-- The record of furrow `k` of a picture, each field as R325 sets it. -/
def furrowRecord (ch : Nat) (p : Pic) (k : Nat) : List Byte :=
  let f := fur p k
  let h := heldOf p k
  recordBytes f.quality (picCapture ch p k) p.partId f.role ch p.gen f.stale f.inputStale f.concealed h.1
    (f.fallow) h.2 k ((picFmt ch p).furrows)

/-- HELD set in a record (R381): bit 146 is bit 5 of byte 18. -/
def withHeld : List Byte → List Byte
  | [] => []
  | r => r.set 18 (r.getD 18 0 ||| 0x20)

/-- Emulation prevention bytes that a NAL unit's bytes need: one before each byte of 0 to 3 that follows two zero bytes. -/
def emuBytes : Nat → List Byte → Nat
  | _, [] => 0
  | z, b :: bs =>
    if 2 ≤ z ∧ b.toNat ≤ 3 then 1 + emuBytes (if b = 0 then 1 else 0) bs
    else emuBytes (if b = 0 then z + 1 else 0) bs

/-- The UUID of the record's SEI message (R327). -/
def recordUuid : List Byte := [0x7C, 0x3E, 0x9A, 0x51, 0xB2, 0x4D, 0x6F, 0x18, 0x95, 0xC1, 0xE7, 0xA3, 0x4D, 0x8B, 0x2F, 0x66]

/-- The freshness record's NAL unit (R327): header, payload type 5, payload size 48 + p, UUID, record, p fill bytes, the trailing bits, and the
emulation prevention that the record needs; 64 bytes in all. -/
def recordNal (vvc : Bool) (r : List Byte) : List Byte :=
  let p := 11 - emuBytes 0 r
  (if vvc then [0x00, 0xB9] else [0x4E, 0x01]) ++
    emulate 0 ([5, BitVec.ofNat 8 (48 + p)] ++ recordUuid ++ r ++ List.replicate p 0x5A ++ [0x80])

/-- The header extension of R328. -/
def recordExt (idA idB : Nat) (r : List Byte) : List Byte :=
  [0xBE, 0xDE, 0x00, 0x09, BitVec.ofNat 8 (idA * 16 + 15)] ++ r.take 16 ++ [BitVec.ofNat 8 (idB * 16 + 15)] ++ (r.drop 16).take 16 ++ [0, 0]

/-- Another record in a packet (R381): in its extension, and in what it holds of the record's NAL unit. -/
def reRecord (r : List Byte) (x : RtpPkt) : RtpPkt :=
  if x.record = [] then x
  else
  let n := recordNal false r
  { x with
    record := r
    ext := if x.ext = [] then [] else x.ext.take 5 ++ r.take 16 ++ (x.ext.drop 21).take 1 ++ (r.drop 16).take 16 ++ [0, 0]
    payload := x.recAt.foldl (fun l e => if 2 ≤ e.1 then l.set e.2 (n.getD e.1 0) else l) x.payload }

/-! ## NAL units of a furrow (R205, R318) -/

/-- A byte on its way into a packet, with its place in the record's NAL unit if it is one of its. -/
abbrev TByte := Byte × Option Nat

/-- Bytes that are not of a record. -/
def plainBytes (l : List Byte) : List TByte := l.map (fun b => (b, none))

/-- A NAL unit to be packed, and whether it is the picture's last slice. -/
abbrev PackNal := List TByte × Bool

/-- NAL units of furrow `k` in order: the leading ones before furrow 0, the freshness SEI, the slices, and after the last slice the captions,
if there are any (R205, R209, R327). -/
def furrowNals (g : Nat → Word) (ch : Nat) (p : Pic) (k : Nat) : List PackNal :=
  let rec_ := recordNal (isVvc g ch) (furrowRecord ch p k)
  let sl := sliceNals g ch p k
  let end_ := decide (k + 1 = (picFmt ch p).furrows)
  (if k = 0 then p.lead.map (fun x => (plainBytes x, false)) else []) ++
    [((List.range rec_.length).map (fun i => (rec_.getD i 0, some i)), false)] ++
    (List.range sl.length).map (fun i => (plainBytes (sl.getD i []), end_ && decide (i + 1 = sl.length))) ++
    (if end_ ∧ p.captions ≠ [] then [(plainBytes (captionNal (isVvc g ch) p.captions), false)] else [])

/-! ## RTP payloads (R318). PRESUMED: the payload headers of RFC 7798 and RFC 9328. -/

/-- A payload header of layer 0 and temporal sub-layer 0. -/
def payHead (vvc : Bool) (t : Nat) : List TByte := plainBytes (nalHead vvc t)

/-- The payload that holds these NAL units: one alone, or several behind their lengths in an aggregation packet. -/
def apPayload (vvc : Bool) (l : List PackNal) : List TByte :=
  match l with
  | [u] => u.1
  | l => payHead vvc (if vvc then 28 else 48) ++ l.flatMap (fun u => plainBytes (beBytes 2 u.1.length) ++ u.1)

/-- The size of that payload (R318). -/
def apSize (l : List PackNal) : Nat :=
  match l with
  | [] => 0
  | [u] => u.1.length
  | l => 2 + (l.map (fun u => 2 + u.1.length)).sum

/-- The fragment lengths of a NAL unit of payload `n` bytes with `m0` in the first packet and `m` in each later one: each
filled but the last (R318). -/
def fragments : Nat → Nat → Nat → Nat → List Nat
  | 0, _, _, _ => []
  | fuel + 1, n, m0, m => if n = 0 then [] else if n ≤ m0 then [n] else m0 :: fragments fuel (n - m0) m m

/-- The type of a NAL unit from its header. -/
def nalTypeOf (vvc : Bool) (u : List TByte) : Nat :=
  if vvc then ((u.getD 1 (0, none)).1).toNat / 8 else ((u.getD 0 (0, none)).1).toNat / 2 % 64

/-- The fragmentation units of a NAL unit, cut into these lengths: payload header, FU header with start and end, and for VVC the end of the
picture's last slice. -/
def fuPayloads (vvc : Bool) (u : PackNal) : List Nat → Bool → List TByte → List (List TByte)
  | [], _, _ => []
  | n :: ns, start, b =>
    let fin := ns.isEmpty
    let h := (if start then 128 else 0) + (if fin then 64 else 0) + (if vvc && fin && u.2 then 32 else 0) + nalTypeOf vvc u.1
    (payHead vvc (if vvc then 29 else 49) ++ plainBytes [BitVec.ofNat 8 h] ++ b.take n) :: fuPayloads vvc u ns false (b.drop n)

/-- R318's packing: payloads of the packets of a furrow, in order, with `first` telling whether none is sent yet. `lim` is the payload limit, 40
less for the first packet of a service with the extension. -/
def packNal (vvc : Bool) (lim0 lim : Nat) : List PackNal → List PackNal → Bool → List (List TByte)
  | [], held, _ => if held.isEmpty then [] else [apPayload vvc held]
  | u :: us, held, first =>
    let l := if first then lim0 else lim
    let flush := !held.isEmpty && decide (l < apSize (held ++ [u]))
    let out := if flush then [apPayload vvc held] else []
    let first' := first && !flush
    let held' := if flush then [] else held
    let l' := if first' then lim0 else lim
    if held'.isEmpty && decide (l' < u.1.length) then
      out ++ fuPayloads vvc u (fragments u.1.length (u.1.length - 2) (l' - 3) (lim - 3)) true (u.1.drop 2) ++ packNal vvc lim0 lim us [] false
    else out ++ packNal vvc lim0 lim us (held' ++ [u]) first'

/-- The packets of a FORM 0x0 furrow (R318): their payloads. -/
def packRtp (c : SvcCfg) (vvc : Bool) (nals : List PackNal) : List (List TByte) :=
  let lim := c.size - 40 - (if c.srtp ≠ 0 then 16 else 0)
  packNal vvc (lim - (if c.ext then 40 else 0)) lim nals [] true

/-! ## MPEG-TS (R319, R405). PRESUMED: the syntax of ISO/IEC 13818-1, Annex B start codes of four bytes, SMPTE ST 302 and AES3. -/

/-- Bits as bytes, the first bit in the most significant place. -/
def bitBytes : Nat → List Bool → List Byte
  | 0, _ => []
  | n + 1, l =>
    if l = [] then []
    else BitVec.ofNat 8 (((List.range 8).map (fun i => if l.getD i false then 2 ^ (7 - i) else 0)).sum) :: bitBytes n (l.drop 8)

/-- One byte more of the CRC-32 of program tables. -/
def crcMpeg (c : Nat) (b : Byte) : Nat :=
  (List.range 8).foldl (fun c _ => if 2 ^ 31 ≤ c then (2 * c % 2 ^ 32) ^^^ 0x04C11DB7 else 2 * c % 2 ^ 32) (c ^^^ (b.toNat * 2 ^ 24))

/-- A section from its table id, with its CRC, behind a pointer field. -/
def tsSection (table : Nat) (id : Nat) (body : List Byte) : List Byte :=
  let h := [BitVec.ofNat 8 table] ++ beBytes 2 (0xB000 + 5 + body.length + 4) ++ beBytes 2 id ++ [0xC1, 0, 0] ++ body
  [0] ++ h ++ beBytes 4 (h.foldl crcMpeg 0xFFFFFFFF)

/-- The program association table: program 1 in the PMT's PID. -/
def patSection (tsid pmt : Nat) : List Byte := tsSection 0 tsid (beBytes 2 1 ++ beBytes 2 (0xE000 + pmt))

/-- The program map table: the video stream, then each audio PID with the registration descriptor of R405. -/
def pmtSection (vvc : Bool) (vpid : Nat) (apids : List Nat) : List Byte :=
  tsSection 2 1 (beBytes 2 (0xE000 + vpid) ++ [0xF0, 0] ++ [if vvc then 0x33 else 0x24] ++ beBytes 2 (0xE000 + vpid) ++ [0xF0, 0] ++
    apids.flatMap (fun x => [0x06] ++ beBytes 2 (0xE000 + x) ++ [0xF0, 6, 0x05, 4, 0x42, 0x53, 0x53, 0x44]))

/-- The PCR of an instant `e` ns (R319): base at 90 kHz, extension at 27 MHz. -/
def pcrBytes (e : Nat) : List Byte :=
  beBytes 6 (e * 90000 / 1000000000 % 2 ^ 33 * 2 ^ 15 + 0x3F * 2 ^ 9 + e * 27000000 / 1000000000 % 300)

/-- A PTS alone in a PES header. -/
def ptsBytes (t : Nat) : List Byte :=
  [BitVec.ofNat 8 (0x21 + 2 * (t / 2 ^ 30 % 8))] ++ beBytes 2 (t / 2 ^ 15 % 2 ^ 15 * 2 + 1) ++ beBytes 2 (t % 2 ^ 15 * 2 + 1)

/-- A PES header of 14 bytes: stream id, packet length, a PTS and no DTS. -/
def pesHead (id len pts : Nat) : List Byte := [0, 0, 1, BitVec.ofNat 8 id] ++ beBytes 2 len ++ [0x80, 0x80, 5] ++ ptsBytes pts

/-- The TS packets of a run of bytes on a PID, the continuity counter from `cc` on: the first starts a unit when `start`, and carries `pcr`; the
last is completed with adaptation-field stuffing. -/
def tsSplit (pid : Nat) : Nat → Nat → Bool → List Byte → List TByte → List (List TByte)
  | 0, _, _, _, _ => []
  | fuel + 1, cc, start, pcr, b =>
    if b = [] then []
    else
      let room := 184 - (if pcr = [] then 0 else 8)
      let n := min room b.length
      let fill := room - n
      let af : List Byte :=
        if pcr ≠ [] then [BitVec.ofNat 8 (7 + fill), 0x10] ++ pcr ++ List.replicate fill 0xFF
        else if fill = 0 then []
        else if fill = 1 then [0]
        else [BitVec.ofNat 8 (fill - 1), 0] ++ List.replicate (fill - 2) 0xFF
      let h := [0x47] ++ beBytes 2 ((if start then 0x4000 else 0) + pid) ++ [BitVec.ofNat 8 ((if af = [] then 0x10 else 0x30) + cc % 16)]
      (plainBytes (h ++ af) ++ b.take n) :: tsSplit pid fuel (cc + 1) false [] (b.drop n)

/-- The TS packets of a section, the last filled with ones. -/
def tsTable (pid cc : Nat) (b : List Byte) : List (List TByte) :=
  tsSplit pid b.length cc true [] (plainBytes (b ++ List.replicate (cdiv b.length 184 * 184 - b.length) 0xFF))

/-- The PTS of a picture (R319): a furrow period after its last emission point, rounded up. -/
def picPts (ch : Nat) (p : Pic) : Nat :=
  let f := picFmt ch p
  cdiv ((picEmission ch p (f.furrows - 1) * f.num * f.h + f.c * f.den * 1000000000) * 90000) (1000000000 * f.num * f.h) % 2 ^ 33

/-- The elementary stream of a furrow: its NAL units behind start codes; before furrow 0 the PES header (R319). -/
def tsVideoBytes (ch : Nat) (p : Pic) (k : Nat) (nals : List PackNal) : List TByte :=
  (if k = 0 then plainBytes (pesHead 0xE0 0 (picPts ch p)) else []) ++ nals.flatMap (fun u => plainBytes [0, 0, 0, 1] ++ u.1)

/-- PAT and PMT precede furrow 0 of this picture (R319). -/
def tsTables (f : Fmt) (n : Nat) (idr : Bool) : Bool :=
  idr || decide (10 * n * f.den / f.num ≠ 10 * (n - 1) * f.den / f.num ∨ n = 0)

/-- One AES3 subframe of a sample as ST 302 carries it: the audio bits from the least significant up, V, U, C, and the block start. -/
def aesBits (bits : Nat) (x : Int) (nonAudio : Bool) (s : Nat) (start : Bool) : List Bool :=
  let v := (x % 2 ^ 24).toNat / 2 ^ (24 - bits)
  let i := s % 192
  (List.range bits).map v.testBit ++ [false, false, decide (i = 0) || (decide (i = 1) && nonAudio) || decide (i = 7), start && decide (i = 0)]

/-- The PTS of an audio PES of first sample `x` in the stream of a video channel of format `f` (R405). -/
def audioPts (f : Fmt) (x : Nat) : Nat :=
  let u := f.num * f.h
  ((x * u * 50000 + 48000 * 50000 * (f.den * f.h + (f.d + 1) * f.den * f.c) + 48000 * u) * 90000) / (48000 * 50000 * u) % 2 ^ 33

/-- The PES packet of packet time `i` of FORM 1 audio service `a` in the stream of channel format `f` (R405). -/
def audioPes (s : State) (g : Nat → Word) (a : Nat) (f : Fmt) (i : Nat) : List Byte :=
  let c := asvcCfg g a
  let fl := asvcFlow a
  let fc := aflCfg g fl
  let bits := if fc.l24 then 24 else 16
  let pay := audioPayload s a (i * fc.n)
  let mark := fun k n => markAt s fl (c.first + 2 * (k / 2)) n || markAt s fl (c.first + 2 * (k / 2) + 1) n
  let body := bitBytes (fc.n * c.count * 4) ((List.range pay.length).flatMap (fun j =>
    aesBits bits (pay.getD j 0) (mark (j % c.count) (i * fc.n + j / c.count)) (i * fc.n + j / c.count) (decide (j % 2 = 0))))
  let aes := beBytes 2 body.length ++ beBytes 2 ((c.count / 2 - 1) * 2 ^ 14 + (if fc.l24 then 2 else 0) * 16)
  pesHead 0xBD (8 + aes.length + body.length) (audioPts f (i * fc.n)) ++ aes ++ body

/-- The packet times of a FORM 1 service whose PES go into furrow `k` (R405): the last sample's end lies after the capture point of the furrow
before, T_n for furrow 0, and not after this one's. -/
def pesOf (g : Nat → Word) (ch : Nat) (p : Pic) (k a : Nat) : List Nat :=
  let f := picFmt ch p
  let u := f.num * f.h * 1000000000 * (aflCfg g (asvcFlow a)).n
  let lo := (if k = 0 then p.n * f.h * f.den * 1000000000 else f.captureU p.n (k - 1)) * 48000 / u
  List.range' lo (f.captureU p.n k * 48000 / u - lo)

/-- Every sample that the FORM 1 services of furrow `k` take for video service `v` is ready: PACK waits for it (R405). -/
def pesReady (s : State) (g : Nat → Word) (v ch : Nat) (p : Pic) (k : Nat) : Bool :=
  (tsAudio g v).all (fun a => (pesOf g ch p k a).all (fun i =>
    decide ((i + 1) * (aflCfg g (asvcFlow a)).n ≤ (aflow s (asvcFlow a)).ready)))

/-- The audio TS packets of furrow `k`, each PES beginning a packet, and the service's continuity counters after them. -/
def tsAudioPkts (s : State) (g : Nat → Word) (v ch : Nat) (p : Pic) (k : Nat) : List (List TByte) × Tbl Nat :=
  (tsAudio g v).foldl (fun r a => (pesOf g ch p k a).foldl (fun (r : List (List TByte) × Tbl Nat) i =>
    let b := audioPes s g a (picFmt ch p) i
    let l := tsSplit (asvcCfg g a).pid b.length (r.2.get (fun _ => 0) a) true [] (plainBytes b)
    (r.1 ++ l, r.2.set (fun _ => 0) a ((r.2.get (fun _ => 0) a + l.length) % 16))) r) ([], (svc s v).ccAudio)

/-- TS packets grouped into RTP payloads (R319). -/
def packTs (per : Nat) : Nat → List (List TByte) → List (List TByte)
  | 0, _ => []
  | n + 1, l => if l = [] then [] else (l.take (max 1 per)).flatten :: packTs per n (l.drop (max 1 per))

/-! ## Queuing (R320, R321, R337, R338) -/

/-- Cost of a packet for the pacer: its untagged frame and 20 bytes (R337). -/
def pktCost (ipLen : Nat) : Nat := ipLen + 38

/-- Release instant of a packet of a furrow before which `sum` bytes of cost were queued (R338): not before it is queued,
and on the 8 ns tick. -/
def releaseAt (f : Fmt) (w e sum now : Nat) : Nat :=
  max (e + 8 * (sum * f.den * f.c * 1000000000 / (f.num * f.h * w * 8))) (roundUp now 8)

/-- What stays the same for all packets of a furrow of a service. -/
structure PackCtx where
  v : Nat
  ch : Nat
  pic : Pic
  k : Nat
  cfg : SvcCfg
  w : Nat
  e : Nat
  ts : Nat
  record : List Byte
  now : Nat
  deriving DecidableEq, Repr

/-- Places of the record's NAL unit in a payload. -/
def recPlaces (b : List TByte) : List (Nat × Nat) :=
  (List.range b.length).filterMap (fun i => ((b.getD i (0, none)).2).map (fun j => (j, i)))

/-- A media packet from a payload: its number, timestamp and marker; the first of a furrow carries the extension (R318, R320, R328). -/
def mediaRtp (x : PackCtx) (b : List TByte) (first last : Bool) (v : Svc) : RtpPkt :=
  let f := picFmt x.ch x.pic
  { seq := v.seq, roc := v.roc, ts := x.ts, marker := last && decide (x.cfg.form = 0) && decide (x.k + 1 = f.furrows)
    pt := if x.cfg.form = 0 then x.cfg.pt else 33
    ext := if first && x.cfg.ext then recordExt x.cfg.idA x.cfg.idB x.record else []
    payload := b.map (fun e => e.1), record := if (first ∧ x.cfg.ext = true) ∨ recPlaces b ≠ [] then x.record else [], recAt := recPlaces b }

/-- One packet appended to a service's queue; `sum` is the cost of the furrow's packets before it. -/
def queuePkt (x : PackCtx) (kind : Nat) (r : RtpPkt) (covers : List RtpPkt) (step ipLen sum : Nat) (first last : Bool) (s : State) : State :=
  let f := picFmt x.ch x.pic
  modSvc x.v (fun v => { v with queue := v.queue ++ [
    { svc := x.v, ch := x.ch, n := x.pic.n, furrow := x.k, idx := if first then 0 else 1, kind := kind, rtp := r, covers := covers
      fecStep := step, part := x.pic.partId, ipLen := ipLen
      release := releaseAt f x.w x.e sum x.now, last := last && decide (x.k + 1 = f.furrows)
      flows := x.pic.flows.filter (fun e => decide ((flowCfgL e.2).svc = x.v))
      dual := x.cfg.dual, srtp := x.cfg.srtp, key := x.cfg.key }] }) s

/-- A FEC packet of column (kind 1) or row (kind 2) over `covers`: 16 bytes longer than the longest of them (R321, R334). -/
def queueFec (x : PackCtx) (kind : Nat) (covers : List RtpPkt) (sum : Nat) (s : State) : Nat × State :=
  let v := svc s x.v
  let seq := if kind = 1 then v.fecCol else v.fecRow
  let len := (covers.map (rtpIpLen x.cfg.srtp)).foldl max 0 + 16
  let s := queuePkt x kind { seq := seq, roc := 0, ts := x.ts, marker := false, pt := 96 } covers (if kind = 1 then x.cfg.fecL else 1) len sum
    false false s
  let s := modSvc x.v (fun v => if kind = 1 then { v with fecCol := (v.fecCol + 1) % 65536 } else { v with fecRow := (v.fecRow + 1) % 65536 }) s
  (sum + pktCost len, bump (pgYard (svcDie s x.v)) 4 1 s)

/-- The FEC matrix of a service with words `c` (R321). DESIGN CHOICE: a picture whose FEC, FEC_L or FEC_D differ from those of the matrix in
progress begins a new matrix. -/
def fecMatrix (c : SvcCfg) (v : Svc) : Svc :=
  if c.fec = 0 then { v with fecPos := 0, fecPkts := [], fecShape := none }
  else if v.fecShape.all (fun x => decide (x = (c.fec, c.fecL, c.fecD))) then { v with fecShape := some (c.fec, c.fecL, c.fecD) }
  else { v with fecPos := 0, fecPkts := [], fecShape := some (c.fec, c.fecL, c.fecD) }

/-- One media packet, its sequence number and counts, and the FEC packets it completes (R320, R321). -/
def queueMedia (x : PackCtx) (b : List TByte) (first last : Bool) (sum : Nat) (s : State) : Nat × State :=
  let d := svcDie s x.v
  let s := modSvc x.v (fecMatrix x.cfg) s
  let v := svc s x.v
  let r := mediaRtp x b first last v
  let len := rtpIpLen x.cfg.srtp r
  let s := queuePkt x 0 r [] 0 len sum first last s
  let sum := sum + pktCost len
  let wrap := decide (v.seq = 65535)
  let s := modSvc x.v (fun v => { v with seq := (v.seq + 1) % 65536, roc := if wrap then v.roc + 1 else v.roc }) s
  let s := if wrap then raiseBit (pgYard d) 1 s else s
  let s := bump (pgYard d) 0 1 s
  if x.cfg.fec = 0 then (sum, s)
  else
    let l := x.cfg.fecL
    let dd := x.cfg.fecD
    let pos := v.fecPos
    let pkts := v.fecPkts ++ [(pos, r)]
    let col := pos % l
    let colOf := (pkts.filter (fun e => decide (e.1 % l = col))).map (fun e => e.2)
    let rowOf := (pkts.filter (fun e => decide (e.1 / l = pos / l))).map (fun e => e.2)
    let done := decide (pos + 1 = l * dd)
    let s := modSvc x.v (fun v => { v with fecPos := if done then 0 else pos + 1, fecPkts := if done then [] else pkts }) s
    let q := if l * (dd - 1) ≤ pos then queueFec x 1 colOf sum s else (sum, s)
    if x.cfg.fec = 2 ∧ col + 1 = l then queueFec x 2 rowOf q.1 q.2 else q

/-- The packets of a furrow, in order. -/
def queueAll (x : PackCtx) : List (List TByte) → Bool → Nat → State → State
  | [], _, _, s => s
  | b :: bs, first, sum, s =>
    let r := queueMedia x b first bs.isEmpty sum s
    queueAll x bs false r.1 r.2

/-- Floor of 90,000 t for an instant in ns, modulo 2^32 (R320). -/
def rtp90k (t : Nat) : Nat := t * 90000 / 1000000000 % 2 ^ 32

/-- Floor(90,000 T_n) mod 2^32, T_n exact (R320). -/
def rtpOfPic (f : Fmt) (n : Nat) : Nat := n * f.den * 90000 / f.num % 2 ^ 32

/-- The words under which service `v` packs picture `p`: those in effect, or, once it is no longer valid there, those it
ended with the picture on, as they stood at T_n (DEDUCED from R320: it packs the picture in progress to its end). -/
def packG (s : State) (ch : Nat) (p : Pic) (v : Nat) (ws : List Word) : Nat → Word :=
  let g := picG s ch p
  if bitOf (g (svcLoc v)) 31 then g
  else fun a => if a = svcLoc v then ws.getD 0 0 else if a = packLoc ch 0 then ws.getD 1 0
    else if a = packLoc ch 1 then ws.getD 2 0 else if a = packLoc ch 2 then ws.getD 3 0 else g a

/-- The TS packets of furrow `k` of a FORM 0x1 service, and the service with its continuity counters after them (R319, R405). -/
def tsFurrow (s : State) (g : Nat → Word) (v ch : Nat) (p : Pic) (k : Nat) (nals : List PackNal) : List (List TByte) × Svc :=
  let c := svcCfg g v
  let y := svc s v
  let tabs := decide (k = 0) && tsTables (picFmt ch p) p.n p.idr
  let pat := if tabs then tsTable 0 y.ccPat (patSection (streamId p.partId v % 65536) c.pmt) else []
  let pmt := if tabs then tsTable c.pmt y.ccPmt (pmtSection (isVvc g ch) c.vpid ((tsAudio g v).map (fun a => (asvcCfg g a).pid))) else []
  let es := tsVideoBytes ch p k nals
  let vid := tsSplit c.vpid (es.length + 1) y.ccVideo (decide (k = 0)) (pcrBytes (picEmission ch p k)) es
  let aud := tsAudioPkts s g v ch p k
  (pat ++ pmt ++ vid ++ aud.1, { y with
    ccVideo := (y.ccVideo + vid.length) % 16, ccPat := (y.ccPat + pat.length) % 16, ccPmt := (y.ccPmt + pmt.length) % 16, ccAudio := aud.2 })

/-- PACK of one furrow for one service (R318–R321, R325–R330), at instant `now`. -/
def packFurrow (v ch n k : Nat) (s : State) : State :=
  match pic? s ch n with
  | none => s
  | some p =>
    match p.svcs.lookup v with
    | none => s
    | some ws =>
      let g := packG s ch p v ws
      let c := svcCfg g v
      let f := picFmt ch p
      let e := picEmission ch p k
      let nals := furrowNals g ch p k
      let rec_ := furrowRecord ch p k
      let d := svcDie s v
      let ts := tsFurrow s g v ch p k nals
      let pkts := if c.form = 0 then packRtp c (isVvc g ch) nals else packTs c.tsPer ts.1.length ts.1
      let x : PackCtx :=
        { v := v, ch := ch, pic := p, k := k, cfg := c, w := allowance g v, e := e
          ts := if c.form = 0 then rtpOfPic f n else rtp90k e, record := rec_, now := s.time.now }
      let s := bump (pgYard d) 1 1 (bump (pgYard d) 8 (emuBytes 0 rec_) s)
      let s := if c.form = 0 then s else modSvc v (fun _ => ts.2) (bump (pgYard d) 5 ts.1.length s)
      let s := if c.form = 0 then s else (tsAudio g v).foldl (fun s a => bump (pgAfl (asvcFlow a)) 1 (pesOf g ch p k a).length s) s
      queueAll x pkts true 0 s

end Sys2Proof.Machine
end

