-- ==== Sys2Proof/Machine/Dsp.lean ====
section
/-! DEFINITION. The dispatcher: work items, slots, queues, flows, withdrawal (R271–R290), as operations. Owners of a die are
numbered 0–31 for its channels, 32–95 for its decode sources, 96–127 for its canvases. Units are 0–3 the pixel pipelines,
4 the decode engine, 5 the paddock, 6 the packer, 7–10 the entropy units. -/

namespace Sys2Proof.Machine

open Sys2Proof

/-- Kind codes (R271). -/
def kAnalyse : Nat := 0
def kCode : Nat := 1
def kEntropy : Nat := 2
def kCompose : Nat := 3
def kDecode : Nat := 4
def kPack : Nat := 5

/-- Task slots of an owner (R272). -/
def ownerSlots (o : Nat) : List Nat :=
  if o < 32 then List.range' (12 * o) 12 else if o < 96 then [384 + (o - 32)] else [448 + 2 * (o - 96), 449 + 2 * (o - 96)]

/-- The channel that runs as local channel `i` of die `d`: a re-seated one on its spare number (R389). -/
def channelAt (s : State) (d i : Nat) : Option Nat :=
  match s.chans.find? (fun e => decide (e.2.seat = some (32 * d + i))) with
  | some e => some e.1
  | none => if (chan s (32 * d + i)).seat = none then some (32 * d + i) else none

/-- Order of the kinds in creation (R273). -/
def kindOrder (k : Nat) : Nat := if k = kPack then 3 else k

/-- `a` is created before `b`: picture, furrow, kind, index. -/
def itemBefore (a b : Nat × Nat × Nat × Nat) : Bool :=
  decide (a.1 < b.1) || (decide (a.1 = b.1) && (decide (a.2.1 < b.2.1) || (decide (a.2.1 = b.2.1) &&
    (decide (kindOrder a.2.2.1 < kindOrder b.2.2.1) || (decide (a.2.2.1 = b.2.2.1) && decide (a.2.2.2 < b.2.2.2))))))

/-- The items of a picture of a channel, in creation order; a furrow that deadline fallow has cut has no coding items to
come (R281), unless the cut is empty and its items go on (R249), and one that is packed and coded has no item. -/
def pictureItems (s : State) (ch : Nat) (p : Pic) : List (Nat × Nat × Nat × Nat) :=
  let f := picFmt ch p
  let ns := slicesPer (picG s ch p) ch
  ((List.range f.furrows).filter (fun k => !((fur p k).packed && (fur p k).coded))).flatMap (fun k =>
    (if (fur p k).dlFallow && !(fur p k).emptyCut then []
     else (List.range (cdiv f.ctuCols 16)).map (fun i => (p.n, k, kAnalyse, i)) ++ [(p.n, k, kCode, 0)] ++
       (List.range ns).map (fun i => (p.n, k, kEntropy, i))) ++ [(p.n, k, kPack, 0)])

/-- Everything an owner may still create, in order. -/
def ownerItems (s : State) (d o : Nat) : List (Nat × Nat × Nat × Nat) :=
  if o < 32 then
    match channelAt s d o with
    | none => []
    | some ch => (chan s ch).pics.flatMap (pictureItems s ch)
  else if o < 96 then
    (dec s d (o - 32)).curs.flatMap (fun j => (List.range j.slices).map (fun i => (j.idx, 0, kDecode, i)))
  else
    match channelAt s d (o - 96) with
    | none => []
    | some ch => (chan s ch).pics.flatMap (fun p =>
        if chComposed (picG s ch p) ch then
          ((List.range (picFmt ch p).furrows).filter (fun k => !(fur p k).packed)).map (fun k => (p.n, k, kCompose, 0))
        else [])

/-- The owner's oldest uncreated item (R273). -/
def nextItem (s : State) (d o : Nat) : Option (Nat × Nat × Nat × Nat) :=
  let x := dsp s d
  (ownerItems s d o).find? (fun a => !x.done.contains (o, a) && x.items.all (fun i => decide (i.key ≠ (o, a))))

/-- The owners of die `d` that have work: channels, decode sources, canvases. -/
def workOwners (s : State) (d : Nat) : List Nat :=
  let cs := ((s.chans.map Prod.fst).filter (fun ch => decide (chDie s ch = d) && !(chan s ch).pics.isEmpty)).map (fun ch => reportCh s ch % 32)
  cs ++ ((s.decs.map Prod.fst).filter (fun k => decide (k / 64 = d))).map (fun k => 32 + k % 64) ++ cs.map (fun o => 96 + o)

/-- Everything that the owners of die `d` may have in hand. -/
def dieWork (s : State) (d : Nat) : List (Nat × Nat × Nat × Nat × Nat) :=
  (workOwners s d).flatMap (fun o => (ownerItems s d o).map (fun a => (o, a)))

/-- The channel of an owner. -/
def ownerCh (s : State) (d o : Nat) : Nat :=
  if o < 32 then (channelAt s d o).getD 0 else if o < 96 then 0 else (channelAt s d (o - 96)).getD 0

/-- Rows of picture `p` are final down to furrow `j`: filtering of its bottom rows waits for the next furrow (R195). -/
def rowsFinal (ch : Nat) (p : Pic) (j : Nat) : Bool :=
  let n := (picFmt ch p).furrows
  if j + 1 < n then (fur p (j + 1)).coded else (fur p (n - 1)).coded

/-- Every reference row that furrow `k`'s search reaches is final (R214, R271). -/
def refsFinal (s : State) (ch : Nat) (p : Pic) (k : Nat) : Bool :=
  (chan s ch).pics.all (fun q => !(p.sRefs ++ p.lRefs).any (fun r => decide (r.n = q.n)) || q.ended ||
    rowsFinal ch q (min (k + cdiv 264 (picFmt ch p).c) ((picFmt ch p).furrows - 1)))

/-- The item of a picture's furrow has been released. -/
def released (s : State) (d o n k kind idx : Nat) : Bool := (dsp s d).done.contains (o, n, k, kind, idx)

/-- The item has started: it is in service, has ended or is released. -/
def started (s : State) (d o n k kind idx : Nat) : Bool :=
  released s d o n k kind idx || (dsp s d).items.any (fun i => decide (i.key = (o, n, k, kind, idx)) && (i.unit.isSome || i.ended))

/-- CTUs of furrow `k` up to the end of slice `i`. -/
def sliceTo (g : Nat → Word) (ch : Nat) (p : Pic) (i : Nat) : Nat :=
  let f := picFmt ch p
  ((List.range f.ctuCols).filter (fun x => decide (sliceOf (slicesPer g ch) f.ctuCols x ≤ i))).length

/-- A resynchronised channel's join picture is packed from the counters of the record of the picture before it (R374). -/
def awaitsRecord (s : State) (ch n : Nat) : Bool :=
  let y := ych s ch
  decide (y.st = ysVerify) && decide (y.join = some n) && !y.lastRx.any (fun r => decide (n ≤ r.picture + 1))

/-- The readiness conditions of R271 hold. -/
def couldBeReady (s : State) (d o n k kind idx : Nat) : Bool :=
  if kind = kDecode then
    match (dec s d (o - 32)).curs with
    | [] => false
    | j :: _ => decide (j.idx = n) && decide (idx = j.slices - j.left)
  else
    let ch := ownerCh s d o
    match pic? s ch n with
    | none => false
    | some p =>
      let f := picFmt ch p
      let u := fur p k
      if kind = kAnalyse then u.complete && refsFinal s ch p k
      else if kind = kCode then
        u.planted && (List.range (cdiv f.ctuCols 16)).all (released s d o n k kAnalyse) &&
          (decide (k = 0) || (fur p (k - 1)).coded || (fur p (k - 1)).dlFallow || started s d o n (k - 1) kCode 0)
      else if kind = kEntropy then decide (sliceTo (picG s ch p) ch p idx ≤ u.log.length)
      else if kind = kCompose then u.composing
      else (u.coded || u.emptyCut) && !awaitsRecord s ch n &&
        p.svcs.all (fun e => pesReady s (packG s ch p e.1 e.2) e.1 ch p k)

/-- The deadline of an item (R271), in ns. -/
def itemDeadline (s : State) (d o n k kind : Nat) : Nat :=
  if kind = kDecode then (((dec s d (o - 32)).curs.find? (fun j => decide (j.idx = n))).map (fun j => j.due.toNat / 9)).getD 0
  else
    let ch := ownerCh s d o
    match pic? s ch n with
    | none => 0
    | some p =>
      let f := picFmt ch p
      if kind = kPack then picEmission ch p k
      else if kind = kCompose then (fur p k).composeAt + f.furrowU / (f.num * f.h)
      else shiftT p (f.deadline n k)

/-- The queue of an item with this slack (R274). -/
def queueOf (deadline now : Nat) : Nat :=
  let u := (deadline - now) / 1000
  if u < 16 then 0 else if u < 32 then 1 else if u < 64 then 2 else if u < 128 then 3 else if u < 256 then 4 else if u < 512 then 5
  else if u < 1024 then 6 else 7

/-- An item enters queue 0 (R274). -/
def urgent (d : Nat) (s : State) : State := bump (pgDsp d) 121 1 (raiseBit (pgDsp d) 2 s)

/-- What has become ready on die `d` is ready now, created or not (R275); what no owner has in hand any more is forgotten, and the waiting times
of what cannot be created again are recorded (R283). -/
def noteReady (d : Nat) (s : State) : State :=
  let w := dieWork s d
  let s := recordEnded d (fun a => !w.contains a || (pic? s (ownerCh s d a.1) a.2.1).all (fun p => (fur p a.2.2.1).coded)) s
  modDsp d (fun x => { x with
    done := x.done.filter w.contains
    readyAt := x.readyAt.filter (fun e => w.contains e.1) ++
      (w.filter (fun a => x.readyAt.all (fun e => decide (e.1 ≠ a)) && couldBeReady s d a.1 a.2.1 a.2.2.1 a.2.2.2.1 a.2.2.2.2)).map
        (fun a => (a, s.time.now)) }) s

/-- Units of die `d` that hold no item any more are free from now on; a pipeline's time is counted (R227, R288). -/
def noteUnits (d : Nat) (s : State) : State :=
  (List.range 11).foldl (fun s u =>
    let x := dsp s d
    match x.busyFrom.get (fun _ => none) u with
    | none => s
    | some b =>
      if x.items.any (fun i => decide (i.unit = some u)) then s
      else
        let t := s.time.now
        let s := if u < 4 then bump (pgCe d u) 4 ((t - b) * 8 / 5) s else s
        modDsp d (fun x => { x with
          busyFrom := x.busyFrom.set (fun _ => none) u none, freeAt := x.freeAt.set (fun _ => 0) u t
          acc := x.acc.set (fun _ => 0) u (x.acc.get (fun _ => 0) u + (t - max b x.winStart)) }) s) s

/-- Work of the same flow before `i` that is not released yet (R276). -/
def flowAhead (s : State) (d : Nat) (i : Item) : List (Nat × Nat × Nat × Nat) :=
  (ownerItems s d i.owner).filter (fun a => decide (a.2.2.1 = i.kind) && itemBefore a (i.n, i.furrow, i.kind, i.idx) &&
    !(dsp s d).done.contains (i.owner, a))

/-- Ended items that their flow lets go are released, oldest first (R273, R276). -/
def releaseItems (d : Nat) : Nat → State → State
  | 0, s => s
  | n + 1, s =>
    match (dsp s d).items.find? (fun i => i.ended && (flowAhead s d i).isEmpty) with
    | none => s
    | some i =>
      releaseItems d n (bump (pgDsp d) (112 + i.kind) 1 (modDsp d (fun x => { x with
        items := x.items.filter (fun j => decide (j.slot ≠ i.slot)), done := i.key :: x.done }) s))

/-- The work of a DECODE item that was not served has ended with its access unit (R266). -/
def orphan (s : State) (d : Nat) (i : Item) : Bool :=
  decide (i.kind = kDecode) && i.unit.isNone && (dec s d (i.owner - 32)).curs.all (fun j => decide (j.idx ≠ i.n))

/-- Work that has ended is released, and items of die `d` whose last readiness condition has become true are ready, and are queued
(R273–R275). -/
def wakeDie (d : Nat) (s : State) : State :=
  let s := modDsp d (fun x => { x with items := x.items.map (fun i => if orphan s d i then { i with ended := true } else i) }) s
  let s := noteUnits d (noteReady d (releaseItems d 512 s))
  (dsp s d).items.foldl (fun s i =>
    match (dsp s d).readyAt.lookup i.key with
    | none => s
    | some t =>
      if i.ready.isSome then s
      else
        let dl := itemDeadline s d i.owner i.n i.furrow i.kind
        let q := queueOf dl s.time.now
        let s := modDsp d (fun x => { x with items := x.items.map (fun j =>
          if j.slot = i.slot then { j with ready := some t, deadline := dl, queue := q } else j) }) s
        if q = 0 then urgent d s else s) s

/-- The same on every die that has work or holds an item. -/
def wakeItems (s : State) : State :=
  ((s.dsps.map Prod.fst ++ s.decs.map (fun (e : Nat × Dec) => e.1 / 64) ++
    ((s.chans.map Prod.fst).filter (fun ch => !(chan s ch).pics.isEmpty)).map (chDie s)).eraseDups).foldl (fun s d => wakeDie d s) s

/-- The high-water mark follows the slots in use (R288). -/
def noteSlots (d : Nat) (s : State) : State := modDsp d (fun x => { x with hwm := max x.hwm x.items.length }) s

/-- ITEM_CREATE (R273): the owner's oldest uncreated item takes a free slot; one that could be ready and finds none is
counted once as waiting. -/
def itemCreateOp (d o : Nat) (s : State) : State :=
  match nextItem s d o with
  | none => s
  | some (n, k, kind, idx) =>
    let x := dsp s d
    match (ownerSlots o).find? (fun i => x.items.all (fun j => decide (j.slot ≠ i))) with
    | none =>
      if couldBeReady s d o n k kind idx && !x.waited.contains o then
        modDsp d (fun x => { x with waited := NSet.add x.waited o }) (bump (pgDsp d) 119 1 (raiseBit (pgDsp d) 0 s))
      else s
    | some sl =>
      let ch := ownerCh s d o
      let mask := if o < 32 then (match pic? s ch n with
        | none => 0
        | some p => engMask (picG s ch p) ch) else 0
      let it : Item :=
        { slot := sl, owner := o, kind := kind, ch := ch, n := n, furrow := k, idx := idx, mask := mask, ready := none
          queue := 7, deadline := 0, unit := none, startAt := 0, ended := false }
      wakeDie d (noteSlots d (modDsp d (fun x => { x with items := x.items ++ [it], waited := NSet.del x.waited o }) s))

/-- QUEUE_REEVALUATE (R274): waiting items only ever move up. -/
def reevaluateOp (d t : Nat) (s : State) : State :=
  let s := advance t s
  (dsp s d).items.foldl (fun s i =>
    if i.ready.isSome && i.unit.isNone && !i.ended && decide (queueOf i.deadline t < i.queue) then
      let q := queueOf i.deadline t
      let s := modDsp d (fun x => { x with items := x.items.map (fun j => if j.slot = i.slot then { j with queue := q } else j) }) s
      if q = 0 then urgent d s else s
    else s) s

/-! ## Service (R275–R278, R289) -/

/-- The flow rule of R276 permits service. -/
def flowPermits (s : State) (d : Nat) (i : Item) : Bool :=
  if i.kind = kEntropy ∨ i.kind = kPack ∨ i.kind = kDecode then (flowAhead s d i).isEmpty
  else if i.kind = kCompose then
    decide (((dsp s d).items.filter (fun j => decide (j.owner = i.owner) && decide (j.kind = kCompose) && j.unit.isSome)).length < 2)
  else true

/-- Engine `e` works for the item: its MASK names it, and it has no fault (R282). -/
def worksFor (s : State) (d : Nat) (i : Item) (e : Nat) : Bool := i.mask.testBit e && !(page s (pgCe d e)).fault

/-- No item is in service on the unit. -/
def unitIdle (x : Dsp) (unit : Nat) : Bool := x.items.all (fun j => decide (j.unit ≠ some unit))

/-- The engine of the item's MASK whose unit, numbered from `base`, became free first; on a tie the lowest-numbered (R277). -/
def firstFree (s : State) (d base : Nat) (i : Item) : Option Nat :=
  let x := dsp s d
  let at_ := fun e => x.freeAt.get (fun _ => 0) (base + e)
  ((List.range 4).filter (fun e => worksFor s d i e && unitIdle x (base + e))).foldl (fun b e =>
    match b with
    | none => some e
    | some a => if at_ e < at_ a then some e else some a) none

/-- The unit may run the item (R211, R271, R277, R282); an ENTROPY item whose CODE item is done again waits for it (R281). -/
def mayRun (s : State) (d unit : Nat) (i : Item) : Bool :=
  if unit < 4 then
    if i.kind = kAnalyse then decide (firstFree s d 0 i = some unit)
    else if i.kind = kCode then
      match pic? s i.ch i.n with
      | none => false
      | some p => worksFor s d i unit && decide (engineOf s i.ch p i.furrow = unit)
    else false
  else if unit = 4 then decide (i.kind = kDecode)
  else if unit = 5 then decide (i.kind = kCompose)
  else if unit = 6 then decide (i.kind = kPack)
  else decide (unit ≤ 10) && decide (i.kind = kEntropy) && decide (firstFree s d 7 i = some (unit - 7)) &&
    couldBeReady s d i.owner i.n i.furrow i.kind i.idx

/-- `a` is taken before `b`: queue, ready time, slot (R275). -/
def takenBefore (a b : Item) : Bool :=
  decide (a.queue < b.queue) || (decide (a.queue = b.queue) &&
    (decide (a.ready.getD 0 < b.ready.getD 0) || (decide (a.ready = b.ready) && decide (a.slot < b.slot))))

/-- The unit is free: the paddock serves several canvases at once, every other unit one item (R276, R278). -/
def unitFree (x : Dsp) (unit : Nat) : Bool := decide (unit = 5) || unitIdle x unit

/-- The item that the unit takes. -/
def pickItem (s : State) (d unit : Nat) : Option Item :=
  let x := dsp s d
  if unitFree x unit then
    (x.items.filter (fun i => i.ready.isSome && i.unit.isNone && !i.ended && mayRun s d unit i && flowPermits s d i)).foldl (fun b i =>
      match b with
      | none => some i
      | some o => if takenBefore i o then some i else some o) none
  else none

/-- ITEM_DISPATCH (R275, R278): a pipeline that takes another channel's item switches context. -/
def dispatchOp (d unit t : Nat) (s : State) : State :=
  let s := advance t s
  match pickItem s d unit with
  | none => s
  | some i =>
    let switch := decide (unit < 4) && decide ((dsp s d).last.get (fun _ => 0) unit ≠ i.ch + 1)
    let s := if switch then bump (pgCe d unit) 5 1 s else s
    wakeDie d (modDsp d (fun x => { x with
      items := x.items.map (fun j => if j.slot = i.slot then { j with unit := some unit, startAt := t } else j)
      busyFrom := if unitIdle x unit then x.busyFrom.set (fun _ => none) unit (some t) else x.busyFrom
      last := if unit < 4 then x.last.set (fun _ => 0) unit (i.ch + 1) else x.last }) s)

/-- The work of an item in service can have ended: CODE has coded its furrow's CTUs and may write them back, after the furrow above (R276), and what
ENTROPY codes is there. -/
def workDone (s : State) (d : Nat) (i : Item) : Bool :=
  if i.kind = kCode then
    match pic? s i.ch i.n with
    | none => true
    | some p => decide ((picFmt i.ch p).ctuCols ≤ (fur p i.furrow).log.length) && inOrder s i.ch p i.furrow (fun u => u.written || u.coded)
  else if i.kind = kEntropy then couldBeReady s d i.owner i.n i.furrow i.kind i.idx
  else true

/-- The item in service in a slot ends: it counts at its engine, a CODE item has written its furrow back, and its flow releases what it can. Of a
CODE or ENTROPY item, which may be created again as long as its furrow is not coded, the waiting time is kept until then; DEDUCED, since a
withdrawn predecessor records nothing (R283). -/
def endItem (d slot : Nat) (s : State) : Option Item × State :=
  match (dsp s d).items.find? (fun i => decide (i.slot = slot) && i.unit.isSome && workDone s d i) with
  | none => (none, s)
  | some i =>
    let u := i.unit.getD 0
    let s := if i.kind ≤ 2 then bump (pgCe d (if 7 ≤ u then u - 7 else u)) (1 + i.kind) 1 s else s
    let s := if i.kind = kCode then writeFurrow i.ch i.n i.furrow s else s
    let s := if i.kind = kCode ∨ i.kind = kEntropy then modDsp d (fun x => { x with waits := x.waits ++ [(i.key, i.bin)] }) s
      else countWait d i.key i.bin s
    let s := modDsp d (fun x => { x with items := x.items.map (fun j => if j.slot = slot then { j with unit := none, ended := true } else j) }) s
    (some i, wakeDie d s)

/-! ## Withdrawal (R281, R282, R284) -/

/-- One withdrawal (R281). -/
def withdrawn (d : Nat) (s : State) : State := bump (pgDsp d) 118 1 (raiseBit (pgDsp d) 1 s)

/-- Items that `q` picks are withdrawn for good; the wait of one in service is recorded, no other coming after it (R283, R289). -/
def withdraw (d : Nat) (q : Item → Bool) (s : State) : State :=
  let n := ((dsp s d).items.filter q).length
  let s := recordServed d q s
  (List.range n).foldl (fun s _ => withdrawn d s) (modDsp d (fun x => { x with items := x.items.filter (fun i => !q i) }) s)

/-- Items that `q` picks are withdrawn and created again with their original ready time. -/
def recreate (d : Nat) (q : Item → Bool) (s : State) : State :=
  let n := ((dsp s d).items.filter q).length
  (List.range n).foldl (fun s _ => withdrawn d s)
    (modDsp d (fun x => { x with items := x.items.map (fun i => if q i then { i with unit := none, ended := false } else i) }) s)

/-- Items of owner `o` after the first one that has to be created again are not created yet, but for those in service or ended: items run
in their original order (R281). -/
def uncreateAfter (d o : Nat) (s : State) : State :=
  match nextItem s d o with
  | none => s
  | some a => modDsp d (fun x => { x with items := x.items.filter (fun i =>
      decide (i.owner ≠ o) || i.unit.isSome || i.ended || itemBefore (i.n, i.furrow, i.kind, i.idx) a) }) s

/-- Furrow `j` of a picture has read a CTU of furrow `k` that is not before `cut`: a CTU waits for the furrow above up to two columns to its
right (R212). -/
def readsReplaced (p : Pic) (k cut j : Nat) : Bool :=
  !(fur p j).coded && !(fur p j).dlFallow && !(fur p j).log.isEmpty && decide (cut + 1 ≤ (fur p j).log.length + 2 * (j - k))

/-- Work on furrow `j` is discarded, and its CODE and ENTROPY items are created again with their ready times (R281). -/
def redoFurrow (d o ch n j : Nat) (s : State) : State :=
  let hit := fun (a : Nat × Nat × Nat × Nat × Nat) => decide (a.1 = o ∧ a.2.1 = n ∧ a.2.2.1 = j) &&
    (decide (a.2.2.2.1 = kCode) || decide (a.2.2.2.1 = kEntropy))
  let s := modFur ch n j (fun u => { u with log := [], ctus := 0, sliceBits := [], fallow := 0, latch := false, picLatch := false, written := false }) s
  let s := (List.range ((dsp s d).done.filter hit).length).foldl (fun s _ => withdrawn d s) s
  recreate d (fun i => hit i.key && (i.unit.isSome || i.ended)) (modDsp d (fun x => { x with
    done := x.done.filter (fun a => !hit a), waits := x.waits.filter (fun e => !hit e.1) }) s)

/-- Furrows after `k` that read a replaced CTU are done again (R249, R281). -/
def discardLater (ch n k cut : Nat) (s : State) : State :=
  match pic? s ch n with
  | none => s
  | some p =>
    let d := chDie s ch
    let o := reportCh s ch % 32
    let ks := (List.range' (k + 1) ((picFmt ch p).furrows - (k + 1))).filter (readsReplaced p k cut)
    if ks.isEmpty then s else uncreateAfter d o (ks.foldl (fun s j => redoFurrow d o ch n j s) s)

/-- Deadline fallow of a furrow withdraws its coding items (R281). -/
def withdrawFurrow (ch n k cut : Nat) (s : State) : State :=
  let d := chDie s ch
  wakeDie d (discardLater ch n k cut
    (withdraw d (fun i => decide (i.ch = ch ∧ i.n = n ∧ i.furrow = k) && decide (i.kind ≤ 2) && !i.ended) s))

/-- The live MASK of local channel `i` of die `d`: that of the channel re-seated there, its SPARE_MASK, or the number's own (R388, R389). -/
def localMask (s : State) (d i : Nat) : Nat :=
  match s.chans.find? (fun e => decide (e.2.seat = some (32 * d + i))) with
  | some e => engMask (effW s) e.1
  | none => engMask (liveW s) (32 * d + i)

/-- A live MASK of die `d`, whatever its channel's RUN, names a faulted engine (R282, R290). -/
def engineLost (s : State) (d : Nat) : Bool :=
  (List.range 32).any (fun i => (engines (localMask s d i)).any (fun e => (page s (pgCe d e)).fault))

/-- ENGINE_LOST of die `d`, a condition, has begun between `s0` and `s` (R290). -/
def noteEngineLost (d : Nat) (s0 s : State) : State :=
  if !engineLost s0 d && engineLost s d then raiseBit (pgDsp d) 3 s else s

/-- Items in service on a faulted engine are created again (R282). -/
def engineItems (d e : Nat) (s : State) : State := recreate d (fun i => decide (i.unit = some e) || decide (i.unit = some (7 + e))) s

/-- Depth of queue `q` (R288). -/
def queueDepth (x : Dsp) (q : Nat) : Nat :=
  (x.items.filter (fun i => i.ready.isSome && i.unit.isNone && !i.ended && decide (i.queue = q))).length

end Sys2Proof.Machine
end

