-- ==== Sys2Proof/Machine/AudioCmds.lean ====
section
/-! DEFINITION. Audio and TDM events (R399–R418). -/

namespace Sys2Proof.Machine

open Sys2Proof

/-- The variant has audio flow `f`. -/
def atFlow (f : Nat) (s : State) (k : State → State) : Host.Outcome State Fault Refusal :=
  if f < 64 * dies s then .next (whenUp s k) else .next s

/-- The part has TDM port `p` (R408). -/
def atTdm (p : Nat) (s : State) (k : State → State) : Host.Outcome State Fault Refusal :=
  if p < 4 then .next (whenUp s k) else .next s

/-- AUDIO_PACKET_RELEASE (R403). -/
def execAudioPacketRelease (v : Nat) (s : State) : Host.Outcome State Fault Refusal :=
  if isVideoSvc v then .next s else atFlow (asvcFlow v) s (audioRelease v)

/-- SAMPLE_READY (R401, R402, R412, R413): one sample index of a flow becomes ready, and with it a PACK item that waited for a PES of it
(R405). -/
def execSampleReady (f : Nat) (s : State) : Host.Outcome State Fault Refusal :=
  atFlow f s (guard' (aflow s f).valid (fun s => wakeItems (sampleReadyOp f s)))

/-- ZC_TIMEOUT (R412) of an output slot of a TDM port, or of a channel of a flow. -/
def execZcTimeout (isTdm : Bool) (u c : Nat) (s : State) : Host.Outcome State Fault Refusal :=
  if isTdm then atTdm u s (tdmTimeout u c) else atFlow u s (aflTimeout u c)

/-- NON_AUDIO_CLEAR (R413) of an input slot of a TDM port, or of a channel of a NET flow. -/
def execNonAudioClear (isTdm : Bool) (u c : Nat) (s : State) : Host.Outcome State Fault Refusal :=
  if isTdm then atTdm u s (tdmMarkClear u c) else atFlow u s (aflMarkClear u c)

/-- TDM_FRAME (R409–R415). -/
def execTdmFrame (p : Nat) (f : TdmIn) (s : State) : Host.Outcome State Fault Refusal := atTdm p s (tdmFrameOp p f)

/-- TDM_CLOCK_STOP (R415). -/
def execTdmClockStop (p : Nat) (s : State) : Host.Outcome State Fault Refusal := atTdm p s (tdmClockStopOp p)

/-- TDM_FAULT_CLEAR (R415). -/
def execTdmFaultClear (p : Nat) (s : State) : Host.Outcome State Fault Refusal := atTdm p s (tdmFaultClearOp p)

/-- TDM_CLOCK_RETURN (R415). -/
def execTdmClockReturn (p : Nat) (ppm : Int) (s : State) : Host.Outcome State Fault Refusal := atTdm p s (tdmClockReturnOp p ppm)

end Sys2Proof.Machine
end

