-- ==== Sys2Proof/Machine/CheckBase.lean ====
section
/-! DEFINITION. What the tests of a commit check share (R64): the configuration under check is a store `t` of words, the live
words overlaid with the set's staged words; `m` says which locations the set holds; a test answers the locations that
offend. -/

namespace Sys2Proof.Machine

open Sys2Proof

/-- `[a]` where the test fails. -/
def refuse (c : Bool) (a : Nat) : List Nat := if c then [a] else []

/-- The set changes the word at `a`. -/
def changes (s : State) (t : Tbl Word) (a : Nat) : Bool := decide (liveW s a ≠ getW t a)

/-- `x` lies outside `lo` to `hi`. -/
def outside (x lo hi : Nat) : Bool := decide (x < lo) || decide (hi < x)

/-- Pages with numbers from `lo` to before `hi` of which a store lists a word, by key. -/
def pagesIn (t : Tbl Word) (lo hi : Nat) : List Nat :=
  ((t.filter (fun e => decide (e.1 < 2 ^ 28) && decide (lo ≤ keyPage (e.1 / 4096)) && decide (keyPage (e.1 / 4096) < hi))).map
    (fun e => e.1 / 4096)).eraseDups

/-- Channels with `CH_CTRL.RUN` at 1 in the configuration under check. -/
def runChs (t : Tbl Word) : List Nat :=
  t.filterMap (fun e =>
    let k := e.1 / 4096
    let p := keyPage k
    if e.1 < 2 ^ 28 ∧ e.1 % 4096 = 0x100 ∧ 0x200 ≤ p ∧ p < 0x220 ∧ bitOf e.2 0 = true then some (32 * keyDie k + (p - 0x200)) else none)

/-- The running canvases: channels with RUN and COMPOSED at 1. -/
def runCanvases (t : Tbl Word) : List Nat := (runChs t).filter (chComposed (getW t))

/-- Valid classifier entries. -/
def validEnts (t : Tbl Word) : List Nat := (entsOf t).filter (fun e => (entCfg (getW t) e).valid)

/-- Valid flow-table entries. -/
def validFlows (t : Tbl Word) : List Nat := (flowsOf t).filter (fun f => (flowCfg (getW t) f).valid)

/-- Some valid flow-table entry names service `v` in a store. -/
def flowNames (t : Tbl Word) (v : Nat) : Bool := (validFlows t).any (fun f => decide ((flowCfg (getW t) f).svc = v))

/-- Two ranges of addresses meet. -/
def meet (a b : Nat × Nat) : Bool := decide (a.1 < b.2) && decide (b.1 < a.2)

/-- The range lies outside the usable DRAM of a die. -/
def beyondDram (r : Nat × Nat) : Bool := decide (dramBytes < r.2)

/-- Number of nanoseconds in the unit in which furrow periods are whole (R130). -/
def Fmt.unit (f : Fmt) : Nat := f.num * f.h

/-- One picture period in that unit. -/
def Fmt.periodU (f : Fmt) : Nat := f.den * 1000000000 * f.h

/-- Pictures per second times 1,001: whole for every rate of R112. -/
def rate1001 (f : Fmt) : Nat := if f.den = 0 then 0 else f.num * (1001 / f.den)

/-- Luma samples per second times 1,001 (R285). -/
def lumaRate1001 (f : Fmt) : Nat := f.w * f.h * rate1001 f

/-! ## Sums (R64, R286) -/

/-- A term of a sum: the word named, the sum it counts in, its amount. -/
abbrev Term := Nat × Nat × Nat

/-- A term placed among terms in the order of their words. -/
def insTerm (x : Term) : List Term → List Term
  | [] => [x]
  | y :: l => if x.1 ≤ y.1 then x :: y :: l else y :: insTerm x l

/-- The word of the first term that carries its sum past its limit. -/
def scanTerms (limit : Nat → Nat) : List Term → Tbl Nat → Option Nat
  | [], _ => none
  | (a, k, x) :: l, sums =>
    let v := sums.get (fun _ => 0) k + x
    if limit k < v then some a else scanTerms limit l (sums.set (fun _ => 0) k v)

/-- R286: sums start from the words of other sets; the set's words are then added in the order of R59. -/
def firstOver (m : Nat → Bool) (limit : Nat → Nat) (l : List Term) : List Nat :=
  let others := (l.filter (fun x => !m x.1)).foldr insTerm []
  let mine := (l.filter (fun x => m x.1)).foldr insTerm []
  (scanTerms limit (others ++ mine) []).toList

/-- Sum `k` of a list of terms. -/
def sumOf (k : Nat) (l : List Term) : Nat := ((l.filter (fun x => decide (x.2.1 = k))).map (fun x => x.2.2)).sum

end Sys2Proof.Machine
end

