-- ==== Sys2Proof/Machine/CheckCh.lean ====
section
/-! DEFINITION. The commit check's tests of channels, drills and barns: ranges (R110–R116, R134, R197–R210, R214, R218, R219,
R229, R230, R244) and levels (R200). -/

namespace Sys2Proof.Machine

open Sys2Proof

/-! ## Reserved encodings (R8) -/

/-- Reserved encodings of CH, DRILL and BARN words, whatever RUN says. -/
def chkChCodes (t : Tbl Word) : List Nat :=
  let g := getW t
  (pagesIn t 0x200 0x220).flatMap (fun k =>
    let c := g (ploc k 0x140)
    refuse (decide (11 < fld (g (ploc k 0x108)) 3 0)) (ploc k 0x108) ++
    refuse (decide (1 < fld c 1 0) || decide (fld c 3 2 = 3) || decide (1 < fld c 5 4)) (ploc k 0x140) ++
    refuse (decide (fld (g (ploc k 0x14C)) 31 30 = 3)) (ploc k 0x14C)) ++
  (pagesIn t 0x220 0x240).flatMap (fun k => refuse (decide (fld (g (ploc k 0x100)) 1 0 = 3)) (ploc k 0x100)) ++
  (pagesIn t 0x240 0x260).flatMap (fun k => refuse (decide (4 < fld (g (ploc k 0x108)) 3 0)) (ploc k 0x108))

/-! ## The CH page -/

/-- The combinations of R197: codec, profile, sampling. -/
def codecOk (codec profile samp : Nat) : Bool :=
  [(0, 0, 0), (0, 1, 0), (0, 2, 0), (0, 2, 1), (1, 0, 0), (1, 1, 0), (1, 1, 1)].contains (codec, profile, samp)

/-- The values of LEVEL (R196). -/
def levels : List Nat := [10, 20, 21, 30, 31, 40, 41, 50, 51, 52, 60, 61, 62]

/-- The entry is a valid video flow whose slot has the channel's size and rate (R115). -/
def inputOk (s : State) (g : Nat → Word) (ch e : Nat) : Bool :=
  let c := entCfg g e
  let sc := slotCfg g (entDie e) c.target
  let f := chFmt g ch
  decide (entDie e < dies s) && c.valid && decide (c.kind = 0) && sc.valid && decide (sc.w = f.w) && decide (sc.h = f.h) &&
    decide (sc.rate = fld (g (chLoc ch 0x108)) 3 0)

/-- The canvas cut-off of R190, less its furrow period, in µs. -/
def canvasCut (t : Tbl Word) (ch : Nat) : Nat :=
  let g := getW t
  let ins := (canvasLayers t ch).filter (fun i => decide ((layCfg g i).kind = 2))
  if ins = [] then 0
  else canvasAllow t ch + (ins.map (fun i => let e := (layCfg g i).source; (slotCfg g (entDie e) (entCfg g e).target).cut)).foldl max 0

/-- The delay tests of a running channel: R113, R134, R148, R166, R214, and R358 while PAIR_EN is 1. -/
def delayBad (t : Tbl Word) (ch : Nat) : Bool :=
  let g := getW t
  let f := chFmt g ch
  let comp := chComposed g ch
  let r := cdiv 264 f.c
  let fu := f.furrowU
  let late := if comp then decide (f.d * fu < canvasCut t ch * 1000 * f.unit + 2 * fu)
    else
      let sl := chSlot g ch
      decide (f.d * fu < (slotCfg g sl.1 sl.2).cut * 1000 * f.unit + fu)
  outside f.d (if comp then 3 else 2) 8 || late ||
    decide (2 * f.periodU < (if comp then f.d + 1 else f.d) * fu + 20000 * f.unit) ||
    decide (f.periodU < (f.d + r + 1) * fu + 10000 * f.unit) ||
    (pairEn g && decide (f.periodU < (f.d + r + 2) * fu + 10000 * f.unit))

/-- The CH page of a channel with RUN at 1. -/
def chkCh (s : State) (t : Tbl Word) (ch : Nat) : List Nat :=
  let g := getW t
  let at_ := chLoc ch
  let f := chFmt g ch
  let c := g (at_ 0x140)
  let hevc := decide (fld c 1 0 = 0)
  let sl := g (at_ 0x148)
  let sc := let q := chSlot g ch; slotCfg g q.1 q.2
  let rf := refreshCfg g ch
  let anc := g (at_ 0x150)
  refuse (outside f.w 128 7680 || outside f.h 64 4320 || decide (f.w % 8 ≠ 0) || decide (f.h % 8 ≠ 0)) (at_ 0x104) ++
  refuse (decide (fld (g (at_ 0x108)) 3 0 = 0)) (at_ 0x108) ++
  refuse (delayBad t ch) (at_ 0x10C) ++
  refuse (!chComposed g ch && (!inputOk s g ch (chInput g ch) || decide (sc.samp = 1) || decide (sc.samp = 3))) (at_ 0x110) ++
  refuse (!codecOk (fld c 1 0) (fld c 3 2) (fld c 5 4) || (hevc && decide (f.c = 128)) || !levels.contains (fld c 23 16) ||
    (bitOf c 8 && decide (fld c 23 16 < 40))) (at_ 0x140) ++
  refuse ((hevc && bitOf sl 8) || decide (f.ctuCols < slicesPer g ch)) (at_ 0x148) ++
  refuse ((decide (rf.1 = 1) && decide (rf.2 < 2)) || (decide (rf.1 = 2) && decide (rf.2 = 0))) (at_ 0x14C) ++
  refuse (chComposed g ch && bitOf anc 31 && !(canvasLayers t ch).any (fun i =>
    decide ((layCfg g i).kind = 2) && decide ((layCfg g i).source = fld anc 14 0))) (at_ 0x150) ++
  refuse (decide (engMask g ch = 0)) (at_ 0x154)

/-- Changes refused while the channel runs in the sense of R117 (R116, R166, R206, R218). -/
def chkRunning (s : State) (t : Tbl Word) (ch : Nat) : List Nat :=
  let g := getW t
  let ch_ := changes s t
  let moved := fun a b => fld (liveW s (bnLoc ch 0x104)) a b ≠ fld (g (bnLoc ch 0x104)) a b
  if !running s ch then []
  else
    refuse (bitOf (liveW s (chLoc ch 0x100)) 8 != chComposed g ch) (chLoc ch 0x100) ++
    ([0x104, 0x108, 0x10C, 0x140].flatMap (fun o => refuse (ch_ (chLoc ch o)) (chLoc ch o))) ++
    refuse (ch_ (bnLoc ch 0x100)) (bnLoc ch 0x100) ++
    refuse (decide (moved 31 31) || decide (moved 28 24)) (bnLoc ch 0x104) ++
    (match canvasBase t ch with
      | some i => refuse (chComposed g ch && decide (canvasBuf t ch ≠ canvasBuf s.live ch)) (layLoc i 0x300)
      | none => [])

/-! ## The barn (R218, R219) -/

/-- The bytes of a channel's barn in its die's DRAM. -/
def barnRange (g : Nat → Word) (ch : Nat) : Nat × Nat :=
  let b := barnCfg g ch
  (4096 * b.base, 4096 * b.base + b.stalls * stallBytes (chFmt g ch) (fld (g (chLoc ch 0x140)) 5 4))

/-- The BARN page of a channel with RUN at 1. -/
def chkBarn (t : Tbl Word) (ch : Nat) : List Nat :=
  let g := getW t
  let b := barnCfg g ch
  let refs := b.numRef + b.numLong
  refuse (outside b.numRef 1 4 || decide (2 < b.numLong) || outside b.stalls 3 16 ||
    decide (b.stalls < refs + 2 + (if b.ckpt then refs else 0)) || (decide (0 < b.ltPeriod) && decide (b.numLong = 0))) (bnLoc ch 0x104) ++
  refuse (beyondDram (barnRange g ch) || (runChs t).any (fun o => decide (o ≠ ch) && decide (o / 32 = ch / 32) &&
    meet (barnRange g o) (barnRange g ch))) (bnLoc ch 0x100)

/-! ## The drill (R230, R244) -/

/-- `x` is a QP of the channel's codec (R229). -/
def qpOk (g : Nat → Word) (ch : Nat) (x : Int) : Bool := decide ((qpScale g ch).1 ≤ x) && decide (x ≤ (qpScale g ch).2)

/-- A region slot of the DRILL page: words A and B. -/
def chkRegion (g : Nat → Word) (ch q : Nat) : List Nat :=
  let f := chFmt g ch
  let a := g (drLoc ch (0x180 + 8 * q))
  let b := g (drLoc ch (0x184 + 8 * q))
  let off := sgn 5 (fld a 4 0)
  if !bitOf a 31 then []
  else
    refuse (decide (off < -12) || decide (12 < off) || (bitOf a 29 && !qpOk g ch (sgn 8 (fld a 15 8)))) (drLoc ch (0x180 + 8 * q)) ++
    refuse (decide (fld b 23 16 < fld b 7 0) || decide (fld b 31 24 < fld b 15 8) || decide (f.ctuCols ≤ fld b 23 16) ||
      decide (f.furrows ≤ fld b 31 24)) (drLoc ch (0x184 + 8 * q))

/-- The picture fit of R244 fails. -/
def pictureMisfit (g : Nat → Word) (ch : Nat) : Bool :=
  let d := drillCfg g ch
  let f := chFmt g ch
  let b := perPic f d.rate
  let bmin : Int := if d.mode = 1 then (b / 2 : Nat) else (b : Nat)
  let fixed : Int := (8192 + 512 * f.furrows + (if captionsOn g ch then 1536 else 0) : Nat)
  decide (bmin - fixed < (((List.range f.furrows).map (worstReserve f (slicesPer g ch))).sum : Int))

/-- The yard fit of R244 fails for some furrow. -/
def yardMisfit (g : Nat → Word) (ch : Nat) : Bool :=
  let d := drillCfg g ch
  let f := chFmt g ch
  (List.range f.furrows).any (fun k => decide (yardTerm d f k 8192 (captionsOn g ch) < (worstReserve f (slicesPer g ch) k : Int)))

/-- The DRILL page of a channel with RUN at 1. -/
def chkDrill (t : Tbl Word) (ch : Nat) : List Nat :=
  let g := getW t
  let d := drillCfg g ch
  let f := chFmt g ch
  let kbps := (g (drLoc ch 0x104)).toNat
  let peak := (g (drLoc ch 0x108)).toNat
  refuse (!d.reserve && (decide (d.mode ≠ 2) || (chSvcs ch).any (flowNames t))) (drLoc ch 0x100) ++
  refuse (outside kbps 16 4000000 || (d.reserve && pictureMisfit g ch)) (drLoc ch 0x104) ++
  refuse ((decide (peak ≠ 0) && outside peak kbps 4000000) || (d.reserve && yardMisfit g ch)) (drLoc ch 0x108) ++
  refuse (decide ((f.d - 1) * perFurrow f (hrdRate d) < d.limit)) (drLoc ch 0x10C) ++
  refuse (!(qpOk g ch d.qpMax && qpOk g ch d.qpMin && qpOk g ch d.qpI && qpOk g ch d.qpP) || decide (d.qpMax < d.qpMin)) (drLoc ch 0x110) ++
  refuse (decide (d.mode = 1) && decide (d.window < 8)) (drLoc ch 0x114) ++
  (List.range 16).flatMap (chkRegion g ch)

/-- Test 4 for channels. -/
def chkChannels (s : State) (t : Tbl Word) : List Nat :=
  chkChCodes t ++ (runChs t).flatMap (fun ch => chkCh s t ch ++ chkBarn t ch ++ chkDrill t ch) ++
    (s.chans.map Prod.fst).flatMap (chkRunning s t)

/-! ## Test 10 (R200) -/

/-- A level's general limits: MaxLumaPs, MaxCPB Main and High, slices, tile columns, MaxLumaSr, MaxBR Main and High. -/
structure Level where
  ps : Nat
  cpbM : Nat
  cpbH : Nat
  slices : Nat
  cols : Nat
  sr : Nat
  brM : Nat
  brH : Nat
  deriving DecidableEq, Repr

/-- PRESUMED: the tables of Annex A of H.265 (A.8, A.9), which the manual names and does not reproduce. -/
def hevcLevel (l : Nat) : Level :=
  if l = 10 then ⟨36864, 350, 350, 16, 1, 552960, 128, 128⟩
  else if l = 20 then ⟨122880, 1500, 1500, 16, 1, 3686400, 1500, 1500⟩
  else if l = 21 then ⟨245760, 3000, 3000, 20, 1, 7372800, 3000, 3000⟩
  else if l = 30 then ⟨552960, 6000, 6000, 30, 2, 16588800, 6000, 6000⟩
  else if l = 31 then ⟨983040, 10000, 10000, 40, 3, 33177600, 10000, 10000⟩
  else if l = 40 then ⟨2228224, 12000, 30000, 75, 5, 66846720, 12000, 30000⟩
  else if l = 41 then ⟨2228224, 20000, 50000, 75, 5, 133693440, 20000, 50000⟩
  else if l = 50 then ⟨8912896, 25000, 100000, 200, 10, 267386880, 25000, 100000⟩
  else if l = 51 then ⟨8912896, 40000, 160000, 200, 10, 534773760, 40000, 160000⟩
  else if l = 52 then ⟨8912896, 60000, 240000, 200, 10, 1069547520, 60000, 240000⟩
  else if l = 60 then ⟨35651584, 60000, 240000, 600, 20, 1069547520, 60000, 240000⟩
  else if l = 61 then ⟨35651584, 120000, 480000, 600, 20, 2139095040, 120000, 480000⟩
  else ⟨35651584, 240000, 800000, 600, 20, 4278190080, 240000, 800000⟩

/-- PRESUMED: the tables of Annex A of H.266 (A.1, A.2), where they differ from those of H.265. -/
def vvcLevel (l : Nat) : Level :=
  let x := hevcLevel l
  if l = 60 then { x with cpbM := 80000, brM := 80000, cpbH := 240000, brH := 240000 }
  else if l = 62 then { x with cpbM := 180000, brM := 180000 }
  else x

/-- PRESUMED: CpbVclFactor of a profile (H.265 table A.10, H.266 table A.3). -/
def vclFactor (codec profile : Nat) : Nat :=
  if codec = 0 then (if profile = 2 then 1667 else 1000) else if profile = 1 then 2500 else 1000

/-- PRESUMED: MaxDpbSize for a picture size (A.4.2 of both standards), from the base of 6 (HEVC) or 8 (VVC) pictures. -/
def maxDpb (ps maxPs base : Nat) : Nat :=
  if ps ≤ maxPs / 4 then min (4 * base) 16
  else if ps ≤ maxPs / 2 then min (2 * base) 16
  else if ps ≤ 3 * maxPs / 4 then min (4 * base / 3) 16
  else base

/-- R200 for a channel with RUN at 1; the HRD values are those signalled: multiples of 64 b/s and of 16 bits (R233). -/
def chkLevel (t : Tbl Word) (ch : Nat) : List Nat :=
  let g := getW t
  let c := g (chLoc ch 0x140)
  let codec := fld c 1 0
  let l := if codec = 0 then hevcLevel (fld c 23 16) else vvcLevel (fld c 23 16)
  let f := chFmt g ch
  let d := drillCfg g ch
  let b := barnCfg g ch
  let ns := slicesPer g ch
  let x := vclFactor codec (fld c 3 2)
  let br := roundUp (hrdRate d) 64
  let cpb := roundUp (cpbSize d f) 16
  refuse (decide (l.ps < f.w * f.h) || decide (8 * l.ps < f.w * f.w) || decide (8 * l.ps < f.h * f.h) ||
    decide (l.sr * f.den < f.w * f.h * f.num)) (chLoc ch 0x140) ++
  refuse (decide (l.slices < f.furrows * ns) || (decide (codec = 1) && decide (l.cols < ns))) (chLoc ch 0x148) ++
  refuse (decide (maxDpb (f.w * f.h) l.ps (if codec = 0 then 6 else 8) < b.numRef + b.numLong + 1)) (bnLoc ch 0x104) ++
  refuse (decide (x * (if bitOf c 8 then l.brH else l.brM) < br) || decide (x * (if bitOf c 8 then l.cpbH else l.cpbM) < cpb))
    (drLoc ch (if d.mode = 1 then 0x108 else 0x104))

/-- Test 10. -/
def chkLevels (t : Tbl Word) : List Nat := (runChs t).flatMap (chkLevel t)

end Sys2Proof.Machine
end

