-- ==== Sys2Proof/Machine/CheckSrc.lean ====
section
/-! DEFINITION. The commit check's tests of sources and canvases: input slots and classifier entries (R142–R148), decode
sources (R256–R258), the paddock's words (R164–R176, R192). -/

namespace Sys2Proof.Machine

open Sys2Proof

/-! ## Input slots (R146–R148) -/

/-- The bytes of a slot's buffer. -/
def slotRange (c : SlotCfg) : Nat × Nat := (4096 * c.base, 4096 * c.base + c.bytes)

/-- A running channel or a live layer reads the slot (R148). DESIGN CHOICE: the slot a running channel reads is the one its live
CH_INPUT names, also while a passed change of it has not yet taken effect or pictures of the words before are in progress. -/
def slotRead (s : State) (d n : Nat) : Bool :=
  let g := liveW s
  let names := fun e => decide (entDie e = d) && (entCfg g e).valid && decide ((entCfg g e).kind = 0) && decide ((entCfg g e).target = n)
  s.chans.any (fun x => running s x.1 && !chComposed g x.1 && names (chInput g x.1)) ||
    (validLayers s.live).any (fun i => decide ((layCfg g i).kind = 2) && names (layCfg g i).source)

/-- One slot: reserved encodings, ranges, its buffer, and changes while it is read. -/
def chkSlot (s : State) (t : Tbl Word) (d n : Nat) : List Nat :=
  let g := getW t
  let c := slotCfg g d n
  let at_ := slotLoc d n
  let b := g (at_ 1)
  refuse (decide (4 < c.samp) || decide (1 < c.prim) || decide (c.trans = 3) || decide (11 < c.rate)) (at_ 1) ++
  (if c.valid then
    refuse (outside c.h 64 4320 || outside c.w 128 7680 || decide (c.h % 8 ≠ 0) || decide (c.w % 8 ≠ 0)) (at_ 0) ++
    refuse (decide (c.rate = 0) || outside c.cut 8 4000) (at_ 1) ++
    refuse (beyondDram (slotRange c) || (slotsOf t d).any (fun o =>
      decide (o ≠ n) && (slotCfg g d o).valid && meet (slotRange (slotCfg g d o)) (slotRange c))) (at_ 2)
  else []) ++
  (if slotRead s d n then
    if changes s t (at_ 0) then [at_ 0]
    else if (b &&& 0xFFF80000) ≠ (liveW s (at_ 1) &&& 0xFFF80000) then [at_ 1]
    else refuse (changes s t (at_ 2)) (at_ 2)
  else [])

/-- Every slot of the part. -/
def chkSlots (s : State) (t : Tbl Word) : List Nat :=
  (List.range (dies s)).flatMap (fun d => ((slotsOf t d ++ slotsOf s.live d).eraseDups).flatMap (chkSlot s t d))

/-! ## Classifier entries (R142) -/

/-- One entry: reserved encodings, and the ranges of a valid one. -/
def chkEnt (t : Tbl Word) (e : Nat) : List Nat :=
  let c := entCfg (getW t) e
  let at_ := entLoc e
  refuse (decide (3 < c.kind) || decide (c.path = 3)) (at_ 0) ++ refuse (decide (3 < c.payload)) (at_ 6) ++
  (if c.valid then
    refuse (c.mVlan && outside c.vlan 1 4094) (at_ 3) ++ refuse (outside c.cir 1 400000000) (at_ 4) ++
    refuse (outside c.cbs 9236 16777216) (at_ 5) ++
    refuse (decide (c.kind = 3) && decide (c.payload = 3) && outside c.pid 0x10 0x1FFE) (at_ 6)
  else [])

/-! ## Decode sources (R256–R258) -/

/-- Limits of a codec: luma samples per picture and per second (R254). -/
def decLimit (codec : Nat) : Nat × Nat := if codec = 0 then (9437184, 530841600) else (8912896, 1069547520)

/-- The bytes of a source's region: 8 MiB and its stalls (R258). -/
def decRange (c : DecCfg) : Nat × Nat := (4096 * c.base, 4096 * c.base + 8388608 + c.stalls * c.stallSize)

/-- One source. DESIGN CHOICE: 'the word concerned' of a size and rate over the codec's limit (R257) is the word of the size, which is
the higher of the two. -/
def chkDec (s : State) (t : Tbl Word) (d n : Nat) : List Nat :=
  let g := getW t
  let c := decCfg g d n
  let at_ := decLoc d n
  let lim := decLimit c.codec
  let r := rateOf c.rate
  refuse (decide (11 < c.rate) || decide (c.codec = 3)) (at_ 0) ++
  (if c.valid then
    refuse (decide (c.rate = 0) || outside c.delay 100 20000 || decide (c.delay * 10 * r.1 < 1000000 * r.2 + 1000 * r.1)) (at_ 0) ++
    refuse (outside c.w 128 4096 || outside c.h 64 2304 || decide (c.w % 8 ≠ 0) || decide (c.h % 8 ≠ 0) ||
      decide (lim.1 < c.w * c.h) || decide (lim.2 * r.2 < c.w * c.h * r.1)) (at_ 1) ++
    refuse (outside c.stalls 3 16 || decide (c.stalls < 3 + 2 * decUsers t (64 * d + n)) || beyondDram (decRange c) ||
      (decsOf t d).any (fun o => decide (o ≠ n) && (decCfg g d o).valid && meet (decRange (decCfg g d o)) (decRange c))) (at_ 2)
  else []) ++
  (if decUsers s.live (64 * d + n) = 0 then [] else (([0, 1, 2].filter (fun i => changes s t (at_ i))).take 1).map at_)

/-- Every source of the part. -/
def chkDecs (s : State) (t : Tbl Word) : List Nat :=
  (List.range (dies s)).flatMap (fun d => ((decsOf t d ++ decsOf s.live d).eraseDups).flatMap (chkDec s t d))

/-! ## Layers and canvases (R164–R176, R192) -/

/-- The channel of a layer's canvas. -/
def layerCh (g : Nat → Word) (i : Nat) : Nat := 32 * (i / 256) + (layCfg g i).canvas

/-- Valid layers of running canvases. -/
def liveLayers (t : Tbl Word) : List Nat := (validLayers t).filter (fun i => (runCanvases t).contains (layerCh (getW t) i))

/-- Reserved encodings of LAYER words, and a fence block outside DRAM (R8, R167). -/
def chkPadCodes (t : Tbl Word) : List Nat :=
  let g := getW t
  (pagesIn t 0x400 0x500).flatMap (fun k =>
    refuse (decide (4 < fld (g (ploc k 0x100)) 2 0)) (ploc k 0x100) ++
    refuse (decide (1 < fld (g (ploc k 0x180)) 11 10) || decide (fld (g (ploc k 0x180)) 1 0 = 3)) (ploc k 0x180)) ++
  (pagesIn t 0x105 0x106).flatMap (fun k => refuse (decide (dramBytes < 4096 * fld (g (ploc k 0x100)) 21 0 + 1024)) (ploc k 0x100))

/-- The crop of a layer: columns and lines read from its source (layer 0 is read at the canvas's size, R165). -/
def cropOf (c : LayCfg) (f : Fmt) : Nat × Nat := if c.num = 0 then (f.w, f.h) else (c.srcX + c.srcW, c.srcY + c.srcH)

/-- The bytes that buffer `b` of a drawn layer takes. -/
def bufRange (g : Nat → Word) (i b : Nat) (c : LayCfg) (f : Fmt) : Nat × Nat :=
  ((layBuf g i b).2, (layBuf g i b).2 + c.pitch * 256 * (cropOf c f).2)

/-- R169: the source picture would leave its slot's buffer too early. -/
def sourceGone (t : Tbl Word) (ch : Nat) (c : LayCfg) (f : Fmt) (sc : SlotCfg) : Bool :=
  let x := sc.fmt
  let us : Nat := x.num * sc.h * f.num * f.h
  let lhs : Int := alignment c f sc - (canvasAllow t ch * us : Nat) + (1000000 * f.den * x.num * sc.h * f.h : Nat) +
    (canvasCut t ch * us + 1000000 * f.den * f.c * x.num * sc.h : Nat)
  decide ((2 * 1000000 * x.den * sc.h * f.num * f.h : Nat) < lhs)

/-- A layer other than layer 0: destination and crop. -/
def chkRects (s : State) (t : Tbl Word) (i : Nat) : List Nat :=
  let g := getW t
  let c := layCfg g i
  let ch := layerCh g i
  let f := chFmt g ch
  let at_ := layLoc i
  let v420 := decide (fld (g (chLoc ch 0x140)) 5 4 = 0)
  let e := c.source
  let sc := slotCfg g (entDie e) (entCfg g e).target
  refuse (decide (c.dstX % 2 ≠ 0) || (v420 && decide (c.dstY % 2 ≠ 0)) || decide (f.w ≤ c.dstX) || decide (f.h ≤ c.dstY)) (at_ 0x110) ++
  refuse (outside c.dstH 2 4320 || outside c.dstW 2 7680 || decide (c.dstW % 2 ≠ 0) || (v420 && decide (c.dstH % 2 ≠ 0)) ||
    decide (f.w < c.dstX + c.dstW) || decide (f.h < c.dstY + c.dstH)) (at_ 0x114) ++
  (if c.kind = 0 then []
  else
    refuse (decide (c.srcX % 2 ≠ 0) || (decide (c.kind = 2) && (decide (sc.w ≤ c.srcX) || decide (sc.h ≤ c.srcY))) ||
      (c.drawn && decide (64 * c.pitch ≤ c.srcX))) (at_ 0x108) ++
    refuse (outside c.srcH 2 4320 || outside c.srcW 2 7680 || decide (c.srcW % 2 ≠ 0) || decide (8 * c.dstW < c.srcW) ||
      decide (8 * c.dstH < c.srcH) || (decide (c.kind = 2) && (decide (sc.w < c.srcX + c.srcW) || decide (sc.h < c.srcY + c.srcH))) ||
      (c.drawn && decide (64 * c.pitch < c.srcX + c.srcW))) (at_ 0x10C) ++
    (if c.kind = 2 then
      refuse (!(decide (entDie e < dies s) && (entCfg g e).valid && decide ((entCfg g e).kind = 0) && sc.valid) || sourceGone t ch c f sc) (at_ 0x104)
    else if c.kind = 3 then refuse (!(decide (e / 64 < dies s) && (decCfg g (e / 64) (e % 64)).valid)) (at_ 0x104)
    else []))

/-- A still or graphics layer: pitch and buffers. -/
def chkBuffers (s : State) (t : Tbl Word) (i : Nat) : List Nat :=
  let g := getW t
  let c := layCfg g i
  let f := chFmt g (layerCh g i)
  if !c.drawn then []
  else
    refuse (decide (c.pitch * 256 < 4 * (cropOf c f).1)) (layLoc i 0x124) ++
    (List.range (c.nbuf + 1)).flatMap (fun b =>
      refuse (decide (dies s ≤ (layBuf g i b).1) || beyondDram (bufRange g i b c f)) (layLoc i (0x128 + 4 * b)))

/-- Signed 16-bit halves of the matrix offsets within −4,096 to 4,095. -/
def offsetBad (w : Word) (hi : Bool) : Bool :=
  let x := sgn 16 (if hi then fld w 31 16 else fld w 15 0)
  decide (x < -4096) || decide (4095 < x)

/-- The layer is one too many of its kind on its canvas: the 13th video or 4th graphics layer. -/
def tooMany (g : Nat → Word) (l : List Nat) (i : Nat) : Bool :=
  let c := layCfg g i
  let upTo := l.filter (fun j => decide (j ≤ i))
  (c.video && decide (12 < (upTo.filter (fun j => (layCfg g j).video)).length)) ||
    (decide (c.kind = 4) && decide (3 < (upTo.filter (fun j => decide ((layCfg g j).kind = 4))).length))

/-- One layer of a running canvas. DESIGN CHOICE: a colour layer (KIND 0) with NUM 1 to 15, which R163 does not provide for and no check of
R165 names, passes; it blends with its ALPHA as every further layer does (R180). -/
def chkLayer (s : State) (t : Tbl Word) (i : Nat) : List Nat :=
  let g := getW t
  let c := layCfg g i
  let ch := layerCh g i
  let l := canvasLayers t ch
  let at_ := layLoc i
  let auto := g (at_ 0x140)
  let off := sgn 5 (fld auto 4 0)
  let taken := fun q => bitOf (g (drLoc ch (0x180 + 8 * q))) 31 ||
    l.any (fun j => decide (j ≠ i) && bitOf (g (layLoc j 0x140)) 31 && decide (fld (g (layLoc j 0x140)) 19 16 = q))
  let mates := (liveLayers t).filter (fun j => decide (j < i) && decide (j / 256 = i / 256) && (layCfg g j).drawn && decide ((layCfg g j).group = c.group))
  refuse (l.any (fun j => decide (j < i) && decide ((layCfg g j).num = c.num)) || (decide (c.kind = 1) && decide (c.num ≠ 0)) || tooMany g l i)
    (at_ 0x100) ++
  (if c.num = 0 then [] else chkRects s t i) ++ chkBuffers s t i ++
  refuse (c.drawn && mates.any (fun j => let o := layCfg g j
    decide (layerCh g j ≠ ch) || decide (o.nbuf ≠ c.nbuf) || decide (o.cadence ≠ c.cadence))) (at_ 0x120) ++
  refuse (bitOf auto 31 && (taken (fld auto 19 16) || decide (off < -12) || decide (12 < off))) (at_ 0x140) ++
  refuse (offsetBad (g (at_ 0x198)) false || offsetBad (g (at_ 0x198)) true) (at_ 0x198) ++ refuse (offsetBad (g (at_ 0x19C)) false) (at_ 0x19C)

/-- The bytes of a canvas's buffer (R166). -/
def canvasRange (t : Tbl Word) (ch : Nat) : Nat × Nat :=
  let b := canvasBuf t ch
  (b, b + 3 * ((chFmt (getW t) ch).h * canvasStride t ch))

/-- The list holds each of 0 to 15, and 0 first (R165). -/
def zorderOk (l : List Nat) : Bool := decide (l.headD 1 = 0) && (List.range 16).all l.contains

/-- A running canvas: its layer 0 and its canvas words. -/
def chkCanvas (t : Tbl Word) (ch : Nat) : List Nat :=
  let g := getW t
  let zeros := (canvasLayers t ch).filter (fun i => decide ((layCfg g i).num = 0))
  refuse (decide (zeros.length ≠ 1) || zeros.any (fun i => decide (1 < (layCfg g i).kind))) (chLoc ch 0x100) ++
  (match canvasBase t ch with
    | none => []
    | some i =>
      refuse (beyondDram (canvasRange t ch) || (runCanvases t).any (fun o => decide (o ≠ ch) && decide (o / 32 = ch / 32) &&
        meet (canvasRange t o) (canvasRange t ch))) (layLoc i 0x300) ++
      refuse (decide (4000 < canvasAllow t ch)) (layLoc i 0x304) ++
      refuse (bitOf (g (layLoc i 0x308)) 31 && !zorderOk (blendOrder t ch)) (layLoc i 0x30C))

/-- An image that its layer scales. -/
def imageScaled (c : LayCfg) : Bool := c.scaled && decide (c.kind ≠ 0)

/-- Phases of the scalers that running canvases use whose taps do not sum to 256 (R173). -/
def chkCoefs (t : Tbl Word) : List Nat :=
  let g := getW t
  let used := (((liveLayers t).filter (fun i => imageScaled (layCfg g i))).map (fun i => (i / 256, (layCfg g i).scaler))).eraseDups
  used.flatMap (fun q => (List.range 64).flatMap (fun p =>
    let at_ := fun x => bar2loc (0x430000 + 4096 * (4 * q.1 + q.2) + x / 4 * 4)
    refuse (decide (((List.range 8).map (hCoef g q.1 q.2 p)).sum ≠ 256)) (at_ (16 * p)) ++
    refuse (decide (((List.range 6).map (vCoef g q.1 q.2 p)).sum ≠ 256)) (at_ (0x400 + 12 * p))))

/-- The loads of R176: per scaler (keys 4 die + scaler) and per die (keys 256 + die), in 1/1,001 samples/s. -/
def padTerms (t : Tbl Word) : List Term :=
  let g := getW t
  (liveLayers t).flatMap (fun i =>
    let c := layCfg g i
    let ch := layerCh g i
    let v := rate1001 (chFmt g ch)
    (if imageScaled c then [(layLoc i 0x118, 4 * (i / 256) + c.scaler, c.dstW * c.dstH * v)] else []) ++
    [if c.num = 0 then (chLoc ch 0x100, 256 + i / 256, lumaRate1001 (chFmt g ch)) else (layLoc i 0x114, 256 + i / 256, c.dstW * c.dstH * v)])

/-- Limits of R176. -/
def padLimit (k : Nat) : Nat := if k < 256 then 2944000000 * 1001 else 11776000000 * 1001

/-- Test 4 for the paddock. -/
def chkPaddock (s : State) (t : Tbl Word) (m : Nat → Bool) : List Nat :=
  chkPadCodes t ++ (liveLayers t).flatMap (chkLayer s t) ++ (runCanvases t).flatMap (chkCanvas t) ++ chkCoefs t ++
    firstOver m padLimit (padTerms t)

/-- Test 11 (R64, R175): every valid scaled layer that does not fit a scaler's line buffer, whether its canvas runs or not. -/
def chkLineBuffers (t : Tbl Word) : List Nat :=
  (validLayers t).flatMap (fun i =>
    let c := layCfg (getW t) i
    refuse (imageScaled c && decide (65536 < (5 + max 1 (cdiv c.srcH c.dstH)) * roundUp c.dstW 64)) (layLoc i 0x114))

end Sys2Proof.Machine
end

