-- ==== Sys2Proof/Machine/CheckOut.lean ====
section
/-! DEFINITION. The commit check's tests of lanes, flows and ports: services (R316, R317, R323), the flow table (R334, R335),
classifier conflicts (R144, R257), ports and gate lists (R344, R347, R349), lanes (R440–R442), port sums (R66, R339). -/

namespace Sys2Proof.Machine

open Sys2Proof

/-! ## Services (R316, R317) -/

/-- Reserved encodings of a `YARD_SVC` word, and SAP's interval. -/
def chkSvcCodes (t : Tbl Word) : List Nat :=
  let g := getW t
  (pagesIn t 0x107 0x108).flatMap (fun k =>
    let d := keyDie k
    (svcsOf t d).flatMap (fun v =>
      let w := g (svcLoc v)
      refuse (decide (1 < fld w 30 29) || decide (fld w 27 26 = 3) || decide (fld w 24 23 = 3)) (svcLoc v)) ++
    refuse (outside (fld (g (ploc k 0x300)) 11 0) 1 3600) (ploc k 0x300))

/-- A PID outside 0x0010 to 0x1FFE. -/
def pidBad (p : Nat) : Bool := outside p 0x10 0x1FFE

/-- A valid service of a channel with RUN at 1. -/
def chkSvc (t : Tbl Word) (v : Nat) : List Nat :=
  let g := getW t
  let c := svcCfg g v
  let ch := svcCh v
  let ts := decide (c.form = 1)
  if !c.valid then []
  else
    refuse (outside c.size 576 9000 || outside c.pt 96 127 ||
      (c.ext && (decide (c.idA = 0) || decide (c.idA = 15) || decide (c.idB = 0) || decide (c.idB = 15) || decide (c.idA = c.idB)))) (packLoc ch 0) ++
    refuse ((decide (c.fec ≠ 0) && (outside c.fecL 1 20 || outside c.fecD 4 20 || decide (100 < c.fecL * c.fecD))) ||
      (decide (c.fec = 2) && decide (c.fecL < 4)) ||
      (ts && (decide (c.tsPer = 0) ||
        decide (c.size < 40 + 188 * c.tsPer + (if c.srtp ≠ 0 then 16 else 0) + (if c.ext then 40 else 0))))) (packLoc ch 1) ++
    refuse (ts && (pidBad c.pmt || pidBad c.vpid || decide (c.pmt = c.vpid) ||
      (tsAudio g v).any (fun a => decide ((asvcCfg g a).pid = c.pmt) || decide ((asvcCfg g a).pid = c.vpid)))) (packLoc ch 2)

/-- Words of services that a valid live flow-table entry names, changed by the set (R317). -/
def chkSvcKept (s : State) (t : Tbl Word) : List Nat :=
  (((validFlows s.live).map (fun f => (flowCfg (liveW s) f).svc)).eraseDups.filter isVideoSvc).flatMap (fun v =>
    [svcLoc v, packLoc (svcCh v) 0, packLoc (svcCh v) 1, packLoc (svcCh v) 2].filter (changes s t))

/-- Test 4 for the yard. -/
def chkYard (s : State) (t : Tbl Word) : List Nat :=
  chkSvcCodes t ++ (runChs t).flatMap (fun ch => (chSvcs ch).flatMap (chkSvc t)) ++ chkSvcKept s t

/-! ## Flow-table entries (R334, R335) -/

/-- The ranges of a valid entry. -/
def chkFlow (t : Tbl Word) (f : Nat) : List Nat :=
  let g := getW t
  let c := flowCfg g f
  let fec := isVideoSvc c.svc && decide ((svcCfg g c.svc).fec ≠ 0)
  refuse (outside c.dport 1 (if fec then 65531 else 65535) || decide (c.sport = 0)) (flowLoc f 3) ++
  refuse (c.tagged && (outside c.vlanA 1 4094 || outside c.vlanB 1 4094)) (flowLoc f 4) ++ refuse (decide (c.ttl = 0)) (flowLoc f 5) ++
  refuse (decide (c.cir ≠ 0) && outside c.cir (cdiv (svcRate g c.svc) 1000) 400000000) (flowLoc f 6) ++
  refuse (decide (c.cir ≠ 0) && outside c.cbs (svcCost g c.svc) 16777216) (flowLoc f 7)

/-- `p` is the first lane of a port formed on die `d`. -/
def portOn (g : Nat → Word) (d p : Nat) : Bool := decide (p / 4 = d) && decide (portOf g p = some p)

/-- The paths of an entry: port, destination address and the VLAN its frames carry, 0 for none. -/
def flowPaths (g : Nat → Word) (c : FlowCfg) : List (Nat × Word × Nat) :=
  let v := fun x => if c.tagged then x else 0
  (c.portA, c.dstA, v c.vlanA) :: (if svcDual g c.svc then [(c.portB, c.dstB, v c.vlanB)] else [])

/-- What an entry sends to: each path with each destination port. -/
def flowKeys (g : Nat → Word) (c : FlowCfg) : List (Nat × Word × Nat × Nat) :=
  let fec := isVideoSvc c.svc && decide ((svcCfg g c.svc).fec ≠ 0)
  (flowPaths g c).flatMap (fun p => (if fec then [0, 2, 4] else [0]).map (fun x => (p.1, p.2.1, p.2.2, c.dport + x)))

/-- SERVICE names a valid service of KIND. -/
def flowSvcOk (s : State) (g : Nat → Word) (c : FlowCfg) : Bool :=
  decide (c.svc / 512 < dies s) && (if c.audio then !isVideoSvc c.svc && (asvcCfg g c.svc).valid && (aflCfg g (asvcFlow c.svc)).valid
    else isVideoSvc c.svc && (svcCfg g c.svc).valid)

/-- R335: the entry breaks a rule. -/
def flowConflict (s : State) (t : Tbl Word) (f : Nat) : Bool :=
  let g := getW t
  let c := flowCfg g f
  let ps := flowPaths g c
  !flowSvcOk s g c || ps.any (fun p => !portOn g (entDie f) p.1) ||
    (svcDual g c.svc && decide (c.portA = c.portB) && decide (c.dstA = c.dstB) && decide (c.vlanA = c.vlanB)) ||
    (validFlows t).any (fun o => decide (o ≠ f) && (flowKeys g (flowCfg g o)).any (flowKeys g c).contains)

/-! ## Classifier conflicts (R144) -/

/-- TARGET names a valid slot, audio flow or decode source of the entry's die, of the right kind (R144, R257, R399). -/
def targetOk (g : Nat → Word) (d : Nat) (c : EntCfg) : Bool :=
  if c.kind = 0 ∨ c.kind = 2 then (slotCfg g d c.target).valid
  else if c.kind = 1 then (aflCfg g (64 * d + c.target)).valid && !(aflCfg g (64 * d + c.target)).mix
  else (decCfg g d c.target).valid && (decide (c.payload = 3) || decide (c.payload = (decCfg g d c.target).codec))

/-- The entry and its PEER are a pair. -/
def pairOk (g : Nat → Word) (e : Nat) (c : EntCfg) : Bool :=
  let o := entCfg g c.peer
  o.valid && decide (entDie c.peer = entDie e) && decide (o.kind = c.kind) && decide (o.target = c.target) && decide (o.path = 3 - c.path) &&
    decide (o.port ≠ c.port) && decide (o.peer = e)

/-- Two entries match the same frames. -/
def sameMatch (a b : EntCfg) : Bool :=
  decide (a.port = b.port) && decide (a.dst = b.dst) && decide (a.dport = b.dport) && (a.mVlan == b.mVlan) && (a.mSrc == b.mSrc) &&
    (!a.mVlan || decide (a.vlan = b.vlan)) && (!a.mSrc || decide (a.src = b.src))

/-- R144: the entry breaks a rule. -/
def entConflict (t : Tbl Word) (e : Nat) : Bool :=
  let g := getW t
  let c := entCfg g e
  let d := entDie e
  let es := validEnts t
  let feeds := es.filter (fun o => decide (entDie o = d) && decide ((entCfg g o).kind = c.kind) && decide ((entCfg g o).target = c.target))
  let singles := (feeds.filter (fun o => decide ((entCfg g o).path = 0))).length
  es.any (fun o => decide (o ≠ e) && sameMatch (entCfg g o) c) || !portOn g d c.port || !targetOk g d c ||
    (decide (c.path ≠ 0) && !pairOk g e c) ||
    ((decide (c.kind = 0) || decide (c.kind = 3)) &&
      (decide (1 < singles) || (decide (singles = 1) && decide (1 < feeds.length)) || decide (2 < feeds.length)))

/-- Test 6: word 0 of each entry that breaks a rule. -/
def chkFlowConflicts (s : State) (t : Tbl Word) : List Nat :=
  ((validFlows t).filter (flowConflict s t)).map (fun f => flowLoc f 0) ++ ((validEnts t).filter (entConflict t)).map (fun e => entLoc e 0)

/-! ## Port sums (R66, R339) -/

/-- What an entry of a service adds on each port that it has a path on: a video service its rate, an audio service its figure of R404,
doubled with DUAL (R339). -/
def portRate (g : Nat → Word) (v : Nat) : Nat := svcRate g v * (if !isVideoSvc v && svcDual g v then 2 else 1)

/-- Terms of the receive (key 2 p) and transmit (key 2 p + 1) sums of ports, in b/s. -/
def portTerms (s : State) (t : Tbl Word) : List Term :=
  let g := getW t
  (validEnts t).map (fun e => (entLoc e 4, 2 * (entCfg g e).port, 1000 * (entCfg g e).cir)) ++
  (validFlows t).flatMap (fun f =>
    let c := flowCfg g f
    (flowPaths g c).map (fun p => (flowLoc f 0, 2 * p.1 + 1, portRate g c.svc))) ++
  ((List.range (4 * dies s)).filter (fun p => portOn g (p / 4) p)).map (fun p => (ploc (pgGate p) 0x11C, 2 * p + 1, 1000000 * mgmtRate g p))

/-- The MAC rate of a port, and 95% of it (R66). -/
def portLimit (g : Nat → Word) (k : Nat) : Nat := portGbps g (k / 2) * (if k % 2 = 0 then 1000000000 else 950000000)

/-- Test 14. -/
def chkPortSums (s : State) (t : Tbl Word) (m : Nat → Bool) : List Nat := firstOver m (portLimit (getW t)) (portTerms s t)

/-! ## Ports (R344, R347) -/

/-- The port formed at `p` has a valid flow, a valid classifier entry, or CMD_EN. -/
def portUsed (t : Tbl Word) (p : Nat) : Bool :=
  let g := getW t
  cmdEn g p || (validEnts t).any (fun e => decide ((entCfg g e).port = p)) ||
    (validFlows t).any (fun f => (flowPaths g (flowCfg g f)).any (fun x => decide (x.1 = p)))

/-- A used port's GATE words: every field but those of the gate list is in range, CMD_PORT whatever CMD_EN is (R347). -/
def chkGate (s : State) (t : Tbl Word) (p : Nat) : List Nat :=
  let g := getW t
  let at_ := ploc (pgGate p)
  let hi := fld (gateW g p 0x10C) 15 0
  let tx := cdiv (sumOf (2 * p + 1) (portTerms s t)) 1000000
  let r := shapeRate g p
  if !(portOn g (p / 4) p && portUsed t p) then []
  else
    refuse (decide (gateAddr g p = 0)) (at_ 0x100) ++ refuse (outside (fld (gateW g p 0x104) 5 0) 8 30) (at_ 0x104) ++
    refuse ((decide (hi = 0) && decide (gateW g p 0x110 = 0)) || hi.testBit 8) (at_ 0x10C) ++
    refuse (decide (400000 < r) || (decide (r ≠ 0) && decide (r < tx))) (at_ 0x114) ++
    refuse (outside (shapeBurst g p) 9236 16777216) (at_ 0x118) ++
    refuse (decide (mgmtBurst g p < 9236) || outside (mgmtRate g p) 1 1000) (at_ 0x11C) ++
    refuse (decide (cmdPort g p = 0)) (at_ 0x120)

/-- Quanta out of range (R344). -/
def chkQuanta (t : Tbl Word) : List Nat :=
  (pagesIn t 0x109 0x10A).flatMap (fun k => (List.range 24).flatMap (fun i =>
    let a := ploc k (0x100 + 32 * (i / 6) + 4 * (i % 6))
    refuse (outside (fld (getW t a) 13 0) 64 16384) a))

/-! ## Lanes (R440, R441) -/

/-- LANE pages: reserved encodings, lanes a FORM may start at, overlaps within the set, TX_EN without a form. -/
def chkLanes (s : State) (t : Tbl Word) (m : Nat → Bool) : List Nat :=
  let g := getW t
  (List.range (4 * dies s)).flatMap (fun l =>
    let f := laneForm g l
    let covered := (List.range' (l / 4 * 4) (l % 4)).any (fun p => m (laneLoc p) && decide (l < p + formLanes (laneForm g p)))
    refuse (decide (1 < laneMedia g l) || decide (3 < f) || (decide (f = 2) && decide (l % 2 ≠ 0)) || (decide (f = 3) && decide (l % 4 ≠ 0)) ||
      (m (laneLoc l) && decide (f ≠ 0) && covered) || (laneTxEn g l && decide (f = 0))) (laneLoc l))

/-- Test 4 for lanes, ports and flows. -/
def chkPorts (s : State) (t : Tbl Word) (m : Nat → Bool) : List Nat :=
  chkLanes s t m ++ chkQuanta t ++ (List.range (4 * dies s)).flatMap (chkGate s t) ++ (validFlows t).flatMap (chkFlow t) ++
    (entsOf t).flatMap (chkEnt t)

/-! ## Test 5 (R442) -/

/-- The ports that the live configuration of other sets names. -/
def namedPorts (s : State) (m : Nat → Bool) : List Nat :=
  let g := liveW s
  ((validEnts s.live).filter (fun e => !m (entLoc e 0))).map (fun e => (entCfg g e).port) ++
  ((validFlows s.live).filter (fun f => !m (flowLoc f 0))).flatMap (fun f => (flowPaths g (flowCfg g f)).map Prod.fst) ++
  (List.range (4 * dies s)).filter (fun l => !m (ploc (pgGate l) 0x100) && (decide (gateAddr g l ≠ 0) || cmdEn g l || glEn g l))

/-- The lanes that the live configuration of other sets claims. -/
def claimedLanes (s : State) (m : Nat → Bool) : List Nat :=
  let g := liveW s
  ((List.range (4 * dies s)).filter (fun p => !m (laneLoc p))).flatMap (portLanes g) ++
    ((namedPorts s m).filter (fun p => decide (portOf g p = some p))).flatMap (portLanes g)

/-- Test 5. -/
def chkLaneUse (s : State) (t : Tbl Word) (m : Nat → Bool) : List Nat :=
  let g := getW t
  let live := liveW s
  let claimed := claimedLanes s m
  let named := namedPorts s m
  (List.range (4 * dies s)).flatMap (fun l =>
    let anew := decide (laneForm g l ≠ laneForm live l) || decide (laneMedia g l ≠ laneMedia live l)
    refuse (m (laneLoc l) && anew && ((portLanes g l).any claimed.contains || (decide (laneForm live l ≠ 0) && named.contains l))) (laneLoc l))

/-! ## Test 7 (R349) -/

/-- How long `q` holds from the start of a list of (gates, interval). -/
def runWhile (q : Nat → Bool) : List (Nat × Nat) → Nat
  | [] => 0
  | (x, iv) :: l => if q x then iv + runWhile q l else 0

/-- The runs of `q` around the cycle: index at which each begins, and its length; a run that never ends begins at 0. -/
def runsOf (q : Nat → Bool) (l : List (Nat × Nat)) : List (Nat × Nat) :=
  if l.all (fun e => q e.1) then [(0, (l.map Prod.snd).sum)]
  else ((List.range l.length).filter (fun i =>
    q (l.getD i (0, 0)).1 && !q (l.getD ((i + l.length - 1) % l.length) (0, 0)).1)).map (fun i => (i, runWhile q ((l ++ l).drop i)))

/-- One port's list. -/
def chkList (s : State) (t : Tbl Word) (p : Nat) : List Nat :=
  let g := getW t
  let at_ := ploc (pgGate p)
  let n := glLength g p
  let l := (glEntries g p).take 256
  let cyc := glCycle g p
  let gb := portGbps g p
  let openB := fun b (x : Nat) => x.testBit b
  let window := fun b => l.all (fun e => openB b e.1) || (runsOf (openB b) l).any (fun r => decide (73888 ≤ r.2 * gb))
  let openT := ((l.filter (fun e => openB 2 e.1)).map Prod.snd).sum
  let tx := sumOf (2 * p + 1) (portTerms s t) - 1000000 * mgmtRate g p
  if !glEn g p then []
  else
    refuse (outside n 1 256 || !portOn g (p / 4) p || [0, 1, 2, 3].any (fun b => !window b) ||
      decide (95 * 10000000 * gb * openT < tx * cyc)) (at_ 0x128) ++
    refuse (outside cyc 1000 1000000000 || decide ((l.map Prod.snd).sum ≠ cyc)) (at_ 0x12C) ++
    refuse (decide (999999999 < glBaseNs g p)) (at_ 0x130) ++
    (List.range l.length).flatMap (fun i =>
      let iv := (g (glLoc p i 1)).toNat
      refuse (decide (iv % 8 ≠ 0) || decide (iv < 64) || decide (fld (g (glLoc p i 0)) 31 4 ≠ 0)) (glLoc p i 0)) ++
    [0, 1, 2].flatMap (fun b =>
      ((runsOf (fun x => !openB b x) l).filter (fun r => decide (20000 < r.2) || l.all (fun e => !openB b e.1))).map (fun r => glLoc p r.1 0))

/-- Test 7. -/
def chkLists (s : State) (t : Tbl Word) : List Nat := (List.range (4 * dies s)).flatMap (chkList s t)

/-! ## Test 9 (R323, R403) -/

/-- The slot holds no key, or a key of another length than SRTP names. -/
def keyMissing (s : State) (srtp key : Nat) : Bool := !(keySlot s key).full || ((keySlot s key).len256 != decide (srtp = 2))

/-- A service's sequence counter restarts with the generation under check (R323). -/
def seqRestarts (s : State) (t : Tbl Word) (v : Nat) : Bool :=
  let ch := svcCh v
  let st := (chan s ch).st
  (!(svcCfg (liveW s) v).valid && running s ch) ||
    (chRun (getW t) ch && (decide (st = .idle) || decide (st = .armed) || decide (st = .draining)))

/-- Test 9. -/
def chkKeys (s : State) (t : Tbl Word) : List Nat :=
  let g := getW t
  (((validFlows t).map (fun f => (flowCfg g f).svc)).eraseDups).flatMap (fun v =>
    if isVideoSvc v then
      let c := svcCfg g v
      refuse (c.valid && decide (c.srtp ≠ 0) && (keyMissing s c.srtp c.key || ((keySlot s c.key).used && seqRestarts s t v))) (svcLoc v)
    else
      let c := asvcCfg g v
      refuse (c.valid && decide (c.srtp ≠ 0) && keyMissing s c.srtp c.key) (aflLoc (asvcFlow v) (0x110 + 8 * asvcNum v)))

end Sys2Proof.Machine
end

