-- ==== Sys2Proof/Machine/YokeCond.lean ====
section
/-! DEFINITION. The conditions that a BEAT frame carries and that make an active part yield (R359, R379, R395), and the
memory controller's rate classes (R303–R305), on which one of them rests. -/

namespace Sys2Proof.Machine

open Sys2Proof

/-! ## Rate classes (R303, R305) -/

/-- Some channel is at class `r` or above (0 1×, 1 2×, 2 4×). -/
def rateAtLeast (x : Mc) (r : Nat) : Bool := x.mchs.any (fun e => decide (r ≤ e.2.rate))

/-- The die is in the 4× state (R305). -/
def fourX (s : State) (d : Nat) : Bool := rateAtLeast (mc s d) 2

/-! ## Yoked channels and conditions (R359, R379) -/

/-- A yoked channel (R359). -/
def yokedCh (s : State) (ch : Nat) : Bool := pairEn (effW s) && running s ch

/-- Die `d` holds a channel that `q` picks. -/
def dieHolds (s : State) (d : Nat) (q : Nat → Bool) : Bool := (s.chans.map Prod.fst).any (fun ch => decide (chDie s ch = d) && q ch)

/-- Channel `ch` is LOCKED (R371). -/
def lockedCh (s : State) (ch : Nat) : Bool := decide ((ych s ch).st = ysLocked)

/-- Ports that carry a valid flow of a yoked channel (R379). -/
def yokedPorts (s : State) : List Nat :=
  s.flows.flatMap (fun e =>
    match e.2.joined with
    | none => []
    | some v =>
      if isVideoSvc v && yokedCh s (svcCh v) then
        let c := flowCfgL e.2.words
        c.portA :: (if (svcCfg (effW s) v).dual then [c.portB] else [])
      else [])

/-- QUALITY is EXPIRED or FREERUN (R124, R379). -/
def timeCond (s : State) : Bool := decide (3 ≤ s.time.quality)

/-- A port that carries a valid flow of a yoked channel has no link (R379). -/
def portCond (s : State) : Bool := (yokedPorts s).any (fun l => !portUp s l)

/-- A die that holds a yoked channel is in the 4× state (R379). -/
def memCond (s : State) : Bool := (List.range (dies s)).any (fun d => fourX s d && dieHolds s d (yokedCh s))

/-- A die that holds a LOCKED channel has an uncorrectable fault (R379): its MC page is in FAULT. -/
def faultCond (s : State) : Bool := (List.range (dies s)).any (fun d => (page s (pgMc d)).fault && dieHolds s d (lockedCh s))

/-- What the partner's last BEAT reports. -/
def partnerBeat (s : State) : Beat :=
  s.yoke.beat.getD { role := 0, time := false, port := true, memory := true, dieFault := false, quality := 4, counter := 0 }

/-- The yields of causes 0x4 to 0x6 that hold now (R379): each needs its condition here and a better report from the
partner's BEAT. -/
def yieldOnConditions (s : State) : State :=
  let b := partnerBeat s
  let s := if timeCond s && decide (b.quality < s.time.quality) then yieldFor 4 s else s
  let s := if portCond s && !b.port then yieldFor 5 s else s
  if memCond s && !b.memory then yieldFor 6 s else s

end Sys2Proof.Machine
end

