-- ==== Sys2Proof/Machine/Mc.lean ====
section
/-! DEFINITION. The memory controller: refresh, rate classes, panic, errors, tracking, the address map and the aperture
(R291–R313), as operations. -/

namespace Sys2Proof.Machine

open Sys2Proof

/-! ## Demand (R305–R307) -/

/-- The limit of test 13 in B/s (R307). -/
def dramLimit : Nat := 232097600000

/-- A die's live data demand with its fixed term, in 1/16,016 B/s: every term of R306 is whole in that unit. -/
def liveDemand (s : State) (d : Nat) : Nat := (mc s d).demand + 4000000000 * 16016

/-- The demand with refresh factor `r` % exceeds the limit: × 16/15 × r/100. -/
def demandOver (x r : Nat) : Bool := decide (dramLimit * 1500 * 16016 < x * 16 * r)

/-- A demand with refresh factor `r` % in units of 10,000,000 B/s, rounded up (R312). -/
def demandUnits (x r : Nat) : Nat := cdiv (x * 16 * r) (1500 * 16016 * 10000000)

/-- BW_ALARM's condition (R305). -/
def bwAlarm (s : State) (d : Nat) : Bool := fourX s d && demandOver (liveDemand s d) 108

/-- The conditions RATE_2X, RATE_4X and BW_ALARM of die `d` that rose between `s0` and `s` are events, and an entry into the
4× state counts (R305, R313). -/
def rateConds (d : Nat) (s0 s : State) : State :=
  let s := if !rateAtLeast (mc s0 d) 1 && rateAtLeast (mc s d) 1 then raiseBit (pgMc d) 2 s else s
  let s := if !fourX s0 d && fourX s d then bump (pgMc d) 7 1 (raiseBit (pgMc d) 3 s) else s
  if !bwAlarm s0 d && bwAlarm s d then raiseBit (pgMc d) 4 s else s

/-! ## Refresh (R301–R304) -/

/-- Owed commands that channel `i` has had time to issue, one each 90 ns since they began to be issued back to back (R301, R302, R304). -/
def payDue (d i : Nat) (s : State) : State :=
  let x := mch (mc s d) i
  if !x.paying then s
  else
    let n := min x.debt (cdiv x.payFor 90 - x.paid)
    bump (pgMc d) 3 n (modMch d i (fun x => { x with debt := x.debt - n, paid := x.paid + n, paying := decide (n < x.debt) }) s)

/-- The owed commands of channel `i` are issued back to back from now on, the first at once (R302, R304). -/
def startPaying (d i : Nat) (s : State) : State :=
  if (mch (mc s d) i).debt = 0 ∨ (mch (mc s d) i).paying = true then s
  else payDue d i (modMch d i (fun x => { x with paying := true, payFor := 1, paid := 0 }) s)

/-- Interval of refresh commands of a rate class, in ns (R301). -/
def refreshEvery (rate : Nat) : Nat := if rate = 0 then 488 else if rate = 1 then 244 else 122

/-- A refresh command falls due on channel `i` (R302, R304): it is postponed, or joins what is being repaid, or is issued. DEDUCED: commands that
a repayment issues between two due ones are seen to be issued when the later one falls due. -/
def refreshDue (d i : Nat) (s : State) : State :=
  let s := payDue d i (modMch d i (fun x => { x with payFor := x.payFor + (if x.paying then refreshEvery x.rate else 0) }) s)
  let x := mch (mc s d) i
  if x.rate = 0 ∧ (mc s d).panic ≠ [] ∧ x.debt < 8 then
    bump (pgMc d) 4 1 (modMch d i (fun x => { x with debt := x.debt + 1 }) s)
  else if x.paying then modMch d i (fun x => { x with debt := x.debt + 1 }) s
  else bump (pgMc d) 3 1 s

/-- Every owed command of channel `i` is issued (R311). -/
def repay (d i : Nat) (s : State) : State :=
  bump (pgMc d) 3 (mch (mc s d) i).debt (modMch d i (fun x => { x with debt := 0, paying := false }) s)

/-- The same on every channel. -/
def repayAll (d : Nat) (s : State) : State := (List.range 16).foldl (fun s i => repay d i s) s

/-- The class that a refresh-rate code of mode register 4 stands for: 0 1× or longer, 1 0.5×, 2 0.25×, 3 above the
high-temperature limit (R303). -/
def classOf (code : Nat) : Nat := min code 2

/-- A read of channel `i`'s mode register 4 (R303, R304): a higher class is taken at once and repays what is owed; a lower
one takes one step after two consecutive periodic reads below the class in use. -/
def readClass (d i code : Nat) (periodic : Bool) (s : State) : State :=
  let s := if 3 ≤ code then raiseBit (pgMc d) 8 s else s
  let x := mch (mc s d) i
  let c := classOf code
  let want := modMc d (fun m => { m with trackWant := true })
  if x.rate < c then
    let s := if x.rate = 0 ∧ 0 < x.debt then startPaying d i (bump (pgMc d) 5 1 (raiseBit (pgMc d) 1 s)) else s
    want (modMch d i (fun x => { x with rate := c, low := 0 }) s)
  else if !periodic then s
  else if x.rate ≤ c then modMch d i (fun x => { x with low := 0 }) s
  else if x.low = 1 then want (modMch d i (fun x => { x with rate := x.rate - 1, low := 0 }) s)
  else modMch d i (fun x => { x with low := x.low + 1 }) s

/-- Reads of channels 0 up, one code each. -/
def readCodes (d : Nat) (periodic : Bool) : Nat → List Nat → State → State
  | _, [], s => s
  | i, c :: cs, s => readCodes d periodic (i + 1) cs (if i < 16 then readClass d i c periodic s else s)

/-- The codes of one read round of a die, with the conditions and yields that follow (R303, R305, R379). -/
def readRound (d : Nat) (periodic : Bool) (codes : List Nat) (s0 : State) : State :=
  yieldOnConditions (rateConds d s0 (readCodes d periodic 0 codes s0))

/-- Classes as they are read on wake: taken as they come, every debt 0; a change asks for tracking (R310, R311). -/
def wakeClasses (d : Nat) : Nat → List Nat → State → State
  | _, [], s => s
  | i, c :: cs, s =>
    let s := if 3 ≤ c then raiseBit (pgMc d) 8 s else s
    wakeClasses d (i + 1) cs (if i < 16 then
      let changed := decide ((mch (mc s d) i).rate ≠ classOf c)
      modMc d (fun m => { m with trackWant := m.trackWant || changed }) (modMch d i (fun _ => { rate := classOf c }) s)
    else s)

/-- The reads of wake (R311). -/
def readClasses (d : Nat) (codes : List Nat) (s0 : State) : State := rateConds d s0 (wakeClasses d 0 codes s0)

/-- Self-refresh on entry to sleep, after every owed command, or its end (R311). -/
def selfRefresh (d : Nat) (b : Bool) (s : State) : State :=
  modMc d (fun m => { m with selfRefresh := b }) (if b then repayAll d s else s)

/-! ## Panic (R298–R300) -/

/-- A real-time port's watermark. -/
def watermark (x : Mc) (p : Nat) : Nat := x.wm.get (fun _ => 0x10) p

/-- A port's level: bytes fetched and not yet consumed, or the free space of a writer's 32 KiB buffer. DESIGN CHOICE: 32 KiB before the port has
worked. -/
def portLevel (x : Mc) (p : Nat) : Nat := x.level.get (fun _ => 0x8000) p

/-- Port `p`'s level becomes `l`. -/
def setLevel (d p l : Nat) (s : State) : State := modMc d (fun m => { m with level := m.level.set (fun _ => 0x8000) p (min l 0x8000) }) s

/-- No owed command is issued back to back any more at class 1×: a port in panic goes first (R299). -/
def stopPaying (d : Nat) (s : State) : State :=
  (List.range 16).foldl (fun s i => if (mch (mc s d) i).rate = 0 then modMch d i (fun x => { x with paying := false }) s else s) s

/-- Port `p`'s level becomes `l`: below its watermark the port enters panic, at twice the watermark it leaves it, and with none left in panic
the owed refreshes are issued (R298, R299, R302). -/
def levelTo (d p l : Nat) (s : State) : State :=
  let s := setLevel d p l s
  let x := mc s d
  if x.panic.contains p then
    if watermark x p * 1024 ≤ portLevel x p then
      let s := modMc d (fun m => { m with panic := NSet.del m.panic p }) s
      if (mc s d).panic = [] then (List.range 16).foldl (fun s i => startPaying d i s) s else s
    else s
  else if portLevel x p < watermark x p * 512 then
    stopPaying d (bump (pgMc d) (16 + p) 1 (raiseBit (pgMc d) 0 (modMc d (fun m => { m with panic := NSet.add m.panic p }) s)))
  else s

/-! ## The order of service (R299) -/

/-- A request that waits on a memory channel: its requester by the codes of `MC_ERR_INFO`, 0 to 11 for the ports, 0x40 for engines and entropy
units. -/
structure DramReq where
  requester : Nat
  word      : Nat
  deriving DecidableEq, Repr

/-- What a memory channel serves next. -/
inductive Served where
  | refresh
  | request (r : DramReq)
  deriving DecidableEq, Repr

/-- What channel `i` serves next of the requests `l`, oldest first (R299, R304, R305): `due` tells whether a refresh is due, `last` which port
was served last, `gap` that a burst of a port in panic has gone since the last owed refresh of a repayment, `engine` that the last command
slot served an engine or entropy unit, and `fourX` that the die is in the 4× state. DESIGN CHOICE: within levels 4 and 5 the oldest
request. -/
def servesNext (x : Mc) (i last : Nat) (due gap engine fourX : Bool) (l : List DramReq) : Option Served :=
  let c := mch x i
  let owed := due || decide (0 < c.debt)
  let port := ((List.range 12).map (fun j => (last + 1 + j) % 12)).find? (fun p => x.panic.contains p && l.any (fun r => decide (r.requester = p)))
  let panic := (port.bind (fun p => l.find? (fun r => decide (r.requester = p)))).map Served.request
  let others := if fourX && engine then l.filter (fun r => decide (r.requester ≠ 0x40)) else l
  if decide (0 < c.rate) && c.paying && decide (0 < c.debt) && !gap && panic.isSome then panic
  else if (owed && decide (0 < c.rate)) || (due && decide (8 ≤ c.debt)) then some .refresh
  else if panic.isSome then panic
  else if owed then some .refresh
  else
    match l.find? (fun r => decide (r.requester < 12)) with
    | some r => some (.request r)
    | none => others.head?.map .request

/-! ## Tracking (R279, R310) -/

/-- The controller's request at a package furrow boundary: at every sixteenth, after a change of class, and again when it
was not granted; the dispatcher grants one window at a time. -/
def trackAtBoundary (d : Nat) (s : State) : State :=
  if !mcReady s d then s
  else
    let n := (mc s d).trackCount + 1
    let s := modMc d (fun m => { m with trackCount := n % 16, trackWant := m.trackWant || decide (n = 16) }) s
    if (mc s d).trackWant && !(dsp s d).tracking then
      modMc d (fun m => { m with trackWant := false })
        (bump (pgDsp d) 120 1 (modDsp d (fun x => { x with tracking := true }) s))
    else s

/-- The window ends (R310). -/
def trackEnd (d : Nat) (s : State) : State :=
  if (dsp s d).tracking then bump (pgMc d) 8 1 (modDsp d (fun x => { x with tracking := false }) s) else s

/-! ## Errors (R295–R297) -/

/-- A clear of `MC_ERR_INFO.VALID` re-arms the log (R312). -/
def clearErr (d : Nat) (v : Word) (s : State) : State :=
  if bitOf v 31 then modMc d (fun m => { m with errInfo := m.errInfo &&& 0x7FFFFFFF }) s else s

/-- The words of die `d` in a list of keys. -/
def wordsOn (d : Nat) (l : NSet) : List Nat := (l.filter (fun x => decide (x / 2 ^ 29 = d))).map (fun x => x % 2 ^ 29)

/-- A patrol pass (R297) over every usable word: the words where it found a single-bit error, which are written back corrected, and those it
found uncorrectable, which stay as they are; every word known to hold one is found. -/
def patrol (d : Nat) (singles doubles : List Nat) (s : State) : State :=
  let bad := (doubles ++ wordsOn d (s.poison ++ s.broken)).eraseDups
  let fix := (singles ++ wordsOn d s.soft).eraseDups.filter (fun w => !bad.contains w)
  let s := (List.range 16).foldl (fun s i => bump (pgMc d) (32 + i) 1006632960 s) s
  let s := fix.foldl (fun s w => countWrite d w (eccCorrect d { s with soft := NSet.del s.soft (wordKey d w) })) s
  bump (pgMc d) 2 1 (bad.foldl (fun s w => leaveBad d w (eccBad d w 0x45 s)) s)

/-! ## The aperture (R90, R296, R463–R466) -/

/-- The granule of a usable address is wiped (R89, R90). -/
def wiped (s : State) (d a : Nat) : Bool := decide (a / 2 ^ 28 < granules s d)

/-- An access that touches an unwiped granule is refused there, and counted (R90). -/
def wipeAccess (d : Nat) (ws : List Nat) (s : State) : State :=
  if ws.all (fun w => wiped s d (32 * w)) then s else bump pgPwr 4 1 (raiseBit pgPwr 1 s)

/-- The host reaches memory space: the link is up and the function in D0 (R460, R467). -/
def hostOpen (s : State) : Bool := s.host.up && !s.host.d3hot

/-- The usable address that aperture offset `x` reaches (R465). -/
def aperAddr (s : State) (x : Nat) : Nat := s.host.aperBase * 2 ^ 20 + x

/-- One data word of an aperture read; `e` is what the access meets at this word. -/
def aperReadWord (d w : Nat) (e : EccEvent) (s : State) : Bool × State :=
  if !wiped s d (32 * w) then (false, s)
  else
    let s := countRead d w s
    if wordBad s d w || decide (e = .double) then (true, leaveBad d w (eccBad d w 0x43 s))
    else (false, if e = .single ∨ wordSoft s d w = true then meetSoft d w s else s)

/-- The words of an aperture read: those found bad. -/
def aperReadWords (d : Nat) : List Nat → EccEvent → State → List Nat × State
  | [], _, s => ([], s)
  | w :: ws, e, s =>
    let r := aperReadWord d w e s
    let rest := aperReadWords d ws .clean r.2
    (if r.1 then w :: rest.1 else rest.1, rest.2)

/-- An aperture read of `n` bytes at offset `x`: a word that is uncorrectable reads as ones, one not yet wiped as zero. -/
def aperRead (x n : Nat) (e : EccEvent) (s : State) : State :=
  let d := s.host.aperDie
  let a := aperAddr s x
  let r := aperReadWords d (wordsOf a n) e (wipeAccess d (wordsOf a n) s)
  let bytes := (List.range n).map (fun i =>
    let b := a + i
    if r.1.contains (b / 32) then (0xFF : Byte) else if wiped s d b then dramGet s d b else 0)
  bump 1 0 n (emit (.readBytes bytes) r.2)

/-- The bytes of a write that fall into data word `w`, and whether they are all of it. -/
def wordBytes (a : Nat) (bs : List (Option Byte)) (w : Nat) : List (Nat × Byte) :=
  (List.range 32).filterMap (fun i =>
    let b := 32 * w + i
    if b < a then none
    else match bs.getD (b - a) none with
      | none => none
      | some v => some (b, v))

/-- One data word of an aperture write (R295). -/
def aperWriteWord (d w : Nat) (l : List (Nat × Byte)) (e : EccEvent) (s : State) : State :=
  if l = [] ∨ wiped s d (32 * w) = false then s else storeWord d w (decide (l.length = 32)) e (l.foldl (fun s x => dramSet d x.1 x.2 s) s)

/-- The words of an aperture write. -/
def aperWriteWords (d a : Nat) (bs : List (Option Byte)) : List Nat → EccEvent → State → State
  | [], _, s => s
  | w :: ws, e, s => aperWriteWords d a bs ws .clean (aperWriteWord d w (wordBytes a bs w) e s)

/-- An aperture write at offset `x`. -/
def aperWrite (x : Nat) (bs : List (Option Byte)) (e : EccEvent) (s : State) : State :=
  let a := aperAddr s x
  let d := s.host.aperDie
  let ws := wordsOf a bs.length
  bump 1 1 (bs.filter Option.isSome).length
    (aperWriteWords d a bs ws e (wipeAccess d (ws.filter (fun w => !(wordBytes a bs w).isEmpty)) s))

/-- The access stays inside the 512 MiB window (R465). -/
def inWindow (x n : Nat) : Bool := decide (x + n ≤ 2 ^ 29)

end Sys2Proof.Machine
end

