-- ==== Sys2Proof/Machine/CheckSum.lean ====
section
/-! DEFINITION. The commit check's tests of audio and TDM ports (R400–R408), of the PKG page (R121, R358, R386, R470), and the
sums of tests 12 and 13 (R285, R286, R306–R308). -/

namespace Sys2Proof.Machine

open Sys2Proof

/-! ## Audio flows (R400, R406, R407) -/

/-- Audio flows, 64 die + local number, whose page a store lists. -/
def aflPages (t : Tbl Word) : List Nat := (pagesIn t 0x300 0x340).map (fun k => 64 * keyDie k + (keyPage k - 0x300))

/-- Test 4 for one audio flow. -/
def chkAfl (t : Tbl Word) (f : Nat) : List Nat :=
  let g := getW t
  let c := aflCfg g f
  (List.range 4).flatMap (fun j =>
    let v := asvcOf f j
    let x := asvcCfg g v
    refuse (decide (x.srtp = 3) || (c.valid && x.valid && !x.form1 &&
      decide (9000 < 40 + (if x.srtp ≠ 0 then 16 else 0) + c.n * x.count * c.width))) (aflLoc f (0x110 + 8 * j)) ++
    refuse (c.valid && x.valid && (if x.form1 then pidBad x.pid else outside x.pt 96 127)) (aflLoc f (0x114 + 8 * j))) ++
  (List.range 64).flatMap (fun k =>
    let w := routeW g f k
    let used := c.valid && c.mix && decide (k < c.chans)
    refuse (decide (2 < routeSrc w) || (used && decide (routeSrc w = 1) && (decide (63 < routeA w) || decide (63 < routeB w))) ||
      (used && decide (routeSrc w = 2) && (decide (3 < routeA w) || decide (31 < routeB w)))) (aflLoc f (0x180 + 4 * k))) ++
  (if c.valid then refuse (outside c.latency 250 20000) (aflLoc f 0x100) ++ refuse (outside (fld (g (aflLoc f 0x104)) 5 0) 1 40) (aflLoc f 0x104)
  else [])

/-- A live classifier entry, route, output slot or flow-table entry names audio flow `f` (R406). -/
def aflNamed (s : State) (f : Nat) : Bool :=
  let t := s.live
  let g := liveW s
  (validEnts t).any (fun e => let c := entCfg g e
    decide (c.kind = 1) && decide (64 * entDie e + c.target = f)) ||
  (validFlows t).any (fun x => !isVideoSvc (flowCfg g x).svc && decide (asvcFlow (flowCfg g x).svc = f)) ||
  (aflPages t).any (fun x => let c := aflCfg g x
    c.valid && c.mix && decide (x / 64 = f / 64) &&
      (List.range c.chans).any (fun k => decide (routeSrc (routeW g x k) = 1) && decide (routeA (routeW g x k) = f % 64))) ||
  (List.range 4).any (fun p => audEn g p && (List.range 32).any (fun i => bitOf (audW g p 0x108) i && decide (fld (audOutSrc g p i) 14 6 = f)))

/-- Changes that R406 refuses. -/
def chkAflKept (s : State) (t : Tbl Word) (f : Nat) : List Nat :=
  refuse (((getW t (aflLoc f 0x100) ^^^ liveW s (aflLoc f 0x100)) &&& 0x703F0000) ≠ 0 && aflNamed s f) (aflLoc f 0x100) ++
  (List.range 4).flatMap (fun j =>
    if flowNames s.live (asvcOf f j) then [aflLoc f (0x110 + 8 * j), aflLoc f (0x114 + 8 * j)].filter (changes s t) else [])

/-- Source latency of a route in µs (R402). -/
def routeLatency (g : Nat → Word) (d : Nat) (w : Word) : Nat :=
  if routeSrc w = 1 then (aflCfg g (64 * d + routeA w)).latency
  else if routeSrc w = 2 then
    let c := audW g (routeA w) 0x100
    if bitOf (audW g (routeA w) 0x10C) (routeB w) || (ctlLeader c && decide (ctlRate c = 1)) then 250 else 1000
  else 0

/-- Test 8 for one audio flow. -/
def chkAflMap (t : Tbl Word) (f : Nat) : List Nat :=
  let g := getW t
  let c := aflCfg g f
  let d := f / 64
  let ks := List.range c.chans
  if !c.valid then []
  else
    (if c.mix then
      ks.flatMap (fun k =>
        let w := routeW g f k
        let o := aflCfg g (64 * d + routeA w)
        refuse ((decide (routeSrc w = 1) && (!o.valid || o.mix || decide (o.chans ≤ routeB w))) ||
          (decide (routeSrc w = 2) && (!audEn g (routeA w) || !bitOf (audW g (routeA w) 0x104) (routeB w)))) (aflLoc f (0x180 + 4 * k))) ++
      refuse (decide (c.latency < (ks.map (fun k => routeLatency g d (routeW g f k))).foldl max 0 + 50)) (aflLoc f 0x100)
    else []) ++
    (List.range 4).flatMap (fun j =>
      let x := asvcCfg g (asvcOf f j)
      let v := 512 * d + x.vsvc
      let fm := chFmt g (svcCh v)
      refuse (x.valid && (decide (c.chans < x.first + x.count) || (x.form1 && (decide (x.count % 2 ≠ 0) || decide (8 < x.count)))))
        (aflLoc f (0x110 + 8 * j)) ++
      refuse (x.valid && x.form1 && (!((svcCfg g v).valid && decide ((svcCfg g v).form = 1) && chRun g (svcCh v)) ||
        decide (fm.d * fm.furrowU < (1000 * c.latency + 10000) * fm.unit))) (aflLoc f (0x114 + 8 * j)))

/-! ## TDM ports (R407, R408) -/

/-- Bits of a mask above slot `n` − 1. -/
def above (w : Word) (n : Nat) : Bool := decide (2 ^ n ≤ w.toNat)

/-- Frames per second (R408). -/
def frameRate (code : Nat) : Nat := if code = 0 then 44100 else if code = 1 then 48000 else 96000

/-- Test 4 for one TDM port. -/
def chkAud (t : Tbl Word) (p : Nat) : List Nat :=
  let g := getW t
  let c := audW g p 0x100
  let w := fun o => ploc (8 + p) o
  let en := audEn g p
  let n := ctlSlots c
  let slip := audW g p 0x10C
  refuse (decide (ctlRate c = 3) || (en && ((ctlLeader c && !audOutEn g p) || decide (49152000 < ctlBits c * frameRate (ctlRate c))))) (w 0x100) ++
  refuse (en && above (audW g p 0x104) n) (w 0x104) ++ refuse (en && above (audW g p 0x108) n) (w 0x108) ++
  refuse (en && (above slip n || decide (8 < ones slip) || (decide (slip ≠ 0) && decide (ctlRate c ≠ 1)))) (w 0x10C) ++
  refuse (en && (above (audW g p 0x110) n || (decide (audW g p 0x110 ≠ 0) && decide (ctlWidth c ≠ 32)))) (w 0x110) ++
  refuse (outside (fld (audW g p 0x114) 5 0) 1 40) (w 0x114)

/-- Output slots of an enabled port whose flow or channel is not there (R407). -/
def chkAudMap (s : State) (t : Tbl Word) (p : Nat) : List Nat :=
  let g := getW t
  if !audEn g p then []
  else (List.range 32).flatMap (fun i =>
    let w := audOutSrc g p i
    let f := fld w 14 6
    let c := aflCfg g f
    refuse (bitOf (audW g p 0x108) i && (decide (dies s ≤ f / 64) || !c.valid || decide (c.chans ≤ fld w 5 0))) (ploc (8 + p) (0x180 + 4 * i)))

/-- Test 4 for audio. -/
def chkAudio (s : State) (t : Tbl Word) : List Nat :=
  (aflPages t).flatMap (fun f => chkAfl t f) ++ ((aflPages t ++ aflPages s.live).eraseDups).flatMap (chkAflKept s t) ++
    (List.range 4).flatMap (chkAud t)

/-- Test 8. -/
def chkAudioMaps (s : State) (t : Tbl Word) : List Nat := (aflPages t).flatMap (chkAflMap t) ++ (List.range 4).flatMap (chkAudMap s t)

/-! ## The PKG page (R121, R358, R386, R470) -/

/-- The bytes of the shadow barn of channel `ch` (R386): from the `BARN_BASE` staged for SPARE_LOCAL. -/
def shadowRange (s : State) (g : Nat → Word) (ch : Nat) : Nat × Nat :=
  let b := 4096 * (barnCfg (stagedW s) (32 * spareDie g ch + spareLocal g ch)).base
  (b, b + (barnCfg g ch).stalls * stallBytes (chFmt g ch) (fld (g (chLoc ch 0x140)) 5 4))

/-- R386: the re-seating word of a running channel breaks a rule. -/
def reseatBad (s : State) (t : Tbl Word) (ch : Nat) : Bool :=
  let g := getW t
  let d := spareDie g ch
  let q := 32 * d + spareLocal g ch
  let e := spareEntry g ch
  let a := chSlot g ch
  let sa := slotCfg g a.1 a.2
  let sb := slotCfg g (entDie e) (entCfg g e).target
  decide (d = ch / 32) || decide (dies s ≤ d) || chComposed g ch || !(barnCfg g ch).ckpt || decide (spareMask g ch = 0) || (runChs t).contains q ||
    (channels s).any (fun o => decide (o ≠ ch) && reseatEn g o && decide (32 * spareDie g o + spareLocal g o = q)) ||
    !(decide (entDie e = d) && (entCfg g e).valid && decide ((entCfg g e).kind = 0) && sb.valid && decide (({ sb with base := 0 } : SlotCfg) = { sa with base := 0 })) ||
    beyondDram (shadowRange s g ch) ||
    (runChs t).any (fun o => decide (o / 32 = d) && meet (barnRange g o) (shadowRange s g ch))

/-- Test 4 for the PKG page. -/
def chkPkg (s : State) (t : Tbl Word) (m : Nat → Bool) : List Nat :=
  let g := getW t
  let v := g 0x140
  let lane := fld v 20 16
  let uncp := (runChs t).filter (fun ch => !(barnCfg g ch).ckpt)
  let dreq := sgn 8 (fld (g 0x148) 7 0)
  refuse (outside (holdRate g) 1 10000 || outside (holdLimit g) 100 50000) 0x108 ++
  refuse (pairEn g && (decide (yokeLanes g = 0) || (m 0x110 && decide (uncp ≠ [])))) 0x110 ++
  (if pairEn g && !m 0x110 then uncp.map (fun ch => bnLoc ch 0x104) else []) ++
  refuse (decide (fld v 15 0 = 0) || ((bitOf v 30 || bitOf v 29) && (!(portOn g (lane / 4) lane && decide (gateAddr g lane ≠ 0)) ||
    (bitOf v 30 && decide (g 0x14C = 0))))) 0x140 ++
  refuse (decide (dreq < -7) || decide (0 < dreq)) 0x148 ++ refuse (decide (fld (g 0x150) 15 0 = 0)) 0x150 ++
  (runChs t).flatMap (fun ch => refuse (reseatEn g ch && reseatBad s t ch) (reseatLoc ch))

/-! ## Test 12 (R285, R286) -/

/-- Terms of the engine sums, keys 16 die + X, and of the decode sums, keys 4096 + die, in 1/1,001 samples/s. A re-seatable
channel counts on its spare die too (R386). -/
def engineTerms (s : State) (t : Tbl Word) : List Term :=
  let g := getW t
  let on : Nat → Nat → Nat → List Term := fun ch d mask => ((List.range' 1 15).filter (fun x => decide (mask &&& x = mask))).map (fun x =>
    (chLoc ch 0x154, 16 * d + x, lumaRate1001 (chFmt g ch)))
  (runChs t).flatMap (fun ch => on ch (ch / 32) (engMask g ch) ++ (if reseatEn g ch then on ch (spareDie g ch) (spareMask g ch) else [])) ++
  (List.range (dies s)).flatMap (fun d => ((decsOf t d).filter (fun n =>
    (decCfg g d n).valid && decide (0 < decUsers t (64 * d + n)))).map (fun n =>
      let c := decCfg g d n
      (decLoc d n 0, 4096 + d, c.w * c.h * ((rateOf c.rate).1 * (1001 / (rateOf c.rate).2)))))

/-- Limits of test 12. -/
def engineLimit (k : Nat) : Nat := if k < 4096 then 2000000000 * 1001 * ones (BitVec.ofNat 32 (k % 16)) else 2000000000 * 1001

/-- Test 12. -/
def chkEngines (s : State) (t : Tbl Word) (m : Nat → Bool) : List Nat := firstOver m engineLimit (engineTerms s t)

/-! ## Test 13 (R306–R308) -/

/-- Keys of a die's DRAM sum and of the transmit and receive sums of its fabric port. -/
def keyMem (d : Nat) : Nat := d
def keyTx (d : Nat) : Nat := 16 + d
def keyRx (d : Nat) : Nat := 32 + d

/-- A term of `x` (in 1/16,016 B/s) of the word at `a` that reads the DRAM of die `from_` for a block of die `to_`. -/
def across (a from_ to_ x : Nat) : List Term := if from_ = to_ then [] else [(a, keyTx from_, x), (a, keyRx to_, x)]

/-- Coded bits per pixel of a channel (R306). -/
def codedBits (g : Nat → Word) (ch : Nat) : Nat := if fld (g (chLoc ch 0x140)) 5 4 = 1 then 20 else 15

/-- Terms of a channel with RUN at 1. -/
def chTerms (g : Nat → Word) (ch : Nat) : List Term :=
  let d := ch / 32
  let a := chLoc ch 0x100
  let r := 16 * lumaRate1001 (chFmt g ch)
  let b := codedBits g ch
  let barn := r * b / 2 + r * b / 16
  let q := chSlot g ch
  let sc := slotCfg g q.1 q.2
  let src := 2 * (sc.w * sc.h * (16 * rate1001 sc.fmt) * bitsPerPixel sc.samp / 8)
  (if chComposed g ch then [(a, keyMem d, 3 * (r * b / 8))] else (a, keyMem q.1, src) :: across a q.1 d src) ++ [(a, keyMem d, barn)] ++
  (if reseatEn g ch then
    let x := r * b / 16
    let e := spareDie g ch
    [(a, keyMem e, barn + x), (a, keyMem d, x)] ++ across a d e x
  else [])

/-- Terms of a layer of a running canvas: its source's die, or each die that holds one of its buffers. -/
def layTerms (g : Nat → Word) (i : Nat) : List Term :=
  let c := layCfg g i
  let ch := layerCh g i
  let f := chFmt g ch
  let size := if c.num = 0 then (f.w, f.h) else (c.srcW, c.srcH)
  let e := c.source
  let bits := if c.kind = 2 then bitsPerPixel (slotCfg g (entDie e) (entCfg g e).target).samp else if c.kind = 3 then 15 else 32
  let x := size.1 * size.2 * (16 * rate1001 f) * bits / 8
  let ds := if c.kind = 2 then [entDie e] else if c.kind = 3 then [e / 64] else ((List.range (c.nbuf + 1)).map (fun b => (layBuf g i b).1)).eraseDups
  if c.kind = 0 then [] else ds.flatMap (fun d => (layLoc i 0x100, keyMem d, x) :: across (layLoc i 0x100) d (i / 256) x)

/-- Every term of test 13 but the fixed ones. -/
def dramTerms (s : State) (t : Tbl Word) : List Term :=
  let g := getW t
  (List.range (dies s)).flatMap (fun d =>
    ((slotsOf t d).filter (fun n => (slotCfg g d n).valid)).map (fun n =>
      let c := slotCfg g d n
      let v := 16 * rate1001 c.fmt
      (slotLoc d n 0, keyMem d, c.w * c.h * v * bitsPerPixel c.samp / 8 + 16384 * v)) ++
    ((decsOf t d).filter (fun n => (decCfg g d n).valid && decide (0 < decUsers t (64 * d + n)))).map (fun n =>
      let c := decCfg g d n
      let v := 16 * ((rateOf c.rate).1 * (1001 / (rateOf c.rate).2))
      let feeds := (validEnts t).filter (fun e => decide (entDie e = d) && decide ((entCfg g e).kind = 3) && decide ((entCfg g e).target = n))
      (decLoc d n 0, keyMem d, 3 * (c.w * c.h * v * 15 / 8) + 2 * (feeds.map (fun e => (entCfg g e).cir)).sum * 125 * 16016))) ++
  (runChs t).flatMap (chTerms g) ++ (liveLayers t).flatMap (layTerms g) ++
  (validFlows t).flatMap (fun f =>
    let c := flowCfg g f
    let x := 2002 * svcRate g c.svc * (if svcDual g c.svc then 2 else 1)
    (flowLoc f 0, keyMem (entDie f), x) :: across (flowLoc f 0) (c.svc / 512) (entDie f) x)

/-- Limits of test 13 less the fixed terms, in 1/16,016 B/s. -/
def dramSumLimit (k : Nat) : Nat :=
  if k < 16 then dramLimit * 1500 * 16016 / 1664 - 4000000000 * 16016 else (272000000000 - 8000000000) * 16016

/-- Test 13. -/
def chkDram (s : State) (t : Tbl Word) (m : Nat → Bool) : List Nat := firstOver m dramSumLimit (dramTerms s t)

end Sys2Proof.Machine
end

