-- ==== Sys2Proof/Machine/Ic.lean ====
section
/-! DEFINITION. The interrupt controller (R419–R437), as operations. Messages in flight are listed with their sender: a page
by its key, the host and the control cores by numbers of their own. -/

namespace Sys2Proof.Machine

open Sys2Proof

/-- The IC page. -/
def pgIc : Nat := 2

/-- Senders that are no page: the host, and each control core (R419). -/
def senderHost : Nat := 2 ^ 20
def senderCore (c : Nat) : Nat := 2 ^ 20 + 1 + c

/-- Source `n`. -/
def src (s : State) (n : Nat) : Src := s.ic.srcs.get (fun _ => {}) n

/-- The state with a source changed by `f`. -/
def modSrc (n : Nat) (f : Src → Src) (s : State) : State :=
  { s with ic := { s.ic with srcs := s.ic.srcs.set (fun _ => {}) n (f (src s n)) } }

/-- Sources of the variant (R2, R5). -/
def sourceExists (s : State) (n : Nat) : Bool := decide (n < 512 * dies s)

/-- A target that a routing entry may name (R423). -/
def targetExists (s : State) (t : Nat) : Bool := (decide (t < 32) && decide (t / 4 < dies s)) || (decide (32 ≤ t) && decide (t < 288))

/-! ## A die's wake request (R105–R108, R432) -/

/-- A wake begins (R108). DESIGN CHOICE: counter 2 counts it here, R109 naming no instant. -/
def startWake (d : Nat) (s : State) : State :=
  bump pgPwr 2 1 { s with pwr := { s.pwr with
    asleep := NSet.del s.pwr.asleep d, waking := NSet.add s.pwr.waking d
    wakeWanted := NSet.del s.pwr.wakeWanted d, sleepReg := NSet.del s.pwr.sleepReg d
    wakeStep := s.pwr.wakeStep.set (fun _ => 0) d 0
    laneCal := s.pwr.laneCal.filter (fun l => decide (l / 4 ≠ d ∨ 32 ≤ l)) } }

/-- A wake request, which acts as a write of 0 to the die's `PWR_SLEEP` bit (R105, R107). -/
def wakeRequest (d : Nat) (s : State) : State :=
  if s.pwr.entering.contains d then
    { s with pwr := { s.pwr with wakeWanted := NSet.add s.pwr.wakeWanted d, sleepReg := NSet.del s.pwr.sleepReg d } }
  else if s.pwr.asleep.contains d then startWake d s
  else { s with pwr := { s.pwr with sleepWanted := NSet.del s.pwr.sleepWanted d, sleepReg := NSet.del s.pwr.sleepReg d } }

/-! ## Delivery (R421, R426, R429, R432) -/

/-- A target is asleep (R432): a core until the 40 µs step of its die's wake, a host target without link or MSI-X. -/
def targetAsleep (s : State) (t : Nat) : Bool :=
  if t < 32 then
    let d := t / 4
    s.pwr.entering.contains d || s.pwr.asleep.contains d ||
      (s.pwr.waking.contains d && decide (s.pwr.wakeStep.get (fun _ => 0) d < 3))
  else !(s.host.up && s.host.msixEn)

/-- The target that may claim a source: its FALLBACK while it is redirected, unless that one sleeps and TARGET does not
(R433). -/
def claimant (s : State) (x : Src) : Nat :=
  if x.redir then (if targetAsleep s x.fallback && !targetAsleep s x.target then x.target else x.fallback) else x.target

/-- Priority held in service by target `t`, plus one; 0 when it holds nothing (R429). -/
def runningPrio (s : State) (t : Nat) : Nat :=
  s.ic.srcs.foldl (fun a e => match e.2.svc with
    | none => a
    | some (u, p) => if u = t then max a (p + 1) else a) 0

/-- R421, but for who claims it. -/
def raisable (x : Src) : Bool := x.pend && x.en && !x.mask && x.svc.isNone

/-- Source `x` is deliverable to target `t`. -/
def deliverable (s : State) (t : Nat) (x : Src) : Bool :=
  raisable x && decide (claimant s x = t) && decide (runningPrio s t ≤ x.prio)

/-- The source that a claim of `t` takes: highest priority, then lowest number (R428). -/
def bestSource (s : State) (t : Nat) : Option (Nat × Src) :=
  (s.ic.srcs.filter (fun e => deliverable s t e.2)).foldl (fun b e =>
    match b with
    | none => some e
    | some o => if o.2.prio < e.2.prio then some e else some o) none

/-- Words of the MSI-X table after a link reset: every vector masked. PRESUMED: PCI Express resets the mask bit to 1. -/
def msixReset (i : Nat) : Word := if i % 4 = 3 then 1 else 0

/-- A vector is masked: by its own bit or for the whole function (R426), or without Bus Master Enable (R462). -/
def vectorMasked (s : State) (v : Nat) : Bool := s.host.funcMask || !s.host.busMaster || bitOf (s.host.msixTab.get msixReset (4 * v + 3)) 0

/-- The MSI-X message of a vector, with the address and data of its table entry (R426). -/
def sendMsix (v : Nat) (s : State) : State :=
  let w := fun i => s.host.msixTab.get msixReset (4 * v + i)
  emit (.msix v ((w 1).toNat * 2 ^ 32 + (w 0).toNat) (w 2)) (bump pgIc 8 1 s)

/-- A presentation to target `t` on a vector (R426): a masked vector pends, as PCI Express lays down. -/
def signalMsix (v t : Nat) (s : State) : State :=
  if vectorMasked s v then
    { s with ic := { s.ic with msixPend := s.ic.msixPend.filter (fun e => decide (e ≠ (v, t))) ++ [(v, t)] } }
  else sendMsix v s

/-- The pending bit of a vector. -/
def vectorPends (s : State) (v : Nat) : Bool := s.ic.msixPend.any (fun e => decide (e.1 = v))

/-- Vectors that pend and are masked no more are sent, one message each. -/
def flushMsix (s : State) : State :=
  ((s.ic.msixPend.map Prod.fst).eraseDups).foldl (fun s v =>
    if vectorMasked s v then s
    else sendMsix v { s with ic := { s.ic with msixPend := s.ic.msixPend.filter (fun e => decide (e.1 ≠ v)) } }) s

/-- Vector of host target `h` (R436). -/
def hostVector (s : State) (h : Nat) : Nat := s.ic.hvec.get (fun i => i) h

/-- A presentation to `t` of a source of priority `p` (R426). -/
def present (t n p : Nat) (s : State) : State :=
  let s := { s with ic := { s.ic with presented := s.ic.presented.set (fun _ => 0) t (1 + 16 * n + p) } }
  if 32 ≤ t then signalMsix (hostVector s (t - 32)) t s else s

/-- The priority of the unanswered presentation of `t`, if it has one. -/
def presentedPrio (s : State) (t : Nat) : Option Nat :=
  let x := s.ic.presented.get (fun _ => 0) t
  if x = 0 then none else some ((x - 1) % 16)

/-- Source `n` is presented to target `t` if that target may be presented to with it (R426). -/
def presentSource (t n : Nat) (s : State) : State :=
  let x := src s n
  if targetAsleep s t || !deliverable s t x then s
  else
    match presentedPrio s t with
    | none => present t n x.prio s
    | some p => if p < x.prio then present t n x.prio s else s

/-- The arbiter presents to target `t` when it may, the source that a claim would return (R426). -/
def presentTo (t : Nat) (s : State) : State :=
  match bestSource s t with
  | none => s
  | some (n, _) => presentSource t n s

/-- A source is redirected (R433). -/
def redirect (n : Nat) (s : State) : State := bump pgIc 10 1 (raiseBit pgIc 4 (modSrc n (fun x => { x with redir := true }) s))

/-- The die whose wake queue serves a target (R432). -/
def queueDie (t : Nat) : Nat := if t < 32 then t / 4 else 0

/-- Messages in die `d`'s queue. -/
def wakeDepth (s : State) (d : Nat) : Nat := (s.ic.wakeQ.filter (fun e => decide (queueDie e.2 = d))).length

/-- A source deliverable to a sleeping target joins that target's wake queue, and may wake its die (R432, R433). -/
def enqueueWake (n t : Nat) (s : State) : State :=
  if 64 ≤ wakeDepth s (queueDie t) then redirect n (raiseBit pgIc 5 s)
  else
    let s := bump pgIc 14 1 { s with ic := { s.ic with wakeQ := s.ic.wakeQ ++ [(n, t)] } }
    if t < 32 ∧ (src s n).wake = true then wakeRequest (t / 4) s else s

/-- A source leaves the wake queue. -/
def unqueue (n : Nat) (s : State) : State := { s with ic := { s.ic with wakeQ := s.ic.wakeQ.filter (fun e => decide (e.1 ≠ n)) } }

/-- Sources that have become deliverable to a sleeping target are queued. -/
def queueSleepers (s : State) : State :=
  s.ic.srcs.foldl (fun s e =>
    let x := src s e.1
    let t := claimant s x
    if raisable x && !x.redir && targetAsleep s t && deliverable s t x && s.ic.wakeQ.all (fun q => decide (q.1 ≠ e.1)) then
      enqueueWake e.1 t s
    else s) s

/-- Delivery is evaluated: sleepers are queued, the messages `first` (source, target) are presented in their order, then each target with
a deliverable source is presented to. -/
def evalIc (first : List (Nat × Nat)) (s : State) : State :=
  let s := first.foldl (fun s e => presentSource e.2 e.1 s) (queueSleepers s)
  ((s.ic.srcs.map (fun e => claimant s e.2)).eraseDups).foldl (fun s t => presentTo t s) s

/-! ## Messages and the bits (R420–R422, R425) -/

/-- A message sets its source's bits (R422). -/
def icTake (n : Nat) (s : State) : State :=
  if !(src s n).en then bump pgIc 1 1 (raiseBit pgIc 1 s)
  else
    let s := bump pgIc 0 1 s
    let s := if (src s n).pend then bump pgIc 2 1 s else s
    modSrc n (fun x => { x with pend := true }) s

/-- A message reaches the arbiter (R422). -/
def icMessage (n : Nat) (s : State) : State := if (src s n).en then evalIc [] (icTake n s) else icTake n s

/-- A write that names a source beyond the variant is discarded and counted (R420). -/
def atSource (v : Word) (k : Nat → State → State) (s : State) : State :=
  if sourceExists s v.toNat then k v.toNat s else bump pgIc 9 1 (raiseBit pgIc 7 s)

/-- The oldest message of a sender on its way. -/
def icOldest (s : State) (sender : Nat) : Option (Nat × Nat) := s.ic.inflight.find? (fun e => decide (e.1 = sender))

/-- The oldest message of a sender leaves the fabric, and `k` takes it. -/
def icArriveAs (k : Nat → State → State) (sender : Nat) (s : State) : State :=
  match icOldest s sender with
  | none => s
  | some e => k e.2 { s with ic := { s.ic with inflight := s.ic.inflight.erase e } }

/-- The oldest message of a sender arrives. -/
def icArrive (sender : Nat) (s : State) : State := icArriveAs icMessage sender s

/-- A write to `IC_DOORBELL`: a message on its way (R419, R420). -/
def icSend (sender : Nat) (v : Word) (s : State) : State :=
  atSource v (fun n s => { s with ic := { s.ic with inflight := s.ic.inflight ++ [(sender, n)] } }) s

/-- `IC_PEND_CLR` (R422, R433); a message in the same cycle keeps PENDING set. -/
def icClear (v : Word) (hit : Bool) (s : State) : State :=
  atSource v (fun n s =>
    if hit && (src s n).pend then bump pgIc 3 1 s
    else evalIc [] (unqueue n (modSrc n (fun x => { x with pend := false }) s))) s

/-- `IC_EN_SET` and `IC_EN_CLR`. A set in the cycle of the clear, which is `hit`, wins, and the collision is counted as that of R422's
first case. -/
def icEnable (v : Word) (b hit : Bool) (s : State) : State :=
  atSource v (fun n s => evalIc [] (modSrc n (fun x => { x with en := b || hit }) (bump pgIc 3 (if hit then 1 else 0) s))) s

/-- `IC_MASK_SET` and `IC_MASK_CLR`, with a set in the same cycle as before; a source masked and unmasked is redirected no more (R434). -/
def icMask (v : Word) (b hit : Bool) (s : State) : State :=
  atSource v (fun n s => evalIc [] (modSrc n (fun x =>
    { x with mask := b || hit, redir := x.redir && !(x.mask && !(b || hit) && x.svc.isNone) }) (bump pgIc 3 (if hit then 1 else 0) s))) s

/-- `IC_REMOTE` (R425). -/
def icRemote (v : Word) (s : State) : State :=
  if pairedRole s && !s.yoke.linkLost then bump pgIc 11 1 (sendRel (.doorbell (fld v 11 0)) s)
  else bump pgIc 13 1 (raiseBit pgIc 6 s)

/-- A DOORBELL frame of the partner (R425). -/
def icRemoteIn (n : Nat) (s : State) : State :=
  if (src s n).remote then icMessage n (bump pgIc 12 1 s) else bump pgIc 13 1 (raiseBit pgIc 6 s)

/-! ## Claim and complete (R427–R430) -/

/-- What a claim read returns (R427). -/
def claimWord (n p : Nat) : Word := BitVec.ofNat 32 (2 ^ 31 + p * 2 ^ 16 + n)

/-- What a claim of `t` does at its sampling edge (R428): the presentation is answered, and with it a vector that pends for it (the rule of
PCI Express for an event served while masked). A redirection lasts until one claim takes the source, or until the complete of the
fallback that claimed it (R433, R434). -/
def icClaimEdge (t : Nat) (s : State) : State :=
  let best := bestSource s t
  let s := { s with ic := { s.ic with
    presented := s.ic.presented.set (fun _ => 0) t 0, msixPend := s.ic.msixPend.filter (fun e => decide (e.2 ≠ t)) } }
  match best with
  | none => emit (.read 0) (bump pgIc 4 1 (raiseBit pgIc 2 s))
  | some (n, x) =>
    emit (.read (claimWord n x.prio)) (bump pgIc 3 1 (unqueue n (modSrc n (fun x => { x with
      pend := false, svc := some (t, x.prio), redir := x.redir && decide (x.fallback = t) }) s)))

/-- A claim of `t`, and messages of the senders `late` that arrive after its sampling edge and no later than its completion: one of them
that is presented above what the target now holds in service is a preemption (R431). -/
def icClaim (t : Nat) (late : List Nat) (s : State) : State :=
  let s := icClaimEdge t s
  let r := late.foldl (fun (r : List Nat × State) x =>
    (r.1 ++ (icOldest r.2 x).toList.map Prod.snd, icArriveAs icTake x r.2)) ([], s)
  let s := evalIc [] r.2
  match s.ic.presented.get (fun _ => 0) t with
  | 0 => s
  | y + 1 => if r.1.contains (y / 16) && decide (0 < runningPrio s t) then bump pgIc 7 1 s else s

/-- A complete by `t` (R430, R434). A source in service is redirected still only where its fallback claimed it. -/
def icComplete (t : Nat) (v : Word) (s : State) : State :=
  let n := v.toNat
  match (src s n).svc with
  | some (u, _) =>
    if u = t then evalIc [] (bump pgIc 5 1 (modSrc n (fun x => { x with svc := none, redir := false }) s))
    else bump pgIc 6 1 (raiseBit pgIc 3 s)
  | none => bump pgIc 6 1 (raiseBit pgIc 3 s)

/-! ## Routing, wake and retention (R424, R433–R435) -/

/-- A routing entry written (R424): a reserved TARGET or FALLBACK keeps its field. One that sets WAKE for a queued message wakes its
core's die (R432). -/
def routeSource (n : Nat) (v : Word) (s : State) : State :=
  if sourceExists s n then
    let x := src s n
    let t := if targetExists s (fld v 16 8) then fld v 16 8 else x.target
    let f := if targetExists s (fld v 25 17) then fld v 25 17 else x.fallback
    let s := if t ≠ x.target then unqueue n s else s
    let s := if bitOf v 26 ∧ t < 32 ∧ s.ic.wakeQ.any (fun e => decide (e.1 = n)) = true then wakeRequest (t / 4) s else s
    evalIc [] (modSrc n (fun x => { x with
      remote := bitOf v 27, wake := bitOf v 26, fallback := f, target := t, prio := fld v 3 0
      redir := x.redir && !(decide (f ≠ x.fallback) && x.svc.isNone) }) s)
  else s

/-- What a routing entry reads (R424). -/
def routeWord (s : State) (n : Nat) : Word :=
  if sourceExists s n then
    let x := src s n
    let b := fun (c : Bool) (i : Nat) => if c then 2 ^ i else 0
    BitVec.ofNat 32 (b x.pend 31 + b x.en 30 + b x.mask 29 + b x.svc.isSome 28 + b x.remote 27 + b x.wake 26 +
      x.fallback * 2 ^ 17 + x.target * 2 ^ 8 + x.prio)
  else 0

/-- A queued message's time has run out while its target sleeps (R433). -/
def wakeExpire (n : Nat) (s : State) : State :=
  match s.ic.wakeQ.find? (fun e => decide (e.1 = n)) with
  | none => s
  | some e =>
    if !targetAsleep s e.2 then s
    else
      let s := unqueue n s
      evalIc [] (if (src s n).pend then redirect n s else s)

/-- Targets `ts` are awake (R433): their messages leave the queue and are presented in arrival order, and a redirection that
has waited for either target goes to the one that woke. -/
def targetsWoke (ts : List Nat) (s : State) : State :=
  let first := s.ic.wakeQ.filter (fun e => ts.contains e.2)
  let s := { s with ic := { s.ic with
    wakeQ := s.ic.wakeQ.filter (fun e => !ts.contains e.2)
    presented := s.ic.presented.filter (fun e => !ts.contains e.1) } }
  let s := s.ic.srcs.foldl (fun s e =>
    if e.2.redir && e.2.svc.isNone && ts.contains e.2.target && targetAsleep s e.2.fallback then
      modSrc e.1 (fun x => { x with redir := false }) s
    else s) s
  evalIc first s

/-- The 40 µs step of a wake (R108, R433, R435): the die's state is restored, and its cores are awake. -/
def restoreInterrupts (d : Nat) (s : State) : State :=
  targetsWoke [4 * d, 4 * d + 1, 4 * d + 2, 4 * d + 3] { s with ic := { s.ic with retained := NSet.del s.ic.retained d } }

/-- Every host target. -/
def hostTargets : List Nat := List.range' 32 256

end Sys2Proof.Machine
end

