-- ==== Sys2Proof/Machine/Commit.lean ====
section
/-! DEFINITION. Staging and commit sets (R51–R71): staged writes, COMMIT, the check and its tests in order, the vote of a paired
yoke (R364–R367), what a pass makes live, and the words that take effect at boundaries. -/

namespace Sys2Proof.Machine

open Sys2Proof

/-! ## The life cycle (R92) -/

/-- The state that a count of blown fuses stands for: 0 BLANK, 1 PROVISIONED, 2 DEPLOYED, 3 RETURNED. -/
def lcState (fuses : Nat) : Nat := if fuses = 0 then 0 else (fuses - 1) % 3 + 1

/-- The one state that may follow. -/
def lcNext (fuses : Nat) : Nat := lcState (fuses + 1)

/-! ## Cause codes (R67) -/

def causeCrc : Nat := 1
def causeSkew : Nat := 2
def causeField : Nat := 3
def causeLb : Nat := 4
def causeEngine : Nat := 5
def causeDram : Nat := 6
def causeLane : Nat := 7
def causeFlow : Nat := 8
def causeLevel : Nat := 9
def causeYoke : Nat := 10
def causeKey : Nat := 11
def causeGate : Nat := 12
def causeAudio : Nat := 13
def causeInUse : Nat := 14
def causeLife : Nat := 15

/-! ## Staged writes (R8, R52, R53) -/

/-- A write to the staged word at offset `off` of page `k`. -/
def stagePage (k off : Nat) (v : Word) (s : State) : State :=
  let a := ploc k off
  if !(pageOk s k && decide (0x100 ≤ off) && decide (off < 0x800) && decide (off % 4 = 0)) then s
  else if locked false s k then raiseBit k 29 s
  else modPage k (fun h => { h with dirty := true }) { s with staged := s.staged.set resetWord a (v &&& fieldMask a) }

/-- A write to the staged table word at BAR2 offset `o`; DIRTY and STAGE_LOST are those of the first member page of its set (R52,
R53). DESIGN CHOICE where several entries name the table page, since R52 speaks of one set only: STAGE_LOST is that of the set in
CHECK, and DIRTY that of the lowest-numbered set, in no page where that set has no reporting page. -/
def stageTable (o : Nat) (v : Word) (s : State) : State :=
  let p := o / 4096
  let a := bar2loc o
  let qs := setsNaming true s p
  if !(tablePageOk s p && decide (o % 4 = 0)) then s
  else
    match qs.find? (fun q => decide ((cset s q).st = .check)) with
    | some q => raiseReport q 29 s
    | none =>
      let s := match qs.head? with
        | none => s
        | some q => atReport q (fun k => modPage k (fun h => { h with dirty := true })) s
      { s with staged := s.staged.set resetWord a (v &&& fieldMask a) }

/-- A write to word `w` of set `q`'s entry (R54, R57): words 14 and 15 are read-only, bit 0 of a member word is reserved. -/
def writeEntry (q w : Nat) (v : Word) (s : State) : State :=
  if !(decide (q < 1024) && decide (w < 16)) then s
  else if setBusy s q then bump 0 3 1 (raiseBit 0 27 s)
  else if w < 14 then { s with ctab := s.ctab.set (fun _ => 0) (16 * q + w) (v &&& 0xFFFFFFFE) }
  else s

/-! ## Test 3 (R65, R83, R96) -/

/-- The page lacks READY only because of FAULT, and the set changes nothing in it but RUN to 0 (R65). A die fault faults the MC page
of the die too, on which the page's READY rests (R82), so that fault does not count either. -/
def faultedKept (s : State) (t : Tbl Word) (k : Nat) : Bool :=
  let clear := fun (k : Nat) => modPage k (fun h => { h with fault := false })
  (page s k).fault && ready (clear (pkey (keyDie k) 0x101) (clear k s)) k &&
    (List.range 448).all (fun i =>
      let a := ploc k (0x100 + 4 * i)
      decide (getW t a = liveW s a) ||
        (decide (i = 0) && decide (0x200 ≤ keyPage k) && decide (keyPage k < 0x220) && decide (getW t a = liveW s a &&& 0xFFFFFFFE)))

/-- Words of the configuration under check that enable an output (R96). -/
def outputWords (s : State) (t : Tbl Word) : List Nat :=
  let g := getW t
  ((List.range (4 * dies s)).filter (laneTxEn g)).map laneLoc ++ (validFlows t).map (fun f => flowLoc f 0) ++
    ((List.range 4).filter (audOutEn g)).map (fun p => ploc (8 + p) 0x100) ++ refuse (pairEn g) 0x110

/-- Words that use the DRAM of a die, with that die (R83). -/
def dramWords (s : State) (t : Tbl Word) : List (Nat × Nat) :=
  let g := getW t
  (List.range (dies s)).flatMap (fun d => ((slotsOf t d).filter (fun n => (slotCfg g d n).valid)).map (fun n => (slotLoc d n 0, d))) ++
  ((aflPages t).filter (fun f => (aflCfg g f).valid)).map (fun f => (aflLoc f 0x100, f / 64)) ++
  (validLayers t).flatMap (fun i =>
    if (layCfg g i).drawn then (List.range ((layCfg g i).nbuf + 1)).map (fun b => (layLoc i (0x128 + 4 * b), (layBuf g i b).1)) else []) ++
  ((channels s).filter (reseatEn g)).map (fun ch => (reseatLoc ch, spareDie g ch))

/-- Test 3. -/
def chkLife (s : State) (e : List Word) (t : Tbl Word) : List Nat :=
  let m := inEntry e
  ((membersOf false e).filter (fun k => pageOk s k && !ready s k && !faultedKept s t k)).map (fun k => ploc k 8) ++
  (if lcState s.pwr.fuses = 0 ∨ lcState s.pwr.fuses = 3 then (outputWords s t).filter m else []) ++
  ((dramWords s t).filter (fun x => m x.1 && !ready s (pgMc x.2))).map Prod.fst

/-! ## Validity (R55) -/

/-- The lowest commit-table word of set `q` at fault. -/
def badWord (s : State) (q : Nat) (e : List Word) : Option Nat :=
  let w0 := e.headD 0
  let alone := fun tables k => decide ((setsNaming tables s k).filter (fun x => decide (x ≠ q)) = [])
  if !mwValid w0 || mwTables w0 then some (bar2loc (64 * q))
  else
    ((List.range 14).find? (fun i =>
      let w := e.getD i 0
      mwValid w && !(List.range' (mwFirst w) (mwCount w)).all (fun k =>
        (if mwTables w then tablePageOk s k else pageOk s k) && alone (mwTables w) k))).map (fun i => bar2loc (64 * q + 4 * i))

/-! ## The ordered tests (R64) -/

/-- Test 4: every block's ranges. -/
def chkFields (s : State) (t : Tbl Word) (m : Nat → Bool) : List Nat :=
  chkChannels s t ++ chkSlots s t ++ chkDecs s t ++ chkPaddock s t m ++ chkYard s t ++ chkPorts s t m ++ chkAudio s t ++ chkPkg s t m

/-- The first location in the order of R59: of the set's words, or of any where none is the set's. -/
def firstOffender (m : Nat → Bool) (l : List Nat) : Option Nat :=
  match (l.filter m).min? with
  | some a => some a
  | none => l.min?

/-- The configuration under check: the live words with the set's staged words in place. -/
def candidate (s : State) (e : List Word) : Tbl Word := spliceAll (entryRanges e) s.staged s.live

/-- Tests 5 to 14, each with its cause. -/
def laterTests (s : State) (t : Tbl Word) (m : Nat → Bool) : List (Nat × Option Nat) :=
  [(causeInUse, firstOffender m (chkLaneUse s t m)), (causeFlow, (chkFlowConflicts s t).min?), (causeGate, firstOffender m (chkLists s t)),
   (causeAudio, firstOffender m (chkAudioMaps s t)), (causeKey, firstOffender m (chkKeys s t)), (causeLevel, firstOffender m (chkLevels t)),
   (causeLb, firstOffender m (chkLineBuffers t)), (causeEngine, (chkEngines s t m).head?), (causeDram, (chkDram s t m).head?),
   (causeLane, (chkPortSums s t m).head?)]

/-- The first test that fails: its cause and the location named. -/
def runTests (s : State) (q : Nat) : Option (Nat × Nat) :=
  let c := cset s q
  let e := c.entry
  let rk := (reportingPage s q).getD 0
  let m := inEntry e
  let t := candidate s e
  if crc32c (stagedWords s e) ≠ c.crc then some (causeCrc, ploc rk 0x44)
  else if c.gen ≠ (c.live + 1) % 65536 then some (causeSkew, ploc rk 0x48)
  else
    match firstOffender (fun _ => true) (chkLife s e t) with
    | some a => some (causeLife, a)
    | none =>
      match badWord s q e with
      | some a => some (causeField, a)
      | none =>
        match firstOffender m (chkFields s t m) with
        | some a => some (causeField, a)
        | none => (laterTests s t m).findSome? (fun x => x.2.map (fun a => (x.1, a)))

/-! ## Power domains that a configuration needs (R102) -/

/-- Domain `i` of die `d` is needed by a configuration: an engine that a MASK names, the decoder that a valid layer uses, the
paddock of a running canvas. -/
def domainUsed (t : Tbl Word) (d i : Nat) : Bool :=
  let g := getW t
  if i < 4 then (List.range 32).any (fun c => (engMask g (32 * d + c)).testBit i)
  else if i = 4 then (validLayers t).any (fun l => decide ((layCfg g l).kind = 3) && decide ((layCfg g l).source / 64 = d))
  else if i = 5 then (runCanvases t).any (fun ch => decide (ch / 32 = d))
  else false

/-- The domain's hold bit is 1. -/
def domainHeld (s : State) (d i : Nat) : Bool := decide (i < 6) && (s.pwr.domHold.get (fun _ => 0) d).testBit i

/-- On-demand domain `i` of die `d` is needed: by live configuration, by its hold bit (R102), or by a set that has passed every test
and waits for its domains (R103). -/
def domNeeded (s : State) (d i : Nat) : Bool :=
  domainUsed s.live d i || domainHeld s d i ||
    (match s.checking with
     | none => false
     | some q => decide ((cset s q).phase = .domains) && domainUsed (candidate s (cset s q).entry) d i)

/-- A work item that uses the domain is in a task slot (R103). -/
def domBusy (s : State) (d i : Nat) : Bool :=
  (dsp s d).items.any (fun x =>
    if i < 4 then decide (x.kind ≤ kEntropy) && x.mask.testBit i else if i = 4 then decide (x.kind = kDecode) else decide (x.kind = kCompose))

/-- Domains that are not up and that `need` says are needed. -/
def domainsDown (s : State) (need : Nat → Nat → Bool) : List Nat :=
  (List.range (dies s)).flatMap (fun d =>
    ((List.range 6).filter (fun i => need d i && !s.pwr.domUp.contains (16 * d + i))).map (fun i => 16 * d + i))

/-- Domains that a configuration needs and that are not up (R102). DESIGN CHOICE: those of a sleeping die are among them, so that such a
domain rises on the sleeping die and a passing set waits for it. -/
def domainsMissing (s : State) (t : Tbl Word) : List Nat := domainsDown s (domainUsed t)

/-- Domains of `l` power up; those already rising go on. -/
def powerUp (l : List Nat) (s : State) : State := { s with pwr := { s.pwr with domRising := l.foldl NSet.add s.pwr.domRising } }

/-- Every needed domain that is down powers up: those of the live configuration and those that are held. -/
def powerNeeded (s : State) : State := powerUp (domainsDown s (fun d i => domainUsed s.live d i || domainHeld s d i)) s

/-! ## The end of a check -/

/-- HOST_BOOT states (R477). -/
def bootIdle : Nat := 0
def bootWaiting : Nat := 1
def bootCommitting : Nat := 2
def bootDoneSt : Nat := 3
def bootRefused : Nat := 4
def bootAborted : Nat := 5

/-- The check of the stored set that the boot load commits has ended (R479, R480). -/
def bootChecked (q : Nat) (passed : Bool) (s : State) : State :=
  match s.host.bootList with
  | [] => s
  | x :: rest =>
    if x.1 ≠ q ∨ s.host.boot ≠ bootCommitting then s
    else if !passed then raiseBit 1 3 { s with host := { s.host with boot := bootRefused, bootList := [] } }
    else
      let s := { s with host := { s.host with bootDone := s.host.bootDone + 1, bootList := rest } }
      if s.host.abort then { s with host := { s.host with boot := bootAborted, bootList := [] } }
      else
        match rest with
        | y :: _ => { s with host := { s.host with boot := bootWaiting, bootSet := y.1 } }
        | [] =>
          let s := raiseBit 1 2 { s with host := { s.host with boot := bootDoneSt, hold := false } }
          if bitOf (liveW s 0x140) 31 then { s with pwr := { s.pwr with perstMode := true } } else s

/-- When the words of set `q` take effect (R71): the latest of the boundaries that its owners come to next. -/
def effectAt (s : State) (q : Nat) : Nat :=
  ((s.waits.filter (fun x => decide (x.1 = q))).map (fun x => match x.2 with
    | some ch => if running s ch then (chFmt (effW s) ch).bound (chan s ch).next else furrowFrom (s.time.now + 1)
    | none => furrowFrom (s.time.now + 1))).foldl max 0

/-- The check of a set that an IS-05 activation committed has ended (R474): it is answered and counted. -/
def is05Checked (q : Nat) (passed : Bool) (s : State) : State :=
  if s.services.is05Sets.contains q then
    let s := { s with services := { s.services with is05Sets := NSet.del s.services.is05Sets q } }
    if passed then emit (.is05Answer 200 0 0 (effectAt s q)) (bump 1 5 1 s)
    else emit (.is05Answer 500 (cset s q).cause 0 0) (bump 1 6 1 s)
  else s

/-- The check of set `q` ends in a refusal (R63, R69). -/
def failSet (q cause a : Nat) (s : State) : State :=
  let s := modSet q (fun c => { c with st := .failed, phase := .tests, cause := cause, whr := whereWord a }) s
  let s := raiseReport q 30 (bump 0 (16 + cause) 1 (bump 0 2 1 s))
  let s := if cause = causeYoke then raiseBit pgYoke 9 s else s
  is05Checked q false (bootChecked q false { s with checking := if s.checking = some q then none else s.checking })

/-- A channel's words: its CH, DRILL and BARN pages. -/
def channelOfPage (k : Nat) : Option Nat :=
  if 0x200 ≤ keyPage k ∧ keyPage k < 0x260 then some (32 * keyDie k + keyPage k % 32) else none

/-- The canvas that owns a LAYER page: that of its live words, or else of its words in effect. -/
def canvasOfPage (s : State) (k : Nat) : Option Nat :=
  if 0x400 ≤ keyPage k ∧ keyPage k < 0x500 then
    let i := 256 * keyDie k + (keyPage k - 0x400)
    if (layCfg (liveW s) i).valid then some (layerCh (liveW s) i)
    else if (layCfg (effW s) i).valid then some (layerCh (effW s) i)
    else none
  else none

/-- The channel whose boundary a member page's words wait for (R71). -/
def pageOwner (s : State) (k : Nat) : Option Nat := (channelOfPage k).orElse (fun _ => canvasOfPage s k)

/-- Canvases that use the scaler of a coefficient table page (R174). -/
def scalerUsers (s : State) (p : Nat) : List Nat :=
  ((validLayers s.live).filter (fun i => let c := layCfg (liveW s) i
    imageScaled c && decide (4 * (i / 256) + c.scaler = p - 0x430))).map (layerCh (liveW s))

/-- Channels of the services that changed entries of a flow-table page name, before and after (R71, R336). -/
def flowOwners (s : State) (p : Nat) (old : Nat → Word) : List Nat :=
  (List.range' (64 * (p - 0x100)) 64).flatMap (fun f =>
    if flowWords old f = flowWords (liveW s) f then []
    else ([flowCfg old f, flowCfg (liveW s) f].filter (fun c => c.valid && isVideoSvc c.svc)).map (fun c => svcCh c.svc))

/-- Whom the words of an entry wait for: channels, or the package. -/
def ownersOf (s : State) (e : List Word) (old : Nat → Word) : List (Option Nat) :=
  let ps := (membersOf false e).map (pageOwner s)
  let ts := (membersOf true e).flatMap (fun p =>
    let l := if 0x430 ≤ p then scalerUsers s p else if 0x100 ≤ p ∧ p < 0x300 then flowOwners s p old else []
    if l = [] then [none] else l.map some)
  (ps ++ ts).eraseDups

/-- `MC_DEMAND`, `DSP_ADMIT` and `DSP_HEADROOM` follow the live configuration, and so do the conditions that rest on it
(R288, R290, R305, R312). -/
def admitLive (s0 s : State) : State :=
  let et := engineTerms s s.live
  let dt := dramTerms s s.live
  (List.range (dies s)).foldl (fun s d =>
    let s := modMc d (fun x => { x with demand := sumOf (keyMem d) dt }) s
    let room := fun x => 2000000000 * 1001 * ones (BitVec.ofNat 32 x) - sumOf (16 * d + x) et
    let least := (List.range' 1 15).foldl (fun b x => if room x < room b then x else b) 1
    let s := modDsp d (fun x => { x with
      admitDec := cdiv (sumOf (4096 + d) et) 1001000000, admitEng := cdiv (sumOf (16 * d + 15) et) 1001000000
      headSet := least, headMin := room least / 1001000000 }) s
    rateConds d s0 (noteEngineLost d s0 s)) s

/-- The set passes (R63): its staged words are live; `gen` is its generation and `e` the effect instant of R366, 0 for none. -/
def applySet (q gen e : Nat) (s0 : State) : State :=
  let en := (cset s0 q).entry
  let s := { s0 with live := candidate s0 en, checking := none }
  let s := (membersOf false en).foldl (fun s k => modPage k (fun h => { h with dirty := false, base := gen }) s) s
  let s := modSet q (fun c => { c with st := .apply, phase := .tests, live := gen, passed := true, effect := e, cause := 0 }) s
  let s := { s with waits := s.waits ++ (ownersOf s en (liveW s0)).map (fun o => (q, o)) }
  takeWaitsAll (is05Checked q true (bootChecked q true (powerNeeded (admitLive s0 (bump 0 1 1 s)))))

/-- Every test and vote has passed: the set enters APPLY once the domains it needs are up (R102). -/
def passSet (q gen e : Nat) (s : State) : State :=
  let l := domainsMissing s (candidate s (cset s q).entry)
  if l = [] then applySet q gen e s
  else powerUp l (modSet q (fun c => { c with phase := .domains, passGen := gen, effect := e }) s)

/-- A set that waited for domains goes on when the last of them is up. -/
def domainsSettled (s : State) : State :=
  match s.checking with
  | none => s
  | some q =>
    let c := cset s q
    if c.phase = .domains ∧ domainsMissing s (candidate s c.entry) = [] then applySet q c.passGen c.effect s else s

/-- Domain `x` did not come up: a set that needs it is refused at `a`. -/
def domainFailed (x a : Nat) (s : State) : State :=
  match s.checking with
  | none => s
  | some q =>
    let c := cset s q
    if c.phase = .domains ∧ (domainsMissing s (candidate s c.entry)).contains x = true then failSet q causeLife a s else s

/-! ## Test 15 (R364–R367) -/

/-- A page that may be a member of a local set. -/
def localPage (k : Nat) : Bool :=
  let p := keyPage k
  decide (p = 0) || (decide (8 ≤ p) && decide (p ≤ 11)) || decide (p = 0x109) || (decide (0x10C ≤ p) && decide (p ≤ 0x113))

/-- A gate-list table page. -/
def localTable (p : Nat) : Bool := decide (0x410 ≤ p) && decide (p < 0x430)

/-- The entry has only local members; only compared members. -/
def localEntry (e : List Word) : Bool := (membersOf false e).all localPage && (membersOf true e).all localTable
def comparedEntry (e : List Word) : Bool := (membersOf false e).all (fun k => !localPage k) && (membersOf true e).all (fun p => !localTable p)

/-- The checksum of the entry's words 0 to 13. -/
def entryCrc (e : List Word) : Word := crc32c e

/-- The standby's VOTE for a set, with its result: 0, or the cause. -/
def sendVote (q result : Nat) (s : State) : State :=
  let c := cset s q
  sendRel (.vote q c.gen c.crc (entryCrc c.entry) c.live result) s

/-- R365: the active decides on the VOTE it holds for the set, one that came no more than 2 ms before its own check started. -/
def decideVote (q : Nat) (s : State) : State :=
  let c := cset s q
  match s.yoke.votes.find? (fun e => decide (e.2.set = q)) with
  | none => s
  | some (at_, v) =>
    if at_ + 2000000 < c.began then s
    else
      let s := { s with yoke := { s.yoke with votes := s.yoke.votes.filter (fun e => decide (e.2.set ≠ q)) } }
      if v.gen = c.gen ∧ v.crc = c.crc ∧ v.tcrc = entryCrc c.entry ∧ v.result = 0 then
        let e := furrowFrom (s.time.now + 100000)
        passSet q c.gen e (sendRel (.decide q c.gen 0 e) s)
      else failSet q causeYoke (ploc ((reportingPage s q).getD 0) 0x44) (sendRel (.decide q c.gen 1 0) s)

/-- Test 15 of a set that passed the others. -/
def voteOn (q : Nat) (s : State) : State :=
  let c := cset s q
  if !pairedRole s || localEntry c.entry then passSet q c.gen 0 s
  else if !comparedEntry c.entry then failSet q causeYoke (ploc ((reportingPage s q).getD 0) 0x44) s
  else if s.yoke.role = roleActive then decideVote q (modSet q (fun c => { c with phase := .vote }) s)
  else sendVote q 0 (modSet q (fun c => { c with phase := .decision }) s)

/-! ## COMMIT and the check -/

/-- A write of `COMMIT` in page `k` (R56, R62, R63, R94). -/
def commitWrite (k : Nat) (v : Word) (s : State) : State :=
  if !pageExists s k then s
  else
    match aliasSet s k with
    | none => raiseBit k 28 s
    | some q =>
      if setBusy s q then raiseReport q 28 s
      else
        let s := bump 0 0 1 (modSet q (fun c => { c with gen := fld v 15 0, cause := 0, entry := entryOf s q, effect := 0 }) s)
        if s.pwr.armed then failSet q causeLife (ploc ((reportingPage s q).getD 0) 0x48) s
        else modSet q (fun c => { c with st := .queued }) { s with queue := s.queue ++ [q] }

/-- The check of the set that came first starts, when none runs (R62). -/
def checkStart (s : State) : State :=
  match s.checking, s.queue with
  | none, q :: rest => modSet q (fun c => { c with st := .check, phase := .tests, began := s.time.now }) { s with queue := rest, checking := some q }
  | _, _ => s

/-- The ordered tests finish. -/
def checkEnd (s : State) : State :=
  match s.checking with
  | none => s
  | some q =>
    if (cset s q).phase ≠ .tests then s
    else
      match runTests s q with
      | none => voteOn q s
      | some (c, a) =>
        let s := if decide (s.yoke.role = roleStandby) && comparedEntry (cset s q).entry then sendVote q c s else s
        failSet q c a s

/-! ## Taking effect (R71) -/

/-- The ranges of set `q`'s pages that wait for owner `o`. -/
def ownedRanges (s : State) (q : Nat) (o : Option Nat) : List (Nat × Nat) :=
  let e := (cset s q).entry
  ((membersOf false e).filter (fun k => decide (pageOwner s k = o))).map pageRange ++
    (if o = none then ((membersOf true e).filter (fun p => !(decide (0x430 ≤ p) && decide (scalerUsers s p ≠ [])))).map tableRange else [])

/-- The words of set `q` that wait for `o` are in effect; a channel whose CH page the set holds is on its generation. -/
def takeOwner (q : Nat) (o : Option Nat) (s : State) : State :=
  let s := { s with eff := spliceAll (ownedRanges s q o) s.live s.eff, waits := s.waits.filter (fun x => decide (x ≠ (q, o))) }
  match o with
  | none => s
  | some ch =>
    if (membersOf false (cset s q).entry).contains (chPage 0x200 ch) then modChan ch (fun c => { c with gen := (cset s q).live }) s else s

/-- A set in APPLY that nothing waits for is DONE (R63); its tables are in effect whole. -/
def settleSet (q : Nat) (s : State) : State :=
  if (cset s q).st = .apply ∧ s.waits.all (fun x => decide (x.1 ≠ q)) = true then
    let s := { s with eff := spliceAll (entryRanges (cset s q).entry) s.live s.eff }
    raiseReport q 31 (modSet q (fun c => { c with st := .done }) s)
  else s

/-- The waits that `pick` picks, of sets whose effect instant has come, are over. -/
def takeWaits (pick : Option Nat → Bool) (s : State) : State :=
  let l := s.waits.filter (fun x => pick x.2 && decide ((cset s x.1).effect ≤ s.time.now))
  let s := l.foldl (fun s x => takeOwner x.1 x.2 s) s
  ((l.map Prod.fst).eraseDups).foldl (fun s q => settleSet q s) s

/-- At a package furrow boundary: words of no channel, and those of channels that are not running. -/
def takePackage (s : State) : State :=
  takeWaits (fun o => match o with
    | none => true
    | some ch => !running s ch) s

/-- At a picture boundary of a channel. -/
def takeChannel (ch : Nat) (s : State) : State := takeWaits (fun o => decide (o = some ch)) s

end Sys2Proof.Machine
end

