-- ==== Sys2Proof/Machine/Fw.lean ====
section
/-! DEFINITION. Firmware images, boot, settings and keys (R482–R499), as operations. -/

namespace Sys2Proof.Machine

open Sys2Proof

/-- The FW and TACK pages. -/
def pgFw : Nat := 5
def pgTack : Nat := 6

/-! ## Images (R483, R484) -/

/-- Byte `i` of an image region; an erased byte is 0xFF. -/
def imgByte (l : List Byte) (i : Nat) : Byte := l.getD i 0xFF

/-- `n` bytes of an image from byte `i`. -/
def imgBytes (l : List Byte) (i n : Nat) : List Byte := (List.range n).map (fun j => imgByte l (i + j))

/-- A header field of four bytes. -/
def imgWord (l : List Byte) (i : Nat) : Nat := beNat (imgBytes l i 4)

/-- The body of an image. -/
def imgBody (l : List Byte) : List Byte := imgBytes l 512 (imgWord l 20)

/-- How an image verifies: 0, or the code of `FW_BOOT`.STAGED_RESULT for the first condition it fails (R484, R491). -/
def verifyImage (fuses : Nat) (readErr : Bool) (l : List Byte) : Nat :=
  if readErr then 7
  else if imgWord l 0 ≠ 0x43564657 ∨ imgWord l 4 ≠ 1 ∨ 8388096 < imgWord l 20 then 2
  else if sha384 (imgBytes l 64 97) ≠ Config.keyHash then 3
  else if !ecdsaVerify (BitVec.ofNat 768 (beNat (imgBytes l 65 96))) (imgBytes l 0 224) (imgBytes l 224 96) then 4
  else if beNat (imgBytes l 176 48) ≠ (sha384 (imgBody l)).toNat then 5
  else if imgWord l 12 < fuses then 6
  else 0

/-- The image in region `r`. -/
def region (f : Flash) (r : Nat) : List Byte := f.images.get (fun _ => []) r

/-- Region `r` filled. -/
def setRegion (r : Nat) (l : List Byte) (f : Flash) : Flash := { f with images := f.images.set (fun _ => []) r l }

/-! ## Boot (R485) -/

/-- Step 1: STAGED is promoted or marked empty; with the code of `FW_BOOT`.STAGED_RESULT. -/
def bootStaged (fuses : Nat) (err : Nat → Bool) (f : Flash) : Nat × Flash :=
  match f.staged with
  | none => (0, f)
  | some r =>
    if !f.full then (0, f)
    else
      let c := verifyImage fuses (err r) (region f r)
      if c ≠ 0 then (c, { f with full := false })
      else
        (1, { f with active := r, previous := some f.active, staged := f.previous, confirmed := false, allowance := f.tries, full := false })

/-- A fall-back: PREVIOUS is the confirmed ACTIVE, the region left is an empty STAGED, and PREVIOUS is empty. -/
def fallBack (f : Flash) : Flash :=
  match f.previous with
  | none => { f with confirmed := true }
  | some p =>
    let f := match f.staged with
      | none => f
      | some r => setRegion r [] f
    { (setRegion f.active [] f) with active := p, confirmed := true, allowance := 0, staged := some f.active, previous := f.staged, full := false }

/-- What a boot finds. -/
structure BootResult where
  flash : Flash
  stagedRes : Nat
  activeRes : Nat
  activeFail : Nat

/-- Steps 1 to 3. -/
def bootSteps (fuses : Nat) (err : Nat → Bool) (f : Flash) : BootResult :=
  let r1 := bootStaged fuses err f
  let f := r1.2
  let spent := !f.confirmed && decide (f.allowance = 0)
  let f := if spent then fallBack f else if f.confirmed then f else { f with allowance := f.allowance - 1 }
  let c := verifyImage fuses (err f.active) (region f f.active)
  if c = 0 then { flash := f, stagedRes := r1.1, activeRes := if spent then 1 else 0, activeFail := 0 }
  else
    let ok := match f.previous with
      | none => false
      | some p => decide (verifyImage fuses (err p) (region f p) = 0)
    if ok then { flash := fallBack f, stagedRes := r1.1, activeRes := 2, activeFail := c }
    else { flash := f, stagedRes := r1.1, activeRes := 3, activeFail := c }

/-! ## Settings (R488–R490) -/

/-- The checksum of a blob, words 2 and 7 taken as zero. -/
def blobCrc (l : List Word) : Word := crc32c ((l.set 2 0).set 7 0)

/-- Word `i` of a blob. -/
def blobW (l : List Word) (i : Nat) : Word := l.getD i 0

/-- A settings area is valid: MAGIC, LENGTH and CRC are correct. -/
def areaValid (l : List Word) : Bool :=
  decide (blobW l 0 = 0x43565354) && decide ((blobW l 3).toNat = 4 * l.length) && decide ((blobW l 3).toNat ≤ 3145728) &&
    decide (blobW l 7 = blobCrc l)

/-- FORMAT and SEQ of an area. -/
def areaFormat (l : List Word) : Nat := (blobW l 1).toNat
def areaSeq (l : List Word) : Nat := (blobW l 2).toNat

/-- A settings area. -/
def area (f : Flash) (a : Nat) : List Word := f.settings.get (fun _ => []) a

/-- A settings area filled. -/
def setArea (a : Nat) (l : List Word) (f : Flash) : Flash := { f with settings := f.settings.set (fun _ => []) a l }

/-- The highest SEQ of the valid areas. -/
def topSeq (f : Flash) : Nat := [0, 1].foldl (fun m a => if areaValid (area f a) then max m (areaSeq (area f a)) else m) 0

/-- The area in use for a firmware of format `fmt`: the valid one of the highest SEQ with that FORMAT. -/
def areaFor (f : Flash) (fmt : Nat) : Option Nat :=
  let ok := fun a => areaValid (area f a) && decide (areaFormat (area f a) = fmt)
  if ok 0 && ok 1 then some (if areaSeq (area f 0) < areaSeq (area f 1) then 1 else 0)
  else if ok 0 then some 0
  else if ok 1 then some 1
  else none

/-- A converted blob: the header of R488 around the records the firmware makes. -/
def convertBlob (fmt seq : Nat) (l : List Word) : List Word :=
  let recs := Config.convertSettings fmt l
  let b := [0x43565354, BitVec.ofNat 32 fmt, BitVec.ofNat 32 seq, BitVec.ofNat 32 (4 * (8 + recs.length)), blobW l 4, 0, 0, 0] ++ recs
  b.set 7 (blobCrc b)

/-- R490: when the only valid area has another format, the firmware converts it into the other. -/
def convertAreas (f : Flash) (fmt : Nat) : Flash :=
  if (areaFor f fmt).isSome then f
  else
    match [0, 1].filter (fun a => areaValid (area f a)) with
    | [a] => setArea (1 - a) (convertBlob fmt (topSeq f + 1) (area f a)) f
    | _ => f

/-- Two valid areas hold different formats. -/
def twoFormats (f : Flash) : Bool :=
  areaValid (area f 0) && areaValid (area f 1) && decide (areaFormat (area f 0) ≠ areaFormat (area f 1))

/-- The first offending byte offset of set records from word `i`, `n` left; `seen` are the sets of the records before, with their words: no
page belongs to two (R55). -/
def badRecord (s : State) (l : List Word) : Nat → Nat → List (Nat × List Word) → Option Nat
  | 0, i, _ => if i = l.length then none else some (4 * i)
  | n + 1, i, seen =>
    let q := (blobW l i).toNat
    let e := (List.range 14).map (fun j => blobW l (i + 2 + j))
    let k := (blobW l (i + 1)).toNat
    let need := ((entryRanges e).map (fun r => (r.2 - r.1) / 4)).sum
    let badM := (List.range 14).find? (fun j =>
      let w := e.getD j 0
      (decide (j = 0) && (!mwValid w || mwTables w)) ||
        (mwValid w && !(List.range' (mwFirst w) (mwCount w)).all (fun p =>
          (if mwTables w then tablePageOk s p else pageOk s p) && !seen.any (fun x => x.2.any (fun y => mwHas (mwTables w) y p)))))
    if 1024 ≤ q ∨ (seen.map Prod.fst).contains q = true then some (4 * i)
    else if badM.isSome = true then badM.map (fun j => 4 * (i + 2 + j))
    else if k ≠ need then some (4 * (i + 1))
    else if blobW l (i + 16 + k) ≠ crc32c ((l.drop (i + 16)).take k) ∨ l.length < i + 17 + k then some (4 * (i + 16 + k))
    else badRecord s l n (i + 17 + k) ((q, e) :: seen)

/-- The first offending byte offset of a blob of `len` bytes (R489). -/
def badBlob (s : State) (len : Nat) (l : List Word) : Option Nat :=
  if blobW l 0 ≠ 0x43565354 then some 0
  else if areaFormat l ≠ s.fw.fmt then some 4
  else if (blobW l 3).toNat ≠ len ∨ len % 4 ≠ 0 ∨ 3145728 < len then some 12
  else if (blobW l 4).toNat = 0 ∨ 1024 < (blobW l 4).toNat then some 16
  else if blobW l 7 ≠ blobCrc l then some 28
  else badRecord s l (blobW l 4).toNat 8 []

/-- The set records of the area in use, as the boot load takes them (R479, R488): set, commit-table words, staged words, CRC. -/
def recordsOf (l : List Word) : Nat → Nat → List (Nat × List Word × List Word × Word)
  | 0, _ => []
  | n + 1, i =>
    let k := (blobW l (i + 1)).toNat
    ((blobW l i).toNat, (List.range 14).map (fun j => blobW l (i + 2 + j)), (l.drop (i + 16)).take k, blobW l (i + 16 + k)) ::
      recordsOf l n (i + 17 + k)

/-- What a write to flash by the firmware counts: bytes programmed and sectors erased (R492). -/
def countFlash (prog era : Nat) (s : State) : State :=
  bump pgFw 1 (Config.flashSectors era) (bump pgFw 0 (prog + Config.directoryBytes) s)

/-- The firmware starts (R485 step 4, R487, R490, R492). -/
def fwStart (b : BootResult) (s : State) : State :=
  let img := region b.flash b.flash.active
  let bad := [0, 1].any (fun a => decide (area b.flash a ≠ []) && !areaValid (area b.flash a))
  let fmt := imgWord img 16
  let fl := convertAreas b.flash fmt
  let s := { s with
    pwr := { s.pwr with fwReady := true }
    fw := { s.fw with
      flash := fl, version := BitVec.ofNat 32 (imgWord img 8), fmt := fmt, bodyHash := imgBytes img 176 48
      fellBack := decide (b.activeRes = 1 ∨ b.activeRes = 2), stagedRes := b.stagedRes, activeRes := b.activeRes
      activeFail := b.activeFail, area := (areaFor fl fmt).getD 0, present := (areaFor fl fmt).isSome
      rollback := if fl.confirmed then max s.fw.rollback (imgWord img 12) else s.fw.rollback } }
  let s := if fl.settings = b.flash.settings then s else countFlash (4 * (area fl s.fw.area).length) 3145728 s
  let s := if b.stagedRes = 1 then bump pgFw 2 1 s else if b.stagedRes ≠ 0 then raiseBit pgFw 5 (bump pgFw 4 1 s) else s
  let s := if b.activeRes = 1 ∨ b.activeRes = 2 then raiseBit pgFw 4 (bump pgFw 3 1 s) else s
  if bad then raiseBit pgFw 6 s else s

/-- The tack store at boot (R496, R497): the persistent copy is loaded, and an identity key is made where one may be. -/
def tackBoot (s : State) : State :=
  let s := { s with tack := { s.tack with slots := s.tack.saved } }
  let s := if s.tack.kept then s else raiseBit pgTack 3 s
  let lc := lcState s.pwr.fuses
  if s.tack.idPub.isNone ∧ (lc = 1 ∨ lc = 2) then
    draw { s with tack := { s.tack with idPub := some (Config.newIdentity s.fresh), kept := true } }
  else { s with tack := { s.tack with kept := true } }

/-- The boot of R485. `err` says which regions the flash cannot read. -/
def fwBoot (err : Nat → Bool) (s : State) : State :=
  let b := bootSteps s.fw.rollback err s.fw.flash
  let s := tackBoot s
  if b.activeRes = 3 then
    modPage pgFw (fun h => { h with fault := true })
      { s with fw := { s.fw with flash := b.flash, recovery := true, stagedRes := b.stagedRes, activeRes := 3, activeFail := b.activeFail } }
  else fwStart b s

/-! ## Commands of the FW page (R486–R491) -/

/-- The source range of a command: die and bytes. -/
def fwSource (s : State) : Nat × Nat := (fld s.fw.src 31 29, 4096 * fld s.fw.src 21 0)

/-- The source is absent, asleep, beyond usable DRAM or not wiped. -/
def fwSourceBad (s : State) : Bool :=
  let d := (fwSource s).1
  let a := (fwSource s).2
  decide (dies s ≤ d) || s.pwr.asleep.contains d || s.pwr.entering.contains d || s.pwr.waking.contains d ||
    beyondDram (a, a + s.fw.len) || !wiped s d (a + s.fw.len - 1)

/-- A command ends FAILED. -/
def fwFail (cause where_ : Nat) (s : State) : State :=
  raiseBit pgFw 1 { s with fw := { s.fw with op := 0, state := 3, cause := cause, whr := where_ } }

/-- A command ends DONE. -/
def fwDone (s : State) : State := raiseBit pgFw 0 { s with fw := { s.fw with op := 0, state := 2, cause := 0, whr := 0 } }

/-- The STAGED region is erased. -/
def eraseStaged (f : Flash) : Flash :=
  match f.staged with
  | none => { f with full := false }
  | some r => { (setRegion r [] f) with full := false }

/-- Settings are kept in two formats for an unconfirmed image (R490). -/
def settingsKept (s : State) : Bool := !s.fw.flash.confirmed && twoFormats s.fw.flash

/-- A write of `FW_CMD` (R486, R489–R491). The recovery ROM serves WRITE_STAGED only. -/
def fwCommand (v : Word) (s : State) : State :=
  let op := fld v 3 0
  let target := if op = 1 then 8388608 else 3145728
  if fld v 31 16 ≠ 0x5F3A ∨ op = 0 ∨ 4 < op ∨ !(ready s pgFw || (s.fw.recovery && decide (op = 1))) then s
  else if s.fw.op ≠ 0 then raiseBit pgFw 2 s
  else if op ≤ 2 ∧ (s.fw.len = 0 ∨ target < s.fw.len) then fwFail 1 0 s
  else if op ≤ 2 ∧ fwSourceBad s = true then fwFail 2 0 s
  else if (op = 2 ∨ op = 4) ∧ settingsKept s = true then fwFail 4 0 s
  else
    let fl := if op = 1 ∨ op = 3 then eraseStaged s.fw.flash else s.fw.flash
    { s with fw := { s.fw with flash := fl, op := op, opTries := max 1 (fld v 15 12), state := 1, cause := 0, whr := 0 } }

/-- A confirmation (R487), with the directory's update (R492). -/
def fwConfirmNow (s : State) : State :=
  if s.fw.flash.confirmed then raiseBit pgFw 3 s
  else
    bump pgFw 0 Config.directoryBytes { s with fw := { s.fw with
      flash := { s.fw.flash with confirmed := true, allowance := 0 }
      rollback := max s.fw.rollback (imgWord (region s.fw.flash s.fw.flash.active) 12) } }

/-- A write of `FW_CONFIRM`: one written while a command is BUSY waits for its end. -/
def fwConfirm (v : Word) (s : State) : State :=
  if v ≠ 0xC0F10000 ∨ !ready s pgFw then s
  else if s.fw.op ≠ 0 then { s with fw := { s.fw with confirmWait := true } }
  else fwConfirmNow s

/-- Bytes of a die's DRAM as words, least significant byte first. -/
def dramWordsAt (s : State) (d a n : Nat) : List Word :=
  (List.range n).map (fun i => BitVec.ofNat 32 ((List.range 4).foldr (fun j x => (dramGet s d (a + 4 * i + j)).toNat + 256 * x) 0))

/-- The command under way does its work (R486, R489). -/
def fwWork (flashErr : Bool) (s : State) : State :=
  let src := fwSource s
  let n := s.fw.len
  let fl := s.fw.flash
  match s.fw.op with
  | 1 =>
    let s := countFlash n 8388608 s
    if flashErr then fwFail 5 0 s
    else
      match fl.staged with
      | none => fwDone s
      | some r =>
        let img := (List.range n).map (fun i => dramGet s src.1 (src.2 + i))
        fwDone { s with fw := { s.fw with flash := { (setRegion r img fl) with full := true, tries := s.fw.opTries } } }
  | 2 =>
    let l := dramWordsAt s src.1 src.2 (n / 4)
    match badBlob s n l with
    | some a => fwFail 3 a s
    | none =>
      let s := countFlash n 3145728 s
      let a := if s.fw.present then 1 - s.fw.area else 0
      if flashErr then fwFail 5 0 { s with fw := { s.fw with flash := setArea a [] fl } }
      else
        let b := l.set 2 (BitVec.ofNat 32 (topSeq fl + 1))
        fwDone { s with fw := { s.fw with flash := setArea a b fl, area := a, present := true } }
  | 3 =>
    let s := countFlash 0 8388608 s
    if flashErr then fwFail 5 0 s else fwDone s
  | _ =>
    let s := countFlash 0 6291456 { s with fw := { s.fw with flash := { fl with settings := [] }, present := false, area := 0 } }
    if flashErr then fwFail 5 0 s else fwDone s

/-- The command ends, and a confirmation that waited for it is acted on. -/
def fwEnd (flashErr : Bool) (s : State) : State :=
  if s.fw.op = 0 then s
  else
    let s := fwWork flashErr s
    if s.fw.confirmWait then fwConfirmNow { s with fw := { s.fw with confirmWait := false } } else s

/-! ## The tack store (R493–R499) -/

/-- The live configuration names the slot in a valid service with SRTP on, or as a port's command key (R495). -/
def slotInUse (s : State) (n : Nat) : Bool :=
  let g := liveW s
  (List.range (dies s)).any (fun d => (svcsOf s.live d).any (fun v => let c := svcCfg g v; c.valid && decide (c.srtp ≠ 0) && decide (c.key = n))) ||
    (aflPages s.live).any (fun f => (List.range 4).any (fun j =>
      let c := asvcCfg g (asvcOf f j)
      c.valid && decide (c.srtp ≠ 0) && decide (c.key = n))) ||
    (List.range (4 * dies s)).any (fun l => cmdEn g l && decide (cmdKey g l = n))

/-- `TACK_KEY` and `TACK_SALT` are zeroised. -/
def clearBufs (s : State) : State := { s with tack := { s.tack with keyBuf := 0, saltBuf := 0 } }

/-- A refused tack command (R495). -/
def tackRefuse (cause slot : Nat) (s : State) : State :=
  raiseBit pgTack 1 (bump pgTack 3 1 (clearBufs { s with tack := { s.tack with state := 3, cause := cause, slot := slot } }))

/-- A write of `TACK_CMD` (R495, R498). -/
def tackCommand (v : Word) (s : State) : State :=
  let op := fld v 31 28
  let n := fld v 11 0
  let lc := lcState s.pwr.fuses
  if op = 0 ∨ 3 < op ∨ !ready s pgTack then s
  else if s.tack.busy ≠ 0 then raiseBit pgTack 2 s
  else if op = 1 ∧ (lc = 0 ∨ lc = 3) then tackRefuse 1 n s
  else if op ≤ 2 ∧ slotInUse s n = true then tackRefuse 2 n s
  else if op = 3 ∧ s.tack.idPub.isNone = true then tackRefuse 3 n s
  else { s with tack := { s.tack with busy := op, busySlot := n, busyLen := bitOf v 24, state := 1, cause := 0, slot := n } }

/-- The report of R498; its bit 120 is the first bit of byte 15 (R7). -/
def tackReport (s : State) : List Byte :=
  let f := (if s.fw.flash.confirmed then 128 else 0) + (if s.fw.fellBack then 64 else 0)
  [0x43, 0x56, 0x41, 0x54, 0x01] ++ beBytes 1 (lcState s.pwr.fuses) ++ beBytes 1 s.pwr.fuses ++ beBytes 1 s.fw.rollback ++
    beBytes 4 s.fw.version.toNat ++ beBytes 2 (partId (effW s)) ++ beBytes 1 (dies s) ++ beBytes 1 f ++ imgBytes s.fw.bodyHash 0 48 ++
    leBytes 32 s.tack.nonce.toNat ++ beBytes 6 (s.time.now / 1000000000) ++ beBytes 4 (s.time.now % 1000000000) ++
    beBytes 1 s.time.quality ++ beBytes 21 0

/-- The command under way does its work. -/
def tackWork (s : State) : State :=
  let n := s.tack.busySlot
  match s.tack.busy with
  | 1 => bump pgTack 0 1 (setKeySlot n { full := true, len256 := s.tack.busyLen, key := if s.tack.busyLen then s.tack.keyBuf else BitVec.ofNat 256 (s.tack.keyBuf.toNat % 2 ^ 128), salt := s.tack.saltBuf } s)
  | 2 => bump pgTack 1 1 (setKeySlot n {} s)
  | _ =>
    match s.tack.idPub with
    | none => s
    | some pub =>
      let r := tackReport s
      bump pgTack 2 1 { s with tack := { s.tack with report := r, sig := Config.ecdsaSign pub r } }

/-- The command ends DONE (R495). -/
def tackEnd (s : State) : State :=
  if s.tack.busy = 0 then s
  else
    let s := tackWork s
    raiseBit pgTack 0 (clearBufs { s with tack := { s.tack with busy := 0, state := 2, cause := 0 } })

end Sys2Proof.Machine
end

