-- ==== Sys2Proof/Machine/Time.lean ====
section
/-! DEFINITION. The TIME block: references, quality, holdover and steps (R120–R129), as operations. -/

namespace Sys2Proof.Machine

open Sys2Proof

/-- The TIME page. -/
def pgTime : Nat := 3

/-- The offset of media time from the master that the timestamps of a port give, in half ns: (t2 − t1) − (t4 − t3) (R471). -/
def ptpOffset2 (p : PtpPort) : Option Int :=
  match p.t1, p.t2, p.t3, p.t4 with
  | some a, some b, some c, some d => some ((b - a) - (d - c))
  | _, _, _, _ => none

/-- `TIME_ERR` where no estimate exists. -/
def errMax : Nat := 0xFFFFFFFF

/-- A quality that is locked, and one that is holdover (R124). -/
def qLocked (q : Nat) : Bool := decide (q ≤ 1)
def qHold (q : Nat) : Bool := decide (q = 2) || decide (q = 3)

/-- `QUALITY` becomes `q` (R124, R125): the conditions LOCKED, HOLDOVER and HOLD_EXPIRED that begin with it are events, and an
entry into holdover counts. A worse quality may make the part yield (R379). -/
def setQuality (q : Nat) (s : State) : State :=
  let o := s.time.quality
  if o = q then s
  else
    let s := { s with time := { s.time with quality := q, qualLog := (s.time.now, o) :: s.time.qualLog } }
    let s := if !qLocked o && qLocked q then raiseBit pgTime 0 s else s
    let s := if !qHold o && qHold q then bump pgTime 4 1 (raiseBit pgTime 4 s) else s
    let s := if o ≠ 3 ∧ q = 3 then raiseBit pgTime 5 s else s
    yieldOnConditions s

/-- The estimate of R124 in holdover: E₀ + HOLD_RATE × age, in whole ns. -/
def holdErr (s : State) : Nat := min errMax (s.time.e0 + holdRate (effW s) * s.time.age / 1000)

/-- HOLDOVER or EXPIRED by the estimate. -/
def holdQuality (s : State) : Nat := if holdLimit (effW s) < holdErr s then 3 else 2

/-- Holdover is entered at once, without a phase step (R123); under FREERUN nothing changes (R124). -/
def enterHold (s : State) : State :=
  if qHold s.time.quality || !s.time.everPtp then s
  else
    let s := { s with time := { s.time with e0 := s.time.err, age := 0 } }
    let s := { s with time := { s.time with err := holdErr s } }
    setQuality (holdQuality s) s

/-- 1 ms of holdover (R124). -/
def holdTick (s : State) : State :=
  if qHold s.time.quality then
    let s := { s with time := { s.time with age := s.time.age + 1 } }
    let s := { s with time := { s.time with err := holdErr s } }
    setQuality (holdQuality s) s
  else s

/-- What the block steers to, as `TIME_STATE.SOURCE` codes it (R120, R122): 0 PTP, 1 REF10M_IN with PPS_IN, 2 the crystal. -/
def steersTo (s : State) : Nat :=
  if ptpEn (effW s) && s.time.eligPtp then 0 else if refEn (effW s) && s.time.eligRef then 1 else 2

/-- The block steers to PTP with an offset within ±100 ns, bound `b` (R124). -/
def lockPtp (b : Nat) (s : State) : State :=
  setQuality 0 { s with time := { s.time with everPtp := true, err := min errMax b, bound := none } }

/-- The block steers to REF10M_IN with PPS_IN with a residual within ±100 ns: QUALITY changes only once PTP has locked. -/
def lockRef (s : State) : State :=
  if s.time.everPtp then setQuality 1 { s with time := { s.time with err := 100 } } else s

/-- The offset of the reference steered to from media time. -/
def steerOffset (s : State) : Int := if steersTo s = 0 then s.time.offPtp else s.time.offRef

/-- A step is asked for where STEP_ALLOW is 1 and the eligible reference steered to is more than 1 ms from media time (R128). -/
def askStep (s : State) : State :=
  let off := steerOffset s
  if steersTo s ≠ 2 ∧ s.time.step = none ∧ 1000000 < off.natAbs ∧ stepAllow (effW s) = true then
    { s with time := { s.time with step := some off } }
  else s

/-- The block turns to the reference it now prefers (R120, R124, R128): with none it holds over; an offset beyond 1 ms is stepped
to where STEP_ALLOW permits; otherwise it converges in holdover until the reference locks. -/
def retarget (s : State) : State :=
  let n := steersTo s
  if n = s.time.source then askStep s
  else
    let s := { s with time := { s.time with source := n, step := none, bound := none } }
    let s := enterHold s
    if n = 1 ∧ (steerOffset s).natAbs ≤ 100 then lockRef s else askStep s

/-- A reference is refused (R123). -/
def refuseRef (src : RefSource) (s : State) : State :=
  let s := bump pgTime 3 1 (raiseBit pgTime 3 s)
  match src with
  | .ptp => retarget { s with time := { s.time with eligPtp := false } }
  | .ref10m => retarget { s with time := { s.time with eligRef := false } }
  | .crystal => s

/-- The reference is enabled; a disabled one is not monitored (R120). -/
def refEnabled (s : State) (src : RefSource) : Bool :=
  match src with
  | .ptp => ptpEn (effW s)
  | .ref10m => refEn (effW s)
  | .crystal => false

/-- The offset of REF10M_IN with PPS_IN from media time after `PPS_DELAY` is subtracted from the instant of the PPS_IN edge (R121):
an edge that is taken as earlier puts its second that much later in media time. -/
def ppsOffset (s : State) (raw : Int) : Int := raw + ppsDelay (effW s)

/-- A reference becomes eligible (R120, R123); `raw` is its offset from media time as its edges arrive at the pins. -/
def eligible (src : RefSource) (raw : Int) (s : State) : State :=
  let off := if src = .ref10m then ppsOffset s raw else raw
  if !refEnabled s src then s
  else if 1000000 < off.natAbs ∧ stepAllow (effW s) = false ∧ s.time.quality ≠ 4 then refuseRef src s
  else
    match src with
    | .ptp => retarget { s with time := { s.time with eligPtp := true, offPtp := off } }
    | .ref10m => retarget { s with time := { s.time with eligRef := true, offRef := off } }
    | .crystal => s

/-- A reference stops (R123). -/
def stopRef (src : RefSource) (s : State) : State :=
  if !refEnabled s src then s
  else
    let s := bump pgTime 2 1 (raiseBit pgTime 1 s)
    match src with
    | .ptp => retarget { s with time := { s.time with eligPtp := false } }
    | .ref10m => retarget { s with time := { s.time with eligRef := false } }
    | .crystal => s

/-- The servo's offset and bound (R124, R128): the first lock asks for a step from FREERUN, a later one locks within ±100 ns. -/
def ptpLockOp (off : Int) (b : Nat) (s : State) : State :=
  if steersTo s ≠ 0 then s
  else
    let s := { s with time := { s.time with offPtp := off } }
    if !s.time.everPtp then { s with time := { s.time with step := some off, bound := some b } }
    else if off.natAbs ≤ 100 then lockPtp b s
    else if 1000000 < off.natAbs ∧ stepAllow (effW s) = true then
      enterHold { s with time := { s.time with step := some off, bound := some b } }
    else enterHold s

/-- An accepted edge (R123, R124): the residual of second phase, less PPS_DELAY (R121), decides between REF_LOCKED and HOLDOVER; one
beyond 1 ms asks for a step where STEP_ALLOW permits (R128). -/
def edgeOp (pps : Bool) (raw : Int) (s : State) : State :=
  if !refEn (effW s) || !pps then s
  else
    let res := ppsOffset s raw
    let s := { s with time := { s.time with offRef := res } }
    if steersTo s ≠ 1 ∨ s.time.step ≠ none then s
    else if res.natAbs ≤ 100 then lockRef s
    else askStep (enterHold s)

/-- A rejected edge (R123). -/
def glitchOp (pps : Bool) (s : State) : State :=
  if refEn (effW s) then bump pgTime (if pps then 1 else 0) 1 (raiseBit pgTime 2 s) else s

/-- The crystal stops (R123): the TIME page is in FAULT, an uncorrectable fault of the part (R379). -/
def crystalFail (s : State) : State :=
  yieldFor 2 (setFault pgTime { s with time := { s.time with crystalOk := false } })

/-- The enables at a package furrow boundary (R120): a cleared one ends eligibility there. -/
def refsTakeEffect (s : State) : State :=
  retarget { s with time := { s.time with
    eligPtp := s.time.eligPtp && ptpEn (effW s), eligRef := s.time.eligRef && refEn (effW s) } }

/-! ## A step (R128, R129) -/

/-- `t` moved by the step. -/
def moved (d : Int) (t : Nat) : Nat := ((t : Int) + d).toNat

/-- The first picture boundary of the new timeline at least one picture period after the end of picture `n`, which `shift` moved:
m ≥ n + 2 + shift / P. -/
def realignTo (f : Fmt) (n : Nat) (shift : Int) : Nat :=
  (-(-((n + 2 : Nat) * (f.den * 1000000000 : Nat) + shift * f.num : Int) / (f.den * 1000000000 : Nat))).toNat

/-- A picture in progress moved by a step of `d`: its remaining furrows keep their spacing (R129). -/
def stepPic (d : Int) (p : Pic) : Pic :=
  { p with shift := p.shift + d, furs := p.furs.map (fun e => (e.1, if e.2.composing then { e.2 with composeAt := moved d e.2.composeAt } else e.2)) }

/-- A channel at a step of `d`, `t` being the instant of the step in the new time: the pictures in progress move with it, and the next
one begins at the first boundary one picture period after the end of the last begun, or, where none is in progress, at the
first boundary. Boundaries of an earlier re-alignment that have been passed over stay counted. -/
def stepChan (d : Int) (t ch : Nat) (s : State) : State :=
  let c := chan s ch
  if c.st = .armed then modChan ch (fun c => { c with armedAt := t, notBefore := moved d c.notBefore }) s
  else if !running s ch then modChan ch (fun c => { c with notBefore := moved d c.notBefore }) s
  else
    let s := modChan ch (fun c => { c with pics := c.pics.map (stepPic d), notBefore := moved d c.notBefore }) s
    let old := c.passed + (if c.realign then min c.next ((chFmt (effW s) ch).firstAfter (moved (-d) t)) - c.passFrom else 0)
    let f := match (chan s ch).pics.getLast? with
      | none => chFmt (effW s) ch
      | some p => picFmt ch p
    let m := match (chan s ch).pics.getLast? with
      | none => f.firstAfter t
      | some p => realignTo f p.n p.shift
    modChan ch (fun c => { c with realign := true, next := m, passed := old, passFrom := f.firstAfter t }) s

/-- Instants that blocks hold are carried over to the new time, so that what waits for them waits as long (R129). -/
def stepQueues (d : Int) (s : State) : State :=
  let fr := fun (q : QFrame) => { q with release := moved d q.release }
  { s with
    sets := s.sets.map (fun e => (e.1, { e.2 with began := moved d e.2.began }))
    pwr := { s.pwr with originAt := moved d s.pwr.originAt }
    yoke := { s.yoke with lastBeat := moved d s.yoke.lastBeat, votes := s.yoke.votes.map (fun e => (moved d e.1, e.2)) }
    time := { s.time with
      qualLog := s.time.qualLog.map (fun x => (moved d x.1, x.2))
      ptp := s.time.ptp.map (fun e => (e.1, { e.2 with t2 := e.2.t2.map (· + d), t3 := e.2.t3.map (· + d) })) }
    ports := s.ports.map (fun e => (e.1, { e.2 with
      quenchAt := moved d e.2.quenchAt, busyTo := moved d e.2.busyTo, lastFill := moved d e.2.lastFill, waitFrom := e.2.waitFrom.map (moved d)
      ptpQ := e.2.ptpQ.map fr, mgmtQ := e.2.mgmtQ.map fr, media := e.2.media.map fr, anc := e.2.anc.map (fun l => l.map fr)
      shapeWait := e.2.shapeWait.map fr, cmdBuf := e.2.cmdBuf.map (fun a => (moved d a.1, a.2)) }))
    svcs := s.svcs.map (fun e => (e.1, { e.2 with queue := e.2.queue.map (fun p => { p with release := moved d p.release }) }))
    flows := s.flows.map (fun e => (e.1, { e.2 with
      stopAt := moved d e.2.stopAt, resumeAt := moved d e.2.resumeAt, lastA := moved d e.2.lastA, lastB := moved d e.2.lastB, waitFrom := e.2.waitFrom.map (moved d) }))
    entries := s.entries.map (fun e => (e.1, { e.2 with
      last := moved d e.2.last, since := moved d e.2.since, passAt := e.2.passAt.map (moved d) }))
    merges := s.merges.map (fun e => (e.1, { e.2 with taken := e.2.taken.map (fun x => (x.1, moved d x.2)) }))
    dsps := s.dsps.map (fun e => (e.1, { e.2 with
      items := e.2.items.map (fun i => { i with
        ready := i.ready.map (moved d), startAt := moved d i.startAt, deadline := moved d i.deadline })
      readyAt := e.2.readyAt.map (fun a => (a.1, moved d a.2)), freeAt := e.2.freeAt.map (fun a => (a.1, moved d a.2))
      busyFrom := e.2.busyFrom.map (fun a => (a.1, a.2.map (moved d))), winStart := moved d e.2.winStart })) }

/-- A pending step is applied at a package furrow boundary (R128): STEPPED, counter 5, and the lock that asked for it. -/
def applyStep (s : State) : State :=
  match s.time.step with
  | none => s
  | some d =>
    let b := s.time.bound
    let t := moved d s.time.now
    let s := { s with time := { s.time with
      now := t, step := none, bound := none, offPtp := s.time.offPtp - d, offRef := s.time.offRef - d } }
    let s := stepQueues d (bump pgTime 5 1 (raiseBit pgTime 6 s))
    let s := (s.chans.map Prod.fst).foldl (fun s ch => stepChan d t ch s) s
    match b with
    | some e => lockPtp e s
    | none => if steersTo s = 1 ∧ (steerOffset s).natAbs ≤ 100 then lockRef s else s

end Sys2Proof.Machine
end

