-- ==== Sys2Proof/Machine/Sdp.lean ====
section
/-! DEFINITION. Session descriptions as text (R329) and the messages that announce them. PRESUMED: the grammar of RFC 8866, RFC 7104, RFC 7273,
RFC 8285 and RFC 2974, and the codes of profiles and levels, which are the standards'. -/

namespace Sys2Proof.Machine

open Sys2Proof

/-- Text as bytes. -/
def asc (t : String) : List Byte := t.toList.map (fun c => BitVec.ofNat 8 c.toNat)

/-- The decimal digits of a number, the last one first. -/
def digits : Nat → Nat → List Byte
  | 0, _ => []
  | fuel + 1, n => BitVec.ofNat 8 (48 + n % 10) :: (if n < 10 then [] else digits fuel (n / 10))

/-- A number in decimal. -/
def num (n : Nat) : List Byte := (digits 24 n).reverse

/-- A line. -/
def line (l : List (List Byte)) : List Byte := l.flatten ++ asc "\r\n"

/-- An IPv4 address. -/
def ipText (w : Word) : List Byte :=
  num (fld w 31 24) ++ asc "." ++ num (fld w 23 16) ++ asc "." ++ num (fld w 15 8) ++ asc "." ++ num (fld w 7 0)

/-- A hexadecimal digit, and a clock identity as eight pairs of them. -/
def hexDigit (n : Nat) : Byte := BitVec.ofNat 8 (if n < 10 then 48 + n else 55 + n)
def clockText (id : Nat) : List Byte :=
  (((List.range 8).map (fun i =>
    let b := id / 256 ^ (7 - i) % 256
    (if i = 0 then [] else asc "-") ++ [hexDigit (b / 16), hexDigit (b % 16)])).flatten)

/-- general_profile_idc, and general_level_idc of a level × 10. -/
def profileId (vvc : Bool) (p : Nat) : Nat := if vvc then (if p = 0 then 1 else 33) else (if p = 2 then 4 else p + 1)
def levelId (vvc : Bool) (l : Nat) : Nat := if vvc then 16 * (l / 10) + 3 * (l % 10) else 3 * l

/-- What the media descriptions of a flow share: format name and clock, payload type, profile, extensions, FEC streams. -/
structure Media where
  kind  : List Byte
  srtp  : Bool
  pt    : Nat
  rtpmap : List Byte
  fmtp  : List Byte
  ext   : Option (Nat × Nat)
  fec   : Nat           -- FEC streams beside it
  deriving DecidableEq, Repr

/-- The media of a service (R318–R321, R329). DEDUCED: an audio flow's media line is of kind audio, with its own payload type, format and
channels. -/
def mediaOf (g : Nat → Word) (v : Nat) : Media :=
  if isVideoSvc v then
    let x := svcCfg g v
    let vvc := isVvc g (svcCh v)
    let c := g (chLoc (svcCh v) 0x140)
    { kind := asc "video", srtp := decide (x.srtp ≠ 0), pt := if x.form = 0 then x.pt else 33
      rtpmap := if x.form ≠ 0 then asc "MP2T/90000" else if vvc then asc "H266/90000" else asc "H265/90000"
      fmtp := if x.form ≠ 0 then [] else
        asc "profile-id=" ++ num (profileId vvc (fld c 3 2)) ++ asc ";tier-flag=" ++ num (if bitOf c 8 then 1 else 0) ++ asc ";level-id=" ++
          num (levelId vvc (fld c 23 16))
      ext := if x.ext then some (x.idA, x.idB) else none, fec := x.fec }
  else
    let x := asvcCfg g v
    { kind := asc "audio", srtp := decide (x.srtp ≠ 0), pt := x.pt
      rtpmap := asc (if (aflCfg g (asvcFlow v)).width = 2 then "L16/48000/" else "L24/48000/") ++ num x.count
      fmtp := [], ext := none, fec := 0 }

/-- One media description: on one path of a flow to a destination and port. -/
def mediaText (m : Media) (mid dport ssrc cname dom gm : Nat) (dst : Word) (ttl : Nat) (dual : Bool) : List Byte :=
  line [asc "m=", m.kind, asc " ", num dport, asc (if m.srtp then " RTP/SAVP " else " RTP/AVP "), num m.pt] ++
    line ([asc "c=IN IP4 ", ipText dst] ++ (if multicast dst then [asc "/", num ttl] else [])) ++
    line [asc "a=rtpmap:", num m.pt, asc " ", m.rtpmap] ++
    (if m.fmtp = [] then [] else line [asc "a=fmtp:", num m.pt, asc " ", m.fmtp]) ++
    line [asc "a=ts-refclk:ptp=IEEE1588-2008:", clockText gm, asc ":", num dom] ++ line [asc "a=mediaclk:direct=0"] ++
    (match m.ext with
      | none => []
      | some (a, b) => line [asc "a=extmap:", num a, asc " urn:caerong:rtp-hdrext:freshness-1a"] ++
          line [asc "a=extmap:", num b, asc " urn:caerong:rtp-hdrext:freshness-1b"]) ++
    line [asc "a=ssrc:", num ssrc, asc " cname:", num cname] ++ (if dual then line [asc "a=mid:", num mid] else [])

/-- The media description of a FEC stream: column FEC at the destination port + 2, row FEC at + 4 (R321). PRESUMED: RFC 6015. -/
def fecText (dport kind : Nat) (dst : Word) (ttl : Nat) (srtp : Bool) : List Byte :=
  line [asc "m=video ", num (dport + 2 * kind), asc (if srtp then " RTP/SAVP 96" else " RTP/AVP 96")] ++
    line ([asc "c=IN IP4 ", ipText dst] ++ (if multicast dst then [asc "/", num ttl] else [])) ++
    line [asc "a=rtpmap:96 1d-interleaved-parityfec/90000"]

/-- The description of flow `f` at session version `ver` (R329). DESIGN CHOICE: the session name is a hyphen, the canonical name of the source is
the stream identifier. -/
def sdpText (s : State) (f ver : Nat) : List Byte :=
  let g := effW s
  let c := flowCfg g f
  let v := c.svc
  let m := mediaOf g v
  let sid := streamId (partId g) v
  let dual := svcDual g v
  let path := fun (mid : Nat) (dst : Word) =>
    mediaText m mid c.dport (ssrcOf (partId g) f) sid (ptpDomain g) s.time.grandmaster dst c.ttl dual ++
      (List.range m.fec).flatMap (fun i => fecText c.dport (i + 1) dst c.ttl m.srtp)
  line [asc "v=0"] ++ line [asc "o=- ", num sid, asc " ", num ver, asc " IN IP4 ", ipText (gateAddr g c.portA)] ++ line [asc "s=-"] ++
    line [asc "t=0 0"] ++ (if dual then line [asc "a=group:DUP 1 2"] else []) ++ path 1 c.dstA ++ (if dual then path 2 c.dstB else [])

/-- A SAP message (RFC 2974) for a description from `src`: an announcement, or a deletion. -/
def sapBytes (ssrc : Nat) (src : Word) (deletion : Bool) (text : List Byte) : List Byte :=
  [if deletion then 0x24 else 0x20, 0] ++ beBytes 2 (ssrc % 65536) ++ beBytes 4 src.toNat ++ asc "application/sdp" ++ [0] ++ text

end Sys2Proof.Machine
end

