-- ==== Sys2Proof/Machine/Services.lean ====
section
/-! DEFINITION. What the control-core firmware does for the part's streams and its host: session descriptions and their
announcements (R329, R476), the registry and the Connection API (R472–R475), Delay_Req (R471), and the load of a stored
configuration (R479–R481). -/

namespace Sys2Proof.Machine

open Sys2Proof

/-- The HOST page. -/
def pgHost : Nat := 1

/-- The part announces and registers: roles OFF, SOLE and ACTIVE (R363, R472). -/
def announces (s : State) : Bool :=
  decide (s.yoke.role = roleOff) || decide (s.yoke.role = roleSole) || decide (s.yoke.role = roleActive)

/-! ## Session descriptions (R329) -/

/-- The session version: `LIVE_GEN` of the set of the service's channel, or of its audio flow's page. -/
def sdpVersion (s : State) (f : Nat) : Nat :=
  let v := (flowCfg (effW s) f).svc
  match aliasSet s (if isVideoSvc v then chPage 0x200 (svcCh v) else aflLoc (asvcFlow v) 0 / 4096) with
  | some q => (cset s q).live
  | none => 0

/-- The part announces flow descriptions of a die: `YARD_SAP_CFG.EN`. -/
def sapEn (s : State) (d : Nat) : Bool := bitOf (effW s (ploc (pgYard d) 0x300)) 31

/-- One announcement or deletion of a flow's description: only for a multicast destination, from a part that announces. It goes out on path A's
port, in the ancillary class's queue for SAP (R332, R343), to ADDR, port 9875. PRESUMED: the TTL and the source port of RFC 2974. -/
def sapSend (f : Nat) (x : SdpDesc) (deletion : Bool) (s : State) : State :=
  let d := f / 4096
  if announces s && sapEn s d && x.group then
    let msg := sapBytes x.ssrc x.src deletion x.text
    let s := emitOn x.port (.sap f deletion) (bump (pgYard d) (if deletion then 7 else 6) 1 s)
    ancFrame x.port 2 { mac := gateMac (effW s) x.port, src := x.src, dst := effW s (ploc (pgYard d) 0x304), sport := 9875, dport := 9875, dscp := 0, ttl := 255, tag := none
                        payload := msg } s
  else s

/-- The description of flow `f` at session version `ver`. -/
def sdpOf (s : State) (f ver : Nat) : SdpDesc :=
  let g := effW s
  let c := flowCfg g f
  { version := ver, text := sdpText s f ver, port := c.portA, src := gateAddr g c.portA, group := multicast c.dstA, ssrc := ssrcOf (partId g) f }

/-- The description of flow `f` at a package furrow boundary: made, changed or gone; every one of these is a change (R330). -/
def sdpStep (s : State) (f : Nat) : State :=
  let old := s.services.sdp.get (fun _ => {}) f
  let put := fun (x : SdpDesc) (s : State) => raiseBit (pgYard (f / 4096)) 2
    { s with services := { s.services with sdp := s.services.sdp.set (fun _ => {}) f x } }
  if (flowCfg (effW s) f).valid then
    if old = sdpOf s f old.version then s
    else
      let x := sdpOf s f (sdpVersion s f)
      sapSend f x false (put x s)
  else if old.text = [] then s
  else sapSend f old true (put {} s)

/-- Every description: of flows that are live and of flows that were. -/
def sdpTakeEffect (s : State) : State :=
  ((flowsOf s.eff ++ s.services.sdp.map Prod.fst).eraseDups).foldl sdpStep s

/-- SAP_ANNOUNCE: every description. -/
def sapAnnounceOp (s : State) : State := s.services.sdp.foldl (fun s e => sapSend e.1 e.2 false s) s

/-- `HOST_SDP_INFO` (R476): VALID, LENGTH and VERSION of the selected flow; a flow of another die than the lead die has none. -/
def sdpInfo (s : State) : Word :=
  let f := fld s.host.sdpSel 14 0
  let x := s.services.sdp.get (fun _ => {}) f
  if x.text ≠ [] ∧ f < 4096 then BitVec.ofNat 32 (2 ^ 31 + min 4095 x.text.length * 2 ^ 16 + x.version % 2 ^ 16) else 0

/-- A word of `HOST_SDP_DATA` at byte `i` of the window; bytes past the length are zero. -/
def sdpData (s : State) (i : Nat) : Word :=
  let f := fld s.host.sdpSel 14 0
  let x := s.services.sdp.get (fun _ => {}) f
  let b := fun j =>
    let n := 1024 * fld s.host.sdpSel 17 16 + i + j
    if n < 4095 then (x.text.getD n 0).toNat else 0
  if f < 4096 then BitVec.ofNat 32 (b 0 + 2 ^ 8 * b 1 + 2 ^ 16 * b 2 + 2 ^ 24 * b 3) else 0

/-! ## The registry (R472, R473) -/

def nmosEn (g : Nat → Word) : Bool := bitOf (g 0x140) 30
def is05En (g : Nat → Word) : Bool := bitOf (g 0x140) 29
def mgmtLane (g : Nat → Word) : Nat := fld (g 0x140) 20 16

/-- The version-5 UUID of a name string (R473). -/
def uuid5 (name : List Byte) : Nat :=
  let h := (sha1 (beBytes 16 0x2B8E41D76C0F4A93B1E5207C9D34F8A6 ++ name)).toNat / 2 ^ 32
  2 ^ 80 * (h / 2 ^ 80) + 2 ^ 76 * 5 + 2 ^ 64 * (h / 2 ^ 64 % 2 ^ 12) + 2 ^ 63 + h % 2 ^ 62

/-- Classifier entries that are Receivers: valid, of KIND video, audio or compressed; a pair is one, named by its path A entry. -/
def receiversOf (s : State) : List Nat :=
  (entsOf s.eff).filter (fun e =>
    let c := entCfg (effW s) e
    c.valid && decide (c.kind ≠ 2) && decide (c.path ≠ 2))

/-- Valid services of every die, video and audio. -/
def validSvcs (s : State) : List Nat :=
  (List.range (dies s)).flatMap (fun d => (svcsOf s.eff d).filter (fun v =>
    if isVideoSvc v then (svcCfg (effW s) v).valid else (asvcCfg (effW s) v).valid))

/-- What the part registers, with the identities (R473). -/
def resourceIds (s : State) : List (NmosKind × Nat) :=
  let one := fun (k : NmosKind) (kind : String) (n : Nat) => (k, uuid5 (asc kind ++ num n))
  let p := partId (effW s)
  [one .node "node:" p, one .device "device:" p] ++
    (validSvcs s).flatMap (fun v => [one .source "service:" v, one .flow "service:" v]) ++
    ((flowsOf s.eff).filter (fun f => (flowCfg (effW s) f).valid)).map (one .sender "sender:") ++
    (receiversOf s).map (one .receiver "receiver:")

/-- NMOS_HEARTBEAT: the heartbeat of a registered part, or a registration; one that fails is counted and registers again. -/
def nmosOp (ok : Bool) (s : State) : State :=
  if !(nmosEn (effW s) && announces s) then { s with services := { s.services with regOk := false } }
  else
    let s := serviceFrame (mgmtLane (effW s)) 3 (emitOn (mgmtLane (effW s)) (if s.services.regOk then .nmosHeartbeat else .nmosRegister (resourceIds s)) s)
    let s := { s with services := { s.services with regOk := ok } }
    if ok then s else bump pgHost 4 1 (raiseBit pgHost 4 s)

/-- What is registered of a configuration: the part identifier, services, flow-table entries and classifier entries, by location. -/
def resources (t : Tbl Word) : Tbl Word :=
  t.filter (fun e =>
    let p := e.1 / 4096 % 8192
    if e.1 < 2 ^ 28 then decide (e.1 = 0x100 ∨ p = 0x107 ∨ (0x300 ≤ p ∧ p ≤ 0x33F))
    else decide (bar2loc 0x100000 ≤ e.1 ∧ e.1 < bar2loc 0x400000))

/-- A registered part brings the registry up to date at the boundary at which entries change. -/
def resourcesTakeEffect (oldT : Tbl Word) (s : State) : State :=
  if nmosEn (effW s) && s.services.regOk && announces s && decide (resources oldT ≠ resources s.eff) then
    serviceFrame (mgmtLane (effW s)) 3 (emitOn (mgmtLane (effW s)) (.nmosRegister (resourceIds s)) s)
  else s

/-! ## Delay_Req (R471) -/

/-- A Delay_Req from port `l` (R471): to the PTP multicast address, or to the master when HYBRID is 1. PRESUMED: UDP from and to port 319
and 224.0.1.129, and the message's layout with an origin time of zero, of IEEE 1588; DESIGN CHOICE: DSCP 0, time to live 64. -/
def delayReqFrame (g : Nat → Word) (l : Nat) (master : Word) (seq : Nat) : Dgram :=
  { mac := gateMac g l, src := gateAddr g l, dst := if bitOf (g 0x148) 31 then master else 0xE0000181, sport := 319, dport := 319
    dscp := 0, ttl := 64, tag := none
    payload := beBytes 1 1 ++ beBytes 1 2 ++ beBytes 2 44 ++ beBytes 1 (ptpDomain g) ++ beBytes 15 0 ++
      beBytes 8 (Config.clockIdentity (partId g)) ++ beBytes 2 (l + 1) ++ beBytes 2 seq ++ beBytes 1 1 ++ beBytes 1 0x7F ++ beBytes 10 0 }

/-- A Delay_Req on a port that takes part in PTP and sends (R26, R98): a PTP event message of the port's PTP class. -/
def delayReqOp (l : Nat) (s : State) : State :=
  let g := effW s
  if ptpEn g && bitOf (g 0x144) l && portSends s l then
    let q := ((ptpPort s l).reqSeq + 1) % 65536
    let s := modPtp l (fun p => { p with reqSeq := q, t3 := none, t4 := none }) s
    modPort l (fun p => { p with ptpQ := p.ptpQ ++ [{ len := 90, release := s.time.now, seq := q
                                                      ip := some (delayReqFrame g l (ptpPort s l).master q) }] }) (emit (.delayReq l (bitOf (g 0x148) 31) q) s)
  else s

/-! ## Commits that the firmware makes (R474, R479) -/

/-- `STAGE_CRC` and `COMMIT` of a set by the firmware, through the set's reporting page, with the next generation number. -/
def firmwareCommit (q : Nat) (crc : Word) (s : State) : State :=
  match reportingPage s q with
  | none => s
  | some k => commitWrite k (BitVec.ofNat 32 (((cset s q).live + 1) % 65536)) (modSet q (fun c => { c with crc := crc }) s)

/-! ## The Connection API (R474, R475) -/

/-- The bits of word `i` of an entry that a PATCH may write, for a Receiver or a Sender. -/
def is05Mask (receiver : Bool) (i : Nat) : Word :=
  if receiver then [0x81000000, 0xFFFFFFFF, 0xFFFFFFFF, 0xFFFF0000].getD i 0
  else [0x80000000, 0xFFFFFFFF, 0xFFFFFFFF, 0xFFFFFFFF].getD i 0

/-- BAR2 offset of word `i` of the entry of a Receiver or a Sender; words from 16 on are those of a pair's path B entry. -/
def is05Offset (s : State) (receiver : Bool) (e i : Nat) : Nat :=
  if receiver then 0x300000 + 32 * (if i < 16 then e else (entCfg (stagedW s) e).peer) + 4 * (i % 16)
  else 0x100000 + 64 * e + 4 * (i % 16)

/-- The set that names the entry's table page. -/
def is05Named (s : State) (receiver : Bool) (e : Nat) : Option Nat := (setsNaming true s (is05Offset s receiver e 0 / 4096)).head?

/-- That set, when an activation may use it: it is not busy and none of its pages is DIRTY. -/
def is05Set (s : State) (receiver : Bool) (e : Nat) : Option Nat :=
  (is05Named s receiver e).bind (fun q =>
    if setBusy s q || (membersOf false (entryOf s q)).any (fun k => (page s k).dirty) || (reportingPage s q).isNone then none else some q)

/-- An activation: the entry's staged words, `STAGE_CRC` and `COMMIT`; the answer comes when the check ends. -/
def is05Activate (receiver : Bool) (e : Nat) (words : List (Nat × Word)) (s : State) : State :=
  match is05Set s receiver e with
  | none => emit (.is05Answer 500 0 (((is05Named s receiver e).map (fun q => setCode (cset s q).st)).getD 0) 0) (bump pgHost 6 1 s)
  | some q =>
    let s := words.foldl (fun s x =>
      let o := is05Offset s receiver e x.1
      let m := is05Mask receiver (x.1 % 16)
      stageTable o ((stagedW s (bar2loc o) &&& ~~~m) ||| (x.2 &&& m)) s) s
    let s := { s with services := { s.services with is05Sets := NSet.add s.services.is05Sets q } }
    firmwareCommit q (crc32c (stagedWords s (entryOf s q))) s

/-- IS05_PATCH: refused in ACTIVE and STANDBY, and when it changes what is read-only; activated at once, or 3 ms before the
instant it names. -/
def is05PatchOp (receiver : Bool) (e : Nat) (words : List (Nat × Word)) (readOnly : Bool) (t : Option Nat) (s : State) : State :=
  if !is05En (effW s) then s
  else if s.yoke.role = roleActive ∨ s.yoke.role = roleStandby then emit (.is05Answer 423 0 0 0) s
  else if readOnly then emit (.is05Answer 400 0 0 0) s
  else
    match t with
    | none => is05Activate receiver e words s
    | some x => { s with services := { s.services with is05Wait := s.services.is05Wait ++ [(x, receiver, e, words)] } }

/-- The scheduled activation that is due first. -/
def firstDue : List (Nat × Bool × Nat × List (Nat × Word)) → Option (Nat × Bool × Nat × List (Nat × Word))
  | [] => none
  | x :: l =>
    match firstDue l with
    | none => some x
    | some y => if y.1 < x.1 then some y else some x

/-- IS05_ACTIVATION: the scheduled activation that is due first is carried out, 3 ms before its time. -/
def is05ActivationOp (s : State) : State :=
  match firstDue s.services.is05Wait with
  | none => s
  | some x =>
    is05Activate x.2.1 x.2.2.1 x.2.2.2 (advance (x.1 - 3000000) { s with services := { s.services with is05Wait := s.services.is05Wait.erase x } })

/-! ## The stored configuration (R479–R481) -/

/-- BOOT_LOAD_START: the settings area in use, when it holds one, is loaded set by set under the boot hold. -/
def bootStartOp (s : State) : State :=
  if !(ready s pgFw) || !s.fw.present || decide (s.host.boot ≠ bootIdle) then s
  else
    let l := area s.fw.flash s.fw.area
    match recordsOf l (blobW l 4).toNat 8 with
    | [] => s
    | x :: rest =>
      { s with host := { s.host with hold := true, held := true, boot := bootWaiting, bootSet := x.1, bootList := x :: rest } }

/-- The stored words of a set go to its staged words in the order of R59. -/
def stageRecord (e : List Word) (words : List Word) (s : State) : State :=
  let locs := (entryRanges e).flatMap (fun r => (List.range ((r.2 - r.1) / 4)).map (fun i => r.1 + 4 * i))
  (locs.zip words).foldl (fun s x =>
    if x.1 < 2 ^ 28 then stagePage (x.1 / 4096) (x.1 % 4096) x.2 s else stageTable (x.1 - 2 ^ 28) x.2 s) s

/-- BOOT_WAIT_END: every member page of the set that the load waits for is READY, or 1,000 ms have passed since the bring-up origin: the
set is written and committed. -/
def bootWaitOp (s : State) : State :=
  match s.host.bootList with
  | [] => s
  | x :: _ =>
    if s.host.boot ≠ bootWaiting then s
    else if !((membersOf false x.2.1).all (ready s)) && decide (s.time.now < s.pwr.originAt + 1000000000) then s
    else
      let s := { s with host := { s.host with boot := bootCommitting, bootSet := x.1 } }
      let s := (List.range 14).foldl (fun s i => writeEntry x.1 i (x.2.1.getD i 0) s) s
      firmwareCommit x.1 x.2.2.2 (stageRecord x.2.1 x.2.2.1 s)

/-- HOLD is released (R481); the outputs start at the next package furrow boundary. -/
def holdRelease (s : State) : State := { s with host := { s.host with hold := false } }

/-- ABORT stops the load after the check in progress (R480). -/
def bootAbortOp (s : State) : State :=
  if s.host.boot = bootWaiting then { s with host := { s.host with abort := true, boot := bootAborted, bootList := [] } }
  else if s.host.boot = bootCommitting then { s with host := { s.host with abort := true } }
  else s

/-! ## The aperture's placement (R466) -/

/-- A write to `HOST_APER`. -/
def aperPlace (v : Word) (s : State) : State :=
  let d := fld v 31 29
  let b := fld v 13 0
  if decide (dies s ≤ d) || s.pwr.asleep.contains d || s.pwr.entering.contains d || s.pwr.waking.contains d || decide (14848 < b) then
    raiseBit pgHost 1 s
  else { s with host := { s.host with aperDie := d, aperBase := b } }

end Sys2Proof.Machine
end

