-- ==== Sys2Proof/Machine/Records.lean ====
section
/-! DEFINITION. PACK of a furrow for every service of its channel, and the state records of a yoke: how one is built, compared and
joined from (R318, R368–R374). -/

namespace Sys2Proof.Machine

open Sys2Proof

/-! ## Packing a furrow -/

/-- A furrow whose first packet is queued after its emission point is late: once, whatever the number of its services (R330). -/
def packLate (ch n k : Nat) (s : State) : State :=
  match pic? s ch n with
  | none => s
  | some p =>
    if !p.svcs.isEmpty && decide (picEmission ch p k < s.time.now) then
      let q := pgYard (chDie s ch)
      bump q 9 1 (raiseBit q 0 s)
    else s

/-- A furrow is packed for every service; the first one notes the sequence numbers that its picture begins with (R370). -/
def packAll (ch n k : Nat) (s : State) : State :=
  let s := packLate ch n k s
  let s := if k = 0 then modPic ch n (fun p => { p with seqFirst := (chSvcs ch).map (fun v => (svc s v).seq) }) s else s
  modFur ch n k (fun u => { u with packed := true }) ((chSvcs ch).foldl (fun s v => packFurrow v ch n k s) s)

/-- The state once every furrow of picture `n` is packed: what the services' counters come to. -/
def packRest (ch n : Nat) (s : State) : State :=
  match pic? s ch n with
  | none => s
  | some p => ((List.range (picFmt ch p).furrows).filter (fun k => !(fur p k).packed)).foldl (fun s k => packAll ch n k s) s

/-! ## Records (R369, R370) -/

/-- A sample as a 16-bit little-endian value. -/
def sampleBytes (x : Nat) : List Byte := leBytes 2 x

/-- The bytes of one line in the order Y, Cb, Cr; `chroma` tells at which samples the line has chroma. -/
def lineBytes (w : Nat) (px : Nat → Nat) (chroma : Nat → Bool) : List Byte :=
  let xs := List.range w
  let cs := xs.filter chroma
  xs.flatMap (fun x => sampleBytes (unpackPx (px x)).a0) ++ cs.flatMap (fun x => sampleBytes (unpackPx (px x)).a1) ++
    cs.flatMap (fun x => sampleBytes (unpackPx (px x)).a2)

/-- The input-furrow hash of furrow `k` (R369). -/
def inputHash (s : State) (ch : Nat) (p : Pic) (k : Nat) : BitVec 256 :=
  let g := picG s ch p
  let f := picFmt ch p
  let ys := List.range' (k * f.c) (f.lineEnd k - k * f.c)
  sha256 (
    if chComposed g ch then
      let samp := fld (g (chLoc ch 0x140)) 5 4
      ys.flatMap (fun y => lineBytes f.w (fun x => s.canvPx.get (fun _ => 0) (canvKey p.cfg ch p.n y x))
        (fun x => decide (x % 2 = 0) && (decide (samp = 1) || decide (y % 2 = 0))))
    else
      let sl := chSlot g ch
      let c := slotCfg g sl.1 sl.2
      ys.flatMap (fun y => lineBytes c.w (fun x => readyPx s sl.1 sl.2 p.n (f.lineEnd k) y x)
        (fun x => decide (c.samp ≠ 0) || decide (x % 2 = 0))))

/-- The CRC-32C of caption triples; 0 for none. -/
def ancCrc (l : List Nat) : Word :=
  if l = [] then 0
  else (l.flatMap (fun x => beBytes 3 x)).foldl (fun c b => crcByte c (BitVec.ofNat 32 b.toNat)) 0xFFFFFFFF ^^^ 0xFFFFFFFF

/-- A service's entry: `s1` is the state once the picture is packed. -/
def recSvc (s1 : State) (g : Nat → Word) (p : Pic) (v i : Nat) : RecSvc :=
  let c := svcCfg g v
  let x := svc s1 v
  let k := keySlot s1 c.key
  { seqFirst := p.seqFirst.getD i 0, seqNext := x.seq, fecCol := x.fecCol, fecRow := x.fecRow
    kcv := if c.srtp = 0 then 0 else kcv k.len256 k.key, fecPos := x.fecPos, cc := 16 * x.ccVideo + x.ccPmt, patCc := x.ccPat
    valid := c.valid }

/-- The state record of picture `n` of a channel. -/
def buildRecord (s : State) (ch n : Nat) : Option Record :=
  let s1 := packRest ch n s
  (pic? s1 ch n).map (fun p =>
    let g := picG s ch p
    let f := picFmt ch p
    let ks := List.range f.furrows
    { channel := ch, generation := p.gen, picture := n
      setCrc := ((aliasSet s (chPage 0x200 ch)).map (liveSum s)).getD 0
      poc := p.poc % 65536, kind := if p.idr then 0 else if p.gdrFirst then 1 else 2, furrows := f.furrows, bits := picBits ch p
      fallow := picFallow ch p, deadline := (ks.filter (fun k => (fur p k).dlFallow)).length
      ckptHeld := p.ckptHeld, latched := picLatched p, baseQp := p.baseQp, bank := p.bank, budget := p.budget.toNat
      marks := p.marks, stallPoc := p.stallPoc, pin := p.pins, gdrPos := (p.gdr.map (fun x => x.1)).getD 0xFFFF
      idrCount := p.idrCount, services := (List.range 8).map (fun i => recSvc s1 g p ((chSvcs ch).getD i 0) i)
      ancCrc := ancCrc p.captions, reconHash := reconHash s ch p, inputHash := ks.map (inputHash s ch p) })

/-! ## Comparison (R371) -/

/-- The first cause of R371 that two records of a picture show; 0 when they are equal. -/
def recordCause (a b : Record) : Nat :=
  if a.generation ≠ b.generation ∨ a.setCrc ≠ b.setCrc then 2
  else if a.services.map (fun x => x.kcv) ≠ b.services.map (fun x => x.kcv) then 3
  else if a.inputHash ≠ b.inputHash ∨ a.ancCrc ≠ b.ancCrc then 4
  else if a.deadline ≠ 0 ∨ b.deadline ≠ 0 then 5
  else if a ≠ b then 6
  else 0

/-- Cause `c` of a comparison at picture `n` acts on the channel's yoke state (R372). -/
def compared (ch n c : Nat) (s : State) : State :=
  let y := ych s ch
  let s := bump pgYoke 10 1 s
  let s := if c = 0 then s else bump pgYoke 11 1 s
  if y.st = ysLocked then (if c = 0 then s else diverge ch c s)
  else if y.st = ysVerify then
    if y.join.any (fun m => decide (n < m)) then s
    else if c = 0 then
      let s := bump pgYoke 5 1 (relock ch (modYch ch (fun y => { y with join := none }) s))
      { s with yoke := { s.yoke with resyncCh := none, resyncStep := 0, resyncLeft := 0 } }
    else resyncFailed ch (diverge ch c s)
  else if y.st = ysDiverged then
    if c = 0 then
      if (y.cause = 1 ∧ y.both = true) ∨ y.cause = 2 ∨ y.cause = 3 ∨ y.cause = 4 ∨ (y.cause = 7 ∧ y.gap = true) then relock ch s
      else modYch ch (fun y => { y with gap := false }) s
    else
      modYch ch (fun y => { y with both := false, gap := false, cause := if y.cause = 2 ∨ y.cause = 3 ∨ y.cause = 4 then c else y.cause }) s
  else s

/-- A VERDICT goes to the active. -/
def sendVerdict (ch n : Nat) (s : State) : State := sendRel (.verdict ch (ych s ch).st (ych s ch).cause n) s

/-- The oldest picture of which both records are here is compared; an older one of this part's waits for the active's, until that is
missing (R371). -/
def comparePair (ch : Nat) (s : State) : State :=
  let y := ych s ch
  match y.own.find? (fun a => y.theirs.any (fun b => decide (b.picture = a.picture))) with
  | none => s
  | some a =>
    match y.theirs.find? (fun b => decide (b.picture = a.picture)) with
    | none => s
    | some b =>
      let n := a.picture
      let s := modYch ch (fun y => { y with own := y.own.filter (fun r => decide (r.picture ≠ n)) }) s
      seekResync (sendVerdict ch n (compared ch n (recordCause a b) s))

/-- The standby has built record `r`: a record of the active's that is eight pictures late is MISSING (R371). -/
def ownRecord (ch : Nat) (r : Record) (s : State) : State :=
  let s := modYch ch (fun y => { y with own := y.own ++ [r] }) s
  let s := comparePair ch s
  let late := (ych s ch).own.filter (fun a => decide (a.picture + 8 ≤ r.picture))
  match late.getLast? with
  | none => s
  | some a =>
    let s := modYch ch (fun y => { y with own := y.own.filter (fun b => decide (a.picture < b.picture)), gap := true }) s
    if (ych s ch).st = ysLocked then seekResync (sendVerdict ch a.picture (diverge ch 7 s)) else s

/-- The picture end of a yoked channel on a paired part, or of one that is mirrored (R369, R387). -/
def recordPicture (ch n : Nat) (s : State) : State :=
  match buildRecord s ch n with
  | none => s
  | some r =>
    let s := if mirrors s ch then modChan ch (fun c => { c with lastRec := some r }) s else s
    if !(pairedRole s && yokedCh s ch) then s
    else
      if s.yoke.role = roleActive then
        if s.yoke.linkLost then s else bump pgYoke 9 1 (sendRel (.state r) s)
      else ownRecord ch r s

/-! ## Joining from records (R374) -/

/-- The channel as picture `r.picture` left it, from its record: marks, references, drill and refresh state. -/
def chanFromRecord (g : Nat → Word) (ch : Nat) (r : Record) (c : Chan) : Chan :=
  let f := chFmt g ch
  let d := drillCfg g ch
  let b := barnCfg g ch
  let rc := refreshCfg g ch
  let lt := decide (0 < b.ltPeriod) && decide (r.poc % b.ltPeriod = 0)
  let at_ := fun i =>
    let q := r.stallPoc.getD i (false, 0)
    ({ mark := r.marks.getD i 0, poc := q.2, n := r.picture - (r.poc + 65536 - q.2) % 65536, pin := false } : Stall)
  let refs := fun (m : Nat) => (((List.range 16).map at_).filter (fun x => decide (x.mark = m))).map
    (fun x => ({ n := x.n, poc := x.poc, lt := decide (m = mkLong) } : RefPic))
  endStall r.picture lt { c with
    st := c.st, next := r.picture + 1, any := true, pics := []
    sums := [{ n := r.picture, idr := decide (r.kind = 0), bits := r.bits, budget := r.budget, fallow := r.fallow, mode := d.mode
               baseQp := r.baseQp }]
    mode := d.mode, hrd := (hrdRate d, cpbSize d f), idrKey := idrKeyOf g ch, bank := r.bank, poc := r.poc
    stalls := (List.range 16).foldl (fun t i => t.set (fun _ => {}) i (at_ i)) []
    sRefs := highest 16 (refs mkShort), lRefs := highest 16 (refs mkLong)
    last := some { n := r.picture, poc := r.poc, lt := lt }
    gdr := if r.gdrPos = 0xFFFF then none else some (r.gdrPos, if rc.1 = 1 then rc.2 else max rc.2 2)
    gdrKey := rc, gdrNext := none, sinceIdr := r.idrCount, periodN := r.idrCount, token := b.token, forceIdr := false }

/-- A picture that the partner codes passes on this part: what R220, R208 and R232 derive moves on. -/
def passPicture (g : Nat → Word) (ch : Nat) (c : Chan) : Plan × Chan :=
  let b := barnCfg g ch
  let q := planPicture g ch c false
  let c := barnAtBoundary b.stalls c.next q c
  (q, { c with
    next := c.next + 1, bank := q.bank, poc := q.poc, sRefs := q.refs.1, lRefs := q.refs.2
    last := some { n := c.next, poc := q.poc, lt := q.lt }, gdr := q.gdr, gdrNext := q.gdrNext
    sinceIdr := if q.idr then 0 else c.sinceIdr + 1, periodN := q.period, token := b.token })

/-- Pictures up to but not `m` pass, each ended at once. -/
def passEnded (g : Nat → Word) (ch : Nat) : Nat → Chan → Chan
  | 0, c => c
  | k + 1, c =>
    let r := passPicture g ch c
    let x : PicSum := { n := c.next, idr := r.1.idr, bits := 0, budget := r.1.budget, fallow := 0, mode := c.mode, baseQp := r.1.baseQp }
    passEnded g ch k (endStall c.next r.1.lt { r.2 with sums := (x :: r.2.sums).take 4 })

/-- The channel of the standby at T_m (R374): the state that records of pictures m − 2 and earlier give, with picture m − 1 in
progress on the partner. -/
def joinState (ch m : Nat) (r : Record) (s : State) : State :=
  let g := effW s
  let c := passEnded g ch (m - 2 - r.picture) (chanFromRecord g ch r (chan s ch))
  let x := passPicture g ch c
  let f := chFmt g ch
  let gone : Fur := { complete := true, planted := true, written := true, coded := true, dlTested := true, packed := true }
  let ghost : Pic :=
    { n := m - 1, cfg := s.eff.filter (fun e => picOwn ch e.1), idr := x.1.idr, poc := x.1.poc, lt := x.1.lt, baseQp := x.1.baseQp
      budget := x.1.budget, mode := c.mode, sRefs := x.1.refs.1, lRefs := x.1.refs.2
      furs := (List.range f.furrows).map (fun k => (k, gone)) }
  modChan ch (fun _ => { x.2 with pics := [ghost] }) s

/-- A part that has joined at picture `m` takes its counters from the record of picture m − 1 (R374). -/
def takeCounters (ch : Nat) (r : Record) (s : State) : State :=
  let s := (List.range 8).foldl (fun (s : State) i =>
    match r.services[i]? with
    | none => s
    | some e => modSvc ((chSvcs ch).getD i 0) (fun x => { x with
        seq := e.seqNext, fecCol := e.fecCol, fecRow := e.fecRow, fecPos := e.fecPos, ccVideo := e.cc / 16, ccPmt := e.cc % 16
        ccPat := e.patCc }) s) s
  let s := modPic ch r.picture (fun p => { p with ended := true }) s
  let s := modChan ch (fun c =>
    let c := endStall r.picture (c.lRefs.any (fun x => decide (x.n = r.picture)) || (c.pics.find? (fun p => decide (p.n = r.picture))).any (fun p => p.lt)) c
    let c := match c.pics.getLast? with
      | none => c
      | some q => freeStalls (q.sRefs ++ q.lRefs) c
    { c with sums := ({ n := r.picture, idr := decide (r.kind = 0), bits := r.bits, budget := r.budget, fallow := r.fallow, mode := c.mode
                        baseQp := r.baseQp } :: c.sums).take 4 }) s
  wakeItems (settle ch s)

/-- A record of the active arrives at the standby (R369, R371). -/
def theirRecord (r : Record) (s : State) : State :=
  let ch := r.channel
  if s.yoke.role ≠ roleStandby then s
  else
    let s := modYch ch (fun y => { y with theirs := (y.theirs.filter (fun b => decide (b.picture ≠ r.picture))).drop (y.theirs.length - 15) ++ [r], lastRx := some r }) s
    let s := if (ych s ch).st = ysVerify ∧ (ych s ch).join = some (r.picture + 1) then takeCounters ch r s else s
    comparePair ch s

end Sys2Proof.Machine
end

