-- ==== Sys2Proof/Machine/Yoke.lean ====
section
/-! DEFINITION. The yoke and re-seating (R356–R398): pairing, heartbeats, reliable frames, resync, takeover, die faults. -/

namespace Sys2Proof.Machine

open Sys2Proof

/-! ## The link (R376, R393–R396) -/

/-- The part's yoke lanes run. -/
def yokeOn (s : State) : Bool := pairEn (effW s)

/-- The yoke's lanes and HB_TXP/N are not quiet: the boot hold is not in force (R481). -/
def yokeTx (s : State) : Bool := yokeOn s && !s.host.held

/-- A frame arrives whose checks hold: what it acknowledges is settled. One whose HCRC or CRC fails is counted. -/
def rxFrame (h : YHdr) (k : State → State) (s : State) : State :=
  if !yokeOn s then s
  else if !h.crcOk then bump pgYoke 19 1 s
  else k (ackUpTo h.ack s)

/-- After the lost flags of the paths may have changed; an aborted resync releases its checkpoint. -/
def pathsSettled (s0 s : State) : State :=
  let s := pathsChanged s0 s
  match s0.yoke.resyncCh with
  | some ch => if s.yoke.resyncCh = none ∧ (chan s ch).ckptSeat = false then releaseCkpt ch s else s
  | none => s

/-- The resync in progress aborts (R375). -/
def abortResync (tell : Bool) (s : State) : State :=
  match s.yoke.resyncCh with
  | none => s
  | some ch =>
    let s := resyncAbort tell s
    let s := modChan ch (fun c => { c with forceIdr := c.forceIdr || decide (s.yoke.role = roleStandby) }) s
    if (chan s ch).ckptSeat then s else releaseCkpt ch s

/-- The resync of channel `ch`, if it is the one in progress, aborts. -/
def abortOf (ch : Nat) (s : State) : State := if s.yoke.resyncCh = some ch then abortResync true s else s

/-! ## Pairing and roles (R356, R361, R362, R384) -/

/-- The tie token: the first eight bytes of the SHA-384 of the identity public key (R384). -/
def tieToken (s : State) : Nat :=
  match s.tack.idPub with
  | none => 0
  | some k => (sha384 (beBytes 96 k.toNat)).toNat / 2 ^ 320

/-- Why a HELLO does not pass R356: 0 it does, else the code of `YOKE_PAIR_INFO`. -/
def helloRefusal (s : State) (p : Hello) : Nat :=
  if p.dieCount ≠ dies s then 1 else if p.fwVersion ≠ s.fw.version then 2 else if p.partId ≠ partId (effW s) then 3 else 0

/-- Channels of this part that are running. -/
def runningChs (s : State) : List Nat := (s.chans.map Prod.fst).filter (running s)

/-- The role that R362 gives this part; none for a tie. -/
def decideRole (s : State) (p : Hello) : Option Nat :=
  let mine := !(runningChs s).isEmpty
  let theirs := !p.running.isEmpty
  let act := fun (b : Bool) => some (if b then roleActive else roleStandby)
  if mine ≠ theirs then act mine
  else if mine ∧ s.yoke.since ≠ p.activeSince then act (decide (s.yoke.since < p.activeSince))
  else if yokePref (effW s) ≠ p.pref then act (yokePref (effW s))
  else if tieToken s ≠ p.tieToken then act (decide (p.tieToken < tieToken s))
  else none

/-- A pairing is refused (R361): SOLE; no retry for 1 s after a HELLO that fails the checks of R356. -/
def refusePair (code : Nat) (s : State) : State :=
  raiseBit pgYoke 1 (setRole roleSole { s with yoke := { s.yoke with refusal := code, wait := decide (code ≤ 3) } })

/-- Pairing completes (R361, R372): every running channel is DIVERGED for START until the first comparison. -/
def completePair (s : State) : State :=
  let theirs := (s.yoke.hello.map (fun h => h.running)).getD []
  let s := setRole s.yoke.paired { s with yoke := { s.yoke with sundered := false } }
  let s := (runningChs s).foldl (fun s ch => modYch ch (fun y => { y with both := theirs.contains ch }) (diverge ch 1 s)) s
  seekResync s

/-- A part that transmits: its partner's role as advertised is ACTIVE or SOLE. -/
def transmits (r : Nat) : Bool := decide (r = roleActive) || decide (r = roleSole)

/-- Which of two active parts becomes STANDBY (R384): true, this one; none for a tie. -/
def losesDual (s : State) (p : Hello) : Option Bool :=
  if s.yoke.since ≠ p.activeSince then some (decide (p.activeSince < s.yoke.since))
  else if yokePref (effW s) ≠ p.pref then some (!yokePref (effW s))
  else if tieToken s ≠ p.tieToken then some (decide (tieToken s < p.tieToken))
  else none

/-- An ACTIVE part, or a SOLE one that has lost its partner, hears it advertise ACTIVE or SOLE (R384). DEDUCED: ACTIVE_SINCE and PREF being those of a
HELLO, which part becomes STANDBY is settled once a HELLO has told of the partner's role. -/
def dualActive (s : State) : State :=
  if s.yoke.dual.isSome || s.yoke.barred then s
  else
    let s := raiseBit pgYoke 12 s
    match s.yoke.hello with
    | none => s
    | some p =>
      if !transmits p.role then s
      else
        match losesDual s p with
        | some b => { s with yoke := { s.yoke with dual := some b } }
        | none => setRole roleSole { s with yoke := { s.yoke with barred := true } }

/-- The partner advertises role `r`: an agreement completes pairing, and two active parts are noticed (R361, R384). DEDUCED: a SOLE part has a
partner in the sense of R384 from the loss of one until it pairs again; parts that have not met pair under R361. -/
def partnerRole (r : Nat) (s : State) : State :=
  let s := { s with yoke := { s.yoke with partner := r } }
  if s.yoke.role = rolePairing then
    if (s.yoke.paired = roleActive ∧ r = roleStandby) ∨ (s.yoke.paired = roleStandby ∧ r = roleActive) then completePair s else s
  else if (s.yoke.role = roleActive ∨ (s.yoke.role = roleSole ∧ s.yoke.sundered = true)) ∧ transmits r = true then dualActive s
  else s

/-- HELLO_RECEIVED (R361, R362, R384): parts that tie under R384 seek no pairing again, and parts that have lost each other and meet again settle
their roles by it. -/
def helloOp (p : Hello) (s : State) : State :=
  let s := { s with yoke := { s.yoke with hello := some p } }
  if s.yoke.role ≠ roleSole then partnerRole p.role s
  else
    let s := { s with yoke := { s.yoke with partner := p.role } }
    if s.yoke.barred || s.yoke.wait || s.host.held then s
    else
      let c := helloRefusal s p
      if c ≠ 0 then refusePair c s
      else if s.yoke.sundered && transmits p.role then partnerRole p.role s
      else
        match decideRole s p with
        | none => refusePair 4 (setRole rolePairing s)
        | some r =>
          let s := { s with yoke := { s.yoke with
            came := s.yoke.role, paired := r, seqTx := 0, seqRx := 0, unacked := [], early := [] } }
          partnerRole p.role (setRole rolePairing s)

/-- The role that the part advertises: in PAIRING the one it has decided. -/
def advertised (s : State) : Nat := if s.yoke.role = rolePairing then s.yoke.paired else s.yoke.role

/-- Where two parts were active, one becomes STANDBY at the next package furrow boundary (R384): its channels lock again only through comparison or
resync. DEDUCED: the other one, which then has a partner that stands by, is ACTIVE; parts that had lost each other number their frames afresh. -/
def settleDual (s : State) : State :=
  match s.yoke.dual with
  | none => s
  | some b =>
    let new := s.yoke.sundered
    let s := if b || new then abortResync true s else s
    let s := { s with yoke := { s.yoke with dual := none, sundered := false } }
    let s := if new then { s with yoke := { s.yoke with seqTx := 0, seqRx := 0, unacked := [], early := [] } } else s
    let s := setRole (if b then roleStandby else roleActive) s
    if b || new then seekResync ((runningChs s).foldl (fun s ch => modYch ch (fun y => { y with both := true }) (diverge ch 1 s)) s) else s

/-- `PAIR_EN` at a package furrow boundary (R361): OFF and SOLE; no part pairs while the boot hold is in force (R481). -/
def pairTakesEffect (s : State) : State :=
  if !yokeOn s then
    if s.yoke.role = roleOff then s
    else
      let s := abortResync false s
      setRole roleOff { s with yoke := {
        since := s.yoke.since, takeAt := s.yoke.takeAt, role := s.yoke.role, refusal := s.yoke.refusal, partner := s.yoke.partner } }
  else if s.yoke.role = roleOff then setRole roleSole s
  else s

/-! ## Heartbeats (R376–R378) -/

/-- A missed period of a path (R377). -/
def missedOp (link : Bool) (s : State) : State :=
  if !yokeOn s then s
  else if link then
    let n := min 8 (s.yoke.linkMiss + 1)
    pathsSettled s (bump pgYoke 17 1 { s with yoke := { s.yoke with linkMiss := n, linkLost := s.yoke.linkLost || decide (n = 8) } })
  else
    let n := min 8 (s.yoke.pinMiss + 1)
    pathsSettled s (bump pgYoke 16 1 { s with yoke := { s.yoke with pinMiss := n, pinLost := s.yoke.pinLost || decide (n = 8) } })

/-- The width stands for a state: within 40 ns of `w`. -/
def pulseIs (width w : Nat) : Bool := decide (w ≤ width + 40) && decide (width ≤ w + 40)

/-- A pulse on the pin path (R376, R380): one of 1,000 ns is a yield, seen on the pin path only when no frame has told of it. -/
def pulseOp (width : Nat) (s : State) : State :=
  if !(yokeOn s && (pulseIs width 100 || pulseIs width 300 || pulseIs width 1000)) then s
  else
    let s := pathsSettled s { s with yoke := { s.yoke with pinMiss := 0, pinLost := false, lastBeat := s.time.now } }
    if pulseIs width 1000 && decide (s.yoke.role = roleStandby) && s.yoke.pendTake.isNone then
      { s with yoke := { s.yoke with pendTake := some (s.time.now, furrowFrom (s.time.now + 20000)) } }
    else s

/-- A BEAT frame (R376, R379): frames that went unacknowledged on a path that was lost are sent afresh. -/
def beatOp (p : Beat) (s : State) : State :=
  let un := if s.yoke.linkLost then s.yoke.unacked.map (fun u => { u with sends := 1 }) else s.yoke.unacked
  let s := pathsSettled s { s with yoke := { s.yoke with
    linkMiss := 0, linkLost := false, lastBeat := s.time.now, beat := some p, unacked := un } }
  seekResync (yieldOnConditions (partnerRole p.role s))

/-- This part's BEAT (R379, R395). -/
def beatOf (s : State) : Beat :=
  { role := s.yoke.role, time := timeCond s, port := portCond s, memory := memCond s, dieFault := faultCond s, quality := s.time.quality
    counter := s.yoke.beatN }

/-- The heartbeats this part sends (R376, R395). -/
def sendBeat (s : State) : State :=
  if !yokeTx s then s
  else
    let w := if s.yoke.role = rolePairing ∨ s.yoke.role = roleStandby then 300 else 100
    let s := emit (.hbPulse w) s
    match beatLane s with
    | none => s
    | some _ =>
      sendFrame 0 false (.beat (beatOf s)) { s with yoke := { s.yoke with beatN := s.yoke.beatN + 1 } }

/-- This part's HELLO (R395). -/
def helloOf (s : State) : Hello :=
  { dieCount := dies s, role := advertised s, partId := partId (effW s), fwVersion := s.fw.version, activeSince := s.yoke.since
    pref := yokePref (effW s), pinRx := !s.yoke.pinLost, running := runningChs s, tieToken := tieToken s }

/-- A HELLO on every lane of LANES (R395). -/
def sendHello (s : State) : State := if yokeTx s then sendFrame 0 false (.hello (helloOf s)) s else s

/-- The stall bytes that a frame carries. -/
def copyLen : YMsg → Nat
  | .copy _ _ _ _ b => b.length
  | _ => 0

/-- A reliable frame's 20 µs are over (R396): it is sent again, and after four sends the link path is lost. -/
def retryOp (n : Nat) (s : State) : State :=
  match s.yoke.unacked.find? (fun u => decide (u.seq = n)) with
  | none => s
  | some u =>
    if 4 ≤ u.sends then pathsSettled s { s with yoke := { s.yoke with linkLost := true } }
    else
      let l := s.yoke.unacked.map (fun x => if x.seq = n then { x with sends := x.sends + 1 } else x)
      sendFrame n true u.msg (bump pgYoke 8 (copyLen u.msg) <| bump pgYoke 12 1 { s with yoke := { s.yoke with unacked := l } })

/-- An ACK frame, when one is due (R396). -/
def ackTimerOp (s : State) : State :=
  if s.yoke.ackDue then sendFrame 0 false .ack s else s

/-! ## VERDICT, VOTE and DECIDE (R365–R367, R371) -/

/-- The active takes the standby's yoke state of a channel. -/
def verdictOp (ch st cause : Nat) (s : State) : State :=
  if s.yoke.role ≠ roleActive then s
  else if st = ysLocked then
    let was := (ych s ch).st
    let s := relock ch s
    if was = ysVerify then bump pgYoke 5 1 { s with yoke := { s.yoke with resyncCh := none, resyncStep := 0 } } else s
  else if st = ysDiverged then
    if (ych s ch).st = ysVerify then resyncFailed ch (diverge ch cause s) else diverge ch cause s
  else modYch ch (fun y => { y with st := st, cause := cause }) s

/-- The set is queued or in its check. -/
def setQueued (s : State) (q : Nat) : Bool := decide ((cset s q).st = .queued) || decide ((cset s q).st = .check)

/-- A VOTE arrives (R365, R367): the last one of each set is held. -/
def voteOp (q g : Nat) (crc tcrc : Word) (live res : Nat) (s : State) : State :=
  if s.yoke.role ≠ roleActive then s
  else if !setQueued s q && decide (crc = liveSum s q) then
    sendRel (.decide q (cset s q).live 2 0) s
  else
    let v : Vote := { set := q, gen := g, crc := crc, tcrc := tcrc, live := live, result := res }
    let s := { s with yoke := { s.yoke with votes := s.yoke.votes.filter (fun e => decide (e.2.set ≠ q)) ++ [(s.time.now, v)] } }
    if s.checking = some q ∧ (cset s q).phase = .vote then decideVote q s else s

/-- The set that this standby has put to the vote. -/
def awaitsDecide (s : State) (q : Nat) : Bool := decide (s.yoke.role = roleStandby) && decide (s.checking = some q) && decide ((cset s q).phase = .decision)

/-- R365: the set is refused with YOKE_MISMATCH at its `STAGE_CRC`. -/
def mismatch (q : Nat) (s : State) : State := failSet q causeYoke (ploc ((reportingPage s q).getD 0) 0x44) s

/-- DECIDE with outcome PASS, FAIL or CATCHUP. -/
def decideOp (q g outcome e : Nat) (s : State) : State :=
  if !awaitsDecide s q then s
  else if outcome = 2 then passSet q g 0 s
  else if outcome = 0 ∧ g = (cset s q).gen then passSet q g e s
  else mismatch q s

/-- No VOTE by 1.5 ms. -/
def voteTimeoutOp (s : State) : State :=
  match s.checking with
  | none => s
  | some q =>
    if s.yoke.role = roleActive ∧ (cset s q).phase = .vote then mismatch q (sendRel (.decide q (cset s q).gen 1 0) s) else s

/-- No DECIDE by 2 ms. -/
def decideTimeoutOp (s : State) : State :=
  match s.checking with
  | none => s
  | some q => if (cset s q).phase = .decision then mismatch q s else s

/-! ## Resync (R373–R375) -/



/-- A request reaches the active. Its checkpoint is taken at the channel's next picture boundary, which for a channel that does not run yet is its
first one. -/
def resyncRequestOp (ch : Nat) (s : State) : State :=
  if s.yoke.role = roleActive ∧ s.yoke.resyncCh = none then
    modChan ch (fun c => { c with ckptWant := true }) { s with yoke := { s.yoke with resyncCh := some ch, resyncStep := 1 } }
  else s

/-- Items and queued packets of a channel's pictures that `q` picks go with the pictures. DESIGN CHOICE: a decoded picture that one of
them showed stays pinned, since no last canvas point of that picture passes (R261). -/
def dropPics (ch : Nat) (q : Nat → Bool) (s : State) : State :=
  let s := modChan ch (fun c => { c with pics := c.pics.filter (fun p => !q p.n) }) s
  let s := dropItems ch q s
  (chSvcs ch).foldl (fun s v => modSvc v (fun x => { x with queue := x.queue.filter (fun p => !q p.n) }) s) s

/-- The active's checkpoint at picture `n` is reported: the standby stops coding the channel from there on. -/
def checkpointTakenOp (ch pinned n : Nat) (s : State) : State :=
  if s.yoke.role = roleStandby ∧ s.yoke.resyncCh = some ch then
    let s := modYch ch (fun y => { y with st := ysResync, join := none, own := [] }) s
    let s := { s with yoke := { s.yoke with resyncStep := 2, resyncLeft := ones (BitVec.ofNat 32 pinned) } }
    dropPics ch (fun m => decide (n ≤ m)) s
  else s

/-- The join picture after a bulk copy that ends now: the first whose boundary is at least 1 ms later. -/
def joinPicture (s : State) (ch : Nat) : Nat := (chFmt (effW s) ch).firstFrom (s.time.now + 1000000)

/-- COPY frames of `n` stall bytes from offset `off`, at most 16,368 in each (R395), counted (R398). -/
def copyFrames (ch stall kind off n : Nat) (byte : Nat → Byte) (s : State) : State :=
  bump pgYoke 8 n <| (List.range (cdiv n 16368)).foldl (fun s j =>
    sendRel (.copy ch stall kind (off + 16368 * j) ((List.range (min 16368 (n - 16368 * j))).map (fun i => byte (off + 16368 * j + i)))) s) s

/-- The byte of a stall of a channel. -/
def stallByte (s : State) (ch stall : Nat) (i : Nat) : Byte := dramGet s (chDie s ch) (stallAt (effW s) ch stall + i)

/-- The stalls that a bulk copy reads whole (R374). DESIGN CHOICE: the yoke reads memory as another die does. -/
def pinReads (s : State) (ch : Nat) : List MemRange :=
  ((List.range 16).filter (fun i => (stall (chan s ch) i).pin)).map (fun i =>
    { who := 0x42, die := chDie s ch, addr := stallAt (effW s) ch i, len := stallSize (effW s) ch })

/-- Every pinned stall is copied whole (R374). -/
def copyPinned (ch : Nat) (s : State) : State :=
  ((List.range 16).filter (fun i => (stall (chan s ch) i).pin)).foldl (fun s i =>
    copyFrames ch i 0 0 (stallSize (effW s) ch) (stallByte s ch i) s) s

/-- Picture `n` of the channel is in the row stream (R374). -/
def inRows (s : State) (ch n : Nat) : Bool :=
  match s.yoke.rows with
  | none => false
  | some (c, a, b) => decide (c = ch) && decide (a ≤ n) && b.all (fun m => decide (n < m))

/-- The rows of picture `n` that became final with furrow `k`, plane by plane: offset in the stall and length. -/
def rowSpans (s : State) (ch : Nat) (p : Pic) (k : Nat) : List (Nat × Nat) :=
  let g := picG s ch p
  let f := picFmt ch p
  let samp := codedSamp g ch
  let r := finalRows g ch f k
  (List.range 3).map (fun q =>
    let lo := planeAt f samp q 0 (r.1 / subY samp q) * 10 / 8
    (lo, planeAt f samp q 0 (r.2 / subY samp q) * 10 / 8 - lo))

/-- What the row stream reads for furrow `k`. -/
def rowReads (s : State) (ch n k : Nat) : List MemRange :=
  match pic? s ch n, stallOf (chan s ch) n with
  | some p, some i =>
    if inRows s ch n then (rowSpans s ch p k).map (fun r =>
      { who := 0x42, die := chDie s ch, addr := stallAt (effW s) ch i + r.1, len := r.2 })
    else []
  | _, _ => []

/-- The row stream (R374): the rows of picture `n` that became final with furrow `k`. It ends at the picture end before the join picture. -/
def streamRows (ch n k : Nat) (s : State) : State :=
  match s.yoke.rows, pic? s ch n with
  | some (_, _, b), some p =>
    if inRows s ch n then
      let s := match stallOf (chan s ch) n with
        | none => s
        | some i => (rowSpans s ch p k).foldl (fun s r => copyFrames ch i 1 r.1 r.2 (stallByte s ch i) s) s
      if p.ended ∧ b = some (n + 1) then { s with yoke := { s.yoke with rows := none } } else s
    else s
  | _, _ => s

/-- The bulk copy ends on the active. -/
def bulkDoneOp (ch : Nat) (s : State) : State :=
  if s.yoke.role = roleActive ∧ s.yoke.resyncCh = some ch ∧ s.yoke.resyncStep = 2 then
    let n := s.yoke.resyncLeft
    let m := joinPicture s ch
    let s := bump pgYoke 7 n s
    let s := modYch ch (fun y => { y with join := some m }) { s with yoke := { s.yoke with resyncStep := 3, resyncLeft := 0 } }
    let s := { s with yoke := { s.yoke with rows := s.yoke.rows.map (fun r => (r.1, r.2.1, some m)) } }
    sendRel (.resync ch 3 0 m) (copyPinned ch s)
  else s

/-- The standby hears of the end of the bulk copy and of the join picture `m`. A join frame (operation 0x4) tells it of what it does by itself at T_m:
it changes nothing more. -/
def copyDoneOp (ch m : Nat) (joins : Bool) (s : State) : State :=
  if !joins ∧ s.yoke.role = roleStandby ∧ s.yoke.resyncCh = some ch ∧ s.yoke.resyncStep = 2 then
    modYch ch (fun y => { y with join := some m }) { s with yoke := { s.yoke with resyncStep := 3, resyncLeft := 0 } }
  else s

/-- A bulk or row COPY of the standby's resync writes stall bytes. -/
def copyInOp (ch stall off : Nat) (bytes : List Byte) (s : State) : State :=
  if s.yoke.role = roleStandby ∧ s.yoke.resyncCh = some ch ∧ 2 ≤ s.yoke.resyncStep ∧ stall < 16 ∧
      off + bytes.length ≤ stallSize (effW s) ch then
    dramStore (chDie s ch) (stallAt (effW s) ch stall + off) bytes s
  else s

/-- A bulk COPY: its last bytes leave one stall fewer to copy (R397). -/
def bulkInOp (ch stall off : Nat) (bytes : List Byte) (s : State) : State :=
  let s := copyInOp ch stall off bytes s
  if s.yoke.role = roleStandby ∧ s.yoke.resyncCh = some ch ∧ s.yoke.resyncStep = 2 ∧ stall < 16 ∧ off + bytes.length = stallSize (effW s) ch then
    { s with yoke := { s.yoke with resyncLeft := s.yoke.resyncLeft - 1 } }
  else s

/-- The active's picture boundary in a resync of the channel (R374): the checkpoint of step 1 is reported, and at T_m it is
released. `n` is the picture that began. -/
def resyncBoundary (ch n : Nat) (s : State) : State :=
  if s.yoke.role ≠ roleActive ∨ s.yoke.resyncCh ≠ some ch then s
  else if s.yoke.resyncStep = 1 then
    if (chan s ch).ckpt.isSome ∧ (chan s ch).ckptWant = false then
      let pins := pinBits (chan s ch)
      let s := modYch ch (fun y => { y with st := ysResync }) s
      sendRel (.resync ch 2 pins n) { s with yoke := { s.yoke with resyncStep := 2, resyncLeft := ones (BitVec.ofNat 32 pins), rows := some (ch, n, none) } }
    else s
  else if (ych s ch).join = some n then
    let s := releaseCkpt ch (modYch ch (fun y => { y with st := ysVerify, join := none }) s)
    sendRel (.resync ch 4 0 n) { s with yoke := { s.yoke with resyncStep := 5 } }
  else s

/-- The standby does not code a channel under resync until T_m (R374). -/
def resyncHolds (s : State) (ch n : Nat) : Bool :=
  decide (s.yoke.role = roleStandby) && decide ((ych s ch).st = ysResync) && !decide ((ych s ch).join = some n)

/-- At T_m the standby joins, from the newest record of a picture m − 2 or earlier; without one the resync aborts. -/
def joinBoundary (ch m : Nat) (s : State) : State :=
  if s.yoke.role = roleStandby ∧ (ych s ch).st = ysResync ∧ (ych s ch).join = some m then
    let rs := (ych s ch).theirs.filter (fun r => decide (r.picture + 2 ≤ m))
    match rs.getLast? with
    | none => abortResync true s
    | some r =>
      joinState ch m r (modYch ch (fun y => { y with st := ysVerify }) { s with yoke := { s.yoke with resyncStep := 5 } })
  else s

/-! ## Takeover (R379–R383) -/

/-- A YIELD frame fixes the takeover (R380). -/
def yieldFrameOp (tR tT : Nat) (s : State) : State :=
  if s.yoke.role = roleStandby then { s with yoke := { s.yoke with pendTake := some (tR, tT) } } else s

/-- The takeover furrow of a channel at `tR` (R380): the last furrow whose emission point is not after it, that of a picture in progress with
the shift of R129; pictures are searched from the one after `tR` backwards. -/
def takeFurrow (s : State) (ch tR : Nat) : Nat × Nat :=
  let f := chFmt (effW s) ch
  let m := f.firstAfter tR
  let e := fun n k => match pic? s ch n with
    | none => f.emission n k
    | some p => picEmission ch p k
  (((List.range' (m - 8) 9).flatMap (fun n => (List.range f.furrows).map (fun k => (n, k)))).foldl (fun b x =>
    if e x.1 x.2 ≤ tR then x else b) (0, 0))

/-- A packet with HELD in the record that it carries. -/
def holdRtp (x : RtpPkt) : RtpPkt := reRecord (withHeld x.record) x

/-- A packet from furrow `k` of picture `n` on, with HELD in its record to the end of that picture (R381). -/
def heldPkt (n k : Nat) (p : Pkt) : Pkt := if p.n = n ∧ k ≤ p.furrow then 
    { p with rtp := holdRtp p.rtp, covers := p.covers.map holdRtp } else p

/-- A LOCKED channel that is not dual-send is replayed from its takeover furrow (R381). -/
def replayCh (tR ch : Nat) (s : State) : State :=
  let x := takeFurrow s ch tR
  let s := modPic ch x.1 (fun p => { p with heldFrom := some x.2 }) s
  (chSvcs ch).foldl (fun s v =>
    let l := (s.yoke.replay.get (fun _ => []) v).filter (fun p => decide (x.1 < p.n) || (decide (p.n = x.1) && decide (x.2 ≤ p.furrow)))
    let s := modSvc v (fun y => { y with queue := y.queue.map (heldPkt x.1 x.2) }) s
    bump pgYoke 14 l.length (l.foldl (fun s p => deliver (heldPkt x.1 x.2 p) s) s)) s

/-- The second sequence number of a service in the last record received, or a free value (R383). -/
def lastSeq (s : State) (ch i v : Nat) : Nat :=
  match (ych s ch).lastRx with
  | none => Config.freeSeq (s.fresh + v)
  | some r => (r.services.map (fun e => e.seqNext)).getD i 0

/-- A channel that is not LOCKED restarts (R383). -/
def restartCh (tT ch : Nat) (s : State) : State :=
  let s := (List.range 8).foldl (fun s i =>
    let v := (chSvcs ch).getD i 0
    let q := (lastSeq s ch i v + 16384) % 65536
    modSvc v (fun x => { x with seq := q }) s) s
  let s := dropPics ch (fun _ => true) s
  let s := modChan ch (fun c => mapStalls (fun x => if x.mark = mkCurrent then { x with mark := mkFree } else x)
    { c with notBefore := tT, forceIdr := true, holdNext := true, silent := 0 }) s
  settle ch (bump pgYoke 18 1 (draw s))

/-- Packets that a standby mutes and that still stand in port queues leave them (R363). -/
def purgeMuted (s : State) : State :=
  s.ports.foldl (fun s e =>
    let m := (port s e.1).media.filter (mutedFrame s)
    bump pgYoke 13 m.length (m.foldl (fun s q => flowCount q.flow 4 1 s)
      (modPort e.1 (fun p => { p with media := p.media.filter (fun q => !mutedFrame s q) }) s))) s

/-- TAKEOVER: this part's takeover or yield reaches its instant (R380–R383). -/
def takeoverOp (s : State) : State :=
  match s.yoke.pendTake with
  | some (tR, tT) =>
    let s := abortResync true (advance tT s)
    let lost := s.yoke.pinLost && s.yoke.linkLost
    let chs := runningChs s
    let locked := chs.filter (lockedCh s)
    let rest := chs.filter (fun ch => !lockedCh s ch)
    let rp := locked.filter (fun ch => !dualSend (effW s) ch)
    let s := rest.foldl (fun s ch => restartCh tT ch s) (purgeMuted s)
    let s := setRole (if lost then roleSole else roleActive) s
    let s := rp.foldl (fun s ch => replayCh tR ch s) s
    bump pgYoke 0 1 (raiseBit pgYoke 3 { s with yoke := { s.yoke with pendTake := none, takeAt := tT, replay := [] } })
  | none =>
    match s.yoke.pendYield with
    | some tT =>
      let s := abortResync true (advance tT s)
      setRole roleStandby { s with yoke := { s.yoke with pendYield := none, takeAt := tT } }
    | none => s

/-- `YOKE_CMD` (R397): the key, YIELD and RESYNC. -/
def yokeCmd (v : Word) (s : State) : State :=
  if fld v 31 16 ≠ 0x5E1D then s
  else if fld v 3 0 = 1 then yieldFor 3 s
  else if fld v 3 0 = 2 ∧ s.yoke.role = roleStandby ∧ running s (fld v 11 4) = true then
    seekResync (modYch (fld v 11 4) (fun y => { y with asked := true, fails := 0 }) s)
  else s

/-! ## Re-seating (R385–R390) -/

/-- The bytes `n` from address `a` of die `d` copied to address `b` of die `e`. -/
def dramCopy (d a e b n : Nat) (s : State) : State :=
  let lo := memKey d a
  let src := (s.dram.filter (fun x => decide (lo ≤ x.1) && decide (x.1 < lo + n))).map (fun x => (x.1 - lo + memKey e b, x.2))
  storeWords e b n { s with dram := splice (memKey e b) (memKey e b + n) src s.dram }

/-- Address of stall `i` of the shadow barn of a channel (R386). -/
def shadowAt (s : State) (ch i : Nat) : Nat :=
  let r := 32 * spareDie (liveW s) ch + spareLocal (liveW s) ch
  4096 * fld (stagedW s (ploc (chPage 0x240 r) 0x100)) 21 0 + i * stallSize (effW s) ch

/-- Stall `i` of a channel copied into its shadow barn. -/
def mirrorStall (ch : Nat) (s : State) (i : Nat) : State :=
  dramCopy (chDie s ch) (stallAt (effW s) ch i) (spareDie (liveW s) ch) (shadowAt s ch i) (stallSize (effW s) ch) s

/-- The stall of the last picture that ended, by its record. -/
def lastStall (c : Chan) : Option Nat := c.lastRec.bind (fun r => stallOf c r.picture)

/-- The stalls that a mirror copy reads: the pinned ones of the initial checkpoint, or that of the newest picture that has ended (R387). -/
def mirroredStalls (s : State) (ch : Nat) : List Nat :=
  let c := chan s ch
  if !mirrors s ch then []
  else if c.ckptSeat then (List.range 16).filter (fun i => (stall c i).pin)
  else if c.mirrorInit then (lastStall c).toList
  else []

/-- MIRROR_COPY (R387): the copies of the initial checkpoint are done, or those of the newest picture that has ended, with its record. DEDUCED: the
checkpoint's record is that of the last picture that has ended; when its stall is among the pinned ones, its mirror point is reached. -/
def mirrorOp (ch : Nat) (s : State) : State :=
  let c := chan s ch
  let ls := mirroredStalls s ch
  let have_ := c.lastRec.filter (fun r => (stallOf c r.picture).any ls.contains)
  let took := fun (c : Chan) => if have_.isSome then { c with mirrored := have_.map (fun r => r.picture), mirrorRec := have_ } else c
  if !mirrors s ch then s
  else if c.ckptSeat then modChan ch (fun c => { took c with mirrorInit := true }) (releaseCkpt ch (ls.foldl (mirrorStall ch) s))
  else if c.mirrorInit && have_.isSome && decide (c.mirrored ≠ have_.map (fun r => r.picture)) then modChan ch took (ls.foldl (mirrorStall ch) s)
  else s

/-- A COPY of the mirror kind writes bytes of the shadow barn (R387, R395). -/
def copyMirrorOp (ch stall off : Nat) (bytes : List Byte) (s : State) : State :=
  if mirrors s ch && decide (stall < 16) && decide (off + bytes.length ≤ stallSize (effW s) ch) then
    bump pgYoke 8 bytes.length (dramStore (spareDie (liveW s) ch) (shadowAt s ch stall + off) bytes s)
  else s

/-- Die `d` is in FAULT: its MC page is. -/
def dieFaulted (s : State) (d : Nat) : Bool := (page s (pgMc d)).fault

/-- The spare die of a channel can take it (R388). -/
def spareOk (s : State) (ch : Nat) : Bool :=
  let d := spareDie (liveW s) ch
  reseatEn (liveW s) ch && decide (d < dies s) && !dieFaulted s d && !s.pwr.asleep.contains d && !s.pwr.entering.contains d &&
    !s.pwr.waking.contains d

/-- The later of two sequence numbers modulo 2^16. -/
def laterSeq (a b : Nat) : Nat := if (b + 65536 - a) % 65536 < 32768 then b else a

/-- Where a service's counter continues (R389). -/
def reseatSeq (s : State) (ch i v : Nat) : Nat :=
  let c := chan s ch
  let x := svc s v
  let sent := (x.seq + 65536 - 1 - (x.queue.filter (fun p => decide (p.kind = 0))).length % 65536) % 65536
  let outside := s.flows.any (fun e => decide (e.2.joined = some v) && !dieFaulted s (entDie e.1))
  let recd := ((c.mirrorRec.bind (fun r => r.services[i]?)).map (fun e => e.seqNext)).getD x.seq
  if outside then (laterSeq sent recd + 1) % 65536 else (recd + 1) % 65536

/-- The first picture of which nothing has been emitted (R326). DEDUCED: a picture counts as emitted from the emission point of its first furrow
on, if that is packed. -/
def firstUnsent (s : State) (ch : Nat) : Nat :=
  (((chan s ch).pics.find? (fun p => !((fur p 0).packed && decide (picEmission ch p 0 ≤ s.time.now)))).map (fun p => p.n)).getD (chan s ch).next

/-- The POC LSB of the picture after the last mirrored one (R388): 0 where it is an IDR picture. -/
def pocAfter (c : Chan) (r : Record) : Nat :=
  match c.pics.find? (fun p => decide (p.n = r.picture + 1)), stallOf c (r.picture + 1) with
  | some p, _ => p.poc % 65536
  | none, some i => (stall c i).poc % 65536
  | none, none => (r.poc + 1) % 65536

/-- The channel is set to resume on its spare die (R388, R389): at the first picture at least 50 µs after the fault, with the
references up to the last mirrored picture, or as an IDR picture where none is mirrored. -/
def reseat (ch : Nat) (s0 : State) : State :=
  let s := s0
  let c := chan s ch
  let g := liveW s
  let f := chFmt (effW s) ch
  let m := f.firstFrom (s.time.now + 50000)
  let keep := c.mirrorRec
  let seqs := (List.range 8).map (fun i => reseatSeq s ch i ((chSvcs ch).getD i 0))
  let notSent := firstUnsent s ch
  let s := dropItems ch (fun _ => true) s
  let s := dropPics ch (fun n => match keep with
    | none => true
    | some r => decide (r.picture < n)) s
  let s := (List.range 8).foldl (fun s i => modSvc ((chSvcs ch).getD i 0) (fun x => { x with seq := seqs.getD i 0 }) s) s
  let spare := 32 * spareDie g ch + spareLocal g ch
  let s := { s with eff := [(chLoc ch 0x110, BitVec.ofNat 32 (spareEntry g ch)), (chLoc ch 0x154, BitVec.ofNat 32 (spareMask g ch)),
      (bnLoc ch 0x100, stagedW s (bnLoc spare 0x100))].foldl (fun t e => t.set resetWord e.1 e.2) s.eff }
  let s := modChan ch (fun c => { c with
    seat := some spare, notBefore := s.time.now + 50000, holdNext := true, poc := c.poc + (m - c.next), next := m
    silent := m - notSent
    forceIdr := keep.isNone, forceInv := keep.map (pocAfter c)
    bank := (keep.map (fun r => r.bank)).getD c.bank
    sums := match keep with
      | none => c.sums
      | some r => [{ n := r.picture, idr := false, bits := 0, budget := 0, fallow := 0, mode := c.mode, baseQp := r.baseQp }] }) s
  let s := match stBit c.st with
    | none => s
    | some i => raiseBit (pgCh s ch) i s
  let s := if yokedCh s ch && pairedRole s then diverge ch 8 s else s
  noteEngineLost (spare / 32) s0 (settle ch (bump pgYoke 15 1 (raiseBit pgYoke 10 s)))

/-- A channel becomes FAULTED; READY.FAULT of its CH page is set (R117, R118). -/
def toFaulted (ch : Nat) (s : State) : State := toChState ch .faulted (setFault (pgCh s ch) s)

/-- A channel of a faulted die that is not re-seated (R118, R388). -/
def faultCh (ch : Nat) (s : State) : State := toFaulted ch (dropPics ch (fun _ => true) (abortOf ch s))

/-- A re-seatable channel moves, or is FAULTED with RESEAT_FAIL. -/
def reseatOrFault (ch : Nat) (s : State) : State :=
  if (chan s ch).seat.isNone && spareOk s ch then reseat ch (abortOf ch s) else raiseBit pgYoke 11 (faultCh ch s)

/-- Channels lose their die, or every engine of their MASK (R118, R215, R388, R390): an active part yields for a LOCKED one, and
otherwise those that run are re-seated. -/
def loseChans (chs : List Nat) (s : State) : State :=
  let run := chs.filter (running s)
  let armed := chs.filter (fun ch => decide ((chan s ch).st = .armed))
  let s := armed.foldl (fun s ch => toFaulted ch s) s
  if s.yoke.role = roleActive ∧ run.any (lockedCh s) = true then
    run.foldl (fun s ch => faultCh ch s) (yieldFor 1 s)
  else run.foldl (fun s ch => reseatOrFault ch s) s

/-- Every engine that a channel's MASK names is in FAULT (R215). -/
def maskLost (s : State) (ch : Nat) : Bool :=
  let es := engines (engMask (effW s) ch)
  !es.isEmpty && es.all (fun e => (page s (pgCe (chDie s ch) e)).fault)

/-- Every page of the die is in FAULT, and its channels are lost (R87, R388, R390). The yoke lanes, which are the lead die's, enter FAULT with
it (R446) once a yield has left on them (R379). -/
def dieFaultOp (d : Nat) (s0 : State) : State :=
  let s := noteEngineLost d s0 (setFaults ((pagesOf d).filter (fun k => !packagePage (keyPage k))) s0)
  let s := loseChans ((s.chans.map Prod.fst).eraseDups.filter (fun ch => decide (chDie s ch = d))) s
  if d = 0 then setFault pgYoke s else s

/-- What blocks or control cores that read `ls`, ranges of memory, do (R295, R296): single-bit errors are corrected and counted, and `op`
follows unless a word of them is bad; then the error is logged, and the
die whose memory it is has an uncorrectable fault. -/
def reading (ls : List MemRange) (op : State → State) (s : State) : State :=
  let s := correctIn ls s
  let bad := ls.flatMap (fun r => (badWords s r.die r.addr r.len).map (fun w => (r.die, w, r.who)))
  if bad.isEmpty then op s
  else (bad.map (fun e => e.1)).eraseDups.foldl (fun s d => dieFaultOp d s) (bad.foldl (fun s e => eccBad e.1 e.2.1 e.2.2 s) s)

/-- DIE_FAULT (R87, R296): with the word and the reader where a read of an uncorrectable word is its cause. -/
def dieFaultFor (d : Nat) (cause : Option (Nat × Nat)) (s : State) : State :=
  match cause with
  | none => dieFaultOp d s
  | some (w, who) => dieFaultOp d (leaveBad d w (eccBad d w who s))

/-- A commit that clears EN stops a re-seated channel where it takes effect (R389); a channel whose EN changes is mirrored afresh, and an initial
checkpoint that it held goes (R387). -/
def reseatsTakeEffect (old : Nat → Word) (s : State) : State :=
  (s.chans.map Prod.fst).foldl (fun s ch =>
    if reseatEn old ch = reseatEn (effW s) ch then s
    else if (chan s ch).seat.isSome && !reseatEn (effW s) ch then
      let s := toChState ch .idle (toChState ch .draining (dropPics ch (fun _ => true) (abortOf ch s)))
      modYch ch (fun _ => {}) (modChan ch (fun c => { c with seat := none }) s)
    else
      modChan ch (fun c => { c with mirrorInit := false, mirrored := none, mirrorRec := none, lastRec := none })
        (if (chan s ch).ckptSeat then releaseCkpt ch s else s)) s

/-! ## Reliable frames (R396) -/

/-- A reliable frame's payload acts. -/
def deliverFrame (i : Instr) (s : State) : State :=
  match i with
  | .stateFrame _ r => theirRecord r s
  | .verdictFrame _ ch st cause _ => verdictOp ch st cause s
  | .voteFrame _ q g crc tcrc live res => voteOp q g crc tcrc live res s
  | .decidePass _ q g e => decideOp q g 0 e s
  | .decideFail _ q g => decideOp q g 1 0 s
  | .decideCatchup _ q g => decideOp q g 2 0 s
  | .copyBulk _ ch st off b => bulkInOp ch st off b s
  | .copyRow _ ch st off b => copyInOp ch st off b s
  | .resyncRequest _ ch => resyncRequestOp ch s
  | .resyncCheckpointTaken _ ch pins n => checkpointTakenOp ch pins n s
  | .resyncCopyDone _ ch m joins => copyDoneOp ch m joins s
  | .resyncAbort _ ch => if s.yoke.resyncCh = some ch then abortResync false s else s
  | .yieldFrame _ _ tR tT => yieldFrameOp tR tT s
  | .doorbellFrame _ n => icRemoteIn n s
  | _ => s

/-- Frames that came early are delivered as soon as their turn comes. -/
def drainEarly : Nat → State → State
  | 0, s => s
  | n + 1, s =>
    match s.yoke.early.find? (fun e => decide (e.1 = s.yoke.seqRx + 1)) with
    | none => s
    | some e =>
      drainEarly n (deliverFrame e.2 { s with yoke := { s.yoke with ackDue := true, seqRx := e.1, early := s.yoke.early.filter (fun x => decide (x.1 ≠ e.1)) } })

/-- A reliable frame arrives (R396): delivered in SEQ order, repeats discarded. -/
def rxRel (h : YHdr) (i : Instr) (s : State) : State :=
  rxFrame h (fun s =>
    let s := { s with yoke := { s.yoke with ackDue := true } }
    if h.seq ≤ s.yoke.seqRx then s
    else if h.seq = s.yoke.seqRx + 1 then
      drainEarly s.yoke.early.length (deliverFrame i { s with yoke := { s.yoke with seqRx := h.seq } })
    else if s.yoke.early.any (fun e => decide (e.1 = h.seq)) then s
    else { s with yoke := { s.yoke with early := s.yoke.early ++ [(h.seq, i)] } }) s

end Sys2Proof.Machine
end

