-- ==== Sys2Proof/Machine/Boundary.lean ====
section
/-! DEFINITION. The two boundaries (R71, R118, R130, R131) and the events of the TIME block's references (R120–R128). -/

namespace Sys2Proof.Machine

open Sys2Proof

/-- The part has channel `ch`. -/
def atChannel (ch : Nat) (s : State) (k : State → State) : Host.Outcome State Fault Refusal :=
  if ch < 32 * dies s then .next (whenUp s k) else .next s

/-! ## A media-time step (R128, R129) -/

/-- Sample index `n` of the time before a step by `d` ns, in the time after it. -/
def movedIdx (d : Int) (n : Nat) : Nat := cdiv ((n : Int) * 1000000 + 48 * d).toNat 1000000

/-- A span of marks in the time after a step. -/
def movedSpan (d : Int) (e : Nat × Nat × Option Nat) : Nat × Nat × Option Nat := (e.1, movedIdx d e.2.1, e.2.2.map (movedIdx d))

/-- A change that waits for a crossing, in the time after a step. -/
def movedZc (d : Int) (z : Option ZcChange) : Option ZcChange := z.map (fun z => { z with se := movedIdx d z.se })

/-- What audio holds by sample index follows media time over a step from `t0`: samples that become ready, the packets that are next, marks
and changes that wait. A step sets the sequence numbers of packets too, which follow from media time (R403). -/
def audioStepped (t0 : Nat) (s : State) : State :=
  let d : Int := (s.time.now : Int) - t0
  if d = 0 then s
  else
    let mark := fun (m : Nat) => if m = 0 then 0 else movedIdx d (m - 1) + 1
    { s with
      aflows := s.aflows.map (fun e => (e.1, { e.2 with
        ready := movedIdx d e.2.ready, gap := false, marks := e.2.marks.map (fun m => (m.1, mark m.2)), spans := e.2.spans.map (movedSpan d)
        holds := e.2.holds.map (movedSpan d), zc := e.2.zc.map (fun z => (z.1, movedZc d z.2)) }))
      svcs := s.svcs.map (fun e =>
        let n := (aflCfg (effW s) (asvcFlow e.1)).n
        if isVideoSvc e.1 then e else (e.1, { e.2 with next := cdiv (movedIdx d (e.2.next * n)) n }))
      tdms := s.tdms.map (fun e => (e.1, { e.2 with
        marks := e.2.marks.map (fun m => (m.1, mark m.2)), spans := e.2.spans.map (movedSpan d), zc := e.2.zc.map (fun z => (z.1, movedZc d z.2))
        ptr := [], outPos := [], past := e.2.past.map (fun a => (moved d a.1, a.2)) })) }

/-! ## The package furrow boundary (R131) -/

/-- A channel at a package furrow boundary (R118): RUN 1 in effect arms an idle one, one that came while it was DRAINING too, and RUN 0
ends ARMED and FAULTED. A channel armed with none but faulted engines is treated as under a die fault (R215). A draining one
that has no picture left is IDLE. -/
def armStep (s : State) (ch : Nat) : State :=
  let run := chRun (effW s) ch
  match (chan s ch).st with
  | .idle =>
    if run then
      let s := toChState ch .armed (modChan ch (fun c => { c with armedAt := s.time.now }) s)
      if maskLost s ch then loseChans [ch] s else s
    else s
  | .armed => if !run then toChState ch .idle s else if maskLost s ch then loseChans [ch] s else s
  | .faulted => if run then s else modYch ch (fun _ => {}) (toChState ch .idle s)
  | .draining => settle ch s
  | .running => s

/-- The management ingress buffer of every die is served (R351). DESIGN CHOICE: the firmware has taken what waits by the next
boundary. -/
def drainMgmt (s : State) : State :=
  (List.range (dies s)).foldl (fun s d => modPort (4 * d) (fun p => { p with mgmtBuf := 0 }) s) s

/-- What blocks do when words of the package take effect: `s1` is the state before. -/
def wordsTakeEffect (s1 s : State) : State :=
  let old := effW s1
  let s := lanesTakeEffect old (slotsTakeEffect old s1.eff (entriesTakeEffect old s1.eff s))
  let s := listsTakeEffect old (shapersTakeEffect old (quantaTakeEffect old (svcsLapse s)))
  let s := tdmsTakeEffect old (audioFlowsAtBoundary (idleFlows (aflowsTakeEffect old s)))
  let s := decsSettle (fencesTakeEffect old s)
  let s := reseatsTakeEffect old (pairTakesEffect (settleDual (refsTakeEffect s)))
  let s := ((runChs s.eff ++ s.chans.map Prod.fst).eraseDups).foldl armStep s
  resourcesTakeEffect s1.eff (sdpTakeEffect s)

/-- PACKAGE_FURROW_BOUNDARY: words of no channel and of channels that are not running take effect (R71), the boot hold's outputs
start (R481), tracking windows are asked for (R310), and a media-time step is applied (R128). DESIGN CHOICE: a step that first arises as this
boundary's own words take effect is applied here, R128 naming the next package furrow boundary and no more. -/
def packageOp (s0 : State) : State :=
  let s1 := advance (furrowFrom (s0.time.now + 1)) s0
  let s := wordsTakeEffect s1 (takePackage s1)
  let s := drainMgmt { s with host := { s.host with held := s.host.hold } }
  let s := (List.range (dies s)).foldl (fun s d => trackAtBoundary d s) s
  wakeItems (audioStepped s.time.now (applyStep s))

/-! ## The picture boundary (R118, R129, R130) -/

/-- The boundary at which an ARMED channel starts, or the running channel's next picture. DESIGN CHOICE: at boundaries that a
re-alignment passes over (R129) no word takes effect either, so that a cleared RUN waits for the next picture's. -/
def nextPicture (s : State) (ch : Nat) : Nat :=
  let f := chFmt (effW s) ch
  let c := chan s ch
  if c.st = .armed then max (f.firstAfter c.armedAt) (f.firstFrom c.notBefore) else max c.next (f.firstFrom c.notBefore)

/-- An ARMED channel begins its first picture on the generation it was armed with (R71, R118, R372). -/
def startChannel (ch n : Nat) (s : State) : State :=
  let s := toChState ch .running s
  let s := if pairedRole s && yokedCh s ch then modYch ch (fun y => { y with both := true }) (diverge ch 1 s) else s
  resyncBoundary ch n (beginPicture ch n true (chFlows ch true s))

/-- Re-alignment ends at boundary `n`, the first that is not passed over (R129): REALIGNED, and counter 6 has counted the boundaries
passed over, whether or not a picture begins at `n`. -/
def realigned (ch n : Nat) (s : State) : State :=
  let c := chan s ch
  if c.realign then
    bump (pgCh s ch) 6 (c.passed + (n - c.passFrom)) (raiseBit (pgCh s ch) 5
      (modChan ch (fun c => { c with realign := false, passed := 0, passFrom := 0 }) s))
  else s

/-- Boundary `n` of a RUNNING channel: its words take effect, and picture `n` begins unless they clear RUN (R71, R118), leave
it none but faulted engines (R215), or the channel waits for its join picture (R374). -/
def runBoundary (ch n : Nat) (s0 : State) : State :=
  let s := chFlows ch false (takeChannel ch (realigned ch n s0))
  let s := if (chan s ch).gen = (chan s0 ch).gen ∨ s.yoke.resyncStep = 5 then s else abortOf ch s
  if !chRun (effW s) ch then settle ch (modChan ch (fun c => { c with next := n + 1 }) (toChState ch .draining (abortOf ch s)))
  else if maskLost s ch then loseChans [ch] s
  else if resyncHolds s ch n then modChan ch (fun c => { c with next := n + 1 }) s
  else resyncBoundary ch n (beginPicture ch n false (joinBoundary ch n s))

/-- Boundary `n` of a DRAINING channel: its words take effect and no picture begins (R71, R118). -/
def drainBoundary (ch n : Nat) (s : State) : State :=
  settle ch (modChan ch (fun c => { c with next := n + 1 }) (chFlows ch false (takeChannel ch (realigned ch n s))))

/-- PICTURE_BOUNDARY. -/
def boundaryOp (ch : Nat) (s : State) : State :=
  let n := nextPicture s ch
  let t := (chFmt (effW s) ch).bound n
  match (chan s ch).st with
  | .armed => wakeItems (startChannel ch n (advance t s))
  | .running => wakeItems (runBoundary ch n (advance t s))
  | .draining => wakeItems (drainBoundary ch n (advance t s))
  | _ => s

/-! ## Commands -/

/-- PACKAGE_FURROW_BOUNDARY (R71, R131). -/
def execPackageFurrowBoundary (s : State) : Host.Outcome State Fault Refusal := .next (whenUp s packageOp)

/-- PICTURE_BOUNDARY (R71, R118, R130, R204–R208, R220–R224, R232). -/
def execPictureBoundary (ch : Nat) (s : State) : Host.Outcome State Fault Refusal :=
  atChannel ch s (boundaryOp ch)

/-- REFERENCE_ELIGIBLE (R120, R123). -/
def execReferenceEligible (src : RefSource) (off : Int) (s : State) : Host.Outcome State Fault Refusal :=
  .next (whenUp s (eligible src off))

/-- PTP_LOCK (R124, R128). -/
def execPtpLock (off : Int) (b : Nat) (s : State) : Host.Outcome State Fault Refusal := .next (whenUp s (ptpLockOp off b))

/-- REF10M_STOP (R123). -/
def execRef10mStop (s : State) : Host.Outcome State Fault Refusal := .next (whenUp s (stopRef .ref10m))

/-- PPS_STOP (R123). -/
def execPpsStop (s : State) : Host.Outcome State Fault Refusal := .next (whenUp s (stopRef .ref10m))

/-- PTP_LOST (R123). -/
def execPtpLost (s : State) : Host.Outcome State Fault Refusal := .next (whenUp s (stopRef .ptp))

/-- REF_GLITCH (R123). -/
def execRefGlitch (pps : Bool) (s : State) : Host.Outcome State Fault Refusal := .next (whenUp s (glitchOp pps))

/-- REF_REFUSED (R123): a disabled reference is not monitored (R120). -/
def execRefRefused (src : RefSource) (s : State) : Host.Outcome State Fault Refusal :=
  .next (whenUp s (guard' (refEnabled s src) (refuseRef src)))

/-- CRYSTAL_STOP (R123). -/
def execCrystalStop (s : State) : Host.Outcome State Fault Refusal := .next (whenUp s crystalFail)

/-- HOLDOVER_UPDATE (R124). -/
def execHoldoverUpdate (s : State) : Host.Outcome State Fault Refusal := .next (whenUp s holdTick)

/-- REFERENCE_EDGE (R123, R124). -/
def execReferenceEdge (pps : Bool) (res : Int) (s : State) : Host.Outcome State Fault Refusal := .next (whenUp s (edgeOp pps res))

end Sys2Proof.Machine
end

