-- ==== Sys2Proof/Machine/CodingCmds.lean ====
section
/-! DEFINITION. Events of the furrow drill and the engines (R195, R210–R253). -/

namespace Sys2Proof.Machine

open Sys2Proof

/-- Pictures in progress of a channel that have ended. -/
def endedPics (s : State) (ch : Nat) : List Nat := ((chan s ch).pics.filter (fun p => p.ended)).map (fun p => p.n)

/-- Entropy coding of the furrow's slices has ended, or the fallow path has coded them (R195, R249). -/
def slicesCoded (s : State) (ch k : Nat) (p : Pic) : Bool :=
  let d := chDie s ch
  let o := reportCh s ch % 32
  (fur p k).dlFallow || (List.range (slicesPer (picG s ch p) ch)).all (fun i => released s d o p.n k kEntropy i ||
    (dsp s d).items.any (fun x => decide (x.key = (o, p.n, k, kEntropy, i)) && x.ended))

/-- A coded point; a picture that ends with it is recorded (R369), and packing may start. -/
def codedPoint (ch k : Nat) (s : State) : State :=
  match (chan s ch).pics.find? (fun p => !(fur p k).coded) with
  | none => s
  | some p =>
    if slicesCoded s ch k p then
      reading (captionReads s ch p k ++ rowReads s ch p.n k) (fun s =>
        let s1 := codedOp ch k s
        let new := (endedPics s1 ch).filter (fun n => !(endedPics s ch).contains n)
        wakeItems (new.foldl (fun s n => recordPicture ch n s) (if (pic? s1 ch p.n).any (fun q => (fur q k).coded) then streamRows ch p.n k s1 else s1))) s
    else s

/-- CTU_CODED: a CODE item in service codes the furrow's next CTU (R271). -/
def codeNext (ch k : Nat) (s : State) : State :=
  match (chan s ch).pics.find? (fun p => !(fur p k).coded) with
  | none => s
  | some p =>
    let o := reportCh s ch % 32
    if (dsp s (chDie s ch)).items.any (fun x => decide (x.key = (o, p.n, k, kCode, 0)) && x.unit.isSome) then
      wakeItems (reading (windowReads s ch p (fur p k).ctus k ++ inputReads s ch p k) (ctuOp ch k) s)
    else s

/-- The cut of a deadline fallow (R249): the first of the furrow's CTUs whose entropy coding has not finished, `finished` as far as ENTROPY items
leave it open: slices whose items have ended have finished, and nothing behind the slice in service has. -/
def cutAt (s : State) (ch : Nat) (p : Pic) (k finished : Nat) : Nat :=
  let g := picG s ch p
  let d := chDie s ch
  let o := reportCh s ch % 32
  let is := List.range (slicesPer g ch)
  let ended := fun i => released s d o p.n k kEntropy i ||
    (dsp s d).items.any (fun x => decide (x.key = (o, p.n, k, kEntropy, i)) && x.ended)
  let upTo := fun (q : Nat → Bool) => (is.filter q).foldl (fun a i => max a (sliceTo g ch p i)) 0
  max (upTo ended) (min finished (upTo (started s d o p.n k kEntropy)))

/-- A deadline point; deadline fallow withdraws the furrow's items and those that read what it replaced (R249, R281). -/
def deadlinePoint (ch k finished : Nat) (s : State) : State :=
  match (chan s ch).pics.find? (fun p => !(fur p k).dlTested) with
  | none => s
  | some p =>
    let cut := min (cutAt s ch p k finished) (fur p k).log.length
    reading (if (fur p k).coded then [] else captionReads s ch p k) (fun s =>
      let s1 := deadlineOp ch k cut s
      match pic? s1 ch p.n with
      | none => s1
      | some q =>
        if (fur q k).dlFallow && !(fur q k).emptyCut && !(fur p k).dlFallow then wakeItems (withdrawFurrow ch p.n k cut s1)
        else wakeItems s1) s

/-- An engine corrects a single-bit error of its local memory (R227). -/
def engineCorrects (d e : Nat) (s : State) : State := bump (pgCe d e) 6 1 (raiseBit (pgCe d e) 1 s)

/-- An engine's uncorrectable error (R215, R282, R290): its work goes to the working engines of the same MASK; a channel with
none left is treated as under a die fault. -/
def engineFails (d e : Nat) (s0 : State) : State :=
  let s := noteEngineLost d s0 (engineItems d e (bump (pgCe d e) 7 1 (setFault (pgCe d e) s0)))
  let lost := (s.chans.map Prod.fst).filter (fun ch => decide (chDie s ch = d) && notIdle s ch && maskLost s ch)
  wakeItems (loseChans lost s)

/-- PLANTING_INSTANT (R241–R244). -/
def execPlantingInstant (ch k : Nat) (s : State) : Host.Outcome State Fault Refusal :=
  atChannel ch s (fun s => wakeItems (plantOp ch k s))

/-- CTU_CODED (R245–R248, R252). -/
def execCtuCoded (ch k : Nat) (s : State) : Host.Outcome State Fault Refusal := atChannel ch s (codeNext ch k)

/-- CODED_POINT (R119, R195, R221, R369). -/
def execCodedPoint (ch k : Nat) (s : State) : Host.Outcome State Fault Refusal := atChannel ch s (codedPoint ch k)

/-- DEADLINE_POINT (R249, R250, R281). -/
def execDeadlinePoint (ch k finished : Nat) (s : State) : Host.Outcome State Fault Refusal :=
  atChannel ch s (deadlinePoint ch k finished)

/-- ENGINE_FAULT (R118, R215, R227, R282): an error of an engine's local memory, uncorrectable unless `corrected`. -/
def execEngineFault (d e : Nat) (corrected : Bool) (s : State) : Host.Outcome State Fault Refusal :=
  if e < 4 then atDie d s (if corrected then engineCorrects d e else engineFails d e) else .next s

end Sys2Proof.Machine
end

