-- ==== Sys2Proof/Machine/DecCmds.lean ====
section
/-! DEFINITION. Events of the decoded sources (R254–R270). -/

namespace Sys2Proof.Machine

open Sys2Proof

/-- An event of decode source `n` of die `d`; items that wait for it may become ready. -/
def atDec (d n : Nat) (s : State) (k : State → State) : Host.Outcome State Fault Refusal :=
  if n < 64 then atDie d s (fun s => wakeItems (k s)) else .next s

/-- The bytes of the oldest access unit in the bitstream buffer of a source (R258). -/
def auReads (s : State) (d n : Nat) : List MemRange :=
  match (dec s d n).aus with
  | [] => []
  | a :: _ => a.places.flatMap (fun e => ringRanges (decCfg (effW s) d n) d e.1 e.2)

/-- The stalls of the pictures that the oldest decoding refers to. DESIGN CHOICE: which of their samples a slice reads is the stream's, and
their layout internal; all of them count as read. -/
def refReads (s : State) (d n : Nat) : List MemRange :=
  match (dec s d n).curs with
  | [] => []
  | j :: _ => ((dec s d n).pics.filter (fun p => j.refs.contains (some p.idx))).map (fun p => decStall (effW s) 0x41 d n p.stall)

/-- ACCESS_UNIT_CUTOFF (R254, R255, R260–R265). -/
def execAccessUnitCutoff (d n : Nat) (au : AccessUnit) (s : State) : Host.Outcome State Fault Refusal :=
  atDec d n s (fun s => reading (auReads s d n) (accessUnitOp d n au) s)

/-- DECODED_SLICE_POINT (R266, R267, R271). -/
def execDecodedSlicePoint (d n : Nat) (damaged : Bool) (area : List (Nat × Nat)) (s : State) : Host.Outcome State Fault Refusal :=
  atDec d n s (fun s => reading (refReads s d n) (slicePointOp d n damaged area) s)

/-- DUE_TIME (R260, R266). -/
def execDueTime (d n : Nat) (s : State) : Host.Outcome State Fault Refusal := atDec d n s (dueTimeOp d n)

end Sys2Proof.Machine
end

