-- ==== Sys2Proof/Machine/DspCmds.lean ====
section
/-! DEFINITION. Events of the dispatcher (R271–R290) and of tracking windows (R279, R310). -/

namespace Sys2Proof.Machine

open Sys2Proof

/-- An item in service ends; the packer's work is a furrow packed for every service (R318), after which its picture may have
nothing left to send. -/
def itemEnds (d slot t : Nat) (s : State) : State :=
  let r := endItem d slot (advance t s)
  match r.1 with
  | none => r.2
  | some i => wakeItems (if i.kind = kPack then settle i.ch (packAll i.ch i.n i.furrow r.2) else r.2)

/-- Time that a unit was busy in the window that ends at `w`, in units of 1/65,536 of it (R288). -/
def busyFraction (x : Dsp) (w u : Nat) : Nat :=
  let now := match x.busyFrom.get (fun _ => none) u with
    | none => 0
    | some b => w - max b x.winStart
  min 0x10000 ((x.acc.get (fun _ => 0) u + now) * 65536 / (1000 * x.winNow))

/-- A busy window ends, and the next begins: the fractions of the units, and the new length (R288). -/
def windowEnds (d : Nat) (s : State) : State :=
  let w := (dsp s d).winStart + 1000 * (dsp s d).winNow
  modDsp d (fun x => { x with winNow := x.window, winStart := w, acc := [], busy := (List.range 7).map (busyFraction x w) }) (advance w s)

/-- ITEM_CREATE (R272, R273): owners 0 to 31 are the die's channels, 32 to 95 its decode sources, 96 to 127 its
canvases. -/
def execItemCreate (d o : Nat) (s : State) : Host.Outcome State Fault Refusal :=
  if o < 128 then atDie d s (itemCreateOp d o) else .next s

/-- QUEUE_REEVALUATE (R274). -/
def execQueueReevaluate (d t : Nat) (s : State) : Host.Outcome State Fault Refusal := atDie d s (reevaluateOp d t)

/-- ITEM_DISPATCH (R275–R278, R289): units 0 to 3 are the pixel pipelines, 4 the decode engine, 5 the paddock, 6 the packer and 7
to 10 the entropy units. -/
def execItemDispatch (d unit t : Nat) (s : State) : Host.Outcome State Fault Refusal :=
  if unit < 11 then atDie d s (dispatchOp d unit t) else .next s

/-- ITEM_END (R273, R276, R318). -/
def execItemEnd (d slot t : Nat) (s : State) : Host.Outcome State Fault Refusal := atDie d s (itemEnds d slot t)

/-- TRACKING_WINDOW_END (R279, R310). -/
def execTrackingWindowEnd (d : Nat) (s : State) : Host.Outcome State Fault Refusal := atDie d s (trackEnd d)

/-- DSP_WINDOW_END (R288). -/
def execDspWindowEnd (d : Nat) (s : State) : Host.Outcome State Fault Refusal := atDie d s (windowEnds d)

end Sys2Proof.Machine
end

