-- ==== Sys2Proof/Machine/FwCmds.lean ====
section
/-! DEFINITION. Boot, flash and key commands (R485–R499). -/

namespace Sys2Proof.Machine

open Sys2Proof

/-- FIRMWARE_BOOT (R81, R485, R496, R497): the regions that play the three roles may fail to be read. It follows the zeroising of
every die's control-core store and the package pages, once a reset. -/
def execFirmwareBoot (st ac pr : Bool) (s : State) : Host.Outcome State Fault Refusal :=
  let f := s.fw.flash
  let err := fun r => (st && decide (f.staged = some r)) || (ac && decide (f.active = r)) || (pr && decide (f.previous = some r))
  .next (whenUp s (guard' (s.pwr.pkgReady && (List.range (dies s)).all (fun d => s.pwr.ctrlZero.contains d) && !s.pwr.fwReady && !s.fw.recovery)
    (fwBoot err)))

/-- FW_WRITE_STAGED (R486, R491): `FW_CMD` with OP 0x1. -/
def execFwWriteStaged (v : Word) (s : State) : Host.Outcome State Fault Refusal :=
  .next (whenUp s (guard' (decide (fld v 3 0 = 1)) (fwCommand v)))

/-- FW_WRITE_SETTINGS (R489–R491): OP 0x2. -/
def execFwWriteSettings (v : Word) (s : State) : Host.Outcome State Fault Refusal :=
  .next (whenUp s (guard' (decide (fld v 3 0 = 2)) (fwCommand v)))

/-- FW_ERASE_STAGED (R491): OP 0x3. -/
def execFwEraseStaged (v : Word) (s : State) : Host.Outcome State Fault Refusal :=
  .next (whenUp s (guard' (decide (fld v 3 0 = 3)) (fwCommand v)))

/-- FW_ERASE_SETTINGS (R489–R491): OP 0x4. -/
def execFwEraseSettings (v : Word) (s : State) : Host.Outcome State Fault Refusal :=
  .next (whenUp s (guard' (decide (fld v 3 0 = 4)) (fwCommand v)))

/-- FW_CONFIRM (R487, R491). -/
def execFwConfirm (v : Word) (s : State) : Host.Outcome State Fault Refusal := .next (whenUp s (fwConfirm v))

/-- What the command under way reads of DRAM (R486, R489). -/
def fwReads (s : State) : List MemRange :=
  if s.fw.op = 1 ∨ s.fw.op = 2 then [{ who := 0x44, die := (fwSource s).1, addr := (fwSource s).2, len := s.fw.len }] else []

/-- The bytes that ranges of memory hold are counted as read (R313). -/
def countReads (ls : List MemRange) (s : State) : State :=
  ls.foldl (fun s r => (wordsOf r.addr r.len).foldl (fun s w => countRead r.die w s) s) s

/-- FW_COMMAND_END (R296, R486, R489, R491). DESIGN CHOICE: a command whose source was uncorrectable ends on the bytes as they stand, beside the
fault of the die. -/
def execFwCommandEnd (flashErr : Bool) (s : State) : Host.Outcome State Fault Refusal :=
  .next (whenUp s (fun s => fwEnd flashErr (reading (fwReads s) (countReads (fwReads s)) s)))

/-- TACK_WRITE (R495): `TACK_CMD` with OP 0x1. -/
def execTackWrite (v : Word) (s : State) : Host.Outcome State Fault Refusal :=
  .next (whenUp s (guard' (decide (fld v 31 28 = 1)) (tackCommand v)))

/-- TACK_ERASE (R495): OP 0x2. -/
def execTackErase (v : Word) (s : State) : Host.Outcome State Fault Refusal :=
  .next (whenUp s (guard' (decide (fld v 31 28 = 2)) (tackCommand v)))

/-- TACK_ATTEST (R498): OP 0x3. -/
def execTackAttest (v : Word) (s : State) : Host.Outcome State Fault Refusal :=
  .next (whenUp s (guard' (decide (fld v 31 28 = 3)) (tackCommand v)))

/-- TACK_COMMAND_END (R495, R496, R498). -/
def execTackCommandEnd (s : State) : Host.Outcome State Fault Refusal := .next (whenUp s tackEnd)

end Sys2Proof.Machine
end

