-- ==== Sys2Proof/Machine/IcCmds.lean ====
section
/-! DEFINITION. The interrupt controller's commands (R419–R437). -/

namespace Sys2Proof.Machine

open Sys2Proof

/-- IC_MESSAGE_ARRIVAL (R419, R422): the oldest message of a sender reaches the arbiter. -/
def execIcMessageArrival (sender : Nat) (s : State) : Host.Outcome State Fault Refusal := .next (whenUp s (icArrive sender))

/-- IC_DOORBELL (R419, R420), by the host or by a control core: each is a sender of its own. -/
def execIcDoorbell (core : Option Nat) (v : Word) (s : State) : Host.Outcome State Fault Refusal :=
  .next (whenUp s (icSend ((core.map senderCore).getD senderHost) v))

/-- IC_PEND_CLR (R422, R433). -/
def execIcPendClr (v : Word) (hit : Bool) (s : State) : Host.Outcome State Fault Refusal := .next (whenUp s (icClear v hit))

/-- IC_EN_SET (R422). -/
def execIcEnSet (v : Word) (s : State) : Host.Outcome State Fault Refusal := .next (whenUp s (icEnable v true false))

/-- IC_EN_CLR (R422): a set in the same cycle wins. -/
def execIcEnClr (v : Word) (hit : Bool) (s : State) : Host.Outcome State Fault Refusal := .next (whenUp s (icEnable v false hit))

/-- IC_MASK_SET (R422). -/
def execIcMaskSet (v : Word) (s : State) : Host.Outcome State Fault Refusal := .next (whenUp s (icMask v true false))

/-- IC_MASK_CLR (R422, R434): a set in the same cycle wins. -/
def execIcMaskClr (v : Word) (hit : Bool) (s : State) : Host.Outcome State Fault Refusal := .next (whenUp s (icMask v false hit))

/-- IC_REMOTE (R425). -/
def execIcRemote (v : Word) (s : State) : Host.Outcome State Fault Refusal := .next (whenUp s (icRemote v))

/-- The target has a claim register (R427, R436). -/
def hasClaim (t : Nat) : Bool := decide (t < 288)

/-- IC_CLAIM (R427–R429, R431). -/
def execIcClaim (t : Nat) (late : List Nat) (s : State) : Host.Outcome State Fault Refusal :=
  .next (whenUp s (guard' (hasClaim t) (icClaim t late)))

/-- IC_COMPLETE (R430, R431, R434). -/
def execIcComplete (t : Nat) (v : Word) (s : State) : Host.Outcome State Fault Refusal :=
  .next (whenUp s (guard' (hasClaim t) (icComplete t v)))

/-- ROUTING_WRITE (R424, R431, R433, R434). -/
def execRoutingWrite (n : Nat) (v : Word) (s : State) : Host.Outcome State Fault Refusal := .next (whenUp s (routeSource n v))

/-- WAKE_TIMEOUT (R433). -/
def execWakeTimeout (n : Nat) (s : State) : Host.Outcome State Fault Refusal := .next (whenUp s (wakeExpire n))

end Sys2Proof.Machine
end

