-- ==== Sys2Proof/Machine/McCmds.lean ====
section
/-! DEFINITION. The memory controller's events and the DRAM aperture (R291–R313, R463–R465). -/

namespace Sys2Proof.Machine

open Sys2Proof

/-- DRAM_TRAINING_DONE (R81, R89, R309): after the die's control-core store is zeroised, its sixteen channels are trained and the wipe of
its DRAM starts. A channel that failed to train sets FAULT in the MC page, and the die has an uncorrectable fault. Training needs
both DRAM PHY domains. -/
def execDramTrainingDone (d failed : Nat) (s : State) : Host.Outcome State Fault Refusal :=
  atDie d s (guard' (s.pwr.ctrlZero.contains d && s.pwr.domUp.contains (16 * d + 8) && s.pwr.domUp.contains (16 * d + 9) &&
      !s.pwr.trained.contains d && !(page s (pkey d 0x101)).fault)
    (fun s => if failed = 0 then { s with pwr := { s.pwr with trained := NSet.add s.pwr.trained d } } else dieFaultOp d s))

/-- REFRESH_DUE (R301, R302): one command falls due on a channel; a die in self-refresh has none due (R311). -/
def execRefreshDue (d i : Nat) (s : State) : Host.Outcome State Fault Refusal :=
  if i < 16 then atDie d s (guard' (!(mc s d).selfRefresh) (refreshDue d i)) else .next s

/-- MR4_PERIODIC_READ (R303–R305): the 16 ms read of every channel. -/
def execMr4PeriodicRead (d : Nat) (codes : List Nat) (s : State) : Host.Outcome State Fault Refusal :=
  atDie d s (guard' (!(mc s d).selfRefresh) (readRound d true codes))

/-- THERMAL_ALERT (R303–R305): the read that an upward crossing prompts. -/
def execThermalAlert (d : Nat) (codes : List Nat) (s : State) : Host.Outcome State Fault Refusal :=
  atDie d s (guard' (!(mc s d).selfRefresh) (readRound d false codes))

/-- PANIC_ENTRY (R298, R299): port `p`'s level falls to `l` bytes. -/
def execPanicEntry (d p l : Nat) (s : State) : Host.Outcome State Fault Refusal :=
  if p < 12 then atDie d s (levelTo d p l) else .next s

/-- PANIC_EXIT (R298, R302): port `p`'s level rises to `l` bytes. -/
def execPanicExit (d p l : Nat) (s : State) : Host.Outcome State Fault Refusal :=
  if p < 12 then atDie d s (levelTo d p l) else .next s

/-- PORT_RUN (R298, R300): a real-time port's buffer ran dry or overflowed: its level is 0, which is below any watermark. -/
def execPortRun (d p : Nat) (s : State) : Host.Outcome State Fault Refusal :=
  if p < 12 then atDie d s (fun s => bump (pgMc d) 9 1 (raiseBit (pgMc d) 7 (levelTo d p 0 s))) else .next s

/-- PATROL_PASS (R297): the patrol runs once MC has been READY. -/
def execPatrolPass (d : Nat) (singles doubles : List Nat) (s : State) : Host.Outcome State Fault Refusal :=
  atDie d s (guard' (mcReady s d) (patrol d singles doubles))

/-- APERTURE_READ (R90, R295, R296, R463–R465). -/
def execApertureRead (x n : Nat) (e : EccEvent) (s : State) : Host.Outcome State Fault Refusal :=
  .next (whenUp s (guard' (hostOpen s && inWindow x n) (aperRead x n e)))

/-- APERTURE_WRITE (R90, R295, R463, R465). -/
def execApertureWrite (x : Nat) (bs : List (Option Byte)) (e : EccEvent) (s : State) : Host.Outcome State Fault Refusal :=
  .next (whenUp s (guard' (hostOpen s && inWindow x bs.length) (aperWrite x bs e)))

end Sys2Proof.Machine
end

