-- ==== Sys2Proof/Machine/Power.lean ====
section
/-! DEFINITION. Supplies, resets, bring-up, power domains, die sleep and the life cycle (R72–R109, R508, R509, R519). -/

namespace Sys2Proof.Machine

open Sys2Proof

/-- The part's `PWR_RESET_CAUSE` bits (R79). -/
def causeColdSupply : Nat := 1
def causeColdReq : Nat := 2
def causeWarmPerst : Nat := 4
def causeWarmReq : Nat := 8
def causeWarmLc : Nat := 16
def causeLinkPerst : Nat := 32
def causeLinkPcie : Nat := 64

/-- What a cold or warm reset keeps of a die's memory controller: `MC_MAP` is RWS (R75, R293). -/
def keepMaps (t : Tbl Mc) : Tbl Mc :=
  (t.map (fun e => (e.1, { mapReg := e.2.mapReg : Mc }))).filter (fun e => decide (e.2 ≠ {}))

/-- The part as a cold or warm reset leaves it while it is held (R75): everything at its reset value but the fuses, the
flash, the tack store's contents, the time counter, and, in a warm reset, the RWS fields. -/
def clearPart (cold : Bool) (s : State) : State :=
  { variant := s.variant
    pending := s.pending
    out := s.out
    fresh := s.fresh
    pwr := { supplied := s.pwr.supplied, perst := s.pwr.perst, fuses := s.pwr.fuses
             perstMode := !cold && s.pwr.perstMode, cause := if cold then 0 else s.pwr.cause }
    time := { now := s.time.now, crystalOk := s.time.crystalOk }
    mcs := if cold then [] else keepMaps s.mcs
    fw := { flash := s.fw.flash, rollback := s.fw.rollback }
    tack := { slots := s.tack.slots, saved := s.tack.saved, idPub := s.tack.idPub, kept := s.tack.kept } }

/-- A cold or warm reset is asserted and held for 2 ms (R78); `c` is the cause bit its release sets. -/
def assertReset (cold : Bool) (c : Nat) (s : State) : State :=
  let s' := clearPart cold s
  { s' with pwr := { s'.pwr with hold := true, causeBits := c } }

/-- The memory controller samples `MC_MAP` at the bring-up origin (R293). -/
def sampleMaps (t : Tbl Mc) : Tbl Mc := t.map (fun e => (e.1, { e.2 with mapLive := e.2.mapReg }))

/-- The bring-up origin (R80): the cause bits are set, FAB of every die is up and the other domains power up, and a
counter that follows a supply rise starts at the epoch (R519). -/
def origin (s : State) : State :=
  { s with
    pwr := { s.pwr with
      hold := false, perstHolds := false, causeBits := 0
      originAt := if s.pwr.causeBits % 2 = 1 then 0 else s.time.now
      cause := s.pwr.cause ||| BitVec.ofNat 32 s.pwr.causeBits
      domUp := (List.range (dies s)).map (fun d => 16 * d + 15)
      domRising := (List.range (16 * dies s)).filter (fun x => decide (x % 16 ≠ 15)) }
    time := { s.time with now := if s.pwr.causeBits % 2 = 1 then 0 else s.time.now }
    mcs := sampleMaps s.mcs }

/-- A link reset (R73, R74, R467): the configuration space, the MSI-X table and its pending bits, `HOST_APER` and `HOST_SDP_SEL` are
at their reset values, the host targets asleep; everything else is kept. -/
def linkReset (s : State) : State :=
  let s := { s with
    host := { hold := s.host.hold, held := s.host.held, boot := s.host.boot, abort := s.host.abort, bootDone := s.host.bootDone
              bootSet := s.host.bootSet, bootList := s.host.bootList }
    ic := { s.ic with msixPend := [] } }
  evalIc [] (bump pgPwr 0 1 s)

/-- Dies whose DRAM layer `i` of a store reads (R105). -/
def layerDies (g : Nat → Word) (i : Nat) : List Nat :=
  let c := layCfg g i
  if c.kind = 2 then [entDie c.source]
  else if c.kind = 3 then [c.source / 64]
  else if c.drawn then (List.range (c.nbuf + 1)).map (fun b => (layBuf g i b).1)
  else []

/-- A set that names a page of die `d` is QUEUED, CHECK or APPLY. -/
def dieSetBusy (s : State) (d : Nat) : Bool :=
  s.sets.any (fun e => setBusy s e.1 &&
    ((membersOf false e.2.entry).any (fun k => decide (keyDie k = d)) || (membersOf true e.2.entry).any (fun p => decide (tablePageDie p = some d))))

/-- R105, R284: what keeps die `d` awake; every task slot has to be free. -/
def dieInUse (s : State) (d : Nat) : Bool :=
  let g := liveW s
  (List.range' (32 * d) 32).any (notIdle s) || (List.range' (4 * d) 4).any (fun l => (portOf g l).isSome) ||
    (validEnts s.live).any (fun e => decide (entDie e = d)) || (validFlows s.live).any (fun f => decide (entDie f = d)) ||
    (aflPages s.live).any (fun f => decide (f / 64 = d) && (aflCfg g f).valid) ||
    (validLayers s.live).any (fun i => (layerDies g i).contains d) || decide (s.host.aperDie = d) || dieSetBusy s d ||
    !(dsp s d).items.isEmpty

/-- SUPPLY_RISE (R508): every rail is in range; the cold reset is held for 2 ms more. -/
def execSupplyRise (s : State) : Host.Outcome State Fault Refusal :=
  .next (if s.pwr.supplied then s
    else assertReset true causeColdSupply { s with pwr := { s.pwr with supplied := true } })

/-- SUPPLY_FALL (R509): reset is asserted, every output goes to high impedance; DRAM and SRAM are lost, flash and the
persistent tack store are kept (R496: the working store is loaded again at boot). -/
def execSupplyFall (s : State) : Host.Outcome State Fault Refusal :=
  let s' := clearPart true s
  .next { s' with pwr := { s'.pwr with supplied := false }
                  tack := { slots := s.tack.saved, saved := s.tack.saved, idPub := s.tack.idPub, kept := s.tack.kept } }

/-- PERST_ASSERT (R73, R77, R79): a warm reset, or a link reset when PERST_MODE is 1; asserted under another reset it
only waits for that reset's release. -/
def execPerstAssert (s : State) : Host.Outcome State Fault Refusal :=
  if s.pwr.perst then .next s
  else
    let s := { s with pwr := { s.pwr with perst := true } }
    if inReset s then .next s
    else if s.pwr.perstMode then .next (linkReset s)
    else
      let s' := clearPart false s
      .next { s' with pwr := { s'.pwr with perstHolds := true, causeBits := causeWarmPerst } }

/-- PERST_RELEASE (R79, R80): it ends the reset PERST# held, or sets LINK_PERST as the link reset it caused is released. DESIGN CHOICE:
PERST# asserted with PERST_MODE 1 while another reset is in force counts no link reset of its own, and is one whose release sets
LINK_PERST all the same. -/
def execPerstRelease (s : State) : Host.Outcome State Fault Refusal :=
  if !s.pwr.perst then .next s
  else
    let s := { s with pwr := { s.pwr with perst := false } }
    if s.pwr.perstHolds then .next (origin s)
    else if inReset s then .next s
    else .next { s with pwr := { s.pwr with cause := s.pwr.cause ||| BitVec.ofNat 32 causeLinkPerst } }

/-- PCIE_LINK_RESET (R73, R74, R79, R467): the PCI Express controller and the HOST page only. `dropped` queued messages
of host targets are dropped with it. -/
def execPcieLinkReset (dropped : Nat) (s : State) : Host.Outcome State Fault Refusal :=
  .next (whenUp s (fun s =>
    let s := bump 1 3 dropped (linkReset s)
    { s with pwr := { s.pwr with cause := s.pwr.cause ||| BitVec.ofNat 32 causeLinkPcie } }))

/-- WARM_RESET_REQUEST (R78): a write of `PWR_RESET` with its key and KIND 0b01. -/
def execWarmResetRequest (v : Word) (s : State) : Host.Outcome State Fault Refusal :=
  .next (whenUp s (guard' (decide (fld v 31 16 = 0xA5C3) && decide (fld v 1 0 = 1)) (assertReset false causeWarmReq)))

/-- COLD_RESET_REQUEST (R78): a write of `PWR_RESET` with its key and KIND 0b10. -/
def execColdResetRequest (v : Word) (s : State) : Host.Outcome State Fault Refusal :=
  .next (whenUp s (guard' (decide (fld v 31 16 = 0xA5C3) && decide (fld v 1 0 = 2)) (assertReset true causeColdReq)))

/-- RESET_RELEASE (R78–R80): the 2 ms hold expires; PERST# still asserted with PERST_MODE 0 holds the part on, and its own
cause bit is set too at the release. DESIGN CHOICE: R79 lists COLD_SUPPLY, COLD_REQ and WARM_REQ as the original causes that are set
with WARM_PERST; WARM_LC is treated as they are. -/
def execResetRelease (s : State) : Host.Outcome State Fault Refusal :=
  if !(s.pwr.supplied && s.pwr.hold) then .next s
  else if s.pwr.perst && !s.pwr.perstMode then
    .next { s with pwr := { s.pwr with hold := false, perstHolds := true
                                       causeBits := s.pwr.causeBits ||| causeWarmPerst } }
  else .next (origin s)

/-- Granule 0 of every die is wiped; a die whose DRAM failed to train has none (R81, R309). -/
def firstGranules (s : State) : Bool :=
  (List.range (dies s)).all (fun d => decide (0 < granules s d) || (page s (pkey d 0x101)).fault)

/-- CTRL_STORE_ZEROISED (R81, R88). -/
def execCtrlStoreZeroised (d : Nat) (s : State) : Host.Outcome State Fault Refusal :=
  atDie d s (fun s => { s with pwr := { s.pwr with ctrlZero := NSet.add s.pwr.ctrlZero d } })

/-- GRANULE_WIPED (R81, R89): the next granule in ascending order holds zero data; the last one makes MC ready, after the die's
lanes (R81). In recovery no firmware starts and no lane is calibrated (R485), and the wipe goes on. -/
def execGranuleWiped (d : Nat) (s : State) : Host.Outcome State Fault Refusal :=
  atDie d s (guard' (s.pwr.trained.contains d && (decide (granules s d < 59) ||
      (decide (granules s d = 59) && (s.fw.recovery || (s.pwr.pkgReady && s.pwr.fwReady && lanesReady s d))))) (fun s =>
    { s with pwr := { s.pwr with granules := s.pwr.granules.set (fun _ => 0) d (granules s d + 1) } }))

/-- PACKAGE_PAGES_READY (R81): READY of PKG, HOST, IC, TIME, PWR and AUD rises, after granule 0 of every die. -/
def execPackagePagesReady (s : State) : Host.Outcome State Fault Refusal :=
  .next (whenUp s (guard' (firstGranules s) (fun s => { s with pwr := { s.pwr with pkgReady := true } })))

/-- The busy windows of die `d` begin (R288). DESIGN CHOICE: when the SRAM that holds the DSP page is zeroised. -/
def windowsBegin (d : Nat) (s : State) : State :=
  modDsp d (fun x => { x with winStart := s.time.now, winNow := x.window, acc := [] }) s

/-- SRAM_ZEROISED (R81, R88): the remaining 28 MiB of the die, once the firmware has powered both SRAM banks. -/
def execSramZeroised (d : Nat) (s : State) : Host.Outcome State Fault Refusal :=
  atDie d s (guard' (s.pwr.fwReady && s.pwr.domUp.contains (16 * d + 13) && s.pwr.domUp.contains (16 * d + 14))
    (fun s => windowsBegin d { s with pwr := { s.pwr with sramZero := NSet.add s.pwr.sramZero d } }))

/-- A domain may reach power-good: at bring-up the blocks' domains follow the SRAM wipe, and the SRAM banks follow the
firmware's start (R81); afterwards any. -/
def mayRise (s : State) (d i : Nat) : Bool :=
  s.pwr.domRising.contains (16 * d + i) &&
    (s.pwr.domOnce.contains (16 * d + i) ||
      (if i = 13 ∨ i = 14 then s.pwr.fwReady else if i ≤ 7 ∨ i = 10 then s.pwr.sramZero.contains d else true))

/-- DOMAIN_POWER_UP_DONE (R81, R102, R109): the domain is up and its local state zeroised; a set that waited for the last
of its domains enters APPLY. -/
def execDomainPowerUpDone (d i : Nat) (s : State) : Host.Outcome State Fault Refusal :=
  atDie d s (guard' (decide (i < 15) && mayRise s d i) (fun s =>
    let x := 16 * d + i
    let s := { s with pwr := { s.pwr with
      domRising := NSet.del s.pwr.domRising x, domUp := NSet.add s.pwr.domUp x, domOnce := NSet.add s.pwr.domOnce x } }
    domainsSettled (bump pgPwr 5 1 s)))

/-- Pages of die `d` that the domain of index `i` powers. -/
def domainPages (d i : Nat) : List Nat := (pagesOf d).filter (fun k => !packagePage (keyPage k) && (pageDomain (keyPage k)).contains i)

/-- DOMAIN_POWER_GOOD_TIMEOUT (R87, R102, R109): FAULT in the domain's pages, DOMAIN_FAULT, and a waiting set that needs it
is refused with LIFECYCLE at READY of the first page of that domain. -/
def execDomainPowerGoodTimeout (d i : Nat) (s : State) : Host.Outcome State Fault Refusal :=
  atDie d s (guard' (decide (i < 15) && s.pwr.domRising.contains (16 * d + i)) (fun s0 =>
    let x := 16 * d + i
    let ks := domainPages d i
    let s := { s0 with pwr := { s0.pwr with
      domRising := NSet.del s0.pwr.domRising x, domFault := NSet.add s0.pwr.domFault x } }
    let s := noteEngineLost d s0 (raiseBit pgPwr 3 (setFaults ks s))
    domainFailed x (ploc (ks.headD 0) 8) s))

/-- DOMAIN_POWER_DOWN (R103): an on-demand domain that is not needed, not held and has no work item goes down and loses
its working state. -/
def execDomainPowerDown (d i : Nat) (s : State) : Host.Outcome State Fault Refusal :=
  atDie d s (guard' (decide (i < 6) && s.pwr.domUp.contains (16 * d + i) && !domNeeded s d i && !domBusy s d i) (fun s =>
    bump pgPwr 6 1 { s with pwr := { s.pwr with domUp := NSet.del s.pwr.domUp (16 * d + i) } }))

/-- DOMAIN_HOLD_WRITE (R102, R104): only bits 0–5 have an effect; a held domain that is down powers up. -/
def execDomainHoldWrite (d : Nat) (v : Word) (s : State) : Host.Outcome State Fault Refusal :=
  if d < dies s then
    .next (whenUp s (fun s => powerNeeded { s with pwr := { s.pwr with domHold := s.pwr.domHold.set (fun _ => 0) d (fld v 5 0) } }))
  else .next s

/-! ## Life cycle (R91–R95) -/

/-- A refused ARM or GO (R94). -/
def lcRefuse (s : State) : State := raiseBit pgPwr 4 { s with pwr := { s.pwr with armed := false } }

/-- LC_ARM (R94). -/
def execLcArm (v : Word) (s : State) : Host.Outcome State Fault Refusal :=
  .next (whenUp s (guard' (decide (fld v 31 28 = 1)) (fun s =>
    if fld v 1 0 ≠ lcNext s.pwr.fuses ∨ 15 ≤ s.pwr.fuses ∨ anyRunning s = true ∨ anySetBusy s = true then lcRefuse s
    else { s with pwr := { s.pwr with armed := true, target := fld v 1 0 } })))

/-- The tack areas are erased and the working store and the identity key removed (R496). -/
def wipeTack (s : State) : State := { s with tack := { kept := false } }

/-- LC_GO (R94, R95): outputs stop, the tack store is wiped, RETURNED to PROVISIONED erases both settings areas, the fuse
is blown, and a warm reset follows with cause WARM_LC. -/
def execLcGo (v : Word) (s : State) : Host.Outcome State Fault Refusal :=
  .next (whenUp s (guard' (decide (fld v 31 28 = 2)) (fun s =>
    if s.pwr.armed ∧ s.pwr.target = fld v 1 0 then
      let s := wipeTack s
      let s := if lcState s.pwr.fuses = 3 then { s with fw := { s.fw with flash := { s.fw.flash with settings := [] } } } else s
      let s := { s with pwr := { s.pwr with fuses := s.pwr.fuses + 1 } }
      assertReset false causeWarmLc s
    else lcRefuse s)))

/-- LC_ARM_TIMEOUT (R94): 1 ms without a GO. -/
def execLcArmTimeout (s : State) : Host.Outcome State Fault Refusal :=
  .next (whenUp s (fun s => { s with pwr := { s.pwr with armed := false } }))

/-! ## Die sleep (R105–R108) -/

/-- Sleep entry begins (R107): READY of the die's pages falls, but for the DIE page, and the die's lanes go OFF. -/
def enterSleep (d : Nat) (s0 : State) : State :=
  let s := { s0 with pwr := { s0.pwr with entering := NSet.add s0.pwr.entering d, sleepReg := NSet.add s0.pwr.sleepReg d } }
  let s := { s with ic := { s.ic with retained := NSet.add s.ic.retained d } }
  let s := [0, 1, 2, 3].foldl (fun s i => laneOff (4 * d + i) s) s
  evalIc [] (dropReady (pagesOf d) s0 s)

/-- A sleep request is evaluated (R105): entry, or a refusal that clears the bit. -/
def evalSleep (d : Nat) (s : State) : State :=
  if d = 0 then s
  else if dieInUse s d then
    raiseBit pgPwr 0 (bump pgPwr 3 1 { s with pwr := { s.pwr with sleepReg := NSet.del s.pwr.sleepReg d } })
  else bump pgPwr 1 1 (enterSleep d s)

/-- DIE_SLEEP_REQUEST (R105–R107): a request while the die wakes is evaluated when waking completes. -/
def execDieSleepRequest (d : Nat) (s : State) : Host.Outcome State Fault Refusal :=
  if d < dies s then
    .next (whenUp s (fun s =>
      if s.pwr.waking.contains d then
        { s with pwr := { s.pwr with sleepWanted := NSet.add s.pwr.sleepWanted d, sleepReg := NSet.add s.pwr.sleepReg d } }
      else if s.pwr.asleep.contains d || s.pwr.entering.contains d then s
      else evalSleep d s))
  else .next s

/-- DIE_ASLEEP (R107, R109, R311): domains 0–14 are down and DRAM is in self-refresh; a wake requested meanwhile is acted
on at once. -/
def execDieAsleep (d : Nat) (s : State) : Host.Outcome State Fault Refusal :=
  atDie d s (guard' (s.pwr.entering.contains d) (fun s =>
    let downs := (s.pwr.domUp.filter (fun x => decide (x / 16 = d ∧ x % 16 < 15))).length
    let s := bump pgPwr 6 downs { s with pwr := { s.pwr with
      entering := NSet.del s.pwr.entering d, asleep := NSet.add s.pwr.asleep d
      domUp := s.pwr.domUp.filter (fun x => !decide (x / 16 = d ∧ x % 16 < 15))
      domRising := s.pwr.domRising.filter (fun x => decide (x / 16 ≠ d)) } }
    let s := selfRefresh d true s
    if s.pwr.wakeWanted.contains d then startWake d s else s))

/-- DIE_WAKE_REQUEST (R105, R107, R108). -/
def execDieWakeRequest (d : Nat) (s : State) : Host.Outcome State Fault Refusal :=
  if d < dies s then
    .next (whenUp s (wakeRequest d))
  else .next s

/-- The die wakes and has passed step `n` of R108. -/
def wakeAt (s : State) (d n : Nat) : Bool := s.pwr.waking.contains d && decide (s.pwr.wakeStep.get (fun _ => 0) d = n)

/-- A waking die passes step `n`. -/
def wakeTo (d n : Nat) (s : State) : State := { s with pwr := { s.pwr with wakeStep := s.pwr.wakeStep.set (fun _ => 0) d n } }

/-- Domain `i` of a waking die is up. -/
def wakeDomain (d i : Nat) (s : State) : State := { s with pwr := { s.pwr with domUp := NSet.add s.pwr.domUp (16 * d + i) } }

/-- WAKE_DOMAINS_UP (R108, R109): domains 6–14. DESIGN CHOICE: an on-demand domain that is needed or held at that instant stays down
until the next pass or the next write of its hold bit, since R108 raises 6–14 only. -/
def execWakeDomainsUp (d : Nat) (s : State) : Host.Outcome State Fault Refusal :=
  atDie d s (guard' (wakeAt s d 0) (fun s =>
    wakeTo d 1 (bump pgPwr 5 9 ((List.range' 6 9).foldl (fun s i => wakeDomain d i s) s))))

/-- WAKE_DRAM_READY (R108, R311): DRAM leaves self-refresh and refresh resumes at the classes read. -/
def execWakeDramReady (d : Nat) (codes : List Nat) (s : State) : Host.Outcome State Fault Refusal :=
  atDie d s (guard' (wakeAt s d 1) (fun s => wakeTo d 2 (readClasses d codes (selfRefresh d false s))))

/-- WAKE_INTERRUPT_RESTORE (R108, R433, R435): the die's interrupt state is back, held messages are delivered, MC is
READY. -/
def execWakeInterruptRestore (d : Nat) (s : State) : Host.Outcome State Fault Refusal :=
  atDie d s (guard' (wakeAt s d 2) (fun s => restoreInterrupts d (wakeTo d 3 s)))

/-- WAKE_SRAM_ZEROISED (R108): DSP is READY. -/
def execWakeSramZeroised (d : Nat) (s : State) : Host.Outcome State Fault Refusal :=
  atDie d s (guard' (wakeAt s d 3) (fun s => windowsBegin d (wakeTo d 4 s)))

/-- WAKE_FIRMWARE_STARTED (R107, R108): the remaining pages are READY, every lane is calibrated and goes to SEARCH, waking
ends, and a deferred sleep request is evaluated. -/
def execWakeFirmwareStarted (d : Nat) (s : State) : Host.Outcome State Fault Refusal :=
  atDie d s (guard' (wakeAt s d 4) (fun s =>
    let s := wakeTo d 0 s
    let s := { s with pwr := { s.pwr with waking := NSet.del s.pwr.waking d } }
    let s := [0, 1, 2, 3].foldl (fun s i => laneSearch (4 * d + i) s) s
    if s.pwr.sleepWanted.contains d then evalSleep d { s with pwr := { s.pwr with sleepWanted := NSet.del s.pwr.sleepWanted d } }
    else s))

end Sys2Proof.Machine
end

