-- ==== Sys2Proof/Machine/Regs.lean ====
section
/-! DEFINITION. What registers read: the page header, staged words and their mirrors, counters, and the registers of pages that
have no staged area (R36–R56, R72, R86, R93, R104, R106, R122, R162, R226, R288, R312, R351, R397, R424, R436, R450–R454, R477,
R491, R494). A read has no effect on the part, but for those that latch or claim. -/

namespace Sys2Proof.Machine

open Sys2Proof

/-- A word from a natural number. -/
def W (n : Nat) : Word := BitVec.ofNat 32 n

/-- Bit `i` when `c` holds. -/
def at' (c : Bool) (i : Nat) : Nat := if c then 2 ^ i else 0

/-- Four bytes of a list as a little-endian word. -/
def leWord (l : List Byte) (i : Nat) : Word :=
  W ((l.getD i 0).toNat + 2 ^ 8 * (l.getD (i + 1) 0).toNat + 2 ^ 16 * (l.getD (i + 2) 0).toNat + 2 ^ 24 * (l.getD (i + 3) 0).toNat)

/-- A numbered field of `w` bits for each of `l`, the first lowest. -/
def packW (w : Nat) : List Nat → Nat
  | [] => 0
  | x :: l => x % 2 ^ w + 2 ^ w * packW w l

/-! ## Latched values (R50) -/

/-- Key of a latched register `r` of page `k` for a requester. -/
def holdKey (req : Requester) (k r : Nat) : Nat := 2 * (64 * k + r) + (if req = .core then 1 else 0)

/-- The latched value. -/
def held (s : State) (req : Requester) (k r : Nat) : Word := s.hold.get (fun _ => 0) (holdKey req k r)

/-- A value latched. -/
def latch (req : Requester) (k r : Nat) (w : Word) (s : State) : State :=
  { s with hold := s.hold.set (fun _ => 0) (holdKey req k r) w }

/-! ## The header -/

/-- `READY` (R44). -/
def readyW (s : State) (k : Nat) : Word :=
  W (at' (powered s k) 3 + at' (page s k).fault 2 + at' (wiping s k) 1 + at' (ready s k) 0)

/-- Bits of a page's `STAT` that are not reserved, bits 31 to 28 apart (R58, R109, R119, R125, R161, R162, R193, R194, R225, R227,
R252, R270, R290, R313, R330, R354, R355, R398, R417, R418, R437, R458, R459, R478, R492, R499). -/
def statBits (p : Nat) : Nat :=
  if p = 0 then 2 ^ 27
  else if p = 2 then 0xFE
  else if p < 12 then 2 ^ ([0, 5, 8, 7, 5, 7, 4, 13, 13, 13, 13, 13].getD p 0) - 1
  else if p < 0x10A then 2 ^ ([4, 9, 4, 9, 3, 3, 10, 3, 5, 0].getD (p - 0x100) 0) - 1
  else if p < 0x110 then 2 ^ 4 - 1
  else if p < 0x114 then 2 ^ 6 - 1
  else if p < 0x124 then 2 ^ 2 - 1
  else if p < 0x220 then 0xF3F
  else if p < 0x240 then 2 ^ 6 - 1
  else if p < 0x260 then 2 ^ 7 - 1
  else if p < 0x340 then 2 ^ 3 - 1
  else 2 ^ 6 - 1

/-- The mask of a page's `STAT`. -/
def statMask (k : Nat) : Word := W (statBits (keyPage k) + 0xF0000000)

/-- The live conditions behind `STAT` (R46): each block's own. -/
def rawBits (s : State) (k : Nat) : Nat :=
  let d := keyDie k
  let p := keyPage k
  if p = 1 then at' s.host.up 0
  else if p = 3 then at' (qLocked s.time.quality) 0 + at' (qHold s.time.quality) 4 + at' (decide (s.time.quality = 3)) 5
  else if p = 4 then at' (!s.pwr.domFault.isEmpty) 3
  else if p = 7 then at' (pairedRole s) 0 + at' (pathFault s.yoke) 5
  else if 8 ≤ p ∧ p < 12 then
    let x := (tdm s (p - 8)).st
    at' (decide (x = .running)) 0 + at' (decide (x = .misaligned)) 1 + at' (decide (x = .fault) || decide (x = .clockLost)) 2
  else if p = 0x101 then at' (rateAtLeast (mc s d) 1) 2 + at' (fourX s d) 3 + at' (bwAlarm s d) 4
  else if p = 0x102 then at' (engineLost s d) 3
  else if p = 0x103 then at' (anyDown s d) 6
  else if p = 0x106 then at' (anyDec s d dsAwaiting) 6 + at' (anyDec s d dsUnsupported) 7
  else if p = 0x108 then at' (anyQuenched s d) 1
  else if 0x10C ≤ p ∧ p < 0x110 then at' (port s (4 * d + (p - 0x10C))).pend.isSome 3
  else if 0x110 ≤ p ∧ p < 0x114 then
    at' (linkCond s (4 * d + (p - 0x110))) 0 + at' (degradedCond s (4 * d + (p - 0x110))) 1
  else if 0x120 ≤ p ∧ p < 0x124 then at' (page s k).fault 0
  else if 0x200 ≤ p ∧ p < 0x220 then
    match (channelAt s d (p - 0x200)).bind (fun ch => stBit (chan s ch).st) with
    | some i => 2 ^ i
    | none => 0
  else if 0x220 ≤ p ∧ p < 0x240 then at' ((channelAt s d (p - 0x220)).any (fun ch => (chan s ch).bankLow)) 5
  else if 0x240 ≤ p ∧ p < 0x260 then at' ((channelAt s d (p - 0x240)).any (fun ch => (chan s ch).ckpt.isSome)) 5
  else 0

/-- `STAGE_GEN` (R52). -/
def stageGenW (s : State) (k : Nat) : Word := W (at' (page s k).dirty 31 + at' (locked false s k) 30 + (page s k).base)

/-- `COMMIT_RESULT` (R61). -/
def commitResultW (c : CSet) : Word :=
  W (setCode c.st * 2 ^ 28 + (if c.st = .failed then c.cause * 2 ^ 16 else 0) + c.gen)

/-- The alias registers of a page (R56): zero in a page of no set. -/
def aliasW (s : State) (k : Nat) (f : CSet → Word) : Word :=
  match aliasSet s k with
  | none => 0
  | some q => f (cset s q)

/-- A header word (R41). DESIGN CHOICE: COMMIT_WHERE reads zero outside FAILED, the one state in which R61 gives it a meaning. -/
def headerW (s : State) (k off : Nat) : Word :=
  let h := page s k
  if off = 0x000 then pageId (keyPage k)
  else if off = 0x004 then (if k = 0 then W (0x444400 + dies s) else 0)
  else if off = 0x008 then readyW s k
  else if off = 0x010 then h.stat
  else if off = 0x018 then W (rawBits s k)
  else if off = 0x01C then W h.again
  else if off = 0x020 ∨ off = 0x024 ∨ off = 0x028 then h.imask
  else if off = 0x030 then W (at' h.evtEn 31 + h.evtSrc)
  else if off = 0x040 then stageGenW s k
  else if off = 0x044 then aliasW s k (fun c => c.crc)
  else if off = 0x04C then aliasW s k commitResultW
  else if off = 0x050 then aliasW s k (fun c => W c.live)
  else if off = 0x054 then aliasW s k (fun c => if c.st = .failed then c.whr else 0)
  else 0

/-! ## Counters -/

/-- Lane `l`'s LANE counters read zero: all of a covered lane that is not its port's first, 5 to 8 of an unclaimed one
(R458). -/
def laneCtrHidden (s : State) (l n : Nat) : Bool :=
  match portOf (effW s) l with
  | none => decide (5 ≤ n ∧ n ≤ 8)
  | some p => decide (p ≠ l)

/-- Blocks move bytes of DRAM that the model does not count, once a channel has begun a picture, a source a decoding or an audio flow is in
effect. -/
def blocksWork (s : State) : Bool :=
  s.chans.any (fun e => decide (0 < e.2.begun)) || s.decs.any (fun e => decide (0 < e.2.auCount)) || !s.aflows.isEmpty

/-- A counter as the page shows it: selected entries, flows and histograms included (R50, R162, R289, R354); the bytes of a memory channel with
those that blocks at work read and write beyond what the model follows (R313). -/
def shownCounter (s : State) (k n : Nat) : BitVec 64 :=
  let d := keyDie k
  let p := keyPage k
  if p = 0x104 ∧ 16 ≤ n ∧ n < 20 then
    let e := fld (regW s (ploc k 0x100)) 14 0
    if entDie e = d then BitVec.ofNat 64 ((entry s e).counts.getD (n - 16) 0) else 0
  else if p = 0x108 ∧ 16 ≤ n ∧ n < 22 then
    let f := fld (regW s (ploc k 0x100)) 14 0
    if entDie f = d then BitVec.ofNat 64 ((flow s f).counts.getD (n - 16) 0) else 0
  else if p = 0x102 ∧ 96 ≤ n ∧ n < 112 then
    BitVec.ofNat 64 ((dsp s d).hist.get (fun _ => 0) (16 * (dsp s d).histSel + (n - 96)))
  else if p = 0x101 ∧ 32 ≤ n ∧ n < 64 ∧ blocksWork s = true then counter s k n + Config.unitTraffic s.fresh s.time.now (128 * k + n)
  else if 0x110 ≤ p ∧ p < 0x114 ∧ n ≤ 10 ∧ laneCtrHidden s (4 * d + (p - 0x110)) n = true then 0
  else counter s k n

/-! ## Pages with no staged area -/

/-- The HOST page (R477). -/
def hostReg (s : State) (off : Nat) : Word :=
  let h := s.host
  if off = 0x100 then W (at' h.up 31 + h.speed * 2 ^ 16 + h.width * 2 ^ 8 + at' h.flit 0)
  else if off = 0x104 then W (h.aperDie * 2 ^ 29 + h.aperBase)
  else if off = 0x108 then W (at' h.hold 31 + h.boot * 2 ^ 24 + h.bootDone % 256 * 2 ^ 16 + h.bootSet)
  else if off = 0x110 then h.sdpSel
  else if off = 0x114 then sdpInfo s
  else if 0x400 ≤ off ∧ off < 0x800 then sdpData s (off - 0x400)
  else 0

/-- The IC page (R436). -/
def icReg (s : State) (off : Nat) : Word :=
  if off = 0x120 then W s.ic.timeout
  else if off = 0x124 then W (packW 8 ((List.range 4).map (wakeDepth s)))
  else if off = 0x128 then W (packW 8 ((List.range' 4 4).map (wakeDepth s)))
  else if 0x200 ≤ off ∧ off < 0x400 then
    let h := (off - 0x200) / 4 * 2
    W (hostVector s h + hostVector s (h + 1) * 2 ^ 16)
  else 0

/-- The TIME page (R122). -/
def timeReg (s : State) (req : Requester) (off : Nat) : Word :=
  if off = 0x100 then W (s.time.quality + s.time.source * 2 ^ 8)
  else if off = 0x104 then W s.time.err
  else if off = 0x108 then (if qHold s.time.quality then W (min s.time.age 0xFFFFFFFF) else 0)
  else if off = 0x110 then W (s.time.now % 1000000000)
  else if off = 0x114 then held s req pgTime 1
  else if off = 0x118 then held s req pgTime 2
  else 0

/-- The index of a page in its die's ready map (R86). -/
def mapPage (i : Nat) : Option Nat :=
  if i < 64 then some (0x100 + i) else if i < 160 then some (0x200 + (i - 64))
  else if i < 224 then some (0x300 + (i - 160)) else if 256 ≤ i ∧ i < 512 then some (0x400 + (i - 256)) else none

/-- Die word `w` of `READY_MAP`. -/
def mapWord (s : State) (d w : Nat) : Word :=
  W (packW 1 ((List.range 32).map (fun b => match mapPage (32 * w + b) with
    | some p => if ready s (pkey d p) then 1 else 0
    | none => 0)))

/-- `PWR_GRANULE` of a die: 60 bits. -/
def granuleBits (s : State) (d : Nat) : Nat := if d < dies s then 2 ^ granules s d - 1 else 0

/-- A set of dies as bits. -/
def dieBits (l : NSet) : Nat := packW 1 ((List.range 8).map (fun d => if l.contains d then 1 else 0))

/-- The PWR page (R72). -/
def pwrReg (s : State) (off : Nat) : Word :=
  let x := s.pwr
  if off = 0x100 then W (at' x.perstMode 0)
  else if off = 0x108 then x.cause
  else if off = 0x110 then W (at' x.armed 31 + x.fuses * 2 ^ 16 + lcState x.fuses)
  else if off = 0x120 then W (dieBits x.sleepReg)
  else if off = 0x124 then W (dieBits x.entering * 2 ^ 16 + dieBits x.waking * 2 ^ 8 + dieBits x.asleep)
  else if 0x200 ≤ off ∧ off < 0x220 then
    let d := (off - 0x200) / 4
    if d < dies s then W (packW 1 ((List.range 16).map (fun i => if x.domUp.contains (16 * d + i) then 1 else 0))) else 0
  else if 0x240 ≤ off ∧ off < 0x260 then
    let d := (off - 0x240) / 4
    if d < dies s then W (x.domHold.get (fun _ => 0) d) else 0
  else if 0x280 ≤ off ∧ off < 0x2C0 then
    let g := granuleBits s ((off - 0x280) / 8)
    W (if off % 8 = 0 then g else g / 2 ^ 32)
  else if off = 0x300 then W (packW 1 ((List.range 12).map (fun p => if ready s p then 1 else 0)))
  else if 0x340 ≤ off ∧ off < 0x540 then mapWord s ((off - 0x340) / 64) ((off - 0x340) % 64 / 4)
  else 0

/-- The FW page (R491): `FW_STATE` holds its reset value until the boot, and in recovery, where no image runs, it tells of STAGED and of the
fuses alone (R485). -/
def fwReg (s : State) (off : Nat) : Word :=
  let x := s.fw
  if off = 0x100 then x.version
  else if off = 0x104 then
    if x.recovery then W (at' x.flash.full 29 + x.rollback)
    else if !s.pwr.fwReady then 0
    else W (at' x.flash.confirmed 31 + at' x.fellBack 30 + at' x.flash.full 29 + (if x.flash.confirmed then 0 else x.flash.allowance) * 2 ^ 24 +
      x.fmt * 2 ^ 16 + x.area * 2 ^ 13 + at' x.present 12 + x.rollback)
  else if off = 0x108 then x.src
  else if off = 0x10C then W x.len
  else if off = 0x114 then W (x.state * 2 ^ 28 + x.cause * 2 ^ 24 + (if x.state = 1 then Config.bytesDone s.fresh % 2 ^ 24 else x.whr))
  else if off = 0x11C then W (x.stagedRes * 2 ^ 24 + x.activeRes * 2 ^ 16 + x.activeFail * 2 ^ 8)
  else 0

/-- The TACK page (R494). -/
def tackReg (s : State) (off : Nat) : Word :=
  let x := s.tack
  let k := keySlot s x.sel
  if off = 0x134 then W (x.state * 2 ^ 28 + x.cause * 2 ^ 24 + x.slot)
  else if off = 0x138 then W x.sel
  else if off = 0x13C then W (at' k.full 31 + at' k.len256 30 + at' k.used 29)
  else if off = 0x140 then (if k.full then leWord (beBytes 4 (kcv k.len256 k.key).toNat) 0 else 0)
  else if off = 0x144 then W k.counter
  else if 0x180 ≤ off ∧ off < 0x1A0 then leWord (leBytes 32 x.nonce.toNat) (off - 0x180)
  else if 0x200 ≤ off ∧ off < 0x260 then
    match x.idPub with
    | some p => leWord (beBytes 96 p.toNat) (off - 0x200)
    | none => 0
  else if 0x300 ≤ off ∧ off < 0x3E0 then leWord (x.report ++ x.sig) (off - 0x300)
  else 0

/-- The YOKE page (R397). -/
def yokeReg (s : State) (req : Requester) (off : Nat) : Word :=
  let y := s.yoke
  if off = 0x100 then
    W (y.partner * 2 ^ 8 + at' (decide (y.role ≠ roleOff) && !y.linkLost) 5 + at' (decide (y.role ≠ roleOff) && !y.pinLost) 4 + y.role)
  else if off = 0x104 then W (y.refusal * 2 ^ 24)
  else if off = 0x108 then W y.since
  else if off = 0x10C then held s req pgYoke 0
  else if off = 0x118 then W y.takeAt
  else if off = 0x11C then held s req pgYoke 0
  else if off = 0x120 then
    match y.resyncCh with
    | some ch => W (2 ^ 31 + ch * 2 ^ 16 + y.resyncStep * 2 ^ 8 + y.resyncLeft)
    | none => 0
  else if 0x400 ≤ off ∧ off < 0x500 then
    W (packW 8 ((List.range 4).map (fun b => (ych s (off - 0x400 + b)).cause * 16 + (ych s (off - 0x400 + b)).st)))
  else 0

/-- `PHY_TXEQ_NOW` (R450): manual taps, those that training set, or those of the initial preset. -/
def tapsNow (x : Lane) : Word :=
  (if bitOf x.txeq 31 then x.txeq else x.taps.getD (Config.presetTaps (fld x.txeq 30 28))) &&& 0x0F1F3F1F

/-- A lane block of a DIE page (R450–R454). -/
def phyReg (s : State) (l r : Nat) : Word :=
  let x := lane s l
  if r = 0x00 then
    W (x.st * 2 ^ 29 + at' x.signal 28 + at' x.lock 27 + at' x.fecLock 26 + at' (x.trained && x.preTx) 25 +
      at' (if x.trained then x.preRx else !x.noPre) 24)
  else if r = 0x04 then x.txeq
  else if r = 0x08 then tapsNow x
  else if r = 0x0C then W (at' x.freeze 31 + at' x.noPre 29 + x.ctle * 2 ^ 16 + x.dfe1)
  else if r = 0x10 then W (x.dwell * 2 ^ 16 + x.eye * 2 ^ 8)
  else if r = 0x14 then W (at' x.busy 31 + at' x.done 30 + at' x.aborted 29 + x.cells)
  else if r = 0x18 then x.margin
  else 0

/-- The DIE page. -/
def dieReg (s : State) (d off : Nat) : Word :=
  if 0x100 ≤ off ∧ off < 0x200 then
    match blockLane d ((off - 0x100) / 0x20) with
    | some l => phyReg s l ((off - 0x100) % 0x20)
    | none => 0
  else if off = 0x300 then regW s (ploc (pkey d 0x100) 0x300)
  else if 0x400 ≤ off ∧ off < 0x480 then
    let sel := regW s (ploc (pkey d 0x100) 0x300)
    match blockLane d (fld sel 18 16) with
    | some l =>
      let c := (off - 0x400) / 2
      W (cellAt (lane s l) (fld sel 5 0) c + cellAt (lane s l) (fld sel 5 0) (c + 1) * 2 ^ 16)
    | none => 0
  else 0

/-- The MC page (R312). -/
def mcReg (s : State) (d off : Nat) : Word :=
  let x := mc s d
  if off = 0x100 then W x.mapReg
  else if off = 0x104 then W x.mapLive
  else if off = 0x110 then
    let u := fun r => min 65535 (demandUnits (x.demand + 16016 * 4000000000) r)
    W (u 108 * 2 ^ 16 + u 104)
  else if off = 0x114 then W (packW 2 ((List.range 16).map (fun i => (mch x i).rate)))
  else if off = 0x118 then W (packW 4 ((List.range 8).map (fun i => (mch x i).debt)))
  else if off = 0x11C then W (packW 4 ((List.range' 8 8).map (fun i => (mch x i).debt)))
  else if 0x120 ≤ off ∧ off < 0x150 then W (watermark x ((off - 0x120) / 4))
  else if off = 0x150 then W (packW 1 ((List.range 12).map (fun p => if x.panic.contains p then 1 else 0)))
  else if off = 0x160 then W x.errAddr
  else if off = 0x164 then x.errInfo
  else 0

/-- The DSP page (R288). -/
def dspReg (s : State) (d off : Nat) : Word :=
  let x := dsp s d
  if off = 0x100 then W x.window
  else if off = 0x104 then W x.histSel
  else if 0x110 ≤ off ∧ off < 0x120 then
    let j := (off - 0x110) / 4
    W (queueDepth x (2 * j) + queueDepth x (2 * j + 1) * 2 ^ 16)
  else if 0x120 ≤ off ∧ off < 0x13C then W (x.busy.getD ((off - 0x120) / 4) 0)
  else if off = 0x140 then W x.items.length
  else if off = 0x144 then W x.hwm
  else if off = 0x150 then W (x.admitDec * 2 ^ 16 + x.admitEng)
  else if off = 0x154 then W (x.headSet * 2 ^ 16 + x.headMin)
  else 0

/-- The FLOW page (R351). -/
def flowReg (s : State) (d off : Nat) : Word :=
  let quench := W (packW 1 ((List.range 4).map (fun j => if s.quench.contains (4 * d + j) then 1 else 0)))
  let stops := fun w => W (packW 1 ((List.range 32).map (fun b => if s.stops.contains (4096 * d + 32 * w + b) then 1 else 0)))
  if off = 0x100 then regW s (ploc (pgFlow d) 0x100)
  else if off = 0x104 ∨ off = 0x108 ∨ off = 0x10C then quench
  else if 0x140 ≤ off ∧ off < 0x180 then
    let l := 4 * d + (off - 0x140) / 16
    let p := port s l
    let st := (p.oper.map (fun x => x.start)).getD 0
    let r := off % 16
    if r = 0 then W (at' p.pend.isSome 31 + at' p.oper.isSome 30 + st / 1000000000 / 2 ^ 32 % 2 ^ 16)
    else if r = 4 then W (st / 1000000000)
    else if r = 8 then W (st % 1000000000)
    else p.wait
  else if 0x400 ≤ off ∧ off < 0x600 then stops ((off - 0x400) / 4)
  else if 0x600 ≤ off ∧ off < 0x800 then stops ((off - 0x600) / 4)
  else 0

/-- The channel whose barn engine page `k` shows. -/
def barnShown (s : State) (k : Nat) : Option Nat := channelAt s (keyDie k) (fld (regW s (ploc k 0x110)) 4 0)

/-- Stall `i` of the barn shown; FREE beyond STALLS. -/
def shownStall (s : State) (ch i : Nat) : Stall := if i < (barnCfg (effW s) ch).stalls then stall (chan s ch) i else {}

/-- `CE_BARN_MARK_LO` and `_HI`. -/
def barnMarks (s : State) (k lo : Nat) : Word :=
  match barnShown s k with
  | some ch => W (packW 4 ((List.range' lo 8).map (fun i => (shownStall s ch i).mark)))
  | none => 0

/-- `CE_BARN_PIN` (R226). DESIGN CHOICE: bits 31–16 read 0 while no checkpoint is held. -/
def barnPins (s : State) (k : Nat) : Word :=
  match barnShown s k with
  | some ch => W (pinBits (chan s ch) + (chan s ch).ckpt.getD 0 % 2 ^ 16 * 2 ^ 16)
  | none => 0

/-- `CE_BARN_POC` of stall `i`. -/
def barnPoc (s : State) (k i : Nat) : Word :=
  match barnShown s k with
  | some ch => W (at' (decide ((shownStall s ch i).mark ≠ mkFree)) 31 + (stall (chan s ch) i).poc % 2 ^ 16)
  | none => 0

/-- A CE page (R226). -/
def ceReg (s : State) (req : Requester) (k off : Nat) : Word :=
  let d := keyDie k
  let e := keyPage k - 0x120
  if off = 0x100 then
    W (packW 1 ((List.range 32).map (fun i => match channelAt s d i with
      | some ch =>
        if (engines (engMask (if (chan s ch).seat.isSome then effW s else liveW s) ch)).contains e then 1 else 0
      | none => 0)))
  else if off = 0x104 then
    match (dsp s d).items.find? (fun i => decide (i.unit = some e) && !i.ended) with
    | some i => W (2 ^ 8 + i.owner % 32)
    | none => 0
  else if off = 0x110 then regW s (ploc k 0x110)
  else if off = 0x114 then barnMarks s k 0
  else if off = 0x118 then held s req k 8
  else if off = 0x11C then held s req k 9
  else if 0x120 ≤ off ∧ off < 0x160 then held s req k (16 + (off - 0x120) / 4)
  else 0

/-- A word of a page that has no staged area. -/
def blockReg (s : State) (req : Requester) (k off : Nat) : Word :=
  let d := keyDie k
  let p := keyPage k
  if p = 1 then hostReg s off
  else if p = 2 then icReg s off
  else if p = 3 then timeReg s req off
  else if p = 4 then pwrReg s off
  else if p = 5 then fwReg s off
  else if p = 6 then tackReg s off
  else if p = 7 then yokeReg s req off
  else if p = 0x100 then dieReg s d off
  else if p = 0x101 then mcReg s d off
  else if p = 0x102 then dspReg s d off
  else if p = 0x104 then (if off = 0x100 then regW s (ploc k 0x100) else 0)
  else if p = 0x108 then flowReg s d off
  else if 0x120 ≤ p ∧ p < 0x124 then ceReg s req k off
  else 0

/-- What an aligned word of BAR0 reads (R36, R38, R41, R51). -/
def readPage (s : State) (req : Requester) (k off : Nat) : Word :=
  if !pageExists s k then 0
  else if off < 0x100 then headerW s k off
  else if off < 0x800 then (if stagedPage (keyPage k) then stagedW s (ploc k off) else blockReg s req k off)
  else if off < 0xC00 then
    if 0x900 ≤ off ∧ stagedPage (keyPage k) = true then liveW s (ploc k (off - 0x800)) else 0
  else if off % 8 = 0 then W ((shownCounter s k ((off - 0xC00) / 8)).toNat % 2 ^ 32)
  else held s req k 0

/-- A word of the commit table (R54). -/
def commitTableW (s : State) (q w : Nat) : Word :=
  if w = 15 then W (setCode (cset s q).st * 2 ^ 28 + (cset s q).live) else if w = 14 then 0 else ctabW s q w

/-- What an aligned word of BAR2 reads, the DRAM aperture apart (R39, R424). -/
def readBar2 (s : State) (o : Nat) : Word :=
  if o < 0x10000 then commitTableW s (o / 64) (o % 64 / 4)
  else if o < 0x14000 then routeWord s ((o - 0x10000) / 4)
  else if tablePageOk s (o / 4096) then stagedW s (bar2loc o) &&& readMask (bar2loc o)
  else if 0x10000000 ≤ o ∧ tablePageOk s ((o - 0x10000000) / 4096) = true then
    liveW s (bar2loc (o - 0x10000000)) &&& readMask (bar2loc (o - 0x10000000))
  else 0

/-- What an aligned word of BAR4 reads: the MSI-X table and the pending bits (R461). -/
def readBar4 (s : State) (o : Nat) : Word :=
  if o < 0x2000 then s.host.msixTab.get msixReset (o / 4)
  else if 0x8000 ≤ o ∧ o < 0x8040 then W (packW 1 ((List.range 32).map (fun i => if vectorPends s ((o - 0x8000) / 4 * 32 + i) then 1 else 0)))
  else 0

/-- The word at a location that a register access of `size` bytes reads, of 8 bytes the lower (R4, R36, R38, R463); a location is a BAR0
address, 2^28 plus a BAR2 offset, or 2^28 + 2^30 plus a BAR4 offset. -/
def readReg (s : State) (req : Requester) (a size : Nat) : Word :=
  if inReset s || decide (a % 4 ≠ 0) then 0
  else if a < 2 ^ 28 then (if size = 4 then readPage s req (a / 4096) (a % 4096) else 0)
  else if size ≠ 4 ∧ (size ≠ 8 ∨ a % 8 ≠ 0) then 0
  else if a < 2 ^ 28 + 2 ^ 30 then readBar2 s (a - 2 ^ 28)
  else readBar4 s (a - (2 ^ 28 + 2 ^ 30))

/-- The function decodes the requester's memory requests: a control core's always, the host's not in D3hot (R460). -/
def decoded (req : Requester) (s : State) : Bool := decide (req = .core) || !s.host.d3hot

/-- What a register access of `size` bytes answers: nothing where the function does not decode it (R460), both words of an aligned access
of 8 bytes outside BAR0 (R463). -/
def readAccess (s : State) (req : Requester) (a size : Nat) : Option (BitVec 64) :=
  if !decoded req s then none
  else
    let lo := (readReg s req a size).setWidth 64
    some (if size = 8 ∧ a % 8 = 0 ∧ 2 ^ 28 ≤ a then ((readReg s req (a + 4) 4).setWidth 64 <<< 32) ||| lo else lo)

end Sys2Proof.Machine
end

