-- ==== Sys2Proof/Machine/RegCmds.lean ====
section
/-! DEFINITION. Register commands (R4, R36–R63): writes, with the registers of the pages that have no staged area; the header's
status, mask and commit registers; and the reads that latch. -/

namespace Sys2Proof.Machine

open Sys2Proof

/-- The state an outcome leaves; a command that stops leaves the state it found. -/
def outState (s : State) (o : Host.Outcome State Fault Refusal) : State :=
  match o with
  | .next t => t
  | _ => s

/-- A command as a step of a register write. -/
def via (f : State → Host.Outcome State Fault Refusal) (s : State) : State := outState s (f s)

/-! ## Header registers -/

/-- `IMASK_SET` (R48). -/
def imaskSetOp (k : Nat) (v : Word) (s : State) : State := setImask k ((page s k).imask ||| v) false s

/-- `IMASK_CLR` (R48, R49). -/
def imaskClrOp (k : Nat) (v : Word) (s : State) : State := setImask k ((page s k).imask &&& ~~~v) true s

/-- A write to a commit register other than `COMMIT`: `STAGE_CRC` is the set's; the others are read-only; a page of no set discards
it (R56). -/
def aliasWrite (k off : Nat) (v : Word) (s : State) : State :=
  match aliasSet s k with
  | none => raiseBit k 28 s
  | some q => if off = 0x044 then modSet q (fun c => { c with crc := v }) s else s

/-- A write to the header of page `k` (R41). -/
def writeHeader (k off : Nat) (v : Word) (s : State) : State :=
  if off = 0x010 then clearStat k v 0 s
  else if off = 0x014 then raise k (v &&& statMask k) s
  else if off = 0x01C then writeAgain k v false s
  else if off = 0x020 then setImask k v true s
  else if off = 0x024 then imaskSetOp k v s
  else if off = 0x028 then imaskClrOp k v s
  else if off = 0x030 then writeEvt k v s
  else if off = 0x048 then commitWrite k v s
  else if off = 0x044 ∨ off = 0x04C ∨ off = 0x050 ∨ off = 0x054 then aliasWrite k off v s
  else s

/-! ## Pages with no staged area -/

/-- Bytes `i` to `i + 3` of a little-endian bit vector replaced. -/
def putBytes (n : Nat) (x : BitVec n) (i : Nat) (v : Word) : BitVec n :=
  (x &&& ~~~(BitVec.ofNat n (0xFFFFFFFF * 2 ^ (8 * i)))) ||| BitVec.ofNat n (v.toNat * 2 ^ (8 * i))

/-- The HOST page (R477). -/
def writeHost (off : Nat) (v : Word) (s : State) : State :=
  if off = 0x104 then aperPlace v s
  else if off = 0x108 then
    let s := if bitOf v 31 then holdRelease s else s
    if bitOf v 30 then bootAbortOp s else s
  else if off = 0x110 then { s with host := { s.host with sdpSel := v &&& 0x37FFF } }
  else s

/-- The IC page (R436). -/
def writeIc (off : Nat) (v : Word) (s : State) : State :=
  if off = 0x100 then icSend senderHost v s
  else if off = 0x104 then icClear v false s
  else if off = 0x108 then icEnable v true false s
  else if off = 0x10C then icEnable v false false s
  else if off = 0x110 then icMask v true false s
  else if off = 0x114 then icMask v false false s
  else if off = 0x118 then icRemote v s
  else if off = 0x120 then
    if fld v 15 0 = 0 then s else { s with ic := { s.ic with timeout := fld v 15 0 } }
  else if 0x180 ≤ off ∧ off < 0x200 then icComplete ((off - 0x180) / 4) v s
  else if 0x200 ≤ off ∧ off < 0x400 then
    let h := (off - 0x200) / 4 * 2
    { s with ic := { s.ic with hvec := (s.ic.hvec.set (fun i => i) h (fld v 8 0)).set (fun i => i) (h + 1) (fld v 24 16) } }
  else if 0x400 ≤ off ∧ off < 0x800 then icComplete (32 + (off - 0x400) / 4) v s
  else s

/-- `PWR_SLEEP` (R105): each bit that changes is a request; bit 0 is discarded. -/
def writeSleep (v : Word) (s : State) : State :=
  ((List.range (dies s)).filter (fun d => decide (d ≠ 0))).foldl (fun s d =>
    if bitOf v d = s.pwr.sleepReg.contains d then s
    else via (if bitOf v d then execDieSleepRequest d else execDieWakeRequest d) s) s

/-- The PWR page (R72). DESIGN CHOICE: PERST_MODE written from 1 to 0 while PERST# is asserted starts no reset and does not hold the
part; the mode acts at the next assertion (R79, R80). -/
def writePwr (off : Nat) (v : Word) (s : State) : State :=
  if off = 0x100 then { s with pwr := { s.pwr with perstMode := bitOf v 0 } }
  else if off = 0x104 then
    if fld v 1 0 = 1 then via (execWarmResetRequest v) s else via (execColdResetRequest v) s
  else if off = 0x108 then { s with pwr := { s.pwr with cause := v &&& 0x7F } }
  else if off = 0x114 then (if fld v 31 28 = 1 then via (execLcArm v) s else via (execLcGo v) s)
  else if off = 0x120 then writeSleep v s
  else if 0x240 ≤ off ∧ off < 0x260 then via (execDomainHoldWrite ((off - 0x240) / 4) v) s
  else s

/-- The FW page (R491). -/
def writeFw (off : Nat) (v : Word) (s : State) : State :=
  if off = 0x108 then { s with fw := { s.fw with src := v &&& 0xE03FFFFF } }
  else if off = 0x10C then { s with fw := { s.fw with len := fld v 23 0 } }
  else if off = 0x110 then fwCommand v s
  else if off = 0x118 then fwConfirm v s
  else s

/-- The TACK page (R494). -/
def writeTack (off : Nat) (v : Word) (s : State) : State :=
  if 0x100 ≤ off ∧ off < 0x120 then { s with tack := { s.tack with keyBuf := putBytes 256 s.tack.keyBuf (off - 0x100) v } }
  else if 0x120 ≤ off ∧ off < 0x12C then { s with tack := { s.tack with saltBuf := putBytes 96 s.tack.saltBuf (off - 0x120) v } }
  else if off = 0x130 then tackCommand v s
  else if off = 0x138 then { s with tack := { s.tack with sel := fld v 11 0 } }
  else if 0x180 ≤ off ∧ off < 0x1A0 then { s with tack := { s.tack with nonce := putBytes 256 s.tack.nonce (off - 0x180) v } }
  else s

/-- A lane block of a DIE page (R450–R455). -/
def writePhy (l r : Nat) (v : Word) (s : State) : State :=
  if r = 0x04 then writeTxeq l v s
  else if r = 0x0C then writeRxeq l v s
  else if r = 0x10 then writeEye l v s
  else s

/-- The DIE page. -/
def writeDie (d off : Nat) (v : Word) (s : State) : State :=
  if 0x100 ≤ off ∧ off < 0x200 then
    match blockLane d ((off - 0x100) / 0x20) with
    | some l => writePhy l ((off - 0x100) % 0x20) v s
    | none => s
  else if off = 0x300 then setReg (ploc (pkey d 0x100) 0x300) (v &&& 0x7003F) s
  else s

/-- The MC page (R293, R312): a reserved GROUP or GRAIN keeps its field. -/
def writeMc (d off : Nat) (v : Word) (s : State) : State :=
  if off = 0x100 then
    modMc d (fun m => { m with mapReg :=
      (if fld v 6 4 ≤ 4 then fld v 6 4 else m.mapReg / 16) * 16 + (if fld v 3 0 ≤ 8 then fld v 3 0 else m.mapReg % 16) }) s
  else if 0x120 ≤ off ∧ off < 0x150 then
    if fld v 5 0 = 0 then s else modMc d (fun m => { m with wm := m.wm.set (fun _ => 0x10) ((off - 0x120) / 4) (fld v 5 0) }) s
  else if off = 0x164 then clearErr d v s
  else s

/-- The DSP page (R288). -/
def writeDsp (d off : Nat) (v : Word) (s : State) : State :=
  if off = 0x100 then
    if 10 ≤ fld v 19 0 ∧ fld v 19 0 ≤ 1000000 then modDsp d (fun x => { x with window := fld v 19 0 }) s else s
  else if off = 0x104 then modDsp d (fun x => { x with histSel := fld v 4 0 }) s
  else if off = 0x144 then (if fld v 9 0 = 0 then modDsp d (fun x => { x with hwm := 0 }) s else s)
  else s

/-- Flows of word `w` of die `d` that a stop word names. -/
def stopWord (d w : Nat) (v : Word) : List Nat := ((List.range 32).filter (bitOf v)).map (fun b => 4096 * d + 32 * w + b)

/-- Ports of die `d` that a quench word names. -/
def quenchWord (d : Nat) (v : Word) : List Nat := ((List.range 4).filter (bitOf v)).map (fun j => 4 * d + j)

/-- The FLOW page (R351). -/
def writeFlow (d off : Nat) (v : Word) (s : State) : State :=
  if off = 0x100 then setReg (ploc (pgFlow d) 0x100) (v &&& 0x7FFF) s
  else if off = 0x108 then quenchPorts d (quenchWord d v) s
  else if off = 0x10C then unquenchPorts (quenchWord d v) s
  else if 0x400 ≤ off ∧ off < 0x600 then stopFlows (stopWord d ((off - 0x400) / 4) v) s
  else if 0x600 ≤ off ∧ off < 0x800 then startFlows (stopWord d ((off - 0x600) / 4) v) s
  else s

/-- A register of a page that has no staged area. -/
def writeBlock (k off : Nat) (v : Word) (s : State) : State :=
  let d := keyDie k
  let p := keyPage k
  if p = 1 then writeHost off v s
  else if p = 2 then writeIc off v s
  else if p = 4 then writePwr off v s
  else if p = 5 then writeFw off v s
  else if p = 6 then writeTack off v s
  else if p = 7 then (if off = 0x110 then yokeCmd v s else s)
  else if p = 0x100 then writeDie d off v s
  else if p = 0x101 then writeMc d off v s
  else if p = 0x102 then writeDsp d off v s
  else if p = 0x104 then (if off = 0x100 then setReg (ploc k 0x100) (v &&& 0x7FFF) s else s)
  else if p = 0x108 then writeFlow d off v s
  else if 0x120 ≤ p ∧ p < 0x124 then (if off = 0x110 then setReg (ploc k 0x110) (v &&& 0x1F) s else s)
  else s

/-- A write to an aligned word of BAR0. -/
def writePage (k off : Nat) (v : Word) (s : State) : State :=
  if !pageExists s k then s
  else if off < 0x100 then writeHeader k off v s
  else if off < 0x800 then (if stagedPage (keyPage k) then stagePage k off v s else writeBlock k off v s)
  else s

/-- A write to an aligned word of BAR2. -/
def writeBar2 (o : Nat) (v : Word) (s : State) : State :=
  if o < 0x10000 then writeEntry (o / 64) (o % 64 / 4) v s
  else if o < 0x14000 then routeSource ((o - 0x10000) / 4) v s
  else stageTable o v s

/-- A write to an aligned word of BAR4 (R461): of the MSI-X table; unmasked vectors that pend are sent. The pending bits are
read-only. -/
def writeBar4 (o : Nat) (v : Word) (s : State) : State :=
  if o < 0x2000 then
    let i := o / 4
    let s := { s with host := { s.host with
      msixTab := s.host.msixTab.set msixReset i (if i % 4 = 3 then v &&& 1 else if i % 4 = 0 then v &&& 0xFFFFFFFC else v) } }
    if s.host.up && s.host.msixEn then flushMsix s else s
  else s

/-- An aligned access of 4 or 8 bytes as words, the lower first (R463). -/
def writeWords (k : Nat → Word → State → State) (o size : Nat) (v : BitVec 64) (s : State) : State :=
  if size = 4 ∧ o % 4 = 0 then k o (v.setWidth 32) s
  else if size = 8 ∧ o % 8 = 0 then k (o + 4) ((v >>> 32).setWidth 32) (k o (v.setWidth 32) s)
  else s

/-- A register write of `size` bytes at a location (R4, R36, R38, R463): a location is a BAR0 address, 2^28 plus a BAR2 offset, or
2^28 + 2^30 plus a BAR4 offset. A BAR0 access is one word. -/
def writeReg (a size : Nat) (v : BitVec 64) (s : State) : State :=
  if a < 2 ^ 28 then (if size = 4 ∧ a % 4 = 0 then writePage (a / 4096) (a % 4096) (v.setWidth 32) s else s)
  else if a < 2 ^ 28 + 2 ^ 30 then writeWords writeBar2 (a - 2 ^ 28) size v s
  else writeWords writeBar4 (a - (2 ^ 28 + 2 ^ 30)) size v s

/-! ## Commands -/

/-- A command on the header of page `p` of die `d`: an absent die or unlisted page discards it (R4, R38). -/
def onPage (d p : Nat) (k : Nat → State → State) (s : State) : Host.Outcome State Fault Refusal :=
  .next (whenUp s (guard' (decide (p < 8192) && pageExists s (pkey d p)) (k (pkey d p))))

/-- REGISTER_WRITE (R42): the register's type decides. -/
def execRegisterWrite (req : Requester) (a size : Nat) (v : BitVec 64) (s : State) : Host.Outcome State Fault Refusal :=
  .next (whenUp s (guard' (decoded req s) (writeReg a size v)))

/-- STAGE_WRITE (R51–R53) to a staged word of a page, or of a table of BAR2. -/
def execStageWrite (req : Requester) (bar2 : Bool) (a size : Nat) (v : BitVec 64) (s : State) : Host.Outcome State Fault Refusal :=
  .next (whenUp s (guard' (decoded req s) (if bar2 then writeWords stageTable a size v
    else guard' (decide (size = 4) && decide (a % 4 = 0) && decide (a < 2 ^ 28)) (stagePage (a / 4096) (a % 4096) (v.setWidth 32)))))

/-- COMMIT_TABLE_WRITE (R54, R57). -/
def execCommitTableWrite (q w : Nat) (v : Word) (s : State) : Host.Outcome State Fault Refusal := .next (whenUp s (writeEntry q w v))

/-- COMMIT (R60–R63, R94). -/
def execCommit (d p : Nat) (v : Word) (s : State) : Host.Outcome State Fault Refusal := onPage d p (fun k => commitWrite k v) s

/-- COMMIT_CHECK_START (R62). -/
def execCommitCheckStart (s : State) : Host.Outcome State Fault Refusal := .next (whenUp s checkStart)

/-- COMMIT_CHECK_END (R62–R69, R102, R365). -/
def execCommitCheckEnd (s : State) : Host.Outcome State Fault Refusal := .next (whenUp s checkEnd)

/-- STAT_CLEAR (R46): `hit` are the bits on which an event falls in the same cycle. -/
def execStatClear (d p : Nat) (v hit : Word) (s : State) : Host.Outcome State Fault Refusal :=
  onPage d p (fun k => clearStat k v (hit &&& statMask k)) s

/-- STAT_SET (R46). -/
def execStatSet (d p : Nat) (v : Word) (s : State) : Host.Outcome State Fault Refusal :=
  onPage d p (fun k => raise k (v &&& statMask k)) s

/-- STAT_AGAIN_CLEAR (R47). -/
def execStatAgainClear (d p : Nat) (v : Word) (hit : Bool) (s : State) : Host.Outcome State Fault Refusal :=
  onPage d p (fun k => writeAgain k v hit) s

/-- IMASK_WRITE (R48, R49). -/
def execImaskWrite (d p : Nat) (v : Word) (s : State) : Host.Outcome State Fault Refusal :=
  onPage d p (fun k => setImask k v true) s

/-- IMASK_SET (R48). -/
def execImaskSet (d p : Nat) (v : Word) (s : State) : Host.Outcome State Fault Refusal := onPage d p (fun k => imaskSetOp k v) s

/-- IMASK_CLR (R48, R49). -/
def execImaskClr (d p : Nat) (v : Word) (s : State) : Host.Outcome State Fault Refusal := onPage d p (fun k => imaskClrOp k v) s

/-- The low word of a counter is read, and its high word latched. -/
def counterRead (req : Requester) (k n : Nat) (s : State) : State :=
  let x := (shownCounter s k n).toNat
  emit (.read (W x)) (latch req k 0 (W (x / 2 ^ 32)) s)

/-- COUNTER_LOW_READ (R50). -/
def execCounterLowRead (req : Requester) (d p n : Nat) (s : State) : Host.Outcome State Fault Refusal :=
  onPage d p (fun k => guard' (decide (n < 128) && decoded req s) (counterRead req k n)) s

/-- `TIME_SNAP_NS` is read, and the seconds latched. -/
def timeSnap (req : Requester) (s : State) : State :=
  let sec := s.time.now / 1000000000
  emit (.read (W (s.time.now % 1000000000)))
    (latch req pgTime 2 (W (sec / 2 ^ 32 % 2 ^ 16)) (latch req pgTime 1 (W sec) s))

/-- TIME_SNAP_READ (R122). -/
def execTimeSnapRead (req : Requester) (s : State) : Host.Outcome State Fault Refusal :=
  .next (whenUp s (guard' (decoded req s) (timeSnap req)))

/-- `CE_BARN_MARK_LO` is read, and the other barn registers latched. -/
def barnRead (req : Requester) (k : Nat) (s : State) : State :=
  let t := latch req k 9 (barnPins s k) (latch req k 8 (barnMarks s k 8) s)
  emit (.read (barnMarks s k 0)) ((List.range 16).foldl (fun t i => latch req k (16 + i) (barnPoc s k i) t) t)

/-- BARN_MARK_READ (R226) on engine `e` of die `d`. -/
def execBarnMarkRead (req : Requester) (d e : Nat) (s : State) : Host.Outcome State Fault Refusal :=
  onPage d (0x120 + e) (fun k => guard' (decide (e < 4) && decoded req s) (barnRead req k)) s

/-- `YOKE_SINCE_LO` or `YOKE_TAKE_LO` is read, and its high word latched. -/
def yokeRead (req : Requester) (take : Bool) (s : State) : State :=
  let x := if take then s.yoke.takeAt else s.yoke.since
  emit (.read (W x)) (latch req pgYoke 0 (W (x / 2 ^ 32)) s)

/-- YOKE_SINCE_READ (R397). -/
def execYokeSinceRead (req : Requester) (take : Bool) (s : State) : Host.Outcome State Fault Refusal :=
  .next (whenUp s (guard' (decoded req s) (yokeRead req take)))

end Sys2Proof.Machine
end

