-- ==== Sys2Proof/Machine/HostCmds.lean ====
section
/-! DEFINITION. The PCI Express function, the boot load and the services of the control cores (R460–R481). -/

namespace Sys2Proof.Machine

open Sys2Proof

/-! ## Configuration space (R460) -/

/-- Capabilities of the function. -/
inductive PciCap where
  | express                              -- PCI Express Endpoint
  | msix (vectors : Nat)
  | power (noSoftReset : Bool)           -- Power Management: D0 and D3hot
  | aer
  | serialNumber
  | dataLinkFeature
  deriving DecidableEq, Repr

/-- What configuration space presents. -/
structure PciFunction where
  vendor     : Nat
  device     : Nat
  classCode  : Nat
  caps       : List PciCap
  maxPayload : Nat
  maxReadReq : Nat
  deriving DecidableEq, Repr

/-- The Device ID of the variant. -/
def deviceId (v : Variant) : Nat :=
  match v with
  | .vl820 => 0x0820
  | .vl840 => 0x0840
  | .vl880 => 0x0880

/-- The function of a variant (R460). -/
def pciFunction (v : Variant) : PciFunction :=
  { vendor := 0x1E5C, device := deviceId v, classCode := 0x048000
    caps := [.express, .msix 512, .power true, .aer, .serialNumber, .dataLinkFeature], maxPayload := 512, maxReadReq := 4096 }

/-! ## The link -/

/-- Host targets can be presented to (R432). -/
def hostAwake (s : State) : Bool := s.host.up && s.host.msixEn

/-- What the interrupt controller does when the function's state has changed from that in `s0` (R426, R432, R433). -/
def functionChanged (s0 s : State) : State :=
  let s := if !hostAwake s0 && hostAwake s then targetsWoke hostTargets s else evalIc [] s
  if hostAwake s then flushMsix s else s

/-- The widest link of at most `n` lanes that the part forms: 1, 2, 4 or 8 (R460). -/
def linkWidth (n : Nat) : Nat := if 8 ≤ n then 8 else if 4 ≤ n then 4 else if 2 ≤ n then 2 else n

/-- The link comes up at the highest speed and width that both ends support, of which the command names the other end's; at 64 GT/s it is in
Flit mode (R460, R477, R478). -/
def linkUp (speed width : Nat) (flit : Bool) (s : State) : State :=
  if s.host.up ∨ speed = 0 ∨ width = 0 then s
  else functionChanged s (raiseBit pgHost 0
    { s with host := { s.host with up := true, speed := min 6 speed, width := linkWidth width, flit := flit || decide (6 ≤ speed) } })

/-- A configuration write (R460, R462): it needs the link. -/
def configWrite (msixEn funcMask busMaster d3 : Bool) (s : State) : State :=
  if s.host.up then
    functionChanged s { s with host := { s.host with msixEn := msixEn, funcMask := funcMask, busMaster := busMaster, d3hot := d3 } }
  else s

/-! ## Commands -/

/-- PCIE_LINK_UP (R432, R460, R477). -/
def execPcieLinkUp (speed width : Nat) (flit : Bool) (s : State) : Host.Outcome State Fault Refusal :=
  .next (whenUp s (linkUp speed width flit))

/-- PCIE_CONFIG_WRITE (R426, R432, R460). -/
def execPcieConfigWrite (msixEn funcMask busMaster d3 : Bool) (s : State) : Host.Outcome State Fault Refusal :=
  .next (whenUp s (configWrite msixEn funcMask busMaster d3))

/-- HOST_APER_WRITE (R465, R466), from PCI Express. -/
def execHostAperWrite (v : Word) (s : State) : Host.Outcome State Fault Refusal :=
  .next (whenUp s (guard' (decoded .host s) (aperPlace v)))

/-- BOOT_LOAD_START (R479). -/
def execBootLoadStart (s : State) : Host.Outcome State Fault Refusal := .next (whenUp s bootStartOp)

/-- BOOT_WAIT_END (R479, R480). -/
def execBootWaitEnd (s : State) : Host.Outcome State Fault Refusal := .next (whenUp s bootWaitOp)

/-- HOST_BOOT_HOLD_RELEASE (R481): a write of 1 to HOLD. -/
def execHostBootHoldRelease (v : Word) (s : State) : Host.Outcome State Fault Refusal :=
  .next (whenUp s (guard' (bitOf v 31) holdRelease))

/-- HOST_BOOT_ABORT (R480): a write of 1 to ABORT. -/
def execHostBootAbort (v : Word) (s : State) : Host.Outcome State Fault Refusal :=
  .next (whenUp s (guard' (bitOf v 30) bootAbortOp))

/-- NMOS_HEARTBEAT (R472). -/
def execNmosHeartbeat (ok : Bool) (s : State) : Host.Outcome State Fault Refusal := .next (whenUp s (nmosOp ok))

/-- IS05_PATCH (R473, R474): words from 16 on are those of the pair's path B entry. -/
def execIs05Patch (receiver : Bool) (e : Nat) (words : List (Nat × Word)) (readOnly : Bool) (at' : Option Nat) (s : State) :
    Host.Outcome State Fault Refusal :=
  .next (whenUp s (is05PatchOp receiver e words readOnly at'))

/-- IS05_ACTIVATION (R474). -/
def execIs05Activation (s : State) : Host.Outcome State Fault Refusal := .next (whenUp s is05ActivationOp)

/-- DELAY_REQ_SEND (R471) on the port formed at a lane. -/
def execDelayReqSend (l : Nat) (s : State) : Host.Outcome State Fault Refusal :=
  if l < 4 * dies s then .next (whenUp s (delayReqOp l)) else .next s

end Sys2Proof.Machine
end

