-- ==== Sys2Proof/Machine/IngestCmds.lean ====
section
/-! DEFINITION. Events of ingest: a received frame on its way through the lane, the classifier and the merge (R26, R139–R160,
R445), fills, path loss and membership reports, and the commands that arrive as frames (R353). -/

namespace Sys2Proof.Machine

open Sys2Proof

/-! ## A received frame (R141) -/

/-- A PTP message: of its Ethertype, or UDP to port 319 or 320. -/
def isPtp (f : Frame) : Bool := f.ptpEth || (f.ipv4Udp && (decide (f.dport = 319) || decide (f.dport = 320)))

/-- A Sync that the servo accepts gives the grandmaster and the Sync interval; another grandmaster is another reference, which becomes
eligible under R120 (R471). -/
def acceptSync (gm : Nat) (li : Int) (s : State) : State :=
  let t := s.time
  if t.grandmaster = gm then { s with time := { t with syncInterval := li } }
  else retarget { s with time := { t with grandmaster := gm, syncInterval := li, eligPtp := false } }

/-- What a message of the chosen master tells the servo on a port (R471): a Sync's timestamp at the lane and, for one step, its origin
time; a Follow_Up's origin time for the Sync it follows; a Delay_Resp's receive time for the Delay_Req it answers. -/
def ptpTold (stamp : Int) (m : PtpMsg) (p : PtpPort) : PtpPort :=
  if m.kind = 0 then { p with syncSeq := m.seq, t2 := some stamp, t1 := if m.twoStep then none else some (m.time + m.corr) }
  else if m.kind = 8 ∧ m.seq = p.syncSeq ∧ p.t2 ≠ none then { p with t1 := some (m.time + m.corr) }
  else if m.kind = 9 ∧ m.seq = p.reqSeq ∧ p.t3 ≠ none then { p with t4 := some (m.time - m.corr) }
  else p

/-- The PTP path (R141, R449, R471) of the port whose first lane is `l`: an event message is timestamped at the lane; on a port of
`PTP_PORTS`, what the chosen master of the part's domain says goes to the servo. -/
def takePtp (l at_ : Nat) (from_ : Word) (b : Body) (s : State) : State :=
  match b with
  | .ptp m =>
    let stamp := stampOf s at_
    let s := if m.kind < 8 then draw s else s
    if ptpEn (effW s) && bitOf (effW s 0x144) l && m.chosen && decide (m.domain = ptpDomain (effW s)) then
      let s := modPtp l (fun p => { ptpTold stamp m p with master := from_ }) s
      if m.kind = 0 then acceptSync m.grandmaster m.logInterval s else s
    else s
  | _ => s

/-- A frame of the entry's kind that the policer has passed: merged, then stored (R151, R157–R159). -/
def toTarget (e t : Nat) (b : Body) (s : State) : State :=
  let c := entCfg (effW s) e
  let put := fun (bits q : Nat) (k : Nat → State → State) =>
    let r := mergeCopy e t bits q s
    match r.1 with
    | none => r.2
    | some x => k x r.2
  match b with
  | .video ts q fb segs => if c.kind = 0 then put 32 q (fun _ => takeVideo e t ts fb segs) else s
  | .audio ts q chans width count samples =>
    if c.kind = 1 then put 16 q (fun _ => takeAudio e t ts chans width count samples) else s
  | .anc ts q pkts => if c.kind = 2 then put 16 q (fun _ => takeAnc e t ts pkts) else s
  | .compressed ts q marker payload =>
    if c.kind = 3 then put 16 q (fun x => takeCompressed (entDie e) c.target x { q := x, lost := false, at_ := t, ts := ts, marker := marker, form := c.payload, pid := c.pid, payload := payload }) else s
  | _ => s

/-- A frame that matches entry `e`: policed, then passed on (R145). -/
def matched (e : Nat) (f : Frame) (s : State) : State :=
  let r := police e f.at_ f.len (bump (pgCls (entDie e)) 0 1 s)
  if r.1 then toTarget e f.at_ f.body r.2 else r.2

/-- A frame of the management class (R141, R351): what is addressed to CMD_PORT has a share of the buffer of its own, and a command
runs (R353). -/
def toMgmt (l : Nat) (f : Frame) (s : State) : State :=
  let s := bump (pgCls (l / 4)) 2 1 s
  match cmdShare s f with
  | none => mgmtArrive l f.len s
  | some p =>
    let k := p / 4 * 4
    let held := cmdHeld (port s k) s.time.now
    if 16384 < (held.map (fun e => e.2)).sum + f.len then bump (pgGate p) 14 1 (raiseBit (pgGate p) 2 s)
    else
      let s := modPort k (fun x => { x with cmdBuf := held ++ [(s.time.now, f.len)] }) s
      if (cmdAddressed s f).isSome then command p f.sport f.body s else s

/-- R141: the first rule that applies to a frame received on the port whose first lane is `p`. -/
def handleFrame (p : Nat) (f : Frame) (s : State) : State :=
  let k := pgCls (p / 4)
  if isPtp f then takePtp p f.stamp f.sip f.body (bump k 1 1 s)
  else if 1 < f.vlans.length ∨ f.frag = true ∨ f.ipsumOk = false then bump k 5 1 (raiseBit k 2 s)
  else if !f.ipv4Udp then toMgmt p f s
  else
    match classify s p f with
    | some e => matched e f s
    | none =>
      if f.dip = gateAddr (effW s) p then toMgmt p f s else bump k 3 1 (raiseBit k 0 s)

/-- The MAC of a port (R26, R30, R444, R445, R458): every frame is counted; frames with a bad FCS, too long frames, PAUSE and PFC,
and all frames while the die's ING domain is down go no further. -/
def portReceive (p : Nat) (f : Frame) (s : State) : State :=
  let k := lanePage p
  let s := bump k 1 f.len (bump k 0 1 s)
  if !f.fcsOk then bump k 2 1 s
  else if 9216 < f.len then bump k 10 1 (raiseBit k 5 s)
  else if f.pause then bump k 5 1 (raiseBit k 5 s)
  else if !s.pwr.domUp.contains (16 * (p / 4) + 6) then bump k 3 1 (raiseBit k 5 s)
  else handleFrame p f s

/-- A frame on an unclaimed lane is discarded and counted in the lane's own page, with the die's ING domain down in counter 3 too (R26,
R445, R458). -/
def strayFrame (l : Nat) (f : Frame) (s : State) : State :=
  let k := lanePage l
  let s := bump k 4 1 (bump k 1 f.len (bump k 0 1 s))
  let s := if s.pwr.domUp.contains (16 * (l / 4) + 6) then s else bump k 3 1 s
  let s := if f.fcsOk then s else bump k 2 1 s
  let s := if 9216 < f.len then bump k 10 1 s else s
  raiseBit k 5 s

/-- A frame whose last byte arrives on a lane: it needs an UP lane, or an UP port. Items that wait for its lines may become
ready. -/
def receiveFrame (f : Frame) (s : State) : State :=
  let s := advance f.at_ s
  match portOf (effW s) f.lane with
  | none => if (lane s f.lane).st = stUp then strayFrame f.lane f s else s
  | some p => if portUp s p then wakeItems (portReceive p f s) else s

/-- A frame on a lane that the variant has. -/
def atFrame (f : Frame) (s : State) (k : State → State) : Host.Outcome State Fault Refusal :=
  if f.lane < 4 * dies s then .next (whenUp s k) else .next s

/-- The frame's payload is a command with this OP. -/
def hasOp (f : Frame) (n : Nat) : Bool :=
  match f.body with
  | .command _ op _ _ _ _ => decide (op = n)
  | _ => false

/-- An event of slot `n` of die `d`. -/
def atSlot (d n : Nat) (s : State) (k : State → State) : Host.Outcome State Fault Refusal :=
  if n < 64 then atDie d s k else .next s

/-! ## Commands -/

/-- FRAME_RECEIVED (R139–R160, R353, R445). -/
def execFrameReceived (f : Frame) (s : State) : Host.Outcome State Fault Refusal := atFrame f s (receiveFrame f)

/-- LINE_FILL (R152–R154). -/
def execLineFill (d n m y : Nat) (s : State) : Host.Outcome State Fault Refusal :=
  atSlot d n s (fun s => wakeItems (lineFillOp d n m y s))

/-- A fill ends; layers that show a picture which is now whole and in which nothing was written are stale (R170, R194). -/
def fillEnds (d n m y : Nat) (s : State) : State :=
  let s1 := fillEndOp d n m y s
  if (slotPic (slot s1 d n) m).ready = (slotPic (slot s d n) m).ready then s1 else sourceMissing d n m s1

/-- FILL_END (R152, R155). -/
def execFillEnd (d n m y : Nat) (s : State) : Host.Outcome State Fault Refusal :=
  atSlot d n s (fun s => wakeItems (fillEnds d n m y s))

/-- PATH_DOWN (R151, R161) of a classifier entry. -/
def execPathDown (e t : Nat) (s : State) : Host.Outcome State Fault Refusal :=
  if e < 4096 * dies s then .next (whenUp s (pathDownOp e t)) else .next s

/-- COMPRESSED_GAP_LOST (R159). -/
def execCompressedGapLost (d n : Nat) (s : State) : Host.Outcome State Fault Refusal := atSlot d n s (gapLost d n)

/-- IGMP_REPORT (R160) of a classifier entry. -/
def execIgmpReport (e : Nat) (s : State) : Host.Outcome State Fault Refusal :=
  if e < 4096 * dies s then .next (whenUp s (igmpReportOp e)) else .next s

/-- CMD_STOP (R353): a frame that carries a STOP command. -/
def execCmdStop (f : Frame) (s : State) : Host.Outcome State Fault Refusal := atFrame f s (guard' (hasOp f 1) (receiveFrame f))

/-- CMD_START (R353). -/
def execCmdStart (f : Frame) (s : State) : Host.Outcome State Fault Refusal := atFrame f s (guard' (hasOp f 2) (receiveFrame f))

/-- CMD_QUENCH (R353). -/
def execCmdQuench (f : Frame) (s : State) : Host.Outcome State Fault Refusal := atFrame f s (guard' (hasOp f 3) (receiveFrame f))

/-- CMD_UNQUENCH (R353). -/
def execCmdUnquench (f : Frame) (s : State) : Host.Outcome State Fault Refusal := atFrame f s (guard' (hasOp f 4) (receiveFrame f))

end Sys2Proof.Machine
end

