-- ==== Sys2Proof/Machine/LaneCmds.lean ====
section
/-! DEFINITION. Events of the serial lanes and the physical-layer registers (R438–R459). -/

namespace Sys2Proof.Machine

open Sys2Proof

/-- An event of lane `l`; the part may yield for a port that lost its link (R379). -/
def atLane (l : Nat) (s : State) (k : State → State) : Host.Outcome State Fault Refusal :=
  if laneExists s l then .next (whenUp s (fun s => yieldOnConditions (k s))) else .next s

/-- An event of a yoke lane. -/
def atYk (l : Nat) (s : State) (k : State → State) : Host.Outcome State Fault Refusal :=
  if 32 ≤ l then atLane l s k else .next s

/-- A write to a register of lane block `blk` of die `d`; a block that does not exist discards it (R450). -/
def atBlock (d blk : Nat) (s : State) (k : Nat → State → State) : Host.Outcome State Fault Refusal :=
  .next (whenUp s (fun s => if d < dies s then (match blockLane d blk with
    | some l => k l s
    | none => s) else s))

/-! ## Calibration and signal (R81, R446) -/

/-- The lane's calibration ends: it searches, or its page is in FAULT. It follows the bring-up of the die's block domains, for a yoke
lane those of the lead die (R81); a die that wakes has its lanes calibrated as its firmware starts (R108), and none before that. -/
def calibrated (l : Nat) (ok : Bool) (s : State) : State :=
  if l < 32 ∧ (s.pwr.entering.contains (l / 4) || s.pwr.asleep.contains (l / 4) || s.pwr.waking.contains (l / 4)) = true then s
  else if (lane s l).st ≠ stOff ∨ (l < 32 ∧ powered s (lanePage l) = false) ∨ blocksUp s (if l < 32 then l / 4 else 0) = false then s
  else if ok then laneSearch l s
  else setFault (if l < 32 then lanePage l else pgYoke) s

/-- A signal appears on a lane that searches. -/
def signalIn (l : Nat) (s : State) : State :=
  if (lane s l).st = stSearch then laneTo l stLocking (modLane l (fun x => { x with signal := true }) s) else s

/-- Lane block and, for a yoke lane, the DIE page report a lock loss (R459). -/
def countLockLoss (l : Nat) (s : State) : State :=
  let s := dieCtr l 4 1 s
  if 32 ≤ l then raiseBit (diePageOf l) 2 s else s

/-- The signal of a lane is lost; with it goes the lock of a lane that had one (DEDUCED from R446, R459: PHY_STATE.LOCK falls). -/
def signalOut (l : Nat) (s : State) : State :=
  let st := (lane s l).st
  if st = stUp ∨ st = stTraining ∨ st = stLocking then
    let s := if (lane s l).lock then countLockLoss l s else s
    laneTo l stSearch (modLane l (fun x => { x with signal := false }) s)
  else s

/-- Training begins (R459 counter 5). -/
def startTraining (l : Nat) (s : State) : State := dieCtr l 5 1 (laneTo l stTraining s)

/-- What adaptation has come to; a frozen one holds its settings (R452). -/
def settled (ctle dfe1 : Nat) (x : Lane) : Lane :=
  if x.freeze && !x.rerun then x else { x with rerun := false, ctle := ctle % 32, dfe1 := dfe1 % 256 }

/-- Adaptation has converged (R452): a lane whose transmitter is enabled trains, after its wait when it retries; any other is UP. -/
def adapted (l ctle dfe1 : Nat) (s : State) : State :=
  if (lane s l).st ≠ stLocking then s
  else
    let s := modLane l (fun x => { settled ctle dfe1 x with converged := true }) s
    if !txEnabled s l then laneTo l stUp s
    else if (lane s l).retry then s
    else startTraining l s

/-- Training completes: taps and the transmitter's precoding are those that it set, manual taps staying (R451); the receiver decodes what
it has requested (R438, R452). -/
def trainedOp (l : Nat) (preTx : Bool) (taps : Word) (s : State) : State :=
  if (lane s l).st ≠ stTraining then s
  else
    modLane l (fun x => { x with
      trained := true, preTx := preTx, preRx := !x.noPre
      taps := if bitOf x.txeq 31 then x.taps else some (taps &&& 0x0F1F3F1F) })
      (laneTo l stUp s)

/-- No completion in 500 ms: LOCKING, and another run 100 ms later. -/
def trainTimeout (l : Nat) (s : State) : State :=
  if (lane s l).st ≠ stTraining then s
  else
    let s := dieCtr l 6 1 (laneTo l stLocking s)
    let s := if l < 32 then raiseBit (lanePage l) 3 s else s
    modLane l (fun x => { x with retry := true }) s

/-- The 100 ms are over: a lane whose adaptation has converged trains again. -/
def trainRetry (l : Nat) (s : State) : State :=
  if (lane s l).st = stLocking ∧ (lane s l).retry = true then
    let s := modLane l (fun x => { x with retry := false }) s
    if (lane s l).converged && txEnabled s l then startTraining l s else s
  else s

/-- Lock, FEC lock or alignment is lost (R439, R446, R459). -/
def lockOut (l : Nat) (s : State) : State :=
  let st := (lane s l).st
  if st = stUp ∨ st = stTraining then
    countLockLoss l (modLane l (fun x => { x with converged := false }) (laneTo l stLocking s))
  else s

/-- Lanes among which the codewords of lane `l` are spread. -/
def spread (s : State) (l : Nat) : Nat :=
  if 32 ≤ l then 1 else match portOf (effW s) l with
    | some p => max 1 (portLanes (effW s) p).length
    | none => 1

/-- A block of a port is whole once every lane's share of it is there: the port's corrected symbols are their sum (R448). -/
def joinShares (l : Nat) (s : State) : State :=
  let ls := portMates s l
  if ls.all (fun x => !(lane s x).shares.isEmpty) then
    let n := (ls.map (fun x => (lane s x).shares.headD 0)).sum
    let s := ls.foldl (fun s x => modLane x (fun y => { y with shares := y.shares.tail }) s) s
    modLane (ls.headD l) (fun y => { y with portSyms := n }) s
  else s

/-- A block of 8,192 codewords ends (R448, R458, R459): corrected symbols, corrected and uncorrectable codewords. -/
def fecBlock (l symbols words bad : Nat) (s0 : State) : State :=
  let s := dieCtr l 0 symbols (dieCtr l 1 (8192 / spread s0 l) (dieCtr l 2 words (dieCtr l 3 bad s0)))
  let s := if l < 32 then raiseN (lanePage l) 4 bad s else s
  let s := modLane l (fun x => { x with syms := symbols, shares := x.shares ++ [symbols] }) s
  allLinkEvents l s0 (joinShares l s)

/-! ## Yoke lanes (R456, R457) -/

/-- A lane of LANES that is not the beat lane goes to electrical idle. -/
def idleIn (l : Nat) (s : State) : State :=
  if (lane s l).st = stUp ∧ txEnabled s l = true ∧ beatLane s ≠ some l then dieCtr l 7 1 (laneTo l stIdle s) else s

/-- A frame queued for an idle lane ends its idle. -/
def idleOut (l : Nat) (s : State) : State :=
  if (lane s l).st = stIdle then idleExit l s else s

/-- 1 ms in IDLE: the lane exits for 4 µs, in which its receiver re-adapts, and enters again (R457). -/
def idleRefresh (l ctle dfe1 : Nat) (s : State) : State :=
  if (lane s l).st = stIdle then emit (.wakeBurst l) (dieCtr l 7 1 (dieCtr l 8 1 (modLane l (settled ctle dfe1) s))) else s

/-- The receiver has not regained lock after the start marker. -/
def exitLate (l : Nat) (s : State) : State :=
  if (lane s l).st = stUp ∨ (lane s l).st = stIdle then
    raiseBit (diePageOf l) 3 (dieCtr l 9 1 (modLane l (fun x => { x with converged := false }) (laneTo l stLocking s)))
  else s

/-! ## Commands -/

/-- LANE_CALIBRATED (R81, R108, R446). -/
def execLaneCalibrated (l : Nat) (ok : Bool) (s : State) : Host.Outcome State Fault Refusal := atLane l s (calibrated l ok)

/-- SIGNAL_DETECT (R446). -/
def execSignalDetect (l : Nat) (s : State) : Host.Outcome State Fault Refusal := atLane l s (signalIn l)

/-- SIGNAL_LOSS (R379, R446). -/
def execSignalLoss (l : Nat) (s : State) : Host.Outcome State Fault Refusal := atLane l s (signalOut l)

/-- ADAPTATION_CONVERGED (R446, R452). -/
def execAdaptationConverged (l ctle dfe1 : Nat) (s : State) : Host.Outcome State Fault Refusal := atLane l s (adapted l ctle dfe1)

/-- TRAINING_COMPLETE (R438, R446, R451). -/
def execTrainingComplete (l : Nat) (preTx : Bool) (taps : Word) (s : State) : Host.Outcome State Fault Refusal :=
  atLane l s (trainedOp l preTx taps)

/-- TRAINING_TIMEOUT (R446, R458, R459). -/
def execTrainingTimeout (l : Nat) (s : State) : Host.Outcome State Fault Refusal := atLane l s (trainTimeout l)

/-- TRAINING_RETRY (R446). -/
def execTrainingRetry (l : Nat) (s : State) : Host.Outcome State Fault Refusal := atLane l s (trainRetry l)

/-- LOCK_LOSS (R379, R439, R446, R459). -/
def execLockLoss (l : Nat) (s : State) : Host.Outcome State Fault Refusal := atLane l s (lockOut l)

/-- FEC_BLOCK_END (R448, R458, R459). -/
def execFecBlockEnd (l symbols words bad : Nat) (s : State) : Host.Outcome State Fault Refusal := atLane l s (fecBlock l symbols words bad)

/-- YK_IDLE_ENTRY (R457, R459). -/
def execYkIdleEntry (l : Nat) (s : State) : Host.Outcome State Fault Refusal := atYk l s (idleIn l)

/-- YK_IDLE_EXIT (R457, R459). -/
def execYkIdleExit (l : Nat) (s : State) : Host.Outcome State Fault Refusal := atYk l s (idleOut l)

/-- YK_IDLE_REFRESH (R457). -/
def execYkIdleRefresh (l ctle dfe1 : Nat) (s : State) : Host.Outcome State Fault Refusal := atYk l s (idleRefresh l ctle dfe1)

/-- YK_EXIT_LATE (R457, R459). -/
def execYkExitLate (l : Nat) (s : State) : Host.Outcome State Fault Refusal := atYk l s (exitLate l)

/-- PHY_TXEQ_WRITE (R451). -/
def execPhyTxeqWrite (d blk : Nat) (v : Word) (s : State) : Host.Outcome State Fault Refusal := atBlock d blk s (fun l => writeTxeq l v)

/-- PHY_READAPT (R452). -/
def execPhyReadapt (d blk : Nat) (v : Word) (s : State) : Host.Outcome State Fault Refusal := atBlock d blk s (fun l => writeRxeq l v)

/-- EYE_SCAN_START (R453–R455). -/
def execEyeScanStart (d blk : Nat) (v : Word) (s : State) : Host.Outcome State Fault Refusal := atBlock d blk s (fun l => writeEye l v)

/-- EYE_SCAN_ABORT (R454, R455). -/
def execEyeScanAbort (d blk : Nat) (v : Word) (s : State) : Host.Outcome State Fault Refusal := atBlock d blk s (fun l => writeEye l v)

/-- EYE_CELL_DONE (R453–R455): the scan of an idle lane pauses. -/
def execEyeCellDone (d blk n : Nat) (s : State) : Host.Outcome State Fault Refusal :=
  atBlock d blk s (fun l s => if (lane s l).st = stIdle then s else eyeCell l n s)

end Sys2Proof.Machine
end

