-- ==== Sys2Proof/Machine/PaddockCmds.lean ====
section
/-! DEFINITION. Events of composition (R163–R194). -/

namespace Sys2Proof.Machine

open Sys2Proof

/-- FENCE_READ (R183, R184) for a channel's canvas. -/
def execFenceRead (ch : Nat) (s : State) : Host.Outcome State Fault Refusal :=
  atChannel ch s (fun s => reading (fenceReads s ch) (fenceReadOp ch) s)

/-- COMPOSE_START (R189). -/
def execComposeStart (ch k : Nat) (s : State) : Host.Outcome State Fault Refusal :=
  atChannel ch s (fun s => wakeItems (composeStartOp ch k s))

/-- CANVAS_POINT (R187–R191). -/
def execCanvasPoint (ch k : Nat) (left : List (Nat × Nat × Nat × Nat)) (s : State) : Host.Outcome State Fault Refusal :=
  atChannel ch s (fun s => wakeItems (reading (drawnReads s ch k) (canvasPointOp ch k left) s))

end Sys2Proof.Machine
end

