-- ==== Sys2Proof/Machine/YardCmds.lean ====
section
/-! DEFINITION. Events of the yard and its stop and quench registers (R331–R355). -/

namespace Sys2Proof.Machine

open Sys2Proof

/-- An event of Ethernet lane `l`. -/
def atEth (l : Nat) (s : State) (k : State → State) : Host.Outcome State Fault Refusal :=
  if l < 4 * dies s then .next (whenUp s k) else .next s

/-- The port formed at lane `l` decides at instant `t`, when its wire is idle (R333). -/
def portDecides (l t : Nat) (s : State) : State :=
  if portOf (effW s) l = some l ∧ (port s l).busyTo ≤ t then transmit l t (refillPort l t (advance t s)) else s

/-- A stop or quench register write to the FLOW page of die `d`; an absent die's is discarded (R4). -/
def onFlow (d : Nat) (s : State) (k : State → State) : Host.Outcome State Fault Refusal :=
  .next (whenUp s (guard' (decide (d < dies s)) k))

/-- PACKET_RELEASE (R338) of a video service. -/
def execPacketRelease (v : Nat) (s : State) : Host.Outcome State Fault Refusal :=
  if v < 512 * dies s then .next (whenUp s (releaseNext v)) else .next s

/-- PORT_TRANSMIT (R333, R340–R349). -/
def execPortTransmit (l t : Nat) (s : State) : Host.Outcome State Fault Refusal := atEth l s (portDecides l t)

/-- GATE_ENTRY (R346, R348). -/
def execGateEntry (l : Nat) (s : State) : Host.Outcome State Fault Refusal := atEth l s (gateBegins l)

/-- LIST_START (R350). -/
def execListStart (l : Nat) (s : State) : Host.Outcome State Fault Refusal := atEth l s (listStarts l)

/-- SAP_ANNOUNCE (R332). -/
def execSapAnnounce (s : State) : Host.Outcome State Fault Refusal := .next (whenUp s sapAnnounceOp)

/-- FLOW_STOP_SET (R351, R352). -/
def execFlowStopSet (d w : Nat) (v : Word) (s : State) : Host.Outcome State Fault Refusal :=
  onFlow d s (guard' (decide (w < 128)) (stopFlows (stopWord d w v)))

/-- FLOW_STOP_CLR (R351, R352). -/
def execFlowStopClr (d w : Nat) (v : Word) (s : State) : Host.Outcome State Fault Refusal :=
  onFlow d s (guard' (decide (w < 128)) (startFlows (stopWord d w v)))

/-- FLOW_QUENCH_SET (R351, R352). -/
def execFlowQuenchSet (d : Nat) (v : Word) (s : State) : Host.Outcome State Fault Refusal :=
  onFlow d s (quenchPorts d (quenchWord d v))

/-- FLOW_QUENCH_CLR (R351, R352). -/
def execFlowQuenchClr (d : Nat) (v : Word) (s : State) : Host.Outcome State Fault Refusal :=
  onFlow d s (unquenchPorts (quenchWord d v))

end Sys2Proof.Machine
end

