-- ==== Sys2Proof/Machine/YokeCmds.lean ====
section
/-! DEFINITION. The commands and events of the yoke (R356–R398): frames that arrive, heartbeats, timeouts, takeover and the
mirroring of channels on a spare die. A reliable frame acts in the order of its sequence number (R396). -/

namespace Sys2Proof.Machine

open Sys2Proof

/-- A reliable frame that concerns channel `ch`. -/
def relCh (ch : Nat) (h : YHdr) (i : Instr) (s : State) : Host.Outcome State Fault Refusal := atChannel ch s (rxRel h i)

/-- A reliable frame that concerns no channel. -/
def rel (h : YHdr) (i : Instr) (s : State) : Host.Outcome State Fault Refusal := .next (whenUp s (rxRel h i))

/-- HELLO_RECEIVED (R356, R361, R362, R384, R395). -/
def execHelloReceived (h : YHdr) (p : Hello) (s : State) : Host.Outcome State Fault Refusal :=
  .next (whenUp s (rxFrame h (helloOp p)))

/-- BEAT_RECEIVED (R361, R376–R379, R384, R395). -/
def execBeatReceived (h : YHdr) (p : Beat) (s : State) : Host.Outcome State Fault Refusal :=
  .next (whenUp s (rxFrame h (beatOp p)))

/-- HEARTBEAT_PULSE (R376, R377, R380). -/
def execHeartbeatPulse (w : Nat) (s : State) : Host.Outcome State Fault Refusal :=
  .next (whenUp s (pulseOp w))

/-- HEARTBEAT_MISSED (R377, R378): a period of the link path, or of the pin path. -/
def execHeartbeatMissed (link : Bool) (s : State) : Host.Outcome State Fault Refusal :=
  .next (whenUp s (missedOp link))

/-- HELLO_SEND (R395). -/
def execHelloSend (s : State) : Host.Outcome State Fault Refusal :=
  .next (whenUp s (sendHello))

/-- BEAT_SEND (R376, R395). -/
def execBeatSend (s : State) : Host.Outcome State Fault Refusal :=
  .next (whenUp s (sendBeat))

/-- PAIRING_TIMEOUT (R361): no agreement within 1 ms. -/
def execPairingTimeout (s : State) : Host.Outcome State Fault Refusal :=
  .next (whenUp s (guard' (decide (s.yoke.role = rolePairing)) (refusePair 5)))

/-- PAIR_RETRY (R361): the second after a refused pairing is over. -/
def execPairRetry (s : State) : Host.Outcome State Fault Refusal :=
  .next (whenUp s (fun s => { s with yoke := { s.yoke with wait := false } }))

/-- STATE_FRAME (R369–R372): a record of the active part. -/
def execStateFrame (h : YHdr) (r : Record) (s : State) : Host.Outcome State Fault Refusal :=
  relCh r.channel h (.stateFrame h r) s

/-- VERDICT_FRAME (R371, R372). -/
def execVerdictFrame (h : YHdr) (ch st cause n : Nat) (s : State) : Host.Outcome State Fault Refusal :=
  relCh ch h (.verdictFrame h ch st cause n) s

/-- VOTE_FRAME (R365–R367). -/
def execVoteFrame (h : YHdr) (q g : Nat) (crc tcrc : Word) (live res : Nat) (s : State) : Host.Outcome State Fault Refusal :=
  rel h (.voteFrame h q g crc tcrc live res) s

/-- DECIDE_PASS (R365, R366). -/
def execDecidePass (h : YHdr) (q g e : Nat) (s : State) : Host.Outcome State Fault Refusal :=
  rel h (.decidePass h q g e) s

/-- DECIDE_FAIL (R365). -/
def execDecideFail (h : YHdr) (q g : Nat) (s : State) : Host.Outcome State Fault Refusal :=
  rel h (.decideFail h q g) s

/-- DECIDE_CATCHUP (R367). -/
def execDecideCatchup (h : YHdr) (q g : Nat) (s : State) : Host.Outcome State Fault Refusal :=
  rel h (.decideCatchup h q g) s

/-- VOTE_TIMEOUT (R365). -/
def execVoteTimeout (s : State) : Host.Outcome State Fault Refusal :=
  .next (whenUp s (voteTimeoutOp))

/-- DECIDE_TIMEOUT (R365). -/
def execDecideTimeout (s : State) : Host.Outcome State Fault Refusal :=
  .next (whenUp s (decideTimeoutOp))

/-- COPY_BULK (R374, R395). -/
def execCopyBulk (h : YHdr) (ch stall off : Nat) (b : List Byte) (s : State) : Host.Outcome State Fault Refusal :=
  relCh ch h (.copyBulk h ch stall off b) s

/-- COPY_ROW (R374, R395). -/
def execCopyRow (h : YHdr) (ch stall off : Nat) (b : List Byte) (s : State) : Host.Outcome State Fault Refusal :=
  relCh ch h (.copyRow h ch stall off b) s

/-- COPY_MIRROR (R387, R394, R395): a mirror copy travels over the package fabric in the form of a yoke frame; one whose checks fail is discarded
and counted. -/
def execCopyMirror (h : YHdr) (ch stall off : Nat) (b : List Byte) (s : State) : Host.Outcome State Fault Refusal :=
  atChannel ch s (fun s => if h.crcOk then copyMirrorOp ch stall off b s else bump pgYoke 19 1 s)

/-- BULK_COPY_DONE (R374). -/
def execBulkCopyDone (ch : Nat) (s : State) : Host.Outcome State Fault Refusal :=
  atChannel ch s (fun s => reading (if s.yoke.role = roleActive ∧ s.yoke.resyncCh = some ch ∧ s.yoke.resyncStep = 2 then pinReads s ch else [])
    (bulkDoneOp ch) s)

/-- RESYNC_REQUEST (R373, R374). -/
def execResyncRequest (h : YHdr) (ch : Nat) (s : State) : Host.Outcome State Fault Refusal :=
  relCh ch h (.resyncRequest h ch) s

/-- RESYNC_CHECKPOINT_TAKEN (R374). -/
def execResyncCheckpointTaken (h : YHdr) (ch pins n : Nat) (s : State) : Host.Outcome State Fault Refusal :=
  relCh ch h (.resyncCheckpointTaken h ch pins n) s

/-- RESYNC_COPY_DONE (R374, R395): operation 0x3 with the join picture `m`, or, with `joins`, operation 0x4. -/
def execResyncCopyDone (h : YHdr) (ch m : Nat) (joins : Bool) (s : State) : Host.Outcome State Fault Refusal :=
  relCh ch h (.resyncCopyDone h ch m joins) s

/-- RESYNC_ABORT (R375). -/
def execResyncAbort (h : YHdr) (ch : Nat) (s : State) : Host.Outcome State Fault Refusal :=
  relCh ch h (.resyncAbort h ch) s

/-- YIELD_FRAME (R379, R380). -/
def execYieldFrame (h : YHdr) (c tR tT : Nat) (s : State) : Host.Outcome State Fault Refusal :=
  rel h (.yieldFrame h c tR tT) s

/-- YOKE_YIELD (R379, R397): `YOKE_CMD` with OP 0x1. -/
def execYokeYield (v : Word) (s : State) : Host.Outcome State Fault Refusal :=
  .next (whenUp s (yokeCmd v))

/-- YOKE_RESYNC (R373, R397): `YOKE_CMD` with OP 0x2. -/
def execYokeResync (v : Word) (s : State) : Host.Outcome State Fault Refusal :=
  .next (whenUp s (yokeCmd v))

/-- TAKEOVER (R380–R383): the instant of a takeover or a yield has come. -/
def execTakeover (s : State) : Host.Outcome State Fault Refusal :=
  .next (whenUp s (takeoverOp))

/-- DOORBELL_FRAME (R395, R425). -/
def execDoorbellFrame (h : YHdr) (n : Nat) (s : State) : Host.Outcome State Fault Refusal :=
  rel h (.doorbellFrame h n) s

/-- ACK_FRAME (R394, R396). -/
def execAckFrame (h : YHdr) (s : State) : Host.Outcome State Fault Refusal :=
  .next (whenUp s (rxFrame h id))

/-- RELIABLE_RETRY (R396). -/
def execReliableRetry (n : Nat) (s : State) : Host.Outcome State Fault Refusal :=
  .next (whenUp s (retryOp n))

/-- ACK_TIMER (R396). -/
def execAckTimer (s : State) : Host.Outcome State Fault Refusal :=
  .next (whenUp s (ackTimerOp))

/-- DIE_FAULT (R87, R118, R296, R388–R390): `cause` is the bad word that a block or a control core read, with the reader's code. -/
def execDieFault (d : Nat) (cause : Option (Nat × Nat)) (s : State) : Host.Outcome State Fault Refusal :=
  atDie d s (dieFaultFor d cause)

/-- MIRROR_COPY (R387): the spare die reads the stalls. -/
def execMirrorCopy (ch : Nat) (s : State) : Host.Outcome State Fault Refusal :=
  atChannel ch s (fun s => reading
    ((mirroredStalls s ch).map (fun i => { who := 0x42, die := chDie s ch, addr := stallAt (effW s) ch i, len := stallSize (effW s) ch }))
    (mirrorOp ch) s)

end Sys2Proof.Machine
end

