-- ==== Sys2Proof/Machine/Dispatch.lean ====
section
/-! DEFINITION. One arm per command: its meaning, called by its full name. -/

namespace Sys2Proof.Machine

open Sys2Proof

def exec (i : Instr) (s : State) : Host.Outcome State Fault Refusal :=
  match i with
  | .supplyRise => Sys2Proof.Machine.execSupplyRise s
  | .supplyFall => Sys2Proof.Machine.execSupplyFall s
  | .perstAssert => Sys2Proof.Machine.execPerstAssert s
  | .perstRelease => Sys2Proof.Machine.execPerstRelease s
  | .pcieLinkReset dropped => Sys2Proof.Machine.execPcieLinkReset dropped s
  | .warmResetRequest value => Sys2Proof.Machine.execWarmResetRequest value s
  | .coldResetRequest value => Sys2Proof.Machine.execColdResetRequest value s
  | .resetRelease => Sys2Proof.Machine.execResetRelease s
  | .ctrlStoreZeroised die => Sys2Proof.Machine.execCtrlStoreZeroised die s
  | .dramTrainingDone die failed => Sys2Proof.Machine.execDramTrainingDone die failed s
  | .granuleWiped die => Sys2Proof.Machine.execGranuleWiped die s
  | .firmwareBoot stagedReadErr activeReadErr previousReadErr => Sys2Proof.Machine.execFirmwareBoot stagedReadErr activeReadErr previousReadErr s
  | .sramZeroised die => Sys2Proof.Machine.execSramZeroised die s
  | .domainPowerUpDone die idx => Sys2Proof.Machine.execDomainPowerUpDone die idx s
  | .domainPowerGoodTimeout die idx => Sys2Proof.Machine.execDomainPowerGoodTimeout die idx s
  | .domainPowerDown die idx => Sys2Proof.Machine.execDomainPowerDown die idx s
  | .domainHoldWrite die value => Sys2Proof.Machine.execDomainHoldWrite die value s
  | .laneCalibrated lane ok => Sys2Proof.Machine.execLaneCalibrated lane ok s
  | .lcArm value => Sys2Proof.Machine.execLcArm value s
  | .lcGo value => Sys2Proof.Machine.execLcGo value s
  | .lcArmTimeout => Sys2Proof.Machine.execLcArmTimeout s
  | .dieSleepRequest die => Sys2Proof.Machine.execDieSleepRequest die s
  | .dieAsleep die => Sys2Proof.Machine.execDieAsleep die s
  | .dieWakeRequest die => Sys2Proof.Machine.execDieWakeRequest die s
  | .wakeDomainsUp die => Sys2Proof.Machine.execWakeDomainsUp die s
  | .wakeDramReady die codes => Sys2Proof.Machine.execWakeDramReady die codes s
  | .wakeInterruptRestore die => Sys2Proof.Machine.execWakeInterruptRestore die s
  | .wakeSramZeroised die => Sys2Proof.Machine.execWakeSramZeroised die s
  | .wakeFirmwareStarted die => Sys2Proof.Machine.execWakeFirmwareStarted die s
  | .registerWrite req addr size value => Sys2Proof.Machine.execRegisterWrite req addr size value s
  | .stageWrite req bar2 addr size value => Sys2Proof.Machine.execStageWrite req bar2 addr size value s
  | .commitTableWrite set word value => Sys2Proof.Machine.execCommitTableWrite set word value s
  | .commit die page value => Sys2Proof.Machine.execCommit die page value s
  | .commitCheckStart => Sys2Proof.Machine.execCommitCheckStart s
  | .commitCheckEnd => Sys2Proof.Machine.execCommitCheckEnd s
  | .statClear die page value coincident => Sys2Proof.Machine.execStatClear die page value coincident s
  | .statSet die page value => Sys2Proof.Machine.execStatSet die page value s
  | .statAgainClear die page value coincident => Sys2Proof.Machine.execStatAgainClear die page value coincident s
  | .imaskWrite die page value => Sys2Proof.Machine.execImaskWrite die page value s
  | .imaskSet die page value => Sys2Proof.Machine.execImaskSet die page value s
  | .imaskClr die page value => Sys2Proof.Machine.execImaskClr die page value s
  | .counterLowRead req die page n => Sys2Proof.Machine.execCounterLowRead req die page n s
  | .timeSnapRead req => Sys2Proof.Machine.execTimeSnapRead req s
  | .barnMarkRead req die engine => Sys2Proof.Machine.execBarnMarkRead req die engine s
  | .yokeSinceRead req take => Sys2Proof.Machine.execYokeSinceRead req take s
  | .packageFurrowBoundary => Sys2Proof.Machine.execPackageFurrowBoundary s
  | .pictureBoundary ch => Sys2Proof.Machine.execPictureBoundary ch s
  | .referenceEligible src offset => Sys2Proof.Machine.execReferenceEligible src offset s
  | .ptpLock offset bound => Sys2Proof.Machine.execPtpLock offset bound s
  | .ref10mStop => Sys2Proof.Machine.execRef10mStop s
  | .ppsStop => Sys2Proof.Machine.execPpsStop s
  | .ptpLost => Sys2Proof.Machine.execPtpLost s
  | .refGlitch pps => Sys2Proof.Machine.execRefGlitch pps s
  | .refRefused src => Sys2Proof.Machine.execRefRefused src s
  | .crystalStop => Sys2Proof.Machine.execCrystalStop s
  | .holdoverUpdate => Sys2Proof.Machine.execHoldoverUpdate s
  | .frameReceived f => Sys2Proof.Machine.execFrameReceived f s
  | .lineFill die slot pic line => Sys2Proof.Machine.execLineFill die slot pic line s
  | .fillEnd die slot pic line => Sys2Proof.Machine.execFillEnd die slot pic line s
  | .pathDown entry t => Sys2Proof.Machine.execPathDown entry t s
  | .compressedGapLost die src => Sys2Proof.Machine.execCompressedGapLost die src s
  | .igmpReport entry => Sys2Proof.Machine.execIgmpReport entry s
  | .fenceRead ch => Sys2Proof.Machine.execFenceRead ch s
  | .composeStart ch furrow => Sys2Proof.Machine.execComposeStart ch furrow s
  | .canvasPoint ch furrow unfinished => Sys2Proof.Machine.execCanvasPoint ch furrow unfinished s
  | .plantingInstant ch furrow => Sys2Proof.Machine.execPlantingInstant ch furrow s
  | .itemCreate die owner => Sys2Proof.Machine.execItemCreate die owner s
  | .queueReevaluate die t => Sys2Proof.Machine.execQueueReevaluate die t s
  | .itemDispatch die unit t => Sys2Proof.Machine.execItemDispatch die unit t s
  | .itemEnd die slot t => Sys2Proof.Machine.execItemEnd die slot t s
  | .ctuCoded ch furrow => Sys2Proof.Machine.execCtuCoded ch furrow s
  | .codedPoint ch furrow => Sys2Proof.Machine.execCodedPoint ch furrow s
  | .deadlinePoint ch furrow finished => Sys2Proof.Machine.execDeadlinePoint ch furrow finished s
  | .engineFault die engine corrected => Sys2Proof.Machine.execEngineFault die engine corrected s
  | .trackingWindowEnd die => Sys2Proof.Machine.execTrackingWindowEnd die s
  | .dspWindowEnd die => Sys2Proof.Machine.execDspWindowEnd die s
  | .accessUnitCutoff die src au => Sys2Proof.Machine.execAccessUnitCutoff die src au s
  | .decodedSlicePoint die src damaged area => Sys2Proof.Machine.execDecodedSlicePoint die src damaged area s
  | .dueTime die src => Sys2Proof.Machine.execDueTime die src s
  | .refreshDue die mch => Sys2Proof.Machine.execRefreshDue die mch s
  | .mr4PeriodicRead die codes => Sys2Proof.Machine.execMr4PeriodicRead die codes s
  | .thermalAlert die codes => Sys2Proof.Machine.execThermalAlert die codes s
  | .panicEntry die port level => Sys2Proof.Machine.execPanicEntry die port level s
  | .panicExit die port level => Sys2Proof.Machine.execPanicExit die port level s
  | .portRun die port => Sys2Proof.Machine.execPortRun die port s
  | .patrolPass die singles doubles => Sys2Proof.Machine.execPatrolPass die singles doubles s
  | .apertureRead off len ecc => Sys2Proof.Machine.execApertureRead off len ecc s
  | .apertureWrite off bytes ecc => Sys2Proof.Machine.execApertureWrite off bytes ecc s
  | .hostAperWrite value => Sys2Proof.Machine.execHostAperWrite value s
  | .packetRelease service => Sys2Proof.Machine.execPacketRelease service s
  | .portTransmit lane t => Sys2Proof.Machine.execPortTransmit lane t s
  | .gateEntry lane => Sys2Proof.Machine.execGateEntry lane s
  | .listStart lane => Sys2Proof.Machine.execListStart lane s
  | .sapAnnounce => Sys2Proof.Machine.execSapAnnounce s
  | .flowStopSet die word value => Sys2Proof.Machine.execFlowStopSet die word value s
  | .flowStopClr die word value => Sys2Proof.Machine.execFlowStopClr die word value s
  | .flowQuenchSet die value => Sys2Proof.Machine.execFlowQuenchSet die value s
  | .flowQuenchClr die value => Sys2Proof.Machine.execFlowQuenchClr die value s
  | .cmdStop f => Sys2Proof.Machine.execCmdStop f s
  | .cmdStart f => Sys2Proof.Machine.execCmdStart f s
  | .cmdQuench f => Sys2Proof.Machine.execCmdQuench f s
  | .cmdUnquench f => Sys2Proof.Machine.execCmdUnquench f s
  | .helloReceived h p => Sys2Proof.Machine.execHelloReceived h p s
  | .beatReceived h p => Sys2Proof.Machine.execBeatReceived h p s
  | .heartbeatPulse width => Sys2Proof.Machine.execHeartbeatPulse width s
  | .heartbeatMissed link => Sys2Proof.Machine.execHeartbeatMissed link s
  | .helloSend => Sys2Proof.Machine.execHelloSend s
  | .beatSend => Sys2Proof.Machine.execBeatSend s
  | .pairingTimeout => Sys2Proof.Machine.execPairingTimeout s
  | .pairRetry => Sys2Proof.Machine.execPairRetry s
  | .stateFrame h r => Sys2Proof.Machine.execStateFrame h r s
  | .verdictFrame h ch state cause picture => Sys2Proof.Machine.execVerdictFrame h ch state cause picture s
  | .voteFrame h set gen crc tableCrc liveGen result => Sys2Proof.Machine.execVoteFrame h set gen crc tableCrc liveGen result s
  | .decidePass h set gen effect => Sys2Proof.Machine.execDecidePass h set gen effect s
  | .decideFail h set gen => Sys2Proof.Machine.execDecideFail h set gen s
  | .decideCatchup h set liveGen => Sys2Proof.Machine.execDecideCatchup h set liveGen s
  | .voteTimeout => Sys2Proof.Machine.execVoteTimeout s
  | .decideTimeout => Sys2Proof.Machine.execDecideTimeout s
  | .copyBulk h ch stall off bytes => Sys2Proof.Machine.execCopyBulk h ch stall off bytes s
  | .copyRow h ch stall off bytes => Sys2Proof.Machine.execCopyRow h ch stall off bytes s
  | .copyMirror h ch stall off bytes => Sys2Proof.Machine.execCopyMirror h ch stall off bytes s
  | .bulkCopyDone ch => Sys2Proof.Machine.execBulkCopyDone ch s
  | .resyncRequest h ch => Sys2Proof.Machine.execResyncRequest h ch s
  | .resyncCheckpointTaken h ch pinned picture => Sys2Proof.Machine.execResyncCheckpointTaken h ch pinned picture s
  | .resyncCopyDone h ch picture joins => Sys2Proof.Machine.execResyncCopyDone h ch picture joins s
  | .resyncAbort h ch => Sys2Proof.Machine.execResyncAbort h ch s
  | .yieldFrame h cause tR tT => Sys2Proof.Machine.execYieldFrame h cause tR tT s
  | .yokeYield value => Sys2Proof.Machine.execYokeYield value s
  | .yokeResync value => Sys2Proof.Machine.execYokeResync value s
  | .takeover => Sys2Proof.Machine.execTakeover s
  | .doorbellFrame h source => Sys2Proof.Machine.execDoorbellFrame h source s
  | .ackFrame h => Sys2Proof.Machine.execAckFrame h s
  | .reliableRetry seq => Sys2Proof.Machine.execReliableRetry seq s
  | .ackTimer => Sys2Proof.Machine.execAckTimer s
  | .dieFault die cause => Sys2Proof.Machine.execDieFault die cause s
  | .mirrorCopy ch => Sys2Proof.Machine.execMirrorCopy ch s
  | .audioPacketRelease service => Sys2Proof.Machine.execAudioPacketRelease service s
  | .sampleReady flow => Sys2Proof.Machine.execSampleReady flow s
  | .zcTimeout tdm unit chan => Sys2Proof.Machine.execZcTimeout tdm unit chan s
  | .nonAudioClear tdm unit chan => Sys2Proof.Machine.execNonAudioClear tdm unit chan s
  | .tdmFrame port f => Sys2Proof.Machine.execTdmFrame port f s
  | .tdmClockStop port => Sys2Proof.Machine.execTdmClockStop port s
  | .tdmFaultClear port => Sys2Proof.Machine.execTdmFaultClear port s
  | .icMessageArrival sender => Sys2Proof.Machine.execIcMessageArrival sender s
  | .icDoorbell core value => Sys2Proof.Machine.execIcDoorbell core value s
  | .icPendClr value coincident => Sys2Proof.Machine.execIcPendClr value coincident s
  | .icEnSet value => Sys2Proof.Machine.execIcEnSet value s
  | .icEnClr value coincident => Sys2Proof.Machine.execIcEnClr value coincident s
  | .icMaskSet value => Sys2Proof.Machine.execIcMaskSet value s
  | .icMaskClr value coincident => Sys2Proof.Machine.execIcMaskClr value coincident s
  | .icRemote value => Sys2Proof.Machine.execIcRemote value s
  | .icClaim target late => Sys2Proof.Machine.execIcClaim target late s
  | .icComplete target value => Sys2Proof.Machine.execIcComplete target value s
  | .routingWrite source value => Sys2Proof.Machine.execRoutingWrite source value s
  | .wakeTimeout source => Sys2Proof.Machine.execWakeTimeout source s
  | .signalDetect lane => Sys2Proof.Machine.execSignalDetect lane s
  | .signalLoss lane => Sys2Proof.Machine.execSignalLoss lane s
  | .adaptationConverged lane ctle dfe1 => Sys2Proof.Machine.execAdaptationConverged lane ctle dfe1 s
  | .trainingComplete lane precodeTx taps => Sys2Proof.Machine.execTrainingComplete lane precodeTx taps s
  | .trainingTimeout lane => Sys2Proof.Machine.execTrainingTimeout lane s
  | .trainingRetry lane => Sys2Proof.Machine.execTrainingRetry lane s
  | .lockLoss lane => Sys2Proof.Machine.execLockLoss lane s
  | .fecBlockEnd lane symbols codewords uncorr => Sys2Proof.Machine.execFecBlockEnd lane symbols codewords uncorr s
  | .ykIdleEntry lane => Sys2Proof.Machine.execYkIdleEntry lane s
  | .ykIdleExit lane => Sys2Proof.Machine.execYkIdleExit lane s
  | .ykIdleRefresh lane ctle dfe1 => Sys2Proof.Machine.execYkIdleRefresh lane ctle dfe1 s
  | .ykExitLate lane => Sys2Proof.Machine.execYkExitLate lane s
  | .phyTxeqWrite die blk value => Sys2Proof.Machine.execPhyTxeqWrite die blk value s
  | .phyReadapt die blk value => Sys2Proof.Machine.execPhyReadapt die blk value s
  | .eyeScanStart die blk value => Sys2Proof.Machine.execEyeScanStart die blk value s
  | .eyeScanAbort die blk value => Sys2Proof.Machine.execEyeScanAbort die blk value s
  | .eyeCellDone die blk count => Sys2Proof.Machine.execEyeCellDone die blk count s
  | .bootLoadStart => Sys2Proof.Machine.execBootLoadStart s
  | .bootWaitEnd => Sys2Proof.Machine.execBootWaitEnd s
  | .hostBootHoldRelease value => Sys2Proof.Machine.execHostBootHoldRelease value s
  | .hostBootAbort value => Sys2Proof.Machine.execHostBootAbort value s
  | .nmosHeartbeat ok => Sys2Proof.Machine.execNmosHeartbeat ok s
  | .is05Patch receiver entry words readOnlyChange at_v => Sys2Proof.Machine.execIs05Patch receiver entry words readOnlyChange at_v s
  | .is05Activation => Sys2Proof.Machine.execIs05Activation s
  | .delayReqSend lane => Sys2Proof.Machine.execDelayReqSend lane s
  | .fwWriteStaged value => Sys2Proof.Machine.execFwWriteStaged value s
  | .fwWriteSettings value => Sys2Proof.Machine.execFwWriteSettings value s
  | .fwEraseStaged value => Sys2Proof.Machine.execFwEraseStaged value s
  | .fwEraseSettings value => Sys2Proof.Machine.execFwEraseSettings value s
  | .fwConfirm value => Sys2Proof.Machine.execFwConfirm value s
  | .fwCommandEnd flashErr => Sys2Proof.Machine.execFwCommandEnd flashErr s
  | .tackWrite value => Sys2Proof.Machine.execTackWrite value s
  | .tackErase value => Sys2Proof.Machine.execTackErase value s
  | .tackAttest value => Sys2Proof.Machine.execTackAttest value s
  | .tackCommandEnd => Sys2Proof.Machine.execTackCommandEnd s
  | .packagePagesReady => Sys2Proof.Machine.execPackagePagesReady s
  | .pcieLinkUp speed width flit => Sys2Proof.Machine.execPcieLinkUp speed width flit s
  | .pcieConfigWrite msixEnable funcMask busMaster d3hot => Sys2Proof.Machine.execPcieConfigWrite msixEnable funcMask busMaster d3hot s
  | .referenceEdge pps residual => Sys2Proof.Machine.execReferenceEdge pps residual s
  | .tdmClockReturn port ppm => Sys2Proof.Machine.execTdmClockReturn port ppm s

end Sys2Proof.Machine
end

