-- ==== Sys2Proof/Machine/Pins.lean ====
section
/-! DEFINITION. How the part drives its output pins (R98, R408, R456, R481), read off the state. -/

namespace Sys2Proof.Machine

open Sys2Proof

/-- How an output is driven. -/
inductive Drive where
  | idle    -- electrical idle, no differential signal
  | highZ   -- high impedance
  | low     -- driven low
  | runs (hz : Nat)   -- it carries its signal; a clock's frequency, 0 for data
  deriving DecidableEq, Repr

/-- Transmitter of lane `l`, at high impedance without supplies like every output (R508, R509): 32 to 35 are YK0 to YK3, quiet under the boot hold. -/
def laneDrive (s : State) (l : Nat) : Drive := if !s.pwr.supplied then .highZ else if txEnabled s l && !(decide (32 ≤ l) && s.host.held) then .runs 0 else .idle

/-- HB_TXP/N. -/
def hbDrive (s : State) : Drive := if yokeTx s then .runs 0 else .highZ

/-- A TDM port drives its outputs. -/
def tdmDrives (s : State) (p : Nat) : Bool := audEn (effW s) p && audOutEn (effW s) p && !s.host.held

/-- TDM DOUT of port `p`. -/
def doutDrive (s : State) (p : Nat) : Drive := if tdmDrives s p then .runs 0 else .highZ

/-- Frames per second of a port, and its bit clock. -/
def tdmRate (w : Word) : Nat := [44100, 48000, 96000].getD (ctlRate w) 48000
def tdmBitClock (w : Word) : Nat := ctlSlots w * ctlWidth w * tdmRate w

/-- TDM BCLK and FS of port `p`, which it drives as leader (R409). -/
def bclkDrive (s : State) (p : Nat) : Drive :=
  let w := audW (effW s) p 0x100
  if tdmDrives s p && ctlLeader w then .runs (tdmBitClock w) else .highZ
def fsDrive (s : State) (p : Nat) : Drive :=
  let w := audW (effW s) p 0x100
  if tdmDrives s p && ctlLeader w then .runs (tdmRate w) else .highZ

/-- Level of FS at bit clock `t` of a frame that starts with its rising edge (R408): high for one bit clock, or for the first half. -/
def fsHigh (w : Word) (t : Nat) : Bool := if bitOf w 23 then decide (t < ctlBits w / 2) else decide (t < 1)

/-- MCLK_OUT. -/
def mclkDrive (s : State) : Drive :=
  let w := audW (effW s) 0 0x114
  if !s.pwr.supplied then .highZ else if tdmDrives s 0 && bitOf w 31 then .runs (if bitOf w 30 then 24576000 else 12288000) else .low

end Sys2Proof.Machine
end

