-- ==== Sys2Proof/WellFormed.lean ====
section
/-! DEFINITION. Well-formed commands: every operand lies in the range that the largest variant gives it (R2, R5, R38), and the
lists of a frame or a record have the lengths that its format has. The meanings are total: on an ill-formed command they
stop, discard or do nothing, as each one says. -/

namespace Sys2Proof

/-! ## Units (R2, R5, R10) -/

/-- A die of the largest variant. -/
def dieOk (d : Nat) : Bool := decide (d < 8)

/-- A page of a die's 32 MiB window (R38). -/
def pageOk (p : Nat) : Bool := decide (p < 8192)

/-- A package-wide Ethernet lane. -/
def ethOk (l : Nat) : Bool := decide (l < 32)

/-- A lane: 32 Ethernet lanes, and YK0–YK3 as 32–35. -/
def laneOk (l : Nat) : Bool := decide (l < 36)

/-- A yoke lane. -/
def ykOk (l : Nat) : Bool := decide (32 ≤ l) && decide (l < 36)

/-- A package-wide channel. -/
def chOk (ch : Nat) : Bool := decide (ch < 256)

/-- A furrow of a picture: at most 256. -/
def furrowOk (k : Nat) : Bool := decide (k < 256)

/-- An input slot, a decode source or an audio flow of a die. -/
def unit64Ok (n : Nat) : Bool := decide (n < 64)

/-- A line of a picture. -/
def lineOk (y : Nat) : Bool := decide (y < 4320)

/-- A classifier or flow-table entry. -/
def entryOk (e : Nat) : Bool := decide (e < 32768)

/-- A power domain of a die. -/
def domainOk (i : Nat) : Bool := decide (i < 16)

/-- A coding engine of a die. -/
def engineOk (e : Nat) : Bool := decide (e < 4)

/-- An owner of work items: channels 0–31, decode sources 32–95, canvases 96–127. -/
def ownerOk (o : Nat) : Bool := decide (o < 128)

/-- A unit that serves work items: pipelines 0–3, decoder, paddock, packer, entropy units 7–10. -/
def serverOk (u : Nat) : Bool := decide (u < 11)

/-- A task slot of a die. -/
def taskOk (i : Nat) : Bool := decide (i < 512)

/-- A memory channel of a die. -/
def mchOk (i : Nat) : Bool := decide (i < 16)

/-- A port of the memory controller. -/
def mportOk (p : Nat) : Bool := decide (p < 12)

/-- One refresh-rate code for each memory channel of a die. -/
def codesOk (l : List Nat) : Bool := decide (l.length = 16) && l.all (fun c => decide (c < 4))

/-- A video service: 8 i + j of its die. -/
def videoSvcOk (v : Nat) : Bool := decide (v < 4096) && decide (v % 512 < 256)

/-- An audio service. -/
def audioSvcOk (v : Nat) : Bool := decide (v < 4096) && decide (256 ≤ v % 512)

/-- A TDM port. -/
def tdmOk (p : Nat) : Bool := decide (p < 4)

/-- A commit set. -/
def setOk (q : Nat) : Bool := decide (q < 1024)

/-- A 16-bit number. -/
def u16Ok (n : Nat) : Bool := decide (n < 65536)

/-- An interrupt source of the largest variant. -/
def sourceOk (n : Nat) : Bool := decide (n < 4096)

/-- A lane block of a DIE page: yoke lanes on die 0 only (R450). -/
def blkOk (d b : Nat) : Bool := dieOk d && (decide (b < 4) || (decide (d = 0) && decide (b < 8)))

/-- A register access: 4 or 8 bytes, aligned. -/
def accessOk (a size : Nat) : Bool := (decide (size = 4) || decide (size = 8)) && decide (a % size = 0)

/-- An aperture access of `n` bytes: within the window of 512 MiB. -/
def apertureOk (x n : Nat) : Bool := decide (1 ≤ n) && decide (x + n ≤ 2 ^ 29)

/-- A stall of a barn. -/
def stallOk (n : Nat) : Bool := decide (n < 16)

/-! ## Frames -/

/-- A segment has as many samples as it says. -/
def segOk (g : Seg) : Bool := decide (g.px.length = g.count) && decide (g.first + g.count ≤ 7680) && lineOk g.line

/-- What a frame carries is of its format. -/
def bodyOk : Body → Bool
  | .video ts eseq _ segs => decide (ts < 2 ^ 32) && decide (eseq < 2 ^ 32) && segs.all segOk
  | .anc ts seq pkts => decide (ts < 2 ^ 32) && u16Ok seq && pkts.all (fun a => decide (a.did < 256) && decide (a.sdid < 256) && decide (a.data.length < 256))
  | .audio ts seq channels width count samples =>
    decide (ts < 2 ^ 32) && u16Ok seq && (decide (width = 2) || decide (width = 3)) && decide (samples.length = channels * count)
  | .compressed ts seq _ _ => decide (ts < 2 ^ 32) && u16Ok seq
  | .command magic op _ _ _ _ => u16Ok magic && decide (op < 256)
  | .ptp m => decide (m.kind < 16) && decide (m.domain < 256) && u16Ok m.seq
  | .other => true

/-- An Ethernet frame of 64 bytes or more, with numbers in their fields' ranges. -/
def frameOk (f : Frame) : Bool :=
  ethOk f.lane && decide (64 ≤ f.len) && f.vlans.all (fun v => decide (v < 4096)) && u16Ok f.sport && u16Ok f.dport && bodyOk f.body

/-- A frame whose payload is a command of R353 with this operation. -/
def commandFrameOk (op : Nat) (f : Frame) : Bool :=
  frameOk f && match f.body with
    | .command _ o _ _ _ _ => decide (o = op)
    | _ => false

/-- A yoke frame's sequence numbers (R394). -/
def yhdrOk (h : YHdr) : Bool := decide (h.seq < 2 ^ 32) && decide (h.ack < 2 ^ 32)

/-- A state record's lists have their lengths, and its numbers their widths (R370). -/
def recordOk (r : Record) : Bool :=
  chOk r.channel && u16Ok r.generation && decide (r.marks.length = 16) && decide (r.stallPoc.length = 16) &&
    decide (r.services.length = 8) && decide (r.furrows < 256) && decide (r.inputHash.length = r.furrows)

/-- What a TDM frame shows for its slots (R409): at most 32 of them. -/
def tdmInOk (f : TdmIn) : Bool := decide (f.din.length ≤ 1024) && f.slips.all (fun i => decide (i < 32))

/-! ## Commands -/

/-- A command whose operands lie in their ranges. -/
def Instr.wf : Instr → Bool
  | .supplyRise => true
  | .supplyFall => true
  | .perstAssert => true
  | .perstRelease => true
  | .pcieLinkReset _ => true
  | .warmResetRequest _ => true
  | .coldResetRequest _ => true
  | .resetRelease => true
  | .ctrlStoreZeroised d => dieOk d
  | .dramTrainingDone d failed => dieOk d && decide (failed < 2 ^ 16)
  | .granuleWiped d => dieOk d
  | .firmwareBoot _ _ _ => true
  | .sramZeroised d => dieOk d
  | .domainPowerUpDone d i => dieOk d && domainOk i
  | .domainPowerGoodTimeout d i => dieOk d && domainOk i
  | .domainPowerDown d i => dieOk d && domainOk i
  | .domainHoldWrite d _ => dieOk d
  | .laneCalibrated l _ => laneOk l
  | .lcArm _ => true
  | .lcGo _ => true
  | .lcArmTimeout => true
  | .dieSleepRequest d => dieOk d
  | .dieAsleep d => dieOk d
  | .dieWakeRequest d => dieOk d
  | .wakeDomainsUp d => dieOk d
  | .wakeDramReady d codes => dieOk d && codesOk codes
  | .wakeInterruptRestore d => dieOk d
  | .wakeSramZeroised d => dieOk d
  | .wakeFirmwareStarted d => dieOk d
  | .registerWrite _ a size _ => accessOk a size
  | .stageWrite _ _ a size _ => accessOk a size
  | .commitTableWrite q w _ => setOk q && decide (w < 16)
  | .commit d p _ => dieOk d && pageOk p
  | .commitCheckStart => true
  | .commitCheckEnd => true
  | .statClear d p _ _ => dieOk d && pageOk p
  | .statSet d p _ => dieOk d && pageOk p
  | .statAgainClear d p _ _ => dieOk d && pageOk p
  | .imaskWrite d p _ => dieOk d && pageOk p
  | .imaskSet d p _ => dieOk d && pageOk p
  | .imaskClr d p _ => dieOk d && pageOk p
  | .counterLowRead _ d p n => dieOk d && pageOk p && decide (n < 128)
  | .timeSnapRead _ => true
  | .barnMarkRead _ d e => dieOk d && engineOk e
  | .yokeSinceRead _ _ => true
  | .packageFurrowBoundary => true
  | .pictureBoundary ch => chOk ch
  | .referenceEligible _ _ => true
  | .ptpLock _ _ => true
  | .ref10mStop => true
  | .ppsStop => true
  | .ptpLost => true
  | .refGlitch _ => true
  | .refRefused _ => true
  | .crystalStop => true
  | .holdoverUpdate => true
  | .frameReceived f => frameOk f
  | .lineFill d n _ y => dieOk d && unit64Ok n && lineOk y
  | .fillEnd d n _ y => dieOk d && unit64Ok n && lineOk y
  | .pathDown e _ => entryOk e
  | .compressedGapLost d n => dieOk d && unit64Ok n
  | .igmpReport e => entryOk e
  | .fenceRead ch => chOk ch
  | .composeStart ch k => chOk ch && furrowOk k
  | .canvasPoint ch k _ => chOk ch && furrowOk k
  | .plantingInstant ch k => chOk ch && furrowOk k
  | .itemCreate d o => dieOk d && ownerOk o
  | .queueReevaluate d _ => dieOk d
  | .itemDispatch d u _ => dieOk d && serverOk u
  | .itemEnd d i _ => dieOk d && taskOk i
  | .ctuCoded ch k => chOk ch && furrowOk k
  | .codedPoint ch k => chOk ch && furrowOk k
  | .deadlinePoint ch k _ => chOk ch && furrowOk k
  | .engineFault d e _ => dieOk d && engineOk e
  | .trackingWindowEnd d => dieOk d
  | .dspWindowEnd d => dieOk d
  | .accessUnitCutoff d n _ => dieOk d && unit64Ok n
  | .decodedSlicePoint d n _ _ => dieOk d && unit64Ok n
  | .dueTime d n => dieOk d && unit64Ok n
  | .refreshDue d i => dieOk d && mchOk i
  | .mr4PeriodicRead d codes => dieOk d && codesOk codes
  | .thermalAlert d codes => dieOk d && codesOk codes
  | .panicEntry d p l => dieOk d && mportOk p && decide (l ≤ 0x8000)
  | .panicExit d p l => dieOk d && mportOk p && decide (l ≤ 0x8000)
  | .portRun d p => dieOk d && mportOk p
  | .patrolPass d _ _ => dieOk d
  | .apertureRead x n _ => apertureOk x n
  | .apertureWrite x bs _ => apertureOk x bs.length
  | .hostAperWrite _ => true
  | .packetRelease v => videoSvcOk v
  | .portTransmit l _ => ethOk l
  | .gateEntry l => ethOk l
  | .listStart l => ethOk l
  | .sapAnnounce => true
  | .flowStopSet d w _ => dieOk d && decide (w < 128)
  | .flowStopClr d w _ => dieOk d && decide (w < 128)
  | .flowQuenchSet d _ => dieOk d
  | .flowQuenchClr d _ => dieOk d
  | .cmdStop f => commandFrameOk 1 f
  | .cmdStart f => commandFrameOk 2 f
  | .cmdQuench f => commandFrameOk 3 f
  | .cmdUnquench f => commandFrameOk 4 f
  | .helloReceived h p => yhdrOk h && p.running.all chOk && decide (p.role < 8)
  | .beatReceived h p => yhdrOk h && decide (p.role < 8)
  | .heartbeatPulse _ => true
  | .heartbeatMissed _ => true
  | .helloSend => true
  | .beatSend => true
  | .pairingTimeout => true
  | .pairRetry => true
  | .stateFrame h r => yhdrOk h && recordOk r
  | .verdictFrame h ch _ _ _ => yhdrOk h && chOk ch
  | .voteFrame h q g _ _ live _ => yhdrOk h && setOk q && u16Ok g && u16Ok live
  | .decidePass h q g _ => yhdrOk h && setOk q && u16Ok g
  | .decideFail h q g => yhdrOk h && setOk q && u16Ok g
  | .decideCatchup h q g => yhdrOk h && setOk q && u16Ok g
  | .voteTimeout => true
  | .decideTimeout => true
  | .copyBulk h ch i _ _ => yhdrOk h && chOk ch && stallOk i
  | .copyRow h ch i _ _ => yhdrOk h && chOk ch && stallOk i
  | .copyMirror h ch i _ _ => yhdrOk h && chOk ch && stallOk i
  | .bulkCopyDone ch => chOk ch
  | .resyncRequest h ch => yhdrOk h && chOk ch
  | .resyncCheckpointTaken h ch pins _ => yhdrOk h && chOk ch && u16Ok pins
  | .resyncCopyDone h ch _ _ => yhdrOk h && chOk ch
  | .resyncAbort h ch => yhdrOk h && chOk ch
  | .yieldFrame h c _ _ => yhdrOk h && decide (c < 8)
  | .yokeYield _ => true
  | .yokeResync _ => true
  | .takeover => true
  | .doorbellFrame h n => yhdrOk h && sourceOk n
  | .ackFrame h => yhdrOk h
  | .reliableRetry n => decide (n < 2 ^ 32)
  | .ackTimer => true
  | .dieFault d _ => dieOk d
  | .mirrorCopy ch => chOk ch
  | .audioPacketRelease v => audioSvcOk v
  | .sampleReady f => decide (f < 512)
  | .zcTimeout isTdm u c => if isTdm then tdmOk u && decide (c < 32) else decide (u < 512) && decide (c < 64)
  | .nonAudioClear isTdm u c => if isTdm then tdmOk u && decide (c < 32) else decide (u < 512) && decide (c < 64)
  | .tdmFrame p f => tdmOk p && tdmInOk f
  | .tdmClockStop p => tdmOk p
  | .tdmFaultClear p => tdmOk p
  | .icMessageArrival _ => true
  | .icDoorbell c _ => c.all (fun i => decide (i < 32))
  | .icPendClr _ _ => true
  | .icEnSet _ => true
  | .icEnClr _ _ => true
  | .icMaskSet _ => true
  | .icMaskClr _ _ => true
  | .icRemote _ => true
  | .icClaim t _ => decide (t < 288)
  | .icComplete t _ => decide (t < 288)
  | .routingWrite n _ => sourceOk n
  | .wakeTimeout n => sourceOk n
  | .signalDetect l => laneOk l
  | .signalLoss l => laneOk l
  | .adaptationConverged l ctle dfe1 => laneOk l && decide (ctle < 32) && decide (dfe1 < 256)
  | .trainingComplete l _ _ => laneOk l
  | .trainingTimeout l => laneOk l
  | .trainingRetry l => laneOk l
  | .lockLoss l => laneOk l
  | .fecBlockEnd l _ _ _ => laneOk l
  | .ykIdleEntry l => ykOk l
  | .ykIdleExit l => ykOk l
  | .ykIdleRefresh l ctle dfe1 => ykOk l && decide (ctle < 32) && decide (dfe1 < 256)
  | .ykExitLate l => ykOk l
  | .phyTxeqWrite d b _ => blkOk d b
  | .phyReadapt d b _ => blkOk d b
  | .eyeScanStart d b _ => blkOk d b
  | .eyeScanAbort d b _ => blkOk d b
  | .eyeCellDone d b _ => blkOk d b
  | .bootLoadStart => true
  | .bootWaitEnd => true
  | .hostBootHoldRelease _ => true
  | .hostBootAbort _ => true
  | .nmosHeartbeat _ => true
  | .is05Patch _ e words _ _ => entryOk e && words.all (fun x => decide (x.1 < 32))
  | .is05Activation => true
  | .delayReqSend l => ethOk l
  | .fwWriteStaged _ => true
  | .fwWriteSettings _ => true
  | .fwEraseStaged _ => true
  | .fwEraseSettings _ => true
  | .fwConfirm _ => true
  | .fwCommandEnd _ => true
  | .tackWrite _ => true
  | .tackErase _ => true
  | .tackAttest _ => true
  | .tackCommandEnd => true
  | .packagePagesReady => true
  | .pcieLinkUp speed width _ => decide (speed < 16) && decide (width < 256)
  | .pcieConfigWrite _ _ _ _ => true
  | .referenceEdge _ _ => true
  | .tdmClockReturn p _ => tdmOk p

end Sys2Proof
end

