-- ==== Sys2Proof/Safety.lean ====
section
/-! DEFINITION. What counts as a safe run: the part's memory stays in its canonical form, and what few commands may change;
and the relations between two states that the statements are written in. -/

namespace Sys2Proof

open Sys2Proof.Machine

/-- What only a few commands change: the variant (R1), the waiting commands, the life-cycle fuses (R92), the bytes of DRAM, the
commit table (R56) and the words in effect (R71). -/
def steady (s : State) : Variant × List Instr × Nat × List Host.Cell × Tbl Word × Tbl Word :=
  (s.variant, s.pending, s.pwr.fuses, s.dram, s.ctab, s.eff)

/-- From `s` to `t` an event has struck bit `i` of `STAT` of page `k` (R46, R47): the bit is set, and an event on a set bit is
counted. -/
def Struck (k i : Nat) (s t : State) : Prop :=
  (page t k).stat = (page s k).stat ||| bitW i ∧
    (page t k).again = min ((page s k).again + if bitOf (page s k).stat i then 1 else 0) 0xFF

/-- From `s` to `t` counter `n` of page `k` has advanced by `x`, modulo 2^64 (R50). -/
def Counted (k n x : Nat) (s t : State) : Prop := counter t k n = counter s k n + BitVec.ofNat 64 x

/-- `t` is what a cold or warm reset makes of `s` (R75), but for the power state, the `MC_MAP` registers, the flash and the
tack store: every other field has its reset value, and the fuses of the image rollback, the time counter and the model's own
record of what was sent stay. -/
def Cleared (s t : State) : Prop :=
  t = ({ variant := s.variant, pending := s.pending, out := s.out, fresh := s.fresh, pwr := t.pwr
         time := { now := s.time.now, crystalOk := s.time.crystalOk }, mcs := t.mcs
         fw := { flash := t.fw.flash, rollback := s.fw.rollback }, tack := t.tack } : State)

/-- The tack store is kept, and everything else of its block is at its reset value (R496). -/
def TackKept (s t : State) : Prop :=
  t.tack = { slots := s.tack.slots, saved := s.tack.saved, idPub := s.tack.idPub, kept := s.tack.kept }

/-- Frame `f` reaches the MAC of the port whose first lane is `p` (R442, R445): the part runs, the lane is one of the port's and
the port is UP. -/
abbrev AtPort (s : State) (f : Frame) (p : Nat) : Prop :=
  inReset s = false ∧ f.lane < 4 * dies s ∧ portOf (effW s) f.lane = some p ∧ portUp s p = true

/-- The MAC of the port passes the frame on (R26, R30, R444, R445), and the first rules of R141 do not take it: it is an IPv4 UDP
packet of one fragment with a good header and at most one tag, and no PTP message. -/
abbrev PlainUdp (s : State) (f : Frame) (p : Nat) : Prop :=
  AtPort s f p ∧ f.fcsOk = true ∧ f.len ≤ 9216 ∧ f.pause = false ∧ 16 * (p / 4) + 6 ∈ s.pwr.domUp ∧ isPtp f = false ∧
    f.vlans.length ≤ 1 ∧ f.frag = false ∧ f.ipsumOk = true ∧ f.ipv4Udp = true

/-- The frame is a command that the port of first lane `p` accepts (R353): addressed to it, with room in the buffer, the tag of
the key in the port's slot, a counter above the slot's, and a valid operation and range. -/
def CommandAccepted (s : State) (f : Frame) (p op counter first count : Nat) : Prop :=
  PlainUdp s f p ∧ classify s p f = none ∧ f.dip = gateAddr (effW s) p ∧ cmdAddressed s f = some p ∧
    ((cmdHeld (port s (p / 4 * 4)) s.time.now).map (fun e => e.2)).sum + f.len ≤ 16384 ∧ cmdValid 0xCA01 op first count = true ∧
    (keySlot s (cmdKey (effW s) p)).full = true ∧ (keySlot s (cmdKey (effW s) p)).counter < counter ∧
    f.body = .command 0xCA01 op counter first count (cmdTag (keySlot s (cmdKey (effW s) p)) 0 p 0xCA01 op counter first count)

/-- What every accepted command leaves (R353): the slot's counter moved, an acknowledgement waiting in the port's management
class, the counter of accepted commands, and nothing else but what the operation itself and the frame's arrival change. -/
def CommandDone (s t : State) (f : Frame) (p op counter first count : Nat) : Prop :=
  (keySlot t (cmdKey (effW s) p)).counter = counter ∧
    (∀ n, n ≠ cmdKey (effW s) p → keySlot t n = keySlot s n) ∧
    (∃ (q : QFrame) (a : Dgram), (port t p).mgmtQ = (port s p).mgmtQ ++ [q] ∧ q.len = 74 ∧ q.ip = some a ∧
      a.src = gateAddr (effW s) p ∧ a.sport = cmdPort (effW s) p ∧ a.dst = cmdSrc (effW s) p ∧ a.dport = f.sport ∧
      a.payload = cmdBytes 0xCA01 (op + 0x80) counter first count ++
        beBytes 16 (cmdTag (keySlot s (cmdKey (effW s) p)) 1 p 0xCA01 (op + 0x80) counter first count).toNat) ∧
    Counted (pgFlow (p / 4)) 5 1 s t ∧ bitOf (page t (pgFlow (p / 4))).stat 2 = true ∧
    t = { s with time := t.time, pages := t.pages, ctrs := t.ctrs, flows := t.flows, stops := t.stops, quench := t.quench
                 ports := t.ports, dsps := t.dsps, ic := t.ic, tack := t.tack }

/-- The furrow holds what it spends under its cap (R240, R245): its log names each CTU it counts, its slices hold the log's bits, and
what is spent with what is still in reserve is no more than the cap. -/
def UnderCap (g : Nat → Word) (ch : Nat) (p : Pic) (k : Nat) : Prop :=
  (fur p k).log.length = (fur p k).ctus ∧
    (fur p k).sliceBits = logSlices (slicesPer g ch) (picFmt ch p).ctuCols (fur p k).log ∧
    (spendOf (fur p k) : Int) + (if (fur p k).ctus = 0 then reserveOf (picFmt ch p) (slicesPer g ch) p.rho k p.idr p.gdr
      else reserveAfter (picFmt ch p) (slicesPer g ch) p.rho k ((fur p k).ctus - 1) p.idr p.gdr) ≤ (fur p k).cap

/-- Furrow `k` of picture `p` codes its next CTU: its CODE item is in service (R271), the order of R212 and R247 allows it, and no word
that its motion search or its input reads is bad (R296). -/
abbrev CodesNext (s : State) (ch k : Nat) (p : Pic) : Prop :=
  (chan s ch).pics.find? (fun p => !(fur p k).coded) = some p ∧ pic? s ch p.n = some p ∧ (fur p k).planted = true ∧
    (fur p k).ctus < (picFmt ch p).ctuCols ∧ k < (picFmt ch p).furrows ∧ ctuMay (picFmt ch p) p k = true ∧
    ((dsp s (chDie s ch)).items.any
      (fun x => decide (x.key = (reportCh s ch % 32, p.n, k, kCode, 0)) && x.unit.isSome)) = true ∧
    ∀ r ∈ windowReads s ch p (fur p k).ctus k ++ inputReads s ch p k, badWords s r.die r.addr r.len = []

/-- The header of a reliable frame (R395). -/
def relHeader (c : Instr) : Option YHdr :=
  match c with
  | .stateFrame h _ => some h
  | .verdictFrame h _ _ _ _ => some h
  | .voteFrame h _ _ _ _ _ _ => some h
  | .decidePass h _ _ _ => some h
  | .decideFail h _ _ => some h
  | .decideCatchup h _ _ => some h
  | .copyBulk h _ _ _ _ => some h
  | .copyRow h _ _ _ _ => some h
  | .resyncRequest h _ => some h
  | .resyncCheckpointTaken h _ _ _ => some h
  | .resyncCopyDone h _ _ _ => some h
  | .resyncAbort h _ => some h
  | .yieldFrame h _ _ _ => some h
  | .doorbellFrame h _ => some h
  | _ => none

/-- The channel that a reliable frame concerns. -/
def relChan (c : Instr) : Option Nat :=
  match c with
  | .stateFrame _ r => some r.channel
  | .verdictFrame _ ch _ _ _ => some ch
  | .copyBulk _ ch _ _ _ => some ch
  | .copyRow _ ch _ _ _ => some ch
  | .resyncRequest _ ch => some ch
  | .resyncCheckpointTaken _ ch _ _ => some ch
  | .resyncCopyDone _ ch _ _ => some ch
  | .resyncAbort _ ch => some ch
  | _ => none

/-- A reliable frame with header `h` comes in its turn (R394, R396): the yoke is on, its checks hold, it is the next one, and none
that came early waits. -/
abbrev InTurn (s : State) (h : YHdr) : Prop :=
  yokeOn s = true ∧ h.crcOk = true ∧ h.seq = s.yoke.seqRx + 1 ∧ s.yoke.early = []

/-- From `s` to `t` the reliable frame of `m` has been sent (R394–R396): it took the next SEQ, it waits for its acknowledgement, and its bytes
have left on each lane that R456 gives it. -/
abbrev RelSent (m : YMsg) (s t : State) : Prop :=
  t.yoke.seqTx = s.yoke.seqTx + 1 ∧ { seq := t.yoke.seqTx, sends := 1, msg := m } ∈ t.yoke.unacked ∧
    ∀ l ∈ frameLanes s m, .yoke l (yFrame t.yoke.seqTx t.yoke.seqRx false m) ∈ t.out

/-- A frame of `m` has been sent and waits for its acknowledgement. -/
abbrev Awaits (m : YMsg) (t : State) : Prop := ∃ u ∈ t.yoke.unacked, u.msg = m

/-- What an evaluation of delivery may change (R426–R433): what was sent, page 2 and its counters 8, 10 and 14, redirections,
presentations, the wake queue, and the wakes it asks for; counter 2 of `PWR` counts those. `l` lists the further counters of page
2 that the command itself moves. -/
def Delivered (l : List Nat) (s t : State) : Prop :=
  (∀ k, k ≠ 2 → page t k = page s k) ∧
    (∀ k n, n < 128 → k ≠ 2 → ¬ (k = 4 ∧ n = 2) → counter t k n = counter s k n) ∧
    (∀ n, n < 128 → n ∉ l → n ∉ [8, 10, 14] → counter t 2 n = counter s 2 n) ∧
    t = { s with out := t.out, pages := t.pages, ctrs := t.ctrs
                 ic := { t.ic with timeout := s.ic.timeout, hvec := s.ic.hvec, retained := s.ic.retained }
                 pwr := { s.pwr with asleep := t.pwr.asleep, waking := t.pwr.waking, wakeWanted := t.pwr.wakeWanted
                                     sleepWanted := t.pwr.sleepWanted, sleepReg := t.pwr.sleepReg
                                     wakeStep := t.pwr.wakeStep, laneCal := t.pwr.laneCal } }

/-- From `s` to `t` source `n` has become `x`, but for its redirection, and every other source is the same but for its own. -/
def SourceIs (n : Nat) (x : Src) (s t : State) : Prop :=
  src t n = { x with redir := (src t n).redir } ∧ ∀ m, m ≠ n → src t m = { src s m with redir := (src t m).redir }

/-- The commit tables hold one entry for each word that is not at its reset value, in order, and so does the memory for its bytes. -/
def Canonical (s : State) : Prop :=
  Memory.wf s.dram = true ∧ Tbl.wf resetWord s.staged = true ∧ Tbl.wf resetWord s.live = true ∧ Tbl.wf resetWord s.eff = true

/-- What an event of lane `l` may change (R379, R446–R459): the lane itself, of the other Ethernet lanes what they hold of the blocks of a
port they share with it, and the yoke lanes, one of which may leave idle; flags and
counters of pages with their messages; and the yield that a lost port may bring. -/
def LaneEvent (l : Nat) (s t : State) : Prop :=
  (∀ m, m < 32 → m ≠ l → lane t m = { lane s m with shares := (lane t m).shares, portSyms := (lane t m).portSyms }) ∧
    t = { s with out := t.out, pages := t.pages, ctrs := t.ctrs, lanes := t.lanes
                 pwr := { s.pwr with laneCal := t.pwr.laneCal }
                 yoke := { s.yoke with pendYield := t.yoke.pendYield, seqTx := t.yoke.seqTx, ackDue := t.yoke.ackDue
                                       unacked := t.yoke.unacked }
                 ic := { s.ic with inflight := t.ic.inflight } }

/-- A boot may run (R81, R485): the package pages are ready, every control-core store is zeroised, and none has run since the
reset. -/
abbrev BootMayRun (s : State) : Prop :=
  inReset s = false ∧ s.pwr.pkgReady = true ∧ (∀ d, d < dies s → d ∈ s.pwr.ctrlZero) ∧ s.pwr.fwReady = false ∧
    s.fw.recovery = false

/-- The firmware that a boot has started is the image in region `a` (R483, R485, R496): its version and format are shown, the tack
store is loaded from its copy, and no more than the boot's own blocks has changed. -/
def Booted (a : Nat) (s t : State) : Prop :=
  t.fw.flash.active = a ∧ t.pwr = { s.pwr with fwReady := true } ∧ t.fw.recovery = false ∧
    t.fw.version = BitVec.ofNat 32 (imgWord (region t.fw.flash a) 8) ∧ t.fw.fmt = imgWord (region t.fw.flash a) 16 ∧
    t.tack.slots = s.tack.saved ∧ t.tack.saved = s.tack.saved ∧
    t = { s with fresh := t.fresh, pwr := t.pwr, pages := t.pages, ctrs := t.ctrs, ic := { s.ic with inflight := t.ic.inflight }
                 fw := t.fw, tack := t.tack }

/-- A flash or key command was turned away or ended with bit `i` of its page struck, and nothing but its block's own state has
changed with it. -/
def FwReport (i : Nat) (s t : State) : Prop :=
  Struck 5 i s t ∧ t = { s with pages := t.pages, fw := t.fw, ic := { s.ic with inflight := t.ic.inflight } }

end Sys2Proof
end

