-- ==== Sys2Proof/Certificates/Slice0/Obligations.lean ====
section
/-! DEFINITION. The statements for the provers, by family of commands. Each says where a command completes, what the next
state holds, and what stays. -/

open Sys2Proof Sys2Proof.Machine

/-! ## The step -/

/-- A step runs the command at the front of the queue on the state whose queue is the rest.

The block idles while no command waits: the model's choice (log entry 1). -/
def Obligations.StepRunsTheFront : Prop :=
  (∀ (c : Instr) (rest : List Instr) (s : State), s.pending = c :: rest → step s = exec c { s with pending := rest }) ∧
  (∀ s : State, s.pending = [] → step s = .next s)

/-! ## Power, resets, bring-up (R72–R109, R508, R509) -/

/-- A cold or warm reset clears the part (R73, R75, R77, R78, R508, R509): each way in, what it leaves and which cause its
release will set. What it leaves drives no output (R98): the lane transmitters are idle, HB_TXP/N, DOUT and the clocks of a
leader are at high impedance, MCLK_OUT is low; without supplies every output is at high impedance (R508, R509).

What rests on the model's own choices and readings here is that of log entries 3, 4, 7 and 203. -/
def Obligations.ResetsClearThePart : Prop :=
  (∀ s t : State, Cleared s t →
    (∀ l, laneDrive t l = if t.pwr.supplied then .idle else .highZ) ∧ hbDrive t = .highZ ∧
    (∀ p, doutDrive t p = .highZ ∧ bclkDrive t p = .highZ ∧ fsDrive t p = .highZ) ∧
    mclkDrive t = if t.pwr.supplied then .low else .highZ) ∧
  ∀ s : State,
    (s.pwr.supplied = false → ∃ t, exec .supplyRise s = .next t ∧ Cleared s t ∧ TackKept s t ∧ t.mcs = [] ∧
      t.fw.flash = s.fw.flash ∧
      t.pwr = { supplied := true, perst := s.pwr.perst, fuses := s.pwr.fuses, hold := true, causeBits := 1 }) ∧
    (∃ t, exec .supplyFall s = .next t ∧ Cleared s t ∧ t.mcs = [] ∧ t.fw.flash = s.fw.flash ∧
      t.tack = { slots := s.tack.saved, saved := s.tack.saved, idPub := s.tack.idPub, kept := s.tack.kept } ∧
      t.pwr = { supplied := false, perst := s.pwr.perst, fuses := s.pwr.fuses }) ∧
    (∀ v : Word, inReset s = false → fld v 31 16 = 0xA5C3 → fld v 1 0 = 2 →
      ∃ t, exec (.coldResetRequest v) s = .next t ∧ Cleared s t ∧ TackKept s t ∧ t.mcs = [] ∧ t.fw.flash = s.fw.flash ∧
        t.pwr = { supplied := true, perst := s.pwr.perst, fuses := s.pwr.fuses, hold := true, causeBits := 2 }) ∧
    (∀ v : Word, inReset s = false → fld v 31 16 = 0xA5C3 → fld v 1 0 = 1 →
      ∃ t, exec (.warmResetRequest v) s = .next t ∧ Cleared s t ∧ TackKept s t ∧ t.fw.flash = s.fw.flash ∧
        (∀ e ∈ t.mcs, e.2 = { mapReg := e.2.mapReg }) ∧
        (∀ e ∈ s.mcs, e.2.mapReg ≠ 2 → (e.1, ({ mapReg := e.2.mapReg } : Mc)) ∈ t.mcs) ∧
        t.pwr = { supplied := true, perst := s.pwr.perst, fuses := s.pwr.fuses, hold := true, causeBits := 8
                  perstMode := s.pwr.perstMode, cause := s.pwr.cause }) ∧
    (inReset s = false → s.pwr.perst = false → s.pwr.perstMode = false →
      ∃ t, exec .perstAssert s = .next t ∧ Cleared s t ∧ TackKept s t ∧ t.fw.flash = s.fw.flash ∧
        (∀ e ∈ t.mcs, e.2 = { mapReg := e.2.mapReg }) ∧
        (∀ e ∈ s.mcs, e.2.mapReg ≠ 2 → (e.1, ({ mapReg := e.2.mapReg } : Mc)) ∈ t.mcs) ∧
        t.pwr = { supplied := true, perst := true, fuses := s.pwr.fuses, perstHolds := true, causeBits := 4
                  cause := s.pwr.cause })

/-- The release of a reset is the bring-up origin (R79, R80, R101, R293, R519): the cause is recorded, FAB of every die is
up and every other domain powers up, `MC_MAP` is sampled, the time counter starts at the epoch after a supply rise alone.
While `PERST#` is asserted and PERST_MODE is 0 it holds the part on.

A link reset touches the PCI Express function and the `HOST` page alone (R73, R74, R79, R467): the boot load goes on, the
configuration space, the MSI-X table, `HOST_APER` and `HOST_SDP_SEL` are at their reset values, and the cause is recorded at
once for a PCI Express reset, and as `PERST#` is released for the other.

What rests on the model's own choices and readings here is that of log entries 3, 144 and 204. -/
def Obligations.ReleaseAndLinkReset : Prop :=
  (∀ s : State,
    (s.pwr.supplied = true → s.pwr.hold = true → (s.pwr.perst = false ∨ s.pwr.perstMode = true) →
      ∃ t, exec .resetRelease s = .next t ∧ t.pwr.cause = s.pwr.cause ||| BitVec.ofNat 32 s.pwr.causeBits ∧
        inReset t = false ∧
        (∀ x, x ∈ t.pwr.domUp ↔ ∃ d, d < dies s ∧ x = 16 * d + 15) ∧
        (∀ x, x ∈ t.pwr.domRising ↔ x < 16 * dies s ∧ x % 16 ≠ 15) ∧
        (∀ d, (mc t d).mapLive = (mc s d).mapReg ∧ mc t d = { mc s d with mapLive := (mc t d).mapLive }) ∧
        t.time = { s.time with now := if s.pwr.causeBits % 2 = 1 then 0 else s.time.now } ∧
        t.pwr = { s.pwr with hold := false, perstHolds := false, causeBits := 0, cause := t.pwr.cause, originAt := t.time.now
                             domUp := t.pwr.domUp, domRising := t.pwr.domRising } ∧
        t = { s with pwr := t.pwr, time := t.time, mcs := t.mcs }) ∧
    (s.pwr.supplied = true → s.pwr.hold = true → s.pwr.perst = true → s.pwr.perstMode = false →
      exec .resetRelease s = .next { s with pwr := { s.pwr with
        hold := false, perstHolds := true, causeBits := s.pwr.causeBits ||| 4 } }) ∧
    (s.pwr.perst = true → s.pwr.perstHolds = true →
      ∃ t, exec .perstRelease s = .next t ∧ t.pwr.cause = s.pwr.cause ||| BitVec.ofNat 32 s.pwr.causeBits ∧
        t.pwr.perst = false ∧ t.pwr.perstHolds = false ∧
        (∀ x, x ∈ t.pwr.domUp ↔ ∃ d, d < dies s ∧ x = 16 * d + 15) ∧
        (∀ x, x ∈ t.pwr.domRising ↔ x < 16 * dies s ∧ x % 16 ≠ 15) ∧
        t = { s with pwr := t.pwr, time := t.time, mcs := t.mcs })) ∧
  (∀ s : State, inReset s = false →
    (∀ n, ∃ t, exec (.pcieLinkReset n) s = .next t ∧
      t.host = { hold := s.host.hold, held := s.host.held, boot := s.host.boot, abort := s.host.abort
                 bootDone := s.host.bootDone, bootSet := s.host.bootSet, bootList := s.host.bootList } ∧
      t.pwr.cause = s.pwr.cause ||| 64 ∧ Counted 1 3 n s t ∧
      t = { s with out := t.out, pwr := t.pwr, pages := t.pages, ctrs := t.ctrs, ic := t.ic, host := t.host }) ∧
    (s.pwr.perst = false → s.pwr.perstMode = true → ∃ t, exec .perstAssert s = .next t ∧
      t.host = { hold := s.host.hold, held := s.host.held, boot := s.host.boot, abort := s.host.abort
                 bootDone := s.host.bootDone, bootSet := s.host.bootSet, bootList := s.host.bootList } ∧
      t.pwr.perst = true ∧ t.pwr.cause = s.pwr.cause ∧ inReset t = false ∧
      t = { s with out := t.out, pwr := t.pwr, pages := t.pages, ctrs := t.ctrs, ic := t.ic, host := t.host }) ∧
    (s.pwr.perst = true → exec .perstRelease s = .next { s with pwr := { s.pwr with
      perst := false, cause := s.pwr.cause ||| 32 } }))

/-- Bring-up and wake events of one die or of the package (R81, R88, R89, R309): what each records, in the order of R81, and
that it changes nothing else; with a failed training the `MC` page is in FAULT and the die has an uncorrectable fault.

What rests on the model's own choices and readings here is that of log entries 6, 148 and 149. -/
def Obligations.BringUpEventsRecorded : Prop :=
  ∀ (d : Nat) (s : State), inReset s = false → d < dies s →
    (exec (.ctrlStoreZeroised d) s = .next { s with pwr := { s.pwr with ctrlZero := NSet.add s.pwr.ctrlZero d } }) ∧
    (d ∈ s.pwr.ctrlZero → 16 * d + 8 ∈ s.pwr.domUp → 16 * d + 9 ∈ s.pwr.domUp → d ∉ s.pwr.trained →
        (page s (pkey d 0x101)).fault = false →
      exec (.dramTrainingDone d 0) s = .next { s with pwr := { s.pwr with trained := NSet.add s.pwr.trained d } } ∧
      ∀ n, 0 < n → exec (.dramTrainingDone d n) s = exec (.dieFault d none) s ∧
        ∃ t, exec (.dramTrainingDone d n) s = .next t ∧ (page t (pkey d 0x101)).fault = true ∧ t.pwr.trained = s.pwr.trained) ∧
    (d ∈ s.pwr.trained →
        (granules s d < 59 ∨ granules s d = 59 ∧ s.pwr.pkgReady = true ∧ s.pwr.fwReady = true ∧ lanesReady s d = true) →
      ∃ t, exec (.granuleWiped d) s = .next t ∧
      (∀ e, granules t e = if e = d then granules s d + 1 else granules s e) ∧
      t = { s with pwr := { s.pwr with granules := t.pwr.granules } }) ∧
    ((∀ e, e < dies s → 0 < granules s e ∨ (page s (pkey e 0x101)).fault = true) →
      exec .packagePagesReady s = .next { s with pwr := { s.pwr with pkgReady := true } }) ∧
    (s.pwr.fwReady = true → 16 * d + 13 ∈ s.pwr.domUp → 16 * d + 14 ∈ s.pwr.domUp →
      ∃ t, exec (.sramZeroised d) s = .next t ∧ (∀ e, e ≠ d → dsp t e = dsp s e) ∧ (dsp t d).items = (dsp s d).items ∧
        t = { s with pwr := { s.pwr with sramZero := NSet.add s.pwr.sramZero d }, dsps := t.dsps })

/-- Power domains (R87, R101–R104, R109): power-good makes a domain usable, and a set that waited for it enters APPLY; its
absence makes the domain's pages faulty and refuses a waiting set; an unneeded domain goes down; a hold powers its domain
up.

What rests on the model's own choices and readings here is that of log entries 39 and 145. -/
def Obligations.DomainsRiseAndFall : Prop :=
  ∀ (d i : Nat) (s : State), inReset s = false → d < dies s →
    (i < 15 → mayRise s d i = true → ∃ t, exec (.domainPowerUpDone d i) s = .next t ∧
      t.pwr.domUp = NSet.add s.pwr.domUp (16 * d + i) ∧ t.pwr.domOnce = NSet.add s.pwr.domOnce (16 * d + i) ∧
      Counted 4 5 1 s t ∧
      (s.checking = none → t = { s with ctrs := t.ctrs, pwr := { s.pwr with
        domUp := t.pwr.domUp, domOnce := t.pwr.domOnce, domRising := NSet.del s.pwr.domRising (16 * d + i) } }) ∧
      (∀ q, s.checking = some q → (cset s q).phase = .domains →
        (∀ x ∈ domainsMissing s (candidate s (cset s q).entry), x = 16 * d + i) →
        (cset t q).st = .apply ∧ t.checking = none)) ∧
    (i < 15 → 16 * d + i ∈ s.pwr.domRising → ∃ t, exec (.domainPowerGoodTimeout d i) s = .next t ∧
      t.pwr.domFault = NSet.add s.pwr.domFault (16 * d + i) ∧ t.pwr.domRising = NSet.del s.pwr.domRising (16 * d + i) ∧
      (∀ k ∈ domainPages d i, (page t k).fault = true) ∧ bitOf (page t 4).stat 3 = true ∧
      (∀ q, s.checking = some q → (cset s q).phase = .domains →
        16 * d + i ∈ domainsMissing s (candidate s (cset s q).entry) →
        (cset t q).st = .failed ∧ (cset t q).cause = 15 ∧ t.checking = none)) ∧
    (i < 6 → 16 * d + i ∈ s.pwr.domUp → domNeeded s d i = false → domBusy s d i = false →
      ∃ t, exec (.domainPowerDown d i) s = .next t ∧ t.pwr.domUp = NSet.del s.pwr.domUp (16 * d + i) ∧ Counted 4 6 1 s t ∧
        t = { s with ctrs := t.ctrs, pwr := { s.pwr with domUp := t.pwr.domUp } }) ∧
    (∀ v : Word, ∃ t, exec (.domainHoldWrite d v) s = .next t ∧
      (∀ e, t.pwr.domHold.get (fun _ => 0) e = if e = d then v.toNat % 64 else s.pwr.domHold.get (fun _ => 0) e) ∧
      (∀ j, j < 6 → v.toNat.testBit j = true → 16 * d + j ∈ t.pwr.domUp ∨ 16 * d + j ∈ t.pwr.domRising) ∧
      t = { s with pwr := { s.pwr with domHold := t.pwr.domHold, domRising := t.pwr.domRising } })

/-- The life cycle (R92–R95, R496): ARM takes the one state that may follow, while nothing runs or commits; GO with the
armed target blows one fuse, empties the tack store and resets the part; any other ARM or GO is refused with LC_REFUSED; ARM
lapses after 1 ms. -/
def Obligations.LifeCycleMovesOneStep : Prop :=
  ∀ (v : Word) (s : State), inReset s = false →
    (fld v 31 28 = 1 → fld v 1 0 = lcNext s.pwr.fuses → s.pwr.fuses < 15 → anyRunning s = false → anySetBusy s = false →
      exec (.lcArm v) s = .next { s with pwr := { s.pwr with armed := true, target := fld v 1 0 } }) ∧
    (fld v 31 28 = 1 →
      (fld v 1 0 ≠ lcNext s.pwr.fuses ∨ 15 ≤ s.pwr.fuses ∨ anyRunning s = true ∨ anySetBusy s = true) →
      ∃ t, exec (.lcArm v) s = .next t ∧ Struck 4 4 s t ∧
        t = { s with pages := t.pages, ic := t.ic, pwr := { s.pwr with armed := false } }) ∧
    (fld v 31 28 = 2 → s.pwr.armed = true → s.pwr.target = fld v 1 0 →
      ∃ t, exec (.lcGo v) s = .next t ∧ Cleared s t ∧ t.tack = { kept := false } ∧
        t.fw.flash = (if lcState s.pwr.fuses = 3 then { s.fw.flash with settings := [] } else s.fw.flash) ∧
        t.pwr = { supplied := true, perst := s.pwr.perst, fuses := s.pwr.fuses + 1, hold := true, causeBits := 16
                  perstMode := s.pwr.perstMode, cause := s.pwr.cause }) ∧
    (fld v 31 28 = 2 → ¬ (s.pwr.armed = true ∧ s.pwr.target = fld v 1 0) →
      ∃ t, exec (.lcGo v) s = .next t ∧ Struck 4 4 s t ∧
        t = { s with pages := t.pages, ic := t.ic, pwr := { s.pwr with armed := false } }) ∧
    (exec .lcArmTimeout s = .next { s with pwr := { s.pwr with armed := false } })

/-- Die sleep (R105–R109, R311): a request that nothing on the die forbids starts the entry, and READY of every page of the
die but its `DIE` page falls; one that finds the die in use is refused and counted; a sleeping die has lost domains 0 to 14
and keeps its DRAM in self-refresh; a wake request starts the wake.

The wake's steps in their order (R108): domains 6 to 14, DRAM out of self-refresh at the classes read, the interrupt state,
the SRAM wipe, and the firmware, with which the wake ends.

What rests on the model's own choices and readings here is that of log entries 6, 146 and 147. -/
def Obligations.DiesSleepAndWake : Prop :=
  (∀ (d : Nat) (s : State), inReset s = false → d < dies s →
    (d ≠ 0 → d ∉ s.pwr.waking → d ∉ s.pwr.asleep → d ∉ s.pwr.entering → dieInUse s d = false →
      ∃ t, exec (.dieSleepRequest d) s = .next t ∧ d ∈ t.pwr.entering ∧ d ∈ t.pwr.sleepReg ∧ Counted 4 1 1 s t ∧
        (∀ p, p < 8192 → p ≠ 0x100 → ready t (pkey d p) = false) ∧
        t = { s with out := t.out, pages := t.pages, ctrs := t.ctrs, ic := t.ic, pwr := t.pwr, lanes := t.lanes }) ∧
    (d ≠ 0 → d ∉ s.pwr.waking → d ∉ s.pwr.asleep → d ∉ s.pwr.entering → dieInUse s d = true →
      ∃ t, exec (.dieSleepRequest d) s = .next t ∧ Struck 4 0 s t ∧ Counted 4 3 1 s t ∧
        t = { s with pages := t.pages, ctrs := t.ctrs, ic := t.ic
                     pwr := { s.pwr with sleepReg := NSet.del s.pwr.sleepReg d } }) ∧
    (d ∈ s.pwr.waking → exec (.dieSleepRequest d) s = .next { s with pwr := { s.pwr with
      sleepWanted := NSet.add s.pwr.sleepWanted d, sleepReg := NSet.add s.pwr.sleepReg d } }) ∧
    (d ∈ s.pwr.entering → ∃ t, exec (.dieAsleep d) s = .next t ∧
      (∀ i, i < 15 → 16 * d + i ∉ t.pwr.domUp) ∧ (∀ x ∈ s.pwr.domUp, x / 16 ≠ d → x ∈ t.pwr.domUp) ∧
      (mc t d).selfRefresh = true ∧ d ∉ t.pwr.entering ∧
      (if d ∈ s.pwr.wakeWanted then d ∈ t.pwr.waking else d ∈ t.pwr.asleep) ∧
      t = { s with ctrs := t.ctrs, mcs := t.mcs, pwr := t.pwr }) ∧
    (d ∈ s.pwr.entering → ∃ t, exec (.dieWakeRequest d) s = .next t ∧ d ∈ t.pwr.wakeWanted ∧ d ∉ t.pwr.sleepReg ∧
      t = { s with pwr := t.pwr }) ∧
    (d ∉ s.pwr.entering → d ∈ s.pwr.asleep → ∃ t, exec (.dieWakeRequest d) s = .next t ∧ d ∈ t.pwr.waking ∧
      d ∉ t.pwr.asleep ∧ d ∉ t.pwr.sleepReg ∧ Counted 4 2 1 s t ∧ t = { s with ctrs := t.ctrs, pwr := t.pwr })) ∧
  (∀ (d : Nat) (s : State), inReset s = false → d < dies s → d ∈ s.pwr.waking → d ∉ s.pwr.asleep → d ∉ s.pwr.entering →
    (s.pwr.wakeStep.get (fun _ => 0) d = 0 → ∃ t, exec (.wakeDomainsUp d) s = .next t ∧
      (∀ i, 6 ≤ i → i < 15 → 16 * d + i ∈ t.pwr.domUp) ∧ t.pwr.wakeStep.get (fun _ => 0) d = 1 ∧ Counted 4 5 9 s t ∧
      t = { s with ctrs := t.ctrs, pwr := { s.pwr with domUp := t.pwr.domUp, wakeStep := t.pwr.wakeStep } }) ∧
    (∀ codes, s.pwr.wakeStep.get (fun _ => 0) d = 1 → ∃ t, exec (.wakeDramReady d codes) s = .next t ∧
      (mc t d).selfRefresh = false ∧ t.pwr.wakeStep.get (fun _ => 0) d = 2 ∧
      t = { s with pages := t.pages, ctrs := t.ctrs, ic := t.ic, mcs := t.mcs
                   pwr := { s.pwr with wakeStep := t.pwr.wakeStep } }) ∧
    (s.pwr.wakeStep.get (fun _ => 0) d = 2 → ∃ t, exec (.wakeInterruptRestore d) s = .next t ∧
      d ∉ t.ic.retained ∧ t.pwr.wakeStep.get (fun _ => 0) d = 3 ∧ d ∈ t.pwr.waking ∧
      t = { s with out := t.out, pages := t.pages, ctrs := t.ctrs, ic := t.ic, pwr := t.pwr }) ∧
    (s.pwr.wakeStep.get (fun _ => 0) d = 3 → ∃ t, exec (.wakeSramZeroised d) s = .next t ∧
      t.pwr.wakeStep.get (fun _ => 0) d = 4 ∧ (∀ e, e ≠ d → dsp t e = dsp s e) ∧ (dsp t d).items = (dsp s d).items ∧
      t = { s with pwr := { s.pwr with wakeStep := t.pwr.wakeStep }, dsps := t.dsps }) ∧
    (s.pwr.wakeStep.get (fun _ => 0) d = 4 → ∃ t, exec (.wakeFirmwareStarted d) s = .next t ∧
      d ∉ t.pwr.waking ∧
      (d ∉ s.pwr.sleepWanted → ∀ i, i < 4 → 4 * d + i ∈ t.pwr.laneCal ∧
        ((lane s (4 * d + i)).st = 0 → (lane t (4 * d + i)).st = 1)) ∧
      t = { s with out := t.out, pages := t.pages, ctrs := t.ctrs, ic := t.ic, pwr := t.pwr, lanes := t.lanes }))

/-! ## Registers (R4, R36–R57) -/

/-- An absent die reads zero, discards writes, and has no other effect (R4): every register access and every command on a
page of it. -/
def Obligations.AbsentDieReadsZeroAndDiscards : Prop :=
  ∀ (s : State) (d p : Nat), dies s ≤ d → p < 8192 →
    (∀ req off size, off < 4096 → pkey d p < 2 ^ 16 → readReg s req (ploc (pkey d p) off) size = 0) ∧
    (∀ req off size v, off < 4096 → pkey d p < 2 ^ 16 → exec (.registerWrite req (ploc (pkey d p) off) size v) s = .next s ∧
      exec (.stageWrite req false (ploc (pkey d p) off) size v) s = .next s) ∧
    (∀ v w b, exec (.commit d p v) s = .next s ∧ exec (.statClear d p v w) s = .next s ∧ exec (.statSet d p v) s = .next s ∧
      exec (.statAgainClear d p v b) s = .next s ∧ exec (.imaskWrite d p v) s = .next s ∧
      exec (.imaskSet d p v) s = .next s ∧ exec (.imaskClr d p v) s = .next s) ∧
    (∀ req n, exec (.counterLowRead req d p n) s = .next s)

/-- A page number that R37 does not list reads zero and discards writes (R38). -/
def Obligations.UnlistedPageReadsZeroAndDiscards : Prop :=
  ∀ (s : State) (d p : Nat), d < 8 → p < 8192 → diePage p = false → (packagePage p = false ∨ d ≠ 0) →
    (∀ req off size, off < 4096 → readReg s req (ploc (pkey d p) off) size = 0) ∧
    (∀ req off size v, off < 4096 → exec (.registerWrite req (ploc (pkey d p) off) size v) s = .next s ∧
      exec (.stageWrite req false (ploc (pkey d p) off) size v) s = .next s) ∧
    (∀ v w b, exec (.commit d p v) s = .next s ∧ exec (.statClear d p v w) s = .next s ∧ exec (.statSet d p v) s = .next s ∧
      exec (.statAgainClear d p v b) s = .next s ∧ exec (.imaskWrite d p v) s = .next s ∧
      exec (.imaskSet d p v) s = .next s ∧ exec (.imaskClr d p v) s = .next s) ∧
    (∀ req n, exec (.counterLowRead req d p n) s = .next s)

/-- `PAGE_ID` reads the block type and the instance of R37 and layout version 1, channel 6's CH page reads 0x0030_0601 on
every die, and a write is discarded (R43). -/
def Obligations.PageIdReadsTypeAndInstance : Prop :=
  ∀ (s : State) (req : Requester), inReset s = false →
    (∀ k, pageExists s k = true →
      fld (readReg s req (4096 * k) 4) 31 16 = pageType (keyPage k) ∧
      fld (readReg s req (4096 * k) 4) 15 8 = pageInstance (keyPage k) ∧ fld (readReg s req (4096 * k) 4) 7 0 = 1) ∧
    (∀ d, d < dies s → readReg s req (ploc (chPage 0x200 (32 * d + 6)) 0) 4 = 0x00300601) ∧
    (∀ k v, pageExists s k = true → exec (.registerWrite req (ploc k 0) 4 v) s = .next s)

/-- `IMASK` (R48): its reset value; a masked bit sends no message; `IMASK_SET` and `IMASK_CLR` change only the bits written
as 1; all three registers read the mask. -/
def Obligations.MaskSetAndClear : Prop :=
  (∀ k, (page State.reset k).imask = 0xFFFFFFFF) ∧
  ∀ (s : State) (d p : Nat), inReset s = false → p < 8192 → pageExists s (pkey d p) = true →
    (∀ req off, off = 0x20 ∨ off = 0x24 ∨ off = 0x28 →
      readReg s req (ploc (pkey d p) off) 4 = (page s (pkey d p)).imask) ∧
    (∀ v, ∃ t, exec (.imaskSet d p v) s = .next t ∧ (page t (pkey d p)).imask = (page s (pkey d p)).imask ||| v ∧
      page t (pkey d p) = { page s (pkey d p) with imask := (page t (pkey d p)).imask } ∧
      (∀ k, k ≠ pkey d p → page t k = page s k) ∧ t = { s with pages := t.pages }) ∧
    (∀ v, ∃ t, exec (.imaskClr d p v) s = .next t ∧ (page t (pkey d p)).imask = (page s (pkey d p)).imask &&& ~~~v ∧
      page t (pkey d p) = { page s (pkey d p) with imask := (page t (pkey d p)).imask } ∧
      (∀ k, k ≠ pkey d p → page t k = page s k) ∧
      t = { s with pages := t.pages, ic := { s.ic with inflight := t.ic.inflight } }) ∧
    (∀ v, v &&& ~~~(page s (pkey d p)).imask = 0 → ∃ t, exec (.statSet d p v) s = .next t ∧ t.ic.inflight = s.ic.inflight)

/-- `STAT` and its messages (R46, R47, R49): an event sets its bit, one on a set bit is counted, and one message leaves when
an unmasked bit rises while EN is 1; a clear leaves a bit that an event strikes in the same cycle set, and counts it;
unmasking a set bit sends; `STAT_AGAIN` is cleared by zero in COUNT alone, and a count in the same cycle leaves 1.

What rests on the model's own choices and readings here is that of log entry 9. -/
def Obligations.StatusBitsAndMessages : Prop :=
  ∀ (s : State) (d p : Nat), inReset s = false → p < 8192 → pageExists s (pkey d p) = true →
    (∀ v, ∃ t, exec (.statSet d p v) s = .next t ∧
      page t (pkey d p) = { page s (pkey d p) with
        stat := (page s (pkey d p)).stat ||| (v &&& statMask (pkey d p))
        again := min ((page s (pkey d p)).again + ones (v &&& statMask (pkey d p) &&& (page s (pkey d p)).stat)) 0xFF } ∧
      (∀ k, k ≠ pkey d p → page t k = page s k) ∧
      t.ic.inflight = s.ic.inflight ++ (if (page s (pkey d p)).evtEn = true ∧
          v &&& statMask (pkey d p) &&& ~~~(page s (pkey d p)).stat &&& ~~~(page s (pkey d p)).imask ≠ 0
        then [(pkey d p, (page s (pkey d p)).evtSrc)] else []) ∧
      t = { s with pages := t.pages, ic := { s.ic with inflight := t.ic.inflight } }) ∧
    (∀ v w, ∃ t, exec (.statClear d p v w) s = .next t ∧
      (page t (pkey d p)).stat = ((page s (pkey d p)).stat &&& ~~~v) ||| (w &&& statMask (pkey d p)) ∧
      (page t (pkey d p)).again = min ((page s (pkey d p)).again +
        ones (w &&& statMask (pkey d p) &&& (v ||| (page s (pkey d p)).stat))) 0xFF ∧
      t.ic.inflight = s.ic.inflight ++ (if (page s (pkey d p)).evtEn = true ∧
          w &&& statMask (pkey d p) &&& ~~~(page s (pkey d p)).stat &&& ~~~(page s (pkey d p)).imask ≠ 0
        then [(pkey d p, (page s (pkey d p)).evtSrc)] else []) ∧
      (∀ k, k ≠ pkey d p → page t k = page s k) ∧
      t = { s with pages := t.pages, ic := { s.ic with inflight := t.ic.inflight } }) ∧
    (∀ (v : Word) (b : Bool), ∃ t, exec (.statAgainClear d p v b) s = .next t ∧
      page t (pkey d p) = { page s (pkey d p) with again := (page t (pkey d p)).again } ∧
      (page t (pkey d p)).again = (if fld v 7 0 = 0 then (if b then 1 else 0)
        else if b then min ((page s (pkey d p)).again + 1) 0xFF else (page s (pkey d p)).again) ∧
      (∀ k, k ≠ pkey d p → page t k = page s k) ∧ t = { s with pages := t.pages }) ∧
    (∀ v, ∃ t, exec (.imaskWrite d p v) s = .next t ∧ page t (pkey d p) = { page s (pkey d p) with imask := v } ∧
      t.ic.inflight = s.ic.inflight ++ (if (page s (pkey d p)).evtEn = true ∧
          (page s (pkey d p)).imask &&& ~~~v &&& (page s (pkey d p)).stat ≠ 0
        then [(pkey d p, (page s (pkey d p)).evtSrc)] else []) ∧
      (∀ k, k ≠ pkey d p → page t k = page s k) ∧
      t = { s with pages := t.pages, ic := { s.ic with inflight := t.ic.inflight } })

/-- Reads that latch (R50, R122, R226, R397), by a requester whose requests the function decodes (R460): the low word is
returned, and a later read of the high word by the same requester returns what was latched with it, whatever has changed
since in the register; nothing else of the part changes.

Accesses that the function decodes (R460, R463): in D3hot no request of the host is answered or has an effect, and those of
the control cores go on; an aligned 8-byte read outside BAR0 gives both its words.

What rests on the model's own choices and readings here is that of log entries 18, 20, 155 and 194. -/
def Obligations.LatchingReads : Prop :=
  (∀ (s : State) (req : Requester), inReset s = false → decoded req s = true →
     (∀ d p n, p < 8192 → pageExists s (pkey d p) = true → n < 128 → ∃ t, exec (.counterLowRead req d p n) s = .next t ∧
       t.out = .read (BitVec.ofNat 32 (shownCounter s (pkey d p) n).toNat) :: s.out ∧
       readReg t req (ploc (pkey d p) (0xC04 + 8 * n)) 4 = BitVec.ofNat 32 ((shownCounter s (pkey d p) n).toNat / 2 ^ 32) ∧
       (∀ r m, r ≠ req → held t r (pkey d p) m = held s r (pkey d p) m) ∧
       t = { s with out := t.out, hold := t.hold }) ∧
     (∃ t, exec (.timeSnapRead req) s = .next t ∧
       t.out = .read (BitVec.ofNat 32 (s.time.now % 1000000000)) :: s.out ∧
       readReg t req (ploc 3 0x114) 4 = BitVec.ofNat 32 (s.time.now / 1000000000) ∧
       readReg t req (ploc 3 0x118) 4 = BitVec.ofNat 32 (s.time.now / 1000000000 / 2 ^ 32 % 2 ^ 16) ∧
       t = { s with out := t.out, hold := t.hold }) ∧
     (∀ d e, d < dies s → e < 4 → ∃ t, exec (.barnMarkRead req d e) s = .next t ∧
       t.out = .read (barnMarks s (pkey d (0x120 + e)) 0) :: s.out ∧
       readReg t req (ploc (pkey d (0x120 + e)) 0x118) 4 = barnMarks s (pkey d (0x120 + e)) 8 ∧
       readReg t req (ploc (pkey d (0x120 + e)) 0x11C) 4 = barnPins s (pkey d (0x120 + e)) ∧
       (∀ i, i < 16 → readReg t req (ploc (pkey d (0x120 + e)) (0x120 + 4 * i)) 4 = barnPoc s (pkey d (0x120 + e)) i) ∧
       t = { s with out := t.out, hold := t.hold }) ∧
     (∀ b : Bool, ∃ t, exec (.yokeSinceRead req b) s = .next t ∧
       t.out = .read (BitVec.ofNat 32 (if b then s.yoke.takeAt else s.yoke.since)) :: s.out ∧
       readReg t req (ploc 7 (if b then 0x11C else 0x10C)) 4 =
         BitVec.ofNat 32 ((if b then s.yoke.takeAt else s.yoke.since) / 2 ^ 32) ∧
       t = { s with out := t.out, hold := t.hold })) ∧
  (∀ s : State, inReset s = false →
     decoded .core s = true ∧ (decoded .host s = !s.host.d3hot) ∧
     (∀ r a, readAccess s .core a 4 = some ((readReg s .core a 4).setWidth 64) ∧
       (r ≠ .core → s.host.d3hot = true → ∀ n, readAccess s r a n = none) ∧
       (decoded r s = true → 2 ^ 28 ≤ a → a % 8 = 0 → ∃ x, readAccess s r a 8 = some x ∧
         x.toNat = (readReg s r a 8).toNat + 2 ^ 32 * (readReg s r (a + 4) 4).toNat)) ∧
     (∀ r, decoded r s = false → s.host.d3hot = true ∧
       (∀ a n v, exec (.registerWrite r a n v) s = .next s) ∧ (∀ b a n v, exec (.stageWrite r b a n v) s = .next s) ∧
       (∀ d p n, exec (.counterLowRead r d p n) s = .next s) ∧ exec (.timeSnapRead r) s = .next s ∧
       (∀ d e, exec (.barnMarkRead r d e) s = .next s) ∧ (∀ b, exec (.yokeSinceRead r b) s = .next s)) ∧
     (s.host.d3hot = true → ∀ v, exec (.hostAperWrite v) s = .next s))

/-- Reads with an effect (R50, R122, R226, R397) and the package furrow boundary (R71, R131) complete: each read answers its
low word and latches the rest for its requester; the boundary comes, and the boot hold's outputs follow its register; at a
picture boundary (R118) an ARMED channel is RUNNING and one that is IDLE or FAULTED stays as it is.

What rests on the model's own choices and readings here is that of log entries 20, 46, 61 and 155. -/
def Obligations.ReadsAndBoundariesComplete : Prop :=
  ∀ (s : State) (req : Requester), inReset s = false → decoded req s = true →
    (∀ d p n, p < 8192 → pageExists s (pkey d p) = true → n < 128 → exec (.counterLowRead req d p n) s =
      .next { s with
        out := .read (BitVec.ofNat 32 (shownCounter s (pkey d p) n).toNat) :: s.out
        hold := s.hold.set (fun _ => 0) (holdKey req (pkey d p) 0)
          (BitVec.ofNat 32 ((shownCounter s (pkey d p) n).toNat / 2 ^ 32)) }) ∧
    (exec (.timeSnapRead req) s = .next { s with
      out := .read (BitVec.ofNat 32 (s.time.now % 1000000000)) :: s.out
      hold := (s.hold.set (fun _ => 0) (holdKey req 3 1) (BitVec.ofNat 32 (s.time.now / 1000000000))).set (fun _ => 0)
        (holdKey req 3 2) (BitVec.ofNat 32 (s.time.now / 1000000000 / 2 ^ 32 % 2 ^ 16)) }) ∧
    (∀ d e, d < dies s → e < 4 → ∃ t, exec (.barnMarkRead req d e) s = .next t ∧
      t.out = .read (barnMarks s (pkey d (0x120 + e)) 0) :: s.out ∧
      held t req (pkey d (0x120 + e)) 8 = barnMarks s (pkey d (0x120 + e)) 8 ∧
      held t req (pkey d (0x120 + e)) 9 = barnPins s (pkey d (0x120 + e)) ∧ t = { s with out := t.out, hold := t.hold }) ∧
    (∀ b : Bool, exec (.yokeSinceRead req b) s = .next { s with
      out := .read (BitVec.ofNat 32 (if b then s.yoke.takeAt else s.yoke.since)) :: s.out
      hold := s.hold.set (fun _ => 0) (holdKey req 7 0)
        (BitVec.ofNat 32 ((if b then s.yoke.takeAt else s.yoke.since) / 2 ^ 32)) }) ∧
    (∃ t, exec .packageFurrowBoundary s = .next t ∧ t.host.held = s.host.hold ∧ t.variant = s.variant ∧
      ∀ d, d < dies s → (port t (4 * d)).mgmtBuf = 0) ∧
    (∀ ch, ch < 32 * dies s →
      ((chan s ch).st = .armed → ∃ t, exec (.pictureBoundary ch) s = .next t ∧ (chan t ch).st = .running ∧
        (chan t ch).next = nextPicture s ch + 1 ∧ bitOf (page t (pgCh s ch)).stat 9 = true) ∧
      ((chan s ch).st = .idle ∨ (chan s ch).st = .faulted → exec (.pictureBoundary ch) s = .next s))

/-- A register's type decides what a write does (R42, R46, R48, R52, R72, R288): a staged word is staged, a header command
acts, a read-write register takes the value in its range and keeps its own outside it.

What rests on the model's own choices and readings here is that of log entries 9, 12, 13 and 194. -/
def Obligations.RegisterWritesActByType : Prop :=
  ∀ (s : State) (req : Requester) (d p off : Nat) (v : BitVec 64), inReset s = false → decoded req s = true → p < 8192 → pageExists s (pkey d p) = true →
    (0x100 ≤ off → off < 0x800 → off % 4 = 0 → stagedPage p = true →
      exec (.registerWrite req (ploc (pkey d p) off) 4 v) s = exec (.stageWrite req false (ploc (pkey d p) off) 4 v) s) ∧
    (exec (.registerWrite req (ploc (pkey d p) 0x10) 4 v) s = exec (.statClear d p (v.setWidth 32) 0) s ∧
      exec (.registerWrite req (ploc (pkey d p) 0x14) 4 v) s = exec (.statSet d p (v.setWidth 32)) s ∧
      exec (.registerWrite req (ploc (pkey d p) 0x24) 4 v) s = exec (.imaskSet d p (v.setWidth 32)) s ∧
      exec (.registerWrite req (ploc (pkey d p) 0x48) 4 v) s = exec (.commit d p (v.setWidth 32)) s) ∧
    (exec (.registerWrite req (ploc 4 0x108) 4 v) s =
      .next { s with pwr := { s.pwr with cause := v.setWidth 32 &&& 0x7F } }) ∧
    (d < dies s → 10 ≤ fld (v.setWidth 32) 19 0 → fld (v.setWidth 32) 19 0 ≤ 1000000 →
      ∃ t, exec (.registerWrite req (ploc (pkey d 0x102) 0x100) 4 v) s = .next t ∧
        (dsp t d).window = fld (v.setWidth 32) 19 0 ∧ (∀ e, e ≠ d → dsp t e = dsp s e) ∧ t = { s with dsps := t.dsps }) ∧
    (d < dies s → fld (v.setWidth 32) 19 0 < 10 ∨ 1000000 < fld (v.setWidth 32) 19 0 →
      exec (.registerWrite req (ploc (pkey d 0x102) 0x100) 4 v) s = .next s)

/-- A staged write (R39, R51–R53): the staged word takes the bits that its register has, no live word changes, and the page
is dirty; while the page's set is in CHECK the write is discarded and STAGE_LOST is struck.

A staged write to a table of BAR2 (R39, R52, R53): the words named, one or two, take their bits, and no other does.

What rests on the model's own choices and readings here is that of log entries 12, 13, 143 and 150. -/
def Obligations.WritesChangeStagingAlone : Prop :=
  (∀ (s : State) (req : Requester) (d p off : Nat) (v : BitVec 64), inReset s = false → decoded req s = true → p < 8192 → pageExists s (pkey d p) = true →
    stagedPage p = true → 0x100 ≤ off → off < 0x800 → off % 4 = 0 →
    (locked false s (pkey d p) = false → ∃ t, exec (.stageWrite req false (ploc (pkey d p) off) 4 v) s = .next t ∧
      (∀ a, stagedW t a = if a = ploc (pkey d p) off then v.setWidth 32 &&& fieldMask a else stagedW s a) ∧
      page t (pkey d p) = { page s (pkey d p) with dirty := true } ∧
      (∀ k, k ≠ pkey d p → page t k = page s k) ∧ t = { s with pages := t.pages, staged := t.staged }) ∧
    (locked false s (pkey d p) = true → ∃ t, exec (.stageWrite req false (ploc (pkey d p) off) 4 v) s = .next t ∧
      Struck (pkey d p) 29 s t ∧ t = { s with pages := t.pages, ic := { s.ic with inflight := t.ic.inflight } })) ∧
  (∀ (s : State) (req : Requester) (o : Nat) (v : BitVec 64), inReset s = false → decoded req s = true → tablePageOk s (o / 4096) = true →
    (setsNaming true s (o / 4096)).all (fun q => decide ((cset s q).st ≠ .check)) = true →
    (o % 4 = 0 → ∃ t, exec (.stageWrite req true o 4 v) s = .next t ∧
      (∀ a, stagedW t a = if a = bar2loc o then v.setWidth 32 &&& fieldMask a else stagedW s a) ∧
      t = { s with pages := t.pages, staged := t.staged }) ∧
    (o % 8 = 0 → ∃ t, exec (.stageWrite req true o 8 v) s = .next t ∧
      (∀ a, stagedW t a = if a = bar2loc o then v.setWidth 32 &&& fieldMask a
        else if a = bar2loc (o + 4) then (v >>> 32).setWidth 32 &&& fieldMask a else stagedW s a) ∧
      t = { s with pages := t.pages, staged := t.staged }))

/-- The commit table's entries (R57): written only while the set is IDLE, DONE or FAILED; else the write is discarded and
TABLE_LOST of the PKG page is struck; the check uses the entry as it stood when `COMMIT` was written. -/
def Obligations.TableEntryWritableOutsideTheCheck : Prop :=
  ∀ (s : State) (q w : Nat) (v : Word), inReset s = false → q < 1024 → w < 14 →
    ((cset s q).st = .idle ∨ (cset s q).st = .done ∨ (cset s q).st = .failed →
      ∃ t, exec (.commitTableWrite q w v) s = .next t ∧
        (∀ a, t.ctab.get (fun _ => 0) a = if a = 16 * q + w then v &&& 0xFFFFFFFE else s.ctab.get (fun _ => 0) a) ∧
        t = { s with ctab := t.ctab }) ∧
    ((cset s q).st = .queued ∨ (cset s q).st = .check ∨ (cset s q).st = .apply →
      ∃ t, exec (.commitTableWrite q w v) s = .next t ∧ Struck 0 27 s t ∧
        t = { s with pages := t.pages, ctrs := t.ctrs, ic := { s.ic with inflight := t.ic.inflight } }) ∧
    (∀ d p u, p < 8192 → pageExists s (pkey d p) = true → aliasSet s (pkey d p) = some q → setBusy s q = false →
      ∃ t, exec (.commit d p u) s = .next t ∧ (cset t q).entry = entryOf s q)

/-- `COMMIT` (R60–R63, R94): it queues its set with the generation named; a set on its way ignores it; an armed life cycle
refuses it at once; a page of no set ignores it.

The check (R62–R69): sets are checked one at a time, in the order of their `COMMIT` writes; one that passes every test on a
part that is not paired, with its domains up, makes its staged words live and takes its generation; one that fails changes
no live or staged word and records its cause.

What rests on the model's own choices and readings here is that of log entries 27, 28, 43, 145, 193 and 202. -/
def Obligations.CommitAndCheck : Prop :=
  (∀ (s : State) (d p : Nat) (v : Word), inReset s = false → p < 8192 → pageExists s (pkey d p) = true →
    (∀ q, aliasSet s (pkey d p) = some q → setBusy s q = false → s.pwr.armed = false →
      ∃ t, exec (.commit d p v) s = .next t ∧ t.queue = s.queue ++ [q] ∧ (cset t q).st = .queued ∧
        (cset t q).gen = v.toNat % 65536 ∧ (cset t q).cause = 0 ∧ (∀ r, r ≠ q → cset t r = cset s r) ∧ Counted 0 0 1 s t ∧
        t = { s with ctrs := t.ctrs, sets := t.sets, queue := t.queue }) ∧
    (∀ q, aliasSet s (pkey d p) = some q → setBusy s q = false → s.pwr.armed = true →
      ∃ t, exec (.commit d p v) s = .next t ∧ t.queue = s.queue ∧ (cset t q).st = .failed ∧ (cset t q).cause = 15 ∧
        (cset t q).gen = v.toNat % 65536 ∧ t.live = s.live ∧ (cset t q).live = (cset s q).live ∧ t.staged = s.staged) ∧
    (∀ q, aliasSet s (pkey d p) = some q → setBusy s q = true → ∃ t, exec (.commit d p v) s = .next t ∧
      (∀ r, reportingPage s q = some r → aliasSet s r = some q → Struck r 28 s t) ∧
      t = { s with pages := t.pages, ic := { s.ic with inflight := t.ic.inflight } }) ∧
    (aliasSet s (pkey d p) = none → ∃ t, exec (.commit d p v) s = .next t ∧ Struck (pkey d p) 28 s t ∧
      t = { s with pages := t.pages, ic := { s.ic with inflight := t.ic.inflight } })) ∧
  (∀ s : State, inReset s = false →
    (∀ q rest, s.checking = none → s.queue = q :: rest → ∃ t, exec .commitCheckStart s = .next t ∧ t.checking = some q ∧
      t.queue = rest ∧ (cset t q).st = .check ∧ (∀ r, r ≠ q → cset t r = cset s r) ∧
      t = { s with checking := t.checking, queue := t.queue, sets := t.sets }) ∧
    (∀ q, s.checking = some q → (cset s q).phase = .tests → runTests s q = none → pairedRole s = false →
      domainsMissing s (candidate s (cset s q).entry) = [] → ∃ t, exec .commitCheckEnd s = .next t ∧
        t.checking = none ∧ (cset t q).st = .apply ∧ (cset t q).live = (cset s q).gen ∧
        t.live = candidate s (cset s q).entry ∧ t.staged = s.staged ∧ t.eff = s.eff ∧ Counted 0 1 1 s t) ∧
    (∀ q c a, s.checking = some q → (cset s q).phase = .tests → runTests s q = some (c, a) → c < 16 →
      ∃ t, exec .commitCheckEnd s = .next t ∧ t.checking = none ∧ (cset t q).st = .failed ∧ (cset t q).cause = c ∧
        (cset t q).whr = whereWord a ∧ (cset t q).live = (cset s q).live ∧ t.live = s.live ∧ t.staged = s.staged ∧
        t.eff = s.eff ∧ Counted 0 2 1 s t ∧ Counted 0 (16 + c) 1 s t))

/-- `PWR_DOM_STATE` and `PWR_DOM_HOLD` (R104): the domains that are up, by index; bits 0 to 5 of a hold take effect and the
others are discarded; both read zero for a die that the variant does not have.

`PWR_SLEEP_STATE` (R106): a bit for each die that enters sleep, wakes or sleeps, zero at reset; a write is discarded. -/
def Obligations.DomainRegistersRead : Prop :=
  ((∀ req d, d < 8 → readReg State.reset req (ploc 4 (0x240 + 4 * d)) 4 = 0) ∧
   ∀ (s : State) (d : Nat), inReset s = false → d < 8 →
     (∀ req i, bitOf (readReg s req (ploc 4 (0x200 + 4 * d)) 4) i =
       (decide (d < dies s) && decide (i < 16) && s.pwr.domUp.contains (16 * d + i))) ∧
     (dies s ≤ d → (∀ req, readReg s req (ploc 4 (0x240 + 4 * d)) 4 = 0) ∧ ∀ v, exec (.domainHoldWrite d v) s = .next s) ∧
     (∀ v, d < dies s → ∃ t, exec (.domainHoldWrite d v) s = .next t ∧
       (∀ req i, bitOf (readReg t req (ploc 4 (0x240 + 4 * d)) 4) i = (decide (i < 6) && bitOf v i)) ∧
       (∀ i, i < 6 → bitOf v i = true → 16 * d + i ∈ t.pwr.domUp ∨ 16 * d + i ∈ t.pwr.domRising) ∧
       (∀ i, 6 ≤ i → i < 16 → 16 * d + i ∉ s.pwr.domRising → 16 * d + i ∉ t.pwr.domRising))) ∧
  ((∀ req, readReg State.reset req (ploc 4 0x124) 4 = 0) ∧
   ∀ (s : State), inReset s = false →
     (∀ (req : Requester) (i : Nat), bitOf (readReg s req (ploc 4 0x124) 4) i =
       if i < 8 then s.pwr.asleep.contains i else if i < 16 then s.pwr.waking.contains (i - 8)
       else if i < 24 then s.pwr.entering.contains (i - 16) else false) ∧
     (∀ req v, exec (.registerWrite req (ploc 4 0x124) 4 v) s = .next s))

/-! ## Media time (R120–R129) -/

/-- References come and go (R120, R123): what makes one eligible, what stops or refuses one, with their flags and counters;
a part locked to PTP that loses it enters holdover at once, with the estimate it had.

Locks and holdover (R124, R128): the first PTP lock asks for a step, a later one within 100 ns gives PTP_LOCKED with the
servo's bound; an edge of REF10M_IN with PPS_IN, less PPS_DELAY (R121), within 100 ns gives REF_LOCKED and 100 ns once PTP
has locked, and one beyond takes REF_LOCKED to holdover; in holdover each ms adds the rate to the estimate, and past the
limit the quality is EXPIRED; the crystal's stop is a fault of the page.

What rests on the model's own choices and readings here is that of log entries 53, 54 and 154. -/
def Obligations.ReferencesLocksAndHoldover : Prop :=
  (∀ s : State, inReset s = false →
    (∀ off : Int, ptpEn (effW s) = true → (off.natAbs ≤ 1000000 ∨ stepAllow (effW s) = true ∨ s.time.quality = 4) →
      ∃ t, exec (.referenceEligible .ptp off) s = .next t ∧ t.time.eligPtp = true ∧ t.time.offPtp = off ∧
        t = { s with out := t.out, time := t.time, pages := t.pages, ctrs := t.ctrs, yoke := t.yoke, ic := t.ic, lanes := t.lanes }) ∧
    (∀ off : Int, ptpEn (effW s) = true → 1000000 < off.natAbs → stepAllow (effW s) = false → s.time.quality ≠ 4 →
      ∃ t, exec (.referenceEligible .ptp off) s = .next t ∧ t.time.eligPtp = false ∧ bitOf (page t 3).stat 3 = true ∧
        Counted 3 3 1 s t) ∧
    (∀ src off, refEnabled s src = false → exec (.referenceEligible src off) s = .next s) ∧
    (refEn (effW s) = true → ∃ t, exec .ref10mStop s = .next t ∧ t.time.eligRef = false ∧ bitOf (page t 3).stat 1 = true ∧
      Counted 3 2 1 s t ∧
      t = { s with out := t.out, time := t.time, pages := t.pages, ctrs := t.ctrs, yoke := t.yoke, ic := t.ic, lanes := t.lanes }) ∧
    (refEn (effW s) = true → ∃ t, exec .ppsStop s = .next t ∧ t.time.eligRef = false ∧ bitOf (page t 3).stat 1 = true ∧
      Counted 3 2 1 s t ∧
      t = { s with out := t.out, time := t.time, pages := t.pages, ctrs := t.ctrs, yoke := t.yoke, ic := t.ic, lanes := t.lanes }) ∧
    (ptpEn (effW s) = true → ∃ t, exec .ptpLost s = .next t ∧ t.time.eligPtp = false ∧ bitOf (page t 3).stat 1 = true ∧
      Counted 3 2 1 s t ∧
      (s.time.source = 0 → s.time.quality ≤ 1 → s.time.everPtp = true → s.time.eligRef = false → t.time.source = 2 ∧
        t.time.e0 = s.time.err ∧ t.time.age = 0 ∧ t.time.err = min 0xFFFFFFFF s.time.err ∧
        t.time.quality = if holdLimit (effW s) < min 0xFFFFFFFF s.time.err then 3 else 2) ∧
      t = { s with out := t.out, time := t.time, pages := t.pages, ctrs := t.ctrs, yoke := t.yoke, ic := t.ic, lanes := t.lanes }) ∧
    (ptpEn (effW s) = true → ∃ t, exec (.refRefused .ptp) s = .next t ∧ t.time.eligPtp = false ∧
      bitOf (page t 3).stat 3 = true ∧ Counted 3 3 1 s t) ∧
    (refEn (effW s) = true → ∀ b : Bool, ∃ t, exec (.refGlitch b) s = .next t ∧ Struck 3 2 s t ∧
      Counted 3 (if b then 1 else 0) 1 s t ∧ t = { s with pages := t.pages, ctrs := t.ctrs, ic := t.ic })) ∧
  (∀ s : State, inReset s = false →
    (∀ off b, steersTo s = 0 → s.time.everPtp = false → exec (.ptpLock off b) s = .next { s with time := { s.time with
      offPtp := off, step := some off, bound := some b } }) ∧
    (∀ (off : Int) b, steersTo s = 0 → s.time.everPtp = true → off.natAbs ≤ 100 → ∃ t, exec (.ptpLock off b) s = .next t ∧
      t.time.quality = 0 ∧ t.time.err = min 0xFFFFFFFF b ∧ t.time.everPtp = true ∧ t.time.now = s.time.now ∧
      t = { s with out := t.out, time := t.time, pages := t.pages, ctrs := t.ctrs, yoke := t.yoke, ic := t.ic, lanes := t.lanes }) ∧
    (∀ res : Int, refEn (effW s) = true → (res + ppsDelay (effW s)).natAbs ≤ 100 → steersTo s = 1 → s.time.step = none →
      s.time.everPtp = true →
      ∃ t, exec (.referenceEdge true res) s = .next t ∧ t.time.quality = 1 ∧ t.time.err = 100 ∧
        t.time.offRef = res + ppsDelay (effW s) ∧
        t = { s with out := t.out, time := t.time, pages := t.pages, ctrs := t.ctrs, yoke := t.yoke, ic := t.ic, lanes := t.lanes }) ∧
    (∀ res : Int, refEn (effW s) = true → 100 < (res + ppsDelay (effW s)).natAbs → steersTo s = 1 → s.time.step = none →
      s.time.everPtp = true → s.time.quality ≤ 1 →
      ∃ t, exec (.referenceEdge true res) s = .next t ∧ t.time.e0 = s.time.err ∧ t.time.age = 0 ∧
        t.time.quality = (if holdLimit (effW s) < min 0xFFFFFFFF s.time.err then 3 else 2) ∧
        t = { s with out := t.out, time := t.time, pages := t.pages, ctrs := t.ctrs, yoke := t.yoke, ic := t.ic, lanes := t.lanes }) ∧
    (qHold s.time.quality = true → ∃ t, exec .holdoverUpdate s = .next t ∧ t.time.age = s.time.age + 1 ∧
      t.time.err = min 0xFFFFFFFF (s.time.e0 + holdRate (effW s) * (s.time.age + 1) / 1000) ∧
      t.time.quality = (if holdLimit (effW s) < t.time.err then 3 else 2) ∧ t.time.now = s.time.now ∧
      t = { s with out := t.out, time := t.time, pages := t.pages, ctrs := t.ctrs, yoke := t.yoke, ic := t.ic, lanes := t.lanes }) ∧
    (qHold s.time.quality = false → exec .holdoverUpdate s = .next s) ∧
    (∃ t, exec .crystalStop s = .next t ∧ t.time.crystalOk = false ∧ (page t 3).fault = true ∧
      (∀ k, k ≠ 3 → (page t k).fault = (page s k).fault) ∧
      t = { s with out := t.out, time := t.time, pages := t.pages, ctrs := t.ctrs, yoke := t.yoke, ic := t.ic
                   lanes := t.lanes }))

/-! ## Ingest (R139–R162, R353, R445) -/

/-- A frame that reaches a port's MAC is counted there, with its octets, and time comes to its arrival (R141, R445, R458):
one with a bad FCS, one longer than 9,216 bytes, a PTP frame, one with a VLAN stack, a fragment or a bad IP checksum, and a
plain UDP frame that matches nothing are each counted as such. A frame on an unclaimed UP lane is counted and discarded
there, with the die's `ING` domain down in that page's count of such frames too (R26).

A segment of a video packet that matches an entry, conforms to its policer and belongs to a picture of the acceptance window
is stored before its line's decision instant (R143, R145, R149, R150): each of its samples stands in the slot's buffer, and
no other sample has changed.

What rests on the model's own choices and readings here is that of log entries 21, 56, 57, 60, 138, 161, 162, 163 and 206. -/
def Obligations.ReceivedFramesAndSegments : Prop :=
  (∀ (s : State) (f : Frame),
    (∀ p, AtPort s f p → ∃ t, exec (.frameReceived f) s = .next t ∧ Counted (lanePage p) 0 1 s t ∧
      Counted (lanePage p) 1 f.len s t ∧ t.time.now = max s.time.now f.at_ ∧
      (f.fcsOk = false → Counted (lanePage p) 2 1 s t) ∧
      (f.fcsOk = true → 9216 < f.len → Counted (lanePage p) 10 1 s t ∧ bitOf (page t (lanePage p)).stat 5 = true) ∧
      (f.fcsOk = true → f.len ≤ 9216 → f.pause = false → 16 * (p / 4) + 6 ∈ s.pwr.domUp → isPtp f = true →
        Counted (pgCls (p / 4)) 1 1 s t) ∧
      (f.fcsOk = true → f.len ≤ 9216 → f.pause = false → 16 * (p / 4) + 6 ∈ s.pwr.domUp → isPtp f = false →
        (1 < f.vlans.length ∨ f.frag = true ∨ f.ipsumOk = false) → Counted (pgCls (p / 4)) 5 1 s t) ∧
      (PlainUdp s f p → classify s p f = none → f.dip ≠ gateAddr (effW s) p →
        Counted (pgCls (p / 4)) 3 1 s t ∧ bitOf (page t (pgCls (p / 4))).stat 0 = true)) ∧
    (inReset s = false → f.lane < 4 * dies s → portOf (effW s) f.lane = none → (lane s f.lane).st = 4 →
      ∃ t, exec (.frameReceived f) s = .next t ∧ Counted (lanePage f.lane) 0 1 s t ∧ Counted (lanePage f.lane) 4 1 s t ∧
        (16 * (f.lane / 4) + 6 ∉ s.pwr.domUp → Counted (lanePage f.lane) 3 1 s t) ∧
        t = { s with time := t.time, pages := t.pages, ctrs := t.ctrs, ic := t.ic })) ∧
  (∀ (s : State) (f : Frame) (p e m ts q : Nat) (g : Seg) (n : Nat), PlainUdp s f p → classify s p f = some e →
    (entCfg (effW s) e).kind = 0 → (entCfg (effW s) e).path = 0 → (entCfg (effW s) e).target = n →
    (f.len + 20) * polByte ≤ min ((entCfg (effW s) e).cbs * polByte)
      ((entry s e).tok + (entCfg (effW s) e).cir * (f.at_ - (entry s e).last)) →
    f.body = .video ts q false [g] → matchPic (slot s (entDie e) n) (slotCfg (effW s) (entDie e) n) f.at_ ts = some m →
    g.line < (slotCfg (effW s) (entDie e) n).h → g.first + g.count ≤ (slotCfg (effW s) (entDie e) n).w →
    beforeT (slotCfg (effW s) (entDie e) n).fmt f.at_ (m - 1) 0 = false →
    decided (slot s (entDie e) n) (slotCfg (effW s) (entDie e) n) f.at_ m g.line = false →
    (lineOf (slotPic (slot s (entDie e) n) m) g.line).st < 2 → g.px.length = g.count → g.first + g.count ≤ 7680 →
    ∃ t, exec (.frameReceived f) s = .next t ∧
      (∀ i, i < g.count → t.slotPx.get (fun _ => 0) (pxKey (entDie e) n m g.line (g.first + i)) = g.px.getD i 0 % 2 ^ 36) ∧
      (∀ k, (∀ i, i < g.count → k ≠ pxKey (entDie e) n m g.line (g.first + i)) →
        t.slotPx.get (fun _ => 0) k = s.slotPx.get (fun _ => 0) k) ∧
      (slotPic (slot t (entDie e) n) m).any = true ∧ Counted (pgCls (entDie e)) 0 1 s t)

/-- Fills (R152–R155): at its decision instant a line not fully written takes the previous picture's line, or black in every
picture up to the first complete one and in any picture before the first accepted one; the fill counts, and its end lets the
line count as ready.

Path loss, lost gaps and membership reports (R151, R159–R161): an entry of a pair is marked and PATH_DOWN struck as the
first of its die goes down; a gap given up moves the source past it; a report leaves for a valid multicast entry, on a port
that sends (R98).

What rests on the model's own choices and readings here is that of log entries 58, 65, 97 and 206. -/
def Obligations.FillsGapsAndReports : Prop :=
  (∀ (d n m y : Nat) (s : State), inReset s = false → d < dies s → n < 64 →
    ((slot s d n).valid = true → y < (slotCfg (effW s) d n).h → (slotCfg (effW s) d n).w ≤ 7680 →
      (lineOf (slotPic (slot s d n) m) y).st = 0 →
      ∃ t, exec (.lineFill d n m y) s = .next t ∧ (lineOf (slotPic (slot t d n) m) y).st = 2 ∧
        (slotPic (slot t d n) m).filled = true ∧ Counted (pgIng d) (2 * n) 1 s t ∧
        bitOf (page t (pgIng d)).stat 0 = true ∧
        (∀ i, i < (slotCfg (effW s) d n).w → t.slotPx.get (fun _ => 0) (pxKey d n m y i) =
          (if (slot s d n).whole.any (fun w => decide (w < m)) = true ∧ (slot s d n).first ≤ m
            then s.slotPx.get (fun _ => 0) (pxKey d n (m + 3) y i) else blackPx (slotCfg (effW s) d n).samp) % 2 ^ 36) ∧
        (∀ k, (∀ i, i < (slotCfg (effW s) d n).w → k ≠ pxKey d n m y i) →
          t.slotPx.get (fun _ => 0) k = s.slotPx.get (fun _ => 0) k) ∧
        t = { s with time := t.time, pages := t.pages, ctrs := t.ctrs, slots := t.slots, slotPx := t.slotPx, dsps := t.dsps
                     poison := t.poison, broken := t.broken, soft := t.soft, ic := t.ic }) ∧
    ((lineOf (slotPic (slot s d n) m) y).st = 2 → ∃ t, exec (.fillEnd d n m y) s = .next t ∧
      (lineOf (slotPic (slot t d n) m) y).st = 3 ∧
      (slotPic (slot s d n) m).ready ≤ (slotPic (slot t d n) m).ready ∧
      ((slotPic (slot s d n) m).ready = y → y < (slotCfg (effW s) d n).h → y < (slotPic (slot t d n) m).ready) ∧
      t = { s with pages := t.pages, ctrs := t.ctrs, chans := t.chans, slots := t.slots, dsps := t.dsps, ic := t.ic })) ∧
  (∀ s : State, inReset s = false →
    (∀ e at_, e < 4096 * dies s → (entCfg (effW s) e).valid = true →
      ((entCfg (effW s) e).path = 1 ∨ (entCfg (effW s) e).path = 2) → ∃ t, exec (.pathDown e at_) s = .next t ∧
        (entry t e = { entry s e with down := (entry t e).down }) ∧ (∀ x, x ≠ e → entry t x = entry s x) ∧
        ((entry t e).down = true ↔ (entry s e).passAt.getD (entry s e).since + 1000000 ≤ at_ ∧
          ∃ q, (entry s (entCfg (effW s) e).peer).passAt = some q ∧ at_ ≤ q + 1000000) ∧
        ((entry t e).down = true → anyDown s (entDie e) = false → bitOf (page t (pgIng (entDie e))).stat 6 = true) ∧
        t = { s with time := { s.time with now := max s.time.now at_ }, pages := t.pages, entries := t.entries, ic := t.ic }) ∧
    (∀ d n w r, d < dies s → n < 64 → (dec s d n).waiting = w :: r → (∀ x ∈ r, x.lost = false) →
      ∃ t a, exec (.compressedGapLost d n) s = .next t ∧ (∃ k, (dec t d n).nextSeq = some k ∧ w.q < k) ∧
        (dec t d n).waiting.length ≤ r.length ∧ (∃ x ∈ w :: r, x.at_ = a) ∧ (∀ x ∈ w :: r, a ≤ x.at_) ∧
        t.time.now = max s.time.now (a + 2000000) ∧
        (∀ x, x ≠ 64 * d + n → t.decs.get (fun _ => {}) x = s.decs.get (fun _ => {}) x) ∧
        t = { s with time := t.time, pages := t.pages, ctrs := t.ctrs, decs := t.decs, poison := t.poison, broken := t.broken
                     soft := t.soft, ic := t.ic }) ∧
    (∀ e, e < 4096 * dies s → (entCfg (effW s) e).valid = true → multicast (entCfg (effW s) e).dst = true →
      ∃ t, exec (.igmpReport e) s = .next t ∧ e ∈ t.services.igmp ∧
        t.out = (if portSends s (entCfg (effW s) e).port = true
          then [.igmpReport (entCfg (effW s) e).port (entCfg (effW s) e).dst (entCfg (effW s) e).src (entCfg (effW s) e).mSrc]
          else []) ++ s.out ∧
        t = { s with out := t.out, fresh := t.fresh, ctrs := t.ctrs, ports := t.ports, services := t.services }))

/-- Commands that arrive as frames (R352, R353): a STOP stops the flows of its range that the variant has, a START clears
them and each waits for the first packet of a furrow released after, a QUENCH quenches the port, an UNQUENCH ends it.

Stop and quench registers (R351, R352, R354): a word of stop bits sets or clears the flows that it names and that the
variant has, each cleared one waiting for the next packet of a furrow; quench bits do the same for ports, and the first
quenched port of a die strikes QUENCHED.

What rests on the model's own choices and readings here is that of log entries 61, 62, 180, 182 and 239. -/
def Obligations.CommandsAct : Prop :=
  (∀ (s : State) (f : Frame) (p counter first count : Nat),
     (CommandAccepted s f p 1 counter first count → ∃ t, exec (.cmdStop f) s = .next t ∧
       CommandDone s t f p 1 counter first count ∧
       (∀ n, n ∈ t.stops ↔ n ∈ s.stops ∨ (first ≤ n ∧ n < first + count ∧ n < 4096 * dies s)) ∧ t.quench = s.quench ∧
       (∀ n, n ∉ s.stops → n ∈ t.stops → (flow t n).stopAt = max s.time.now f.at_)) ∧
     (CommandAccepted s f p 2 counter first count → ∃ t, exec (.cmdStart f) s = .next t ∧
       CommandDone s t f p 2 counter first count ∧
       (∀ n, n ∈ t.stops ↔ n ∈ s.stops ∧ ¬ (first ≤ n ∧ n < first + count)) ∧ t.quench = s.quench ∧
       (∀ n, n ∈ s.stops → first ≤ n → n < first + count → (flow t n).waitFrom = some (max s.time.now f.at_))) ∧
     (CommandAccepted s f p 3 counter first count → ∃ t, exec (.cmdQuench f) s = .next t ∧
       CommandDone s t f p 3 counter first count ∧ (∀ l, l ∈ t.quench ↔ l = p ∨ l ∈ s.quench) ∧ t.stops = s.stops) ∧
     (CommandAccepted s f p 4 counter first count → ∃ t, exec (.cmdUnquench f) s = .next t ∧
       CommandDone s t f p 4 counter first count ∧ (∀ l, l ∈ t.quench ↔ l ≠ p ∧ l ∈ s.quench) ∧ t.stops = s.stops ∧
       (p ∈ s.quench → (port t p).waitFrom = some (max s.time.now f.at_)))) ∧
  (∀ (d w : Nat) (v : Word) (s : State), inReset s = false → d < dies s →
     (w < 128 → ∃ t, exec (.flowStopSet d w v) s = .next t ∧
       (∀ x, x ∈ t.stops ↔ x ∈ s.stops ∨ ∃ b, b < 32 ∧ bitOf v b = true ∧ x = 4096 * d + 32 * w + b) ∧
       (∀ x, x ∉ s.stops → x ∈ t.stops → (flow t x).stopAt = s.time.now) ∧
       (∀ x, x ∈ s.stops ∨ x ∉ t.stops → flow t x = flow s x) ∧ t = { s with flows := t.flows, stops := t.stops }) ∧
     (w < 128 → ∃ t, exec (.flowStopClr d w v) s = .next t ∧
       (∀ x, x ∈ t.stops ↔ x ∈ s.stops ∧ ¬ ∃ b, b < 32 ∧ bitOf v b = true ∧ x = 4096 * d + 32 * w + b) ∧
       (∀ x, x ∈ s.stops → x ∉ t.stops → (flow t x).waitFrom = some s.time.now) ∧
       (∀ x, x ∉ s.stops ∨ x ∈ t.stops → flow t x = flow s x) ∧ t = { s with flows := t.flows, stops := t.stops }) ∧
     (∃ t, exec (.flowQuenchSet d v) s = .next t ∧
       (∀ l, l ∈ t.quench ↔ l ∈ s.quench ∨ ∃ b, b < 4 ∧ bitOf v b = true ∧ l = 4 * d + b) ∧
       (anyQuenched s d = false → anyQuenched t d = true → Struck (pgFlow d) 1 s t) ∧
       (anyQuenched s d = true → t.pages = s.pages) ∧ (∀ l, l ∉ s.quench → l ∈ t.quench → (port t l).quenchAt = s.time.now) ∧
       (∀ l, l ∈ s.quench ∨ l ∉ t.quench → port t l = port s l) ∧
       t = { s with pages := t.pages, quench := t.quench, ports := t.ports, ic := t.ic }) ∧
     (∃ t, exec (.flowQuenchClr d v) s = .next t ∧
       (∀ l, l ∈ t.quench ↔ l ∈ s.quench ∧ ¬ ∃ b, b < 4 ∧ bitOf v b = true ∧ l = 4 * d + b) ∧
       (∀ l, l ∈ s.quench → l ∉ t.quench → (port t l).waitFrom = some s.time.now) ∧
       (∀ l, l ∉ s.quench ∨ l ∈ t.quench → port t l = port s l) ∧ t = { s with quench := t.quench, ports := t.ports }))

/-! ## Decoded sources (R254–R270) -/

/-- Access units and slices (R254, R255, R260, R263, R264, R266, R267, R270, R296): at its cut-off an access unit that is a
supported refresh takes a waiting source to DECODING; one that a decoding source does not support takes it to UNSUPPORTED;
one that comes too soon is dropped, by a waiting source as discarded too; what counts are the parameter sets in use, a
damaged one being ignored. A good slice covers its area; the last one finishes its picture, concealed where a slice or a CTU
of it was lost; and at the due time what is left is concealed. A part that reads a bad word does none of this.

What rests on the model's own choices and readings here is that of log entries 80, 164, 165, 166, 178, 211, 215 and 216. -/
def Obligations.SourcesDecode : Prop :=
  ∀ (d n : Nat) (s : State), inReset s = false → d < dies s → n < 64 →
    (∀ (au : AccessUnit) a rest, (dec s d n).aus = a :: rest →
      ((dec s d n).held = [] ∨ (dec s d n).open_.map (fun o => o.no) ≠ some a.no) →
      (∀ r ∈ auReads s d n, badWords s r.die r.addr r.len = []) →
      let ok := hasParams (dec s d n) au && auSupported (decCfg (effW s) d n) (decUsers s.eff (64 * d + n)) (dec s d n).prevPres
        a.pres (underParams (dec s d n) au)
      let soon := tooSoon (decCfg (effW s) d n) (dec s d n).lastPres a.pres
      ((dec s d n).st = 1 → ok = true → au.refreshKind ≠ 0 → soon = false → au.slices ≠ 0 →
        ∃ t j, exec (.accessUnitCutoff d n au) s = .next t ∧ (dec t d n).st = 2 ∧
          (dec t d n).aus.map AuSt.data = rest.map AuSt.data ∧ (dec t d n).curs.length = (dec s d n).curs.length + 1 ∧
          (dec t d n).curs.getLast? = some j ∧ j.data = a.data ∧ j.left = au.slices ∧ j.order = au.order ∧
          j.idx = (dec s d n).auCount ∧ (dec t d n).auCount = (dec s d n).auCount + 1 ∧
          t.time.now = max s.time.now (cutoffNs (decCfg (effW s) d n) a.pres) ∧
          t = { s with time := t.time, pages := t.pages, ctrs := t.ctrs, decs := t.decs, dsps := t.dsps, ic := t.ic }) ∧
      ((dec s d n).st = 1 → ok = true → au.refreshKind ≠ 0 → soon = true →
        ∃ t, exec (.accessUnitCutoff d n au) s = .next t ∧ (dec t d n).st = 1 ∧ (dec t d n).aus = rest ∧
          (dec t d n).curs = (dec s d n).curs ∧ bitOf (page t (pgDec d)).stat 9 = true ∧ bitOf (page t (pgDec d)).stat 3 = true) ∧
      ((dec s d n).st = 2 → ok = false →
        ∃ t, exec (.accessUnitCutoff d n au) s = .next t ∧ (dec t d n).st = 3 ∧
          (dec t d n).aus.map AuSt.data = rest.map AuSt.data ∧ (dec t d n).curs = (dec s d n).curs ∧
          bitOf (page t (pgDec d)).stat 3 = true) ∧
      ((dec s d n).st = 2 → ok = true → soon = true →
        ∃ t, exec (.accessUnitCutoff d n au) s = .next t ∧ (dec t d n).st = 2 ∧ (dec t d n).aus = rest ∧
          (dec t d n).curs = (dec s d n).curs ∧ bitOf (page t (pgDec d)).stat 9 = true)) ∧
    (∀ area j rest, (dec s d n).curs = j :: rest → (∀ r ∈ refReads s d n, badWords s r.die r.addr r.len = []) →
      1 < j.left → j.ruined = false →
      ∃ t, exec (.decodedSlicePoint d n false area) s = .next t ∧
        (dec t d n).curs = { j with left := j.left - 1, good := area ++ j.good } :: rest ∧ (dec t d n).pics = (dec s d n).pics ∧
        t = { s with pages := t.pages, ctrs := t.ctrs, decs := t.decs, dsps := t.dsps, ic := t.ic }) ∧
    (∀ area j rest (b : Bool), (dec s d n).curs = j :: rest → (∀ r ∈ refReads s d n, badWords s r.die r.addr r.len = []) →
      j.left ≤ 1 → (∀ q ∈ (dec s d n).pics, q.idx < j.idx) →
      ∃ t q, exec (.decodedSlicePoint d n b area) s = .next t ∧ (dec t d n).pics.head? = some q ∧ q.due = j.due ∧ q.idx = j.idx ∧
        q.concealed = (b || j.ruined || j.bad || !coveredAll { j with good := area ++ j.good }) ∧
        (∀ k ∈ (dec t d n).curs, k.idx ≠ j.idx)) ∧
    (∀ j rest, (dec s d n).curs = j :: rest → (∀ q ∈ (dec s d n).pics, q.idx < j.idx) → ∃ t q, exec (.dueTime d n) s = .next t ∧
      (dec t d n).pics.head? = some q ∧ q.due = j.due ∧ q.idx = j.idx ∧ q.concealed = true ∧
      ((∀ k ∈ rest, k.clean = false) → (dec t d n).hidden = true) ∧ Counted (pgDec d) (64 + n) 1 s t ∧
      t.time.now = max s.time.now (cdiv j.due.toNat 9) ∧
      t = { s with time := t.time, pages := t.pages, ctrs := t.ctrs, decs := t.decs, dsps := t.dsps, poison := t.poison
                   broken := t.broken, soft := t.soft, ic := t.ic })

/-! ## Composition (R163–R194) -/

/-- Fences (R183): a fence ahead of `FLIPPED` flips its group. FLIPPED takes FENCE in the fence block and in the part, the
pictures since the flip count from this one, and with nothing before it in composition RELEASED follows at once; no other
byte of memory changes, and no code of a word turns bad.

Fences that do not flip (R183): one that went back sets FENCE_BACK and is counted; an awaited one that has not come sets
FENCE_LATE, is counted, and makes its layers stale; FLIPPED and memory stay. -/
def Obligations.FencesFlipOrStayBehind : Prop :=
  (∀ (ch : Nat) (s : State) (p : Pic) (g d b : Nat), inReset s = false → ch < 32 * dies s → d = ch / 32 →
    (chan s ch).pics.getLast? = some p → p.fenced = false → chComposed (picG s ch p) ch = true →
    (((canvasLayers p.cfg ch).filter (fun i => (layCfg (getW p.cfg) i).drawn)).map
      (fun i => (layCfg (getW p.cfg) i).group)).eraseDups = [g] →
    b = fenceBase (effW s) d + 16 * g → b + 12 ≤ dramBytes →
    badWords s d b 4 = [] → 1 ≤ (dramRead32 s d b + 2 ^ 32 - (group s d g).flipped) % 2 ^ 32 →
    (dramRead32 s d b + 2 ^ 32 - (group s d g).flipped) % 2 ^ 32 < 2 ^ 31 →
    (p.n = 0 ∨ composedThrough s ch (p.n - 1) = true) →
    ∃ t, exec (.fenceRead ch) s = .next t ∧
      dramRead32 t d b = dramRead32 s d b ∧ dramRead32 t d (b + 4) = dramRead32 s d b ∧
      dramRead32 t d (b + 8) = dramRead32 s d b ∧
      (∀ e a, e < 8 → a < dramBytes → ¬ (e = d ∧ b + 4 ≤ a ∧ a < b + 12) → dramGet t e a = dramGet s e a) ∧
      (group t d g).flipped = dramRead32 s d b ∧ (group t d g).released = dramRead32 s d b ∧
      (group t d g).flipAt = some (ch, (chan s ch).begun) ∧
      (∀ e h, 64 * e + h ≠ 64 * d + g → group t e h = group s e h) ∧
      Counted (pgPad d) 0 1 s t ∧ Counted (pgPad d) (64 + g) 1 s t ∧
      t = { s with pages := t.pages, ctrs := t.ctrs, chans := t.chans, groups := t.groups, dram := t.dram, soft := t.soft
                   ic := t.ic }) ∧
  (∀ (ch : Nat) (s : State) (p : Pic) (g d b : Nat), inReset s = false → ch < 32 * dies s → d = ch / 32 →
    (chan s ch).pics.getLast? = some p → p.fenced = false → chComposed (picG s ch p) ch = true →
    (((canvasLayers p.cfg ch).filter (fun i => (layCfg (getW p.cfg) i).drawn)).map
      (fun i => (layCfg (getW p.cfg) i).group)).eraseDups = [g] →
    b = fenceBase (effW s) d + 16 * g → badWords s d b 4 = [] →
    (2 ^ 31 ≤ (dramRead32 s d b + 2 ^ 32 - (group s d g).flipped) % 2 ^ 32 →
      ∃ t, exec (.fenceRead ch) s = .next t ∧ (group t d g).flipped = (group s d g).flipped ∧ t.dram = s.dram ∧
        Counted (pgPad d) 2 1 s t ∧ bitOf (page t (pgPad d)).stat 1 = true) ∧
    ((dramRead32 s d b + 2 ^ 32 - (group s d g).flipped) % 2 ^ 32 = 0 →
      ∃ t, exec (.fenceRead ch) s = .next t ∧ (group t d g).flipped = (group s d g).flipped ∧ t.dram = s.dram ∧
        (∀ i ∈ groupLayers p.cfg ch g, (layCfg (getW p.cfg) i).cadence = 0 → (∀ j ∈ groupLayers p.cfg ch g, j = i) →
          (page t (pgPad d)).stat = (page s (pgPad d)).stat) ∧
        (∀ i, groupLayers p.cfg ch g = [i] → 0 < (layCfg (getW p.cfg) i).cadence →
          (layCfg (getW p.cfg) i).cadence ≤ passedFlip s ch d g →
          Counted (pgPad d) 1 1 s t ∧ bitOf (page t (pgPad d)).stat 0 = true ∧
            ∀ q, pic? t ch p.n = some q → i ∈ q.staleL)))

/-- Compose start and canvas point (R22, R187, R189–R191): a furrow starts once its sources and the furrow before it allow;
one furrow period later, the furrow before it being complete, it is complete. Its canvas samples stand in the canvas's
buffer in DRAM, but for those that were not finished in time: there the buffer keeps what it held; no other byte of memory
changes while no fence waits for its release. Its stale-layer bits are those of the stale layers that meet it, every one of
them when some part was not finished.

What rests on the model's own choices and readings here is that of log entries 66, 138, 157, 158, 159, 160, 178 and 208. -/
def Obligations.CanvasIsComposed : Prop :=
  ∀ (ch k : Nat) (s : State) (p : Pic), inReset s = false → ch < 32 * dies s →
    ((chan s ch).pics.find? (fun p => !(fur p k).composing) = some p → chComposed (picG s ch p) ch = true →
      k < (picFmt ch p).furrows → sourcesReady s ch p k = true → precedingStarted s ch p k = true →
      ∃ t q, exec (.composeStart ch k) s = .next t ∧ pic? t ch p.n = some q ∧ (fur q k).composing = true ∧
        (fur q k).composeAt = s.time.now ∧ (∀ j, j ≠ ch → chan t j = chan s j) ∧
        t = { s with pages := t.pages, ctrs := t.ctrs, chans := t.chans, dsps := t.dsps, ic := t.ic }) ∧
    (∀ left, (chan s ch).pics.find? (fun p => (fur p k).composing && !(fur p k).complete) = some p →
      precedingDone s ch p k = true → (∀ r ∈ drawnReads s ch k, badWords s r.die r.addr r.len = []) →
      ∃ t q, exec (.canvasPoint ch k left) s = .next t ∧ pic? t ch p.n = some q ∧ (fur q k).complete = true ∧
        (∀ b, (fur q k).stale.testBit b = true ↔ ∃ i ∈ canvasLayers p.cfg ch, (layCfg (picG s ch p) i).meets (picFmt ch p) k = true ∧
          layerStale s ch p i k left.isEmpty = true ∧ (layCfg (picG s ch p) i).num = b) ∧
        Counted (pgPad (ch / 32)) 3 1 s t ∧
        t.time.now = max s.time.now ((fur p k).composeAt + cdiv (picFmt ch p).furrowU ((picFmt ch p).num * (picFmt ch p).h)) ∧
        ((picFmt ch p).w ≤ 7680 → ∀ x y, k * (picFmt ch p).c ≤ y → y < (picFmt ch p).lineEnd k → x < (picFmt ch p).w →
          t.canvPx.get (fun _ => 0) (canvKey p.cfg ch p.n y x) =
            if inRects left x y then canvasHeld s ch p (picFmt ch p).w (fld (picG s ch p (chLoc ch 0x140)) 5 4) x y
            else canvasOut s ch p (picFmt ch p).w (fld (picG s ch p (chLoc ch 0x140)) 5 4) x y) ∧
        (∀ a, (∀ x y, k * (picFmt ch p).c ≤ y → y < (picFmt ch p).lineEnd k → x < (picFmt ch p).w →
          a ≠ canvKey p.cfg ch p.n y x) → t.canvPx.get (fun _ => 0) a = s.canvPx.get (fun _ => 0) a) ∧
        ((∀ g, g < 64 → (group s (ch / 32) g).releases = []) → ∀ e a,
          (∀ y i, k * (picFmt ch p).c ≤ y → y < (picFmt ch p).lineEnd k → 2 * i < 5 * (picFmt ch p).w →
            memKey e a ≠ memKey (ch / 32) (canvasAt p.cfg ch p.n y + i)) → dramGet t e a = dramGet s e a) ∧
        (left ≠ [] → Counted (pgPad (ch / 32)) 4 1 s t ∧ bitOf (page t (pgPad (ch / 32))).stat 2 = true) ∧
        t = { s with time := t.time, pages := t.pages, ctrs := t.ctrs, chans := t.chans, groups := t.groups, canvPx := t.canvPx
                     decs := t.decs, dsps := t.dsps, dram := t.dram, poison := t.poison, broken := t.broken, soft := t.soft
                     ic := t.ic })

/-! ## The drill and the engines (R195–R253) -/

/-- Planting (R22, R241, R242, R252, R325): in furrow order, the cap is the least of the borrowing, yard and reserve terms,
the counter of the term that set it advances where a reserve is kept, the quality is that of the furrow under its cap, and
the reference quality noted is that of the furrow's capture point.

One CTU coded (R203, R213, R236, R245–R247, R252): it joins the furrow's log as the rule of R245 codes it; under the picture
latch it is fallow, and under the furrow latch unless it is guarded; a fallow one sets the furrow latch, and the picture
latch where the reserve term set the cap; without a reserve it is coded normally. Its reconstruction stands in the reference
cache.

What rests on the model's own choices and readings here is that of log entries 68, 69, 70, 71, 167, 168, 169, 209 and 218. -/
def Obligations.PlantingAndCtus : Prop :=
  (∀ (ch k : Nat) (s : State) (p : Pic), inReset s = false → ch < 32 * dies s →
    (chan s ch).pics.find? (fun p => !(fur p k).planted) = some p → (fur p k).complete = true → k < (picFmt ch p).furrows →
    inOrder s ch p k (fun u => u.planted) = true →
    ∃ t q, exec (.plantingInstant ch k) s = .next t ∧ pic? t ch p.n = some q ∧ (fur q k).planted = true ∧
      (fur q k).cap = min (capTerms (picG s ch p) ch p k).1
        (min (capTerms (picG s ch p) ch p k).2.1 (capTerms (picG s ch p) ch p k).2.2) ∧
      (fur q k).baseQp = furrowQp (picG s ch p) ch p k (fur q k).cap ∧
      (fur q k).capTerm = (if (capTerms (picG s ch p) ch p k).1 = (fur q k).cap then 0
        else if (capTerms (picG s ch p) ch p k).2.1 = (fur q k).cap then 1 else 2) ∧
      (fur q k).quality = qualityAt s (picCapture ch p k) ∧
      ((drillCfg (picG s ch p) ch).reserve = true → Counted (pgDrill s ch) (7 + (fur q k).capTerm) 1 s t) ∧
      t.time.now = max s.time.now (picCapture ch p k) ∧ (∀ j, j ≠ ch → chan t j = chan s j) ∧
      t = { s with time := t.time, pages := t.pages, ctrs := t.ctrs, chans := t.chans, dsps := t.dsps, ic := t.ic }) ∧
  (∀ (ch k : Nat) (s : State) (p : Pic) (e : CtuLog), inReset s = false → ch < 32 * dies s → CodesNext s ch k p →
    e = codeCtu s ch p k →
    ∃ t q, exec (.ctuCoded ch k) s = .next t ∧ pic? t ch p.n = some q ∧
      (fur q k).log = (fur p k).log ++ [e] ∧ (fur q k).ctus = (fur p k).ctus + 1 ∧
      (fur q k).latch = ((fur p k).latch || e.fallow) ∧
      (fur q k).picLatch = ((fur p k).picLatch || (e.fallow && (fur p k).capReserve)) ∧
      ((drillCfg (picG s ch p) ch).reserve = true → latchedTo p k = true → e.fallow = true) ∧
      ((drillCfg (picG s ch p) ch).reserve = true → (fur p k).latch = true → e.guarded = false → e.fallow = true) ∧
      ((drillCfg (picG s ch p) ch).reserve = false → e = normalCtu s ch p k (fur p k).ctus ∧ e.fallow = false) ∧
      (e.fallow = true → e.cost ≤ ctuBound (picG s ch p) ch p k (fur p k).ctus ∧ bitOf (page t (pgDrill s ch)).stat 0 = true) ∧
      (roundUp (picFmt ch p).w (picFmt ch p).c ≤ 8192 → roundUp (picFmt ch p).h (picFmt ch p).c ≤ 8192 → ∀ c i j, c < 3 →
        i < (picFmt ch p).c / subX c → j < (picFmt ch p).c / subY (codedSamp (picG s ch p) ch) c →
        recPx t ch p.n c ((fur p k).ctus * ((picFmt ch p).c / subX c) + i)
            (k * ((picFmt ch p).c / subY (codedSamp (picG s ch p) ch) c) + j) =
          Config.reconPx (ctuIn s ch p k (fur p k).ctus e.qp).toRecIn e.syn c ((fur p k).ctus * ((picFmt ch p).c / subX c) + i)
            (k * ((picFmt ch p).c / subY (codedSamp (picG s ch p) ch) c) + j) % 2 ^ codedDepth (picG s ch p) ch) ∧
      Counted (pgCe (chDie s ch) (engineOf s ch p k)) 0 1 s t ∧ (∀ j, j ≠ ch → chan t j = chan s j) ∧
      t = { s with pages := t.pages, ctrs := t.ctrs, chans := t.chans, cachePx := t.cachePx, dsps := t.dsps, ic := t.ic })

/-- The headline of the drill (R242, R245): where a reserve is kept and a cap no less than the fallow reserve is planted, no
sequence of CTU costs takes the furrow's spend above its cap: what is spent and what is still held back stay under it at
every CTU, so the spend of the furrow never exceeds the cap. -/
def Obligations.SpendStaysUnderTheCap : Prop :=
  ∀ (ch k : Nat) (s : State) (p : Pic), inReset s = false → ch < 32 * dies s →
    (drillCfg (picG s ch p) ch).reserve = true → 1 ≤ slicesPer (picG s ch p) ch →
    slicesPer (picG s ch p) ch ≤ (picFmt ch p).ctuCols → k < (picFmt ch p).furrows →
    ((chan s ch).pics.find? (fun p => !(fur p k).planted) = some p → pic? s ch p.n = some p → (fur p k).complete = true →
      inOrder s ch p k (fun u => u.planted) = true → (fur p k).log = [] → (fur p k).ctus = 0 → (fur p k).sliceBits = [] →
      (reserveOf (picFmt ch p) (slicesPer (picG s ch p) ch) p.rho k p.idr p.gdr : Int) ≤
        min (capTerms (picG s ch p) ch p k).1 (min (capTerms (picG s ch p) ch p k).2.1 (capTerms (picG s ch p) ch p k).2.2) →
      ∃ t q, exec (.plantingInstant ch k) s = .next t ∧ pic? t ch p.n = some q ∧ UnderCap (picG t ch q) ch q k) ∧
    (CodesNext s ch k p → UnderCap (picG s ch p) ch p k →
      ∃ t q, exec (.ctuCoded ch k) s = .next t ∧ pic? t ch p.n = some q ∧ UnderCap (picG t ch q) ch q k ∧
        (fur q k).ctus = (fur p k).ctus + 1 ∧ (spendOf (fur q k) : Int) ≤ (fur q k).cap)

/-- The coded point (R22, R119, R137, R195): it needs every CTU of the furrow, the end of its slices' entropy coding, its
write-back, unless the fallow path writes it now, and the coded point of the furrow before; the furrow's marks are reported;
the last furrow's ends the picture, which is held when no furrow of it is live.

The deadline point (R22, R239, R249), in the order of furrows: a furrow coded by then goes on; one that is not is cut at the
first CTU whose entropy coding has not finished, and the CTUs from there on are fallow; when none is left to cut nothing of
its CTUs changes.

What rests on the model's own choices and readings here is that of log entries 50, 71, 72, 73, 169, 170 and 171. -/
def Obligations.CodedAndDeadlinePoints : Prop :=
  (∀ (ch k : Nat) (s : State) (p : Pic), inReset s = false → ch < 32 * dies s →
    (chan s ch).pics.find? (fun p => !(fur p k).coded) = some p → pic? s ch p.n = some p →
    (fur p k).ctus = (picFmt ch p).ctuCols → k < (picFmt ch p).furrows → slicesCoded s ch k p = true →
    inOrder s ch p k (fun u => u.coded) = true →
    ((fur p k).written = true ∨ ((fur p k).dlFallow = true ∧ (fur p k).emptyCut = false)) →
    (∀ r ∈ captionReads s ch p k ++ rowReads s ch p.n k, badWords s r.die r.addr r.len = []) →
    ∃ t q, exec (.codedPoint ch k) s = .next t ∧ pic? t ch p.n = some q ∧ (fur q k).coded = true ∧
      (fur q k).role = recordRole s.yoke.role ∧
      ((fur p k).inputStale = true → Counted (pgCh s ch) 3 1 s t ∧ bitOf (page t (pgCh s ch)).stat 2 = true) ∧
      (0 < (fur p k).stale → Counted (pgCh s ch) 4 1 s t ∧ bitOf (page t (pgCh s ch)).stat 3 = true) ∧
      ((fur p k).concealed = true → Counted (pgCh s ch) 5 1 s t ∧ bitOf (page t (pgCh s ch)).stat 4 = true) ∧
      (k + 1 < (picFmt ch p).furrows → q.ended = p.ended ∧ (chan t ch).heldCount = (chan s ch).heldCount) ∧
      (k + 1 = (picFmt ch p).furrows → q.ended = true ∧ Counted (pgDrill s ch) 1 (picBits ch p) s t ∧
        (chan t ch).heldCount = (if liveTo p (picFmt ch p).furrows then 0 else min 255 (p.prevHeld + 1))) ∧
      t.dram = (if (fur p k).written then s.dram else (writeFurrow ch p.n k s).dram) ∧
      t = { s with out := t.out, fresh := t.fresh, pages := t.pages, ctrs := t.ctrs, chans := t.chans, cachePx := t.cachePx
                   dsps := t.dsps, dram := t.dram, poison := t.poison, broken := t.broken, soft := t.soft, yoke := t.yoke
                   ic := t.ic, lanes := t.lanes }) ∧
  (∀ (ch k fin cut : Nat) (s : State) (p : Pic), inReset s = false → ch < 32 * dies s →
    (chan s ch).pics.find? (fun p => !(fur p k).dlTested) = some p → pic? s ch p.n = some p → k < (picFmt ch p).furrows →
    cut = min (cutAt s ch p k fin) (fur p k).log.length →
    inOrder s ch p k (fun u => u.dlTested || u.coded) = true →
    ((fur p k).coded = true ∨ ∀ r ∈ captionReads s ch p k, badWords s r.die r.addr r.len = []) →
    ((fur p k).coded = true → ∃ t q, exec (.deadlinePoint ch k fin) s = .next t ∧ pic? t ch p.n = some q ∧
      (fur q k) = { fur p k with dlTested := true } ∧ t.time.now = max s.time.now (shiftT p ((picFmt ch p).deadline p.n k)) ∧
      t = { s with time := t.time, pages := t.pages, ctrs := t.ctrs, chans := t.chans, dsps := t.dsps, ic := t.ic }) ∧
    ((fur p k).coded = false → (fur p k).dlFallow = false → (fur p k).emptyCut = false → cut < (picFmt ch p).ctuCols →
      ∃ t q, exec (.deadlinePoint ch k fin) s = .next t ∧ pic? t ch p.n = some q ∧
        (fur q k).dlTested = true ∧ (fur q k).dlFallow = true ∧ (fur q k).log.take cut = (fur p k).log.take cut ∧
        (fur q k).log.length = (picFmt ch p).ctuCols ∧ (fur q k).ctus = (picFmt ch p).ctuCols ∧
        (∀ x e, cut ≤ x → (fur q k).log[x]? = some e → e.fallow = true ∧ e.cost ≤ ctuBound (picG s ch p) ch p k x) ∧
        (fur q k).latch = true ∧ (fur q k).picLatch = ((fur p k).picLatch || (fur p k).capReserve) ∧
        Counted (pgDrill s ch) 4 1 s t ∧ Counted (pgDrill s ch) 3 ((picFmt ch p).ctuCols - cut) s t ∧ t.dram = s.dram ∧
        bitOf (page t (pgDrill s ch)).stat 2 = true ∧ t.time.now = max s.time.now (shiftT p ((picFmt ch p).deadline p.n k)) ∧
        t = { s with time := t.time, pages := t.pages, ctrs := t.ctrs, chans := t.chans, cachePx := t.cachePx, dsps := t.dsps
                     ic := t.ic }) ∧
    ((fur p k).coded = false → (fur p k).dlFallow = false → (picFmt ch p).ctuCols ≤ cut →
      ∃ t q, exec (.deadlinePoint ch k fin) s = .next t ∧ pic? t ch p.n = some q ∧
        (fur q k) = { fur p k with dlTested := true, dlFallow := true, emptyCut := true } ∧
        Counted (pgDrill s ch) 4 1 s t ∧ bitOf (page t (pgDrill s ch)).stat 2 = true))

/-- An engine's error (R215, R227, R282): an uncorrectable one puts its `CE` page in FAULT and is counted, and no item stays
in service on its pipeline or its entropy unit; a corrected one is counted and struck, and nothing else changes.

What rests on the model's own choices and readings here is that of log entries 78, 79 and 172. -/
def Obligations.EngineFaultFreesItsItems : Prop :=
  ∀ (d e : Nat) (s : State), inReset s = false → d < dies s → e < 4 →
    (∃ t, exec (.engineFault d e false) s = .next t ∧ (page t (pgCe d e)).fault = true ∧ Counted (pgCe d e) 7 1 s t ∧
      ((page s (pgCe d e)).fault = false → bitOf (page t (pgCe d e)).stat 0 = true) ∧
      (∀ i ∈ (dsp t d).items, i.unit ≠ some e ∧ i.unit ≠ some (7 + e)) ∧
      t = { s with out := t.out, pages := t.pages, ctrs := t.ctrs, eff := t.eff, chans := t.chans, svcs := t.svcs
                   dsps := t.dsps, yoke := t.yoke, ic := t.ic, lanes := t.lanes }) ∧
    (∃ t, exec (.engineFault d e true) s = .next t ∧ Struck (pgCe d e) 1 s t ∧ Counted (pgCe d e) 6 1 s t ∧
      (∀ k, k ≠ pgCe d e → page t k = page s k) ∧ t = { s with pages := t.pages, ctrs := t.ctrs, ic := t.ic })

/-! ## The dispatcher (R271–R290) -/

/-- Creation, re-evaluation, service and release (R273–R276, R283, R288, R289): an owner's oldest uncreated item takes its
lowest free slot; waiting items only move to a queue of higher priority; a free unit takes the item of the lowest queue,
then the earliest, then the lowest slot, among those it may run and whose flow permits; an item whose work ends is released
as its flow lets it go; its wait is recorded, that of a CODE or ENTROPY item once it cannot be created again; a CODE item
writes its furrow back, and no other item writes memory; a busy window gives each unit's fraction.

What rests on the model's own choices and readings here is that of log entries 76, 77, 140 and 173. -/
def Obligations.ItemsFlowThroughTheDispatcher : Prop :=
  ∀ (d : Nat) (s : State), inReset s = false → d < dies s →
    (∀ o n k kind idx sl, o < 128 → nextItem s d o = some (n, k, kind, idx) →
      (ownerSlots o).find? (fun i => (dsp s d).items.all (fun j => decide (j.slot ≠ i))) = some sl →
      ∃ t, exec (.itemCreate d o) s = .next t ∧
        (∃ it ∈ (dsp t d).items, it.slot = sl ∧ it.owner = o ∧ it.kind = kind ∧ it.n = n ∧ it.furrow = k ∧ it.idx = idx) ∧
        ((∀ i ∈ (dsp s d).items, i.ended = false ∧ orphan s d i = false) →
          (dsp t d).items.length = (dsp s d).items.length + 1) ∧
        o ∉ (dsp t d).waited ∧ (dsp t d).hwm = max (dsp s d).hwm ((dsp s d).items.length + 1) ∧
        (∀ e, e ≠ d → dsp t e = dsp s e) ∧
        t = { s with pages := t.pages, ctrs := t.ctrs, dsps := t.dsps, ic := t.ic }) ∧
    (∀ o x, o < 128 → nextItem s d o = some x → couldBeReady s d o x.1 x.2.1 x.2.2.1 x.2.2.2 = true →
      (ownerSlots o).find? (fun i => (dsp s d).items.all (fun j => decide (j.slot ≠ i))) = none → o ∉ (dsp s d).waited →
      ∃ t, exec (.itemCreate d o) s = .next t ∧ (dsp t d).items = (dsp s d).items ∧ Struck (pgDsp d) 0 s t ∧
        Counted (pgDsp d) 119 1 s t) ∧
    (∀ at_, ∃ t, exec (.queueReevaluate d at_) s = .next t ∧ t.time.now = max s.time.now at_ ∧
      (dsp t d).items.length = (dsp s d).items.length ∧
      (∀ i ∈ (dsp s d).items, (∀ j ∈ (dsp s d).items, j.slot = i.slot → j = i) →
        { i with queue := if i.ready.isSome && i.unit.isNone && !i.ended then min i.queue (queueOf i.deadline at_)
                          else i.queue } ∈ (dsp t d).items) ∧
      t = { s with time := t.time, pages := t.pages, ctrs := t.ctrs, dsps := t.dsps, ic := t.ic }) ∧
    (∀ u at_ i, u < 11 → pickItem s d u = some i → (∀ j ∈ (dsp s d).items, j.slot = i.slot → j = i) →
      ∃ t, exec (.itemDispatch d u at_) s = .next t ∧
      i ∈ (dsp s d).items ∧ i.ready.isSome = true ∧ i.unit = none ∧ i.ended = false ∧ mayRun s d u i = true ∧
      flowPermits s d i = true ∧ unitFree (dsp s d) u = true ∧
      (∀ j ∈ (dsp s d).items, j.ready.isSome = true → j.unit = none → j.ended = false → mayRun s d u j = true →
        flowPermits s d j = true → takenBefore j i = false) ∧
      { i with unit := some u, startAt := at_ } ∈ (dsp t d).items ∧
      (u < 4 → (dsp s d).last.get (fun _ => 0) u ≠ i.ch + 1 → Counted (pgCe d u) 5 1 s t) ∧
      t = { s with time := t.time, pages := t.pages, ctrs := t.ctrs, dsps := t.dsps, ic := t.ic }) ∧
    (∀ slot at_ i, (dsp s d).items.find? (fun i => decide (i.slot = slot) && i.unit.isSome && workDone s d i) = some i →
      (flowAhead s d i).isEmpty = true → (dsp s d).items.length ≤ 512 → i.kind ≤ 5 →
      ∃ t, exec (.itemEnd d slot at_) s = .next t ∧
        (∀ j ∈ (dsp t d).items, j.slot ≠ slot) ∧ t.time.now = max s.time.now at_ ∧
        ((dsp s d).waits = [] → i.kind ≠ kCode → i.kind ≠ kEntropy → i.kind ≠ kPack →
          Counted (pgDsp d) (16 * i.kind + waitBin (i.startAt - i.ready.getD i.startAt)) 1 s t) ∧
        (i.kind = kPack → ∃ m, 1 ≤ m ∧ m ≤ 1 + (dsp s d).waits.length + 2 * (dsp s d).items.length ∧
          Counted (pgDsp d) (16 * i.kind + waitBin (i.startAt - i.ready.getD i.startAt)) m s t) ∧
        ((dsp s d).waits = [] → i.kind = kCode ∨ i.kind = kEntropy →
          ((dsp t d).waits = [(i.key, i.bin)] ∧
            Counted (pgDsp d) (16 * i.kind + waitBin (i.startAt - i.ready.getD i.startAt)) 0 s t) ∨
          ((dsp t d).waits = [] ∧
            Counted (pgDsp d) (16 * i.kind + waitBin (i.startAt - i.ready.getD i.startAt)) 1 s t)) ∧
        t.dram = (if i.kind = kCode then (writeFurrow i.ch i.n i.furrow s).dram else s.dram) ∧
        t = { s with time := t.time, pages := t.pages, ctrs := t.ctrs, chans := t.chans, svcs := t.svcs, dsps := t.dsps
                     dram := t.dram, poison := t.poison, broken := t.broken, soft := t.soft, yoke := t.yoke, ic := t.ic }) ∧
    ((dsp s d).tracking = true → ∃ t, exec (.trackingWindowEnd d) s = .next t ∧ (dsp t d).tracking = false ∧
      Counted (pgMc d) 8 1 s t ∧ t = { s with ctrs := t.ctrs, dsps := t.dsps }) ∧
    (∀ w, w = (dsp s d).winStart + 1000 * (dsp s d).winNow → ∃ t, exec (.dspWindowEnd d) s = .next t ∧
      (dsp t d).winNow = (dsp s d).window ∧ (dsp t d).winStart = w ∧ (dsp t d).items = (dsp s d).items ∧
      (∀ u, u < 7 → (dsp t d).busy.getD u 0 = busyFraction (dsp s d) w u) ∧ t.time.now = max s.time.now w ∧
      t = { s with time := t.time, dsps := t.dsps })

/-! ## Boundaries (R63, R71, R118, R128–R130, R351, R481) -/

/-- A package furrow boundary (R71, R128, R131, R351, R481): media time comes to the next multiple of 125 µs; a set that
waited for the package alone is DONE, and with no channel running every word of its pages is in effect; the boot hold's
outputs follow its register; a pending step of media time is applied, with the lock that asked for it.

A picture boundary (R118, R129, R130, R204, R220, R232, R235, R248): an ARMED channel starts with an IDR picture at the
first boundary after it was armed, and not before one that a re-alignment it was in had put off; a RUNNING one begins its
next picture as planned on the words in effect, with the leading NAL units of that plan; one whose RUN is 0 begins none and
drains, and a DRAINING one takes its words and begins none.

What rests on the model's own choices and readings here is that of log entries 45, 46, 47, 53, 61, 151, 152, 153, 174, 214
and 220. -/
def Obligations.BoundariesTakeEffect : Prop :=
  (∀ s : State, inReset s = false →
    (s.time.step = none → steersTo s = s.time.source → s.waits = [] →
      (steersTo s = 2 ∨ (steerOffset s).natAbs ≤ 1000000 ∨ stepAllow (effW s) = false) → ∃ t, exec .packageFurrowBoundary s = .next t ∧
      t.time.now = furrowFrom (s.time.now + 1) ∧ t.host.held = s.host.hold ∧
      (∀ d, d < dies s → (port t (4 * d)).mgmtBuf = 0) ∧
      t = { s with out := t.out, fresh := t.fresh, time := t.time, pages := t.pages, ctrs := t.ctrs, eff := t.eff, sets := t.sets
                   waits := t.waits, chans := t.chans, svcs := t.svcs, flows := t.flows, ports := t.ports, decs := t.decs
                   dsps := t.dsps, mcs := t.mcs, yoke := t.yoke, aflows := t.aflows, tdms := t.tdms, ic := t.ic
                   lanes := t.lanes, host := t.host, services := t.services }) ∧
    (∀ q, s.waits = [(q, none)] → (cset s q).st = .apply → (cset s q).effect ≤ furrowFrom (s.time.now + 1) →
      ∃ t, exec .packageFurrowBoundary s = .next t ∧ t.waits = [] ∧ (cset t q).st = .done ∧ t.live = s.live ∧
        (∀ k, reportingPage s q = some k → aliasSet s k = some q → bitOf (page t k).stat 31 = true) ∧
        ((∀ ch, running s ch = false) → Tbl.wf resetWord s.live = true → Tbl.wf resetWord s.eff = true →
          ∀ a, inEntry (cset s q).entry a = true → effW t a = liveW s a)) ∧
    (∀ off b, s.time.step = some off → s.time.bound = some b → s.waits = [] → s.yoke.dual = none →
      (s.time.eligPtp && ptpEn (effW s)) = s.time.eligPtp → (s.time.eligRef && refEn (effW s)) = s.time.eligRef →
      steersTo s = s.time.source → ∃ t, exec .packageFurrowBoundary s = .next t ∧
        t.time.now = moved off (furrowFrom (s.time.now + 1)) ∧ t.time.step = none ∧ t.time.quality = 0 ∧
        t.time.everPtp = true ∧ t.time.err = min 0xFFFFFFFF b ∧ Counted 3 5 1 s t ∧ bitOf (page t 3).stat 6 = true)) ∧
  (∀ (ch n : Nat) (s : State), inReset s = false → ch < 32 * dies s → n = nextPicture s ch →
    ((chan s ch).st = .armed → ∃ t, exec (.pictureBoundary ch) s = .next t ∧ (chan t ch).st = .running ∧
      (chan t ch).next = n + 1 ∧
      n = max ((chFmt (effW s) ch).firstAfter (chan s ch).armedAt) ((chFmt (effW s) ch).firstFrom (chan s ch).notBefore) ∧
      (∃ p ∈ (chan t ch).pics, p.n = n ∧ p.idr = true ∧ p.poc = 0 ∧ p.sRefs = [] ∧ p.lRefs = [] ∧
        p.lead = nalBytes (isVvc (effW s) ch) 1024 (leadNals (effW s) ch p.idr p.poc p.gdr p.refSig p.filters)) ∧
      t.time.now = max s.time.now ((chFmt (effW s) ch).bound n) ∧ bitOf (page t (pgCh s ch)).stat 9 = true ∧
      Counted (pgCh s ch) 0 1 s t) ∧
    ((chan s ch).st = .running → s.waits = [] → chRun (effW s) ch = true → maskLost s ch = false → s.yoke.role ≠ roleStandby →
      ∃ t, exec (.pictureBoundary ch) s = .next t ∧ (chan t ch).st = .running ∧ (chan t ch).next = n + 1 ∧
        (∃ p ∈ (chan t ch).pics, p.n = n ∧
          p.lead = nalBytes (isVvc (effW s) ch) 1024 (leadNals (effW s) ch p.idr p.poc p.gdr p.refSig p.filters) ∧
          p.idr = (planPicture (effW s) ch (chan s ch) false).idr ∧
          p.poc = (planPicture (effW s) ch (chan s ch) false).poc ∧
          p.budget = (planPicture (effW s) ch (chan s ch) false).budget ∧
          p.baseQp = (planPicture (effW s) ch (chan s ch) false).baseQp ∧
          (p.sRefs, p.lRefs) = (planPicture (effW s) ch (chan s ch) false).refs) ∧
        t.time.now = max s.time.now ((chFmt (effW s) ch).bound n) ∧ Counted (pgCh s ch) 0 1 s t) ∧
    ((chan s ch).st = .running → s.waits = [] → chRun (effW s) ch = false →
      ∃ t, exec (.pictureBoundary ch) s = .next t ∧ ((chan t ch).st = .draining ∨ (chan t ch).st = .idle)) ∧
    ((chan s ch).st = .draining → s.waits = [] → ∃ t, exec (.pictureBoundary ch) s = .next t ∧
      ((chan t ch).st = .draining ∨ (chan t ch).st = .idle) ∧ (∀ p ∈ (chan t ch).pics, p ∈ (chan s ch).pics) ∧
      t.time.now = max s.time.now ((chFmt (effW s) ch).bound n)) ∧
    ((chan s ch).st = .idle ∨ (chan s ch).st = .faulted → exec (.pictureBoundary ch) s = .next s))

/-! ## The memory controller and the aperture (R90, R291–R313, R463–R466) -/

/-- Refresh and panic (R298–R302): a due command waits only at 1×, with a port in panic and a debt below 8; it joins what is
being repaid, and is issued otherwise; a port whose level falls below its watermark × 512 enters panic, with its event and
counter; at twice that it leaves, and with the last one out of panic owed commands begin to be issued; a port that ran dry
sets its bit and counts, and its level, now 0, takes it into panic.

Rate classes (R303–R305, R310): a read takes a higher class at once, and what its channel owes begins to be issued, with
DEBT_FLUSH; two periodic reads in a row below the class in use take it down one step, and a read that an alert prompts never
does; a change asks for tracking; the high-temperature code sets OVERTEMP; a die that comes to 4× has RATE_4X struck and
counted.

The patrol (R295–R297, R312): a pass counts; each single-bit error it finds, known or not, is corrected, counted and
reported; an uncorrectable one is counted, reported and, when nothing is logged, logged with its address; it stays bad, and
the bytes are as they were.

What rests on the model's own choices and readings here is that of log entries 83, 84, 86, 175 and 176. -/
def Obligations.RefreshRatesAndPatrol : Prop :=
  (∀ (d : Nat) (s : State), inReset s = false → d < dies s →
    (∀ i, i < 16 → (mc s d).selfRefresh = false → (mch (mc s d) i).rate = 0 → (mc s d).panic ≠ [] →
      (mch (mc s d) i).debt < 8 → (mch (mc s d) i).paying = false →
      ∃ t, exec (.refreshDue d i) s = .next t ∧ Counted (pgMc d) 4 1 s t ∧
        (∀ j, mch (mc t d) j = if j = i then { mch (mc s d) i with debt := (mch (mc s d) i).debt + 1 } else mch (mc s d) j) ∧
        (∀ e, e ≠ d → mc t e = mc s e) ∧ t = { s with ctrs := t.ctrs, mcs := t.mcs }) ∧
    (∀ i, i < 16 → (mc s d).selfRefresh = false → (mch (mc s d) i).paying = false →
      (0 < (mch (mc s d) i).rate ∨ (mc s d).panic = [] ∨ 8 ≤ (mch (mc s d) i).debt) →
      ∃ t, exec (.refreshDue d i) s = .next t ∧ Counted (pgMc d) 3 1 s t ∧ (∀ j, mch (mc t d) j = mch (mc s d) j) ∧
        (∀ e, e ≠ d → mc t e = mc s e) ∧ t = { s with ctrs := t.ctrs, mcs := t.mcs }) ∧
    (∀ i x n, i < 16 → (mc s d).selfRefresh = false → x = mch (mc s d) i → x.paying = true →
      (0 < x.rate ∨ (mc s d).panic = []) → n = cdiv (x.payFor + refreshEvery x.rate) 90 - x.paid →
      ∃ t, exec (.refreshDue d i) s = .next t ∧
        (n < x.debt → Counted (pgMc d) 3 n s t ∧ (mch (mc t d) i).debt = x.debt - n + 1 ∧ (mch (mc t d) i).paying = true) ∧
        (x.debt ≤ n → Counted (pgMc d) 3 (x.debt + 1) s t ∧ (mch (mc t d) i).debt = 0 ∧ (mch (mc t d) i).paying = false) ∧
        (∀ j, j ≠ i → mch (mc t d) j = mch (mc s d) j) ∧ (∀ e, e ≠ d → mc t e = mc s e) ∧
        t = { s with ctrs := t.ctrs, mcs := t.mcs }) ∧
    (∀ i, i < 16 → (mc s d).selfRefresh = true → exec (.refreshDue d i) s = .next s) ∧
    (∀ p l c, p < 12 → c = .panicEntry d p l ∨ c = .panicExit d p l →
      (p ∉ (mc s d).panic → min l 0x8000 < 512 * watermark (mc s d) p →
        ∃ t, exec c s = .next t ∧ portLevel (mc t d) p = min l 0x8000 ∧
          (∀ q, q ∈ (mc t d).panic ↔ q = p ∨ q ∈ (mc s d).panic) ∧ Struck (pgMc d) 0 s t ∧ Counted (pgMc d) (16 + p) 1 s t ∧
          t = { s with pages := t.pages, ctrs := t.ctrs, mcs := t.mcs, ic := t.ic }) ∧
      (p ∈ (mc s d).panic → 1024 * watermark (mc s d) p ≤ min l 0x8000 →
        ∃ t, exec c s = .next t ∧ portLevel (mc t d) p = min l 0x8000 ∧
          (∀ q, q ∈ (mc t d).panic ↔ q ≠ p ∧ q ∈ (mc s d).panic) ∧
          (∀ i, i < 16 → (mch (mc t d) i).debt = if (mc t d).panic = [] ∧ (mch (mc s d) i).paying = false
            then (mch (mc s d) i).debt - 1 else (mch (mc s d) i).debt) ∧
          ((mc t d).panic = [] → Counted (pgMc d) 3 ((List.range 16).filter (fun i =>
            decide (0 < (mch (mc s d) i).debt) && !(mch (mc s d) i).paying)).length s t) ∧
          t = { s with ctrs := t.ctrs, mcs := t.mcs }) ∧
      ((p ∉ (mc s d).panic ∧ 512 * watermark (mc s d) p ≤ min l 0x8000) ∨
          (p ∈ (mc s d).panic ∧ min l 0x8000 < 1024 * watermark (mc s d) p) →
        ∃ t, exec c s = .next t ∧ portLevel (mc t d) p = min l 0x8000 ∧ (mc t d).panic = (mc s d).panic ∧
          t = { s with mcs := t.mcs })) ∧
    (∀ p, p < 12 → ∃ t, exec (.portRun d p) s = .next t ∧ bitOf (page t (pgMc d)).stat 7 = true ∧ Counted (pgMc d) 9 1 s t ∧
      portLevel (mc t d) p = 0 ∧
      (0 < watermark (mc s d) p → (∀ q, q ∈ (mc t d).panic ↔ q = p ∨ q ∈ (mc s d).panic) ∧
        (p ∈ (mc s d).panic → Struck (pgMc d) 7 s t) ∧
        (p ∉ (mc s d).panic → Counted (pgMc d) (16 + p) 1 s t ∧ bitOf (page t (pgMc d)).stat 0 = true)) ∧
      t = { s with pages := t.pages, ctrs := t.ctrs, mcs := t.mcs, ic := t.ic })) ∧
  ((∀ (d : Nat) (codes : List Nat) (s : State), inReset s = false → d < dies s → (mc s d).selfRefresh = false →
    codes.length = 16 →
    (∃ t, exec (.mr4PeriodicRead d codes) s = .next t ∧
      (∀ i, i < 16 → (mch (mc t d) i).rate =
        if (mch (mc s d) i).rate < min (codes.getD i 0) 2 then min (codes.getD i 0) 2
        else if min (codes.getD i 0) 2 < (mch (mc s d) i).rate ∧ (mch (mc s d) i).low = 1 then (mch (mc s d) i).rate - 1
        else (mch (mc s d) i).rate) ∧
      (∀ i, i < 16 → (mch (mc t d) i).low =
        if min (codes.getD i 0) 2 < (mch (mc s d) i).rate ∧ (mch (mc s d) i).low ≠ 1 then (mch (mc s d) i).low + 1 else 0) ∧
      (∀ i, i < 16 → (mch (mc t d) i).rate ≠ (mch (mc s d) i).rate → (mc t d).trackWant = true) ∧
      (∀ i, i < 16 → 3 ≤ codes.getD i 0 → bitOf (page t (pgMc d)).stat 8 = true) ∧
      (fourX s d = false → fourX t d = true → Counted (pgMc d) 7 1 s t ∧ bitOf (page t (pgMc d)).stat 3 = true) ∧
      (∀ e, e ≠ d → mc t e = mc s e) ∧
      t = { s with out := t.out, pages := t.pages, ctrs := t.ctrs, mcs := t.mcs, yoke := t.yoke, ic := t.ic
                   lanes := t.lanes }) ∧
    (∃ t, exec (.thermalAlert d codes) s = .next t ∧
      (∀ i, i < 16 → (mch (mc t d) i).rate = max (mch (mc s d) i).rate (min (codes.getD i 0) 2)) ∧
      (∀ i, i < 16 → (mch (mc s d) i).rate = 0 → 0 < min (codes.getD i 0) 2 → 0 < (mch (mc s d) i).debt →
        (mch (mc t d) i).debt = (if (mch (mc s d) i).paying then (mch (mc s d) i).debt else (mch (mc s d) i).debt - 1) ∧
        bitOf (page t (pgMc d)).stat 1 = true) ∧
      (∀ i, i < 16 → (0 < (mch (mc s d) i).rate ∨ min (codes.getD i 0) 2 = 0) → (mch (mc t d) i).debt = (mch (mc s d) i).debt) ∧
      (∀ i, i < 16 → (mch (mc t d) i).rate ≠ (mch (mc s d) i).rate → (mc t d).trackWant = true) ∧
      (∀ e, e ≠ d → mc t e = mc s e) ∧
      t = { s with out := t.out, pages := t.pages, ctrs := t.ctrs, mcs := t.mcs, yoke := t.yoke, ic := t.ic
                   lanes := t.lanes })) ∧
  (∀ (d : Nat) (s : State), inReset s = false → d < dies s → mcReady s d = true →
    (∀ x, x ∈ s.poison ∨ x ∈ s.broken → x / 2 ^ 29 ≠ d) →
    (∀ ws, ∃ t, exec (.patrolPass d ws []) s = .next t ∧ Counted (pgMc d) 2 1 s t ∧
      Counted (pgMc d) 0 (ws ++ wordsOn d s.soft).eraseDups.length s t ∧
      (ws ≠ [] → bitOf (page t (pgMc d)).stat 5 = true) ∧ (∀ w, w < 2 ^ 29 → wordSoft t d w = false) ∧
      t = { s with pages := t.pages, ctrs := t.ctrs, soft := t.soft, ic := t.ic }) ∧
    (∀ w, w < 2 ^ 29 → ∃ t, exec (.patrolPass d [] [w]) s = .next t ∧ Counted (pgMc d) 2 1 s t ∧ Counted (pgMc d) 1 1 s t ∧
      bitOf (page t (pgMc d)).stat 6 = true ∧ ((∀ x ∈ s.soft, x / 2 ^ 29 ≠ d) → Struck (pgMc d) 6 s t) ∧ wordBad t d w = true ∧
      (bitOf (mc s d).errInfo 31 = false → (mc t d).errAddr = w ∧
        (mc t d).errInfo = BitVec.ofNat 32 (2 ^ 31 + (dramPlace (mc s d).mapLive w).channel * 2 ^ 16 + 0x45)) ∧
      (bitOf (mc s d).errInfo 31 = true → ∀ e, mc t e = mc s e) ∧
      t = { s with pages := t.pages, ctrs := t.ctrs, mcs := t.mcs, broken := t.broken, soft := t.soft, ic := t.ic })))

/-- A write through the aperture (R90, R295, R463, R465): each byte that it carries for a wiped granule is written, and no
other byte of memory changes; a whole word takes a new code; a part of a word that is uncorrectable leaves the word
poisoned; without the link, in D3hot or outside the window nothing happens.

A read through the aperture (R90, R296, R463–R465): the bytes of memory, ones for an uncorrectable word, whose error is
counted and reported, and zero for a granule not yet wiped, which is reported too; memory is as it was. `HOST_APER` takes a
die that is there and awake and a base inside its DRAM, and refuses any other; in D3hot a write of it is not decoded (R460).

What rests on the model's own choices and readings here is that of log entries 11, 18, 19, 85, 176 and 177. -/
def Obligations.ApertureReadsAndWrites : Prop :=
  (∀ (x : Nat) (bs : List (Option Byte)) (e : EccEvent) (s : State), inReset s = false → s.host.aperDie < 8 →
    aperAddr s x + bs.length ≤ 2 ^ 34 →
    (hostOpen s = true → x + bs.length ≤ 2 ^ 29 → ∃ t, exec (.apertureWrite x bs e) s = .next t ∧
      (∀ d b, d < 8 → b < 2 ^ 34 → dramGet t d b =
        if d = s.host.aperDie ∧ aperAddr s x ≤ b ∧ wiped s d b = true
        then (bs.getD (b - aperAddr s x) none).getD (dramGet s d b) else dramGet s d b) ∧
      Counted 1 1 (bs.filter Option.isSome).length s t ∧
      t = { s with pages := t.pages, ctrs := t.ctrs, dram := t.dram, poison := t.poison, broken := t.broken, soft := t.soft
                   ic := t.ic }) ∧
    (hostOpen s = true → x + bs.length ≤ 2 ^ 29 → aperAddr s x % 32 = 0 → bs.length = 32 → bs.all Option.isSome = true →
      wiped s s.host.aperDie (aperAddr s x) = true → ∃ t, exec (.apertureWrite x bs e) s = .next t ∧
        wordBad t s.host.aperDie (aperAddr s x / 32) = false) ∧
    (hostOpen s = true → x + bs.length ≤ 2 ^ 29 → bs ≠ [] → bs.all Option.isSome = true → bs.length < 32 →
      aperAddr s x / 32 = (aperAddr s x + bs.length - 1) / 32 → wiped s s.host.aperDie (aperAddr s x) = true →
      (wordBad s s.host.aperDie (aperAddr s x / 32) = true ∨ e = .double) →
      ∃ t, exec (.apertureWrite x bs e) s = .next t ∧ poisoned t s.host.aperDie (aperAddr s x / 32) = true) ∧
    ((hostOpen s = false ∨ 2 ^ 29 < x + bs.length) → exec (.apertureWrite x bs e) s = .next s)) ∧
  (∀ s : State, inReset s = false →
    (∀ x n, hostOpen s = true → x + n ≤ 2 ^ 29 → 0 < n →
      (∀ b, aperAddr s x ≤ b → b < aperAddr s x + n →
        wiped s s.host.aperDie b = true ∧ wordBad s s.host.aperDie (b / 32) = false) →
      ∃ t, exec (.apertureRead x n .clean) s = .next t ∧
        t.out = .readBytes ((List.range n).map (fun i => dramGet s s.host.aperDie (aperAddr s x + i))) :: s.out ∧
        Counted 1 0 n s t ∧ t = { s with out := t.out, pages := t.pages, ctrs := t.ctrs, soft := t.soft, ic := t.ic } ∧
        ((∀ b, aperAddr s x ≤ b → b < aperAddr s x + n → wordSoft s s.host.aperDie (b / 32) = false) →
          t = { s with out := t.out, ctrs := t.ctrs })) ∧
    (∀ x n e, hostOpen s = true → x + n ≤ 2 ^ 29 → 0 < n → aperAddr s x / 32 = (aperAddr s x + n - 1) / 32 →
      wiped s s.host.aperDie (aperAddr s x) = true →
      (wordBad s s.host.aperDie (aperAddr s x / 32) = true ∨ e = .double) →
      ∃ t, exec (.apertureRead x n e) s = .next t ∧ t.out = .readBytes (List.replicate n 0xFF) :: s.out ∧
        Struck (pgMc s.host.aperDie) 6 s t ∧ Counted (pgMc s.host.aperDie) 1 1 s t ∧
        wordBad t s.host.aperDie (aperAddr s x / 32) = true ∧
        t = { s with out := t.out, pages := t.pages, ctrs := t.ctrs, mcs := t.mcs, broken := t.broken, ic := t.ic }) ∧
    (∀ x n e, hostOpen s = true → x + n ≤ 2 ^ 29 → 0 < n → aperAddr s x / 32 = (aperAddr s x + n - 1) / 32 →
      wiped s s.host.aperDie (aperAddr s x) = false → ∃ t, exec (.apertureRead x n e) s = .next t ∧
        t.out = .readBytes (List.replicate n 0) :: s.out ∧ Struck 4 1 s t ∧ Counted 4 4 1 s t ∧
        t = { s with out := t.out, pages := t.pages, ctrs := t.ctrs, ic := t.ic }) ∧
    (∀ x n e, (hostOpen s = false ∨ 2 ^ 29 < x + n) → exec (.apertureRead x n e) s = .next s) ∧
    (∀ v, s.host.d3hot = false → fld v 31 29 < dies s → fld v 31 29 ∉ s.pwr.asleep → fld v 31 29 ∉ s.pwr.entering → fld v 31 29 ∉ s.pwr.waking →
      fld v 13 0 ≤ 14848 → exec (.hostAperWrite v) s =
        .next { s with host := { s.host with aperDie := fld v 31 29, aperBase := fld v 13 0 } }) ∧
    (∀ v, s.host.d3hot = true → exec (.hostAperWrite v) s = .next s) ∧
    (∀ v, s.host.d3hot = false → (dies s ≤ fld v 31 29 ∨ fld v 31 29 ∈ s.pwr.asleep ∨ fld v 31 29 ∈ s.pwr.entering ∨ fld v 31 29 ∈ s.pwr.waking ∨
      14848 < fld v 13 0) → ∃ t, exec (.hostAperWrite v) s = .next t ∧ Struck 1 1 s t ∧
        t = { s with pages := t.pages, ic := t.ic }))

/-! ## The yard's ports (R332–R355) -/

/-- A packet's release (R315, R322, R338): it leaves its service's queue at its instant; one that goes to one flow on one
path joins the end of the queue of that path's port, with the frame's own length and what the flow's addresses, keys and
SSRC make of it, and one on two paths waits at both ports; one that goes to no flow waits nowhere.

What rests on the model's own choices and readings here is that of log entries 89 and 240. -/
def Obligations.PacketsAreReleasedToTheirFlows : Prop :=
  ∀ (v : Nat) (s : State) (p : Pkt) (ps : List Pkt), inReset s = false → v < 512 * dies s → (svc s v).queue = p :: ps →
    ∃ t, exec (.packetRelease v) s = .next t ∧ (svc t v).queue = ps ∧ t.time.now = max s.time.now p.release ∧
      (∀ f ws, p.flows = [(f, ws)] → p.dual = false →
        (∃ q, (port t (flowCfgL ws).portA).media = (port s (flowCfgL ws).portA).media ++ [q] ∧ q.flow = f ∧ q.path = 0 ∧
          q.release = p.release ∧ q.seq = p.rtp.seq ∧ q.record = p.rtp.record ∧ q.ip = some (flowDgram s p f (flowCfgL ws) 0) ∧
          q.len = p.ipLen + 18 + (if (flowCfgL ws).tagged then 4 else 0)) ∧
        (∀ l, l ≠ (flowCfgL ws).portA → port t l = port s l)) ∧
      (∀ f ws, p.flows = [(f, ws)] → p.dual = true → (flowCfgL ws).portA ≠ (flowCfgL ws).portB →
        (port t (flowCfgL ws).portA).media.length = (port s (flowCfgL ws).portA).media.length + 1 ∧
        (port t (flowCfgL ws).portB).media.length = (port s (flowCfgL ws).portB).media.length + 1) ∧
      (p.flows = [] → ∀ l, port t l = port s l) ∧
      t = { s with time := t.time, pages := t.pages, ctrs := t.ctrs, chans := t.chans, svcs := t.svcs, ports := t.ports
                   dsps := t.dsps, yoke := t.yoke, ic := t.ic, tack := t.tack }

/-- A port's decision (R333, R340, R342, R347, R351, R352, R354): with the wire idle, a PTP frame, else a management frame
within its tokens, else a released media frame within its flow's tokens, leaves when its gate is open and it fits before the
gate closes, and the wire is busy for as long as the frame takes; a stopped flow's frame leaves without a wire and is
counted, and so do the ancillary frames of a quenched port; a busy wire starts nothing.

Gate lists and announcements (R329, R332, R345, R346, R348, R350, R351, R355): a pending list becomes operative at its start
instant, the wait bound is taken again, and a list that starts later than its base time strikes BASE_PAST and counts; an
entry's end is where media time comes to; a description that is announced is counted, and leaves where its port sends.

What rests on the model's own choices and readings here is that of log entries 23, 94, 95, 98, 99, 181 and 240. -/
def Obligations.PortsSendByClassAndGate : Prop :=
  (∀ (l at_ : Nat) (s : State), inReset s = false → l < 4 * dies s → portOf (effW s) l = some l →
    (at_ < (port s l).busyTo → exec (.portTransmit l at_) s = .next s) ∧
    (∀ q qs, (port s l).busyTo ≤ at_ → portSends s l = true → (port s l).media = [] → (port s l).ptpQ = q :: qs →
      gateOpen (port s l) 0 at_ = true → fitsGate (port s l) 0 at_ (frameCost q) (portGbps (effW s) l) = true →
      ∃ t, exec (.portTransmit l at_) s = .next t ∧ t.out = .frame l 0 q.flow q.path q.len q.seq q.record q.ip :: s.out ∧
        (port t l).ptpQ = qs ∧ (port t l).busyTo = at_ + cdiv (frameCost q * 8) (portGbps (effW s) l) ∧
        Counted (lanePage l) 6 1 s t ∧ Counted (lanePage l) 7 q.len s t ∧ (∀ k, k ≠ l → port t k = port s k) ∧
        t.time.now = max s.time.now at_ ∧
        t = { s with out := t.out, fresh := t.fresh, time := t.time, pages := t.pages, ctrs := t.ctrs, ports := t.ports
                     ic := t.ic }) ∧
    (∀ q qs, (port s l).busyTo ≤ at_ → portSends s l = true → (port s l).media = [] → (port s l).ptpQ = [] →
      (port s l).mgmtQ = q :: qs → (∀ r ∈ q :: qs, resolved (advance at_ s) l r = true) → gateOpen (port s l) 1 at_ = true →
      fitsGate (port s l) 1 at_ (frameCost q) (portGbps (effW s) l) = true →
      frameCost q * tokByte ≤ fill (port s l).tokMgmt (mgmtRate (effW s) l * 1000000) (at_ - (port s l).lastFill)
        (mgmtBurst (effW s) l) →
      ∃ t, exec (.portTransmit l at_) s = .next t ∧ t.out = .frame l 1 q.flow q.path q.len q.seq q.record q.ip :: s.out ∧
        (port t l).mgmtQ = qs ∧ (port t l).busyTo = at_ + cdiv (frameCost q * 8) (portGbps (effW s) l) ∧
        (∀ k, k ≠ l → port t k = port s k)) ∧
    (∀ q, (port s l).busyTo ≤ at_ → portSends s l = true → (port s l).media = [q] → (port s l).ptpQ = [] →
      (port s l).mgmtQ = [] → q.release ≤ at_ → mustDiscard (advance at_ s) l q = false → (flow s q.flow).waitFrom = none →
      (port s l).waitFrom = none → shapeRate (effW s) l = 0 → gateOpen (port s l) 2 at_ = true →
      fitsGate (port s l) 2 at_ (frameCost q) (portGbps (effW s) l) = true →
      frameCost q * tokByte ≤ flowTok s q.flow q.path at_ →
      ∃ t, exec (.portTransmit l at_) s = .next t ∧ t.out = .frame l 2 q.flow q.path q.len q.seq q.record q.ip :: s.out ∧
        (port t l).media = [] ∧ (port t l).busyTo = at_ + cdiv (frameCost q * 8) (portGbps (effW s) l) ∧
        (if q.path = 0 then (flow t q.flow).tokA else (flow t q.flow).tokB) =
          flowTok s q.flow q.path at_ - frameCost q * tokByte) ∧
    (∀ q, (port s l).busyTo ≤ at_ → (port s l).media = [q] → (port s l).ptpQ = [] → (port s l).mgmtQ = [] →
      (port s l).anc = [[], [], [], [], [], []] → q.release ≤ at_ → q.flow ∈ s.stops →
      (flow s q.flow).stopAt + 100 ≤ at_ → mutedFrame s q = false →
      ∃ t, exec (.portTransmit l at_) s = .next t ∧ (port t l).media = [] ∧ t.out = s.out ∧
        Counted (pgFlow (l / 4)) 2 1 s t ∧ bitOf (page t (pgFlow (l / 4))).stat 0 = true) ∧
    ((port s l).busyTo ≤ at_ → portSends s l = true → (port s l).media = [] → (port s l).ptpQ = [] → (port s l).mgmtQ = [] →
      l ∈ s.quench → (port s l).quenchAt + 100 ≤ at_ → ∃ t, exec (.portTransmit l at_) s = .next t ∧ t.out = s.out ∧
        (port t l).anc = [[], [], [], [], [], []] ∧ Counted (pgFlow (l / 4)) 3 (port s l).anc.flatten.length s t ∧
        ((port s l).anc.flatten ≠ [] → bitOf (page t (pgFlow (l / 4))).stat 0 = true))) ∧
  (∀ s : State, inReset s = false →
    (∀ l q, l < 4 * dies s → (port s l).pend = some q → ∃ t, exec (.listStart l) s = .next t ∧
      (port t l).oper = some q ∧ (port t l).pend = none ∧ (port t l).wait = portWait t l ∧
      (port t l).media.length = (port s l).media.length ∧ (∀ k, k ≠ l → port t k = port s k) ∧
      t.time.now = max s.time.now q.start ∧
      (q.start = q.base → t = { s with time := t.time, ports := t.ports }) ∧
      (q.start ≠ q.base → Struck (pgGate l) 0 s t ∧ Counted (pgGate l) 12 1 s t) ∧
      t = { s with time := t.time, pages := t.pages, ctrs := t.ctrs, ports := t.ports, ic := t.ic }) ∧
    (∀ l g, l < 4 * dies s → (port s l).oper = some g → 0 < g.cycle → ∃ t x, exec (.gateEntry l) s = .next t ∧
      x = (s.time.now + g.cycle - g.base % g.cycle) % g.cycle ∧
      t.time.now = s.time.now + ((gateAt g.entries x 0).2 - x) ∧
      (port t l).media.length = (port s l).media.length ∧ (port t l).oper = some g ∧ (∀ k, k ≠ l → port t k = port s k) ∧
      t = { s with time := t.time, ports := t.ports }) ∧
    (∀ f x, s.services.sdp = [(f, x)] → announces s = true → sapEn s (f / 4096) = true → x.group = true →
      ∃ t, exec .sapAnnounce s = .next t ∧ t.out = (if portSends s x.port = true then [.sap f false] else []) ++ s.out ∧ (∀ k, k ≠ x.port → port t k = port s k) ∧
        Counted (pgYard (f / 4096)) 6 1 s t ∧
        ((port s x.port).anc = [[], [], [], [], [], []] → x.text.length ≤ 32000 →
          ∃ (q : QFrame) (a : Dgram), (port t x.port).anc = [[], [], [q], [], [], []] ∧ q.ip = some a ∧ a.dport = 9875 ∧
            a.dst = effW s (ploc (pgYard (f / 4096)) 0x304) ∧ a.payload = sapBytes x.ssrc x.src false x.text) ∧
        t = { s with out := t.out, ctrs := t.ctrs, ports := t.ports }))

/-! ## The yoke (R356–R398) -/

/-- Pairing (R356, R361, R362, R372): a SOLE part that may pair takes the role that the rules of R362 give and is PAIRING
until the partner advertises the other; then it has its role, and every running channel is DIVERGED for START; a part that
may not, or that ties, is SOLE with the refusal's code, and does not try again for a second where a HELLO failed the checks
of R356; no agreement within 1 ms is code 5. A part that lost its partner and hears it transmit strikes DUAL_ACTIVE, and the
order of R384 says which of the two becomes STANDBY, or that they tie (R384).

Heartbeats (R376–R378, R380): a period missed counts, the eighth in a row loses the path; with the other path lost as well
an ACTIVE part is SOLE at once and a STANDBY part is to take over; a pulse or a frame revives its path, and a pulse of a
yield makes a standby take over; the heartbeat sent tells the role.

What rests on the model's own choices and readings here is that of log entries 100, 101, 102, 103, 186 and 237. -/
def Obligations.PairingAndHeartbeats : Prop :=
  (∀ s : State, inReset s = false →
    (∀ h p r, yokeOn s = true → h.crcOk = true → s.yoke.role = roleSole → s.yoke.barred = false → s.yoke.wait = false →
      s.host.held = false → (s.yoke.sundered && transmits p.role) = false → helloRefusal s p = 0 → decideRole s p = some r → ∃ t, exec (.helloReceived h p) s = .next t ∧
        t.yoke.role = (if (r = roleActive ∧ p.role = roleStandby) ∨ (r = roleStandby ∧ p.role = roleActive) then r
          else rolePairing) ∧
        t.yoke.paired = r ∧ t.yoke.hello = some p ∧
        (t.yoke.role = r → r ≠ rolePairing → ∀ ch ∈ runningChs s, (ych t ch).st = ysDiverged ∧ (ych t ch).cause = 1) ∧
        t = { s with out := t.out, pages := t.pages, ctrs := t.ctrs, yoke := t.yoke, ic := t.ic, lanes := t.lanes }) ∧
    (∀ h p c, yokeOn s = true → h.crcOk = true → s.yoke.role = roleSole → s.yoke.barred = false → s.yoke.wait = false →
      s.host.held = false → (c = helloRefusal s p ∧ 0 < c ∨
        c = 4 ∧ helloRefusal s p = 0 ∧ (s.yoke.sundered && transmits p.role) = false ∧ decideRole s p = none) →
      ∃ t, exec (.helloReceived h p) s = .next t ∧ t.yoke.role = roleSole ∧ t.yoke.refusal = c ∧
        t.yoke.wait = decide (c ≤ 3) ∧ bitOf (page t 7).stat 1 = true ∧
        t = { s with pages := t.pages, yoke := t.yoke, ic := t.ic }) ∧
    (∀ h p, yokeOn s = true → h.crcOk = true → s.yoke.role = roleSole → s.yoke.barred = false → s.yoke.wait = false →
      s.host.held = false → s.yoke.sundered = true → transmits p.role = true → helloRefusal s p = 0 → s.yoke.dual = none →
      ∃ t, exec (.helloReceived h p) s = .next t ∧ t.yoke.role = roleSole ∧ t.yoke.hello = some p ∧ Struck 7 12 s t ∧
        t.yoke.dual = losesDual s p ∧ t.yoke.barred = decide (losesDual s p = none) ∧
        t = { s with pages := t.pages, yoke := t.yoke, ic := t.ic }) ∧
    (s.yoke.role = rolePairing → ∃ t, exec .pairingTimeout s = .next t ∧ t.yoke.role = roleSole ∧ t.yoke.refusal = 5 ∧
      t.yoke.wait = false ∧ Struck 7 1 s t ∧ t = { s with pages := t.pages, yoke := t.yoke, ic := t.ic }) ∧
    (s.yoke.role ≠ rolePairing → exec .pairingTimeout s = .next s) ∧
    (exec .pairRetry s = .next { s with yoke := { s.yoke with wait := false } }) ∧
    (yokeOn s = true → s.host.held = false → ∃ t, exec .helloSend s = .next t ∧
      (∀ l ∈ yokeLanesOn s, .yoke l (yFrame 0 s.yoke.seqRx false (.hello (helloOf s))) ∈ t.out ∧ (lane t l).st = stUp) ∧
      t.yoke = { s.yoke with ackDue := s.yoke.ackDue && (yokeLanesOn s).isEmpty } ∧
      t = { s with out := t.out, ctrs := t.ctrs, yoke := t.yoke, lanes := t.lanes }) ∧
    ((yokeOn s = false ∨ s.host.held = true) → exec .helloSend s = .next s ∧ exec .beatSend s = .next s) ∧
    (∀ h p, yokeOn s = false → exec (.helloReceived h p) s = .next s) ∧
    (∀ h p, yokeOn s = true → h.crcOk = false → ∃ t, exec (.helloReceived h p) s = .next t ∧ Counted 7 19 1 s t ∧
      t = { s with ctrs := t.ctrs })) ∧
  (∀ s : State, inReset s = false → yokeOn s = true →
    (∃ t, exec (.heartbeatMissed true) s = .next t ∧ t.yoke.linkMiss = min 8 (s.yoke.linkMiss + 1) ∧ Counted 7 17 1 s t ∧
      t.yoke.linkLost = (s.yoke.linkLost || decide (7 ≤ s.yoke.linkMiss)) ∧
      (s.yoke.pinLost = true → s.yoke.linkLost = false → 7 ≤ s.yoke.linkMiss → s.yoke.role = roleActive →
        t.yoke.role = roleSole ∧ bitOf (page t 7).stat 2 = true ∧ Counted 7 2 1 s t) ∧
      (s.yoke.pinLost = true → s.yoke.linkLost = false → 7 ≤ s.yoke.linkMiss → s.yoke.role = roleStandby →
        s.yoke.pendTake = none → t.yoke.pendTake = some (s.yoke.lastBeat, furrowFrom s.time.now)) ∧
      t = { s with out := t.out, pages := t.pages, ctrs := t.ctrs, chans := t.chans, yoke := t.yoke, ic := t.ic
                   lanes := t.lanes }) ∧
    (∃ t, exec (.heartbeatMissed false) s = .next t ∧ t.yoke.pinMiss = min 8 (s.yoke.pinMiss + 1) ∧ Counted 7 16 1 s t ∧
      t.yoke.pinLost = (s.yoke.pinLost || decide (7 ≤ s.yoke.pinMiss)) ∧
      (s.yoke.linkLost = true → s.yoke.pinLost = false → 7 ≤ s.yoke.pinMiss → s.yoke.role = roleActive →
        t.yoke.role = roleSole ∧ bitOf (page t 7).stat 2 = true) ∧
      (s.yoke.linkLost = false → s.yoke.pinLost = false → 7 ≤ s.yoke.pinMiss → t.yoke.role = s.yoke.role ∧
        bitOf (page t 7).stat 5 = true ∧ Counted 7 3 1 s t) ∧
      t = { s with out := t.out, pages := t.pages, ctrs := t.ctrs, chans := t.chans, yoke := t.yoke, ic := t.ic
                   lanes := t.lanes }) ∧
    (∀ w, (pulseIs w 100 || pulseIs w 300 || pulseIs w 1000) = true → ∃ t, exec (.heartbeatPulse w) s = .next t ∧
      t.yoke.pinMiss = 0 ∧ t.yoke.pinLost = false ∧ t.yoke.lastBeat = s.time.now ∧ t.yoke.role = s.yoke.role ∧
      (pulseIs w 1000 = true → s.yoke.role = roleStandby → s.yoke.pendTake = none →
        t.yoke.pendTake = some (s.time.now, furrowFrom (s.time.now + 20000))) ∧
      t = { s with out := t.out, pages := t.pages, ctrs := t.ctrs, chans := t.chans, yoke := t.yoke, ic := t.ic
                   lanes := t.lanes }) ∧
    (∀ w, (pulseIs w 100 || pulseIs w 300 || pulseIs w 1000) = false → exec (.heartbeatPulse w) s = .next s) ∧
    (∀ h p, h.crcOk = true → ∃ t, exec (.beatReceived h p) s = .next t ∧ t.yoke.linkMiss = 0 ∧ t.yoke.linkLost = false ∧
      t.yoke.lastBeat = s.time.now ∧ t.yoke.beat = some p ∧ t.yoke.partner = p.role ∧
      (s.yoke.role = roleActive → p.role = roleStandby → t.yoke.role = roleActive) ∧
      t = { s with out := t.out, pages := t.pages, ctrs := t.ctrs, chans := t.chans, yoke := t.yoke, ic := t.ic
                   lanes := t.lanes }) ∧
    (s.host.held = false → ∃ t, exec .beatSend s = .next t ∧
      .hbPulse (if s.yoke.role = rolePairing ∨ s.yoke.role = roleStandby then 300 else 100) ∈ t.out ∧
      (beatLane s = none → t.yoke = s.yoke ∧ t.out.length = s.out.length + 1) ∧
      (∀ l, beatLane s = some l → t.yoke.beatN = s.yoke.beatN + 1 ∧ t.yoke.ackDue = false ∧ (lane t l).st = 4 ∧
        .yoke l (yFrame 0 s.yoke.seqRx false (.beat (beatOf s))) ∈ t.out) ∧
      t = { s with out := t.out, ctrs := t.ctrs, yoke := t.yoke, lanes := t.lanes }))

/-- Reliable frames act once and in the order of their sequence numbers (R394, R396): a repeat has no effect but its
acknowledgement, one that comes early waits, a damaged one is counted and discarded; an unacknowledged frame is sent again
up to four times, and then the link path is lost; an acknowledgement that is due leaves.

What rests on the model's own choices and readings here is that of log entry 104. -/
def Obligations.ReliableFramesActInOrder : Prop :=
  ∀ s : State, inReset s = false → yokeOn s = true →
    (∀ c h, relHeader c = some h → (∀ ch, relChan c = some ch → ch < 32 * dies s) →
      (h.crcOk = true → h.seq ≤ s.yoke.seqRx → exec c s = .next { s with yoke := { s.yoke with
        unacked := s.yoke.unacked.filter (fun u => decide (h.ack < u.seq)), ackDue := true } }) ∧
      (h.crcOk = true → s.yoke.seqRx + 1 < h.seq → (∀ e ∈ s.yoke.early, e.1 ≠ h.seq) → exec c s = .next { s with yoke :=
        { s.yoke with unacked := s.yoke.unacked.filter (fun u => decide (h.ack < u.seq)), ackDue := true
                      early := s.yoke.early ++ [(h.seq, c)] } }) ∧
      (h.crcOk = false → ∃ t, exec c s = .next t ∧ Counted 7 19 1 s t ∧ t = { s with ctrs := t.ctrs }) ∧
      (h.crcOk = true → h.seq = s.yoke.seqRx + 1 → s.yoke.early = [] → ∃ t, exec c s = .next t ∧
        t.yoke.seqRx = h.seq)) ∧
    (∀ h, h.crcOk = true → exec (.ackFrame h) s = .next { s with yoke := { s.yoke with
      unacked := s.yoke.unacked.filter (fun u => decide (h.ack < u.seq)) } }) ∧
    (∀ n u, s.yoke.unacked.find? (fun u => decide (u.seq = n)) = some u → u.sends < 4 →
      ∃ t, exec (.reliableRetry n) s = .next t ∧ Counted 7 12 1 s t ∧
        (∀ l ∈ frameLanes s u.msg, .yoke l (yFrame n s.yoke.seqRx true u.msg) ∈ t.out) ∧
        (∀ x ∈ s.yoke.unacked, (if x.seq = n then { x with sends := x.sends + 1 } else x) ∈ t.yoke.unacked) ∧
        t = { s with out := t.out, ctrs := t.ctrs, lanes := t.lanes, yoke := { s.yoke with
          unacked := t.yoke.unacked, ackDue := t.yoke.ackDue, copyN := t.yoke.copyN } }) ∧
    (∀ n u, s.yoke.unacked.find? (fun u => decide (u.seq = n)) = some u → 4 ≤ u.sends →
      ∃ t, exec (.reliableRetry n) s = .next t ∧ t.yoke.linkLost = true ∧
        t = { s with out := t.out, pages := t.pages, ctrs := t.ctrs, chans := t.chans, yoke := t.yoke, ic := t.ic
                     lanes := t.lanes }) ∧
    (∀ n, (∀ u ∈ s.yoke.unacked, u.seq ≠ n) → exec (.reliableRetry n) s = .next s) ∧
    (∀ l, s.yoke.ackDue = true → beatLane s = some l → ∃ t, exec .ackTimer s = .next t ∧
      .yoke l (yFrame 0 s.yoke.seqRx false .ack) ∈ t.out ∧ (lane t l).st = stUp ∧
      t = { s with out := t.out, ctrs := t.ctrs, lanes := t.lanes, yoke := { s.yoke with ackDue := false } }) ∧
    (beatLane s = none → exec .ackTimer s = .next s) ∧
    (s.yoke.ackDue = false → exec .ackTimer s = .next s)

/-- Votes and decisions (R365–R367): the active passes a set whose VOTE agrees, with the effect instant of R366, and refuses
one that does not; a set that a standby lost is caught up; the standby's set follows the DECIDE; without a VOTE or a DECIDE
in time the set is refused.

What rests on the model's own choices and readings here is that of log entry 111. -/
def Obligations.SetsAreDecidedTogether : Prop :=
  ∀ (s : State) (q : Nat), inReset s = false →
    (∀ h g tcrc live, InTurn s h → s.yoke.role = roleActive → s.checking = some q → (cset s q).st = .check →
      (cset s q).phase = .vote → (cset s q).began ≤ s.time.now + 2000000 → g = (cset s q).gen →
      tcrc = entryCrc (cset s q).entry → domainsMissing s (candidate s (cset s q).entry) = [] →
      ∃ t, exec (.voteFrame h q g (cset s q).crc tcrc live 0) s = .next t ∧ (cset t q).st = .apply ∧ (cset t q).live = g ∧
        (cset t q).effect = furrowFrom (s.time.now + 100000) ∧ t.live = candidate s (cset s q).entry ∧
        RelSent (.decide q g 0 (furrowFrom (s.time.now + 100000))) s t) ∧
    (∀ h g crc tcrc live res, InTurn s h → s.yoke.role = roleActive → s.checking = some q → (cset s q).st = .check →
      (cset s q).phase = .vote → (cset s q).began ≤ s.time.now + 2000000 →
      ¬ (g = (cset s q).gen ∧ crc = (cset s q).crc ∧ tcrc = entryCrc (cset s q).entry ∧ res = 0) →
      ∃ t, exec (.voteFrame h q g crc tcrc live res) s = .next t ∧ (cset t q).st = .failed ∧ (cset t q).cause = causeYoke ∧
        t.live = s.live ∧ RelSent (.decide q (cset s q).gen 1 0) s t ∧ bitOf (page t 7).stat 9 = true) ∧
    (∀ h g crc tcrc live res, InTurn s h → s.yoke.role = roleActive → setQueued s q = false → crc = liveSum s q →
      ∃ t, exec (.voteFrame h q g crc tcrc live res) s = .next t ∧
        RelSent (.decide q (cset s q).live 2 0) s t ∧
        t = { s with out := t.out, ctrs := t.ctrs, yoke := t.yoke, lanes := t.lanes }) ∧
    (∀ h e, InTurn s h → awaitsDecide s q = true → domainsMissing s (candidate s (cset s q).entry) = [] →
      ∃ t, exec (.decidePass h q (cset s q).gen e) s = .next t ∧ (cset t q).st = .apply ∧ (cset t q).live = (cset s q).gen ∧
        (cset t q).effect = e ∧ t.live = candidate s (cset s q).entry ∧ t.checking = none) ∧
    (∀ h g, InTurn s h → awaitsDecide s q = true → domainsMissing s (candidate s (cset s q).entry) = [] →
      ∃ t, exec (.decideCatchup h q g) s = .next t ∧ (cset t q).st = .apply ∧ (cset t q).live = g ∧ (cset t q).effect = 0 ∧
        (cset t q).gen = (cset s q).gen ∧ t.live = candidate s (cset s q).entry) ∧
    (∀ h g, InTurn s h → awaitsDecide s q = true → ∃ t, exec (.decideFail h q g) s = .next t ∧ (cset t q).st = .failed ∧
      (cset t q).cause = causeYoke ∧ t.live = s.live ∧ t.staged = s.staged ∧ t.checking = none ∧
      bitOf (page t 7).stat 9 = true) ∧
    (∀ h e, InTurn s h → awaitsDecide s q = false → ∃ t, exec (.decidePass h q (cset s q).gen e) s = .next t ∧
      t = { s with yoke := t.yoke }) ∧
    (s.checking = some q → s.yoke.role = roleActive → (cset s q).phase = .vote → ∃ t, exec .voteTimeout s = .next t ∧
      (cset t q).st = .failed ∧ (cset t q).cause = causeYoke ∧ t.live = s.live ∧ RelSent (.decide q (cset s q).gen 1 0) s t) ∧
    (s.checking = some q → (cset s q).phase = .decision → ∃ t, exec .decideTimeout s = .next t ∧
      (cset t q).st = .failed ∧ (cset t q).cause = causeYoke ∧ t.live = s.live) ∧
    (s.checking = none → exec .voteTimeout s = .next s ∧ exec .decideTimeout s = .next s)

/-- Records and verdicts (R369–R372): the standby compares the active's record of a picture with its own, keeps a LOCKED
channel locked when they are equal and makes it DIVERGED with the first cause when they are not; the active takes the
standby's verdict.

Resync (R373–R375): a request marks the active's channel for a checkpoint; the standby stops coding it from the checkpoint's
picture on; copies write the stalls and nothing else of memory, and a bulk copy of a stall's last bytes leaves one stall
fewer; the end of the copy fixes the join picture on the active, and its RESYNC frame names it to the standby; an abort
leaves the channel DIVERGED and counts a failure.

What rests on the model's own choices and readings here is that of log entries 75, 105, 106, 107, 108, 179, 183, 201, 212,
213, 233, 234 and 235. -/
def Obligations.RecordsAndResync : Prop :=
  (∀ (s : State) (h : YHdr) (ch : Nat), inReset s = false → InTurn s h → ch < 32 * dies s →
    (∀ r, r.channel = ch → s.yoke.role = roleStandby → ∃ t, exec (.stateFrame h r) s = .next t ∧
      ((chan s ch).st ≠ .draining → (ych t ch).lastRx = some r) ∧
      (∀ a, (ych s ch).own = [a] → (ych s ch).theirs = [] → a.picture = r.picture → (ych s ch).st = ysLocked →
        Counted 7 10 1 s t ∧ (ych t ch).own = [] ∧
        Awaits (.verdict ch (ych t ch).st (ych t ch).cause r.picture) t ∧
        (recordCause a r = 0 → (ych t ch).st = ysLocked) ∧
        (recordCause a r ≠ 0 → (ych t ch).st = ysDiverged ∧ (ych t ch).cause = recordCause a r ∧ Counted 7 11 1 s t ∧
          Counted 7 4 1 s t ∧ bitOf (page t 7).stat 6 = true)) ∧
      t = { s with out := t.out, pages := t.pages, ctrs := t.ctrs, chans := t.chans, svcs := t.svcs, dsps := t.dsps
                   yoke := t.yoke, ic := t.ic, lanes := t.lanes }) ∧
    (∀ r, r.channel = ch → s.yoke.role ≠ roleStandby → ∃ t, exec (.stateFrame h r) s = .next t ∧
      t = { s with yoke := t.yoke }) ∧
    (∀ c n, s.yoke.role = roleActive → ∃ t, exec (.verdictFrame h ch ysLocked c n) s = .next t ∧ (ych t ch).st = ysLocked ∧
      ((ych s ch).st ≠ ysLocked → bitOf (page t 7).stat 7 = true) ∧
      ((ych s ch).st = ysVerify → Counted 7 5 1 s t) ∧
      t = { s with pages := t.pages, ctrs := t.ctrs, yoke := t.yoke, ic := t.ic }) ∧
    (∀ c n, s.yoke.role = roleActive → ∃ t, exec (.verdictFrame h ch ysDiverged c n) s = .next t ∧
      (ych t ch).st = ysDiverged ∧ (ych t ch).cause = c ∧
      ((ych s ch).st ≠ ysDiverged → bitOf (page t 7).stat 6 = true ∧ Counted 7 4 1 s t) ∧
      ((ych s ch).st = ysVerify → (ych t ch).fails = (ych s ch).fails + 1 ∧ t.yoke.resyncCh = none) ∧
      (∀ k, k ≠ ch → ych t k = ych s k) ∧ t = { s with pages := t.pages, ctrs := t.ctrs, yoke := t.yoke, ic := t.ic })) ∧
  (∀ (s : State) (ch : Nat), inReset s = false → ch < 32 * dies s →
    (∀ h, InTurn s h → s.yoke.role = roleActive → s.yoke.resyncCh = none →
      ∃ t, exec (.resyncRequest h ch) s = .next t ∧ t.yoke.resyncCh = some ch ∧ t.yoke.resyncStep = 1 ∧
        chan t ch = { chan s ch with ckptWant := true } ∧ (∀ k, k ≠ ch → chan t k = chan s k) ∧
        t = { s with chans := t.chans, yoke := t.yoke }) ∧
    (∀ h pins n, InTurn s h → s.yoke.role = roleStandby → s.yoke.resyncCh = some ch →
      ∃ t, exec (.resyncCheckpointTaken h ch pins n) s = .next t ∧ t.yoke.resyncStep = 2 ∧ (ych t ch).st = ysResync ∧
        t.yoke.resyncLeft = ones (BitVec.ofNat 32 pins) ∧ (ych t ch).own = [] ∧ (ych t ch).join = none ∧
        (chan t ch).pics = (chan s ch).pics.filter (fun p => decide (p.n < n)) ∧
        t = { s with ctrs := t.ctrs, chans := t.chans, svcs := t.svcs, dsps := t.dsps, yoke := t.yoke }) ∧
    (∀ h st off bytes, InTurn s h → s.yoke.role = roleStandby → s.yoke.resyncCh = some ch → 2 ≤ s.yoke.resyncStep → st < 16 →
      off + bytes.length ≤ stallSize (effW s) ch → chDie s ch < 8 →
      stallAt (effW s) ch st + off + bytes.length ≤ 2 ^ 34 →
      (∃ t, exec (.copyBulk h ch st off bytes) s = .next t ∧
        t.yoke.resyncLeft = s.yoke.resyncLeft -
          (if s.yoke.resyncStep = 2 ∧ off + bytes.length = stallSize (effW s) ch then 1 else 0) ∧
        (∀ d a, d < 8 → a < 2 ^ 34 → dramGet t d a =
          if d = chDie s ch ∧ stallAt (effW s) ch st + off ≤ a ∧ a < stallAt (effW s) ch st + off + bytes.length
          then bytes.getD (a - (stallAt (effW s) ch st + off)) 0 else dramGet s d a) ∧
        t = { s with pages := t.pages, ctrs := t.ctrs, dram := t.dram, poison := t.poison, broken := t.broken
                     soft := t.soft, yoke := t.yoke, ic := t.ic }) ∧
      (∃ t, exec (.copyRow h ch st off bytes) s = .next t ∧
        (∀ d a, d < 8 → a < 2 ^ 34 → dramGet t d a =
          if d = chDie s ch ∧ stallAt (effW s) ch st + off ≤ a ∧ a < stallAt (effW s) ch st + off + bytes.length
          then bytes.getD (a - (stallAt (effW s) ch st + off)) 0 else dramGet s d a) ∧
        t = { s with pages := t.pages, ctrs := t.ctrs, dram := t.dram, poison := t.poison, broken := t.broken
                     soft := t.soft, yoke := t.yoke, ic := t.ic })) ∧
    (s.yoke.role = roleActive → s.yoke.resyncCh = some ch → s.yoke.resyncStep = 2 →
      (∀ r ∈ pinReads s ch, badWords s r.die r.addr r.len = []) → ∃ t, exec (.bulkCopyDone ch) s = .next t ∧
      t.yoke.resyncStep = 3 ∧ t.yoke.resyncLeft = 0 ∧ (ych t ch).join = some (joinPicture s ch) ∧
      Awaits (.resync ch 3 0 (joinPicture s ch)) t ∧ Counted 7 7 s.yoke.resyncLeft s t ∧
      Counted 7 8 (((List.range 16).filter (fun i => (stall (chan s ch) i).pin)).length * stallSize (effW s) ch) s t ∧
      (∀ i j, i < 16 → (stall (chan s ch) i).pin = true → 16368 * j < stallSize (effW s) ch →
        Awaits (.copy ch i 0 (16368 * j) ((List.range (min 16368 (stallSize (effW s) ch - 16368 * j))).map
          (fun x => stallByte s ch i (16368 * j + x)))) t) ∧
      t = { s with out := t.out, pages := t.pages, ctrs := t.ctrs, yoke := t.yoke, ic := t.ic, lanes := t.lanes }) ∧
    (∀ h m, InTurn s h → s.yoke.role = roleStandby → s.yoke.resyncCh = some ch → s.yoke.resyncStep = 2 →
      ∃ t, exec (.resyncCopyDone h ch m false) s = .next t ∧ t.yoke.resyncStep = 3 ∧ t.yoke.resyncLeft = 0 ∧
        (ych t ch).join = some m ∧ t = { s with yoke := t.yoke }) ∧
    (∀ h m, InTurn s h → ∃ t, exec (.resyncCopyDone h ch m true) s = .next t ∧ t = { s with yoke := { s.yoke with
      unacked := t.yoke.unacked, ackDue := true, seqRx := h.seq } }) ∧
    (∀ h, InTurn s h → s.yoke.resyncCh = some ch → ∃ t, exec (.resyncAbort h ch) s = .next t ∧ t.yoke.resyncCh = none ∧
      t.yoke.resyncStep = 0 ∧ (ych t ch).st = ysDiverged ∧ (ych t ch).fails = (ych s ch).fails + 1 ∧ Counted 7 6 1 s t ∧
      (s.yoke.role = roleStandby → (chan t ch).forceIdr = true) ∧
      t = { s with pages := t.pages, ctrs := t.ctrs, chans := t.chans, yoke := t.yoke, ic := t.ic }) ∧
    (∀ v, fld v 31 16 = 0x5E1D → fld v 3 0 = 2 → fld v 11 4 = ch → s.yoke.role = roleStandby → running s ch = true →
      ∃ t, exec (.yokeResync v) s = .next t ∧
        (s.yoke.resyncCh = none → s.yoke.linkLost = false → t.yoke.resyncStep = 1 ∧
          ∃ k, t.yoke.resyncCh = some k ∧ RelSent (.resync k 1 0 0) s t) ∧
        (s.yoke.resyncCh.isSome = true → (ych t ch).asked = true ∧ (ych t ch).fails = 0 ∧ t.out = s.out) ∧
        t = { s with out := t.out, ctrs := t.ctrs, yoke := t.yoke, lanes := t.lanes }) ∧
    (∀ v, fld v 31 16 ≠ 0x5E1D → exec (.yokeResync v) s = .next s ∧ exec (.yokeYield v) s = .next s))

/-- Yield and takeover (R379–R383): a yield is told on both paths, with the first package furrow boundary at least 20 µs
away; the standby takes over at that instant, ACTIVE or, with both paths lost, SOLE; a channel that was not LOCKED restarts
with an IDR picture; the part that yielded is STANDBY.

Die faults and re-seating (R87, R118, R386–R390): every page of a faulted die is in FAULT; a running channel that may not be
re-seated is FAULTED with nothing in progress; one whose spare die can take it moves there, still running, and begins no
picture for 50 µs; mirror copies, of the checkpoint's stalls and then of the last picture's, whose record is kept, write the
shadow barn and nothing else of memory; a damaged one is counted.

What rests on the model's own choices and readings here is that of log entries 108, 109, 110, 112, 235 and 236. -/
def Obligations.YieldTakeoverAndDieFaults : Prop :=
  (∀ s : State, inReset s = false →
    (∀ v, fld v 31 16 = 0x5E1D → fld v 3 0 = 1 → s.yoke.role = roleActive → anyLocked s = true → s.yoke.pendYield = none →
      ∃ t, exec (.yokeYield v) s = .next t ∧ t.yoke.pendYield = some (furrowFrom (s.time.now + 20000)) ∧
        RelSent (.yield 3 s.time.now (furrowFrom (s.time.now + 20000))) s t ∧ .hbPulse 1000 ∈ t.out ∧ Struck 7 4 s t ∧
        Counted 7 1 1 s t ∧ t.yoke.role = roleActive ∧
        t = { s with out := t.out, pages := t.pages, ctrs := t.ctrs, yoke := t.yoke, ic := t.ic, lanes := t.lanes }) ∧
    (∀ v, fld v 31 16 = 0x5E1D → fld v 3 0 = 1 → (s.yoke.role ≠ roleActive ∨ anyLocked s = false) →
      exec (.yokeYield v) s = .next s) ∧
    (∀ h c tR tT, InTurn s h → s.yoke.role = roleStandby → ∃ t, exec (.yieldFrame h c tR tT) s = .next t ∧
      t.yoke.pendTake = some (tR, tT) ∧ t = { s with yoke := t.yoke }) ∧
    (∀ tR tT, s.yoke.pendTake = some (tR, tT) → s.yoke.resyncCh = none → ∃ t, exec .takeover s = .next t ∧
      t.yoke.role = (if s.yoke.pinLost = true ∧ s.yoke.linkLost = true then roleSole else roleActive) ∧
      t.yoke.pendTake = none ∧ t.yoke.takeAt = tT ∧ t.time.now = max s.time.now tT ∧ Counted 7 0 1 s t ∧
      bitOf (page t 7).stat 3 = true ∧
      (∀ ch ∈ runningChs s, lockedCh s ch = false → (chan t ch).forceIdr = true ∧ (chan t ch).notBefore = tT ∧
        (chan t ch).holdNext = true ∧ (chan t ch).pics = []) ∧
      t = { s with out := t.out, fresh := t.fresh, time := t.time, pages := t.pages, ctrs := t.ctrs, chans := t.chans
                   svcs := t.svcs, flows := t.flows, ports := t.ports, dsps := t.dsps, yoke := t.yoke, ic := t.ic
                   tack := t.tack }) ∧
    (∀ tT, s.yoke.pendTake = none → s.yoke.pendYield = some tT → s.yoke.resyncCh = none → ∃ t, exec .takeover s = .next t ∧
      t.yoke.role = roleStandby ∧ t.yoke.pendYield = none ∧ t.yoke.takeAt = tT ∧ t.time.now = max s.time.now tT ∧
      t = { s with time := t.time, pages := t.pages, yoke := t.yoke, ic := t.ic }) ∧
    (s.yoke.pendTake = none → s.yoke.pendYield = none → exec .takeover s = .next s)) ∧
  (∀ (s : State) (d : Nat), inReset s = false → d < dies s →
    (∀ cause, ∃ t, exec (.dieFault d cause) s = .next t ∧ (∀ k ∈ pagesOf d, packagePage (keyPage k) = false → (page t k).fault = true) ∧
      (∀ ch, (chan s ch).st = .armed → chDie s ch = d → (chan t ch).st = .faulted) ∧
      (s.yoke.role ≠ roleActive → ∀ ch, (chan s ch).st = .running → chDie s ch = d → reseatEn (liveW s) ch = false →
        (chan t ch).st = .faulted ∧ (chan t ch).pics = [] ∧ bitOf (page t 7).stat 11 = true) ∧
      (s.yoke.role ≠ roleActive → ∀ ch, (chan s ch).st = .running → chDie s ch = d →
        (chan s ch).seat = none → spareDie (liveW s) ch ≠ d → spareOk s ch = true →
        (chan t ch).st = .running ∧
        (chan t ch).seat = some (32 * spareDie (liveW s) ch + spareLocal (liveW s) ch) ∧
        (chan t ch).notBefore = s.time.now + 50000 ∧ bitOf (page t 7).stat 10 = true) ∧
      (∀ ch, chDie s ch ≠ d → (chan t ch).st = (chan s ch).st) ∧
      (∀ x, cause = some x → Counted (pgMc d) 1 1 s t ∧ bitOf (page t (pgMc d)).stat 6 = true) ∧
      t = { s with out := t.out, pages := t.pages, ctrs := t.ctrs, eff := t.eff, chans := t.chans, svcs := t.svcs
                   dsps := t.dsps, mcs := t.mcs, broken := t.broken, yoke := t.yoke, ic := t.ic, lanes := t.lanes }) ∧
    (∀ ch i, ch < 32 * dies s → mirrors s ch = true → (chan s ch).ckptSeat = true →
      (∀ j, j < 16 → ((stall (chan s ch) j).pin = true ↔ j = i)) → i < 16 → chDie s ch < 8 → spareDie (liveW s) ch < 8 →
      stallAt (effW s) ch i + stallSize (effW s) ch ≤ 2 ^ 34 → shadowAt s ch i + stallSize (effW s) ch ≤ 2 ^ 34 →
      badWords s (chDie s ch) (stallAt (effW s) ch i) (stallSize (effW s) ch) = [] →
      ∃ t, exec (.mirrorCopy ch) s = .next t ∧ (chan t ch).mirrorInit = true ∧
        (∀ e a, e < 8 → a < 2 ^ 34 → dramGet t e a =
          if e = spareDie (liveW s) ch ∧ shadowAt s ch i ≤ a ∧ a < shadowAt s ch i + stallSize (effW s) ch
          then dramGet s (chDie s ch) (a - shadowAt s ch i + stallAt (effW s) ch i) else dramGet s e a) ∧
        (∀ k, k ≠ ch → chan t k = chan s k) ∧
        t = { s with pages := t.pages, ctrs := t.ctrs, chans := t.chans, dram := t.dram, poison := t.poison
                     broken := t.broken, soft := t.soft, ic := t.ic }) ∧
    (∀ ch i r, ch < 32 * dies s → mirrors s ch = true → (chan s ch).ckptSeat = false → (chan s ch).mirrorInit = true →
      (chan s ch).lastRec = some r → stallOf (chan s ch) r.picture = some i → (chan s ch).mirrored ≠ some r.picture →
      i < 16 → chDie s ch < 8 → spareDie (liveW s) ch < 8 →
      stallAt (effW s) ch i + stallSize (effW s) ch ≤ 2 ^ 34 → shadowAt s ch i + stallSize (effW s) ch ≤ 2 ^ 34 →
      badWords s (chDie s ch) (stallAt (effW s) ch i) (stallSize (effW s) ch) = [] →
      ∃ t, exec (.mirrorCopy ch) s = .next t ∧ (chan t ch).mirrored = some r.picture ∧ (chan t ch).mirrorRec = some r ∧
        (∀ e a, e < 8 → a < 2 ^ 34 → dramGet t e a =
          if e = spareDie (liveW s) ch ∧ shadowAt s ch i ≤ a ∧ a < shadowAt s ch i + stallSize (effW s) ch
          then dramGet s (chDie s ch) (a - shadowAt s ch i + stallAt (effW s) ch i) else dramGet s e a) ∧
        (∀ k, k ≠ ch → chan t k = chan s k) ∧
        t = { s with pages := t.pages, ctrs := t.ctrs, chans := t.chans, dram := t.dram, poison := t.poison
                     broken := t.broken, soft := t.soft, ic := t.ic }) ∧
    (∀ ch i, ch < 32 * dies s → i ∈ mirroredStalls s ch →
      badWords s (chDie s ch) (stallAt (effW s) ch i) (stallSize (effW s) ch) ≠ [] →
      ∃ t, exec (.mirrorCopy ch) s = .next t ∧ (page t (pgMc (chDie s ch))).fault = true ∧ t.dram = s.dram) ∧
    (∀ ch, ch < 32 * dies s → mirrors s ch = false → exec (.mirrorCopy ch) s = .next s) ∧
    (∀ h ch st off bytes, ch < 32 * dies s → h.crcOk = true → mirrors s ch = true → st < 16 →
      off + bytes.length ≤ stallSize (effW s) ch → spareDie (liveW s) ch < 8 →
      shadowAt s ch st + off + bytes.length ≤ 2 ^ 34 → ∃ t, exec (.copyMirror h ch st off bytes) s = .next t ∧
        (∀ e a, e < 8 → a < 2 ^ 34 → dramGet t e a =
          if e = spareDie (liveW s) ch ∧ shadowAt s ch st + off ≤ a ∧ a < shadowAt s ch st + off + bytes.length
          then bytes.getD (a - (shadowAt s ch st + off)) 0 else dramGet s e a) ∧
        Counted 7 8 bytes.length s t ∧
        t = { s with pages := t.pages, ctrs := t.ctrs, dram := t.dram, poison := t.poison, broken := t.broken, soft := t.soft
                     ic := t.ic }) ∧
    (∀ h ch st off bytes, ch < 32 * dies s → h.crcOk = false → ∃ t, exec (.copyMirror h ch st off bytes) s = .next t ∧
      Counted 7 19 1 s t ∧ t = { s with ctrs := t.ctrs }))

/-! ## Interrupts (R419–R437) -/

/-- Messages (R419, R420, R422, R425): one sent by a write waits, in order, for its arrival; a source that is enabled
becomes pending, one that was already pending merges it, and one that is not enabled drops it; a write that names a source
beyond the variant is discarded and counted; one for the partner leaves as a frame where there is a link path, and one from
the partner acts only where its source's REMOTE bit allows it.

What rests on the model's own choices and readings here is that of log entries 117, 119 and 139. -/
def Obligations.MessagesReachTheArbiter : Prop :=
  ∀ s : State, inReset s = false →
    (∀ core v, v.toNat < 512 * dies s → exec (.icDoorbell core v) s = .next { s with ic := { s.ic with
      inflight := s.ic.inflight ++ [((core.map senderCore).getD senderHost, v.toNat)] } }) ∧
    (∀ x n, s.ic.inflight.find? (fun e => decide (e.1 = x)) = some (x, n) →
      ((src s n).en = true → ∃ t, exec (.icMessageArrival x) s = .next t ∧ SourceIs n { src s n with pend := true } s t ∧
        Counted 2 0 1 s t ∧ Counted 2 2 (if (src s n).pend then 1 else 0) s t ∧ Delivered [0, 2] s t) ∧
      ((src s n).en = false → ∃ t, exec (.icMessageArrival x) s = .next t ∧ Struck 2 1 s t ∧ Counted 2 1 1 s t ∧
        (∀ k, k ≠ 2 → page t k = page s k) ∧
        t = { s with pages := t.pages, ctrs := t.ctrs, ic := { s.ic with inflight := t.ic.inflight } })) ∧
    (∀ x, s.ic.inflight.find? (fun e => decide (e.1 = x)) = none → exec (.icMessageArrival x) s = .next s) ∧
    (∀ (v : Word) (core : Option Nat) (c : Instr), 512 * dies s ≤ v.toNat →
      c ∈ [Instr.icDoorbell core v, .icPendClr v false, .icPendClr v true, .icEnSet v, .icEnClr v false,
        .icEnClr v true, .icMaskSet v, .icMaskClr v false, .icMaskClr v true] →
      ∃ t, exec c s = .next t ∧ Struck 2 7 s t ∧ Counted 2 9 1 s t ∧ (∀ k, k ≠ 2 → page t k = page s k) ∧
        t = { s with pages := t.pages, ctrs := t.ctrs, ic := { s.ic with inflight := t.ic.inflight } }) ∧
    (∀ v, pairedRole s = true → s.yoke.linkLost = false → ∃ t, exec (.icRemote v) s = .next t ∧
      RelSent (.doorbell (fld v 11 0)) s t ∧ Counted 2 11 1 s t ∧
      t = { s with out := t.out, ctrs := t.ctrs, lanes := t.lanes, yoke := { s.yoke with
        seqTx := t.yoke.seqTx, ackDue := t.yoke.ackDue, unacked := t.yoke.unacked } }) ∧
    (∀ v, (pairedRole s = false ∨ s.yoke.linkLost = true) → ∃ t, exec (.icRemote v) s = .next t ∧ Struck 2 6 s t ∧
      Counted 2 13 1 s t ∧ t = { s with pages := t.pages, ctrs := t.ctrs, ic := { s.ic with inflight := t.ic.inflight } }) ∧
    (∀ h n, InTurn s h → (src s n).remote = true → (src s n).en = true → ∃ t, exec (.doorbellFrame h n) s = .next t ∧
      SourceIs n { src s n with pend := true } s t ∧ Counted 2 12 1 s t ∧ Counted 2 0 1 s t ∧
      t.yoke = { s.yoke with unacked := t.yoke.unacked, ackDue := true, seqRx := h.seq } ∧
      t = { s with out := t.out, pwr := t.pwr, pages := t.pages, ctrs := t.ctrs, yoke := t.yoke, ic := t.ic }) ∧
    (∀ h n, InTurn s h → (src s n).remote = false → ∃ t, exec (.doorbellFrame h n) s = .next t ∧ Struck 2 6 s t ∧
      Counted 2 13 1 s t ∧ t.yoke = { s.yoke with unacked := t.yoke.unacked, ackDue := true, seqRx := h.seq } ∧
      t = { s with pages := t.pages, ctrs := t.ctrs, yoke := t.yoke, ic := { s.ic with inflight := t.ic.inflight } })

/-- A source's bits and its routing (R421, R422, R424): each register changes the bit that it names of the one source; a
message in the cycle of a clear keeps PENDING, and a set in the cycle of a clear wins; a routing entry takes its fields but
for a TARGET or FALLBACK that does not exist, and a source that the variant does not have has none.

What rests on the model's own choices and readings here is that of log entries 9 and 118. -/
def Obligations.SourceBitsAndRoutes : Prop :=
  ∀ s : State, inReset s = false →
    (∀ v : Word, v.toNat < 512 * dies s →
      (∃ t, exec (.icPendClr v false) s = .next t ∧ SourceIs v.toNat { src s v.toNat with pend := false } s t ∧
        Delivered [] s t) ∧
      ((src s v.toNat).pend = false → ∃ t, exec (.icPendClr v true) s = .next t ∧ (src t v.toNat).pend = false) ∧
      ((src s v.toNat).pend = true → ∃ t, exec (.icPendClr v true) s = .next t ∧ Counted 2 3 1 s t ∧
        t = { s with ctrs := t.ctrs }) ∧
      (∃ t, exec (.icEnSet v) s = .next t ∧ SourceIs v.toNat { src s v.toNat with en := true } s t ∧ Delivered [] s t) ∧
      (∀ hit, ∃ t, exec (.icEnClr v hit) s = .next t ∧ SourceIs v.toNat { src s v.toNat with en := hit } s t ∧
        Counted 2 3 (if hit then 1 else 0) s t ∧ Delivered [3] s t) ∧
      (∃ t, exec (.icMaskSet v) s = .next t ∧ SourceIs v.toNat { src s v.toNat with mask := true } s t ∧ Delivered [] s t) ∧
      (∀ hit, ∃ t, exec (.icMaskClr v hit) s = .next t ∧ SourceIs v.toNat { src s v.toNat with mask := hit } s t ∧
        Counted 2 3 (if hit then 1 else 0) s t ∧ Delivered [3] s t)) ∧
    (∀ n v, n < 512 * dies s → ∃ t, exec (.routingWrite n v) s = .next t ∧
      SourceIs n { src s n with
        remote := bitOf v 27, wake := bitOf v 26, prio := fld v 3 0
        target := if targetExists s (fld v 16 8) then fld v 16 8 else (src s n).target
        fallback := if targetExists s (fld v 25 17) then fld v 25 17 else (src s n).fallback } s t ∧ Delivered [] s t) ∧
    (∀ n v, 512 * dies s ≤ n → exec (.routingWrite n v) s = .next s)

/-- Claim, complete and wake (R427–R431, R433): a claim takes the deliverable source of the highest priority and, among
those, of the lowest number, and takes it into service; with none it reads 0 and EMPTY_CLAIM is set; a complete ends the
service of the source that its target claimed, and no other; a message whose wait for a sleeping target ends is redirected.
A message that arrives with the claim changes no answer of it, and one that is then presented before its completion counts
(R431).

What rests on the model's own choices and readings here is that of log entries 118, 187, 196 and 225. -/
def Obligations.ClaimCompleteAndWake : Prop :=
  ∀ s : State, inReset s = false →
    (∀ t n x l1 l2, t < 288 → s.ic.srcs = l1 ++ (n, x) :: l2 → deliverable s t x = true →
      (∀ e ∈ l1, deliverable s t e.2 = true → e.2.prio < x.prio) →
      (∀ e ∈ l2, deliverable s t e.2 = true → e.2.prio ≤ x.prio) →
      (∃ u, exec (.icClaim t []) s = .next u ∧ .read (BitVec.ofNat 32 (2 ^ 31 + x.prio * 2 ^ 16 + n)) ∈ u.out ∧
        SourceIs n { src s n with pend := false, svc := some (t, x.prio) } s u ∧ Counted 2 3 1 s u ∧ Delivered [3] s u) ∧
      (∀ late, ∃ u, exec (.icClaim t late) s = .next u ∧ .read (BitVec.ofNat 32 (2 ^ 31 + x.prio * 2 ^ 16 + n)) ∈ u.out ∧
        (src u n).svc = some (t, x.prio) ∧ Counted 2 3 1 s u) ∧
      (∀ y m, icOldest s y = some (y, m) → ∃ u, exec (.icClaim t [y]) s = .next u ∧
        ((∃ p, p < 16 ∧ u.ic.presented.get (fun _ => 0) t = 1 + 16 * m + p) → Counted 2 7 1 s u) ∧
        ((∀ p, p < 16 → u.ic.presented.get (fun _ => 0) t ≠ 1 + 16 * m + p) → counter u 2 7 = counter s 2 7))) ∧
    (∀ t, t < 288 → (∀ e ∈ s.ic.srcs, deliverable s t e.2 = false) →
      (∃ u, exec (.icClaim t []) s = .next u ∧ .read 0 ∈ u.out ∧ Counted 2 4 1 s u ∧ bitOf (page u 2).stat 2 = true ∧
        (∀ n, src u n = { src s n with redir := (src u n).redir }) ∧ Delivered [4] s u) ∧
      (∀ late, ∃ u, exec (.icClaim t late) s = .next u ∧ .read 0 ∈ u.out ∧ Counted 2 4 1 s u)) ∧
    (∀ t (v : Word) p, t < 288 → (src s v.toNat).svc = some (t, p) → ∃ u, exec (.icComplete t v) s = .next u ∧
      SourceIs v.toNat { src s v.toNat with svc := none } s u ∧ Counted 2 5 1 s u ∧ Delivered [5] s u) ∧
    (∀ t (v : Word), t < 288 → (∀ p, (src s v.toNat).svc ≠ some (t, p)) → ∃ u, exec (.icComplete t v) s = .next u ∧
      Struck 2 3 s u ∧ Counted 2 6 1 s u ∧
      u = { s with pages := u.pages, ctrs := u.ctrs, ic := { s.ic with inflight := u.ic.inflight } }) ∧
    (∀ t late v, 288 ≤ t → exec (.icClaim t late) s = .next s ∧ exec (.icComplete t v) s = .next s) ∧
    (∀ n e, s.ic.wakeQ.find? (fun e => decide (e.1 = n)) = some e → targetAsleep s e.2 = true → (src s n).pend = true →
      ∃ u, exec (.wakeTimeout n) s = .next u ∧ (src u n).redir = true ∧ bitOf (page u 2).stat 4 = true ∧
        (∀ m, src u m = { src s m with redir := (src u m).redir }) ∧ Delivered [] s u) ∧
    (∀ n e, s.ic.wakeQ.find? (fun e => decide (e.1 = n)) = some e → targetAsleep s e.2 = false →
      exec (.wakeTimeout n) s = .next s) ∧
    (∀ n, s.ic.wakeQ.find? (fun e => decide (e.1 = n)) = none → exec (.wakeTimeout n) s = .next s)

/-! ## Serial lanes (R438–R459) -/

/-- A lane's states (R439, R446, R451, R452, R459): each event takes the lane from the states it applies to into the state
that follows, with its counter and flags, and does nothing to a lane in another state; a receiver decodes the precoding that
it asked for (R438).

What rests on the model's own choices and readings here is that of log entries 24, 122, 184, 228, 230 and 231. -/
def Obligations.LanesFollowTheirEvents : Prop :=
  ∀ (l : Nat) (s : State), inReset s = false → laneExists s l = true →
    ((lane s l).st = 0 → (l < 32 → powered s (lanePage l) = true ∧ l / 4 ∉ s.pwr.entering ∧ l / 4 ∉ s.pwr.asleep ∧
        l / 4 ∉ s.pwr.waking) → blocksUp s (if l < 32 then l / 4 else 0) = true →
      ∃ t, exec (.laneCalibrated l true) s = .next t ∧
      (lane t l).st = 1 ∧ l ∈ t.pwr.laneCal ∧ LaneEvent l s t) ∧
    ((lane s l).st = 0 → (l < 32 → powered s (lanePage l) = true ∧ l / 4 ∉ s.pwr.entering ∧ l / 4 ∉ s.pwr.asleep ∧
        l / 4 ∉ s.pwr.waking) → blocksUp s (if l < 32 then l / 4 else 0) = true →
      ∃ t, exec (.laneCalibrated l false) s = .next t ∧
      (lane t l).st = 6 ∧ (page t (if l < 32 then lanePage l else 7)).fault = true ∧ LaneEvent l s t) ∧
    ((lane s l).st = 1 → ∃ t, exec (.signalDetect l) s = .next t ∧ (lane t l).st = 2 ∧ (lane t l).signal = true ∧
      LaneEvent l s t) ∧
    ((lane s l).st = 4 ∨ (lane s l).st = 3 ∨ (lane s l).st = 2 → ∃ t, exec (.signalLoss l) s = .next t ∧
      (lane t l).st = 1 ∧ (lane t l).signal = false ∧ (lane t l).lock = false ∧
      Counted (diePageOf l) (16 * laneBlock l + 4) (if (lane s l).lock then 1 else 0) s t ∧ LaneEvent l s t) ∧
    ((lane s l).st = 2 → ∀ c d, ∃ t, exec (.adaptationConverged l c d) s = .next t ∧
      (lane t l).st = (if txEnabled s l then (if (lane s l).retry then 2 else 3) else 4) ∧
      (lane t l).converged = true ∧
      (lane t l).ctle = (if (lane s l).freeze && !(lane s l).rerun then (lane s l).ctle else c % 32) ∧
      (lane t l).dfe1 = (if (lane s l).freeze && !(lane s l).rerun then (lane s l).dfe1 else d % 256) ∧
      Counted (diePageOf l) (16 * laneBlock l + 5) (if txEnabled s l && !(lane s l).retry then 1 else 0) s t ∧
      LaneEvent l s t) ∧
    ((lane s l).st = 3 → ∀ pre taps, ∃ t, exec (.trainingComplete l pre taps) s = .next t ∧ (lane t l).st = 4 ∧
      (lane t l).trained = true ∧ (lane t l).preTx = pre ∧ (lane t l).preRx = !(lane s l).noPre ∧
      (lane t l).taps = (if bitOf (lane s l).txeq 31 then (lane s l).taps else some (taps &&& 0x0F1F3F1F)) ∧
      (l < 32 → portOf (effW s) l = some l → portLanes (effW s) l = [l] → bitOf (page t (lanePage l)).stat 0 = true) ∧
      LaneEvent l s t) ∧
    ((lane s l).st = 3 → ∃ t, exec (.trainingTimeout l) s = .next t ∧ (lane t l).st = 2 ∧ (lane t l).retry = true ∧
      Counted (diePageOf l) (16 * laneBlock l + 6) 1 s t ∧ (l < 32 → bitOf (page t (lanePage l)).stat 3 = true) ∧
      LaneEvent l s t) ∧
    ((lane s l).st = 2 → (lane s l).retry = true → ∃ t, exec (.trainingRetry l) s = .next t ∧
      (lane t l).st = (if (lane s l).converged && txEnabled s l then 3 else 2) ∧ (lane t l).retry = false ∧
      Counted (diePageOf l) (16 * laneBlock l + 5) (if (lane s l).converged && txEnabled s l then 1 else 0) s t ∧
      LaneEvent l s t) ∧
    ((lane s l).st = 4 ∨ (lane s l).st = 3 → ∃ t, exec (.lockLoss l) s = .next t ∧ (lane t l).st = 2 ∧
      (lane t l).converged = false ∧ Counted (diePageOf l) (16 * laneBlock l + 4) 1 s t ∧
      (32 ≤ l → bitOf (page t (pkey 0 0x100)).stat 2 = true) ∧ LaneEvent l s t) ∧
    ((lane s l).st = 6 → ∀ ok c d pre taps, ∀ e ∈ [Instr.laneCalibrated l ok, .signalDetect l, .signalLoss l,
      .adaptationConverged l c d, .trainingComplete l pre taps, .trainingTimeout l, .trainingRetry l, .lockLoss l],
      exec e s = .next (yieldOnConditions s))

/-- Codewords and idle (R448, R456–R459): a block of codewords adds its counts; a port's block is the sum of its lanes'
shares, and says whether the port is degraded; a yoke lane other than the beat lane may go idle, each refresh and each end
of an idle sends the wake burst, a refresh takes new settings unless they are frozen, and one whose partner has not locked
in time locks again; an event of a lane that the variant lacks does nothing.

What rests on the model's own choices and readings here is that of log entries 5, 121, 185, 229 and 232. -/
def Obligations.CodewordsAndIdleLanes : Prop :=
  ∀ (l : Nat) (s : State), inReset s = false →
    (laneExists s l = true → ∀ sym w bad, ∃ t, exec (.fecBlockEnd l sym w bad) s = .next t ∧
      (lane t l).syms = sym ∧
      (l < 32 → lane t l = { lane s l with syms := sym, shares := (lane t l).shares, portSyms := (lane t l).portSyms }) ∧
      (l ∈ portMates s l → (portMates s l).Nodup → (lane s l).shares = [] →
        (∀ x ∈ portMates s l, x ≠ l → (lane s x).shares ≠ []) → (lane t ((portMates s l).headD l)).portSyms =
          ((portMates s l).map (fun x => if x = l then sym else (lane s x).shares.headD 0)).sum) ∧
      (l < 32 → degradedCond s l = false → degradedCond t l = true → bitOf (page t (lanePage l)).stat 1 = true) ∧
      Counted (diePageOf l) (16 * laneBlock l) sym s t ∧
      Counted (diePageOf l) (16 * laneBlock l + 1) (8192 / spread s l) s t ∧
      Counted (diePageOf l) (16 * laneBlock l + 2) w s t ∧ Counted (diePageOf l) (16 * laneBlock l + 3) bad s t ∧
      (l < 32 → 0 < bad → bitOf (page t (lanePage l)).stat 4 = true) ∧ LaneEvent l s t) ∧
    (32 ≤ l → l < 36 →
      ((lane s l).st = 4 → txEnabled s l = true → beatLane s ≠ some l → ∃ t, exec (.ykIdleEntry l) s = .next t ∧
        (lane t l).st = 5 ∧ (lane t l).txOn = false ∧ Counted (pkey 0 0x100) (16 * laneBlock l + 7) 1 s t ∧ LaneEvent l s t) ∧
      (((lane s l).st ≠ 4 ∨ txEnabled s l = false ∨ beatLane s = some l) →
        exec (.ykIdleEntry l) s = .next (yieldOnConditions s)) ∧
      ((lane s l).st = 5 → ∃ t, exec (.ykIdleExit l) s = .next t ∧ (lane t l).st = 4 ∧ (lane t l).txOn = true ∧
        .wakeBurst l ∈ t.out ∧ Counted (pkey 0 0x100) (16 * laneBlock l + 8) 1 s t ∧ LaneEvent l s t) ∧
      ((lane s l).st = 5 → beatLane s ≠ some l → ∀ c d, ∃ t, exec (.ykIdleRefresh l c d) s = .next t ∧ .wakeBurst l ∈ t.out ∧
        Counted (pkey 0 0x100) (16 * laneBlock l + 7) 1 s t ∧ Counted (pkey 0 0x100) (16 * laneBlock l + 8) 1 s t ∧
        lane t l = (if (lane s l).freeze && !(lane s l).rerun then lane s l
          else { lane s l with rerun := false, ctle := c % 32, dfe1 := d % 256 }) ∧ LaneEvent l s t) ∧
      ((lane s l).st ≠ 5 → ∀ c d, exec (.ykIdleExit l) s = .next (yieldOnConditions s) ∧
        exec (.ykIdleRefresh l c d) s = .next (yieldOnConditions s)) ∧
      ((lane s l).st = 4 ∨ (lane s l).st = 5 → ∃ t, exec (.ykExitLate l) s = .next t ∧ (lane t l).st = 2 ∧
        (lane t l).converged = false ∧ Counted (pkey 0 0x100) (16 * laneBlock l + 9) 1 s t ∧
        bitOf (page t (pkey 0 0x100)).stat 3 = true ∧ LaneEvent l s t)) ∧
    (laneExists s l = false → ∀ ok c d pre taps sym w bad, ∀ e ∈ [Instr.laneCalibrated l ok, .signalDetect l, .signalLoss l,
      .adaptationConverged l c d, .trainingComplete l pre taps, .trainingTimeout l, .trainingRetry l, .lockLoss l,
      .fecBlockEnd l sym w bad, .ykIdleEntry l, .ykIdleExit l, .ykIdleRefresh l c d, .ykExitLate l],
      exec e s = .next s)

/-- Equalisation and the eye scan (R451–R455): taps above 24 in sum discard a write, and a PRESET outside 1 to 5 keeps the
field; a lane that READAPT finds with a signal locks again; a scan starts with its eye and its dwell, ends after 4,096 cells
with its margin, stands still while its lane is idle, and is aborted with its event; a block that does not exist discards
every write.

What rests on the model's own choices and readings here is that of log entries 120, 122 and 188. -/
def Obligations.EqualisationAndEyeScan : Prop :=
  ∀ (d b : Nat) (s : State), inReset s = false →
    (∀ l, d < dies s → blockLane d b = some l →
      (∀ v, tapSum v ≤ 24 → ∃ t, exec (.phyTxeqWrite d b v) s = .next t ∧
        (lane t l).txeq &&& 0x8F1F3F1F = v &&& 0x8F1F3F1F ∧
        fld (lane t l).txeq 30 28 = (if 1 ≤ fld v 30 28 ∧ fld v 30 28 ≤ 5 then fld v 30 28 else fld (lane s l).txeq 30 28) ∧
        (∀ m, lane t m = if m = l then { lane s l with txeq := (lane t l).txeq } else lane s m) ∧
        t = { s with lanes := t.lanes }) ∧
      (∀ v, 24 < tapSum v → exec (.phyTxeqWrite d b v) s = .next s) ∧
      (∀ v, bitOf v 30 = false → ∃ t, exec (.phyReadapt d b v) s = .next t ∧
        (∀ m, lane t m = if m = l then { lane s l with freeze := bitOf v 31, noPre := bitOf v 29 } else lane s m) ∧
        t = { s with lanes := t.lanes }) ∧
      (∀ v, bitOf v 30 = true → (lane s l).st ∈ [2, 3, 4, 5] → ∃ t, exec (.phyReadapt d b v) s = .next t ∧
        (lane t l).st = 2 ∧ (lane t l).converged = false ∧ (lane t l).freeze = bitOf v 31 ∧ (lane t l).noPre = bitOf v 29 ∧
        (lane t l).rerun = true ∧ LaneEvent l s t) ∧
      (∀ v, bitOf v 1 = false → bitOf v 0 = true → (lane s l).busy = false → ∃ t, exec (.eyeScanStart d b v) s = .next t ∧
        (∀ m, lane t m = if m = l then { lane s l with
          busy := true, done := false, aborted := false, cells := 0, cellData := []
          dwell := if 10 ≤ fld v 20 16 ∧ fld v 20 16 ≤ 30 then fld v 20 16 else (lane s l).dwell
          eye := if fld v 9 8 = 3 then (lane s l).eye else fld v 9 8
          scanEye := if fld v 9 8 = 3 then (lane s l).eye else fld v 9 8 } else lane s m) ∧
        t = { s with lanes := t.lanes }) ∧
      (∀ v, bitOf v 1 = true → (lane s l).busy = true → ∃ t, exec (.eyeScanAbort d b v) s = .next t ∧
        (lane t l).busy = false ∧ (lane t l).aborted = true ∧ (lane t l).done = (lane s l).done ∧
        Struck (diePageOf l) 1 s t ∧ (∀ m, m ≠ l → lane t m = lane s m) ∧
        t = { s with pages := t.pages, lanes := t.lanes, ic := { s.ic with inflight := t.ic.inflight } }) ∧
      (∀ n, (lane s l).busy = true → (lane s l).st ≠ 5 → (lane s l).cells ≠ 4095 →
        ∃ t, exec (.eyeCellDone d b n) s = .next t ∧
          (∀ m, lane t m = if m = l then { lane s l with
            cells := (lane s l).cells + 1
            cellData := (lane s l).cellData.set (fun _ => 0) (lane s l).cells (min n 65535) } else lane s m) ∧
          t = { s with lanes := t.lanes }) ∧
      (∀ n, (lane s l).busy = true → (lane s l).st ≠ 5 → (lane s l).cells = 4095 →
        ∃ t, exec (.eyeCellDone d b n) s = .next t ∧ (lane t l).busy = false ∧ (lane t l).done = true ∧
          (lane t l).cells = 4096 ∧ Struck (diePageOf l) 0 s t ∧ (∀ m, m ≠ l → lane t m = lane s m) ∧
          fld (lane t l).margin 31 30 = (lane s l).scanEye % 4 ∧
          t = { s with pages := t.pages, lanes := t.lanes, ic := { s.ic with inflight := t.ic.inflight } }) ∧
      (∀ n, ((lane s l).busy = false ∨ (lane s l).st = 5) → exec (.eyeCellDone d b n) s = .next s)) ∧
    (∀ v n, (dies s ≤ d ∨ blockLane d b = none) → ∀ e ∈ [Instr.phyTxeqWrite d b v, .phyReadapt d b v, .eyeScanStart d b v,
      .eyeScanAbort d b v, .eyeCellDone d b n], exec e s = .next s)

/-! ## Audio (R399–R418) -/

/-- Audio packets and samples (R401–R403, R412, R413): a service's next packet leaves at (s + n)/48,000 + λ once its samples
are ready, numbered by its count, to the flow that the service has joined; one sample index becomes ready at a time, and a
channel nobody wrote is counted once a packet time; a change that has found no crossing applies at its limit; a mark clears
8,192 samples after its last preamble; at a unit that the variant lacks nothing happens.

What rests on the model's own choices and readings here is that of log entries 5, 113, 114 and 220. -/
def Obligations.AudioPacketsAndSamples : Prop :=
  ∀ s : State, inReset s = false →
    (∀ v, isVideoSvc v = false → asvcFlow v < 64 * dies s →
      ((svc s v).active = true → (asvcCfg (effW s) v).form1 = false →
        (svc s v).next * (aflCfg (effW s) (asvcFlow v)).n + (aflCfg (effW s) (asvcFlow v)).n ≤ (aflow s (asvcFlow v)).ready →
        ∃ t e, exec (.audioPacketRelease v) s = .next t ∧
          e = ((svc s v).next * (aflCfg (effW s) (asvcFlow v)).n + (aflCfg (effW s) (asvcFlow v)).n) * 62500 / 3 +
            1000 * (aflCfg (effW s) (asvcFlow v)).latency ∧
          t.out = .audio v ((svc s v).next * (aflCfg (effW s) (asvcFlow v)).n)
            (audioPayload s v ((svc s v).next * (aflCfg (effW s) (asvcFlow v)).n)) :: s.out ∧
          (svc t v).next = (svc s v).next + 1 ∧ Counted (pgAfl (asvcFlow v)) 1 1 s t ∧ t.time.now = max s.time.now e ∧
          (∀ f ws, joinedFlows s v = [(f, ws)] → (asvcCfg (effW s) v).dual = false →
            ∃ q, (port t (flowCfgL ws).portA).media = (port s (flowCfgL ws).portA).media ++ [q] ∧ q.flow = f ∧
              q.release = e ∧ q.seq = (svc s v).next % 65536) ∧
          t = { s with out := t.out, time := t.time, ctrs := t.ctrs, svcs := t.svcs, ports := t.ports, tack := t.tack }) ∧
      ((svc s v).active = false ∨ (asvcCfg (effW s) v).form1 = true ∨ (aflow s (asvcFlow v)).ready <
        (svc s v).next * (aflCfg (effW s) (asvcFlow v)).n + (aflCfg (effW s) (asvcFlow v)).n →
        exec (.audioPacketRelease v) s = .next s)) ∧
    (∀ f, f < 64 * dies s → (aflow s f).valid = true →
      ∃ t, exec (.sampleReady f) s = .next t ∧ (aflow t f).ready = (aflow s f).ready + 1 ∧
        t.time.now = max s.time.now (sampleAt (aflow s f).ready (aflCfg (effW s) f).latency) ∧
        ((aflCfg (effW s) f).mix = false → ∀ k, k < 64 → k < (aflCfg (effW s) f).chans →
          sampleOf (aflow t f) k (aflow s f).ready = sampleOf (aflow s f) k (aflow s f).ready) ∧
        ((aflCfg (effW s) f).mix = false → ((aflow s f).gap = false ∨ (aflow s f).ready % (aflCfg (effW s) f).n = 0) →
          ∀ k, k < (aflCfg (effW s) f).chans → (aflow s f).samples.get (fun _ => none) (k + 64 * (aflow s f).ready) = none →
          Counted (pgAfl f) 0 1 s t ∧ bitOf (page t (pgAfl f)).stat 0 = true) ∧
        ((aflCfg (effW s) f).mix = true → ∀ k, k < 64 → k < (aflCfg (effW s) f).chans →
          (aflow s f).zc.get (fun _ => none) k = none → k ∉ (aflow s f).muted →
          sampleOf (aflow t f) k (aflow s f).ready =
            routeSample s (f / 64) ((aflow s f).routes.get (fun _ => 0) k) (aflow s f).ready) ∧
        (∀ g, g ≠ f → aflow t g = aflow s g) ∧
        t = { s with time := t.time, pages := t.pages, ctrs := t.ctrs, aflows := t.aflows, ic := t.ic, dsps := t.dsps }) ∧
    (∀ f, f < 64 * dies s → (aflow s f).valid = false → exec (.sampleReady f) s = .next s) ∧
    (∀ f k z, f < 64 * dies s → (aflow s f).zc.get (fun _ => none) k = some z →
      (aflow s f).zc.get (fun _ => none) (64 + k) = none → z.se + aflZc (effW s) f ≤ (aflow s f).ready →
      ∃ t, exec (.zcTimeout false f k) s = .next t ∧ (aflow t f).routes.get (fun _ => 0) k = z.word ∧
        (k ∈ (aflow t f).muted ↔ z.kind = 0) ∧ (aflow t f).zc.get (fun _ => none) k = none ∧ Counted (pgAfl f) 3 1 s t ∧
        Struck (pgAfl f) 2 s t ∧
        t = { s with pages := t.pages, ctrs := t.ctrs, aflows := t.aflows, ic := { s.ic with inflight := t.ic.inflight } }) ∧
    (∀ p i z, p < 4 → (tdm s p).zc.get (fun _ => none) i = some z → (tdm s p).st ≠ .clockLost →
      z.se + audZc (effW s) p ≤ outIndex s p i ((tdm s p).src.get (fun _ => 0) i) s.time.now →
      ∃ t, exec (.zcTimeout true p i) s = .next t ∧ (tdm t p).src.get (fun _ => 0) i = z.word ∧
        (i ∈ (tdm t p).muted ↔ z.kind = 0) ∧ (tdm t p).zc.get (fun _ => none) i = none ∧ Counted (pgAud p) 9 1 s t ∧
        Struck (pgAud p) 12 s t ∧
        t = { s with pages := t.pages, ctrs := t.ctrs, tdms := t.tdms, ic := { s.ic with inflight := t.ic.inflight } }) ∧
    (∀ p i z n u, p < 4 → (tdm s p).st = .clockLost → n = outIndex s p i ((tdm s p).src.get (fun _ => 0) i) s.time.now →
      u = outRun p i n s → (tdm u p).zc.get (fun _ => none) i = some z → z.se + audZc (effW s) p ≤ n →
      ∃ t, exec (.zcTimeout true p i) s = .next t ∧ (tdm t p).src.get (fun _ => 0) i = z.word ∧
        (i ∈ (tdm t p).muted ↔ z.kind = 0) ∧ (tdm t p).zc.get (fun _ => none) i = none ∧ Counted (pgAud p) 9 1 s t ∧
        Struck (pgAud p) 12 u t ∧
        t = { s with pages := t.pages, ctrs := t.ctrs, tdms := t.tdms, ic := { s.ic with inflight := t.ic.inflight } }) ∧
    (∀ f k, f < 64 * dies s → (aflow s f).marks.get (fun _ => 0) k ≠ 0 →
      (aflow s f).marks.get (fun _ => 0) k - 1 + 8192 ≤ (aflow s f).ready → ∃ t, exec (.nonAudioClear false f k) s = .next t ∧
        (∀ g j, (aflow t g).marks.get (fun _ => 0) j =
          if g = f ∧ j = k then 0 else (aflow s g).marks.get (fun _ => 0) j) ∧
        t = { s with aflows := t.aflows, tdms := t.tdms }) ∧
    (∀ p i, p < 4 → (tdm s p).marks.get (fun _ => 0) i ≠ 0 →
      (tdm s p).marks.get (fun _ => 0) i - 1 + 8192 ≤ sampleFrom s.time.now → ∃ t, exec (.nonAudioClear true p i) s = .next t ∧
        (∀ g j, (tdm t g).marks.get (fun _ => 0) j = if g = p ∧ j = i then 0 else (tdm s g).marks.get (fun _ => 0) j) ∧
        t = { s with aflows := t.aflows, tdms := t.tdms }) ∧
    (∀ v f p c, isVideoSvc v = true → 64 * dies s ≤ f → 4 ≤ p → ∀ e ∈ [Instr.audioPacketRelease v, .sampleReady f,
      .zcTimeout false f c, .zcTimeout true p c, .nonAudioClear false f c, .nonAudioClear true p c],
      exec e s = .next s)

/-- TDM ports (R409–R415): every frame of an enabled port is counted at its FS edge; one of a wrong length is discarded, and
the sixteenth in a row is a fault; a leader's first good frame runs it; a FIFO that runs empty misaligns it; a restart
aligns it again; a follower's measured rate steers its ratio, and a rate more than 100 ppm away is marked; a stopped bit
clock loses it, until its return restarts it or has it lock again; a fault clears by itself with AUTO_RESTART alone.

What rests on the model's own choices and readings here is that of log entries 5, 115, 116, 221, 222, 223 and 224. -/
def Obligations.TdmPortsFollowTheirFrames : Prop :=
  ∀ (p : Nat) (s : State), inReset s = false → p < 4 →
    (∀ f, (tdm s p).st = .disabled → exec (.tdmFrame p f) s = .next s) ∧
    (∀ f, (tdm s p).st ≠ .disabled → ∃ t, exec (.tdmFrame p f) s = .next t ∧ (tdm t p).frames = (tdm s p).frames + 1 ∧
      Counted (pgAud p) 0 1 s t ∧
      (∀ w, w = (if (tdm s p).pend = true ∨ (tdm s p).cfg = [] then audNow (effW s) p else (tdm s p).cfg).getD 0 0 →
        t.time.now = max s.time.now (fsEdge w f).at_ ∧ (ctlLeader w = false → t.time.now = max s.time.now f.at_) ∧
        (ctlLeader w = true → ∃ j, t.time.now = max s.time.now (cdiv (j * 1000000000) (ctlHz w)))) ∧
      ((tdm s p).pend = false → (tdm s p).cfg ≠ [] → (tdm s p).restart = true →
        (tdm t p).restart = false ∧ Counted (pgAud p) 4 1 s t ∧ bitOf (page t (pgAud p)).stat 9 = true ∧
        (tdm t p).st = (if ctlLeader ((tdm s p).cfg.getD 0 0) || (tdm s p).known then .running else .locking)) ∧
      ((tdm s p).pend = false → (tdm s p).cfg ≠ [] → (tdm s p).restart = false →
        ((tdm s p).st = .running ∨ (tdm s p).st = .misaligned ∨ (tdm s p).st = .locking) →
        ctlLeader ((tdm s p).cfg.getD 0 0) = false → f.bclks ≠ ctlBits ((tdm s p).cfg.getD 0 0) →
        Counted (pgAud p) 1 1 s t ∧ bitOf (page t (pgAud p)).stat 5 = true ∧ (tdm t p).bad = (tdm s p).bad + 1 ∧
        (tdm t p).st = (if 16 ≤ (tdm s p).bad + 1 then .fault else (tdm s p).st) ∧ t.out = s.out) ∧
      ((tdm s p).pend = false → (tdm s p).cfg ≠ [] → (tdm s p).restart = false →
        ((tdm s p).st = .running ∨ (tdm s p).st = .locking) → ctlLeader ((tdm s p).cfg.getD 0 0) = true →
        f.rxEmpty = false → f.txEmpty = false → f.rxFull = false → f.txFull = false →
        (tdm t p).st = .running ∧ (tdm t p).inputs = frameSlots s p f ∧ (tdm t p).bad = 0 ∧
        ((tdm s p).st = .locking → bitOf (page t (pgAud p)).stat 0 = true)) ∧
      ((tdm s p).pend = false → (tdm s p).cfg ≠ [] → (tdm s p).restart = false →
        ((tdm s p).st = .running ∨ (tdm s p).st = .misaligned) → ctlLeader ((tdm s p).cfg.getD 0 0) = true →
        (f.rxEmpty = true ∨ f.txEmpty = true) →
        (audAuto (effW s) p = true → (tdm t p).inputs = (frameSlots s p f).map (fun _ => 0)) ∧
        (tdm t p).st = .misaligned ∧ (tdm t p).restart = audAuto (effW s) p ∧ Counted (pgAud p) 2 1 s t ∧
        bitOf (page t (pgAud p)).stat 3 = true) ∧
      ((tdm s p).pend = false → (tdm s p).cfg ≠ [] → (tdm s p).restart = false → (tdm s p).st = .running →
        ctlLeader ((tdm s p).cfg.getD 0 0) = false → (tdm s p).known = true → f.bclks = ctlBits ((tdm s p).cfg.getD 0 0) →
        (f.ppm.natAbs ≤ 30000 → (tdm t p).ratio = f.ppm ∧
          (100 < (f.ppm - (tdm s p).ratio).natAbs → bitOf (page t (pgAud p)).stat 8 = true)) ∧
        (30000 < f.ppm.natAbs → (tdm t p).st = .fault ∧ Counted (pgAud p) 7 1 s t ∧ bitOf (page t (pgAud p)).stat 7 = true)) ∧
      t = { s with out := t.out, fresh := t.fresh, time := t.time, pages := t.pages, ctrs := t.ctrs, aflows := t.aflows
                   tdms := t.tdms, ic := t.ic }) ∧
    ((tdm s p).st ≠ .disabled → (tdm s p).st ≠ .clockLost → ctlLeader (audW (effW s) p 0x100) = false →
      ∃ t, exec (.tdmClockStop p) s = .next t ∧ (tdm t p).st = .clockLost ∧ (tdm t p).ratio = (tdm s p).ratio ∧
        Counted (pgAud p) 6 1 s t ∧ bitOf (page t (pgAud p)).stat 6 = true ∧ (∀ q, q ≠ p → tdm t q = tdm s q) ∧
        t = { s with pages := t.pages, ctrs := t.ctrs, tdms := t.tdms, ic := { s.ic with inflight := t.ic.inflight } }) ∧
    ((tdm s p).st = .disabled ∨ (tdm s p).st = .clockLost ∨ ctlLeader (audW (effW s) p 0x100) = true →
      exec (.tdmClockStop p) s = .next s) ∧
    (∀ ppm, (tdm s p).st = .clockLost → ∃ t, exec (.tdmClockReturn p ppm) s = .next t ∧
      (∀ q, tdm t q = if q = p then (if (tdm s p).known = true ∧ (ppm - (tdm s p).ratio).natAbs ≤ 1000
        then { tdm s p with restart := true } else { tdm s p with st := .locking, good := 0, bad := 0, known := false })
        else tdm s q) ∧ t = { s with tdms := t.tdms }) ∧
    (∀ ppm, (tdm s p).st ≠ .clockLost → exec (.tdmClockReturn p ppm) s = .next s) ∧
    (((tdm s p).st = .fault ∧ audAuto (effW s) p = true) → ∃ t, exec (.tdmFaultClear p) s = .next t ∧
      (∀ q, tdm t q = if q = p then { tdm s p with restart := true } else tdm s q) ∧ t = { s with tdms := t.tdms }) ∧
    (((tdm s p).st ≠ .fault ∨ audAuto (effW s) p = false) → exec (.tdmFaultClear p) s = .next s) ∧
    (∀ q f ppm, 4 ≤ q → ∀ e ∈ [Instr.tdmFrame q f, .tdmClockStop q, .tdmClockReturn q ppm, .tdmFaultClear q],
      exec e s = .next s)

/-! ## Firmware and keys (R482–R499) -/

/-- A boot (R484, R485, R491, R496, R497): a staged image that verifies is promoted on trial, one that does not is marked
empty; an unconfirmed image whose trials are spent, or an image that fails where its predecessor verifies, falls back; with
neither the part is in recovery, its FW page in FAULT.

What rests on the model's own choices and readings here is that of log entries 130, 133, 141 and 239. -/
def Obligations.FirmwareBoots : Prop :=
  ∀ s : State, BootMayRun s →
    (s.fw.flash.full = false → s.fw.flash.confirmed = true →
      verifyImage s.fw.rollback false (region s.fw.flash s.fw.flash.active) = 0 →
      ∃ t, exec (.firmwareBoot false false false) s = .next t ∧ Booted s.fw.flash.active s t ∧ t.fw.stagedRes = 0 ∧
        t.fw.activeRes = 0 ∧ t.fw.fellBack = false ∧
        t.fw.rollback = max s.fw.rollback (imgWord (region s.fw.flash s.fw.flash.active) 12) ∧
        t.fw.flash = { s.fw.flash with settings := t.fw.flash.settings }) ∧
    (∀ r, s.fw.flash.full = true → s.fw.flash.staged = some r → 0 < s.fw.flash.tries →
      verifyImage s.fw.rollback false (region s.fw.flash r) = 0 →
      ∃ t, exec (.firmwareBoot false false false) s = .next t ∧ Booted r s t ∧ t.fw.stagedRes = 1 ∧ t.fw.activeRes = 0 ∧
        t.fw.rollback = s.fw.rollback ∧ Counted 5 2 1 s t ∧
        t.fw.flash = { s.fw.flash with
          active := r, previous := some s.fw.flash.active, staged := s.fw.flash.previous, confirmed := false
          allowance := s.fw.flash.tries - 1, full := false, settings := t.fw.flash.settings }) ∧
    (∀ r, s.fw.flash.full = true → s.fw.flash.staged = some r → s.fw.flash.confirmed = true →
      verifyImage s.fw.rollback false (region s.fw.flash r) ≠ 0 →
      verifyImage s.fw.rollback false (region s.fw.flash s.fw.flash.active) = 0 →
      ∃ t, exec (.firmwareBoot false false false) s = .next t ∧ Booted s.fw.flash.active s t ∧
        t.fw.stagedRes = verifyImage s.fw.rollback false (region s.fw.flash r) ∧ t.fw.activeRes = 0 ∧ Counted 5 4 1 s t ∧
        bitOf (page t 5).stat 5 = true ∧ t.fw.flash.full = false) ∧
    (∀ p, s.fw.flash.full = false → s.fw.flash.confirmed = false → s.fw.flash.allowance = 0 → s.fw.flash.previous = some p →
      verifyImage s.fw.rollback false (region (fallBack s.fw.flash) p) = 0 →
      ∃ t, exec (.firmwareBoot false false false) s = .next t ∧ Booted p s t ∧ t.fw.activeRes = 1 ∧ t.fw.fellBack = true ∧
        t.fw.flash.confirmed = true ∧ t.fw.flash.staged = some s.fw.flash.active ∧ t.fw.flash.full = false ∧
        Counted 5 3 1 s t ∧ bitOf (page t 5).stat 4 = true) ∧
    (∀ p, s.fw.flash.full = false → s.fw.flash.confirmed = true → s.fw.flash.previous = some p →
      verifyImage s.fw.rollback false (region s.fw.flash s.fw.flash.active) ≠ 0 →
      verifyImage s.fw.rollback false (region s.fw.flash p) = 0 →
      ∃ t, exec (.firmwareBoot false false false) s = .next t ∧ Booted p s t ∧ t.fw.activeRes = 2 ∧
        t.fw.activeFail = verifyImage s.fw.rollback false (region s.fw.flash s.fw.flash.active) ∧ Counted 5 3 1 s t) ∧
    (s.fw.flash.full = false → s.fw.flash.confirmed = true → s.fw.flash.previous = none →
      verifyImage s.fw.rollback false (region s.fw.flash s.fw.flash.active) ≠ 0 →
      ∃ t, exec (.firmwareBoot false false false) s = .next t ∧ t.fw.recovery = true ∧ t.fw.activeRes = 3 ∧
        t.fw.flash = s.fw.flash ∧ (page t 5).fault = true ∧ t.pwr = s.pwr ∧ t.tack.slots = s.tack.saved ∧
        t = { s with fresh := t.fresh, pages := t.pages, ic := { s.ic with inflight := t.ic.inflight }, fw := t.fw
                     tack := t.tack })

/-- Flash commands (R486, R487, R489–R491): each starts with its key and a range that it may use, and is refused with its
cause otherwise; one written while another runs is dropped; a command that ends leaves what it wrote, or fails, and where a
word of its source is uncorrectable the die has a fault; the recovery ROM serves WRITE_STAGED alone; a confirmation confirms
the running image once, and waits for a command under way.

What rests on the model's own choices and readings here is that of log entries 127, 128 and 131. -/
def Obligations.FlashCommandsRunAndEnd : Prop :=
  ∀ s : State, inReset s = false →
    (∀ v, fld v 31 16 = 0x5F3A → ready s 5 = true → s.fw.op = 0 →
      (fld v 3 0 = 1 → 0 < s.fw.len → s.fw.len ≤ 8388608 → fwSourceBad s = false →
        exec (.fwWriteStaged v) s = .next { s with fw := { s.fw with
          flash := eraseStaged s.fw.flash, op := 1, opTries := max 1 (fld v 15 12), state := 1, cause := 0, whr := 0 } }) ∧
      (fld v 3 0 = 2 → 0 < s.fw.len → s.fw.len ≤ 3145728 → fwSourceBad s = false → settingsKept s = false →
        exec (.fwWriteSettings v) s = .next { s with fw := { s.fw with
          op := 2, opTries := max 1 (fld v 15 12), state := 1, cause := 0, whr := 0 } }) ∧
      (fld v 3 0 = 3 → exec (.fwEraseStaged v) s = .next { s with fw := { s.fw with
          flash := eraseStaged s.fw.flash, op := 3, opTries := max 1 (fld v 15 12), state := 1, cause := 0, whr := 0 } }) ∧
      (fld v 3 0 = 4 → settingsKept s = false → exec (.fwEraseSettings v) s = .next { s with fw := { s.fw with
          op := 4, opTries := max 1 (fld v 15 12), state := 1, cause := 0, whr := 0 } }) ∧
      (fld v 3 0 = 1 → (s.fw.len = 0 ∨ 8388608 < s.fw.len) → ∃ t, exec (.fwWriteStaged v) s = .next t ∧ FwReport 1 s t ∧
        t.fw = { s.fw with state := 3, cause := 1, whr := 0 }) ∧
      (fld v 3 0 = 2 → (s.fw.len = 0 ∨ 3145728 < s.fw.len) → ∃ t, exec (.fwWriteSettings v) s = .next t ∧ FwReport 1 s t ∧
        t.fw = { s.fw with state := 3, cause := 1, whr := 0 }) ∧
      (fld v 3 0 = 1 → 0 < s.fw.len → s.fw.len ≤ 8388608 → fwSourceBad s = true → ∃ t, exec (.fwWriteStaged v) s = .next t ∧
        FwReport 1 s t ∧ t.fw = { s.fw with state := 3, cause := 2, whr := 0 }) ∧
      (fld v 3 0 = 4 → settingsKept s = true → ∃ t, exec (.fwEraseSettings v) s = .next t ∧ FwReport 1 s t ∧
        t.fw = { s.fw with state := 3, cause := 4, whr := 0 })) ∧
    (∀ v, fld v 31 16 = 0x5F3A → fld v 3 0 = 1 → s.fw.recovery = true → s.fw.op = 0 → 0 < s.fw.len → s.fw.len ≤ 8388608 →
      fwSourceBad s = false → exec (.fwWriteStaged v) s = .next { s with fw := { s.fw with
        flash := eraseStaged s.fw.flash, op := 1, opTries := max 1 (fld v 15 12), state := 1, cause := 0, whr := 0 } }) ∧
    (∀ v, fld v 31 16 = 0x5F3A → ready s 5 = true → s.fw.op ≠ 0 → ∀ e, (e, fld v 3 0) ∈ [(Instr.fwWriteStaged v, 1),
      (.fwWriteSettings v, 2), (.fwEraseStaged v, 3), (.fwEraseSettings v, 4)] →
      ∃ t, exec e s = .next t ∧ FwReport 2 s t ∧ t.fw = s.fw) ∧
    (∀ v, fld v 31 16 ≠ 0x5F3A → ∀ e ∈ [Instr.fwWriteStaged v, .fwWriteSettings v, .fwEraseStaged v, .fwEraseSettings v],
      exec e s = .next s) ∧
    (ready s 5 = true → s.fw.op = 0 → s.fw.flash.confirmed = false → ∃ t, exec (.fwConfirm 0xC0F10000) s = .next t ∧
      t.fw = { s.fw with
        flash := { s.fw.flash with confirmed := true, allowance := 0 }
        rollback := max s.fw.rollback (imgWord (region s.fw.flash s.fw.flash.active) 12) } ∧
      t = { s with ctrs := t.ctrs, fw := t.fw }) ∧
    (ready s 5 = true → s.fw.op = 0 → s.fw.flash.confirmed = true → ∃ t, exec (.fwConfirm 0xC0F10000) s = .next t ∧
      FwReport 3 s t ∧ t.fw = s.fw) ∧
    (ready s 5 = true → s.fw.op ≠ 0 → exec (.fwConfirm 0xC0F10000) s = .next { s with
      fw := { s.fw with confirmWait := true } }) ∧
    (∀ v, (v ≠ 0xC0F10000 ∨ ready s 5 = false) → exec (.fwConfirm v) s = .next s) ∧
    (∀ err, s.fw.op = 0 → exec (.fwCommandEnd err) s = .next s) ∧
    (∀ r ∈ fwReads s, badWords s r.die r.addr r.len ≠ [] → ∃ t, exec (.fwCommandEnd false) s = .next t ∧
      (page t (pgMc r.die)).fault = true ∧ t.fw.op = 0 ∧ t.dram = s.dram) ∧
    (s.fw.confirmWait = false → (∀ r ∈ fwReads s, badWords s r.die r.addr r.len = []) →
      (∀ r, s.fw.op = 1 → s.fw.flash.staged = some r → ∃ t, exec (.fwCommandEnd false) s = .next t ∧ Struck 5 0 s t ∧
        t.fw.op = 0 ∧ t.fw.state = 2 ∧ t.fw.flash.full = true ∧ t.fw.flash.tries = s.fw.opTries ∧
        region t.fw.flash r = (List.range s.fw.len).map (fun i => dramGet s (fld s.fw.src 31 29) (4096 * fld s.fw.src 21 0 + i)) ∧
        (∀ q, q ≠ r → region t.fw.flash q = region s.fw.flash q) ∧
        t = { s with pages := t.pages, ctrs := t.ctrs, fw := t.fw, ic := { s.ic with inflight := t.ic.inflight } }) ∧
      (∀ a, s.fw.op = 2 → badBlob s s.fw.len (dramWordsAt s (fld s.fw.src 31 29) (4096 * fld s.fw.src 21 0) (s.fw.len / 4)) = some a →
        ∃ t, exec (.fwCommandEnd false) s = .next t ∧ Struck 5 1 s t ∧
          t.fw = { s.fw with op := 0, state := 3, cause := 3, whr := a } ∧
          t = { s with pages := t.pages, ctrs := t.ctrs, fw := t.fw, ic := { s.ic with inflight := t.ic.inflight } }) ∧
      (s.fw.op = 2 → badBlob s s.fw.len (dramWordsAt s (fld s.fw.src 31 29) (4096 * fld s.fw.src 21 0) (s.fw.len / 4)) = none →
        ∃ t, exec (.fwCommandEnd false) s = .next t ∧ Struck 5 0 s t ∧ t.fw.op = 0 ∧ t.fw.state = 2 ∧ t.fw.present = true ∧
          t.fw.area = (if s.fw.present then 1 - s.fw.area else 0) ∧
          area t.fw.flash t.fw.area = (dramWordsAt s (fld s.fw.src 31 29) (4096 * fld s.fw.src 21 0) (s.fw.len / 4)).set 2
            (BitVec.ofNat 32 (topSeq s.fw.flash + 1)) ∧
          t.fw.flash.images = s.fw.flash.images) ∧
      (s.fw.op = 3 → ∃ t, exec (.fwCommandEnd false) s = .next t ∧ Struck 5 0 s t ∧
        t.fw = { s.fw with op := 0, state := 2, cause := 0, whr := 0 }) ∧
      (s.fw.op = 4 → ∃ t, exec (.fwCommandEnd false) s = .next t ∧ Struck 5 0 s t ∧ t.fw.op = 0 ∧ t.fw.state = 2 ∧
        t.fw.present = false ∧ t.fw.flash = { s.fw.flash with settings := [] }) ∧
      (s.fw.op ∈ [1, 3, 4] → ∃ t, exec (.fwCommandEnd true) s = .next t ∧ Struck 5 1 s t ∧ t.fw.op = 0 ∧ t.fw.state = 3 ∧
        t.fw.cause = 5)) ∧
    (s.fw.op = 3 → s.fw.confirmWait = true → s.fw.flash.confirmed = false → ∃ t, exec (.fwCommandEnd false) s = .next t ∧
      t.fw.op = 0 ∧ t.fw.state = 2 ∧ t.fw.confirmWait = false ∧ t.fw.flash.confirmed = true ∧ t.fw.flash.allowance = 0)

/-- Key commands (R493–R498): WRITE, ERASE and ATTEST start where the life cycle, the live configuration and the identity
key allow them, and are refused at once with their cause otherwise, the slots as they were; at their end WRITE and ERASE
change one slot and its copy in flash, ATTEST leaves a signed report, and the key registers are zero.

What rests on the model's own choices and readings here is that of log entries 132, 133 and 239. -/
def Obligations.KeyCommandsRunAndEnd : Prop :=
  ∀ s : State, inReset s = false →
    (∀ v e, ready s 6 = true → s.tack.busy = 0 → (e, fld v 31 28) ∈ [(Instr.tackWrite v, 1), (.tackErase v, 2), (.tackAttest v, 3)] →
      ((fld v 31 28 = 1 → lcState s.pwr.fuses ≠ 0 ∧ lcState s.pwr.fuses ≠ 3) →
        (fld v 31 28 ≤ 2 → slotInUse s (fld v 11 0) = false) → (fld v 31 28 = 3 → s.tack.idPub ≠ none) →
        exec e s = .next { s with tack := { s.tack with
          busy := fld v 31 28, busySlot := fld v 11 0, busyLen := bitOf v 24, state := 1, cause := 0, slot := fld v 11 0 } }) ∧
      (∀ c, (c = 1 ∧ fld v 31 28 = 1 ∧ (lcState s.pwr.fuses = 0 ∨ lcState s.pwr.fuses = 3) ∨
          c = 2 ∧ fld v 31 28 ≤ 2 ∧ slotInUse s (fld v 11 0) = true ∧
            (fld v 31 28 = 1 → lcState s.pwr.fuses ≠ 0 ∧ lcState s.pwr.fuses ≠ 3) ∨
          c = 3 ∧ fld v 31 28 = 3 ∧ s.tack.idPub = none) →
        ∃ t, exec e s = .next t ∧ Struck 6 1 s t ∧ Counted 6 3 1 s t ∧
          t.tack = { s.tack with keyBuf := 0, saltBuf := 0, state := 3, cause := c, slot := fld v 11 0 } ∧
          t = { s with pages := t.pages, ctrs := t.ctrs, tack := t.tack, ic := { s.ic with inflight := t.ic.inflight } })) ∧
    (∀ v e, ready s 6 = true → s.tack.busy ≠ 0 → (e, fld v 31 28) ∈ [(Instr.tackWrite v, 1), (.tackErase v, 2), (.tackAttest v, 3)] →
      ∃ t, exec e s = .next t ∧ Struck 6 2 s t ∧
        t = { s with pages := t.pages, ic := { s.ic with inflight := t.ic.inflight } }) ∧
    (s.tack.busy = 0 → exec .tackCommandEnd s = .next s) ∧
    (s.tack.busy = 1 ∨ s.tack.busy = 2 → ∃ t, exec .tackCommandEnd s = .next t ∧ Struck 6 0 s t ∧
      Counted 6 (s.tack.busy - 1) 1 s t ∧ t.tack.state = 2 ∧ t.tack.busy = 0 ∧ t.tack.keyBuf = 0 ∧ t.tack.saltBuf = 0 ∧
      (∀ n, n ≠ s.tack.busySlot → keySlot t n = keySlot s n) ∧
      t.tack.saved.get (fun _ => {}) s.tack.busySlot = keySlot t s.tack.busySlot ∧
      (s.tack.busy = 1 → (keySlot t s.tack.busySlot).full = true ∧ (keySlot t s.tack.busySlot).salt = s.tack.saltBuf ∧
        (keySlot t s.tack.busySlot).used = false ∧ (keySlot t s.tack.busySlot).counter = 0 ∧
        (keySlot t s.tack.busySlot).key.toNat =
          if s.tack.busyLen then s.tack.keyBuf.toNat else s.tack.keyBuf.toNat % 2 ^ 128) ∧
      (s.tack.busy = 2 → keySlot t s.tack.busySlot = {}) ∧
      t = { s with pages := t.pages, ctrs := t.ctrs, tack := t.tack, ic := { s.ic with inflight := t.ic.inflight } }) ∧
    (∀ pub, s.tack.busy = 3 → s.tack.idPub = some pub → ∃ t, exec .tackCommandEnd s = .next t ∧ Struck 6 0 s t ∧
      Counted 6 2 1 s t ∧ t.tack = { s.tack with
        busy := 0, state := 2, cause := 0, keyBuf := 0, saltBuf := 0, report := tackReport s
        sig := Config.ecdsaSign pub (tackReport s) } ∧
      t = { s with pages := t.pages, ctrs := t.ctrs, tack := t.tack, ic := { s.ic with inflight := t.ic.inflight } })

/-! ## The host and the services (R460–R481) -/

/-- The host's function and the boot load (R426, R432, R460, R477–R481): what the function presents; the link comes up once,
at the speed and width that both ends support, with its event; a configuration write takes with the link alone, and sends
the vectors that waited for it, each with the address and data of its table entry; the load takes the stored sets one by one
under the hold, writing each one's entry and committing it; an abort stops it at once between sets; HOLD falls as it is
released.

What rests on the model's own choices and readings here is that of log entries 17, 18, 42, 43, 126, 191, 192 and 227. -/
def Obligations.HostFunctionAndBootLoad : Prop :=
  ∀ s : State, inReset s = false →
    (∀ v, (pciFunction v).vendor = 0x1E5C ∧ (pciFunction v).classCode = 0x048000 ∧ (pciFunction v).maxPayload = 512 ∧
      (pciFunction v).maxReadReq = 4096 ∧ PciCap.msix 512 ∈ (pciFunction v).caps) ∧
    (∀ sp w fl, s.host.up = false → 0 < sp → 0 < w → ∃ t, exec (.pcieLinkUp sp w fl) s = .next t ∧ Struck 1 0 s t ∧
      t.host = { s.host with up := true, speed := t.host.speed, width := t.host.width, flit := t.host.flit } ∧
      t.host.speed = min 6 sp ∧ t.host.width ∈ [1, 2, 4, 8] ∧ t.host.width ≤ w ∧ (8 ≤ w ∨ w < 2 * t.host.width) ∧
      (t.host.flit = true ↔ fl = true ∨ 6 ≤ sp) ∧
      (∀ n, src t n = { src s n with redir := (src t n).redir }) ∧
      t = { s with out := t.out, pwr := t.pwr, pages := t.pages, ctrs := t.ctrs, ic := t.ic, host := t.host }) ∧
    (∀ sp w fl, (s.host.up = true ∨ sp = 0 ∨ w = 0) → exec (.pcieLinkUp sp w fl) s = .next s) ∧
    (∀ en fm bm d3, s.host.up = true → ∃ t, exec (.pcieConfigWrite en fm bm d3) s = .next t ∧
      t.host = { s.host with msixEn := en, funcMask := fm, busMaster := bm, d3hot := d3 } ∧
      (∀ n, src t n = { src s n with redir := (src t n).redir }) ∧
      (∀ v, vectorPends s v = true → en = true → fm = false → bm = true →
        bitOf (s.host.msixTab.get msixReset (4 * v + 3)) 0 = false →
        .msix v ((s.host.msixTab.get msixReset (4 * v + 1)).toNat * 2 ^ 32 + (s.host.msixTab.get msixReset (4 * v)).toNat)
          (s.host.msixTab.get msixReset (4 * v + 2)) ∈ t.out ∧ vectorPends t v = false) ∧
      (∀ k, k ≠ 2 → page t k = page s k) ∧
      t = { s with out := t.out, pwr := t.pwr, pages := t.pages, ctrs := t.ctrs, ic := t.ic, host := t.host }) ∧
    (∀ en fm bm d3, s.host.up = false → exec (.pcieConfigWrite en fm bm d3) s = .next s) ∧
    (∀ x rest, ready s 5 = true → s.fw.present = true → s.host.boot = 0 →
      recordsOf (area s.fw.flash s.fw.area) (blobW (area s.fw.flash s.fw.area) 4).toNat 8 = x :: rest →
      exec .bootLoadStart s = .next { s with host := { s.host with
        hold := true, held := true, boot := 1, bootSet := x.1, bootList := x :: rest } }) ∧
    ((ready s 5 = false ∨ s.fw.present = false ∨ s.host.boot ≠ 0) → exec .bootLoadStart s = .next s) ∧
    (∀ q ew sw crc rest, s.host.boot = 1 → s.host.bootList = (q, ew, sw, crc) :: rest → q < 1024 → setBusy s q = false →
      s.pwr.armed = false → ((membersOf false ew).all (ready s) = true ∨ s.pwr.originAt + 1000000000 ≤ s.time.now) →
      ∃ t, exec .bootWaitEnd s = .next t ∧ t.host = { s.host with boot := 2, bootSet := q } ∧
        (∀ a, t.ctab.get (fun _ => 0) a = if 16 * q ≤ a ∧ a < 16 * q + 14 then ew.getD (a - 16 * q) 0 &&& 0xFFFFFFFE
          else s.ctab.get (fun _ => 0) a) ∧
        (∀ k, reportingPage t q = some k → pageExists s k = true → aliasSet t k = some q →
          t.queue = s.queue ++ [q] ∧ (cset t q).st = .queued ∧ (cset t q).crc = crc ∧
          (cset t q).gen = ((cset s q).live + 1) % 65536 ∧ (∀ r, r ≠ q → cset t r = cset s r)) ∧
        t.live = s.live ∧ t.eff = s.eff) ∧
    (∀ q ew sw crc rest, s.host.bootList = (q, ew, sw, crc) :: rest → (membersOf false ew).all (ready s) = false →
      s.time.now < s.pwr.originAt + 1000000000 → exec .bootWaitEnd s = .next s) ∧
    ((s.host.boot ≠ 1 ∨ s.host.bootList = []) → exec .bootWaitEnd s = .next s) ∧
    (∀ v, bitOf v 31 = true → exec (.hostBootHoldRelease v) s = .next { s with host := { s.host with hold := false } }) ∧
    (∀ v, bitOf v 31 = false → exec (.hostBootHoldRelease v) s = .next s) ∧
    (∀ v, bitOf v 30 = true → s.host.boot = 1 → exec (.hostBootAbort v) s =
      .next { s with host := { s.host with abort := true, boot := 5, bootList := [] } }) ∧
    (∀ v, bitOf v 30 = true → s.host.boot = 2 → exec (.hostBootAbort v) s =
      .next { s with host := { s.host with abort := true } }) ∧
    (∀ v, (bitOf v 30 = false ∨ (s.host.boot ≠ 1 ∧ s.host.boot ≠ 2)) → exec (.hostBootAbort v) s = .next s)

/-- The services of the control cores (R471–R475): a part that registers sends its heartbeat, or its registration, and one
that fails is counted; a PATCH is refused where it may not act, waits for its time, or is staged and committed with its
checksum; a scheduled one acts in the order of its time; a Delay_Req leaves a port that takes part in PTP and sends.

What rests on the model's own choices and readings here is that of log entries 5, 96, 97, 125, 190, 240 and 242. -/
def Obligations.ServicesOfTheCores : Prop :=
  ∀ s : State, inReset s = false →
    (∀ ok, nmosEn (effW s) = true → announces s = true → ∃ t, exec (.nmosHeartbeat ok) s = .next t ∧
      t.out = (if portSends s (mgmtLane (effW s)) then
        [if s.services.regOk then .nmosHeartbeat else .nmosRegister (resourceIds s)] else []) ++ s.out ∧
      t.services = { s.services with regOk := ok } ∧
      (ok = false → Struck 1 4 s t ∧ Counted 1 4 1 s t) ∧ (ok = true → t.pages = s.pages) ∧
      (∀ l, l ≠ mgmtLane (effW s) → port t l = port s l) ∧
      t = { s with out := t.out, fresh := t.fresh, pages := t.pages, ctrs := t.ctrs, ports := t.ports
                   ic := { s.ic with inflight := t.ic.inflight }, services := t.services }) ∧
    (∀ ok, (nmosEn (effW s) = false ∨ announces s = false) → exec (.nmosHeartbeat ok) s =
      .next { s with services := { s.services with regOk := false } }) ∧
    (∀ r e ws ro x, is05En (effW s) = false → exec (.is05Patch r e ws ro x) s = .next s) ∧
    (∀ r e ws ro x, is05En (effW s) = true → (s.yoke.role = roleActive ∨ s.yoke.role = roleStandby) →
      exec (.is05Patch r e ws ro x) s = .next { s with out := .is05Answer 423 0 0 0 :: s.out }) ∧
    (is05En (effW s) = true → s.yoke.role ≠ roleActive → s.yoke.role ≠ roleStandby → ∀ r e ws,
      (∀ x, exec (.is05Patch r e ws true x) s = .next { s with out := .is05Answer 400 0 0 0 :: s.out }) ∧
      (∀ x, exec (.is05Patch r e ws false (some x)) s = .next { s with services := { s.services with
        is05Wait := s.services.is05Wait ++ [(x, r, e, ws)] } }) ∧
      (is05Set s r e = none → ∃ t, exec (.is05Patch r e ws false none) s = .next t ∧
        t.out = .is05Answer 500 0 (((is05Named s r e).map (fun q => setCode (cset s q).st)).getD 0) 0 :: s.out ∧ Counted 1 6 1 s t ∧ t = { s with out := t.out, ctrs := t.ctrs }) ∧
      (∀ q k, is05Set s r e = some q → reportingPage s q = some k → pageExists s k = true → aliasSet s k = some q →
        s.pwr.armed = false → ∃ t, exec (.is05Patch r e ws false none) s = .next t ∧ t.queue = s.queue ++ [q] ∧
          (cset t q).st = .queued ∧ (cset t q).gen = ((cset s q).live + 1) % 65536 ∧
          (cset t q).crc = crc32c (stagedWords t (entryOf s q)) ∧ q ∈ t.services.is05Sets ∧
          t = { s with pages := t.pages, ctrs := t.ctrs, staged := t.staged, sets := t.sets, queue := t.queue
                       ic := { s.ic with inflight := t.ic.inflight }, services := t.services })) ∧
    (firstDue s.services.is05Wait = none → exec .is05Activation s = .next s) ∧
    (∀ x r e ws, firstDue s.services.is05Wait = some (x, r, e, ws) →
      (∀ y ∈ s.services.is05Wait, x ≤ y.1) ∧
      (is05Set s r e = none → ∃ t, exec .is05Activation s = .next t ∧ t.out = .is05Answer 500 0 (((is05Named s r e).map (fun q => setCode (cset s q).st)).getD 0) 0 :: s.out ∧
        Counted 1 6 1 s t ∧ t.services = { s.services with is05Wait := s.services.is05Wait.erase (x, r, e, ws) } ∧
        t.time.now = max s.time.now (x - 3000000) ∧
        t = { s with out := t.out, ctrs := t.ctrs, time := t.time, services := t.services }) ∧
      (∀ q k, is05Set s r e = some q → reportingPage s q = some k → pageExists s k = true → aliasSet s k = some q →
        s.pwr.armed = false → ∃ t, exec .is05Activation s = .next t ∧ t.queue = s.queue ++ [q] ∧ (cset t q).st = .queued ∧
          t.services.is05Wait = s.services.is05Wait.erase (x, r, e, ws) ∧ q ∈ t.services.is05Sets)) ∧
    (∀ l, l < 4 * dies s → ptpEn (effW s) = true → bitOf (effW s 0x144) l = true → portSends s l = true →
      ∃ t n, exec (.delayReqSend l) s = .next t ∧ n = ((ptpPort s l).reqSeq + 1) % 65536 ∧
        t.out = .delayReq l (bitOf (effW s 0x148) 31) n :: s.out ∧
        (∃ q, (port t l).ptpQ = (port s l).ptpQ ++ [q] ∧ q.len = 90 ∧ q.release = s.time.now ∧ q.seq = n ∧
          q.ip = some (delayReqFrame (effW s) l (ptpPort s l).master n)) ∧
        (∀ k, ptpPort t k = if k = l then { ptpPort s l with reqSeq := n, t3 := none, t4 := none } else ptpPort s k) ∧
        (∀ k, k ≠ l → port t k = port s k) ∧ t = { s with out := t.out, time := t.time, ports := t.ports }) ∧
    (∀ l, l < 4 * dies s → (ptpEn (effW s) = false ∨ bitOf (effW s 0x144) l = false ∨ portSends s l = false) →
      exec (.delayReqSend l) s = .next s) ∧
    (∀ l, 4 * dies s ≤ l → exec (.delayReqSend l) s = .next s)

/-! ## The whole part -/

/-- A part in reset stays as it is, whatever happens to it but a change of its supply, of `PERST#` or of its reset
(R73–R80).

What rests on the model's own choices and readings here is that of log entry 7. -/
def Obligations.ResetHoldsThePart : Prop :=
  ∀ (c : Instr) (s t : State), inReset s = true →
    c ≠ .supplyRise → c ≠ .supplyFall → c ≠ .perstAssert → c ≠ .perstRelease → c ≠ .resetRelease →
    exec c s = .next t → t = s

/-- No command stops the part: every one ends in a next state, from every state and with every operand. The spec gives each
row of its table an effect, and to one that it forbids or that names what the variant lacks, none (R4, R38).

What rests on the model's own choices and readings here is that of log entries 5 and 6. -/
def Obligations.EveryCommandCompletes : Prop := ∀ (i : Instr) (s : State), ∃ t, exec i s = .next t

/-- Reset leaves the memory with nothing listed and the tables canonical: every word at its reset value.

What rests on the model's own choices and readings here is that of log entries 2, 3, 4, 10 and 11. -/
def Obligations.ResetIsCanonical : Prop :=
  Canonical State.reset ∧ State.reset.dram = [] ∧ State.reset.pending = [] ∧ inReset State.reset = false ∧
    State.reset.pwr.cause = 1 ∧ (∀ x, x ∈ State.reset.pwr.domUp ↔ x < 128 ∧ x % 16 = 15) ∧
    (∀ a, effW State.reset a = resetWord a ∧ liveW State.reset a = resetWord a ∧ stagedW State.reset a = resetWord a) ∧
    (∀ k n, counter State.reset k n = 0) ∧ (∀ n, src State.reset n = {}) ∧ (∀ l, (lane State.reset l).st = 0)

/-- Every step keeps the canonical form of the memory and of the words staged, live and in effect.

What rests on the model's own choices and readings here is that of log entry 10. -/
def Obligations.StepKeepsCanonical : Prop := ∀ s t : State, Canonical s → step s = .next t → Canonical t

/-- No step changes the variant, unblows a fuse, or does anything to the waiting commands but take the first (R1, R92).

What rests on the model's own choices and readings here is that of log entry 2. -/
def Obligations.StepKeepsVariantAndFuses : Prop :=
  ∀ s t : State, step s = .next t →
    t.variant = s.variant ∧ s.pwr.fuses ≤ t.pwr.fuses ∧ t.pwr.fuses ≤ s.pwr.fuses + 1 ∧ t.pending = s.pending.tail

/-- Which commands can write DRAM or change the words in effect (R71, R183, R295, R363, R382): every other leaves the bytes
of DRAM, the commit table and the words in effect as they were, and the fuses with them. -/
def Obligations.OnlySomeCommandsWriteMemory : Prop :=
  ∀ (c : Instr) (s t : State), exec c s = .next t → steady t = steady s ∨
    (match c with
      | .accessUnitCutoff _ _ _ | .apertureWrite _ _ _ | .bootWaitEnd | .bulkCopyDone _ | .canvasPoint _ _ _
      | .codedPoint _ _ | .coldResetRequest _ | .commitTableWrite _ _ _ | .copyBulk _ _ _ _ _ | .copyMirror _ _ _ _ _
      | .copyRow _ _ _ _ _ | .ctuCoded _ _ | .deadlinePoint _ _ _ | .decideCatchup _ _ _ | .decideFail _ _ _
      | .decidePass _ _ _ _ | .decodedSlicePoint _ _ _ _ | .dieFault _ _ | .doorbellFrame _ _ | .dramTrainingDone _ _
      | .engineFault _ _ _ | .fenceRead _ | .fwCommandEnd _ | .itemEnd _ _ _ | .lcGo _ | .mirrorCopy _
      | .packageFurrowBoundary | .perstAssert | .pictureBoundary _ | .registerWrite _ _ _ _ | .resyncAbort _ _
      | .resyncCheckpointTaken _ _ _ _ | .resyncCopyDone _ _ _ _ | .resyncRequest _ _ | .stateFrame _ _ | .supplyFall
      | .supplyRise | .verdictFrame _ _ _ _ _ | .voteFrame _ _ _ _ _ _ _ | .warmResetRequest _ | .yieldFrame _ _ _ _ => True
      | _ => False)
end

