-- ==== Sys2Proof/Laws/Tbl.lean ====
section
/-! SUPPORT. The sparse tables: a read after a write, and the canonical form kept by every operation. -/

namespace Sys2Proof.Laws

open Sys2Proof Sys2Proof.Machine

variable {α : Type} [DecidableEq α]

omit [DecidableEq α] in
/-- Removing a key leaves what every other key holds. -/
theorem Tbl.get_filter_other (d : Nat → α) (t : Tbl α) (k j : Nat) (h : j ≠ k) :
    Tbl.get d (t.filter (fun e => decide (e.1 ≠ k))) j = Tbl.get d t j := by
  induction t with
  | nil => rfl
  | cons e t ih =>
    rw [List.filter_cons]
    split
    · simp only [Tbl.get, ih]
    · rename_i he
      have hej : ¬ j = e.1 := by
        intro hj
        simp only [decide_eq_true_eq, not_not] at he
        exact h (hj.trans he)
      simp only [Tbl.get, if_neg hej, ih]

omit [DecidableEq α] in
/-- A removed key is unlisted. -/
theorem Tbl.get_filter_same (d : Nat → α) (t : Tbl α) (k : Nat) : Tbl.get d (t.filter (fun e => decide (e.1 ≠ k))) k = d k := by
  induction t with
  | nil => rfl
  | cons e t ih =>
    rw [List.filter_cons]
    split
    · rename_i he
      have hek : ¬ k = e.1 := by
        intro hk
        simp only [decide_eq_true_eq] at he
        exact he hk.symm
      simp only [Tbl.get, if_neg hek, ih]
    · exact ih

omit [DecidableEq α] in
theorem Tbl.get_ins_other (d : Nat → α) (t : Tbl α) (k j : Nat) (v : α) (h : j ≠ k) : Tbl.get d (Tbl.ins t k v) j = Tbl.get d t j := by
  induction t with
  | nil => simp only [Tbl.ins, Tbl.get, if_neg h]
  | cons e t ih =>
    simp only [Tbl.ins]
    split
    · simp only [Tbl.get, if_neg h]
    · simp only [Tbl.get, ih]

omit [DecidableEq α] in
theorem Tbl.get_ins_same (d : Nat → α) (t : Tbl α) (k : Nat) (v : α) (h : ∀ e ∈ t, e.1 ≠ k) : Tbl.get d (Tbl.ins t k v) k = v := by
  induction t with
  | nil => simp only [Tbl.ins, Tbl.get, if_pos]
  | cons e t ih =>
    simp only [Tbl.ins]
    split
    · simp only [Tbl.get, if_pos]
    · have hek : ¬ k = e.1 := fun hk => h e List.mem_cons_self hk.symm
      simp only [Tbl.get, if_neg hek]
      exact ih (fun e he => h e (List.mem_cons_of_mem _ he))

/-- A read gives what was written last. -/
@[simp] theorem Tbl.get_set_same (d : Nat → α) (t : Tbl α) (k : Nat) (v : α) : Tbl.get d (Tbl.set d t k v) k = v := by
  unfold Tbl.set
  split
  · rename_i hv
    rw [Tbl.get_filter_same, hv]
  · refine Tbl.get_ins_same d _ k v (fun e he => ?_)
    simpa using (List.mem_filter.mp he).2

/-- A write leaves every other key as it was. -/
theorem Tbl.get_set_other (d : Nat → α) (t : Tbl α) (k j : Nat) (v : α) (h : j ≠ k) :
    Tbl.get d (Tbl.set d t k v) j = Tbl.get d t j := by
  unfold Tbl.set
  split
  · exact Tbl.get_filter_other d t k j h
  · rw [Tbl.get_ins_other d _ k j v h, Tbl.get_filter_other d t k j h]

/-- A read after a write, whichever the keys. -/
theorem Tbl.get_set (d : Nat → α) (t : Tbl α) (k j : Nat) (v : α) :
    Tbl.get d (Tbl.set d t k v) j = if j = k then v else Tbl.get d t j := by
  split
  · rename_i h
    rw [h, Tbl.get_set_same]
  · rename_i h
    exact Tbl.get_set_other d t k j v h

/-- The canonical form: keys rising, and no entry equal to the unlisted value. -/
theorem Tbl.wfFrom_iff (d : Nat → α) (t : Tbl α) (lo : Nat) :
    Tbl.wfFrom d lo t = true ↔ t.Pairwise (fun a b => a.1 < b.1) ∧ ∀ e ∈ t, lo ≤ e.1 ∧ e.2 ≠ d e.1 := by
  induction t generalizing lo with
  | nil => simp [Tbl.wfFrom]
  | cons e t ih =>
    obtain ⟨j, u⟩ := e
    simp only [Tbl.wfFrom, Bool.and_eq_true, decide_eq_true_eq, ih, List.pairwise_cons, List.mem_cons, forall_eq_or_imp]
    constructor
    · rintro ⟨⟨h1, h2⟩, h3, h4⟩
      exact ⟨⟨fun e he => (h4 e he).1, h3⟩, ⟨h1, h2⟩, fun e he => ⟨by have := (h4 e he).1; omega, (h4 e he).2⟩⟩
    · rintro ⟨⟨h1, h2⟩, ⟨h3, h4⟩, h5⟩
      exact ⟨⟨h3, h4⟩, h2, fun e he => ⟨h1 e he, (h5 e he).2⟩⟩

theorem Tbl.wf_iff (d : Nat → α) (t : Tbl α) :
    Tbl.wf d t = true ↔ t.Pairwise (fun a b => a.1 < b.1) ∧ ∀ e ∈ t, e.2 ≠ d e.1 := by
  rw [Tbl.wf, Tbl.wfFrom_iff]
  simp

theorem Tbl.wf_filter (d : Nat → α) (t : Tbl α) (p : Nat × α → Bool) (h : Tbl.wf d t = true) : Tbl.wf d (t.filter p) = true := by
  rw [Tbl.wf_iff] at h ⊢
  exact ⟨h.1.filter _, fun e he => h.2 e (List.mem_filter.mp he).1⟩

omit [DecidableEq α] in
theorem Tbl.mem_ins (t : Tbl α) (k : Nat) (v : α) (e : Nat × α) (h : e ∈ Tbl.ins t k v) : e = (k, v) ∨ e ∈ t := by
  induction t with
  | nil => simpa [Tbl.ins] using h
  | cons x t ih =>
    simp only [Tbl.ins] at h
    split at h
    · simpa using h
    · rcases List.mem_cons.mp h with h | h
      · exact Or.inr (h ▸ List.mem_cons_self)
      · rcases ih h with h | h
        · exact Or.inl h
        · exact Or.inr (List.mem_cons_of_mem _ h)

theorem Tbl.wf_ins (d : Nat → α) (t : Tbl α) (k : Nat) (v : α) (hv : v ≠ d k) (hk : ∀ e ∈ t, e.1 ≠ k) (h : Tbl.wf d t = true) :
    Tbl.wf d (Tbl.ins t k v) = true := by
  rw [Tbl.wf_iff] at h ⊢
  constructor
  · induction t with
    | nil => simp [Tbl.ins]
    | cons x t ih =>
      have hp := List.pairwise_cons.mp h.1
      simp only [Tbl.ins]
      split
      · rename_i hlt
        refine List.pairwise_cons.mpr ⟨fun e he => ?_, h.1⟩
        rcases List.mem_cons.mp he with he | he
        · exact he ▸ hlt
        · exact Nat.lt_trans hlt (hp.1 e he)
      · rename_i hlt
        have hx := hk x List.mem_cons_self
        refine List.pairwise_cons.mpr ⟨fun e he => ?_, ih (fun e he => hk e (List.mem_cons_of_mem _ he)) ⟨hp.2, fun e he => h.2 e (List.mem_cons_of_mem _ he)⟩⟩
        rcases Tbl.mem_ins t k v e he with he | he
        · rw [he]
          dsimp only
          omega
        · exact hp.1 e he
  · intro e he
    rcases Tbl.mem_ins t k v e he with he | he
    · rw [he]
      exact hv
    · exact h.2 e he

/-- A write keeps the canonical form. -/
theorem Tbl.wf_set (d : Nat → α) (t : Tbl α) (k : Nat) (v : α) (h : Tbl.wf d t = true) : Tbl.wf d (Tbl.set d t k v) = true := by
  unfold Tbl.set
  split
  · exact Tbl.wf_filter d t _ h
  · rename_i hv
    exact Tbl.wf_ins d _ k v hv (fun e he => by simpa using (List.mem_filter.mp he).2) (Tbl.wf_filter d t _ h)

/-- Replacing a range keeps the canonical form. -/
theorem splice_wf (d : Nat → α) (lo hi : Nat) (src dst : Tbl α) (h : Tbl.wf d dst = true) (hs : Tbl.wf d src = true) (hl : lo ≤ hi) :
    Tbl.wf d (splice lo hi src dst) = true := by
  rw [Tbl.wf_iff] at h hs ⊢
  unfold splice
  constructor
  · rw [List.pairwise_append, List.pairwise_append]
    refine ⟨⟨h.1.filter _, hs.1.filter _, ?_⟩, h.1.filter _, ?_⟩
    · intro a ha b hb
      simp only [List.mem_filter, Bool.and_eq_true, decide_eq_true_eq] at ha hb
      omega
    · intro a ha b hb
      simp only [List.mem_append, List.mem_filter, Bool.and_eq_true, decide_eq_true_eq] at ha hb
      omega
  · intro e he
    simp only [List.mem_append, List.mem_filter] at he
    rcases he with (he | he) | he
    · exact h.2 e he.1
    · exact hs.2 e he.1
    · exact h.2 e he.1

/-- Moving every key by one amount keeps the canonical form of a table with one unlisted value. -/
theorem Tbl.wf_shift (c : α) (t : Tbl α) (f : Nat → Nat) (h : Tbl.wf (fun _ => c) t = true)
    (hf : ∀ a ∈ t, ∀ b ∈ t, a.1 < b.1 → f a.1 < f b.1) : Tbl.wf (fun _ => c) (t.map (fun e => (f e.1, e.2))) = true := by
  rw [Tbl.wf_iff] at h ⊢
  constructor
  · rw [List.pairwise_map]
    exact h.1.imp_of_mem (fun ha hb hab => hf _ ha _ hb hab)
  · intro e he
    rw [List.mem_map] at he
    obtain ⟨x, hx, rfl⟩ := he
    exact h.2 x hx

omit [DecidableEq α] in
/-- A key outside the replaced range reads as before. -/
theorem splice_get_outside (d : Nat → α) (lo hi : Nat) (src dst : Tbl α) (k : Nat) (hk : k < lo ∨ hi ≤ k) (hl : lo ≤ hi) :
    Tbl.get d (splice lo hi src dst) k = Tbl.get d dst k := by
  have key : ∀ t u : Tbl α, (∀ e ∈ t, e.1 ≠ k) → Tbl.get d (t ++ u) k = Tbl.get d u k := by
    intro t u ht
    induction t with
    | nil => rfl
    | cons e t ih =>
      rw [List.cons_append, Tbl.get, if_neg (fun h => ht e (List.mem_cons_self) h.symm)]
      exact ih (fun e he => ht e (List.mem_cons_of_mem _ he))
  have filt : ∀ (t : Tbl α) (p : Nat × α → Bool), (∀ e : Nat × α, e.1 = k → p e = true) → Tbl.get d (t.filter p) k = Tbl.get d t k := by
    intro t p hp
    induction t with
    | nil => rfl
    | cons e t ih =>
      rw [List.filter_cons]
      by_cases he : e.1 = k
      · rw [if_pos (hp e he), Tbl.get, Tbl.get, ih]
      · have : ¬ k = e.1 := fun h => he h.symm
        split
        · rw [Tbl.get, Tbl.get, if_neg this, if_neg this, ih]
        · rw [Tbl.get, if_neg this, ih]
  have stop : ∀ t u : Tbl α, (∀ e ∈ u, e.1 ≠ k) → Tbl.get d (t ++ u) k = Tbl.get d t k := by
    intro t u hu
    induction t with
    | nil =>
      induction u with
      | nil => rfl
      | cons e u ih =>
        have hk : ¬ k = e.1 := fun h => hu e (List.mem_cons_self) h.symm
        have hr := ih (fun e he => hu e (List.mem_cons_of_mem _ he))
        rw [List.nil_append] at hr ⊢
        simp only [Tbl.get, if_neg hk]
        exact hr
    | cons e t ih => rw [List.cons_append, Tbl.get, Tbl.get, ih]
  unfold splice
  rcases hk with hk | hk
  · rw [List.append_assoc, stop]
    · exact filt dst _ (fun e he => by simpa [he] using hk)
    · intro e he
      simp only [List.mem_append, List.mem_filter, Bool.and_eq_true, decide_eq_true_eq] at he
      omega
  · rw [key]
    · exact filt dst _ (fun e he => by simpa [he] using hk)
    · intro e he
      simp only [List.mem_append, List.mem_filter, Bool.and_eq_true, decide_eq_true_eq] at he
      omega

end Sys2Proof.Laws
end

