-- ==== Sys2Proof/Laws/State.lean ====
section
/-! SUPPORT. What each update of the state leaves unchanged, field by field, and what it writes. -/

namespace Sys2Proof.Laws

open Sys2Proof Sys2Proof.Machine

@[simp] theorem emit_variant (o : Out) (s : State) : (emit o s).variant = s.variant := rfl
@[simp] theorem emit_pending (o : Out) (s : State) : (emit o s).pending = s.pending := rfl
@[simp] theorem emit_fresh (o : Out) (s : State) : (emit o s).fresh = s.fresh := rfl
@[simp] theorem emit_pwr (o : Out) (s : State) : (emit o s).pwr = s.pwr := rfl
@[simp] theorem emit_time (o : Out) (s : State) : (emit o s).time = s.time := rfl
@[simp] theorem emit_pages (o : Out) (s : State) : (emit o s).pages = s.pages := rfl
@[simp] theorem emit_ctrs (o : Out) (s : State) : (emit o s).ctrs = s.ctrs := rfl
@[simp] theorem emit_hold (o : Out) (s : State) : (emit o s).hold = s.hold := rfl
@[simp] theorem emit_staged (o : Out) (s : State) : (emit o s).staged = s.staged := rfl
@[simp] theorem emit_live (o : Out) (s : State) : (emit o s).live = s.live := rfl
@[simp] theorem emit_eff (o : Out) (s : State) : (emit o s).eff = s.eff := rfl
@[simp] theorem emit_regs (o : Out) (s : State) : (emit o s).regs = s.regs := rfl
@[simp] theorem emit_ctab (o : Out) (s : State) : (emit o s).ctab = s.ctab := rfl
@[simp] theorem emit_sets (o : Out) (s : State) : (emit o s).sets = s.sets := rfl
@[simp] theorem emit_queue (o : Out) (s : State) : (emit o s).queue = s.queue := rfl
@[simp] theorem emit_checking (o : Out) (s : State) : (emit o s).checking = s.checking := rfl
@[simp] theorem emit_waits (o : Out) (s : State) : (emit o s).waits = s.waits := rfl
@[simp] theorem emit_chans (o : Out) (s : State) : (emit o s).chans = s.chans := rfl
@[simp] theorem emit_svcs (o : Out) (s : State) : (emit o s).svcs = s.svcs := rfl
@[simp] theorem emit_flows (o : Out) (s : State) : (emit o s).flows = s.flows := rfl
@[simp] theorem emit_stops (o : Out) (s : State) : (emit o s).stops = s.stops := rfl
@[simp] theorem emit_quench (o : Out) (s : State) : (emit o s).quench = s.quench := rfl
@[simp] theorem emit_ports (o : Out) (s : State) : (emit o s).ports = s.ports := rfl
@[simp] theorem emit_slots (o : Out) (s : State) : (emit o s).slots = s.slots := rfl
@[simp] theorem emit_slotPx (o : Out) (s : State) : (emit o s).slotPx = s.slotPx := rfl
@[simp] theorem emit_entries (o : Out) (s : State) : (emit o s).entries = s.entries := rfl
@[simp] theorem emit_merges (o : Out) (s : State) : (emit o s).merges = s.merges := rfl
@[simp] theorem emit_groups (o : Out) (s : State) : (emit o s).groups = s.groups := rfl
@[simp] theorem emit_layers (o : Out) (s : State) : (emit o s).layers = s.layers := rfl
@[simp] theorem emit_canvPx (o : Out) (s : State) : (emit o s).canvPx = s.canvPx := rfl
@[simp] theorem emit_cachePx (o : Out) (s : State) : (emit o s).cachePx = s.cachePx := rfl
@[simp] theorem emit_decs (o : Out) (s : State) : (emit o s).decs = s.decs := rfl
@[simp] theorem emit_dsps (o : Out) (s : State) : (emit o s).dsps = s.dsps := rfl
@[simp] theorem emit_mcs (o : Out) (s : State) : (emit o s).mcs = s.mcs := rfl
@[simp] theorem emit_dram (o : Out) (s : State) : (emit o s).dram = s.dram := rfl
@[simp] theorem emit_poison (o : Out) (s : State) : (emit o s).poison = s.poison := rfl
@[simp] theorem emit_broken (o : Out) (s : State) : (emit o s).broken = s.broken := rfl
@[simp] theorem emit_soft (o : Out) (s : State) : (emit o s).soft = s.soft := rfl
@[simp] theorem emit_yoke (o : Out) (s : State) : (emit o s).yoke = s.yoke := rfl
@[simp] theorem emit_aflows (o : Out) (s : State) : (emit o s).aflows = s.aflows := rfl
@[simp] theorem emit_tdms (o : Out) (s : State) : (emit o s).tdms = s.tdms := rfl
@[simp] theorem emit_ic (o : Out) (s : State) : (emit o s).ic = s.ic := rfl
@[simp] theorem emit_lanes (o : Out) (s : State) : (emit o s).lanes = s.lanes := rfl
@[simp] theorem emit_host (o : Out) (s : State) : (emit o s).host = s.host := rfl
@[simp] theorem emit_fw (o : Out) (s : State) : (emit o s).fw = s.fw := rfl
@[simp] theorem emit_tack (o : Out) (s : State) : (emit o s).tack = s.tack := rfl
@[simp] theorem emit_services (o : Out) (s : State) : (emit o s).services = s.services := rfl

@[simp] theorem draw_variant (s : State) : (draw s).variant = s.variant := rfl
@[simp] theorem draw_pending (s : State) : (draw s).pending = s.pending := rfl
@[simp] theorem draw_out (s : State) : (draw s).out = s.out := rfl
@[simp] theorem draw_pwr (s : State) : (draw s).pwr = s.pwr := rfl
@[simp] theorem draw_time (s : State) : (draw s).time = s.time := rfl
@[simp] theorem draw_pages (s : State) : (draw s).pages = s.pages := rfl
@[simp] theorem draw_ctrs (s : State) : (draw s).ctrs = s.ctrs := rfl
@[simp] theorem draw_hold (s : State) : (draw s).hold = s.hold := rfl
@[simp] theorem draw_staged (s : State) : (draw s).staged = s.staged := rfl
@[simp] theorem draw_live (s : State) : (draw s).live = s.live := rfl
@[simp] theorem draw_eff (s : State) : (draw s).eff = s.eff := rfl
@[simp] theorem draw_regs (s : State) : (draw s).regs = s.regs := rfl
@[simp] theorem draw_ctab (s : State) : (draw s).ctab = s.ctab := rfl
@[simp] theorem draw_sets (s : State) : (draw s).sets = s.sets := rfl
@[simp] theorem draw_queue (s : State) : (draw s).queue = s.queue := rfl
@[simp] theorem draw_checking (s : State) : (draw s).checking = s.checking := rfl
@[simp] theorem draw_waits (s : State) : (draw s).waits = s.waits := rfl
@[simp] theorem draw_chans (s : State) : (draw s).chans = s.chans := rfl
@[simp] theorem draw_svcs (s : State) : (draw s).svcs = s.svcs := rfl
@[simp] theorem draw_flows (s : State) : (draw s).flows = s.flows := rfl
@[simp] theorem draw_stops (s : State) : (draw s).stops = s.stops := rfl
@[simp] theorem draw_quench (s : State) : (draw s).quench = s.quench := rfl
@[simp] theorem draw_ports (s : State) : (draw s).ports = s.ports := rfl
@[simp] theorem draw_slots (s : State) : (draw s).slots = s.slots := rfl
@[simp] theorem draw_slotPx (s : State) : (draw s).slotPx = s.slotPx := rfl
@[simp] theorem draw_entries (s : State) : (draw s).entries = s.entries := rfl
@[simp] theorem draw_merges (s : State) : (draw s).merges = s.merges := rfl
@[simp] theorem draw_groups (s : State) : (draw s).groups = s.groups := rfl
@[simp] theorem draw_layers (s : State) : (draw s).layers = s.layers := rfl
@[simp] theorem draw_canvPx (s : State) : (draw s).canvPx = s.canvPx := rfl
@[simp] theorem draw_cachePx (s : State) : (draw s).cachePx = s.cachePx := rfl
@[simp] theorem draw_decs (s : State) : (draw s).decs = s.decs := rfl
@[simp] theorem draw_dsps (s : State) : (draw s).dsps = s.dsps := rfl
@[simp] theorem draw_mcs (s : State) : (draw s).mcs = s.mcs := rfl
@[simp] theorem draw_dram (s : State) : (draw s).dram = s.dram := rfl
@[simp] theorem draw_poison (s : State) : (draw s).poison = s.poison := rfl
@[simp] theorem draw_broken (s : State) : (draw s).broken = s.broken := rfl
@[simp] theorem draw_soft (s : State) : (draw s).soft = s.soft := rfl
@[simp] theorem draw_yoke (s : State) : (draw s).yoke = s.yoke := rfl
@[simp] theorem draw_aflows (s : State) : (draw s).aflows = s.aflows := rfl
@[simp] theorem draw_tdms (s : State) : (draw s).tdms = s.tdms := rfl
@[simp] theorem draw_ic (s : State) : (draw s).ic = s.ic := rfl
@[simp] theorem draw_lanes (s : State) : (draw s).lanes = s.lanes := rfl
@[simp] theorem draw_host (s : State) : (draw s).host = s.host := rfl
@[simp] theorem draw_fw (s : State) : (draw s).fw = s.fw := rfl
@[simp] theorem draw_tack (s : State) : (draw s).tack = s.tack := rfl
@[simp] theorem draw_services (s : State) : (draw s).services = s.services := rfl

@[simp] theorem bump_variant (k n x : Nat) (s : State) : (bump k n x s).variant = s.variant := rfl
@[simp] theorem bump_pending (k n x : Nat) (s : State) : (bump k n x s).pending = s.pending := rfl
@[simp] theorem bump_out (k n x : Nat) (s : State) : (bump k n x s).out = s.out := rfl
@[simp] theorem bump_fresh (k n x : Nat) (s : State) : (bump k n x s).fresh = s.fresh := rfl
@[simp] theorem bump_pwr (k n x : Nat) (s : State) : (bump k n x s).pwr = s.pwr := rfl
@[simp] theorem bump_time (k n x : Nat) (s : State) : (bump k n x s).time = s.time := rfl
@[simp] theorem bump_pages (k n x : Nat) (s : State) : (bump k n x s).pages = s.pages := rfl
@[simp] theorem bump_hold (k n x : Nat) (s : State) : (bump k n x s).hold = s.hold := rfl
@[simp] theorem bump_staged (k n x : Nat) (s : State) : (bump k n x s).staged = s.staged := rfl
@[simp] theorem bump_live (k n x : Nat) (s : State) : (bump k n x s).live = s.live := rfl
@[simp] theorem bump_eff (k n x : Nat) (s : State) : (bump k n x s).eff = s.eff := rfl
@[simp] theorem bump_regs (k n x : Nat) (s : State) : (bump k n x s).regs = s.regs := rfl
@[simp] theorem bump_ctab (k n x : Nat) (s : State) : (bump k n x s).ctab = s.ctab := rfl
@[simp] theorem bump_sets (k n x : Nat) (s : State) : (bump k n x s).sets = s.sets := rfl
@[simp] theorem bump_queue (k n x : Nat) (s : State) : (bump k n x s).queue = s.queue := rfl
@[simp] theorem bump_checking (k n x : Nat) (s : State) : (bump k n x s).checking = s.checking := rfl
@[simp] theorem bump_waits (k n x : Nat) (s : State) : (bump k n x s).waits = s.waits := rfl
@[simp] theorem bump_chans (k n x : Nat) (s : State) : (bump k n x s).chans = s.chans := rfl
@[simp] theorem bump_svcs (k n x : Nat) (s : State) : (bump k n x s).svcs = s.svcs := rfl
@[simp] theorem bump_flows (k n x : Nat) (s : State) : (bump k n x s).flows = s.flows := rfl
@[simp] theorem bump_stops (k n x : Nat) (s : State) : (bump k n x s).stops = s.stops := rfl
@[simp] theorem bump_quench (k n x : Nat) (s : State) : (bump k n x s).quench = s.quench := rfl
@[simp] theorem bump_ports (k n x : Nat) (s : State) : (bump k n x s).ports = s.ports := rfl
@[simp] theorem bump_slots (k n x : Nat) (s : State) : (bump k n x s).slots = s.slots := rfl
@[simp] theorem bump_slotPx (k n x : Nat) (s : State) : (bump k n x s).slotPx = s.slotPx := rfl
@[simp] theorem bump_entries (k n x : Nat) (s : State) : (bump k n x s).entries = s.entries := rfl
@[simp] theorem bump_merges (k n x : Nat) (s : State) : (bump k n x s).merges = s.merges := rfl
@[simp] theorem bump_groups (k n x : Nat) (s : State) : (bump k n x s).groups = s.groups := rfl
@[simp] theorem bump_layers (k n x : Nat) (s : State) : (bump k n x s).layers = s.layers := rfl
@[simp] theorem bump_canvPx (k n x : Nat) (s : State) : (bump k n x s).canvPx = s.canvPx := rfl
@[simp] theorem bump_cachePx (k n x : Nat) (s : State) : (bump k n x s).cachePx = s.cachePx := rfl
@[simp] theorem bump_decs (k n x : Nat) (s : State) : (bump k n x s).decs = s.decs := rfl
@[simp] theorem bump_dsps (k n x : Nat) (s : State) : (bump k n x s).dsps = s.dsps := rfl
@[simp] theorem bump_mcs (k n x : Nat) (s : State) : (bump k n x s).mcs = s.mcs := rfl
@[simp] theorem bump_dram (k n x : Nat) (s : State) : (bump k n x s).dram = s.dram := rfl
@[simp] theorem bump_poison (k n x : Nat) (s : State) : (bump k n x s).poison = s.poison := rfl
@[simp] theorem bump_broken (k n x : Nat) (s : State) : (bump k n x s).broken = s.broken := rfl
@[simp] theorem bump_soft (k n x : Nat) (s : State) : (bump k n x s).soft = s.soft := rfl
@[simp] theorem bump_yoke (k n x : Nat) (s : State) : (bump k n x s).yoke = s.yoke := rfl
@[simp] theorem bump_aflows (k n x : Nat) (s : State) : (bump k n x s).aflows = s.aflows := rfl
@[simp] theorem bump_tdms (k n x : Nat) (s : State) : (bump k n x s).tdms = s.tdms := rfl
@[simp] theorem bump_ic (k n x : Nat) (s : State) : (bump k n x s).ic = s.ic := rfl
@[simp] theorem bump_lanes (k n x : Nat) (s : State) : (bump k n x s).lanes = s.lanes := rfl
@[simp] theorem bump_host (k n x : Nat) (s : State) : (bump k n x s).host = s.host := rfl
@[simp] theorem bump_fw (k n x : Nat) (s : State) : (bump k n x s).fw = s.fw := rfl
@[simp] theorem bump_tack (k n x : Nat) (s : State) : (bump k n x s).tack = s.tack := rfl
@[simp] theorem bump_services (k n x : Nat) (s : State) : (bump k n x s).services = s.services := rfl

@[simp] theorem modPage_variant (k : Nat) (f : PageHdr → PageHdr) (s : State) : (modPage k f s).variant = s.variant := rfl
@[simp] theorem modPage_pending (k : Nat) (f : PageHdr → PageHdr) (s : State) : (modPage k f s).pending = s.pending := rfl
@[simp] theorem modPage_out (k : Nat) (f : PageHdr → PageHdr) (s : State) : (modPage k f s).out = s.out := rfl
@[simp] theorem modPage_fresh (k : Nat) (f : PageHdr → PageHdr) (s : State) : (modPage k f s).fresh = s.fresh := rfl
@[simp] theorem modPage_pwr (k : Nat) (f : PageHdr → PageHdr) (s : State) : (modPage k f s).pwr = s.pwr := rfl
@[simp] theorem modPage_time (k : Nat) (f : PageHdr → PageHdr) (s : State) : (modPage k f s).time = s.time := rfl
@[simp] theorem modPage_ctrs (k : Nat) (f : PageHdr → PageHdr) (s : State) : (modPage k f s).ctrs = s.ctrs := rfl
@[simp] theorem modPage_hold (k : Nat) (f : PageHdr → PageHdr) (s : State) : (modPage k f s).hold = s.hold := rfl
@[simp] theorem modPage_staged (k : Nat) (f : PageHdr → PageHdr) (s : State) : (modPage k f s).staged = s.staged := rfl
@[simp] theorem modPage_live (k : Nat) (f : PageHdr → PageHdr) (s : State) : (modPage k f s).live = s.live := rfl
@[simp] theorem modPage_eff (k : Nat) (f : PageHdr → PageHdr) (s : State) : (modPage k f s).eff = s.eff := rfl
@[simp] theorem modPage_regs (k : Nat) (f : PageHdr → PageHdr) (s : State) : (modPage k f s).regs = s.regs := rfl
@[simp] theorem modPage_ctab (k : Nat) (f : PageHdr → PageHdr) (s : State) : (modPage k f s).ctab = s.ctab := rfl
@[simp] theorem modPage_sets (k : Nat) (f : PageHdr → PageHdr) (s : State) : (modPage k f s).sets = s.sets := rfl
@[simp] theorem modPage_queue (k : Nat) (f : PageHdr → PageHdr) (s : State) : (modPage k f s).queue = s.queue := rfl
@[simp] theorem modPage_checking (k : Nat) (f : PageHdr → PageHdr) (s : State) : (modPage k f s).checking = s.checking := rfl
@[simp] theorem modPage_waits (k : Nat) (f : PageHdr → PageHdr) (s : State) : (modPage k f s).waits = s.waits := rfl
@[simp] theorem modPage_chans (k : Nat) (f : PageHdr → PageHdr) (s : State) : (modPage k f s).chans = s.chans := rfl
@[simp] theorem modPage_svcs (k : Nat) (f : PageHdr → PageHdr) (s : State) : (modPage k f s).svcs = s.svcs := rfl
@[simp] theorem modPage_flows (k : Nat) (f : PageHdr → PageHdr) (s : State) : (modPage k f s).flows = s.flows := rfl
@[simp] theorem modPage_stops (k : Nat) (f : PageHdr → PageHdr) (s : State) : (modPage k f s).stops = s.stops := rfl
@[simp] theorem modPage_quench (k : Nat) (f : PageHdr → PageHdr) (s : State) : (modPage k f s).quench = s.quench := rfl
@[simp] theorem modPage_ports (k : Nat) (f : PageHdr → PageHdr) (s : State) : (modPage k f s).ports = s.ports := rfl
@[simp] theorem modPage_slots (k : Nat) (f : PageHdr → PageHdr) (s : State) : (modPage k f s).slots = s.slots := rfl
@[simp] theorem modPage_slotPx (k : Nat) (f : PageHdr → PageHdr) (s : State) : (modPage k f s).slotPx = s.slotPx := rfl
@[simp] theorem modPage_entries (k : Nat) (f : PageHdr → PageHdr) (s : State) : (modPage k f s).entries = s.entries := rfl
@[simp] theorem modPage_merges (k : Nat) (f : PageHdr → PageHdr) (s : State) : (modPage k f s).merges = s.merges := rfl
@[simp] theorem modPage_groups (k : Nat) (f : PageHdr → PageHdr) (s : State) : (modPage k f s).groups = s.groups := rfl
@[simp] theorem modPage_layers (k : Nat) (f : PageHdr → PageHdr) (s : State) : (modPage k f s).layers = s.layers := rfl
@[simp] theorem modPage_canvPx (k : Nat) (f : PageHdr → PageHdr) (s : State) : (modPage k f s).canvPx = s.canvPx := rfl
@[simp] theorem modPage_cachePx (k : Nat) (f : PageHdr → PageHdr) (s : State) : (modPage k f s).cachePx = s.cachePx := rfl
@[simp] theorem modPage_decs (k : Nat) (f : PageHdr → PageHdr) (s : State) : (modPage k f s).decs = s.decs := rfl
@[simp] theorem modPage_dsps (k : Nat) (f : PageHdr → PageHdr) (s : State) : (modPage k f s).dsps = s.dsps := rfl
@[simp] theorem modPage_mcs (k : Nat) (f : PageHdr → PageHdr) (s : State) : (modPage k f s).mcs = s.mcs := rfl
@[simp] theorem modPage_dram (k : Nat) (f : PageHdr → PageHdr) (s : State) : (modPage k f s).dram = s.dram := rfl
@[simp] theorem modPage_poison (k : Nat) (f : PageHdr → PageHdr) (s : State) : (modPage k f s).poison = s.poison := rfl
@[simp] theorem modPage_broken (k : Nat) (f : PageHdr → PageHdr) (s : State) : (modPage k f s).broken = s.broken := rfl
@[simp] theorem modPage_soft (k : Nat) (f : PageHdr → PageHdr) (s : State) : (modPage k f s).soft = s.soft := rfl
@[simp] theorem modPage_yoke (k : Nat) (f : PageHdr → PageHdr) (s : State) : (modPage k f s).yoke = s.yoke := rfl
@[simp] theorem modPage_aflows (k : Nat) (f : PageHdr → PageHdr) (s : State) : (modPage k f s).aflows = s.aflows := rfl
@[simp] theorem modPage_tdms (k : Nat) (f : PageHdr → PageHdr) (s : State) : (modPage k f s).tdms = s.tdms := rfl
@[simp] theorem modPage_ic (k : Nat) (f : PageHdr → PageHdr) (s : State) : (modPage k f s).ic = s.ic := rfl
@[simp] theorem modPage_lanes (k : Nat) (f : PageHdr → PageHdr) (s : State) : (modPage k f s).lanes = s.lanes := rfl
@[simp] theorem modPage_host (k : Nat) (f : PageHdr → PageHdr) (s : State) : (modPage k f s).host = s.host := rfl
@[simp] theorem modPage_fw (k : Nat) (f : PageHdr → PageHdr) (s : State) : (modPage k f s).fw = s.fw := rfl
@[simp] theorem modPage_tack (k : Nat) (f : PageHdr → PageHdr) (s : State) : (modPage k f s).tack = s.tack := rfl
@[simp] theorem modPage_services (k : Nat) (f : PageHdr → PageHdr) (s : State) : (modPage k f s).services = s.services := rfl

@[simp] theorem setReg_variant (a : Nat) (w : Word) (s : State) : (setReg a w s).variant = s.variant := rfl
@[simp] theorem setReg_pending (a : Nat) (w : Word) (s : State) : (setReg a w s).pending = s.pending := rfl
@[simp] theorem setReg_out (a : Nat) (w : Word) (s : State) : (setReg a w s).out = s.out := rfl
@[simp] theorem setReg_fresh (a : Nat) (w : Word) (s : State) : (setReg a w s).fresh = s.fresh := rfl
@[simp] theorem setReg_pwr (a : Nat) (w : Word) (s : State) : (setReg a w s).pwr = s.pwr := rfl
@[simp] theorem setReg_time (a : Nat) (w : Word) (s : State) : (setReg a w s).time = s.time := rfl
@[simp] theorem setReg_pages (a : Nat) (w : Word) (s : State) : (setReg a w s).pages = s.pages := rfl
@[simp] theorem setReg_ctrs (a : Nat) (w : Word) (s : State) : (setReg a w s).ctrs = s.ctrs := rfl
@[simp] theorem setReg_hold (a : Nat) (w : Word) (s : State) : (setReg a w s).hold = s.hold := rfl
@[simp] theorem setReg_staged (a : Nat) (w : Word) (s : State) : (setReg a w s).staged = s.staged := rfl
@[simp] theorem setReg_live (a : Nat) (w : Word) (s : State) : (setReg a w s).live = s.live := rfl
@[simp] theorem setReg_eff (a : Nat) (w : Word) (s : State) : (setReg a w s).eff = s.eff := rfl
@[simp] theorem setReg_ctab (a : Nat) (w : Word) (s : State) : (setReg a w s).ctab = s.ctab := rfl
@[simp] theorem setReg_sets (a : Nat) (w : Word) (s : State) : (setReg a w s).sets = s.sets := rfl
@[simp] theorem setReg_queue (a : Nat) (w : Word) (s : State) : (setReg a w s).queue = s.queue := rfl
@[simp] theorem setReg_checking (a : Nat) (w : Word) (s : State) : (setReg a w s).checking = s.checking := rfl
@[simp] theorem setReg_waits (a : Nat) (w : Word) (s : State) : (setReg a w s).waits = s.waits := rfl
@[simp] theorem setReg_chans (a : Nat) (w : Word) (s : State) : (setReg a w s).chans = s.chans := rfl
@[simp] theorem setReg_svcs (a : Nat) (w : Word) (s : State) : (setReg a w s).svcs = s.svcs := rfl
@[simp] theorem setReg_flows (a : Nat) (w : Word) (s : State) : (setReg a w s).flows = s.flows := rfl
@[simp] theorem setReg_stops (a : Nat) (w : Word) (s : State) : (setReg a w s).stops = s.stops := rfl
@[simp] theorem setReg_quench (a : Nat) (w : Word) (s : State) : (setReg a w s).quench = s.quench := rfl
@[simp] theorem setReg_ports (a : Nat) (w : Word) (s : State) : (setReg a w s).ports = s.ports := rfl
@[simp] theorem setReg_slots (a : Nat) (w : Word) (s : State) : (setReg a w s).slots = s.slots := rfl
@[simp] theorem setReg_slotPx (a : Nat) (w : Word) (s : State) : (setReg a w s).slotPx = s.slotPx := rfl
@[simp] theorem setReg_entries (a : Nat) (w : Word) (s : State) : (setReg a w s).entries = s.entries := rfl
@[simp] theorem setReg_merges (a : Nat) (w : Word) (s : State) : (setReg a w s).merges = s.merges := rfl
@[simp] theorem setReg_groups (a : Nat) (w : Word) (s : State) : (setReg a w s).groups = s.groups := rfl
@[simp] theorem setReg_layers (a : Nat) (w : Word) (s : State) : (setReg a w s).layers = s.layers := rfl
@[simp] theorem setReg_canvPx (a : Nat) (w : Word) (s : State) : (setReg a w s).canvPx = s.canvPx := rfl
@[simp] theorem setReg_cachePx (a : Nat) (w : Word) (s : State) : (setReg a w s).cachePx = s.cachePx := rfl
@[simp] theorem setReg_decs (a : Nat) (w : Word) (s : State) : (setReg a w s).decs = s.decs := rfl
@[simp] theorem setReg_dsps (a : Nat) (w : Word) (s : State) : (setReg a w s).dsps = s.dsps := rfl
@[simp] theorem setReg_mcs (a : Nat) (w : Word) (s : State) : (setReg a w s).mcs = s.mcs := rfl
@[simp] theorem setReg_dram (a : Nat) (w : Word) (s : State) : (setReg a w s).dram = s.dram := rfl
@[simp] theorem setReg_poison (a : Nat) (w : Word) (s : State) : (setReg a w s).poison = s.poison := rfl
@[simp] theorem setReg_broken (a : Nat) (w : Word) (s : State) : (setReg a w s).broken = s.broken := rfl
@[simp] theorem setReg_soft (a : Nat) (w : Word) (s : State) : (setReg a w s).soft = s.soft := rfl
@[simp] theorem setReg_yoke (a : Nat) (w : Word) (s : State) : (setReg a w s).yoke = s.yoke := rfl
@[simp] theorem setReg_aflows (a : Nat) (w : Word) (s : State) : (setReg a w s).aflows = s.aflows := rfl
@[simp] theorem setReg_tdms (a : Nat) (w : Word) (s : State) : (setReg a w s).tdms = s.tdms := rfl
@[simp] theorem setReg_ic (a : Nat) (w : Word) (s : State) : (setReg a w s).ic = s.ic := rfl
@[simp] theorem setReg_lanes (a : Nat) (w : Word) (s : State) : (setReg a w s).lanes = s.lanes := rfl
@[simp] theorem setReg_host (a : Nat) (w : Word) (s : State) : (setReg a w s).host = s.host := rfl
@[simp] theorem setReg_fw (a : Nat) (w : Word) (s : State) : (setReg a w s).fw = s.fw := rfl
@[simp] theorem setReg_tack (a : Nat) (w : Word) (s : State) : (setReg a w s).tack = s.tack := rfl
@[simp] theorem setReg_services (a : Nat) (w : Word) (s : State) : (setReg a w s).services = s.services := rfl

@[simp] theorem dramSet_variant (d a : Nat) (b : Byte) (s : State) : (dramSet d a b s).variant = s.variant := rfl
@[simp] theorem dramSet_pending (d a : Nat) (b : Byte) (s : State) : (dramSet d a b s).pending = s.pending := rfl
@[simp] theorem dramSet_out (d a : Nat) (b : Byte) (s : State) : (dramSet d a b s).out = s.out := rfl
@[simp] theorem dramSet_fresh (d a : Nat) (b : Byte) (s : State) : (dramSet d a b s).fresh = s.fresh := rfl
@[simp] theorem dramSet_pwr (d a : Nat) (b : Byte) (s : State) : (dramSet d a b s).pwr = s.pwr := rfl
@[simp] theorem dramSet_time (d a : Nat) (b : Byte) (s : State) : (dramSet d a b s).time = s.time := rfl
@[simp] theorem dramSet_pages (d a : Nat) (b : Byte) (s : State) : (dramSet d a b s).pages = s.pages := rfl
@[simp] theorem dramSet_ctrs (d a : Nat) (b : Byte) (s : State) : (dramSet d a b s).ctrs = s.ctrs := rfl
@[simp] theorem dramSet_hold (d a : Nat) (b : Byte) (s : State) : (dramSet d a b s).hold = s.hold := rfl
@[simp] theorem dramSet_staged (d a : Nat) (b : Byte) (s : State) : (dramSet d a b s).staged = s.staged := rfl
@[simp] theorem dramSet_live (d a : Nat) (b : Byte) (s : State) : (dramSet d a b s).live = s.live := rfl
@[simp] theorem dramSet_eff (d a : Nat) (b : Byte) (s : State) : (dramSet d a b s).eff = s.eff := rfl
@[simp] theorem dramSet_regs (d a : Nat) (b : Byte) (s : State) : (dramSet d a b s).regs = s.regs := rfl
@[simp] theorem dramSet_ctab (d a : Nat) (b : Byte) (s : State) : (dramSet d a b s).ctab = s.ctab := rfl
@[simp] theorem dramSet_sets (d a : Nat) (b : Byte) (s : State) : (dramSet d a b s).sets = s.sets := rfl
@[simp] theorem dramSet_queue (d a : Nat) (b : Byte) (s : State) : (dramSet d a b s).queue = s.queue := rfl
@[simp] theorem dramSet_checking (d a : Nat) (b : Byte) (s : State) : (dramSet d a b s).checking = s.checking := rfl
@[simp] theorem dramSet_waits (d a : Nat) (b : Byte) (s : State) : (dramSet d a b s).waits = s.waits := rfl
@[simp] theorem dramSet_chans (d a : Nat) (b : Byte) (s : State) : (dramSet d a b s).chans = s.chans := rfl
@[simp] theorem dramSet_svcs (d a : Nat) (b : Byte) (s : State) : (dramSet d a b s).svcs = s.svcs := rfl
@[simp] theorem dramSet_flows (d a : Nat) (b : Byte) (s : State) : (dramSet d a b s).flows = s.flows := rfl
@[simp] theorem dramSet_stops (d a : Nat) (b : Byte) (s : State) : (dramSet d a b s).stops = s.stops := rfl
@[simp] theorem dramSet_quench (d a : Nat) (b : Byte) (s : State) : (dramSet d a b s).quench = s.quench := rfl
@[simp] theorem dramSet_ports (d a : Nat) (b : Byte) (s : State) : (dramSet d a b s).ports = s.ports := rfl
@[simp] theorem dramSet_slots (d a : Nat) (b : Byte) (s : State) : (dramSet d a b s).slots = s.slots := rfl
@[simp] theorem dramSet_slotPx (d a : Nat) (b : Byte) (s : State) : (dramSet d a b s).slotPx = s.slotPx := rfl
@[simp] theorem dramSet_entries (d a : Nat) (b : Byte) (s : State) : (dramSet d a b s).entries = s.entries := rfl
@[simp] theorem dramSet_merges (d a : Nat) (b : Byte) (s : State) : (dramSet d a b s).merges = s.merges := rfl
@[simp] theorem dramSet_groups (d a : Nat) (b : Byte) (s : State) : (dramSet d a b s).groups = s.groups := rfl
@[simp] theorem dramSet_layers (d a : Nat) (b : Byte) (s : State) : (dramSet d a b s).layers = s.layers := rfl
@[simp] theorem dramSet_canvPx (d a : Nat) (b : Byte) (s : State) : (dramSet d a b s).canvPx = s.canvPx := rfl
@[simp] theorem dramSet_cachePx (d a : Nat) (b : Byte) (s : State) : (dramSet d a b s).cachePx = s.cachePx := rfl
@[simp] theorem dramSet_decs (d a : Nat) (b : Byte) (s : State) : (dramSet d a b s).decs = s.decs := rfl
@[simp] theorem dramSet_dsps (d a : Nat) (b : Byte) (s : State) : (dramSet d a b s).dsps = s.dsps := rfl
@[simp] theorem dramSet_mcs (d a : Nat) (b : Byte) (s : State) : (dramSet d a b s).mcs = s.mcs := rfl
@[simp] theorem dramSet_poison (d a : Nat) (b : Byte) (s : State) : (dramSet d a b s).poison = s.poison := rfl
@[simp] theorem dramSet_broken (d a : Nat) (b : Byte) (s : State) : (dramSet d a b s).broken = s.broken := rfl
@[simp] theorem dramSet_soft (d a : Nat) (b : Byte) (s : State) : (dramSet d a b s).soft = s.soft := rfl
@[simp] theorem dramSet_yoke (d a : Nat) (b : Byte) (s : State) : (dramSet d a b s).yoke = s.yoke := rfl
@[simp] theorem dramSet_aflows (d a : Nat) (b : Byte) (s : State) : (dramSet d a b s).aflows = s.aflows := rfl
@[simp] theorem dramSet_tdms (d a : Nat) (b : Byte) (s : State) : (dramSet d a b s).tdms = s.tdms := rfl
@[simp] theorem dramSet_ic (d a : Nat) (b : Byte) (s : State) : (dramSet d a b s).ic = s.ic := rfl
@[simp] theorem dramSet_lanes (d a : Nat) (b : Byte) (s : State) : (dramSet d a b s).lanes = s.lanes := rfl
@[simp] theorem dramSet_host (d a : Nat) (b : Byte) (s : State) : (dramSet d a b s).host = s.host := rfl
@[simp] theorem dramSet_fw (d a : Nat) (b : Byte) (s : State) : (dramSet d a b s).fw = s.fw := rfl
@[simp] theorem dramSet_tack (d a : Nat) (b : Byte) (s : State) : (dramSet d a b s).tack = s.tack := rfl
@[simp] theorem dramSet_services (d a : Nat) (b : Byte) (s : State) : (dramSet d a b s).services = s.services := rfl

@[simp] theorem modChan_variant (ch : Nat) (f : Chan → Chan) (s : State) : (modChan ch f s).variant = s.variant := rfl
@[simp] theorem modChan_pending (ch : Nat) (f : Chan → Chan) (s : State) : (modChan ch f s).pending = s.pending := rfl
@[simp] theorem modChan_out (ch : Nat) (f : Chan → Chan) (s : State) : (modChan ch f s).out = s.out := rfl
@[simp] theorem modChan_fresh (ch : Nat) (f : Chan → Chan) (s : State) : (modChan ch f s).fresh = s.fresh := rfl
@[simp] theorem modChan_pwr (ch : Nat) (f : Chan → Chan) (s : State) : (modChan ch f s).pwr = s.pwr := rfl
@[simp] theorem modChan_time (ch : Nat) (f : Chan → Chan) (s : State) : (modChan ch f s).time = s.time := rfl
@[simp] theorem modChan_pages (ch : Nat) (f : Chan → Chan) (s : State) : (modChan ch f s).pages = s.pages := rfl
@[simp] theorem modChan_ctrs (ch : Nat) (f : Chan → Chan) (s : State) : (modChan ch f s).ctrs = s.ctrs := rfl
@[simp] theorem modChan_hold (ch : Nat) (f : Chan → Chan) (s : State) : (modChan ch f s).hold = s.hold := rfl
@[simp] theorem modChan_staged (ch : Nat) (f : Chan → Chan) (s : State) : (modChan ch f s).staged = s.staged := rfl
@[simp] theorem modChan_live (ch : Nat) (f : Chan → Chan) (s : State) : (modChan ch f s).live = s.live := rfl
@[simp] theorem modChan_eff (ch : Nat) (f : Chan → Chan) (s : State) : (modChan ch f s).eff = s.eff := rfl
@[simp] theorem modChan_regs (ch : Nat) (f : Chan → Chan) (s : State) : (modChan ch f s).regs = s.regs := rfl
@[simp] theorem modChan_ctab (ch : Nat) (f : Chan → Chan) (s : State) : (modChan ch f s).ctab = s.ctab := rfl
@[simp] theorem modChan_sets (ch : Nat) (f : Chan → Chan) (s : State) : (modChan ch f s).sets = s.sets := rfl
@[simp] theorem modChan_queue (ch : Nat) (f : Chan → Chan) (s : State) : (modChan ch f s).queue = s.queue := rfl
@[simp] theorem modChan_checking (ch : Nat) (f : Chan → Chan) (s : State) : (modChan ch f s).checking = s.checking := rfl
@[simp] theorem modChan_waits (ch : Nat) (f : Chan → Chan) (s : State) : (modChan ch f s).waits = s.waits := rfl
@[simp] theorem modChan_svcs (ch : Nat) (f : Chan → Chan) (s : State) : (modChan ch f s).svcs = s.svcs := rfl
@[simp] theorem modChan_flows (ch : Nat) (f : Chan → Chan) (s : State) : (modChan ch f s).flows = s.flows := rfl
@[simp] theorem modChan_stops (ch : Nat) (f : Chan → Chan) (s : State) : (modChan ch f s).stops = s.stops := rfl
@[simp] theorem modChan_quench (ch : Nat) (f : Chan → Chan) (s : State) : (modChan ch f s).quench = s.quench := rfl
@[simp] theorem modChan_ports (ch : Nat) (f : Chan → Chan) (s : State) : (modChan ch f s).ports = s.ports := rfl
@[simp] theorem modChan_slots (ch : Nat) (f : Chan → Chan) (s : State) : (modChan ch f s).slots = s.slots := rfl
@[simp] theorem modChan_slotPx (ch : Nat) (f : Chan → Chan) (s : State) : (modChan ch f s).slotPx = s.slotPx := rfl
@[simp] theorem modChan_entries (ch : Nat) (f : Chan → Chan) (s : State) : (modChan ch f s).entries = s.entries := rfl
@[simp] theorem modChan_merges (ch : Nat) (f : Chan → Chan) (s : State) : (modChan ch f s).merges = s.merges := rfl
@[simp] theorem modChan_groups (ch : Nat) (f : Chan → Chan) (s : State) : (modChan ch f s).groups = s.groups := rfl
@[simp] theorem modChan_layers (ch : Nat) (f : Chan → Chan) (s : State) : (modChan ch f s).layers = s.layers := rfl
@[simp] theorem modChan_canvPx (ch : Nat) (f : Chan → Chan) (s : State) : (modChan ch f s).canvPx = s.canvPx := rfl
@[simp] theorem modChan_cachePx (ch : Nat) (f : Chan → Chan) (s : State) : (modChan ch f s).cachePx = s.cachePx := rfl
@[simp] theorem modChan_decs (ch : Nat) (f : Chan → Chan) (s : State) : (modChan ch f s).decs = s.decs := rfl
@[simp] theorem modChan_dsps (ch : Nat) (f : Chan → Chan) (s : State) : (modChan ch f s).dsps = s.dsps := rfl
@[simp] theorem modChan_mcs (ch : Nat) (f : Chan → Chan) (s : State) : (modChan ch f s).mcs = s.mcs := rfl
@[simp] theorem modChan_dram (ch : Nat) (f : Chan → Chan) (s : State) : (modChan ch f s).dram = s.dram := rfl
@[simp] theorem modChan_poison (ch : Nat) (f : Chan → Chan) (s : State) : (modChan ch f s).poison = s.poison := rfl
@[simp] theorem modChan_broken (ch : Nat) (f : Chan → Chan) (s : State) : (modChan ch f s).broken = s.broken := rfl
@[simp] theorem modChan_soft (ch : Nat) (f : Chan → Chan) (s : State) : (modChan ch f s).soft = s.soft := rfl
@[simp] theorem modChan_yoke (ch : Nat) (f : Chan → Chan) (s : State) : (modChan ch f s).yoke = s.yoke := rfl
@[simp] theorem modChan_aflows (ch : Nat) (f : Chan → Chan) (s : State) : (modChan ch f s).aflows = s.aflows := rfl
@[simp] theorem modChan_tdms (ch : Nat) (f : Chan → Chan) (s : State) : (modChan ch f s).tdms = s.tdms := rfl
@[simp] theorem modChan_ic (ch : Nat) (f : Chan → Chan) (s : State) : (modChan ch f s).ic = s.ic := rfl
@[simp] theorem modChan_lanes (ch : Nat) (f : Chan → Chan) (s : State) : (modChan ch f s).lanes = s.lanes := rfl
@[simp] theorem modChan_host (ch : Nat) (f : Chan → Chan) (s : State) : (modChan ch f s).host = s.host := rfl
@[simp] theorem modChan_fw (ch : Nat) (f : Chan → Chan) (s : State) : (modChan ch f s).fw = s.fw := rfl
@[simp] theorem modChan_tack (ch : Nat) (f : Chan → Chan) (s : State) : (modChan ch f s).tack = s.tack := rfl
@[simp] theorem modChan_services (ch : Nat) (f : Chan → Chan) (s : State) : (modChan ch f s).services = s.services := rfl

@[simp] theorem modPic_variant (ch n : Nat) (f : Pic → Pic) (s : State) : (modPic ch n f s).variant = s.variant := rfl
@[simp] theorem modPic_pending (ch n : Nat) (f : Pic → Pic) (s : State) : (modPic ch n f s).pending = s.pending := rfl
@[simp] theorem modPic_out (ch n : Nat) (f : Pic → Pic) (s : State) : (modPic ch n f s).out = s.out := rfl
@[simp] theorem modPic_fresh (ch n : Nat) (f : Pic → Pic) (s : State) : (modPic ch n f s).fresh = s.fresh := rfl
@[simp] theorem modPic_pwr (ch n : Nat) (f : Pic → Pic) (s : State) : (modPic ch n f s).pwr = s.pwr := rfl
@[simp] theorem modPic_time (ch n : Nat) (f : Pic → Pic) (s : State) : (modPic ch n f s).time = s.time := rfl
@[simp] theorem modPic_pages (ch n : Nat) (f : Pic → Pic) (s : State) : (modPic ch n f s).pages = s.pages := rfl
@[simp] theorem modPic_ctrs (ch n : Nat) (f : Pic → Pic) (s : State) : (modPic ch n f s).ctrs = s.ctrs := rfl
@[simp] theorem modPic_hold (ch n : Nat) (f : Pic → Pic) (s : State) : (modPic ch n f s).hold = s.hold := rfl
@[simp] theorem modPic_staged (ch n : Nat) (f : Pic → Pic) (s : State) : (modPic ch n f s).staged = s.staged := rfl
@[simp] theorem modPic_live (ch n : Nat) (f : Pic → Pic) (s : State) : (modPic ch n f s).live = s.live := rfl
@[simp] theorem modPic_eff (ch n : Nat) (f : Pic → Pic) (s : State) : (modPic ch n f s).eff = s.eff := rfl
@[simp] theorem modPic_regs (ch n : Nat) (f : Pic → Pic) (s : State) : (modPic ch n f s).regs = s.regs := rfl
@[simp] theorem modPic_ctab (ch n : Nat) (f : Pic → Pic) (s : State) : (modPic ch n f s).ctab = s.ctab := rfl
@[simp] theorem modPic_sets (ch n : Nat) (f : Pic → Pic) (s : State) : (modPic ch n f s).sets = s.sets := rfl
@[simp] theorem modPic_queue (ch n : Nat) (f : Pic → Pic) (s : State) : (modPic ch n f s).queue = s.queue := rfl
@[simp] theorem modPic_checking (ch n : Nat) (f : Pic → Pic) (s : State) : (modPic ch n f s).checking = s.checking := rfl
@[simp] theorem modPic_waits (ch n : Nat) (f : Pic → Pic) (s : State) : (modPic ch n f s).waits = s.waits := rfl
@[simp] theorem modPic_svcs (ch n : Nat) (f : Pic → Pic) (s : State) : (modPic ch n f s).svcs = s.svcs := rfl
@[simp] theorem modPic_flows (ch n : Nat) (f : Pic → Pic) (s : State) : (modPic ch n f s).flows = s.flows := rfl
@[simp] theorem modPic_stops (ch n : Nat) (f : Pic → Pic) (s : State) : (modPic ch n f s).stops = s.stops := rfl
@[simp] theorem modPic_quench (ch n : Nat) (f : Pic → Pic) (s : State) : (modPic ch n f s).quench = s.quench := rfl
@[simp] theorem modPic_ports (ch n : Nat) (f : Pic → Pic) (s : State) : (modPic ch n f s).ports = s.ports := rfl
@[simp] theorem modPic_slots (ch n : Nat) (f : Pic → Pic) (s : State) : (modPic ch n f s).slots = s.slots := rfl
@[simp] theorem modPic_slotPx (ch n : Nat) (f : Pic → Pic) (s : State) : (modPic ch n f s).slotPx = s.slotPx := rfl
@[simp] theorem modPic_entries (ch n : Nat) (f : Pic → Pic) (s : State) : (modPic ch n f s).entries = s.entries := rfl
@[simp] theorem modPic_merges (ch n : Nat) (f : Pic → Pic) (s : State) : (modPic ch n f s).merges = s.merges := rfl
@[simp] theorem modPic_groups (ch n : Nat) (f : Pic → Pic) (s : State) : (modPic ch n f s).groups = s.groups := rfl
@[simp] theorem modPic_layers (ch n : Nat) (f : Pic → Pic) (s : State) : (modPic ch n f s).layers = s.layers := rfl
@[simp] theorem modPic_canvPx (ch n : Nat) (f : Pic → Pic) (s : State) : (modPic ch n f s).canvPx = s.canvPx := rfl
@[simp] theorem modPic_cachePx (ch n : Nat) (f : Pic → Pic) (s : State) : (modPic ch n f s).cachePx = s.cachePx := rfl
@[simp] theorem modPic_decs (ch n : Nat) (f : Pic → Pic) (s : State) : (modPic ch n f s).decs = s.decs := rfl
@[simp] theorem modPic_dsps (ch n : Nat) (f : Pic → Pic) (s : State) : (modPic ch n f s).dsps = s.dsps := rfl
@[simp] theorem modPic_mcs (ch n : Nat) (f : Pic → Pic) (s : State) : (modPic ch n f s).mcs = s.mcs := rfl
@[simp] theorem modPic_dram (ch n : Nat) (f : Pic → Pic) (s : State) : (modPic ch n f s).dram = s.dram := rfl
@[simp] theorem modPic_poison (ch n : Nat) (f : Pic → Pic) (s : State) : (modPic ch n f s).poison = s.poison := rfl
@[simp] theorem modPic_broken (ch n : Nat) (f : Pic → Pic) (s : State) : (modPic ch n f s).broken = s.broken := rfl
@[simp] theorem modPic_soft (ch n : Nat) (f : Pic → Pic) (s : State) : (modPic ch n f s).soft = s.soft := rfl
@[simp] theorem modPic_yoke (ch n : Nat) (f : Pic → Pic) (s : State) : (modPic ch n f s).yoke = s.yoke := rfl
@[simp] theorem modPic_aflows (ch n : Nat) (f : Pic → Pic) (s : State) : (modPic ch n f s).aflows = s.aflows := rfl
@[simp] theorem modPic_tdms (ch n : Nat) (f : Pic → Pic) (s : State) : (modPic ch n f s).tdms = s.tdms := rfl
@[simp] theorem modPic_ic (ch n : Nat) (f : Pic → Pic) (s : State) : (modPic ch n f s).ic = s.ic := rfl
@[simp] theorem modPic_lanes (ch n : Nat) (f : Pic → Pic) (s : State) : (modPic ch n f s).lanes = s.lanes := rfl
@[simp] theorem modPic_host (ch n : Nat) (f : Pic → Pic) (s : State) : (modPic ch n f s).host = s.host := rfl
@[simp] theorem modPic_fw (ch n : Nat) (f : Pic → Pic) (s : State) : (modPic ch n f s).fw = s.fw := rfl
@[simp] theorem modPic_tack (ch n : Nat) (f : Pic → Pic) (s : State) : (modPic ch n f s).tack = s.tack := rfl
@[simp] theorem modPic_services (ch n : Nat) (f : Pic → Pic) (s : State) : (modPic ch n f s).services = s.services := rfl

@[simp] theorem modFur_variant (ch n k : Nat) (f : Fur → Fur) (s : State) : (modFur ch n k f s).variant = s.variant := rfl
@[simp] theorem modFur_pending (ch n k : Nat) (f : Fur → Fur) (s : State) : (modFur ch n k f s).pending = s.pending := rfl
@[simp] theorem modFur_out (ch n k : Nat) (f : Fur → Fur) (s : State) : (modFur ch n k f s).out = s.out := rfl
@[simp] theorem modFur_fresh (ch n k : Nat) (f : Fur → Fur) (s : State) : (modFur ch n k f s).fresh = s.fresh := rfl
@[simp] theorem modFur_pwr (ch n k : Nat) (f : Fur → Fur) (s : State) : (modFur ch n k f s).pwr = s.pwr := rfl
@[simp] theorem modFur_time (ch n k : Nat) (f : Fur → Fur) (s : State) : (modFur ch n k f s).time = s.time := rfl
@[simp] theorem modFur_pages (ch n k : Nat) (f : Fur → Fur) (s : State) : (modFur ch n k f s).pages = s.pages := rfl
@[simp] theorem modFur_ctrs (ch n k : Nat) (f : Fur → Fur) (s : State) : (modFur ch n k f s).ctrs = s.ctrs := rfl
@[simp] theorem modFur_hold (ch n k : Nat) (f : Fur → Fur) (s : State) : (modFur ch n k f s).hold = s.hold := rfl
@[simp] theorem modFur_staged (ch n k : Nat) (f : Fur → Fur) (s : State) : (modFur ch n k f s).staged = s.staged := rfl
@[simp] theorem modFur_live (ch n k : Nat) (f : Fur → Fur) (s : State) : (modFur ch n k f s).live = s.live := rfl
@[simp] theorem modFur_eff (ch n k : Nat) (f : Fur → Fur) (s : State) : (modFur ch n k f s).eff = s.eff := rfl
@[simp] theorem modFur_regs (ch n k : Nat) (f : Fur → Fur) (s : State) : (modFur ch n k f s).regs = s.regs := rfl
@[simp] theorem modFur_ctab (ch n k : Nat) (f : Fur → Fur) (s : State) : (modFur ch n k f s).ctab = s.ctab := rfl
@[simp] theorem modFur_sets (ch n k : Nat) (f : Fur → Fur) (s : State) : (modFur ch n k f s).sets = s.sets := rfl
@[simp] theorem modFur_queue (ch n k : Nat) (f : Fur → Fur) (s : State) : (modFur ch n k f s).queue = s.queue := rfl
@[simp] theorem modFur_checking (ch n k : Nat) (f : Fur → Fur) (s : State) : (modFur ch n k f s).checking = s.checking := rfl
@[simp] theorem modFur_waits (ch n k : Nat) (f : Fur → Fur) (s : State) : (modFur ch n k f s).waits = s.waits := rfl
@[simp] theorem modFur_svcs (ch n k : Nat) (f : Fur → Fur) (s : State) : (modFur ch n k f s).svcs = s.svcs := rfl
@[simp] theorem modFur_flows (ch n k : Nat) (f : Fur → Fur) (s : State) : (modFur ch n k f s).flows = s.flows := rfl
@[simp] theorem modFur_stops (ch n k : Nat) (f : Fur → Fur) (s : State) : (modFur ch n k f s).stops = s.stops := rfl
@[simp] theorem modFur_quench (ch n k : Nat) (f : Fur → Fur) (s : State) : (modFur ch n k f s).quench = s.quench := rfl
@[simp] theorem modFur_ports (ch n k : Nat) (f : Fur → Fur) (s : State) : (modFur ch n k f s).ports = s.ports := rfl
@[simp] theorem modFur_slots (ch n k : Nat) (f : Fur → Fur) (s : State) : (modFur ch n k f s).slots = s.slots := rfl
@[simp] theorem modFur_slotPx (ch n k : Nat) (f : Fur → Fur) (s : State) : (modFur ch n k f s).slotPx = s.slotPx := rfl
@[simp] theorem modFur_entries (ch n k : Nat) (f : Fur → Fur) (s : State) : (modFur ch n k f s).entries = s.entries := rfl
@[simp] theorem modFur_merges (ch n k : Nat) (f : Fur → Fur) (s : State) : (modFur ch n k f s).merges = s.merges := rfl
@[simp] theorem modFur_groups (ch n k : Nat) (f : Fur → Fur) (s : State) : (modFur ch n k f s).groups = s.groups := rfl
@[simp] theorem modFur_layers (ch n k : Nat) (f : Fur → Fur) (s : State) : (modFur ch n k f s).layers = s.layers := rfl
@[simp] theorem modFur_canvPx (ch n k : Nat) (f : Fur → Fur) (s : State) : (modFur ch n k f s).canvPx = s.canvPx := rfl
@[simp] theorem modFur_cachePx (ch n k : Nat) (f : Fur → Fur) (s : State) : (modFur ch n k f s).cachePx = s.cachePx := rfl
@[simp] theorem modFur_decs (ch n k : Nat) (f : Fur → Fur) (s : State) : (modFur ch n k f s).decs = s.decs := rfl
@[simp] theorem modFur_dsps (ch n k : Nat) (f : Fur → Fur) (s : State) : (modFur ch n k f s).dsps = s.dsps := rfl
@[simp] theorem modFur_mcs (ch n k : Nat) (f : Fur → Fur) (s : State) : (modFur ch n k f s).mcs = s.mcs := rfl
@[simp] theorem modFur_dram (ch n k : Nat) (f : Fur → Fur) (s : State) : (modFur ch n k f s).dram = s.dram := rfl
@[simp] theorem modFur_poison (ch n k : Nat) (f : Fur → Fur) (s : State) : (modFur ch n k f s).poison = s.poison := rfl
@[simp] theorem modFur_broken (ch n k : Nat) (f : Fur → Fur) (s : State) : (modFur ch n k f s).broken = s.broken := rfl
@[simp] theorem modFur_soft (ch n k : Nat) (f : Fur → Fur) (s : State) : (modFur ch n k f s).soft = s.soft := rfl
@[simp] theorem modFur_yoke (ch n k : Nat) (f : Fur → Fur) (s : State) : (modFur ch n k f s).yoke = s.yoke := rfl
@[simp] theorem modFur_aflows (ch n k : Nat) (f : Fur → Fur) (s : State) : (modFur ch n k f s).aflows = s.aflows := rfl
@[simp] theorem modFur_tdms (ch n k : Nat) (f : Fur → Fur) (s : State) : (modFur ch n k f s).tdms = s.tdms := rfl
@[simp] theorem modFur_ic (ch n k : Nat) (f : Fur → Fur) (s : State) : (modFur ch n k f s).ic = s.ic := rfl
@[simp] theorem modFur_lanes (ch n k : Nat) (f : Fur → Fur) (s : State) : (modFur ch n k f s).lanes = s.lanes := rfl
@[simp] theorem modFur_host (ch n k : Nat) (f : Fur → Fur) (s : State) : (modFur ch n k f s).host = s.host := rfl
@[simp] theorem modFur_fw (ch n k : Nat) (f : Fur → Fur) (s : State) : (modFur ch n k f s).fw = s.fw := rfl
@[simp] theorem modFur_tack (ch n k : Nat) (f : Fur → Fur) (s : State) : (modFur ch n k f s).tack = s.tack := rfl
@[simp] theorem modFur_services (ch n k : Nat) (f : Fur → Fur) (s : State) : (modFur ch n k f s).services = s.services := rfl

@[simp] theorem modYch_variant (ch : Nat) (f : YCh → YCh) (s : State) : (modYch ch f s).variant = s.variant := rfl
@[simp] theorem modYch_pending (ch : Nat) (f : YCh → YCh) (s : State) : (modYch ch f s).pending = s.pending := rfl
@[simp] theorem modYch_out (ch : Nat) (f : YCh → YCh) (s : State) : (modYch ch f s).out = s.out := rfl
@[simp] theorem modYch_fresh (ch : Nat) (f : YCh → YCh) (s : State) : (modYch ch f s).fresh = s.fresh := rfl
@[simp] theorem modYch_pwr (ch : Nat) (f : YCh → YCh) (s : State) : (modYch ch f s).pwr = s.pwr := rfl
@[simp] theorem modYch_time (ch : Nat) (f : YCh → YCh) (s : State) : (modYch ch f s).time = s.time := rfl
@[simp] theorem modYch_pages (ch : Nat) (f : YCh → YCh) (s : State) : (modYch ch f s).pages = s.pages := rfl
@[simp] theorem modYch_ctrs (ch : Nat) (f : YCh → YCh) (s : State) : (modYch ch f s).ctrs = s.ctrs := rfl
@[simp] theorem modYch_hold (ch : Nat) (f : YCh → YCh) (s : State) : (modYch ch f s).hold = s.hold := rfl
@[simp] theorem modYch_staged (ch : Nat) (f : YCh → YCh) (s : State) : (modYch ch f s).staged = s.staged := rfl
@[simp] theorem modYch_live (ch : Nat) (f : YCh → YCh) (s : State) : (modYch ch f s).live = s.live := rfl
@[simp] theorem modYch_eff (ch : Nat) (f : YCh → YCh) (s : State) : (modYch ch f s).eff = s.eff := rfl
@[simp] theorem modYch_regs (ch : Nat) (f : YCh → YCh) (s : State) : (modYch ch f s).regs = s.regs := rfl
@[simp] theorem modYch_ctab (ch : Nat) (f : YCh → YCh) (s : State) : (modYch ch f s).ctab = s.ctab := rfl
@[simp] theorem modYch_sets (ch : Nat) (f : YCh → YCh) (s : State) : (modYch ch f s).sets = s.sets := rfl
@[simp] theorem modYch_queue (ch : Nat) (f : YCh → YCh) (s : State) : (modYch ch f s).queue = s.queue := rfl
@[simp] theorem modYch_checking (ch : Nat) (f : YCh → YCh) (s : State) : (modYch ch f s).checking = s.checking := rfl
@[simp] theorem modYch_waits (ch : Nat) (f : YCh → YCh) (s : State) : (modYch ch f s).waits = s.waits := rfl
@[simp] theorem modYch_chans (ch : Nat) (f : YCh → YCh) (s : State) : (modYch ch f s).chans = s.chans := rfl
@[simp] theorem modYch_svcs (ch : Nat) (f : YCh → YCh) (s : State) : (modYch ch f s).svcs = s.svcs := rfl
@[simp] theorem modYch_flows (ch : Nat) (f : YCh → YCh) (s : State) : (modYch ch f s).flows = s.flows := rfl
@[simp] theorem modYch_stops (ch : Nat) (f : YCh → YCh) (s : State) : (modYch ch f s).stops = s.stops := rfl
@[simp] theorem modYch_quench (ch : Nat) (f : YCh → YCh) (s : State) : (modYch ch f s).quench = s.quench := rfl
@[simp] theorem modYch_ports (ch : Nat) (f : YCh → YCh) (s : State) : (modYch ch f s).ports = s.ports := rfl
@[simp] theorem modYch_slots (ch : Nat) (f : YCh → YCh) (s : State) : (modYch ch f s).slots = s.slots := rfl
@[simp] theorem modYch_slotPx (ch : Nat) (f : YCh → YCh) (s : State) : (modYch ch f s).slotPx = s.slotPx := rfl
@[simp] theorem modYch_entries (ch : Nat) (f : YCh → YCh) (s : State) : (modYch ch f s).entries = s.entries := rfl
@[simp] theorem modYch_merges (ch : Nat) (f : YCh → YCh) (s : State) : (modYch ch f s).merges = s.merges := rfl
@[simp] theorem modYch_groups (ch : Nat) (f : YCh → YCh) (s : State) : (modYch ch f s).groups = s.groups := rfl
@[simp] theorem modYch_layers (ch : Nat) (f : YCh → YCh) (s : State) : (modYch ch f s).layers = s.layers := rfl
@[simp] theorem modYch_canvPx (ch : Nat) (f : YCh → YCh) (s : State) : (modYch ch f s).canvPx = s.canvPx := rfl
@[simp] theorem modYch_cachePx (ch : Nat) (f : YCh → YCh) (s : State) : (modYch ch f s).cachePx = s.cachePx := rfl
@[simp] theorem modYch_decs (ch : Nat) (f : YCh → YCh) (s : State) : (modYch ch f s).decs = s.decs := rfl
@[simp] theorem modYch_dsps (ch : Nat) (f : YCh → YCh) (s : State) : (modYch ch f s).dsps = s.dsps := rfl
@[simp] theorem modYch_mcs (ch : Nat) (f : YCh → YCh) (s : State) : (modYch ch f s).mcs = s.mcs := rfl
@[simp] theorem modYch_dram (ch : Nat) (f : YCh → YCh) (s : State) : (modYch ch f s).dram = s.dram := rfl
@[simp] theorem modYch_poison (ch : Nat) (f : YCh → YCh) (s : State) : (modYch ch f s).poison = s.poison := rfl
@[simp] theorem modYch_broken (ch : Nat) (f : YCh → YCh) (s : State) : (modYch ch f s).broken = s.broken := rfl
@[simp] theorem modYch_soft (ch : Nat) (f : YCh → YCh) (s : State) : (modYch ch f s).soft = s.soft := rfl
@[simp] theorem modYch_aflows (ch : Nat) (f : YCh → YCh) (s : State) : (modYch ch f s).aflows = s.aflows := rfl
@[simp] theorem modYch_tdms (ch : Nat) (f : YCh → YCh) (s : State) : (modYch ch f s).tdms = s.tdms := rfl
@[simp] theorem modYch_ic (ch : Nat) (f : YCh → YCh) (s : State) : (modYch ch f s).ic = s.ic := rfl
@[simp] theorem modYch_lanes (ch : Nat) (f : YCh → YCh) (s : State) : (modYch ch f s).lanes = s.lanes := rfl
@[simp] theorem modYch_host (ch : Nat) (f : YCh → YCh) (s : State) : (modYch ch f s).host = s.host := rfl
@[simp] theorem modYch_fw (ch : Nat) (f : YCh → YCh) (s : State) : (modYch ch f s).fw = s.fw := rfl
@[simp] theorem modYch_tack (ch : Nat) (f : YCh → YCh) (s : State) : (modYch ch f s).tack = s.tack := rfl
@[simp] theorem modYch_services (ch : Nat) (f : YCh → YCh) (s : State) : (modYch ch f s).services = s.services := rfl

@[simp] theorem modMc_variant (d : Nat) (f : Mc → Mc) (s : State) : (modMc d f s).variant = s.variant := rfl
@[simp] theorem modMc_pending (d : Nat) (f : Mc → Mc) (s : State) : (modMc d f s).pending = s.pending := rfl
@[simp] theorem modMc_out (d : Nat) (f : Mc → Mc) (s : State) : (modMc d f s).out = s.out := rfl
@[simp] theorem modMc_fresh (d : Nat) (f : Mc → Mc) (s : State) : (modMc d f s).fresh = s.fresh := rfl
@[simp] theorem modMc_pwr (d : Nat) (f : Mc → Mc) (s : State) : (modMc d f s).pwr = s.pwr := rfl
@[simp] theorem modMc_time (d : Nat) (f : Mc → Mc) (s : State) : (modMc d f s).time = s.time := rfl
@[simp] theorem modMc_pages (d : Nat) (f : Mc → Mc) (s : State) : (modMc d f s).pages = s.pages := rfl
@[simp] theorem modMc_ctrs (d : Nat) (f : Mc → Mc) (s : State) : (modMc d f s).ctrs = s.ctrs := rfl
@[simp] theorem modMc_hold (d : Nat) (f : Mc → Mc) (s : State) : (modMc d f s).hold = s.hold := rfl
@[simp] theorem modMc_staged (d : Nat) (f : Mc → Mc) (s : State) : (modMc d f s).staged = s.staged := rfl
@[simp] theorem modMc_live (d : Nat) (f : Mc → Mc) (s : State) : (modMc d f s).live = s.live := rfl
@[simp] theorem modMc_eff (d : Nat) (f : Mc → Mc) (s : State) : (modMc d f s).eff = s.eff := rfl
@[simp] theorem modMc_regs (d : Nat) (f : Mc → Mc) (s : State) : (modMc d f s).regs = s.regs := rfl
@[simp] theorem modMc_ctab (d : Nat) (f : Mc → Mc) (s : State) : (modMc d f s).ctab = s.ctab := rfl
@[simp] theorem modMc_sets (d : Nat) (f : Mc → Mc) (s : State) : (modMc d f s).sets = s.sets := rfl
@[simp] theorem modMc_queue (d : Nat) (f : Mc → Mc) (s : State) : (modMc d f s).queue = s.queue := rfl
@[simp] theorem modMc_checking (d : Nat) (f : Mc → Mc) (s : State) : (modMc d f s).checking = s.checking := rfl
@[simp] theorem modMc_waits (d : Nat) (f : Mc → Mc) (s : State) : (modMc d f s).waits = s.waits := rfl
@[simp] theorem modMc_chans (d : Nat) (f : Mc → Mc) (s : State) : (modMc d f s).chans = s.chans := rfl
@[simp] theorem modMc_svcs (d : Nat) (f : Mc → Mc) (s : State) : (modMc d f s).svcs = s.svcs := rfl
@[simp] theorem modMc_flows (d : Nat) (f : Mc → Mc) (s : State) : (modMc d f s).flows = s.flows := rfl
@[simp] theorem modMc_stops (d : Nat) (f : Mc → Mc) (s : State) : (modMc d f s).stops = s.stops := rfl
@[simp] theorem modMc_quench (d : Nat) (f : Mc → Mc) (s : State) : (modMc d f s).quench = s.quench := rfl
@[simp] theorem modMc_ports (d : Nat) (f : Mc → Mc) (s : State) : (modMc d f s).ports = s.ports := rfl
@[simp] theorem modMc_slots (d : Nat) (f : Mc → Mc) (s : State) : (modMc d f s).slots = s.slots := rfl
@[simp] theorem modMc_slotPx (d : Nat) (f : Mc → Mc) (s : State) : (modMc d f s).slotPx = s.slotPx := rfl
@[simp] theorem modMc_entries (d : Nat) (f : Mc → Mc) (s : State) : (modMc d f s).entries = s.entries := rfl
@[simp] theorem modMc_merges (d : Nat) (f : Mc → Mc) (s : State) : (modMc d f s).merges = s.merges := rfl
@[simp] theorem modMc_groups (d : Nat) (f : Mc → Mc) (s : State) : (modMc d f s).groups = s.groups := rfl
@[simp] theorem modMc_layers (d : Nat) (f : Mc → Mc) (s : State) : (modMc d f s).layers = s.layers := rfl
@[simp] theorem modMc_canvPx (d : Nat) (f : Mc → Mc) (s : State) : (modMc d f s).canvPx = s.canvPx := rfl
@[simp] theorem modMc_cachePx (d : Nat) (f : Mc → Mc) (s : State) : (modMc d f s).cachePx = s.cachePx := rfl
@[simp] theorem modMc_decs (d : Nat) (f : Mc → Mc) (s : State) : (modMc d f s).decs = s.decs := rfl
@[simp] theorem modMc_dsps (d : Nat) (f : Mc → Mc) (s : State) : (modMc d f s).dsps = s.dsps := rfl
@[simp] theorem modMc_dram (d : Nat) (f : Mc → Mc) (s : State) : (modMc d f s).dram = s.dram := rfl
@[simp] theorem modMc_poison (d : Nat) (f : Mc → Mc) (s : State) : (modMc d f s).poison = s.poison := rfl
@[simp] theorem modMc_broken (d : Nat) (f : Mc → Mc) (s : State) : (modMc d f s).broken = s.broken := rfl
@[simp] theorem modMc_soft (d : Nat) (f : Mc → Mc) (s : State) : (modMc d f s).soft = s.soft := rfl
@[simp] theorem modMc_yoke (d : Nat) (f : Mc → Mc) (s : State) : (modMc d f s).yoke = s.yoke := rfl
@[simp] theorem modMc_aflows (d : Nat) (f : Mc → Mc) (s : State) : (modMc d f s).aflows = s.aflows := rfl
@[simp] theorem modMc_tdms (d : Nat) (f : Mc → Mc) (s : State) : (modMc d f s).tdms = s.tdms := rfl
@[simp] theorem modMc_ic (d : Nat) (f : Mc → Mc) (s : State) : (modMc d f s).ic = s.ic := rfl
@[simp] theorem modMc_lanes (d : Nat) (f : Mc → Mc) (s : State) : (modMc d f s).lanes = s.lanes := rfl
@[simp] theorem modMc_host (d : Nat) (f : Mc → Mc) (s : State) : (modMc d f s).host = s.host := rfl
@[simp] theorem modMc_fw (d : Nat) (f : Mc → Mc) (s : State) : (modMc d f s).fw = s.fw := rfl
@[simp] theorem modMc_tack (d : Nat) (f : Mc → Mc) (s : State) : (modMc d f s).tack = s.tack := rfl
@[simp] theorem modMc_services (d : Nat) (f : Mc → Mc) (s : State) : (modMc d f s).services = s.services := rfl

@[simp] theorem modMch_variant (d i : Nat) (f : Mch → Mch) (s : State) : (modMch d i f s).variant = s.variant := rfl
@[simp] theorem modMch_pending (d i : Nat) (f : Mch → Mch) (s : State) : (modMch d i f s).pending = s.pending := rfl
@[simp] theorem modMch_out (d i : Nat) (f : Mch → Mch) (s : State) : (modMch d i f s).out = s.out := rfl
@[simp] theorem modMch_fresh (d i : Nat) (f : Mch → Mch) (s : State) : (modMch d i f s).fresh = s.fresh := rfl
@[simp] theorem modMch_pwr (d i : Nat) (f : Mch → Mch) (s : State) : (modMch d i f s).pwr = s.pwr := rfl
@[simp] theorem modMch_time (d i : Nat) (f : Mch → Mch) (s : State) : (modMch d i f s).time = s.time := rfl
@[simp] theorem modMch_pages (d i : Nat) (f : Mch → Mch) (s : State) : (modMch d i f s).pages = s.pages := rfl
@[simp] theorem modMch_ctrs (d i : Nat) (f : Mch → Mch) (s : State) : (modMch d i f s).ctrs = s.ctrs := rfl
@[simp] theorem modMch_hold (d i : Nat) (f : Mch → Mch) (s : State) : (modMch d i f s).hold = s.hold := rfl
@[simp] theorem modMch_staged (d i : Nat) (f : Mch → Mch) (s : State) : (modMch d i f s).staged = s.staged := rfl
@[simp] theorem modMch_live (d i : Nat) (f : Mch → Mch) (s : State) : (modMch d i f s).live = s.live := rfl
@[simp] theorem modMch_eff (d i : Nat) (f : Mch → Mch) (s : State) : (modMch d i f s).eff = s.eff := rfl
@[simp] theorem modMch_regs (d i : Nat) (f : Mch → Mch) (s : State) : (modMch d i f s).regs = s.regs := rfl
@[simp] theorem modMch_ctab (d i : Nat) (f : Mch → Mch) (s : State) : (modMch d i f s).ctab = s.ctab := rfl
@[simp] theorem modMch_sets (d i : Nat) (f : Mch → Mch) (s : State) : (modMch d i f s).sets = s.sets := rfl
@[simp] theorem modMch_queue (d i : Nat) (f : Mch → Mch) (s : State) : (modMch d i f s).queue = s.queue := rfl
@[simp] theorem modMch_checking (d i : Nat) (f : Mch → Mch) (s : State) : (modMch d i f s).checking = s.checking := rfl
@[simp] theorem modMch_waits (d i : Nat) (f : Mch → Mch) (s : State) : (modMch d i f s).waits = s.waits := rfl
@[simp] theorem modMch_chans (d i : Nat) (f : Mch → Mch) (s : State) : (modMch d i f s).chans = s.chans := rfl
@[simp] theorem modMch_svcs (d i : Nat) (f : Mch → Mch) (s : State) : (modMch d i f s).svcs = s.svcs := rfl
@[simp] theorem modMch_flows (d i : Nat) (f : Mch → Mch) (s : State) : (modMch d i f s).flows = s.flows := rfl
@[simp] theorem modMch_stops (d i : Nat) (f : Mch → Mch) (s : State) : (modMch d i f s).stops = s.stops := rfl
@[simp] theorem modMch_quench (d i : Nat) (f : Mch → Mch) (s : State) : (modMch d i f s).quench = s.quench := rfl
@[simp] theorem modMch_ports (d i : Nat) (f : Mch → Mch) (s : State) : (modMch d i f s).ports = s.ports := rfl
@[simp] theorem modMch_slots (d i : Nat) (f : Mch → Mch) (s : State) : (modMch d i f s).slots = s.slots := rfl
@[simp] theorem modMch_slotPx (d i : Nat) (f : Mch → Mch) (s : State) : (modMch d i f s).slotPx = s.slotPx := rfl
@[simp] theorem modMch_entries (d i : Nat) (f : Mch → Mch) (s : State) : (modMch d i f s).entries = s.entries := rfl
@[simp] theorem modMch_merges (d i : Nat) (f : Mch → Mch) (s : State) : (modMch d i f s).merges = s.merges := rfl
@[simp] theorem modMch_groups (d i : Nat) (f : Mch → Mch) (s : State) : (modMch d i f s).groups = s.groups := rfl
@[simp] theorem modMch_layers (d i : Nat) (f : Mch → Mch) (s : State) : (modMch d i f s).layers = s.layers := rfl
@[simp] theorem modMch_canvPx (d i : Nat) (f : Mch → Mch) (s : State) : (modMch d i f s).canvPx = s.canvPx := rfl
@[simp] theorem modMch_cachePx (d i : Nat) (f : Mch → Mch) (s : State) : (modMch d i f s).cachePx = s.cachePx := rfl
@[simp] theorem modMch_decs (d i : Nat) (f : Mch → Mch) (s : State) : (modMch d i f s).decs = s.decs := rfl
@[simp] theorem modMch_dsps (d i : Nat) (f : Mch → Mch) (s : State) : (modMch d i f s).dsps = s.dsps := rfl
@[simp] theorem modMch_dram (d i : Nat) (f : Mch → Mch) (s : State) : (modMch d i f s).dram = s.dram := rfl
@[simp] theorem modMch_poison (d i : Nat) (f : Mch → Mch) (s : State) : (modMch d i f s).poison = s.poison := rfl
@[simp] theorem modMch_broken (d i : Nat) (f : Mch → Mch) (s : State) : (modMch d i f s).broken = s.broken := rfl
@[simp] theorem modMch_soft (d i : Nat) (f : Mch → Mch) (s : State) : (modMch d i f s).soft = s.soft := rfl
@[simp] theorem modMch_yoke (d i : Nat) (f : Mch → Mch) (s : State) : (modMch d i f s).yoke = s.yoke := rfl
@[simp] theorem modMch_aflows (d i : Nat) (f : Mch → Mch) (s : State) : (modMch d i f s).aflows = s.aflows := rfl
@[simp] theorem modMch_tdms (d i : Nat) (f : Mch → Mch) (s : State) : (modMch d i f s).tdms = s.tdms := rfl
@[simp] theorem modMch_ic (d i : Nat) (f : Mch → Mch) (s : State) : (modMch d i f s).ic = s.ic := rfl
@[simp] theorem modMch_lanes (d i : Nat) (f : Mch → Mch) (s : State) : (modMch d i f s).lanes = s.lanes := rfl
@[simp] theorem modMch_host (d i : Nat) (f : Mch → Mch) (s : State) : (modMch d i f s).host = s.host := rfl
@[simp] theorem modMch_fw (d i : Nat) (f : Mch → Mch) (s : State) : (modMch d i f s).fw = s.fw := rfl
@[simp] theorem modMch_tack (d i : Nat) (f : Mch → Mch) (s : State) : (modMch d i f s).tack = s.tack := rfl
@[simp] theorem modMch_services (d i : Nat) (f : Mch → Mch) (s : State) : (modMch d i f s).services = s.services := rfl

@[simp] theorem modSet_variant (q : Nat) (f : CSet → CSet) (s : State) : (modSet q f s).variant = s.variant := rfl
@[simp] theorem modSet_pending (q : Nat) (f : CSet → CSet) (s : State) : (modSet q f s).pending = s.pending := rfl
@[simp] theorem modSet_out (q : Nat) (f : CSet → CSet) (s : State) : (modSet q f s).out = s.out := rfl
@[simp] theorem modSet_fresh (q : Nat) (f : CSet → CSet) (s : State) : (modSet q f s).fresh = s.fresh := rfl
@[simp] theorem modSet_pwr (q : Nat) (f : CSet → CSet) (s : State) : (modSet q f s).pwr = s.pwr := rfl
@[simp] theorem modSet_time (q : Nat) (f : CSet → CSet) (s : State) : (modSet q f s).time = s.time := rfl
@[simp] theorem modSet_pages (q : Nat) (f : CSet → CSet) (s : State) : (modSet q f s).pages = s.pages := rfl
@[simp] theorem modSet_ctrs (q : Nat) (f : CSet → CSet) (s : State) : (modSet q f s).ctrs = s.ctrs := rfl
@[simp] theorem modSet_hold (q : Nat) (f : CSet → CSet) (s : State) : (modSet q f s).hold = s.hold := rfl
@[simp] theorem modSet_staged (q : Nat) (f : CSet → CSet) (s : State) : (modSet q f s).staged = s.staged := rfl
@[simp] theorem modSet_live (q : Nat) (f : CSet → CSet) (s : State) : (modSet q f s).live = s.live := rfl
@[simp] theorem modSet_eff (q : Nat) (f : CSet → CSet) (s : State) : (modSet q f s).eff = s.eff := rfl
@[simp] theorem modSet_regs (q : Nat) (f : CSet → CSet) (s : State) : (modSet q f s).regs = s.regs := rfl
@[simp] theorem modSet_ctab (q : Nat) (f : CSet → CSet) (s : State) : (modSet q f s).ctab = s.ctab := rfl
@[simp] theorem modSet_queue (q : Nat) (f : CSet → CSet) (s : State) : (modSet q f s).queue = s.queue := rfl
@[simp] theorem modSet_checking (q : Nat) (f : CSet → CSet) (s : State) : (modSet q f s).checking = s.checking := rfl
@[simp] theorem modSet_waits (q : Nat) (f : CSet → CSet) (s : State) : (modSet q f s).waits = s.waits := rfl
@[simp] theorem modSet_chans (q : Nat) (f : CSet → CSet) (s : State) : (modSet q f s).chans = s.chans := rfl
@[simp] theorem modSet_svcs (q : Nat) (f : CSet → CSet) (s : State) : (modSet q f s).svcs = s.svcs := rfl
@[simp] theorem modSet_flows (q : Nat) (f : CSet → CSet) (s : State) : (modSet q f s).flows = s.flows := rfl
@[simp] theorem modSet_stops (q : Nat) (f : CSet → CSet) (s : State) : (modSet q f s).stops = s.stops := rfl
@[simp] theorem modSet_quench (q : Nat) (f : CSet → CSet) (s : State) : (modSet q f s).quench = s.quench := rfl
@[simp] theorem modSet_ports (q : Nat) (f : CSet → CSet) (s : State) : (modSet q f s).ports = s.ports := rfl
@[simp] theorem modSet_slots (q : Nat) (f : CSet → CSet) (s : State) : (modSet q f s).slots = s.slots := rfl
@[simp] theorem modSet_slotPx (q : Nat) (f : CSet → CSet) (s : State) : (modSet q f s).slotPx = s.slotPx := rfl
@[simp] theorem modSet_entries (q : Nat) (f : CSet → CSet) (s : State) : (modSet q f s).entries = s.entries := rfl
@[simp] theorem modSet_merges (q : Nat) (f : CSet → CSet) (s : State) : (modSet q f s).merges = s.merges := rfl
@[simp] theorem modSet_groups (q : Nat) (f : CSet → CSet) (s : State) : (modSet q f s).groups = s.groups := rfl
@[simp] theorem modSet_layers (q : Nat) (f : CSet → CSet) (s : State) : (modSet q f s).layers = s.layers := rfl
@[simp] theorem modSet_canvPx (q : Nat) (f : CSet → CSet) (s : State) : (modSet q f s).canvPx = s.canvPx := rfl
@[simp] theorem modSet_cachePx (q : Nat) (f : CSet → CSet) (s : State) : (modSet q f s).cachePx = s.cachePx := rfl
@[simp] theorem modSet_decs (q : Nat) (f : CSet → CSet) (s : State) : (modSet q f s).decs = s.decs := rfl
@[simp] theorem modSet_dsps (q : Nat) (f : CSet → CSet) (s : State) : (modSet q f s).dsps = s.dsps := rfl
@[simp] theorem modSet_mcs (q : Nat) (f : CSet → CSet) (s : State) : (modSet q f s).mcs = s.mcs := rfl
@[simp] theorem modSet_dram (q : Nat) (f : CSet → CSet) (s : State) : (modSet q f s).dram = s.dram := rfl
@[simp] theorem modSet_poison (q : Nat) (f : CSet → CSet) (s : State) : (modSet q f s).poison = s.poison := rfl
@[simp] theorem modSet_broken (q : Nat) (f : CSet → CSet) (s : State) : (modSet q f s).broken = s.broken := rfl
@[simp] theorem modSet_soft (q : Nat) (f : CSet → CSet) (s : State) : (modSet q f s).soft = s.soft := rfl
@[simp] theorem modSet_yoke (q : Nat) (f : CSet → CSet) (s : State) : (modSet q f s).yoke = s.yoke := rfl
@[simp] theorem modSet_aflows (q : Nat) (f : CSet → CSet) (s : State) : (modSet q f s).aflows = s.aflows := rfl
@[simp] theorem modSet_tdms (q : Nat) (f : CSet → CSet) (s : State) : (modSet q f s).tdms = s.tdms := rfl
@[simp] theorem modSet_ic (q : Nat) (f : CSet → CSet) (s : State) : (modSet q f s).ic = s.ic := rfl
@[simp] theorem modSet_lanes (q : Nat) (f : CSet → CSet) (s : State) : (modSet q f s).lanes = s.lanes := rfl
@[simp] theorem modSet_host (q : Nat) (f : CSet → CSet) (s : State) : (modSet q f s).host = s.host := rfl
@[simp] theorem modSet_fw (q : Nat) (f : CSet → CSet) (s : State) : (modSet q f s).fw = s.fw := rfl
@[simp] theorem modSet_tack (q : Nat) (f : CSet → CSet) (s : State) : (modSet q f s).tack = s.tack := rfl
@[simp] theorem modSet_services (q : Nat) (f : CSet → CSet) (s : State) : (modSet q f s).services = s.services := rfl

@[simp] theorem modSrc_variant (n : Nat) (f : Src → Src) (s : State) : (modSrc n f s).variant = s.variant := rfl
@[simp] theorem modSrc_pending (n : Nat) (f : Src → Src) (s : State) : (modSrc n f s).pending = s.pending := rfl
@[simp] theorem modSrc_out (n : Nat) (f : Src → Src) (s : State) : (modSrc n f s).out = s.out := rfl
@[simp] theorem modSrc_fresh (n : Nat) (f : Src → Src) (s : State) : (modSrc n f s).fresh = s.fresh := rfl
@[simp] theorem modSrc_pwr (n : Nat) (f : Src → Src) (s : State) : (modSrc n f s).pwr = s.pwr := rfl
@[simp] theorem modSrc_time (n : Nat) (f : Src → Src) (s : State) : (modSrc n f s).time = s.time := rfl
@[simp] theorem modSrc_pages (n : Nat) (f : Src → Src) (s : State) : (modSrc n f s).pages = s.pages := rfl
@[simp] theorem modSrc_ctrs (n : Nat) (f : Src → Src) (s : State) : (modSrc n f s).ctrs = s.ctrs := rfl
@[simp] theorem modSrc_hold (n : Nat) (f : Src → Src) (s : State) : (modSrc n f s).hold = s.hold := rfl
@[simp] theorem modSrc_staged (n : Nat) (f : Src → Src) (s : State) : (modSrc n f s).staged = s.staged := rfl
@[simp] theorem modSrc_live (n : Nat) (f : Src → Src) (s : State) : (modSrc n f s).live = s.live := rfl
@[simp] theorem modSrc_eff (n : Nat) (f : Src → Src) (s : State) : (modSrc n f s).eff = s.eff := rfl
@[simp] theorem modSrc_regs (n : Nat) (f : Src → Src) (s : State) : (modSrc n f s).regs = s.regs := rfl
@[simp] theorem modSrc_ctab (n : Nat) (f : Src → Src) (s : State) : (modSrc n f s).ctab = s.ctab := rfl
@[simp] theorem modSrc_sets (n : Nat) (f : Src → Src) (s : State) : (modSrc n f s).sets = s.sets := rfl
@[simp] theorem modSrc_queue (n : Nat) (f : Src → Src) (s : State) : (modSrc n f s).queue = s.queue := rfl
@[simp] theorem modSrc_checking (n : Nat) (f : Src → Src) (s : State) : (modSrc n f s).checking = s.checking := rfl
@[simp] theorem modSrc_waits (n : Nat) (f : Src → Src) (s : State) : (modSrc n f s).waits = s.waits := rfl
@[simp] theorem modSrc_chans (n : Nat) (f : Src → Src) (s : State) : (modSrc n f s).chans = s.chans := rfl
@[simp] theorem modSrc_svcs (n : Nat) (f : Src → Src) (s : State) : (modSrc n f s).svcs = s.svcs := rfl
@[simp] theorem modSrc_flows (n : Nat) (f : Src → Src) (s : State) : (modSrc n f s).flows = s.flows := rfl
@[simp] theorem modSrc_stops (n : Nat) (f : Src → Src) (s : State) : (modSrc n f s).stops = s.stops := rfl
@[simp] theorem modSrc_quench (n : Nat) (f : Src → Src) (s : State) : (modSrc n f s).quench = s.quench := rfl
@[simp] theorem modSrc_ports (n : Nat) (f : Src → Src) (s : State) : (modSrc n f s).ports = s.ports := rfl
@[simp] theorem modSrc_slots (n : Nat) (f : Src → Src) (s : State) : (modSrc n f s).slots = s.slots := rfl
@[simp] theorem modSrc_slotPx (n : Nat) (f : Src → Src) (s : State) : (modSrc n f s).slotPx = s.slotPx := rfl
@[simp] theorem modSrc_entries (n : Nat) (f : Src → Src) (s : State) : (modSrc n f s).entries = s.entries := rfl
@[simp] theorem modSrc_merges (n : Nat) (f : Src → Src) (s : State) : (modSrc n f s).merges = s.merges := rfl
@[simp] theorem modSrc_groups (n : Nat) (f : Src → Src) (s : State) : (modSrc n f s).groups = s.groups := rfl
@[simp] theorem modSrc_layers (n : Nat) (f : Src → Src) (s : State) : (modSrc n f s).layers = s.layers := rfl
@[simp] theorem modSrc_canvPx (n : Nat) (f : Src → Src) (s : State) : (modSrc n f s).canvPx = s.canvPx := rfl
@[simp] theorem modSrc_cachePx (n : Nat) (f : Src → Src) (s : State) : (modSrc n f s).cachePx = s.cachePx := rfl
@[simp] theorem modSrc_decs (n : Nat) (f : Src → Src) (s : State) : (modSrc n f s).decs = s.decs := rfl
@[simp] theorem modSrc_dsps (n : Nat) (f : Src → Src) (s : State) : (modSrc n f s).dsps = s.dsps := rfl
@[simp] theorem modSrc_mcs (n : Nat) (f : Src → Src) (s : State) : (modSrc n f s).mcs = s.mcs := rfl
@[simp] theorem modSrc_dram (n : Nat) (f : Src → Src) (s : State) : (modSrc n f s).dram = s.dram := rfl
@[simp] theorem modSrc_poison (n : Nat) (f : Src → Src) (s : State) : (modSrc n f s).poison = s.poison := rfl
@[simp] theorem modSrc_broken (n : Nat) (f : Src → Src) (s : State) : (modSrc n f s).broken = s.broken := rfl
@[simp] theorem modSrc_soft (n : Nat) (f : Src → Src) (s : State) : (modSrc n f s).soft = s.soft := rfl
@[simp] theorem modSrc_yoke (n : Nat) (f : Src → Src) (s : State) : (modSrc n f s).yoke = s.yoke := rfl
@[simp] theorem modSrc_aflows (n : Nat) (f : Src → Src) (s : State) : (modSrc n f s).aflows = s.aflows := rfl
@[simp] theorem modSrc_tdms (n : Nat) (f : Src → Src) (s : State) : (modSrc n f s).tdms = s.tdms := rfl
@[simp] theorem modSrc_lanes (n : Nat) (f : Src → Src) (s : State) : (modSrc n f s).lanes = s.lanes := rfl
@[simp] theorem modSrc_host (n : Nat) (f : Src → Src) (s : State) : (modSrc n f s).host = s.host := rfl
@[simp] theorem modSrc_fw (n : Nat) (f : Src → Src) (s : State) : (modSrc n f s).fw = s.fw := rfl
@[simp] theorem modSrc_tack (n : Nat) (f : Src → Src) (s : State) : (modSrc n f s).tack = s.tack := rfl
@[simp] theorem modSrc_services (n : Nat) (f : Src → Src) (s : State) : (modSrc n f s).services = s.services := rfl

@[simp] theorem doorbell_variant (k : Nat) (s : State) : (doorbell k s).variant = s.variant := rfl
@[simp] theorem doorbell_pending (k : Nat) (s : State) : (doorbell k s).pending = s.pending := rfl
@[simp] theorem doorbell_out (k : Nat) (s : State) : (doorbell k s).out = s.out := rfl
@[simp] theorem doorbell_fresh (k : Nat) (s : State) : (doorbell k s).fresh = s.fresh := rfl
@[simp] theorem doorbell_pwr (k : Nat) (s : State) : (doorbell k s).pwr = s.pwr := rfl
@[simp] theorem doorbell_time (k : Nat) (s : State) : (doorbell k s).time = s.time := rfl
@[simp] theorem doorbell_pages (k : Nat) (s : State) : (doorbell k s).pages = s.pages := rfl
@[simp] theorem doorbell_ctrs (k : Nat) (s : State) : (doorbell k s).ctrs = s.ctrs := rfl
@[simp] theorem doorbell_hold (k : Nat) (s : State) : (doorbell k s).hold = s.hold := rfl
@[simp] theorem doorbell_staged (k : Nat) (s : State) : (doorbell k s).staged = s.staged := rfl
@[simp] theorem doorbell_live (k : Nat) (s : State) : (doorbell k s).live = s.live := rfl
@[simp] theorem doorbell_eff (k : Nat) (s : State) : (doorbell k s).eff = s.eff := rfl
@[simp] theorem doorbell_regs (k : Nat) (s : State) : (doorbell k s).regs = s.regs := rfl
@[simp] theorem doorbell_ctab (k : Nat) (s : State) : (doorbell k s).ctab = s.ctab := rfl
@[simp] theorem doorbell_sets (k : Nat) (s : State) : (doorbell k s).sets = s.sets := rfl
@[simp] theorem doorbell_queue (k : Nat) (s : State) : (doorbell k s).queue = s.queue := rfl
@[simp] theorem doorbell_checking (k : Nat) (s : State) : (doorbell k s).checking = s.checking := rfl
@[simp] theorem doorbell_waits (k : Nat) (s : State) : (doorbell k s).waits = s.waits := rfl
@[simp] theorem doorbell_chans (k : Nat) (s : State) : (doorbell k s).chans = s.chans := rfl
@[simp] theorem doorbell_svcs (k : Nat) (s : State) : (doorbell k s).svcs = s.svcs := rfl
@[simp] theorem doorbell_flows (k : Nat) (s : State) : (doorbell k s).flows = s.flows := rfl
@[simp] theorem doorbell_stops (k : Nat) (s : State) : (doorbell k s).stops = s.stops := rfl
@[simp] theorem doorbell_quench (k : Nat) (s : State) : (doorbell k s).quench = s.quench := rfl
@[simp] theorem doorbell_ports (k : Nat) (s : State) : (doorbell k s).ports = s.ports := rfl
@[simp] theorem doorbell_slots (k : Nat) (s : State) : (doorbell k s).slots = s.slots := rfl
@[simp] theorem doorbell_slotPx (k : Nat) (s : State) : (doorbell k s).slotPx = s.slotPx := rfl
@[simp] theorem doorbell_entries (k : Nat) (s : State) : (doorbell k s).entries = s.entries := rfl
@[simp] theorem doorbell_merges (k : Nat) (s : State) : (doorbell k s).merges = s.merges := rfl
@[simp] theorem doorbell_groups (k : Nat) (s : State) : (doorbell k s).groups = s.groups := rfl
@[simp] theorem doorbell_layers (k : Nat) (s : State) : (doorbell k s).layers = s.layers := rfl
@[simp] theorem doorbell_canvPx (k : Nat) (s : State) : (doorbell k s).canvPx = s.canvPx := rfl
@[simp] theorem doorbell_cachePx (k : Nat) (s : State) : (doorbell k s).cachePx = s.cachePx := rfl
@[simp] theorem doorbell_decs (k : Nat) (s : State) : (doorbell k s).decs = s.decs := rfl
@[simp] theorem doorbell_dsps (k : Nat) (s : State) : (doorbell k s).dsps = s.dsps := rfl
@[simp] theorem doorbell_mcs (k : Nat) (s : State) : (doorbell k s).mcs = s.mcs := rfl
@[simp] theorem doorbell_dram (k : Nat) (s : State) : (doorbell k s).dram = s.dram := rfl
@[simp] theorem doorbell_poison (k : Nat) (s : State) : (doorbell k s).poison = s.poison := rfl
@[simp] theorem doorbell_broken (k : Nat) (s : State) : (doorbell k s).broken = s.broken := rfl
@[simp] theorem doorbell_soft (k : Nat) (s : State) : (doorbell k s).soft = s.soft := rfl
@[simp] theorem doorbell_yoke (k : Nat) (s : State) : (doorbell k s).yoke = s.yoke := rfl
@[simp] theorem doorbell_aflows (k : Nat) (s : State) : (doorbell k s).aflows = s.aflows := rfl
@[simp] theorem doorbell_tdms (k : Nat) (s : State) : (doorbell k s).tdms = s.tdms := rfl
@[simp] theorem doorbell_lanes (k : Nat) (s : State) : (doorbell k s).lanes = s.lanes := rfl
@[simp] theorem doorbell_host (k : Nat) (s : State) : (doorbell k s).host = s.host := rfl
@[simp] theorem doorbell_fw (k : Nat) (s : State) : (doorbell k s).fw = s.fw := rfl
@[simp] theorem doorbell_tack (k : Nat) (s : State) : (doorbell k s).tack = s.tack := rfl
@[simp] theorem doorbell_services (k : Nat) (s : State) : (doorbell k s).services = s.services := rfl

@[simp] theorem advance_variant (t : Nat) (s : State) : (advance t s).variant = s.variant := rfl
@[simp] theorem advance_pending (t : Nat) (s : State) : (advance t s).pending = s.pending := rfl
@[simp] theorem advance_out (t : Nat) (s : State) : (advance t s).out = s.out := rfl
@[simp] theorem advance_fresh (t : Nat) (s : State) : (advance t s).fresh = s.fresh := rfl
@[simp] theorem advance_pwr (t : Nat) (s : State) : (advance t s).pwr = s.pwr := rfl
@[simp] theorem advance_pages (t : Nat) (s : State) : (advance t s).pages = s.pages := rfl
@[simp] theorem advance_ctrs (t : Nat) (s : State) : (advance t s).ctrs = s.ctrs := rfl
@[simp] theorem advance_hold (t : Nat) (s : State) : (advance t s).hold = s.hold := rfl
@[simp] theorem advance_staged (t : Nat) (s : State) : (advance t s).staged = s.staged := rfl
@[simp] theorem advance_live (t : Nat) (s : State) : (advance t s).live = s.live := rfl
@[simp] theorem advance_eff (t : Nat) (s : State) : (advance t s).eff = s.eff := rfl
@[simp] theorem advance_regs (t : Nat) (s : State) : (advance t s).regs = s.regs := rfl
@[simp] theorem advance_ctab (t : Nat) (s : State) : (advance t s).ctab = s.ctab := rfl
@[simp] theorem advance_sets (t : Nat) (s : State) : (advance t s).sets = s.sets := rfl
@[simp] theorem advance_queue (t : Nat) (s : State) : (advance t s).queue = s.queue := rfl
@[simp] theorem advance_checking (t : Nat) (s : State) : (advance t s).checking = s.checking := rfl
@[simp] theorem advance_waits (t : Nat) (s : State) : (advance t s).waits = s.waits := rfl
@[simp] theorem advance_chans (t : Nat) (s : State) : (advance t s).chans = s.chans := rfl
@[simp] theorem advance_svcs (t : Nat) (s : State) : (advance t s).svcs = s.svcs := rfl
@[simp] theorem advance_flows (t : Nat) (s : State) : (advance t s).flows = s.flows := rfl
@[simp] theorem advance_stops (t : Nat) (s : State) : (advance t s).stops = s.stops := rfl
@[simp] theorem advance_quench (t : Nat) (s : State) : (advance t s).quench = s.quench := rfl
@[simp] theorem advance_ports (t : Nat) (s : State) : (advance t s).ports = s.ports := rfl
@[simp] theorem advance_slots (t : Nat) (s : State) : (advance t s).slots = s.slots := rfl
@[simp] theorem advance_slotPx (t : Nat) (s : State) : (advance t s).slotPx = s.slotPx := rfl
@[simp] theorem advance_entries (t : Nat) (s : State) : (advance t s).entries = s.entries := rfl
@[simp] theorem advance_merges (t : Nat) (s : State) : (advance t s).merges = s.merges := rfl
@[simp] theorem advance_groups (t : Nat) (s : State) : (advance t s).groups = s.groups := rfl
@[simp] theorem advance_layers (t : Nat) (s : State) : (advance t s).layers = s.layers := rfl
@[simp] theorem advance_canvPx (t : Nat) (s : State) : (advance t s).canvPx = s.canvPx := rfl
@[simp] theorem advance_cachePx (t : Nat) (s : State) : (advance t s).cachePx = s.cachePx := rfl
@[simp] theorem advance_decs (t : Nat) (s : State) : (advance t s).decs = s.decs := rfl
@[simp] theorem advance_dsps (t : Nat) (s : State) : (advance t s).dsps = s.dsps := rfl
@[simp] theorem advance_mcs (t : Nat) (s : State) : (advance t s).mcs = s.mcs := rfl
@[simp] theorem advance_dram (t : Nat) (s : State) : (advance t s).dram = s.dram := rfl
@[simp] theorem advance_poison (t : Nat) (s : State) : (advance t s).poison = s.poison := rfl
@[simp] theorem advance_broken (t : Nat) (s : State) : (advance t s).broken = s.broken := rfl
@[simp] theorem advance_soft (t : Nat) (s : State) : (advance t s).soft = s.soft := rfl
@[simp] theorem advance_yoke (t : Nat) (s : State) : (advance t s).yoke = s.yoke := rfl
@[simp] theorem advance_aflows (t : Nat) (s : State) : (advance t s).aflows = s.aflows := rfl
@[simp] theorem advance_tdms (t : Nat) (s : State) : (advance t s).tdms = s.tdms := rfl
@[simp] theorem advance_ic (t : Nat) (s : State) : (advance t s).ic = s.ic := rfl
@[simp] theorem advance_lanes (t : Nat) (s : State) : (advance t s).lanes = s.lanes := rfl
@[simp] theorem advance_host (t : Nat) (s : State) : (advance t s).host = s.host := rfl
@[simp] theorem advance_fw (t : Nat) (s : State) : (advance t s).fw = s.fw := rfl
@[simp] theorem advance_tack (t : Nat) (s : State) : (advance t s).tack = s.tack := rfl
@[simp] theorem advance_services (t : Nat) (s : State) : (advance t s).services = s.services := rfl

@[simp] theorem modSvc_variant (v : Nat) (f : Svc → Svc) (s : State) : (modSvc v f s).variant = s.variant := rfl
@[simp] theorem modSvc_pending (v : Nat) (f : Svc → Svc) (s : State) : (modSvc v f s).pending = s.pending := rfl
@[simp] theorem modSvc_out (v : Nat) (f : Svc → Svc) (s : State) : (modSvc v f s).out = s.out := rfl
@[simp] theorem modSvc_fresh (v : Nat) (f : Svc → Svc) (s : State) : (modSvc v f s).fresh = s.fresh := rfl
@[simp] theorem modSvc_pwr (v : Nat) (f : Svc → Svc) (s : State) : (modSvc v f s).pwr = s.pwr := rfl
@[simp] theorem modSvc_time (v : Nat) (f : Svc → Svc) (s : State) : (modSvc v f s).time = s.time := rfl
@[simp] theorem modSvc_pages (v : Nat) (f : Svc → Svc) (s : State) : (modSvc v f s).pages = s.pages := rfl
@[simp] theorem modSvc_ctrs (v : Nat) (f : Svc → Svc) (s : State) : (modSvc v f s).ctrs = s.ctrs := rfl
@[simp] theorem modSvc_hold (v : Nat) (f : Svc → Svc) (s : State) : (modSvc v f s).hold = s.hold := rfl
@[simp] theorem modSvc_staged (v : Nat) (f : Svc → Svc) (s : State) : (modSvc v f s).staged = s.staged := rfl
@[simp] theorem modSvc_live (v : Nat) (f : Svc → Svc) (s : State) : (modSvc v f s).live = s.live := rfl
@[simp] theorem modSvc_eff (v : Nat) (f : Svc → Svc) (s : State) : (modSvc v f s).eff = s.eff := rfl
@[simp] theorem modSvc_regs (v : Nat) (f : Svc → Svc) (s : State) : (modSvc v f s).regs = s.regs := rfl
@[simp] theorem modSvc_ctab (v : Nat) (f : Svc → Svc) (s : State) : (modSvc v f s).ctab = s.ctab := rfl
@[simp] theorem modSvc_sets (v : Nat) (f : Svc → Svc) (s : State) : (modSvc v f s).sets = s.sets := rfl
@[simp] theorem modSvc_queue (v : Nat) (f : Svc → Svc) (s : State) : (modSvc v f s).queue = s.queue := rfl
@[simp] theorem modSvc_checking (v : Nat) (f : Svc → Svc) (s : State) : (modSvc v f s).checking = s.checking := rfl
@[simp] theorem modSvc_waits (v : Nat) (f : Svc → Svc) (s : State) : (modSvc v f s).waits = s.waits := rfl
@[simp] theorem modSvc_chans (v : Nat) (f : Svc → Svc) (s : State) : (modSvc v f s).chans = s.chans := rfl
@[simp] theorem modSvc_flows (v : Nat) (f : Svc → Svc) (s : State) : (modSvc v f s).flows = s.flows := rfl
@[simp] theorem modSvc_stops (v : Nat) (f : Svc → Svc) (s : State) : (modSvc v f s).stops = s.stops := rfl
@[simp] theorem modSvc_quench (v : Nat) (f : Svc → Svc) (s : State) : (modSvc v f s).quench = s.quench := rfl
@[simp] theorem modSvc_ports (v : Nat) (f : Svc → Svc) (s : State) : (modSvc v f s).ports = s.ports := rfl
@[simp] theorem modSvc_slots (v : Nat) (f : Svc → Svc) (s : State) : (modSvc v f s).slots = s.slots := rfl
@[simp] theorem modSvc_slotPx (v : Nat) (f : Svc → Svc) (s : State) : (modSvc v f s).slotPx = s.slotPx := rfl
@[simp] theorem modSvc_entries (v : Nat) (f : Svc → Svc) (s : State) : (modSvc v f s).entries = s.entries := rfl
@[simp] theorem modSvc_merges (v : Nat) (f : Svc → Svc) (s : State) : (modSvc v f s).merges = s.merges := rfl
@[simp] theorem modSvc_groups (v : Nat) (f : Svc → Svc) (s : State) : (modSvc v f s).groups = s.groups := rfl
@[simp] theorem modSvc_layers (v : Nat) (f : Svc → Svc) (s : State) : (modSvc v f s).layers = s.layers := rfl
@[simp] theorem modSvc_canvPx (v : Nat) (f : Svc → Svc) (s : State) : (modSvc v f s).canvPx = s.canvPx := rfl
@[simp] theorem modSvc_cachePx (v : Nat) (f : Svc → Svc) (s : State) : (modSvc v f s).cachePx = s.cachePx := rfl
@[simp] theorem modSvc_decs (v : Nat) (f : Svc → Svc) (s : State) : (modSvc v f s).decs = s.decs := rfl
@[simp] theorem modSvc_dsps (v : Nat) (f : Svc → Svc) (s : State) : (modSvc v f s).dsps = s.dsps := rfl
@[simp] theorem modSvc_mcs (v : Nat) (f : Svc → Svc) (s : State) : (modSvc v f s).mcs = s.mcs := rfl
@[simp] theorem modSvc_dram (v : Nat) (f : Svc → Svc) (s : State) : (modSvc v f s).dram = s.dram := rfl
@[simp] theorem modSvc_poison (v : Nat) (f : Svc → Svc) (s : State) : (modSvc v f s).poison = s.poison := rfl
@[simp] theorem modSvc_broken (v : Nat) (f : Svc → Svc) (s : State) : (modSvc v f s).broken = s.broken := rfl
@[simp] theorem modSvc_soft (v : Nat) (f : Svc → Svc) (s : State) : (modSvc v f s).soft = s.soft := rfl
@[simp] theorem modSvc_yoke (v : Nat) (f : Svc → Svc) (s : State) : (modSvc v f s).yoke = s.yoke := rfl
@[simp] theorem modSvc_aflows (v : Nat) (f : Svc → Svc) (s : State) : (modSvc v f s).aflows = s.aflows := rfl
@[simp] theorem modSvc_tdms (v : Nat) (f : Svc → Svc) (s : State) : (modSvc v f s).tdms = s.tdms := rfl
@[simp] theorem modSvc_ic (v : Nat) (f : Svc → Svc) (s : State) : (modSvc v f s).ic = s.ic := rfl
@[simp] theorem modSvc_lanes (v : Nat) (f : Svc → Svc) (s : State) : (modSvc v f s).lanes = s.lanes := rfl
@[simp] theorem modSvc_host (v : Nat) (f : Svc → Svc) (s : State) : (modSvc v f s).host = s.host := rfl
@[simp] theorem modSvc_fw (v : Nat) (f : Svc → Svc) (s : State) : (modSvc v f s).fw = s.fw := rfl
@[simp] theorem modSvc_tack (v : Nat) (f : Svc → Svc) (s : State) : (modSvc v f s).tack = s.tack := rfl
@[simp] theorem modSvc_services (v : Nat) (f : Svc → Svc) (s : State) : (modSvc v f s).services = s.services := rfl

@[simp] theorem modDec_variant (d n : Nat) (f : Dec → Dec) (s : State) : (modDec d n f s).variant = s.variant := rfl
@[simp] theorem modDec_pending (d n : Nat) (f : Dec → Dec) (s : State) : (modDec d n f s).pending = s.pending := rfl
@[simp] theorem modDec_out (d n : Nat) (f : Dec → Dec) (s : State) : (modDec d n f s).out = s.out := rfl
@[simp] theorem modDec_fresh (d n : Nat) (f : Dec → Dec) (s : State) : (modDec d n f s).fresh = s.fresh := rfl
@[simp] theorem modDec_pwr (d n : Nat) (f : Dec → Dec) (s : State) : (modDec d n f s).pwr = s.pwr := rfl
@[simp] theorem modDec_time (d n : Nat) (f : Dec → Dec) (s : State) : (modDec d n f s).time = s.time := rfl
@[simp] theorem modDec_pages (d n : Nat) (f : Dec → Dec) (s : State) : (modDec d n f s).pages = s.pages := rfl
@[simp] theorem modDec_ctrs (d n : Nat) (f : Dec → Dec) (s : State) : (modDec d n f s).ctrs = s.ctrs := rfl
@[simp] theorem modDec_hold (d n : Nat) (f : Dec → Dec) (s : State) : (modDec d n f s).hold = s.hold := rfl
@[simp] theorem modDec_staged (d n : Nat) (f : Dec → Dec) (s : State) : (modDec d n f s).staged = s.staged := rfl
@[simp] theorem modDec_live (d n : Nat) (f : Dec → Dec) (s : State) : (modDec d n f s).live = s.live := rfl
@[simp] theorem modDec_eff (d n : Nat) (f : Dec → Dec) (s : State) : (modDec d n f s).eff = s.eff := rfl
@[simp] theorem modDec_regs (d n : Nat) (f : Dec → Dec) (s : State) : (modDec d n f s).regs = s.regs := rfl
@[simp] theorem modDec_ctab (d n : Nat) (f : Dec → Dec) (s : State) : (modDec d n f s).ctab = s.ctab := rfl
@[simp] theorem modDec_sets (d n : Nat) (f : Dec → Dec) (s : State) : (modDec d n f s).sets = s.sets := rfl
@[simp] theorem modDec_queue (d n : Nat) (f : Dec → Dec) (s : State) : (modDec d n f s).queue = s.queue := rfl
@[simp] theorem modDec_checking (d n : Nat) (f : Dec → Dec) (s : State) : (modDec d n f s).checking = s.checking := rfl
@[simp] theorem modDec_waits (d n : Nat) (f : Dec → Dec) (s : State) : (modDec d n f s).waits = s.waits := rfl
@[simp] theorem modDec_chans (d n : Nat) (f : Dec → Dec) (s : State) : (modDec d n f s).chans = s.chans := rfl
@[simp] theorem modDec_svcs (d n : Nat) (f : Dec → Dec) (s : State) : (modDec d n f s).svcs = s.svcs := rfl
@[simp] theorem modDec_flows (d n : Nat) (f : Dec → Dec) (s : State) : (modDec d n f s).flows = s.flows := rfl
@[simp] theorem modDec_stops (d n : Nat) (f : Dec → Dec) (s : State) : (modDec d n f s).stops = s.stops := rfl
@[simp] theorem modDec_quench (d n : Nat) (f : Dec → Dec) (s : State) : (modDec d n f s).quench = s.quench := rfl
@[simp] theorem modDec_ports (d n : Nat) (f : Dec → Dec) (s : State) : (modDec d n f s).ports = s.ports := rfl
@[simp] theorem modDec_slots (d n : Nat) (f : Dec → Dec) (s : State) : (modDec d n f s).slots = s.slots := rfl
@[simp] theorem modDec_slotPx (d n : Nat) (f : Dec → Dec) (s : State) : (modDec d n f s).slotPx = s.slotPx := rfl
@[simp] theorem modDec_entries (d n : Nat) (f : Dec → Dec) (s : State) : (modDec d n f s).entries = s.entries := rfl
@[simp] theorem modDec_merges (d n : Nat) (f : Dec → Dec) (s : State) : (modDec d n f s).merges = s.merges := rfl
@[simp] theorem modDec_groups (d n : Nat) (f : Dec → Dec) (s : State) : (modDec d n f s).groups = s.groups := rfl
@[simp] theorem modDec_layers (d n : Nat) (f : Dec → Dec) (s : State) : (modDec d n f s).layers = s.layers := rfl
@[simp] theorem modDec_canvPx (d n : Nat) (f : Dec → Dec) (s : State) : (modDec d n f s).canvPx = s.canvPx := rfl
@[simp] theorem modDec_cachePx (d n : Nat) (f : Dec → Dec) (s : State) : (modDec d n f s).cachePx = s.cachePx := rfl
@[simp] theorem modDec_dsps (d n : Nat) (f : Dec → Dec) (s : State) : (modDec d n f s).dsps = s.dsps := rfl
@[simp] theorem modDec_mcs (d n : Nat) (f : Dec → Dec) (s : State) : (modDec d n f s).mcs = s.mcs := rfl
@[simp] theorem modDec_dram (d n : Nat) (f : Dec → Dec) (s : State) : (modDec d n f s).dram = s.dram := rfl
@[simp] theorem modDec_poison (d n : Nat) (f : Dec → Dec) (s : State) : (modDec d n f s).poison = s.poison := rfl
@[simp] theorem modDec_broken (d n : Nat) (f : Dec → Dec) (s : State) : (modDec d n f s).broken = s.broken := rfl
@[simp] theorem modDec_soft (d n : Nat) (f : Dec → Dec) (s : State) : (modDec d n f s).soft = s.soft := rfl
@[simp] theorem modDec_yoke (d n : Nat) (f : Dec → Dec) (s : State) : (modDec d n f s).yoke = s.yoke := rfl
@[simp] theorem modDec_aflows (d n : Nat) (f : Dec → Dec) (s : State) : (modDec d n f s).aflows = s.aflows := rfl
@[simp] theorem modDec_tdms (d n : Nat) (f : Dec → Dec) (s : State) : (modDec d n f s).tdms = s.tdms := rfl
@[simp] theorem modDec_ic (d n : Nat) (f : Dec → Dec) (s : State) : (modDec d n f s).ic = s.ic := rfl
@[simp] theorem modDec_lanes (d n : Nat) (f : Dec → Dec) (s : State) : (modDec d n f s).lanes = s.lanes := rfl
@[simp] theorem modDec_host (d n : Nat) (f : Dec → Dec) (s : State) : (modDec d n f s).host = s.host := rfl
@[simp] theorem modDec_fw (d n : Nat) (f : Dec → Dec) (s : State) : (modDec d n f s).fw = s.fw := rfl
@[simp] theorem modDec_tack (d n : Nat) (f : Dec → Dec) (s : State) : (modDec d n f s).tack = s.tack := rfl
@[simp] theorem modDec_services (d n : Nat) (f : Dec → Dec) (s : State) : (modDec d n f s).services = s.services := rfl

@[simp] theorem modDsp_variant (d : Nat) (f : Dsp → Dsp) (s : State) : (modDsp d f s).variant = s.variant := rfl
@[simp] theorem modDsp_pending (d : Nat) (f : Dsp → Dsp) (s : State) : (modDsp d f s).pending = s.pending := rfl
@[simp] theorem modDsp_out (d : Nat) (f : Dsp → Dsp) (s : State) : (modDsp d f s).out = s.out := rfl
@[simp] theorem modDsp_fresh (d : Nat) (f : Dsp → Dsp) (s : State) : (modDsp d f s).fresh = s.fresh := rfl
@[simp] theorem modDsp_pwr (d : Nat) (f : Dsp → Dsp) (s : State) : (modDsp d f s).pwr = s.pwr := rfl
@[simp] theorem modDsp_time (d : Nat) (f : Dsp → Dsp) (s : State) : (modDsp d f s).time = s.time := rfl
@[simp] theorem modDsp_pages (d : Nat) (f : Dsp → Dsp) (s : State) : (modDsp d f s).pages = s.pages := rfl
@[simp] theorem modDsp_ctrs (d : Nat) (f : Dsp → Dsp) (s : State) : (modDsp d f s).ctrs = s.ctrs := rfl
@[simp] theorem modDsp_hold (d : Nat) (f : Dsp → Dsp) (s : State) : (modDsp d f s).hold = s.hold := rfl
@[simp] theorem modDsp_staged (d : Nat) (f : Dsp → Dsp) (s : State) : (modDsp d f s).staged = s.staged := rfl
@[simp] theorem modDsp_live (d : Nat) (f : Dsp → Dsp) (s : State) : (modDsp d f s).live = s.live := rfl
@[simp] theorem modDsp_eff (d : Nat) (f : Dsp → Dsp) (s : State) : (modDsp d f s).eff = s.eff := rfl
@[simp] theorem modDsp_regs (d : Nat) (f : Dsp → Dsp) (s : State) : (modDsp d f s).regs = s.regs := rfl
@[simp] theorem modDsp_ctab (d : Nat) (f : Dsp → Dsp) (s : State) : (modDsp d f s).ctab = s.ctab := rfl
@[simp] theorem modDsp_sets (d : Nat) (f : Dsp → Dsp) (s : State) : (modDsp d f s).sets = s.sets := rfl
@[simp] theorem modDsp_queue (d : Nat) (f : Dsp → Dsp) (s : State) : (modDsp d f s).queue = s.queue := rfl
@[simp] theorem modDsp_checking (d : Nat) (f : Dsp → Dsp) (s : State) : (modDsp d f s).checking = s.checking := rfl
@[simp] theorem modDsp_waits (d : Nat) (f : Dsp → Dsp) (s : State) : (modDsp d f s).waits = s.waits := rfl
@[simp] theorem modDsp_chans (d : Nat) (f : Dsp → Dsp) (s : State) : (modDsp d f s).chans = s.chans := rfl
@[simp] theorem modDsp_svcs (d : Nat) (f : Dsp → Dsp) (s : State) : (modDsp d f s).svcs = s.svcs := rfl
@[simp] theorem modDsp_flows (d : Nat) (f : Dsp → Dsp) (s : State) : (modDsp d f s).flows = s.flows := rfl
@[simp] theorem modDsp_stops (d : Nat) (f : Dsp → Dsp) (s : State) : (modDsp d f s).stops = s.stops := rfl
@[simp] theorem modDsp_quench (d : Nat) (f : Dsp → Dsp) (s : State) : (modDsp d f s).quench = s.quench := rfl
@[simp] theorem modDsp_ports (d : Nat) (f : Dsp → Dsp) (s : State) : (modDsp d f s).ports = s.ports := rfl
@[simp] theorem modDsp_slots (d : Nat) (f : Dsp → Dsp) (s : State) : (modDsp d f s).slots = s.slots := rfl
@[simp] theorem modDsp_slotPx (d : Nat) (f : Dsp → Dsp) (s : State) : (modDsp d f s).slotPx = s.slotPx := rfl
@[simp] theorem modDsp_entries (d : Nat) (f : Dsp → Dsp) (s : State) : (modDsp d f s).entries = s.entries := rfl
@[simp] theorem modDsp_merges (d : Nat) (f : Dsp → Dsp) (s : State) : (modDsp d f s).merges = s.merges := rfl
@[simp] theorem modDsp_groups (d : Nat) (f : Dsp → Dsp) (s : State) : (modDsp d f s).groups = s.groups := rfl
@[simp] theorem modDsp_layers (d : Nat) (f : Dsp → Dsp) (s : State) : (modDsp d f s).layers = s.layers := rfl
@[simp] theorem modDsp_canvPx (d : Nat) (f : Dsp → Dsp) (s : State) : (modDsp d f s).canvPx = s.canvPx := rfl
@[simp] theorem modDsp_cachePx (d : Nat) (f : Dsp → Dsp) (s : State) : (modDsp d f s).cachePx = s.cachePx := rfl
@[simp] theorem modDsp_decs (d : Nat) (f : Dsp → Dsp) (s : State) : (modDsp d f s).decs = s.decs := rfl
@[simp] theorem modDsp_mcs (d : Nat) (f : Dsp → Dsp) (s : State) : (modDsp d f s).mcs = s.mcs := rfl
@[simp] theorem modDsp_dram (d : Nat) (f : Dsp → Dsp) (s : State) : (modDsp d f s).dram = s.dram := rfl
@[simp] theorem modDsp_poison (d : Nat) (f : Dsp → Dsp) (s : State) : (modDsp d f s).poison = s.poison := rfl
@[simp] theorem modDsp_broken (d : Nat) (f : Dsp → Dsp) (s : State) : (modDsp d f s).broken = s.broken := rfl
@[simp] theorem modDsp_soft (d : Nat) (f : Dsp → Dsp) (s : State) : (modDsp d f s).soft = s.soft := rfl
@[simp] theorem modDsp_yoke (d : Nat) (f : Dsp → Dsp) (s : State) : (modDsp d f s).yoke = s.yoke := rfl
@[simp] theorem modDsp_aflows (d : Nat) (f : Dsp → Dsp) (s : State) : (modDsp d f s).aflows = s.aflows := rfl
@[simp] theorem modDsp_tdms (d : Nat) (f : Dsp → Dsp) (s : State) : (modDsp d f s).tdms = s.tdms := rfl
@[simp] theorem modDsp_ic (d : Nat) (f : Dsp → Dsp) (s : State) : (modDsp d f s).ic = s.ic := rfl
@[simp] theorem modDsp_lanes (d : Nat) (f : Dsp → Dsp) (s : State) : (modDsp d f s).lanes = s.lanes := rfl
@[simp] theorem modDsp_host (d : Nat) (f : Dsp → Dsp) (s : State) : (modDsp d f s).host = s.host := rfl
@[simp] theorem modDsp_fw (d : Nat) (f : Dsp → Dsp) (s : State) : (modDsp d f s).fw = s.fw := rfl
@[simp] theorem modDsp_tack (d : Nat) (f : Dsp → Dsp) (s : State) : (modDsp d f s).tack = s.tack := rfl
@[simp] theorem modDsp_services (d : Nat) (f : Dsp → Dsp) (s : State) : (modDsp d f s).services = s.services := rfl

@[simp] theorem modLayer_variant (i : Nat) (f : LayerSt → LayerSt) (s : State) : (modLayer i f s).variant = s.variant := rfl
@[simp] theorem modLayer_pending (i : Nat) (f : LayerSt → LayerSt) (s : State) : (modLayer i f s).pending = s.pending := rfl
@[simp] theorem modLayer_out (i : Nat) (f : LayerSt → LayerSt) (s : State) : (modLayer i f s).out = s.out := rfl
@[simp] theorem modLayer_fresh (i : Nat) (f : LayerSt → LayerSt) (s : State) : (modLayer i f s).fresh = s.fresh := rfl
@[simp] theorem modLayer_pwr (i : Nat) (f : LayerSt → LayerSt) (s : State) : (modLayer i f s).pwr = s.pwr := rfl
@[simp] theorem modLayer_time (i : Nat) (f : LayerSt → LayerSt) (s : State) : (modLayer i f s).time = s.time := rfl
@[simp] theorem modLayer_pages (i : Nat) (f : LayerSt → LayerSt) (s : State) : (modLayer i f s).pages = s.pages := rfl
@[simp] theorem modLayer_ctrs (i : Nat) (f : LayerSt → LayerSt) (s : State) : (modLayer i f s).ctrs = s.ctrs := rfl
@[simp] theorem modLayer_hold (i : Nat) (f : LayerSt → LayerSt) (s : State) : (modLayer i f s).hold = s.hold := rfl
@[simp] theorem modLayer_staged (i : Nat) (f : LayerSt → LayerSt) (s : State) : (modLayer i f s).staged = s.staged := rfl
@[simp] theorem modLayer_live (i : Nat) (f : LayerSt → LayerSt) (s : State) : (modLayer i f s).live = s.live := rfl
@[simp] theorem modLayer_eff (i : Nat) (f : LayerSt → LayerSt) (s : State) : (modLayer i f s).eff = s.eff := rfl
@[simp] theorem modLayer_regs (i : Nat) (f : LayerSt → LayerSt) (s : State) : (modLayer i f s).regs = s.regs := rfl
@[simp] theorem modLayer_ctab (i : Nat) (f : LayerSt → LayerSt) (s : State) : (modLayer i f s).ctab = s.ctab := rfl
@[simp] theorem modLayer_sets (i : Nat) (f : LayerSt → LayerSt) (s : State) : (modLayer i f s).sets = s.sets := rfl
@[simp] theorem modLayer_queue (i : Nat) (f : LayerSt → LayerSt) (s : State) : (modLayer i f s).queue = s.queue := rfl
@[simp] theorem modLayer_checking (i : Nat) (f : LayerSt → LayerSt) (s : State) : (modLayer i f s).checking = s.checking := rfl
@[simp] theorem modLayer_waits (i : Nat) (f : LayerSt → LayerSt) (s : State) : (modLayer i f s).waits = s.waits := rfl
@[simp] theorem modLayer_chans (i : Nat) (f : LayerSt → LayerSt) (s : State) : (modLayer i f s).chans = s.chans := rfl
@[simp] theorem modLayer_svcs (i : Nat) (f : LayerSt → LayerSt) (s : State) : (modLayer i f s).svcs = s.svcs := rfl
@[simp] theorem modLayer_flows (i : Nat) (f : LayerSt → LayerSt) (s : State) : (modLayer i f s).flows = s.flows := rfl
@[simp] theorem modLayer_stops (i : Nat) (f : LayerSt → LayerSt) (s : State) : (modLayer i f s).stops = s.stops := rfl
@[simp] theorem modLayer_quench (i : Nat) (f : LayerSt → LayerSt) (s : State) : (modLayer i f s).quench = s.quench := rfl
@[simp] theorem modLayer_ports (i : Nat) (f : LayerSt → LayerSt) (s : State) : (modLayer i f s).ports = s.ports := rfl
@[simp] theorem modLayer_slots (i : Nat) (f : LayerSt → LayerSt) (s : State) : (modLayer i f s).slots = s.slots := rfl
@[simp] theorem modLayer_slotPx (i : Nat) (f : LayerSt → LayerSt) (s : State) : (modLayer i f s).slotPx = s.slotPx := rfl
@[simp] theorem modLayer_entries (i : Nat) (f : LayerSt → LayerSt) (s : State) : (modLayer i f s).entries = s.entries := rfl
@[simp] theorem modLayer_merges (i : Nat) (f : LayerSt → LayerSt) (s : State) : (modLayer i f s).merges = s.merges := rfl
@[simp] theorem modLayer_groups (i : Nat) (f : LayerSt → LayerSt) (s : State) : (modLayer i f s).groups = s.groups := rfl
@[simp] theorem modLayer_canvPx (i : Nat) (f : LayerSt → LayerSt) (s : State) : (modLayer i f s).canvPx = s.canvPx := rfl
@[simp] theorem modLayer_cachePx (i : Nat) (f : LayerSt → LayerSt) (s : State) : (modLayer i f s).cachePx = s.cachePx := rfl
@[simp] theorem modLayer_decs (i : Nat) (f : LayerSt → LayerSt) (s : State) : (modLayer i f s).decs = s.decs := rfl
@[simp] theorem modLayer_dsps (i : Nat) (f : LayerSt → LayerSt) (s : State) : (modLayer i f s).dsps = s.dsps := rfl
@[simp] theorem modLayer_mcs (i : Nat) (f : LayerSt → LayerSt) (s : State) : (modLayer i f s).mcs = s.mcs := rfl
@[simp] theorem modLayer_dram (i : Nat) (f : LayerSt → LayerSt) (s : State) : (modLayer i f s).dram = s.dram := rfl
@[simp] theorem modLayer_poison (i : Nat) (f : LayerSt → LayerSt) (s : State) : (modLayer i f s).poison = s.poison := rfl
@[simp] theorem modLayer_broken (i : Nat) (f : LayerSt → LayerSt) (s : State) : (modLayer i f s).broken = s.broken := rfl
@[simp] theorem modLayer_soft (i : Nat) (f : LayerSt → LayerSt) (s : State) : (modLayer i f s).soft = s.soft := rfl
@[simp] theorem modLayer_yoke (i : Nat) (f : LayerSt → LayerSt) (s : State) : (modLayer i f s).yoke = s.yoke := rfl
@[simp] theorem modLayer_aflows (i : Nat) (f : LayerSt → LayerSt) (s : State) : (modLayer i f s).aflows = s.aflows := rfl
@[simp] theorem modLayer_tdms (i : Nat) (f : LayerSt → LayerSt) (s : State) : (modLayer i f s).tdms = s.tdms := rfl
@[simp] theorem modLayer_ic (i : Nat) (f : LayerSt → LayerSt) (s : State) : (modLayer i f s).ic = s.ic := rfl
@[simp] theorem modLayer_lanes (i : Nat) (f : LayerSt → LayerSt) (s : State) : (modLayer i f s).lanes = s.lanes := rfl
@[simp] theorem modLayer_host (i : Nat) (f : LayerSt → LayerSt) (s : State) : (modLayer i f s).host = s.host := rfl
@[simp] theorem modLayer_fw (i : Nat) (f : LayerSt → LayerSt) (s : State) : (modLayer i f s).fw = s.fw := rfl
@[simp] theorem modLayer_tack (i : Nat) (f : LayerSt → LayerSt) (s : State) : (modLayer i f s).tack = s.tack := rfl
@[simp] theorem modLayer_services (i : Nat) (f : LayerSt → LayerSt) (s : State) : (modLayer i f s).services = s.services := rfl

@[simp] theorem modGroup_variant (d g : Nat) (f : Group → Group) (s : State) : (modGroup d g f s).variant = s.variant := rfl
@[simp] theorem modGroup_pending (d g : Nat) (f : Group → Group) (s : State) : (modGroup d g f s).pending = s.pending := rfl
@[simp] theorem modGroup_out (d g : Nat) (f : Group → Group) (s : State) : (modGroup d g f s).out = s.out := rfl
@[simp] theorem modGroup_fresh (d g : Nat) (f : Group → Group) (s : State) : (modGroup d g f s).fresh = s.fresh := rfl
@[simp] theorem modGroup_pwr (d g : Nat) (f : Group → Group) (s : State) : (modGroup d g f s).pwr = s.pwr := rfl
@[simp] theorem modGroup_time (d g : Nat) (f : Group → Group) (s : State) : (modGroup d g f s).time = s.time := rfl
@[simp] theorem modGroup_pages (d g : Nat) (f : Group → Group) (s : State) : (modGroup d g f s).pages = s.pages := rfl
@[simp] theorem modGroup_ctrs (d g : Nat) (f : Group → Group) (s : State) : (modGroup d g f s).ctrs = s.ctrs := rfl
@[simp] theorem modGroup_hold (d g : Nat) (f : Group → Group) (s : State) : (modGroup d g f s).hold = s.hold := rfl
@[simp] theorem modGroup_staged (d g : Nat) (f : Group → Group) (s : State) : (modGroup d g f s).staged = s.staged := rfl
@[simp] theorem modGroup_live (d g : Nat) (f : Group → Group) (s : State) : (modGroup d g f s).live = s.live := rfl
@[simp] theorem modGroup_eff (d g : Nat) (f : Group → Group) (s : State) : (modGroup d g f s).eff = s.eff := rfl
@[simp] theorem modGroup_regs (d g : Nat) (f : Group → Group) (s : State) : (modGroup d g f s).regs = s.regs := rfl
@[simp] theorem modGroup_ctab (d g : Nat) (f : Group → Group) (s : State) : (modGroup d g f s).ctab = s.ctab := rfl
@[simp] theorem modGroup_sets (d g : Nat) (f : Group → Group) (s : State) : (modGroup d g f s).sets = s.sets := rfl
@[simp] theorem modGroup_queue (d g : Nat) (f : Group → Group) (s : State) : (modGroup d g f s).queue = s.queue := rfl
@[simp] theorem modGroup_checking (d g : Nat) (f : Group → Group) (s : State) : (modGroup d g f s).checking = s.checking := rfl
@[simp] theorem modGroup_waits (d g : Nat) (f : Group → Group) (s : State) : (modGroup d g f s).waits = s.waits := rfl
@[simp] theorem modGroup_chans (d g : Nat) (f : Group → Group) (s : State) : (modGroup d g f s).chans = s.chans := rfl
@[simp] theorem modGroup_svcs (d g : Nat) (f : Group → Group) (s : State) : (modGroup d g f s).svcs = s.svcs := rfl
@[simp] theorem modGroup_flows (d g : Nat) (f : Group → Group) (s : State) : (modGroup d g f s).flows = s.flows := rfl
@[simp] theorem modGroup_stops (d g : Nat) (f : Group → Group) (s : State) : (modGroup d g f s).stops = s.stops := rfl
@[simp] theorem modGroup_quench (d g : Nat) (f : Group → Group) (s : State) : (modGroup d g f s).quench = s.quench := rfl
@[simp] theorem modGroup_ports (d g : Nat) (f : Group → Group) (s : State) : (modGroup d g f s).ports = s.ports := rfl
@[simp] theorem modGroup_slots (d g : Nat) (f : Group → Group) (s : State) : (modGroup d g f s).slots = s.slots := rfl
@[simp] theorem modGroup_slotPx (d g : Nat) (f : Group → Group) (s : State) : (modGroup d g f s).slotPx = s.slotPx := rfl
@[simp] theorem modGroup_entries (d g : Nat) (f : Group → Group) (s : State) : (modGroup d g f s).entries = s.entries := rfl
@[simp] theorem modGroup_merges (d g : Nat) (f : Group → Group) (s : State) : (modGroup d g f s).merges = s.merges := rfl
@[simp] theorem modGroup_layers (d g : Nat) (f : Group → Group) (s : State) : (modGroup d g f s).layers = s.layers := rfl
@[simp] theorem modGroup_canvPx (d g : Nat) (f : Group → Group) (s : State) : (modGroup d g f s).canvPx = s.canvPx := rfl
@[simp] theorem modGroup_cachePx (d g : Nat) (f : Group → Group) (s : State) : (modGroup d g f s).cachePx = s.cachePx := rfl
@[simp] theorem modGroup_decs (d g : Nat) (f : Group → Group) (s : State) : (modGroup d g f s).decs = s.decs := rfl
@[simp] theorem modGroup_dsps (d g : Nat) (f : Group → Group) (s : State) : (modGroup d g f s).dsps = s.dsps := rfl
@[simp] theorem modGroup_mcs (d g : Nat) (f : Group → Group) (s : State) : (modGroup d g f s).mcs = s.mcs := rfl
@[simp] theorem modGroup_dram (d g : Nat) (f : Group → Group) (s : State) : (modGroup d g f s).dram = s.dram := rfl
@[simp] theorem modGroup_poison (d g : Nat) (f : Group → Group) (s : State) : (modGroup d g f s).poison = s.poison := rfl
@[simp] theorem modGroup_broken (d g : Nat) (f : Group → Group) (s : State) : (modGroup d g f s).broken = s.broken := rfl
@[simp] theorem modGroup_soft (d g : Nat) (f : Group → Group) (s : State) : (modGroup d g f s).soft = s.soft := rfl
@[simp] theorem modGroup_yoke (d g : Nat) (f : Group → Group) (s : State) : (modGroup d g f s).yoke = s.yoke := rfl
@[simp] theorem modGroup_aflows (d g : Nat) (f : Group → Group) (s : State) : (modGroup d g f s).aflows = s.aflows := rfl
@[simp] theorem modGroup_tdms (d g : Nat) (f : Group → Group) (s : State) : (modGroup d g f s).tdms = s.tdms := rfl
@[simp] theorem modGroup_ic (d g : Nat) (f : Group → Group) (s : State) : (modGroup d g f s).ic = s.ic := rfl
@[simp] theorem modGroup_lanes (d g : Nat) (f : Group → Group) (s : State) : (modGroup d g f s).lanes = s.lanes := rfl
@[simp] theorem modGroup_host (d g : Nat) (f : Group → Group) (s : State) : (modGroup d g f s).host = s.host := rfl
@[simp] theorem modGroup_fw (d g : Nat) (f : Group → Group) (s : State) : (modGroup d g f s).fw = s.fw := rfl
@[simp] theorem modGroup_tack (d g : Nat) (f : Group → Group) (s : State) : (modGroup d g f s).tack = s.tack := rfl
@[simp] theorem modGroup_services (d g : Nat) (f : Group → Group) (s : State) : (modGroup d g f s).services = s.services := rfl

@[simp] theorem modAflow_variant (f : Nat) (g : AFlow → AFlow) (s : State) : (modAflow f g s).variant = s.variant := rfl
@[simp] theorem modAflow_pending (f : Nat) (g : AFlow → AFlow) (s : State) : (modAflow f g s).pending = s.pending := rfl
@[simp] theorem modAflow_out (f : Nat) (g : AFlow → AFlow) (s : State) : (modAflow f g s).out = s.out := rfl
@[simp] theorem modAflow_fresh (f : Nat) (g : AFlow → AFlow) (s : State) : (modAflow f g s).fresh = s.fresh := rfl
@[simp] theorem modAflow_pwr (f : Nat) (g : AFlow → AFlow) (s : State) : (modAflow f g s).pwr = s.pwr := rfl
@[simp] theorem modAflow_time (f : Nat) (g : AFlow → AFlow) (s : State) : (modAflow f g s).time = s.time := rfl
@[simp] theorem modAflow_pages (f : Nat) (g : AFlow → AFlow) (s : State) : (modAflow f g s).pages = s.pages := rfl
@[simp] theorem modAflow_ctrs (f : Nat) (g : AFlow → AFlow) (s : State) : (modAflow f g s).ctrs = s.ctrs := rfl
@[simp] theorem modAflow_hold (f : Nat) (g : AFlow → AFlow) (s : State) : (modAflow f g s).hold = s.hold := rfl
@[simp] theorem modAflow_staged (f : Nat) (g : AFlow → AFlow) (s : State) : (modAflow f g s).staged = s.staged := rfl
@[simp] theorem modAflow_live (f : Nat) (g : AFlow → AFlow) (s : State) : (modAflow f g s).live = s.live := rfl
@[simp] theorem modAflow_eff (f : Nat) (g : AFlow → AFlow) (s : State) : (modAflow f g s).eff = s.eff := rfl
@[simp] theorem modAflow_regs (f : Nat) (g : AFlow → AFlow) (s : State) : (modAflow f g s).regs = s.regs := rfl
@[simp] theorem modAflow_ctab (f : Nat) (g : AFlow → AFlow) (s : State) : (modAflow f g s).ctab = s.ctab := rfl
@[simp] theorem modAflow_sets (f : Nat) (g : AFlow → AFlow) (s : State) : (modAflow f g s).sets = s.sets := rfl
@[simp] theorem modAflow_queue (f : Nat) (g : AFlow → AFlow) (s : State) : (modAflow f g s).queue = s.queue := rfl
@[simp] theorem modAflow_checking (f : Nat) (g : AFlow → AFlow) (s : State) : (modAflow f g s).checking = s.checking := rfl
@[simp] theorem modAflow_waits (f : Nat) (g : AFlow → AFlow) (s : State) : (modAflow f g s).waits = s.waits := rfl
@[simp] theorem modAflow_chans (f : Nat) (g : AFlow → AFlow) (s : State) : (modAflow f g s).chans = s.chans := rfl
@[simp] theorem modAflow_svcs (f : Nat) (g : AFlow → AFlow) (s : State) : (modAflow f g s).svcs = s.svcs := rfl
@[simp] theorem modAflow_flows (f : Nat) (g : AFlow → AFlow) (s : State) : (modAflow f g s).flows = s.flows := rfl
@[simp] theorem modAflow_stops (f : Nat) (g : AFlow → AFlow) (s : State) : (modAflow f g s).stops = s.stops := rfl
@[simp] theorem modAflow_quench (f : Nat) (g : AFlow → AFlow) (s : State) : (modAflow f g s).quench = s.quench := rfl
@[simp] theorem modAflow_ports (f : Nat) (g : AFlow → AFlow) (s : State) : (modAflow f g s).ports = s.ports := rfl
@[simp] theorem modAflow_slots (f : Nat) (g : AFlow → AFlow) (s : State) : (modAflow f g s).slots = s.slots := rfl
@[simp] theorem modAflow_slotPx (f : Nat) (g : AFlow → AFlow) (s : State) : (modAflow f g s).slotPx = s.slotPx := rfl
@[simp] theorem modAflow_entries (f : Nat) (g : AFlow → AFlow) (s : State) : (modAflow f g s).entries = s.entries := rfl
@[simp] theorem modAflow_merges (f : Nat) (g : AFlow → AFlow) (s : State) : (modAflow f g s).merges = s.merges := rfl
@[simp] theorem modAflow_groups (f : Nat) (g : AFlow → AFlow) (s : State) : (modAflow f g s).groups = s.groups := rfl
@[simp] theorem modAflow_layers (f : Nat) (g : AFlow → AFlow) (s : State) : (modAflow f g s).layers = s.layers := rfl
@[simp] theorem modAflow_canvPx (f : Nat) (g : AFlow → AFlow) (s : State) : (modAflow f g s).canvPx = s.canvPx := rfl
@[simp] theorem modAflow_cachePx (f : Nat) (g : AFlow → AFlow) (s : State) : (modAflow f g s).cachePx = s.cachePx := rfl
@[simp] theorem modAflow_decs (f : Nat) (g : AFlow → AFlow) (s : State) : (modAflow f g s).decs = s.decs := rfl
@[simp] theorem modAflow_dsps (f : Nat) (g : AFlow → AFlow) (s : State) : (modAflow f g s).dsps = s.dsps := rfl
@[simp] theorem modAflow_mcs (f : Nat) (g : AFlow → AFlow) (s : State) : (modAflow f g s).mcs = s.mcs := rfl
@[simp] theorem modAflow_dram (f : Nat) (g : AFlow → AFlow) (s : State) : (modAflow f g s).dram = s.dram := rfl
@[simp] theorem modAflow_poison (f : Nat) (g : AFlow → AFlow) (s : State) : (modAflow f g s).poison = s.poison := rfl
@[simp] theorem modAflow_broken (f : Nat) (g : AFlow → AFlow) (s : State) : (modAflow f g s).broken = s.broken := rfl
@[simp] theorem modAflow_soft (f : Nat) (g : AFlow → AFlow) (s : State) : (modAflow f g s).soft = s.soft := rfl
@[simp] theorem modAflow_yoke (f : Nat) (g : AFlow → AFlow) (s : State) : (modAflow f g s).yoke = s.yoke := rfl
@[simp] theorem modAflow_tdms (f : Nat) (g : AFlow → AFlow) (s : State) : (modAflow f g s).tdms = s.tdms := rfl
@[simp] theorem modAflow_ic (f : Nat) (g : AFlow → AFlow) (s : State) : (modAflow f g s).ic = s.ic := rfl
@[simp] theorem modAflow_lanes (f : Nat) (g : AFlow → AFlow) (s : State) : (modAflow f g s).lanes = s.lanes := rfl
@[simp] theorem modAflow_host (f : Nat) (g : AFlow → AFlow) (s : State) : (modAflow f g s).host = s.host := rfl
@[simp] theorem modAflow_fw (f : Nat) (g : AFlow → AFlow) (s : State) : (modAflow f g s).fw = s.fw := rfl
@[simp] theorem modAflow_tack (f : Nat) (g : AFlow → AFlow) (s : State) : (modAflow f g s).tack = s.tack := rfl
@[simp] theorem modAflow_services (f : Nat) (g : AFlow → AFlow) (s : State) : (modAflow f g s).services = s.services := rfl

@[simp] theorem modTdm_variant (p : Nat) (g : Tdm → Tdm) (s : State) : (modTdm p g s).variant = s.variant := rfl
@[simp] theorem modTdm_pending (p : Nat) (g : Tdm → Tdm) (s : State) : (modTdm p g s).pending = s.pending := rfl
@[simp] theorem modTdm_out (p : Nat) (g : Tdm → Tdm) (s : State) : (modTdm p g s).out = s.out := rfl
@[simp] theorem modTdm_fresh (p : Nat) (g : Tdm → Tdm) (s : State) : (modTdm p g s).fresh = s.fresh := rfl
@[simp] theorem modTdm_pwr (p : Nat) (g : Tdm → Tdm) (s : State) : (modTdm p g s).pwr = s.pwr := rfl
@[simp] theorem modTdm_time (p : Nat) (g : Tdm → Tdm) (s : State) : (modTdm p g s).time = s.time := rfl
@[simp] theorem modTdm_pages (p : Nat) (g : Tdm → Tdm) (s : State) : (modTdm p g s).pages = s.pages := rfl
@[simp] theorem modTdm_ctrs (p : Nat) (g : Tdm → Tdm) (s : State) : (modTdm p g s).ctrs = s.ctrs := rfl
@[simp] theorem modTdm_hold (p : Nat) (g : Tdm → Tdm) (s : State) : (modTdm p g s).hold = s.hold := rfl
@[simp] theorem modTdm_staged (p : Nat) (g : Tdm → Tdm) (s : State) : (modTdm p g s).staged = s.staged := rfl
@[simp] theorem modTdm_live (p : Nat) (g : Tdm → Tdm) (s : State) : (modTdm p g s).live = s.live := rfl
@[simp] theorem modTdm_eff (p : Nat) (g : Tdm → Tdm) (s : State) : (modTdm p g s).eff = s.eff := rfl
@[simp] theorem modTdm_regs (p : Nat) (g : Tdm → Tdm) (s : State) : (modTdm p g s).regs = s.regs := rfl
@[simp] theorem modTdm_ctab (p : Nat) (g : Tdm → Tdm) (s : State) : (modTdm p g s).ctab = s.ctab := rfl
@[simp] theorem modTdm_sets (p : Nat) (g : Tdm → Tdm) (s : State) : (modTdm p g s).sets = s.sets := rfl
@[simp] theorem modTdm_queue (p : Nat) (g : Tdm → Tdm) (s : State) : (modTdm p g s).queue = s.queue := rfl
@[simp] theorem modTdm_checking (p : Nat) (g : Tdm → Tdm) (s : State) : (modTdm p g s).checking = s.checking := rfl
@[simp] theorem modTdm_waits (p : Nat) (g : Tdm → Tdm) (s : State) : (modTdm p g s).waits = s.waits := rfl
@[simp] theorem modTdm_chans (p : Nat) (g : Tdm → Tdm) (s : State) : (modTdm p g s).chans = s.chans := rfl
@[simp] theorem modTdm_svcs (p : Nat) (g : Tdm → Tdm) (s : State) : (modTdm p g s).svcs = s.svcs := rfl
@[simp] theorem modTdm_flows (p : Nat) (g : Tdm → Tdm) (s : State) : (modTdm p g s).flows = s.flows := rfl
@[simp] theorem modTdm_stops (p : Nat) (g : Tdm → Tdm) (s : State) : (modTdm p g s).stops = s.stops := rfl
@[simp] theorem modTdm_quench (p : Nat) (g : Tdm → Tdm) (s : State) : (modTdm p g s).quench = s.quench := rfl
@[simp] theorem modTdm_ports (p : Nat) (g : Tdm → Tdm) (s : State) : (modTdm p g s).ports = s.ports := rfl
@[simp] theorem modTdm_slots (p : Nat) (g : Tdm → Tdm) (s : State) : (modTdm p g s).slots = s.slots := rfl
@[simp] theorem modTdm_slotPx (p : Nat) (g : Tdm → Tdm) (s : State) : (modTdm p g s).slotPx = s.slotPx := rfl
@[simp] theorem modTdm_entries (p : Nat) (g : Tdm → Tdm) (s : State) : (modTdm p g s).entries = s.entries := rfl
@[simp] theorem modTdm_merges (p : Nat) (g : Tdm → Tdm) (s : State) : (modTdm p g s).merges = s.merges := rfl
@[simp] theorem modTdm_groups (p : Nat) (g : Tdm → Tdm) (s : State) : (modTdm p g s).groups = s.groups := rfl
@[simp] theorem modTdm_layers (p : Nat) (g : Tdm → Tdm) (s : State) : (modTdm p g s).layers = s.layers := rfl
@[simp] theorem modTdm_canvPx (p : Nat) (g : Tdm → Tdm) (s : State) : (modTdm p g s).canvPx = s.canvPx := rfl
@[simp] theorem modTdm_cachePx (p : Nat) (g : Tdm → Tdm) (s : State) : (modTdm p g s).cachePx = s.cachePx := rfl
@[simp] theorem modTdm_decs (p : Nat) (g : Tdm → Tdm) (s : State) : (modTdm p g s).decs = s.decs := rfl
@[simp] theorem modTdm_dsps (p : Nat) (g : Tdm → Tdm) (s : State) : (modTdm p g s).dsps = s.dsps := rfl
@[simp] theorem modTdm_mcs (p : Nat) (g : Tdm → Tdm) (s : State) : (modTdm p g s).mcs = s.mcs := rfl
@[simp] theorem modTdm_dram (p : Nat) (g : Tdm → Tdm) (s : State) : (modTdm p g s).dram = s.dram := rfl
@[simp] theorem modTdm_poison (p : Nat) (g : Tdm → Tdm) (s : State) : (modTdm p g s).poison = s.poison := rfl
@[simp] theorem modTdm_broken (p : Nat) (g : Tdm → Tdm) (s : State) : (modTdm p g s).broken = s.broken := rfl
@[simp] theorem modTdm_soft (p : Nat) (g : Tdm → Tdm) (s : State) : (modTdm p g s).soft = s.soft := rfl
@[simp] theorem modTdm_yoke (p : Nat) (g : Tdm → Tdm) (s : State) : (modTdm p g s).yoke = s.yoke := rfl
@[simp] theorem modTdm_aflows (p : Nat) (g : Tdm → Tdm) (s : State) : (modTdm p g s).aflows = s.aflows := rfl
@[simp] theorem modTdm_ic (p : Nat) (g : Tdm → Tdm) (s : State) : (modTdm p g s).ic = s.ic := rfl
@[simp] theorem modTdm_lanes (p : Nat) (g : Tdm → Tdm) (s : State) : (modTdm p g s).lanes = s.lanes := rfl
@[simp] theorem modTdm_host (p : Nat) (g : Tdm → Tdm) (s : State) : (modTdm p g s).host = s.host := rfl
@[simp] theorem modTdm_fw (p : Nat) (g : Tdm → Tdm) (s : State) : (modTdm p g s).fw = s.fw := rfl
@[simp] theorem modTdm_tack (p : Nat) (g : Tdm → Tdm) (s : State) : (modTdm p g s).tack = s.tack := rfl
@[simp] theorem modTdm_services (p : Nat) (g : Tdm → Tdm) (s : State) : (modTdm p g s).services = s.services := rfl

@[simp] theorem modSlot_variant (d n : Nat) (f : Slot → Slot) (s : State) : (modSlot d n f s).variant = s.variant := rfl
@[simp] theorem modSlot_pending (d n : Nat) (f : Slot → Slot) (s : State) : (modSlot d n f s).pending = s.pending := rfl
@[simp] theorem modSlot_out (d n : Nat) (f : Slot → Slot) (s : State) : (modSlot d n f s).out = s.out := rfl
@[simp] theorem modSlot_fresh (d n : Nat) (f : Slot → Slot) (s : State) : (modSlot d n f s).fresh = s.fresh := rfl
@[simp] theorem modSlot_pwr (d n : Nat) (f : Slot → Slot) (s : State) : (modSlot d n f s).pwr = s.pwr := rfl
@[simp] theorem modSlot_time (d n : Nat) (f : Slot → Slot) (s : State) : (modSlot d n f s).time = s.time := rfl
@[simp] theorem modSlot_pages (d n : Nat) (f : Slot → Slot) (s : State) : (modSlot d n f s).pages = s.pages := rfl
@[simp] theorem modSlot_ctrs (d n : Nat) (f : Slot → Slot) (s : State) : (modSlot d n f s).ctrs = s.ctrs := rfl
@[simp] theorem modSlot_hold (d n : Nat) (f : Slot → Slot) (s : State) : (modSlot d n f s).hold = s.hold := rfl
@[simp] theorem modSlot_staged (d n : Nat) (f : Slot → Slot) (s : State) : (modSlot d n f s).staged = s.staged := rfl
@[simp] theorem modSlot_live (d n : Nat) (f : Slot → Slot) (s : State) : (modSlot d n f s).live = s.live := rfl
@[simp] theorem modSlot_eff (d n : Nat) (f : Slot → Slot) (s : State) : (modSlot d n f s).eff = s.eff := rfl
@[simp] theorem modSlot_regs (d n : Nat) (f : Slot → Slot) (s : State) : (modSlot d n f s).regs = s.regs := rfl
@[simp] theorem modSlot_ctab (d n : Nat) (f : Slot → Slot) (s : State) : (modSlot d n f s).ctab = s.ctab := rfl
@[simp] theorem modSlot_sets (d n : Nat) (f : Slot → Slot) (s : State) : (modSlot d n f s).sets = s.sets := rfl
@[simp] theorem modSlot_queue (d n : Nat) (f : Slot → Slot) (s : State) : (modSlot d n f s).queue = s.queue := rfl
@[simp] theorem modSlot_checking (d n : Nat) (f : Slot → Slot) (s : State) : (modSlot d n f s).checking = s.checking := rfl
@[simp] theorem modSlot_waits (d n : Nat) (f : Slot → Slot) (s : State) : (modSlot d n f s).waits = s.waits := rfl
@[simp] theorem modSlot_chans (d n : Nat) (f : Slot → Slot) (s : State) : (modSlot d n f s).chans = s.chans := rfl
@[simp] theorem modSlot_svcs (d n : Nat) (f : Slot → Slot) (s : State) : (modSlot d n f s).svcs = s.svcs := rfl
@[simp] theorem modSlot_flows (d n : Nat) (f : Slot → Slot) (s : State) : (modSlot d n f s).flows = s.flows := rfl
@[simp] theorem modSlot_stops (d n : Nat) (f : Slot → Slot) (s : State) : (modSlot d n f s).stops = s.stops := rfl
@[simp] theorem modSlot_quench (d n : Nat) (f : Slot → Slot) (s : State) : (modSlot d n f s).quench = s.quench := rfl
@[simp] theorem modSlot_ports (d n : Nat) (f : Slot → Slot) (s : State) : (modSlot d n f s).ports = s.ports := rfl
@[simp] theorem modSlot_slotPx (d n : Nat) (f : Slot → Slot) (s : State) : (modSlot d n f s).slotPx = s.slotPx := rfl
@[simp] theorem modSlot_entries (d n : Nat) (f : Slot → Slot) (s : State) : (modSlot d n f s).entries = s.entries := rfl
@[simp] theorem modSlot_merges (d n : Nat) (f : Slot → Slot) (s : State) : (modSlot d n f s).merges = s.merges := rfl
@[simp] theorem modSlot_groups (d n : Nat) (f : Slot → Slot) (s : State) : (modSlot d n f s).groups = s.groups := rfl
@[simp] theorem modSlot_layers (d n : Nat) (f : Slot → Slot) (s : State) : (modSlot d n f s).layers = s.layers := rfl
@[simp] theorem modSlot_canvPx (d n : Nat) (f : Slot → Slot) (s : State) : (modSlot d n f s).canvPx = s.canvPx := rfl
@[simp] theorem modSlot_cachePx (d n : Nat) (f : Slot → Slot) (s : State) : (modSlot d n f s).cachePx = s.cachePx := rfl
@[simp] theorem modSlot_decs (d n : Nat) (f : Slot → Slot) (s : State) : (modSlot d n f s).decs = s.decs := rfl
@[simp] theorem modSlot_dsps (d n : Nat) (f : Slot → Slot) (s : State) : (modSlot d n f s).dsps = s.dsps := rfl
@[simp] theorem modSlot_mcs (d n : Nat) (f : Slot → Slot) (s : State) : (modSlot d n f s).mcs = s.mcs := rfl
@[simp] theorem modSlot_dram (d n : Nat) (f : Slot → Slot) (s : State) : (modSlot d n f s).dram = s.dram := rfl
@[simp] theorem modSlot_poison (d n : Nat) (f : Slot → Slot) (s : State) : (modSlot d n f s).poison = s.poison := rfl
@[simp] theorem modSlot_broken (d n : Nat) (f : Slot → Slot) (s : State) : (modSlot d n f s).broken = s.broken := rfl
@[simp] theorem modSlot_soft (d n : Nat) (f : Slot → Slot) (s : State) : (modSlot d n f s).soft = s.soft := rfl
@[simp] theorem modSlot_yoke (d n : Nat) (f : Slot → Slot) (s : State) : (modSlot d n f s).yoke = s.yoke := rfl
@[simp] theorem modSlot_aflows (d n : Nat) (f : Slot → Slot) (s : State) : (modSlot d n f s).aflows = s.aflows := rfl
@[simp] theorem modSlot_tdms (d n : Nat) (f : Slot → Slot) (s : State) : (modSlot d n f s).tdms = s.tdms := rfl
@[simp] theorem modSlot_ic (d n : Nat) (f : Slot → Slot) (s : State) : (modSlot d n f s).ic = s.ic := rfl
@[simp] theorem modSlot_lanes (d n : Nat) (f : Slot → Slot) (s : State) : (modSlot d n f s).lanes = s.lanes := rfl
@[simp] theorem modSlot_host (d n : Nat) (f : Slot → Slot) (s : State) : (modSlot d n f s).host = s.host := rfl
@[simp] theorem modSlot_fw (d n : Nat) (f : Slot → Slot) (s : State) : (modSlot d n f s).fw = s.fw := rfl
@[simp] theorem modSlot_tack (d n : Nat) (f : Slot → Slot) (s : State) : (modSlot d n f s).tack = s.tack := rfl
@[simp] theorem modSlot_services (d n : Nat) (f : Slot → Slot) (s : State) : (modSlot d n f s).services = s.services := rfl

@[simp] theorem modSlotPic_variant (d n m : Nat) (f : SlotPic → SlotPic) (s : State) : (modSlotPic d n m f s).variant = s.variant := rfl
@[simp] theorem modSlotPic_pending (d n m : Nat) (f : SlotPic → SlotPic) (s : State) : (modSlotPic d n m f s).pending = s.pending := rfl
@[simp] theorem modSlotPic_out (d n m : Nat) (f : SlotPic → SlotPic) (s : State) : (modSlotPic d n m f s).out = s.out := rfl
@[simp] theorem modSlotPic_fresh (d n m : Nat) (f : SlotPic → SlotPic) (s : State) : (modSlotPic d n m f s).fresh = s.fresh := rfl
@[simp] theorem modSlotPic_pwr (d n m : Nat) (f : SlotPic → SlotPic) (s : State) : (modSlotPic d n m f s).pwr = s.pwr := rfl
@[simp] theorem modSlotPic_time (d n m : Nat) (f : SlotPic → SlotPic) (s : State) : (modSlotPic d n m f s).time = s.time := rfl
@[simp] theorem modSlotPic_pages (d n m : Nat) (f : SlotPic → SlotPic) (s : State) : (modSlotPic d n m f s).pages = s.pages := rfl
@[simp] theorem modSlotPic_ctrs (d n m : Nat) (f : SlotPic → SlotPic) (s : State) : (modSlotPic d n m f s).ctrs = s.ctrs := rfl
@[simp] theorem modSlotPic_hold (d n m : Nat) (f : SlotPic → SlotPic) (s : State) : (modSlotPic d n m f s).hold = s.hold := rfl
@[simp] theorem modSlotPic_staged (d n m : Nat) (f : SlotPic → SlotPic) (s : State) : (modSlotPic d n m f s).staged = s.staged := rfl
@[simp] theorem modSlotPic_live (d n m : Nat) (f : SlotPic → SlotPic) (s : State) : (modSlotPic d n m f s).live = s.live := rfl
@[simp] theorem modSlotPic_eff (d n m : Nat) (f : SlotPic → SlotPic) (s : State) : (modSlotPic d n m f s).eff = s.eff := rfl
@[simp] theorem modSlotPic_regs (d n m : Nat) (f : SlotPic → SlotPic) (s : State) : (modSlotPic d n m f s).regs = s.regs := rfl
@[simp] theorem modSlotPic_ctab (d n m : Nat) (f : SlotPic → SlotPic) (s : State) : (modSlotPic d n m f s).ctab = s.ctab := rfl
@[simp] theorem modSlotPic_sets (d n m : Nat) (f : SlotPic → SlotPic) (s : State) : (modSlotPic d n m f s).sets = s.sets := rfl
@[simp] theorem modSlotPic_queue (d n m : Nat) (f : SlotPic → SlotPic) (s : State) : (modSlotPic d n m f s).queue = s.queue := rfl
@[simp] theorem modSlotPic_checking (d n m : Nat) (f : SlotPic → SlotPic) (s : State) : (modSlotPic d n m f s).checking = s.checking := rfl
@[simp] theorem modSlotPic_waits (d n m : Nat) (f : SlotPic → SlotPic) (s : State) : (modSlotPic d n m f s).waits = s.waits := rfl
@[simp] theorem modSlotPic_chans (d n m : Nat) (f : SlotPic → SlotPic) (s : State) : (modSlotPic d n m f s).chans = s.chans := rfl
@[simp] theorem modSlotPic_svcs (d n m : Nat) (f : SlotPic → SlotPic) (s : State) : (modSlotPic d n m f s).svcs = s.svcs := rfl
@[simp] theorem modSlotPic_flows (d n m : Nat) (f : SlotPic → SlotPic) (s : State) : (modSlotPic d n m f s).flows = s.flows := rfl
@[simp] theorem modSlotPic_stops (d n m : Nat) (f : SlotPic → SlotPic) (s : State) : (modSlotPic d n m f s).stops = s.stops := rfl
@[simp] theorem modSlotPic_quench (d n m : Nat) (f : SlotPic → SlotPic) (s : State) : (modSlotPic d n m f s).quench = s.quench := rfl
@[simp] theorem modSlotPic_ports (d n m : Nat) (f : SlotPic → SlotPic) (s : State) : (modSlotPic d n m f s).ports = s.ports := rfl
@[simp] theorem modSlotPic_slotPx (d n m : Nat) (f : SlotPic → SlotPic) (s : State) : (modSlotPic d n m f s).slotPx = s.slotPx := rfl
@[simp] theorem modSlotPic_entries (d n m : Nat) (f : SlotPic → SlotPic) (s : State) : (modSlotPic d n m f s).entries = s.entries := rfl
@[simp] theorem modSlotPic_merges (d n m : Nat) (f : SlotPic → SlotPic) (s : State) : (modSlotPic d n m f s).merges = s.merges := rfl
@[simp] theorem modSlotPic_groups (d n m : Nat) (f : SlotPic → SlotPic) (s : State) : (modSlotPic d n m f s).groups = s.groups := rfl
@[simp] theorem modSlotPic_layers (d n m : Nat) (f : SlotPic → SlotPic) (s : State) : (modSlotPic d n m f s).layers = s.layers := rfl
@[simp] theorem modSlotPic_canvPx (d n m : Nat) (f : SlotPic → SlotPic) (s : State) : (modSlotPic d n m f s).canvPx = s.canvPx := rfl
@[simp] theorem modSlotPic_cachePx (d n m : Nat) (f : SlotPic → SlotPic) (s : State) : (modSlotPic d n m f s).cachePx = s.cachePx := rfl
@[simp] theorem modSlotPic_decs (d n m : Nat) (f : SlotPic → SlotPic) (s : State) : (modSlotPic d n m f s).decs = s.decs := rfl
@[simp] theorem modSlotPic_dsps (d n m : Nat) (f : SlotPic → SlotPic) (s : State) : (modSlotPic d n m f s).dsps = s.dsps := rfl
@[simp] theorem modSlotPic_mcs (d n m : Nat) (f : SlotPic → SlotPic) (s : State) : (modSlotPic d n m f s).mcs = s.mcs := rfl
@[simp] theorem modSlotPic_dram (d n m : Nat) (f : SlotPic → SlotPic) (s : State) : (modSlotPic d n m f s).dram = s.dram := rfl
@[simp] theorem modSlotPic_poison (d n m : Nat) (f : SlotPic → SlotPic) (s : State) : (modSlotPic d n m f s).poison = s.poison := rfl
@[simp] theorem modSlotPic_broken (d n m : Nat) (f : SlotPic → SlotPic) (s : State) : (modSlotPic d n m f s).broken = s.broken := rfl
@[simp] theorem modSlotPic_soft (d n m : Nat) (f : SlotPic → SlotPic) (s : State) : (modSlotPic d n m f s).soft = s.soft := rfl
@[simp] theorem modSlotPic_yoke (d n m : Nat) (f : SlotPic → SlotPic) (s : State) : (modSlotPic d n m f s).yoke = s.yoke := rfl
@[simp] theorem modSlotPic_aflows (d n m : Nat) (f : SlotPic → SlotPic) (s : State) : (modSlotPic d n m f s).aflows = s.aflows := rfl
@[simp] theorem modSlotPic_tdms (d n m : Nat) (f : SlotPic → SlotPic) (s : State) : (modSlotPic d n m f s).tdms = s.tdms := rfl
@[simp] theorem modSlotPic_ic (d n m : Nat) (f : SlotPic → SlotPic) (s : State) : (modSlotPic d n m f s).ic = s.ic := rfl
@[simp] theorem modSlotPic_lanes (d n m : Nat) (f : SlotPic → SlotPic) (s : State) : (modSlotPic d n m f s).lanes = s.lanes := rfl
@[simp] theorem modSlotPic_host (d n m : Nat) (f : SlotPic → SlotPic) (s : State) : (modSlotPic d n m f s).host = s.host := rfl
@[simp] theorem modSlotPic_fw (d n m : Nat) (f : SlotPic → SlotPic) (s : State) : (modSlotPic d n m f s).fw = s.fw := rfl
@[simp] theorem modSlotPic_tack (d n m : Nat) (f : SlotPic → SlotPic) (s : State) : (modSlotPic d n m f s).tack = s.tack := rfl
@[simp] theorem modSlotPic_services (d n m : Nat) (f : SlotPic → SlotPic) (s : State) : (modSlotPic d n m f s).services = s.services := rfl

@[simp] theorem modEntry_variant (e : Nat) (f : Entry → Entry) (s : State) : (modEntry e f s).variant = s.variant := rfl
@[simp] theorem modEntry_pending (e : Nat) (f : Entry → Entry) (s : State) : (modEntry e f s).pending = s.pending := rfl
@[simp] theorem modEntry_out (e : Nat) (f : Entry → Entry) (s : State) : (modEntry e f s).out = s.out := rfl
@[simp] theorem modEntry_fresh (e : Nat) (f : Entry → Entry) (s : State) : (modEntry e f s).fresh = s.fresh := rfl
@[simp] theorem modEntry_pwr (e : Nat) (f : Entry → Entry) (s : State) : (modEntry e f s).pwr = s.pwr := rfl
@[simp] theorem modEntry_time (e : Nat) (f : Entry → Entry) (s : State) : (modEntry e f s).time = s.time := rfl
@[simp] theorem modEntry_pages (e : Nat) (f : Entry → Entry) (s : State) : (modEntry e f s).pages = s.pages := rfl
@[simp] theorem modEntry_ctrs (e : Nat) (f : Entry → Entry) (s : State) : (modEntry e f s).ctrs = s.ctrs := rfl
@[simp] theorem modEntry_hold (e : Nat) (f : Entry → Entry) (s : State) : (modEntry e f s).hold = s.hold := rfl
@[simp] theorem modEntry_staged (e : Nat) (f : Entry → Entry) (s : State) : (modEntry e f s).staged = s.staged := rfl
@[simp] theorem modEntry_live (e : Nat) (f : Entry → Entry) (s : State) : (modEntry e f s).live = s.live := rfl
@[simp] theorem modEntry_eff (e : Nat) (f : Entry → Entry) (s : State) : (modEntry e f s).eff = s.eff := rfl
@[simp] theorem modEntry_regs (e : Nat) (f : Entry → Entry) (s : State) : (modEntry e f s).regs = s.regs := rfl
@[simp] theorem modEntry_ctab (e : Nat) (f : Entry → Entry) (s : State) : (modEntry e f s).ctab = s.ctab := rfl
@[simp] theorem modEntry_sets (e : Nat) (f : Entry → Entry) (s : State) : (modEntry e f s).sets = s.sets := rfl
@[simp] theorem modEntry_queue (e : Nat) (f : Entry → Entry) (s : State) : (modEntry e f s).queue = s.queue := rfl
@[simp] theorem modEntry_checking (e : Nat) (f : Entry → Entry) (s : State) : (modEntry e f s).checking = s.checking := rfl
@[simp] theorem modEntry_waits (e : Nat) (f : Entry → Entry) (s : State) : (modEntry e f s).waits = s.waits := rfl
@[simp] theorem modEntry_chans (e : Nat) (f : Entry → Entry) (s : State) : (modEntry e f s).chans = s.chans := rfl
@[simp] theorem modEntry_svcs (e : Nat) (f : Entry → Entry) (s : State) : (modEntry e f s).svcs = s.svcs := rfl
@[simp] theorem modEntry_flows (e : Nat) (f : Entry → Entry) (s : State) : (modEntry e f s).flows = s.flows := rfl
@[simp] theorem modEntry_stops (e : Nat) (f : Entry → Entry) (s : State) : (modEntry e f s).stops = s.stops := rfl
@[simp] theorem modEntry_quench (e : Nat) (f : Entry → Entry) (s : State) : (modEntry e f s).quench = s.quench := rfl
@[simp] theorem modEntry_ports (e : Nat) (f : Entry → Entry) (s : State) : (modEntry e f s).ports = s.ports := rfl
@[simp] theorem modEntry_slots (e : Nat) (f : Entry → Entry) (s : State) : (modEntry e f s).slots = s.slots := rfl
@[simp] theorem modEntry_slotPx (e : Nat) (f : Entry → Entry) (s : State) : (modEntry e f s).slotPx = s.slotPx := rfl
@[simp] theorem modEntry_merges (e : Nat) (f : Entry → Entry) (s : State) : (modEntry e f s).merges = s.merges := rfl
@[simp] theorem modEntry_groups (e : Nat) (f : Entry → Entry) (s : State) : (modEntry e f s).groups = s.groups := rfl
@[simp] theorem modEntry_layers (e : Nat) (f : Entry → Entry) (s : State) : (modEntry e f s).layers = s.layers := rfl
@[simp] theorem modEntry_canvPx (e : Nat) (f : Entry → Entry) (s : State) : (modEntry e f s).canvPx = s.canvPx := rfl
@[simp] theorem modEntry_cachePx (e : Nat) (f : Entry → Entry) (s : State) : (modEntry e f s).cachePx = s.cachePx := rfl
@[simp] theorem modEntry_decs (e : Nat) (f : Entry → Entry) (s : State) : (modEntry e f s).decs = s.decs := rfl
@[simp] theorem modEntry_dsps (e : Nat) (f : Entry → Entry) (s : State) : (modEntry e f s).dsps = s.dsps := rfl
@[simp] theorem modEntry_mcs (e : Nat) (f : Entry → Entry) (s : State) : (modEntry e f s).mcs = s.mcs := rfl
@[simp] theorem modEntry_dram (e : Nat) (f : Entry → Entry) (s : State) : (modEntry e f s).dram = s.dram := rfl
@[simp] theorem modEntry_poison (e : Nat) (f : Entry → Entry) (s : State) : (modEntry e f s).poison = s.poison := rfl
@[simp] theorem modEntry_broken (e : Nat) (f : Entry → Entry) (s : State) : (modEntry e f s).broken = s.broken := rfl
@[simp] theorem modEntry_soft (e : Nat) (f : Entry → Entry) (s : State) : (modEntry e f s).soft = s.soft := rfl
@[simp] theorem modEntry_yoke (e : Nat) (f : Entry → Entry) (s : State) : (modEntry e f s).yoke = s.yoke := rfl
@[simp] theorem modEntry_aflows (e : Nat) (f : Entry → Entry) (s : State) : (modEntry e f s).aflows = s.aflows := rfl
@[simp] theorem modEntry_tdms (e : Nat) (f : Entry → Entry) (s : State) : (modEntry e f s).tdms = s.tdms := rfl
@[simp] theorem modEntry_ic (e : Nat) (f : Entry → Entry) (s : State) : (modEntry e f s).ic = s.ic := rfl
@[simp] theorem modEntry_lanes (e : Nat) (f : Entry → Entry) (s : State) : (modEntry e f s).lanes = s.lanes := rfl
@[simp] theorem modEntry_host (e : Nat) (f : Entry → Entry) (s : State) : (modEntry e f s).host = s.host := rfl
@[simp] theorem modEntry_fw (e : Nat) (f : Entry → Entry) (s : State) : (modEntry e f s).fw = s.fw := rfl
@[simp] theorem modEntry_tack (e : Nat) (f : Entry → Entry) (s : State) : (modEntry e f s).tack = s.tack := rfl
@[simp] theorem modEntry_services (e : Nat) (f : Entry → Entry) (s : State) : (modEntry e f s).services = s.services := rfl

@[simp] theorem modPort_variant (l : Nat) (f : PortTx → PortTx) (s : State) : (modPort l f s).variant = s.variant := rfl
@[simp] theorem modPort_pending (l : Nat) (f : PortTx → PortTx) (s : State) : (modPort l f s).pending = s.pending := rfl
@[simp] theorem modPort_out (l : Nat) (f : PortTx → PortTx) (s : State) : (modPort l f s).out = s.out := rfl
@[simp] theorem modPort_fresh (l : Nat) (f : PortTx → PortTx) (s : State) : (modPort l f s).fresh = s.fresh := rfl
@[simp] theorem modPort_pwr (l : Nat) (f : PortTx → PortTx) (s : State) : (modPort l f s).pwr = s.pwr := rfl
@[simp] theorem modPort_time (l : Nat) (f : PortTx → PortTx) (s : State) : (modPort l f s).time = s.time := rfl
@[simp] theorem modPort_pages (l : Nat) (f : PortTx → PortTx) (s : State) : (modPort l f s).pages = s.pages := rfl
@[simp] theorem modPort_ctrs (l : Nat) (f : PortTx → PortTx) (s : State) : (modPort l f s).ctrs = s.ctrs := rfl
@[simp] theorem modPort_hold (l : Nat) (f : PortTx → PortTx) (s : State) : (modPort l f s).hold = s.hold := rfl
@[simp] theorem modPort_staged (l : Nat) (f : PortTx → PortTx) (s : State) : (modPort l f s).staged = s.staged := rfl
@[simp] theorem modPort_live (l : Nat) (f : PortTx → PortTx) (s : State) : (modPort l f s).live = s.live := rfl
@[simp] theorem modPort_eff (l : Nat) (f : PortTx → PortTx) (s : State) : (modPort l f s).eff = s.eff := rfl
@[simp] theorem modPort_regs (l : Nat) (f : PortTx → PortTx) (s : State) : (modPort l f s).regs = s.regs := rfl
@[simp] theorem modPort_ctab (l : Nat) (f : PortTx → PortTx) (s : State) : (modPort l f s).ctab = s.ctab := rfl
@[simp] theorem modPort_sets (l : Nat) (f : PortTx → PortTx) (s : State) : (modPort l f s).sets = s.sets := rfl
@[simp] theorem modPort_queue (l : Nat) (f : PortTx → PortTx) (s : State) : (modPort l f s).queue = s.queue := rfl
@[simp] theorem modPort_checking (l : Nat) (f : PortTx → PortTx) (s : State) : (modPort l f s).checking = s.checking := rfl
@[simp] theorem modPort_waits (l : Nat) (f : PortTx → PortTx) (s : State) : (modPort l f s).waits = s.waits := rfl
@[simp] theorem modPort_chans (l : Nat) (f : PortTx → PortTx) (s : State) : (modPort l f s).chans = s.chans := rfl
@[simp] theorem modPort_svcs (l : Nat) (f : PortTx → PortTx) (s : State) : (modPort l f s).svcs = s.svcs := rfl
@[simp] theorem modPort_flows (l : Nat) (f : PortTx → PortTx) (s : State) : (modPort l f s).flows = s.flows := rfl
@[simp] theorem modPort_stops (l : Nat) (f : PortTx → PortTx) (s : State) : (modPort l f s).stops = s.stops := rfl
@[simp] theorem modPort_quench (l : Nat) (f : PortTx → PortTx) (s : State) : (modPort l f s).quench = s.quench := rfl
@[simp] theorem modPort_slots (l : Nat) (f : PortTx → PortTx) (s : State) : (modPort l f s).slots = s.slots := rfl
@[simp] theorem modPort_slotPx (l : Nat) (f : PortTx → PortTx) (s : State) : (modPort l f s).slotPx = s.slotPx := rfl
@[simp] theorem modPort_entries (l : Nat) (f : PortTx → PortTx) (s : State) : (modPort l f s).entries = s.entries := rfl
@[simp] theorem modPort_merges (l : Nat) (f : PortTx → PortTx) (s : State) : (modPort l f s).merges = s.merges := rfl
@[simp] theorem modPort_groups (l : Nat) (f : PortTx → PortTx) (s : State) : (modPort l f s).groups = s.groups := rfl
@[simp] theorem modPort_layers (l : Nat) (f : PortTx → PortTx) (s : State) : (modPort l f s).layers = s.layers := rfl
@[simp] theorem modPort_canvPx (l : Nat) (f : PortTx → PortTx) (s : State) : (modPort l f s).canvPx = s.canvPx := rfl
@[simp] theorem modPort_cachePx (l : Nat) (f : PortTx → PortTx) (s : State) : (modPort l f s).cachePx = s.cachePx := rfl
@[simp] theorem modPort_decs (l : Nat) (f : PortTx → PortTx) (s : State) : (modPort l f s).decs = s.decs := rfl
@[simp] theorem modPort_dsps (l : Nat) (f : PortTx → PortTx) (s : State) : (modPort l f s).dsps = s.dsps := rfl
@[simp] theorem modPort_mcs (l : Nat) (f : PortTx → PortTx) (s : State) : (modPort l f s).mcs = s.mcs := rfl
@[simp] theorem modPort_dram (l : Nat) (f : PortTx → PortTx) (s : State) : (modPort l f s).dram = s.dram := rfl
@[simp] theorem modPort_poison (l : Nat) (f : PortTx → PortTx) (s : State) : (modPort l f s).poison = s.poison := rfl
@[simp] theorem modPort_broken (l : Nat) (f : PortTx → PortTx) (s : State) : (modPort l f s).broken = s.broken := rfl
@[simp] theorem modPort_soft (l : Nat) (f : PortTx → PortTx) (s : State) : (modPort l f s).soft = s.soft := rfl
@[simp] theorem modPort_yoke (l : Nat) (f : PortTx → PortTx) (s : State) : (modPort l f s).yoke = s.yoke := rfl
@[simp] theorem modPort_aflows (l : Nat) (f : PortTx → PortTx) (s : State) : (modPort l f s).aflows = s.aflows := rfl
@[simp] theorem modPort_tdms (l : Nat) (f : PortTx → PortTx) (s : State) : (modPort l f s).tdms = s.tdms := rfl
@[simp] theorem modPort_ic (l : Nat) (f : PortTx → PortTx) (s : State) : (modPort l f s).ic = s.ic := rfl
@[simp] theorem modPort_lanes (l : Nat) (f : PortTx → PortTx) (s : State) : (modPort l f s).lanes = s.lanes := rfl
@[simp] theorem modPort_host (l : Nat) (f : PortTx → PortTx) (s : State) : (modPort l f s).host = s.host := rfl
@[simp] theorem modPort_fw (l : Nat) (f : PortTx → PortTx) (s : State) : (modPort l f s).fw = s.fw := rfl
@[simp] theorem modPort_tack (l : Nat) (f : PortTx → PortTx) (s : State) : (modPort l f s).tack = s.tack := rfl
@[simp] theorem modPort_services (l : Nat) (f : PortTx → PortTx) (s : State) : (modPort l f s).services = s.services := rfl

@[simp] theorem modFlow_variant (n : Nat) (f : Flow → Flow) (s : State) : (modFlow n f s).variant = s.variant := rfl
@[simp] theorem modFlow_pending (n : Nat) (f : Flow → Flow) (s : State) : (modFlow n f s).pending = s.pending := rfl
@[simp] theorem modFlow_out (n : Nat) (f : Flow → Flow) (s : State) : (modFlow n f s).out = s.out := rfl
@[simp] theorem modFlow_fresh (n : Nat) (f : Flow → Flow) (s : State) : (modFlow n f s).fresh = s.fresh := rfl
@[simp] theorem modFlow_pwr (n : Nat) (f : Flow → Flow) (s : State) : (modFlow n f s).pwr = s.pwr := rfl
@[simp] theorem modFlow_time (n : Nat) (f : Flow → Flow) (s : State) : (modFlow n f s).time = s.time := rfl
@[simp] theorem modFlow_pages (n : Nat) (f : Flow → Flow) (s : State) : (modFlow n f s).pages = s.pages := rfl
@[simp] theorem modFlow_ctrs (n : Nat) (f : Flow → Flow) (s : State) : (modFlow n f s).ctrs = s.ctrs := rfl
@[simp] theorem modFlow_hold (n : Nat) (f : Flow → Flow) (s : State) : (modFlow n f s).hold = s.hold := rfl
@[simp] theorem modFlow_staged (n : Nat) (f : Flow → Flow) (s : State) : (modFlow n f s).staged = s.staged := rfl
@[simp] theorem modFlow_live (n : Nat) (f : Flow → Flow) (s : State) : (modFlow n f s).live = s.live := rfl
@[simp] theorem modFlow_eff (n : Nat) (f : Flow → Flow) (s : State) : (modFlow n f s).eff = s.eff := rfl
@[simp] theorem modFlow_regs (n : Nat) (f : Flow → Flow) (s : State) : (modFlow n f s).regs = s.regs := rfl
@[simp] theorem modFlow_ctab (n : Nat) (f : Flow → Flow) (s : State) : (modFlow n f s).ctab = s.ctab := rfl
@[simp] theorem modFlow_sets (n : Nat) (f : Flow → Flow) (s : State) : (modFlow n f s).sets = s.sets := rfl
@[simp] theorem modFlow_queue (n : Nat) (f : Flow → Flow) (s : State) : (modFlow n f s).queue = s.queue := rfl
@[simp] theorem modFlow_checking (n : Nat) (f : Flow → Flow) (s : State) : (modFlow n f s).checking = s.checking := rfl
@[simp] theorem modFlow_waits (n : Nat) (f : Flow → Flow) (s : State) : (modFlow n f s).waits = s.waits := rfl
@[simp] theorem modFlow_chans (n : Nat) (f : Flow → Flow) (s : State) : (modFlow n f s).chans = s.chans := rfl
@[simp] theorem modFlow_svcs (n : Nat) (f : Flow → Flow) (s : State) : (modFlow n f s).svcs = s.svcs := rfl
@[simp] theorem modFlow_stops (n : Nat) (f : Flow → Flow) (s : State) : (modFlow n f s).stops = s.stops := rfl
@[simp] theorem modFlow_quench (n : Nat) (f : Flow → Flow) (s : State) : (modFlow n f s).quench = s.quench := rfl
@[simp] theorem modFlow_ports (n : Nat) (f : Flow → Flow) (s : State) : (modFlow n f s).ports = s.ports := rfl
@[simp] theorem modFlow_slots (n : Nat) (f : Flow → Flow) (s : State) : (modFlow n f s).slots = s.slots := rfl
@[simp] theorem modFlow_slotPx (n : Nat) (f : Flow → Flow) (s : State) : (modFlow n f s).slotPx = s.slotPx := rfl
@[simp] theorem modFlow_entries (n : Nat) (f : Flow → Flow) (s : State) : (modFlow n f s).entries = s.entries := rfl
@[simp] theorem modFlow_merges (n : Nat) (f : Flow → Flow) (s : State) : (modFlow n f s).merges = s.merges := rfl
@[simp] theorem modFlow_groups (n : Nat) (f : Flow → Flow) (s : State) : (modFlow n f s).groups = s.groups := rfl
@[simp] theorem modFlow_layers (n : Nat) (f : Flow → Flow) (s : State) : (modFlow n f s).layers = s.layers := rfl
@[simp] theorem modFlow_canvPx (n : Nat) (f : Flow → Flow) (s : State) : (modFlow n f s).canvPx = s.canvPx := rfl
@[simp] theorem modFlow_cachePx (n : Nat) (f : Flow → Flow) (s : State) : (modFlow n f s).cachePx = s.cachePx := rfl
@[simp] theorem modFlow_decs (n : Nat) (f : Flow → Flow) (s : State) : (modFlow n f s).decs = s.decs := rfl
@[simp] theorem modFlow_dsps (n : Nat) (f : Flow → Flow) (s : State) : (modFlow n f s).dsps = s.dsps := rfl
@[simp] theorem modFlow_mcs (n : Nat) (f : Flow → Flow) (s : State) : (modFlow n f s).mcs = s.mcs := rfl
@[simp] theorem modFlow_dram (n : Nat) (f : Flow → Flow) (s : State) : (modFlow n f s).dram = s.dram := rfl
@[simp] theorem modFlow_poison (n : Nat) (f : Flow → Flow) (s : State) : (modFlow n f s).poison = s.poison := rfl
@[simp] theorem modFlow_broken (n : Nat) (f : Flow → Flow) (s : State) : (modFlow n f s).broken = s.broken := rfl
@[simp] theorem modFlow_soft (n : Nat) (f : Flow → Flow) (s : State) : (modFlow n f s).soft = s.soft := rfl
@[simp] theorem modFlow_yoke (n : Nat) (f : Flow → Flow) (s : State) : (modFlow n f s).yoke = s.yoke := rfl
@[simp] theorem modFlow_aflows (n : Nat) (f : Flow → Flow) (s : State) : (modFlow n f s).aflows = s.aflows := rfl
@[simp] theorem modFlow_tdms (n : Nat) (f : Flow → Flow) (s : State) : (modFlow n f s).tdms = s.tdms := rfl
@[simp] theorem modFlow_ic (n : Nat) (f : Flow → Flow) (s : State) : (modFlow n f s).ic = s.ic := rfl
@[simp] theorem modFlow_lanes (n : Nat) (f : Flow → Flow) (s : State) : (modFlow n f s).lanes = s.lanes := rfl
@[simp] theorem modFlow_host (n : Nat) (f : Flow → Flow) (s : State) : (modFlow n f s).host = s.host := rfl
@[simp] theorem modFlow_fw (n : Nat) (f : Flow → Flow) (s : State) : (modFlow n f s).fw = s.fw := rfl
@[simp] theorem modFlow_tack (n : Nat) (f : Flow → Flow) (s : State) : (modFlow n f s).tack = s.tack := rfl
@[simp] theorem modFlow_services (n : Nat) (f : Flow → Flow) (s : State) : (modFlow n f s).services = s.services := rfl

@[simp] theorem setKeySlot_variant (n : Nat) (k : KeySlot) (s : State) : (setKeySlot n k s).variant = s.variant := rfl
@[simp] theorem setKeySlot_pending (n : Nat) (k : KeySlot) (s : State) : (setKeySlot n k s).pending = s.pending := rfl
@[simp] theorem setKeySlot_out (n : Nat) (k : KeySlot) (s : State) : (setKeySlot n k s).out = s.out := rfl
@[simp] theorem setKeySlot_fresh (n : Nat) (k : KeySlot) (s : State) : (setKeySlot n k s).fresh = s.fresh := rfl
@[simp] theorem setKeySlot_pwr (n : Nat) (k : KeySlot) (s : State) : (setKeySlot n k s).pwr = s.pwr := rfl
@[simp] theorem setKeySlot_time (n : Nat) (k : KeySlot) (s : State) : (setKeySlot n k s).time = s.time := rfl
@[simp] theorem setKeySlot_pages (n : Nat) (k : KeySlot) (s : State) : (setKeySlot n k s).pages = s.pages := rfl
@[simp] theorem setKeySlot_ctrs (n : Nat) (k : KeySlot) (s : State) : (setKeySlot n k s).ctrs = s.ctrs := rfl
@[simp] theorem setKeySlot_hold (n : Nat) (k : KeySlot) (s : State) : (setKeySlot n k s).hold = s.hold := rfl
@[simp] theorem setKeySlot_staged (n : Nat) (k : KeySlot) (s : State) : (setKeySlot n k s).staged = s.staged := rfl
@[simp] theorem setKeySlot_live (n : Nat) (k : KeySlot) (s : State) : (setKeySlot n k s).live = s.live := rfl
@[simp] theorem setKeySlot_eff (n : Nat) (k : KeySlot) (s : State) : (setKeySlot n k s).eff = s.eff := rfl
@[simp] theorem setKeySlot_regs (n : Nat) (k : KeySlot) (s : State) : (setKeySlot n k s).regs = s.regs := rfl
@[simp] theorem setKeySlot_ctab (n : Nat) (k : KeySlot) (s : State) : (setKeySlot n k s).ctab = s.ctab := rfl
@[simp] theorem setKeySlot_sets (n : Nat) (k : KeySlot) (s : State) : (setKeySlot n k s).sets = s.sets := rfl
@[simp] theorem setKeySlot_queue (n : Nat) (k : KeySlot) (s : State) : (setKeySlot n k s).queue = s.queue := rfl
@[simp] theorem setKeySlot_checking (n : Nat) (k : KeySlot) (s : State) : (setKeySlot n k s).checking = s.checking := rfl
@[simp] theorem setKeySlot_waits (n : Nat) (k : KeySlot) (s : State) : (setKeySlot n k s).waits = s.waits := rfl
@[simp] theorem setKeySlot_chans (n : Nat) (k : KeySlot) (s : State) : (setKeySlot n k s).chans = s.chans := rfl
@[simp] theorem setKeySlot_svcs (n : Nat) (k : KeySlot) (s : State) : (setKeySlot n k s).svcs = s.svcs := rfl
@[simp] theorem setKeySlot_flows (n : Nat) (k : KeySlot) (s : State) : (setKeySlot n k s).flows = s.flows := rfl
@[simp] theorem setKeySlot_stops (n : Nat) (k : KeySlot) (s : State) : (setKeySlot n k s).stops = s.stops := rfl
@[simp] theorem setKeySlot_quench (n : Nat) (k : KeySlot) (s : State) : (setKeySlot n k s).quench = s.quench := rfl
@[simp] theorem setKeySlot_ports (n : Nat) (k : KeySlot) (s : State) : (setKeySlot n k s).ports = s.ports := rfl
@[simp] theorem setKeySlot_slots (n : Nat) (k : KeySlot) (s : State) : (setKeySlot n k s).slots = s.slots := rfl
@[simp] theorem setKeySlot_slotPx (n : Nat) (k : KeySlot) (s : State) : (setKeySlot n k s).slotPx = s.slotPx := rfl
@[simp] theorem setKeySlot_entries (n : Nat) (k : KeySlot) (s : State) : (setKeySlot n k s).entries = s.entries := rfl
@[simp] theorem setKeySlot_merges (n : Nat) (k : KeySlot) (s : State) : (setKeySlot n k s).merges = s.merges := rfl
@[simp] theorem setKeySlot_groups (n : Nat) (k : KeySlot) (s : State) : (setKeySlot n k s).groups = s.groups := rfl
@[simp] theorem setKeySlot_layers (n : Nat) (k : KeySlot) (s : State) : (setKeySlot n k s).layers = s.layers := rfl
@[simp] theorem setKeySlot_canvPx (n : Nat) (k : KeySlot) (s : State) : (setKeySlot n k s).canvPx = s.canvPx := rfl
@[simp] theorem setKeySlot_cachePx (n : Nat) (k : KeySlot) (s : State) : (setKeySlot n k s).cachePx = s.cachePx := rfl
@[simp] theorem setKeySlot_decs (n : Nat) (k : KeySlot) (s : State) : (setKeySlot n k s).decs = s.decs := rfl
@[simp] theorem setKeySlot_dsps (n : Nat) (k : KeySlot) (s : State) : (setKeySlot n k s).dsps = s.dsps := rfl
@[simp] theorem setKeySlot_mcs (n : Nat) (k : KeySlot) (s : State) : (setKeySlot n k s).mcs = s.mcs := rfl
@[simp] theorem setKeySlot_dram (n : Nat) (k : KeySlot) (s : State) : (setKeySlot n k s).dram = s.dram := rfl
@[simp] theorem setKeySlot_poison (n : Nat) (k : KeySlot) (s : State) : (setKeySlot n k s).poison = s.poison := rfl
@[simp] theorem setKeySlot_broken (n : Nat) (k : KeySlot) (s : State) : (setKeySlot n k s).broken = s.broken := rfl
@[simp] theorem setKeySlot_soft (n : Nat) (k : KeySlot) (s : State) : (setKeySlot n k s).soft = s.soft := rfl
@[simp] theorem setKeySlot_yoke (n : Nat) (k : KeySlot) (s : State) : (setKeySlot n k s).yoke = s.yoke := rfl
@[simp] theorem setKeySlot_aflows (n : Nat) (k : KeySlot) (s : State) : (setKeySlot n k s).aflows = s.aflows := rfl
@[simp] theorem setKeySlot_tdms (n : Nat) (k : KeySlot) (s : State) : (setKeySlot n k s).tdms = s.tdms := rfl
@[simp] theorem setKeySlot_ic (n : Nat) (k : KeySlot) (s : State) : (setKeySlot n k s).ic = s.ic := rfl
@[simp] theorem setKeySlot_lanes (n : Nat) (k : KeySlot) (s : State) : (setKeySlot n k s).lanes = s.lanes := rfl
@[simp] theorem setKeySlot_host (n : Nat) (k : KeySlot) (s : State) : (setKeySlot n k s).host = s.host := rfl
@[simp] theorem setKeySlot_fw (n : Nat) (k : KeySlot) (s : State) : (setKeySlot n k s).fw = s.fw := rfl
@[simp] theorem setKeySlot_services (n : Nat) (k : KeySlot) (s : State) : (setKeySlot n k s).services = s.services := rfl

@[simp] theorem modLane_variant (l : Nat) (f : Lane → Lane) (s : State) : (modLane l f s).variant = s.variant := rfl
@[simp] theorem modLane_pending (l : Nat) (f : Lane → Lane) (s : State) : (modLane l f s).pending = s.pending := rfl
@[simp] theorem modLane_out (l : Nat) (f : Lane → Lane) (s : State) : (modLane l f s).out = s.out := rfl
@[simp] theorem modLane_fresh (l : Nat) (f : Lane → Lane) (s : State) : (modLane l f s).fresh = s.fresh := rfl
@[simp] theorem modLane_pwr (l : Nat) (f : Lane → Lane) (s : State) : (modLane l f s).pwr = s.pwr := rfl
@[simp] theorem modLane_time (l : Nat) (f : Lane → Lane) (s : State) : (modLane l f s).time = s.time := rfl
@[simp] theorem modLane_pages (l : Nat) (f : Lane → Lane) (s : State) : (modLane l f s).pages = s.pages := rfl
@[simp] theorem modLane_ctrs (l : Nat) (f : Lane → Lane) (s : State) : (modLane l f s).ctrs = s.ctrs := rfl
@[simp] theorem modLane_hold (l : Nat) (f : Lane → Lane) (s : State) : (modLane l f s).hold = s.hold := rfl
@[simp] theorem modLane_staged (l : Nat) (f : Lane → Lane) (s : State) : (modLane l f s).staged = s.staged := rfl
@[simp] theorem modLane_live (l : Nat) (f : Lane → Lane) (s : State) : (modLane l f s).live = s.live := rfl
@[simp] theorem modLane_eff (l : Nat) (f : Lane → Lane) (s : State) : (modLane l f s).eff = s.eff := rfl
@[simp] theorem modLane_regs (l : Nat) (f : Lane → Lane) (s : State) : (modLane l f s).regs = s.regs := rfl
@[simp] theorem modLane_ctab (l : Nat) (f : Lane → Lane) (s : State) : (modLane l f s).ctab = s.ctab := rfl
@[simp] theorem modLane_sets (l : Nat) (f : Lane → Lane) (s : State) : (modLane l f s).sets = s.sets := rfl
@[simp] theorem modLane_queue (l : Nat) (f : Lane → Lane) (s : State) : (modLane l f s).queue = s.queue := rfl
@[simp] theorem modLane_checking (l : Nat) (f : Lane → Lane) (s : State) : (modLane l f s).checking = s.checking := rfl
@[simp] theorem modLane_waits (l : Nat) (f : Lane → Lane) (s : State) : (modLane l f s).waits = s.waits := rfl
@[simp] theorem modLane_chans (l : Nat) (f : Lane → Lane) (s : State) : (modLane l f s).chans = s.chans := rfl
@[simp] theorem modLane_svcs (l : Nat) (f : Lane → Lane) (s : State) : (modLane l f s).svcs = s.svcs := rfl
@[simp] theorem modLane_flows (l : Nat) (f : Lane → Lane) (s : State) : (modLane l f s).flows = s.flows := rfl
@[simp] theorem modLane_stops (l : Nat) (f : Lane → Lane) (s : State) : (modLane l f s).stops = s.stops := rfl
@[simp] theorem modLane_quench (l : Nat) (f : Lane → Lane) (s : State) : (modLane l f s).quench = s.quench := rfl
@[simp] theorem modLane_ports (l : Nat) (f : Lane → Lane) (s : State) : (modLane l f s).ports = s.ports := rfl
@[simp] theorem modLane_slots (l : Nat) (f : Lane → Lane) (s : State) : (modLane l f s).slots = s.slots := rfl
@[simp] theorem modLane_slotPx (l : Nat) (f : Lane → Lane) (s : State) : (modLane l f s).slotPx = s.slotPx := rfl
@[simp] theorem modLane_entries (l : Nat) (f : Lane → Lane) (s : State) : (modLane l f s).entries = s.entries := rfl
@[simp] theorem modLane_merges (l : Nat) (f : Lane → Lane) (s : State) : (modLane l f s).merges = s.merges := rfl
@[simp] theorem modLane_groups (l : Nat) (f : Lane → Lane) (s : State) : (modLane l f s).groups = s.groups := rfl
@[simp] theorem modLane_layers (l : Nat) (f : Lane → Lane) (s : State) : (modLane l f s).layers = s.layers := rfl
@[simp] theorem modLane_canvPx (l : Nat) (f : Lane → Lane) (s : State) : (modLane l f s).canvPx = s.canvPx := rfl
@[simp] theorem modLane_cachePx (l : Nat) (f : Lane → Lane) (s : State) : (modLane l f s).cachePx = s.cachePx := rfl
@[simp] theorem modLane_decs (l : Nat) (f : Lane → Lane) (s : State) : (modLane l f s).decs = s.decs := rfl
@[simp] theorem modLane_dsps (l : Nat) (f : Lane → Lane) (s : State) : (modLane l f s).dsps = s.dsps := rfl
@[simp] theorem modLane_mcs (l : Nat) (f : Lane → Lane) (s : State) : (modLane l f s).mcs = s.mcs := rfl
@[simp] theorem modLane_dram (l : Nat) (f : Lane → Lane) (s : State) : (modLane l f s).dram = s.dram := rfl
@[simp] theorem modLane_poison (l : Nat) (f : Lane → Lane) (s : State) : (modLane l f s).poison = s.poison := rfl
@[simp] theorem modLane_broken (l : Nat) (f : Lane → Lane) (s : State) : (modLane l f s).broken = s.broken := rfl
@[simp] theorem modLane_soft (l : Nat) (f : Lane → Lane) (s : State) : (modLane l f s).soft = s.soft := rfl
@[simp] theorem modLane_yoke (l : Nat) (f : Lane → Lane) (s : State) : (modLane l f s).yoke = s.yoke := rfl
@[simp] theorem modLane_aflows (l : Nat) (f : Lane → Lane) (s : State) : (modLane l f s).aflows = s.aflows := rfl
@[simp] theorem modLane_tdms (l : Nat) (f : Lane → Lane) (s : State) : (modLane l f s).tdms = s.tdms := rfl
@[simp] theorem modLane_ic (l : Nat) (f : Lane → Lane) (s : State) : (modLane l f s).ic = s.ic := rfl
@[simp] theorem modLane_host (l : Nat) (f : Lane → Lane) (s : State) : (modLane l f s).host = s.host := rfl
@[simp] theorem modLane_fw (l : Nat) (f : Lane → Lane) (s : State) : (modLane l f s).fw = s.fw := rfl
@[simp] theorem modLane_tack (l : Nat) (f : Lane → Lane) (s : State) : (modLane l f s).tack = s.tack := rfl
@[simp] theorem modLane_services (l : Nat) (f : Lane → Lane) (s : State) : (modLane l f s).services = s.services := rfl

/-- A read of `page` after an update. -/
theorem page_modPage (k : Nat) (f : PageHdr → PageHdr) (s : State) (j : Nat) : page (modPage k f s) j = if j = k then f (page s k) else page s j :=
  Tbl.get_set _ _ _ _ _

/-- A read of `chan` after an update. -/
theorem chan_modChan (ch : Nat) (f : Chan → Chan) (s : State) (j : Nat) : chan (modChan ch f s) j = if j = ch then f (chan s ch) else chan s j :=
  Tbl.get_set _ _ _ _ _

/-- A read of `svc` after an update. -/
theorem svc_modSvc (v : Nat) (f : Svc → Svc) (s : State) (j : Nat) : svc (modSvc v f s) j = if j = v then f (svc s v) else svc s j :=
  Tbl.get_set _ _ _ _ _

/-- A read of `flow` after an update. -/
theorem flow_modFlow (n : Nat) (f : Flow → Flow) (s : State) (j : Nat) : flow (modFlow n f s) j = if j = n then f (flow s n) else flow s j :=
  Tbl.get_set _ _ _ _ _

/-- A read of `port` after an update. -/
theorem port_modPort (l : Nat) (f : PortTx → PortTx) (s : State) (j : Nat) : port (modPort l f s) j = if j = l then f (port s l) else port s j :=
  Tbl.get_set _ _ _ _ _

/-- A read of `entry` after an update. -/
theorem entry_modEntry (e : Nat) (f : Entry → Entry) (s : State) (j : Nat) : entry (modEntry e f s) j = if j = e then f (entry s e) else entry s j :=
  Tbl.get_set _ _ _ _ _

/-- A read of `layerSt` after an update. -/
theorem layerSt_modLayer (i : Nat) (f : LayerSt → LayerSt) (s : State) (j : Nat) : layerSt (modLayer i f s) j = if j = i then f (layerSt s i) else layerSt s j :=
  Tbl.get_set _ _ _ _ _

/-- A read of `aflow` after an update. -/
theorem aflow_modAflow (f : Nat) (g : AFlow → AFlow) (s : State) (j : Nat) : aflow (modAflow f g s) j = if j = f then g (aflow s f) else aflow s j :=
  Tbl.get_set _ _ _ _ _

/-- A read of `tdm` after an update. -/
theorem tdm_modTdm (p : Nat) (g : Tdm → Tdm) (s : State) (j : Nat) : tdm (modTdm p g s) j = if j = p then g (tdm s p) else tdm s j :=
  Tbl.get_set _ _ _ _ _

/-- A read of `lane` after an update. -/
theorem lane_modLane (l : Nat) (f : Lane → Lane) (s : State) (j : Nat) : lane (modLane l f s) j = if j = l then f (lane s l) else lane s j :=
  Tbl.get_set _ _ _ _ _

/-- A read of `dsp` after an update. -/
theorem dsp_modDsp (d : Nat) (f : Dsp → Dsp) (s : State) (j : Nat) : dsp (modDsp d f s) j = if j = d then f (dsp s d) else dsp s j :=
  Tbl.get_set _ _ _ _ _

/-- A read of `mc` after an update. -/
theorem mc_modMc (d : Nat) (f : Mc → Mc) (s : State) (j : Nat) : mc (modMc d f s) j = if j = d then f (mc s d) else mc s j :=
  Tbl.get_set _ _ _ _ _

/-- A read of `cset` after an update. -/
theorem cset_modSet (q : Nat) (f : CSet → CSet) (s : State) (j : Nat) : cset (modSet q f s) j = if j = q then f (cset s q) else cset s j :=
  Tbl.get_set _ _ _ _ _

/-- A read of `src` after an update. -/
theorem src_modSrc (n : Nat) (f : Src → Src) (s : State) (j : Nat) : src (modSrc n f s) j = if j = n then f (src s n) else src s j :=
  Tbl.get_set _ _ _ _ _

/-- A read of `ych` after an update. -/
theorem ych_modYch (ch : Nat) (f : YCh → YCh) (s : State) (j : Nat) : ych (modYch ch f s) j = if j = ch then f (ych s ch) else ych s j :=
  Tbl.get_set _ _ _ _ _

theorem counter_bump (k n x k' n' : Nat) (s : State) :
    counter (bump k n x s) k' n' = if 128 * k' + n' = 128 * k + n then counter s k n + BitVec.ofNat 64 x else counter s k' n' :=
  Tbl.get_set _ _ _ _ _

/-- A read of a register of `State.regs` after one was set. -/
theorem regW_setReg (a b : Nat) (w : Word) (s : State) : regW (setReg a w s) b = if b = a then w else regW s b :=
  Tbl.get_set _ _ _ _ _

/-- A byte of the memory after one was written. -/
theorem dramGet_dramSet (d a e b : Nat) (v : Byte) (s : State) :
    dramGet (dramSet d a v s) e b = if memKey e b = memKey d a then v else dramGet s e b :=
  Tbl.get_set _ _ _ _ _

/-- Bytes outside those written read as before. -/
theorem dramGet_dramWrite_other (d a : Nat) (bs : List Byte) (s : State) (e b : Nat)
    (h : ∀ i, i < bs.length → memKey e b ≠ memKey d (a + i)) : dramGet (dramWrite d a bs s) e b = dramGet s e b := by
  induction bs generalizing a s with
  | nil => rfl
  | cons v bs ih =>
    rw [dramWrite, ih, dramGet_dramSet, if_neg (by simpa using h 0 (by simp))]
    intro i hi
    have := h (i + 1) (by simpa using hi)
    rwa [show a + 1 + i = a + (i + 1) by omega]

/-- The bytes written read as what was written. -/
theorem dramGet_dramWrite (d a : Nat) (bs : List Byte) (s : State) (i : Nat) (h : i < bs.length) :
    dramGet (dramWrite d a bs s) d (a + i) = bs[i] := by
  induction bs generalizing a s i with
  | nil => simp at h
  | cons v bs ih =>
    rw [dramWrite]
    cases i with
    | zero =>
      rw [dramGet_dramWrite_other _ _ _ _ _ _ (by intro i _; unfold memKey; omega), dramGet_dramSet]
      simp
    | succ i =>
      have := ih (a + 1) (dramSet d a v s) i (by simpa using h)
      rw [show a + (i + 1) = a + 1 + i by omega, this]
      simp

/-- An event touches its page's header, and the interrupt controller when it sends a message. -/
theorem raise_frame (k : Nat) (m : Word) (s : State) :
    raise k m s = { s with pages := (raise k m s).pages, ic := (raise k m s).ic } := by
  unfold raise
  dsimp only
  split <;> rfl

/-- A page's flags after an event on another page, and on it. -/
theorem page_raise (k : Nat) (m : Word) (s : State) (j : Nat) :
    page (raise k m s) j = if j = k then { page s k with
      stat := (page s k).stat ||| m, again := sat8 ((page s k).again + ones (m &&& (page s k).stat)) } else page s j := by
  have h := page_modPage k (fun h => { h with stat := h.stat ||| m, again := sat8 (h.again + ones (m &&& h.stat)) }) s j
  have hd : ∀ u : State, page (doorbell k u) j = page u j := fun _ => rfl
  unfold raise
  dsimp only
  split
  · rw [hd, h]
  · rw [h]

end Sys2Proof.Laws
end

