-- ==== Sys2Proof/Laws/Ic.lean ====
section
/-! SUPPORT. What an evaluation of delivery can change (R426–R433): the redirections, the presentations, the wake queue, the
interrupt page's own flags and counters, and the wakes it asks for; never a source's other bits or a die that is awake. -/

namespace Sys2Proof.Laws

open Sys2Proof Sys2Proof.Machine

/-- What delivery leaves of a state. -/
structure IcKept (s t : State) : Prop where
  frame : t = { s with out := t.out, pages := t.pages, ctrs := t.ctrs
                       ic := { t.ic with timeout := s.ic.timeout, hvec := s.ic.hvec, retained := s.ic.retained }
                       pwr := { s.pwr with asleep := t.pwr.asleep, waking := t.pwr.waking, wakeWanted := t.pwr.wakeWanted
                                           sleepWanted := t.pwr.sleepWanted, sleepReg := t.pwr.sleepReg
                                           wakeStep := t.pwr.wakeStep, laneCal := t.pwr.laneCal } }
  srcs : ∀ n, src t n = { src s n with redir := (src t n).redir }
  page : ∀ k, k ≠ 2 → page t k = page s k
  ctr : ∀ k n, n < 128 → k ≠ 2 → ¬ (k = 4 ∧ n = 2) → counter t k n = counter s k n
  awake : ∀ d, d ∉ s.pwr.asleep → d ∉ t.pwr.asleep ∧ (d ∈ t.pwr.waking ↔ d ∈ s.pwr.waking) ∧
    t.pwr.wakeStep.get (fun _ => 0) d = s.pwr.wakeStep.get (fun _ => 0) d

theorem IcKept.refl (s : State) : IcKept s s := ⟨rfl, fun _ => rfl, fun _ _ => rfl, fun _ _ _ _ _ => rfl, fun _ h => ⟨h, Iff.rfl, rfl⟩⟩

theorem IcKept.trans {s t u : State} (h : IcKept s t) (g : IcKept t u) : IcKept s u where
  frame := by
    have h1 := h.frame
    have g1 := g.frame
    rw [h1] at g1
    exact g1
  srcs n := by rw [g.srcs n, h.srcs n]
  page k hk := (g.page k hk).trans (h.page k hk)
  ctr k n a b c := (g.ctr k n a b c).trans (h.ctr k n a b c)
  awake d hd := by
    obtain ⟨a, b, c⟩ := h.awake d hd
    obtain ⟨a', b', c'⟩ := g.awake d a
    exact ⟨a', b'.trans b, c'.trans c⟩

theorem IcKept.foldl {α : Type} (f : State → α → State) (l : List α) (s : State) (h : ∀ s a, IcKept s (f s a)) :
    IcKept s (l.foldl f s) := by
  induction l generalizing s with
  | nil => exact .refl s
  | cons a l ih => exact (h s a).trans (ih _)

theorem IcKept.bump (n x : Nat) (s : State) (hn : n < 128 := by decide) : IcKept s (bump pgIc n x s) where
  frame := rfl
  srcs _ := rfl
  page _ _ := rfl
  ctr k m a b c := by
    rw [counter_bump, if_neg]
    unfold pgIc
    omega
  awake d h := ⟨h, Iff.rfl, rfl⟩

theorem IcKept.raiseBit (i : Nat) (s : State) : IcKept s (raiseBit pgIc i s) := by
  have e := raise_frame pgIc (bitW i) s
  have hic : ∀ t, t = Machine.raise pgIc (bitW i) s → t.ic = { t.ic with srcs := s.ic.srcs, timeout := s.ic.timeout, hvec := s.ic.hvec, retained := s.ic.retained } := by
    intro t ht
    subst ht
    unfold Machine.raise
    dsimp only
    split <;> rfl
  refine ⟨?_, ?_, ?_, ?_, ?_⟩
  · unfold Machine.raiseBit Machine.raise
    dsimp only
    split <;> rfl
  · intro n
    unfold Machine.raiseBit Machine.raise
    dsimp only
    split <;> rfl
  · intro k hk
    exact (page_raise pgIc (bitW i) s k).trans (if_neg hk)
  · intro k n _ _ _
    unfold Machine.raiseBit
    rw [e]; rfl
  · intro d hd
    unfold Machine.raiseBit
    rw [e]; exact ⟨hd, Iff.rfl, rfl⟩

theorem IcKept.emit (o : Out) (s : State) : IcKept s (emit o s) :=
  ⟨rfl, fun _ => rfl, fun _ _ => rfl, fun _ _ _ _ _ => rfl, fun _ h => ⟨h, Iff.rfl, rfl⟩⟩

theorem IcKept.modSrc (n : Nat) (f : Src → Src) (s : State) (h : ∀ x, f x = { x with redir := (f x).redir }) :
    IcKept s (modSrc n f s) where
  frame := rfl
  srcs m := by
    rw [src_modSrc]
    split
    · subst_vars; exact h _
    · rfl
  page _ _ := rfl
  ctr _ _ _ _ _ := rfl
  awake d h := ⟨h, Iff.rfl, rfl⟩

theorem mem_NSet_del (l : NSet) (a b : Nat) : a ∈ NSet.del l b ↔ a ∈ l ∧ a ≠ b := by simp [NSet.del]

theorem mem_NSet_add (l : NSet) (a b : Nat) : a ∈ NSet.add l b ↔ a = b ∨ a ∈ l := by
  induction l with
  | nil => simp [NSet.add]
  | cons j t ih =>
    unfold NSet.add
    split
    · simp
    · split
      · subst_vars; simp
      · simp only [List.mem_cons, ih]; tauto

theorem IcKept.wakeRequest (d : Nat) (s : State) : IcKept s (wakeRequest d s) := by
  unfold Machine.wakeRequest
  split
  · exact ⟨rfl, fun _ => rfl, fun _ _ => rfl, fun _ _ _ _ _ => rfl, fun _ h => ⟨h, Iff.rfl, rfl⟩⟩
  · split
    · rename_i h
      refine ⟨rfl, fun _ => rfl, fun _ _ => rfl, ?_, ?_⟩
      · intro k n hn hk hc
        unfold startWake
        rw [counter_bump, if_neg]
        · rfl
        · unfold pgPwr; omega
      · intro e he
        have hne : e ≠ d := by rintro rfl; exact he (by simpa using h)
        refine ⟨?_, ?_, ?_⟩
        · show e ∉ NSet.del s.pwr.asleep d
          rw [mem_NSet_del]; tauto
        · show e ∈ NSet.add s.pwr.waking d ↔ _
          rw [mem_NSet_add]; tauto
        · simp only [startWake, bump_pwr]; rw [Tbl.get_set, if_neg hne]
    · exact ⟨rfl, fun _ => rfl, fun _ _ => rfl, fun _ _ _ _ _ => rfl, fun _ h => ⟨h, Iff.rfl, rfl⟩⟩

theorem IcKept.redirect (n : Nat) (s : State) : IcKept s (redirect n s) :=
  ((IcKept.modSrc n _ s fun _ => rfl).trans (.raiseBit 4 _)).trans (.bump 10 1 _)

theorem IcKept.sendMsix (v : Nat) (s : State) : IcKept s (sendMsix v s) := (IcKept.bump 8 1 s).trans (.emit _ _)

/-- A change of the pending vectors alone. -/
theorem IcKept.pends (l : List (Nat × Nat)) (s : State) : IcKept s { s with ic := { s.ic with msixPend := l } } :=
  ⟨rfl, fun _ => rfl, fun _ _ => rfl, fun _ _ _ _ _ => rfl, fun _ h => ⟨h, Iff.rfl, rfl⟩⟩

theorem IcKept.signalMsix (v t : Nat) (s : State) : IcKept s (signalMsix v t s) := by
  unfold Machine.signalMsix
  split
  · exact .pends _ s
  · exact .sendMsix v s

theorem IcKept.flushMsix (s : State) : IcKept s (flushMsix s) :=
  .foldl _ _ _ fun s v => by
    dsimp only
    split
    · exact .refl s
    · exact (IcKept.pends _ s).trans (.sendMsix v _)

theorem IcKept.present (t n p : Nat) (s : State) : IcKept s (present t n p s) := by
  unfold Machine.present
  have h0 : IcKept s { s with ic := { s.ic with presented := s.ic.presented.set (fun _ => 0) t (1 + 16 * n + p) } } :=
    ⟨rfl, fun _ => rfl, fun _ _ => rfl, fun _ _ _ _ _ => rfl, fun _ h => ⟨h, Iff.rfl, rfl⟩⟩
  dsimp only
  split
  · exact h0.trans (.signalMsix _ _ _)
  · exact h0

theorem IcKept.presentSource (t n : Nat) (s : State) : IcKept s (presentSource t n s) := by
  unfold Machine.presentSource
  dsimp only
  repeat' split
  all_goals first
    | exact .refl s
    | exact .present _ _ _ s

theorem IcKept.presentTo (t : Nat) (s : State) : IcKept s (presentTo t s) := by
  unfold Machine.presentTo
  split
  · exact .refl s
  · exact .presentSource _ _ s

theorem IcKept.unqueue (n : Nat) (s : State) : IcKept s (unqueue n s) :=
  ⟨rfl, fun _ => rfl, fun _ _ => rfl, fun _ _ _ _ _ => rfl, fun _ h => ⟨h, Iff.rfl, rfl⟩⟩

theorem IcKept.enqueueWake (n t : Nat) (s : State) : IcKept s (enqueueWake n t s) := by
  unfold Machine.enqueueWake
  have h0 : IcKept s { s with ic := { s.ic with wakeQ := s.ic.wakeQ ++ [(n, t)] } } :=
    ⟨rfl, fun _ => rfl, fun _ _ => rfl, fun _ _ _ _ _ => rfl, fun _ h => ⟨h, Iff.rfl, rfl⟩⟩
  split
  · exact (IcKept.raiseBit 5 s).trans (.redirect n _)
  · dsimp only
    split
    · exact (h0.trans (.bump 14 1 _)).trans (.wakeRequest _ _)
    · exact h0.trans (.bump 14 1 _)

theorem IcKept.queueSleepers (s : State) : IcKept s (queueSleepers s) :=
  .foldl _ _ _ fun s e => by
    dsimp only
    split
    · exact .enqueueWake _ _ _
    · exact .refl s

/-- What an evaluation of delivery keeps. -/
theorem IcKept.evalIc (first : List (Nat × Nat)) (s : State) : IcKept s (evalIc first s) :=
  ((IcKept.queueSleepers s).trans (.foldl _ _ _ fun _ _ => .presentSource _ _ _)).trans (.foldl _ _ _ fun _ _ => .presentTo _ _)

end Sys2Proof.Laws
end

