-- ==== Sys2Proof/Laws/Steady.lean ====
section
/-! SUPPORT. How `steady` passes through record updates, choices and loops. -/

namespace Sys2Proof.Laws

open Sys2Proof Sys2Proof.Machine

theorem steady_eta (s : State) : (s.variant, s.pending, s.pwr.fuses, s.dram, s.ctab, s.eff) = steady s := rfl

theorem steady_mk (x0 x1 x2 x3 x4 x5 x6 x7 x8 x9 x10 x11 x12 x13 x14 x15 x16 x17 x18 x19 x20 x21 x22 x23 x24 x25 x26 x27 x28 x29 x30 x31 x32 x33 x34 x35 x36 x37 x38 x39 x40 x41 x42 x43 x44 x45 x46 x47) :
    steady (State.mk x0 x1 x2 x3 x4 x5 x6 x7 x8 x9 x10 x11 x12 x13 x14 x15 x16 x17 x18 x19 x20 x21 x22 x23 x24 x25 x26 x27 x28 x29 x30 x31 x32 x33 x34 x35 x36 x37 x38 x39 x40 x41 x42 x43 x44 x45 x46 x47) = (x0, x1, x4.fuses, x35, x13, x11) := rfl

theorem steady_ite (c : Prop) [Decidable c] (a b : State) : steady (if c then a else b) = if c then steady a else steady b := by
  split <;> rfl

theorem steady_ite_snd {α : Type} (c : Prop) [Decidable c] (a b : α × State) :
    steady (if c then a else b).2 = if c then steady a.2 else steady b.2 := by
  split <;> rfl

theorem steady_foldl {α : Type} (f : State → α → State) (l : List α) (s : State) (h : ∀ s a, steady (f s a) = steady s) :
    steady (l.foldl f s) = steady s := by
  induction l generalizing s with
  | nil => rfl
  | cons a l ih => rw [List.foldl_cons, ih, h]

/-- A command that gives a next state keeps `steady`. -/
def SteadyO (s : State) (o : Host.Outcome State Fault Refusal) : Prop := ∀ t, o = .next t → steady t = steady s

theorem SteadyO_next (s t : State) (h : steady t = steady s) : SteadyO s (.next t) := by
  intro u hu
  cases hu
  exact h

theorem steady_whenUp (s : State) (k : State → State) (h : ∀ s, steady (k s) = steady s) : steady (whenUp s k) = steady s := by
  unfold whenUp
  split
  · rfl
  · exact h s

theorem steady_guard (c : Bool) (k : State → State) (s : State) (h : ∀ s, steady (k s) = steady s) : steady (guard' c k s) = steady s := by
  unfold guard'
  split
  · exact h s
  · rfl

theorem steady_atDie (d : Nat) (s : State) (k : State → State) (h : ∀ s, steady (k s) = steady s) : SteadyO s (atDie d s k) := by
  unfold atDie
  split
  · exact SteadyO_next _ _ (steady_whenUp s k h)
  · exact SteadyO_next _ _ rfl

end Sys2Proof.Laws
end

