-- ==== Sys2Proof/Laws/Kept.lean ====
section
/-! SUPPORT. What the few commands that do not leave `steady` alone still keep: the variant, the waiting commands, the fuses
or more of them, and the canonical form of the memory. -/

namespace Sys2Proof.Laws

open Sys2Proof Sys2Proof.Machine

/-- From `a` to `b`: the variant and the waiting commands are the same, no fuse is unblown, and the memory's canonical form is
kept. -/
def Kept (a b : Variant × List Instr × Nat × List Host.Cell × Tbl Word × Tbl Word) : Prop :=
  b.1 = a.1 ∧ b.2.1 = a.2.1 ∧ a.2.2.1 ≤ b.2.2.1 ∧ (Memory.wf a.2.2.2.1 = true → Memory.wf b.2.2.2.1 = true)

theorem Kept.refl (a : Variant × List Instr × Nat × List Host.Cell × Tbl Word × Tbl Word) : Kept a a :=
  ⟨rfl, rfl, Nat.le_refl _, id⟩

theorem Kept.trans {a b c : Variant × List Instr × Nat × List Host.Cell × Tbl Word × Tbl Word} (h : Kept a b) (k : Kept b c) : Kept a c :=
  ⟨k.1.trans h.1, k.2.1.trans h.2.1, Nat.le_trans h.2.2.1 k.2.2.1, fun w => k.2.2.2 (h.2.2.2 w)⟩

theorem Kept.of_eq {a b : Variant × List Instr × Nat × List Host.Cell × Tbl Word × Tbl Word} (h : b = a) : Kept a b := h ▸ Kept.refl b

theorem kept_foldl {α : Type} (f : State → α → State) (l : List α) (s : State) (h : ∀ s a, Kept (steady s) (steady (f s a))) :
    Kept (steady s) (steady (l.foldl f s)) := by
  induction l generalizing s with
  | nil => exact Kept.refl _
  | cons a l ih => exact (h s a).trans (ih (f s a))

/-- A command that gives a next state keeps what `Kept` says. -/
def KeptO (s : State) (o : Host.Outcome State Fault Refusal) : Prop := ∀ t, o = .next t → Kept (steady s) (steady t)

theorem KeptO_next (s t : State) (h : Kept (steady s) (steady t)) : KeptO s (.next t) := by
  intro u hu
  cases hu
  exact h

theorem KeptO.of_steady (s : State) (o : Host.Outcome State Fault Refusal) (h : SteadyO s o) : KeptO s o :=
  fun t ht => Kept.of_eq (h t ht)

theorem kept_whenUp (s : State) (k : State → State) (h : ∀ s, Kept (steady s) (steady (k s))) : Kept (steady s) (steady (whenUp s k)) := by
  unfold whenUp
  split
  · exact Kept.refl _
  · exact h s

theorem kept_guard (c : Bool) (k : State → State) (s : State) (h : ∀ s, Kept (steady s) (steady (k s))) :
    Kept (steady s) (steady (guard' c k s)) := by
  unfold guard'
  split
  · exact h s
  · exact Kept.refl _

theorem kept_atDie (d : Nat) (s : State) (k : State → State) (h : ∀ s, Kept (steady s) (steady (k s))) : KeptO s (atDie d s k) := by
  unfold atDie
  split
  · exact KeptO_next _ _ (kept_whenUp s k h)
  · exact KeptO_next _ _ (Kept.refl _)

theorem kept_dramSet (d a : Nat) (b : Byte) (s : State) : Kept (steady s) (steady (dramSet d a b s)) :=
  ⟨rfl, rfl, Nat.le_refl _, fun w => Tbl.wf_set _ _ _ _ w⟩

theorem kept_dramWrite (d a : Nat) (bs : List Byte) (s : State) : Kept (steady s) (steady (dramWrite d a bs s)) := by
  induction bs generalizing a s with
  | nil => exact Kept.refl _
  | cons b bs ih => exact (kept_dramSet d a b s).trans (ih (a + 1) (dramSet d a b s))

/-- A new code for a data word leaves the bytes alone. -/
theorem kept_storeWord (d w : Nat) (whole : Bool) (e : EccEvent) (s : State) : Kept (steady s) (steady (storeWord d w whole e s)) := by
  have hb : ∀ (k n x : Nat) (s : State), (bump k n x s).dram = s.dram ∧ (bump k n x s).variant = s.variant ∧
      (bump k n x s).pending = s.pending ∧ (bump k n x s).pwr = s.pwr := fun _ _ _ _ => ⟨rfl, rfl, rfl, rfl⟩
  have hr : ∀ (k i : Nat) (s : State), (raiseBit k i s).dram = s.dram ∧ (raiseBit k i s).variant = s.variant ∧
      (raiseBit k i s).pending = s.pending ∧ (raiseBit k i s).pwr = s.pwr := by
    intro k i s
    unfold raiseBit
    rw [raise_frame]
    exact ⟨rfl, rfl, rfl, rfl⟩
  have key : ∀ t : State, t.dram = s.dram ∧ t.variant = s.variant ∧ t.pending = s.pending ∧ t.pwr = s.pwr →
      Kept (steady s) (steady t) := by
    intro t h
    refine ⟨h.2.1, h.2.2.1, ?_, fun w => ?_⟩
    · show s.pwr.fuses ≤ t.pwr.fuses
      rw [h.2.2.2]
    · show Memory.wf t.dram = true
      rw [h.1]
      exact w
  apply key
  unfold storeWord countWrite countRead eccCorrect
  dsimp only
  repeat' split
  all_goals simp [hb, hr]

theorem kept_storeWords (d a n : Nat) (s : State) : Kept (steady s) (steady (storeWords d a n s)) :=
  kept_foldl _ _ _ (fun s w => kept_storeWord d w _ .clean s)

theorem kept_dramStore (d a : Nat) (bs : List Byte) (s : State) : Kept (steady s) (steady (dramStore d a bs s)) :=
  (kept_dramWrite d a bs s).trans (kept_storeWords d a bs.length _)

theorem kept_dramWrite32 (d a v : Nat) (s : State) : Kept (steady s) (steady (dramWrite32 d a v s)) := kept_dramStore _ _ _ _

end Sys2Proof.Laws
end

