-- ==== Sys2Proof/Laws/SteadyOps.lean ====
section
/-! SUPPORT. What the operations of Machine/Ops.lean leave steady: `steady` of the state after is that of the state before. -/

set_option linter.unusedSimpArgs false
set_option linter.unusedTactic false
set_option linter.unreachableTactic false
set_option linter.unnecessarySeqFocus false

namespace Sys2Proof.Laws

open Sys2Proof Sys2Proof.Machine

theorem steady_emit (o : Out) (s : State)  : steady (emit o s) = steady s := by
  rfl

theorem steady_draw (s : State)  : steady (draw s) = steady s := by
  rfl

theorem steady_modPtp (l : Nat) (f : PtpPort → PtpPort) (s : State)  : steady (modPtp l f s) = steady s := by
  rfl

theorem steady_bump (k n x : Nat) (s : State)  : steady (bump k n x s) = steady s := by
  rfl

theorem steady_peakCtr (k n x : Nat) (s : State)  : steady (peakCtr k n x s) = steady s := by
  unfold peakCtr
  simp only [↓steady_mk, ↓steady_eta, steady_ite, steady_ite_snd, steady_foldl, ite_self, implies_true]

theorem steady_modPage (k : Nat) (f : PageHdr → PageHdr) (s : State)  : steady (modPage k f s) = steady s := by
  rfl

theorem steady_setReg (a : Nat) (w : Word) (s : State)  : steady (setReg a w s) = steady s := by
  rfl

end Sys2Proof.Laws
end

