-- ==== Sys2Proof/Laws/SteadyFlags.lean ====
section
/-! SUPPORT. What the operations of Machine/Flags.lean leave steady: `steady` of the state after is that of the state before. -/

set_option linter.unusedSimpArgs false
set_option linter.unusedTactic false
set_option linter.unreachableTactic false
set_option linter.unnecessarySeqFocus false

namespace Sys2Proof.Laws

open Sys2Proof Sys2Proof.Machine

theorem steady_doorbell (k : Nat) (s : State)  : steady (doorbell k s) = steady s := by
  rfl

theorem steady_raise (k : Nat) (m : Word) (s : State)  : steady (raise k m s) = steady s := by
  unfold raise
  simp only [↓steady_doorbell, ↓steady_modPage, ↓steady_mk, ↓steady_eta, steady_ite, steady_ite_snd, steady_foldl, ite_self, implies_true]

theorem steady_raiseN (k i n : Nat) (s : State)  : steady (raiseN k i n s) = steady s := by
  unfold raiseN
  simp only [↓steady_modPage, ↓steady_raise, ↓steady_mk, ↓steady_eta, steady_ite, steady_ite_snd, steady_foldl, ite_self, implies_true]

theorem steady_raiseBit (k i : Nat) (s : State)  : steady (raiseBit k i s) = steady s := by
  unfold raiseBit
  simp only [↓steady_raise, ↓steady_mk, ↓steady_eta, steady_ite, steady_ite_snd, steady_foldl, ite_self, implies_true]

theorem steady_clearStat (k : Nat) (v hit : Word) (s : State)  : steady (clearStat k v hit s) = steady s := by
  unfold clearStat
  simp only [↓steady_doorbell, ↓steady_modPage, ↓steady_mk, ↓steady_eta, steady_ite, steady_ite_snd, steady_foldl, ite_self, implies_true]

theorem steady_writeAgain (k : Nat) (v : Word) (hit : Bool) (s : State)  : steady (writeAgain k v hit s) = steady s := by
  unfold writeAgain
  simp only [↓steady_modPage, ↓steady_mk, ↓steady_eta, steady_ite, steady_ite_snd, steady_foldl, ite_self, implies_true]

theorem steady_setImask (k : Nat) (v : Word) (send : Bool) (s : State)  : steady (setImask k v send s) = steady s := by
  unfold setImask
  simp only [↓steady_doorbell, ↓steady_modPage, ↓steady_mk, ↓steady_eta, steady_ite, steady_ite_snd, steady_foldl, ite_self, implies_true]

theorem steady_writeEvt (k : Nat) (v : Word) (s : State)  : steady (writeEvt k v s) = steady s := by
  unfold writeEvt
  simp only [↓steady_modPage, ↓steady_mk, ↓steady_eta, steady_ite, steady_ite_snd, steady_foldl, ite_self, implies_true]

theorem steady_dropReady (ks : List Nat) (s0 s1 : State)  : steady (dropReady ks s0 s1) = steady s1 := by
  unfold dropReady
  simp only [↓steady_raiseN, ↓steady_mk, ↓steady_eta, steady_ite, steady_ite_snd, steady_foldl, ite_self, implies_true]

end Sys2Proof.Laws
end

