-- ==== Sys2Proof/Laws/SteadyLanes.lean ====
section
/-! SUPPORT. What the operations of Machine/Lanes.lean leave steady: `steady` of the state after is that of the state before. -/

set_option linter.unusedSimpArgs false
set_option linter.unusedTactic false
set_option linter.unreachableTactic false
set_option linter.unnecessarySeqFocus false

namespace Sys2Proof.Laws

open Sys2Proof Sys2Proof.Machine

theorem steady_modLane (l : Nat) (f : Lane → Lane) (s : State)  : steady (modLane l f s) = steady s := by
  rfl

theorem steady_dieCtr (l n x : Nat) (s : State)  : steady (dieCtr l n x s) = steady s := by
  rfl

theorem steady_linkEvents (g : Nat → Word) (l : Nat) (s0 s : State)  : steady (linkEvents g l s0 s) = steady s := by
  unfold linkEvents
  simp only [↓steady_bump, ↓steady_raiseBit, ↓steady_mk, ↓steady_eta, steady_ite, steady_ite_snd, steady_foldl, ite_self, implies_true]

theorem steady_allLinkEvents (l : Nat) (s0 s : State)  : steady (allLinkEvents l s0 s) = steady s := by
  unfold allLinkEvents
  (repeat' split) <;> simp only [↓steady_linkEvents, ↓steady_mk, ↓steady_eta, steady_ite, steady_ite_snd, steady_foldl, ite_self, implies_true]

theorem steady_eyeAbort (l : Nat) (s : State)  : steady (eyeAbort l s) = steady s := by
  unfold eyeAbort
  simp only [↓steady_modLane, ↓steady_raiseBit, ↓steady_mk, ↓steady_eta, steady_ite, steady_ite_snd, steady_foldl, ite_self, implies_true]

theorem steady_idleExit (l : Nat) (s : State)  : steady (idleExit l s) = steady s := by
  rfl

theorem steady_wakeBeat (s : State)  : steady (wakeBeat s) = steady s := by
  unfold wakeBeat
  (repeat' split) <;> simp only [↓steady_idleExit, ↓steady_mk, ↓steady_eta, steady_ite, steady_ite_snd, steady_foldl, ite_self, implies_true]

theorem steady_blocksAnew (l : Nat) (s : State)  : steady (blocksAnew l s) = steady s := by
  unfold blocksAnew
  simp only [↓steady_modLane, ↓steady_mk, ↓steady_eta, steady_ite, steady_ite_snd, steady_foldl, ite_self, implies_true]

theorem steady_laneMove (l st : Nat) (s0 : State)  : steady (laneMove l st s0) = steady s0 := by
  unfold laneMove
  simp only [↓steady_blocksAnew, ↓steady_eyeAbort, ↓steady_modLane, ↓steady_mk, ↓steady_eta, steady_ite, steady_ite_snd, steady_foldl, ite_self, implies_true]

theorem steady_laneTo (l st : Nat) (s0 : State)  : steady (laneTo l st s0) = steady s0 := by
  unfold laneTo
  simp only [↓steady_allLinkEvents, ↓steady_laneMove, ↓steady_wakeBeat, ↓steady_mk, ↓steady_eta, steady_ite, steady_ite_snd, steady_foldl, ite_self, implies_true]

theorem steady_laneOff (l : Nat) (s : State)  : steady (laneOff l s) = steady s := by
  unfold laneOff
  simp only [↓steady_laneTo, ↓steady_mk, ↓steady_eta, steady_ite, steady_ite_snd, steady_foldl, ite_self, implies_true]

theorem steady_laneSearch (l : Nat) (s : State)  : steady (laneSearch l s) = steady s := by
  unfold laneSearch
  simp only [↓steady_laneTo, ↓steady_mk, ↓steady_eta, steady_ite, steady_ite_snd, steady_foldl, ite_self, implies_true]

theorem steady_relockBy (move : Nat → Nat → State → State) (l : Nat) (s : State) (hmove : ∀ a b s, steady (move a b s) = steady s) : steady (relockBy move l s) = steady s := by
  unfold relockBy
  simp only [↓steady_modLane, ↓steady_mk, ↓steady_eta, ↓hmove, steady_ite, steady_ite_snd, steady_foldl, ite_self, implies_true]

theorem steady_laneRelock (l : Nat) (s : State)  : steady (laneRelock l s) = steady s := by
  unfold laneRelock
  simp only [↓steady_laneTo, ↓steady_relockBy, ↓steady_mk, ↓steady_eta, steady_ite, steady_ite_snd, steady_foldl, ite_self, implies_true]

theorem steady_faultActs (was : Bool) (k : Nat) (s : State)  : steady (faultActs was k s) = steady s := by
  unfold faultActs
  simp only [↓steady_laneTo, ↓steady_raiseBit, ↓steady_mk, ↓steady_eta, steady_ite, steady_ite_snd, steady_foldl, ite_self, implies_true]

theorem steady_setFaults (ks : List Nat) (s0 : State)  : steady (setFaults ks s0) = steady s0 := by
  unfold setFaults
  simp only [↓steady_dropReady, ↓steady_faultActs, ↓steady_modPage, ↓steady_mk, ↓steady_eta, steady_ite, steady_ite_snd, steady_foldl, ite_self, implies_true]

theorem steady_setFault (k : Nat) (s : State)  : steady (setFault k s) = steady s := by
  unfold setFault
  simp only [↓steady_setFaults, ↓steady_mk, ↓steady_eta, steady_ite, steady_ite_snd, steady_foldl, ite_self, implies_true]

theorem steady_writeTxeq (l : Nat) (v : Word) (s : State)  : steady (writeTxeq l v s) = steady s := by
  unfold writeTxeq
  simp only [↓steady_modLane, ↓steady_mk, ↓steady_eta, steady_ite, steady_ite_snd, steady_foldl, ite_self, implies_true]

theorem steady_writeRxeq (l : Nat) (v : Word) (s : State)  : steady (writeRxeq l v s) = steady s := by
  unfold writeRxeq
  simp only [↓steady_laneRelock, ↓steady_modLane, ↓steady_mk, ↓steady_eta, steady_ite, steady_ite_snd, steady_foldl, ite_self, implies_true]

theorem steady_writeEye (l : Nat) (v : Word) (s : State)  : steady (writeEye l v s) = steady s := by
  unfold writeEye
  simp only [↓steady_eyeAbort, ↓steady_modLane, ↓steady_mk, ↓steady_eta, steady_ite, steady_ite_snd, steady_foldl, ite_self, implies_true]

theorem steady_eyeCell (l n : Nat) (s : State)  : steady (eyeCell l n s) = steady s := by
  unfold eyeCell
  simp only [↓steady_modLane, ↓steady_raiseBit, ↓steady_mk, ↓steady_eta, steady_ite, steady_ite_snd, steady_foldl, ite_self, implies_true]

theorem steady_untrain (l : Nat) (s : State)  : steady (untrain l s) = steady s := by
  unfold untrain
  simp only [↓steady_laneRelock, ↓steady_modLane, ↓steady_mk, ↓steady_eta, steady_ite, steady_ite_snd, steady_foldl, ite_self, implies_true]

theorem steady_lanesTakeEffect (old : Nat → Word) (s0 : State)  : steady (lanesTakeEffect old s0) = steady s0 := by
  unfold lanesTakeEffect
  simp only [↓steady_laneMove, ↓steady_laneRelock, ↓steady_linkEvents, ↓steady_modLane, ↓steady_relockBy, ↓steady_untrain, ↓steady_mk, ↓steady_eta, steady_ite, steady_ite_snd, steady_foldl, ite_self, implies_true]

end Sys2Proof.Laws
end

