-- ==== Sys2Proof/Laws/SteadySets.lean ====
section
/-! SUPPORT. What the operations of Machine/Sets.lean leave steady: `steady` of the state after is that of the state before. -/

set_option linter.unusedSimpArgs false
set_option linter.unusedTactic false
set_option linter.unreachableTactic false
set_option linter.unnecessarySeqFocus false

namespace Sys2Proof.Laws

open Sys2Proof Sys2Proof.Machine

theorem steady_atReport (q : Nat) (f : Nat → State → State) (s : State) (hf : ∀ n s, steady (f n s) = steady s) : steady (atReport q f s) = steady s := by
  unfold atReport
  (repeat' split) <;> simp only [↓steady_mk, ↓steady_eta, ↓hf, steady_ite, steady_ite_snd, steady_foldl, ite_self, implies_true]

theorem steady_raiseReport (q i : Nat) (s : State)  : steady (raiseReport q i s) = steady s := by
  unfold raiseReport
  simp only [↓steady_atReport, ↓steady_raiseBit, ↓steady_mk, ↓steady_eta, steady_ite, steady_ite_snd, steady_foldl, ite_self, implies_true]

theorem steady_modSet (q : Nat) (f : CSet → CSet) (s : State)  : steady (modSet q f s) = steady s := by
  rfl

end Sys2Proof.Laws
end

