-- ==== Sys2Proof/Laws/SteadyYokeBase.lean ====
section
/-! SUPPORT. What the operations of Machine/YokeBase.lean leave steady: `steady` of the state after is that of the state before. -/

set_option linter.unusedSimpArgs false
set_option linter.unusedTactic false
set_option linter.unreachableTactic false
set_option linter.unnecessarySeqFocus false

namespace Sys2Proof.Laws

open Sys2Proof Sys2Proof.Machine

theorem steady_modYch (ch : Nat) (f : YCh → YCh) (s : State)  : steady (modYch ch f s) = steady s := by
  rfl

theorem steady_setRole (r : Nat) (s : State)  : steady (setRole r s) = steady s := by
  unfold setRole
  simp only [↓steady_raiseBit, ↓steady_mk, ↓steady_eta, steady_ite, steady_ite_snd, steady_foldl, ite_self, implies_true]

theorem steady_sendOn (bytes : List Byte) (s : State) (l : Nat)  : steady (sendOn bytes s l) = steady s := by
  unfold sendOn
  simp only [↓steady_emit, ↓steady_idleExit, ↓steady_mk, ↓steady_eta, steady_ite, steady_ite_snd, steady_foldl, ite_self, implies_true]

theorem steady_sendFrame (seq : Nat) (retry : Bool) (m : YMsg) (s : State)  : steady (sendFrame seq retry m s) = steady s := by
  unfold sendFrame
  simp only [↓steady_sendOn, ↓steady_mk, ↓steady_eta, steady_ite, steady_ite_snd, steady_foldl, ite_self, implies_true]

theorem steady_sendRel (m : YMsg) (s : State)  : steady (sendRel m s) = steady s := by
  unfold sendRel
  simp only [↓steady_sendFrame, ↓steady_mk, ↓steady_eta, steady_ite, steady_ite_snd, steady_foldl, ite_self, implies_true]

theorem steady_ackUpTo (n : Nat) (s : State)  : steady (ackUpTo n s) = steady s := by
  rfl

theorem steady_yieldFor (c : Nat) (s : State)  : steady (yieldFor c s) = steady s := by
  unfold yieldFor
  simp only [↓steady_bump, ↓steady_emit, ↓steady_raiseBit, ↓steady_sendRel, ↓steady_mk, ↓steady_eta, steady_ite, steady_ite_snd, steady_foldl, ite_self, implies_true]

theorem steady_diverge (ch c : Nat) (s : State)  : steady (diverge ch c s) = steady s := by
  unfold diverge
  simp only [↓steady_bump, ↓steady_modYch, ↓steady_raiseBit, ↓steady_mk, ↓steady_eta, steady_ite, steady_ite_snd, steady_foldl, ite_self, implies_true]

theorem steady_relock (ch : Nat) (s : State)  : steady (relock ch s) = steady s := by
  unfold relock
  simp only [↓steady_modYch, ↓steady_raiseBit, ↓steady_mk, ↓steady_eta, steady_ite, steady_ite_snd, steady_foldl, ite_self, implies_true]

theorem steady_resyncFailed (ch : Nat) (s : State)  : steady (resyncFailed ch s) = steady s := by
  unfold resyncFailed
  simp only [↓steady_bump, ↓steady_modYch, ↓steady_raiseBit, ↓steady_mk, ↓steady_eta, steady_ite, steady_ite_snd, steady_foldl, ite_self, implies_true]

theorem steady_resyncAbort (tell : Bool) (s : State)  : steady (resyncAbort tell s) = steady s := by
  unfold resyncAbort
  (repeat' split) <;> simp only [↓steady_diverge, ↓steady_resyncFailed, ↓steady_sendRel, ↓steady_mk, ↓steady_eta, steady_ite, steady_ite_snd, steady_foldl, ite_self, implies_true]

theorem steady_seekResync (s : State)  : steady (seekResync s) = steady s := by
  unfold seekResync
  (repeat' split) <;> simp only [↓steady_modYch, ↓steady_sendRel, ↓steady_mk, ↓steady_eta, steady_ite, steady_ite_snd, steady_foldl, ite_self, implies_true]

theorem steady_pathsChanged (s0 s : State)  : steady (pathsChanged s0 s) = steady s := by
  unfold pathsChanged
  simp only [↓steady_bump, ↓steady_raiseBit, ↓steady_resyncAbort, ↓steady_setRole, ↓steady_mk, ↓steady_eta, steady_ite, steady_ite_snd, steady_foldl, ite_self, implies_true]

end Sys2Proof.Laws
end

