-- ==== Sys2Proof/Laws/SteadySched.lean ====
section
/-! SUPPORT. What the operations of Machine/Sched.lean leave steady: `steady` of the state after is that of the state before. -/

set_option linter.unusedSimpArgs false
set_option linter.unusedTactic false
set_option linter.unreachableTactic false
set_option linter.unnecessarySeqFocus false

namespace Sys2Proof.Laws

open Sys2Proof Sys2Proof.Machine

theorem steady_modPort (l : Nat) (f : PortTx → PortTx) (s : State)  : steady (modPort l f s) = steady s := by
  rfl

theorem steady_modFlow (n : Nat) (f : Flow → Flow) (s : State)  : steady (modFlow n f s) = steady s := by
  rfl

theorem steady_flowCount (n i x : Nat) (s : State)  : steady (flowCount n i x s) = steady s := by
  rfl

theorem steady_refillPort (l t : Nat) (s : State)  : steady (refillPort l t s) = steady s := by
  rfl

theorem steady_takeFlowTok (n path t k : Nat) (s : State)  : steady (takeFlowTok n path t k s) = steady s := by
  rfl

theorem steady_resetFlowBucket (n : Nat) (s : State)  : steady (resetFlowBucket n s) = steady s := by
  unfold resetFlowBucket
  simp only [↓steady_modFlow, ↓steady_raiseBit, ↓steady_mk, ↓steady_eta, steady_ite, steady_ite_snd, steady_foldl, ite_self, implies_true]

theorem steady_emitOn (l : Nat) (o : Out) (s : State)  : steady (emitOn l o s) = steady s := by
  unfold emitOn
  simp only [↓steady_emit, ↓steady_mk, ↓steady_eta, steady_ite, steady_ite_snd, steady_foldl, ite_self, implies_true]

theorem steady_discardMedia (l : Nat) (q : QFrame) (s : State)  : steady (discardMedia l q s) = steady s := by
  unfold discardMedia
  simp only [↓steady_bump, ↓steady_flowCount, ↓steady_raiseBit, ↓steady_mk, ↓steady_eta, steady_ite, steady_ite_snd, steady_foldl, ite_self, implies_true]

theorem steady_purge (l t : Nat) (a0 : List QFrame) (s : State)  : steady (purge l t a0 s) = steady s := by
  induction a0 generalizing s with
  | nil => rfl
  | cons q qs ih =>
    rw [purge]
    (repeat' split) <;> simp only [↓ih, ↓steady_discardMedia, ↓steady_modFlow, ↓steady_modPort, ↓steady_mk, ↓steady_eta, steady_ite, steady_ite_snd, steady_foldl, ite_self, implies_true]

theorem steady_purgeQueues (l : Nat) (s : State)  : steady (purgeQueues l s) = steady s := by
  unfold purgeQueues
  simp only [↓steady_bump, ↓steady_modPort, ↓steady_raiseN, ↓steady_mk, ↓steady_eta, steady_ite, steady_ite_snd, steady_foldl, ite_self, implies_true]

theorem steady_holdFrame (l b n : Nat) (media : Bool) (s : State)  : steady (holdFrame l b n media s) = steady s := by
  unfold holdFrame
  simp only [↓steady_bump, ↓steady_flowCount, ↓steady_raiseBit, ↓steady_mk, ↓steady_eta, steady_ite, steady_ite_snd, steady_foldl, ite_self, implies_true]

theorem steady_pickMedia (l t gbps : Nat) (a0 : Nat) (a1 : List QFrame) (s : State)  : steady (pickMedia l t gbps a0 a1 s).2 = steady s := by
  induction a0 generalizing a1 s with
  | zero => rfl
  | succ n ih =>
    rw [pickMedia]
    dsimp only
    split
    · rfl
    · split
      · rfl
      · simp only [↓ih, ↓steady_holdFrame, ↓steady_modPort, ↓steady_mk, ↓steady_eta, steady_ite, steady_ite_snd, steady_foldl, ite_self, implies_true]

theorem steady_startFrame (l b t gbps : Nat) (q : QFrame) (s : State)  : steady (startFrame l b t gbps q s) = steady s := by
  unfold startFrame
  simp only [↓steady_bump, ↓steady_draw, ↓steady_emit, ↓steady_flowCount, ↓steady_modPort, ↓steady_modPtp, ↓steady_mk, ↓steady_eta, steady_ite, steady_ite_snd, steady_foldl, ite_self, implies_true]

theorem steady_shaperWait (l : Nat) (q : QFrame) (s : State)  : steady (shaperWait l q s) = steady s := by
  rfl

theorem steady_drr (l t gbps : Nat) (a0 : Nat) (a1 : Nat) (s : State)  : steady (drr l t gbps a0 a1 s) = steady s := by
  induction a0 generalizing a1 s with
  | zero => rfl
  | succ n ih =>
    rw [drr]
    dsimp only
    (repeat' split) <;> simp only [↓ih, ↓steady_holdFrame, ↓steady_modPort, ↓steady_shaperWait, ↓steady_startFrame, ↓steady_mk, ↓steady_eta, steady_ite, steady_ite_snd, steady_foldl, ite_self, implies_true]

theorem steady_holdHead (l b : Nat) (q : QFrame) (s : State)  : steady (holdHead l b q s) = steady s := by
  unfold holdHead
  simp only [↓steady_holdFrame, ↓steady_mk, ↓steady_eta, steady_ite, steady_ite_snd, steady_foldl, ite_self, implies_true]

theorem steady_tryMedia (l t gbps : Nat) (s : State)  : steady (tryMedia l t gbps s).2 = steady s := by
  unfold tryMedia
  dsimp only
  (repeat' split) <;> simp only [↓steady_modPort, ↓steady_pickMedia, ↓steady_shaperWait, ↓steady_startFrame, ↓steady_takeFlowTok, ↓steady_mk, ↓steady_eta, steady_ite, steady_ite_snd, steady_foldl, ite_self, implies_true]

theorem steady_transmit (l t : Nat) (s : State)  : steady (transmit l t s) = steady s := by
  unfold transmit
  extract_lets gbps p s1 n p2 rest mgmt
  have h1 : steady s1 = steady s := by simp only [s1, ↓steady_bump, ↓steady_drr, ↓steady_holdHead, ↓steady_modPort, ↓steady_purgeQueues, ↓steady_purge, ↓steady_startFrame, ↓steady_tryMedia, ↓steady_mk, ↓steady_eta, steady_ite, steady_ite_snd, steady_foldl, ite_self, implies_true]
  have hrest : ∀ s, steady (rest s) = steady s := by
    intro s
    simp only [rest]
    (repeat' split) <;> simp only [↓steady_bump, ↓steady_drr, ↓steady_holdHead, ↓steady_modPort, ↓steady_purgeQueues, ↓steady_purge, ↓steady_startFrame, ↓steady_tryMedia, ↓steady_mk, ↓steady_eta, steady_ite, steady_ite_snd, steady_foldl, ite_self, implies_true]
  clear_value rest s1 p2
  have hmgmt : ∀ s, steady (mgmt s) = steady s := by
    intro s
    simp only [mgmt]
    (repeat' split) <;> simp only [↓hrest, ↓steady_bump, ↓steady_drr, ↓steady_holdHead, ↓steady_modPort, ↓steady_purgeQueues, ↓steady_purge, ↓steady_startFrame, ↓steady_tryMedia, ↓steady_mk, ↓steady_eta, steady_ite, steady_ite_snd, steady_foldl, ite_self, implies_true]
  clear_value mgmt
  split
  · simp only [↓h1, ↓steady_bump, ↓steady_drr, ↓steady_holdHead, ↓steady_modPort, ↓steady_purgeQueues, ↓steady_purge, ↓steady_startFrame, ↓steady_tryMedia, ↓steady_mk, ↓steady_eta, steady_ite, steady_ite_snd, steady_foldl, ite_self, implies_true]
  · (repeat' split) <;> simp only [↓hmgmt, ↓h1, ↓steady_bump, ↓steady_drr, ↓steady_holdHead, ↓steady_modPort, ↓steady_purgeQueues, ↓steady_purge, ↓steady_startFrame, ↓steady_tryMedia, ↓steady_mk, ↓steady_eta, steady_ite, steady_ite_snd, steady_foldl, ite_self, implies_true]

theorem steady_ancJoin (l i len : Nat) (ip : Option Dgram) (s : State)  : steady (ancJoin l i len ip s) = steady s := by
  unfold ancJoin
  simp only [↓steady_bump, ↓steady_modPort, ↓steady_mk, ↓steady_eta, steady_ite, steady_ite_snd, steady_foldl, ite_self, implies_true]

theorem steady_ancQueue (l i len : Nat) (s : State)  : steady (ancQueue l i len s) = steady s := by
  unfold ancQueue
  simp only [↓steady_ancJoin, ↓steady_mk, ↓steady_eta, steady_ite, steady_ite_snd, steady_foldl, ite_self, implies_true]

theorem steady_ancFrame (l i : Nat) (dg : Dgram) (s : State)  : steady (ancFrame l i dg s) = steady s := by
  unfold ancFrame
  simp only [↓steady_ancJoin, ↓steady_mk, ↓steady_eta, steady_ite, steady_ite_snd, steady_foldl, ite_self, implies_true]

theorem steady_serviceFrame (l i : Nat) (s : State)  : steady (serviceFrame l i s) = steady s := by
  unfold serviceFrame
  simp only [↓steady_ancQueue, ↓steady_draw, ↓steady_mk, ↓steady_eta, steady_ite, steady_ite_snd, steady_foldl, ite_self, implies_true]

theorem steady_stopFlows (fs : List Nat) (s : State)  : steady (stopFlows fs s) = steady s := by
  unfold stopFlows
  simp only [↓steady_modFlow, ↓steady_mk, ↓steady_eta, steady_ite, steady_ite_snd, steady_foldl, ite_self, implies_true]

theorem steady_startFlows (fs : List Nat) (s : State)  : steady (startFlows fs s) = steady s := by
  unfold startFlows
  simp only [↓steady_modFlow, ↓steady_mk, ↓steady_eta, steady_ite, steady_ite_snd, steady_foldl, ite_self, implies_true]

theorem steady_quenchPorts (d : Nat) (ls : List Nat) (s0 : State)  : steady (quenchPorts d ls s0) = steady s0 := by
  unfold quenchPorts
  simp only [↓steady_modPort, ↓steady_raiseBit, ↓steady_mk, ↓steady_eta, steady_ite, steady_ite_snd, steady_foldl, ite_self, implies_true]

theorem steady_unquenchPorts (ls : List Nat) (s : State)  : steady (unquenchPorts ls s) = steady s := by
  unfold unquenchPorts
  simp only [↓steady_modPort, ↓steady_mk, ↓steady_eta, steady_ite, steady_ite_snd, steady_foldl, ite_self, implies_true]

theorem steady_setKeySlot (n : Nat) (k : KeySlot) (s : State)  : steady (setKeySlot n k s) = steady s := by
  rfl

theorem steady_command (l sport : Nat) (b : Body) (s : State)  : steady (command l sport b s) = steady s := by
  unfold command
  (repeat' split) <;> simp only [↓steady_bump, ↓steady_modPort, ↓steady_quenchPorts, ↓steady_raiseBit, ↓steady_setKeySlot, ↓steady_startFlows, ↓steady_stopFlows, ↓steady_unquenchPorts, ↓steady_mk, ↓steady_eta, steady_ite, steady_ite_snd, steady_foldl, ite_self, implies_true]

theorem steady_mgmtArrive (l len : Nat) (s : State)  : steady (mgmtArrive l len s) = steady s := by
  unfold mgmtArrive
  simp only [↓steady_bump, ↓steady_modPort, ↓steady_raiseBit, ↓steady_mk, ↓steady_eta, steady_ite, steady_ite_snd, steady_foldl, ite_self, implies_true]

theorem steady_takeWait (l : Nat) (s : State)  : steady (takeWait l s) = steady s := by
  rfl

theorem steady_takeWaitsAll (s : State)  : steady (takeWaitsAll s) = steady s := by
  unfold takeWaitsAll
  simp only [↓steady_takeWait, ↓steady_mk, ↓steady_eta, steady_ite, steady_ite_snd, steady_foldl, ite_self, implies_true]

theorem steady_listTakesEffect (l : Nat) (s : State)  : steady (listTakesEffect l s) = steady s := by
  unfold listTakesEffect
  simp only [↓steady_bump, ↓steady_modPort, ↓steady_raiseBit, ↓steady_takeWait, ↓steady_mk, ↓steady_eta, steady_ite, steady_ite_snd, steady_foldl, ite_self, implies_true]

theorem steady_listStarts (l : Nat) (s : State)  : steady (listStarts l s) = steady s := by
  unfold listStarts
  (repeat' split) <;> simp only [↓steady_advance, ↓steady_bump, ↓steady_modPort, ↓steady_raiseBit, ↓steady_takeWait, ↓steady_mk, ↓steady_eta, steady_ite, steady_ite_snd, steady_foldl, ite_self, implies_true]

theorem steady_gateBegins (l : Nat) (s : State)  : steady (gateBegins l s) = steady s := by
  unfold gateBegins
  (repeat' split) <;> simp only [↓steady_advance, ↓steady_modPort, ↓steady_mk, ↓steady_eta, steady_ite, steady_ite_snd, steady_foldl, ite_self, implies_true]

theorem steady_quantaTakeEffect (old : Nat → Word) (s : State)  : steady (quantaTakeEffect old s) = steady s := by
  unfold quantaTakeEffect
  simp only [↓steady_modPort, ↓steady_mk, ↓steady_eta, steady_ite, steady_ite_snd, steady_foldl, ite_self, implies_true]

theorem steady_shapersTakeEffect (old : Nat → Word) (s : State)  : steady (shapersTakeEffect old s) = steady s := by
  unfold shapersTakeEffect
  simp only [↓steady_modPort, ↓steady_raiseBit, ↓steady_refillPort, ↓steady_mk, ↓steady_eta, steady_ite, steady_ite_snd, steady_foldl, ite_self, implies_true]

theorem steady_listsTakeEffect (old : Nat → Word) (s : State)  : steady (listsTakeEffect old s) = steady s := by
  unfold listsTakeEffect
  simp only [↓steady_listTakesEffect, ↓steady_mk, ↓steady_eta, steady_ite, steady_ite_snd, steady_foldl, ite_self, implies_true]

end Sys2Proof.Laws
end

