-- ==== Sys2Proof/Laws/SteadyChan.lean ====
section
/-! SUPPORT. What the operations of Machine/Chan.lean leave steady: `steady` of the state after is that of the state before. -/

set_option linter.unusedSimpArgs false
set_option linter.unusedTactic false
set_option linter.unreachableTactic false
set_option linter.unnecessarySeqFocus false

namespace Sys2Proof.Laws

open Sys2Proof Sys2Proof.Machine

theorem steady_modChan (ch : Nat) (f : Chan → Chan) (s : State)  : steady (modChan ch f s) = steady s := by
  rfl

theorem steady_toChState (ch : Nat) (c : ChState) (s : State)  : steady (toChState ch c s) = steady s := by
  unfold toChState
  (repeat' split) <;> simp only [↓steady_bump, ↓steady_modChan, ↓steady_raiseBit, ↓steady_mk, ↓steady_eta, steady_ite, steady_ite_snd, steady_foldl, ite_self, implies_true]

theorem steady_modPic (ch n : Nat) (f : Pic → Pic) (s : State)  : steady (modPic ch n f s) = steady s := by
  rfl

theorem steady_modFur (ch n k : Nat) (f : Fur → Fur) (s : State)  : steady (modFur ch n k f s) = steady s := by
  rfl

end Sys2Proof.Laws
end

