-- ==== Sys2Proof/Laws/SteadyYard.lean ====
section
/-! SUPPORT. What the operations of Machine/Yard.lean leave steady: `steady` of the state after is that of the state before. -/

set_option linter.unusedSimpArgs false
set_option linter.unusedTactic false
set_option linter.unreachableTactic false
set_option linter.unnecessarySeqFocus false

namespace Sys2Proof.Laws

open Sys2Proof Sys2Proof.Machine

theorem steady_modSvc (v : Nat) (f : Svc → Svc) (s : State)  : steady (modSvc v f s) = steady s := by
  rfl

theorem steady_enqueue (p : Pkt) (f : Nat) (c : FlowCfg) (path : Nat) (yoked : Bool) (s : State)  : steady (enqueue p f c path yoked s) = steady s := by
  rfl

theorem steady_markUsed (n : Nat) (s : State)  : steady (markUsed n s) = steady s := by
  unfold markUsed
  simp only [↓steady_setKeySlot, ↓steady_mk, ↓steady_eta, steady_ite, steady_ite_snd, steady_foldl, ite_self, implies_true]

theorem steady_deliver (p : Pkt) (s : State)  : steady (deliver p s) = steady s := by
  unfold deliver
  simp only [↓steady_bump, ↓steady_enqueue, ↓steady_markUsed, ↓steady_mk, ↓steady_eta, steady_ite, steady_ite_snd, steady_foldl, ite_self, implies_true]

theorem steady_keepReplay (p : Pkt) (s : State)  : steady (keepReplay p s) = steady s := by
  unfold keepReplay
  simp only [↓steady_mk, ↓steady_eta, steady_ite, steady_ite_snd, steady_foldl, ite_self, implies_true]

theorem steady_modDsp (d : Nat) (f : Dsp → Dsp) (s : State)  : steady (modDsp d f s) = steady s := by
  rfl

theorem steady_countWait (d : Nat) (a : Nat × Nat × Nat × Nat × Nat) (b : Nat) (s : State)  : steady (countWait d a b s) = steady s := by
  unfold countWait
  rw [steady_bump]
  split <;> rfl

theorem steady_recordEnded (d : Nat) (q : Nat × Nat × Nat × Nat × Nat → Bool) (s : State)  : steady (recordEnded d q s) = steady s := by
  unfold recordEnded
  simp only [↓steady_countWait, ↓steady_modDsp, ↓steady_mk, ↓steady_eta, steady_ite, steady_ite_snd, steady_foldl, ite_self, implies_true]

theorem steady_recordServed (d : Nat) (q : Item → Bool) (s : State)  : steady (recordServed d q s) = steady s := by
  unfold recordServed
  simp only [↓steady_countWait, ↓steady_mk, ↓steady_eta, steady_ite, steady_ite_snd, steady_foldl, ite_self, implies_true]

theorem steady_dropItems (ch : Nat) (q : Nat → Bool) (s : State)  : steady (dropItems ch q s) = steady s := by
  unfold dropItems
  simp only [↓steady_modDsp, ↓steady_recordEnded, ↓steady_recordServed, ↓steady_mk, ↓steady_eta, steady_ite, steady_ite_snd, steady_foldl, ite_self, implies_true]

theorem steady_settle (ch : Nat) (s : State)  : steady (settle ch s) = steady s := by
  unfold settle
  simp only [↓steady_bump, ↓steady_dropItems, ↓steady_modChan, ↓steady_modYch, ↓steady_toChState, ↓steady_mk, ↓steady_eta, steady_ite, steady_ite_snd, steady_foldl, ite_self, implies_true]

theorem steady_releaseNext (v : Nat) (s : State)  : steady (releaseNext v s) = steady s := by
  unfold releaseNext
  (repeat' split) <;> simp only [↓steady_advance, ↓steady_deliver, ↓steady_keepReplay, ↓steady_modSvc, ↓steady_settle, ↓steady_mk, ↓steady_eta, steady_ite, steady_ite_snd, steady_foldl, ite_self, implies_true]

theorem steady_startSvc (v : Nat) (s : State)  : steady (startSvc v s) = steady s := by
  rfl

theorem steady_svcsAtBoundary (ch : Nat) (fresh : Bool) (s : State)  : steady (svcsAtBoundary ch fresh s) = steady s := by
  unfold svcsAtBoundary
  simp only [↓steady_modSvc, ↓steady_startSvc, ↓steady_mk, ↓steady_eta, steady_ite, steady_ite_snd, steady_foldl, ite_self, implies_true]

theorem steady_flowLeave (g : Nat → Word) (f : Nat) (s : State)  : steady (flowLeave g f s) = steady s := by
  rfl

theorem steady_flowJoin (g : Nat → Word) (f v : Nat) (s : State)  : steady (flowJoin g f v s) = steady s := by
  unfold flowJoin
  simp only [↓steady_modFlow, ↓steady_resetFlowBucket, ↓steady_mk, ↓steady_eta, steady_ite, steady_ite_snd, steady_foldl, ite_self, implies_true]

theorem steady_svcsLapse (s : State)  : steady (svcsLapse s) = steady s := by
  unfold svcsLapse
  simp only [↓steady_modSvc, ↓steady_mk, ↓steady_eta, steady_ite, steady_ite_snd, steady_foldl, ite_self, implies_true]

theorem steady_flowAtBoundary (g : Nat → Word) (v f : Nat) (s : State)  : steady (flowAtBoundary g v f s) = steady s := by
  unfold flowAtBoundary
  simp only [↓steady_flowJoin, ↓steady_flowLeave, ↓steady_modFlow, ↓steady_resetFlowBucket, ↓steady_mk, ↓steady_eta, steady_ite, steady_ite_snd, steady_foldl, ite_self, implies_true]

theorem steady_flowsAtBoundary (g : Nat → Word) (v : Nat) (s : State)  : steady (flowsAtBoundary g v s) = steady s := by
  unfold flowsAtBoundary
  simp only [↓steady_flowAtBoundary, ↓steady_mk, ↓steady_eta, steady_ite, steady_ite_snd, steady_foldl, ite_self, implies_true]

theorem steady_chFlows (ch : Nat) (first : Bool) (s : State)  : steady (chFlows ch first s) = steady s := by
  unfold chFlows
  simp only [↓steady_flowsAtBoundary, ↓steady_mk, ↓steady_eta, steady_ite, steady_ite_snd, steady_foldl, ite_self, implies_true]

theorem steady_idleFlows (s : State)  : steady (idleFlows s) = steady s := by
  unfold idleFlows
  refine steady_foldl _ _ _ ?_
  intros
  split
  · split
    · exact steady_flowLeave _ _ _
    · rfl
  · rfl

end Sys2Proof.Laws
end

