-- ==== Sys2Proof/Laws/SteadyDram.lean ====
section
/-! SUPPORT. What the operations of Machine/Dram.lean leave steady: `steady` of the state after is that of the state before. -/

set_option linter.unusedSimpArgs false
set_option linter.unusedTactic false
set_option linter.unreachableTactic false
set_option linter.unnecessarySeqFocus false

namespace Sys2Proof.Laws

open Sys2Proof Sys2Proof.Machine

theorem steady_modMc (d : Nat) (f : Mc → Mc) (s : State)  : steady (modMc d f s) = steady s := by
  rfl

theorem steady_modMch (d i : Nat) (f : Mch → Mch) (s : State)  : steady (modMch d i f s) = steady s := by
  rfl

theorem steady_eccCorrect (d : Nat) (s : State)  : steady (eccCorrect d s) = steady s := by
  unfold eccCorrect
  simp only [↓steady_bump, ↓steady_raiseBit, ↓steady_mk, ↓steady_eta, steady_ite, steady_ite_snd, steady_foldl, ite_self, implies_true]

theorem steady_eccBad (d w who : Nat) (s : State)  : steady (eccBad d w who s) = steady s := by
  unfold eccBad
  simp only [↓steady_bump, ↓steady_modMc, ↓steady_raiseBit, ↓steady_mk, ↓steady_eta, steady_ite, steady_ite_snd, steady_foldl, ite_self, implies_true]

theorem steady_meetSoft (d w : Nat) (s : State)  : steady (meetSoft d w s) = steady s := by
  unfold meetSoft
  simp only [↓steady_eccCorrect, ↓steady_mk, ↓steady_eta, steady_ite, steady_ite_snd, steady_foldl, ite_self, implies_true]

theorem steady_leaveBad (d w : Nat) (s : State)  : steady (leaveBad d w s) = steady s := by
  unfold leaveBad
  simp only [↓steady_mk, ↓steady_eta, steady_ite, steady_ite_snd, steady_foldl, ite_self, implies_true]

theorem steady_countRead (d w : Nat) (s : State)  : steady (countRead d w s) = steady s := by
  rfl

theorem steady_countWrite (d w : Nat) (s : State)  : steady (countWrite d w s) = steady s := by
  rfl

theorem steady_storeWord (d w : Nat) (whole : Bool) (e : EccEvent) (s : State)  : steady (storeWord d w whole e s) = steady s := by
  unfold storeWord
  simp only [↓steady_countRead, ↓steady_countWrite, ↓steady_eccCorrect, ↓steady_mk, ↓steady_eta, steady_ite, steady_ite_snd, steady_foldl, ite_self, implies_true]

theorem steady_storeWords (d a n : Nat) (s : State)  : steady (storeWords d a n s) = steady s := by
  unfold storeWords
  simp only [↓steady_storeWord, ↓steady_mk, ↓steady_eta, steady_ite, steady_ite_snd, steady_foldl, ite_self, implies_true]

theorem steady_correctIn (ls : List MemRange) (s : State)  : steady (correctIn ls s) = steady s := by
  unfold correctIn
  simp only [↓steady_eccCorrect, ↓steady_mk, ↓steady_eta, steady_ite, steady_ite_snd, steady_foldl, ite_self, implies_true]

end Sys2Proof.Laws
end

