-- ==== Sys2Proof/Laws/SteadyIngest.lean ====
section
/-! SUPPORT. What the operations of Machine/Ingest.lean leave steady: `steady` of the state after is that of the state before. -/

set_option linter.unusedSimpArgs false
set_option linter.unusedTactic false
set_option linter.unreachableTactic false
set_option linter.unnecessarySeqFocus false

namespace Sys2Proof.Laws

open Sys2Proof Sys2Proof.Machine

theorem steady_modSlot (d n : Nat) (f : Slot → Slot) (s : State)  : steady (modSlot d n f s) = steady s := by
  rfl

theorem steady_modSlotPic (d n m : Nat) (f : SlotPic → SlotPic) (s : State)  : steady (modSlotPic d n m f s) = steady s := by
  rfl

theorem steady_modEntry (e : Nat) (f : Entry → Entry) (s : State)  : steady (modEntry e f s) = steady s := by
  rfl

theorem steady_entCount (e i x : Nat) (s : State)  : steady (entCount e i x s) = steady s := by
  rfl

theorem steady_lookDown (e t : Nat) (s0 : State)  : steady (lookDown e t s0) = steady s0 := by
  unfold lookDown
  simp only [↓steady_modEntry, ↓steady_raiseBit, ↓steady_mk, ↓steady_eta, steady_ite, steady_ite_snd, steady_foldl, ite_self, implies_true]

theorem steady_copyPassed (e t : Nat) (s : State)  : steady (copyPassed e t s) = steady s := by
  unfold copyPassed
  simp only [↓steady_lookDown, ↓steady_modEntry, ↓steady_mk, ↓steady_eta, steady_ite, steady_ite_snd, steady_foldl, ite_self, implies_true]

theorem steady_police (e t len : Nat) (s : State)  : steady (police e t len s).2 = steady s := by
  unfold police
  extract_lets c n tok cost d
  rw [steady_ite_snd]
  split
  · dsimp only
    rw [steady_copyPassed, steady_entCount, steady_entCount, steady_modEntry]
  · dsimp only
    rw [steady_raiseBit, steady_bump, steady_entCount, steady_modEntry]

theorem steady_mergeCopy (e t bits q : Nat) (s : State)  : steady (mergeCopy e t bits q s).2 = steady s := by
  unfold mergeCopy
  dsimp only
  (repeat' split) <;> simp only [↓steady_bump, ↓steady_entCount, ↓steady_raiseBit, ↓steady_mk, ↓steady_eta, steady_ite, steady_ite_snd, steady_foldl, ite_self, implies_true]

theorem steady_completeFurrows (ch m : Nat) (s : State)  : steady (completeFurrows ch m s) = steady s := by
  unfold completeFurrows
  (repeat' split) <;> simp only [↓steady_modFur, ↓steady_mk, ↓steady_eta, steady_ite, steady_ite_snd, steady_foldl, ite_self, implies_true]

theorem steady_completeFrom (ch m : Nat) (s : State)  : steady (completeFrom ch m s) = steady s := by
  unfold completeFrom
  simp only [↓steady_completeFurrows, ↓steady_mk, ↓steady_eta, steady_ite, steady_ite_snd, steady_foldl, ite_self, implies_true]

theorem steady_updateReady (d n m : Nat) (s : State)  : steady (updateReady d n m s) = steady s := by
  unfold updateReady
  simp only [↓steady_completeFrom, ↓steady_modSlot, ↓steady_modSlotPic, ↓steady_mk, ↓steady_eta, steady_ite, steady_ite_snd, steady_foldl, ite_self, implies_true]

theorem steady_keepLine (d n m y : Nat) (s : State)  : steady (keepLine d n m y s) = steady s := by
  unfold keepLine
  simp only [↓steady_modSlotPic, ↓steady_mk, ↓steady_eta, steady_ite, steady_ite_snd, steady_foldl, ite_self, implies_true]

theorem steady_lineStored (d n m y i k : Nat) (s : State)  : steady (lineStored d n m y i k s) = steady s := by
  unfold lineStored
  simp only [↓steady_storeWords, ↓steady_mk, ↓steady_eta, steady_ite, steady_ite_snd, steady_foldl, ite_self, implies_true]

theorem steady_putSegment (d n m t : Nat) (g : Seg) (s : State)  : steady (putSegment d n m t g s) = steady s := by
  unfold putSegment
  simp only [↓steady_bump, ↓steady_keepLine, ↓steady_lineStored, ↓steady_modSlotPic, ↓steady_raiseBit, ↓steady_mk, ↓steady_eta, steady_ite, steady_ite_snd, steady_foldl, ite_self, implies_true]

theorem steady_takeVideo (e t ts : Nat) (fieldBit : Bool) (segs : List Seg) (s : State)  : steady (takeVideo e t ts fieldBit segs s) = steady s := by
  unfold takeVideo
  dsimp only
  (repeat' split) <;> simp only [↓steady_bump, ↓steady_putSegment, ↓steady_raiseBit, ↓steady_updateReady, ↓steady_mk, ↓steady_eta, steady_ite, steady_ite_snd, steady_foldl, ite_self, implies_true]

theorem steady_putAnc (d n m : Nat) (a : AncPkt) (s : State)  : steady (putAnc d n m a s) = steady s := by
  unfold putAnc
  simp only [↓steady_bump, ↓steady_modSlotPic, ↓steady_storeWords, ↓steady_mk, ↓steady_eta, steady_ite, steady_ite_snd, steady_foldl, ite_self, implies_true]

theorem steady_takeAnc (e t ts : Nat) (pkts : List AncPkt) (s : State)  : steady (takeAnc e t ts pkts s) = steady s := by
  unfold takeAnc
  dsimp only
  (repeat' split) <;> simp only [↓steady_bump, ↓steady_putAnc, ↓steady_raiseBit, ↓steady_mk, ↓steady_eta, steady_ite, steady_ite_snd, steady_foldl, ite_self, implies_true]

theorem steady_lineFillOp (d n m y : Nat) (s : State)  : steady (lineFillOp d n m y s) = steady s := by
  unfold lineFillOp
  simp only [↓steady_advance, ↓steady_bump, ↓steady_lineStored, ↓steady_modSlotPic, ↓steady_raiseBit, ↓steady_mk, ↓steady_eta, steady_ite, steady_ite_snd, steady_foldl, ite_self, implies_true]

theorem steady_fillEndOp (d n m y : Nat) (s : State)  : steady (fillEndOp d n m y s) = steady s := by
  unfold fillEndOp
  simp only [↓steady_modSlotPic, ↓steady_updateReady, ↓steady_mk, ↓steady_eta, steady_ite, steady_ite_snd, steady_foldl, ite_self, implies_true]

theorem steady_entriesTakeEffect (old : Nat → Word) (oldT : Tbl Word) (s : State)  : steady (entriesTakeEffect old oldT s) = steady s := by
  unfold entriesTakeEffect
  simp only [↓steady_emitOn, ↓steady_modEntry, ↓steady_serviceFrame, ↓steady_mk, ↓steady_eta, steady_ite, steady_ite_snd, steady_foldl, ite_self, implies_true]

theorem steady_slotsTakeEffect (old : Nat → Word) (oldT : Tbl Word) (s : State)  : steady (slotsTakeEffect old oldT s) = steady s := by
  unfold slotsTakeEffect
  simp only [↓steady_modSlot, ↓steady_mk, ↓steady_eta, steady_ite, steady_ite_snd, steady_foldl, ite_self, implies_true]

theorem steady_pathDownOp (e t : Nat) (s : State)  : steady (pathDownOp e t s) = steady s := by
  unfold pathDownOp
  simp only [↓steady_advance, ↓steady_lookDown, ↓steady_mk, ↓steady_eta, steady_ite, steady_ite_snd, steady_foldl, ite_self, implies_true]

theorem steady_igmpReportOp (e : Nat) (s : State)  : steady (igmpReportOp e s) = steady s := by
  unfold igmpReportOp
  simp only [↓steady_emitOn, ↓steady_serviceFrame, ↓steady_mk, ↓steady_eta, steady_ite, steady_ite_snd, steady_foldl, ite_self, implies_true]

end Sys2Proof.Laws
end

