-- ==== Sys2Proof/Laws/SteadyAudio.lean ====
section
/-! SUPPORT. What the operations of Machine/Audio.lean leave steady: `steady` of the state after is that of the state before. -/

set_option linter.unusedSimpArgs false
set_option linter.unusedTactic false
set_option linter.unreachableTactic false
set_option linter.unnecessarySeqFocus false

namespace Sys2Proof.Laws

open Sys2Proof Sys2Proof.Machine

theorem steady_modAflow (f : Nat) (g : AFlow → AFlow) (s : State)  : steady (modAflow f g s) = steady s := by
  rfl

theorem steady_modTdm (p : Nat) (g : Tdm → Tdm) (s : State)  : steady (modTdm p g s) = steady s := by
  rfl

theorem steady_noteTdm (p : Nat) (s : State)  : steady (noteTdm p s) = steady s := by
  unfold noteTdm
  simp only [↓steady_modTdm, ↓steady_mk, ↓steady_eta, steady_ite, steady_ite_snd, steady_foldl, ite_self, implies_true]

theorem steady_marksCleared (m : Nat) (s0 s : State)  : steady (marksCleared m s0 s) = steady s := by
  unfold marksCleared
  simp only [↓steady_modAflow, ↓steady_modTdm, ↓steady_mk, ↓steady_eta, steady_ite, steady_ite_snd, steady_foldl, ite_self, implies_true]

theorem steady_sampleReadyOp (f : Nat) (s0 : State)  : steady (sampleReadyOp f s0) = steady s0 := by
  unfold sampleReadyOp
  simp only [↓steady_advance, ↓steady_bump, ↓steady_modAflow, ↓steady_raiseBit, ↓steady_mk, ↓steady_eta, steady_ite, steady_ite_snd, steady_foldl, ite_self, implies_true]

theorem steady_aflTimeout (f k : Nat) (s : State)  : steady (aflTimeout f k s) = steady s := by
  unfold aflTimeout
  simp only [↓steady_bump, ↓steady_modAflow, ↓steady_raiseBit, ↓steady_mk, ↓steady_eta, steady_ite, steady_ite_snd, steady_foldl, ite_self, implies_true]

theorem steady_aflMarkClear (f k : Nat) (s0 : State)  : steady (aflMarkClear f k s0) = steady s0 := by
  unfold aflMarkClear
  simp only [↓steady_marksCleared, ↓steady_modAflow, ↓steady_mk, ↓steady_eta, steady_ite, steady_ite_snd, steady_foldl, ite_self, implies_true]

theorem steady_takeAudio (e t ts chans width count : Nat) (samples : List Int) (s : State)  : steady (takeAudio e t ts chans width count samples s) = steady s := by
  unfold takeAudio
  simp only [↓steady_bump, ↓steady_modAflow, ↓steady_mk, ↓steady_eta, steady_ite, steady_ite_snd, steady_foldl, ite_self, implies_true]

theorem steady_audioRelease (v : Nat) (s : State)  : steady (audioRelease v s) = steady s := by
  unfold audioRelease
  simp only [↓steady_advance, ↓steady_bump, ↓steady_deliver, ↓steady_emit, ↓steady_modSvc, ↓steady_mk, ↓steady_eta, steady_ite, steady_ite_snd, steady_foldl, ite_self, implies_true]

theorem steady_aflowTakesEffect (old : Nat → Word) (f : Nat) (s : State)  : steady (aflowTakesEffect old f s) = steady s := by
  unfold aflowTakesEffect
  simp only [↓steady_modAflow, ↓steady_mk, ↓steady_eta, steady_ite, steady_ite_snd, steady_foldl, ite_self, implies_true]

theorem steady_asvcTakesEffect (old : Nat → Word) (f j : Nat) (s : State)  : steady (asvcTakesEffect old f j s) = steady s := by
  unfold asvcTakesEffect
  simp only [↓steady_modSvc, ↓steady_mk, ↓steady_eta, steady_ite, steady_ite_snd, steady_foldl, ite_self, implies_true]

theorem steady_aflowsTakeEffect (old : Nat → Word) (s : State)  : steady (aflowsTakeEffect old s) = steady s := by
  unfold aflowsTakeEffect
  simp only [↓steady_aflowTakesEffect, ↓steady_asvcTakesEffect, ↓steady_mk, ↓steady_eta, steady_ite, steady_ite_snd, steady_foldl, ite_self, implies_true]

theorem steady_audioFlowsAtBoundary (s : State)  : steady (audioFlowsAtBoundary s) = steady s := by
  unfold audioFlowsAtBoundary
  simp only [↓steady_flowsAtBoundary, ↓steady_mk, ↓steady_eta, steady_ite, steady_ite_snd, steady_foldl, ite_self, implies_true]

theorem steady_tdmTo (p : Nat) (st : TdmState) (s : State)  : steady (tdmTo p st s) = steady s := by
  unfold tdmTo
  dsimp only
  (repeat' split) <;> simp only [↓steady_modTdm, ↓steady_raiseBit, ↓steady_mk, ↓steady_eta, steady_ite, steady_ite_snd, steady_foldl, ite_self, implies_true]

theorem steady_unmuteSlots (p : Nat) (l : List Nat) (s : State)  : steady (unmuteSlots p l s) = steady s := by
  rfl

theorem steady_tdmRestart (p : Nat) (s : State)  : steady (tdmRestart p s) = steady s := by
  unfold tdmRestart
  simp only [↓steady_bump, ↓steady_modTdm, ↓steady_raiseBit, ↓steady_tdmTo, ↓steady_unmuteSlots, ↓steady_mk, ↓steady_eta, steady_ite, steady_ite_snd, steady_foldl, ite_self, implies_true]

theorem steady_tdmApply (p : Nat) (s : State)  : steady (tdmApply p s) = steady s := by
  rfl

theorem steady_tdmMarks (p : Nat) (f : TdmIn) (l : List Int) (n : Nat) (s0 : State)  : steady (tdmMarks p f l n s0) = steady s0 := by
  unfold tdmMarks
  simp only [↓steady_bump, ↓steady_marksCleared, ↓steady_modTdm, ↓steady_raiseBit, ↓steady_mk, ↓steady_eta, steady_ite, steady_ite_snd, steady_foldl, ite_self, implies_true]

theorem steady_tdmStore (p : Nat) (l : List Int) (slips : List Nat) (ppm : Int) (n : Nat) (s : State)  : steady (tdmStore p l slips ppm n s) = steady s := by
  unfold tdmStore
  simp only [↓steady_bump, ↓steady_modTdm, ↓steady_raiseBit, ↓steady_mk, ↓steady_eta, steady_ite, steady_ite_snd, steady_foldl, ite_self, implies_true]

theorem steady_outRun (p i n : Nat) (s : State)  : steady (outRun p i n s) = steady s := by
  rfl

theorem steady_outStep (p i t : Nat) (f : TdmIn) (s : State)  : steady (outStep p i t f s).2 = steady s := by
  unfold outStep
  simp only [↓steady_bump, ↓steady_outRun, ↓steady_raiseBit, ↓steady_mk, ↓steady_eta, steady_ite, steady_ite_snd, steady_foldl, ite_self, implies_true]

theorem steady_tdmDrive (p : Nat) (f : TdmIn) (mute dry : Bool) (s : State)  : steady (tdmDrive p f mute dry s) = steady s := by
  unfold tdmDrive
  split
  · rfl
  · have h : ∀ (l : List Nat) (n : Nat) (a : List (Option Int) × State), steady (l.foldl (fun (a : List (Option Int) × State) i =>
      if bitOf ((tdm a.2 p).cfg.getD 2 0) i then
        if tdmYields (tdm a.2 p) then
          let o := outStep p i f.at_ f a.2
          (a.1 ++ [some (if mute then 0 else o.1)], o.2)
        else (a.1 ++ [some 0], a.2)
      else (a.1 ++ [none], a.2)) a).2 = steady a.2 := by
      intro l n
      induction l with
      | nil => intro a; rfl
      | cons i l ih =>
        intro a
        rw [List.foldl_cons, ih]
        simp only [↓steady_emit, ↓steady_outStep, ↓steady_mk, ↓steady_eta, steady_ite, steady_ite_snd, steady_foldl, ite_self, implies_true]
    dsimp only
    rw [steady_emit, h _ 0]

theorem steady_tdmTrack (p : Nat) (ppm : Int) (s : State)  : steady (tdmTrack p ppm s) = steady s := by
  unfold tdmTrack
  simp only [↓steady_bump, ↓steady_modTdm, ↓steady_raiseBit, ↓steady_tdmTo, ↓steady_mk, ↓steady_eta, steady_ite, steady_ite_snd, steady_foldl, ite_self, implies_true]

theorem steady_tdmFifo (p : Nat) (f : TdmIn) (s : State)  : steady (tdmFifo p f s) = steady s := by
  unfold tdmFifo
  simp only [↓steady_bump, ↓steady_draw, ↓steady_modTdm, ↓steady_raiseBit, ↓steady_tdmTo, ↓steady_mk, ↓steady_eta, steady_ite, steady_ite_snd, steady_foldl, ite_self, implies_true]

theorem steady_unmuteStopped (p : Nat) (s : State)  : steady (unmuteStopped p s) = steady s := by
  rfl

theorem steady_tdmGood (p : Nat) (f : TdmIn) (s : State)  : steady (tdmGood p f s) = steady s := by
  unfold tdmGood
  simp only [↓steady_bump, ↓steady_modTdm, ↓steady_raiseBit, ↓steady_tdmDrive, ↓steady_tdmFifo, ↓steady_tdmMarks, ↓steady_tdmStore, ↓steady_tdmTo, ↓steady_tdmTrack, ↓steady_unmuteStopped, ↓steady_mk, ↓steady_eta, steady_ite, steady_ite_snd, steady_foldl, ite_self, implies_true]

theorem steady_tdmGlitch (p : Nat) (f : TdmIn) (s : State)  : steady (tdmGlitch p f s) = steady s := by
  unfold tdmGlitch
  simp only [↓steady_bump, ↓steady_modTdm, ↓steady_raiseBit, ↓steady_tdmStore, ↓steady_tdmTo, ↓steady_mk, ↓steady_eta, steady_ite, steady_ite_snd, steady_foldl, ite_self, implies_true]

theorem steady_tdmFrameOp (p : Nat) (f0 : TdmIn) (s : State)  : steady (tdmFrameOp p f0 s) = steady s := by
  unfold tdmFrameOp
  simp only [↓steady_advance, ↓steady_bump, ↓steady_modTdm, ↓steady_noteTdm, ↓steady_tdmApply, ↓steady_tdmDrive, ↓steady_tdmGlitch, ↓steady_tdmGood, ↓steady_tdmRestart, ↓steady_mk, ↓steady_eta, steady_ite, steady_ite_snd, steady_foldl, ite_self, implies_true]

theorem steady_tdmClockStopOp (p : Nat) (s : State)  : steady (tdmClockStopOp p s) = steady s := by
  unfold tdmClockStopOp
  simp only [↓steady_bump, ↓steady_modTdm, ↓steady_noteTdm, ↓steady_raiseBit, ↓steady_tdmTo, ↓steady_mk, ↓steady_eta, steady_ite, steady_ite_snd, steady_foldl, ite_self, implies_true]

theorem steady_tdmClockReturnOp (p : Nat) (ppm : Int) (s : State)  : steady (tdmClockReturnOp p ppm s) = steady s := by
  unfold tdmClockReturnOp
  simp only [↓steady_modTdm, ↓steady_tdmTo, ↓steady_mk, ↓steady_eta, steady_ite, steady_ite_snd, steady_foldl, ite_self, implies_true]

theorem steady_tdmFaultClearOp (p : Nat) (s : State)  : steady (tdmFaultClearOp p s) = steady s := by
  unfold tdmFaultClearOp
  simp only [↓steady_modTdm, ↓steady_mk, ↓steady_eta, steady_ite, steady_ite_snd, steady_foldl, ite_self, implies_true]

theorem steady_tdmTimeout (p i : Nat) (s : State)  : steady (tdmTimeout p i s) = steady s := by
  unfold tdmTimeout
  dsimp only
  (repeat' split) <;> simp only [↓steady_bump, ↓steady_modTdm, ↓steady_outRun, ↓steady_raiseBit, ↓steady_mk, ↓steady_eta, steady_ite, steady_ite_snd, steady_foldl, ite_self, implies_true]

theorem steady_tdmMarkClear (p i : Nat) (s0 : State)  : steady (tdmMarkClear p i s0) = steady s0 := by
  unfold tdmMarkClear
  simp only [↓steady_marksCleared, ↓steady_modTdm, ↓steady_mk, ↓steady_eta, steady_ite, steady_ite_snd, steady_foldl, ite_self, implies_true]

theorem steady_tdmTakesEffect (old : Nat → Word) (p : Nat) (s : State)  : steady (tdmTakesEffect old p s) = steady s := by
  unfold tdmTakesEffect
  simp only [↓steady_modTdm, ↓steady_noteTdm, ↓steady_tdmTo, ↓steady_mk, ↓steady_eta, steady_ite, steady_ite_snd, steady_foldl, ite_self, implies_true]

theorem steady_tdmsTakeEffect (old : Nat → Word) (s : State)  : steady (tdmsTakeEffect old s) = steady s := by
  unfold tdmsTakeEffect
  simp only [↓steady_tdmTakesEffect, ↓steady_mk, ↓steady_eta, steady_ite, steady_ite_snd, steady_foldl, ite_self, implies_true]

end Sys2Proof.Laws
end

