-- ==== Sys2Proof/Laws/SteadyDecSrc.lean ====
section
/-! SUPPORT. What the operations of Machine/DecSrc.lean leave steady: `steady` of the state after is that of the state before. -/

set_option linter.unusedSimpArgs false
set_option linter.unusedTactic false
set_option linter.unreachableTactic false
set_option linter.unnecessarySeqFocus false

namespace Sys2Proof.Laws

open Sys2Proof Sys2Proof.Machine

theorem steady_modDec (d n : Nat) (f : Dec → Dec) (s : State)  : steady (modDec d n f s) = steady s := by
  rfl

theorem steady_decConds (d : Nat) (s0 s : State)  : steady (decConds d s0 s) = steady s := by
  unfold decConds
  simp only [↓steady_raiseBit, ↓steady_mk, ↓steady_eta, steady_ite, steady_ite_snd, steady_foldl, ite_self, implies_true]

theorem steady_decsSettle (s : State)  : steady (decsSettle s) = steady s := by
  unfold decsSettle
  simp only [↓steady_decConds, ↓steady_modDec, ↓steady_mk, ↓steady_eta, steady_ite, steady_ite_snd, steady_foldl, ite_self, implies_true]

theorem steady_openAu (d n tau t : Nat) (s : State)  : steady (openAu d n tau t s) = steady s := by
  unfold openAu
  simp only [↓steady_modDec, ↓steady_raiseBit, ↓steady_mk, ↓steady_eta, steady_ite, steady_ite_snd, steady_foldl, ite_self, implies_true]

theorem steady_reopenAu (d n tau : Nat) (s : State)  : steady (reopenAu d n tau s) = steady s := by
  unfold reopenAu
  (repeat' split) <;> simp only [↓steady_modDec, ↓steady_mk, ↓steady_eta, steady_ite, steady_ite_snd, steady_foldl, ite_self, implies_true]

theorem steady_decChunk (d n t : Nat) (k : Chunk) (s : State)  : steady (decChunk d n t k s) = steady s := by
  unfold decChunk
  dsimp only
  (repeat' split) <;> simp only [↓steady_modDec, ↓steady_openAu, ↓steady_raiseBit, ↓steady_reopenAu, ↓steady_storeWords, ↓steady_mk, ↓steady_eta, steady_ite, steady_ite_snd, steady_foldl, ite_self, implies_true]

theorem steady_decFlush (d n t : Nat) (s : State)  : steady (decFlush d n t s) = steady s := by
  unfold decFlush
  simp only [↓steady_decChunk, ↓steady_modDec, ↓steady_mk, ↓steady_eta, steady_ite, steady_ite_snd, steady_foldl, ite_self, implies_true]

theorem steady_decPacket (d n : Nat) (w : RtpIn) (s : State)  : steady (decPacket d n w s) = steady s := by
  unfold decPacket
  simp only [↓steady_decChunk, ↓steady_decFlush, ↓steady_modDec, ↓steady_mk, ↓steady_eta, steady_ite, steady_ite_snd, steady_foldl, ite_self, implies_true]

theorem steady_decDrain (d n : Nat) (a0 : Nat) (s : State)  : steady (decDrain d n a0 s) = steady s := by
  induction a0 generalizing s with
  | zero => rfl
  | succ n ih =>
    rw [decDrain]
    dsimp only
    (repeat' split) <;> simp only [↓ih, ↓steady_decFlush, ↓steady_decPacket, ↓steady_modDec, ↓steady_mk, ↓steady_eta, steady_ite, steady_ite_snd, steady_foldl, ite_self, implies_true]

theorem steady_gapLost (d n : Nat) (s : State)  : steady (gapLost d n s) = steady s := by
  unfold gapLost
  dsimp only
  (repeat' split) <;> simp only [↓steady_advance, ↓steady_decDrain, ↓steady_modDec, ↓steady_mk, ↓steady_eta, steady_ite, steady_ite_snd, steady_foldl, ite_self, implies_true]

theorem steady_takeCompressed (d n q : Nat) (w : RtpIn) (s : State)  : steady (takeCompressed d n q w s) = steady s := by
  unfold takeCompressed
  simp only [↓steady_decDrain, ↓steady_modDec, ↓steady_mk, ↓steady_eta, steady_ite, steady_ite_snd, steady_foldl, ite_self, implies_true]

theorem steady_decRecover (d n : Nat) (s : State)  : steady (decRecover d n s) = steady s := by
  unfold decRecover
  simp only [↓steady_modDec, ↓steady_raiseBit, ↓steady_mk, ↓steady_eta, steady_ite, steady_ite_snd, steady_foldl, ite_self, implies_true]

theorem steady_concealFrom (d n idx : Nat) (s : State)  : steady (concealFrom d n idx s) = steady s := by
  unfold concealFrom
  simp only [↓steady_modDec, ↓steady_raiseBit, ↓steady_mk, ↓steady_eta, steady_ite, steady_ite_snd, steady_foldl, ite_self, implies_true]

theorem steady_decFinish (d n : Nat) (j0 : DecJob) (s : State)  : steady (decFinish d n j0 s) = steady s := by
  unfold decFinish
  simp only [↓steady_bump, ↓steady_concealFrom, ↓steady_modDec, ↓steady_raiseBit, ↓steady_storeWords, ↓steady_mk, ↓steady_eta, steady_ite, steady_ite_snd, steady_foldl, ite_self, implies_true]

theorem steady_decBegin (d n : Nat) (c : DecCfg) (a : AuSt) (au : AccessUnit) (s : State)  : steady (decBegin d n c a au s) = steady s := by
  unfold decBegin
  simp only [↓steady_bump, ↓steady_concealFrom, ↓steady_decFinish, ↓steady_decRecover, ↓steady_modDec, ↓steady_raiseN, ↓steady_mk, ↓steady_eta, steady_ite, steady_ite_snd, steady_foldl, ite_self, implies_true]

theorem steady_setAnchor (d n : Nat) (an : Option (Nat × Nat)) (s : State)  : steady (setAnchor d n an s) = steady s := by
  unfold setAnchor
  simp only [↓steady_modDec, ↓steady_raiseN, ↓steady_mk, ↓steady_eta, steady_ite, steady_ite_snd, steady_foldl, ite_self, implies_true]

theorem steady_dropAu (d n : Nat) (a : AuSt) (s : State)  : steady (dropAu d n a s) = steady s := by
  rfl

theorem steady_decEnter (d n : Nat) (c : DecCfg) (a : AuSt) (au : AccessUnit) (s0 s : State)  : steady (decEnter d n c a au s0 s) = steady s := by
  unfold decEnter
  simp only [↓steady_decBegin, ↓steady_decConds, ↓steady_modDec, ↓steady_setAnchor, ↓steady_mk, ↓steady_eta, steady_ite, steady_ite_snd, steady_foldl, ite_self, implies_true]

theorem steady_accessUnitOp (d n : Nat) (au0 : AccessUnit) (s00 : State)  : steady (accessUnitOp d n au0 s00) = steady s00 := by
  unfold accessUnitOp
  dsimp only
  (repeat' split) <;> simp only [↓steady_advance, ↓steady_decBegin, ↓steady_decConds, ↓steady_decEnter, ↓steady_decFlush, ↓steady_dropAu, ↓steady_modDec, ↓steady_raiseBit, ↓steady_setAnchor, ↓steady_mk, ↓steady_eta, steady_ite, steady_ite_snd, steady_foldl, ite_self, implies_true]

theorem steady_slicePointOp (d n : Nat) (damaged : Bool) (area : List (Nat × Nat)) (s : State)  : steady (slicePointOp d n damaged area s) = steady s := by
  unfold slicePointOp
  (repeat' split) <;> simp only [↓steady_concealFrom, ↓steady_decFinish, ↓steady_modDec, ↓steady_raiseBit, ↓steady_mk, ↓steady_eta, steady_ite, steady_ite_snd, steady_foldl, ite_self, implies_true]

theorem steady_dueTimeOp (d n : Nat) (s : State)  : steady (dueTimeOp d n s) = steady s := by
  unfold dueTimeOp
  (repeat' split) <;> simp only [↓steady_advance, ↓steady_concealFrom, ↓steady_decFinish, ↓steady_raiseN, ↓steady_mk, ↓steady_eta, steady_ite, steady_ite_snd, steady_foldl, ite_self, implies_true]

end Sys2Proof.Laws
end

