-- ==== Sys2Proof/Laws/SteadyPaddock.lean ====
section
/-! SUPPORT. What the operations of Machine/Paddock.lean leave steady: `steady` of the state after is that of the state before. -/

set_option linter.unusedSimpArgs false
set_option linter.unusedTactic false
set_option linter.unreachableTactic false
set_option linter.unnecessarySeqFocus false

namespace Sys2Proof.Laws

open Sys2Proof Sys2Proof.Machine

theorem steady_modLayer (i : Nat) (f : LayerSt → LayerSt) (s : State)  : steady (modLayer i f s) = steady s := by
  rfl

theorem steady_modGroup (d g : Nat) (f : Group → Group) (s : State)  : steady (modGroup d g f s) = steady s := by
  rfl

theorem steady_markStale (ch n i : Nat) (missing : Bool) (s : State)  : steady (markStale ch n i missing s) = steady s := by
  unfold markStale
  (repeat' split) <;> simp only [↓steady_bump, ↓steady_modPic, ↓steady_raiseBit, ↓steady_mk, ↓steady_eta, steady_ite, steady_ite_snd, steady_foldl, ite_self, implies_true]

theorem steady_selectLive (ch n i : Nat) (p : Pic) (s : State)  : steady (selectLive ch n i p s) = steady s := by
  unfold selectLive
  (repeat' split) <;> simp only [↓steady_bump, ↓steady_modLayer, ↓steady_modPic, ↓steady_raiseBit, ↓steady_mk, ↓steady_eta, steady_ite, steady_ite_snd, steady_foldl, ite_self, implies_true]

theorem steady_pinDec (v : ShownDec) (up : Bool) (s : State)  : steady (pinDec v up s) = steady s := by
  rfl

theorem steady_selectDecoded (ch n i : Nat) (p : Pic) (s : State)  : steady (selectDecoded ch n i p s) = steady s := by
  unfold selectDecoded
  dsimp only
  (repeat' split) <;> simp only [↓steady_bump, ↓steady_markStale, ↓steady_modLayer, ↓steady_modPic, ↓steady_pinDec, ↓steady_raiseBit, ↓steady_mk, ↓steady_eta, steady_ite, steady_ite_snd, steady_foldl, ite_self, implies_true]

theorem steady_leaveLayers (ch : Nat) (t : Tbl Word) (s : State)  : steady (leaveLayers ch t s) = steady s := by
  unfold leaveLayers
  simp only [↓steady_modLayer, ↓steady_mk, ↓steady_eta, steady_ite, steady_ite_snd, steady_foldl, ite_self, implies_true]

theorem steady_selectSources (ch n : Nat) (s : State)  : steady (selectSources ch n s) = steady s := by
  unfold selectSources
  (repeat' split) <;> simp only [↓steady_leaveLayers, ↓steady_modLayer, ↓steady_selectDecoded, ↓steady_selectLive, ↓steady_mk, ↓steady_eta, steady_ite, steady_ite_snd, steady_foldl, ite_self, implies_true]

theorem steady_canvasStart (ch : Nat) (s : State)  : steady (canvasStart ch s) = steady s := by
  unfold canvasStart
  simp only [↓steady_modChan, ↓steady_modLayer, ↓steady_mk, ↓steady_eta, steady_ite, steady_ite_snd, steady_foldl, ite_self, implies_true]

theorem steady_composeStartOp (ch k : Nat) (s : State)  : steady (composeStartOp ch k s) = steady s := by
  unfold composeStartOp
  (repeat' split) <;> simp only [↓steady_modFur, ↓steady_mk, ↓steady_eta, steady_ite, steady_ite_snd, steady_foldl, ite_self, implies_true]

theorem steady_unpinDecoded (p : Pic) (s : State)  : steady (unpinDecoded p s) = steady s := by
  unfold unpinDecoded
  simp only [↓steady_pinDec, ↓steady_mk, ↓steady_eta, steady_ite, steady_ite_snd, steady_foldl, ite_self, implies_true]

theorem steady_sourceMissing (d n m : Nat) (s : State)  : steady (sourceMissing d n m s) = steady s := by
  unfold sourceMissing
  dsimp only
  split
  · refine steady_foldl _ _ _ ?_
    intro s e
    refine steady_foldl _ _ _ ?_
    intro s p
    refine steady_foldl _ _ _ ?_
    intro s l
    split
    · rw [steady_markStale]
    · rfl
  · rfl

end Sys2Proof.Laws
end

