-- ==== Sys2Proof/Laws/SteadyBarn.lean ====
section
/-! SUPPORT. What the operations of Machine/Barn.lean leave steady: `steady` of the state after is that of the state before. -/

set_option linter.unusedSimpArgs false
set_option linter.unusedTactic false
set_option linter.unreachableTactic false
set_option linter.unnecessarySeqFocus false

namespace Sys2Proof.Laws

open Sys2Proof Sys2Proof.Machine

theorem steady_releaseCkpt (ch : Nat) (s : State)  : steady (releaseCkpt ch s) = steady s := by
  unfold releaseCkpt
  simp only [↓steady_modChan, ↓steady_mk, ↓steady_eta, steady_ite, steady_ite_snd, steady_foldl, ite_self, implies_true]

theorem steady_takeCkpt (ch poc : Nat) (refs : List RefPic) (s : State)  : steady (takeCkpt ch poc refs s) = steady s := by
  unfold takeCkpt
  simp only [↓steady_bump, ↓steady_modChan, ↓steady_raiseBit, ↓steady_mk, ↓steady_eta, steady_ite, steady_ite_snd, steady_foldl, ite_self, implies_true]

theorem steady_forceCount (ch : Nat) (done : Bool) (s : State)  : steady (forceCount ch done s) = steady s := by
  unfold forceCount
  simp only [↓steady_bump, ↓steady_raiseBit, ↓steady_mk, ↓steady_eta, steady_ite, steady_ite_snd, steady_foldl, ite_self, implies_true]

end Sys2Proof.Laws
end

