-- ==== Sys2Proof/Laws/SteadyDrill.lean ====
section
/-! SUPPORT. What the operations of Machine/Drill.lean leave steady: `steady` of the state after is that of the state before. -/

set_option linter.unusedSimpArgs false
set_option linter.unusedTactic false
set_option linter.unreachableTactic false
set_option linter.unnecessarySeqFocus false

namespace Sys2Proof.Laws

open Sys2Proof Sys2Proof.Machine

theorem steady_bumpInt (k n : Nat) (x : Int) (s : State)  : steady (bumpInt k n x s) = steady s := by
  rfl

end Sys2Proof.Laws
end

