-- ==== Sys2Proof/Laws/SteadyCodec.lean ====
section
/-! SUPPORT. What the operations of Machine/Codec.lean leave steady: `steady` of the state after is that of the state before. -/

set_option linter.unusedSimpArgs false
set_option linter.unusedTactic false
set_option linter.unreachableTactic false
set_option linter.unnecessarySeqFocus false

namespace Sys2Proof.Laws

open Sys2Proof Sys2Proof.Machine

theorem steady_dropRows (ch n samp y : Nat) (s : State)  : steady (dropRows ch n samp y s) = steady s := by
  rfl

theorem steady_putCtu (ch : Nat) (g : Nat → Word) (p : Pic) (inp : RecIn) (y : CtuSyn) (s : State)  : steady (putCtu ch g p inp y s) = steady s := by
  rfl

theorem steady_leaveCache (ch : Nat) (p : Pic) (k : Nat) (s : State)  : steady (leaveCache ch p k s) = steady s := by
  rfl

end Sys2Proof.Laws
end

