-- ==== Sys2Proof/Laws/SteadyCoding.lean ====
section
/-! SUPPORT. What the operations of Machine/Coding.lean leave steady: `steady` of the state after is that of the state before. -/

set_option linter.unusedSimpArgs false
set_option linter.unusedTactic false
set_option linter.unreachableTactic false
set_option linter.unnecessarySeqFocus false

namespace Sys2Proof.Laws

open Sys2Proof Sys2Proof.Machine

theorem steady_reportPlan (ch : Nat) (q : Plan) (s : State)  : steady (reportPlan ch q s) = steady s := by
  unfold reportPlan
  (repeat' split) <;> simp only [↓steady_bump, ↓steady_forceCount, ↓steady_raiseBit, ↓steady_mk, ↓steady_eta, steady_ite, steady_ite_snd, steady_foldl, ite_self, implies_true]

theorem steady_beginPicture (ch n : Nat) (first : Bool) (s : State)  : steady (beginPicture ch n first s) = steady s := by
  unfold beginPicture
  simp only [↓steady_bump, ↓steady_canvasStart, ↓steady_completeFurrows, ↓steady_modChan, ↓steady_raiseBit, ↓steady_reportPlan, ↓steady_selectSources, ↓steady_svcsAtBoundary, ↓steady_takeCkpt, ↓steady_mk, ↓steady_eta, steady_ite, steady_ite_snd, steady_foldl, ite_self, implies_true]

theorem steady_plantOp (ch k : Nat) (s : State)  : steady (plantOp ch k s) = steady s := by
  unfold plantOp
  (repeat' split) <;> simp only [↓steady_advance, ↓steady_bump, ↓steady_modFur, ↓steady_raiseBit, ↓steady_mk, ↓steady_eta, steady_ite, steady_ite_snd, steady_foldl, ite_self, implies_true]

theorem steady_logCtu (ch : Nat) (p : Pic) (k x : Nat) (e : CtuLog) (s : State)  : steady (logCtu ch p k x e s) = steady s := by
  unfold logCtu
  simp only [↓steady_modFur, ↓steady_putCtu, ↓steady_raiseBit, ↓steady_mk, ↓steady_eta, steady_ite, steady_ite_snd, steady_foldl, ite_self, implies_true]

theorem steady_ctuOp (ch k : Nat) (s : State)  : steady (ctuOp ch k s) = steady s := by
  unfold ctuOp
  (repeat' split) <;> simp only [↓steady_bump, ↓steady_logCtu, ↓steady_raiseBit, ↓steady_mk, ↓steady_eta, steady_ite, steady_ite_snd, steady_foldl, ite_self, implies_true]

theorem steady_countLog (ch : Nat) (l : List CtuLog) (s : State)  : steady (countLog ch l s) = steady s := by
  rfl

theorem steady_takeCaptions (ch : Nat) (p : Pic) (s : State)  : steady (takeCaptions ch p s) = steady s := by
  unfold takeCaptions
  (repeat' split) <;> simp only [↓steady_bump, ↓steady_modChan, ↓steady_modPic, ↓steady_raiseBit, ↓steady_mk, ↓steady_eta, steady_ite, steady_ite_snd, steady_foldl, ite_self, implies_true]

theorem steady_pictureEnd (ch n : Nat) (s : State)  : steady (pictureEnd ch n s) = steady s := by
  unfold pictureEnd
  (repeat' split) <;> simp only [↓steady_bump, ↓steady_modChan, ↓steady_modPic, ↓steady_raiseBit, ↓steady_takeCaptions, ↓steady_mk, ↓steady_eta, steady_ite, steady_ite_snd, steady_foldl, ite_self, implies_true]

theorem steady_fallowRest (ch n k : Nat) (a0 : Nat) (s : State)  : steady (fallowRest ch n k a0 s) = steady s := by
  induction a0 generalizing s with
  | zero => rfl
  | succ m ih =>
    rw [fallowRest]
    split
    · rfl
    · dsimp only
      split
      · rw [ih, steady_logCtu]
      · rfl

theorem steady_deadlineOp (ch k cut : Nat) (s : State)  : steady (deadlineOp ch k cut s) = steady s := by
  unfold deadlineOp
  (repeat' split) <;> simp only [↓steady_advance, ↓steady_bump, ↓steady_countLog, ↓steady_fallowRest, ↓steady_modFur, ↓steady_raiseBit, ↓steady_raiseN, ↓steady_takeCaptions, ↓steady_mk, ↓steady_eta, steady_ite, steady_ite_snd, steady_foldl, ite_self, implies_true]

end Sys2Proof.Laws
end

