-- ==== Sys2Proof/Laws/SteadyPack.lean ====
section
/-! SUPPORT. What the operations of Machine/Pack.lean leave steady: `steady` of the state after is that of the state before. -/

set_option linter.unusedSimpArgs false
set_option linter.unusedTactic false
set_option linter.unreachableTactic false
set_option linter.unnecessarySeqFocus false

namespace Sys2Proof.Laws

open Sys2Proof Sys2Proof.Machine

theorem steady_queuePkt (x : PackCtx) (kind : Nat) (r : RtpPkt) (covers : List RtpPkt) (step ipLen sum : Nat) (first last : Bool) (s : State)  : steady (queuePkt x kind r covers step ipLen sum first last s) = steady s := by
  rfl

theorem steady_queueFec (x : PackCtx) (kind : Nat) (covers : List RtpPkt) (sum : Nat) (s : State)  : steady (queueFec x kind covers sum s).2 = steady s := by
  rfl

theorem steady_queueMedia (x : PackCtx) (b : List TByte) (first last : Bool) (sum : Nat) (s : State)  : steady (queueMedia x b first last sum s).2 = steady s := by
  unfold queueMedia
  dsimp only
  (repeat' split) <;> simp only [↓steady_bump, ↓steady_modSvc, ↓steady_queueFec, ↓steady_queuePkt, ↓steady_raiseBit, ↓steady_mk, ↓steady_eta, steady_ite, steady_ite_snd, steady_foldl, ite_self, implies_true]

theorem steady_queueAll (x : PackCtx) (a0 : List (List TByte)) (a1 : Bool) (a2 : Nat) (s : State)  : steady (queueAll x a0 a1 a2 s) = steady s := by
  induction a0 generalizing a1 a2 s with
  | nil => rfl
  | cons b bs ih => rw [queueAll, ih, steady_queueMedia]

theorem steady_packFurrow (v ch n k : Nat) (s : State)  : steady (packFurrow v ch n k s) = steady s := by
  unfold packFurrow
  (repeat' split) <;> simp only [↓steady_bump, ↓steady_modSvc, ↓steady_queueAll, ↓steady_mk, ↓steady_eta, steady_ite, steady_ite_snd, steady_foldl, ite_self, implies_true]

end Sys2Proof.Laws
end

