-- ==== Sys2Proof/Laws/SteadyDsp.lean ====
section
/-! SUPPORT. What the operations of Machine/Dsp.lean leave steady: `steady` of the state after is that of the state before. -/

set_option linter.unusedSimpArgs false
set_option linter.unusedTactic false
set_option linter.unreachableTactic false
set_option linter.unnecessarySeqFocus false

namespace Sys2Proof.Laws

open Sys2Proof Sys2Proof.Machine

theorem steady_urgent (d : Nat) (s : State)  : steady (urgent d s) = steady s := by
  unfold urgent
  simp only [↓steady_bump, ↓steady_raiseBit, ↓steady_mk, ↓steady_eta, steady_ite, steady_ite_snd, steady_foldl, ite_self, implies_true]

theorem steady_noteReady (d : Nat) (s : State)  : steady (noteReady d s) = steady s := by
  unfold noteReady
  simp only [↓steady_modDsp, ↓steady_recordEnded, ↓steady_mk, ↓steady_eta, steady_ite, steady_ite_snd, steady_foldl, ite_self, implies_true]

theorem steady_noteUnits (d : Nat) (s : State)  : steady (noteUnits d s) = steady s := by
  unfold noteUnits
  refine steady_foldl _ _ _ ?_
  intros
  dsimp only
  (repeat' split) <;> simp only [↓steady_bump, ↓steady_modDsp, ↓steady_mk, ↓steady_eta, steady_ite, steady_ite_snd, steady_foldl, ite_self, implies_true]

theorem steady_releaseItems (d : Nat) (a0 : Nat) (s : State)  : steady (releaseItems d a0 s) = steady s := by
  induction a0 generalizing s with
  | zero => rfl
  | succ n ih =>
    rw [releaseItems]
    split
    · rfl
    · simp only [↓ih, ↓steady_bump, ↓steady_modDsp, ↓steady_mk, ↓steady_eta, steady_ite, steady_ite_snd, steady_foldl, ite_self, implies_true]

theorem steady_wakeDie (d : Nat) (s : State)  : steady (wakeDie d s) = steady s := by
  unfold wakeDie
  extract_lets s1 s2
  have h2 : steady s2 = steady s := by
    rw [show steady s2 = steady (releaseItems d 512 s1) from (steady_noteUnits ..).trans (steady_noteReady ..), steady_releaseItems]
    exact steady_modDsp ..
  clear_value s2
  refine (steady_foldl _ _ _ (fun s i => ?_)).trans h2
  split
  · rfl
  · dsimp only
    split
    · rfl
    · split
      · rw [steady_urgent, steady_modDsp]
      · rw [steady_modDsp]

theorem steady_wakeItems (s : State)  : steady (wakeItems s) = steady s := by
  unfold wakeItems
  simp only [↓steady_wakeDie, ↓steady_mk, ↓steady_eta, steady_ite, steady_ite_snd, steady_foldl, ite_self, implies_true]

theorem steady_noteSlots (d : Nat) (s : State)  : steady (noteSlots d s) = steady s := by
  rfl

theorem steady_itemCreateOp (d o : Nat) (s : State)  : steady (itemCreateOp d o s) = steady s := by
  unfold itemCreateOp
  dsimp only
  (repeat' split) <;> simp only [↓steady_bump, ↓steady_modDsp, ↓steady_noteSlots, ↓steady_raiseBit, ↓steady_wakeDie, ↓steady_mk, ↓steady_eta, steady_ite, steady_ite_snd, steady_foldl, ite_self, implies_true]

theorem steady_reevaluateOp (d t : Nat) (s : State)  : steady (reevaluateOp d t s) = steady s := by
  unfold reevaluateOp
  simp only [↓steady_advance, ↓steady_modDsp, ↓steady_urgent, ↓steady_mk, ↓steady_eta, steady_ite, steady_ite_snd, steady_foldl, ite_self, implies_true]

theorem steady_dispatchOp (d unit t : Nat) (s : State)  : steady (dispatchOp d unit t s) = steady s := by
  unfold dispatchOp
  dsimp only
  (repeat' split) <;> simp only [↓steady_advance, ↓steady_bump, ↓steady_modDsp, ↓steady_wakeDie, ↓steady_mk, ↓steady_eta, steady_ite, steady_ite_snd, steady_foldl, ite_self, implies_true]

theorem steady_withdrawn (d : Nat) (s : State)  : steady (withdrawn d s) = steady s := by
  unfold withdrawn
  simp only [↓steady_bump, ↓steady_raiseBit, ↓steady_mk, ↓steady_eta, steady_ite, steady_ite_snd, steady_foldl, ite_self, implies_true]

theorem steady_withdraw (d : Nat) (q : Item → Bool) (s : State)  : steady (withdraw d q s) = steady s := by
  unfold withdraw
  simp only [↓steady_modDsp, ↓steady_recordServed, ↓steady_withdrawn, ↓steady_mk, ↓steady_eta, steady_ite, steady_ite_snd, steady_foldl, ite_self, implies_true]

theorem steady_recreate (d : Nat) (q : Item → Bool) (s : State)  : steady (recreate d q s) = steady s := by
  unfold recreate
  simp only [↓steady_modDsp, ↓steady_withdrawn, ↓steady_mk, ↓steady_eta, steady_ite, steady_ite_snd, steady_foldl, ite_self, implies_true]

theorem steady_uncreateAfter (d o : Nat) (s : State)  : steady (uncreateAfter d o s) = steady s := by
  unfold uncreateAfter
  (repeat' split) <;> simp only [↓steady_modDsp, ↓steady_mk, ↓steady_eta, steady_ite, steady_ite_snd, steady_foldl, ite_self, implies_true]

theorem steady_redoFurrow (d o ch n j : Nat) (s : State)  : steady (redoFurrow d o ch n j s) = steady s := by
  unfold redoFurrow
  simp only [↓steady_modDsp, ↓steady_modFur, ↓steady_recreate, ↓steady_withdrawn, ↓steady_mk, ↓steady_eta, steady_ite, steady_ite_snd, steady_foldl, ite_self, implies_true]

theorem steady_discardLater (ch n k cut : Nat) (s : State)  : steady (discardLater ch n k cut s) = steady s := by
  unfold discardLater
  (repeat' split) <;> simp only [↓steady_redoFurrow, ↓steady_uncreateAfter, ↓steady_mk, ↓steady_eta, steady_ite, steady_ite_snd, steady_foldl, ite_self, implies_true]

theorem steady_withdrawFurrow (ch n k cut : Nat) (s : State)  : steady (withdrawFurrow ch n k cut s) = steady s := by
  unfold withdrawFurrow
  simp only [↓steady_discardLater, ↓steady_wakeDie, ↓steady_withdraw, ↓steady_mk, ↓steady_eta, steady_ite, steady_ite_snd, steady_foldl, ite_self, implies_true]

theorem steady_noteEngineLost (d : Nat) (s0 s : State)  : steady (noteEngineLost d s0 s) = steady s := by
  unfold noteEngineLost
  simp only [↓steady_raiseBit, ↓steady_mk, ↓steady_eta, steady_ite, steady_ite_snd, steady_foldl, ite_self, implies_true]

theorem steady_engineItems (d e : Nat) (s : State)  : steady (engineItems d e s) = steady s := by
  unfold engineItems
  simp only [↓steady_recreate, ↓steady_mk, ↓steady_eta, steady_ite, steady_ite_snd, steady_foldl, ite_self, implies_true]

end Sys2Proof.Laws
end

