-- ==== Sys2Proof/Laws/SteadyAudioCmds.lean ====
section
/-! SUPPORT. What the operations of Machine/AudioCmds.lean leave steady: `steady` of the state after is that of the state before. -/

set_option linter.unusedSimpArgs false
set_option linter.unusedTactic false
set_option linter.unreachableTactic false
set_option linter.unnecessarySeqFocus false

namespace Sys2Proof.Laws

open Sys2Proof Sys2Proof.Machine

theorem steady_atFlow (f : Nat) (s : State) (k : State → State) (hk : ∀ s, steady (k s) = steady s) : SteadyO s (atFlow f s k) := by
  unfold atFlow
  (repeat' split) <;> first
    | (refine SteadyO_next _ _ ?_; simp only [↓steady_whenUp, ↓steady_mk, ↓steady_eta, ↓hk, steady_ite, steady_ite_snd, steady_foldl, ite_self, implies_true])
    | simp only [↓steady_whenUp, ↓steady_mk, ↓steady_eta, ↓hk, steady_ite, steady_ite_snd, steady_foldl, ite_self, implies_true]

theorem steady_atTdm (p : Nat) (s : State) (k : State → State) (hk : ∀ s, steady (k s) = steady s) : SteadyO s (atTdm p s k) := by
  unfold atTdm
  (repeat' split) <;> first
    | (refine SteadyO_next _ _ ?_; simp only [↓steady_whenUp, ↓steady_mk, ↓steady_eta, ↓hk, steady_ite, steady_ite_snd, steady_foldl, ite_self, implies_true])
    | simp only [↓steady_whenUp, ↓steady_mk, ↓steady_eta, ↓hk, steady_ite, steady_ite_snd, steady_foldl, ite_self, implies_true]

theorem steady_execAudioPacketRelease (v : Nat) (s : State)  : SteadyO s (execAudioPacketRelease v s) := by
  unfold execAudioPacketRelease
  (repeat' split) <;> first
    | (refine SteadyO_next _ _ ?_; simp only [↓steady_atFlow, ↓steady_audioRelease, ↓steady_mk, ↓steady_eta, steady_ite, steady_ite_snd, steady_foldl, ite_self, implies_true])
    | simp only [↓steady_atFlow, ↓steady_audioRelease, ↓steady_mk, ↓steady_eta, steady_ite, steady_ite_snd, steady_foldl, ite_self, implies_true]

theorem steady_execSampleReady (f : Nat) (s : State)  : SteadyO s (execSampleReady f s) := by
  unfold execSampleReady
  simp only [↓steady_atFlow, ↓steady_guard, ↓steady_sampleReadyOp, ↓steady_wakeItems, ↓steady_mk, ↓steady_eta, steady_ite, steady_ite_snd, steady_foldl, ite_self, implies_true]

theorem steady_execZcTimeout (isTdm : Bool) (u c : Nat) (s : State)  : SteadyO s (execZcTimeout isTdm u c s) := by
  unfold execZcTimeout
  (repeat' split) <;> first
    | (refine SteadyO_next _ _ ?_; simp only [↓steady_aflTimeout, ↓steady_atFlow, ↓steady_atTdm, ↓steady_tdmTimeout, ↓steady_mk, ↓steady_eta, steady_ite, steady_ite_snd, steady_foldl, ite_self, implies_true])
    | simp only [↓steady_aflTimeout, ↓steady_atFlow, ↓steady_atTdm, ↓steady_tdmTimeout, ↓steady_mk, ↓steady_eta, steady_ite, steady_ite_snd, steady_foldl, ite_self, implies_true]

theorem steady_execNonAudioClear (isTdm : Bool) (u c : Nat) (s : State)  : SteadyO s (execNonAudioClear isTdm u c s) := by
  unfold execNonAudioClear
  (repeat' split) <;> first
    | (refine SteadyO_next _ _ ?_; simp only [↓steady_aflMarkClear, ↓steady_atFlow, ↓steady_atTdm, ↓steady_tdmMarkClear, ↓steady_mk, ↓steady_eta, steady_ite, steady_ite_snd, steady_foldl, ite_self, implies_true])
    | simp only [↓steady_aflMarkClear, ↓steady_atFlow, ↓steady_atTdm, ↓steady_tdmMarkClear, ↓steady_mk, ↓steady_eta, steady_ite, steady_ite_snd, steady_foldl, ite_self, implies_true]

theorem steady_execTdmFrame (p : Nat) (f : TdmIn) (s : State)  : SteadyO s (execTdmFrame p f s) := by
  unfold execTdmFrame
  simp only [↓steady_atTdm, ↓steady_tdmFrameOp, ↓steady_mk, ↓steady_eta, steady_ite, steady_ite_snd, steady_foldl, ite_self, implies_true]

theorem steady_execTdmClockStop (p : Nat) (s : State)  : SteadyO s (execTdmClockStop p s) := by
  unfold execTdmClockStop
  simp only [↓steady_atTdm, ↓steady_tdmClockStopOp, ↓steady_mk, ↓steady_eta, steady_ite, steady_ite_snd, steady_foldl, ite_self, implies_true]

theorem steady_execTdmFaultClear (p : Nat) (s : State)  : SteadyO s (execTdmFaultClear p s) := by
  unfold execTdmFaultClear
  simp only [↓steady_atTdm, ↓steady_tdmFaultClearOp, ↓steady_mk, ↓steady_eta, steady_ite, steady_ite_snd, steady_foldl, ite_self, implies_true]

theorem steady_execTdmClockReturn (p : Nat) (ppm : Int) (s : State)  : SteadyO s (execTdmClockReturn p ppm s) := by
  unfold execTdmClockReturn
  simp only [↓steady_atTdm, ↓steady_tdmClockReturnOp, ↓steady_mk, ↓steady_eta, steady_ite, steady_ite_snd, steady_foldl, ite_self, implies_true]

end Sys2Proof.Laws
end

