-- ==== Sys2Proof/Laws/SteadyYokeCond.lean ====
section
/-! SUPPORT. What the operations of Machine/YokeCond.lean leave steady: `steady` of the state after is that of the state before. -/

set_option linter.unusedSimpArgs false
set_option linter.unusedTactic false
set_option linter.unreachableTactic false
set_option linter.unnecessarySeqFocus false

namespace Sys2Proof.Laws

open Sys2Proof Sys2Proof.Machine

theorem steady_yieldOnConditions (s : State)  : steady (yieldOnConditions s) = steady s := by
  unfold yieldOnConditions
  simp only [↓steady_yieldFor, ↓steady_mk, ↓steady_eta, steady_ite, steady_ite_snd, steady_foldl, ite_self, implies_true]

end Sys2Proof.Laws
end

