-- ==== Sys2Proof/Laws/SteadyMc.lean ====
section
/-! SUPPORT. What the operations of Machine/Mc.lean leave steady: `steady` of the state after is that of the state before. -/

set_option linter.unusedSimpArgs false
set_option linter.unusedTactic false
set_option linter.unreachableTactic false
set_option linter.unnecessarySeqFocus false

namespace Sys2Proof.Laws

open Sys2Proof Sys2Proof.Machine

theorem steady_rateConds (d : Nat) (s0 s : State)  : steady (rateConds d s0 s) = steady s := by
  unfold rateConds
  simp only [↓steady_bump, ↓steady_raiseBit, ↓steady_mk, ↓steady_eta, steady_ite, steady_ite_snd, steady_foldl, ite_self, implies_true]

theorem steady_payDue (d i : Nat) (s : State)  : steady (payDue d i s) = steady s := by
  unfold payDue
  simp only [↓steady_bump, ↓steady_modMch, ↓steady_mk, ↓steady_eta, steady_ite, steady_ite_snd, steady_foldl, ite_self, implies_true]

theorem steady_startPaying (d i : Nat) (s : State)  : steady (startPaying d i s) = steady s := by
  unfold startPaying
  simp only [↓steady_modMch, ↓steady_payDue, ↓steady_mk, ↓steady_eta, steady_ite, steady_ite_snd, steady_foldl, ite_self, implies_true]

theorem steady_refreshDue (d i : Nat) (s : State)  : steady (refreshDue d i s) = steady s := by
  unfold refreshDue
  simp only [↓steady_bump, ↓steady_modMch, ↓steady_payDue, ↓steady_mk, ↓steady_eta, steady_ite, steady_ite_snd, steady_foldl, ite_self, implies_true]

theorem steady_repay (d i : Nat) (s : State)  : steady (repay d i s) = steady s := by
  rfl

theorem steady_repayAll (d : Nat) (s : State)  : steady (repayAll d s) = steady s := by
  unfold repayAll
  simp only [↓steady_repay, ↓steady_mk, ↓steady_eta, steady_ite, steady_ite_snd, steady_foldl, ite_self, implies_true]

theorem steady_readClass (d i code : Nat) (periodic : Bool) (s : State)  : steady (readClass d i code periodic s) = steady s := by
  unfold readClass
  simp only [↓steady_bump, ↓steady_modMc, ↓steady_modMch, ↓steady_raiseBit, ↓steady_startPaying, ↓steady_mk, ↓steady_eta, steady_ite, steady_ite_snd, steady_foldl, ite_self, implies_true]

theorem steady_readCodes (d : Nat) (periodic : Bool) (a0 : Nat) (a1 : List Nat) (s : State)  : steady (readCodes d periodic a0 a1 s) = steady s := by
  induction a1 generalizing a0 s with
  | nil => rfl
  | cons c cs ih =>
    rw [readCodes, ih]
    simp only [↓steady_readClass, ↓steady_mk, ↓steady_eta, steady_ite, steady_ite_snd, steady_foldl, ite_self, implies_true]

theorem steady_readRound (d : Nat) (periodic : Bool) (codes : List Nat) (s0 : State)  : steady (readRound d periodic codes s0) = steady s0 := by
  unfold readRound
  simp only [↓steady_rateConds, ↓steady_readCodes, ↓steady_yieldOnConditions, ↓steady_mk, ↓steady_eta, steady_ite, steady_ite_snd, steady_foldl, ite_self, implies_true]

theorem steady_wakeClasses (d : Nat) (a0 : Nat) (a1 : List Nat) (s : State)  : steady (wakeClasses d a0 a1 s) = steady s := by
  induction a1 generalizing a0 s with
  | nil => rfl
  | cons c cs ih =>
    rw [wakeClasses]
    dsimp only
    rw [ih]
    split
    · rw [steady_modMc, steady_modMch, steady_ite, steady_raiseBit, ite_self]
    · rw [steady_ite, steady_raiseBit, ite_self]

theorem steady_readClasses (d : Nat) (codes : List Nat) (s0 : State)  : steady (readClasses d codes s0) = steady s0 := by
  unfold readClasses
  simp only [↓steady_rateConds, ↓steady_wakeClasses, ↓steady_mk, ↓steady_eta, steady_ite, steady_ite_snd, steady_foldl, ite_self, implies_true]

theorem steady_selfRefresh (d : Nat) (b : Bool) (s : State)  : steady (selfRefresh d b s) = steady s := by
  unfold selfRefresh
  simp only [↓steady_modMc, ↓steady_repayAll, ↓steady_mk, ↓steady_eta, steady_ite, steady_ite_snd, steady_foldl, ite_self, implies_true]

theorem steady_setLevel (d p l : Nat) (s : State)  : steady (setLevel d p l s) = steady s := by
  rfl

theorem steady_stopPaying (d : Nat) (s : State)  : steady (stopPaying d s) = steady s := by
  unfold stopPaying
  simp only [↓steady_modMch, ↓steady_mk, ↓steady_eta, steady_ite, steady_ite_snd, steady_foldl, ite_self, implies_true]

theorem steady_levelTo (d p l : Nat) (s : State)  : steady (levelTo d p l s) = steady s := by
  unfold levelTo
  simp only [↓steady_bump, ↓steady_modMc, ↓steady_raiseBit, ↓steady_setLevel, ↓steady_startPaying, ↓steady_stopPaying, ↓steady_mk, ↓steady_eta, steady_ite, steady_ite_snd, steady_foldl, ite_self, implies_true]

theorem steady_trackAtBoundary (d : Nat) (s : State)  : steady (trackAtBoundary d s) = steady s := by
  unfold trackAtBoundary
  simp only [↓steady_bump, ↓steady_modDsp, ↓steady_modMc, ↓steady_mk, ↓steady_eta, steady_ite, steady_ite_snd, steady_foldl, ite_self, implies_true]

theorem steady_trackEnd (d : Nat) (s : State)  : steady (trackEnd d s) = steady s := by
  unfold trackEnd
  simp only [↓steady_bump, ↓steady_modDsp, ↓steady_mk, ↓steady_eta, steady_ite, steady_ite_snd, steady_foldl, ite_self, implies_true]

theorem steady_clearErr (d : Nat) (v : Word) (s : State)  : steady (clearErr d v s) = steady s := by
  unfold clearErr
  simp only [↓steady_modMc, ↓steady_mk, ↓steady_eta, steady_ite, steady_ite_snd, steady_foldl, ite_self, implies_true]

theorem steady_patrol (d : Nat) (singles doubles : List Nat) (s : State)  : steady (patrol d singles doubles s) = steady s := by
  unfold patrol
  simp only [↓steady_bump, ↓steady_countWrite, ↓steady_eccBad, ↓steady_eccCorrect, ↓steady_leaveBad, ↓steady_mk, ↓steady_eta, steady_ite, steady_ite_snd, steady_foldl, ite_self, implies_true]

theorem steady_wipeAccess (d : Nat) (ws : List Nat) (s : State)  : steady (wipeAccess d ws s) = steady s := by
  unfold wipeAccess
  simp only [↓steady_bump, ↓steady_raiseBit, ↓steady_mk, ↓steady_eta, steady_ite, steady_ite_snd, steady_foldl, ite_self, implies_true]

theorem steady_aperReadWord (d w : Nat) (e : EccEvent) (s : State)  : steady (aperReadWord d w e s).2 = steady s := by
  unfold aperReadWord
  dsimp only
  (repeat' split) <;> simp only [↓steady_countRead, ↓steady_eccBad, ↓steady_leaveBad, ↓steady_meetSoft, ↓steady_mk, ↓steady_eta, steady_ite, steady_ite_snd, steady_foldl, ite_self, implies_true]

theorem steady_aperReadWords (d : Nat) (a0 : List Nat) (a1 : EccEvent) (s : State)  : steady (aperReadWords d a0 a1 s).2 = steady s := by
  induction a0 generalizing a1 s with
  | nil => rfl
  | cons w ws ih =>
    rw [aperReadWords]
    dsimp only
    rw [ih, steady_aperReadWord]

theorem steady_aperRead (x n : Nat) (e : EccEvent) (s : State)  : steady (aperRead x n e s) = steady s := by
  unfold aperRead
  simp only [↓steady_aperReadWords, ↓steady_bump, ↓steady_emit, ↓steady_wipeAccess, ↓steady_mk, ↓steady_eta, steady_ite, steady_ite_snd, steady_foldl, ite_self, implies_true]

end Sys2Proof.Laws
end

