-- ==== Sys2Proof/Laws/SteadyIc.lean ====
section
/-! SUPPORT. What the operations of Machine/Ic.lean leave steady: `steady` of the state after is that of the state before. -/

set_option linter.unusedSimpArgs false
set_option linter.unusedTactic false
set_option linter.unreachableTactic false
set_option linter.unnecessarySeqFocus false

namespace Sys2Proof.Laws

open Sys2Proof Sys2Proof.Machine

theorem steady_modSrc (n : Nat) (f : Src → Src) (s : State)  : steady (modSrc n f s) = steady s := by
  rfl

theorem steady_startWake (d : Nat) (s : State)  : steady (startWake d s) = steady s := by
  rfl

theorem steady_wakeRequest (d : Nat) (s : State)  : steady (wakeRequest d s) = steady s := by
  unfold wakeRequest
  simp only [↓steady_startWake, ↓steady_mk, ↓steady_eta, steady_ite, steady_ite_snd, steady_foldl, ite_self, implies_true]

theorem steady_sendMsix (v : Nat) (s : State)  : steady (sendMsix v s) = steady s := by
  rfl

theorem steady_signalMsix (v t : Nat) (s : State)  : steady (signalMsix v t s) = steady s := by
  unfold signalMsix
  simp only [↓steady_sendMsix, ↓steady_mk, ↓steady_eta, steady_ite, steady_ite_snd, steady_foldl, ite_self, implies_true]

theorem steady_flushMsix (s : State)  : steady (flushMsix s) = steady s := by
  unfold flushMsix
  simp only [↓steady_sendMsix, ↓steady_mk, ↓steady_eta, steady_ite, steady_ite_snd, steady_foldl, ite_self, implies_true]

theorem steady_present (t n p : Nat) (s : State)  : steady (present t n p s) = steady s := by
  unfold present
  simp only [↓steady_signalMsix, ↓steady_mk, ↓steady_eta, steady_ite, steady_ite_snd, steady_foldl, ite_self, implies_true]

theorem steady_presentSource (t n : Nat) (s : State)  : steady (presentSource t n s) = steady s := by
  unfold presentSource
  (repeat' split) <;> simp only [↓steady_present, ↓steady_mk, ↓steady_eta, steady_ite, steady_ite_snd, steady_foldl, ite_self, implies_true]

theorem steady_presentTo (t : Nat) (s : State)  : steady (presentTo t s) = steady s := by
  unfold presentTo
  (repeat' split) <;> simp only [↓steady_presentSource, ↓steady_mk, ↓steady_eta, steady_ite, steady_ite_snd, steady_foldl, ite_self, implies_true]

theorem steady_redirect (n : Nat) (s : State)  : steady (redirect n s) = steady s := by
  unfold redirect
  simp only [↓steady_bump, ↓steady_modSrc, ↓steady_raiseBit, ↓steady_mk, ↓steady_eta, steady_ite, steady_ite_snd, steady_foldl, ite_self, implies_true]

theorem steady_enqueueWake (n t : Nat) (s : State)  : steady (enqueueWake n t s) = steady s := by
  unfold enqueueWake
  simp only [↓steady_bump, ↓steady_raiseBit, ↓steady_redirect, ↓steady_wakeRequest, ↓steady_mk, ↓steady_eta, steady_ite, steady_ite_snd, steady_foldl, ite_self, implies_true]

theorem steady_unqueue (n : Nat) (s : State)  : steady (unqueue n s) = steady s := by
  rfl

theorem steady_queueSleepers (s : State)  : steady (queueSleepers s) = steady s := by
  unfold queueSleepers
  simp only [↓steady_enqueueWake, ↓steady_mk, ↓steady_eta, steady_ite, steady_ite_snd, steady_foldl, ite_self, implies_true]

theorem steady_evalIc (first : List (Nat × Nat)) (s : State)  : steady (evalIc first s) = steady s := by
  unfold evalIc
  simp only [↓steady_presentSource, ↓steady_presentTo, ↓steady_queueSleepers, ↓steady_mk, ↓steady_eta, steady_ite, steady_ite_snd, steady_foldl, ite_self, implies_true]

theorem steady_icTake (n : Nat) (s : State)  : steady (icTake n s) = steady s := by
  unfold icTake
  simp only [↓steady_bump, ↓steady_modSrc, ↓steady_raiseBit, ↓steady_mk, ↓steady_eta, steady_ite, steady_ite_snd, steady_foldl, ite_self, implies_true]

theorem steady_icMessage (n : Nat) (s : State)  : steady (icMessage n s) = steady s := by
  unfold icMessage
  simp only [↓steady_evalIc, ↓steady_icTake, ↓steady_mk, ↓steady_eta, steady_ite, steady_ite_snd, steady_foldl, ite_self, implies_true]

theorem steady_atSource (v : Word) (k : Nat → State → State) (s : State) (hk : ∀ n s, steady (k n s) = steady s) : steady (atSource v k s) = steady s := by
  unfold atSource
  simp only [↓steady_bump, ↓steady_raiseBit, ↓steady_mk, ↓steady_eta, ↓hk, steady_ite, steady_ite_snd, steady_foldl, ite_self, implies_true]

theorem steady_icArriveAs (k : Nat → State → State) (sender : Nat) (s : State) (hk : ∀ n s, steady (k n s) = steady s) : steady (icArriveAs k sender s) = steady s := by
  unfold icArriveAs
  (repeat' split) <;> simp only [↓steady_mk, ↓steady_eta, ↓hk, steady_ite, steady_ite_snd, steady_foldl, ite_self, implies_true]

theorem steady_icArrive (sender : Nat) (s : State)  : steady (icArrive sender s) = steady s := by
  unfold icArrive
  (repeat' split) <;> simp only [↓steady_icArriveAs, ↓steady_icMessage, ↓steady_mk, ↓steady_eta, steady_ite, steady_ite_snd, steady_foldl, ite_self, implies_true]

theorem steady_icSend (sender : Nat) (v : Word) (s : State)  : steady (icSend sender v s) = steady s := by
  unfold icSend
  refine steady_atSource _ _ _ ?_
  intro n s
  rfl

theorem steady_icClear (v : Word) (hit : Bool) (s : State)  : steady (icClear v hit s) = steady s := by
  unfold icClear
  simp only [↓steady_atSource, ↓steady_bump, ↓steady_evalIc, ↓steady_modSrc, ↓steady_unqueue, ↓steady_mk, ↓steady_eta, steady_ite, steady_ite_snd, steady_foldl, ite_self, implies_true]

theorem steady_icEnable (v : Word) (b hit : Bool) (s : State)  : steady (icEnable v b hit s) = steady s := by
  unfold icEnable
  simp only [↓steady_atSource, ↓steady_bump, ↓steady_evalIc, ↓steady_modSrc, ↓steady_mk, ↓steady_eta, steady_ite, steady_ite_snd, steady_foldl, ite_self, implies_true]

theorem steady_icMask (v : Word) (b hit : Bool) (s : State)  : steady (icMask v b hit s) = steady s := by
  unfold icMask
  simp only [↓steady_atSource, ↓steady_bump, ↓steady_evalIc, ↓steady_modSrc, ↓steady_mk, ↓steady_eta, steady_ite, steady_ite_snd, steady_foldl, ite_self, implies_true]

theorem steady_icRemote (v : Word) (s : State)  : steady (icRemote v s) = steady s := by
  unfold icRemote
  simp only [↓steady_bump, ↓steady_doorbell, ↓steady_raiseBit, ↓steady_sendRel, ↓steady_mk, ↓steady_eta, steady_ite, steady_ite_snd, steady_foldl, ite_self, implies_true]

theorem steady_icRemoteIn (n : Nat) (s : State)  : steady (icRemoteIn n s) = steady s := by
  unfold icRemoteIn
  simp only [↓steady_bump, ↓steady_icMessage, ↓steady_raiseBit, ↓steady_mk, ↓steady_eta, steady_ite, steady_ite_snd, steady_foldl, ite_self, implies_true]

theorem steady_icClaimEdge (t : Nat) (s : State)  : steady (icClaimEdge t s) = steady s := by
  unfold icClaimEdge
  dsimp only
  (repeat' split) <;> simp only [↓steady_bump, ↓steady_emit, ↓steady_modSrc, ↓steady_raiseBit, ↓steady_unqueue, ↓steady_mk, ↓steady_eta, steady_ite, steady_ite_snd, steady_foldl, ite_self, implies_true]

theorem steady_icClaim (t : Nat) (late : List Nat) (s : State)  : steady (icClaim t late s) = steady s := by
  unfold icClaim
  have h : ∀ (l : List Nat) (r : List Nat × State), steady (l.foldl (fun (r : List Nat × State) x =>
      (r.1 ++ (icOldest r.2 x).toList.map Prod.snd, icArriveAs icTake x r.2)) r).2 = steady r.2 := by
    intro l
    induction l with
    | nil => intro r; rfl
    | cons x l ih =>
      intro r
      rw [List.foldl_cons, ih]
      exact steady_icArriveAs _ _ _ (fun _ _ => steady_icTake _ _)
  dsimp only
  split
  · rw [steady_evalIc, h]; exact steady_icClaimEdge _ _
  · split
    · rw [steady_bump, steady_evalIc, h]; exact steady_icClaimEdge _ _
    · rw [steady_evalIc, h]; exact steady_icClaimEdge _ _

theorem steady_icComplete (t : Nat) (v : Word) (s : State)  : steady (icComplete t v s) = steady s := by
  unfold icComplete
  dsimp only
  (repeat' split) <;> simp only [↓steady_bump, ↓steady_evalIc, ↓steady_modSrc, ↓steady_raiseBit, ↓steady_mk, ↓steady_eta, steady_ite, steady_ite_snd, steady_foldl, ite_self, implies_true]

theorem steady_routeSource (n : Nat) (v : Word) (s : State)  : steady (routeSource n v s) = steady s := by
  unfold routeSource
  simp only [↓steady_evalIc, ↓steady_modSrc, ↓steady_unqueue, ↓steady_wakeRequest, ↓steady_mk, ↓steady_eta, steady_ite, steady_ite_snd, steady_foldl, ite_self, implies_true]

theorem steady_wakeExpire (n : Nat) (s : State)  : steady (wakeExpire n s) = steady s := by
  unfold wakeExpire
  (repeat' split) <;> simp only [↓steady_evalIc, ↓steady_redirect, ↓steady_unqueue, ↓steady_mk, ↓steady_eta, steady_ite, steady_ite_snd, steady_foldl, ite_self, implies_true]

theorem steady_targetsWoke (ts : List Nat) (s : State)  : steady (targetsWoke ts s) = steady s := by
  unfold targetsWoke
  simp only [↓steady_evalIc, ↓steady_modSrc, ↓steady_mk, ↓steady_eta, steady_ite, steady_ite_snd, steady_foldl, ite_self, implies_true]

theorem steady_restoreInterrupts (d : Nat) (s : State)  : steady (restoreInterrupts d s) = steady s := by
  unfold restoreInterrupts
  simp only [↓steady_targetsWoke, ↓steady_mk, ↓steady_eta, steady_ite, steady_ite_snd, steady_foldl, ite_self, implies_true]

end Sys2Proof.Laws
end

