-- ==== Sys2Proof/Laws/SteadyCommit.lean ====
section
/-! SUPPORT. What the operations of Machine/Commit.lean leave steady: `steady` of the state after is that of the state before. -/

set_option linter.unusedSimpArgs false
set_option linter.unusedTactic false
set_option linter.unreachableTactic false
set_option linter.unnecessarySeqFocus false

namespace Sys2Proof.Laws

open Sys2Proof Sys2Proof.Machine

theorem steady_stagePage (k off : Nat) (v : Word) (s : State)  : steady (stagePage k off v s) = steady s := by
  unfold stagePage
  simp only [↓steady_modPage, ↓steady_raiseBit, ↓steady_mk, ↓steady_eta, steady_ite, steady_ite_snd, steady_foldl, ite_self, implies_true]

theorem steady_stageTable (o : Nat) (v : Word) (s : State)  : steady (stageTable o v s) = steady s := by
  unfold stageTable
  dsimp only
  (repeat' split) <;> simp only [↓steady_atReport, ↓steady_modPage, ↓steady_raiseReport, ↓steady_mk, ↓steady_eta, steady_ite, steady_ite_snd, steady_foldl, ite_self, implies_true]

theorem steady_powerUp (l : List Nat) (s : State)  : steady (powerUp l s) = steady s := by
  rfl

theorem steady_powerNeeded (s : State)  : steady (powerNeeded s) = steady s := by
  rfl

theorem steady_bootChecked (q : Nat) (passed : Bool) (s : State)  : steady (bootChecked q passed s) = steady s := by
  unfold bootChecked
  (repeat' split) <;> simp only [↓steady_raiseBit, ↓steady_mk, ↓steady_eta, steady_ite, steady_ite_snd, steady_foldl, ite_self, implies_true]

theorem steady_is05Checked (q : Nat) (passed : Bool) (s : State)  : steady (is05Checked q passed s) = steady s := by
  unfold is05Checked
  simp only [↓steady_bump, ↓steady_emit, ↓steady_mk, ↓steady_eta, steady_ite, steady_ite_snd, steady_foldl, ite_self, implies_true]

theorem steady_failSet (q cause a : Nat) (s : State)  : steady (failSet q cause a s) = steady s := by
  unfold failSet
  simp only [↓steady_bootChecked, ↓steady_bump, ↓steady_is05Checked, ↓steady_modSet, ↓steady_raiseBit, ↓steady_raiseReport, ↓steady_mk, ↓steady_eta, steady_ite, steady_ite_snd, steady_foldl, ite_self, implies_true]

theorem steady_admitLive (s0 s : State)  : steady (admitLive s0 s) = steady s := by
  unfold admitLive
  simp only [↓steady_modDsp, ↓steady_modMc, ↓steady_noteEngineLost, ↓steady_rateConds, ↓steady_mk, ↓steady_eta, steady_ite, steady_ite_snd, steady_foldl, ite_self, implies_true]

theorem steady_applySet (q gen e : Nat) (s0 : State)  : steady (applySet q gen e s0) = steady s0 := by
  unfold applySet
  simp only [↓steady_admitLive, ↓steady_bootChecked, ↓steady_bump, ↓steady_is05Checked, ↓steady_modPage, ↓steady_modSet, ↓steady_powerNeeded, ↓steady_takeWaitsAll, ↓steady_mk, ↓steady_eta, steady_ite, steady_ite_snd, steady_foldl, ite_self, implies_true]

theorem steady_passSet (q gen e : Nat) (s : State)  : steady (passSet q gen e s) = steady s := by
  unfold passSet
  simp only [↓steady_applySet, ↓steady_modSet, ↓steady_powerUp, ↓steady_mk, ↓steady_eta, steady_ite, steady_ite_snd, steady_foldl, ite_self, implies_true]

theorem steady_domainsSettled (s : State)  : steady (domainsSettled s) = steady s := by
  unfold domainsSettled
  (repeat' split) <;> simp only [↓steady_applySet, ↓steady_mk, ↓steady_eta, steady_ite, steady_ite_snd, steady_foldl, ite_self, implies_true]

theorem steady_domainFailed (x a : Nat) (s : State)  : steady (domainFailed x a s) = steady s := by
  unfold domainFailed
  (repeat' split) <;> simp only [↓steady_failSet, ↓steady_mk, ↓steady_eta, steady_ite, steady_ite_snd, steady_foldl, ite_self, implies_true]

theorem steady_sendVote (q result : Nat) (s : State)  : steady (sendVote q result s) = steady s := by
  unfold sendVote
  simp only [↓steady_sendRel, ↓steady_mk, ↓steady_eta, steady_ite, steady_ite_snd, steady_foldl, ite_self, implies_true]

theorem steady_decideVote (q : Nat) (s : State)  : steady (decideVote q s) = steady s := by
  unfold decideVote
  (repeat' split) <;> simp only [↓steady_failSet, ↓steady_passSet, ↓steady_sendRel, ↓steady_mk, ↓steady_eta, steady_ite, steady_ite_snd, steady_foldl, ite_self, implies_true]

theorem steady_voteOn (q : Nat) (s : State)  : steady (voteOn q s) = steady s := by
  unfold voteOn
  simp only [↓steady_decideVote, ↓steady_failSet, ↓steady_modSet, ↓steady_passSet, ↓steady_sendVote, ↓steady_mk, ↓steady_eta, steady_ite, steady_ite_snd, steady_foldl, ite_self, implies_true]

theorem steady_commitWrite (k : Nat) (v : Word) (s : State)  : steady (commitWrite k v s) = steady s := by
  unfold commitWrite
  (repeat' split) <;> simp only [↓steady_bump, ↓steady_failSet, ↓steady_modSet, ↓steady_raiseBit, ↓steady_raiseReport, ↓steady_mk, ↓steady_eta, steady_ite, steady_ite_snd, steady_foldl, ite_self, implies_true]

theorem steady_checkStart (s : State)  : steady (checkStart s) = steady s := by
  unfold checkStart
  (repeat' split) <;> simp only [↓steady_modSet, ↓steady_mk, ↓steady_eta, steady_ite, steady_ite_snd, steady_foldl, ite_self, implies_true]

theorem steady_checkEnd (s : State)  : steady (checkEnd s) = steady s := by
  unfold checkEnd
  (repeat' split) <;> simp only [↓steady_failSet, ↓steady_sendVote, ↓steady_voteOn, ↓steady_mk, ↓steady_eta, steady_ite, steady_ite_snd, steady_foldl, ite_self, implies_true]

end Sys2Proof.Laws
end

