-- ==== Sys2Proof/Laws/SteadyFw.lean ====
section
/-! SUPPORT. What the operations of Machine/Fw.lean leave steady: `steady` of the state after is that of the state before. -/

set_option linter.unusedSimpArgs false
set_option linter.unusedTactic false
set_option linter.unreachableTactic false
set_option linter.unnecessarySeqFocus false

namespace Sys2Proof.Laws

open Sys2Proof Sys2Proof.Machine

theorem steady_countFlash (prog era : Nat) (s : State)  : steady (countFlash prog era s) = steady s := by
  rfl

theorem steady_fwStart (b : BootResult) (s : State)  : steady (fwStart b s) = steady s := by
  unfold fwStart
  simp only [↓steady_bump, ↓steady_countFlash, ↓steady_present, ↓steady_raiseBit, ↓steady_mk, ↓steady_eta, steady_ite, steady_ite_snd, steady_foldl, ite_self, implies_true]

theorem steady_tackBoot (s : State)  : steady (tackBoot s) = steady s := by
  unfold tackBoot
  simp only [↓steady_draw, ↓steady_raiseBit, ↓steady_mk, ↓steady_eta, steady_ite, steady_ite_snd, steady_foldl, ite_self, implies_true]

theorem steady_fwBoot (err : Nat → Bool) (s : State)  : steady (fwBoot err s) = steady s := by
  unfold fwBoot
  simp only [↓steady_fwStart, ↓steady_modPage, ↓steady_tackBoot, ↓steady_mk, ↓steady_eta, steady_ite, steady_ite_snd, steady_foldl, ite_self, implies_true]

theorem steady_fwFail (cause where_ : Nat) (s : State)  : steady (fwFail cause where_ s) = steady s := by
  unfold fwFail
  simp only [↓steady_raiseBit, ↓steady_mk, ↓steady_eta, steady_ite, steady_ite_snd, steady_foldl, ite_self, implies_true]

theorem steady_fwDone (s : State)  : steady (fwDone s) = steady s := by
  unfold fwDone
  simp only [↓steady_raiseBit, ↓steady_mk, ↓steady_eta, steady_ite, steady_ite_snd, steady_foldl, ite_self, implies_true]

theorem steady_fwCommand (v : Word) (s : State)  : steady (fwCommand v s) = steady s := by
  unfold fwCommand
  simp only [↓steady_fwFail, ↓steady_raiseBit, ↓steady_mk, ↓steady_eta, steady_ite, steady_ite_snd, steady_foldl, ite_self, implies_true]

theorem steady_fwConfirmNow (s : State)  : steady (fwConfirmNow s) = steady s := by
  unfold fwConfirmNow
  simp only [↓steady_bump, ↓steady_raiseBit, ↓steady_mk, ↓steady_eta, steady_ite, steady_ite_snd, steady_foldl, ite_self, implies_true]

theorem steady_fwConfirm (v : Word) (s : State)  : steady (fwConfirm v s) = steady s := by
  unfold fwConfirm
  simp only [↓steady_fwConfirmNow, ↓steady_mk, ↓steady_eta, steady_ite, steady_ite_snd, steady_foldl, ite_self, implies_true]

theorem steady_fwWork (flashErr : Bool) (s : State)  : steady (fwWork flashErr s) = steady s := by
  unfold fwWork
  dsimp only
  (repeat' split) <;> simp only [↓steady_countFlash, ↓steady_fwDone, ↓steady_fwFail, ↓steady_present, ↓steady_mk, ↓steady_eta, steady_ite, steady_ite_snd, steady_foldl, ite_self, implies_true]

theorem steady_fwEnd (flashErr : Bool) (s : State)  : steady (fwEnd flashErr s) = steady s := by
  unfold fwEnd
  simp only [↓steady_fwConfirmNow, ↓steady_fwWork, ↓steady_mk, ↓steady_eta, steady_ite, steady_ite_snd, steady_foldl, ite_self, implies_true]

theorem steady_clearBufs (s : State)  : steady (clearBufs s) = steady s := by
  rfl

theorem steady_tackRefuse (cause slot : Nat) (s : State)  : steady (tackRefuse cause slot s) = steady s := by
  unfold tackRefuse
  simp only [↓steady_bump, ↓steady_clearBufs, ↓steady_raiseBit, ↓steady_mk, ↓steady_eta, steady_ite, steady_ite_snd, steady_foldl, ite_self, implies_true]

theorem steady_tackCommand (v : Word) (s : State)  : steady (tackCommand v s) = steady s := by
  unfold tackCommand
  simp only [↓steady_raiseBit, ↓steady_tackRefuse, ↓steady_mk, ↓steady_eta, steady_ite, steady_ite_snd, steady_foldl, ite_self, implies_true]

theorem steady_tackWork (s : State)  : steady (tackWork s) = steady s := by
  unfold tackWork
  (repeat' split) <;> simp only [↓steady_bump, ↓steady_setKeySlot, ↓steady_mk, ↓steady_eta, steady_ite, steady_ite_snd, steady_foldl, ite_self, implies_true]

theorem steady_tackEnd (s : State)  : steady (tackEnd s) = steady s := by
  unfold tackEnd
  simp only [↓steady_clearBufs, ↓steady_raiseBit, ↓steady_tackWork, ↓steady_mk, ↓steady_eta, steady_ite, steady_ite_snd, steady_foldl, ite_self, implies_true]

end Sys2Proof.Laws
end

