-- ==== Sys2Proof/Laws/SteadyTime.lean ====
section
/-! SUPPORT. What the operations of Machine/Time.lean leave steady: `steady` of the state after is that of the state before. -/

set_option linter.unusedSimpArgs false
set_option linter.unusedTactic false
set_option linter.unreachableTactic false
set_option linter.unnecessarySeqFocus false

namespace Sys2Proof.Laws

open Sys2Proof Sys2Proof.Machine

theorem steady_setQuality (q : Nat) (s : State)  : steady (setQuality q s) = steady s := by
  unfold setQuality
  simp only [↓steady_bump, ↓steady_raiseBit, ↓steady_yieldOnConditions, ↓steady_mk, ↓steady_eta, steady_ite, steady_ite_snd, steady_foldl, ite_self, implies_true]

theorem steady_enterHold (s : State)  : steady (enterHold s) = steady s := by
  unfold enterHold
  simp only [↓steady_setQuality, ↓steady_mk, ↓steady_eta, steady_ite, steady_ite_snd, steady_foldl, ite_self, implies_true]

theorem steady_holdTick (s : State)  : steady (holdTick s) = steady s := by
  unfold holdTick
  simp only [↓steady_setQuality, ↓steady_mk, ↓steady_eta, steady_ite, steady_ite_snd, steady_foldl, ite_self, implies_true]

theorem steady_lockPtp (b : Nat) (s : State)  : steady (lockPtp b s) = steady s := by
  unfold lockPtp
  simp only [↓steady_setQuality, ↓steady_mk, ↓steady_eta, steady_ite, steady_ite_snd, steady_foldl, ite_self, implies_true]

theorem steady_lockRef (s : State)  : steady (lockRef s) = steady s := by
  unfold lockRef
  simp only [↓steady_setQuality, ↓steady_mk, ↓steady_eta, steady_ite, steady_ite_snd, steady_foldl, ite_self, implies_true]

theorem steady_askStep (s : State)  : steady (askStep s) = steady s := by
  unfold askStep
  simp only [↓steady_mk, ↓steady_eta, steady_ite, steady_ite_snd, steady_foldl, ite_self, implies_true]

theorem steady_retarget (s : State)  : steady (retarget s) = steady s := by
  unfold retarget
  simp only [↓steady_askStep, ↓steady_enterHold, ↓steady_lockRef, ↓steady_mk, ↓steady_eta, steady_ite, steady_ite_snd, steady_foldl, ite_self, implies_true]

theorem steady_refuseRef (src : RefSource) (s : State)  : steady (refuseRef src s) = steady s := by
  unfold refuseRef
  (repeat' split) <;> simp only [↓steady_bump, ↓steady_raiseBit, ↓steady_retarget, ↓steady_mk, ↓steady_eta, steady_ite, steady_ite_snd, steady_foldl, ite_self, implies_true]

theorem steady_eligible (src : RefSource) (raw : Int) (s : State)  : steady (eligible src raw s) = steady s := by
  unfold eligible
  (repeat' split) <;> simp only [↓steady_refuseRef, ↓steady_retarget, ↓steady_mk, ↓steady_eta, steady_ite, steady_ite_snd, steady_foldl, ite_self, implies_true]

theorem steady_stopRef (src : RefSource) (s : State)  : steady (stopRef src s) = steady s := by
  unfold stopRef
  (repeat' split) <;> simp only [↓steady_bump, ↓steady_raiseBit, ↓steady_retarget, ↓steady_mk, ↓steady_eta, steady_ite, steady_ite_snd, steady_foldl, ite_self, implies_true]

theorem steady_ptpLockOp (off : Int) (b : Nat) (s : State)  : steady (ptpLockOp off b s) = steady s := by
  unfold ptpLockOp
  simp only [↓steady_enterHold, ↓steady_lockPtp, ↓steady_mk, ↓steady_eta, steady_ite, steady_ite_snd, steady_foldl, ite_self, implies_true]

theorem steady_edgeOp (pps : Bool) (raw : Int) (s : State)  : steady (edgeOp pps raw s) = steady s := by
  unfold edgeOp
  simp only [↓steady_askStep, ↓steady_enterHold, ↓steady_lockRef, ↓steady_mk, ↓steady_eta, steady_ite, steady_ite_snd, steady_foldl, ite_self, implies_true]

theorem steady_glitchOp (pps : Bool) (s : State)  : steady (glitchOp pps s) = steady s := by
  unfold glitchOp
  simp only [↓steady_bump, ↓steady_raiseBit, ↓steady_mk, ↓steady_eta, steady_ite, steady_ite_snd, steady_foldl, ite_self, implies_true]

theorem steady_crystalFail (s : State)  : steady (crystalFail s) = steady s := by
  unfold crystalFail
  simp only [↓steady_setFault, ↓steady_yieldFor, ↓steady_mk, ↓steady_eta, steady_ite, steady_ite_snd, steady_foldl, ite_self, implies_true]

theorem steady_refsTakeEffect (s : State)  : steady (refsTakeEffect s) = steady s := by
  unfold refsTakeEffect
  simp only [↓steady_retarget, ↓steady_mk, ↓steady_eta, steady_ite, steady_ite_snd, steady_foldl, ite_self, implies_true]

theorem steady_stepChan (d : Int) (t ch : Nat) (s : State)  : steady (stepChan d t ch s) = steady s := by
  unfold stepChan
  dsimp only
  (repeat' split) <;> simp only [↓steady_modChan, ↓steady_mk, ↓steady_eta, steady_ite, steady_ite_snd, steady_foldl, ite_self, implies_true]

theorem steady_stepQueues (d : Int) (s : State)  : steady (stepQueues d s) = steady s := by
  rfl

theorem steady_applyStep (s : State)  : steady (applyStep s) = steady s := by
  unfold applyStep
  dsimp only
  (repeat' split) <;> simp only [↓steady_bump, ↓steady_lockPtp, ↓steady_lockRef, ↓steady_raiseBit, ↓steady_stepChan, ↓steady_stepQueues, ↓steady_mk, ↓steady_eta, steady_ite, steady_ite_snd, steady_foldl, ite_self, implies_true]

end Sys2Proof.Laws
end

