-- ==== Sys2Proof/Laws/SteadyServices.lean ====
section
/-! SUPPORT. What the operations of Machine/Services.lean leave steady: `steady` of the state after is that of the state before. -/

set_option linter.unusedSimpArgs false
set_option linter.unusedTactic false
set_option linter.unreachableTactic false
set_option linter.unnecessarySeqFocus false

namespace Sys2Proof.Laws

open Sys2Proof Sys2Proof.Machine

theorem steady_sapSend (f : Nat) (x : SdpDesc) (deletion : Bool) (s : State)  : steady (sapSend f x deletion s) = steady s := by
  unfold sapSend
  simp only [↓steady_ancFrame, ↓steady_bump, ↓steady_emitOn, ↓steady_mk, ↓steady_eta, steady_ite, steady_ite_snd, steady_foldl, ite_self, implies_true]

theorem steady_sdpStep (s : State) (f : Nat)  : steady (sdpStep s f) = steady s := by
  unfold sdpStep
  simp only [↓steady_raiseBit, ↓steady_sapSend, ↓steady_mk, ↓steady_eta, steady_ite, steady_ite_snd, steady_foldl, ite_self, implies_true]

theorem steady_sdpTakeEffect (s : State)  : steady (sdpTakeEffect s) = steady s := by
  unfold sdpTakeEffect
  simp only [↓steady_sdpStep, ↓steady_mk, ↓steady_eta, steady_ite, steady_ite_snd, steady_foldl, ite_self, implies_true]

theorem steady_sapAnnounceOp (s : State)  : steady (sapAnnounceOp s) = steady s := by
  unfold sapAnnounceOp
  simp only [↓steady_sapSend, ↓steady_mk, ↓steady_eta, steady_ite, steady_ite_snd, steady_foldl, ite_self, implies_true]

theorem steady_nmosOp (ok : Bool) (s : State)  : steady (nmosOp ok s) = steady s := by
  unfold nmosOp
  simp only [↓steady_bump, ↓steady_emitOn, ↓steady_raiseBit, ↓steady_serviceFrame, ↓steady_mk, ↓steady_eta, steady_ite, steady_ite_snd, steady_foldl, ite_self, implies_true]

theorem steady_resourcesTakeEffect (oldT : Tbl Word) (s : State)  : steady (resourcesTakeEffect oldT s) = steady s := by
  unfold resourcesTakeEffect
  simp only [↓steady_emitOn, ↓steady_serviceFrame, ↓steady_mk, ↓steady_eta, steady_ite, steady_ite_snd, steady_foldl, ite_self, implies_true]

theorem steady_delayReqOp (l : Nat) (s : State)  : steady (delayReqOp l s) = steady s := by
  unfold delayReqOp
  simp only [↓steady_emit, ↓steady_modPort, ↓steady_modPtp, ↓steady_mk, ↓steady_eta, steady_ite, steady_ite_snd, steady_foldl, ite_self, implies_true]

theorem steady_firmwareCommit (q : Nat) (crc : Word) (s : State)  : steady (firmwareCommit q crc s) = steady s := by
  unfold firmwareCommit
  (repeat' split) <;> simp only [↓steady_commitWrite, ↓steady_modSet, ↓steady_mk, ↓steady_eta, steady_ite, steady_ite_snd, steady_foldl, ite_self, implies_true]

theorem steady_is05Activate (receiver : Bool) (e : Nat) (words : List (Nat × Word)) (s : State)  : steady (is05Activate receiver e words s) = steady s := by
  unfold is05Activate
  (repeat' split) <;> simp only [↓steady_bump, ↓steady_emit, ↓steady_firmwareCommit, ↓steady_stageTable, ↓steady_mk, ↓steady_eta, steady_ite, steady_ite_snd, steady_foldl, ite_self, implies_true]

theorem steady_is05PatchOp (receiver : Bool) (e : Nat) (words : List (Nat × Word)) (readOnly : Bool) (t : Option Nat) (s : State)  : steady (is05PatchOp receiver e words readOnly t s) = steady s := by
  unfold is05PatchOp
  (repeat' split) <;> simp only [↓steady_emit, ↓steady_is05Activate, ↓steady_mk, ↓steady_eta, steady_ite, steady_ite_snd, steady_foldl, ite_self, implies_true]

theorem steady_is05ActivationOp (s : State)  : steady (is05ActivationOp s) = steady s := by
  unfold is05ActivationOp
  (repeat' split) <;> simp only [↓steady_advance, ↓steady_is05Activate, ↓steady_mk, ↓steady_eta, steady_ite, steady_ite_snd, steady_foldl, ite_self, implies_true]

theorem steady_bootStartOp (s : State)  : steady (bootStartOp s) = steady s := by
  unfold bootStartOp
  dsimp only
  (repeat' split) <;> simp only [↓steady_mk, ↓steady_eta, steady_ite, steady_ite_snd, steady_foldl, ite_self, implies_true]

theorem steady_stageRecord (e : List Word) (words : List Word) (s : State)  : steady (stageRecord e words s) = steady s := by
  unfold stageRecord
  simp only [↓steady_stagePage, ↓steady_stageTable, ↓steady_mk, ↓steady_eta, steady_ite, steady_ite_snd, steady_foldl, ite_self, implies_true]

theorem steady_holdRelease (s : State)  : steady (holdRelease s) = steady s := by
  rfl

theorem steady_bootAbortOp (s : State)  : steady (bootAbortOp s) = steady s := by
  unfold bootAbortOp
  simp only [↓steady_mk, ↓steady_eta, steady_ite, steady_ite_snd, steady_foldl, ite_self, implies_true]

theorem steady_aperPlace (v : Word) (s : State)  : steady (aperPlace v s) = steady s := by
  unfold aperPlace
  simp only [↓steady_raiseBit, ↓steady_mk, ↓steady_eta, steady_ite, steady_ite_snd, steady_foldl, ite_self, implies_true]

end Sys2Proof.Laws
end

