-- ==== Sys2Proof/Laws/SteadyRecords.lean ====
section
/-! SUPPORT. What the operations of Machine/Records.lean leave steady: `steady` of the state after is that of the state before. -/

set_option linter.unusedSimpArgs false
set_option linter.unusedTactic false
set_option linter.unreachableTactic false
set_option linter.unnecessarySeqFocus false

namespace Sys2Proof.Laws

open Sys2Proof Sys2Proof.Machine

theorem steady_packLate (ch n k : Nat) (s : State)  : steady (packLate ch n k s) = steady s := by
  unfold packLate
  (repeat' split) <;> simp only [↓steady_bump, ↓steady_raiseBit, ↓steady_mk, ↓steady_eta, steady_ite, steady_ite_snd, steady_foldl, ite_self, implies_true]

theorem steady_packAll (ch n k : Nat) (s : State)  : steady (packAll ch n k s) = steady s := by
  unfold packAll
  simp only [↓steady_modFur, ↓steady_modPic, ↓steady_packFurrow, ↓steady_packLate, ↓steady_mk, ↓steady_eta, steady_ite, steady_ite_snd, steady_foldl, ite_self, implies_true]

theorem steady_packRest (ch n : Nat) (s : State)  : steady (packRest ch n s) = steady s := by
  unfold packRest
  (repeat' split) <;> simp only [↓steady_packAll, ↓steady_mk, ↓steady_eta, steady_ite, steady_ite_snd, steady_foldl, ite_self, implies_true]

theorem steady_compared (ch n c : Nat) (s : State)  : steady (compared ch n c s) = steady s := by
  unfold compared
  simp only [↓steady_bump, ↓steady_diverge, ↓steady_modYch, ↓steady_relock, ↓steady_resyncFailed, ↓steady_mk, ↓steady_eta, steady_ite, steady_ite_snd, steady_foldl, ite_self, implies_true]

theorem steady_sendVerdict (ch n : Nat) (s : State)  : steady (sendVerdict ch n s) = steady s := by
  unfold sendVerdict
  simp only [↓steady_sendRel, ↓steady_mk, ↓steady_eta, steady_ite, steady_ite_snd, steady_foldl, ite_self, implies_true]

theorem steady_comparePair (ch : Nat) (s : State)  : steady (comparePair ch s) = steady s := by
  unfold comparePair
  dsimp only
  (repeat' split) <;> simp only [↓steady_compared, ↓steady_modYch, ↓steady_seekResync, ↓steady_sendVerdict, ↓steady_mk, ↓steady_eta, steady_ite, steady_ite_snd, steady_foldl, ite_self, implies_true]

theorem steady_ownRecord (ch : Nat) (r : Record) (s : State)  : steady (ownRecord ch r s) = steady s := by
  unfold ownRecord
  dsimp only
  (repeat' split) <;> simp only [↓steady_comparePair, ↓steady_diverge, ↓steady_modYch, ↓steady_seekResync, ↓steady_sendVerdict, ↓steady_mk, ↓steady_eta, steady_ite, steady_ite_snd, steady_foldl, ite_self, implies_true]

theorem steady_recordPicture (ch n : Nat) (s : State)  : steady (recordPicture ch n s) = steady s := by
  unfold recordPicture
  (repeat' split) <;> simp only [↓steady_bump, ↓steady_modChan, ↓steady_ownRecord, ↓steady_sendRel, ↓steady_mk, ↓steady_eta, steady_ite, steady_ite_snd, steady_foldl, ite_self, implies_true]

theorem steady_joinState (ch m : Nat) (r : Record) (s : State)  : steady (joinState ch m r s) = steady s := by
  rfl

theorem steady_takeCounters (ch : Nat) (r : Record) (s : State)  : steady (takeCounters ch r s) = steady s := by
  unfold takeCounters
  extract_lets s1 s2 s3
  have h1 : steady s1 = steady s := by
    refine steady_foldl _ _ _ ?_
    intro s i
    split <;> simp only [↓steady_modChan, ↓steady_modPic, ↓steady_modSvc, ↓steady_settle, ↓steady_wakeItems, ↓steady_mk, ↓steady_eta, steady_ite, steady_ite_snd, steady_foldl, ite_self, implies_true]
  clear_value s1
  simp only [s3, s2, ↓h1, ↓steady_modChan, ↓steady_modPic, ↓steady_modSvc, ↓steady_settle, ↓steady_wakeItems, ↓steady_mk, ↓steady_eta, steady_ite, steady_ite_snd, steady_foldl, ite_self, implies_true]

theorem steady_theirRecord (r : Record) (s : State)  : steady (theirRecord r s) = steady s := by
  unfold theirRecord
  simp only [↓steady_comparePair, ↓steady_modYch, ↓steady_takeCounters, ↓steady_mk, ↓steady_eta, steady_ite, steady_ite_snd, steady_foldl, ite_self, implies_true]

end Sys2Proof.Laws
end

