-- ==== Sys2Proof/Laws/SteadyYoke.lean ====
section
/-! SUPPORT. What the operations of Machine/Yoke.lean leave steady: `steady` of the state after is that of the state before. -/

set_option linter.unusedSimpArgs false
set_option linter.unusedTactic false
set_option linter.unreachableTactic false
set_option linter.unnecessarySeqFocus false

namespace Sys2Proof.Laws

open Sys2Proof Sys2Proof.Machine

theorem steady_rxFrame (h : YHdr) (k : State → State) (s : State) (hk : ∀ s, steady (k s) = steady s) : steady (rxFrame h k s) = steady s := by
  unfold rxFrame
  simp only [↓steady_ackUpTo, ↓steady_bump, ↓steady_mk, ↓steady_eta, ↓hk, steady_ite, steady_ite_snd, steady_foldl, ite_self, implies_true]

theorem steady_pathsSettled (s0 s : State)  : steady (pathsSettled s0 s) = steady s := by
  unfold pathsSettled
  (repeat' split) <;> simp only [↓steady_pathsChanged, ↓steady_releaseCkpt, ↓steady_mk, ↓steady_eta, steady_ite, steady_ite_snd, steady_foldl, ite_self, implies_true]

theorem steady_abortResync (tell : Bool) (s : State)  : steady (abortResync tell s) = steady s := by
  unfold abortResync
  (repeat' split) <;> simp only [↓steady_modChan, ↓steady_releaseCkpt, ↓steady_resyncAbort, ↓steady_mk, ↓steady_eta, steady_ite, steady_ite_snd, steady_foldl, ite_self, implies_true]

theorem steady_abortOf (ch : Nat) (s : State)  : steady (abortOf ch s) = steady s := by
  unfold abortOf
  simp only [↓steady_abortResync, ↓steady_mk, ↓steady_eta, steady_ite, steady_ite_snd, steady_foldl, ite_self, implies_true]

theorem steady_refusePair (code : Nat) (s : State)  : steady (refusePair code s) = steady s := by
  unfold refusePair
  simp only [↓steady_raiseBit, ↓steady_setRole, ↓steady_mk, ↓steady_eta, steady_ite, steady_ite_snd, steady_foldl, ite_self, implies_true]

theorem steady_completePair (s : State)  : steady (completePair s) = steady s := by
  unfold completePair
  simp only [↓steady_diverge, ↓steady_modYch, ↓steady_seekResync, ↓steady_setRole, ↓steady_mk, ↓steady_eta, steady_ite, steady_ite_snd, steady_foldl, ite_self, implies_true]

theorem steady_dualActive (s : State)  : steady (dualActive s) = steady s := by
  unfold dualActive
  dsimp only
  (repeat' split) <;> simp only [↓steady_raiseBit, ↓steady_setRole, ↓steady_mk, ↓steady_eta, steady_ite, steady_ite_snd, steady_foldl, ite_self, implies_true]

theorem steady_partnerRole (r : Nat) (s : State)  : steady (partnerRole r s) = steady s := by
  unfold partnerRole
  simp only [↓steady_completePair, ↓steady_dualActive, ↓steady_mk, ↓steady_eta, steady_ite, steady_ite_snd, steady_foldl, ite_self, implies_true]

theorem steady_helloOp (p : Hello) (s : State)  : steady (helloOp p s) = steady s := by
  unfold helloOp
  dsimp only
  (repeat' split) <;> simp only [↓steady_partnerRole, ↓steady_refusePair, ↓steady_setRole, ↓steady_mk, ↓steady_eta, steady_ite, steady_ite_snd, steady_foldl, ite_self, implies_true]

theorem steady_settleDual (s : State)  : steady (settleDual s) = steady s := by
  unfold settleDual
  (repeat' split) <;> simp only [↓steady_abortResync, ↓steady_diverge, ↓steady_modYch, ↓steady_seekResync, ↓steady_setRole, ↓steady_mk, ↓steady_eta, steady_ite, steady_ite_snd, steady_foldl, ite_self, implies_true]

theorem steady_pairTakesEffect (s : State)  : steady (pairTakesEffect s) = steady s := by
  unfold pairTakesEffect
  simp only [↓steady_abortResync, ↓steady_setRole, ↓steady_mk, ↓steady_eta, steady_ite, steady_ite_snd, steady_foldl, ite_self, implies_true]

theorem steady_missedOp (link : Bool) (s : State)  : steady (missedOp link s) = steady s := by
  unfold missedOp
  simp only [↓steady_bump, ↓steady_pathsSettled, ↓steady_mk, ↓steady_eta, steady_ite, steady_ite_snd, steady_foldl, ite_self, implies_true]

theorem steady_pulseOp (width : Nat) (s : State)  : steady (pulseOp width s) = steady s := by
  unfold pulseOp
  simp only [↓steady_pathsSettled, ↓steady_mk, ↓steady_eta, steady_ite, steady_ite_snd, steady_foldl, ite_self, implies_true]

theorem steady_beatOp (p : Beat) (s : State)  : steady (beatOp p s) = steady s := by
  unfold beatOp
  simp only [↓steady_partnerRole, ↓steady_pathsSettled, ↓steady_seekResync, ↓steady_yieldOnConditions, ↓steady_mk, ↓steady_eta, steady_ite, steady_ite_snd, steady_foldl, ite_self, implies_true]

theorem steady_sendBeat (s : State)  : steady (sendBeat s) = steady s := by
  unfold sendBeat
  dsimp only
  (repeat' split) <;> simp only [↓steady_emit, ↓steady_sendFrame, ↓steady_mk, ↓steady_eta, steady_ite, steady_ite_snd, steady_foldl, ite_self, implies_true]

theorem steady_sendHello (s : State)  : steady (sendHello s) = steady s := by
  unfold sendHello
  simp only [↓steady_sendFrame, ↓steady_mk, ↓steady_eta, steady_ite, steady_ite_snd, steady_foldl, ite_self, implies_true]

theorem steady_retryOp (n : Nat) (s : State)  : steady (retryOp n s) = steady s := by
  unfold retryOp
  (repeat' split) <;> simp only [↓steady_bump, ↓steady_pathsSettled, ↓steady_sendFrame, ↓steady_mk, ↓steady_eta, steady_ite, steady_ite_snd, steady_foldl, ite_self, implies_true]

theorem steady_ackTimerOp (s : State)  : steady (ackTimerOp s) = steady s := by
  unfold ackTimerOp
  simp only [↓steady_sendFrame, ↓steady_mk, ↓steady_eta, steady_ite, steady_ite_snd, steady_foldl, ite_self, implies_true]

theorem steady_verdictOp (ch st cause : Nat) (s : State)  : steady (verdictOp ch st cause s) = steady s := by
  unfold verdictOp
  simp only [↓steady_bump, ↓steady_diverge, ↓steady_modYch, ↓steady_relock, ↓steady_resyncFailed, ↓steady_mk, ↓steady_eta, steady_ite, steady_ite_snd, steady_foldl, ite_self, implies_true]

theorem steady_voteOp (q g : Nat) (crc tcrc : Word) (live res : Nat) (s : State)  : steady (voteOp q g crc tcrc live res s) = steady s := by
  unfold voteOp
  simp only [↓steady_decideVote, ↓steady_sendRel, ↓steady_mk, ↓steady_eta, steady_ite, steady_ite_snd, steady_foldl, ite_self, implies_true]

theorem steady_mismatch (q : Nat) (s : State)  : steady (mismatch q s) = steady s := by
  unfold mismatch
  simp only [↓steady_failSet, ↓steady_mk, ↓steady_eta, steady_ite, steady_ite_snd, steady_foldl, ite_self, implies_true]

theorem steady_decideOp (q g outcome e : Nat) (s : State)  : steady (decideOp q g outcome e s) = steady s := by
  unfold decideOp
  simp only [↓steady_mismatch, ↓steady_passSet, ↓steady_mk, ↓steady_eta, steady_ite, steady_ite_snd, steady_foldl, ite_self, implies_true]

theorem steady_voteTimeoutOp (s : State)  : steady (voteTimeoutOp s) = steady s := by
  unfold voteTimeoutOp
  (repeat' split) <;> simp only [↓steady_mismatch, ↓steady_sendRel, ↓steady_mk, ↓steady_eta, steady_ite, steady_ite_snd, steady_foldl, ite_self, implies_true]

theorem steady_decideTimeoutOp (s : State)  : steady (decideTimeoutOp s) = steady s := by
  unfold decideTimeoutOp
  (repeat' split) <;> simp only [↓steady_mismatch, ↓steady_mk, ↓steady_eta, steady_ite, steady_ite_snd, steady_foldl, ite_self, implies_true]

theorem steady_resyncRequestOp (ch : Nat) (s : State)  : steady (resyncRequestOp ch s) = steady s := by
  unfold resyncRequestOp
  simp only [↓steady_modChan, ↓steady_mk, ↓steady_eta, steady_ite, steady_ite_snd, steady_foldl, ite_self, implies_true]

theorem steady_dropPics (ch : Nat) (q : Nat → Bool) (s : State)  : steady (dropPics ch q s) = steady s := by
  unfold dropPics
  simp only [↓steady_dropItems, ↓steady_modChan, ↓steady_modSvc, ↓steady_mk, ↓steady_eta, steady_ite, steady_ite_snd, steady_foldl, ite_self, implies_true]

theorem steady_checkpointTakenOp (ch pinned n : Nat) (s : State)  : steady (checkpointTakenOp ch pinned n s) = steady s := by
  unfold checkpointTakenOp
  simp only [↓steady_dropPics, ↓steady_modYch, ↓steady_mk, ↓steady_eta, steady_ite, steady_ite_snd, steady_foldl, ite_self, implies_true]

theorem steady_copyFrames (ch stall kind off n : Nat) (byte : Nat → Byte) (s : State)  : steady (copyFrames ch stall kind off n byte s) = steady s := by
  unfold copyFrames
  simp only [↓steady_bump, ↓steady_sendRel, ↓steady_mk, ↓steady_eta, steady_ite, steady_ite_snd, steady_foldl, ite_self, implies_true]

theorem steady_copyPinned (ch : Nat) (s : State)  : steady (copyPinned ch s) = steady s := by
  unfold copyPinned
  simp only [↓steady_copyFrames, ↓steady_mk, ↓steady_eta, steady_ite, steady_ite_snd, steady_foldl, ite_self, implies_true]

theorem steady_streamRows (ch n k : Nat) (s : State)  : steady (streamRows ch n k s) = steady s := by
  unfold streamRows
  (repeat' split) <;> simp only [↓steady_copyFrames, ↓steady_mk, ↓steady_eta, steady_ite, steady_ite_snd, steady_foldl, ite_self, implies_true]

theorem steady_bulkDoneOp (ch : Nat) (s : State)  : steady (bulkDoneOp ch s) = steady s := by
  unfold bulkDoneOp
  simp only [↓steady_bump, ↓steady_copyPinned, ↓steady_modYch, ↓steady_sendRel, ↓steady_mk, ↓steady_eta, steady_ite, steady_ite_snd, steady_foldl, ite_self, implies_true]

theorem steady_copyDoneOp (ch m : Nat) (joins : Bool) (s : State)  : steady (copyDoneOp ch m joins s) = steady s := by
  unfold copyDoneOp
  simp only [↓steady_modYch, ↓steady_mk, ↓steady_eta, steady_ite, steady_ite_snd, steady_foldl, ite_self, implies_true]

theorem steady_resyncBoundary (ch n : Nat) (s : State)  : steady (resyncBoundary ch n s) = steady s := by
  unfold resyncBoundary
  simp only [↓steady_modYch, ↓steady_releaseCkpt, ↓steady_sendRel, ↓steady_mk, ↓steady_eta, steady_ite, steady_ite_snd, steady_foldl, ite_self, implies_true]

theorem steady_joinBoundary (ch m : Nat) (s : State)  : steady (joinBoundary ch m s) = steady s := by
  unfold joinBoundary
  dsimp only
  (repeat' split) <;> simp only [↓steady_abortResync, ↓steady_joinState, ↓steady_modYch, ↓steady_mk, ↓steady_eta, steady_ite, steady_ite_snd, steady_foldl, ite_self, implies_true]

theorem steady_yieldFrameOp (tR tT : Nat) (s : State)  : steady (yieldFrameOp tR tT s) = steady s := by
  unfold yieldFrameOp
  simp only [↓steady_mk, ↓steady_eta, steady_ite, steady_ite_snd, steady_foldl, ite_self, implies_true]

theorem steady_replayCh (tR ch : Nat) (s : State)  : steady (replayCh tR ch s) = steady s := by
  unfold replayCh
  simp only [↓steady_bump, ↓steady_deliver, ↓steady_modPic, ↓steady_modSvc, ↓steady_mk, ↓steady_eta, steady_ite, steady_ite_snd, steady_foldl, ite_self, implies_true]

theorem steady_restartCh (tT ch : Nat) (s : State)  : steady (restartCh tT ch s) = steady s := by
  unfold restartCh
  simp only [↓steady_bump, ↓steady_draw, ↓steady_dropPics, ↓steady_modChan, ↓steady_modSvc, ↓steady_settle, ↓steady_mk, ↓steady_eta, steady_ite, steady_ite_snd, steady_foldl, ite_self, implies_true]

theorem steady_purgeMuted (s : State)  : steady (purgeMuted s) = steady s := by
  unfold purgeMuted
  simp only [↓steady_bump, ↓steady_flowCount, ↓steady_modPort, ↓steady_mk, ↓steady_eta, steady_ite, steady_ite_snd, steady_foldl, ite_self, implies_true]

theorem steady_takeoverOp (s : State)  : steady (takeoverOp s) = steady s := by
  unfold takeoverOp
  (repeat' split) <;> simp only [↓steady_abortResync, ↓steady_advance, ↓steady_bump, ↓steady_purgeMuted, ↓steady_raiseBit, ↓steady_replayCh, ↓steady_restartCh, ↓steady_setRole, ↓steady_mk, ↓steady_eta, steady_ite, steady_ite_snd, steady_foldl, ite_self, implies_true]

theorem steady_yokeCmd (v : Word) (s : State)  : steady (yokeCmd v s) = steady s := by
  unfold yokeCmd
  simp only [↓steady_modYch, ↓steady_seekResync, ↓steady_yieldFor, ↓steady_mk, ↓steady_eta, steady_ite, steady_ite_snd, steady_foldl, ite_self, implies_true]

theorem steady_toFaulted (ch : Nat) (s : State)  : steady (toFaulted ch s) = steady s := by
  unfold toFaulted
  simp only [↓steady_setFault, ↓steady_toChState, ↓steady_mk, ↓steady_eta, steady_ite, steady_ite_snd, steady_foldl, ite_self, implies_true]

theorem steady_faultCh (ch : Nat) (s : State)  : steady (faultCh ch s) = steady s := by
  unfold faultCh
  simp only [↓steady_abortOf, ↓steady_dropPics, ↓steady_toFaulted, ↓steady_mk, ↓steady_eta, steady_ite, steady_ite_snd, steady_foldl, ite_self, implies_true]

theorem steady_reseatsTakeEffect (old : Nat → Word) (s : State)  : steady (reseatsTakeEffect old s) = steady s := by
  unfold reseatsTakeEffect
  simp only [↓steady_abortOf, ↓steady_dropPics, ↓steady_modChan, ↓steady_modYch, ↓steady_releaseCkpt, ↓steady_toChState, ↓steady_mk, ↓steady_eta, steady_ite, steady_ite_snd, steady_foldl, ite_self, implies_true]

end Sys2Proof.Laws
end

