-- ==== Sys2Proof/Laws/SteadyBoundary.lean ====
section
/-! SUPPORT. What the operations of Machine/Boundary.lean leave steady: `steady` of the state after is that of the state before. -/

set_option linter.unusedSimpArgs false
set_option linter.unusedTactic false
set_option linter.unreachableTactic false
set_option linter.unnecessarySeqFocus false

namespace Sys2Proof.Laws

open Sys2Proof Sys2Proof.Machine

theorem steady_atChannel (ch : Nat) (s : State) (k : State → State) (hk : ∀ s, steady (k s) = steady s) : SteadyO s (atChannel ch s k) := by
  unfold atChannel
  (repeat' split) <;> first
    | (refine SteadyO_next _ _ ?_; simp only [↓steady_whenUp, ↓steady_mk, ↓steady_eta, ↓hk, steady_ite, steady_ite_snd, steady_foldl, ite_self, implies_true])
    | simp only [↓steady_whenUp, ↓steady_mk, ↓steady_eta, ↓hk, steady_ite, steady_ite_snd, steady_foldl, ite_self, implies_true]

theorem steady_audioStepped (t0 : Nat) (s : State)  : steady (audioStepped t0 s) = steady s := by
  unfold audioStepped
  simp only [↓steady_mk, ↓steady_eta, steady_ite, steady_ite_snd, steady_foldl, ite_self, implies_true]

theorem steady_drainMgmt (s : State)  : steady (drainMgmt s) = steady s := by
  unfold drainMgmt
  simp only [↓steady_modPort, ↓steady_mk, ↓steady_eta, steady_ite, steady_ite_snd, steady_foldl, ite_self, implies_true]

theorem steady_startChannel (ch n : Nat) (s : State)  : steady (startChannel ch n s) = steady s := by
  unfold startChannel
  simp only [↓steady_beginPicture, ↓steady_chFlows, ↓steady_diverge, ↓steady_modYch, ↓steady_resyncBoundary, ↓steady_toChState, ↓steady_mk, ↓steady_eta, steady_ite, steady_ite_snd, steady_foldl, ite_self, implies_true]

theorem steady_realigned (ch n : Nat) (s : State)  : steady (realigned ch n s) = steady s := by
  unfold realigned
  simp only [↓steady_bump, ↓steady_modChan, ↓steady_raiseBit, ↓steady_mk, ↓steady_eta, steady_ite, steady_ite_snd, steady_foldl, ite_self, implies_true]

theorem steady_execReferenceEligible (src : RefSource) (off : Int) (s : State)  : SteadyO s (execReferenceEligible src off s) := by
  unfold execReferenceEligible
  (repeat' split) <;> first
    | (refine SteadyO_next _ _ ?_; simp only [↓steady_eligible, ↓steady_whenUp, ↓steady_mk, ↓steady_eta, steady_ite, steady_ite_snd, steady_foldl, ite_self, implies_true])
    | simp only [↓steady_eligible, ↓steady_whenUp, ↓steady_mk, ↓steady_eta, steady_ite, steady_ite_snd, steady_foldl, ite_self, implies_true]

theorem steady_execPtpLock (off : Int) (b : Nat) (s : State)  : SteadyO s (execPtpLock off b s) := by
  unfold execPtpLock
  (repeat' split) <;> first
    | (refine SteadyO_next _ _ ?_; simp only [↓steady_ptpLockOp, ↓steady_whenUp, ↓steady_mk, ↓steady_eta, steady_ite, steady_ite_snd, steady_foldl, ite_self, implies_true])
    | simp only [↓steady_ptpLockOp, ↓steady_whenUp, ↓steady_mk, ↓steady_eta, steady_ite, steady_ite_snd, steady_foldl, ite_self, implies_true]

theorem steady_execRef10mStop (s : State)  : SteadyO s (execRef10mStop s) := by
  unfold execRef10mStop
  (repeat' split) <;> first
    | (refine SteadyO_next _ _ ?_; simp only [↓steady_stopRef, ↓steady_whenUp, ↓steady_mk, ↓steady_eta, steady_ite, steady_ite_snd, steady_foldl, ite_self, implies_true])
    | simp only [↓steady_stopRef, ↓steady_whenUp, ↓steady_mk, ↓steady_eta, steady_ite, steady_ite_snd, steady_foldl, ite_self, implies_true]

theorem steady_execPpsStop (s : State)  : SteadyO s (execPpsStop s) := by
  unfold execPpsStop
  (repeat' split) <;> first
    | (refine SteadyO_next _ _ ?_; simp only [↓steady_stopRef, ↓steady_whenUp, ↓steady_mk, ↓steady_eta, steady_ite, steady_ite_snd, steady_foldl, ite_self, implies_true])
    | simp only [↓steady_stopRef, ↓steady_whenUp, ↓steady_mk, ↓steady_eta, steady_ite, steady_ite_snd, steady_foldl, ite_self, implies_true]

theorem steady_execPtpLost (s : State)  : SteadyO s (execPtpLost s) := by
  unfold execPtpLost
  (repeat' split) <;> first
    | (refine SteadyO_next _ _ ?_; simp only [↓steady_stopRef, ↓steady_whenUp, ↓steady_mk, ↓steady_eta, steady_ite, steady_ite_snd, steady_foldl, ite_self, implies_true])
    | simp only [↓steady_stopRef, ↓steady_whenUp, ↓steady_mk, ↓steady_eta, steady_ite, steady_ite_snd, steady_foldl, ite_self, implies_true]

theorem steady_execRefGlitch (pps : Bool) (s : State)  : SteadyO s (execRefGlitch pps s) := by
  unfold execRefGlitch
  (repeat' split) <;> first
    | (refine SteadyO_next _ _ ?_; simp only [↓steady_glitchOp, ↓steady_whenUp, ↓steady_mk, ↓steady_eta, steady_ite, steady_ite_snd, steady_foldl, ite_self, implies_true])
    | simp only [↓steady_glitchOp, ↓steady_whenUp, ↓steady_mk, ↓steady_eta, steady_ite, steady_ite_snd, steady_foldl, ite_self, implies_true]

theorem steady_execRefRefused (src : RefSource) (s : State)  : SteadyO s (execRefRefused src s) := by
  unfold execRefRefused
  (repeat' split) <;> first
    | (refine SteadyO_next _ _ ?_; simp only [↓steady_guard, ↓steady_refuseRef, ↓steady_whenUp, ↓steady_mk, ↓steady_eta, steady_ite, steady_ite_snd, steady_foldl, ite_self, implies_true])
    | simp only [↓steady_guard, ↓steady_refuseRef, ↓steady_whenUp, ↓steady_mk, ↓steady_eta, steady_ite, steady_ite_snd, steady_foldl, ite_self, implies_true]

theorem steady_execCrystalStop (s : State)  : SteadyO s (execCrystalStop s) := by
  unfold execCrystalStop
  (repeat' split) <;> first
    | (refine SteadyO_next _ _ ?_; simp only [↓steady_crystalFail, ↓steady_whenUp, ↓steady_mk, ↓steady_eta, steady_ite, steady_ite_snd, steady_foldl, ite_self, implies_true])
    | simp only [↓steady_crystalFail, ↓steady_whenUp, ↓steady_mk, ↓steady_eta, steady_ite, steady_ite_snd, steady_foldl, ite_self, implies_true]

theorem steady_execHoldoverUpdate (s : State)  : SteadyO s (execHoldoverUpdate s) := by
  unfold execHoldoverUpdate
  (repeat' split) <;> first
    | (refine SteadyO_next _ _ ?_; simp only [↓steady_holdTick, ↓steady_whenUp, ↓steady_mk, ↓steady_eta, steady_ite, steady_ite_snd, steady_foldl, ite_self, implies_true])
    | simp only [↓steady_holdTick, ↓steady_whenUp, ↓steady_mk, ↓steady_eta, steady_ite, steady_ite_snd, steady_foldl, ite_self, implies_true]

theorem steady_execReferenceEdge (pps : Bool) (res : Int) (s : State)  : SteadyO s (execReferenceEdge pps res s) := by
  unfold execReferenceEdge
  (repeat' split) <;> first
    | (refine SteadyO_next _ _ ?_; simp only [↓steady_edgeOp, ↓steady_whenUp, ↓steady_mk, ↓steady_eta, steady_ite, steady_ite_snd, steady_foldl, ite_self, implies_true])
    | simp only [↓steady_edgeOp, ↓steady_whenUp, ↓steady_mk, ↓steady_eta, steady_ite, steady_ite_snd, steady_foldl, ite_self, implies_true]

end Sys2Proof.Laws
end

