-- ==== Sys2Proof/Laws/SteadyCodingCmds.lean ====
section
/-! SUPPORT. What the operations of Machine/CodingCmds.lean leave steady: `steady` of the state after is that of the state before. -/

set_option linter.unusedSimpArgs false
set_option linter.unusedTactic false
set_option linter.unreachableTactic false
set_option linter.unnecessarySeqFocus false

namespace Sys2Proof.Laws

open Sys2Proof Sys2Proof.Machine

theorem steady_engineCorrects (d e : Nat) (s : State)  : steady (engineCorrects d e s) = steady s := by
  unfold engineCorrects
  simp only [↓steady_bump, ↓steady_raiseBit, ↓steady_mk, ↓steady_eta, steady_ite, steady_ite_snd, steady_foldl, ite_self, implies_true]

theorem steady_execPlantingInstant (ch k : Nat) (s : State)  : SteadyO s (execPlantingInstant ch k s) := by
  unfold execPlantingInstant
  simp only [↓steady_atChannel, ↓steady_plantOp, ↓steady_wakeItems, ↓steady_mk, ↓steady_eta, steady_ite, steady_ite_snd, steady_foldl, ite_self, implies_true]

end Sys2Proof.Laws
end

