-- ==== Sys2Proof/Laws/SteadyDecCmds.lean ====
section
/-! SUPPORT. What the operations of Machine/DecCmds.lean leave steady: `steady` of the state after is that of the state before. -/

set_option linter.unusedSimpArgs false
set_option linter.unusedTactic false
set_option linter.unreachableTactic false
set_option linter.unnecessarySeqFocus false

namespace Sys2Proof.Laws

open Sys2Proof Sys2Proof.Machine

theorem steady_atDec (d n : Nat) (s : State) (k : State → State) (hk : ∀ s, steady (k s) = steady s) : SteadyO s (atDec d n s k) := by
  unfold atDec
  (repeat' split) <;> first
    | (refine SteadyO_next _ _ ?_; simp only [↓steady_atDie, ↓steady_wakeItems, ↓steady_mk, ↓steady_eta, ↓hk, steady_ite, steady_ite_snd, steady_foldl, ite_self, implies_true])
    | simp only [↓steady_atDie, ↓steady_wakeItems, ↓steady_mk, ↓steady_eta, ↓hk, steady_ite, steady_ite_snd, steady_foldl, ite_self, implies_true]

theorem steady_execDueTime (d n : Nat) (s : State)  : SteadyO s (execDueTime d n s) := by
  unfold execDueTime
  simp only [↓steady_atDec, ↓steady_dueTimeOp, ↓steady_mk, ↓steady_eta, steady_ite, steady_ite_snd, steady_foldl, ite_self, implies_true]

end Sys2Proof.Laws
end

