-- ==== Sys2Proof/Laws/SteadyDspCmds.lean ====
section
/-! SUPPORT. What the operations of Machine/DspCmds.lean leave steady: `steady` of the state after is that of the state before. -/

set_option linter.unusedSimpArgs false
set_option linter.unusedTactic false
set_option linter.unreachableTactic false
set_option linter.unnecessarySeqFocus false

namespace Sys2Proof.Laws

open Sys2Proof Sys2Proof.Machine

theorem steady_windowEnds (d : Nat) (s : State)  : steady (windowEnds d s) = steady s := by
  rfl

theorem steady_execItemCreate (d o : Nat) (s : State)  : SteadyO s (execItemCreate d o s) := by
  unfold execItemCreate
  (repeat' split) <;> first
    | (refine SteadyO_next _ _ ?_; simp only [↓steady_atDie, ↓steady_itemCreateOp, ↓steady_mk, ↓steady_eta, steady_ite, steady_ite_snd, steady_foldl, ite_self, implies_true])
    | simp only [↓steady_atDie, ↓steady_itemCreateOp, ↓steady_mk, ↓steady_eta, steady_ite, steady_ite_snd, steady_foldl, ite_self, implies_true]

theorem steady_execQueueReevaluate (d t : Nat) (s : State)  : SteadyO s (execQueueReevaluate d t s) := by
  unfold execQueueReevaluate
  simp only [↓steady_atDie, ↓steady_reevaluateOp, ↓steady_mk, ↓steady_eta, steady_ite, steady_ite_snd, steady_foldl, ite_self, implies_true]

theorem steady_execItemDispatch (d unit t : Nat) (s : State)  : SteadyO s (execItemDispatch d unit t s) := by
  unfold execItemDispatch
  (repeat' split) <;> first
    | (refine SteadyO_next _ _ ?_; simp only [↓steady_atDie, ↓steady_dispatchOp, ↓steady_mk, ↓steady_eta, steady_ite, steady_ite_snd, steady_foldl, ite_self, implies_true])
    | simp only [↓steady_atDie, ↓steady_dispatchOp, ↓steady_mk, ↓steady_eta, steady_ite, steady_ite_snd, steady_foldl, ite_self, implies_true]

theorem steady_execTrackingWindowEnd (d : Nat) (s : State)  : SteadyO s (execTrackingWindowEnd d s) := by
  unfold execTrackingWindowEnd
  simp only [↓steady_atDie, ↓steady_trackEnd, ↓steady_mk, ↓steady_eta, steady_ite, steady_ite_snd, steady_foldl, ite_self, implies_true]

theorem steady_execDspWindowEnd (d : Nat) (s : State)  : SteadyO s (execDspWindowEnd d s) := by
  unfold execDspWindowEnd
  simp only [↓steady_atDie, ↓steady_windowEnds, ↓steady_mk, ↓steady_eta, steady_ite, steady_ite_snd, steady_foldl, ite_self, implies_true]

end Sys2Proof.Laws
end

