-- ==== Sys2Proof/Laws/SteadyFwCmds.lean ====
section
/-! SUPPORT. What the operations of Machine/FwCmds.lean leave steady: `steady` of the state after is that of the state before. -/

set_option linter.unusedSimpArgs false
set_option linter.unusedTactic false
set_option linter.unreachableTactic false
set_option linter.unnecessarySeqFocus false

namespace Sys2Proof.Laws

open Sys2Proof Sys2Proof.Machine

theorem steady_execFirmwareBoot (st ac pr : Bool) (s : State)  : SteadyO s (execFirmwareBoot st ac pr s) := by
  unfold execFirmwareBoot
  (repeat' split) <;> first
    | (refine SteadyO_next _ _ ?_; simp only [↓steady_fwBoot, ↓steady_guard, ↓steady_whenUp, ↓steady_mk, ↓steady_eta, steady_ite, steady_ite_snd, steady_foldl, ite_self, implies_true])
    | simp only [↓steady_fwBoot, ↓steady_guard, ↓steady_whenUp, ↓steady_mk, ↓steady_eta, steady_ite, steady_ite_snd, steady_foldl, ite_self, implies_true]

theorem steady_execFwWriteStaged (v : Word) (s : State)  : SteadyO s (execFwWriteStaged v s) := by
  unfold execFwWriteStaged
  (repeat' split) <;> first
    | (refine SteadyO_next _ _ ?_; simp only [↓steady_fwCommand, ↓steady_guard, ↓steady_whenUp, ↓steady_mk, ↓steady_eta, steady_ite, steady_ite_snd, steady_foldl, ite_self, implies_true])
    | simp only [↓steady_fwCommand, ↓steady_guard, ↓steady_whenUp, ↓steady_mk, ↓steady_eta, steady_ite, steady_ite_snd, steady_foldl, ite_self, implies_true]

theorem steady_execFwWriteSettings (v : Word) (s : State)  : SteadyO s (execFwWriteSettings v s) := by
  unfold execFwWriteSettings
  (repeat' split) <;> first
    | (refine SteadyO_next _ _ ?_; simp only [↓steady_fwCommand, ↓steady_guard, ↓steady_whenUp, ↓steady_mk, ↓steady_eta, steady_ite, steady_ite_snd, steady_foldl, ite_self, implies_true])
    | simp only [↓steady_fwCommand, ↓steady_guard, ↓steady_whenUp, ↓steady_mk, ↓steady_eta, steady_ite, steady_ite_snd, steady_foldl, ite_self, implies_true]

theorem steady_execFwEraseStaged (v : Word) (s : State)  : SteadyO s (execFwEraseStaged v s) := by
  unfold execFwEraseStaged
  (repeat' split) <;> first
    | (refine SteadyO_next _ _ ?_; simp only [↓steady_fwCommand, ↓steady_guard, ↓steady_whenUp, ↓steady_mk, ↓steady_eta, steady_ite, steady_ite_snd, steady_foldl, ite_self, implies_true])
    | simp only [↓steady_fwCommand, ↓steady_guard, ↓steady_whenUp, ↓steady_mk, ↓steady_eta, steady_ite, steady_ite_snd, steady_foldl, ite_self, implies_true]

theorem steady_execFwEraseSettings (v : Word) (s : State)  : SteadyO s (execFwEraseSettings v s) := by
  unfold execFwEraseSettings
  (repeat' split) <;> first
    | (refine SteadyO_next _ _ ?_; simp only [↓steady_fwCommand, ↓steady_guard, ↓steady_whenUp, ↓steady_mk, ↓steady_eta, steady_ite, steady_ite_snd, steady_foldl, ite_self, implies_true])
    | simp only [↓steady_fwCommand, ↓steady_guard, ↓steady_whenUp, ↓steady_mk, ↓steady_eta, steady_ite, steady_ite_snd, steady_foldl, ite_self, implies_true]

theorem steady_execFwConfirm (v : Word) (s : State)  : SteadyO s (execFwConfirm v s) := by
  unfold execFwConfirm
  (repeat' split) <;> first
    | (refine SteadyO_next _ _ ?_; simp only [↓steady_fwConfirm, ↓steady_whenUp, ↓steady_mk, ↓steady_eta, steady_ite, steady_ite_snd, steady_foldl, ite_self, implies_true])
    | simp only [↓steady_fwConfirm, ↓steady_whenUp, ↓steady_mk, ↓steady_eta, steady_ite, steady_ite_snd, steady_foldl, ite_self, implies_true]

theorem steady_countReads (ls : List MemRange) (s : State)  : steady (countReads ls s) = steady s := by
  unfold countReads
  simp only [↓steady_countRead, ↓steady_mk, ↓steady_eta, steady_ite, steady_ite_snd, steady_foldl, ite_self, implies_true]

theorem steady_execTackWrite (v : Word) (s : State)  : SteadyO s (execTackWrite v s) := by
  unfold execTackWrite
  (repeat' split) <;> first
    | (refine SteadyO_next _ _ ?_; simp only [↓steady_guard, ↓steady_tackCommand, ↓steady_whenUp, ↓steady_mk, ↓steady_eta, steady_ite, steady_ite_snd, steady_foldl, ite_self, implies_true])
    | simp only [↓steady_guard, ↓steady_tackCommand, ↓steady_whenUp, ↓steady_mk, ↓steady_eta, steady_ite, steady_ite_snd, steady_foldl, ite_self, implies_true]

theorem steady_execTackErase (v : Word) (s : State)  : SteadyO s (execTackErase v s) := by
  unfold execTackErase
  (repeat' split) <;> first
    | (refine SteadyO_next _ _ ?_; simp only [↓steady_guard, ↓steady_tackCommand, ↓steady_whenUp, ↓steady_mk, ↓steady_eta, steady_ite, steady_ite_snd, steady_foldl, ite_self, implies_true])
    | simp only [↓steady_guard, ↓steady_tackCommand, ↓steady_whenUp, ↓steady_mk, ↓steady_eta, steady_ite, steady_ite_snd, steady_foldl, ite_self, implies_true]

theorem steady_execTackAttest (v : Word) (s : State)  : SteadyO s (execTackAttest v s) := by
  unfold execTackAttest
  (repeat' split) <;> first
    | (refine SteadyO_next _ _ ?_; simp only [↓steady_guard, ↓steady_tackCommand, ↓steady_whenUp, ↓steady_mk, ↓steady_eta, steady_ite, steady_ite_snd, steady_foldl, ite_self, implies_true])
    | simp only [↓steady_guard, ↓steady_tackCommand, ↓steady_whenUp, ↓steady_mk, ↓steady_eta, steady_ite, steady_ite_snd, steady_foldl, ite_self, implies_true]

theorem steady_execTackCommandEnd (s : State)  : SteadyO s (execTackCommandEnd s) := by
  unfold execTackCommandEnd
  (repeat' split) <;> first
    | (refine SteadyO_next _ _ ?_; simp only [↓steady_tackEnd, ↓steady_whenUp, ↓steady_mk, ↓steady_eta, steady_ite, steady_ite_snd, steady_foldl, ite_self, implies_true])
    | simp only [↓steady_tackEnd, ↓steady_whenUp, ↓steady_mk, ↓steady_eta, steady_ite, steady_ite_snd, steady_foldl, ite_self, implies_true]

end Sys2Proof.Laws
end

