-- ==== Sys2Proof/Laws/SteadyIcCmds.lean ====
section
/-! SUPPORT. What the operations of Machine/IcCmds.lean leave steady: `steady` of the state after is that of the state before. -/

set_option linter.unusedSimpArgs false
set_option linter.unusedTactic false
set_option linter.unreachableTactic false
set_option linter.unnecessarySeqFocus false

namespace Sys2Proof.Laws

open Sys2Proof Sys2Proof.Machine

theorem steady_execIcMessageArrival (sender : Nat) (s : State)  : SteadyO s (execIcMessageArrival sender s) := by
  unfold execIcMessageArrival
  (repeat' split) <;> first
    | (refine SteadyO_next _ _ ?_; simp only [↓steady_icArrive, ↓steady_whenUp, ↓steady_mk, ↓steady_eta, steady_ite, steady_ite_snd, steady_foldl, ite_self, implies_true])
    | simp only [↓steady_icArrive, ↓steady_whenUp, ↓steady_mk, ↓steady_eta, steady_ite, steady_ite_snd, steady_foldl, ite_self, implies_true]

theorem steady_execIcDoorbell (core : Option Nat) (v : Word) (s : State)  : SteadyO s (execIcDoorbell core v s) := by
  unfold execIcDoorbell
  (repeat' split) <;> first
    | (refine SteadyO_next _ _ ?_; simp only [↓steady_icSend, ↓steady_whenUp, ↓steady_mk, ↓steady_eta, steady_ite, steady_ite_snd, steady_foldl, ite_self, implies_true])
    | simp only [↓steady_icSend, ↓steady_whenUp, ↓steady_mk, ↓steady_eta, steady_ite, steady_ite_snd, steady_foldl, ite_self, implies_true]

theorem steady_execIcPendClr (v : Word) (hit : Bool) (s : State)  : SteadyO s (execIcPendClr v hit s) := by
  unfold execIcPendClr
  (repeat' split) <;> first
    | (refine SteadyO_next _ _ ?_; simp only [↓steady_icClear, ↓steady_whenUp, ↓steady_mk, ↓steady_eta, steady_ite, steady_ite_snd, steady_foldl, ite_self, implies_true])
    | simp only [↓steady_icClear, ↓steady_whenUp, ↓steady_mk, ↓steady_eta, steady_ite, steady_ite_snd, steady_foldl, ite_self, implies_true]

theorem steady_execIcEnSet (v : Word) (s : State)  : SteadyO s (execIcEnSet v s) := by
  unfold execIcEnSet
  (repeat' split) <;> first
    | (refine SteadyO_next _ _ ?_; simp only [↓steady_icEnable, ↓steady_whenUp, ↓steady_mk, ↓steady_eta, steady_ite, steady_ite_snd, steady_foldl, ite_self, implies_true])
    | simp only [↓steady_icEnable, ↓steady_whenUp, ↓steady_mk, ↓steady_eta, steady_ite, steady_ite_snd, steady_foldl, ite_self, implies_true]

theorem steady_execIcEnClr (v : Word) (hit : Bool) (s : State)  : SteadyO s (execIcEnClr v hit s) := by
  unfold execIcEnClr
  (repeat' split) <;> first
    | (refine SteadyO_next _ _ ?_; simp only [↓steady_icEnable, ↓steady_whenUp, ↓steady_mk, ↓steady_eta, steady_ite, steady_ite_snd, steady_foldl, ite_self, implies_true])
    | simp only [↓steady_icEnable, ↓steady_whenUp, ↓steady_mk, ↓steady_eta, steady_ite, steady_ite_snd, steady_foldl, ite_self, implies_true]

theorem steady_execIcMaskSet (v : Word) (s : State)  : SteadyO s (execIcMaskSet v s) := by
  unfold execIcMaskSet
  (repeat' split) <;> first
    | (refine SteadyO_next _ _ ?_; simp only [↓steady_icMask, ↓steady_whenUp, ↓steady_mk, ↓steady_eta, steady_ite, steady_ite_snd, steady_foldl, ite_self, implies_true])
    | simp only [↓steady_icMask, ↓steady_whenUp, ↓steady_mk, ↓steady_eta, steady_ite, steady_ite_snd, steady_foldl, ite_self, implies_true]

theorem steady_execIcMaskClr (v : Word) (hit : Bool) (s : State)  : SteadyO s (execIcMaskClr v hit s) := by
  unfold execIcMaskClr
  (repeat' split) <;> first
    | (refine SteadyO_next _ _ ?_; simp only [↓steady_icMask, ↓steady_whenUp, ↓steady_mk, ↓steady_eta, steady_ite, steady_ite_snd, steady_foldl, ite_self, implies_true])
    | simp only [↓steady_icMask, ↓steady_whenUp, ↓steady_mk, ↓steady_eta, steady_ite, steady_ite_snd, steady_foldl, ite_self, implies_true]

theorem steady_execIcRemote (v : Word) (s : State)  : SteadyO s (execIcRemote v s) := by
  unfold execIcRemote
  (repeat' split) <;> first
    | (refine SteadyO_next _ _ ?_; simp only [↓steady_icRemote, ↓steady_whenUp, ↓steady_mk, ↓steady_eta, steady_ite, steady_ite_snd, steady_foldl, ite_self, implies_true])
    | simp only [↓steady_icRemote, ↓steady_whenUp, ↓steady_mk, ↓steady_eta, steady_ite, steady_ite_snd, steady_foldl, ite_self, implies_true]

theorem steady_execIcClaim (t : Nat) (late : List Nat) (s : State)  : SteadyO s (execIcClaim t late s) := by
  unfold execIcClaim
  (repeat' split) <;> first
    | (refine SteadyO_next _ _ ?_; simp only [↓steady_guard, ↓steady_icClaim, ↓steady_whenUp, ↓steady_mk, ↓steady_eta, steady_ite, steady_ite_snd, steady_foldl, ite_self, implies_true])
    | simp only [↓steady_guard, ↓steady_icClaim, ↓steady_whenUp, ↓steady_mk, ↓steady_eta, steady_ite, steady_ite_snd, steady_foldl, ite_self, implies_true]

theorem steady_execIcComplete (t : Nat) (v : Word) (s : State)  : SteadyO s (execIcComplete t v s) := by
  unfold execIcComplete
  (repeat' split) <;> first
    | (refine SteadyO_next _ _ ?_; simp only [↓steady_guard, ↓steady_icComplete, ↓steady_whenUp, ↓steady_mk, ↓steady_eta, steady_ite, steady_ite_snd, steady_foldl, ite_self, implies_true])
    | simp only [↓steady_guard, ↓steady_icComplete, ↓steady_whenUp, ↓steady_mk, ↓steady_eta, steady_ite, steady_ite_snd, steady_foldl, ite_self, implies_true]

theorem steady_execRoutingWrite (n : Nat) (v : Word) (s : State)  : SteadyO s (execRoutingWrite n v s) := by
  unfold execRoutingWrite
  (repeat' split) <;> first
    | (refine SteadyO_next _ _ ?_; simp only [↓steady_routeSource, ↓steady_whenUp, ↓steady_mk, ↓steady_eta, steady_ite, steady_ite_snd, steady_foldl, ite_self, implies_true])
    | simp only [↓steady_routeSource, ↓steady_whenUp, ↓steady_mk, ↓steady_eta, steady_ite, steady_ite_snd, steady_foldl, ite_self, implies_true]

theorem steady_execWakeTimeout (n : Nat) (s : State)  : SteadyO s (execWakeTimeout n s) := by
  unfold execWakeTimeout
  (repeat' split) <;> first
    | (refine SteadyO_next _ _ ?_; simp only [↓steady_wakeExpire, ↓steady_whenUp, ↓steady_mk, ↓steady_eta, steady_ite, steady_ite_snd, steady_foldl, ite_self, implies_true])
    | simp only [↓steady_wakeExpire, ↓steady_whenUp, ↓steady_mk, ↓steady_eta, steady_ite, steady_ite_snd, steady_foldl, ite_self, implies_true]

end Sys2Proof.Laws
end

