-- ==== Sys2Proof/Laws/SteadyMcCmds.lean ====
section
/-! SUPPORT. What the operations of Machine/McCmds.lean leave steady: `steady` of the state after is that of the state before. -/

set_option linter.unusedSimpArgs false
set_option linter.unusedTactic false
set_option linter.unreachableTactic false
set_option linter.unnecessarySeqFocus false

namespace Sys2Proof.Laws

open Sys2Proof Sys2Proof.Machine

theorem steady_execRefreshDue (d i : Nat) (s : State)  : SteadyO s (execRefreshDue d i s) := by
  unfold execRefreshDue
  (repeat' split) <;> first
    | (refine SteadyO_next _ _ ?_; simp only [↓steady_atDie, ↓steady_guard, ↓steady_refreshDue, ↓steady_selfRefresh, ↓steady_mk, ↓steady_eta, steady_ite, steady_ite_snd, steady_foldl, ite_self, implies_true])
    | simp only [↓steady_atDie, ↓steady_guard, ↓steady_refreshDue, ↓steady_selfRefresh, ↓steady_mk, ↓steady_eta, steady_ite, steady_ite_snd, steady_foldl, ite_self, implies_true]

theorem steady_execMr4PeriodicRead (d : Nat) (codes : List Nat) (s : State)  : SteadyO s (execMr4PeriodicRead d codes s) := by
  unfold execMr4PeriodicRead
  simp only [↓steady_atDie, ↓steady_guard, ↓steady_readRound, ↓steady_selfRefresh, ↓steady_mk, ↓steady_eta, steady_ite, steady_ite_snd, steady_foldl, ite_self, implies_true]

theorem steady_execThermalAlert (d : Nat) (codes : List Nat) (s : State)  : SteadyO s (execThermalAlert d codes s) := by
  unfold execThermalAlert
  simp only [↓steady_atDie, ↓steady_guard, ↓steady_readRound, ↓steady_selfRefresh, ↓steady_mk, ↓steady_eta, steady_ite, steady_ite_snd, steady_foldl, ite_self, implies_true]

theorem steady_execPanicEntry (d p l : Nat) (s : State)  : SteadyO s (execPanicEntry d p l s) := by
  unfold execPanicEntry
  (repeat' split) <;> first
    | (refine SteadyO_next _ _ ?_; simp only [↓steady_atDie, ↓steady_levelTo, ↓steady_mk, ↓steady_eta, steady_ite, steady_ite_snd, steady_foldl, ite_self, implies_true])
    | simp only [↓steady_atDie, ↓steady_levelTo, ↓steady_mk, ↓steady_eta, steady_ite, steady_ite_snd, steady_foldl, ite_self, implies_true]

theorem steady_execPanicExit (d p l : Nat) (s : State)  : SteadyO s (execPanicExit d p l s) := by
  unfold execPanicExit
  (repeat' split) <;> first
    | (refine SteadyO_next _ _ ?_; simp only [↓steady_atDie, ↓steady_levelTo, ↓steady_mk, ↓steady_eta, steady_ite, steady_ite_snd, steady_foldl, ite_self, implies_true])
    | simp only [↓steady_atDie, ↓steady_levelTo, ↓steady_mk, ↓steady_eta, steady_ite, steady_ite_snd, steady_foldl, ite_self, implies_true]

theorem steady_execPortRun (d p : Nat) (s : State)  : SteadyO s (execPortRun d p s) := by
  unfold execPortRun
  (repeat' split) <;> first
    | (refine SteadyO_next _ _ ?_; simp only [↓steady_atDie, ↓steady_bump, ↓steady_levelTo, ↓steady_raiseBit, ↓steady_mk, ↓steady_eta, steady_ite, steady_ite_snd, steady_foldl, ite_self, implies_true])
    | simp only [↓steady_atDie, ↓steady_bump, ↓steady_levelTo, ↓steady_raiseBit, ↓steady_mk, ↓steady_eta, steady_ite, steady_ite_snd, steady_foldl, ite_self, implies_true]

theorem steady_execPatrolPass (d : Nat) (singles doubles : List Nat) (s : State)  : SteadyO s (execPatrolPass d singles doubles s) := by
  unfold execPatrolPass
  simp only [↓steady_atDie, ↓steady_guard, ↓steady_patrol, ↓steady_mk, ↓steady_eta, steady_ite, steady_ite_snd, steady_foldl, ite_self, implies_true]

theorem steady_execApertureRead (x n : Nat) (e : EccEvent) (s : State)  : SteadyO s (execApertureRead x n e s) := by
  unfold execApertureRead
  (repeat' split) <;> first
    | (refine SteadyO_next _ _ ?_; simp only [↓steady_aperRead, ↓steady_guard, ↓steady_whenUp, ↓steady_mk, ↓steady_eta, steady_ite, steady_ite_snd, steady_foldl, ite_self, implies_true])
    | simp only [↓steady_aperRead, ↓steady_guard, ↓steady_whenUp, ↓steady_mk, ↓steady_eta, steady_ite, steady_ite_snd, steady_foldl, ite_self, implies_true]

end Sys2Proof.Laws
end

