-- ==== Sys2Proof/Laws/SteadyPower.lean ====
section
/-! SUPPORT. What the operations of Machine/Power.lean leave steady: `steady` of the state after is that of the state before. -/

set_option linter.unusedSimpArgs false
set_option linter.unusedTactic false
set_option linter.unreachableTactic false
set_option linter.unnecessarySeqFocus false

namespace Sys2Proof.Laws

open Sys2Proof Sys2Proof.Machine

theorem steady_origin (s : State)  : steady (origin s) = steady s := by
  rfl

theorem steady_linkReset (s : State)  : steady (linkReset s) = steady s := by
  unfold linkReset
  simp only [↓steady_bump, ↓steady_evalIc, ↓steady_mk, ↓steady_eta, steady_ite, steady_ite_snd, steady_foldl, ite_self, implies_true]

theorem steady_execPerstRelease (s : State)  : SteadyO s (execPerstRelease s) := by
  unfold execPerstRelease
  dsimp only
  (repeat' split) <;> first
    | (refine SteadyO_next _ _ ?_; simp only [↓steady_origin, ↓steady_mk, ↓steady_eta, steady_ite, steady_ite_snd, steady_foldl, ite_self, implies_true])
    | (refine SteadyO_next _ _ ?_; (repeat' split) <;> simp only [↓steady_origin, ↓steady_mk, ↓steady_eta, steady_ite, steady_ite_snd, steady_foldl, ite_self, implies_true])
    | simp only [↓steady_origin, ↓steady_mk, ↓steady_eta, steady_ite, steady_ite_snd, steady_foldl, ite_self, implies_true]

theorem steady_execPcieLinkReset (dropped : Nat) (s : State)  : SteadyO s (execPcieLinkReset dropped s) := by
  unfold execPcieLinkReset
  (repeat' split) <;> first
    | (refine SteadyO_next _ _ ?_; simp only [↓steady_bump, ↓steady_linkReset, ↓steady_whenUp, ↓steady_mk, ↓steady_eta, steady_ite, steady_ite_snd, steady_foldl, ite_self, implies_true])
    | simp only [↓steady_bump, ↓steady_linkReset, ↓steady_whenUp, ↓steady_mk, ↓steady_eta, steady_ite, steady_ite_snd, steady_foldl, ite_self, implies_true]

theorem steady_execResetRelease (s : State)  : SteadyO s (execResetRelease s) := by
  unfold execResetRelease
  (repeat' split) <;> first
    | (refine SteadyO_next _ _ ?_; simp only [↓steady_origin, ↓steady_mk, ↓steady_eta, steady_ite, steady_ite_snd, steady_foldl, ite_self, implies_true])
    | simp only [↓steady_origin, ↓steady_mk, ↓steady_eta, steady_ite, steady_ite_snd, steady_foldl, ite_self, implies_true]

theorem steady_execCtrlStoreZeroised (d : Nat) (s : State)  : SteadyO s (execCtrlStoreZeroised d s) := by
  unfold execCtrlStoreZeroised
  refine steady_atDie _ _ _ ?_
  intros
  simp only [↓steady_atDie, ↓steady_mk, ↓steady_eta, steady_ite, steady_ite_snd, steady_foldl, ite_self, implies_true]

theorem steady_execGranuleWiped (d : Nat) (s : State)  : SteadyO s (execGranuleWiped d s) := by
  unfold execGranuleWiped
  refine steady_atDie _ _ _ ?_
  intro s
  refine steady_guard _ _ _ ?_
  intro s
  first
    | rfl
    | (dsimp only; (repeat' split) <;> simp only [↓steady_atDie, ↓steady_guard, ↓steady_mk, ↓steady_eta, steady_ite, steady_ite_snd, steady_foldl, ite_self, implies_true])

theorem steady_execPackagePagesReady (s : State)  : SteadyO s (execPackagePagesReady s) := by
  exact SteadyO_next _ _ (steady_whenUp _ _ (fun s => steady_guard _ _ _ (fun _ => rfl)))

theorem steady_windowsBegin (d : Nat) (s : State)  : steady (windowsBegin d s) = steady s := by
  rfl

theorem steady_execSramZeroised (d : Nat) (s : State)  : SteadyO s (execSramZeroised d s) := by
  unfold execSramZeroised
  refine steady_atDie _ _ _ ?_
  intro s
  refine steady_guard _ _ _ ?_
  intro s
  first
    | rfl
    | (dsimp only; (repeat' split) <;> simp only [↓steady_atDie, ↓steady_guard, ↓steady_windowsBegin, ↓steady_mk, ↓steady_eta, steady_ite, steady_ite_snd, steady_foldl, ite_self, implies_true])

theorem steady_execDomainPowerUpDone (d i : Nat) (s : State)  : SteadyO s (execDomainPowerUpDone d i s) := by
  unfold execDomainPowerUpDone
  simp only [↓steady_atDie, ↓steady_bump, ↓steady_domainsSettled, ↓steady_guard, ↓steady_mk, ↓steady_eta, steady_ite, steady_ite_snd, steady_foldl, ite_self, implies_true]

theorem steady_execDomainPowerGoodTimeout (d i : Nat) (s : State)  : SteadyO s (execDomainPowerGoodTimeout d i s) := by
  unfold execDomainPowerGoodTimeout
  refine steady_atDie _ _ _ ?_
  intro s
  refine steady_guard _ _ _ ?_
  intro s
  first
    | rfl
    | (dsimp only; (repeat' split) <;> simp only [↓steady_atDie, ↓steady_domainFailed, ↓steady_guard, ↓steady_noteEngineLost, ↓steady_raiseBit, ↓steady_setFaults, ↓steady_mk, ↓steady_eta, steady_ite, steady_ite_snd, steady_foldl, ite_self, implies_true])

theorem steady_execDomainPowerDown (d i : Nat) (s : State)  : SteadyO s (execDomainPowerDown d i s) := by
  unfold execDomainPowerDown
  simp only [↓steady_atDie, ↓steady_bump, ↓steady_guard, ↓steady_mk, ↓steady_eta, steady_ite, steady_ite_snd, steady_foldl, ite_self, implies_true]

theorem steady_execDomainHoldWrite (d : Nat) (v : Word) (s : State)  : SteadyO s (execDomainHoldWrite d v s) := by
  unfold execDomainHoldWrite
  (repeat' split) <;> first
    | (refine SteadyO_next _ _ ?_; simp only [↓steady_powerNeeded, ↓steady_whenUp, ↓steady_mk, ↓steady_eta, steady_ite, steady_ite_snd, steady_foldl, ite_self, implies_true])
    | simp only [↓steady_powerNeeded, ↓steady_whenUp, ↓steady_mk, ↓steady_eta, steady_ite, steady_ite_snd, steady_foldl, ite_self, implies_true]

theorem steady_lcRefuse (s : State)  : steady (lcRefuse s) = steady s := by
  unfold lcRefuse
  simp only [↓steady_raiseBit, ↓steady_mk, ↓steady_eta, steady_ite, steady_ite_snd, steady_foldl, ite_self, implies_true]

theorem steady_execLcArm (v : Word) (s : State)  : SteadyO s (execLcArm v s) := by
  unfold execLcArm
  (repeat' split) <;> first
    | (refine SteadyO_next _ _ ?_; simp only [↓steady_guard, ↓steady_lcRefuse, ↓steady_whenUp, ↓steady_mk, ↓steady_eta, steady_ite, steady_ite_snd, steady_foldl, ite_self, implies_true])
    | simp only [↓steady_guard, ↓steady_lcRefuse, ↓steady_whenUp, ↓steady_mk, ↓steady_eta, steady_ite, steady_ite_snd, steady_foldl, ite_self, implies_true]

theorem steady_wipeTack (s : State)  : steady (wipeTack s) = steady s := by
  rfl

theorem steady_execLcArmTimeout (s : State)  : SteadyO s (execLcArmTimeout s) := by
  unfold execLcArmTimeout
  refine SteadyO_next _ _ (steady_whenUp _ _ ?_)
  intro s
  first
    | rfl
    | simp only [↓steady_whenUp, ↓steady_mk, ↓steady_eta, steady_ite, steady_ite_snd, steady_foldl, ite_self, implies_true]
    | (dsimp only; (repeat' split) <;> simp only [↓steady_whenUp, ↓steady_mk, ↓steady_eta, steady_ite, steady_ite_snd, steady_foldl, ite_self, implies_true])

theorem steady_enterSleep (d : Nat) (s0 : State)  : steady (enterSleep d s0) = steady s0 := by
  unfold enterSleep
  simp only [↓steady_dropReady, ↓steady_evalIc, ↓steady_laneOff, ↓steady_mk, ↓steady_eta, steady_ite, steady_ite_snd, steady_foldl, ite_self, implies_true]

theorem steady_evalSleep (d : Nat) (s : State)  : steady (evalSleep d s) = steady s := by
  unfold evalSleep
  simp only [↓steady_bump, ↓steady_enterSleep, ↓steady_raiseBit, ↓steady_mk, ↓steady_eta, steady_ite, steady_ite_snd, steady_foldl, ite_self, implies_true]

theorem steady_execDieSleepRequest (d : Nat) (s : State)  : SteadyO s (execDieSleepRequest d s) := by
  unfold execDieSleepRequest
  (repeat' split) <;> first
    | (refine SteadyO_next _ _ ?_; simp only [↓steady_evalSleep, ↓steady_whenUp, ↓steady_mk, ↓steady_eta, steady_ite, steady_ite_snd, steady_foldl, ite_self, implies_true])
    | simp only [↓steady_evalSleep, ↓steady_whenUp, ↓steady_mk, ↓steady_eta, steady_ite, steady_ite_snd, steady_foldl, ite_self, implies_true]

theorem steady_execDieAsleep (d : Nat) (s : State)  : SteadyO s (execDieAsleep d s) := by
  unfold execDieAsleep
  simp only [↓steady_atDie, ↓steady_bump, ↓steady_guard, ↓steady_selfRefresh, ↓steady_startWake, ↓steady_mk, ↓steady_eta, steady_ite, steady_ite_snd, steady_foldl, ite_self, implies_true]

theorem steady_execDieWakeRequest (d : Nat) (s : State)  : SteadyO s (execDieWakeRequest d s) := by
  unfold execDieWakeRequest
  (repeat' split) <;> first
    | (refine SteadyO_next _ _ ?_; simp only [↓steady_wakeRequest, ↓steady_whenUp, ↓steady_mk, ↓steady_eta, steady_ite, steady_ite_snd, steady_foldl, ite_self, implies_true])
    | simp only [↓steady_wakeRequest, ↓steady_whenUp, ↓steady_mk, ↓steady_eta, steady_ite, steady_ite_snd, steady_foldl, ite_self, implies_true]

theorem steady_wakeTo (d n : Nat) (s : State)  : steady (wakeTo d n s) = steady s := by
  rfl

theorem steady_wakeDomain (d i : Nat) (s : State)  : steady (wakeDomain d i s) = steady s := by
  rfl

theorem steady_execWakeDomainsUp (d : Nat) (s : State)  : SteadyO s (execWakeDomainsUp d s) := by
  unfold execWakeDomainsUp
  refine steady_atDie _ _ _ ?_
  intros
  simp only [↓steady_atDie, ↓steady_bump, ↓steady_guard, ↓steady_wakeDomain, ↓steady_wakeTo, ↓steady_mk, ↓steady_eta, steady_ite, steady_ite_snd, steady_foldl, ite_self, implies_true]

theorem steady_execWakeDramReady (d : Nat) (codes : List Nat) (s : State)  : SteadyO s (execWakeDramReady d codes s) := by
  unfold execWakeDramReady
  simp only [↓steady_atDie, ↓steady_guard, ↓steady_readClasses, ↓steady_selfRefresh, ↓steady_wakeTo, ↓steady_mk, ↓steady_eta, steady_ite, steady_ite_snd, steady_foldl, ite_self, implies_true]

theorem steady_execWakeInterruptRestore (d : Nat) (s : State)  : SteadyO s (execWakeInterruptRestore d s) := by
  unfold execWakeInterruptRestore
  simp only [↓steady_atDie, ↓steady_guard, ↓steady_restoreInterrupts, ↓steady_wakeTo, ↓steady_mk, ↓steady_eta, steady_ite, steady_ite_snd, steady_foldl, ite_self, implies_true]

theorem steady_execWakeSramZeroised (d : Nat) (s : State)  : SteadyO s (execWakeSramZeroised d s) := by
  unfold execWakeSramZeroised
  simp only [↓steady_atDie, ↓steady_guard, ↓steady_wakeTo, ↓steady_windowsBegin, ↓steady_mk, ↓steady_eta, steady_ite, steady_ite_snd, steady_foldl, ite_self, implies_true]

theorem steady_execWakeFirmwareStarted (d : Nat) (s : State)  : SteadyO s (execWakeFirmwareStarted d s) := by
  unfold execWakeFirmwareStarted
  refine steady_atDie _ _ _ ?_
  intros
  simp only [↓steady_atDie, ↓steady_evalSleep, ↓steady_guard, ↓steady_laneSearch, ↓steady_wakeTo, ↓steady_mk, ↓steady_eta, steady_ite, steady_ite_snd, steady_foldl, ite_self, implies_true]

end Sys2Proof.Laws
end

