-- ==== Sys2Proof/Laws/SteadyRegCmds.lean ====
section
/-! SUPPORT. What the operations of Machine/RegCmds.lean leave steady: `steady` of the state after is that of the state before. -/

set_option linter.unusedSimpArgs false
set_option linter.unusedTactic false
set_option linter.unreachableTactic false
set_option linter.unnecessarySeqFocus false

namespace Sys2Proof.Laws

open Sys2Proof Sys2Proof.Machine

theorem steady_outState (s : State) (o : Host.Outcome State Fault Refusal) (h : SteadyO s o) : steady (outState s o) = steady s := by
  unfold outState
  split
  · exact h _ rfl
  · rfl

theorem steady_via (f : State → Host.Outcome State Fault Refusal) (s : State) (hf : ∀ s, SteadyO s (f s)) : steady (via f s) = steady s := by
  unfold via
  exact steady_outState _ _ (hf s)

theorem steady_imaskSetOp (k : Nat) (v : Word) (s : State)  : steady (imaskSetOp k v s) = steady s := by
  rfl

theorem steady_imaskClrOp (k : Nat) (v : Word) (s : State)  : steady (imaskClrOp k v s) = steady s := by
  unfold imaskClrOp
  simp only [↓steady_setImask, ↓steady_mk, ↓steady_eta, steady_ite, steady_ite_snd, steady_foldl, ite_self, implies_true]

theorem steady_aliasWrite (k off : Nat) (v : Word) (s : State)  : steady (aliasWrite k off v s) = steady s := by
  unfold aliasWrite
  (repeat' split) <;> simp only [↓steady_modSet, ↓steady_raiseBit, ↓steady_mk, ↓steady_eta, steady_ite, steady_ite_snd, steady_foldl, ite_self, implies_true]

theorem steady_writeHeader (k off : Nat) (v : Word) (s : State)  : steady (writeHeader k off v s) = steady s := by
  unfold writeHeader
  simp only [↓steady_aliasWrite, ↓steady_clearStat, ↓steady_commitWrite, ↓steady_imaskClrOp, ↓steady_imaskSetOp, ↓steady_raise, ↓steady_setImask, ↓steady_writeAgain, ↓steady_writeEvt, ↓steady_mk, ↓steady_eta, steady_ite, steady_ite_snd, steady_foldl, ite_self, implies_true]

theorem steady_writeHost (off : Nat) (v : Word) (s : State)  : steady (writeHost off v s) = steady s := by
  unfold writeHost
  simp only [↓steady_aperPlace, ↓steady_bootAbortOp, ↓steady_holdRelease, ↓steady_mk, ↓steady_eta, steady_ite, steady_ite_snd, steady_foldl, ite_self, implies_true]

theorem steady_writeIc (off : Nat) (v : Word) (s : State)  : steady (writeIc off v s) = steady s := by
  unfold writeIc
  simp only [↓steady_icClear, ↓steady_icComplete, ↓steady_icEnable, ↓steady_icMask, ↓steady_icRemote, ↓steady_icSend, ↓steady_mk, ↓steady_eta, steady_ite, steady_ite_snd, steady_foldl, ite_self, implies_true]

theorem steady_writeSleep (v : Word) (s : State)  : steady (writeSleep v s) = steady s := by
  unfold writeSleep
  refine steady_foldl _ _ _ ?_
  intro s d
  split
  · rfl
  · refine steady_via _ _ ?_
    intro s
    split
    · exact steady_execDieSleepRequest _ _
    · exact steady_execDieWakeRequest _ _

theorem steady_writeFw (off : Nat) (v : Word) (s : State)  : steady (writeFw off v s) = steady s := by
  unfold writeFw
  simp only [↓steady_fwCommand, ↓steady_fwConfirm, ↓steady_mk, ↓steady_eta, steady_ite, steady_ite_snd, steady_foldl, ite_self, implies_true]

theorem steady_writeTack (off : Nat) (v : Word) (s : State)  : steady (writeTack off v s) = steady s := by
  unfold writeTack
  simp only [↓steady_tackCommand, ↓steady_mk, ↓steady_eta, steady_ite, steady_ite_snd, steady_foldl, ite_self, implies_true]

theorem steady_writePhy (l r : Nat) (v : Word) (s : State)  : steady (writePhy l r v s) = steady s := by
  unfold writePhy
  simp only [↓steady_writeEye, ↓steady_writeRxeq, ↓steady_writeTxeq, ↓steady_mk, ↓steady_eta, steady_ite, steady_ite_snd, steady_foldl, ite_self, implies_true]

theorem steady_writeDie (d off : Nat) (v : Word) (s : State)  : steady (writeDie d off v s) = steady s := by
  unfold writeDie
  (repeat' split) <;> simp only [↓steady_setReg, ↓steady_writePhy, ↓steady_mk, ↓steady_eta, steady_ite, steady_ite_snd, steady_foldl, ite_self, implies_true]

theorem steady_writeMc (d off : Nat) (v : Word) (s : State)  : steady (writeMc d off v s) = steady s := by
  unfold writeMc
  simp only [↓steady_clearErr, ↓steady_modMc, ↓steady_mk, ↓steady_eta, steady_ite, steady_ite_snd, steady_foldl, ite_self, implies_true]

theorem steady_writeDsp (d off : Nat) (v : Word) (s : State)  : steady (writeDsp d off v s) = steady s := by
  unfold writeDsp
  simp only [↓steady_modDsp, ↓steady_mk, ↓steady_eta, steady_ite, steady_ite_snd, steady_foldl, ite_self, implies_true]

theorem steady_writeFlow (d off : Nat) (v : Word) (s : State)  : steady (writeFlow d off v s) = steady s := by
  unfold writeFlow
  simp only [↓steady_quenchPorts, ↓steady_setReg, ↓steady_startFlows, ↓steady_stopFlows, ↓steady_unquenchPorts, ↓steady_mk, ↓steady_eta, steady_ite, steady_ite_snd, steady_foldl, ite_self, implies_true]

theorem steady_writeBar4 (o : Nat) (v : Word) (s : State)  : steady (writeBar4 o v s) = steady s := by
  unfold writeBar4
  simp only [↓steady_flushMsix, ↓steady_mk, ↓steady_eta, steady_ite, steady_ite_snd, steady_foldl, ite_self, implies_true]

theorem steady_writeWords (k : Nat → Word → State → State) (o size : Nat) (v : BitVec 64) (s : State) (hk : ∀ n w s, steady (k n w s) = steady s) : steady (writeWords k o size v s) = steady s := by
  unfold writeWords
  simp only [↓steady_mk, ↓steady_eta, ↓hk, steady_ite, steady_ite_snd, steady_foldl, ite_self, implies_true]

theorem steady_onPage (d p : Nat) (k : Nat → State → State) (s : State) (hk : ∀ n s, steady (k n s) = steady s) : SteadyO s (onPage d p k s) := by
  unfold onPage
  (repeat' split) <;> first
    | (refine SteadyO_next _ _ ?_; simp only [↓steady_guard, ↓steady_whenUp, ↓steady_mk, ↓steady_eta, ↓hk, steady_ite, steady_ite_snd, steady_foldl, ite_self, implies_true])
    | simp only [↓steady_guard, ↓steady_whenUp, ↓steady_mk, ↓steady_eta, ↓hk, steady_ite, steady_ite_snd, steady_foldl, ite_self, implies_true]

theorem steady_execStageWrite (req : Requester) (bar2 : Bool) (a size : Nat) (v : BitVec 64) (s : State)  : SteadyO s (execStageWrite req bar2 a size v s) := by
  unfold execStageWrite
  refine SteadyO_next _ _ (steady_whenUp _ _ (fun s => steady_guard _ _ _ (fun s => ?_)))
  split
  · exact steady_writeWords _ _ _ _ _ (fun n w s => steady_stageTable n w s)
  · exact steady_guard _ _ _ (fun s => steady_stagePage _ _ _ s)

theorem steady_execCommit (d p : Nat) (v : Word) (s : State)  : SteadyO s (execCommit d p v s) := by
  unfold execCommit
  simp only [↓steady_commitWrite, ↓steady_onPage, ↓steady_mk, ↓steady_eta, steady_ite, steady_ite_snd, steady_foldl, ite_self, implies_true]

theorem steady_execCommitCheckStart (s : State)  : SteadyO s (execCommitCheckStart s) := by
  unfold execCommitCheckStart
  (repeat' split) <;> first
    | (refine SteadyO_next _ _ ?_; simp only [↓steady_checkStart, ↓steady_whenUp, ↓steady_mk, ↓steady_eta, steady_ite, steady_ite_snd, steady_foldl, ite_self, implies_true])
    | simp only [↓steady_checkStart, ↓steady_whenUp, ↓steady_mk, ↓steady_eta, steady_ite, steady_ite_snd, steady_foldl, ite_self, implies_true]

theorem steady_execCommitCheckEnd (s : State)  : SteadyO s (execCommitCheckEnd s) := by
  unfold execCommitCheckEnd
  (repeat' split) <;> first
    | (refine SteadyO_next _ _ ?_; simp only [↓steady_checkEnd, ↓steady_whenUp, ↓steady_mk, ↓steady_eta, steady_ite, steady_ite_snd, steady_foldl, ite_self, implies_true])
    | simp only [↓steady_checkEnd, ↓steady_whenUp, ↓steady_mk, ↓steady_eta, steady_ite, steady_ite_snd, steady_foldl, ite_self, implies_true]

theorem steady_execStatClear (d p : Nat) (v hit : Word) (s : State)  : SteadyO s (execStatClear d p v hit s) := by
  unfold execStatClear
  simp only [↓steady_clearStat, ↓steady_onPage, ↓steady_mk, ↓steady_eta, steady_ite, steady_ite_snd, steady_foldl, ite_self, implies_true]

theorem steady_execStatSet (d p : Nat) (v : Word) (s : State)  : SteadyO s (execStatSet d p v s) := by
  unfold execStatSet
  simp only [↓steady_onPage, ↓steady_raise, ↓steady_mk, ↓steady_eta, steady_ite, steady_ite_snd, steady_foldl, ite_self, implies_true]

theorem steady_execStatAgainClear (d p : Nat) (v : Word) (hit : Bool) (s : State)  : SteadyO s (execStatAgainClear d p v hit s) := by
  unfold execStatAgainClear
  simp only [↓steady_onPage, ↓steady_writeAgain, ↓steady_mk, ↓steady_eta, steady_ite, steady_ite_snd, steady_foldl, ite_self, implies_true]

theorem steady_execImaskWrite (d p : Nat) (v : Word) (s : State)  : SteadyO s (execImaskWrite d p v s) := by
  unfold execImaskWrite
  simp only [↓steady_onPage, ↓steady_setImask, ↓steady_mk, ↓steady_eta, steady_ite, steady_ite_snd, steady_foldl, ite_self, implies_true]

theorem steady_execImaskSet (d p : Nat) (v : Word) (s : State)  : SteadyO s (execImaskSet d p v s) := by
  unfold execImaskSet
  simp only [↓steady_imaskSetOp, ↓steady_onPage, ↓steady_mk, ↓steady_eta, steady_ite, steady_ite_snd, steady_foldl, ite_self, implies_true]

theorem steady_execImaskClr (d p : Nat) (v : Word) (s : State)  : SteadyO s (execImaskClr d p v s) := by
  unfold execImaskClr
  simp only [↓steady_imaskClrOp, ↓steady_onPage, ↓steady_mk, ↓steady_eta, steady_ite, steady_ite_snd, steady_foldl, ite_self, implies_true]

theorem steady_counterRead (req : Requester) (k n : Nat) (s : State)  : steady (counterRead req k n s) = steady s := by
  rfl

theorem steady_execCounterLowRead (req : Requester) (d p n : Nat) (s : State)  : SteadyO s (execCounterLowRead req d p n s) := by
  unfold execCounterLowRead
  simp only [↓steady_counterRead, ↓steady_guard, ↓steady_onPage, ↓steady_mk, ↓steady_eta, steady_ite, steady_ite_snd, steady_foldl, ite_self, implies_true]

theorem steady_timeSnap (req : Requester) (s : State)  : steady (timeSnap req s) = steady s := by
  rfl

theorem steady_execTimeSnapRead (req : Requester) (s : State)  : SteadyO s (execTimeSnapRead req s) := by
  unfold execTimeSnapRead
  (repeat' split) <;> first
    | (refine SteadyO_next _ _ ?_; simp only [↓steady_guard, ↓steady_timeSnap, ↓steady_whenUp, ↓steady_mk, ↓steady_eta, steady_ite, steady_ite_snd, steady_foldl, ite_self, implies_true])
    | simp only [↓steady_guard, ↓steady_timeSnap, ↓steady_whenUp, ↓steady_mk, ↓steady_eta, steady_ite, steady_ite_snd, steady_foldl, ite_self, implies_true]

theorem steady_barnRead (req : Requester) (k : Nat) (s : State)  : steady (barnRead req k s) = steady s := by
  unfold barnRead
  simp only [↓steady_emit, ↓steady_latch, ↓steady_mk, ↓steady_eta, steady_ite, steady_ite_snd, steady_foldl, ite_self, implies_true]

theorem steady_execBarnMarkRead (req : Requester) (d e : Nat) (s : State)  : SteadyO s (execBarnMarkRead req d e s) := by
  unfold execBarnMarkRead
  simp only [↓steady_barnRead, ↓steady_guard, ↓steady_onPage, ↓steady_mk, ↓steady_eta, steady_ite, steady_ite_snd, steady_foldl, ite_self, implies_true]

theorem steady_yokeRead (req : Requester) (take : Bool) (s : State)  : steady (yokeRead req take s) = steady s := by
  rfl

theorem steady_execYokeSinceRead (req : Requester) (take : Bool) (s : State)  : SteadyO s (execYokeSinceRead req take s) := by
  unfold execYokeSinceRead
  (repeat' split) <;> first
    | (refine SteadyO_next _ _ ?_; simp only [↓steady_guard, ↓steady_whenUp, ↓steady_yokeRead, ↓steady_mk, ↓steady_eta, steady_ite, steady_ite_snd, steady_foldl, ite_self, implies_true])
    | simp only [↓steady_guard, ↓steady_whenUp, ↓steady_yokeRead, ↓steady_mk, ↓steady_eta, steady_ite, steady_ite_snd, steady_foldl, ite_self, implies_true]

end Sys2Proof.Laws
end

