-- ==== Sys2Proof/Laws/SteadyHostCmds.lean ====
section
/-! SUPPORT. What the operations of Machine/HostCmds.lean leave steady: `steady` of the state after is that of the state before. -/

set_option linter.unusedSimpArgs false
set_option linter.unusedTactic false
set_option linter.unreachableTactic false
set_option linter.unnecessarySeqFocus false

namespace Sys2Proof.Laws

open Sys2Proof Sys2Proof.Machine

theorem steady_functionChanged (s0 s : State)  : steady (functionChanged s0 s) = steady s := by
  unfold functionChanged
  simp only [↓steady_evalIc, ↓steady_flushMsix, ↓steady_targetsWoke, ↓steady_mk, ↓steady_eta, steady_ite, steady_ite_snd, steady_foldl, ite_self, implies_true]

theorem steady_linkUp (speed width : Nat) (flit : Bool) (s : State)  : steady (linkUp speed width flit s) = steady s := by
  unfold linkUp
  simp only [↓steady_functionChanged, ↓steady_raiseBit, ↓steady_mk, ↓steady_eta, steady_ite, steady_ite_snd, steady_foldl, ite_self, implies_true]

theorem steady_configWrite (msixEn funcMask busMaster d3 : Bool) (s : State)  : steady (configWrite msixEn funcMask busMaster d3 s) = steady s := by
  unfold configWrite
  simp only [↓steady_functionChanged, ↓steady_mk, ↓steady_eta, steady_ite, steady_ite_snd, steady_foldl, ite_self, implies_true]

theorem steady_execPcieLinkUp (speed width : Nat) (flit : Bool) (s : State)  : SteadyO s (execPcieLinkUp speed width flit s) := by
  unfold execPcieLinkUp
  (repeat' split) <;> first
    | (refine SteadyO_next _ _ ?_; simp only [↓steady_linkUp, ↓steady_whenUp, ↓steady_mk, ↓steady_eta, steady_ite, steady_ite_snd, steady_foldl, ite_self, implies_true])
    | simp only [↓steady_linkUp, ↓steady_whenUp, ↓steady_mk, ↓steady_eta, steady_ite, steady_ite_snd, steady_foldl, ite_self, implies_true]

theorem steady_execPcieConfigWrite (msixEn funcMask busMaster d3 : Bool) (s : State)  : SteadyO s (execPcieConfigWrite msixEn funcMask busMaster d3 s) := by
  unfold execPcieConfigWrite
  (repeat' split) <;> first
    | (refine SteadyO_next _ _ ?_; simp only [↓steady_configWrite, ↓steady_whenUp, ↓steady_mk, ↓steady_eta, steady_ite, steady_ite_snd, steady_foldl, ite_self, implies_true])
    | simp only [↓steady_configWrite, ↓steady_whenUp, ↓steady_mk, ↓steady_eta, steady_ite, steady_ite_snd, steady_foldl, ite_self, implies_true]

theorem steady_execHostAperWrite (v : Word) (s : State)  : SteadyO s (execHostAperWrite v s) := by
  unfold execHostAperWrite
  (repeat' split) <;> first
    | (refine SteadyO_next _ _ ?_; simp only [↓steady_aperPlace, ↓steady_guard, ↓steady_whenUp, ↓steady_mk, ↓steady_eta, steady_ite, steady_ite_snd, steady_foldl, ite_self, implies_true])
    | simp only [↓steady_aperPlace, ↓steady_guard, ↓steady_whenUp, ↓steady_mk, ↓steady_eta, steady_ite, steady_ite_snd, steady_foldl, ite_self, implies_true]

theorem steady_execBootLoadStart (s : State)  : SteadyO s (execBootLoadStart s) := by
  unfold execBootLoadStart
  (repeat' split) <;> first
    | (refine SteadyO_next _ _ ?_; simp only [↓steady_bootStartOp, ↓steady_whenUp, ↓steady_mk, ↓steady_eta, steady_ite, steady_ite_snd, steady_foldl, ite_self, implies_true])
    | simp only [↓steady_bootStartOp, ↓steady_whenUp, ↓steady_mk, ↓steady_eta, steady_ite, steady_ite_snd, steady_foldl, ite_self, implies_true]

theorem steady_execHostBootHoldRelease (v : Word) (s : State)  : SteadyO s (execHostBootHoldRelease v s) := by
  unfold execHostBootHoldRelease
  (repeat' split) <;> first
    | (refine SteadyO_next _ _ ?_; simp only [↓steady_guard, ↓steady_holdRelease, ↓steady_whenUp, ↓steady_mk, ↓steady_eta, steady_ite, steady_ite_snd, steady_foldl, ite_self, implies_true])
    | simp only [↓steady_guard, ↓steady_holdRelease, ↓steady_whenUp, ↓steady_mk, ↓steady_eta, steady_ite, steady_ite_snd, steady_foldl, ite_self, implies_true]

theorem steady_execHostBootAbort (v : Word) (s : State)  : SteadyO s (execHostBootAbort v s) := by
  unfold execHostBootAbort
  (repeat' split) <;> first
    | (refine SteadyO_next _ _ ?_; simp only [↓steady_bootAbortOp, ↓steady_guard, ↓steady_whenUp, ↓steady_mk, ↓steady_eta, steady_ite, steady_ite_snd, steady_foldl, ite_self, implies_true])
    | simp only [↓steady_bootAbortOp, ↓steady_guard, ↓steady_whenUp, ↓steady_mk, ↓steady_eta, steady_ite, steady_ite_snd, steady_foldl, ite_self, implies_true]

theorem steady_execNmosHeartbeat (ok : Bool) (s : State)  : SteadyO s (execNmosHeartbeat ok s) := by
  unfold execNmosHeartbeat
  (repeat' split) <;> first
    | (refine SteadyO_next _ _ ?_; simp only [↓steady_nmosOp, ↓steady_whenUp, ↓steady_mk, ↓steady_eta, steady_ite, steady_ite_snd, steady_foldl, ite_self, implies_true])
    | simp only [↓steady_nmosOp, ↓steady_whenUp, ↓steady_mk, ↓steady_eta, steady_ite, steady_ite_snd, steady_foldl, ite_self, implies_true]

theorem steady_execIs05Patch (receiver : Bool) (e : Nat) (words : List (Nat × Word)) (readOnly : Bool) (at' : Option Nat) (s : State)  : SteadyO s (execIs05Patch receiver e words readOnly at' s) := by
  unfold execIs05Patch
  (repeat' split) <;> first
    | (refine SteadyO_next _ _ ?_; simp only [↓steady_is05PatchOp, ↓steady_whenUp, ↓steady_mk, ↓steady_eta, steady_ite, steady_ite_snd, steady_foldl, ite_self, implies_true])
    | simp only [↓steady_is05PatchOp, ↓steady_whenUp, ↓steady_mk, ↓steady_eta, steady_ite, steady_ite_snd, steady_foldl, ite_self, implies_true]

theorem steady_execIs05Activation (s : State)  : SteadyO s (execIs05Activation s) := by
  unfold execIs05Activation
  (repeat' split) <;> first
    | (refine SteadyO_next _ _ ?_; simp only [↓steady_is05ActivationOp, ↓steady_whenUp, ↓steady_mk, ↓steady_eta, steady_ite, steady_ite_snd, steady_foldl, ite_self, implies_true])
    | simp only [↓steady_is05ActivationOp, ↓steady_whenUp, ↓steady_mk, ↓steady_eta, steady_ite, steady_ite_snd, steady_foldl, ite_self, implies_true]

theorem steady_execDelayReqSend (l : Nat) (s : State)  : SteadyO s (execDelayReqSend l s) := by
  unfold execDelayReqSend
  (repeat' split) <;> first
    | (refine SteadyO_next _ _ ?_; simp only [↓steady_delayReqOp, ↓steady_whenUp, ↓steady_mk, ↓steady_eta, steady_ite, steady_ite_snd, steady_foldl, ite_self, implies_true])
    | simp only [↓steady_delayReqOp, ↓steady_whenUp, ↓steady_mk, ↓steady_eta, steady_ite, steady_ite_snd, steady_foldl, ite_self, implies_true]

end Sys2Proof.Laws
end

