-- ==== Sys2Proof/Laws/SteadyIngestCmds.lean ====
section
/-! SUPPORT. What the operations of Machine/IngestCmds.lean leave steady: `steady` of the state after is that of the state before. -/

set_option linter.unusedSimpArgs false
set_option linter.unusedTactic false
set_option linter.unreachableTactic false
set_option linter.unnecessarySeqFocus false

namespace Sys2Proof.Laws

open Sys2Proof Sys2Proof.Machine

theorem steady_acceptSync (gm : Nat) (li : Int) (s : State)  : steady (acceptSync gm li s) = steady s := by
  unfold acceptSync
  simp only [↓steady_retarget, ↓steady_mk, ↓steady_eta, steady_ite, steady_ite_snd, steady_foldl, ite_self, implies_true]

theorem steady_takePtp (l at_ : Nat) (from_ : Word) (b : Body) (s : State)  : steady (takePtp l at_ from_ b s) = steady s := by
  unfold takePtp
  (repeat' split) <;> simp only [↓steady_acceptSync, ↓steady_draw, ↓steady_modPtp, ↓steady_mk, ↓steady_eta, steady_ite, steady_ite_snd, steady_foldl, ite_self, implies_true]

theorem steady_toTarget (e t : Nat) (b : Body) (s : State)  : steady (toTarget e t b s) = steady s := by
  unfold toTarget
  dsimp only
  (repeat' split) <;> simp only [↓steady_mergeCopy, ↓steady_takeAnc, ↓steady_takeAudio, ↓steady_takeCompressed, ↓steady_takeVideo, ↓steady_mk, ↓steady_eta, steady_ite, steady_ite_snd, steady_foldl, ite_self, implies_true]

theorem steady_matched (e : Nat) (f : Frame) (s : State)  : steady (matched e f s) = steady s := by
  unfold matched
  simp only [↓steady_bump, ↓steady_police, ↓steady_toTarget, ↓steady_mk, ↓steady_eta, steady_ite, steady_ite_snd, steady_foldl, ite_self, implies_true]

theorem steady_toMgmt (l : Nat) (f : Frame) (s : State)  : steady (toMgmt l f s) = steady s := by
  unfold toMgmt
  dsimp only
  (repeat' split) <;> simp only [↓steady_bump, ↓steady_command, ↓steady_mgmtArrive, ↓steady_modPort, ↓steady_raiseBit, ↓steady_mk, ↓steady_eta, steady_ite, steady_ite_snd, steady_foldl, ite_self, implies_true]

theorem steady_handleFrame (p : Nat) (f : Frame) (s : State)  : steady (handleFrame p f s) = steady s := by
  unfold handleFrame
  (repeat' split) <;> simp only [↓steady_bump, ↓steady_matched, ↓steady_raiseBit, ↓steady_takePtp, ↓steady_toMgmt, ↓steady_mk, ↓steady_eta, steady_ite, steady_ite_snd, steady_foldl, ite_self, implies_true]

theorem steady_portReceive (p : Nat) (f : Frame) (s : State)  : steady (portReceive p f s) = steady s := by
  unfold portReceive
  simp only [↓steady_bump, ↓steady_handleFrame, ↓steady_raiseBit, ↓steady_mk, ↓steady_eta, steady_ite, steady_ite_snd, steady_foldl, ite_self, implies_true]

theorem steady_strayFrame (l : Nat) (f : Frame) (s : State)  : steady (strayFrame l f s) = steady s := by
  unfold strayFrame
  simp only [↓steady_bump, ↓steady_raiseBit, ↓steady_mk, ↓steady_eta, steady_ite, steady_ite_snd, steady_foldl, ite_self, implies_true]

theorem steady_receiveFrame (f : Frame) (s : State)  : steady (receiveFrame f s) = steady s := by
  unfold receiveFrame
  dsimp only
  (repeat' split) <;> simp only [↓steady_advance, ↓steady_portReceive, ↓steady_strayFrame, ↓steady_wakeItems, ↓steady_mk, ↓steady_eta, steady_ite, steady_ite_snd, steady_foldl, ite_self, implies_true]

theorem steady_atFrame (f : Frame) (s : State) (k : State → State) (hk : ∀ s, steady (k s) = steady s) : SteadyO s (atFrame f s k) := by
  unfold atFrame
  (repeat' split) <;> first
    | (refine SteadyO_next _ _ ?_; simp only [↓steady_whenUp, ↓steady_mk, ↓steady_eta, ↓hk, steady_ite, steady_ite_snd, steady_foldl, ite_self, implies_true])
    | simp only [↓steady_whenUp, ↓steady_mk, ↓steady_eta, ↓hk, steady_ite, steady_ite_snd, steady_foldl, ite_self, implies_true]

theorem steady_atSlot (d n : Nat) (s : State) (k : State → State) (hk : ∀ s, steady (k s) = steady s) : SteadyO s (atSlot d n s k) := by
  unfold atSlot
  (repeat' split) <;> first
    | (refine SteadyO_next _ _ ?_; simp only [↓steady_atDie, ↓steady_mk, ↓steady_eta, ↓hk, steady_ite, steady_ite_snd, steady_foldl, ite_self, implies_true])
    | simp only [↓steady_atDie, ↓steady_mk, ↓steady_eta, ↓hk, steady_ite, steady_ite_snd, steady_foldl, ite_self, implies_true]

theorem steady_execFrameReceived (f : Frame) (s : State)  : SteadyO s (execFrameReceived f s) := by
  unfold execFrameReceived
  simp only [↓steady_atFrame, ↓steady_receiveFrame, ↓steady_mk, ↓steady_eta, steady_ite, steady_ite_snd, steady_foldl, ite_self, implies_true]

theorem steady_execLineFill (d n m y : Nat) (s : State)  : SteadyO s (execLineFill d n m y s) := by
  unfold execLineFill
  simp only [↓steady_atSlot, ↓steady_lineFillOp, ↓steady_wakeItems, ↓steady_mk, ↓steady_eta, steady_ite, steady_ite_snd, steady_foldl, ite_self, implies_true]

theorem steady_fillEnds (d n m y : Nat) (s : State)  : steady (fillEnds d n m y s) = steady s := by
  unfold fillEnds
  simp only [↓steady_fillEndOp, ↓steady_sourceMissing, ↓steady_mk, ↓steady_eta, steady_ite, steady_ite_snd, steady_foldl, ite_self, implies_true]

theorem steady_execFillEnd (d n m y : Nat) (s : State)  : SteadyO s (execFillEnd d n m y s) := by
  unfold execFillEnd
  simp only [↓steady_atSlot, ↓steady_fillEnds, ↓steady_wakeItems, ↓steady_mk, ↓steady_eta, steady_ite, steady_ite_snd, steady_foldl, ite_self, implies_true]

theorem steady_execPathDown (e t : Nat) (s : State)  : SteadyO s (execPathDown e t s) := by
  unfold execPathDown
  (repeat' split) <;> first
    | (refine SteadyO_next _ _ ?_; simp only [↓steady_pathDownOp, ↓steady_whenUp, ↓steady_mk, ↓steady_eta, steady_ite, steady_ite_snd, steady_foldl, ite_self, implies_true])
    | simp only [↓steady_pathDownOp, ↓steady_whenUp, ↓steady_mk, ↓steady_eta, steady_ite, steady_ite_snd, steady_foldl, ite_self, implies_true]

theorem steady_execCompressedGapLost (d n : Nat) (s : State)  : SteadyO s (execCompressedGapLost d n s) := by
  unfold execCompressedGapLost
  simp only [↓steady_atSlot, ↓steady_gapLost, ↓steady_mk, ↓steady_eta, steady_ite, steady_ite_snd, steady_foldl, ite_self, implies_true]

theorem steady_execIgmpReport (e : Nat) (s : State)  : SteadyO s (execIgmpReport e s) := by
  unfold execIgmpReport
  (repeat' split) <;> first
    | (refine SteadyO_next _ _ ?_; simp only [↓steady_igmpReportOp, ↓steady_whenUp, ↓steady_mk, ↓steady_eta, steady_ite, steady_ite_snd, steady_foldl, ite_self, implies_true])
    | simp only [↓steady_igmpReportOp, ↓steady_whenUp, ↓steady_mk, ↓steady_eta, steady_ite, steady_ite_snd, steady_foldl, ite_self, implies_true]

theorem steady_execCmdStop (f : Frame) (s : State)  : SteadyO s (execCmdStop f s) := by
  unfold execCmdStop
  simp only [↓steady_atFrame, ↓steady_guard, ↓steady_receiveFrame, ↓steady_mk, ↓steady_eta, steady_ite, steady_ite_snd, steady_foldl, ite_self, implies_true]

theorem steady_execCmdStart (f : Frame) (s : State)  : SteadyO s (execCmdStart f s) := by
  unfold execCmdStart
  simp only [↓steady_atFrame, ↓steady_guard, ↓steady_receiveFrame, ↓steady_mk, ↓steady_eta, steady_ite, steady_ite_snd, steady_foldl, ite_self, implies_true]

theorem steady_execCmdQuench (f : Frame) (s : State)  : SteadyO s (execCmdQuench f s) := by
  unfold execCmdQuench
  simp only [↓steady_atFrame, ↓steady_guard, ↓steady_receiveFrame, ↓steady_mk, ↓steady_eta, steady_ite, steady_ite_snd, steady_foldl, ite_self, implies_true]

theorem steady_execCmdUnquench (f : Frame) (s : State)  : SteadyO s (execCmdUnquench f s) := by
  unfold execCmdUnquench
  simp only [↓steady_atFrame, ↓steady_guard, ↓steady_receiveFrame, ↓steady_mk, ↓steady_eta, steady_ite, steady_ite_snd, steady_foldl, ite_self, implies_true]

end Sys2Proof.Laws
end

