-- ==== Sys2Proof/Laws/SteadyLaneCmds.lean ====
section
/-! SUPPORT. What the operations of Machine/LaneCmds.lean leave steady: `steady` of the state after is that of the state before. -/

set_option linter.unusedSimpArgs false
set_option linter.unusedTactic false
set_option linter.unreachableTactic false
set_option linter.unnecessarySeqFocus false

namespace Sys2Proof.Laws

open Sys2Proof Sys2Proof.Machine

theorem steady_atLane (l : Nat) (s : State) (k : State → State) (hk : ∀ s, steady (k s) = steady s) : SteadyO s (atLane l s k) := by
  unfold atLane
  (repeat' split) <;> first
    | (refine SteadyO_next _ _ ?_; simp only [↓steady_whenUp, ↓steady_yieldOnConditions, ↓steady_mk, ↓steady_eta, ↓hk, steady_ite, steady_ite_snd, steady_foldl, ite_self, implies_true])
    | simp only [↓steady_whenUp, ↓steady_yieldOnConditions, ↓steady_mk, ↓steady_eta, ↓hk, steady_ite, steady_ite_snd, steady_foldl, ite_self, implies_true]

theorem steady_atYk (l : Nat) (s : State) (k : State → State) (hk : ∀ s, steady (k s) = steady s) : SteadyO s (atYk l s k) := by
  unfold atYk
  (repeat' split) <;> first
    | (refine SteadyO_next _ _ ?_; simp only [↓steady_atLane, ↓steady_mk, ↓steady_eta, ↓hk, steady_ite, steady_ite_snd, steady_foldl, ite_self, implies_true])
    | simp only [↓steady_atLane, ↓steady_mk, ↓steady_eta, ↓hk, steady_ite, steady_ite_snd, steady_foldl, ite_self, implies_true]

theorem steady_atBlock (d blk : Nat) (s : State) (k : Nat → State → State) (hk : ∀ n s, steady (k n s) = steady s) : SteadyO s (atBlock d blk s k) := by
  unfold atBlock
  (repeat' split) <;> first
    | (refine SteadyO_next _ _ ?_; simp only [↓steady_whenUp, ↓steady_mk, ↓steady_eta, ↓hk, steady_ite, steady_ite_snd, steady_foldl, ite_self, implies_true])
    | simp only [↓steady_whenUp, ↓steady_mk, ↓steady_eta, ↓hk, steady_ite, steady_ite_snd, steady_foldl, ite_self, implies_true]

theorem steady_calibrated (l : Nat) (ok : Bool) (s : State)  : steady (calibrated l ok s) = steady s := by
  unfold calibrated
  simp only [↓steady_laneSearch, ↓steady_setFault, ↓steady_mk, ↓steady_eta, steady_ite, steady_ite_snd, steady_foldl, ite_self, implies_true]

theorem steady_signalIn (l : Nat) (s : State)  : steady (signalIn l s) = steady s := by
  unfold signalIn
  simp only [↓steady_laneTo, ↓steady_modLane, ↓steady_mk, ↓steady_eta, steady_ite, steady_ite_snd, steady_foldl, ite_self, implies_true]

theorem steady_countLockLoss (l : Nat) (s : State)  : steady (countLockLoss l s) = steady s := by
  unfold countLockLoss
  simp only [↓steady_dieCtr, ↓steady_raiseBit, ↓steady_mk, ↓steady_eta, steady_ite, steady_ite_snd, steady_foldl, ite_self, implies_true]

theorem steady_signalOut (l : Nat) (s : State)  : steady (signalOut l s) = steady s := by
  unfold signalOut
  simp only [↓steady_countLockLoss, ↓steady_laneTo, ↓steady_modLane, ↓steady_mk, ↓steady_eta, steady_ite, steady_ite_snd, steady_foldl, ite_self, implies_true]

theorem steady_startTraining (l : Nat) (s : State)  : steady (startTraining l s) = steady s := by
  unfold startTraining
  simp only [↓steady_dieCtr, ↓steady_laneTo, ↓steady_mk, ↓steady_eta, steady_ite, steady_ite_snd, steady_foldl, ite_self, implies_true]

theorem steady_adapted (l ctle dfe1 : Nat) (s : State)  : steady (adapted l ctle dfe1 s) = steady s := by
  unfold adapted
  simp only [↓steady_laneTo, ↓steady_modLane, ↓steady_startTraining, ↓steady_mk, ↓steady_eta, steady_ite, steady_ite_snd, steady_foldl, ite_self, implies_true]

theorem steady_trainedOp (l : Nat) (preTx : Bool) (taps : Word) (s : State)  : steady (trainedOp l preTx taps s) = steady s := by
  unfold trainedOp
  simp only [↓steady_laneTo, ↓steady_modLane, ↓steady_mk, ↓steady_eta, steady_ite, steady_ite_snd, steady_foldl, ite_self, implies_true]

theorem steady_trainTimeout (l : Nat) (s : State)  : steady (trainTimeout l s) = steady s := by
  unfold trainTimeout
  simp only [↓steady_dieCtr, ↓steady_laneTo, ↓steady_modLane, ↓steady_raiseBit, ↓steady_mk, ↓steady_eta, steady_ite, steady_ite_snd, steady_foldl, ite_self, implies_true]

theorem steady_trainRetry (l : Nat) (s : State)  : steady (trainRetry l s) = steady s := by
  unfold trainRetry
  simp only [↓steady_modLane, ↓steady_startTraining, ↓steady_mk, ↓steady_eta, steady_ite, steady_ite_snd, steady_foldl, ite_self, implies_true]

theorem steady_lockOut (l : Nat) (s : State)  : steady (lockOut l s) = steady s := by
  unfold lockOut
  simp only [↓steady_countLockLoss, ↓steady_laneTo, ↓steady_modLane, ↓steady_mk, ↓steady_eta, steady_ite, steady_ite_snd, steady_foldl, ite_self, implies_true]

theorem steady_joinShares (l : Nat) (s : State)  : steady (joinShares l s) = steady s := by
  unfold joinShares
  simp only [↓steady_modLane, ↓steady_mk, ↓steady_eta, steady_ite, steady_ite_snd, steady_foldl, ite_self, implies_true]

theorem steady_fecBlock (l symbols words bad : Nat) (s0 : State)  : steady (fecBlock l symbols words bad s0) = steady s0 := by
  unfold fecBlock
  simp only [↓steady_allLinkEvents, ↓steady_dieCtr, ↓steady_joinShares, ↓steady_modLane, ↓steady_raiseN, ↓steady_mk, ↓steady_eta, steady_ite, steady_ite_snd, steady_foldl, ite_self, implies_true]

theorem steady_idleIn (l : Nat) (s : State)  : steady (idleIn l s) = steady s := by
  unfold idleIn
  simp only [↓steady_dieCtr, ↓steady_laneTo, ↓steady_mk, ↓steady_eta, steady_ite, steady_ite_snd, steady_foldl, ite_self, implies_true]

theorem steady_idleOut (l : Nat) (s : State)  : steady (idleOut l s) = steady s := by
  unfold idleOut
  simp only [↓steady_idleExit, ↓steady_mk, ↓steady_eta, steady_ite, steady_ite_snd, steady_foldl, ite_self, implies_true]

theorem steady_idleRefresh (l ctle dfe1 : Nat) (s : State)  : steady (idleRefresh l ctle dfe1 s) = steady s := by
  unfold idleRefresh
  simp only [↓steady_dieCtr, ↓steady_emit, ↓steady_modLane, ↓steady_mk, ↓steady_eta, steady_ite, steady_ite_snd, steady_foldl, ite_self, implies_true]

theorem steady_exitLate (l : Nat) (s : State)  : steady (exitLate l s) = steady s := by
  unfold exitLate
  simp only [↓steady_dieCtr, ↓steady_laneTo, ↓steady_modLane, ↓steady_raiseBit, ↓steady_mk, ↓steady_eta, steady_ite, steady_ite_snd, steady_foldl, ite_self, implies_true]

theorem steady_execLaneCalibrated (l : Nat) (ok : Bool) (s : State)  : SteadyO s (execLaneCalibrated l ok s) := by
  unfold execLaneCalibrated
  simp only [↓steady_atLane, ↓steady_calibrated, ↓steady_mk, ↓steady_eta, steady_ite, steady_ite_snd, steady_foldl, ite_self, implies_true]

theorem steady_execSignalDetect (l : Nat) (s : State)  : SteadyO s (execSignalDetect l s) := by
  unfold execSignalDetect
  simp only [↓steady_atLane, ↓steady_signalIn, ↓steady_mk, ↓steady_eta, steady_ite, steady_ite_snd, steady_foldl, ite_self, implies_true]

theorem steady_execSignalLoss (l : Nat) (s : State)  : SteadyO s (execSignalLoss l s) := by
  unfold execSignalLoss
  simp only [↓steady_atLane, ↓steady_signalOut, ↓steady_mk, ↓steady_eta, steady_ite, steady_ite_snd, steady_foldl, ite_self, implies_true]

theorem steady_execAdaptationConverged (l ctle dfe1 : Nat) (s : State)  : SteadyO s (execAdaptationConverged l ctle dfe1 s) := by
  unfold execAdaptationConverged
  simp only [↓steady_adapted, ↓steady_atLane, ↓steady_mk, ↓steady_eta, steady_ite, steady_ite_snd, steady_foldl, ite_self, implies_true]

theorem steady_execTrainingComplete (l : Nat) (preTx : Bool) (taps : Word) (s : State)  : SteadyO s (execTrainingComplete l preTx taps s) := by
  unfold execTrainingComplete
  simp only [↓steady_atLane, ↓steady_trainedOp, ↓steady_mk, ↓steady_eta, steady_ite, steady_ite_snd, steady_foldl, ite_self, implies_true]

theorem steady_execTrainingTimeout (l : Nat) (s : State)  : SteadyO s (execTrainingTimeout l s) := by
  unfold execTrainingTimeout
  simp only [↓steady_atLane, ↓steady_trainTimeout, ↓steady_mk, ↓steady_eta, steady_ite, steady_ite_snd, steady_foldl, ite_self, implies_true]

theorem steady_execTrainingRetry (l : Nat) (s : State)  : SteadyO s (execTrainingRetry l s) := by
  unfold execTrainingRetry
  simp only [↓steady_atLane, ↓steady_trainRetry, ↓steady_mk, ↓steady_eta, steady_ite, steady_ite_snd, steady_foldl, ite_self, implies_true]

theorem steady_execLockLoss (l : Nat) (s : State)  : SteadyO s (execLockLoss l s) := by
  unfold execLockLoss
  simp only [↓steady_atLane, ↓steady_lockOut, ↓steady_mk, ↓steady_eta, steady_ite, steady_ite_snd, steady_foldl, ite_self, implies_true]

theorem steady_execFecBlockEnd (l symbols words bad : Nat) (s : State)  : SteadyO s (execFecBlockEnd l symbols words bad s) := by
  unfold execFecBlockEnd
  simp only [↓steady_atLane, ↓steady_fecBlock, ↓steady_mk, ↓steady_eta, steady_ite, steady_ite_snd, steady_foldl, ite_self, implies_true]

theorem steady_execYkIdleEntry (l : Nat) (s : State)  : SteadyO s (execYkIdleEntry l s) := by
  unfold execYkIdleEntry
  simp only [↓steady_atYk, ↓steady_idleIn, ↓steady_mk, ↓steady_eta, steady_ite, steady_ite_snd, steady_foldl, ite_self, implies_true]

theorem steady_execYkIdleExit (l : Nat) (s : State)  : SteadyO s (execYkIdleExit l s) := by
  unfold execYkIdleExit
  simp only [↓steady_atYk, ↓steady_idleOut, ↓steady_mk, ↓steady_eta, steady_ite, steady_ite_snd, steady_foldl, ite_self, implies_true]

theorem steady_execYkIdleRefresh (l ctle dfe1 : Nat) (s : State)  : SteadyO s (execYkIdleRefresh l ctle dfe1 s) := by
  unfold execYkIdleRefresh
  simp only [↓steady_atYk, ↓steady_idleRefresh, ↓steady_mk, ↓steady_eta, steady_ite, steady_ite_snd, steady_foldl, ite_self, implies_true]

theorem steady_execYkExitLate (l : Nat) (s : State)  : SteadyO s (execYkExitLate l s) := by
  unfold execYkExitLate
  simp only [↓steady_atYk, ↓steady_exitLate, ↓steady_mk, ↓steady_eta, steady_ite, steady_ite_snd, steady_foldl, ite_self, implies_true]

theorem steady_execPhyTxeqWrite (d blk : Nat) (v : Word) (s : State)  : SteadyO s (execPhyTxeqWrite d blk v s) := by
  unfold execPhyTxeqWrite
  simp only [↓steady_atBlock, ↓steady_writeTxeq, ↓steady_mk, ↓steady_eta, steady_ite, steady_ite_snd, steady_foldl, ite_self, implies_true]

theorem steady_execPhyReadapt (d blk : Nat) (v : Word) (s : State)  : SteadyO s (execPhyReadapt d blk v s) := by
  unfold execPhyReadapt
  simp only [↓steady_atBlock, ↓steady_writeRxeq, ↓steady_mk, ↓steady_eta, steady_ite, steady_ite_snd, steady_foldl, ite_self, implies_true]

theorem steady_execEyeScanStart (d blk : Nat) (v : Word) (s : State)  : SteadyO s (execEyeScanStart d blk v s) := by
  unfold execEyeScanStart
  simp only [↓steady_atBlock, ↓steady_writeEye, ↓steady_mk, ↓steady_eta, steady_ite, steady_ite_snd, steady_foldl, ite_self, implies_true]

theorem steady_execEyeScanAbort (d blk : Nat) (v : Word) (s : State)  : SteadyO s (execEyeScanAbort d blk v s) := by
  unfold execEyeScanAbort
  simp only [↓steady_atBlock, ↓steady_writeEye, ↓steady_mk, ↓steady_eta, steady_ite, steady_ite_snd, steady_foldl, ite_self, implies_true]

theorem steady_execEyeCellDone (d blk n : Nat) (s : State)  : SteadyO s (execEyeCellDone d blk n s) := by
  unfold execEyeCellDone
  simp only [↓steady_atBlock, ↓steady_eyeCell, ↓steady_mk, ↓steady_eta, steady_ite, steady_ite_snd, steady_foldl, ite_self, implies_true]

end Sys2Proof.Laws
end

