-- ==== Sys2Proof/Laws/SteadyPaddockCmds.lean ====
section
/-! SUPPORT. What the operations of Machine/PaddockCmds.lean leave steady: `steady` of the state after is that of the state before. -/

set_option linter.unusedSimpArgs false
set_option linter.unusedTactic false
set_option linter.unreachableTactic false
set_option linter.unnecessarySeqFocus false

namespace Sys2Proof.Laws

open Sys2Proof Sys2Proof.Machine

theorem steady_execComposeStart (ch k : Nat) (s : State)  : SteadyO s (execComposeStart ch k s) := by
  unfold execComposeStart
  simp only [↓steady_atChannel, ↓steady_composeStartOp, ↓steady_wakeItems, ↓steady_mk, ↓steady_eta, steady_ite, steady_ite_snd, steady_foldl, ite_self, implies_true]

end Sys2Proof.Laws
end

