-- ==== Sys2Proof/Laws/SteadyYardCmds.lean ====
section
/-! SUPPORT. What the operations of Machine/YardCmds.lean leave steady: `steady` of the state after is that of the state before. -/

set_option linter.unusedSimpArgs false
set_option linter.unusedTactic false
set_option linter.unreachableTactic false
set_option linter.unnecessarySeqFocus false

namespace Sys2Proof.Laws

open Sys2Proof Sys2Proof.Machine

theorem steady_atEth (l : Nat) (s : State) (k : State → State) (hk : ∀ s, steady (k s) = steady s) : SteadyO s (atEth l s k) := by
  unfold atEth
  (repeat' split) <;> first
    | (refine SteadyO_next _ _ ?_; simp only [↓steady_whenUp, ↓steady_mk, ↓steady_eta, ↓hk, steady_ite, steady_ite_snd, steady_foldl, ite_self, implies_true])
    | simp only [↓steady_whenUp, ↓steady_mk, ↓steady_eta, ↓hk, steady_ite, steady_ite_snd, steady_foldl, ite_self, implies_true]

theorem steady_portDecides (l t : Nat) (s : State)  : steady (portDecides l t s) = steady s := by
  unfold portDecides
  simp only [↓steady_advance, ↓steady_refillPort, ↓steady_transmit, ↓steady_mk, ↓steady_eta, steady_ite, steady_ite_snd, steady_foldl, ite_self, implies_true]

theorem steady_onFlow (d : Nat) (s : State) (k : State → State) (hk : ∀ s, steady (k s) = steady s) : SteadyO s (onFlow d s k) := by
  unfold onFlow
  (repeat' split) <;> first
    | (refine SteadyO_next _ _ ?_; simp only [↓steady_guard, ↓steady_whenUp, ↓steady_mk, ↓steady_eta, ↓hk, steady_ite, steady_ite_snd, steady_foldl, ite_self, implies_true])
    | simp only [↓steady_guard, ↓steady_whenUp, ↓steady_mk, ↓steady_eta, ↓hk, steady_ite, steady_ite_snd, steady_foldl, ite_self, implies_true]

theorem steady_execPacketRelease (v : Nat) (s : State)  : SteadyO s (execPacketRelease v s) := by
  unfold execPacketRelease
  (repeat' split) <;> first
    | (refine SteadyO_next _ _ ?_; simp only [↓steady_releaseNext, ↓steady_whenUp, ↓steady_mk, ↓steady_eta, steady_ite, steady_ite_snd, steady_foldl, ite_self, implies_true])
    | simp only [↓steady_releaseNext, ↓steady_whenUp, ↓steady_mk, ↓steady_eta, steady_ite, steady_ite_snd, steady_foldl, ite_self, implies_true]

theorem steady_execPortTransmit (l t : Nat) (s : State)  : SteadyO s (execPortTransmit l t s) := by
  unfold execPortTransmit
  simp only [↓steady_atEth, ↓steady_portDecides, ↓steady_mk, ↓steady_eta, steady_ite, steady_ite_snd, steady_foldl, ite_self, implies_true]

theorem steady_execGateEntry (l : Nat) (s : State)  : SteadyO s (execGateEntry l s) := by
  unfold execGateEntry
  simp only [↓steady_atEth, ↓steady_gateBegins, ↓steady_mk, ↓steady_eta, steady_ite, steady_ite_snd, steady_foldl, ite_self, implies_true]

theorem steady_execListStart (l : Nat) (s : State)  : SteadyO s (execListStart l s) := by
  unfold execListStart
  simp only [↓steady_atEth, ↓steady_listStarts, ↓steady_mk, ↓steady_eta, steady_ite, steady_ite_snd, steady_foldl, ite_self, implies_true]

theorem steady_execSapAnnounce (s : State)  : SteadyO s (execSapAnnounce s) := by
  unfold execSapAnnounce
  (repeat' split) <;> first
    | (refine SteadyO_next _ _ ?_; simp only [↓steady_sapAnnounceOp, ↓steady_whenUp, ↓steady_mk, ↓steady_eta, steady_ite, steady_ite_snd, steady_foldl, ite_self, implies_true])
    | simp only [↓steady_sapAnnounceOp, ↓steady_whenUp, ↓steady_mk, ↓steady_eta, steady_ite, steady_ite_snd, steady_foldl, ite_self, implies_true]

theorem steady_execFlowStopSet (d w : Nat) (v : Word) (s : State)  : SteadyO s (execFlowStopSet d w v s) := by
  unfold execFlowStopSet
  simp only [↓steady_guard, ↓steady_onFlow, ↓steady_stopFlows, ↓steady_mk, ↓steady_eta, steady_ite, steady_ite_snd, steady_foldl, ite_self, implies_true]

theorem steady_execFlowStopClr (d w : Nat) (v : Word) (s : State)  : SteadyO s (execFlowStopClr d w v s) := by
  unfold execFlowStopClr
  simp only [↓steady_guard, ↓steady_onFlow, ↓steady_startFlows, ↓steady_mk, ↓steady_eta, steady_ite, steady_ite_snd, steady_foldl, ite_self, implies_true]

theorem steady_execFlowQuenchSet (d : Nat) (v : Word) (s : State)  : SteadyO s (execFlowQuenchSet d v s) := by
  unfold execFlowQuenchSet
  simp only [↓steady_onFlow, ↓steady_quenchPorts, ↓steady_mk, ↓steady_eta, steady_ite, steady_ite_snd, steady_foldl, ite_self, implies_true]

theorem steady_execFlowQuenchClr (d : Nat) (v : Word) (s : State)  : SteadyO s (execFlowQuenchClr d v s) := by
  unfold execFlowQuenchClr
  simp only [↓steady_onFlow, ↓steady_unquenchPorts, ↓steady_mk, ↓steady_eta, steady_ite, steady_ite_snd, steady_foldl, ite_self, implies_true]

end Sys2Proof.Laws
end

