-- ==== Sys2Proof/Laws/SteadyYokeCmds.lean ====
section
/-! SUPPORT. What the operations of Machine/YokeCmds.lean leave steady: `steady` of the state after is that of the state before. -/

set_option linter.unusedSimpArgs false
set_option linter.unusedTactic false
set_option linter.unreachableTactic false
set_option linter.unnecessarySeqFocus false

namespace Sys2Proof.Laws

open Sys2Proof Sys2Proof.Machine

theorem steady_execHelloReceived (h : YHdr) (p : Hello) (s : State)  : SteadyO s (execHelloReceived h p s) := by
  unfold execHelloReceived
  (repeat' split) <;> first
    | (refine SteadyO_next _ _ ?_; simp only [↓steady_helloOp, ↓steady_rxFrame, ↓steady_whenUp, ↓steady_mk, ↓steady_eta, steady_ite, steady_ite_snd, steady_foldl, ite_self, implies_true])
    | simp only [↓steady_helloOp, ↓steady_rxFrame, ↓steady_whenUp, ↓steady_mk, ↓steady_eta, steady_ite, steady_ite_snd, steady_foldl, ite_self, implies_true]

theorem steady_execBeatReceived (h : YHdr) (p : Beat) (s : State)  : SteadyO s (execBeatReceived h p s) := by
  unfold execBeatReceived
  (repeat' split) <;> first
    | (refine SteadyO_next _ _ ?_; simp only [↓steady_beatOp, ↓steady_rxFrame, ↓steady_whenUp, ↓steady_mk, ↓steady_eta, steady_ite, steady_ite_snd, steady_foldl, ite_self, implies_true])
    | simp only [↓steady_beatOp, ↓steady_rxFrame, ↓steady_whenUp, ↓steady_mk, ↓steady_eta, steady_ite, steady_ite_snd, steady_foldl, ite_self, implies_true]

theorem steady_execHeartbeatPulse (w : Nat) (s : State)  : SteadyO s (execHeartbeatPulse w s) := by
  unfold execHeartbeatPulse
  (repeat' split) <;> first
    | (refine SteadyO_next _ _ ?_; simp only [↓steady_pulseOp, ↓steady_whenUp, ↓steady_mk, ↓steady_eta, steady_ite, steady_ite_snd, steady_foldl, ite_self, implies_true])
    | simp only [↓steady_pulseOp, ↓steady_whenUp, ↓steady_mk, ↓steady_eta, steady_ite, steady_ite_snd, steady_foldl, ite_self, implies_true]

theorem steady_execHeartbeatMissed (link : Bool) (s : State)  : SteadyO s (execHeartbeatMissed link s) := by
  unfold execHeartbeatMissed
  (repeat' split) <;> first
    | (refine SteadyO_next _ _ ?_; simp only [↓steady_missedOp, ↓steady_whenUp, ↓steady_mk, ↓steady_eta, steady_ite, steady_ite_snd, steady_foldl, ite_self, implies_true])
    | simp only [↓steady_missedOp, ↓steady_whenUp, ↓steady_mk, ↓steady_eta, steady_ite, steady_ite_snd, steady_foldl, ite_self, implies_true]

theorem steady_execHelloSend (s : State)  : SteadyO s (execHelloSend s) := by
  unfold execHelloSend
  (repeat' split) <;> first
    | (refine SteadyO_next _ _ ?_; simp only [↓steady_sendHello, ↓steady_whenUp, ↓steady_mk, ↓steady_eta, steady_ite, steady_ite_snd, steady_foldl, ite_self, implies_true])
    | simp only [↓steady_sendHello, ↓steady_whenUp, ↓steady_mk, ↓steady_eta, steady_ite, steady_ite_snd, steady_foldl, ite_self, implies_true]

theorem steady_execBeatSend (s : State)  : SteadyO s (execBeatSend s) := by
  unfold execBeatSend
  (repeat' split) <;> first
    | (refine SteadyO_next _ _ ?_; simp only [↓steady_sendBeat, ↓steady_whenUp, ↓steady_mk, ↓steady_eta, steady_ite, steady_ite_snd, steady_foldl, ite_self, implies_true])
    | simp only [↓steady_sendBeat, ↓steady_whenUp, ↓steady_mk, ↓steady_eta, steady_ite, steady_ite_snd, steady_foldl, ite_self, implies_true]

theorem steady_execPairingTimeout (s : State)  : SteadyO s (execPairingTimeout s) := by
  unfold execPairingTimeout
  (repeat' split) <;> first
    | (refine SteadyO_next _ _ ?_; simp only [↓steady_guard, ↓steady_refusePair, ↓steady_whenUp, ↓steady_mk, ↓steady_eta, steady_ite, steady_ite_snd, steady_foldl, ite_self, implies_true])
    | simp only [↓steady_guard, ↓steady_refusePair, ↓steady_whenUp, ↓steady_mk, ↓steady_eta, steady_ite, steady_ite_snd, steady_foldl, ite_self, implies_true]

theorem steady_execPairRetry (s : State)  : SteadyO s (execPairRetry s) := by
  unfold execPairRetry
  refine SteadyO_next _ _ (steady_whenUp _ _ ?_)
  intro s
  first
    | rfl
    | simp only [↓steady_whenUp, ↓steady_mk, ↓steady_eta, steady_ite, steady_ite_snd, steady_foldl, ite_self, implies_true]
    | (dsimp only; (repeat' split) <;> simp only [↓steady_whenUp, ↓steady_mk, ↓steady_eta, steady_ite, steady_ite_snd, steady_foldl, ite_self, implies_true])

theorem steady_execVoteTimeout (s : State)  : SteadyO s (execVoteTimeout s) := by
  unfold execVoteTimeout
  (repeat' split) <;> first
    | (refine SteadyO_next _ _ ?_; simp only [↓steady_voteTimeoutOp, ↓steady_whenUp, ↓steady_mk, ↓steady_eta, steady_ite, steady_ite_snd, steady_foldl, ite_self, implies_true])
    | simp only [↓steady_voteTimeoutOp, ↓steady_whenUp, ↓steady_mk, ↓steady_eta, steady_ite, steady_ite_snd, steady_foldl, ite_self, implies_true]

theorem steady_execDecideTimeout (s : State)  : SteadyO s (execDecideTimeout s) := by
  unfold execDecideTimeout
  (repeat' split) <;> first
    | (refine SteadyO_next _ _ ?_; simp only [↓steady_decideTimeoutOp, ↓steady_whenUp, ↓steady_mk, ↓steady_eta, steady_ite, steady_ite_snd, steady_foldl, ite_self, implies_true])
    | simp only [↓steady_decideTimeoutOp, ↓steady_whenUp, ↓steady_mk, ↓steady_eta, steady_ite, steady_ite_snd, steady_foldl, ite_self, implies_true]

theorem steady_execYokeYield (v : Word) (s : State)  : SteadyO s (execYokeYield v s) := by
  unfold execYokeYield
  (repeat' split) <;> first
    | (refine SteadyO_next _ _ ?_; simp only [↓steady_whenUp, ↓steady_yokeCmd, ↓steady_mk, ↓steady_eta, steady_ite, steady_ite_snd, steady_foldl, ite_self, implies_true])
    | simp only [↓steady_whenUp, ↓steady_yokeCmd, ↓steady_mk, ↓steady_eta, steady_ite, steady_ite_snd, steady_foldl, ite_self, implies_true]

theorem steady_execYokeResync (v : Word) (s : State)  : SteadyO s (execYokeResync v s) := by
  unfold execYokeResync
  (repeat' split) <;> first
    | (refine SteadyO_next _ _ ?_; simp only [↓steady_whenUp, ↓steady_yokeCmd, ↓steady_mk, ↓steady_eta, steady_ite, steady_ite_snd, steady_foldl, ite_self, implies_true])
    | simp only [↓steady_whenUp, ↓steady_yokeCmd, ↓steady_mk, ↓steady_eta, steady_ite, steady_ite_snd, steady_foldl, ite_self, implies_true]

theorem steady_execTakeover (s : State)  : SteadyO s (execTakeover s) := by
  unfold execTakeover
  (repeat' split) <;> first
    | (refine SteadyO_next _ _ ?_; simp only [↓steady_takeoverOp, ↓steady_whenUp, ↓steady_mk, ↓steady_eta, steady_ite, steady_ite_snd, steady_foldl, ite_self, implies_true])
    | simp only [↓steady_takeoverOp, ↓steady_whenUp, ↓steady_mk, ↓steady_eta, steady_ite, steady_ite_snd, steady_foldl, ite_self, implies_true]

theorem steady_execAckFrame (h : YHdr) (s : State)  : SteadyO s (execAckFrame h s) := by
  unfold execAckFrame
  exact SteadyO_next _ _ (steady_whenUp _ _ (fun s => steady_rxFrame _ _ _ (fun _ => rfl)))

theorem steady_execReliableRetry (n : Nat) (s : State)  : SteadyO s (execReliableRetry n s) := by
  unfold execReliableRetry
  (repeat' split) <;> first
    | (refine SteadyO_next _ _ ?_; simp only [↓steady_retryOp, ↓steady_whenUp, ↓steady_mk, ↓steady_eta, steady_ite, steady_ite_snd, steady_foldl, ite_self, implies_true])
    | simp only [↓steady_retryOp, ↓steady_whenUp, ↓steady_mk, ↓steady_eta, steady_ite, steady_ite_snd, steady_foldl, ite_self, implies_true]

theorem steady_execAckTimer (s : State)  : SteadyO s (execAckTimer s) := by
  unfold execAckTimer
  (repeat' split) <;> first
    | (refine SteadyO_next _ _ ?_; simp only [↓steady_ackTimerOp, ↓steady_whenUp, ↓steady_mk, ↓steady_eta, steady_ite, steady_ite_snd, steady_foldl, ite_self, implies_true])
    | simp only [↓steady_ackTimerOp, ↓steady_whenUp, ↓steady_mk, ↓steady_eta, steady_ite, steady_ite_snd, steady_foldl, ite_self, implies_true]

end Sys2Proof.Laws
end

