-- ==== Sys2Proof/Laws/KeptCmds.lean ====
section
/-! SUPPORT. What the commands outside the steady ones keep. -/

set_option linter.unusedSimpArgs false
set_option linter.unusedTactic false
set_option linter.unreachableTactic false

namespace Sys2Proof.Laws

open Sys2Proof Sys2Proof.Machine

theorem kept_eff (s : State) (e : Tbl Word) : Kept (steady s) (steady { s with eff := e }) := ⟨rfl, rfl, Nat.le_refl _, id⟩

theorem kept_atChannel (ch : Nat) (s : State) (k : State → State) (h : ∀ s, Kept (steady s) (steady (k s))) : KeptO s (atChannel ch s k) := by
  unfold atChannel
  split
  · exact KeptO_next _ _ (kept_whenUp s k h)
  · exact KeptO_next _ _ (Kept.refl _)

theorem kept_via (f : State → Host.Outcome State Fault Refusal) (s : State) (h : KeptO s (f s)) : Kept (steady s) (steady (via f s)) := by
  unfold via outState
  split
  · exact h _ (by assumption)
  · exact Kept.refl _

theorem kept_writeWords (k : Nat → Word → State → State) (o size : Nat) (v : BitVec 64) (s : State)
    (h : ∀ n w s, Kept (steady s) (steady (k n w s))) : Kept (steady s) (steady (writeWords k o size v s)) := by
  unfold writeWords
  (repeat' split) <;> first
    | exact Kept.refl _
    | exact h ..
    | exact (h ..).trans (h ..)

theorem kept_rxFrame (h : YHdr) (k : State → State) (s : State) (hk : ∀ s, Kept (steady s) (steady (k s))) :
    Kept (steady s) (steady (rxFrame h k s)) := by
  unfold rxFrame
  split
  · exact Kept.refl _
  · split
    · exact Kept.of_eq (steady_bump ..)
    · exact (Kept.of_eq (steady_ackUpTo ..)).trans (hk _)

theorem kept_writeReleased (d g v : Nat) (s : State)  : Kept (steady s) (steady (writeReleased d g v s)) := by
  unfold writeReleased
  repeat' first
    | with_reducible exact Kept.refl _
    | with_reducible exact kept_dramWrite32 ..
    | with_reducible refine Kept.trans ?_ (kept_dramWrite32 ..)
    | simp only [↓steady_modGroup, ↓steady_mk, ↓steady_eta, steady_ite, steady_ite_snd, steady_foldl, implies_true, ite_self, Kept.refl]
    | with_reducible refine Kept.trans ?_ (kept_foldl _ _ _ (fun s a => ?_))
    | split

theorem kept_fenceGroup (ch n : Nat) (t : Tbl Word) (s : State) (g : Nat)  : Kept (steady s) (steady (fenceGroup ch n t s g)) := by
  unfold fenceGroup
  extract_lets d ls q x fence e due s1 s2 s3 s4 s5 s6 s7
  refine Kept.trans ?_ (Kept.of_eq (steady_modPic ..))
  have h1 : Kept (steady s) (steady s1) := kept_dramWrite32 ..
  have h4 : steady s4 = steady s3 := steady_foldl _ _ _ (fun s i => steady_bump ..)
  have h5 : Kept (steady s) (steady s5) := h1.trans (Kept.of_eq ((steady_modPic ..).trans (h4.trans ((steady_bump ..).trans
    ((steady_bump ..).trans (steady_modGroup ..))))))
  have h6 : steady s6 = steady s := by
    simp only [s6, ↓steady_bump, ↓steady_markStale, ↓steady_modGroup, ↓steady_modPic, ↓steady_raiseBit, ↓steady_mk, ↓steady_eta, steady_ite, steady_ite_snd, steady_foldl, implies_true, ite_self, Kept.refl]
  have h7 : steady (ls.foldl (fun s i => markStale ch n i false s) (bump (pgPad d) 1 1 (raiseBit (pgPad d) 0 s6))) = steady s6 :=
    (steady_foldl _ _ _ (fun s i => steady_markStale ..)).trans ((steady_bump ..).trans (steady_raiseBit ..))
  clear_value s6 s5
  simp only [s7]
  split
  · split
    · exact h5.trans (kept_writeReleased ..)
    · exact h5.trans (Kept.of_eq (steady_modGroup ..))
  · split
    · exact Kept.of_eq (h7.trans h6)
    · exact Kept.of_eq h6

theorem kept_fenceReadOp (ch : Nat) (s : State)  : Kept (steady s) (steady (fenceReadOp ch s)) := by
  unfold fenceReadOp
  repeat' first
    | with_reducible exact Kept.refl _
    | with_reducible exact kept_fenceGroup ..
    | with_reducible refine Kept.trans ?_ (kept_fenceGroup ..)
    | simp only [↓steady_modPic, ↓steady_mk, ↓steady_eta, steady_ite, steady_ite_snd, steady_foldl, implies_true, ite_self, Kept.refl]
    | with_reducible refine Kept.trans ?_ (kept_foldl _ _ _ (fun s a => ?_))
    | split

theorem kept_fencesTakeEffect (old : Nat → Word) (s : State)  : Kept (steady s) (steady (fencesTakeEffect old s)) := by
  unfold fencesTakeEffect
  refine kept_foldl _ _ _ (fun s d => ?_)
  split
  · exact Kept.refl _
  · exact kept_foldl _ _ _ (fun s g => (kept_dramWrite32 ..).trans (kept_dramWrite32 ..))

theorem kept_composeFurrow (ch : Nat) (p : Pic) (k : Nat) (left : List (Nat × Nat × Nat × Nat)) (s : State)  : Kept (steady s) (steady (composeFurrow ch p k left s)) := by
  unfold composeFurrow
  dsimp only
  refine Kept.trans ?_ (kept_foldl _ _ _ (fun s y => kept_dramStore ..))
  exact Kept.of_eq rfl

theorem kept_releaseFences (ch n : Nat) (s : State)  : Kept (steady s) (steady (releaseFences ch n s)) := by
  unfold releaseFences
  refine kept_foldl _ _ _ (fun s g => ?_)
  dsimp only
  split
  · exact Kept.refl _
  · exact (Kept.of_eq (steady_modGroup ..)).trans (kept_writeReleased ..)

theorem kept_canvasPointOp (ch k : Nat) (left : List (Nat × Nat × Nat × Nat)) (s : State)  : Kept (steady s) (steady (canvasPointOp ch k left s)) := by
  unfold canvasPointOp
  split
  · exact Kept.refl _
  · rename_i p _
    split
    · exact Kept.refl _
    · extract_lets finished g f d ls live filled bits s1 s2 s3 s4 s5 s6 s7
      have h1 : Kept (steady s) (steady s2) := (Kept.of_eq (steady_advance ..)).trans (kept_composeFurrow ..)
      have h3 : steady s3 = steady s2 := by
        simp only [s3, ↓steady_advance, ↓steady_bump, ↓steady_markStale, ↓steady_modFur, ↓steady_raiseBit, ↓steady_unpinDecoded, ↓steady_mk, ↓steady_eta, steady_ite, steady_ite_snd, steady_foldl, implies_true, ite_self, Kept.refl]
      have h4 : steady s4 = steady s3 := steady_bump ..
      have h5 : steady s5 = steady s4 := steady_foldl _ _ _ (fun s i => (steady_bump ..).trans (steady_raiseBit ..))
      have h6 : steady s6 = steady s5 := steady_foldl _ _ _ (fun s i => steady_markStale ..)
      have h7 : Kept (steady s) (steady s7) := h1.trans (Kept.of_eq ((steady_modFur ..).trans (h6.trans (h5.trans (h4.trans h3)))))
      clear_value s7
      split
      · exact (h7.trans (kept_releaseFences ..)).trans (Kept.of_eq (steady_unpinDecoded ..))
      · exact h7

theorem kept_writePlane (d a : Nat) (f : Fmt) (samp k y0 y1 : Nat) (px : Nat → Nat → Nat) (s : State)  : Kept (steady s) (steady (writePlane d a f samp k y0 y1 px s)) := by
  unfold writePlane
  repeat' first
    | with_reducible exact Kept.refl _
    | with_reducible exact kept_dramStore ..
    | with_reducible refine Kept.trans ?_ (kept_dramStore ..)
    | simp only [↓steady_mk, ↓steady_eta, steady_ite, steady_ite_snd, steady_foldl, implies_true, ite_self, Kept.refl]
    | with_reducible refine Kept.trans ?_ (kept_foldl _ _ _ (fun s a => ?_))
    | split

theorem kept_writeFurrow (ch n k : Nat) (s : State)  : Kept (steady s) (steady (writeFurrow ch n k s)) := by
  unfold writeFurrow
  repeat' first
    | with_reducible exact Kept.refl _
    | with_reducible exact kept_dramStore ..
    | with_reducible exact kept_writePlane ..
    | with_reducible refine Kept.trans ?_ (kept_dramStore ..)
    | with_reducible refine Kept.trans ?_ (kept_writePlane ..)
    | simp only [↓steady_modFur, ↓steady_mk, ↓steady_eta, steady_ite, steady_ite_snd, steady_foldl, implies_true, ite_self, Kept.refl]
    | with_reducible refine Kept.trans ?_ (kept_foldl _ _ _ (fun s a => ?_))
    | split

theorem kept_fallowWrites (ch n k : Nat) (u : Fur) (s : State)  : Kept (steady s) (steady (fallowWrites ch n k u s)) := by
  unfold fallowWrites
  repeat' first
    | with_reducible exact Kept.refl _
    | with_reducible exact kept_writeFurrow ..
    | with_reducible refine Kept.trans ?_ (kept_writeFurrow ..)
    | simp only [↓steady_mk, ↓steady_eta, steady_ite, steady_ite_snd, steady_foldl, implies_true, ite_self, Kept.refl]
    | with_reducible refine Kept.trans ?_ (kept_foldl _ _ _ (fun s a => ?_))
    | split

theorem kept_codedOp (ch k : Nat) (s : State)  : Kept (steady s) (steady (codedOp ch k s)) := by
  unfold codedOp
  repeat' first
    | with_reducible exact Kept.refl _
    | with_reducible exact kept_fallowWrites ..
    | with_reducible refine Kept.trans ?_ (kept_fallowWrites ..)
    | simp only [↓steady_bump, ↓steady_countLog, ↓steady_leaveCache, ↓steady_modFur, ↓steady_pictureEnd, ↓steady_raiseBit, ↓steady_mk, ↓steady_eta, steady_ite, steady_ite_snd, steady_foldl, implies_true, ite_self, Kept.refl]
    | with_reducible refine Kept.trans ?_ (kept_foldl _ _ _ (fun s a => ?_))
    | split

theorem kept_endItem (d slot : Nat) (s : State) : Kept (steady s) (steady (endItem d slot s).2) := by
  unfold endItem
  split
  · exact Kept.refl _
  · rename_i i _
    extract_lets u s1 s2 s3 s4
    have h1 : steady s1 = steady s := by simp only [s1, ↓steady_bump, ↓steady_countWait, ↓steady_modDsp, ↓steady_wakeDie, ↓steady_mk, ↓steady_eta, steady_ite, steady_ite_snd, steady_foldl, implies_true, ite_self, Kept.refl]
    have h2 : Kept (steady s1) (steady s2) := by
      simp only [s2]
      split
      · exact kept_writeFurrow ..
      · exact Kept.refl _
    have h3 : steady s3 = steady s2 := by simp only [s3, ↓steady_bump, ↓steady_countWait, ↓steady_modDsp, ↓steady_wakeDie, ↓steady_mk, ↓steady_eta, steady_ite, steady_ite_snd, steady_foldl, implies_true, ite_self, Kept.refl]
    have h4 : steady s4 = steady s3 := by simp only [s4, ↓steady_bump, ↓steady_countWait, ↓steady_modDsp, ↓steady_wakeDie, ↓steady_mk, ↓steady_eta, steady_ite, steady_ite_snd, steady_foldl, implies_true, ite_self, Kept.refl]
    clear_value s1 s2 s3 s4
    have h5 : steady (wakeDie d s4) = steady s2 := (steady_wakeDie ..).trans (h4.trans h3)
    have h6 : Kept (steady s) (steady (wakeDie d s4)) := ((Kept.of_eq h1).trans h2).trans (Kept.of_eq h5)
    simp only
    exact h6

theorem kept_aperWriteWord (d w : Nat) (l : List (Nat × Byte)) (e : EccEvent) (s : State)  : Kept (steady s) (steady (aperWriteWord d w l e s)) := by
  unfold aperWriteWord
  split
  · exact Kept.refl _
  · exact (kept_foldl _ _ _ (fun s x => kept_dramSet ..)).trans (kept_storeWord ..)

theorem kept_aperWriteWords (d a : Nat) (bs : List (Option Byte)) (a0 : List Nat) (a1 : EccEvent) (s : State)  : Kept (steady s) (steady (aperWriteWords d a bs a0 a1 s)) := by
  induction a0 generalizing a1 s with
  | nil => exact Kept.refl _
  | cons w ws ih =>
    rw [aperWriteWords]
    exact (kept_aperWriteWord ..).trans (ih _ _)

theorem kept_aperWrite (x : Nat) (bs : List (Option Byte)) (e : EccEvent) (s : State)  : Kept (steady s) (steady (aperWrite x bs e s)) := by
  unfold aperWrite
  repeat' first
    | with_reducible exact Kept.refl _
    | with_reducible exact kept_aperWriteWords ..
    | with_reducible refine Kept.trans ?_ (kept_aperWriteWords ..)
    | simp only [↓steady_bump, ↓steady_wipeAccess, ↓steady_mk, ↓steady_eta, steady_ite, steady_ite_snd, steady_foldl, implies_true, ite_self, Kept.refl]
    | with_reducible refine Kept.trans ?_ (kept_foldl _ _ _ (fun s a => ?_))
    | split

theorem kept_writeEntry (q w : Nat) (v : Word) (s : State)  : Kept (steady s) (steady (writeEntry q w v s)) := by
  unfold writeEntry
  split
  · exact Kept.refl _
  · split
    · simp only [↓steady_bump, ↓steady_raiseBit, ↓steady_mk, ↓steady_eta, steady_ite, steady_ite_snd, steady_foldl, implies_true, ite_self, Kept.refl]
    · split
      · exact ⟨rfl, rfl, Nat.le_refl _, id⟩
      · exact Kept.refl _

theorem kept_takeOwner (q : Nat) (o : Option Nat) (s : State)  : Kept (steady s) (steady (takeOwner q o s)) := by
  unfold takeOwner
  extract_lets s1
  have h1 : Kept (steady s) (steady s1) := ⟨rfl, rfl, Nat.le_refl _, id⟩
  clear_value s1
  refine h1.trans ?_
  split
  · exact Kept.refl _
  · split <;> simp only [↓steady_modChan, ↓steady_mk, ↓steady_eta, steady_ite, steady_ite_snd, steady_foldl, implies_true, ite_self, Kept.refl]

theorem kept_settleSet (q : Nat) (s : State)  : Kept (steady s) (steady (settleSet q s)) := by
  unfold settleSet
  split
  · extract_lets s1
    have h1 : Kept (steady s) (steady s1) := ⟨rfl, rfl, Nat.le_refl _, id⟩
    clear_value s1
    exact h1.trans (Kept.of_eq ((steady_raiseReport ..).trans (steady_modSet ..)))
  · exact Kept.refl _

theorem kept_takeWaits (pick : Option Nat → Bool) (s : State)  : Kept (steady s) (steady (takeWaits pick s)) := by
  unfold takeWaits
  repeat' first
    | with_reducible exact Kept.refl _
    | with_reducible exact kept_takeOwner ..
    | with_reducible exact kept_settleSet ..
    | with_reducible refine Kept.trans ?_ (kept_takeOwner ..)
    | with_reducible refine Kept.trans ?_ (kept_settleSet ..)
    | simp only [↓steady_mk, ↓steady_eta, steady_ite, steady_ite_snd, steady_foldl, implies_true, ite_self, Kept.refl]
    | with_reducible refine Kept.trans ?_ (kept_foldl _ _ _ (fun s a => ?_))
    | split

theorem kept_takePackage (s : State)  : Kept (steady s) (steady (takePackage s)) := by
  unfold takePackage
  repeat' first
    | with_reducible exact Kept.refl _
    | with_reducible exact kept_takeWaits ..
    | with_reducible refine Kept.trans ?_ (kept_takeWaits ..)
    | simp only [↓steady_mk, ↓steady_eta, steady_ite, steady_ite_snd, steady_foldl, implies_true, ite_self, Kept.refl]
    | with_reducible refine Kept.trans ?_ (kept_foldl _ _ _ (fun s a => ?_))
    | split

theorem kept_takeChannel (ch : Nat) (s : State)  : Kept (steady s) (steady (takeChannel ch s)) := by
  unfold takeChannel
  repeat' first
    | with_reducible exact Kept.refl _
    | with_reducible exact kept_takeWaits ..
    | with_reducible refine Kept.trans ?_ (kept_takeWaits ..)
    | simp only [↓steady_mk, ↓steady_eta, steady_ite, steady_ite_snd, steady_foldl, implies_true, ite_self, Kept.refl]
    | with_reducible refine Kept.trans ?_ (kept_foldl _ _ _ (fun s a => ?_))
    | split

theorem kept_copyInOp (ch stall off : Nat) (bytes : List Byte) (s : State)  : Kept (steady s) (steady (copyInOp ch stall off bytes s)) := by
  unfold copyInOp
  repeat' first
    | with_reducible exact Kept.refl _
    | with_reducible exact kept_dramStore ..
    | with_reducible refine Kept.trans ?_ (kept_dramStore ..)
    | simp only [↓steady_mk, ↓steady_eta, steady_ite, steady_ite_snd, steady_foldl, implies_true, ite_self, Kept.refl]
    | with_reducible refine Kept.trans ?_ (kept_foldl _ _ _ (fun s a => ?_))
    | split

theorem kept_bulkInOp (ch stall off : Nat) (bytes : List Byte) (s : State)  : Kept (steady s) (steady (bulkInOp ch stall off bytes s)) := by
  unfold bulkInOp
  repeat' first
    | with_reducible exact Kept.refl _
    | with_reducible exact kept_copyInOp ..
    | with_reducible refine Kept.trans ?_ (kept_copyInOp ..)
    | simp only [↓steady_mk, ↓steady_eta, steady_ite, steady_ite_snd, steady_foldl, implies_true, ite_self, Kept.refl]
    | with_reducible refine Kept.trans ?_ (kept_foldl _ _ _ (fun s a => ?_))
    | split

theorem kept_dramCopy (d a e b n : Nat) (s : State)  : Kept (steady s) (steady (dramCopy d a e b n s)) := by
  unfold dramCopy
  extract_lets lo src
  refine Kept.trans (b := steady { s with dram := splice (memKey e b) (memKey e b + n) src s.dram }) ?_ (kept_storeWords ..)
  refine ⟨rfl, rfl, Nat.le_refl _, fun w => ?_⟩
  refine splice_wf _ _ _ _ _ w ?_ (Nat.le_add_right _ _)
  refine Tbl.wf_shift _ _ (fun x => x - memKey d a + memKey e b) (Tbl.wf_filter _ _ _ w) ?_
  intro x hx y hy hxy
  simp only [List.mem_filter, Bool.and_eq_true, decide_eq_true_eq, lo] at hx hy
  omega

theorem kept_mirrorStall (ch : Nat) (s : State) (i : Nat)  : Kept (steady s) (steady (mirrorStall ch s i)) := by
  unfold mirrorStall
  repeat' first
    | with_reducible exact Kept.refl _
    | with_reducible exact kept_dramCopy ..
    | with_reducible refine Kept.trans ?_ (kept_dramCopy ..)
    | simp only [↓steady_mk, ↓steady_eta, steady_ite, steady_ite_snd, steady_foldl, implies_true, ite_self, Kept.refl]
    | with_reducible refine Kept.trans ?_ (kept_foldl _ _ _ (fun s a => ?_))
    | split

theorem kept_mirrorOp (ch : Nat) (s : State)  : Kept (steady s) (steady (mirrorOp ch s)) := by
  unfold mirrorOp
  extract_lets c ls have_ took
  split
  · exact Kept.refl _
  · split
    · exact (kept_foldl _ _ _ (fun s i => kept_mirrorStall ..)).trans (Kept.of_eq ((steady_modChan ..).trans (steady_releaseCkpt ..)))
    · split
      · exact (kept_foldl _ _ _ (fun s i => kept_mirrorStall ..)).trans (Kept.of_eq (steady_modChan ..))
      · exact Kept.refl _

theorem kept_copyMirrorOp (ch stall off : Nat) (bytes : List Byte) (s : State)  : Kept (steady s) (steady (copyMirrorOp ch stall off bytes s)) := by
  unfold copyMirrorOp
  repeat' first
    | with_reducible exact Kept.refl _
    | with_reducible exact kept_dramStore ..
    | with_reducible refine Kept.trans ?_ (kept_dramStore ..)
    | simp only [↓steady_bump, ↓steady_mk, ↓steady_eta, steady_ite, steady_ite_snd, steady_foldl, implies_true, ite_self, Kept.refl]
    | with_reducible refine Kept.trans ?_ (kept_foldl _ _ _ (fun s a => ?_))
    | split

theorem kept_reseat (ch : Nat) (s0 : State)  : Kept (steady s0) (steady (reseat ch s0)) := by
  unfold reseat
  extract_lets s1 c g f m keep seqs notSent s2 s3 s4 spare s5 s6 s7 s8
  have h2 : steady s2 = steady s1 := steady_dropItems ..
  have h3 : steady s3 = steady s2 := steady_dropPics ..
  have h4 : steady s4 = steady s3 := steady_foldl _ _ _ (fun s i => steady_modSvc ..)
  clear_value s4
  have h5 : Kept (steady s4) (steady s5) := kept_eff ..
  clear_value s5
  have h6 : steady s6 = steady s5 := steady_modChan ..
  clear_value s6
  have h7 : steady s7 = steady s6 := by
    simp only [s7]
    split
    · rfl
    · exact steady_raiseBit ..
  clear_value s7
  have h8 : steady s8 = steady s7 := by
    simp only [s8]
    split
    · exact steady_diverge ..
    · rfl
  clear_value s8 s3 s2
  refine (((Kept.of_eq (h4.trans (h3.trans h2))).trans h5).trans (Kept.of_eq (h8.trans (h7.trans h6)))).trans (Kept.of_eq ?_)
  exact (steady_noteEngineLost ..).trans ((steady_settle ..).trans ((steady_bump ..).trans (steady_raiseBit ..)))

theorem kept_reseatOrFault (ch : Nat) (s : State)  : Kept (steady s) (steady (reseatOrFault ch s)) := by
  unfold reseatOrFault
  split
  · exact (Kept.of_eq (steady_abortOf ..)).trans (kept_reseat ..)
  · exact Kept.of_eq ((steady_raiseBit ..).trans (steady_faultCh ..))

theorem kept_loseChans (chs : List Nat) (s : State)  : Kept (steady s) (steady (loseChans chs s)) := by
  unfold loseChans
  repeat' first
    | with_reducible exact Kept.refl _
    | with_reducible exact kept_reseatOrFault ..
    | with_reducible refine Kept.trans ?_ (kept_reseatOrFault ..)
    | simp only [↓steady_faultCh, ↓steady_toFaulted, ↓steady_yieldFor, ↓steady_mk, ↓steady_eta, steady_ite, steady_ite_snd, steady_foldl, implies_true, ite_self, Kept.refl]
    | with_reducible refine Kept.trans ?_ (kept_foldl _ _ _ (fun s a => ?_))
    | split

theorem kept_dieFaultOp (d : Nat) (s0 : State)  : Kept (steady s0) (steady (dieFaultOp d s0)) := by
  unfold dieFaultOp
  repeat' first
    | with_reducible exact Kept.refl _
    | with_reducible exact kept_loseChans ..
    | with_reducible refine Kept.trans ?_ (kept_loseChans ..)
    | simp only [↓steady_noteEngineLost, ↓steady_setFault, ↓steady_setFaults, ↓steady_mk, ↓steady_eta, steady_ite, steady_ite_snd, steady_foldl, implies_true, ite_self, Kept.refl]
    | with_reducible refine Kept.trans ?_ (kept_foldl _ _ _ (fun s a => ?_))
    | split

theorem kept_reading (ls : List MemRange) (op : State → State) (s : State) (h : ∀ s, Kept (steady s) (steady (op s))) : Kept (steady s) (steady (reading ls op s)) := by
  unfold reading
  extract_lets s1 bad
  have h1 : steady s1 = steady s := steady_correctIn ..
  clear_value s1
  refine (Kept.of_eq h1).trans ?_
  split
  · exact h s1
  · exact (Kept.of_eq (steady_foldl _ _ _ (fun s e => steady_eccBad ..))).trans (kept_foldl _ _ _ (fun s d => kept_dieFaultOp ..))

theorem kept_dieFaultFor (d : Nat) (cause : Option (Nat × Nat)) (s : State)  : Kept (steady s) (steady (dieFaultFor d cause s)) := by
  unfold dieFaultFor
  split
  · exact kept_dieFaultOp ..
  · exact ((Kept.of_eq (steady_eccBad ..)).trans (Kept.of_eq (steady_leaveBad ..))).trans (kept_dieFaultOp ..)

theorem kept_deliverFrame (i : Instr) (s : State)  : Kept (steady s) (steady (deliverFrame i s)) := by
  unfold deliverFrame
  repeat' first
    | with_reducible exact Kept.refl _
    | with_reducible exact kept_bulkInOp ..
    | with_reducible exact kept_copyInOp ..
    | with_reducible refine Kept.trans ?_ (kept_bulkInOp ..)
    | with_reducible refine Kept.trans ?_ (kept_copyInOp ..)
    | simp only [↓steady_abortResync, ↓steady_checkpointTakenOp, ↓steady_copyDoneOp, ↓steady_decideOp, ↓steady_icRemoteIn, ↓steady_resyncAbort, ↓steady_resyncRequestOp, ↓steady_theirRecord, ↓steady_verdictOp, ↓steady_voteOp, ↓steady_yieldFrameOp, ↓steady_mk, ↓steady_eta, steady_ite, steady_ite_snd, steady_foldl, implies_true, ite_self, Kept.refl]
    | with_reducible refine Kept.trans ?_ (kept_foldl _ _ _ (fun s a => ?_))
    | split

theorem kept_drainEarly  (a0 : Nat) (s : State)  : Kept (steady s) (steady (drainEarly a0 s)) := by
  induction a0 generalizing s with
  | zero => exact Kept.refl _
  | succ n ih =>
    rw [drainEarly]
    split
    · exact Kept.refl _
    · rename_i e _
      have h1 : steady { s with yoke := { s.yoke with ackDue := true, seqRx := e.1, early := s.yoke.early.filter (fun x => decide (x.1 ≠ e.1)) } } = steady s := rfl
      exact (Kept.of_eq h1).trans ((kept_deliverFrame ..).trans (ih _))

theorem kept_rxRel (h : YHdr) (i : Instr) (s : State)  : Kept (steady s) (steady (rxRel h i s)) := by
  unfold rxRel
  refine kept_rxFrame _ _ _ (fun s => ?_)
  extract_lets y s1
  have h1 : steady s1 = steady s := rfl
  clear_value s1
  refine (Kept.of_eq h1).trans ?_
  split
  · exact Kept.refl _
  · split
    · exact ((Kept.of_eq rfl).trans (kept_deliverFrame i { s1 with yoke := { s1.yoke with seqRx := h.seq } })).trans (kept_drainEarly ..)
    · split
      · exact Kept.refl _
      · exact Kept.of_eq rfl

theorem kept_bootWaitOp (s : State)  : Kept (steady s) (steady (bootWaitOp s)) := by
  unfold bootWaitOp
  repeat' first
    | with_reducible exact Kept.refl _
    | with_reducible exact kept_writeEntry ..
    | with_reducible refine Kept.trans ?_ (kept_writeEntry ..)
    | simp only [↓steady_firmwareCommit, ↓steady_stageRecord, ↓steady_mk, ↓steady_eta, steady_ite, steady_ite_snd, steady_foldl, implies_true, ite_self, Kept.refl]
    | with_reducible refine Kept.trans ?_ (kept_foldl _ _ _ (fun s a => ?_))
    | split

theorem kept_armStep (s : State) (ch : Nat)  : Kept (steady s) (steady (armStep s ch)) := by
  unfold armStep
  extract_lets run
  split
  · split
    · split
      · exact (Kept.of_eq ((steady_toChState ..).trans (steady_modChan ..))).trans (kept_loseChans ..)
      · exact Kept.of_eq ((steady_toChState ..).trans (steady_modChan ..))
    · exact Kept.refl _
  · split
    · exact Kept.of_eq (steady_toChState ..)
    · split
      · exact kept_loseChans ..
      · exact Kept.refl _
  · split
    · exact Kept.refl _
    · exact Kept.of_eq ((steady_modYch ..).trans (steady_toChState ..))
  · exact Kept.of_eq (steady_settle ..)
  · exact Kept.refl _

theorem kept_wordsTakeEffect (s1 s : State)  : Kept (steady s) (steady (wordsTakeEffect s1 s)) := by
  unfold wordsTakeEffect
  extract_lets old s2 s3 s4 s5 s6 s7
  have h2 : steady s2 = steady s := by
    rw [show steady s2 = _ from steady_lanesTakeEffect .., steady_slotsTakeEffect, steady_entriesTakeEffect]
  have h3 : steady s3 = steady s2 := by
    rw [show steady s3 = _ from steady_listsTakeEffect .., steady_shapersTakeEffect, steady_quantaTakeEffect, steady_svcsLapse]
  have h4 : steady s4 = steady s3 := by
    rw [show steady s4 = _ from steady_tdmsTakeEffect .., steady_audioFlowsAtBoundary, steady_idleFlows, steady_aflowsTakeEffect]
  have h5 : Kept (steady s4) (steady s5) := (kept_fencesTakeEffect ..).trans (Kept.of_eq (steady_decsSettle ..))
  have h6 : steady s6 = steady s5 := by
    rw [show steady s6 = _ from steady_reseatsTakeEffect .., steady_pairTakesEffect, steady_settleDual, steady_refsTakeEffect]
  have h7 : Kept (steady s6) (steady s7) := kept_foldl _ _ _ (fun s ch => kept_armStep ..)
  clear_value s7 s6 s5 s4 s3 s2
  have k := ((Kept.of_eq (h4.trans (h3.trans h2))).trans (h5.trans (Kept.of_eq h6))).trans h7
  exact k.trans (Kept.of_eq ((steady_resourcesTakeEffect ..).trans (steady_sdpTakeEffect ..)))

theorem kept_packageOp (s0 : State)  : Kept (steady s0) (steady (packageOp s0)) := by
  unfold packageOp
  extract_lets s1 s2 hs s3 s4
  have h2 : Kept (steady s0) (steady s2) := (Kept.of_eq (steady_advance ..)).trans ((kept_takePackage ..).trans (kept_wordsTakeEffect ..))
  have h3 : steady s3 = steady s2 := steady_drainMgmt ..
  have h4 : steady s4 = steady s3 := steady_foldl _ _ _ (fun s d => steady_trackAtBoundary ..)
  clear_value s4 s3 s2
  exact h2.trans (Kept.of_eq ((steady_wakeItems ..).trans ((steady_audioStepped ..).trans ((steady_applyStep ..).trans (h4.trans h3)))))

theorem kept_runBoundary (ch n : Nat) (s0 : State)  : Kept (steady s0) (steady (runBoundary ch n s0)) := by
  unfold runBoundary
  extract_lets s1 s2
  have h1 : Kept (steady s0) (steady s1) :=
    ((Kept.of_eq (steady_realigned ..)).trans (kept_takeChannel ..)).trans (Kept.of_eq (steady_chFlows ..))
  have h2 : steady s2 = steady s1 := by
    simp only [s2, ↓steady_abortOf, ↓steady_beginPicture, ↓steady_chFlows, ↓steady_joinBoundary, ↓steady_modChan, ↓steady_realigned, ↓steady_resyncBoundary, ↓steady_settle, ↓steady_toChState, ↓steady_mk, ↓steady_eta, steady_ite, steady_ite_snd, steady_foldl, implies_true, ite_self, Kept.refl]
  clear_value s1 s2
  refine (h1.trans (Kept.of_eq h2)).trans ?_
  split
  · exact Kept.of_eq ((steady_settle ..).trans ((steady_modChan ..).trans ((steady_toChState ..).trans (steady_abortOf ..))))
  · split
    · exact kept_loseChans ..
    · split
      · exact Kept.of_eq (steady_modChan ..)
      · exact Kept.of_eq ((steady_resyncBoundary ..).trans ((steady_beginPicture ..).trans (steady_joinBoundary ..)))

theorem kept_drainBoundary (ch n : Nat) (s : State)  : Kept (steady s) (steady (drainBoundary ch n s)) := by
  unfold drainBoundary
  exact ((Kept.of_eq (steady_realigned ..)).trans (kept_takeChannel ..)).trans
    (Kept.of_eq ((steady_settle ..).trans ((steady_modChan ..).trans (steady_chFlows ..))))

theorem kept_boundaryOp (ch : Nat) (s : State)  : Kept (steady s) (steady (boundaryOp ch s)) := by
  unfold boundaryOp
  extract_lets n t
  split
  · refine Kept.of_eq ?_
    rw [steady_wakeItems, steady_startChannel, steady_advance]
  · exact ((Kept.of_eq (steady_advance ..)).trans (kept_runBoundary ..)).trans (Kept.of_eq (steady_wakeItems ..))
  · exact ((Kept.of_eq (steady_advance ..)).trans (kept_drainBoundary ..)).trans (Kept.of_eq (steady_wakeItems ..))
  · exact Kept.refl _

theorem kept_execPackageFurrowBoundary (s : State)  : KeptO s (execPackageFurrowBoundary s) := by
  unfold execPackageFurrowBoundary
  repeat' first
    | with_reducible exact Kept.refl _
    | with_reducible refine KeptO_next _ _ ?_
    | (with_reducible refine kept_whenUp _ _ ?_ ; intro s)
    | (with_reducible refine kept_guard _ _ _ ?_ ; intro s)
    | with_reducible exact kept_packageOp ..
    | with_reducible refine Kept.trans ?_ (kept_packageOp ..)
    | simp only [↓steady_whenUp, ↓steady_mk, ↓steady_eta, steady_ite, steady_ite_snd, steady_foldl, implies_true, ite_self, Kept.refl]
    | split

theorem kept_execPictureBoundary (ch : Nat) (s : State)  : KeptO s (execPictureBoundary ch s) := by
  exact kept_atChannel _ _ _ (fun s => kept_boundaryOp ..)

theorem kept_itemEnds (d slot t : Nat) (s : State)  : Kept (steady s) (steady (itemEnds d slot t s)) := by
  unfold itemEnds
  extract_lets r
  have h : Kept (steady s) (steady r.2) := (Kept.of_eq (steady_advance ..)).trans (kept_endItem ..)
  clear_value r
  split
  · exact h
  · refine h.trans (Kept.of_eq ((steady_wakeItems ..).trans ?_))
    simp only [↓steady_advance, ↓steady_packAll, ↓steady_settle, ↓steady_wakeItems, ↓steady_mk, ↓steady_eta, steady_ite, steady_ite_snd, steady_foldl, implies_true, ite_self, Kept.refl]

theorem kept_execItemEnd (d slot t : Nat) (s : State)  : KeptO s (execItemEnd d slot t s) := by
  unfold execItemEnd
  repeat' first
    | (with_reducible refine kept_atDie _ _ _ ?_ ; intro s)
    | with_reducible exact Kept.refl _
    | with_reducible refine KeptO_next _ _ ?_
    | (with_reducible refine kept_whenUp _ _ ?_ ; intro s)
    | (with_reducible refine kept_guard _ _ _ ?_ ; intro s)
    | with_reducible exact kept_itemEnds ..
    | with_reducible refine Kept.trans ?_ (kept_itemEnds ..)
    | simp only [↓steady_atDie, ↓steady_mk, ↓steady_eta, steady_ite, steady_ite_snd, steady_foldl, implies_true, ite_self, Kept.refl]
    | split

theorem kept_codedPoint (ch k : Nat) (s : State)  : Kept (steady s) (steady (codedPoint ch k s)) := by
  unfold codedPoint
  split
  · exact Kept.refl _
  · split
    · refine kept_reading _ _ _ (fun s => ?_)
      extract_lets s1 new
      have h1 : Kept (steady s) (steady s1) := kept_codedOp ..
      clear_value s1
      refine h1.trans (Kept.of_eq ((steady_wakeItems ..).trans ((steady_foldl _ _ _ (fun s n => steady_recordPicture ..)).trans ?_)))
      simp only [↓steady_recordPicture, ↓steady_streamRows, ↓steady_wakeItems, ↓steady_mk, ↓steady_eta, steady_ite, steady_ite_snd, steady_foldl, implies_true, ite_self, Kept.refl]
    · exact Kept.refl _

theorem kept_codeNext (ch k : Nat) (s : State)  : Kept (steady s) (steady (codeNext ch k s)) := by
  unfold codeNext
  split
  · exact Kept.refl _
  · dsimp only
    split
    · exact (kept_reading _ _ _ (fun s => Kept.of_eq (steady_ctuOp ..))).trans (Kept.of_eq (steady_wakeItems ..))
    · exact Kept.refl _

theorem kept_deadlinePoint (ch k finished : Nat) (s : State)  : Kept (steady s) (steady (deadlinePoint ch k finished s)) := by
  unfold deadlinePoint
  split
  · exact Kept.refl _
  · extract_lets cut
    refine kept_reading _ _ _ (fun s => ?_)
    extract_lets s1
    have h1 : Kept (steady s) (steady s1) := Kept.of_eq (steady_deadlineOp ..)
    clear_value s1
    refine h1.trans ?_
    split
    · exact Kept.refl _
    · split
      · exact Kept.of_eq ((steady_wakeItems ..).trans (steady_withdrawFurrow ..))
      · exact Kept.of_eq (steady_wakeItems ..)

theorem kept_engineFails (d e : Nat) (s0 : State)  : Kept (steady s0) (steady (engineFails d e s0)) := by
  unfold engineFails
  extract_lets s1 lost
  have h1 : steady s1 = steady s0 := by
    simp only [s1, ↓steady_bump, ↓steady_engineItems, ↓steady_noteEngineLost, ↓steady_setFault, ↓steady_wakeItems, ↓steady_mk, ↓steady_eta, steady_ite, steady_ite_snd, steady_foldl, implies_true, ite_self, Kept.refl]
  clear_value s1
  exact (Kept.of_eq h1).trans ((kept_loseChans ..).trans (Kept.of_eq (steady_wakeItems ..)))

theorem kept_execCtuCoded (ch k : Nat) (s : State)  : KeptO s (execCtuCoded ch k s) := by
  unfold execCtuCoded
  repeat' first
    | (with_reducible refine kept_atChannel _ _ _ ?_ ; intro s)
    | with_reducible exact Kept.refl _
    | with_reducible refine KeptO_next _ _ ?_
    | (with_reducible refine kept_whenUp _ _ ?_ ; intro s)
    | (with_reducible refine kept_guard _ _ _ ?_ ; intro s)
    | with_reducible exact kept_codeNext ..
    | with_reducible refine Kept.trans ?_ (kept_codeNext ..)
    | simp only [↓steady_atChannel, ↓steady_mk, ↓steady_eta, steady_ite, steady_ite_snd, steady_foldl, implies_true, ite_self, Kept.refl]
    | split

theorem kept_execCodedPoint (ch k : Nat) (s : State)  : KeptO s (execCodedPoint ch k s) := by
  unfold execCodedPoint
  repeat' first
    | (with_reducible refine kept_atChannel _ _ _ ?_ ; intro s)
    | with_reducible exact Kept.refl _
    | with_reducible refine KeptO_next _ _ ?_
    | (with_reducible refine kept_whenUp _ _ ?_ ; intro s)
    | (with_reducible refine kept_guard _ _ _ ?_ ; intro s)
    | with_reducible exact kept_codedPoint ..
    | with_reducible refine Kept.trans ?_ (kept_codedPoint ..)
    | simp only [↓steady_atChannel, ↓steady_mk, ↓steady_eta, steady_ite, steady_ite_snd, steady_foldl, implies_true, ite_self, Kept.refl]
    | split

theorem kept_execDeadlinePoint (ch k finished : Nat) (s : State)  : KeptO s (execDeadlinePoint ch k finished s) := by
  unfold execDeadlinePoint
  repeat' first
    | (with_reducible refine kept_atChannel _ _ _ ?_ ; intro s)
    | with_reducible exact Kept.refl _
    | with_reducible refine KeptO_next _ _ ?_
    | (with_reducible refine kept_whenUp _ _ ?_ ; intro s)
    | (with_reducible refine kept_guard _ _ _ ?_ ; intro s)
    | with_reducible exact kept_deadlinePoint ..
    | with_reducible refine Kept.trans ?_ (kept_deadlinePoint ..)
    | simp only [↓steady_atChannel, ↓steady_mk, ↓steady_eta, steady_ite, steady_ite_snd, steady_foldl, implies_true, ite_self, Kept.refl]
    | split

theorem kept_execEngineFault (d e : Nat) (corrected : Bool) (s : State)  : KeptO s (execEngineFault d e corrected s) := by
  unfold execEngineFault
  split
  · refine kept_atDie _ _ _ (fun s => ?_)
    split
    · exact Kept.of_eq (steady_engineCorrects ..)
    · exact kept_engineFails ..
  · exact KeptO_next _ _ (Kept.refl _)

theorem kept_execAccessUnitCutoff (d n : Nat) (au : AccessUnit) (s : State)  : KeptO s (execAccessUnitCutoff d n au s) := by
  unfold execAccessUnitCutoff atDec
  split
  · exact kept_atDie _ _ _ (fun s => (kept_reading _ _ _ (fun s => Kept.of_eq (steady_accessUnitOp ..))).trans (Kept.of_eq (steady_wakeItems ..)))
  · exact KeptO_next _ _ (Kept.refl _)

theorem kept_execDecodedSlicePoint (d n : Nat) (damaged : Bool) (area : List (Nat × Nat)) (s : State)  : KeptO s (execDecodedSlicePoint d n damaged area s) := by
  unfold execDecodedSlicePoint atDec
  split
  · exact kept_atDie _ _ _ (fun s => (kept_reading _ _ _ (fun s => Kept.of_eq (steady_slicePointOp ..))).trans (Kept.of_eq (steady_wakeItems ..)))
  · exact KeptO_next _ _ (Kept.refl _)

theorem kept_execFwCommandEnd (flashErr : Bool) (s : State)  : KeptO s (execFwCommandEnd flashErr s) := by
  exact KeptO_next _ _ (kept_whenUp _ _ (fun s =>
    (kept_reading _ _ _ (fun s => Kept.of_eq (steady_countReads ..))).trans (Kept.of_eq (steady_fwEnd ..))))

theorem kept_clearPart (cold : Bool) (s : State)  : Kept (steady s) (steady (clearPart cold s)) := by
  exact ⟨rfl, rfl, Nat.le_refl _, fun _ => rfl⟩

theorem kept_assertReset (cold : Bool) (c : Nat) (s : State)  : Kept (steady s) (steady (assertReset cold c s)) := by
  exact ⟨rfl, rfl, Nat.le_refl _, fun _ => rfl⟩

theorem kept_execSupplyRise (s : State)  : KeptO s (execSupplyRise s) := by
  unfold execSupplyRise
  repeat' first
    | with_reducible exact Kept.refl _
    | with_reducible refine KeptO_next _ _ ?_
    | (with_reducible refine kept_whenUp _ _ ?_ ; intro s)
    | (with_reducible refine kept_guard _ _ _ ?_ ; intro s)
    | with_reducible exact kept_assertReset ..
    | with_reducible refine Kept.trans ?_ (kept_assertReset ..)
    | simp only [↓steady_mk, ↓steady_eta, steady_ite, steady_ite_snd, steady_foldl, implies_true, ite_self, Kept.refl]
    | split

theorem kept_execSupplyFall (s : State)  : KeptO s (execSupplyFall s) := by
  unfold execSupplyFall
  repeat' first
    | with_reducible exact Kept.refl _
    | with_reducible refine KeptO_next _ _ ?_
    | (with_reducible refine kept_whenUp _ _ ?_ ; intro s)
    | (with_reducible refine kept_guard _ _ _ ?_ ; intro s)
    | with_reducible exact kept_clearPart ..
    | with_reducible refine Kept.trans ?_ (kept_clearPart ..)
    | simp only [↓steady_mk, ↓steady_eta, steady_ite, steady_ite_snd, steady_foldl, implies_true, ite_self, Kept.refl]
    | split

theorem kept_execPerstAssert (s : State)  : KeptO s (execPerstAssert s) := by
  unfold execPerstAssert
  split
  · exact KeptO_next _ _ (Kept.refl _)
  · extract_lets p s1 s2
    have h1 : steady s1 = steady s := rfl
    clear_value s1
    split
    · exact KeptO_next _ _ (Kept.of_eq h1)
    · split
      · exact KeptO_next _ _ (Kept.of_eq ((steady_linkReset s1).trans h1))
      · exact KeptO_next _ _ ((Kept.of_eq h1).trans ⟨rfl, rfl, Nat.le_refl _, fun _ => rfl⟩)

theorem kept_execWarmResetRequest (v : Word) (s : State)  : KeptO s (execWarmResetRequest v s) := by
  unfold execWarmResetRequest
  repeat' first
    | with_reducible exact Kept.refl _
    | with_reducible refine KeptO_next _ _ ?_
    | (with_reducible refine kept_whenUp _ _ ?_ ; intro s)
    | (with_reducible refine kept_guard _ _ _ ?_ ; intro s)
    | with_reducible exact kept_assertReset ..
    | with_reducible refine Kept.trans ?_ (kept_assertReset ..)
    | simp only [↓steady_guard, ↓steady_whenUp, ↓steady_mk, ↓steady_eta, steady_ite, steady_ite_snd, steady_foldl, implies_true, ite_self, Kept.refl]
    | split

theorem kept_execColdResetRequest (v : Word) (s : State)  : KeptO s (execColdResetRequest v s) := by
  unfold execColdResetRequest
  repeat' first
    | with_reducible exact Kept.refl _
    | with_reducible refine KeptO_next _ _ ?_
    | (with_reducible refine kept_whenUp _ _ ?_ ; intro s)
    | (with_reducible refine kept_guard _ _ _ ?_ ; intro s)
    | with_reducible exact kept_assertReset ..
    | with_reducible refine Kept.trans ?_ (kept_assertReset ..)
    | simp only [↓steady_guard, ↓steady_whenUp, ↓steady_mk, ↓steady_eta, steady_ite, steady_ite_snd, steady_foldl, implies_true, ite_self, Kept.refl]
    | split

theorem kept_execLcGo (v : Word) (s : State)  : KeptO s (execLcGo v s) := by
  unfold execLcGo
  refine KeptO_next _ _ (kept_whenUp _ _ (fun s => kept_guard _ _ _ (fun s => ?_)))
  split
  · extract_lets s1 f g s2 p s3
    have h1 : steady s1 = steady s := steady_wipeTack s
    have h2 : steady s2 = steady s1 := by
      simp only [s2]
      split <;> rfl
    clear_value s1
    have h3 : Kept (steady s2) (steady s3) := ⟨rfl, rfl, Nat.le_succ _, id⟩
    exact (Kept.of_eq (h2.trans h1)).trans (h3.trans (kept_assertReset ..))
  · exact Kept.of_eq (steady_lcRefuse ..)

theorem kept_execDramTrainingDone (d failed : Nat) (s : State)  : KeptO s (execDramTrainingDone d failed s) := by
  unfold execDramTrainingDone
  refine kept_atDie _ _ _ (fun s => kept_guard _ _ _ (fun s => ?_))
  split
  · exact Kept.refl _
  · exact kept_dieFaultOp ..

theorem kept_execApertureWrite (x : Nat) (bs : List (Option Byte)) (e : EccEvent) (s : State)  : KeptO s (execApertureWrite x bs e s) := by
  unfold execApertureWrite
  repeat' first
    | with_reducible exact Kept.refl _
    | with_reducible refine KeptO_next _ _ ?_
    | (with_reducible refine kept_whenUp _ _ ?_ ; intro s)
    | (with_reducible refine kept_guard _ _ _ ?_ ; intro s)
    | with_reducible exact kept_aperWrite ..
    | with_reducible refine Kept.trans ?_ (kept_aperWrite ..)
    | simp only [↓steady_guard, ↓steady_whenUp, ↓steady_mk, ↓steady_eta, steady_ite, steady_ite_snd, steady_foldl, implies_true, ite_self, Kept.refl]
    | split

theorem kept_writePwr (off : Nat) (v : Word) (s : State)  : Kept (steady s) (steady (writePwr off v s)) := by
  unfold writePwr
  split
  · exact Kept.of_eq rfl
  · split
    · split
      · exact kept_via _ _ (kept_execWarmResetRequest _ _)
      · exact kept_via _ _ (kept_execColdResetRequest _ _)
    · split
      · exact Kept.of_eq rfl
      · split
        · split
          · exact kept_via _ _ (KeptO.of_steady _ _ (steady_execLcArm _ _))
          · exact kept_via _ _ (kept_execLcGo _ _)
        · split
          · exact Kept.of_eq (steady_writeSleep ..)
          · split
            · exact kept_via _ _ (KeptO.of_steady _ _ (steady_execDomainHoldWrite _ _ _))
            · exact Kept.refl _

theorem kept_writeBlock (k off : Nat) (v : Word) (s : State)  : Kept (steady s) (steady (writeBlock k off v s)) := by
  unfold writeBlock
  repeat' first
    | with_reducible exact Kept.refl _
    | with_reducible exact kept_writePwr ..
    | with_reducible refine Kept.trans ?_ (kept_writePwr ..)
    | simp only [↓steady_setReg, ↓steady_writeDie, ↓steady_writeDsp, ↓steady_writeFlow, ↓steady_writeFw, ↓steady_writeHost, ↓steady_writeIc, ↓steady_writeMc, ↓steady_writeTack, ↓steady_yokeCmd, ↓steady_mk, ↓steady_eta, steady_ite, steady_ite_snd, steady_foldl, implies_true, ite_self, Kept.refl]
    | with_reducible refine Kept.trans ?_ (kept_foldl _ _ _ (fun s a => ?_))
    | split

theorem kept_writePage (k off : Nat) (v : Word) (s : State)  : Kept (steady s) (steady (writePage k off v s)) := by
  unfold writePage
  repeat' first
    | with_reducible exact Kept.refl _
    | with_reducible exact kept_writeBlock ..
    | with_reducible refine Kept.trans ?_ (kept_writeBlock ..)
    | simp only [↓steady_stagePage, ↓steady_writeHeader, ↓steady_mk, ↓steady_eta, steady_ite, steady_ite_snd, steady_foldl, implies_true, ite_self, Kept.refl]
    | with_reducible refine Kept.trans ?_ (kept_foldl _ _ _ (fun s a => ?_))
    | split

theorem kept_writeBar2 (o : Nat) (v : Word) (s : State)  : Kept (steady s) (steady (writeBar2 o v s)) := by
  unfold writeBar2
  repeat' first
    | with_reducible exact Kept.refl _
    | with_reducible exact kept_writeEntry ..
    | with_reducible refine Kept.trans ?_ (kept_writeEntry ..)
    | simp only [↓steady_routeSource, ↓steady_stageTable, ↓steady_mk, ↓steady_eta, steady_ite, steady_ite_snd, steady_foldl, implies_true, ite_self, Kept.refl]
    | with_reducible refine Kept.trans ?_ (kept_foldl _ _ _ (fun s a => ?_))
    | split

theorem kept_writeReg (a size : Nat) (v : BitVec 64) (s : State)  : Kept (steady s) (steady (writeReg a size v s)) := by
  unfold writeReg
  split
  · split
    · exact kept_writePage ..
    · exact Kept.refl _
  · split
    · exact kept_writeWords _ _ _ _ _ (fun n w s => kept_writeBar2 ..)
    · exact Kept.of_eq (steady_writeWords _ _ _ _ _ (fun n w s => steady_writeBar4 ..))

theorem kept_execRegisterWrite (req : Requester) (a size : Nat) (v : BitVec 64) (s : State)  : KeptO s (execRegisterWrite req a size v s) := by
  unfold execRegisterWrite
  repeat' first
    | with_reducible exact Kept.refl _
    | with_reducible refine KeptO_next _ _ ?_
    | (with_reducible refine kept_whenUp _ _ ?_ ; intro s)
    | (with_reducible refine kept_guard _ _ _ ?_ ; intro s)
    | with_reducible exact kept_writeReg ..
    | with_reducible refine Kept.trans ?_ (kept_writeReg ..)
    | simp only [↓steady_guard, ↓steady_whenUp, ↓steady_mk, ↓steady_eta, steady_ite, steady_ite_snd, steady_foldl, implies_true, ite_self, Kept.refl]
    | split

theorem kept_execCommitTableWrite (q w : Nat) (v : Word) (s : State)  : KeptO s (execCommitTableWrite q w v s) := by
  unfold execCommitTableWrite
  repeat' first
    | with_reducible exact Kept.refl _
    | with_reducible refine KeptO_next _ _ ?_
    | (with_reducible refine kept_whenUp _ _ ?_ ; intro s)
    | (with_reducible refine kept_guard _ _ _ ?_ ; intro s)
    | with_reducible exact kept_writeEntry ..
    | with_reducible refine Kept.trans ?_ (kept_writeEntry ..)
    | simp only [↓steady_whenUp, ↓steady_mk, ↓steady_eta, steady_ite, steady_ite_snd, steady_foldl, implies_true, ite_self, Kept.refl]
    | split

theorem kept_execBootWaitEnd (s : State)  : KeptO s (execBootWaitEnd s) := by
  unfold execBootWaitEnd
  repeat' first
    | with_reducible exact Kept.refl _
    | with_reducible refine KeptO_next _ _ ?_
    | (with_reducible refine kept_whenUp _ _ ?_ ; intro s)
    | (with_reducible refine kept_guard _ _ _ ?_ ; intro s)
    | with_reducible exact kept_bootWaitOp ..
    | with_reducible refine Kept.trans ?_ (kept_bootWaitOp ..)
    | simp only [↓steady_whenUp, ↓steady_mk, ↓steady_eta, steady_ite, steady_ite_snd, steady_foldl, implies_true, ite_self, Kept.refl]
    | split

theorem kept_execFenceRead (ch : Nat) (s : State)  : KeptO s (execFenceRead ch s) := by
  exact kept_atChannel _ _ _ (fun s => kept_reading _ _ _ (fun s => kept_fenceReadOp ..))

theorem kept_execCanvasPoint (ch k : Nat) (left : List (Nat × Nat × Nat × Nat)) (s : State)  : KeptO s (execCanvasPoint ch k left s) := by
  exact kept_atChannel _ _ _ (fun s =>
    (kept_reading _ _ _ (fun s => kept_canvasPointOp ..)).trans (Kept.of_eq (steady_wakeItems ..)))

theorem kept_relCh (ch : Nat) (h : YHdr) (i : Instr) (s : State)  : KeptO s (relCh ch h i s) := by
  unfold relCh
  repeat' first
    | (with_reducible refine kept_atChannel _ _ _ ?_ ; intro s)
    | with_reducible exact Kept.refl _
    | with_reducible refine KeptO_next _ _ ?_
    | (with_reducible refine kept_whenUp _ _ ?_ ; intro s)
    | (with_reducible refine kept_guard _ _ _ ?_ ; intro s)
    | with_reducible exact kept_rxRel ..
    | with_reducible refine Kept.trans ?_ (kept_rxRel ..)
    | simp only [↓steady_atChannel, ↓steady_mk, ↓steady_eta, steady_ite, steady_ite_snd, steady_foldl, implies_true, ite_self, Kept.refl]
    | split

theorem kept_rel (h : YHdr) (i : Instr) (s : State)  : KeptO s (rel h i s) := by
  unfold rel
  repeat' first
    | with_reducible exact Kept.refl _
    | with_reducible refine KeptO_next _ _ ?_
    | (with_reducible refine kept_whenUp _ _ ?_ ; intro s)
    | (with_reducible refine kept_guard _ _ _ ?_ ; intro s)
    | with_reducible exact kept_rxRel ..
    | with_reducible refine Kept.trans ?_ (kept_rxRel ..)
    | simp only [↓steady_whenUp, ↓steady_mk, ↓steady_eta, steady_ite, steady_ite_snd, steady_foldl, implies_true, ite_self, Kept.refl]
    | split

theorem kept_execStateFrame (h : YHdr) (r : Record) (s : State)  : KeptO s (execStateFrame h r s) := by
  unfold execStateFrame
  repeat' first
    | with_reducible exact Kept.refl _
    | with_reducible refine KeptO_next _ _ ?_
    | (with_reducible refine kept_whenUp _ _ ?_ ; intro s)
    | (with_reducible refine kept_guard _ _ _ ?_ ; intro s)
    | with_reducible exact kept_relCh ..
    | with_reducible refine Kept.trans ?_ (kept_relCh ..)
    | simp only [↓steady_mk, ↓steady_eta, steady_ite, steady_ite_snd, steady_foldl, implies_true, ite_self, Kept.refl]
    | split

theorem kept_execVerdictFrame (h : YHdr) (ch st cause n : Nat) (s : State)  : KeptO s (execVerdictFrame h ch st cause n s) := by
  unfold execVerdictFrame
  repeat' first
    | with_reducible exact Kept.refl _
    | with_reducible refine KeptO_next _ _ ?_
    | (with_reducible refine kept_whenUp _ _ ?_ ; intro s)
    | (with_reducible refine kept_guard _ _ _ ?_ ; intro s)
    | with_reducible exact kept_relCh ..
    | with_reducible refine Kept.trans ?_ (kept_relCh ..)
    | simp only [↓steady_mk, ↓steady_eta, steady_ite, steady_ite_snd, steady_foldl, implies_true, ite_self, Kept.refl]
    | split

theorem kept_execVoteFrame (h : YHdr) (q g : Nat) (crc tcrc : Word) (live res : Nat) (s : State)  : KeptO s (execVoteFrame h q g crc tcrc live res s) := by
  unfold execVoteFrame
  repeat' first
    | with_reducible exact Kept.refl _
    | with_reducible refine KeptO_next _ _ ?_
    | (with_reducible refine kept_whenUp _ _ ?_ ; intro s)
    | (with_reducible refine kept_guard _ _ _ ?_ ; intro s)
    | with_reducible exact kept_rel ..
    | with_reducible refine Kept.trans ?_ (kept_rel ..)
    | simp only [↓steady_mk, ↓steady_eta, steady_ite, steady_ite_snd, steady_foldl, implies_true, ite_self, Kept.refl]
    | split

theorem kept_execDecidePass (h : YHdr) (q g e : Nat) (s : State)  : KeptO s (execDecidePass h q g e s) := by
  unfold execDecidePass
  repeat' first
    | with_reducible exact Kept.refl _
    | with_reducible refine KeptO_next _ _ ?_
    | (with_reducible refine kept_whenUp _ _ ?_ ; intro s)
    | (with_reducible refine kept_guard _ _ _ ?_ ; intro s)
    | with_reducible exact kept_rel ..
    | with_reducible refine Kept.trans ?_ (kept_rel ..)
    | simp only [↓steady_mk, ↓steady_eta, steady_ite, steady_ite_snd, steady_foldl, implies_true, ite_self, Kept.refl]
    | split

theorem kept_execDecideFail (h : YHdr) (q g : Nat) (s : State)  : KeptO s (execDecideFail h q g s) := by
  unfold execDecideFail
  repeat' first
    | with_reducible exact Kept.refl _
    | with_reducible refine KeptO_next _ _ ?_
    | (with_reducible refine kept_whenUp _ _ ?_ ; intro s)
    | (with_reducible refine kept_guard _ _ _ ?_ ; intro s)
    | with_reducible exact kept_rel ..
    | with_reducible refine Kept.trans ?_ (kept_rel ..)
    | simp only [↓steady_mk, ↓steady_eta, steady_ite, steady_ite_snd, steady_foldl, implies_true, ite_self, Kept.refl]
    | split

theorem kept_execDecideCatchup (h : YHdr) (q g : Nat) (s : State)  : KeptO s (execDecideCatchup h q g s) := by
  unfold execDecideCatchup
  repeat' first
    | with_reducible exact Kept.refl _
    | with_reducible refine KeptO_next _ _ ?_
    | (with_reducible refine kept_whenUp _ _ ?_ ; intro s)
    | (with_reducible refine kept_guard _ _ _ ?_ ; intro s)
    | with_reducible exact kept_rel ..
    | with_reducible refine Kept.trans ?_ (kept_rel ..)
    | simp only [↓steady_mk, ↓steady_eta, steady_ite, steady_ite_snd, steady_foldl, implies_true, ite_self, Kept.refl]
    | split

theorem kept_execCopyBulk (h : YHdr) (ch stall off : Nat) (b : List Byte) (s : State)  : KeptO s (execCopyBulk h ch stall off b s) := by
  unfold execCopyBulk
  repeat' first
    | with_reducible exact Kept.refl _
    | with_reducible refine KeptO_next _ _ ?_
    | (with_reducible refine kept_whenUp _ _ ?_ ; intro s)
    | (with_reducible refine kept_guard _ _ _ ?_ ; intro s)
    | with_reducible exact kept_relCh ..
    | with_reducible refine Kept.trans ?_ (kept_relCh ..)
    | simp only [↓steady_mk, ↓steady_eta, steady_ite, steady_ite_snd, steady_foldl, implies_true, ite_self, Kept.refl]
    | split

theorem kept_execCopyRow (h : YHdr) (ch stall off : Nat) (b : List Byte) (s : State)  : KeptO s (execCopyRow h ch stall off b s) := by
  unfold execCopyRow
  repeat' first
    | with_reducible exact Kept.refl _
    | with_reducible refine KeptO_next _ _ ?_
    | (with_reducible refine kept_whenUp _ _ ?_ ; intro s)
    | (with_reducible refine kept_guard _ _ _ ?_ ; intro s)
    | with_reducible exact kept_relCh ..
    | with_reducible refine Kept.trans ?_ (kept_relCh ..)
    | simp only [↓steady_mk, ↓steady_eta, steady_ite, steady_ite_snd, steady_foldl, implies_true, ite_self, Kept.refl]
    | split

theorem kept_execCopyMirror (h : YHdr) (ch stall off : Nat) (b : List Byte) (s : State)  : KeptO s (execCopyMirror h ch stall off b s) := by
  unfold execCopyMirror
  repeat' first
    | (with_reducible refine kept_atChannel _ _ _ ?_ ; intro s)
    | with_reducible exact Kept.refl _
    | with_reducible refine KeptO_next _ _ ?_
    | (with_reducible refine kept_whenUp _ _ ?_ ; intro s)
    | (with_reducible refine kept_guard _ _ _ ?_ ; intro s)
    | with_reducible exact kept_copyMirrorOp ..
    | with_reducible refine Kept.trans ?_ (kept_copyMirrorOp ..)
    | simp only [↓steady_atChannel, ↓steady_bump, ↓steady_mk, ↓steady_eta, steady_ite, steady_ite_snd, steady_foldl, implies_true, ite_self, Kept.refl]
    | split

theorem kept_execBulkCopyDone (ch : Nat) (s : State)  : KeptO s (execBulkCopyDone ch s) := by
  unfold execBulkCopyDone
  exact kept_atChannel _ _ _ (fun s => kept_reading _ _ _ (fun s => Kept.of_eq (steady_bulkDoneOp ..)))

theorem kept_execResyncRequest (h : YHdr) (ch : Nat) (s : State)  : KeptO s (execResyncRequest h ch s) := by
  unfold execResyncRequest
  repeat' first
    | with_reducible exact Kept.refl _
    | with_reducible refine KeptO_next _ _ ?_
    | (with_reducible refine kept_whenUp _ _ ?_ ; intro s)
    | (with_reducible refine kept_guard _ _ _ ?_ ; intro s)
    | with_reducible exact kept_relCh ..
    | with_reducible refine Kept.trans ?_ (kept_relCh ..)
    | simp only [↓steady_mk, ↓steady_eta, steady_ite, steady_ite_snd, steady_foldl, implies_true, ite_self, Kept.refl]
    | split

theorem kept_execResyncCheckpointTaken (h : YHdr) (ch pins n : Nat) (s : State)  : KeptO s (execResyncCheckpointTaken h ch pins n s) := by
  unfold execResyncCheckpointTaken
  repeat' first
    | with_reducible exact Kept.refl _
    | with_reducible refine KeptO_next _ _ ?_
    | (with_reducible refine kept_whenUp _ _ ?_ ; intro s)
    | (with_reducible refine kept_guard _ _ _ ?_ ; intro s)
    | with_reducible exact kept_relCh ..
    | with_reducible refine Kept.trans ?_ (kept_relCh ..)
    | simp only [↓steady_mk, ↓steady_eta, steady_ite, steady_ite_snd, steady_foldl, implies_true, ite_self, Kept.refl]
    | split

theorem kept_execResyncCopyDone (h : YHdr) (ch m : Nat) (joins : Bool) (s : State)  : KeptO s (execResyncCopyDone h ch m joins s) := by
  unfold execResyncCopyDone
  repeat' first
    | with_reducible exact Kept.refl _
    | with_reducible refine KeptO_next _ _ ?_
    | (with_reducible refine kept_whenUp _ _ ?_ ; intro s)
    | (with_reducible refine kept_guard _ _ _ ?_ ; intro s)
    | with_reducible exact kept_relCh ..
    | with_reducible refine Kept.trans ?_ (kept_relCh ..)
    | simp only [↓steady_mk, ↓steady_eta, steady_ite, steady_ite_snd, steady_foldl, implies_true, ite_self, Kept.refl]
    | split

theorem kept_execResyncAbort (h : YHdr) (ch : Nat) (s : State)  : KeptO s (execResyncAbort h ch s) := by
  unfold execResyncAbort
  repeat' first
    | with_reducible exact Kept.refl _
    | with_reducible refine KeptO_next _ _ ?_
    | (with_reducible refine kept_whenUp _ _ ?_ ; intro s)
    | (with_reducible refine kept_guard _ _ _ ?_ ; intro s)
    | with_reducible exact kept_relCh ..
    | with_reducible refine Kept.trans ?_ (kept_relCh ..)
    | simp only [↓steady_resyncAbort, ↓steady_mk, ↓steady_eta, steady_ite, steady_ite_snd, steady_foldl, implies_true, ite_self, Kept.refl]
    | split

theorem kept_execYieldFrame (h : YHdr) (c tR tT : Nat) (s : State)  : KeptO s (execYieldFrame h c tR tT s) := by
  unfold execYieldFrame
  repeat' first
    | with_reducible exact Kept.refl _
    | with_reducible refine KeptO_next _ _ ?_
    | (with_reducible refine kept_whenUp _ _ ?_ ; intro s)
    | (with_reducible refine kept_guard _ _ _ ?_ ; intro s)
    | with_reducible exact kept_rel ..
    | with_reducible refine Kept.trans ?_ (kept_rel ..)
    | simp only [↓steady_mk, ↓steady_eta, steady_ite, steady_ite_snd, steady_foldl, implies_true, ite_self, Kept.refl]
    | split

theorem kept_execDoorbellFrame (h : YHdr) (n : Nat) (s : State)  : KeptO s (execDoorbellFrame h n s) := by
  unfold execDoorbellFrame
  repeat' first
    | with_reducible exact Kept.refl _
    | with_reducible refine KeptO_next _ _ ?_
    | (with_reducible refine kept_whenUp _ _ ?_ ; intro s)
    | (with_reducible refine kept_guard _ _ _ ?_ ; intro s)
    | with_reducible exact kept_rel ..
    | with_reducible refine Kept.trans ?_ (kept_rel ..)
    | simp only [↓steady_mk, ↓steady_eta, steady_ite, steady_ite_snd, steady_foldl, implies_true, ite_self, Kept.refl]
    | split

theorem kept_execDieFault (d : Nat) (cause : Option (Nat × Nat)) (s : State)  : KeptO s (execDieFault d cause s) := by
  unfold execDieFault
  repeat' first
    | (with_reducible refine kept_atDie _ _ _ ?_ ; intro s)
    | with_reducible exact Kept.refl _
    | with_reducible refine KeptO_next _ _ ?_
    | (with_reducible refine kept_whenUp _ _ ?_ ; intro s)
    | (with_reducible refine kept_guard _ _ _ ?_ ; intro s)
    | with_reducible exact kept_dieFaultFor ..
    | with_reducible refine Kept.trans ?_ (kept_dieFaultFor ..)
    | simp only [↓steady_atDie, ↓steady_mk, ↓steady_eta, steady_ite, steady_ite_snd, steady_foldl, implies_true, ite_self, Kept.refl]
    | split

theorem kept_execMirrorCopy (ch : Nat) (s : State)  : KeptO s (execMirrorCopy ch s) := by
  exact kept_atChannel _ _ _ (fun s => kept_reading _ _ _ (fun s => kept_mirrorOp ..))

end Sys2Proof.Laws
end

