-- ==== Sys2Proof/Laws/Lanes.lean ====
section
/-! SUPPORT. What a change of a lane's state can change (R446–R459): that lane, shares of blocks in lanes of its port, flags and counters of pages, messages on their
way, and, for a yoke lane, the beat lane that leaves idle. -/

namespace Sys2Proof.Laws

open Sys2Proof Sys2Proof.Machine

/-- What a change of lane `l` leaves of a state. -/
structure LaneKept (l : Nat) (s t : State) : Prop where
  frame : t = { s with out := t.out, pages := t.pages, ctrs := t.ctrs, lanes := t.lanes
                       ic := { s.ic with inflight := t.ic.inflight } }
  fault : ∀ k, (page t k).fault = (page s k).fault
  other : ∀ m, m < 32 → m ≠ l → lane t m = { lane s m with shares := (lane t m).shares, portSyms := (lane t m).portSyms }
  sends : 32 ≤ l ∨ t.out = s.out

theorem LaneKept.refl (l : Nat) (s : State) : LaneKept l s s := ⟨rfl, fun _ => rfl, fun _ _ _ => rfl, .inr rfl⟩

theorem LaneKept.trans {l : Nat} {s t u : State} (h : LaneKept l s t) (g : LaneKept l t u) : LaneKept l s u where
  frame := by
    have h1 := h.frame
    have g1 := g.frame
    rw [h1] at g1
    exact g1
  fault k := (g.fault k).trans (h.fault k)
  other m a b := by rw [g.other m a b, h.other m a b]
  sends := by
    rcases h.sends with a | a
    · exact .inl a
    · rcases g.sends with b | b
      · exact .inl b
      · exact .inr (b.trans a)

theorem LaneKept.bump (l k n x : Nat) (s : State) : LaneKept l s (bump k n x s) :=
  ⟨rfl, fun _ => rfl, fun _ _ _ => rfl, .inr rfl⟩

theorem LaneKept.raiseBit (l k i : Nat) (s : State) : LaneKept l s (raiseBit k i s) where
  frame := by
    unfold Machine.raiseBit Machine.raise
    dsimp only
    split <;> rfl
  fault j := by
    have h := page_raise k (bitW i) s j
    unfold Machine.raiseBit
    rw [h]
    split
    · subst_vars; rfl
    · rfl
  other m _ _ := by
    have e : lane (Machine.raiseBit k i s) m = lane s m := by
      unfold Machine.raiseBit
      rw [raise_frame]; rfl
    rw [e]
  sends := .inr (by unfold Machine.raiseBit; rw [raise_frame])

theorem LaneKept.modLane (l : Nat) (f : Lane → Lane) (s : State) : LaneKept l s (modLane l f s) where
  frame := rfl
  fault _ := rfl
  other m _ h := by rw [lane_modLane, if_neg h]
  sends := .inr rfl

/-- A change of nothing but a lane's shares of its port's blocks. -/
theorem LaneKept.modShares (l m : Nat) (f : Lane → Lane) (s : State)
    (h : ∀ x, f x = { x with shares := (f x).shares, portSyms := (f x).portSyms }) : LaneKept l s (Machine.modLane m f s) where
  frame := rfl
  fault _ := rfl
  other j _ _ := by
    rw [lane_modLane]
    split
    · subst_vars; exact h _
    · rfl
  sends := .inr rfl

theorem LaneKept.foldl {α : Type} (l : Nat) (f : State → α → State) (as : List α) (s : State) (h : ∀ s a, LaneKept l s (f s a)) :
    LaneKept l s (as.foldl f s) := by
  induction as generalizing s with
  | nil => exact .refl l s
  | cons a as ih => exact (h s a).trans (ih _)

theorem LaneKept.blocksAnew (l : Nat) (s : State) : LaneKept l s (blocksAnew l s) := by
  unfold Machine.blocksAnew
  refine (LaneKept.modLane l _ s).trans (.foldl l _ _ _ fun s x => ?_)
  exact .modShares l x _ s fun _ => rfl

theorem LaneKept.linkEvents (g : Nat → Word) (l m : Nat) (s0 s : State) : LaneKept l s (linkEvents g m s0 s) := by
  unfold Machine.linkEvents
  dsimp only
  repeat' split
  all_goals first
    | exact .refl l s
    | exact .raiseBit l _ _ s
    | exact (LaneKept.raiseBit l _ _ s).trans (.raiseBit l _ _ _)
    | exact (LaneKept.raiseBit l _ _ s).trans (.bump l _ _ _ _)
    | exact ((LaneKept.raiseBit l _ _ s).trans (.bump l _ _ _ _)).trans (.raiseBit l _ _ _)

theorem LaneKept.allLinkEvents (l m : Nat) (s0 s : State) : LaneKept l s (allLinkEvents m s0 s) := by
  unfold Machine.allLinkEvents
  dsimp only
  repeat' split
  all_goals first
    | exact .linkEvents _ l _ _ s
    | exact (LaneKept.linkEvents _ l _ _ s).trans (.linkEvents _ l _ _ _)

theorem LaneKept.eyeAbort (l : Nat) (s : State) : LaneKept l s (eyeAbort l s) := by
  unfold Machine.eyeAbort
  split
  · exact (LaneKept.modLane l _ s).trans (.raiseBit l _ _ _)
  · exact .refl l s

theorem beatLane_yoke (s : State) (l : Nat) (h : beatLane s = some l) : 32 ≤ l := by
  have := List.mem_of_find?_eq_some h
  simp at this
  omega

theorem LaneKept.wakeBeat (l : Nat) (hl : 32 ≤ l) (s : State) : LaneKept l s (wakeBeat s) := by
  unfold Machine.wakeBeat
  split
  · rename_i b hb
    have hy := beatLane_yoke s b hb
    split
    · unfold idleExit
      refine ⟨rfl, fun _ => rfl, ?_, .inl hl⟩
      intro m hm _
      have e : lane (emit (.wakeBurst b) (dieCtr b 8 1 (Machine.modLane b (fun x => { x with st := stUp, txOn := true }) s))) m = lane s m :=
        (lane_modLane b (fun x => { x with st := stUp, txOn := true }) s m).trans (if_neg (by omega))
      rw [e]
    · exact .refl l s
  · exact .refl l s

theorem LaneKept.laneMove (l st : Nat) (s : State) : LaneKept l s (laneMove l st s) := by
  unfold Machine.laneMove
  extract_lets old s1
  have a1 : LaneKept l s s1 := .modLane l _ s
  clear_value s1
  split
  · exact a1
  · split
    · exact (a1.trans (.eyeAbort l s1)).trans (.blocksAnew l _)
    · exact a1.trans (.blocksAnew l _)

/-- What entering a state keeps. -/
theorem LaneKept.laneTo (l st : Nat) (s : State) : LaneKept l s (laneTo l st s) := by
  unfold Machine.laneTo
  have a := (LaneKept.laneMove l st s).trans (.allLinkEvents l l s (Machine.laneMove l st s))
  dsimp only
  split
  · exact a.trans (.wakeBeat l (by assumption) _)
  · exact a

theorem raiseBit_lanes (k i : Nat) (s : State) : (Machine.raiseBit k i s).lanes = s.lanes := by
  unfold Machine.raiseBit
  rw [raise_frame]

theorem linkEvents_lanes (g : Nat → Word) (m : Nat) (s0 s : State) : (linkEvents g m s0 s).lanes = s.lanes := by
  unfold Machine.linkEvents
  dsimp only
  repeat' split
  all_goals simp only [raiseBit_lanes, bump_lanes]

theorem allLinkEvents_lanes (m : Nat) (s0 s : State) : (allLinkEvents m s0 s).lanes = s.lanes := by
  unfold Machine.allLinkEvents
  dsimp only
  repeat' split
  all_goals simp only [linkEvents_lanes]

theorem foldl_st {α : Type} (l : Nat) (f : State → α → State) (as : List α) (s : State) (h : ∀ s a, (lane (f s a) l).st = (lane s l).st) :
    (lane (as.foldl f s) l).st = (lane s l).st := by
  induction as generalizing s with
  | nil => rfl
  | cons a as ih => exact (ih _).trans (h s a)

/-- A change of a lane that leaves its state leaves every lane's. -/
theorem modLane_st (l m : Nat) (f : Lane → Lane) (s : State) (h : ∀ x, (f x).st = x.st) : (lane (modLane m f s) l).st = (lane s l).st := by
  rw [lane_modLane]
  split
  · subst_vars; exact h _
  · rfl

theorem blocksAnew_st (l m : Nat) (s : State) : (lane (blocksAnew m s) l).st = (lane s l).st := by
  unfold blocksAnew
  refine (foldl_st l _ _ _ fun s x => ?_).trans ?_
  · exact modLane_st l x _ s fun _ => rfl
  · exact modLane_st l m _ s fun _ => rfl

/-- The lane is in the state it entered. -/
theorem laneMove_st (l st : Nat) (s : State) : (lane (laneMove l st s) l).st = st := by
  have hl : ∀ u v : State, u.lanes = v.lanes → (lane u l).st = (lane v l).st := by
    intro u v e; unfold lane; rw [e]
  unfold Machine.laneMove
  extract_lets old s1
  have a1 : (lane s1 l).st = st := by
    unfold s1; rw [lane_modLane, if_pos rfl]
  clear_value s1
  split
  · exact a1
  · rw [blocksAnew_st]
    split
    · unfold Machine.eyeAbort
      split
      · rw [hl _ _ (raiseBit_lanes _ _ _)]
        refine (modLane_st l l _ _ ?_).trans a1
        exact fun _ => rfl
      · exact a1
    · exact a1

/-- An Ethernet lane is in the state it entered; an idle yoke lane may have left idle at once (R456). -/
theorem laneTo_st (l st : Nat) (s : State) (h : l < 32) : (lane (laneTo l st s) l).st = st := by
  unfold Machine.laneTo
  dsimp only
  rw [if_neg (show ¬ 32 ≤ l by omega)]
  have e : lane (allLinkEvents l s (Machine.laneMove l st s)) l = lane (Machine.laneMove l st s) l := by
    unfold lane; rw [allLinkEvents_lanes]
  rw [e]
  exact laneMove_st l st s

theorem LaneKept.laneOff (l : Nat) (s : State) : LaneKept l s (laneOff l s) := by
  unfold Machine.laneOff
  split
  · exact .refl l s
  · exact .laneTo l _ s

theorem LaneKept.dropReady (l : Nat) (ks : List Nat) (s0 s : State) : LaneKept l s (dropReady ks s0 s) := by
  unfold Machine.dropReady raiseN
  dsimp only
  split
  · exact .refl l s
  · refine (show LaneKept l s (Machine.raise pgPwr (bitW 2) s) from .raiseBit l pgPwr 2 s).trans ?_
    refine ⟨rfl, ?_, fun _ _ _ => rfl, .inr rfl⟩
    intro k
    rw [page_modPage]
    split
    · subst_vars; rfl
    · rfl

/-- What a fault of page `k` changes (R44, R87): its FAULT bit, lanes, and flags. -/
theorem setFault_kept (k : Nat) (s : State) :
    setFault k s = { s with out := (setFault k s).out, pages := (setFault k s).pages, ctrs := (setFault k s).ctrs
                            lanes := (setFault k s).lanes, ic := { s.ic with inflight := (setFault k s).ic.inflight } } ∧
    ∀ j, (page (setFault k s) j).fault = ((page s j).fault || decide (j = k)) := by
  have h0 : ∀ j, (page (modPage k (fun h => { h with fault := true }) s) j).fault = ((page s j).fault || decide (j = k)) := by
    intro j
    rw [page_modPage]
    split
    · subst_vars; simp
    · rename_i h; simp [h]
  -- what any change of lanes leaves, whichever lanes they are
  let P : State → Prop := fun u =>
    u = { s with out := u.out, pages := u.pages, ctrs := u.ctrs, lanes := u.lanes, ic := { s.ic with inflight := u.ic.inflight } } ∧
      ∀ j, (page u j).fault = ((page s j).fault || decide (j = k))
  have step : ∀ l u v, P u → LaneKept l u v → P v := by
    intro l u v hu hv
    refine ⟨?_, fun j => (hv.fault j).trans (hu.2 j)⟩
    have e := hv.frame
    rw [hu.1] at e
    exact e
  have lanes : ∀ (ls : List Nat) u, P u → P (ls.foldl (fun s l => laneTo l stFault s) u) := by
    intro ls
    induction ls with
    | nil => exact fun u hu => hu
    | cons l ls ih => exact fun u hu => ih _ (step l _ _ hu (.laneTo l _ u))
  show P (setFaults [k] s)
  unfold setFaults
  simp only [List.foldl_cons, List.foldl_nil]
  unfold faultActs
  have a1 : P (dropReady (fallWith [k]) s (modPage k (fun h => { h with fault := true }) s)) :=
    step 0 _ _ ⟨rfl, h0⟩ (.dropReady 0 _ s _)
  dsimp only
  split
  · exact lanes _ _ (step 0 _ _ a1 (.raiseBit 0 _ _ _))
  · exact lanes _ _ a1

end Sys2Proof.Laws
end

