-- ==== Sys2Proof/Machine/Package.lean ====
section
/-! DEFINITION. The package (R500–R518): outlines, the balls and what each carries, supply limits and their order, the DC and thermal limits,
ordering codes. No command reads them. Lengths are in 0.1 mm, voltages in mV, currents in 0.1 A, temperatures in °C. -/

namespace Sys2Proof.Machine

open Sys2Proof

/-! ## Outlines (R500) -/

/-- A package outline. -/
structure Outline where
  body      : Nat   -- edge, ± 0.15 mm
  grid      : Nat   -- rows, and columns
  span      : Nat   -- of the array, centred on the body
  balls     : Nat
  height    : Nat   -- over the lid, at most
  massGrams : Nat   -- typical
  deriving DecidableEq, Repr

/-- The outline of a variant. -/
def outline (v : Variant) : Outline :=
  match v with
  | .vl820 => { body := 550, grid := 54, span := 530, balls := 2880, height := 46, massGrams := 42 }
  | .vl840 => { body := 700, grid := 69, span := 680, balls := 4608, height := 48, massGrams := 68 }
  | .vl880 => { body := 850, grid := 84, span := 830, balls := 6912, height := 50, massGrams := 104 }

/-! ## Ball names (R501) -/

/-- The letters of row names. -/
def rowLetters : List Char := ['A', 'B', 'C', 'D', 'E', 'F', 'G', 'H', 'J', 'K', 'L', 'M', 'N', 'P', 'T', 'U', 'V', 'W', 'Y']

/-- The name of row `i`, from 1. -/
def rowName (i : Nat) : List Char :=
  if i ≤ 19 then [rowLetters.getD (i - 1) 'A']
  else [['A', 'B', 'C', 'D'].getD ((i - 20) / 19) 'A', rowLetters.getD ((i - 20) % 19) 'A']

/-- The name of the ball in row `i` and column `j`. -/
def ballName (i j : Nat) : List Char := rowName i ++ Nat.toDigits 10 j

/-- The positions without a ball (R502). -/
def depopulated (v : Variant) (i j : Nat) : Bool :=
  match v with
  | .vl820 => decide (25 ≤ i ∧ i ≤ 30 ∧ 25 ≤ j ∧ j ≤ 30)
  | .vl840 => decide (31 ≤ i ∧ i ≤ 39 ∧ 27 ≤ j ∧ j ≤ 43)
  | .vl880 => decide (37 ≤ i ∧ i ≤ 48 ∧ 37 ≤ j ∧ j ≤ 48)

/-! ## What a ball carries (R503–R506) -/

/-- The supply rails. -/
inductive Rail where
  | vddCore
  | vddSram
  | vddaL09
  | vddaL12
  | vddq
  | vdd2h
  | vdd1
  | vddio18
  | vddioF
  deriving DecidableEq, Repr

/-- Signals of the package; of a pair, `neg` is its N ball. -/
inductive Signal where
  | eth (lane : Nat) (rx neg : Bool)
  | pe (lane : Nat) (rx neg : Bool)
  | yk (lane : Nat) (rx neg : Bool)
  | xtalIn
  | xtalOut
  | ref10m
  | pps
  | hb (rx neg : Bool)
  | peRefclk (neg : Bool)
  | perst
  | testEn
  | tdiode (neg : Bool)
  | tdm (port pin : Nat)   -- pins 0 to 3: BCLK, FS, DIN, DOUT
  | mclk
  | xspiCk
  | xspiCs
  | xspiDqs
  | xspiReset
  | xspiDq (n : Nat)
  deriving DecidableEq, Repr

/-- What a position carries. -/
inductive Ball where
  | none
  | vss
  | rail (r : Rail)
  | signal (x : Signal)
  deriving DecidableEq, Repr

/-- A pair of an edge at columns (or rows) from `first`, four a lane: lane and N, for position `x`. -/
def pairAt (first lanes x : Nat) : Option (Nat × Bool) :=
  if first ≤ x ∧ (x - first) % 4 < 2 ∧ (x - first) / 4 < lanes then some ((x - first) / 4, decide ((x - first) % 4 = 1)) else .none

/-- The high-speed pair at a position (R503). -/
def pairSignal (v : Variant) (i j : Nat) : Option Signal :=
  let y := (outline v).grid
  let low := match v with
    | .vl820 => 8
    | _ => 16
  if i = y ∨ i + 2 = y then (pairAt 3 low j).map (fun p => .eth p.1 (decide (i ≠ y)) p.2)
  else if (j = y ∨ j + 2 = y) ∧ v = .vl880 then (pairAt 11 16 i).map (fun p => .eth (16 + p.1) (decide (j ≠ y)) p.2)
  else if i = 1 ∨ i = 3 then
    match pairAt 3 8 j with
    | some p => some (.pe p.1 (decide (i = 3)) p.2)
    | .none => (pairAt 37 4 j).map (fun p => .yk p.1 (decide (i = 3)) p.2)
  else .none

/-- The single-instance signal at a position, rows E to H (R504). -/
def singleSignal (i j : Nat) : Option Signal :=
  if i = 5 then
    match j with
    | 1 => some .xtalIn
    | 2 => some .xtalOut
    | 4 => some .ref10m
    | 5 => some .pps
    | 7 => some (.hb false false)
    | 8 => some (.hb false true)
    | 10 => some (.hb true false)
    | 11 => some (.hb true true)
    | 13 => some (.peRefclk false)
    | 14 => some (.peRefclk true)
    | 16 => some .perst
    | _ => .none
  else if i = 6 then (if 1 ≤ j ∧ j ≤ 16 then some (.tdm ((j - 1) / 4) ((j - 1) % 4)) else .none)
  else if i = 7 then
    match j with
    | 1 => some .mclk
    | 3 => some .xspiCk
    | 4 => some .xspiCs
    | 5 => some .xspiDqs
    | 6 => some .xspiReset
    | _ => if 7 ≤ j ∧ j ≤ 14 then some (.xspiDq (j - 7)) else .none
  else if i = 8 then
    match j with
    | 1 => some .testEn
    | 3 => some (.tdiode false)
    | 4 => some (.tdiode true)
    | _ => .none
  else .none

/-- The supply or ground ball of a position that no signal names (R505). -/
def supplyBall (v : Variant) (i j : Nat) : Ball :=
  let y := (outline v).grid
  let big := decide (v = .vl880)
  if (i + j) % 2 = 1 then .vss
  else if i ≤ 4 ∨ y ≤ i + 3 ∨ (big = true ∧ y ≤ j + 3) then .vss
  else if i = 9 ∨ i + 4 = y ∨ (big = true ∧ j + 4 = y) then .rail .vddaL09
  else if i = 10 ∨ i + 5 = y ∨ (big = true ∧ j + 5 = y) then .rail .vddaL12
  else if i ≤ 8 then
    if 17 ≤ j ∧ j ≤ 20 then .rail .vddio18
    else if j = 21 ∨ j = 22 then .rail .vddioF
    else if 23 ≤ j ∧ j ≤ 32 then .rail .vdd1
    else .vss
  else if j % 12 = 0 then .rail .vddq
  else if j % 12 = 6 then .rail .vdd2h
  else if j % 12 = 3 ∨ j % 12 = 9 then .rail .vddSram
  else .rail .vddCore

/-- What the position in row `i` and column `j`, from 1, carries. -/
def ballAt (v : Variant) (i j : Nat) : Ball :=
  if depopulated v i j then .none
  else
    match pairSignal v i j with
    | some x => .signal x
    | .none =>
      match singleSignal i j with
      | some x => .signal x
      | .none => supplyBall v i j

/-- The I/O rail of a signal of R504. -/
def ioRail (x : Signal) : Option Rail :=
  match x with
  | .xtalIn | .xtalOut | .ref10m | .pps | .hb _ _ | .tdm _ _ | .mclk => some .vddio18
  | .peRefclk _ => some .vddaL09
  | .perst | .testEn | .xspiCk | .xspiCs | .xspiDqs | .xspiReset | .xspiDq _ => some .vddioF
  | .tdiode _ | .eth _ _ _ | .pe _ _ _ | .yk _ _ _ => .none

/-- An output of R504: its quiet state is high impedance without its rails (R508). -/
def isOutput (x : Signal) : Bool :=
  match x with
  | .xtalOut | .hb false _ | .tdm _ 3 | .mclk | .xspiCk | .xspiCs | .xspiReset => true
  | _ => false

/-! ## Supplies (R506–R508) -/

/-- The limits of a rail: operating minimum and maximum, absolute maximum. VDDIO_F runs at 1.8 V or at 3.3 V. -/
structure RailLimits where
  opMin  : Nat
  opMax  : Nat
  absMax : Nat
  deriving DecidableEq, Repr

/-- The limits of a rail; `high` is VDDIO_F at 3.3 V. -/
def railLimits (high : Bool) (r : Rail) : RailLimits :=
  match r with
  | .vddCore => { opMin := 728, opMax := 772, absMax := 900 }
  | .vddSram => { opMin := 776, opMax := 824, absMax := 950 }
  | .vddaL09 => { opMin := 873, opMax := 927, absMax := 1050 }
  | .vddaL12 => { opMin := 1164, opMax := 1236, absMax := 1400 }
  | .vddq => { opMin := 470, opMax := 570, absMax := 800 }
  | .vdd2h => { opMin := 1010, opMax := 1120, absMax := 1500 }
  | .vdd1 => { opMin := 1700, opMax := 1950, absMax := 2100 }
  | .vddio18 => { opMin := 1710, opMax := 1890, absMax := 2100 }
  | .vddioF => if high then { opMin := 3135, opMax := 3465, absMax := 3800 } else { opMin := 1710, opMax := 1890, absMax := 3800 }

/-- A rail within its operating range. -/
def inRange (high : Bool) (r : Rail) (mv : Nat) : Bool := decide ((railLimits high r).opMin ≤ mv) && decide (mv ≤ (railLimits high r).opMax)

/-- The rails. -/
def rails : List Rail := [.vddCore, .vddSram, .vddaL09, .vddaL12, .vddq, .vdd2h, .vdd1, .vddio18, .vddioF]

/-- Every rail is within its operating range: the part is supplied (R506, R508). -/
def allInRange (high : Bool) (mv : Rail → Nat) : Bool := rails.all (fun r => inRange high r (mv r))

/-- The step at which a rail rises. -/
def railStep (r : Rail) : Nat :=
  match r with
  | .vdd1 | .vddio18 | .vddioF => 1
  | .vdd2h | .vddaL12 => 2
  | .vddSram | .vddaL09 => 3
  | .vddCore | .vddq => 4

/-- A rail may begin to rise: every rail of the earlier steps is within its operating range. -/
def railMayRise (high : Bool) (mv : Rail → Nat) (r : Rail) : Bool :=
  rails.all (fun q => !decide (railStep q < railStep r) || inRange high q (mv q))

/-- The greatest current of a rail (R507). -/
def railCurrent (v : Variant) (r : Rail) : Nat :=
  let of := fun (a b c : Nat) => match v with
    | .vl820 => a
    | .vl840 => b
    | .vl880 => c
  match r with
  | .vddCore => of 900 1800 3600
  | .vddSram => of 100 200 400
  | .vddaL09 => of 80 155 300
  | .vddaL12 => of 28 52 100
  | .vddq => of 100 200 400
  | .vdd2h => of 75 150 300
  | .vdd1 => of 5 10 20
  | .vddio18 => 5
  | .vddioF => 2

/-- The greatest total power, in W (R507, R517). -/
def maxPower (v : Variant) : Nat :=
  match v with
  | .vl820 => 105
  | .vl840 => 205
  | .vl880 => 400

/-- The core rail's greatest step within 1 µs: 40 hundredths of its maximum (R507). -/
def coreStep (v : Variant) : Nat := 40 * railCurrent v .vddCore / 100

/-! ## DC limits (R510, R511) -/

/-- An input level reads as 1, as 0, or as neither for certain, at an I/O rail of `vdd` mV; `high` is a VDDIO_F ball at 3.3 V (R511). -/
def inputLevel (high : Bool) (vdd mv : Nat) : Option Bool :=
  if high then (if 2000 ≤ mv then some true else if mv ≤ 800 then some false else .none)
  else if 65 * vdd ≤ 100 * mv then some true
  else if 100 * mv ≤ 35 * vdd then some false
  else .none

/-- The greatest voltage at an input ball of an I/O rail: whatever the rails' state, and, on VDDIO_F, without supplies (R510) or at 1.8 V
(R511). -/
def inputMax (r : Rail) (unpowered : Bool) : Nat := if r = .vddio18 then 1950 else if unpowered then 3630 else 3600

/-! ## Thermal limits (R515, R516) -/

/-- The refresh rate that mode register 4 reports at a memory temperature (R303, R515): the class 1×, 2×, 4×, or beyond its range. -/
def refreshAt (t : Nat) : Nat := if t < 85 then 1 else if t < 95 then 2 else 4
def overTemp (t : Nat) : Bool := decide (105 < t)

/-- Junction to lid, in 0.01 °C/W (R516). -/
def thetaJC (v : Variant) : Nat :=
  match v with
  | .vl820 => 12
  | .vl840 => 8
  | .vl880 => 5

/-- The highest lid temperature at `w` W, in 0.01 °C: the encode junctions at most at 105 °C, the memory dies at most at 95 °C, 8 °C above the
lid. -/
def lidMax (v : Variant) (w : Nat) : Nat := min (10500 - w * thetaJC v) (9500 - 800)

/-! ## Ordering (R518) -/

/-- The ordering code of a variant, whose last letter is the silicon step. -/
def orderingCode (v : Variant) : List Char :=
  match v with
  | .vl820 => ['V', 'L', '8', '2', '0', '-', 'F', 'C', '5', '5', 'A']
  | .vl840 => ['V', 'L', '8', '4', '0', '-', 'F', 'C', '7', '0', 'A']
  | .vl880 => ['V', 'L', '8', '8', '0', '-', 'F', 'C', '8', '5', 'A']

/-- Parts to a tray. -/
def trayOf (v : Variant) : Nat :=
  match v with
  | .vl820 => 10
  | .vl840 => 6
  | .vl880 => 4

end Sys2Proof.Machine
end

