-- ==== Sys2Proof/Tests/Slice0.lean ====
section
/-! SUPPORT. The tests: for each statement a state and operands that meet its hypotheses, an ill-formed command for each check, the
manual's own numbers, and single steps. -/

namespace Sys2Proof.Tests
open Sys2Proof Sys2Proof.Machine

/-! ## States -/

/-- The part with its power state changed. -/
def withPwr (p : Pwr) : State := { State.reset with pwr := p }

/-- Bring-up has ended. -/
def full : State := withPwr { supplied := true, cause := 1, domUp := List.range 128, domOnce := List.range 128, ctrlZero := List.range 8
                              trained := List.range 8, granules := (List.range 8).map (fun d => (d, 60)), sramZero := List.range 8
                              pkgReady := true, fwReady := true, laneCal := List.range 36 }

/-- The same with words in effect. -/
def eff (ws : Tbl Word) : State := { full with live := ws, eff := ws }

/-- A header of a yoke frame that comes next. -/
def nextHdr : YHdr := { crcOk := true, ackReq := false, retry := false, seq := 1, ack := 0 }

/-! ## Witnesses: a state and operands that meet the hypotheses of each clause of a statement -/

theorem witness_resets_clear :
    ({ State.reset.pwr with supplied := false } : Pwr).supplied = false ∧ inReset State.reset = false ∧
    fld (0xA5C30002 : Word) 31 16 = 0xA5C3 ∧ fld (0xA5C30002 : Word) 1 0 = 2 ∧ fld (0xA5C30001 : Word) 31 16 = 0xA5C3 ∧
    fld (0xA5C30001 : Word) 1 0 = 1 ∧ State.reset.pwr.perst = false ∧ State.reset.pwr.perstMode = false := by decide

theorem witness_cleared : Cleared State.reset State.reset ∧ Cleared State.reset { State.reset with pwr := { supplied := false } } :=
  ⟨rfl, rfl⟩

theorem witness_release :
    (let s := withPwr { supplied := true, hold := true, causeBits := 1 }
     s.pwr.supplied = true ∧ s.pwr.hold = true ∧ (s.pwr.perst = false ∨ s.pwr.perstMode = true)) ∧
    (let s := withPwr { supplied := true, hold := true, perst := true, causeBits := 1 }
     s.pwr.supplied = true ∧ s.pwr.hold = true ∧ s.pwr.perst = true ∧ s.pwr.perstMode = false) ∧
    (let s := withPwr { supplied := true, perst := true, perstHolds := true, causeBits := 5 }
     s.pwr.perst = true ∧ s.pwr.perstHolds = true) ∧
    (let s := withPwr { supplied := true, perstMode := true }
     inReset s = false ∧ s.pwr.perst = false ∧ s.pwr.perstMode = true) ∧
    (let s := withPwr { supplied := true, perst := true, perstMode := true }
     inReset s = false ∧ s.pwr.perst = true) := by decide

theorem witness_bring_up :
    (let s := withPwr { supplied := true, domUp := [120, 121, 125, 126, 127], ctrlZero := [7], fwReady := true }
     inReset s = false ∧ 7 < dies s ∧ 7 ∈ s.pwr.ctrlZero ∧ 16 * 7 + 8 ∈ s.pwr.domUp ∧ 16 * 7 + 9 ∈ s.pwr.domUp ∧ 7 ∉ s.pwr.trained ∧
     (page s (pkey 7 0x101)).fault = false ∧ s.pwr.fwReady = true ∧ 16 * 7 + 13 ∈ s.pwr.domUp ∧ 16 * 7 + 14 ∈ s.pwr.domUp) ∧
    (let s := withPwr { supplied := true, trained := [7], granules := [(7, 58)] }
     7 ∈ s.pwr.trained ∧ granules s 7 < 59) ∧
    (let s := withPwr { full.pwr with granules := [(7, 59)] }
     7 ∈ s.pwr.trained ∧ granules s 7 = 59 ∧ s.pwr.pkgReady = true ∧ s.pwr.fwReady = true ∧ lanesReady s 7 = true) ∧
    (let s := { withPwr { supplied := true, granules := (List.range 7).map (fun d => (d, 1)) } with
                pages := [(pkey 7 0x101, { (page State.reset 0) with fault := true })] }
     ∀ e, e < dies s → 0 < granules s e ∨ (page s (pkey e 0x101)).fault = true) := by decide

/-- A set whose check waits for domain 0 of die 0. -/
def domWait : State :=
  { withPwr { supplied := true, domUp := [15], domRising := [0, 126], domOnce := [0, 126], domHold := [(0, 1)] } with
    live := [(chLoc 0 0x154, 1)], checking := some 3, sets := [(3, { st := .check, phase := .domains, gen := 9 })] }

theorem witness_domains :
    (inReset domWait = false ∧ mayRise domWait 7 14 = true ∧ mayRise domWait 0 0 = true ∧ domWait.checking = some 3 ∧
      (cset domWait 3).phase = .domains ∧ (∀ x ∈ domainsMissing domWait (candidate domWait (cset domWait 3).entry), x = 16 * 0 + 0) ∧
      16 * 0 + 0 ∈ domainsMissing domWait (candidate domWait (cset domWait 3).entry) ∧ 16 * 7 + 14 ∈ domWait.pwr.domRising) ∧
    (16 * 7 + 5 ∈ full.pwr.domUp ∧ domNeeded full 7 5 = false ∧ domBusy full 7 5 = false ∧ full.checking = none) := by decide

theorem witness_life_cycle :
    (inReset full = false ∧ fld (0x10000001 : Word) 31 28 = 1 ∧ fld (0x10000001 : Word) 1 0 = lcNext full.pwr.fuses ∧
      full.pwr.fuses < 15 ∧ anyRunning full = false ∧ anySetBusy full = false) ∧
    (fld (0x10000000 : Word) 31 28 = 1 ∧ fld (0x10000000 : Word) 1 0 ≠ lcNext full.pwr.fuses) ∧
    (let s := withPwr { full.pwr with armed := true, target := 1 }
     fld (0x20000001 : Word) 31 28 = 2 ∧ s.pwr.armed = true ∧ s.pwr.target = fld (0x20000001 : Word) 1 0) ∧
    (fld (0x20000001 : Word) 31 28 = 2 ∧ full.pwr.armed = false) := by decide

theorem witness_die_sleep :
    (inReset full = false ∧ 7 ≠ 0 ∧ 7 < dies full ∧ 7 ∉ full.pwr.waking ∧ 7 ∉ full.pwr.asleep ∧ 7 ∉ full.pwr.entering ∧
      dieInUse full 7 = false) ∧
    (let s := { full with host := { aperDie := 7 } }
     inReset s = false ∧ 7 ∉ s.pwr.waking ∧ 7 ∉ s.pwr.asleep ∧ 7 ∉ s.pwr.entering ∧ dieInUse s 7 = true) ∧
    (let s := withPwr { full.pwr with entering := [7], wakeWanted := [7] }
     7 ∈ s.pwr.entering ∧ 7 ∈ s.pwr.wakeWanted) ∧
    (let s := withPwr { full.pwr with asleep := [7] }
     7 ∉ s.pwr.entering ∧ 7 ∈ s.pwr.asleep) ∧
    (∀ n ∈ [0, 1, 2, 3, 4], let s := withPwr { full.pwr with waking := [7], wakeStep := if n = 0 then [] else [(7, n)] }
     inReset s = false ∧ 7 ∈ s.pwr.waking ∧ 7 ∉ s.pwr.asleep ∧ 7 ∉ s.pwr.entering ∧ s.pwr.wakeStep.get (fun _ => 0) 7 = n ∧
       7 ∉ s.pwr.sleepWanted) := by decide

/-- Set 3 names the PKG page and is in state `st`, with generation 1 and the checksum of an unchanged page. -/
def pkgSet (st : SetState) (ph : CheckPhase) : State :=
  { full with ctab := [(48, 0x80000000)], checking := if st = .check then some 3 else none
              sets := [(3, { st := st, phase := ph, gen := 1, crc := 2388190550, entry := 0x80000000 :: List.replicate 13 0 })] }

theorem witness_absent_and_unlisted :
    (let s := { State.reset with variant := .vl820 }
     dies s ≤ 2 ∧ 8191 < 8192 ∧ pkey 2 8191 < 2 ^ 16) ∧
    (7 < 8 ∧ diePage 0x114 = false ∧ packagePage 0x114 = false ∧ diePage 11 = false ∧ diePage 8191 = false) := by decide

theorem witness_pages :
    inReset full = false ∧ pageExists full (pkey 7 0x101) = true ∧ pageExists full (pkey 0 0) = true ∧ 7 < dies full ∧
    (0xFFFFFFFF : Word) &&& ~~~(page full (pkey 7 0x101)).imask = 0 ∧ 127 < 128 ∧ (1 : Word) ≠ 0 ∧ 3 < 4 := by decide

theorem witness_register_writes :
    (0x100 ≤ 0x7FC ∧ 0x7FC < 0x800 ∧ 0x7FC % 4 = 0 ∧ stagedPage 0x200 = true ∧ pageExists full (pkey 7 0x200) = true) ∧
    (10 ≤ fld ((10 : BitVec 64).setWidth 32) 19 0 ∧ fld ((1000000 : BitVec 64).setWidth 32) 19 0 ≤ 1000000) ∧
    (fld ((9 : BitVec 64).setWidth 32) 19 0 < 10 ∧ 1000000 < fld ((1000001 : BitVec 64).setWidth 32) 19 0) := by decide

theorem witness_staged_writes :
    (inReset full = false ∧ stagedPage 0 = true ∧ pageExists full (pkey 0 0) = true ∧ locked false full (pkey 0 0) = false) ∧
    locked false (pkgSet .check .tests) (pkey 0 0) = true ∧
    (tablePageOk full (0x3FFFFC / 4096) = true ∧ 0x3FFFFC % 4 = 0 ∧ 0x3FFFF8 % 8 = 0 ∧
      (setsNaming true full (0x3FFFFC / 4096)).all (fun q => decide ((cset full q).st ≠ .check)) = true) := by decide

theorem witness_table_entry :
    (1023 < 1024 ∧ 13 < 14 ∧ (cset full 1023).st = .idle) ∧
    (∀ st ∈ [SetState.queued, .check, .apply], (cset (pkgSet st .tests) 3).st = st) ∧
    (pageExists (pkgSet .done .tests) (pkey 0 0) = true ∧ aliasSet (pkgSet .done .tests) (pkey 0 0) = some 3 ∧
      setBusy (pkgSet .done .tests) 3 = false) := by decide

theorem witness_commit :
    (aliasSet (pkgSet .idle .tests) (pkey 0 0) = some 3 ∧ setBusy (pkgSet .idle .tests) 3 = false ∧
      (pkgSet .idle .tests).pwr.armed = false) ∧
    (setBusy (pkgSet .apply .tests) 3 = true ∧ reportingPage (pkgSet .apply .tests) 3 = some 0) ∧
    (let s := { pkgSet .idle .tests with pwr := { full.pwr with armed := true } }
     aliasSet s (pkey 0 0) = some 3 ∧ setBusy s 3 = false ∧ s.pwr.armed = true) ∧
    aliasSet full (pkey 0 0) = none ∧
    (let s := { pkgSet .queued .tests with queue := [3] }
     s.checking = none ∧ s.queue = 3 :: []) := by decide

/-- The same set in CHECK, with the checksum of its staged words and generation `g`. -/
def pkgCheck (g : Nat) : State :=
  { full with ctab := [(48, 0x80000000)], checking := some 3
              sets := [(3, { st := .check, gen := g, crc := crc32c (stagedWords full (0x80000000 :: List.replicate 13 0))
                             entry := 0x80000000 :: List.replicate 13 0 })] }

theorem pkgCheck_crc (g : Nat) : crc32c (stagedWords (pkgCheck g) (cset (pkgCheck g) 3).entry) = (cset (pkgCheck g) 3).crc := rfl

theorem pkgCheck_life : firstOffender (fun _ => true) (chkLife (pkgCheck 1) (cset (pkgCheck 1) 3).entry (candidate (pkgCheck 1) (cset (pkgCheck 1) 3).entry)) = none := by decide +kernel
theorem pkgCheck_bad : badWord (pkgCheck 1) 3 (cset (pkgCheck 1) 3).entry = none := by decide +kernel
theorem pkgCheck_fields : firstOffender (inEntry (cset (pkgCheck 1) 3).entry) (chkFields (pkgCheck 1)  (candidate (pkgCheck 1) (cset (pkgCheck 1) 3).entry) (inEntry (cset (pkgCheck 1) 3).entry)) = none := by decide +kernel
theorem pkgCheck_later : (laterTests (pkgCheck 1)  (candidate (pkgCheck 1) (cset (pkgCheck 1) 3).entry) (inEntry (cset (pkgCheck 1) 3).entry)).findSome? (fun x => x.2.map (fun a => (x.1, a))) = none := by decide +kernel

theorem witness_check_passes :
    runTests (pkgCheck 1) 3 = none ∧ pairedRole (pkgCheck 1) = false ∧ (pkgCheck 1).checking = some 3 ∧
    (cset (pkgCheck 1) 3).phase = .tests ∧ domainsMissing (pkgCheck 1) (candidate (pkgCheck 1) (cset (pkgCheck 1) 3).entry) = [] := by
  refine ⟨?_, by decide, rfl, rfl, by decide +kernel⟩
  unfold runTests
  dsimp only
  rw [if_neg (not_not_intro (pkgCheck_crc 1)), if_neg (by decide), pkgCheck_life]
  dsimp only
  rw [pkgCheck_bad]
  dsimp only
  rw [pkgCheck_fields]
  exact pkgCheck_later

theorem witness_check_fails : runTests (pkgCheck 2) 3 = some (2, 72) ∧ 2 < 16 := by
  refine ⟨?_, by decide⟩
  unfold runTests
  dsimp only
  rw [if_neg (not_not_intro (pkgCheck_crc 2)), if_pos (by decide)]
  rfl

/-- PTP and the reference inputs are enabled. -/
def timed (t : TimeSt) : State := { eff [(0x104, 0x300)] with time := t }

theorem witness_references :
    (inReset (timed {}) = false ∧ ptpEn (effW (timed {})) = true ∧ (1000000 : Int).natAbs ≤ 1000000) ∧
    (let s := timed { quality := 0 }
     ptpEn (effW s) = true ∧ 1000000 < (-1000001 : Int).natAbs ∧ stepAllow (effW s) = false ∧ s.time.quality ≠ 4) ∧
    (refEnabled (eff [(0x104, 0)]) .ptp = false ∧ refEnabled full .crystal = false ∧ refEn (effW (timed {})) = true) ∧
    (let s := timed { source := 0, quality := 1, everPtp := true }
     ptpEn (effW s) = true ∧ s.time.source = 0 ∧ s.time.quality ≤ 1 ∧ s.time.everPtp = true ∧ s.time.eligRef = false) := by
  decide

theorem witness_locks :
    (let s := timed { eligPtp := true }
     steersTo s = 0 ∧ s.time.everPtp = false) ∧
    (let s := timed { eligPtp := true, everPtp := true }
     steersTo s = 0 ∧ s.time.everPtp = true ∧ (-100 : Int).natAbs ≤ 100) ∧
    (let s := timed { eligRef := true, everPtp := true }
     refEn (effW s) = true ∧ (100 + ppsDelay (effW s)).natAbs ≤ 100 ∧ 100 < (-101 + ppsDelay (effW s)).natAbs ∧ steersTo s = 1 ∧
     s.time.step = none ∧ s.time.everPtp = true) ∧
    (timed { eligRef := true, everPtp := true, quality := 1 }).time.quality ≤ 1 ∧
    (qHold (timed { quality := 2 }).time.quality = true ∧ qHold (timed {}).time.quality = false) := by decide

/-- A port of one lane on lane 31, with entry 28672 of die 7 into slot 0 there, all of whose words are in effect. -/
def portState : State :=
  { eff [(laneLoc 31, 0x80000001), (slotLoc 7 0 0, 0x80020004), (slotLoc 7 0 1, 0x00300064), (gateLoc, 0xC0A80002),
         (gateLoc + 0x20, 0x80051000), (gateLoc + 0x24, 0xC0A80001),
         (entLoc 28672 0, 0x801F0000), (entLoc 28672 1, 0xEF000001), (entLoc 28672 3, 0x13880000), (entLoc 28672 4, 1000000),
         (entLoc 28672 5, 1000000)] with
    lanes := [(31, { st := 4 })], slots := [(448, { valid := true })], entries := [(28672, { valid := true, tok := 8000000000000 })]
    tack := { slots := [(5, { full := true, counter := 3 })] } }
where gateLoc : Nat := ploc (pgGate 31) 0x100

/-- A frame on lane 31. -/
def frameOf (dip : Word) (b : Body) : Frame :=
  { at_ := 100000000, stamp := 99999000, lane := 31, len := 100, fcsOk := true, pause := false, ptpEth := false, ipv4Udp := true, frag := false, ipsumOk := true, vlans := []
    sip := 0xC0A80001, dip := dip, sport := 5000, dport := if dip = 0xEF000001 then 5000 else 0x1000, body := b }

theorem witness_frames :
    (AtPort portState (frameOf 0xEF000001 .other) 31 ∧ PlainUdp portState (frameOf 0xEF000002 .other) 31 ∧
      classify portState 31 (frameOf 0xEF000002 .other) = none ∧
      (frameOf 0xEF000002 .other).dip ≠ gateAddr (effW portState) 31) ∧
    (let s := { full with lanes := [(31, { st := 4 })] }
     inReset s = false ∧ 31 < 4 * dies s ∧ portOf (effW s) 31 = none ∧ (lane s 31).st = 4) ∧
    isPtp { frameOf 0xEF000001 .other with dport := 319 } = true := by decide

theorem witness_segment :
    let g : Seg := { line := 1, first := 2, count := 2, px := [7, 8] }
    let f := frameOf 0xEF000001 (.video 10800 9 false [g])
    let s := portState
    PlainUdp s f 31 ∧ classify s 31 f = some 28672 ∧ (entCfg (effW s) 28672).kind = 0 ∧ (entCfg (effW s) 28672).path = 0 ∧
    (entCfg (effW s) 28672).target = 0 ∧ entDie 28672 = 7 ∧
    (f.len + 20) * polByte ≤ min ((entCfg (effW s) 28672).cbs * polByte)
      ((entry s 28672).tok + (entCfg (effW s) 28672).cir * (f.at_ - (entry s 28672).last)) ∧
    matchPic (slot s 7 0) (slotCfg (effW s) 7 0) f.at_ 10800 = some 3 ∧ g.line < (slotCfg (effW s) 7 0).h ∧
    g.first + g.count ≤ (slotCfg (effW s) 7 0).w ∧ beforeT (slotCfg (effW s) 7 0).fmt f.at_ (3 - 1) 0 = false ∧
    decided (slot s 7 0) (slotCfg (effW s) 7 0) f.at_ 3 g.line = false ∧ (lineOf (slotPic (slot s 7 0) 3) g.line).st < 2 ∧
    g.px.length = g.count ∧ g.first + g.count ≤ 7680 := by decide

theorem witness_fills :
    ((slot portState 7 0).valid = true ∧ 1 < (slotCfg (effW portState) 7 0).h ∧ (slotCfg (effW portState) 7 0).w ≤ 7680 ∧
      (lineOf (slotPic (slot portState 7 0) 3) 1).st = 0) ∧
    (let s := { portState with slots := [(448, { valid := true, pics := [(3, { lines := [(0, { st := 2 })] })] })] }
     (lineOf (slotPic (slot s 7 0) 3) 0).st = 2 ∧ (slotPic (slot s 7 0) 3).ready = 0 ∧ 0 < (slotCfg (effW s) 7 0).h) ∧
    (let s := { portState with slots := [(448, { valid := true, first := 1, whole := some 2 })] }
     (slot s 7 0).whole.any (fun w => decide (w < 3)) = true ∧ (slot s 7 0).first ≤ 3) ∧
    portSends { eff [(entLoc 28672 0, 0x841F0000), (laneLoc 31, 0x80000001)] with lanes := [(31, { st := 4 })] } 31 = true ∧
    (let s := eff [(entLoc 28672 0, 0x841F0000), (entLoc 28672 1, 0xEF000001)]
     28672 < 4096 * dies s ∧ (entCfg (effW s) 28672).valid = true ∧ (entCfg (effW s) 28672).path = 1 ∧
       anyDown s (entDie 28672) = false ∧ multicast (entCfg (effW s) 28672).dst = true) ∧
    (let s := { eff [(entLoc 28672 0, 0x841F0001), (entLoc 28672 1, 0xEF000001)] with
                entries := [(1, { valid := true, passAt := some 500000 })] }
     (entry s 28672).passAt.getD (entry s 28672).since + 1000000 ≤ 1500000 ∧
       (entry s (entCfg (effW s) 28672).peer).passAt = some 500000 ∧ 1500000 ≤ 500000 + 1000000) ∧
    (let w : RtpIn := { q := 9, lost := false, at_ := 100, ts := 0, marker := true, form := 33, pid := 0, payload := [] }
     let s := { full with decs := [(511, { waiting := [w, { w with q := 70000 }] })] }
     7 < dies s ∧ 63 < 64 ∧ (dec s 7 63).waiting = w :: [{ w with q := 70000 }] ∧ ∀ x ∈ [{ w with q := 70000 }], x.lost = false) := by decide

/-- A command frame with the tag of its port's key. -/
def commandOf (op : Nat) : Frame :=
  frameOf 0xC0A80002 (.command 0xCA01 op 4 0 4096 (cmdTag (keySlot portState 5) 0 31 0xCA01 op 4 0 4096))

theorem witness_commands : ∀ op, 1 ≤ op → op ≤ 4 → CommandAccepted portState (commandOf op) 31 op 4 0 4096 := by
  intro op h1 h4
  have h : op = 1 ∨ op = 2 ∨ op = 3 ∨ op = 4 := by omega
  rcases h with rfl | rfl | rfl | rfl <;>
    exact ⟨by decide, by decide, by decide, by decide, by decide, by decide, by decide, by decide, rfl⟩

/-- An access unit of a supported HEVC stream, and one that waits for its cut-off with ten bytes. -/
def auOf (kind slices : Nat) : AccessUnit :=
  { profile := 1, constrained := false, level := 93, chroma := 1, depth := 8, fieldCoded := false, reordered := false, multilayer := false
    width := 64, height := 32, ctu := 64, dpb := 2, refreshKind := kind, recovery := 0, order := 0, isRef := true, refs := [], keep := []
    gaps := 0, headerBad := false, paramsBad := false, slices := slices }

def auWaits : AuSt := { no := 0, tau := 0, pres := 9, first := 0, data := List.replicate 10 (some 0) }

/-- Decode source 63 of die 7. -/
def decState (x : Dec) : State :=
  { eff [(decLoc 7 63 0, 0x98000000), (decLoc 7 63 1, 0x1FFF1FFF), (decLoc 7 63 2, 0x1F000000)] with decs := [(511, x)] }

theorem witness_sources :
    (let s := decState { st := 1, aus := [auWaits] }
     (dec s 7 63).aus = auWaits :: [] ∧ (dec s 7 63).st = 1 ∧ (auOf 1 1).refreshKind ≠ 0 ∧ (auOf 1 1).slices ≠ 0 ∧
       (dec s 7 63).held = [] ∧ hasParams (dec s 7 63) (auOf 1 1) = true ∧
       auSupported (decCfg (effW s) 7 63) (decUsers s.eff 511) (dec s 7 63).prevPres auWaits.pres (underParams (dec s 7 63) (auOf 1 1)) = true ∧
       tooSoon (decCfg (effW s) 7 63) (dec s 7 63).lastPres auWaits.pres = false) ∧
    (let s := decState { st := 1, aus := [auWaits], lastPres := some 0 }
     (dec s 7 63).st = 1 ∧ hasParams (dec s 7 63) (auOf 1 1) = true ∧
       auSupported (decCfg (effW s) 7 63) (decUsers s.eff 511) (dec s 7 63).prevPres auWaits.pres (underParams (dec s 7 63) (auOf 1 1)) = true ∧
       tooSoon (decCfg (effW s) 7 63) (dec s 7 63).lastPres auWaits.pres = true) ∧
    hasParams (dec (decState {}) 7 63) { auOf 1 1 with paramsBad := true } = false ∧
    (let s := decState { st := 2, aus := [auWaits], lastPres := some 0, prevPres := some 0, params := some (auOf 0 1) }
     (dec s 7 63).st = 2 ∧ hasParams (dec s 7 63) { auOf 0 1 with paramsBad := true } = true ∧
       auSupported (decCfg (effW s) 7 63) (decUsers s.eff 511) (dec s 7 63).prevPres auWaits.pres
         (underParams (dec s 7 63) { auOf 0 1 with depth := 11, paramsBad := true }) = true ∧
       auSupported (decCfg (effW s) 7 63) (decUsers s.eff 511) (dec s 7 63).prevPres auWaits.pres
         (underParams (dec s 7 63) { auOf 0 1 with depth := 11 }) = false ∧
       tooSoon (decCfg (effW s) 7 63) (dec s 7 63).lastPres auWaits.pres = true) := by
  decide

/-- An access unit in decoding, with `left` slices to come. -/
def jobOf (left : Nat) : DecJob :=
  { no := 4, due := 9000, idx := 4, width := 64, height := 32, ctu := 64, order := 0, isRef := true, stall := 0, hist := 0
    data := [], refs := [], good := [], slices := 2, left := left, ruined := false, clean := true, told := false, hurt := false, bad := false }

theorem witness_slices :
    let pic : DecPic := { due := 0, concealed := false, width := 64, height := 32, idx := 3, order := 0, isRef := true, stall := 1
                          layers := [], pinned := 0 }
    (let s := decState { st := 2, curs := [jobOf 2], pics := [pic] }
     inReset s = false ∧ 7 < dies s ∧ 63 < 64 ∧ (dec s 7 63).curs = jobOf 2 :: [] ∧ 1 < (jobOf 2).left ∧ (jobOf 2).ruined = false) ∧
    (let s := decState { st := 2, curs := [jobOf 1], pics := [pic] }
     (dec s 7 63).curs = jobOf 1 :: [] ∧ (jobOf 1).left ≤ 1 ∧ ∀ q ∈ (dec s 7 63).pics, q.idx < (jobOf 1).idx) := by decide

/-- The pages of channel 255 as a picture in progress took them: composed, 128 by 128, 64-line furrows, 30 pictures a second, a
reserve kept, one slice a furrow; and layer 5 of die 7, graphics of canvas 31 in flip group 63. -/
def picCfg : Tbl Word :=
  [(chLoc 255 0x100, 0x101), (chLoc 255 0x104, 0x00800080), (chLoc 255 0x108, 5), (chLoc 255 0x148, 1),
    (drLoc 255 0x100, 0x100), (drLoc 255 0x104, 100000), (drLoc 255 0x10C, 1000000),
    (layLoc 1797 0x100, 0x801F0001), (layLoc 1797 0x110, 0), (layLoc 1797 0x114, 0x00800080), (layLoc 1797 0x120, 0x0000013F)]

/-- Channel 255 runs with one picture in progress whose furrows are `furs`. -/
def picState (furs : Tbl Fur) : State :=
  { full with chans := [(255, { st := .running, next := 1, any := true, pics := [pic furs] })] }
where pic (furs : Tbl Fur) : Pic := { n := 0, cfg := picCfg, budget := 4000000, furs := furs }

theorem witness_fences :
    (let s := { picState [] with dram := [(memKey 7 1008, 0xFF), (memKey 7 1009, 0xFF), (memKey 7 1010, 0xFF), (memKey 7 1011, 0x7F)] }
     let p := picState.pic []
     inReset s = false ∧ 255 < 32 * dies s ∧ 7 = 255 / 32 ∧ (chan s 255).pics.getLast? = some p ∧ p.fenced = false ∧
     chComposed (picG s 255 p) 255 = true ∧
     (((canvasLayers p.cfg 255).filter (fun i => (layCfg (getW p.cfg) i).drawn)).map
       (fun i => (layCfg (getW p.cfg) i).group)).eraseDups = [63] ∧
     1008 = fenceBase (effW s) 7 + 16 * 63 ∧ 1008 + 12 ≤ dramBytes ∧ badWords s 7 1008 4 = [] ∧
     (dramRead32 s 7 1008 + 2 ^ 32 - (group s 7 63).flipped) % 2 ^ 32 = 2 ^ 31 - 1 ∧ p.n = 0) ∧
    (let s := { picState [] with groups := [(511, { flipped := 2 ^ 32 - 1 })] }
     (dramRead32 s 7 1008 + 2 ^ 32 - (group s 7 63).flipped) % 2 ^ 32 = 1) ∧
    (let s := { picState [] with groups := [(511, { flipped := 2 ^ 31 })] }
     (dramRead32 s 7 1008 + 2 ^ 32 - (group s 7 63).flipped) % 2 ^ 32 = 2 ^ 31 ∧ badWords s 7 1008 4 = []) ∧
    (let s := { picState [] with chans := [(255, { st := .running, next := 2, any := true, begun := 2, pics := [{ picState.pic [] with n := 1 }] })] }
     composedThrough s 255 (1 - 1) = true ∧ (dramRead32 s 7 1008 + 2 ^ 32 - (group s 7 63).flipped) % 2 ^ 32 = 0 ∧
     groupLayers (picState.pic []).cfg 255 63 = [1797] ∧ 0 < (layCfg (getW (picState.pic []).cfg) 1797).cadence ∧
     (layCfg (getW (picState.pic []).cfg) 1797).cadence ≤ passedFlip s 255 7 63) := by decide

theorem witness_canvas :
    (let s := picState [(0, { composing := true, complete := true })]
     let p := picState.pic [(0, { composing := true, complete := true })]
     (chan s 255).pics.find? (fun p => !(fur p 1).composing) = some p ∧ chComposed (picG s 255 p) 255 = true ∧
     1 < (picFmt 255 p).furrows ∧ sourcesReady s 255 p 1 = true ∧ precedingStarted s 255 p 1 = true ∧ 1797 ∈ canvasLayers p.cfg 255) ∧
    (let s := picState [(0, { composing := true, complete := true }), (1, { composing := true })]
     let p := picState.pic [(0, { composing := true, complete := true }), (1, { composing := true })]
     (chan s 255).pics.find? (fun p => (fur p 1).composing && !(fur p 1).complete) = some p ∧ precedingDone s 255 p 1 = true ∧
     (picFmt 255 p).w ≤ 7680 ∧ 1 * (picFmt 255 p).c ≤ 127 ∧ 127 < (picFmt 255 p).lineEnd 1 ∧ 127 < (picFmt 255 p).w) := by decide

/-- With no bad word in memory no range of it holds one. -/
theorem none_bad (s : State) (h : s.poison = []) (h' : s.broken = []) (l : List MemRange) :
    ∀ r ∈ l, badWords s r.die r.addr r.len = [] := by
  intro r _; simp [badWords, wordsIn, h, h']

theorem witness_canvas_reads :
    let s := picState [(0, { composing := true, complete := true }), (1, { composing := true })]
    ∀ r ∈ drawnReads s 255 1, badWords s r.die r.addr r.len = [] := none_bad _ rfl rfl _

theorem witness_planting :
    let s := picState [(0, { planted := true }), (1, { complete := true })]
    let p := picState.pic [(0, { planted := true }), (1, { complete := true })]
    inReset s = false ∧ 255 < 32 * dies s ∧ (chan s 255).pics.find? (fun p => !(fur p 1).planted) = some p ∧
    pic? s 255 p.n = some p ∧ (fur p 1).complete = true ∧ 1 < (picFmt 255 p).furrows ∧ inOrder s 255 p 1 (fun u => u.planted) = true ∧
    (drillCfg (picG s 255 p) 255).reserve = true ∧ 1 ≤ slicesPer (picG s 255 p) 255 ∧
    slicesPer (picG s 255 p) 255 ≤ (picFmt 255 p).ctuCols ∧ (fur p 1).log = [] ∧ (fur p 1).ctus = 0 ∧ (fur p 1).sliceBits = [] ∧
    (reserveOf (picFmt 255 p) (slicesPer (picG s 255 p) 255) p.rho 1 p.idr p.gdr : Int) ≤
      min (capTerms (picG s 255 p) 255 p 1).1 (min (capTerms (picG s 255 p) 255 p 1).2.1 (capTerms (picG s 255 p) 255 p 1).2.2) := by
  decide

/-- A CTU of 200 bits under a slice header of 100. -/
def ctu1 : CtuLog :=
  { hdr := 100, cost := 200, fallow := false, guarded := false, qp := 20, syn := { cus := [], saoLeft := false, sao := none, alf := none } }

/-- Furrow 1 with its first CTU coded. -/
def halfCoded : Fur := { complete := true, planted := true, cap := 100000, log := [ctu1], ctus := 1, sliceBits := [300] }

/-- Channel 255 with the items `l` of its furrows. -/
def itemState (furs : Tbl Fur) (l : List Item) : State := { picState furs with dsps := [(7, { items := l })] }

/-- An item of furrow `k` of channel 255, of a kind, in service by `unit`, or ended. -/
def itemOf (k kind idx : Nat) (unit : Option Nat) (ended : Bool) : Item :=
  { slot := 0, owner := 31, kind := kind, ch := 255, n := 0, furrow := k, idx := idx, mask := 0xF, ready := some 9, queue := 0
    deadline := 5000000, unit := unit, startAt := 10, ended := ended }

/-- The furrow above, coded to its end. -/
def aboveFur : Fur := { halfCoded with log := [ctu1, ctu1], ctus := 2, coded := true }

theorem witness_ctu :
    let s := itemState [(0, aboveFur), (1, halfCoded)] [itemOf 1 kCode 0 (some 3) false]
    let p := picState.pic [(0, aboveFur), (1, halfCoded)]
    inReset s = false ∧ 255 < 32 * dies s ∧ CodesNext s 255 1 p ∧ UnderCap (picG s 255 p) 255 p 1 ∧
    roundUp (picFmt 255 p).w (picFmt 255 p).c ≤ 8192 ∧ (drillCfg (picG s 255 p) 255).reserve = true := by
  refine ⟨by decide, by decide, ⟨by decide, by decide, by decide, by decide, by decide, by decide, by decide, none_bad _ rfl rfl _⟩, ?_,
    by decide, by decide⟩
  unfold UnderCap
  decide

theorem witness_coded_point :
    let u : Fur := { halfCoded with log := [ctu1, ctu1], ctus := 2, inputStale := true, stale := 1, concealed := true, written := true }
    let s := itemState [(0, aboveFur), (1, u)] [itemOf 1 kEntropy 0 (some 10) true, itemOf 1 kEntropy 1 (some 9) true]
    let p := picState.pic [(0, aboveFur), (1, u)]
    (chan s 255).pics.find? (fun p => !(fur p 1).coded) = some p ∧ pic? s 255 p.n = some p ∧
    (fur p 1).ctus = (picFmt 255 p).ctuCols ∧ 1 < (picFmt 255 p).furrows ∧ slicesCoded s 255 1 p = true ∧
    inOrder s 255 p 1 (fun u => u.coded) = true ∧ (fur p 1).written = true ∧
    (fur p 1).inputStale = true ∧ 0 < (fur p 1).stale ∧ (fur p 1).concealed = true ∧ 1 + 1 = (picFmt 255 p).furrows := by decide

theorem witness_coded_reads :
    (let p := picState.pic [(0, aboveFur), (1, { halfCoded with dlFallow := true })]
     (fur p 1).dlFallow = true ∧ (fur p 1).emptyCut = false) ∧
    ∀ l : List MemRange, ∀ r ∈ l, badWords (itemState [(0, aboveFur)] []) r.die r.addr r.len = [] :=
  ⟨by decide, fun l => none_bad _ rfl rfl l⟩

theorem witness_deadline :
    let s := itemState [(0, aboveFur), (1, halfCoded)] [itemOf 1 kEntropy 0 (some 10) false]
    let p := picState.pic [(0, aboveFur), (1, halfCoded)]
    (chan s 255).pics.find? (fun p => !(fur p 0).dlTested) = some p ∧ (fur p 0).coded = true ∧
    (chan s 255).pics.find? (fun p => !(fur p 1).dlTested) = some p ∧ pic? s 255 p.n = some p ∧ (fur p 1).coded = false ∧
    1 < (picFmt 255 p).furrows ∧ (fur p 1).dlFallow = false ∧ (fur p 1).emptyCut = false ∧
    inOrder s 255 p 1 (fun u => u.dlTested || u.coded) = true ∧
    1 = min (cutAt s 255 p 1 1) (fur p 1).log.length ∧ 1 < (picFmt 255 p).ctuCols := by decide

theorem witness_deadline_empty :
    let u : Fur := { aboveFur with coded := false }
    let s := itemState [(0, aboveFur), (1, u)] [itemOf 1 kEntropy 1 (some 10) false]
    let p := picState.pic [(0, aboveFur), (1, u)]
    (chan s 255).pics.find? (fun p => !(fur p 1).dlTested) = some p ∧ (fur p 1).coded = false ∧ (fur p 1).dlFallow = false ∧
    (picFmt 255 p).ctuCols ≤ min (cutAt s 255 p 1 2) (fur p 1).log.length := by decide

/-- An item of channel 255's composition. -/
def compItem (slot : Nat) (ready unit : Option Nat) : Item :=
  { slot := slot, owner := 127, kind := 3, ch := 255, n := 0, furrow := 1, idx := 0, mask := 0, ready := ready, queue := 7
    deadline := 5000000, unit := unit, startAt := 0, ended := false }

theorem witness_items :
    (let s := picState []
     7 < dies s ∧ 127 < 128 ∧ nextItem s 7 127 = some (0, 0, 3, 0) ∧
     (ownerSlots 127).find? (fun i => (dsp s 7).items.all (fun j => decide (j.slot ≠ i))) = some 510) ∧
    (let s := { picState [(0, { composing := true })] with dsps := [(7, { items := [compItem 510 none none, compItem 511 none none], tracking := true })] }
     nextItem s 7 127 = some (0, 0, 3, 0) ∧ couldBeReady s 7 127 0 0 3 0 = true ∧
     (ownerSlots 127).find? (fun i => (dsp s 7).items.all (fun j => decide (j.slot ≠ i))) = none ∧ 127 ∉ (dsp s 7).waited ∧
     (dsp s 7).tracking = true) ∧
    (let s := { picState [] with dsps := [(7, { items := [compItem 510 (some 9) none] })] }
     5 < 11 ∧ pickItem s 7 5 = some (compItem 510 (some 9) none) ∧
     ∀ j ∈ (dsp s 7).items, j.slot = (compItem 510 (some 9) none).slot → j = compItem 510 (some 9) none) ∧
    (let s := { picState [] with dsps := [(7, { items := [compItem 510 (some 9) (some 5)], done := [(127, 0, 0, 3, 0)] })] }
     (dsp s 7).items.find? (fun i => decide (i.slot = 510) && i.unit.isSome && workDone s 7 i) = some (compItem 510 (some 9) (some 5)) ∧
     (flowAhead s 7 (compItem 510 (some 9) (some 5))).isEmpty = true ∧ (dsp s 7).items.length ≤ 512 ∧
     (compItem 510 (some 9) (some 5)).kind ≤ 5 ∧ (dsp s 7).waits = [] ∧ ∀ i ∈ (dsp s 7).items, i.ended = false ∧ orphan s 7 i = false) := by decide

theorem witness_item_kinds :
    (let s := { picState [(0, aboveFur), (1, { halfCoded with log := [ctu1, ctu1], ctus := 2 })] with
                dsps := [(7, { items := [itemOf 1 kCode 0 (some 3) false], done := [(31, 0, 0, kCode, 0)] })] }
     (dsp s 7).items.find? (fun i => decide (i.slot = 0) && i.unit.isSome && workDone s 7 i) = some (itemOf 1 kCode 0 (some 3) false) ∧
     (flowAhead s 7 (itemOf 1 kCode 0 (some 3) false)).isEmpty = true ∧ (dsp s 7).waits = []) ∧
    (let s := itemState [(0, aboveFur), (1, aboveFur)] [itemOf 0 kPack 0 (some 4) false]
     (dsp s 7).items.find? (fun i => decide (i.slot = 0) && i.unit.isSome && workDone s 7 i) = some (itemOf 0 kPack 0 (some 4) false) ∧
     (flowAhead s 7 (itemOf 0 kPack 0 (some 4) false)).isEmpty = true) := by decide

theorem witness_engine_fault : inReset full = false ∧ 7 < dies full ∧ 3 < 4 ∧ (page full (pgCe 7 3)).fault = false := by decide

theorem witness_package_boundary :
    (full.time.step = none ∧ steersTo full = full.time.source ∧ full.waits = []) ∧
    (let s := { full with waits := [(3, none)], sets := [(3, { st := .apply, effect := 0 })] }
     s.waits = [(3, none)] ∧ (cset s 3).st = .apply ∧ (cset s 3).effect ≤ furrowFrom (s.time.now + 1)) ∧
    (let s := { full with time := { step := some 500, bound := some 60 } }
     s.time.step = some 500 ∧ s.time.bound = some 60 ∧ s.waits = [] ∧ s.yoke.dual = none ∧
     (s.time.eligPtp && ptpEn (effW s)) = s.time.eligPtp ∧ (s.time.eligRef && refEn (effW s)) = s.time.eligRef ∧
     steersTo s = s.time.source) := by decide

theorem witness_picture_boundary :
    (let s := { eff picCfg with chans := [(255, { st := .armed, armedAt := 1000 })] }
     inReset s = false ∧ 255 < 32 * dies s ∧ (chan s 255).st = .armed ∧ 1 = nextPicture s 255) ∧
    (let s := { picState [] with live := picCfg, eff := picCfg }
     (chan s 255).st = .running ∧ s.waits = [] ∧ chRun (effW s) 255 = true ∧ maskLost s 255 = false ∧ s.yoke.role ≠ roleStandby) ∧
    (chRun (effW (picState [])) 255 = false ∧ (chan full 255).st = .idle) := by decide

theorem witness_boundaries :
    (steersTo full = 2 ∨ (steerOffset full).natAbs ≤ 1000000 ∨ stepAllow (effW full) = false) ∧
    (let s := { full with chans := [(255, { st := .draining }), (254, { st := .faulted })] }
     (chan s 255).st = .draining ∧ s.waits = [] ∧ (chan s 254).st = .faulted) ∧ ∀ ch, running full ch = false :=
  ⟨by decide, by decide, fun _ => rfl⟩

theorem witness_accesses :
    (inReset full = false ∧ decoded .host full = true ∧ decoded .core full = true ∧ 2 ^ 28 ≤ 2 ^ 28 + 8 ∧ (2 ^ 28 + 8) % 8 = 0 ∧
      pageExists full (pkey 7 0x123) = true ∧ 0x123 < 8192 ∧ 127 < 128 ∧ 7 < dies full ∧ 3 < 4) ∧
    (let s := { full with host := { d3hot := true } }
     inReset s = false ∧ decoded .host s = false ∧ s.host.d3hot = true ∧ Requester.host ≠ .core) := by decide

theorem witness_refresh :
    (let s := { full with mcs := [(7, { panic := [11], mchs := [(15, { debt := 7 })] })] }
     (mc s 7).selfRefresh = false ∧ (mch (mc s 7) 15).rate = 0 ∧ (mc s 7).panic ≠ [] ∧ (mch (mc s 7) 15).debt < 8 ∧
     10 ∉ (mc s 7).panic ∧ 11 ∈ (mc s 7).panic ∧ fourX s 7 = false) ∧
    (let s := { full with mcs := [(7, { panic := [11], mchs := [(15, { debt := 8 })] })] }
     (mc s 7).selfRefresh = false ∧ 8 ≤ (mch (mc s 7) 15).debt) ∧
    (mc { full with mcs := [(7, { selfRefresh := true })] } 7).selfRefresh = true ∧
    [3, 2, 1, 0, 0, 0, 0, 0, 0, 0, 0, 0, 0, 0, 0, 0].length = 16 ∧
    (mcReady full 7 = true ∧ (∀ x ∈ full.poison, x / 2 ^ 29 ≠ 7) ∧ 2 ^ 29 - 1 < 2 ^ 29 ∧ bitOf (mc full 7).errInfo 31 = false) := by
  decide

theorem witness_repayment :
    (∀ d ∈ [1, 3], let s := { full with mcs := [(7, { panic := [11], mchs := [(15, { rate := 1, debt := d, paying := true, payFor := 0, paid := 1 })] })] }
     (mc s 7).selfRefresh = false ∧ (mch (mc s 7) 15).paying = true ∧ 0 < (mch (mc s 7) 15).rate ∧
     2 = cdiv ((mch (mc s 7) 15).payFor + refreshEvery (mch (mc s 7) 15).rate) 90 - (mch (mc s 7) 15).paid) ∧
    (let s := { full with mcs := [(7, { panic := [11] })] }
     10 ∉ (mc s 7).panic ∧ min 8191 0x8000 < 512 * watermark (mc s 7) 10 ∧ 512 * watermark (mc s 7) 10 ≤ min 8192 0x8000 ∧
     11 ∈ (mc s 7).panic ∧ 1024 * watermark (mc s 7) 11 ≤ min 16384 0x8000 ∧ min 16383 0x8000 < 1024 * watermark (mc s 7) 11) ∧
    (0 < watermark (mc full 7) 10 ∧ (∀ x ∈ full.soft, x / 2 ^ 29 ≠ 7)) ∧
    (mch (mc full 7) 15).paying = false := by decide

/-- The host's window on the last 512 MiB of die 7's DRAM. -/
def aperState : State := { full with host := { up := true, aperDie := 7, aperBase := 14848 } }

theorem witness_aperture :
    (inReset aperState = false ∧ aperState.host.aperDie < 8 ∧ aperAddr aperState (2 ^ 29 - 32) + 32 ≤ 2 ^ 34 ∧ hostOpen aperState = true ∧
      2 ^ 29 - 32 + 32 ≤ 2 ^ 29 ∧ aperAddr aperState (2 ^ 29 - 32) % 32 = 0 ∧
      wiped aperState aperState.host.aperDie (aperAddr aperState (2 ^ 29 - 32)) = true ∧
      wordBad aperState 7 (aperAddr aperState (2 ^ 29 - 32) / 32) = false ∧
      aperAddr aperState (2 ^ 29 - 2) / 32 = (aperAddr aperState (2 ^ 29 - 2) + 2 - 1) / 32) ∧
    (let s := { aperState with poison := [2 ^ 29 * 7 + aperAddr aperState (2 ^ 29 - 2) / 32] }
     wordBad s s.host.aperDie (aperAddr s (2 ^ 29 - 2) / 32) = true) ∧
    (let s := { aperState with pwr := { full.pwr with granules := [(7, 59)] } }
     hostOpen s = true ∧ wiped s s.host.aperDie (aperAddr s (2 ^ 29 - 2)) = false) ∧
    hostOpen full = false ∧ aperState.host.d3hot = false ∧ aperState.soft = [] ∧
    (fld (0xE0003A00 : Word) 31 29 < dies full ∧ fld (0xE0003A00 : Word) 13 0 ≤ 14848 ∧ 14848 < fld (0xE0003A01 : Word) 13 0) := by
  decide

/-- A packet of service 4095 due at instant 100, for flow 9 on port 31, or on ports 31 and 30. -/
def pkt (dual : Bool) : Pkt :=
  { svc := 4095, ch := 255, n := 0, furrow := 0, idx := 0, kind := 0, rtp := { seq := 1, roc := 0, ts := 0, marker := false, pt := 96 }
    covers := [], fecStep := 1, part := 0, ipLen := 100, release := 100, last := false, flows := [(9, [0x9E1F0000, 0xEF000001, 0xEF000002])], dual := dual, srtp := 0, key := 0 }

theorem witness_packets :
    ∀ dual : Bool, let s := { full with svcs := [(4095, { queue := [pkt dual] })] }
      inReset s = false ∧ 4095 < 512 * dies s ∧ (svc s 4095).queue = pkt dual :: [] ∧
      (pkt dual).flows = [(9, [0x9E1F0000, 0xEF000001, 0xEF000002])] ∧ (pkt dual).dual = dual ∧
      (flowCfgL [0x9E1F0000, 0xEF000001, 0xEF000002]).portA ≠ (flowCfgL [0x9E1F0000, 0xEF000001, 0xEF000002]).portB := by decide

/-- Port 31 is up with the frames of `p`; flow 9 has tokens and a multicast destination. -/
def sendState (p : PortTx) : State :=
  { eff [(laneLoc 31, 0x80000001), (ploc (pgGate 31) 0x11C, 0x27100064)] with
    lanes := [(31, { st := 4 })], ports := [(31, p)]
    flows := [(9, { words := [0x801F0000, 0xEF000001, 0, 0, 0, 0, 1000000, 100000], tokA := 1000000000000000 })] }

/-- A frame of flow 9. -/
def qf : QFrame := { flow := 9, release := 100, len := 118, furrow0 := true }

theorem witness_ports :
    (let s := sendState { ptpQ := [qf] }
     31 < 4 * dies s ∧ portOf (effW s) 31 = some 31 ∧ (port s 31).busyTo ≤ 100 ∧ portSends s 31 = true ∧ (port s 31).media = [] ∧
     (port s 31).ptpQ = qf :: [] ∧ gateOpen (port s 31) 0 100 = true ∧
     fitsGate (port s 31) 0 100 (frameCost qf) (portGbps (effW s) 31) = true) ∧
    (let s := sendState { mgmtQ := [qf], tokMgmt := 10 ^ 15 }
     (port s 31).ptpQ = [] ∧ (port s 31).mgmtQ = qf :: [] ∧ gateOpen (port s 31) 1 100 = true ∧
     frameCost qf * tokByte ≤ fill (port s 31).tokMgmt (mgmtRate (effW s) 31 * 1000000) (100 - (port s 31).lastFill)
       (mgmtBurst (effW s) 31)) ∧
    (let s := sendState { media := [qf] }
     qf.release ≤ 100 ∧ mustDiscard (advance 100 s) 31 qf = false ∧ (flow s qf.flow).waitFrom = none ∧ (port s 31).waitFrom = none ∧
     shapeRate (effW s) 31 = 0 ∧ gateOpen (port s 31) 2 100 = true ∧
     fitsGate (port s 31) 2 100 (frameCost qf) (portGbps (effW s) 31) = true ∧
     frameCost qf * tokByte ≤ flowTok s qf.flow qf.path 100) ∧
    (let s := { sendState { media := [qf] } with stops := [9] }
     qf.flow ∈ s.stops ∧ (flow s qf.flow).stopAt + 100 ≤ 100 ∧ mutedFrame s qf = false ∧ (port s 31).anc = [[], [], [], [], [], []]) ∧
    (let s := { sendState { anc := [[], [], [qf], [], [], []] } with quench := [31] }
     (port s 31).busyTo ≤ 100 ∧ portSends s 31 = true ∧ (port s 31).media = [] ∧ (port s 31).ptpQ = [] ∧ (port s 31).mgmtQ = [] ∧
     31 ∈ s.quench ∧ (port s 31).quenchAt + 100 ≤ 100 ∧ (port s 31).anc.flatten ≠ []) ∧
    (∀ r ∈ [qf], resolved (advance 100 (sendState { mgmtQ := [qf], tokMgmt := 10 ^ 15 })) 31 r = true) ∧
    99 < (port (sendState { busyTo := 100 }) 31).busyTo := by decide

/-- A description of one line. -/
def desc1 : SdpDesc := { version := 1, text := [118, 61, 48, 13, 10], port := 31, src := 0xC0A80001, group := true, ssrc := 1 }

theorem witness_gates :
    (let s := sendState { pend := some { base := 0, cycle := 125000, entries := [(15, 125000)], start := 7 } }
     (port s 31).pend = some { base := 0, cycle := 125000, entries := [(15, 125000)], start := 7 } ∧
     (7 : Nat) ≠ 0) ∧
    (let s := sendState { pend := some { base := 7, cycle := 125000, entries := [(15, 125000)], start := 7 } }
     (port s 31).pend = some { base := 7, cycle := 125000, entries := [(15, 125000)], start := 7 }) ∧
    (let s := sendState { oper := some { base := 0, cycle := 125000, entries := [(7, 100000), (15, 25000)], start := 7 } }
     (port s 31).oper = some { base := 0, cycle := 125000, entries := [(7, 100000), (15, 25000)], start := 7 } ∧ 0 < 125000) ∧
    (let s := { eff [(ploc (pgYard 7) 0x300, 0x80000000)] with services := { sdp := [(32767, desc1)] } }
     s.services.sdp = [(32767, desc1)] ∧ announces s = true ∧ sapEn s (32767 / 4096) = true ∧ desc1.group = true ∧
     (port s desc1.port).anc = [[], [], [], [], [], []] ∧ desc1.text.length ≤ 32000) := by decide

theorem witness_stops :
    (let s := { full with stops := [4096 * 7 + 4095], quench := [31] }
     7 < dies s ∧ 127 < 128 ∧ bitOf (0x80000000 : Word) 31 = true ∧ 4096 * 7 + 4095 = 4096 * 7 + 32 * 127 + 31 ∧
     anyQuenched s 7 = true) ∧ anyQuenched full 7 = false := by decide

/-- The yoke is on and the part has the role of `y`. -/
def yoked (y : Yoke) : State := { eff [(0x110, 0x81000000)] with yoke := y }

/-- A part like this one, running channel 3. -/
def hello (running : List Nat) : Hello :=
  { dieCount := 8, role := 3, partId := 0, fwVersion := 0, activeSince := 0, pref := false, pinRx := true, running := running, tieToken := 0 }

theorem witness_pairing :
    (let s := yoked { role := 1 }
     inReset s = false ∧ yokeOn s = true ∧ nextHdr.crcOk = true ∧ s.yoke.role = roleSole ∧ s.yoke.barred = false ∧ s.yoke.wait = false ∧
     s.host.held = false ∧ helloRefusal s (hello [3]) = 0 ∧ decideRole s (hello [3]) = some roleStandby ∧
     (hello [3]).role = roleActive ∧ decideRole s (hello []) = none ∧ helloRefusal s { hello [] with dieCount := 4 } = 1) ∧
    (let s := yoked { role := 1, sundered := true, since := 5 }
     s.yoke.sundered = true ∧ transmits (hello []).role = true ∧ helloRefusal s (hello []) = 0 ∧ s.yoke.dual = none ∧
     s.yoke.role = roleSole ∧ losesDual s (hello []) = some true) ∧
    (yoked { role := 2 }).yoke.role = rolePairing ∧ yokeOn full = false ∧ { nextHdr with crcOk := false }.crcOk = false := by decide

theorem witness_heartbeats :
    (let s := yoked { role := 3, pinLost := true, linkMiss := 7 }
     inReset s = false ∧ yokeOn s = true ∧ s.yoke.pinLost = true ∧ s.yoke.linkLost = false ∧ 7 ≤ s.yoke.linkMiss ∧ s.yoke.role = roleActive ∧
     beatLane s = none) ∧
    (let s := yoked { role := 4, pinLost := true, linkMiss := 7 }
     s.yoke.role = roleStandby ∧ s.yoke.pendTake = none) ∧
    (let s := yoked { role := 3, linkLost := true, pinMiss := 7 }
     s.yoke.linkLost = true ∧ s.yoke.pinLost = false ∧ 7 ≤ s.yoke.pinMiss) ∧
    (pulseIs 1040 1000 = true ∧ pulseIs 1041 1000 = false ∧ pulseIs 60 100 = true ∧
      (pulseIs 200 100 || pulseIs 200 300 || pulseIs 200 1000) = false) ∧
    beatLane { yoked {} with lanes := [(32, { st := 4 })] } = some 32 := by decide

theorem witness_reliable :
    (let s := yoked { role := 3, unacked := [{ seq := 1, sends := 3, msg := .doorbell 9 }, { seq := 2, sends := 4, msg := .doorbell 8 }], ackDue := true }
     relHeader (.doorbellFrame nextHdr 9) = some nextHdr ∧ relChan (.resyncAbort nextHdr 255) = some 255 ∧ 255 < 32 * dies s ∧
     nextHdr.seq = s.yoke.seqRx + 1 ∧ s.yoke.early = [] ∧ InTurn s nextHdr ∧
     s.yoke.unacked.find? (fun u => decide (u.seq = 1)) = some { seq := 1, sends := 3, msg := .doorbell 9 } ∧
     s.yoke.unacked.find? (fun u => decide (u.seq = 2)) = some { seq := 2, sends := 4, msg := .doorbell 8 } ∧
     (∀ u ∈ s.yoke.unacked, u.seq ≠ 3) ∧ s.yoke.ackDue = true ∧ beatLane s = none) ∧
    (let s := { yoked { role := 3, ackDue := true } with lanes := [(32, { st := 4 })] }
     s.yoke.ackDue = true ∧ beatLane s = some 32) ∧
    (let s := yoked { seqRx := 1 }
     nextHdr.seq ≤ s.yoke.seqRx ∧ s.yoke.ackDue = false) ∧
    (let s := yoked {}
     s.yoke.seqRx + 1 < { nextHdr with seq := 2 }.seq ∧ ∀ e ∈ s.yoke.early, e.1 ≠ 2) := by decide

/-- Set 1023 in CHECK, in the phase `ph`, on a part with the role `r`. -/
def voting (r : Nat) (ph : CheckPhase) : State :=
  { yoked { role := r } with checking := some 1023, sets := [(1023, { st := .check, phase := ph, gen := 9, entry := List.replicate 14 0 })] }

theorem witness_votes_domains :
    domainsMissing (voting 3 .vote) (candidate (voting 3 .vote) (cset (voting 3 .vote) 1023).entry) = [] ∧
    domainsMissing (voting 4 .decision) (candidate (voting 4 .decision) (cset (voting 4 .decision) 1023).entry) = [] := by
  decide +kernel

theorem witness_votes :
    (let s := voting 3 .vote
     inReset s = false ∧ InTurn s nextHdr ∧ s.yoke.role = roleActive ∧ s.checking = some 1023 ∧ (cset s 1023).st = .check ∧
     (cset s 1023).phase = .vote ∧ (cset s 1023).began ≤ s.time.now + 2000000 ∧ 8 ≠ (cset s 1023).gen) ∧
    (let s := { yoked { role := 3 } with sets := [(1023, { st := .done, live := 9 })] }
     setQueued s 1023 = false ∧ s.yoke.role = roleActive) ∧
    (let s := voting 4 .decision
     InTurn s nextHdr ∧ awaitsDecide s 1023 = true ∧ s.checking = some 1023 ∧ (cset s 1023).phase = .decision) ∧
    awaitsDecide (voting 4 .vote) 1023 = false ∧ full.checking = none := by decide

/-- A record of picture 5 of channel 255. -/
def rec5 : Record :=
  { channel := 255, generation := 1, picture := 5, setCrc := 0, poc := 0, kind := 0, furrows := 2, bits := 0, fallow := 0, deadline := 0
    ckptHeld := false, latched := false, baseQp := 0, bank := 0, budget := 0, marks := [], stallPoc := [], pin := 0, gdrPos := 0
    idrCount := 0, services := [], ancCrc := 0, reconHash := 0, inputHash := [] }

theorem witness_records :
    (let s := yoked { role := 4, chs := [(255, { st := 1, own := [rec5] })] }
     inReset s = false ∧ InTurn s nextHdr ∧ 255 < 32 * dies s ∧ rec5.channel = 255 ∧ s.yoke.role = roleStandby ∧ (ych s 255).own = [rec5] ∧
     (ych s 255).theirs = [] ∧ (ych s 255).st = ysLocked ∧ recordCause rec5 rec5 = 0 ∧ recordCause rec5 { rec5 with poc := 1 } = 6) ∧
    (let s := yoked { role := 3, chs := [(255, { st := 4 })] }
     s.yoke.role ≠ roleStandby ∧ s.yoke.role = roleActive ∧ (ych s 255).st ≠ ysLocked ∧ (ych s 255).st ≠ ysDiverged ∧
     (ych s 255).st = ysVerify) := by decide

/-- Channel 255 runs with the configuration of `picCfg` in effect on a part whose yoke is `y`; stall 15 is pinned. -/
def resyncing (y : Yoke) : State :=
  { yoked y with eff := (0x110, 0x81000000) :: picCfg, live := (reseatLoc 255, 0x80000000) :: picCfg
                 chans := [(255, { st := .running, ckptSeat := true, stalls := [(15, { pin := true })] })] }

theorem witness_resync :
    (let s := resyncing { role := 3 }
     inReset s = false ∧ InTurn s nextHdr ∧ s.yoke.role = roleActive ∧ running s 255 = true ∧ s.yoke.resyncCh = none) ∧
    (let s := resyncing { role := 4, resyncCh := some 255, resyncStep := 2 }
     InTurn s nextHdr ∧ s.yoke.role = roleStandby ∧ s.yoke.resyncCh = some 255 ∧ 2 ≤ s.yoke.resyncStep ∧ s.yoke.resyncStep = 2 ∧ 15 < 16 ∧
     stallSize (effW s) 255 - 1 + [(0xAA : Byte)].length ≤ stallSize (effW s) 255 ∧ chDie s 255 < 8 ∧
     stallAt (effW s) 255 15 + (stallSize (effW s) 255 - 1) + [(0xAA : Byte)].length ≤ 2 ^ 34 ∧ running s 255 = true) ∧
    (let s := resyncing { role := 3, resyncCh := some 255, resyncStep := 2 }
     s.yoke.role = roleActive ∧ s.yoke.resyncCh = some 255 ∧ s.yoke.resyncStep = 2) ∧
    (fld (0x5E1D0FF2 : Word) 31 16 = 0x5E1D ∧ fld (0x5E1D0FF2 : Word) 3 0 = 2 ∧ fld (0x5E1D0FF2 : Word) 11 4 = 255 ∧
      fld (0x5E1C0FF2 : Word) 31 16 ≠ 0x5E1D) := by decide

theorem witness_yield :
    (let s := yoked { role := 3, chs := [(255, { st := 1 })] }
     inReset s = false ∧ fld (0x5E1D0001 : Word) 31 16 = 0x5E1D ∧ fld (0x5E1D0001 : Word) 3 0 = 1 ∧ s.yoke.role = roleActive ∧
     anyLocked s = true ∧ s.yoke.pendYield = none) ∧
    anyLocked (yoked { role := 3 }) = false ∧
    (let s := resyncing { role := 4, pendTake := some (5, 125000) }
     s.yoke.role = roleStandby ∧ InTurn s nextHdr ∧ s.yoke.pendTake = some (5, 125000) ∧ s.yoke.resyncCh = none ∧ 255 ∈ runningChs s ∧
     lockedCh s 255 = false) ∧
    (let s := yoked { role := 3, pendYield := some 125000 }
     s.yoke.pendTake = none ∧ s.yoke.pendYield = some 125000 ∧ s.yoke.resyncCh = none) ∧
    (full.yoke.pendTake = none ∧ full.yoke.pendYield = none) := by decide

theorem witness_die_faults :
    (let s := { full with chans := [(255, { st := .armed }), (254, { st := .running })] }
     inReset s = false ∧ 7 < dies s ∧ (chan s 255).st = .armed ∧ chDie s 255 = 7 ∧ s.yoke.role ≠ roleActive ∧ (chan s 254).st = .running ∧
     chDie s 254 = 7 ∧ reseatEn (liveW s) 254 = false) ∧
    (let s := resyncing {}
     (chan s 255).st = .running ∧ chDie s 255 = 7 ∧ (chan s 255).seat = none ∧ spareDie (liveW s) 255 ≠ 7 ∧ spareOk s 255 = true ∧
     mirrors s 255 = true ∧ (chan s 255).ckptSeat = true ∧
     (∀ j, j < 16 → ((stall (chan s 255) j).pin = true ↔ j = 15)) ∧ spareDie (liveW s) 255 < 8 ∧
     stallAt (effW s) 255 15 + stallSize (effW s) 255 ≤ 2 ^ 34 ∧ shadowAt s 255 15 + stallSize (effW s) 255 ≤ 2 ^ 34) ∧
    (let s := { resyncing {} with chans := [(255, { st := .running, mirrorInit := true, lastRec := some rec5
                                                    stalls := [(15, { mark := 1, n := 5 })] })] }
     mirrors s 255 = true ∧ (chan s 255).ckptSeat = false ∧ (chan s 255).mirrorInit = true ∧ (chan s 255).lastRec = some rec5 ∧
     stallOf (chan s 255) rec5.picture = some 15 ∧ (chan s 255).mirrored ≠ some rec5.picture) ∧
    mirrors full 255 = false := by decide

theorem witness_stalls :
    (15 ∈ mirroredStalls (resyncing {}) 255 ∧
      badWords (resyncing {}) (chDie (resyncing {}) 255) (stallAt (effW (resyncing {})) 255 15) (stallSize (effW (resyncing {})) 255) = []) ∧
    (let s := { resyncing {} with poison := [wordKey 7 (stallAt (effW (resyncing {})) 255 15 / 32)] }
     15 ∈ mirroredStalls s 255 ∧ badWords s (chDie s 255) (stallAt (effW s) 255 15) (stallSize (effW s) 255) ≠ []) ∧
    (let s := resyncing { role := 4 }
     s.yoke.role = roleStandby ∧ running s 255 = true ∧ s.yoke.resyncCh = none ∧ s.yoke.linkLost = false) := by decide

/-- The yoke is on and source 4095 is `x`. -/
def sourced (x : Src) (q : List (Nat × Nat)) : State := { yoked { role := 3 } with ic := { srcs := [(4095, x)], inflight := q } }

theorem witness_messages :
    (let s := sourced { en := true, pend := true, remote := true } [(40, 4095)]
     inReset s = false ∧ (4095 : Word).toNat < 512 * dies s ∧ s.ic.inflight.find? (fun e => decide (e.1 = 40)) = some (40, 4095) ∧
     (src s 4095).en = true ∧ s.ic.inflight.find? (fun e => decide (e.1 = 41)) = none ∧ 512 * dies s ≤ (4096 : Word).toNat ∧
     pairedRole s = true ∧ s.yoke.linkLost = false ∧ InTurn s nextHdr ∧ (src s 4095).remote = true ∧ (src s 4095).pend = true) ∧
    (let s := sourced {} [(40, 4095)]
     (src s 4095).en = false ∧ (src s 4095).remote = false ∧ (src s 4095).pend = false) ∧
    pairedRole full = false := by decide

theorem witness_claim :
    (let s := sourced { en := true, pend := true, target := 287, prio := 15 } []
     287 < 288 ∧ s.ic.srcs = [] ++ (4095, { en := true, pend := true, target := 287, prio := 15 }) :: [] ∧
     deliverable s 287 { en := true, pend := true, target := 287, prio := 15 } = true ∧
     (∀ e ∈ s.ic.srcs, deliverable s 286 e.2 = false) ∧ targetExists s 287 = true ∧ targetExists s 288 = false) ∧
    (let s := sourced { svc := some (287, 15) } []
     (src s (4095 : Word).toNat).svc = some (287, 15) ∧ ∀ p, (src s (4095 : Word).toNat).svc ≠ some (286, p)) ∧
    (let s := { sourced { pend := true, en := true, target := 28 } [] with
                pwr := { full.pwr with asleep := [7] }, ic := { srcs := [(4095, { pend := true, en := true, target := 28 })], wakeQ := [(4095, 28)] } }
     s.ic.wakeQ.find? (fun e => decide (e.1 = 4095)) = some (4095, 28) ∧ targetAsleep s 28 = true ∧ (src s 4095).pend = true ∧
     s.ic.wakeQ.find? (fun e => decide (e.1 = 4094)) = none) ∧
    targetAsleep full 28 = false := by
  refine ⟨by decide, ⟨by decide, ?_⟩, by decide, by decide⟩
  intro p h
  exact absurd (congrArg (fun o => o.map Prod.fst) h) (by simp only [Option.map]; decide)

/-- Lanes 31 and 35 are in state `n`; lane 31 forms a port. -/
def laned (n : Nat) : State := { eff [(0x110, 0x88000000), (laneLoc 31, 0x80000001)] with lanes := [(31, { st := n }), (35, { st := n })] }

theorem witness_lanes :
    (∀ n ∈ [0, 1, 2, 3, 4, 5, 6], inReset (laned n) = false ∧ laneExists (laned n) 31 = true ∧ laneExists (laned n) 35 = true ∧
      (lane (laned n) 31).st = n ∧ (lane (laned n) 35).st = n) ∧
    (powered full (lanePage 31) = true ∧ portOf (effW (laned 3)) 31 = some 31 ∧ portLanes (effW (laned 3)) 31 = [31] ∧
      (lane { full with lanes := [(31, { st := 2, retry := true })] } 31).retry = true) ∧
    (∀ l ∈ [31, 35], blocksUp (laned 0) (if l < 32 then l / 4 else 0) = true) ∧ laneExists full 36 = false := by decide

theorem witness_idle :
    (txEnabled (laned 4) 35 = true ∧ beatLane (laned 4) = some 35 ∧
      (let s := { eff [(0x110, 0x8F000000)] with lanes := [(32, { st := 4 }), (35, { st := 4 })] }
       (lane s 35).st = 4 ∧ txEnabled s 35 = true ∧ beatLane s ≠ some 35)) ∧
    (let s := { eff [(0x110, 0x8F000000)] with lanes := [(32, { st := 4 }), (35, { st := 5 })] }
     (lane s 35).st = 5 ∧ beatLane s ≠ some 35) ∧
    (degradedCond (laned 4) 31 = false ∧ degradedCond { laned 4 with lanes := [(31, { st := 4, portSyms := 418 })] } 31 = true) ∧
    (portMates (laned 4) 31 = [31] ∧ (lane (laned 4) 31).shares = []) ∧
    (lane (laned 5) 35).st = 5 ∧ txEnabled full 35 = false := by decide

theorem witness_eye :
    (blockLane 7 3 = some 31 ∧ blockLane 0 7 = some 35 ∧ 7 < dies full ∧ blockLane 7 4 = none ∧ blockLane 0 8 = none ∧
      tapSum 0x07010A00 = 18 ∧ tapSum 0x07011000 = 24 ∧ 24 < tapSum 0x07011001) ∧
    ((lane (laned 4) 31).st ∈ [2, 3, 4, 5] ∧ (lane (laned 4) 31).busy = false) ∧
    (let s := { full with lanes := [(31, { st := 4, busy := true, cells := 4095 })] }
     (lane s 31).busy = true ∧ (lane s 31).st ≠ 5 ∧ (lane s 31).cells = 4095) ∧
    (let s := { full with lanes := [(31, { st := 4, busy := true, cells := 4094 })] }
     (lane s 31).busy = true ∧ (lane s 31).cells ≠ 4095) := by decide

/-- Flow 511 is a network flow of one channel, with one service that flow-table entry 9 has joined. -/
def audioState (w : Word) (x : AFlow) : State :=
  { eff [(aflLoc 511 0x100, w), (aflLoc 511 0x12C, 0x80000000), (aflLoc 511 0x128, 0x80000000)] with
    aflows := [(511, x)], svcs := [(4095, { active := true, next := 2 })]
    flows := [(9, { joined := some 4095, words := [0xC01F0000, 0xEF000001] })] }

theorem witness_audio_packet :
    (let s := audioState 0xB0000100 { valid := true, ready := 18 }
     inReset s = false ∧ isVideoSvc 4095 = false ∧ asvcFlow 4095 < 64 * dies s ∧ (svc s 4095).active = true ∧
     (asvcCfg (effW s) 4095).form1 = false ∧ (asvcCfg (effW s) 4095).dual = false ∧
     (svc s 4095).next * (aflCfg (effW s) (asvcFlow 4095)).n + (aflCfg (effW s) (asvcFlow 4095)).n = (aflow s (asvcFlow 4095)).ready ∧
     joinedFlows s 4095 = [(9, [0xC01F0000, 0xEF000001])]) ∧
    (let s := audioState 0xB0000100 { valid := true, ready := 17 }
     (aflow s (asvcFlow 4095)).ready < (svc s 4095).next * (aflCfg (effW s) (asvcFlow 4095)).n + (aflCfg (effW s) (asvcFlow 4095)).n) := by
  decide

theorem witness_samples :
    (let s := audioState 0xB03F0100 { valid := true, ready := 18, samples := [(63 + 64 * 18, some 5)] }
     511 < 64 * dies s ∧ (aflow s 511).valid = true ∧ (aflCfg (effW s) 511).mix = false ∧ 63 < (aflCfg (effW s) 511).chans ∧
     (aflow s 511).gap = false ∧ (aflow s 511).samples.get (fun _ => none) (0 + 64 * (aflow s 511).ready) = none) ∧
    (let s := audioState 0xF0000100 { valid := true, ready := 18 }
     (aflCfg (effW s) 511).mix = true ∧ 0 < (aflCfg (effW s) 511).chans ∧ (aflow s 511).zc.get (fun _ => none) 0 = none ∧
     0 ∉ (aflow s 511).muted) ∧
    (aflow full 511).valid = false ∧
    (let z : ZcChange := { kind := 2, se := 18, word := 7 }
     let s := { audioState 0xF0000100 { valid := true, ready := 2000, zc := [(63, some z)], marks := [(63, 1)] } with
                tdms := [(3, { zc := [(31, some { z with se := 0 })], marks := [(31, 1)] })], time := { now := 8192000000 } }
     (aflow s 511).zc.get (fun _ => none) 63 = some z ∧ (aflow s 511).zc.get (fun _ => none) (64 + 63) = none ∧
     z.se + aflZc (effW s) 511 ≤ (aflow s 511).ready ∧ (tdm s 3).zc.get (fun _ => none) 31 = some { z with se := 0 } ∧
     (tdm s 3).st ≠ .clockLost ∧
     0 + audZc (effW s) 3 ≤ outIndex s 3 31 ((tdm s 3).src.get (fun _ => 0) 31) s.time.now ∧ (tdm s 3).marks.get (fun _ => 0) 31 ≠ 0 ∧
     (tdm s 3).marks.get (fun _ => 0) 31 - 1 + 8192 ≤ sampleFrom s.time.now) ∧
    (let s := audioState 0xB0000100 { valid := true, ready := 8192, marks := [(63, 1)] }
     (aflow s 511).marks.get (fun _ => 0) 63 ≠ 0 ∧ (aflow s 511).marks.get (fun _ => 0) 63 - 1 + 8192 ≤ (aflow s 511).ready) ∧
    (isVideoSvc 4095 = false ∧ isVideoSvc 3839 = true ∧ 64 * dies full ≤ 512) := by decide

theorem witness_stopped_limit :
    let z : ZcChange := { kind := 0, se := 0, word := 7 }
    let s := { audioState 0xB0000100 { valid := true, ready := 2000 } with
               tdms := [(3, { st := .clockLost, zc := [(31, some z)], outPos := [(31, 392999)] })], time := { now := 8192000000 } }
    let n := outIndex s 3 31 ((tdm s 3).src.get (fun _ => 0) 31) s.time.now
    (tdm s 3).st = .clockLost ∧ z.se + audZc (effW s) 3 ≤ n ∧ 31 < 32 := by decide

/-- TDM port 3 with these registers in effect and in force. -/
def tdmState (w : Word) (x : Tdm) : State := { eff [(ploc 11 0x100, w)] with tdms := [(3, { x with cfg := [w, 0, 0, 0, 0] })] }

theorem witness_tdm :
    (let s := tdmState 0xA3000003 { st := .running }
     inReset s = false ∧ 3 < 4 ∧ (tdm s 3).st ≠ .disabled ∧ (tdm s 3).pend = false ∧ (tdm s 3).cfg ≠ [] ∧ (tdm s 3).restart = false ∧
     (tdm s 3).st = .running ∧ ctlLeader ((tdm s 3).cfg.getD 0 0) = true ∧ ctlLeader (audW (effW s) 3 0x100) = true) ∧
    (let s := tdmState 0x93000003 { st := .running, bad := 15 }
     ctlLeader ((tdm s 3).cfg.getD 0 0) = false ∧ 127 ≠ ctlBits ((tdm s 3).cfg.getD 0 0) ∧ 128 = ctlBits ((tdm s 3).cfg.getD 0 0) ∧
     16 ≤ (tdm s 3).bad + 1 ∧ (tdm s 3).st ≠ .clockLost ∧ ctlLeader (audW (effW s) 3 0x100) = false) ∧
    (tdm (tdmState 0xA3000003 { st := .misaligned, restart := true }) 3).restart = true ∧
    (tdm (tdmState 0xA3000003 { st := .locking }) 3).st = .locking ∧
    (let s := tdmState 0x93000003 { st := .clockLost, known := true, ratio := 40 }
     (tdm s 3).st = .clockLost ∧ (tdm s 3).known = true ∧ ((1040 : Int) - (tdm s 3).ratio).natAbs ≤ 1000) ∧
    (let s := tdmState 0x93000003 { st := .fault }
     (tdm s 3).st = .fault ∧ audAuto (effW s) 3 = true) ∧
    (let s := tdmState 0x93000003 { st := .running, known := true, ratio := 40 }
     (tdm s 3).st = .running ∧ ctlLeader ((tdm s 3).cfg.getD 0 0) = false ∧ (tdm s 3).known = true ∧ (141 : Int).natAbs ≤ 30000 ∧
     100 < ((141 : Int) - (tdm s 3).ratio).natAbs ∧ 30000 < (30001 : Int).natAbs) ∧
    (tdm full 3).st = .disabled := by decide

/-- A boot may run on this flash. -/
def bootState (f : Flash) : State := { full with pwr := { full.pwr with fwReady := false }, fw := { flash := f } }

theorem witness_boot_recovery :
    let s := bootState { previous := none }
    BootMayRun s ∧ s.fw.flash.full = false ∧ s.fw.flash.confirmed = true ∧ s.fw.flash.previous = none ∧
    verifyImage s.fw.rollback false (region s.fw.flash s.fw.flash.active) ≠ 0 := by decide

theorem bootState_may (f : Flash) : BootMayRun (bootState f) := by
  refine ⟨rfl, rfl, ?_, rfl, rfl⟩
  show ∀ d, d < 8 → d ∈ List.range 8
  decide

/-- Whether an image verifies is the configuration's to say: the hash of its key is a free value. With an image `l` that
verifies, each clause of the boot has a state that meets it. -/
theorem witness_boot_images (l : List Byte) (h : verifyImage 0 false l = 0) :
    (let s := bootState { images := [(0, l)] }
     BootMayRun s ∧ s.fw.flash.full = false ∧ s.fw.flash.confirmed = true ∧
     verifyImage s.fw.rollback false (region s.fw.flash s.fw.flash.active) = 0) ∧
    (let s := bootState { images := [(1, l)], full := true, tries := 1 }
     BootMayRun s ∧ s.fw.flash.full = true ∧ s.fw.flash.staged = some 1 ∧ 0 < s.fw.flash.tries ∧
     verifyImage s.fw.rollback false (region s.fw.flash 1) = 0) ∧
    (let s := bootState { images := [(0, l)], full := true, tries := 1 }
     BootMayRun s ∧ s.fw.flash.full = true ∧ s.fw.flash.staged = some 1 ∧ s.fw.flash.confirmed = true ∧
     verifyImage s.fw.rollback false (region s.fw.flash 1) ≠ 0 ∧
     verifyImage s.fw.rollback false (region s.fw.flash s.fw.flash.active) = 0) ∧
    (let s := bootState { images := [(2, l)], confirmed := false, allowance := 0, staged := none }
     BootMayRun s ∧ s.fw.flash.full = false ∧ s.fw.flash.confirmed = false ∧ s.fw.flash.allowance = 0 ∧ s.fw.flash.previous = some 2 ∧
     verifyImage s.fw.rollback false (region (fallBack s.fw.flash) 2) = 0) ∧
    (let s := bootState { images := [(2, l)] }
     BootMayRun s ∧ s.fw.flash.full = false ∧ s.fw.flash.confirmed = true ∧ s.fw.flash.previous = some 2 ∧
     verifyImage s.fw.rollback false (region s.fw.flash s.fw.flash.active) ≠ 0 ∧
     verifyImage s.fw.rollback false (region s.fw.flash 2) = 0) := by
  have bad : verifyImage 0 false [] ≠ 0 := by decide
  refine ⟨⟨bootState_may _, rfl, rfl, h⟩, ⟨bootState_may _, rfl, rfl, Nat.zero_lt_one, h⟩, ⟨bootState_may _, rfl, rfl, rfl, bad, h⟩,
    ⟨bootState_may _, rfl, rfl, rfl, rfl, ?_⟩, ⟨bootState_may _, rfl, rfl, rfl, bad, h⟩⟩
  have hl : region (fallBack { images := [(2, l)], confirmed := false, allowance := 0, staged := none }) 2 = l := rfl
  show verifyImage 0 false (region (fallBack { images := [(2, l)], confirmed := false, allowance := 0, staged := none }) 2) = 0
  rw [hl]; exact h

/-- The FW page with these registers. -/
def fwState (f : Fw) : State := { full with fw := f }

/-- Settings of one record. -/
def blob1 (fmt : Word) : List Word :=
  let l : List Word := [0x43565354, fmt, 1, 32, 1, 0, 0, 0]
  l.set 7 (blobCrc l)

theorem witness_flash_start :
    (let s := fwState { len := 8388608, src := 0xE03A0000 }
     inReset s = false ∧ fld (0x5F3A3001 : Word) 31 16 = 0x5F3A ∧ fld (0x5F3A3001 : Word) 3 0 = 1 ∧ ready s 5 = true ∧ s.fw.op = 0 ∧
     0 < s.fw.len ∧ s.fw.len ≤ 8388608 ∧ fwSourceBad s = false) ∧
    (let s := fwState { len := 3145728, src := 0xE03A0000 }
     s.fw.len ≤ 3145728 ∧ fwSourceBad s = false ∧ settingsKept s = false) ∧
    fwSourceBad (fwState { len := 4096, src := 0xE03C0000 }) = true ∧
    (let s := { fwState { recovery := true, len := 8388608 } with pwr := { full.pwr with fwReady := false } }
     s.fw.recovery = true ∧ s.fw.op = 0 ∧ fwSourceBad s = false) ∧
    (ready (fwState { op := 1 }) 5 = true ∧ (fwState { op := 1 }).fw.op ≠ 0 ∧
      (Instr.fwWriteStaged 0x5F3A3001, fld (0x5F3A3001 : Word) 3 0) ∈ [(Instr.fwWriteStaged 0x5F3A3001, 1),
        (.fwWriteSettings 0x5F3A3001, 2), (.fwEraseStaged 0x5F3A3001, 3), (.fwEraseSettings 0x5F3A3001, 4)]) ∧
    ready State.reset 5 = false := by decide

theorem witness_flash_kept :
    settingsKept (fwState { flash := { confirmed := false, settings := [(0, blob1 0), (1, blob1 1)] } }) = true := by decide +kernel

theorem witness_flash_end :
    (let s := fwState { op := 1, opTries := 3, len := 8 }
     s.fw.confirmWait = false ∧ s.fw.op = 1 ∧ s.fw.flash.staged = some 1) ∧
    (let s := fwState { op := 2, len := 32 }
     s.fw.confirmWait = false ∧ s.fw.op = 2 ∧
     badBlob s s.fw.len (dramWordsAt s (fld s.fw.src 31 29) (4096 * fld s.fw.src 21 0) (s.fw.len / 4)) = some 0) ∧
    (∀ n ∈ [1, 3, 4], (fwState { op := n }).fw.op = n ∧ (fwState { op := n }).fw.op ∈ [1, 3, 4]) ∧
    (let s := fwState { op := 3, confirmWait := true, flash := { confirmed := false } }
     s.fw.op = 3 ∧ s.fw.confirmWait = true ∧ s.fw.flash.confirmed = false) := by decide

theorem witness_flash_reads :
    (∀ n ∈ [1, 2, 3], (fwState { op := n, len := 8 }).fw.confirmWait = false ∧
      ∀ r ∈ fwReads (fwState { op := n, len := 8 }), badWords (fwState { op := n, len := 8 }) r.die r.addr r.len = []) ∧
    (let s := { fwState { op := 1, len := 33 } with broken := [1] }
     ∃ r ∈ fwReads s, badWords s r.die r.addr r.len ≠ []) := by decide

/-- A deployed part with this tack store. -/
def tackState (t : Tack) : State := { full with pwr := { full.pwr with fuses := 2 }, tack := t }

theorem witness_keys :
    (let s := tackState { idPub := some 7 }
     inReset s = false ∧ ready s 6 = true ∧ s.tack.busy = 0 ∧ lcState s.pwr.fuses ≠ 0 ∧ lcState s.pwr.fuses ≠ 3 ∧
     slotInUse s (fld (0x11000FFF : Word) 11 0) = false ∧ s.tack.idPub ≠ none ∧
     (Instr.tackWrite 0x11000FFF, fld (0x11000FFF : Word) 31 28) ∈ [(Instr.tackWrite 0x11000FFF, 1), (.tackErase 0x11000FFF, 2),
       (.tackAttest 0x11000FFF, 3)] ∧ fld (0x2000000F : Word) 31 28 = 2 ∧ fld (0x30000000 : Word) 31 28 = 3) ∧
    (ready full 6 = true ∧ lcState full.pwr.fuses = 0 ∧ full.tack.idPub = none) ∧
    (let s := { tackState {} with live := [(ploc (pgGate 31) 0x120, 0x8FFF0000)] }
     slotInUse s (fld (0x2000_0FFF : Word) 11 0) = true) ∧
    (∀ n ∈ [1, 2], (tackState { busy := n }).tack.busy = 1 ∨ (tackState { busy := n }).tack.busy = 2) ∧
    (let s := tackState { busy := 3, idPub := some 7 }
     s.tack.busy = 3 ∧ s.tack.idPub = some 7) := by decide +kernel

/-- The function is up, and set 3 names the PKG page. -/
def hostState (h : HostSt) : State := { full with host := h, ctab := [(48, 0x80000000)] }

theorem witness_host :
    (inReset full = false ∧ full.host.up = false ∧ (hostState { up := true }).host.up = true) ∧
    (let s := { hostState { up := true } with ic := { msixPend := [(2, 40)] } }
     vectorPends s 2 = true ∧ bitOf ({ s with host := { s.host with msixTab := [(11, 0)] } }.host.msixTab.get msixReset (4 * 2 + 3)) 0 = false) ∧
    (let s := { hostState {} with fw := { present := true, flash := { settings := [(0, blob1 0)] } } }
     ready s 5 = true ∧ s.fw.present = true ∧ s.host.boot = 0 ∧
     recordsOf (area s.fw.flash s.fw.area) 1 8 = (0, List.replicate 14 0, [], 0) :: [] ∧
     (blobW (area s.fw.flash s.fw.area) 4).toNat = 1) ∧
    (let s := hostState { boot := 1, bootList := [(3, 0x80000000 :: List.replicate 13 0, [], 0)] }
     s.host.boot = 1 ∧ s.host.bootList = (3, 0x80000000 :: List.replicate 13 0, [], 0) :: [] ∧ 3 < 1024 ∧ setBusy s 3 = false ∧
     s.pwr.armed = false ∧ reportingPage s 3 = some 0 ∧ pageExists s 0 = true ∧ aliasSet s 0 = some 3) ∧
    ((hostState { boot := 2 }).host.boot = 2 ∧ bitOf (0x80000000 : Word) 31 = true ∧ bitOf (0x40000000 : Word) 30 = true ∧
      full.host.boot ≠ 1 ∧ full.host.boot ≠ 2) := by decide

theorem witness_boot_wait :
    (membersOf false (0x80000000 :: List.replicate 13 0)).all (ready full) = true ∧
    (let s := withPwr { supplied := true }
     (membersOf false (0x80000000 :: List.replicate 13 0)).all (ready s) = false ∧ s.time.now < s.pwr.originAt + 1000000000) := by
  decide

/-- IS-04, IS-05 and PTP are on; set 3 names the PKG page and the first page of the flow table. -/
def servState (l : List (Nat × Bool × Nat × List (Nat × Word))) : State :=
  { eff [(0x104, 0x100), (0x140, 0x601F0000), (0x144, 0x80000000), (0x148, 0x80000000), (laneLoc 31, 0x80000001)] with
    lanes := [(31, { st := 4 })], ctab := [(48, 0x80000000), (49, 0xC0400000)], services := { is05Wait := l } }

theorem witness_services :
    (let s := servState []
     inReset s = false ∧ nmosEn (effW s) = true ∧ announces s = true ∧ is05En (effW s) = true ∧ s.yoke.role ≠ roleActive ∧
     s.yoke.role ≠ roleStandby ∧ is05Set s false 0 = some 3 ∧ is05Set s true 0 = none ∧ reportingPage s 3 = some 0 ∧
     pageExists s 0 = true ∧ aliasSet s 0 = some 3 ∧ s.pwr.armed = false ∧ 31 < 4 * dies s ∧ ptpEn (effW s) = true ∧
     bitOf (effW s 0x144) 31 = true ∧ portUp s 31 = true ∧ s.services.is05Wait = []) := by decide

theorem witness_due :
    firstDue (servState []).services.is05Wait = none ∧
    (let s := servState [(9, true, 0, []), (5, false, 0, [(1, 0xEF000001)])]
     firstDue s.services.is05Wait = some (5, false, 0, [(1, 0xEF000001)]) ∧ is05Set s false 0 = some 3) ∧
    (let s := servState [(5, true, 0, [])]
     firstDue s.services.is05Wait = some (5, true, 0, []) ∧ is05Set s true 0 = none) ∧
    ({ servState [] with yoke := { role := 3 } }.yoke.role = roleActive ∧ nmosEn (effW full) = false ∧ is05En (effW full) = false ∧
      ptpEn (effW (eff [(0x104, 0)])) = false) :=
  ⟨rfl, ⟨rfl, by decide⟩, ⟨rfl, by decide⟩, by decide, by decide, by decide, by decide⟩

theorem witness_canonical : Canonical State.reset ∧ Canonical { full with pending := [.supplyFall] } := by
  unfold Canonical; decide

theorem witness_in_reset :
    let s := { State.reset with pwr := { supplied := true, hold := true } }
    inReset s = true ∧ Instr.is05Activation ≠ .supplyRise ∧ Instr.is05Activation ≠ .resetRelease := by decide

/-- The settings of one set, which names the PKG page and leaves every word of it zero: 473 words at the start of die 0's DRAM. -/
def blobHead : List Word := [0x43565354, 0, 0, 1892, 1, 0, 0, 2964616282, 3, 448, 0x80000000] ++ List.replicate 13 0
def blobOne : List Word := blobHead ++ (List.replicate 448 0 ++ [2754897507])

def blobState : State :=
  { fwState { op := 2, len := 1892 } with dram := [(0, 84), (1, 83), (2, 86), (3, 67), (12, 100), (13, 7), (16, 1), (28, 90), (29, 116), (30, 180), (31, 176), (32, 3), (36, 192), (37, 1), (43, 128), (1888, 99), (1889, 102), (1890, 52), (1891, 164)] }

theorem blobState_read : dramWordsAt blobState 0 0 473 = blobOne := by decide +kernel

/-- The checksum's register after `k` zero words, one value at a time. -/
def crcRun : Nat → Nat → Nat
  | 0, c => c
  | k + 1, c =>
    match (crcWord (BitVec.ofNat 32 c) 0).toNat with
    | 0 => crcRun k 0
    | n + 1 => crcRun k (n + 1)

theorem crcRun_eq (k : Nat) (c : Word) : (List.replicate k 0).foldl crcWord c = BitVec.ofNat 32 (crcRun k c.toNat) := by
  induction k generalizing c with
  | zero => simp [crcRun]
  | succ k ih =>
    rw [List.replicate_succ, List.foldl_cons, ih, crcRun, BitVec.ofNat_toNat, BitVec.setWidth_eq]
    cases h : (crcWord c 0).toNat <;> rfl

theorem blobState_body : (List.replicate 448 0).foldl crcWord 4294967295 = 1540069788 := by
  rw [crcRun_eq]; decide +kernel

theorem blobState_whole : (List.replicate 448 0).foldl crcWord 3771611834 = 981544359 := by
  rw [crcRun_eq]; decide +kernel

theorem blobState_crc : crc32c (List.replicate 448 0) = 2754897507 := by
  unfold crc32c; rw [blobState_body]; decide

theorem blobState_blob_crc : blobCrc blobOne = 2964616282 := by
  have hs : (blobOne.set 2 0).set 7 0 =
      ([0x43565354, 0, 0, 1892, 1, 0, 0, 0, 3, 448, 0x80000000] ++ List.replicate 13 0) ++ (List.replicate 448 0 ++ [2754897507]) := rfl
  have hh : ([0x43565354, 0, 0, 1892, 1, 0, 0, 0, 3, 448, 0x80000000] : List Word).foldl crcWord 0xFFFFFFFF = 2377663669 := by decide +kernel
  unfold blobCrc crc32c
  rw [hs, List.foldl_append, List.foldl_append, List.foldl_append, hh, crcRun_eq 13]
  have hz : BitVec.ofNat 32 (crcRun 13 (2377663669 : Word).toNat) = 3771611834 := by decide +kernel
  rw [hz, blobState_whole]
  decide +kernel

theorem witness_settings :
    inReset blobState = false ∧ blobState.fw.op = 2 ∧ blobState.fw.confirmWait = false ∧
    badBlob blobState blobState.fw.len
      (dramWordsAt blobState (fld blobState.fw.src 31 29) (4096 * fld blobState.fw.src 21 0) (blobState.fw.len / 4)) = none := by
  refine ⟨by decide, rfl, rfl, ?_⟩
  show badBlob blobState 1892 (dramWordsAt blobState 0 0 473) = none
  rw [blobState_read]
  unfold badBlob
  rw [if_neg (by decide +kernel), if_neg (by decide +kernel), if_neg (by decide +kernel), if_neg (by decide +kernel),
    if_neg (by rw [blobState_blob_crc]; decide +kernel)]
  show badRecord blobState blobOne 1 8 [] = none
  unfold badRecord
  dsimp only
  rw [if_neg (by decide +kernel), if_neg (by decide +kernel), if_neg (by decide +kernel)]
  have hd : (blobOne.drop (8 + 16)).take (blobW blobOne (8 + 1)).toNat = List.replicate 448 0 := by decide +kernel
  rw [hd, blobState_crc, if_neg (by decide +kernel)]
  decide +kernel

/-! ## The step, and what the whole part keeps -/

theorem witness_step :
    (let s := { full with pending := [.tackCommandEnd, .supplyFall] }
     s.pending = .tackCommandEnd :: [.supplyFall]) ∧ full.pending = [] ∧
    step { full with pending := [.tackCommandEnd] } = .next full ∧ exec .tackCommandEnd full = .next full := ⟨rfl, rfl, rfl, rfl⟩

/-! ## Well-formedness: an ill-formed command for each check -/

/-- A frame that only its numbers can make ill-formed. -/
def anyFrame (b : Body) : Frame := frameOf 0xEF000001 b

theorem test_wf_dies :
    ([.ctrlStoreZeroised 8, .dramTrainingDone 8 0, .granuleWiped 8, .sramZeroised 8, .domainPowerUpDone 8 0, .domainPowerGoodTimeout 8 0,
      .domainPowerDown 8 0, .domainHoldWrite 8 0, .dieSleepRequest 8, .dieAsleep 8, .dieWakeRequest 8, .wakeDomainsUp 8,
      .wakeDramReady 8 (List.replicate 16 0), .wakeInterruptRestore 8, .wakeSramZeroised 8, .wakeFirmwareStarted 8, .commit 8 0 0,
      .statClear 8 0 0 0, .statSet 8 0 0, .statAgainClear 8 0 0 false, .imaskWrite 8 0 0, .imaskSet 8 0 0, .imaskClr 8 0 0,
      .counterLowRead .host 8 0 0, .barnMarkRead .host 8 0, .lineFill 8 0 0 0, .fillEnd 8 0 0 0, .compressedGapLost 8 0, .itemCreate 8 0,
      .queueReevaluate 8 0, .itemDispatch 8 0 0, .itemEnd 8 0 0, .engineFault 8 0 false, .trackingWindowEnd 8, .dspWindowEnd 8,
      .decodedSlicePoint 8 0 false [], .dueTime 8 0, .refreshDue 8 0, .mr4PeriodicRead 8 (List.replicate 16 0),
      .thermalAlert 8 (List.replicate 16 0), .panicEntry 8 0 0, .panicExit 8 0 0, .portRun 8 0, .patrolPass 8 [] [], .flowStopSet 8 0 0,
      .flowStopClr 8 0 0, .flowQuenchSet 8 0, .flowQuenchClr 8 0, .dieFault 8 none, .phyTxeqWrite 8 0 0, .phyReadapt 8 0 0,
      .eyeScanStart 8 0 0, .eyeScanAbort 8 0 0, .eyeCellDone 8 0 0] : List Instr).all (fun c => !c.wf) = true := by decide

theorem test_wf_units :
    ([.dramTrainingDone 0 65536, .domainPowerUpDone 0 16, .laneCalibrated 36 true, .wakeDramReady 0 [], .registerWrite .host 2 4 0,
      .registerWrite .core 4 8 0, .stageWrite .host false 0 2 0, .commitTableWrite 1024 0 0, .commitTableWrite 0 16 0, .commit 0 8192 0,
      .counterLowRead .host 0 0 128, .barnMarkRead .host 0 4, .pictureBoundary 256, .lineFill 0 64 0 0, .lineFill 0 0 0 4320,
      .fillEnd 0 64 0 0, .pathDown 32768 0, .igmpReport 32768, .fenceRead 256, .composeStart 0 256, .canvasPoint 256 0 [],
      .plantingInstant 0 256, .itemCreate 0 128, .itemDispatch 0 11 0, .itemEnd 0 512 0, .ctuCoded 256 0, .codedPoint 0 256,
      .deadlinePoint 256 0 0, .engineFault 0 4 true, .dueTime 0 64, .refreshDue 0 16, .mr4PeriodicRead 0 (List.replicate 16 4),
      .thermalAlert 0 [], .panicEntry 0 12 0, .panicExit 0 0 32769, .portRun 0 12, .apertureRead 0 0 .clean, .apertureRead (2 ^ 29) 1 .clean, .apertureWrite 0 [] .clean,
      .packetRelease 256, .packetRelease 4096, .portTransmit 32 0, .gateEntry 32, .listStart 32, .flowStopSet 0 128 0, .bulkCopyDone 256,
      .mirrorCopy 256, .audioPacketRelease 0, .sampleReady 512, .zcTimeout true 4 0, .zcTimeout true 0 32, .zcTimeout false 512 0,
      .nonAudioClear false 0 64, .tdmClockStop 4, .tdmFaultClear 4, .tdmClockReturn 4 0, .icClaim 288 [], .icComplete 288 0,
      .routingWrite 4096 0, .wakeTimeout 4096, .signalDetect 36, .signalLoss 36, .adaptationConverged 0 32 0, .adaptationConverged 0 0 256,
      .trainingComplete 36 false 0, .trainingTimeout 36, .trainingRetry 36, .lockLoss 36, .fecBlockEnd 36 0 0 0, .ykIdleEntry 31,
      .ykIdleExit 36, .ykIdleRefresh 31 0 0, .ykIdleRefresh 32 32 0, .ykExitLate 36, .phyTxeqWrite 1 4 0, .eyeScanStart 0 8 0, .delayReqSend 32,
      .is05Patch false 32768 [] false none, .is05Patch false 0 [(32, 0)] false none, .reliableRetry (2 ^ 32), .pcieLinkUp 16 0 false,
      .pcieLinkUp 0 256 false] : List Instr).all (fun c => !c.wf) = true := by decide

theorem test_wf_frames :
    ([.frameReceived { anyFrame .other with lane := 32 }, .frameReceived { anyFrame .other with len := 63 },
      .frameReceived { anyFrame .other with vlans := [4096] }, .frameReceived { anyFrame .other with dport := 65536 },
      .frameReceived (anyFrame (.video 0 0 false [{ line := 0, first := 0, count := 2, px := [1] }])),
      .frameReceived (anyFrame (.video (2 ^ 32) 0 false [])), .cmdStop (anyFrame .other), .cmdStart (anyFrame (.command 0xCA01 1 0 0 0 0)),
      .cmdQuench (anyFrame (.command 0xCA01 4 0 0 0 0)), .cmdUnquench (anyFrame (.command 0xCA01 3 0 0 0 0)),
      .helloReceived { nextHdr with seq := 2 ^ 32 } (hello []), .helloReceived nextHdr (hello [256]), .ackFrame { nextHdr with ack := 2 ^ 32 },
      .stateFrame nextHdr rec5, .verdictFrame nextHdr 256 0 0 0, .voteFrame nextHdr 1024 0 0 0 0 0, .decidePass nextHdr 0 65536 0,
      .decideFail nextHdr 1024 0, .decideCatchup nextHdr 1024 0, .copyBulk nextHdr 0 16 0 [], .copyRow nextHdr 0 16 0 [],
      .copyMirror nextHdr 256 0 0 [], .resyncRequest nextHdr 256, .resyncCheckpointTaken nextHdr 0 65536 0, .resyncCopyDone nextHdr 256 0 false, .icDoorbell (some 256) 0,
      .resyncAbort nextHdr 256, .yieldFrame nextHdr 8 0 0, .doorbellFrame nextHdr 4096] : List Instr).all (fun c => !c.wf) = true := by decide

theorem test_wf_accepts :
    ([.supplyRise, .dieFault 7 none, .domainPowerUpDone 7 15, .registerWrite .host 8 8 0, .commitTableWrite 1023 13 0, .fenceRead 255, .laneCalibrated 35 true,
      .itemDispatch 7 10 0, .apertureRead (2 ^ 29 - 1) 1 .clean, .packetRelease 3839, .audioPacketRelease 4095, .phyTxeqWrite 0 7 0,
      .frameReceived (anyFrame .other), .cmdStop (commandOf 1), .verdictFrame nextHdr 255 0 0 0, .icClaim 287 []] : List Instr).all Instr.wf = true := by
  decide

theorem test_no_words (n w : Nat) (s : State) : decodeTableWord n w = none ∧ s.withFetchWord n w = s := ⟨rfl, rfl⟩

/-! ## The manual's own numbers -/

/-- The 8K format of the manual's examples: 7680 by 4320 at 120 Hz, delay 3; and 1080 lines at 60 Hz. -/
def fmt8k : Fmt := fmtOf 0x10E01E00 0xB 3
def fmtHd : Fmt := fmtOf 0x04380780 8 3

/-- The example of R133, and that of ingest: emission, deadline and capture point of furrow 15. -/
theorem test_emission : fmtHd.emission 0 5 = 8908888 ∧ fmt8k.emission 0 15 = 2365672 ∧ fmt8k.deadline 0 15 = 2355672 ∧
    fmt8k.capture 0 15 = 1975308 := by decide

/-- The furrow figures of the architecture chapter. -/
theorem test_furrows : fmt8k.furrows = 68 ∧ fmtHd.furrows = 17 ∧ fmt8k.ctuCols = 120 := by decide

/-- The CRC-32C of 32 zero bytes (R59). -/
theorem test_crc : crc32c (List.replicate 8 0) = 0x8A9136AA := by decide +kernel

/-- The message `abc` of the examples published with the hash standard. -/
theorem test_hashes :
    sha256 [0x61, 0x62, 0x63] = 0xBA7816BF8F01CFEA414140DE5DAE2223B00361A396177A9CB410FF61F20015AD ∧
    sha384 [0x61, 0x62, 0x63] = 0xCB00753F45A35E8BB5A03D699AC65007272C32AB0EDED1631A8B605A43FF5BED8086072BA1E7CC2358BAECA134C825A7 ∧
    sha1 [0x61, 0x62, 0x63] = 0xA9993E364706816ABA3E25717850C26C9CD0D89D := by decide +kernel

/-- A zero key, initialisation vector and block: test case 2 published with GCM, and the key check value of that key. -/
theorem test_gcm :
    kcv false 0 = 0x66E94BD4 ∧ gcmStream false 0 (List.replicate 12 0) 16 = beBytes 16 0x0388DACE60B6A392F328C2B971B2FE78 ∧
    gcmTag false 0 (List.replicate 12 0) [] (beBytes 16 0x0388DACE60B6A392F328C2B971B2FE78) = 0xAB6E47D42CEC13BDF53A67B21257BDDF := by
  decide +kernel

/-- The example of R294. -/
theorem test_dram_place : dramPlace 2 41943040 = { channel := 5, bank := 10, row := 2730, burst := 40 } := by decide

/-- The member words of the example of the commit check (R58). -/
theorem test_member_word : mwFirst 0x90818000 = pkey 2 0x206 ∧ mwCount 0x90818000 = 1 ∧ mwFirst 0x90918000 = pkey 2 0x246 ∧
    mwValid 0x90818000 = true := by decide

/-- Stall size of the 8K channel (R219). -/
theorem test_stall_size : stallBytes fmt8k 1 = 85712896 := by decide

/-- Reserves of the drill's two examples (R240). -/
theorem test_reserve : reserveOf fmt8k 2 30 0 false none = 3452 ∧ reserveOf fmt8k 2 30 67 false none = 5012 ∧
    reserveOf fmtHd 1 7 0 false none = 983 ∧ reserveOf fmtHd 1 7 16 false none = 6053 := by decide +kernel

/-- Terms of the caps of the 8K example (R232, R241, R242). -/
theorem test_caps :
    (let d : DrillCfg := { (drillCfg (fun _ => 0) 0) with mode := 0, rate := 800000000, peak := 1200000000, limit := 98304 }
     pictureBudget d fmt8k 0 = 6666666 ∧ perFurrow fmt8k d.rate = 98765 ∧ yardTerm d fmt8k 0 1096 true = 146540 ∧
     yardTerm d fmt8k 1 1096 true = 147636 ∧ share fmt8k 6629218 0 = 98210 ∧ share fmt8k 6629218 5 = 589263) := by decide +kernel

/-- Release instants of the pacing example (R338). -/
theorem test_release : releaseAt fmt8k 21313 0 198 0 = 1144 ∧ releaseAt fmt8k 21313 0 1736 0 = 10048 ∧
    releaseAt fmt8k 21313 0 12953 0 = 75024 := by decide +kernel

/-- `PAGE_ID` of CH page 6 (R43), and the address of the scope's example on a part of two dies (R4). -/
theorem test_page_id : readReg full .host (ploc (pkey 0 0x206) 0) 4 = 0x00300601 ∧
    readReg { State.reset with variant := .vl820 } .host 0x06123048 4 = 0 := by decide

/-- The balls of ETH19 on a VL-880 and of ETH5 on a VL-840, and the ground beside it (R501–R505). -/
theorem test_balls :
    rowName 23 = ['A', 'D'] ∧ rowName 69 = ['C', 'M'] ∧ rowName 54 = ['B', 'U'] ∧ rowName 84 = ['D', 'H'] ∧
    ballAt .vl880 23 84 = .signal (.eth 19 false false) ∧ ballAt .vl880 24 84 = .signal (.eth 19 false true) ∧
    ballAt .vl880 23 82 = .signal (.eth 19 true false) ∧ ballAt .vl880 24 82 = .signal (.eth 19 true true) ∧
    ballAt .vl840 69 23 = .signal (.eth 5 false false) ∧ ballAt .vl840 67 24 = .signal (.eth 5 true true) ∧
    ballAt .vl840 69 22 = .vss ∧ ballAt .vl840 69 25 = .vss := by decide

/-! ## One step of a command -/

/-- The state a command answers, where it answers one. -/
def after (c : Instr) (s : State) : Option State :=
  match exec c s with
  | .next t => some t
  | _ => none

theorem test_absent_write : exec (.registerWrite .host 0x06123048 4 0xFFFFFFFF) { State.reset with variant := .vl820 } =
    .next { State.reset with variant := .vl820 } := rfl

/-- The claim of the interrupt chapter's example: source 1,030 at priority 4 for target 32. -/
theorem test_claim :
    (after (.icClaim 32 []) { full with ic := { srcs := [(1030, { pend := true, en := true, target := 32, prio := 4 })] } }).map
      (fun t => (t.out.head?, (src t 1030).svc)) = some (some (.read 0x80040406), some (32, 4)) := by decide

/-- The routing entry of the same example. -/
theorem test_routing : (after (.routingWrite 1030 0x00102004) full).map (fun t => ((src t 1030).target, (src t 1030).prio, (src t 1030).fallback)) =
    some (32, 4, 8) := by decide

/-- The eye scan of the lanes' example: lane 9, dwell 20, middle eye. -/
theorem test_eye : (after (.eyeScanStart 2 1 0x00140101) full).map (fun t => ((lane t 9).busy, (lane t 9).dwell, (lane t 9).scanEye)) =
    some (true, 20, 1) := by decide

/-- The flash command of the update's example: TRIES 2, 6,291,968 bytes from 14 GiB. -/
theorem test_write_staged : (after (.fwWriteStaged 0x5F3A2001) { full with fw := { src := 0x00380000, len := 0x00600200 } }).map
    (fun t => (t.fw.op, t.fw.opTries, t.fw.state)) = some (1, 2, 1) := by decide +kernel

/-- The debts of the repayment of R304's example, after the crossing and after each of the three commands that fall due. -/
theorem test_debt_flush :
    let s := (after (.thermalAlert 0 (1 :: List.replicate 15 0)) { full with mcs := [(0, { panic := [0], mchs := [(0, { debt := 6 })] })] }).getD full
    let due := fun s => (after (.refreshDue 0 0) s).getD full
    let debt := fun s => (mch (mc s 0) 0).debt
    (mch (mc s 0) 0).rate = 1 ∧ debt s = 5 ∧ debt (due s) = 4 ∧ debt (due (due s)) = 2 ∧ debt (due (due (due s))) = 0 := by decide +kernel

/-- An aperture write is read back, least address first (R465). -/
theorem test_aperture :
    (after (.apertureWrite 2 [some 0x11, none, some 0x33] .clean) aperState).map
      (fun t => (after (.apertureRead 2 3 .clean) t).map (fun u => u.out.head?)) = some (some (some (.readBytes [0x11, 0, 0x33]))) := by decide +kernel

/-- A ninth page bit: an event on a set bit is counted (R47). -/
theorem test_stat_again :
    ((after (.statSet 7 0x101 0x101) full).map (fun t => (page t (pkey 7 0x101)).stat)) = some 0x101 := by decide

/-- A supply fall empties the part, and the fuses stay (R75, R92). -/
theorem test_supply_fall : (after .supplyFall { full with pwr := { full.pwr with fuses := 2 } }).map (fun t => (t.pwr.supplied, t.pwr.fuses, t.pwr.domUp)) =
    some (false, 2, []) := by decide

/-- A STOP of flows 0 to 4,095 stops flow 9. -/
theorem test_stop : (after (.flowStopSet 0 0 0x200) full).map (fun t => t.stops) = some [9] := by decide

end Sys2Proof.Tests
end

section
/-! Accesses to a page that the part does not have (R4, R38): a read gives zero, and a write or a command does nothing. -/

namespace Sys2Proof.Laws

open Sys2Proof Sys2Proof.Machine

theorem keyDie_pkey (d p : Nat) (hp : p < 8192) : keyDie (pkey d p) = d := by
  unfold keyDie pkey
  omega

/-- A die beyond the variant's last has no page (R4). -/
theorem pageExists_of_absentDie (s : State) (d p : Nat) (hd : dies s ≤ d) (hp : p < 8192) : pageExists s (pkey d p) = false := by
  simp [pageExists, keyDie_pkey d p hp, Nat.not_lt.mpr hd]

section
variable {k off : Nat} (hoff : off < 4096)
include hoff

theorem ploc_div : ploc k off / 4096 = k := by
  unfold ploc
  omega

/-- The location of a register of one of the 2^16 pages lies in BAR0. -/
theorem ploc_lt_bar0 (hk : k < 2 ^ 16) : ploc k off < 2 ^ 28 := by
  unfold ploc
  omega

end

section
variable {s : State} {k off : Nat} (hk : pageExists s k = false)
include hk

theorem readPage_of_missing (req : Requester) : readPage s req k off = 0 := by
  simp [readPage, hk]

theorem writePage_of_missing (v : Word) : writePage k off v s = s := by
  simp [writePage, hk]

theorem stagePage_of_missing (v : Word) : stagePage k off v s = s := by
  simp [stagePage, Machine.pageOk, hk]

variable (hoff : off < 4096) (hb : k < 2 ^ 16)
include hoff hb

theorem readReg_of_missing (req : Requester) (size : Nat) : readReg s req (ploc k off) size = 0 := by
  simp only [readReg, if_pos (ploc_lt_bar0 hoff hb), ploc_div hoff, readPage_of_missing hk, ite_self]

theorem writeReg_of_missing (size : Nat) (v : BitVec 64) : writeReg (ploc k off) size v s = s := by
  simp only [writeReg, if_pos (ploc_lt_bar0 hoff hb), ploc_div hoff, writePage_of_missing hk, ite_self]

end

theorem whenUp_eq_self {s : State} {f : State → State} (h : f s = s) : whenUp s f = s := by
  unfold whenUp
  split
  · rfl
  · exact h

theorem guard_eq_self {c : Bool} {s : State} {f : State → State} (h : f s = s) : guard' c f s = s := by
  unfold guard'
  split
  · exact h
  · rfl

section
variable {s : State}

theorem execRegisterWrite_of_missing {k off : Nat} (hk : pageExists s k = false) (hoff : off < 4096) (hb : k < 2 ^ 16)
    (req : Requester) (size : Nat) (v : BitVec 64) : exec (.registerWrite req (ploc k off) size v) s = .next s :=
  congrArg _ (whenUp_eq_self (guard_eq_self (writeReg_of_missing hk hoff hb size v)))

theorem execStageWrite_of_missing {k off : Nat} (hk : pageExists s k = false) (hoff : off < 4096)
    (req : Requester) (size : Nat) (v : BitVec 64) : exec (.stageWrite req false (ploc k off) size v) s = .next s := by
  refine congrArg _ (whenUp_eq_self (guard_eq_self (guard_eq_self ?_)))
  rw [ploc_div hoff]
  exact stagePage_of_missing hk _

/-- A command on the header of a page that does not exist does nothing. -/
theorem onPage_of_missing {d p : Nat} (hk : pageExists s (pkey d p) = false) (f : Nat → State → State) : onPage d p f s = .next s := by
  refine congrArg _ (whenUp_eq_self ?_)
  simp [guard', hk]

end

/-- Settles O8: a die beyond the variant's last has no page, and every access to a page that does not exist is discarded. -/
theorem absentDieReadsZeroAndDiscards : Obligations.AbsentDieReadsZeroAndDiscards := by
  unfold Obligations.AbsentDieReadsZeroAndDiscards
  intro s d p hd hp
  have hk := pageExists_of_absentDie s d p hd hp
  have onMissing : ∀ f : Nat → State → State, onPage d p f s = .next s := onPage_of_missing hk
  refine ⟨fun req off size hoff hb => readReg_of_missing hk hoff hb req size, fun req off size v hoff hb => ?_, fun v w b => ?_,
    fun req n => onMissing (fun k => guard' (decide (n < 128) && decoded req s) (counterRead req k n))⟩
  · exact ⟨execRegisterWrite_of_missing hk hoff hb req size v, execStageWrite_of_missing hk hoff req size v⟩
  · exact ⟨onMissing (fun k => commitWrite k v), onMissing (fun k => clearStat k v (w &&& statMask k)),
      onMissing (fun k => raise k (v &&& statMask k)), onMissing (fun k => writeAgain k v b),
      onMissing (fun k => setImask k v true), onMissing (fun k => imaskSetOp k v), onMissing (fun k => imaskClrOp k v)⟩

end Sys2Proof.Laws
end

section
/-! Every command answers a next state (R4, R38). -/

namespace Sys2Proof.Laws

open Sys2Proof Sys2Proof.Machine

/-- The outcome is a next state. -/
def Completes (o : Host.Outcome State Fault Refusal) : Prop := ∃ t, o = .next t

theorem completes_next (t : State) : Completes (.next t) := ⟨t, rfl⟩

theorem completes_ite {c : Prop} [Decidable c] {a b : Host.Outcome State Fault Refusal} (ha : Completes a) (hb : Completes b) :
    Completes (if c then a else b) := by
  split
  · exact ha
  · exact hb

theorem completes_choice (c : Prop) [Decidable c] (a b : State) : Completes (if c then .next a else .next b) :=
  completes_ite (completes_next a) (completes_next b)

section
variable (d n : Nat) (s : State) (k : State → State)

theorem completes_atDie : Completes (atDie d s k) := completes_choice ..

theorem completes_atChannel : Completes (atChannel n s k) := completes_choice ..

theorem completes_atFlow : Completes (atFlow n s k) := completes_choice ..

theorem completes_atTdm : Completes (atTdm n s k) := completes_choice ..

theorem completes_atEth : Completes (atEth n s k) := completes_choice ..

theorem completes_atLane : Completes (atLane n s k) := completes_choice ..

theorem completes_atFrame (f : Frame) : Completes (atFrame f s k) := completes_choice ..

theorem completes_atYk : Completes (atYk n s k) := completes_ite (completes_atLane ..) (completes_next _)

theorem completes_atSlot : Completes (atSlot d n s k) := completes_ite (completes_atDie ..) (completes_next _)

theorem completes_atDec : Completes (atDec d n s k) := completes_ite (completes_atDie ..) (completes_next _)

end

/-- Settles O56, by the shape of each command's meaning: one that names no unit answers outright; one that names a unit answers
whether the variant has the unit or not. -/
theorem everyCommandCompletes : Obligations.EveryCommandCompletes := by
  unfold Obligations.EveryCommandCompletes
  intro i s
  show Completes (exec i s)
  cases i with
  | supplyRise | supplyFall | pcieLinkReset | warmResetRequest | coldResetRequest | firmwareBoot | lcArm | lcGo
  | lcArmTimeout | registerWrite | stageWrite | commitTableWrite | commit | commitCheckStart | commitCheckEnd | statClear
  | statSet | statAgainClear | imaskWrite | imaskSet | imaskClr | counterLowRead | timeSnapRead | barnMarkRead
  | yokeSinceRead | packageFurrowBoundary | referenceEligible | ptpLock | ref10mStop | ppsStop | ptpLost | refGlitch
  | refRefused | crystalStop | holdoverUpdate | apertureRead | apertureWrite | hostAperWrite | sapAnnounce | flowStopSet
  | flowStopClr | flowQuenchSet | flowQuenchClr | helloReceived | beatReceived | heartbeatPulse | heartbeatMissed | helloSend
  | beatSend | pairingTimeout | pairRetry | voteFrame | decidePass | decideFail | decideCatchup | voteTimeout | decideTimeout
  | yieldFrame | yokeYield | yokeResync | takeover | doorbellFrame | ackFrame | reliableRetry | ackTimer | icMessageArrival
  | icDoorbell | icPendClr | icEnSet | icEnClr | icMaskSet | icMaskClr | icRemote | icClaim | icComplete | routingWrite
  | wakeTimeout | phyTxeqWrite | phyReadapt | eyeScanStart | eyeScanAbort | eyeCellDone | bootLoadStart | bootWaitEnd
  | hostBootHoldRelease | hostBootAbort | nmosHeartbeat | is05Patch | is05Activation | fwWriteStaged | fwWriteSettings
  | fwEraseStaged | fwEraseSettings | fwConfirm | fwCommandEnd | tackWrite | tackErase | tackAttest | tackCommandEnd
  | packagePagesReady | pcieLinkUp | pcieConfigWrite | referenceEdge =>
    exact completes_next _
  | domainHoldWrite | dieWakeRequest | pathDown | igmpReport | packetRelease | delayReqSend | dieSleepRequest =>
    exact completes_choice ..
  | resetRelease =>
    exact completes_ite (completes_next _) (completes_choice ..)
  | perstAssert | perstRelease =>
    exact completes_ite (completes_next _) (completes_ite (completes_next _) (completes_choice ..))
  | ctrlStoreZeroised | dramTrainingDone | granuleWiped | sramZeroised | domainPowerUpDone | domainPowerGoodTimeout
  | domainPowerDown | dieAsleep | wakeDomainsUp | wakeDramReady | wakeInterruptRestore | wakeSramZeroised
  | wakeFirmwareStarted | queueReevaluate | itemEnd | trackingWindowEnd | dspWindowEnd | mr4PeriodicRead | thermalAlert
  | patrolPass | dieFault =>
    exact completes_atDie ..
  | itemCreate | itemDispatch | engineFault | refreshDue | panicEntry | panicExit | portRun =>
    exact completes_ite (completes_atDie ..) (completes_next _)
  | pictureBoundary | fenceRead | composeStart | canvasPoint | plantingInstant | ctuCoded | codedPoint | deadlinePoint
  | stateFrame | verdictFrame | copyBulk | copyRow | copyMirror | bulkCopyDone | resyncRequest | resyncCheckpointTaken
  | resyncCopyDone | resyncAbort | mirrorCopy =>
    exact completes_atChannel ..
  | laneCalibrated | signalDetect | signalLoss | adaptationConverged | trainingComplete | trainingTimeout | trainingRetry
  | lockLoss | fecBlockEnd =>
    exact completes_atLane ..
  | ykIdleEntry | ykIdleExit | ykIdleRefresh | ykExitLate =>
    exact completes_atYk ..
  | frameReceived | cmdStop | cmdStart | cmdQuench | cmdUnquench =>
    exact completes_atFrame ..
  | lineFill | fillEnd | compressedGapLost =>
    exact completes_atSlot ..
  | accessUnitCutoff | decodedSlicePoint | dueTime =>
    exact completes_atDec ..
  | portTransmit | gateEntry | listStart =>
    exact completes_atEth ..
  | sampleReady =>
    exact completes_atFlow ..
  | tdmFrame | tdmClockStop | tdmFaultClear | tdmClockReturn =>
    exact completes_atTdm ..
  | zcTimeout | nonAudioClear =>
    exact completes_ite (completes_atTdm ..) (completes_atFlow ..)
  | audioPacketRelease =>
    exact completes_ite (completes_next _) (completes_atFlow ..)

end Sys2Proof.Laws
end

section
/-! The life-cycle fuses (R92): no command but `LC_GO` and a write of its register blows one, and these one at most. -/

namespace Sys2Proof.Laws

open Sys2Proof Sys2Proof.Machine

/-- The blown fuses, among what `steady` keeps: what leaves `steady` alone leaves these alone. -/
def fusesOf (a : Variant × List Instr × Nat × List Host.Cell × Tbl Word × Tbl Word) : Nat := a.2.2.1

/-- Memory, the commit table and the words in effect hold no fuse. -/
theorem fuses_mk (v : Variant) (l : List Instr) (s : State) (m : List Host.Cell) (c e : Tbl Word) :
    fusesOf (v, l, s.pwr.fuses, m, c, e) = fusesOf (steady s) := rfl

theorem fuses_ite (c : Prop) [Decidable c] (a b : Variant × List Instr × Nat × List Host.Cell × Tbl Word × Tbl Word) :
    fusesOf (if c then a else b) = if c then fusesOf a else fusesOf b := apply_ite ..

theorem fuses_foldl {α : Type} (f : State → α → State) (l : List α) (s : State)
    (h : ∀ s a, fusesOf (steady (f s a)) = fusesOf (steady s)) : fusesOf (steady (l.foldl f s)) = fusesOf (steady s) := by
  induction l generalizing s with
  | nil => rfl
  | cons a l ih => rw [List.foldl_cons, ih, h]

/-! ## Memory -/

theorem fuses_dramSet (d a : Nat) (b : Byte) (s : State) : fusesOf (steady (dramSet d a b s)) = fusesOf (steady s) := rfl

theorem fuses_dramWrite (d a : Nat) (bs : List Byte) (s : State) : fusesOf (steady (dramWrite d a bs s)) = fusesOf (steady s) := by
  induction bs generalizing a s with
  | nil => rfl
  | cons b bs ih => exact (ih (a + 1) (dramSet d a b s)).trans (fuses_dramSet d a b s)

theorem fuses_storeWord (d w : Nat) (whole : Bool) (e : EccEvent) (s : State) :
    fusesOf (steady (storeWord d w whole e s)) = fusesOf (steady s) := by
  simp only [storeWord, ↓steady_mk, ↓fuses_mk, ↓steady_countWrite, ↓steady_countRead, ↓steady_eccCorrect, steady_ite, ite_self]

theorem fuses_storeWords (d a n : Nat) (s : State) : fusesOf (steady (storeWords d a n s)) = fusesOf (steady s) :=
  fuses_foldl _ _ _ fun s w => fuses_storeWord d w _ .clean s

theorem fuses_dramStore (d a : Nat) (bs : List Byte) (s : State) : fusesOf (steady (dramStore d a bs s)) = fusesOf (steady s) :=
  (fuses_storeWords ..).trans (fuses_dramWrite ..)

theorem fuses_dramWrite32 (d a v : Nat) (s : State) : fusesOf (steady (dramWrite32 d a v s)) = fusesOf (steady s) := fuses_dramStore ..

theorem fuses_dramCopy (d a e b n : Nat) (s : State) : fusesOf (steady (dramCopy d a e b n s)) = fusesOf (steady s) :=
  (fuses_storeWords ..).trans (fuses_mk ..)

theorem fuses_writeReleased (d g v : Nat) (s : State) : fusesOf (steady (writeReleased d g v s)) = fusesOf (steady s) := by
  rw [writeReleased, steady_modGroup, fuses_dramWrite32]

theorem fuses_fenceGroup (ch n : Nat) (t : Tbl Word) (s : State) (g : Nat) :
    fusesOf (steady (fenceGroup ch n t s g)) = fusesOf (steady s) := by
  simp only [fenceGroup, ↓steady_modPic, ↓steady_modGroup, ↓steady_bump, ↓steady_raiseBit, ↓steady_markStale, ↓fuses_writeReleased,
    ↓fuses_dramWrite32, steady_ite, fuses_ite, steady_foldl, implies_true, ite_self]

/-! ## Composition and coding -/

theorem fuses_fenceReadOp (ch : Nat) (s : State) : fusesOf (steady (fenceReadOp ch s)) = fusesOf (steady s) := by
  unfold fenceReadOp
  split
  · rfl
  · simp only [↓steady_ite, ↓fuses_ite, ↓fuses_foldl, ↓fuses_fenceGroup, steady_modPic, implies_true, ite_self]

theorem fuses_fencesTakeEffect (old : Nat → Word) (s : State) : fusesOf (steady (fencesTakeEffect old s)) = fusesOf (steady s) := by
  simp only [fencesTakeEffect, ↓steady_ite, ↓fuses_ite, ↓fuses_foldl, ↓fuses_dramWrite32, implies_true, ite_self]

theorem fuses_composeFurrow (ch : Nat) (p : Pic) (k : Nat) (left : List (Nat × Nat × Nat × Nat)) (s : State) :
    fusesOf (steady (composeFurrow ch p k left s)) = fusesOf (steady s) :=
  fuses_foldl _ _ _ fun _ _ => fuses_dramStore ..

theorem fuses_releaseFences (ch n : Nat) (s : State) : fusesOf (steady (releaseFences ch n s)) = fusesOf (steady s) := by
  refine fuses_foldl _ _ _ fun s g => ?_
  dsimp only
  split
  · rfl
  · rw [fuses_writeReleased, steady_modGroup]

theorem fuses_canvasPointOp (ch k : Nat) (left : List (Nat × Nat × Nat × Nat)) (s : State) :
    fusesOf (steady (canvasPointOp ch k left s)) = fusesOf (steady s) := by
  unfold canvasPointOp
  split
  · rfl
  · simp only [↓steady_ite, ↓fuses_ite, ↓steady_unpinDecoded, ↓fuses_releaseFences, ↓steady_modFur, ↓steady_foldl, ↓steady_markStale,
      ↓steady_bump, ↓steady_raiseBit, ↓fuses_composeFurrow, ↓steady_advance, implies_true, ite_self]

theorem fuses_writePlane (d a : Nat) (f : Fmt) (samp k y0 y1 : Nat) (px : Nat → Nat → Nat) (s : State) :
    fusesOf (steady (writePlane d a f samp k y0 y1 px s)) = fusesOf (steady s) :=
  fuses_foldl _ _ _ fun _ _ => fuses_dramStore ..

theorem fuses_writeFurrow (ch n k : Nat) (s : State) : fusesOf (steady (writeFurrow ch n k s)) = fusesOf (steady s) := by
  unfold writeFurrow
  split
  · rfl
  · split
    · rfl
    · rw [steady_modFur, fuses_foldl, fuses_foldl]
      · exact fun _ _ => fuses_writePlane ..
      · intro s x
        split
        · rfl
        · exact fuses_dramStore ..

theorem fuses_codedOp (ch k : Nat) (s : State) : fusesOf (steady (codedOp ch k s)) = fusesOf (steady s) := by
  unfold codedOp
  split
  · rfl
  · simp only [fallowWrites, ↓steady_ite, ↓fuses_ite, ↓steady_pictureEnd, ↓steady_bump, ↓steady_raiseBit, ↓steady_modFur,
      ↓steady_leaveCache, ↓fuses_writeFurrow, ↓steady_countLog, ite_self]

theorem fuses_endItem (d slot : Nat) (s : State) : fusesOf (steady (endItem d slot s).2) = fusesOf (steady s) := by
  unfold endItem
  split
  · rfl
  · simp only [↓steady_wakeDie, ↓steady_modDsp, ↓steady_countWait, ↓steady_ite, ↓fuses_ite, ↓fuses_writeFurrow, ↓steady_bump, ite_self]

/-! ## The aperture -/

theorem fuses_aperWriteWord (d w : Nat) (l : List (Nat × Byte)) (e : EccEvent) (s : State) :
    fusesOf (steady (aperWriteWord d w l e s)) = fusesOf (steady s) := by
  unfold aperWriteWord
  split
  · rfl
  · exact (fuses_storeWord ..).trans (fuses_foldl _ _ _ fun _ _ => fuses_dramSet ..)

theorem fuses_aperWriteWords (d a : Nat) (bs : List (Option Byte)) (ws : List Nat) (e : EccEvent) (s : State) :
    fusesOf (steady (aperWriteWords d a bs ws e s)) = fusesOf (steady s) := by
  induction ws generalizing e s with
  | nil => rfl
  | cons w ws ih => rw [aperWriteWords, ih, fuses_aperWriteWord]

theorem fuses_aperWrite (x : Nat) (bs : List (Option Byte)) (e : EccEvent) (s : State) :
    fusesOf (steady (aperWrite x bs e s)) = fusesOf (steady s) := by
  simp only [aperWrite, steady_bump, fuses_aperWriteWords, steady_wipeAccess]

/-! ## The commit table and the words in effect -/

theorem fuses_writeEntry (q w : Nat) (v : Word) (s : State) : fusesOf (steady (writeEntry q w v s)) = fusesOf (steady s) := by
  simp only [writeEntry, ↓steady_ite, ↓fuses_ite, ↓steady_bump, ↓steady_raiseBit, ↓steady_mk, ↓fuses_mk, ite_self]

theorem fuses_takeOwner (q : Nat) (o : Option Nat) (s : State) : fusesOf (steady (takeOwner q o s)) = fusesOf (steady s) := by
  cases o <;> simp only [takeOwner, ↓steady_ite, ↓steady_modChan, ↓steady_mk, ↓fuses_mk, ite_self]

theorem fuses_settleSet (q : Nat) (s : State) : fusesOf (steady (settleSet q s)) = fusesOf (steady s) := by
  simp only [settleSet, ↓steady_ite, ↓fuses_ite, ↓steady_raiseReport, ↓steady_modSet, ↓steady_mk, ↓fuses_mk, ite_self]

theorem fuses_takeWaits (pick : Option Nat → Bool) (s : State) : fusesOf (steady (takeWaits pick s)) = fusesOf (steady s) := by
  simp only [takeWaits, ↓fuses_foldl, fuses_settleSet, fuses_takeOwner, implies_true]

theorem fuses_takePackage (s : State) : fusesOf (steady (takePackage s)) = fusesOf (steady s) := fuses_takeWaits ..

theorem fuses_takeChannel (ch : Nat) (s : State) : fusesOf (steady (takeChannel ch s)) = fusesOf (steady s) := fuses_takeWaits ..

theorem fuses_bootWaitOp (s : State) : fusesOf (steady (bootWaitOp s)) = fusesOf (steady s) := by
  unfold bootWaitOp
  split
  · rfl
  · simp only [↓steady_ite, ↓fuses_ite, ↓steady_firmwareCommit, ↓steady_stageRecord, ↓fuses_foldl, fuses_writeEntry, ↓steady_mk,
      ↓steady_eta, implies_true, ite_self]

/-! ## Copies, mirrors and lost channels -/

theorem fuses_copyInOp (ch stall off : Nat) (b : List Byte) (s : State) : fusesOf (steady (copyInOp ch stall off b s)) = fusesOf (steady s) := by
  simp only [copyInOp, ↓steady_ite, ↓fuses_ite, ↓fuses_dramStore, ite_self]

theorem fuses_bulkInOp (ch stall off : Nat) (b : List Byte) (s : State) : fusesOf (steady (bulkInOp ch stall off b s)) = fusesOf (steady s) := by
  simp only [bulkInOp, ↓steady_ite, ↓steady_mk, ↓steady_eta, ↓fuses_copyInOp, ite_self]

theorem fuses_mirrorStalls (ch : Nat) (l : List Nat) (s : State) : fusesOf (steady (l.foldl (mirrorStall ch) s)) = fusesOf (steady s) :=
  fuses_foldl _ _ _ fun _ _ => fuses_dramCopy ..

theorem fuses_mirrorOp (ch : Nat) (s : State) : fusesOf (steady (mirrorOp ch s)) = fusesOf (steady s) := by
  simp only [mirrorOp, ↓steady_ite, ↓fuses_ite, ↓steady_modChan, ↓steady_releaseCkpt, ↓fuses_mirrorStalls, ite_self]

theorem fuses_copyMirrorOp (ch stall off : Nat) (b : List Byte) (s : State) :
    fusesOf (steady (copyMirrorOp ch stall off b s)) = fusesOf (steady s) := by
  simp only [copyMirrorOp, ↓steady_ite, ↓fuses_ite, ↓steady_bump, ↓fuses_dramStore, ite_self]

theorem fuses_reseat (ch : Nat) (s : State) : fusesOf (steady (reseat ch s)) = fusesOf (steady s) := by
  simp only [reseat, ↓steady_noteEngineLost, ↓steady_settle, ↓steady_bump, ↓steady_raiseBit, ↓steady_ite, ↓steady_diverge, ite_self]
  split <;> simp only [↓steady_raiseBit, ↓steady_modChan, ↓steady_mk, ↓fuses_mk, ↓steady_foldl, ↓steady_modSvc, ↓steady_dropPics,
    ↓steady_dropItems, implies_true]

theorem fuses_reseatOrFault (ch : Nat) (s : State) : fusesOf (steady (reseatOrFault ch s)) = fusesOf (steady s) := by
  simp only [reseatOrFault, ↓steady_ite, ↓fuses_ite, ↓fuses_reseat, ↓steady_abortOf, ↓steady_raiseBit, ↓steady_faultCh, ite_self]

theorem fuses_loseChans (chs : List Nat) (s : State) : fusesOf (steady (loseChans chs s)) = fusesOf (steady s) := by
  simp only [loseChans, ↓steady_ite, ↓fuses_ite, ↓steady_foldl, ↓fuses_foldl, fuses_reseatOrFault, steady_faultCh, steady_toFaulted,
    steady_yieldFor, implies_true, ite_self]

theorem fuses_dieFaultOp (d : Nat) (s : State) : fusesOf (steady (dieFaultOp d s)) = fusesOf (steady s) := by
  simp only [dieFaultOp, ↓steady_ite, ↓steady_setFault, ↓fuses_loseChans, ↓steady_noteEngineLost, ↓steady_setFaults, ite_self]

/-- An operation that reads memory blows no fuse unless the operation itself does: bad words make a die's fault of it (R296). -/
theorem fuses_reading (ls : List MemRange) (op : State → State) (s : State)
    (h : ∀ s, fusesOf (steady (op s)) = fusesOf (steady s)) : fusesOf (steady (reading ls op s)) = fusesOf (steady s) := by
  simp only [reading, ↓steady_ite, ↓fuses_ite, ↓h, ↓fuses_foldl, fuses_dieFaultOp, steady_eccBad, steady_correctIn,
    implies_true, ite_self]

theorem fuses_dieFaultFor (d : Nat) (cause : Option (Nat × Nat)) (s : State) :
    fusesOf (steady (dieFaultFor d cause s)) = fusesOf (steady s) := by
  cases cause <;> simp only [dieFaultFor, fuses_dieFaultOp, steady_leaveBad, steady_eccBad]

/-! ## Frames of the partner -/

theorem fuses_deliverFrame (i : Instr) (s : State) : fusesOf (steady (deliverFrame i s)) = fusesOf (steady s) := by
  unfold deliverFrame
  split <;> simp only [steady_theirRecord, steady_verdictOp, steady_voteOp, steady_decideOp, fuses_bulkInOp, fuses_copyInOp,
    steady_resyncRequestOp, steady_checkpointTakenOp, steady_copyDoneOp, steady_ite, steady_abortResync, steady_yieldFrameOp,
    steady_icRemoteIn, ite_self]

theorem fuses_drainEarly (n : Nat) (s : State) : fusesOf (steady (drainEarly n s)) = fusesOf (steady s) := by
  induction n generalizing s with
  | zero => rfl
  | succ n ih =>
    rw [drainEarly]
    split
    · rfl
    · exact (ih _).trans (fuses_deliverFrame ..)

theorem fuses_rxRel (h : YHdr) (i : Instr) (s : State) : fusesOf (steady (rxRel h i s)) = fusesOf (steady s) := by
  simp only [rxRel, rxFrame, ↓steady_ite, ↓fuses_ite, ↓steady_bump, ↓fuses_drainEarly, ↓fuses_deliverFrame, ↓steady_mk, ↓steady_eta,
    ↓steady_ackUpTo, ite_self]

/-! ## Boundaries and the points of a furrow -/

theorem fuses_armStep (s : State) (ch : Nat) : fusesOf (steady (armStep s ch)) = fusesOf (steady s) := by
  unfold armStep
  split <;> simp only [↓steady_ite, ↓fuses_ite, ↓fuses_loseChans, ↓steady_toChState, ↓steady_modChan, ↓steady_modYch, ↓steady_settle,
    ite_self]

theorem fuses_wordsTakeEffect (s1 s : State) : fusesOf (steady (wordsTakeEffect s1 s)) = fusesOf (steady s) := by
  simp only [wordsTakeEffect, ↓steady_resourcesTakeEffect, ↓steady_sdpTakeEffect, ↓fuses_foldl, fuses_armStep, steady_reseatsTakeEffect,
    steady_pairTakesEffect, steady_settleDual, steady_refsTakeEffect, steady_decsSettle, fuses_fencesTakeEffect, steady_tdmsTakeEffect,
    steady_audioFlowsAtBoundary, steady_idleFlows, steady_aflowsTakeEffect, steady_listsTakeEffect, steady_shapersTakeEffect,
    steady_quantaTakeEffect, steady_svcsLapse, steady_lanesTakeEffect, steady_slotsTakeEffect, steady_entriesTakeEffect, implies_true]

theorem fuses_packageOp (s : State) : fusesOf (steady (packageOp s)) = fusesOf (steady s) := by
  simp only [packageOp, ↓steady_wakeItems, ↓steady_audioStepped, ↓steady_applyStep, ↓steady_foldl, ↓steady_drainMgmt, ↓steady_mk,
    ↓steady_eta, steady_trackAtBoundary, fuses_wordsTakeEffect, fuses_takePackage, steady_advance, implies_true]

theorem fuses_runBoundary (ch n : Nat) (s : State) : fusesOf (steady (runBoundary ch n s)) = fusesOf (steady s) := by
  simp only [runBoundary, ↓steady_ite, ↓fuses_ite, ↓steady_settle, ↓steady_modChan, ↓steady_toChState, ↓steady_abortOf, ↓fuses_loseChans,
    ↓steady_resyncBoundary, ↓steady_beginPicture, ↓steady_joinBoundary, ↓steady_chFlows, ↓fuses_takeChannel, ↓steady_realigned, ite_self]

theorem fuses_drainBoundary (ch n : Nat) (s : State) : fusesOf (steady (drainBoundary ch n s)) = fusesOf (steady s) := by
  rw [drainBoundary, steady_settle, steady_modChan, steady_chFlows, fuses_takeChannel, steady_realigned]

theorem fuses_boundaryOp (ch : Nat) (s : State) : fusesOf (steady (boundaryOp ch s)) = fusesOf (steady s) := by
  unfold boundaryOp
  split <;> simp only [steady_wakeItems, steady_startChannel, fuses_runBoundary, fuses_drainBoundary, steady_advance]

theorem fuses_itemEnds (d slot t : Nat) (s : State) : fusesOf (steady (itemEnds d slot t s)) = fusesOf (steady s) := by
  unfold itemEnds
  dsimp only
  split <;> simp only [steady_wakeItems, steady_ite, steady_settle, steady_packAll, fuses_endItem, steady_advance, ite_self]

theorem fuses_codedPoint (ch k : Nat) (s : State) : fusesOf (steady (codedPoint ch k s)) = fusesOf (steady s) := by
  unfold codedPoint
  split
  · rfl
  · split
    · refine fuses_reading _ _ _ fun s => ?_
      simp only [↓steady_wakeItems, ↓steady_foldl, ↓steady_ite, ↓steady_streamRows, steady_recordPicture, fuses_codedOp, implies_true,
        ite_self]
    · rfl

theorem fuses_codeNext (ch k : Nat) (s : State) : fusesOf (steady (codeNext ch k s)) = fusesOf (steady s) := by
  unfold codeNext
  split
  · rfl
  · simp only [↓steady_ite, ↓fuses_ite, ↓steady_wakeItems, ↓fuses_reading, steady_ctuOp, implies_true, ite_self]

theorem fuses_deadlinePoint (ch k finished : Nat) (s : State) : fusesOf (steady (deadlinePoint ch k finished s)) = fusesOf (steady s) := by
  unfold deadlinePoint
  split
  · rfl
  · refine fuses_reading _ _ _ fun s => ?_
    dsimp only
    split <;> simp only [↓steady_ite, ↓steady_wakeItems, ↓steady_withdrawFurrow, ↓steady_deadlineOp, ite_self]

theorem fuses_engineFails (d e : Nat) (s : State) : fusesOf (steady (engineFails d e s)) = fusesOf (steady s) := by
  rw [engineFails, steady_wakeItems, fuses_loseChans, steady_noteEngineLost, steady_engineItems, steady_bump, steady_setFault]

/-! ## Commands that blow no fuse -/

/-- A next state has the fuses of the state before. -/
def BlowsNone (s : State) (o : Host.Outcome State Fault Refusal) : Prop := ∀ t, o = .next t → fusesOf (steady t) = fusesOf (steady s)

theorem blowsNone_next {s t : State} (h : fusesOf (steady t) = fusesOf (steady s)) : BlowsNone s (.next t) := by
  intro u hu
  cases hu
  exact h

theorem blowsNone_ite {s : State} {c : Prop} [Decidable c] {a b : Host.Outcome State Fault Refusal} (ha : BlowsNone s a)
    (hb : BlowsNone s b) : BlowsNone s (if c then a else b) := by
  split
  · exact ha
  · exact hb

section
variable {s : State} {k : State → State} (h : ∀ s, fusesOf (steady (k s)) = fusesOf (steady s))
include h

theorem fuses_whenUp : fusesOf (steady (whenUp s k)) = fusesOf (steady s) := by
  simp only [whenUp, steady_ite, fuses_ite, h, ite_self]

theorem fuses_guard (c : Bool) : fusesOf (steady (guard' c k s)) = fusesOf (steady s) := by
  simp only [guard', steady_ite, fuses_ite, h, ite_self]

theorem blowsNone_whenUp : BlowsNone s (.next (whenUp s k)) := blowsNone_next (fuses_whenUp h)

theorem blowsNone_whenUp_guard (c : Bool) : BlowsNone s (.next (whenUp s (guard' c k))) :=
  blowsNone_whenUp fun _ => fuses_guard h c

theorem blowsNone_atDie (d : Nat) : BlowsNone s (atDie d s k) := blowsNone_ite (blowsNone_whenUp h) (blowsNone_next rfl)

theorem blowsNone_atChannel (ch : Nat) : BlowsNone s (atChannel ch s k) := blowsNone_ite (blowsNone_whenUp h) (blowsNone_next rfl)

theorem blowsNone_atDec (d n : Nat) : BlowsNone s (atDec d n s k) :=
  blowsNone_ite (blowsNone_atDie (fun s => (congrArg fusesOf (steady_wakeItems _)).trans (h s)) d) (blowsNone_next rfl)

end

theorem blowsNone_relCh (ch : Nat) (h : YHdr) (i : Instr) (s : State) : BlowsNone s (relCh ch h i s) :=
  blowsNone_atChannel (fuses_rxRel h i) ch

theorem blowsNone_rel (h : YHdr) (i : Instr) (s : State) : BlowsNone s (rel h i s) := blowsNone_whenUp (fuses_rxRel h i)

theorem fuses_assertReset (cold : Bool) (c : Nat) (s : State) : fusesOf (steady (assertReset cold c s)) = fusesOf (steady s) := rfl

theorem blowsNone_execSupplyRise (s : State) : BlowsNone s (execSupplyRise s) := by
  refine blowsNone_next ?_
  split
  · rfl
  · rfl

theorem blowsNone_execPerstAssert (s : State) : BlowsNone s (execPerstAssert s) :=
  blowsNone_ite (blowsNone_next rfl) (blowsNone_ite (blowsNone_next rfl)
    (blowsNone_ite (blowsNone_next (congrArg fusesOf (steady_linkReset _))) (blowsNone_next rfl)))

theorem blowsNone_execDramTrainingDone (d failed : Nat) (s : State) : BlowsNone s (execDramTrainingDone d failed s) := by
  refine blowsNone_atDie (fun s => fuses_guard (fun s => ?_) _) d
  split
  · rfl
  · exact fuses_dieFaultOp d s

theorem blowsNone_execEngineFault (d e : Nat) (corrected : Bool) (s : State) : BlowsNone s (execEngineFault d e corrected s) := by
  refine blowsNone_ite (blowsNone_atDie (fun s => ?_) d) (blowsNone_next rfl)
  split
  · exact congrArg fusesOf (steady_engineCorrects d e s)
  · exact fuses_engineFails d e s

theorem blowsNone_execFwCommandEnd (flashErr : Bool) (s : State) : BlowsNone s (execFwCommandEnd flashErr s) := by
  refine blowsNone_whenUp fun s => ?_
  rw [steady_fwEnd]
  exact fuses_reading _ _ _ fun s => congrArg fusesOf (steady_countReads _ s)

theorem blowsNone_execCopyMirror (h : YHdr) (ch stall off : Nat) (b : List Byte) (s : State) :
    BlowsNone s (execCopyMirror h ch stall off b s) := by
  refine blowsNone_atChannel (fun s => ?_) ch
  split
  · exact fuses_copyMirrorOp ch stall off b s
  · exact congrArg fusesOf (steady_bump ..)

theorem blowsNone_execCanvasPoint (ch k : Nat) (left : List (Nat × Nat × Nat × Nat)) (s : State) :
    BlowsNone s (execCanvasPoint ch k left s) := by
  refine blowsNone_atChannel (fun s => ?_) ch
  rw [steady_wakeItems]
  exact fuses_reading _ _ _ (fuses_canvasPointOp ch k left)

/-! ## A write of the life-cycle register -/

/-- At most one fuse is blown. -/
def AtMostOne (s t : State) : Prop := fusesOf (steady t) ≤ fusesOf (steady s) + 1

theorem AtMostOne.of_eq {s t : State} (h : fusesOf (steady t) = fusesOf (steady s)) : AtMostOne s t := Nat.le_succ_of_le (Nat.le_of_eq h)

theorem AtMostOne.of_steady {s t : State} (h : steady t = steady s) : AtMostOne s t := .of_eq (congrArg fusesOf h)

theorem AtMostOne.ite {s a b : State} {c : Prop} [Decidable c] (ha : AtMostOne s a) (hb : AtMostOne s b) :
    AtMostOne s (if c then a else b) := by
  split
  · exact ha
  · exact hb

theorem AtMostOne.whenUp_guard {k : State → State} (c : Bool) {s : State} (h : AtMostOne s (k s)) :
    AtMostOne s (whenUp s (guard' c k)) := .ite (.of_eq rfl) (.ite h (.of_eq rfl))

/-- `LC_GO` blows its one fuse (R95) before the reset that follows it. -/
theorem atMostOne_lcGo (v : Word) (s : State) : AtMostOne s (via (execLcGo v) s) := by
  refine .whenUp_guard _ (.ite ?_ (.of_steady (steady_lcRefuse s)))
  dsimp only
  split
  · exact Nat.le_refl _
  · exact Nat.le_refl _

theorem AtMostOne.via {f : State → Host.Outcome State Fault Refusal} {s : State} (h : SteadyO s (f s)) : AtMostOne s (via f s) := by
  unfold Machine.via outState
  split
  · exact .of_steady (h _ (by assumption))
  · exact .of_eq rfl

theorem atMostOne_writePwr (off : Nat) (v : Word) (s : State) : AtMostOne s (writePwr off v s) := by
  have reset : ∀ (c : Bool) (n : Nat) (b : Bool), AtMostOne s (whenUp s (guard' b (assertReset c n))) := fun c n b =>
    .of_eq (fuses_whenUp fun _ => fuses_guard (fuses_assertReset c n) b)
  exact .ite (.of_eq rfl) (.ite (.ite (reset ..) (reset ..)) (.ite (.of_eq rfl)
    (.ite (.ite (.via (steady_execLcArm v s)) (atMostOne_lcGo v s)) (.ite (.of_steady (steady_writeSleep v s))
      (.ite (.via (steady_execDomainHoldWrite _ v s)) (.of_eq rfl))))))

theorem atMostOne_writeBlock (k off : Nat) (v : Word) (s : State) : AtMostOne s (writeBlock k off v s) := by
  by_cases hp : keyPage k = 4
  · simp only [writeBlock, hp]
    exact atMostOne_writePwr off v s
  · refine .of_steady ?_
    simp only [writeBlock, hp, if_false, steady_ite, steady_writeHost, steady_writeIc, steady_writeFw, steady_writeTack, steady_yokeCmd,
      steady_writeDie, steady_writeMc, steady_writeDsp, steady_setReg, steady_writeFlow, ite_self]

theorem atMostOne_writePage (k off : Nat) (v : Word) (s : State) : AtMostOne s (writePage k off v s) := by
  exact .ite (.of_eq rfl) (.ite (.of_steady (steady_writeHeader ..))
    (.ite (.ite (.of_steady (steady_stagePage ..)) (atMostOne_writeBlock ..)) (.of_eq rfl)))

theorem fuses_writeBar2 (o : Nat) (v : Word) (s : State) : fusesOf (steady (writeBar2 o v s)) = fusesOf (steady s) := by
  simp only [writeBar2, steady_ite, fuses_ite, fuses_writeEntry, steady_routeSource, steady_stageTable, ite_self]

theorem fuses_writeWords (k : Nat → Word → State → State) (o size : Nat) (v : BitVec 64) (s : State)
    (h : ∀ n w s, fusesOf (steady (k n w s)) = fusesOf (steady s)) : fusesOf (steady (writeWords k o size v s)) = fusesOf (steady s) := by
  simp only [writeWords, steady_ite, fuses_ite, h, ite_self]

theorem atMostOne_writeReg (a size : Nat) (v : BitVec 64) (s : State) : AtMostOne s (writeReg a size v s) := by
  exact .ite (.ite (atMostOne_writePage ..) (.of_eq rfl)) (.ite (.of_eq (fuses_writeWords _ _ _ _ _ fuses_writeBar2))
    (.of_steady (steady_writeWords _ _ _ _ _ steady_writeBar4)))

/-! ## Every command -/

/-- The commands that can write DRAM, the commit table or the words in effect, or blow a fuse. -/
def changesSteady : Instr → Bool
  | .supplyRise | .supplyFall | .perstAssert | .warmResetRequest .. | .coldResetRequest .. | .dramTrainingDone .. | .lcGo ..
  | .registerWrite .. | .commitTableWrite .. | .packageFurrowBoundary | .pictureBoundary .. | .fenceRead .. | .canvasPoint ..
  | .itemEnd .. | .ctuCoded .. | .codedPoint .. | .deadlinePoint .. | .engineFault .. | .accessUnitCutoff ..
  | .decodedSlicePoint .. | .apertureWrite .. | .stateFrame .. | .verdictFrame .. | .voteFrame .. | .decidePass ..
  | .decideFail .. | .decideCatchup .. | .copyBulk .. | .copyRow .. | .copyMirror .. | .bulkCopyDone .. | .resyncRequest ..
  | .resyncCheckpointTaken .. | .resyncCopyDone .. | .resyncAbort .. | .yieldFrame .. | .doorbellFrame .. | .dieFault ..
  | .mirrorCopy .. | .bootWaitEnd | .fwCommandEnd .. => true
  | _ => false

/-- Every other command leaves `steady` alone. -/
theorem steady_exec {c : Instr} (hc : changesSteady c = false) (s : State) : SteadyO s (exec c s) := by
  cases c with
  | supplyRise | supplyFall | perstAssert | warmResetRequest | coldResetRequest | dramTrainingDone | lcGo | registerWrite
  | commitTableWrite | packageFurrowBoundary | pictureBoundary | fenceRead | canvasPoint | itemEnd | ctuCoded | codedPoint
  | deadlinePoint | engineFault | accessUnitCutoff | decodedSlicePoint | apertureWrite | stateFrame | verdictFrame
  | voteFrame | decidePass | decideFail | decideCatchup | copyBulk | copyRow | copyMirror | bulkCopyDone | resyncRequest
  | resyncCheckpointTaken | resyncCopyDone | resyncAbort | yieldFrame | doorbellFrame | dieFault | mirrorCopy | bootWaitEnd
  | fwCommandEnd =>
    exact absurd hc.symm Bool.false_ne_true
  | perstRelease => exact steady_execPerstRelease s
  | pcieLinkReset => exact steady_execPcieLinkReset _ s
  | resetRelease => exact steady_execResetRelease s
  | ctrlStoreZeroised => exact steady_execCtrlStoreZeroised _ s
  | granuleWiped => exact steady_execGranuleWiped _ s
  | firmwareBoot => exact steady_execFirmwareBoot _ _ _ s
  | sramZeroised => exact steady_execSramZeroised _ s
  | domainPowerUpDone => exact steady_execDomainPowerUpDone _ _ s
  | domainPowerGoodTimeout => exact steady_execDomainPowerGoodTimeout _ _ s
  | domainPowerDown => exact steady_execDomainPowerDown _ _ s
  | domainHoldWrite => exact steady_execDomainHoldWrite _ _ s
  | laneCalibrated => exact steady_execLaneCalibrated _ _ s
  | lcArm => exact steady_execLcArm _ s
  | lcArmTimeout => exact steady_execLcArmTimeout s
  | dieSleepRequest => exact steady_execDieSleepRequest _ s
  | dieAsleep => exact steady_execDieAsleep _ s
  | dieWakeRequest => exact steady_execDieWakeRequest _ s
  | wakeDomainsUp => exact steady_execWakeDomainsUp _ s
  | wakeDramReady => exact steady_execWakeDramReady _ _ s
  | wakeInterruptRestore => exact steady_execWakeInterruptRestore _ s
  | wakeSramZeroised => exact steady_execWakeSramZeroised _ s
  | wakeFirmwareStarted => exact steady_execWakeFirmwareStarted _ s
  | stageWrite => exact steady_execStageWrite _ _ _ _ _ s
  | commit => exact steady_execCommit _ _ _ s
  | commitCheckStart => exact steady_execCommitCheckStart s
  | commitCheckEnd => exact steady_execCommitCheckEnd s
  | statClear => exact steady_execStatClear _ _ _ _ s
  | statSet => exact steady_execStatSet _ _ _ s
  | statAgainClear => exact steady_execStatAgainClear _ _ _ _ s
  | imaskWrite => exact steady_execImaskWrite _ _ _ s
  | imaskSet => exact steady_execImaskSet _ _ _ s
  | imaskClr => exact steady_execImaskClr _ _ _ s
  | counterLowRead => exact steady_execCounterLowRead _ _ _ _ s
  | timeSnapRead => exact steady_execTimeSnapRead _ s
  | barnMarkRead => exact steady_execBarnMarkRead _ _ _ s
  | yokeSinceRead => exact steady_execYokeSinceRead _ _ s
  | referenceEligible => exact steady_execReferenceEligible _ _ s
  | ptpLock => exact steady_execPtpLock _ _ s
  | ref10mStop => exact steady_execRef10mStop s
  | ppsStop => exact steady_execPpsStop s
  | ptpLost => exact steady_execPtpLost s
  | refGlitch => exact steady_execRefGlitch _ s
  | refRefused => exact steady_execRefRefused _ s
  | crystalStop => exact steady_execCrystalStop s
  | holdoverUpdate => exact steady_execHoldoverUpdate s
  | frameReceived => exact steady_execFrameReceived _ s
  | lineFill => exact steady_execLineFill _ _ _ _ s
  | fillEnd => exact steady_execFillEnd _ _ _ _ s
  | pathDown => exact steady_execPathDown _ _ s
  | compressedGapLost => exact steady_execCompressedGapLost _ _ s
  | igmpReport => exact steady_execIgmpReport _ s
  | composeStart => exact steady_execComposeStart _ _ s
  | plantingInstant => exact steady_execPlantingInstant _ _ s
  | itemCreate => exact steady_execItemCreate _ _ s
  | queueReevaluate => exact steady_execQueueReevaluate _ _ s
  | itemDispatch => exact steady_execItemDispatch _ _ _ s
  | trackingWindowEnd => exact steady_execTrackingWindowEnd _ s
  | dspWindowEnd => exact steady_execDspWindowEnd _ s
  | dueTime => exact steady_execDueTime _ _ s
  | refreshDue => exact steady_execRefreshDue _ _ s
  | mr4PeriodicRead => exact steady_execMr4PeriodicRead _ _ s
  | thermalAlert => exact steady_execThermalAlert _ _ s
  | panicEntry => exact steady_execPanicEntry _ _ _ s
  | panicExit => exact steady_execPanicExit _ _ _ s
  | portRun => exact steady_execPortRun _ _ s
  | patrolPass => exact steady_execPatrolPass _ _ _ s
  | apertureRead => exact steady_execApertureRead _ _ _ s
  | hostAperWrite => exact steady_execHostAperWrite _ s
  | packetRelease => exact steady_execPacketRelease _ s
  | portTransmit => exact steady_execPortTransmit _ _ s
  | gateEntry => exact steady_execGateEntry _ s
  | listStart => exact steady_execListStart _ s
  | sapAnnounce => exact steady_execSapAnnounce s
  | flowStopSet => exact steady_execFlowStopSet _ _ _ s
  | flowStopClr => exact steady_execFlowStopClr _ _ _ s
  | flowQuenchSet => exact steady_execFlowQuenchSet _ _ s
  | flowQuenchClr => exact steady_execFlowQuenchClr _ _ s
  | cmdStop => exact steady_execCmdStop _ s
  | cmdStart => exact steady_execCmdStart _ s
  | cmdQuench => exact steady_execCmdQuench _ s
  | cmdUnquench => exact steady_execCmdUnquench _ s
  | helloReceived => exact steady_execHelloReceived _ _ s
  | beatReceived => exact steady_execBeatReceived _ _ s
  | heartbeatPulse => exact steady_execHeartbeatPulse _ s
  | heartbeatMissed => exact steady_execHeartbeatMissed _ s
  | helloSend => exact steady_execHelloSend s
  | beatSend => exact steady_execBeatSend s
  | pairingTimeout => exact steady_execPairingTimeout s
  | pairRetry => exact steady_execPairRetry s
  | voteTimeout => exact steady_execVoteTimeout s
  | decideTimeout => exact steady_execDecideTimeout s
  | yokeYield => exact steady_execYokeYield _ s
  | yokeResync => exact steady_execYokeResync _ s
  | takeover => exact steady_execTakeover s
  | ackFrame => exact steady_execAckFrame _ s
  | reliableRetry => exact steady_execReliableRetry _ s
  | ackTimer => exact steady_execAckTimer s
  | audioPacketRelease => exact steady_execAudioPacketRelease _ s
  | sampleReady => exact steady_execSampleReady _ s
  | zcTimeout => exact steady_execZcTimeout _ _ _ s
  | nonAudioClear => exact steady_execNonAudioClear _ _ _ s
  | tdmFrame => exact steady_execTdmFrame _ _ s
  | tdmClockStop => exact steady_execTdmClockStop _ s
  | tdmFaultClear => exact steady_execTdmFaultClear _ s
  | icMessageArrival => exact steady_execIcMessageArrival _ s
  | icDoorbell => exact steady_execIcDoorbell _ _ s
  | icPendClr => exact steady_execIcPendClr _ _ s
  | icEnSet => exact steady_execIcEnSet _ s
  | icEnClr => exact steady_execIcEnClr _ _ s
  | icMaskSet => exact steady_execIcMaskSet _ s
  | icMaskClr => exact steady_execIcMaskClr _ _ s
  | icRemote => exact steady_execIcRemote _ s
  | icClaim => exact steady_execIcClaim _ _ s
  | icComplete => exact steady_execIcComplete _ _ s
  | routingWrite => exact steady_execRoutingWrite _ _ s
  | wakeTimeout => exact steady_execWakeTimeout _ s
  | signalDetect => exact steady_execSignalDetect _ s
  | signalLoss => exact steady_execSignalLoss _ s
  | adaptationConverged => exact steady_execAdaptationConverged _ _ _ s
  | trainingComplete => exact steady_execTrainingComplete _ _ _ s
  | trainingTimeout => exact steady_execTrainingTimeout _ s
  | trainingRetry => exact steady_execTrainingRetry _ s
  | lockLoss => exact steady_execLockLoss _ s
  | fecBlockEnd => exact steady_execFecBlockEnd _ _ _ _ s
  | ykIdleEntry => exact steady_execYkIdleEntry _ s
  | ykIdleExit => exact steady_execYkIdleExit _ s
  | ykIdleRefresh => exact steady_execYkIdleRefresh _ _ _ s
  | ykExitLate => exact steady_execYkExitLate _ s
  | phyTxeqWrite => exact steady_execPhyTxeqWrite _ _ _ s
  | phyReadapt => exact steady_execPhyReadapt _ _ _ s
  | eyeScanStart => exact steady_execEyeScanStart _ _ _ s
  | eyeScanAbort => exact steady_execEyeScanAbort _ _ _ s
  | eyeCellDone => exact steady_execEyeCellDone _ _ _ s
  | bootLoadStart => exact steady_execBootLoadStart s
  | hostBootHoldRelease => exact steady_execHostBootHoldRelease _ s
  | hostBootAbort => exact steady_execHostBootAbort _ s
  | nmosHeartbeat => exact steady_execNmosHeartbeat _ s
  | is05Patch => exact steady_execIs05Patch _ _ _ _ _ s
  | is05Activation => exact steady_execIs05Activation s
  | delayReqSend => exact steady_execDelayReqSend _ s
  | fwWriteStaged => exact steady_execFwWriteStaged _ s
  | fwWriteSettings => exact steady_execFwWriteSettings _ s
  | fwEraseStaged => exact steady_execFwEraseStaged _ s
  | fwEraseSettings => exact steady_execFwEraseSettings _ s
  | fwConfirm => exact steady_execFwConfirm _ s
  | tackWrite => exact steady_execTackWrite _ s
  | tackErase => exact steady_execTackErase _ s
  | tackAttest => exact steady_execTackAttest _ s
  | tackCommandEnd => exact steady_execTackCommandEnd s
  | packagePagesReady => exact steady_execPackagePagesReady s
  | pcieLinkUp => exact steady_execPcieLinkUp _ _ _ s
  | pcieConfigWrite => exact steady_execPcieConfigWrite _ _ _ _ s
  | referenceEdge => exact steady_execReferenceEdge _ _ s
  | tdmClockReturn => exact steady_execTdmClockReturn _ _ s

/-- Every command keeps the variant, the waiting commands, the blown fuses and the memory's canonical form. -/
theorem kept_exec (c : Instr) (s : State) : KeptO s (exec c s) := by
  by_cases hc : changesSteady c = true
  case neg => exact .of_steady _ _ (steady_exec (Bool.eq_false_iff.mpr hc) s)
  cases c with
  | supplyRise => exact kept_execSupplyRise s
  | supplyFall => exact kept_execSupplyFall s
  | perstAssert => exact kept_execPerstAssert s
  | warmResetRequest => exact kept_execWarmResetRequest _ s
  | coldResetRequest => exact kept_execColdResetRequest _ s
  | dramTrainingDone => exact kept_execDramTrainingDone _ _ s
  | lcGo => exact kept_execLcGo _ s
  | registerWrite => exact kept_execRegisterWrite _ _ _ _ s
  | commitTableWrite => exact kept_execCommitTableWrite _ _ _ s
  | packageFurrowBoundary => exact kept_execPackageFurrowBoundary s
  | pictureBoundary => exact kept_execPictureBoundary _ s
  | fenceRead => exact kept_execFenceRead _ s
  | canvasPoint => exact kept_execCanvasPoint _ _ _ s
  | itemEnd => exact kept_execItemEnd _ _ _ s
  | ctuCoded => exact kept_execCtuCoded _ _ s
  | codedPoint => exact kept_execCodedPoint _ _ s
  | deadlinePoint => exact kept_execDeadlinePoint _ _ _ s
  | engineFault => exact kept_execEngineFault _ _ _ s
  | accessUnitCutoff => exact kept_execAccessUnitCutoff _ _ _ s
  | decodedSlicePoint => exact kept_execDecodedSlicePoint _ _ _ _ s
  | apertureWrite => exact kept_execApertureWrite _ _ _ s
  | stateFrame => exact kept_execStateFrame _ _ s
  | verdictFrame => exact kept_execVerdictFrame _ _ _ _ _ s
  | voteFrame => exact kept_execVoteFrame _ _ _ _ _ _ _ s
  | decidePass => exact kept_execDecidePass _ _ _ _ s
  | decideFail => exact kept_execDecideFail _ _ _ s
  | decideCatchup => exact kept_execDecideCatchup _ _ _ s
  | copyBulk => exact kept_execCopyBulk _ _ _ _ _ s
  | copyRow => exact kept_execCopyRow _ _ _ _ _ s
  | copyMirror => exact kept_execCopyMirror _ _ _ _ _ s
  | bulkCopyDone => exact kept_execBulkCopyDone _ s
  | resyncRequest => exact kept_execResyncRequest _ _ s
  | resyncCheckpointTaken => exact kept_execResyncCheckpointTaken _ _ _ _ s
  | resyncCopyDone => exact kept_execResyncCopyDone _ _ _ _ s
  | resyncAbort => exact kept_execResyncAbort _ _ s
  | yieldFrame => exact kept_execYieldFrame _ _ _ _ s
  | doorbellFrame => exact kept_execDoorbellFrame _ _ s
  | dieFault => exact kept_execDieFault _ _ s
  | mirrorCopy => exact kept_execMirrorCopy _ s
  | bootWaitEnd => exact kept_execBootWaitEnd s
  | fwCommandEnd => exact kept_execFwCommandEnd _ s
  | _ => exact absurd hc Bool.false_ne_true

/-- A command that blows a fuse is `LC_GO` or a register write. -/
theorem blowsNone_exec (c : Instr) (s : State) : BlowsNone s (exec c s) ∨ (∃ v, c = .lcGo v) ∨ ∃ req a n v, c = .registerWrite req a n v := by
  by_cases hc : changesSteady c = true
  case neg => exact .inl fun t ht => congrArg fusesOf (steady_exec (Bool.eq_false_iff.mpr hc) s t ht)
  cases c with
  | lcGo v => exact .inr (.inl ⟨v, rfl⟩)
  | registerWrite req a n v => exact .inr (.inr ⟨req, a, n, v, rfl⟩)
  | stateFrame | verdictFrame | copyBulk | copyRow | resyncRequest | resyncCheckpointTaken | resyncCopyDone | resyncAbort =>
    exact .inl (blowsNone_relCh _ _ _ s)
  | voteFrame | decidePass | decideFail | decideCatchup | yieldFrame | doorbellFrame => exact .inl (blowsNone_rel _ _ s)
  | supplyRise => exact .inl (blowsNone_execSupplyRise s)
  | supplyFall => exact .inl (blowsNone_next rfl)
  | perstAssert => exact .inl (blowsNone_execPerstAssert s)
  | warmResetRequest | coldResetRequest => exact .inl (blowsNone_whenUp_guard (fuses_assertReset _ _) _)
  | dramTrainingDone => exact .inl (blowsNone_execDramTrainingDone _ _ s)
  | commitTableWrite q w v => exact .inl (blowsNone_whenUp (fuses_writeEntry q w v))
  | packageFurrowBoundary => exact .inl (blowsNone_whenUp fuses_packageOp)
  | pictureBoundary ch => exact .inl (blowsNone_atChannel (fuses_boundaryOp ch) ch)
  | fenceRead ch => exact .inl (blowsNone_atChannel (fun s => fuses_reading _ _ s (fuses_fenceReadOp ch)) ch)
  | canvasPoint => exact .inl (blowsNone_execCanvasPoint _ _ _ s)
  | itemEnd d slot t => exact .inl (blowsNone_atDie (fuses_itemEnds d slot t) d)
  | ctuCoded ch k => exact .inl (blowsNone_atChannel (fuses_codeNext ch k) ch)
  | codedPoint ch k => exact .inl (blowsNone_atChannel (fuses_codedPoint ch k) ch)
  | deadlinePoint ch k n => exact .inl (blowsNone_atChannel (fuses_deadlinePoint ch k n) ch)
  | engineFault => exact .inl (blowsNone_execEngineFault _ _ _ s)
  | accessUnitCutoff d n au =>
    exact .inl (blowsNone_atDec (fun s => fuses_reading _ _ s fun s => congrArg fusesOf (steady_accessUnitOp d n au s)) d n)
  | decodedSlicePoint d n damaged area =>
    exact .inl (blowsNone_atDec (fun s => fuses_reading _ _ s fun s => congrArg fusesOf (steady_slicePointOp d n damaged area s)) d n)
  | apertureWrite x bs e => exact .inl (blowsNone_whenUp_guard (fuses_aperWrite x bs e) _)
  | copyMirror => exact .inl (blowsNone_execCopyMirror _ _ _ _ _ s)
  | bulkCopyDone ch =>
    exact .inl (blowsNone_atChannel (fun s => fuses_reading _ _ s fun s => congrArg fusesOf (steady_bulkDoneOp ch s)) ch)
  | dieFault d cause => exact .inl (blowsNone_atDie (fuses_dieFaultFor d cause) d)
  | mirrorCopy ch => exact .inl (blowsNone_atChannel (fun s => fuses_reading _ _ s (fuses_mirrorOp ch)) ch)
  | bootWaitEnd => exact .inl (blowsNone_whenUp fuses_bootWaitOp)
  | fwCommandEnd => exact .inl (blowsNone_execFwCommandEnd _ s)
  | _ => exact absurd hc Bool.false_ne_true

/-- A command blows at most one fuse. -/
theorem atMostOne_exec {c : Instr} {s t : State} (ht : exec c s = .next t) : AtMostOne s t := by
  rcases blowsNone_exec c s with h | ⟨v, rfl⟩ | ⟨req, a, n, v, rfl⟩
  · exact .of_eq (h t ht)
  · have go : AtMostOne s (via (execLcGo v) s) := atMostOne_lcGo v s
    rwa [via, show execLcGo v s = .next t from ht] at go
  · obtain rfl : whenUp s (guard' (decoded req s) (writeReg a n v)) = t := by injection ht
    exact .whenUp_guard _ (atMostOne_writeReg a n v s)

/-- A step idles on an empty queue, and else runs the command at its front on the state whose queue is the rest. -/
theorem step_cases {s t : State} (h : step s = .next t) :
    (s.pending = [] ∧ t = s) ∨ ∃ c rest, s.pending = c :: rest ∧ exec c { s with pending := rest } = .next t := by
  unfold step at h
  split at h
  case h_1 hp =>
    cases h
    exact .inl ⟨hp, rfl⟩
  case h_2 c rest hp => exact .inr ⟨c, rest, hp, h⟩

/-- Settles O59: an idle step changes nothing, and the command at the front keeps the rest of the queue and blows one fuse at most. -/
theorem stepKeepsVariantAndFuses : Obligations.StepKeepsVariantAndFuses := by
  unfold Obligations.StepKeepsVariantAndFuses
  intro s t hst
  rcases step_cases hst with ⟨hp, rfl⟩ | ⟨c, rest, hp, hc⟩
  · exact ⟨rfl, Nat.le_refl _, Nat.le_succ _, by rw [hp, List.tail_nil]⟩
  · obtain ⟨hvariant, hpending, hfuses, -⟩ := kept_exec c _ t hc
    have hone := atMostOne_exec hc
    exact ⟨hvariant, hfuses, hone, by rw [hp]; exact hpending⟩

end Sys2Proof.Laws
end

section
/-! O21, O27 and O29 fail in a state with an ill-formed work item. The counters of all pages stand in one table, under key
128 page + counter (R50), and the release of an item of kind `c` advances counter 112 + `c` of its die's `DSP` page (R273, R288).
The three statements ask of their state only that the part runs and that the command's own conditions hold. So an item may be of a
kind that R271 does not list; then 112 + `c` may pass 127, the counter that its release advances is one of a later page, and every
command that ends with `wakeItems` moves it besides what the command counts itself. A hypothesis that the
kind of every item is one of R271's, 0 to 5, would shut such a state out. -/

namespace Sys2Proof.Laws

open Sys2Proof Sys2Proof.Machine

/-! ## A part that runs -/

theorem whenUp_of_running {s : State} (hrun : inReset s = false) (k : State → State) : whenUp s k = k s := by
  simp [whenUp, hrun]

theorem atChannel_of_running {s : State} {ch : Nat} (hrun : inReset s = false) (hch : ch < 32 * dies s) (k : State → State) :
    atChannel ch s k = .next (k s) := by
  rw [atChannel, if_pos hch, whenUp_of_running hrun]

theorem exec_frameReceived_of_running {s : State} {f : Frame} (hrun : inReset s = false) (hlane : f.lane < 4 * dies s) :
    exec (.frameReceived f) s = .next (receiveFrame f s) := by
  change atFrame f s (receiveFrame f) = _
  rw [atFrame, if_pos hlane, whenUp_of_running hrun]

theorem exec_plantingInstant_of_running {s : State} {ch : Nat} (hrun : inReset s = false) (hch : ch < 32 * dies s) (k : Nat) :
    exec (.plantingInstant ch k) s = .next (wakeItems (plantOp ch k s)) :=
  atChannel_of_running hrun hch fun s => wakeItems (plantOp ch k s)

theorem exec_codedPoint_of_running {s : State} {ch : Nat} (hrun : inReset s = false) (hch : ch < 32 * dies s) (k : Nat) :
    exec (.codedPoint ch k) s = .next (codedPoint ch k s) :=
  atChannel_of_running hrun hch (codedPoint ch k)

/-- A counter that has come from 0 to 2 has not advanced by 1. -/
theorem not_counted_one {k n : Nat} {s t : State} (hs : counter s k n = 0) (ht : counter t k n = 2) : ¬ Counted k n 1 s t := by
  rw [Counted, hs, ht]
  decide

/-! ## The ill-formed item -/

/-- The kind `c` for which counter 112 + `c` of die 0's `DSP` page is counter `n` of page `k`, a page behind it. -/
def strayKind (k n : Nat) : Nat := 128 * (k - pgDsp 0) + n - 112

/-- An ended item of the stray kind, of an owner that has no work before it. -/
def strayItem (k n : Nat) : Item :=
  { slot := 0, owner := 32, kind := strayKind k n, ch := 0, n := 0, furrow := 0, idx := 0, mask := 0, ready := some 0, queue := 7
    deadline := 0, unit := none, startAt := 0, ended := true }

/-- A running part whose die 0 holds the stray item. -/
def strayPart (k n : Nat) : State := { pwr := { supplied := true }, dsps := [(0, { items := [strayItem k n] })] }

/-! ## A received frame -/

/-- A part with one port, on lane 0 and UP; the stray item's release advances counter 0 of the lane's page, the received frames. -/
def portPart : State := { strayPart (lanePage 0) 0 with eff := [(laneLoc 0, 1)], lanes := [(0, { st := stUp })] }

/-- A frame with a bad FCS on lane 0. -/
def damagedFrame : Frame :=
  { at_ := 0, stamp := 0, lane := 0, len := 64, fcsOk := false, pause := false, ptpEth := false, ipv4Udp := false, frag := false
    ipsumOk := true, vlans := [], sip := 0, dip := 0, sport := 0, dport := 0, body := .other }

theorem counter_receiveFrame_portPart : counter (receiveFrame damagedFrame portPart) (lanePage 0) 0 = 2 := by decide

/-- Refutes O21: the frame counts once at its MAC, and the stray item's release counts once more on the same counter. -/
theorem not_receivedFramesAndSegments : ¬ Obligations.ReceivedFramesAndSegments := by
  unfold Obligations.ReceivedFramesAndSegments
  rintro ⟨frames, -⟩
  obtain ⟨atPort, -⟩ := frames portPart damagedFrame
  obtain ⟨t, ht, hcounted, -⟩ := atPort 0 (by decide)
  rw [exec_frameReceived_of_running rfl (by decide)] at ht
  obtain rfl := Host.Outcome.next.inj ht
  exact not_counted_one (by decide) counter_receiveFrame_portPart hcounted

/-! ## Planting and the coded point -/

/-- A picture of 64 × 128 samples at 60 Hz, of two furrows of one CTU; `u` is the first. -/
def twoFurrows (u : Fur) : Pic := { cfg := [(chLoc 0 0x104, 0x00800040), (chLoc 0 0x108, 8)], furs := [(0, u)] }

/-- Channel 0 codes that picture; the stray item's release advances counter `n` of page `k`. -/
def codingPart (u : Fur) (k n : Nat) : State := { strayPart k n with chans := [(0, { pics := [twoFurrows u] })] }

/-- A furrow that is to be planted. -/
def completeFur : Fur := { complete := true }

/-- A part that plants it under the yard term, which counter 8 of the `DRILL` page counts. -/
def plantingPart : State := codingPart completeFur (chPage 0x220 0) 8

theorem counter_plantingInstant_plantingPart : counter (wakeItems (plantOp 0 0 plantingPart)) (chPage 0x220 0) 8 = 2 := by decide

/-- Refutes O27: the yard term sets the cap and counts once, and the stray item's release counts once more on the same counter. -/
theorem not_plantingAndCtus : ¬ Obligations.PlantingAndCtus := by
  unfold Obligations.PlantingAndCtus
  rintro ⟨planting, -⟩
  obtain ⟨t, q, ht, -, -, hcap, -, hterm, -, hcounted, -⟩ := planting 0 0 plantingPart (twoFurrows completeFur) rfl (by decide)
    (by decide) (by decide) (by decide) (by decide)
  have hyard : (fur q 0).capTerm = 1 := by
    rw [hterm, hcap]
    decide
  rw [exec_plantingInstant_of_running rfl (by decide)] at ht
  obtain rfl := Host.Outcome.next.inj ht
  rw [hyard] at hcounted
  exact not_counted_one (by decide) counter_plantingInstant_plantingPart (hcounted (by decide))

/-- A furrow that deadline fallow has coded and written, with a stale input. -/
def staleFur : Fur := { ctus := 1, written := true, dlFallow := true, inputStale := true }

/-- A part that comes to its coded point, where counter 3 of the `CH` page counts the stale input. -/
def codedPart : State := codingPart staleFur (chPage 0x200 0) 3

theorem counter_codedPoint_codedPart : counter (codedPoint 0 0 codedPart) (chPage 0x200 0) 3 = 2 := by decide

/-- Refutes O29: the stale input counts once, and the stray item's release counts once more on the same counter. -/
theorem not_codedAndDeadlinePoints : ¬ Obligations.CodedAndDeadlinePoints := by
  unfold Obligations.CodedAndDeadlinePoints
  rintro ⟨coded, -⟩
  obtain ⟨t, q, ht, -, -, -, hstale, -⟩ := coded 0 0 codedPart (twoFurrows staleFur) rfl (by decide) (by decide) (by decide)
    (by decide) (by decide) (by decide) (by decide) (.inl rfl) (by decide)
  rw [exec_codedPoint_of_running rfl (by decide)] at ht
  obtain rfl := Host.Outcome.next.inj ht
  obtain ⟨hcounted, -⟩ := hstale rfl
  exact not_counted_one (by decide) counter_codedPoint_codedPart hcounted

end Sys2Proof.Laws
end

section
/-! What each operation of the machine leaves of the configuration words and of the host link: one lemma per operation that keeps
the staged words, the live words, the words in effect (R51, R71) and the link's state, in the order of the model. The few
that touch the link have a lemma about the words alone. -/

namespace Sys2Proof.Laws

open Sys2Proof Sys2Proof.Machine

/-- The configuration words of a state, staged, live and in effect (R51, R71), with its host link. -/
def stores (s : State) : (Tbl Word × Tbl Word × Tbl Word) × HostSt := ((s.staged, s.live, s.eff), s.host)

/-- The configuration words alone. -/
def wordsOf (x : (Tbl Word × Tbl Word × Tbl Word) × HostSt) : Tbl Word × Tbl Word × Tbl Word := x.1

theorem words_mk (s : State) (h : HostSt) : wordsOf ((s.staged, s.live, s.eff), h) = wordsOf (stores s) := rfl

theorem words_ite (c : Prop) [Decidable c] (a b : (Tbl Word × Tbl Word × Tbl Word) × HostSt) :
    wordsOf (if c then a else b) = if c then wordsOf a else wordsOf b := apply_ite ..

/-- What a record update and a conditional leave of the configuration words. One conjunction, so that `simp` takes all three before
it looks at the fields of the state. -/
theorem stores_shape :
    (∀ x0 x1 x2 x3 x4 x5 x6 x7 x8 x9 x10 x11 x12 x13 x14 x15 x16 x17 x18 x19 x20 x21 x22 x23 x24 x25 x26 x27 x28 x29 x30 x31 x32 x33
        x34 x35 x36 x37 x38 x39 x40 x41 x42 x43 x44 x45 x46 x47,
      stores (State.mk x0 x1 x2 x3 x4 x5 x6 x7 x8 x9 x10 x11 x12 x13 x14 x15 x16 x17 x18 x19 x20 x21 x22 x23 x24 x25 x26 x27 x28 x29
        x30 x31 x32 x33 x34 x35 x36 x37 x38 x39 x40 x41 x42 x43 x44 x45 x46 x47) = ((x9, x10, x11), x44)) ∧
    (∀ s : State, ((s.staged, s.live, s.eff), s.host) = stores s) ∧
    (∀ (c : Prop) [Decidable c] (a b : State), stores (if c then a else b) = if c then stores a else stores b) := by
  refine ⟨?_, ?_, ?_⟩
  · intros
    rfl
  · intros
    rfl
  · intros
    exact apply_ite ..

theorem stores_ite_snd {α : Type} (c : Prop) [Decidable c] (a b : α × State) :
    stores (if c then a else b).2 = if c then stores a.2 else stores b.2 := by split <;> rfl

theorem stores_foldl {α : Type} (f : State → α → State) (l : List α) (s : State) (h : ∀ s a, stores (f s a) = stores s) :
    stores (l.foldl f s) = stores s := by
  induction l generalizing s with
  | nil => rfl
  | cons a l ih => rw [List.foldl_cons, ih, h]

theorem stores_foldl_snd {α β : Type} (f : β × State → α → β × State) (l : List α) (r : β × State)
    (h : ∀ r a, stores (f r a).2 = stores r.2) : stores (l.foldl f r).2 = stores r.2 := by
  induction l generalizing r with
  | nil => rfl
  | cons a l ih => rw [List.foldl_cons, ih, h]

/-! ## Pages, registers and counters -/

theorem stores_emit (o : Out) (s : State) : stores (emit o s) = stores s := by rfl

theorem stores_draw (s : State) : stores (draw s) = stores s := by rfl

theorem stores_modPtp (l : Nat) (f : PtpPort → PtpPort) (s : State) : stores (modPtp l f s) = stores s := by rfl

theorem stores_bump (k n x : Nat) (s : State) : stores (bump k n x s) = stores s := by rfl

theorem stores_peakCtr (k n x : Nat) (s : State) : stores (peakCtr k n x s) = stores s := by
  simp only [peakCtr, ↓stores_shape, ite_self]

theorem stores_modPage (k : Nat) (f : PageHdr → PageHdr) (s : State) : stores (modPage k f s) = stores s := by rfl

theorem stores_setReg (a : Nat) (w : Word) (s : State) : stores (setReg a w s) = stores s := by rfl

theorem stores_whenUp (s : State) (k : State → State) (h : ∀ s, stores (k s) = stores s) : stores (whenUp s k) = stores s := by
  simp only [whenUp, ↓h, ↓stores_shape, ite_self]

/-! ## The flags of a page -/

theorem stores_doorbell (k : Nat) (s : State) : stores (doorbell k s) = stores s := by rfl

theorem stores_raise (k : Nat) (m : Word) (s : State) : stores (raise k m s) = stores s := by
  simp only [raise, ↓stores_modPage, ↓stores_doorbell, ↓stores_shape, ite_self]

theorem stores_raiseN (k i n : Nat) (s : State) : stores (raiseN k i n s) = stores s := by
  simp only [raiseN, ↓stores_modPage, ↓stores_raise, ↓stores_shape, ite_self]

theorem stores_raiseBit (k i : Nat) (s : State) : stores (raiseBit k i s) = stores s := by
  simp only [raiseBit, ↓stores_raise]

theorem stores_clearStat (k : Nat) (v hit : Word) (s : State) : stores (clearStat k v hit s) = stores s := by
  simp only [clearStat, ↓stores_modPage, ↓stores_doorbell, ↓stores_shape, ite_self]

theorem stores_writeAgain (k : Nat) (v : Word) (hit : Bool) (s : State) : stores (writeAgain k v hit s) = stores s := by
  simp only [writeAgain, ↓stores_modPage, ↓stores_shape, ite_self]

theorem stores_setImask (k : Nat) (v : Word) (send : Bool) (s : State) : stores (setImask k v send s) = stores s := by
  simp only [setImask, ↓stores_modPage, ↓stores_doorbell, ↓stores_shape, ite_self]

theorem stores_writeEvt (k : Nat) (v : Word) (s : State) : stores (writeEvt k v s) = stores s := by
  simp only [writeEvt, ↓stores_modPage, ↓stores_shape, ite_self]

theorem stores_dropReady (ks : List Nat) (s0 s1 : State) : stores (dropReady ks s0 s1) = stores s1 := by
  simp only [dropReady, ↓stores_raiseN]

/-! ## Time -/

theorem stores_advance (t : Nat) (s : State) : stores (advance t s) = stores s := by rfl

/-! ## Serial lanes -/

theorem stores_modLane (l : Nat) (f : Lane → Lane) (s : State) : stores (modLane l f s) = stores s := by rfl

theorem stores_dieCtr (l n x : Nat) (s : State) : stores (dieCtr l n x s) = stores s := by
  simp only [dieCtr, ↓stores_bump]

theorem stores_linkEvents (g : Nat → Word) (l : Nat) (s0 s : State) : stores (linkEvents g l s0 s) = stores s := by
  simp only [linkEvents, ↓stores_bump, ↓stores_raiseBit, ↓stores_shape, ite_self]

theorem stores_allLinkEvents (l : Nat) (s0 s : State) : stores (allLinkEvents l s0 s) = stores s := by
  unfold allLinkEvents
  split <;> simp only [↓stores_linkEvents, ↓stores_shape, ite_self]

theorem stores_eyeAbort (l : Nat) (s : State) : stores (eyeAbort l s) = stores s := by
  simp only [eyeAbort, ↓stores_raiseBit, ↓stores_modLane, ↓stores_shape, ite_self]

theorem stores_idleExit (l : Nat) (s : State) : stores (idleExit l s) = stores s := by
  simp only [idleExit, ↓stores_emit, ↓stores_modLane, ↓stores_dieCtr]

theorem stores_wakeBeat (s : State) : stores (wakeBeat s) = stores s := by
  unfold wakeBeat
  split <;> simp only [↓stores_idleExit, ↓stores_shape, ite_self]

theorem stores_blocksAnew (l : Nat) (s : State) : stores (blocksAnew l s) = stores s := by
  simp only [blocksAnew, ↓stores_modLane, stores_foldl, implies_true]

theorem stores_laneMove (l st : Nat) (s0 : State) : stores (laneMove l st s0) = stores s0 := by
  simp only [laneMove, ↓stores_modLane, ↓stores_eyeAbort, ↓stores_blocksAnew, ↓stores_shape, ite_self]

theorem stores_laneTo (l st : Nat) (s0 : State) : stores (laneTo l st s0) = stores s0 := by
  simp only [laneTo, ↓stores_allLinkEvents, ↓stores_wakeBeat, ↓stores_laneMove, ↓stores_shape, ite_self]

theorem stores_laneOff (l : Nat) (s : State) : stores (laneOff l s) = stores s := by
  simp only [laneOff, ↓stores_laneTo, ↓stores_shape, ite_self]

theorem stores_laneSearch (l : Nat) (s : State) : stores (laneSearch l s) = stores s := by
  simp only [laneSearch, ↓stores_laneTo, ↓stores_shape, ite_self]

theorem stores_relockBy (move : Nat → Nat → State → State) (l : Nat) (s : State) (hmove : ∀ a b s, stores (move a b s) = stores s) :
    stores (relockBy move l s) = stores s := by
  simp only [relockBy, ↓hmove, ↓stores_modLane, ↓stores_shape, ite_self]

theorem stores_laneRelock (l : Nat) (s : State) : stores (laneRelock l s) = stores s := by
  simp only [laneRelock, ↓stores_laneTo, ↓stores_relockBy, implies_true]

theorem stores_faultActs (was : Bool) (k : Nat) (s : State) : stores (faultActs was k s) = stores s := by
  simp only [faultActs, ↓stores_raiseBit, ↓stores_laneTo, ↓stores_shape, stores_foldl, ite_self, implies_true]

theorem stores_setFaults (ks : List Nat) (s0 : State) : stores (setFaults ks s0) = stores s0 := by
  simp only [setFaults, ↓stores_modPage, ↓stores_dropReady, ↓stores_faultActs, stores_foldl, implies_true]

theorem stores_setFault (k : Nat) (s : State) : stores (setFault k s) = stores s := by
  simp only [setFault, ↓stores_setFaults]

theorem stores_writeTxeq (l : Nat) (v : Word) (s : State) : stores (writeTxeq l v s) = stores s := by
  simp only [writeTxeq, ↓stores_modLane, ↓stores_shape, ite_self]

theorem stores_writeRxeq (l : Nat) (v : Word) (s : State) : stores (writeRxeq l v s) = stores s := by
  simp only [writeRxeq, ↓stores_modLane, ↓stores_laneRelock, ↓stores_shape, ite_self]

theorem stores_writeEye (l : Nat) (v : Word) (s : State) : stores (writeEye l v s) = stores s := by
  simp only [writeEye, ↓stores_modLane, ↓stores_eyeAbort, ↓stores_shape, ite_self]

theorem stores_eyeCell (l n : Nat) (s : State) : stores (eyeCell l n s) = stores s := by
  simp only [eyeCell, ↓stores_raiseBit, ↓stores_modLane, ↓stores_shape, ite_self]

theorem stores_untrain (l : Nat) (s : State) : stores (untrain l s) = stores s := by
  simp only [untrain, ↓stores_modLane, ↓stores_laneRelock, ↓stores_shape, ite_self]

theorem stores_lanesTakeEffect (old : Nat → Word) (s0 : State) : stores (lanesTakeEffect old s0) = stores s0 := by
  simp only [lanesTakeEffect, ↓stores_modLane, ↓stores_linkEvents, ↓stores_laneMove, ↓stores_relockBy, ↓stores_laneRelock, ↓stores_untrain,
    ↓stores_shape, stores_foldl, ite_self, implies_true]

/-! ## Commit sets -/

theorem stores_atReport (q : Nat) (f : Nat → State → State) (s : State) (hf : ∀ n s, stores (f n s) = stores s) :
    stores (atReport q f s) = stores s := by
  unfold atReport
  split <;> simp only [↓hf]

theorem stores_raiseReport (q i : Nat) (s : State) : stores (raiseReport q i s) = stores s := by
  simp only [raiseReport, ↓stores_raiseBit, ↓stores_atReport, ↓stores_shape, ite_self, implies_true]

theorem stores_modSet (q : Nat) (f : CSet → CSet) (s : State) : stores (modSet q f s) = stores s := by rfl

/-! ## The yoke -/

theorem stores_modYch (ch : Nat) (f : YCh → YCh) (s : State) : stores (modYch ch f s) = stores s := by rfl

theorem stores_setRole (r : Nat) (s : State) : stores (setRole r s) = stores s := by
  simp only [setRole, ↓stores_raiseBit, ↓stores_shape, ite_self]

theorem stores_sendOn (bytes : List Byte) (s : State) (l : Nat) : stores (sendOn bytes s l) = stores s := by
  simp only [sendOn, ↓stores_emit, ↓stores_idleExit, ↓stores_shape, ite_self]

theorem stores_sendFrame (seq : Nat) (retry : Bool) (m : YMsg) (s : State) : stores (sendFrame seq retry m s) = stores s := by
  simp only [sendFrame, ↓stores_sendOn, ↓stores_shape, stores_foldl, implies_true]

theorem stores_sendRel (m : YMsg) (s : State) : stores (sendRel m s) = stores s := by
  simp only [sendRel, ↓stores_sendFrame, ↓stores_shape]

theorem stores_ackUpTo (n : Nat) (s : State) : stores (ackUpTo n s) = stores s := by rfl

theorem stores_yieldFor (c : Nat) (s : State) : stores (yieldFor c s) = stores s := by
  simp only [yieldFor, ↓stores_emit, ↓stores_bump, ↓stores_raiseBit, ↓stores_sendRel, ↓stores_shape, ite_self]

theorem stores_diverge (ch c : Nat) (s : State) : stores (diverge ch c s) = stores s := by
  simp only [diverge, ↓stores_bump, ↓stores_raiseBit, ↓stores_modYch, ↓stores_shape, ite_self]

theorem stores_relock (ch : Nat) (s : State) : stores (relock ch s) = stores s := by
  simp only [relock, ↓stores_raiseBit, ↓stores_modYch, ↓stores_shape, ite_self]

theorem stores_resyncFailed (ch : Nat) (s : State) : stores (resyncFailed ch s) = stores s := by
  simp only [resyncFailed, ↓stores_bump, ↓stores_raiseBit, ↓stores_modYch, ↓stores_shape, ite_self]

theorem stores_resyncAbort (tell : Bool) (s : State) : stores (resyncAbort tell s) = stores s := by
  unfold resyncAbort
  split <;> simp only [↓stores_sendRel, ↓stores_diverge, ↓stores_resyncFailed, ↓stores_shape, ite_self]

theorem stores_seekResync (s : State) : stores (seekResync s) = stores s := by
  unfold seekResync
  (repeat' split) <;> simp only [↓stores_modYch, ↓stores_sendRel, ↓stores_shape]

theorem stores_pathsChanged (s0 s : State) : stores (pathsChanged s0 s) = stores s := by
  simp only [pathsChanged, ↓stores_bump, ↓stores_raiseBit, ↓stores_setRole, ↓stores_resyncAbort, ↓stores_shape, ite_self]

/-! ## The yard's ports -/

theorem stores_modPort (l : Nat) (f : PortTx → PortTx) (s : State) : stores (modPort l f s) = stores s := by rfl

theorem stores_modFlow (n : Nat) (f : Flow → Flow) (s : State) : stores (modFlow n f s) = stores s := by rfl

theorem stores_flowCount (n i x : Nat) (s : State) : stores (flowCount n i x s) = stores s := by
  simp only [flowCount, ↓stores_modFlow]

theorem stores_refillPort (l t : Nat) (s : State) : stores (refillPort l t s) = stores s := by
  simp only [refillPort, ↓stores_modPort]

theorem stores_takeFlowTok (n path t k : Nat) (s : State) : stores (takeFlowTok n path t k s) = stores s := by
  simp only [takeFlowTok, ↓stores_modFlow]

theorem stores_resetFlowBucket (n : Nat) (s : State) : stores (resetFlowBucket n s) = stores s := by
  simp only [resetFlowBucket, ↓stores_raiseBit, ↓stores_modFlow]

theorem stores_emitOn (l : Nat) (o : Out) (s : State) : stores (emitOn l o s) = stores s := by
  simp only [emitOn, ↓stores_emit, ↓stores_shape, ite_self]

theorem stores_discardMedia (l : Nat) (q : QFrame) (s : State) : stores (discardMedia l q s) = stores s := by
  simp only [discardMedia, ↓stores_bump, ↓stores_raiseBit, ↓stores_flowCount, ↓stores_shape, ite_self]

theorem stores_purge (l t : Nat) (qs : List QFrame) (s : State) : stores (purge l t qs s) = stores s := by
  induction qs generalizing s with
  | nil => rfl
  | cons q qs ih => simp only [purge, ↓ih, ↓stores_discardMedia, ↓stores_modFlow, ↓stores_modPort, ↓stores_shape, ite_self]

theorem stores_purgeQueues (l : Nat) (s : State) : stores (purgeQueues l s) = stores s := by
  simp only [purgeQueues, ↓stores_bump, ↓stores_raiseN, ↓stores_modPort]

theorem stores_holdFrame (l b n : Nat) (media : Bool) (s : State) : stores (holdFrame l b n media s) = stores s := by
  simp only [holdFrame, ↓stores_bump, ↓stores_raiseBit, ↓stores_flowCount, ↓stores_shape, ite_self]

theorem stores_pickMedia (l t gbps fuel : Nat) (cand : List QFrame) (s : State) : stores (pickMedia l t gbps fuel cand s).2 = stores s := by
  induction fuel generalizing cand s with
  | zero => rfl
  | succ n ih =>
    rw [pickMedia]
    split
    · rfl
    · simp only [↓ih, ↓stores_holdFrame, ↓stores_modPort, ↓stores_shape, ↓stores_ite_snd, ite_self]

theorem stores_startFrame (l b t gbps : Nat) (q : QFrame) (s : State) : stores (startFrame l b t gbps q s) = stores s := by
  simp only [startFrame, ↓stores_emit, ↓stores_draw, ↓stores_modPtp, ↓stores_bump, ↓stores_modPort, ↓stores_flowCount, ↓stores_shape,
    ite_self]

theorem stores_shaperWait (l : Nat) (q : QFrame) (s : State) : stores (shaperWait l q s) = stores s := by
  simp only [shaperWait, ↓stores_modPort]

theorem stores_drr (l t gbps fuel idle : Nat) (s : State) : stores (drr l t gbps fuel idle s) = stores s := by
  induction fuel generalizing idle s with
  | zero => rfl
  | succ n ih =>
    rw [drr]
    split <;> simp only [↓ih, ↓stores_holdFrame, ↓stores_modPort, ↓stores_shaperWait, ↓stores_startFrame, ↓stores_shape, ite_self]

theorem stores_holdHead (l b : Nat) (q : QFrame) (s : State) : stores (holdHead l b q s) = stores s := by
  simp only [holdHead, ↓stores_holdFrame, ↓stores_shape, ite_self]

theorem stores_tryMedia (l t gbps : Nat) (s : State) : stores (tryMedia l t gbps s).2 = stores s := by
  unfold tryMedia
  dsimp only
  split <;> simp only [↓stores_modPort, ↓stores_takeFlowTok, ↓stores_pickMedia, ↓stores_startFrame, ↓stores_shaperWait, ↓stores_ite_snd,
    ite_self]

theorem stores_transmit (l t : Nat) (s : State) : stores (transmit l t s) = stores s := by
  unfold transmit
  extract_lets gbps p purged n after rest mgmt
  have hpurged : stores purged = stores s := by
    simp only [purged, ↓stores_purgeQueues, ↓stores_purge, ↓stores_modPort]
  have hrest : ∀ s, stores (rest s) = stores s := fun s => by
    simp only [rest, ↓stores_drr, ↓stores_tryMedia, ↓stores_shape, ↓stores_ite_snd, ite_self]
  have hmgmt : ∀ s, stores (mgmt s) = stores s := fun s => by
    dsimp only [mgmt]
    split <;> simp only [↓hrest, ↓stores_holdHead, ↓stores_modPort, ↓stores_startFrame, ↓stores_shape, ite_self]
  split
  · simp only [↓hpurged, ↓stores_bump, ↓stores_modPort]
  · split <;> simp only [↓hmgmt, ↓hpurged, ↓stores_holdHead, ↓stores_modPort, ↓stores_startFrame, ↓stores_shape, ite_self]

theorem stores_ancJoin (l i len : Nat) (ip : Option Dgram) (s : State) : stores (ancJoin l i len ip s) = stores s := by
  simp only [ancJoin, ↓stores_bump, ↓stores_modPort, ↓stores_shape, ite_self]

theorem stores_ancQueue (l i len : Nat) (s : State) : stores (ancQueue l i len s) = stores s := by
  simp only [ancQueue, ↓stores_ancJoin]

theorem stores_ancFrame (l i : Nat) (dg : Dgram) (s : State) : stores (ancFrame l i dg s) = stores s := by
  simp only [ancFrame, ↓stores_ancJoin]

theorem stores_serviceFrame (l i : Nat) (s : State) : stores (serviceFrame l i s) = stores s := by
  simp only [serviceFrame, ↓stores_draw, ↓stores_ancQueue]

theorem stores_stopFlows (fs : List Nat) (s : State) : stores (stopFlows fs s) = stores s := by
  simp only [stopFlows, ↓stores_modFlow, ↓stores_shape, stores_foldl, implies_true]

theorem stores_startFlows (fs : List Nat) (s : State) : stores (startFlows fs s) = stores s := by
  simp only [startFlows, ↓stores_modFlow, ↓stores_shape, stores_foldl, implies_true]

theorem stores_quenchPorts (d : Nat) (ls : List Nat) (s0 : State) : stores (quenchPorts d ls s0) = stores s0 := by
  simp only [quenchPorts, ↓stores_raiseBit, ↓stores_modPort, ↓stores_shape, stores_foldl, ite_self, implies_true]

theorem stores_unquenchPorts (ls : List Nat) (s : State) : stores (unquenchPorts ls s) = stores s := by
  simp only [unquenchPorts, ↓stores_modPort, ↓stores_shape, stores_foldl, implies_true]

theorem stores_setKeySlot (n : Nat) (k : KeySlot) (s : State) : stores (setKeySlot n k s) = stores s := by rfl

theorem stores_command (l sport : Nat) (b : Body) (s : State) : stores (command l sport b s) = stores s := by
  unfold command
  split <;> simp only [↓stores_bump, ↓stores_raiseBit, ↓stores_modPort, ↓stores_stopFlows, ↓stores_startFlows, ↓stores_quenchPorts,
    ↓stores_unquenchPorts, ↓stores_setKeySlot, ↓stores_shape, ite_self]

theorem stores_mgmtArrive (l len : Nat) (s : State) : stores (mgmtArrive l len s) = stores s := by
  simp only [mgmtArrive, ↓stores_bump, ↓stores_raiseBit, ↓stores_modPort, ↓stores_shape, ite_self]

theorem stores_takeWait (l : Nat) (s : State) : stores (takeWait l s) = stores s := by
  simp only [takeWait, ↓stores_modPort]

theorem stores_takeWaitsAll (s : State) : stores (takeWaitsAll s) = stores s := by
  simp only [takeWaitsAll, ↓stores_takeWait, stores_foldl, implies_true]

theorem stores_listTakesEffect (l : Nat) (s : State) : stores (listTakesEffect l s) = stores s := by
  simp only [listTakesEffect, ↓stores_bump, ↓stores_raiseBit, ↓stores_modPort, ↓stores_takeWait, ↓stores_shape, ite_self]

theorem stores_listStarts (l : Nat) (s : State) : stores (listStarts l s) = stores s := by
  unfold listStarts
  split <;> simp only [↓stores_bump, ↓stores_raiseBit, ↓stores_advance, ↓stores_modPort, ↓stores_takeWait, ↓stores_shape, ite_self]

theorem stores_gateBegins (l : Nat) (s : State) : stores (gateBegins l s) = stores s := by
  unfold gateBegins
  split <;> simp only [↓stores_advance, ↓stores_modPort, ↓stores_shape, ite_self]

theorem stores_quantaTakeEffect (old : Nat → Word) (s : State) : stores (quantaTakeEffect old s) = stores s := by
  simp only [quantaTakeEffect, ↓stores_modPort, ↓stores_shape, stores_foldl, ite_self, implies_true]

theorem stores_shapersTakeEffect (old : Nat → Word) (s : State) : stores (shapersTakeEffect old s) = stores s := by
  simp only [shapersTakeEffect, ↓stores_raiseBit, ↓stores_modPort, ↓stores_refillPort, ↓stores_shape, stores_foldl, ite_self, implies_true]

theorem stores_listsTakeEffect (old : Nat → Word) (s : State) : stores (listsTakeEffect old s) = stores s := by
  simp only [listsTakeEffect, ↓stores_listTakesEffect, ↓stores_shape, stores_foldl, ite_self, implies_true]

/-! ## Channels and their pictures -/

theorem stores_modChan (ch : Nat) (f : Chan → Chan) (s : State) : stores (modChan ch f s) = stores s := by rfl

theorem stores_toChState (ch : Nat) (c : ChState) (s : State) : stores (toChState ch c s) = stores s := by
  unfold toChState
  (repeat' split) <;> simp only [↓stores_bump, ↓stores_raiseBit, ↓stores_modChan, ↓stores_shape, ite_self]

theorem stores_modPic (ch n : Nat) (f : Pic → Pic) (s : State) : stores (modPic ch n f s) = stores s := by
  simp only [modPic, ↓stores_modChan]

theorem stores_modFur (ch n k : Nat) (f : Fur → Fur) (s : State) : stores (modFur ch n k f s) = stores s := by
  simp only [modFur, ↓stores_modPic]

/-! ## The yard -/

theorem stores_modSvc (v : Nat) (f : Svc → Svc) (s : State) : stores (modSvc v f s) = stores s := by rfl

theorem stores_enqueue (p : Pkt) (f : Nat) (c : FlowCfg) (path : Nat) (yoked : Bool) (s : State) :
    stores (enqueue p f c path yoked s) = stores s := by
  simp only [enqueue, ↓stores_modPort]

theorem stores_markUsed (n : Nat) (s : State) : stores (markUsed n s) = stores s := by
  simp only [markUsed, ↓stores_setKeySlot, ↓stores_shape, ite_self]

theorem stores_deliver (p : Pkt) (s : State) : stores (deliver p s) = stores s := by
  simp only [deliver, ↓stores_bump, ↓stores_enqueue, ↓stores_markUsed, ↓stores_shape, stores_foldl, ite_self, implies_true]

theorem stores_keepReplay (p : Pkt) (s : State) : stores (keepReplay p s) = stores s := by
  simp only [keepReplay, ↓stores_shape, ite_self]

theorem stores_modDsp (d : Nat) (f : Dsp → Dsp) (s : State) : stores (modDsp d f s) = stores s := by rfl

theorem stores_countWait (d : Nat) (a : Nat × Nat × Nat × Nat × Nat) (b : Nat) (s : State) : stores (countWait d a b s) = stores s := by
  unfold countWait
  split <;> simp only [↓stores_bump, ↓stores_modDsp]

theorem stores_recordEnded (d : Nat) (q : Nat × Nat × Nat × Nat × Nat → Bool) (s : State) : stores (recordEnded d q s) = stores s := by
  simp only [recordEnded, ↓stores_modDsp, ↓stores_countWait, stores_foldl, implies_true]

theorem stores_recordServed (d : Nat) (q : Item → Bool) (s : State) : stores (recordServed d q s) = stores s := by
  simp only [recordServed, ↓stores_countWait, stores_foldl, implies_true]

theorem stores_dropItems (ch : Nat) (q : Nat → Bool) (s : State) : stores (dropItems ch q s) = stores s := by
  simp only [dropItems, ↓stores_modDsp, ↓stores_recordEnded, ↓stores_recordServed]

theorem stores_settle (ch : Nat) (s : State) : stores (settle ch s) = stores s := by
  simp only [settle, ↓stores_bump, ↓stores_modYch, ↓stores_modChan, ↓stores_toChState, ↓stores_dropItems, ↓stores_shape, ite_self]

theorem stores_releaseNext (v : Nat) (s : State) : stores (releaseNext v s) = stores s := by
  unfold releaseNext
  split <;> simp only [↓stores_advance, ↓stores_modSvc, ↓stores_deliver, ↓stores_keepReplay, ↓stores_settle]

theorem stores_startSvc (v : Nat) (s : State) : stores (startSvc v s) = stores s := by
  simp only [startSvc, ↓stores_modSvc]

theorem stores_svcsAtBoundary (ch : Nat) (fresh : Bool) (s : State) : stores (svcsAtBoundary ch fresh s) = stores s := by
  simp only [svcsAtBoundary, ↓stores_modSvc, ↓stores_startSvc, ↓stores_shape, stores_foldl, ite_self, implies_true]

theorem stores_flowLeave (g : Nat → Word) (f : Nat) (s : State) : stores (flowLeave g f s) = stores s := by
  simp only [flowLeave, ↓stores_modFlow]

theorem stores_flowJoin (g : Nat → Word) (f v : Nat) (s : State) : stores (flowJoin g f v s) = stores s := by
  simp only [flowJoin, ↓stores_modFlow, ↓stores_resetFlowBucket]

theorem stores_svcsLapse (s : State) : stores (svcsLapse s) = stores s := by
  simp only [svcsLapse, ↓stores_modSvc, ↓stores_shape, stores_foldl, ite_self, implies_true]

theorem stores_flowAtBoundary (g : Nat → Word) (v f : Nat) (s : State) : stores (flowAtBoundary g v f s) = stores s := by
  simp only [flowAtBoundary, ↓stores_modFlow, ↓stores_resetFlowBucket, ↓stores_flowLeave, ↓stores_flowJoin, ↓stores_shape, ite_self]

theorem stores_flowsAtBoundary (g : Nat → Word) (v : Nat) (s : State) : stores (flowsAtBoundary g v s) = stores s := by
  simp only [flowsAtBoundary, ↓stores_flowAtBoundary, stores_foldl, implies_true]

theorem stores_chFlows (ch : Nat) (first : Bool) (s : State) : stores (chFlows ch first s) = stores s := by
  simp only [chFlows, ↓stores_flowsAtBoundary, stores_foldl, implies_true]

theorem stores_idleFlows (s : State) : stores (idleFlows s) = stores s := by
  refine stores_foldl _ _ _ fun s f => ?_
  split <;> simp only [↓stores_flowLeave, ↓stores_shape, ite_self]

/-! ## Memory -/

theorem stores_dramSet (d a : Nat) (b : Byte) (s : State) : stores (dramSet d a b s) = stores s := by rfl

theorem stores_dramWrite (d a : Nat) (bs : List Byte) (s : State) : stores (dramWrite d a bs s) = stores s := by
  induction bs generalizing a s with
  | nil => rfl
  | cons b bs ih => rw [dramWrite, ih, stores_dramSet]

theorem stores_modMc (d : Nat) (f : Mc → Mc) (s : State) : stores (modMc d f s) = stores s := by rfl

theorem stores_modMch (d i : Nat) (f : Mch → Mch) (s : State) : stores (modMch d i f s) = stores s := by
  simp only [modMch, ↓stores_modMc]

theorem stores_eccCorrect (d : Nat) (s : State) : stores (eccCorrect d s) = stores s := by
  simp only [eccCorrect, ↓stores_bump, ↓stores_raiseBit]

theorem stores_eccBad (d w who : Nat) (s : State) : stores (eccBad d w who s) = stores s := by
  simp only [eccBad, ↓stores_bump, ↓stores_raiseBit, ↓stores_modMc, ↓stores_shape, ite_self]

theorem stores_meetSoft (d w : Nat) (s : State) : stores (meetSoft d w s) = stores s := by
  simp only [meetSoft, ↓stores_eccCorrect, ↓stores_shape]

theorem stores_leaveBad (d w : Nat) (s : State) : stores (leaveBad d w s) = stores s := by
  simp only [leaveBad, ↓stores_shape, ite_self]

theorem stores_countRead (d w : Nat) (s : State) : stores (countRead d w s) = stores s := by
  simp only [countRead, ↓stores_bump]

theorem stores_countWrite (d w : Nat) (s : State) : stores (countWrite d w s) = stores s := by
  simp only [countWrite, ↓stores_bump]

theorem stores_storeWord (d w : Nat) (whole : Bool) (e : EccEvent) (s : State) : stores (storeWord d w whole e s) = stores s := by
  simp only [storeWord, ↓stores_eccCorrect, ↓stores_countRead, ↓stores_countWrite, ↓stores_shape, ite_self]

theorem stores_storeWords (d a n : Nat) (s : State) : stores (storeWords d a n s) = stores s := by
  simp only [storeWords, ↓stores_storeWord, stores_foldl, implies_true]

theorem stores_dramStore (d a : Nat) (bs : List Byte) (s : State) : stores (dramStore d a bs s) = stores s := by
  simp only [dramStore, ↓stores_dramWrite, ↓stores_storeWords]

theorem stores_dramWrite32 (d a v : Nat) (s : State) : stores (dramWrite32 d a v s) = stores s := by
  simp only [dramWrite32, ↓stores_dramStore]

theorem stores_correctIn (ls : List MemRange) (s : State) : stores (correctIn ls s) = stores s := by
  simp only [correctIn, ↓stores_eccCorrect, stores_foldl, implies_true]

/-! ## Ingest -/

theorem stores_modSlot (d n : Nat) (f : Slot → Slot) (s : State) : stores (modSlot d n f s) = stores s := by rfl

theorem stores_modSlotPic (d n m : Nat) (f : SlotPic → SlotPic) (s : State) : stores (modSlotPic d n m f s) = stores s := by
  simp only [modSlotPic, ↓stores_modSlot]

theorem stores_modEntry (e : Nat) (f : Entry → Entry) (s : State) : stores (modEntry e f s) = stores s := by rfl

theorem stores_entCount (e i x : Nat) (s : State) : stores (entCount e i x s) = stores s := by
  simp only [entCount, ↓stores_modEntry]

theorem stores_lookDown (e t : Nat) (s0 : State) : stores (lookDown e t s0) = stores s0 := by
  simp only [lookDown, ↓stores_raiseBit, ↓stores_modEntry, ↓stores_shape, ite_self]

theorem stores_copyPassed (e t : Nat) (s : State) : stores (copyPassed e t s) = stores s := by
  simp only [copyPassed, ↓stores_modEntry, ↓stores_lookDown, ↓stores_shape, ite_self]

theorem stores_police (e t len : Nat) (s : State) : stores (police e t len s).2 = stores s := by
  simp only [police, ↓stores_bump, ↓stores_raiseBit, ↓stores_modEntry, ↓stores_entCount, ↓stores_copyPassed, ↓stores_ite_snd, ite_self]

theorem stores_mergeCopy (e t bits q : Nat) (s : State) : stores (mergeCopy e t bits q s).2 = stores s := by
  unfold mergeCopy
  dsimp only
  (repeat' split) <;> simp only [↓stores_bump, ↓stores_raiseBit, ↓stores_entCount, ↓stores_shape]

theorem stores_completeFurrows (ch m : Nat) (s : State) : stores (completeFurrows ch m s) = stores s := by
  unfold completeFurrows
  split <;> simp only [↓stores_modFur, ↓stores_shape, stores_foldl, ite_self, implies_true]

theorem stores_completeFrom (ch m : Nat) (s : State) : stores (completeFrom ch m s) = stores s := by
  simp only [completeFrom, ↓stores_completeFurrows, stores_foldl, implies_true]

theorem stores_updateReady (d n m : Nat) (s : State) : stores (updateReady d n m s) = stores s := by
  simp only [updateReady, ↓stores_modSlot, ↓stores_modSlotPic, ↓stores_completeFrom, ↓stores_shape, stores_foldl, ite_self, implies_true]

theorem stores_keepLine (d n m y : Nat) (s : State) : stores (keepLine d n m y s) = stores s := by
  simp only [keepLine, ↓stores_modSlotPic, ↓stores_shape, ite_self]

theorem stores_lineStored (d n m y i k : Nat) (s : State) : stores (lineStored d n m y i k s) = stores s := by
  simp only [lineStored, ↓stores_storeWords]

theorem stores_putSegment (d n m t : Nat) (g : Seg) (s : State) : stores (putSegment d n m t g s) = stores s := by
  simp only [putSegment, ↓stores_bump, ↓stores_raiseBit, ↓stores_modSlotPic, ↓stores_keepLine, ↓stores_lineStored, ↓stores_shape, ite_self]

theorem stores_takeVideo (e t ts : Nat) (fieldBit : Bool) (segs : List Seg) (s : State) :
    stores (takeVideo e t ts fieldBit segs s) = stores s := by
  unfold takeVideo
  dsimp only
  (repeat' split) <;> simp only [↓stores_bump, ↓stores_raiseBit, ↓stores_updateReady, ↓stores_putSegment, stores_foldl, implies_true]

theorem stores_putAnc (d n m : Nat) (a : AncPkt) (s : State) : stores (putAnc d n m a s) = stores s := by
  simp only [putAnc, ↓stores_bump, ↓stores_storeWords, ↓stores_modSlotPic, ↓stores_shape, ite_self]

theorem stores_takeAnc (e t ts : Nat) (pkts : List AncPkt) (s : State) : stores (takeAnc e t ts pkts s) = stores s := by
  unfold takeAnc
  dsimp only
  split <;> simp only [↓stores_bump, ↓stores_raiseBit, ↓stores_putAnc, ↓stores_shape, stores_foldl, ite_self, implies_true]

theorem stores_lineFillOp (d n m y : Nat) (s : State) : stores (lineFillOp d n m y s) = stores s := by
  simp only [lineFillOp, ↓stores_bump, ↓stores_raiseBit, ↓stores_advance, ↓stores_modSlotPic, ↓stores_lineStored, ↓stores_shape, ite_self]

theorem stores_fillEndOp (d n m y : Nat) (s : State) : stores (fillEndOp d n m y s) = stores s := by
  simp only [fillEndOp, ↓stores_modSlotPic, ↓stores_updateReady, ↓stores_shape, ite_self]

theorem stores_entriesTakeEffect (old : Nat → Word) (oldT : Tbl Word) (s : State) : stores (entriesTakeEffect old oldT s) = stores s := by
  simp only [entriesTakeEffect, ↓stores_emitOn, ↓stores_serviceFrame, ↓stores_modEntry, ↓stores_shape, stores_foldl, ite_self, implies_true]

theorem stores_slotsTakeEffect (old : Nat → Word) (oldT : Tbl Word) (s : State) : stores (slotsTakeEffect old oldT s) = stores s := by
  simp only [slotsTakeEffect, ↓stores_modSlot, ↓stores_shape, stores_foldl, ite_self, implies_true]

theorem stores_pathDownOp (e t : Nat) (s : State) : stores (pathDownOp e t s) = stores s := by
  simp only [pathDownOp, ↓stores_advance, ↓stores_lookDown, ↓stores_shape, ite_self]

theorem stores_igmpReportOp (e : Nat) (s : State) : stores (igmpReportOp e s) = stores s := by
  simp only [igmpReportOp, ↓stores_emitOn, ↓stores_serviceFrame, ↓stores_shape, ite_self]

/-! ## Audio flows and TDM ports -/

theorem stores_modAflow (f : Nat) (g : AFlow → AFlow) (s : State) : stores (modAflow f g s) = stores s := by rfl

theorem stores_modTdm (p : Nat) (g : Tdm → Tdm) (s : State) : stores (modTdm p g s) = stores s := by rfl

theorem stores_noteTdm (p : Nat) (s : State) : stores (noteTdm p s) = stores s := by
  simp only [noteTdm, ↓stores_modTdm, ↓stores_shape, ite_self]

theorem stores_marksCleared (m : Nat) (s0 s : State) : stores (marksCleared m s0 s) = stores s := by
  simp only [marksCleared, ↓stores_modAflow, ↓stores_modTdm, ↓stores_shape, stores_foldl, ite_self, implies_true]

theorem stores_sampleReadyOp (f : Nat) (s0 : State) : stores (sampleReadyOp f s0) = stores s0 := by
  simp only [sampleReadyOp, ↓stores_bump, ↓stores_raiseBit, ↓stores_advance, ↓stores_modAflow, ↓stores_shape, stores_foldl, ite_self,
    implies_true]

theorem stores_aflTimeout (f k : Nat) (s : State) : stores (aflTimeout f k s) = stores s := by
  simp only [aflTimeout, ↓stores_bump, ↓stores_raiseBit, ↓stores_modAflow, ↓stores_shape, ite_self]

theorem stores_aflMarkClear (f k : Nat) (s0 : State) : stores (aflMarkClear f k s0) = stores s0 := by
  simp only [aflMarkClear, ↓stores_modAflow, ↓stores_marksCleared, ↓stores_shape, ite_self]

theorem stores_takeAudio (e t ts chans width count : Nat) (samples : List Int) (s : State) :
    stores (takeAudio e t ts chans width count samples s) = stores s := by
  simp only [takeAudio, ↓stores_bump, ↓stores_modAflow, ↓stores_shape, ite_self]

theorem stores_audioRelease (v : Nat) (s : State) : stores (audioRelease v s) = stores s := by
  simp only [audioRelease, ↓stores_emit, ↓stores_bump, ↓stores_advance, ↓stores_modSvc, ↓stores_deliver, ↓stores_shape, ite_self]

theorem stores_aflowTakesEffect (old : Nat → Word) (f : Nat) (s : State) : stores (aflowTakesEffect old f s) = stores s := by
  simp only [aflowTakesEffect, ↓stores_modAflow, ↓stores_shape, ite_self]

theorem stores_asvcTakesEffect (old : Nat → Word) (f j : Nat) (s : State) : stores (asvcTakesEffect old f j s) = stores s := by
  simp only [asvcTakesEffect, ↓stores_modSvc, ↓stores_shape, ite_self]

theorem stores_aflowsTakeEffect (old : Nat → Word) (s : State) : stores (aflowsTakeEffect old s) = stores s := by
  simp only [aflowsTakeEffect, ↓stores_aflowTakesEffect, ↓stores_asvcTakesEffect, stores_foldl, implies_true]

theorem stores_audioFlowsAtBoundary (s : State) : stores (audioFlowsAtBoundary s) = stores s := by
  simp only [audioFlowsAtBoundary, ↓stores_flowsAtBoundary, stores_foldl, implies_true]

theorem stores_tdmTo (p : Nat) (st : TdmState) (s : State) : stores (tdmTo p st s) = stores s := by
  unfold tdmTo
  dsimp only
  split <;> simp only [↓stores_raiseBit, ↓stores_modTdm, ↓stores_shape, ite_self]

theorem stores_unmuteSlots (p : Nat) (l : List Nat) (s : State) : stores (unmuteSlots p l s) = stores s := by
  simp only [unmuteSlots, ↓stores_modTdm]

theorem stores_tdmRestart (p : Nat) (s : State) : stores (tdmRestart p s) = stores s := by
  simp only [tdmRestart, ↓stores_bump, ↓stores_raiseBit, ↓stores_modTdm, ↓stores_tdmTo, ↓stores_unmuteSlots]

theorem stores_tdmApply (p : Nat) (s : State) : stores (tdmApply p s) = stores s := by
  simp only [tdmApply, ↓stores_modTdm, ↓stores_unmuteSlots]

theorem stores_tdmMarks (p : Nat) (f : TdmIn) (l : List Int) (n : Nat) (s0 : State) : stores (tdmMarks p f l n s0) = stores s0 := by
  simp only [tdmMarks, ↓stores_bump, ↓stores_raiseBit, ↓stores_modTdm, ↓stores_marksCleared, ↓stores_shape, stores_foldl, ite_self,
    implies_true]

theorem stores_tdmStore (p : Nat) (l : List Int) (slips : List Nat) (ppm : Int) (n : Nat) (s : State) :
    stores (tdmStore p l slips ppm n s) = stores s := by
  simp only [tdmStore, ↓stores_bump, ↓stores_raiseBit, ↓stores_modTdm, ↓stores_shape, stores_foldl, ite_self, implies_true]

theorem stores_outRun (p i n : Nat) (s : State) : stores (outRun p i n s) = stores s := by
  simp only [outRun, ↓stores_modTdm]

theorem stores_outStep (p i t : Nat) (f : TdmIn) (s : State) : stores (outStep p i t f s).2 = stores s := by
  simp only [outStep, ↓stores_bump, ↓stores_raiseBit, ↓stores_outRun, ↓stores_shape, ite_self]

theorem stores_tdmDrive (p : Nat) (f : TdmIn) (mute dry : Bool) (s : State) : stores (tdmDrive p f mute dry s) = stores s := by
  unfold tdmDrive
  split
  · rfl
  · rw [stores_emit]
    refine stores_foldl_snd _ _ _ fun a i => ?_
    simp only [↓stores_outStep, ↓stores_ite_snd, ite_self]

theorem stores_tdmTrack (p : Nat) (ppm : Int) (s : State) : stores (tdmTrack p ppm s) = stores s := by
  simp only [tdmTrack, ↓stores_bump, ↓stores_raiseBit, ↓stores_modTdm, ↓stores_tdmTo, ↓stores_shape, ite_self]

theorem stores_tdmFifo (p : Nat) (f : TdmIn) (s : State) : stores (tdmFifo p f s) = stores s := by
  simp only [tdmFifo, ↓stores_draw, ↓stores_bump, ↓stores_raiseBit, ↓stores_modTdm, ↓stores_tdmTo, ↓stores_shape, ite_self]

theorem stores_unmuteStopped (p : Nat) (s : State) : stores (unmuteStopped p s) = stores s := by
  simp only [unmuteStopped, ↓stores_modTdm, ↓stores_unmuteSlots]

theorem stores_tdmGood (p : Nat) (f : TdmIn) (s : State) : stores (tdmGood p f s) = stores s := by
  simp only [tdmGood, ↓stores_bump, ↓stores_raiseBit, ↓stores_modTdm, ↓stores_tdmTo, ↓stores_tdmMarks, ↓stores_tdmStore, ↓stores_tdmDrive,
    ↓stores_tdmTrack, ↓stores_tdmFifo, ↓stores_unmuteStopped, ↓stores_shape, ite_self]

theorem stores_tdmGlitch (p : Nat) (f : TdmIn) (s : State) : stores (tdmGlitch p f s) = stores s := by
  simp only [tdmGlitch, ↓stores_bump, ↓stores_raiseBit, ↓stores_modTdm, ↓stores_tdmTo, ↓stores_tdmStore, ↓stores_shape, ite_self]

theorem stores_tdmFrameOp (p : Nat) (f0 : TdmIn) (s : State) : stores (tdmFrameOp p f0 s) = stores s := by
  simp only [tdmFrameOp, ↓stores_bump, ↓stores_advance, ↓stores_modTdm, ↓stores_noteTdm, ↓stores_tdmRestart, ↓stores_tdmApply,
    ↓stores_tdmDrive, ↓stores_tdmGood, ↓stores_tdmGlitch, ↓stores_shape, ite_self]

theorem stores_tdmClockStopOp (p : Nat) (s : State) : stores (tdmClockStopOp p s) = stores s := by
  simp only [tdmClockStopOp, ↓stores_bump, ↓stores_raiseBit, ↓stores_modTdm, ↓stores_noteTdm, ↓stores_tdmTo, ↓stores_shape, ite_self]

theorem stores_tdmClockReturnOp (p : Nat) (ppm : Int) (s : State) : stores (tdmClockReturnOp p ppm s) = stores s := by
  simp only [tdmClockReturnOp, ↓stores_modTdm, ↓stores_tdmTo, ↓stores_shape, ite_self]

theorem stores_tdmFaultClearOp (p : Nat) (s : State) : stores (tdmFaultClearOp p s) = stores s := by
  simp only [tdmFaultClearOp, ↓stores_modTdm, ↓stores_shape, ite_self]

theorem stores_tdmTimeout (p i : Nat) (s : State) : stores (tdmTimeout p i s) = stores s := by
  unfold tdmTimeout
  dsimp only
  split <;> simp only [↓stores_bump, ↓stores_raiseBit, ↓stores_modTdm, ↓stores_outRun, ↓stores_shape, ite_self]

theorem stores_tdmMarkClear (p i : Nat) (s0 : State) : stores (tdmMarkClear p i s0) = stores s0 := by
  simp only [tdmMarkClear, ↓stores_modTdm, ↓stores_marksCleared, ↓stores_shape, ite_self]

theorem stores_tdmTakesEffect (old : Nat → Word) (p : Nat) (s : State) : stores (tdmTakesEffect old p s) = stores s := by
  simp only [tdmTakesEffect, ↓stores_modTdm, ↓stores_noteTdm, ↓stores_tdmTo, ↓stores_shape, stores_foldl, ite_self, implies_true]

theorem stores_tdmsTakeEffect (old : Nat → Word) (s : State) : stores (tdmsTakeEffect old s) = stores s := by
  simp only [tdmsTakeEffect, ↓stores_tdmTakesEffect, stores_foldl, implies_true]

/-! ## Decode sources -/

theorem stores_modDec (d n : Nat) (f : Dec → Dec) (s : State) : stores (modDec d n f s) = stores s := by rfl

theorem stores_decConds (d : Nat) (s0 s : State) : stores (decConds d s0 s) = stores s := by
  simp only [decConds, ↓stores_raiseBit, ↓stores_shape, ite_self]

theorem stores_decsSettle (s : State) : stores (decsSettle s) = stores s := by
  simp only [decsSettle, ↓stores_modDec, ↓stores_decConds, ↓stores_shape, stores_foldl, ite_self, implies_true]

theorem stores_openAu (d n tau t : Nat) (s : State) : stores (openAu d n tau t s) = stores s := by
  simp only [openAu, ↓stores_raiseBit, ↓stores_modDec, ↓stores_shape, ite_self]

theorem stores_reopenAu (d n tau : Nat) (s : State) : stores (reopenAu d n tau s) = stores s := by
  unfold reopenAu
  split <;> simp only [↓stores_modDec]

theorem stores_decChunk (d n t : Nat) (k : Chunk) (s : State) : stores (decChunk d n t k s) = stores s := by
  unfold decChunk
  dsimp only
  (repeat' split) <;> simp only [↓stores_raiseBit, ↓stores_storeWords, ↓stores_modDec, ↓stores_openAu, ↓stores_reopenAu, stores_foldl,
    implies_true]

theorem stores_decFlush (d n t : Nat) (s : State) : stores (decFlush d n t s) = stores s := by
  simp only [decFlush, ↓stores_modDec, ↓stores_decChunk, ↓stores_shape, ite_self]

theorem stores_decPacket (d n : Nat) (w : RtpIn) (s : State) : stores (decPacket d n w s) = stores s := by
  simp only [decPacket, ↓stores_modDec, ↓stores_decChunk, ↓stores_decFlush, ↓stores_shape, stores_foldl, ite_self, implies_true]

theorem stores_decDrain (d n fuel : Nat) (s : State) : stores (decDrain d n fuel s) = stores s := by
  induction fuel generalizing s with
  | zero => rfl
  | succ n ih =>
    rw [decDrain]
    split <;> simp only [↓ih, ↓stores_decFlush, ↓stores_decPacket, ↓stores_modDec, ↓stores_shape, ite_self]

theorem stores_gapLost (d n : Nat) (s : State) : stores (gapLost d n s) = stores s := by
  unfold gapLost
  dsimp only
  split <;> simp only [↓stores_advance, ↓stores_modDec, ↓stores_decDrain]

theorem stores_takeCompressed (d n q : Nat) (w : RtpIn) (s : State) : stores (takeCompressed d n q w s) = stores s := by
  simp only [takeCompressed, ↓stores_modDec, ↓stores_decDrain, ↓stores_shape, ite_self]

theorem stores_decRecover (d n : Nat) (s : State) : stores (decRecover d n s) = stores s := by
  simp only [decRecover, ↓stores_raiseBit, ↓stores_modDec, ↓stores_shape, ite_self]

theorem stores_concealFrom (d n idx : Nat) (s : State) : stores (concealFrom d n idx s) = stores s := by
  simp only [concealFrom, ↓stores_raiseBit, ↓stores_modDec, ↓stores_shape, ite_self]

theorem stores_decFinish (d n : Nat) (j0 : DecJob) (s : State) : stores (decFinish d n j0 s) = stores s := by
  simp only [decFinish, ↓stores_bump, ↓stores_raiseBit, ↓stores_storeWords, ↓stores_modDec, ↓stores_concealFrom, ↓stores_shape, ite_self]

theorem stores_decBegin (d n : Nat) (c : DecCfg) (a : AuSt) (au : AccessUnit) (s : State) : stores (decBegin d n c a au s) = stores s := by
  simp only [decBegin, ↓stores_bump, ↓stores_raiseN, ↓stores_modDec, ↓stores_decRecover, ↓stores_concealFrom, ↓stores_decFinish,
    ↓stores_shape, ite_self]

theorem stores_setAnchor (d n : Nat) (an : Option (Nat × Nat)) (s : State) : stores (setAnchor d n an s) = stores s := by
  simp only [setAnchor, ↓stores_raiseN, ↓stores_modDec, ↓stores_shape, ite_self]

theorem stores_dropAu (d n : Nat) (a : AuSt) (s : State) : stores (dropAu d n a s) = stores s := by
  simp only [dropAu, ↓stores_modDec]

theorem stores_decEnter (d n : Nat) (c : DecCfg) (a : AuSt) (au : AccessUnit) (s0 s : State) :
    stores (decEnter d n c a au s0 s) = stores s := by
  simp only [decEnter, ↓stores_modDec, ↓stores_decConds, ↓stores_decBegin, ↓stores_setAnchor, ↓stores_shape, ite_self]

theorem stores_accessUnitOp (d n : Nat) (au0 : AccessUnit) (s00 : State) : stores (accessUnitOp d n au0 s00) = stores s00 := by
  unfold accessUnitOp
  dsimp only
  (repeat' split) <;> simp only [↓stores_raiseBit, ↓stores_advance, ↓stores_modDec, ↓stores_decConds, ↓stores_decFlush, ↓stores_decBegin,
    ↓stores_setAnchor, ↓stores_dropAu, ↓stores_decEnter]

theorem stores_slicePointOp (d n : Nat) (damaged : Bool) (area : List (Nat × Nat)) (s : State) :
    stores (slicePointOp d n damaged area s) = stores s := by
  unfold slicePointOp
  split <;> simp only [↓stores_raiseBit, ↓stores_modDec, ↓stores_concealFrom, ↓stores_decFinish, ↓stores_shape, ite_self]

theorem stores_dueTimeOp (d n : Nat) (s : State) : stores (dueTimeOp d n s) = stores s := by
  unfold dueTimeOp
  split <;> simp only [↓stores_raiseN, ↓stores_advance, ↓stores_concealFrom, ↓stores_decFinish]

/-! ## The paddock -/

theorem stores_modLayer (i : Nat) (f : LayerSt → LayerSt) (s : State) : stores (modLayer i f s) = stores s := by rfl

theorem stores_modGroup (d g : Nat) (f : Group → Group) (s : State) : stores (modGroup d g f s) = stores s := by rfl

theorem stores_markStale (ch n i : Nat) (missing : Bool) (s : State) : stores (markStale ch n i missing s) = stores s := by
  unfold markStale
  split <;> simp only [↓stores_bump, ↓stores_raiseBit, ↓stores_modPic, ↓stores_shape, ite_self]

theorem stores_selectLive (ch n i : Nat) (p : Pic) (s : State) : stores (selectLive ch n i p s) = stores s := by
  unfold selectLive
  split <;> simp only [↓stores_bump, ↓stores_raiseBit, ↓stores_modPic, ↓stores_modLayer, ↓stores_shape, ite_self]

theorem stores_pinDec (v : ShownDec) (up : Bool) (s : State) : stores (pinDec v up s) = stores s := by
  simp only [pinDec, ↓stores_modDec]

theorem stores_selectDecoded (ch n i : Nat) (p : Pic) (s : State) : stores (selectDecoded ch n i p s) = stores s := by
  unfold selectDecoded
  dsimp only
  (repeat' split) <;> simp only [↓stores_bump, ↓stores_raiseBit, ↓stores_modPic, ↓stores_modLayer, ↓stores_markStale, ↓stores_pinDec]

theorem stores_leaveLayers (ch : Nat) (t : Tbl Word) (s : State) : stores (leaveLayers ch t s) = stores s := by
  simp only [leaveLayers, ↓stores_modLayer, stores_foldl, implies_true]

theorem stores_selectSources (ch n : Nat) (s : State) : stores (selectSources ch n s) = stores s := by
  unfold selectSources
  split <;> simp only [↓stores_modLayer, ↓stores_selectLive, ↓stores_selectDecoded, ↓stores_leaveLayers, ↓stores_shape, stores_foldl,
    ite_self, implies_true]

theorem stores_canvasStart (ch : Nat) (s : State) : stores (canvasStart ch s) = stores s := by
  simp only [canvasStart, ↓stores_modChan, ↓stores_modLayer, stores_foldl, implies_true]

theorem stores_writeReleased (d g v : Nat) (s : State) : stores (writeReleased d g v s) = stores s := by
  simp only [writeReleased, ↓stores_dramWrite32, ↓stores_modGroup]

theorem stores_fenceGroup (ch n : Nat) (t : Tbl Word) (s : State) (g : Nat) : stores (fenceGroup ch n t s g) = stores s := by
  simp only [fenceGroup, ↓stores_bump, ↓stores_raiseBit, ↓stores_modPic, ↓stores_dramWrite32, ↓stores_modGroup, ↓stores_markStale,
    ↓stores_writeReleased, ↓stores_shape, stores_foldl, ite_self, implies_true]

theorem stores_fenceReadOp (ch : Nat) (s : State) : stores (fenceReadOp ch s) = stores s := by
  unfold fenceReadOp
  split <;> simp only [↓stores_modPic, ↓stores_fenceGroup, ↓stores_shape, stores_foldl, ite_self, implies_true]

theorem stores_fencesTakeEffect (old : Nat → Word) (s : State) : stores (fencesTakeEffect old s) = stores s := by
  simp only [fencesTakeEffect, ↓stores_dramWrite32, ↓stores_shape, stores_foldl, ite_self, implies_true]

theorem stores_composeFurrow (ch : Nat) (p : Pic) (k : Nat) (left : List (Nat × Nat × Nat × Nat)) (s : State) :
    stores (composeFurrow ch p k left s) = stores s := by
  simp only [composeFurrow, ↓stores_dramStore, ↓stores_shape, stores_foldl, implies_true]

theorem stores_composeStartOp (ch k : Nat) (s : State) : stores (composeStartOp ch k s) = stores s := by
  unfold composeStartOp
  split <;> simp only [↓stores_modFur, ↓stores_shape, ite_self]

theorem stores_releaseFences (ch n : Nat) (s : State) : stores (releaseFences ch n s) = stores s := by
  refine stores_foldl _ _ _ fun s g => ?_
  dsimp only
  split <;> simp only [↓stores_writeReleased, ↓stores_modGroup]

theorem stores_unpinDecoded (p : Pic) (s : State) : stores (unpinDecoded p s) = stores s := by
  simp only [unpinDecoded, ↓stores_pinDec, stores_foldl, implies_true]

theorem stores_canvasPointOp (ch k : Nat) (left : List (Nat × Nat × Nat × Nat)) (s : State) :
    stores (canvasPointOp ch k left s) = stores s := by
  unfold canvasPointOp
  split <;> simp only [↓stores_bump, ↓stores_raiseBit, ↓stores_advance, ↓stores_modFur, ↓stores_markStale, ↓stores_composeFurrow,
    ↓stores_releaseFences, ↓stores_unpinDecoded, ↓stores_shape, stores_foldl, ite_self, implies_true]

theorem stores_sourceMissing (d n m : Nat) (s : State) : stores (sourceMissing d n m s) = stores s := by
  unfold sourceMissing
  dsimp only
  split
  · refine stores_foldl _ _ _ fun s e => stores_foldl _ _ _ fun s p => stores_foldl _ _ _ fun s l => ?_
    simp only [↓stores_markStale, ↓stores_shape, ite_self]
  · rfl

/-! ## The barn -/

theorem stores_releaseCkpt (ch : Nat) (s : State) : stores (releaseCkpt ch s) = stores s := by
  simp only [releaseCkpt, ↓stores_modChan, ↓stores_shape, ite_self]

theorem stores_takeCkpt (ch poc : Nat) (refs : List RefPic) (s : State) : stores (takeCkpt ch poc refs s) = stores s := by
  simp only [takeCkpt, ↓stores_bump, ↓stores_raiseBit, ↓stores_modChan]

theorem stores_forceCount (ch : Nat) (done : Bool) (s : State) : stores (forceCount ch done s) = stores s := by
  simp only [forceCount, ↓stores_bump, ↓stores_raiseBit, ↓stores_shape, ite_self]

/-! ## The drill -/

theorem stores_bumpInt (k n : Nat) (x : Int) (s : State) : stores (bumpInt k n x s) = stores s := by rfl

/-! ## Coding a CTU -/

theorem stores_dropRows (ch n samp y : Nat) (s : State) : stores (dropRows ch n samp y s) = stores s := by rfl

theorem stores_putCtu (ch : Nat) (g : Nat → Word) (p : Pic) (inp : RecIn) (y : CtuSyn) (s : State) :
    stores (putCtu ch g p inp y s) = stores s := by rfl

theorem stores_writePlane (d a : Nat) (f : Fmt) (samp k y0 y1 : Nat) (px : Nat → Nat → Nat) (s : State) :
    stores (writePlane d a f samp k y0 y1 px s) = stores s := by
  simp only [writePlane, ↓stores_dramStore, stores_foldl, implies_true]

theorem stores_writeFurrow (ch n k : Nat) (s : State) : stores (writeFurrow ch n k s) = stores s := by
  unfold writeFurrow
  split
  · rfl
  · split
    · rfl
    · rw [stores_modFur, stores_foldl]
      · exact stores_foldl _ _ _ fun s c => stores_writePlane ..
      · intro s x
        split <;> simp only [↓stores_dramStore]

theorem stores_leaveCache (ch : Nat) (p : Pic) (k : Nat) (s : State) : stores (leaveCache ch p k s) = stores s := by
  simp only [leaveCache, ↓stores_dropRows]

/-! ## The life of a picture -/

theorem stores_reportPlan (ch : Nat) (q : Plan) (s : State) : stores (reportPlan ch q s) = stores s := by
  unfold reportPlan
  (repeat' split) <;> simp only [↓stores_bump, ↓stores_raiseBit, ↓stores_forceCount]

theorem stores_beginPicture (ch n : Nat) (first : Bool) (s : State) : stores (beginPicture ch n first s) = stores s := by
  simp only [beginPicture, ↓stores_bump, ↓stores_raiseBit, ↓stores_modChan, ↓stores_svcsAtBoundary, ↓stores_completeFurrows,
    ↓stores_selectSources, ↓stores_canvasStart, ↓stores_takeCkpt, ↓stores_reportPlan, ↓stores_shape, ite_self]

theorem stores_plantOp (ch k : Nat) (s : State) : stores (plantOp ch k s) = stores s := by
  unfold plantOp
  split <;> simp only [↓stores_bump, ↓stores_raiseBit, ↓stores_advance, ↓stores_modFur, ↓stores_shape, ite_self]

theorem stores_logCtu (ch : Nat) (p : Pic) (k x : Nat) (e : CtuLog) (s : State) : stores (logCtu ch p k x e s) = stores s := by
  simp only [logCtu, ↓stores_raiseBit, ↓stores_modFur, ↓stores_putCtu, ↓stores_shape, ite_self]

theorem stores_ctuOp (ch k : Nat) (s : State) : stores (ctuOp ch k s) = stores s := by
  unfold ctuOp
  split <;> simp only [↓stores_bump, ↓stores_raiseBit, ↓stores_logCtu, ↓stores_shape, ite_self]

theorem stores_countLog (ch : Nat) (l : List CtuLog) (s : State) : stores (countLog ch l s) = stores s := by
  simp only [countLog, ↓stores_bump, ↓stores_bumpInt]

theorem stores_takeCaptions (ch : Nat) (p : Pic) (s : State) : stores (takeCaptions ch p s) = stores s := by
  unfold takeCaptions
  (repeat' split) <;> simp only [↓stores_bump, ↓stores_raiseBit, ↓stores_modChan, ↓stores_modPic, ↓stores_shape, ite_self]

theorem stores_pictureEnd (ch n : Nat) (s : State) : stores (pictureEnd ch n s) = stores s := by
  unfold pictureEnd
  split <;> simp only [↓stores_bump, ↓stores_raiseBit, ↓stores_modChan, ↓stores_modPic, ↓stores_takeCaptions, ↓stores_shape, ite_self]

theorem stores_fallowWrites (ch n k : Nat) (u : Fur) (s : State) : stores (fallowWrites ch n k u s) = stores s := by
  simp only [fallowWrites, ↓stores_writeFurrow, ↓stores_shape, ite_self]

theorem stores_codedOp (ch k : Nat) (s : State) : stores (codedOp ch k s) = stores s := by
  unfold codedOp
  split <;> simp only [↓stores_bump, ↓stores_raiseBit, ↓stores_modFur, ↓stores_leaveCache, ↓stores_countLog, ↓stores_pictureEnd,
    ↓stores_fallowWrites, ↓stores_shape, ite_self]

theorem stores_fallowRest (ch n k fuel : Nat) (s : State) : stores (fallowRest ch n k fuel s) = stores s := by
  induction fuel generalizing s with
  | zero => rfl
  | succ m ih =>
    rw [fallowRest]
    split <;> simp only [↓ih, ↓stores_logCtu, ↓stores_shape, ite_self]

theorem stores_deadlineOp (ch k cut : Nat) (s : State) : stores (deadlineOp ch k cut s) = stores s := by
  unfold deadlineOp
  split <;> simp only [↓stores_bump, ↓stores_raiseN, ↓stores_raiseBit, ↓stores_advance, ↓stores_modFur, ↓stores_countLog,
    ↓stores_takeCaptions, ↓stores_fallowRest, ↓stores_shape, ite_self]

/-! ## Packing -/

theorem stores_queuePkt (x : PackCtx) (kind : Nat) (r : RtpPkt) (covers : List RtpPkt) (step ipLen sum : Nat) (first last : Bool)
    (s : State) : stores (queuePkt x kind r covers step ipLen sum first last s) = stores s := by
  simp only [queuePkt, ↓stores_modSvc]

theorem stores_queueFec (x : PackCtx) (kind : Nat) (covers : List RtpPkt) (sum : Nat) (s : State) :
    stores (queueFec x kind covers sum s).2 = stores s := by
  simp only [queueFec, ↓stores_bump, ↓stores_modSvc, ↓stores_queuePkt]

theorem stores_queueMedia (x : PackCtx) (b : List TByte) (first last : Bool) (sum : Nat) (s : State) :
    stores (queueMedia x b first last sum s).2 = stores s := by
  simp only [queueMedia, ↓stores_bump, ↓stores_raiseBit, ↓stores_modSvc, ↓stores_queuePkt, ↓stores_queueFec, ↓stores_shape, ↓stores_ite_snd,
    ite_self]

theorem stores_queueAll (x : PackCtx) (bs : List (List TByte)) (first : Bool) (sum : Nat) (s : State) :
    stores (queueAll x bs first sum s) = stores s := by
  induction bs generalizing first sum s with
  | nil => rfl
  | cons b bs ih => rw [queueAll, ih, stores_queueMedia]

theorem stores_packFurrow (v ch n k : Nat) (s : State) : stores (packFurrow v ch n k s) = stores s := by
  unfold packFurrow
  (repeat' split) <;> simp only [↓stores_bump, ↓stores_modSvc, ↓stores_queueAll, ↓stores_shape, stores_foldl, ite_self, implies_true]

/-! ## The dispatcher -/

theorem stores_urgent (d : Nat) (s : State) : stores (urgent d s) = stores s := by
  simp only [urgent, ↓stores_bump, ↓stores_raiseBit]

theorem stores_noteReady (d : Nat) (s : State) : stores (noteReady d s) = stores s := by
  simp only [noteReady, ↓stores_modDsp, ↓stores_recordEnded]

theorem stores_noteUnits (d : Nat) (s : State) : stores (noteUnits d s) = stores s := by
  refine stores_foldl _ _ _ fun s i => ?_
  dsimp only
  split <;> simp only [↓stores_bump, ↓stores_modDsp, ↓stores_shape, ite_self]

theorem stores_releaseItems (d fuel : Nat) (s : State) : stores (releaseItems d fuel s) = stores s := by
  induction fuel generalizing s with
  | zero => rfl
  | succ n ih =>
    rw [releaseItems]
    split <;> simp only [↓ih, ↓stores_bump, ↓stores_modDsp]

theorem stores_wakeDie (d : Nat) (s : State) : stores (wakeDie d s) = stores s := by
  rw [wakeDie, stores_foldl]
  · rw [stores_noteUnits, stores_noteReady, stores_releaseItems, stores_modDsp]
  · intro s i
    split <;> simp only [↓stores_urgent, ↓stores_modDsp, ↓stores_shape, ite_self]

theorem stores_wakeItems (s : State) : stores (wakeItems s) = stores s := by
  simp only [wakeItems, ↓stores_wakeDie, stores_foldl, implies_true]

theorem stores_noteSlots (d : Nat) (s : State) : stores (noteSlots d s) = stores s := by
  simp only [noteSlots, ↓stores_modDsp]

theorem stores_itemCreateOp (d o : Nat) (s : State) : stores (itemCreateOp d o s) = stores s := by
  unfold itemCreateOp
  dsimp only
  (repeat' split) <;> simp only [↓stores_bump, ↓stores_raiseBit, ↓stores_modDsp, ↓stores_wakeDie, ↓stores_noteSlots]

theorem stores_reevaluateOp (d t : Nat) (s : State) : stores (reevaluateOp d t s) = stores s := by
  simp only [reevaluateOp, ↓stores_advance, ↓stores_modDsp, ↓stores_urgent, ↓stores_shape, stores_foldl, ite_self, implies_true]

theorem stores_dispatchOp (d unit t : Nat) (s : State) : stores (dispatchOp d unit t s) = stores s := by
  unfold dispatchOp
  dsimp only
  split <;> simp only [↓stores_bump, ↓stores_advance, ↓stores_modDsp, ↓stores_wakeDie, ↓stores_shape, ite_self]

theorem stores_endItem (d slot : Nat) (s : State) : stores (endItem d slot s).2 = stores s := by
  unfold endItem
  split <;> simp only [↓stores_bump, ↓stores_modDsp, ↓stores_countWait, ↓stores_writeFurrow, ↓stores_wakeDie, ↓stores_shape, ite_self]

theorem stores_withdrawn (d : Nat) (s : State) : stores (withdrawn d s) = stores s := by
  simp only [withdrawn, ↓stores_bump, ↓stores_raiseBit]

theorem stores_withdraw (d : Nat) (q : Item → Bool) (s : State) : stores (withdraw d q s) = stores s := by
  simp only [withdraw, ↓stores_modDsp, ↓stores_recordServed, ↓stores_withdrawn, stores_foldl, implies_true]

theorem stores_recreate (d : Nat) (q : Item → Bool) (s : State) : stores (recreate d q s) = stores s := by
  simp only [recreate, ↓stores_modDsp, ↓stores_withdrawn, stores_foldl, implies_true]

theorem stores_uncreateAfter (d o : Nat) (s : State) : stores (uncreateAfter d o s) = stores s := by
  unfold uncreateAfter
  split <;> simp only [↓stores_modDsp]

theorem stores_redoFurrow (d o ch n j : Nat) (s : State) : stores (redoFurrow d o ch n j s) = stores s := by
  simp only [redoFurrow, ↓stores_modFur, ↓stores_modDsp, ↓stores_withdrawn, ↓stores_recreate, stores_foldl, implies_true]

theorem stores_discardLater (ch n k cut : Nat) (s : State) : stores (discardLater ch n k cut s) = stores s := by
  unfold discardLater
  split <;> simp only [↓stores_uncreateAfter, ↓stores_redoFurrow, ↓stores_shape, stores_foldl, ite_self, implies_true]

theorem stores_withdrawFurrow (ch n k cut : Nat) (s : State) : stores (withdrawFurrow ch n k cut s) = stores s := by
  simp only [withdrawFurrow, ↓stores_wakeDie, ↓stores_withdraw, ↓stores_discardLater]

theorem stores_noteEngineLost (d : Nat) (s0 s : State) : stores (noteEngineLost d s0 s) = stores s := by
  simp only [noteEngineLost, ↓stores_raiseBit, ↓stores_shape, ite_self]

theorem stores_engineItems (d e : Nat) (s : State) : stores (engineItems d e s) = stores s := by
  simp only [engineItems, ↓stores_recreate]

/-! ## Rate conditions -/

theorem stores_yieldOnConditions (s : State) : stores (yieldOnConditions s) = stores s := by
  simp only [yieldOnConditions, ↓stores_yieldFor, ↓stores_shape, ite_self]

/-! ## The memory controller -/

theorem stores_rateConds (d : Nat) (s0 s : State) : stores (rateConds d s0 s) = stores s := by
  simp only [rateConds, ↓stores_bump, ↓stores_raiseBit, ↓stores_shape, ite_self]

theorem stores_payDue (d i : Nat) (s : State) : stores (payDue d i s) = stores s := by
  simp only [payDue, ↓stores_bump, ↓stores_modMch, ↓stores_shape, ite_self]

theorem stores_startPaying (d i : Nat) (s : State) : stores (startPaying d i s) = stores s := by
  simp only [startPaying, ↓stores_modMch, ↓stores_payDue, ↓stores_shape, ite_self]

theorem stores_refreshDue (d i : Nat) (s : State) : stores (refreshDue d i s) = stores s := by
  simp only [refreshDue, ↓stores_bump, ↓stores_modMch, ↓stores_payDue, ↓stores_shape, ite_self]

theorem stores_repay (d i : Nat) (s : State) : stores (repay d i s) = stores s := by
  simp only [repay, ↓stores_bump, ↓stores_modMch]

theorem stores_repayAll (d : Nat) (s : State) : stores (repayAll d s) = stores s := by
  simp only [repayAll, ↓stores_repay, stores_foldl, implies_true]

theorem stores_readClass (d i code : Nat) (periodic : Bool) (s : State) : stores (readClass d i code periodic s) = stores s := by
  simp only [readClass, ↓stores_bump, ↓stores_raiseBit, ↓stores_modMc, ↓stores_modMch, ↓stores_startPaying, ↓stores_shape, ite_self]

theorem stores_readCodes (d : Nat) (periodic : Bool) (i : Nat) (cs : List Nat) (s : State) :
    stores (readCodes d periodic i cs s) = stores s := by
  induction cs generalizing i s with
  | nil => rfl
  | cons c cs ih => simp only [readCodes, ↓ih, ↓stores_readClass, ↓stores_shape, ite_self]

theorem stores_readRound (d : Nat) (periodic : Bool) (codes : List Nat) (s0 : State) :
    stores (readRound d periodic codes s0) = stores s0 := by
  simp only [readRound, ↓stores_yieldOnConditions, ↓stores_rateConds, ↓stores_readCodes]

theorem stores_wakeClasses (d i : Nat) (cs : List Nat) (s : State) : stores (wakeClasses d i cs s) = stores s := by
  induction cs generalizing i s with
  | nil => rfl
  | cons c cs ih => simp only [wakeClasses, ↓ih, ↓stores_raiseBit, ↓stores_modMc, ↓stores_modMch, ↓stores_shape, ite_self]

theorem stores_readClasses (d : Nat) (codes : List Nat) (s0 : State) : stores (readClasses d codes s0) = stores s0 := by
  simp only [readClasses, ↓stores_rateConds, ↓stores_wakeClasses]

theorem stores_selfRefresh (d : Nat) (b : Bool) (s : State) : stores (selfRefresh d b s) = stores s := by
  simp only [selfRefresh, ↓stores_modMc, ↓stores_repayAll, ↓stores_shape, ite_self]

theorem stores_setLevel (d p l : Nat) (s : State) : stores (setLevel d p l s) = stores s := by
  simp only [setLevel, ↓stores_modMc]

theorem stores_stopPaying (d : Nat) (s : State) : stores (stopPaying d s) = stores s := by
  simp only [stopPaying, ↓stores_modMch, ↓stores_shape, stores_foldl, ite_self, implies_true]

theorem stores_levelTo (d p l : Nat) (s : State) : stores (levelTo d p l s) = stores s := by
  simp only [levelTo, ↓stores_bump, ↓stores_raiseBit, ↓stores_modMc, ↓stores_startPaying, ↓stores_setLevel, ↓stores_stopPaying,
    ↓stores_shape, stores_foldl, ite_self, implies_true]

theorem stores_trackAtBoundary (d : Nat) (s : State) : stores (trackAtBoundary d s) = stores s := by
  simp only [trackAtBoundary, ↓stores_bump, ↓stores_modDsp, ↓stores_modMc, ↓stores_shape, ite_self]

theorem stores_trackEnd (d : Nat) (s : State) : stores (trackEnd d s) = stores s := by
  simp only [trackEnd, ↓stores_bump, ↓stores_modDsp, ↓stores_shape, ite_self]

theorem stores_clearErr (d : Nat) (v : Word) (s : State) : stores (clearErr d v s) = stores s := by
  simp only [clearErr, ↓stores_modMc, ↓stores_shape, ite_self]

theorem stores_patrol (d : Nat) (singles doubles : List Nat) (s : State) : stores (patrol d singles doubles s) = stores s := by
  simp only [patrol, ↓stores_bump, ↓stores_eccCorrect, ↓stores_eccBad, ↓stores_leaveBad, ↓stores_countWrite, ↓stores_shape, stores_foldl,
    implies_true]

theorem stores_wipeAccess (d : Nat) (ws : List Nat) (s : State) : stores (wipeAccess d ws s) = stores s := by
  simp only [wipeAccess, ↓stores_bump, ↓stores_raiseBit, ↓stores_shape, ite_self]

theorem stores_aperReadWord (d w : Nat) (e : EccEvent) (s : State) : stores (aperReadWord d w e s).2 = stores s := by
  simp only [aperReadWord, ↓stores_eccBad, ↓stores_meetSoft, ↓stores_leaveBad, ↓stores_countRead, ↓stores_shape, ↓stores_ite_snd, ite_self]

theorem stores_aperReadWords (d : Nat) (ws : List Nat) (e : EccEvent) (s : State) : stores (aperReadWords d ws e s).2 = stores s := by
  induction ws generalizing e s with
  | nil => rfl
  | cons w ws ih => rw [aperReadWords, ih, stores_aperReadWord]

theorem stores_aperRead (x n : Nat) (e : EccEvent) (s : State) : stores (aperRead x n e s) = stores s := by
  simp only [aperRead, ↓stores_emit, ↓stores_bump, ↓stores_wipeAccess, ↓stores_aperReadWords]

theorem stores_aperWriteWord (d w : Nat) (l : List (Nat × Byte)) (e : EccEvent) (s : State) :
    stores (aperWriteWord d w l e s) = stores s := by
  simp only [aperWriteWord, ↓stores_dramSet, ↓stores_storeWord, ↓stores_shape, stores_foldl, ite_self, implies_true]

theorem stores_aperWriteWords (d a : Nat) (bs : List (Option Byte)) (ws : List Nat) (e : EccEvent) (s : State) :
    stores (aperWriteWords d a bs ws e s) = stores s := by
  induction ws generalizing e s with
  | nil => rfl
  | cons w ws ih => rw [aperWriteWords, ih, stores_aperWriteWord]

theorem stores_aperWrite (x : Nat) (bs : List (Option Byte)) (e : EccEvent) (s : State) : stores (aperWrite x bs e s) = stores s := by
  simp only [aperWrite, ↓stores_bump, ↓stores_wipeAccess, ↓stores_aperWriteWords]

/-! ## The interrupt controller -/

theorem stores_modSrc (n : Nat) (f : Src → Src) (s : State) : stores (modSrc n f s) = stores s := by rfl

theorem stores_startWake (d : Nat) (s : State) : stores (startWake d s) = stores s := by
  simp only [startWake, ↓stores_bump, ↓stores_shape]

theorem stores_wakeRequest (d : Nat) (s : State) : stores (wakeRequest d s) = stores s := by
  simp only [wakeRequest, ↓stores_startWake, ↓stores_shape, ite_self]

theorem stores_sendMsix (v : Nat) (s : State) : stores (sendMsix v s) = stores s := by
  simp only [sendMsix, ↓stores_emit, ↓stores_bump]

theorem stores_signalMsix (v t : Nat) (s : State) : stores (signalMsix v t s) = stores s := by
  simp only [signalMsix, ↓stores_sendMsix, ↓stores_shape, ite_self]

theorem stores_flushMsix (s : State) : stores (flushMsix s) = stores s := by
  simp only [flushMsix, ↓stores_sendMsix, ↓stores_shape, stores_foldl, ite_self, implies_true]

theorem stores_present (t n p : Nat) (s : State) : stores (present t n p s) = stores s := by
  simp only [present, ↓stores_signalMsix, ↓stores_shape, ite_self]

theorem stores_presentSource (t n : Nat) (s : State) : stores (presentSource t n s) = stores s := by
  unfold presentSource
  split <;> simp only [↓stores_present, ↓stores_shape, ite_self]

theorem stores_presentTo (t : Nat) (s : State) : stores (presentTo t s) = stores s := by
  unfold presentTo
  split <;> simp only [↓stores_presentSource]

theorem stores_redirect (n : Nat) (s : State) : stores (redirect n s) = stores s := by
  simp only [redirect, ↓stores_bump, ↓stores_raiseBit, ↓stores_modSrc]

theorem stores_enqueueWake (n t : Nat) (s : State) : stores (enqueueWake n t s) = stores s := by
  simp only [enqueueWake, ↓stores_bump, ↓stores_raiseBit, ↓stores_wakeRequest, ↓stores_redirect, ↓stores_shape, ite_self]

theorem stores_unqueue (n : Nat) (s : State) : stores (unqueue n s) = stores s := by rfl

theorem stores_queueSleepers (s : State) : stores (queueSleepers s) = stores s := by
  simp only [queueSleepers, ↓stores_enqueueWake, ↓stores_shape, stores_foldl, ite_self, implies_true]

theorem stores_evalIc (first : List (Nat × Nat)) (s : State) : stores (evalIc first s) = stores s := by
  simp only [evalIc, ↓stores_presentSource, ↓stores_presentTo, ↓stores_queueSleepers, stores_foldl, implies_true]

theorem stores_icTake (n : Nat) (s : State) : stores (icTake n s) = stores s := by
  simp only [icTake, ↓stores_bump, ↓stores_raiseBit, ↓stores_modSrc, ↓stores_shape, ite_self]

theorem stores_icMessage (n : Nat) (s : State) : stores (icMessage n s) = stores s := by
  simp only [icMessage, ↓stores_evalIc, ↓stores_icTake, ↓stores_shape, ite_self]

theorem stores_atSource (v : Word) (k : Nat → State → State) (s : State) (hk : ∀ n s, stores (k n s) = stores s) :
    stores (atSource v k s) = stores s := by
  simp only [atSource, ↓hk, ↓stores_bump, ↓stores_raiseBit, ↓stores_shape, ite_self]

theorem stores_icArriveAs (k : Nat → State → State) (sender : Nat) (s : State) (hk : ∀ n s, stores (k n s) = stores s) :
    stores (icArriveAs k sender s) = stores s := by
  unfold icArriveAs
  split <;> simp only [↓hk, ↓stores_shape]

theorem stores_icArrive (sender : Nat) (s : State) : stores (icArrive sender s) = stores s := by
  simp only [icArrive, ↓stores_icMessage, ↓stores_icArriveAs, implies_true]

theorem stores_icSend (sender : Nat) (v : Word) (s : State) : stores (icSend sender v s) = stores s := by
  simp only [icSend, ↓stores_atSource, ↓stores_shape, implies_true]

theorem stores_icClear (v : Word) (hit : Bool) (s : State) : stores (icClear v hit s) = stores s := by
  simp only [icClear, ↓stores_bump, ↓stores_modSrc, ↓stores_unqueue, ↓stores_evalIc, ↓stores_atSource, ↓stores_shape, ite_self,
    implies_true]

theorem stores_icEnable (v : Word) (b hit : Bool) (s : State) : stores (icEnable v b hit s) = stores s := by
  simp only [icEnable, ↓stores_bump, ↓stores_modSrc, ↓stores_evalIc, ↓stores_atSource, implies_true]

theorem stores_icMask (v : Word) (b hit : Bool) (s : State) : stores (icMask v b hit s) = stores s := by
  simp only [icMask, ↓stores_bump, ↓stores_modSrc, ↓stores_evalIc, ↓stores_atSource, implies_true]

theorem stores_icRemote (v : Word) (s : State) : stores (icRemote v s) = stores s := by
  simp only [icRemote, ↓stores_bump, ↓stores_raiseBit, ↓stores_sendRel, ↓stores_shape, ite_self]

theorem stores_icRemoteIn (n : Nat) (s : State) : stores (icRemoteIn n s) = stores s := by
  simp only [icRemoteIn, ↓stores_bump, ↓stores_raiseBit, ↓stores_icMessage, ↓stores_shape, ite_self]

theorem stores_icClaimEdge (t : Nat) (s : State) : stores (icClaimEdge t s) = stores s := by
  unfold icClaimEdge
  dsimp only
  split <;> simp only [↓stores_emit, ↓stores_bump, ↓stores_raiseBit, ↓stores_modSrc, ↓stores_unqueue, ↓stores_shape]

theorem stores_icClaim (t : Nat) (late : List Nat) (s : State) : stores (icClaim t late s) = stores s := by
  unfold icClaim
  dsimp only
  split <;> simp only [↓stores_bump, ↓stores_evalIc, ↓stores_shape, ite_self] <;>
    exact (stores_foldl_snd _ _ _ fun r x => stores_icArriveAs _ _ _ stores_icTake).trans (stores_icClaimEdge ..)

theorem stores_icComplete (t : Nat) (v : Word) (s : State) : stores (icComplete t v s) = stores s := by
  unfold icComplete
  dsimp only
  split <;> simp only [↓stores_bump, ↓stores_raiseBit, ↓stores_modSrc, ↓stores_evalIc, ↓stores_shape, ite_self]

theorem stores_routeSource (n : Nat) (v : Word) (s : State) : stores (routeSource n v s) = stores s := by
  simp only [routeSource, ↓stores_modSrc, ↓stores_wakeRequest, ↓stores_unqueue, ↓stores_evalIc, ↓stores_shape, ite_self]

theorem stores_wakeExpire (n : Nat) (s : State) : stores (wakeExpire n s) = stores s := by
  unfold wakeExpire
  split <;> simp only [↓stores_redirect, ↓stores_unqueue, ↓stores_evalIc, ↓stores_shape, ite_self]

theorem stores_targetsWoke (ts : List Nat) (s : State) : stores (targetsWoke ts s) = stores s := by
  simp only [targetsWoke, ↓stores_modSrc, ↓stores_evalIc, ↓stores_shape, stores_foldl, ite_self, implies_true]

theorem stores_restoreInterrupts (d : Nat) (s : State) : stores (restoreInterrupts d s) = stores s := by
  simp only [restoreInterrupts, ↓stores_targetsWoke, ↓stores_shape]

/-! ## Staging and commit sets -/

theorem stores_writeEntry (q w : Nat) (v : Word) (s : State) : stores (writeEntry q w v s) = stores s := by
  simp only [writeEntry, ↓stores_bump, ↓stores_raiseBit, ↓stores_shape, ite_self]

theorem stores_powerUp (l : List Nat) (s : State) : stores (powerUp l s) = stores s := by rfl

theorem stores_powerNeeded (s : State) : stores (powerNeeded s) = stores s := by
  simp only [powerNeeded, ↓stores_powerUp]

theorem words_bootChecked (q : Nat) (passed : Bool) (s : State) : wordsOf (stores (bootChecked q passed s)) = wordsOf (stores s) := by
  unfold bootChecked
  (repeat' split) <;> simp only [↓stores_raiseBit, ↓stores_shape, ↓words_ite, ↓words_mk, ite_self]

theorem stores_is05Checked (q : Nat) (passed : Bool) (s : State) : stores (is05Checked q passed s) = stores s := by
  simp only [is05Checked, ↓stores_emit, ↓stores_bump, ↓stores_shape, ite_self]

theorem words_failSet (q cause a : Nat) (s : State) : wordsOf (stores (failSet q cause a s)) = wordsOf (stores s) := by
  simp only [failSet, ↓stores_bump, ↓stores_raiseBit, ↓stores_raiseReport, ↓stores_modSet, ↓words_bootChecked, ↓stores_is05Checked,
    ↓stores_shape, ite_self]

theorem stores_admitLive (s0 s : State) : stores (admitLive s0 s) = stores s := by
  simp only [admitLive, ↓stores_modDsp, ↓stores_modMc, ↓stores_noteEngineLost, ↓stores_rateConds, stores_foldl, implies_true]

theorem words_domainFailed (x a : Nat) (s : State) : wordsOf (stores (domainFailed x a s)) = wordsOf (stores s) := by
  unfold domainFailed
  split <;> simp only [↓words_failSet, ↓stores_shape, ↓words_ite, ite_self]

theorem stores_sendVote (q result : Nat) (s : State) : stores (sendVote q result s) = stores s := by
  simp only [sendVote, ↓stores_sendRel]

theorem words_commitWrite (k : Nat) (v : Word) (s : State) : wordsOf (stores (commitWrite k v s)) = wordsOf (stores s) := by
  unfold commitWrite
  (repeat' split) <;> simp only [↓stores_bump, ↓stores_raiseBit, ↓stores_raiseReport, ↓stores_modSet, ↓words_failSet, ↓stores_shape,
    ↓words_ite, ite_self]

theorem stores_checkStart (s : State) : stores (checkStart s) = stores s := by
  unfold checkStart
  split <;> simp only [↓stores_modSet, ↓stores_shape]

/-! ## Firmware images, settings and keys -/

theorem stores_countFlash (prog era : Nat) (s : State) : stores (countFlash prog era s) = stores s := by
  simp only [countFlash, ↓stores_bump]

theorem stores_fwStart (b : BootResult) (s : State) : stores (fwStart b s) = stores s := by
  simp only [fwStart, ↓stores_bump, ↓stores_raiseBit, ↓stores_countFlash, ↓stores_shape, ite_self]

theorem stores_tackBoot (s : State) : stores (tackBoot s) = stores s := by
  simp only [tackBoot, ↓stores_draw, ↓stores_raiseBit, ↓stores_shape, ite_self]

theorem stores_fwBoot (err : Nat → Bool) (s : State) : stores (fwBoot err s) = stores s := by
  simp only [fwBoot, ↓stores_modPage, ↓stores_fwStart, ↓stores_tackBoot, ↓stores_shape, ite_self]

theorem stores_fwFail (cause where_ : Nat) (s : State) : stores (fwFail cause where_ s) = stores s := by
  simp only [fwFail, ↓stores_raiseBit, ↓stores_shape]

theorem stores_fwDone (s : State) : stores (fwDone s) = stores s := by
  simp only [fwDone, ↓stores_raiseBit, ↓stores_shape]

theorem stores_fwCommand (v : Word) (s : State) : stores (fwCommand v s) = stores s := by
  simp only [fwCommand, ↓stores_raiseBit, ↓stores_fwFail, ↓stores_shape, ite_self]

theorem stores_fwConfirmNow (s : State) : stores (fwConfirmNow s) = stores s := by
  simp only [fwConfirmNow, ↓stores_bump, ↓stores_raiseBit, ↓stores_shape, ite_self]

theorem stores_fwConfirm (v : Word) (s : State) : stores (fwConfirm v s) = stores s := by
  simp only [fwConfirm, ↓stores_fwConfirmNow, ↓stores_shape, ite_self]

theorem stores_fwWork (flashErr : Bool) (s : State) : stores (fwWork flashErr s) = stores s := by
  unfold fwWork
  dsimp only
  (repeat' split) <;> simp only [↓stores_countFlash, ↓stores_fwFail, ↓stores_fwDone, ↓stores_shape]

theorem stores_fwEnd (flashErr : Bool) (s : State) : stores (fwEnd flashErr s) = stores s := by
  simp only [fwEnd, ↓stores_fwConfirmNow, ↓stores_fwWork, ↓stores_shape, ite_self]

theorem stores_clearBufs (s : State) : stores (clearBufs s) = stores s := by rfl

theorem stores_tackRefuse (cause slot : Nat) (s : State) : stores (tackRefuse cause slot s) = stores s := by
  simp only [tackRefuse, ↓stores_bump, ↓stores_raiseBit, ↓stores_clearBufs, ↓stores_shape]

theorem stores_tackCommand (v : Word) (s : State) : stores (tackCommand v s) = stores s := by
  simp only [tackCommand, ↓stores_raiseBit, ↓stores_tackRefuse, ↓stores_shape, ite_self]

theorem stores_tackWork (s : State) : stores (tackWork s) = stores s := by
  unfold tackWork
  (repeat' split) <;> simp only [↓stores_bump, ↓stores_setKeySlot, ↓stores_shape]

theorem stores_tackEnd (s : State) : stores (tackEnd s) = stores s := by
  simp only [tackEnd, ↓stores_raiseBit, ↓stores_clearBufs, ↓stores_tackWork, ↓stores_shape, ite_self]

/-! ## The TIME block -/

theorem stores_setQuality (q : Nat) (s : State) : stores (setQuality q s) = stores s := by
  simp only [setQuality, ↓stores_bump, ↓stores_raiseBit, ↓stores_yieldOnConditions, ↓stores_shape, ite_self]

theorem stores_enterHold (s : State) : stores (enterHold s) = stores s := by
  simp only [enterHold, ↓stores_setQuality, ↓stores_shape, ite_self]

theorem stores_holdTick (s : State) : stores (holdTick s) = stores s := by
  simp only [holdTick, ↓stores_setQuality, ↓stores_shape, ite_self]

theorem stores_lockPtp (b : Nat) (s : State) : stores (lockPtp b s) = stores s := by
  simp only [lockPtp, ↓stores_setQuality, ↓stores_shape]

theorem stores_lockRef (s : State) : stores (lockRef s) = stores s := by
  simp only [lockRef, ↓stores_setQuality, ↓stores_shape, ite_self]

theorem stores_askStep (s : State) : stores (askStep s) = stores s := by
  simp only [askStep, ↓stores_shape, ite_self]

theorem stores_retarget (s : State) : stores (retarget s) = stores s := by
  simp only [retarget, ↓stores_enterHold, ↓stores_lockRef, ↓stores_askStep, ↓stores_shape, ite_self]

theorem stores_refuseRef (src : RefSource) (s : State) : stores (refuseRef src s) = stores s := by
  unfold refuseRef
  split <;> simp only [↓stores_bump, ↓stores_raiseBit, ↓stores_retarget, ↓stores_shape]

theorem stores_eligible (src : RefSource) (raw : Int) (s : State) : stores (eligible src raw s) = stores s := by
  unfold eligible
  (repeat' split) <;> simp only [↓stores_retarget, ↓stores_refuseRef, ↓stores_shape, ite_self]

theorem stores_stopRef (src : RefSource) (s : State) : stores (stopRef src s) = stores s := by
  unfold stopRef
  (repeat' split) <;> simp only [↓stores_bump, ↓stores_raiseBit, ↓stores_retarget, ↓stores_shape]

theorem stores_ptpLockOp (off : Int) (b : Nat) (s : State) : stores (ptpLockOp off b s) = stores s := by
  simp only [ptpLockOp, ↓stores_enterHold, ↓stores_lockPtp, ↓stores_shape, ite_self]

theorem stores_edgeOp (pps : Bool) (raw : Int) (s : State) : stores (edgeOp pps raw s) = stores s := by
  simp only [edgeOp, ↓stores_enterHold, ↓stores_lockRef, ↓stores_askStep, ↓stores_shape, ite_self]

theorem stores_glitchOp (pps : Bool) (s : State) : stores (glitchOp pps s) = stores s := by
  simp only [glitchOp, ↓stores_bump, ↓stores_raiseBit, ↓stores_shape, ite_self]

theorem stores_crystalFail (s : State) : stores (crystalFail s) = stores s := by
  simp only [crystalFail, ↓stores_setFault, ↓stores_yieldFor, ↓stores_shape]

theorem stores_refsTakeEffect (s : State) : stores (refsTakeEffect s) = stores s := by
  simp only [refsTakeEffect, ↓stores_retarget, ↓stores_shape]

theorem stores_stepChan (d : Int) (t ch : Nat) (s : State) : stores (stepChan d t ch s) = stores s := by
  simp only [stepChan, ↓stores_modChan, ↓stores_shape, ite_self]

theorem stores_stepQueues (d : Int) (s : State) : stores (stepQueues d s) = stores s := by rfl

theorem stores_applyStep (s : State) : stores (applyStep s) = stores s := by
  unfold applyStep
  dsimp only
  (repeat' split) <;> simp only [↓stores_bump, ↓stores_raiseBit, ↓stores_lockPtp, ↓stores_lockRef, ↓stores_stepChan, ↓stores_stepQueues,
    ↓stores_shape, stores_foldl, implies_true]

/-! ## The firmware's services -/

theorem stores_sapSend (f : Nat) (x : SdpDesc) (deletion : Bool) (s : State) : stores (sapSend f x deletion s) = stores s := by
  simp only [sapSend, ↓stores_bump, ↓stores_emitOn, ↓stores_ancFrame, ↓stores_shape, ite_self]

theorem stores_sdpStep (s : State) (f : Nat) : stores (sdpStep s f) = stores s := by
  simp only [sdpStep, ↓stores_raiseBit, ↓stores_sapSend, ↓stores_shape, ite_self]

theorem stores_sdpTakeEffect (s : State) : stores (sdpTakeEffect s) = stores s := by
  simp only [sdpTakeEffect, ↓stores_sdpStep, stores_foldl, implies_true]

theorem stores_sapAnnounceOp (s : State) : stores (sapAnnounceOp s) = stores s := by
  simp only [sapAnnounceOp, ↓stores_sapSend, stores_foldl, implies_true]

theorem stores_nmosOp (ok : Bool) (s : State) : stores (nmosOp ok s) = stores s := by
  simp only [nmosOp, ↓stores_bump, ↓stores_raiseBit, ↓stores_emitOn, ↓stores_serviceFrame, ↓stores_shape, ite_self]

theorem stores_resourcesTakeEffect (oldT : Tbl Word) (s : State) : stores (resourcesTakeEffect oldT s) = stores s := by
  simp only [resourcesTakeEffect, ↓stores_emitOn, ↓stores_serviceFrame, ↓stores_shape, ite_self]

theorem stores_delayReqOp (l : Nat) (s : State) : stores (delayReqOp l s) = stores s := by
  simp only [delayReqOp, ↓stores_emit, ↓stores_modPtp, ↓stores_modPort, ↓stores_shape, ite_self]

theorem words_firmwareCommit (q : Nat) (crc : Word) (s : State) : wordsOf (stores (firmwareCommit q crc s)) = wordsOf (stores s) := by
  unfold firmwareCommit
  split <;> simp only [↓stores_modSet, ↓words_commitWrite]

theorem words_bootStartOp (s : State) : wordsOf (stores (bootStartOp s)) = wordsOf (stores s) := by
  unfold bootStartOp
  dsimp only
  (repeat' split) <;> simp only [↓stores_shape, ↓words_mk]

theorem words_holdRelease (s : State) : wordsOf (stores (holdRelease s)) = wordsOf (stores s) := by rfl

theorem words_bootAbortOp (s : State) : wordsOf (stores (bootAbortOp s)) = wordsOf (stores s) := by
  simp only [bootAbortOp, ↓stores_shape, ↓words_ite, ↓words_mk, ite_self]

theorem words_aperPlace (v : Word) (s : State) : wordsOf (stores (aperPlace v s)) = wordsOf (stores s) := by
  simp only [aperPlace, ↓stores_raiseBit, ↓stores_shape, ↓words_ite, ↓words_mk, ite_self]

/-! ## Records of a yoke -/

theorem stores_packLate (ch n k : Nat) (s : State) : stores (packLate ch n k s) = stores s := by
  unfold packLate
  split <;> simp only [↓stores_bump, ↓stores_raiseBit, ↓stores_shape, ite_self]

theorem stores_packAll (ch n k : Nat) (s : State) : stores (packAll ch n k s) = stores s := by
  simp only [packAll, ↓stores_modPic, ↓stores_modFur, ↓stores_packFurrow, ↓stores_packLate, ↓stores_shape, stores_foldl, ite_self,
    implies_true]

theorem stores_packRest (ch n : Nat) (s : State) : stores (packRest ch n s) = stores s := by
  unfold packRest
  split <;> simp only [↓stores_packAll, stores_foldl, implies_true]

theorem stores_compared (ch n c : Nat) (s : State) : stores (compared ch n c s) = stores s := by
  simp only [compared, ↓stores_bump, ↓stores_modYch, ↓stores_diverge, ↓stores_relock, ↓stores_resyncFailed, ↓stores_shape, ite_self]

theorem stores_sendVerdict (ch n : Nat) (s : State) : stores (sendVerdict ch n s) = stores s := by
  simp only [sendVerdict, ↓stores_sendRel]

theorem stores_comparePair (ch : Nat) (s : State) : stores (comparePair ch s) = stores s := by
  unfold comparePair
  dsimp only
  (repeat' split) <;> simp only [↓stores_modYch, ↓stores_seekResync, ↓stores_compared, ↓stores_sendVerdict]

theorem stores_ownRecord (ch : Nat) (r : Record) (s : State) : stores (ownRecord ch r s) = stores s := by
  unfold ownRecord
  dsimp only
  split <;> simp only [↓stores_modYch, ↓stores_diverge, ↓stores_seekResync, ↓stores_sendVerdict, ↓stores_comparePair, ↓stores_shape,
    ite_self]

theorem stores_recordPicture (ch n : Nat) (s : State) : stores (recordPicture ch n s) = stores s := by
  unfold recordPicture
  split <;> simp only [↓stores_bump, ↓stores_sendRel, ↓stores_modChan, ↓stores_ownRecord, ↓stores_shape, ite_self]

theorem stores_joinState (ch m : Nat) (r : Record) (s : State) : stores (joinState ch m r s) = stores s := by
  simp only [joinState, ↓stores_modChan]

theorem stores_takeCounters (ch : Nat) (r : Record) (s : State) : stores (takeCounters ch r s) = stores s := by
  unfold takeCounters
  rw [stores_wakeItems, stores_settle, stores_modChan, stores_modPic, stores_foldl]
  intro s i
  split <;> simp only [↓stores_modSvc]

theorem stores_theirRecord (r : Record) (s : State) : stores (theirRecord r s) = stores s := by
  simp only [theirRecord, ↓stores_modYch, ↓stores_comparePair, ↓stores_takeCounters, ↓stores_shape, ite_self]

/-! ## Pairing, resync and re-seating -/

theorem stores_rxFrame (h : YHdr) (k : State → State) (s : State) (hk : ∀ s, stores (k s) = stores s) :
    stores (rxFrame h k s) = stores s := by
  simp only [rxFrame, ↓hk, ↓stores_bump, ↓stores_ackUpTo, ↓stores_shape, ite_self]

theorem stores_pathsSettled (s0 s : State) : stores (pathsSettled s0 s) = stores s := by
  unfold pathsSettled
  split <;> simp only [↓stores_pathsChanged, ↓stores_releaseCkpt, ↓stores_shape, ite_self]

theorem stores_abortResync (tell : Bool) (s : State) : stores (abortResync tell s) = stores s := by
  unfold abortResync
  split <;> simp only [↓stores_resyncAbort, ↓stores_modChan, ↓stores_releaseCkpt, ↓stores_shape, ite_self]

theorem stores_abortOf (ch : Nat) (s : State) : stores (abortOf ch s) = stores s := by
  simp only [abortOf, ↓stores_abortResync, ↓stores_shape, ite_self]

theorem stores_refusePair (code : Nat) (s : State) : stores (refusePair code s) = stores s := by
  simp only [refusePair, ↓stores_raiseBit, ↓stores_setRole, ↓stores_shape]

theorem stores_completePair (s : State) : stores (completePair s) = stores s := by
  simp only [completePair, ↓stores_modYch, ↓stores_setRole, ↓stores_diverge, ↓stores_seekResync, ↓stores_shape, stores_foldl, implies_true]

theorem stores_dualActive (s : State) : stores (dualActive s) = stores s := by
  unfold dualActive
  dsimp only
  (repeat' split) <;> simp only [↓stores_raiseBit, ↓stores_setRole, ↓stores_shape]

theorem stores_partnerRole (r : Nat) (s : State) : stores (partnerRole r s) = stores s := by
  simp only [partnerRole, ↓stores_completePair, ↓stores_dualActive, ↓stores_shape, ite_self]

theorem stores_helloOp (p : Hello) (s : State) : stores (helloOp p s) = stores s := by
  unfold helloOp
  dsimp only
  (repeat' split) <;> simp only [↓stores_setRole, ↓stores_refusePair, ↓stores_partnerRole, ↓stores_shape]

theorem stores_settleDual (s : State) : stores (settleDual s) = stores s := by
  unfold settleDual
  split <;> simp only [↓stores_modYch, ↓stores_setRole, ↓stores_diverge, ↓stores_seekResync, ↓stores_abortResync, ↓stores_shape,
    stores_foldl, ite_self, implies_true]

theorem stores_pairTakesEffect (s : State) : stores (pairTakesEffect s) = stores s := by
  simp only [pairTakesEffect, ↓stores_setRole, ↓stores_abortResync, ↓stores_shape, ite_self]

theorem stores_missedOp (link : Bool) (s : State) : stores (missedOp link s) = stores s := by
  simp only [missedOp, ↓stores_bump, ↓stores_pathsSettled, ↓stores_shape, ite_self]

theorem stores_pulseOp (width : Nat) (s : State) : stores (pulseOp width s) = stores s := by
  simp only [pulseOp, ↓stores_pathsSettled, ↓stores_shape, ite_self]

theorem stores_beatOp (p : Beat) (s : State) : stores (beatOp p s) = stores s := by
  simp only [beatOp, ↓stores_seekResync, ↓stores_yieldOnConditions, ↓stores_pathsSettled, ↓stores_partnerRole, ↓stores_shape]

theorem stores_sendBeat (s : State) : stores (sendBeat s) = stores s := by
  unfold sendBeat
  dsimp only
  (repeat' split) <;> simp only [↓stores_emit, ↓stores_sendFrame, ↓stores_shape]

theorem stores_sendHello (s : State) : stores (sendHello s) = stores s := by
  simp only [sendHello, ↓stores_sendFrame, ↓stores_shape, ite_self]

theorem stores_retryOp (n : Nat) (s : State) : stores (retryOp n s) = stores s := by
  unfold retryOp
  split <;> simp only [↓stores_bump, ↓stores_sendFrame, ↓stores_pathsSettled, ↓stores_shape, ite_self]

theorem stores_ackTimerOp (s : State) : stores (ackTimerOp s) = stores s := by
  simp only [ackTimerOp, ↓stores_sendFrame, ↓stores_shape, ite_self]

theorem stores_verdictOp (ch st cause : Nat) (s : State) : stores (verdictOp ch st cause s) = stores s := by
  simp only [verdictOp, ↓stores_bump, ↓stores_modYch, ↓stores_diverge, ↓stores_relock, ↓stores_resyncFailed, ↓stores_shape, ite_self]

theorem words_mismatch (q : Nat) (s : State) : wordsOf (stores (mismatch q s)) = wordsOf (stores s) := by
  simp only [mismatch, ↓words_failSet]

theorem words_voteTimeoutOp (s : State) : wordsOf (stores (voteTimeoutOp s)) = wordsOf (stores s) := by
  unfold voteTimeoutOp
  split <;> simp only [↓stores_sendRel, ↓words_mismatch, ↓stores_shape, ↓words_ite, ite_self]

theorem words_decideTimeoutOp (s : State) : wordsOf (stores (decideTimeoutOp s)) = wordsOf (stores s) := by
  unfold decideTimeoutOp
  split <;> simp only [↓words_mismatch, ↓stores_shape, ↓words_ite, ite_self]

theorem stores_resyncRequestOp (ch : Nat) (s : State) : stores (resyncRequestOp ch s) = stores s := by
  simp only [resyncRequestOp, ↓stores_modChan, ↓stores_shape, ite_self]

theorem stores_dropPics (ch : Nat) (q : Nat → Bool) (s : State) : stores (dropPics ch q s) = stores s := by
  simp only [dropPics, ↓stores_modChan, ↓stores_modSvc, ↓stores_dropItems, stores_foldl, implies_true]

theorem stores_checkpointTakenOp (ch pinned n : Nat) (s : State) : stores (checkpointTakenOp ch pinned n s) = stores s := by
  simp only [checkpointTakenOp, ↓stores_modYch, ↓stores_dropPics, ↓stores_shape, ite_self]

theorem stores_copyFrames (ch stall kind off n : Nat) (byte : Nat → Byte) (s : State) :
    stores (copyFrames ch stall kind off n byte s) = stores s := by
  simp only [copyFrames, ↓stores_bump, ↓stores_sendRel, stores_foldl, implies_true]

theorem stores_copyPinned (ch : Nat) (s : State) : stores (copyPinned ch s) = stores s := by
  simp only [copyPinned, ↓stores_copyFrames, stores_foldl, implies_true]

theorem stores_streamRows (ch n k : Nat) (s : State) : stores (streamRows ch n k s) = stores s := by
  unfold streamRows
  (repeat' split) <;> simp only [↓stores_copyFrames, ↓stores_shape, stores_foldl, implies_true]

theorem stores_bulkDoneOp (ch : Nat) (s : State) : stores (bulkDoneOp ch s) = stores s := by
  simp only [bulkDoneOp, ↓stores_bump, ↓stores_modYch, ↓stores_sendRel, ↓stores_copyPinned, ↓stores_shape, ite_self]

theorem stores_copyDoneOp (ch m : Nat) (joins : Bool) (s : State) : stores (copyDoneOp ch m joins s) = stores s := by
  simp only [copyDoneOp, ↓stores_modYch, ↓stores_shape, ite_self]

theorem stores_copyInOp (ch stall off : Nat) (bytes : List Byte) (s : State) : stores (copyInOp ch stall off bytes s) = stores s := by
  simp only [copyInOp, ↓stores_dramStore, ↓stores_shape, ite_self]

theorem stores_bulkInOp (ch stall off : Nat) (bytes : List Byte) (s : State) : stores (bulkInOp ch stall off bytes s) = stores s := by
  simp only [bulkInOp, ↓stores_copyInOp, ↓stores_shape, ite_self]

theorem stores_resyncBoundary (ch n : Nat) (s : State) : stores (resyncBoundary ch n s) = stores s := by
  simp only [resyncBoundary, ↓stores_modYch, ↓stores_sendRel, ↓stores_releaseCkpt, ↓stores_shape, ite_self]

theorem stores_joinBoundary (ch m : Nat) (s : State) : stores (joinBoundary ch m s) = stores s := by
  unfold joinBoundary
  dsimp only
  (repeat' split) <;> simp only [↓stores_modYch, ↓stores_joinState, ↓stores_abortResync, ↓stores_shape]

theorem stores_yieldFrameOp (tR tT : Nat) (s : State) : stores (yieldFrameOp tR tT s) = stores s := by
  simp only [yieldFrameOp, ↓stores_shape, ite_self]

theorem stores_replayCh (tR ch : Nat) (s : State) : stores (replayCh tR ch s) = stores s := by
  simp only [replayCh, ↓stores_bump, ↓stores_modPic, ↓stores_modSvc, ↓stores_deliver, stores_foldl, implies_true]

theorem stores_restartCh (tT ch : Nat) (s : State) : stores (restartCh tT ch s) = stores s := by
  simp only [restartCh, ↓stores_draw, ↓stores_bump, ↓stores_modChan, ↓stores_modSvc, ↓stores_settle, ↓stores_dropPics, stores_foldl,
    implies_true]

theorem stores_purgeMuted (s : State) : stores (purgeMuted s) = stores s := by
  simp only [purgeMuted, ↓stores_bump, ↓stores_modPort, ↓stores_flowCount, stores_foldl, implies_true]

theorem stores_takeoverOp (s : State) : stores (takeoverOp s) = stores s := by
  unfold takeoverOp
  (repeat' split) <;> simp only [↓stores_bump, ↓stores_raiseBit, ↓stores_advance, ↓stores_setRole, ↓stores_abortResync, ↓stores_replayCh,
    ↓stores_restartCh, ↓stores_purgeMuted, ↓stores_shape, stores_foldl, implies_true]

theorem stores_yokeCmd (v : Word) (s : State) : stores (yokeCmd v s) = stores s := by
  simp only [yokeCmd, ↓stores_modYch, ↓stores_yieldFor, ↓stores_seekResync, ↓stores_shape, ite_self]

theorem stores_dramCopy (d a e b n : Nat) (s : State) : stores (dramCopy d a e b n s) = stores s := by
  simp only [dramCopy, ↓stores_storeWords, ↓stores_shape]

theorem stores_mirrorStall (ch : Nat) (s : State) (i : Nat) : stores (mirrorStall ch s i) = stores s := by
  simp only [mirrorStall, ↓stores_dramCopy]

theorem stores_mirrorOp (ch : Nat) (s : State) : stores (mirrorOp ch s) = stores s := by
  simp only [mirrorOp, ↓stores_modChan, ↓stores_releaseCkpt, ↓stores_mirrorStall, ↓stores_shape, stores_foldl, ite_self, implies_true]

theorem stores_copyMirrorOp (ch stall off : Nat) (bytes : List Byte) (s : State) :
    stores (copyMirrorOp ch stall off bytes s) = stores s := by
  simp only [copyMirrorOp, ↓stores_bump, ↓stores_dramStore, ↓stores_shape, ite_self]

theorem stores_toFaulted (ch : Nat) (s : State) : stores (toFaulted ch s) = stores s := by
  simp only [toFaulted, ↓stores_setFault, ↓stores_toChState]

theorem stores_faultCh (ch : Nat) (s : State) : stores (faultCh ch s) = stores s := by
  simp only [faultCh, ↓stores_abortOf, ↓stores_dropPics, ↓stores_toFaulted]

theorem stores_reseatsTakeEffect (old : Nat → Word) (s : State) : stores (reseatsTakeEffect old s) = stores s := by
  simp only [reseatsTakeEffect, ↓stores_modYch, ↓stores_modChan, ↓stores_toChState, ↓stores_releaseCkpt, ↓stores_abortOf, ↓stores_dropPics,
    ↓stores_shape, stores_foldl, ite_self, implies_true]

/-! ## The boundaries -/

theorem stores_audioStepped (t0 : Nat) (s : State) : stores (audioStepped t0 s) = stores s := by
  simp only [audioStepped, ↓stores_shape, ite_self]

theorem stores_drainMgmt (s : State) : stores (drainMgmt s) = stores s := by
  simp only [drainMgmt, ↓stores_modPort, stores_foldl, implies_true]

theorem stores_startChannel (ch n : Nat) (s : State) : stores (startChannel ch n s) = stores s := by
  simp only [startChannel, ↓stores_modYch, ↓stores_diverge, ↓stores_toChState, ↓stores_chFlows, ↓stores_beginPicture,
    ↓stores_resyncBoundary, ↓stores_shape, ite_self]

theorem stores_realigned (ch n : Nat) (s : State) : stores (realigned ch n s) = stores s := by
  simp only [realigned, ↓stores_bump, ↓stores_raiseBit, ↓stores_modChan, ↓stores_shape, ite_self]

/-! ## The drill and the engines -/

theorem stores_engineCorrects (d e : Nat) (s : State) : stores (engineCorrects d e s) = stores s := by
  simp only [engineCorrects, ↓stores_bump, ↓stores_raiseBit]

/-! ## The dispatcher's events -/

theorem stores_itemEnds (d slot t : Nat) (s : State) : stores (itemEnds d slot t s) = stores s := by
  unfold itemEnds
  dsimp only
  split <;> simp only [↓stores_advance, ↓stores_settle, ↓stores_wakeItems, ↓stores_endItem, ↓stores_packAll, ↓stores_shape, ite_self]

theorem stores_windowEnds (d : Nat) (s : State) : stores (windowEnds d s) = stores s := by
  simp only [windowEnds, ↓stores_advance, ↓stores_modDsp]

/-! ## Boot, flash and key commands -/

theorem stores_countReads (ls : List MemRange) (s : State) : stores (countReads ls s) = stores s := by
  simp only [countReads, ↓stores_countRead, stores_foldl, implies_true]

/-! ## Power, resets and the life cycle -/

theorem stores_origin (s : State) : stores (origin s) = stores s := by rfl

theorem words_linkReset (s : State) : wordsOf (stores (linkReset s)) = wordsOf (stores s) := by
  simp only [linkReset, ↓stores_bump, ↓stores_evalIc, ↓stores_shape, ↓words_mk]

theorem stores_windowsBegin (d : Nat) (s : State) : stores (windowsBegin d s) = stores s := by
  simp only [windowsBegin, ↓stores_modDsp]

theorem stores_lcRefuse (s : State) : stores (lcRefuse s) = stores s := by
  simp only [lcRefuse, ↓stores_raiseBit, ↓stores_shape]

theorem stores_wipeTack (s : State) : stores (wipeTack s) = stores s := by rfl

theorem stores_enterSleep (d : Nat) (s0 : State) : stores (enterSleep d s0) = stores s0 := by
  simp only [enterSleep, ↓stores_dropReady, ↓stores_laneOff, ↓stores_evalIc, ↓stores_shape, stores_foldl, implies_true]

theorem stores_evalSleep (d : Nat) (s : State) : stores (evalSleep d s) = stores s := by
  simp only [evalSleep, ↓stores_bump, ↓stores_raiseBit, ↓stores_enterSleep, ↓stores_shape, ite_self]

theorem stores_wakeTo (d n : Nat) (s : State) : stores (wakeTo d n s) = stores s := by rfl

theorem stores_wakeDomain (d i : Nat) (s : State) : stores (wakeDomain d i s) = stores s := by rfl

/-! ## Register views -/

theorem stores_latch (req : Requester) (k r : Nat) (w : Word) (s : State) : stores (latch req k r w s) = stores s := by rfl

/-! ## Register commands -/

theorem stores_imaskSetOp (k : Nat) (v : Word) (s : State) : stores (imaskSetOp k v s) = stores s := by
  simp only [imaskSetOp, ↓stores_setImask]

theorem stores_imaskClrOp (k : Nat) (v : Word) (s : State) : stores (imaskClrOp k v s) = stores s := by
  simp only [imaskClrOp, ↓stores_setImask]

theorem stores_aliasWrite (k off : Nat) (v : Word) (s : State) : stores (aliasWrite k off v s) = stores s := by
  unfold aliasWrite
  split <;> simp only [↓stores_raiseBit, ↓stores_modSet, ↓stores_shape, ite_self]

theorem words_writeHeader (k off : Nat) (v : Word) (s : State) : wordsOf (stores (writeHeader k off v s)) = wordsOf (stores s) := by
  simp only [writeHeader, ↓stores_raise, ↓stores_clearStat, ↓stores_writeAgain, ↓stores_setImask, ↓stores_writeEvt, ↓words_commitWrite,
    ↓stores_imaskSetOp, ↓stores_imaskClrOp, ↓stores_aliasWrite, ↓stores_shape, ↓words_ite, ite_self]

theorem words_writeHost (off : Nat) (v : Word) (s : State) : wordsOf (stores (writeHost off v s)) = wordsOf (stores s) := by
  simp only [writeHost, ↓words_holdRelease, ↓words_bootAbortOp, ↓words_aperPlace, ↓stores_shape, ↓words_ite, ↓words_mk, ite_self]

theorem stores_writeIc (off : Nat) (v : Word) (s : State) : stores (writeIc off v s) = stores s := by
  simp only [writeIc, ↓stores_icSend, ↓stores_icClear, ↓stores_icEnable, ↓stores_icMask, ↓stores_icRemote, ↓stores_icComplete,
    ↓stores_shape, ite_self]

theorem stores_writeFw (off : Nat) (v : Word) (s : State) : stores (writeFw off v s) = stores s := by
  simp only [writeFw, ↓stores_fwCommand, ↓stores_fwConfirm, ↓stores_shape, ite_self]

theorem stores_writeTack (off : Nat) (v : Word) (s : State) : stores (writeTack off v s) = stores s := by
  simp only [writeTack, ↓stores_tackCommand, ↓stores_shape, ite_self]

theorem stores_writePhy (l r : Nat) (v : Word) (s : State) : stores (writePhy l r v s) = stores s := by
  simp only [writePhy, ↓stores_writeTxeq, ↓stores_writeRxeq, ↓stores_writeEye, ↓stores_shape, ite_self]

theorem stores_writeDie (d off : Nat) (v : Word) (s : State) : stores (writeDie d off v s) = stores s := by
  unfold writeDie
  (repeat' split) <;> simp only [↓stores_setReg, ↓stores_writePhy]

theorem stores_writeMc (d off : Nat) (v : Word) (s : State) : stores (writeMc d off v s) = stores s := by
  simp only [writeMc, ↓stores_modMc, ↓stores_clearErr, ↓stores_shape, ite_self]

theorem stores_writeDsp (d off : Nat) (v : Word) (s : State) : stores (writeDsp d off v s) = stores s := by
  simp only [writeDsp, ↓stores_modDsp, ↓stores_shape, ite_self]

theorem stores_writeFlow (d off : Nat) (v : Word) (s : State) : stores (writeFlow d off v s) = stores s := by
  simp only [writeFlow, ↓stores_setReg, ↓stores_stopFlows, ↓stores_startFlows, ↓stores_quenchPorts, ↓stores_unquenchPorts, ↓stores_shape,
    ite_self]

theorem words_writeBar4 (o : Nat) (v : Word) (s : State) : wordsOf (stores (writeBar4 o v s)) = wordsOf (stores s) := by
  simp only [writeBar4, ↓stores_flushMsix, ↓stores_shape, ↓words_ite, ↓words_mk, ite_self]

theorem stores_writeWords (k : Nat → Word → State → State) (o size : Nat) (v : BitVec 64) (s : State) (hk : ∀ n w s,
    stores (k n w s) = stores s) : stores (writeWords k o size v s) = stores s := by
  simp only [writeWords, ↓hk, ↓stores_shape, ite_self]

theorem stores_counterRead (req : Requester) (k n : Nat) (s : State) : stores (counterRead req k n s) = stores s := by
  simp only [counterRead, ↓stores_emit, ↓stores_latch]

theorem stores_timeSnap (req : Requester) (s : State) : stores (timeSnap req s) = stores s := by
  simp only [timeSnap, ↓stores_emit, ↓stores_latch]

theorem stores_barnRead (req : Requester) (k : Nat) (s : State) : stores (barnRead req k s) = stores s := by
  simp only [barnRead, ↓stores_emit, ↓stores_latch, stores_foldl, implies_true]

theorem stores_yokeRead (req : Requester) (take : Bool) (s : State) : stores (yokeRead req take s) = stores s := by
  simp only [yokeRead, ↓stores_emit, ↓stores_latch]

/-! ## The host link and the control cores -/

theorem stores_functionChanged (s0 s : State) : stores (functionChanged s0 s) = stores s := by
  simp only [functionChanged, ↓stores_flushMsix, ↓stores_evalIc, ↓stores_targetsWoke, ↓stores_shape, ite_self]

theorem words_linkUp (speed width : Nat) (flit : Bool) (s : State) : wordsOf (stores (linkUp speed width flit s)) = wordsOf (stores s) := by
  simp only [linkUp, ↓stores_raiseBit, ↓stores_functionChanged, ↓stores_shape, ↓words_ite, ↓words_mk, ite_self]

theorem words_configWrite (msixEn funcMask busMaster d3 : Bool) (s : State) :
    wordsOf (stores (configWrite msixEn funcMask busMaster d3 s)) = wordsOf (stores s) := by
  simp only [configWrite, ↓stores_functionChanged, ↓stores_shape, ↓words_ite, ↓words_mk, ite_self]

/-! ## Received frames and fills -/

theorem stores_acceptSync (gm : Nat) (li : Int) (s : State) : stores (acceptSync gm li s) = stores s := by
  simp only [acceptSync, ↓stores_retarget, ↓stores_shape, ite_self]

theorem stores_takePtp (l at_ : Nat) (from_ : Word) (b : Body) (s : State) : stores (takePtp l at_ from_ b s) = stores s := by
  unfold takePtp
  split <;> simp only [↓stores_draw, ↓stores_modPtp, ↓stores_acceptSync, ↓stores_shape, ite_self]

theorem stores_toTarget (e t : Nat) (b : Body) (s : State) : stores (toTarget e t b s) = stores s := by
  unfold toTarget
  dsimp only
  (repeat' split) <;> simp only [↓stores_mergeCopy, ↓stores_takeVideo, ↓stores_takeAnc, ↓stores_takeAudio, ↓stores_takeCompressed]

theorem stores_matched (e : Nat) (f : Frame) (s : State) : stores (matched e f s) = stores s := by
  simp only [matched, ↓stores_bump, ↓stores_police, ↓stores_toTarget, ↓stores_shape, ite_self]

theorem stores_toMgmt (l : Nat) (f : Frame) (s : State) : stores (toMgmt l f s) = stores s := by
  unfold toMgmt
  dsimp only
  split <;> simp only [↓stores_bump, ↓stores_raiseBit, ↓stores_modPort, ↓stores_command, ↓stores_mgmtArrive, ↓stores_shape, ite_self]

theorem stores_handleFrame (p : Nat) (f : Frame) (s : State) : stores (handleFrame p f s) = stores s := by
  unfold handleFrame
  (repeat' split) <;> simp only [↓stores_bump, ↓stores_raiseBit, ↓stores_takePtp, ↓stores_matched, ↓stores_toMgmt]

theorem stores_portReceive (p : Nat) (f : Frame) (s : State) : stores (portReceive p f s) = stores s := by
  simp only [portReceive, ↓stores_bump, ↓stores_raiseBit, ↓stores_handleFrame, ↓stores_shape, ite_self]

theorem stores_strayFrame (l : Nat) (f : Frame) (s : State) : stores (strayFrame l f s) = stores s := by
  simp only [strayFrame, ↓stores_bump, ↓stores_raiseBit, ↓stores_shape, ite_self]

theorem stores_receiveFrame (f : Frame) (s : State) : stores (receiveFrame f s) = stores s := by
  unfold receiveFrame
  dsimp only
  split <;> simp only [↓stores_advance, ↓stores_wakeItems, ↓stores_portReceive, ↓stores_strayFrame, ↓stores_shape, ite_self]

theorem stores_fillEnds (d n m y : Nat) (s : State) : stores (fillEnds d n m y s) = stores s := by
  simp only [fillEnds, ↓stores_fillEndOp, ↓stores_sourceMissing, ↓stores_shape, ite_self]

/-! ## The physical-layer registers -/

theorem stores_calibrated (l : Nat) (ok : Bool) (s : State) : stores (calibrated l ok s) = stores s := by
  simp only [calibrated, ↓stores_laneSearch, ↓stores_setFault, ↓stores_shape, ite_self]

theorem stores_signalIn (l : Nat) (s : State) : stores (signalIn l s) = stores s := by
  simp only [signalIn, ↓stores_modLane, ↓stores_laneTo, ↓stores_shape, ite_self]

theorem stores_countLockLoss (l : Nat) (s : State) : stores (countLockLoss l s) = stores s := by
  simp only [countLockLoss, ↓stores_raiseBit, ↓stores_dieCtr, ↓stores_shape, ite_self]

theorem stores_signalOut (l : Nat) (s : State) : stores (signalOut l s) = stores s := by
  simp only [signalOut, ↓stores_modLane, ↓stores_laneTo, ↓stores_countLockLoss, ↓stores_shape, ite_self]

theorem stores_startTraining (l : Nat) (s : State) : stores (startTraining l s) = stores s := by
  simp only [startTraining, ↓stores_dieCtr, ↓stores_laneTo]

theorem stores_adapted (l ctle dfe1 : Nat) (s : State) : stores (adapted l ctle dfe1 s) = stores s := by
  simp only [adapted, ↓stores_modLane, ↓stores_laneTo, ↓stores_startTraining, ↓stores_shape, ite_self]

theorem stores_trainedOp (l : Nat) (preTx : Bool) (taps : Word) (s : State) : stores (trainedOp l preTx taps s) = stores s := by
  simp only [trainedOp, ↓stores_modLane, ↓stores_laneTo, ↓stores_shape, ite_self]

theorem stores_trainTimeout (l : Nat) (s : State) : stores (trainTimeout l s) = stores s := by
  simp only [trainTimeout, ↓stores_raiseBit, ↓stores_modLane, ↓stores_dieCtr, ↓stores_laneTo, ↓stores_shape, ite_self]

theorem stores_trainRetry (l : Nat) (s : State) : stores (trainRetry l s) = stores s := by
  simp only [trainRetry, ↓stores_modLane, ↓stores_startTraining, ↓stores_shape, ite_self]

theorem stores_lockOut (l : Nat) (s : State) : stores (lockOut l s) = stores s := by
  simp only [lockOut, ↓stores_modLane, ↓stores_laneTo, ↓stores_countLockLoss, ↓stores_shape, ite_self]

theorem stores_joinShares (l : Nat) (s : State) : stores (joinShares l s) = stores s := by
  simp only [joinShares, ↓stores_modLane, ↓stores_shape, stores_foldl, ite_self, implies_true]

theorem stores_fecBlock (l symbols words bad : Nat) (s0 : State) : stores (fecBlock l symbols words bad s0) = stores s0 := by
  simp only [fecBlock, ↓stores_raiseN, ↓stores_modLane, ↓stores_dieCtr, ↓stores_allLinkEvents, ↓stores_joinShares, ↓stores_shape, ite_self]

theorem stores_idleIn (l : Nat) (s : State) : stores (idleIn l s) = stores s := by
  simp only [idleIn, ↓stores_dieCtr, ↓stores_laneTo, ↓stores_shape, ite_self]

theorem stores_idleOut (l : Nat) (s : State) : stores (idleOut l s) = stores s := by
  simp only [idleOut, ↓stores_idleExit, ↓stores_shape, ite_self]

theorem stores_idleRefresh (l ctle dfe1 : Nat) (s : State) : stores (idleRefresh l ctle dfe1 s) = stores s := by
  simp only [idleRefresh, ↓stores_emit, ↓stores_modLane, ↓stores_dieCtr, ↓stores_shape, ite_self]

theorem stores_exitLate (l : Nat) (s : State) : stores (exitLate l s) = stores s := by
  simp only [exitLate, ↓stores_raiseBit, ↓stores_modLane, ↓stores_dieCtr, ↓stores_laneTo, ↓stores_shape, ite_self]

/-! ## The yard's registers -/

theorem stores_portDecides (l t : Nat) (s : State) : stores (portDecides l t s) = stores s := by
  simp only [portDecides, ↓stores_advance, ↓stores_refillPort, ↓stores_transmit, ↓stores_shape, ite_self]

end Sys2Proof.Laws
end

section
/-! The canonical form of the configuration words: the operations that write them do so word by word (R51) or range by range
(R63, R71), and both keep the form; every other operation leaves them. -/

namespace Sys2Proof.Laws

open Sys2Proof Sys2Proof.Machine

/-- The staged words, the live words and the words in effect are in canonical form. -/
def WordsCanonical (x : Tbl Word × Tbl Word × Tbl Word) : Prop :=
  Tbl.wf resetWord x.1 = true ∧ Tbl.wf resetWord x.2.1 = true ∧ Tbl.wf resetWord x.2.2 = true

/-- From `s` to `t` the canonical form of the words is kept. -/
structure KeepsWords (s t : State) : Prop where
  keeps : WordsCanonical (wordsOf (stores s)) → WordsCanonical (wordsOf (stores t))

theorem KeepsWords.of_words {s t : State} (h : wordsOf (stores t) = wordsOf (stores s)) : KeepsWords s t := ⟨fun hs => h ▸ hs⟩

theorem KeepsWords.of_stores {s t : State} (h : stores t = stores s) : KeepsWords s t := .of_words (congrArg wordsOf h)

theorem KeepsWords.refl (s : State) : KeepsWords s s := ⟨id⟩

theorem KeepsWords.trans {s t u : State} (h : KeepsWords s t) (k : KeepsWords t u) : KeepsWords s u := ⟨k.keeps ∘ h.keeps⟩

/-- A step before something that leaves the words alone. -/
theorem KeepsWords.before {s t u : State} (h : KeepsWords s t) (k : stores u = stores t) : KeepsWords s u := h.trans (.of_stores k)

/-- A step after something that leaves the words alone. -/
theorem KeepsWords.after {s t u : State} (h : KeepsWords t u) (k : stores t = stores s) : KeepsWords s u :=
  (KeepsWords.of_stores k).trans h

theorem KeepsWords.ite {s a b : State} {c : Prop} [Decidable c] (ha : KeepsWords s a) (hb : KeepsWords s b) :
    KeepsWords s (if c then a else b) := by
  split
  · exact ha
  · exact hb

theorem KeepsWords.foldl {α : Type} {f : State → α → State} (h : ∀ s a, KeepsWords s (f s a)) (l : List α) (s : State) :
    KeepsWords s (l.foldl f s) := by
  induction l generalizing s with
  | nil => exact .refl _
  | cons a l ih => exact (h s a).trans (ih (f s a))

theorem spliceAll_wf {rs : List (Nat × Nat)} (hr : ∀ r ∈ rs, r.1 ≤ r.2) {src dst : Tbl Word} (hs : Tbl.wf resetWord src = true)
    (hd : Tbl.wf resetWord dst = true) : Tbl.wf resetWord (spliceAll rs src dst) = true := by
  induction rs generalizing dst with
  | nil => exact hd
  | cons r rs ih =>
    exact ih (fun x hx => hr x (List.mem_cons_of_mem r hx)) (splice_wf _ _ _ _ _ hd hs (hr r List.mem_cons_self))

theorem pageRange_le (k : Nat) : (pageRange k).1 ≤ (pageRange k).2 := Nat.add_le_add_left (by decide) _

theorem tableRange_le (p : Nat) : (tableRange p).1 ≤ (tableRange p).2 :=
  Nat.add_le_add_left (Nat.mul_le_mul_left _ (Nat.le_succ p)) _

theorem entryRanges_le (e : List Word) : ∀ r ∈ entryRanges e, r.1 ≤ r.2 := by
  simp only [entryRanges, List.mem_append, List.mem_map]
  rintro _ (⟨k, -, rfl⟩ | ⟨p, -, rfl⟩)
  · exact pageRange_le k
  · exact tableRange_le p

theorem ownedRanges_le (s : State) (q : Nat) (o : Option Nat) : ∀ r ∈ ownedRanges s q o, r.1 ≤ r.2 := by
  intro r hr
  rcases List.mem_append.mp hr with hr | hr
  · obtain ⟨k, -, rfl⟩ := List.mem_map.mp hr
    exact pageRange_le k
  · split at hr
    · obtain ⟨p, -, rfl⟩ := List.mem_map.mp hr
      exact tableRange_le p
    · cases hr

/-! ## Staging -/

theorem keepsWords_setStaged (a : Nat) (w : Word) (s : State) : KeepsWords s { s with staged := s.staged.set resetWord a w } :=
  ⟨fun ⟨hstaged, hlive, heff⟩ => ⟨Tbl.wf_set _ _ _ _ hstaged, hlive, heff⟩⟩

theorem keepsWords_stagePage (k off : Nat) (v : Word) (s : State) : KeepsWords s (stagePage k off v s) :=
  .ite (.refl _) (.ite (.of_stores (stores_raiseBit ..)) ((keepsWords_setStaged ..).before (stores_modPage ..)))

theorem keepsWords_stageTable (o : Nat) (v : Word) (s : State) : KeepsWords s (stageTable o v s) := by
  refine .ite (.refl _) ?_
  split
  · exact .of_stores (stores_raiseReport ..)
  · refine KeepsWords.after (keepsWords_setStaged ..) ?_
    split <;> simp only [↓stores_atReport, ↓stores_modPage, implies_true]

theorem keepsWords_stageRecord (e ws : List Word) (s : State) : KeepsWords s (stageRecord e ws s) :=
  .foldl (fun _ _ => .ite (keepsWords_stagePage ..) (keepsWords_stageTable ..)) _ s

theorem keepsWords_is05Activate (receiver : Bool) (e : Nat) (ws : List (Nat × Word)) (s : State) :
    KeepsWords s (is05Activate receiver e ws s) := by
  unfold is05Activate
  split
  · exact .of_stores (by simp only [↓stores_emit, ↓stores_bump])
  · exact (KeepsWords.foldl (fun _ _ => keepsWords_stageTable ..) ws s).trans (.of_words (words_firmwareCommit ..))

theorem keepsWords_is05PatchOp (receiver : Bool) (e : Nat) (ws : List (Nat × Word)) (readOnly : Bool) (t : Option Nat) (s : State) :
    KeepsWords s (is05PatchOp receiver e ws readOnly t s) := by
  refine .ite (.refl _) (.ite (.of_stores rfl) (.ite (.of_stores rfl) ?_))
  split
  · exact keepsWords_is05Activate ..
  · exact .of_stores rfl

theorem keepsWords_is05ActivationOp (s : State) : KeepsWords s (is05ActivationOp s) := by
  unfold is05ActivationOp
  split
  · exact .refl _
  · exact (keepsWords_is05Activate ..).after rfl

theorem keepsWords_bootWaitOp (s : State) : KeepsWords s (bootWaitOp s) := by
  unfold bootWaitOp
  split
  · exact .refl _
  · refine .ite (.refl _) (.ite (.refl _)
      (((KeepsWords.of_words ?_).trans (keepsWords_stageRecord ..)).trans (.of_words (words_firmwareCommit ..))))
    simp only [↓stores_foldl, stores_writeEntry, implies_true, ↓stores_shape, ↓words_mk]

/-! ## Commit -/

/-- A set that passes makes its staged words live (R63). -/
theorem words_applySet (q gen e : Nat) (s : State) :
    wordsOf (stores (applySet q gen e s)) = (s.staged, candidate s (cset s q).entry, s.eff) := by
  simp only [applySet, ↓stores_takeWaitsAll, ↓stores_is05Checked, ↓words_bootChecked, ↓stores_powerNeeded, ↓stores_admitLive,
    ↓stores_bump, ↓stores_modSet, ↓stores_foldl, stores_modPage, ↓stores_shape, implies_true]
  rfl

/-- A pass splices one canonical table into another. -/
theorem keepsWords_applySet (q gen e : Nat) (s : State) : KeepsWords s (applySet q gen e s) := by
  refine ⟨fun ⟨hstaged, hlive, heff⟩ => ?_⟩
  rw [words_applySet]
  exact ⟨hstaged, spliceAll_wf (entryRanges_le _) hstaged hlive, heff⟩

theorem keepsWords_passSet (q gen e : Nat) (s : State) : KeepsWords s (passSet q gen e s) :=
  .ite (keepsWords_applySet ..) (.of_stores ((stores_powerUp ..).trans (stores_modSet ..)))

theorem keepsWords_domainsSettled (s : State) : KeepsWords s (domainsSettled s) := by
  unfold domainsSettled
  split
  · exact .refl _
  · exact .ite (keepsWords_applySet ..) (.refl _)

theorem keepsWords_decideVote (q : Nat) (s : State) : KeepsWords s (decideVote q s) := by
  unfold decideVote
  split
  · exact .refl _
  · exact .ite (.refl _) (.ite ((keepsWords_passSet ..).after (stores_sendRel ..))
      (.of_words ((words_failSet ..).trans (congrArg wordsOf (stores_sendRel ..)))))

theorem keepsWords_voteOn (q : Nat) (s : State) : KeepsWords s (voteOn q s) :=
  .ite (keepsWords_passSet ..) (.ite (.of_words (words_failSet ..))
    (.ite ((keepsWords_decideVote ..).after (stores_modSet ..)) (.of_stores ((stores_sendVote ..).trans (stores_modSet ..)))))

theorem keepsWords_checkEnd (s : State) : KeepsWords s (checkEnd s) := by
  unfold checkEnd
  split
  · exact .refl _
  · refine .ite (.refl _) ?_
    split
    · exact keepsWords_voteOn ..
    · exact .of_words (by simp only [↓words_failSet, ↓stores_sendVote, ↓stores_shape, ite_self])

theorem keepsWords_voteOp (q g : Nat) (crc tcrc : Word) (live res : Nat) (s : State) : KeepsWords s (voteOp q g crc tcrc live res s) :=
  .ite (.refl _) (.ite (.of_stores (stores_sendRel ..)) (.ite ((keepsWords_decideVote ..).after rfl) (.of_stores rfl)))

theorem keepsWords_decideOp (q g outcome e : Nat) (s : State) : KeepsWords s (decideOp q g outcome e s) :=
  .ite (.refl _) (.ite (keepsWords_passSet ..) (.ite (keepsWords_passSet ..) (.of_words (words_mismatch ..))))

/-! ## Taking effect -/

theorem keepsWords_setEff {rs : List (Nat × Nat)} (hr : ∀ r ∈ rs, r.1 ≤ r.2) (l : List (Nat × Option Nat)) (s : State) :
    KeepsWords s { s with eff := spliceAll rs s.live s.eff, waits := l } :=
  ⟨fun ⟨hstaged, hlive, heff⟩ => ⟨hstaged, hlive, spliceAll_wf hr hlive heff⟩⟩

theorem keepsWords_takeOwner (q : Nat) (o : Option Nat) (s : State) : KeepsWords s (takeOwner q o s) := by
  refine (keepsWords_setEff (ownedRanges_le s q o) (s.waits.filter fun x => decide (x ≠ (q, o))) s).before ?_
  cases o <;> simp only [takeOwner, ↓stores_modChan, ↓stores_shape, ite_self]

theorem keepsWords_settleSet (q : Nat) (s : State) : KeepsWords s (settleSet q s) :=
  .ite ((keepsWords_setEff (entryRanges_le _) s.waits s).before ((stores_raiseReport ..).trans (stores_modSet ..))) (.refl _)

theorem keepsWords_takeWaits (pick : Option Nat → Bool) (s : State) : KeepsWords s (takeWaits pick s) :=
  (KeepsWords.foldl (fun _ _ => keepsWords_takeOwner ..) _ s).trans (.foldl (fun _ _ => keepsWords_settleSet ..) _ _)

/-! ## Lost channels and bad words -/

/-- Words set one by one. -/
def setWords (l : List (Nat × Word)) (t : Tbl Word) : Tbl Word := l.foldl (fun t e => t.set resetWord e.1 e.2) t

theorem setWords_wf (l : List (Nat × Word)) {t : Tbl Word} (h : Tbl.wf resetWord t = true) : Tbl.wf resetWord (setWords l t) = true := by
  induction l generalizing t with
  | nil => exact h
  | cons e l ih => exact ih (Tbl.wf_set _ _ _ _ h)

theorem stores_setWords (l : List (Nat × Word)) {s t : State} (h : stores t = stores s) :
    stores { t with eff := setWords l t.eff } = ((s.staged, s.live, setWords l s.eff), s.host) :=
  congrArg (fun x => ((x.1.1, x.1.2.1, setWords l x.1.2.2), x.2)) h

/-- A channel that takes a spare seat sets words in effect one by one (R383). -/
theorem stores_reseat (ch : Nat) (s : State) : ∃ l, stores (reseat ch s) = ((s.staged, s.live, setWords l s.eff), s.host) := by
  unfold reseat
  extract_lets s0 c g f m keep seqs notSent dropped cut numbered spareCh seated moved told yoked
  have before : stores numbered = stores s := by
    simp only [numbered, cut, dropped, s0, ↓stores_foldl, stores_modSvc, ↓stores_dropPics, ↓stores_dropItems, implies_true]
  have told_eq : stores told = stores moved := by
    simp only [told]
    split <;> simp only [↓stores_raiseBit]
  refine ⟨_, Eq.trans (b := stores seated) ?_ (stores_setWords _ before)⟩
  simp only [↓stores_noteEngineLost, ↓stores_settle, ↓stores_bump, ↓stores_raiseBit, yoked, ↓stores_diverge, ↓stores_shape, ite_self,
    told_eq, moved, ↓stores_modChan]

theorem keepsWords_reseat (ch : Nat) (s : State) : KeepsWords s (reseat ch s) := by
  obtain ⟨l, hl⟩ := stores_reseat ch s
  refine ⟨fun ⟨hstaged, hlive, heff⟩ => ?_⟩
  rw [hl]
  exact ⟨hstaged, hlive, setWords_wf l heff⟩

theorem keepsWords_reseatOrFault (ch : Nat) (s : State) : KeepsWords s (reseatOrFault ch s) :=
  .ite ((keepsWords_reseat ..).after (stores_abortOf ..)) (.of_stores ((stores_raiseBit ..).trans (stores_faultCh ..)))

theorem keepsWords_loseChans (chs : List Nat) (s : State) : KeepsWords s (loseChans chs s) := by
  have armed : ∀ l : List Nat, stores (l.foldl (fun s ch => toFaulted ch s) s) = stores s := fun l =>
    stores_foldl _ l s fun _ _ => stores_toFaulted ..
  exact .ite (.of_stores ((stores_foldl _ _ _ fun _ _ => stores_faultCh ..).trans ((stores_yieldFor ..).trans (armed _))))
    ((KeepsWords.foldl (fun _ _ => keepsWords_reseatOrFault ..) _ _).after (armed _))

theorem keepsWords_dieFaultOp (d : Nat) (s : State) : KeepsWords s (dieFaultOp d s) := by
  unfold dieFaultOp
  extract_lets faulted lost
  have hlost : KeepsWords s lost := (keepsWords_loseChans _ faulted).after ((stores_noteEngineLost ..).trans (stores_setFaults ..))
  exact .ite (hlost.before (stores_setFault ..)) hlost

theorem keepsWords_dieFaultFor (d : Nat) (cause : Option (Nat × Nat)) (s : State) : KeepsWords s (dieFaultFor d cause s) := by
  cases cause with
  | none => exact keepsWords_dieFaultOp d s
  | some c => exact (keepsWords_dieFaultOp d _).after ((stores_leaveBad ..).trans (stores_eccBad ..))

/-- An operation that reads memory keeps the words where the operation itself does: bad words make a die's fault of it (R296). -/
theorem keepsWords_reading (ls : List MemRange) {op : State → State} (h : ∀ s, KeepsWords s (op s)) (s : State) :
    KeepsWords s (reading ls op s) :=
  KeepsWords.after (.ite (h _) ((KeepsWords.foldl (fun _ _ => keepsWords_dieFaultOp ..) _ _).after
    (stores_foldl _ _ _ fun _ _ => stores_eccBad ..))) (stores_correctIn ls s)

/-! ## Frames of the partner -/

theorem keepsWords_deliverFrame (i : Instr) (s : State) : KeepsWords s (deliverFrame i s) := by
  unfold deliverFrame
  split
  · exact .of_stores (stores_theirRecord ..)
  · exact .of_stores (stores_verdictOp ..)
  · exact keepsWords_voteOp ..
  · exact keepsWords_decideOp ..
  · exact keepsWords_decideOp ..
  · exact keepsWords_decideOp ..
  · exact .of_stores (stores_bulkInOp ..)
  · exact .of_stores (stores_copyInOp ..)
  · exact .of_stores (stores_resyncRequestOp ..)
  · exact .of_stores (stores_checkpointTakenOp ..)
  · exact .of_stores (stores_copyDoneOp ..)
  · exact .ite (.of_stores (stores_abortResync ..)) (.refl _)
  · exact .of_stores (stores_yieldFrameOp ..)
  · exact .of_stores (stores_icRemoteIn ..)
  · exact .refl _

/-- A frame acts on a state whose yoke has taken note of it. -/
theorem keepsWords_deliverFrame_yoke (i : Instr) (y : Yoke) (s : State) : KeepsWords s (deliverFrame i { s with yoke := y }) := by
  refine (keepsWords_deliverFrame i _).after ?_
  rfl

theorem keepsWords_drainEarly (n : Nat) (s : State) : KeepsWords s (drainEarly n s) := by
  induction n generalizing s with
  | zero => exact .refl _
  | succ n ih =>
    rw [drainEarly]
    split
    · exact .refl _
    · exact .trans (keepsWords_deliverFrame_yoke ..) (ih _)

theorem keepsWords_rxRel (h : YHdr) (i : Instr) (s : State) : KeepsWords s (rxRel h i s) := by
  refine .ite (.refl _) (.ite (.of_stores (stores_bump ..)) (KeepsWords.after ?_ (stores_ackUpTo h.ack s)))
  exact .ite (.of_stores rfl) (.ite (.trans (keepsWords_deliverFrame_yoke ..) (keepsWords_drainEarly ..))
    (.ite (.of_stores rfl) (.of_stores rfl)))

/-! ## Boundaries and the points of a furrow -/

theorem keepsWords_armStep (s : State) (ch : Nat) : KeepsWords s (armStep s ch) := by
  unfold armStep
  split
  · exact .ite (.ite ((keepsWords_loseChans ..).after ((stores_toChState ..).trans (stores_modChan ..)))
      (.of_stores ((stores_toChState ..).trans (stores_modChan ..)))) (.refl _)
  · exact .ite (.of_stores (stores_toChState ..)) (.ite (keepsWords_loseChans ..) (.refl _))
  · exact .ite (.refl _) (.of_stores ((stores_modYch ..).trans (stores_toChState ..)))
  · exact .of_stores (stores_settle ..)
  · exact .refl _

theorem keepsWords_wordsTakeEffect (s1 s : State) : KeepsWords s (wordsTakeEffect s1 s) := by
  refine KeepsWords.before (.after (.foldl keepsWords_armStep _ _) ?_) ((stores_resourcesTakeEffect ..).trans (stores_sdpTakeEffect ..))
  simp only [↓stores_reseatsTakeEffect, ↓stores_pairTakesEffect, ↓stores_settleDual, ↓stores_refsTakeEffect, ↓stores_decsSettle,
    ↓stores_fencesTakeEffect, ↓stores_tdmsTakeEffect, ↓stores_audioFlowsAtBoundary, ↓stores_idleFlows, ↓stores_aflowsTakeEffect,
    ↓stores_listsTakeEffect, ↓stores_shapersTakeEffect, ↓stores_quantaTakeEffect, ↓stores_svcsLapse, ↓stores_lanesTakeEffect,
    ↓stores_slotsTakeEffect, ↓stores_entriesTakeEffect]

theorem keepsWords_packageOp (s : State) : KeepsWords s (packageOp s) := by
  unfold packageOp
  extract_lets moved effective host drained tracked
  have taken : KeepsWords s (takePackage moved) := (keepsWords_takeWaits _ moved).after (stores_advance ..)
  have heffective : KeepsWords s effective := taken.trans (keepsWords_wordsTakeEffect ..)
  refine heffective.trans (.of_words ?_)
  simp only [tracked, drained, ↓stores_wakeItems, ↓stores_audioStepped, ↓stores_applyStep, ↓stores_foldl, stores_trackAtBoundary,
    ↓stores_drainMgmt, ↓stores_shape, ↓words_mk, implies_true]

theorem keepsWords_runBoundary (ch n : Nat) (s : State) : KeepsWords s (runBoundary ch n s) := by
  unfold runBoundary
  extract_lets taken aborted
  have htaken : KeepsWords s taken := ((keepsWords_takeWaits ..).after (stores_realigned ..)).before (stores_chFlows ..)
  have haborted : KeepsWords s aborted := .ite htaken (htaken.before (stores_abortOf ..))
  exact .ite (haborted.before (by simp only [↓stores_settle, ↓stores_modChan, ↓stores_toChState, ↓stores_abortOf]))
    (.ite (haborted.trans (keepsWords_loseChans ..)) (.ite (haborted.before (stores_modChan ..))
      (haborted.before (by simp only [↓stores_resyncBoundary, ↓stores_beginPicture, ↓stores_joinBoundary]))))

theorem keepsWords_drainBoundary (ch n : Nat) (s : State) : KeepsWords s (drainBoundary ch n s) := by
  have taken : KeepsWords s (takeChannel ch (realigned ch n s)) := (keepsWords_takeWaits ..).after (stores_realigned ..)
  exact taken.before ((stores_settle ..).trans ((stores_modChan ..).trans (stores_chFlows ..)))

theorem keepsWords_boundaryOp (ch : Nat) (s : State) : KeepsWords s (boundaryOp ch s) := by
  unfold boundaryOp
  split
  · exact .of_stores (by simp only [↓stores_wakeItems, ↓stores_startChannel, ↓stores_advance])
  · exact ((keepsWords_runBoundary ..).after (stores_advance ..)).before (stores_wakeItems ..)
  · exact ((keepsWords_drainBoundary ..).after (stores_advance ..)).before (stores_wakeItems ..)
  · exact .refl _

theorem keepsWords_codedPoint (ch k : Nat) (s : State) : KeepsWords s (codedPoint ch k s) := by
  unfold codedPoint
  split
  · exact .refl _
  · refine .ite (keepsWords_reading _ (fun s => .of_stores ?_) s) (.refl _)
    simp only [↓stores_wakeItems, ↓stores_foldl, stores_recordPicture, ↓stores_streamRows, ↓stores_codedOp, ↓stores_shape, implies_true,
      ite_self]

theorem keepsWords_codeNext (ch k : Nat) (s : State) : KeepsWords s (codeNext ch k s) := by
  unfold codeNext
  split
  · exact .refl _
  · exact .ite ((keepsWords_reading _ (fun s => .of_stores (stores_ctuOp ..)) s).before (stores_wakeItems ..)) (.refl _)

theorem keepsWords_deadlinePoint (ch k finished : Nat) (s : State) : KeepsWords s (deadlinePoint ch k finished s) := by
  unfold deadlinePoint
  split
  · exact .refl _
  · refine keepsWords_reading _ (fun s => .of_stores ?_) s
    dsimp only
    split <;> simp only [↓stores_wakeItems, ↓stores_withdrawFurrow, ↓stores_deadlineOp, ↓stores_shape, ite_self]

theorem keepsWords_engineFails (d e : Nat) (s : State) : KeepsWords s (engineFails d e s) :=
  KeepsWords.before ((keepsWords_loseChans ..).after ((stores_noteEngineLost ..).trans ((stores_engineItems ..).trans
    ((stores_bump ..).trans (stores_setFault ..))))) (stores_wakeItems ..)

/-! ## Resets and register writes -/

/-- A reset leaves every word at its reset value. -/
theorem keepsWords_assertReset (cold : Bool) (c : Nat) (s : State) : KeepsWords s (assertReset cold c s) := ⟨fun _ => ⟨rfl, rfl, rfl⟩⟩

end Sys2Proof.Laws
end

section
/-! The canonical form of the configuration words through every command, and what settles O58. -/

namespace Sys2Proof.Laws

open Sys2Proof Sys2Proof.Machine

/-! ## The shapes of a command's meaning -/

/-- An operation keeps the canonical form of the words, whatever state it acts on. -/
def OpKeepsWords (k : State → State) : Prop := ∀ s, KeepsWords s (k s)

theorem OpKeepsWords.of_words {k : State → State} (h : ∀ s, wordsOf (stores (k s)) = wordsOf (stores s)) : OpKeepsWords k :=
  fun s => .of_words (h s)

theorem OpKeepsWords.of_stores {k : State → State} (h : ∀ s, stores (k s) = stores s) : OpKeepsWords k := fun s => .of_stores (h s)

theorem OpKeepsWords.guard {k : State → State} (h : OpKeepsWords k) (c : Bool) : OpKeepsWords (guard' c k) := fun s => .ite (h s) (.refl s)

theorem OpKeepsWords.wakes {k : State → State} (h : OpKeepsWords k) : OpKeepsWords fun s => wakeItems (k s) :=
  fun s => (h s).before (stores_wakeItems _)

/-- The next state of a command keeps the canonical form of the words. -/
def KeepsWordsO (s : State) (o : Host.Outcome State Fault Refusal) : Prop := ∀ t, o = .next t → KeepsWords s t

theorem keepsWordsO_next {s t : State} (h : KeepsWords s t) : KeepsWordsO s (.next t) := fun _ ht => Host.Outcome.next.inj ht ▸ h

theorem KeepsWordsO.ite {s : State} {c : Prop} [Decidable c] {a b : Host.Outcome State Fault Refusal} (ha : KeepsWordsO s a)
    (hb : KeepsWordsO s b) : KeepsWordsO s (if c then a else b) := by
  split
  · exact ha
  · exact hb

/-- A command that names what the variant lacks does nothing. -/
theorem KeepsWordsO.named {s : State} {c : Prop} [Decidable c] {o : Host.Outcome State Fault Refusal} (h : KeepsWordsO s o) :
    KeepsWordsO s (if c then o else .next s) := h.ite (keepsWordsO_next (.refl s))

section
variable {s : State} {k : State → State} (h : OpKeepsWords k)
include h

theorem keepsWords_whenUp : KeepsWords s (whenUp s k) := .ite (.refl s) (h s)

theorem keepsWordsO_up : KeepsWordsO s (.next (whenUp s k)) := keepsWordsO_next (keepsWords_whenUp h)

theorem keepsWordsO_upIf (c : Bool) : KeepsWordsO s (.next (whenUp s (guard' c k))) := keepsWordsO_up (h.guard c)

/-- A command that concerns one unit, where the variant has it. -/
theorem keepsWordsO_at {c : Prop} [Decidable c] : KeepsWordsO s (if c then .next (whenUp s k) else .next s) :=
  (keepsWordsO_up h).named

theorem keepsWordsO_atDec (d n : Nat) : KeepsWordsO s (atDec d n s k) := .named (keepsWordsO_at h.wakes)

end

theorem keepsWordsO_relCh (ch : Nat) (h : YHdr) (i : Instr) (s : State) : KeepsWordsO s (relCh ch h i s) :=
  keepsWordsO_at (keepsWords_rxRel h i)

theorem keepsWordsO_rel (h : YHdr) (i : Instr) (s : State) : KeepsWordsO s (rel h i s) := keepsWordsO_up (keepsWords_rxRel h i)

theorem keepsWordsO_atLane {s : State} {k : State → State} (h : OpKeepsWords k) (l : Nat) : KeepsWordsO s (atLane l s k) :=
  keepsWordsO_at fun s => (h s).before (stores_yieldOnConditions _)

theorem keepsWordsO_atBlock {s : State} {k : Nat → State → State} (h : ∀ l, OpKeepsWords (k l)) (d blk : Nat) :
    KeepsWordsO s (atBlock d blk s k) := by
  refine keepsWordsO_up fun s => .ite ?_ (.refl s)
  split
  · exact h _ s
  · exact .refl s

/-! ## Power and resets -/

theorem keepsWordsO_execSupplyRise (s : State) : KeepsWordsO s (execSupplyRise s) :=
  keepsWordsO_next (.ite (.refl s) ((keepsWords_assertReset ..).after rfl))

theorem keepsWordsO_execSupplyFall (s : State) : KeepsWordsO s (execSupplyFall s) := keepsWordsO_next ⟨fun _ => ⟨rfl, rfl, rfl⟩⟩

theorem keepsWordsO_execPerstAssert (s : State) : KeepsWordsO s (execPerstAssert s) :=
  .ite (keepsWordsO_next (.refl s)) (.ite (keepsWordsO_next (.of_stores rfl))
    (.ite (keepsWordsO_next (.of_words (words_linkReset _))) (keepsWordsO_next ⟨fun _ => ⟨rfl, rfl, rfl⟩⟩)))

theorem keepsWordsO_execPerstRelease (s : State) : KeepsWordsO s (execPerstRelease s) :=
  .ite (keepsWordsO_next (.refl s)) (.ite (keepsWordsO_next (.of_stores rfl))
    (.ite (keepsWordsO_next (.of_stores rfl)) (keepsWordsO_next (.of_stores rfl))))

theorem keepsWordsO_execResetRelease (s : State) : KeepsWordsO s (execResetRelease s) :=
  .ite (keepsWordsO_next (.refl s)) (.ite (keepsWordsO_next (.of_stores rfl)) (keepsWordsO_next (.of_stores rfl)))

theorem keepsWordsO_execWarmResetRequest (v : Word) (s : State) : KeepsWordsO s (execWarmResetRequest v s) :=
  keepsWordsO_upIf (keepsWords_assertReset _ _) _

theorem keepsWordsO_execColdResetRequest (v : Word) (s : State) : KeepsWordsO s (execColdResetRequest v s) :=
  keepsWordsO_upIf (keepsWords_assertReset _ _) _

theorem keepsWordsO_execLcArm (v : Word) (s : State) : KeepsWordsO s (execLcArm v s) :=
  keepsWordsO_upIf (.of_stores fun s => by simp only [↓stores_lcRefuse, ↓stores_shape, ite_self]) _

theorem keepsWordsO_execLcGo (v : Word) (s : State) : KeepsWordsO s (execLcGo v s) :=
  keepsWordsO_upIf (fun s => .ite ⟨fun _ => ⟨rfl, rfl, rfl⟩⟩ (.of_stores (stores_lcRefuse s))) _

theorem keepsWordsO_execDieSleepRequest (d : Nat) (s : State) : KeepsWordsO s (execDieSleepRequest d s) :=
  keepsWordsO_at (.of_stores fun s => by simp only [↓stores_evalSleep, ↓stores_shape, ite_self])

theorem keepsWordsO_execDieWakeRequest (d : Nat) (s : State) : KeepsWordsO s (execDieWakeRequest d s) :=
  keepsWordsO_at (.of_stores (stores_wakeRequest d))

theorem keepsWordsO_execDomainHoldWrite (d : Nat) (v : Word) (s : State) : KeepsWordsO s (execDomainHoldWrite d v s) := by
  refine keepsWordsO_at (.of_stores fun s => ?_)
  rfl

theorem keepsWordsO_execDieAsleep (d : Nat) (s : State) : KeepsWordsO s (execDieAsleep d s) :=
  keepsWordsO_at (.guard (.of_stores fun s => by
    simp only [↓stores_startWake, ↓stores_selfRefresh, ↓stores_bump, ↓stores_shape, ite_self]) _)

theorem keepsWordsO_execWakeFirmwareStarted (d : Nat) (s : State) : KeepsWordsO s (execWakeFirmwareStarted d s) :=
  keepsWordsO_at (.guard (.of_stores fun s => by
    simp only [↓stores_evalSleep, ↓stores_foldl, stores_laneSearch, ↓stores_wakeTo, ↓stores_shape, implies_true, ite_self]) _)

theorem keepsWordsO_execDomainPowerUpDone (d i : Nat) (s : State) : KeepsWordsO s (execDomainPowerUpDone d i s) := by
  refine keepsWordsO_at (.guard (fun s => (keepsWords_domainsSettled _).after ?_) _)
  rfl

theorem keepsWordsO_execDomainPowerGoodTimeout (d i : Nat) (s : State) : KeepsWordsO s (execDomainPowerGoodTimeout d i s) :=
  keepsWordsO_at (.guard (.of_words fun s => by
    simp only [↓words_domainFailed, ↓stores_noteEngineLost, ↓stores_raiseBit, ↓stores_setFaults, ↓stores_shape]) _)

theorem keepsWordsO_execDramTrainingDone (d failed : Nat) (s : State) : KeepsWordsO s (execDramTrainingDone d failed s) := by
  refine keepsWordsO_at (.guard (fun s => .ite (.of_stores ?_) (keepsWords_dieFaultOp d s)) _)
  rfl

theorem keepsWordsO_execCtrlStoreZeroised (d : Nat) (s : State) : KeepsWordsO s (execCtrlStoreZeroised d s) := by
  refine keepsWordsO_at (.of_stores fun s => ?_)
  rfl

theorem keepsWordsO_execGranuleWiped (d : Nat) (s : State) : KeepsWordsO s (execGranuleWiped d s) := by
  refine keepsWordsO_at (.guard (.of_stores fun s => ?_) _)
  rfl

theorem keepsWordsO_execSramZeroised (d : Nat) (s : State) : KeepsWordsO s (execSramZeroised d s) := by
  refine keepsWordsO_at (.guard (.of_stores fun s => ?_) _)
  rfl

theorem keepsWordsO_execDomainPowerDown (d i : Nat) (s : State) : KeepsWordsO s (execDomainPowerDown d i s) := by
  refine keepsWordsO_at (.guard (.of_stores fun s => ?_) _)
  rfl

theorem keepsWordsO_execPackagePagesReady (s : State) : KeepsWordsO s (execPackagePagesReady s) := by
  refine keepsWordsO_upIf (.of_stores fun s => ?_) _
  rfl

theorem keepsWordsO_execLcArmTimeout (s : State) : KeepsWordsO s (execLcArmTimeout s) := by
  refine keepsWordsO_up (.of_stores fun s => ?_)
  rfl

theorem keepsWordsO_execPairRetry (s : State) : KeepsWordsO s (execPairRetry s) := by
  refine keepsWordsO_up (.of_stores fun s => ?_)
  rfl

theorem keepsWordsO_execWakeDomainsUp (d : Nat) (s : State) : KeepsWordsO s (execWakeDomainsUp d s) := by
  refine keepsWordsO_at (.guard (.of_stores fun s => ?_) _)
  simp only [↓stores_wakeTo, ↓stores_bump, ↓stores_foldl, stores_wakeDomain, implies_true]

theorem keepsWordsO_execWakeSramZeroised (d : Nat) (s : State) : KeepsWordsO s (execWakeSramZeroised d s) := by
  refine keepsWordsO_at (.guard (.of_stores fun s => ?_) _)
  rfl

theorem keepsWordsO_execEngineFault (d e : Nat) (corrected : Bool) (s : State) : KeepsWordsO s (execEngineFault d e corrected s) := by
  refine .named (keepsWordsO_at fun s => ?_)
  cases corrected with
  | true => exact .of_stores (stores_engineCorrects d e s)
  | false => exact keepsWords_engineFails d e s

/-! ## Register writes -/

theorem keepsWords_via {f : State → Host.Outcome State Fault Refusal} {s : State} (h : KeepsWordsO s (f s)) : KeepsWords s (via f s) := by
  unfold via outState
  split
  · exact h _ (by assumption)
  · exact .refl s

theorem keepsWords_writeSleep (v : Word) (s : State) : KeepsWords s (writeSleep v s) := by
  refine .foldl (fun s d => .ite (.refl s) (keepsWords_via ?_)) _ s
  split
  · exact keepsWordsO_execDieSleepRequest d s
  · exact keepsWordsO_execDieWakeRequest d s

theorem keepsWords_writePwr (off : Nat) (v : Word) (s : State) : KeepsWords s (writePwr off v s) :=
  .ite (.of_stores rfl)
    (.ite (.ite (keepsWords_via (keepsWordsO_execWarmResetRequest v s)) (keepsWords_via (keepsWordsO_execColdResetRequest v s)))
      (.ite (.of_stores rfl)
        (.ite (.ite (keepsWords_via (keepsWordsO_execLcArm v s)) (keepsWords_via (keepsWordsO_execLcGo v s)))
          (.ite (keepsWords_writeSleep v s) (.ite (keepsWords_via (keepsWordsO_execDomainHoldWrite _ v s)) (.refl s))))))

theorem keepsWords_writeBlock (k off : Nat) (v : Word) (s : State) : KeepsWords s (writeBlock k off v s) := by
  by_cases hp : keyPage k = 4
  · simp only [writeBlock, hp]
    exact keepsWords_writePwr off v s
  · refine .of_words ?_
    simp only [writeBlock, hp, if_false, ↓words_ite, ↓words_writeHost, ↓stores_writeIc, ↓stores_writeFw, ↓stores_writeTack, ↓stores_yokeCmd,
      ↓stores_writeDie, ↓stores_writeMc, ↓stores_writeDsp, ↓stores_setReg, ↓stores_writeFlow, ↓stores_shape, ite_self]

theorem keepsWords_writePage (k off : Nat) (v : Word) (s : State) : KeepsWords s (writePage k off v s) :=
  .ite (.refl s) (.ite (.of_words (words_writeHeader ..))
    (.ite (.ite (keepsWords_stagePage ..) (keepsWords_writeBlock ..)) (.refl s)))

theorem keepsWords_writeBar2 (o : Nat) (v : Word) (s : State) : KeepsWords s (writeBar2 o v s) :=
  .ite (.of_stores (stores_writeEntry ..)) (.ite (.of_stores (stores_routeSource ..)) (keepsWords_stageTable ..))

theorem keepsWords_writeWords {k : Nat → Word → State → State} (h : ∀ o w s, KeepsWords s (k o w s)) (o size : Nat) (v : BitVec 64)
    (s : State) : KeepsWords s (writeWords k o size v s) := .ite (h ..) (.ite ((h ..).trans (h ..)) (.refl s))

theorem keepsWords_writeReg (a size : Nat) (v : BitVec 64) (s : State) : KeepsWords s (writeReg a size v s) :=
  .ite (.ite (keepsWords_writePage ..) (.refl s)) (.ite (keepsWords_writeWords keepsWords_writeBar2 ..)
    (keepsWords_writeWords (fun _ _ _ => .of_words (words_writeBar4 ..)) ..))

theorem keepsWordsO_execStageWrite (req : Requester) (bar2 : Bool) (a size : Nat) (v : BitVec 64) (s : State) :
    KeepsWordsO s (execStageWrite req bar2 a size v s) := by
  refine keepsWordsO_upIf (fun s => ?_) _
  cases bar2 with
  | true => exact keepsWords_writeWords keepsWords_stageTable ..
  | false => exact .ite (keepsWords_stagePage ..) (.refl s)

/-! ## The other commands -/

theorem keepsWordsO_execPcieLinkReset (dropped : Nat) (s : State) : KeepsWordsO s (execPcieLinkReset dropped s) :=
  keepsWordsO_up (.of_words fun s => (congrArg wordsOf (stores_bump 1 3 dropped (linkReset s))).trans (words_linkReset s))

theorem keepsWordsO_execFirmwareBoot (st ac pr : Bool) (s : State) : KeepsWordsO s (execFirmwareBoot st ac pr s) :=
  keepsWordsO_up (.guard (.of_stores (stores_fwBoot _)) _)

theorem keepsWordsO_execLaneCalibrated (l : Nat) (ok : Bool) (s : State) : KeepsWordsO s (execLaneCalibrated l ok s) :=
  keepsWordsO_atLane (.of_stores (stores_calibrated l ok)) _

theorem keepsWordsO_execWakeDramReady (d : Nat) (codes : List Nat) (s : State) : KeepsWordsO s (execWakeDramReady d codes s) :=
  keepsWordsO_at (.guard (.of_stores fun _ => (stores_wakeTo d 2 _).trans ((stores_readClasses ..).trans (stores_selfRefresh ..))) _)

theorem keepsWordsO_execWakeInterruptRestore (d : Nat) (s : State) : KeepsWordsO s (execWakeInterruptRestore d s) :=
  keepsWordsO_at (.guard (.of_stores fun s => stores_restoreInterrupts d (wakeTo d 3 s)) _)

theorem keepsWordsO_execRegisterWrite (req : Requester) (a size : Nat) (v : BitVec 64) (s : State) :
    KeepsWordsO s (execRegisterWrite req a size v s) :=
    keepsWordsO_upIf (keepsWords_writeReg a size v) _

theorem keepsWordsO_execCommitTableWrite (q w : Nat) (v : Word) (s : State) : KeepsWordsO s (execCommitTableWrite q w v s) :=
  keepsWordsO_up (.of_stores (stores_writeEntry q w v))

theorem keepsWordsO_execCommit (d p : Nat) (v : Word) (s : State) : KeepsWordsO s (execCommit d p v s) :=
  keepsWordsO_upIf (.of_words (words_commitWrite _ v)) _

theorem keepsWordsO_execCommitCheckStart (s : State) : KeepsWordsO s (execCommitCheckStart s) :=
  keepsWordsO_up (.of_stores (stores_checkStart))

theorem keepsWordsO_execCommitCheckEnd (s : State) : KeepsWordsO s (execCommitCheckEnd s) := keepsWordsO_up (keepsWords_checkEnd)

theorem keepsWordsO_execStatClear (d p : Nat) (v hit : Word) (s : State) : KeepsWordsO s (execStatClear d p v hit s) :=
  keepsWordsO_upIf (.of_stores (stores_clearStat _ v (hit &&& statMask _))) _

theorem keepsWordsO_execStatSet (d p : Nat) (v : Word) (s : State) : KeepsWordsO s (execStatSet d p v s) :=
  keepsWordsO_upIf (.of_stores (stores_raise _ (v &&& statMask _))) _

theorem keepsWordsO_execStatAgainClear (d p : Nat) (v : Word) (hit : Bool) (s : State) : KeepsWordsO s (execStatAgainClear d p v hit s) :=
  keepsWordsO_upIf (.of_stores (stores_writeAgain _ v hit)) _

theorem keepsWordsO_execImaskWrite (d p : Nat) (v : Word) (s : State) : KeepsWordsO s (execImaskWrite d p v s) :=
  keepsWordsO_upIf (.of_stores (stores_setImask _ v true)) _

theorem keepsWordsO_execImaskSet (d p : Nat) (v : Word) (s : State) : KeepsWordsO s (execImaskSet d p v s) :=
  keepsWordsO_upIf (.of_stores (stores_imaskSetOp _ v)) _

theorem keepsWordsO_execImaskClr (d p : Nat) (v : Word) (s : State) : KeepsWordsO s (execImaskClr d p v s) :=
  keepsWordsO_upIf (.of_stores (stores_imaskClrOp _ v)) _

theorem keepsWordsO_execCounterLowRead (req : Requester) (d p n : Nat) (s : State) : KeepsWordsO s (execCounterLowRead req d p n s) :=
  keepsWordsO_upIf (.guard (.of_stores (stores_counterRead req _ n)) _) _

theorem keepsWordsO_execTimeSnapRead (req : Requester) (s : State) : KeepsWordsO s (execTimeSnapRead req s) :=
  keepsWordsO_upIf (.of_stores (stores_timeSnap req)) _

theorem keepsWordsO_execBarnMarkRead (req : Requester) (d e : Nat) (s : State) : KeepsWordsO s (execBarnMarkRead req d e s) :=
  keepsWordsO_upIf (.guard (.of_stores (stores_barnRead req _)) _) _

theorem keepsWordsO_execYokeSinceRead (req : Requester) (take : Bool) (s : State) : KeepsWordsO s (execYokeSinceRead req take s) :=
  keepsWordsO_upIf (.of_stores (stores_yokeRead req take)) _

theorem keepsWordsO_execPackageFurrowBoundary (s : State) : KeepsWordsO s (execPackageFurrowBoundary s) :=
  keepsWordsO_up (keepsWords_packageOp)

theorem keepsWordsO_execPictureBoundary (ch : Nat) (s : State) : KeepsWordsO s (execPictureBoundary ch s) :=
  keepsWordsO_at (keepsWords_boundaryOp ch)

theorem keepsWordsO_execReferenceEligible (src : RefSource) (off : Int) (s : State) : KeepsWordsO s (execReferenceEligible src off s) :=
  keepsWordsO_up (.of_stores (stores_eligible src off))

theorem keepsWordsO_execPtpLock (off : Int) (b : Nat) (s : State) : KeepsWordsO s (execPtpLock off b s) :=
  keepsWordsO_up (.of_stores (stores_ptpLockOp off b))

theorem keepsWordsO_execRef10mStop (s : State) : KeepsWordsO s (execRef10mStop s) := keepsWordsO_up (.of_stores (stores_stopRef .ref10m))

theorem keepsWordsO_execPpsStop (s : State) : KeepsWordsO s (execPpsStop s) := keepsWordsO_up (.of_stores (stores_stopRef .ref10m))

theorem keepsWordsO_execPtpLost (s : State) : KeepsWordsO s (execPtpLost s) := keepsWordsO_up (.of_stores (stores_stopRef .ptp))

theorem keepsWordsO_execRefGlitch (pps : Bool) (s : State) : KeepsWordsO s (execRefGlitch pps s) :=
  keepsWordsO_up (.of_stores (stores_glitchOp pps))

theorem keepsWordsO_execRefRefused (src : RefSource) (s : State) : KeepsWordsO s (execRefRefused src s) :=
  keepsWordsO_upIf (.of_stores (stores_refuseRef src)) _

theorem keepsWordsO_execCrystalStop (s : State) : KeepsWordsO s (execCrystalStop s) := keepsWordsO_up (.of_stores (stores_crystalFail))

theorem keepsWordsO_execHoldoverUpdate (s : State) : KeepsWordsO s (execHoldoverUpdate s) := keepsWordsO_up (.of_stores (stores_holdTick))

theorem keepsWordsO_execFrameReceived (f : Frame) (s : State) : KeepsWordsO s (execFrameReceived f s) :=
  keepsWordsO_at (.of_stores (stores_receiveFrame f))

theorem keepsWordsO_execLineFill (d n m y : Nat) (s : State) : KeepsWordsO s (execLineFill d n m y s) :=
  .named (keepsWordsO_at (.wakes (.of_stores (stores_lineFillOp d n m y))))

theorem keepsWordsO_execFillEnd (d n m y : Nat) (s : State) : KeepsWordsO s (execFillEnd d n m y s) :=
  .named (keepsWordsO_at (.wakes (.of_stores (stores_fillEnds d n m y))))

theorem keepsWordsO_execPathDown (e t : Nat) (s : State) : KeepsWordsO s (execPathDown e t s) :=
  keepsWordsO_at (.of_stores (stores_pathDownOp e t))

theorem keepsWordsO_execCompressedGapLost (d n : Nat) (s : State) : KeepsWordsO s (execCompressedGapLost d n s) :=
  .named (keepsWordsO_at (.of_stores (stores_gapLost d n)))

theorem keepsWordsO_execIgmpReport (e : Nat) (s : State) : KeepsWordsO s (execIgmpReport e s) :=
  keepsWordsO_at (.of_stores (stores_igmpReportOp e))

theorem keepsWordsO_execFenceRead (ch : Nat) (s : State) : KeepsWordsO s (execFenceRead ch s) :=
  keepsWordsO_at fun s => keepsWords_reading _ (fun s => .of_stores (stores_fenceReadOp ch s)) s

theorem keepsWordsO_execComposeStart (ch k : Nat) (s : State) : KeepsWordsO s (execComposeStart ch k s) :=
  keepsWordsO_at (.wakes (.of_stores (stores_composeStartOp ch k)))

theorem keepsWordsO_execCanvasPoint (ch k : Nat) (left : List (Nat × Nat × Nat × Nat)) (s : State) :
    KeepsWordsO s (execCanvasPoint ch k left s) :=
    keepsWordsO_at (.wakes fun s => keepsWords_reading _ (fun s => .of_stores (stores_canvasPointOp ch k left s)) s)

theorem keepsWordsO_execPlantingInstant (ch k : Nat) (s : State) : KeepsWordsO s (execPlantingInstant ch k s) :=
  keepsWordsO_at (.wakes (.of_stores (stores_plantOp ch k)))

theorem keepsWordsO_execItemCreate (d o : Nat) (s : State) : KeepsWordsO s (execItemCreate d o s) :=
  .named (keepsWordsO_at (.of_stores (stores_itemCreateOp d o)))

theorem keepsWordsO_execQueueReevaluate (d t : Nat) (s : State) : KeepsWordsO s (execQueueReevaluate d t s) :=
  keepsWordsO_at (.of_stores (stores_reevaluateOp d t))

theorem keepsWordsO_execItemDispatch (d unit t : Nat) (s : State) : KeepsWordsO s (execItemDispatch d unit t s) :=
  .named (keepsWordsO_at (.of_stores (stores_dispatchOp d unit t)))

theorem keepsWordsO_execItemEnd (d slot t : Nat) (s : State) : KeepsWordsO s (execItemEnd d slot t s) :=
  keepsWordsO_at (.of_stores (stores_itemEnds d slot t))

theorem keepsWordsO_execCtuCoded (ch k : Nat) (s : State) : KeepsWordsO s (execCtuCoded ch k s) := keepsWordsO_at (keepsWords_codeNext ch k)

theorem keepsWordsO_execCodedPoint (ch k : Nat) (s : State) : KeepsWordsO s (execCodedPoint ch k s) :=
  keepsWordsO_at (keepsWords_codedPoint ch k)

theorem keepsWordsO_execDeadlinePoint (ch k finished : Nat) (s : State) : KeepsWordsO s (execDeadlinePoint ch k finished s) :=
  keepsWordsO_at (keepsWords_deadlinePoint ch k finished)

theorem keepsWordsO_execTrackingWindowEnd (d : Nat) (s : State) : KeepsWordsO s (execTrackingWindowEnd d s) :=
  keepsWordsO_at (.of_stores (stores_trackEnd d))

theorem keepsWordsO_execDspWindowEnd (d : Nat) (s : State) : KeepsWordsO s (execDspWindowEnd d s) :=
  keepsWordsO_at (.of_stores (stores_windowEnds d))

theorem keepsWordsO_execAccessUnitCutoff (d n : Nat) (au : AccessUnit) (s : State) : KeepsWordsO s (execAccessUnitCutoff d n au s) :=
  keepsWordsO_atDec (fun s => keepsWords_reading _ (fun s => .of_stores (stores_accessUnitOp d n au s)) s) d n

theorem keepsWordsO_execDecodedSlicePoint (d n : Nat) (damaged : Bool) (area : List (Nat × Nat)) (s : State) :
    KeepsWordsO s (execDecodedSlicePoint d n damaged area s) :=
    keepsWordsO_atDec (fun s => keepsWords_reading _ (fun s => .of_stores (stores_slicePointOp d n damaged area s)) s) d n

theorem keepsWordsO_execDueTime (d n : Nat) (s : State) : KeepsWordsO s (execDueTime d n s) :=
  keepsWordsO_atDec (.of_stores (stores_dueTimeOp d n)) _ _

theorem keepsWordsO_execRefreshDue (d i : Nat) (s : State) : KeepsWordsO s (execRefreshDue d i s) :=
  .named (keepsWordsO_at (.guard (.of_stores (stores_refreshDue d i)) _))

theorem keepsWordsO_execMr4PeriodicRead (d : Nat) (codes : List Nat) (s : State) : KeepsWordsO s (execMr4PeriodicRead d codes s) :=
  keepsWordsO_at (.guard (.of_stores (stores_readRound d true codes)) _)

theorem keepsWordsO_execThermalAlert (d : Nat) (codes : List Nat) (s : State) : KeepsWordsO s (execThermalAlert d codes s) :=
  keepsWordsO_at (.guard (.of_stores (stores_readRound d false codes)) _)

theorem keepsWordsO_execPanicEntry (d p l : Nat) (s : State) : KeepsWordsO s (execPanicEntry d p l s) :=
  .named (keepsWordsO_at (.of_stores (stores_levelTo d p l)))

theorem keepsWordsO_execPanicExit (d p l : Nat) (s : State) : KeepsWordsO s (execPanicExit d p l s) :=
  .named (keepsWordsO_at (.of_stores (stores_levelTo d p l)))

theorem keepsWordsO_execPortRun (d p : Nat) (s : State) : KeepsWordsO s (execPortRun d p s) :=
  .named (keepsWordsO_at (.of_stores fun s => (stores_bump ..).trans ((stores_raiseBit ..).trans (stores_levelTo d p 0 s))))

theorem keepsWordsO_execPatrolPass (d : Nat) (singles doubles : List Nat) (s : State) :
    KeepsWordsO s (execPatrolPass d singles doubles s) :=
    keepsWordsO_at (.guard (.of_stores (stores_patrol d singles doubles)) _)

theorem keepsWordsO_execApertureRead (x n : Nat) (e : EccEvent) (s : State) : KeepsWordsO s (execApertureRead x n e s) :=
  keepsWordsO_upIf (.of_stores (stores_aperRead x n e)) _

theorem keepsWordsO_execApertureWrite (x : Nat) (bs : List (Option Byte)) (e : EccEvent) (s : State) :
    KeepsWordsO s (execApertureWrite x bs e s) :=
    keepsWordsO_upIf (.of_stores (stores_aperWrite x bs e)) _

theorem keepsWordsO_execHostAperWrite (v : Word) (s : State) : KeepsWordsO s (execHostAperWrite v s) :=
  keepsWordsO_upIf (.of_words (words_aperPlace v)) _

theorem keepsWordsO_execPacketRelease (v : Nat) (s : State) : KeepsWordsO s (execPacketRelease v s) :=
  keepsWordsO_at (.of_stores (stores_releaseNext v))

theorem keepsWordsO_execPortTransmit (l t : Nat) (s : State) : KeepsWordsO s (execPortTransmit l t s) :=
  keepsWordsO_at (.of_stores (stores_portDecides l t))

theorem keepsWordsO_execGateEntry (l : Nat) (s : State) : KeepsWordsO s (execGateEntry l s) :=
  keepsWordsO_at (.of_stores (stores_gateBegins l))

theorem keepsWordsO_execListStart (l : Nat) (s : State) : KeepsWordsO s (execListStart l s) :=
  keepsWordsO_at (.of_stores (stores_listStarts l))

theorem keepsWordsO_execSapAnnounce (s : State) : KeepsWordsO s (execSapAnnounce s) := keepsWordsO_up (.of_stores (stores_sapAnnounceOp))

theorem keepsWordsO_execFlowStopSet (d w : Nat) (v : Word) (s : State) : KeepsWordsO s (execFlowStopSet d w v s) :=
  keepsWordsO_upIf (.guard (.of_stores (stores_stopFlows (stopWord d w v))) _) _

theorem keepsWordsO_execFlowStopClr (d w : Nat) (v : Word) (s : State) : KeepsWordsO s (execFlowStopClr d w v s) :=
  keepsWordsO_upIf (.guard (.of_stores (stores_startFlows (stopWord d w v))) _) _

theorem keepsWordsO_execFlowQuenchSet (d : Nat) (v : Word) (s : State) : KeepsWordsO s (execFlowQuenchSet d v s) :=
  keepsWordsO_upIf (.of_stores (stores_quenchPorts d (quenchWord d v))) _

theorem keepsWordsO_execFlowQuenchClr (d : Nat) (v : Word) (s : State) : KeepsWordsO s (execFlowQuenchClr d v s) :=
  keepsWordsO_upIf (.of_stores (stores_unquenchPorts (quenchWord d v))) _

theorem keepsWordsO_execCmdStop (f : Frame) (s : State) : KeepsWordsO s (execCmdStop f s) :=
  keepsWordsO_at (.guard (.of_stores (stores_receiveFrame f)) _)

theorem keepsWordsO_execCmdStart (f : Frame) (s : State) : KeepsWordsO s (execCmdStart f s) :=
  keepsWordsO_at (.guard (.of_stores (stores_receiveFrame f)) _)

theorem keepsWordsO_execCmdQuench (f : Frame) (s : State) : KeepsWordsO s (execCmdQuench f s) :=
  keepsWordsO_at (.guard (.of_stores (stores_receiveFrame f)) _)

theorem keepsWordsO_execCmdUnquench (f : Frame) (s : State) : KeepsWordsO s (execCmdUnquench f s) :=
  keepsWordsO_at (.guard (.of_stores (stores_receiveFrame f)) _)

theorem keepsWordsO_execHelloReceived (h : YHdr) (p : Hello) (s : State) : KeepsWordsO s (execHelloReceived h p s) :=
  keepsWordsO_up (.of_stores fun s => stores_rxFrame h (helloOp p) s (stores_helloOp p))

theorem keepsWordsO_execBeatReceived (h : YHdr) (p : Beat) (s : State) : KeepsWordsO s (execBeatReceived h p s) :=
  keepsWordsO_up (.of_stores fun s => stores_rxFrame h (beatOp p) s (stores_beatOp p))

theorem keepsWordsO_execHeartbeatPulse (w : Nat) (s : State) : KeepsWordsO s (execHeartbeatPulse w s) :=
  keepsWordsO_up (.of_stores (stores_pulseOp w))

theorem keepsWordsO_execHeartbeatMissed (link : Bool) (s : State) : KeepsWordsO s (execHeartbeatMissed link s) :=
  keepsWordsO_up (.of_stores (stores_missedOp link))

theorem keepsWordsO_execHelloSend (s : State) : KeepsWordsO s (execHelloSend s) := keepsWordsO_up (.of_stores (stores_sendHello))

theorem keepsWordsO_execBeatSend (s : State) : KeepsWordsO s (execBeatSend s) := keepsWordsO_up (.of_stores (stores_sendBeat))

theorem keepsWordsO_execPairingTimeout (s : State) : KeepsWordsO s (execPairingTimeout s) :=
  keepsWordsO_upIf (.of_stores (stores_refusePair 5)) _

theorem keepsWordsO_execStateFrame (h : YHdr) (r : Record) (s : State) : KeepsWordsO s (execStateFrame h r s) :=
  keepsWordsO_relCh r.channel h (.stateFrame h r) s

theorem keepsWordsO_execVerdictFrame (h : YHdr) (ch st cause n : Nat) (s : State) : KeepsWordsO s (execVerdictFrame h ch st cause n s) :=
  keepsWordsO_relCh ch h (.verdictFrame h ch st cause n) s

theorem keepsWordsO_execVoteFrame (h : YHdr) (q g : Nat) (crc tcrc : Word) (live res : Nat) (s : State) :
    KeepsWordsO s (execVoteFrame h q g crc tcrc live res s) :=
    keepsWordsO_rel h (.voteFrame h q g crc tcrc live res) s

theorem keepsWordsO_execDecidePass (h : YHdr) (q g e : Nat) (s : State) : KeepsWordsO s (execDecidePass h q g e s) :=
  keepsWordsO_rel h (.decidePass h q g e) s

theorem keepsWordsO_execDecideFail (h : YHdr) (q g : Nat) (s : State) : KeepsWordsO s (execDecideFail h q g s) :=
  keepsWordsO_rel h (.decideFail h q g) s

theorem keepsWordsO_execDecideCatchup (h : YHdr) (q g : Nat) (s : State) : KeepsWordsO s (execDecideCatchup h q g s) :=
  keepsWordsO_rel h (.decideCatchup h q g) s

theorem keepsWordsO_execVoteTimeout (s : State) : KeepsWordsO s (execVoteTimeout s) := keepsWordsO_up (.of_words (words_voteTimeoutOp))

theorem keepsWordsO_execDecideTimeout (s : State) : KeepsWordsO s (execDecideTimeout s) :=
  keepsWordsO_up (.of_words (words_decideTimeoutOp))

theorem keepsWordsO_execCopyBulk (h : YHdr) (ch stall off : Nat) (b : List Byte) (s : State) :
    KeepsWordsO s (execCopyBulk h ch stall off b s) :=
    keepsWordsO_relCh ch h (.copyBulk h ch stall off b) s

theorem keepsWordsO_execCopyRow (h : YHdr) (ch stall off : Nat) (b : List Byte) (s : State) :
    KeepsWordsO s (execCopyRow h ch stall off b s) :=
    keepsWordsO_relCh ch h (.copyRow h ch stall off b) s

theorem keepsWordsO_execCopyMirror (h : YHdr) (ch stall off : Nat) (b : List Byte) (s : State) :
    KeepsWordsO s (execCopyMirror h ch stall off b s) := by
  refine keepsWordsO_at fun s => .ite (.of_stores (stores_copyMirrorOp ch stall off b s)) (.of_stores ?_)
  rfl

theorem keepsWordsO_execBulkCopyDone (ch : Nat) (s : State) : KeepsWordsO s (execBulkCopyDone ch s) :=
  keepsWordsO_at fun s => keepsWords_reading _ (fun s => .of_stores (stores_bulkDoneOp ch s)) s

theorem keepsWordsO_execResyncRequest (h : YHdr) (ch : Nat) (s : State) : KeepsWordsO s (execResyncRequest h ch s) :=
  keepsWordsO_relCh ch h (.resyncRequest h ch) s

theorem keepsWordsO_execResyncCheckpointTaken (h : YHdr) (ch pins n : Nat) (s : State) :
    KeepsWordsO s (execResyncCheckpointTaken h ch pins n s) :=
    keepsWordsO_relCh ch h (.resyncCheckpointTaken h ch pins n) s

theorem keepsWordsO_execResyncCopyDone (h : YHdr) (ch m : Nat) (joins : Bool) (s : State) :
    KeepsWordsO s (execResyncCopyDone h ch m joins s) :=
    keepsWordsO_relCh ch h (.resyncCopyDone h ch m joins) s

theorem keepsWordsO_execResyncAbort (h : YHdr) (ch : Nat) (s : State) : KeepsWordsO s (execResyncAbort h ch s) :=
  keepsWordsO_relCh ch h (.resyncAbort h ch) s

theorem keepsWordsO_execYieldFrame (h : YHdr) (c tR tT : Nat) (s : State) : KeepsWordsO s (execYieldFrame h c tR tT s) :=
  keepsWordsO_rel h (.yieldFrame h c tR tT) s

theorem keepsWordsO_execYokeYield (v : Word) (s : State) : KeepsWordsO s (execYokeYield v s) :=
  keepsWordsO_up (.of_stores (stores_yokeCmd v))

theorem keepsWordsO_execYokeResync (v : Word) (s : State) : KeepsWordsO s (execYokeResync v s) :=
  keepsWordsO_up (.of_stores (stores_yokeCmd v))

theorem keepsWordsO_execTakeover (s : State) : KeepsWordsO s (execTakeover s) := keepsWordsO_up (.of_stores (stores_takeoverOp))

theorem keepsWordsO_execDoorbellFrame (h : YHdr) (n : Nat) (s : State) : KeepsWordsO s (execDoorbellFrame h n s) :=
  keepsWordsO_rel h (.doorbellFrame h n) s

theorem keepsWordsO_execAckFrame (h : YHdr) (s : State) : KeepsWordsO s (execAckFrame h s) :=
  keepsWordsO_up (.of_stores fun s => stores_rxFrame h id s fun _ => rfl)

theorem keepsWordsO_execReliableRetry (n : Nat) (s : State) : KeepsWordsO s (execReliableRetry n s) :=
  keepsWordsO_up (.of_stores (stores_retryOp n))

theorem keepsWordsO_execAckTimer (s : State) : KeepsWordsO s (execAckTimer s) := keepsWordsO_up (.of_stores (stores_ackTimerOp))

theorem keepsWordsO_execDieFault (d : Nat) (cause : Option (Nat × Nat)) (s : State) : KeepsWordsO s (execDieFault d cause s) :=
  keepsWordsO_at (keepsWords_dieFaultFor d cause)

theorem keepsWordsO_execMirrorCopy (ch : Nat) (s : State) : KeepsWordsO s (execMirrorCopy ch s) :=
  keepsWordsO_at fun s => keepsWords_reading _ (fun s => .of_stores (stores_mirrorOp ch s)) s

theorem keepsWordsO_execAudioPacketRelease (v : Nat) (s : State) : KeepsWordsO s (execAudioPacketRelease v s) :=
  .ite (keepsWordsO_next (.refl s)) (keepsWordsO_at (.of_stores (stores_audioRelease v)))

theorem keepsWordsO_execSampleReady (f : Nat) (s : State) : KeepsWordsO s (execSampleReady f s) :=
  keepsWordsO_at (.guard (.wakes (.of_stores (stores_sampleReadyOp f))) _)

theorem keepsWordsO_execZcTimeout (isTdm : Bool) (u c : Nat) (s : State) : KeepsWordsO s (execZcTimeout isTdm u c s) :=
  .ite (keepsWordsO_at (.of_stores (stores_tdmTimeout u c))) (keepsWordsO_at (.of_stores (stores_aflTimeout u c)))

theorem keepsWordsO_execNonAudioClear (isTdm : Bool) (u c : Nat) (s : State) : KeepsWordsO s (execNonAudioClear isTdm u c s) :=
  .ite (keepsWordsO_at (.of_stores (stores_tdmMarkClear u c))) (keepsWordsO_at (.of_stores (stores_aflMarkClear u c)))

theorem keepsWordsO_execTdmFrame (p : Nat) (f : TdmIn) (s : State) : KeepsWordsO s (execTdmFrame p f s) :=
  keepsWordsO_at (.of_stores (stores_tdmFrameOp p f))

theorem keepsWordsO_execTdmClockStop (p : Nat) (s : State) : KeepsWordsO s (execTdmClockStop p s) :=
  keepsWordsO_at (.of_stores (stores_tdmClockStopOp p))

theorem keepsWordsO_execTdmFaultClear (p : Nat) (s : State) : KeepsWordsO s (execTdmFaultClear p s) :=
  keepsWordsO_at (.of_stores (stores_tdmFaultClearOp p))

theorem keepsWordsO_execIcMessageArrival (sender : Nat) (s : State) : KeepsWordsO s (execIcMessageArrival sender s) :=
  keepsWordsO_up (.of_stores (stores_icArrive sender))

theorem keepsWordsO_execIcDoorbell (core : Option Nat) (v : Word) (s : State) : KeepsWordsO s (execIcDoorbell core v s) :=
  keepsWordsO_up (.of_stores (stores_icSend ((core.map senderCore).getD senderHost) v))

theorem keepsWordsO_execIcPendClr (v : Word) (hit : Bool) (s : State) : KeepsWordsO s (execIcPendClr v hit s) :=
  keepsWordsO_up (.of_stores (stores_icClear v hit))

theorem keepsWordsO_execIcEnSet (v : Word) (s : State) : KeepsWordsO s (execIcEnSet v s) :=
  keepsWordsO_up (.of_stores (stores_icEnable v true false))

theorem keepsWordsO_execIcEnClr (v : Word) (hit : Bool) (s : State) : KeepsWordsO s (execIcEnClr v hit s) :=
  keepsWordsO_up (.of_stores (stores_icEnable v false hit))

theorem keepsWordsO_execIcMaskSet (v : Word) (s : State) : KeepsWordsO s (execIcMaskSet v s) :=
  keepsWordsO_up (.of_stores (stores_icMask v true false))

theorem keepsWordsO_execIcMaskClr (v : Word) (hit : Bool) (s : State) : KeepsWordsO s (execIcMaskClr v hit s) :=
  keepsWordsO_up (.of_stores (stores_icMask v false hit))

theorem keepsWordsO_execIcRemote (v : Word) (s : State) : KeepsWordsO s (execIcRemote v s) :=
  keepsWordsO_up (.of_stores (stores_icRemote v))

theorem keepsWordsO_execIcClaim (t : Nat) (late : List Nat) (s : State) : KeepsWordsO s (execIcClaim t late s) :=
  keepsWordsO_upIf (.of_stores (stores_icClaim t late)) _

theorem keepsWordsO_execIcComplete (t : Nat) (v : Word) (s : State) : KeepsWordsO s (execIcComplete t v s) :=
  keepsWordsO_upIf (.of_stores (stores_icComplete t v)) _

theorem keepsWordsO_execRoutingWrite (n : Nat) (v : Word) (s : State) : KeepsWordsO s (execRoutingWrite n v s) :=
  keepsWordsO_up (.of_stores (stores_routeSource n v))

theorem keepsWordsO_execWakeTimeout (n : Nat) (s : State) : KeepsWordsO s (execWakeTimeout n s) :=
  keepsWordsO_up (.of_stores (stores_wakeExpire n))

theorem keepsWordsO_execSignalDetect (l : Nat) (s : State) : KeepsWordsO s (execSignalDetect l s) :=
  keepsWordsO_atLane (.of_stores (stores_signalIn l)) _

theorem keepsWordsO_execSignalLoss (l : Nat) (s : State) : KeepsWordsO s (execSignalLoss l s) :=
  keepsWordsO_atLane (.of_stores (stores_signalOut l)) _

theorem keepsWordsO_execAdaptationConverged (l ctle dfe1 : Nat) (s : State) : KeepsWordsO s (execAdaptationConverged l ctle dfe1 s) :=
  keepsWordsO_atLane (.of_stores (stores_adapted l ctle dfe1)) _

theorem keepsWordsO_execTrainingComplete (l : Nat) (preTx : Bool) (taps : Word) (s : State) :
    KeepsWordsO s (execTrainingComplete l preTx taps s) :=
    keepsWordsO_atLane (.of_stores (stores_trainedOp l preTx taps)) _

theorem keepsWordsO_execTrainingTimeout (l : Nat) (s : State) : KeepsWordsO s (execTrainingTimeout l s) :=
  keepsWordsO_atLane (.of_stores (stores_trainTimeout l)) _

theorem keepsWordsO_execTrainingRetry (l : Nat) (s : State) : KeepsWordsO s (execTrainingRetry l s) :=
  keepsWordsO_atLane (.of_stores (stores_trainRetry l)) _

theorem keepsWordsO_execLockLoss (l : Nat) (s : State) : KeepsWordsO s (execLockLoss l s) :=
  keepsWordsO_atLane (.of_stores (stores_lockOut l)) _

theorem keepsWordsO_execFecBlockEnd (l symbols words bad : Nat) (s : State) : KeepsWordsO s (execFecBlockEnd l symbols words bad s) :=
  keepsWordsO_atLane (.of_stores (stores_fecBlock l symbols words bad)) _

theorem keepsWordsO_execYkIdleEntry (l : Nat) (s : State) : KeepsWordsO s (execYkIdleEntry l s) :=
  .named (keepsWordsO_atLane (.of_stores (stores_idleIn l)) _)

theorem keepsWordsO_execYkIdleExit (l : Nat) (s : State) : KeepsWordsO s (execYkIdleExit l s) :=
  .named (keepsWordsO_atLane (.of_stores (stores_idleOut l)) _)

theorem keepsWordsO_execYkIdleRefresh (l ctle dfe1 : Nat) (s : State) : KeepsWordsO s (execYkIdleRefresh l ctle dfe1 s) :=
  .named (keepsWordsO_atLane (.of_stores (stores_idleRefresh l ctle dfe1)) _)

theorem keepsWordsO_execYkExitLate (l : Nat) (s : State) : KeepsWordsO s (execYkExitLate l s) :=
  .named (keepsWordsO_atLane (.of_stores (stores_exitLate l)) _)

theorem keepsWordsO_execPhyTxeqWrite (d blk : Nat) (v : Word) (s : State) : KeepsWordsO s (execPhyTxeqWrite d blk v s) :=
  keepsWordsO_atBlock (fun l => .of_stores (stores_writeTxeq l v)) d blk

theorem keepsWordsO_execPhyReadapt (d blk : Nat) (v : Word) (s : State) : KeepsWordsO s (execPhyReadapt d blk v s) :=
  keepsWordsO_atBlock (fun l => .of_stores (stores_writeRxeq l v)) d blk

theorem keepsWordsO_execEyeScanStart (d blk : Nat) (v : Word) (s : State) : KeepsWordsO s (execEyeScanStart d blk v s) :=
  keepsWordsO_atBlock (fun l => .of_stores (stores_writeEye l v)) d blk

theorem keepsWordsO_execEyeScanAbort (d blk : Nat) (v : Word) (s : State) : KeepsWordsO s (execEyeScanAbort d blk v s) :=
  keepsWordsO_atBlock (fun l => .of_stores (stores_writeEye l v)) d blk

theorem keepsWordsO_execEyeCellDone (d blk n : Nat) (s : State) : KeepsWordsO s (execEyeCellDone d blk n s) :=
  keepsWordsO_atBlock (fun l s => .ite (.refl s) (.of_stores (stores_eyeCell l n s))) d blk

theorem keepsWordsO_execBootLoadStart (s : State) : KeepsWordsO s (execBootLoadStart s) := keepsWordsO_up (.of_words (words_bootStartOp))

theorem keepsWordsO_execBootWaitEnd (s : State) : KeepsWordsO s (execBootWaitEnd s) := keepsWordsO_up (keepsWords_bootWaitOp)

theorem keepsWordsO_execHostBootHoldRelease (v : Word) (s : State) : KeepsWordsO s (execHostBootHoldRelease v s) :=
  keepsWordsO_upIf (.of_words (words_holdRelease)) _

theorem keepsWordsO_execHostBootAbort (v : Word) (s : State) : KeepsWordsO s (execHostBootAbort v s) :=
  keepsWordsO_upIf (.of_words (words_bootAbortOp)) _

theorem keepsWordsO_execNmosHeartbeat (ok : Bool) (s : State) : KeepsWordsO s (execNmosHeartbeat ok s) :=
  keepsWordsO_up (.of_stores (stores_nmosOp ok))

theorem keepsWordsO_execIs05Patch (receiver : Bool) (e : Nat) (words : List (Nat × Word)) (readOnly : Bool) (at' : Option Nat) (s : State) :
    KeepsWordsO s (execIs05Patch receiver e words readOnly at' s) :=
    keepsWordsO_up (keepsWords_is05PatchOp receiver e words readOnly at')

theorem keepsWordsO_execIs05Activation (s : State) : KeepsWordsO s (execIs05Activation s) := keepsWordsO_up (keepsWords_is05ActivationOp)

theorem keepsWordsO_execDelayReqSend (l : Nat) (s : State) : KeepsWordsO s (execDelayReqSend l s) :=
  keepsWordsO_at (.of_stores (stores_delayReqOp l))

theorem keepsWordsO_execFwWriteStaged (v : Word) (s : State) : KeepsWordsO s (execFwWriteStaged v s) :=
  keepsWordsO_upIf (.of_stores (stores_fwCommand v)) _

theorem keepsWordsO_execFwWriteSettings (v : Word) (s : State) : KeepsWordsO s (execFwWriteSettings v s) :=
  keepsWordsO_upIf (.of_stores (stores_fwCommand v)) _

theorem keepsWordsO_execFwEraseStaged (v : Word) (s : State) : KeepsWordsO s (execFwEraseStaged v s) :=
  keepsWordsO_upIf (.of_stores (stores_fwCommand v)) _

theorem keepsWordsO_execFwEraseSettings (v : Word) (s : State) : KeepsWordsO s (execFwEraseSettings v s) :=
  keepsWordsO_upIf (.of_stores (stores_fwCommand v)) _

theorem keepsWordsO_execFwConfirm (v : Word) (s : State) : KeepsWordsO s (execFwConfirm v s) :=
  keepsWordsO_up (.of_stores (stores_fwConfirm v))

theorem keepsWordsO_execFwCommandEnd (flashErr : Bool) (s : State) : KeepsWordsO s (execFwCommandEnd flashErr s) :=
  keepsWordsO_up fun s => (keepsWords_reading _ (fun s => .of_stores (stores_countReads _ s)) s).before (stores_fwEnd flashErr _)

theorem keepsWordsO_execTackWrite (v : Word) (s : State) : KeepsWordsO s (execTackWrite v s) :=
  keepsWordsO_upIf (.of_stores (stores_tackCommand v)) _

theorem keepsWordsO_execTackErase (v : Word) (s : State) : KeepsWordsO s (execTackErase v s) :=
  keepsWordsO_upIf (.of_stores (stores_tackCommand v)) _

theorem keepsWordsO_execTackAttest (v : Word) (s : State) : KeepsWordsO s (execTackAttest v s) :=
  keepsWordsO_upIf (.of_stores (stores_tackCommand v)) _

theorem keepsWordsO_execTackCommandEnd (s : State) : KeepsWordsO s (execTackCommandEnd s) := keepsWordsO_up (.of_stores (stores_tackEnd))

theorem keepsWordsO_execPcieLinkUp (speed width : Nat) (flit : Bool) (s : State) : KeepsWordsO s (execPcieLinkUp speed width flit s) :=
  keepsWordsO_up (.of_words (words_linkUp speed width flit))

theorem keepsWordsO_execPcieConfigWrite (msixEn funcMask busMaster d3 : Bool) (s : State) :
    KeepsWordsO s (execPcieConfigWrite msixEn funcMask busMaster d3 s) :=
    keepsWordsO_up (.of_words (words_configWrite msixEn funcMask busMaster d3))

theorem keepsWordsO_execReferenceEdge (pps : Bool) (res : Int) (s : State) : KeepsWordsO s (execReferenceEdge pps res s) :=
  keepsWordsO_up (.of_stores (stores_edgeOp pps res))

theorem keepsWordsO_execTdmClockReturn (p : Nat) (ppm : Int) (s : State) : KeepsWordsO s (execTdmClockReturn p ppm s) :=
  keepsWordsO_at (.of_stores (stores_tdmClockReturnOp p ppm))

/-! ## Every command -/

theorem keepsWords_exec (c : Instr) (s : State) : KeepsWordsO s (exec c s) := by
  cases c with
  | supplyRise => exact keepsWordsO_execSupplyRise s
  | supplyFall => exact keepsWordsO_execSupplyFall s
  | perstAssert => exact keepsWordsO_execPerstAssert s
  | perstRelease => exact keepsWordsO_execPerstRelease s
  | pcieLinkReset => exact keepsWordsO_execPcieLinkReset _ s
  | warmResetRequest => exact keepsWordsO_execWarmResetRequest _ s
  | coldResetRequest => exact keepsWordsO_execColdResetRequest _ s
  | resetRelease => exact keepsWordsO_execResetRelease s
  | ctrlStoreZeroised => exact keepsWordsO_execCtrlStoreZeroised _ s
  | dramTrainingDone => exact keepsWordsO_execDramTrainingDone _ _ s
  | granuleWiped => exact keepsWordsO_execGranuleWiped _ s
  | firmwareBoot => exact keepsWordsO_execFirmwareBoot _ _ _ s
  | sramZeroised => exact keepsWordsO_execSramZeroised _ s
  | domainPowerUpDone => exact keepsWordsO_execDomainPowerUpDone _ _ s
  | domainPowerGoodTimeout => exact keepsWordsO_execDomainPowerGoodTimeout _ _ s
  | domainPowerDown => exact keepsWordsO_execDomainPowerDown _ _ s
  | domainHoldWrite => exact keepsWordsO_execDomainHoldWrite _ _ s
  | laneCalibrated => exact keepsWordsO_execLaneCalibrated _ _ s
  | lcArm => exact keepsWordsO_execLcArm _ s
  | lcGo => exact keepsWordsO_execLcGo _ s
  | lcArmTimeout => exact keepsWordsO_execLcArmTimeout s
  | dieSleepRequest => exact keepsWordsO_execDieSleepRequest _ s
  | dieAsleep => exact keepsWordsO_execDieAsleep _ s
  | dieWakeRequest => exact keepsWordsO_execDieWakeRequest _ s
  | wakeDomainsUp => exact keepsWordsO_execWakeDomainsUp _ s
  | wakeDramReady => exact keepsWordsO_execWakeDramReady _ _ s
  | wakeInterruptRestore => exact keepsWordsO_execWakeInterruptRestore _ s
  | wakeSramZeroised => exact keepsWordsO_execWakeSramZeroised _ s
  | wakeFirmwareStarted => exact keepsWordsO_execWakeFirmwareStarted _ s
  | registerWrite => exact keepsWordsO_execRegisterWrite _ _ _ _ s
  | stageWrite => exact keepsWordsO_execStageWrite _ _ _ _ _ s
  | commitTableWrite => exact keepsWordsO_execCommitTableWrite _ _ _ s
  | commit => exact keepsWordsO_execCommit _ _ _ s
  | commitCheckStart => exact keepsWordsO_execCommitCheckStart s
  | commitCheckEnd => exact keepsWordsO_execCommitCheckEnd s
  | statClear => exact keepsWordsO_execStatClear _ _ _ _ s
  | statSet => exact keepsWordsO_execStatSet _ _ _ s
  | statAgainClear => exact keepsWordsO_execStatAgainClear _ _ _ _ s
  | imaskWrite => exact keepsWordsO_execImaskWrite _ _ _ s
  | imaskSet => exact keepsWordsO_execImaskSet _ _ _ s
  | imaskClr => exact keepsWordsO_execImaskClr _ _ _ s
  | counterLowRead => exact keepsWordsO_execCounterLowRead _ _ _ _ s
  | timeSnapRead => exact keepsWordsO_execTimeSnapRead _ s
  | barnMarkRead => exact keepsWordsO_execBarnMarkRead _ _ _ s
  | yokeSinceRead => exact keepsWordsO_execYokeSinceRead _ _ s
  | packageFurrowBoundary => exact keepsWordsO_execPackageFurrowBoundary s
  | pictureBoundary => exact keepsWordsO_execPictureBoundary _ s
  | referenceEligible => exact keepsWordsO_execReferenceEligible _ _ s
  | ptpLock => exact keepsWordsO_execPtpLock _ _ s
  | ref10mStop => exact keepsWordsO_execRef10mStop s
  | ppsStop => exact keepsWordsO_execPpsStop s
  | ptpLost => exact keepsWordsO_execPtpLost s
  | refGlitch => exact keepsWordsO_execRefGlitch _ s
  | refRefused => exact keepsWordsO_execRefRefused _ s
  | crystalStop => exact keepsWordsO_execCrystalStop s
  | holdoverUpdate => exact keepsWordsO_execHoldoverUpdate s
  | frameReceived => exact keepsWordsO_execFrameReceived _ s
  | lineFill => exact keepsWordsO_execLineFill _ _ _ _ s
  | fillEnd => exact keepsWordsO_execFillEnd _ _ _ _ s
  | pathDown => exact keepsWordsO_execPathDown _ _ s
  | compressedGapLost => exact keepsWordsO_execCompressedGapLost _ _ s
  | igmpReport => exact keepsWordsO_execIgmpReport _ s
  | fenceRead => exact keepsWordsO_execFenceRead _ s
  | composeStart => exact keepsWordsO_execComposeStart _ _ s
  | canvasPoint => exact keepsWordsO_execCanvasPoint _ _ _ s
  | plantingInstant => exact keepsWordsO_execPlantingInstant _ _ s
  | itemCreate => exact keepsWordsO_execItemCreate _ _ s
  | queueReevaluate => exact keepsWordsO_execQueueReevaluate _ _ s
  | itemDispatch => exact keepsWordsO_execItemDispatch _ _ _ s
  | itemEnd => exact keepsWordsO_execItemEnd _ _ _ s
  | ctuCoded => exact keepsWordsO_execCtuCoded _ _ s
  | codedPoint => exact keepsWordsO_execCodedPoint _ _ s
  | deadlinePoint => exact keepsWordsO_execDeadlinePoint _ _ _ s
  | engineFault => exact keepsWordsO_execEngineFault _ _ _ s
  | trackingWindowEnd => exact keepsWordsO_execTrackingWindowEnd _ s
  | dspWindowEnd => exact keepsWordsO_execDspWindowEnd _ s
  | accessUnitCutoff => exact keepsWordsO_execAccessUnitCutoff _ _ _ s
  | decodedSlicePoint => exact keepsWordsO_execDecodedSlicePoint _ _ _ _ s
  | dueTime => exact keepsWordsO_execDueTime _ _ s
  | refreshDue => exact keepsWordsO_execRefreshDue _ _ s
  | mr4PeriodicRead => exact keepsWordsO_execMr4PeriodicRead _ _ s
  | thermalAlert => exact keepsWordsO_execThermalAlert _ _ s
  | panicEntry => exact keepsWordsO_execPanicEntry _ _ _ s
  | panicExit => exact keepsWordsO_execPanicExit _ _ _ s
  | portRun => exact keepsWordsO_execPortRun _ _ s
  | patrolPass => exact keepsWordsO_execPatrolPass _ _ _ s
  | apertureRead => exact keepsWordsO_execApertureRead _ _ _ s
  | apertureWrite => exact keepsWordsO_execApertureWrite _ _ _ s
  | hostAperWrite => exact keepsWordsO_execHostAperWrite _ s
  | packetRelease => exact keepsWordsO_execPacketRelease _ s
  | portTransmit => exact keepsWordsO_execPortTransmit _ _ s
  | gateEntry => exact keepsWordsO_execGateEntry _ s
  | listStart => exact keepsWordsO_execListStart _ s
  | sapAnnounce => exact keepsWordsO_execSapAnnounce s
  | flowStopSet => exact keepsWordsO_execFlowStopSet _ _ _ s
  | flowStopClr => exact keepsWordsO_execFlowStopClr _ _ _ s
  | flowQuenchSet => exact keepsWordsO_execFlowQuenchSet _ _ s
  | flowQuenchClr => exact keepsWordsO_execFlowQuenchClr _ _ s
  | cmdStop => exact keepsWordsO_execCmdStop _ s
  | cmdStart => exact keepsWordsO_execCmdStart _ s
  | cmdQuench => exact keepsWordsO_execCmdQuench _ s
  | cmdUnquench => exact keepsWordsO_execCmdUnquench _ s
  | helloReceived => exact keepsWordsO_execHelloReceived _ _ s
  | beatReceived => exact keepsWordsO_execBeatReceived _ _ s
  | heartbeatPulse => exact keepsWordsO_execHeartbeatPulse _ s
  | heartbeatMissed => exact keepsWordsO_execHeartbeatMissed _ s
  | helloSend => exact keepsWordsO_execHelloSend s
  | beatSend => exact keepsWordsO_execBeatSend s
  | pairingTimeout => exact keepsWordsO_execPairingTimeout s
  | pairRetry => exact keepsWordsO_execPairRetry s
  | stateFrame => exact keepsWordsO_execStateFrame _ _ s
  | verdictFrame => exact keepsWordsO_execVerdictFrame _ _ _ _ _ s
  | voteFrame => exact keepsWordsO_execVoteFrame _ _ _ _ _ _ _ s
  | decidePass => exact keepsWordsO_execDecidePass _ _ _ _ s
  | decideFail => exact keepsWordsO_execDecideFail _ _ _ s
  | decideCatchup => exact keepsWordsO_execDecideCatchup _ _ _ s
  | voteTimeout => exact keepsWordsO_execVoteTimeout s
  | decideTimeout => exact keepsWordsO_execDecideTimeout s
  | copyBulk => exact keepsWordsO_execCopyBulk _ _ _ _ _ s
  | copyRow => exact keepsWordsO_execCopyRow _ _ _ _ _ s
  | copyMirror => exact keepsWordsO_execCopyMirror _ _ _ _ _ s
  | bulkCopyDone => exact keepsWordsO_execBulkCopyDone _ s
  | resyncRequest => exact keepsWordsO_execResyncRequest _ _ s
  | resyncCheckpointTaken => exact keepsWordsO_execResyncCheckpointTaken _ _ _ _ s
  | resyncCopyDone => exact keepsWordsO_execResyncCopyDone _ _ _ _ s
  | resyncAbort => exact keepsWordsO_execResyncAbort _ _ s
  | yieldFrame => exact keepsWordsO_execYieldFrame _ _ _ _ s
  | yokeYield => exact keepsWordsO_execYokeYield _ s
  | yokeResync => exact keepsWordsO_execYokeResync _ s
  | takeover => exact keepsWordsO_execTakeover s
  | doorbellFrame => exact keepsWordsO_execDoorbellFrame _ _ s
  | ackFrame => exact keepsWordsO_execAckFrame _ s
  | reliableRetry => exact keepsWordsO_execReliableRetry _ s
  | ackTimer => exact keepsWordsO_execAckTimer s
  | dieFault => exact keepsWordsO_execDieFault _ _ s
  | mirrorCopy => exact keepsWordsO_execMirrorCopy _ s
  | audioPacketRelease => exact keepsWordsO_execAudioPacketRelease _ s
  | sampleReady => exact keepsWordsO_execSampleReady _ s
  | zcTimeout => exact keepsWordsO_execZcTimeout _ _ _ s
  | nonAudioClear => exact keepsWordsO_execNonAudioClear _ _ _ s
  | tdmFrame => exact keepsWordsO_execTdmFrame _ _ s
  | tdmClockStop => exact keepsWordsO_execTdmClockStop _ s
  | tdmFaultClear => exact keepsWordsO_execTdmFaultClear _ s
  | icMessageArrival => exact keepsWordsO_execIcMessageArrival _ s
  | icDoorbell => exact keepsWordsO_execIcDoorbell _ _ s
  | icPendClr => exact keepsWordsO_execIcPendClr _ _ s
  | icEnSet => exact keepsWordsO_execIcEnSet _ s
  | icEnClr => exact keepsWordsO_execIcEnClr _ _ s
  | icMaskSet => exact keepsWordsO_execIcMaskSet _ s
  | icMaskClr => exact keepsWordsO_execIcMaskClr _ _ s
  | icRemote => exact keepsWordsO_execIcRemote _ s
  | icClaim => exact keepsWordsO_execIcClaim _ _ s
  | icComplete => exact keepsWordsO_execIcComplete _ _ s
  | routingWrite => exact keepsWordsO_execRoutingWrite _ _ s
  | wakeTimeout => exact keepsWordsO_execWakeTimeout _ s
  | signalDetect => exact keepsWordsO_execSignalDetect _ s
  | signalLoss => exact keepsWordsO_execSignalLoss _ s
  | adaptationConverged => exact keepsWordsO_execAdaptationConverged _ _ _ s
  | trainingComplete => exact keepsWordsO_execTrainingComplete _ _ _ s
  | trainingTimeout => exact keepsWordsO_execTrainingTimeout _ s
  | trainingRetry => exact keepsWordsO_execTrainingRetry _ s
  | lockLoss => exact keepsWordsO_execLockLoss _ s
  | fecBlockEnd => exact keepsWordsO_execFecBlockEnd _ _ _ _ s
  | ykIdleEntry => exact keepsWordsO_execYkIdleEntry _ s
  | ykIdleExit => exact keepsWordsO_execYkIdleExit _ s
  | ykIdleRefresh => exact keepsWordsO_execYkIdleRefresh _ _ _ s
  | ykExitLate => exact keepsWordsO_execYkExitLate _ s
  | phyTxeqWrite => exact keepsWordsO_execPhyTxeqWrite _ _ _ s
  | phyReadapt => exact keepsWordsO_execPhyReadapt _ _ _ s
  | eyeScanStart => exact keepsWordsO_execEyeScanStart _ _ _ s
  | eyeScanAbort => exact keepsWordsO_execEyeScanAbort _ _ _ s
  | eyeCellDone => exact keepsWordsO_execEyeCellDone _ _ _ s
  | bootLoadStart => exact keepsWordsO_execBootLoadStart s
  | bootWaitEnd => exact keepsWordsO_execBootWaitEnd s
  | hostBootHoldRelease => exact keepsWordsO_execHostBootHoldRelease _ s
  | hostBootAbort => exact keepsWordsO_execHostBootAbort _ s
  | nmosHeartbeat => exact keepsWordsO_execNmosHeartbeat _ s
  | is05Patch => exact keepsWordsO_execIs05Patch _ _ _ _ _ s
  | is05Activation => exact keepsWordsO_execIs05Activation s
  | delayReqSend => exact keepsWordsO_execDelayReqSend _ s
  | fwWriteStaged => exact keepsWordsO_execFwWriteStaged _ s
  | fwWriteSettings => exact keepsWordsO_execFwWriteSettings _ s
  | fwEraseStaged => exact keepsWordsO_execFwEraseStaged _ s
  | fwEraseSettings => exact keepsWordsO_execFwEraseSettings _ s
  | fwConfirm => exact keepsWordsO_execFwConfirm _ s
  | fwCommandEnd => exact keepsWordsO_execFwCommandEnd _ s
  | tackWrite => exact keepsWordsO_execTackWrite _ s
  | tackErase => exact keepsWordsO_execTackErase _ s
  | tackAttest => exact keepsWordsO_execTackAttest _ s
  | tackCommandEnd => exact keepsWordsO_execTackCommandEnd s
  | packagePagesReady => exact keepsWordsO_execPackagePagesReady s
  | pcieLinkUp => exact keepsWordsO_execPcieLinkUp _ _ _ s
  | pcieConfigWrite => exact keepsWordsO_execPcieConfigWrite _ _ _ _ s
  | referenceEdge => exact keepsWordsO_execReferenceEdge _ _ s
  | tdmClockReturn => exact keepsWordsO_execTdmClockReturn _ _ s

/-- Settles O58: the memory by what every command keeps of it, the words by what every command keeps of them. -/
theorem stepKeepsCanonical : Obligations.StepKeepsCanonical := by
  unfold Obligations.StepKeepsCanonical
  rintro s t ⟨hdram, hwords⟩ hst
  rcases step_cases hst with ⟨-, rfl⟩ | ⟨c, rest, -, hc⟩
  · exact ⟨hdram, hwords⟩
  · obtain ⟨-, -, -, hmem⟩ := kept_exec c _ t hc
    exact ⟨hmem hdram, (keepsWords_exec c _ t hc).keeps hwords⟩

end Sys2Proof.Laws
end

section
/-! Accesses to pages: those that R37 does not list (R38), and where a word of a page that exists is read and written (R36, R43). -/

namespace Sys2Proof.Laws

open Sys2Proof Sys2Proof.Machine

theorem keyPage_pkey (d p : Nat) (hp : p < 8192) : keyPage (pkey d p) = p := by
  unfold keyPage pkey
  omega

theorem pkey_lt {d p : Nat} (hd : d < 8) (hp : p < 8192) : pkey d p < 2 ^ 16 := by
  unfold pkey
  omega

/-- R37 lists no page of this number on the die. -/
theorem pageExists_of_unlisted (s : State) {d p : Nat} (hp : p < 8192) (hdie : diePage p = false)
    (hpkg : packagePage p = false ∨ d ≠ 0) : pageExists s (pkey d p) = false := by
  rcases hpkg with h | h <;> simp [pageExists, keyDie_pkey d p hp, keyPage_pkey d p hp, hdie, h]

/-- Every command on the header of a page that does not exist does nothing. -/
theorem headerCommands_of_missing {s : State} {d p : Nat} (hk : pageExists s (pkey d p) = false) (v w : Word) (b : Bool) :
    exec (.commit d p v) s = .next s ∧ exec (.statClear d p v w) s = .next s ∧ exec (.statSet d p v) s = .next s ∧
      exec (.statAgainClear d p v b) s = .next s ∧ exec (.imaskWrite d p v) s = .next s ∧
      exec (.imaskSet d p v) s = .next s ∧ exec (.imaskClr d p v) s = .next s :=
  have onMissing : ∀ f : Nat → State → State, onPage d p f s = .next s := onPage_of_missing hk
  ⟨onMissing (fun k => commitWrite k v), onMissing (fun k => clearStat k v (w &&& statMask k)),
    onMissing (fun k => raise k (v &&& statMask k)), onMissing (fun k => writeAgain k v b),
    onMissing (fun k => setImask k v true), onMissing (fun k => imaskSetOp k v), onMissing (fun k => imaskClrOp k v)⟩

/-- Settles O9: an unlisted page does not exist, and every access to a page that does not exist is discarded. -/
theorem unlistedPageReadsZeroAndDiscards : Obligations.UnlistedPageReadsZeroAndDiscards := by
  unfold Obligations.UnlistedPageReadsZeroAndDiscards
  intro s d p hd hp hdie hpkg
  have hk := pageExists_of_unlisted s hp hdie hpkg
  have hb := pkey_lt hd hp
  refine ⟨fun req off size hoff => readReg_of_missing hk hoff hb req size, fun req off size v hoff => ?_,
    fun v w b => headerCommands_of_missing hk v w b,
    fun req n => onPage_of_missing hk (fun k => guard' (decide (n < 128) && decoded req s) (counterRead req k n))⟩
  exact ⟨execRegisterWrite_of_missing hk hoff hb req size v, execStageWrite_of_missing hk hoff req size v⟩

/-! ## Accesses to a word of a page that exists -/

theorem dies_le (s : State) : dies s ≤ 8 := by
  unfold dies
  split <;> decide

theorem dies_pos (s : State) : 0 < dies s := by
  unfold dies
  split <;> decide

theorem keyDie_lt_dies {s : State} {k : Nat} (hk : pageExists s k = true) : keyDie k < dies s := by
  simp only [pageExists, Bool.and_eq_true, decide_eq_true_eq] at hk
  exact hk.1

theorem key_lt {s : State} {k : Nat} (hk : pageExists s k = true) : k < 2 ^ 16 := by
  have h := keyDie_lt_dies hk
  have := dies_le s
  unfold keyDie at h
  omega

theorem ploc_mod {k off : Nat} (hoff : off < 4096) : ploc k off % 4096 = off := by
  unfold ploc
  omega

theorem ploc_mod_four {k off : Nat} (h4 : off % 4 = 0) : ploc k off % 4 = 0 := by
  unfold ploc
  omega

section
variable {s : State} {k off : Nat} (hk : pageExists s k = true) (hoff : off < 4096) (h4 : off % 4 = 0)
include hk hoff h4

/-- A read of a word of a page is that page's (R36). -/
theorem readReg_ploc (hrun : inReset s = false) (req : Requester) : readReg s req (ploc k off) 4 = readPage s req k off := by
  rw [readReg, hrun, ploc_mod_four h4, if_pos (ploc_lt_bar0 hoff (key_lt hk)), ploc_div hoff, ploc_mod hoff]
  rfl

theorem writeReg_ploc (v : BitVec 64) : writeReg (ploc k off) 4 v s = writePage k off (v.setWidth 32) s := by
  rw [writeReg, ploc_mod_four h4, if_pos (ploc_lt_bar0 hoff (key_lt hk)), ploc_div hoff, ploc_mod hoff]
  rfl

end

section
variable {s : State} {k off : Nat} (hk : pageExists s k = true) (hoff : off < 0x100)
include hk hoff

theorem readPage_header (req : Requester) : readPage s req k off = headerW s k off := by
  simp [readPage, hk, hoff]

theorem writePage_header (v : Word) : writePage k off v s = writeHeader k off v s := by
  simp [writePage, hk, hoff]

end

/-- A register write of a part that runs and decodes it is done. -/
theorem exec_registerWrite_of_running {s : State} {req : Requester} (hrun : inReset s = false) (hdec : decoded req s = true)
    (a size : Nat) (v : BitVec 64) : exec (.registerWrite req a size v) s = .next (writeReg a size v s) := by
  change Host.Outcome.next (whenUp s (guard' (decoded req s) (writeReg a size v))) = _
  rw [whenUp_of_running hrun, hdec, guard', if_pos rfl]

/-! ## PAGE_ID -/

theorem pageType_lt (p : Nat) : pageType p < 2 ^ 16 := by
  have package : ∀ p < 12, [0x01, 0xB0, 0x90, 0xD0, 0xE0, 0xC0, 0xC1, 0x70, 0x80, 0x80, 0x80, 0x80].getD p 0 < 2 ^ 16 := by decide
  have die : ∀ i < 10, [0x02, 0x50, 0x40, 0x10, 0x11, 0x20, 0x34, 0x60, 0x61, 0x62].getD i 0 < 2 ^ 16 := by decide
  unfold pageType
  split_ifs
  · exact package p ‹_›
  · exact die _ (by omega)
  all_goals decide

theorem pageInstance_lt {p : Nat} (hp : p < 0x500) : pageInstance p < 2 ^ 8 := by
  unfold pageInstance
  split_ifs <;> omega

theorem keyPage_lt_of_exists {s : State} {k : Nat} (hk : pageExists s k = true) : keyPage k < 0x500 := by
  simp [pageExists, diePage, packagePage] at hk
  omega

/-- The fields of `PAGE_ID` (R43). -/
theorem fields_of_pageId {p : Nat} (hp : p < 0x500) :
    fld (pageId p) 31 16 = pageType p ∧ fld (pageId p) 15 8 = pageInstance p ∧ fld (pageId p) 7 0 = 1 := by
  have ht := pageType_lt p
  have hi := pageInstance_lt hp
  simp only [fld, pageId, BitVec.toNat_ofNat, Nat.shiftRight_eq_div_pow]
  omega

theorem pageExists_channel {s : State} {d : Nat} (hd : d < dies s) : pageExists s (pkey d 0x206) = true := by
  simp [pageExists, keyDie_pkey, keyPage_pkey, hd, diePage]

theorem chPage_six (d : Nat) : chPage 0x200 (32 * d + 6) = pkey d 0x206 := by
  unfold chPage
  congr 1 <;> omega

theorem readReg_pageId {s : State} {k : Nat} (hk : pageExists s k = true) (hrun : inReset s = false) (req : Requester) :
    readReg s req (ploc k 0) 4 = pageId (keyPage k) :=
  (readReg_ploc hk (by decide) (by decide) hrun req).trans (readPage_header hk (by decide) req)

/-- Settles O10: the header's first word is `PAGE_ID` of the page, and no register takes a write there. -/
theorem pageIdReadsTypeAndInstance : Obligations.PageIdReadsTypeAndInstance := by
  unfold Obligations.PageIdReadsTypeAndInstance
  intro s req hrun
  refine ⟨fun k hk => ?_, fun d hd => ?_, fun k v hk => ?_⟩
  · rw [show 4096 * k = ploc k 0 from rfl, readReg_pageId hk hrun]
    exact fields_of_pageId (keyPage_lt_of_exists hk)
  · rw [chPage_six, readReg_pageId (pageExists_channel hd) hrun, keyPage_pkey d _ (by decide)]
    decide
  · refine congrArg _ (whenUp_eq_self (guard_eq_self ?_))
    rw [writeReg_ploc hk (by decide) (by decide), writePage_header hk (by decide)]
    rfl

end Sys2Proof.Laws
end

section
/-! The flags of a page (R46–R49): the operations on a page's status, mask and collision counter have one shape, a change of the page's
header and a message of the page where an unmasked bit rises. -/

namespace Sys2Proof.Laws

open Sys2Proof Sys2Proof.Machine

/-- The shape of the operations on a page's flags: the header of page `k` changes by `f`, and the page's message leaves when `c`. -/
def flagged (k : Nat) (f : PageHdr → PageHdr) (c : Bool) (s : State) : State := if c then doorbell k (modPage k f s) else modPage k f s

theorem raise_eq_flagged (k : Nat) (m : Word) (s : State) :
    raise k m s = flagged k (fun h => { h with stat := h.stat ||| m, again := sat8 (h.again + ones (m &&& h.stat)) })
      ((page s k).evtEn && decide (m &&& ~~~(page s k).stat &&& ~~~(page s k).imask ≠ 0)) s := rfl

theorem clearStat_eq_flagged (k : Nat) (v hit : Word) (s : State) :
    clearStat k v hit s = flagged k (fun h => { h with
      stat := (h.stat &&& ~~~v) ||| hit, again := sat8 (h.again + ones ((v &&& hit) ||| (hit &&& h.stat))) })
      ((page s k).evtEn && decide (hit &&& ~~~(page s k).stat &&& ~~~(page s k).imask ≠ 0)) s := rfl

theorem setImask_eq_flagged (k : Nat) (v : Word) (s : State) :
    setImask k v true s = flagged k (fun h => { h with imask := v })
      ((page s k).evtEn && decide ((page s k).imask &&& ~~~v &&& (page s k).stat ≠ 0)) s := rfl

theorem setImask_quiet (k : Nat) (v : Word) (s : State) : setImask k v false s = modPage k (fun h => { h with imask := v }) s := rfl

section
variable (k : Nat) (f : PageHdr → PageHdr) (c : Bool) (s : State)

theorem page_flagged (j : Nat) : page (flagged k f c s) j = if j = k then f (page s k) else page s j := by
  rw [← page_modPage]
  unfold flagged
  split <;> rfl

theorem page_flagged_same : page (flagged k f c s) k = f (page s k) := by
  rw [page_flagged, if_pos rfl]

theorem page_flagged_other {j : Nat} (h : j ≠ k) : page (flagged k f c s) j = page s j := by
  rw [page_flagged, if_neg h]

/-- A change of a page's flags touches page headers and the messages on their way alone. -/
theorem flagged_frame : flagged k f c s =
    { s with pages := (flagged k f c s).pages, ic := { s.ic with inflight := (flagged k f c s).ic.inflight } } := by
  unfold flagged
  split <;> rfl

end

/-- One message of the page's SOURCE leaves where EN is 1 and a bit of `w` is there, and else none (R49). -/
theorem inflight_flagged (k : Nat) (f : PageHdr → PageHdr) (e : Bool) (w : Word) (s : State)
    (hsrc : (f (page s k)).evtSrc = (page s k).evtSrc) :
    (flagged k f (e && decide (w ≠ 0)) s).ic.inflight =
      s.ic.inflight ++ if e = true ∧ w ≠ 0 then [(k, (page s k).evtSrc)] else [] := by
  simp only [flagged, Bool.and_eq_true, decide_eq_true_eq]
  split
  · rw [← hsrc]
    simp [doorbell, page_modPage]
  · simp

/-- A command on the header of a page that exists is done. -/
theorem onPage_of_running {s : State} {d p : Nat} (hrun : inReset s = false) (hp : p < 8192) (hk : pageExists s (pkey d p) = true)
    (f : Nat → State → State) : onPage d p f s = .next (f (pkey d p) s) := by
  rw [onPage, whenUp_of_running hrun, guard', if_pos (by simp [hp, hk])]

/-! ## The mask -/

/-- Each of the mask's three registers reads the mask (R48). -/
theorem readReg_imask {s : State} {k off : Nat} (hk : pageExists s k = true) (hrun : inReset s = false) (req : Requester)
    (hoff : off = 0x20 ∨ off = 0x24 ∨ off = 0x28) : readReg s req (ploc k off) 4 = (page s k).imask := by
  have header : headerW s k off = (page s k).imask := by rcases hoff with rfl | rfl | rfl <;> rfl
  rw [readReg_ploc hk (by omega) (by omega) hrun, readPage_header hk (by omega), header]

/-- A bit that is masked sends no message when it rises. -/
theorem masked_rise {v m b imask : Word} (h : v &&& ~~~imask = 0) : v &&& m &&& b &&& ~~~imask = 0 := by
  rw [show v &&& m &&& b &&& ~~~imask = v &&& ~~~imask &&& (m &&& b) by ac_rfl, h]
  exact BitVec.zero_and

/-- Settles O11: a mask written is `flagged` with no event, and a masked bit that rises adds no message. -/
theorem maskSetAndClear : Obligations.MaskSetAndClear := by
  unfold Obligations.MaskSetAndClear
  refine ⟨fun k => rfl, fun s d p hrun hp hk => ?_⟩
  have on : ∀ f : Nat → State → State, onPage d p f s = .next (f (pkey d p) s) := onPage_of_running hrun hp hk
  refine ⟨fun req off hoff => readReg_imask hk hrun req hoff, fun v => ?_, fun v => ?_, fun v hv => ?_⟩
  · refine ⟨_, on fun k => imaskSetOp k v, ?_⟩
    simp only [imaskSetOp, setImask_quiet, page_modPage, if_true]
    exact ⟨trivial, trivial, fun j hj => if_neg hj, rfl⟩
  · refine ⟨_, on fun k => imaskClrOp k v, ?_⟩
    simp only [imaskClrOp, setImask_eq_flagged, page_flagged_same]
    exact ⟨trivial, trivial, fun j hj => page_flagged_other _ _ _ _ hj, flagged_frame ..⟩
  · refine ⟨_, on fun k => raise k (v &&& statMask k), ?_⟩
    rw [raise_eq_flagged, inflight_flagged _ _ _ _ _ rfl, masked_rise hv]
    simp

/-! ## Events, clears and collisions -/

theorem writeAgain_eq_modPage (k : Nat) (v : Word) (hit : Bool) (s : State) :
    writeAgain k v hit s = modPage k (fun h => { h with again := (if fld v 7 0 = 0 then (if hit then 1 else 0)
      else if hit then min (h.again + 1) 0xFF else h.again) }) s := by
  unfold writeAgain sat8
  split <;> rfl

/-- A collision and an event on a set bit count alike (R46, R47). -/
theorem collided (v hit stat : Word) : (v &&& hit) ||| (hit &&& stat) = hit &&& (v ||| stat) := by
  rw [BitVec.and_comm v hit, ← BitVec.and_or_distrib_left]

/-- Settles O12: each of the four commands changes its page's flags and sends its message in the one shape of `flagged`. -/
theorem statusBitsAndMessages : Obligations.StatusBitsAndMessages := by
  unfold Obligations.StatusBitsAndMessages
  intro s d p hrun hp hk
  have on : ∀ f : Nat → State → State, onPage d p f s = .next (f (pkey d p) s) := onPage_of_running hrun hp hk
  refine ⟨fun v => ?_, fun v w => ?_, fun v b => ?_, fun v => ?_⟩
  · refine ⟨_, on fun k => raise k (v &&& statMask k), ?_⟩
    simp only [raise_eq_flagged]
    exact ⟨page_flagged_same .., fun j hj => page_flagged_other _ _ _ _ hj, inflight_flagged _ _ _ _ _ rfl, flagged_frame ..⟩
  · refine ⟨_, on fun k => clearStat k v (w &&& statMask k), ?_⟩
    simp only [clearStat_eq_flagged, collided, page_flagged_same]
    exact ⟨trivial, rfl, inflight_flagged _ _ _ _ _ rfl, fun j hj => page_flagged_other _ _ _ _ hj, flagged_frame ..⟩
  · refine ⟨_, on fun k => writeAgain k v b, ?_⟩
    simp only [writeAgain_eq_modPage, page_modPage, if_true]
    exact ⟨trivial, trivial, fun j hj => if_neg hj, rfl⟩
  · refine ⟨_, on fun k => setImask k v true, ?_⟩
    simp only [setImask_eq_flagged]
    exact ⟨page_flagged_same .., inflight_flagged _ _ _ _ _ rfl, fun j hj => page_flagged_other _ _ _ _ hj, flagged_frame ..⟩

end Sys2Proof.Laws
end

section
/-! Register writes (R42): what a write to a header word, a staged word and a register of a page with no staged area does. -/

namespace Sys2Proof.Laws

open Sys2Proof Sys2Proof.Machine

/-- A staged write of a part that runs and decodes it is done. -/
theorem exec_stageWrite_page_of_running {s : State} {req : Requester} (hrun : inReset s = false) (hdec : decoded req s = true)
    {k off : Nat} (hk : pageExists s k = true) (hoff : off < 4096) (h4 : off % 4 = 0) (v : BitVec 64) :
    exec (.stageWrite req false (ploc k off) 4 v) s = .next (stagePage k off (v.setWidth 32) s) := by
  change Host.Outcome.next (whenUp s (guard' (decoded req s) (guard' _ _))) = _
  rw [whenUp_of_running hrun, hdec, guard', if_pos rfl, guard',
    if_pos (by simpa [ploc_mod_four h4] using ploc_lt_bar0 hoff (key_lt hk)), ploc_div hoff, ploc_mod hoff]

theorem exec_stageWrite_table_of_running {s : State} {req : Requester} (hrun : inReset s = false) (hdec : decoded req s = true)
    (o size : Nat) (v : BitVec 64) : exec (.stageWrite req true o size v) s = .next (writeWords stageTable o size v s) := by
  change Host.Outcome.next (whenUp s (guard' (decoded req s) (writeWords stageTable o size v))) = _
  rw [whenUp_of_running hrun, hdec, guard', if_pos rfl]

section
variable {s : State} {req : Requester} (hrun : inReset s = false) (hdec : decoded req s = true)
include hrun hdec

/-- A write to a word of a page that exists acts on the page. -/
theorem exec_registerWrite_page {k off : Nat} (hk : pageExists s k = true) (hoff : off < 4096) (h4 : off % 4 = 0) (v : BitVec 64) :
    exec (.registerWrite req (ploc k off) 4 v) s = .next (writePage k off (v.setWidth 32) s) := by
  rw [exec_registerWrite_of_running hrun hdec, writeReg_ploc hk hoff h4]

theorem exec_registerWrite_header {k off : Nat} (hk : pageExists s k = true) (hoff : off < 0x100) (h4 : off % 4 = 0) (v : BitVec 64) :
    exec (.registerWrite req (ploc k off) 4 v) s = .next (writeHeader k off (v.setWidth 32) s) := by
  rw [exec_registerWrite_page hrun hdec hk (by omega) h4, writePage_header hk hoff]

theorem exec_registerWrite_block {k off : Nat} (hk : pageExists s k = true) (hlo : 0x100 ≤ off) (hhi : off < 0x800) (h4 : off % 4 = 0)
    (hst : stagedPage (keyPage k) = false) (v : BitVec 64) :
    exec (.registerWrite req (ploc k off) 4 v) s = .next (writeBlock k off (v.setWidth 32) s) := by
  rw [exec_registerWrite_page hrun hdec hk (by omega) h4, writePage, hk, if_neg (by decide), if_neg (by omega), if_pos hhi, hst,
    if_neg (by decide)]

theorem exec_registerWrite_staged {k off : Nat} (hk : pageExists s k = true) (hlo : 0x100 ≤ off) (hhi : off < 0x800) (h4 : off % 4 = 0)
    (hst : stagedPage (keyPage k) = true) (v : BitVec 64) :
    exec (.registerWrite req (ploc k off) 4 v) s = .next (stagePage k off (v.setWidth 32) s) := by
  rw [exec_registerWrite_page hrun hdec hk (by omega) h4, writePage, hk, if_neg (by decide), if_neg (by omega), if_pos hhi, hst,
    if_pos rfl]

end

theorem pageExists_pwr (s : State) : pageExists s 4 = true := by
  simp [pageExists, keyDie, keyPage, packagePage, dies_pos]

theorem pageExists_dsp {s : State} {d : Nat} (hd : d < dies s) : pageExists s (pkey d 0x102) = true := by
  simp [pageExists, keyDie_pkey, keyPage_pkey, hd, diePage]

/-- `DSP_WINDOW` takes a value from 10 to 1,000,000 and keeps its own outside that range (R288). -/
theorem writeBlock_dspWindow (d : Nat) (v : Word) (s : State) : writeBlock (pkey d 0x102) 0x100 v s =
    if 10 ≤ fld v 19 0 ∧ fld v 19 0 ≤ 1000000 then modDsp d (fun x => { x with window := fld v 19 0 }) s else s := by
  simp [writeBlock, keyPage_pkey, keyDie_pkey, writeDsp]

/-- Settles O15: a write goes by its offset to the staged area, the header or the block, and each word there has its own rule. -/
theorem registerWritesActByType : Obligations.RegisterWritesActByType := by
  unfold Obligations.RegisterWritesActByType
  intro s req d p off v hrun hdec hp hk
  have on : ∀ f : Nat → State → State, onPage d p f s = .next (f (pkey d p) s) := onPage_of_running hrun hp hk
  have header : ∀ {off}, off < 0x100 → off % 4 = 0 →
      exec (.registerWrite req (ploc (pkey d p) off) 4 v) s = .next (writeHeader (pkey d p) off (v.setWidth 32) s) :=
    fun hoff h4 => exec_registerWrite_header hrun hdec hk hoff h4 v
  have window : d < dies s → exec (.registerWrite req (ploc (pkey d 0x102) 0x100) 4 v) s =
      .next (writeBlock (pkey d 0x102) 0x100 (v.setWidth 32) s) := fun hd =>
    exec_registerWrite_block hrun hdec (pageExists_dsp hd) (by decide) (by decide) (by decide)
      (by rw [keyPage_pkey d _ (by decide)]; decide) v
  refine ⟨fun hlo hhi h4 hst => ?_, ⟨?_, ?_, ?_, ?_⟩, ?_, fun hd hlo hhi => ?_, fun hd hout => ?_⟩
  · rw [exec_registerWrite_staged hrun hdec hk hlo hhi h4 (by rwa [keyPage_pkey d p hp]),
      exec_stageWrite_page_of_running hrun hdec hk (by omega) h4]
  · refine (header (by decide) (by decide)).trans (.trans ?_ (on fun k => clearStat k (v.setWidth 32) (0 &&& statMask k)).symm)
    rw [show (0 : Word) &&& statMask (pkey d p) = 0 from BitVec.zero_and]
    rfl
  · exact (header (by decide) (by decide)).trans (on fun k => raise k (v.setWidth 32 &&& statMask k)).symm
  · exact (header (by decide) (by decide)).trans (on fun k => imaskSetOp k (v.setWidth 32)).symm
  · exact (header (by decide) (by decide)).trans (on fun k => commitWrite k (v.setWidth 32)).symm
  · exact exec_registerWrite_block hrun hdec (pageExists_pwr s) (by decide) (by decide) (by decide) rfl v
  · refine ⟨_, window hd, ?_⟩
    rw [writeBlock_dspWindow, if_pos ⟨hlo, hhi⟩]
    simp only [dsp_modDsp, if_true]
    exact ⟨trivial, fun e he => if_neg he, rfl⟩
  · rw [window hd, writeBlock_dspWindow, if_neg (by omega)]

end Sys2Proof.Laws
end

section
/-! Staged writes (R39, R51–R53). -/

namespace Sys2Proof.Laws

open Sys2Proof Sys2Proof.Machine

/-! ## Staged words -/

theorem pageOk_of_staged {s : State} {d p : Nat} (hp : p < 8192) (hk : pageExists s (pkey d p) = true) (hst : stagedPage p = true) :
    Machine.pageOk s (pkey d p) = true := by
  rw [Machine.pageOk, hk, keyPage_pkey d p hp, hst]
  rfl

section
variable {s : State} {k off : Nat} (hk : Machine.pageOk s k = true) (hlo : 0x100 ≤ off) (hhi : off < 0x800) (h4 : off % 4 = 0)
include hk hlo hhi h4

theorem stagePage_of_locked (hl : locked false s k = true) (v : Word) : stagePage k off v s = raiseBit k 29 s := by
  simp [stagePage, hk, hlo, hhi, h4, hl]

theorem stagePage_of_unlocked (hl : locked false s k = false) (v : Word) : stagePage k off v s =
    modPage k (fun h => { h with dirty := true })
      { s with staged := s.staged.set resetWord (ploc k off) (v &&& fieldMask (ploc k off)) } := by
  simp [stagePage, hk, hlo, hhi, h4, hl]

end

theorem bitOf_bitW {i j : Nat} (hj : j < 32) : bitOf (bitW i) j = decide (i = j) := by
  rw [bitOf, bitW, BitVec.getLsbD_ofNat, Nat.testBit_two_pow, decide_eq_true hj, Bool.true_and]

/-- One bit of a word is one or no one. -/
theorem ones_bitW {i : Nat} (hi : i < 32) (b : Word) : ones (bitW i &&& b) = if bitOf b i then 1 else 0 := by
  have one : ∀ i < 32, ((List.range 32).filter fun j => decide (i = j)).length = 1 := by decide
  have pick : ∀ j ∈ List.range 32, bitOf (bitW i &&& b) j = (decide (i = j) && bitOf b i) := by
    intro j hj
    have hand : bitOf (bitW i &&& b) j = (bitOf (bitW i) j && bitOf b j) := BitVec.getLsbD_and ..
    rw [hand, bitOf_bitW (List.mem_range.mp hj)]
    by_cases h : i = j
    · rw [h]
    · simp [h]
  rw [ones, List.filter_congr pick]
  cases bitOf b i with
  | true => simpa using one i hi
  | false => simp

/-- An event strikes its bit. -/
theorem struck_raiseBit (k : Nat) {i : Nat} (hi : i < 32) (s : State) : Struck k i s (raiseBit k i s) := by
  constructor
  · rw [raiseBit, page_raise, if_pos rfl]
  · rw [raiseBit, page_raise, if_pos rfl, ones_bitW hi]
    rfl

theorem raiseBit_frame (k i : Nat) (s : State) :
    raiseBit k i s = { s with pages := (raiseBit k i s).pages, ic := { s.ic with inflight := (raiseBit k i s).ic.inflight } } :=
  flagged_frame ..

/-! ## Staged tables -/

/-- A page's header marked DIRTY: the reporting page of the lowest set that names table page `p` (R52). -/
def markDirty (p : Nat) (s : State) : State :=
  match (setsNaming true s p).head? with
  | none => s
  | some q => atReport q (fun k => modPage k (fun h => { h with dirty := true })) s

theorem markDirty_frame (p : Nat) (s : State) : markDirty p s = { s with pages := (markDirty p s).pages } := by
  unfold markDirty atReport
  (repeat' split) <;> rfl

/-- No set that names table page `p` is in CHECK. -/
def tableFree (s : State) (p : Nat) : Bool := (setsNaming true s p).all fun q => decide ((cset s q).st ≠ .check)

theorem stageTable_of_free {s : State} {o : Nat} (hp : tablePageOk s (o / 4096) = true) (hf : tableFree s (o / 4096) = true)
    (h4 : o % 4 = 0) (v : Word) : stageTable o v s =
      { s with pages := (markDirty (o / 4096) s).pages, staged := s.staged.set resetWord (bar2loc o) (v &&& fieldMask (bar2loc o)) } := by
  have none : (setsNaming true s (o / 4096)).find? (fun q => decide ((cset s q).st = .check)) = none := by
    simpa [tableFree, List.find?_eq_none] using hf
  rw [stageTable, if_neg (by simp [hp, h4]), none]
  exact congrArg (fun t : State => { t with staged := t.staged.set resetWord (bar2loc o) (v &&& fieldMask (bar2loc o)) })
    (markDirty_frame (o / 4096) s)

/-- A staged word after a staged write: the word written has the bits of its register. -/
theorem stagedW_set (s : State) (p : Tbl PageHdr) (a : Nat) (v : Word) (b : Nat) :
    stagedW { s with pages := p, staged := s.staged.set resetWord a (v &&& fieldMask a) } b =
      if b = a then v &&& fieldMask b else stagedW s b := by
  refine (Tbl.get_set ..).trans ?_
  split
  · next h => rw [h]
  · rfl

/-- Settles O16: a word staged is one update of the staged words; of the 8 bytes the two words are two such updates. -/
theorem writesChangeStagingAlone : Obligations.WritesChangeStagingAlone := by
  unfold Obligations.WritesChangeStagingAlone
  constructor
  · intro s req d p off v hrun hdec hp hk hst hlo hhi h4
    have ok := pageOk_of_staged hp hk hst
    have staged := exec_stageWrite_page_of_running hrun hdec hk (off := off) (by omega) h4 v
    refine ⟨fun hl => ⟨_, staged, ?_⟩, fun hl => ⟨_, staged, ?_⟩⟩
    · rw [stagePage_of_unlocked ok hlo hhi h4 hl]
      refine ⟨fun a => ?_, ?_, fun j hj => ?_, rfl⟩
      · exact stagedW_set ..
      · rw [page_modPage, if_pos rfl]
        rfl
      · rw [page_modPage, if_neg hj]
        rfl
    · rw [stagePage_of_locked ok hlo hhi h4 hl]
      exact ⟨struck_raiseBit _ (by decide) _, raiseBit_frame ..⟩
  · intro s req o v hrun hdec hp hf
    refine ⟨fun h4 => ⟨_, exec_stageWrite_table_of_running hrun hdec o 4 v, ?_⟩,
      fun h8 => ⟨_, exec_stageWrite_table_of_running hrun hdec o 8 v, ?_⟩⟩
    · rw [writeWords, if_pos ⟨rfl, h4⟩, stageTable_of_free hp hf h4]
      exact ⟨fun a => stagedW_set .., rfl⟩
    · have half : (o + 4) / 4096 = o / 4096 := by omega
      have apart : bar2loc o ≠ bar2loc (o + 4) := by simp [bar2loc]
      have first := stageTable_of_free hp hf (by omega : o % 4 = 0) (v.setWidth 32)
      rw [writeWords, if_neg (by omega), if_pos ⟨rfl, h8⟩, first,
        stageTable_of_free (by rw [half]; exact hp) (by rw [half]; exact hf) (by omega)]
      refine ⟨fun a => ?_, rfl⟩
      refine (stagedW_set ..).trans ?_
      rw [stagedW_set]
      exact ite_ite_comm _ _ _ _ fun hhigh hlow => apart (hlow.symm.trans hhigh)

end Sys2Proof.Laws
end

section
/-! The commit table, `COMMIT` and the check (R57, R60–R69): what each writes to its set, and what every operation behind it leaves of the
sets, the queue and the PKG page's counters. -/

namespace Sys2Proof.Laws

open Sys2Proof Sys2Proof.Machine

/-! ## The commit table -/

theorem setBusy_eq_true_iff (s : State) (q : Nat) :
    setBusy s q = true ↔ (cset s q).st = .queued ∨ (cset s q).st = .check ∨ (cset s q).st = .apply := by
  simp [setBusy, or_assoc]

theorem setBusy_of_atRest {s : State} {q : Nat} (h : (cset s q).st = .idle ∨ (cset s q).st = .done ∨ (cset s q).st = .failed) :
    setBusy s q = false := by
  rcases h with h | h | h <;> simp [setBusy, h]

section
variable {s : State} {q w : Nat} (hq : q < 1024) (hw : w < 14)
include hq hw

theorem writeEntry_of_busy (hb : setBusy s q = true) (v : Word) : writeEntry q w v s = bump 0 3 1 (raiseBit 0 27 s) := by
  rw [writeEntry, if_neg (by simp; omega), if_pos hb]

theorem writeEntry_of_free (hb : setBusy s q = false) (v : Word) :
    writeEntry q w v s = { s with ctab := s.ctab.set (fun _ => 0) (16 * q + w) (v &&& 0xFFFFFFFE) } := by
  rw [writeEntry, if_neg (by simp; omega), if_neg (by simp [hb]), if_pos hw]

end

/-! ## COMMIT -/

/-- What `COMMIT` writes to its set (R57, R61): the generation named, no cause, and the entry `e` as it stands. -/
def notedSet (v : Word) (e : List Word) (c : CSet) : CSet := { c with gen := fld v 15 0, cause := 0, entry := e, effect := 0 }

/-- `COMMIT` written to its set, and counted. -/
def noted (q : Nat) (v : Word) (s : State) : State := bump 0 0 1 (modSet q (notedSet v (entryOf s q)) s)

section
variable {s : State} {k : Nat} (hk : pageExists s k = true) (v : Word)
include hk

theorem commitWrite_of_noSet (ha : aliasSet s k = none) : commitWrite k v s = raiseBit k 28 s := by
  simp [commitWrite, hk, ha]

theorem commitWrite_of_busy {q : Nat} (ha : aliasSet s k = some q) (hb : setBusy s q = true) :
    commitWrite k v s = raiseReport q 28 s := by
  simp [commitWrite, hk, ha, hb]

theorem commitWrite_of_free {q : Nat} (ha : aliasSet s k = some q) (hb : setBusy s q = false) (hl : s.pwr.armed = false) :
    commitWrite k v s = modSet q (fun c => { c with st := .queued }) { noted q v s with queue := (noted q v s).queue ++ [q] } := by
  simp only [commitWrite, hk, ha, hb, Bool.not_true, Bool.false_eq_true, if_false]
  exact if_neg (by simp [hl])

theorem commitWrite_of_armed {q : Nat} (ha : aliasSet s k = some q) (hb : setBusy s q = false) (hl : s.pwr.armed = true) :
    commitWrite k v s =
      failSet q causeLife (ploc ((reportingPage (noted q v s) q).getD 0) 0x48) (noted q v s) := by
  simp only [commitWrite, hk, ha, hb, Bool.not_true, Bool.false_eq_true, if_false]
  exact if_pos (by simp [hl])

end

theorem exec_commitTableWrite_of_running {s : State} (hrun : inReset s = false) (q w : Nat) (v : Word) :
    exec (.commitTableWrite q w v) s = .next (writeEntry q w v s) := by
  change Host.Outcome.next (whenUp s (writeEntry q w v)) = _
  rw [whenUp_of_running hrun]

/-! ## What the ends of a check leave of the sets -/

/-- From `s` to `t` the commit sets, the set under check, the queue and the PKG page's counters stay. -/
structure SetsKept (s t : State) : Prop where
  sets : t.sets = s.sets
  checking : t.checking = s.checking
  queue : t.queue = s.queue
  counters : ∀ n < 128, counter t 0 n = counter s 0 n

theorem SetsKept.refl (s : State) : SetsKept s s := ⟨rfl, rfl, rfl, fun _ _ => rfl⟩

theorem SetsKept.trans {s t u : State} (h : SetsKept s t) (g : SetsKept t u) : SetsKept s u :=
  ⟨g.sets.trans h.sets, g.checking.trans h.checking, g.queue.trans h.queue, fun n hn => (g.counters n hn).trans (h.counters n hn)⟩

theorem SetsKept.cset {s t : State} (h : SetsKept s t) (q : Nat) : cset t q = cset s q := by
  rw [Machine.cset, h.sets]
  rfl

theorem SetsKept.counted {s t u : State} (h : SetsKept t u) {n x : Nat} (hn : n < 128) (hc : Counted 0 n x s t) : Counted 0 n x s u :=
  (h.counters n hn).trans hc

theorem SetsKept.ite {s a b : State} {c : Prop} [Decidable c] (ha : SetsKept s a) (hb : SetsKept s b) :
    SetsKept s (if c then a else b) := by
  split
  · exact ha
  · exact hb

theorem SetsKept.foldl {α : Type} {f : State → α → State} (h : ∀ s a, SetsKept s (f s a)) (l : List α) (s : State) :
    SetsKept s (l.foldl f s) := by
  induction l generalizing s with
  | nil => exact .refl _
  | cons a l ih => exact (h s a).trans (ih (f s a))

/-- A change of other fields. -/
theorem SetsKept.same {s t : State} (hs : t.sets = s.sets) (hc : t.checking = s.checking) (hq : t.queue = s.queue)
    (hn : t.ctrs = s.ctrs) : SetsKept s t :=
  ⟨hs, hc, hq, fun n _ => by rw [counter, hn]; rfl⟩

section
variable {s t : State} (h : SetsKept s t)
include h

theorem SetsKept.raised (k i : Nat) : SetsKept s (raiseBit k i t) := by
  rw [raiseBit_frame]
  exact h.trans (.same rfl rfl rfl rfl)

/-- A counter of another page. -/
theorem SetsKept.bumped {k : Nat} (hk : 0 < k) (n x : Nat) : SetsKept s (bump k n x t) :=
  h.trans ⟨rfl, rfl, rfl, fun m hm => by rw [counter_bump, if_neg (by omega)]⟩

theorem SetsKept.repowered (x : Pwr) : SetsKept s { t with pwr := x } := h.trans (.same rfl rfl rfl rfl)

theorem SetsKept.reported (q i : Nat) : SetsKept s (raiseReport q i t) := by
  unfold raiseReport atReport
  split
  · exact h
  · exact .ite (h.raised ..) h

end

theorem pgMc_pos (d : Nat) : 0 < pgMc d := Nat.add_pos_right _ (by decide)

theorem setsKept_rateConds (d : Nat) (s0 s : State) : SetsKept s (rateConds d s0 s) := by
  have raised : ∀ (c : Bool) (i : Nat) {s t : State}, SetsKept s t → SetsKept s (if c then raiseBit (pgMc d) i t else t) :=
    fun c i s t h => .ite (h.raised ..) h
  have alarmed : ∀ (c : Bool) {s t : State}, SetsKept s t →
      SetsKept s (if c then bump (pgMc d) 7 1 (raiseBit (pgMc d) 3 t) else t) :=
    fun c s t h => .ite ((h.raised ..).bumped (pgMc_pos d) ..) h
  exact raised _ 4 (alarmed _ (raised _ 2 (.refl s)))

theorem setsKept_noteEngineLost (d : Nat) (s0 s : State) : SetsKept s (noteEngineLost d s0 s) :=
  .ite ((SetsKept.refl s).raised ..) (.refl s)

theorem setsKept_modMc (d : Nat) (f : Mc → Mc) (s : State) : SetsKept s (modMc d f s) := .same rfl rfl rfl rfl

theorem setsKept_modDsp (d : Nat) (f : Dsp → Dsp) (s : State) : SetsKept s (modDsp d f s) := .same rfl rfl rfl rfl

theorem setsKept_admitLive (s0 s : State) : SetsKept s (admitLive s0 s) :=
  .foldl (fun _ d => (((setsKept_modMc ..).trans (setsKept_modDsp ..)).trans (setsKept_noteEngineLost d s0 _)).trans
    (setsKept_rateConds d s0 _)) _ s

theorem setsKept_takeWaitsAll (s : State) : SetsKept s (takeWaitsAll s) := by
  refine .foldl (fun s l => ?_) _ s
  exact .same rfl rfl rfl rfl

theorem setsKept_bootChecked (q : Nat) (passed : Bool) (s : State) : SetsKept s (bootChecked q passed s) := by
  unfold bootChecked
  split
  · exact .refl s
  · refine .ite (.refl s) (.ite (.raised ?_ ..) (.ite ?_ ?_))
    · exact .same rfl rfl rfl rfl
    · exact .same rfl rfl rfl rfl
    · split
      · exact .same rfl rfl rfl rfl
      · refine .ite (.repowered (.raised ?_ ..) _) (.raised ?_ ..)
        all_goals exact .same rfl rfl rfl rfl

theorem setsKept_is05Checked (q : Nat) (passed : Bool) (s : State) : SetsKept s (is05Checked q passed s) := by
  have answered : ∀ n o {s t : State}, SetsKept s t → SetsKept s (emit o (bump 1 n 1 t)) := fun n _ _ _ h =>
    (h.bumped (by decide) n 1).trans (.same rfl rfl rfl rfl)
  refine .ite (.ite (answered _ _ ?_) (answered _ _ ?_)) (.refl s)
  · exact .same rfl rfl rfl rfl
  · exact .same rfl rfl rfl rfl

theorem diePageOf_pos (l : Nat) : 0 < diePageOf l := by
  unfold diePageOf pkey
  split <;> omega

theorem setsKept_sendRel (m : YMsg) (s : State) : SetsKept s (sendRel m s) := by
  have wakes : ∀ l (s : State), SetsKept s (idleExit l s) := fun l s =>
    (SetsKept.bumped (.same rfl rfl rfl rfl) (diePageOf_pos l) ..).trans (.same rfl rfl rfl rfl)
  have sends : ∀ bytes (s : State) l, SetsKept s (sendOn bytes s l) := fun bytes s l =>
    (SetsKept.ite (wakes l s) (.refl s)).trans (.same rfl rfl rfl rfl)
  refine .trans ?_ (.foldl (sends _) _ _)
  exact .same rfl rfl rfl rfl

/-! ## A refusal (R63, R69) -/

/-- What a refusal writes to the set. -/
def refusedSet (cause a : Nat) (c : CSet) : CSet := { c with st := .failed, phase := .tests, cause := cause, whr := whereWord a }

/-- The set refused, with both counters of refusals, and no longer under check. -/
def refused (q cause a : Nat) (s : State) : State :=
  { bump 0 (16 + cause) 1 (bump 0 2 1 (modSet q (refusedSet cause a) s)) with checking := if s.checking = some q then none else s.checking }

theorem setsKept_failSet (q cause a : Nat) (s : State) : SetsKept (refused q cause a s) (failSet q cause a s) := by
  have clears : ∀ t u : State, SetsKept t u → SetsKept { t with checking := if t.checking = some q then none else t.checking }
      { u with checking := if u.checking = some q then none else u.checking } := fun t u h =>
    ⟨h.sets, congrArg (fun c : Option Nat => if c = some q then none else c) h.checking, h.queue, h.counters⟩
  have reported : ∀ s, SetsKept s (if cause = causeYoke then raiseBit pgYoke 9 (raiseReport q 30 s) else raiseReport q 30 s) := fun s =>
    .ite (((SetsKept.refl s).reported ..).raised ..) ((SetsKept.refl s).reported ..)
  exact ((clears _ _ (reported _)).trans (setsKept_bootChecked q false _)).trans (setsKept_is05Checked q false _)

theorem cset_failSet (q cause a : Nat) (s : State) : cset (failSet q cause a s) q = refusedSet cause a (cset s q) := by
  rw [(setsKept_failSet ..).cset]
  change cset (modSet q (refusedSet cause a) s) q = _
  rw [cset_modSet, if_pos rfl]

theorem checking_failSet {q : Nat} (cause a : Nat) {s : State} (h : s.checking = some q) : (failSet q cause a s).checking = none := by
  rw [(setsKept_failSet ..).checking]
  exact if_pos h

theorem queue_failSet (q cause a : Nat) (s : State) : (failSet q cause a s).queue = s.queue := (setsKept_failSet ..).queue

/-- A refusal is counted among the refusals and among those of its cause. -/
theorem counted_failSet {cause : Nat} (hc : cause < 16) (q a : Nat) (s : State) :
    Counted 0 2 1 s (failSet q cause a s) ∧ Counted 0 (16 + cause) 1 s (failSet q cause a s) := by
  have counter_refused : ∀ n, counter (refused q cause a s) 0 n =
      counter (bump 0 (16 + cause) 1 (bump 0 2 1 (modSet q (refusedSet cause a) s))) 0 n := fun _ => rfl
  have counter_modSet : ∀ n, counter (modSet q (refusedSet cause a) s) 0 n = counter s 0 n := fun _ => rfl
  constructor
  · refine (setsKept_failSet q cause a s).counted (by decide) ?_
    rw [Counted, counter_refused, counter_bump, if_neg (by omega), counter_bump, if_pos rfl, counter_modSet]
  · refine (setsKept_failSet q cause a s).counted (by omega) ?_
    rw [Counted, counter_refused, counter_bump, if_pos rfl, counter_bump, if_neg (by omega), counter_modSet]

/-- The entry that a `COMMIT` registers is the entry as it stands (R57). -/
theorem cset_noted (q : Nat) (v : Word) (s : State) :
    cset (noted q v s) q = notedSet v (entryOf s q) (cset s q) := by
  change cset (modSet q (notedSet v (entryOf s q)) s) q = _
  rw [cset_modSet, if_pos rfl]

/-- Settles O17: an entry is written where its set is at rest; `COMMIT` copies the entry into its set. -/
theorem tableEntryWritableOutsideTheCheck : Obligations.TableEntryWritableOutsideTheCheck := by
  unfold Obligations.TableEntryWritableOutsideTheCheck
  intro s q w v hrun hq hw
  have written := exec_commitTableWrite_of_running hrun q w v
  refine ⟨fun hrest => ⟨_, written, ?_⟩, fun hway => ⟨_, written, ?_⟩, fun d p u hp hk ha hb => ?_⟩
  · rw [writeEntry_of_free hq hw (setBusy_of_atRest hrest)]
    exact ⟨fun a => Tbl.get_set .., rfl⟩
  · rw [writeEntry_of_busy hq hw ((setBusy_eq_true_iff s q).mpr hway)]
    refine ⟨struck_raiseBit 0 (by decide) s, ?_⟩
    rw [raiseBit_frame]
    rfl
  · refine ⟨_, onPage_of_running hrun hp hk fun k => commitWrite k u, ?_⟩
    cases hl : s.pwr.armed with
    | false =>
      rw [commitWrite_of_free hk u ha hb hl, cset_modSet, if_pos rfl]
      exact congrArg CSet.entry (cset_noted q u s)
    | true =>
      rw [commitWrite_of_armed hk u ha hb hl, cset_failSet, cset_noted]
      rfl

/-! ## A pass (R63) -/

/-- What a pass writes to the set. -/
def passedSet (gen e : Nat) (c : CSet) : CSet :=
  { c with st := .apply, phase := .tests, live := gen, passed := true, effect := e, cause := 0 }

section
variable {s t : State} (h : SetsKept s t)
include h

theorem SetsKept.modSet (q : Nat) (f : CSet → CSet) : SetsKept (modSet q f s) (modSet q f t) := by
  refine ⟨?_, h.checking, h.queue, h.counters⟩
  simp only [Machine.modSet, h.sets, h.cset]

theorem SetsKept.bump_both {n : Nat} (hn : n < 128) (x : Nat) : SetsKept (bump 0 n x s) (bump 0 n x t) :=
  ⟨h.sets, h.checking, h.queue, fun m hm => by rw [counter_bump, counter_bump, h.counters n hn, h.counters m hm]⟩

end

/-- The set passed and counted, and no set under check. -/
def passed (q gen e : Nat) (s : State) : State := bump 0 1 1 (modSet q (passedSet gen e) { s with checking := none })

theorem setsKept_applySet (q gen e : Nat) (s : State) : SetsKept (passed q gen e s) (applySet q gen e s) := by
  have marked : ∀ (l : List Nat) (s : State),
      SetsKept s (l.foldl (fun s k => modPage k (fun h => { h with dirty := false, base := gen }) s) s) := by
    refine fun l s => .foldl (fun s k => ?_) l s
    exact .same rfl rfl rfl rfl
  have made : SetsKept { s with checking := none } { s with live := candidate s (cset s q).entry, checking := none } :=
    .same rfl rfl rfl rfl
  have waiting : ∀ (w : List (Nat × Option Nat)) {s t : State}, SetsKept s t → SetsKept s { t with waits := w } :=
    fun _ _ _ h => h.trans (.same rfl rfl rfl rfl)
  have powers : ∀ s, SetsKept s (powerNeeded s) := fun s => .repowered (.refl s) _
  refine .trans ?_ (setsKept_takeWaitsAll _)
  refine .trans ?_ (setsKept_is05Checked q true _)
  refine .trans ?_ (setsKept_bootChecked q true _)
  refine .trans ?_ (powers _)
  refine .trans ?_ (setsKept_admitLive s _)
  exact (waiting _ ((made.trans (marked _ _)).modSet q (passedSet gen e))).bump_both (by decide) 1

theorem cset_applySet (q gen e : Nat) (s : State) : cset (applySet q gen e s) q = passedSet gen e (cset s q) := by
  rw [(setsKept_applySet ..).cset]
  change cset (modSet q (passedSet gen e) s) q = _
  rw [cset_modSet, if_pos rfl]

theorem counted_applySet (q gen e : Nat) (s : State) : Counted 0 1 1 s (applySet q gen e s) := by
  refine (setsKept_applySet q gen e s).counted (by decide) ?_
  rw [Counted, passed, counter_bump, if_pos rfl]
  rfl

/-- A pass with every domain up, in a part that is not paired, makes the set live at once. -/
theorem voteOn_of_alone {s : State} {q : Nat} (hp : pairedRole s = false) (hd : domainsMissing s (candidate s (cset s q).entry) = []) :
    voteOn q s = applySet q (cset s q).gen 0 s := by
  simp [voteOn, passSet, hp, hd]

/-! ## COMMIT and the check, as commands -/

theorem fld_low16 (v : Word) : fld v 15 0 = v.toNat % 65536 := rfl

/-- The set queued (R62): every other set stays. -/
theorem cset_queued (q : Nat) (v : Word) (l : List Nat) (s : State) (r : Nat) :
    cset (modSet q (fun c => { c with st := .queued }) { noted q v s with queue := l }) r =
      if r = q then { notedSet v (entryOf s q) (cset s q) with st := .queued } else cset s r := by
  have hnoted : ∀ r, cset { noted q v s with queue := l } r = if r = q then notedSet v (entryOf s q) (cset s q) else cset s r :=
    cset_modSet q (notedSet v (entryOf s q)) s
  rw [cset_modSet, hnoted, hnoted, if_pos rfl]
  split <;> rfl

theorem counted_queued (q : Nat) (v : Word) (l : List Nat) (s : State) :
    Counted 0 0 1 s (modSet q (fun c => { c with st := .queued }) { noted q v s with queue := l }) := by
  change counter (noted q v s) 0 0 = _
  rw [noted, counter_bump, if_pos rfl]
  rfl

theorem raiseReport_of_reporting {s : State} {q r : Nat} (hr : reportingPage s q = some r) (ha : aliasSet s r = some q) (i : Nat) :
    raiseReport q i s = raiseBit r i s := by
  simp [raiseReport, atReport, hr, ha]

theorem raiseReport_frame (q i : Nat) (s : State) :
    raiseReport q i s = { s with pages := (raiseReport q i s).pages, ic := { s.ic with inflight := (raiseReport q i s).ic.inflight } } := by
  unfold raiseReport atReport
  split
  · rfl
  · dsimp only
    split
    · exact raiseBit_frame ..
    · rfl

/-- A refusal changes no word. -/
theorem words_kept_failSet (q cause a : Nat) (s : State) : (failSet q cause a s).live = s.live ∧ (failSet q cause a s).staged = s.staged ∧
    (failSet q cause a s).eff = s.eff := by
  have h := words_failSet q cause a s
  exact ⟨congrArg (fun x => x.2.1) h, congrArg (fun x => x.1) h, congrArg (fun x => x.2.2) h⟩

theorem exec_commitCheckStart_of_running {s : State} (hrun : inReset s = false) : exec .commitCheckStart s = .next (checkStart s) :=
  congrArg _ (whenUp_of_running hrun checkStart)

theorem exec_commitCheckEnd_of_running {s : State} (hrun : inReset s = false) : exec .commitCheckEnd s = .next (checkEnd s) :=
  congrArg _ (whenUp_of_running hrun checkEnd)

theorem checkStart_of_queue {s : State} {q : Nat} {rest : List Nat} (hc : s.checking = none) (hq : s.queue = q :: rest) :
    checkStart s = modSet q (fun c => { c with st := .check, phase := .tests, began := s.time.now })
      { s with queue := rest, checking := some q } := by
  simp [checkStart, hc, hq]

section
variable {s : State} {q : Nat} (hc : s.checking = some q) (hp : (cset s q).phase = .tests)
include hc hp

theorem checkEnd_of_passed (ht : runTests s q = none) : checkEnd s = voteOn q s := by
  simp [checkEnd, hc, hp, ht]

/-- A standby tells its partner of a compared set's refusal (R365). -/
theorem checkEnd_of_failed {c a : Nat} (ht : runTests s q = some (c, a)) : checkEnd s =
    failSet q c a (if decide (s.yoke.role = roleStandby) && comparedEntry (cset s q).entry then sendVote q c s else s) := by
  simp [checkEnd, hc, hp, ht]

end

/-- A vote sent keeps the sets and the words. -/
theorem kept_sendVoteIf (b : Bool) (q c : Nat) (s : State) : SetsKept s (if b then sendVote q c s else s) ∧
    stores (if b then sendVote q c s else s) = stores s := by
  cases b with
  | true => exact ⟨setsKept_sendRel .., stores_sendVote ..⟩
  | false => exact ⟨.refl s, rfl⟩

theorem SetsKept.counted_from {n x : Nat} {s t u : State} (h : SetsKept s t) (hn : n < 128) (hc : Counted 0 n x t u) :
    Counted 0 n x s u := by
  rw [Counted, hc, h.counters n hn]

/-- Settles O18: `COMMIT` by the cases of its set, the check by its verdict, with what the operations behind it keep of the sets. -/
theorem commitAndCheck : Obligations.CommitAndCheck := by
  unfold Obligations.CommitAndCheck
  constructor
  · intro s d p v hrun hp hk
    have written : exec (.commit d p v) s = .next (commitWrite (pkey d p) v s) := onPage_of_running hrun hp hk fun k => commitWrite k v
    refine ⟨fun q ha hb hl => ⟨_, written, ?_⟩, fun q ha hb hl => ⟨_, written, ?_⟩,
      fun q ha hb => ⟨_, written, ?_⟩, fun ha => ⟨_, written, ?_⟩⟩
    · rw [commitWrite_of_free hk v ha hb hl]
      simp only [cset_queued, if_true]
      exact ⟨rfl, trivial, fld_low16 v, rfl, fun r hr => if_neg hr, counted_queued .., rfl⟩
    · obtain ⟨hlive, hstaged, -⟩ := words_kept_failSet q causeLife (ploc ((reportingPage (noted q v s) q).getD 0) 0x48) (noted q v s)
      rw [commitWrite_of_armed hk v ha hb hl, queue_failSet, cset_failSet, cset_noted, hlive, hstaged]
      exact ⟨rfl, rfl, rfl, fld_low16 v, rfl, rfl, rfl⟩
    · rw [commitWrite_of_busy hk v ha hb]
      refine ⟨fun r hr har => ?_, raiseReport_frame ..⟩
      rw [raiseReport_of_reporting hr har]
      exact struck_raiseBit r (by decide) s
    · rw [commitWrite_of_noSet hk v ha]
      exact ⟨struck_raiseBit _ (by decide) s, raiseBit_frame ..⟩
  · intro s hrun
    refine ⟨fun q rest hc hq => ⟨_, exec_commitCheckStart_of_running hrun, ?_⟩,
      fun q hc hph ht hpair hdom => ⟨_, exec_commitCheckEnd_of_running hrun, ?_⟩,
      fun q c a hc hph ht hc16 => ⟨_, exec_commitCheckEnd_of_running hrun, ?_⟩⟩
    · rw [checkStart_of_queue hc hq]
      simp only [cset_modSet, if_true]
      exact ⟨rfl, rfl, trivial, fun r hr => if_neg hr, rfl⟩
    · have hwords := words_applySet q (cset s q).gen 0 s
      rw [checkEnd_of_passed hc hph ht, voteOn_of_alone hpair hdom, cset_applySet]
      exact ⟨(setsKept_applySet ..).checking, rfl, rfl, congrArg (fun x => x.2.1) hwords, congrArg (fun x => x.1) hwords,
        congrArg (fun x => x.2.2) hwords, counted_applySet ..⟩
    · rw [checkEnd_of_failed hc hph ht]
      obtain ⟨hkept, hstores⟩ := kept_sendVoteIf (decide (s.yoke.role = roleStandby) && comparedEntry (cset s q).entry) q c s
      generalize (if (decide (s.yoke.role = roleStandby) && comparedEntry (cset s q).entry) = true then sendVote q c s else s) = u
        at hkept hstores ⊢
      have hwords := (words_failSet q c a u).trans (congrArg wordsOf hstores)
      obtain ⟨hrefusals, hcause⟩ := counted_failSet hc16 q a u
      rw [checking_failSet c a (hkept.checking.trans hc), cset_failSet, hkept.cset]
      exact ⟨rfl, rfl, rfl, rfl, rfl, congrArg (fun x => x.2.1) hwords, congrArg (fun x => x.1) hwords,
        congrArg (fun x => x.2.2) hwords, hkept.counted_from (by decide) hrefusals, hkept.counted_from (by omega) hcause⟩

end Sys2Proof.Laws
end

section
/-! The package furrow boundary (R71, R131): the host's boot hold and the management buffers through it. -/

namespace Sys2Proof.Laws

open Sys2Proof Sys2Proof.Machine

/-! ## The host link through a package furrow boundary -/

theorem host_of_stores {s t : State} (h : stores t = stores s) : t.host = s.host := congrArg Prod.snd h

theorem host_ite {s a b : State} {c : Prop} [Decidable c] (ha : a.host = s.host) (hb : b.host = s.host) :
    (if c then a else b).host = s.host := by
  split
  · exact ha
  · exact hb

theorem host_foldl {α : Type} {f : State → α → State} (h : ∀ s a, (f s a).host = s.host) (l : List α) (s : State) :
    (l.foldl f s).host = s.host := by
  induction l generalizing s with
  | nil => rfl
  | cons a l ih => exact (ih (f s a)).trans (h s a)

theorem host_takeOwner (q : Nat) (o : Option Nat) (s : State) : (takeOwner q o s).host = s.host := by
  cases o with
  | none => rfl
  | some ch => exact host_ite rfl rfl

theorem host_settleSet (q : Nat) (s : State) : (settleSet q s).host = s.host :=
  host_ite ((host_of_stores (stores_raiseReport ..)).trans rfl) rfl

theorem host_takeWaits (pick : Option Nat → Bool) (s : State) : (takeWaits pick s).host = s.host :=
  (host_foldl (fun _ _ => host_settleSet ..) _ _).trans (host_foldl (fun _ _ => host_takeOwner ..) _ s)

theorem host_reseatOrFault (ch : Nat) (s : State) : (reseatOrFault ch s).host = s.host := by
  obtain ⟨l, hl⟩ := stores_reseat ch (abortOf ch s)
  exact host_ite ((congrArg Prod.snd hl).trans (host_of_stores (stores_abortOf ..)))
    ((host_of_stores (stores_raiseBit ..)).trans (host_of_stores (stores_faultCh ..)))

theorem host_loseChans (chs : List Nat) (s : State) : (loseChans chs s).host = s.host := by
  have armed : ∀ l : List Nat, (l.foldl (fun s ch => toFaulted ch s) s).host = s.host := fun l =>
    host_foldl (fun _ _ => host_of_stores (stores_toFaulted ..)) l s
  exact host_ite
    ((host_foldl (fun _ _ => host_of_stores (stores_faultCh ..)) _ _).trans ((host_of_stores (stores_yieldFor ..)).trans (armed _)))
    ((host_foldl (fun _ _ => host_reseatOrFault ..) _ _).trans (armed _))

theorem host_armStep (s : State) (ch : Nat) : (armStep s ch).host = s.host := by
  have armed : ∀ s c, (toChState ch c s).host = s.host := fun s c => host_of_stores (stores_toChState ..)
  unfold armStep
  split
  · exact host_ite (host_ite ((host_loseChans ..).trans ((armed ..).trans rfl)) ((armed ..).trans rfl)) rfl
  · exact host_ite (armed ..) (host_ite (host_loseChans ..) rfl)
  · exact host_ite rfl (armed ..)
  · exact host_of_stores (stores_settle ..)
  · rfl

theorem host_wordsTakeEffect (s1 s : State) : (wordsTakeEffect s1 s).host = s.host := by
  refine (host_of_stores ((stores_resourcesTakeEffect ..).trans (stores_sdpTakeEffect ..))).trans
    ((host_foldl host_armStep _ _).trans (host_of_stores ?_))
  simp only [↓stores_reseatsTakeEffect, ↓stores_pairTakesEffect, ↓stores_settleDual, ↓stores_refsTakeEffect, ↓stores_decsSettle,
    ↓stores_fencesTakeEffect, ↓stores_tdmsTakeEffect, ↓stores_audioFlowsAtBoundary, ↓stores_idleFlows, ↓stores_aflowsTakeEffect,
    ↓stores_listsTakeEffect, ↓stores_shapersTakeEffect, ↓stores_quantaTakeEffect, ↓stores_svcsLapse, ↓stores_lanesTakeEffect,
    ↓stores_slotsTakeEffect, ↓stores_entriesTakeEffect]

/-- The boot hold's outputs follow its register (R481). -/
theorem held_packageOp (s : State) : (packageOp s).host.held = s.host.hold := by
  unfold packageOp
  extract_lets moved effective host drained tracked
  have heffective : effective.host = s.host :=
    (host_wordsTakeEffect ..).trans ((host_takeWaits ..).trans (host_of_stores (stores_advance ..)))
  have hdrained : drained.host.held = effective.host.hold := congrArg HostSt.held (host_of_stores (stores_drainMgmt ..))
  have htracked : tracked.host = drained.host := host_foldl (fun _ _ => host_of_stores (stores_trackAtBoundary ..)) _ _
  rw [host_of_stores (stores_wakeItems ..), host_of_stores (stores_audioStepped ..), host_of_stores (stores_applyStep ..),
    htracked, hdrained, heffective]

/-! ## The management buffers -/

/-- From `s` to `t` what every port's management buffer holds stays. -/
structure BufsKept (s t : State) : Prop where
  bufs : ∀ l, (port t l).mgmtBuf = (port s l).mgmtBuf

theorem BufsKept.refl (s : State) : BufsKept s s := ⟨fun _ => rfl⟩

theorem BufsKept.trans {s t u : State} (h : BufsKept s t) (g : BufsKept t u) : BufsKept s u := ⟨fun l => (g.bufs l).trans (h.bufs l)⟩

theorem BufsKept.ite {s a b : State} {c : Prop} [Decidable c] (ha : BufsKept s a) (hb : BufsKept s b) :
    BufsKept s (if c then a else b) := by
  split
  · exact ha
  · exact hb

theorem BufsKept.foldl {α : Type} {f : State → α → State} (h : ∀ s a, BufsKept s (f s a)) (l : List α) (s : State) :
    BufsKept s (l.foldl f s) := by
  induction l generalizing s with
  | nil => exact .refl _
  | cons a l ih => exact (h s a).trans (ih (f s a))

/-- A change of other fields. -/
theorem BufsKept.same {s t : State} (h : t.ports = s.ports) : BufsKept s t := ⟨fun l => by rw [port, h]; rfl⟩

section
variable {s t : State} (h : BufsKept s t)
include h

theorem BufsKept.raised (k i : Nat) : BufsKept s (raiseBit k i t) := by
  rw [raiseBit_frame]
  exact h.trans (.same rfl)

theorem BufsKept.bumped (k n x : Nat) : BufsKept s (bump k n x t) := h.trans (.same rfl)

theorem BufsKept.modDsp (d : Nat) (f : Dsp → Dsp) : BufsKept s (modDsp d f t) := h.trans (.same rfl)

theorem BufsKept.modMc (d : Nat) (f : Mc → Mc) : BufsKept s (modMc d f t) := h.trans (.same rfl)

theorem BufsKept.modChan (ch : Nat) (f : Chan → Chan) : BufsKept s (modChan ch f t) := h.trans (.same rfl)

theorem BufsKept.retimed (x : TimeSt) : BufsKept s { t with time := x } := h.trans (.same rfl)

theorem BufsKept.yoked (x : Yoke) : BufsKept s { t with yoke := x } := h.trans (.same rfl)

end

theorem bufsKept_trackAtBoundary (d : Nat) (s : State) : BufsKept s (trackAtBoundary d s) := by
  exact .ite (.refl s) (.ite (.modMc (.bumped (.modDsp (.modMc (.refl s) ..) ..) ..) ..) (.modMc (.refl s) ..))

theorem bufsKept_sendRel (m : YMsg) (s : State) : BufsKept s (sendRel m s) := by
  have wakes : ∀ l (s : State), BufsKept s (idleExit l s) := fun l s => .same rfl
  have sends : ∀ bytes (s : State) l, BufsKept s (sendOn bytes s l) := fun bytes s l =>
    (BufsKept.ite (wakes l s) (.refl s)).trans (.same rfl)
  refine .trans ?_ (.foldl (sends _) _ _)
  exact .same rfl

theorem bufsKept_yieldOnConditions (s : State) : BufsKept s (yieldOnConditions s) := by
  have yields : ∀ c {s t : State}, BufsKept s t → BufsKept s (yieldFor c t) := by
    refine fun c s t h => .ite (.bumped (.raised (.yoked (h.trans (.trans ?_ (bufsKept_sendRel ..))) _) ..) ..) h
    exact .same rfl
  have first : ∀ (b : Bool) c {s t : State}, BufsKept s t → BufsKept s (if b then yieldFor c t else t) :=
    fun b c _ _ h => .ite (yields c h) h
  exact first _ 6 (first _ 5 (first _ 4 (.refl s)))

theorem bufsKept_setQuality (q : Nat) (s : State) : BufsKept s (setQuality q s) := by
  have raised : ∀ (c : Prop) [Decidable c] (i : Nat) {s t : State}, BufsKept s t → BufsKept s (if c then raiseBit pgTime i t else t) :=
    fun c _ i _ _ h => .ite (h.raised ..) h
  refine .ite (.refl s) (.trans (raised _ 5 (.ite (.bumped (.raised (raised _ 0 ?_) ..) ..) (raised _ 0 ?_)))
    (bufsKept_yieldOnConditions _))
  all_goals exact .same rfl

theorem bufsKept_stepChan (d : Int) (t ch : Nat) (s : State) : BufsKept s (stepChan d t ch s) :=
  .ite (.modChan (.refl s) ..) (.ite (.modChan (.refl s) ..) (.modChan (.modChan (.refl s) ..) ..))

/-- A field that a change of every entry keeps. -/
theorem get_map_field {α β : Type} (g : α → β) {f : Nat × α → Nat × α} (hkey : ∀ e, (f e).1 = e.1) (hval : ∀ e, g (f e).2 = g e.2)
    (d : Nat → α) (t : Tbl α) (k : Nat) : g (Tbl.get d (t.map f) k) = g (Tbl.get d t k) := by
  induction t with
  | nil => rfl
  | cons e t ih =>
    simp only [List.map_cons, Tbl.get, hkey]
    split
    · exact hval e
    · exact ih

theorem bufsKept_stepQueues (d : Int) (s : State) : BufsKept s (stepQueues d s) := by
  refine ⟨fun l => ?_⟩
  refine get_map_field PortTx.mgmtBuf ?_ ?_ _ s.ports l
  · exact fun _ => rfl
  · exact fun _ => rfl

theorem bufsKept_applyStep (s : State) : BufsKept s (applyStep s) := by
  unfold applyStep
  split
  · exact .refl s
  · extract_lets b t clock moved counted stepped
    have hmoved : BufsKept s moved := .same rfl
    have hcounted : BufsKept s counted := ((hmoved.raised ..).bumped ..).trans (bufsKept_stepQueues ..)
    have hstepped : BufsKept s stepped := hcounted.trans (.foldl (fun _ _ => bufsKept_stepChan ..) _ _)
    clear_value b stepped
    cases b with
    | some e => exact hstepped.trans (.trans (.retimed (.refl _) _) (bufsKept_setQuality ..))
    | none => exact .ite (.ite (hstepped.trans (.trans (.retimed (.refl _) _) (bufsKept_setQuality ..))) hstepped) hstepped

/-- What the dispatcher's changes, status bits and events counted stay within, however many follow each other. -/
structure WakeRel (R : State → State → Prop) : Prop where
  refl : ∀ s, R s s
  trans : ∀ {s t u}, R s t → R t u → R s u
  dsp : ∀ d f s, R s (Machine.modDsp d f s)
  bump : ∀ k n x s, R s (Machine.bump k n x s)
  raise : ∀ k i s, R s (raiseBit k i s)

theorem rel_ite {R : State → State → Prop} {s a b : State} {c : Prop} [Decidable c] (ha : R s a) (hb : R s b) :
    R s (if c then a else b) := by
  split
  · exact ha
  · exact hb

section
variable {R : State → State → Prop} (hR : WakeRel R)
include hR

theorem WakeRel.foldl {α : Type} {f : State → α → State} (h : ∀ s a, R s (f s a)) (l : List α) (s : State) : R s (l.foldl f s) := by
  induction l generalizing s with
  | nil => exact hR.refl s
  | cons a l ih => exact hR.trans (h s a) (ih (f s a))

theorem WakeRel.releaseItems (d n : Nat) (s : State) : R s (releaseItems d n s) := by
  induction n generalizing s with
  | zero => exact hR.refl s
  | succ n ih =>
    rw [Machine.releaseItems]
    split
    · exact hR.refl s
    · exact hR.trans (hR.trans (hR.dsp ..) (hR.bump ..)) (ih _)

theorem WakeRel.countWait (d : Nat) (a : Nat × Nat × Nat × Nat × Nat) (b : Nat) (s : State) : R s (countWait d a b s) := by
  refine hR.trans ?_ (hR.bump ..)
  split
  · exact hR.refl s
  · exact hR.dsp ..

theorem WakeRel.recordEnded (d : Nat) (q : Nat × Nat × Nat × Nat × Nat → Bool) (s : State) : R s (recordEnded d q s) :=
  hR.trans (hR.dsp ..) (hR.foldl (fun _ _ => hR.countWait ..) _ _)

theorem WakeRel.noteReady (d : Nat) (s : State) : R s (noteReady d s) := by
  unfold Machine.noteReady
  exact hR.trans (hR.recordEnded ..) (hR.dsp ..)

theorem WakeRel.noteUnits (d : Nat) (s : State) : R s (noteUnits d s) := by
  refine hR.foldl (fun s u => ?_) _ s
  dsimp only
  split
  · exact hR.refl s
  · exact rel_ite (hR.refl s) (hR.trans (rel_ite (hR.bump ..) (hR.refl s)) (hR.dsp ..))

theorem WakeRel.wakeDie (d : Nat) (s : State) : R s (wakeDie d s) := by
  refine hR.trans (hR.trans (hR.trans (hR.trans (hR.dsp ..) (hR.releaseItems ..)) (hR.noteReady ..)) (hR.noteUnits ..))
    (hR.foldl (fun s i => ?_) _ _)
  split
  · exact hR.refl s
  · exact rel_ite (hR.refl s) (rel_ite (hR.trans (hR.dsp ..) (hR.trans (hR.raise ..) (hR.bump ..))) (hR.dsp ..))

theorem WakeRel.wakeItems (s : State) : R s (wakeItems s) := hR.foldl (fun _ _ => hR.wakeDie ..) _ s

end

theorem bufsKept_wakeItems (s : State) : BufsKept s (wakeItems s) := by
  refine WakeRel.wakeItems ⟨.refl, .trans, ?_, ?_, ?_⟩ s
  · exact fun d f s => .modDsp (.refl s) d f
  · exact fun k n x s => .bumped (.refl s) k n x
  · exact fun k i s => .raised (.refl s) k i

/-- Every die's management buffer is served (R351). -/
theorem mgmtBuf_drainMgmt {s : State} {d : Nat} (hd : d < dies s) : (port (drainMgmt s) (4 * d)).mgmtBuf = 0 := by
  have served : ∀ (l : List Nat) (s : State), d ∈ l ∨ (port s (4 * d)).mgmtBuf = 0 →
      (port (l.foldl (fun s d => modPort (4 * d) (fun p => { p with mgmtBuf := 0 }) s) s) (4 * d)).mgmtBuf = 0 := by
    intro l
    induction l with
    | nil =>
      intro s h
      simpa using h
    | cons e l ih =>
      intro s h
      refine ih _ ?_
      rw [port_modPort]
      split
      · exact .inr rfl
      · next he =>
        rcases h with h | h
        · rcases List.mem_cons.mp h with h | h
          · exact absurd (congrArg (4 * ·) h) he
          · exact .inl h
        · exact .inr h
  exact served _ s (.inl (List.mem_range.mpr hd))

theorem dies_of_kept {s t : State} (h : Kept (steady s) (steady t)) : dies t = dies s := by
  obtain ⟨hvariant, -⟩ := h
  rw [dies, show t.variant = s.variant from hvariant]
  rfl

theorem mgmtBuf_packageOp {s : State} {d : Nat} (hd : d < dies s) : (port (packageOp s) (4 * d)).mgmtBuf = 0 := by
  unfold packageOp
  extract_lets moved effective host drained tracked
  have hdies : dies effective = dies s :=
    dies_of_kept ((Kept.of_eq (steady_advance ..)).trans ((kept_takePackage ..).trans (kept_wordsTakeEffect ..)))
  have htracked : BufsKept drained tracked := .foldl (fun _ _ => bufsKept_trackAtBoundary ..) _ _
  have tail : BufsKept drained (wakeItems (audioStepped tracked.time.now (applyStep tracked))) := by
    refine htracked.trans (.trans (bufsKept_applyStep _) (.trans ?_ (bufsKept_wakeItems _)))
    refine .ite (.refl _) ?_
    exact .same rfl
  rw [tail.bufs]
  exact mgmtBuf_drainMgmt (hdies ▸ hd)

end Sys2Proof.Laws
end

section
/-! Reads that latch (R50, R122, R226, R397), and the picture boundary (R118): what a channel keeps of its state, its next picture and its
pages' status bits through the operations behind it. -/

namespace Sys2Proof.Laws

open Sys2Proof Sys2Proof.Machine

/-! ## Reads that latch -/

theorem held_latch (req : Requester) (k r : Nat) (w : Word) (s : State) (j : Nat) :
    held (latch req k r w s) req k j = if j = r then w else held s req k j := by
  have key : holdKey req k j = holdKey req k r ↔ j = r := by
    unfold holdKey
    omega
  refine (Tbl.get_set ..).trans ?_
  simp only [key]
  rfl

/-- `CE_BARN_POC` of every stall latched (R226), in the latches from 16 on. -/
def latchPocs (req : Requester) (k : Nat) (x : Nat → Word) (l : List Nat) (t : State) : State :=
  l.foldl (fun t i => latch req k (16 + i) (x i) t) t

theorem held_latchPocs (req : Requester) (k : Nat) (x : Nat → Word) (l : List Nat) (t : State) {j : Nat} (hj : j < 16) :
    held (latchPocs req k x l t) req k j = held t req k j := by
  induction l generalizing t with
  | nil => rfl
  | cons i l ih => exact (ih _).trans ((held_latch ..).trans (if_neg (by omega)))

theorem latchPocs_frame (req : Requester) (k : Nat) (x : Nat → Word) (l : List Nat) (t : State) :
    latchPocs req k x l t = { t with hold := (latchPocs req k x l t).hold } := by
  induction l generalizing t with
  | nil => rfl
  | cons i l ih => exact ih (latch req k (16 + i) (x i) t)

theorem barnRead_eq (req : Requester) (k : Nat) (s : State) : barnRead req k s = emit (.read (barnMarks s k 0))
    (latchPocs req k (barnPoc s k) (List.range 16) (latch req k 9 (barnPins s k) (latch req k 8 (barnMarks s k 8) s))) := rfl

theorem held_emit (o : Out) (req : Requester) (k j : Nat) (s : State) : held (emit o s) req k j = held s req k j := rfl

theorem emit_frame (o : Out) {s t : State} (h : t = { s with hold := t.hold }) : emit o t = { s with out := o :: s.out, hold := t.hold } :=
  congrArg (emit o) h

theorem held_barnRead (req : Requester) (k : Nat) (s : State) {j : Nat} (hj : j < 16) : held (barnRead req k s) req k j =
    if j = 9 then barnPins s k else if j = 8 then barnMarks s k 8 else held s req k j := by
  rw [barnRead_eq, held_emit, held_latchPocs _ _ _ _ _ hj, held_latch, held_latch]

/-- The marks are read, and nothing but latches changes (R226). -/
theorem barnRead_frame (req : Requester) (k : Nat) (s : State) : (barnRead req k s).out = .read (barnMarks s k 0) :: s.out ∧
    barnRead req k s = { s with out := (barnRead req k s).out, hold := (barnRead req k s).hold } := by
  have h := emit_frame (.read (barnMarks s k 0)) (s := s)
    (latchPocs_frame req k (barnPoc s k) (List.range 16) (latch req k 9 (barnPins s k) (latch req k 8 (barnMarks s k 8) s)))
  rw [← barnRead_eq] at h
  exact ⟨congrArg State.out h, by rw [h]⟩

theorem pageExists_barn {s : State} {d e : Nat} (hd : d < dies s) (he : e < 4) : pageExists s (pkey d (0x120 + e)) = true := by
  rw [pageExists, keyDie_pkey d _ (by omega), keyPage_pkey d _ (by omega)]
  simp [hd, diePage]
  omega

/-! ## A picture boundary of an armed channel -/

/-- From `s` to `t` channel `ch` keeps its state and the number of its next picture, and no page loses a status bit. -/
structure ChanKept (ch : Nat) (s t : State) : Prop where
  st : (chan t ch).st = (chan s ch).st
  next : (chan t ch).next = (chan s ch).next
  bits : ∀ k i, bitOf (page s k).stat i = true → bitOf (page t k).stat i = true

section
variable {ch : Nat}

theorem ChanKept.refl (s : State) : ChanKept ch s s := ⟨rfl, rfl, fun _ _ h => h⟩

theorem ChanKept.trans {s t u : State} (h : ChanKept ch s t) (g : ChanKept ch t u) : ChanKept ch s u :=
  ⟨g.st.trans h.st, g.next.trans h.next, fun k i hb => g.bits k i (h.bits k i hb)⟩

theorem ChanKept.ite {s a b : State} {c : Prop} [Decidable c] (ha : ChanKept ch s a) (hb : ChanKept ch s b) :
    ChanKept ch s (if c then a else b) := by
  split
  · exact ha
  · exact hb

theorem ChanKept.foldl {α : Type} {f : State → α → State} (h : ∀ s a, ChanKept ch s (f s a)) (l : List α) (s : State) :
    ChanKept ch s (l.foldl f s) := by
  induction l generalizing s with
  | nil => exact .refl _
  | cons a l ih => exact (h s a).trans (ih (f s a))

/-- A change of other fields. -/
theorem ChanKept.same {s t : State} (hc : t.chans = s.chans) (hp : t.pages = s.pages) : ChanKept ch s t := by
  have hchan : chan t ch = chan s ch := by
    rw [chan, hc]
    rfl
  refine ⟨congrArg Chan.st hchan, congrArg Chan.next hchan, fun k i h => ?_⟩
  rw [page, hp]
  exact h

theorem bitOf_or {v w : Word} {i : Nat} (h : bitOf v i = true) : bitOf (v ||| w) i = true := by
  have hor : bitOf (v ||| w) i = (bitOf v i || bitOf w i) := BitVec.getLsbD_or ..
  rw [hor, h, Bool.true_or]

variable {s t : State} (h : ChanKept ch s t)
include h

theorem ChanKept.raised (k i : Nat) : ChanKept ch s (raiseBit k i t) := by
  have hchan : chan (raiseBit k i t) ch = chan t ch := by
    rw [raiseBit_frame]
    rfl
  refine h.trans ⟨congrArg Chan.st hchan, congrArg Chan.next hchan, fun j b hb => ?_⟩
  rw [raiseBit, page_raise]
  split
  · next hj => exact bitOf_or (hj ▸ hb)
  · exact hb

theorem ChanKept.bumped (k n x : Nat) : ChanKept ch s (bump k n x t) := h.trans (.same rfl rfl)

theorem ChanKept.modChan (c : Nat) {f : Chan → Chan} (hst : ∀ x, (f x).st = x.st) (hnext : ∀ x, (f x).next = x.next) :
    ChanKept ch s (modChan c f t) := by
  have hchan := chan_modChan c f t ch
  refine h.trans ⟨?_, ?_, fun _ _ hb => hb⟩
  all_goals
    rw [hchan]
    split
    · next hc => simp only [hst, hnext, hc]
    · rfl

theorem ChanKept.modPic (c n : Nat) (f : Pic → Pic) : ChanKept ch s (modPic c n f t) := h.modChan c (fun _ => rfl) fun _ => rfl

theorem ChanKept.modFur (c n k : Nat) (f : Fur → Fur) : ChanKept ch s (modFur c n k f t) := h.modPic ..

theorem ChanKept.modDsp (d : Nat) (f : Dsp → Dsp) : ChanKept ch s (modDsp d f t) := h.trans (.same rfl rfl)

theorem ChanKept.modSvc (v : Nat) (f : Svc → Svc) : ChanKept ch s (modSvc v f t) := h.trans (.same rfl rfl)

theorem ChanKept.modFlow (n : Nat) (f : Flow → Flow) : ChanKept ch s (modFlow n f t) := h.trans (.same rfl rfl)

theorem ChanKept.modLayer (i : Nat) (f : LayerSt → LayerSt) : ChanKept ch s (modLayer i f t) := h.trans (.same rfl rfl)

theorem ChanKept.modYch (c : Nat) (f : YCh → YCh) : ChanKept ch s (modYch c f t) := h.trans (.same rfl rfl)

theorem ChanKept.yoked (x : Yoke) : ChanKept ch s { t with yoke := x } := h.trans (.same rfl rfl)

end

section
variable {ch : Nat}

theorem chanKept_sendRel (m : YMsg) (s : State) : ChanKept ch s (sendRel m s) := by
  have wakes : ∀ l (s : State), ChanKept ch s (idleExit l s) := fun l s => .same rfl rfl
  have sends : ∀ bytes (s : State) l, ChanKept ch s (sendOn bytes s l) := fun bytes s l =>
    (ChanKept.ite (wakes l s) (.refl s)).trans (.same rfl rfl)
  refine .trans ?_ (.foldl (sends _) _ _)
  exact .same rfl rfl

theorem chanKept_diverge (c n : Nat) (s : State) : ChanKept ch s (diverge c n s) :=
  .ite (.modYch (.refl s) ..) (.bumped (.raised (.modYch (.refl s) ..) ..) ..)

theorem chanKept_resetFlowBucket (n : Nat) (s : State) : ChanKept ch s (resetFlowBucket n s) := .raised (.modFlow (.refl s) ..) ..

theorem chanKept_flowLeave (g : Nat → Word) (f : Nat) (s : State) : ChanKept ch s (flowLeave g f s) := by
  unfold flowLeave
  exact .modFlow (.refl s) ..

theorem chanKept_flowJoin (g : Nat → Word) (f v : Nat) (s : State) : ChanKept ch s (flowJoin g f v s) :=
  .trans (.modFlow (.refl s) f _) (chanKept_resetFlowBucket ..)

theorem chanKept_flowAtBoundary (g : Nat → Word) (v f : Nat) (s : State) : ChanKept ch s (flowAtBoundary g v f s) := by
  unfold flowAtBoundary
  extract_lets c leaves left x
  have hleft : ChanKept ch s left := .ite (chanKept_flowLeave ..) (.refl s)
  refine hleft.trans (.ite (.ite (chanKept_flowJoin ..) (.ite (.ite ?_ ?_) (.refl left))) (.refl left))
  · exact .trans (.modFlow (.refl left) ..) (chanKept_resetFlowBucket ..)
  · exact .modFlow (.refl left) ..

theorem chanKept_chFlows (c : Nat) (first : Bool) (s : State) : ChanKept ch s (chFlows c first s) :=
  .foldl (fun _ _ => .foldl (fun _ _ => chanKept_flowAtBoundary ..) _ _) _ s

theorem chanKept_svcsAtBoundary (c : Nat) (fresh : Bool) (s : State) : ChanKept ch s (svcsAtBoundary c fresh s) := by
  refine .foldl (fun s v => ?_) _ s
  exact .ite (.ite (.modSvc (.refl s) ..) (.refl s)) (.modSvc (.refl s) ..)

theorem chanKept_canvasStart (c : Nat) (s : State) : ChanKept ch s (canvasStart c s) := by
  unfold canvasStart
  refine .trans (.modChan (.refl s) c ?_ ?_) (.foldl (fun s i => ?_) _ _)
  · exact fun _ => rfl
  · exact fun _ => rfl
  · exact .modLayer (.refl s) ..

theorem chanKept_forceCount (c : Nat) (done : Bool) (s : State) : ChanKept ch s (forceCount c done s) :=
  .ite (.bumped (.raised (.refl s) ..) ..) (.bumped (.raised (.refl s) ..) ..)

theorem chanKept_reportPlan (c : Nat) (q : Plan) (s : State) : ChanKept ch s (reportPlan c q s) := by
  unfold reportPlan
  extract_lets k idr gdr acted inv gone
  have hidr : ChanKept ch s idr := .ite (.bumped (.raised (.refl s) ..) ..) (.refl s)
  have hgdr : ChanKept ch s gdr := .ite (hidr.bumped ..) hidr
  have hacted : ChanKept ch s acted := .ite hgdr (hgdr.trans (chanKept_forceCount ..))
  have hinv : ChanKept ch s inv := by
    refine hacted.trans ?_
    simp only [inv]
    split
    · exact .refl acted
    · exact .bumped (chanKept_forceCount ..) ..
  exact .ite (.raised (hinv.bumped ..) ..) (hinv.bumped ..)

theorem chanKept_takeCkpt (c poc : Nat) (refs : List RefPic) (s : State) : ChanKept ch s (takeCkpt c poc refs s) := by
  refine .bumped (.raised (.modChan (.refl s) c (f := pinStalls refs poc) ?_ ?_) ..) ..
  · exact fun _ => rfl
  · exact fun _ => rfl

theorem chanKept_markStale (c n i : Nat) (missing : Bool) (s : State) : ChanKept ch s (markStale c n i missing s) := by
  unfold markStale
  split
  · exact .refl s
  · have struck : ChanKept ch s (bump (pgLayer i) 0 1 (raiseBit (pgLayer i) 0 s)) := .bumped (.raised (.refl s) ..) ..
    refine .ite (.refl s) (.modPic ?_ ..)
    exact .ite (struck.raised ..) struck

theorem chanKept_selectLive (c n i : Nat) (p : Pic) (s : State) : ChanKept ch s (selectLive c n i p s) := by
  unfold selectLive
  extract_lets g l sl m noted
  have hnoted : ChanKept ch s noted := by
    simp only [noted]
    split
    · exact .refl s
    · exact .ite (.refl s) (.ite (.bumped (.raised (.refl s) ..) ..) (.ite (.bumped (.raised (.refl s) ..) ..) (.refl s)))
  exact .modPic (hnoted.modLayer ..) ..

theorem chanKept_pinDec (v : ShownDec) (up : Bool) (s : State) : ChanKept ch s (pinDec v up s) := .same rfl rfl

theorem chanKept_selectDecoded (c n i : Nat) (p : Pic) (s : State) : ChanKept ch s (selectDecoded c n i p s) := by
  unfold selectDecoded
  extract_lets l d q o chosen
  have hchosen : ChanKept ch s chosen := by
    simp only [chosen]
    clear_value o
    cases o with
    | none => exact chanKept_markStale ..
    | some r =>
      have warned : ChanKept ch s (if r.2.2 then raiseBit (pgDec d) 2 s else s) := .ite (.raised (.refl s) ..) (.refl s)
      exact .ite ((warned.modPic ..).trans (chanKept_markStale ..)) ((warned.modPic ..).modLayer ..)
  refine hchosen.trans ?_
  split
  · exact .refl chosen
  · exact .ite (.bumped (.raised (.trans (.modPic (.refl _) ..) (chanKept_pinDec ..)) ..) ..)
      (.trans (.modPic (.refl _) ..) (chanKept_pinDec ..))

theorem chanKept_selectSources (c n : Nat) (s : State) : ChanKept ch s (selectSources c n s) := by
  unfold selectSources
  split
  · exact .refl s
  · refine .trans (.foldl (fun s _ => .modLayer (.refl s) ..) _ s) (.foldl (fun s i => ?_) _ _)
    exact .ite (.trans (.modLayer (.refl s) ..) (chanKept_selectLive ..))
      (.ite (.trans (.modLayer (.refl s) ..) (chanKept_selectDecoded ..)) (.modLayer (.refl s) ..))

theorem chanKept_completeFurrows (c n : Nat) (s : State) : ChanKept ch s (completeFurrows c n s) := by
  unfold completeFurrows
  split
  · exact .refl s
  · refine .ite (.refl s) (.foldl (fun s k => ?_) _ s)
    exact .ite (.modFur (.refl s) ..) (.refl s)

theorem chanKept_resyncBoundary (c n : Nat) (s : State) : ChanKept ch s (resyncBoundary c n s) := by
  have released : ∀ {t}, ChanKept ch s t → ChanKept ch s (releaseCkpt c t) := fun h =>
    .ite (h.modChan c (f := unpinStalls) (fun _ => rfl) fun _ => rfl) h
  refine .ite (.refl s) (.ite (.ite ?_ (.refl s)) (.ite ?_ (.refl s)))
  · exact .trans (.yoked (.modYch (.refl s) ..) _) (chanKept_sendRel ..)
  · exact .trans (.yoked (released (.modYch (.refl s) ..)) _) (chanKept_sendRel ..)

end

/-- A boundary changes of the barn its stalls alone (R220–R223). -/
theorem barnAtBoundary_frame (stalls n : Nat) (q : Plan) (c : Chan) :
    barnAtBoundary stalls n q c = { c with stalls := (barnAtBoundary stalls n q c).stalls } := by
  unfold barnAtBoundary takeStall
  extract_lets refs moved freed
  have hfreed : freed = { c with stalls := freed.stalls } := by
    simp only [freed]
    split <;> rfl
  clear_value freed
  split
  · exact hfreed
  · rw [hfreed]

theorem st_barnAtBoundary (stalls n : Nat) (q : Plan) (c : Chan) : (barnAtBoundary stalls n q c).st = c.st := by
  rw [barnAtBoundary_frame]

theorem next_barnAtBoundary (stalls n : Nat) (q : Plan) (c : Chan) : (barnAtBoundary stalls n q c).next = c.next := by
  rw [barnAtBoundary_frame]

/-- From `s` to `t` channel `ch` has begun picture `n`: its state stays, its next picture is `n + 1`, no page loses a status bit. -/
structure Begins (ch n : Nat) (s t : State) : Prop where
  st : (chan t ch).st = (chan s ch).st
  next : (chan t ch).next = n + 1
  bits : ∀ k i, bitOf (page s k).stat i = true → bitOf (page t k).stat i = true

theorem Begins.kept {ch n : Nat} {s t u : State} (h : Begins ch n s t) (g : ChanKept ch t u) : Begins ch n s u :=
  ⟨g.st.trans h.st, g.next.trans h.next, fun k i hb => g.bits k i (h.bits k i hb)⟩

theorem ChanKept.thenBegins {ch n : Nat} {s t u : State} (h : ChanKept ch s t) (g : Begins ch n t u) : Begins ch n s u :=
  ⟨g.st.trans h.st, g.next, fun k i hb => g.bits k i (h.bits k i hb)⟩

theorem ChanKept.begins {ch n : Nat} {s t : State} (h : ChanKept ch s t) {f : Chan → Chan} (hst : ∀ x, (f x).st = x.st)
    (hnext : ∀ x, (f x).next = n + 1) : Begins ch n s (Machine.modChan ch f t) := by
  have hchan : chan (Machine.modChan ch f t) ch = f (chan t ch) := (chan_modChan ch f t ch).trans (if_pos rfl)
  refine ⟨?_, ?_, h.bits⟩
  · rw [hchan, hst, h.st]
  · rw [hchan, hnext]

theorem begins_beginPicture (ch n : Nat) (first : Bool) (s : State) : Begins ch n s (beginPicture ch n first s) := by
  unfold beginPicture
  extract_lets g b d active started q reported ck barn pinned p low warned begun counted
  have hstarted : ChanKept ch s started := .ite ((chanKept_svcsAtBoundary ..).trans (chanKept_canvasStart ..)) (chanKept_svcsAtBoundary ..)
  have hbarn : ChanKept ch s barn := by
    refine .modChan (f := barnAtBoundary b.stalls n q) (hstarted.trans (chanKept_reportPlan ..)) ch ?_ ?_
    · exact st_barnAtBoundary _ _ _
    · exact next_barnAtBoundary _ _ _
  have hpinned : ChanKept ch s pinned := by
    refine .ite (.modChan (hbarn.trans (chanKept_takeCkpt ..)) ch ?_ ?_)
      (.ite (.modChan (hbarn.trans (chanKept_takeCkpt ..)) ch ?_ ?_) hbarn)
    all_goals exact fun _ => rfl
  have hwarned : ChanKept ch s warned := .ite (hpinned.raised ..) hpinned
  have hbegun : Begins ch n s begun := by
    refine hwarned.begins ?_ ?_
    · exact fun _ => rfl
    · exact fun _ => rfl
  have hcounted : Begins ch n s counted := hbegun.kept (.bumped (.bumped (.refl begun) ..) ..)
  clear_value counted
  split
  · exact hcounted.kept (chanKept_selectSources ..)
  · exact hcounted.kept (chanKept_completeFurrows ..)

theorem chanKept_wakeItems {ch : Nat} (s : State) : ChanKept ch s (wakeItems s) := by
  refine WakeRel.wakeItems ⟨.refl, .trans, ?_, ?_, ?_⟩ s
  · exact fun d f s => .modDsp (.refl s) d f
  · exact fun k n x s => .bumped (.refl s) k n x
  · exact fun k i s => .raised (.refl s) k i

/-- An armed channel runs, and its CH page shows it (R119). -/
theorem toChState_running_of_armed {s : State} {ch : Nat} (h : (chan s ch).st = .armed) :
    (chan (toChState ch .running s) ch).st = .running ∧ bitOf (page (toChState ch .running s) (pgCh s ch)).stat 9 = true := by
  have hseat : (chan (modChan ch (fun x => { x with st := .running }) s) ch) = { chan s ch with st := .running } :=
    (chan_modChan ..).trans (if_pos rfl)
  have hpage : pgCh (modChan ch (fun x => { x with st := .running }) s) ch = pgCh s ch := by
    rw [pgCh, reportCh, hseat]
    rfl
  have hrun : toChState ch .running s = raiseBit (pgCh s ch) 9 (modChan ch (fun x => { x with st := .running }) s) := by
    rw [← hpage]
    simp [toChState, h, stBit]
  rw [hrun]
  constructor
  · rw [raiseBit_frame]
    exact congrArg Chan.st hseat
  · rw [raiseBit, page_raise, if_pos rfl]
    have hor : ∀ v w : Word, bitOf (v ||| w) 9 = (bitOf v 9 || bitOf w 9) := fun _ _ => BitVec.getLsbD_or ..
    rw [hor, bitOf_bitW (by omega)]
    exact Bool.or_true _

theorem begins_startChannel (ch n : Nat) (s : State) : Begins ch n (toChState ch .running s) (startChannel ch n s) := by
  unfold startChannel
  extract_lets running paired
  have hpaired : ChanKept ch running paired := .ite (.modYch (chanKept_diverge ..) ..) (.refl running)
  have hflows : ChanKept ch running (chFlows ch true paired) := hpaired.trans (chanKept_chFlows ..)
  exact (hflows.thenBegins (begins_beginPicture ..)).kept (chanKept_resyncBoundary ..)

/-- The state at the instant of channel `ch`'s next picture boundary. -/
def atBoundary (s : State) (ch : Nat) : State := advance ((chFmt (effW s) ch).bound (nextPicture s ch)) s

/-- An armed channel begins its next picture at the boundary (R118). -/
theorem boundaryOp_of_armed {s : State} {ch : Nat} (h : (chan s ch).st = .armed) : (chan (boundaryOp ch s) ch).st = .running ∧
    (chan (boundaryOp ch s) ch).next = nextPicture s ch + 1 ∧ bitOf (page (boundaryOp ch s) (pgCh s ch)).stat 9 = true := by
  have hop : boundaryOp ch s = wakeItems (startChannel ch (nextPicture s ch) (atBoundary s ch)) := by
    simp only [boundaryOp, h]
    rfl
  rw [hop]
  have hbegins := (begins_startChannel ch (nextPicture s ch) (atBoundary s ch)).kept (chanKept_wakeItems _)
  obtain ⟨hst, hbit⟩ := toChState_running_of_armed (s := atBoundary s ch) h
  exact ⟨hbegins.st.trans hst, hbegins.next, hbegins.bits _ _ hbit⟩

/-- A channel that is idle or faulted stays as it is (R118). -/
theorem boundaryOp_of_stopped {s : State} {ch : Nat} (h : (chan s ch).st = .idle ∨ (chan s ch).st = .faulted) : boundaryOp ch s = s := by
  rcases h with h | h <;> simp only [boundaryOp, h]

/-! ## What the reads answer -/

section
variable {s : State} {req : Requester} (hrun : inReset s = false) (hdec : decoded req s = true)
include hrun hdec

theorem exec_counterLowRead_of_running {d p n : Nat} (hp : p < 8192) (hk : pageExists s (pkey d p) = true) (hn : n < 128) :
    exec (.counterLowRead req d p n) s = .next (counterRead req (pkey d p) n s) := by
  change onPage d p (fun k => guard' (decide (n < 128) && decoded req s) (counterRead req k n)) s = _
  rw [onPage_of_running hrun hp hk, guard', if_pos (by simp [hn, hdec])]

theorem exec_barnMarkRead_of_running {d e : Nat} (hd : d < dies s) (he : e < 4) :
    exec (.barnMarkRead req d e) s = .next (barnRead req (pkey d (0x120 + e)) s) := by
  change onPage d (0x120 + e) (fun k => guard' (decide (e < 4) && decoded req s) (barnRead req k)) s = _
  rw [onPage_of_running hrun (by omega) (pageExists_barn hd he), guard', if_pos (by simp [he, hdec])]

theorem exec_timeSnapRead_of_running : exec (.timeSnapRead req) s = .next (timeSnap req s) := by
  change Host.Outcome.next (whenUp s _) = _
  rw [whenUp_of_running hrun, guard', if_pos hdec]

theorem exec_yokeSinceRead_of_running (b : Bool) : exec (.yokeSinceRead req b) s = .next (yokeRead req b s) := by
  change Host.Outcome.next (whenUp s _) = _
  rw [whenUp_of_running hrun, guard', if_pos hdec]

end

/-- Settles O14: a read is its latches and its answer; the package boundary is followed in what holds the host link and the
management buffers, the picture boundary in what its channel keeps from where it begins its picture. -/
theorem readsAndBoundariesComplete : Obligations.ReadsAndBoundariesComplete := by
  unfold Obligations.ReadsAndBoundariesComplete
  intro s req hrun hdec
  refine ⟨fun d p n hp hk hn => exec_counterLowRead_of_running hrun hdec hp hk hn, exec_timeSnapRead_of_running hrun hdec,
    fun d e hd he => ?_, exec_yokeSinceRead_of_running hrun hdec, ?_, fun ch hch => ⟨fun h => ?_, fun h => ?_⟩⟩
  · obtain ⟨hout, hframe⟩ := barnRead_frame req (pkey d (0x120 + e)) s
    exact ⟨_, exec_barnMarkRead_of_running hrun hdec hd he, hout, held_barnRead _ _ _ (by omega), held_barnRead _ _ _ (by omega), hframe⟩
  · obtain ⟨hvariant, -⟩ := kept_packageOp s
    exact ⟨packageOp s, congrArg _ (whenUp_of_running hrun _), held_packageOp s, hvariant, fun d hd => mgmtBuf_packageOp hd⟩
  · obtain ⟨hst, hnext, hbit⟩ := boundaryOp_of_armed h
    exact ⟨boundaryOp ch s, atChannel_of_running hrun hch _, hst, hnext, hbit⟩
  · exact (atChannel_of_running hrun hch _).trans (congrArg _ (boundaryOp_of_stopped h))

end Sys2Proof.Laws
end

section
/-! A part in reset (R73–R80): every command but those of the supplies, of `PERST#` and of the release acts only in a part that runs. -/

namespace Sys2Proof.Laws

open Sys2Proof Sys2Proof.Machine

/-- The outcome is the state before. -/
def Stays (s : State) (o : Host.Outcome State Fault Refusal) : Prop := o = .next s

theorem stays_next (s : State) : Stays s (.next s) := rfl

theorem stays_ite {s : State} {c : Prop} [Decidable c] {a b : Host.Outcome State Fault Refusal} (ha : Stays s a) (hb : Stays s b) :
    Stays s (if c then a else b) := by
  split
  · exact ha
  · exact hb

theorem whenUp_of_inReset {s : State} (h : inReset s = true) (k : State → State) : whenUp s k = s := by
  rw [whenUp, if_pos h]

section
variable {s : State} (h : inReset s = true) (k : State → State)
include h

theorem stays_whenUp : Stays s (.next (whenUp s k)) := congrArg _ (whenUp_of_inReset h k)

/-- A command that names a unit: what it does there is done by a part that runs. -/
theorem stays_unit {c : Prop} [Decidable c] : Stays s (if c then .next (whenUp s k) else .next s) :=
  stays_ite (stays_whenUp h k) (stays_next s)

end

/-- Settles O55: each command acts under `whenUp`, outright or for a unit that it names. -/
theorem resetHoldsThePart : Obligations.ResetHoldsThePart := by
  unfold Obligations.ResetHoldsThePart
  intro c s t h hrise hfall hassert hrelease hhold ht
  suffices hs : Stays s (exec c s) from Host.Outcome.next.inj (ht.symm.trans hs)
  cases c with
  | supplyRise => exact absurd rfl hrise
  | supplyFall => exact absurd rfl hfall
  | perstAssert => exact absurd rfl hassert
  | perstRelease => exact absurd rfl hrelease
  | resetRelease => exact absurd rfl hhold
  | domainHoldWrite | dieWakeRequest | pathDown | igmpReport | packetRelease | delayReqSend | dieSleepRequest | ctrlStoreZeroised
  | dramTrainingDone | granuleWiped | sramZeroised | domainPowerUpDone | domainPowerGoodTimeout | domainPowerDown | dieAsleep
  | wakeDomainsUp | wakeDramReady | wakeInterruptRestore | wakeSramZeroised | wakeFirmwareStarted | queueReevaluate | itemEnd
  | trackingWindowEnd | dspWindowEnd | mr4PeriodicRead | thermalAlert | patrolPass | dieFault | pictureBoundary | fenceRead
  | composeStart | canvasPoint | plantingInstant | ctuCoded | codedPoint | deadlinePoint | stateFrame | verdictFrame | copyBulk
  | copyRow | copyMirror | bulkCopyDone | resyncRequest | resyncCheckpointTaken | resyncCopyDone | resyncAbort | mirrorCopy
  | laneCalibrated | signalDetect | signalLoss | adaptationConverged | trainingComplete | trainingTimeout | trainingRetry | lockLoss
  | fecBlockEnd | frameReceived | cmdStop | cmdStart | cmdQuench | cmdUnquench | portTransmit | gateEntry | listStart | sampleReady
  | tdmFrame | tdmClockStop | tdmFaultClear | tdmClockReturn =>
    exact stays_unit h _
  | itemCreate | itemDispatch | engineFault | refreshDue | panicEntry | panicExit | portRun | ykIdleEntry | ykIdleExit
  | ykIdleRefresh | ykExitLate | lineFill | fillEnd | compressedGapLost | accessUnitCutoff | decodedSlicePoint | dueTime =>
    exact stays_ite (stays_unit h _) (stays_next s)
  | zcTimeout | nonAudioClear => exact stays_ite (stays_unit h _) (stays_unit h _)
  | audioPacketRelease => exact stays_ite (stays_next s) (stays_unit h _)
  | _ => exact stays_whenUp h _

end Sys2Proof.Laws
end

section
/-! Resets (R73–R80, R101, R293, R508, R509): what each way into a cold or warm reset leaves, and what its release sets. -/

namespace Sys2Proof.Laws

open Sys2Proof Sys2Proof.Machine

theorem inReset_eq_false_iff (s : State) :
    inReset s = false ↔ s.pwr.supplied = true ∧ s.pwr.hold = false ∧ s.pwr.perstHolds = false := by
  simp [inReset, and_assoc]

/-! ## Outputs of a part with no word in effect (R98) -/

theorem effW_of_empty {t : State} (h : t.eff = []) : effW t = resetWord := by
  funext a
  rw [effW, h]
  rfl

/-- No page's word 0x100 has bit 31 at reset. -/
theorem resetWord_ctl_disabled (k : Nat) : bitOf (resetWord (ploc k 0x100)) 31 = false := by
  have page : ∀ p, bitOf (resetPage p 0x100) 31 = false := by
    intro p
    unfold resetPage
    split_ifs <;> decide
  have hoff : ploc k 0x100 % 4096 = 0x100 := ploc_mod (by decide)
  unfold resetWord
  split
  · rw [hoff]
    exact page _
  · dsimp only
    split <;> decide

theorem portOf_resetWord {l : Nat} (hl : l < 32) : portOf resetWord l = none := by
  have unformed : ∀ p < 32, laneForm resetWord p = 0 := by decide
  refine List.find?_eq_none.mpr fun p hp => ?_
  simp only [List.mem_range'_1] at hp
  rw [unformed p (by omega), formLanes, if_pos rfl]
  simp
  omega

section
variable {t : State} (h : t.eff = [])
include h

theorem txEnabled_of_empty (l : Nat) : txEnabled t l = false := by
  have pairing : pairEn resetWord = false := by decide
  unfold txEnabled
  rw [effW_of_empty h]
  split
  · rw [pairing, Bool.false_and]
  · rw [portOf_resetWord (by omega)]

theorem tdmDrives_of_empty (p : Nat) : tdmDrives t p = false := by
  rw [tdmDrives, effW_of_empty h, audEn, audW, resetWord_ctl_disabled]
  rfl

theorem hbDrive_of_empty : hbDrive t = .highZ := by
  have pairing : pairEn resetWord = false := by decide
  rw [hbDrive, yokeTx, yokeOn, effW_of_empty h, pairing]
  rfl

end

/-- A cleared part drives no output (R98, R508, R509). -/
theorem drives_of_cleared {s t : State} (h : Cleared s t) :
    (∀ l, laneDrive t l = if t.pwr.supplied then .idle else .highZ) ∧ hbDrive t = .highZ ∧
    (∀ p, doutDrive t p = .highZ ∧ bclkDrive t p = .highZ ∧ fsDrive t p = .highZ) ∧
    mclkDrive t = if t.pwr.supplied then .low else .highZ := by
  have heff : t.eff = [] := congrArg State.eff h
  have hdrives := tdmDrives_of_empty heff
  refine ⟨fun l => ?_, hbDrive_of_empty heff, fun p => ⟨?_, ?_, ?_⟩, ?_⟩
  · rw [laneDrive, txEnabled_of_empty heff]
    cases t.pwr.supplied <;> rfl
  · rw [doutDrive, hdrives]
    rfl
  · rw [bclkDrive, hdrives]
    rfl
  · rw [fsDrive, hdrives]
    rfl
  · rw [mclkDrive, hdrives]
    cases t.pwr.supplied <;> rfl

/-! ## Ways into reset -/

theorem mapReg_alone_of_mem_keepMaps {m : Tbl Mc} {e : Nat × Mc} (h : e ∈ keepMaps m) : e.2 = { mapReg := e.2.mapReg } := by
  obtain ⟨x, -, rfl⟩ := List.mem_map.mp (List.mem_filter.mp h).1
  rfl

theorem mem_keepMaps {m : Tbl Mc} {e : Nat × Mc} (h : e ∈ m) (hmap : e.2.mapReg ≠ 2) :
    (e.1, ({ mapReg := e.2.mapReg } : Mc)) ∈ keepMaps m := by
  refine List.mem_filter.mpr ⟨List.mem_map.mpr ⟨e, h, rfl⟩, decide_eq_true fun heq => hmap ?_⟩
  exact congrArg Mc.mapReg heq

section
variable {s : State} (hrun : inReset s = false) {v : Word} (hkey : fld v 31 16 = 0xA5C3)
include hrun hkey

theorem exec_warmResetRequest_of_key (hkind : fld v 1 0 = 1) :
    exec (.warmResetRequest v) s = .next (assertReset false causeWarmReq s) := by
  change Host.Outcome.next (whenUp s (guard' _ _)) = _
  rw [whenUp_of_running hrun, guard', if_pos (by simp [hkey, hkind])]

theorem exec_coldResetRequest_of_key (hkind : fld v 1 0 = 2) :
    exec (.coldResetRequest v) s = .next (assertReset true causeColdReq s) := by
  change Host.Outcome.next (whenUp s (guard' _ _)) = _
  rw [whenUp_of_running hrun, guard', if_pos (by simp [hkey, hkind])]

end

theorem exec_supplyRise_of_unsupplied {s : State} (h : s.pwr.supplied = false) :
    exec .supplyRise s = .next (assertReset true causeColdSupply { s with pwr := { s.pwr with supplied := true } }) := by
  change Host.Outcome.next (if s.pwr.supplied then _ else _) = _
  rw [h]
  rfl

/-- `PERST#` asserted in a part that runs. -/
theorem exec_perstAssert_of_running {s : State} (hrun : inReset s = false) (hperst : s.pwr.perst = false) :
    exec .perstAssert s = .next (if s.pwr.perstMode then linkReset { s with pwr := { s.pwr with perst := true } }
      else { clearPart false s with pwr := { (clearPart false s).pwr with
        perst := true, perstHolds := true, causeBits := causeWarmPerst } }) := by
  have hrun' : inReset { s with pwr := { s.pwr with perst := true } } = false := hrun
  change execPerstAssert s = _
  unfold execPerstAssert
  dsimp only
  rw [hperst, if_neg (by decide), hrun', if_neg (by decide)]
  split <;> rfl

theorem pwr_assertReset {s : State} (hsup : s.pwr.supplied = true) (cold : Bool) (c : Nat) : (assertReset cold c s).pwr =
    { supplied := true, perst := s.pwr.perst, fuses := s.pwr.fuses, perstMode := !cold && s.pwr.perstMode
      cause := if cold then 0 else s.pwr.cause, hold := true, causeBits := c } := by
  simp only [assertReset, clearPart, hsup]

/-- Settles O2: each way in is `clearPart` with the power state written out, and a part with no word in effect drives no output. -/
theorem resetsClearThePart : Obligations.ResetsClearThePart := by
  unfold Obligations.ResetsClearThePart
  refine ⟨fun s t => drives_of_cleared, fun s => ⟨fun hsup => ?_, ?_, fun v hrun hkey hkind => ?_, fun v hrun hkey hkind => ?_,
    fun hrun hperst hmode => ?_⟩⟩
  · exact ⟨_, exec_supplyRise_of_unsupplied hsup, rfl, rfl, rfl, rfl, rfl⟩
  · exact ⟨_, rfl, rfl, rfl, rfl, rfl, rfl⟩
  · obtain ⟨hsup, -⟩ := (inReset_eq_false_iff s).mp hrun
    exact ⟨_, exec_coldResetRequest_of_key hrun hkey hkind, rfl, rfl, rfl, rfl, pwr_assertReset hsup ..⟩
  · obtain ⟨hsup, -⟩ := (inReset_eq_false_iff s).mp hrun
    exact ⟨_, exec_warmResetRequest_of_key hrun hkey hkind, rfl, rfl, rfl, fun e => mapReg_alone_of_mem_keepMaps,
      fun e => mem_keepMaps, pwr_assertReset hsup ..⟩
  · obtain ⟨hsup, -⟩ := (inReset_eq_false_iff s).mp hrun
    have hin := exec_perstAssert_of_running hrun hperst
    rw [hmode, if_neg (by decide)] at hin
    refine ⟨_, hin, rfl, rfl, rfl, fun e => mapReg_alone_of_mem_keepMaps, fun e => mem_keepMaps, ?_⟩
    simp [clearPart, hsup, hmode, causeWarmPerst]

end Sys2Proof.Laws
end

section
/-! The release of a reset and a link reset (R73, R74, R79, R80, R101, R293, R467, R519). -/

namespace Sys2Proof.Laws

open Sys2Proof Sys2Proof.Machine

/-! ## The bring-up origin -/

theorem get_sampleMaps (t : Tbl Mc) (d : Nat) :
    (sampleMaps t).get (fun _ => {}) d = { t.get (fun _ => {}) d with mapLive := (t.get (fun _ => {}) d).mapReg } := by
  induction t with
  | nil => rfl
  | cons e t ih =>
    simp only [sampleMaps, List.map_cons, Tbl.get]
    split
    · rfl
    · exact ih

/-- Every memory controller takes its map at the origin (R293). -/
theorem mc_origin (s : State) (d : Nat) : mc (origin s) d = { mc s d with mapLive := (mc s d).mapReg } :=
  get_sampleMaps s.mcs d

theorem mem_domUp_origin (s : State) (x : Nat) : x ∈ (origin s).pwr.domUp ↔ ∃ d, d < dies s ∧ x = 16 * d + 15 := by
  simp [origin, eq_comm]

theorem mem_domRising_origin (s : State) (x : Nat) : x ∈ (origin s).pwr.domRising ↔ x < 16 * dies s ∧ x % 16 ≠ 15 := by
  simp [origin]

/-! ## Releases -/

theorem exec_resetRelease_of_free {s : State} (hsup : s.pwr.supplied = true) (hhold : s.pwr.hold = true)
    (hfree : s.pwr.perst = false ∨ s.pwr.perstMode = true) : exec .resetRelease s = .next (origin s) := by
  have hpin : (s.pwr.perst && !s.pwr.perstMode) = false := by rcases hfree with h | h <;> simp [h]
  change execResetRelease s = _
  rw [execResetRelease, hsup, hhold, if_neg (by decide), hpin, if_neg (by decide)]

theorem exec_resetRelease_of_perst {s : State} (hsup : s.pwr.supplied = true) (hhold : s.pwr.hold = true)
    (hperst : s.pwr.perst = true) (hmode : s.pwr.perstMode = false) :
    exec .resetRelease s = .next { s with pwr := { s.pwr with
      hold := false, perstHolds := true, causeBits := s.pwr.causeBits ||| causeWarmPerst } } := by
  change execResetRelease s = _
  rw [execResetRelease, hsup, hhold, if_neg (by decide), hperst, hmode, if_pos (by decide)]

theorem exec_perstRelease_of_held {s : State} (hperst : s.pwr.perst = true) (hholds : s.pwr.perstHolds = true) :
    exec .perstRelease s = .next (origin { s with pwr := { s.pwr with perst := false } }) := by
  change execPerstRelease s = _
  unfold execPerstRelease
  dsimp only
  rw [hperst, if_neg (by decide), hholds, if_pos rfl]

theorem exec_perstRelease_of_running {s : State} (hrun : inReset s = false) (hperst : s.pwr.perst = true) :
    exec .perstRelease s = .next { s with pwr := { s.pwr with
      perst := false, cause := s.pwr.cause ||| BitVec.ofNat 32 causeLinkPerst } } := by
  obtain ⟨-, -, hholds⟩ := (inReset_eq_false_iff s).mp hrun
  have hrun' : ¬ inReset { s with pwr := { s.pwr with perst := false } } = true := Bool.eq_false_iff.mp hrun
  exact (if_neg (by simp [hperst])).trans ((if_neg (by simp [hholds])).trans (if_neg hrun'))

/-! ## A link reset -/

/-- What a link reset keeps of the host's side: the boot load and the boot hold (R74). -/
def hostKept (h : HostSt) : HostSt :=
  { hold := h.hold, held := h.held, boot := h.boot, abort := h.abort, bootDone := h.bootDone, bootSet := h.bootSet, bootList := h.bootList }

/-- The part whose link is reset, before delivery is evaluated. -/
def linkCleared (s : State) : State := bump pgPwr 0 1 { s with host := hostKept s.host, ic := { s.ic with msixPend := [] } }

theorem icKept_linkReset (s : State) : IcKept (linkCleared s) (linkReset s) := .evalIc [] _

theorem linkReset_frame (s : State) : linkReset s = { s with
    out := (linkReset s).out, pwr := (linkReset s).pwr, pages := (linkReset s).pages, ctrs := (linkReset s).ctrs
    ic := (linkReset s).ic, host := (linkReset s).host } := by
  have h := (icKept_linkReset s).frame
  rw [h]
  rfl

theorem host_linkReset (s : State) : (linkReset s).host = hostKept s.host := congrArg State.host (icKept_linkReset s).frame

/-- Delivery moves of the power state the dies' sleep alone. -/
theorem IcKept.reset_kept {s t : State} (h : IcKept s t) : t.pwr.cause = s.pwr.cause ∧ t.pwr.perst = s.pwr.perst ∧ inReset t = inReset s := by
  have field {α : Type} (f : State → α) := congrArg f h.frame
  exact ⟨(field fun u => u.pwr.cause).trans rfl, (field fun u => u.pwr.perst).trans rfl, (field inReset).trans rfl⟩

theorem exec_pcieLinkReset_of_running {s : State} (hrun : inReset s = false) (n : Nat) :
    exec (.pcieLinkReset n) s = .next { bump 1 3 n (linkReset s) with pwr := { (linkReset s).pwr with
      cause := (linkReset s).pwr.cause ||| BitVec.ofNat 32 causeLinkPcie } } :=
  congrArg _ (whenUp_of_running hrun _)

/-- Settles O3: the two ways out of a reset end in `origin`; a link reset clears the host's side and evaluates delivery. -/
theorem releaseAndLinkReset : Obligations.ReleaseAndLinkReset := by
  unfold Obligations.ReleaseAndLinkReset
  refine ⟨fun s => ⟨fun hsup hhold hfree => ?_, fun hsup hhold hperst hmode => exec_resetRelease_of_perst hsup hhold hperst hmode,
    fun hperst hholds => ?_⟩, fun s hrun => ⟨fun n => ?_, fun hperst hmode => ?_, exec_perstRelease_of_running hrun⟩⟩
  · refine ⟨_, exec_resetRelease_of_free hsup hhold hfree, rfl, ?_, mem_domUp_origin s, mem_domRising_origin s, fun d => ?_, rfl, rfl, rfl⟩
    · exact (inReset_eq_false_iff _).mpr ⟨hsup, rfl, rfl⟩
    · rw [mc_origin]
      exact ⟨rfl, rfl⟩
  · exact ⟨_, exec_perstRelease_of_held hperst hholds, rfl, rfl, rfl, mem_domUp_origin _, mem_domRising_origin _, rfl⟩
  · obtain ⟨hcause, -⟩ := (icKept_linkReset s).reset_kept
    refine ⟨_, exec_pcieLinkReset_of_running hrun n, host_linkReset s, ?_, ?_, ?_⟩
    · exact congrArg (· ||| 64) hcause
    · have hkept : counter (linkReset s) 1 3 = counter s 1 3 := by
        rw [(icKept_linkReset s).ctr 1 3 (by decide) (by decide) (by decide), linkCleared, counter_bump, if_neg (by decide)]
        rfl
      change counter (bump 1 3 n (linkReset s)) 1 3 = _
      rw [counter_bump, if_pos rfl, hkept]
    · rw [linkReset_frame]
      rfl
  · have hin := exec_perstAssert_of_running hrun hperst
    rw [hmode, if_pos rfl] at hin
    obtain ⟨hcause, hpin, hreset⟩ := (icKept_linkReset { s with pwr := { s.pwr with perst := true } }).reset_kept
    exact ⟨_, hin, host_linkReset _, hpin, hcause, hreset.trans hrun, by rw [linkReset_frame]⟩

end Sys2Proof.Laws
end

section
/-! Three statements that fail, each in a state that the model evaluates: die sleep under a source that wakes the die, a takeover with a
channel that drains, and a line fill beside an ill-formed work item. -/

namespace Sys2Proof.Laws

open Sys2Proof Sys2Proof.Machine

/-! ## Die sleep

A sleep request asks of its die only what R105 lists, and no rule of that list is about interrupts. As the die enters sleep its cores are
asleep for delivery, so that a pending source with WAKE set joins the wake queue at once and asks for the die's wake (R432), and a wake
request acts as a write of 0 to the die's `PWR_SLEEP` bit (R105, R107). The statement wants that bit set after the request. -/

theorem exec_dieSleepRequest_of_awake {s : State} {d : Nat} (hrun : inReset s = false) (hd : d < dies s) (hwaking : d ∉ s.pwr.waking)
    (hasleep : d ∉ s.pwr.asleep) (hentering : d ∉ s.pwr.entering) : exec (.dieSleepRequest d) s = .next (evalSleep d s) := by
  change (if d < dies s then Host.Outcome.next (whenUp s _) else .next s) = _
  rw [if_pos hd, whenUp_of_running hrun, if_neg (by simpa using hwaking), if_neg (by simp [hasleep, hentering])]

/-- A part with nothing in use, whose source 0 pends for the first core of die 1, enabled and with WAKE set. -/
def wakefulPart : State :=
  { pwr := { supplied := true }, ic := { srcs := [(0, { pend := true, en := true, wake := true, target := 4 })] } }

theorem dieInUse_wakefulPart : dieInUse wakefulPart 1 = false := by decide

theorem sleepReg_evalSleep_wakefulPart : 1 ∉ (evalSleep 1 wakefulPart).pwr.sleepReg := by decide +kernel

/-- Refutes O7: the pending source asks for the die's wake as the entry begins, and the die's `PWR_SLEEP` bit falls again. -/
theorem not_diesSleepAndWake : ¬ Obligations.DiesSleepAndWake := by
  unfold Obligations.DiesSleepAndWake
  rintro ⟨sleeping, -⟩
  obtain ⟨entry, -⟩ := sleeping 1 wakefulPart rfl (by decide)
  obtain ⟨t, ht, -, hreg, -⟩ := entry (by decide) (by decide) (by decide) (by decide) dieInUse_wakefulPart
  rw [exec_dieSleepRequest_of_awake rfl (by decide) (by decide) (by decide) (by decide)] at ht
  obtain rfl := Host.Outcome.next.inj ht
  exact sleepReg_evalSleep_wakefulPart hreg

/-! ## Takeover

The channels that run include those that drain (R117). A takeover drops the pictures of one that is not LOCKED, and a draining channel with
no picture left is idle: what the takeover had set in it for its next picture is gone with the state that an idle channel loses. -/

theorem exec_takeover_of_running {s : State} (hrun : inReset s = false) : exec .takeover s = .next (takeoverOp s) :=
  congrArg _ (whenUp_of_running hrun takeoverOp)

/-- A standby with a takeover to come, whose channel 0 drains. -/
def drainingPart : State :=
  { pwr := { supplied := true }, chans := [(0, { st := .draining })], yoke := { role := roleStandby, pendTake := some (0, 5) } }

theorem forceIdr_takeover_drainingPart : (chan (takeoverOp drainingPart) 0).forceIdr = false := by decide

/-- Refutes O41: the draining channel has come to IDLE, and no IDR picture waits in it. -/
theorem not_yieldTakeoverAndDieFaults : ¬ Obligations.YieldTakeoverAndDieFaults := by
  unfold Obligations.YieldTakeoverAndDieFaults
  rintro ⟨yoked, -⟩
  obtain ⟨-, -, -, takeover, -⟩ := yoked drainingPart rfl
  obtain ⟨t, ht, -, -, -, -, -, -, hrestart, -⟩ := takeover 0 5 rfl rfl
  rw [exec_takeover_of_running rfl] at ht
  obtain rfl := Host.Outcome.next.inj ht
  obtain ⟨hidr, -⟩ := hrestart 0 (by decide) (by decide)
  exact absurd hidr (by rw [forceIdr_takeover_drainingPart]; decide)

/-! ## A line fill -/

theorem exec_lineFill_of_running {s : State} {d n : Nat} (hrun : inReset s = false) (hd : d < dies s) (hn : n < 64) (m y : Nat) :
    exec (.lineFill d n m y) s = .next (wakeItems (lineFillOp d n m y s)) := by
  change atSlot d n s (fun s => wakeItems (lineFillOp d n m y s)) = _
  rw [atSlot, if_pos hn, atDie, if_pos hd, whenUp_of_running hrun]

/-- A part with an input slot of one line; the stray item's release advances counter 0 of the `INGEST` page, the fills of slot 0. -/
def slotPart : State := { strayPart (pgIng 0) 0 with eff := [(slotLoc 0 0 0, 0x80010001)], slots := [(0, { valid := true })] }

theorem counter_lineFill_slotPart : counter (wakeItems (lineFillOp 0 0 0 0 slotPart)) (pgIng 0) 0 = 2 := by decide

/-- Refutes O22: the fill counts once, and the stray item's release counts once more on the same counter. -/
theorem not_fillsGapsAndReports : ¬ Obligations.FillsGapsAndReports := by
  unfold Obligations.FillsGapsAndReports
  rintro ⟨fills, -⟩
  obtain ⟨fill, -⟩ := fills 0 0 0 0 slotPart rfl (by decide) (by decide)
  obtain ⟨t, ht, -, -, hcounted, -⟩ := fill rfl (by decide) (by decide) (by decide)
  rw [exec_lineFill_of_running rfl (by decide) (by decide)] at ht
  obtain rfl := Host.Outcome.next.inj ht
  exact not_counted_one (by decide) counter_lineFill_slotPart hcounted

end Sys2Proof.Laws
end

section
/-! Faults (R44, R87, R386): what the operations behind a faulted page leave of the power state, the commit sets and the flags of the
pages. A FAULT bit and a status bit that is set stay set through all of them. -/

namespace Sys2Proof.Laws

open Sys2Proof Sys2Proof.Machine

/-- From `s` to `t` the power state, the commit sets and the set under check stay, and no page loses its FAULT bit or a status bit. -/
structure FlagsKept (s t : State) : Prop where
  pwr : t.pwr = s.pwr
  sets : t.sets = s.sets
  checking : t.checking = s.checking
  faults : ∀ k, (page s k).fault = true → (page t k).fault = true
  bits : ∀ k i, bitOf (page s k).stat i = true → bitOf (page t k).stat i = true

theorem FlagsKept.refl (s : State) : FlagsKept s s := ⟨rfl, rfl, rfl, fun _ h => h, fun _ _ h => h⟩

theorem FlagsKept.trans {s t u : State} (h : FlagsKept s t) (g : FlagsKept t u) : FlagsKept s u :=
  ⟨g.pwr.trans h.pwr, g.sets.trans h.sets, g.checking.trans h.checking, fun k hk => g.faults k (h.faults k hk),
    fun k i hb => g.bits k i (h.bits k i hb)⟩

theorem FlagsKept.ite {s a b : State} {c : Prop} [Decidable c] (ha : FlagsKept s a) (hb : FlagsKept s b) :
    FlagsKept s (if c then a else b) := by
  split
  · exact ha
  · exact hb

theorem FlagsKept.foldl {α : Type} {f : State → α → State} (h : ∀ s a, FlagsKept s (f s a)) (l : List α) (s : State) :
    FlagsKept s (l.foldl f s) := by
  induction l generalizing s with
  | nil => exact .refl _
  | cons a l ih => exact (h s a).trans (ih (f s a))

/-- A change of other fields. -/
theorem FlagsKept.same {s t : State} (hpwr : t.pwr = s.pwr) (hsets : t.sets = s.sets) (hchecking : t.checking = s.checking)
    (hpages : t.pages = s.pages) : FlagsKept s t := by
  refine ⟨hpwr, hsets, hchecking, fun k h => ?_, fun k i h => ?_⟩ <;>
  · rw [page, hpages]
    exact h

/-- A change of one page's header that clears no bit. -/
theorem FlagsKept.modPage (k : Nat) {f : PageHdr → PageHdr} (s : State) (hfault : ∀ h, h.fault = true → (f h).fault = true)
    (hbits : ∀ h i, bitOf h.stat i = true → bitOf (f h).stat i = true) : FlagsKept s (modPage k f s) := by
  refine ⟨rfl, rfl, rfl, fun j h => ?_, fun j i h => ?_⟩ <;> rw [page_modPage] <;> split
  · next hj => exact hfault _ (hj ▸ h)
  · exact h
  · next hj => exact hbits _ i (hj ▸ h)
  · exact h

section
variable {s t : State} (h : FlagsKept s t)
include h

theorem FlagsKept.raised (k i : Nat) : FlagsKept s (raiseBit k i t) := by
  refine h.trans ⟨?_, ?_, ?_, fun j hj => ?_, fun j b hb => ?_⟩
  · rw [raiseBit_frame]
  · rw [raiseBit_frame]
  · rw [raiseBit_frame]
  · rw [raiseBit, page_raise]
    split
    · next he => exact he ▸ hj
    · exact hj
  · rw [raiseBit, page_raise]
    split
    · next he => exact bitOf_or (he ▸ hb)
    · exact hb

theorem FlagsKept.bumped (k n x : Nat) : FlagsKept s (bump k n x t) := h.trans (.same rfl rfl rfl rfl)

theorem FlagsKept.modLane (l : Nat) (f : Lane → Lane) : FlagsKept s (modLane l f t) := h.trans (.same rfl rfl rfl rfl)

theorem FlagsKept.modDsp (d : Nat) (f : Dsp → Dsp) : FlagsKept s (modDsp d f t) := h.trans (.same rfl rfl rfl rfl)

theorem FlagsKept.modChan (ch : Nat) (f : Chan → Chan) : FlagsKept s (modChan ch f t) := h.trans (.same rfl rfl rfl rfl)

theorem FlagsKept.modSvc (v : Nat) (f : Svc → Svc) : FlagsKept s (modSvc v f t) := h.trans (.same rfl rfl rfl rfl)

theorem FlagsKept.modYch (ch : Nat) (f : YCh → YCh) : FlagsKept s (modYch ch f t) := h.trans (.same rfl rfl rfl rfl)

theorem FlagsKept.yoked (x : Yoke) : FlagsKept s { t with yoke := x } := h.trans (.same rfl rfl rfl rfl)

end

theorem flagsKept_raiseN (k i n : Nat) (s : State) : FlagsKept s (raiseN k i n s) :=
  .ite (.refl s) (((FlagsKept.refl s).raised k i).trans (.modPage k _ (fun _ hf => hf) fun _ _ hb => hb))

/-! ## Lanes -/

theorem flagsKept_linkEvents (g : Nat → Word) (l : Nat) (s0 s : State) : FlagsKept s (linkEvents g l s0 s) := by
  have moved : FlagsKept s (if !linkCondIn g s0 l && linkCond s l then raiseBit (lanePage l) 0 s
      else if linkCondIn g s0 l && !linkCond s l then bump (lanePage l) 9 1 (raiseBit (lanePage l) 2 s) else s) :=
    .ite ((FlagsKept.refl s).raised ..) (.ite (((FlagsKept.refl s).raised ..).bumped ..) (.refl s))
  exact .ite (.refl s) (.ite (moved.raised ..) moved)

theorem flagsKept_allLinkEvents (l : Nat) (s0 s : State) : FlagsKept s (allLinkEvents l s0 s) := by
  have own := flagsKept_linkEvents (effW s0) l s0 s
  unfold allLinkEvents
  dsimp only
  split
  · exact .ite own (own.trans (flagsKept_linkEvents ..))
  · exact own

theorem flagsKept_idleExit (l : Nat) (s : State) : FlagsKept s (idleExit l s) := .same rfl rfl rfl rfl

theorem flagsKept_wakeBeat (s : State) : FlagsKept s (wakeBeat s) := by
  unfold wakeBeat
  split
  · exact .ite (flagsKept_idleExit ..) (.refl s)
  · exact .refl s

theorem flagsKept_blocksAnew (l : Nat) (s : State) : FlagsKept s (blocksAnew l s) :=
  ((FlagsKept.refl s).modLane ..).trans (.foldl (fun s _ => (FlagsKept.refl s).modLane ..) _ _)

theorem flagsKept_laneMove (l st : Nat) (s : State) : FlagsKept s (laneMove l st s) := by
  unfold laneMove
  extract_lets old moved
  have hmoved : FlagsKept s moved := (FlagsKept.refl s).modLane ..
  refine .ite hmoved (.trans (.ite (hmoved.trans (.ite ?_ (.refl moved))) hmoved) (flagsKept_blocksAnew ..))
  exact ((FlagsKept.refl moved).modLane ..).raised ..

theorem flagsKept_laneTo (l st : Nat) (s : State) : FlagsKept s (laneTo l st s) := by
  have moved := (flagsKept_laneMove l st s).trans (flagsKept_allLinkEvents l s (laneMove l st s))
  exact .ite (moved.trans (flagsKept_wakeBeat _)) moved

/-! ## Faulted pages -/

theorem flagsKept_faultActs (was : Bool) (k : Nat) (s : State) : FlagsKept s (faultActs was k s) :=
  .trans (.ite ((FlagsKept.refl s).raised k 0) (.refl s)) (.foldl (fun s l => flagsKept_laneTo l stFault s) _ _)

/-- A page is marked faulted. -/
def markFault (k : Nat) (s : State) : State := modPage k (fun h => { h with fault := true }) s

theorem flagsKept_markFault (k : Nat) (s : State) : FlagsKept s (markFault k s) := .modPage k s (fun _ _ => rfl) fun _ _ hb => hb

/-- What follows the marks: the falls of READY, and what each page's fault does. -/
theorem flagsKept_setFaults_marked (ks : List Nat) (s : State) :
    FlagsKept (ks.foldl (fun s k => markFault k s) s) (setFaults ks s) :=
  (flagsKept_raiseN ..).trans (.foldl (fun _ k => flagsKept_faultActs _ k _) _ _)

theorem flagsKept_setFaults (ks : List Nat) (s : State) : FlagsKept s (setFaults ks s) :=
  .trans (.foldl (fun s k => flagsKept_markFault k s) _ _) (flagsKept_setFaults_marked ks s)

theorem fault_markFaults {ks : List Nat} {k : Nat} (hk : k ∈ ks) (s : State) :
    (page (ks.foldl (fun s k => markFault k s) s) k).fault = true := by
  obtain ⟨before, after, rfl⟩ := List.append_of_mem hk
  rw [List.foldl_append, List.foldl_cons]
  refine (FlagsKept.foldl (fun s k => flagsKept_markFault k s) after _).faults k ?_
  rw [markFault, page_modPage, if_pos rfl]

/-- Each page named is in FAULT (R44). -/
theorem fault_setFaults {ks : List Nat} {k : Nat} (hk : k ∈ ks) (s : State) : (page (setFaults ks s) k).fault = true :=
  (flagsKept_setFaults_marked ks s).faults k (fault_markFaults hk s)

theorem flagsKept_noteEngineLost (d : Nat) (s0 s : State) : FlagsKept s (noteEngineLost d s0 s) :=
  .ite ((FlagsKept.refl s).raised ..) (.refl s)

/-! ## Lost channels -/

theorem flagsKept_sendRel (m : YMsg) (s : State) : FlagsKept s (sendRel m s) := by
  have sends : ∀ bytes (s : State) l, FlagsKept s (sendOn bytes s l) := fun bytes s l =>
    (FlagsKept.ite (flagsKept_idleExit l s) (.refl s)).trans (.same rfl rfl rfl rfl)
  refine .trans ?_ (.foldl (sends _) _ _)
  exact .same rfl rfl rfl rfl

theorem flagsKept_diverge (ch c : Nat) (s : State) : FlagsKept s (diverge ch c s) :=
  .ite ((FlagsKept.refl s).modYch ..) ((((FlagsKept.refl s).modYch ..).raised ..).bumped ..)

theorem flagsKept_resyncFailed (ch : Nat) (s : State) : FlagsKept s (resyncFailed ch s) := by
  unfold resyncFailed
  extract_lets counted warned
  have hcounted : FlagsKept s counted := ((FlagsKept.refl s).modYch ..).bumped ..
  exact .yoked (.ite (hcounted.raised ..) hcounted) _

theorem flagsKept_resyncAbort (tell : Bool) (s : State) : FlagsKept s (resyncAbort tell s) := by
  unfold resyncAbort
  split
  · exact .refl s
  · extract_lets c failed was cleared
    have hfailed : FlagsKept s failed := (flagsKept_diverge ..).trans (flagsKept_resyncFailed ..)
    clear_value failed
    have hcleared : FlagsKept s cleared := hfailed.trans (.same rfl rfl rfl rfl)
    exact .ite (hcleared.trans (flagsKept_sendRel ..)) hcleared

theorem flagsKept_abortOf (ch : Nat) (s : State) : FlagsKept s (abortOf ch s) := by
  refine .ite ?_ (.refl s)
  unfold abortResync
  split
  · exact .refl s
  · have aborted : ∀ ch f, FlagsKept s (modChan ch f (resyncAbort true s)) := fun ch f => (flagsKept_resyncAbort true s).modChan ch f
    exact .ite (aborted ..) ((aborted ..).trans (.ite ((FlagsKept.refl _).modChan ..) (.refl _)))

theorem flagsKept_countWait (d : Nat) (a : Nat × Nat × Nat × Nat × Nat) (b : Nat) (s : State) : FlagsKept s (countWait d a b s) := by
  unfold countWait
  refine .bumped ?_ ..
  split
  · exact .refl s
  · exact (FlagsKept.refl s).modDsp ..

theorem flagsKept_dropItems (ch : Nat) (q : Nat → Bool) (s : State) : FlagsKept s (dropItems ch q s) := by
  have ended : ∀ d q, FlagsKept s (recordEnded d q s) := fun d q =>
    ((FlagsKept.refl s).modDsp ..).trans (.foldl (fun _ _ => flagsKept_countWait ..) _ _)
  have served : ∀ d q (s : State), FlagsKept s (recordServed d q s) := fun d q s => .foldl (fun _ _ => flagsKept_countWait ..) _ _
  unfold dropItems
  exact .modDsp ((ended ..).trans (served ..)) ..

theorem flagsKept_dropPics (ch : Nat) (q : Nat → Bool) (s : State) : FlagsKept s (dropPics ch q s) :=
  (((FlagsKept.refl s).modChan ..).trans (flagsKept_dropItems ..)).trans (.foldl (fun s _ => (FlagsKept.refl s).modSvc ..) _ _)

theorem flagsKept_toChState (ch : Nat) (c : ChState) (s : State) : FlagsKept s (toChState ch c s) := by
  unfold toChState
  extract_lets x old f ends counted moved
  have hcounted : FlagsKept s counted := .ite (((FlagsKept.refl s).raised ..).bumped ..) (.refl s)
  have hmoved : FlagsKept s moved := hcounted.modChan ..
  refine .ite hmoved ?_
  split
  · exact hmoved.raised ..
  · exact .ite (hmoved.raised ..) hmoved

theorem flagsKept_settle (ch : Nat) (s : State) : FlagsKept s (settle ch s) := by
  unfold settle
  extract_lets gone dropped counted left
  have hleft : FlagsKept s left :=
    .modChan (.bumped (.ite (.refl s) (flagsKept_dropItems ..)) ..) ..
  exact .ite (.modYch ((hleft.trans (flagsKept_dropItems ..)).trans (flagsKept_toChState ..)) ..) hleft

theorem flagsKept_toFaulted (ch : Nat) (s : State) : FlagsKept s (toFaulted ch s) :=
  (flagsKept_setFaults ..).trans (flagsKept_toChState ..)

theorem flagsKept_faultCh (ch : Nat) (s : State) : FlagsKept s (faultCh ch s) :=
  ((flagsKept_abortOf ..).trans (flagsKept_dropPics ..)).trans (flagsKept_toFaulted ..)

theorem flagsKept_yieldFor (c : Nat) (s : State) : FlagsKept s (yieldFor c s) := by
  have pulsed : ∀ o, FlagsKept s (emit o s) := fun _ => .same rfl rfl rfl rfl
  exact .ite (.bumped (.raised (.yoked ((pulsed _).trans (flagsKept_sendRel ..)) _) ..) ..) (.refl s)

theorem flagsKept_reseat (ch : Nat) (s : State) : FlagsKept s (reseat ch s) := by
  unfold reseat
  extract_lets s0 c g f m keep seqs notSent dropped cut numbered spareCh seated moved told yoked
  have hnumbered : FlagsKept s numbered :=
    ((flagsKept_dropItems ..).trans (flagsKept_dropPics ..)).trans (.foldl (fun s _ => (FlagsKept.refl s).modSvc ..) _ _)
  clear_value numbered
  have hseated : FlagsKept s seated := hnumbered.trans (.same rfl rfl rfl rfl)
  have hmoved : FlagsKept s moved := hseated.modChan ..
  have htold : FlagsKept s told := by
    simp only [told]
    split
    · exact hmoved
    · exact hmoved.raised ..
  have hyoked : FlagsKept s yoked := .ite (htold.trans (flagsKept_diverge ..)) htold
  exact ((FlagsKept.bumped (hyoked.raised ..) ..).trans (flagsKept_settle ..)).trans (flagsKept_noteEngineLost ..)

theorem flagsKept_reseatOrFault (ch : Nat) (s : State) : FlagsKept s (reseatOrFault ch s) :=
  .ite ((flagsKept_abortOf ..).trans (flagsKept_reseat ..)) ((flagsKept_faultCh ch s).raised ..)

theorem flagsKept_loseChans (chs : List Nat) (s : State) : FlagsKept s (loseChans chs s) := by
  have armed : ∀ l : List Nat, FlagsKept s (l.foldl (fun s ch => toFaulted ch s) s) := fun l =>
    .foldl (fun s ch => flagsKept_toFaulted ch s) l s
  exact .ite (((armed _).trans (flagsKept_yieldFor ..)).trans (.foldl (fun s ch => flagsKept_faultCh ch s) _ _))
    ((armed _).trans (.foldl (fun s ch => flagsKept_reseatOrFault ch s) _ _))

/-- After the marks of a die's fault nothing takes a FAULT bit back (R386). -/
theorem flagsKept_dieFaultOp (d : Nat) (s : State) :
    FlagsKept (setFaults ((pagesOf d).filter (fun k => !packagePage (keyPage k))) s) (dieFaultOp d s) := by
  have lost := fun chs => (flagsKept_noteEngineLost d s
    (setFaults ((pagesOf d).filter (fun k => !packagePage (keyPage k))) s)).trans (flagsKept_loseChans chs _)
  exact .ite ((lost _).trans (flagsKept_setFaults ..)) (lost _)

end Sys2Proof.Laws
end

section
/-! Bring-up (R81, R88, R89, R309): each event under the condition that its place in the order of R81 sets. -/

namespace Sys2Proof.Laws

open Sys2Proof Sys2Proof.Machine

theorem atDie_of_running {s : State} {d : Nat} (hrun : inReset s = false) (hd : d < dies s) (k : State → State) :
    atDie d s k = .next (k s) := by
  rw [atDie, if_pos hd, whenUp_of_running hrun]

/-- A command of a die whose condition holds is done. -/
theorem atDie_of_guard {s : State} {d : Nat} (hrun : inReset s = false) (hd : d < dies s) {c : Bool} (hc : c = true)
    (k : State → State) : atDie d s (guard' c k) = .next (k s) := by
  rw [atDie_of_running hrun hd, guard', if_pos hc]

/-- The `MC` page of a faulted die is in FAULT, and the die's bring-up goes no further (R309, R386). -/
theorem dieFaultOp_faults_mc (d : Nat) (s : State) :
    (page (dieFaultOp d s) (pkey d 0x101)).fault = true ∧ (dieFaultOp d s).pwr.trained = s.pwr.trained := by
  have hmc : pkey d 0x101 ∈ (pagesOf d).filter (fun k => !packagePage (keyPage k)) := by
    simp only [pagesOf, List.mem_filter, List.mem_map, List.mem_append]
    refine ⟨⟨0x101, .inr (by decide), rfl⟩, ?_⟩
    rw [keyPage_pkey d _ (by decide)]
    decide
  have hkept := flagsKept_dieFaultOp d s
  refine ⟨hkept.faults _ (fault_setFaults hmc s), ?_⟩
  rw [hkept.pwr, (flagsKept_setFaults ..).pwr]

section
variable {s : State} {d : Nat} (hrun : inReset s = false) (hd : d < dies s)
include hrun hd

theorem exec_dramTrainingDone_of_ready (hctrl : d ∈ s.pwr.ctrlZero) (h8 : 16 * d + 8 ∈ s.pwr.domUp) (h9 : 16 * d + 9 ∈ s.pwr.domUp)
    (htrained : d ∉ s.pwr.trained) (hfault : (page s (pkey d 0x101)).fault = false) (n : Nat) :
    exec (.dramTrainingDone d n) s =
      .next (if n = 0 then { s with pwr := { s.pwr with trained := NSet.add s.pwr.trained d } } else dieFaultOp d s) :=
  atDie_of_guard hrun hd (by simp [hctrl, h8, h9, htrained, hfault]) _

theorem exec_dieFault_of_running (cause : Option (Nat × Nat)) : exec (.dieFault d cause) s = .next (dieFaultFor d cause s) :=
  atDie_of_running hrun hd _

theorem exec_granuleWiped_of_ready (htrained : d ∈ s.pwr.trained)
    (hnext : granules s d < 59 ∨ granules s d = 59 ∧ s.pwr.pkgReady = true ∧ s.pwr.fwReady = true ∧ lanesReady s d = true) :
    exec (.granuleWiped d) s =
      .next { s with pwr := { s.pwr with granules := s.pwr.granules.set (fun _ => 0) d (granules s d + 1) } } := by
  refine atDie_of_guard hrun hd ?_ _
  rcases hnext with h | ⟨h, hpkg, hfw, hlanes⟩
  · simp [htrained, h]
  · simp [htrained, h, hpkg, hfw, hlanes]

omit hd in
theorem exec_packagePagesReady_of_granules
    (h : ∀ e, e < dies s → 0 < granules s e ∨ (page s (pkey e 0x101)).fault = true) :
    exec .packagePagesReady s = .next { s with pwr := { s.pwr with pkgReady := true } } := by
  have hfirst : firstGranules s = true := by
    refine List.all_eq_true.mpr fun e he => ?_
    simpa using h e (List.mem_range.mp he)
  change Host.Outcome.next (whenUp s (guard' (firstGranules s) _)) = _
  rw [whenUp_of_running hrun, guard', if_pos hfirst]

theorem exec_sramZeroised_of_ready (hfw : s.pwr.fwReady = true) (h13 : 16 * d + 13 ∈ s.pwr.domUp) (h14 : 16 * d + 14 ∈ s.pwr.domUp) :
    exec (.sramZeroised d) s = .next (windowsBegin d { s with pwr := { s.pwr with sramZero := NSet.add s.pwr.sramZero d } }) :=
  atDie_of_guard hrun hd (by simp [hfw, h13, h14]) _

end

/-- Settles O4: each event is done under its condition; a failed training is the die's fault. -/
theorem bringUpEventsRecorded : Obligations.BringUpEventsRecorded := by
  unfold Obligations.BringUpEventsRecorded
  intro d s hrun hd
  refine ⟨atDie_of_running hrun hd _, fun hctrl h8 h9 htrained hfault => ?_, fun htrained hnext => ?_,
    exec_packagePagesReady_of_granules hrun, fun hfw h13 h14 => ?_⟩
  · have done := exec_dramTrainingDone_of_ready hrun hd hctrl h8 h9 htrained hfault
    refine ⟨done 0, fun n hn => ?_⟩
    have failed := done n
    rw [if_neg (by omega)] at failed
    exact ⟨failed.trans (exec_dieFault_of_running hrun hd none).symm, _, failed, dieFaultOp_faults_mc d s⟩
  · exact ⟨_, exec_granuleWiped_of_ready hrun hd htrained hnext, fun e =>
      Tbl.get_set (fun _ => 0) s.pwr.granules d e (granules s d + 1), rfl⟩
  · refine ⟨_, exec_sramZeroised_of_ready hrun hd hfw h13 h14, fun e he => ?_, ?_, rfl⟩
    · rw [windowsBegin, dsp_modDsp, if_neg he]
      rfl
    · rw [windowsBegin, dsp_modDsp, if_pos rfl]
      rfl

end Sys2Proof.Laws
end

section
/-! The life cycle (R92–R95, R496): ARM and GO by the field that names them, and by what R94 asks of each. -/

namespace Sys2Proof.Laws

open Sys2Proof Sys2Proof.Machine

section
variable {s : State} (hrun : inReset s = false) {v : Word}
include hrun

theorem exec_lcArm_of_running (hop : fld v 31 28 = 1) : exec (.lcArm v) s = .next
    (if fld v 1 0 ≠ lcNext s.pwr.fuses ∨ 15 ≤ s.pwr.fuses ∨ anyRunning s = true ∨ anySetBusy s = true then lcRefuse s
      else { s with pwr := { s.pwr with armed := true, target := fld v 1 0 } }) := by
  change Host.Outcome.next (whenUp s (guard' _ _)) = _
  rw [whenUp_of_running hrun, guard', if_pos (decide_eq_true hop)]

/-- The part as GO leaves it before the reset that follows (R95, R496). -/
def lcBlown (s : State) : State :=
  { s with pwr := { s.pwr with fuses := s.pwr.fuses + 1 }, tack := { kept := false }
           fw := { s.fw with flash := if lcState s.pwr.fuses = 3 then { s.fw.flash with settings := [] } else s.fw.flash } }

theorem exec_lcGo_of_armed (hop : fld v 31 28 = 2) (harmed : s.pwr.armed = true) (htarget : s.pwr.target = fld v 1 0) :
    exec (.lcGo v) s = .next (assertReset false causeWarmLc (lcBlown s)) := by
  change Host.Outcome.next (whenUp s (guard' _ _)) = _
  rw [whenUp_of_running hrun, guard', if_pos (decide_eq_true hop), if_pos ⟨harmed, htarget⟩]
  dsimp only [wipeTack]
  split
  · next h => simp only [lcBlown, if_pos h]
  · next h => simp only [lcBlown, if_neg h]

theorem exec_lcGo_of_unarmed (hop : fld v 31 28 = 2) (h : ¬ (s.pwr.armed = true ∧ s.pwr.target = fld v 1 0)) :
    exec (.lcGo v) s = .next (lcRefuse s) := by
  change Host.Outcome.next (whenUp s (guard' _ _)) = _
  rw [whenUp_of_running hrun, guard', if_pos (decide_eq_true hop), if_neg h]

end

/-- A refusal strikes LC_REFUSED and disarms (R94). -/
theorem lcRefuse_spec (s : State) : Struck 4 4 s (lcRefuse s) ∧
    lcRefuse s = { s with pages := (lcRefuse s).pages, ic := (lcRefuse s).ic, pwr := { s.pwr with armed := false } } := by
  refine ⟨struck_raiseBit 4 (by decide) { s with pwr := { s.pwr with armed := false } }, ?_⟩
  unfold lcRefuse
  rw [raiseBit_frame]

/-- Settles O6: ARM and GO each have one case that acts; every other is `lcRefuse`. -/
theorem lifeCycleMovesOneStep : Obligations.LifeCycleMovesOneStep := by
  unfold Obligations.LifeCycleMovesOneStep
  intro v s hrun
  refine ⟨fun hop hnext hfuses hidle hfree => ?_, fun hop hbad => ?_, fun hop harmed htarget => ?_, fun hop hun => ?_,
    congrArg _ (whenUp_of_running hrun _)⟩
  · rw [exec_lcArm_of_running hrun hop, if_neg (by simp [hnext, hidle, hfree, hfuses])]
  · obtain ⟨hstruck, hframe⟩ := lcRefuse_spec s
    refine ⟨_, exec_lcArm_of_running hrun hop, ?_⟩
    rw [if_pos hbad]
    exact ⟨hstruck, hframe⟩
  · obtain ⟨hsup, -⟩ := (inReset_eq_false_iff s).mp hrun
    exact ⟨_, exec_lcGo_of_armed hrun hop harmed htarget, rfl, rfl, rfl, pwr_assertReset (s := lcBlown s) hsup ..⟩
  · obtain ⟨hstruck, hframe⟩ := lcRefuse_spec s
    exact ⟨_, exec_lcGo_of_unarmed hrun hop hun, hstruck, hframe⟩

end Sys2Proof.Laws
end

section
/-! Power domains (R87, R101–R104, R109): what power-good, its absence, a fall and a hold do, and the registers that show them. -/

namespace Sys2Proof.Laws

open Sys2Proof Sys2Proof.Machine

/-! ## Domains that are down -/

theorem mem_domainsDown (s : State) (need : Nat → Nat → Bool) (x : Nat) :
    x ∈ domainsDown s need ↔ ∃ d i, d < dies s ∧ i < 6 ∧ need d i = true ∧ 16 * d + i ∉ s.pwr.domUp ∧ x = 16 * d + i := by
  simp only [domainsDown, List.mem_flatMap, List.mem_map, List.mem_filter, List.mem_range, Bool.and_eq_true, Bool.not_eq_true',
    List.contains_eq_mem, decide_eq_false_iff_not]
  constructor
  · rintro ⟨d, hd, i, ⟨hi, hneed, hup⟩, rfl⟩
    exact ⟨d, i, hd, hi, hneed, hup, rfl⟩
  · rintro ⟨d, i, hd, hi, hneed, hup, rfl⟩
    exact ⟨d, hd, i, ⟨hi, hneed, hup⟩, rfl⟩

theorem mem_foldl_add (l : List Nat) (t : NSet) (x : Nat) : x ∈ l.foldl NSet.add t ↔ x ∈ l ∨ x ∈ t := by
  induction l generalizing t with
  | nil => simp
  | cons a l ih => rw [List.foldl_cons, ih, mem_NSet_add, List.mem_cons]; tauto

/-- The last of the missing domains has come up (R102). -/
theorem domainsMissing_eq_nil_of_raised {s s' : State} {y : Nat} (hdies : dies s' = dies s)
    (hup : s'.pwr.domUp = NSet.add s.pwr.domUp y) {t : Tbl Word} (h : ∀ x ∈ domainsMissing s t, x = y) : domainsMissing s' t = [] := by
  refine List.eq_nil_iff_forall_not_mem.mpr fun x hx => ?_
  obtain ⟨d, i, hd, hi, hneed, hdown, rfl⟩ := (mem_domainsDown ..).mp hx
  rw [hup, mem_NSet_add, not_or] at hdown
  exact hdown.1 (h _ ((mem_domainsDown ..).mpr ⟨d, i, hdies ▸ hd, hi, hneed, hdown.2, rfl⟩))

/-! ## Power-good -/

/-- From `s` to `t` the domains that are up and the count of their rises stay. -/
structure DomainsKept (s t : State) : Prop where
  up : t.pwr.domUp = s.pwr.domUp
  once : t.pwr.domOnce = s.pwr.domOnce
  rises : counter t 4 5 = counter s 4 5

theorem DomainsKept.refl (s : State) : DomainsKept s s := ⟨rfl, rfl, rfl⟩

theorem DomainsKept.trans {s t u : State} (h : DomainsKept s t) (g : DomainsKept t u) : DomainsKept s u :=
  ⟨g.up.trans h.up, g.once.trans h.once, g.rises.trans h.rises⟩

theorem DomainsKept.ite {s a b : State} {c : Prop} [Decidable c] (ha : DomainsKept s a) (hb : DomainsKept s b) :
    DomainsKept s (if c then a else b) := by
  split
  · exact ha
  · exact hb

theorem DomainsKept.foldl {α : Type} {f : State → α → State} (h : ∀ s a, DomainsKept s (f s a)) (l : List α) (s : State) :
    DomainsKept s (l.foldl f s) := by
  induction l generalizing s with
  | nil => exact .refl _
  | cons a l ih => exact (h s a).trans (ih (f s a))

/-- A change of other fields. -/
theorem DomainsKept.same {s t : State} (hup : t.pwr.domUp = s.pwr.domUp) (honce : t.pwr.domOnce = s.pwr.domOnce)
    (hctrs : t.ctrs = s.ctrs) : DomainsKept s t := by
  refine ⟨hup, honce, ?_⟩
  rw [counter, hctrs]
  rfl

section
variable {s t : State} (h : DomainsKept s t)
include h

theorem DomainsKept.raised (k i : Nat) : DomainsKept s (raiseBit k i t) := by
  rw [raiseBit_frame]
  exact h.trans (.same rfl rfl rfl)

theorem DomainsKept.hosted (x : HostSt) : DomainsKept s { t with host := x } := h.trans (.same rfl rfl rfl)

theorem DomainsKept.serviced (x : SvcFw) : DomainsKept s { t with services := x } := h.trans (.same rfl rfl rfl)

/-- Another counter. -/
theorem DomainsKept.bumped {k n : Nat} (hk : 128 * k + n ≠ 517) (x : Nat) : DomainsKept s (bump k n x t) :=
  h.trans ⟨rfl, rfl, by rw [counter_bump, if_neg (by omega)]⟩

end

theorem domainsKept_admitLive (s0 s : State) : DomainsKept s (admitLive s0 s) := by
  have raised : ∀ (c : Bool) (k i : Nat) {s t : State}, DomainsKept s t → DomainsKept s (if c then raiseBit k i t else t) :=
    fun _ _ _ _ _ h => .ite (h.raised ..) h
  have alarmed : ∀ (c : Bool) (d : Nat) {s t : State}, DomainsKept s t →
      DomainsKept s (if c then bump (pgMc d) 7 1 (raiseBit (pgMc d) 3 t) else t) := fun _ d _ _ h =>
    .ite ((h.raised ..).bumped (by unfold pgMc pkey; omega) _) h
  have conds : ∀ d (s : State), DomainsKept s (rateConds d s0 s) := fun d s => raised _ _ 4 (alarmed _ d (raised _ _ 2 (.refl s)))
  have lost : ∀ d (s : State), DomainsKept s (noteEngineLost d s0 s) := fun d s => raised _ _ 3 (.refl s)
  have room : ∀ d f g (s : State), DomainsKept s (modDsp d g (modMc d f s)) := fun _ _ _ _ => .same rfl rfl rfl
  exact .foldl (fun s d => ((room d _ _ s).trans (lost d _)).trans (conds d _)) _ s

theorem domainsKept_bootChecked (q : Nat) (passed : Bool) (s : State) : DomainsKept s (bootChecked q passed s) := by
  unfold bootChecked
  split
  · exact .refl s
  · refine .ite (.refl s) (.ite (.raised (.hosted (.refl s) _) ..) (.ite (.hosted (.hosted (.refl s) _) _) ?_))
    split
    · exact .hosted (.hosted (.refl s) _) _
    · have strapped : ∀ t : State, DomainsKept t { t with pwr := { t.pwr with perstMode := true } } := fun _ => .same rfl rfl rfl
      have done : ∀ x y, DomainsKept s (raiseBit 1 2 { { s with host := x } with host := y }) := fun x y =>
        (((DomainsKept.refl s).hosted x).hosted y).raised ..
      exact .ite ((done _ _).trans (strapped _)) (done _ _)

theorem domainsKept_is05Checked (q : Nat) (passed : Bool) (s : State) : DomainsKept s (is05Checked q passed s) := by
  have answered : ∀ n o x, n < 128 → DomainsKept s (emit o (bump 1 n 1 { s with services := x })) := fun n o x hn =>
    (((DomainsKept.refl s).serviced x).bumped (by omega) 1).trans (.same rfl rfl rfl)
  exact .ite (.ite (answered _ _ _ (by decide)) (answered _ _ _ (by decide))) (.refl s)

theorem domainsKept_applySet (q gen e : Nat) (s : State) : DomainsKept s (applySet q gen e s) := by
  unfold applySet
  extract_lets en live marked passing waiting
  have hlive : DomainsKept s live := .same rfl rfl rfl
  have hmarked : DomainsKept s marked := by
    refine hlive.trans (.foldl (fun s k => ?_) _ _)
    exact .same rfl rfl rfl
  clear_value marked
  have hwaiting : DomainsKept s waiting := hmarked.trans (.same rfl rfl rfl)
  clear_value waiting
  have hpowered : DomainsKept s (powerNeeded (admitLive s (bump 0 1 1 waiting))) :=
    ((hwaiting.bumped (by decide) 1).trans (domainsKept_admitLive ..)).trans (.same rfl rfl rfl)
  refine ((hpowered.trans (domainsKept_bootChecked ..)).trans (domainsKept_is05Checked ..)).trans (.foldl (fun s l => ?_) _ _)
  exact .same rfl rfl rfl

/-- The domain has come up, and the rise is counted (R109). -/
def domainRaised (d i : Nat) (s : State) : State :=
  bump pgPwr 5 1 { s with pwr := { s.pwr with
    domRising := NSet.del s.pwr.domRising (16 * d + i), domUp := NSet.add s.pwr.domUp (16 * d + i)
    domOnce := NSet.add s.pwr.domOnce (16 * d + i) } }

theorem domainsKept_domainsSettled (s : State) : DomainsKept s (domainsSettled s) := by
  unfold domainsSettled
  split
  · exact .refl s
  · exact .ite (domainsKept_applySet ..) (.refl s)

/-- A set that waits for its domains enters APPLY once none is missing (R102). -/
theorem domainsSettled_of_ready {s : State} {q : Nat} (hc : s.checking = some q) (hp : (cset s q).phase = .domains)
    (hd : domainsMissing s (candidate s (cset s q).entry) = []) :
    (cset (domainsSettled s) q).st = .apply ∧ (domainsSettled s).checking = none := by
  have happlies : domainsSettled s = applySet q (cset s q).passGen (cset s q).effect s := by
    rw [domainsSettled, hc]
    exact if_pos ⟨hp, hd⟩
  rw [happlies, cset_applySet, (setsKept_applySet ..).checking]
  exact ⟨rfl, rfl⟩

/-- Bits 0 to 5 of a hold are written (R104). -/
def holdSet (d : Nat) (v : Word) (s : State) : State :=
  { s with pwr := { s.pwr with domHold := s.pwr.domHold.set (fun _ => 0) d (fld v 5 0) } }

section
variable {s : State} {d i : Nat} (hrun : inReset s = false) (hd : d < dies s)
include hrun hd

theorem exec_domainPowerUpDone_of_rising (hi : i < 15) (hrise : mayRise s d i = true) :
    exec (.domainPowerUpDone d i) s = .next (domainsSettled (domainRaised d i s)) :=
  atDie_of_guard hrun hd (by simp [hi, hrise]) _

/-! ## No power-good -/

/-- The domain's pages are in FAULT and DOMAIN_FAULT is struck (R87, R102). -/
def domainLost (d i : Nat) (s : State) : State :=
  noteEngineLost d s (raiseBit pgPwr 3 (setFaults (domainPages d i) { s with pwr := { s.pwr with
    domRising := NSet.del s.pwr.domRising (16 * d + i), domFault := NSet.add s.pwr.domFault (16 * d + i) } }))

theorem exec_domainPowerGoodTimeout_of_rising (hi : i < 15) (hrise : 16 * d + i ∈ s.pwr.domRising) :
    exec (.domainPowerGoodTimeout d i) s =
      .next (domainFailed (16 * d + i) (ploc ((domainPages d i).headD 0) 8) (domainLost d i s)) :=
  atDie_of_guard hrun hd (by simp [hi, hrise]) _

theorem exec_domainPowerDown_of_free (hi : i < 6) (hup : 16 * d + i ∈ s.pwr.domUp) (hneed : domNeeded s d i = false)
    (hbusy : domBusy s d i = false) : exec (.domainPowerDown d i) s =
      .next (bump pgPwr 6 1 { s with pwr := { s.pwr with domUp := NSet.del s.pwr.domUp (16 * d + i) } }) :=
  atDie_of_guard hrun hd (by simp [hi, hup, hneed, hbusy]) _

theorem exec_domainHoldWrite_of_running (v : Word) : exec (.domainHoldWrite d v) s =
    .next (powerNeeded (holdSet d v s)) := by
  change (if d < dies s then Host.Outcome.next (whenUp s _) else .next s) = _
  rw [if_pos hd, whenUp_of_running hrun]
  rfl

end

theorem fld_hold (v : Word) : fld v 5 0 = v.toNat % 64 := rfl

theorem domHold_powerNeeded_holdSet (d e : Nat) (v : Word) (s : State) :
    (powerNeeded (holdSet d v s)).pwr.domHold.get (fun _ => 0) e = if e = d then v.toNat % 64 else s.pwr.domHold.get (fun _ => 0) e := by
  have hset : (powerNeeded (holdSet d v s)).pwr.domHold = s.pwr.domHold.set (fun _ => 0) d (fld v 5 0) := rfl
  rw [hset, Tbl.get_set, fld_hold]

/-- A held domain is up or powers up (R104). -/
theorem mem_powerNeeded_of_held {s : State} {d j : Nat} {v : Word} (hd : d < dies s) (hj : j < 6) (hv : v.toNat.testBit j = true) :
    16 * d + j ∈ s.pwr.domUp ∨ 16 * d + j ∈ (powerNeeded (holdSet d v s)).pwr.domRising := by
  refine or_iff_not_imp_left.mpr fun hdown => (mem_foldl_add ..).mpr (.inl ((mem_domainsDown ..).mpr ⟨d, j, hd, hj, ?_, hdown, rfl⟩))
  have hheld : (holdSet d v s).pwr.domHold.get (fun _ => 0) d = v.toNat % 2 ^ 6 := Tbl.get_set_same (fun _ => 0) s.pwr.domHold d (fld v 5 0)
  rw [domainHeld, hheld, Nat.testBit_mod_two_pow]
  simp [hj, hv]

theorem flagsKept_bootChecked_refused (q : Nat) (s : State) : FlagsKept s (bootChecked q false s) := by
  unfold bootChecked
  split
  · exact .refl s
  · refine .ite (.refl s) (.raised ?_ ..)
    exact .same rfl rfl rfl rfl

theorem flagsKept_is05Checked (q : Nat) (passed : Bool) (s : State) : FlagsKept s (is05Checked q passed s) := by
  have answered : ∀ n o x, FlagsKept s (emit o (bump 1 n 1 { s with services := x })) := fun n o x => .same rfl rfl rfl rfl
  exact .ite (.ite (answered ..) (answered ..)) (.refl s)

theorem FlagsKept.reported {s t : State} (h : FlagsKept s t) (q i : Nat) : FlagsKept s (raiseReport q i t) := by
  unfold raiseReport atReport
  split
  · exact h
  · exact .ite (h.raised ..) h

/-- The flags stay through a refusal of set `q` (R63, R69). -/
theorem flagsKept_failSet (q cause a : Nat) (s : State) : FlagsKept (refused q cause a s) (failSet q cause a s) := by
  have clears : ∀ t u : State, FlagsKept t u → FlagsKept { t with checking := if t.checking = some q then none else t.checking }
      { u with checking := if u.checking = some q then none else u.checking } := fun t u h =>
    ⟨h.pwr, h.sets, congrArg (fun c : Option Nat => if c = some q then none else c) h.checking, h.faults, h.bits⟩
  have reported : ∀ s, FlagsKept s (if cause = causeYoke then raiseBit pgYoke 9 (raiseReport q 30 s) else raiseReport q 30 s) := fun s =>
    .ite (((FlagsKept.refl s).reported ..).raised ..) ((FlagsKept.refl s).reported ..)
  exact ((clears _ _ (reported _)).trans (flagsKept_bootChecked_refused q _)).trans (flagsKept_is05Checked q false _)

theorem domainFailed_cases (x a : Nat) (s : State) : domainFailed x a s = s ∨ ∃ q, domainFailed x a s = failSet q causeLife a s := by
  unfold domainFailed
  split
  · exact .inl rfl
  · next q _ =>
    dsimp only
    split
    · exact .inr ⟨q, rfl⟩
    · exact .inl rfl

theorem pwr_refused (q cause a : Nat) (s : State) : (refused q cause a s).pwr = s.pwr := by simp only [refused, bump, modSet]

theorem pages_refused (q cause a : Nat) (s : State) : (refused q cause a s).pages = s.pages := by simp only [refused, bump, modSet]

/-- What a refused set leaves of the power state, the faults and the status bits. -/
theorem kept_domainFailed (x a : Nat) (s : State) : (domainFailed x a s).pwr = s.pwr ∧
    (∀ k, (page s k).fault = true → (page (domainFailed x a s) k).fault = true) ∧
    ∀ k i, bitOf (page s k).stat i = true → bitOf (page (domainFailed x a s) k).stat i = true := by
  obtain hsame | ⟨q, hfail⟩ := domainFailed_cases x a s
  · rw [hsame]
    exact ⟨rfl, fun _ h => h, fun _ _ h => h⟩
  · have hpage : ∀ k, page (refused q causeLife a s) k = page s k := fun k => by rw [page, page, pages_refused]
    obtain ⟨hkept, -, -, hfaults, hbits⟩ := flagsKept_failSet q causeLife a s
    rw [pwr_refused] at hkept
    simp only [hpage] at hfaults hbits
    rw [hfail]
    exact ⟨hkept, hfaults, hbits⟩

theorem domainFailed_of_waiting {s : State} {q x : Nat} (hc : s.checking = some q) (hp : (cset s q).phase = .domains)
    (hx : x ∈ domainsMissing s (candidate s (cset s q).entry)) (a : Nat) : domainFailed x a s = failSet q causeLife a s := by
  rw [domainFailed, hc]
  exact if_pos ⟨hp, by simpa using hx⟩

/-- The domain is no longer rising, and marked as failed. -/
def domainDropped (x : Nat) (s : State) : State :=
  { s with pwr := { s.pwr with domRising := NSet.del s.pwr.domRising x, domFault := NSet.add s.pwr.domFault x } }

theorem flagsKept_domainLost (d i : Nat) (s : State) :
    FlagsKept (setFaults (domainPages d i) (domainDropped (16 * d + i) s)) (domainLost d i s) :=
  ((FlagsKept.refl _).raised ..).trans (flagsKept_noteEngineLost ..)

theorem flagsKept_domainLost_dropped (d i : Nat) (s : State) : FlagsKept (domainDropped (16 * d + i) s) (domainLost d i s) :=
  (flagsKept_setFaults ..).trans (flagsKept_domainLost ..)

theorem stat_domainLost (d i : Nat) (s : State) : bitOf (page (domainLost d i s) 4).stat 3 = true := by
  refine (flagsKept_noteEngineLost ..).bits 4 3 ?_
  rw [raiseBit, page_raise, if_pos (show 4 = pgPwr from rfl)]
  have hor : ∀ v w : Word, bitOf (v ||| w) 3 = (bitOf v 3 || bitOf w 3) := fun _ _ => BitVec.getLsbD_or ..
  rw [hor, bitOf_bitW (by decide)]
  exact Bool.or_true _

/-- A lost domain changes nothing of what its waiting set is checked against. -/
theorem domainsMissing_domainLost (d i : Nat) (s : State) (e : List Word) :
    domainsMissing (domainLost d i s) (candidate (domainLost d i s) e) = domainsMissing s (candidate s e) := by
  have hkept := flagsKept_domainLost_dropped d i s
  have hsteady : steady (domainLost d i s) = steady s :=
    (steady_noteEngineLost ..).trans ((steady_raiseBit ..).trans ((steady_setFaults ..).trans rfl))
  have hdies : dies (domainLost d i s) = dies s := dies_of_kept (.of_eq hsteady)
  have hwords : stores (domainLost d i s) = stores s :=
    (stores_noteEngineLost ..).trans ((stores_raiseBit ..).trans ((stores_setFaults ..).trans rfl))
  have hcandidate : candidate (domainLost d i s) e = candidate s e := by
    rw [candidate, show (domainLost d i s).staged = s.staged from congrArg (fun x => x.1.1) hwords,
      show (domainLost d i s).live = s.live from congrArg (fun x => x.1.2.1) hwords]
    rfl
  have hup : (domainLost d i s).pwr.domUp = s.pwr.domUp := by rw [hkept.pwr]; rfl
  rw [hcandidate, domainsMissing, domainsDown, hdies, hup]
  rfl

/-- Settles O5: a set that waits is settled by what is still missing; the lost domain's pages keep their FAULT through all that
follows. -/
theorem domainsRiseAndFall : Obligations.DomainsRiseAndFall := by
  unfold Obligations.DomainsRiseAndFall
  intro d i s hrun hd
  refine ⟨fun hi hrise => ⟨_, exec_domainPowerUpDone_of_rising hrun hd hi hrise, ?_⟩,
    fun hi hrise => ⟨_, exec_domainPowerGoodTimeout_of_rising hrun hd hi hrise, ?_⟩,
    fun hi hup hneed hbusy => ⟨_, exec_domainPowerDown_of_free hrun hd hi hup hneed hbusy, rfl, ?_, rfl⟩,
    fun v => ⟨_, exec_domainHoldWrite_of_running hrun hd v, fun e => ?_, fun j hj hv => ?_, rfl⟩⟩
  · have hkept := domainsKept_domainsSettled (domainRaised d i s)
    refine ⟨hkept.up, hkept.once, ?_, fun hc => ?_, fun q hc hp hmissing => ?_⟩
    · rw [Counted, hkept.rises, domainRaised, pgPwr, counter_bump, if_pos rfl]
      rfl
    · have hsettled : domainsSettled (domainRaised d i s) = domainRaised d i s := by
        rw [domainsSettled, show (domainRaised d i s).checking = none from hc]
      rw [hsettled]
      rfl
    · refine domainsSettled_of_ready (s := domainRaised d i s) hc hp ?_
      exact domainsMissing_eq_nil_of_raised (s := s) (s' := domainRaised d i s) (y := 16 * d + i) rfl rfl hmissing
  · have hlost := flagsKept_domainLost_dropped d i s
    obtain ⟨hpwr, hfaults, hbits⟩ := kept_domainFailed (16 * d + i) (ploc ((domainPages d i).headD 0) 8) (domainLost d i s)
    refine ⟨?_, ?_, fun k hk => hfaults k ((flagsKept_domainLost d i s).faults k (fault_setFaults hk _)), hbits 4 3 (stat_domainLost d i s),
      fun q hc hp hmissing => ?_⟩
    · rw [hpwr, hlost.pwr]
      rfl
    · rw [hpwr, hlost.pwr]
      rfl
    · have hchecking : (domainLost d i s).checking = some q := hlost.checking.trans hc
      have hset : cset (domainLost d i s) q = cset s q := by
        rw [cset, hlost.sets]
        rfl
      rw [domainFailed_of_waiting hchecking (by rw [hset]; exact hp) (by rw [domainsMissing_domainLost, hset]; exact hmissing),
        cset_failSet, checking_failSet _ _ hchecking]
      exact ⟨rfl, rfl, rfl⟩
  · rw [Counted, pgPwr, counter_bump, if_pos rfl]
    rfl
  · exact domHold_powerNeeded_holdSet d e v s
  · exact mem_powerNeeded_of_held (s := s) (v := v) hd hj hv

end Sys2Proof.Laws
end

section
/-! The registers of the power domains and of the dies' sleep (R104, R106), as bits. -/

namespace Sys2Proof.Laws

open Sys2Proof Sys2Proof.Machine

/-! ## Packed bits -/

theorem testBit_packW_one (l : List Nat) (i : Nat) : (packW 1 l).testBit i = decide (l.getD i 0 % 2 = 1) := by
  induction l generalizing i with
  | nil => simp [packW]
  | cons x l ih =>
    cases i with
    | zero => simp [packW, Nat.testBit_zero]
    | succ i =>
      have hdiv : packW 1 (x :: l) / 2 = packW 1 l := by
        rw [packW]
        omega
      rw [Nat.testBit_succ, hdiv, ih]
      rfl

theorem testBit_packW_range (n : Nat) (c : Nat → Bool) (i : Nat) :
    (packW 1 ((List.range n).map fun j => if c j then 1 else 0)).testBit i = (decide (i < n) && c i) := by
  rw [testBit_packW_one, List.getD_eq_getElem?_getD, List.getElem?_map]
  by_cases hi : i < n
  · cases hc : c i <;> simp [hi, hc]
  · simp [hi]

theorem packW_lt (w : Nat) (l : List Nat) : packW w l < 2 ^ (w * l.length) := by
  induction l with
  | nil => simp [packW]
  | cons x l ih =>
    have hx : x % 2 ^ w < 2 ^ w := Nat.mod_lt _ (by positivity)
    calc packW w (x :: l) = x % 2 ^ w + 2 ^ w * packW w l := rfl
      _ < 2 ^ w * (packW w l + 1) := by rw [Nat.mul_add]; omega
      _ ≤ 2 ^ w * 2 ^ (w * l.length) := Nat.mul_le_mul_left _ ih
      _ = 2 ^ (w * (x :: l).length) := by rw [← Nat.pow_add, List.length_cons]; ring_nf

theorem testBit_dieBits (l : NSet) (i : Nat) : (dieBits l).testBit i = (decide (i < 8) && l.contains i) :=
  testBit_packW_range 8 _ i

theorem dieBits_lt (l : NSet) : dieBits l < 2 ^ 8 := packW_lt 1 ((List.range 8).map _)

theorem bitOf_W (n i : Nat) : bitOf (W n) i = (decide (i < 32) && n.testBit i) := BitVec.getLsbD_ofNat ..

/-! ## The registers -/

theorem readReg_pwr {s : State} (hrun : inReset s = false) (req : Requester) {off : Nat} (hlo : 0x100 ≤ off) (hhi : off < 0x800)
    (h4 : off % 4 = 0) : readReg s req (ploc 4 off) 4 = pwrReg s off := by
  rw [readReg_ploc (pageExists_pwr s) (by omega) h4 hrun, readPage, pageExists_pwr, if_neg (by decide), if_neg (by omega), if_pos hhi]
  rfl

section
variable {s : State} {d : Nat} (hd : d < 8)
include hd

theorem pwrReg_domState : pwrReg s (0x200 + 4 * d) =
    if d < dies s then W (packW 1 ((List.range 16).map fun i => if s.pwr.domUp.contains (16 * d + i) then 1 else 0)) else 0 := by
  have hdiv : (0x200 + 4 * d - 0x200) / 4 = d := by omega
  rw [pwrReg]
  dsimp only
  rw [hdiv]
  repeat rw [if_neg (by omega)]
  rw [if_pos (by omega)]

theorem pwrReg_domHold : pwrReg s (0x240 + 4 * d) = if d < dies s then W (s.pwr.domHold.get (fun _ => 0) d) else 0 := by
  have hdiv : (0x240 + 4 * d - 0x240) / 4 = d := by omega
  rw [pwrReg]
  dsimp only
  rw [hdiv]
  repeat rw [if_neg (by omega)]
  rw [if_pos (by omega)]

end

theorem bitOf_domState {s : State} (hrun : inReset s = false) {d : Nat} (hd : d < 8) (req : Requester) (i : Nat) :
    bitOf (readReg s req (ploc 4 (0x200 + 4 * d)) 4) i =
      (decide (d < dies s) && decide (i < 16) && s.pwr.domUp.contains (16 * d + i)) := by
  rw [readReg_pwr hrun req (by omega) (by omega) (by omega), pwrReg_domState hd]
  by_cases hdie : d < dies s
  · rw [if_pos hdie, bitOf_W, testBit_packW_range 16 fun i => s.pwr.domUp.contains (16 * d + i)]
    by_cases hi : i < 16
    · simp [hdie, hi, show i < 32 by omega]
    · simp [hi]
  · rw [if_neg hdie]
    simp [hdie, bitOf]

theorem readReg_domHold {s : State} (hrun : inReset s = false) {d : Nat} (hd : d < 8) (req : Requester) :
    readReg s req (ploc 4 (0x240 + 4 * d)) 4 = if d < dies s then W (s.pwr.domHold.get (fun _ => 0) d) else 0 := by
  rw [readReg_pwr hrun req (by omega) (by omega) (by omega), pwrReg_domHold hd]

/-- Of a hold bits 0 to 5 take effect (R104). -/
theorem bitOf_hold (v : Word) (i : Nat) : bitOf (W (v.toNat % 2 ^ 6)) i = (decide (i < 6) && bitOf v i) := by
  rw [bitOf_W, Nat.testBit_mod_two_pow]
  by_cases hi : i < 6
  · simp [hi, show i < 32 by omega, bitOf, BitVec.getLsbD]
  · simp [hi]

/-- What a hold powers up is one of domains 0 to 5. -/
theorem not_mem_powerNeeded {s : State} {d i : Nat} (hlo : 6 ≤ i) (hhi : i < 16) (h : 16 * d + i ∉ s.pwr.domRising) :
    16 * d + i ∉ (powerNeeded s).pwr.domRising := by
  rintro hx
  obtain hx | hx := (mem_foldl_add ..).mp hx
  · obtain ⟨d', j, -, hj, -, -, heq⟩ := (mem_domainsDown ..).mp hx
    omega
  · exact h hx

theorem readReg_sleepState {s : State} (hrun : inReset s = false) (req : Requester) : readReg s req (ploc 4 0x124) 4 =
    W (dieBits s.pwr.entering * 2 ^ 16 + dieBits s.pwr.waking * 2 ^ 8 + dieBits s.pwr.asleep) :=
  readReg_pwr hrun req (by decide) (by decide) (by decide)

/-- Three bytes: asleep, waking, entering (R106). -/
theorem bitOf_sleepBytes (a w e : NSet) (i : Nat) : bitOf (W (dieBits e * 2 ^ 16 + dieBits w * 2 ^ 8 + dieBits a)) i =
    if i < 8 then a.contains i else if i < 16 then w.contains (i - 8) else if i < 24 then e.contains (i - 16) else false := by
  have hbytes : dieBits e * 2 ^ 16 + dieBits w * 2 ^ 8 + dieBits a = 2 ^ 8 * (2 ^ 8 * dieBits e + dieBits w) + dieBits a := by ring
  rw [bitOf_W, hbytes, Nat.testBit_two_pow_mul_add _ (dieBits_lt a), Nat.testBit_two_pow_mul_add _ (dieBits_lt w)]
  simp only [testBit_dieBits]
  by_cases h8 : i < 8
  · simp [h8, show i < 32 by omega]
  by_cases h16 : i < 16
  · simp [h8, h16, show i < 32 by omega, show i - 8 < 8 by omega]
  by_cases h24 : i < 24
  · simp [h8, h16, h24, show i < 32 by omega, show ¬ i - 8 < 8 by omega, show i - 16 < 8 by omega, Nat.sub_sub]
  · simp [h8, h16, h24, show ¬ i - 8 < 8 by omega, show ¬ i - 16 < 8 by omega, Nat.sub_sub]

/-- A write of the sleep state is discarded (R106), decoded or not. -/
theorem exec_registerWrite_sleepState {s : State} (hrun : inReset s = false) (req : Requester) (v : BitVec 64) :
    exec (.registerWrite req (ploc 4 0x124) 4 v) s = .next s := by
  cases hdec : decoded req s with
  | true =>
    rw [exec_registerWrite_block hrun hdec (pageExists_pwr s) (by decide) (by decide) (by decide) (by decide)]
    rfl
  | false =>
    change Host.Outcome.next (whenUp s (guard' (decoded req s) _)) = _
    rw [hdec, whenUp_of_running hrun]
    rfl

/-- Settles O19: each register is read bit by bit; a hold is masked to six bits as it is written. -/
theorem domainRegistersRead : Obligations.DomainRegistersRead := by
  unfold Obligations.DomainRegistersRead
  refine ⟨⟨fun req d hd => ?_, fun s d hrun hd => ⟨bitOf_domState hrun hd, fun habs => ⟨fun req => ?_, fun v => ?_⟩, fun v hdie =>
    ⟨_, exec_domainHoldWrite_of_running hrun hdie v, fun req i => ?_, fun i hi hv => ?_, fun i hlo hhi h => ?_⟩⟩⟩,
    fun req => ?_, fun s hrun => ⟨fun req i => ?_, fun req v => exec_registerWrite_sleepState hrun req v⟩⟩
  · rw [readReg_domHold rfl hd]
    exact ite_self _
  · rw [readReg_domHold hrun hd, if_neg (by omega)]
  · exact if_neg (by omega)
  · have hheld : (powerNeeded (holdSet d v s)).pwr.domHold.get (fun _ => 0) d = v.toNat % 2 ^ 6 :=
      (domHold_powerNeeded_holdSet d d v s).trans (if_pos rfl)
    rw [readReg_domHold (s := powerNeeded (holdSet d v s)) hrun hd, hheld, if_pos (show d < dies (powerNeeded (holdSet d v s)) from hdie),
      bitOf_hold]
  · exact mem_powerNeeded_of_held (s := s) (v := v) hdie hi hv
  · exact not_mem_powerNeeded (s := holdSet d v s) hlo hhi h
  · exact readReg_sleepState rfl req
  · rw [readReg_sleepState hrun, bitOf_sleepBytes]

end Sys2Proof.Laws
end

section
/-! The DRAM aperture (R90, R295, R296, R463–R466): what each word of an access does to memory, and what the access leaves alone. -/

namespace Sys2Proof.Laws

open Sys2Proof Sys2Proof.Machine

/-! ## What an access leaves alone -/

/-- Memory, the codes of its words, pages and counters may change, and no counter of page `HOST`. -/
structure AperKept (s t : State) : Prop where
  frame : t = { s with pages := t.pages, ctrs := t.ctrs, dram := t.dram, poison := t.poison, broken := t.broken, soft := t.soft
                       ic := t.ic }
  counts : ∀ n, n < 128 → counter t 1 n = counter s 1 n

theorem AperKept.refl (s : State) : AperKept s s := ⟨rfl, fun _ _ => rfl⟩

theorem AperKept.trans {s t u : State} (h : AperKept s t) (g : AperKept t u) : AperKept s u := by
  refine ⟨?_, fun n hn => (g.counts n hn).trans (h.counts n hn)⟩
  exact g.frame.trans (congrArg (fun x : State => { x with pages := u.pages, ctrs := u.ctrs, dram := u.dram, poison := u.poison
                                                           broken := u.broken, soft := u.soft, ic := u.ic }) h.frame)

theorem AperKept.ite {s a b : State} {c : Prop} [Decidable c] (ha : AperKept s a) (hb : AperKept s b) :
    AperKept s (if c then a else b) := by
  split
  · exact ha
  · exact hb

theorem AperKept.foldl {α : Type} {f : State → α → State} (h : ∀ s a, AperKept s (f s a)) (l : List α) (s : State) :
    AperKept s (l.foldl f s) := by
  induction l generalizing s with
  | nil => exact .refl _
  | cons a l ih => exact (h s a).trans (ih (f s a))

theorem AperKept.wiped {s t : State} (h : AperKept s t) (d a : Nat) : wiped t d a = wiped s d a := by
  rw [h.frame]
  rfl

section
variable (s : State)

theorem aperKept_raiseBit (k i : Nat) : AperKept s (raiseBit k i s) := by
  rw [raiseBit_frame]
  exact ⟨rfl, fun _ _ => rfl⟩

theorem aperKept_bump {k : Nat} (hk : 1 < k) (n x : Nat) : AperKept s (bump k n x s) :=
  ⟨rfl, fun m hm => by rw [counter_bump, if_neg (by omega)]⟩

theorem one_lt_pgMc (d : Nat) : 1 < pgMc d := Nat.lt_add_left _ (by decide)

theorem aperKept_eccCorrect (d : Nat) : AperKept s (eccCorrect d s) :=
  (aperKept_raiseBit ..).trans (aperKept_bump _ (one_lt_pgMc d) ..)

theorem aperKept_countRead (d w : Nat) : AperKept s (countRead d w s) := aperKept_bump s (one_lt_pgMc d) ..

theorem aperKept_wipeAccess (d : Nat) (ws : List Nat) : AperKept s (wipeAccess d ws s) :=
  .ite (.refl s) ((aperKept_raiseBit ..).trans (aperKept_bump _ (by decide) ..))

theorem aperKept_storeWord (d w : Nat) (whole : Bool) (e : EccEvent) : AperKept s (storeWord d w whole e s) := by
  unfold storeWord
  extract_lets bad fix met fixed counted
  have hmet : AperKept s met := .ite (.refl s) (aperKept_countRead ..)
  have hfixed : AperKept s fixed := .ite (hmet.trans (aperKept_eccCorrect ..)) hmet
  exact (hfixed.trans (aperKept_bump fixed (one_lt_pgMc d) ..)).trans ⟨rfl, fun _ _ => rfl⟩

theorem aperKept_dramSet (d a : Nat) (b : Byte) : AperKept s (dramSet d a b s) := ⟨rfl, fun _ _ => rfl⟩

end

theorem aperKept_aperWriteWord (d w : Nat) (l : List (Nat × Byte)) (e : EccEvent) (s : State) : AperKept s (aperWriteWord d w l e s) := by
  have hbytes : AperKept s (l.foldl (fun s x => dramSet d x.1 x.2 s) s) := .foldl (fun s x => aperKept_dramSet s d x.1 x.2) l s
  exact .ite (.refl s) (hbytes.trans (aperKept_storeWord ..))

theorem aperKept_aperWriteWords (d a : Nat) (bs : List (Option Byte)) (ws : List Nat) (e : EccEvent) (s : State) :
    AperKept s (aperWriteWords d a bs ws e s) := by
  induction ws generalizing e s with
  | nil => exact .refl s
  | cons w ws ih => exact (aperKept_aperWriteWord ..).trans (ih ..)

/-! ## The bytes that a write carries -/

/-- What a write of `bs` at usable address `a` carries for address `b`. -/
def carried (a : Nat) (bs : List (Option Byte)) (b : Nat) : Option Byte := if b < a then none else bs.getD (b - a) none

theorem wordBytes_eq (a : Nat) (bs : List (Option Byte)) (w : Nat) :
    wordBytes a bs w = (List.range 32).filterMap fun i => (carried a bs (32 * w + i)).map fun v => (32 * w + i, v) := by
  refine congrArg (fun f => List.filterMap f (List.range 32)) (funext fun i => ?_)
  dsimp only
  rw [carried]
  split
  · rfl
  · cases bs.getD (32 * w + i - a) none <;> rfl

theorem mem_wordBytes {a : Nat} {bs : List (Option Byte)} {w b : Nat} {v : Byte} :
    (b, v) ∈ wordBytes a bs w ↔ b / 32 = w ∧ carried a bs b = some v := by
  rw [wordBytes_eq]
  simp only [List.mem_filterMap, List.mem_range, Option.map_eq_some_iff, Prod.mk.injEq]
  constructor
  · rintro ⟨i, hi, u, hu, rfl, rfl⟩
    exact ⟨by omega, hu⟩
  · rintro ⟨rfl, hv⟩
    exact ⟨b % 32, by omega, v, by rwa [Nat.div_add_mod], Nat.div_add_mod .., rfl⟩

theorem carried_eq_none {a : Nat} {bs : List (Option Byte)} {b : Nat} (h : b < a ∨ a + bs.length ≤ b) : carried a bs b = none := by
  rw [carried]
  split
  · rfl
  · exact List.getD_eq_default _ _ (by omega)

theorem carried_isSome {a : Nat} {bs : List (Option Byte)} (hall : bs.all Option.isSome = true) {b : Nat} (hlo : a ≤ b)
    (hhi : b < a + bs.length) : (carried a bs b).isSome = true := by
  rw [carried, if_neg (by omega), List.getD_eq_getElem _ _ (by omega)]
  exact List.all_eq_true.mp hall _ (List.getElem_mem _)

theorem lt_of_carried {a : Nat} {bs : List (Option Byte)} {b : Nat} {v : Byte} (h : carried a bs b = some v) : a ≤ b ∧ b < a + bs.length := by
  by_contra hout
  rw [carried_eq_none (by omega)] at h
  cases h

/-- The write carries the whole word if it carries each of its bytes. -/
theorem length_wordBytes_eq (a : Nat) (bs : List (Option Byte)) (w : Nat) :
    (wordBytes a bs w).length = 32 ↔ ∀ i, i < 32 → (carried a bs (32 * w + i)).isSome = true := by
  rw [wordBytes_eq, List.length_filterMap_eq_countP]
  refine (List.countP_eq_length (l := List.range 32)).trans ?_
  simp

/-! ## What a write does to memory -/

theorem memKey_inj {d e a b : Nat} (ha : a < 2 ^ 34) (hb : b < 2 ^ 34) : memKey e b = memKey d a ↔ e = d ∧ b = a := by
  unfold memKey
  omega

/-- Bytes written one by one, each the one that `g` names for its address. -/
theorem dramGet_foldl_dramSet {d : Nat} {g : Nat → Option Byte} {l : List (Nat × Byte)} (hl : ∀ p ∈ l, g p.1 = some p.2 ∧ p.1 < 2 ^ 34)
    {b : Nat} (hb : b < 2 ^ 34) (e : Nat) (s : State) : dramGet (l.foldl (fun s x => dramSet d x.1 x.2 s) s) e b =
      if e = d ∧ ∃ v, (b, v) ∈ l then (g b).getD (dramGet s e b) else dramGet s e b := by
  induction l generalizing s with
  | nil => simp
  | cons p l ih =>
    obtain ⟨⟨hg, hp⟩, hrest⟩ := List.forall_mem_cons.mp hl
    rw [List.foldl_cons, ih hrest, dramGet_dramSet, if_congr (memKey_inj hp hb) rfl rfl]
    by_cases hhere : e = d ∧ b = p.1
    · obtain ⟨rfl, rfl⟩ := hhere
      rw [if_pos (show e = e ∧ p.1 = p.1 from ⟨rfl, rfl⟩),
        if_pos (show e = e ∧ ∃ v, (p.1, v) ∈ p :: l from ⟨rfl, p.2, List.mem_cons_self ..⟩), hg]
      exact ite_self _
    · have hmem : (e = d ∧ ∃ v, (b, v) ∈ p :: l) ↔ (e = d ∧ ∃ v, (b, v) ∈ l) := by
        refine and_congr_right fun hd => exists_congr fun v => ?_
        rw [List.mem_cons]
        exact or_iff_right fun h => hhere ⟨hd, congrArg Prod.fst h⟩
      rw [if_neg hhere, if_congr hmem rfl rfl]

theorem dram_storeWord (d w : Nat) (whole : Bool) (e : EccEvent) (s : State) : (storeWord d w whole e s).dram = s.dram :=
  congrArg (fun x => x.2.2.2.1) (steady_storeWord d w whole e s)

theorem dram_wipeAccess (d : Nat) (ws : List Nat) (s : State) : (wipeAccess d ws s).dram = s.dram := by
  unfold wipeAccess
  split
  · rfl
  · rw [raiseBit_frame]
    rfl

section
variable {a : Nat} {bs : List (Option Byte)} (hend : a + bs.length ≤ 2 ^ 34) {d b : Nat} (hb : b < 2 ^ 34)
include hend hb

theorem dramGet_foldl_wordBytes (w f : Nat) (s : State) :
    dramGet ((wordBytes a bs w).foldl (fun s x => dramSet d x.1 x.2 s) s) f b =
      if f = d ∧ b / 32 = w then (carried a bs b).getD (dramGet s f b) else dramGet s f b := by
  have hbytes : ∀ p ∈ wordBytes a bs w, carried a bs p.1 = some p.2 ∧ p.1 < 2 ^ 34 := fun p hp => by
    have hcar := (mem_wordBytes.mp hp).2
    exact ⟨hcar, (lt_of_carried hcar).2.trans_le hend⟩
  rw [dramGet_foldl_dramSet hbytes hb]
  simp only [mem_wordBytes, exists_and_left]
  cases hcar : carried a bs b with
  | none => simp
  | some v => simp

/-- A word's part of a write. -/
theorem dramGet_aperWriteWord (w : Nat) (e : EccEvent) (f : Nat) (s : State) :
    dramGet (aperWriteWord d w (wordBytes a bs w) e s) f b =
      if f = d ∧ b / 32 = w ∧ wiped s d b = true then (carried a bs b).getD (dramGet s f b) else dramGet s f b := by
  have hbytes := dramGet_foldl_wordBytes hend (d := d) hb w f s
  have hgranule : b / 32 = w → wiped s d (32 * w) = wiped s d b := fun h => by
    rw [wiped, wiped, show 32 * w / 2 ^ 28 = b / 2 ^ 28 by omega]
  cases hwiped : wiped s d (32 * w) with
  | false =>
    have hout : ¬ (f = d ∧ b / 32 = w ∧ wiped s d b = true) := by
      rintro ⟨-, hw, hb⟩
      rw [hgranule hw, hb] at hwiped
      cases hwiped
    rw [aperWriteWord, if_pos (.inr hwiped), if_neg hout]
  | true =>
    have hin : (f = d ∧ b / 32 = w ∧ wiped s d b = true) ↔ (f = d ∧ b / 32 = w) :=
      and_congr_right fun _ => and_iff_left_of_imp fun hw => (hgranule hw).symm.trans hwiped
    rw [if_congr hin rfl rfl, ← hbytes, aperWriteWord]
    split
    · next hskip => rw [hskip.resolve_right (by simp [hwiped]), List.foldl_nil]
    · rw [dramGet, dram_storeWord]
      rfl

theorem dramGet_aperWriteWords (ws : List Nat) (e : EccEvent) (f : Nat) (s : State) :
    dramGet (aperWriteWords d a bs ws e s) f b =
      if f = d ∧ b / 32 ∈ ws ∧ wiped s d b = true then (carried a bs b).getD (dramGet s f b) else dramGet s f b := by
  induction ws generalizing e s with
  | nil => simp [aperWriteWords]
  | cons w ws ih =>
    rw [aperWriteWords, ih, (aperKept_aperWriteWord ..).wiped, dramGet_aperWriteWord hend hb]
    cases carried a bs b with
    | none => simp
    | some v =>
      simp only [Option.getD_some, List.mem_cons]
      split_ifs <;> tauto

end

theorem mem_wordsOf {a n w : Nat} : w ∈ Machine.wordsOf a n ↔ 0 < n ∧ a / 32 ≤ w ∧ w ≤ (a + n - 1) / 32 := by
  unfold Machine.wordsOf
  split
  · simp; omega
  · rw [List.mem_range'_1]
    omega

/-- An access within one word. -/
theorem wordsOf_eq_singleton {a n : Nat} (hn : 0 < n) (h : a / 32 = (a + n - 1) / 32) : Machine.wordsOf a n = [a / 32] := by
  rw [Machine.wordsOf, if_neg (by omega), ← h, Nat.add_sub_cancel_left]
  rfl

section
variable {s : State} {x : Nat} {bs : List (Option Byte)} {e : EccEvent}

theorem dramGet_aperWrite (hend : aperAddr s x + bs.length ≤ 2 ^ 34) {b : Nat} (hb : b < 2 ^ 34) (f : Nat) :
    dramGet (aperWrite x bs e s) f b = if f = s.host.aperDie ∧ aperAddr s x ≤ b ∧ wiped s f b = true
      then (bs.getD (b - aperAddr s x) none).getD (dramGet s f b) else dramGet s f b := by
  have hwords := dramGet_aperWriteWords hend hb (d := s.host.aperDie) (Machine.wordsOf (aperAddr s x) bs.length) e f
    (wipeAccess s.host.aperDie ((Machine.wordsOf (aperAddr s x) bs.length).filter fun w => !(wordBytes (aperAddr s x) bs w).isEmpty) s)
  rw [(aperKept_wipeAccess ..).wiped, dramGet, dramGet, dram_wipeAccess] at hwords
  refine hwords.trans ?_
  by_cases hin : aperAddr s x ≤ b ∧ b < aperAddr s x + bs.length
  · have hcar : carried (aperAddr s x) bs b = bs.getD (b - aperAddr s x) none := if_neg (by omega)
    rw [hcar]
    refine if_congr (and_congr_right fun hf => ?_) rfl rfl
    rw [hf]
    exact and_congr_left fun _ => iff_of_true (mem_wordsOf.mpr (by omega)) hin.1
  · rw [carried_eq_none (by omega), Option.getD_none, ite_self]
    split
    · next h => rw [List.getD_eq_default _ _ (by omega)]; rfl
    · rfl

theorem aperKept_aperWrite_words (s : State) (d a : Nat) (bs : List (Option Byte)) (ws us : List Nat) (e : EccEvent) :
    AperKept s (aperWriteWords d a bs ws e (wipeAccess d us s)) :=
  (aperKept_wipeAccess ..).trans (aperKept_aperWriteWords ..)

theorem counted_aperWrite : Counted 1 1 (bs.filter Option.isSome).length s (aperWrite x bs e s) := by
  rw [Counted, aperWrite, counter_bump, if_pos rfl, (aperKept_aperWrite_words ..).counts 1 (by decide)]

theorem frame_aperWrite : aperWrite x bs e s = { s with
    pages := (aperWrite x bs e s).pages, ctrs := (aperWrite x bs e s).ctrs, dram := (aperWrite x bs e s).dram
    poison := (aperWrite x bs e s).poison, broken := (aperWrite x bs e s).broken, soft := (aperWrite x bs e s).soft
    ic := (aperWrite x bs e s).ic } := by
  rw [aperWrite]
  exact congrArg (bump 1 1 _) (aperKept_aperWrite_words ..).frame

/-! ## The code of a word written -/

theorem wordBad_foldl_dramSet (d f w : Nat) (l : List (Nat × Byte)) (s : State) :
    wordBad (l.foldl (fun s x => dramSet d x.1 x.2 s) s) f w = wordBad s f w := by
  induction l generalizing s with
  | nil => rfl
  | cons p l ih => exact ih (dramSet d p.1 p.2 s)

theorem wordBad_wipeAccess (d f w : Nat) (ws : List Nat) (s : State) : wordBad (wipeAccess d ws s) f w = wordBad s f w := by
  unfold wipeAccess
  split
  · rfl
  · rw [raiseBit_frame]
    rfl

theorem poisoned_bump (k n x d w : Nat) (s : State) : poisoned (bump k n x s) d w = poisoned s d w := rfl

theorem wordBad_bump (k n x d w : Nat) (s : State) : wordBad (bump k n x s) d w = wordBad s d w := rfl

/-- A whole word takes a new code (R295). -/
theorem wordBad_storeWord_whole (d w : Nat) (e : EccEvent) (s : State) : wordBad (storeWord d w true e s) d w = false := by
  simp [wordBad, poisoned, storeWord, mem_NSet_del]

/-- A part of a word that is uncorrectable leaves it poisoned (R295). -/
theorem poisoned_storeWord_part {d w : Nat} {e : EccEvent} {s : State} (h : wordBad s d w = true ∨ e = .double) :
    poisoned (storeWord d w false e s) d w = true := by
  have hbad : (!false && (wordBad s d w || decide (e = .double))) = true := by simpa using h
  unfold storeWord
  simp only [hbad, if_true, poisoned, List.contains_eq_mem, decide_eq_true_eq, mem_NSet_add, true_or]

/-- A write within one word of a wiped granule. -/
theorem aperWrite_of_one {w : Nat} (hlen : 0 < bs.length) (hlo : aperAddr s x / 32 = w) (hhi : (aperAddr s x + bs.length - 1) / 32 = w)
    (hbytes : wordBytes (aperAddr s x) bs w ≠ []) (hwiped : wiped s s.host.aperDie (aperAddr s x) = true) :
    ∃ u, (∀ f v, wordBad u f v = wordBad s f v) ∧ aperWrite x bs e s = bump 1 1 (bs.filter Option.isSome).length
      (storeWord s.host.aperDie w (decide ((wordBytes (aperAddr s x) bs w).length = 32)) e u) := by
  refine ⟨(wordBytes (aperAddr s x) bs w).foldl (fun t p => dramSet s.host.aperDie p.1 p.2 t)
    (wipeAccess s.host.aperDie ([w].filter fun v => !(wordBytes (aperAddr s x) bs v).isEmpty) s),
    fun f v => (wordBad_foldl_dramSet ..).trans (wordBad_wipeAccess ..), congrArg (bump 1 1 _) ?_⟩
  rw [wordsOf_eq_singleton hlen (hlo.trans hhi.symm), hlo]
  have hgranule : wiped s s.host.aperDie (32 * w) = true := by
    rwa [wiped, show 32 * w / 2 ^ 28 = aperAddr s x / 2 ^ 28 by omega]
  refine if_neg ?_
  rw [(aperKept_wipeAccess ..).wiped, hgranule]
  simp [hbytes]

theorem aperWrite_whole (halign : aperAddr s x % 32 = 0) (hlen : bs.length = 32) (hall : bs.all Option.isSome = true)
    (hwiped : wiped s s.host.aperDie (aperAddr s x) = true) :
    wordBad (aperWrite x bs e s) s.host.aperDie (aperAddr s x / 32) = false := by
  have hfull : (wordBytes (aperAddr s x) bs (aperAddr s x / 32)).length = 32 :=
    (length_wordBytes_eq ..).mpr fun i hi => carried_isSome hall (by omega) (by omega)
  have hsome : wordBytes (aperAddr s x) bs (aperAddr s x / 32) ≠ [] := fun h => by simp [h] at hfull
  obtain ⟨u, -, hu⟩ := aperWrite_of_one (e := e) (by omega) rfl (by omega) hsome hwiped
  rw [hu, hfull, wordBad_bump]
  exact wordBad_storeWord_whole ..

theorem aperWrite_part (hne : bs ≠ []) (hall : bs.all Option.isSome = true) (hlen : bs.length < 32)
    (hone : aperAddr s x / 32 = (aperAddr s x + bs.length - 1) / 32) (hwiped : wiped s s.host.aperDie (aperAddr s x) = true)
    (hbad : wordBad s s.host.aperDie (aperAddr s x / 32) = true ∨ e = .double) :
    poisoned (aperWrite x bs e s) s.host.aperDie (aperAddr s x / 32) = true := by
  have hpos : 0 < bs.length := List.length_pos_iff.mpr hne
  have hpart : (wordBytes (aperAddr s x) bs (aperAddr s x / 32)).length ≠ 32 := fun hfull => by
    have hcar := (length_wordBytes_eq ..).mp hfull
    obtain ⟨v, hv⟩ := Option.isSome_iff_exists.mp (hcar 0 (by decide))
    obtain ⟨u, hu⟩ := Option.isSome_iff_exists.mp (hcar 31 (by decide))
    have := lt_of_carried hv
    have := lt_of_carried hu
    omega
  have hsome : wordBytes (aperAddr s x) bs (aperAddr s x / 32) ≠ [] := by
    obtain ⟨v, hv⟩ := Option.isSome_iff_exists.mp (carried_isSome hall le_rfl (Nat.lt_add_of_pos_right hpos))
    exact List.ne_nil_of_mem (mem_wordBytes.mpr ⟨rfl, hv⟩)
  obtain ⟨u, hkept, hu⟩ := aperWrite_of_one (e := e) hpos rfl hone.symm hsome hwiped
  rw [hu, decide_eq_false hpart, poisoned_bump]
  exact poisoned_storeWord_part (by rwa [hkept])

end

end Sys2Proof.Laws
end

section
/-! Reads through the aperture, and `HOST_APER` (R90, R296, R460, R463–R466). -/

namespace Sys2Proof.Laws

open Sys2Proof Sys2Proof.Machine

/-! ## Sound words -/

/-- A read changes no byte of memory and no word's soundness. -/
structure ReadKept (s t : State) : Prop extends AperKept s t where
  dram : t.dram = s.dram
  poison : t.poison = s.poison
  broken : t.broken = s.broken

theorem ReadKept.refl (s : State) : ReadKept s s := ⟨.refl s, rfl, rfl, rfl⟩

theorem ReadKept.trans {s t u : State} (h : ReadKept s t) (g : ReadKept t u) : ReadKept s u :=
  ⟨h.toAperKept.trans g.toAperKept, g.dram.trans h.dram, g.poison.trans h.poison, g.broken.trans h.broken⟩

theorem ReadKept.wordBad {s t : State} (h : ReadKept s t) (d w : Nat) : wordBad t d w = wordBad s d w := by
  rw [Machine.wordBad, Machine.wordBad, poisoned, poisoned, h.poison, h.broken]

theorem ReadKept.reading {s t : State} (h : ReadKept s t) :
    t = { s with pages := t.pages, ctrs := t.ctrs, soft := t.soft, ic := t.ic } := by
  have hframe := h.frame
  rw [h.dram, h.poison, h.broken] at hframe
  exact hframe

theorem readKept_countRead (d w : Nat) (s : State) : ReadKept s (countRead d w s) := ⟨aperKept_countRead .., rfl, rfl, rfl⟩

theorem readKept_raiseBit (k i : Nat) (s : State) : ReadKept s (raiseBit k i s) := by
  rw [raiseBit_frame]
  exact ⟨⟨rfl, fun _ _ => rfl⟩, rfl, rfl, rfl⟩

theorem readKept_eccCorrect (d : Nat) (s : State) : ReadKept s (eccCorrect d s) :=
  (readKept_raiseBit ..).trans ⟨aperKept_bump _ (one_lt_pgMc d) .., rfl, rfl, rfl⟩

theorem readKept_meetSoft (d w : Nat) (s : State) : ReadKept s (meetSoft d w s) := by
  have hmet : ReadKept s { s with soft := NSet.add s.soft (wordKey d w) } := ⟨⟨rfl, fun _ _ => rfl⟩, rfl, rfl, rfl⟩
  exact hmet.trans (readKept_eccCorrect ..)

/-- A read of a word that is sound: a single-bit error is corrected. -/
def cleanRead (d w : Nat) (s : State) : State := if wordSoft s d w then meetSoft d w (countRead d w s) else countRead d w s

theorem readKept_cleanRead (d w : Nat) (s : State) : ReadKept s (cleanRead d w s) := by
  unfold cleanRead
  split
  · exact (readKept_countRead ..).trans (readKept_meetSoft ..)
  · exact readKept_countRead ..

theorem readKept_foldl_cleanRead (d : Nat) (ws : List Nat) (s : State) : ReadKept s (ws.foldl (fun s w => cleanRead d w s) s) := by
  induction ws generalizing s with
  | nil => exact .refl s
  | cons w ws ih => exact (readKept_cleanRead ..).trans (ih _)

theorem aperReadWord_of_sound {d w : Nat} {s : State} (hwiped : wiped s d (32 * w) = true) (hbad : wordBad s d w = false) :
    aperReadWord d w .clean s = (false, cleanRead d w s) := by
  have hcounted : wordBad (countRead d w s) d w = false := hbad
  have hsoft : wordSoft (countRead d w s) d w = wordSoft s d w := rfl
  simp [aperReadWord, cleanRead, hwiped, hcounted, hsoft]

theorem aperReadWords_of_sound {d : Nat} {ws : List Nat} {s : State}
    (h : ∀ w ∈ ws, wiped s d (32 * w) = true ∧ wordBad s d w = false) :
    aperReadWords d ws .clean s = ([], ws.foldl (fun s w => cleanRead d w s) s) := by
  induction ws generalizing s with
  | nil => rfl
  | cons w ws ih =>
    obtain ⟨⟨hwiped, hbad⟩, hrest⟩ := List.forall_mem_cons.mp h
    have hkept := readKept_cleanRead d w s
    have hnext := ih (s := cleanRead d w s) fun v hv => by
      rw [hkept.wiped, hkept.wordBad]
      exact hrest v hv
    rw [aperReadWords, aperReadWord_of_sound hwiped hbad]
    dsimp only
    rw [hnext]
    rfl

/-- Words without a single-bit error: the reads are counted and no more. -/
theorem foldl_cleanRead_of_hard {d : Nat} {ws : List Nat} {s : State} (h : ∀ w ∈ ws, wordSoft s d w = false) :
    ws.foldl (fun s w => cleanRead d w s) s = { s with ctrs := (ws.foldl (fun s w => cleanRead d w s) s).ctrs } := by
  induction ws generalizing s with
  | nil => rfl
  | cons w ws ih =>
    obtain ⟨hw, hrest⟩ := List.forall_mem_cons.mp h
    have hread : cleanRead d w s = countRead d w s := if_neg (by simp [hw])
    rw [List.foldl_cons, hread]
    exact ih (s := countRead d w s) hrest

theorem wipeAccess_of_wiped {d : Nat} {ws : List Nat} {s : State} (h : ∀ w ∈ ws, wiped s d (32 * w) = true) : wipeAccess d ws s = s :=
  if_pos (List.all_eq_true.mpr h)

/-- Each word of an access holds one of its bytes. -/
theorem exists_byte_of_mem_wordsOf {a n w : Nat} (hw : w ∈ Machine.wordsOf a n) : ∃ b, a ≤ b ∧ b < a + n ∧ b / 32 = w := by
  obtain ⟨hn, hlo, hhi⟩ := mem_wordsOf.mp hw
  exact ⟨max a (32 * w), by omega, by omega, by omega⟩

theorem wiped_congr {s : State} {d a b : Nat} (h : a / 32 = b / 32) : wiped s d a = wiped s d b := by
  rw [wiped, wiped, show a / 2 ^ 28 = b / 2 ^ 28 by omega]

section
variable {s : State} {x n : Nat} {e : EccEvent}

theorem aperRead_of_sound (h : ∀ b, aperAddr s x ≤ b → b < aperAddr s x + n →
      wiped s s.host.aperDie b = true ∧ wordBad s s.host.aperDie (b / 32) = false) :
    aperRead x n .clean s = bump 1 0 n (emit
      (.readBytes ((List.range n).map fun i => dramGet s s.host.aperDie (aperAddr s x + i)))
      ((Machine.wordsOf (aperAddr s x) n).foldl (fun t w => cleanRead s.host.aperDie w t) s)) := by
  have hwords : ∀ w ∈ Machine.wordsOf (aperAddr s x) n,
      wiped s s.host.aperDie (32 * w) = true ∧ wordBad s s.host.aperDie w = false := fun w hw => by
    obtain ⟨b, hlo, hhi, rfl⟩ := exists_byte_of_mem_wordsOf hw
    obtain ⟨hwiped, hbad⟩ := h b hlo hhi
    exact ⟨(wiped_congr (by omega)).trans hwiped, hbad⟩
  have hbytes : ∀ i ∈ List.range n, (if wiped s s.host.aperDie (aperAddr s x + i) = true
      then dramGet s s.host.aperDie (aperAddr s x + i) else 0) = dramGet s s.host.aperDie (aperAddr s x + i) := fun i hi =>
    if_pos (h _ (by omega) (by have := List.mem_range.mp hi; omega)).1
  rw [aperRead, wipeAccess_of_wiped fun w hw => (hwords w hw).1, aperReadWords_of_sound hwords]
  simp only [List.contains_nil, Bool.false_eq_true, if_false]
  rw [List.map_congr_left hbytes]

/-- A read within one word. -/
theorem aperRead_of_one (hn : 0 < n) (hone : aperAddr s x / 32 = (aperAddr s x + n - 1) / 32) {bad : Bool} {t : State}
    (hword : aperReadWord s.host.aperDie (aperAddr s x / 32) e (wipeAccess s.host.aperDie [aperAddr s x / 32] s) = (bad, t)) :
    aperRead x n e s = bump 1 0 n (emit (.readBytes ((List.range n).map fun i =>
      if bad then 0xFF else if wiped s s.host.aperDie (aperAddr s x + i) then dramGet s s.host.aperDie (aperAddr s x + i) else 0)) t) := by
  have hwords : aperReadWords s.host.aperDie [aperAddr s x / 32] e (wipeAccess s.host.aperDie [aperAddr s x / 32] s) =
      (if bad then [aperAddr s x / 32] else [], t) := by
    rw [aperReadWords, hword]
    rfl
  rw [aperRead, wordsOf_eq_singleton hn hone, hwords]
  refine congrArg (fun l => bump 1 0 n (emit (.readBytes l) t)) (List.map_congr_left fun i hi => ?_)
  have hin : (aperAddr s x + i) / 32 = aperAddr s x / 32 := by
    have := List.mem_range.mp hi
    omega
  cases bad <;> simp [hin]

end

/-! ## Words that are uncorrectable -/

/-- What a read that meets an uncorrectable word may change. -/
def FaultRead (s t : State) : Prop :=
  t = { s with pages := t.pages, ctrs := t.ctrs, mcs := t.mcs, broken := t.broken, ic := t.ic }

theorem FaultRead.trans {s t u : State} (h : FaultRead s t) (g : FaultRead t u) : FaultRead s u :=
  Eq.trans g (congrArg (fun x : State =>
    { x with pages := u.pages, ctrs := u.ctrs, mcs := u.mcs, broken := u.broken, ic := u.ic }) h)

theorem faultRead_eccBad (d w who : Nat) (s : State) : FaultRead s (eccBad d w who s) := by
  have hraised : FaultRead s (bump (pgMc d) 1 1 (raiseBit (pgMc d) 6 s)) := by
    rw [raiseBit_frame]
    exact rfl
  refine hraised.trans ?_
  unfold eccBad
  extract_lets t
  split <;> exact rfl

theorem faultRead_leaveBad (d w : Nat) (s : State) : FaultRead s (leaveBad d w s) := by
  unfold leaveBad
  split <;> exact rfl

theorem pages_eccBad (d w who : Nat) (s : State) : (eccBad d w who s).pages = (raiseBit (pgMc d) 6 s).pages := by
  unfold eccBad
  extract_lets t
  split <;> rfl

theorem pages_leaveBad (d w : Nat) (s : State) : (leaveBad d w s).pages = s.pages := by
  unfold leaveBad
  split <;> rfl

theorem ctrs_eccBad (d w who : Nat) (s : State) : (eccBad d w who s).ctrs = (bump (pgMc d) 1 1 s).ctrs := by
  have hraised : (bump (pgMc d) 1 1 (raiseBit (pgMc d) 6 s)).ctrs = (bump (pgMc d) 1 1 s).ctrs := by
    rw [raiseBit_frame]
    rfl
  refine Eq.trans ?_ hraised
  unfold eccBad
  extract_lets t
  split <;> rfl

theorem ctrs_leaveBad (d w : Nat) (s : State) : (leaveBad d w s).ctrs = s.ctrs := by
  unfold leaveBad
  split <;> rfl

theorem wordBad_leaveBad (d w : Nat) (s : State) : wordBad (leaveBad d w s) d w = true := by
  unfold leaveBad
  split
  · next h => simp [wordBad, h]
  · simp [wordBad, mem_NSet_add]

/-- The word read is counted, reported and left as it is (R296). -/
def badRead (d w : Nat) (s : State) : State := leaveBad d w (eccBad d w 0x43 (countRead d w s))

theorem aperReadWord_of_bad {d w : Nat} {e : EccEvent} {s : State} (hwiped : wiped s d (32 * w) = true)
    (hbad : wordBad s d w = true ∨ e = .double) : aperReadWord d w e s = (true, badRead d w s) := by
  have hmet : (wordBad s d w || decide (e = .double)) = true := by simpa using hbad
  rw [aperReadWord, if_neg (by simp [hwiped])]
  exact if_pos hmet

theorem faultRead_badRead (d w : Nat) (s : State) : FaultRead s (badRead d w s) :=
  (FaultRead.trans (t := countRead d w s) rfl (faultRead_eccBad ..)).trans (faultRead_leaveBad ..)

theorem struck_badRead (d w : Nat) (s : State) : Struck (pgMc d) 6 s (badRead d w s) := by
  have hpages : (badRead d w s).pages = (raiseBit (pgMc d) 6 (countRead d w s)).pages := (pages_leaveBad ..).trans (pages_eccBad ..)
  have hpage : page (badRead d w s) (pgMc d) = page (raiseBit (pgMc d) 6 (countRead d w s)) (pgMc d) := by rw [page, page, hpages]
  rw [Struck, hpage]
  exact struck_raiseBit (pgMc d) (by decide) (countRead d w s)

theorem counted_badRead (d w : Nat) (s : State) : Counted (pgMc d) 1 1 s (badRead d w s) := by
  have hctrs : (badRead d w s).ctrs = (bump (pgMc d) 1 1 (countRead d w s)).ctrs := (ctrs_leaveBad ..).trans (ctrs_eccBad ..)
  have hother : counter (countRead d w s) (pgMc d) 1 = counter s (pgMc d) 1 := by rw [countRead, counter_bump, if_neg (by omega)]
  rw [Counted, counter, hctrs]
  refine (counter_bump (pgMc d) 1 1 (pgMc d) 1 (countRead d w s)).trans ?_
  rw [if_pos rfl, hother]

section
variable {s : State} {x n : Nat} {e : EccEvent} (hn : 0 < n) (hone : aperAddr s x / 32 = (aperAddr s x + n - 1) / 32)
include hn hone

theorem aperRead_of_bad (hwiped : wiped s s.host.aperDie (aperAddr s x) = true)
    (hbad : wordBad s s.host.aperDie (aperAddr s x / 32) = true ∨ e = .double) : aperRead x n e s =
      bump 1 0 n (emit (.readBytes (List.replicate n 0xFF)) (badRead s.host.aperDie (aperAddr s x / 32) s)) := by
  have hword : wiped s s.host.aperDie (32 * (aperAddr s x / 32)) = true := (wiped_congr (by omega)).trans hwiped
  have hopen : wipeAccess s.host.aperDie [aperAddr s x / 32] s = s := wipeAccess_of_wiped (by simpa using hword)
  have hread : aperReadWord s.host.aperDie (aperAddr s x / 32) e (wipeAccess s.host.aperDie [aperAddr s x / 32] s) =
      (true, badRead s.host.aperDie (aperAddr s x / 32) s) := by
    rw [hopen]
    exact aperReadWord_of_bad hword hbad
  rw [aperRead_of_one hn hone hread]
  simp only [if_true, List.map_const', List.length_range]

/-- A granule not yet wiped reads as zero, and the access is counted (R90). -/
theorem aperRead_of_unwiped (hwiped : wiped s s.host.aperDie (aperAddr s x) = false) : aperRead x n e s =
    bump 1 0 n (emit (.readBytes (List.replicate n 0)) (bump pgPwr 4 1 (raiseBit pgPwr 1 s))) := by
  have hword : wiped s s.host.aperDie (32 * (aperAddr s x / 32)) = false := (wiped_congr (by omega)).trans hwiped
  have hshut : wipeAccess s.host.aperDie [aperAddr s x / 32] s = bump pgPwr 4 1 (raiseBit pgPwr 1 s) := if_neg (by simp [hword])
  have hnone : aperReadWord s.host.aperDie (aperAddr s x / 32) e (wipeAccess s.host.aperDie [aperAddr s x / 32] s) =
      (false, bump pgPwr 4 1 (raiseBit pgPwr 1 s)) := by
    rw [aperReadWord, (aperKept_wipeAccess ..).wiped, hword, hshut]
    rfl
  have hbytes : ∀ i ∈ List.range n, (if wiped s s.host.aperDie (aperAddr s x + i) = true
      then dramGet s s.host.aperDie (aperAddr s x + i) else 0) = 0 := fun i hi => by
    have := List.mem_range.mp hi
    rw [wiped_congr (b := aperAddr s x) (by omega), hwiped]
    rfl
  rw [aperRead_of_one hn hone hnone]
  simp only [Bool.false_eq_true, if_false]
  rw [List.map_congr_left hbytes, List.map_const', List.length_range]

end

/-! ## The answer -/

section
variable {s u : State} (n : Nat) (l : List Byte)

theorem counted_answer (h : counter u 1 0 = counter s 1 0) : Counted 1 0 n s (bump 1 0 n (emit (.readBytes l) u)) := by
  rw [Counted, counter_bump, if_pos rfl]
  exact congrArg (· + BitVec.ofNat 64 n) h

theorem counted_answer_other {k m : Nat} (hk : 128 * k + m ≠ 128) {i : Nat} (h : Counted k m i s u) :
    Counted k m i s (bump 1 0 n (emit (.readBytes l) u)) := by
  rw [Counted, counter_bump, if_neg hk]
  exact h

theorem ReadKept.answer (h : ReadKept s u) {t : State} (ht : t = bump 1 0 n (emit (.readBytes l) u)) :
    t.out = .readBytes l :: s.out ∧ Counted 1 0 n s t ∧
      t = { s with out := t.out, pages := t.pages, ctrs := t.ctrs, soft := t.soft, ic := t.ic } := by
  have hout : u.out = s.out := by rw [h.reading]
  have hlast : t = { u with out := t.out, pages := t.pages, ctrs := t.ctrs, soft := t.soft, ic := t.ic } := by
    rw [ht]
    rfl
  refine ⟨?_, by rw [ht]; exact counted_answer n l (h.counts 0 (by decide)), hlast.trans ?_⟩
  · rw [ht, ← hout]
    rfl
  · exact congrArg (fun x : State =>
      { x with out := t.out, pages := t.pages, ctrs := t.ctrs, soft := t.soft, ic := t.ic }) h.reading

theorem FaultRead.answer (h : FaultRead s u) {t : State} (ht : t = bump 1 0 n (emit (.readBytes l) u)) :
    t.out = .readBytes l :: s.out ∧
      t = { s with out := t.out, pages := t.pages, ctrs := t.ctrs, mcs := t.mcs, broken := t.broken, ic := t.ic } := by
  have hout : u.out = s.out := by
    rw [h]
  have hlast : t = { u with out := t.out, pages := t.pages, ctrs := t.ctrs, mcs := t.mcs, broken := t.broken, ic := t.ic } := by
    rw [ht]
    rfl
  refine ⟨?_, hlast.trans ?_⟩
  · rw [ht, ← hout]
    rfl
  · exact congrArg (fun x : State =>
      { x with out := t.out, pages := t.pages, ctrs := t.ctrs, mcs := t.mcs, broken := t.broken, ic := t.ic }) h

end

/-! ## The commands -/

theorem guard_of_open {s : State} {x n : Nat} (hopen : hostOpen s = true) (hwin : x + n ≤ 2 ^ 29) (k : State → State) :
    guard' (hostOpen s && inWindow x n) k s = k s := by
  have hin : inWindow x n = true := decide_eq_true hwin
  rw [hopen, hin]
  rfl

theorem guard_of_shut {s : State} {x n : Nat} (h : hostOpen s = false ∨ 2 ^ 29 < x + n) (k : State → State) :
    guard' (hostOpen s && inWindow x n) k s = s := by
  obtain hclosed | hout := h
  · rw [hclosed]
    rfl
  · have hin : inWindow x n = false := decide_eq_false (by omega)
    rw [hin, Bool.and_false]
    rfl

section
variable {s : State} (hrun : inReset s = false)
include hrun

theorem exec_apertureWrite_of_open (hopen : hostOpen s = true) {x : Nat} {bs : List (Option Byte)} (hwin : x + bs.length ≤ 2 ^ 29)
    (e : EccEvent) : exec (.apertureWrite x bs e) s = .next (aperWrite x bs e s) := by
  change Host.Outcome.next (whenUp s (guard' (hostOpen s && inWindow x bs.length) _)) = _
  rw [whenUp_of_running hrun, guard_of_open hopen hwin]

theorem exec_apertureWrite_of_shut {x : Nat} {bs : List (Option Byte)} (h : hostOpen s = false ∨ 2 ^ 29 < x + bs.length)
    (e : EccEvent) : exec (.apertureWrite x bs e) s = .next s := by
  change Host.Outcome.next (whenUp s (guard' (hostOpen s && inWindow x bs.length) _)) = _
  rw [whenUp_of_running hrun, guard_of_shut h]

theorem exec_apertureRead_of_open (hopen : hostOpen s = true) {x n : Nat} (hwin : x + n ≤ 2 ^ 29) (e : EccEvent) :
    exec (.apertureRead x n e) s = .next (aperRead x n e s) := by
  change Host.Outcome.next (whenUp s (guard' (hostOpen s && inWindow x n) _)) = _
  rw [whenUp_of_running hrun, guard_of_open hopen hwin]

theorem exec_apertureRead_of_shut {x n : Nat} (h : hostOpen s = false ∨ 2 ^ 29 < x + n) (e : EccEvent) :
    exec (.apertureRead x n e) s = .next s := by
  change Host.Outcome.next (whenUp s (guard' (hostOpen s && inWindow x n) _)) = _
  rw [whenUp_of_running hrun, guard_of_shut h]

theorem exec_hostAperWrite_of_d0 (h : s.host.d3hot = false) (v : Word) : exec (.hostAperWrite v) s = .next (aperPlace v s) := by
  change Host.Outcome.next (whenUp s (guard' (decoded .host s) _)) = _
  rw [whenUp_of_running hrun, guard', if_pos (by simp [decoded, h])]

theorem exec_hostAperWrite_of_d3hot (h : s.host.d3hot = true) (v : Word) : exec (.hostAperWrite v) s = .next s := by
  change Host.Outcome.next (whenUp s (guard' (decoded .host s) _)) = _
  rw [whenUp_of_running hrun, guard', if_neg (by simp [decoded, h])]

end

/-! ## The placement (R466) -/

section
variable {s : State} {v : Word}

theorem aperPlace_of_held (hdie : fld v 31 29 < dies s) (hasleep : fld v 31 29 ∉ s.pwr.asleep) (hentering : fld v 31 29 ∉ s.pwr.entering)
    (hwaking : fld v 31 29 ∉ s.pwr.waking) (hbase : fld v 13 0 ≤ 14848) :
    aperPlace v s = { s with host := { s.host with aperDie := fld v 31 29, aperBase := fld v 13 0 } } :=
  if_neg (by simp [hdie, hasleep, hentering, hwaking, hbase])

theorem aperPlace_of_refused (h : dies s ≤ fld v 31 29 ∨ fld v 31 29 ∈ s.pwr.asleep ∨ fld v 31 29 ∈ s.pwr.entering ∨
    fld v 31 29 ∈ s.pwr.waking ∨ 14848 < fld v 13 0) : aperPlace v s = raiseBit pgHost 1 s :=
  if_pos (by simpa [or_assoc] using h)

end

/-- Settles O34: an access is taken word by word; the bytes of a write are those that it carries for a wiped granule, and a read
within one word meets it sound, uncorrectable or not yet wiped. -/
theorem apertureReadsAndWrites : Obligations.ApertureReadsAndWrites := by
  unfold Obligations.ApertureReadsAndWrites
  refine ⟨fun x bs e s hrun _ hend => ⟨fun hopen hwin => ⟨_, exec_apertureWrite_of_open hrun hopen hwin e,
      fun d b _ hb => dramGet_aperWrite hend hb d, counted_aperWrite, frame_aperWrite⟩,
    fun hopen hwin halign hlen hall hwiped =>
      ⟨_, exec_apertureWrite_of_open hrun hopen hwin e, aperWrite_whole halign hlen hall hwiped⟩,
    fun hopen hwin hne hall hlen hone hwiped hbad =>
      ⟨_, exec_apertureWrite_of_open hrun hopen hwin e, aperWrite_part hne hall hlen hone hwiped hbad⟩,
    fun h => exec_apertureWrite_of_shut hrun h e⟩,
    fun s hrun => ⟨fun x n hopen hwin hn hsound => ⟨_, exec_apertureRead_of_open hrun hopen hwin .clean, ?_⟩,
      fun x n e hopen hwin hn hone hwiped hbad => ⟨_, exec_apertureRead_of_open hrun hopen hwin e, ?_⟩,
      fun x n e hopen hwin hn hone hwiped => ⟨_, exec_apertureRead_of_open hrun hopen hwin e, ?_⟩,
      fun x n e h => exec_apertureRead_of_shut hrun h e,
      fun v hd0 hdie hasleep hentering hwaking hbase => ?_, fun v hd3 => exec_hostAperWrite_of_d3hot hrun hd3 v, fun v hd0 h => ?_⟩⟩
  · have hkept := readKept_foldl_cleanRead s.host.aperDie (Machine.wordsOf (aperAddr s x) n) s
    obtain ⟨hout, hcount, hframe⟩ := hkept.answer n _ (aperRead_of_sound hsound)
    refine ⟨hout, hcount, hframe, fun hhard => ?_⟩
    have hsoft : ∀ w ∈ Machine.wordsOf (aperAddr s x) n, wordSoft s s.host.aperDie w = false := fun w hw => by
      obtain ⟨b, hlo, hhi, rfl⟩ := exists_byte_of_mem_wordsOf hw
      exact hhard b hlo hhi
    rw [aperRead_of_sound hsound, foldl_cleanRead_of_hard hsoft]
    rfl
  · have hread := aperRead_of_bad hn hone hwiped hbad
    obtain ⟨hout, hframe⟩ := (faultRead_badRead s.host.aperDie (aperAddr s x / 32) s).answer n _ hread
    refine ⟨hout, ?_, ?_, ?_, hframe⟩ <;> rw [hread]
    · exact struck_badRead ..
    · exact counted_answer_other n _ (by omega) (counted_badRead ..)
    · exact wordBad_leaveBad ..
  · have hread := aperRead_of_unwiped (e := e) hn hone hwiped
    have hraised : ∀ k m, counter (raiseBit pgPwr 1 s) k m = counter s k m := fun k m => by
      rw [raiseBit_frame]
      rfl
    have hcounted : Counted 4 4 1 s (bump pgPwr 4 1 (raiseBit pgPwr 1 s)) := by
      rw [Counted, pgPwr, counter_bump, if_pos rfl]
      exact congrArg (· + 1) (hraised 4 4)
    rw [hread]
    refine ⟨?_, struck_raiseBit 4 (by decide) s, counted_answer_other n _ (by decide) hcounted, ?_⟩ <;> rw [raiseBit_frame]
    all_goals rfl
  · rw [exec_hostAperWrite_of_d0 hrun hd0, aperPlace_of_held hdie hasleep hentering hwaking hbase]
  · exact ⟨_, exec_hostAperWrite_of_d0 hrun hd0 v, by
      rw [aperPlace_of_refused h]
      exact ⟨struck_raiseBit 1 (by decide) s, by rw [raiseBit_frame]⟩⟩

end Sys2Proof.Laws
end

section
/-! The events of the TIME block and the yields that they call for (R123, R124, R379): neither takes back a flag or a count of a
reference, and media time and the servo stay as they were. -/

namespace Sys2Proof.Laws

open Sys2Proof Sys2Proof.Machine

/-- From `s` to `t` no more than flags, counters, messages, lanes and frames of the yoke have moved: no FAULT bit, no status bit taken
back, and none of the counters 0 to 3 of the TIME page. -/
structure EventsKept (s t : State) : Prop where
  frame : t = { s with out := t.out, pages := t.pages, ctrs := t.ctrs, yoke := t.yoke, ic := t.ic, lanes := t.lanes }
  fault : ∀ k, (page t k).fault = (page s k).fault
  flags : FlagsKept s t
  counts : ∀ n, n < 4 → counter t 3 n = counter s 3 n

theorem EventsKept.refl (s : State) : EventsKept s s := ⟨rfl, fun _ => rfl, .refl s, fun _ _ => rfl⟩

theorem EventsKept.trans {s t u : State} (h : EventsKept s t) (g : EventsKept t u) : EventsKept s u where
  frame := by
    have moved := g.frame
    rw [h.frame] at moved
    exact moved
  fault k := (g.fault k).trans (h.fault k)
  flags := h.flags.trans g.flags
  counts n hn := (g.counts n hn).trans (h.counts n hn)

theorem EventsKept.ite {s a b : State} {c : Prop} [Decidable c] (ha : EventsKept s a) (hb : EventsKept s b) :
    EventsKept s (if c then a else b) := by
  split
  · exact ha
  · exact hb

theorem EventsKept.foldl {α : Type} {f : State → α → State} (h : ∀ s a, EventsKept s (f s a)) (l : List α) (s : State) :
    EventsKept s (l.foldl f s) := by
  induction l generalizing s with
  | nil => exact .refl _
  | cons a l ih => exact (h s a).trans (ih (f s a))

section
variable {s t : State} (h : EventsKept s t)
include h

theorem EventsKept.time : t.time = s.time := by rw [h.frame]

theorem EventsKept.effW : effW t = Machine.effW s := by rw [h.frame]; rfl

theorem EventsKept.emitted (o : Out) : EventsKept s (emit o t) :=
  h.trans ⟨rfl, fun _ => rfl, .same rfl rfl rfl rfl, fun _ _ => rfl⟩

theorem EventsKept.yoked (x : Yoke) : EventsKept s { t with yoke := x } :=
  h.trans ⟨rfl, fun _ => rfl, .same rfl rfl rfl rfl, fun _ _ => rfl⟩

theorem EventsKept.modLane (l : Nat) (f : Lane → Lane) : EventsKept s (modLane l f t) :=
  h.trans ⟨rfl, fun _ => rfl, .same rfl rfl rfl rfl, fun _ _ => rfl⟩

theorem EventsKept.bumped (k n x : Nat) (hk : 388 ≤ 128 * k + n) : EventsKept s (bump k n x t) :=
  h.trans ⟨rfl, fun _ => rfl, .same rfl rfl rfl rfl, fun m hm => by rw [counter_bump, if_neg (by omega)]⟩

theorem EventsKept.raised (k i : Nat) : EventsKept s (raiseBit k i t) := by
  refine h.trans ⟨?_, fun j => ?_, (FlagsKept.refl t).raised k i, fun n _ => ?_⟩
  · rw [raiseBit_frame]
  · rw [raiseBit, page_raise]
    split
    · next hj => rw [hj]
    · rfl
  · rw [raiseBit_frame]
    rfl

end

/-- Events upon a change of the time state. -/
theorem EventsKept.timeFrame {s t : State} {x : TimeSt} (h : EventsKept { s with time := x } t) :
    t = { s with out := t.out, time := t.time, pages := t.pages, ctrs := t.ctrs, yoke := t.yoke, ic := t.ic, lanes := t.lanes } := by
  rw [h.time]
  exact h.frame

/-- Events stay events whatever the time state is. -/
theorem EventsKept.retimed {s t : State} (h : EventsKept s t) (x : TimeSt) :
    EventsKept { s with time := x } { t with time := x } where
  frame := congrArg (fun u : State => { u with time := x }) h.frame
  fault := h.fault
  flags := ⟨h.flags.pwr, h.flags.sets, h.flags.checking, h.flags.faults, h.flags.bits⟩
  counts := h.counts

/-! ## Yields -/

theorem eventsKept_idleExit (l : Nat) (s : State) : EventsKept s (idleExit l s) := by
  refine .emitted (.bumped (.modLane (.refl s) ..) _ _ _ ?_) _
  rw [diePageOf, pkey, pkey]
  split <;> omega

theorem eventsKept_sendRel (m : YMsg) (s : State) : EventsKept s (sendRel m s) := by
  have sends : ∀ bytes (s : State) l, EventsKept s (sendOn bytes s l) := fun _ s l =>
    .emitted (.ite (eventsKept_idleExit l s) (.refl s)) _
  exact .trans (.yoked (.yoked (.refl s) _) _) (.foldl (sends _) _ _)

/-- A yield is frames and flags of the yoke alone (R379). -/
theorem eventsKept_yieldFor (c : Nat) (s : State) : EventsKept s (yieldFor c s) := by
  refine .ite (.bumped (.raised (.yoked (.trans (.emitted (.refl s) _) (eventsKept_sendRel ..)) _) ..) _ _ _ ?_) (.refl s)
  decide

theorem eventsKept_yieldOnConditions (s : State) : EventsKept s (yieldOnConditions s) := by
  have yields : ∀ (b : Bool) c {t : State}, EventsKept s t → EventsKept s (if b then yieldFor c t else t) :=
    fun _ c _ h => .ite (h.trans (eventsKept_yieldFor c _)) h
  exact yields _ 6 (yields _ 5 (yields _ 4 (.refl s)))

/-! ## Quality and holdover -/

/-- A change of QUALITY (R124) is that field, its record, and events. -/
theorem eventsKept_setQuality (q : Nat) (s : State) :
    ∃ log, EventsKept { s with time := { s.time with quality := q, qualLog := log } } (setQuality q s) := by
  by_cases hq : s.time.quality = q
  · subst hq
    rw [setQuality, if_pos rfl]
    exact ⟨_, .refl s⟩
  · refine ⟨(s.time.now, s.time.quality) :: s.time.qualLog, ?_⟩
    rw [setQuality, if_neg hq]
    extract_lets src changed locked held expired
    have hlocked : EventsKept changed locked := .ite (.raised (.refl _) ..) (.refl _)
    have hheld : EventsKept changed held := .ite (.bumped (hlocked.raised ..) _ _ _ (by decide)) hlocked
    have hexpired : EventsKept changed expired := .ite (hheld.raised ..) hheld
    exact hexpired.trans (eventsKept_yieldOnConditions _)

/-- The estimate of R124 and the quality of that estimate. -/
theorem eventsKept_estimate {s : State} {e : Nat} (herr : holdErr s = e) :
    ∃ log, EventsKept { s with time := { s.time with
        err := e, quality := if holdLimit (effW s) < e then 3 else 2, qualLog := log } }
      (setQuality (holdQuality { s with time := { s.time with err := holdErr s } })
        { s with time := { s.time with err := holdErr s } }) := by
  subst herr
  exact eventsKept_setQuality _ { s with time := { s.time with err := holdErr s } }

/-- Holdover is entered with the estimate of the lock, at age 0 (R123, R124). -/
theorem eventsKept_enterHold {s : State} (hq : qHold s.time.quality = false) (hptp : s.time.everPtp = true) :
    ∃ log, EventsKept { s with time := { s.time with
      e0 := s.time.err, age := 0, err := min errMax s.time.err
      quality := if holdLimit (effW s) < min errMax s.time.err then 3 else 2, qualLog := log } } (enterHold s) := by
  have hlocked : ¬ (qHold s.time.quality || !s.time.everPtp) = true := by simp [hq, hptp]
  have herr : holdErr { s with time := { s.time with e0 := s.time.err, age := 0 } } = min errMax s.time.err := by
    rw [holdErr, Nat.mul_zero, Nat.zero_div, Nat.add_zero]
  rw [enterHold, if_neg hlocked]
  exact eventsKept_estimate herr

/-- 1 ms of holdover is a ms of age, and the estimate and the quality of that age (R124). -/
theorem eventsKept_holdTick {s : State} (hhold : qHold s.time.quality = true) :
    ∃ log, EventsKept { s with time := { s.time with
      age := s.time.age + 1, err := min errMax (s.time.e0 + holdRate (effW s) * (s.time.age + 1) / 1000)
      quality := if holdLimit (effW s) < min errMax (s.time.e0 + holdRate (effW s) * (s.time.age + 1) / 1000) then 3 else 2
      qualLog := log } } (holdTick s) := by
  rw [holdTick, if_pos hhold]
  exact eventsKept_estimate (s := { s with time := { s.time with age := s.time.age + 1 } }) rfl

end Sys2Proof.Laws
end

section
/-! The references of the TIME block (R120, R121, R123, R124, R128): the servo's turns from one to another, and what each command on
a reference, a lock and the holdover leaves. -/

namespace Sys2Proof.Laws

open Sys2Proof Sys2Proof.Machine

/-! ## The servo -/

/-- From `s` to `t` the servo may have turned to another reference, with the events of that; which references are eligible, and the
offset of PTP, are as before. -/
structure ServoKept (s t : State) : Prop where
  events : EventsKept { s with time := t.time } t
  eligPtp : t.time.eligPtp = s.time.eligPtp
  eligRef : t.time.eligRef = s.time.eligRef
  offPtp : t.time.offPtp = s.time.offPtp

theorem ServoKept.refl (s : State) : ServoKept s s := ⟨.refl s, rfl, rfl, rfl⟩

theorem ServoKept.of_events {s t : State} {x : TimeSt} (h : EventsKept { s with time := x } t) (hptp : x.eligPtp = s.time.eligPtp)
    (href : x.eligRef = s.time.eligRef) (hoff : x.offPtp = s.time.offPtp) : ServoKept s t := by
  have htime : t.time = x := h.time
  exact ⟨htime ▸ h, htime ▸ hptp, htime ▸ href, htime ▸ hoff⟩

theorem ServoKept.trans {s t u : State} (h : ServoKept s t) (g : ServoKept t u) : ServoKept s u where
  events := (h.events.retimed u.time).trans g.events
  eligPtp := g.eligPtp.trans h.eligPtp
  eligRef := g.eligRef.trans h.eligRef
  offPtp := g.offPtp.trans h.offPtp

theorem ServoKept.ite {s a b : State} {c : Prop} [Decidable c] (ha : ServoKept s a) (hb : ServoKept s b) :
    ServoKept s (if c then a else b) := by
  split
  · exact ha
  · exact hb

theorem ServoKept.steersTo {s t : State} (h : ServoKept s t) : steersTo t = Machine.steersTo s := by
  have hwords : effW t = effW s := h.events.effW
  rw [Machine.steersTo, Machine.steersTo, hwords, h.eligPtp, h.eligRef]

theorem servoKept_setQuality (q : Nat) (s : State) : ServoKept s (setQuality q s) := by
  obtain ⟨log, hevents⟩ := eventsKept_setQuality q s
  exact .of_events hevents rfl rfl rfl

theorem servoKept_enterHold (s : State) : ServoKept s (enterHold s) := by
  refine .ite (.refl s) (.trans ?_ (servoKept_setQuality _ _))
  exact ⟨.refl _, rfl, rfl, rfl⟩

theorem servoKept_lockRef (s : State) : ServoKept s (lockRef s) := by
  refine .ite (.trans ?_ (servoKept_setQuality 1 _)) (.refl s)
  exact ⟨.refl _, rfl, rfl, rfl⟩

/-- A step that is asked for is all that is (R128). -/
theorem askStep_eq (s : State) : ∃ step, askStep s = { s with time := { s.time with step := step } } := by
  unfold askStep
  extract_lets off
  split
  · exact ⟨_, rfl⟩
  · exact ⟨s.time.step, rfl⟩

theorem servoKept_askStep (s : State) : ServoKept s (askStep s) := by
  obtain ⟨step, hask⟩ := askStep_eq s
  rw [hask]
  exact ⟨.refl _, rfl, rfl, rfl⟩

theorem servoKept_retarget (s : State) : ServoKept s (retarget s) := by
  unfold retarget
  extract_lets n src turned held
  have hturned : ServoKept s turned := ⟨.refl _, rfl, rfl, rfl⟩
  have hheld : ServoKept s held := hturned.trans (servoKept_enterHold _)
  exact .ite (servoKept_askStep s) (.ite (hheld.trans (servoKept_lockRef _)) (hheld.trans (servoKept_askStep _)))

/-- With no reference left the servo holds over (R123). -/
theorem retarget_of_none {s : State} (hnone : steersTo s = 2) (hsource : s.time.source ≠ 2) :
    retarget s = enterHold { s with time := { s.time with source := 2, step := none, bound := none } } := by
  have hheld := (servoKept_enterHold { s with time := { s.time with source := 2, step := none, bound := none } }).steersTo
  have hturned : steersTo { s with time := { s.time with source := 2, step := none, bound := none } } = 2 := hnone
  rw [retarget]
  simp only [hnone, Ne.symm hsource, if_false]
  rw [if_neg fun h => absurd h.1 (by decide), askStep]
  simp [hheld, hturned]

/-! ## An event of a reference -/

/-- Event `i` and counter `n` of the TIME page, as a reference comes or goes: the time state is `x`, and the servo turns. -/
def refEvent (i n : Nat) (x : TimeSt) (s : State) : State :=
  retarget { bump pgTime n 1 (raiseBit pgTime i s) with time := x }

section
variable (s : State) (i n : Nat) (x : TimeSt)

theorem servoKept_refEvent : ServoKept { bump pgTime n 1 (raiseBit pgTime i s) with time := x } (refEvent i n x s) :=
  servoKept_retarget _

theorem stat_refEvent (hi : i < 32) : bitOf (page (refEvent i n x s) 3).stat i = true := by
  refine (servoKept_refEvent s i n x).events.flags.bits 3 i ?_
  have hstruck := (struck_raiseBit pgTime hi s).1
  show bitOf (page (raiseBit pgTime i s) pgTime).stat i = true
  rw [hstruck, BitVec.or_comm]
  refine bitOf_or ?_
  rw [bitOf_bitW hi, decide_eq_true rfl]

theorem counter_raiseBit (k j m : Nat) : counter (raiseBit k i s) j m = counter s j m := by
  rw [raiseBit_frame]
  rfl

theorem counted_refEvent (hn : n < 4) : Counted 3 n 1 s (refEvent i n x s) := by
  have hkept : counter (refEvent i n x s) 3 n = counter (bump pgTime n 1 (raiseBit pgTime i s)) 3 n :=
    (servoKept_refEvent s i n x).events.counts n hn
  rw [Counted, hkept, counter_bump, pgTime, if_pos rfl, counter_raiseBit]

/-- The event is recorded, and no more than the TIME block, the yoke and the lanes have moved (R123). -/
theorem refEvent_spec (hi : i < 32) (hn : n < 4) :
    bitOf (page (refEvent i n x s) 3).stat i = true ∧ Counted 3 n 1 s (refEvent i n x s) ∧
      refEvent i n x s = { s with
        out := (refEvent i n x s).out, time := (refEvent i n x s).time, pages := (refEvent i n x s).pages
        ctrs := (refEvent i n x s).ctrs, yoke := (refEvent i n x s).yoke, ic := (refEvent i n x s).ic
        lanes := (refEvent i n x s).lanes } := by
  refine ⟨stat_refEvent s i n x hi, counted_refEvent s i n x hn, ?_⟩
  have hframe := (servoKept_refEvent s i n x).events.timeFrame
  rw [raiseBit_frame] at hframe
  exact hframe

end

theorem time_raised (k n i : Nat) (s : State) : (bump k n 1 (raiseBit k i s)).time = s.time := by
  rw [bump_time, raiseBit_frame]

theorem refuseRef_ptp (s : State) : refuseRef .ptp s = refEvent 3 3 { s.time with eligPtp := false } s := by
  rw [refEvent, ← time_raised pgTime 3 3 s]
  rfl

theorem stopRef_ptp {s : State} (hen : ptpEn (effW s) = true) :
    stopRef .ptp s = refEvent 1 2 { s.time with eligPtp := false } s := by
  rw [refEvent, ← time_raised pgTime 2 1 s, stopRef, if_neg (by simp [refEnabled, hen])]

theorem stopRef_ref10m {s : State} (hen : refEn (effW s) = true) :
    stopRef .ref10m s = refEvent 1 2 { s.time with eligRef := false } s := by
  rw [refEvent, ← time_raised pgTime 2 1 s, stopRef, if_neg (by simp [refEnabled, hen])]

/-- A locked quality is no holdover. -/
theorem qHold_of_locked {q : Nat} (h : q ≤ 1) : qHold q = false := by
  rw [qHold, decide_eq_false (by omega), decide_eq_false (by omega)]
  rfl

/-- PTP lost by a part that was locked to it, with no other reference: holdover at once, with the estimate of the lock (R123). -/
theorem time_refEvent_of_ptpLost {s : State} (hsource : s.time.source = 0) (hlocked : s.time.quality ≤ 1)
    (hptp : s.time.everPtp = true) (href : s.time.eligRef = false) (i n : Nat) :
    ∃ log, (refEvent i n { s.time with eligPtp := false } s).time = { s.time with
      eligPtp := false, source := 2, step := none, bound := none, e0 := s.time.err, age := 0, err := min errMax s.time.err
      quality := if holdLimit (effW s) < min errMax s.time.err then 3 else 2, qualLog := log } := by
  have hwords : ∀ x, effW { bump pgTime n 1 (raiseBit pgTime i s) with time := x } = effW s := fun x => by
    rw [raiseBit_frame]
    rfl
  have hnone : steersTo { bump pgTime n 1 (raiseBit pgTime i s) with time := { s.time with eligPtp := false } } = 2 := by
    simp [steersTo, href]
  obtain ⟨log, hevents⟩ := eventsKept_enterHold (s := { bump pgTime n 1 (raiseBit pgTime i s) with time :=
    { s.time with eligPtp := false, source := 2, step := none, bound := none } }) (qHold_of_locked hlocked) hptp
  rw [hwords] at hevents
  refine ⟨log, ?_⟩
  rw [refEvent, retarget_of_none hnone (by simp [hsource])]
  exact hevents.time

/-! ## The commands in a part that runs -/

section
variable {s : State} (hrun : inReset s = false)
include hrun

theorem next_whenUp (k : State → State) : (Host.Outcome.next (whenUp s k) : Host.Outcome State Fault Refusal) = .next (k s) :=
  congrArg _ (whenUp_of_running hrun k)

theorem exec_referenceEligible_of_near {off : Int} (hen : ptpEn (effW s) = true)
    (hnear : off.natAbs ≤ 1000000 ∨ stepAllow (effW s) = true ∨ s.time.quality = 4) :
    exec (.referenceEligible .ptp off) s =
      .next (retarget { s with time := { s.time with eligPtp := true, offPtp := off } }) := by
  refine (next_whenUp hrun (eligible .ptp off)).trans (congrArg _ ?_)
  have hfar : ¬ (1000000 < off.natAbs ∧ stepAllow (effW s) = false ∧ s.time.quality ≠ 4) := by
    rintro ⟨hoff, hstep, hfree⟩
    rcases hnear with h | h | h
    · omega
    · rw [hstep] at h
      cases h
    · exact hfree h
  simp [eligible, refEnabled, hen, hfar]

theorem exec_referenceEligible_of_far {off : Int} (hen : ptpEn (effW s) = true) (hoff : 1000000 < off.natAbs)
    (hstep : stepAllow (effW s) = false) (hfree : s.time.quality ≠ 4) :
    exec (.referenceEligible .ptp off) s = .next (refEvent 3 3 { s.time with eligPtp := false } s) := by
  refine (next_whenUp hrun (eligible .ptp off)).trans (congrArg _ ?_)
  simp [eligible, refEnabled, hen, hoff, hstep, hfree, refuseRef_ptp]

theorem exec_referenceEligible_of_disabled {src : RefSource} (hdis : refEnabled s src = false) (off : Int) :
    exec (.referenceEligible src off) s = .next s := by
  refine (next_whenUp hrun (eligible src off)).trans (congrArg _ ?_)
  simp [eligible, hdis]

theorem exec_ref10mStop_of_enabled (hen : refEn (effW s) = true) :
    exec .ref10mStop s = .next (refEvent 1 2 { s.time with eligRef := false } s) :=
  (next_whenUp hrun (stopRef .ref10m)).trans (congrArg _ (stopRef_ref10m hen))

theorem exec_ppsStop_of_enabled (hen : refEn (effW s) = true) :
    exec .ppsStop s = .next (refEvent 1 2 { s.time with eligRef := false } s) :=
  (next_whenUp hrun (stopRef .ref10m)).trans (congrArg _ (stopRef_ref10m hen))

theorem exec_ptpLost_of_enabled (hen : ptpEn (effW s) = true) :
    exec .ptpLost s = .next (refEvent 1 2 { s.time with eligPtp := false } s) :=
  (next_whenUp hrun (stopRef .ptp)).trans (congrArg _ (stopRef_ptp hen))

theorem exec_refRefused_of_enabled (hen : ptpEn (effW s) = true) :
    exec (.refRefused .ptp) s = .next (refEvent 3 3 { s.time with eligPtp := false } s) := by
  refine (next_whenUp hrun (guard' (refEnabled s .ptp) (refuseRef .ptp))).trans (congrArg _ ?_)
  rw [guard', if_pos (show refEnabled s .ptp = true from hen), refuseRef_ptp]

theorem exec_refGlitch_of_enabled (hen : refEn (effW s) = true) (pps : Bool) :
    exec (.refGlitch pps) s = .next (bump pgTime (if pps then 1 else 0) 1 (raiseBit pgTime 2 s)) :=
  (next_whenUp hrun (glitchOp pps)).trans (congrArg _ (if_pos hen))

theorem exec_ptpLock_of_first {off : Int} (hptp : steersTo s = 0) (hfirst : s.time.everPtp = false) (b : Nat) :
    exec (.ptpLock off b) s = .next { s with time := { s.time with offPtp := off, step := some off, bound := some b } } := by
  refine (next_whenUp hrun (ptpLockOp off b)).trans (congrArg _ ?_)
  simp [ptpLockOp, hptp, hfirst]

theorem exec_ptpLock_of_later {off : Int} (hptp : steersTo s = 0) (hlater : s.time.everPtp = true) (hoff : off.natAbs ≤ 100)
    (b : Nat) : exec (.ptpLock off b) s = .next (lockPtp b { s with time := { s.time with offPtp := off } }) := by
  refine (next_whenUp hrun (ptpLockOp off b)).trans (congrArg _ ?_)
  simp [ptpLockOp, hptp, hlater, hoff]

/-- An accepted edge while the servo steers to REF10M_IN with PPS_IN decides by its residual (R121, R124). -/
theorem exec_referenceEdge_of_steered (hen : refEn (effW s) = true) (href : steersTo s = 1) (hstep : s.time.step = none)
    (res : Int) : exec (.referenceEdge true res) s = .next
      (if (res + ppsDelay (effW s)).natAbs ≤ 100 then lockRef { s with time := { s.time with offRef := res + ppsDelay (effW s) } }
        else askStep (enterHold { s with time := { s.time with offRef := res + ppsDelay (effW s) } })) := by
  refine (next_whenUp hrun (edgeOp true res)).trans (congrArg _ ?_)
  have hopen : ¬ (!refEn (effW s) || !true) = true := by simp [hen]
  have hsteered : ¬ (steersTo { s with time := { s.time with offRef := res + ppsDelay (effW s) } } ≠ 1 ∨ s.time.step ≠ none) :=
    not_or.mpr ⟨not_not.mpr href, not_not.mpr hstep⟩
  exact (if_neg hopen).trans (if_neg hsteered)

theorem exec_holdoverUpdate_of_running : exec .holdoverUpdate s = .next (holdTick s) := next_whenUp hrun holdTick

theorem exec_crystalStop_of_running : exec .crystalStop s = .next (crystalFail s) := next_whenUp hrun crystalFail

end

/-! ## The crystal -/

/-- The crystal's stop puts the TIME page, and no other, in FAULT (R123). -/
theorem crystalFail_spec (s : State) : (crystalFail s).time.crystalOk = false ∧
    (∀ k, (page (crystalFail s) k).fault = ((page s k).fault || decide (k = 3))) ∧
    crystalFail s = { s with
      out := (crystalFail s).out, time := (crystalFail s).time, pages := (crystalFail s).pages, ctrs := (crystalFail s).ctrs
      yoke := (crystalFail s).yoke, ic := (crystalFail s).ic, lanes := (crystalFail s).lanes } := by
  have hyield := eventsKept_yieldFor 2 (setFault pgTime { s with time := { s.time with crystalOk := false } })
  obtain ⟨hframe, hfault⟩ := setFault_kept pgTime { s with time := { s.time with crystalOk := false } }
  have hmoved := hyield.frame
  refine ⟨?_, fun k => (hyield.fault k).trans (hfault k), ?_⟩
  · rw [crystalFail, hyield.time, hframe]
  · rw [crystalFail, hyield.time]
    rw [hframe] at hmoved ⊢
    exact hmoved

/-- Settles O20: a reference's event turns the servo, which leaves eligibility, flags and counts; a lock, holdover and its ms each set
the quality upon the estimate they state. -/
theorem referencesLocksAndHoldover : Obligations.ReferencesLocksAndHoldover := by
  unfold Obligations.ReferencesLocksAndHoldover
  refine ⟨fun s hrun => ⟨fun off hen hnear => ?near, fun off hen hoff hstep hfree => ?far,
      fun src off hdis => exec_referenceEligible_of_disabled hrun hdis off, fun hen => ?ref10mStop, fun hen => ?ppsStop,
      fun hen => ?ptpLost, fun hen => ?refused, fun hen pps => ?glitch⟩,
    fun s hrun => ⟨fun off b hptp hfirst => exec_ptpLock_of_first hrun hptp hfirst b, fun off b hptp hlater hoff => ?ptpLock,
      fun res hen hres href hstep hptp => ?edgeNear, fun res hen hres href hstep hptp hlocked => ?edgeFar,
      fun hhold => ?tick, fun hhold => ?noTick, ?crystal⟩⟩
  case near =>
    have hservo := servoKept_retarget { s with time := { s.time with eligPtp := true, offPtp := off } }
    exact ⟨_, exec_referenceEligible_of_near hrun hen hnear, hservo.eligPtp, hservo.offPtp, hservo.events.timeFrame⟩
  case far =>
    obtain ⟨hstat, hcounted, -⟩ := refEvent_spec s 3 3 { s.time with eligPtp := false } (by decide) (by decide)
    exact ⟨_, exec_referenceEligible_of_far hrun hen hoff hstep hfree, (servoKept_refEvent ..).eligPtp, hstat, hcounted⟩
  case ref10mStop =>
    exact ⟨_, exec_ref10mStop_of_enabled hrun hen, (servoKept_refEvent ..).eligRef, refEvent_spec s 1 2 _ (by decide) (by decide)⟩
  case ppsStop =>
    exact ⟨_, exec_ppsStop_of_enabled hrun hen, (servoKept_refEvent ..).eligRef, refEvent_spec s 1 2 _ (by decide) (by decide)⟩
  case ptpLost =>
    obtain ⟨hstat, hcounted, hframe⟩ := refEvent_spec s 1 2 { s.time with eligPtp := false } (by decide) (by decide)
    refine ⟨_, exec_ptpLost_of_enabled hrun hen, (servoKept_refEvent ..).eligPtp, hstat, hcounted,
      fun hsource hlocked hptp href => ?_, hframe⟩
    obtain ⟨log, htime⟩ := time_refEvent_of_ptpLost hsource hlocked hptp href 1 2
    rw [htime]
    exact ⟨rfl, rfl, rfl, rfl, rfl⟩
  case refused =>
    obtain ⟨hstat, hcounted, -⟩ := refEvent_spec s 3 3 { s.time with eligPtp := false } (by decide) (by decide)
    exact ⟨_, exec_refRefused_of_enabled hrun hen, (servoKept_refEvent ..).eligPtp, hstat, hcounted⟩
  case glitch =>
    refine ⟨_, exec_refGlitch_of_enabled hrun hen pps, struck_raiseBit 3 (by decide) s, ?_, ?_⟩
    · rw [Counted, counter_bump, pgTime, if_pos rfl, counter_raiseBit]
    · rw [raiseBit_frame]
      rfl
  case ptpLock =>
    obtain ⟨log, hevents⟩ := eventsKept_setQuality 0 { s with time := { s.time with
      offPtp := off, everPtp := true, err := min errMax b, bound := none } }
    refine ⟨_, exec_ptpLock_of_later hrun hptp hlater hoff b, ?_⟩
    rw [lockPtp, hevents.time]
    exact ⟨rfl, rfl, rfl, rfl, hevents.frame⟩
  case edgeNear =>
    refine ⟨_, exec_referenceEdge_of_steered hrun hen href hstep res, ?_⟩
    obtain ⟨log, hevents⟩ := eventsKept_setQuality 1 { s with time := { s.time with offRef := res + ppsDelay (effW s), err := 100 } }
    rw [if_pos hres, lockRef, if_pos hptp, hevents.time]
    exact ⟨rfl, rfl, rfl, hevents.frame⟩
  case edgeFar =>
    refine ⟨_, exec_referenceEdge_of_steered hrun hen href hstep res, ?_⟩
    obtain ⟨log, hevents⟩ := eventsKept_enterHold (s := { s with time := { s.time with offRef := res + ppsDelay (effW s) } })
      (qHold_of_locked hlocked) hptp
    obtain ⟨step, hask⟩ := askStep_eq (enterHold { s with time := { s.time with offRef := res + ppsDelay (effW s) } })
    rw [if_neg (by omega), hask, hevents.time]
    exact ⟨rfl, rfl, rfl, (hevents.retimed _).frame⟩
  case tick =>
    obtain ⟨log, hevents⟩ := eventsKept_holdTick hhold
    refine ⟨_, exec_holdoverUpdate_of_running hrun, ?_⟩
    rw [hevents.time]
    exact ⟨rfl, rfl, rfl, rfl, hevents.frame⟩
  case noTick =>
    rw [exec_holdoverUpdate_of_running hrun, holdTick, hhold]
    rfl
  case crystal =>
    obtain ⟨hcrystal, hfault, hframe⟩ := crystalFail_spec s
    exact ⟨_, exec_crystalStop_of_running hrun, hcrystal, by simp [hfault], fun k hk => by simp [hfault, hk], hframe⟩

end Sys2Proof.Laws
end

section
/-! What the commands of composition leave alone while they read and write fences (R182, R183, R295): the PAD page, the flip groups and
memory stay through every operation beside a flip. -/

namespace Sys2Proof.Laws

open Sys2Proof Sys2Proof.Machine

/-! ## Pictures marked -/

/-- A read of a picture after its channel's picture `n` was changed, its number kept. -/
theorem pic?_modPic {f : Pic → Pic} (hn : ∀ p, (f p).n = p.n) (c n : Nat) (s : State) (c' m : Nat) :
    pic? (modPic c n f s) c' m = if c' = c then (pic? s c m).map (fun p => if p.n = n then f p else p) else pic? s c' m := by
  have hnum : ∀ p : Pic, (if p.n = n then f p else p).n = p.n := fun p => by split <;> simp only [hn]
  rw [pic?, modPic, chan_modChan]
  split
  · simp [pic?, List.find?_map, hnum]
  · rfl

/-- A mark that leaves a picture's words and furrows leaves what is composed. -/
theorem composedThrough_modPic {f : Pic → Pic} (hn : ∀ p, (f p).n = p.n) (hcfg : ∀ p, (f p).cfg = p.cfg)
    (hfurs : ∀ p, (f p).furs = p.furs) (c n : Nat) (s : State) (c' m : Nat) :
    composedThrough (modPic c n f s) c' m = composedThrough s c' m := by
  have hlast : ∀ p : Pic, fur (f p) ((picFmt c (f p)).furrows - 1) = fur p ((picFmt c p).furrows - 1) := fun p => by
    rw [fur, picFmt, hcfg, hfurs]
    rfl
  rw [composedThrough, composedThrough, pic?_modPic hn]
  by_cases hc : c' = c
  · subst hc
    rw [if_pos rfl]
    cases pic? s c' m with
    | none => rfl
    | some p =>
      dsimp only [Option.map_some]
      split
      · rw [hlast]
      · rfl
  · rw [if_neg hc]

/-! ## What stays beside a flip -/

/-- From `s` to `t` the flip groups, memory, and flags and counters of the PAD page of die `d` stay; pages, counters and soft errors
of other blocks move, and pictures in progress are marked, neither begun nor composed any further. -/
structure PadKept (d : Nat) (s t : State) : Prop where
  frame : t = { s with pages := t.pages, ctrs := t.ctrs, chans := t.chans, soft := t.soft, ic := t.ic }
  header : page t (pgPad d) = page s (pgPad d)
  counts : ∀ n, n < 128 → counter t (pgPad d) n = counter s (pgPad d) n
  begun : ∀ c, (chan t c).begun = (chan s c).begun
  first : ∀ c, (chan t c).first = (chan s c).first
  composed : ∀ c n, composedThrough t c n = composedThrough s c n

section
variable {d : Nat}

theorem PadKept.refl (s : State) : PadKept d s s := ⟨rfl, rfl, fun _ _ => rfl, fun _ => rfl, fun _ => rfl, fun _ _ => rfl⟩

theorem PadKept.trans {s t u : State} (h : PadKept d s t) (g : PadKept d t u) : PadKept d s u where
  frame := by
    have moved := g.frame
    rw [h.frame] at moved
    exact moved
  header := g.header.trans h.header
  counts n hn := (g.counts n hn).trans (h.counts n hn)
  begun c := (g.begun c).trans (h.begun c)
  first c := (g.first c).trans (h.first c)
  composed c n := (g.composed c n).trans (h.composed c n)

theorem PadKept.ite {s a b : State} {c : Prop} [Decidable c] (ha : PadKept d s a) (hb : PadKept d s b) :
    PadKept d s (if c then a else b) := by
  split
  · exact ha
  · exact hb

theorem PadKept.foldl {α : Type} {f : State → α → State} (h : ∀ s a, PadKept d s (f s a)) (l : List α) (s : State) :
    PadKept d s (l.foldl f s) := by
  induction l generalizing s with
  | nil => exact .refl _
  | cons a l ih => exact (h s a).trans (ih (f s a))

theorem pgMc_ne_pgPad (e d : Nat) : pgMc e ≠ pgPad d := by
  rw [pgMc, pgPad, pkey, pkey]
  omega

theorem pgLayer_ne_pgPad (i d : Nat) : pgLayer i ≠ pgPad d := by
  rw [pgLayer, pgPad, pkey, pkey]
  omega

section
variable {s t : State} (h : PadKept d s t)
include h

theorem PadKept.effW : effW t = Machine.effW s := by rw [h.frame]; rfl

theorem PadKept.dram : t.dram = s.dram := by rw [h.frame]

theorem PadKept.dramGet (e a : Nat) : dramGet t e a = Machine.dramGet s e a := by rw [Machine.dramGet, h.dram]; rfl

theorem PadKept.dramRead32 (e a : Nat) : dramRead32 t e a = Machine.dramRead32 s e a := by simp only [Machine.dramRead32, h.dramGet]

theorem PadKept.group (e g : Nat) : group t e g = Machine.group s e g := by rw [h.frame]; rfl

theorem PadKept.wordBad (e w : Nat) : wordBad t e w = Machine.wordBad s e w := by rw [h.frame]; rfl

theorem PadKept.passedFlip (c e g : Nat) : passedFlip t c e g = Machine.passedFlip s c e g := by
  rw [Machine.passedFlip, h.begun, h.first, h.group]
  rfl

theorem PadKept.counted {n x : Nat} (hn : n < 128) {r : State} (hc : Counted (pgPad d) n x r s) : Counted (pgPad d) n x r t :=
  (h.counts n hn).trans hc

/-- A counter of another page. -/
theorem PadKept.bumped {k : Nat} (hk : k ≠ pgPad d) {n : Nat} (hn : n < 128) (x : Nat) : PadKept d s (bump k n x t) :=
  h.trans ⟨rfl, rfl, fun m hm => by rw [counter_bump, if_neg (by omega)], fun _ => rfl, fun _ => rfl, fun _ _ => rfl⟩

/-- An event of another page. -/
theorem PadKept.raised {k : Nat} (hk : k ≠ pgPad d) (i : Nat) : PadKept d s (raiseBit k i t) := by
  have hheader : page (raiseBit k i t) (pgPad d) = page t (pgPad d) := (page_raise ..).trans (if_neg hk.symm)
  refine h.trans ⟨?_, hheader, fun m _ => counter_raiseBit .., ?_, ?_, ?_⟩ <;> rw [raiseBit_frame]
  all_goals intros; rfl

/-- A mark on a picture. -/
theorem PadKept.marked (c n : Nat) {f : Pic → Pic} (hn : ∀ p, (f p).n = p.n) (hcfg : ∀ p, (f p).cfg = p.cfg)
    (hfurs : ∀ p, (f p).furs = p.furs) : PadKept d s (modPic c n f t) := by
  refine h.trans ⟨rfl, rfl, fun _ _ => rfl, fun c' => ?_, fun c' => ?_, fun c' m => composedThrough_modPic hn hcfg hfurs ..⟩ <;>
  · rw [modPic, chan_modChan]
    split
    · next hc => rw [hc]
    · rfl

/-! The same change made to both. -/

theorem PadKept.bothBumped {n : Nat} (hn : n < 128) (x : Nat) : PadKept d (bump (pgPad d) n x s) (bump (pgPad d) n x t) where
  frame := congrArg (fun r : State => { r with ctrs := (bump (pgPad d) n x t).ctrs }) h.frame
  header := h.header
  counts m hm := by rw [counter_bump, counter_bump, h.counts n hn, h.counts m hm]
  begun := h.begun
  first := h.first
  composed := h.composed

theorem PadKept.bothRaised (i : Nat) : PadKept d (raiseBit (pgPad d) i s) (raiseBit (pgPad d) i t) := by
  have hheader : page (raiseBit (pgPad d) i t) (pgPad d) = page (raiseBit (pgPad d) i s) (pgPad d) := by
    rw [raiseBit, raiseBit, page_raise, page_raise, h.header]
  refine ⟨?_, hheader, fun n hn => by rw [counter_raiseBit, counter_raiseBit, h.counts n hn], ?_, ?_, ?_⟩
  · rw [raiseBit_frame _ _ s, raiseBit_frame _ _ t]
    exact congrArg (fun r : State => { r with
      pages := (raiseBit (pgPad d) i t).pages, ic := { t.ic with inflight := (raiseBit (pgPad d) i t).ic.inflight } }) h.frame
  · rw [raiseBit_frame _ _ s, raiseBit_frame _ _ t]
    exact h.begun
  · rw [raiseBit_frame _ _ s, raiseBit_frame _ _ t]
    exact h.first
  · rw [raiseBit_frame _ _ s, raiseBit_frame _ _ t]
    exact h.composed

theorem PadKept.bothGrouped (e g : Nat) (f : Group → Group) : PadKept d (modGroup e g f s) (modGroup e g f t) where
  frame := by
    have hgroups : (modGroup e g f t).groups = (modGroup e g f s).groups := by
      rw [modGroup, modGroup, h.group, h.frame]
    have hframe := congrArg (fun r : State => { r with groups := (modGroup e g f s).groups }) h.frame
    rw [← hgroups] at hframe ⊢
    exact hframe
  header := h.header
  counts := h.counts
  begun := h.begun
  first := h.first
  composed := h.composed

end

end

/-! ## Memory written -/

theorem dramWrite_frame (d a : Nat) (bs : List Byte) (s : State) : dramWrite d a bs s = { s with dram := (dramWrite d a bs s).dram } := by
  induction bs generalizing a s with
  | nil => rfl
  | cons b bs ih => exact ih (a + 1) (dramSet d a b s)

section
variable (d a : Nat) (bs : List Byte) (s : State)

theorem group_dramWrite (e g : Nat) : group (dramWrite d a bs s) e g = group s e g := by
  rw [dramWrite_frame]
  rfl

theorem chan_dramWrite (c : Nat) : chan (dramWrite d a bs s) c = chan s c := by
  rw [dramWrite_frame]
  rfl

theorem counter_dramWrite (k n : Nat) : counter (dramWrite d a bs s) k n = counter s k n := by
  rw [dramWrite_frame]
  rfl

theorem effW_dramWrite : effW (dramWrite d a bs s) = effW s := by
  rw [dramWrite_frame]
  rfl

theorem composedThrough_dramWrite (c n : Nat) : composedThrough (dramWrite d a bs s) c n = composedThrough s c n := by
  rw [dramWrite_frame]
  rfl

end

theorem wordBad_dramWrite (d a : Nat) (bs : List Byte) (s : State) (e w : Nat) : wordBad (dramWrite d a bs s) e w = wordBad s e w := by
  rw [dramWrite_frame]
  rfl

theorem dram_dramWrite_congr {s t : State} (h : t.dram = s.dram) (d a : Nat) (bs : List Byte) :
    (dramWrite d a bs t).dram = (dramWrite d a bs s).dram := by
  induction bs generalizing a s t with
  | nil => exact h
  | cons b bs ih => exact ih (congrArg (fun m => Tbl.set (fun _ => (0 : Byte)) m (memKey d a) b) h) (a + 1)

theorem PadKept.bothWritten {d : Nat} {s t : State} (h : PadKept d s t) (e a : Nat) (bs : List Byte) :
    PadKept d (dramWrite e a bs s) (dramWrite e a bs t) := by
  rw [dramWrite_frame e a bs s, dramWrite_frame e a bs t, dram_dramWrite_congr h.dram]
  exact ⟨congrArg (fun r : State => { r with dram := (dramWrite e a bs s).dram }) h.frame, h.header, h.counts, h.begun, h.first,
    h.composed⟩

/-- What a little-endian word written reads as. -/
theorem dramRead32_dramWrite {v : Nat} (hv : v < 2 ^ 32) (d a : Nat) (s : State) :
    dramRead32 (dramWrite d a (leBytes 4 v) s) d a = v := by
  have hbyte : ∀ i (hi : i < 4), dramGet (dramWrite d a (leBytes 4 v) s) d (a + i) = BitVec.ofNat 8 (v >>> (8 * i)) := fun i hi => by
    rw [dramGet_dramWrite d a _ s i (by simpa [leBytes] using hi)]
    simp [leBytes]
  rw [dramRead32, show dramGet (dramWrite d a (leBytes 4 v) s) d a = _ from hbyte 0 (by decide), hbyte 1 (by decide), hbyte 2 (by decide),
    hbyte 3 (by decide)]
  simp only [BitVec.toNat_ofNat, Nat.shiftRight_eq_div_pow]
  omega

theorem dramGet_dramWrite_outside {d a e x : Nat} {bs : List Byte} (s : State) (ha : a + bs.length ≤ 2 ^ 34) (hx : x < 2 ^ 34)
    (hout : ¬ (e = d ∧ a ≤ x ∧ x < a + bs.length)) : dramGet (dramWrite d a bs s) e x = dramGet s e x :=
  dramGet_dramWrite_other d a bs s e x fun i hi => by
    rw [Ne, memKey_inj (by omega) hx]
    omega

theorem dramRead32_lt (s : State) (d a : Nat) : dramRead32 s d a < 2 ^ 32 := by
  have hlt := fun i => (dramGet s d i).isLt
  have h0 := hlt a
  have h1 := hlt (a + 1)
  have h2 := hlt (a + 2)
  have h3 := hlt (a + 3)
  rw [dramRead32]
  omega

theorem dramRead32_congr {s t : State} {d a : Nat} (h : ∀ x, a ≤ x → x < a + 4 → dramGet t d x = dramGet s d x) :
    dramRead32 t d a = dramRead32 s d a := by
  rw [dramRead32, dramRead32, h a, h (a + 1), h (a + 2), h (a + 3)] <;> omega

/-! ## Errors met -/

theorem mapGroup_le (m : Nat) : 0 < mapGroup m ∧ mapGroup m ≤ 16 := by
  have hall : ∀ i < 8, 0 < [16, 8, 4, 2, 1].getD i 16 ∧ [16, 8, 4, 2, 1].getD i 16 ≤ 16 := by decide
  exact hall (m / 16 % 8) (Nat.mod_lt _ (by decide))

/-- The channel of a word of usable memory (R294). -/
theorem channel_dramPlace_lt (m : Nat) {w : Nat} (hw : 32 * w < dramBytes) : (dramPlace m w).channel < 32 := by
  obtain ⟨hpos, hle⟩ := mapGroup_le m
  have hword : w < 503316480 := by
    rw [dramBytes] at hw
    omega
  have hgrp : w / (31457280 * mapGroup m) * mapGroup m ≤ 15 := by
    rw [← Nat.div_div_eq_div_mul]
    exact (Nat.div_mul_le_self ..).trans (by omega)
  have hxor : ∀ j h : Nat, ((j % mapGroup m) ^^^ (h &&& (mapGroup m - 1))) < 2 ^ 4 := fun j h =>
    Nat.xor_lt_two_pow (lt_of_lt_of_le (Nat.mod_lt _ hpos) hle) (lt_of_le_of_lt Nat.and_le_right (by omega))
  exact lt_of_le_of_lt (Nat.add_le_add hgrp (Nat.le_of_lt_succ (hxor _ _))) (by decide)

theorem padKept_eccCorrect (d e : Nat) (s : State) : PadKept d s (eccCorrect e s) :=
  .bumped (.raised (.refl s) (pgMc_ne_pgPad e d) 5) (pgMc_ne_pgPad e d) (by decide) 1

theorem padKept_correctIn (d : Nat) (ls : List MemRange) (s : State) : PadKept d s (correctIn ls s) :=
  .foldl (fun s e => padKept_eccCorrect d e s) _ s

theorem readKept_correctIn (ls : List MemRange) (s : State) : ReadKept s (correctIn ls s) := by
  have hall : ∀ (l : List Nat) (s : State), ReadKept s (l.foldl (fun s d => eccCorrect d s) s) := fun l => by
    induction l with
    | nil => exact .refl
    | cons d l ih => exact fun s => (readKept_eccCorrect d s).trans (ih _)
  exact hall _ s

/-- Ranges without a bad word are read (R295). -/
theorem reading_of_sound {ls : List MemRange} {s : State} (h : ∀ r ∈ ls, badWords s r.die r.addr r.len = []) (op : State → State) :
    reading ls op s = op (correctIn ls s) := by
  have hkept := readKept_correctIn ls s
  have hbad : ls.flatMap (fun r => (badWords (correctIn ls s) r.die r.addr r.len).map (fun w => (r.die, w, r.who))) = [] := by
    refine List.flatMap_eq_nil_iff.mpr fun r hr => ?_
    rw [badWords, hkept.poison, hkept.broken]
    exact List.map_eq_nil_iff.mpr (h r hr)
  rw [reading, hbad]
  rfl

/-- The first word of a range without a bad word. -/
theorem wordBad_of_badWords_nil {s : State} {d a n : Nat} (hn : 0 < n) (h : badWords s d a n = []) : wordBad s d (a / 32) = false := by
  rw [badWords, wordsIn, List.map_eq_nil_iff, List.filter_eq_nil_iff] at h
  have habsent : wordKey d (a / 32) ∉ s.poison ++ s.broken := fun hmem => by
    refine h _ hmem ?_
    rw [Bool.and_eq_true, decide_eq_true_eq, decide_eq_true_eq, wordKey]
    omega
  rw [List.mem_append, not_or] at habsent
  simp [wordBad, poisoned, habsent]

/-- A part of a sound word is stored: no code turns bad (R295). -/
theorem padKept_storeWord_of_sound {d e w : Nat} {s : State} (hw : 32 * w < dramBytes) (hsound : wordBad s e w = false) :
    PadKept d s (storeWord e w false .clean s) := by
  unfold storeWord
  extract_lets bad fix met fixed counted
  have hmet : PadKept d s met := .bumped (.refl s) (pgMc_ne_pgPad e d)
    (by have := channel_dramPlace_lt (mc s e).mapLive hw; omega) 32
  have hfixed : PadKept d s fixed := .ite (hmet.trans (padKept_eccCorrect d e met)) hmet
  have hcounted : PadKept d s counted := .bumped hfixed (pgMc_ne_pgPad e d)
    (by have := channel_dramPlace_lt (mc fixed e).mapLive hw; omega) 32
  have hbad : bad = false := by simp [bad, hsound]
  have hkept : wordKey e w ∉ counted.poison ∧ wordKey e w ∉ counted.broken := by
    have hsame := hcounted.wordBad e w
    rw [hsound] at hsame
    simpa [wordBad, poisoned] using hsame
  have hdel : ∀ {l : NSet}, wordKey e w ∉ l → NSet.del l (wordKey e w) = l := fun h =>
    List.filter_eq_self.mpr fun x hx => decide_eq_true fun hxw => h (hxw ▸ hx)
  rw [hbad, if_neg (by decide), hdel hkept.1, hdel hkept.2]
  exact hcounted.trans ⟨rfl, rfl, fun _ _ => rfl, fun _ => rfl, fun _ => rfl, fun _ _ => rfl⟩

/-- A little-endian word stored within a sound word of memory. -/
theorem PadKept.stored {d : Nat} {s t : State} (h : PadKept d s t) {e a w : Nat} (hlo : a / 32 = w) (hhi : (a + 3) / 32 = w)
    (hw : 32 * w < dramBytes) (hsound : Machine.wordBad s e w = false) (v : Nat) :
    PadKept d (dramWrite e a (leBytes 4 v) s) (dramWrite32 e a v t) := by
  have hone : Machine.wordsOf a (leBytes 4 v).length = [w] := by
    rw [show (leBytes 4 v).length = 4 from rfl, wordsOf_eq_singleton (by decide) (hlo.trans hhi.symm), hlo]
  have hpart : (decide (a ≤ 32 * w) && decide (32 * w + 32 ≤ a + (leBytes 4 v).length)) = false := by
    rw [show (leBytes 4 v).length = 4 from rfl, ← Bool.decide_and, decide_eq_false_iff_not]
    omega
  have hwrite := h.bothWritten e a (leBytes 4 v)
  have hsound' : Machine.wordBad (dramWrite e a (leBytes 4 v) t) e w = false := by
    rw [hwrite.wordBad, wordBad_dramWrite, hsound]
  have hstore : dramWrite32 e a v t = storeWord e w false .clean (dramWrite e a (leBytes 4 v) t) := by
    rw [dramWrite32, dramStore, storeWords, hone, List.foldl_cons, List.foldl_nil, hpart]
  rw [hstore]
  exact hwrite.trans (padKept_storeWord_of_sound hw hsound')

end Sys2Proof.Laws
end

section
/-! Fences (R182, R183): what the reading of a group's fence does where the fence is ahead, where it went back and where it has not
come. -/

namespace Sys2Proof.Laws

open Sys2Proof Sys2Proof.Machine

/-! ## A flip -/

/-- A read of a flip group after an update. -/
theorem group_modGroup (d g : Nat) (f : Group → Group) (s : State) (e h : Nat) :
    group (modGroup d g f s) e h = if 64 * e + h = 64 * d + g then f (group s d g) else group s e h :=
  Tbl.get_set _ _ _ _ _

/-- FLIPPED of a group takes `v` in the fence block at `b` and in the part, at picture `a.2` of canvas `a.1`; the flip is counted. -/
def flippedTo (d g b v : Nat) (a : Nat × Nat) (s : State) : State :=
  bump (pgPad d) (64 + g) 1 (bump (pgPad d) 0 1
    (modGroup d g (fun x => { x with flipAt := some a, flipped := v }) (dramWrite d (b + 4) (leBytes 4 v) s)))

/-- RELEASED of a group takes `v` in the fence block at `b` and in the part. -/
def releasedTo (d g b v : Nat) (s : State) : State :=
  modGroup d g (fun x => { x with released := v }) (dramWrite d (b + 8) (leBytes 4 v) s)

/-- A flip with nothing before it in composition. -/
def flipped (d g b v : Nat) (a : Nat × Nat) (s : State) : State := releasedTo d g b v (flippedTo d g b v a s)

/-! The bytes written are generalized where two states are compared, so that the write stays as it is named. -/

section
variable (d g b v : Nat) (a : Nat × Nat) (s : State)

theorem flippedTo_frame : flippedTo d g b v a s =
    { s with ctrs := (flippedTo d g b v a s).ctrs, groups := (flippedTo d g b v a s).groups, dram := (flippedTo d g b v a s).dram } := by
  unfold flippedTo
  generalize leBytes 4 v = bs
  rw [dramWrite_frame]
  rfl

theorem wordBad_flippedTo (e w : Nat) : wordBad (flippedTo d g b v a s) e w = wordBad s e w := by
  unfold flippedTo
  generalize leBytes 4 v = bs
  exact wordBad_dramWrite d (b + 4) bs s e w

theorem composedThrough_flippedTo (c n : Nat) : composedThrough (flippedTo d g b v a s) c n = composedThrough s c n := by
  unfold flippedTo
  generalize leBytes 4 v = bs
  exact composedThrough_dramWrite d (b + 4) bs s c n

theorem effW_flippedTo : effW (flippedTo d g b v a s) = effW s := by
  unfold flippedTo
  generalize leBytes 4 v = bs
  exact effW_dramWrite d (b + 4) bs s

theorem flipped_frame : flipped d g b v a s =
    { s with ctrs := (flipped d g b v a s).ctrs, groups := (flipped d g b v a s).groups, dram := (flipped d g b v a s).dram } := by
  unfold flipped releasedTo
  rw [flippedTo_frame]
  generalize leBytes 4 v = bs
  rw [dramWrite_frame]
  rfl

theorem group_flipped (e h : Nat) : group (flipped d g b v a s) e h =
    if 64 * e + h = 64 * d + g then { group s d g with flipAt := some a, flipped := v, released := v } else group s e h := by
  have hbump : ∀ (k n x : Nat) (s : State) (e h : Nat), group (bump k n x s) e h = group s e h := fun _ _ _ _ _ _ => rfl
  rw [flipped, releasedTo, group_modGroup, group_dramWrite, group_dramWrite, flippedTo, hbump, hbump, hbump, hbump, group_modGroup,
    group_modGroup, if_pos rfl, group_dramWrite, group_dramWrite]
  split <;> rfl

/-- A flip is counted for the die and for the group (R183). -/
theorem counted_flipped {n : Nat} (hn : n = 0 ∨ n = 64 + g) : Counted (pgPad d) n 1 s (flipped d g b v a s) := by
  have hgroup : ∀ (f : Group → Group) (s : State) (n : Nat), counter (modGroup d g f s) (pgPad d) n = counter s (pgPad d) n :=
    fun _ _ _ => rfl
  rw [Counted, flipped, releasedTo, hgroup, counter_dramWrite, flippedTo, counter_bump, counter_bump, counter_bump, hgroup, hgroup,
    hgroup, counter_dramWrite, counter_dramWrite, counter_dramWrite]
  rcases hn with rfl | rfl
  · rw [if_neg (by omega), if_pos rfl]
  · rw [if_pos rfl, if_neg (by omega)]

theorem dramGet_flipped (e x : Nat) : dramGet (flipped d g b v a s) e x =
    dramGet (dramWrite d (b + 8) (leBytes 4 v) (dramWrite d (b + 4) (leBytes 4 v) s)) e x := by
  have hdram : (flippedTo d g b v a s).dram = (dramWrite d (b + 4) (leBytes 4 v) s).dram := rfl
  rw [dramGet, dramGet, ← dram_dramWrite_congr hdram]
  rfl

theorem dramRead32_flipped_released {v : Nat} (hv : v < 2 ^ 32) : dramRead32 (flipped d g b v a s) d (b + 8) = v :=
  (dramRead32_congr fun _ _ _ => dramGet_flipped ..).trans (dramRead32_dramWrite hv ..)

end

section
variable {d g b v : Nat} (a : Nat × Nat) (s : State) (hend : b + 12 ≤ 2 ^ 34)
include hend

/-- A flip writes FLIPPED and RELEASED of its group, and no other byte. -/
theorem dramGet_flipped_outside {e x : Nat} (hx : x < 2 ^ 34) (hout : ¬ (e = d ∧ b + 4 ≤ x ∧ x < b + 12)) :
    dramGet (flipped d g b v a s) e x = dramGet s e x := by
  have hlen : (leBytes 4 v).length = 4 := rfl
  rw [dramGet_flipped, dramGet_dramWrite_outside _ (by omega) hx (by omega), dramGet_dramWrite_outside _ (by omega) hx (by omega)]

theorem dramRead32_flipped_fence : dramRead32 (flipped d g b v a s) d b = dramRead32 s d b :=
  dramRead32_congr fun x _ _ => dramGet_flipped_outside a s hend (by omega) (by omega)

theorem dramRead32_flipped_flipped (hv : v < 2 ^ 32) : dramRead32 (flipped d g b v a s) d (b + 4) = v := by
  have hlen : (leBytes 4 v).length = 4 := rfl
  refine (dramRead32_congr fun x _ _ => ?_).trans (dramRead32_dramWrite hv d (b + 4) s)
  rw [dramGet_flipped, dramGet_dramWrite_outside _ (by omega) (by omega) (by omega)]

end

/-- A flip of two states that agree leaves two that agree. -/
theorem PadKept.bothFlipped {d : Nat} {s u : State} (h : PadKept d s u) {g : Nat} (hg : g < 64) (b v : Nat) (a : Nat × Nat) :
    PadKept d (flipped d g b v a s) (flipped d g b v a u) := by
  unfold flipped releasedTo flippedTo
  have hcounted := ((h.bothWritten d (b + 4) (leBytes 4 v)).bothGrouped d g fun x => { x with flipAt := some a, flipped := v }).bothBumped
    (n := 0) (by decide) 1
  exact ((hcounted.bothBumped (by omega) 1).bothWritten d (b + 8) _).bothGrouped d g _

/-- Beside a flip no more moves than page headers, counters, marks of pictures and corrected errors. -/
theorem PadKept.frame_of_flipped {d g b v : Nat} {a : Nat × Nat} {s t : State} (h : PadKept d (flipped d g b v a s) t) :
    t = { s with pages := t.pages, ctrs := t.ctrs, chans := t.chans, groups := t.groups, dram := t.dram, soft := t.soft
                 ic := t.ic } := by
  have hframe := h.frame
  have hgroups : t.groups = (flipped d g b v a s).groups := by rw [hframe]
  rw [hgroups, h.dram]
  rw [flipped_frame] at hframe
  exact hframe

/-! ## A fence that does not flip -/

/-- Event `i` of the PAD page of die `d`, counted in its counter `n`. -/
def padEvent (d i n : Nat) (s : State) : State := bump (pgPad d) n 1 (raiseBit (pgPad d) i s)

section
variable (d : Nat) {i : Nat} (n : Nat) (s : State)

theorem padEvent_frame (i : Nat) : padEvent d i n s =
    { s with pages := (padEvent d i n s).pages, ctrs := (padEvent d i n s).ctrs, ic := (padEvent d i n s).ic } := by
  unfold padEvent
  rw [raiseBit_frame]
  rfl

theorem counted_padEvent (i : Nat) : Counted (pgPad d) n 1 s (padEvent d i n s) := by
  rw [Counted, padEvent, counter_bump, if_pos rfl, counter_raiseBit]

theorem counter_padEvent_other (i : Nat) {m : Nat} (hm : m ≠ n) : counter (padEvent d i n s) (pgPad d) m = counter s (pgPad d) m := by
  rw [padEvent, counter_bump, if_neg (by omega), counter_raiseBit]

theorem stat_padEvent (hi : i < 32) : bitOf (page (padEvent d i n s) (pgPad d)).stat i = true := by
  have hstruck := (struck_raiseBit (pgPad d) hi s).1
  show bitOf (page (raiseBit (pgPad d) i s) (pgPad d)).stat i = true
  rw [hstruck, BitVec.or_comm]
  refine bitOf_or ?_
  rw [bitOf_bitW hi, decide_eq_true rfl]

theorem stat_padEvent_kept (i : Nat) {j : Nat} (h : bitOf (page s (pgPad d)).stat j = true) :
    bitOf (page (padEvent d i n s) (pgPad d)).stat j = true :=
  (((FlagsKept.refl s).raised (pgPad d) i).bumped (pgPad d) n 1).bits _ _ h

end

/-- A fence of `d` did not flip its group: FENCE_BACK and its count where it went back, FENCE_LATE and its count where it is late. -/
def unflipped (d : Nat) (back late : Bool) (s : State) : State :=
  let s := if back then padEvent d 1 2 s else s
  if late then padEvent d 0 1 s else s

section
variable (d : Nat) (back late : Bool) (s : State)

theorem unflipped_frame : unflipped d back late s =
    { s with pages := (unflipped d back late s).pages, ctrs := (unflipped d back late s).ctrs, ic := (unflipped d back late s).ic } := by
  have hback := padEvent_frame d 2 s 1
  cases back <;> cases late
  · rfl
  · exact padEvent_frame d 1 s 0
  · exact hback
  · exact (padEvent_frame d 1 (padEvent d 1 2 s) 0).trans (congrArg (fun r : State => { r with
      pages := (unflipped d true true s).pages, ctrs := (unflipped d true true s).ctrs, ic := (unflipped d true true s).ic }) hback)

theorem group_unflipped (e g : Nat) : group (unflipped d back late s) e g = group s e g := by
  rw [unflipped_frame]
  rfl

theorem dram_unflipped : (unflipped d back late s).dram = s.dram := by rw [unflipped_frame]

theorem unflipped_back : Counted (pgPad d) 2 1 s (unflipped d true late s) ∧
    bitOf (page (unflipped d true late s) (pgPad d)).stat 1 = true := by
  have hback : bitOf (page (padEvent d 1 2 s) (pgPad d)).stat 1 = true := stat_padEvent d 2 s (by decide)
  cases late with
  | false => exact ⟨counted_padEvent d 2 s 1, hback⟩
  | true => exact ⟨(counter_padEvent_other d 1 _ 0 (by decide)).trans (counted_padEvent d 2 s 1), stat_padEvent_kept d 1 _ 0 hback⟩

theorem unflipped_late : Counted (pgPad d) 1 1 s (unflipped d false true s) ∧
    bitOf (page (unflipped d false true s) (pgPad d)).stat 0 = true :=
  ⟨counted_padEvent d 1 s 0, stat_padEvent d 1 s (by decide)⟩

end

theorem PadKept.bothUnflipped {d : Nat} {s u : State} (h : PadKept d s u) (back late : Bool) :
    PadKept d (unflipped d back late s) (unflipped d back late u) := by
  have hevent : ∀ {s u : State} (i n : Nat), n < 128 → PadKept d s u → PadKept d (padEvent d i n s) (padEvent d i n u) :=
    fun i n hn h => (h.bothRaised i).bothBumped hn 1
  cases back <;> cases late
  · exact h
  · exact hevent 0 1 (by decide) h
  · exact hevent 1 2 (by decide) h
  · exact hevent 0 1 (by decide) (hevent 1 2 (by decide) h)

/-! ## Stale layers -/

theorem padKept_markStale (d ch n i : Nat) (missing : Bool) (s : State) : PadKept d s (markStale ch n i missing s) := by
  unfold markStale
  split
  · exact .refl s
  · have hcounted : PadKept d s (bump (pgLayer i) 0 1 (raiseBit (pgLayer i) 0 s)) :=
      .bumped (.raised (.refl s) (pgLayer_ne_pgPad i d) 0) (pgLayer_ne_pgPad i d) (by decide) 1
    have hmissing := PadKept.ite (c := missing = true) (hcounted.raised (pgLayer_ne_pgPad i d) 5) hcounted
    exact .ite (.refl s) (hmissing.marked ch n (fun _ => rfl) (fun _ => rfl) fun _ => rfl)

/-- A layer marked is among the stale ones of its picture (R187). -/
theorem mem_staleL_markStale {ch n i : Nat} {missing : Bool} {s : State} {q : Pic}
    (h : pic? (markStale ch n i missing s) ch n = some q) : i ∈ q.staleL := by
  unfold markStale at h
  split at h
  · next hnone =>
    rw [hnone] at h
    cases h
  · next p hp =>
    split at h
    · next hin =>
      rw [hp] at h
      cases h
      simpa using hin
    · extract_lets counted missed at h
      rw [pic?_modPic (f := fun p => { p with staleL := NSet.add p.staleL i }) (fun _ => rfl), if_pos rfl] at h
      obtain ⟨r, hr, rfl⟩ := Option.map_eq_some_iff.mp h
      have hnum : r.n = n := by simpa using List.find?_some hr
      rw [if_pos hnum]
      exact (mem_NSet_add ..).mpr (.inl rfl)

/-! ## One group -/

/-- Address of the FENCE of group `g` in its die's fence block (R182). -/
def fenceAt (s : State) (d g : Nat) : Nat := fenceBase (effW s) d + 16 * g

/-- How far the fence of group `g` is ahead of FLIPPED, modulo 2^32 (R183). -/
def fenceAhead (s : State) (d g : Nat) : Nat := (dramRead32 s d (fenceAt s d g) + 2 ^ 32 - (group s d g).flipped) % 2 ^ 32

/-- The fence of group `g` is awaited by now (R183): the cadence of its layers is not 0, and as many pictures have passed. -/
def fenceDue (s : State) (ch g : Nat) (t : Tbl Word) : Bool :=
  let q := ((groupLayers t ch g).map (fun i => (layCfg (getW t) i).cadence)).headD 0
  decide (0 < q) && decide (q ≤ passedFlip s ch (ch / 32) g)

theorem fenceAt_mod (s : State) (d g : Nat) : fenceAt s d g % 16 = 0 := by
  rw [fenceAt, fenceBase]
  omega

section
variable {ch n g : Nat} {t : Tbl Word} {s : State}

section
variable {d : Nat} {u : State} (h : PadKept d s u) (hend : fenceAt s d g + 12 ≤ dramBytes)
  (hsound : Machine.wordBad s d (fenceAt s d g / 32) = false) (v : Nat)
include h hend hsound

/-- FLIPPED and RELEASED stand in the data word of their fence, which is sound. -/
theorem PadKept.storedBy {o : Nat} (ho : o ≤ 8) :
    PadKept d (dramWrite d (fenceAt s d g + o) (leBytes 4 v) s) (dramWrite32 d (fenceAt s d g + o) v u) := by
  have halign := fenceAt_mod s d g
  exact h.stored (w := fenceAt s d g / 32) (by omega) (by omega) (by omega) hsound v

/-- What the model writes as RELEASED is `releasedTo`, with codes and counters of the memory controller beside it. -/
theorem PadKept.bothReleased : PadKept d (releasedTo d g (fenceAt s d g) v s) (writeReleased d g v u) := by
  rw [writeReleased, h.effW]
  exact (h.storedBy hend hsound v (by decide)).bothGrouped d g _

end

/-- A fence ahead, its group's pictures before it composed: the flip, and marks on layers and the picture beside it. -/
theorem padKept_fenceGroup_of_ahead (hg : g < 64) (hend : fenceAt s (ch / 32) g + 12 ≤ dramBytes)
    (hsound : wordBad s (ch / 32) (fenceAt s (ch / 32) g / 32) = false)
    (hlo : 1 ≤ fenceAhead s (ch / 32) g) (hhi : fenceAhead s (ch / 32) g < 2 ^ 31)
    (hdone : n = 0 ∨ composedThrough s ch (n - 1) = true) :
    PadKept (ch / 32) (flipped (ch / 32) g (fenceAt s (ch / 32) g) (dramRead32 s (ch / 32) (fenceAt s (ch / 32) g))
      (ch, (chan s ch).begun) s) (fenceGroup ch n t s g) := by
  unfold fenceGroup
  extract_lets d ls q x fence e due stored grouped counted layers marked back moved
  have hstored : PadKept d (dramWrite d (fenceAt s d g + 4) (leBytes 4 fence) s) stored :=
    (PadKept.refl s).storedBy hend hsound fence (by decide)
  have hbegun : (chan stored ch).begun = (chan s ch).begun := (hstored.begun ch).trans (by rw [chan_dramWrite])
  have hcounted : PadKept d (flippedTo d g (fenceAt s d g) fence (ch, (chan s ch).begun) s) counted := by
    unfold counted grouped
    rw [hbegun]
    exact ((hstored.bothGrouped d g _).bothBumped (by decide) 1).bothBumped (by omega) 1
  have hlayers := hcounted.trans
    (.foldl (fun s i => .bumped (n := 5) (.refl s) (pgLayer_ne_pgPad i d) (by decide) 1) ls counted)
  have hmarked : PadKept d (flippedTo d g (fenceAt s d g) fence (ch, (chan s ch).begun) s) marked :=
    hlayers.marked ch n (fun _ => rfl) (fun _ => rfl) fun _ => rfl
  have hcomposed : n = 0 ∨ composedThrough marked ch (n - 1) = true := hdone.imp_right fun h => by
    rw [hmarked.composed, composedThrough_flippedTo, h]
  have hmoved : moved = writeReleased d g fence marked := (if_pos ⟨hlo, hhi⟩).trans (if_pos hcomposed)
  have hat : fenceAt (flippedTo d g (fenceAt s d g) fence (ch, (chan s ch).begun) s) d g = fenceAt s d g := by
    rw [fenceAt, effW_flippedTo]
    rfl
  have hreleased := hmarked.bothReleased (g := g) (by rw [hat]; exact hend) (by rw [hat, wordBad_flippedTo]; exact hsound) fence
  rw [hat, ← hmoved] at hreleased
  exact hreleased.marked ch n (fun _ => rfl) (fun _ => rfl) fun _ => rfl

/-- The two events of a fence that does not flip, and the layers marked where it is late, as `unflipped` has them. -/
theorem foldl_unflipped (f : State → Nat → State) (ls : List Nat) (d : Nat) (back late : Bool) (s : State) :
    (if late = true then ls.foldl f (padEvent d 0 1 (if back = true then padEvent d 1 2 s else s))
      else if back = true then padEvent d 1 2 s else s) =
      (if late then ls else []).foldl f (unflipped d back late s) := by
  cases late <;> rfl

/-- A fence that is not ahead is noted as any: its flags and counts, the layers that it makes stale, and FLIPPED kept with the
picture. -/
theorem fenceGroup_of_not_ahead (hnot : ¬ (1 ≤ fenceAhead s (ch / 32) g ∧ fenceAhead s (ch / 32) g < 2 ^ 31)) : ∃ flips : Nat,
    fenceGroup ch n t s g = modPic ch n (fun p => { p with fences := p.fences.set (fun _ => 0) g flips })
      ((if fenceDue s ch g t then groupLayers t ch g else []).foldl (fun s i => markStale ch n i false s)
        (unflipped (ch / 32) (decide (2 ^ 31 ≤ fenceAhead s (ch / 32) g)) (fenceDue s ch g t) s)) := by
  rw [← foldl_unflipped]
  simp only [decide_eq_true_eq]
  unfold fenceGroup
  extract_lets d ls q x fence e due stored grouped counted layers marked back moved
  have hmoved : moved = if due = true then ls.foldl (fun s i => markStale ch n i false s) (padEvent d 0 1 back) else back :=
    if_neg hnot
  exact ⟨_, congrArg _ hmoved⟩

theorem padKept_fenceGroup_of_not_ahead
    (hnot : ¬ (1 ≤ fenceAhead s (ch / 32) g ∧ fenceAhead s (ch / 32) g < 2 ^ 31)) :
    PadKept (ch / 32) (unflipped (ch / 32) (decide (2 ^ 31 ≤ fenceAhead s (ch / 32) g)) (fenceDue s ch g t) s)
      (fenceGroup ch n t s g) := by
  obtain ⟨flips, hgroup⟩ := fenceGroup_of_not_ahead (n := n) (t := t) hnot
  rw [hgroup]
  exact (PadKept.foldl (fun s i => padKept_markStale _ ch n i false s) _ _).marked ch n (fun _ => rfl) (fun _ => rfl) fun _ => rfl

/-- The layer of a group whose fence is late is stale (R183). -/
theorem mem_staleL_fenceGroup (hnot : ¬ (1 ≤ fenceAhead s (ch / 32) g ∧ fenceAhead s (ch / 32) g < 2 ^ 31))
    (hdue : fenceDue s ch g t = true) {i : Nat} (hone : groupLayers t ch g = [i]) {q : Pic}
    (hq : pic? (fenceGroup ch n t s g) ch n = some q) : i ∈ q.staleL := by
  obtain ⟨flips, hgroup⟩ := fenceGroup_of_not_ahead (n := n) (t := t) hnot
  rw [hgroup, pic?_modPic (f := fun p => { p with fences := p.fences.set (fun _ => 0) g flips }) (fun _ => rfl), if_pos rfl, hdue,
    if_pos rfl, hone, List.foldl_cons, List.foldl_nil] at hq
  obtain ⟨r, hr, rfl⟩ := Option.map_eq_some_iff.mp hq
  have hstale := mem_staleL_markStale hr
  split <;> exact hstale

end

section
variable {d g : Nat} {s u : State} (h : PadKept d s u)
include h

theorem PadKept.fenceAt : fenceAt u d g = Laws.fenceAt s d g := by rw [Laws.fenceAt, h.effW]; rfl

theorem PadKept.fenceAhead : fenceAhead u d g = Laws.fenceAhead s d g := by
  rw [Laws.fenceAhead, h.fenceAt, h.dramRead32, h.group]
  rfl

end

theorem PadKept.fenceDue {ch : Nat} {s u : State} (h : PadKept (ch / 32) s u) (g : Nat) (t : Tbl Word) :
    fenceDue u ch g t = Laws.fenceDue s ch g t := by
  rw [Laws.fenceDue, h.passedFlip]
  rfl

/-! ## The command -/

section
variable {ch g : Nat} {s : State} {p : Pic} (hrun : inReset s = false) (hch : ch < 32 * dies s)
  (hlast : (chan s ch).pics.getLast? = some p) (hfenced : p.fenced = false) (hcomposed : chComposed (picG s ch p) ch = true)
  (hgroups : (((canvasLayers p.cfg ch).filter (fun i => (layCfg (getW p.cfg) i).drawn)).map
    (fun i => (layCfg (getW p.cfg) i).group)).eraseDups = [g])

include hgroups in
theorem group_lt_of_groups : g < 64 := by
  have hmem : g ∈ ((canvasLayers p.cfg ch).filter (fun i => (layCfg (getW p.cfg) i).drawn)).map
      (fun i => (layCfg (getW p.cfg) i).group) := List.mem_eraseDups.mp (hgroups ▸ List.mem_singleton_self g)
  obtain ⟨i, -, rfl⟩ := List.mem_map.mp hmem
  exact Nat.mod_lt _ (by decide)

include hlast hfenced hgroups in
/-- A canvas of one group reads one fence. -/
theorem fenceReads_of_groups (hbad : badWords s (ch / 32) (fenceAt s (ch / 32) g) 4 = []) :
    ∀ r ∈ fenceReads s ch, badWords s r.die r.addr r.len = [] := by
  intro r hr
  rw [fenceReads, hlast] at hr
  dsimp only at hr
  rw [hfenced, if_neg (by decide)] at hr
  obtain ⟨i, hi, rfl⟩ := List.mem_map.mp hr
  have hgroup : (layCfg (getW p.cfg) i).group ∈ [g] :=
    hgroups ▸ List.mem_eraseDups.mpr (List.mem_map_of_mem (f := fun i => (layCfg (getW p.cfg) i).group) hi)
  rw [List.mem_singleton.mp hgroup]
  exact hbad

include hrun hch hlast hfenced hcomposed hgroups in
/-- With its fence in a sound word, the group's fence is read once for the picture; what the read itself does stays beside it. -/
theorem exec_fenceRead_of_sound (hbad : badWords s (ch / 32) (fenceAt s (ch / 32) g) 4 = []) :
    ∃ u, PadKept (ch / 32) s u ∧ exec (.fenceRead ch) s = .next (fenceGroup ch p.n p.cfg u g) := by
  have hread := readKept_correctIn (fenceReads s ch) s
  have hlast' : (chan (correctIn (fenceReads s ch) s) ch).pics.getLast? = some p := by
    rw [hread.reading]
    exact hlast
  have hcomposed' : chComposed (picG (correctIn (fenceReads s ch) s) ch p) ch = true := by
    rw [hread.reading]
    exact hcomposed
  refine ⟨modPic ch p.n (fun p => { p with fenced := true }) (correctIn (fenceReads s ch) s),
    (padKept_correctIn ..).marked ch p.n (fun _ => rfl) (fun _ => rfl) fun _ => rfl, ?_⟩
  refine (atChannel_of_running hrun hch _).trans (congrArg _ ?_)
  rw [reading_of_sound (fenceReads_of_groups hlast hfenced hgroups hbad), fenceReadOp, hlast']
  dsimp only
  rw [hfenced, hcomposed', if_neg (by decide), hgroups]
  rfl

include hrun hch hlast hfenced hcomposed hgroups in
/-- The fence is ahead, and the picture before this one is composed. -/
theorem exec_fenceRead_of_ahead (hend : fenceAt s (ch / 32) g + 12 ≤ dramBytes)
    (hbad : badWords s (ch / 32) (fenceAt s (ch / 32) g) 4 = []) (hlo : 1 ≤ fenceAhead s (ch / 32) g)
    (hhi : fenceAhead s (ch / 32) g < 2 ^ 31) (hdone : p.n = 0 ∨ composedThrough s ch (p.n - 1) = true) :
    ∃ t, exec (.fenceRead ch) s = .next t ∧ PadKept (ch / 32) (flipped (ch / 32) g (fenceAt s (ch / 32) g)
      (dramRead32 s (ch / 32) (fenceAt s (ch / 32) g)) (ch, (chan s ch).begun) s) t := by
  obtain ⟨u, hu, hexec⟩ := exec_fenceRead_of_sound hrun hch hlast hfenced hcomposed hgroups hbad
  have hg := group_lt_of_groups hgroups
  have hsound := wordBad_of_badWords_nil (by decide) hbad
  rw [← hu.fenceAt] at hend
  rw [← hu.wordBad, ← hu.fenceAt] at hsound
  rw [← hu.fenceAhead] at hlo hhi
  rw [← hu.composed] at hdone
  have hflip := padKept_fenceGroup_of_ahead (t := p.cfg) hg hend hsound hlo hhi hdone
  rw [hu.fenceAt, hu.dramRead32, hu.begun] at hflip
  exact ⟨_, hexec, (hu.bothFlipped hg _ _ _).trans hflip⟩

include hrun hch hlast hfenced hcomposed hgroups in
/-- The fence went back, or has not come. -/
theorem exec_fenceRead_of_not_ahead (hbad : badWords s (ch / 32) (fenceAt s (ch / 32) g) 4 = [])
    (hnot : ¬ (1 ≤ fenceAhead s (ch / 32) g ∧ fenceAhead s (ch / 32) g < 2 ^ 31)) :
    ∃ t, exec (.fenceRead ch) s = .next t ∧
      PadKept (ch / 32) (unflipped (ch / 32) (decide (2 ^ 31 ≤ fenceAhead s (ch / 32) g)) (fenceDue s ch g p.cfg) s) t ∧
      (fenceDue s ch g p.cfg = true → ∀ i, groupLayers p.cfg ch g = [i] → ∀ q, pic? t ch p.n = some q → i ∈ q.staleL) := by
  obtain ⟨u, hu, hexec⟩ := exec_fenceRead_of_sound hrun hch hlast hfenced hcomposed hgroups hbad
  rw [← hu.fenceAhead] at hnot
  have hkept := padKept_fenceGroup_of_not_ahead (n := p.n) (t := p.cfg) hnot
  rw [hu.fenceAhead, hu.fenceDue] at hkept
  exact ⟨_, hexec, (hu.bothUnflipped _ _).trans hkept, fun hdue i hone q hq =>
    mem_staleL_fenceGroup hnot ((hu.fenceDue ..).trans hdue) hone hq⟩

end

/-- The cadence of a group is that of its one layer. -/
theorem fenceDue_of_layer {s : State} {ch g : Nat} {t : Tbl Word} {i : Nat} (hi : i ∈ groupLayers t ch g)
    (hone : ∀ j ∈ groupLayers t ch g, j = i) : fenceDue s ch g t =
      (decide (0 < (layCfg (getW t) i).cadence) && decide ((layCfg (getW t) i).cadence ≤ passedFlip s ch (ch / 32) g)) := by
  rw [fenceDue]
  cases hls : groupLayers t ch g with
  | nil =>
    rw [hls] at hi
    cases hi
  | cons j ls =>
    rw [hone j (hls ▸ List.mem_cons_self ..)]
    rfl

/-- Settles O25: the command is the flip of its one group, or the flags of a fence that does not flip it, with nothing beside it but
marks, counters of other pages and corrected errors. -/
theorem fencesFlipOrStayBehind : Obligations.FencesFlipOrStayBehind := by
  unfold Obligations.FencesFlipOrStayBehind
  constructor
  · rintro ch s p g d b hrun hch rfl hlast hfenced hcomposed hgroups rfl hend hbad hlo hhi hdone
    obtain ⟨t, hexec, hkept⟩ := exec_fenceRead_of_ahead hrun hch hlast hfenced hcomposed hgroups hend hbad hlo hhi hdone
    have hv := dramRead32_lt s (ch / 32) (fenceAt s (ch / 32) g)
    have hg := group_lt_of_groups hgroups
    have hin : fenceAt s (ch / 32) g + 12 ≤ 2 ^ 34 := hend.trans (by decide)
    have hown : group t (ch / 32) g = { group s (ch / 32) g with
        flipAt := some (ch, (chan s ch).begun), flipped := dramRead32 s (ch / 32) (fenceAt s (ch / 32) g)
        released := dramRead32 s (ch / 32) (fenceAt s (ch / 32) g) } :=
      (hkept.group ..).trans ((group_flipped ..).trans (if_pos rfl))
    refine ⟨t, hexec, (hkept.dramRead32 ..).trans (dramRead32_flipped_fence _ s hin),
      (hkept.dramRead32 ..).trans (dramRead32_flipped_flipped _ s hin hv),
      (hkept.dramRead32 ..).trans (dramRead32_flipped_released _ _ _ _ s hv),
      fun e a _ ha hout => (hkept.dramGet ..).trans (dramGet_flipped_outside _ s hin (ha.trans_le (by decide)) hout),
      congrArg Group.flipped hown, congrArg Group.released hown, congrArg Group.flipAt hown,
      fun e h hother => (hkept.group ..).trans ((group_flipped ..).trans (if_neg hother)),
      hkept.counted (by decide) (counted_flipped _ _ _ _ _ s (.inl rfl)),
      hkept.counted (by omega) (counted_flipped _ _ _ _ _ s (.inr rfl)), hkept.frame_of_flipped⟩
  · rintro ch s p g d b hrun hch rfl hlast hfenced hcomposed hgroups rfl hbad
    have hread := exec_fenceRead_of_not_ahead hrun hch hlast hfenced hcomposed hgroups hbad
    refine ⟨fun hback => ?_, fun hstay => ?_⟩
    · have hfar : 2 ^ 31 ≤ fenceAhead s (ch / 32) g := hback
      obtain ⟨t, hexec, hkept, -⟩ := hread (by omega)
      rw [decide_eq_true hfar] at hkept
      obtain ⟨hcounted, hstat⟩ := unflipped_back (ch / 32) (fenceDue s ch g p.cfg) s
      exact ⟨t, hexec, by rw [hkept.group, group_unflipped], hkept.dram.trans (dram_unflipped ..),
        hkept.counted (by decide) hcounted, by rw [hkept.header, hstat]⟩
    · have hzero : fenceAhead s (ch / 32) g = 0 := hstay
      obtain ⟨t, hexec, hkept, hstale⟩ := hread (by omega)
      rw [hzero, decide_eq_false (by decide)] at hkept
      refine ⟨t, hexec, by rw [hkept.group, group_unflipped], hkept.dram.trans (dram_unflipped ..), fun i hi hcadence hone => ?_,
        fun i hone hcadence hpassed => ?_⟩
      · have hdue : fenceDue s ch g p.cfg = false := by
          rw [fenceDue_of_layer hi hone, hcadence]
          rfl
        rw [hkept.header, hdue]
        rfl
      · have hdue : fenceDue s ch g p.cfg = true := by
          rw [fenceDue_of_layer (i := i) (by rw [hone]; exact List.mem_singleton_self i) (by simp [hone]), decide_eq_true hcadence,
            decide_eq_true hpassed]
          rfl
        rw [hdue] at hkept
        obtain ⟨hcounted, hstat⟩ := unflipped_late (ch / 32) s
        exact ⟨hkept.counted (by decide) hcounted, by rw [hkept.header, hstat], hstale hdue i hone⟩

end Sys2Proof.Laws
end

section
/-! O30 fails in a state with an ill-formed work item (R215, R227, R273): the work that an engine's fault sets going again ends with
`wakeItems`, which releases the item and so moves the count of the engine's uncorrectable errors once more. -/

namespace Sys2Proof.Laws

open Sys2Proof Sys2Proof.Machine

theorem exec_engineFault_of_running {s : State} {d e : Nat} (hrun : inReset s = false) (hd : d < dies s) (he : e < 4) :
    exec (.engineFault d e false) s = .next (engineFails d e s) := by
  change execEngineFault d e false s = _
  rw [execEngineFault, if_pos he, atDie_of_running hrun hd]
  rfl

/-- A part whose engine 0 of die 0 fails; the stray item's release advances counter 7 of its `CE` page, the uncorrectable errors. -/
def enginePart : State := strayPart (pgCe 0 0) 7

theorem counter_engineFails_enginePart : counter (engineFails 0 0 enginePart) (pgCe 0 0) 7 = 2 := by decide

/-- Refutes O30: the error counts once at its engine, and the stray item's release counts once more on the same counter. -/
theorem not_engineFaultFreesItsItems : ¬ Obligations.EngineFaultFreesItsItems := by
  unfold Obligations.EngineFaultFreesItsItems
  intro engines
  obtain ⟨⟨t, ht, -, hcounted, -⟩, -⟩ := engines 0 0 enginePart rfl (by decide) (by decide)
  rw [exec_engineFault_of_running rfl (by decide) (by decide)] at ht
  obtain rfl := Host.Outcome.next.inj ht
  exact not_counted_one (by decide) counter_engineFails_enginePart hcounted

end Sys2Proof.Laws
end

section
/-! What a furrow spends, and what it holds back for the CTUs it has still to code (R239, R240, R245): columns fall into slices in
rising order, the slices together hold the bits of the log, and a fallow CTU takes no more than the reserve gives up at it. -/

namespace Sys2Proof.Laws

open Sys2Proof Sys2Proof.Machine

/-! ## Slices of a furrow -/

theorem sliceOf_mono (ns wc : Nat) {x y : Nat} (h : x ≤ y) : sliceOf ns wc x ≤ sliceOf ns wc y := by
  unfold sliceOf
  rw [← List.countP_eq_length_filter, ← List.countP_eq_length_filter]
  refine Nat.sub_le_sub_right (List.countP_mono_left fun i _ hi => ?_) 1
  rw [decide_eq_true_eq] at hi ⊢
  exact hi.trans h

theorem sliceOf_le (ns wc x : Nat) : sliceOf ns wc x ≤ ns - 1 := by
  unfold sliceOf
  refine Nat.sub_le_sub_right ?_ 1
  simpa using List.length_filter_le (fun i => decide (i * wc / ns ≤ x)) (List.range ns)

/-! ## Bits of a log -/

/-- What a CTU adds to its furrow's spend: the header of the slice it begins, and its own bits. -/
def loggedBits (e : CtuLog) : Nat := e.hdr + e.cost

/-- Columns gathered by slice are the columns. -/
theorem sum_bySlice {n m : Nat} {slice : Nat → Nat} (h : ∀ x < n, slice x < m) (b : Nat → Nat) :
    ((List.range m).map fun i => (((List.range n).filter fun x => decide (slice x = i)).map b).sum).sum = ((List.range n).map b).sum := by
  have hinner : ∀ i, (((List.range n).filter fun x => decide (slice x = i)).map b).sum =
      ∑ x ∈ Finset.range n with slice x = i, b x := fun i => by
    rw [← List.sum_toFinset _ (List.nodup_range.filter _), List.toFinset_filter, List.toFinset_range]
    simp only [decide_eq_true_eq]
  simp only [hinner]
  rw [← List.sum_toFinset _ List.nodup_range, ← List.sum_toFinset _ List.nodup_range, List.toFinset_range, List.toFinset_range]
  exact Finset.sum_fiberwise_of_maps_to (fun x hx => Finset.mem_range.mpr (h x (Finset.mem_range.mp hx))) b

/-- The slices together hold the bits of the log, each CTU's once. -/
theorem sum_logSlices (ns wc : Nat) (l : List CtuLog) : (logSlices ns wc l).sum = (l.map loggedBits).sum := by
  unfold logSlices
  split
  · next hnil =>
    rw [List.isEmpty_iff.mp hnil]
    rfl
  · rw [sum_bySlice fun x hx => Nat.lt_succ_of_le (sliceOf_mono ns wc (by omega : x ≤ l.length - 1))]
    refine congrArg List.sum (List.ext_getElem (by simp) fun i hi _ => ?_)
    have hlen : i < l.length := by simpa using hi
    simp [hlen, loggedBits]

theorem sum_logSlices_append (ns wc : Nat) (l : List CtuLog) (e : CtuLog) :
    (logSlices ns wc (l ++ [e])).sum = (logSlices ns wc l).sum + (e.hdr + e.cost) := by
  rw [sum_logSlices, sum_logSlices, List.map_append, List.sum_append]
  simp [loggedBits]

/-! ## The reserve -/

/-- Bits held back before CTU `x` of a furrow: its fallow reserve, or the reserve after the CTU before (R240). -/
def heldBack (f : Fmt) (ns rho k : Nat) (idr : Bool) (gdr : Option (Nat × Nat)) (x : Nat) : Nat :=
  if x = 0 then reserveOf f ns rho k idr gdr else reserveAfter f ns rho k (x - 1) idr gdr

/-- The most that a fallow CTU and the header of the slice it begins take (R240, R245). -/
def mostBits (f : Fmt) (ns rho k : Nat) (idr : Bool) (gdr : Option (Nat × Nat)) (x : Nat) : Nat :=
  (if firstOfSlice ns f.ctuCols x then 208 + rho else 0) + ceiling f x k (intraKind f idr gdr x) +
    (if lastOfSlice ns f.ctuCols x then 48 else 0)

section
variable {f : Fmt} {x : Nat} (k : Nat) (idr : Bool) (gdr : Option (Nat × Nat)) (hx : x < f.ctuCols)
include hx

theorem ceilingsFrom_of_lt :
    ceilingsFrom f k idr gdr x = ceiling f x k (intraKind f idr gdr x) + ceilingsFrom f k idr gdr (x + 1) := by
  rw [ceilingsFrom, ceilingsFrom, show f.ctuCols - x = f.ctuCols - (x + 1) + 1 by omega, List.range'_succ, List.map_cons, List.sum_cons]

/-- A CTU coded fallow, header and all, takes no more than the reserve gives up at it (R245). -/
theorem mostBits_le_heldBack {ns : Nat} (hns : 1 ≤ ns) (rho : Nat) :
    mostBits f ns rho k idr gdr x + reserveAfter f ns rho k x idr gdr ≤ heldBack f ns rho k idr gdr x := by
  have hceil := ceilingsFrom_of_lt k idr gdr hx
  have hle := sliceOf_le ns f.ctuCols x
  have hend : (if lastOfSlice ns f.ctuCols x then 48 else 0) + (if lastOfSlice ns f.ctuCols x then 0 else 48) = 48 := by split <;> rfl
  have hunits : ∀ {a b : Nat}, a + 1 ≤ b → (256 + rho) * a + (256 + rho) ≤ (256 + rho) * b := fun h => by
    rw [← Nat.mul_succ]
    exact Nat.mul_le_mul_left _ h
  unfold mostBits heldBack reserveAfter
  cases x with
  | zero =>
    have hslices := hunits (by omega : ns - 1 - sliceOf ns f.ctuCols 0 + 1 ≤ ns)
    rw [if_pos rfl, reserveOf, Nat.mul_comm ns]
    split <;> omega
  | succ y =>
    have hmono : sliceOf ns f.ctuCols y ≤ sliceOf ns f.ctuCols (y + 1) := sliceOf_mono ns f.ctuCols (Nat.le_succ y)
    have hfirst : firstOfSlice ns f.ctuCols (y + 1) = decide (sliceOf ns f.ctuCols y ≠ sliceOf ns f.ctuCols (y + 1)) := by
      simp [firstOfSlice]
    have hlast : lastOfSlice ns f.ctuCols y = decide (sliceOf ns f.ctuCols y ≠ sliceOf ns f.ctuCols (y + 1)) := by
      simp [lastOfSlice, hx.ne, eq_comm]
    rw [if_neg (Nat.succ_ne_zero y), Nat.add_sub_cancel, hfirst, hlast]
    by_cases hsame : sliceOf ns f.ctuCols y = sliceOf ns f.ctuCols (y + 1)
    · rw [decide_eq_false (not_not.mpr hsame), if_neg Bool.false_ne_true, if_neg Bool.false_ne_true, hsame]
      omega
    · have hslices := hunits (by omega : ns - 1 - sliceOf ns f.ctuCols (y + 1) + 1 ≤ ns - 1 - sliceOf ns f.ctuCols y)
      rw [decide_eq_true hsame, if_pos rfl, if_pos rfl]
      omega

end

/-! ## The words of a picture -/

/-- A picture sees the words of its channel's CH page as they stood at its boundary (R71). -/
theorem picG_chLoc (s : State) (ch : Nat) (p : Pic) {off : Nat} (hoff : off < 4096) :
    picG s ch p (chLoc ch off) = getW p.cfg (chLoc ch off) := by
  have hown : picOwn ch (chLoc ch off) = true := by
    rw [picOwn, chOwn, chLoc, ploc_div hoff]
    simp
  rw [picG, if_pos hown]
  rfl

theorem slicesPer_picG (s : State) (ch : Nat) (p : Pic) : slicesPer (picG s ch p) ch = slicesPer (getW p.cfg) ch := by
  rw [slicesPer, slicesPer, picG_chLoc s ch p (by decide)]

/-! ## CTUs -/

theorem ctuHeader_le (g : Nat → Word) (ch : Nat) (p : Pic) (k x : Nat) :
    ctuHeader g ch p k x ≤ if firstOfSlice (slicesPer g ch) (picFmt ch p).ctuCols x then 208 + p.rho else 0 := by
  unfold ctuHeader
  dsimp only
  split
  · rw [headerBits]
    omega
  · exact le_rfl

/-- A CTU coded fallow stays within its bound (R245). -/
theorem fallowCtu_cost_le (s : State) (ch : Nat) (p : Pic) (k x : Nat) :
    (fallowCtu s ch p k x).cost ≤ ctuBound (picG s ch p) ch p k x :=
  min_le_right _ _

theorem bits_fallowCtu_le (s : State) (ch : Nat) (p : Pic) (k x : Nat) : (fallowCtu s ch p k x).hdr + (fallowCtu s ch p k x).cost ≤
    mostBits (picFmt ch p) (slicesPer (picG s ch p) ch) p.rho k p.idr p.gdr x := by
  have hhdr := ctuHeader_le (picG s ch p) ch p k x
  have hcost := fallowCtu_cost_le s ch p k x
  rw [ctuBound] at hcost
  rw [mostBits]
  dsimp only [fallowCtu] at hhdr hcost ⊢
  omega

end Sys2Proof.Laws
end

section
/-! The headline of the drill (R242, R245): planting starts a furrow under its cap, and each CTU keeps it there. -/

namespace Sys2Proof.Laws

open Sys2Proof Sys2Proof.Machine

/-! ## Pictures in progress -/

theorem pic?_congr {s t : State} (h : t.chans = s.chans) (ch n : Nat) : pic? t ch n = pic? s ch n := by
  rw [pic?, chan, h]
  rfl

theorem raiseBit_chans (k i : Nat) (s : State) : (raiseBit k i s).chans = s.chans := by rw [raiseBit_frame]

theorem chans_wakeItems (s : State) : (wakeItems s).chans = s.chans := by
  refine WakeRel.wakeItems (R := fun s t => t.chans = s.chans) ⟨fun _ => rfl, fun h g => g.trans h, ?_, ?_, raiseBit_chans⟩ s
  · exact fun _ _ _ => rfl
  · exact fun _ _ _ _ => rfl

/-- A change of a furrow acts on the channels alone. -/
theorem chans_modFur_congr {s t : State} (h : t.chans = s.chans) (ch n k : Nat) (f : Fur → Fur) :
    (modFur ch n k f t).chans = (modFur ch n k f s).chans := by
  simp only [modFur, modPic, modChan, chan, h]

/-- The picture with furrow `k` replaced. -/
def withFur (k : Nat) (u : Fur) (p : Pic) : Pic := { p with furs := p.furs.set (fun _ => {}) k u }

@[simp] theorem fur_withFur (k : Nat) (u : Fur) (p : Pic) : fur (withFur k u p) k = u := Tbl.get_set_same ..

theorem pic?_modFur {s : State} {ch n : Nat} {p : Pic} (h : pic? s ch n = some p) (k : Nat) (f : Fur → Fur) :
    pic? (modFur ch n k f s) ch n = some (withFur k (f (fur p k)) p) := by
  have hn : p.n = n := by simpa using List.find?_some h
  refine (pic?_modPic (f := fun p => withFur k (f (fur p k)) p) (fun _ => rfl) ch n s ch n).trans ?_
  rw [if_pos rfl, h, Option.map_some, if_pos hn]

/-! ## The cap kept -/

/-- `UnderCap` of a furrow apart from its picture: what it has spent and what it holds back (R240, R245) are within its cap. -/
def Fits (f : Fmt) (ns : Nat) (p : Pic) (k : Nat) (u : Fur) : Prop :=
  u.log.length = u.ctus ∧ u.sliceBits = logSlices ns f.ctuCols u.log ∧
    (spendOf u : Int) + heldBack f ns p.rho k p.idr p.gdr u.ctus ≤ u.cap

theorem underCap_iff (g : Nat → Word) (ch : Nat) (p : Pic) (k : Nat) :
    UnderCap g ch p k ↔ Fits (picFmt ch p) (slicesPer g ch) p k (fur p k) := by
  unfold UnderCap Fits heldBack
  push_cast
  exact .rfl

theorem underCap_withFur {s t : State} {ch k : Nat} {p : Pic} {u : Fur} (h : Fits (picFmt ch p) (slicesPer (picG s ch p) ch) p k u) :
    UnderCap (picG t ch (withFur k u p)) ch (withFur k u p) k := by
  rw [slicesPer_picG] at h
  rw [underCap_iff, slicesPer_picG, fur_withFur]
  exact h

theorem Fits.spend_le_cap {f : Fmt} {ns k : Nat} {p : Pic} {u : Fur} (h : Fits f ns p k u) : (spendOf u : Int) ≤ u.cap := by
  obtain ⟨-, -, hcap⟩ := h
  omega

/-! ## Planting -/

section
variable {s : State} {ch k : Nat} {p : Pic}

/-- Planting fixes the furrow's cap (R242) and leaves what it has coded; the change is the one that `plantOp` makes. -/
theorem chans_plantOp (hfind : (chan s ch).pics.find? (fun p => !(fur p k).planted) = some p)
    (hcomplete : (fur p k).complete = true) (hk : k < (picFmt ch p).furrows) (horder : inOrder s ch p k (fun u => u.planted) = true) :
    ∃ f : Fur → Fur, (plantOp ch k s).chans = (modFur ch p.n k f s).chans ∧
      ∀ u, (f u).cap = min (capTerms (picG s ch p) ch p k).1 (min (capTerms (picG s ch p) ch p k).2.1 (capTerms (picG s ch p) ch p k).2.2) ∧
        (f u).log = u.log ∧ (f u).ctus = u.ctus ∧ (f u).sliceBits = u.sliceBits := by
  constructor
  constructor
  · rw [plantOp, hfind]
    dsimp only
    rw [hcomplete, horder, decide_eq_true hk]
    simp only [Bool.and_self, if_true, apply_ite State.chans, raiseBit_chans, bump_chans, ite_self]
    exact chans_modFur_congr (advance_chans ..) ..
  · exact fun _ => ⟨rfl, rfl, rfl, rfl⟩

end

/-! ## A CTU coded -/

section
variable {s : State} {ch k : Nat} {p : Pic}

theorem putCtu_chans (g : Nat → Word) (inp : RecIn) (y : CtuSyn) : (putCtu ch g p inp y s).chans = s.chans := rfl

/-- A logged CTU joins its furrow's log and slices; the cap stays. The change is the one that `logCtu` makes. -/
theorem chans_logCtu (x : Nat) (e : CtuLog) : ∃ f : Fur → Fur,
    (logCtu ch p k x e s).chans = (modFur ch p.n k f s).chans ∧
      ∀ u, (f u).log = u.log ++ [e] ∧ (f u).ctus = u.ctus + 1 ∧ (f u).cap = u.cap ∧
        (f u).sliceBits = logSlices (slicesPer (picG s ch p) ch) (picFmt ch p).ctuCols (u.log ++ [e]) := by
  constructor
  constructor
  · simp only [logCtu, apply_ite State.chans, raiseBit_chans, ite_self]
    exact chans_modFur_congr (putCtu_chans ..) ..
  · exact fun _ => ⟨rfl, rfl, rfl, rfl⟩

theorem chans_ctuOp (h : CodesNext s ch k p) :
    (ctuOp ch k s).chans = (logCtu ch p k (fur p k).ctus (codeCtu s ch p k) s).chans := by
  obtain ⟨hfind, -, hplanted, hx, hk, hmay, -⟩ := h
  rw [ctuOp, hfind]
  dsimp only
  rw [hplanted, decide_eq_true hx, decide_eq_true hk, hmay]
  simp only [Bool.and_self, if_true, apply_ite State.chans, raiseBit_chans, bump_chans, ite_self]

/-- The next CTU is coded normally only within its allowance (R245, R246), and fallow otherwise. -/
theorem codeCtu_within_or_fallow (hreserve : (drillCfg (picG s ch p) ch).reserve = true) (hcap : 0 ≤ (fur p k).cap) :
    (spendOf (fur p k) : Int) + (codeCtu s ch p k).hdr + (codeCtu s ch p k).cost +
        reserveAfter (picFmt ch p) (slicesPer (picG s ch p) ch) p.rho k (fur p k).ctus p.idr p.gdr ≤ (fur p k).cap ∨
      codeCtu s ch p k = fallowCtu s ch p k (fur p k).ctus := by
  unfold codeCtu
  extract_lets g f rs d u ns x e t a after held latched normal
  have hheld : 0 ≤ held :=
    ite_nonneg le_rfl (mul_nonneg (Int.natCast_nonneg _) (Int.ediv_nonneg hcap (Int.natCast_nonneg _)))
  split
  · next hnormal =>
    have hcost : (e.cost : Int) ≤ a - held := by
      have hd : d.reserve = true := hreserve
      simp only [normal, hd, Bool.not_true, Bool.false_or, Bool.and_eq_true, decide_eq_true_eq] at hnormal
      exact hnormal.2
    left
    change (spendOf u : Int) + e.hdr + e.cost + reserveAfter f ns p.rho k x p.idr p.gdr ≤ u.cap
    simp only [a, t] at hcost
    omega
  · exact .inr rfl

/-- What the next CTU takes, its slice's header included, leaves the reserve after it under the cap (R245). -/
theorem codeCtu_fits (hreserve : (drillCfg (picG s ch p) ch).reserve = true) (hns : 1 ≤ slicesPer (picG s ch p) ch)
    (hx : (fur p k).ctus < (picFmt ch p).ctuCols) (h : Fits (picFmt ch p) (slicesPer (picG s ch p) ch) p k (fur p k)) :
    (spendOf (fur p k) : Int) + (codeCtu s ch p k).hdr + (codeCtu s ch p k).cost +
      reserveAfter (picFmt ch p) (slicesPer (picG s ch p) ch) p.rho k (fur p k).ctus p.idr p.gdr ≤ (fur p k).cap := by
  obtain ⟨-, -, hcap⟩ := h
  have hpos : 0 ≤ (fur p k).cap := by omega
  rcases codeCtu_within_or_fallow hreserve hpos with hnormal | hfallow
  · exact hnormal
  · have hbits := bits_fallowCtu_le s ch p k (fur p k).ctus
    have hgives := mostBits_le_heldBack k p.idr p.gdr hx hns p.rho
    rw [hfallow]
    omega

/-- A furrow under its cap stays under it with its next CTU in the log. -/
theorem Fits.coded (hreserve : (drillCfg (picG s ch p) ch).reserve = true) (hns : 1 ≤ slicesPer (picG s ch p) ch)
    (hx : (fur p k).ctus < (picFmt ch p).ctuCols) (h : Fits (picFmt ch p) (slicesPer (picG s ch p) ch) p k (fur p k))
    {u : Fur} (hlog : u.log = (fur p k).log ++ [codeCtu s ch p k]) (hctus : u.ctus = (fur p k).ctus + 1) (hcap : u.cap = (fur p k).cap)
    (hslices : u.sliceBits = logSlices (slicesPer (picG s ch p) ch) (picFmt ch p).ctuCols ((fur p k).log ++ [codeCtu s ch p k])) :
    Fits (picFmt ch p) (slicesPer (picG s ch p) ch) p k u := by
  have hfits := codeCtu_fits hreserve hns hx h
  obtain ⟨hlen, hbits, -⟩ := h
  have hspend : spendOf u = spendOf (fur p k) + ((codeCtu s ch p k).hdr + (codeCtu s ch p k).cost) := by
    rw [spendOf, spendOf, hslices, hbits, sum_logSlices_append]
  refine ⟨by simp [hlog, hctus, hlen], hlog ▸ hslices, ?_⟩
  rw [hspend, hctus, hcap, heldBack, if_neg (Nat.succ_ne_zero _), Nat.add_sub_cancel]
  omega

end

/-- A furrow codes its next CTU also once the single-bit errors of a read are corrected. -/
theorem codesNext_of_readKept {s t : State} {ch k : Nat} {p : Pic} (hread : ReadKept s t) (h : CodesNext s ch k p) : CodesNext t ch k p := by
  rw [hread.reading]
  exact h

theorem exec_ctuCoded_of_codesNext {s : State} {ch k : Nat} {p : Pic} (hrun : inReset s = false) (hch : ch < 32 * dies s)
    (h : CodesNext s ch k p) : ∃ r, ReadKept s r ∧ exec (.ctuCoded ch k) s = .next (wakeItems (ctuOp ch k r)) := by
  obtain ⟨hfind, -, -, -, -, -, hitem, hsound⟩ := h
  refine ⟨correctIn (windowReads s ch p (fur p k).ctus k ++ inputReads s ch p k) s, readKept_correctIn ..,
    (atChannel_of_running hrun hch (codeNext ch k)).trans (congrArg _ ?_)⟩
  rw [codeNext, hfind]
  dsimp only
  rw [if_pos hitem, reading_of_sound hsound]

/-! ## The two commands -/

section
variable {s : State} {ch k : Nat} {p : Pic} (hrun : inReset s = false) (hch : ch < 32 * dies s)
include hrun hch

/-- A furrow with nothing coded is planted under a cap that holds its fallow reserve. -/
theorem exec_plantingInstant_underCap (hk : k < (picFmt ch p).furrows)
    (hfind : (chan s ch).pics.find? (fun p => !(fur p k).planted) = some p) (hpic : pic? s ch p.n = some p)
    (hcomplete : (fur p k).complete = true) (horder : inOrder s ch p k (fun u => u.planted) = true)
    (hlog : (fur p k).log = []) (hctus : (fur p k).ctus = 0) (hbits : (fur p k).sliceBits = [])
    (hcap : (reserveOf (picFmt ch p) (slicesPer (picG s ch p) ch) p.rho k p.idr p.gdr : Int) ≤
      min (capTerms (picG s ch p) ch p k).1 (min (capTerms (picG s ch p) ch p k).2.1 (capTerms (picG s ch p) ch p k).2.2)) :
    ∃ t q, exec (.plantingInstant ch k) s = .next t ∧ pic? t ch p.n = some q ∧ UnderCap (picG t ch q) ch q k := by
  obtain ⟨f, hchans, hf⟩ := chans_plantOp hfind hcomplete hk horder
  obtain ⟨hfcap, hflog, hfctus, hfbits⟩ := hf (fur p k)
  refine ⟨_, withFur k (f (fur p k)) p, exec_plantingInstant_of_running hrun hch k, ?_, underCap_withFur (s := s) ⟨?_, ?_, ?_⟩⟩
  · rw [pic?_congr (chans_wakeItems _), pic?_congr hchans, pic?_modFur hpic]
  · rw [hflog, hfctus, hlog, hctus]
    rfl
  · rw [hflog, hfbits, hlog, hbits]
    rfl
  · rw [spendOf, hfbits, hfctus, hfcap, hbits, hctus, heldBack, if_pos rfl, List.sum_nil]
    omega

/-- The next CTU of a furrow under its cap leaves it there. -/
theorem exec_ctuCoded_underCap (hreserve : (drillCfg (picG s ch p) ch).reserve = true) (hns : 1 ≤ slicesPer (picG s ch p) ch)
    (hnext : CodesNext s ch k p) (hunder : UnderCap (picG s ch p) ch p k) :
    ∃ t q, exec (.ctuCoded ch k) s = .next t ∧ pic? t ch p.n = some q ∧ UnderCap (picG t ch q) ch q k ∧
      (fur q k).ctus = (fur p k).ctus + 1 ∧ (spendOf (fur q k) : Int) ≤ (fur q k).cap := by
  obtain ⟨r, hread, hexec⟩ := exec_ctuCoded_of_codesNext hrun hch hnext
  have hwords : picG s ch p = picG r ch p := by
    rw [hread.reading]
    rfl
  rw [hwords] at hreserve hns hunder
  have hcodes := codesNext_of_readKept hread hnext
  have hop := chans_ctuOp hcodes
  obtain ⟨-, hpic, -, hx, -⟩ := hcodes
  obtain ⟨f, hchans, hf⟩ := chans_logCtu (s := r) (ch := ch) (k := k) (p := p) (fur p k).ctus (codeCtu r ch p k)
  obtain ⟨hflog, hfctus, hfcap, hfbits⟩ := hf (fur p k)
  have hfits := Fits.coded hreserve hns hx ((underCap_iff ..).mp hunder) hflog hfctus hfcap hfbits
  refine ⟨_, withFur k (f (fur p k)) p, hexec, ?_, underCap_withFur hfits, ?_, ?_⟩
  · rw [pic?_congr (chans_wakeItems _), pic?_congr hop, pic?_congr hchans, pic?_modFur hpic]
  · rw [fur_withFur, hfctus]
  · rw [fur_withFur]
    exact hfits.spend_le_cap

end

/-- Settles O28: a furrow planted with its fallow reserve fits its cap, and each CTU takes of the reserve no more than it gives up. -/
theorem spendStaysUnderTheCap : Obligations.SpendStaysUnderTheCap := by
  unfold Obligations.SpendStaysUnderTheCap
  intro ch k s p hrun hch hreserve hns _ hk
  exact ⟨exec_plantingInstant_underCap hrun hch hk, exec_ctuCoded_underCap hrun hch hreserve hns⟩

end Sys2Proof.Laws
end

section
/-! O24 fails in a state with an ill-formed work item, of a kind beyond the six of R271 (R266, R273): at a picture's due time its
concealment counts once, and the `wakeItems` that ends the command releases the item and so moves the count of the source's
concealed pictures once more. -/

namespace Sys2Proof.Laws

open Sys2Proof Sys2Proof.Machine

/-! ## What the decode sources leave alone -/

/-- From `s` to `t` a decode source of die `d` has moved on, with flags, with words of memory stored and with counters of other pages:
the counters of the die's `DEC` page stay. -/
structure DecKept (d : Nat) (s t : State) : Prop where
  frame : t = { s with time := t.time, pages := t.pages, ctrs := t.ctrs, decs := t.decs, poison := t.poison, broken := t.broken
                       soft := t.soft, ic := t.ic }
  counts : ∀ n, n < 128 → counter t (pgDec d) n = counter s (pgDec d) n

section
variable {d : Nat}

theorem DecKept.refl (s : State) : DecKept d s s := ⟨rfl, fun _ _ => rfl⟩

theorem DecKept.trans {s t u : State} (h : DecKept d s t) (g : DecKept d t u) : DecKept d s u where
  frame := by
    have moved := g.frame
    rw [h.frame] at moved
    exact moved
  counts n hn := (g.counts n hn).trans (h.counts n hn)

theorem DecKept.ite {s a b : State} {c : Prop} [Decidable c] (ha : DecKept d s a) (hb : DecKept d s b) :
    DecKept d s (if c then a else b) := by
  split
  · exact ha
  · exact hb

section
variable {s t : State} (h : DecKept d s t)
include h

theorem DecKept.advanced (x : Nat) : DecKept d s (advance x t) := h.trans ⟨rfl, fun _ _ => rfl⟩

theorem DecKept.sourced (n : Nat) (f : Dec → Dec) : DecKept d s (modDec d n f t) := h.trans ⟨rfl, fun _ _ => rfl⟩

theorem DecKept.paged (k : Nat) (f : PageHdr → PageHdr) : DecKept d s (modPage k f t) := h.trans ⟨rfl, fun _ _ => rfl⟩

theorem DecKept.raised (k i : Nat) : DecKept d s (raiseBit k i t) := by
  refine h.trans ⟨?_, fun n _ => counter_raiseBit ..⟩
  rw [raiseBit_frame]

/-- A counter of another page. -/
theorem DecKept.bumped {k : Nat} (hk : k ≠ pgDec d) {n : Nat} (hn : n < 128) (x : Nat) : DecKept d s (bump k n x t) :=
  h.trans ⟨rfl, fun m hm => by rw [counter_bump, if_neg (by omega)]⟩

end

theorem decKept_raiseN (k i n : Nat) (s : State) : DecKept d s (raiseN k i n s) :=
  .ite (.refl s) (((DecKept.refl s).raised k i).paged k _)

theorem decKept_concealFrom (n idx : Nat) (s : State) : DecKept d s (concealFrom d n idx s) :=
  .ite (((DecKept.refl s).sourced ..).raised ..) ((DecKept.refl s).sourced ..)

theorem pgMc_ne_pgDec (d e : Nat) : pgMc e ≠ pgDec d := by
  rw [pgMc, pgDec, pkey, pkey]
  omega

theorem decKept_storeWord {w : Nat} (hw : 32 * w < dramBytes) (e : Nat) (whole : Bool) (ev : EccEvent) (s : State) :
    DecKept d s (storeWord e w whole ev s) := by
  have hchan := fun m => channel_dramPlace_lt m hw
  unfold storeWord
  extract_lets bad fix met fixed counted
  have hmet : DecKept d s met :=
    .ite (.refl s) (.bumped (.refl s) (pgMc_ne_pgDec d e) (by have := hchan (mc s e).mapLive; omega) 32)
  have hfixed : DecKept d s fixed :=
    .ite ((hmet.raised _ 5).bumped (pgMc_ne_pgDec d e) (by decide) 1) hmet
  have hcounted : DecKept d s counted :=
    hfixed.bumped (pgMc_ne_pgDec d e) (by have := hchan (mc fixed e).mapLive; omega) 32
  exact hcounted.trans ⟨rfl, fun _ _ => rfl⟩

/-- Bytes stored within the usable memory (R294). -/
theorem DecKept.stored {s t : State} (h : DecKept d s t) {a n : Nat} (hn : a + n ≤ dramBytes) (e : Nat) :
    DecKept d s (storeWords e a n t) := by
  have hall : ∀ (ws : List Nat) (t : State), (∀ w ∈ ws, 32 * w < dramBytes) → DecKept d t (ws.foldl
      (fun s w => storeWord e w (decide (a ≤ 32 * w) && decide (32 * w + 32 ≤ a + n)) .clean s) t) := fun ws => by
    induction ws with
    | nil => exact fun t _ => .refl t
    | cons w ws ih =>
      exact fun t hws => (decKept_storeWord (hws w (List.mem_cons_self ..)) ..).trans
        (ih _ fun v hv => hws v (List.mem_cons_of_mem _ hv))
  refine h.trans (hall _ t fun w hw => ?_)
  obtain ⟨hpos, -, hlast⟩ := mem_wordsOf.mp hw
  omega

end

/-! ## The due time -/

/-- The stall of a decoding lies in usable memory (R258). -/
abbrev StallInMemory (c : DecCfg) (stall : Nat) : Prop := 4096 * c.base + 2 ^ 23 + stall * c.stallSize + c.stallSize ≤ dramBytes

/-- A concealed picture that is finished counts once at its source (R266): no other step of it moves a counter of the page. -/
theorem decFinish_of_bad {d n : Nat} {j : DecJob} {s : State} (hbad : j.bad = true)
    (hstall : StallInMemory (decCfg (effW s) d n) j.stall) :
    ∃ r, DecKept d s r ∧ decFinish d n j s = bump (pgDec d) (64 + n) 1 r := by
  unfold decFinish
  extract_lets c open' told hidden j' x p placed stored
  have htold : DecKept d s told := .ite ((DecKept.refl s).raised ..) (.refl s)
  have hhidden : DecKept d s hidden := .ite (htold.trans (decKept_concealFrom ..)) htold
  refine ⟨stored, (hhidden.sourced ..).stored hstall d, if_pos ?_⟩
  simp [j', hbad]

theorem dueTimeOp_eq {d n : Nat} {j : DecJob} {rest : List DecJob} {s : State} (hcurs : (dec s d n).curs = j :: rest) :
    dueTimeOp d n s = decFinish d n { j with hurt := true, bad := true }
      (raiseN (pgDec d) 1 j.left (concealFrom d n j.idx (advance (cdiv j.due.toNat 9) s))) := by
  rw [dueTimeOp, hcurs]

/-- At its due time a picture is finished concealed, whatever slices are left (R260, R266). -/
theorem dueTimeOp_of_decoding {d n : Nat} {j : DecJob} {rest : List DecJob} {s : State} (hcurs : (dec s d n).curs = j :: rest)
    (hstall : StallInMemory (decCfg (effW s) d n) j.stall) :
    ∃ r, DecKept d s r ∧ dueTimeOp d n s = bump (pgDec d) (64 + n) 1 r := by
  rw [dueTimeOp_eq hcurs]
  set lost := raiseN (pgDec d) 1 j.left (concealFrom d n j.idx (advance (cdiv j.due.toNat 9) s))
  have hkept : DecKept d s lost :=
    (((DecKept.refl s).advanced _).trans (decKept_concealFrom ..)).trans (decKept_raiseN ..)
  have heff : effW lost = effW s := by
    rw [hkept.frame]
    rfl
  obtain ⟨r, hr, hfinish⟩ := decFinish_of_bad (d := d) (n := n) (j := { j with hurt := true, bad := true }) (s := lost) rfl
    (by rw [heff]; exact hstall)
  exact ⟨r, hkept.trans hr, hfinish⟩

theorem exec_dueTime_of_running {s : State} {d n : Nat} (hrun : inReset s = false) (hd : d < dies s) (hn : n < 64) :
    exec (.dueTime d n) s = .next (wakeItems (dueTimeOp d n s)) := by
  change atDec d n s (dueTimeOp d n) = _
  rw [atDec, if_pos hn, atDie_of_running hrun hd]

/-! ## An ended item alone on its die -/

/-- Counters under one key are one counter. -/
theorem bump_congr {k n k' n' : Nat} (h : 128 * k + n = 128 * k' + n') (x : Nat) (s : State) : bump k n x s = bump k' n' x s := by
  rw [bump, bump, counter, counter, h]

theorem dsp_bump (k n x : Nat) (s : State) (d : Nat) : dsp (bump k n x s) d = dsp s d := rfl

section
variable {d : Nat} {i : Item} {s : State}

theorem noteUnits_of_idle (h : (dsp s d).busyFrom = []) : noteUnits d s = s := by
  refine List.foldl_fixed' (fun u => ?_) _
  dsimp only
  rw [h]
  rfl

theorem recordEnded_of_no_waits (h : (dsp s d).waits = []) (q : Nat × Nat × Nat × Nat × Nat → Bool) :
    recordEnded d q s = modDsp d (fun x => { x with waits := x.waits.filter (fun e => !q e.1) }) s := by
  rw [recordEnded, h]
  rfl

/-- Becoming ready counts nothing where no waiting time is to be recorded (R275, R283). -/
theorem noteReady_of_no_waits (h : (dsp s d).waits = []) : (noteReady d s).ctrs = s.ctrs ∧
    (dsp (noteReady d s) d).items = (dsp s d).items ∧ (dsp (noteReady d s) d).busyFrom = (dsp s d).busyFrom := by
  unfold noteReady
  dsimp only
  rw [recordEnded_of_no_waits h]
  refine ⟨rfl, ?_, ?_⟩ <;> rw [dsp_modDsp, if_pos rfl, dsp_modDsp, if_pos rfl]

theorem releaseItems_of_no_items (h : (dsp s d).items = []) (n : Nat) : releaseItems d n s = s := by
  cases n with
  | zero => rfl
  | succ n => rw [releaseItems, h]; rfl

/-- Its flow lets an ended item go whose owner has no work (R276), and its release counts by its kind (R273). -/
theorem releaseItems_alone (hitems : (dsp s d).items = [i]) (hended : i.ended = true) (hwork : ownerItems s d i.owner = []) (n : Nat) :
    releaseItems d (n + 1) s = bump (pgDsp d) (112 + i.kind) 1
      (modDsp d (fun x => { x with items := x.items.filter (fun j => decide (j.slot ≠ i.slot)), done := i.key :: x.done }) s) := by
  have hahead : flowAhead s d i = [] := by
    rw [flowAhead, hwork]
    rfl
  have hfind : (dsp s d).items.find? (fun i => i.ended && (flowAhead s d i).isEmpty) = some i := by
    rw [hitems, List.find?_cons_of_pos]
    rw [hended, hahead]
    rfl
  rw [releaseItems, hfind]
  refine releaseItems_of_no_items ?_ n
  rw [dsp_bump, dsp_modDsp, if_pos rfl, hitems]
  simp

/-- The die's work is taken up again: the item goes, counted by its kind, and no other counter moves. -/
theorem ctrs_wakeDie_alone (hdsp : dsp s d = { items := [i] }) (hended : i.ended = true) (hwork : ownerItems s d i.owner = []) :
    (wakeDie d s).ctrs = (bump (pgDsp d) (112 + i.kind) 1 s).ctrs := by
  unfold wakeDie
  extract_lets swept noted
  have hswept : dsp swept d = { items := [i] } := by
    have hsame : { i with ended := true } = i := by rw [← hended]
    rw [dsp_modDsp, if_pos rfl, hdsp]
    simp [hsame]
  have hrelease := releaseItems_alone (s := swept) (congrArg Dsp.items hswept) hended hwork 511
  have hdone : ∃ l, dsp (releaseItems d 512 swept) d = { items := [], done := l } := by
    rw [hrelease, dsp_bump, dsp_modDsp, if_pos rfl, hswept]
    exact ⟨[i.key], by simp⟩
  obtain ⟨l, hl⟩ := hdone
  obtain ⟨hctrs, hitems, hbusy⟩ := noteReady_of_no_waits (d := d) (s := releaseItems d 512 swept) (by rw [hl])
  have hnoted : noted = noteReady d (releaseItems d 512 swept) := noteUnits_of_idle (by rw [hbusy, hl])
  rw [hnoted, hitems, hl]
  change (noteReady d (releaseItems d 512 swept)).ctrs = _
  rw [hctrs, hrelease]
  rfl

end

/-! ## The part -/

/-- An access unit in decoding, with its one slice to come. -/
def dueJob : DecJob :=
  { no := 0, due := 0, idx := 0, width := 64, height := 64, ctu := 64, order := 0, isRef := false, stall := 0, hist := 0, data := []
    refs := [], good := [], slices := 1, left := 1, ruined := false, clean := false, told := false, hurt := false, bad := false }

/-- Source 0 of die 0 decodes it; the stray item's release advances counter 64 of the `DEC` page, the source's concealed pictures. -/
def duePart : State := { strayPart (pgDec 0) 64 with decs := [(0, { st := dsDecoding, curs := [dueJob] })] }

theorem decs_storeWords (d a n : Nat) (s : State) : (storeWords d a n s).decs = s.decs := by
  have hkept : AperKept s (storeWords d a n s) := .foldl (fun s w => aperKept_storeWord s d w _ .clean) _ s
  rw [hkept.frame]

/-- At the due time the source's count moves once. -/
theorem dueTimeOp_duePart : ∃ r, DecKept 0 duePart r ∧ dueTimeOp 0 0 duePart = bump (pgDec 0) 64 1 r :=
  dueTimeOp_of_decoding (j := dueJob) (rest := []) rfl (by decide)

/-- The picture is finished: its source has nothing in decoding. -/
theorem curs_dueTimeOp_duePart : (dueTimeOp 0 0 duePart).decs.map (fun e => (e.1, e.2.curs)) = [(0, [])] := by
  rw [dueTimeOp_eq (j := dueJob) (rest := []) rfl]
  unfold decFinish
  extract_lets c open' told hidden j x p placed stored
  rw [apply_ite State.decs, bump_decs, ite_self, decs_storeWords]
  decide

/-- Beside the counters, what the release of the stray item rests on is as it was. -/
theorem dsps_chans_dueTimeOp_duePart : (dueTimeOp 0 0 duePart).dsps = [(0, { items := [strayItem (pgDec 0) 64] })] ∧
    (dueTimeOp 0 0 duePart).chans = [] := by
  obtain ⟨r, hr, hdue⟩ := dueTimeOp_duePart
  rw [hdue, bump_dsps, bump_chans, hr.frame]
  exact ⟨rfl, rfl⟩

theorem ctrs_wakeItems_duePart :
    (wakeItems (dueTimeOp 0 0 duePart)).ctrs = (bump (pgDec 0) 64 1 (dueTimeOp 0 0 duePart)).ctrs := by
  obtain ⟨hdsps, hchans⟩ := dsps_chans_dueTimeOp_duePart
  obtain ⟨⟨m, x⟩, hdecs, hx⟩ := List.map_eq_singleton_iff.mp curs_dueTimeOp_duePart
  obtain ⟨rfl, hcurs⟩ := Prod.mk.inj hx
  generalize dueTimeOp 0 0 duePart = t at hdsps hchans hdecs ⊢
  have hwork : ownerItems t 0 32 = [] := by
    rw [ownerItems, if_neg (by decide), if_pos (by decide), dec, hdecs]
    exact congrArg (List.flatMap _) hcurs
  have hwake : wakeItems t = wakeDie 0 t := by
    have hdies : [0, 0].eraseDups = [0] := by decide
    rw [wakeItems, hdsps, hdecs, hchans]
    simp only [List.map_cons, List.map_nil, List.filter_nil, List.append_nil, List.cons_append, List.nil_append, Nat.zero_div, hdies,
      List.foldl_cons, List.foldl_nil]
  have hdsp : dsp t 0 = { items := [strayItem (pgDec 0) 64] } := by
    rw [dsp, hdsps]
    rfl
  rw [hwake, ctrs_wakeDie_alone hdsp rfl hwork, bump_congr (k' := pgDec 0) (n' := 64) (by decide)]

theorem counter_dueTime_duePart : counter (wakeItems (dueTimeOp 0 0 duePart)) (pgDec 0) 64 = 2 := by
  obtain ⟨r, hr, hdue⟩ := dueTimeOp_duePart
  have honce : counter (dueTimeOp 0 0 duePart) (pgDec 0) 64 = 1 := by
    rw [hdue, counter_bump, if_pos rfl, hr.counts _ (by decide)]
    rfl
  have htwice : counter (wakeItems (dueTimeOp 0 0 duePart)) (pgDec 0) 64 =
      counter (bump (pgDec 0) 64 1 (dueTimeOp 0 0 duePart)) (pgDec 0) 64 := by
    rw [counter, ctrs_wakeItems_duePart]
    rfl
  rw [htwice, counter_bump, if_pos rfl, honce]
  rfl

/-- Refutes O24: the picture's concealment counts once at its source, and the stray item's release counts once more on the same
counter. -/
theorem not_sourcesDecode : ¬ Obligations.SourcesDecode := by
  unfold Obligations.SourcesDecode
  intro sources
  obtain ⟨-, -, -, due⟩ := sources 0 0 duePart rfl (by decide) (by decide)
  obtain ⟨t, q, ht, -, -, -, -, -, hcounted, -⟩ := due dueJob [] rfl (by decide)
  rw [exec_dueTime_of_running rfl (by decide) (by decide)] at ht
  obtain rfl := Host.Outcome.next.inj ht
  exact not_counted_one (by decide) counter_dueTime_duePart hcounted

end Sys2Proof.Laws
end

section
/-! O31 fails in a state with an ill-formed work item (R273, R275, R278): a service that begins takes up the die's work again, which
releases the item and so moves the count of the engine's context switches once more. The clauses on an item that ends ask that item
to be of a kind of R271; the clause on service asks it of no item. A hypothesis that the kinds of the die's items, and of the
waiting times that it keeps, are 0 to 5 would shut such a state out. -/

namespace Sys2Proof.Laws

open Sys2Proof Sys2Proof.Machine

theorem exec_itemDispatch_of_running {s : State} {d u : Nat} (hrun : inReset s = false) (hd : d < dies s) (hu : u < 11) (at_ : Nat) :
    exec (.itemDispatch d u at_) s = .next (dispatchOp d u at_ s) := by
  change execItemDispatch d u at_ s = _
  rw [execItemDispatch, if_pos hu, atDie_of_running hrun hd]

/-- An ANALYSE item that waits for engine 0, the one engine of its MASK. -/
def analyseItem : Item :=
  { slot := 1, owner := 0, kind := kAnalyse, ch := 0, n := 0, furrow := 0, idx := 0, mask := 1, ready := some 0, queue := 0
    deadline := 0, unit := none, startAt := 0, ended := false }

/-- A part whose engine 0 of die 0 has served no channel yet; the stray item's release advances counter 5 of its `CE` page, the
context switches. -/
def analysePart : State :=
  { strayPart (pgCe 0 0) 5 with dsps := [(0, { items := [analyseItem, strayItem (pgCe 0 0) 5] })] }

theorem counter_dispatchOp_analysePart : counter (dispatchOp 0 0 0 analysePart) (pgCe 0 0) 5 = 2 := by decide

/-- Refutes O31: the context switch counts once at its engine, and the stray item's release counts once more on the same counter. -/
theorem not_itemsFlowThroughTheDispatcher : ¬ Obligations.ItemsFlowThroughTheDispatcher := by
  unfold Obligations.ItemsFlowThroughTheDispatcher
  intro dispatcher
  obtain ⟨-, -, -, service, -⟩ := dispatcher 0 analysePart rfl (by decide)
  obtain ⟨t, ht, -, -, -, -, -, -, -, -, -, hswitched, -⟩ := service 0 0 analyseItem (by decide) (by decide) (by decide)
  rw [exec_itemDispatch_of_running rfl (by decide) (by decide)] at ht
  obtain rfl := Host.Outcome.next.inj ht
  exact not_counted_one (by decide) counter_dispatchOp_analysePart (hswitched (by decide) (by decide))

end Sys2Proof.Laws
end

section
/-! Refresh of a memory channel (R301, R302): what is owed, postponed, repaid and issued. -/

namespace Sys2Proof.Laws

open Sys2Proof Sys2Proof.Machine

/-! ## Counts and bits -/

theorem counted_bump_same (k n x : Nat) (s : State) : Counted k n x s (bump k n x s) := by rw [Counted, counter_bump, if_pos rfl]

/-- Counts of two steps add up. -/
theorem counted_trans {k n x y : Nat} {s t u : State} (h : Counted k n x s t) (g : Counted k n y t u) : Counted k n (x + y) s u := by
  rw [Counted, BitVec.ofNat_add, ← BitVec.add_assoc, ← h]
  exact g

/-- A count holds whatever leaves the counter as it is afterwards. -/
theorem counted_of_kept {k n x : Nat} {s t u : State} (h : Counted k n x s t) (hkept : counter u k n = counter t k n) :
    Counted k n x s u := hkept.trans h

/-- A count holds whatever leaves the counter as it is before. -/
theorem counted_after_kept {k n x : Nat} {s t u : State} (hkept : counter t k n = counter s k n) (h : Counted k n x t u) :
    Counted k n x s u := by
  rw [Counted, ← hkept]
  exact h

/-! ## Channels of a controller -/

theorem mc_bump (k n x : Nat) (s : State) (e : Nat) : mc (bump k n x s) e = mc s e := rfl

theorem page_bump (k n x : Nat) (s : State) (j : Nat) : page (bump k n x s) j = page s j := rfl

theorem mc_raiseBit (k i : Nat) (s : State) (e : Nat) : mc (raiseBit k i s) e = mc s e := by
  rw [raiseBit_frame]
  rfl

theorem mch_modMch (d i : Nat) (f : Mch → Mch) (s : State) (j : Nat) :
    mch (mc (modMch d i f s) d) j = Function.update (mch (mc s d)) i (f (mch (mc s d) i)) j := by
  rw [modMch, mc_modMc, if_pos rfl, Function.update_apply]
  exact Tbl.get_set ..

theorem frame_bump {s t : State} (h : t = { s with ctrs := t.ctrs, mcs := t.mcs }) (k n x : Nat) :
    bump k n x t = { s with ctrs := (bump k n x t).ctrs, mcs := t.mcs } :=
  congrArg (fun u : State => { u with ctrs := (bump k n x t).ctrs }) h

/-- From `s` to `t` the memory channels of die `d` become those of `f` and `n` refresh commands count as issued; nothing else has
moved. -/
structure Refreshed (d : Nat) (f : Nat → Mch) (n : Nat) (s t : State) : Prop where
  frame : t = { s with ctrs := t.ctrs, mcs := t.mcs }
  die : mc t d = { mc s d with mchs := (mc t d).mchs }
  chans : ∀ j, mch (mc t d) j = f j
  others : ∀ e, e ≠ d → mc t e = mc s e
  issued : Counted (pgMc d) 3 n s t
  counts : ∀ k m, 128 * k + m ≠ 128 * pgMc d + 3 → counter t k m = counter s k m

section
variable {d i : Nat} {s : State}

theorem Refreshed.refl (d : Nat) (s : State) : Refreshed d (mch (mc s d)) 0 s s :=
  ⟨rfl, rfl, fun _ => rfl, fun _ _ => rfl, (BitVec.add_zero _).symm, fun _ _ _ => rfl⟩

theorem Refreshed.trans {f g : Nat → Mch} {n m : Nat} {t u : State} (h : Refreshed d f n s t) (h' : Refreshed d g m t u) :
    Refreshed d g (n + m) s u where
  frame := h'.frame.trans (congrArg (fun x : State => { x with ctrs := u.ctrs, mcs := u.mcs }) h.frame)
  die := h'.die.trans (congrArg (fun x : Mc => { x with mchs := (mc u d).mchs }) h.die)
  chans := h'.chans
  others e he := (h'.others e he).trans (h.others e he)
  issued := counted_trans h.issued h'.issued
  counts k m hk := (h'.counts k m hk).trans (h.counts k m hk)

/-- What refresh moves, from a state before that differs in counters and controllers alone. -/
theorem Refreshed.frame_from {f : Nat → Mch} {n : Nat} {r t : State} (h : Refreshed d f n s t)
    (hs : s = { r with ctrs := s.ctrs, mcs := s.mcs }) : t = { r with ctrs := t.ctrs, mcs := t.mcs } :=
  h.frame.trans (congrArg (fun x : State => { x with ctrs := t.ctrs, mcs := t.mcs }) hs)

theorem Refreshed.chans_eq {f : Nat → Mch} {n : Nat} {t : State} (h : Refreshed d f n s t) : mch (mc t d) = f := funext h.chans

theorem Refreshed.panic {f : Nat → Mch} {n : Nat} {t : State} (h : Refreshed d f n s t) : (mc t d).panic = (mc s d).panic := by
  rw [h.die]

theorem Refreshed.portLevel {f : Nat → Mch} {n : Nat} {t : State} (h : Refreshed d f n s t) (p : Nat) :
    portLevel (mc t d) p = portLevel (mc s d) p := by
  rw [h.die]
  rfl

theorem refreshed_modMch (d i : Nat) (f : Mch → Mch) (s : State) :
    Refreshed d (Function.update (mch (mc s d)) i (f (mch (mc s d) i))) 0 s (modMch d i f s) where
  frame := rfl
  die := by rw [modMch, mc_modMc, if_pos rfl]
  chans := mch_modMch d i f s
  others e he := by rw [modMch, mc_modMc, if_neg he]
  issued := (BitVec.add_zero _).symm
  counts _ _ _ := rfl

theorem refreshed_issue (d n : Nat) (s : State) : Refreshed d (mch (mc s d)) n s (bump (pgMc d) 3 n s) :=
  ⟨rfl, rfl, fun _ => rfl, fun _ _ => rfl, counted_bump_same .., fun _ _ h => by rw [counter_bump, if_neg h]⟩

/-! ## Owed commands -/

theorem payDue_of_idle (h : (mch (mc s d) i).paying = false) : payDue d i s = s := if_pos (by simp [h])

/-- The owed commands that a repayment has had time to issue. -/
def payable (x : Mch) : Nat := min x.debt (cdiv x.payFor 90 - x.paid)

/-- A channel after a repayment has issued what it had time for. -/
def payUp (x : Mch) : Mch := { x with debt := x.debt - payable x, paid := x.paid + payable x, paying := decide (payable x < x.debt) }

theorem refreshed_payDue (h : (mch (mc s d) i).paying = true) :
    Refreshed d (Function.update (mch (mc s d)) i (payUp (mch (mc s d) i))) (payable (mch (mc s d) i)) s (payDue d i s) := by
  have hpays : payDue d i s = bump (pgMc d) 3 (payable (mch (mc s d) i)) (modMch d i payUp s) := by
    rw [payDue, if_neg (by simp [h])]
    rfl
  have hmoved := refreshed_modMch d i payUp s
  rw [hpays, ← Nat.zero_add (payable _)]
  refine hmoved.trans ?_
  rw [Nat.zero_add, ← hmoved.chans_eq]
  exact refreshed_issue ..

/-- The channel as the next command falls due: a repayment has gone on for one more interval. -/
def awaited (x : Mch) : Mch := { x with payFor := x.payFor + (if x.paying then refreshEvery x.rate else 0) }

/-- The part as a command falls due, with what the repayment in between has issued. -/
def paidUp (d i : Nat) (s : State) : State := payDue d i (modMch d i awaited s)

theorem refreshDue_eq (d i : Nat) (s : State) : refreshDue d i s =
    if (mch (mc (paidUp d i s) d) i).rate = 0 ∧ (mc (paidUp d i s) d).panic ≠ [] ∧ (mch (mc (paidUp d i s) d) i).debt < 8 then
      bump (pgMc d) 4 1 (modMch d i (fun x => { x with debt := x.debt + 1 }) (paidUp d i s))
    else if (mch (mc (paidUp d i s) d) i).paying then modMch d i (fun x => { x with debt := x.debt + 1 }) (paidUp d i s)
    else bump (pgMc d) 3 1 (paidUp d i s) := rfl

theorem refreshed_paidUp_of_idle (h : (mch (mc s d) i).paying = false) : Refreshed d (mch (mc s d)) 0 s (paidUp d i s) := by
  have hsame : awaited (mch (mc s d) i) = mch (mc s d) i := by
    rw [awaited, if_neg (by simp [h])]
    rfl
  have hmoved := refreshed_modMch d i awaited s
  rw [hsame, Function.update_eq_self] at hmoved
  rw [paidUp, payDue_of_idle (by rw [hmoved.chans, h])]
  exact hmoved

theorem refreshed_paidUp_of_paying (h : (mch (mc s d) i).paying = true) :
    Refreshed d (Function.update (mch (mc s d)) i (payUp (awaited (mch (mc s d) i)))) (payable (awaited (mch (mc s d) i))) s
      (paidUp d i s) := by
  have hmoved := refreshed_modMch d i awaited s
  have hchan : mch (mc (modMch d i awaited s) d) i = awaited (mch (mc s d) i) := by rw [hmoved.chans, Function.update_self]
  have hpaid := hmoved.trans (refreshed_payDue (d := d) (i := i) (s := modMch d i awaited s) (by rw [hchan]; exact h))
  rw [hchan, hmoved.chans_eq, Function.update_idem, Nat.zero_add] at hpaid
  exact hpaid

/-! ## A command that falls due (R302) -/

/-- At 1×, with a port in panic and a debt below 8, the command waits. -/
theorem refreshDue_postponed (hrate : (mch (mc s d) i).rate = 0) (hpanic : (mc s d).panic ≠ []) (hdebt : (mch (mc s d) i).debt < 8)
    (hidle : (mch (mc s d) i).paying = false) :
    Counted (pgMc d) 4 1 s (refreshDue d i s) ∧
      (∀ j, mch (mc (refreshDue d i s) d) j =
        if j = i then { mch (mc s d) i with debt := (mch (mc s d) i).debt + 1 } else mch (mc s d) j) ∧
      (∀ e, e ≠ d → mc (refreshDue d i s) e = mc s e) ∧
      refreshDue d i s = { s with ctrs := (refreshDue d i s).ctrs, mcs := (refreshDue d i s).mcs } := by
  have hpaid := refreshed_paidUp_of_idle hidle
  have howed := hpaid.trans (refreshed_modMch d i (fun x => { x with debt := x.debt + 1 }) (paidUp d i s))
  have hwaits : refreshDue d i s = bump (pgMc d) 4 1 (modMch d i (fun x => { x with debt := x.debt + 1 }) (paidUp d i s)) := by
    rw [refreshDue_eq, if_pos (by rw [hpaid.chans, hpaid.panic]; exact ⟨hrate, hpanic, hdebt⟩)]
  rw [hwaits]
  refine ⟨counted_after_kept (howed.counts _ _ (by omega)) (counted_bump_same ..), fun j => ?_, fun e he => ?_, ?_⟩
  · rw [mc_bump, howed.chans, hpaid.chans_eq, Function.update_apply]
  · rw [mc_bump, howed.others e he]
  · exact frame_bump howed.frame (pgMc d) 4 1

/-- With nothing being repaid, a command that may not wait is issued. -/
theorem refreshed_refreshDue_of_idle (hidle : (mch (mc s d) i).paying = false)
    (hmust : 0 < (mch (mc s d) i).rate ∨ (mc s d).panic = [] ∨ 8 ≤ (mch (mc s d) i).debt) :
    Refreshed d (mch (mc s d)) 1 s (refreshDue d i s) := by
  have hpaid := refreshed_paidUp_of_idle hidle
  have hdue : ¬((mch (mc s d) i).rate = 0 ∧ (mc s d).panic ≠ [] ∧ (mch (mc s d) i).debt < 8) := by
    rintro ⟨hrate, hpanic, hdebt⟩
    obtain h | h | h := hmust
    · omega
    · exact hpanic h
    · omega
  have hnow : refreshDue d i s = bump (pgMc d) 3 1 (paidUp d i s) := by
    rw [refreshDue_eq, hpaid.chans, hpaid.panic, if_neg hdue, if_neg (by simp [hidle])]
  have hissued := refreshed_issue d 1 (paidUp d i s)
  rw [hpaid.chans_eq] at hissued
  rw [hnow]
  exact hpaid.trans hissued

section
variable {x : Mch} (hx : mch (mc s d) i = x) (hpaying : x.paying = true) (hmust : 0 < x.rate ∨ (mc s d).panic = []) {n : Nat}
  (hn : n = cdiv (x.payFor + refreshEvery x.rate) 90 - x.paid)

include hpaying hn in
theorem payable_awaited : payable (awaited x) = min x.debt n := by simp [payable, awaited, hpaying, hn]

include hmust in
theorem not_postponed_of_repaying (hpaid : Refreshed d (Function.update (mch (mc s d)) i (payUp (awaited x))) n s (paidUp d i s)) :
    ¬((mch (mc (paidUp d i s) d) i).rate = 0 ∧ (mc (paidUp d i s) d).panic ≠ [] ∧ (mch (mc (paidUp d i s) d) i).debt < 8) := by
  rw [hpaid.chans, Function.update_self, hpaid.panic]
  rintro ⟨hrate, hpanic, -⟩
  obtain h | h := hmust
  · exact Nat.ne_of_gt h hrate
  · exact hpanic h

include hx hpaying hmust hn

/-- A command that falls due while more is owed than has been repaid joins the repayment at its end. -/
theorem refreshed_refreshDue_of_owing (howing : n < x.debt) : Refreshed d
    (Function.update (mch (mc s d)) i { payUp (awaited x) with debt := x.debt - n + 1 }) n s (refreshDue d i s) ∧
      (payUp (awaited x)).paying = true := by
  have hissued : payable (awaited x) = n := by rw [payable_awaited hpaying hn, Nat.min_eq_right howing.le]
  have hpaid := refreshed_paidUp_of_paying (d := d) (i := i) (s := s) (by rw [hx, hpaying])
  rw [hx, hissued] at hpaid
  have hchan : mch (mc (paidUp d i s) d) i = payUp (awaited x) := by rw [hpaid.chans, Function.update_self]
  have hgoes : (payUp (awaited x)).paying = true := decide_eq_true (by rw [hissued]; exact howing)
  have hleft : (payUp (awaited x)).debt = x.debt - n := congrArg (x.debt - ·) hissued
  have hjoined := hpaid.trans (refreshed_modMch d i (fun x => { x with debt := x.debt + 1 }) (paidUp d i s))
  rw [hchan, hleft, hpaid.chans_eq, Function.update_idem] at hjoined
  rw [refreshDue_eq, if_neg (not_postponed_of_repaying hmust hpaid), if_pos (by rw [hchan, hgoes])]
  exact ⟨hjoined, hgoes⟩

/-- A command that falls due when all has been repaid ends the repayment and is issued. -/
theorem refreshed_refreshDue_of_repaid (hrepaid : x.debt ≤ n) : Refreshed d
    (Function.update (mch (mc s d)) i (payUp (awaited x))) (x.debt + 1) s (refreshDue d i s) ∧
      (payUp (awaited x)).debt = 0 ∧ (payUp (awaited x)).paying = false := by
  have hissued : payable (awaited x) = x.debt := by rw [payable_awaited hpaying hn, Nat.min_eq_left hrepaid]
  have hpaid := refreshed_paidUp_of_paying (d := d) (i := i) (s := s) (by rw [hx, hpaying])
  rw [hx, hissued] at hpaid
  have hchan : mch (mc (paidUp d i s) d) i = payUp (awaited x) := by rw [hpaid.chans, Function.update_self]
  have hends : (payUp (awaited x)).paying = false := decide_eq_false (by rw [hissued]; exact Nat.lt_irrefl _)
  have hleft : (payUp (awaited x)).debt = 0 := (congrArg (x.debt - ·) hissued).trans (Nat.sub_self _)
  have hnow := refreshed_issue d 1 (paidUp d i s)
  rw [hpaid.chans_eq] at hnow
  rw [refreshDue_eq, if_neg (not_postponed_of_repaying hmust hpaid), if_neg (by rw [hchan, hends]; decide)]
  exact ⟨hpaid.trans hnow, hleft, hends⟩

end

/-! ## The start of a repayment (R302, R304) -/

/-- Something is owed on the channel and not yet being repaid. -/
def owesUnpaid (x : Mch) : Bool := decide (0 < x.debt) && !x.paying

theorem owesUnpaid_iff {x : Mch} : owesUnpaid x = true ↔ 0 < x.debt ∧ x.paying = false := by simp [owesUnpaid]

/-- The channel with a repayment begun, of which nothing has been issued. -/
def opened (x : Mch) : Mch := { x with paying := true, payFor := 1, paid := 0 }

/-- The channel as its repayment begins: the first owed command is issued at once. -/
def begun (x : Mch) : Mch := if owesUnpaid x then payUp (opened x) else x

theorem begun_rate (x : Mch) : (begun x).rate = x.rate := by unfold begun; split <;> rfl

theorem payable_opened {x : Mch} (h : owesUnpaid x = true) : payable (opened x) = 1 := by
  obtain ⟨howed, -⟩ := owesUnpaid_iff.mp h
  have hone : cdiv 1 90 - 0 = 1 := by decide
  rw [payable, opened, hone]
  exact Nat.min_eq_right howed

theorem begun_debt (x : Mch) : (begun x).debt = if x.paying = false then x.debt - 1 else x.debt := by
  unfold begun
  split
  · next h =>
    obtain ⟨-, hidle⟩ := owesUnpaid_iff.mp h
    rw [if_pos hidle]
    exact congrArg (x.debt - ·) (payable_opened h)
  · next h =>
    rw [owesUnpaid_iff] at h
    split
    · next hidle => rw [show x.debt = 0 from Nat.eq_zero_of_not_pos fun howed => h ⟨howed, hidle⟩]
    · rfl

theorem refreshed_startPaying (d i : Nat) (s : State) :
    Refreshed d (Function.update (mch (mc s d)) i (begun (mch (mc s d) i))) (owesUnpaid (mch (mc s d) i)).toNat s (startPaying d i s) := by
  cases howes : owesUnpaid (mch (mc s d) i) with
  | false =>
    have hstays : startPaying d i s = s := if_pos (by simpa [owesUnpaid, Nat.pos_iff_ne_zero, imp_iff_not_or] using howes)
    rw [hstays, begun, howes, if_neg (by decide), Function.update_eq_self]
    exact .refl d s
  | true =>
    have hbegins : startPaying d i s = payDue d i (modMch d i opened s) :=
      if_neg (by simpa [owesUnpaid, Nat.pos_iff_ne_zero] using howes)
    have hopened := refreshed_modMch d i opened s
    have hpaid := hopened.trans (refreshed_payDue (d := d) (i := i) (by rw [hopened.chans, Function.update_self]; rfl))
    rw [hopened.chans_eq, Function.update_self, Function.update_idem, payable_opened howes] at hpaid
    rw [hbegins, begun, if_pos howes]
    exact hpaid

/-- Every channel that owes begins to repay. -/
theorem refreshed_foldl_startPaying (d n : Nat) (s : State) :
    Refreshed d (fun j => if j < n then begun (mch (mc s d) j) else mch (mc s d) j)
      ((List.range n).filter fun i => owesUnpaid (mch (mc s d) i)).length s
      ((List.range n).foldl (fun s i => startPaying d i s) s) := by
  induction n with
  | zero => simpa using Refreshed.refl d s
  | succ n ih =>
    have hlast := ih.trans (refreshed_startPaying d n _)
    simp only [ih.chans_eq, Nat.lt_irrefl, if_false] at hlast
    rw [List.range_succ, List.foldl_append, List.filter_append, List.length_append]
    have hchans : (fun j => if j < n + 1 then begun (mch (mc s d) j) else mch (mc s d) j) =
        Function.update (fun j => if j < n then begun (mch (mc s d) j) else mch (mc s d) j) n (begun (mch (mc s d) n)) := by
      funext j
      rw [Function.update_apply]
      by_cases hj : j = n
      · simp [hj]
      · simp [hj, show j < n + 1 ↔ j < n by omega]
    rw [hchans]
    have hcount : (List.filter (fun i => owesUnpaid (mch (mc s d) i)) [n]).length = (owesUnpaid (mch (mc s d) n)).toNat := by
      cases howes : owesUnpaid (mch (mc s d) n) <;> simp [howes]
    rw [hcount]
    exact hlast

/-- Owed commands are no longer issued back to back at 1×. -/
theorem refreshed_stopPaying (d : Nat) (s : State) : ∃ f, Refreshed d f 0 s (stopPaying d s) := by
  unfold stopPaying
  induction List.range 16 generalizing s with
  | nil => exact ⟨_, .refl d s⟩
  | cons i l ih =>
    rw [List.foldl_cons]
    split
    · obtain ⟨f, h⟩ := ih (modMch d i (fun x => { x with paying := false }) s)
      exact ⟨f, (refreshed_modMch ..).trans h⟩
    · exact ih s

end

end Sys2Proof.Laws
end

section
/-! Levels of the real-time ports and panic (R298–R300). -/

namespace Sys2Proof.Laws

open Sys2Proof Sys2Proof.Machine

/-! ## Events of a memory controller -/

/-- From `s` to `t` no more than memory controllers, flags, counters and messages have moved. -/
def OnMc (s t : State) : Prop := t = { s with pages := t.pages, ctrs := t.ctrs, mcs := t.mcs, ic := t.ic }

theorem OnMc.refl (s : State) : OnMc s s := rfl

theorem OnMc.trans {s t u : State} (h : OnMc s t) (g : OnMc t u) : OnMc s u :=
  Eq.trans g (congrArg (fun x : State => { x with pages := u.pages, ctrs := u.ctrs, mcs := u.mcs, ic := u.ic }) h)

theorem OnMc.bumped {s t : State} (h : OnMc s t) (k n x : Nat) : OnMc s (bump k n x t) := h.trans rfl

theorem OnMc.raised {s t : State} (h : OnMc s t) (k i : Nat) : OnMc s (raiseBit k i t) := by
  refine h.trans ?_
  rw [OnMc, raiseBit_frame]

theorem OnMc.modMc {s t : State} (h : OnMc s t) (d : Nat) (f : Mc → Mc) : OnMc s (modMc d f t) := h.trans rfl

theorem Refreshed.onMc {d n : Nat} {f : Nat → Mch} {s t : State} (h : Refreshed d f n s t) : OnMc s t :=
  h.frame.trans (by rw [h.frame])

theorem struck_congr {k i : Nat} {s s' t t' : State} (hs : s'.pages = s.pages) (ht : t'.pages = t.pages) (h : Struck k i s t) :
    Struck k i s' t' := by
  rw [Struck, page, page, hs, ht]
  exact h

theorem bitOf_of_struck {k i : Nat} (hi : i < 32) {s t : State} (h : Struck k i s t) : bitOf (page t k).stat i = true := by
  rw [h.1, BitVec.or_comm]
  refine bitOf_or ?_
  rw [bitOf_bitW hi, decide_eq_true rfl]

theorem bitOf_raiseBit (k : Nat) {i : Nat} (hi : i < 32) (s : State) : bitOf (page (raiseBit k i s) k).stat i = true :=
  bitOf_of_struck hi (struck_raiseBit k hi s)

/-! ## A level -/

section
variable (d p l : Nat) (s : State)

theorem mc_setLevel : mc (setLevel d p l s) d =
    { mc s d with level := (mc s d).level.set (fun _ => 0x8000) p (min l 0x8000) } := by
  rw [setLevel, mc_modMc, if_pos rfl]

theorem portLevel_setLevel : portLevel (mc (setLevel d p l s) d) p = min l 0x8000 := by
  rw [mc_setLevel]
  exact Tbl.get_set_same ..

theorem watermark_setLevel : watermark (mc (setLevel d p l s) d) p = watermark (mc s d) p := by
  rw [mc_setLevel]
  rfl

theorem panic_setLevel : (mc (setLevel d p l s) d).panic = (mc s d).panic := by rw [mc_setLevel]

theorem mch_setLevel : mch (mc (setLevel d p l s) d) = mch (mc s d) := by
  rw [mc_setLevel]
  rfl

/-- Port `p` enters panic. -/
def panicIn : State :=
  bump (pgMc d) (16 + p) 1 (raiseBit (pgMc d) 0 (modMc d (fun m => { m with panic := NSet.add m.panic p }) s))

/-- Port `p` is out of panic. -/
def panicOut : State := modMc d (fun m => { m with panic := NSet.del m.panic p }) s

theorem mc_panicIn : mc (panicIn d p s) d = { mc s d with panic := NSet.add (mc s d).panic p } := by
  rw [panicIn, mc_bump, mc_raiseBit, mc_modMc, if_pos rfl]

theorem struck_panicIn : Struck (pgMc d) 0 s (panicIn d p s) :=
  struck_congr rfl rfl (struck_raiseBit (pgMc d) (by decide) (modMc d (fun m => { m with panic := NSet.add m.panic p }) s))

theorem counted_panicIn : Counted (pgMc d) (16 + p) 1 s (panicIn d p s) := by
  rw [Counted, panicIn, counter_bump, if_pos rfl, counter_raiseBit]
  rfl

theorem counter_setLevel (k m : Nat) : counter (setLevel d p l s) k m = counter s k m := rfl

theorem counter_panicOut_setLevel (k m : Nat) : counter (panicOut d p (setLevel d p l s)) k m = counter s k m := rfl

theorem mc_panicOut : mc (panicOut d p s) d = { mc s d with panic := NSet.del (mc s d).panic p } := by
  rw [panicOut, mc_modMc, if_pos rfl]

end

section
variable {d p l : Nat} {s : State}

theorem levelTo_of_steady (h : (p ∉ (mc s d).panic ∧ 512 * watermark (mc s d) p ≤ min l 0x8000) ∨
    (p ∈ (mc s d).panic ∧ min l 0x8000 < 1024 * watermark (mc s d) p)) : levelTo d p l s = setLevel d p l s := by
  unfold levelTo
  simp only [panic_setLevel, watermark_setLevel, portLevel_setLevel, List.contains_iff_mem]
  obtain ⟨hout, hlevel⟩ | ⟨hin, hlevel⟩ := h
  · rw [if_neg hout, if_neg (by omega)]
  · rw [if_pos hin, if_neg (by omega)]

theorem levelTo_of_entry (hout : p ∉ (mc s d).panic) (hlow : min l 0x8000 < 512 * watermark (mc s d) p) :
    levelTo d p l s = stopPaying d (panicIn d p (setLevel d p l s)) := by
  unfold levelTo
  simp only [panic_setLevel, watermark_setLevel, portLevel_setLevel, List.contains_iff_mem]
  rw [if_neg hout, if_pos (by omega)]
  rfl

theorem levelTo_of_exit (hin : p ∈ (mc s d).panic) (hhigh : 1024 * watermark (mc s d) p ≤ min l 0x8000) :
    levelTo d p l s = if (mc (panicOut d p (setLevel d p l s)) d).panic = []
      then (List.range 16).foldl (fun s i => startPaying d i s) (panicOut d p (setLevel d p l s))
      else panicOut d p (setLevel d p l s) := by
  unfold levelTo
  simp only [panic_setLevel, watermark_setLevel, portLevel_setLevel, List.contains_iff_mem]
  rw [if_pos hin, if_pos (by omega)]
  rfl

/-! ## A level below the watermark -/

theorem entered_levelTo (hout : p ∉ (mc s d).panic) (hlow : min l 0x8000 < 512 * watermark (mc s d) p) :
    portLevel (mc (levelTo d p l s) d) p = min l 0x8000 ∧
      (∀ q, q ∈ (mc (levelTo d p l s) d).panic ↔ q = p ∨ q ∈ (mc s d).panic) ∧
      Struck (pgMc d) 0 s (levelTo d p l s) ∧ Counted (pgMc d) (16 + p) 1 s (levelTo d p l s) ∧ OnMc s (levelTo d p l s) := by
  obtain ⟨f, hstopped⟩ := refreshed_stopPaying d (panicIn d p (setLevel d p l s))
  rw [← levelTo_of_entry hout hlow] at hstopped
  refine ⟨?_, fun q => ?_, ?_, ?_, ?_⟩
  · rw [hstopped.portLevel, mc_panicIn]
    exact portLevel_setLevel ..
  · rw [hstopped.panic, mc_panicIn, mem_NSet_add, panic_setLevel]
  · exact struck_congr rfl (by rw [hstopped.frame]) (struck_panicIn d p (setLevel d p l s))
  · have hcounted := counted_after_kept (counter_setLevel d p l s ..) (counted_panicIn d p (setLevel d p l s))
    exact counted_of_kept hcounted (hstopped.counts _ _ (by omega))
  · exact ((((OnMc.refl s).modMc ..).modMc ..).raised ..).bumped .. |>.trans hstopped.onMc

/-! ## A level at twice the watermark -/

/-- The channels as a port leaves panic: those that owe begin to repay when no port is left in panic. -/
def afterExit (x : Mc) (p j : Nat) : Mch := if NSet.del x.panic p = [] ∧ j < 16 then begun (mch x j) else mch x j

/-- The commands issued as a port leaves panic. -/
def exitIssues (x : Mc) (p : Nat) : Nat :=
  if NSet.del x.panic p = [] then ((List.range 16).filter fun i => owesUnpaid (mch x i)).length else 0

theorem refreshed_exit (hin : p ∈ (mc s d).panic) (hhigh : 1024 * watermark (mc s d) p ≤ min l 0x8000) :
    Refreshed d (afterExit (mc s d) p) (exitIssues (mc s d) p) (panicOut d p (setLevel d p l s)) (levelTo d p l s) := by
  have hpanic : (mc (panicOut d p (setLevel d p l s)) d).panic = NSet.del (mc s d).panic p := by rw [mc_panicOut, panic_setLevel]
  have hchans : mch (mc (panicOut d p (setLevel d p l s)) d) = mch (mc s d) := by
    rw [mc_panicOut]
    exact mch_setLevel ..
  rw [levelTo_of_exit hin hhigh, hpanic]
  split
  · next hlast =>
    have hbegun := refreshed_foldl_startPaying d 16 (panicOut d p (setLevel d p l s))
    rw [hchans] at hbegun
    rw [exitIssues, if_pos hlast]
    have hafter : afterExit (mc s d) p = fun j => if j < 16 then begun (mch (mc s d) j) else mch (mc s d) j := by
      funext j
      simp [afterExit, hlast]
    rw [hafter]
    exact hbegun
  · next hmore =>
    have hafter : afterExit (mc s d) p = mch (mc s d) := by
      funext j
      simp [afterExit, hmore]
    rw [exitIssues, if_neg hmore, hafter, ← hchans]
    exact .refl d _

theorem exited_levelTo (hin : p ∈ (mc s d).panic) (hhigh : 1024 * watermark (mc s d) p ≤ min l 0x8000) :
    portLevel (mc (levelTo d p l s) d) p = min l 0x8000 ∧
      (∀ q, q ∈ (mc (levelTo d p l s) d).panic ↔ q ≠ p ∧ q ∈ (mc s d).panic) ∧
      (∀ i, i < 16 → (mch (mc (levelTo d p l s) d) i).debt =
        if (mc (levelTo d p l s) d).panic = [] ∧ (mch (mc s d) i).paying = false
          then (mch (mc s d) i).debt - 1 else (mch (mc s d) i).debt) ∧
      ((mc (levelTo d p l s) d).panic = [] → Counted (pgMc d) 3 ((List.range 16).filter (fun i =>
        decide (0 < (mch (mc s d) i).debt) && !(mch (mc s d) i).paying)).length s (levelTo d p l s)) ∧
      levelTo d p l s = { s with ctrs := (levelTo d p l s).ctrs, mcs := (levelTo d p l s).mcs } := by
  have hexit := refreshed_exit hin hhigh
  have hpanic : (mc (levelTo d p l s) d).panic = NSet.del (mc s d).panic p := by rw [hexit.panic, mc_panicOut, panic_setLevel]
  refine ⟨?_, fun q => ?_, fun i hi => ?_, fun hlast => ?_, ?_⟩
  · rw [hexit.portLevel, mc_panicOut]
    exact portLevel_setLevel ..
  · rw [hpanic, mem_NSet_del, and_comm]
  · rw [hexit.chans, hpanic, afterExit]
    by_cases hlast : NSet.del (mc s d).panic p = []
    · simp [hlast, hi, begun_debt]
    · simp [hlast]
  · rw [hpanic] at hlast
    have hissued := hexit.issued
    rw [exitIssues, if_pos hlast] at hissued
    exact counted_after_kept (counter_panicOut_setLevel ..) hissued
  · exact hexit.frame_from rfl

/-! ## A port that ran dry -/

/-- Whatever its new level is, a port has it, and the count of ports run dry is as before. -/
theorem kept_levelTo (hp : p < 12) : portLevel (mc (levelTo d p l s) d) p = min l 0x8000 ∧
    counter (levelTo d p l s) (pgMc d) 9 = counter s (pgMc d) 9 ∧ OnMc s (levelTo d p l s) := by
  have hset : OnMc s (setLevel d p l s) := (OnMc.refl s).modMc ..
  by_cases hin : p ∈ (mc s d).panic
  · by_cases hhigh : 1024 * watermark (mc s d) p ≤ min l 0x8000
    · obtain ⟨hlevel, -⟩ := exited_levelTo hin hhigh
      have hexit := refreshed_exit hin hhigh
      have hout : OnMc s (panicOut d p (setLevel d p l s)) := hset.modMc ..
      exact ⟨hlevel, (hexit.counts (pgMc d) 9 (by omega)).trans (counter_panicOut_setLevel ..), hout.trans hexit.onMc⟩
    · rw [levelTo_of_steady (.inr ⟨hin, by omega⟩)]
      exact ⟨portLevel_setLevel .., rfl, hset⟩
  · by_cases hlow : min l 0x8000 < 512 * watermark (mc s d) p
    · obtain ⟨hlevel, -, -, -, hmoved⟩ := entered_levelTo hin hlow
      refine ⟨hlevel, ?_, hmoved⟩
      obtain ⟨f, hstopped⟩ := refreshed_stopPaying d (panicIn d p (setLevel d p l s))
      rw [levelTo_of_entry hin hlow, hstopped.counts _ _ (by omega), panicIn, counter_bump, if_neg (by omega), counter_raiseBit]
      rfl
    · rw [levelTo_of_steady (.inl ⟨hin, by omega⟩)]
      exact ⟨portLevel_setLevel .., rfl, hset⟩

end

end Sys2Proof.Laws
end

section
/-! Rate classes (R303–R305, R310): one read of a channel, the reads of a round, and what follows them. -/

namespace Sys2Proof.Laws

open Sys2Proof Sys2Proof.Machine

/-! ## What a read of the classes keeps -/

/-- Counter 7 of every page stays. -/
structure SevenKept (s t : State) : Prop where
  sevens : ∀ k, counter t k 7 = counter s k 7

theorem SevenKept.refl (s : State) : SevenKept s s := ⟨fun _ => rfl⟩

theorem SevenKept.trans {s t u : State} (h : SevenKept s t) (g : SevenKept t u) : SevenKept s u :=
  ⟨fun k => (g.sevens k).trans (h.sevens k)⟩

theorem SevenKept.ite {s a b : State} {c : Prop} [Decidable c] (ha : SevenKept s a) (hb : SevenKept s b) :
    SevenKept s (if c then a else b) := by
  split
  · exact ha
  · exact hb

theorem SevenKept.foldl {α : Type} {f : State → α → State} (h : ∀ s a, SevenKept s (f s a)) (l : List α) (s : State) :
    SevenKept s (l.foldl f s) := by
  induction l generalizing s with
  | nil => exact .refl _
  | cons a l ih => exact (h s a).trans (ih (f s a))

/-- A change of other fields. -/
theorem SevenKept.same {s t : State} (h : t.ctrs = s.ctrs) : SevenKept s t := ⟨fun k => by rw [counter, counter, h]⟩

theorem SevenKept.bumped {s t : State} (h : SevenKept s t) (k n x : Nat) (hn : n % 8 ≠ 7) : SevenKept s (bump k n x t) :=
  h.trans ⟨fun j => by rw [counter_bump, if_neg (by omega)]⟩

theorem SevenKept.raised {s t : State} (h : SevenKept s t) (k i : Nat) : SevenKept s (raiseBit k i t) :=
  h.trans ⟨fun j => counter_raiseBit t i k j 7⟩

theorem SevenKept.yoked {s t : State} (h : SevenKept s t) (x : Yoke) : SevenKept s { t with yoke := x } := h.trans (.same rfl)

/-- From `s` to `t` only die `d`'s controller has moved, and flags, counters and messages: no bit of its page is taken back, no wish for
tracking, and nothing counts as an entry into the 4× state. -/
structure RatesKept (d : Nat) (s t : State) : Prop where
  moved : OnMc s t
  others : ∀ e, e ≠ d → mc t e = mc s e
  bits : ∀ i, bitOf (page s (pgMc d)).stat i = true → bitOf (page t (pgMc d)).stat i = true
  counts : SevenKept s t
  wants : (mc s d).trackWant = true → (mc t d).trackWant = true

theorem RatesKept.refl (d : Nat) (s : State) : RatesKept d s s := ⟨.refl s, fun _ _ => rfl, fun _ h => h, .refl s, id⟩

theorem RatesKept.trans {d : Nat} {s t u : State} (h : RatesKept d s t) (g : RatesKept d t u) : RatesKept d s u where
  moved := h.moved.trans g.moved
  others e he := (g.others e he).trans (h.others e he)
  bits i hi := g.bits i (h.bits i hi)
  counts := h.counts.trans g.counts
  wants hw := g.wants (h.wants hw)

theorem ratesKept_raiseBit (d i : Nat) (s : State) : RatesKept d s (raiseBit (pgMc d) i s) where
  moved := (OnMc.refl s).raised ..
  others e _ := mc_raiseBit ..
  bits := ((FlagsKept.refl s).raised ..).bits _
  counts := (SevenKept.refl s).raised ..
  wants h := by rwa [mc_raiseBit]

theorem ratesKept_bump (d : Nat) {n : Nat} (hn : n % 8 ≠ 7) (x : Nat) (s : State) : RatesKept d s (bump (pgMc d) n x s) :=
  ⟨(OnMc.refl s).bumped .., fun _ _ => rfl, fun _ h => h, (SevenKept.refl s).bumped _ _ _ hn, id⟩

theorem Refreshed.ratesKept {d n : Nat} {f : Nat → Mch} {s t : State} (h : Refreshed d f n s t) : RatesKept d s t where
  moved := h.onMc
  others := h.others
  bits i hi := by
    rw [h.frame]
    exact hi
  counts := ⟨fun k => h.counts k 7 (by omega)⟩
  wants hw := by
    rw [h.die]
    exact hw

/-- The controller asks for tracking. -/
def askTracking (d : Nat) (s : State) : State := modMc d (fun m => { m with trackWant := true }) s

theorem mc_askTracking (d : Nat) (s : State) : mc (askTracking d s) d = { mc s d with trackWant := true } := by
  rw [askTracking, mc_modMc, if_pos rfl]

theorem mch_askTracking (d : Nat) (s : State) (j : Nat) : mch (mc (askTracking d s) d) j = mch (mc s d) j := by
  rw [mc_askTracking]
  rfl

theorem wants_askTracking (d : Nat) (s : State) : (mc (askTracking d s) d).trackWant = true := by rw [mc_askTracking]

theorem ratesKept_askTracking (d : Nat) (s : State) : RatesKept d s (askTracking d s) where
  moved := (OnMc.refl s).modMc ..
  others e he := by rw [askTracking, mc_modMc, if_neg he]
  bits _ h := h
  counts := .same rfl
  wants _ := wants_askTracking d s

/-! ## One read of a channel -/

/-- The channel after a read of class `c` (R303, R304). -/
def classed (periodic : Bool) (c : Nat) (x : Mch) : Mch :=
  if x.rate < c then { (if x.rate = 0 ∧ 0 < x.debt then begun x else x) with rate := c, low := 0 }
  else if !periodic then x
  else if x.rate ≤ c then { x with low := 0 }
  else if x.low = 1 then { x with rate := x.rate - 1, low := 0 }
  else { x with low := x.low + 1 }

section
variable (c : Nat) (x : Mch)

theorem rate_classed_periodic : (classed true c x).rate =
    if x.rate < c then c else if c < x.rate ∧ x.low = 1 then x.rate - 1 else x.rate := by
  unfold classed
  simp only [Bool.not_true, Bool.false_eq_true, if_false, apply_ite Mch.rate]
  split_ifs <;> omega

theorem low_classed_periodic : (classed true c x).low = if c < x.rate ∧ x.low ≠ 1 then x.low + 1 else 0 := by
  unfold classed
  simp only [Bool.not_true, Bool.false_eq_true, if_false, apply_ite Mch.low]
  split_ifs <;> omega

theorem rate_classed_alert : (classed false c x).rate = max x.rate c := by
  unfold classed
  simp only [Bool.not_false, if_true, apply_ite Mch.rate]
  split_ifs <;> omega

theorem debt_classed_of_crossing (periodic : Bool) (hrate : x.rate = 0) (hc : 0 < c) (hdebt : 0 < x.debt) :
    (classed periodic c x).debt = if x.paying then x.debt else x.debt - 1 := by
  rw [classed, if_pos (by omega), if_pos ⟨hrate, hdebt⟩]
  refine (begun_debt x).trans ?_
  cases x.paying <;> rfl

theorem debt_classed_of_kept (h : 0 < x.rate ∨ c = 0) : (classed false c x).debt = x.debt := by
  unfold classed
  split
  · rw [if_neg (by omega)]
  · rfl

end

/-- What a read of channel `i` shows: its class, and what asks for attention (R303, R304, R310). -/
structure ClassRead (d i code : Nat) (periodic : Bool) (s t : State) : Prop where
  chan : mch (mc t d) i = classed periodic (classOf code) (mch (mc s d) i)
  hot : 3 ≤ code → bitOf (page t (pgMc d)).stat 8 = true
  wants : (mch (mc t d) i).rate ≠ (mch (mc s d) i).rate → (mc t d).trackWant = true
  flush : (mch (mc s d) i).rate = 0 → 0 < classOf code → 0 < (mch (mc s d) i).debt → bitOf (page t (pgMc d)).stat 1 = true

theorem ClassRead.later {d i code : Nat} {periodic : Bool} {s t u : State} (h : ClassRead d i code periodic s t) (g : RatesKept d t u)
    (hchan : mch (mc u d) i = mch (mc t d) i) : ClassRead d i code periodic s u where
  chan := hchan.trans h.chan
  hot hc := g.bits 8 (h.hot hc)
  wants hr := g.wants (h.wants (by rwa [hchan] at hr))
  flush hr hc hd := g.bits 1 (h.flush hr hc hd)

theorem ClassRead.earlier {d i code : Nat} {periodic : Bool} {r s t : State} (h : ClassRead d i code periodic s t)
    (hchan : mch (mc s d) i = mch (mc r d) i) : ClassRead d i code periodic r t where
  chan := by rw [h.chan, hchan]
  hot := h.hot
  wants := by
    rw [← hchan]
    exact h.wants
  flush := by
    rw [← hchan]
    exact h.flush

/-- The part with OVERTEMP struck where a read returns the high-temperature code (R303). -/
def heated (d code : Nat) (s : State) : State := if 3 ≤ code then raiseBit (pgMc d) 8 s else s

theorem mc_heated (d code : Nat) (s : State) (e : Nat) : mc (heated d code s) e = mc s e := by
  unfold heated
  split
  · exact mc_raiseBit ..
  · rfl

theorem ratesKept_heated (d code : Nat) (s : State) : RatesKept d s (heated d code s) := by
  unfold heated
  split
  · exact ratesKept_raiseBit ..
  · exact .refl d s

theorem bitOf_heated {d code : Nat} (h : 3 ≤ code) (s : State) : bitOf (page (heated d code s) (pgMc d)).stat 8 = true := by
  rw [heated, if_pos h]
  exact bitOf_raiseBit _ (by decide) s

/-- The part as a crossing is met: what the channel owes begins to be issued, with DEBT_FLUSH (R304). -/
def flushed (d i : Nat) (s : State) : State :=
  if (mch (mc s d) i).rate = 0 ∧ 0 < (mch (mc s d) i).debt then
    startPaying d i (bump (pgMc d) 5 1 (raiseBit (pgMc d) 1 s))
  else s

theorem readClass_eq (d i code : Nat) (periodic : Bool) (s : State) : readClass d i code periodic s =
    if (mch (mc (heated d code s) d) i).rate < classOf code then
      askTracking d (modMch d i (fun x => { x with rate := classOf code, low := 0 }) (flushed d i (heated d code s)))
    else if !periodic then heated d code s
    else if (mch (mc (heated d code s) d) i).rate ≤ classOf code then modMch d i (fun x => { x with low := 0 }) (heated d code s)
    else if (mch (mc (heated d code s) d) i).low = 1 then
      askTracking d (modMch d i (fun x => { x with rate := x.rate - 1, low := 0 }) (heated d code s))
    else modMch d i (fun x => { x with low := x.low + 1 }) (heated d code s) := rfl

theorem flushed_spec (d i : Nat) (s : State) : RatesKept d s (flushed d i s) ∧
    mch (mc (flushed d i s) d) = Function.update (mch (mc s d)) i
      (if (mch (mc s d) i).rate = 0 ∧ 0 < (mch (mc s d) i).debt then begun (mch (mc s d) i) else mch (mc s d) i) ∧
    ((mch (mc s d) i).rate = 0 → 0 < (mch (mc s d) i).debt → bitOf (page (flushed d i s) (pgMc d)).stat 1 = true) := by
  unfold flushed
  split
  · next h =>
    have hstruck : RatesKept d s (bump (pgMc d) 5 1 (raiseBit (pgMc d) 1 s)) :=
      (ratesKept_raiseBit d 1 s).trans (ratesKept_bump d (by decide) 1 _)
    have hsame : mc (bump (pgMc d) 5 1 (raiseBit (pgMc d) 1 s)) d = mc s d := mc_raiseBit ..
    have hstarted := refreshed_startPaying d i (bump (pgMc d) 5 1 (raiseBit (pgMc d) 1 s))
    refine ⟨hstruck.trans hstarted.ratesKept, ?_, fun _ _ => ?_⟩
    · rw [hstarted.chans_eq, hsame]
    · have hraised : bitOf (page (bump (pgMc d) 5 1 (raiseBit (pgMc d) 1 s)) (pgMc d)).stat 1 = true := by
        rw [page_bump]
        exact bitOf_raiseBit _ (by decide) s
      exact hstarted.ratesKept.bits 1 hraised
  · next h =>
    rw [Function.update_eq_self]
    exact ⟨.refl d s, rfl, fun hr hd => absurd ⟨hr, hd⟩ h⟩

section
variable {d i code : Nat} {periodic : Bool} {s t : State}

/-- What a read does, by the channel that it leaves. -/
theorem classRead_of_chan (hkept : RatesKept d (heated d code s) t)
    (hchans : mch (mc t d) = Function.update (mch (mc s d)) i (classed periodic (classOf code) (mch (mc s d) i)))
    (hwants : (classed periodic (classOf code) (mch (mc s d) i)).rate ≠ (mch (mc s d) i).rate → (mc t d).trackWant = true)
    (hflush : (mch (mc s d) i).rate = 0 → 0 < classOf code → 0 < (mch (mc s d) i).debt → bitOf (page t (pgMc d)).stat 1 = true) :
    RatesKept d s t ∧ ClassRead d i code periodic s t ∧ ∀ j, j ≠ i → mch (mc t d) j = mch (mc s d) j := by
  refine ⟨(ratesKept_heated ..).trans hkept, ⟨?_, fun hc => hkept.bits 8 (bitOf_heated hc s), ?_, hflush⟩, fun j hj => ?_⟩
  · rw [hchans, Function.update_self]
  · rw [hchans, Function.update_self]
    exact hwants
  · rw [hchans, Function.update_of_ne hj]

/-- A read that leaves the class as it is changes at most the count of reads below it. -/
theorem classRead_of_sameClass {f : Mch → Mch} (hclassed : classed periodic (classOf code) (mch (mc s d) i) = f (mch (mc s d) i))
    (hsame : (f (mch (mc s d) i)).rate = (mch (mc s d) i).rate) (hnot : ¬(mch (mc s d) i).rate < classOf code)
    (ht : t = modMch d i f (heated d code s)) :
    RatesKept d s t ∧ ClassRead d i code periodic s t ∧ ∀ j, j ≠ i → mch (mc t d) j = mch (mc s d) j := by
  have hmoved := refreshed_modMch d i f (heated d code s)
  rw [mc_heated, ← ht, ← hclassed] at hmoved
  exact classRead_of_chan hmoved.ratesKept hmoved.chans_eq (by simp [hclassed, hsame]) fun _ _ _ => by omega

/-- A read of one channel's mode register 4: a crossing, an alert's read, a class in use, the second read below it, the first. -/
theorem readClass_spec (d i code : Nat) (periodic : Bool) (s : State) : RatesKept d s (readClass d i code periodic s) ∧
    ClassRead d i code periodic s (readClass d i code periodic s) ∧
    ∀ j, j ≠ i → mch (mc (readClass d i code periodic s) d) j = mch (mc s d) j := by
  rw [readClass_eq, mc_heated]
  split
  · next hhigher =>
    obtain ⟨hflushed, hchans, hbit⟩ := flushed_spec d i (heated d code s)
    rw [mc_heated] at hchans hbit
    have hset := refreshed_modMch d i (fun x => { x with rate := classOf code, low := 0 }) (flushed d i (heated d code s))
    rw [hchans, Function.update_self, Function.update_idem] at hset
    have hasked := hset.ratesKept.trans (ratesKept_askTracking ..)
    refine classRead_of_chan (hflushed.trans hasked) ?_ (fun _ => wants_askTracking ..)
      fun hrate _ hdebt => hasked.bits 1 (hbit hrate hdebt)
    rw [classed, if_pos hhigher]
    funext j
    rw [mch_askTracking, hset.chans]
  · next hnot =>
    split
    · next halert =>
      have hstays : classed periodic (classOf code) (mch (mc s d) i) = mch (mc s d) i := by rw [classed, if_neg hnot, if_pos halert]
      refine classRead_of_chan (.refl d _) ?_ (by simp [hstays]) fun _ _ _ => by omega
      rw [hstays, Function.update_eq_self, mc_heated]
    · next hperiodic =>
      split
      · next hinuse =>
        refine classRead_of_sameClass (f := fun x => { x with low := 0 }) ?_ rfl hnot rfl
        rw [classed, if_neg hnot, if_neg hperiodic, if_pos hinuse]
      · next hbelow =>
        split
        · next hsecond =>
          have hmoved := refreshed_modMch d i (fun x => { x with rate := x.rate - 1, low := 0 }) (heated d code s)
          rw [mc_heated] at hmoved
          refine classRead_of_chan (hmoved.ratesKept.trans (ratesKept_askTracking ..)) ?_ (fun _ => wants_askTracking ..)
            fun _ _ _ => by omega
          rw [classed, if_neg hnot, if_neg hperiodic, if_neg hbelow, if_pos hsecond]
          funext j
          rw [mch_askTracking, hmoved.chans]
        · next hfirst =>
          refine classRead_of_sameClass (f := fun x => { x with low := x.low + 1 }) ?_ rfl hnot rfl
          rw [classed, if_neg hnot, if_neg hperiodic, if_neg hbelow, if_neg hfirst]

end

/-! ## The reads of a round -/

/-- The reads of a round from channel `k` up: each of the sixteen channels that has a code is read once. -/
theorem readCodes_spec (d : Nat) (periodic : Bool) (codes : List Nat) (k : Nat) (s : State) :
    RatesKept d s (readCodes d periodic k codes s) ∧
      (∀ i, i < k → mch (mc (readCodes d periodic k codes s) d) i = mch (mc s d) i) ∧
      ∀ j code, codes[j]? = some code → k + j < 16 → ClassRead d (k + j) code periodic s (readCodes d periodic k codes s) := by
  induction codes generalizing k s with
  | nil => exact ⟨.refl d s, fun _ _ => rfl, by simp⟩
  | cons code codes ih =>
    rw [readCodes]
    split
    · obtain ⟨hkept, hread, hothers⟩ := readClass_spec d k code periodic s
      obtain ⟨hlater, hbelow, hreads⟩ := ih (k + 1) (readClass d k code periodic s)
      refine ⟨hkept.trans hlater, fun i hi => (hbelow i (by omega)).trans (hothers i (by omega)), fun j c hj hlt => ?_⟩
      cases j with
      | zero =>
        obtain rfl : code = c := by simpa using hj
        exact hread.later hlater (hbelow k (by omega))
      | succ j =>
        have hnext := hreads j c (by simpa using hj) (by omega)
        rw [show k + 1 + j = k + (j + 1) by omega] at hnext
        exact hnext.earlier (hothers _ (by omega))
    · next hout =>
      obtain ⟨hlater, hbelow, -⟩ := ih (k + 1) s
      exact ⟨hlater, fun i hi => hbelow i (by omega), fun j c _ hlt => absurd hlt (by omega)⟩

/-! ## What follows the reads (R305, R313, R379) -/

theorem sevenKept_idleExit (l : Nat) (s : State) : SevenKept s (idleExit l s) := by
  have hup : SevenKept s (modLane l (fun x => { x with st := stUp, txOn := true }) s) := .same rfl
  exact (hup.bumped (diePageOf l) (16 * laneBlock l + 8) 1 (by omega)).trans (.same rfl)

theorem sevenKept_sendRel (m : YMsg) (s : State) : SevenKept s (sendRel m s) := by
  have sends : ∀ bytes (s : State) l, SevenKept s (sendOn bytes s l) := fun _ s l =>
    .trans (.ite (sevenKept_idleExit l s) (.refl s)) (.same rfl)
  refine .trans ?_ (.foldl (sends _) _ _)
  exact .same rfl

theorem sevenKept_yieldFor (c : Nat) (s : State) : SevenKept s (yieldFor c s) := by
  have pulsed : SevenKept s (emit (.hbPulse 1000) s) := .same rfl
  exact .ite (.bumped (.raised (.yoked (pulsed.trans (sevenKept_sendRel ..)) _) ..) _ _ _ (by decide)) (.refl s)

theorem sevenKept_yieldOnConditions (s : State) : SevenKept s (yieldOnConditions s) := by
  have yields : ∀ (b : Bool) c {t : State}, SevenKept s t → SevenKept s (if b then yieldFor c t else t) :=
    fun _ c _ h => .ite (h.trans (sevenKept_yieldFor c _)) h
  exact yields _ 6 (yields _ 5 (yields _ 4 (.refl s)))

theorem EventsKept.mc {s t : State} (h : EventsKept s t) (e : Nat) : mc t e = Machine.mc s e := by
  rw [h.frame]
  rfl

theorem eventsKept_rateConds (d : Nat) (s0 s : State) : EventsKept s (rateConds d s0 s) := by
  unfold rateConds
  extract_lets twice four
  have htwice : EventsKept s twice := .ite (.raised (.refl s) ..) (.refl s)
  have hfour : EventsKept s four := .ite (.bumped (htwice.raised ..) _ _ _ (by rw [pgMc, pkey]; omega)) htwice
  exact .ite (hfour.raised ..) hfour

/-- An entry into the 4× state is struck and counted (R305). -/
theorem rateConds_of_entry {d : Nat} {s0 s : State} (hout : fourX s0 d = false) (hin : fourX s d = true) :
    Counted (pgMc d) 7 1 s (rateConds d s0 s) ∧ bitOf (page (rateConds d s0 s) (pgMc d)).stat 3 = true := by
  unfold rateConds
  extract_lets twice four
  have htwice : EventsKept s twice := .ite (.raised (.refl s) ..) (.refl s)
  have hsevens : SevenKept s twice := .ite (.raised (.refl s) ..) (.refl s)
  have hentered : four = bump (pgMc d) 7 1 (raiseBit (pgMc d) 3 twice) :=
    if_pos (by rw [hout, fourX, htwice.mc, ← fourX, hin]; decide)
  have hcounted : Counted (pgMc d) 7 1 s four := by
    rw [hentered]
    exact counted_after_kept ((hsevens.raised _ 3).sevens (pgMc d)) (counted_bump_same ..)
  have hstruck : bitOf (page four (pgMc d)).stat 3 = true := by
    rw [hentered]
    exact bitOf_raiseBit (pgMc d) (by decide) twice
  have hlastSevens : SevenKept four (if (!bwAlarm s0 d && bwAlarm four d) = true then raiseBit (pgMc d) 4 four else four) :=
    .ite (.raised (.refl four) ..) (.refl four)
  have hlast : EventsKept four (if (!bwAlarm s0 d && bwAlarm four d) = true then raiseBit (pgMc d) 4 four else four) :=
    .ite (.raised (.refl four) ..) (.refl four)
  exact ⟨counted_of_kept hcounted (hlastSevens.sevens (pgMc d)), hlast.flags.bits _ 3 hstruck⟩

/-- From `s` to `t` no more has moved than a round of reads and the yields that it calls for may move. -/
def RoundMoved (s t : State) : Prop := t = { s with
  out := t.out, pages := t.pages, ctrs := t.ctrs, mcs := t.mcs, yoke := t.yoke, ic := t.ic, lanes := t.lanes }

theorem OnMc.roundMoved {s u t : State} (h : OnMc s u) (g : EventsKept u t) : RoundMoved s t := by
  have hmcs : t.mcs = u.mcs := by rw [g.frame]
  rw [RoundMoved, hmcs]
  exact g.frame.trans (congrArg (fun x : State => { x with
    out := t.out, pages := t.pages, ctrs := t.ctrs, yoke := t.yoke, ic := t.ic, lanes := t.lanes }) h)

/-- A round of reads: each channel's read, the entry into the 4× state, and nothing of another die. -/
theorem readRound_spec {d : Nat} {codes : List Nat} (hcodes : codes.length = 16) (periodic : Bool) (s : State) :
    (∀ i, i < 16 → ClassRead d i (codes.getD i 0) periodic s (readRound d periodic codes s)) ∧
      (fourX s d = false → fourX (readRound d periodic codes s) d = true →
        Counted (pgMc d) 7 1 s (readRound d periodic codes s) ∧
          bitOf (page (readRound d periodic codes s) (pgMc d)).stat 3 = true) ∧
      (∀ e, e ≠ d → mc (readRound d periodic codes s) e = mc s e) ∧
      RoundMoved s (readRound d periodic codes s) := by
  obtain ⟨hkept, -, hreads⟩ := readCodes_spec d periodic codes 0 s
  have hconds := eventsKept_rateConds d s (readCodes d periodic 0 codes s)
  have hyield := eventsKept_yieldOnConditions (rateConds d s (readCodes d periodic 0 codes s))
  have hevents : EventsKept (readCodes d periodic 0 codes s) (readRound d periodic codes s) := hconds.trans hyield
  refine ⟨fun i hi => ?_, fun hout hin => ?_, fun e he => (hevents.mc e).trans (hkept.others e he),
    hkept.moved.roundMoved hevents⟩
  · have hread := hreads i (codes.getD i 0) (by simp [hcodes, hi]) (by omega)
    rw [Nat.zero_add] at hread
    refine ⟨?_, fun hc => hevents.flags.bits _ 8 (hread.hot hc), ?_, fun hr hc hd => hevents.flags.bits _ 1 (hread.flush hr hc hd)⟩
    · rw [hevents.mc]
      exact hread.chan
    · rw [hevents.mc]
      exact hread.wants
  · rw [fourX, hevents.mc, ← fourX] at hin
    obtain ⟨hcounted, hstruck⟩ := rateConds_of_entry hout hin
    exact ⟨counted_of_kept (counted_after_kept (hkept.counts.sevens _) hcounted) ((sevenKept_yieldOnConditions _).sevens _),
      hyield.flags.bits _ 3 hstruck⟩

end Sys2Proof.Laws
end

section
/-! The patrol (R295–R297, R312): words corrected, and words that stay bad. -/

namespace Sys2Proof.Laws

open Sys2Proof Sys2Proof.Machine

/-! ## Words of a die -/

theorem wordKey_div {w : Nat} (hw : w < 2 ^ 29) (d : Nat) : wordKey d w / 2 ^ 29 = d := by
  rw [wordKey]
  omega

theorem mem_wordsOn {d w : Nat} {l : NSet} (hw : w < 2 ^ 29) (h : wordKey d w ∈ l) : w ∈ wordsOn d l := by
  refine List.mem_map.mpr ⟨wordKey d w, List.mem_filter.mpr ⟨h, decide_eq_true (wordKey_div hw d)⟩, ?_⟩
  rw [wordKey]
  omega

theorem wordsOn_eq_nil {d : Nat} {l : NSet} (h : ∀ x ∈ l, x / 2 ^ 29 ≠ d) : wordsOn d l = [] := by
  rw [wordsOn, List.filter_eq_nil_iff.mpr fun x hx => by simpa using h x hx]
  rfl

/-! ## Words corrected -/

/-- From `s` to `t` the words `ws` of die `d` are corrected, counted and reported, and written back; no error of another kind counts, nor
does a pass. -/
structure Mended (d : Nat) (ws : List Nat) (s t : State) : Prop where
  frame : t = { s with pages := t.pages, ctrs := t.ctrs, soft := t.soft, ic := t.ic }
  corrected : Counted (pgMc d) 0 ws.length s t
  counts : ∀ m, 0 < m → m < 32 → counter t (pgMc d) m = counter s (pgMc d) m
  soft : ∀ x, x ∈ t.soft ↔ x ∈ s.soft ∧ ∀ w ∈ ws, x ≠ wordKey d w
  bits : ∀ i, bitOf (page s (pgMc d)).stat i = true → bitOf (page t (pgMc d)).stat i = true
  reported : ws ≠ [] → bitOf (page t (pgMc d)).stat 5 = true

theorem Mended.refl (d : Nat) (s : State) : Mended d [] s s :=
  ⟨rfl, (BitVec.add_zero _).symm, fun _ _ _ => rfl, by simp, fun _ h => h, fun h => absurd rfl h⟩

theorem Mended.trans {d : Nat} {vs ws : List Nat} {s t u : State} (h : Mended d vs s t) (g : Mended d ws t u) :
    Mended d (vs ++ ws) s u where
  frame := g.frame.trans (congrArg (fun x : State => { x with pages := u.pages, ctrs := u.ctrs, soft := u.soft, ic := u.ic }) h.frame)
  corrected := by
    rw [List.length_append]
    exact counted_trans h.corrected g.corrected
  counts m hpos hm := (g.counts m hpos hm).trans (h.counts m hpos hm)
  soft x := by
    rw [g.soft, h.soft, and_assoc]
    simp only [List.mem_append, or_imp, forall_and]
  bits i hi := g.bits i (h.bits i hi)
  reported hne := by
    cases ws with
    | nil => exact g.bits 5 (h.reported (by simpa using hne))
    | cons w ws => exact g.reported (List.cons_ne_nil w ws)

/-- The patrol's reads of a whole die, by channel. -/
def scanned (d : Nat) (s : State) : State := (List.range 16).foldl (fun s i => bump (pgMc d) (32 + i) 1006632960 s) s

/-- Counts of bytes read. -/
theorem mended_bump_read (d i x : Nat) (s : State) : Mended d [] s (bump (pgMc d) (32 + i) x s) := by
  have hkept : ∀ m, m < 32 → counter (bump (pgMc d) (32 + i) x s) (pgMc d) m = counter s (pgMc d) m := fun m hm => by
    rw [counter_bump, if_neg (by omega)]
  exact ⟨rfl, (hkept 0 (by decide)).trans (BitVec.add_zero _).symm, fun m _ hm => hkept m hm, fun x => by simp [bump_soft],
    fun _ h => h, fun h => absurd rfl h⟩

theorem foldl_bump_read (d x : Nat) (l : List Nat) (s : State) : Mended d [] s (l.foldl (fun s i => bump (pgMc d) (32 + i) x s) s) ∧
    (l.foldl (fun s i => bump (pgMc d) (32 + i) x s) s).pages = s.pages := by
  induction l generalizing s with
  | nil => exact ⟨.refl d s, rfl⟩
  | cons i l ih =>
    obtain ⟨hrest, hpages⟩ := ih (bump (pgMc d) (32 + i) x s)
    exact ⟨(mended_bump_read d i x s).trans hrest, hpages⟩

theorem mended_scanned (d : Nat) (s : State) : Mended d [] s (scanned d s) := (foldl_bump_read ..).1

theorem pages_scanned (d : Nat) (s : State) : (scanned d s).pages = s.pages := (foldl_bump_read ..).2

/-- A word with a single-bit error written back corrected. -/
def mendWord (d w : Nat) (s : State) : State := countWrite d w (eccCorrect d { s with soft := NSet.del s.soft (wordKey d w) })

theorem page_mendWord (d w : Nat) (s : State) (k : Nat) :
    page (mendWord d w s) k = page (raiseBit (pgMc d) 5 { s with soft := NSet.del s.soft (wordKey d w) }) k := by
  rw [mendWord, countWrite, eccCorrect, page_bump, page_bump]

theorem mendWord_frame (d w : Nat) (s : State) : mendWord d w s = { s with
    pages := (mendWord d w s).pages, ctrs := (mendWord d w s).ctrs, ic := (mendWord d w s).ic
    soft := NSet.del s.soft (wordKey d w) } := by
  rw [mendWord, countWrite, eccCorrect, raiseBit_frame]
  rfl

theorem counter_mendWord (d w : Nat) (s : State) {m : Nat} (hm : m < 32) : counter (mendWord d w s) (pgMc d) m =
    if m = 0 then counter s (pgMc d) 0 + 1 else counter s (pgMc d) m := by
  rw [mendWord, countWrite, counter_bump, if_neg (by omega), eccCorrect, counter_bump, counter_raiseBit, counter_raiseBit]
  exact ite_congr (by simp) (fun _ => rfl) fun _ => rfl

theorem mended_mendWord (d w : Nat) (s : State) : Mended d [w] s (mendWord d w s) where
  frame := by rw [mendWord_frame]
  corrected := (counter_mendWord d w s (by decide)).trans (if_pos rfl)
  counts m hpos hm := (counter_mendWord d w s hm).trans (if_neg (by omega))
  soft x := by
    rw [mendWord_frame]
    simp only [mem_NSet_del, List.mem_singleton, forall_eq]
  bits i hi := by
    rw [page_mendWord]
    exact ((FlagsKept.refl _).raised (pgMc d) 5).bits (pgMc d) i hi
  reported _ := by
    rw [page_mendWord]
    exact bitOf_raiseBit _ (by decide) _

theorem mended_foldl_mendWord (d : Nat) (ws : List Nat) (s : State) : Mended d ws s (ws.foldl (fun s w => mendWord d w s) s) := by
  induction ws generalizing s with
  | nil => exact .refl d s
  | cons w ws ih => exact (mended_mendWord d w s).trans (ih _)

/-! ## A pass -/

/-- The words that a pass finds uncorrectable. -/
def foundBad (d : Nat) (doubles : List Nat) (s : State) : List Nat := (doubles ++ wordsOn d (s.poison ++ s.broken)).eraseDups

/-- The words that a pass corrects. -/
def foundSoft (d : Nat) (singles doubles : List Nat) (s : State) : List Nat :=
  (singles ++ wordsOn d s.soft).eraseDups.filter fun w => !(foundBad d doubles s).contains w

/-- A pass with its corrections done. -/
def mendedPass (d : Nat) (singles doubles : List Nat) (s : State) : State :=
  (foundSoft d singles doubles s).foldl (fun s w => mendWord d w s) (scanned d s)

theorem patrol_eq (d : Nat) (singles doubles : List Nat) (s : State) : patrol d singles doubles s =
    bump (pgMc d) 2 1 ((foundBad d doubles s).foldl (fun s w => leaveBad d w (eccBad d w 0x45 s)) (mendedPass d singles doubles s)) := rfl

theorem mended_mendedPass (d : Nat) (singles doubles : List Nat) (s : State) :
    Mended d (foundSoft d singles doubles s) s (mendedPass d singles doubles s) :=
  (mended_scanned d s).trans (mended_foldl_mendWord ..)

section
variable {d : Nat} {s : State} (hsound : ∀ x, x ∈ s.poison ∨ x ∈ s.broken → x / 2 ^ 29 ≠ d)
include hsound

theorem foundBad_of_sound (doubles : List Nat) : foundBad d doubles s = doubles.eraseDups := by
  rw [foundBad, wordsOn_eq_nil fun x hx => hsound x (List.mem_append.mp hx), List.append_nil]

theorem foundSoft_of_sound (singles : List Nat) : foundSoft d singles [] s = (singles ++ wordsOn d s.soft).eraseDups := by
  rw [foundSoft, foundBad_of_sound hsound]
  exact List.filter_eq_self.mpr fun _ _ => rfl

/-- A pass over a die with no uncorrectable word. -/
theorem patrol_of_singles (ws : List Nat) : Counted (pgMc d) 2 1 s (patrol d ws [] s) ∧
    Counted (pgMc d) 0 (ws ++ wordsOn d s.soft).eraseDups.length s (patrol d ws [] s) ∧
    (ws ≠ [] → bitOf (page (patrol d ws [] s) (pgMc d)).stat 5 = true) ∧
    (∀ w, w < 2 ^ 29 → wordSoft (patrol d ws [] s) d w = false) ∧
    patrol d ws [] s = { s with pages := (patrol d ws [] s).pages, ctrs := (patrol d ws [] s).ctrs,
                                soft := (patrol d ws [] s).soft, ic := (patrol d ws [] s).ic } := by
  have hmended := mended_mendedPass d ws [] s
  rw [foundSoft_of_sound hsound] at hmended
  have hpass : patrol d ws [] s = bump (pgMc d) 2 1 (mendedPass d ws [] s) := by
    rw [patrol_eq, foundBad_of_sound hsound]
    rfl
  rw [hpass]
  refine ⟨counted_after_kept (hmended.counts 2 (by decide) (by decide)) (counted_bump_same ..),
    counted_of_kept hmended.corrected ?_, fun hws => ?_, fun w hw => ?_, ?_⟩
  · rw [counter_bump, if_neg (by omega)]
  · obtain ⟨w, hw⟩ := List.exists_mem_of_ne_nil ws hws
    exact hmended.reported (List.ne_nil_of_mem (List.mem_eraseDups.mpr (List.mem_append_left _ hw)))
  · refine Bool.eq_false_iff.mpr fun hsoft => ?_
    obtain ⟨hmem, hnone⟩ := (hmended.soft _).mp (List.contains_iff_mem.mp hsoft)
    exact hnone w (List.mem_eraseDups.mpr (List.mem_append_right _ (mem_wordsOn hw hmem))) rfl
  · exact congrArg (bump (pgMc d) 2 1) hmended.frame

end

/-! ## An uncorrectable word -/

section
variable {d w who : Nat} {s : State}

theorem mc_leaveBad (d w : Nat) (s : State) (e : Nat) : mc (leaveBad d w s) e = mc s e := by
  unfold leaveBad
  split <;> rfl

theorem mc_reported (d : Nat) (s : State) : mc (bump (pgMc d) 1 1 (raiseBit (pgMc d) 6 s)) = mc s := funext fun _ => mc_raiseBit ..

theorem poisoned_reported (d w : Nat) (s : State) : poisoned (bump (pgMc d) 1 1 (raiseBit (pgMc d) 6 s)) d w = poisoned s d w := by
  rw [raiseBit_frame]
  rfl

/-- A log that holds an error keeps it (R296). -/
theorem mc_eccBad_of_logged (h : bitOf (mc s d).errInfo 31 = true) (e : Nat) : mc (eccBad d w who s) e = mc s e := by
  have hstays : eccBad d w who s = bump (pgMc d) 1 1 (raiseBit (pgMc d) 6 s) := if_pos (by rw [mc_reported, h])
  rw [hstays, mc_reported]

/-- A free log takes the error, with its address (R296, R312). -/
theorem mc_eccBad_of_free (h : bitOf (mc s d).errInfo 31 = false) (hsound : poisoned s d w = false) : mc (eccBad d w who s) d =
    { mc s d with
      errAddr := w, errInfo := BitVec.ofNat 32 (2 ^ 31 + (dramPlace (mc s d).mapLive w).channel * 2 ^ 16 + who) } := by
  rw [eccBad]
  simp only [mc_reported, poisoned_reported, h, hsound, Bool.false_eq_true, if_false, Nat.add_zero]
  rw [mc_modMc, if_pos rfl, mc_reported]

theorem frame_of_faultPass {ws : List Nat} {s u t : State} (h : Mended d ws s u) (g : FaultRead u t) : t = { s with
    pages := t.pages, ctrs := t.ctrs, mcs := t.mcs, broken := t.broken, soft := t.soft, ic := t.ic } := by
  have hsoft : t.soft = u.soft := by rw [g]
  rw [hsoft]
  exact Eq.trans g (congrArg (fun x : State => { x with
    pages := t.pages, ctrs := t.ctrs, mcs := t.mcs, broken := t.broken, ic := t.ic }) h.frame)

/-- The uncorrectable word met, counted, reported and left as it is. -/
def metBad (d w : Nat) (s : State) : State := leaveBad d w (eccBad d w 0x45 s)

theorem faultRead_metBad (d w : Nat) (s : State) : FaultRead s (metBad d w s) := (faultRead_eccBad ..).trans (faultRead_leaveBad ..)

theorem pages_metBad (d w : Nat) (s : State) : (metBad d w s).pages = (raiseBit (pgMc d) 6 s).pages :=
  (pages_leaveBad ..).trans (pages_eccBad ..)

theorem counter_metBad (d w : Nat) (s : State) (k m : Nat) : counter (metBad d w s) k m = counter (bump (pgMc d) 1 1 s) k m := by
  have hctrs : (metBad d w s).ctrs = (bump (pgMc d) 1 1 s).ctrs := (ctrs_leaveBad ..).trans (ctrs_eccBad ..)
  rw [counter, counter, hctrs]

/-- A pass over a die with no uncorrectable word known finds one. -/
theorem patrol_of_double (hsound : ∀ x, x ∈ s.poison ∨ x ∈ s.broken → x / 2 ^ 29 ≠ d) (hw : w < 2 ^ 29) :
    Counted (pgMc d) 2 1 s (patrol d [] [w] s) ∧ Counted (pgMc d) 1 1 s (patrol d [] [w] s) ∧
    bitOf (page (patrol d [] [w] s) (pgMc d)).stat 6 = true ∧
    ((∀ x ∈ s.soft, x / 2 ^ 29 ≠ d) → Struck (pgMc d) 6 s (patrol d [] [w] s)) ∧ wordBad (patrol d [] [w] s) d w = true ∧
    (bitOf (mc s d).errInfo 31 = false → (mc (patrol d [] [w] s) d).errAddr = w ∧ (mc (patrol d [] [w] s) d).errInfo =
      BitVec.ofNat 32 (2 ^ 31 + (dramPlace (mc s d).mapLive w).channel * 2 ^ 16 + 0x45)) ∧
    (bitOf (mc s d).errInfo 31 = true → ∀ e, mc (patrol d [] [w] s) e = mc s e) ∧
    patrol d [] [w] s = { s with pages := (patrol d [] [w] s).pages, ctrs := (patrol d [] [w] s).ctrs,
                                 mcs := (patrol d [] [w] s).mcs, broken := (patrol d [] [w] s).broken,
                                 soft := (patrol d [] [w] s).soft, ic := (patrol d [] [w] s).ic } := by
  have hmended := mended_mendedPass d [] [w] s
  have hpass : patrol d [] [w] s = bump (pgMc d) 2 1 (metBad d w (mendedPass d [] [w] s)) := by
    rw [patrol_eq, foundBad_of_sound hsound]
    rfl
  have hpages : (patrol d [] [w] s).pages = (raiseBit (pgMc d) 6 (mendedPass d [] [w] s)).pages := by
    rw [hpass]
    exact pages_metBad ..
  have hmc : ∀ e, mc (mendedPass d [] [w] s) e = mc s e := fun e => by
    rw [hmended.frame]
    rfl
  have hkept : ∀ e, mc (patrol d [] [w] s) e = mc (eccBad d w 0x45 (mendedPass d [] [w] s)) e := fun e => by
    rw [hpass]
    exact mc_leaveBad ..
  have hclean : poisoned (mendedPass d [] [w] s) d w = false := by
    rw [poisoned, hmended.frame]
    refine Bool.eq_false_iff.mpr fun hpoison => ?_
    exact hsound _ (.inl (List.contains_iff_mem.mp hpoison)) (wordKey_div hw d)
  refine ⟨?_, ?_, ?_, fun hhard => ?_, ?_, fun hfree => ?_, fun hlogged e => ?_, ?_⟩
  · have htwo : counter (metBad d w (mendedPass d [] [w] s)) (pgMc d) 2 = counter s (pgMc d) 2 := by
      rw [counter_metBad, counter_bump, if_neg (by omega), hmended.counts 2 (by decide) (by decide)]
    rw [hpass]
    exact counted_after_kept htwo (counted_bump_same ..)
  · have herror : Counted (pgMc d) 1 1 s (metBad d w (mendedPass d [] [w] s)) := by
      rw [Counted, counter_metBad, counter_bump, if_pos rfl, hmended.counts 1 (by decide) (by decide)]
    rw [hpass]
    refine counted_of_kept herror ?_
    rw [counter_bump, if_neg (by omega)]
  · rw [page, hpages]
    exact bitOf_raiseBit (pgMc d) (by decide) _
  · have hnone : foundSoft d [] [w] s = [] := by
      rw [foundSoft, wordsOn_eq_nil hhard]
      rfl
    have hscanned : mendedPass d [] [w] s = scanned d s := by
      rw [mendedPass, hnone, List.foldl_nil]
    rw [hscanned] at hpages
    exact struck_congr (pages_scanned d s).symm hpages (struck_raiseBit (pgMc d) (by decide) (scanned d s))
  · rw [hpass]
    exact wordBad_leaveBad ..
  · rw [hkept, mc_eccBad_of_free (by rw [hmc, hfree]) hclean, hmc]
    exact ⟨rfl, rfl⟩
  · rw [hkept, mc_eccBad_of_logged (by rw [hmc, hlogged]), hmc]
  · rw [hpass]
    exact congrArg (bump (pgMc d) 2 1) (frame_of_faultPass hmended (faultRead_metBad ..))

end

end Sys2Proof.Laws
end

section
/-! O33: the commands of the memory controller in a part that runs (R295–R305, R310, R312). -/

namespace Sys2Proof.Laws

open Sys2Proof Sys2Proof.Machine

section
variable {s : State} {d : Nat} (hrun : inReset s = false) (hd : d < dies s)
include hrun hd

theorem exec_refreshDue_of_awake {i : Nat} (hi : i < 16) (hawake : (mc s d).selfRefresh = false) :
    exec (.refreshDue d i) s = .next (refreshDue d i s) := by
  change execRefreshDue d i s = _
  rw [execRefreshDue, if_pos hi, atDie_of_guard hrun hd (by rw [hawake]; rfl)]

theorem exec_refreshDue_of_selfRefresh {i : Nat} (hi : i < 16) (hasleep : (mc s d).selfRefresh = true) :
    exec (.refreshDue d i) s = .next s := by
  change execRefreshDue d i s = _
  rw [execRefreshDue, if_pos hi, atDie_of_running hrun hd, guard', if_neg (by simp [hasleep])]

theorem exec_level {p l : Nat} {c : Instr} (hp : p < 12) (hc : c = .panicEntry d p l ∨ c = .panicExit d p l) :
    exec c s = .next (levelTo d p l s) := by
  have hlevel : (if p < 12 then atDie d s (levelTo d p l) else .next s) = .next (levelTo d p l s) := by
    rw [if_pos hp, atDie_of_running hrun hd]
  obtain rfl | rfl := hc
  · exact hlevel
  · exact hlevel

theorem exec_portRun_of_running {p : Nat} (hp : p < 12) :
    exec (.portRun d p) s = .next (bump (pgMc d) 9 1 (raiseBit (pgMc d) 7 (levelTo d p 0 s))) := by
  change execPortRun d p s = _
  rw [execPortRun, if_pos hp, atDie_of_running hrun hd]

theorem exec_mr4PeriodicRead_of_awake (hawake : (mc s d).selfRefresh = false) (codes : List Nat) :
    exec (.mr4PeriodicRead d codes) s = .next (readRound d true codes s) :=
  atDie_of_guard hrun hd (by rw [hawake]; rfl) _

theorem exec_thermalAlert_of_awake (hawake : (mc s d).selfRefresh = false) (codes : List Nat) :
    exec (.thermalAlert d codes) s = .next (readRound d false codes s) :=
  atDie_of_guard hrun hd (by rw [hawake]; rfl) _

theorem exec_patrolPass_of_ready (hready : mcReady s d = true) (singles doubles : List Nat) :
    exec (.patrolPass d singles doubles) s = .next (patrol d singles doubles s) :=
  atDie_of_guard hrun hd hready _

end

/-! ## Refresh and panic -/

section
variable {s : State} {d : Nat} (hrun : inReset s = false) (hd : d < dies s)
include hrun hd

/-- A port that ran dry is struck and counted; its level is 0, and below any watermark it is in panic (R300). -/
theorem portRun_spec {p : Nat} (hp : p < 12) : ∃ t, exec (.portRun d p) s = .next t ∧ bitOf (page t (pgMc d)).stat 7 = true ∧
    Counted (pgMc d) 9 1 s t ∧ portLevel (mc t d) p = 0 ∧
    (0 < watermark (mc s d) p → (∀ q, q ∈ (mc t d).panic ↔ q = p ∨ q ∈ (mc s d).panic) ∧
      (p ∈ (mc s d).panic → Struck (pgMc d) 7 s t) ∧
      (p ∉ (mc s d).panic → Counted (pgMc d) (16 + p) 1 s t ∧ bitOf (page t (pgMc d)).stat 0 = true)) ∧
    t = { s with pages := t.pages, ctrs := t.ctrs, mcs := t.mcs, ic := t.ic } := by
  obtain ⟨hlevel, hnine, hmoved⟩ := kept_levelTo (d := d) (l := 0) (s := s) hp
  have entered := fun hout hlow => entered_levelTo (d := d) (p := p) (l := 0) (s := s) hout hlow
  refine ⟨_, exec_portRun_of_running hrun hd hp, ?_, ?_, ?_, fun hpos => ⟨fun q => ?_, fun hin => ?_, fun hout => ⟨?_, ?_⟩⟩, ?_⟩
  · rw [page_bump]
    exact bitOf_raiseBit _ (by decide) _
  · exact counted_after_kept ((counter_raiseBit ..).trans hnine) (counted_bump_same ..)
  · rw [mc_bump, mc_raiseBit, hlevel, Nat.zero_min]
  · rw [mc_bump, mc_raiseBit]
    by_cases hin : p ∈ (mc s d).panic
    · rw [levelTo_of_steady (.inr ⟨hin, by omega⟩), panic_setLevel]
      exact ⟨.inr, fun h => h.elim (fun hq => hq ▸ hin) id⟩
    · obtain ⟨-, hpanic, -⟩ := entered hin (by omega)
      exact hpanic q
  · rw [levelTo_of_steady (.inr ⟨hin, by omega⟩)]
    exact struck_congr rfl (bump_pages ..) (struck_raiseBit (pgMc d) (by decide) (setLevel d p 0 s))
  · obtain ⟨-, -, -, hcounted, -⟩ := entered hout (by omega)
    refine counted_of_kept hcounted ?_
    rw [counter_bump, if_neg (by omega), counter_raiseBit]
  · obtain ⟨-, -, hpanics, -⟩ := entered hout (by omega)
    have hflags := (FlagsKept.refl (levelTo d p 0 s)).raised (pgMc d) 7
    rw [page_bump]
    exact hflags.bits (pgMc d) 0 (bitOf_of_struck (by decide) hpanics)
  · exact (hmoved.raised ..).bumped ..

end

/-! ## Repayments and rounds of reads -/

section
variable {s : State} {d : Nat}

/-- A command that falls due during a repayment joins it, or is issued at its end (R302). -/
theorem refreshDue_of_repaying {i n : Nat} {x : Mch} (hx : mch (mc s d) i = x) (hpaying : x.paying = true)
    (hmust : 0 < x.rate ∨ (mc s d).panic = []) (hn : n = cdiv (x.payFor + refreshEvery x.rate) 90 - x.paid) :
    (n < x.debt → Counted (pgMc d) 3 n s (refreshDue d i s) ∧ (mch (mc (refreshDue d i s) d) i).debt = x.debt - n + 1 ∧
      (mch (mc (refreshDue d i s) d) i).paying = true) ∧
    (x.debt ≤ n → Counted (pgMc d) 3 (x.debt + 1) s (refreshDue d i s) ∧ (mch (mc (refreshDue d i s) d) i).debt = 0 ∧
      (mch (mc (refreshDue d i s) d) i).paying = false) ∧
    (∀ j, j ≠ i → mch (mc (refreshDue d i s) d) j = mch (mc s d) j) ∧
    (∀ e, e ≠ d → mc (refreshDue d i s) e = mc s e) ∧
    refreshDue d i s = { s with ctrs := (refreshDue d i s).ctrs, mcs := (refreshDue d i s).mcs } := by
  by_cases howing : n < x.debt
  · obtain ⟨hjoined, hgoes⟩ := refreshed_refreshDue_of_owing hx hpaying hmust hn howing
    refine ⟨fun _ => ⟨hjoined.issued, ?_, ?_⟩, fun h => absurd h (by omega), fun j hj => ?_, hjoined.others, hjoined.frame⟩
    · rw [hjoined.chans, Function.update_self]
    · rw [hjoined.chans, Function.update_self]
      exact hgoes
    · rw [hjoined.chans, Function.update_of_ne hj]
  · obtain ⟨hended, hnone, hidle⟩ := refreshed_refreshDue_of_repaid hx hpaying hmust hn (by omega)
    refine ⟨fun h => absurd h howing, fun _ => ⟨hended.issued, ?_, ?_⟩, fun j hj => ?_, hended.others, hended.frame⟩
    · rw [hended.chans, Function.update_self, hnone]
    · rw [hended.chans, Function.update_self, hidle]
    · rw [hended.chans, Function.update_of_ne hj]

variable {codes : List Nat} (hcodes : codes.length = 16)
include hcodes

/-- The read of every 16 ms (R303). -/
theorem periodicRead_spec :
    (∀ i, i < 16 → (mch (mc (readRound d true codes s) d) i).rate =
      if (mch (mc s d) i).rate < min (codes.getD i 0) 2 then min (codes.getD i 0) 2
      else if min (codes.getD i 0) 2 < (mch (mc s d) i).rate ∧ (mch (mc s d) i).low = 1 then (mch (mc s d) i).rate - 1
      else (mch (mc s d) i).rate) ∧
    (∀ i, i < 16 → (mch (mc (readRound d true codes s) d) i).low =
      if min (codes.getD i 0) 2 < (mch (mc s d) i).rate ∧ (mch (mc s d) i).low ≠ 1 then (mch (mc s d) i).low + 1 else 0) ∧
    (∀ i, i < 16 → (mch (mc (readRound d true codes s) d) i).rate ≠ (mch (mc s d) i).rate →
      (mc (readRound d true codes s) d).trackWant = true) ∧
    (∀ i, i < 16 → 3 ≤ codes.getD i 0 → bitOf (page (readRound d true codes s) (pgMc d)).stat 8 = true) ∧
    (fourX s d = false → fourX (readRound d true codes s) d = true → Counted (pgMc d) 7 1 s (readRound d true codes s) ∧
      bitOf (page (readRound d true codes s) (pgMc d)).stat 3 = true) ∧
    (∀ e, e ≠ d → mc (readRound d true codes s) e = mc s e) ∧ RoundMoved s (readRound d true codes s) := by
  obtain ⟨hreads, hentry, hothers, hmoved⟩ := readRound_spec (d := d) hcodes true s
  refine ⟨fun i hi => ?_, fun i hi => ?_, fun i hi => (hreads i hi).wants, fun i hi => (hreads i hi).hot, hentry, hothers, hmoved⟩
  · rw [(hreads i hi).chan]
    exact rate_classed_periodic ..
  · rw [(hreads i hi).chan]
    exact low_classed_periodic ..

/-- The read that an alert prompts (R303, R304). -/
theorem alertRead_spec :
    (∀ i, i < 16 → (mch (mc (readRound d false codes s) d) i).rate = max (mch (mc s d) i).rate (min (codes.getD i 0) 2)) ∧
    (∀ i, i < 16 → (mch (mc s d) i).rate = 0 → 0 < min (codes.getD i 0) 2 → 0 < (mch (mc s d) i).debt →
      (mch (mc (readRound d false codes s) d) i).debt =
        (if (mch (mc s d) i).paying then (mch (mc s d) i).debt else (mch (mc s d) i).debt - 1) ∧
      bitOf (page (readRound d false codes s) (pgMc d)).stat 1 = true) ∧
    (∀ i, i < 16 → (0 < (mch (mc s d) i).rate ∨ min (codes.getD i 0) 2 = 0) →
      (mch (mc (readRound d false codes s) d) i).debt = (mch (mc s d) i).debt) ∧
    (∀ i, i < 16 → (mch (mc (readRound d false codes s) d) i).rate ≠ (mch (mc s d) i).rate →
      (mc (readRound d false codes s) d).trackWant = true) ∧
    (∀ e, e ≠ d → mc (readRound d false codes s) e = mc s e) ∧ RoundMoved s (readRound d false codes s) := by
  obtain ⟨hreads, -, hothers, hmoved⟩ := readRound_spec (d := d) hcodes false s
  refine ⟨fun i hi => ?_, fun i hi hrate hc hdebt => ⟨?_, (hreads i hi).flush hrate hc hdebt⟩, fun i hi hkept => ?_,
    fun i hi => (hreads i hi).wants, hothers, hmoved⟩
  · rw [(hreads i hi).chan]
    exact rate_classed_alert ..
  · rw [(hreads i hi).chan]
    exact debt_classed_of_crossing _ _ _ hrate hc hdebt
  · rw [(hreads i hi).chan]
    exact debt_classed_of_kept _ _ hkept

end

/-- Settles O33: a command that falls due is postponed, joined to a repayment or issued; a level moves its port into panic, out of it or
neither; each channel's read is `classed`; a pass mends its words and leaves an uncorrectable one. -/
theorem refreshRatesAndPatrol : Obligations.RefreshRatesAndPatrol := by
  unfold Obligations.RefreshRatesAndPatrol
  refine ⟨fun d s hrun hd => ⟨fun i hi hawake hrate hpanic hdebt hidle => ?_, fun i hi hawake hidle hmust => ?_,
    fun i x n hi hawake hx hpaying hmust hn => ?_, fun i hi => exec_refreshDue_of_selfRefresh hrun hd hi,
    fun p l c hp hc => ⟨fun hout hlow => ?_, fun hin hhigh => ?_, fun hsteady => ?_⟩, fun p hp => portRun_spec hrun hd hp⟩,
    fun d codes s hrun hd hawake hcodes => ⟨?_, ?_⟩, fun d s hrun hd hready hsound => ⟨fun ws => ?_, fun w hw => ?_⟩⟩
  · exact ⟨_, exec_refreshDue_of_awake hrun hd hi hawake, refreshDue_postponed hrate hpanic hdebt hidle⟩
  · have hissued := refreshed_refreshDue_of_idle hidle hmust
    exact ⟨_, exec_refreshDue_of_awake hrun hd hi hawake, hissued.issued, hissued.chans, hissued.others, hissued.frame⟩
  · refine ⟨_, exec_refreshDue_of_awake hrun hd hi hawake, ?_⟩
    exact refreshDue_of_repaying hx.symm hpaying hmust hn
  · exact ⟨_, exec_level hrun hd hp hc, entered_levelTo hout hlow⟩
  · exact ⟨_, exec_level hrun hd hp hc, exited_levelTo hin hhigh⟩
  · refine ⟨_, exec_level hrun hd hp hc, ?_⟩
    rw [levelTo_of_steady hsteady]
    exact ⟨portLevel_setLevel .., panic_setLevel .., rfl⟩
  · exact ⟨_, exec_mr4PeriodicRead_of_awake hrun hd hawake codes, periodicRead_spec hcodes⟩
  · exact ⟨_, exec_thermalAlert_of_awake hrun hd hawake codes, alertRead_spec hcodes⟩
  · exact ⟨_, exec_patrolPass_of_ready hrun hd hready .., patrol_of_singles hsound ws⟩
  · exact ⟨_, exec_patrolPass_of_ready hrun hd hready .., patrol_of_double hsound hw⟩

end Sys2Proof.Laws
end

section
/-! The step, and the part at reset (log entries 1 to 4, 10, 11). -/

namespace Sys2Proof.Laws

open Sys2Proof Sys2Proof.Machine

/-- Settles O1: a step looks at the front of the queue alone. -/
theorem stepRunsTheFront : Obligations.StepRunsTheFront := by
  unfold Obligations.StepRunsTheFront
  refine ⟨fun c rest s h => ?_, fun s h => ?_⟩ <;> rw [step, h]

/-- The domains that are up at reset are the FAB domains (R101). -/
theorem mem_domUp_reset (x : Nat) : x ∈ State.reset.pwr.domUp ↔ x < 128 ∧ x % 16 = 15 := by
  simp only [State.reset, List.mem_cons, List.not_mem_nil, or_false]
  omega

/-- Settles O57: no table of the reset state lists an entry, so each word reads as its reset value. -/
theorem resetIsCanonical : Obligations.ResetIsCanonical := by
  unfold Obligations.ResetIsCanonical Canonical
  exact ⟨⟨rfl, rfl, rfl, rfl⟩, rfl, rfl, rfl, rfl, mem_domUp_reset, fun _ => ⟨rfl, rfl, rfl⟩, fun _ _ => rfl, fun _ => rfl, fun _ => rfl⟩

end Sys2Proof.Laws
end

section
/-! The interrupt controller's operations (R419–R433): an evaluation of delivery moves of page 2 only the counters 8, 10 and 14,
and leaves of a change to one source everything but the redirections. -/

namespace Sys2Proof.Laws

open Sys2Proof Sys2Proof.Machine

/-! ## Counters through an evaluation of delivery -/

/-- What delivery leaves of a state, and of the counters of its own page all but those it moves. -/
structure IcSettled (s t : State) : Prop extends IcKept s t where
  counts : ∀ n, n < 128 → n ∉ [8, 10, 14] → counter t 2 n = counter s 2 n

theorem IcSettled.refl (s : State) : IcSettled s s := ⟨.refl s, fun _ _ _ => rfl⟩

theorem IcSettled.trans {s t u : State} (h : IcSettled s t) (g : IcSettled t u) : IcSettled s u :=
  ⟨h.toIcKept.trans g.toIcKept, fun n hn hl => (g.counts n hn hl).trans (h.counts n hn hl)⟩

theorem IcSettled.ite {s a b : State} {c : Prop} [Decidable c] (ha : IcSettled s a) (hb : IcSettled s b) :
    IcSettled s (if c then a else b) := by
  split
  · exact ha
  · exact hb

theorem IcSettled.foldl {α : Type} {f : State → α → State} (h : ∀ s a, IcSettled s (f s a)) (l : List α) (s : State) :
    IcSettled s (l.foldl f s) := by
  induction l generalizing s with
  | nil => exact .refl s
  | cons a l ih => exact (h s a).trans (ih _)

/-- A step of delivery that moves no counter. -/
theorem IcSettled.uncounted {s t : State} (h : IcKept s t) (hctrs : t.ctrs = s.ctrs) : IcSettled s t :=
  ⟨h, fun n _ _ => by rw [counter, hctrs]; rfl⟩

theorem icSettled_raiseBit (i : Nat) (s : State) : IcSettled s (raiseBit pgIc i s) :=
  .uncounted (.raiseBit i s) (by rw [raiseBit_frame])

theorem icSettled_bump {n : Nat} (hn : n ∈ [8, 10, 14]) (x : Nat) (s : State) : IcSettled s (bump pgIc n x s) where
  toIcKept := .bump n x s (by simp only [List.mem_cons, List.not_mem_nil, or_false] at hn; omega)
  counts m hm hl := by
    rw [counter_bump, if_neg]
    rintro h
    have hmn : m = n := by rw [pgIc] at h; omega
    exact hl (hmn ▸ hn)

theorem icSettled_wakeRequest (d : Nat) (s : State) : IcSettled s (wakeRequest d s) := by
  refine ⟨.wakeRequest d s, fun n _ _ => ?_⟩
  unfold wakeRequest
  split
  · rfl
  · split
    · exact (counter_bump ..).trans (if_neg (by rw [pgPwr]; omega))
    · rfl

theorem icSettled_redirect (n : Nat) (s : State) : IcSettled s (redirect n s) :=
  ((IcSettled.uncounted (.modSrc n _ s fun _ => rfl) rfl).trans (icSettled_raiseBit 4 _)).trans (icSettled_bump (by decide) 1 _)

theorem icSettled_sendMsix (v : Nat) (s : State) : IcSettled s (sendMsix v s) :=
  (icSettled_bump (by decide) 1 s).trans (.uncounted (.emit _ _) rfl)

theorem icSettled_signalMsix (v t : Nat) (s : State) : IcSettled s (signalMsix v t s) :=
  .ite (.uncounted (.pends _ s) rfl) (icSettled_sendMsix v s)

theorem icSettled_present (t n p : Nat) (s : State) : IcSettled s (present t n p s) := by
  have hmarked : IcSettled s { s with ic := { s.ic with presented := s.ic.presented.set (fun _ => 0) t (1 + 16 * n + p) } } :=
    .uncounted ⟨rfl, fun _ => rfl, fun _ _ => rfl, fun _ _ _ _ _ => rfl, fun _ h => ⟨h, Iff.rfl, rfl⟩⟩ rfl
  exact .ite (hmarked.trans (icSettled_signalMsix ..)) hmarked

theorem icSettled_presentSource (t n : Nat) (s : State) : IcSettled s (presentSource t n s) := by
  unfold presentSource
  extract_lets x
  refine .ite (.refl s) ?_
  split
  · exact icSettled_present ..
  · exact .ite (icSettled_present ..) (.refl s)

theorem icSettled_presentTo (t : Nat) (s : State) : IcSettled s (presentTo t s) := by
  unfold presentTo
  split
  · exact .refl s
  · exact icSettled_presentSource ..

theorem icSettled_enqueueWake (n t : Nat) (s : State) : IcSettled s (enqueueWake n t s) := by
  have hjoined : IcSettled s { s with ic := { s.ic with wakeQ := s.ic.wakeQ ++ [(n, t)] } } :=
    .uncounted ⟨rfl, fun _ => rfl, fun _ _ => rfl, fun _ _ _ _ _ => rfl, fun _ h => ⟨h, Iff.rfl, rfl⟩⟩ rfl
  have hqueued := hjoined.trans (icSettled_bump (n := 14) (by decide) 1 _)
  exact .ite ((icSettled_raiseBit 5 s).trans (icSettled_redirect n _)) (.ite (hqueued.trans (icSettled_wakeRequest ..)) hqueued)

theorem icSettled_evalIc (first : List (Nat × Nat)) (s : State) : IcSettled s (evalIc first s) :=
  ((IcSettled.foldl (fun s _ => .ite (icSettled_enqueueWake ..) (.refl s)) s.ic.srcs s).trans
    (.foldl (fun _ _ => icSettled_presentSource ..) _ _)).trans (.foldl (fun _ _ => icSettled_presentTo ..) _ _)

theorem icSettled_unqueue (n : Nat) (s : State) : IcSettled s (unqueue n s) := .uncounted (.unqueue n s) rfl

/-! ## One source changed -/

/-- From `s` to `t` source `n` has become `x`, but for its redirection, and every other source is the same but for its own. -/
structure SourceBecomes (n : Nat) (x : Src) (s t : State) : Prop where
  own : src t n = { x with redir := (src t n).redir }
  other : ∀ m, m ≠ n → src t m = { src s m with redir := (src t m).redir }

theorem SourceBecomes.kept {n : Nat} {x : Src} {s t u : State} (h : SourceBecomes n x s t) (g : IcKept t u) : SourceBecomes n x s u :=
  ⟨by rw [g.srcs n, h.own], fun m hm => by rw [g.srcs m, h.other m hm]⟩

theorem SourceBecomes.sourceIs {n : Nat} {x : Src} {s t : State} (h : SourceBecomes n x s t) : SourceIs n x s t := ⟨h.own, h.other⟩

/-- A source changed by `f` in a state with the sources of `s`. -/
theorem sourceBecomes_modSrc (n : Nat) (f : Src → Src) {s u : State} (hu : ∀ m, src u m = src s m) :
    SourceBecomes n (f (src s n)) s (modSrc n f u) := by
  refine ⟨?_, fun m hm => ?_⟩
  · rw [src_modSrc, if_pos rfl, hu]
  · rw [src_modSrc, if_neg hm, hu]

/-- What an evaluation of delivery may change, where counters `l` of page 2 move with it: `Delivered`, field by field. -/
structure DeliveryKept (l : List Nat) (s t : State) : Prop where
  page : ∀ k, k ≠ 2 → page t k = page s k
  ctr : ∀ k n, n < 128 → k ≠ 2 → ¬ (k = 4 ∧ n = 2) → counter t k n = counter s k n
  own : ∀ n, n < 128 → n ∉ l → n ∉ [8, 10, 14] → counter t 2 n = counter s 2 n
  frame : t = { s with out := t.out, pages := t.pages, ctrs := t.ctrs
                       ic := { t.ic with timeout := s.ic.timeout, hvec := s.ic.hvec, retained := s.ic.retained }
                       pwr := { s.pwr with asleep := t.pwr.asleep, waking := t.pwr.waking, wakeWanted := t.pwr.wakeWanted
                                           sleepWanted := t.pwr.sleepWanted, sleepReg := t.pwr.sleepReg
                                           wakeStep := t.pwr.wakeStep, laneCal := t.pwr.laneCal } }

theorem DeliveryKept.delivered {l : List Nat} {s t : State} (h : DeliveryKept l s t) : Delivered l s t := ⟨h.page, h.ctr, h.own, h.frame⟩

section
variable {l : List Nat}

theorem DeliveryKept.trans {s t u : State} (h : DeliveryKept l s t) (g : DeliveryKept l t u) : DeliveryKept l s u where
  page k hk := (g.page k hk).trans (h.page k hk)
  ctr k n hn hk h4 := (g.ctr k n hn hk h4).trans (h.ctr k n hn hk h4)
  own n hn hl h8 := (g.own n hn hl h8).trans (h.own n hn hl h8)
  frame := by
    have moved := g.frame
    rw [h.frame] at moved
    exact moved

theorem IcSettled.deliveryKept {s t : State} (h : IcSettled s t) : DeliveryKept l s t :=
  ⟨h.page, h.ctr, fun n hn _ h8 => h.counts n hn h8, h.frame⟩

theorem deliveryKept_modSrc (n : Nat) (f : Src → Src) (s : State) : DeliveryKept l s (modSrc n f s) :=
  ⟨fun _ _ => rfl, fun _ _ _ _ _ => rfl, fun _ _ _ _ => rfl, rfl⟩

/-- A count of page 2, on a counter listed or by nothing. -/
theorem deliveryKept_bump {n x : Nat} (hn : n < 128) (hl : n ∈ l ∨ x = 0) (s : State) : DeliveryKept l s (bump pgIc n x s) where
  page _ _ := rfl
  ctr k m hm hk _ := by rw [counter_bump, if_neg (by rw [pgIc]; omega)]
  own m hm hml _ := by
    rw [counter_bump]
    split
    · next h =>
      have hmn : m = n := by rw [pgIc] at h; omega
      subst hmn
      rw [hl.resolve_left hml]
      exact BitVec.add_zero _
    · rfl
  frame := rfl

end

/-! ## Counters and flags of a page -/

theorem counter_bump_self (k n x : Nat) (s : State) : counter (bump k n x s) k n = counter s k n + BitVec.ofNat 64 x := by
  rw [counter_bump, if_pos rfl]

theorem counter_bump_other {k n k' n' : Nat} (h : 128 * k' + n' ≠ 128 * k + n) (x : Nat) (s : State) :
    counter (bump k n x s) k' n' = counter s k' n' := by
  rw [counter_bump, if_neg h]

@[simp] theorem counter_modSrc (n : Nat) (f : Src → Src) (s : State) (k m : Nat) : counter (modSrc n f s) k m = counter s k m := rfl

/-- A count by nothing. -/
theorem counted_zero {k n : Nat} {s t : State} (h : counter t k n = counter s k n) : Counted k n 0 s t :=
  h.trans (BitVec.add_zero _).symm

theorem page_raiseBit_other {k j : Nat} (h : j ≠ k) (i : Nat) (s : State) : page (raiseBit k i s) j = page s j := by
  rw [raiseBit, page_raise, if_neg h]

theorem counted_bump_raiseBit (k n i x : Nat) (s : State) : Counted k n x s (bump k n x (raiseBit k i s)) := by
  rw [Counted, counter_bump_self, counter_raiseBit]

/-- An event struck and counted on a page moves its flags, counters and messages alone. -/
theorem bump_raiseBit_frame (k n i x : Nat) (s : State) : bump k n x (raiseBit k i s) =
    { s with pages := (bump k n x (raiseBit k i s)).pages, ctrs := (bump k n x (raiseBit k i s)).ctrs
             ic := { s.ic with inflight := (bump k n x (raiseBit k i s)).ic.inflight } } := by
  rw [raiseBit_frame]
  rfl

/-! ## Messages and the bits of a source -/

/-- The state with the counts of a message that an enabled source takes (R422). -/
def messageCounted (n : Nat) (s : State) : State := if (src s n).pend then bump pgIc 2 1 (bump pgIc 0 1 s) else bump pgIc 0 1 s

theorem src_messageCounted (n : Nat) (s : State) (m : Nat) : src (messageCounted n s) m = src s m := by
  unfold messageCounted
  split <;> rfl

theorem counter_messageCounted_received (n : Nat) (s : State) : counter (messageCounted n s) 2 0 = counter s 2 0 + 1 := by
  unfold messageCounted
  split
  · rw [counter_bump_other (by decide)]
    exact counter_bump_self ..
  · exact counter_bump_self ..

theorem counted_messageCounted_merged (n : Nat) (s : State) : Counted 2 2 (if (src s n).pend then 1 else 0) s (messageCounted n s) := by
  have hnone : counter (bump pgIc 0 1 s) 2 2 = counter s 2 2 := counter_bump_other (by decide) ..
  unfold messageCounted
  split
  · exact (counter_bump_self 2 2 1 _).trans (by rw [hnone])
  · exact counted_zero hnone

theorem deliveryKept_messageCounted (n : Nat) (s : State) : DeliveryKept [0, 2] s (messageCounted n s) := by
  have hreceived : DeliveryKept [0, 2] s (bump pgIc 0 1 s) := deliveryKept_bump (by decide) (.inl (by decide)) s
  unfold messageCounted
  split
  · exact hreceived.trans (deliveryKept_bump (by decide) (.inl (by decide)) _)
  · exact hreceived

theorem icTake_of_enabled {s : State} {n : Nat} (hen : (src s n).en = true) :
    icTake n s = modSrc n (fun x => { x with pend := true }) (messageCounted n s) := by
  rw [icTake, hen]
  rfl

theorem icTake_of_disabled {s : State} {n : Nat} (hen : (src s n).en = false) : icTake n s = bump pgIc 1 1 (raiseBit pgIc 1 s) := by
  rw [icTake, hen]
  rfl

theorem icMessage_of_disabled {s : State} {n : Nat} (hen : (src s n).en = false) : icMessage n s = bump pgIc 1 1 (raiseBit pgIc 1 s) := by
  rw [icMessage, if_neg (by simp [hen]), icTake_of_disabled hen]

section
variable {s : State} {n : Nat} (hen : (src s n).en = true)
include hen

theorem icMessage_of_enabled :
    icMessage n s = evalIc [] (modSrc n (fun x => { x with pend := true }) (messageCounted n s)) := by
  rw [icMessage, if_pos hen, icTake_of_enabled hen]

theorem sourceBecomes_icMessage : SourceBecomes n { src s n with pend := true } s (icMessage n s) := by
  rw [icMessage_of_enabled hen]
  exact (sourceBecomes_modSrc n (fun x => { x with pend := true }) (src_messageCounted n s)).kept (icSettled_evalIc ..).toIcKept

theorem counted_icMessage_received : Counted 2 0 1 s (icMessage n s) := by
  rw [icMessage_of_enabled hen, Counted, (icSettled_evalIc ..).counts 0 (by decide) (by decide), counter_modSrc]
  exact counter_messageCounted_received n s

theorem counted_icMessage_merged : Counted 2 2 (if (src s n).pend then 1 else 0) s (icMessage n s) := by
  rw [icMessage_of_enabled hen, Counted, (icSettled_evalIc ..).counts 2 (by decide) (by decide), counter_modSrc]
  exact counted_messageCounted_merged n s

theorem deliveryKept_icMessage : DeliveryKept [0, 2] s (icMessage n s) := by
  rw [icMessage_of_enabled hen]
  exact ((deliveryKept_messageCounted n s).trans (deliveryKept_modSrc ..)).trans (icSettled_evalIc ..).deliveryKept

end

theorem atSource_of_exists {s : State} {v : Word} (hv : v.toNat < 512 * dies s) (k : Nat → State → State) :
    atSource v k s = k v.toNat s :=
  if_pos (decide_eq_true hv)

/-- A write that names a source beyond the variant (R420). -/
theorem atSource_of_missing {s : State} {v : Word} (hv : 512 * dies s ≤ v.toNat) (k : Nat → State → State) :
    atSource v k s = bump pgIc 9 1 (raiseBit pgIc 7 s) :=
  if_neg (by simpa [sourceExists] using hv)

/-! ## The interrupt registers -/

/-- A bit of source `n` written, with the collision of a set and a clear counted (R422). -/
def sourceWritten (n : Nat) (f : Src → Src) (hit : Bool) (s : State) : State :=
  evalIc [] (modSrc n f (bump pgIc 3 (if hit then 1 else 0) s))

section
variable (n : Nat) (f : Src → Src) (hit : Bool) (s : State)

theorem sourceBecomes_sourceWritten : SourceBecomes n (f (src s n)) s (sourceWritten n f hit s) :=
  (sourceBecomes_modSrc n f (s := s) (u := bump pgIc 3 (if hit then 1 else 0) s) fun _ => rfl).kept (icSettled_evalIc ..).toIcKept

theorem counted_sourceWritten : Counted 2 3 (if hit then 1 else 0) s (sourceWritten n f hit s) := by
  rw [Counted, sourceWritten, (icSettled_evalIc ..).counts 3 (by decide) (by decide), counter_modSrc]
  exact counter_bump_self ..

theorem deliveryKept_sourceWritten {l : List Nat} (hl : 3 ∈ l ∨ hit = false) : DeliveryKept l s (sourceWritten n f hit s) := by
  have hcount : 3 ∈ l ∨ (if hit then 1 else 0) = 0 := hl.imp id fun h => by rw [h]; rfl
  exact ((deliveryKept_bump (by decide) hcount s).trans (deliveryKept_modSrc ..)).trans (icSettled_evalIc ..).deliveryKept

end

/-- MASK of a source written; a source that it unmasks is redirected no more (R434). -/
def withMask (b : Bool) (x : Src) : Src := { x with mask := b, redir := x.redir && !(x.mask && !b && x.svc.isNone) }

/-- PENDING of a source cleared (R422, R433). -/
def sourceCleared (n : Nat) (s : State) : State := evalIc [] (unqueue n (modSrc n (fun x => { x with pend := false }) s))

theorem sourceBecomes_sourceCleared (n : Nat) (s : State) : SourceBecomes n { src s n with pend := false } s (sourceCleared n s) :=
  ((sourceBecomes_modSrc n (fun x => { x with pend := false }) (s := s) fun _ => rfl).kept
    (icSettled_unqueue ..).toIcKept).kept (icSettled_evalIc ..).toIcKept

theorem deliveryKept_sourceCleared (n : Nat) (s : State) : DeliveryKept [] s (sourceCleared n s) :=
  ((deliveryKept_modSrc ..).trans (icSettled_unqueue ..).deliveryKept).trans (icSettled_evalIc ..).deliveryKept

section
variable {s : State} {v : Word} (hv : v.toNat < 512 * dies s)
include hv

theorem icClear_of_noCollision {hit : Bool} (h : (hit && (src s v.toNat).pend) = false) : icClear v hit s = sourceCleared v.toNat s :=
  (atSource_of_exists hv _).trans (if_neg (by simp [h]))

theorem icClear_of_collision (hpend : (src s v.toNat).pend = true) : icClear v true s = bump pgIc 3 1 s :=
  (atSource_of_exists hv _).trans (if_pos (by simp [hpend]))

theorem icEnable_of_exists (b hit : Bool) : icEnable v b hit s = sourceWritten v.toNat (fun x => { x with en := b || hit }) hit s :=
  atSource_of_exists hv _

theorem icMask_of_exists (b hit : Bool) : icMask v b hit s = sourceWritten v.toNat (withMask (b || hit)) hit s :=
  atSource_of_exists hv _

end

end Sys2Proof.Laws
end

section
/-! Interrupt sources (R421, R422, R424) and the refutation of O44. -/

namespace Sys2Proof.Laws

open Sys2Proof Sys2Proof.Machine

/-! ## Routing (R424) -/

/-- What a routing entry leaves of a source, its redirection apart. -/
def routed (s : State) (n : Nat) (v : Word) : Src :=
  { src s n with
    remote := bitOf v 27, wake := bitOf v 26, prio := fld v 3 0
    target := if targetExists s (fld v 16 8) then fld v 16 8 else (src s n).target
    fallback := if targetExists s (fld v 25 17) then fld v 25 17 else (src s n).fallback }

/-- The queue and the wakes before a routing entry is taken (R432). -/
def routePrepared (n : Nat) (v : Word) (s : State) : State :=
  let t := (routed s n v).target
  let u := if t ≠ (src s n).target then unqueue n s else s
  if bitOf v 26 ∧ t < 32 ∧ u.ic.wakeQ.any (fun e => decide (e.1 = n)) = true then wakeRequest (t / 4) u else u

theorem icSettled_routePrepared (n : Nat) (v : Word) (s : State) : IcSettled s (routePrepared n v s) := by
  have hunqueued : IcSettled s (if (routed s n v).target ≠ (src s n).target then unqueue n s else s) :=
    .ite (icSettled_unqueue n s) (.refl s)
  exact .ite (hunqueued.trans (icSettled_wakeRequest ..)) hunqueued

theorem src_routePrepared (n : Nat) (v : Word) (s : State) (m : Nat) : src (routePrepared n v s) m = src s m := by
  unfold routePrepared wakeRequest unqueue
  dsimp only
  repeat' split
  all_goals rfl

theorem routeSource_of_exists {s : State} {n : Nat} (hn : n < 512 * dies s) (v : Word) : routeSource n v s =
    evalIc [] (modSrc n (fun x => { x with
      remote := bitOf v 27, wake := bitOf v 26, fallback := (routed s n v).fallback, target := (routed s n v).target, prio := fld v 3 0
      redir := x.redir && !(decide ((routed s n v).fallback ≠ x.fallback) && x.svc.isNone) }) (routePrepared n v s)) := by
  rw [routeSource, if_pos (show sourceExists s n = true from decide_eq_true hn)]
  rfl

theorem routeSource_of_missing {s : State} {n : Nat} (hn : 512 * dies s ≤ n) (v : Word) : routeSource n v s = s :=
  if_neg (by simpa [sourceExists] using hn)

section
variable {s : State} {n : Nat} (hn : n < 512 * dies s) (v : Word)
include hn

theorem sourceBecomes_routeSource : SourceBecomes n (routed s n v) s (routeSource n v s) := by
  rw [routeSource_of_exists hn]
  have hset := (sourceBecomes_modSrc n (fun x => { x with
      remote := bitOf v 27, wake := bitOf v 26, fallback := (routed s n v).fallback, target := (routed s n v).target, prio := fld v 3 0
      redir := x.redir && !(decide ((routed s n v).fallback ≠ x.fallback) && x.svc.isNone) })
    (src_routePrepared n v s)).kept (icSettled_evalIc [] _).toIcKept
  exact ⟨hset.own, hset.other⟩

theorem deliveryKept_routeSource : DeliveryKept [] s (routeSource n v s) := by
  rw [routeSource_of_exists hn]
  exact ((icSettled_routePrepared n v s).deliveryKept.trans (deliveryKept_modSrc ..)).trans (icSettled_evalIc ..).deliveryKept

end

/-! ## The commands -/

/-- Settles O43: each register changes its bit of its source before delivery is evaluated, and the evaluation leaves all but
redirections. -/
theorem sourceBitsAndRoutes : Obligations.SourceBitsAndRoutes := by
  unfold Obligations.SourceBitsAndRoutes
  refine fun s hrun => ⟨fun v hv => ⟨?_, fun hpend => ?_, fun hpend => ?_, ?_, fun hit => ?_, ?_, fun hit => ?_⟩,
    fun n v hn => ?_, fun n v hn => ?_⟩
  · have hclear := icClear_of_noCollision hv (hit := false) rfl
    exact ⟨_, (next_whenUp hrun _).trans (congrArg _ hclear), (sourceBecomes_sourceCleared ..).sourceIs, (deliveryKept_sourceCleared ..).delivered⟩
  · have hclear := icClear_of_noCollision hv (hit := true) (by simp [hpend])
    exact ⟨_, (next_whenUp hrun _).trans (congrArg _ hclear), by rw [(sourceBecomes_sourceCleared ..).own]⟩
  · exact ⟨_, (next_whenUp hrun _).trans (congrArg _ (icClear_of_collision hv hpend)), counter_bump_self .., rfl⟩
  · have hset := icEnable_of_exists hv true false
    exact ⟨_, (next_whenUp hrun _).trans (congrArg _ hset), (sourceBecomes_sourceWritten ..).sourceIs,
      (deliveryKept_sourceWritten _ _ _ _ (.inr rfl)).delivered⟩
  · have hset := icEnable_of_exists hv false hit
    exact ⟨_, (next_whenUp hrun _).trans (congrArg _ hset), (sourceBecomes_sourceWritten ..).sourceIs, counted_sourceWritten ..,
      (deliveryKept_sourceWritten _ _ _ _ (.inl (by decide))).delivered⟩
  · have hset := icMask_of_exists hv true false
    have hbecomes := sourceBecomes_sourceWritten v.toNat (withMask true) false s
    exact ⟨_, (next_whenUp hrun _).trans (congrArg _ hset), ⟨hbecomes.own, hbecomes.other⟩,
      (deliveryKept_sourceWritten _ _ _ _ (.inr rfl)).delivered⟩
  · have hset := icMask_of_exists hv false hit
    have hbecomes := sourceBecomes_sourceWritten v.toNat (withMask hit) hit s
    exact ⟨_, (next_whenUp hrun _).trans (congrArg _ hset), ⟨hbecomes.own, hbecomes.other⟩, counted_sourceWritten ..,
      (deliveryKept_sourceWritten _ _ _ _ (.inl (by decide))).delivered⟩
  · exact ⟨_, next_whenUp hrun _, (sourceBecomes_routeSource hn v).sourceIs, (deliveryKept_routeSource hn v).delivered⟩
  · exact (next_whenUp hrun _).trans (congrArg _ (routeSource_of_missing hn v))

/-! ## Claims

The sources stand in a table by their numbers. The statement asks nothing of that table, and in one that lists a number twice a claim
finds the priority of the second entry and takes into service that of the first, which is what the number reads as. -/

/-- A part whose table of sources lists source 0 twice; the second entry is deliverable to the first core of die 0, at priority 1. -/
def twiceListedPart : State :=
  { pwr := { supplied := true }, ic := { srcs := [(0, {}), (0, { pend := true, en := true, prio := 1 })] } }

theorem exec_icClaim_of_running {s : State} (hrun : inReset s = false) {t : Nat} (ht : t < 288) (late : List Nat) :
    exec (.icClaim t late) s = .next (icClaim t late s) := by
  refine (next_whenUp hrun _).trans (congrArg _ ?_)
  exact if_pos (decide_eq_true ht)

theorem svc_icClaim_twiceListedPart : (src (icClaim 0 [] twiceListedPart) 0).svc = some (0, 0) := by decide

/-- Refutes O44: the claim answers priority 1, and the source is in service at priority 0. -/
theorem not_claimCompleteAndWake : ¬ Obligations.ClaimCompleteAndWake := by
  unfold Obligations.ClaimCompleteAndWake
  intro h
  obtain ⟨claims, -⟩ := h twiceListedPart rfl
  obtain ⟨⟨u, hu, -, ⟨hown, -⟩, -⟩, -⟩ := claims 0 0 { pend := true, en := true, prio := 1 } [(0, {})] [] (by decide) rfl (by decide)
    (by decide) (by decide)
  rw [exec_icClaim_of_running rfl (by decide)] at hu
  obtain rfl := Host.Outcome.next.inj hu
  have hsvc := congrArg Src.svc hown
  rw [svc_icClaim_twiceListedPart] at hsvc
  exact absurd hsvc (by decide)

end Sys2Proof.Laws
end

section
/-! Frames of the yoke that this part sends (R394–R396, R456, R457) and the yields that rest on them (R379): what they leave alone. -/

namespace Sys2Proof.Laws

open Sys2Proof Sys2Proof.Machine

/-! ## Frames on lanes -/

/-- From `s` to `t` frames have left on yoke lanes: idle ones among them have left idle, with their bursts and counts (R457). -/
structure FramesSent (s t : State) : Prop where
  frame : t = { s with out := t.out, ctrs := t.ctrs, lanes := t.lanes }
  out : ∃ l, t.out = l ++ s.out
  ctr : ∀ k n, (∀ j, 128 * k + n ≠ 32768 + 16 * j + 8) → counter t k n = counter s k n
  lane : ∀ m, lane t m = { lane s m with st := (lane t m).st, txOn := (lane t m).txOn }
  busy : ∀ m, m < 32 ∨ (Machine.lane s m).st ≠ 5 → Machine.lane t m = Machine.lane s m

theorem FramesSent.refl (s : State) : FramesSent s s :=
  ⟨rfl, ⟨[], rfl⟩, fun _ _ _ => rfl, fun _ => rfl, fun _ _ => rfl⟩

theorem FramesSent.trans {s t u : State} (h : FramesSent s t) (g : FramesSent t u) : FramesSent s u where
  frame := by
    have sent := g.frame
    rw [h.frame] at sent
    exact sent
  out := by
    obtain ⟨l, hl⟩ := h.out
    obtain ⟨m, hm⟩ := g.out
    exact ⟨m ++ l, by rw [hm, hl, List.append_assoc]⟩
  ctr k n hk := (g.ctr k n hk).trans (h.ctr k n hk)
  lane m := by rw [g.lane m, h.lane m]
  busy m hm := (g.busy m (hm.imp id fun hst => by rwa [h.busy m (.inr hst)])).trans (h.busy m hm)

theorem FramesSent.ite {s a b : State} {c : Prop} [Decidable c] (ha : FramesSent s a) (hb : FramesSent s b) :
    FramesSent s (if c then a else b) := by
  split
  · exact ha
  · exact hb

theorem FramesSent.mem_out {s t : State} (h : FramesSent s t) {o : Out} (ho : o ∈ s.out) : o ∈ t.out := by
  obtain ⟨l, hl⟩ := h.out
  rw [hl]
  exact List.mem_append_right l ho

theorem framesSent_emit (o : Out) (s : State) : FramesSent s (emit o s) :=
  ⟨rfl, ⟨[o], rfl⟩, fun _ _ _ => rfl, fun _ => rfl, fun _ _ => rfl⟩

/-- The key of a yoke lane's counter 8, the wakes from idle. -/
theorem diePageOf_yoke {l : Nat} (hl : 32 ≤ l) : diePageOf l = 256 := by
  rw [diePageOf, if_pos hl, pkey]

theorem laneBlock_yoke {l : Nat} (hl : 32 ≤ l) : laneBlock l = 4 + (l - 32) := if_pos hl

theorem lane_idleExit (l : Nat) (s : State) (m : Nat) :
    lane (idleExit l s) m = if m = l then { lane s l with st := stUp, txOn := true } else lane s m :=
  lane_modLane l (fun x => { x with st := stUp, txOn := true }) s m

/-- An idle yoke lane leaves idle (R457). -/
theorem framesSent_idleExit {l : Nat} (hl : 32 ≤ l) {s : State} (hst : (lane s l).st = stIdle) : FramesSent s (idleExit l s) where
  frame := rfl
  out := ⟨[.wakeBurst l], rfl⟩
  ctr k n hk := by
    refine (counter_bump ..).trans (if_neg ?_)
    rw [diePageOf_yoke hl]
    have := hk (laneBlock l)
    omega
  lane m := by
    rw [lane_idleExit]
    split
    · next h => rw [h]
    · rfl
  busy m hm := by
    rw [lane_idleExit, if_neg]
    rintro rfl
    rcases hm with hm | hm
    · omega
    · exact hm hst

theorem framesSent_sendOn (bytes : List Byte) {l : Nat} (hl : 32 ≤ l) (s : State) : FramesSent s (sendOn bytes s l) := by
  refine .trans ?_ (framesSent_emit _ _)
  split
  · next hst => exact framesSent_idleExit hl hst
  · exact .refl s

theorem framesSent_foldl_sendOn (bytes : List Byte) {ls : List Nat} (hls : ∀ l ∈ ls, 32 ≤ l) (s : State) :
    FramesSent s (ls.foldl (sendOn bytes) s) := by
  induction ls generalizing s with
  | nil => exact .refl s
  | cons l ls ih =>
    obtain ⟨hl, hrest⟩ := List.forall_mem_cons.mp hls
    exact (framesSent_sendOn bytes hl s).trans (ih hrest _)

/-- The frame has left on each lane. -/
theorem mem_out_foldl_sendOn (bytes : List Byte) {ls : List Nat} (hls : ∀ l ∈ ls, 32 ≤ l) (s : State) {l : Nat} (hl : l ∈ ls) :
    .yoke l bytes ∈ (ls.foldl (sendOn bytes) s).out := by
  induction ls generalizing s with
  | nil => cases hl
  | cons j ls ih =>
    obtain ⟨-, hrest⟩ := List.forall_mem_cons.mp hls
    rcases List.mem_cons.mp hl with rfl | h
    · exact (framesSent_foldl_sendOn bytes hrest _).mem_out List.mem_cons_self
    · exact ih hrest _ h

theorem mem_yokeLanesOn {s : State} {l : Nat} (h : l ∈ yokeLanesOn s) : 32 ≤ l ∧ l < 36 := by
  have hl := (List.mem_filter.mp h).1
  simp only [List.mem_cons, List.not_mem_nil, or_false] at hl
  omega

theorem yokeLane_of_beat {s : State} {l : Nat} (h : beatLane s = some l) : 32 ≤ l ∧ l < 36 := by
  have hl := List.mem_of_find?_eq_some h
  simp only [List.mem_cons, List.not_mem_nil, or_false] at hl
  omega

/-- Every frame travels on yoke lanes (R456). -/
theorem yokeLane_of_mem_frameLanes {s : State} {m : YMsg} {l : Nat} (h : l ∈ frameLanes s m) : 32 ≤ l := by
  have beat : l ∈ (beatLane s).toList → 32 ≤ l := fun hb => (yokeLane_of_beat (Option.mem_toList.mp hb)).1
  cases m with
  | hello _ => exact (mem_yokeLanesOn h).1
  | copy _ _ _ _ _ => exact (mem_yokeLanesOn (List.mem_of_getElem? (Option.mem_toList.mp h))).1
  | beat _ => exact beat h
  | ack => exact beat h
  | state _ => exact beat h
  | verdict _ _ _ _ => exact beat h
  | vote _ _ _ _ _ _ => exact beat h
  | decide _ _ _ _ => exact beat h
  | yield _ _ _ => exact beat h
  | resync _ _ _ _ => exact beat h
  | doorbell _ => exact beat h

/-! ## Frames of a kind -/

/-- The yoke's state as a frame of kind `m` leaves (R396, R456). -/
def frameTurn (s : State) (m : YMsg) : Yoke :=
  { s.yoke with ackDue := s.yoke.ackDue && (frameLanes s m).isEmpty, copyN := copyTurn m s.yoke.copyN }

theorem framesSent_sendFrame (seq : Nat) (retry : Bool) (m : YMsg) (s : State) :
    FramesSent { s with yoke := frameTurn s m } (sendFrame seq retry m s) :=
  framesSent_foldl_sendOn _ (fun _ hl => yokeLane_of_mem_frameLanes hl) _

theorem yoke_sendFrame (seq : Nat) (retry : Bool) (m : YMsg) (s : State) : (sendFrame seq retry m s).yoke = frameTurn s m := by
  rw [(framesSent_sendFrame seq retry m s).frame]

theorem mem_out_sendFrame (seq : Nat) (retry : Bool) (m : YMsg) (s : State) {l : Nat} (hl : l ∈ frameLanes s m) :
    .yoke l (yFrame seq s.yoke.seqRx retry m) ∈ (sendFrame seq retry m s).out :=
  mem_out_foldl_sendOn _ (fun _ h => yokeLane_of_mem_frameLanes h) _ hl

/-- The yoke's state with `m` waiting for its acknowledgement (R396). -/
def awaiting (s : State) (m : YMsg) : State :=
  { s with yoke := { s.yoke with
    seqTx := s.yoke.seqTx + 1, unacked := s.yoke.unacked ++ [{ seq := s.yoke.seqTx + 1, sends := 1, msg := m }] } }

/-- The yoke's state after a reliable frame has been sent. -/
def relTurn (s : State) (m : YMsg) : Yoke := frameTurn (awaiting s m) m

theorem framesSent_sendRel (m : YMsg) (s : State) : FramesSent { s with yoke := relTurn s m } (sendRel m s) :=
  framesSent_sendFrame (s.yoke.seqTx + 1) false m (awaiting s m)

theorem yoke_sendRel (m : YMsg) (s : State) : (sendRel m s).yoke = relTurn s m := yoke_sendFrame ..

theorem frameLanes_awaiting (s : State) (m m' : YMsg) : frameLanes (awaiting s m) m' = frameLanes s m' := by
  cases m' <;> rfl

/-- The reliable frame has been sent (R394–R396). -/
theorem relSent_sendRel (m : YMsg) (s : State) : RelSent m s (sendRel m s) := by
  refine ⟨?_, ?_, fun l hl => ?_⟩
  · rw [yoke_sendRel]
    rfl
  · rw [yoke_sendRel]
    exact List.mem_append_right _ List.mem_cons_self
  · rw [yoke_sendRel]
    exact mem_out_sendFrame _ _ _ (awaiting s m) (by rwa [frameLanes_awaiting])

theorem awaits_sendRel (m : YMsg) (s : State) : Awaits m (sendRel m s) := by
  obtain ⟨-, hmem, -⟩ := relSent_sendRel m s
  exact ⟨_, hmem, rfl⟩

theorem copyTurn_of_notCopy {m : YMsg} (h : ∀ ch st k off b, m ≠ .copy ch st k off b) (n : Nat) : copyTurn m n = n := by
  cases m with
  | copy ch st k off b => exact absurd rfl (h ch st k off b)
  | _ => rfl

/-- What the sending of a reliable frame other than a COPY changes. -/
theorem sendRel_frame {m : YMsg} (hcopy : ∀ ch st k off b, m ≠ .copy ch st k off b) (s : State) : sendRel m s =
    { s with out := (sendRel m s).out, ctrs := (sendRel m s).ctrs, lanes := (sendRel m s).lanes
             yoke := { s.yoke with seqTx := (sendRel m s).yoke.seqTx, ackDue := (sendRel m s).yoke.ackDue
                                   unacked := (sendRel m s).yoke.unacked } } := by
  have hyoke : (sendRel m s).yoke = { s.yoke with
      seqTx := (sendRel m s).yoke.seqTx, ackDue := (sendRel m s).yoke.ackDue, unacked := (sendRel m s).yoke.unacked } := by
    rw [yoke_sendRel, relTurn, frameTurn, copyTurn_of_notCopy hcopy]
    rfl
  rw [← hyoke, yoke_sendRel]
  exact (framesSent_sendRel m s).frame

theorem counter_sendRel (m : YMsg) (s : State) {k n : Nat} (h : ∀ j, 128 * k + n ≠ 32768 + 16 * j + 8) :
    counter (sendRel m s) k n = counter s k n :=
  (framesSent_sendRel m s).ctr k n h

theorem pages_sendRel (m : YMsg) (s : State) : (sendRel m s).pages = s.pages := by
  rw [(framesSent_sendRel m s).frame]

theorem page_sendRel (m : YMsg) (s : State) (k : Nat) : page (sendRel m s) k = page s k := by
  rw [page, pages_sendRel]
  rfl

/-! ## Messages across the yoke -/

theorem icRemote_of_linked {s : State} (hpaired : pairedRole s = true) (hlink : s.yoke.linkLost = false) (v : Word) :
    icRemote v s = bump pgIc 11 1 (sendRel (.doorbell (fld v 11 0)) s) := by
  rw [icRemote, hpaired, hlink]
  rfl

theorem icRemote_of_unlinked {s : State} (h : pairedRole s = false ∨ s.yoke.linkLost = true) (v : Word) :
    icRemote v s = bump pgIc 13 1 (raiseBit pgIc 6 s) :=
  if_neg (by rcases h with h | h <;> simp [h])

/-- The yoke's state as a reliable frame of header `h` is taken in its turn (R396). -/
def takenTurn (h : YHdr) (y : Yoke) : Yoke :=
  { y with unacked := y.unacked.filter (fun u => decide (h.ack < u.seq)), ackDue := true, seqRx := h.seq }

theorem rxFrame_of_sound {s : State} {h : YHdr} (hon : yokeOn s = true) (hcrc : h.crcOk = true) (k : State → State) :
    rxFrame h k s = k (ackUpTo h.ack s) := by
  rw [rxFrame, hon, hcrc]
  rfl

/-- A reliable frame that comes in its turn acts, and no frame that came early waits (R396). -/
theorem rxRel_of_inTurn {s : State} {h : YHdr} (hturn : InTurn s h) (i : Instr) :
    rxRel h i s = deliverFrame i { s with yoke := takenTurn h s.yoke } := by
  obtain ⟨hon, hcrc, hseq, hearly⟩ := hturn
  have hlate : ¬ h.seq ≤ s.yoke.seqRx := by omega
  have hnone : ∀ t, drainEarly s.yoke.early.length t = t := fun t => by
    rw [hearly]
    rfl
  rw [rxRel, rxFrame_of_sound hon hcrc]
  refine (if_neg hlate).trans ((if_pos hseq).trans ?_)
  exact hnone _

end Sys2Proof.Laws
end

section
/-! Messages to the interrupt controller (R419, R420, R422, R425). -/

namespace Sys2Proof.Laws

open Sys2Proof Sys2Proof.Machine

/-- A message has left the fabric. -/
def leftFabric (e : Nat × Nat) (s : State) : State := { s with ic := { s.ic with inflight := s.ic.inflight.erase e } }

section
variable {s : State} {x n : Nat} (hold : icOldest s x = some (x, n))
include hold

/-- The oldest message of a sender is taken from the fabric. -/
theorem icArrive_of_oldest : icArrive x s = icMessage n (leftFabric (x, n) s) := by
  rw [icArrive, icArriveAs, hold]
  rfl

theorem icArrive_enabled (hen : (src s n).en = true) :
    SourceIs n { src s n with pend := true } s (icArrive x s) ∧ Counted 2 0 1 s (icArrive x s) ∧
      Counted 2 2 (if (src s n).pend then 1 else 0) s (icArrive x s) ∧ Delivered [0, 2] s (icArrive x s) := by
  rw [icArrive_of_oldest hold]
  have hfrom : DeliveryKept [0, 2] s (leftFabric (x, n) s) :=
    ⟨fun _ _ => rfl, fun _ _ _ _ _ => rfl, fun _ _ _ _ => rfl, rfl⟩
  have hen' : (src (leftFabric (x, n) s) n).en = true := hen
  exact ⟨(sourceBecomes_icMessage hen').sourceIs, counted_icMessage_received hen', counted_icMessage_merged hen',
    (hfrom.trans (deliveryKept_icMessage hen')).delivered⟩

theorem icArrive_disabled (hen : (src s n).en = false) :
    Struck 2 1 s (icArrive x s) ∧ Counted 2 1 1 s (icArrive x s) ∧ (∀ k, k ≠ 2 → page (icArrive x s) k = page s k) ∧
      icArrive x s = { s with pages := (icArrive x s).pages, ctrs := (icArrive x s).ctrs
                              ic := { s.ic with inflight := (icArrive x s).ic.inflight } } := by
  rw [icArrive_of_oldest hold, icMessage_of_disabled (s := leftFabric (x, n) s) hen]
  refine ⟨struck_raiseBit pgIc (by decide) _, counted_bump_raiseBit .., fun k hk => page_raiseBit_other hk 1 _, ?_⟩
  exact (bump_raiseBit_frame ..).trans rfl

end

theorem icArrive_of_none {s : State} {x : Nat} (hold : icOldest s x = none) : icArrive x s = s := by
  rw [icArrive, icArriveAs, hold]

/-- An event of the IC page, struck and counted. -/
theorem icEvent_spec (n : Nat) {i : Nat} (hi : i < 32) (s : State) :
    Struck 2 i s (bump pgIc n 1 (raiseBit pgIc i s)) ∧ Counted 2 n 1 s (bump pgIc n 1 (raiseBit pgIc i s)) ∧
      (∀ k, k ≠ 2 → page (bump pgIc n 1 (raiseBit pgIc i s)) k = page s k) ∧
      bump pgIc n 1 (raiseBit pgIc i s) = { s with
        pages := (bump pgIc n 1 (raiseBit pgIc i s)).pages, ctrs := (bump pgIc n 1 (raiseBit pgIc i s)).ctrs
        ic := { s.ic with inflight := (bump pgIc n 1 (raiseBit pgIc i s)).ic.inflight } } :=
  ⟨struck_raiseBit pgIc hi s, counted_bump_raiseBit .., fun _ hk => page_raiseBit_other hk i s, bump_raiseBit_frame ..⟩

/-- Each interrupt register answers a source beyond the variant in the same way (R420). -/
theorem exec_of_missingSource {s : State} (hrun : inReset s = false) {v : Word} (hv : 512 * dies s ≤ v.toNat) {core : Option Nat}
    {c : Instr} (hc : c ∈ [Instr.icDoorbell core v, .icPendClr v false, .icPendClr v true, .icEnSet v, .icEnClr v false,
      .icEnClr v true, .icMaskSet v, .icMaskClr v false, .icMaskClr v true]) :
    exec c s = .next (bump pgIc 9 1 (raiseBit pgIc 7 s)) := by
  have discarded : ∀ k, (Host.Outcome.next (whenUp s (atSource v k)) : Host.Outcome State Fault Refusal) =
      .next (bump pgIc 9 1 (raiseBit pgIc 7 s)) := fun k => (next_whenUp hrun _).trans (congrArg _ (atSource_of_missing hv k))
  simp only [List.mem_cons, List.not_mem_nil, or_false] at hc
  rcases hc with rfl | rfl | rfl | rfl | rfl | rfl | rfl | rfl | rfl <;> exact discarded _

theorem exec_doorbellFrame_of_inTurn {s : State} (hrun : inReset s = false) {h : YHdr} (hturn : InTurn s h) (n : Nat) :
    exec (.doorbellFrame h n) s = .next (icRemoteIn n { s with yoke := takenTurn h s.yoke }) :=
  (next_whenUp hrun _).trans (congrArg _ (rxRel_of_inTurn hturn _))

theorem icRemoteIn_of_allowed {s : State} {n : Nat} (h : (src s n).remote = true) : icRemoteIn n s = icMessage n (bump pgIc 12 1 s) :=
  if_pos h

theorem icRemoteIn_of_barred {s : State} {n : Nat} (h : (src s n).remote = false) :
    icRemoteIn n s = bump pgIc 13 1 (raiseBit pgIc 6 s) :=
  if_neg (by simp [h])

/-- What a doorbell of the partner leaves at a source that takes it (R425). -/
theorem icRemoteIn_enabled {s : State} {n : Nat} (hremote : (src s n).remote = true) (hen : (src s n).en = true) :
    SourceIs n { src s n with pend := true } s (icRemoteIn n s) ∧ Counted 2 12 1 s (icRemoteIn n s) ∧
      Counted 2 0 1 s (icRemoteIn n s) ∧ DeliveryKept [0, 2, 12] s (icRemoteIn n s) := by
  rw [icRemoteIn_of_allowed hremote]
  have hen' : (src (bump pgIc 12 1 s) n).en = true := hen
  have hkept := deliveryKept_icMessage hen'
  have hcounted : DeliveryKept [0, 2, 12] s (bump pgIc 12 1 s) := deliveryKept_bump (by decide) (.inl (by decide)) s
  have htwelve : counter (icMessage n (bump pgIc 12 1 s)) 2 12 = counter (bump pgIc 12 1 s) 2 12 :=
    hkept.own 12 (by decide) (by decide) (by decide)
  have hzero : counter (bump pgIc 12 1 s) 2 0 = counter s 2 0 := counter_bump_other (by decide) ..
  refine ⟨(sourceBecomes_icMessage hen').sourceIs, htwelve.trans (counter_bump_self ..),
    (counted_icMessage_received hen').trans (by rw [hzero]), hcounted.trans ⟨hkept.page, hkept.ctr, fun m hm hl => hkept.own m hm ?_, hkept.frame⟩⟩
  simp only [List.mem_cons, List.not_mem_nil, or_false, not_or] at hl ⊢
  exact ⟨hl.1, hl.2.1⟩

/-- Settles O42: a message takes its source's bits where the source allows it, and each message that does not is an event and a count. -/
theorem messagesReachTheArbiter : Obligations.MessagesReachTheArbiter := by
  unfold Obligations.MessagesReachTheArbiter
  refine fun s hrun => ⟨fun core v hv => ?_, fun x n hold => ⟨fun hen => ⟨_, next_whenUp hrun _, icArrive_enabled hold hen⟩,
      fun hen => ⟨_, next_whenUp hrun _, icArrive_disabled hold hen⟩⟩,
    fun x hold => (next_whenUp hrun _).trans (congrArg _ (icArrive_of_none hold)),
    fun v core c hv hc => ⟨_, exec_of_missingSource hrun hv hc, icEvent_spec 9 (by decide) s⟩, fun v hpaired hlink => ?_, fun v h => ?_,
    fun h n hturn hremote hen => ?_, fun h n hturn hremote => ?_⟩
  · exact (next_whenUp hrun _).trans (congrArg _ (atSource_of_exists hv _))
  · have hsent := icRemote_of_linked hpaired hlink v
    obtain ⟨hseq, hwaits, hout⟩ := relSent_sendRel (.doorbell (fld v 11 0)) s
    refine ⟨_, (next_whenUp hrun _).trans (congrArg _ hsent), ⟨hseq, hwaits, hout⟩, ?_, ?_⟩
    · rw [Counted, pgIc, counter_bump_self, counter_sendRel _ _ (by omega)]
    · exact congrArg (bump pgIc 11 1) (sendRel_frame (fun _ _ _ _ _ => YMsg.noConfusion) s)
  · obtain ⟨hstruck, hcounted, -, hframe⟩ := icEvent_spec 13 (i := 6) (by decide) s
    exact ⟨_, (next_whenUp hrun _).trans (congrArg _ (icRemote_of_unlinked h v)), hstruck, hcounted, hframe⟩
  · have hremote' : (src { s with yoke := takenTurn h s.yoke } n).remote = true := hremote
    obtain ⟨hsrc, htwelve, hzero, hkept⟩ := icRemoteIn_enabled hremote' hen
    refine ⟨_, exec_doorbellFrame_of_inTurn hrun hturn n, hsrc, htwelve, hzero, ?_, ?_⟩ <;> rw [hkept.frame]
    rfl
  · have hremote' : (src { s with yoke := takenTurn h s.yoke } n).remote = false := hremote
    obtain ⟨hstruck, hcounted, -, hframe⟩ := icEvent_spec 13 (i := 6) (by decide) { s with yoke := takenTurn h s.yoke }
    refine ⟨_, exec_doorbellFrame_of_inTurn hrun hturn n, ?_⟩
    rw [icRemoteIn_of_barred hremote']
    have hyoke : (bump pgIc 13 1 (raiseBit pgIc 6 { s with yoke := takenTurn h s.yoke })).yoke = takenTurn h s.yoke := by rw [hframe]
    rw [hyoke]
    exact ⟨hstruck, hcounted, rfl, hframe⟩

end Sys2Proof.Laws
end

section
/-! Changes of a lane's state (R446–R459) and the yields that follow them (R379): the lane's own fields, the counters that move with it,
and the flags of pages. -/

namespace Sys2Proof.Laws

open Sys2Proof Sys2Proof.Machine

/-! ## A yield -/

/-- What a yield of the part leaves of a state: frames of the yoke have left on the beat lane, and the yoke's own flags and counts have
moved. -/
structure YieldKept (s t : State) : Prop where
  frame : t = { s with out := t.out, pages := t.pages, ctrs := t.ctrs, lanes := t.lanes
                       yoke := { s.yoke with pendYield := t.yoke.pendYield, seqTx := t.yoke.seqTx, ackDue := t.yoke.ackDue
                                             unacked := t.yoke.unacked }
                       ic := { s.ic with inflight := t.ic.inflight } }
  fault : ∀ k, (page t k).fault = (page s k).fault
  bits : ∀ k i, bitOf (page s k).stat i = true → bitOf (page t k).stat i = true
  out : ∃ l, t.out = l ++ s.out
  ctr : ∀ k n, (∀ j, 128 * k + n ≠ 32768 + 16 * j + 8) → 128 * k + n ≠ 897 → counter t k n = counter s k n
  lane : ∀ m, lane t m = { lane s m with st := (lane t m).st, txOn := (lane t m).txOn }
  quiet : ∀ m, m < 32 ∨ (Machine.lane s m).st ≠ 5 ∨ beatLane s ≠ some m → Machine.lane t m = Machine.lane s m
  beat : beatLane t = beatLane s

theorem YieldKept.refl (s : State) : YieldKept s s :=
  ⟨rfl, fun _ => rfl, fun _ _ h => h, ⟨[], rfl⟩, fun _ _ _ _ => rfl, fun _ => rfl, fun _ _ => rfl, rfl⟩

theorem YieldKept.trans {s t u : State} (h : YieldKept s t) (g : YieldKept t u) : YieldKept s u where
  frame := by
    have moved := g.frame
    rw [h.frame] at moved
    exact moved
  fault k := (g.fault k).trans (h.fault k)
  bits k i hb := g.bits k i (h.bits k i hb)
  out := by
    obtain ⟨l, hl⟩ := h.out
    obtain ⟨m, hm⟩ := g.out
    exact ⟨m ++ l, by rw [hm, hl, List.append_assoc]⟩
  ctr k n hk h1 := (g.ctr k n hk h1).trans (h.ctr k n hk h1)
  lane m := by rw [g.lane m, h.lane m]
  quiet m hm := by
    have hst := h.quiet m hm
    exact (g.quiet m (by rwa [hst, h.beat])).trans hst
  beat := g.beat.trans h.beat

theorem YieldKept.ite {s a b : State} {c : Prop} [Decidable c] (ha : YieldKept s a) (hb : YieldKept s b) :
    YieldKept s (if c then a else b) := by
  split
  · exact ha
  · exact hb

theorem YieldKept.mem_out {s t : State} (h : YieldKept s t) {o : Out} (ho : o ∈ s.out) : o ∈ t.out := by
  obtain ⟨l, hl⟩ := h.out
  rw [hl]
  exact List.mem_append_right l ho

/-- The beat lane is found by the words in effect, the domains and which lanes are UP or IDLE (R456). -/
theorem beatLane_congr {s t : State} (heff : t.eff = s.eff) (hpwr : t.pwr = s.pwr)
    (hst : ∀ m, ((lane t m).st = stUp ∨ (lane t m).st = stIdle) ↔ ((lane s m).st = stUp ∨ (lane s m).st = stIdle)) :
    beatLane t = beatLane s := by
  have htx : ∀ l, txEnabled t l = txEnabled s l := fun l => by
    have hw : effW t = effW s := by
      funext a
      rw [effW, effW, heff]
    rw [txEnabled, txEnabled, hw, hpwr]
  have hsel : (fun l => txEnabled t l && (decide ((lane t l).st = stUp) || decide ((lane t l).st = stIdle))) =
      fun l => txEnabled s l && (decide ((lane s l).st = stUp) || decide ((lane s l).st = stIdle)) := by
    funext l
    rw [htx, ← Bool.decide_or, ← Bool.decide_or, decide_eq_decide.mpr (hst l)]
  rw [beatLane, beatLane, hsel]

theorem foldl_toList_some {α β : Type} (f : β → α → β) (a : α) (b : β) : (some a).toList.foldl f b = f b a := rfl

/-- What the frame of a yield changes of the lanes: only an idle beat lane leaves idle. -/
theorem lane_sendRel_yield (c tR tT : Nat) (s : State) (m : Nat) : lane (sendRel (.yield c tR tT) s) m =
    if beatLane s = some m ∧ (lane s m).st = stIdle then { lane s m with st := stUp, txOn := true } else lane s m := by
  have hlanes : frameLanes (awaiting s (.yield c tR tT)) (.yield c tR tT) = (beatLane s).toList := rfl
  rw [sendRel]
  change lane ((frameLanes (awaiting s (.yield c tR tT)) _).foldl (sendOn _)
    { awaiting s (.yield c tR tT) with yoke := frameTurn (awaiting s (.yield c tR tT)) _ }) m = _
  rw [hlanes]
  cases hb : beatLane s with
  | none => simp only [Option.toList_none, List.foldl_nil, reduceCtorEq, false_and, if_false]; rfl
  | some b =>
    rw [foldl_toList_some, sendOn]
    change lane (if (lane s b).st = stIdle then idleExit b _ else _) m = _
    by_cases hst : (lane s b).st = stIdle
    · rw [if_pos hst, lane_idleExit]
      by_cases hm : m = b
      · subst hm
        rw [if_pos rfl, if_pos ⟨rfl, hst⟩]
        rfl
      · rw [if_neg hm, if_neg (by rintro ⟨h, -⟩; exact hm (Option.some.inj h).symm)]
        rfl
    · rw [if_neg hst, if_neg]
      · rfl
      · rintro ⟨h, hm⟩
        obtain rfl := Option.some.inj h
        exact hst hm

theorem yieldKept_sendRel_yield (c tR tT : Nat) (s : State) : YieldKept s (sendRel (.yield c tR tT) s) := by
  have hsent := framesSent_sendRel (.yield c tR tT) s
  have hframe := sendRel_frame (m := .yield c tR tT) (fun _ _ _ _ _ => YMsg.noConfusion) s
  have hpage := page_sendRel (.yield c tR tT) s
  refine ⟨?_, fun k => by rw [hpage], fun k i h => by rwa [hpage], hsent.out, fun k n hk _ => hsent.ctr k n hk, hsent.lane,
    fun m hm => ?_, beatLane_congr (by rw [hframe]) (by rw [hframe]) fun m => ?_⟩
  · rw [hframe]
  · rcases hm with hm | hm | hm
    · exact hsent.busy m (.inl hm)
    · exact hsent.busy m (.inr hm)
    · rw [lane_sendRel_yield, if_neg fun h => hm h.1]
  · rw [lane_sendRel_yield]
    split
    · next h => simp [h.2]
    · exact Iff.rfl

theorem yieldKept_yieldFor (c : Nat) (s : State) : YieldKept s (yieldFor c s) := by
  have hpulse : YieldKept s (emit (.hbPulse 1000) s) :=
    ⟨rfl, fun _ => rfl, fun _ _ h => h, ⟨[_], rfl⟩, fun _ _ _ _ => rfl, fun _ => rfl, fun _ _ => rfl, rfl⟩
  have hwaits : ∀ (y : Nat) (u : State), YieldKept u { u with yoke := { u.yoke with pendYield := some y } } := fun y u =>
    ⟨rfl, fun _ => rfl, fun _ _ h => h, ⟨[], rfl⟩, fun _ _ _ _ => rfl, fun _ => rfl, fun _ _ => rfl, rfl⟩
  have htold : ∀ u : State, YieldKept u (bump pgYoke 1 1 (raiseBit pgYoke 4 u)) := fun u => by
    have hframe := bump_raiseBit_frame pgYoke 1 4 1 u
    have hlanes : (bump pgYoke 1 1 (raiseBit pgYoke 4 u)).lanes = u.lanes := by rw [hframe]
    have hlane : ∀ m, lane (bump pgYoke 1 1 (raiseBit pgYoke 4 u)) m = lane u m := fun m => by rw [lane, hlanes]; rfl
    have hflags := (FlagsKept.refl u).raised pgYoke 4
    refine ⟨?_, fun k => ?_, hflags.bits, ⟨[], ?_⟩, fun k n _ h1 => ?_, fun m => by rw [hlane], fun m _ => hlane m,
      beatLane_congr (by rw [hframe]) (by rw [hframe]) fun m => by rw [hlane]⟩
    · rw [hframe]
    · exact (LaneKept.raiseBit 0 pgYoke 4 u).fault k
    · rw [hframe]; rfl
    · rw [counter_bump_other (by rw [pgYoke]; exact h1), counter_raiseBit]
  exact .ite (((hpulse.trans (yieldKept_sendRel_yield ..)).trans (hwaits _ _)).trans (htold _)) (.refl s)

theorem yieldKept_yieldOnConditions (s : State) : YieldKept s (yieldOnConditions s) := by
  have yields : ∀ (b : Bool) c {t : State}, YieldKept s t → YieldKept s (if b then yieldFor c t else t) :=
    fun _ c _ h => .ite (h.trans (yieldKept_yieldFor c _)) h
  exact yields _ 6 (yields _ 5 (yields _ 4 (.refl s)))

/-! ## A lane's own fields -/

/-- A lane as it enters a state (R446), where `on` says whether its transmitter is enabled. -/
def laneEntered (on : Bool) (st : Nat) (x : Lane) : Lane :=
  { x with
    st := st
    signal := x.signal && decide (2 ≤ st ∧ st ≤ 5)
    ups := if st = stUp ∧ x.st ≠ stUp ∧ x.st ≠ stIdle then x.ups + 1 else x.ups
    lock := decide (st = stTraining ∨ st = stUp ∨ st = stIdle)
    fecLock := decide (st = stUp ∨ st = stIdle)
    txOn := on && decide (st = stTraining ∨ st = stUp)
    trained := x.trained && decide (st = stUp ∨ st = stIdle)
    retry := false
    converged := x.converged && decide (2 ≤ st ∧ st ≤ 5) }

/-- Two records of a lane agree but for its blocks of codewords and its scan. -/
def SameLane (x y : Lane) : Prop :=
  y = { x with syms := y.syms, shares := y.shares, portSyms := y.portSyms, busy := y.busy, aborted := y.aborted }

theorem SameLane.refl (x : Lane) : SameLane x x := rfl

theorem SameLane.trans {x y z : Lane} (h : SameLane x y) (g : SameLane y z) : SameLane x z := by
  rw [SameLane] at g ⊢
  rw [h] at g
  exact g

theorem sameLane_modLane (l m : Nat) (f : Lane → Lane) (s : State) (h : ∀ x, SameLane x (f x)) :
    SameLane (lane s l) (lane (modLane m f s) l) := by
  rw [lane_modLane]
  split
  · next hm => exact hm ▸ h _
  · exact .refl _

theorem sameLane_foldl {α : Type} (l : Nat) {f : State → α → State} (h : ∀ s a, SameLane (lane s l) (lane (f s a) l)) (as : List α)
    (s : State) : SameLane (lane s l) (lane (as.foldl f s) l) := by
  induction as generalizing s with
  | nil => exact .refl _
  | cons a as ih => exact (h s a).trans (ih _)

theorem sameLane_blocksAnew (l m : Nat) (s : State) : SameLane (lane s l) (lane (blocksAnew m s) l) :=
  (sameLane_modLane l m (fun y => { y with syms := 0 }) s fun _ => rfl).trans
    (sameLane_foldl l (fun s x => sameLane_modLane l x (fun y => { y with shares := [], portSyms := 0 }) s fun _ => rfl) _ _)

theorem lane_congr {s t : State} (h : t.lanes = s.lanes) (l : Nat) : lane t l = lane s l := by
  rw [lane, h]
  rfl

theorem lane_raiseBit (k i : Nat) (s : State) (l : Nat) : lane (raiseBit k i s) l = lane s l := lane_congr (raiseBit_lanes k i s) l

theorem sameLane_eyeAbort (l m : Nat) (s : State) : SameLane (lane s l) (lane (eyeAbort m s) l) := by
  unfold eyeAbort
  split
  · rw [lane_raiseBit]
    exact sameLane_modLane l m _ s fun _ => rfl
  · exact .refl _

theorem sameLane_laneMove (l st : Nat) (s : State) :
    SameLane (laneEntered (txEnabled s l) st (lane s l)) (lane (laneMove l st s) l) := by
  unfold laneMove
  extract_lets old moved
  have hmoved : lane moved l = laneEntered (txEnabled s l) st (lane s l) := (lane_modLane ..).trans (if_pos rfl)
  rw [← hmoved]
  split
  · exact .refl _
  · refine .trans ?_ (sameLane_blocksAnew l l _)
    split
    · exact sameLane_eyeAbort l l moved
    · exact .refl _

theorem lane_allLinkEvents (m : Nat) (s0 s : State) (l : Nat) : lane (allLinkEvents m s0 s) l = lane s l :=
  lane_congr (allLinkEvents_lanes m s0 s) l

/-- Lane `l` as it entered state `st`; where it is the beat lane that goes idle, it has left idle again (R456). -/
theorem sameLane_laneTo {l st : Nat} {s : State} (hbeat : st ≠ stIdle ∨ beatLane (allLinkEvents l s (laneMove l st s)) ≠ some l) :
    SameLane (laneEntered (txEnabled s l) st (lane s l)) (lane (laneTo l st s) l) := by
  have hmove : SameLane (laneEntered (txEnabled s l) st (lane s l)) (lane (allLinkEvents l s (laneMove l st s)) l) := by
    rw [lane_allLinkEvents]
    exact sameLane_laneMove l st s
  have hst : (lane (allLinkEvents l s (laneMove l st s)) l).st = st := by rw [hmove]; rfl
  unfold laneTo
  extract_lets moved
  split
  · unfold wakeBeat
    split
    · next b hb =>
      split
      · next hidle =>
        rw [lane_idleExit, if_neg]
        · exact hmove
        · rintro rfl
          rcases hbeat with h | h
          · exact h (hst.symm.trans hidle)
          · exact h hb
      · exact hmove
    · exact hmove
  · exact hmove

/-! ## Counters and flags with a change of a lane -/

/-- Counters that a change of a lane's state leaves: all but the link losses of LANE pages and the wakes from idle of yoke lanes. -/
structure LaneMoved (l : Nat) (s t : State) : Prop extends LaneKept l s t where
  counts : ∀ k n, (∀ p, 128 * k + n ≠ 128 * lanePage p + 9) → (∀ j, 128 * k + n ≠ 32768 + 16 * j + 8) → counter t k n = counter s k n
  bits : ∀ k i, bitOf (page s k).stat i = true → bitOf (page t k).stat i = true

theorem LaneMoved.refl (l : Nat) (s : State) : LaneMoved l s s := ⟨.refl l s, fun _ _ _ _ => rfl, fun _ _ h => h⟩

theorem LaneMoved.trans {l : Nat} {s t u : State} (h : LaneMoved l s t) (g : LaneMoved l t u) : LaneMoved l s u :=
  ⟨h.toLaneKept.trans g.toLaneKept, fun k n hp hj => (g.counts k n hp hj).trans (h.counts k n hp hj),
    fun k i hb => g.bits k i (h.bits k i hb)⟩

theorem LaneMoved.ite {l : Nat} {s a b : State} {c : Prop} [Decidable c] (ha : LaneMoved l s a) (hb : LaneMoved l s b) :
    LaneMoved l s (if c then a else b) := by
  split
  · exact ha
  · exact hb

theorem laneMoved_modLane (l : Nat) (f : Lane → Lane) (s : State) : LaneMoved l s (modLane l f s) :=
  ⟨.modLane l f s, fun _ _ _ _ => rfl, fun _ _ h => h⟩

theorem laneMoved_raiseBit (l k i : Nat) (s : State) : LaneMoved l s (raiseBit k i s) :=
  ⟨.raiseBit l k i s, fun _ _ _ _ => counter_raiseBit .., ((FlagsKept.refl s).raised k i).bits⟩

theorem laneMoved_raiseN (l k i n : Nat) (s : State) : LaneMoved l s (raiseN k i n s) := by
  refine ⟨?_, fun k' n' _ _ => ?_, (flagsKept_raiseN k i n s).bits⟩
  · refine rel_ite (R := LaneKept l) (.refl l s) ((LaneKept.raiseBit l k i s).trans ⟨rfl, fun j => ?_, fun _ _ _ => rfl, .inr rfl⟩)
    rw [page_modPage]
    split
    · next h =>
      rw [h]
      rfl
    · rfl
  · unfold raiseN
    split
    · rfl
    · exact counter_raiseBit ..

/-- A counter of the lane's block that no move of a lane touches. -/
theorem dieKey_ne {l n : Nat} (hl : l < 36) (hn : n < 16) (h8 : n ≠ 8) :
    (∀ p, 128 * diePageOf l + (16 * laneBlock l + n) ≠ 128 * lanePage p + 9) ∧
      ∀ j, 128 * diePageOf l + (16 * laneBlock l + n) ≠ 32768 + 16 * j + 8 := by
  unfold diePageOf laneBlock lanePage pkey
  constructor
  · intro p
    split <;> omega
  · intro j
    split <;> omega

theorem lt_of_laneExists {s : State} {l : Nat} (h : laneExists s l = true) : l < 36 := by
  have hd := dies_le s
  simp only [laneExists, Bool.or_eq_true, Bool.and_eq_true, decide_eq_true_eq] at h
  omega

theorem laneMoved_linkEvents (g : Nat → Word) (l m : Nat) (s0 s : State) : LaneMoved l s (linkEvents g m s0 s) := by
  refine ⟨.linkEvents g l m s0 s, fun k n hp _ => ?_, (flagsKept_linkEvents g m s0 s).bits⟩
  have hdown : counter (bump (lanePage m) 9 1 (raiseBit (lanePage m) 2 s)) k n = counter s k n := by
    rw [counter_bump_other (hp m), counter_raiseBit]
  unfold linkEvents
  dsimp only
  repeat' split
  all_goals simp only [counter_raiseBit, hdown]

theorem laneMoved_allLinkEvents (l m : Nat) (s0 s : State) : LaneMoved l s (allLinkEvents m s0 s) := by
  have own := laneMoved_linkEvents (effW s0) l m s0 s
  unfold allLinkEvents
  extract_lets g u
  split
  · exact .ite own (own.trans (laneMoved_linkEvents ..))
  · exact own

theorem LaneMoved.foldl {α : Type} {l : Nat} {f : State → α → State} (h : ∀ s a, LaneMoved l s (f s a)) (as : List α) (s : State) :
    LaneMoved l s (as.foldl f s) := by
  induction as generalizing s with
  | nil => exact .refl l s
  | cons a as ih => exact (h s a).trans (ih _)

/-- A change of nothing but a lane's shares of its port's blocks. -/
theorem laneMoved_modShares (l m : Nat) {f : Lane → Lane} (hf : ∀ x, f x = { x with shares := (f x).shares, portSyms := (f x).portSyms })
    (s : State) : LaneMoved l s (modLane m f s) :=
  ⟨.modShares l m f s hf, fun _ _ _ _ => rfl, fun _ _ h => h⟩

theorem laneMoved_blocksAnew (l : Nat) (s : State) : LaneMoved l s (blocksAnew l s) :=
  (laneMoved_modLane l _ s).trans (.foldl (fun s x => laneMoved_modShares l x (fun _ => rfl) s) _ _)

theorem laneMoved_eyeAbort (l : Nat) (s : State) : LaneMoved l s (eyeAbort l s) :=
  .ite ((laneMoved_modLane l _ s).trans (laneMoved_raiseBit ..)) (.refl l s)

theorem laneMoved_laneMove (l st : Nat) (s : State) : LaneMoved l s (laneMove l st s) := by
  unfold laneMove
  extract_lets old moved
  have hmoved : LaneMoved l s moved := laneMoved_modLane ..
  exact .ite hmoved (.trans (.ite (hmoved.trans (laneMoved_eyeAbort ..)) hmoved) (laneMoved_blocksAnew ..))

theorem laneMoved_wakeBeat {l : Nat} (hl : 32 ≤ l) (s : State) : LaneMoved l s (wakeBeat s) := by
  refine ⟨.wakeBeat l hl s, fun k n _ hj => ?_, (flagsKept_wakeBeat s).bits⟩
  unfold wakeBeat
  split
  · next b hb =>
    split
    · next hst => exact (framesSent_idleExit (yokeLane_of_beat hb).1 hst).ctr k n hj
    · rfl
  · rfl

theorem laneMoved_laneTo (l st : Nat) (s : State) : LaneMoved l s (laneTo l st s) := by
  have hmoved := (laneMoved_laneMove l st s).trans (laneMoved_allLinkEvents l l s _)
  unfold laneTo
  extract_lets u
  split
  · next hl => exact hmoved.trans (laneMoved_wakeBeat hl _)
  · exact hmoved

/-! ## Events of a lane -/

/-- What an event of lane `l` leaves, the part's yield included. -/
theorem laneEvent_of_yield {l : Nat} {s u t : State} (h : LaneKept l s u) (g : YieldKept u t) : LaneEvent l s t := by
  refine ⟨fun m hm hne => ?_, ?_⟩
  · rw [g.quiet m (.inl hm)]
    exact h.other m hm hne
  · have moved := g.frame
    rw [h.frame] at moved
    have hpwr : t.pwr = s.pwr := by rw [moved]
    rw [hpwr]
    exact moved

/-- An event that begins with the calibration of a lane (R81). -/
theorem laneEvent_of_calibrated {l : Nat} {c : NSet} {s t : State}
    (h : LaneEvent l { s with pwr := { s.pwr with laneCal := c } } t) : LaneEvent l s t := h

theorem laneEvent_of_kept {l : Nat} {s t : State} (h : LaneKept l s t) : LaneEvent l s t := laneEvent_of_yield h (.refl t)

theorem laneKept_dieCtr (l n x : Nat) (s : State) : LaneKept l s (dieCtr l n x s) := .bump l _ _ x s

/-- A count of the lane's block through the yield that follows (R459). -/
theorem counted_die_yield {l n x : Nat} (hl : l < 36) (hn : n < 16) {s u t : State} (g : YieldKept u t) (h8 : n ≠ 8)
    (h : Counted (diePageOf l) (16 * laneBlock l + n) x s u) : Counted (diePageOf l) (16 * laneBlock l + n) x s t := by
  obtain ⟨-, hj⟩ := dieKey_ne hl hn h8
  have hkey : 128 * diePageOf l + (16 * laneBlock l + n) ≠ 897 := by
    unfold diePageOf pkey
    split <;> omega
  exact (g.ctr _ _ hj hkey).trans h

/-- A count of the lane's block through a change of the lane. -/
theorem LaneMoved.counter_die {l m n : Nat} {s t : State} (h : LaneMoved m s t) (hl : l < 36) (hn : n < 16) (h8 : n ≠ 8) :
    counter t (diePageOf l) (16 * laneBlock l + n) = counter s (diePageOf l) (16 * laneBlock l + n) :=
  h.counts _ _ (dieKey_ne hl hn h8).1 (dieKey_ne hl hn h8).2

theorem counted_dieCtr (l n x : Nat) (s : State) : Counted (diePageOf l) (16 * laneBlock l + n) x s (dieCtr l n x s) :=
  counter_bump_self ..

theorem counter_dieCtr_other {l n k' n' : Nat} (h : 128 * k' + n' ≠ 128 * diePageOf l + (16 * laneBlock l + n)) (x : Nat) (s : State) :
    counter (dieCtr l n x s) k' n' = counter s k' n' :=
  counter_bump_other h x s

@[simp] theorem lane_dieCtr (l n x : Nat) (s : State) (m : Nat) : lane (dieCtr l n x s) m = lane s m := rfl

@[simp] theorem counter_modLane (l : Nat) (f : Lane → Lane) (s : State) (k n : Nat) : counter (modLane l f s) k n = counter s k n := rfl

theorem lane_modLane_self (l : Nat) (f : Lane → Lane) (s : State) : lane (modLane l f s) l = f (lane s l) := by
  rw [lane_modLane, if_pos rfl]

section
variable {s : State} (hrun : inReset s = false) {l : Nat} (hl : laneExists s l = true)
include hrun hl

theorem atLane_of_exists (k : State → State) : atLane l s k = .next (yieldOnConditions (k s)) := by
  rw [atLane, if_pos hl, whenUp_of_running hrun]

end

end Sys2Proof.Laws
end

section
/-! The events of a lane (R439, R446, R451, R452, R459), each under the state that it applies to. -/

namespace Sys2Proof.Laws

open Sys2Proof Sys2Proof.Machine

/-! ## The yield after an event -/

section
variable {l : Nat} {s u : State}

/-- A lane that is not idle goes through the part's yield as it is. -/
theorem lane_yield_of_busy (h : (lane u l).st ≠ 5) : lane (yieldOnConditions u) l = lane u l :=
  (yieldKept_yieldOnConditions u).quiet l (.inr (.inl h))

theorem laneEvent_yield (h : LaneKept l s u) : LaneEvent l s (yieldOnConditions u) := laneEvent_of_yield h (yieldKept_yieldOnConditions u)

theorem counted_yield {n x : Nat} (hl : l < 36) (hn : n < 16) (h8 : n ≠ 8)
    (h : Counted (diePageOf l) (16 * laneBlock l + n) x s u) : Counted (diePageOf l) (16 * laneBlock l + n) x s (yieldOnConditions u) :=
  counted_die_yield hl hn (yieldKept_yieldOnConditions u) h8 h

theorem stat_yield {k i : Nat} (h : bitOf (page u k).stat i = true) : bitOf (page (yieldOnConditions u) k).stat i = true :=
  (yieldKept_yieldOnConditions u).bits k i h

/-- A lane that has entered a state other than IDLE, with its fields (R446). -/
theorem sameLane_entered (l : Nat) {st : Nat} (h5 : st ≠ 5) (s : State) :
    SameLane (laneEntered (txEnabled s l) st (lane s l)) (lane (laneTo l st s) l) :=
  sameLane_laneTo (.inl h5)

theorem stat_raiseBit (k : Nat) {i : Nat} (hi : i < 32) (s : State) : bitOf (page (raiseBit k i s) k).stat i = true := by
  rw [raiseBit, page_raise, if_pos rfl]
  have hor : bitOf ((page s k).stat ||| bitW i) i = (bitOf (page s k).stat i || bitOf (bitW i) i) := BitVec.getLsbD_or ..
  rw [hor, bitOf_bitW hi, decide_eq_true rfl, Bool.or_true]

end

/-! ## Signal -/

section
variable {l : Nat} {s : State}

theorem signalIn_of_search (hst : (lane s l).st = 1) :
    signalIn l s = laneTo l stLocking (modLane l (fun x => { x with signal := true }) s) :=
  if_pos hst

theorem lane_signalIn (hst : (lane s l).st = 1) : (lane (signalIn l s) l).st = 2 ∧ (lane (signalIn l s) l).signal = true := by
  have hlane := sameLane_entered l (st := stLocking) (by decide) (modLane l (fun x => { x with signal := true }) s)
  rw [lane_modLane_self] at hlane
  rw [signalIn_of_search hst, hlane]
  exact ⟨rfl, rfl⟩

theorem laneMoved_signalIn (hst : (lane s l).st = 1) : LaneMoved l s (signalIn l s) := by
  rw [signalIn_of_search hst]
  exact (laneMoved_modLane ..).trans (laneMoved_laneTo ..)

theorem laneKept_countLockLoss (l : Nat) (s : State) : LaneKept l s (countLockLoss l s) := by
  have hcount := laneKept_dieCtr l 4 1 s
  exact rel_ite (hcount.trans (.raiseBit l _ _ _)) hcount

theorem lane_countLockLoss (l : Nat) (s : State) (m : Nat) : lane (countLockLoss l s) m = lane s m := by
  unfold countLockLoss
  dsimp only
  split
  · exact lane_raiseBit ..
  · rfl

theorem counted_countLockLoss (l : Nat) (s : State) :
    Counted (diePageOf l) (16 * laneBlock l + 4) 1 s (countLockLoss l s) := by
  unfold countLockLoss
  dsimp only
  split
  · exact (counter_raiseBit ..).trans (counted_dieCtr l 4 1 s)
  · exact counted_dieCtr l 4 1 s

/-- The loss of a lock that the lane had is counted (R459). -/
def lockLossCounted (l : Nat) (s : State) : State := if (lane s l).lock then countLockLoss l s else s

theorem laneKept_lockLossCounted (l : Nat) (s : State) : LaneKept l s (lockLossCounted l s) :=
  rel_ite (laneKept_countLockLoss l s) (.refl l s)

theorem lane_lockLossCounted (l : Nat) (s : State) (m : Nat) : lane (lockLossCounted l s) m = lane s m := by
  unfold lockLossCounted
  split
  · exact lane_countLockLoss ..
  · rfl

theorem counted_lockLossCounted (l : Nat) (s : State) :
    Counted (diePageOf l) (16 * laneBlock l + 4) (if (lane s l).lock then 1 else 0) s (lockLossCounted l s) := by
  unfold lockLossCounted
  split
  · exact counted_countLockLoss l s
  · exact counted_zero rfl

theorem signalOut_of_signal (hst : (lane s l).st = 4 ∨ (lane s l).st = 3 ∨ (lane s l).st = 2) :
    signalOut l s = laneTo l stSearch (modLane l (fun x => { x with signal := false }) (lockLossCounted l s)) :=
  if_pos hst

theorem lane_signalOut (hst : (lane s l).st = 4 ∨ (lane s l).st = 3 ∨ (lane s l).st = 2) :
    (lane (signalOut l s) l).st = 1 ∧ (lane (signalOut l s) l).signal = false ∧ (lane (signalOut l s) l).lock = false := by
  have hlane := sameLane_entered l (st := stSearch) (by decide) (modLane l (fun x => { x with signal := false }) (lockLossCounted l s))
  rw [lane_modLane_self] at hlane
  rw [signalOut_of_signal hst, hlane]
  exact ⟨rfl, rfl, rfl⟩

theorem laneMoved_laneTo_modLane (l st : Nat) (f : Lane → Lane) (s : State) : LaneMoved l s (laneTo l st (modLane l f s)) :=
  (laneMoved_modLane ..).trans (laneMoved_laneTo ..)

theorem laneKept_signalOut (hst : (lane s l).st = 4 ∨ (lane s l).st = 3 ∨ (lane s l).st = 2) : LaneKept l s (signalOut l s) := by
  rw [signalOut_of_signal hst]
  exact (laneKept_lockLossCounted l s).trans (laneMoved_laneTo_modLane ..).toLaneKept

theorem counted_signalOut (hl : l < 36) (hst : (lane s l).st = 4 ∨ (lane s l).st = 3 ∨ (lane s l).st = 2) :
    Counted (diePageOf l) (16 * laneBlock l + 4) (if (lane s l).lock then 1 else 0) s (signalOut l s) := by
  rw [signalOut_of_signal hst]
  exact ((laneMoved_laneTo_modLane ..).counter_die hl (by decide) (by decide)).trans (counted_lockLossCounted l s)

/-! ## Adaptation and training -/

theorem counted_startTraining (hl : l < 36) : Counted (diePageOf l) (16 * laneBlock l + 5) 1 s (startTraining l s) := by
  refine (counted_dieCtr l 5 1 (laneTo l stTraining s)).trans ?_
  rw [(laneMoved_laneTo l stTraining s).counter_die hl (by decide) (by decide)]

theorem laneKept_startTraining (l : Nat) (s : State) : LaneKept l s (startTraining l s) :=
  (laneMoved_laneTo l stTraining s).toLaneKept.trans (laneKept_dieCtr ..)

theorem sameLane_startTraining (l : Nat) (s : State) :
    SameLane (laneEntered (txEnabled s l) 3 (lane s l)) (lane (startTraining l s) l) :=
  sameLane_entered l (by decide) s

/-- A lane whose adaptation has converged (R452). -/
def laneConverged (c d : Nat) (x : Lane) : Lane := { settled c d x with converged := true }

theorem laneConverged_keeps (c d : Nat) (x : Lane) : laneConverged c d x = { x with
    rerun := false, converged := true
    ctle := if x.freeze && !x.rerun then x.ctle else c % 32, dfe1 := if x.freeze && !x.rerun then x.dfe1 else d % 256 } := by
  have hset : settled c d x = { x with
      rerun := false, ctle := if x.freeze && !x.rerun then x.ctle else c % 32
      dfe1 := if x.freeze && !x.rerun then x.dfe1 else d % 256 } := by
    unfold settled
    by_cases h : (x.freeze && !x.rerun) = true
    · have hrerun : x.rerun = false := by simpa using (Bool.and_eq_true_iff.mp h).2
      simp only [if_pos h]
      rw [← hrerun]
    · simp only [if_neg h]
  rw [laneConverged, hset]

variable (c d : Nat)

theorem adapted_of_silent (hst : (lane s l).st = 2) (htx : txEnabled s l = false) :
    adapted l c d s = laneTo l stUp (modLane l (laneConverged c d) s) := by
  have hoff : (!txEnabled (modLane l (laneConverged c d) s) l) = true := by
    change (!txEnabled s l) = true
    rw [htx]
    rfl
  exact (if_neg (not_not.mpr hst)).trans (if_pos hoff)

theorem adapted_of_sending (hst : (lane s l).st = 2) (htx : txEnabled s l = true) :
    adapted l c d s = if (lane s l).retry then modLane l (laneConverged c d) s else startTraining l (modLane l (laneConverged c d) s) := by
  have hon : ¬ (!txEnabled (modLane l (laneConverged c d) s) l) = true := by
    change ¬ (!txEnabled s l) = true
    rw [htx]
    decide
  have hretry : (lane (modLane l (laneConverged c d) s) l).retry = (lane s l).retry := by
    rw [lane_modLane_self, laneConverged_keeps]
  refine (if_neg (not_not.mpr hst)).trans ((if_neg hon).trans ?_)
  change (if (lane (modLane l (laneConverged c d) s) l).retry = true then _ else _) = _
  rw [hretry]
  rfl

/-- What convergence leaves of the lane (R446, R452). -/
theorem lane_adapted (hst : (lane s l).st = 2) :
    (lane (adapted l c d s) l).st = (if txEnabled s l then (if (lane s l).retry then 2 else 3) else 4) ∧
      (lane (adapted l c d s) l).converged = true ∧
      (lane (adapted l c d s) l).ctle = (if (lane s l).freeze && !(lane s l).rerun then (lane s l).ctle else c % 32) ∧
      (lane (adapted l c d s) l).dfe1 = (if (lane s l).freeze && !(lane s l).rerun then (lane s l).dfe1 else d % 256) := by
  have hmod : lane (modLane l (laneConverged c d) s) l = laneConverged c d (lane s l) := lane_modLane_self ..
  cases htx : txEnabled s l with
  | false =>
    have hlane := sameLane_entered l (st := stUp) (by decide) (modLane l (laneConverged c d) s)
    rw [hmod, laneConverged_keeps] at hlane
    rw [adapted_of_silent c d hst htx, hlane]
    exact ⟨rfl, rfl, rfl, rfl⟩
  | true =>
    rw [adapted_of_sending c d hst htx]
    split
    · next hretry =>
      rw [hmod, laneConverged_keeps]
      exact ⟨hst, rfl, rfl, rfl⟩
    · have hlane := sameLane_startTraining l (modLane l (laneConverged c d) s)
      rw [hmod, laneConverged_keeps] at hlane
      rw [hlane]
      exact ⟨rfl, rfl, rfl, rfl⟩

theorem laneKept_adapted (hst : (lane s l).st = 2) : LaneKept l s (adapted l c d s) := by
  cases htx : txEnabled s l with
  | false =>
    rw [adapted_of_silent c d hst htx]
    exact (laneMoved_laneTo_modLane ..).toLaneKept
  | true =>
    rw [adapted_of_sending c d hst htx]
    have hmod := (laneMoved_modLane l (laneConverged c d) s).toLaneKept
    exact rel_ite hmod (hmod.trans (laneKept_startTraining ..))

theorem counted_adapted (hl : l < 36) (hst : (lane s l).st = 2) : Counted (diePageOf l) (16 * laneBlock l + 5)
    (if txEnabled s l && !(lane s l).retry then 1 else 0) s (adapted l c d s) := by
  cases htx : txEnabled s l with
  | false =>
    rw [adapted_of_silent c d hst htx]
    exact counted_zero ((laneMoved_laneTo_modLane ..).counter_die hl (by decide) (by decide))
  | true =>
    rw [adapted_of_sending c d hst htx]
    cases (lane s l).retry with
    | true => exact counted_zero rfl
    | false =>
      refine (counted_startTraining hl).trans ?_
      rw [counter_modLane]
      rfl

/-- What training has set in the lane (R438, R451). -/
def laneTrained (pre : Bool) (taps : Word) (x : Lane) : Lane :=
  { x with trained := true, preTx := pre, preRx := !x.noPre, taps := if bitOf x.txeq 31 then x.taps else some (taps &&& 0x0F1F3F1F) }

theorem trainedOp_of_training (hst : (lane s l).st = 3) (pre : Bool) (taps : Word) :
    trainedOp l pre taps s = modLane l (laneTrained pre taps) (laneTo l stUp s) :=
  if_neg (not_not.mpr hst)

theorem lane_trainedOp (hst : (lane s l).st = 3) (pre : Bool) (taps : Word) :
    (lane (trainedOp l pre taps s) l).st = 4 ∧ (lane (trainedOp l pre taps s) l).trained = true ∧
      (lane (trainedOp l pre taps s) l).preTx = pre ∧ (lane (trainedOp l pre taps s) l).preRx = !(lane s l).noPre ∧
      (lane (trainedOp l pre taps s) l).taps = (if bitOf (lane s l).txeq 31 then (lane s l).taps else some (taps &&& 0x0F1F3F1F)) := by
  have hlane := sameLane_entered l (st := stUp) (by decide) s
  rw [trainedOp_of_training hst, lane_modLane_self, hlane]
  exact ⟨rfl, rfl, rfl, rfl, rfl⟩

theorem laneKept_trainedOp (hst : (lane s l).st = 3) (pre : Bool) (taps : Word) : LaneKept l s (trainedOp l pre taps s) := by
  rw [trainedOp_of_training hst]
  exact (laneMoved_laneTo l stUp s).toLaneKept.trans (laneMoved_modLane ..).toLaneKept

/-- A port of one lane is UP as its lane is, and LINK_UP is struck as it comes up (R458). -/
theorem stat_trainedOp (hst : (lane s l).st = 3) (hl : l < 32) (hport : portOf (effW s) l = some l)
    (hone : portLanes (effW s) l = [l]) (pre : Bool) (taps : Word) :
    bitOf (page (trainedOp l pre taps s) (lanePage l)).stat 0 = true := by
  have hmoved : (lane (laneMove l stUp s) l).st = stUp := laneMove_st l stUp s
  have heff : effW (laneMove l stUp s) = effW s := by
    rw [(LaneKept.laneMove l stUp s).frame]
    rfl
  have hdown : linkCondIn (effW s) s l = false := by
    simp [linkCondIn, hport, portUpIn, hone, hst, stUp]
  have hup : linkCond (laneMove l stUp s) l = true := by
    rw [linkCond, linkCondIn, heff, if_pos hport, portUpIn, hone]
    simp [hmoved, inSkew, hone]
  have hown : bitOf (page (linkEvents (effW s) l s (laneMove l stUp s)) (lanePage l)).stat 0 = true := by
    have hbit := stat_raiseBit (lanePage l) (i := 0) (by decide) (laneMove l stUp s)
    rw [linkEvents, if_neg (by omega)]
    simp only [hdown, hup, Bool.not_false, Bool.and_self, if_true]
    split
    · exact ((FlagsKept.refl _).raised _ 1).bits _ _ hbit
    · exact hbit
  have hall : bitOf (page (allLinkEvents l s (laneMove l stUp s)) (lanePage l)).stat 0 = true := by
    rw [allLinkEvents, heff, hport]
    simp only [if_true]
    exact hown
  rw [trainedOp_of_training hst]
  change bitOf (page (laneTo l stUp s) (lanePage l)).stat 0 = true
  rw [laneTo]
  simp only [if_neg (show ¬ 32 ≤ l by omega)]
  exact hall

theorem trainTimeout_of_training (hst : (lane s l).st = 3) : trainTimeout l s = modLane l (fun x => { x with retry := true })
    (if l < 32 then raiseBit (lanePage l) 3 (dieCtr l 6 1 (laneTo l stLocking s)) else dieCtr l 6 1 (laneTo l stLocking s)) :=
  if_neg (not_not.mpr hst)

theorem lane_trainTimeout (hst : (lane s l).st = 3) :
    (lane (trainTimeout l s) l).st = 2 ∧ (lane (trainTimeout l s) l).retry = true := by
  have hlane := sameLane_entered l (st := stLocking) (by decide) s
  have hraised : lane (if l < 32 then raiseBit (lanePage l) 3 (dieCtr l 6 1 (laneTo l stLocking s))
      else dieCtr l 6 1 (laneTo l stLocking s)) l = lane (laneTo l stLocking s) l := by
    split
    · exact lane_raiseBit ..
    · rfl
  rw [trainTimeout_of_training hst, lane_modLane_self, hraised, hlane]
  exact ⟨rfl, rfl⟩

theorem laneKept_trainTimeout (hst : (lane s l).st = 3) : LaneKept l s (trainTimeout l s) := by
  rw [trainTimeout_of_training hst]
  have hcounted := (laneMoved_laneTo l stLocking s).toLaneKept.trans (laneKept_dieCtr l 6 1 _)
  exact (rel_ite (hcounted.trans (.raiseBit l _ _ _)) hcounted).trans (laneMoved_modLane ..).toLaneKept

theorem counted_trainTimeout (hl : l < 36) (hst : (lane s l).st = 3) :
    Counted (diePageOf l) (16 * laneBlock l + 6) 1 s (trainTimeout l s) := by
  have hcounted : Counted (diePageOf l) (16 * laneBlock l + 6) 1 s (dieCtr l 6 1 (laneTo l stLocking s)) := by
    refine (counted_dieCtr l 6 1 (laneTo l stLocking s)).trans ?_
    rw [(laneMoved_laneTo l stLocking s).counter_die hl (by decide) (by decide)]
  rw [trainTimeout_of_training hst, Counted, counter_modLane]
  split
  · rw [counter_raiseBit]
    exact hcounted
  · exact hcounted

theorem stat_trainTimeout (hst : (lane s l).st = 3) (hl : l < 32) : bitOf (page (trainTimeout l s) (lanePage l)).stat 3 = true := by
  rw [trainTimeout_of_training hst, if_pos hl]
  exact stat_raiseBit (lanePage l) (by decide) _

/-- The wait of a lane for another run of training is over (R446). -/
theorem trainRetry_of_waiting (hst : (lane s l).st = 2) (hretry : (lane s l).retry = true) : trainRetry l s =
    if (lane s l).converged && txEnabled s l then startTraining l (modLane l (fun x => { x with retry := false }) s)
    else modLane l (fun x => { x with retry := false }) s := by
  have hconv : (lane (modLane l (fun x => { x with retry := false }) s) l).converged = (lane s l).converged := by
    rw [lane_modLane_self]
  refine (if_pos ⟨hst, hretry⟩).trans ?_
  change (if ((lane (modLane l (fun x => { x with retry := false }) s) l).converged && txEnabled s l) = true then _ else _) = _
  rw [hconv]

theorem lane_trainRetry (hst : (lane s l).st = 2) (hretry : (lane s l).retry = true) :
    (lane (trainRetry l s) l).st = (if (lane s l).converged && txEnabled s l then 3 else 2) ∧
      (lane (trainRetry l s) l).retry = false := by
  rw [trainRetry_of_waiting hst hretry]
  split
  · have hlane := sameLane_startTraining l (modLane l (fun x => { x with retry := false }) s)
    rw [hlane]
    exact ⟨rfl, rfl⟩
  · rw [lane_modLane_self]
    exact ⟨hst, rfl⟩

theorem laneKept_trainRetry (hst : (lane s l).st = 2) (hretry : (lane s l).retry = true) : LaneKept l s (trainRetry l s) := by
  rw [trainRetry_of_waiting hst hretry]
  have hmod := (laneMoved_modLane l (fun x => { x with retry := false }) s).toLaneKept
  exact rel_ite (hmod.trans (laneKept_startTraining ..)) hmod

theorem counted_trainRetry (hl : l < 36) (hst : (lane s l).st = 2) (hretry : (lane s l).retry = true) :
    Counted (diePageOf l) (16 * laneBlock l + 5) (if (lane s l).converged && txEnabled s l then 1 else 0) s (trainRetry l s) := by
  rw [trainRetry_of_waiting hst hretry]
  split
  · refine (counted_startTraining hl).trans ?_
    rw [counter_modLane]
  · exact counted_zero rfl

/-! ## Loss of lock -/

theorem lockOut_of_locked (hst : (lane s l).st = 4 ∨ (lane s l).st = 3) :
    lockOut l s = countLockLoss l (modLane l (fun x => { x with converged := false }) (laneTo l stLocking s)) :=
  if_pos hst

/-- The lane goes back to LOCKING and adapts anew. -/
theorem lane_unconverged (l : Nat) (s : State) :
    (lane (modLane l (fun x => { x with converged := false }) (laneTo l stLocking s)) l).st = 2 ∧
      (lane (modLane l (fun x => { x with converged := false }) (laneTo l stLocking s)) l).converged = false := by
  have hlane := sameLane_entered l (st := stLocking) (by decide) s
  rw [lane_modLane_self, hlane]
  exact ⟨rfl, rfl⟩

theorem laneMoved_unconverged (l : Nat) (s : State) :
    LaneMoved l s (modLane l (fun x => { x with converged := false }) (laneTo l stLocking s)) :=
  (laneMoved_laneTo l stLocking s).trans (laneMoved_modLane ..)

theorem lane_lockOut (hst : (lane s l).st = 4 ∨ (lane s l).st = 3) :
    (lane (lockOut l s) l).st = 2 ∧ (lane (lockOut l s) l).converged = false := by
  rw [lockOut_of_locked hst, lane_countLockLoss]
  exact lane_unconverged l s

theorem laneKept_lockOut (hst : (lane s l).st = 4 ∨ (lane s l).st = 3) : LaneKept l s (lockOut l s) := by
  rw [lockOut_of_locked hst]
  exact (laneMoved_unconverged l s).toLaneKept.trans (laneKept_countLockLoss ..)

theorem counted_lockOut (hl : l < 36) (hst : (lane s l).st = 4 ∨ (lane s l).st = 3) :
    Counted (diePageOf l) (16 * laneBlock l + 4) 1 s (lockOut l s) := by
  rw [lockOut_of_locked hst]
  refine (counted_countLockLoss ..).trans ?_
  rw [(laneMoved_unconverged l s).counter_die hl (by decide) (by decide)]

theorem stat_lockOut (hst : (lane s l).st = 4 ∨ (lane s l).st = 3) (hl : 32 ≤ l) :
    bitOf (page (lockOut l s) (pkey 0 0x100)).stat 2 = true := by
  have hdie : diePageOf l = pkey 0 0x100 := if_pos hl
  rw [lockOut_of_locked hst, countLockLoss]
  simp only [if_pos hl, hdie]
  exact stat_raiseBit (pkey 0 0x100) (by decide) _

end

end Sys2Proof.Laws
end

section
/-! The calibration of a lane (R81, R446), and what settles O45. -/

namespace Sys2Proof.Laws

open Sys2Proof Sys2Proof.Machine

/-! ## Calibration -/

/-- A lane may be calibrated (R81, R108): its block domains are up, its page is powered, and its die does not sleep. -/
structure CalibratedInTurn (l : Nat) (s : State) : Prop where
  off : (lane s l).st = 0
  awake : l < 32 → powered s (lanePage l) = true ∧ l / 4 ∉ s.pwr.entering ∧ l / 4 ∉ s.pwr.asleep ∧ l / 4 ∉ s.pwr.waking
  blocks : blocksUp s (if l < 32 then l / 4 else 0) = true

section
variable {l : Nat} {s : State} (h : CalibratedInTurn l s)
include h

theorem calibrated_inTurn (ok : Bool) :
    calibrated l ok s = if ok then laneSearch l s else setFault (if l < 32 then lanePage l else pgYoke) s := by
  have hasleep : ¬ (l < 32 ∧ (s.pwr.entering.contains (l / 4) || s.pwr.asleep.contains (l / 4) || s.pwr.waking.contains (l / 4)) = true) := by
    rintro ⟨hl, hin⟩
    obtain ⟨-, hentering, hasleep, hwaking⟩ := h.awake hl
    simp [hentering, hasleep, hwaking] at hin
  have hlate : ¬ ((lane s l).st ≠ stOff ∨ (l < 32 ∧ powered s (lanePage l) = false) ∨
      blocksUp s (if l < 32 then l / 4 else 0) = false) := by
    rintro (hst | ⟨hl, hpow⟩ | hblocks)
    · exact hst h.off
    · rw [(h.awake hl).1] at hpow
      cases hpow
    · rw [h.blocks] at hblocks
      cases hblocks
  rw [calibrated, if_neg hasleep, if_neg hlate]

theorem calibrated_ok : calibrated l true s =
    laneTo l stSearch { s with pwr := { s.pwr with laneCal := NSet.add s.pwr.laneCal l } } :=
  (calibrated_inTurn h true).trans (if_pos h.off)

/-- A lane calibrated searches, and is recorded as calibrated. -/
theorem event_calibrated_ok : (lane (yieldOnConditions (calibrated l true s)) l).st = 1 ∧
    l ∈ (yieldOnConditions (calibrated l true s)).pwr.laneCal ∧ LaneEvent l s (yieldOnConditions (calibrated l true s)) := by
  rw [calibrated_ok h]
  have hkept := (laneMoved_laneTo l stSearch { s with pwr := { s.pwr with laneCal := NSet.add s.pwr.laneCal l } }).toLaneKept
  have hlane := sameLane_entered l (st := stSearch) (by decide) { s with pwr := { s.pwr with laneCal := NSet.add s.pwr.laneCal l } }
  refine ⟨?_, ?_, laneEvent_of_calibrated (laneEvent_yield hkept)⟩
  · have hst : (lane (laneTo l stSearch { s with pwr := { s.pwr with laneCal := NSet.add s.pwr.laneCal l } }) l).st = 1 := by
      rw [hlane]
      rfl
    rw [lane_yield_of_busy (by rw [hst]; decide), hst]
  · rw [(yieldKept_yieldOnConditions _).frame, hkept.frame]
    exact (mem_NSet_add ..).mpr (.inl rfl)

end

/-! ## The fault of a lane's page -/

/-- The page of a lane, marked faulted, with the fall of READY that follows (R44, R87). -/
def lanePageMarked (k : Nat) (s : State) : State := dropReady (fallWith [k]) s (markFault k s)

theorem laneKept_to_dropReady (l k : Nat) (s : State) : LaneKept l (markFault k s) (lanePageMarked k s) := .dropReady l _ s _

theorem setFault_of_lanePage {k : Nat} (hk : ¬ (0x120 ≤ keyPage k ∧ keyPage k < 0x124)) (s : State) :
    setFault k s = (lanesOfPage k).foldl (fun s l => laneTo l stFault s) (lanePageMarked k s) := by
  have hquiet : ¬ (0x120 ≤ keyPage k ∧ keyPage k < 0x124 ∧ (page s k).fault = false) := fun h => hk ⟨h.1, h.2.1⟩
  change faultActs (page s k).fault k (lanePageMarked k s) = _
  rw [faultActs, if_neg hquiet]

theorem lanesOfPage_lanePage (l : Nat) : lanesOfPage (lanePage l) = [l] := by
  have hpage : keyPage (lanePage l) = 0x110 + l % 4 := by
    rw [lanePage, keyPage_pkey _ _ (by omega)]
  have hdie : keyDie (lanePage l) = l / 4 := by
    rw [lanePage, keyDie_pkey _ _ (by omega)]
  have hnumber : 4 * keyDie (lanePage l) + (keyPage (lanePage l) - 0x110) = l := by
    rw [hpage, hdie]
    omega
  exact (if_pos (by rw [hpage]; omega)).trans (congrArg (fun n => [n]) hnumber)

/-- A yoke lane's change is any yoke lane's: it names no Ethernet lane. -/
theorem LaneKept.ofYoke {l m : Nat} (hl : 32 ≤ l) (hm : 32 ≤ m) {s t : State} (h : LaneKept m s t) : LaneKept l s t :=
  ⟨h.frame, h.fault, fun j hj _ => h.other j hj (by omega), .inl hl⟩

/-- The yoke lanes are in FAULT as their page is (R446). -/
theorem laneKept_foldl_yokeFault {l : Nat} (hl : 32 ≤ l) {ls : List Nat} (hls : ∀ m ∈ ls, 32 ≤ m) (s : State) :
    LaneKept l s (ls.foldl (fun s m => laneTo m stFault s) s) := by
  induction ls generalizing s with
  | nil => exact .refl l s
  | cons m ls ih =>
    obtain ⟨hm, hrest⟩ := List.forall_mem_cons.mp hls
    exact (LaneKept.ofYoke hl hm (laneMoved_laneTo m stFault s).toLaneKept).trans (ih hrest _)

/-- A lane in FAULT stays there as another lane enters it. -/
theorem st_laneTo_other {l m : Nat} (hne : l ≠ m) {s : State} (hst : (lane s l).st = stFault) :
    (lane (laneTo m stFault s) l).st = stFault := by
  have hmove : (lane (laneMove m stFault s) l).st = stFault := by
    unfold laneMove
    extract_lets old moved
    have hmoved : (lane moved l).st = stFault := (congrArg Lane.st ((lane_modLane m _ s l).trans (if_neg hne))).trans hst
    split
    · exact hmoved
    · rw [blocksAnew_st]
      split
      · rw [sameLane_eyeAbort l m moved]
        exact hmoved
      · exact hmoved
  have hlink : (lane (allLinkEvents m s (laneMove m stFault s)) l).st = stFault := by
    rw [lane_allLinkEvents]
    exact hmove
  unfold laneTo
  extract_lets moved
  split
  · unfold wakeBeat
    split
    · next b _ =>
      split
      · next hidle =>
        rw [lane_idleExit, if_neg]
        · exact hlink
        · rintro rfl
          exact absurd (hlink.symm.trans hidle) (by decide)
      · exact hlink
    · exact hlink
  · exact hlink

theorem st_foldl_fault {l : Nat} {ls : List Nat} (hl : l ∈ ls) (s : State) :
    (lane (ls.foldl (fun s m => laneTo m stFault s) s) l).st = stFault := by
  have hstays : ∀ (ls : List Nat) (s : State), (lane s l).st = stFault → (lane (ls.foldl (fun s m => laneTo m stFault s) s) l).st = stFault := by
    intro ls
    induction ls with
    | nil => exact fun _ h => h
    | cons m ls ih =>
      intro s h
      refine ih _ ?_
      by_cases hm : l = m
      · rw [← hm, sameLane_entered l (by decide) s]
        rfl
      · exact st_laneTo_other hm h
  obtain ⟨before, after, rfl⟩ := List.append_of_mem hl
  rw [List.foldl_append, List.foldl_cons]
  refine hstays after _ ?_
  rw [sameLane_entered l (by decide)]
  rfl

/-- The page of lane `l`: its own, or the YOKE page. -/
def pageOfLane (l : Nat) : Nat := if l < 32 then lanePage l else pgYoke

theorem pageOfLane_noEngine (l : Nat) : ¬ (0x120 ≤ keyPage (pageOfLane l) ∧ keyPage (pageOfLane l) < 0x124) := by
  unfold pageOfLane
  split
  · rw [lanePage, keyPage_pkey _ _ (by omega)]
    omega
  · decide

theorem mem_lanesOfPage_own {l : Nat} (hl : l < 36) : l ∈ lanesOfPage (pageOfLane l) := by
  unfold pageOfLane
  split
  · rw [lanesOfPage_lanePage]
    exact List.mem_singleton_self l
  · change l ∈ [32, 33, 34, 35]
    simp only [List.mem_cons, List.not_mem_nil, or_false]
    omega

theorem laneKept_faultLanes (l : Nat) (s : State) :
    LaneKept l s ((lanesOfPage (pageOfLane l)).foldl (fun s l => laneTo l stFault s) s) := by
  unfold pageOfLane
  split
  · rw [lanesOfPage_lanePage]
    exact (laneMoved_laneTo l stFault s).toLaneKept
  · next hl =>
    refine laneKept_foldl_yokeFault (by omega) (fun m hm => ?_) s
    change m ∈ [32, 33, 34, 35] at hm
    simp only [List.mem_cons, List.not_mem_nil, or_false] at hm
    omega

/-- A lane whose calibration failed is in FAULT with its page (R446). -/
theorem event_calibrated_failed {l : Nat} {s : State} (hl : l < 36) (h : CalibratedInTurn l s) :
    (lane (yieldOnConditions (calibrated l false s)) l).st = 6 ∧
      (page (yieldOnConditions (calibrated l false s)) (pageOfLane l)).fault = true ∧
      LaneEvent l s (yieldOnConditions (calibrated l false s)) := by
  have hfailed : calibrated l false s = setFault (pageOfLane l) s := calibrated_inTurn h false
  have hset := setFault_of_lanePage (pageOfLane_noEngine l) s
  have hst : (lane (setFault (pageOfLane l) s) l).st = 6 := by
    rw [hset]
    exact st_foldl_fault (mem_lanesOfPage_own hl) _
  have hkept : LaneKept l (markFault (pageOfLane l) s) (setFault (pageOfLane l) s) := by
    rw [hset]
    exact (laneKept_to_dropReady l _ s).trans (laneKept_faultLanes l _)
  rw [hfailed]
  refine ⟨?_, ?_, ?_⟩
  · rw [lane_yield_of_busy (by rw [hst]; decide), hst]
  · rw [(yieldKept_yieldOnConditions _).fault]
    exact fault_setFaults List.mem_cons_self s
  · obtain ⟨hother, hframe⟩ := laneEvent_yield hkept
    exact ⟨hother, hframe⟩

/-! ## The commands -/

/-- A lane in FAULT stays there, whatever happens to it (R446). -/
theorem exec_of_faultedLane {l : Nat} {s : State} (hrun : inReset s = false) (hl : laneExists s l = true) (hst : (lane s l).st = 6)
    {ok : Bool} {c d : Nat} {pre : Bool} {taps : Word} {e : Instr} (he : e ∈ [Instr.laneCalibrated l ok, .signalDetect l, .signalLoss l,
      .adaptationConverged l c d, .trainingComplete l pre taps, .trainingTimeout l, .trainingRetry l, .lockLoss l]) :
    exec e s = .next (yieldOnConditions s) := by
  have stays : ∀ k : State → State, k s = s → atLane l s k = .next (yieldOnConditions s) := fun k hk => by
    rw [atLane_of_exists hrun hl, hk]
  have hcal : calibrated l ok s = s := by
    unfold calibrated
    split
    · rfl
    · exact if_pos (.inl (by rw [hst]; decide))
  simp only [List.mem_cons, List.not_mem_nil, or_false] at he
  rcases he with rfl | rfl | rfl | rfl | rfl | rfl | rfl | rfl
  · exact stays _ hcal
  · exact stays _ (if_neg (by rw [hst]; decide))
  · exact stays _ (if_neg (by rw [hst]; decide))
  · exact stays _ (if_pos (by rw [hst]; decide))
  · exact stays _ (if_pos (by rw [hst]; decide))
  · exact stays _ (if_pos (by rw [hst]; decide))
  · exact stays _ (if_neg fun hup => absurd (hst.symm.trans hup.1) (by decide))
  · exact stays _ (if_neg (by rw [hst]; decide))

/-- Settles O45: an event moves its lane through `laneTo`, and a yield that may follow leaves a lane that is not idle. -/
theorem lanesFollowTheirEvents : Obligations.LanesFollowTheirEvents := by
  unfold Obligations.LanesFollowTheirEvents
  intro l s hrun hexists
  have hl := lt_of_laneExists hexists
  have answers : ∀ k, atLane l s k = .next (yieldOnConditions (k s)) := atLane_of_exists hrun hexists
  refine ⟨fun hst hawake hblocks => ⟨_, answers _, event_calibrated_ok ⟨hst, hawake, hblocks⟩⟩,
    fun hst hawake hblocks => ⟨_, answers _, event_calibrated_failed hl ⟨hst, hawake, hblocks⟩⟩, fun hst => ?_, fun hst => ?_,
    fun hst c d => ?_, fun hst pre taps => ?_, fun hst => ?_, fun hst hretry => ?_, fun hst => ?_,
    fun hst ok c d pre taps e he => exec_of_faultedLane hrun hexists hst he⟩
  · obtain ⟨hto, hsignal⟩ := lane_signalIn hst
    refine ⟨_, answers _, ?_, ?_, laneEvent_yield (laneMoved_signalIn hst).toLaneKept⟩
    all_goals rw [lane_yield_of_busy (by rw [hto]; decide)]
    · exact hto
    · exact hsignal
  · obtain ⟨hto, hsignal, hlock⟩ := lane_signalOut hst
    refine ⟨_, answers _, ?_, ?_, ?_, counted_yield hl (by decide) (by decide) (counted_signalOut hl hst),
      laneEvent_yield (laneKept_signalOut hst)⟩
    all_goals rw [lane_yield_of_busy (by rw [hto]; decide)]
    · exact hto
    · exact hsignal
    · exact hlock
  · obtain ⟨hto, hrest⟩ := lane_adapted c d hst
    have hbusy : (lane (adapted l c d s) l).st ≠ 5 := by
      rw [hto]
      split
      · split <;> decide
      · decide
    refine ⟨_, answers _, ?_⟩
    rw [lane_yield_of_busy hbusy]
    obtain ⟨hconv, hctle, hdfe⟩ := hrest
    exact ⟨hto, hconv, hctle, hdfe, counted_yield hl (by decide) (by decide) (counted_adapted c d hl hst),
      laneEvent_yield (laneKept_adapted c d hst)⟩
  · obtain ⟨hto, htrained, hpre, hrx, htaps⟩ := lane_trainedOp hst pre taps
    refine ⟨_, answers _, ?_⟩
    rw [lane_yield_of_busy (by rw [hto]; decide)]
    exact ⟨hto, htrained, hpre, hrx, htaps, fun h32 hport hone => stat_yield (stat_trainedOp hst h32 hport hone pre taps),
      laneEvent_yield (laneKept_trainedOp hst pre taps)⟩
  · obtain ⟨hto, hretry⟩ := lane_trainTimeout hst
    refine ⟨_, answers _, ?_⟩
    rw [lane_yield_of_busy (by rw [hto]; decide)]
    exact ⟨hto, hretry, counted_yield hl (by decide) (by decide) (counted_trainTimeout hl hst),
      fun h32 => stat_yield (stat_trainTimeout hst h32), laneEvent_yield (laneKept_trainTimeout hst)⟩
  · obtain ⟨hto, hwait⟩ := lane_trainRetry hst hretry
    have hbusy : (lane (trainRetry l s) l).st ≠ 5 := by
      rw [hto]
      split <;> decide
    refine ⟨_, answers _, ?_⟩
    rw [lane_yield_of_busy hbusy]
    exact ⟨hto, hwait, counted_yield hl (by decide) (by decide) (counted_trainRetry hl hst hretry),
      laneEvent_yield (laneKept_trainRetry hst hretry)⟩
  · obtain ⟨hto, hconv⟩ := lane_lockOut hst
    refine ⟨_, answers _, ?_⟩
    rw [lane_yield_of_busy (by rw [hto]; decide)]
    exact ⟨hto, hconv, counted_yield hl (by decide) (by decide) (counted_lockOut hl hst), fun h32 => stat_yield (stat_lockOut hst h32),
      laneEvent_yield (laneKept_lockOut hst)⟩

end Sys2Proof.Laws
end

section
/-! O23 and O48 fail as O21, O22, O27, O29 and O30 do, in a part that holds an ill-formed work item (see `strayItem`): the release of one whose
kind R271 does not list advances a counter of another page. A command that arrives as a frame and a sample that becomes ready both
end with `wakeItems`, which may release it. -/

namespace Sys2Proof.Laws

open Sys2Proof Sys2Proof.Machine

/-! ## A sample that becomes ready -/

/-- A part with a NET flow of one channel, which nobody has written; the stray item's release advances counter 0 of the flow's page, the
packet times of channels that nobody wrote. -/
def samplePart : State := { strayPart (pgAfl 0) 0 with eff := [(aflLoc 0 0x100, 0x80000000)], aflows := [(0, { valid := true })] }

theorem counter_sampleReady_samplePart : counter (wakeItems (sampleReadyOp 0 samplePart)) (pgAfl 0) 0 = 2 := by decide

theorem exec_sampleReady_samplePart : exec (.sampleReady 0) samplePart = .next (wakeItems (sampleReadyOp 0 samplePart)) := by
  change atFlow 0 samplePart (guard' (aflow samplePart 0).valid fun s => wakeItems (sampleReadyOp 0 s)) = _
  rw [atFlow, if_pos (by decide), whenUp_of_running rfl]
  rfl

/-- Refutes O48: the unwritten channel counts once for its packet time, and the stray item's release counts once more on the same counter. -/
theorem not_audioPacketsAndSamples : ¬ Obligations.AudioPacketsAndSamples := by
  unfold Obligations.AudioPacketsAndSamples
  intro audio
  obtain ⟨-, samples, -⟩ := audio samplePart rfl
  obtain ⟨t, ht, -, -, -, missing, -⟩ := samples 0 (by decide) (by decide)
  rw [exec_sampleReady_samplePart] at ht
  obtain rfl := Host.Outcome.next.inj ht
  obtain ⟨hcounted, -⟩ := missing (by decide) (.inl (by decide)) 0 (by decide) (by decide)
  exact not_counted_one (by decide) counter_sampleReady_samplePart hcounted

/-! ## A command that arrives as a frame -/

/-- A part whose port takes commands under the key in slot 0; the stray item's release advances counter 5 of the `FLOW` page, the accepted
commands. -/
def commandPart : State := { strayPart (pgFlow 0) 5 with
  pwr := { supplied := true, domUp := [6] }, eff := [(laneLoc 0, 1), (ploc (pgGate 0) 0x120, 0x80000000)], lanes := [(0, { st := stUp })]
  tack := { slots := [(0, { full := true })] } }

/-- A STOP of flow 0, under the tag of that key. -/
def stopBody : Body := .command 0xCA01 1 1 0 1 (cmdTag { full := true } 0 0 0xCA01 1 1 0 1)

/-- The frame that carries it. -/
def stopFrame : Frame :=
  { at_ := 0, stamp := 0, lane := 0, len := 64, fcsOk := true, pause := false, ptpEth := false, ipv4Udp := true, frag := false
    ipsumOk := true, vlans := [], sip := 0, dip := 0, sport := 0, dport := 0, body := stopBody }

/-- The part as the command runs: the frame is counted, and holds its share of the buffer. -/
def stopReceived : State :=
  modPort 0 (fun x => { x with cmdBuf := [(0, 64)] })
    (bump (pgCls 0) 2 1 (bump (lanePage 0) 1 64 (bump (lanePage 0) 0 1 (advance 0 commandPart))))

theorem toMgmt_stopFrame {s : State} (hshare : cmdShare (bump (pgCls 0) 2 1 s) stopFrame = some 0)
    (hfrom : (cmdAddressed (modPort 0 (fun x => { x with cmdBuf := [(0, 64)] }) (bump (pgCls 0) 2 1 s)) stopFrame).isSome = true)
    (hheld : cmdHeld (port (bump (pgCls 0) 2 1 s) 0) 0 = []) (hnow : (bump (pgCls 0) 2 1 s).time.now = 0) :
    toMgmt 0 stopFrame s = command 0 0 stopBody (modPort 0 (fun x => { x with cmdBuf := [(0, 64)] }) (bump (pgCls 0) 2 1 s)) := by
  rw [toMgmt, show pgCls (0 / 4) = pgCls 0 from rfl]
  simp only [hshare, hnow, show (0 : Nat) / 4 * 4 = 0 from rfl, hheld, List.map_nil, List.sum_nil, List.nil_append]
  exact (if_neg (by decide)).trans (if_pos hfrom)

theorem handleFrame_stopFrame {s : State} (hclass : classify s 0 stopFrame = none) (hdip : gateAddr (effW s) 0 = 0) :
    handleFrame 0 stopFrame s = toMgmt 0 stopFrame s := by
  rw [handleFrame, if_neg (by decide), if_neg (by decide), if_neg (by decide), hclass]
  exact if_pos hdip.symm

theorem portReceive_stopFrame {s : State} (hup : s.pwr.domUp.contains 6 = true) :
    portReceive 0 stopFrame s = handleFrame 0 stopFrame (bump (lanePage 0) 1 64 (bump (lanePage 0) 0 1 s)) := by
  rw [portReceive, if_neg (by decide), if_neg (by decide), if_neg (by decide)]
  refine if_neg ?_
  rw [show (bump (lanePage 0) 1 stopFrame.len (bump (lanePage 0) 0 1 s)).pwr.domUp.contains (16 * (0 / 4) + 6) = s.pwr.domUp.contains 6 from rfl, hup]
  decide

theorem receiveFrame_stopFrame : receiveFrame stopFrame commandPart = wakeItems (command 0 0 stopBody stopReceived) := by
  rw [receiveFrame, show portOf (effW (advance stopFrame.at_ commandPart)) stopFrame.lane = some 0 by decide]
  refine (if_pos (by decide)).trans (congrArg wakeItems ?_)
  rw [portReceive_stopFrame (by decide), handleFrame_stopFrame (by decide) (by decide),
    toMgmt_stopFrame (by decide) (by decide) (by decide) (by decide)]
  rfl
/-- The STOP has acted, and is counted. -/
def stopDone (s : State) : State := bump (pgFlow 0) 5 1 (raiseBit (pgFlow 0) 2 (stopFlows [0] (setKeySlot 0 { full := true, counter := 1 } s)))

/-- Its acknowledgement waits at the port. -/
def stopAcknowledged (s : State) : State :=
  modPort 0 (fun p => { p with mgmtQ := p.mgmtQ ++
    [{ len := 74, release := s.time.now, ip := some (cmdAck (effW s) { full := true } 0 0 0xCA01 1 1 0 1) }] }) s

theorem command_stopBody {s : State} (hkey : cmdKey (effW s) 0 = 0) (hslot : keySlot s 0 = { full := true }) :
    command 0 0 stopBody s = stopAcknowledged (stopDone s) := by
  rw [stopBody, command]
  simp only [hkey, hslot]
  rw [if_pos (by decide), if_pos trivial]
  rfl

theorem counter_stopAcknowledged : counter (wakeItems (stopAcknowledged (stopDone stopReceived))) (pgFlow 0) 5 = 2 := by decide

theorem counter_stop : counter (receiveFrame stopFrame commandPart) (pgFlow 0) 5 = 2 := by
  rw [receiveFrame_stopFrame, command_stopBody (by decide) (by decide), counter_stopAcknowledged]

theorem accepted_stopFrame : CommandAccepted commandPart stopFrame 0 1 1 0 1 := by
  refine ⟨by decide, by decide, by decide, by decide, by decide, by decide, by decide, by decide, ?_⟩
  rw [show keySlot commandPart (cmdKey (effW commandPart) 0) = { full := true } by decide]
  rfl

theorem exec_cmdStop_stopFrame : exec (.cmdStop stopFrame) commandPart = .next (receiveFrame stopFrame commandPart) := by
  change atFrame stopFrame commandPart (guard' (hasOp stopFrame 1) (receiveFrame stopFrame)) = _
  rw [atFrame, if_pos (by decide), whenUp_of_running rfl]
  rfl

/-- Refutes O23: the command counts once, and the stray item's release counts once more on the same counter. -/
theorem not_commandsAct : ¬ Obligations.CommandsAct := by
  unfold Obligations.CommandsAct
  rintro ⟨commands, -⟩
  obtain ⟨stops, -⟩ := commands commandPart stopFrame 0 1 0 1
  obtain ⟨t, ht, ⟨-, -, -, hcounted, -⟩, -⟩ := stops accepted_stopFrame
  rw [exec_cmdStop_stopFrame] at ht
  obtain rfl := Host.Outcome.next.inj ht
  exact not_counted_one (by decide) counter_stop hcounted

end Sys2Proof.Laws
end

section
/-! Operations that do no more than strike flags and count: what they leave, said once for chains of them. -/

namespace Sys2Proof.Laws

open Sys2Proof Sys2Proof.Machine

/-- From `s` to `t` only flags, counters and messages on their way have moved; no FAULT bit, and no status bit taken back. -/
structure Noted (s t : State) : Prop where
  frame : t = { s with pages := t.pages, ctrs := t.ctrs, ic := { s.ic with inflight := t.ic.inflight } }
  fault : ∀ k, (page t k).fault = (page s k).fault
  bits : ∀ k i, bitOf (page s k).stat i = true → bitOf (page t k).stat i = true

theorem Noted.refl (s : State) : Noted s s := ⟨rfl, fun _ => rfl, fun _ _ h => h⟩

theorem Noted.trans {s t u : State} (h : Noted s t) (g : Noted t u) : Noted s u where
  frame := by
    have moved := g.frame
    rw [h.frame] at moved
    exact moved
  fault k := (g.fault k).trans (h.fault k)
  bits k i hb := g.bits k i (h.bits k i hb)

theorem Noted.ite {s a b : State} {c : Prop} [Decidable c] (ha : Noted s a) (hb : Noted s b) : Noted s (if c then a else b) := by
  split
  · exact ha
  · exact hb

theorem noted_bump (k n x : Nat) (s : State) : Noted s (bump k n x s) := ⟨rfl, fun _ => rfl, fun _ _ h => h⟩

theorem noted_raiseBit (k i : Nat) (s : State) : Noted s (raiseBit k i s) where
  frame := by
    have moved := raiseBit_frame k i s
    have hctrs : (raiseBit k i s).ctrs = s.ctrs := by rw [moved]
    rw [hctrs]
    exact moved
  fault j := by
    rw [raiseBit, page_raise]
    split
    · next h => rw [h]
    · rfl
  bits j m hb := by
    rw [raiseBit, page_raise]
    split
    · next h =>
      rw [← h]
      exact bitOf_or hb
    · exact hb

theorem Noted.bumped {s t : State} (h : Noted s t) (k n x : Nat) : Noted s (bump k n x t) := h.trans (noted_bump k n x t)

theorem Noted.raised {s t : State} (h : Noted s t) (k i : Nat) : Noted s (raiseBit k i t) := h.trans (noted_raiseBit k i t)

theorem Noted.foldl {α : Type} {f : State → α → State} (h : ∀ s a, Noted s (f s a)) (l : List α) (s : State) : Noted s (l.foldl f s) := by
  induction l generalizing s with
  | nil => exact .refl s
  | cons a l ih => exact (h s a).trans (ih (f s a))

/-- An event struck on a page whose flags are those of `s`. -/
theorem struck_of_pages {k i : Nat} (hi : i < 32) {s u : State} (h : u.pages = s.pages) : Struck k i s (raiseBit k i u) :=
  struck_congr h.symm rfl (struck_raiseBit k hi u)

/-- An event struck leaves what a count says. -/
theorem counted_raiseBit {j n x : Nat} {s t : State} (h : Counted j n x s t) (k i : Nat) : Counted j n x s (raiseBit k i t) :=
  counted_of_kept h (counter_raiseBit _ i k j n)

/-- A count on another counter leaves what a count says. -/
theorem counted_bump_other {j m x k n y : Nat} {s t : State} (h : Counted j m x s t) (hne : 128 * j + m ≠ 128 * k + n) :
    Counted j m x s (bump k n y t) :=
  counted_of_kept h (counter_bump_other hne y t)

/-- A count on a state whose counters are those of `s`. -/
theorem counted_of_ctrs {k n x : Nat} {s u : State} (h : u.ctrs = s.ctrs) : Counted k n x s (bump k n x u) :=
  counted_after_kept (congrArg (fun t : Tbl (BitVec 64) => t.get (fun _ => 0) (128 * k + n)) h) (counted_bump_same k n x u)

end Sys2Proof.Laws
end

section
/-! Key commands (R493–R498): a command starts, is refused or is dropped; at its end one slot has changed, or a report is signed. -/

namespace Sys2Proof.Laws

open Sys2Proof Sys2Proof.Machine

/-! ## The start of a command -/

/-- The commands of `TACK_CMD`, by their operation. -/
abbrev IsTackCommand (e : Instr) (v : Word) : Prop := (e, fld v 31 28) ∈ [(Instr.tackWrite v, 1), (.tackErase v, 2), (.tackAttest v, 3)]

theorem exec_of_tackCommand {e : Instr} {v : Word} {s : State} (hrun : inReset s = false) (he : IsTackCommand e v) :
    exec e s = .next (tackCommand v s) := by
  simp only [IsTackCommand, List.mem_cons, Prod.mk.injEq, List.not_mem_nil, or_false] at he
  rcases he with ⟨rfl, hop⟩ | ⟨rfl, hop⟩ | ⟨rfl, hop⟩ <;> refine (next_whenUp hrun _).trans (congrArg _ (if_pos ?_)) <;> exact decide_eq_true hop

theorem op_of_tackCommand {e : Instr} {v : Word} (he : IsTackCommand e v) : 1 ≤ fld v 31 28 ∧ fld v 31 28 ≤ 3 := by
  simp only [IsTackCommand, List.mem_cons, Prod.mk.injEq, List.not_mem_nil, or_false] at he
  omega

section

variable {v : Word} {s : State} (hop : 1 ≤ fld v 31 28 ∧ fld v 31 28 ≤ 3) (hready : ready s 6 = true)
include hop hready

/-- A command of a ready block is one that is dropped, refused or started. -/
theorem tackCommand_heard : tackCommand v s =
    if s.tack.busy ≠ 0 then raiseBit pgTack 2 s
    else if fld v 31 28 = 1 ∧ (lcState s.pwr.fuses = 0 ∨ lcState s.pwr.fuses = 3) then tackRefuse 1 (fld v 11 0) s
    else if fld v 31 28 ≤ 2 ∧ slotInUse s (fld v 11 0) = true then tackRefuse 2 (fld v 11 0) s
    else if fld v 31 28 = 3 ∧ s.tack.idPub.isNone = true then tackRefuse 3 (fld v 11 0) s
    else { s with tack := { s.tack with
      busy := fld v 31 28, busySlot := fld v 11 0, busyLen := bitOf v 24, state := 1, cause := 0, slot := fld v 11 0 } } := by
  have hheard : ¬ (fld v 31 28 = 0 ∨ 3 < fld v 31 28 ∨ !ready s pgTack) := by
    rw [show pgTack = 6 from rfl, hready]
    simp only [Bool.not_true, Bool.false_eq_true, or_false]
    omega
  exact if_neg hheard

theorem tackCommand_of_busy (hbusy : s.tack.busy ≠ 0) : tackCommand v s = raiseBit pgTack 2 s :=
  (tackCommand_heard hop hready).trans (if_pos hbusy)

theorem tackCommand_started (hidle : s.tack.busy = 0) (hlife : fld v 31 28 = 1 → lcState s.pwr.fuses ≠ 0 ∧ lcState s.pwr.fuses ≠ 3)
    (hfree : fld v 31 28 ≤ 2 → slotInUse s (fld v 11 0) = false) (hid : fld v 31 28 = 3 → s.tack.idPub ≠ none) :
    tackCommand v s = { s with tack := { s.tack with
      busy := fld v 31 28, busySlot := fld v 11 0, busyLen := bitOf v 24, state := 1, cause := 0, slot := fld v 11 0 } } := by
  rw [tackCommand_heard hop hready, if_neg (not_not_intro hidle), if_neg, if_neg, if_neg]
  · exact fun h => hid h.1 (Option.isNone_iff_eq_none.mp h.2)
  · exact fun h => absurd ((hfree h.1).symm.trans h.2) (by decide)
  · exact fun h => h.2.elim (hlife h.1).1 (hlife h.1).2

/-- A refusal names the first cause that applies. -/
theorem tackCommand_refused {c : Nat} (hidle : s.tack.busy = 0) (hcause :
      c = 1 ∧ fld v 31 28 = 1 ∧ (lcState s.pwr.fuses = 0 ∨ lcState s.pwr.fuses = 3) ∨
      c = 2 ∧ fld v 31 28 ≤ 2 ∧ slotInUse s (fld v 11 0) = true ∧
        (fld v 31 28 = 1 → lcState s.pwr.fuses ≠ 0 ∧ lcState s.pwr.fuses ≠ 3) ∨
      c = 3 ∧ fld v 31 28 = 3 ∧ s.tack.idPub = none) : tackCommand v s = tackRefuse c (fld v 11 0) s := by
  rw [tackCommand_heard hop hready, if_neg (not_not_intro hidle)]
  rcases hcause with ⟨rfl, hwrite, hlife⟩ | ⟨rfl, hslot, hused, hlife⟩ | ⟨rfl, hattest, hnone⟩
  · exact if_pos ⟨hwrite, hlife⟩
  · rw [if_neg fun h => h.2.elim (hlife h.1).1 (hlife h.1).2, if_pos ⟨hslot, hused⟩]
  · rw [if_neg (by omega), if_neg (by omega), if_pos ⟨hattest, by rw [hnone]; rfl⟩]

end

/-- A refused command is struck and counted, and the buffers are zero. -/
theorem tackRefused (c n : Nat) (s : State) : Struck 6 1 s (tackRefuse c n s) ∧ Counted 6 3 1 s (tackRefuse c n s) ∧
    (tackRefuse c n s).tack = { s.tack with keyBuf := 0, saltBuf := 0, state := 3, cause := c, slot := n } ∧
    tackRefuse c n s = { s with
      pages := (tackRefuse c n s).pages, ctrs := (tackRefuse c n s).ctrs, tack := (tackRefuse c n s).tack
      ic := { s.ic with inflight := (tackRefuse c n s).ic.inflight } } := by
  have moved := (noted_raiseBit pgTack 1 (bump pgTack 3 1 (clearBufs { s with tack := { s.tack with state := 3, cause := c, slot := n } }))).frame
  have htack : (tackRefuse c n s).tack = { s.tack with keyBuf := 0, saltBuf := 0, state := 3, cause := c, slot := n } :=
    congrArg State.tack moved
  refine ⟨struck_of_pages (by decide) rfl, counted_raiseBit (counted_of_ctrs rfl) _ _, htack, ?_⟩
  rw [htack]
  exact moved

/-! ## The end of a command -/

/-- A command ends DONE. -/
def tackDone (s : State) : State := raiseBit pgTack 0 (clearBufs { s with tack := { s.tack with busy := 0, state := 2, cause := 0 } })

theorem tackEnd_of_busy {s : State} (h : s.tack.busy ≠ 0) : tackEnd s = tackDone (tackWork s) := if_neg h

theorem tack_tackDone (s : State) : (tackDone s).tack = { s.tack with busy := 0, state := 2, cause := 0, keyBuf := 0, saltBuf := 0 } :=
  congrArg State.tack (noted_raiseBit pgTack 0 (clearBufs { s with tack := { s.tack with busy := 0, state := 2, cause := 0 } })).frame

theorem struck_tackDone {s u : State} (h : u.pages = s.pages) : Struck 6 0 s (tackDone u) := by
  have hpages : (clearBufs { u with tack := { u.tack with busy := 0, state := 2, cause := 0 } }).pages = s.pages := h
  exact struck_of_pages (k := pgTack) (by decide) hpages

theorem counted_tackDone {n : Nat} {s u : State} (h : Counted 6 n 1 s u) : Counted 6 n 1 s (tackDone u) := by
  have hkept : Counted 6 n 1 s (clearBufs { u with tack := { u.tack with busy := 0, state := 2, cause := 0 } }) := h
  exact counted_raiseBit hkept pgTack 0

/-- Its end moves flags, counters and the block's own state. -/
theorem tackDone_frame {s u : State} (h : u = { s with ctrs := u.ctrs, tack := u.tack }) :
    tackDone u = { s with pages := (tackDone u).pages, ctrs := (tackDone u).ctrs, tack := (tackDone u).tack
                          ic := { s.ic with inflight := (tackDone u).ic.inflight } } := by
  have moved := (noted_raiseBit pgTack 0 (clearBufs { u with tack := { u.tack with busy := 0, state := 2, cause := 0 } })).frame
  have htack := tack_tackDone u
  rw [htack, h]
  rw [h] at moved
  exact moved

/-- The key that a WRITE stores (R494). -/
def writtenKey (s : State) : KeySlot :=
  { full := true, len256 := s.tack.busyLen
    key := if s.tack.busyLen then s.tack.keyBuf else BitVec.ofNat 256 (s.tack.keyBuf.toNat % 2 ^ 128), salt := s.tack.saltBuf }

/-- The work of a WRITE or an ERASE: slot `busySlot` holds `k`, and counter `i` moves. -/
def slotChanged (i : Nat) (k : KeySlot) (s : State) : State := bump pgTack i 1 (setKeySlot s.tack.busySlot k s)

theorem tackWork_of_write {s : State} (h : s.tack.busy = 1) : tackWork s = slotChanged 0 (writtenKey s) s := by
  rw [tackWork, h]
  rfl

theorem tackWork_of_erase {s : State} (h : s.tack.busy = 2) : tackWork s = slotChanged 1 {} s := by
  rw [tackWork, h]
  rfl

theorem tackWork_of_attest {s : State} {pub : BitVec 768} (h : s.tack.busy = 3) (hpub : s.tack.idPub = some pub) :
    tackWork s = bump pgTack 2 1 { s with tack := { s.tack with report := tackReport s, sig := Config.ecdsaSign pub (tackReport s) } } := by
  rw [tackWork, h]
  simp only [hpub]

section

variable (i : Nat) (k : KeySlot) (s : State)

theorem keySlot_slotChanged (n : Nat) : keySlot (tackDone (slotChanged i k s)) n = if n = s.tack.busySlot then k else keySlot s n := by
  rw [keySlot, tack_tackDone]
  exact Tbl.get_set _ _ _ _ _

theorem saved_slotChanged : (tackDone (slotChanged i k s)).tack.saved.get (fun _ => {}) s.tack.busySlot = k := by
  rw [tack_tackDone]
  exact Tbl.get_set_same _ _ _ _

/-- What a WRITE and an ERASE have in common. -/
theorem slotChanged_done : Struck 6 0 s (tackDone (slotChanged i k s)) ∧ Counted 6 i 1 s (tackDone (slotChanged i k s)) ∧
    (tackDone (slotChanged i k s)).tack.state = 2 ∧ (tackDone (slotChanged i k s)).tack.busy = 0 ∧
    (tackDone (slotChanged i k s)).tack.keyBuf = 0 ∧ (tackDone (slotChanged i k s)).tack.saltBuf = 0 ∧
    (∀ n, n ≠ s.tack.busySlot → keySlot (tackDone (slotChanged i k s)) n = keySlot s n) ∧
    (tackDone (slotChanged i k s)).tack.saved.get (fun _ => {}) s.tack.busySlot =
      keySlot (tackDone (slotChanged i k s)) s.tack.busySlot := by
  have htack := tack_tackDone (slotChanged i k s)
  have hcounted : Counted 6 i 1 s (slotChanged i k s) := counted_of_ctrs (k := pgTack) (u := setKeySlot s.tack.busySlot k s) rfl
  refine ⟨struck_tackDone rfl, counted_tackDone hcounted, ?_, ?_, ?_, ?_, fun n hn => ?_, ?_⟩
  any_goals rw [htack]
  · rw [keySlot_slotChanged, if_neg hn]
  · rw [← htack, saved_slotChanged, keySlot_slotChanged, if_pos rfl]

end

/-- Settles O52: a command is started, refused or dropped by `tackCommand`'s branches, and ends in `tackDone`. -/
theorem keyCommandsRunAndEnd : Obligations.KeyCommandsRunAndEnd := by
  unfold Obligations.KeyCommandsRunAndEnd
  intro s hrun
  have ends : exec .tackCommandEnd s = .next (tackEnd s) := next_whenUp hrun tackEnd
  refine ⟨fun v e hready hidle he => ⟨fun hlife hfree hid => ?_, fun c hcause => ?_⟩, fun v e hready hbusy he => ?_, fun hidle => ?_,
    fun hbusy => ?_, fun pub hbusy hpub => ?_⟩
  · rw [exec_of_tackCommand hrun he, tackCommand_started (op_of_tackCommand he) hready hidle hlife hfree hid]
  · refine ⟨_, exec_of_tackCommand hrun he, ?_⟩
    rw [tackCommand_refused (op_of_tackCommand he) hready hidle hcause]
    exact tackRefused c (fld v 11 0) s
  · refine ⟨_, exec_of_tackCommand hrun he, ?_⟩
    rw [tackCommand_of_busy (op_of_tackCommand he) hready hbusy]
    exact ⟨struck_raiseBit pgTack (by decide) s, raiseBit_frame pgTack 2 s⟩
  · rw [ends, tackEnd, if_pos hidle]
  · refine ⟨_, ends, ?_⟩
    rw [tackEnd_of_busy (by omega)]
    rcases hbusy with hwrite | herase
    · rw [tackWork_of_write hwrite, hwrite]
      obtain ⟨hstruck, hcounted, hstate, hdone, hkey, hsalt, hother, hsaved⟩ := slotChanged_done 0 (writtenKey s) s
      refine ⟨hstruck, hcounted, hstate, hdone, hkey, hsalt, hother, hsaved, fun _ => ?_, fun h => absurd h (by decide), tackDone_frame rfl⟩
      rw [keySlot_slotChanged, if_pos rfl]
      refine ⟨rfl, rfl, rfl, rfl, ?_⟩
      rw [writtenKey]
      cases s.tack.busyLen with
      | true => rfl
      | false => exact Nat.mod_eq_of_lt (by omega)
    · rw [tackWork_of_erase herase, herase]
      obtain ⟨hstruck, hcounted, hstate, hdone, hkey, hsalt, hother, hsaved⟩ := slotChanged_done 1 {} s
      refine ⟨hstruck, hcounted, hstate, hdone, hkey, hsalt, hother, hsaved, fun h => absurd h (by decide), fun _ => ?_, tackDone_frame rfl⟩
      rw [keySlot_slotChanged, if_pos rfl]
  · refine ⟨_, ends, ?_⟩
    rw [tackEnd_of_busy (by omega), tackWork_of_attest hbusy hpub]
    exact ⟨struck_tackDone rfl, counted_tackDone (counted_bump_same pgTack 2 1 _), tack_tackDone _, tackDone_frame rfl⟩

end Sys2Proof.Laws
end

section
/-! A boot (R484, R485, R490, R496, R497): what its steps find of the images, and what the firmware that it starts shows. -/

namespace Sys2Proof.Laws

open Sys2Proof Sys2Proof.Machine

/-! ## What the steps find -/

/-- A flash whose every region can be read. -/
abbrev readable : Nat → Bool := fun _ => false

theorem exec_firmwareBoot_of_mayRun {s : State} (h : BootMayRun s) : exec (.firmwareBoot false false false) s = .next (fwBoot readable s) := by
  obtain ⟨hrun, hpkg, hzero, hready, hrecovery⟩ := h
  have hctrl : (List.range (dies s)).all (fun d => s.pwr.ctrlZero.contains d) = true := by
    simpa only [List.all_eq_true, List.mem_range, List.contains_iff_mem] using hzero
  refine (next_whenUp hrun _).trans (congrArg _ (if_pos ?_))
  rw [hpkg, hctrl, hready, hrecovery]
  rfl

section

variable {fuses : Nat} {f : Flash}

/-- Nothing staged: step 1 leaves the directory. -/
theorem bootStaged_of_empty (h : f.full = false) : bootStaged fuses readable f = (0, f) := by
  unfold bootStaged
  split
  · rfl
  · exact if_pos (by rw [h]; rfl)

theorem bootStaged_promoted {r : Nat} (hfull : f.full = true) (hstaged : f.staged = some r) (hok : verifyImage fuses false (region f r) = 0) :
    bootStaged fuses readable f =
      (1, { f with active := r, previous := some f.active, staged := f.previous, confirmed := false, allowance := f.tries, full := false }) := by
  unfold bootStaged
  simp only [hstaged, hfull, hok]
  rfl

theorem bootStaged_refused {r : Nat} (hfull : f.full = true) (hstaged : f.staged = some r) (hbad : verifyImage fuses false (region f r) ≠ 0) :
    bootStaged fuses readable f = (verifyImage fuses false (region f r), { f with full := false }) := by
  unfold bootStaged
  simp only [hstaged, hfull, Bool.not_true, Bool.false_eq_true, if_false]
  exact if_pos hbad

/-- The directory that steps 2 and 3 look at: an image whose trials are spent has fallen back, and a boot of one on trial takes a trial. -/
def tried (f : Flash) : Flash :=
  if !f.confirmed && decide (f.allowance = 0) then fallBack f else if f.confirmed then f else { f with allowance := f.allowance - 1 }

/-- PREVIOUS is an image that verifies. -/
def previousVerifies (fuses : Nat) (f : Flash) : Bool :=
  match f.previous with
  | none => false
  | some p => decide (verifyImage fuses false (region f p) = 0)

/-- Steps 1 to 3, from what step 1 came to. -/
theorem bootSteps_of_staged {n : Nat} {g : Flash} (h : bootStaged fuses readable f = (n, g)) : bootSteps fuses readable f =
    if verifyImage fuses false (region (tried g) (tried g).active) = 0 then
      { flash := tried g, stagedRes := n, activeRes := if !g.confirmed && decide (g.allowance = 0) then 1 else 0, activeFail := 0 }
    else if previousVerifies fuses (tried g) then
      { flash := fallBack (tried g), stagedRes := n, activeRes := 2, activeFail := verifyImage fuses false (region (tried g) (tried g).active) }
    else { flash := tried g, stagedRes := n, activeRes := 3, activeFail := verifyImage fuses false (region (tried g) (tried g).active) } := by
  rw [bootSteps, h]
  rfl

theorem tried_of_confirmed (h : f.confirmed = true) : tried f = f := by
  simp [tried, h]

theorem tried_of_spent (h : f.confirmed = false) (hspent : f.allowance = 0) : tried f = fallBack f := by
  simp [tried, h, hspent]

theorem tried_of_trial (h : f.confirmed = false) (hleft : 0 < f.allowance) : tried f = { f with allowance := f.allowance - 1 } := by
  have hne : f.allowance ≠ 0 := by omega
  simp [tried, h, hne]

/-- A confirmed ACTIVE that verifies starts. -/
theorem bootSteps_active {n : Nat} {g : Flash} (h : bootStaged fuses readable f = (n, g)) (hconf : g.confirmed = true)
    (hok : verifyImage fuses false (region g g.active) = 0) :
    bootSteps fuses readable f = { flash := g, stagedRes := n, activeRes := 0, activeFail := 0 } := by
  rw [bootSteps_of_staged h, tried_of_confirmed hconf, if_pos hok]
  simp [hconf]

theorem bootSteps_promoted {r : Nat} (hfull : f.full = true) (hstaged : f.staged = some r) (htries : 0 < f.tries)
    (hok : verifyImage fuses false (region f r) = 0) : bootSteps fuses readable f =
      { flash := { f with
          active := r, previous := some f.active, staged := f.previous, confirmed := false, allowance := f.tries - 1, full := false }
        stagedRes := 1, activeRes := 0, activeFail := 0 } := by
  have hne : f.tries ≠ 0 := by omega
  rw [bootSteps_of_staged (bootStaged_promoted hfull hstaged hok), tried_of_trial rfl htries]
  refine (if_pos hok).trans ?_
  simp [hne]

/-- After a fall-back PREVIOUS is the confirmed ACTIVE, and the region left is an empty STAGED. -/
theorem fallBack_of_previous {p : Nat} (hp : f.previous = some p) : (fallBack f).active = p ∧ (fallBack f).confirmed = true ∧
    (fallBack f).staged = some f.active ∧ (fallBack f).full = false := by
  rw [fallBack, hp]
  cases f.staged <;> exact ⟨rfl, rfl, rfl, rfl⟩

theorem active_fallBack {p : Nat} (hp : f.previous = some p) : (fallBack f).active = p := (fallBack_of_previous hp).1

theorem bootSteps_spent {p : Nat} (hempty : f.full = false) (htrial : f.confirmed = false) (hspent : f.allowance = 0)
    (hp : f.previous = some p) (hok : verifyImage fuses false (region (fallBack f) p) = 0) :
    bootSteps fuses readable f = { flash := fallBack f, stagedRes := 0, activeRes := 1, activeFail := 0 } := by
  rw [bootSteps_of_staged (bootStaged_of_empty hempty), tried_of_spent htrial hspent, active_fallBack hp, if_pos hok]
  simp [htrial, hspent]

/-- A confirmed ACTIVE that fails falls back to a PREVIOUS that verifies. -/
theorem bootSteps_failed {p : Nat} (hempty : f.full = false) (hconf : f.confirmed = true) (hp : f.previous = some p)
    (hbad : verifyImage fuses false (region f f.active) ≠ 0) (hok : verifyImage fuses false (region f p) = 0) :
    bootSteps fuses readable f =
      { flash := fallBack f, stagedRes := 0, activeRes := 2, activeFail := verifyImage fuses false (region f f.active) } := by
  have hprev : previousVerifies fuses f = true := by rw [previousVerifies, hp]; exact decide_eq_true hok
  rw [bootSteps_of_staged (bootStaged_of_empty hempty), tried_of_confirmed hconf, if_neg hbad, if_pos hprev]

theorem bootSteps_recovery (hempty : f.full = false) (hconf : f.confirmed = true) (hp : f.previous = none)
    (hbad : verifyImage fuses false (region f f.active) ≠ 0) :
    bootSteps fuses readable f =
      { flash := f, stagedRes := 0, activeRes := 3, activeFail := verifyImage fuses false (region f f.active) } := by
  have hprev : ¬ previousVerifies fuses f = true := by rw [previousVerifies, hp]; exact Bool.false_ne_true
  rw [bootSteps_of_staged (bootStaged_of_empty hempty), tried_of_confirmed hconf, if_neg hbad, if_neg hprev]

end

/-- No image verifies with the code of a promotion. -/
theorem verifyImage_ne_one (fuses : Nat) (e : Bool) (l : List Byte) : verifyImage fuses e l ≠ 1 := by
  unfold verifyImage
  split_ifs <;> decide

/-! ## The tack store at boot -/

/-- The slots are those of the flash copy. -/
def slotsLoaded (s : State) : State := { s with tack := { s.tack with slots := s.tack.saved } }

/-- A store that was not kept is told of. -/
def lossTold (s : State) : State := if s.tack.kept then s else raiseBit pgTack 3 s

/-- An identity key is made where one may be. -/
def identityMade (s : State) : State :=
  if s.tack.idPub.isNone ∧ (lcState s.pwr.fuses = 1 ∨ lcState s.pwr.fuses = 2) then
    draw { s with tack := { s.tack with idPub := some (Config.newIdentity s.fresh), kept := true } }
  else { s with tack := { s.tack with kept := true } }

theorem tackBoot_eq (s : State) : tackBoot s = identityMade (lossTold (slotsLoaded s)) := rfl

theorem lossTold_frame (s : State) :
    lossTold s = { s with pages := (lossTold s).pages, ic := { s.ic with inflight := (lossTold s).ic.inflight } } := by
  unfold lossTold
  split
  · rfl
  · exact raiseBit_frame pgTack 3 s

theorem identityMade_frame (s : State) : identityMade s = { s with fresh := (identityMade s).fresh, tack := (identityMade s).tack } := by
  unfold identityMade
  split <;> rfl

theorem slots_identityMade (s : State) : (identityMade s).tack.slots = s.tack.slots ∧ (identityMade s).tack.saved = s.tack.saved := by
  unfold identityMade
  split <;> exact ⟨rfl, rfl⟩

theorem slots_tackBoot (s : State) : (tackBoot s).tack.slots = s.tack.saved ∧ (tackBoot s).tack.saved = s.tack.saved := by
  obtain ⟨hslots, hsaved⟩ := slots_identityMade (lossTold (slotsLoaded s))
  have htack : (lossTold (slotsLoaded s)).tack = (slotsLoaded s).tack := by rw [lossTold_frame]
  rw [htack] at hslots hsaved
  exact ⟨hslots, hsaved⟩

/-- Loading the tack store moves flags, messages, the block itself and the free values. -/
theorem tackBoot_frame (s : State) : tackBoot s = { s with
    fresh := (tackBoot s).fresh, pages := (tackBoot s).pages, tack := (tackBoot s).tack
    ic := { s.ic with inflight := (tackBoot s).ic.inflight } } := by
  rw [tackBoot_eq]
  have moved := identityMade_frame (lossTold (slotsLoaded s))
  have told := lossTold_frame (slotsLoaded s)
  have hpages : (identityMade (lossTold (slotsLoaded s))).pages = (lossTold (slotsLoaded s)).pages := by rw [moved]
  have hic : (identityMade (lossTold (slotsLoaded s))).ic = (lossTold (slotsLoaded s)).ic := by rw [moved]
  rw [hpages, hic]
  refine moved.trans ?_
  rw [told]
  rfl

/-! ## The firmware starts -/

/-- What the firmware shows as it starts from what a boot found: the image that runs, and how it came to run (R485). -/
def firmwareShown (b : BootResult) (s : State) : State :=
  let img := region b.flash b.flash.active
  let fl := convertAreas b.flash (imgWord img 16)
  { s with
    pwr := { s.pwr with fwReady := true }
    fw := { s.fw with
      flash := fl, version := BitVec.ofNat 32 (imgWord img 8), fmt := imgWord img 16, bodyHash := imgBytes img 176 48
      fellBack := decide (b.activeRes = 1 ∨ b.activeRes = 2), stagedRes := b.stagedRes, activeRes := b.activeRes
      activeFail := b.activeFail, area := (areaFor fl (imgWord img 16)).getD 0, present := (areaFor fl (imgWord img 16)).isSome
      rollback := if fl.confirmed then max s.fw.rollback (imgWord img 12) else s.fw.rollback } }

/-- A conversion of the settings writes flash. -/
def conversionCounted (b : BootResult) (s : State) : State :=
  if s.fw.flash.settings = b.flash.settings then s else countFlash (4 * (area s.fw.flash s.fw.area).length) 3145728 s

/-- A promotion is counted, and so is a staged image that is refused. -/
def stagedTold (n : Nat) (s : State) : State :=
  if n = 1 then bump pgFw 2 1 s else if n ≠ 0 then raiseBit pgFw 5 (bump pgFw 4 1 s) else s

/-- A fall-back is counted. -/
def fallBackTold (n : Nat) (s : State) : State := if n = 1 ∨ n = 2 then raiseBit pgFw 4 (bump pgFw 3 1 s) else s

/-- A settings area that is not valid is told of. -/
def areasTold (b : BootResult) (s : State) : State :=
  if [0, 1].any (fun a => decide (area b.flash a ≠ []) && !areaValid (area b.flash a)) then raiseBit pgFw 6 s else s

theorem fwStart_eq (b : BootResult) (s : State) :
    fwStart b s = areasTold b (fallBackTold b.activeRes (stagedTold b.stagedRes (conversionCounted b (firmwareShown b s)))) := rfl

section

variable (b : BootResult) (n : Nat) (s : State)

theorem noted_conversionCounted : Noted s (conversionCounted b s) :=
  .ite (.refl s) ((noted_bump pgFw 0 _ s).bumped pgFw 1 _)

theorem noted_stagedTold : Noted s (stagedTold n s) :=
  .ite (noted_bump pgFw 2 1 s) (.ite ((noted_bump pgFw 4 1 s).raised pgFw 5) (.refl s))

theorem noted_fallBackTold : Noted s (fallBackTold n s) := .ite ((noted_bump pgFw 3 1 s).raised pgFw 4) (.refl s)

theorem noted_areasTold : Noted s (areasTold b s) := .ite (noted_raiseBit pgFw 6 s) (.refl s)

theorem noted_fwStart : Noted (firmwareShown b s) (fwStart b s) :=
  (((noted_conversionCounted b _).trans (noted_stagedTold _ _)).trans (noted_fallBackTold _ _)).trans (noted_areasTold b _)

theorem fw_fwStart : (fwStart b s).fw = (firmwareShown b s).fw := by
  rw [(noted_fwStart b s).frame]

/-! ### Counts of the start -/

theorem counter_conversionCounted {i : Nat} (hi : 2 ≤ i) (hlt : i < 128) : counter (conversionCounted b s) 5 i = counter s 5 i := by
  unfold conversionCounted
  split
  · rfl
  · rw [countFlash, counter_bump_other (by rw [pgFw]; omega), counter_bump_other (by rw [pgFw]; omega)]

theorem counter_stagedTold_three : counter (stagedTold n s) 5 3 = counter s 5 3 := by
  unfold stagedTold
  split_ifs
  · exact counter_bump_other (by decide) 1 s
  · exact (counter_raiseBit ..).trans (counter_bump_other (by decide) 1 s)
  · rfl

theorem counter_fallBackTold_other {i : Nat} (hi : i ≠ 3) : counter (fallBackTold n s) 5 i = counter s 5 i := by
  unfold fallBackTold
  split
  · exact (counter_raiseBit ..).trans (counter_bump_other (by rw [pgFw]; omega) 1 s)
  · rfl

theorem counter_areasTold (i : Nat) : counter (areasTold b s) 5 i = counter s 5 i := by
  unfold areasTold
  split
  · exact counter_raiseBit ..
  · rfl

/-- A promotion counts once. -/
theorem counted_promotion (h : b.stagedRes = 1) : Counted 5 2 1 s (fwStart b s) := by
  have hbefore : counter (conversionCounted b (firmwareShown b s)) 5 2 = counter s 5 2 :=
    counter_conversionCounted b _ (by decide) (by decide)
  have hstaged : stagedTold b.stagedRes (conversionCounted b (firmwareShown b s)) = bump pgFw 2 1 (conversionCounted b (firmwareShown b s)) :=
    if_pos h
  rw [fwStart_eq, hstaged]
  refine counted_of_kept (counted_after_kept hbefore (counted_bump_same pgFw 2 1 _)) ?_
  rw [counter_areasTold, counter_fallBackTold_other _ _ (by decide)]

/-- A staged image that does not verify counts once, and strikes its bit. -/
theorem counted_refusal (h0 : b.stagedRes ≠ 0) (h1 : b.stagedRes ≠ 1) :
    Counted 5 4 1 s (fwStart b s) ∧ bitOf (page (fwStart b s) 5).stat 5 = true := by
  have hbefore : counter (conversionCounted b (firmwareShown b s)) 5 4 = counter s 5 4 :=
    counter_conversionCounted b _ (by decide) (by decide)
  have hstaged : stagedTold b.stagedRes (conversionCounted b (firmwareShown b s)) =
      raiseBit pgFw 5 (bump pgFw 4 1 (conversionCounted b (firmwareShown b s))) := (if_neg h1).trans (if_pos h0)
  rw [fwStart_eq, hstaged]
  constructor
  · refine counted_of_kept (counted_raiseBit (counted_after_kept hbefore (counted_bump_same pgFw 4 1 _)) pgFw 5) ?_
    rw [counter_areasTold, counter_fallBackTold_other _ _ (by decide)]
  · exact ((noted_fallBackTold _ _).trans (noted_areasTold b _)).bits 5 5 (stat_raiseBit pgFw (by decide) _)

/-- A fall-back counts once, and strikes its bit. -/
theorem counted_fallBack (h : b.activeRes = 1 ∨ b.activeRes = 2) :
    Counted 5 3 1 s (fwStart b s) ∧ bitOf (page (fwStart b s) 5).stat 4 = true := by
  have hbefore : counter (stagedTold b.stagedRes (conversionCounted b (firmwareShown b s))) 5 3 = counter s 5 3 :=
    (counter_stagedTold_three _ _).trans (counter_conversionCounted b _ (by decide) (by decide))
  have htold : fallBackTold b.activeRes (stagedTold b.stagedRes (conversionCounted b (firmwareShown b s))) =
      raiseBit pgFw 4 (bump pgFw 3 1 (stagedTold b.stagedRes (conversionCounted b (firmwareShown b s)))) := if_pos h
  rw [fwStart_eq, htold]
  constructor
  · refine counted_of_kept (counted_raiseBit (counted_after_kept hbefore (counted_bump_same pgFw 3 1 _)) pgFw 4) ?_
    rw [counter_areasTold]
  · exact (noted_areasTold b _).bits 5 4 (stat_raiseBit pgFw (by decide) _)

end

/-- A conversion of the settings leaves the rest of the flash. -/
theorem convertAreas_frame (f : Flash) (fmt : Nat) : convertAreas f fmt = { f with settings := (convertAreas f fmt).settings } := by
  unfold convertAreas
  split
  · rfl
  · split <;> rfl

/-! ## The part after a boot -/

section

variable {s : State} {b : BootResult} (hb : bootSteps s.fw.rollback readable s.fw.flash = b)
include hb

theorem fwBoot_started (h : b.activeRes ≠ 3) : fwBoot readable s = fwStart b (tackBoot s) := by
  subst hb
  exact if_neg h

/-- What the firmware shows of the image that a boot has started (R485). -/
theorem fw_fwBoot (h : b.activeRes ≠ 3) : (fwBoot readable s).fw = (firmwareShown b s).fw := by
  have hfw : (tackBoot s).fw = s.fw := by rw [tackBoot_frame]
  rw [fwBoot_started hb h, fw_fwStart, firmwareShown, firmwareShown]
  simp only [hfw]

theorem flash_fwBoot (h : b.activeRes ≠ 3) :
    (fwBoot readable s).fw.flash = { b.flash with settings := (fwBoot readable s).fw.flash.settings } := by
  rw [fw_fwBoot hb h]
  exact convertAreas_frame b.flash _

theorem booted (hrecovery : s.fw.recovery = false) (h : b.activeRes ≠ 3) : Booted b.flash.active s (fwBoot readable s) := by
  have hflash := flash_fwBoot hb h
  have hfw := fw_fwBoot hb h
  have himages : region (fwBoot readable s).fw.flash b.flash.active = region b.flash b.flash.active := by
    rw [hflash]
    rfl
  have moved := (noted_fwStart b (tackBoot s)).frame
  rw [← fwBoot_started hb h] at moved
  have hpwr : (fwBoot readable s).pwr = { s.pwr with fwReady := true } := by
    rw [moved, firmwareShown, tackBoot_frame]
  have htack : (fwBoot readable s).tack = (tackBoot s).tack := by
    rw [moved]
    rfl
  obtain ⟨hslots, hsaved⟩ := slots_tackBoot s
  refine ⟨?_, hpwr, ?_, ?_, ?_, ?_, ?_, ?_⟩
  · rw [hflash]
  · rw [hfw]
    exact hrecovery
  · rw [himages, hfw]
    rfl
  · rw [himages, hfw]
    rfl
  · rw [htack, hslots]
  · rw [htack, hsaved]
  · refine moved.trans ?_
    rw [hpwr, hfw, htack]
    rw [show (fwBoot readable s).fresh = (tackBoot s).fresh by rw [moved]; rfl]
    rw [firmwareShown, tackBoot_frame]
    rfl

theorem counted_fwBoot {n : Nat} (h : b.activeRes ≠ 3) (hcounted : Counted 5 n 1 (tackBoot s) (fwStart b (tackBoot s))) :
    Counted 5 n 1 s (fwBoot readable s) := by
  have hctrs : counter (tackBoot s) 5 n = counter s 5 n := by
    rw [tackBoot_frame]
    rfl
  rw [fwBoot_started hb h]
  exact counted_after_kept hctrs hcounted

theorem refusal_fwBoot (h : b.activeRes ≠ 3) (h0 : b.stagedRes ≠ 0) (h1 : b.stagedRes ≠ 1) :
    Counted 5 4 1 s (fwBoot readable s) ∧ bitOf (page (fwBoot readable s) 5).stat 5 = true := by
  obtain ⟨hcounted, hbit⟩ := counted_refusal b (tackBoot s) h0 h1
  refine ⟨counted_fwBoot hb h hcounted, ?_⟩
  rw [fwBoot_started hb h]
  exact hbit

theorem fallBack_fwBoot (h : b.activeRes = 1 ∨ b.activeRes = 2) :
    Counted 5 3 1 s (fwBoot readable s) ∧ bitOf (page (fwBoot readable s) 5).stat 4 = true := by
  have hne : b.activeRes ≠ 3 := by omega
  obtain ⟨hcounted, hbit⟩ := counted_fallBack b (tackBoot s) h
  refine ⟨counted_fwBoot hb hne hcounted, ?_⟩
  rw [fwBoot_started hb hne]
  exact hbit

end

/-- The recovery ROM runs where neither image verifies. -/
theorem fwBoot_recovery {s : State} {b : BootResult} (hb : bootSteps s.fw.rollback readable s.fw.flash = b) (h : b.activeRes = 3) :
    fwBoot readable s = modPage pgFw (fun x => { x with fault := true }) { tackBoot s with fw := { (tackBoot s).fw with
      flash := b.flash, recovery := true, stagedRes := b.stagedRes, activeRes := 3, activeFail := b.activeFail } } := by
  subst hb
  exact if_pos h

/-- Settles O50: `bootSteps` comes to one of six results, and the firmware of five of them starts. -/
theorem firmwareBoots : Obligations.FirmwareBoots := by
  unfold Obligations.FirmwareBoots
  intro s hmay
  have boots := exec_firmwareBoot_of_mayRun hmay
  obtain ⟨-, -, -, -, hrecovery⟩ := hmay
  obtain ⟨h0, h1, h2⟩ : (0 : Nat) ≠ 3 ∧ (1 : Nat) ≠ 3 ∧ (2 : Nat) ≠ 3 := by decide
  refine ⟨fun hfull hconf hok => ⟨_, boots, ?_⟩, fun r hfull hstaged htries hok => ⟨_, boots, ?_⟩,
    fun r hfull hstaged hconf hbad hok => ⟨_, boots, ?_⟩, fun p hfull htrial hspent hp hok => ⟨_, boots, ?_⟩,
    fun p hfull hconf hp hbad hok => ⟨_, boots, ?_⟩, fun hfull hconf hp hbad => ⟨_, boots, ?_⟩⟩
  · have hb := bootSteps_active (bootStaged_of_empty hfull) hconf hok
    have hfw := fw_fwBoot hb h0
    refine ⟨booted hb hrecovery h0, ?_, ?_, ?_, ?_, flash_fwBoot hb h0⟩ <;> rw [hfw]
    · rfl
    · rfl
    · rfl
    · refine if_pos ?_
      rw [convertAreas_frame]
      exact hconf
  · have hb := bootSteps_promoted hfull hstaged htries hok
    have hfw := fw_fwBoot hb h0
    refine ⟨booted hb hrecovery h0, ?_, ?_, ?_, counted_fwBoot hb h0 (counted_promotion _ _ rfl),
      flash_fwBoot hb h0⟩ <;> rw [hfw]
    · rfl
    · rfl
    · refine if_neg ?_
      rw [convertAreas_frame]
      exact Bool.false_ne_true
  · have hb := bootSteps_active (bootStaged_refused hfull hstaged hbad) hconf hok
    have hfw := fw_fwBoot hb h0
    obtain ⟨hcounted, hbit⟩ := refusal_fwBoot hb h0 hbad (verifyImage_ne_one s.fw.rollback false (region s.fw.flash r))
    refine ⟨booted hb hrecovery h0, ?_, ?_, hcounted, hbit, ?_⟩
    · rw [hfw]
      rfl
    · rw [hfw]
      rfl
    · rw [flash_fwBoot hb h0]
  · have hb := bootSteps_spent hfull htrial hspent hp hok
    have hfw := fw_fwBoot hb h1
    obtain ⟨hcounted, hbit⟩ := fallBack_fwBoot hb (.inl rfl)
    obtain ⟨-, hconfirmed, hstaged, hempty⟩ := fallBack_of_previous hp
    have hback := booted hb hrecovery h1
    rw [active_fallBack hp] at hback
    refine ⟨hback, ?_, ?_, ?_, ?_, ?_, hcounted, hbit⟩
    · rw [hfw]
      rfl
    · rw [hfw]
      rfl
    all_goals rw [flash_fwBoot hb h1]
    · exact hconfirmed
    · exact hstaged
    · exact hempty
  · have hb := bootSteps_failed hfull hconf hp hbad hok
    have hfw := fw_fwBoot hb h2
    have hback := booted hb hrecovery h2
    rw [active_fallBack hp] at hback
    refine ⟨hback, ?_, ?_, (fallBack_fwBoot hb (.inr rfl)).1⟩
    · rw [hfw]
      rfl
    · rw [hfw]
      rfl
  · have hb := bootSteps_recovery hfull hconf hp hbad
    have hframe := tackBoot_frame s
    rw [fwBoot_recovery hb rfl]
    refine ⟨rfl, rfl, rfl, ?_, ?_, (slots_tackBoot s).1, ?_⟩
    · change (page (modPage pgFw _ _) pgFw).fault = true
      rw [page_modPage, if_pos rfl]
    · rw [hframe]
      rfl
    · rw [hframe]
      rfl

end Sys2Proof.Laws
end

section
/-! Flash commands (R486, R489–R491): a command starts, is refused with its cause or is dropped. -/

namespace Sys2Proof.Laws

open Sys2Proof Sys2Proof.Machine

/-- The commands of `FW_CMD`, by their operation. -/
abbrev IsFlashCommand (e : Instr) (v : Word) : Prop := (e, fld v 3 0) ∈ [(Instr.fwWriteStaged v, 1),
  (.fwWriteSettings v, 2), (.fwEraseStaged v, 3), (.fwEraseSettings v, 4)]

theorem exec_of_flashCommand {e : Instr} {v : Word} {s : State} (hrun : inReset s = false) (he : IsFlashCommand e v) :
    exec e s = .next (fwCommand v s) := by
  simp only [IsFlashCommand, List.mem_cons, Prod.mk.injEq, List.not_mem_nil, or_false] at he
  rcases he with ⟨rfl, hop⟩ | ⟨rfl, hop⟩ | ⟨rfl, hop⟩ | ⟨rfl, hop⟩ <;>
    refine (next_whenUp hrun _).trans (congrArg _ (if_pos ?_)) <;> exact decide_eq_true hop

theorem op_of_flashCommand {e : Instr} {v : Word} (he : IsFlashCommand e v) : 1 ≤ fld v 3 0 ∧ fld v 3 0 ≤ 4 := by
  simp only [IsFlashCommand, List.mem_cons, Prod.mk.injEq, List.not_mem_nil, or_false] at he
  omega

/-- A command without the key does nothing (R486). -/
theorem fwCommand_of_noKey {v : Word} (hkey : fld v 31 16 ≠ 0x5F3A) (s : State) : fwCommand v s = s := if_pos (.inl hkey)

/-- What a command writes as it starts: `FW_STAT` is BUSY, and the flash is `f`. -/
def flashStarted (v : Word) (f : Flash) (s : State) : State :=
  { s with fw := { s.fw with flash := f, op := fld v 3 0, opTries := max 1 (fld v 15 12), state := 1, cause := 0, whr := 0 } }

section

variable {v : Word} {s : State} (hkey : fld v 31 16 = 0x5F3A) (hop : 1 ≤ fld v 3 0 ∧ fld v 3 0 ≤ 4)
  (hready : ready s 5 = true ∨ s.fw.recovery = true ∧ fld v 3 0 = 1)
include hkey hop hready

/-- A command that the firmware or the recovery ROM takes is one that is dropped, refused or started. -/
theorem fwCommand_heard : fwCommand v s =
    if s.fw.op ≠ 0 then raiseBit pgFw 2 s
    else if fld v 3 0 ≤ 2 ∧ (s.fw.len = 0 ∨ (if fld v 3 0 = 1 then 8388608 else 3145728) < s.fw.len) then fwFail 1 0 s
    else if fld v 3 0 ≤ 2 ∧ fwSourceBad s = true then fwFail 2 0 s
    else if (fld v 3 0 = 2 ∨ fld v 3 0 = 4) ∧ settingsKept s = true then fwFail 4 0 s
    else flashStarted v (if fld v 3 0 = 1 ∨ fld v 3 0 = 3 then eraseStaged s.fw.flash else s.fw.flash) s := by
  have hserved : (ready s pgFw || (s.fw.recovery && decide (fld v 3 0 = 1))) = true :=
    (Bool.or_eq_true ..).mpr (hready.imp id fun h => (Bool.and_eq_true ..).mpr ⟨h.1, decide_eq_true h.2⟩)
  have hheard : ¬ (fld v 31 16 ≠ 0x5F3A ∨ fld v 3 0 = 0 ∨ 4 < fld v 3 0 ∨
      !(ready s pgFw || (s.fw.recovery && decide (fld v 3 0 = 1)))) := by
    rw [hserved]
    simp only [Bool.not_true, Bool.false_eq_true, or_false]
    omega
  exact if_neg hheard

theorem fwCommand_of_busy (hbusy : s.fw.op ≠ 0) : fwCommand v s = raiseBit pgFw 2 s :=
  (fwCommand_heard hkey hop hready).trans (if_pos hbusy)

section

variable (hidle : s.fw.op = 0)
include hidle

theorem fwCommand_badLength (hwrite : fld v 3 0 ≤ 2) (hlen : s.fw.len = 0 ∨ (if fld v 3 0 = 1 then 8388608 else 3145728) < s.fw.len) :
    fwCommand v s = fwFail 1 0 s := by
  rw [fwCommand_heard hkey hop hready, if_neg (not_not_intro hidle), if_pos ⟨hwrite, hlen⟩]

section

variable (hlen : fld v 3 0 ≤ 2 → 0 < s.fw.len ∧ s.fw.len ≤ if fld v 3 0 = 1 then 8388608 else 3145728)
include hlen

omit hkey hop hready hidle in
/-- A length that the command may use. -/
theorem lengthTaken : ¬ (fld v 3 0 ≤ 2 ∧ (s.fw.len = 0 ∨ (if fld v 3 0 = 1 then 8388608 else 3145728) < s.fw.len)) := by
  rintro ⟨hwrite, h⟩
  have hfits := hlen hwrite
  omega

theorem fwCommand_badSource (hwrite : fld v 3 0 ≤ 2) (hbad : fwSourceBad s = true) : fwCommand v s = fwFail 2 0 s := by
  rw [fwCommand_heard hkey hop hready, if_neg (not_not_intro hidle), if_neg (lengthTaken hlen), if_pos ⟨hwrite, hbad⟩]

variable (hsource : fld v 3 0 ≤ 2 → fwSourceBad s = false)
include hsource

omit hkey hop hready hidle hlen in
theorem sourceTaken : ¬ (fld v 3 0 ≤ 2 ∧ fwSourceBad s = true) := fun h =>
  absurd ((hsource h.1).symm.trans h.2) (by decide)

theorem fwCommand_twoFormats (hset : fld v 3 0 = 2 ∨ fld v 3 0 = 4) (hkept : settingsKept s = true) : fwCommand v s = fwFail 4 0 s := by
  rw [fwCommand_heard hkey hop hready, if_neg (not_not_intro hidle), if_neg (lengthTaken hlen),
    if_neg (sourceTaken hsource), if_pos ⟨hset, hkept⟩]

theorem fwCommand_started (hfree : fld v 3 0 = 2 ∨ fld v 3 0 = 4 → settingsKept s = false) : fwCommand v s =
    flashStarted v (if fld v 3 0 = 1 ∨ fld v 3 0 = 3 then eraseStaged s.fw.flash else s.fw.flash) s := by
  rw [fwCommand_heard hkey hop hready, if_neg (not_not_intro hidle), if_neg (lengthTaken hlen),
    if_neg (sourceTaken hsource), if_neg fun h => absurd ((hfree h.1).symm.trans h.2) (by decide)]

end
end
end

/-! ## Reports -/

/-- A command that ends FAILED is struck, and leaves its cause. -/
theorem fwFailed (c a : Nat) (s : State) : FwReport 1 s (fwFail c a s) ∧
    (fwFail c a s).fw = { s.fw with op := 0, state := 3, cause := c, whr := a } := by
  have moved := raiseBit_frame pgFw 1 { s with fw := { s.fw with op := 0, state := 3, cause := c, whr := a } }
  have hfw : (fwFail c a s).fw = { s.fw with op := 0, state := 3, cause := c, whr := a } := congrArg State.fw moved
  refine ⟨⟨struck_of_pages (by decide) rfl, ?_⟩, hfw⟩
  rw [hfw]
  exact moved

/-- A refusal before the command starts. -/
theorem fwRefused {c : Nat} {s : State} (hidle : s.fw.op = 0) : FwReport 1 s (fwFail c 0 s) ∧
    (fwFail c 0 s).fw = { s.fw with state := 3, cause := c, whr := 0 } := by
  obtain ⟨hreport, hfw⟩ := fwFailed c 0 s
  refine ⟨hreport, ?_⟩
  rw [hfw, ← hidle]

/-- An event of the page that nothing goes with. -/
theorem fwStruck {i : Nat} (hi : i < 32) (s : State) : FwReport i s (raiseBit pgFw i s) ∧ (raiseBit pgFw i s).fw = s.fw := by
  have moved := raiseBit_frame pgFw i s
  have hfw : (raiseBit pgFw i s).fw = s.fw := by rw [moved]
  refine ⟨⟨struck_raiseBit pgFw hi s, ?_⟩, hfw⟩
  rw [hfw]
  exact moved

/-! ## The clauses of the commands -/

section

variable {v : Word} {s : State} (hrun : inReset s = false) (hkey : fld v 31 16 = 0x5F3A)
include hrun hkey

/-- An image is written where the length and the source allow it, by the firmware or by the recovery ROM (R486, R491). -/
theorem writeStaged_starts (hready : ready s 5 = true ∨ s.fw.recovery = true ∧ fld v 3 0 = 1) (hidle : s.fw.op = 0) (hop : fld v 3 0 = 1)
    (hlen : 0 < s.fw.len) (hfits : s.fw.len ≤ 8388608) (hsrc : fwSourceBad s = false) :
    exec (.fwWriteStaged v) s = .next { s with fw := { s.fw with
      flash := eraseStaged s.fw.flash, op := 1, opTries := max 1 (fld v 15 12), state := 1, cause := 0, whr := 0 } } := by
  have he : IsFlashCommand (.fwWriteStaged v) v := by simp [IsFlashCommand, hop]
  rw [exec_of_flashCommand hrun he, fwCommand_started hkey (op_of_flashCommand he) hready hidle, if_pos (.inl hop), flashStarted, hop]
  · rw [if_pos hop]
    exact fun _ => ⟨hlen, hfits⟩
  · exact fun _ => hsrc
  · omega

variable (hready : ready s 5 = true) (hidle : s.fw.op = 0)
include hready hidle

theorem writeSettings_starts (hop : fld v 3 0 = 2) (hlen : 0 < s.fw.len) (hfits : s.fw.len ≤ 3145728) (hsrc : fwSourceBad s = false)
    (hfree : settingsKept s = false) : exec (.fwWriteSettings v) s = .next { s with fw := { s.fw with
      op := 2, opTries := max 1 (fld v 15 12), state := 1, cause := 0, whr := 0 } } := by
  have he : IsFlashCommand (.fwWriteSettings v) v := by simp [IsFlashCommand, hop]
  rw [exec_of_flashCommand hrun he, fwCommand_started hkey (op_of_flashCommand he) (.inl hready) hidle, if_neg (by omega), flashStarted, hop]
  · rw [if_neg (by omega)]
    exact fun _ => ⟨hlen, hfits⟩
  · exact fun _ => hsrc
  · exact fun _ => hfree

theorem eraseStaged_starts (hop : fld v 3 0 = 3) : exec (.fwEraseStaged v) s = .next { s with fw := { s.fw with
      flash := eraseStaged s.fw.flash, op := 3, opTries := max 1 (fld v 15 12), state := 1, cause := 0, whr := 0 } } := by
  have he : IsFlashCommand (.fwEraseStaged v) v := by simp [IsFlashCommand, hop]
  rw [exec_of_flashCommand hrun he, fwCommand_started hkey (op_of_flashCommand he) (.inl hready) hidle, if_pos (.inr hop), flashStarted, hop]
    <;> omega

theorem eraseSettings_starts (hop : fld v 3 0 = 4) (hfree : settingsKept s = false) :
    exec (.fwEraseSettings v) s = .next { s with fw := { s.fw with
      op := 4, opTries := max 1 (fld v 15 12), state := 1, cause := 0, whr := 0 } } := by
  have he : IsFlashCommand (.fwEraseSettings v) v := by simp [IsFlashCommand, hop]
  rw [exec_of_flashCommand hrun he, fwCommand_started hkey (op_of_flashCommand he) (.inl hready) hidle, if_neg (by omega), flashStarted, hop]
  · omega
  · omega
  · exact fun _ => hfree

/-- A length that the command may not use. -/
theorem write_badLength {e : Instr} (he : IsFlashCommand e v) (hwrite : fld v 3 0 ≤ 2)
    (hlen : s.fw.len = 0 ∨ (if fld v 3 0 = 1 then 8388608 else 3145728) < s.fw.len) :
    ∃ t, exec e s = .next t ∧ FwReport 1 s t ∧ t.fw = { s.fw with state := 3, cause := 1, whr := 0 } := by
  refine ⟨_, ?_, fwRefused hidle⟩
  rw [exec_of_flashCommand hrun he, fwCommand_badLength hkey (op_of_flashCommand he) (.inl hready) hidle hwrite hlen]

theorem writeStaged_badSource (hop : fld v 3 0 = 1) (hlen : 0 < s.fw.len) (hfits : s.fw.len ≤ 8388608) (hsrc : fwSourceBad s = true) :
    ∃ t, exec (.fwWriteStaged v) s = .next t ∧ FwReport 1 s t ∧ t.fw = { s.fw with state := 3, cause := 2, whr := 0 } := by
  have he : IsFlashCommand (.fwWriteStaged v) v := by simp [IsFlashCommand, hop]
  refine ⟨_, ?_, fwRefused hidle⟩
  rw [exec_of_flashCommand hrun he, fwCommand_badSource hkey (op_of_flashCommand he) (.inl hready) hidle _ (by omega) hsrc]
  rw [if_pos hop]
  exact fun _ => ⟨hlen, hfits⟩

theorem eraseSettings_twoFormats (hop : fld v 3 0 = 4) (hkept : settingsKept s = true) :
    ∃ t, exec (.fwEraseSettings v) s = .next t ∧ FwReport 1 s t ∧ t.fw = { s.fw with state := 3, cause := 4, whr := 0 } := by
  have he : IsFlashCommand (.fwEraseSettings v) v := by simp [IsFlashCommand, hop]
  refine ⟨_, ?_, fwRefused hidle⟩
  rw [exec_of_flashCommand hrun he, fwCommand_twoFormats hkey (op_of_flashCommand he) (.inl hready) hidle _ _ (.inr hop) hkept]
    <;> omega

end

/-! ## Confirmation -/

section

variable {s : State} (hready : ready s 5 = true)
include hready

theorem fwConfirm_taken : fwConfirm 0xC0F10000 s =
    if s.fw.op ≠ 0 then { s with fw := { s.fw with confirmWait := true } } else fwConfirmNow s := by
  have htaken : ¬ ((0xC0F10000 : Word) ≠ 0xC0F10000 ∨ !ready s pgFw) := by
    rw [show pgFw = 5 from rfl, hready]
    simp only [ne_eq, not_true_eq_false, Bool.not_true, Bool.false_eq_true, or_self, not_false_eq_true]
  exact if_neg htaken

end

theorem fwConfirm_untaken {v : Word} {s : State} (h : v ≠ 0xC0F10000 ∨ ready s 5 = false) : fwConfirm v s = s := by
  refine if_pos (h.imp id fun hno => ?_)
  rw [show pgFw = 5 from rfl, hno]
  rfl

end Sys2Proof.Laws
end

section
/-! The end of a flash command (R296, R486, R489–R491), and the confirmation that waits for it (R487). -/

namespace Sys2Proof.Laws

open Sys2Proof Sys2Proof.Machine

/-! ## Operations that leave all but flags, counters and the firmware's own state -/

/-- From `s` to `t` flags, counters, messages on their way and the firmware's state have moved, and no FAULT bit. -/
structure FwNoted (s t : State) : Prop where
  frame : t = { s with pages := t.pages, ctrs := t.ctrs, fw := t.fw, ic := { s.ic with inflight := t.ic.inflight } }
  fault : ∀ k, (page t k).fault = (page s k).fault

theorem FwNoted.refl (s : State) : FwNoted s s := ⟨rfl, fun _ => rfl⟩

theorem FwNoted.trans {s t u : State} (h : FwNoted s t) (g : FwNoted t u) : FwNoted s u where
  frame := by
    have moved := g.frame
    rw [h.frame] at moved
    exact moved
  fault k := (g.fault k).trans (h.fault k)

theorem FwNoted.of_noted {s t : State} (h : Noted s t) : FwNoted s t where
  frame := by
    have moved := h.frame
    have hfw : t.fw = s.fw := by rw [moved]
    rw [hfw]
    exact moved
  fault := h.fault

/-- The firmware's own state set. -/
theorem fwNoted_set (f : Fw) (s : State) : FwNoted s { s with fw := f } := ⟨rfl, fun _ => rfl⟩

theorem FwNoted.dram {s t : State} (h : FwNoted s t) : t.dram = s.dram := by rw [h.frame]

theorem noted_countFlash (p e : Nat) (s : State) : Noted s (countFlash p e s) := (noted_bump ..).bumped ..

theorem fwNoted_fwFail (c a : Nat) (s : State) : FwNoted s (fwFail c a s) := (fwNoted_set ..).trans (.of_noted (noted_raiseBit ..))

theorem fwNoted_fwDone (s : State) : FwNoted s (fwDone s) := (fwNoted_set ..).trans (.of_noted (noted_raiseBit ..))

theorem fw_fwDone (s : State) : (fwDone s).fw = { s.fw with op := 0, state := 2, cause := 0, whr := 0 } :=
  congrArg State.fw (raiseBit_frame pgFw 0 { s with fw := { s.fw with op := 0, state := 2, cause := 0, whr := 0 } })

theorem fw_fwFail (c a : Nat) (s : State) : (fwFail c a s).fw = { s.fw with op := 0, state := 3, cause := c, whr := a } := (fwFailed c a s).2

@[simp] theorem fw_countFlash (p e : Nat) (s : State) : (countFlash p e s).fw = s.fw := rfl

/-! ## The work of a command -/

section

variable {r a : Nat} (err : Bool) {s : State}

/-- The bytes that a command reads of DRAM. -/
def sourceBytes (s : State) : List Byte := (List.range s.fw.len).map (fun i => dramGet s (fwSource s).1 ((fwSource s).2 + i))

/-- The blob that a WRITE_SETTINGS reads of DRAM. -/
def sourceBlob (s : State) : List Word := dramWordsAt s (fwSource s).1 (fwSource s).2 (s.fw.len / 4)

/-- The image written to region `r`. -/
def imageWritten (r : Nat) (s : State) : State :=
  { countFlash s.fw.len 8388608 s with fw := { s.fw with
    flash := { (setRegion r (sourceBytes s) s.fw.flash) with full := true, tries := s.fw.opTries } } }

theorem fwWork_of_image (hop : s.fw.op = 1) (hr : s.fw.flash.staged = some r) : fwWork err s =
    if err then fwFail 5 0 (countFlash s.fw.len 8388608 s)
    else fwDone (imageWritten r s) := by
  rw [fwWork, hop]
  simp only [hr]
  rfl

theorem fwWork_of_noStaged (hop : s.fw.op = 1) (hr : s.fw.flash.staged = none) : fwWork err s =
    if err then fwFail 5 0 (countFlash s.fw.len 8388608 s) else fwDone (countFlash s.fw.len 8388608 s) := by
  rw [fwWork, hop]
  simp only [hr]

theorem fwWork_of_badBlob (hop : s.fw.op = 2) (hbad : badBlob s s.fw.len (sourceBlob s) = some a) : fwWork err s = fwFail 3 a s := by
  rw [sourceBlob] at hbad
  rw [fwWork, hop]
  simp only [hbad]

/-- The area that new settings are written to. -/
def nextArea (s : State) : Nat := if s.fw.present then 1 - s.fw.area else 0

/-- The settings written to their area. -/
def blobWritten (s : State) : State :=
  { countFlash s.fw.len 3145728 s with fw := { s.fw with
    flash := setArea (nextArea s) ((sourceBlob s).set 2 (BitVec.ofNat 32 (topSeq s.fw.flash + 1))) s.fw.flash
    area := nextArea s, present := true } }

theorem fwWork_of_blob (hop : s.fw.op = 2) (hgood : badBlob s s.fw.len (sourceBlob s) = none) : fwWork err s =
    if err then fwFail 5 0 { countFlash s.fw.len 3145728 s with fw := { s.fw with flash := setArea (nextArea s) [] s.fw.flash } }
    else fwDone (blobWritten s) := by
  rw [sourceBlob] at hgood
  rw [fwWork, hop]
  simp only [hgood]
  rfl

theorem fwWork_of_eraseStaged (hop : s.fw.op = 3) :
    fwWork err s = if err then fwFail 5 0 (countFlash 0 8388608 s) else fwDone (countFlash 0 8388608 s) := by
  rw [fwWork, hop]
  rfl

/-- The settings erased. -/
def settingsErased (s : State) : State :=
  countFlash 0 6291456 { s with fw := { s.fw with flash := { s.fw.flash with settings := [] }, present := false, area := 0 } }

theorem fwWork_of_eraseSettings (h1 : s.fw.op ≠ 1) (h2 : s.fw.op ≠ 2) (h3 : s.fw.op ≠ 3) :
    fwWork err s = if err then fwFail 5 0 (settingsErased s) else fwDone (settingsErased s) := by
  rw [fwWork]
  split
  · next h => exact absurd h h1
  · next h => exact absurd h h2
  · next h => exact absurd h h3
  · rfl

end

/-- A command that ends DONE or FAILED, whatever it changed of the flash. -/
structure FlashEnded (s t : State) : Prop extends FwNoted s t where
  op : t.fw.op = 0
  confirmWait : t.fw.confirmWait = s.fw.confirmWait

theorem flashEnded_fwFail {s u : State} (h : FwNoted s u) (hwait : u.fw.confirmWait = s.fw.confirmWait) (c a : Nat) : FlashEnded s (fwFail c a u) where
  toFwNoted := h.trans (fwNoted_fwFail ..)
  op := by rw [fw_fwFail]
  confirmWait := by rw [fw_fwFail]; exact hwait

theorem flashEnded_fwDone {s u : State} (h : FwNoted s u) (hwait : u.fw.confirmWait = s.fw.confirmWait) : FlashEnded s (fwDone u) where
  toFwNoted := h.trans (fwNoted_fwDone ..)
  op := by rw [fw_fwDone]
  confirmWait := by rw [fw_fwDone]; exact hwait

theorem FlashEnded.ite {s a b : State} {c : Prop} [Decidable c] (ha : FlashEnded s a) (hb : FlashEnded s b) :
    FlashEnded s (if c then a else b) := by
  split
  · exact ha
  · exact hb

theorem flashEnded_fwWork (err : Bool) (s : State) : FlashEnded s (fwWork err s) := by
  have counted := fun p e => FwNoted.of_noted (noted_countFlash p e s)
  by_cases h1 : s.fw.op = 1
  · cases hr : s.fw.flash.staged with
    | none =>
      rw [fwWork_of_noStaged err h1 hr]
      exact .ite (flashEnded_fwFail (counted ..) rfl ..) (flashEnded_fwDone (counted ..) rfl)
    | some r =>
      rw [fwWork_of_image err h1 hr]
      exact .ite (flashEnded_fwFail (counted ..) rfl ..) (flashEnded_fwDone ((counted s.fw.len 8388608).trans (fwNoted_set ..)) rfl)
  by_cases h2 : s.fw.op = 2
  · cases hbad : badBlob s s.fw.len (sourceBlob s) with
    | none =>
      rw [fwWork_of_blob err h2 hbad]
      exact .ite (flashEnded_fwFail ((counted s.fw.len 3145728).trans (fwNoted_set { s.fw with flash := setArea (nextArea s) [] s.fw.flash } _)) rfl ..)
        (flashEnded_fwDone ((counted s.fw.len 3145728).trans (fwNoted_set ..)) rfl)
    | some a =>
      rw [fwWork_of_badBlob err h2 hbad]
      exact flashEnded_fwFail (.refl s) rfl ..
  by_cases h3 : s.fw.op = 3
  · rw [fwWork_of_eraseStaged err h3]
    exact .ite (flashEnded_fwFail (counted ..) rfl ..) (flashEnded_fwDone (counted ..) rfl)
  · rw [fwWork_of_eraseSettings err h1 h2 h3]
    have erased : FwNoted s (settingsErased s) := (fwNoted_set ..).trans (.of_noted (noted_countFlash ..))
    exact .ite (flashEnded_fwFail erased rfl ..) (flashEnded_fwDone erased rfl)

/-! ## Confirmation -/

/-- A first confirmation of the running image (R487). -/
theorem fwConfirmNow_of_trial {s : State} (h : s.fw.flash.confirmed = false) : fwConfirmNow s =
    bump pgFw 0 Config.directoryBytes { s with fw := { s.fw with
      flash := { s.fw.flash with confirmed := true, allowance := 0 }
      rollback := max s.fw.rollback (imgWord (region s.fw.flash s.fw.flash.active) 12) } } := if_neg (by rw [h]; decide)

theorem fwConfirmNow_of_confirmed {s : State} (h : s.fw.flash.confirmed = true) : fwConfirmNow s = raiseBit pgFw 3 s := if_pos h

theorem fwNoted_fwConfirmNow (s : State) : FwNoted s (fwConfirmNow s) ∧ (fwConfirmNow s).fw.op = s.fw.op := by
  cases h : s.fw.flash.confirmed with
  | true =>
    rw [fwConfirmNow_of_confirmed h, (fwStruck (by decide) s).2]
    exact ⟨.of_noted (noted_raiseBit ..), rfl⟩
  | false =>
    rw [fwConfirmNow_of_trial h]
    exact ⟨(fwNoted_set ..).trans (.of_noted (noted_bump ..)), rfl⟩

/-! ## The end -/

theorem fwEnd_of_busy {s : State} (err : Bool) (h : s.fw.op ≠ 0) : fwEnd err s =
    if s.fw.confirmWait then fwConfirmNow { fwWork err s with fw := { (fwWork err s).fw with confirmWait := false } } else fwWork err s := by
  rw [← (flashEnded_fwWork err s).confirmWait]
  exact if_neg h

theorem fwEnd_of_noWait {s : State} (err : Bool) (h : s.fw.op ≠ 0) (hwait : s.fw.confirmWait = false) : fwEnd err s = fwWork err s :=
  (fwEnd_of_busy err h).trans (if_neg (by rw [hwait]; decide))

/-- Whatever a command found, its end leaves memory, the FAULT bits and no command under way. -/
theorem fwEnd_ends (err : Bool) (s : State) : FwNoted s (fwEnd err s) ∧ (fwEnd err s).fw.op = 0 := by
  by_cases h : s.fw.op = 0
  · rw [fwEnd, if_pos h]
    exact ⟨.refl s, h⟩
  have worked := flashEnded_fwWork err s
  rw [fwEnd_of_busy err h]
  split
  · obtain ⟨hnoted, hop⟩ := fwNoted_fwConfirmNow { fwWork err s with fw := { (fwWork err s).fw with confirmWait := false } }
    exact ⟨(worked.toFwNoted.trans (fwNoted_set ..)).trans hnoted, hop.trans worked.op⟩
  · exact ⟨worked.toFwNoted, worked.op⟩

/-! ## What the command reads -/

theorem noted_correctIn (ls : List MemRange) (s : State) : Noted s (correctIn ls s) :=
  .foldl (fun s d => (noted_raiseBit (pgMc d) 5 s).bumped (pgMc d) 0 1) _ s

theorem noted_countReads (ls : List MemRange) (s : State) : Noted s (countReads ls s) :=
  .foldl (fun s _ => .foldl (fun s _ => noted_bump _ _ _ s) _ s) ls s

theorem foldl_keeps {α β : Type} {f : State → α → State} {g : State → β} (h : ∀ s a, g (f s a) = g s) (l : List α) (s : State) :
    g (l.foldl f s) = g s := by
  induction l generalizing s with
  | nil => rfl
  | cons a l ih => exact (ih (f s a)).trans (h s a)

theorem pgFw_ne_pgMc (d : Nat) : pgMc d ≠ 5 := by
  rw [pgMc, pkey]
  omega

/-- A read without a bad word: single-bit errors corrected, bytes counted, and the page of the firmware as it was. -/
def sourceRead (s : State) : State := countReads (fwReads s) (correctIn (fwReads s) s)

theorem noted_sourceRead (s : State) : Noted s (sourceRead s) := (noted_correctIn ..).trans (noted_countReads ..)

theorem page_eccCorrect (d : Nat) (s : State) : page (eccCorrect d s) 5 = page s 5 := page_raiseBit_other (pgFw_ne_pgMc d).symm 5 s

theorem page_rangeRead (r : MemRange) (s : State) : page ((Machine.wordsOf r.addr r.len).foldl (fun s w => countRead r.die w s) s) 5 = page s 5 :=
  foldl_keeps (f := fun s w => countRead r.die w s) (g := fun t => page t 5) (fun _ _ => rfl) _ s

theorem page_sourceRead (s : State) : page (sourceRead s) 5 = page s 5 := by
  have counted : ∀ u : State, page (countReads (fwReads s) u) 5 = page u 5 :=
    foldl_keeps (g := fun t => page t 5) (fun u r => page_rangeRead r u) (fwReads s)
  have corrected : page (correctIn (fwReads s) s) 5 = page s 5 :=
    foldl_keeps (f := fun s d => eccCorrect d s) (g := fun t => page t 5) (fun u d => page_eccCorrect d u) _ s
  exact (counted _).trans corrected

theorem exec_fwCommandEnd_of_sound {s : State} (err : Bool) (hrun : inReset s = false)
    (hsound : ∀ r ∈ fwReads s, badWords s r.die r.addr r.len = []) : exec (.fwCommandEnd err) s = .next (fwEnd err (sourceRead s)) := by
  refine (next_whenUp hrun _).trans ?_
  rw [reading_of_sound hsound, sourceRead]

end Sys2Proof.Laws
end

section
/-! A flash command whose source is uncorrectable (R296), and the obligation of the flash commands. -/

namespace Sys2Proof.Laws

open Sys2Proof Sys2Proof.Machine

/-! ## A die's fault leaves memory -/

/-- The bytes of DRAM among what `steady` reads. -/
def dramOf (a : Variant × List Instr × Nat × List Host.Cell × Tbl Word × Tbl Word) : List Host.Cell := a.2.2.2.1

/-- The words in effect hold no memory. -/
theorem dramOf_mk (v : Variant) (l : List Instr) (n : Nat) (s : State) (c e : Tbl Word) :
    dramOf (v, l, n, s.dram, c, e) = dramOf (steady s) := rfl

theorem dramOf_ite (c : Prop) [Decidable c] (a b : Variant × List Instr × Nat × List Host.Cell × Tbl Word × Tbl Word) :
    dramOf (if c then a else b) = if c then dramOf a else dramOf b := apply_ite ..

theorem dramOf_foldl {α : Type} {f : State → α → State} (h : ∀ s a, dramOf (steady (f s a)) = dramOf (steady s)) (l : List α) (s : State) :
    dramOf (steady (l.foldl f s)) = dramOf (steady s) :=
  foldl_keeps (g := fun t => dramOf (steady t)) h l s

theorem dramOf_reseat (ch : Nat) (s : State) : dramOf (steady (reseat ch s)) = dramOf (steady s) := by
  simp only [reseat, ↓steady_noteEngineLost, ↓steady_settle, ↓steady_bump, ↓steady_raiseBit, ↓steady_ite, ↓steady_diverge, ite_self]
  split <;> simp only [↓steady_raiseBit, ↓steady_modChan, ↓steady_mk, ↓dramOf_mk, ↓steady_foldl, ↓steady_modSvc, ↓steady_dropPics,
    ↓steady_dropItems, implies_true]

theorem dramOf_reseatOrFault (ch : Nat) (s : State) : dramOf (steady (reseatOrFault ch s)) = dramOf (steady s) := by
  simp only [reseatOrFault, ↓steady_ite, ↓dramOf_ite, ↓dramOf_reseat, ↓steady_abortOf, ↓steady_raiseBit, ↓steady_faultCh, ite_self]

theorem dramOf_loseChans (chs : List Nat) (s : State) : dramOf (steady (loseChans chs s)) = dramOf (steady s) := by
  simp only [loseChans, ↓steady_ite, ↓dramOf_ite, ↓steady_foldl, dramOf_foldl (fun s ch => dramOf_reseatOrFault ch s), steady_faultCh, steady_toFaulted,
    steady_yieldFor, implies_true, ite_self]

theorem dram_dieFaultOp (d : Nat) (s : State) : (dieFaultOp d s).dram = s.dram := by
  have hkept : dramOf (steady (dieFaultOp d s)) = dramOf (steady s) := by
    simp only [dieFaultOp, ↓steady_ite, ↓steady_setFault, ↓dramOf_loseChans, ↓steady_noteEngineLost, ↓steady_setFaults, ite_self]
  exact hkept

/-! ## A bad word in the source -/

theorem eraseDups_map_const {α : Type} (l : List α) (d : Nat) (hne : l ≠ []) : (l.map (fun _ => d)).eraseDups = [d] := by
  cases l with
  | nil => exact absurd rfl hne
  | cons a l =>
    have hrest : (l.map (fun _ => d)).filter (fun b => !b == d) = [] := by
      rw [List.filter_eq_nil_iff]
      intro b hb
      obtain ⟨_, -, rfl⟩ := List.mem_map.mp hb
      simp
    rw [List.map_cons, List.eraseDups_cons, hrest]
    rfl

/-- A bad word of one range is logged, and its die has a fault (R296). -/
theorem reading_of_badRange {r : MemRange} {s : State} (hbad : badWords s r.die r.addr r.len ≠ []) (op : State → State) :
    reading [r] op s =
      dieFaultOp r.die ((badWords s r.die r.addr r.len).foldl (fun s w => eccBad r.die w r.who s) (correctIn [r] s)) := by
  have hkept := readKept_correctIn [r] s
  have hsame : badWords (correctIn [r] s) r.die r.addr r.len = badWords s r.die r.addr r.len := by
    rw [badWords, badWords, hkept.poison, hkept.broken]
  have hsome : ((badWords s r.die r.addr r.len).map (fun w => (r.die, w, r.who))).isEmpty = false := by
    cases h : badWords s r.die r.addr r.len with
    | nil => exact absurd h hbad
    | cons w ws => rfl
  have hdies : ((badWords s r.die r.addr r.len).map (fun w => (r.die, w, r.who))).map (fun e => e.1) =
      (badWords s r.die r.addr r.len).map (fun _ => r.die) := List.map_map
  simp only [reading, List.flatMap_cons, List.flatMap_nil, List.append_nil, hsame, hsome, Bool.false_eq_true, if_false, hdies,
    eraseDups_map_const _ _ hbad, List.foldl_cons, List.foldl_nil, List.foldl_map]

theorem fwReads_eq {s : State} {r : MemRange} (hr : r ∈ fwReads s) : fwReads s = [r] := by
  rw [fwReads] at hr ⊢
  split at hr
  · next h => rw [if_pos h, List.mem_singleton.mp hr]
  · exact absurd hr List.not_mem_nil

theorem dram_eccBad (d w who : Nat) (s : State) : (eccBad d w who s).dram = s.dram :=
  congrArg dramOf (steady_eccBad d w who s)

/-- A command that read a bad word ends beside the fault of its die. -/
theorem fwCommandEnd_of_badWord {s : State} (hrun : inReset s = false) {r : MemRange} (hr : r ∈ fwReads s)
    (hbad : badWords s r.die r.addr r.len ≠ []) (err : Bool) : ∃ t, exec (.fwCommandEnd err) s = .next t ∧
      (page t (pgMc r.die)).fault = true ∧ t.fw.op = 0 ∧ t.dram = s.dram := by
  refine ⟨_, next_whenUp hrun _, ?_⟩
  rw [fwReads_eq hr, reading_of_badRange hbad]
  obtain ⟨hnoted, hop⟩ := fwEnd_ends err
    (dieFaultOp r.die ((badWords s r.die r.addr r.len).foldl (fun s w => eccBad r.die w r.who s) (correctIn [r] s)))
  refine ⟨(hnoted.fault _).trans (dieFaultOp_faults_mc r.die _).1, hop, hnoted.dram.trans ?_⟩
  have logged := foldl_keeps (f := fun s w => eccBad r.die w r.who s) (g := State.dram) (fun u w => dram_eccBad r.die w r.who u)
    (badWords s r.die r.addr r.len) (correctIn [r] s)
  rw [dram_dieFaultOp, logged, (noted_correctIn ..).frame]

end Sys2Proof.Laws
end

section
/-! What a flash command leaves at its end (R486, R489–R491), and the obligation of the flash commands. -/

namespace Sys2Proof.Laws

open Sys2Proof Sys2Proof.Machine

/-! ## The check of a blob reads no flag -/

theorem badRecord_congr {s u : State} (hpage : ∀ k, Machine.pageOk u k = Machine.pageOk s k)
    (htable : ∀ k, tablePageOk u k = tablePageOk s k) (l : List Word) (n i : Nat) (seen : List (Nat × List Word)) :
    badRecord u l n i seen = badRecord s l n i seen := by
  induction n generalizing i seen with
  | zero => rfl
  | succ n ih => simp only [badRecord, hpage, htable, ih]

theorem badBlob_of_noted {s u : State} (h : Noted s u) (n : Nat) (l : List Word) : badBlob u n l = badBlob s n l := by
  have hpage : ∀ k, Machine.pageOk u k = Machine.pageOk s k := fun k => by rw [h.frame]; rfl
  have htable : ∀ k, tablePageOk u k = tablePageOk s k := fun k => by rw [h.frame]; rfl
  have hfmt : u.fw.fmt = s.fw.fmt := by rw [h.frame]
  simp only [badBlob, hfmt, badRecord_congr hpage htable]

/-! ## The state that a command's end finds -/

section

variable {s : State}

theorem fw_sourceRead (s : State) : (sourceRead s).fw = s.fw := by rw [(noted_sourceRead s).frame]

theorem dramGet_sourceRead (s : State) (d a : Nat) : dramGet (sourceRead s) d a = dramGet s d a := by
  have hdram : (sourceRead s).dram = s.dram := by rw [(noted_sourceRead s).frame]
  rw [dramGet, dramGet, hdram]

theorem sourceBytes_sourceRead (s : State) : sourceBytes (sourceRead s) =
    (List.range s.fw.len).map (fun i => dramGet s (fld s.fw.src 31 29) (4096 * fld s.fw.src 21 0 + i)) := by
  simp only [sourceBytes, fwSource, fw_sourceRead, dramGet_sourceRead]

theorem sourceBlob_sourceRead (s : State) : sourceBlob (sourceRead s) =
    dramWordsAt s (fld s.fw.src 31 29) (4096 * fld s.fw.src 21 0) (s.fw.len / 4) := by
  simp only [sourceBlob, dramWordsAt, fwSource, fw_sourceRead, dramGet_sourceRead]

/-- An event of the page on a state whose page is that of `s`. -/
theorem struck_of_page {k i : Nat} (hi : i < 32) {s u : State} (h : page u k = page s k) : Struck k i s (raiseBit k i u) := by
  obtain ⟨hstat, hagain⟩ := struck_raiseBit k hi u
  rw [h] at hstat hagain
  exact ⟨hstat, hagain⟩

theorem struck_fwDone {u : State} (h : page u 5 = page s 5) : Struck 5 0 s (fwDone u) :=
  struck_of_page (u := { u with fw := { u.fw with op := 0, state := 2, cause := 0, whr := 0 } }) (by decide) h

theorem struck_fwFail {u : State} (h : page u 5 = page s 5) (c a : Nat) : Struck 5 1 s (fwFail c a u) :=
  struck_of_page (u := { u with fw := { u.fw with op := 0, state := 3, cause := c, whr := a } }) (by decide) h

theorem page_imageWritten (r : Nat) : page (imageWritten r (sourceRead s)) 5 = page s 5 := page_sourceRead s

theorem page_blobWritten : page (blobWritten (sourceRead s)) 5 = page s 5 := page_sourceRead s

theorem page_countFlash (p e : Nat) : page (countFlash p e (sourceRead s)) 5 = page s 5 := page_sourceRead s

end

/-! ## The clauses of the end -/

section

variable {s : State} (hrun : inReset s = false) (hsound : ∀ r ∈ fwReads s, badWords s r.die r.addr r.len = [])
  (hwait : s.fw.confirmWait = false)
include hrun hsound hwait

theorem exec_fwCommandEnd_of_noWait (err : Bool) (hbusy : s.fw.op ≠ 0) : exec (.fwCommandEnd err) s = .next (fwWork err (sourceRead s)) := by
  rw [exec_fwCommandEnd_of_sound err hrun hsound, fwEnd_of_noWait] <;> rw [fw_sourceRead] <;> assumption

theorem writeStaged_ends {r : Nat} (hop : s.fw.op = 1) (hr : s.fw.flash.staged = some r) :
    ∃ t, exec (.fwCommandEnd false) s = .next t ∧ Struck 5 0 s t ∧ t.fw.op = 0 ∧ t.fw.state = 2 ∧ t.fw.flash.full = true ∧
      t.fw.flash.tries = s.fw.opTries ∧
      region t.fw.flash r = (List.range s.fw.len).map (fun i => dramGet s (fld s.fw.src 31 29) (4096 * fld s.fw.src 21 0 + i)) ∧
      (∀ q, q ≠ r → region t.fw.flash q = region s.fw.flash q) ∧
      t = { s with pages := t.pages, ctrs := t.ctrs, fw := t.fw, ic := { s.ic with inflight := t.ic.inflight } } := by
  have hfw := fw_sourceRead s
  have ended := (FwNoted.of_noted (noted_sourceRead s)).trans (flashEnded_fwWork false (sourceRead s)).toFwNoted
  refine ⟨_, exec_fwCommandEnd_of_noWait hrun hsound hwait false (by omega), ?_⟩
  rw [fwWork_of_image false (hfw ▸ hop) (hfw ▸ hr), if_neg Bool.false_ne_true] at ended ⊢
  refine ⟨struck_fwDone (page_imageWritten r), ?_, ?_, ?_, ?_, ?_, fun q hq => ?_, ended.frame⟩ <;> rw [fw_fwDone, imageWritten]
  · rw [hfw]
  · rw [region, ← sourceBytes_sourceRead]
    exact Tbl.get_set_same _ _ _ _
  · rw [hfw]
    exact (Tbl.get_set _ _ _ _ _).trans (if_neg hq)

theorem writeSettings_fails {a : Nat} (hop : s.fw.op = 2)
    (hbad : badBlob s s.fw.len (dramWordsAt s (fld s.fw.src 31 29) (4096 * fld s.fw.src 21 0) (s.fw.len / 4)) = some a) :
    ∃ t, exec (.fwCommandEnd false) s = .next t ∧ Struck 5 1 s t ∧
      t.fw = { s.fw with op := 0, state := 3, cause := 3, whr := a } ∧
      t = { s with pages := t.pages, ctrs := t.ctrs, fw := t.fw, ic := { s.ic with inflight := t.ic.inflight } } := by
  have hfw := fw_sourceRead s
  have ended := (FwNoted.of_noted (noted_sourceRead s)).trans (flashEnded_fwWork false (sourceRead s)).toFwNoted
  refine ⟨_, exec_fwCommandEnd_of_noWait hrun hsound hwait false (by omega), ?_⟩
  rw [← sourceBlob_sourceRead, ← badBlob_of_noted (noted_sourceRead s), ← hfw] at hbad
  rw [fwWork_of_badBlob false (hfw ▸ hop) hbad] at ended ⊢
  refine ⟨struck_fwFail (page_sourceRead s) .., ?_, ended.frame⟩
  rw [fw_fwFail, hfw]

theorem writeSettings_ends (hop : s.fw.op = 2)
    (hgood : badBlob s s.fw.len (dramWordsAt s (fld s.fw.src 31 29) (4096 * fld s.fw.src 21 0) (s.fw.len / 4)) = none) :
    ∃ t, exec (.fwCommandEnd false) s = .next t ∧ Struck 5 0 s t ∧ t.fw.op = 0 ∧ t.fw.state = 2 ∧ t.fw.present = true ∧
      t.fw.area = (if s.fw.present then 1 - s.fw.area else 0) ∧
      area t.fw.flash t.fw.area = (dramWordsAt s (fld s.fw.src 31 29) (4096 * fld s.fw.src 21 0) (s.fw.len / 4)).set 2
        (BitVec.ofNat 32 (topSeq s.fw.flash + 1)) ∧
      t.fw.flash.images = s.fw.flash.images := by
  have hfw := fw_sourceRead s
  refine ⟨_, exec_fwCommandEnd_of_noWait hrun hsound hwait false (by omega), ?_⟩
  rw [← sourceBlob_sourceRead] at hgood ⊢
  rw [← badBlob_of_noted (noted_sourceRead s), ← hfw] at hgood
  rw [fwWork_of_blob false (hfw ▸ hop) hgood, if_neg Bool.false_ne_true]
  refine ⟨struck_fwDone page_blobWritten, ?_, ?_, ?_, ?_, ?_, ?_⟩ <;> rw [fw_fwDone, blobWritten]
  · rw [nextArea, hfw]
  · rw [area, hfw]
    exact Tbl.get_set_same _ _ _ _
  · rw [hfw]
    rfl

theorem eraseStaged_ends (hop : s.fw.op = 3) : ∃ t, exec (.fwCommandEnd false) s = .next t ∧ Struck 5 0 s t ∧
    t.fw = { s.fw with op := 0, state := 2, cause := 0, whr := 0 } := by
  have hfw := fw_sourceRead s
  refine ⟨_, exec_fwCommandEnd_of_noWait hrun hsound hwait false (by omega), ?_⟩
  rw [fwWork_of_eraseStaged false (hfw ▸ hop), if_neg Bool.false_ne_true]
  refine ⟨struck_fwDone (page_countFlash ..), ?_⟩
  rw [fw_fwDone, fw_countFlash, hfw]

theorem eraseSettings_ends (hop : s.fw.op = 4) : ∃ t, exec (.fwCommandEnd false) s = .next t ∧ Struck 5 0 s t ∧ t.fw.op = 0 ∧
    t.fw.state = 2 ∧ t.fw.present = false ∧ t.fw.flash = { s.fw.flash with settings := [] } := by
  have hfw := fw_sourceRead s
  refine ⟨_, exec_fwCommandEnd_of_noWait hrun hsound hwait false (by omega), ?_⟩
  rw [fwWork_of_eraseSettings, if_neg Bool.false_ne_true]
  · refine ⟨struck_fwDone (u := settingsErased (sourceRead s)) (page_sourceRead s), ?_, ?_, ?_, ?_⟩ <;> rw [fw_fwDone]
    · rfl
    · rw [settingsErased, fw_countFlash, hfw]
  all_goals rw [hfw]; omega

theorem flashError_ends (hop : s.fw.op ∈ [1, 3, 4]) : ∃ t, exec (.fwCommandEnd true) s = .next t ∧ Struck 5 1 s t ∧ t.fw.op = 0 ∧
    t.fw.state = 3 ∧ t.fw.cause = 5 := by
  have hfw := fw_sourceRead s
  simp only [List.mem_cons, List.not_mem_nil, or_false] at hop
  refine ⟨_, exec_fwCommandEnd_of_noWait hrun hsound hwait true (by omega), ?_⟩
  have failed : ∀ u : State, page u 5 = page s 5 → Struck 5 1 s (fwFail 5 0 u) ∧ (fwFail 5 0 u).fw.op = 0 ∧
      (fwFail 5 0 u).fw.state = 3 ∧ (fwFail 5 0 u).fw.cause = 5 := fun u hu => by
    refine ⟨struck_fwFail hu .., ?_, ?_, ?_⟩ <;> rw [fw_fwFail]
  rcases hop with h1 | h3 | h4
  · cases hr : s.fw.flash.staged with
    | none =>
      rw [fwWork_of_noStaged true (hfw ▸ h1) (hfw ▸ hr), if_pos rfl]
      exact failed _ (page_countFlash ..)
    | some r =>
      rw [fwWork_of_image true (hfw ▸ h1) (hfw ▸ hr), if_pos rfl]
      exact failed _ (page_countFlash ..)
  · rw [fwWork_of_eraseStaged true (hfw ▸ h3), if_pos rfl]
    exact failed _ (page_countFlash ..)
  · rw [fwWork_of_eraseSettings true (by rw [hfw]; omega) (by rw [hfw]; omega) (by rw [hfw]; omega), if_pos rfl]
    exact failed (settingsErased (sourceRead s)) (page_sourceRead s)

end

/-- A confirmation that waited acts as the command ends (R487). -/
theorem fwCommandEnd_confirms {s : State} (hrun : inReset s = false) (hop : s.fw.op = 3) (hwait : s.fw.confirmWait = true)
    (hconf : s.fw.flash.confirmed = false) : ∃ t, exec (.fwCommandEnd false) s = .next t ∧
      t.fw.op = 0 ∧ t.fw.state = 2 ∧ t.fw.confirmWait = false ∧ t.fw.flash.confirmed = true ∧ t.fw.flash.allowance = 0 := by
  have hfw := fw_sourceRead s
  have hreads : fwReads s = [] := if_neg (by omega)
  have hsound : ∀ r ∈ fwReads s, badWords s r.die r.addr r.len = [] := fun r hr => by
    rw [hreads] at hr
    exact absurd hr List.not_mem_nil
  refine ⟨_, exec_fwCommandEnd_of_sound false hrun hsound, ?_⟩
  rw [fwEnd_of_busy false (by rw [hfw]; omega), hfw, if_pos hwait, fwWork_of_eraseStaged false (hfw ▸ hop), if_neg Bool.false_ne_true,
    fw_fwDone, fw_countFlash, hfw, fwConfirmNow_of_trial]
  · exact ⟨rfl, rfl, rfl, rfl, rfl⟩
  · exact hconf

/-! ## The obligation -/

/-- Settles O51: each write of `FW_CMD` and `FW_CONFIRM` has one branch; the end runs on the state after the read. -/
theorem flashCommandsRunAndEnd : Obligations.FlashCommandsRunAndEnd := by
  unfold Obligations.FlashCommandsRunAndEnd
  intro s hrun
  refine ⟨fun v hkey hready hidle => ⟨fun hop hlen hfits hsrc => writeStaged_starts hrun hkey (.inl hready) hidle hop hlen hfits hsrc,
      writeSettings_starts hrun hkey hready hidle, eraseStaged_starts hrun hkey hready hidle,
      eraseSettings_starts hrun hkey hready hidle, fun hop hlen => ?_, fun hop hlen => ?_,
      writeStaged_badSource hrun hkey hready hidle, eraseSettings_twoFormats hrun hkey hready hidle⟩,
    fun v hkey hop hrec hidle => writeStaged_starts hrun hkey (.inr ⟨hrec, hop⟩) hidle hop, fun v hkey hready hbusy e he => ?_,
    fun v hkey e he => ?_, fun hready hidle hconf => ?_, fun hready hidle hconf => ?_, fun hready hbusy => ?_, fun v h => ?_,
    fun err hidle => ?_, fun r hr hbad => fwCommandEnd_of_badWord hrun hr hbad false, fun hwait hsound =>
      ⟨fun r => writeStaged_ends hrun hsound hwait, fun a => writeSettings_fails hrun hsound hwait,
        writeSettings_ends hrun hsound hwait, eraseStaged_ends hrun hsound hwait, eraseSettings_ends hrun hsound hwait,
        flashError_ends hrun hsound hwait⟩, fwCommandEnd_confirms hrun⟩
  · exact write_badLength hrun hkey hready hidle (by simp [IsFlashCommand, hop]) (by omega) (by rwa [if_pos hop])
  · exact write_badLength hrun hkey hready hidle (by simp [IsFlashCommand, hop]) (by omega) (by rwa [if_neg (by omega)])
  · refine ⟨_, ?_, fwStruck (by decide) s⟩
    rw [exec_of_flashCommand hrun he, fwCommand_of_busy hkey (op_of_flashCommand he) (.inl hready) hbusy]
  · simp only [List.mem_cons, List.not_mem_nil, or_false] at he
    have still : ∀ c : Bool, (Host.Outcome.next (whenUp s (guard' c (fwCommand v))) : Host.Outcome State Fault Refusal) = .next s := fun c => by
      rw [whenUp_of_running hrun, guard', fwCommand_of_noKey hkey, ite_self]
    rcases he with rfl | rfl | rfl | rfl <;> exact still _
  · refine ⟨_, next_whenUp hrun _, ?_⟩
    rw [fwConfirm_taken hready, if_neg (not_not_intro hidle), fwConfirmNow_of_trial hconf]
    exact ⟨rfl, rfl⟩
  · refine ⟨_, next_whenUp hrun _, ?_⟩
    rw [fwConfirm_taken hready, if_neg (not_not_intro hidle), fwConfirmNow_of_confirmed hconf]
    exact fwStruck (by decide) s
  · refine (next_whenUp hrun _).trans ?_
    rw [fwConfirm_taken hready, if_pos hbusy]
  · refine (next_whenUp hrun _).trans ?_
    rw [fwConfirm_untaken h]
  · have hreads : fwReads s = [] := if_neg (by omega)
    refine (next_whenUp hrun _).trans (congrArg _ ?_)
    rw [hreads]
    exact if_pos hidle

end Sys2Proof.Laws
end

section
/-! The registry and the Connection API (R472–R475): what a heartbeat sends, and what an activation stages and commits. -/

namespace Sys2Proof.Laws

open Sys2Proof Sys2Proof.Machine

/-! ## Frames of the services -/

theorem pgGate_ne (l : Nat) : pgGate l ≠ 1 := by
  rw [pgGate, pkey]
  omega

/-- From `s` to `t` the port at `l` has taken a frame, or counted one that does not fit. -/
structure FrameJoined (l : Nat) (s t : State) : Prop where
  frame : t = { s with fresh := t.fresh, ctrs := t.ctrs, ports := t.ports }
  others : ∀ k, k ≠ l → port t k = port s k
  counters : ∀ n, n < 15 → counter t 1 n = counter s 1 n

theorem frameJoined_ancJoin (l i len : Nat) (ip : Option Dgram) (s : State) : FrameJoined l s (ancJoin l i len ip s) := by
  unfold ancJoin
  dsimp only
  split
  · refine ⟨rfl, fun _ _ => rfl, fun n hn => counter_bump_other ?_ 1 s⟩
    have hgate := pgGate_ne l
    have hsome : 1 ≤ pgGate l := by rw [pgGate, pkey]; omega
    omega
  · exact ⟨rfl, fun k hk => (port_modPort ..).trans (if_neg hk), fun _ _ => rfl⟩

theorem frameJoined_serviceFrame (l i : Nat) (s : State) : FrameJoined l s (serviceFrame l i s) := by
  obtain ⟨hframe, hothers, hcounters⟩ := frameJoined_ancJoin l i (Config.serviceBytes i s.fresh) none (draw s)
  exact ⟨hframe, hothers, hcounters⟩

/-- What a service puts on a port joins what the part has sent where the port sends (R98). -/
theorem emitOn_eq (l : Nat) (o : Out) (s : State) :
    emitOn l o s = { s with out := (if portSends s l then [o] else []) ++ s.out } := by
  rw [emitOn]
  split <;> rfl

/-! ## The registry -/

/-- A part that does not register is not registered (R472). -/
theorem nmosOp_silent {s : State} (h : nmosEn (effW s) = false ∨ announces s = false) (ok : Bool) :
    nmosOp ok s = { s with services := { s.services with regOk := false } } := by
  refine if_pos ?_
  rcases h with h | h <;> simp [h]

/-- What a registration or a heartbeat sends. -/
def registryTurn (s : State) : State :=
  serviceFrame (mgmtLane (effW s)) 3 (emitOn (mgmtLane (effW s)) (if s.services.regOk then .nmosHeartbeat else .nmosRegister (resourceIds s)) s)

/-- The part is registered, or not. -/
def registered (ok : Bool) (s : State) : State := { s with services := { s.services with regOk := ok } }

theorem nmosOp_heard {s : State} (hen : nmosEn (effW s) = true) (hann : announces s = true) (ok : Bool) : nmosOp ok s =
    if ok then registered ok (registryTurn s) else bump pgHost 4 1 (raiseBit pgHost 4 (registered ok (registryTurn s))) := by
  refine if_neg ?_
  simp [hen, hann]

section

variable (s : State)

theorem registryTurn_eq : registryTurn s = { s with
    out := (if portSends s (mgmtLane (effW s)) then [if s.services.regOk then .nmosHeartbeat else .nmosRegister (resourceIds s)] else []) ++ s.out
    fresh := (registryTurn s).fresh, ctrs := (registryTurn s).ctrs, ports := (registryTurn s).ports } := by
  have joined := (frameJoined_serviceFrame (mgmtLane (effW s)) 3
    (emitOn (mgmtLane (effW s)) (if s.services.regOk then .nmosHeartbeat else .nmosRegister (resourceIds s)) s)).frame
  rw [emitOn_eq] at joined
  rw [registryTurn, emitOn_eq]
  exact joined

theorem port_registryTurn {l : Nat} (hl : l ≠ mgmtLane (effW s)) : port (registryTurn s) l = port s l := by
  rw [registryTurn, (frameJoined_serviceFrame ..).others l hl, emitOn_eq]
  rfl

theorem counter_registryTurn {n : Nat} (hn : n < 15) : counter (registryTurn s) 1 n = counter s 1 n := by
  rw [registryTurn, (frameJoined_serviceFrame ..).counters n hn, emitOn_eq]
  rfl

/-- A heartbeat that does not fail (R472). -/
theorem heartbeat_succeeds : (registered true (registryTurn s)).out =
      (if portSends s (mgmtLane (effW s)) then [if s.services.regOk then .nmosHeartbeat else .nmosRegister (resourceIds s)] else []) ++ s.out ∧
    (registered true (registryTurn s)).services = { s.services with regOk := true } ∧ (registered true (registryTurn s)).pages = s.pages ∧
    (∀ l, l ≠ mgmtLane (effW s) → port (registered true (registryTurn s)) l = port s l) ∧
    registered true (registryTurn s) = { s with
      out := (registered true (registryTurn s)).out, fresh := (registered true (registryTurn s)).fresh
      pages := (registered true (registryTurn s)).pages, ctrs := (registered true (registryTurn s)).ctrs
      ports := (registered true (registryTurn s)).ports
      ic := { s.ic with inflight := (registered true (registryTurn s)).ic.inflight }
      services := (registered true (registryTurn s)).services } := by
  have moved := registryTurn_eq s
  refine ⟨?_, ?_, ?_, fun l hl => port_registryTurn s hl, ?_⟩ <;> rw [registered, moved]

/-- One that fails is struck and counted. -/
def heartbeatFailed (s : State) : State := bump pgHost 4 1 (raiseBit pgHost 4 (registered false (registryTurn s)))

theorem heartbeat_fails : (heartbeatFailed s).out =
      (if portSends s (mgmtLane (effW s)) then [if s.services.regOk then .nmosHeartbeat else .nmosRegister (resourceIds s)] else []) ++ s.out ∧
    (heartbeatFailed s).services = { s.services with regOk := false } ∧ Struck 1 4 s (heartbeatFailed s) ∧ Counted 1 4 1 s (heartbeatFailed s) ∧
    (∀ l, l ≠ mgmtLane (effW s) → port (heartbeatFailed s) l = port s l) ∧
    heartbeatFailed s = { s with
      out := (heartbeatFailed s).out, fresh := (heartbeatFailed s).fresh, pages := (heartbeatFailed s).pages
      ctrs := (heartbeatFailed s).ctrs, ports := (heartbeatFailed s).ports
      ic := { s.ic with inflight := (heartbeatFailed s).ic.inflight }, services := (heartbeatFailed s).services } := by
  have noted := ((noted_raiseBit pgHost 4 (registered false (registryTurn s))).bumped pgHost 4 1).frame
  have moved := registryTurn_eq s
  have whole : heartbeatFailed s = { registered false (registryTurn s) with
      pages := (heartbeatFailed s).pages, ctrs := (heartbeatFailed s).ctrs
      ic := { (registered false (registryTurn s)).ic with inflight := (heartbeatFailed s).ic.inflight } } := noted
  have hpages : (registered false (registryTurn s)).pages = s.pages := by rw [registered, moved]
  refine ⟨?_, ?_, struck_of_pages (k := pgHost) (by decide) hpages, ?_, fun l hl => ?_, ?_⟩
  · rw [whole, registered, moved]
  · rw [whole, registered, moved]
  · have hkept : counter (raiseBit pgHost 4 (registered false (registryTurn s))) 1 4 = counter s 1 4 :=
      (counter_raiseBit _ 4 pgHost 1 4).trans (counter_registryTurn s (by decide))
    exact counted_after_kept hkept (counted_bump_same 1 4 1 _)
  · have hports : (heartbeatFailed s).ports = (registryTurn s).ports := by rw [whole]; rfl
    rw [port, hports]
    exact port_registryTurn s hl
  · rw [whole, registered, moved]

end

/-! ## Staging -/

/-- From `s` to `t` staged words, flags and messages on their way have moved. -/
abbrev Staging (s t : State) : Prop := t = { s with pages := t.pages, staged := t.staged, ic := { s.ic with inflight := t.ic.inflight } }

theorem Staging.trans {s t u : State} (h : Staging s t) (g : Staging t u) : Staging s u := by
  rw [Staging] at h g
  rw [h] at g
  exact g

theorem staging_raiseReport (q i : Nat) (s : State) : Staging s (raiseReport q i s) := by
  unfold raiseReport atReport
  split
  · rfl
  · next k _ =>
    have moved := raiseBit_frame k i s
    have hstaged : (raiseBit k i s).staged = s.staged := by rw [moved]
    dsimp only
    split
    · rw [Staging, hstaged]
      exact moved
    · rfl

theorem staging_markDirty (p : Nat) (s : State) : Staging s (markDirty p s) := by
  unfold markDirty atReport
  (repeat' split) <;> rfl

theorem staging_stageTable (o : Nat) (v : Word) (s : State) : Staging s (stageTable o v s) := by
  unfold stageTable
  dsimp only
  split
  · rfl
  split
  · exact staging_raiseReport ..
  · exact Staging.trans (staging_markDirty (o / 4096) s)
      (u := { markDirty (o / 4096) s with staged := (markDirty (o / 4096) s).staged.set resetWord (bar2loc o) (v &&& fieldMask (bar2loc o)) }) rfl

theorem staging_foldl {α : Type} {f : State → α → State} (h : ∀ s a, Staging s (f s a)) (l : List α) (s : State) : Staging s (l.foldl f s) := by
  induction l generalizing s with
  | nil => rfl
  | cons a l ih => exact (h s a).trans (ih (f s a))

/-! ## The Connection API -/

/-- The words of an activation, staged. -/
def is05Staged (receiver : Bool) (e : Nat) (words : List (Nat × Word)) (s : State) : State :=
  words.foldl (fun s x => stageTable (is05Offset s receiver e x.1)
    ((stagedW s (bar2loc (is05Offset s receiver e x.1)) &&& ~~~is05Mask receiver (x.1 % 16)) ||| (x.2 &&& is05Mask receiver (x.1 % 16))) s) s

theorem staging_is05Staged (r : Bool) (e : Nat) (ws : List (Nat × Word)) (s : State) : Staging s (is05Staged r e ws s) :=
  staging_foldl (fun _ _ => staging_stageTable ..) ws s

section

variable {r : Bool} {e : Nat} {s : State}

/-- An activation that no set serves is answered 500 (R474). -/
theorem is05Activate_refused (h : is05Set s r e = none) (ws : List (Nat × Word)) : is05Activate r e ws s =
    emit (.is05Answer 500 0 (((is05Named s r e).map (fun q => setCode (cset s q).st)).getD 0) 0) (bump pgHost 6 1 s) := by
  rw [is05Activate, h]

theorem counted_is05Refused {o : Out} : Counted 1 6 1 s (emit o (bump pgHost 6 1 s)) := counted_bump_same 1 6 1 s

variable {q k : Nat}

theorem notBusy_of_is05Set (h : is05Set s r e = some q) : setBusy s q = false := by
  obtain ⟨p, -, hp⟩ := Option.bind_eq_some_iff.mp h
  split at hp
  · exact absurd hp (by simp)
  · next hfree =>
    rw [Bool.or_eq_true, Bool.or_eq_true, not_or, not_or, Bool.not_eq_true] at hfree
    rw [← Option.some_inj.mp hp]
    exact hfree.1.1

/-- The state in which an activation's set commits: its words staged, and its answer awaited. -/
def is05Ready (r : Bool) (e q : Nat) (ws : List (Nat × Word)) (s : State) : State :=
  { is05Staged r e ws s with services := { (is05Staged r e ws s).services with is05Sets := NSet.add (is05Staged r e ws s).services.is05Sets q } }

theorem fld_nextGeneration (n : Nat) : fld (BitVec.ofNat 32 (n % 65536)) 15 0 = n % 65536 := by
  rw [fld_low16, BitVec.toNat_ofNat]
  omega

/-- From `s` to `t` sets, their queue and counters have moved. -/
abbrev SetsMoved (s t : State) : Prop := t = { s with ctrs := t.ctrs, sets := t.sets, queue := t.queue }

theorem SetsMoved.trans {s t u : State} (h : SetsMoved s t) (g : SetsMoved t u) : SetsMoved s u := by
  rw [SetsMoved] at h g
  rw [h] at g
  exact g

theorem setsMoved_modSet (q : Nat) (f : CSet → CSet) (s : State) : SetsMoved s (modSet q f s) := rfl

theorem setsMoved_noted (q : Nat) (v : Word) (s : State) : SetsMoved s (noted q v s) := rfl

theorem setsMoved_queued (l : List Nat) (s : State) : SetsMoved s { s with queue := l } := rfl

/-- Set `q` is committed with its next generation by the firmware, with checksum `crc` (R474, R479). -/
structure FirmwareCommitted (q : Nat) (crc : Word) (s t : State) : Prop where
  queue : t.queue = s.queue ++ [q]
  set : cset t q = { cset s q with
    crc := crc, gen := ((cset s q).live + 1) % 65536, cause := 0, entry := entryOf s q, effect := 0, st := .queued }
  others : ∀ j, j ≠ q → cset t j = cset s j
  frame : SetsMoved s t

/-- A commit of the firmware through a reporting page whose aliases are its set's. -/
theorem firmwareCommit_of_free (hpage : reportingPage s q = some k) (hex : pageExists s k = true) (halias : aliasSet s k = some q)
    (hfree : setBusy s q = false) (hunarmed : s.pwr.armed = false) (crc : Word) : FirmwareCommitted q crc s (firmwareCommit q crc s) := by
  have hnotBusy : setBusy (modSet q (fun c => { c with crc := crc }) s) q = false := by
    rw [setBusy, cset_modSet, if_pos rfl]
    exact hfree
  have hwhole : firmwareCommit q crc s =
      commitWrite k (BitVec.ofNat 32 (((cset s q).live + 1) % 65536)) (modSet q (fun c => { c with crc := crc }) s) := by
    simp only [firmwareCommit, hpage]
  have halias' : aliasSet (modSet q (fun c => { c with crc := crc }) s) k = some q := halias
  rw [hwhole, commitWrite_of_free (s := modSet q (fun c => { c with crc := crc }) s) hex _ halias' hnotBusy hunarmed]
  refine ⟨rfl, ?_, fun j hj => ?_, ?_⟩
  · rw [cset_queued, if_pos rfl, notedSet, fld_nextGeneration, cset_modSet, if_pos rfl]
    rfl
  · rw [cset_queued, if_neg hj, cset_modSet, if_neg hj]
  · exact (setsMoved_modSet ..).trans ((setsMoved_noted ..).trans ((setsMoved_queued ..).trans (setsMoved_modSet ..)))

/-- An activation of a set that may be used: its words are staged, and it commits what is staged (R474). -/
theorem is05Activate_commits (hset : is05Set s r e = some q) (hpage : reportingPage s q = some k) (hex : pageExists s k = true)
    (halias : aliasSet s k = some q) (hunarmed : s.pwr.armed = false) (ws : List (Nat × Word)) :
    FirmwareCommitted q (crc32c (stagedWords (is05Ready r e q ws s) (entryOf s q))) (is05Ready r e q ws s) (is05Activate r e ws s) := by
  have hstaging := staging_is05Staged r e ws s
  have hfree := notBusy_of_is05Set hset
  have hentry : entryOf (is05Ready r e q ws s) q = entryOf s q := by rw [is05Ready, hstaging]; rfl
  have hwhole : is05Activate r e ws s =
      firmwareCommit q (crc32c (stagedWords (is05Ready r e q ws s) (entryOf (is05Ready r e q ws s) q))) (is05Ready r e q ws s) := by
    rw [is05Activate, hset]
    rfl
  rw [hwhole, hentry]
  refine firmwareCommit_of_free (k := k) ?_ ?_ ?_ ?_ ?_ _ <;> rw [is05Ready, hstaging]
  · exact hpage
  · exact hex
  · exact halias
  · exact hfree
  · exact hunarmed

end

end Sys2Proof.Laws
end

section
/-! Scheduled activations (R474), Delay_Req (R471), and the obligation of the services of the control cores. -/

namespace Sys2Proof.Laws

open Sys2Proof Sys2Proof.Machine

/-! ## Activations -/

theorem firstDue_cons_ne_none (x : Nat × Bool × Nat × List (Nat × Word)) (l : List (Nat × Bool × Nat × List (Nat × Word))) :
    firstDue (x :: l) ≠ none := by
  rw [firstDue]
  split
  · exact Option.some_ne_none x
  · split <;> exact Option.some_ne_none _

/-- The activation that is due first is none later than the others. -/
theorem firstDue_le {l : List (Nat × Bool × Nat × List (Nat × Word))} {x : Nat × Bool × Nat × List (Nat × Word)} (h : firstDue l = some x) :
    ∀ y ∈ l, x.1 ≤ y.1 := by
  induction l generalizing x with
  | nil => exact fun y hy => absurd hy List.not_mem_nil
  | cons a l ih =>
    rw [firstDue] at h
    cases hrest : firstDue l with
    | none =>
      have hnil : l = [] := by
        cases l with
        | nil => rfl
        | cons b m => exact absurd hrest (firstDue_cons_ne_none b m)
      simp only [hrest, Option.some.injEq] at h
      rw [hnil, ← h]
      simp
    | some b =>
      simp only [hrest] at h
      have hb := ih hrest
      intro y hy
      rcases List.mem_cons.mp hy with rfl | hy
      · split at h
        · rw [← Option.some_inj.mp h]
          omega
        · rw [← Option.some_inj.mp h]
      · have hyb := hb y hy
        split at h <;> (rw [← Option.some_inj.mp h]; omega)

section

variable {r : Bool} {e q k : Nat} {ws : List (Nat × Word)} {s : State}

theorem is05Patch_refused (h : is05Set s r e = none) : ∃ t, Host.Outcome.next (is05Activate r e ws s) = (.next t : Host.Outcome State Fault Refusal) ∧
    t.out = .is05Answer 500 0 (((is05Named s r e).map (fun q => setCode (cset s q).st)).getD 0) 0 :: s.out ∧ Counted 1 6 1 s t ∧
    t = { s with out := t.out, ctrs := t.ctrs } := by
  rw [is05Activate_refused h]
  exact ⟨_, rfl, rfl, counted_is05Refused, rfl⟩

theorem services_is05Ready (r : Bool) (e q : Nat) (ws : List (Nat × Word)) (s : State) :
    (is05Ready r e q ws s).services = { s.services with is05Sets := NSet.add s.services.is05Sets q } := by
  rw [is05Ready, staging_is05Staged r e ws s]

theorem stagedWords_congr {s u : State} (hstaged : u.staged = s.staged) (hpage : ∀ k, Machine.pageOk u k = Machine.pageOk s k)
    (htable : ∀ k, tablePageOk u k = tablePageOk s k) (l : List Word) : stagedWords u l = stagedWords s l := by
  have hpages : pageWords u = pageWords s := funext fun k => by simp only [pageWords, stagedW, hstaged, hpage]
  have htables : tablePageWords u = tablePageWords s := funext fun p => by simp only [tablePageWords, stagedW, hstaged, htable]
  rw [stagedWords, stagedWords, hpages, htables]

theorem queue_is05Ready (r : Bool) (e q : Nat) (ws : List (Nat × Word)) (s : State) : (is05Ready r e q ws s).queue = s.queue := by
  rw [is05Ready, staging_is05Staged r e ws s]

theorem cset_is05Ready (r : Bool) (e q : Nat) (ws : List (Nat × Word)) (s : State) (j : Nat) : cset (is05Ready r e q ws s) j = cset s j := by
  rw [is05Ready, staging_is05Staged r e ws s]
  rfl

theorem mem_is05Sets (r : Bool) (e q : Nat) (ws : List (Nat × Word)) (s : State) : q ∈ (is05Ready r e q ws s).services.is05Sets := by
  rw [services_is05Ready]
  exact (mem_NSet_add ..).mpr (.inl rfl)

/-- An activation of a set that may be used. -/
theorem is05Patch_commits (hset : is05Set s r e = some q) (hpage : reportingPage s q = some k) (hex : pageExists s k = true)
    (halias : aliasSet s k = some q) (hunarmed : s.pwr.armed = false) :
    (is05Activate r e ws s).queue = s.queue ++ [q] ∧ (cset (is05Activate r e ws s) q).st = .queued ∧
      (cset (is05Activate r e ws s) q).gen = ((cset s q).live + 1) % 65536 ∧
      (cset (is05Activate r e ws s) q).crc = crc32c (stagedWords (is05Activate r e ws s) (entryOf s q)) ∧
      q ∈ (is05Activate r e ws s).services.is05Sets ∧
      (is05Activate r e ws s).services = { s.services with is05Sets := NSet.add s.services.is05Sets q } ∧
      is05Activate r e ws s = { s with
        pages := (is05Activate r e ws s).pages, ctrs := (is05Activate r e ws s).ctrs, staged := (is05Activate r e ws s).staged
        sets := (is05Activate r e ws s).sets, queue := (is05Activate r e ws s).queue
        ic := { s.ic with inflight := (is05Activate r e ws s).ic.inflight }, services := (is05Activate r e ws s).services } := by
  have committed := is05Activate_commits hset hpage hex halias hunarmed ws
  have hframe := committed.frame
  have hservices : (is05Activate r e ws s).services = (is05Ready r e q ws s).services := by rw [hframe]
  have hstaged : stagedWords (is05Activate r e ws s) (entryOf s q) = stagedWords (is05Ready r e q ws s) (entryOf s q) := by
    refine stagedWords_congr ?_ (fun _ => ?_) (fun _ => ?_) _ <;> rw [hframe] <;> rfl
  refine ⟨?_, ?_, ?_, ?_, ?_, ?_, ?_⟩
  · rw [committed.queue, queue_is05Ready]
  · rw [committed.set]
  · rw [committed.set, cset_is05Ready]
  · rw [committed.set, hstaged]
  · rw [hservices]
    exact mem_is05Sets ..
  · rw [hservices, services_is05Ready]
  · have hready : is05Ready r e q ws s = { s with
        pages := (is05Ready r e q ws s).pages, staged := (is05Ready r e q ws s).staged
        ic := { s.ic with inflight := (is05Ready r e q ws s).ic.inflight }, services := (is05Ready r e q ws s).services } := by
      have moved := staging_is05Staged r e ws s
      rw [is05Ready]
      generalize is05Staged r e ws s = u at moved ⊢
      rw [moved]
    generalize is05Activate r e ws s = t at hframe ⊢
    rw [hready] at hframe
    rw [hframe]

end

/-- The part as a scheduled activation begins. -/
def activationBegun (x : Nat × Bool × Nat × List (Nat × Word)) (s : State) : State :=
  advance (x.1 - 3000000) { s with services := { s.services with is05Wait := s.services.is05Wait.erase x } }

theorem is05ActivationOp_of_due {s : State} {x : Nat × Bool × Nat × List (Nat × Word)} (h : firstDue s.services.is05Wait = some x) :
    is05ActivationOp s = is05Activate x.2.1 x.2.2.1 x.2.2.2 (activationBegun x s) := by
  simp only [is05ActivationOp, h]
  rfl

/-- A PATCH that acts at once. -/
theorem exec_is05Patch_atOnce {s : State} (hrun : inReset s = false) (hen : is05En (effW s) = true) (hactive : s.yoke.role ≠ roleActive)
    (hstandby : s.yoke.role ≠ roleStandby) (r : Bool) (e : Nat) (ws : List (Nat × Word)) :
    exec (.is05Patch r e ws false none) s = .next (is05Activate r e ws s) := by
  refine (next_whenUp hrun _).trans (congrArg _ ?_)
  rw [is05PatchOp, hen, if_neg (not_or.mpr ⟨hactive, hstandby⟩)]
  rfl

/-! ## Delay_Req -/

theorem ptpPort_modPtp (l : Nat) (f : PtpPort → PtpPort) (s : State) (k : Nat) :
    ptpPort (modPtp l f s) k = if k = l then f (ptpPort s l) else ptpPort s k := Tbl.get_set _ _ _ _ _

/-- A Delay_Req of port `l`. -/
def delayReqSent (l : Nat) (s : State) : State :=
  modPort l (fun p => { p with ptpQ := p.ptpQ ++ [{
    len := 90, release := s.time.now, seq := ((ptpPort s l).reqSeq + 1) % 65536
    ip := some (delayReqFrame (effW s) l (ptpPort s l).master (((ptpPort s l).reqSeq + 1) % 65536)) }] })
    (emit (.delayReq l (bitOf (effW s 0x148) 31) (((ptpPort s l).reqSeq + 1) % 65536))
      (modPtp l (fun p => { p with reqSeq := ((ptpPort s l).reqSeq + 1) % 65536, t3 := none, t4 := none }) s))

theorem delayReqOp_of_sends {l : Nat} {s : State} (hptp : ptpEn (effW s) = true) (hpart : bitOf (effW s 0x144) l = true)
    (hsends : portSends s l = true) : delayReqOp l s = delayReqSent l s := by
  have hmaster : (ptpPort (modPtp l (fun p => { p with reqSeq := ((ptpPort s l).reqSeq + 1) % 65536, t3 := none, t4 := none }) s) l).master =
      (ptpPort s l).master := by rw [ptpPort_modPtp, if_pos rfl]
  rw [delayReqOp, hptp, hpart, hsends]
  simp only [Bool.and_true, if_true, hmaster]
  rfl

theorem delayReqOp_silent {l : Nat} {s : State} (h : ptpEn (effW s) = false ∨ bitOf (effW s 0x144) l = false ∨ portSends s l = false) :
    delayReqOp l s = s := by
  refine if_neg ?_
  rcases h with h | h | h <;> simp [h]

theorem delayReqSent_holds (l : Nat) (s : State) :
    (delayReqSent l s).out = .delayReq l (bitOf (effW s 0x148) 31) (((ptpPort s l).reqSeq + 1) % 65536) :: s.out ∧
    (∃ q, (port (delayReqSent l s) l).ptpQ = (port s l).ptpQ ++ [q] ∧ q.len = 90 ∧ q.release = s.time.now ∧
      q.seq = ((ptpPort s l).reqSeq + 1) % 65536 ∧
      q.ip = some (delayReqFrame (effW s) l (ptpPort s l).master (((ptpPort s l).reqSeq + 1) % 65536))) ∧
    (∀ k, ptpPort (delayReqSent l s) k =
      if k = l then { ptpPort s l with reqSeq := ((ptpPort s l).reqSeq + 1) % 65536, t3 := none, t4 := none } else ptpPort s k) ∧
    (∀ k, k ≠ l → port (delayReqSent l s) k = port s k) ∧
    delayReqSent l s = { s with out := (delayReqSent l s).out, time := (delayReqSent l s).time, ports := (delayReqSent l s).ports } := by
  refine ⟨rfl, ⟨{ len := 90, release := s.time.now, seq := ((ptpPort s l).reqSeq + 1) % 65536
                  ip := some (delayReqFrame (effW s) l (ptpPort s l).master (((ptpPort s l).reqSeq + 1) % 65536)) }, ?_, rfl, rfl, rfl, rfl⟩,
    fun k => ptpPort_modPtp l (fun p => { p with reqSeq := ((ptpPort s l).reqSeq + 1) % 65536, t3 := none, t4 := none }) s k, fun k hk => ?_, rfl⟩
  · rw [delayReqSent, port_modPort, if_pos rfl]
    rfl
  · rw [delayReqSent, port_modPort, if_neg hk]
    rfl

/-! ## The obligation -/

/-- Settles O54: each service by the branches of its operation; an activation stages its words and commits through the firmware. -/
theorem servicesOfTheCores : Obligations.ServicesOfTheCores := by
  unfold Obligations.ServicesOfTheCores
  intro s hrun
  refine ⟨fun ok hen hann => ?_, fun ok h => ?_, fun r e ws ro x hoff => ?_, fun r e ws ro x hen hrole => ?_,
    fun hen hactive hstandby r e ws => ⟨fun x => ?_, fun x => ?_, fun hset => ?_, fun q k hset hpage hex halias hunarmed => ?_⟩,
    fun h => ?_, fun x r e ws hdue => ⟨firstDue_le hdue, fun hset => ?_, fun q k hset hpage hex halias hunarmed => ?_⟩,
    fun l hl hptp hpart hsends => ?_, fun l hl h => ?_, fun l hl => if_neg (by omega)⟩
  · refine ⟨_, next_whenUp hrun _, ?_⟩
    rw [nmosOp_heard hen hann]
    cases ok with
    | true =>
      obtain ⟨hout, hservices, hpages, hports, hframe⟩ := heartbeat_succeeds s
      exact ⟨hout, hservices, fun h => absurd h (by decide), fun _ => hpages, hports, hframe⟩
    | false =>
      obtain ⟨hout, hservices, hstruck, hcounted, hports, hframe⟩ := heartbeat_fails s
      exact ⟨hout, hservices, fun _ => ⟨hstruck, hcounted⟩, fun h => absurd h (by decide), hports, hframe⟩
  · refine (next_whenUp hrun _).trans ?_
    rw [nmosOp_silent h]
  · refine (next_whenUp hrun _).trans (congrArg _ (if_pos ?_))
    rw [hoff]
    rfl
  · refine (next_whenUp hrun _).trans (congrArg _ ?_)
    unfold is05PatchOp
    rw [hen, if_pos hrole]
    rfl
  · refine (next_whenUp hrun _).trans (congrArg _ ?_)
    unfold is05PatchOp
    rw [hen, if_neg (not_or.mpr ⟨hactive, hstandby⟩)]
    rfl
  · refine (next_whenUp hrun _).trans (congrArg _ ?_)
    rw [is05PatchOp, hen, if_neg (not_or.mpr ⟨hactive, hstandby⟩)]
    rfl
  · rw [exec_is05Patch_atOnce hrun hen hactive hstandby]
    exact is05Patch_refused hset
  · obtain ⟨hqueue, hst, hgen, hcrc, hmem, -, hframe⟩ := is05Patch_commits (ws := ws) hset hpage hex halias hunarmed
    exact ⟨_, exec_is05Patch_atOnce hrun hen hactive hstandby .., hqueue, hst, hgen, hcrc, hmem, hframe⟩
  · refine (next_whenUp hrun _).trans ?_
    rw [is05ActivationOp, h]
  · have begun : is05Set (activationBegun (x, r, e, ws) s) r e = none := hset
    refine ⟨_, next_whenUp hrun _, ?_⟩
    rw [is05ActivationOp_of_due hdue, is05Activate_refused begun]
    exact ⟨rfl, counted_bump_same 1 6 1 _, rfl, rfl, rfl⟩
  · have begun : is05Set (activationBegun (x, r, e, ws) s) r e = some q := hset
    obtain ⟨hqueue, hst, -, -, hmem, hservices, -⟩ := is05Patch_commits (ws := ws) begun hpage hex halias hunarmed
    refine ⟨_, next_whenUp hrun _, ?_⟩
    rw [is05ActivationOp_of_due hdue]
    refine ⟨hqueue, hst, ?_, hmem⟩
    rw [hservices]
    rfl
  · obtain ⟨hout, hframe, hptpPort, hports, hwhole⟩ := delayReqSent_holds l s
    refine ⟨_, _, (if_pos hl).trans (next_whenUp hrun _), rfl, ?_⟩
    rw [delayReqOp_of_sends hptp hpart hsends]
    exact ⟨hout, hframe, hptpPort, hports, hwhole⟩
  · refine (if_pos hl).trans ((next_whenUp hrun _).trans ?_)
    rw [delayReqOp_silent h]

end Sys2Proof.Laws
end

section
/-! The link and the function of the host (R426, R460, R477): what a change of either leaves, and the vectors that waited for it. -/

namespace Sys2Proof.Laws

open Sys2Proof Sys2Proof.Machine

/-! ## Vectors that pend -/

/-- From `s` to `t` the function has not changed, and every vector that pends for no mask of its own pends still. -/
structure VectorsWait (s t : State) : Prop where
  host : t.host = s.host
  pends : ∀ v, vectorMasked s v = false → vectorPends s v = true → vectorPends t v = true

theorem VectorsWait.refl (s : State) : VectorsWait s s := ⟨rfl, fun _ _ h => h⟩

theorem VectorsWait.trans {s t u : State} (h : VectorsWait s t) (g : VectorsWait t u) : VectorsWait s u where
  host := g.host.trans h.host
  pends v hv hp := g.pends v (by rw [vectorMasked, h.host]; exact hv) (h.pends v hv hp)

theorem VectorsWait.ite {s a b : State} {c : Prop} [Decidable c] (ha : VectorsWait s a) (hb : VectorsWait s b) :
    VectorsWait s (if c then a else b) := by
  split
  · exact ha
  · exact hb

theorem VectorsWait.foldl {α : Type} {f : State → α → State} (h : ∀ s a, VectorsWait s (f s a)) (l : List α) (s : State) :
    VectorsWait s (l.foldl f s) := by
  induction l generalizing s with
  | nil => exact .refl s
  | cons a l ih => exact (h s a).trans (ih (f s a))

/-- An operation that touches neither the function nor the vectors. -/
theorem VectorsWait.same {s t : State} (hhost : t.host = s.host) (hpend : t.ic.msixPend = s.ic.msixPend) : VectorsWait s t :=
  ⟨hhost, fun v _ hp => by rw [vectorPends, hpend]; exact hp⟩

theorem vectorsWait_raiseBit (k i : Nat) (s : State) : VectorsWait s (raiseBit k i s) := by
  have moved := raiseBit_frame k i s
  exact .same (by rw [moved]) (by rw [moved])

theorem vectorsWait_bump (k n x : Nat) (s : State) : VectorsWait s (bump k n x s) := .same rfl rfl

theorem vectorsWait_wakeRequest (d : Nat) (s : State) : VectorsWait s (wakeRequest d s) :=
  .ite (.same rfl rfl) (.ite (.same rfl rfl) (.same rfl rfl))

theorem vectorsWait_redirect (n : Nat) (s : State) : VectorsWait s (redirect n s) := by
  have redirected : VectorsWait s (modSrc n (fun x => { x with redir := true }) s) := .same rfl rfl
  exact (redirected.trans (vectorsWait_raiseBit ..)).trans (vectorsWait_bump ..)

/-- A masked vector that is presented pends; one that is not masked keeps what pends for it. -/
theorem vectorsWait_signalMsix (v t : Nat) (s : State) : VectorsWait s (signalMsix v t s) := by
  unfold signalMsix
  split
  · refine ⟨rfl, fun w _ hp => ?_⟩
    simp only [vectorPends, List.any_eq_true, decide_eq_true_eq] at hp ⊢
    obtain ⟨e, hmem, hw⟩ := hp
    by_cases he : e = (v, t)
    · exact ⟨(v, t), List.mem_append_right _ (List.mem_singleton.mpr rfl), by rw [← he, hw]⟩
    · exact ⟨e, List.mem_append_left _ (List.mem_filter.mpr ⟨hmem, decide_eq_true he⟩), hw⟩
  · exact .same rfl rfl

theorem vectorsWait_present (t n p : Nat) (s : State) : VectorsWait s (present t n p s) := by
  have presented : VectorsWait s { s with ic := { s.ic with presented := s.ic.presented.set (fun _ => 0) t (1 + 16 * n + p) } } := .same rfl rfl
  exact .ite (presented.trans (vectorsWait_signalMsix ..)) presented

theorem vectorsWait_presentSource (t n : Nat) (s : State) : VectorsWait s (presentSource t n s) := by
  unfold presentSource
  extract_lets x
  refine .ite (.refl s) ?_
  split
  · exact vectorsWait_present ..
  · exact .ite (vectorsWait_present ..) (.refl s)

theorem vectorsWait_presentTo (t : Nat) (s : State) : VectorsWait s (presentTo t s) := by
  unfold presentTo
  split
  · exact .refl s
  · exact vectorsWait_presentSource ..

theorem vectorsWait_enqueueWake (n t : Nat) (s : State) : VectorsWait s (enqueueWake n t s) := by
  have queued : VectorsWait s (bump pgIc 14 1 { s with ic := { s.ic with wakeQ := s.ic.wakeQ ++ [(n, t)] } }) := .same rfl rfl
  exact .ite ((vectorsWait_raiseBit ..).trans (vectorsWait_redirect ..)) (.ite (queued.trans (vectorsWait_wakeRequest ..)) queued)

theorem vectorsWait_evalIc (first : List (Nat × Nat)) (s : State) : VectorsWait s (evalIc first s) :=
  ((VectorsWait.foldl (fun s _ => .ite (vectorsWait_enqueueWake ..) (.refl s)) s.ic.srcs s).trans
    (.foldl (fun _ _ => vectorsWait_presentSource ..) _ _)).trans (.foldl (fun _ _ => vectorsWait_presentTo ..) _ _)

/-- Sources whose redirection a waking target ends (R433). -/
def redirectionsEnded (ts : List Nat) (l : List (Nat × Src)) (s : State) : State :=
  l.foldl (fun s e =>
    if e.2.redir && e.2.svc.isNone && ts.contains e.2.target && targetAsleep s e.2.fallback then
      modSrc e.1 (fun x => { x with redir := false }) s
    else s) s

/-- Targets' queued messages taken from the wake queue. -/
def queueLeft (ts : List Nat) (s : State) : State :=
  { s with ic := { s.ic with
    wakeQ := s.ic.wakeQ.filter (fun e => !ts.contains e.2)
    presented := s.ic.presented.filter (fun e => !ts.contains e.1) } }

theorem targetsWoke_eq (ts : List Nat) (s : State) : targetsWoke ts s =
    evalIc (s.ic.wakeQ.filter (fun e => ts.contains e.2)) (redirectionsEnded ts s.ic.srcs (queueLeft ts s)) := rfl

theorem vectorsWait_redirectionsEnded (ts : List Nat) (l : List (Nat × Src)) (s : State) : VectorsWait s (redirectionsEnded ts l s) :=
  .foldl (fun s e => by
    split
    · exact .same rfl rfl
    · exact .refl s) l s

theorem icSettled_redirectionsEnded (ts : List Nat) (l : List (Nat × Src)) (s : State) : IcSettled s (redirectionsEnded ts l s) :=
  .foldl (fun s _ => .ite (.uncounted (.modSrc _ _ _ fun _ => rfl) rfl) (.refl s)) l s

theorem vectorsWait_targetsWoke (ts : List Nat) (s : State) : VectorsWait s (targetsWoke ts s) := by
  have left : VectorsWait s (queueLeft ts s) := .same rfl rfl
  rw [targetsWoke_eq]
  exact (left.trans (vectorsWait_redirectionsEnded ..)).trans (vectorsWait_evalIc ..)

theorem icSettled_targetsWoke (ts : List Nat) (s : State) : IcSettled s (targetsWoke ts s) := by
  have left : IcSettled s (queueLeft ts s) :=
    .uncounted ⟨rfl, fun _ => rfl, fun _ _ => rfl, fun _ _ _ _ _ => rfl, fun _ h => ⟨h, Iff.rfl, rfl⟩⟩ rfl
  rw [targetsWoke_eq]
  exact (left.trans (icSettled_redirectionsEnded ..)).trans (icSettled_evalIc ..)

/-! ## Vectors sent -/

/-- The message of vector `v`, with the address and data of its table entry. -/
def vectorMessage (s : State) (v : Nat) : Out :=
  .msix v ((s.host.msixTab.get msixReset (4 * v + 1)).toNat * 2 ^ 32 + (s.host.msixTab.get msixReset (4 * v)).toNat)
    (s.host.msixTab.get msixReset (4 * v + 2))

/-- One vector flushed. -/
def vectorFlushed (s : State) (v : Nat) : State :=
  if vectorMasked s v then s
  else sendMsix v { s with ic := { s.ic with msixPend := s.ic.msixPend.filter (fun e => decide (e.1 ≠ v)) } }

theorem host_vectorFlushed (s : State) (v : Nat) : (vectorFlushed s v).host = s.host := by
  unfold vectorFlushed
  split <;> rfl

/-- Flushing a vector takes no message back and lets no vector pend. -/
theorem vectorFlushed_keeps (s : State) (v w : Nat) (o : Out) (hout : o ∈ s.out) (hpend : vectorPends s w = false) :
    o ∈ (vectorFlushed s v).out ∧ vectorPends (vectorFlushed s v) w = false := by
  unfold vectorFlushed
  split
  · exact ⟨hout, hpend⟩
  · refine ⟨List.mem_cons_of_mem _ hout, ?_⟩
    rw [vectorPends, List.any_eq_false] at hpend ⊢
    exact fun e he => hpend e (List.mem_filter.mp he).1

theorem vectorFlushed_sends {s : State} {v : Nat} (hv : vectorMasked s v = false) :
    vectorMessage s v ∈ (vectorFlushed s v).out ∧ vectorPends (vectorFlushed s v) v = false := by
  rw [vectorFlushed, if_neg (by rw [hv]; decide)]
  refine ⟨List.mem_cons_self .., ?_⟩
  rw [vectorPends, List.any_eq_false]
  intro e he
  exact (Bool.not_eq_true _).mpr (decide_eq_false (of_decide_eq_true (List.mem_filter.mp he).2))

theorem vectorsFlushed_keep (l : List Nat) (s : State) (w : Nat) (o : Out) (hout : o ∈ s.out) (hpend : vectorPends s w = false) :
    o ∈ (l.foldl vectorFlushed s).out ∧ vectorPends (l.foldl vectorFlushed s) w = false := by
  induction l generalizing s with
  | nil => exact ⟨hout, hpend⟩
  | cons v l ih =>
    obtain ⟨hout', hpend'⟩ := vectorFlushed_keeps s v w o hout hpend
    exact ih _ hout' hpend'

theorem vectorsFlushed_send {l : List Nat} {s : State} {v : Nat} (hmem : v ∈ l) (hv : vectorMasked s v = false) :
    vectorMessage s v ∈ (l.foldl vectorFlushed s).out ∧ vectorPends (l.foldl vectorFlushed s) v = false := by
  induction l generalizing s with
  | nil => exact absurd hmem List.not_mem_nil
  | cons w l ih =>
    have hhost := host_vectorFlushed s w
    rcases List.mem_cons.mp hmem with rfl | hmem
    · obtain ⟨hout, hpend⟩ := vectorFlushed_sends hv
      exact vectorsFlushed_keep l _ v _ hout hpend
    · have hsame : vectorMessage (vectorFlushed s w) v = vectorMessage s v := by rw [vectorMessage, vectorMessage, hhost]
      rw [← hsame]
      exact ih hmem (by rw [vectorMasked, hhost]; exact hv)

/-- A vector that pends and is not masked is sent, with the address and data of its entry (R426). -/
theorem flushMsix_sends {s : State} {v : Nat} (hp : vectorPends s v = true) (hv : vectorMasked s v = false) :
    vectorMessage s v ∈ (flushMsix s).out ∧ vectorPends (flushMsix s) v = false := by
  refine vectorsFlushed_send ?_ hv
  rw [List.mem_eraseDups]
  obtain ⟨e, hmem, he⟩ := List.any_eq_true.mp hp
  exact List.mem_map.mpr ⟨e, hmem, of_decide_eq_true he⟩

/-! ## A change of the function -/

/-- What precedes the flush. -/
def functionEvaluated (s0 s : State) : State := if !hostAwake s0 && hostAwake s then targetsWoke hostTargets s else evalIc [] s

theorem functionChanged_eq (s0 s : State) : functionChanged s0 s =
    if hostAwake (functionEvaluated s0 s) then flushMsix (functionEvaluated s0 s) else functionEvaluated s0 s := rfl

theorem vectorsWait_functionEvaluated (s0 s : State) : VectorsWait s (functionEvaluated s0 s) :=
  .ite (vectorsWait_targetsWoke ..) (vectorsWait_evalIc ..)

theorem icKept_functionChanged (s0 s : State) : IcKept s (functionChanged s0 s) := by
  have evaluated : IcKept s (functionEvaluated s0 s) := (IcSettled.ite (icSettled_targetsWoke ..) (icSettled_evalIc ..)).toIcKept
  rw [functionChanged_eq]
  split
  · exact evaluated.trans (.flushMsix _)
  · exact evaluated

/-- Vectors that waited for the function are sent as it changes. -/
theorem functionChanged_sends {s0 s : State} (hawake : hostAwake s = true) {v : Nat} (hp : vectorPends s v = true)
    (hv : vectorMasked s v = false) : vectorMessage s v ∈ (functionChanged s0 s).out ∧ vectorPends (functionChanged s0 s) v = false := by
  have waits := vectorsWait_functionEvaluated s0 s
  have hsame : vectorMessage (functionEvaluated s0 s) v = vectorMessage s v := by rw [vectorMessage, vectorMessage, waits.host]
  rw [functionChanged_eq, if_pos (by rw [hostAwake, waits.host]; exact hawake), ← hsame]
  exact flushMsix_sends (waits.pends v hv hp) (by rw [vectorMasked, waits.host]; exact hv)

theorem host_functionChanged (s0 s : State) : (functionChanged s0 s).host = s.host := by rw [(icKept_functionChanged s0 s).frame]

/-! ## The link -/

theorem linkWidth_fits {w : Nat} (h : 0 < w) : linkWidth w ∈ [1, 2, 4, 8] ∧ linkWidth w ≤ w ∧ (8 ≤ w ∨ w < 2 * linkWidth w) := by
  simp only [linkWidth, List.mem_cons, List.not_mem_nil, or_false]
  split
  · omega
  split
  · omega
  split <;> omega

/-- The link up, before anything is evaluated (R460, R477). -/
def linkFormed (sp w : Nat) (fl : Bool) (s : State) : State :=
  { s with host := { s.host with up := true, speed := min 6 sp, width := linkWidth w, flit := fl || decide (6 ≤ sp) } }

theorem linkUp_of_down {s : State} {sp w : Nat} (fl : Bool) (hdown : s.host.up = false) (hsp : 0 < sp) (hw : 0 < w) :
    linkUp sp w fl s = functionChanged s (raiseBit pgHost 0 (linkFormed sp w fl s)) := by
  refine if_neg ?_
  rw [hdown]
  simp only [Bool.false_eq_true, false_or]
  omega

/-- What the interrupt controller moves. -/
theorem IcKept.whole {s t : State} (h : IcKept s t) :
    t = { s with out := t.out, pwr := t.pwr, pages := t.pages, ctrs := t.ctrs, ic := t.ic } := by
  have moved := h.frame
  generalize hout : t.out = o, t.pages = p, t.ctrs = c at moved
  rw [moved]

theorem link_comesUp {s : State} (hrun : inReset s = false) {sp w : Nat} (fl : Bool) (hdown : s.host.up = false) (hsp : 0 < sp) (hw : 0 < w) :
    ∃ t, exec (.pcieLinkUp sp w fl) s = .next t ∧ Struck 1 0 s t ∧
      t.host = { s.host with up := true, speed := t.host.speed, width := t.host.width, flit := t.host.flit } ∧
      t.host.speed = min 6 sp ∧ t.host.width ∈ [1, 2, 4, 8] ∧ t.host.width ≤ w ∧ (8 ≤ w ∨ w < 2 * t.host.width) ∧
      (t.host.flit = true ↔ fl = true ∨ 6 ≤ sp) ∧
      (∀ n, src t n = { src s n with redir := (src t n).redir }) ∧
      t = { s with out := t.out, pwr := t.pwr, pages := t.pages, ctrs := t.ctrs, ic := t.ic, host := t.host } := by
  have raised := raiseBit_frame pgHost 0 (linkFormed sp w fl s)
  have hhost : (raiseBit pgHost 0 (linkFormed sp w fl s)).host = (linkFormed sp w fl s).host := by rw [raised]
  have kept := icKept_functionChanged s (raiseBit pgHost 0 (linkFormed sp w fl s))
  obtain ⟨hmem, hle, hmost⟩ := linkWidth_fits hw
  have hend : (functionChanged s (raiseBit pgHost 0 (linkFormed sp w fl s))).host = (linkFormed sp w fl s).host :=
    (host_functionChanged ..).trans hhost
  refine ⟨_, next_whenUp hrun _, ?_⟩
  rw [linkUp_of_down fl hdown hsp hw]
  refine ⟨?_, ?_, ?_, ?_, ?_, ?_, ?_, fun n => ?_, ?_⟩
  · have struck := struck_of_pages (k := pgHost) (i := 0) (s := s) (u := linkFormed sp w fl s) (by decide) rfl
    obtain ⟨hstat, hagain⟩ := struck
    have hpage := kept.page 1 (by decide)
    exact ⟨by rw [hpage]; exact hstat, by rw [hpage]; exact hagain⟩
  · rw [hend]; rfl
  · rw [hend]; rfl
  · rw [hend]; exact hmem
  · rw [hend]; exact hle
  · rw [hend]; exact hmost
  · rw [hend]
    simp [linkFormed]
  · have hsrc : src (raiseBit pgHost 0 (linkFormed sp w fl s)) n = src s n := by rw [raised]; rfl
    rw [← hsrc]
    exact kept.srcs n
  · have whole := kept.whole
    generalize functionChanged s (raiseBit pgHost 0 (linkFormed sp w fl s)) = t at whole ⊢
    rw [raised] at whole
    rw [whole]
    rfl

/-! ## Configuration writes -/

/-- The function as a configuration write sets it. -/
def functionSet (en fm bm d3 : Bool) (s : State) : State :=
  { s with host := { s.host with msixEn := en, funcMask := fm, busMaster := bm, d3hot := d3 } }

theorem config_takes {s : State} (hrun : inReset s = false) (en fm bm d3 : Bool) (hup : s.host.up = true) :
    ∃ t, exec (.pcieConfigWrite en fm bm d3) s = .next t ∧
      t.host = { s.host with msixEn := en, funcMask := fm, busMaster := bm, d3hot := d3 } ∧
      (∀ n, src t n = { src s n with redir := (src t n).redir }) ∧
      (∀ v, vectorPends s v = true → en = true → fm = false → bm = true →
        bitOf (s.host.msixTab.get msixReset (4 * v + 3)) 0 = false →
        .msix v ((s.host.msixTab.get msixReset (4 * v + 1)).toNat * 2 ^ 32 + (s.host.msixTab.get msixReset (4 * v)).toNat)
          (s.host.msixTab.get msixReset (4 * v + 2)) ∈ t.out ∧ vectorPends t v = false) ∧
      (∀ k, k ≠ 2 → page t k = page s k) ∧
      t = { s with out := t.out, pwr := t.pwr, pages := t.pages, ctrs := t.ctrs, ic := t.ic, host := t.host } := by
  have kept := icKept_functionChanged s (functionSet en fm bm d3 s)
  have hwhole : configWrite en fm bm d3 s = functionChanged s (functionSet en fm bm d3 s) := if_pos hup
  refine ⟨_, next_whenUp hrun _, ?_⟩
  rw [hwhole]
  refine ⟨host_functionChanged .., kept.srcs, fun v hp hen hfm hbm hbit => ?_, kept.page, ?_⟩
  · refine functionChanged_sends (s0 := s) (s := functionSet en fm bm d3 s) ?_ hp ?_
    · rw [hostAwake, functionSet, hup, hen]
      rfl
    · rw [vectorMasked, functionSet, hfm, hbm]
      exact hbit
  · have whole := kept.whole
    generalize functionChanged s (functionSet en fm bm d3 s) = t at whole ⊢
    rw [whole]
    rfl

end Sys2Proof.Laws
end

section
/-! The load of the stored sets (R479–R481), and the obligation of the host's function and the boot load. -/

namespace Sys2Proof.Laws

open Sys2Proof Sys2Proof.Machine

/-! ## An entry written under the load -/

/-- The first `n` words of entry `q` written. -/
def entryWords (q : Nat) (ew : List Word) (n : Nat) (s : State) : State :=
  (List.range n).foldl (fun s i => writeEntry q i (ew.getD i 0) s) s

section

variable {q : Nat} (hq : q < 1024) (ew : List Word) {s : State} (hfree : setBusy s q = false)
include hq hfree

/-- Words written to the entry of a set that is not busy are in the commit table, and nothing else has changed. -/
theorem entryWords_eq {n : Nat} (hn : n ≤ 14) : entryWords q ew n s = { s with ctab := (entryWords q ew n s).ctab } ∧
    ∀ a, (entryWords q ew n s).ctab.get (fun _ => 0) a =
      if 16 * q ≤ a ∧ a < 16 * q + n then ew.getD (a - 16 * q) 0 &&& 0xFFFFFFFE else s.ctab.get (fun _ => 0) a := by
  induction n with
  | zero => exact ⟨rfl, fun a => (if_neg (by omega)).symm⟩
  | succ n ih =>
    obtain ⟨hframe, hget⟩ := ih (by omega)
    have hbusy : setBusy (entryWords q ew n s) q = false := by
      rw [hframe]
      exact hfree
    have hstep : entryWords q ew (n + 1) s = writeEntry q n (ew.getD n 0) (entryWords q ew n s) := by
      rw [entryWords, List.range_succ, List.foldl_append]
      rfl
    rw [hstep, writeEntry_of_free hq (by omega) hbusy]
    refine ⟨?_, fun a => ?_⟩
    · generalize entryWords q ew n s = u at hframe ⊢
      rw [hframe]
    · refine (Tbl.get_set _ _ _ _ _).trans ?_
      by_cases ha : a = 16 * q + n
      · rw [if_pos ha, if_pos (by omega), ha, Nat.add_sub_cancel_left]
      · rw [if_neg ha, hget]
        by_cases hin : 16 * q ≤ a ∧ a < 16 * q + n
        · rw [if_pos hin, if_pos (by omega)]
        · rw [if_neg hin, if_neg (by omega)]

end

/-! ## The stored words staged -/

theorem staging_raiseBit (k i : Nat) (s : State) : Staging s (raiseBit k i s) := by
  have moved := raiseBit_frame k i s
  have hstaged : (raiseBit k i s).staged = s.staged := by rw [moved]
  rw [Staging, hstaged]
  exact moved

theorem staging_stagePage (k off : Nat) (v : Word) (s : State) : Staging s (stagePage k off v s) := by
  unfold stagePage
  extract_lets a
  split
  · rfl
  split
  · exact staging_raiseBit ..
  · rfl

theorem staging_stageRecord (e words : List Word) (s : State) : Staging s (stageRecord e words s) :=
  staging_foldl (fun s x => by
    split
    · exact staging_stagePage ..
    · exact staging_stageTable ..) _ s

/-! ## A commit of the firmware that is not refused for the life cycle -/

/-- From `s` to `t` sets, flags and counters have moved. -/
abbrev Committing (s t : State) : Prop :=
  t = { s with pages := t.pages, ctrs := t.ctrs, sets := t.sets, queue := t.queue, ic := { s.ic with inflight := t.ic.inflight } }

theorem Committing.trans {s t u : State} (h : Committing s t) (g : Committing t u) : Committing s u := by
  rw [Committing] at h g
  rw [h] at g
  exact g

theorem SetsMoved.committing {s t : State} (h : SetsMoved s t) : Committing s t := by
  have moved := h
  rw [SetsMoved] at moved
  generalize hc : t.ctrs = c, t.sets = x, t.queue = l at moved
  rw [moved]

theorem committing_raiseBit (k i : Nat) (s : State) : Committing s (raiseBit k i s) := by
  have moved := raiseBit_frame k i s
  generalize raiseBit k i s = t at moved ⊢
  rw [moved]

theorem committing_raiseReport (q i : Nat) (s : State) : Committing s (raiseReport q i s) := by
  unfold raiseReport atReport
  split
  · rfl
  · dsimp only
    split
    · exact committing_raiseBit ..
    · rfl

theorem committing_firmwareCommit {s : State} (hunarmed : s.pwr.armed = false) (q : Nat) (crc : Word) :
    Committing s (firmwareCommit q crc s) := by
  unfold firmwareCommit
  split
  · rfl
  · next k hk =>
    refine Committing.trans (setsMoved_modSet q (fun c => { c with crc := crc }) s).committing ?_
    have hstill : (modSet q (fun c => { c with crc := crc }) s).pwr.armed = false := hunarmed
    generalize modSet q (fun c => { c with crc := crc }) s = u at hstill ⊢
    cases hex : pageExists u k with
    | false =>
      rw [commitWrite, hex]
      rfl
    | true =>
      cases halias : aliasSet u k with
      | none =>
        rw [commitWrite_of_noSet hex _ halias]
        exact committing_raiseBit ..
      | some p =>
        cases hbusy : setBusy u p with
        | true =>
          rw [commitWrite_of_busy hex _ halias hbusy]
          exact committing_raiseReport ..
        | false =>
          rw [commitWrite_of_free hex _ halias hbusy hstill]
          exact SetsMoved.committing ((setsMoved_noted ..).trans ((setsMoved_queued ..).trans (setsMoved_modSet ..)))

/-! ## The boot load -/

/-- The load has come to a set. -/
def bootAt (q : Nat) (s : State) : State := { s with host := { s.host with boot := bootCommitting, bootSet := q } }

/-- The stored set staged, with its entry. -/
def recordStaged (q : Nat) (ew sw : List Word) (s : State) : State := stageRecord ew sw (entryWords q ew 14 (bootAt q s))

theorem bootWaitOp_of_due {q : Nat} {ew sw : List Word} {crc : Word} {rest : List (Nat × List Word × List Word × Word)} {s : State}
    (hboot : s.host.boot = 1) (hlist : s.host.bootList = (q, ew, sw, crc) :: rest)
    (hdue : (membersOf false ew).all (ready s) = true ∨ s.pwr.originAt + 1000000000 ≤ s.time.now) :
    bootWaitOp s = firmwareCommit q crc (recordStaged q ew sw s) := by
  have hgo : ¬ ((!(membersOf false ew).all (ready s) && decide (s.time.now < s.pwr.originAt + 1000000000)) = true) := by
    rw [Bool.and_eq_true, Bool.not_eq_true', decide_eq_true_eq]
    rintro ⟨hno, hlt⟩
    rcases hdue with h | h
    · rw [hno] at h
      exact absurd h (by decide)
    · omega
  unfold bootWaitOp
  split
  · next hnil =>
    rw [hnil] at hlist
    exact absurd hlist.symm (List.cons_ne_nil _ _)
  · next x l hx =>
    obtain ⟨rfl, -⟩ := List.cons.inj (hx.symm.trans hlist)
    rw [if_neg (not_not_intro (show s.host.boot = bootWaiting from hboot)), if_neg hgo]
    rfl

theorem bootWaitOp_of_waiting {q : Nat} {ew sw : List Word} {crc : Word} {rest : List (Nat × List Word × List Word × Word)} {s : State}
    (hlist : s.host.bootList = (q, ew, sw, crc) :: rest) (hno : (membersOf false ew).all (ready s) = false)
    (hlt : s.time.now < s.pwr.originAt + 1000000000) : bootWaitOp s = s := by
  simp only [bootWaitOp, hlist]
  split
  · rfl
  · rw [hno, decide_eq_true hlt]
    rfl

theorem bootWaitOp_idle {s : State} (h : s.host.boot ≠ 1 ∨ s.host.bootList = []) : bootWaitOp s = s := by
  unfold bootWaitOp
  split
  · rfl
  · next hlist =>
    refine if_pos (h.resolve_right fun hnil => ?_)
    rw [hnil] at hlist
    exact absurd hlist.symm (List.cons_ne_nil _ _)

section

variable {q : Nat} {ew sw : List Word} {crc : Word} {s : State} (hq : q < 1024) (hfree : setBusy s q = false) (hunarmed : s.pwr.armed = false)
include hq hfree hunarmed

omit hunarmed in
/-- What the state is before the set commits. -/
theorem recordStaged_holds : (recordStaged q ew sw s).host = { s.host with boot := 2, bootSet := q } ∧
    (∀ a, (recordStaged q ew sw s).ctab.get (fun _ => 0) a = if 16 * q ≤ a ∧ a < 16 * q + 14 then ew.getD (a - 16 * q) 0 &&& 0xFFFFFFFE
      else s.ctab.get (fun _ => 0) a) ∧
    recordStaged q ew sw s = { s with
      pages := (recordStaged q ew sw s).pages, staged := (recordStaged q ew sw s).staged, ctab := (recordStaged q ew sw s).ctab
      ic := { s.ic with inflight := (recordStaged q ew sw s).ic.inflight }, host := { s.host with boot := 2, bootSet := q } } := by
  obtain ⟨hentry, hget⟩ := entryWords_eq hq ew (s := bootAt q s) hfree (n := 14) (le_refl 14)
  have hstaged : Staging (entryWords q ew 14 (bootAt q s)) (recordStaged q ew sw s) := staging_stageRecord ..
  generalize entryWords q ew 14 (bootAt q s) = u at hentry hget hstaged
  generalize recordStaged q ew sw s = t at hstaged ⊢
  rw [hentry, Staging] at hstaged
  refine ⟨by rw [hstaged]; rfl, fun a => ?_, ?_⟩
  · rw [hstaged]
    exact hget a
  · rw [hstaged]
    rfl

/-- A set that its turn has come to is written, staged and committed (R479). -/
theorem record_commits : (firmwareCommit q crc (recordStaged q ew sw s)).host = { s.host with boot := 2, bootSet := q } ∧
    (∀ a, (firmwareCommit q crc (recordStaged q ew sw s)).ctab.get (fun _ => 0) a =
      if 16 * q ≤ a ∧ a < 16 * q + 14 then ew.getD (a - 16 * q) 0 &&& 0xFFFFFFFE else s.ctab.get (fun _ => 0) a) ∧
    (∀ k, reportingPage (firmwareCommit q crc (recordStaged q ew sw s)) q = some k → pageExists s k = true →
      aliasSet (firmwareCommit q crc (recordStaged q ew sw s)) k = some q →
      (firmwareCommit q crc (recordStaged q ew sw s)).queue = s.queue ++ [q] ∧
      (cset (firmwareCommit q crc (recordStaged q ew sw s)) q).st = .queued ∧
      (cset (firmwareCommit q crc (recordStaged q ew sw s)) q).crc = crc ∧
      (cset (firmwareCommit q crc (recordStaged q ew sw s)) q).gen = ((cset s q).live + 1) % 65536 ∧
      (∀ r, r ≠ q → cset (firmwareCommit q crc (recordStaged q ew sw s)) r = cset s r)) ∧
    (firmwareCommit q crc (recordStaged q ew sw s)).live = s.live ∧ (firmwareCommit q crc (recordStaged q ew sw s)).eff = s.eff := by
  obtain ⟨hhost, hget, hframe⟩ := recordStaged_holds (ew := ew) (sw := sw) hq hfree
  generalize recordStaged q ew sw s = u at hhost hget hframe ⊢
  have hstill : u.pwr.armed = false := by rw [hframe]; exact hunarmed
  have moved := committing_firmwareCommit hstill q crc
  refine ⟨by rw [moved]; exact hhost, fun a => by rw [moved]; exact hget a, fun k hpage hex halias => ?_, ?_, ?_⟩
  · have hpage' : reportingPage u q = some k := by
      rw [moved] at hpage
      exact hpage
    have halias' : aliasSet u k = some q := by
      rw [moved] at halias
      exact halias
    have hex' : pageExists u k = true := by rw [hframe]; exact hex
    have hcset : ∀ j, cset u j = cset s j := fun j => by rw [hframe]; rfl
    have hnotBusy : setBusy u q = false := by rw [setBusy, hcset]; exact hfree
    have committed := firmwareCommit_of_free hpage' hex' halias' hnotBusy hstill crc
    refine ⟨?_, ?_, ?_, ?_, fun r hr => (committed.others r hr).trans (hcset r)⟩
    · rw [committed.queue, hframe]
    · rw [committed.set]
    · rw [committed.set]
    · rw [committed.set, hcset]
  · rw [moved, hframe]
  · rw [moved, hframe]

end

/-! ## The obligation -/

/-- Settles O53: a change of the function settles delivery and sends what waited; a stored set is written, staged and committed. -/
theorem hostFunctionAndBootLoad : Obligations.HostFunctionAndBootLoad := by
  unfold Obligations.HostFunctionAndBootLoad
  intro s hrun
  refine ⟨fun v => ⟨rfl, rfl, rfl, rfl, ?_⟩, fun sp w fl => link_comesUp hrun fl, fun sp w fl h => ?_, fun en fm bm d3 => config_takes hrun en fm bm d3,
    fun en fm bm d3 hdown => ?_, fun x rest hready hpresent hboot hlist => ?_, fun h => ?_,
    fun q ew sw crc rest hboot hlist hq hfree hunarmed hdue => ?_, fun q ew sw crc rest hlist hno hlt => ?_, fun h => ?_,
    fun v hv => ?_, fun v hv => ?_, fun v hv hboot => ?_, fun v hv hboot => ?_, fun v h => ?_⟩
  · simp [pciFunction]
  · exact (next_whenUp hrun _).trans (congrArg _ (if_pos h))
  · refine (next_whenUp hrun _).trans (congrArg _ (if_neg ?_))
    rw [hdown]
    decide
  · refine (next_whenUp hrun _).trans (congrArg _ ?_)
    have hgo : ¬ ((!(ready s pgFw) || !s.fw.present || decide (s.host.boot ≠ bootIdle)) = true) := by
      rw [show pgFw = 5 from rfl, hready, hpresent, hboot]
      decide
    rw [bootStartOp, if_neg hgo]
    simp only [hlist]
    rfl
  · refine (next_whenUp hrun _).trans (congrArg _ (if_pos ?_))
    rw [Bool.or_eq_true, Bool.or_eq_true, Bool.not_eq_true', Bool.not_eq_true', decide_eq_true_eq, or_assoc]
    exact h
  · refine ⟨_, next_whenUp hrun _, ?_⟩
    rw [bootWaitOp_of_due hboot hlist hdue]
    exact record_commits hq hfree hunarmed
  · refine (next_whenUp hrun _).trans ?_
    rw [bootWaitOp_of_waiting hlist hno hlt]
  · refine (next_whenUp hrun _).trans ?_
    rw [bootWaitOp_idle h]
  · exact (next_whenUp hrun _).trans (congrArg _ (if_pos hv))
  · exact (next_whenUp hrun _).trans (congrArg _ (if_neg (by rw [hv]; decide)))
  · exact (next_whenUp hrun _).trans (congrArg _ ((if_pos hv).trans (if_pos hboot)))
  · have hnot : s.host.boot ≠ bootWaiting := by rw [hboot]; decide
    exact (next_whenUp hrun _).trans (congrArg _ ((if_pos hv).trans ((if_neg hnot).trans (if_pos hboot))))
  · refine (next_whenUp hrun _).trans (congrArg _ ?_)
    rcases h with hv | ⟨h1, h2⟩
    · exact if_neg (by rw [hv]; decide)
    · have hstill : bootAbortOp s = s := (if_neg h1).trans (if_neg h2)
      rw [guard', hstill, ite_self]

end Sys2Proof.Laws
end

section
/-! Votes and decisions (R365–R367): a set decided leaves the yoke's own state, so the frame that was sent with it stands. -/

namespace Sys2Proof.Laws

open Sys2Proof Sys2Proof.Machine

/-! ## Operations that leave the yoke -/

/-- From `s` to `t` the yoke's state stands, and nothing that was sent is taken back. -/
structure YokeStands (s t : State) : Prop where
  yoke : t.yoke = s.yoke
  out : ∃ l, t.out = l ++ s.out

theorem YokeStands.refl (s : State) : YokeStands s s := ⟨rfl, [], rfl⟩

theorem YokeStands.trans {s t u : State} (h : YokeStands s t) (g : YokeStands t u) : YokeStands s u where
  yoke := g.yoke.trans h.yoke
  out := by
    obtain ⟨l, hl⟩ := h.out
    obtain ⟨m, hm⟩ := g.out
    exact ⟨m ++ l, by rw [hm, hl, List.append_assoc]⟩

theorem YokeStands.ite {s a b : State} {c : Prop} [Decidable c] (ha : YokeStands s a) (hb : YokeStands s b) :
    YokeStands s (if c then a else b) := by
  split
  · exact ha
  · exact hb

theorem YokeStands.foldl {α : Type} {f : State → α → State} (h : ∀ s a, YokeStands s (f s a)) (l : List α) (s : State) :
    YokeStands s (l.foldl f s) := by
  induction l generalizing s with
  | nil => exact .refl s
  | cons a l ih => exact (h s a).trans (ih (f s a))

/-- A change of other fields. -/
theorem YokeStands.same {s t : State} (hyoke : t.yoke = s.yoke) (hout : t.out = s.out) : YokeStands s t := ⟨hyoke, [], hout⟩

section

variable {s t : State} (h : YokeStands s t)
include h

theorem YokeStands.raised (k i : Nat) : YokeStands s (raiseBit k i t) := by
  have moved := raiseBit_frame k i t
  exact h.trans (.same (by rw [moved]) (by rw [moved]))

theorem YokeStands.bumped (k n x : Nat) : YokeStands s (bump k n x t) := h.trans (.same rfl rfl)

theorem YokeStands.reported (q i : Nat) : YokeStands s (raiseReport q i t) := by
  unfold raiseReport atReport
  split
  · exact h
  · exact .ite (h.raised ..) h

/-- A reliable frame that was sent still stands. -/
theorem YokeStands.relSent {m : YMsg} {s0 : State} (hsent : RelSent m s0 s) : RelSent m s0 t := by
  obtain ⟨hseq, hmem, hout⟩ := hsent
  obtain ⟨l, hl⟩ := h.out
  rw [RelSent, h.yoke, hl]
  exact ⟨hseq, hmem, fun k hk => List.mem_append_right _ (hout k hk)⟩

end

theorem yokeStands_rateConds (d : Nat) (s0 s : State) : YokeStands s (rateConds d s0 s) := by
  have raised : ∀ (c : Bool) (i : Nat) (u : State), YokeStands u (if c then raiseBit (pgMc d) i u else u) := fun _ i u =>
    .ite ((YokeStands.refl u).raised ..) (.refl u)
  have alarmed : ∀ (c : Bool) (u : State), YokeStands u (if c then bump (pgMc d) 7 1 (raiseBit (pgMc d) 3 u) else u) := fun _ u =>
    .ite (((YokeStands.refl u).raised ..).bumped ..) (.refl u)
  exact ((raised _ 2 s).trans (alarmed _ _)).trans (raised _ 4 _)

theorem yokeStands_noteEngineLost (d : Nat) (s0 s : State) : YokeStands s (noteEngineLost d s0 s) :=
  .ite ((YokeStands.refl s).raised ..) (.refl s)

theorem yokeStands_modMc (d : Nat) (f : Mc → Mc) (s : State) : YokeStands s (modMc d f s) := .same rfl rfl

theorem yokeStands_modDsp (d : Nat) (f : Dsp → Dsp) (s : State) : YokeStands s (modDsp d f s) := .same rfl rfl

theorem yokeStands_admitLive (s0 s : State) : YokeStands s (admitLive s0 s) :=
  .foldl (fun _ d => (((yokeStands_modMc ..).trans (yokeStands_modDsp ..)).trans (yokeStands_noteEngineLost d s0 _)).trans
    (yokeStands_rateConds d s0 _)) _ s

theorem yokeStands_takeWaitsAll (s : State) : YokeStands s (takeWaitsAll s) := by
  refine .foldl (fun s l => ?_) _ s
  exact .same rfl rfl

theorem yokeStands_bootChecked (q : Nat) (p : Bool) (s : State) : YokeStands s (bootChecked q p s) := by
  unfold bootChecked
  split
  · exact .refl s
  · refine .ite (.refl s) (.ite (.raised ?_ ..) (.ite ?_ ?_))
    · exact .same rfl rfl
    · exact .same rfl rfl
    split
    · exact .same rfl rfl
    · refine .ite (.trans (.raised ?_ 1 2) (.same rfl rfl)) (.raised ?_ ..)
      all_goals exact .same rfl rfl

theorem yokeStands_is05Checked (q : Nat) (p : Bool) (s : State) : YokeStands s (is05Checked q p s) := by
  refine .ite (.ite ⟨rfl, ?_⟩ ⟨rfl, ?_⟩) (.refl s)
  · exact ⟨[_], rfl⟩
  · exact ⟨[_], rfl⟩

theorem yokeStands_failSet (q cause a : Nat) (s : State) : YokeStands s (failSet q cause a s) := by
  have marked : YokeStands s (bump 0 (16 + cause) 1 (bump 0 2 1 (modSet q (refusedSet cause a) s))) := .same rfl rfl
  have reported := marked.reported q 30
  have struck : ∀ u, YokeStands u (if cause = causeYoke then raiseBit pgYoke 9 u else u) := fun u =>
    .ite ((YokeStands.refl u).raised ..) (.refl u)
  have freed : ∀ u : State, YokeStands u { u with checking := if u.checking = some q then none else u.checking } := fun _ => .same rfl rfl
  exact (((reported.trans (struck _)).trans (freed _)).trans (yokeStands_bootChecked q false _)).trans (yokeStands_is05Checked q false _)

theorem yokeStands_applySet (q gen e : Nat) (s : State) : YokeStands s (applySet q gen e s) := by
  have lived : YokeStands s { s with live := candidate s (cset s q).entry, checking := none } := .same rfl rfl
  have marked : ∀ (l : List Nat) (u : State),
      YokeStands u (l.foldl (fun s k => modPage k (fun h => { h with dirty := false, base := gen }) s) u) := fun l u => by
    refine .foldl (fun s k => ?_) l u
    exact .same rfl rfl
  have waiting : ∀ (w : List (Nat × Option Nat)) (u : State), YokeStands u { u with waits := w } := fun _ _ => .same rfl rfl
  have passed : ∀ u, YokeStands u (modSet q (passedSet gen e) u) := fun _ => .same rfl rfl
  have powers : ∀ u, YokeStands u (powerNeeded u) := fun _ => .same rfl rfl
  refine .trans ?_ (yokeStands_takeWaitsAll _)
  refine .trans ?_ (yokeStands_is05Checked q true _)
  refine .trans ?_ (yokeStands_bootChecked q true _)
  refine .trans ?_ (powers _)
  refine .trans ?_ (yokeStands_admitLive s _)
  exact (((lived.trans (marked _ _)).trans (passed _)).trans (waiting _ _)).bumped ..

/-! ## A mismatch strikes the yoke's page -/

/-- A set refused for the yoke strikes SET_MISMATCH (R365). -/
theorem mismatch_strikes (q a : Nat) (s : State) : bitOf (page (failSet q causeYoke a s) 7).stat 9 = true := by
  have kept : ∀ u : State, FlagsKept u (is05Checked q false (bootChecked q false u)) := fun u =>
    (flagsKept_bootChecked_refused q u).trans (flagsKept_is05Checked q false _)
  have struck : ∀ u : State, bitOf (page (raiseBit pgYoke 9 u) 7).stat 9 = true := fun u =>
    bitOf_of_struck (by decide) (struck_raiseBit pgYoke (by decide) u)
  exact (kept _).bits 7 9 (struck (raiseReport q 30 (bump 0 (16 + causeYoke) 1 (bump 0 2 1 (modSet q (refusedSet causeYoke a) s)))))

end Sys2Proof.Laws
end

section
/-! What a VOTE and a DECIDE do with a set under check (R365–R367), and the obligation of the decisions. -/

namespace Sys2Proof.Laws

open Sys2Proof Sys2Proof.Machine

/-- From `s` to `t` frames have come and gone: what was sent, the yoke's state, its lanes and their counters have moved. -/
abbrev FramesMoved (s t : State) : Prop := t = { s with out := t.out, ctrs := t.ctrs, yoke := t.yoke, lanes := t.lanes }

theorem framesMoved_sendRel (m : YMsg) {s x : State} (h : FramesMoved s x) : FramesMoved s (sendRel m x) := by
  have sent := (framesSent_sendRel m x).frame
  rw [FramesMoved] at h
  generalize sendRel m x = t at sent ⊢
  rw [h] at sent
  rw [sent]

section

variable {s t : State} (h : FramesMoved s t)
include h

theorem FramesMoved.cset (q : Nat) : cset t q = cset s q := by rw [h]; rfl

theorem FramesMoved.candidate (e : List Word) : candidate t e = candidate s e := by rw [h]; rfl

theorem FramesMoved.domainsMissing (x : Tbl Word) : domainsMissing t x = domainsMissing s x := by rw [h]; rfl

theorem FramesMoved.checking : t.checking = s.checking := by rw [h]

theorem FramesMoved.words : t.live = s.live ∧ t.staged = s.staged := by rw [h]; exact ⟨rfl, rfl⟩

/-- A set that passes with its domains up, whatever frames have moved (R63). -/
theorem passSet_decided {q g e : Nat} (hup : Machine.domainsMissing s (Machine.candidate s (Machine.cset s q).entry) = []) :
    passSet q g e t = applySet q g e t ∧ (Machine.cset (applySet q g e t) q).st = .apply ∧ (Machine.cset (applySet q g e t) q).live = g ∧
      (Machine.cset (applySet q g e t) q).effect = e ∧ (Machine.cset (applySet q g e t) q).gen = (Machine.cset s q).gen ∧
      (applySet q g e t).live = Machine.candidate s (Machine.cset s q).entry ∧ (applySet q g e t).checking = none := by
  refine ⟨if_pos ?_, ?_, ?_, ?_, ?_, ?_, ?_⟩
  · rw [h.cset, h.candidate, h.domainsMissing]
    exact hup
  · rw [cset_applySet]
    rfl
  · rw [cset_applySet]
    rfl
  · rw [cset_applySet]
    rfl
  · rw [cset_applySet, h.cset]
    rfl
  · have words := congrArg (fun x => x.2.1) (words_applySet q g e t)
    rw [h.cset, h.candidate] at words
    exact words
  · exact (setsKept_applySet q g e t).checking

/-- A set refused for the yoke, whatever frames have moved. -/
theorem failSet_decided {q a : Nat} (hcheck : s.checking = some q) :
    (Machine.cset (failSet q causeYoke a t) q).st = .failed ∧ (Machine.cset (failSet q causeYoke a t) q).cause = causeYoke ∧
      (failSet q causeYoke a t).live = s.live ∧ (failSet q causeYoke a t).staged = s.staged ∧ (failSet q causeYoke a t).checking = none ∧
      bitOf (page (failSet q causeYoke a t) 7).stat 9 = true := by
  obtain ⟨hlive, hstaged⟩ := h.words
  obtain ⟨hlive', hstaged', -⟩ := words_kept_failSet q causeYoke a t
  refine ⟨?_, ?_, hlive'.trans hlive, hstaged'.trans hstaged, checking_failSet causeYoke a (h.checking.trans hcheck), mismatch_strikes q a t⟩
  · rw [cset_failSet]
    rfl
  · rw [cset_failSet]
    rfl

end

/-! ## The VOTE that is held -/

/-- The state with a frame of header `h` taken in its turn. -/
def frameTaken (h : YHdr) (s : State) : State := { s with yoke := takenTurn h s.yoke }

/-- A VOTE held: the last one of its set. -/
def voteHeld (v : Vote) (s : State) : State :=
  { s with yoke := { s.yoke with votes := s.yoke.votes.filter (fun e => decide (e.2.set ≠ v.set)) ++ [(s.time.now, v)] } }

/-- The VOTE of set `q` decided on. -/
def voteTaken (q : Nat) (s : State) : State :=
  { s with yoke := { s.yoke with votes := s.yoke.votes.filter (fun e => decide (e.2.set ≠ q)) } }

theorem find_voteHeld (v : Vote) (s : State) :
    (voteHeld v s).yoke.votes.find? (fun e => decide (e.2.set = v.set)) = some (s.time.now, v) := by
  have hnone : (s.yoke.votes.filter (fun e => decide (e.2.set ≠ v.set))).find? (fun e => decide (e.2.set = v.set)) = none := by
    rw [List.find?_eq_none]
    intro e he hset
    exact of_decide_eq_true (List.mem_filter.mp he).2 (of_decide_eq_true hset)
  rw [voteHeld, List.find?_append, hnone]
  simp

/-- A VOTE that agrees with the set under check (R365). -/
abbrev Agrees (v : Vote) (c : CSet) : Prop := v.gen = c.gen ∧ v.crc = c.crc ∧ v.tcrc = entryCrc c.entry ∧ v.result = 0

theorem decideVote_of_held {q : Nat} {v : Vote} {s : State} (hq : v.set = q) (hnew : (cset s q).began ≤ s.time.now + 2000000) :
    decideVote q (voteHeld v s) =
      if Agrees v (cset s q) then
        passSet q (cset s q).gen (furrowFrom (s.time.now + 100000))
          (sendRel (.decide q (cset s q).gen 0 (furrowFrom (s.time.now + 100000))) (voteTaken q (voteHeld v s)))
      else
        failSet q causeYoke (ploc ((reportingPage s q).getD 0) 0x44) (sendRel (.decide q (cset s q).gen 1 0) (voteTaken q (voteHeld v s))) := by
  have hfind := find_voteHeld v s
  rw [hq] at hfind
  simp only [decideVote, hfind]
  exact if_neg (Nat.not_lt.mpr hnew)

/-- The set under check is decided as its VOTE comes. -/
theorem voteOp_of_checking {q g : Nat} {crc tcrc : Word} {live res : Nat} {s : State} (hactive : s.yoke.role = roleActive)
    (hcheck : s.checking = some q) (hst : (cset s q).st = .check) (hphase : (cset s q).phase = .vote) :
    voteOp q g crc tcrc live res s = decideVote q (voteHeld { set := q, gen := g, crc := crc, tcrc := tcrc, live := live, result := res } s) := by
  have hqueued : setQueued s q = true := by
    rw [setQueued, hst]
    rfl
  have hno : ¬ ((!setQueued s q && decide (crc = liveSum s q)) = true) := by
    rw [hqueued]
    simp
  rw [voteOp, if_neg (not_not_intro hactive), if_neg hno]
  exact if_pos ⟨hcheck, hphase⟩

/-- A set that the standby lost is caught up (R367). -/
theorem voteOp_of_lost {q g : Nat} {crc tcrc : Word} {live res : Nat} {s : State} (hactive : s.yoke.role = roleActive)
    (hidle : setQueued s q = false) (hcrc : crc = liveSum s q) :
    voteOp q g crc tcrc live res s = sendRel (.decide q (cset s q).live 2 0) s := by
  have hyes : (!setQueued s q && decide (crc = liveSum s q)) = true := by
    rw [hidle, decide_eq_true hcrc]
    rfl
  rw [voteOp, if_neg (not_not_intro hactive), if_pos hyes]

theorem decideOp_of_waiting {q g o e : Nat} {s : State} (hwait : awaitsDecide s q = true) : decideOp q g o e s =
    if o = 2 then passSet q g 0 s else if o = 0 ∧ g = (cset s q).gen then passSet q g e s else mismatch q s := by
  rw [decideOp, hwait]
  rfl

theorem decideOp_of_idle {q g o e : Nat} {s : State} (hwait : awaitsDecide s q = false) : decideOp q g o e s = s := by
  rw [decideOp, hwait]
  rfl

theorem checking_of_awaitsDecide {q : Nat} {s : State} (hwait : awaitsDecide s q = true) : s.checking = some q := by
  rw [awaitsDecide, Bool.and_eq_true, Bool.and_eq_true, decide_eq_true_eq, decide_eq_true_eq] at hwait
  exact hwait.1.2

/-! ## A VOTE in its turn -/

/-- The state with a VOTE of header `h` taken in its turn and decided on. -/
def voteTurn (v : Vote) (h : YHdr) (s : State) : State := voteTaken v.set (voteHeld v (frameTaken h s))

/-- A VOTE taken moves the yoke's state alone, and sends nothing. -/
theorem voteTurn_yoke (v : Vote) (h : YHdr) (s : State) :
    ∃ y : Yoke, y.seqTx = s.yoke.seqTx ∧ voteTurn v h s = { s with yoke := y } := by
  refine ⟨(voteTurn v h s).yoke, rfl, ?_⟩
  unfold voteTurn voteTaken voteHeld frameTaken
  rfl

theorem framesMoved_voteTurn (v : Vote) (h : YHdr) (s : State) : FramesMoved s (voteTurn v h s) := by
  obtain ⟨y, -, hturn⟩ := voteTurn_yoke v h s
  rw [hturn]

/-- A decision sent as a VOTE is taken is sent from the state before. -/
theorem relSent_of_voteTurn {v : Vote} {h : YHdr} {s t : State} {q g o e : Nat}
    (hsent : RelSent (.decide q g o e) (voteTurn v h s) t) : RelSent (.decide q g o e) s t := by
  obtain ⟨y, hseq, hturn⟩ := voteTurn_yoke v h s
  rw [hturn] at hsent
  obtain ⟨hnext, hmem, hout⟩ := hsent
  exact ⟨hnext.trans (congrArg (· + 1) hseq), hmem, hout⟩

/-- The set under check is decided on its VOTE (R365, R366). -/
theorem voteOp_inTurn {v : Vote} {h : YHdr} {s : State} (hactive : s.yoke.role = roleActive) (hcheck : s.checking = some v.set)
    (hst : (cset s v.set).st = .check) (hphase : (cset s v.set).phase = .vote)
    (hnew : (cset s v.set).began ≤ s.time.now + 2000000) :
    voteOp v.set v.gen v.crc v.tcrc v.live v.result (frameTaken h s) =
      if Agrees v (cset s v.set) then
        passSet v.set (cset s v.set).gen (furrowFrom (s.time.now + 100000))
          (sendRel (.decide v.set (cset s v.set).gen 0 (furrowFrom (s.time.now + 100000))) (voteTurn v h s))
      else
        failSet v.set causeYoke (ploc ((reportingPage s v.set).getD 0) 0x44)
          (sendRel (.decide v.set (cset s v.set).gen 1 0) (voteTurn v h s)) :=
  (voteOp_of_checking (s := frameTaken h s) hactive hcheck hst hphase).trans
    (decideVote_of_held (v := v) (s := frameTaken h s) rfl hnew)

section

variable {s : State} {q : Nat} (hrun : inReset s = false) {h : YHdr}
include hrun

theorem vote_passes {g : Nat} {tcrc : Word} {live : Nat} (hturn : InTurn s h) (hactive : s.yoke.role = roleActive)
    (hcheck : s.checking = some q) (hst : (cset s q).st = .check) (hphase : (cset s q).phase = .vote)
    (hnew : (cset s q).began ≤ s.time.now + 2000000) (hg : g = (cset s q).gen) (ht : tcrc = entryCrc (cset s q).entry)
    (hup : domainsMissing s (candidate s (cset s q).entry) = []) :
    ∃ t, exec (.voteFrame h q g (cset s q).crc tcrc live 0) s = .next t ∧ (cset t q).st = .apply ∧ (cset t q).live = g ∧
      (cset t q).effect = furrowFrom (s.time.now + 100000) ∧ t.live = candidate s (cset s q).entry ∧
      RelSent (.decide q g 0 (furrowFrom (s.time.now + 100000))) s t := by
  subst hg
  have hdone := voteOp_inTurn (v := ⟨q, (cset s q).gen, (cset s q).crc, tcrc, live, 0⟩) (h := h) hactive hcheck hst hphase hnew
  rw [if_pos ⟨rfl, rfl, ht, rfl⟩] at hdone
  have start := framesMoved_voteTurn ⟨q, (cset s q).gen, (cset s q).crc, tcrc, live, 0⟩ h s
  have sent := relSent_of_voteTurn (relSent_sendRel (.decide q (cset s q).gen 0 (furrowFrom (s.time.now + 100000)))
    (voteTurn ⟨q, (cset s q).gen, (cset s q).crc, tcrc, live, 0⟩ h s))
  generalize voteTurn ⟨q, (cset s q).gen, (cset s q).crc, tcrc, live, 0⟩ h s = x at hdone start sent
  have moved := framesMoved_sendRel (.decide q (cset s q).gen 0 (furrowFrom (s.time.now + 100000))) start
  obtain ⟨hpass, hst', hlive, heffect, -, hwords, -⟩ :=
    passSet_decided moved (g := (cset s q).gen) (e := furrowFrom (s.time.now + 100000)) hup
  exact ⟨_, (next_whenUp hrun _).trans (congrArg _ ((rxRel_of_inTurn hturn _).trans (hdone.trans hpass))), hst', hlive, heffect, hwords,
    (yokeStands_applySet ..).relSent sent⟩

theorem vote_fails {g : Nat} {crc tcrc : Word} {live res : Nat} (hturn : InTurn s h) (hactive : s.yoke.role = roleActive)
    (hcheck : s.checking = some q) (hst : (cset s q).st = .check) (hphase : (cset s q).phase = .vote)
    (hnew : (cset s q).began ≤ s.time.now + 2000000)
    (hno : ¬ (g = (cset s q).gen ∧ crc = (cset s q).crc ∧ tcrc = entryCrc (cset s q).entry ∧ res = 0)) :
    ∃ t, exec (.voteFrame h q g crc tcrc live res) s = .next t ∧ (cset t q).st = .failed ∧ (cset t q).cause = causeYoke ∧
      t.live = s.live ∧ RelSent (.decide q (cset s q).gen 1 0) s t ∧ bitOf (page t 7).stat 9 = true := by
  have hdone := voteOp_inTurn (v := ⟨q, g, crc, tcrc, live, res⟩) (h := h) hactive hcheck hst hphase hnew
  rw [if_neg hno] at hdone
  have start := framesMoved_voteTurn ⟨q, g, crc, tcrc, live, res⟩ h s
  have sent := relSent_of_voteTurn (relSent_sendRel (.decide q (cset s q).gen 1 0) (voteTurn ⟨q, g, crc, tcrc, live, res⟩ h s))
  generalize voteTurn ⟨q, g, crc, tcrc, live, res⟩ h s = x at hdone start sent
  have moved := framesMoved_sendRel (.decide q (cset s q).gen 1 0) start
  obtain ⟨hst', hcause, hlive, -, -, hbit⟩ := failSet_decided moved (a := ploc ((reportingPage s q).getD 0) 0x44) hcheck
  exact ⟨_, (next_whenUp hrun _).trans (congrArg _ ((rxRel_of_inTurn hturn _).trans hdone)), hst', hcause, hlive,
    (yokeStands_failSet ..).relSent sent, hbit⟩

theorem vote_catchesUp {g : Nat} {crc tcrc : Word} {live res : Nat} (hturn : InTurn s h) (hactive : s.yoke.role = roleActive)
    (hidle : setQueued s q = false) (hcrc : crc = liveSum s q) :
    ∃ t, exec (.voteFrame h q g crc tcrc live res) s = .next t ∧ RelSent (.decide q (cset s q).live 2 0) s t ∧
      t = { s with out := t.out, ctrs := t.ctrs, yoke := t.yoke, lanes := t.lanes } := by
  have sent := relSent_sendRel (.decide q (cset s q).live 2 0) (frameTaken h s)
  have moved : FramesMoved s (sendRel (.decide q (cset s q).live 2 0) (frameTaken h s)) := framesMoved_sendRel _ rfl
  refine ⟨_, (next_whenUp hrun _).trans (congrArg _ ((rxRel_of_inTurn hturn _).trans
    (voteOp_of_lost (s := frameTaken h s) hactive hidle hcrc))), ?_, moved⟩
  obtain ⟨hseq, hmem, hout⟩ := sent
  exact ⟨hseq, hmem, hout⟩

end

/-! ## The obligation -/

/-- Settles O39: each frame acts on the state that took it; a decision leaves the yoke, and a frame leaves the sets. -/
theorem setsAreDecidedTogether : Obligations.SetsAreDecidedTogether := by
  unfold Obligations.SetsAreDecidedTogether
  intro s q hrun
  have taken : ∀ h, FramesMoved s (frameTaken h s) := fun _ => rfl
  refine ⟨fun h g tcrc live => vote_passes hrun, fun h g crc tcrc live res => vote_fails hrun, fun h g crc tcrc live res => vote_catchesUp hrun,
    fun h e hturn hwait hup => ?_, fun h g hturn hwait hup => ?_, fun h g hturn hwait => ?_, fun h e hturn hidle => ?_,
    fun hcheck hactive hphase => ?_, fun hcheck hphase => ?_, fun hnone => ⟨?_, ?_⟩⟩
  · obtain ⟨hpass, hst, hlive, heffect, -, hwords, hchecking⟩ := passSet_decided (taken h) (g := (cset s q).gen) (e := e) hup
    have hdone : decideOp q (cset s q).gen 0 e (frameTaken h s) = applySet q (cset s q).gen e (frameTaken h s) := by
      rw [decideOp_of_waiting (s := frameTaken h s) hwait, if_neg (by decide), ← hpass]
      exact if_pos ⟨rfl, rfl⟩
    exact ⟨_, (next_whenUp hrun _).trans (congrArg _ ((rxRel_of_inTurn hturn _).trans hdone)), hst, hlive, heffect, hwords, hchecking⟩
  · obtain ⟨hpass, hst, hlive, heffect, hgen, hwords, -⟩ := passSet_decided (taken h) (g := g) (e := 0) hup
    have hdone : decideOp q g 2 0 (frameTaken h s) = applySet q g 0 (frameTaken h s) := by
      rw [decideOp_of_waiting (s := frameTaken h s) hwait, if_pos rfl, ← hpass]
    exact ⟨_, (next_whenUp hrun _).trans (congrArg _ ((rxRel_of_inTurn hturn _).trans hdone)), hst, hlive, heffect, hgen, hwords⟩
  · have hdone : decideOp q g 1 0 (frameTaken h s) = mismatch q (frameTaken h s) := by
      rw [decideOp_of_waiting (s := frameTaken h s) hwait, if_neg (by decide), if_neg (fun hp => absurd hp.1 (by decide))]
    exact ⟨_, (next_whenUp hrun _).trans (congrArg _ ((rxRel_of_inTurn hturn _).trans hdone)),
      failSet_decided (taken h) (checking_of_awaitsDecide hwait)⟩
  · refine ⟨_, (next_whenUp hrun _).trans (congrArg _ ((rxRel_of_inTurn hturn _).trans (decideOp_of_idle (s := frameTaken h s) hidle))), rfl⟩
  · have moved : FramesMoved s (sendRel (.decide q (cset s q).gen 1 0) s) := framesMoved_sendRel _ rfl
    have hdone : voteTimeoutOp s = mismatch q (sendRel (.decide q (cset s q).gen 1 0) s) := by
      simp only [voteTimeoutOp, hcheck]
      exact if_pos ⟨hactive, hphase⟩
    obtain ⟨hst, hcause, hlive, -⟩ := failSet_decided moved
      (a := ploc ((reportingPage (sendRel (.decide q (cset s q).gen 1 0) s) q).getD 0) 0x44) hcheck
    exact ⟨_, (next_whenUp hrun _).trans (congrArg _ hdone), hst, hcause, hlive,
      (yokeStands_failSet ..).relSent (relSent_sendRel (.decide q (cset s q).gen 1 0) s)⟩
  · have hdone : decideTimeoutOp s = mismatch q s := by
      simp only [decideTimeoutOp, hcheck]
      exact if_pos hphase
    obtain ⟨hst, hcause, hlive, -⟩ := failSet_decided (s := s) (t := s) rfl (a := ploc ((reportingPage s q).getD 0) 0x44) hcheck
    exact ⟨_, (next_whenUp hrun _).trans (congrArg _ hdone), hst, hcause, hlive⟩
  · refine (next_whenUp hrun _).trans ?_
    rw [voteTimeoutOp, hnone]
  · refine (next_whenUp hrun _).trans ?_
    rw [decideTimeoutOp, hnone]

end Sys2Proof.Laws
end

section
/-! Equaliser writes, READAPT and the eye scan (R451–R455). -/

namespace Sys2Proof.Laws

open Sys2Proof Sys2Proof.Machine

/-! ## A lane block's registers -/

section

variable {d b : Nat} {s : State} (hrun : inReset s = false)
include hrun

/-- A write to a block that exists acts on its lane. -/
theorem atBlock_of_lane {l : Nat} (hd : d < dies s) (hb : blockLane d b = some l) (k : Nat → State → State) : atBlock d b s k = .next (k l s) := by
  rw [atBlock, whenUp_of_running hrun, if_pos hd, hb]

/-- A write to one that does not is discarded (R450). -/
theorem atBlock_of_none (h : dies s ≤ d ∨ blockLane d b = none) (k : Nat → State → State) : atBlock d b s k = .next s := by
  rw [atBlock, whenUp_of_running hrun]
  rcases h with h | h
  · rw [if_neg (by omega)]
  · rw [h]
    split <;> rfl

end

/-! ## PHY_TXEQ -/

/-- The word that a write to `PHY_TXEQ` leaves, over an old word. -/
def txeqWord (v old : Word) : Word :=
  (v &&& 0x8F1F3F1F) ||| BitVec.ofNat 32 ((if 1 ≤ fld v 30 28 ∧ fld v 30 28 ≤ 5 then fld v 30 28 else fld old 30 28) * 2 ^ 28)

theorem fld_preset_lt (v : Word) : fld v 30 28 < 8 := Nat.mod_lt _ (by decide)

/-- The preset field lies apart from the taps. -/
theorem taps_of_preset {p : Nat} (hp : p < 8) (v : Word) :
    ((v &&& 0x8F1F3F1F) ||| BitVec.ofNat 32 (p * 2 ^ 28)) &&& 0x8F1F3F1F = v &&& 0x8F1F3F1F := by
  have apart : ∀ q < 8, BitVec.ofNat 32 (q * 2 ^ 28) &&& (0x8F1F3F1F : Word) = 0 := by decide
  rw [BitVec.and_or_distrib_right, BitVec.and_assoc, apart p hp, BitVec.and_self]
  exact BitVec.or_zero

theorem preset_of_preset {p : Nat} (hp : p < 8) (v : Word) : fld ((v &&& 0x8F1F3F1F) ||| BitVec.ofNat 32 (p * 2 ^ 28)) 30 28 = p := by
  have own : ∀ q < 8, (BitVec.ofNat 32 (q * 2 ^ 28)).toNat / 2 ^ 28 = q := by decide
  have taps : (0x8F1F3F1F : Word).toNat / 2 ^ 28 % 2 ^ 3 = 0 := by decide
  rw [fld, Nat.shiftRight_eq_div_pow, BitVec.toNat_or, BitVec.toNat_and, Nat.or_div_two_pow, Nat.and_div_two_pow, own p hp, Nat.or_mod_two_pow, Nat.and_mod_two_pow, taps,
    Nat.and_zero, Nat.zero_or, Nat.mod_eq_of_lt hp]

theorem writeTxeq_of_fitting {v : Word} (h : tapSum v ≤ 24) (l : Nat) (s : State) :
    writeTxeq l v s = modLane l (fun x => { x with txeq := txeqWord v (lane s l).txeq }) s :=
  if_neg (Nat.not_lt.mpr h)

theorem txeqWord_holds (v old : Word) : txeqWord v old &&& 0x8F1F3F1F = v &&& 0x8F1F3F1F ∧
    fld (txeqWord v old) 30 28 = if 1 ≤ fld v 30 28 ∧ fld v 30 28 ≤ 5 then fld v 30 28 else fld old 30 28 := by
  have hp : (if 1 ≤ fld v 30 28 ∧ fld v 30 28 ≤ 5 then fld v 30 28 else fld old 30 28) < 8 := by
    split
    · exact fld_preset_lt v
    · exact fld_preset_lt old
  exact ⟨taps_of_preset hp v, preset_of_preset hp v⟩

/-! ## READAPT -/

/-- The lane with the bits of `PHY_RXEQ`. -/
def rxeqWritten (v : Word) (x : Lane) : Lane := { x with freeze := bitOf v 31, noPre := bitOf v 29, rerun := x.rerun || bitOf v 30 }

theorem writeRxeq_of_bits {v : Word} (h : bitOf v 30 = false) (l : Nat) (s : State) : writeRxeq l v s = modLane l (rxeqWritten v) s :=
  if_neg (by rw [h]; decide)

theorem rxeqWritten_of_bits {v : Word} (h : bitOf v 30 = false) (x : Lane) : rxeqWritten v x = { x with freeze := bitOf v 31, noPre := bitOf v 29 } := by
  rw [rxeqWritten, h, Bool.or_false]

/-- A lane with a signal locks again on READAPT (R452). -/
theorem writeRxeq_of_readapt {v : Word} {l : Nat} {s : State} (h : bitOf v 30 = true) (hst : (lane s l).st ∈ [2, 3, 4, 5]) : writeRxeq l v s =
    modLane l (fun x => { x with converged := false }) (laneTo l stLocking (modLane l (rxeqWritten v) s)) := by
  have hold : (lane (modLane l (rxeqWritten v) s) l).st = (lane s l).st := by
    rw [lane_modLane_self]
    rfl
  refine (if_pos h).trans (if_pos ?_)
  simp only [List.mem_cons, List.not_mem_nil, or_false] at hst
  change (lane (modLane l (rxeqWritten v) s) l).st = 4 ∨ (lane (modLane l (rxeqWritten v) s) l).st = 3 ∨
    (lane (modLane l (rxeqWritten v) s) l).st = 5 ∨ (lane (modLane l (rxeqWritten v) s) l).st = 2
  rw [hold]
  omega

theorem readapted {v : Word} {l : Nat} {s : State} (h : bitOf v 30 = true) (hst : (lane s l).st ∈ [2, 3, 4, 5]) :
    (lane (writeRxeq l v s) l).st = 2 ∧ (lane (writeRxeq l v s) l).converged = false ∧ (lane (writeRxeq l v s) l).freeze = bitOf v 31 ∧
      (lane (writeRxeq l v s) l).noPre = bitOf v 29 ∧ (lane (writeRxeq l v s) l).rerun = true ∧ LaneEvent l s (writeRxeq l v s) := by
  have hlane := sameLane_entered l (st := stLocking) (by decide) (modLane l (rxeqWritten v) s)
  rw [lane_modLane_self] at hlane
  rw [writeRxeq_of_readapt h hst]
  have kept := ((laneMoved_modLane l (rxeqWritten v) s).trans (laneMoved_unconverged l _)).toLaneKept
  refine ⟨?_, ?_, ?_, ?_, ?_, laneEvent_of_kept kept⟩ <;> rw [lane_modLane_self, hlane]
  · rfl
  · rfl
  · rfl
  · change ((lane s l).rerun || bitOf v 30) = true
    rw [h, Bool.or_true]

/-! ## The eye scan -/

/-- The lane with the dwell and the eye of `PHY_EYE_CTRL`. -/
def eyeSet (v : Word) (x : Lane) : Lane :=
  { x with
    dwell := if 10 ≤ fld v 20 16 ∧ fld v 20 16 ≤ 30 then fld v 20 16 else x.dwell
    eye := if fld v 9 8 = 3 then x.eye else fld v 9 8 }

/-- A scan begun. -/
def scanBegun (x : Lane) : Lane := { x with busy := true, done := false, aborted := false, cells := 0, cellData := [], scanEye := x.eye }

theorem writeEye_starts {v : Word} {l : Nat} {s : State} (hno : bitOf v 1 = false) (hgo : bitOf v 0 = true) (hidle : (lane s l).busy = false) :
    writeEye l v s = modLane l scanBegun (modLane l (eyeSet v) s) := by
  have hstill : (lane (modLane l (eyeSet v) s) l).busy = false := by
    rw [lane_modLane_self]
    exact hidle
  refine (if_neg (by rw [hno]; decide)).trans (if_pos ?_)
  rw [hgo]
  change (true && !(lane (modLane l (eyeSet v) s) l).busy) = true
  rw [hstill]
  rfl

theorem writeEye_aborts {v : Word} {l : Nat} {s : State} (hgo : bitOf v 1 = true) (hbusy : (lane s l).busy = true) : writeEye l v s =
    raiseBit (diePageOf l) 1 (modLane l (fun x => { x with busy := false, aborted := true }) (modLane l (eyeSet v) s)) := by
  have hstill : (lane (modLane l (eyeSet v) s) l).busy = true := by
    rw [lane_modLane_self]
    exact hbusy
  exact (if_pos hgo).trans (if_pos hstill)

/-- The lane with one more cell counted. -/
def cellCounted (n : Nat) (x : Lane) : Lane :=
  { x with cellData := x.cellData.set (fun _ => 0) x.cells (min n 65535), cells := x.cells + 1 }

/-- The zero cells of the grid along its middle column and its middle row (R454). -/
def eyeHeight (x : Lane) : Nat := zeroSpan (fun r => cellAt x r 32)
def eyeWidth (x : Lane) : Nat := zeroSpan (fun c => cellAt x 32 c)

/-- A scan that is complete, with the margin of `y`. -/
def scanEnded (y x : Lane) : Lane :=
  { x with busy := false, done := true, margin := BitVec.ofNat 32 (x.scanEye * 2 ^ 30 + eyeHeight y * 2 ^ 8 + eyeWidth y) }

section

variable {l : Nat} {s : State} (hbusy : (lane s l).busy = true)
include hbusy

theorem eyeCell_more (n : Nat) (hmore : (lane s l).cells ≠ 4095) : eyeCell l n s = modLane l (cellCounted n) s := by
  have hcells : (lane (modLane l (cellCounted n) s) l).cells = (lane s l).cells + 1 := by
    rw [lane_modLane_self]
    rfl
  refine (if_pos hbusy).trans (if_neg ?_)
  change (lane (modLane l (cellCounted n) s) l).cells ≠ 4096
  omega

theorem eyeCell_last (n : Nat) (hlast : (lane s l).cells = 4095) : eyeCell l n s =
    raiseBit (diePageOf l) 0 (modLane l (scanEnded (cellCounted n (lane s l))) (modLane l (cellCounted n) s)) := by
  have hlane := lane_modLane_self l (cellCounted n) s
  have hcells : (lane (modLane l (cellCounted n) s) l).cells = 4096 := by
    rw [hlane, cellCounted, hlast]
  refine (if_pos hbusy).trans ((if_pos hcells).trans ?_)
  rw [← hlane]
  rfl

end

theorem runUp_le (f : Nat → Nat) (n i : Nat) : runUp f n i ≤ n := by
  induction n generalizing i with
  | zero => exact le_refl 0
  | succ n ih =>
    rw [runUp]
    split
    · have := ih (i + 1)
      omega
    · omega

theorem runDown_le (f : Nat → Nat) (i : Nat) : runDown f i ≤ i + 1 := by
  induction i with
  | zero =>
    rw [runDown]
    split <;> omega
  | succ i ih =>
    rw [runDown]
    split <;> omega

theorem zeroSpan_le (f : Nat → Nat) : zeroSpan f ≤ 64 := by
  have hup := runUp_le f 32 32
  have hdown := runDown_le f 31
  rw [zeroSpan]
  split <;> omega

/-- The margin names the eye that was scanned (R454). -/
theorem fld_margin (e : Nat) {hgt wid : Nat} (hh : hgt ≤ 64) (hw : wid ≤ 64) :
    fld (BitVec.ofNat 32 (e * 2 ^ 30 + hgt * 2 ^ 8 + wid)) 31 30 = e % 4 := by
  rw [fld, Nat.shiftRight_eq_div_pow, BitVec.toNat_ofNat]
  omega

/-- A state in which a lane's record has changed, with an event of its die. -/
theorem laneStruck (l i : Nat) (hi : i < 32) {s u : State} (hpages : u.pages = s.pages) (hothers : ∀ m, m ≠ l → lane u m = lane s m)
    (hframe : u = { s with lanes := u.lanes }) :
    Struck (diePageOf l) i s (raiseBit (diePageOf l) i u) ∧ (∀ m, m ≠ l → lane (raiseBit (diePageOf l) i u) m = lane s m) ∧
      raiseBit (diePageOf l) i u = { s with
        pages := (raiseBit (diePageOf l) i u).pages, lanes := (raiseBit (diePageOf l) i u).lanes
        ic := { s.ic with inflight := (raiseBit (diePageOf l) i u).ic.inflight } } := by
  refine ⟨struck_of_pages hi hpages, fun m hm => (lane_raiseBit ..).trans (hothers m hm), ?_⟩
  have moved := raiseBit_frame (diePageOf l) i u
  generalize raiseBit (diePageOf l) i u = t at moved ⊢
  rw [hframe] at moved
  rw [moved]

/-! ## The obligation -/

theorem lane_modLane_twice (l : Nat) (f g : Lane → Lane) (s : State) (m : Nat) :
    lane (modLane l g (modLane l f s)) m = if m = l then g (f (lane s l)) else lane s m := by
  rw [lane_modLane, lane_modLane_self]
  split
  · rfl
  · next h => rw [lane_modLane, if_neg h]

theorem eyeScan_completes {l : Nat} {s : State} (hbusy : (lane s l).busy = true) (hlast : (lane s l).cells = 4095) (n : Nat) :
    (lane (eyeCell l n s) l).busy = false ∧ (lane (eyeCell l n s) l).done = true ∧ (lane (eyeCell l n s) l).cells = 4096 ∧
      Struck (diePageOf l) 0 s (eyeCell l n s) ∧ (∀ m, m ≠ l → lane (eyeCell l n s) m = lane s m) ∧
      fld (lane (eyeCell l n s) l).margin 31 30 = (lane s l).scanEye % 4 ∧
      eyeCell l n s = { s with pages := (eyeCell l n s).pages, lanes := (eyeCell l n s).lanes
                               ic := { s.ic with inflight := (eyeCell l n s).ic.inflight } } := by
  have hlane := lane_modLane_twice l (cellCounted n) (scanEnded (cellCounted n (lane s l))) s
  have hown := (hlane l).trans (if_pos rfl)
  rw [eyeCell_last hbusy n hlast]
  obtain ⟨hstruck, hothers, hframe⟩ := laneStruck l 0 (by decide)
    (u := modLane l (scanEnded (cellCounted n (lane s l))) (modLane l (cellCounted n) s)) (s := s) rfl
    (fun m hm => (hlane m).trans (if_neg hm)) rfl
  refine ⟨?_, ?_, ?_, hstruck, hothers, ?_, hframe⟩ <;> rw [lane_raiseBit, hown]
  · rfl
  · rfl
  · rw [scanEnded, cellCounted, hlast]
  · exact fld_margin _ (zeroSpan_le _) (zeroSpan_le _)

/-- Settles O47: each register write is one change of the block's lane, with the events that go with it. -/
theorem equalisationAndEyeScan : Obligations.EqualisationAndEyeScan := by
  unfold Obligations.EqualisationAndEyeScan
  intro d b s hrun
  refine ⟨fun l hd hb => ?_, fun v n h e he => ?_⟩
  · have acts := fun k => atBlock_of_lane hrun hd hb k
    refine ⟨fun v hfit => ?_, fun v hover => ?_, fun v hbit => ?_, fun v hbit hst => ⟨_, acts _, readapted hbit hst⟩,
      fun v hno hgo hidle => ?_, fun v hgo hbusy => ?_, fun n hbusy hst hmore => ?_, fun n hbusy hst hlast => ?_, fun n h => ?_⟩
    · obtain ⟨htaps, hpreset⟩ := txeqWord_holds v (lane s l).txeq
      refine ⟨_, acts _, ?_⟩
      rw [writeTxeq_of_fitting hfit, lane_modLane_self]
      exact ⟨htaps, hpreset, fun m => lane_modLane .., rfl⟩
    · exact (acts _).trans (congrArg _ (if_pos hover))
    · refine ⟨_, acts _, ?_⟩
      rw [writeRxeq_of_bits hbit]
      refine ⟨fun m => ?_, rfl⟩
      rw [lane_modLane, rxeqWritten_of_bits hbit]
    · refine ⟨_, acts _, ?_⟩
      rw [writeEye_starts hno hgo hidle]
      exact ⟨fun m => lane_modLane_twice l (eyeSet v) scanBegun s m, rfl⟩
    · refine ⟨_, acts _, ?_⟩
      have hlane := lane_modLane_twice l (eyeSet v) (fun x => { x with busy := false, aborted := true }) s
      have hown := (hlane l).trans (if_pos rfl)
      rw [writeEye_aborts hgo hbusy]
      obtain ⟨hstruck, hothers, hframe⟩ := laneStruck l 1 (by decide)
        (u := modLane l (fun x => { x with busy := false, aborted := true }) (modLane l (eyeSet v) s)) (s := s) rfl
        (fun m hm => (hlane m).trans (if_neg hm)) rfl
      refine ⟨?_, ?_, ?_, hstruck, hothers, hframe⟩ <;> rw [lane_raiseBit, hown]
      rfl
    · refine ⟨_, (acts _).trans (congrArg _ (if_neg hst)), ?_⟩
      rw [eyeCell_more hbusy n hmore]
      exact ⟨fun m => lane_modLane l (cellCounted n) s m, rfl⟩
    · exact ⟨_, (acts _).trans (congrArg _ (if_neg hst)), eyeScan_completes hbusy hlast n⟩
    · refine (acts _).trans (congrArg _ ?_)
      split
      · rfl
      · next hst => exact if_neg (by rw [h.resolve_right hst]; decide)
  · simp only [List.mem_cons, List.not_mem_nil, or_false] at he
    rcases he with rfl | rfl | rfl | rfl | rfl <;> exact atBlock_of_none hrun h _

end Sys2Proof.Laws
end

section
/-! Blocks of codewords (R448, R458, R459) and the idle of the yoke's lanes (R456, R457). -/

namespace Sys2Proof.Laws

open Sys2Proof Sys2Proof.Machine

/-! ## The wakes from idle that a yield causes -/

/-- A yield that wakes no lane but an idle beat lane: counter 8 of any other lane's block stays. -/
structure YieldQuiet (l : Nat) (s t : State) : Prop extends YieldKept s t where
  wakes : (Machine.lane s l).st ≠ 5 ∨ beatLane s ≠ some l → counter t 256 (16 * laneBlock l + 8) = counter s 256 (16 * laneBlock l + 8)

theorem YieldQuiet.refl (l : Nat) (s : State) : YieldQuiet l s s := ⟨.refl s, fun _ => rfl⟩

theorem YieldQuiet.trans {l : Nat} {s t u : State} (h : YieldQuiet l s t) (g : YieldQuiet l t u) : YieldQuiet l s u where
  toYieldKept := h.toYieldKept.trans g.toYieldKept
  wakes hl := by
    have hstill := h.quiet l (.inr hl)
    exact (g.wakes (by rwa [hstill, h.beat])).trans (h.wakes hl)

theorem YieldQuiet.ite {l : Nat} {s a b : State} {c : Prop} [Decidable c] (ha : YieldQuiet l s a) (hb : YieldQuiet l s b) :
    YieldQuiet l s (if c then a else b) := by
  split
  · exact ha
  · exact hb

/-- A step of a yield that moves no counter of the die's page. -/
theorem YieldQuiet.unwoken {l : Nat} {s t : State} (h : YieldKept s t)
    (hctr : counter t 256 (16 * laneBlock l + 8) = counter s 256 (16 * laneBlock l + 8)) : YieldQuiet l s t := ⟨h, fun _ => hctr⟩

theorem beatLane_range {s : State} {b : Nat} (h : beatLane s = some b) : 32 ≤ b ∧ b < 36 := yokeLane_of_beat h

theorem yieldQuiet_sendRel_yield {l : Nat} (hl : 32 ≤ l) (c tR tT : Nat) (s : State) : YieldQuiet l s (sendRel (.yield c tR tT) s) := by
  refine ⟨yieldKept_sendRel_yield c tR tT s, fun hquiet => ?_⟩
  have hlanes : frameLanes (awaiting s (.yield c tR tT)) (.yield c tR tT) = (beatLane s).toList := rfl
  rw [sendRel]
  change counter ((frameLanes (awaiting s (.yield c tR tT)) _).foldl (sendOn _)
    { awaiting s (.yield c tR tT) with yoke := frameTurn (awaiting s (.yield c tR tT)) _ }) 256 _ = _
  rw [hlanes]
  cases hb : beatLane s with
  | none => rfl
  | some b =>
    rw [foldl_toList_some, sendOn]
    change counter (if (lane s b).st = stIdle then idleExit b _ else _) 256 _ = _
    by_cases hst : (lane s b).st = stIdle
    · have hne : l ≠ b := by
        rintro rfl
        rcases hquiet with h | h
        · exact h hst
        · exact h hb
      obtain ⟨hlo, -⟩ := beatLane_range hb
      rw [if_pos hst]
      refine counter_dieCtr_other ?_ 1 _
      rw [diePageOf_yoke hlo, laneBlock_yoke hlo, laneBlock_yoke hl]
      omega
    · rw [if_neg hst]
      rfl

theorem yieldQuiet_yieldFor {l : Nat} (hl : 32 ≤ l) (c : Nat) (s : State) : YieldQuiet l s (yieldFor c s) := by
  have hpulse : YieldQuiet l s (emit (.hbPulse 1000) s) :=
    .unwoken ⟨rfl, fun _ => rfl, fun _ _ h => h, ⟨[_], rfl⟩, fun _ _ _ _ => rfl, fun _ => rfl, fun _ _ => rfl, rfl⟩ rfl
  unfold yieldFor
  split
  · refine ⟨?_, fun hquiet => ?_⟩
    · have kept := yieldKept_yieldFor c s
      rw [yieldFor, if_pos ‹_›] at kept
      exact kept
    · have sent := (hpulse.trans (yieldQuiet_sendRel_yield hl c s.time.now (furrowFrom (s.time.now + 20000)) _)).wakes hquiet
      dsimp only
      rw [counter_bump_other (by rw [pgYoke, laneBlock_yoke hl]; omega), counter_raiseBit]
      exact sent
  · exact .refl l s

theorem yieldQuiet_yieldOnConditions {l : Nat} (hl : 32 ≤ l) (s : State) : YieldQuiet l s (yieldOnConditions s) := by
  have yields : ∀ (b : Bool) c {t : State}, YieldQuiet l s t → YieldQuiet l s (if b then yieldFor c t else t) :=
    fun _ c _ h => .ite (h.trans (yieldQuiet_yieldFor hl c _)) h
  exact yields _ 6 (yields _ 5 (yields _ 4 (.refl l s)))

/-! ## Blocks of codewords -/

/-- The counts of a block of codewords. -/
def blockCounted (l sym w bad : Nat) (s : State) : State :=
  dieCtr l 0 sym (dieCtr l 1 (8192 / spread s l) (dieCtr l 2 w (dieCtr l 3 bad s)))

/-- The events of its uncorrectable codewords. -/
def blockStruck (l bad : Nat) (s : State) : State := if l < 32 then raiseN (lanePage l) 4 bad s else s

/-- The lane's own share of its port's block. -/
def shareAdded (sym : Nat) (x : Lane) : Lane := { x with syms := sym, shares := x.shares ++ [sym] }

/-- A block before its lane's share is joined with the others. -/
def blockNoted (l sym w bad : Nat) (s : State) : State := modLane l (shareAdded sym) (blockStruck l bad (blockCounted l sym w bad s))

theorem fecBlock_eq (l sym w bad : Nat) (s : State) :
    fecBlock l sym w bad s = allLinkEvents l s (joinShares l (blockNoted l sym w bad s)) := rfl

section

variable (l sym w bad : Nat) (s : State)

theorem laneMoved_blockStruck : LaneMoved l s (blockStruck l bad s) := .ite (laneMoved_raiseN ..) (.refl l s)

theorem laneKept_blockNoted : LaneKept l s (blockNoted l sym w bad s) :=
  (((((laneKept_dieCtr l 3 bad s).trans (laneKept_dieCtr ..)).trans (laneKept_dieCtr ..)).trans (laneKept_dieCtr ..)).trans
    (laneMoved_blockStruck ..).toLaneKept).trans (laneMoved_modLane ..).toLaneKept

theorem lane_raiseN (k i n : Nat) (s : State) (m : Nat) : lane (raiseN k i n s) m = lane s m := by
  unfold raiseN
  split
  · rfl
  · exact lane_raiseBit ..

theorem lane_blockNoted (m : Nat) : lane (blockNoted l sym w bad s) m = if m = l then shareAdded sym (lane s l) else lane s m := by
  have struck : ∀ x, lane (blockStruck l bad (blockCounted l sym w bad s)) x = lane s x := fun x => by
    unfold blockStruck
    split
    · exact lane_raiseN ..
    · rfl
  rw [blockNoted, lane_modLane, struck, struck]

theorem eff_blockNoted : (blockNoted l sym w bad s).eff = s.eff := by rw [(laneKept_blockNoted l sym w bad s).frame]

theorem portMates_blockNoted (m : Nat) : portMates (blockNoted l sym w bad s) m = portMates s m := by
  have heff : effW (blockNoted l sym w bad s) = effW s := by
    funext a
    rw [effW, effW, eff_blockNoted]
  rw [portMates, portMates, heff]

/-! ### The shares joined -/

/-- One share of each lane taken. -/
def sharesTaken (ls : List Nat) (s : State) : State := ls.foldl (fun s x => modLane x (fun y => { y with shares := y.shares.tail }) s) s

theorem laneMoved_joinShares : LaneMoved l s (joinShares l s) := by
  unfold joinShares
  extract_lets ls n u
  have taken : LaneMoved l s u := .foldl (fun s x => laneMoved_modShares l x (fun _ => rfl) s) _ s
  exact .ite (taken.trans (laneMoved_modShares l _ (fun _ => rfl) _)) (.refl l s)

theorem joinShares_of_whole (h : (portMates s l).all (fun x => !(lane s x).shares.isEmpty) = true) : joinShares l s =
    modLane ((portMates s l).headD l) (fun y => { y with portSyms := ((portMates s l).map (fun x => (lane s x).shares.headD 0)).sum })
      (sharesTaken (portMates s l) s) := if_pos h

/-- Joining changes of a lane no more than its shares and its port's symbols. -/
theorem lane_joinShares (m : Nat) : lane (joinShares l s) m =
    { lane s m with shares := (lane (joinShares l s) m).shares, portSyms := (lane (joinShares l s) m).portSyms } := by
  have changed : ∀ x (f : Lane → Lane) (u : State), (∀ y, f y = { y with shares := (f y).shares, portSyms := (f y).portSyms }) →
      lane (modLane x f u) m = { lane u m with shares := (lane (modLane x f u) m).shares, portSyms := (lane (modLane x f u) m).portSyms } :=
    fun x f u hf => by
      rw [lane_modLane]
      split
      · next h =>
        rw [h]
        exact hf _
      · rfl
  have taken : ∀ (ls : List Nat) (u : State), lane (sharesTaken ls u) m =
      { lane u m with shares := (lane (sharesTaken ls u) m).shares, portSyms := (lane (sharesTaken ls u) m).portSyms } := fun ls => by
    induction ls with
    | nil => exact fun _ => rfl
    | cons x ls ih =>
      intro u
      have first := changed x (fun y => { y with shares := y.shares.tail }) u (fun _ => rfl)
      have rest := ih (modLane x (fun y => { y with shares := y.shares.tail }) u)
      rw [first] at rest
      exact rest
  cases h : (portMates s l).all (fun x => !(lane s x).shares.isEmpty) with
  | false =>
    have hno : joinShares l s = s := if_neg (by rw [h]; decide)
    rw [hno]
  | true =>
    have rest := taken (portMates s l) s
    have last := changed ((portMates s l).headD l)
      (fun y => { y with portSyms := ((portMates s l).map (fun x => (lane s x).shares.headD 0)).sum }) (sharesTaken (portMates s l) s) (fun _ => rfl)
    rw [rest, ← joinShares_of_whole l s h] at last
    exact last

/-- The port's block is the sum of its lanes' shares, once the last of them is there (R448). -/
theorem portSyms_joined (hown : (lane s l).shares = []) (hothers : ∀ x ∈ portMates s l, x ≠ l → (lane s x).shares ≠ []) :
    (lane (joinShares l (blockNoted l sym w bad s)) ((portMates s l).headD l)).portSyms =
      ((portMates s l).map (fun x => if x = l then sym else (lane s x).shares.headD 0)).sum := by
  have hshares : ∀ x, (lane (blockNoted l sym w bad s) x).shares = if x = l then [sym] else (lane s x).shares := fun x => by
    rw [lane_blockNoted]
    split
    · rw [shareAdded, hown]
      rfl
    · rfl
  have hmates := portMates_blockNoted l sym w bad s l
  have hwhole : (portMates (blockNoted l sym w bad s) l).all (fun x => !(lane (blockNoted l sym w bad s) x).shares.isEmpty) = true := by
    rw [hmates, List.all_eq_true]
    intro x hx
    rw [hshares]
    by_cases h : x = l
    · rw [if_pos h]
      rfl
    · rw [if_neg h]
      have hsome := hothers x hx h
      cases hl : (lane s x).shares with
      | nil => exact absurd hl hsome
      | cons a as => rfl
  rw [joinShares_of_whole l _ hwhole, hmates, lane_modLane_self]
  refine congrArg List.sum (List.map_congr_left fun x _ => ?_)
  rw [hshares]
  split <;> rfl

/-! ### The whole block -/

theorem laneKept_fecBlock : LaneKept l s (fecBlock l sym w bad s) := by
  rw [fecBlock_eq]
  exact ((laneKept_blockNoted l sym w bad s).trans (laneMoved_joinShares l _).toLaneKept).trans (laneMoved_allLinkEvents ..).toLaneKept

theorem lane_fecBlock (m : Nat) : lane (fecBlock l sym w bad s) m = lane (joinShares l (blockNoted l sym w bad s)) m := by
  rw [fecBlock_eq, lane_allLinkEvents]

theorem lane_fecBlock_own : lane (fecBlock l sym w bad s) l = { lane s l with
    syms := sym, shares := (lane (fecBlock l sym w bad s) l).shares, portSyms := (lane (fecBlock l sym w bad s) l).portSyms } := by
  have joined := lane_joinShares l (blockNoted l sym w bad s) l
  rw [lane_fecBlock]
  generalize lane (joinShares l (blockNoted l sym w bad s)) l = x at joined ⊢
  rw [lane_blockNoted, if_pos rfl, shareAdded] at joined
  rw [joined]

/-- What a block counts is in the counters of the lane's block. -/
theorem counted_fecBlock {n x : Nat} (hl : l < 36) (hn : n < 4) (h : Counted (diePageOf l) (16 * laneBlock l + n) x s (blockCounted l sym w bad s)) :
    Counted (diePageOf l) (16 * laneBlock l + n) x s (fecBlock l sym w bad s) := by
  have moved := (((laneMoved_blockStruck l bad (blockCounted l sym w bad s)).trans (laneMoved_modLane l (shareAdded sym) _)).trans
    (laneMoved_joinShares l _)).trans (laneMoved_allLinkEvents l l s _)
  exact (moved.counter_die hl (by omega) (by omega)).trans h

theorem counted_blockCounted : Counted (diePageOf l) (16 * laneBlock l) sym s (blockCounted l sym w bad s) ∧
    Counted (diePageOf l) (16 * laneBlock l + 1) (8192 / spread s l) s (blockCounted l sym w bad s) ∧
    Counted (diePageOf l) (16 * laneBlock l + 2) w s (blockCounted l sym w bad s) ∧
    Counted (diePageOf l) (16 * laneBlock l + 3) bad s (blockCounted l sym w bad s) := by
  have apart : ∀ {n m : Nat} (_ : n ≠ m) (x : Nat) (u : State),
      counter (dieCtr l m x u) (diePageOf l) (16 * laneBlock l + n) = counter u (diePageOf l) (16 * laneBlock l + n) := fun hne x u =>
    counter_dieCtr_other (by omega) x u
  have apart0 : ∀ {m : Nat} (_ : m ≠ 0) (x : Nat) (u : State),
      counter (dieCtr l m x u) (diePageOf l) (16 * laneBlock l) = counter u (diePageOf l) (16 * laneBlock l) := fun hne x u =>
    counter_dieCtr_other (by omega) x u
  refine ⟨?_, ?_, ?_, ?_⟩
  · refine (counted_dieCtr l 0 sym _).trans ?_
    rw [Nat.add_zero, apart0 (by decide), apart0 (by decide), apart0 (by decide)]
  · rw [Counted, blockCounted, apart (by decide)]
    refine (counted_dieCtr l 1 _ _).trans ?_
    rw [apart (by decide), apart (by decide)]
  · rw [Counted, blockCounted, apart (by decide), apart (by decide)]
    refine (counted_dieCtr l 2 _ _).trans ?_
    rw [apart (by decide)]
  · rw [Counted, blockCounted, apart (by decide), apart (by decide), apart (by decide)]
    exact counted_dieCtr l 3 _ _

end

end Sys2Proof.Laws
end

section
/-! The events of codewords and of idle lanes, and their obligation. -/

namespace Sys2Proof.Laws

open Sys2Proof Sys2Proof.Machine

/-! ## Flags of a block -/

section

variable {l : Nat} {s : State} (hl : l < 32) (sym w bad : Nat)
include hl

/-- Uncorrectable codewords strike the lane's page (R448, R458). -/
theorem stat_fecBlock_bad (hbad : 0 < bad) : bitOf (page (fecBlock l sym w bad s) (lanePage l)).stat 4 = true := by
  have struck : bitOf (page (blockStruck l bad (blockCounted l sym w bad s)) (lanePage l)).stat 4 = true := by
    have hsome : bad ≠ 0 := by omega
    rw [blockStruck, if_pos hl, raiseN, if_neg hsome]
    rw [page_modPage, if_pos rfl]
    exact stat_raiseBit (lanePage l) (by decide) _
  have moved := ((laneMoved_modLane l (shareAdded sym) (blockStruck l bad (blockCounted l sym w bad s))).trans
    (laneMoved_joinShares l _)).trans (laneMoved_allLinkEvents l l s _)
  exact moved.bits _ _ struck

/-- A lane that has become degraded strikes its page (R448). -/
theorem stat_linkEvents_degraded {u : State} (hbefore : degradedIn (effW s) s l = false) (hafter : degradedCond u l = true) :
    bitOf (page (linkEvents (effW s) l s u) (lanePage l)).stat 1 = true := by
  rw [linkEvents, if_neg (by omega), hbefore, hafter]
  exact stat_raiseBit (lanePage l) (by decide) _

theorem stat_allLinkEvents_degraded {u : State} (hbefore : degradedIn (effW s) s l = false) (hafter : degradedCond u l = true) :
    bitOf (page (allLinkEvents l s u) (lanePage l)).stat 1 = true := by
  have own := stat_linkEvents_degraded hl hbefore hafter
  unfold allLinkEvents
  extract_lets g s1
  split
  · split
    · exact own
    · exact (laneMoved_linkEvents g l _ s s1).bits _ _ own
  · exact own

end

/-! ## The event of a block -/

theorem degradedCond_congr {s t : State} {l : Nat} (heff : t.eff = s.eff) (hlane : lane t l = lane s l) : degradedCond t l = degradedCond s l := by
  have hw : effW t = effW s := by
    funext a
    rw [effW, effW, heff]
  rw [degradedCond, degradedCond, degradedIn, degradedIn, hw, hlane]

theorem eff_yield (s : State) : (yieldOnConditions s).eff = s.eff := by rw [(yieldKept_yieldOnConditions s).frame]

theorem event_fecBlock {l : Nat} {s : State} (hl : l < 36) (sym w bad : Nat) :
    (lane (yieldOnConditions (fecBlock l sym w bad s)) l).syms = sym ∧
    (l < 32 → lane (yieldOnConditions (fecBlock l sym w bad s)) l = { lane s l with
      syms := sym, shares := (lane (yieldOnConditions (fecBlock l sym w bad s)) l).shares
      portSyms := (lane (yieldOnConditions (fecBlock l sym w bad s)) l).portSyms }) ∧
    (l ∈ portMates s l → (portMates s l).Nodup → (lane s l).shares = [] → (∀ x ∈ portMates s l, x ≠ l → (lane s x).shares ≠ []) →
      (lane (yieldOnConditions (fecBlock l sym w bad s)) ((portMates s l).headD l)).portSyms =
        ((portMates s l).map (fun x => if x = l then sym else (lane s x).shares.headD 0)).sum) ∧
    (l < 32 → degradedCond s l = false → degradedCond (yieldOnConditions (fecBlock l sym w bad s)) l = true →
      bitOf (page (yieldOnConditions (fecBlock l sym w bad s)) (lanePage l)).stat 1 = true) ∧
    Counted (diePageOf l) (16 * laneBlock l) sym s (yieldOnConditions (fecBlock l sym w bad s)) ∧
    Counted (diePageOf l) (16 * laneBlock l + 1) (8192 / spread s l) s (yieldOnConditions (fecBlock l sym w bad s)) ∧
    Counted (diePageOf l) (16 * laneBlock l + 2) w s (yieldOnConditions (fecBlock l sym w bad s)) ∧
    Counted (diePageOf l) (16 * laneBlock l + 3) bad s (yieldOnConditions (fecBlock l sym w bad s)) ∧
    (l < 32 → 0 < bad → bitOf (page (yieldOnConditions (fecBlock l sym w bad s)) (lanePage l)).stat 4 = true) ∧
    LaneEvent l s (yieldOnConditions (fecBlock l sym w bad s)) := by
  have yields := yieldKept_yieldOnConditions (fecBlock l sym w bad s)
  have own := lane_fecBlock_own l sym w bad s
  obtain ⟨h0, h1, h2, h3⟩ := counted_blockCounted l sym w bad s
  refine ⟨?_, fun hlt => ?_, fun _ _ hown hothers => ?_, fun hlt hbefore hafter => ?_, ?_, ?_, ?_, ?_, fun hlt hbad => ?_,
    laneEvent_yield (laneKept_fecBlock l sym w bad s)⟩
  · rw [yields.lane, own]
  · rw [yields.quiet l (.inl hlt)]
    exact own
  · rw [yields.lane, lane_fecBlock]
    exact portSyms_joined l sym w bad s hown hothers
  · refine stat_yield ?_
    rw [fecBlock_eq]
    refine stat_allLinkEvents_degraded hlt hbefore ?_
    have hsame : degradedCond (yieldOnConditions (fecBlock l sym w bad s)) l = degradedCond (joinShares l (blockNoted l sym w bad s)) l := by
      refine degradedCond_congr ?_ ((yields.quiet l (.inl hlt)).trans (lane_fecBlock l sym w bad s l))
      rw [eff_yield, fecBlock_eq, (laneMoved_allLinkEvents l l s _).frame]
    rw [← hsame]
    exact hafter
  · exact counted_yield (n := 0) hl (by decide) (by decide) (counted_fecBlock l sym w bad s (n := 0) hl (by decide) h0)
  · exact counted_yield hl (by decide) (by decide) (counted_fecBlock l sym w bad s hl (by decide) h1)
  · exact counted_yield hl (by decide) (by decide) (counted_fecBlock l sym w bad s hl (by decide) h2)
  · exact counted_yield hl (by decide) (by decide) (counted_fecBlock l sym w bad s hl (by decide) h3)
  · exact stat_yield (stat_fecBlock_bad hlt sym w bad hbad)

/-! ## Idle lanes -/

section

variable {l : Nat} {s : State} (hl : 32 ≤ l) (hlt : l < 36)
include hl hlt

omit hl hlt in
/-- A lane that goes idle leaves the beat lane what it was (R456, R457). -/
theorem beatLane_idleMove (hst : (lane s l).st = 4) : beatLane (allLinkEvents l s (laneMove l stIdle s)) = beatLane s := by
  have kept := (laneMoved_laneMove l stIdle s).trans (laneMoved_allLinkEvents l l s _)
  refine beatLane_congr (by rw [kept.frame]) (by rw [kept.frame]) fun m => ?_
  rw [lane_allLinkEvents]
  by_cases hm : m = l
  · have hmoved := sameLane_laneMove l stIdle s
    rw [hm, hmoved, hst]
    exact ⟨fun _ => .inl rfl, fun _ => .inr rfl⟩
  · have hother : lane (laneMove l stIdle s) m = lane s m := by
      have hmove : laneMove l stIdle s = modLane l (laneEntered (txEnabled s l) stIdle) s := by
        rw [laneMove]
        exact if_pos (.inr rfl)
      rw [hmove, lane_modLane, if_neg hm]
    rw [hother]

omit hl hlt in
/-- A beat lane that leaves idle is the beat lane still. -/
theorem beatLane_wakeBeat (u : State) : beatLane (wakeBeat u) = beatLane u := by
  unfold wakeBeat
  split
  · next b hb =>
    split
    · next hst =>
      refine beatLane_congr (s := u) rfl rfl fun m => ?_
      rw [lane_idleExit]
      split
      · next hm =>
        rw [hm]
        exact ⟨fun _ => .inr hst, fun _ => .inl rfl⟩
      · exact Iff.rfl
    · rfl
  · rfl

/-- A lane of LANES that is UP and is not the beat lane goes idle (R457). -/
theorem event_idleIn (hst : (lane s l).st = 4) (htx : txEnabled s l = true) (hbeat : beatLane s ≠ some l) :
    (lane (yieldOnConditions (idleIn l s)) l).st = 5 ∧ (lane (yieldOnConditions (idleIn l s)) l).txOn = false ∧
      Counted (pkey 0 0x100) (16 * laneBlock l + 7) 1 s (yieldOnConditions (idleIn l s)) ∧ LaneEvent l s (yieldOnConditions (idleIn l s)) := by
  have hin : idleIn l s = dieCtr l 7 1 (laneTo l stIdle s) := if_pos ⟨hst, htx, hbeat⟩
  have hdie : diePageOf l = pkey 0 0x100 := if_pos hl
  have hmove := beatLane_idleMove hst
  have hlane : SameLane (laneEntered (txEnabled s l) stIdle (lane s l)) (lane (dieCtr l 7 1 (laneTo l stIdle s)) l) :=
    sameLane_laneTo (.inr (by rw [hmove]; exact hbeat))
  have hstill : beatLane (dieCtr l 7 1 (laneTo l stIdle s)) = beatLane s := by
    have hto : laneTo l stIdle s = wakeBeat (allLinkEvents l s (laneMove l stIdle s)) := if_pos hl
    have hctr : beatLane (dieCtr l 7 1 (laneTo l stIdle s)) = beatLane (laneTo l stIdle s) := beatLane_congr rfl rfl fun _ => Iff.rfl
    rw [hctr, hto, beatLane_wakeBeat, hmove]
  have hquiet : lane (yieldOnConditions (dieCtr l 7 1 (laneTo l stIdle s))) l = lane (dieCtr l 7 1 (laneTo l stIdle s)) l :=
    (yieldKept_yieldOnConditions _).quiet l (.inr (.inr (by rw [hstill]; exact hbeat)))
  rw [hin, ← hdie]
  refine ⟨?_, ?_, counted_yield hlt (by decide) (by decide) ?_, laneEvent_yield ((laneMoved_laneTo l stIdle s).toLaneKept.trans (laneKept_dieCtr ..))⟩
  · rw [hquiet, hlane]
    rfl
  · rw [hquiet, hlane]
    change (txEnabled s l && decide (stIdle = stTraining ∨ stIdle = stUp)) = false
    rw [Bool.and_eq_false_iff]
    exact .inr (by decide)
  · refine (counted_dieCtr l 7 1 _).trans ?_
    rw [(laneMoved_laneTo l stIdle s).counter_die hlt (by decide) (by decide)]

omit hl hlt in
theorem idleIn_barred (h : (lane s l).st ≠ 4 ∨ txEnabled s l = false ∨ beatLane s = some l) : idleIn l s = s := by
  refine if_neg ?_
  rintro ⟨hst, htx, hbeat⟩
  rcases h with h | h | h
  · exact h hst
  · exact absurd (htx.symm.trans h) (by decide)
  · exact hbeat h

omit hlt in
theorem laneKept_wakeBurst (u : State) : LaneKept l u (emit (.wakeBurst l) u) := ⟨rfl, fun _ => rfl, fun _ _ _ => rfl, .inl hl⟩

omit hlt in
theorem laneKept_idleExit : LaneKept l s (idleExit l s) :=
  ((LaneKept.modLane l (fun x => { x with st := stUp, txOn := true }) s).trans (laneKept_dieCtr l 8 1 _)).trans (laneKept_wakeBurst hl _)

omit hlt in
/-- A frame queued for an idle lane ends its idle (R457). -/
theorem event_idleOut (hst : (lane s l).st = 5) :
    (lane (yieldOnConditions (idleOut l s)) l).st = 4 ∧ (lane (yieldOnConditions (idleOut l s)) l).txOn = true ∧
      .wakeBurst l ∈ (yieldOnConditions (idleOut l s)).out ∧
      Counted (pkey 0 0x100) (16 * laneBlock l + 8) 1 s (yieldOnConditions (idleOut l s)) ∧ LaneEvent l s (yieldOnConditions (idleOut l s)) := by
  have hout : idleOut l s = idleExit l s := if_pos hst
  have hlane : lane (idleExit l s) l = { lane s l with st := stUp, txOn := true } := (lane_idleExit l s l).trans (if_pos rfl)
  have hup : (lane (idleExit l s) l).st ≠ 5 := by
    rw [hlane]
    change stUp ≠ 5
    decide
  have yields := yieldQuiet_yieldOnConditions hl (idleExit l s)
  have hquiet := yields.quiet l (.inr (.inl hup))
  rw [hout]
  refine ⟨?_, ?_, yields.mem_out List.mem_cons_self, ?_, laneEvent_yield (laneKept_idleExit hl)⟩
  · rw [hquiet, hlane]
    rfl
  · rw [hquiet, hlane]
  · have counted := counted_dieCtr l 8 1 (modLane l (fun x => { x with st := stUp, txOn := true }) s)
    rw [diePageOf_yoke hl] at counted
    have woken : counter (idleExit l s) 256 (16 * laneBlock l + 8) = counter s 256 (16 * laneBlock l + 8) + BitVec.ofNat 64 1 := counted
    rw [show pkey 0 0x100 = 256 from rfl, Counted, yields.wakes (.inl hup), woken]

/-- What a refresh writes of the lane (R452, R457). -/
def refreshed (l c d : Nat) (s : State) : State := emit (.wakeBurst l) (dieCtr l 7 1 (dieCtr l 8 1 (modLane l (settled c d) s)))

omit hlt hl in
theorem counter_refreshed (c d k n : Nat) : counter (refreshed l c d s) k n = counter (dieCtr l 7 1 (dieCtr l 8 1 s)) k n := rfl

omit hlt hl in
theorem mem_out_refreshed (c d : Nat) : .wakeBurst l ∈ (refreshed l c d s).out := List.mem_cons_self

omit hlt in
theorem laneKept_refreshed (c d : Nat) : LaneKept l s (refreshed l c d s) :=
  (((LaneKept.modLane l (settled c d) s).trans (laneKept_dieCtr l 8 1 _)).trans (laneKept_dieCtr l 7 1 _)).trans (laneKept_wakeBurst hl _)

theorem event_idleRefresh (hst : (lane s l).st = 5) (hbeat : beatLane s ≠ some l) (c d : Nat) :
    .wakeBurst l ∈ (yieldOnConditions (idleRefresh l c d s)).out ∧
      Counted (pkey 0 0x100) (16 * laneBlock l + 7) 1 s (yieldOnConditions (idleRefresh l c d s)) ∧
      Counted (pkey 0 0x100) (16 * laneBlock l + 8) 1 s (yieldOnConditions (idleRefresh l c d s)) ∧
      lane (yieldOnConditions (idleRefresh l c d s)) l = (if (lane s l).freeze && !(lane s l).rerun then lane s l
        else { lane s l with rerun := false, ctle := c % 32, dfe1 := d % 256 }) ∧
      LaneEvent l s (yieldOnConditions (idleRefresh l c d s)) := by
  have href : idleRefresh l c d s = refreshed l c d s := if_pos hst
  have hdie : diePageOf l = pkey 0 0x100 := if_pos hl
  have hlane : ∀ m, lane (refreshed l c d s) m = if m = l then settled c d (lane s l) else lane s m := lane_modLane l (settled c d) s
  have hset : (settled c d (lane s l)).st = (lane s l).st := by
    unfold settled
    split <;> rfl
  have kept := laneKept_refreshed hl (s := s) c d
  have hstill : beatLane (refreshed l c d s) = beatLane s := beatLane_congr (by rw [kept.frame]) (by rw [kept.frame]) fun m => by
    rw [hlane]
    split
    · next hm => rw [hset, hm]
    · exact Iff.rfl
  have hnot : beatLane (refreshed l c d s) ≠ some l := by rwa [hstill]
  have yields := yieldQuiet_yieldOnConditions hl (refreshed l c d s)
  rw [href]
  refine ⟨yields.mem_out (mem_out_refreshed c d), ?_, ?_, ?_, laneEvent_yield kept⟩
  · rw [← hdie]
    refine counted_yield hlt (by decide) (by decide) ?_
    rw [Counted, counter_refreshed, counted_dieCtr, counter_dieCtr_other (by omega)]
  · have counted := counted_dieCtr l 8 1 s
    rw [diePageOf_yoke hl] at counted
    rw [show pkey 0 0x100 = 256 from rfl, Counted, yields.wakes (.inr hnot), counter_refreshed,
      counter_dieCtr_other (by rw [diePageOf_yoke hl]; omega), counted]
  · rw [yields.quiet l (.inr (.inr hnot)), hlane, if_pos rfl]
    rfl

/-- A lane whose partner has not locked in time locks again (R457, R459). -/
theorem event_exitLate (hst : (lane s l).st = 4 ∨ (lane s l).st = 5) :
    (lane (yieldOnConditions (exitLate l s)) l).st = 2 ∧ (lane (yieldOnConditions (exitLate l s)) l).converged = false ∧
      Counted (pkey 0 0x100) (16 * laneBlock l + 9) 1 s (yieldOnConditions (exitLate l s)) ∧
      bitOf (page (yieldOnConditions (exitLate l s)) (pkey 0 0x100)).stat 3 = true ∧ LaneEvent l s (yieldOnConditions (exitLate l s)) := by
  have hlate : exitLate l s = raiseBit (diePageOf l) 3 (dieCtr l 9 1
      (modLane l (fun x => { x with converged := false }) (laneTo l stLocking s))) := if_pos hst
  have hdie : diePageOf l = pkey 0 0x100 := if_pos hl
  obtain ⟨hst2, hconv⟩ := lane_unconverged l s
  have hlane : lane (exitLate l s) l = lane (modLane l (fun x => { x with converged := false }) (laneTo l stLocking s)) l := by
    rw [hlate, lane_raiseBit]
    rfl
  have hquiet : lane (yieldOnConditions (exitLate l s)) l = lane (exitLate l s) l :=
    lane_yield_of_busy (by rw [hlane, hst2]; decide)
  have kept : LaneKept l s (exitLate l s) := by
    rw [hlate]
    exact ((laneMoved_unconverged l s).toLaneKept.trans (laneKept_dieCtr ..)).trans (.raiseBit l _ _ _)
  refine ⟨by rw [hquiet, hlane, hst2], by rw [hquiet, hlane, hconv], ?_, ?_, laneEvent_yield kept⟩
  · rw [← hdie]
    refine counted_yield hlt (by decide) (by decide) ?_
    rw [hlate]
    refine counted_raiseBit ((counted_dieCtr l 9 1 _).trans ?_) _ _
    rw [(laneMoved_unconverged l s).counter_die hlt (by decide) (by decide)]
  · rw [hlate, ← hdie]
    exact stat_yield (stat_raiseBit (diePageOf l) (by decide) _)

end

/-! ## The obligation -/

theorem atYk_of_exists {s : State} (hrun : inReset s = false) {l : Nat} (hl : 32 ≤ l) (hlt : l < 36) (k : State → State) :
    atYk l s k = .next (yieldOnConditions (k s)) := by
  have hex : laneExists s l = true := by
    simp only [laneExists, Bool.or_eq_true, Bool.and_eq_true, decide_eq_true_eq]
    omega
  rw [atYk, if_pos hl, atLane_of_exists hrun hex]

/-- Settles O46: each event is one change of its lane, and the yield that follows wakes no lane but the beat lane. -/
theorem codewordsAndIdleLanes : Obligations.CodewordsAndIdleLanes := by
  unfold Obligations.CodewordsAndIdleLanes
  intro l s hrun
  refine ⟨fun hex sym w bad => ⟨_, atLane_of_exists hrun hex _, event_fecBlock (lt_of_laneExists hex) sym w bad⟩, fun hl hlt => ?_,
    fun hno ok c d pre taps sym w bad e he => ?_⟩
  · have acts := fun k => atYk_of_exists hrun hl hlt k
    refine ⟨fun hst htx hbeat => ⟨_, acts _, event_idleIn hl hlt hst htx hbeat⟩, fun h => ?_,
      fun hst => ⟨_, acts _, event_idleOut hl hst⟩, fun hst hbeat c d => ⟨_, acts _, event_idleRefresh hl hlt hst hbeat c d⟩,
      fun hst c d => ⟨?_, ?_⟩, fun hst => ⟨_, acts _, event_exitLate hl hlt hst⟩⟩
    · refine (acts _).trans ?_
      rw [idleIn_barred h]
    · refine (acts _).trans ?_
      rw [idleOut, if_neg (show ¬ (lane s l).st = stIdle from hst)]
    · refine (acts _).trans ?_
      rw [idleRefresh, if_neg (show ¬ (lane s l).st = stIdle from hst)]
  · have still : ∀ k, atLane l s k = .next s := fun k => if_neg (by rw [hno]; decide)
    have yokeStill : ∀ k, atYk l s k = .next s := fun k => by
      unfold atYk
      split
      · exact still k
      · rfl
    simp only [List.mem_cons, List.not_mem_nil, or_false] at he
    rcases he with rfl | rfl | rfl | rfl | rfl | rfl | rfl | rfl | rfl | rfl | rfl | rfl | rfl
    iterate 9 exact still _
    all_goals exact yokeStill _

end Sys2Proof.Laws
end

section
/-! The order of reliable frames (R396): no payload that acts moves the number of the last frame received in order. -/

namespace Sys2Proof.Laws

open Sys2Proof Sys2Proof.Machine

/-! ## Work and pictures leave the yoke -/

theorem yokeStands_modChan (ch : Nat) (f : Chan → Chan) (s : State) : YokeStands s (modChan ch f s) := .same rfl rfl

theorem yokeStands_modSvc (v : Nat) (f : Svc → Svc) (s : State) : YokeStands s (modSvc v f s) := .same rfl rfl

theorem yokeStands_bump (k n x : Nat) (s : State) : YokeStands s (bump k n x s) := (YokeStands.refl s).bumped ..

theorem yokeStands_countWait (d : Nat) (a : Nat × Nat × Nat × Nat × Nat) (b : Nat) (s : State) : YokeStands s (countWait d a b s) := by
  unfold countWait
  split
  · exact yokeStands_bump ..
  · exact (yokeStands_modDsp ..).bumped ..

theorem yokeStands_recordEnded (d : Nat) (q : Nat × Nat × Nat × Nat × Nat → Bool) (s : State) : YokeStands s (recordEnded d q s) :=
  (yokeStands_modDsp ..).trans (.foldl (fun _ _ => yokeStands_countWait ..) _ _)

theorem yokeStands_recordServed (d : Nat) (q : Item → Bool) (s : State) : YokeStands s (recordServed d q s) := by
  refine .foldl (fun s i => ?_) _ s
  exact yokeStands_countWait ..

theorem yokeStands_dropItems (ch : Nat) (q : Nat → Bool) (s : State) : YokeStands s (dropItems ch q s) := by
  unfold dropItems
  exact ((yokeStands_recordEnded ..).trans (yokeStands_recordServed ..)).trans (yokeStands_modDsp ..)

theorem yokeStands_dropPics (ch : Nat) (q : Nat → Bool) (s : State) : YokeStands s (dropPics ch q s) :=
  ((yokeStands_modChan ..).trans (yokeStands_dropItems ..)).trans (.foldl (fun s v => yokeStands_modSvc v _ s) _ _)

theorem yokeStands_toChState (ch : Nat) (c : ChState) (s : State) : YokeStands s (toChState ch c s) := by
  unfold toChState
  extract_lets x old f ends counted entered
  have hcounted : YokeStands s counted := .ite (((YokeStands.refl s).raised ..).bumped ..) (.refl s)
  have hentered : YokeStands s entered := hcounted.trans (yokeStands_modChan ..)
  refine .ite hentered ?_
  split
  · exact hentered.raised ..
  · exact .ite (hentered.raised ..) hentered

theorem yokeStands_releaseItems (d n : Nat) (s : State) : YokeStands s (releaseItems d n s) := by
  induction n generalizing s with
  | zero => exact .refl s
  | succ n ih =>
    rw [releaseItems]
    split
    · exact .refl s
    · exact ((yokeStands_modDsp ..).bumped ..).trans (ih _)

theorem yokeStands_noteReady (d : Nat) (s : State) : YokeStands s (noteReady d s) := by
  unfold noteReady
  exact (yokeStands_recordEnded ..).trans (yokeStands_modDsp ..)

theorem yokeStands_noteUnits (d : Nat) (s : State) : YokeStands s (noteUnits d s) := by
  refine .foldl (fun s u => ?_) _ s
  dsimp only
  split
  · exact .refl s
  · refine .ite (.refl s) ?_
    exact .trans (.ite (yokeStands_bump ..) (.refl s)) (yokeStands_modDsp ..)

theorem yokeStands_urgent (d : Nat) (s : State) : YokeStands s (urgent d s) := ((YokeStands.refl s).raised ..).bumped ..

theorem yokeStands_wakeDie (d : Nat) (s : State) : YokeStands s (wakeDie d s) := by
  refine .trans ((((yokeStands_modDsp ..).trans (yokeStands_releaseItems d 512 _)).trans (yokeStands_noteReady ..)).trans
    (yokeStands_noteUnits ..)) (.foldl (fun s i => ?_) _ _)
  split
  · exact .refl s
  · exact .ite (.refl s) (.ite ((yokeStands_modDsp ..).trans (yokeStands_urgent ..)) (yokeStands_modDsp ..))

theorem yokeStands_wakeItems (s : State) : YokeStands s (wakeItems s) := .foldl (fun s d => yokeStands_wakeDie d s) _ s

theorem yokeStands_releaseCkpt (ch : Nat) (s : State) : YokeStands s (releaseCkpt ch s) := .ite (yokeStands_modChan ..) (.refl s)

/-- Bytes stored: the words that they touch are read, corrected and written (R295). -/
theorem aperKept_dramStore (d a : Nat) (bs : List Byte) (s : State) : AperKept s (dramStore d a bs s) := by
  have written : AperKept s (dramWrite d a bs s) := by
    rw [dramWrite_frame]
    exact ⟨rfl, fun _ _ => rfl⟩
  exact written.trans (.foldl (fun _ _ => aperKept_storeWord ..) _ _)

theorem yokeStands_of_aperKept {s t : State} (h : AperKept s t) : YokeStands s t := by
  rw [h.frame]
  exact .same rfl rfl

theorem yokeStands_passSet (q gen e : Nat) (s : State) : YokeStands s (passSet q gen e s) := by
  refine .ite (yokeStands_applySet ..) ?_
  exact .same rfl rfl

/-! ## The number of the last frame in order -/

/-- From `s` to `t` no frame is taken in order. -/
def SeqKept (s t : State) : Prop := t.yoke.seqRx = s.yoke.seqRx

theorem SeqKept.refl (s : State) : SeqKept s s := rfl

theorem SeqKept.trans {s t u : State} (h : SeqKept s t) (g : SeqKept t u) : SeqKept s u := Eq.trans g h

theorem SeqKept.ite {s a b : State} {c : Prop} [Decidable c] (ha : SeqKept s a) (hb : SeqKept s b) : SeqKept s (if c then a else b) := by
  split
  · exact ha
  · exact hb

theorem SeqKept.foldl {α : Type} {f : State → α → State} (h : ∀ s a, SeqKept s (f s a)) (l : List α) (s : State) :
    SeqKept s (l.foldl f s) :=
  foldl_keeps (g := fun s => s.yoke.seqRx) h l s

theorem YokeStands.seqKept {s t : State} (h : YokeStands s t) : SeqKept s t := by rw [SeqKept, h.yoke]

theorem IcKept.seqKept {s t : State} (h : IcKept s t) : SeqKept s t := by rw [SeqKept, h.frame]

section

variable {s t : State} (h : SeqKept s t)
include h

theorem SeqKept.raised (k i : Nat) : SeqKept s (raiseBit k i t) := h.trans ((YokeStands.refl t).raised k i).seqKept

theorem SeqKept.bumped (k n x : Nat) : SeqKept s (bump k n x t) := h

theorem SeqKept.ych (ch : Nat) (f : YCh → YCh) : SeqKept s (modYch ch f t) := h

theorem SeqKept.chan (ch : Nat) (f : Chan → Chan) : SeqKept s (modChan ch f t) := h

/-- The resync under way is over. -/
theorem SeqKept.over : SeqKept s { t with yoke := { t.yoke with resyncCh := none, resyncStep := 0, resyncLeft := 0 } } := h

theorem SeqKept.rowsOver : SeqKept s { t with yoke := { t.yoke with resyncCh := none, resyncStep := 0, resyncLeft := 0, rows := none } } := h

theorem SeqKept.sent (m : YMsg) : SeqKept s (sendRel m t) := by
  rw [SeqKept, yoke_sendRel]
  exact h

end

theorem seqKept_diverge (ch c : Nat) (s : State) : SeqKept s (diverge ch c s) :=
  .ite (.ych (.refl s) ..) ((SeqKept.ych (.refl s) ch _).raised pgYoke 6)

theorem seqKept_relock (ch : Nat) (s : State) : SeqKept s (relock ch s) :=
  .ite (.refl s) ((SeqKept.ych (.refl s) ch _).raised pgYoke 7)

theorem seqKept_resyncFailed (ch : Nat) (s : State) : SeqKept s (resyncFailed ch s) := by
  have tired : ∀ (b : Prop) [Decidable b] (u : State), SeqKept u (if b then raiseBit pgYoke 8 u else u) := fun _ _ u =>
    .ite (.raised (.refl u) ..) (.refl u)
  have failed : SeqKept s (bump pgYoke 6 1 (modYch ch (fun y => { y with fails := y.fails + 1, join := none }) s)) := .refl s
  exact (failed.trans (tired _ _)).rowsOver

/-- Channel `ch` as its resync has failed: DIVERGED for the cause that it had, and its checkpoint wanted no more (R375). -/
def resyncGone (ch : Nat) (s : State) : State :=
  modChan ch (fun c => { c with ckptWant := false }) (resyncFailed ch (diverge ch (ych s ch).cause s))

theorem resyncAbort_of_under {ch : Nat} {s : State} (h : s.yoke.resyncCh = some ch) (tell : Bool) :
    resyncAbort tell s = if tell then sendRel (.resync ch 5 0 0) (resyncGone ch s) else resyncGone ch s := by
  rw [resyncAbort, h]
  rfl

theorem resyncAbort_of_none {s : State} (h : s.yoke.resyncCh = none) (tell : Bool) : resyncAbort tell s = s := by
  rw [resyncAbort, h]

theorem seqKept_resyncAbort (tell : Bool) (s : State) : SeqKept s (resyncAbort tell s) := by
  cases hch : s.yoke.resyncCh with
  | none =>
    rw [resyncAbort_of_none hch]
    exact .refl s
  | some ch =>
    have gone : SeqKept s (resyncGone ch s) := ((seqKept_diverge ..).trans (seqKept_resyncFailed ..)).chan ..
    rw [resyncAbort_of_under hch]
    exact .ite (gone.sent _) gone

theorem seqKept_seekResync (s : State) : SeqKept s (seekResync s) := by
  refine .ite ?_ (.refl s)
  split
  · refine .sent ?_ _
    exact rfl
  · exact .refl s

theorem seqKept_abortResync (tell : Bool) (s : State) : SeqKept s (abortResync tell s) := by
  unfold abortResync
  split
  · exact .refl s
  · exact .ite (seqKept_resyncAbort tell s) ((seqKept_resyncAbort tell s).trans (yokeStands_releaseCkpt ..).seqKept)

theorem seqKept_settle (ch : Nat) (s : State) : SeqKept s (settle ch s) := by
  unfold settle
  extract_lets gone dropped counted left
  have hleft : SeqKept s left := .ite (.refl s) (yokeStands_dropItems ..).seqKept
  refine .ite ?_ hleft
  exact hleft.trans (((yokeStands_dropItems ..).trans (yokeStands_toChState ..)).seqKept.ych ..)

theorem seqKept_takeCounters (ch : Nat) (r : Record) (s : State) : SeqKept s (takeCounters ch r s) := by
  unfold takeCounters
  extract_lets numbered ended summed
  have hnumbered : SeqKept s numbered := by
    refine .foldl (fun s i => ?_) _ s
    split
    · exact .refl s
    · exact rfl
  clear_value numbered
  have hsummed : SeqKept numbered summed := .chan (.chan (.refl numbered) ..) ..
  clear_value summed
  exact hnumbered.trans (hsummed.trans ((seqKept_settle ch summed).trans (yokeStands_wakeItems _).seqKept))

/-- The picture compared. -/
theorem seqKept_compared (ch n c : Nat) (s : State) : SeqKept s (compared ch n c s) := by
  unfold compared
  extract_lets y one both
  have hboth : SeqKept s both := .ite (.refl s) (.refl s)
  clear_value both
  refine hboth.trans ?_
  have failed : SeqKept both (resyncFailed ch (diverge ch c both)) := (seqKept_diverge ..).trans (seqKept_resyncFailed ..)
  have verified : SeqKept both (relock ch (modYch ch (fun y => { y with join := none }) both)) := seqKept_relock ..
  split
  · exact .ite (.refl both) (seqKept_diverge ..)
  split
  · exact .ite (.refl both) (.ite (verified.bumped ..).over failed)
  split
  · exact .ite (.ite (seqKept_relock ..) (.ych (.refl both) ..)) (.ych (.refl both) ..)
  · exact .refl both

theorem seqKept_sendVerdict (ch n : Nat) (s : State) : SeqKept s (sendVerdict ch n s) := .sent (.refl s) _

theorem seqKept_comparePair (ch : Nat) (s : State) : SeqKept s (comparePair ch s) := by
  unfold comparePair
  extract_lets y
  split
  · exact .refl s
  split
  · exact .refl s
  · refine .trans ?_ (seqKept_seekResync _)
    refine .trans ?_ (seqKept_sendVerdict ..)
    exact seqKept_compared ..

end Sys2Proof.Laws
end

section
/-! Reliable frames act once and in their order, and are repeated until acknowledged (R394, R396): the obligation of them. -/

namespace Sys2Proof.Laws

open Sys2Proof Sys2Proof.Machine

/-! ## Payloads -/

theorem seqKept_sendRel (m : YMsg) (s : State) : SeqKept s (sendRel m s) := .sent (.refl s) m

theorem seqKept_theirRecord (r : Record) (s : State) : SeqKept s (theirRecord r s) := by
  unfold theirRecord
  extract_lets ch noted counted
  refine .ite (.refl s) ?_
  have hnoted : SeqKept s noted := .ych (.refl s) ..
  clear_value noted
  have hcounted : SeqKept noted counted := .ite (seqKept_takeCounters ..) (.refl noted)
  exact hnoted.trans (hcounted.trans (seqKept_comparePair ..))

theorem seqKept_verdictOp (ch st cause : Nat) (s : State) : SeqKept s (verdictOp ch st cause s) := by
  have verified : SeqKept s { relock ch s with yoke := { (relock ch s).yoke with resyncCh := none, resyncStep := 0 } } := seqKept_relock ch s
  unfold verdictOp
  split
  · exact .refl s
  split
  · exact .ite (verified.bumped ..) (seqKept_relock ..)
  split
  · exact .ite ((seqKept_diverge ..).trans (seqKept_resyncFailed ..)) (seqKept_diverge ..)
  · exact .ych (.refl s) ..

theorem seqKept_decideVote (q : Nat) (s : State) : SeqKept s (decideVote q s) := by
  unfold decideVote
  extract_lets c
  split
  · exact .refl s
  · next at_ v _ =>
    have sent : ∀ m, SeqKept s (sendRel m { s with yoke := { s.yoke with votes := s.yoke.votes.filter (fun e => decide (e.2.set ≠ q)) } }) :=
      fun m => seqKept_sendRel m _
    exact .ite (.refl s) (.ite ((sent _).trans (yokeStands_passSet ..).seqKept) ((sent _).trans (yokeStands_failSet ..).seqKept))

theorem seqKept_voteOp (q g : Nat) (crc tcrc : Word) (live res : Nat) (s : State) : SeqKept s (voteOp q g crc tcrc live res s) := by
  unfold voteOp
  extract_lets v y held
  have hheld : SeqKept s held := .refl s
  exact .ite (.refl s) (.ite (seqKept_sendRel ..) (.ite (hheld.trans (seqKept_decideVote ..)) hheld))

theorem seqKept_decideOp (q g o e : Nat) (s : State) : SeqKept s (decideOp q g o e s) :=
  .ite (.refl s) (.ite (yokeStands_passSet ..).seqKept (.ite (yokeStands_passSet ..).seqKept (yokeStands_failSet ..).seqKept))

theorem seqKept_copyInOp (ch st off : Nat) (b : List Byte) (s : State) : SeqKept s (copyInOp ch st off b s) :=
  .ite (yokeStands_of_aperKept (aperKept_dramStore ..)).seqKept (.refl s)

theorem seqKept_bulkInOp (ch st off : Nat) (b : List Byte) (s : State) : SeqKept s (bulkInOp ch st off b s) := by
  unfold bulkInOp
  exact .ite (seqKept_copyInOp ..) (seqKept_copyInOp ..)

theorem seqKept_resyncRequestOp (ch : Nat) (s : State) : SeqKept s (resyncRequestOp ch s) := .ite rfl (.refl s)

theorem seqKept_checkpointTakenOp (ch pins n : Nat) (s : State) : SeqKept s (checkpointTakenOp ch pins n s) := by
  refine .ite (.trans ?_ (yokeStands_dropPics ..).seqKept) (.refl s)
  exact rfl

theorem seqKept_copyDoneOp (ch m : Nat) (joins : Bool) (s : State) : SeqKept s (copyDoneOp ch m joins s) := .ite rfl (.refl s)

theorem seqKept_yieldFrameOp (tR tT : Nat) (s : State) : SeqKept s (yieldFrameOp tR tT s) := .ite rfl (.refl s)

theorem seqKept_icTake (n : Nat) (s : State) : SeqKept s (icTake n s) :=
  .ite ((SeqKept.raised (.refl s) ..).bumped ..) (.ite (.refl s) (.refl s))

theorem seqKept_icRemoteIn (n : Nat) (s : State) : SeqKept s (icRemoteIn n s) := by
  have messaged : ∀ u : State, SeqKept u (icMessage n u) := fun u =>
    .ite ((seqKept_icTake n u).trans (icSettled_evalIc ..).toIcKept.seqKept) (seqKept_icTake n u)
  exact .ite (messaged (bump pgIc 12 1 s)) ((SeqKept.raised (.refl s) ..).bumped ..)

/-- No payload moves the number of the last frame in order (R396). -/
theorem seqKept_deliverFrame (c : Instr) (s : State) : SeqKept s (deliverFrame c s) := by
  unfold deliverFrame
  split
  · exact seqKept_theirRecord ..
  · exact seqKept_verdictOp ..
  · exact seqKept_voteOp ..
  · exact seqKept_decideOp ..
  · exact seqKept_decideOp ..
  · exact seqKept_decideOp ..
  · exact seqKept_bulkInOp ..
  · exact seqKept_copyInOp ..
  · exact seqKept_resyncRequestOp ..
  · exact seqKept_checkpointTakenOp ..
  · exact seqKept_copyDoneOp ..
  · exact .ite (seqKept_abortResync ..) (.refl s)
  · exact seqKept_yieldFrameOp ..
  · exact seqKept_icRemoteIn ..
  · exact .refl s

end Sys2Proof.Laws
end

section
/-! What the exchange between the parts moves (R371–R375, R379): the channels' yoke states, the resync under way, the frames, and no role. -/

namespace Sys2Proof.Laws

open Sys2Proof Sys2Proof.Machine

/-- The yoke's state with its exchange as in `y`: the channels' states, the resync, the frames sent and the yield that is due. -/
def exchanged (x y : Yoke) : Yoke :=
  { x with chs := y.chs, resyncCh := y.resyncCh, resyncStep := y.resyncStep, resyncLeft := y.resyncLeft, rows := y.rows
           seqTx := y.seqTx, unacked := y.unacked, ackDue := y.ackDue, pendYield := y.pendYield }

/-- From `s` to `t` the parts have talked: flags are struck and none is taken back, and of YOKE's counters those of `ns` have moved. -/
structure Talked (ns : List Nat) (s t : State) : Prop where
  frame : t = { s with out := t.out, pages := t.pages, ctrs := t.ctrs, chans := t.chans, yoke := t.yoke
                       ic := { s.ic with inflight := t.ic.inflight }, lanes := t.lanes }
  yoke : t.yoke = exchanged s.yoke t.yoke
  bits : ∀ k i, bitOf (page s k).stat i = true → bitOf (page t k).stat i = true
  ctr : ∀ n, n < 128 → n ∉ ns → counter t 7 n = counter s 7 n

theorem Talked.refl {ns : List Nat} (s : State) : Talked ns s s := ⟨rfl, rfl, fun _ _ h => h, fun _ _ _ => rfl⟩

theorem Talked.trans {ns : List Nat} {s t u : State} (h : Talked ns s t) (g : Talked ns t u) : Talked ns s u where
  frame := by
    have moved := g.frame
    rw [h.frame] at moved
    exact moved
  yoke := by
    have moved := g.yoke
    rw [h.yoke] at moved
    exact moved
  bits k i hb := g.bits k i (h.bits k i hb)
  ctr n hn hns := (g.ctr n hn hns).trans (h.ctr n hn hns)

theorem Talked.ite {ns : List Nat} {s a b : State} {c : Prop} [Decidable c] (ha : Talked ns s a) (hb : Talked ns s b) :
    Talked ns s (if c then a else b) := by
  split
  · exact ha
  · exact hb

theorem Talked.foldl {ns : List Nat} {α : Type} {f : State → α → State} (h : ∀ s a, Talked ns s (f s a)) (l : List α) (s : State) :
    Talked ns s (l.foldl f s) := by
  induction l generalizing s with
  | nil => exact .refl s
  | cons a l ih => exact (h s a).trans (ih (f s a))

section

variable {ns : List Nat} {s t : State} (h : Talked ns s t)
include h

theorem Talked.raised (k i : Nat) : Talked ns s (raiseBit k i t) := by
  refine h.trans ⟨?_, ?_, (noted_raiseBit k i t).bits, fun n _ _ => counter_raiseBit ..⟩
  · have moved := (noted_raiseBit k i t).frame
    generalize raiseBit k i t = u at moved ⊢
    rw [moved]
  · rw [raiseBit_frame]
    rfl

theorem Talked.bumped {n : Nat} (hn : n ∈ ns) (x : Nat) : Talked ns s (bump 7 n x t) := by
  refine h.trans ⟨rfl, rfl, fun _ _ hb => hb, fun m _ hm => ?_⟩
  refine (counter_bump ..).trans (if_neg fun heq => hm ?_)
  rwa [show m = n by omega]

theorem Talked.ych (ch : Nat) (f : YCh → YCh) : Talked ns s (modYch ch f t) :=
  h.trans ⟨rfl, rfl, fun _ _ hb => hb, fun _ _ _ => rfl⟩

theorem Talked.chan (ch : Nat) (f : Chan → Chan) : Talked ns s (modChan ch f t) :=
  h.trans ⟨rfl, rfl, fun _ _ hb => hb, fun _ _ _ => rfl⟩

/-- The resync under way is over, its rows too. -/
theorem Talked.rowsOver : Talked ns s { t with yoke := { t.yoke with resyncCh := none, resyncStep := 0, resyncLeft := 0, rows := none } } :=
  h.trans ⟨rfl, rfl, fun _ _ hb => hb, fun _ _ _ => rfl⟩

theorem Talked.sent {m : YMsg} (hcopy : ∀ ch st k off b, m ≠ .copy ch st k off b) : Talked ns s (sendRel m t) := by
  refine h.trans ⟨?_, ?_, fun k i hb => ?_, fun n hn _ => counter_sendRel m t (by omega)⟩
  · have moved := sendRel_frame hcopy t
    generalize sendRel m t = u at moved ⊢
    rw [moved]
  · rw [yoke_sendRel, relTurn, frameTurn, copyTurn_of_notCopy hcopy]
    rfl
  · rw [page_sendRel]
    exact hb

/-- The role, the paths and what the partner told stand. -/
theorem Talked.stands : t.yoke.role = s.yoke.role ∧ t.yoke.linkLost = s.yoke.linkLost ∧ t.yoke.pinLost = s.yoke.pinLost ∧
    t.yoke.lastBeat = s.yoke.lastBeat ∧ t.yoke.pendTake = s.yoke.pendTake := by
  rw [h.yoke]
  exact ⟨rfl, rfl, rfl, rfl, rfl⟩

end

theorem talked_diverge {ns : List Nat} (h4 : 4 ∈ ns) (ch c : Nat) (s : State) : Talked ns s (diverge ch c s) :=
  .ite (.ych (.refl s) ..) (.bumped (.raised (.ych (.refl s) ..) ..) h4 1)

theorem talked_relock {ns : List Nat} (ch : Nat) (s : State) : Talked ns s (relock ch s) :=
  .ite (.refl s) (.raised (.ych (.refl s) ..) ..)

theorem talked_resyncFailed {ns : List Nat} (h6 : 6 ∈ ns) (ch : Nat) (s : State) : Talked ns s (resyncFailed ch s) := by
  have failed : Talked ns s (bump pgYoke 6 1 (modYch ch (fun y => { y with fails := y.fails + 1, join := none }) s)) :=
    .bumped (.ych (.refl s) ..) h6 1
  have tired : ∀ (b : Prop) [Decidable b] (u : State), Talked ns u (if b then raiseBit pgYoke 8 u else u) := fun _ _ u =>
    .ite (.raised (.refl u) ..) (.refl u)
  exact (failed.trans (tired _ _)).rowsOver

theorem talked_resyncGone {ns : List Nat} (h4 : 4 ∈ ns) (h6 : 6 ∈ ns) (ch : Nat) (s : State) : Talked ns s (resyncGone ch s) :=
  ((talked_diverge h4 ..).trans (talked_resyncFailed h6 ..)).chan ..

theorem talked_resyncAbort {ns : List Nat} (h4 : 4 ∈ ns) (h6 : 6 ∈ ns) (tell : Bool) (s : State) : Talked ns s (resyncAbort tell s) := by
  cases hch : s.yoke.resyncCh with
  | none =>
    rw [resyncAbort_of_none hch]
    exact .refl s
  | some ch =>
    rw [resyncAbort_of_under hch]
    exact .ite ((talked_resyncGone h4 h6 ch s).sent nofun) (talked_resyncGone h4 h6 ch s)

theorem talked_releaseCkpt {ns : List Nat} (ch : Nat) (s : State) : Talked ns s (releaseCkpt ch s) := .ite (.chan (.refl s) ..) (.refl s)

theorem talked_abortResync {ns : List Nat} (h4 : 4 ∈ ns) (h6 : 6 ∈ ns) (tell : Bool) (s : State) : Talked ns s (abortResync tell s) := by
  unfold abortResync
  split
  · exact .refl s
  · have left := talked_resyncAbort h4 h6 tell s
    exact .ite (left.chan ..) ((left.chan ..).trans (talked_releaseCkpt ..))

/-- The standby asks for the resync of channel `ch` (R373). -/
def resyncAsked (ch : Nat) (s : State) : State :=
  modYch ch (fun y => { y with asked := false }) { s with yoke := { s.yoke with resyncCh := some ch, resyncStep := 1 } }

theorem talked_seekResync {ns : List Nat} (s : State) : Talked ns s (seekResync s) := by
  refine .ite ?_ (.refl s)
  split
  · next ch _ _ =>
    have asked : Talked ns s (resyncAsked ch s) := ⟨rfl, rfl, fun _ _ hb => hb, fun _ _ _ => rfl⟩
    exact asked.sent nofun
  · exact .refl s

theorem talked_yieldFor {ns : List Nat} (h1 : 1 ∈ ns) (c : Nat) (s : State) : Talked ns s (yieldFor c s) := by
  refine .ite ?_ (.refl s)
  extract_lets tT sent
  have pulsed : Talked ns s (emit (.hbPulse 1000) s) := ⟨rfl, rfl, fun _ _ hb => hb, fun _ _ _ => rfl⟩
  have hsent : Talked ns s sent := pulsed.sent nofun
  clear_value sent
  have due : Talked ns sent { sent with yoke := { sent.yoke with pendYield := some tT } } := ⟨rfl, rfl, fun _ _ hb => hb, fun _ _ _ => rfl⟩
  exact ((hsent.trans due).raised ..).bumped h1 1

theorem talked_yieldOnConditions {ns : List Nat} (h1 : 1 ∈ ns) (s : State) : Talked ns s (yieldOnConditions s) := by
  have yields : ∀ (c : Nat) (b : Prop) [Decidable b] (u : State), Talked ns u (if b then yieldFor c u else u) := fun c _ _ u =>
    .ite (talked_yieldFor h1 c u) (.refl u)
  exact ((yields 4 _ s).trans (yields 5 _ _)).trans (yields 6 _ _)

end Sys2Proof.Laws
end

section
/-! The role that a part takes (R360–R362) and the paths to its partner (R376–R378). -/

namespace Sys2Proof.Laws

open Sys2Proof Sys2Proof.Machine

/-! ## A role taken -/

/-- From `s` to `t` the part has taken role `r`. -/
structure RoleTaken (r : Nat) (s t : State) : Prop where
  frame : t = { s with pages := t.pages, yoke := t.yoke, ic := { s.ic with inflight := t.ic.inflight } }
  yoke : t.yoke = { exchanged s.yoke t.yoke with role := r, dual := none, since := t.yoke.since }
  bits : ∀ k i, bitOf (page s k).stat i = true → bitOf (page t k).stat i = true

/-- The yoke's state with role `r`, the exchange not yet ended. -/
def roleOnly (r : Nat) (s : State) : State :=
  { s with yoke := { s.yoke with
    role := r, dual := none, pendYield := if r = roleActive then s.yoke.pendYield else none
    since := if (r = roleSole ∨ r = roleActive) ∧ s.yoke.role ≠ r then s.time.now else s.yoke.since } }

/-- The exchange of a part that is neither ACTIVE nor STANDBY is over. -/
def exchangeOver (s : State) : State :=
  { s with yoke := { s.yoke with chs := [], resyncCh := none, resyncStep := 0, resyncLeft := 0, rows := none } }

theorem setRole_eq (r : Nat) (s : State) : setRole r s =
    if pairedRole (roleOnly r s) then (if pairedRole s then roleOnly r s else raiseBit pgYoke 0 (roleOnly r s))
    else exchangeOver (roleOnly r s) := rfl

theorem roleTaken_setRole (r : Nat) (s : State) : RoleTaken r s (setRole r s) := by
  have taken : RoleTaken r s (roleOnly r s) := ⟨rfl, rfl, fun _ _ hb => hb⟩
  rw [setRole_eq]
  split
  · split
    · exact taken
    · have raised := noted_raiseBit pgYoke 0 (roleOnly r s)
      refine ⟨?_, ?_, raised.bits⟩
      · have moved := raiseBit_frame pgYoke 0 (roleOnly r s)
        generalize raiseBit pgYoke 0 (roleOnly r s) = t at moved ⊢
        rw [moved]
        rfl
      · rw [raiseBit_frame]
        rfl
  · exact ⟨rfl, rfl, fun _ _ hb => hb⟩

theorem RoleTaken.role {r : Nat} {s t : State} (h : RoleTaken r s t) : t.yoke.role = r := by
  rw [h.yoke]

theorem RoleTaken.ctrs {r : Nat} {s t : State} (h : RoleTaken r s t) : t.ctrs = s.ctrs := by
  rw [h.frame]

/-! ## The paths -/

/-- The yoke's state with what a change of the paths may move as in `y`. -/
def repathed (x y : Yoke) : Yoke :=
  { exchanged x y with role := y.role, since := y.since, barred := y.barred, dual := y.dual, sundered := y.sundered, pendTake := y.pendTake }

/-- From `s` to `t` the lost flags of the paths have been acted on. -/
structure PathsMoved (s t : State) : Prop where
  frame : t = { s with out := t.out, pages := t.pages, ctrs := t.ctrs, chans := t.chans, yoke := t.yoke
                       ic := { s.ic with inflight := t.ic.inflight }, lanes := t.lanes }
  yoke : t.yoke = repathed s.yoke t.yoke
  bits : ∀ k i, bitOf (page s k).stat i = true → bitOf (page t k).stat i = true
  ctr : ∀ n, n < 128 → n ∉ [2, 3, 4, 6] → counter t 7 n = counter s 7 n

theorem PathsMoved.refl (s : State) : PathsMoved s s := ⟨rfl, rfl, fun _ _ hb => hb, fun _ _ _ => rfl⟩

theorem PathsMoved.trans {s t u : State} (h : PathsMoved s t) (g : PathsMoved t u) : PathsMoved s u where
  frame := by
    have moved := g.frame
    rw [h.frame] at moved
    exact moved
  yoke := by
    have moved := g.yoke
    rw [h.yoke] at moved
    exact moved
  bits k i hb := g.bits k i (h.bits k i hb)
  ctr n hn hns := (g.ctr n hn hns).trans (h.ctr n hn hns)

/-- The part has talked, and no more. -/
theorem Talked.pathsMoved {ns : List Nat} (hns : ∀ n, n ∉ [2, 3, 4, 6] → n ∉ ns) {s t : State} (h : Talked ns s t) : PathsMoved s t :=
  ⟨h.frame, h.yoke.trans (by rw [h.yoke]; rfl), h.bits, fun n hn hno => h.ctr n hn (hns n hno)⟩

theorem RoleTaken.pathsMoved {r : Nat} {s t : State} (h : RoleTaken r s t) : PathsMoved s t where
  frame := by
    have moved := h.frame
    generalize t = u at moved ⊢
    rw [moved]
  yoke := by
    have moved := h.yoke
    generalize t.yoke = u at moved ⊢
    rw [moved]
    rfl
  bits := h.bits
  ctr n _ _ := by rw [counter, h.ctrs]; rfl

/-- One path is lost, or the link path (R378). -/
def pathNoted (s0 s : State) : State :=
  if pathFault s.yoke && !pathFault s0.yoke then bump pgYoke 3 1 (raiseBit pgYoke 5 s) else s

def linkNoted (s0 s : State) : State := if s.yoke.linkLost && !s0.yoke.linkLost then resyncAbort false s else s

/-- The bars between two parts that were active fall with both paths. -/
def barsLifted (s : State) : State :=
  if s.yoke.pinLost && s.yoke.linkLost then { s with yoke := { s.yoke with barred := false, dual := none } } else s

/-- The partner is lost (R378). -/
def partnerNoted (s : State) : State := bump pgYoke 2 1 (raiseBit pgYoke 2 { s with yoke := { s.yoke with sundered := true } })

/-- The standby is to take over (R380). -/
def takeoverDue (s : State) : State :=
  { s with yoke := { s.yoke with pendTake := match s.yoke.pendTake with
                                  | some t => some t
                                  | none => some (s.yoke.lastBeat, furrowFrom s.time.now) } }

/-- What the loss of the partner makes of the part. -/
def partnerLost (s : State) : State :=
  if (partnerNoted s).yoke.role = roleActive then setRole roleSole (partnerNoted s) else takeoverDue (partnerNoted s)

/-- Both paths are lost, which in `s0` they were not, and the part has a partner. -/
def bothLost (s0 s : State) : Bool :=
  s.yoke.pinLost && s.yoke.linkLost && !(s0.yoke.pinLost && s0.yoke.linkLost) && pairedRole s

/-- The loss of a path, or of both, acted on but for the partner. -/
def lossNoted (s0 s : State) : State := barsLifted (linkNoted s0 (pathNoted s0 s))

theorem pathsChanged_eq (s0 s : State) : pathsChanged s0 s =
    if bothLost s0 (lossNoted s0 s) then partnerLost (lossNoted s0 s) else lossNoted s0 s := rfl

theorem talked_pathNoted (s0 s : State) : Talked [3, 4, 6] s (pathNoted s0 s) :=
  .ite (.bumped (.raised (.refl s) ..) (by decide) 1) (.refl s)

theorem talked_linkNoted {ns : List Nat} (h4 : 4 ∈ ns) (h6 : 6 ∈ ns) (s0 s : State) : Talked ns s (linkNoted s0 s) :=
  .ite (talked_resyncAbort h4 h6 false s) (.refl s)

theorem talked_noted (s0 s : State) : Talked [3, 4, 6] s (linkNoted s0 (pathNoted s0 s)) :=
  (talked_pathNoted ..).trans (talked_linkNoted (by decide) (by decide) ..)

theorem pathsMoved_barsLifted (s : State) : PathsMoved s (barsLifted s) := by
  unfold barsLifted
  split <;> exact ⟨rfl, rfl, fun _ _ hb => hb, fun _ _ _ => rfl⟩

theorem pathsMoved_lossNoted (s0 s : State) : PathsMoved s (lossNoted s0 s) :=
  ((talked_noted s0 s).pathsMoved (by simp +contextual)).trans (pathsMoved_barsLifted _)

theorem pathsMoved_partnerNoted (s : State) : PathsMoved s (partnerNoted s) := by
  have told : PathsMoved s { s with yoke := { s.yoke with sundered := true } } := ⟨rfl, rfl, fun _ _ hb => hb, fun _ _ _ => rfl⟩
  have noted : Talked [2] { s with yoke := { s.yoke with sundered := true } } (partnerNoted s) :=
    .bumped (.raised (.refl _) ..) (by decide) 1
  exact told.trans (noted.pathsMoved (by simp +contextual))

theorem pathsMoved_takeoverDue (s : State) : PathsMoved s (takeoverDue s) := ⟨rfl, rfl, fun _ _ hb => hb, fun _ _ _ => rfl⟩

theorem pathsMoved_partnerLost (s : State) : PathsMoved s (partnerLost s) := by
  refine (pathsMoved_partnerNoted s).trans ?_
  unfold partnerLost
  split
  · exact (roleTaken_setRole ..).pathsMoved
  · exact pathsMoved_takeoverDue _

theorem pathsMoved_pathsChanged (s0 s : State) : PathsMoved s (pathsChanged s0 s) := by
  rw [pathsChanged_eq]
  refine (pathsMoved_lossNoted s0 s).trans ?_
  generalize lossNoted s0 s = u
  split
  · exact pathsMoved_partnerLost u
  · exact .refl u

/-- An aborted resync releases its checkpoint. -/
theorem talked_settled {ns : List Nat} (s0 s : State) : Talked ns (pathsChanged s0 s) (pathsSettled s0 s) := by
  unfold pathsSettled
  extract_lets t
  split
  · exact .ite (talked_releaseCkpt ..) (.refl t)
  · exact .refl t

theorem pathsMoved_settled (s0 s : State) : PathsMoved s (pathsSettled s0 s) :=
  (pathsMoved_pathsChanged s0 s).trans ((talked_settled (ns := []) s0 s).pathsMoved (by simp))

end Sys2Proof.Laws
end

section
/-! Reliable frames act once, in the order of their numbers, and are repeated until acknowledged (R394, R396): the obligation of them. -/

namespace Sys2Proof.Laws

open Sys2Proof Sys2Proof.Machine

/-! ## A frame that arrives -/

theorem exec_relCh {ch : Nat} {h : YHdr} {c : Instr} {s : State} (hrun : inReset s = false) (hch : ch < 32 * dies s) :
    relCh ch h c s = .next (rxRel h c s) := by
  rw [relCh, atChannel, if_pos hch, whenUp_of_running hrun]

/-- A reliable frame acts by `rxRel`. -/
theorem exec_of_relHeader {c : Instr} {h : YHdr} {s : State} (hrun : inReset s = false) (hh : relHeader c = some h)
    (hch : ∀ ch, relChan c = some ch → ch < 32 * dies s) : exec c s = .next (rxRel h c s) := by
  have alone : ∀ x, rel h x s = .next (rxRel h x s) := fun x => next_whenUp hrun (rxRel h x)
  unfold relHeader at hh
  split at hh <;> cases hh
  · exact exec_relCh hrun (hch _ rfl)
  · exact exec_relCh hrun (hch _ rfl)
  · exact alone _
  · exact alone _
  · exact alone _
  · exact alone _
  · exact exec_relCh hrun (hch _ rfl)
  · exact exec_relCh hrun (hch _ rfl)
  · exact exec_relCh hrun (hch _ rfl)
  · exact exec_relCh hrun (hch _ rfl)
  · exact exec_relCh hrun (hch _ rfl)
  · exact exec_relCh hrun (hch _ rfl)
  · exact alone _
  · exact alone _

/-- The yoke's state with what a sound frame acknowledges settled. -/
def acknowledged (h : YHdr) (y : Yoke) : Yoke := { y with unacked := y.unacked.filter (fun u => decide (h.ack < u.seq)) }

section

variable {s : State} (hon : yokeOn s = true) {h : YHdr}
include hon

theorem rxRel_of_repeat (hcrc : h.crcOk = true) (hseq : h.seq ≤ s.yoke.seqRx) (c : Instr) :
    rxRel h c s = { s with yoke := { acknowledged h s.yoke with ackDue := true } } := by
  rw [rxRel, rxFrame_of_sound hon hcrc]
  exact if_pos hseq

theorem rxRel_of_early (hcrc : h.crcOk = true) (hseq : s.yoke.seqRx + 1 < h.seq) (hnew : ∀ e ∈ s.yoke.early, e.1 ≠ h.seq) (c : Instr) :
    rxRel h c s = { s with yoke := { acknowledged h s.yoke with ackDue := true, early := s.yoke.early ++ [(h.seq, c)] } } := by
  have hlate : ¬ h.seq ≤ s.yoke.seqRx := by omega
  have hnext : ¬ h.seq = s.yoke.seqRx + 1 := by omega
  have hfirst : ¬ s.yoke.early.any (fun e => decide (e.1 = h.seq)) = true := by
    rw [Bool.not_eq_true, List.any_eq_false]
    intro e he
    simpa using hnew e he
  rw [rxRel, rxFrame_of_sound hon hcrc]
  exact (if_neg hlate).trans ((if_neg hnext).trans (if_neg hfirst))

theorem rxFrame_of_damaged (hcrc : h.crcOk = false) (k : State → State) : rxFrame h k s = bump pgYoke 19 1 s := by
  rw [rxFrame, hon, hcrc]
  rfl

theorem seqRx_of_inTurn (hcrc : h.crcOk = true) (hseq : h.seq = s.yoke.seqRx + 1) (hearly : s.yoke.early = []) (c : Instr) :
    (rxRel h c s).yoke.seqRx = h.seq := by
  rw [rxRel_of_inTurn ⟨hon, hcrc, hseq, hearly⟩]
  exact seqKept_deliverFrame c _

end

/-! ## A frame that is sent again -/

/-- The state with frame `n`, of message `m`, counted as sent once more. -/
def resent (n : Nat) (m : YMsg) (s : State) : State :=
  bump pgYoke 8 (copyLen m) (bump pgYoke 12 1 { s with yoke := { s.yoke with
    unacked := s.yoke.unacked.map (fun x => if x.seq = n then { x with sends := x.sends + 1 } else x) } })

theorem retryOp_of_none {n : Nat} {s : State} (h : ∀ u ∈ s.yoke.unacked, u.seq ≠ n) : retryOp n s = s := by
  have hnone : s.yoke.unacked.find? (fun u => decide (u.seq = n)) = none := by
    rw [List.find?_eq_none]
    intro u hu
    simpa using h u hu
  rw [retryOp, hnone]

section

variable {n : Nat} {s : State} {u : Unacked} (hu : s.yoke.unacked.find? (fun u => decide (u.seq = n)) = some u)
include hu

theorem retryOp_of_sends (hsends : u.sends < 4) : retryOp n s = sendFrame n true u.msg (resent n u.msg s) := by
  rw [retryOp, hu]
  exact if_neg (Nat.not_le.mpr hsends)

theorem retryOp_of_tired (hsends : 4 ≤ u.sends) :
    retryOp n s = pathsSettled s { s with yoke := { s.yoke with linkLost := true } } := by
  rw [retryOp, hu]
  exact if_pos hsends

end

theorem frameLanes_resent (n : Nat) (m m' : YMsg) (s : State) : frameLanes (resent n m s) m' = frameLanes s m' := by
  cases m' <;> rfl

theorem counter_resent (n : Nat) (m : YMsg) (s : State) : counter (resent n m s) 7 12 = counter s 7 12 + BitVec.ofNat 64 1 := by
  rw [resent, pgYoke, counter_bump_other (by decide), counter_bump_self]
  rfl

theorem retry_sends {n : Nat} {s : State} {m : YMsg} :
    Counted 7 12 1 s (sendFrame n true m (resent n m s)) ∧
      (∀ l ∈ frameLanes s m, .yoke l (yFrame n s.yoke.seqRx true m) ∈ (sendFrame n true m (resent n m s)).out) ∧
      (∀ x ∈ s.yoke.unacked, (if x.seq = n then { x with sends := x.sends + 1 } else x) ∈
        (sendFrame n true m (resent n m s)).yoke.unacked) ∧
      sendFrame n true m (resent n m s) = { s with
        out := (sendFrame n true m (resent n m s)).out, ctrs := (sendFrame n true m (resent n m s)).ctrs
        lanes := (sendFrame n true m (resent n m s)).lanes
        yoke := { s.yoke with unacked := (sendFrame n true m (resent n m s)).yoke.unacked
                              ackDue := (sendFrame n true m (resent n m s)).yoke.ackDue
                              copyN := (sendFrame n true m (resent n m s)).yoke.copyN } } := by
  have sent := framesSent_sendFrame n true m (resent n m s)
  have hyoke := yoke_sendFrame n true m (resent n m s)
  have hout : ∀ l ∈ frameLanes s m, .yoke l (yFrame n s.yoke.seqRx true m) ∈ (sendFrame n true m (resent n m s)).out := fun l hl =>
    mem_out_sendFrame n true m (resent n m s) (by rwa [frameLanes_resent])
  generalize sendFrame n true m (resent n m s) = t at sent hyoke hout ⊢
  refine ⟨?_, hout, fun x hx => ?_, ?_⟩
  · have hctr : counter t 7 12 = counter (resent n m s) 7 12 := sent.ctr 7 12 (by omega)
    rw [Counted, hctr, counter_resent]
  · rw [hyoke]
    exact List.mem_map_of_mem hx
  · have hmoved : t.yoke = { s.yoke with unacked := t.yoke.unacked, ackDue := t.yoke.ackDue, copyN := t.yoke.copyN } := by
      rw [hyoke]
      rfl
    have moved := sent.frame
    rw [← hyoke] at moved
    rw [← hmoved]
    exact moved

/-! ## Lanes on which a frame leaves -/

/-- The lane runs, or idles until a frame leaves on it. -/
abbrev UpOrIdle (s : State) (l : Nat) : Prop := (lane s l).st = stUp ∨ (lane s l).st = stIdle

theorem lane_sendOn (bytes : List Byte) (s : State) (l : Nat) (h : UpOrIdle s l) : (lane (sendOn bytes s l) l).st = stUp := by
  have hemit : lane (sendOn bytes s l) l = lane (if (lane s l).st = stIdle then idleExit l s else s) l := rfl
  rw [hemit]
  split
  · rw [lane_idleExit, if_pos rfl]
  · next hno => exact h.resolve_right hno

theorem lane_sendOn_other (bytes : List Byte) (s : State) {l m : Nat} (h : m ≠ l) : lane (sendOn bytes s l) m = lane s m := by
  have hemit : lane (sendOn bytes s l) m = lane (if (lane s l).st = stIdle then idleExit l s else s) m := rfl
  rw [hemit]
  split
  · rw [lane_idleExit, if_neg h]
  · rfl

theorem up_sendOn {bytes : List Byte} {s : State} {j l : Nat} (h : (lane s l).st = stUp) : (lane (sendOn bytes s j) l).st = stUp := by
  by_cases hj : l = j
  · subst hj
    exact lane_sendOn bytes s l (.inl h)
  · rw [lane_sendOn_other bytes s hj]
    exact h

theorem up_foldl_sendOn {bytes : List Byte} (ls : List Nat) {s : State} {l : Nat} (h : (lane s l).st = stUp) :
    (lane (ls.foldl (sendOn bytes) s) l).st = stUp := by
  induction ls generalizing s with
  | nil => exact h
  | cons j ls ih => exact ih (up_sendOn h)

/-- A lane on which a frame has left is UP (R457). -/
theorem lane_foldl_sendOn {bytes : List Byte} {ls : List Nat} {s : State} {l : Nat} (hl : l ∈ ls) (h : UpOrIdle s l) :
    (lane (ls.foldl (sendOn bytes) s) l).st = stUp := by
  induction ls generalizing s with
  | nil => cases hl
  | cons j ls ih =>
    by_cases hj : l = j
    · subst hj
      exact up_foldl_sendOn ls (lane_sendOn bytes s l h)
    · refine ih ((List.mem_cons.mp hl).resolve_left hj) ?_
      rw [UpOrIdle, lane_sendOn_other bytes s hj]
      exact h

theorem upOrIdle_of_runs {s : State} {l : Nat}
    (h : (txEnabled s l && (decide ((lane s l).st = stUp) || decide ((lane s l).st = stIdle))) = true) : UpOrIdle s l := by
  rw [Bool.and_eq_true, Bool.or_eq_true, decide_eq_true_eq, decide_eq_true_eq] at h
  exact h.2

theorem upOrIdle_of_beat {s : State} {l : Nat} (h : beatLane s = some l) : UpOrIdle s l :=
  upOrIdle_of_runs (List.find?_some (p := fun l => txEnabled s l && (decide ((lane s l).st = stUp) || decide ((lane s l).st = stIdle))) h)

theorem upOrIdle_of_mem_yokeLanesOn {s : State} {l : Nat} (h : l ∈ yokeLanesOn s) : UpOrIdle s l :=
  upOrIdle_of_runs (List.mem_filter.mp h).2

/-- A frame leaves its lanes UP (R457). -/
theorem lane_sendFrame {seq : Nat} {retry : Bool} {m : YMsg} {s : State} {l : Nat} (hl : l ∈ frameLanes s m) (h : UpOrIdle s l) :
    (lane (sendFrame seq retry m s) l).st = stUp :=
  lane_foldl_sendOn hl h

/-! ## An acknowledgement -/

theorem yoke_ackSent {s : State} {l : Nat} (hl : beatLane s = some l) : frameTurn s .ack = { s.yoke with ackDue := false } := by
  have hlanes : frameLanes s .ack = [l] := congrArg Option.toList hl
  rw [frameTurn, hlanes, List.isEmpty_cons, Bool.and_false]
  rfl

section

variable {s : State} (hdue : s.yoke.ackDue = true)
include hdue

theorem ackTimerOp_eq : ackTimerOp s = sendFrame 0 false .ack s := if_pos hdue

/-- An acknowledgement that is due leaves, on its lane out of idle (R396, R457). -/
theorem ackTimerOp_of_beat {l : Nat} (hl : beatLane s = some l) :
    .yoke l (yFrame 0 s.yoke.seqRx false .ack) ∈ (ackTimerOp s).out ∧ (lane (ackTimerOp s) l).st = stUp ∧
      ackTimerOp s = { s with out := (ackTimerOp s).out, ctrs := (ackTimerOp s).ctrs, lanes := (ackTimerOp s).lanes
                              yoke := { s.yoke with ackDue := false } } := by
  have hmem : l ∈ frameLanes s .ack := Option.mem_toList.mpr hl
  rw [ackTimerOp_eq hdue, ← yoke_ackSent hl]
  exact ⟨mem_out_sendFrame 0 false .ack s hmem, lane_sendFrame hmem (upOrIdle_of_beat hl), (framesSent_sendFrame 0 false .ack s).frame⟩

end

theorem ackTimerOp_of_dark {s : State} (h : beatLane s = none) : ackTimerOp s = s := by
  have hlanes : frameLanes s .ack = [] := congrArg Option.toList h
  have hsent : sendFrame 0 false .ack s = s := by
    rw [sendFrame, hlanes, List.isEmpty_nil, Bool.and_true]
    rfl
  unfold ackTimerOp
  split
  · exact hsent
  · rfl

/-! ## The obligation -/

/-- Settles O38: a frame that arrives acts by `rxRel`, whose payloads leave the order; one that is repeated is sent as it was. -/
theorem reliableFramesActInOrder : Obligations.ReliableFramesActInOrder := by
  unfold Obligations.ReliableFramesActInOrder
  intro s hrun hon
  refine ⟨fun c h hh hch => ?_, fun h hcrc => ?_, fun n u hu hsends => ?_, fun n u hu hsends => ?_, fun n hnone => ?_, fun l hdue hl => ?_,
    fun hnone => ?_, fun hdue => ?_⟩
  · rw [exec_of_relHeader hrun hh hch]
    refine ⟨fun hcrc hseq => congrArg _ (rxRel_of_repeat hon hcrc hseq c), fun hcrc hseq hnew => congrArg _ (rxRel_of_early hon hcrc hseq hnew c),
      fun hcrc => ⟨_, rfl, ?_⟩, fun hcrc hseq hearly => ⟨_, rfl, seqRx_of_inTurn hon hcrc hseq hearly c⟩⟩
    rw [rxRel, rxFrame_of_damaged hon hcrc]
    exact ⟨counter_bump_self .., rfl⟩
  · refine (next_whenUp hrun _).trans (congrArg _ ?_)
    exact rxFrame_of_sound hon hcrc id
  · refine ⟨_, (next_whenUp hrun _).trans (congrArg _ (retryOp_of_sends hu hsends)), ?_⟩
    exact retry_sends
  · refine ⟨_, (next_whenUp hrun _).trans (congrArg _ (retryOp_of_tired hu hsends)), ?_⟩
    have moved := pathsMoved_settled s { s with yoke := { s.yoke with linkLost := true } }
    generalize pathsSettled s { s with yoke := { s.yoke with linkLost := true } } = t at moved ⊢
    refine ⟨?_, ?_⟩
    · rw [moved.yoke]
      rfl
    · have frame := moved.frame
      generalize t = u at frame ⊢
      rw [frame]
  · exact (next_whenUp hrun _).trans (congrArg _ (retryOp_of_none hnone))
  · exact ⟨_, next_whenUp hrun _, ackTimerOp_of_beat hdue hl⟩
  · exact (next_whenUp hrun _).trans (congrArg _ (ackTimerOp_of_dark hnone))
  · exact (next_whenUp hrun _).trans (congrArg _ (if_neg (by simp [hdue])))

end Sys2Proof.Laws
end

section
/-! Pairing (R356, R361, R362, R372, R384): what a HELLO makes of a SOLE part. -/

namespace Sys2Proof.Laws

open Sys2Proof Sys2Proof.Machine

/-! ## Channels that part -/

theorem ych_raiseBit (k i : Nat) (s : State) (ch : Nat) : ych (raiseBit k i s) ch = ych s ch := by
  rw [raiseBit_frame]
  rfl

theorem ych_diverge (ch c : Nat) (s : State) (j : Nat) :
    ych (diverge ch c s) j = if j = ch then { ych s ch with st := ysDiverged, cause := c } else ych s j := by
  unfold diverge
  split
  · next hst =>
    rw [ych_modYch]
    split
    · rw [← hst]
    · rfl
  · have bumped : ∀ u : State, ych (bump pgYoke 4 1 u) j = ych u j := fun _ => rfl
    rw [bumped, ych_raiseBit, ych_modYch]

theorem chans_diverge (ch c : Nat) (s : State) : (diverge ch c s).chans = s.chans := by
  unfold diverge
  split
  · rfl
  · have bumped : ∀ u : State, (bump pgYoke 4 1 u).chans = u.chans := fun _ => rfl
    rw [bumped, raiseBit_frame]
    rfl

theorem chans_sendRel (m : YMsg) (s : State) : (sendRel m s).chans = s.chans := by
  rw [(framesSent_sendRel m s).frame]

theorem ych_sendRel (m : YMsg) (s : State) (ch : Nat) : ych (sendRel m s) ch = ych s ch := by
  rw [ych, yoke_sendRel]
  rfl

theorem chans_seekResync (s : State) : (seekResync s).chans = s.chans := by
  unfold seekResync
  split
  · split
    · rw [chans_sendRel]
      rfl
    · rfl
  · rfl

/-- The channel is DIVERGED for cause `c`. -/
abbrev PartedFor (c : Nat) (s : State) (ch : Nat) : Prop := (ych s ch).st = ysDiverged ∧ (ych s ch).cause = c

theorem partedFor_seekResync {c : Nat} {s : State} {ch : Nat} (h : PartedFor c s ch) : PartedFor c (seekResync s) ch := by
  unfold seekResync
  split
  · split
    · next j _ _ =>
      have asked : ∀ u, PartedFor c u ch → PartedFor c (modYch j (fun y => { y with asked := false }) u) ch := fun u hu => by
        rw [PartedFor, ych_modYch]
        split
        · next heq =>
          subst heq
          exact hu
        · exact hu
      rw [PartedFor, ych_sendRel]
      exact asked _ h
    · exact h
  · exact h

/-- A running channel as the parts pair (R372): DIVERGED for START. -/
def startParted (theirs : List Nat) (s : State) (ch : Nat) : State :=
  modYch ch (fun y => { y with both := theirs.contains ch }) (diverge ch 1 s)

theorem ych_startParted (theirs : List Nat) (s : State) (ch j : Nat) : ych (startParted theirs s ch) j =
    if j = ch then { ych s ch with st := ysDiverged, cause := 1, both := theirs.contains ch } else ych s j := by
  rw [startParted, ych_modYch, ych_diverge, ych_diverge, if_pos rfl]
  split <;> rfl

theorem partedFor_foldl (theirs : List Nat) (l : List Nat) (s : State) :
    ∀ ch, ch ∈ l ∨ PartedFor 1 s ch → PartedFor 1 (l.foldl (startParted theirs) s) ch := by
  induction l generalizing s with
  | nil => exact fun ch h => h.resolve_left (List.not_mem_nil)
  | cons a l ih =>
    refine fun ch h => ih _ ch ?_
    by_cases ha : ch = a
    · subst ha
      refine .inr ?_
      rw [PartedFor, ych_startParted, if_pos rfl]
      exact ⟨rfl, rfl⟩
    · refine h.imp (fun hl => (List.mem_cons.mp hl).resolve_left ha) fun hp => ?_
      rw [PartedFor, ych_startParted, if_neg ha]
      exact hp

theorem talked_startParted (theirs : List Nat) (s : State) (ch : Nat) : Talked [4] s (startParted theirs s ch) :=
  (talked_diverge (by decide) ch 1 s).ych ..

/-! ## Roles taken without a partner -/

/-- A role other than ACTIVE and STANDBY ends the exchange. -/
theorem setRole_of_alone {r : Nat} (hr : r ≠ roleActive ∧ r ≠ roleStandby) (s : State) : setRole r s = exchangeOver (roleOnly r s) := by
  have alone : pairedRole (roleOnly r s) = false := by
    have hrole : (roleOnly r s).yoke.role = r := rfl
    rw [pairedRole, hrole, decide_eq_false]
    exact not_or.mpr hr
  rw [setRole_eq, alone]
  exact if_neg Bool.false_ne_true

/-- The part SOLE, a pairing refused with code `c`. -/
def refusedPair (c : Nat) (s : State) : State :=
  exchangeOver (roleOnly roleSole { s with yoke := { s.yoke with refusal := c, wait := decide (c ≤ 3) } })

theorem refusePair_eq (c : Nat) (s : State) : refusePair c s = raiseBit 7 1 (refusedPair c s) := by
  rw [refusePair, setRole_of_alone (by decide)]
  rfl

theorem refusedPair_frame (c : Nat) (s : State) : refusedPair c s = { s with yoke := (refusedPair c s).yoke } := rfl

/-- A pairing refused (R361): SOLE, with its code, struck. -/
theorem refusePair_refuses (c : Nat) (s : State) :
    (refusePair c s).yoke.role = roleSole ∧ (refusePair c s).yoke.refusal = c ∧ (refusePair c s).yoke.wait = decide (c ≤ 3) ∧
      Struck 7 1 s (refusePair c s) ∧
      refusePair c s = { s with pages := (refusePair c s).pages, yoke := (refusePair c s).yoke, ic := (refusePair c s).ic } := by
  have moved := raiseBit_frame 7 1 (refusedPair c s)
  have struck := struck_of_pages (k := 7) (i := 1) (by decide) (s := s) (u := refusedPair c s) rfl
  rw [refusePair_eq]
  have hyoke : (raiseBit 7 1 (refusedPair c s)).yoke = (refusedPair c s).yoke := by rw [moved]
  refine ⟨?_, ?_, ?_, struck, ?_⟩
  · rw [hyoke]
    rfl
  · rw [hyoke]
    rfl
  · rw [hyoke]
    rfl
  · generalize raiseBit 7 1 (refusedPair c s) = t at moved
    rw [moved, refusedPair_frame]

end Sys2Proof.Laws
end

section
/-! HELLO (R356, R361, R362, R372, R384): the roles that two parts agree on, or the refusal. -/

namespace Sys2Proof.Laws

open Sys2Proof Sys2Proof.Machine

/-! ## A HELLO heard by a SOLE part -/

/-- A SOLE part knows its partner by the HELLO `p`. -/
def partnerHeard (p : Hello) (s : State) : State := { s with yoke := { s.yoke with hello := some p, partner := p.role } }

/-- The part has decided on role `r`, and numbers its frames afresh. -/
def roleDecided (r : Nat) (s : State) : State :=
  { s with yoke := { s.yoke with came := s.yoke.role, paired := r, seqTx := 0, seqRx := 0, unacked := [], early := [] } }

section

variable {s : State} (hsole : s.yoke.role = roleSole) (hbar : s.yoke.barred = false) (hwait : s.yoke.wait = false) (hheld : s.host.held = false)
include hsole hbar hwait hheld

theorem helloOp_of_sole (p : Hello) : helloOp p s =
    if helloRefusal s p ≠ 0 then refusePair (helloRefusal s p) (partnerHeard p s)
    else if s.yoke.sundered && transmits p.role then partnerRole p.role (partnerHeard p s)
    else match decideRole s p with
      | none => refusePair 4 (setRole rolePairing (partnerHeard p s))
      | some r => partnerRole p.role (setRole rolePairing (roleDecided r (partnerHeard p s))) := by
  have hseeks : ¬ (s.yoke.barred || s.yoke.wait || s.host.held) = true := by
    rw [hbar, hwait, hheld]
    decide
  refine (if_neg (not_not_intro hsole)).trans ((if_neg hseeks).trans ?_)
  rfl

end

/-! ## Roles agreed -/

/-- The parts' roles fit (R362). -/
abbrev Fit (r q : Nat) : Prop := (r = roleActive ∧ q = roleStandby) ∨ (r = roleStandby ∧ q = roleActive)

/-- What pairing may move. -/
abbrev PairMoved (s t : State) : Prop :=
  t = { s with out := t.out, pages := t.pages, ctrs := t.ctrs, yoke := t.yoke, ic := t.ic, lanes := t.lanes }

theorem pairMoved_setRole (r : Nat) {s u : State} (h : PairMoved s u) : PairMoved s (setRole r u) := by
  have moved := (roleTaken_setRole r u).frame
  generalize setRole r u = t at moved
  rw [PairMoved] at h ⊢
  rw [moved, h]

theorem pairMoved_yoke {s u : State} (h : PairMoved s u) (y : Yoke) : PairMoved s { u with yoke := y } := by
  rw [PairMoved] at h ⊢
  rw [h]

/-- The part in PAIRING with role `r` decided, its partner's HELLO `p` heard. -/
def pairingFor (r : Nat) (p : Hello) (s : State) : State := exchangeOver (roleOnly rolePairing (roleDecided r (partnerHeard p s)))

theorem setRole_pairing (s : State) : setRole rolePairing s = exchangeOver (roleOnly rolePairing s) := setRole_of_alone (by decide) s

theorem pairMoved_pairingFor (r : Nat) (p : Hello) (s : State) : PairMoved s (pairingFor r p s) := by
  have heard : PairMoved s (partnerHeard p s) := pairMoved_yoke rfl _
  have decided : PairMoved s (roleDecided r (partnerHeard p s)) := pairMoved_yoke heard _
  have taken : PairMoved s (roleOnly rolePairing (roleDecided r (partnerHeard p s))) := pairMoved_yoke decided _
  exact pairMoved_yoke taken _

theorem pairingFor_yoke (r : Nat) (p : Hello) (s : State) : (pairingFor r p s).yoke.role = rolePairing ∧ (pairingFor r p s).yoke.paired = r ∧
    (pairingFor r p s).yoke.hello = some p ∧ (pairingFor r p s).yoke.partner = p.role :=
  ⟨rfl, rfl, rfl, rfl⟩

theorem partnerRole_of_pairing {r : Nat} (p : Hello) (s : State) : partnerRole p.role (pairingFor r p s) =
    if Fit r p.role then completePair (pairingFor r p s) else pairingFor r p s := rfl

theorem runningChs_congr {s t : State} (h : t.chans = s.chans) : runningChs t = runningChs s := by
  have hrunning : ∀ ch, running t ch = running s ch := fun ch => by rw [running, running, chan, chan, h]
  rw [runningChs, runningChs, h, funext hrunning]

/-- The state with the roles agreed, its channels not yet parted. -/
def roleAgreed (r : Nat) (s : State) : State := setRole r { s with yoke := { s.yoke with sundered := false } }

theorem completePair_eq (s : State) : completePair s =
    seekResync ((runningChs (roleAgreed s.yoke.paired s)).foldl (startParted ((s.yoke.hello.map (fun h => h.running)).getD []))
      (roleAgreed s.yoke.paired s)) := rfl

/-- Pairing completes (R361, R372): the role, and every running channel DIVERGED for START. -/
theorem completePair_pairs (s : State) :
    (completePair s).yoke.role = s.yoke.paired ∧ (completePair s).yoke.paired = s.yoke.paired ∧ (completePair s).yoke.hello = s.yoke.hello ∧
      (∀ ch ∈ runningChs s, PartedFor 1 (completePair s) ch) ∧ PairMoved s (completePair s) := by
  rw [completePair_eq]
  have taken := roleTaken_setRole s.yoke.paired { s with yoke := { s.yoke with sundered := false } }
  have moved : PairMoved s (roleAgreed s.yoke.paired s) := pairMoved_setRole _ rfl
  have hchans : (roleAgreed s.yoke.paired s).chans = s.chans := by rw [moved]
  rw [runningChs_congr hchans]
  change RoleTaken _ _ (roleAgreed s.yoke.paired s) at taken
  have hkept : (roleAgreed s.yoke.paired s).yoke.paired = s.yoke.paired ∧ (roleAgreed s.yoke.paired s).yoke.hello = s.yoke.hello := by
    rw [taken.yoke]
    exact ⟨rfl, rfl⟩
  have hrole := taken.role
  generalize roleAgreed s.yoke.paired s = a at moved hchans hkept hrole
  generalize (s.yoke.hello.map (fun h => h.running)).getD [] = theirs
  have parted : Talked [4] a ((runningChs s).foldl (startParted theirs) a) := .foldl (talked_startParted theirs) _ a
  have talked := parted.trans (talked_seekResync _)
  have hstill : (seekResync ((runningChs s).foldl (startParted theirs) a)).chans = s.chans := by
    rw [chans_seekResync, ← hchans]
    exact foldl_keeps (g := fun s => s.chans) (f := startParted theirs) (fun s ch => chans_diverge ch 1 s) _ a
  have hparted : ∀ ch ∈ runningChs s, PartedFor 1 (seekResync ((runningChs s).foldl (startParted theirs) a)) ch := fun ch hch =>
    partedFor_seekResync (partedFor_foldl theirs _ a ch (.inl hch))
  generalize seekResync ((runningChs s).foldl (startParted theirs) a) = t at talked hstill hparted
  refine ⟨?_, ?_, ?_, hparted, ?_⟩
  · rw [talked.yoke]
    exact hrole
  · rw [talked.yoke]
    exact hkept.1
  · rw [talked.yoke]
    exact hkept.2
  · have frame := talked.frame
    rw [hstill, moved] at frame
    generalize t = u at frame
    rw [PairMoved, frame]

/-- A HELLO of a part that may pair decides this part's role (R361, R362). -/
theorem partnerRole_pairs (r : Nat) (p : Hello) (s : State) :
    (partnerRole p.role (pairingFor r p s)).yoke.role = (if Fit r p.role then r else rolePairing) ∧
      (partnerRole p.role (pairingFor r p s)).yoke.paired = r ∧ (partnerRole p.role (pairingFor r p s)).yoke.hello = some p ∧
      ((partnerRole p.role (pairingFor r p s)).yoke.role = r → r ≠ rolePairing →
        ∀ ch ∈ runningChs s, PartedFor 1 (partnerRole p.role (pairingFor r p s)) ch) ∧
      PairMoved s (partnerRole p.role (pairingFor r p s)) := by
  obtain ⟨hrole, hpaired, hhello, -⟩ := pairingFor_yoke r p s
  have moved := pairMoved_pairingFor r p s
  rw [partnerRole_of_pairing]
  generalize pairingFor r p s = u at hrole hpaired hhello moved
  split
  · obtain ⟨hrole', hpaired', hhello', hparted, moved'⟩ := completePair_pairs u
    have hchans : u.chans = s.chans := by rw [moved]
    rw [runningChs_congr hchans] at hparted
    refine ⟨hrole'.trans hpaired, hpaired'.trans hpaired, hhello'.trans hhello, fun _ _ => hparted, ?_⟩
    generalize completePair u = t at moved'
    rw [moved, PairMoved] at moved'
    rw [PairMoved, moved']
  · exact ⟨hrole, hpaired, hhello, fun heq hne => absurd (heq.symm.trans hrole) hne, moved⟩

end Sys2Proof.Laws
end

section
/-! The loss of the paths (R377, R378, R380) and their return: what becomes of the role. -/

namespace Sys2Proof.Laws

open Sys2Proof Sys2Proof.Machine

/-- What the events of the link may move. -/
abbrev LinkMoved (s t : State) : Prop :=
  t = { s with out := t.out, pages := t.pages, ctrs := t.ctrs, chans := t.chans, yoke := t.yoke, ic := t.ic, lanes := t.lanes }

theorem linkMoved_of_pathsMoved {s u t : State} (h : LinkMoved s u) (g : PathsMoved u t) : LinkMoved s t := by
  have moved := g.frame
  rw [LinkMoved] at h ⊢
  generalize t = v at moved
  rw [moved, h]

theorem linkMoved_of_talked {ns : List Nat} {s u t : State} (h : LinkMoved s u) (g : Talked ns u t) : LinkMoved s t := by
  have moved := g.frame
  rw [LinkMoved] at h ⊢
  generalize t = v at moved
  rw [moved, h]

/-! ## What a change of the paths leaves -/

section

variable (s0 x : State)

theorem lossNoted_stands : (lossNoted s0 x).yoke.role = x.yoke.role ∧ (lossNoted s0 x).yoke.linkLost = x.yoke.linkLost ∧
    (lossNoted s0 x).yoke.pinLost = x.yoke.pinLost ∧ (lossNoted s0 x).yoke.lastBeat = x.yoke.lastBeat ∧
    (lossNoted s0 x).yoke.pendTake = x.yoke.pendTake := by
  have lifted : ∀ u : State, (barsLifted u).yoke.role = u.yoke.role ∧ (barsLifted u).yoke.linkLost = u.yoke.linkLost ∧
      (barsLifted u).yoke.pinLost = u.yoke.pinLost ∧ (barsLifted u).yoke.lastBeat = u.yoke.lastBeat ∧
      (barsLifted u).yoke.pendTake = u.yoke.pendTake := fun u => by
    unfold barsLifted
    split <;> exact ⟨rfl, rfl, rfl, rfl, rfl⟩
  obtain ⟨hrole, hlink, hpin, hbeat, htake⟩ := (talked_noted s0 x).stands
  obtain ⟨hrole', hlink', hpin', hbeat', htake'⟩ := lifted (linkNoted s0 (pathNoted s0 x))
  exact ⟨hrole'.trans hrole, hlink'.trans hlink, hpin'.trans hpin, hbeat'.trans hbeat, htake'.trans htake⟩

theorem bothLost_lossNoted : bothLost s0 (lossNoted s0 x) =
    (x.yoke.pinLost && x.yoke.linkLost && !(s0.yoke.pinLost && s0.yoke.linkLost) && pairedRole x) := by
  obtain ⟨hrole, hlink, hpin, -, -⟩ := lossNoted_stands s0 x
  rw [bothLost, pairedRole, hrole, hlink, hpin]
  rfl

theorem counter_lossNoted {n : Nat} (hn : n < 128) (hno : n ∉ [3, 4, 6]) : counter (lossNoted s0 x) 7 n = counter x 7 n := by
  have lifted : ∀ u : State, counter (barsLifted u) 7 n = counter u 7 n := fun u => by
    unfold barsLifted
    split <;> rfl
  exact (lifted _).trans ((talked_noted s0 x).ctr n hn hno)

end

/-! ## The partner lost -/

/-- The state of a part whose partner is lost. -/
def sundering (u : State) : State := { u with yoke := { u.yoke with sundered := true } }

theorem partnerNoted_eq (u : State) : partnerNoted u = bump 7 2 1 (raiseBit 7 2 (sundering u)) := rfl

theorem partnerNoted_keeps (u : State) : (partnerNoted u).yoke = (sundering u).yoke ∧ (partnerNoted u).time = u.time := by
  have bumped : ∀ v : State, (bump 7 2 1 v).yoke = v.yoke ∧ (bump 7 2 1 v).time = v.time := fun _ => ⟨rfl, rfl⟩
  obtain ⟨hyoke, htime⟩ := bumped (raiseBit 7 2 (sundering u))
  rw [partnerNoted_eq, hyoke, htime, raiseBit_frame]
  exact ⟨rfl, rfl⟩

theorem struck_partnerNoted (u : State) : bitOf (page (partnerNoted u) 7).stat 2 = true :=
  bitOf_of_struck (by decide) (struck_raiseBit 7 (by decide) (sundering u))

theorem counter_partnerNoted (u : State) : counter (partnerNoted u) 7 2 = counter u 7 2 + BitVec.ofNat 64 1 := by
  rw [partnerNoted_eq, counter_bump_self, counter_raiseBit]
  rfl

/-- The state of a standby that is to take over, where it was not before. -/
theorem pendTake_takeoverDue {u : State} (h : u.yoke.pendTake = none) :
    (takeoverDue u).yoke.pendTake = some (u.yoke.lastBeat, furrowFrom u.time.now) := by
  unfold takeoverDue
  rw [h]

section

variable {s0 x : State}

theorem pathsChanged_of_reached (h : (x.yoke.pinLost && x.yoke.linkLost) = false) : pathsChanged s0 x = linkNoted s0 (pathNoted s0 x) := by
  obtain ⟨-, hlink, hpin, -, -⟩ := (talked_noted s0 x).stands
  have barred : lossNoted s0 x = linkNoted s0 (pathNoted s0 x) := by
    refine if_neg ?_
    rw [hlink, hpin, h]
    decide
  rw [pathsChanged_eq, bothLost_lossNoted, h, ← barred]
  rfl

/-- Without both paths lost the role stands (R378). -/
theorem talked_pathsSettled (h : (x.yoke.pinLost && x.yoke.linkLost) = false) : Talked [3, 4, 6] x (pathsSettled s0 x) := by
  have noted := talked_noted s0 x
  have changed := pathsChanged_of_reached (s0 := s0) h
  have settled := talked_settled (ns := [3, 4, 6]) s0 x
  rw [changed] at settled
  exact noted.trans settled

/-- One path that is lost is told (R378). -/
theorem pathsSettled_faults (h : (x.yoke.pinLost && x.yoke.linkLost) = false) (hnow : pathFault x.yoke = true) (hwas : pathFault s0.yoke = false) :
    bitOf (page (pathsSettled s0 x) 7).stat 5 = true ∧ Counted 7 3 1 x (pathsSettled s0 x) := by
  have told : pathNoted s0 x = bump 7 3 1 (raiseBit 7 5 x) := if_pos (by rw [hnow, hwas]; rfl)
  have linked : Talked [4, 6] (pathNoted s0 x) (linkNoted s0 (pathNoted s0 x)) := talked_linkNoted (by decide) (by decide) ..
  have changed := pathsChanged_of_reached (s0 := s0) h
  have settled := talked_settled (ns := [4, 6]) s0 x
  rw [changed] at settled
  have after := linked.trans settled
  rw [told] at after
  have struck : bitOf (page (raiseBit 7 5 x) 7).stat 5 = true := bitOf_of_struck (by decide) (struck_raiseBit 7 (by decide) x)
  refine ⟨after.bits 7 5 struck, ?_⟩
  rw [Counted, after.ctr 3 (by decide) (by decide), counter_bump_self, counter_raiseBit]

section

variable (hpin : x.yoke.pinLost = true) (hlink : x.yoke.linkLost = true) (hwas : (s0.yoke.pinLost && s0.yoke.linkLost) = false)
include hpin hlink hwas

theorem pathsChanged_of_lost (hpaired : pairedRole x = true) : pathsChanged s0 x = partnerLost (lossNoted s0 x) := by
  rw [pathsChanged_eq, bothLost_lossNoted, hpin, hlink, hwas, hpaired]
  rfl

/-- An ACTIVE part that has lost its partner is SOLE (R378). -/
theorem pathsSettled_of_active (hactive : x.yoke.role = roleActive) : (pathsSettled s0 x).yoke.role = roleSole ∧
    bitOf (page (pathsSettled s0 x) 7).stat 2 = true ∧ Counted 7 2 1 x (pathsSettled s0 x) := by
  have hpaired : pairedRole x = true := by
    rw [pairedRole, hactive]
    rfl
  have hrole := (lossNoted_stands s0 x).1.trans hactive
  have settled := talked_settled (ns := []) s0 x
  have hcount := counter_lossNoted s0 x (n := 2) (by decide) (by decide)
  rw [pathsChanged_of_lost hpin hlink hwas hpaired] at settled
  generalize lossNoted s0 x = u at hrole hcount settled
  have hlost : partnerLost u = setRole roleSole (partnerNoted u) := if_pos (by rw [(partnerNoted_keeps u).1]; exact hrole)
  rw [hlost] at settled
  have taken := roleTaken_setRole roleSole (partnerNoted u)
  refine ⟨settled.stands.1.trans taken.role, settled.bits 7 2 (taken.bits 7 2 (struck_partnerNoted u)), ?_⟩
  have htaken : counter (setRole roleSole (partnerNoted u)) 7 2 = counter (partnerNoted u) 7 2 := by
    rw [counter, taken.ctrs]
    rfl
  rw [Counted, settled.ctr 2 (by decide) (by decide), htaken, counter_partnerNoted, hcount]

/-- A STANDBY that has lost its partner is to take over (R378, R380). -/
theorem pathsSettled_of_standby (hstandby : x.yoke.role = roleStandby) (hnone : x.yoke.pendTake = none) :
    (pathsSettled s0 x).yoke.pendTake = some (x.yoke.lastBeat, furrowFrom x.time.now) := by
  have hpaired : pairedRole x = true := by
    rw [pairedRole, hstandby]
    rfl
  obtain ⟨hrole, -, -, hbeat, htake⟩ := lossNoted_stands s0 x
  have htime : (lossNoted s0 x).time = x.time := by rw [(pathsMoved_lossNoted s0 x).frame]
  have settled := talked_settled (ns := []) s0 x
  rw [pathsChanged_of_lost hpin hlink hwas hpaired] at settled
  rw [settled.stands.2.2.2.2]
  generalize lossNoted s0 x = u at hrole hbeat htake htime
  have hnot : ¬ (partnerNoted u).yoke.role = roleActive := by
    have hkept : (partnerNoted u).yoke.role = u.yoke.role := by rw [(partnerNoted_keeps u).1]; rfl
    rw [hkept, hrole, hstandby]
    decide
  have hlost : partnerLost u = takeoverDue (partnerNoted u) := if_neg hnot
  obtain ⟨hyoke, hnow⟩ := partnerNoted_keeps u
  have hopen : (partnerNoted u).yoke.pendTake = none := by
    rw [hyoke]
    exact htake.trans hnone
  have hlast : (partnerNoted u).yoke.lastBeat = x.yoke.lastBeat := by
    rw [hyoke]
    exact hbeat
  rw [hlost, pendTake_takeoverDue hopen, hlast, hnow, htime]

end

end

end Sys2Proof.Laws
end

section
/-! HELLOs of parts that were active both (R384): which of them is to stand by. -/

namespace Sys2Proof.Laws

open Sys2Proof Sys2Proof.Machine

/-! ## Two parts that were active (R384) -/

theorem losesDual_struck (k i : Nat) (p : Hello) (s : State) : losesDual (raiseBit k i s) p = losesDual s p := by
  rw [raiseBit_frame]
  rfl

/-- A SOLE part that lost its partner and hears it transmit (R384). -/
theorem partnerRole_of_sundered {p : Hello} {s : State} (hsole : s.yoke.role = roleSole) (hbar : s.yoke.barred = false)
    (hsun : s.yoke.sundered = true) (htx : transmits p.role = true) (hdual : s.yoke.dual = none) :
    partnerRole p.role (partnerHeard p s) = match losesDual s p with
      | some b => { raiseBit 7 12 (partnerHeard p s) with yoke := { (raiseBit 7 12 (partnerHeard p s)).yoke with dual := some b } }
      | none => setRole roleSole { raiseBit 7 12 (partnerHeard p s) with
          yoke := { (raiseBit 7 12 (partnerHeard p s)).yoke with barred := true } } := by
  have hdualActive : partnerRole p.role (partnerHeard p s) = dualActive (partnerHeard p s) := by
    have hpairing : ¬ (partnerHeard p s).yoke.role = rolePairing := by
      change ¬ s.yoke.role = rolePairing
      rw [hsole]
      decide
    exact (if_neg hpairing).trans (if_pos ⟨.inr ⟨hsole, hsun⟩, htx⟩)
  have hopen : ¬ ((partnerHeard p s).yoke.dual.isSome || (partnerHeard p s).yoke.barred) = true := by
    change ¬ (s.yoke.dual.isSome || s.yoke.barred) = true
    rw [hdual, hbar]
    decide
  have hheard : (raiseBit 7 12 (partnerHeard p s)).yoke.hello = some p := by
    rw [raiseBit_frame]
    rfl
  have hloses : losesDual (raiseBit pgYoke 12 (partnerHeard p s)) p = losesDual s p := losesDual_struck 7 12 p (partnerHeard p s)
  rw [hdualActive]
  refine (if_neg hopen).trans ?_
  change (match (raiseBit 7 12 (partnerHeard p s)).yoke.hello with
    | none => _
    | some p => _) = _
  rw [hheard]
  change (if (!transmits p.role) = true then _ else _) = _
  rw [htx]
  refine (if_neg (by decide)).trans ?_
  rw [hloses]
  rfl

/-- The order of R384 says which of the two becomes STANDBY, or that they tie. -/
theorem partnerRole_duals {p : Hello} {s : State} (hsole : s.yoke.role = roleSole) (hbar : s.yoke.barred = false)
    (hsun : s.yoke.sundered = true) (htx : transmits p.role = true) (hdual : s.yoke.dual = none) :
    (partnerRole p.role (partnerHeard p s)).yoke.role = roleSole ∧ (partnerRole p.role (partnerHeard p s)).yoke.hello = some p ∧
      Struck 7 12 s (partnerRole p.role (partnerHeard p s)) ∧ (partnerRole p.role (partnerHeard p s)).yoke.dual = losesDual s p ∧
      (partnerRole p.role (partnerHeard p s)).yoke.barred = decide (losesDual s p = none) ∧
      partnerRole p.role (partnerHeard p s) = { s with
        pages := (partnerRole p.role (partnerHeard p s)).pages, yoke := (partnerRole p.role (partnerHeard p s)).yoke
        ic := (partnerRole p.role (partnerHeard p s)).ic } := by
  rw [partnerRole_of_sundered hsole hbar hsun htx hdual]
  have struck : Struck 7 12 s (raiseBit 7 12 (partnerHeard p s)) := struck_of_pages (by decide) rfl
  have hyoke : (raiseBit 7 12 (partnerHeard p s)).yoke = (partnerHeard p s).yoke := by rw [raiseBit_frame]
  have moved : raiseBit 7 12 (partnerHeard p s) = { s with
      pages := (raiseBit 7 12 (partnerHeard p s)).pages, yoke := (raiseBit 7 12 (partnerHeard p s)).yoke
      ic := (raiseBit 7 12 (partnerHeard p s)).ic } := by
    have frame := raiseBit_frame 7 12 (partnerHeard p s)
    generalize raiseBit 7 12 (partnerHeard p s) = t at frame
    rw [frame]
    rfl
  generalize raiseBit 7 12 (partnerHeard p s) = t at struck hyoke moved ⊢
  cases hl : losesDual s p with
  | some b =>
    refine ⟨?_, ?_, struck, rfl, ?_, ?_⟩
    · exact (congrArg Yoke.role hyoke).trans hsole
    · exact congrArg Yoke.hello hyoke
    · exact (congrArg Yoke.barred hyoke).trans hbar
    · rw [moved]
  | none =>
    dsimp only
    rw [setRole_of_alone (by decide)]
    refine ⟨rfl, ?_, struck, rfl, rfl, ?_⟩
    · exact congrArg Yoke.hello hyoke
    · rw [moved]
      rfl

end Sys2Proof.Laws
end

section
/-! Heartbeats missed and heard (R376–R380): what they tell. -/

namespace Sys2Proof.Laws

open Sys2Proof Sys2Proof.Machine

/-! ## A period missed -/

/-- A period of the link path missed, before its loss is acted on. -/
def linkMissed (s : State) : State :=
  bump 7 17 1 { s with yoke := { s.yoke with
    linkMiss := min 8 (s.yoke.linkMiss + 1), linkLost := s.yoke.linkLost || decide (min 8 (s.yoke.linkMiss + 1) = 8) } }

/-- A period of the pin path missed, before its loss is acted on. -/
def pinMissed (s : State) : State :=
  bump 7 16 1 { s with yoke := { s.yoke with
    pinMiss := min 8 (s.yoke.pinMiss + 1), pinLost := s.yoke.pinLost || decide (min 8 (s.yoke.pinMiss + 1) = 8) } }

theorem missedOp_link {s : State} (hon : yokeOn s = true) : missedOp true s = pathsSettled s (linkMissed s) := by
  rw [missedOp, hon]
  rfl

theorem missedOp_pin {s : State} (hon : yokeOn s = true) : missedOp false s = pathsSettled s (pinMissed s) := by
  rw [missedOp, hon]
  rfl

/-- The eighth period in a row (R377). -/
theorem eighth_iff (m : Nat) : decide (min 8 (m + 1) = 8) = decide (7 ≤ m) := by
  refine decide_eq_decide.mpr ?_
  omega

theorem missed_link {s : State} (hon : yokeOn s = true) :
    (missedOp true s).yoke.linkMiss = min 8 (s.yoke.linkMiss + 1) ∧ Counted 7 17 1 s (missedOp true s) ∧
      (missedOp true s).yoke.linkLost = (s.yoke.linkLost || decide (7 ≤ s.yoke.linkMiss)) ∧
      (s.yoke.pinLost = true → s.yoke.linkLost = false → 7 ≤ s.yoke.linkMiss → s.yoke.role = roleActive →
        (missedOp true s).yoke.role = roleSole ∧ bitOf (page (missedOp true s) 7).stat 2 = true ∧ Counted 7 2 1 s (missedOp true s)) ∧
      (s.yoke.pinLost = true → s.yoke.linkLost = false → 7 ≤ s.yoke.linkMiss → s.yoke.role = roleStandby → s.yoke.pendTake = none →
        (missedOp true s).yoke.pendTake = some (s.yoke.lastBeat, furrowFrom s.time.now)) ∧
      LinkMoved s (missedOp true s) := by
  rw [missedOp_link hon]
  have moved := pathsMoved_settled s (linkMissed s)
  have start : LinkMoved s (linkMissed s) := rfl
  have hlost : (linkMissed s).yoke.linkLost = (s.yoke.linkLost || decide (7 ≤ s.yoke.linkMiss)) := by
    rw [← eighth_iff]
    rfl
  have hcount : ∀ n, n ≠ 17 → n < 128 → counter (linkMissed s) 7 n = counter s 7 n := fun n hn hlt => counter_bump_other (by omega) ..
  refine ⟨?_, ?_, ?_, fun hpin hlink hmiss hactive => ?_, fun hpin hlink hmiss hstandby hnone => ?_, linkMoved_of_pathsMoved start moved⟩
  · rw [moved.yoke]
    rfl
  · rw [Counted, moved.ctr 17 (by decide) (by decide)]
    exact counter_bump_self ..
  · rw [moved.yoke]
    exact hlost
  · have hgone : (linkMissed s).yoke.linkLost = true := by rw [hlost, decide_eq_true hmiss, Bool.or_true]
    obtain ⟨hrole, hbit, hctr⟩ := pathsSettled_of_active (s0 := s) (x := linkMissed s) hpin hgone (by rw [hpin, hlink]; rfl) hactive
    exact ⟨hrole, hbit, hctr.trans (congrArg (· + BitVec.ofNat 64 1) (hcount 2 (by decide) (by decide)))⟩
  · have hgone : (linkMissed s).yoke.linkLost = true := by rw [hlost, decide_eq_true hmiss, Bool.or_true]
    exact pathsSettled_of_standby (s0 := s) (x := linkMissed s) hpin hgone (by rw [hpin, hlink]; rfl) hstandby hnone

theorem missed_pin {s : State} (hon : yokeOn s = true) :
    (missedOp false s).yoke.pinMiss = min 8 (s.yoke.pinMiss + 1) ∧ Counted 7 16 1 s (missedOp false s) ∧
      (missedOp false s).yoke.pinLost = (s.yoke.pinLost || decide (7 ≤ s.yoke.pinMiss)) ∧
      (s.yoke.linkLost = true → s.yoke.pinLost = false → 7 ≤ s.yoke.pinMiss → s.yoke.role = roleActive →
        (missedOp false s).yoke.role = roleSole ∧ bitOf (page (missedOp false s) 7).stat 2 = true) ∧
      (s.yoke.linkLost = false → s.yoke.pinLost = false → 7 ≤ s.yoke.pinMiss → (missedOp false s).yoke.role = s.yoke.role ∧
        bitOf (page (missedOp false s) 7).stat 5 = true ∧ Counted 7 3 1 s (missedOp false s)) ∧
      LinkMoved s (missedOp false s) := by
  rw [missedOp_pin hon]
  have moved := pathsMoved_settled s (pinMissed s)
  have start : LinkMoved s (pinMissed s) := rfl
  have hlost : (pinMissed s).yoke.pinLost = (s.yoke.pinLost || decide (7 ≤ s.yoke.pinMiss)) := by
    rw [← eighth_iff]
    rfl
  have hcount : ∀ n, n ≠ 16 → n < 128 → counter (pinMissed s) 7 n = counter s 7 n := fun n hn hlt => counter_bump_other (by omega) ..
  refine ⟨?_, ?_, ?_, fun hlink hpin hmiss hactive => ?_, fun hlink hpin hmiss => ?_, linkMoved_of_pathsMoved start moved⟩
  · rw [moved.yoke]
    rfl
  · rw [Counted, moved.ctr 16 (by decide) (by decide)]
    exact counter_bump_self ..
  · rw [moved.yoke]
    exact hlost
  · have hgone : (pinMissed s).yoke.pinLost = true := by rw [hlost, decide_eq_true hmiss, Bool.or_true]
    obtain ⟨hrole, hbit, -⟩ := pathsSettled_of_active (s0 := s) (x := pinMissed s) hgone hlink (by rw [hpin, hlink]; rfl) hactive
    exact ⟨hrole, hbit⟩
  · have hgone : (pinMissed s).yoke.pinLost = true := by rw [hlost, decide_eq_true hmiss, Bool.or_true]
    have hheld : (pinMissed s).yoke.linkLost = false := hlink
    have hreach : ((pinMissed s).yoke.pinLost && (pinMissed s).yoke.linkLost) = false := by rw [hheld, Bool.and_false]
    have hnow : pathFault (pinMissed s).yoke = true := by rw [pathFault, hgone, hheld]; rfl
    have hwas : pathFault s.yoke = false := by rw [pathFault, hpin, hlink]; rfl
    obtain ⟨hbit, hctr⟩ := pathsSettled_faults (s0 := s) hreach hnow hwas
    exact ⟨(talked_pathsSettled hreach).stands.1, hbit,
      hctr.trans (congrArg (· + BitVec.ofNat 64 1) (hcount 3 (by decide) (by decide)))⟩

/-! ## A pulse -/

/-- The pin path has been heard (R376). -/
def pinHeard (s : State) : State := { s with yoke := { s.yoke with pinMiss := 0, pinLost := false, lastBeat := s.time.now } }

/-- The state after a pulse of a known width, but for a yield. -/
def pulsed (s : State) : State := pathsSettled s (pinHeard s)

/-- A standby takes over for a yield seen on the pin path (R380). -/
def pinYields (s : State) : State :=
  { s with yoke := { s.yoke with pendTake := some (s.time.now, furrowFrom (s.time.now + 20000)) } }

theorem pulseOp_of_known {s : State} (hon : yokeOn s = true) {w : Nat} (hw : (pulseIs w 100 || pulseIs w 300 || pulseIs w 1000) = true) :
    pulseOp w s = if pulseIs w 1000 && decide ((pulsed s).yoke.role = roleStandby) && (pulsed s).yoke.pendTake.isNone then pinYields (pulsed s)
      else pulsed s := by
  rw [pulseOp, hon, hw]
  rfl

theorem pulse_revives {s : State} (hon : yokeOn s = true) {w : Nat} (hw : (pulseIs w 100 || pulseIs w 300 || pulseIs w 1000) = true) :
    (pulseOp w s).yoke.pinMiss = 0 ∧ (pulseOp w s).yoke.pinLost = false ∧ (pulseOp w s).yoke.lastBeat = s.time.now ∧
      (pulseOp w s).yoke.role = s.yoke.role ∧
      (pulseIs w 1000 = true → s.yoke.role = roleStandby → s.yoke.pendTake = none →
        (pulseOp w s).yoke.pendTake = some (s.time.now, furrowFrom (s.time.now + 20000))) ∧
      LinkMoved s (pulseOp w s) := by
  have heard : Talked [3, 4, 6] (pinHeard s) (pulsed s) := talked_pathsSettled rfl
  have moved : LinkMoved s (pulsed s) := linkMoved_of_talked (u := pinHeard s) rfl heard
  have hyoke := heard.yoke
  have htime : (pulsed s).time = s.time := by rw [moved]
  rw [pulseOp_of_known hon hw]
  generalize pulsed s = t at moved hyoke htime
  have hmiss : t.yoke.pinMiss = 0 ∧ t.yoke.pinLost = false ∧ t.yoke.lastBeat = s.time.now ∧ t.yoke.role = s.yoke.role ∧
      t.yoke.pendTake = s.yoke.pendTake := by
    rw [hyoke]
    exact ⟨rfl, rfl, rfl, rfl, rfl⟩
  obtain ⟨hmiss, hlost, hbeat, hrole, htake⟩ := hmiss
  split
  · refine ⟨hmiss, hlost, hbeat, hrole, fun _ _ _ => ?_, ?_⟩
    · rw [← htime]
      rfl
    · generalize t = u at moved
      rw [LinkMoved, pinYields, moved]
  · next hno =>
    refine ⟨hmiss, hlost, hbeat, hrole, fun hwide hstandby hnone => absurd ?_ hno, moved⟩
    rw [hwide, hrole, hstandby, htake, hnone]
    rfl

/-! ## A BEAT heard -/

/-- The link path has been heard (R376): frames that went unacknowledged on a lost one are sent afresh. -/
def linkHeard (p : Beat) (s : State) : State :=
  { s with yoke := { s.yoke with
    linkMiss := 0, linkLost := false, lastBeat := s.time.now, beat := some p
    unacked := if s.yoke.linkLost then s.yoke.unacked.map (fun u => { u with sends := 1 }) else s.yoke.unacked } }

/-- The partner's role is known. -/
def partnerKnown (r : Nat) (s : State) : State := { s with yoke := { s.yoke with partner := r } }

theorem beatOp_eq (p : Beat) (s : State) :
    beatOp p s = seekResync (yieldOnConditions (partnerRole p.role (pathsSettled s (linkHeard p s)))) := rfl

theorem pathsMoved_completePair (s : State) : PathsMoved s (completePair s) := by
  rw [completePair_eq]
  have agreed : PathsMoved s (roleAgreed s.yoke.paired s) := by
    have met : PathsMoved s { s with yoke := { s.yoke with sundered := false } } := ⟨rfl, rfl, fun _ _ hb => hb, fun _ _ _ => rfl⟩
    exact met.trans (roleTaken_setRole ..).pathsMoved
  have parted := (Talked.foldl (talked_startParted ((s.yoke.hello.map (fun h => h.running)).getD [])) (runningChs (roleAgreed s.yoke.paired s))
    (roleAgreed s.yoke.paired s)).trans (talked_seekResync _)
  exact agreed.trans (parted.pathsMoved (by simp +contextual))

theorem pathsMoved_dualActive (s : State) : PathsMoved s (dualActive s) := by
  have struck : PathsMoved s (raiseBit pgYoke 12 s) := ((Talked.refl (ns := []) s).raised ..).pathsMoved (by simp)
  unfold dualActive
  extract_lets u
  change PathsMoved s u at struck
  clear_value u
  split
  · exact .refl s
  · refine struck.trans ?_
    split
    · exact .refl u
    split
    · exact .refl u
    split
    · exact ⟨rfl, rfl, fun _ _ hb => hb, fun _ _ _ => rfl⟩
    · have tied : PathsMoved u { u with yoke := { u.yoke with barred := true } } := ⟨rfl, rfl, fun _ _ hb => hb, fun _ _ _ => rfl⟩
      exact tied.trans (roleTaken_setRole ..).pathsMoved

theorem partnerRole_eq (r : Nat) (s : State) : partnerRole r s =
    if s.yoke.role = rolePairing then
      (if Fit s.yoke.paired r then completePair (partnerKnown r s) else partnerKnown r s)
    else if (s.yoke.role = roleActive ∨ (s.yoke.role = roleSole ∧ s.yoke.sundered = true)) ∧ transmits r = true then
      dualActive (partnerKnown r s)
    else partnerKnown r s := rfl

theorem pathsMoved_partnerRole (r : Nat) (s : State) : PathsMoved (partnerKnown r s) (partnerRole r s) := by
  rw [partnerRole_eq]
  split
  · split
    · exact pathsMoved_completePair _
    · exact .refl _
  · split
    · exact pathsMoved_dualActive _
    · exact .refl _

/-- An ACTIVE part stays so while its partner stands by. -/
theorem partnerRole_of_standby {s : State} (hactive : s.yoke.role = roleActive) : partnerRole roleStandby s = partnerKnown roleStandby s := by
  rw [partnerRole_eq, hactive]
  rfl

/-- A BEAT revives the link path (R376, R377). -/
theorem beatOp_revives (p : Beat) (s : State) :
    (beatOp p s).yoke.linkMiss = 0 ∧ (beatOp p s).yoke.linkLost = false ∧ (beatOp p s).yoke.lastBeat = s.time.now ∧
      (beatOp p s).yoke.beat = some p ∧ (beatOp p s).yoke.partner = p.role ∧
      (s.yoke.role = roleActive → p.role = roleStandby → (beatOp p s).yoke.role = roleActive) ∧ LinkMoved s (beatOp p s) := by
  have heard : Talked [3, 4, 6] (linkHeard p s) (pathsSettled s (linkHeard p s)) := talked_pathsSettled (Bool.and_false _)
  have moved : LinkMoved s (pathsSettled s (linkHeard p s)) := linkMoved_of_talked (u := linkHeard p s) rfl heard
  have hyoke := heard.yoke
  rw [beatOp_eq]
  generalize pathsSettled s (linkHeard p s) = t at moved hyoke
  have known := pathsMoved_partnerRole p.role t
  have asked : Talked [1] (partnerRole p.role t) (seekResync (yieldOnConditions (partnerRole p.role t))) :=
    (talked_yieldOnConditions (by decide) _).trans (talked_seekResync _)
  have told : LinkMoved s (partnerKnown p.role t) := by
    generalize t = u at moved
    rw [LinkMoved, partnerKnown, moved]
  have hstands := asked.yoke
  have hknown := known.yoke
  have hpartner := linkMoved_of_talked (linkMoved_of_pathsMoved told known) asked
  have hrole : s.yoke.role = roleActive → p.role = roleStandby → (partnerRole p.role t).yoke.role = roleActive := fun hactive hstandby => by
    have hnow : t.yoke.role = roleActive := by
      rw [hyoke]
      exact hactive
    rw [hstandby, partnerRole_of_standby hnow]
    exact hnow
  generalize partnerRole p.role t = v at hstands hknown hpartner hrole
  generalize seekResync (yieldOnConditions v) = w at hstands hpartner
  have hkept : v.yoke.linkMiss = 0 ∧ v.yoke.linkLost = false ∧ v.yoke.lastBeat = s.time.now ∧ v.yoke.beat = some p ∧
      v.yoke.partner = p.role := by
    rw [hknown, partnerKnown, hyoke]
    exact ⟨rfl, rfl, rfl, rfl, rfl⟩
  obtain ⟨hmiss, hlost, hlast, hbeat, hwho⟩ := hkept
  rw [hstands]
  exact ⟨hmiss, hlost, hlast, hbeat, hwho, hrole, hpartner⟩

end Sys2Proof.Laws
end

section
/-! Heartbeats and HELLOs sent (R376, R395), and the obligation of pairing. -/

namespace Sys2Proof.Laws

open Sys2Proof Sys2Proof.Machine

/-! ## What this part sends -/

theorem sendHello_of_on {s : State} (hon : yokeOn s = true) (hheld : s.host.held = false) :
    sendHello s = sendFrame 0 false (.hello (helloOf s)) s := by
  rw [sendHello, yokeTx, hon, hheld]
  rfl

/-- A HELLO leaves on every lane of LANES (R395). -/
theorem hello_leaves (s : State) :
    (∀ l ∈ yokeLanesOn s, .yoke l (yFrame 0 s.yoke.seqRx false (.hello (helloOf s))) ∈ (sendFrame 0 false (.hello (helloOf s)) s).out ∧
        (lane (sendFrame 0 false (.hello (helloOf s)) s) l).st = stUp) ∧
      (sendFrame 0 false (.hello (helloOf s)) s).yoke = { s.yoke with ackDue := s.yoke.ackDue && (yokeLanesOn s).isEmpty } ∧
      FramesMoved s (sendFrame 0 false (.hello (helloOf s)) s) := by
  have sent := framesSent_sendFrame 0 false (.hello (helloOf s)) s
  refine ⟨fun l hl => ⟨mem_out_sendFrame _ _ _ s hl, lane_sendFrame hl (upOrIdle_of_mem_yokeLanesOn hl)⟩, yoke_sendFrame .., ?_⟩
  have moved := sent.frame
  generalize sendFrame 0 false (.hello (helloOf s)) s = t at moved
  rw [FramesMoved, moved]

theorem sends_nothing {s : State} (h : yokeOn s = false ∨ s.host.held = true) : sendHello s = s ∧ sendBeat s = s := by
  have hquiet : yokeTx s = false := by rcases h with h | h <;> simp [yokeTx, h]
  exact ⟨by rw [sendHello, hquiet]; rfl, by rw [sendBeat, hquiet]; rfl⟩

/-- The heartbeat on the pin path has left. -/
def pinBeat (s : State) : State := emit (.hbPulse (if s.yoke.role = rolePairing ∨ s.yoke.role = roleStandby then 300 else 100)) s

/-- The state with its count of BEATs advanced. -/
def beatCounted (s : State) : State := { s with yoke := { s.yoke with beatN := s.yoke.beatN + 1 } }

theorem sendBeat_of_dark {s : State} (hon : yokeOn s = true) (hheld : s.host.held = false) (hl : beatLane s = none) : sendBeat s = pinBeat s := by
  have hdark : beatLane (pinBeat s) = none := hl
  rw [sendBeat, yokeTx, hon, hheld]
  change (match beatLane (pinBeat s) with
    | none => pinBeat s
    | some _ => _) = _
  rw [hdark]

theorem sendBeat_of_lane {s : State} (hon : yokeOn s = true) (hheld : s.host.held = false) {l : Nat} (hl : beatLane s = some l) :
    sendBeat s = sendFrame 0 false (.beat (beatOf s)) (beatCounted (pinBeat s)) := by
  have hlit : beatLane (pinBeat s) = some l := hl
  rw [sendBeat, yokeTx, hon, hheld]
  change (match beatLane (pinBeat s) with
    | none => pinBeat s
    | some _ => sendFrame 0 false (.beat (beatOf s)) (beatCounted (pinBeat s))) = _
  rw [hlit]

theorem beat_leaves {s : State} (hon : yokeOn s = true) (hheld : s.host.held = false) :
    .hbPulse (if s.yoke.role = rolePairing ∨ s.yoke.role = roleStandby then 300 else 100) ∈ (sendBeat s).out ∧
      (beatLane s = none → (sendBeat s).yoke = s.yoke ∧ (sendBeat s).out.length = s.out.length + 1) ∧
      (∀ l, beatLane s = some l → (sendBeat s).yoke.beatN = s.yoke.beatN + 1 ∧ (sendBeat s).yoke.ackDue = false ∧
        (lane (sendBeat s) l).st = 4 ∧ .yoke l (yFrame 0 s.yoke.seqRx false (.beat (beatOf s))) ∈ (sendBeat s).out) ∧
      FramesMoved s (sendBeat s) := by
  have pulsed : .hbPulse (if s.yoke.role = rolePairing ∨ s.yoke.role = roleStandby then 300 else 100) ∈ (pinBeat s).out := List.mem_cons_self
  cases hl : beatLane s with
  | none =>
    rw [sendBeat_of_dark hon hheld hl]
    exact ⟨pulsed, fun _ => ⟨rfl, rfl⟩, nofun, rfl⟩
  | some l =>
    have sent := framesSent_sendFrame 0 false (.beat (beatOf s)) (beatCounted (pinBeat s))
    have hbeat : beatLane (beatCounted (pinBeat s)) = some l := hl
    have hlanes : frameLanes (beatCounted (pinBeat s)) (.beat (beatOf s)) = [l] := congrArg Option.toList hbeat
    have hmem : l ∈ frameLanes (beatCounted (pinBeat s)) (.beat (beatOf s)) := by
      rw [hlanes]
      exact List.mem_singleton_self l
    have hyoke := yoke_sendFrame 0 false (.beat (beatOf s)) (beatCounted (pinBeat s))
    have hup := lane_sendFrame (seq := 0) (retry := false) hmem (upOrIdle_of_beat hbeat)
    have hout := mem_out_sendFrame 0 false _ _ hmem
    rw [sendBeat_of_lane hon hheld hl]
    generalize sendFrame 0 false (.beat (beatOf s)) (beatCounted (pinBeat s)) = t at sent hyoke hup hout ⊢
    refine ⟨sent.mem_out pulsed, nofun, ?_, ?_⟩
    · rintro _ ⟨⟩
      refine ⟨?_, ?_, hup, hout⟩
      · rw [hyoke]
        rfl
      · rw [hyoke, frameTurn, hlanes]
        exact Bool.and_false _
    · have moved := sent.frame
      rw [← hyoke] at moved
      exact moved

/-! ## A HELLO that arrives -/

section

variable {s : State} (hsole : s.yoke.role = roleSole) (hbar : s.yoke.barred = false) (hwait : s.yoke.wait = false) (hheld : s.host.held = false)
  {p : Hello}
include hsole hbar hwait hheld

theorem hello_pairs {r : Nat} (hnew : (s.yoke.sundered && transmits p.role) = false) (hok : helloRefusal s p = 0)
    (hr : decideRole s p = some r) : helloOp p s = partnerRole p.role (pairingFor r p s) := by
  have hpairing : pairingFor r p s = setRole rolePairing (roleDecided r (partnerHeard p s)) := (setRole_pairing _).symm
  rw [helloOp_of_sole hsole hbar hwait hheld, hok, hnew, hr, hpairing]
  rfl

/-- A HELLO refused, by its checks or by a tie (R361). -/
theorem hello_refuses {c : Nat} (hc : c = helloRefusal s p ∧ 0 < c ∨
    c = 4 ∧ helloRefusal s p = 0 ∧ (s.yoke.sundered && transmits p.role) = false ∧ decideRole s p = none) :
    ∃ y : Yoke, helloOp p s = refusePair c { s with yoke := y } := by
  rw [helloOp_of_sole hsole hbar hwait hheld]
  rcases hc with ⟨rfl, hpos⟩ | ⟨rfl, hok, hnew, hnone⟩
  · exact ⟨(partnerHeard p s).yoke, if_pos (Nat.ne_of_gt hpos)⟩
  · refine ⟨(exchangeOver (roleOnly rolePairing (partnerHeard p s))).yoke, ?_⟩
    rw [hok, hnew, hnone, setRole_pairing]
    rfl

theorem hello_duals (hsun : s.yoke.sundered = true) (htx : transmits p.role = true) (hok : helloRefusal s p = 0) :
    helloOp p s = partnerRole p.role (partnerHeard p s) := by
  rw [helloOp_of_sole hsole hbar hwait hheld, hok, hsun, htx]
  rfl

end

/-! ## The obligation -/

/-- Settles O37: HELLOs by the role that they agree on, heartbeats by the paths that they keep or lose. -/
theorem pairingAndHeartbeats : Obligations.PairingAndHeartbeats := by
  unfold Obligations.PairingAndHeartbeats
  refine ⟨fun s hrun => ?_, fun s hrun hon => ?_⟩
  · have heard : ∀ h p, yokeOn s = true → h.crcOk = true → exec (.helloReceived h p) s = .next (helloOp p (ackUpTo h.ack s)) :=
      fun h p hon hcrc => (next_whenUp hrun _).trans (congrArg _ (rxFrame_of_sound hon hcrc _))
    refine ⟨fun h p r hon hcrc hsole hbar hwait hheld hnew hok hr => ?_, fun h p c hon hcrc hsole hbar hwait hheld hc => ?_,
      fun h p hon hcrc hsole hbar hwait hheld hsun htx hok hdual => ?_, fun hpairing => ?_, fun hno => ?_, next_whenUp hrun _,
      fun hon hheld => ⟨_, (next_whenUp hrun _).trans (congrArg _ (sendHello_of_on hon hheld)), hello_leaves s⟩, fun hquiet => ?_,
      fun h p hoff => ?_, fun h p hon hcrc => ⟨_, (next_whenUp hrun _).trans (congrArg _ (rxFrame_of_damaged hon hcrc _)),
        counter_bump_self .., rfl⟩⟩
    · have hdone := hello_pairs (s := ackUpTo h.ack s) hsole hbar hwait hheld hnew hok hr
      obtain ⟨hrole, hpaired, hhello, hparted, hmoved⟩ := partnerRole_pairs r p (ackUpTo h.ack s)
      exact ⟨_, (heard h p hon hcrc).trans (congrArg _ hdone), hrole, hpaired, hhello, hparted, hmoved⟩
    · obtain ⟨y, hdone⟩ := hello_refuses (s := ackUpTo h.ack s) hsole hbar hwait hheld hc
      obtain ⟨hrole, hcode, hretry, hstruck, hmoved⟩ := refusePair_refuses c { ackUpTo h.ack s with yoke := y }
      exact ⟨_, (heard h p hon hcrc).trans (congrArg _ hdone), hrole, hcode, hretry, bitOf_of_struck (by decide) hstruck, hmoved⟩
    · have hdone := hello_duals (s := ackUpTo h.ack s) hsole hbar hwait hheld hsun htx hok
      obtain ⟨hrole, hhello, hstruck, hdual', hbarred, hmoved⟩ := partnerRole_duals (s := ackUpTo h.ack s) hsole hbar hsun htx hdual
      exact ⟨_, (heard h p hon hcrc).trans (congrArg _ hdone), hrole, hhello, hstruck, hdual', hbarred, hmoved⟩
    · obtain ⟨hrole, hcode, hwait, hstruck, hmoved⟩ := refusePair_refuses 5 s
      exact ⟨_, (next_whenUp hrun _).trans (congrArg _ (if_pos (decide_eq_true hpairing))), hrole, hcode, hwait, hstruck, hmoved⟩
    · exact (next_whenUp hrun _).trans (congrArg _ (if_neg (by simp [hno])))
    · obtain ⟨hhello, hbeat⟩ := sends_nothing hquiet
      exact ⟨(next_whenUp hrun _).trans (congrArg _ hhello), (next_whenUp hrun _).trans (congrArg _ hbeat)⟩
    · refine (next_whenUp hrun _).trans (congrArg _ ?_)
      rw [rxFrame, hoff]
      rfl
  · refine ⟨⟨_, next_whenUp hrun _, missed_link hon⟩, ⟨_, next_whenUp hrun _, missed_pin hon⟩,
      fun w hw => ⟨_, next_whenUp hrun _, pulse_revives hon hw⟩, fun w hw => ?_, fun h p hcrc => ?_,
      fun hheld => ⟨_, next_whenUp hrun _, beat_leaves hon hheld⟩⟩
    · refine (next_whenUp hrun _).trans (congrArg _ ?_)
      rw [pulseOp, hon, hw]
      rfl
    · obtain ⟨hmiss, hlost, hlast, hbeat, hwho, hrole, hmoved⟩ := beatOp_revives p (ackUpTo h.ack s)
      exact ⟨_, (next_whenUp hrun _).trans (congrArg _ (rxFrame_of_sound hon hcrc _)), hmiss, hlost, hlast, hbeat, hwho, hrole, hmoved⟩

end Sys2Proof.Laws
end

section
/-! A port's decision (R333–R352) in its steps: what it discards, the turn of each class, and a frame that starts. -/

namespace Sys2Proof.Laws

open Sys2Proof Sys2Proof.Machine

/-! ## What a decision leaves alone -/

theorem noted_raiseN (k i n : Nat) (s : State) : Noted s (raiseN k i n s) := by
  refine .ite (.refl s) ((noted_raiseBit k i s).trans ⟨rfl, fun j => ?_, fun j m hb => ?_⟩)
  · rw [page_modPage]
    split
    · next h => rw [h]; rfl
    · rfl
  · rw [page_modPage]
    split
    · next h => rw [h] at hb; exact hb
    · exact hb

/-- From `s` to `t` port `l` has moved, flags are struck and none is taken back, and counters of the numbers `ns` have moved. -/
structure PortMoved (ns : List Nat) (l : Nat) (s t : State) : Prop where
  frame : t = { s with pages := t.pages, ctrs := t.ctrs, ports := t.ports, ic := { s.ic with inflight := t.ic.inflight } }
  others : ∀ k, k ≠ l → port t k = port s k
  bits : ∀ k i, bitOf (page s k).stat i = true → bitOf (page t k).stat i = true
  ctr : ∀ k n, n < 128 → n ∉ ns → counter t k n = counter s k n

theorem PortMoved.refl {ns : List Nat} {l : Nat} (s : State) : PortMoved ns l s s := ⟨rfl, fun _ _ => rfl, fun _ _ h => h, fun _ _ _ _ => rfl⟩

theorem PortMoved.trans {ns : List Nat} {l : Nat} {s t u : State} (h : PortMoved ns l s t) (g : PortMoved ns l t u) : PortMoved ns l s u where
  frame := by
    have moved := g.frame
    rw [h.frame] at moved
    exact moved
  others k hk := (g.others k hk).trans (h.others k hk)
  bits k i hb := g.bits k i (h.bits k i hb)
  ctr k n hn hns := (g.ctr k n hn hns).trans (h.ctr k n hn hns)

theorem PortMoved.ite {ns : List Nat} {l : Nat} {s a b : State} {c : Prop} [Decidable c] (ha : PortMoved ns l s a) (hb : PortMoved ns l s b) :
    PortMoved ns l s (if c then a else b) := by
  split
  · exact ha
  · exact hb

theorem portMoved_modPort {ns : List Nat} (l : Nat) (f : PortTx → PortTx) (s : State) : PortMoved ns l s (modPort l f s) :=
  ⟨rfl, fun _ hk => (port_modPort ..).trans (if_neg hk), fun _ _ hb => hb, fun _ _ _ _ => rfl⟩

theorem portMoved_bump {ns : List Nat} {n : Nat} (hn : n ∈ ns) (hlt : n < 128) (l k x : Nat) (s : State) : PortMoved ns l s (bump k n x s) := by
  refine ⟨rfl, fun _ _ => rfl, fun _ _ hb => hb, fun j m hm hno => counter_bump_other (fun heq => hno ?_) x s⟩
  rwa [show m = n by omega]

theorem portMoved_raiseN {ns : List Nat} (l k i n : Nat) (s : State) : PortMoved ns l s (raiseN k i n s) := by
  have noted := noted_raiseN k i n s
  have hctrs : (raiseN k i n s).ctrs = s.ctrs := by
    unfold raiseN
    split
    · rfl
    · have kept : ∀ u : State, (modPage k (fun h => { h with again := sat8 (h.again + (n - 1)) }) u).ctrs = u.ctrs := fun _ => rfl
      rw [kept]
      change (raiseBit k i s).ctrs = s.ctrs
      rw [raiseBit_frame]
  have hports : (raiseN k i n s).ports = s.ports := by rw [noted.frame]
  refine ⟨?_, fun j _ => by rw [port, hports]; rfl, noted.bits, fun j m _ _ => by rw [counter, hctrs]; rfl⟩
  have moved := noted.frame
  generalize raiseN k i n s = t at moved
  rw [moved]

section

variable {ns : List Nat} {l : Nat} {s t : State} (h : PortMoved ns l s t)
include h

theorem PortMoved.flow (n : Nat) : flow t n = flow s n := by rw [h.frame]; rfl

theorem PortMoved.effW : effW t = effW s := by rw [h.frame]; rfl

theorem PortMoved.portSends (k : Nat) : portSends t k = portSends s k := by rw [h.frame]; rfl

theorem PortMoved.out : t.out = s.out := by rw [h.frame]

theorem PortMoved.time : t.time = s.time := by rw [h.frame]

end

/-! ## Queues swept -/

/-- Every frame of the ancillary class leaves port `l` (R352). -/
abbrev quenchedNow (s : State) (l : Nat) : Bool := s.quench.contains l && decide ((port s l).quenchAt + 100 ≤ s.time.now)

/-- A frame whose next hop is known, or whose port does not send, stays (R347). -/
abbrev stays (s : State) (l : Nat) (q : QFrame) : Bool := !portSends s l || resolved s l q

/-- Ancillary frames that leave a quenched port. -/
abbrev ancCut (s : State) (l : Nat) : Nat := if quenchedNow s l then (port s l).anc.flatten.length else 0

theorem portMoved_purgeQueues (l : Nat) (s : State) : PortMoved [3, 4] l s (purgeQueues l s) := by
  unfold purgeQueues
  exact (((portMoved_bump (by decide) (by decide) ..).trans (portMoved_bump (by decide) (by decide) ..)).trans (portMoved_raiseN ..)).trans
    (portMoved_modPort ..)

theorem port_purgeQueues (l : Nat) (s : State) : port (purgeQueues l s) l = { port s l with
    mgmtQ := (port s l).mgmtQ.filter (stays s l)
    anc := if quenchedNow s l then [[], [], [], [], [], []] else (port s l).anc.map (fun q => q.filter (stays s l)) } := by
  unfold purgeQueues
  extract_lets p quenched keeps lost cut counted
  have moved : PortMoved [3, 4] (l + 1) s counted :=
    ((portMoved_bump (by decide) (by decide) ..).trans (portMoved_bump (by decide) (by decide) ..)).trans (portMoved_raiseN ..)
  rw [port_modPort, if_pos rfl, moved.others l (by omega)]

theorem struck_raiseN {k i n : Nat} (hi : i < 32) (hn : 0 < n) (s : State) : bitOf (page (raiseN k i n s) k).stat i = true := by
  have raised : bitOf (page (raiseBit k i s) k).stat i = true := bitOf_of_struck hi (struck_raiseBit k hi s)
  rw [raiseN, if_neg (by omega)]
  change bitOf (page (modPage k (fun h => { h with again := sat8 (h.again + (n - 1)) }) (raiseBit k i s)) k).stat i = true
  rw [page_modPage, if_pos rfl]
  exact raised

/-- The ancillary frames that a quenched port loses are counted and struck (R352, R354). -/
theorem purgeQueues_cuts (l : Nat) (s : State) : Counted (pgFlow (l / 4)) 3 (ancCut s l) s (purgeQueues l s) ∧
    (0 < ancCut s l → bitOf (page (purgeQueues l s) (pgFlow (l / 4))).stat 0 = true) := by
  unfold purgeQueues
  extract_lets p quenched keeps lost cut counted
  have struck := fun hcut : 0 < cut => struck_raiseN (k := pgFlow (l / 4)) (i := 0) (by decide) hcut (bump (pgFlow (l / 4)) 3 cut (bump (pgFlow (l / 4)) 4 lost s))
  have raised : PortMoved [] l (bump (pgFlow (l / 4)) 3 cut (bump (pgFlow (l / 4)) 4 lost s)) counted := portMoved_raiseN ..
  refine ⟨?_, struck⟩
  refine (raised.ctr (pgFlow (l / 4)) 3 (by decide) (by decide)).trans ?_
  rw [counter_bump_self, counter_bump_other (by omega)]

/-! ## A frame that starts -/

/-- The wire of port `l` is busy with a frame of class `b`, which is counted (R354, R355, R458). -/
def wireTaken (l b t gbps : Nat) (q : QFrame) (s : State) : State :=
  bump (lanePage l) 6 1 (bump (lanePage l) 7 q.len (bump (pgGate l) b 1 (bump (pgGate l) (4 + b) q.len
    (modPort l (fun p => { p with busyTo := t + cdiv (frameCost q * 8) gbps }) s))))

/-- What the class of a frame that starts has counted besides. -/
def classNoted (l b t gbps : Nat) (q : QFrame) (s : State) : State :=
  if b = 2 then
    flowCount q.flow (2 * q.path) 1 (flowCount q.flow (2 * q.path + 1) q.len
      (bump (pgFlow (entDie q.flow)) 0 1 (bump (pgFlow (entDie q.flow)) 1 q.len s)))
  else if b = 0 then draw (modPtp l (fun p => if p.reqSeq = q.seq then { p with t3 := some (stampOf s (t + cdiv 64 gbps)) } else p) s)
  else s

theorem startFrame_eq (l b t gbps : Nat) (q : QFrame) (s : State) : startFrame l b t gbps q s =
    emit (.frame l b q.flow q.path q.len q.seq q.record q.ip) (classNoted l b t gbps q (wireTaken l b t gbps q s)) := rfl

/-- From `s` to `t` the ports and what was sent stand, and counters of the numbers `ns` have moved. -/
structure PortsStand (ns : List Nat) (s t : State) : Prop where
  ports : t.ports = s.ports
  out : t.out = s.out
  ctr : ∀ k n, n < 128 → n ∉ ns → counter t k n = counter s k n

theorem PortsStand.trans {ns : List Nat} {s t u : State} (h : PortsStand ns s t) (g : PortsStand ns t u) : PortsStand ns s u :=
  ⟨g.ports.trans h.ports, g.out.trans h.out, fun k n hn hno => (g.ctr k n hn hno).trans (h.ctr k n hn hno)⟩

theorem portsStand_bump {ns : List Nat} {n : Nat} (hn : n ∈ ns) (hlt : n < 128) (k x : Nat) (s : State) : PortsStand ns s (bump k n x s) := by
  refine ⟨rfl, rfl, fun j m hm hno => counter_bump_other (fun heq => hno ?_) x s⟩
  rwa [show m = n by omega]

theorem portsStand_flowCount {ns : List Nat} (n i x : Nat) (s : State) : PortsStand ns s (flowCount n i x s) := ⟨rfl, rfl, fun _ _ _ _ => rfl⟩

theorem portsStand_classNoted (l b t gbps : Nat) (q : QFrame) (s : State) : PortsStand [0, 1] s (classNoted l b t gbps q s) := by
  unfold classNoted
  split
  · exact (((portsStand_bump (by decide) (by decide) ..).trans (portsStand_bump (by decide) (by decide) ..)).trans
      (portsStand_flowCount ..)).trans (portsStand_flowCount ..)
  · split <;> exact ⟨rfl, rfl, fun _ _ _ _ => rfl⟩

/-- The wire busy from the start of the frame. -/
def wireBusy (l t gbps : Nat) (q : QFrame) (s : State) : State :=
  modPort l (fun p => { p with busyTo := t + cdiv (frameCost q * 8) gbps }) s

theorem wireTaken_eq (l b t gbps : Nat) (q : QFrame) (s : State) : wireTaken l b t gbps q s =
    bump (lanePage l) 6 1 (bump (lanePage l) 7 q.len (bump (pgGate l) b 1 (bump (pgGate l) (4 + b) q.len (wireBusy l t gbps q s)))) := rfl

section

variable (l b t gbps : Nat) (q : QFrame) (s : State)

theorem portsStand_wireTaken : (wireTaken l b t gbps q s).ports = (wireBusy l t gbps q s).ports ∧ (wireTaken l b t gbps q s).out = s.out := by
  have counted : ∀ k n x (u : State), (bump k n x u).ports = u.ports ∧ (bump k n x u).out = u.out := fun _ _ _ _ => ⟨rfl, rfl⟩
  rw [wireTaken_eq]
  simp only [counted]
  exact ⟨trivial, rfl⟩

theorem out_startFrame : (startFrame l b t gbps q s).out = .frame l b q.flow q.path q.len q.seq q.record q.ip :: s.out := by
  rw [startFrame_eq]
  have sent : ∀ (o : Out) (u : State), (emit o u).out = o :: u.out := fun _ _ => rfl
  rw [sent, (portsStand_classNoted ..).out, (portsStand_wireTaken ..).2]

theorem port_startFrame (k : Nat) : port (startFrame l b t gbps q s) k =
    if k = l then { port s l with busyTo := t + cdiv (frameCost q * 8) gbps } else port s k := by
  have hports : (startFrame l b t gbps q s).ports = (wireBusy l t gbps q s).ports := by
    rw [startFrame_eq]
    have sent : ∀ (o : Out) (u : State), (emit o u).ports = u.ports := fun _ _ => rfl
    rw [sent, (portsStand_classNoted ..).ports, (portsStand_wireTaken ..).1]
  rw [port, hports]
  exact port_modPort l (fun p => { p with busyTo := t + cdiv (frameCost q * 8) gbps }) s k

/-- A PTP or management frame that starts is counted with its bytes (R458). -/
theorem counted_startFrame (hb : b < 2) : Counted (lanePage l) 6 1 s (startFrame l b t gbps q s) ∧
    Counted (lanePage l) 7 q.len s (startFrame l b t gbps q s) := by
  have sent : ∀ (o : Out) (u : State) k n, counter (emit o u) k n = counter u k n := fun _ _ _ _ => rfl
  have busy : ∀ k n, counter (wireBusy l t gbps q s) k n = counter s k n := fun _ _ => rfl
  have noted := portsStand_classNoted l b t gbps q (wireTaken l b t gbps q s)
  rw [Counted, Counted, startFrame_eq, sent, sent, noted.ctr _ 6 (by decide) (by decide), noted.ctr _ 7 (by decide) (by decide), wireTaken_eq]
  refine ⟨?_, ?_⟩
  · rw [counter_bump_self, counter_bump_other (by omega), counter_bump_other (by omega), counter_bump_other (by omega), busy]
  · rw [counter_bump_other (by omega), counter_bump_self, counter_bump_other (by omega), counter_bump_other (by omega), busy]

end

end Sys2Proof.Laws
end

section
/-! The turns of a port's decision (R333, R340–R343): purged, its frames in the order PTP, management, media, ancillary. -/

namespace Sys2Proof.Laws

open Sys2Proof Sys2Proof.Machine

/-! ## The decision in its steps -/

/-- The port with its media queue emptied, to be filled again with what stays. -/
def mediaTaken (l : Nat) (s : State) : State := modPort l (fun p => { p with media := [] }) s

/-- The port as what it discards has left. -/
def portSwept (l t : Nat) (s : State) : State := purgeQueues l (purge l t (port s l).media (mediaTaken l s))

/-- Frames that wait at a port but for the media class. -/
def portWaiting (p : PortTx) : Nat := p.ptpQ.length + p.mgmtQ.length + (p.anc.map List.length).sum

/-- The queues of a port that does not send are emptied, `n` frames (R98). -/
def portSilenced (l n : Nat) (s : State) : State :=
  bump (lanePage l) 8 n (modPort l (fun p => { p with ptpQ := [], mgmtQ := [], anc := [[], [], [], [], [], []] }) s)

/-- The turn of the media and ancillary classes. -/
def sharedTurn (l t gbps : Nat) (s : State) : State :=
  if shaperBlocks s l then s
  else
    let media := if gateOpen (port s l) 2 t then tryMedia l t gbps s else (false, s)
    if media.1 then media.2
    else if gateOpen (port media.2 l) 3 t then drr l t gbps 1000 0 media.2
    else media.2

/-- The turn of the management class and those after it; `p` is the port as it was swept. -/
def mgmtTurn (l t gbps : Nat) (p : PortTx) (s : State) : State :=
  match p.mgmtQ with
  | [] => sharedTurn l t gbps s
  | q :: qs =>
    if gateOpen p 1 t && decide (frameCost q * tokByte ≤ (port s l).tokMgmt) then
      if fitsGate p 1 t (frameCost q) gbps then
        startFrame l 1 t gbps q (modPort l (fun p => { p with mgmtQ := qs, tokMgmt := p.tokMgmt - frameCost q * tokByte }) s)
      else sharedTurn l t gbps (modPort l (fun p => { p with mgmtQ := { q with heldWin := true } :: qs }) (holdHead l 1 q s))
    else sharedTurn l t gbps s

/-- The turn of the PTP class and those after it. -/
def ptpTurn (l t gbps : Nat) (s : State) : State :=
  match (port s l).ptpQ with
  | [] => mgmtTurn l t gbps (port s l) s
  | q :: qs =>
    if gateOpen (port s l) 0 t then
      if fitsGate (port s l) 0 t (frameCost q) gbps then startFrame l 0 t gbps q (modPort l (fun p => { p with ptpQ := qs }) s)
      else mgmtTurn l t gbps (port s l) (modPort l (fun p => { p with ptpQ := { q with heldWin := true } :: qs }) (holdHead l 0 q s))
    else mgmtTurn l t gbps (port s l) s

theorem transmit_eq (l t : Nat) (s : State) : transmit l t s =
    if !portSends (portSwept l t s) l then portSilenced l (portWaiting (port s l)) (portSwept l t s)
    else ptpTurn l t (portGbps (effW s) l) (portSwept l t s) := by
  unfold transmit
  extract_lets gbps p swept n p' rest mgmt
  have hswept : swept = portSwept l t s := rfl
  rw [← hswept]
  clear_value swept
  rfl

/-! ## Turns with their frame -/

section

variable {l t gbps : Nat} {s : State}

theorem ptpTurn_sends {q : QFrame} {qs : List QFrame} (hq : (port s l).ptpQ = q :: qs) (hopen : gateOpen (port s l) 0 t = true)
    (hfits : fitsGate (port s l) 0 t (frameCost q) gbps = true) :
    ptpTurn l t gbps s = startFrame l 0 t gbps q (modPort l (fun p => { p with ptpQ := qs }) s) := by
  unfold ptpTurn
  rw [hq]
  exact (if_pos hopen).trans (if_pos hfits)

theorem ptpTurn_passes (hq : (port s l).ptpQ = []) : ptpTurn l t gbps s = mgmtTurn l t gbps (port s l) s := by
  unfold ptpTurn
  rw [hq]

theorem mgmtTurn_sends {q : QFrame} {qs : List QFrame} (hq : (port s l).mgmtQ = q :: qs) (hopen : gateOpen (port s l) 1 t = true)
    (htok : frameCost q * tokByte ≤ (port s l).tokMgmt) (hfits : fitsGate (port s l) 1 t (frameCost q) gbps = true) :
    mgmtTurn l t gbps (port s l) s =
      startFrame l 1 t gbps q (modPort l (fun p => { p with mgmtQ := qs, tokMgmt := p.tokMgmt - frameCost q * tokByte }) s) := by
  unfold mgmtTurn
  rw [hq]
  refine (if_pos ?_).trans (if_pos hfits)
  rw [hopen, decide_eq_true htok]
  rfl

theorem mgmtTurn_passes (hq : (port s l).mgmtQ = []) : mgmtTurn l t gbps (port s l) s = sharedTurn l t gbps s := by
  unfold mgmtTurn
  rw [hq]

end

/-! ## The ancillary round without a frame -/

theorem getD_of_empty {a : List (List QFrame)} (h : ∀ q ∈ a, q = []) (i : Nat) : a.getD i [] = [] := by
  rw [List.getD_eq_getElem?_getD]
  cases hi : a[i]? with
  | none => rfl
  | some q => exact h q (List.mem_of_getElem? hi)

/-- A round over empty queues moves nothing but the round itself (R343). -/
theorem drr_of_empty (l t gbps : Nat) {ns : List Nat} (n idle : Nat) (s : State) (h : ∀ q ∈ (port s l).anc, q = []) :
    PortMoved ns l s (drr l t gbps n idle s) ∧ (port (drr l t gbps n idle s) l).anc = (port s l).anc ∧
      (port (drr l t gbps n idle s) l).media = (port s l).media := by
  induction n generalizing idle s with
  | zero => exact ⟨.refl s, rfl, rfl⟩
  | succ n ih =>
    rw [drr, getD_of_empty h]
    extract_lets passed
    have hpassed : PortMoved ns l s passed := portMoved_modPort ..
    have hanc : (port passed l).anc = (port s l).anc ∧ (port passed l).media = (port s l).media := by
      rw [port_modPort, if_pos rfl]
      exact ⟨rfl, rfl⟩
    clear_value passed
    obtain ⟨hanc, hmedia⟩ := hanc
    dsimp only
    split
    · exact ⟨hpassed, hanc, hmedia⟩
    · obtain ⟨hround, hanc', hmedia'⟩ := ih (idle + 1) passed (by rwa [hanc])
      exact ⟨hpassed.trans hround, hanc'.trans hanc, hmedia'.trans hmedia⟩

theorem tryMedia_of_empty {l t gbps : Nat} {s : State} (h : (port s l).media = []) : tryMedia l t gbps s = (false, s) := by
  unfold tryMedia
  rw [h]
  rfl

/-- With nothing in either class the turn sends nothing. -/
theorem sharedTurn_of_empty (l t gbps : Nat) {ns : List Nat} {s : State} (hmedia : (port s l).media = []) (hanc : ∀ q ∈ (port s l).anc, q = []) :
    PortMoved ns l s (sharedTurn l t gbps s) ∧ (port (sharedTurn l t gbps s) l).anc = (port s l).anc ∧
      (port (sharedTurn l t gbps s) l).media = [] := by
  have tried : (if gateOpen (port s l) 2 t then tryMedia l t gbps s else (false, s)) = (false, s) := by
    rw [tryMedia_of_empty hmedia, ite_self]
  unfold sharedTurn
  rw [tried]
  split
  · exact ⟨.refl s, rfl, hmedia⟩
  · dsimp only
    split
    · next hno => cases hno
    split
    · obtain ⟨hround, hanc', hmedia'⟩ := drr_of_empty l t gbps (ns := ns) 1000 0 s hanc
      exact ⟨hround, hanc', hmedia'.trans hmedia⟩
    · exact ⟨.refl s, rfl, hmedia⟩

end Sys2Proof.Laws
end

section
/-! A port decides (R333–R352): the frame that leaves, and the frames that leave without a wire. -/

namespace Sys2Proof.Laws

open Sys2Proof Sys2Proof.Machine

/-! ## Buckets filled up -/

/-- The state in which port `l` decides at instant `t`, its buckets filled up (R340). -/
def readied (l t : Nat) (s : State) : State := refillPort l t (advance t s)

theorem portDecides_of_idle {l t : Nat} {s : State} (hport : portOf (effW s) l = some l) (hidle : (port s l).busyTo ≤ t) :
    portDecides l t s = transmit l t (readied l t s) := if_pos ⟨hport, hidle⟩

theorem portDecides_of_busy {l t : Nat} {s : State} (hbusy : t < (port s l).busyTo) : portDecides l t s = s :=
  if_neg fun h => absurd h.2 (Nat.not_le.mpr hbusy)

/-- A port with its buckets filled up to `t` under the words `g`. -/
def refilled (g : Nat → Word) (l t : Nat) (p : PortTx) : PortTx :=
  { p with tokPort := fill p.tokPort (shapeRate g l * 1000000) (t - p.lastFill) (shapeBurst g l)
           tokMgmt := fill p.tokMgmt (mgmtRate g l * 1000000) (t - p.lastFill) (mgmtBurst g l)
           lastFill := max p.lastFill t }

theorem readied_eq (l t : Nat) (s : State) : readied l t s = modPort l (refilled (effW s) l t) (advance t s) := rfl

theorem port_readied (l t : Nat) (s : State) (k : Nat) : port (readied l t s) k = if k = l then refilled (effW s) l t (port s l) else port s k := by
  rw [readied_eq, port_modPort]
  rfl

theorem portMoved_readied {ns : List Nat} (l t : Nat) (s : State) : PortMoved ns l (advance t s) (readied l t s) := by
  rw [readied_eq]
  exact portMoved_modPort ..

/-! ## Swept -/

theorem portMoved_portSwept {l t : Nat} {s : State} (hmedia : (port s l).media = []) : PortMoved [3, 4] l s (portSwept l t s) := by
  rw [portSwept, hmedia]
  exact (portMoved_modPort ..).trans (portMoved_purgeQueues ..)

/-- What stays of a port's management and ancillary queues. -/
def keptPort (s : State) (l : Nat) (p : PortTx) : PortTx :=
  { p with media := [], mgmtQ := p.mgmtQ.filter (stays s l)
           anc := if quenchedNow s l then [[], [], [], [], [], []] else p.anc.map (fun q => q.filter (stays s l)) }

theorem quenchedNow_mediaTaken (l : Nat) (s : State) : quenchedNow (mediaTaken l s) l = quenchedNow s l := by
  have hport : port (mediaTaken l s) l = { port s l with media := [] } := (port_modPort ..).trans (if_pos rfl)
  rw [quenchedNow, hport]
  rfl

theorem port_portSwept {l t : Nat} {s : State} (hmedia : (port s l).media = []) : port (portSwept l t s) l = keptPort s l (port s l) := by
  have hport : port (mediaTaken l s) l = { port s l with media := [] } := (port_modPort ..).trans (if_pos rfl)
  have hstays : stays (mediaTaken l s) l = stays s l := rfl
  rw [portSwept, hmedia, purge, port_purgeQueues, quenchedNow_mediaTaken, hport, hstays]
  rfl

/-- The gates see a port's lists alone (R346, R350). -/
theorem windowLeft_congr {p p' : PortTx} (hoper : p'.oper = p.oper) (hpend : p'.pend = p.pend) (b t : Nat) :
    windowLeft p' b t = windowLeft p b t := by
  rw [windowLeft, windowLeft, hoper, hpend]

theorem gateOpen_congr {p p' : PortTx} (hoper : p'.oper = p.oper) (hpend : p'.pend = p.pend) (b t : Nat) :
    gateOpen p' b t = gateOpen p b t := by
  rw [gateOpen, gateOpen, windowLeft_congr hoper hpend]

theorem fitsGate_congr {p p' : PortTx} (hoper : p'.oper = p.oper) (hpend : p'.pend = p.pend) (b t k g : Nat) :
    fitsGate p' b t k g = fitsGate p b t k g := by
  rw [fitsGate, fitsGate, windowLeft_congr hoper hpend]

/-! ## A PTP frame -/

theorem portMoved_wireTaken (l t gbps : Nat) (q : QFrame) (s : State) : PortMoved [0, 4, 6, 7] l s (wireTaken l 0 t gbps q s) := by
  rw [wireTaken_eq]
  have busy : PortMoved [0, 4, 6, 7] l s (wireBusy l t gbps q s) := portMoved_modPort ..
  exact (((busy.trans (portMoved_bump (by decide) (by decide) ..)).trans (portMoved_bump (by decide) (by decide) ..)).trans
    (portMoved_bump (by decide) (by decide) ..)).trans (portMoved_bump (by decide) (by decide) ..)

/-- The state with the instant noted at which a Delay_Req left (R471). -/
def ptpNoted (l t gbps : Nat) (q : QFrame) (s : State) : State :=
  draw (modPtp l (fun p => if p.reqSeq = q.seq then { p with t3 := some (stampOf s (t + cdiv 64 gbps)) } else p) s)

theorem startFrame_ptp (l t gbps : Nat) (q : QFrame) (s : State) : startFrame l 0 t gbps q s =
    emit (.frame l 0 q.flow q.path q.len q.seq q.record q.ip) (ptpNoted l t gbps q (wireTaken l 0 t gbps q s)) := rfl

/-- What the start of a PTP frame moves. -/
abbrev PtpSent (s t : State) : Prop :=
  t = { s with out := t.out, fresh := t.fresh, time := t.time, pages := t.pages, ctrs := t.ctrs, ports := t.ports, ic := t.ic }

theorem ptpSent_startFrame (l t gbps : Nat) (q : QFrame) {s u : State} (h : PtpSent s u) :
    PtpSent s (startFrame l 0 t gbps q u) ∧ (startFrame l 0 t gbps q u).time.now = u.time.now := by
  have taken := (portMoved_wireTaken l t gbps q u).frame
  have htime : (wireTaken l 0 t gbps q u).time = u.time := by rw [taken]
  rw [startFrame_ptp]
  generalize wireTaken l 0 t gbps q u = v at taken htime
  have noted : ∀ o, PtpSent v (emit o (ptpNoted l t gbps q v)) ∧ (emit o (ptpNoted l t gbps q v)).time.now = v.time.now := fun _ => ⟨rfl, rfl⟩
  obtain ⟨hsent, hnow⟩ := noted (.frame l 0 q.flow q.path q.len q.seq q.record q.ip)
  refine ⟨?_, hnow.trans (by rw [htime])⟩
  generalize emit (.frame l 0 q.flow q.path q.len q.seq q.record q.ip) (ptpNoted l t gbps q v) = w at hsent
  rw [PtpSent] at h ⊢
  rw [hsent, taken, h]

section

variable {l t : Nat} {s : State} (hmedia : (port s l).media = []) (hsend : portSends s l = true)
include hmedia hsend

theorem transmit_of_noMedia : transmit l t s = ptpTurn l t (portGbps (effW s) l) (portSwept l t s) := by
  rw [transmit_eq, (portMoved_portSwept hmedia).portSends, hsend]
  exact if_neg Bool.false_ne_true

theorem transmit_sendsPtp {q : QFrame} {qs : List QFrame} (hq : (port s l).ptpQ = q :: qs) (hopen : gateOpen (port s l) 0 t = true)
    (hfits : fitsGate (port s l) 0 t (frameCost q) (portGbps (effW s) l) = true) : transmit l t s =
      startFrame l 0 t (portGbps (effW s) l) q (modPort l (fun p => { p with ptpQ := qs }) (portSwept l t s)) := by
  have hport := port_portSwept (t := t) hmedia
  rw [transmit_of_noMedia hmedia hsend]
  refine ptpTurn_sends ?_ ?_ ?_
  · rw [hport]
    exact hq
  · rw [hport, ← hopen]
    exact gateOpen_congr rfl rfl ..
  · rw [hport, ← hfits]
    exact fitsGate_congr rfl rfl ..

theorem transmit_sendsMgmt {q : QFrame} {qs : List QFrame} (hptp : (port s l).ptpQ = []) (hq : (port s l).mgmtQ = q :: qs)
    (hknown : ∀ r ∈ q :: qs, resolved s l r = true) (hopen : gateOpen (port s l) 1 t = true)
    (htok : frameCost q * tokByte ≤ (port s l).tokMgmt)
    (hfits : fitsGate (port s l) 1 t (frameCost q) (portGbps (effW s) l) = true) : transmit l t s =
      startFrame l 1 t (portGbps (effW s) l) q (modPort l (fun p => { p with
        mgmtQ := qs, tokMgmt := p.tokMgmt - frameCost q * tokByte }) (portSwept l t s)) := by
  have hport := port_portSwept (t := t) hmedia
  have hstay : (q :: qs).filter (stays s l) = q :: qs := List.filter_eq_self.mpr fun r hr => by
    rw [stays, hknown r hr, Bool.or_true]
  rw [transmit_of_noMedia hmedia hsend, ptpTurn_passes (by rw [hport]; exact hptp)]
  refine mgmtTurn_sends ?_ ?_ ?_ ?_
  · rw [hport, keptPort, hq]
    exact hstay
  · rw [hport, ← hopen]
    exact gateOpen_congr rfl rfl ..
  · rw [hport]
    exact htok
  · rw [hport, ← hfits]
    exact fitsGate_congr rfl rfl ..

end

end Sys2Proof.Laws
end

section
/-! Media frames at a port (R342, R352, R354): one that leaves, one of a stopped flow, and the ancillary frames of a quenched port. -/

namespace Sys2Proof.Laws

open Sys2Proof Sys2Proof.Machine

/-! ## What is discarded -/

section

variable {ns : List Nat} {l : Nat} {s u : State} (h : PortMoved ns l s u)
include h

theorem PortMoved.mutedFrame (q : QFrame) : mutedFrame u q = mutedFrame s q := by rw [h.frame]; rfl

theorem PortMoved.stoppedFrame (q : QFrame) : stoppedFrame u q = stoppedFrame s q := by rw [h.frame]; rfl

theorem PortMoved.resolved (q : QFrame) : resolved u l q = resolved s l q := by rw [h.frame]; rfl

theorem PortMoved.flowTok (n path t : Nat) : flowTok u n path t = flowTok s n path t := by rw [h.frame]; rfl

theorem PortMoved.quenchedFrame (hquench : (port u l).quenchAt = (port s l).quenchAt) (hwait : (port u l).waitFrom = (port s l).waitFrom)
    (hresumed : (port u l).resumed = (port s l).resumed) (q : QFrame) : quenchedFrame u l q = quenchedFrame s l q := by
  have hset : u.quench = s.quench ∧ u.time = s.time := by
    rw [h.frame]
    exact ⟨rfl, rfl⟩
  rw [Machine.quenchedFrame, Machine.quenchedFrame, hquench, hwait, hresumed, hset.1, hset.2]

theorem PortMoved.mustDiscard (hquench : (port u l).quenchAt = (port s l).quenchAt) (hwait : (port u l).waitFrom = (port s l).waitFrom)
    (hresumed : (port u l).resumed = (port s l).resumed) (q : QFrame) : mustDiscard u l q = mustDiscard s l q := by
  have hheld : u.host = s.host := by rw [h.frame]
  rw [Machine.mustDiscard, Machine.mustDiscard, h.mutedFrame, h.stoppedFrame, h.quenchedFrame hquench hwait hresumed, h.portSends, h.resolved,
    hheld]

end

/-! ## Decisions without a frame -/

/-- Port `l` of `u` has nothing that waits. -/
structure PortEmpty (l : Nat) (u : State) : Prop where
  media : (port u l).media = []
  ptp : (port u l).ptpQ = []
  mgmt : (port u l).mgmtQ = []
  anc : ∀ q ∈ (port u l).anc, q = []

theorem media_portSilenced (l n : Nat) (u : State) : (port (portSilenced l n u) l).media = (port u l).media := by
  have counted : ∀ v : State, port (bump (lanePage l) 8 n v) l = port v l := fun _ => rfl
  rw [portSilenced, counted, port_modPort, if_pos rfl]

theorem transmit_of_empty {l t : Nat} {s : State} (h : PortEmpty l (portSwept l t s)) :
    PortMoved [8] l (portSwept l t s) (transmit l t s) ∧ (port (transmit l t s) l).media = [] ∧
      (portSends (portSwept l t s) l = true → (port (transmit l t s) l).anc = (port (portSwept l t s) l).anc) := by
  rw [transmit_eq]
  generalize portWaiting (port s l) = n
  generalize portGbps (effW s) l = gbps
  generalize portSwept l t s = u at h ⊢
  split
  · next hquiet =>
    refine ⟨(portMoved_modPort ..).trans (portMoved_bump (by decide) (by decide) ..), ?_, fun hsend => ?_⟩
    · rw [media_portSilenced]
      exact h.media
    · rw [hsend] at hquiet
      cases hquiet
  · rw [ptpTurn_passes h.ptp, mgmtTurn_passes h.mgmt]
    obtain ⟨hmoved, hanc, hmedia⟩ := sharedTurn_of_empty l t gbps (ns := [8]) h.media h.anc
    exact ⟨hmoved, hmedia, fun _ => hanc⟩

theorem forall_mem_filtered {a : List (List QFrame)} (h : ∀ q ∈ a, q = []) (f : QFrame → Bool) : ∀ q ∈ a.map (fun q => q.filter f), q = [] := by
  intro q hq
  obtain ⟨r, hr, rfl⟩ := List.mem_map.mp hq
  rw [h r hr]
  rfl

theorem forall_mem_empties : ∀ q ∈ ([[], [], [], [], [], []] : List (List QFrame)), q = [] := by
  intro q hq
  simpa using hq

/-- The ancillary frames of a quenched port leave without a wire (R352, R354). -/
theorem transmit_quenched {l t : Nat} {s : State} (hsend : portSends s l = true) (hmedia : (port s l).media = []) (hptp : (port s l).ptpQ = [])
    (hmgmt : (port s l).mgmtQ = []) (hquench : quenchedNow s l = true) :
    (transmit l t s).out = s.out ∧ (port (transmit l t s) l).anc = [[], [], [], [], [], []] ∧
      Counted (pgFlow (l / 4)) 3 (port s l).anc.flatten.length s (transmit l t s) ∧
      ((port s l).anc.flatten ≠ [] → bitOf (page (transmit l t s) (pgFlow (l / 4))).stat 0 = true) := by
  have hport := port_portSwept (t := t) hmedia
  have hanc : (port (portSwept l t s) l).anc = [[], [], [], [], [], []] := by
    rw [hport]
    exact if_pos hquench
  have swept := portMoved_portSwept (t := t) hmedia
  obtain ⟨hmoved, -, hkept⟩ := transmit_of_empty (t := t) (s := s) ⟨by rw [hport]; rfl, by rw [hport]; exact hptp,
    by rw [hport, keptPort, hmgmt]; rfl, by rw [hanc]; exact forall_mem_empties⟩
  have hcut : ancCut (mediaTaken l s) l = (port s l).anc.flatten.length := by
    have htaken : port (mediaTaken l s) l = { port s l with media := [] } := (port_modPort ..).trans (if_pos rfl)
    rw [ancCut, quenchedNow_mediaTaken, hquench, if_pos rfl, htaken]
  obtain ⟨hcount, hstruck⟩ := purgeQueues_cuts l (mediaTaken l s)
  have hswept : portSwept l t s = purgeQueues l (mediaTaken l s) := by
    rw [portSwept, hmedia]
    rfl
  rw [hcut, ← hswept] at hcount hstruck
  refine ⟨hmoved.out.trans swept.out, (hkept (by rw [swept.portSends]; exact hsend)).trans hanc,
    (hmoved.ctr _ 3 (by decide) (by decide)).trans hcount, fun hne => hmoved.bits _ _ (hstruck (List.length_pos_iff.mpr hne))⟩

/-! ## A frame of a stopped flow -/

/-- The port with its one media frame discarded, its flow being stopped. -/
def stopDiscarded (l : Nat) (q : QFrame) (s : State) : State :=
  flowCount q.flow 4 1 (raiseBit (pgFlow (l / 4)) 0 (bump (pgFlow (l / 4)) 2 1 (mediaTaken l s)))

theorem stopDiscarded_facts (l : Nat) (q : QFrame) (s : State) :
    (stopDiscarded l q s).out = s.out ∧ port (stopDiscarded l q s) l = { port s l with media := [] } ∧
      Counted (pgFlow (l / 4)) 2 1 s (stopDiscarded l q s) ∧ bitOf (page (stopDiscarded l q s) (pgFlow (l / 4))).stat 0 = true := by
  have counted : ∀ u : State, (flowCount q.flow 4 1 u).out = u.out ∧ port (flowCount q.flow 4 1 u) l = port u l ∧
      counter (flowCount q.flow 4 1 u) (pgFlow (l / 4)) 2 = counter u (pgFlow (l / 4)) 2 ∧
      page (flowCount q.flow 4 1 u) (pgFlow (l / 4)) = page u (pgFlow (l / 4)) := fun _ => ⟨rfl, rfl, rfl, rfl⟩
  obtain ⟨hout, hport, hctr, hpage⟩ := counted (raiseBit (pgFlow (l / 4)) 0 (bump (pgFlow (l / 4)) 2 1 (mediaTaken l s)))
  have struck := struck_raiseBit (pgFlow (l / 4)) (i := 0) (by decide) (bump (pgFlow (l / 4)) 2 1 (mediaTaken l s))
  have htaken : port (mediaTaken l s) l = { port s l with media := [] } := (port_modPort ..).trans (if_pos rfl)
  rw [stopDiscarded, Counted, hout, hport, hctr, hpage, counter_raiseBit, counter_bump_self]
  refine ⟨?_, ?_, rfl, bitOf_of_struck (by decide) struck⟩
  · rw [raiseBit_frame]
    rfl
  · rw [raiseBit_frame, ← htaken]
    rfl

section

variable {l t : Nat} {s : State} {q : QFrame} (hmedia : (port s l).media = [q]) (hdue : q.release ≤ t)
include hmedia hdue

/-- A frame of a flow that has been stopped for 100 ns leaves without a wire (R352, R354). -/
theorem portSwept_of_stopped (hmuted : mutedFrame s q = false) (hstopped : stoppedFrame s q = true) :
    portSwept l t s = purgeQueues l (stopDiscarded l q s) := by
  have taken : PortMoved [] l s (mediaTaken l s) := portMoved_modPort ..
  have hlost : mustDiscard (mediaTaken l s) l q = true := by
    rw [mustDiscard, taken.stoppedFrame, hstopped]
    simp
  have hdiscard : discardMedia l q (mediaTaken l s) = stopDiscarded l q s := by
    rw [discardMedia, taken.mutedFrame, hmuted, taken.stoppedFrame, hstopped]
    rfl
  rw [portSwept, hmedia, purge, if_neg (Nat.not_lt.mpr hdue), if_pos hlost, hdiscard, purge]

theorem transmit_stopped (hmuted : mutedFrame s q = false) (hstopped : stoppedFrame s q = true) (hptp : (port s l).ptpQ = [])
    (hmgmt : (port s l).mgmtQ = []) (hanc : (port s l).anc = [[], [], [], [], [], []]) :
    (port (transmit l t s) l).media = [] ∧ (transmit l t s).out = s.out ∧ Counted (pgFlow (l / 4)) 2 1 s (transmit l t s) ∧
      bitOf (page (transmit l t s) (pgFlow (l / 4))).stat 0 = true := by
  obtain ⟨hout, hport, hcount, hbit⟩ := stopDiscarded_facts l q s
  have swept := portMoved_purgeQueues l (stopDiscarded l q s)
  have hleft := port_purgeQueues l (stopDiscarded l q s)
  rw [hport] at hleft
  rw [← portSwept_of_stopped hmedia hdue hmuted hstopped] at swept hleft
  obtain ⟨hmoved, hmedia', -⟩ := transmit_of_empty (t := t) (s := s) ⟨by rw [hleft], by rw [hleft]; exact hptp, by rw [hleft, hmgmt]; rfl, by
    rw [hleft, hanc]
    dsimp only
    split
    · exact forall_mem_empties
    · exact forall_mem_filtered forall_mem_empties _⟩
  exact ⟨hmedia', (hmoved.out.trans swept.out).trans hout, ((hmoved.ctr _ 2 (by decide) (by decide)).trans
    (swept.ctr _ 2 (by decide) (by decide))).trans hcount, hmoved.bits _ _ (swept.bits _ _ hbit)⟩

/-! ## A media frame that leaves -/

/-- Port `l` with its one media frame passed. -/
def mediaPassed (l : Nat) (q : QFrame) (s : State) : State :=
  modPort l (fun p => { p with
    media := p.media ++ [q], resumed := if p.waitFrom.isSome then NSet.add p.resumed q.flow else p.resumed }) (mediaTaken l s)

omit hmedia hdue in
theorem port_mediaPassed (hwait : (port s l).waitFrom = none) : port (mediaPassed l q s) l = { port s l with media := [q] } := by
  have htaken : port (mediaTaken l s) l = { port s l with media := [] } := (port_modPort ..).trans (if_pos rfl)
  rw [mediaPassed, port_modPort, if_pos rfl, htaken]
  dsimp only
  rw [hwait]
  rfl

omit hmedia hdue in
theorem portMoved_mediaPassed {ns : List Nat} : PortMoved ns l s (mediaPassed l q s) := (portMoved_modPort ..).trans (portMoved_modPort ..)

theorem portSwept_of_passing (hkeep : mustDiscard s l q = false) (hflow : (flow s q.flow).waitFrom = none) :
    portSwept l t s = purgeQueues l (mediaPassed l q s) := by
  have taken : PortMoved [] l s (mediaTaken l s) := portMoved_modPort ..
  have htaken : port (mediaTaken l s) l = { port s l with media := [] } := (port_modPort ..).trans (if_pos rfl)
  have hpass : mustDiscard (mediaTaken l s) l q = false := by
    rw [taken.mustDiscard (by rw [htaken]) (by rw [htaken]) (by rw [htaken]), hkeep]
  have hrun : (flow (mediaTaken l s) q.flow).waitFrom.isSome = false := by
    rw [taken.flow, hflow]
    rfl
  rw [portSwept, hmedia, purge, if_neg (Nat.not_lt.mpr hdue), hpass, if_neg Bool.false_ne_true, hrun]
  rfl

end

end Sys2Proof.Laws
end

section
/-! The media class sends (R333, R340–R342): one frame whose flow holds enough, from the flow's bucket onto the wire. -/

namespace Sys2Proof.Laws

open Sys2Proof Sys2Proof.Machine

/-- Port `l` with media frame `q` taken from its queue, and from the port's bucket where it shapes. -/
def mediaErased (l : Nat) (q : QFrame) (s : State) : State :=
  modPort l (fun p => { p with
    media := p.media.erase q
    tokPort := if 0 < shapeRate (effW s) l then p.tokPort - frameCost q * tokByte else p.tokPort }) s

/-- The state with media frame `q` about to start at `t`. -/
def mediaLeaves (l t : Nat) (q : QFrame) (s : State) : State := takeFlowTok q.flow q.path t (frameCost q) (mediaErased l q s)

section

variable {l t gbps : Nat} {s : State} {q : QFrame} (hmedia : (port s l).media = [q]) (hdue : q.release ≤ t)
  (htok : frameCost q * tokByte ≤ flowTok s q.flow q.path t) (hfits : fitsGate (port s l) 2 t (frameCost q) gbps = true)
  (hshape : shapeRate (effW s) l = 0)
include hmedia hdue htok hfits hshape

theorem tryMedia_of_one : tryMedia l t gbps s = (true, startFrame l 2 t gbps q (mediaLeaves l t q s)) := by
  have hpick : pickMedia l t gbps [q].length [q] s = (some q, s) := if_pos hfits
  have hfree : shaperHolds s l q = false := by
    rw [shaperHolds, hshape]
    rfl
  have hcand : (heads ((port s l).media.filter (fun q => decide (q.release ≤ t))) []).filter
      (fun q => decide (frameCost q * tokByte ≤ flowTok s q.flow q.path t)) = [q] := by
    have hready : [q].filter (fun q => decide (q.release ≤ t)) = [q] := by simp [hdue]
    rw [hmedia, hready]
    change [q].filter _ = [q]
    simp [htok]
  unfold tryMedia
  dsimp only
  rw [hcand, hpick]
  dsimp only
  rw [hfree, if_neg Bool.false_ne_true]
  rfl

theorem sharedTurn_sends (hopen : gateOpen (port s l) 2 t = true) :
    sharedTurn l t gbps s = startFrame l 2 t gbps q (mediaLeaves l t q s) := by
  have hfree : shaperBlocks s l = false := by
    unfold shaperBlocks
    split
    · rfl
    · rw [shaperHolds, hshape]
      rfl
  have tried : (if gateOpen (port s l) 2 t then tryMedia l t gbps s else (false, s)) =
      (true, startFrame l 2 t gbps q (mediaLeaves l t q s)) := (if_pos hopen).trans (tryMedia_of_one hmedia hdue htok hfits hshape)
  unfold sharedTurn
  rw [tried, hfree, if_neg Bool.false_ne_true]
  dsimp only
  rw [if_pos rfl]

end

/-- The tokens of a path of a flow. -/
abbrev pathTok (f : Flow) (path : Nat) : Nat := if path = 0 then f.tokA else f.tokB

theorem pathTok_takeFlowTok (n path t k : Nat) (s : State) :
    pathTok (flow (takeFlowTok n path t k s) n) path = flowTok s n path t - k * tokByte := by
  rw [takeFlowTok, flow_modFlow, if_pos rfl, pathTok]
  split
  · rfl
  · rfl

theorem pathTok_flowCount (n i x path : Nat) (s : State) (m : Nat) : pathTok (flow (flowCount n i x s) m) path = pathTok (flow s m) path := by
  rw [flowCount, flow_modFlow]
  split
  · next h => rw [h]
  · rfl

theorem pathTok_startFrame (l t gbps : Nat) (q : QFrame) (s : State) :
    pathTok (flow (startFrame l 2 t gbps q s) q.flow) q.path = pathTok (flow s q.flow) q.path := by
  have sent : ∀ (o : Out) (u : State), flow (emit o u) q.flow = flow u q.flow := fun _ _ => rfl
  have counted : ∀ k n x (u : State), flow (bump k n x u) q.flow = flow u q.flow := fun _ _ _ _ => rfl
  have busy : flow (wireBusy l t gbps q s) q.flow = flow s q.flow := rfl
  rw [startFrame_eq, sent, classNoted, if_pos rfl, pathTok_flowCount, pathTok_flowCount, counted, counted, wireTaken_eq, counted, counted,
    counted, counted, busy]

/-- The media frame of a port leaves where its class's turn has come (R333, R340, R342). -/
theorem transmit_sendsMedia {l t : Nat} {s : State} {q : QFrame} (hsend : portSends s l = true) (hmedia : (port s l).media = [q])
    (hptp : (port s l).ptpQ = []) (hmgmt : (port s l).mgmtQ = []) (hdue : q.release ≤ t) (hkeep : mustDiscard s l q = false)
    (hflow : (flow s q.flow).waitFrom = none) (hwait : (port s l).waitFrom = none) (hshape : shapeRate (effW s) l = 0)
    (hopen : gateOpen (port s l) 2 t = true) (hfits : fitsGate (port s l) 2 t (frameCost q) (portGbps (effW s) l) = true)
    (htok : frameCost q * tokByte ≤ flowTok s q.flow q.path t) :
    (transmit l t s).out = .frame l 2 q.flow q.path q.len q.seq q.record q.ip :: s.out ∧ (port (transmit l t s) l).media = [] ∧
      (port (transmit l t s) l).busyTo = t + cdiv (frameCost q * 8) (portGbps (effW s) l) ∧
      pathTok (flow (transmit l t s) q.flow) q.path = flowTok s q.flow q.path t - frameCost q * tokByte := by
  have swept : PortMoved [3, 4] l s (portSwept l t s) := by
    rw [portSwept_of_passing hmedia hdue hkeep hflow]
    exact portMoved_mediaPassed.trans (portMoved_purgeQueues ..)
  have hport := port_purgeQueues l (mediaPassed l q s)
  rw [port_mediaPassed hwait, ← portSwept_of_passing hmedia hdue hkeep hflow] at hport
  have hturn : transmit l t s = sharedTurn l t (portGbps (effW s) l) (portSwept l t s) := by
    rw [transmit_eq, swept.portSends, hsend, ptpTurn_passes (by rw [hport]; exact hptp), mgmtTurn_passes (by rw [hport, hmgmt]; rfl)]
    exact if_neg Bool.false_ne_true
  generalize portSwept l t s = u at swept hport hturn
  have hleft : (port u l).media = [q] := by rw [hport]
  have hsent := sharedTurn_sends (gbps := portGbps (effW s) l) hleft hdue (by rw [swept.flowTok]; exact htok)
    (by rw [hport, ← hfits]; exact fitsGate_congr rfl rfl ..) (by rw [swept.effW]; exact hshape) (by rw [hport, ← hopen]; exact gateOpen_congr rfl rfl ..)
  have taken : PortMoved [] l u (mediaErased l q u) := portMoved_modPort ..
  have htaken : (port (mediaErased l q u) l).media = [] := by
    rw [mediaErased, port_modPort, if_pos rfl, hleft]
    exact List.erase_cons_head ..
  have hstand : port (mediaLeaves l t q u) l = port (mediaErased l q u) l ∧ (mediaLeaves l t q u).out = u.out := ⟨rfl, rfl⟩
  rw [hturn, hsent, out_startFrame, port_startFrame, if_pos rfl, pathTok_startFrame, hstand.2, swept.out]
  refine ⟨rfl, ?_, rfl, ?_⟩
  · rw [hstand.1]
    exact htaken
  · rw [mediaLeaves, pathTok_takeFlowTok, taken.flowTok, swept.flowTok]

end Sys2Proof.Laws
end

section
/-! Gate lists (R345, R346, R348, R350), announcements (R329, R332), and the obligation of the ports. -/

namespace Sys2Proof.Laws

open Sys2Proof Sys2Proof.Machine

/-! ## Windows -/

theorem gatesTurn_keeps (a b : Nat) (p : PortTx) : (gatesTurn a b p).media.length = p.media.length ∧ (gatesTurn a b p).oper = p.oper :=
  ⟨List.length_map .., rfl⟩

/-! ## The wait bound -/

theorem portWait_congr {s u : State} {l : Nat} (hlive : u.live = s.live) (hoper : (port u l).oper = (port s l).oper)
    (hpend : (port u l).pend = (port s l).pend) : portWait u l = portWait s l := by
  have hwords : liveW u = liveW s := by
    unfold liveW
    rw [hlive]
  rw [portWait, portWait, hwords, hlive, hoper, hpend]

theorem port_takeWait (l : Nat) (s : State) : port (takeWait l s) l = { port s l with wait := portWait s l } :=
  (port_modPort ..).trans (if_pos rfl)

theorem portWait_takeWait (l : Nat) (s : State) : portWait (takeWait l s) l = portWait s l :=
  portWait_congr rfl (by rw [port_takeWait]) (by rw [port_takeWait])

theorem portMoved_takeWait {ns : List Nat} (l : Nat) (s : State) : PortMoved ns l s (takeWait l s) := by
  unfold takeWait
  exact portMoved_modPort ..

/-! ## A list that starts -/

/-- The pending list `q` of port `l` as it becomes operative (R350). -/
def listBegun (l : Nat) (q : GList) (s : State) : State :=
  advance q.start (modPort l (fun p =>
    { gatesTurn (gatesAt p (q.start - 1)) (gateAt q.entries 0 0).1 p with oper := some q, pend := none }) s)

/-- One that starts after its base time is told (R350, R355). -/
def basePast (l : Nat) (q : GList) (s : State) : State := if q.start = q.base then s else bump (pgGate l) 12 1 (raiseBit (pgGate l) 0 s)

theorem listStarts_of_pending {l : Nat} {q : GList} {s : State} (hpend : (port s l).pend = some q) :
    listStarts l s = takeWait l (basePast l q (listBegun l q s)) := by
  rw [listStarts, hpend]
  rfl

theorem port_listBegun (l : Nat) (q : GList) (s : State) (k : Nat) : port (listBegun l q s) k = if k = l then
    { gatesTurn (gatesAt (port s l) (q.start - 1)) (gateAt q.entries 0 0).1 (port s l) with oper := some q, pend := none } else port s k :=
  port_modPort l (fun p => { gatesTurn (gatesAt p (q.start - 1)) (gateAt q.entries 0 0).1 p with oper := some q, pend := none }) s k

theorem portMoved_basePast (l : Nat) (q : GList) (s : State) : PortMoved [12] l s (basePast l q s) ∧ (basePast l q s).ports = s.ports := by
  unfold basePast
  split
  · exact ⟨.refl s, rfl⟩
  · have noted := (noted_raiseBit (pgGate l) 0 s).bumped (pgGate l) 12 1
    have hctr : ∀ k n, n < 128 → n ∉ [12] → counter (bump (pgGate l) 12 1 (raiseBit (pgGate l) 0 s)) k n = counter s k n := fun k n hn hno => by
      rw [counter_bump_other (by simp only [List.mem_singleton] at hno; omega), counter_raiseBit]
    have hports : (bump (pgGate l) 12 1 (raiseBit (pgGate l) 0 s)).ports = s.ports := by rw [noted.frame]
    refine ⟨⟨?_, fun k _ => by rw [port, hports]; rfl, noted.bits, hctr⟩, hports⟩
    have moved := noted.frame
    generalize bump (pgGate l) 12 1 (raiseBit (pgGate l) 0 s) = t at moved
    rw [moved]

/-- A pending list at its start instant (R345, R350). -/
theorem listStarts_begins {l : Nat} {q : GList} {s : State} (hpend : (port s l).pend = some q) :
    (port (listStarts l s) l).oper = some q ∧ (port (listStarts l s) l).pend = none ∧
      (port (listStarts l s) l).wait = portWait (listStarts l s) l ∧
      (port (listStarts l s) l).media.length = (port s l).media.length ∧ (∀ k, k ≠ l → port (listStarts l s) k = port s k) ∧
      (listStarts l s).time.now = max s.time.now q.start ∧
      (q.start = q.base → listStarts l s = { s with time := (listStarts l s).time, ports := (listStarts l s).ports }) ∧
      (q.start ≠ q.base → Struck (pgGate l) 0 s (listStarts l s) ∧ Counted (pgGate l) 12 1 s (listStarts l s)) ∧
      listStarts l s = { s with
        time := (listStarts l s).time, pages := (listStarts l s).pages, ctrs := (listStarts l s).ctrs
        ports := (listStarts l s).ports, ic := (listStarts l s).ic } := by
  obtain ⟨told, hports⟩ := portMoved_basePast l q (listBegun l q s)
  have hbegun : ∀ k, port (basePast l q (listBegun l q s)) k = port (listBegun l q s) k := fun k => by rw [port, hports]; rfl
  rw [listStarts_of_pending hpend]
  have moved := told.trans (portMoved_takeWait ..)
  have start : listBegun l q s = { s with time := (listBegun l q s).time, ports := (listBegun l q s).ports } := rfl
  refine ⟨?_, ?_, ?_, ?_, fun k hk => ?_, ?_, fun hbase => ?_, fun hlate => ?_, ?_⟩
  · rw [port_takeWait, hbegun, port_listBegun, if_pos rfl]
  · rw [port_takeWait, hbegun, port_listBegun, if_pos rfl]
  · rw [portWait_takeWait, port_takeWait]
  · rw [port_takeWait, hbegun, port_listBegun, if_pos rfl]
    exact (gatesTurn_keeps _ _ (port s l)).1
  · rw [moved.others k hk, port_listBegun, if_neg hk]
  · rw [moved.time]
    rfl
  · have hquiet : basePast l q (listBegun l q s) = listBegun l q s := if_pos hbase
    have waited : ∀ u : State, takeWait l u = { u with ports := (takeWait l u).ports } := fun _ => rfl
    have frame := waited (listBegun l q s)
    rw [hquiet]
    generalize takeWait l (listBegun l q s) = t at frame
    rw [frame, start]
  · have hloud : basePast l q (listBegun l q s) = bump (pgGate l) 12 1 (raiseBit (pgGate l) 0 (listBegun l q s)) := if_neg hlate
    have kept : ∀ (u : State) k, page (takeWait l u) k = page u k ∧ counter (takeWait l u) k 12 = counter u k 12 := fun _ _ => ⟨rfl, rfl⟩
    have bumped : ∀ (u : State), page (bump (pgGate l) 12 1 u) (pgGate l) = page u (pgGate l) := fun _ => rfl
    have hctr : counter (listBegun l q s) (pgGate l) 12 = counter s (pgGate l) 12 := rfl
    obtain ⟨hpage, hcounter⟩ := kept (basePast l q (listBegun l q s)) (pgGate l)
    rw [Struck, Counted, hpage, hcounter, hloud, bumped, counter_bump_self, counter_raiseBit, hctr]
    exact ⟨struck_of_pages (s := s) (u := listBegun l q s) (by decide) rfl, rfl⟩
  · have frame := moved.frame
    generalize takeWait l (basePast l q (listBegun l q s)) = t at frame
    rw [frame, start]

/-! ## An entry that begins -/

theorem gateBegins_begins {l : Nat} {g : GList} {s : State} (hoper : (port s l).oper = some g) (hcycle : 0 < g.cycle) :
    (gateBegins l s).time.now = s.time.now + ((gateAt g.entries ((s.time.now + g.cycle - g.base % g.cycle) % g.cycle) 0).2 -
        (s.time.now + g.cycle - g.base % g.cycle) % g.cycle) ∧
      (port (gateBegins l s) l).media.length = (port s l).media.length ∧ (port (gateBegins l s) l).oper = some g ∧
      (∀ k, k ≠ l → port (gateBegins l s) k = port s k) ∧
      gateBegins l s = { s with time := (gateBegins l s).time, ports := (gateBegins l s).ports } := by
  generalize hx : (s.time.now + g.cycle - g.base % g.cycle) % g.cycle = x
  have hbegins : gateBegins l s = advance (s.time.now + ((gateAt g.entries x 0).2 - x)) (modPort l (fun p =>
      gatesTurn (gateAt g.entries x 0).1 (gatesAt p (s.time.now + ((gateAt g.entries x 0).2 - x))) p) s) := by
    rw [gateBegins, hoper, ← hx]
    exact if_neg (by omega)
  rw [hbegins]
  have hport : ∀ (t : Nat) (u : State) k, port (advance t u) k = port u k := fun _ _ _ => rfl
  refine ⟨Nat.max_eq_right (Nat.le_add_right ..), ?_, ?_, fun k hk => ?_, rfl⟩
  · rw [hport, port_modPort, if_pos rfl]
    exact (gatesTurn_keeps ..).1
  · rw [hport, port_modPort, if_pos rfl]
    exact (gatesTurn_keeps ..).2.trans hoper
  · rw [hport, port_modPort, if_neg hk]

/-! ## A description announced -/

/-- The state with an announcement of a flow of die `d` counted, and told where port `l` sends. -/
def sapNoted (d l : Nat) (o : Out) (s : State) : State := emitOn l o (bump (pgYard d) 6 1 s)

theorem sapNoted_eq (d l : Nat) (o : Out) (s : State) :
    sapNoted d l o s = { bump (pgYard d) 6 1 s with out := (if portSends s l then [o] else []) ++ s.out } := emitOn_eq ..

/-- The datagram of an announcement (R329, R332). -/
def sapDatagram (f : Nat) (x : SdpDesc) (s : State) : Dgram :=
  { mac := gateMac (effW s) x.port, src := x.src, dst := effW s (ploc (pgYard (f / 4096)) 0x304), sport := 9875, dport := 9875, dscp := 0, ttl := 255
    tag := none, payload := sapBytes x.ssrc x.src false x.text }

theorem sapSend_announces {f : Nat} {x : SdpDesc} {s : State} (hann : announces s = true) (hen : sapEn s (f / 4096) = true) (hgroup : x.group = true) :
    sapSend f x false s = ancFrame x.port 2 (sapDatagram f x s) (sapNoted (f / 4096) x.port (.sap f false) s) := by
  have hyes : (announces s && sapEn s (f / 4096) && x.group) = true := by rw [hann, hen, hgroup]; rfl
  have hwords : effW (sapNoted (f / 4096) x.port (.sap f false) s) = effW s := by
    rw [sapNoted_eq]
    rfl
  refine (if_pos hyes).trans ?_
  change ancFrame x.port 2 (sapDatagram f x (sapNoted (f / 4096) x.port (.sap f false) s)) (sapNoted (f / 4096) x.port (.sap f false) s) = _
  rw [sapDatagram, hwords]
  rfl

/-- What a frame that joins an ancillary queue moves (R343). -/
theorem ancJoin_moves (l i len : Nat) (ip : Option Dgram) (s : State) : PortMoved [15] l s (ancJoin l i len ip s) ∧
    ancJoin l i len ip s = { s with ctrs := (ancJoin l i len ip s).ctrs, ports := (ancJoin l i len ip s).ports } := by
  unfold ancJoin
  dsimp only
  split
  · exact ⟨portMoved_bump (by decide) (by decide) .., rfl⟩
  · exact ⟨portMoved_modPort .., rfl⟩

theorem ancJoin_of_empty {l len : Nat} {ip : Option Dgram} {s : State} (hanc : (port s l).anc = [[], [], [], [], [], []]) (hlen : len ≤ 32768) :
    (port (ancJoin l 2 len ip s) l).anc = [[], [], [{ len := len, release := s.time.now, ip := ip }], [], [], []] := by
  have hfit : ¬ 32768 < (((port s l).anc.getD 2 []).map (fun f => f.len)).sum + len := by
    rw [hanc]
    change ¬ 32768 < 0 + len
    omega
  unfold ancJoin
  dsimp only
  rw [if_neg hfit, port_modPort, if_pos rfl, hanc]
  rfl

theorem length_sapBytes (ssrc : Nat) (src : Word) (text : List Byte) : (sapBytes ssrc src false text).length = 24 + text.length := by
  have hbytes : ∀ n x, (beBytes n x).length = n := fun n x => by rw [beBytes, List.length_map, List.length_range]
  have htype : (asc "application/sdp").length = 15 := by
    rw [asc, List.length_map]
    rfl
  simp only [sapBytes, List.length_append, List.length_cons, List.length_nil, hbytes, htype]

/-- A description announced: counted, told, and queued at its port (R329, R332). -/
theorem sapSend_queues {f : Nat} {x : SdpDesc} {s : State} (hann : announces s = true) (hen : sapEn s (f / 4096) = true) (hgroup : x.group = true) :
    (sapSend f x false s).out = (if portSends s x.port = true then [.sap f false] else []) ++ s.out ∧
      (∀ k, k ≠ x.port → port (sapSend f x false s) k = port s k) ∧ Counted (pgYard (f / 4096)) 6 1 s (sapSend f x false s) ∧
      ((port s x.port).anc = [[], [], [], [], [], []] → x.text.length ≤ 32000 →
        ∃ (q : QFrame) (a : Dgram), (port (sapSend f x false s) x.port).anc = [[], [], [q], [], [], []] ∧ q.ip = some a ∧ a.dport = 9875 ∧
          a.dst = effW s (ploc (pgYard (f / 4096)) 0x304) ∧ a.payload = sapBytes x.ssrc x.src false x.text) ∧
      sapSend f x false s = { s with
        out := (sapSend f x false s).out, ctrs := (sapSend f x false s).ctrs, ports := (sapSend f x false s).ports } := by
  rw [sapSend_announces hann hen hgroup, ancFrame]
  obtain ⟨moved, frame⟩ := ancJoin_moves x.port 2 ((sapDatagram f x s).payload.length + 46) (some (sapDatagram f x s))
    (sapNoted (f / 4096) x.port (.sap f false) s)
  have joined := ancJoin_of_empty (l := x.port) (len := (sapDatagram f x s).payload.length + 46) (ip := some (sapDatagram f x s))
    (s := sapNoted (f / 4096) x.port (.sap f false) s)
  have hnoted := sapNoted_eq (f / 4096) x.port (.sap f false) s
  have hport : ∀ k, port (sapNoted (f / 4096) x.port (.sap f false) s) k = port s k := fun k => by
    rw [hnoted]
    rfl
  have hctr : counter (sapNoted (f / 4096) x.port (.sap f false) s) (pgYard (f / 4096)) 6 =
      counter s (pgYard (f / 4096)) 6 + BitVec.ofNat 64 1 := by
    rw [hnoted]
    exact counter_bump_self ..
  refine ⟨?_, fun k hk => (moved.others k hk).trans (hport k), (moved.ctr _ 6 (by decide) (by decide)).trans hctr, fun hanc htext => ?_, ?_⟩
  · rw [moved.out, hnoted]
  · have hlen : (sapDatagram f x s).payload.length = 24 + x.text.length := length_sapBytes ..
    exact ⟨_, _, joined (by rw [hport]; exact hanc) (by omega), rfl, rfl, rfl, rfl⟩
  · generalize ancJoin x.port 2 ((sapDatagram f x s).payload.length + 46) (some (sapDatagram f x s))
      (sapNoted (f / 4096) x.port (.sap f false) s) = t at frame
    rw [frame, hnoted]
    rfl

/-! ## The obligation -/

theorem next_atEth {l : Nat} {s : State} (hrun : inReset s = false) (hl : l < 4 * dies s) (k : State → State) : atEth l s k = .next (k s) := by
  rw [atEth, if_pos hl, whenUp_of_running hrun]

section

variable (l t : Nat) (s : State)

/-- Port `l` of the state in which it decides. -/
theorem port_readied_self : port (readied l t s) l = refilled (effW s) l t (port s l) := by rw [port_readied, if_pos rfl]

theorem readied_keeps : (readied l t s).time.now = max s.time.now t ∧ (readied l t s).out = s.out ∧ (readied l t s).stops = s.stops ∧
    (readied l t s).quench = s.quench ∧ (∀ n, flow (readied l t s) n = flow s n) ∧ (∀ k n, counter (readied l t s) k n = counter s k n) := by
  have ready := portMoved_readied (ns := []) l t s
  have hset : (readied l t s).stops = (advance t s).stops ∧ (readied l t s).quench = (advance t s).quench := by
    rw [ready.frame]
    exact ⟨rfl, rfl⟩
  exact ⟨by rw [ready.time]; rfl, ready.out, hset.1, hset.2, ready.flow, fun k n => by rw [readied_eq]; rfl⟩

/-- Buckets filled to whatever amount leave the rest of a port. -/
theorem buckets_keep (a b c : Nat) (p : PortTx) :
    let r : PortTx := { p with tokPort := a, tokMgmt := b, lastFill := c }
    r.media = p.media ∧ r.ptpQ = p.ptpQ ∧ r.mgmtQ = p.mgmtQ ∧ r.anc = p.anc ∧ r.quenchAt = p.quenchAt ∧ r.waitFrom = p.waitFrom ∧
      r.resumed = p.resumed ∧ r.oper = p.oper ∧ r.pend = p.pend := ⟨rfl, rfl, rfl, rfl, rfl, rfl, rfl, rfl, rfl⟩

/-- The queues, marks and lists of port `l` as it decides. -/
theorem port_readied_keeps : (port (readied l t s) l).media = (port s l).media ∧ (port (readied l t s) l).ptpQ = (port s l).ptpQ ∧
    (port (readied l t s) l).mgmtQ = (port s l).mgmtQ ∧ (port (readied l t s) l).anc = (port s l).anc ∧
    (port (readied l t s) l).quenchAt = (port s l).quenchAt ∧ (port (readied l t s) l).waitFrom = (port s l).waitFrom ∧
    (port (readied l t s) l).resumed = (port s l).resumed ∧ (port (readied l t s) l).oper = (port s l).oper ∧
    (port (readied l t s) l).pend = (port s l).pend := by
  rw [port_readied_self]
  exact buckets_keep ..

end

section

variable {l t : Nat} {s : State}

/-- A frame of a stopped flow has been stopped for 100 ns at any later instant too. -/
theorem stoppedFrame_readied {q : QFrame} (hstop : q.flow ∈ s.stops) (hage : (flow s q.flow).stopAt + 100 ≤ t) :
    stoppedFrame (readied l t s) q = true := by
  obtain ⟨hnow, -, hstops, -, hflow, -⟩ := readied_keeps l t s
  have hcontains : s.stops.contains q.flow = true := List.contains_iff_mem.mpr hstop
  rw [stoppedFrame, hnow, hstops, hflow, hcontains, decide_eq_true (Nat.le_trans hage (Nat.le_max_right ..))]
  rfl

theorem quenchedNow_readied (hquench : l ∈ s.quench) (hage : (port s l).quenchAt + 100 ≤ t) : quenchedNow (readied l t s) l = true := by
  obtain ⟨hnow, -, -, hset, -, -⟩ := readied_keeps l t s
  have hcontains : s.quench.contains l = true := List.contains_iff_mem.mpr hquench
  obtain ⟨-, -, -, -, hat, -, -, -, -⟩ := port_readied_keeps l t s
  rw [quenchedNow, hnow, hset, hat, hcontains, decide_eq_true (Nat.le_trans hage (Nat.le_max_right ..))]
  rfl

end

section

variable {l t : Nat} {s : State}

theorem gates_readied (b : Nat) : gateOpen (port (readied l t s) l) b t = gateOpen (port s l) b t ∧
    ∀ k g, fitsGate (port (readied l t s) l) b t k g = fitsGate (port s l) b t k g := by
  obtain ⟨-, -, -, -, -, -, -, hoper, hpend⟩ := port_readied_keeps l t s
  exact ⟨gateOpen_congr hoper hpend .., fun _ _ => fitsGate_congr hoper hpend ..⟩

theorem decides_stopped {q : QFrame} (hmedia : (port s l).media = [q]) (hptp : (port s l).ptpQ = []) (hmgmt : (port s l).mgmtQ = [])
    (hanc : (port s l).anc = [[], [], [], [], [], []]) (hdue : q.release ≤ t) (hstop : q.flow ∈ s.stops)
    (hage : (flow s q.flow).stopAt + 100 ≤ t) (hmuted : mutedFrame s q = false) :
    (port (transmit l t (readied l t s)) l).media = [] ∧ (transmit l t (readied l t s)).out = s.out ∧
      Counted (pgFlow (l / 4)) 2 1 s (transmit l t (readied l t s)) ∧
      bitOf (page (transmit l t (readied l t s)) (pgFlow (l / 4))).stat 0 = true := by
  obtain ⟨-, hout, -, -, -, hctr⟩ := readied_keeps l t s
  obtain ⟨hmedia', hptp', hmgmt', hanc', -, -, -, -, -⟩ := port_readied_keeps l t s
  have hmute : mutedFrame (readied l t s) q = mutedFrame (advance t s) q := (portMoved_readied (ns := []) l t s).mutedFrame q
  obtain ⟨hleft, hsent, hcount, hbit⟩ := transmit_stopped (t := t) (hmedia'.trans hmedia) hdue (hmute.trans hmuted)
    (stoppedFrame_readied hstop hage) (hptp'.trans hptp) (hmgmt'.trans hmgmt) (hanc'.trans hanc)
  rw [Counted, hctr] at hcount
  exact ⟨hleft, hsent.trans hout, hcount, hbit⟩

theorem decides_quenched (hsend : portSends s l = true) (hmedia : (port s l).media = []) (hptp : (port s l).ptpQ = [])
    (hmgmt : (port s l).mgmtQ = []) (hquench : l ∈ s.quench) (hage : (port s l).quenchAt + 100 ≤ t) :
    (transmit l t (readied l t s)).out = s.out ∧ (port (transmit l t (readied l t s)) l).anc = [[], [], [], [], [], []] ∧
      Counted (pgFlow (l / 4)) 3 (port s l).anc.flatten.length s (transmit l t (readied l t s)) ∧
      ((port s l).anc.flatten ≠ [] → bitOf (page (transmit l t (readied l t s)) (pgFlow (l / 4))).stat 0 = true) := by
  obtain ⟨-, hout, -, -, -, hctr⟩ := readied_keeps l t s
  obtain ⟨hmedia', hptp', hmgmt', hanc', -, -, -, -, -⟩ := port_readied_keeps l t s
  have hsends : portSends (readied l t s) l = portSends (advance t s) l := (portMoved_readied (ns := []) l t s).portSends l
  obtain ⟨hsent, hanc, hcount, hbit⟩ := transmit_quenched (t := t) (hsends.trans hsend) (hmedia'.trans hmedia) (hptp'.trans hptp)
    (hmgmt'.trans hmgmt) (quenchedNow_readied hquench hage)
  rw [Counted, hctr, hanc'] at hcount
  rw [hanc'] at hbit
  exact ⟨hsent.trans hout, hanc, hcount, hbit⟩

theorem decides_media {q : QFrame} (hsend : portSends s l = true) (hmedia : (port s l).media = [q]) (hptp : (port s l).ptpQ = [])
    (hmgmt : (port s l).mgmtQ = []) (hdue : q.release ≤ t) (hkeep : mustDiscard (advance t s) l q = false)
    (hflow : (flow s q.flow).waitFrom = none) (hwait : (port s l).waitFrom = none) (hshape : shapeRate (effW s) l = 0)
    (hopen : gateOpen (port s l) 2 t = true) (hfits : fitsGate (port s l) 2 t (frameCost q) (portGbps (effW s) l) = true)
    (htok : frameCost q * tokByte ≤ flowTok s q.flow q.path t) :
    (transmit l t (readied l t s)).out = .frame l 2 q.flow q.path q.len q.seq q.record q.ip :: s.out ∧
      (port (transmit l t (readied l t s)) l).media = [] ∧
      (port (transmit l t (readied l t s)) l).busyTo = t + cdiv (frameCost q * 8) (portGbps (effW s) l) ∧
      pathTok (flow (transmit l t (readied l t s)) q.flow) q.path = flowTok s q.flow q.path t - frameCost q * tokByte := by
  have ready := portMoved_readied (ns := []) l t s
  obtain ⟨-, hout, -, -, hflows, -⟩ := readied_keeps l t s
  obtain ⟨hmedia', hptp', hmgmt', -, hquench', hwait', hresumed', -, -⟩ := port_readied_keeps l t s
  obtain ⟨hgate, hfit⟩ := gates_readied (l := l) (t := t) (s := s) 2
  have hwords : effW (readied l t s) = effW (advance t s) := ready.effW
  have hsends : portSends (readied l t s) l = portSends (advance t s) l := ready.portSends l
  have htokens : flowTok (readied l t s) q.flow q.path t = flowTok (advance t s) q.flow q.path t := ready.flowTok ..
  have hstay : mustDiscard (readied l t s) l q = mustDiscard (advance t s) l q :=
    ready.mustDiscard hquench' hwait' hresumed' q
  have hsent := transmit_sendsMedia (t := t) (hsends.trans hsend) (hmedia'.trans hmedia) (hptp'.trans hptp) (hmgmt'.trans hmgmt) hdue
    (hstay.trans hkeep) (by rw [hflows]; exact hflow) (hwait'.trans hwait) (by rw [hwords]; exact hshape) (hgate.trans hopen)
    (by rw [hfit, hwords]; exact hfits) (by rw [htokens]; exact htok)
  rw [hout, hwords, htokens] at hsent
  exact hsent

theorem decides_mgmt {q : QFrame} {qs : List QFrame} (hsend : portSends s l = true) (hmedia : (port s l).media = [])
    (hptp : (port s l).ptpQ = []) (hq : (port s l).mgmtQ = q :: qs) (hknown : ∀ r ∈ q :: qs, resolved (advance t s) l r = true)
    (hopen : gateOpen (port s l) 1 t = true) (hfits : fitsGate (port s l) 1 t (frameCost q) (portGbps (effW s) l) = true)
    (htok : frameCost q * tokByte ≤ fill (port s l).tokMgmt (mgmtRate (effW s) l * 1000000) (t - (port s l).lastFill) (mgmtBurst (effW s) l)) :
    (transmit l t (readied l t s)).out = .frame l 1 q.flow q.path q.len q.seq q.record q.ip :: s.out ∧
      (port (transmit l t (readied l t s)) l).mgmtQ = qs ∧
      (port (transmit l t (readied l t s)) l).busyTo = t + cdiv (frameCost q * 8) (portGbps (effW s) l) ∧
      ∀ k, k ≠ l → port (transmit l t (readied l t s)) k = port s k := by
  have ready := portMoved_readied (ns := []) l t s
  obtain ⟨-, hout, -, -, -, -⟩ := readied_keeps l t s
  obtain ⟨hmedia', hptp', hmgmt', -, -, -, -, -, -⟩ := port_readied_keeps l t s
  obtain ⟨hgate, hfit⟩ := gates_readied (l := l) (t := t) (s := s) 1
  have hwords : effW (readied l t s) = effW (advance t s) := ready.effW
  have hsends : portSends (readied l t s) l = portSends (advance t s) l := ready.portSends l
  have swept := portMoved_portSwept (t := t) (hmedia'.trans hmedia)
  have hsent := transmit_sendsMgmt (t := t) (hmedia'.trans hmedia) (hsends.trans hsend) (hptp'.trans hptp) (hmgmt'.trans hq)
    (fun r hr => (ready.resolved r).trans (hknown r hr)) (hgate.trans hopen) (by rw [port_readied_self]; exact htok)
    (by rw [hfit, hwords]; exact hfits)
  have taken : PortMoved [3, 4] l (portSwept l t (readied l t s)) (modPort l (fun p => { p with
    mgmtQ := qs, tokMgmt := p.tokMgmt - frameCost q * tokByte }) (portSwept l t (readied l t s))) := portMoved_modPort ..
  rw [hsent, out_startFrame, port_startFrame, if_pos rfl, port_modPort, if_pos rfl, hwords, (swept.trans taken).out, hout]
  refine ⟨rfl, rfl, rfl, fun k hk => ?_⟩
  rw [port_startFrame, if_neg hk, (swept.trans taken).others k hk, port_readied, if_neg hk]

theorem decides_ptp {q : QFrame} {qs : List QFrame} (hsend : portSends s l = true) (hmedia : (port s l).media = [])
    (hq : (port s l).ptpQ = q :: qs) (hopen : gateOpen (port s l) 0 t = true)
    (hfits : fitsGate (port s l) 0 t (frameCost q) (portGbps (effW s) l) = true) :
    (transmit l t (readied l t s)).out = .frame l 0 q.flow q.path q.len q.seq q.record q.ip :: s.out ∧
      (port (transmit l t (readied l t s)) l).ptpQ = qs ∧
      (port (transmit l t (readied l t s)) l).busyTo = t + cdiv (frameCost q * 8) (portGbps (effW s) l) ∧
      Counted (lanePage l) 6 1 s (transmit l t (readied l t s)) ∧ Counted (lanePage l) 7 q.len s (transmit l t (readied l t s)) ∧
      (∀ k, k ≠ l → port (transmit l t (readied l t s)) k = port s k) ∧
      (transmit l t (readied l t s)).time.now = max s.time.now t ∧ PtpSent s (transmit l t (readied l t s)) := by
  have ready := portMoved_readied (ns := []) l t s
  obtain ⟨hnow, hout, -, -, -, hctr⟩ := readied_keeps l t s
  obtain ⟨hmedia', hptp', -, -, -, -, -, -, -⟩ := port_readied_keeps l t s
  obtain ⟨hgate, hfit⟩ := gates_readied (l := l) (t := t) (s := s) 0
  have hwords : effW (readied l t s) = effW (advance t s) := ready.effW
  have hsends : portSends (readied l t s) l = portSends (advance t s) l := ready.portSends l
  have swept := portMoved_portSwept (t := t) (hmedia'.trans hmedia)
  have hsent := transmit_sendsPtp (t := t) (hmedia'.trans hmedia) (hsends.trans hsend) (hptp'.trans hq) (hgate.trans hopen)
    (by rw [hfit, hwords]; exact hfits)
  have moved : PortMoved [3, 4] l (readied l t s) (modPort l (fun p => { p with ptpQ := qs }) (portSwept l t (readied l t s))) :=
    swept.trans (portMoved_modPort ..)
  have hport : port (modPort l (fun p => { p with ptpQ := qs }) (portSwept l t (readied l t s))) l =
      { port (portSwept l t (readied l t s)) l with ptpQ := qs } := by rw [port_modPort, if_pos rfl]
  rw [hsent, hwords]
  generalize modPort l (fun p => { p with ptpQ := qs }) (portSwept l t (readied l t s)) = u at moved hport
  obtain ⟨hsix, hseven⟩ := counted_startFrame l 0 t (portGbps (effW (advance t s)) l) q u (by decide)
  have start : PtpSent s u := by
    have frame := moved.frame
    have first : readied l t s = { s with time := (readied l t s).time, ports := (readied l t s).ports } := rfl
    generalize readied l t s = v at frame first
    generalize u = w at frame
    rw [PtpSent, frame, first]
  obtain ⟨hframe, hstill⟩ := ptpSent_startFrame l t (portGbps (effW (advance t s)) l) q start
  have hbefore : ∀ n, n < 128 → n ∉ [3, 4] → counter u (lanePage l) n = counter s (lanePage l) n := fun n hn hno =>
    (moved.ctr _ n hn hno).trans (hctr _ n)
  rw [Counted, hbefore 6 (by decide) (by decide)] at hsix
  rw [Counted, hbefore 7 (by decide) (by decide)] at hseven
  rw [out_startFrame, port_startFrame, if_pos rfl, hport, moved.out, hout]
  refine ⟨rfl, rfl, rfl, hsix, hseven, fun k hk => ?_, ?_, hframe⟩
  · rw [port_startFrame, if_neg hk, moved.others k hk, port_readied, if_neg hk]
  · rw [hstill, moved.time]
    exact hnow

end

/-- Settles O36: each class by the turn in which its frame leaves; lists, entries and announcements by what they move. -/
theorem portsSendByClassAndGate : Obligations.PortsSendByClassAndGate := by
  unfold Obligations.PortsSendByClassAndGate
  refine ⟨fun l at_ s hrun hl hport => ?_, fun s hrun => ⟨fun l q hl hpend => ?_, fun l g hl hoper hcycle => ?_,
    fun f x hsdp hann hen hgroup => ?_⟩⟩
  · have decided : (port s l).busyTo ≤ at_ → exec (.portTransmit l at_) s = .next (transmit l at_ (readied l at_ s)) := fun hidle =>
      (next_atEth hrun hl _).trans (congrArg _ (portDecides_of_idle hport hidle))
    refine ⟨fun hbusy => (next_atEth hrun hl _).trans (congrArg _ (portDecides_of_busy hbusy)), ?_, ?_, ?_, ?_, ?_⟩
    · intro q qs hidle hsend hmedia hq hopen hfits
      exact ⟨_, decided hidle, decides_ptp hsend hmedia hq hopen hfits⟩
    · intro q qs hidle hsend hmedia hptp hq hknown hopen hfits htok
      exact ⟨_, decided hidle, decides_mgmt hsend hmedia hptp hq hknown hopen hfits htok⟩
    · intro q hidle hsend hmedia hptp hmgmt hdue hkeep hflow hwait hshape hopen hfits htok
      exact ⟨_, decided hidle, decides_media hsend hmedia hptp hmgmt hdue hkeep hflow hwait hshape hopen hfits htok⟩
    · intro q hidle hmedia hptp hmgmt hanc hdue hstop hage hmuted
      exact ⟨_, decided hidle, decides_stopped hmedia hptp hmgmt hanc hdue hstop hage hmuted⟩
    · intro hidle hsend hmedia hptp hmgmt hquench hage
      exact ⟨_, decided hidle, decides_quenched hsend hmedia hptp hmgmt hquench hage⟩
  · exact ⟨_, next_atEth hrun hl _, listStarts_begins hpend⟩
  · obtain ⟨hnow, hlen, hoper', hothers, hframe⟩ := gateBegins_begins hoper hcycle
    exact ⟨_, _, next_atEth hrun hl _, rfl, hnow, hlen, hoper', hothers, hframe⟩
  · have hone : sapAnnounceOp s = sapSend f x false s := by
      rw [sapAnnounceOp, hsdp]
      rfl
    exact ⟨_, (next_whenUp hrun _).trans (congrArg _ hone), sapSend_queues hann hen hgroup⟩

end Sys2Proof.Laws
end

section
/-! Release (R315, R322, R338): a packet leaves its service's queue and waits at the ports of its flow. -/

namespace Sys2Proof.Laws

open Sys2Proof Sys2Proof.Machine

/-! ## A picture that settles -/

/-- From `s` to `t` work of pictures has ended: what a channel's settling may move. -/
def WorkSettled (s t : State) : Prop :=
  t = { s with pages := t.pages, ctrs := t.ctrs, chans := t.chans, dsps := t.dsps, yoke := t.yoke, ic := { s.ic with inflight := t.ic.inflight } }

theorem WorkSettled.refl (s : State) : WorkSettled s s := rfl

theorem WorkSettled.trans {s t u : State} (h : WorkSettled s t) (g : WorkSettled t u) : WorkSettled s u := by
  rw [WorkSettled] at h g ⊢
  generalize u = v at g
  rw [g, h]

theorem WorkSettled.ite {s a b : State} {c : Prop} [Decidable c] (ha : WorkSettled s a) (hb : WorkSettled s b) : WorkSettled s (if c then a else b) := by
  split
  · exact ha
  · exact hb

theorem WorkSettled.foldl {α : Type} {f : State → α → State} (h : ∀ s a, WorkSettled s (f s a)) (l : List α) (s : State) :
    WorkSettled s (l.foldl f s) := by
  induction l generalizing s with
  | nil => exact .refl s
  | cons a l ih => exact (h s a).trans (ih (f s a))

theorem workSettled_bump (k n x : Nat) (s : State) : WorkSettled s (bump k n x s) := rfl

theorem workSettled_modDsp (d : Nat) (f : Dsp → Dsp) (s : State) : WorkSettled s (modDsp d f s) := rfl

theorem workSettled_modChan (ch : Nat) (f : Chan → Chan) (s : State) : WorkSettled s (modChan ch f s) := rfl

theorem workSettled_modYch (ch : Nat) (f : YCh → YCh) (s : State) : WorkSettled s (modYch ch f s) := rfl

theorem workSettled_raiseBit (k i : Nat) (s : State) : WorkSettled s (raiseBit k i s) := by
  have moved := raiseBit_frame k i s
  rw [WorkSettled]
  generalize raiseBit k i s = t at moved
  rw [moved]

theorem workSettled_countWait (d : Nat) (a : Nat × Nat × Nat × Nat × Nat) (b : Nat) (s : State) : WorkSettled s (countWait d a b s) := by
  unfold countWait
  split
  · exact workSettled_bump ..
  · exact (workSettled_modDsp ..).trans (workSettled_bump ..)

theorem workSettled_dropItems (ch : Nat) (q : Nat → Bool) (s : State) : WorkSettled s (dropItems ch q s) := by
  have ended : ∀ d q (u : State), WorkSettled u (recordEnded d q u) := fun _ _ _ =>
    (workSettled_modDsp ..).trans (.foldl (fun _ _ => workSettled_countWait ..) _ _)
  have served : ∀ d q (u : State), WorkSettled u (recordServed d q u) := fun d q u => by
    refine .foldl (fun u i => ?_) _ u
    exact workSettled_countWait ..
  unfold dropItems
  exact ((ended ..).trans (served ..)).trans (workSettled_modDsp ..)

theorem workSettled_toChState (ch : Nat) (c : ChState) (s : State) : WorkSettled s (toChState ch c s) := by
  unfold toChState
  extract_lets x old f ends counted entered
  have hcounted : WorkSettled s counted := .ite ((workSettled_raiseBit ..).trans (workSettled_bump ..)) (.refl s)
  have hentered : WorkSettled s entered := hcounted.trans (workSettled_modChan ..)
  refine .ite hentered ?_
  split
  · exact hentered.trans (workSettled_raiseBit ..)
  · exact .ite (hentered.trans (workSettled_raiseBit ..)) hentered

theorem workSettled_settle (ch : Nat) (s : State) : WorkSettled s (settle ch s) := by
  unfold settle
  extract_lets gone dropped counted left
  have hdropped : WorkSettled s dropped := .ite (.refl s) (workSettled_dropItems ..)
  have hleft : WorkSettled s left := (hdropped.trans (workSettled_bump ..)).trans (workSettled_modChan ..)
  refine .ite ?_ hleft
  exact ((hleft.trans (workSettled_dropItems ..)).trans (workSettled_toChState ..)).trans (workSettled_modYch ..)

theorem workSettled_keepReplay (p : Pkt) (s : State) : WorkSettled s (keepReplay p s) := by
  unfold keepReplay
  split
  · exact .refl s
  · exact rfl

/-! ## A packet joins the ports of its flows -/

/-- From `s` to `t` packets have been delivered. -/
def Delivering (s t : State) : Prop := t = { s with ctrs := t.ctrs, ports := t.ports, tack := t.tack }

theorem Delivering.refl (s : State) : Delivering s s := rfl

theorem Delivering.trans {s t u : State} (h : Delivering s t) (g : Delivering t u) : Delivering s u := by
  rw [Delivering] at h g ⊢
  generalize u = v at g
  rw [g, h]

theorem Delivering.ite {s a b : State} {c : Prop} [Decidable c] (ha : Delivering s a) (hb : Delivering s b) : Delivering s (if c then a else b) := by
  split
  · exact ha
  · exact hb

theorem delivering_bump (k n x : Nat) (s : State) : Delivering s (bump k n x s) := rfl

theorem delivering_enqueue (p : Pkt) (f : Nat) (c : FlowCfg) (path : Nat) (y : Bool) (s : State) : Delivering s (enqueue p f c path y s) := rfl

theorem delivering_markUsed (n : Nat) (s : State) : Delivering s (markUsed n s) := .ite (.refl s) rfl

/-- The packet encrypted and counted once for a flow (R321, R322). -/
def packetCounted (d : Nat) (p : Pkt) (s : State) : State :=
  let s := if p.srtp ≠ 0 ∧ p.kind = 0 then markUsed p.key (bump (pgYard d) 3 1 s) else s
  if p.rtp.ext = [] then s else bump (pgYard d) 2 1 s

/-- The packet at the ports of flow `f`, configured as `c`. -/
def atPorts (d : Nat) (p : Pkt) (f : Nat) (c : FlowCfg) (y : Bool) (s : State) : State :=
  if p.dual then enqueue p f c 1 y (enqueue p f c 0 y (packetCounted d p s)) else enqueue p f c 0 y (packetCounted d p s)

theorem deliver_eq (p : Pkt) (s : State) :
    deliver p s = p.flows.foldl (fun u e => atPorts (svcDie s p.svc) p e.1 (flowCfgL e.2) (pairEn (effW s)) u) s := rfl

theorem delivering_packetCounted (d : Nat) (p : Pkt) (s : State) : Delivering s (packetCounted d p s) := by
  unfold packetCounted
  extract_lets u
  have hu : Delivering s u := .ite ((delivering_bump ..).trans (delivering_markUsed ..)) (.refl s)
  exact .ite hu (hu.trans (delivering_bump ..))

theorem delivering_atPorts (d : Nat) (p : Pkt) (f : Nat) (c : FlowCfg) (y : Bool) (s : State) : Delivering s (atPorts d p f c y s) :=
  .ite (((delivering_packetCounted ..).trans (delivering_enqueue ..)).trans (delivering_enqueue ..))
    ((delivering_packetCounted ..).trans (delivering_enqueue ..))

theorem delivering_deliver (p : Pkt) (s : State) : Delivering s (deliver p s) := by
  rw [deliver_eq]
  generalize svcDie s p.svc = d
  generalize pairEn (effW s) = y
  induction p.flows generalizing s with
  | nil => exact .refl s
  | cons e l ih => exact (delivering_atPorts ..).trans (ih _)

end Sys2Proof.Laws
end

section
/-! A packet at the ports of its flow (R315, R322, R338), and the obligation of releases. -/

namespace Sys2Proof.Laws

open Sys2Proof Sys2Proof.Machine

/-! ## What a packet is on its flow -/

theorem rtpBytes_congr {k k' : KeySlot} (hkey : k'.key = k.key) (hsalt : k'.salt = k.salt) (ssrc srtp : Nat) (r : RtpPkt) :
    rtpBytes ssrc srtp k' r = rtpBytes ssrc srtp k r := by
  rw [rtpBytes, rtpBytes, hkey, hsalt]

theorem fecBytes_congr {k k' : KeySlot} (hkey : k'.key = k.key) (hsalt : k'.salt = k.salt) (ssrc srtp : Nat) (r : RtpPkt) (covers : List RtpPkt)
    (row : Bool) (off na : Nat) : fecBytes ssrc srtp k' r covers row off na = fecBytes ssrc srtp k r covers row off na := by
  have heach : (fun x => (rtpBytes ssrc srtp k' x).drop 12) = fun x => (rtpBytes ssrc srtp k x).drop 12 :=
    funext fun x => by rw [rtpBytes_congr hkey hsalt]
  rw [fecBytes, fecBytes, heach]

theorem flowDgram_congr {s u : State} {p : Pkt} (hwords : effW u = effW s) (hkey : (keySlot u p.key).key = (keySlot s p.key).key)
    (hsalt : (keySlot u p.key).salt = (keySlot s p.key).salt) (f : Nat) (c : FlowCfg) (path : Nat) :
    flowDgram u p f c path = flowDgram s p f c path := by
  rw [flowDgram, flowDgram, hwords, rtpBytes_congr hkey hsalt, fecBytes_congr hkey hsalt]

theorem keySlot_markUsed (n : Nat) (s : State) (m : Nat) : (keySlot (markUsed n s) m).key = (keySlot s m).key ∧
    (keySlot (markUsed n s) m).salt = (keySlot s m).salt := by
  unfold markUsed
  dsimp only
  split
  · exact ⟨rfl, rfl⟩
  · have hslot : keySlot (setKeySlot n { keySlot s n with used := true } s) m = if m = n then { keySlot s n with used := true } else keySlot s m :=
      Tbl.get_set _ _ _ _ _
    rw [hslot]
    split
    · next h =>
      subst h
      exact ⟨rfl, rfl⟩
    · exact ⟨rfl, rfl⟩

theorem keySlot_packetCounted (d : Nat) (p : Pkt) (s : State) (m : Nat) : (keySlot (packetCounted d p s) m).key = (keySlot s m).key ∧
    (keySlot (packetCounted d p s) m).salt = (keySlot s m).salt := by
  have counted : ∀ k n x (u : State), keySlot (bump k n x u) m = keySlot u m := fun _ _ _ _ => rfl
  unfold packetCounted
  extract_lets u
  have hu : (keySlot u m).key = (keySlot s m).key ∧ (keySlot u m).salt = (keySlot s m).salt := by
    by_cases h : p.srtp ≠ 0 ∧ p.kind = 0
    · have hmarked : u = markUsed p.key (bump (pgYard d) 3 1 s) := if_pos h
      rw [hmarked]
      obtain ⟨hkey, hsalt⟩ := keySlot_markUsed p.key (bump (pgYard d) 3 1 s) m
      exact ⟨hkey.trans (by rw [counted]), hsalt.trans (by rw [counted])⟩
    · have hplain : u = s := if_neg h
      rw [hplain]
      exact ⟨rfl, rfl⟩
  clear_value u
  split
  · exact hu
  · rw [counted]
    exact hu

theorem port_packetCounted (d : Nat) (p : Pkt) (s : State) (k : Nat) : port (packetCounted d p s) k = port s k := by
  have marked : ∀ (n : Nat) (u : State), port (markUsed n u) k = port u k := fun n u => by
    unfold markUsed
    dsimp only
    split <;> rfl
  unfold packetCounted
  extract_lets u
  have hu : port u k = port s k := by
    by_cases h : p.srtp ≠ 0 ∧ p.kind = 0
    · have hmarked : u = markUsed p.key (bump (pgYard d) 3 1 s) := if_pos h
      rw [hmarked, marked]
      rfl
    · have hplain : u = s := if_neg h
      rw [hplain]
  clear_value u
  split
  · exact hu
  · exact hu

/-! ## Ports -/

/-- The port of a path of a flow. -/
abbrev pathPort (c : FlowCfg) (path : Nat) : Nat := if path = 0 then c.portA else c.portB

/-- The frame of a packet on one path of a flow (R315, R331). -/
def packetFrame (u : State) (p : Pkt) (f : Nat) (c : FlowCfg) (path : Nat) (y : Bool) : QFrame :=
  { flow := f, path := path, release := p.release, len := p.ipLen + 18 + (if c.tagged then 4 else 0), seq := p.rtp.seq, furrow0 := decide (p.idx = 0)
    record := p.rtp.record, ip := some (flowDgram u p f c path), yoked := y, ch := p.ch }

theorem port_enqueue (p : Pkt) (f : Nat) (c : FlowCfg) (path : Nat) (y : Bool) (s : State) (k : Nat) : port (enqueue p f c path y s) k =
    if k = pathPort c path then { port s k with media := (port s k).media ++ [packetFrame s p f c path y] } else port s k := by
  by_cases h : k = pathPort c path
  · subst h
    exact (port_modPort ..).trans rfl
  · exact (port_modPort ..).trans ((if_neg h).trans (if_neg h).symm)

section

variable {d : Nat} {p : Pkt} {f : Nat} {c : FlowCfg} {y : Bool} {s : State}

theorem port_atPorts_single (hdual : p.dual = false) (k : Nat) : port (atPorts d p f c y s) k =
    if k = c.portA then { port s k with media := (port s k).media ++ [packetFrame (packetCounted d p s) p f c 0 y] } else port s k := by
  have hone : atPorts d p f c y s = enqueue p f c 0 y (packetCounted d p s) := if_neg (by rw [hdual]; exact Bool.false_ne_true)
  rw [hone, port_enqueue, port_packetCounted]
  rfl

theorem media_atPorts_dual (hdual : p.dual = true) (hne : c.portA ≠ c.portB) :
    (port (atPorts d p f c y s) c.portA).media.length = (port s c.portA).media.length + 1 ∧
      (port (atPorts d p f c y s) c.portB).media.length = (port s c.portB).media.length + 1 := by
  have hboth : atPorts d p f c y s = enqueue p f c 1 y (enqueue p f c 0 y (packetCounted d p s)) := if_pos hdual
  have hpath : pathPort c 1 = c.portB ∧ pathPort c 0 = c.portA := ⟨rfl, rfl⟩
  rw [hboth]
  refine ⟨?_, ?_⟩
  · rw [port_enqueue, if_neg (by rw [hpath.1]; exact hne), port_enqueue, if_pos hpath.2.symm, port_packetCounted]
    exact List.length_append ..
  · rw [port_enqueue, if_pos hpath.1.symm, port_enqueue, if_neg (by rw [hpath.2]; exact hne.symm), port_packetCounted]
    exact List.length_append ..

end

/-! ## The obligation -/

/-- Packet `p` has left service `v`, `ps` waiting still, at its instant. -/
def unqueued (v : Nat) (p : Pkt) (ps : List Pkt) (s : State) : State := advance p.release (modSvc v (fun x => { x with queue := ps }) s)

theorem releaseNext_of_queue {v : Nat} {s : State} {p : Pkt} {ps : List Pkt} (hq : (svc s v).queue = p :: ps) :
    releaseNext v s = settle p.ch (keepReplay p (deliver p (unqueued v p ps s))) := by
  rw [releaseNext, hq]
  rfl

theorem svc_unqueued (v : Nat) (p : Pkt) (ps : List Pkt) (s : State) : (svc (unqueued v p ps s) v).queue = ps := by
  have hsvc : svc (unqueued v p ps s) v = svc (modSvc v (fun x => { x with queue := ps }) s) v := rfl
  rw [hsvc, svc_modSvc, if_pos rfl]

/-- Settles O35: the packet is delivered to its flow's ports, and the picture it leaves settles nothing of them. -/
theorem packetsAreReleasedToTheirFlows : Obligations.PacketsAreReleasedToTheirFlows := by
  unfold Obligations.PacketsAreReleasedToTheirFlows
  intro v s p ps hrun hv hq
  have hexec : exec (.packetRelease v) s = .next (settle p.ch (keepReplay p (deliver p (unqueued v p ps s)))) := by
    refine (if_pos hv).trans ?_
    rw [whenUp_of_running hrun, releaseNext_of_queue hq]
  have settled := (workSettled_keepReplay p (deliver p (unqueued v p ps s))).trans (workSettled_settle p.ch _)
  have delivered := delivering_deliver p (unqueued v p ps s)
  have hports := deliver_eq p (unqueued v p ps s)
  have hqueue := svc_unqueued v p ps s
  have start : unqueued v p ps s = { s with time := (unqueued v p ps s).time, svcs := (unqueued v p ps s).svcs } := rfl
  have hnow : (unqueued v p ps s).time.now = max s.time.now p.release := rfl
  have hport : ∀ k, port (unqueued v p ps s) k = port s k := fun _ => rfl
  have hslot : keySlot (unqueued v p ps s) = keySlot s := rfl
  have hwords : effW (unqueued v p ps s) = effW s := rfl
  refine ⟨_, hexec, ?_⟩
  generalize unqueued v p ps s = u at settled delivered hports hqueue start hnow hport hslot hwords ⊢
  generalize settle p.ch (keepReplay p (deliver p u)) = t at settled ⊢
  generalize deliver p u = w at settled delivered hports
  have hkept : ∀ k, port t k = port w k := fun k => by
    rw [settled]
    rfl
  refine ⟨?_, ?_, fun f ws hflows hdual => ⟨?_, fun l hl => ?_⟩, fun f ws hflows hdual hne => ?_, fun hflows l => ?_, ?_⟩
  · rw [settled, delivered]
    exact hqueue
  · rw [settled, delivered]
    exact hnow
  · rw [hflows] at hports
    refine ⟨packetFrame (packetCounted (svcDie u p.svc) p u) p f (flowCfgL ws) 0 (pairEn (effW u)), ?_, rfl, rfl, rfl, rfl, rfl,
      congrArg some ?_, rfl⟩
    · rw [hkept, hports]
      exact (congrArg PortTx.media ((port_atPorts_single hdual _).trans (if_pos rfl))).trans (by rw [hport])
    · obtain ⟨hkey, hsalt⟩ := keySlot_packetCounted (svcDie u p.svc) p u p.key
      rw [hslot] at hkey hsalt
      refine flowDgram_congr ?_ hkey hsalt ..
      rw [delivering_packetCounted (svcDie u p.svc) p u]
      exact hwords
  · rw [hflows] at hports
    rw [hkept, hports]
    exact ((port_atPorts_single hdual l).trans (if_neg hl)).trans (hport l)
  · rw [hflows] at hports
    rw [hkept, hkept, hports, ← hport, ← hport]
    exact media_atPorts_dual hdual hne
  · rw [hflows] at hports
    rw [hkept, hports]
    exact hport l
  · rw [WorkSettled] at settled
    rw [Delivering] at delivered
    generalize t = a at settled ⊢
    generalize w = b at settled delivered
    rw [settled, delivered, start]

end Sys2Proof.Laws
end

section
/-! What a TDM port's slots do in a frame (R409–R415): samples, marks and crossings, none of which moves the port's own state. -/

namespace Sys2Proof.Laws

open Sys2Proof Sys2Proof.Machine

/-! ## The port itself, and its slots -/

/-- A port without its slots: state, frame counts, tracked ratio, words in force, a restart that waits, and the frame's samples. -/
def tdmLine (x : Tdm) : Tdm :=
  { st := x.st, bad := x.bad, ratio := x.ratio, known := x.known, cfg := x.cfg, restart := x.restart, inputs := x.inputs, frames := x.frames }

/-- From `s` to `t` only what port `p`'s slots hold, waiting crossings, and what slots strike, count and emit have moved; counters 5 and 8
are those of slips and of marks. -/
structure Played (p : Nat) (s t : State) : Prop where
  frame : t = { s with out := t.out, fresh := t.fresh, pages := t.pages, ctrs := t.ctrs, aflows := t.aflows, tdms := t.tdms, ic := t.ic }
  line : tdmLine (tdm t p) = tdmLine (tdm s p)
  counts : ∀ n, n ≠ 5 → n ≠ 8 → counter t (pgAud p) n = counter s (pgAud p) n
  bits : ∀ i, bitOf (page s (pgAud p)).stat i = true → bitOf (page t (pgAud p)).stat i = true

section

variable {p : Nat} {s t u : State}

theorem Played.refl (p : Nat) (s : State) : Played p s s := ⟨rfl, rfl, fun _ _ _ => rfl, fun _ h => h⟩

theorem Played.trans (h : Played p s t) (g : Played p t u) : Played p s u where
  frame := by
    have moved := g.frame
    rw [h.frame] at moved
    exact moved
  line := g.line.trans h.line
  counts n h5 h8 := (g.counts n h5 h8).trans (h.counts n h5 h8)
  bits i hi := g.bits i (h.bits i hi)

theorem Played.ite {c : Prop} [Decidable c] (ht : Played p s t) (hu : Played p s u) : Played p s (if c then t else u) := by
  split
  · exact ht
  · exact hu

theorem Played.foldl {α : Type} {f : State → α → State} (h : ∀ s a, Played p s (f s a)) (l : List α) (s : State) : Played p s (l.foldl f s) := by
  induction l generalizing s with
  | nil => exact .refl p s
  | cons a l ih => exact (h s a).trans (ih (f s a))

theorem played_raiseBit (p i : Nat) (s : State) : Played p s (raiseBit (pgAud p) i s) where
  frame := by
    have moved := raiseBit_frame (pgAud p) i s
    generalize raiseBit (pgAud p) i s = t at moved ⊢
    rw [moved]
  line := by
    have moved := raiseBit_frame (pgAud p) i s
    rw [moved]
    rfl
  counts n _ _ := counter_raiseBit ..
  bits := (noted_raiseBit (pgAud p) i s).bits (pgAud p)

theorem played_bump {p n : Nat} (hn : n = 5 ∨ n = 8) (s : State) : Played p s (bump (pgAud p) n 1 s) :=
  ⟨rfl, rfl, fun _ _ _ => counter_bump_other (by omega) 1 s, fun _ h => h⟩

theorem played_event {p n : Nat} (i : Nat) (hn : n = 5 ∨ n = 8) (s : State) : Played p s (bump (pgAud p) n 1 (raiseBit (pgAud p) i s)) :=
  (played_raiseBit p i s).trans (played_bump hn _)

theorem played_modTdm (p q : Nat) (g : Tdm → Tdm) (s : State) (hg : ∀ x, tdmLine (g x) = tdmLine x := by exact fun _ => rfl) :
    Played p s (modTdm q g s) where
  frame := rfl
  line := by
    rw [tdm_modTdm]
    split
    · next h =>
      rw [h]
      exact hg _
    · rfl
  counts _ _ _ := rfl
  bits _ h := h

theorem played_modAflow (p f : Nat) (g : AFlow → AFlow) (s : State) : Played p s (modAflow f g s) :=
  ⟨rfl, rfl, fun _ _ _ => rfl, fun _ h => h⟩

theorem played_emit (p : Nat) (o : Out) (s : State) : Played p s (emit o s) := ⟨rfl, rfl, fun _ _ _ => rfl, fun _ h => h⟩

/-! ## Operations of slots -/

theorem played_noteTdm (p : Nat) (s : State) : Played p s (noteTdm p s) := by
  unfold noteTdm
  extract_lets _ x m
  clear_value m x
  exact .ite (.refl p s) (played_modTdm p p _ s)

theorem played_marksCleared (p m : Nat) (s0 s : State) : Played p s (marksCleared m s0 s) := by
  unfold marksCleared
  extract_lets _ flows u
  have hu : Played p s u := .foldl (fun s _ => .foldl (fun s _ => .ite (played_modAflow ..) (.refl p s)) _ s) _ s
  clear_value u
  exact hu.trans (.foldl (fun s q => .foldl (fun s _ => .ite (played_modTdm p q _ s) (.refl p s)) _ s) _ u)

theorem played_tdmMarks (p : Nat) (f : TdmIn) (l : List Int) (n : Nat) (s : State) : Played p s (tdmMarks p f l n s) := by
  unfold tdmMarks
  extract_lets x v
  clear_value v x
  refine .foldl (fun s i => .ite (.refl p s) ?_) _ s
  extract_lets aes pre had u w
  have hu : Played p s u := played_modTdm p p _ s
  clear_value u
  have hw : Played p s w := hu.trans (.ite (played_event 11 (.inr rfl) u) (.refl p u))
  clear_value w
  exact hw.trans (.ite ((played_modTdm p p _ w).trans (played_marksCleared ..)) (.refl p w))

theorem played_tdmStore (p : Nat) (l : List Int) (slips : List Nat) (ppm : Int) (n : Nat) (s : State) :
    Played p s (tdmStore p l slips ppm n s) := by
  unfold tdmStore
  extract_lets x leader
  clear_value leader x
  refine .foldl (fun s i => .ite ?_ (.refl p s)) _ s
  extract_lets v last slip at_ u w
  have hu : Played p s u := played_modTdm p p _ s
  clear_value u
  have hw : Played p s w := hu.trans (.ite (played_modTdm p p _ u) (.refl p u))
  clear_value w
  exact hw.trans (.ite (played_event 10 (.inl rfl) w) (.refl p w))

theorem played_outRun (p i n : Nat) (s : State) : Played p s (outRun p i n s) := by
  unfold outRun
  exact played_modTdm p p _ s

theorem played_outStep (p i a : Nat) (f : TdmIn) (s : State) : Played p s (outStep p i a f s).2 := by
  unfold outStep
  extract_lets m u w
  have hu : Played p s u := played_outRun ..
  clear_value u
  exact hu.trans (.ite (played_event 10 (.inl rfl) u) (.refl p u))

theorem played_tdmDrive (p : Nat) (f : TdmIn) (mute dry : Bool) (s : State) : Played p s (tdmDrive p f mute dry s) := by
  unfold tdmDrive
  refine .ite (.refl p s) ?_
  extract_lets w n r x drives v v'
  have hr : Played p s r.2 := by
    have each : ∀ (l : List Nat) (a : List (Option Int) × State), Played p a.2 (l.foldl (fun (a : List (Option Int) × State) i =>
        if bitOf ((tdm a.2 p).cfg.getD 2 0) i then
          if tdmYields (tdm a.2 p) then
            let o := outStep p i f.at_ f a.2
            (a.1 ++ [some (if mute then 0 else o.1)], o.2)
          else (a.1 ++ [some 0], a.2)
        else (a.1 ++ [none], a.2)) a).2 := by
      intro l
      induction l with
      | nil => exact fun a => .refl p a.2
      | cons i l ih =>
        refine fun a => Played.trans ?_ (ih _)
        dsimp only
        split
        · split
          · exact played_outStep ..
          · exact .refl p a.2
        · exact .refl p a.2
    exact each (List.range n) ([], s)
  clear_value v'
  exact hr.trans (played_emit ..)

theorem tdmLine_unmute (l : List Nat) {g : Tdm → Nat → Tdm} (h : ∀ x i, tdmLine (g x i) = tdmLine x) (x : Tdm) :
    tdmLine (l.foldl g x) = tdmLine x := by
  induction l generalizing x with
  | nil => rfl
  | cons i l ih => exact (ih _).trans (h x i)

theorem played_unmuteSlots (p : Nat) (l : List Nat) (s : State) : Played p s (unmuteSlots p l s) :=
  played_modTdm p p _ s (tdmLine_unmute l (by exact fun _ _ => rfl))

theorem played_unmuteStopped (p : Nat) (s : State) : Played p s (unmuteStopped p s) :=
  (played_modTdm p p _ s).trans (played_unmuteSlots ..)

/-- A change of the port's state is that change, and the condition it brings. -/
theorem played_tdmTo (p : Nat) (st : TdmState) (s : State) : Played p (modTdm p (fun x => { x with st := st }) s) (tdmTo p st s) := by
  unfold tdmTo
  extract_lets old bit u
  change Played p u _
  clear_value u
  split
  · exact .refl p u
  · exact .ite (.refl p u) (played_raiseBit ..)

end

end Sys2Proof.Laws
end

section
/-! The operations of a TDM port's frame (R409–R415): restart, glitch, tracker, FIFO faults, and a good frame. -/

namespace Sys2Proof.Laws

open Sys2Proof Sys2Proof.Machine

/-! ## What every frame keeps -/

/-- From `s` to `t` port `p`'s frame has gone on: the frames counted stay, and so does every struck bit of its page. -/
structure Ran (p : Nat) (s t : State) : Prop where
  frame : t = { s with out := t.out, fresh := t.fresh, pages := t.pages, ctrs := t.ctrs, aflows := t.aflows, tdms := t.tdms, ic := t.ic }
  frames : (tdm t p).frames = (tdm s p).frames
  count : counter t (pgAud p) 0 = counter s (pgAud p) 0
  bits : ∀ i, bitOf (page s (pgAud p)).stat i = true → bitOf (page t (pgAud p)).stat i = true

section

variable {p : Nat} {s t u : State}

theorem Ran.refl (p : Nat) (s : State) : Ran p s s := ⟨rfl, rfl, rfl, fun _ h => h⟩

theorem Ran.trans (h : Ran p s t) (g : Ran p t u) : Ran p s u where
  frame := by
    have moved := g.frame
    rw [h.frame] at moved
    exact moved
  frames := g.frames.trans h.frames
  count := g.count.trans h.count
  bits i hi := g.bits i (h.bits i hi)

theorem Ran.ite {c : Prop} [Decidable c] (ht : Ran p s t) (hu : Ran p s u) : Ran p s (if c then t else u) := by
  split
  · exact ht
  · exact hu

theorem Ran.words (h : Ran p s t) : effW t = effW s := by
  rw [h.frame]
  rfl

theorem Played.ran (h : Played p s t) : Ran p s t :=
  ⟨h.frame, (congrArg Tdm.frames h.line :), h.counts 0 (by decide) (by decide), h.bits⟩

theorem Played.st (h : Played p s t) : (tdm t p).st = (tdm s p).st := (congrArg Tdm.st h.line :)

theorem Played.bad (h : Played p s t) : (tdm t p).bad = (tdm s p).bad := (congrArg Tdm.bad h.line :)

theorem Played.ratio (h : Played p s t) : (tdm t p).ratio = (tdm s p).ratio := (congrArg Tdm.ratio h.line :)

theorem Played.cfg (h : Played p s t) : (tdm t p).cfg = (tdm s p).cfg := (congrArg Tdm.cfg h.line :)

theorem Played.restart (h : Played p s t) : (tdm t p).restart = (tdm s p).restart := (congrArg Tdm.restart h.line :)

theorem Played.inputs (h : Played p s t) : (tdm t p).inputs = (tdm s p).inputs := (congrArg Tdm.inputs h.line :)

theorem ran_event {n : Nat} (i : Nat) (hn : n ≠ 0) (s : State) : Ran p s (bump (pgAud p) n 1 (raiseBit (pgAud p) i s)) :=
  (played_raiseBit p i s).ran.trans ⟨rfl, rfl, counter_bump_other (by omega) 1 _, fun _ h => h⟩

theorem tdm_modTdm_self (p : Nat) (g : Tdm → Tdm) (s : State) : tdm (modTdm p g s) p = g (tdm s p) := (tdm_modTdm ..).trans (if_pos rfl)

theorem ran_modTdm (p : Nat) (g : Tdm → Tdm) (s : State) (hg : ∀ x, (g x).frames = x.frames := by exact fun _ => rfl) :
    Ran p s (modTdm p g s) where
  frame := rfl
  frames := by
    rw [tdm_modTdm_self]
    exact hg _
  count := rfl
  bits _ h := h

theorem ran_tdmTo (p : Nat) (st : TdmState) (s : State) : Ran p s (tdmTo p st s) :=
  (ran_modTdm p (fun x => { x with st := st }) s).trans (played_tdmTo p st s).ran

theorem ran_draw (p : Nat) (s : State) : Ran p s (draw s) := ⟨rfl, rfl, rfl, fun _ h => h⟩

/-- The state a port is set to. -/
theorem st_tdmTo (p : Nat) (st : TdmState) (s : State) : (tdm (tdmTo p st s) p).st = st := by
  rw [(played_tdmTo p st s).st, tdm_modTdm_self]

theorem counter_tdmTo (p : Nat) (st : TdmState) (s : State) {n : Nat} (h5 : n ≠ 5) (h8 : n ≠ 8) :
    counter (tdmTo p st s) (pgAud p) n = counter s (pgAud p) n := (played_tdmTo p st s).counts n h5 h8

theorem ratio_tdmTo (p : Nat) (st : TdmState) (s : State) : (tdm (tdmTo p st s) p).ratio = (tdm s p).ratio := by
  rw [(played_tdmTo p st s).ratio, tdm_modTdm_self]

theorem bad_tdmTo (p : Nat) (st : TdmState) (s : State) : (tdm (tdmTo p st s) p).bad = (tdm s p).bad := by
  rw [(played_tdmTo p st s).bad, tdm_modTdm_self]

theorem restart_tdmTo (p : Nat) (st : TdmState) (s : State) : (tdm (tdmTo p st s) p).restart = (tdm s p).restart := by
  rw [(played_tdmTo p st s).restart, tdm_modTdm_self]

theorem inputs_tdmTo (p : Nat) (st : TdmState) (s : State) : (tdm (tdmTo p st s) p).inputs = (tdm s p).inputs := by
  rw [(played_tdmTo p st s).inputs, tdm_modTdm_self]

theorem cfg_tdmTo (p : Nat) (st : TdmState) (s : State) : (tdm (tdmTo p st s) p).cfg = (tdm s p).cfg := by
  rw [(played_tdmTo p st s).cfg, tdm_modTdm_self]

theorem tdm_of_tdms (h : t.tdms = s.tdms) (q : Nat) : tdm t q = tdm s q := by
  unfold tdm
  rw [h]

/-- What an event leaves of the ports. -/
theorem tdm_event (k i n : Nat) (s : State) (q : Nat) : tdm (bump k n 1 (raiseBit k i s)) q = tdm s q := by
  have moved := raiseBit_frame k i s
  refine tdm_of_tdms ?_ q
  generalize raiseBit k i s = t at moved ⊢
  rw [moved]
  rfl

theorem bit_event (k n : Nat) {i : Nat} (hi : i < 32) (s : State) : bitOf (page (bump k n 1 (raiseBit k i s)) k).stat i = true :=
  bitOf_of_struck hi (struck_raiseBit k hi s)

theorem counted_event (k n i : Nat) (s : State) : Counted k n 1 s (bump k n 1 (raiseBit k i s)) :=
  counted_after_kept (counter_raiseBit ..) (counted_bump_same ..)

/-! ## A restart -/

theorem ran_tdmRestart (p : Nat) (s : State) : Ran p s (tdmRestart p s) := by
  unfold tdmRestart
  extract_lets x a b
  have ha : Ran p s a := ran_modTdm p _ s
  clear_value a
  have hb : Ran p a b := ran_tdmTo ..
  clear_value b
  exact ((ha.trans hb).trans (ran_event 9 (by decide) b)).trans (played_unmuteSlots ..).ran

theorem tdmRestart_moves (p : Nat) (s : State) :
    (tdm (tdmRestart p s) p).restart = false ∧ Counted (pgAud p) 4 1 s (tdmRestart p s) ∧
      bitOf (page (tdmRestart p s) (pgAud p)).stat 9 = true ∧
      (tdm (tdmRestart p s) p).st = if ctlLeader ((tdm s p).cfg.getD 0 0) || (tdm s p).known then .running else .locking := by
  unfold tdmRestart
  extract_lets x a b
  have ha : (tdm a p).restart = false := by
    have hset : tdm a p = _ := tdm_modTdm_self ..
    rw [hset]
  have hcount : counter a (pgAud p) 4 = counter s (pgAud p) 4 := rfl
  clear_value a
  have hst : (tdm b p).st = if ctlLeader (x.cfg.getD 0 0) || x.known then .running else .locking := st_tdmTo ..
  have hrestart : (tdm b p).restart = false := (restart_tdmTo ..).trans ha
  have hcountb : counter b (pgAud p) 4 = counter a (pgAud p) 4 := counter_tdmTo p _ a (by decide) (by decide)
  clear_value b
  have tail := played_unmuteSlots p (outSlots (tdm b p)) (bump (pgAud p) 4 1 (raiseBit (pgAud p) 9 b))
  refine ⟨?_, ?_, tail.bits 9 (bit_event (pgAud p) 4 (by decide) b), ?_⟩
  · rw [tail.restart, tdm_event]
    exact hrestart
  · exact counted_of_kept (counted_after_kept (hcountb.trans hcount) (counted_event ..)) (tail.counts 4 (by decide) (by decide))
  · rw [tail.st, tdm_event]
    exact hst

/-! ## A frame of a wrong length -/

theorem ran_tdmGlitch (p : Nat) (f : TdmIn) (s : State) : Ran p s (tdmGlitch p f s) := by
  unfold tdmGlitch
  extract_lets x a b c
  have ha : Ran p s a := ran_modTdm p _ s
  clear_value a
  have hb : Ran p s b := ha.trans (ran_event 5 (by decide) a)
  clear_value b
  have hc : Ran p s c := hb.trans (.ite (played_tdmStore ..).ran (.refl p b))
  clear_value c
  exact hc.trans (.ite (ran_tdmTo ..) (.refl p c))

theorem tdmGlitch_moves (p : Nat) (f : TdmIn) (s : State) :
    Counted (pgAud p) 1 1 s (tdmGlitch p f s) ∧ bitOf (page (tdmGlitch p f s) (pgAud p)).stat 5 = true ∧
      (tdm (tdmGlitch p f s) p).bad = (tdm s p).bad + 1 ∧
      (tdm (tdmGlitch p f s) p).st = if 16 ≤ (tdm s p).bad + 1 then .fault else (tdm s p).st := by
  unfold tdmGlitch
  extract_lets x a b c
  have ha : (tdm a p).bad = x.bad + 1 ∧ (tdm a p).st = x.st := by
    have hset : tdm a p = _ := tdm_modTdm_self ..
    rw [hset]
    exact ⟨rfl, rfl⟩
  have hcounta : counter a (pgAud p) 1 = counter s (pgAud p) 1 := rfl
  clear_value a
  have hb : tdm b p = tdm a p := tdm_event ..
  have hcountb : Counted (pgAud p) 1 1 a b := counted_event ..
  have hbitb : bitOf (page b (pgAud p)).stat 5 = true := bit_event (pgAud p) 1 (by decide) a
  clear_value b
  rw [← hb] at ha
  have hc : Played p b c := .ite (played_tdmStore ..) (.refl p b)
  clear_value c
  have hcount : Counted (pgAud p) 1 1 s c :=
    counted_of_kept (counted_after_kept hcounta hcountb) (hc.counts 1 (by decide) (by decide))
  split
  · have hto := played_tdmTo p .fault c
    refine ⟨counted_of_kept hcount (counter_tdmTo p .fault c (by decide) (by decide)), hto.bits 5 (hc.bits 5 hbitb), ?_, st_tdmTo ..⟩
    exact (bad_tdmTo ..).trans (hc.bad.trans ha.1)
  · exact ⟨hcount, hc.bits 5 hbitb, hc.bad.trans ha.1, hc.st.trans ha.2⟩

/-! ## FIFO faults -/

theorem ran_tdmFifo (p : Nat) (f : TdmIn) (s : State) : Ran p s (tdmFifo p f s) := by
  unfold tdmFifo
  extract_lets dry ovr a b c
  have ha : Ran p s a := .ite (ran_event 3 (by decide) s) (.refl p s)
  clear_value a
  have hb : Ran p s b := ha.trans (.ite (ran_event 4 (by decide) a) (.refl p a))
  clear_value b
  have hc : Ran p s c := by
    refine hb.trans (((ran_modTdm p _ b).trans (ran_tdmTo ..)).trans ((ran_draw p _).trans (ran_draw p _)))
  clear_value c
  exact .ite (.ite (hc.trans (ran_modTdm p _ c)) hc) hb

/-- FIFOs that hold leave the port as it is. -/
theorem tdmFifo_of_full (p : Nat) {f : TdmIn} (hre : f.rxEmpty = false) (hte : f.txEmpty = false) (hrf : f.rxFull = false)
    (htf : f.txFull = false) (s : State) : tdmFifo p f s = s := by
  unfold tdmFifo
  rw [hre, hte, hrf, htf]
  rfl

/-- A port whose channels a fault has moved. -/
theorem skewed_moves (p : Nat) (g : Tdm → Tdm) (s : State) (hg : ∀ x, tdmLine (g x) = tdmLine x) :
    let t := draw (draw (tdmTo p .misaligned (modTdm p g s)))
    (tdm t p).st = .misaligned ∧ (tdm t p).restart = (tdm s p).restart ∧ (tdm t p).inputs = (tdm s p).inputs ∧
      counter t (pgAud p) 2 = counter s (pgAud p) 2 ∧ Ran p s t :=
  have kept := played_modTdm p p g s hg
  ⟨st_tdmTo .., (restart_tdmTo ..).trans kept.restart, (inputs_tdmTo ..).trans kept.inputs,
    (counter_tdmTo p _ _ (by decide) (by decide)).trans (kept.counts 2 (by decide) (by decide)),
    (kept.ran.trans (ran_tdmTo ..)).trans ((ran_draw p _).trans (ran_draw p _))⟩

/-- One that has run empty misaligns it, and restarts it where that is automatic. -/
theorem tdmFifo_moves (p : Nat) {f : TdmIn} (hdry : (f.rxEmpty || f.txEmpty) = true) (s : State) :
    (tdm (tdmFifo p f s) p).st = .misaligned ∧ (tdm (tdmFifo p f s) p).restart = (audAuto (effW s) p || (tdm s p).restart) ∧
      (tdm (tdmFifo p f s) p).inputs = (tdm s p).inputs ∧ Counted (pgAud p) 2 1 s (tdmFifo p f s) ∧
      bitOf (page (tdmFifo p f s) (pgAud p)).stat 3 = true := by
  unfold tdmFifo
  extract_lets dry ovr a b c
  have hd : dry = true := hdry
  clear_value dry
  subst hd
  have ha : tdm a p = tdm s p := tdm_event ..
  have hcounta : Counted (pgAud p) 2 1 s a := counted_event ..
  have hbita : bitOf (page a (pgAud p)).stat 3 = true := bit_event (pgAud p) 2 (by decide) s
  have hwordsa : Ran p s a := ran_event 3 (by decide) s
  clear_value a
  have hb : tdm b p = tdm a p ∧ Ran p a b ∧ counter b (pgAud p) 2 = counter a (pgAud p) 2 := by
    by_cases h : ovr = true
    · have hset : b = bump (pgAud p) 3 1 (raiseBit (pgAud p) 4 a) := if_pos h
      rw [hset]
      exact ⟨tdm_event .., ran_event 4 (by decide) a, (counter_bump_other (by omega) 1 _).trans (counter_raiseBit ..)⟩
    · have hset : b = a := if_neg h
      rw [hset]
      exact ⟨rfl, .refl p a, rfl⟩
  obtain ⟨htdmb, hranb, hcountb⟩ := hb
  clear_value b
  have hc : (tdm c p).st = .misaligned ∧ (tdm c p).restart = (tdm b p).restart ∧ (tdm c p).inputs = (tdm b p).inputs ∧
      counter c (pgAud p) 2 = counter b (pgAud p) 2 ∧ Ran p b c := skewed_moves p _ b (by exact fun _ => rfl)
  obtain ⟨hst, hrestart, hinputs, hcountc, hranc⟩ := hc
  clear_value c
  have hcount := counted_of_kept (counted_of_kept hcounta hcountb) hcountc
  have hbit := hranc.bits 3 (hranb.bits 3 hbita)
  have hwords : effW c = effW s := ((hwordsa.trans hranb).trans hranc).words
  have hwas : (tdm b p).restart = (tdm s p).restart ∧ (tdm b p).inputs = (tdm s p).inputs := by
    rw [htdmb, ha]
    exact ⟨rfl, rfl⟩
  rw [if_pos (Bool.true_or ovr), hwords]
  split
  · next hauto =>
    rw [tdm_modTdm_self, hauto]
    exact ⟨hst, rfl, hinputs.trans hwas.2, hcount, hbit⟩
  · next hauto =>
    rw [Bool.eq_false_of_not_eq_true hauto]
    exact ⟨hst, (hrestart.trans hwas.1).trans (Bool.false_or _).symm, hinputs.trans hwas.2, hcount, hbit⟩

theorem ratio_tdmFifo (p : Nat) (f : TdmIn) (s : State) : (tdm (tdmFifo p f s) p).ratio = (tdm s p).ratio := by
  unfold tdmFifo
  extract_lets dry ovr a b c
  have ha : (tdm a p).ratio = (tdm s p).ratio := by
    by_cases h : dry = true
    · have hset : a = _ := if_pos h
      rw [hset, tdm_event]
    · have hset : a = s := if_neg h
      rw [hset]
  clear_value a
  have hb : (tdm b p).ratio = (tdm a p).ratio := by
    by_cases h : ovr = true
    · have hset : b = _ := if_pos h
      rw [hset, tdm_event]
    · have hset : b = a := if_neg h
      rw [hset]
  clear_value b
  have hc : (tdm c p).ratio = (tdm b p).ratio := by
    refine (ratio_tdmTo p .misaligned _).trans ?_
    rw [tdm_modTdm_self]
  clear_value c
  split
  · split
    · rw [tdm_modTdm_self]
      exact hc.trans (hb.trans ha)
    · exact hc.trans (hb.trans ha)
  · exact hb.trans ha

/-! ## The tracker -/

theorem ran_tdmTrack (p : Nat) (ppm : Int) (s : State) : Ran p s (tdmTrack p ppm s) := by
  unfold tdmTrack
  refine .ite (.refl p s) (.ite ((ran_event 7 (by decide) s).trans (ran_tdmTo ..)) ?_)
  extract_lets a
  have ha : Ran p s a := ran_modTdm p _ s
  clear_value a
  exact .ite (ha.trans (played_raiseBit ..).ran) ha

theorem tdmTrack_of_leader {p : Nat} {s : State} (hlead : ctlLeader ((tdm s p).cfg.getD 0 0) = true) (ppm : Int) : tdmTrack p ppm s = s := by
  refine if_pos ?_
  rw [hlead]
  rfl

section

variable {p : Nat} {s : State} (hfollow : ctlLeader ((tdm s p).cfg.getD 0 0) = false) (hknown : (tdm s p).known = true)

include hfollow hknown

theorem tdmTrack_far {ppm : Int} (hfar : 30000 < ppm.natAbs) : tdmTrack p ppm s = tdmTo p .fault (bump (pgAud p) 7 1 (raiseBit (pgAud p) 7 s)) := by
  have hno : (ctlLeader ((tdm s p).cfg.getD 0 0) || !(tdm s p).known) ≠ true := by
    rw [hfollow, hknown]
    exact Bool.false_ne_true
  exact (if_neg hno).trans (if_pos hfar)

theorem tdmTrack_near {ppm : Int} (hnear : ppm.natAbs ≤ 30000) : (tdm (tdmTrack p ppm s) p).ratio = ppm ∧
    (100 < (ppm - (tdm s p).ratio).natAbs → bitOf (page (tdmTrack p ppm s) (pgAud p)).stat 8 = true) := by
  have hno : (ctlLeader ((tdm s p).cfg.getD 0 0) || !(tdm s p).known) ≠ true := by
    rw [hfollow, hknown]
    exact Bool.false_ne_true
  have hsteer : tdmTrack p ppm s = if 100 < (ppm - (tdm s p).ratio).natAbs then raiseBit (pgAud p) 8 (modTdm p (fun y => { y with ratio := ppm }) s)
      else modTdm p (fun y => { y with ratio := ppm }) s := (if_neg hno).trans (if_neg (by omega))
  have hset : (tdm (modTdm p (fun y => { y with ratio := ppm }) s) p).ratio = ppm := by rw [tdm_modTdm_self]
  rw [hsteer]
  split
  · exact ⟨(played_raiseBit ..).ratio.trans hset, fun _ => bitOf_of_struck (by decide) (struck_raiseBit _ (by decide) _)⟩
  · next h => exact ⟨hset, fun hfar => absurd hfar h⟩

end

end

end Sys2Proof.Laws
end

section
/-! A good frame of a TDM port, and what any frame comes to (R409–R415). -/

namespace Sys2Proof.Laws

open Sys2Proof Sys2Proof.Machine

/-! ## A good frame, in its three stages -/

/-- The port locks, or its tracker follows the measured rate. -/
def tdmLocks (p : Nat) (f : TdmIn) (s : State) : State :=
  let x := tdm s p
  let u := modTdm p (fun x => { x with bad := 0, good := x.good + 1 }) s
  if x.st = .locking then
    if ctlLeader (x.cfg.getD 0 0) then tdmTo p .running u
    else if 48 ≤ x.good + 1 then
      if 30000 < f.ppm.natAbs then tdmTo p .fault (bump (pgAud p) 7 1 (raiseBit (pgAud p) 7 u))
      else unmuteStopped p (tdmTo p .running (modTdm p (fun x => { x with known := true, ratio := f.ppm }) u))
    else u
  else tdmTrack p f.ppm u

/-- A FIFO fault that restarts the port by itself silences the frame. -/
def tdmSilent (p : Nat) (f : TdmIn) (s : State) : Bool := (f.rxEmpty || f.txEmpty || f.rxFull || f.txFull) && audAuto (effW s) p

/-- The samples that the input slots take. -/
def heardSlots (p : Nat) (f : TdmIn) (s : State) : List Int :=
  if tdmSilent p f s then (frameSlots s p f).map (fun _ => 0) else frameSlots s p f

/-- The input slots take their samples. -/
def tdmHears (p : Nat) (f : TdmIn) (s : State) : State :=
  modTdm p (fun x => { x with inputs := heardSlots p f s })
    (tdmMarks p f (heardSlots p f s) (f.at_ * 48 / 1000000) (tdmStore p (heardSlots p f s) f.slips f.ppm (f.at_ * 48 / 1000000) s))

theorem tdmGood_eq (p : Nat) (f : TdmIn) (s : State) : tdmGood p f s =
    if tdmYields (tdm (tdmLocks p f s) p) then
      tdmFifo p f (tdmDrive p f (tdmSilent p f (tdmLocks p f s)) (f.txEmpty || f.txFull) (tdmHears p f (tdmLocks p f s)))
    else tdmDrive p f false false (tdmLocks p f s) := rfl

section

variable {p : Nat} {f : TdmIn} {s : State}

theorem ran_tdmLocks (p : Nat) (f : TdmIn) (s : State) : Ran p s (tdmLocks p f s) := by
  unfold tdmLocks
  extract_lets x u
  have hu : Ran p s u := ran_modTdm p _ s
  clear_value u
  refine .ite (.ite (hu.trans (ran_tdmTo ..)) (.ite (.ite ?_ ?_) hu)) (hu.trans (ran_tdmTrack ..))
  · exact (hu.trans (ran_event 7 (by decide) u)).trans (ran_tdmTo ..)
  · exact ((hu.trans (ran_modTdm p _ u)).trans (ran_tdmTo ..)).trans (played_unmuteStopped ..).ran

/-- The samples apart, a frame heard is slots played. -/
theorem played_heard (p : Nat) (f : TdmIn) (s : State) :
    ∃ w, Played p s w ∧ tdmHears p f s = modTdm p (fun x => { x with inputs := heardSlots p f s }) w :=
  ⟨_, (played_tdmStore ..).trans (played_tdmMarks ..), rfl⟩

theorem tdmHears_moves (p : Nat) (f : TdmIn) (s : State) : Ran p s (tdmHears p f s) ∧
    (tdm (tdmHears p f s) p).inputs = heardSlots p f s ∧ (tdm (tdmHears p f s) p).st = (tdm s p).st ∧
    (tdm (tdmHears p f s) p).restart = (tdm s p).restart ∧ (tdm (tdmHears p f s) p).bad = (tdm s p).bad ∧
    (tdm (tdmHears p f s) p).ratio = (tdm s p).ratio ∧ counter (tdmHears p f s) (pgAud p) 2 = counter s (pgAud p) 2 := by
  obtain ⟨w, hw, heq⟩ := played_heard p f s
  rw [heq]
  refine ⟨hw.ran.trans (ran_modTdm p _ w), ?_⟩
  rw [tdm_modTdm_self]
  exact ⟨rfl, hw.st, hw.restart, hw.bad, hw.ratio, hw.counts 2 (by decide) (by decide)⟩

theorem ran_tdmGood (p : Nat) (f : TdmIn) (s : State) : Ran p s (tdmGood p f s) := by
  have hlocks := ran_tdmLocks p f s
  rw [tdmGood_eq]
  generalize tdmLocks p f s = w at hlocks ⊢
  obtain ⟨hears, -⟩ := tdmHears_moves p f w
  exact hlocks.trans (.ite ((hears.trans (played_tdmDrive ..).ran).trans (ran_tdmFifo ..)) (played_tdmDrive ..).ran)

/-! ## A leader -/

section

variable (hlead : ctlLeader ((tdm s p).cfg.getD 0 0) = true)

include hlead

/-- A leader that locks runs, and nothing tracks it. -/
theorem tdmLocks_of_leader : (tdm (tdmLocks p f s) p).st = (if (tdm s p).st = .locking then .running else (tdm s p).st) ∧
    (tdm (tdmLocks p f s) p).bad = 0 ∧ (tdm (tdmLocks p f s) p).restart = (tdm s p).restart ∧
    (tdm (tdmLocks p f s) p).cfg = (tdm s p).cfg ∧ counter (tdmLocks p f s) (pgAud p) 2 = counter s (pgAud p) 2 ∧
    ((tdm s p).st = .locking → bitOf (page (tdmLocks p f s) (pgAud p)).stat 0 = true) := by
  unfold tdmLocks
  extract_lets x u
  have hu : tdm u p = { tdm s p with bad := 0, good := (tdm s p).good + 1 } := tdm_modTdm_self ..
  have hcount : counter u (pgAud p) 2 = counter s (pgAud p) 2 := rfl
  clear_value u
  by_cases hst : (tdm s p).st = .locking
  · rw [if_pos hst, if_pos hlead, if_pos hst]
    refine ⟨st_tdmTo .., ?_, ?_, ?_, (counter_tdmTo p _ u (by decide) (by decide)).trans hcount, fun _ => ?_⟩
    · rw [bad_tdmTo, hu]
    · rw [restart_tdmTo, hu]
    · rw [cfg_tdmTo, hu]
    · have hraise : tdmTo p .running u = raiseBit (pgAud p) 0 (modTdm p (fun x => { x with st := .running }) u) := by
        unfold tdmTo
        rw [hu, hst]
        rfl
      rw [hraise]
      exact bitOf_of_struck (by decide) (struck_raiseBit _ (by decide) _)
  · have hstill : tdmTrack p f.ppm u = u := tdmTrack_of_leader (by rw [hu]; exact hlead) _
    rw [if_neg hst, hstill, if_neg hst, hu]
    exact ⟨rfl, rfl, rfl, rfl, hcount, fun h => absurd h hst⟩

omit hlead in
/-- The samples of a port that no fault has moved. -/
theorem frameSlots_congr {u : State} (hcfg : (tdm u p).cfg = (tdm s p).cfg) (hs : (tdm s p).st ≠ .misaligned) (hu : (tdm u p).st ≠ .misaligned)
    (hre : f.rxEmpty = false) (hrf : f.rxFull = false) (a : Nat) : frameSlots u p { f with at_ := a } = frameSlots s p f := by
  rw [frameSlots, frameSlots, hcfg, if_neg hu, if_neg hs, hre, hrf]
  rfl

/-- A good frame of a leader whose FIFOs hold. -/
theorem tdmGood_of_leader (hst : (tdm s p).st = .running ∨ (tdm s p).st = .locking) (hre : f.rxEmpty = false) (hte : f.txEmpty = false)
    (hrf : f.rxFull = false) (htf : f.txFull = false) : (tdm (tdmGood p f s) p).st = .running ∧
    (tdm (tdmGood p f s) p).inputs = frameSlots s p f ∧ (tdm (tdmGood p f s) p).bad = 0 ∧
    ((tdm s p).st = .locking → bitOf (page (tdmGood p f s) (pgAud p)).stat 0 = true) := by
  obtain ⟨hwst, hwbad, -, hwcfg, -, hwbit⟩ := tdmLocks_of_leader (f := f) hlead
  rw [tdmGood_eq]
  generalize tdmLocks p f s = w at hwst hwbad hwcfg hwbit ⊢
  have hrun : (tdm w p).st = .running := by
    rcases hst with h | h
    · rw [hwst, h]
      rfl
    · rw [hwst, h]
      rfl
  obtain ⟨hears, hin, hhst, -, hhbad, -, -⟩ := tdmHears_moves p f w
  have hsound : tdmSilent p f w = false := by
    rw [tdmSilent, hre, hte, hrf, htf]
    rfl
  have hheard : heardSlots p f w = frameSlots s p f := by
    have hnot : (tdm s p).st ≠ .misaligned := by
      rcases hst with h | h
      · rw [h]
        decide
      · rw [h]
        decide
    rw [heardSlots, if_neg (by rw [hsound]; exact Bool.false_ne_true)]
    exact frameSlots_congr hwcfg hnot (by rw [hrun]; decide) hre hrf f.at_
  rw [if_pos (by rw [tdmYields, hrun]; rfl), tdmFifo_of_full p hre hte hrf htf]
  have drive := played_tdmDrive p f (tdmSilent p f w) (f.txEmpty || f.txFull) (tdmHears p f w)
  exact ⟨drive.st.trans (hhst.trans hrun), drive.inputs.trans (hin.trans hheard), drive.bad.trans (hhbad.trans hwbad),
    fun h => drive.bits 0 (hears.bits 0 (hwbit h))⟩

omit hlead in
theorem frameSlots_length (s : State) (p : Nat) (f : TdmIn) : (frameSlots s p f).length = ctlSlots ((tdm s p).cfg.getD 0 0) := by
  rw [frameSlots, skewed, List.length_map, List.length_range, List.length_map, List.length_range]

/-- A good frame of a leader with a FIFO run empty. -/
theorem tdmGood_of_dry (hst : (tdm s p).st = .running ∨ (tdm s p).st = .misaligned) (hdry : (f.rxEmpty || f.txEmpty) = true) :
    (audAuto (effW s) p = true → (tdm (tdmGood p f s) p).inputs = (frameSlots s p f).map (fun _ => 0)) ∧
      (tdm (tdmGood p f s) p).st = .misaligned ∧ (tdm (tdmGood p f s) p).restart = (audAuto (effW s) p || (tdm s p).restart) ∧
      Counted (pgAud p) 2 1 s (tdmGood p f s) ∧ bitOf (page (tdmGood p f s) (pgAud p)).stat 3 = true := by
  obtain ⟨hwst, -, hwrestart, hwcfg, hwcount, -⟩ := tdmLocks_of_leader (f := f) hlead
  have hran := ran_tdmLocks p f s
  rw [tdmGood_eq]
  generalize tdmLocks p f s = w at hwst hwrestart hwcfg hwcount hran ⊢
  have hyields : tdmYields (tdm w p) = true := by
    rcases hst with h | h
    · rw [tdmYields, hwst, h]
      rfl
    · rw [tdmYields, hwst, h]
      rfl
  obtain ⟨hears, hin, -, hhrestart, -, -, hhcount⟩ := tdmHears_moves p f w
  have drive := played_tdmDrive p f (tdmSilent p f w) (f.txEmpty || f.txFull) (tdmHears p f w)
  rw [if_pos hyields]
  generalize tdmDrive p f (tdmSilent p f w) (f.txEmpty || f.txFull) (tdmHears p f w) = v at drive ⊢
  obtain ⟨hfst, hfrestart, hfin, hfcount, hfbit⟩ := tdmFifo_moves p hdry v
  have hwords : effW v = effW s := ((hran.trans hears).trans drive.ran).words
  refine ⟨fun hauto => ?_, hfst, ?_, ?_, hfbit⟩
  · have hsilent : tdmSilent p f w = true := by
      rw [tdmSilent, hdry, hran.words, hauto]
      rfl
    rw [hfin, drive.inputs, hin, heardSlots, if_pos hsilent, List.map_const', List.map_const', frameSlots_length, frameSlots_length, hwcfg]
  · rw [hfrestart, hwords, drive.restart, hhrestart, hwrestart]
  · exact counted_after_kept ((drive.counts 2 (by decide) (by decide)).trans (hhcount.trans hwcount)) hfcount

end

/-! ## A follower that has locked -/

/-- A good frame of a follower that runs at a known rate. -/
theorem tdmGood_of_follower (hst : (tdm s p).st = .running) (hfollow : ctlLeader ((tdm s p).cfg.getD 0 0) = false)
    (hknown : (tdm s p).known = true) :
    (f.ppm.natAbs ≤ 30000 → (tdm (tdmGood p f s) p).ratio = f.ppm ∧
      (100 < (f.ppm - (tdm s p).ratio).natAbs → bitOf (page (tdmGood p f s) (pgAud p)).stat 8 = true)) ∧
    (30000 < f.ppm.natAbs → (tdm (tdmGood p f s) p).st = .fault ∧ Counted (pgAud p) 7 1 s (tdmGood p f s) ∧
      bitOf (page (tdmGood p f s) (pgAud p)).stat 7 = true) := by
  have hlocks : tdmLocks p f s = tdmTrack p f.ppm (modTdm p (fun x => { x with bad := 0, good := x.good + 1 }) s) :=
    if_neg (by rw [hst]; decide)
  have hcount : counter (modTdm p (fun x => { x with bad := 0, good := x.good + 1 }) s) (pgAud p) 7 = counter s (pgAud p) 7 := rfl
  have hu := tdm_modTdm_self p (fun x => { x with bad := 0, good := x.good + 1 }) s
  rw [tdmGood_eq, hlocks]
  generalize modTdm p (fun x => { x with bad := 0, good := x.good + 1 }) s = u at hu hcount ⊢
  have hufollow : ctlLeader ((tdm u p).cfg.getD 0 0) = false := by
    rw [hu]
    exact hfollow
  have huknown : (tdm u p).known = true := by
    rw [hu]
    exact hknown
  have hratio : (tdm u p).ratio = (tdm s p).ratio := by rw [hu]
  refine ⟨fun hnear => ?_, fun hfar => ?_⟩
  · obtain ⟨htrack, hmark⟩ := tdmTrack_near hufollow huknown hnear
    rw [hratio] at hmark
    generalize tdmTrack p f.ppm u = w at htrack hmark ⊢
    split
    · obtain ⟨hears, -, -, -, -, hhratio, -⟩ := tdmHears_moves p f w
      have drive := played_tdmDrive p f (tdmSilent p f w) (f.txEmpty || f.txFull) (tdmHears p f w)
      exact ⟨(ratio_tdmFifo ..).trans (drive.ratio.trans (hhratio.trans htrack)),
        fun h => (ran_tdmFifo ..).bits 8 (drive.bits 8 (hears.bits 8 (hmark h)))⟩
    · have drive := played_tdmDrive p f false false w
      exact ⟨drive.ratio.trans htrack, fun h => drive.bits 8 (hmark h)⟩
  · rw [tdmTrack_far hufollow huknown hfar]
    have hfault := st_tdmTo p .fault (bump (pgAud p) 7 1 (raiseBit (pgAud p) 7 u))
    have hto := played_tdmTo p .fault (bump (pgAud p) 7 1 (raiseBit (pgAud p) 7 u))
    have hcounted : Counted (pgAud p) 7 1 s (tdmTo p .fault (bump (pgAud p) 7 1 (raiseBit (pgAud p) 7 u))) :=
      counted_of_kept (counted_after_kept hcount (counted_event ..)) (counter_tdmTo p .fault _ (by decide) (by decide))
    have hbit := hto.bits 7 (bit_event (pgAud p) 7 (by decide) u)
    generalize tdmTo p .fault (bump (pgAud p) 7 1 (raiseBit (pgAud p) 7 u)) = w at hfault hcounted hbit ⊢
    have drive := played_tdmDrive p f false false w
    rw [if_neg (by rw [tdmYields, hfault]; decide)]
    exact ⟨drive.st.trans hfault, counted_of_kept hcounted (drive.counts 7 (by decide) (by decide)), drive.bits 7 hbit⟩

end

end Sys2Proof.Laws
end

section
/-! TDM frames and the clock of a port (R409–R415), and the obligation of TDM ports. -/

namespace Sys2Proof.Laws

open Sys2Proof Sys2Proof.Machine

/-! ## A frame in its stages -/

/-- The frame is counted at its FS edge. -/
def tdmCounts (p : Nat) (f : TdmIn) (s : State) : State := bump (pgAud p) 0 1 (modTdm p (fun x => { x with frames := x.frames + 1 }) (advance f.at_ s))

/-- Words that wait for an FS edge apply. -/
def tdmWords (p : Nat) (s : State) : State := if (tdm s p).pend || (tdm s p).cfg.isEmpty then tdmApply p s else s

/-- What the frame does, by the port's state. -/
def tdmTurn (p : Nat) (f : TdmIn) (s : State) : State :=
  if (tdm s p).restart then tdmDrive p f true false (tdmRestart p s)
  else if (tdm s p).st = .clockLost then s
  else if (tdm s p).st = .fault then tdmDrive p f true false s
  else if !ctlLeader ((tdm s p).cfg.getD 0 0) && decide (f.bclks ≠ ctlBits ((tdm s p).cfg.getD 0 0)) then tdmGlitch p f s
  else tdmGood p f s

/-- The control word that the frame's edge goes by. -/
def edgeWord (p : Nat) (s : State) : Word :=
  (if (tdm s p).pend || (tdm s p).cfg.isEmpty then audNow (effW s) p else (tdm s p).cfg).getD 0 0

theorem tdmFrameOp_eq {p : Nat} {s : State} (hen : (tdm s p).st ≠ .disabled) (f : TdmIn) : tdmFrameOp p f s =
    noteTdm p (tdmTurn p (fsEdge (edgeWord p s) f) (tdmWords p (tdmCounts p (fsEdge (edgeWord p s) f) s))) := if_neg hen

section

variable {p : Nat} {s : State}

theorem ran_tdmApply (p : Nat) (s : State) : Ran p s (tdmApply p s) := by
  unfold tdmApply
  extract_lets x now w0 again oldOut shape u
  have hu : Ran p s u := ran_modTdm p _ s
  clear_value u
  exact hu.trans (played_unmuteSlots ..).ran

theorem ran_tdmTurn (p : Nat) (f : TdmIn) (s : State) : Ran p s (tdmTurn p f s) :=
  .ite ((ran_tdmRestart p s).trans (played_tdmDrive ..).ran)
    (.ite (.refl p s) (.ite (played_tdmDrive ..).ran (.ite (ran_tdmGlitch ..) (ran_tdmGood ..))))

theorem tdm_tdmCounts (p : Nat) (f : TdmIn) (s : State) : tdm (tdmCounts p f s) p = { tdm s p with frames := (tdm s p).frames + 1 } :=
  tdm_modTdm_self p (fun x => { x with frames := x.frames + 1 }) (advance f.at_ s)

theorem counted_tdmCounts (p : Nat) (f : TdmIn) (s : State) : Counted (pgAud p) 0 1 s (tdmCounts p f s) :=
  counted_after_kept rfl (counted_bump_same (pgAud p) 0 1 (modTdm p (fun x => { x with frames := x.frames + 1 }) (advance f.at_ s)))

theorem counter_tdmCounts (p : Nat) (f : TdmIn) (s : State) {n : Nat} (hn : n ≠ 0) :
    counter (tdmCounts p f s) (pgAud p) n = counter s (pgAud p) n :=
  counter_bump_other (by omega) 1 (modTdm p (fun x => { x with frames := x.frames + 1 }) (advance f.at_ s))

theorem tdmWords_of_held {u : State} (hpend : (tdm u p).pend = false) (hcfg : (tdm u p).cfg ≠ []) : tdmWords p u = u := by
  refine if_neg ?_
  rw [hpend, Bool.false_or, List.isEmpty_iff]
  exact hcfg

/-- The edge is the frame's, but for where a leader puts it. -/
theorem fsEdge_eq (w : Word) (f : TdmIn) : fsEdge w f = { f with at_ := (fsEdge w f).at_ } := by
  unfold fsEdge
  split <;> rfl

/-! ## What emits nothing -/

theorem out_raiseBit (k i : Nat) (s : State) : (raiseBit k i s).out = s.out := by rw [raiseBit_frame]

theorem out_tdmTo (p : Nat) (st : TdmState) (s : State) : (tdmTo p st s).out = s.out := by
  unfold tdmTo
  extract_lets old bit u
  have hu : u.out = s.out := rfl
  clear_value u
  split
  · exact hu
  · split
    · exact hu
    · exact (out_raiseBit ..).trans hu

theorem out_tdmStore (p : Nat) (l : List Int) (slips : List Nat) (ppm : Int) (n : Nat) (s : State) :
    (tdmStore p l slips ppm n s).out = s.out := by
  unfold tdmStore
  extract_lets x leader
  clear_value leader x
  refine foldl_keeps (g := State.out) (fun s i => ?_) _ s
  split
  · extract_lets v last slip at_ u w
    have hu : u.out = s.out := rfl
    clear_value u
    have hw : w.out = u.out := by
      by_cases h : (slip && !decide (0 ≤ ppm)) = true
      · have hset : w = _ := if_pos h
        rw [hset]
        rfl
      · have hset : w = u := if_neg h
        rw [hset]
    clear_value w
    split
    · exact (out_raiseBit (pgAud p) 10 w).trans (hw.trans hu)
    · exact hw.trans hu
  · rfl

theorem out_tdmGlitch (p : Nat) (f : TdmIn) (s : State) : (tdmGlitch p f s).out = s.out := by
  unfold tdmGlitch
  extract_lets x a b c
  have hb : b.out = s.out := out_raiseBit (pgAud p) 5 a
  clear_value b
  have hc : c.out = b.out := by
    by_cases h : tdmYields x = true
    · have hset : c = _ := if_pos h
      rw [hset, out_tdmStore]
    · have hset : c = b := if_neg h
      rw [hset]
  clear_value c
  split
  · exact (out_tdmTo ..).trans (hc.trans hb)
  · exact hc.trans hb

theorem noteTdm_frame (p : Nat) (s : State) : noteTdm p s = { s with tdms := (noteTdm p s).tdms } := by
  unfold noteTdm
  extract_lets _ x m
  clear_value m x
  split <;> rfl

/-! ## What a frame comes to -/

/-- A frame of an enabled port, from the count on. -/
theorem exec_tdmFrame (hrun : inReset s = false) (hp : p < 4) (hen : (tdm s p).st ≠ .disabled) (f : TdmIn) :
    exec (.tdmFrame p f) s = .next (noteTdm p (tdmTurn p (fsEdge (edgeWord p s) f) (tdmWords p (tdmCounts p (fsEdge (edgeWord p s) f) s)))) := by
  refine (if_pos hp).trans ?_
  rw [whenUp_of_running hrun, tdmFrameOp_eq hen]

theorem ran_frame (p : Nat) (f : TdmIn) (u : State) : Ran p u (noteTdm p (tdmTurn p f (tdmWords p u))) :=
  ((Ran.ite (ran_tdmApply p u) (.refl p u)).trans (ran_tdmTurn ..)).trans (played_noteTdm ..).ran

section

variable {f : TdmIn} {u : State}

/-- The turn of a port that restarts. -/
theorem frame_of_restart (h : (tdm u p).restart = true) :
    (tdm (noteTdm p (tdmTurn p f u)) p).restart = false ∧ Counted (pgAud p) 4 1 u (noteTdm p (tdmTurn p f u)) ∧
      bitOf (page (noteTdm p (tdmTurn p f u)) (pgAud p)).stat 9 = true ∧
      (tdm (noteTdm p (tdmTurn p f u)) p).st = if ctlLeader ((tdm u p).cfg.getD 0 0) || (tdm u p).known then .running else .locking := by
  have hturn : tdmTurn p f u = tdmDrive p f true false (tdmRestart p u) := if_pos h
  obtain ⟨hrestart, hcount, hbit, hst⟩ := tdmRestart_moves p u
  have tail := (played_tdmDrive p f true false (tdmRestart p u)).trans (played_noteTdm p _)
  rw [hturn]
  exact ⟨tail.restart.trans hrestart, counted_of_kept hcount (tail.counts 4 (by decide) (by decide)), tail.bits 9 hbit, tail.st.trans hst⟩

section

variable (h : (tdm u p).restart = false)

include h

theorem tdmTurn_of_glitch (hst : (tdm u p).st = .running ∨ (tdm u p).st = .misaligned ∨ (tdm u p).st = .locking)
    (hfollow : ctlLeader ((tdm u p).cfg.getD 0 0) = false) (hlen : f.bclks ≠ ctlBits ((tdm u p).cfg.getD 0 0)) :
    tdmTurn p f u = tdmGlitch p f u := by
  have hup : (tdm u p).st ≠ .clockLost ∧ (tdm u p).st ≠ .fault := by
    rcases hst with hst | hst | hst
    all_goals
      rw [hst]
      decide
  unfold tdmTurn
  rw [h, if_neg Bool.false_ne_true, if_neg hup.1, if_neg hup.2, hfollow, decide_eq_true hlen]
  rfl

theorem tdmTurn_of_good (hst : (tdm u p).st = .running ∨ (tdm u p).st = .misaligned ∨ (tdm u p).st = .locking)
    (hgood : ctlLeader ((tdm u p).cfg.getD 0 0) = true ∨ f.bclks = ctlBits ((tdm u p).cfg.getD 0 0)) :
    tdmTurn p f u = tdmGood p f u := by
  have hup : (tdm u p).st ≠ .clockLost ∧ (tdm u p).st ≠ .fault := by
    rcases hst with hst | hst | hst
    all_goals
      rw [hst]
      decide
  have hno : ¬(!ctlLeader ((tdm u p).cfg.getD 0 0) && decide (f.bclks ≠ ctlBits ((tdm u p).cfg.getD 0 0))) = true := by
    rcases hgood with hgood | hgood
    · rw [hgood]
      exact Bool.false_ne_true
    · rw [hgood, decide_eq_false (fun hne => hne rfl), Bool.and_false]
      exact Bool.false_ne_true
  unfold tdmTurn
  rw [h, if_neg Bool.false_ne_true, if_neg hup.1, if_neg hup.2, if_neg hno]

end

end

end

/-! ## The clock -/

section

variable {p : Nat} {s : State}

/-- The fade of every output slot, from sample `se` on. -/
def faded (se : Nat) (x : Tdm) : Tdm :=
  (outSlots x).foldl (fun x i =>
    if x.muted.contains i then { x with zc := x.zc.set (fun _ => none) i none }
    else { x with zc := x.zc.set (fun _ => none) i (some { kind := 0, se := se, word := x.src.get (fun _ => 0) i }) }) x

theorem tdmLine_faded (se : Nat) (x : Tdm) : tdmLine (faded se x) = tdmLine x :=
  tdmLine_unmute _ (fun x i => by split <;> rfl) x

theorem tdmClockStopOp_eq (h : ¬((tdm s p).st = .disabled ∨ (tdm s p).st = .clockLost ∨ ctlLeader (audW (effW s) p 0x100) = true)) :
    tdmClockStopOp p s = modTdm p (faded (sampleFrom s.time.now)) (noteTdm p (bump (pgAud p) 6 1 (raiseBit (pgAud p) 6 (tdmTo p .clockLost s)))) :=
  if_neg h

theorem noted_tdmTo (p : Nat) (st : TdmState) (s : State) : Noted (modTdm p (fun x => { x with st := st }) s) (tdmTo p st s) := by
  unfold tdmTo
  extract_lets old bit u
  change Noted u _
  clear_value u
  split
  · exact .refl u
  · exact .ite (.refl u) (noted_raiseBit ..)

theorem tdm_of_noted {t u : State} (h : Noted t u) (q : Nat) : tdm u q = tdm t q := by
  refine tdm_of_tdms ?_ q
  rw [h.frame]

theorem tdm_noteTdm_other {p q : Nat} (hq : q ≠ p) (s : State) : tdm (noteTdm p s) q = tdm s q := by
  unfold noteTdm
  extract_lets _ x m
  clear_value m x
  split
  · rfl
  · exact (tdm_modTdm ..).trans (if_neg hq)

/-- A bit clock that stops (R415). -/
theorem tdmClockStop_moves (hen : (tdm s p).st ≠ .disabled) (hup : (tdm s p).st ≠ .clockLost)
    (hfollow : ctlLeader (audW (effW s) p 0x100) = false) :
    (tdm (tdmClockStopOp p s) p).st = .clockLost ∧ (tdm (tdmClockStopOp p s) p).ratio = (tdm s p).ratio ∧
      Counted (pgAud p) 6 1 s (tdmClockStopOp p s) ∧ bitOf (page (tdmClockStopOp p s) (pgAud p)).stat 6 = true ∧
      (∀ q, q ≠ p → tdm (tdmClockStopOp p s) q = tdm s q) ∧
      tdmClockStopOp p s = { s with pages := (tdmClockStopOp p s).pages, ctrs := (tdmClockStopOp p s).ctrs, tdms := (tdmClockStopOp p s).tdms
                                    ic := { s.ic with inflight := (tdmClockStopOp p s).ic.inflight } } := by
  have hlost := tdmClockStopOp_eq (p := p) (s := s) (by rw [hfollow]; rintro (h | h | h); exacts [hen h, hup h, absurd h Bool.false_ne_true])
  rw [hlost]
  have hstop : Noted (modTdm p (fun x => { x with st := .clockLost }) s) (bump (pgAud p) 6 1 (raiseBit (pgAud p) 6 (tdmTo p .clockLost s))) :=
    ((noted_tdmTo p .clockLost s).raised ..).bumped ..
  have hcount : Counted (pgAud p) 6 1 s (bump (pgAud p) 6 1 (raiseBit (pgAud p) 6 (tdmTo p .clockLost s))) :=
    counted_after_kept (counter_tdmTo p .clockLost s (by decide) (by decide)) (counted_event ..)
  have hbit := bit_event (pgAud p) 6 (i := 6) (by decide) (tdmTo p .clockLost s)
  generalize bump (pgAud p) 6 1 (raiseBit (pgAud p) 6 (tdmTo p .clockLost s)) = b at hstop hcount hbit ⊢
  have hself : tdm b p = { tdm s p with st := .clockLost } := (tdm_of_noted hstop p).trans (tdm_modTdm_self ..)
  have hother : ∀ q, q ≠ p → tdm b q = tdm s q := fun q hq => (tdm_of_noted hstop q).trans ((tdm_modTdm ..).trans (if_neg hq))
  have hnote := played_noteTdm p b
  have hframe := noteTdm_frame p b
  have hkept : ∀ q, q ≠ p → tdm (noteTdm p b) q = tdm b q := fun q hq => tdm_noteTdm_other hq b
  generalize noteTdm p b = c at hnote hframe hkept ⊢
  have hfade := played_modTdm p p (faded (sampleFrom s.time.now)) c (tdmLine_faded _)
  have tail := hnote.trans hfade
  refine ⟨?_, ?_, counted_of_kept hcount (tail.counts 6 (by decide) (by decide)), tail.bits 6 hbit, fun q hq => ?_, ?_⟩
  · rw [tail.st, hself]
  · rw [tail.ratio, hself]
  · exact ((tdm_modTdm ..).trans (if_neg hq)).trans ((hkept q hq).trans (hother q hq))
  · have start := hstop.frame
    generalize b.pages = pages, b.ctrs = ctrs, b.ic.inflight = inflight at start
    rw [hframe, start]
    rfl

theorem tdmClockStop_of_lost (h : (tdm s p).st = .disabled ∨ (tdm s p).st = .clockLost ∨ ctlLeader (audW (effW s) p 0x100) = true) :
    tdmClockStopOp p s = s := if_pos h

/-- A bit clock that returns (R415). -/
theorem tdm_tdmClockReturn (hlost : (tdm s p).st = .clockLost) (ppm : Int) (q : Nat) : tdm (tdmClockReturnOp p ppm s) q =
    if q = p then
      (if (tdm s p).known = true ∧ (ppm - (tdm s p).ratio).natAbs ≤ 1000 then { tdm s p with restart := true }
        else { tdm s p with st := .locking, good := 0, bad := 0, known := false })
    else tdm s q := by
  have hop : tdmClockReturnOp p ppm s =
      if (tdm s p).known && decide ((ppm - (tdm s p).ratio).natAbs ≤ 1000) then modTdm p (fun x => { x with restart := true }) s
      else modTdm p (fun x => { x with good := 0, bad := 0, known := false }) (tdmTo p .locking s) := if_pos hlost
  have hcond : ((tdm s p).known && decide ((ppm - (tdm s p).ratio).natAbs ≤ 1000)) = true ↔
      (tdm s p).known = true ∧ (ppm - (tdm s p).ratio).natAbs ≤ 1000 := by
    rw [Bool.and_eq_true, decide_eq_true_iff]
  rw [hop]
  by_cases hnear : (tdm s p).known = true ∧ (ppm - (tdm s p).ratio).natAbs ≤ 1000
  · rw [if_pos (hcond.2 hnear), if_pos hnear]
    exact tdm_modTdm ..
  · rw [if_neg (fun h => hnear (hcond.1 h)), if_neg hnear]
    have hto : tdmTo p .locking s = modTdm p (fun x => { x with st := .locking }) s := rfl
    rw [hto, tdm_modTdm]
    split
    · rw [tdm_modTdm_self]
    · next hq => exact (tdm_modTdm ..).trans (if_neg hq)

theorem tdmClockReturn_frame (p : Nat) (ppm : Int) (s : State) : tdmClockReturnOp p ppm s = { s with tdms := (tdmClockReturnOp p ppm s).tdms } := by
  unfold tdmClockReturnOp
  dsimp only
  split
  · split <;> rfl
  · rfl

theorem tdmFaultClear_of_fault (h : (tdm s p).st = .fault ∧ audAuto (effW s) p = true) :
    tdmFaultClearOp p s = modTdm p (fun x => { x with restart := true }) s :=
  if_pos (by rw [h.1, h.2]; rfl)

theorem tdmFaultClear_of_not (h : (tdm s p).st ≠ .fault ∨ audAuto (effW s) p = false) : tdmFaultClearOp p s = s := by
  refine if_neg ?_
  rw [Bool.and_eq_true, decide_eq_true_iff]
  rintro ⟨hst, hauto⟩
  rcases h with h | h
  · exact h hst
  · rw [h] at hauto
    exact Bool.false_ne_true hauto

end

end Sys2Proof.Laws
end

section
/-! The obligation of TDM ports (R409–R415), from what their frames and clocks come to. -/

namespace Sys2Proof.Laws

open Sys2Proof Sys2Proof.Machine

/-- What a frame leaves. -/
def frameEnd (p : Nat) (f : TdmIn) (s : State) : State :=
  noteTdm p (tdmTurn p (fsEdge (edgeWord p s) f) (tdmWords p (tdmCounts p (fsEdge (edgeWord p s) f) s)))

section

variable {p : Nat} {f : TdmIn} {s : State}

/-! ## Every frame -/

theorem frameEnd_frames : (tdm (frameEnd p f s) p).frames = (tdm s p).frames + 1 := by
  have hran := ran_frame p (fsEdge (edgeWord p s) f) (tdmCounts p (fsEdge (edgeWord p s) f) s)
  rw [frameEnd, hran.frames, tdm_tdmCounts]

theorem frameEnd_counted : Counted (pgAud p) 0 1 s (frameEnd p f s) :=
  counted_of_kept (counted_tdmCounts ..) (ran_frame ..).count

theorem frameEnd_frame : frameEnd p f s =
    { s with out := (frameEnd p f s).out, fresh := (frameEnd p f s).fresh, time := (frameEnd p f s).time, pages := (frameEnd p f s).pages
             ctrs := (frameEnd p f s).ctrs, aflows := (frameEnd p f s).aflows, tdms := (frameEnd p f s).tdms, ic := (frameEnd p f s).ic } := by
  have moved := (ran_frame p (fsEdge (edgeWord p s) f) (tdmCounts p (fsEdge (edgeWord p s) f) s)).frame
  have start : tdmCounts p (fsEdge (edgeWord p s) f) s =
      { s with time := (tdmCounts p (fsEdge (edgeWord p s) f) s).time, ctrs := (tdmCounts p (fsEdge (edgeWord p s) f) s).ctrs
               tdms := (tdmCounts p (fsEdge (edgeWord p s) f) s).tdms } := rfl
  rw [frameEnd]
  generalize tdmCounts p (fsEdge (edgeWord p s) f) s = u at moved start ⊢
  generalize noteTdm p (tdmTurn p (fsEdge (edgeWord p s) f) (tdmWords p u)) = t at moved ⊢
  rw [moved, start]

theorem frameEnd_now : (frameEnd p f s).time.now = max s.time.now (fsEdge (edgeWord p s) f).at_ := by
  have moved := (ran_frame p (fsEdge (edgeWord p s) f) (tdmCounts p (fsEdge (edgeWord p s) f) s)).frame
  rw [frameEnd, moved]
  rfl

theorem edgeWord_eq : edgeWord p s = (if (tdm s p).pend = true ∨ (tdm s p).cfg = [] then audNow (effW s) p else (tdm s p).cfg).getD 0 0 := by
  have hcond : ((tdm s p).pend || (tdm s p).cfg.isEmpty) = true ↔ (tdm s p).pend = true ∨ (tdm s p).cfg = [] := by
    rw [Bool.or_eq_true, List.isEmpty_iff]
  rw [edgeWord]
  simp only [hcond]

theorem at_fsEdge_of_follower {w : Word} (h : ctlLeader w = false) : (fsEdge w f).at_ = f.at_ := by
  rw [fsEdge, h]
  rfl

theorem at_fsEdge_of_leader {w : Word} (h : ctlLeader w = true) : ∃ j, (fsEdge w f).at_ = cdiv (j * 1000000000) (ctlHz w) := by
  rw [fsEdge, h]
  exact ⟨_, rfl⟩

/-! ## Frames by the port's state, its words in force -/

section

variable (hpend : (tdm s p).pend = false) (hcfg : (tdm s p).cfg ≠ [])

include hpend hcfg

theorem frameEnd_eq : frameEnd p f s = noteTdm p (tdmTurn p (fsEdge (edgeWord p s) f) (tdmCounts p (fsEdge (edgeWord p s) f) s)) := by
  rw [frameEnd, tdmWords_of_held]
  · rw [tdm_tdmCounts]
    exact hpend
  · rw [tdm_tdmCounts]
    exact hcfg

theorem frameEnd_of_restart (hrestart : (tdm s p).restart = true) : (tdm (frameEnd p f s) p).restart = false ∧
    Counted (pgAud p) 4 1 s (frameEnd p f s) ∧ bitOf (page (frameEnd p f s) (pgAud p)).stat 9 = true ∧
    (tdm (frameEnd p f s) p).st = if ctlLeader ((tdm s p).cfg.getD 0 0) || (tdm s p).known then .running else .locking := by
  have hu := tdm_tdmCounts p (fsEdge (edgeWord p s) f) s
  have hcount := counter_tdmCounts p (fsEdge (edgeWord p s) f) s (n := 4) (by decide)
  rw [frameEnd_eq hpend hcfg]
  generalize tdmCounts p (fsEdge (edgeWord p s) f) s = u at hu hcount ⊢
  obtain ⟨hdone, hcounted, hbit, hst⟩ := frame_of_restart (p := p) (f := fsEdge (edgeWord p s) f) (u := u) (by rw [hu]; exact hrestart)
  refine ⟨hdone, counted_after_kept hcount hcounted, hbit, hst.trans ?_⟩
  rw [hu]

section

variable (hrestart : (tdm s p).restart = false)

include hrestart

/-- The port at its edge, and the frame that it takes there. -/
theorem frameEnd_start : ∃ u a, fsEdge (edgeWord p s) f = { f with at_ := a } ∧ tdm u p = { tdm s p with frames := (tdm s p).frames + 1 } ∧
    (tdm u p).restart = false ∧ (∀ n, n ≠ 0 → counter u (pgAud p) n = counter s (pgAud p) n) ∧ u.out = s.out ∧ effW u = effW s ∧
    frameEnd p f s = noteTdm p (tdmTurn p { f with at_ := a } u) := by
  have hu := tdm_tdmCounts p (fsEdge (edgeWord p s) f) s
  refine ⟨_, _, fsEdge_eq .., hu, ?_, fun n hn => counter_tdmCounts p (fsEdge (edgeWord p s) f) s hn, rfl, rfl, ?_⟩
  · rw [hu]
    exact hrestart
  · rw [← fsEdge_eq]
    exact frameEnd_eq hpend hcfg

theorem frameEnd_of_glitch (hst : (tdm s p).st = .running ∨ (tdm s p).st = .misaligned ∨ (tdm s p).st = .locking)
    (hfollow : ctlLeader ((tdm s p).cfg.getD 0 0) = false) (hlen : f.bclks ≠ ctlBits ((tdm s p).cfg.getD 0 0)) :
    Counted (pgAud p) 1 1 s (frameEnd p f s) ∧ bitOf (page (frameEnd p f s) (pgAud p)).stat 5 = true ∧
      (tdm (frameEnd p f s) p).bad = (tdm s p).bad + 1 ∧
      (tdm (frameEnd p f s) p).st = (if 16 ≤ (tdm s p).bad + 1 then .fault else (tdm s p).st) ∧ (frameEnd p f s).out = s.out := by
  obtain ⟨u, a, -, hu, hgo, hcounts, hout, -, heq⟩ := frameEnd_start (f := f) hpend hcfg hrestart
  have hturn : tdmTurn p { f with at_ := a } u = tdmGlitch p { f with at_ := a } u := by
    refine tdmTurn_of_glitch hgo ?_ ?_ ?_
    · rw [hu]
      exact hst
    · rw [hu]
      exact hfollow
    · rw [hu]
      exact hlen
  obtain ⟨hcount, hbit, hbad, hend⟩ := tdmGlitch_moves p { f with at_ := a } u
  rw [hu] at hbad hend
  have hquiet := out_tdmGlitch p { f with at_ := a } u
  rw [heq, hturn]
  generalize tdmGlitch p { f with at_ := a } u = w at hcount hbit hbad hend hquiet ⊢
  have note := played_noteTdm p w
  refine ⟨counted_of_kept (counted_after_kept (hcounts 1 (by decide)) hcount) (note.counts 1 (by decide) (by decide)), note.bits 5 hbit,
    note.bad.trans hbad, note.st.trans hend, ?_⟩
  rw [noteTdm_frame]
  exact hquiet.trans hout

theorem frameEnd_of_good (hst : (tdm s p).st = .running ∨ (tdm s p).st = .misaligned ∨ (tdm s p).st = .locking)
    (hgood : ctlLeader ((tdm s p).cfg.getD 0 0) = true ∨ f.bclks = ctlBits ((tdm s p).cfg.getD 0 0)) :
    ∃ u a, tdm u p = { tdm s p with frames := (tdm s p).frames + 1 } ∧ (∀ n, n ≠ 0 → counter u (pgAud p) n = counter s (pgAud p) n) ∧
      effW u = effW s ∧ Played p (tdmGood p { f with at_ := a } u) (frameEnd p f s) := by
  obtain ⟨u, a, -, hu, hgo, hcounts, -, hwords, heq⟩ := frameEnd_start (f := f) hpend hcfg hrestart
  have hturn : tdmTurn p { f with at_ := a } u = tdmGood p { f with at_ := a } u := by
    refine tdmTurn_of_good hgo ?_ ?_
    · rw [hu]
      exact hst
    · rw [hu]
      exact hgood
  rw [heq, hturn]
  exact ⟨u, a, hu, hcounts, hwords, played_noteTdm ..⟩

end

end

end

/-- Settles O49: every frame is counted at its edge and then goes by the port's state; clock events set it. -/
theorem tdmPortsFollowTheirFrames : Obligations.TdmPortsFollowTheirFrames := by
  unfold Obligations.TdmPortsFollowTheirFrames
  intro p s hrun hp
  have act : ∀ k : State → State, atTdm p s k = .next (k s) := fun k => (if_pos hp).trans (by rw [whenUp_of_running hrun])
  refine ⟨fun f hoff => (act _).trans (congrArg _ (if_pos hoff)), fun f hen => ?_, fun hen hup hfollow => ?_,
    fun hlost => (act _).trans (congrArg _ (tdmClockStop_of_lost hlost)), fun ppm hlost => ?_, fun ppm hup => ?_, fun hfault => ?_,
    fun hno => (act _).trans (congrArg _ (tdmFaultClear_of_not hno)), fun q f ppm hq e he => ?_⟩
  · refine ⟨frameEnd p f s, exec_tdmFrame hrun hp hen f, frameEnd_frames, frameEnd_counted, fun w hw => ?_, frameEnd_of_restart,
      frameEnd_of_glitch, fun hpend hcfg hrestart hst hlead hre hte hrf htf => ?_, fun hpend hcfg hrestart hst hlead hdry => ?_,
      fun hpend hcfg hrestart hst hfollow hknown hlen => ?_, frameEnd_frame⟩
    · rw [← edgeWord_eq] at hw
      rw [hw, frameEnd_now]
      refine ⟨rfl, fun h => by rw [at_fsEdge_of_follower h], fun h => ?_⟩
      obtain ⟨j, hj⟩ := at_fsEdge_of_leader (f := f) h
      exact ⟨j, by rw [hj]⟩
    · obtain ⟨u, a, hu, -, -, note⟩ := frameEnd_of_good (f := f) hpend hcfg hrestart (hst.imp_right .inr) (.inl hlead)
      obtain ⟨hrunning, hin, hbad, hbit⟩ := tdmGood_of_leader (p := p) (f := { f with at_ := a }) (s := u) (by rw [hu]; exact hlead)
        (by rw [hu]; exact hst) hre hte hrf htf
      rw [hu] at hbit
      refine ⟨note.st.trans hrunning, note.inputs.trans (hin.trans ?_), note.bad.trans hbad, fun h => note.bits 0 (hbit h)⟩
      have hmoved : (tdm s p).st ≠ .misaligned := by
        rcases hst with h | h
        · rw [h]
          decide
        · rw [h]
          decide
      exact frameSlots_congr (by rw [hu]) hmoved (by rw [hu]; exact hmoved) hre hrf a
    · obtain ⟨u, a, hu, hcounts, hwords, note⟩ := frameEnd_of_good (f := f) hpend hcfg hrestart (hst.imp_right .inl) (.inl hlead)
      have hempty : (f.rxEmpty || f.txEmpty) = true := by rw [Bool.or_eq_true]; exact hdry
      obtain ⟨hin, hskew, hagain, hcount, hbit⟩ := tdmGood_of_dry (p := p) (f := { f with at_ := a }) (s := u) (by rw [hu]; exact hlead)
        (by rw [hu]; exact hst) hempty
      rw [hwords] at hin hagain
      refine ⟨fun hauto => note.inputs.trans ((hin hauto).trans ?_), note.st.trans hskew, note.restart.trans (hagain.trans ?_),
        counted_of_kept (counted_after_kept (hcounts 2 (by decide)) hcount) (note.counts 2 (by decide) (by decide)), note.bits 3 hbit⟩
      · rw [List.map_const', List.map_const', frameSlots_length, frameSlots_length, hu]
      · rw [hu, hrestart, Bool.or_false]
    · obtain ⟨u, a, hu, hcounts, -, note⟩ := frameEnd_of_good (f := f) hpend hcfg hrestart (.inl hst) (.inr hlen)
      obtain ⟨hnear, hfar⟩ := tdmGood_of_follower (p := p) (f := { f with at_ := a }) (s := u) (by rw [hu]; exact hst)
        (by rw [hu]; exact hfollow) (by rw [hu]; exact hknown)
      rw [hu] at hnear
      refine ⟨fun h => ?_, fun h => ?_⟩
      · obtain ⟨hratio, hmark⟩ := hnear h
        exact ⟨note.ratio.trans hratio, fun hd => note.bits 8 (hmark hd)⟩
      · obtain ⟨hfault, hcount, hbit⟩ := hfar h
        exact ⟨note.st.trans hfault, counted_of_kept (counted_after_kept (hcounts 7 (by decide)) hcount) (note.counts 7 (by decide) (by decide)),
          note.bits 7 hbit⟩
  · exact ⟨_, act _, tdmClockStop_moves hen hup hfollow⟩
  · exact ⟨_, act _, tdm_tdmClockReturn hlost ppm, tdmClockReturn_frame p ppm s⟩
  · exact (act _).trans (congrArg _ (if_neg hup))
  · refine ⟨_, (act _).trans (congrArg _ (tdmFaultClear_of_fault hfault)), fun q => tdm_modTdm .., rfl⟩
  · have hnone : ∀ k : State → State, atTdm q s k = .next s := fun k => if_neg (by omega)
    simp only [List.mem_cons, List.not_mem_nil, or_false] at he
    rcases he with rfl | rfl | rfl | rfl
    · exact hnone _
    · exact hnone _
    · exact hnone _
    · exact hnone _

end Sys2Proof.Laws
end

section
/-! What records, verdicts and requests make of a channel's yoke state (R369–R373): each operation, read channel by channel. -/

namespace Sys2Proof.Laws

open Sys2Proof Sys2Proof.Machine

/-! ## Channels, operation by operation -/

theorem ych_relock (ch : Nat) (s : State) (j : Nat) : ych (relock ch s) j =
    if j = ch ∧ (ych s ch).st ≠ ysLocked then { ych s ch with st := ysLocked, cause := 0, fails := 0, both := false, gap := false } else ych s j := by
  unfold relock
  by_cases hst : (ych s ch).st = ysLocked
  · rw [if_pos hst, if_neg (fun h => h.2 hst)]
  · rw [if_neg hst, ych_raiseBit, ych_modYch]
    simp only [hst, not_false_eq_true, and_true, ne_eq]

theorem ych_resyncFailed (ch : Nat) (s : State) (j : Nat) : ych (resyncFailed ch s) j =
    if j = ch then { ych s ch with fails := (ych s ch).fails + 1, join := none } else ych s j := by
  unfold resyncFailed
  extract_lets failed tired
  have hfailed : ych failed j = if j = ch then { ych s ch with fails := (ych s ch).fails + 1, join := none } else ych s j :=
    ych_modYch ch (fun y => { y with fails := y.fails + 1, join := none }) s j
  clear_value failed
  have htired : ych tired j = ych failed j := by
    by_cases h : (ych failed ch).fails = 3
    · have hset : tired = raiseBit pgYoke 8 failed := if_pos h
      rw [hset, ych_raiseBit]
    · have hset : tired = failed := if_neg h
      rw [hset]
  clear_value tired
  exact htired.trans hfailed

/-- A request marks at most one channel as no longer asked for. -/
theorem ych_seekResync (s : State) (j : Nat) : ∃ b, ych (seekResync s) j = { ych s j with asked := b } := by
  unfold seekResync
  split
  · split
    · next ch _ _ =>
      rw [ych_sendRel, ych_modYch]
      split
      · next h =>
        rw [h]
        exact ⟨false, rfl⟩
      · exact ⟨(ych s j).asked, rfl⟩
    · exact ⟨(ych s j).asked, rfl⟩
  · exact ⟨(ych s j).asked, rfl⟩

/-- Frames that wait are not lost by a request. -/
theorem awaits_seekResync {m : YMsg} {s : State} (h : Awaits m s) : Awaits m (seekResync s) := by
  have sent : ∀ (m' : YMsg) (u : State), Awaits m u → Awaits m (sendRel m' u) := fun m' u hu => by
    obtain ⟨x, hx, hm⟩ := hu
    refine ⟨x, ?_, hm⟩
    rw [yoke_sendRel]
    exact List.mem_append_left _ hx
  unfold seekResync
  split
  · split
    · exact sent _ _ h
    · exact h
  · exact h

/-- The last record received stands. -/
structure LastKept (s t : State) : Prop where
  last : ∀ j, (ych t j).lastRx = (ych s j).lastRx

theorem LastKept.refl (s : State) : LastKept s s := ⟨fun _ => rfl⟩

theorem LastKept.trans {s t u : State} (h : LastKept s t) (g : LastKept t u) : LastKept s u := ⟨fun j => (g.last j).trans (h.last j)⟩

theorem LastKept.ite {s a b : State} {c : Prop} [Decidable c] (ha : LastKept s a) (hb : LastKept s b) : LastKept s (if c then a else b) := by
  split
  · exact ha
  · exact hb

theorem lastKept_modYch (ch : Nat) (f : YCh → YCh) (s : State) (hf : ∀ y, (f y).lastRx = y.lastRx := by exact fun _ => rfl) :
    LastKept s (modYch ch f s) where
  last j := by
    rw [ych_modYch]
    split
    · next h =>
      rw [h]
      exact hf _
    · rfl

theorem lastKept_diverge (ch c : Nat) (s : State) : LastKept s (diverge ch c s) where
  last j := by
    rw [ych_diverge]
    split
    · next h => rw [h]
    · rfl

theorem lastKept_relock (ch : Nat) (s : State) : LastKept s (relock ch s) where
  last j := by
    rw [ych_relock]
    split
    · next h => rw [h.1]
    · rfl

theorem lastKept_resyncFailed (ch : Nat) (s : State) : LastKept s (resyncFailed ch s) where
  last j := by
    rw [ych_resyncFailed]
    split
    · next h => rw [h]
    · rfl

theorem lastKept_bump (k n x : Nat) (s : State) : LastKept s (bump k n x s) := ⟨fun _ => rfl⟩

/-- The resync under way is over. -/
theorem lastKept_over (s : State) : LastKept s { s with yoke := { s.yoke with resyncCh := none, resyncStep := 0, resyncLeft := 0 } } :=
  ⟨fun _ => rfl⟩

theorem lastKept_of_yoke {s t : State} (h : t.yoke = s.yoke) : LastKept s t := ⟨fun j => by rw [ych, h, ← ych]⟩

/-! ## The comparison of two records -/

/-- The comparison counted, and a difference apart. -/
def comparison (c : Nat) (s : State) : State := if c = 0 then bump pgYoke 10 1 s else bump pgYoke 11 1 (bump pgYoke 10 1 s)

theorem talked_comparison (c : Nat) (s : State) : Talked [10, 11] s (comparison c s) :=
  .ite ((Talked.refl s).bumped (n := 10) (by decide) 1) (((Talked.refl s).bumped (n := 10) (by decide) 1).bumped (n := 11) (by decide) 1)

theorem compared_of_locked {ch : Nat} {s : State} (hst : (ych s ch).st = ysLocked) (n c : Nat) :
    compared ch n c s = if c = 0 then comparison c s else diverge ch c (comparison c s) := by
  unfold compared comparison
  extract_lets y one both
  exact if_pos hst

theorem talked_compared (ch n c : Nat) (s : State) : Talked [4, 5, 6, 10, 11] s (compared ch n c s) := by
  unfold compared
  extract_lets y one both
  have hboth : Talked [4, 5, 6, 10, 11] s both :=
    .ite ((Talked.refl s).bumped (n := 10) (by decide) 1) (((Talked.refl s).bumped (n := 10) (by decide) 1).bumped (n := 11) (by decide) 1)
  clear_value both
  refine hboth.trans ?_
  have failed : Talked [4, 5, 6, 10, 11] both (resyncFailed ch (diverge ch c both)) :=
    (talked_diverge (by decide) ch c both).trans (talked_resyncFailed (by decide) ch _)
  have verified : Talked [4, 5, 6, 10, 11] both (relock ch (modYch ch (fun y => { y with join := none }) both)) :=
    ((Talked.refl both).ych ..).trans (talked_relock ..)
  have ended : ∀ u : State, Talked [4, 5, 6, 10, 11] u { u with yoke := { u.yoke with resyncCh := none, resyncStep := 0, resyncLeft := 0 } } :=
    fun u => ⟨rfl, rfl, fun _ _ hb => hb, fun _ _ _ => rfl⟩
  split
  · exact .ite (.refl both) (talked_diverge (by decide) ..)
  split
  · exact .ite (.refl both) (.ite ((verified.bumped (n := 5) (by decide) 1).trans (ended _)) failed)
  split
  · exact .ite (.ite (talked_relock ..) (.ych (.refl both) ..)) (.ych (.refl both) ..)
  · exact .refl both

theorem lastKept_compared (ch n c : Nat) (s : State) : LastKept s (compared ch n c s) := by
  unfold compared
  extract_lets y one both
  have hboth : LastKept s both := .ite (lastKept_bump ..) ((lastKept_bump ..).trans (lastKept_bump ..))
  clear_value both
  refine hboth.trans ?_
  split
  · exact .ite (.refl both) (lastKept_diverge ..)
  split
  · refine .ite (.refl both) (.ite ?_ ((lastKept_diverge ..).trans (lastKept_resyncFailed ..)))
    exact (((lastKept_modYch ch _ both).trans (lastKept_relock ..)).trans (lastKept_bump ..)).trans (lastKept_over _)
  split
  · exact .ite (.ite (lastKept_relock ..) (lastKept_modYch ch _ both)) (lastKept_modYch ch _ both)
  · exact .refl both

theorem lastKept_sendVerdict (ch n : Nat) (s : State) : LastKept s (sendVerdict ch n s) := ⟨fun j => by rw [sendVerdict, ych_sendRel]⟩

theorem lastKept_seekResync (s : State) : LastKept s (seekResync s) where
  last j := by
    obtain ⟨b, hb⟩ := ych_seekResync s j
    rw [hb]

theorem lastKept_comparePair (ch : Nat) (s : State) : LastKept s (comparePair ch s) := by
  unfold comparePair
  extract_lets y
  split
  · exact .refl s
  split
  · exact .refl s
  · exact (lastKept_modYch ch _ s).trans ((lastKept_compared ..).trans ((lastKept_sendVerdict ..).trans (lastKept_seekResync _)))

theorem talked_sendVerdict {ns : List Nat} (ch n : Nat) (s : State) : Talked ns s (sendVerdict ch n s) := (Talked.refl s).sent nofun

theorem talked_comparePair (ch : Nat) (s : State) : Talked [4, 5, 6, 10, 11] s (comparePair ch s) := by
  unfold comparePair
  extract_lets y
  split
  · exact .refl s
  split
  · exact .refl s
  · exact (((Talked.refl s).ych ..).trans ((talked_compared ..).trans (talked_sendVerdict ..))).trans (talked_seekResync _)

/-- The one pair of records here is compared. -/
theorem comparePair_of_pair {ch : Nat} {s : State} {a b : Record} (hown : (ych s ch).own = [a]) (htheirs : (ych s ch).theirs = [b])
    (hpic : a.picture = b.picture) : comparePair ch s =
      seekResync (sendVerdict ch b.picture (compared ch b.picture (recordCause a b) (modYch ch (fun y => { y with own := [] }) s))) := by
  have hfind : (ych s ch).own.find? (fun x => (ych s ch).theirs.any (fun y => decide (y.picture = x.picture))) = some a := by
    rw [hown, htheirs]
    simp [hpic]
  have hpair : (ych s ch).theirs.find? (fun y => decide (y.picture = a.picture)) = some b := by
    rw [htheirs]
    simp [hpic]
  have hgone : modYch ch (fun y => { y with own := y.own.filter (fun r => decide (r.picture ≠ a.picture)) }) s = modYch ch (fun y => { y with own := [] }) s := by
    rw [modYch, modYch, hown]
    simp
  unfold comparePair
  extract_lets y
  rw [hfind]
  dsimp only
  rw [hpair]
  dsimp only
  rw [hgone, hpic]

theorem counted_diverge {ch : Nat} {s : State} (hst : (ych s ch).st ≠ ysDiverged) (c : Nat) :
    Counted 7 4 1 s (diverge ch c s) ∧ bitOf (page (diverge ch c s) 7).stat 6 = true := by
  have heq : diverge ch c s = bump pgYoke 4 1 (raiseBit pgYoke 6 (modYch ch (fun y => { y with st := ysDiverged, cause := c }) s)) := if_neg hst
  rw [heq]
  exact ⟨counted_event 7 4 6 (modYch ch (fun y => { y with st := ysDiverged, cause := c }) s), bit_event 7 4 (by decide) _⟩

theorem counted_comparison (c : Nat) (s : State) : Counted 7 10 1 s (comparison c s) ∧ (c ≠ 0 → Counted 7 11 1 s (comparison c s)) := by
  unfold comparison
  by_cases h : c = 0
  · rw [if_pos h]
    exact ⟨counted_bump_same .., fun hne => absurd h hne⟩
  · rw [if_neg h]
    exact ⟨counted_bump_other (counted_bump_same ..) (by decide), fun _ => counted_after_kept (counter_bump_other (by decide) 1 s) (counted_bump_same 7 11 1 (bump 7 10 1 s))⟩

/-- A LOCKED channel by the cause that a comparison shows. -/
def judged (ch c : Nat) (s : State) : State := if c = 0 then comparison c s else diverge ch c (comparison c s)

theorem judged_moves {ch c : Nat} {s : State} (hst : (ych s ch).st = ysLocked) : Counted 7 10 1 s (judged ch c s) ∧
    (ych (judged ch c s) ch).own = (ych s ch).own ∧ (c = 0 → (ych (judged ch c s) ch).st = ysLocked) ∧
    (c ≠ 0 → (ych (judged ch c s) ch).st = ysDiverged ∧ (ych (judged ch c s) ch).cause = c ∧ Counted 7 11 1 s (judged ch c s) ∧
      Counted 7 4 1 s (judged ch c s) ∧ bitOf (page (judged ch c s) 7).stat 6 = true) := by
  have hych : ych (comparison c s) ch = ych s ch := by
    unfold comparison
    split <;> rfl
  have hctr : counter (comparison c s) 7 4 = counter s 7 4 := (talked_comparison c s).ctr 4 (by decide) (by decide)
  obtain ⟨hten, heleven⟩ := counted_comparison c s
  unfold judged
  generalize comparison c s = u at hych hctr hten heleven ⊢
  by_cases h : c = 0
  · rw [if_pos h, hych]
    exact ⟨hten, rfl, fun _ => hst, fun hne => absurd h hne⟩
  · have hparts := counted_diverge (ch := ch) (s := u) (by rw [hych, hst]; decide) c
    have kept := talked_diverge (ns := [4]) (by decide) ch c u
    have hself : ych (diverge ch c u) ch = { ych u ch with st := ysDiverged, cause := c } := (ych_diverge ..).trans (if_pos rfl)
    rw [if_neg h, hself, hych]
    exact ⟨counted_of_kept hten (kept.ctr 10 (by decide) (by decide)), rfl, fun h0 => absurd h0 h, fun _ => ⟨rfl, rfl,
      counted_of_kept (heleven h) (kept.ctr 11 (by decide) (by decide)), counted_after_kept hctr hparts.1, hparts.2⟩⟩

/-- Two records of a LOCKED channel are compared (R371). -/
theorem comparePair_of_locked {ch : Nat} {s : State} {a b : Record} (hown : (ych s ch).own = [a]) (htheirs : (ych s ch).theirs = [b])
    (hpic : a.picture = b.picture) (hst : (ych s ch).st = ysLocked) :
    Counted 7 10 1 s (comparePair ch s) ∧ (ych (comparePair ch s) ch).own = [] ∧
      Awaits (.verdict ch (ych (comparePair ch s) ch).st (ych (comparePair ch s) ch).cause b.picture) (comparePair ch s) ∧
      (recordCause a b = 0 → (ych (comparePair ch s) ch).st = ysLocked) ∧
      (recordCause a b ≠ 0 → (ych (comparePair ch s) ch).st = ysDiverged ∧ (ych (comparePair ch s) ch).cause = recordCause a b ∧
        Counted 7 11 1 s (comparePair ch s) ∧ Counted 7 4 1 s (comparePair ch s) ∧ bitOf (page (comparePair ch s) 7).stat 6 = true) := by
  have hx : ych (modYch ch (fun y => { y with own := [] }) s) ch = { ych s ch with own := [] } := by rw [ych_modYch, if_pos rfl]
  have hxst : (ych (modYch ch (fun y => { y with own := [] }) s) ch).st = ysLocked := by
    rw [hx]
    exact hst
  obtain ⟨hten, howned, hsame, hdiffer⟩ := judged_moves (c := recordCause a b) hxst
  rw [hx] at howned
  rw [comparePair_of_pair hown htheirs hpic, compared_of_locked hxst, ← judged]
  have start : ∀ n y (u : State), Counted 7 n y (modYch ch (fun y => { y with own := [] }) s) u → Counted 7 n y s u := fun _ _ _ h => h
  generalize judged ch (recordCause a b) (modYch ch (fun y => { y with own := [] }) s) = v at hten howned hsame hdiffer ⊢
  have tail : Talked [] v (seekResync (sendVerdict ch b.picture v)) := (talked_sendVerdict ..).trans (talked_seekResync _)
  have hsent : Awaits (.verdict ch (ych v ch).st (ych v ch).cause b.picture) (seekResync (sendVerdict ch b.picture v)) :=
    awaits_seekResync (awaits_sendRel ..)
  obtain ⟨asks, hend⟩ := ych_seekResync (sendVerdict ch b.picture v) ch
  rw [sendVerdict, ych_sendRel] at hend
  rw [← sendVerdict] at hend
  generalize seekResync (sendVerdict ch b.picture v) = t at tail hsent hend ⊢
  have kept : ∀ n, n < 128 → counter t 7 n = counter v 7 n := fun n hn => tail.ctr n hn List.not_mem_nil
  rw [hend]
  refine ⟨counted_of_kept (start _ _ _ hten) (kept 10 (by decide)), howned, hsent, hsame, fun hne => ?_⟩
  obtain ⟨hst', hcause, heleven, hfour, hbit⟩ := hdiffer hne
  exact ⟨hst', hcause, counted_of_kept (start _ _ _ heleven) (kept 11 (by decide)), counted_of_kept (start _ _ _ hfour) (kept 4 (by decide)),
    tail.bits 7 6 hbit⟩

end Sys2Proof.Laws
end

section
/-! Records and verdicts that arrive (R369–R372): what the standby and the active make of them. -/

namespace Sys2Proof.Laws

open Sys2Proof Sys2Proof.Machine

/-! ## Work that wakes -/

theorem workSettled_recordEnded (d : Nat) (q : Nat × Nat × Nat × Nat × Nat → Bool) (s : State) : WorkSettled s (recordEnded d q s) :=
  (workSettled_modDsp ..).trans (.foldl (fun _ _ => workSettled_countWait ..) _ _)

theorem workSettled_releaseItems (d n : Nat) (s : State) : WorkSettled s (releaseItems d n s) := by
  induction n generalizing s with
  | zero => exact .refl s
  | succ n ih =>
    rw [releaseItems]
    split
    · exact .refl s
    · exact ((workSettled_modDsp ..).trans (workSettled_bump ..)).trans (ih _)

theorem workSettled_noteReady (d : Nat) (s : State) : WorkSettled s (noteReady d s) := by
  unfold noteReady
  exact (workSettled_recordEnded ..).trans (workSettled_modDsp ..)

theorem workSettled_noteUnits (d : Nat) (s : State) : WorkSettled s (noteUnits d s) := by
  refine .foldl (fun s u => ?_) _ s
  dsimp only
  split
  · exact .refl s
  · refine .ite (.refl s) ?_
    exact .trans (.ite (workSettled_bump ..) (.refl s)) (workSettled_modDsp ..)

theorem workSettled_urgent (d : Nat) (s : State) : WorkSettled s (urgent d s) := (workSettled_raiseBit ..).trans (workSettled_bump ..)

theorem workSettled_wakeDie (d : Nat) (s : State) : WorkSettled s (wakeDie d s) := by
  refine .trans ((((workSettled_modDsp ..).trans (workSettled_releaseItems d 512 _)).trans (workSettled_noteReady ..)).trans
    (workSettled_noteUnits ..)) (.foldl (fun s i => ?_) _ _)
  split
  · exact .refl s
  · exact .ite (.refl s) (.ite ((workSettled_modDsp ..).trans (workSettled_urgent ..)) (workSettled_modDsp ..))

theorem workSettled_wakeItems (s : State) : WorkSettled s (wakeItems s) := .foldl (fun s d => workSettled_wakeDie d s) _ s

/-! ## Channels as work is dropped -/

theorem chans_countWait (d : Nat) (a : Nat × Nat × Nat × Nat × Nat) (b : Nat) (s : State) : (countWait d a b s).chans = s.chans := by
  unfold countWait
  split <;> rfl

theorem chans_dropItems (ch : Nat) (q : Nat → Bool) (s : State) : (dropItems ch q s).chans = s.chans := by
  have ended : ∀ d q (u : State), (recordEnded d q u).chans = u.chans := fun d q u =>
    foldl_keeps (g := State.chans) (fun _ _ => chans_countWait ..) _ _
  have served : ∀ d q (u : State), (recordServed d q u).chans = u.chans := fun d q u => by
    refine foldl_keeps (g := State.chans) (fun u i => ?_) _ u
    exact chans_countWait ..
  unfold dropItems
  exact (served ..).trans (ended ..)

theorem chan_of_chans {s t : State} (h : t.chans = s.chans) (ch : Nat) : chan t ch = chan s ch := by rw [chan, h, ← chan]

theorem st_modChan (ch : Nat) (f : Chan → Chan) (s : State) (j : Nat) (hf : ∀ c, (f c).st = c.st := by exact fun _ => rfl) :
    (chan (modChan ch f s) j).st = (chan s j).st := by
  rw [chan_modChan]
  split
  · next h =>
    rw [h]
    exact hf _
  · rfl

/-- A channel that does not drain keeps its yoke state as pictures of it go. -/
theorem lastKept_settle {ch : Nat} {s : State} (hst : (chan s ch).st ≠ .draining) : LastKept s (settle ch s) := by
  unfold settle
  extract_lets gone dropped counted left
  have hdropped : LastKept s dropped ∧ dropped.chans = s.chans := by
    by_cases h : gone.isEmpty = true
    · have hset : dropped = s := if_pos h
      rw [hset]
      exact ⟨.refl s, rfl⟩
    · have hset : dropped = _ := if_neg h
      rw [hset]
      exact ⟨lastKept_of_yoke (yokeStands_dropItems ..).yoke, chans_dropItems ..⟩
  clear_value dropped
  have hleft : LastKept s left := hdropped.1.trans ⟨fun _ => rfl⟩
  have hstill : (chan left ch).st = (chan s ch).st := by
    rw [← chan_of_chans hdropped.2 ch]
    exact st_modChan ch _ counted ch
  clear_value left
  rw [if_neg fun h => hst (hstill.symm.trans h.1)]
  exact hleft

/-! ## Records -/

/-- From `s` to `t` a record has acted: pictures may have ended, and the parts have talked. -/
def RecordMoved (s t : State) : Prop :=
  t = { s with out := t.out, pages := t.pages, ctrs := t.ctrs, chans := t.chans, svcs := t.svcs, dsps := t.dsps, yoke := t.yoke, ic := t.ic
               lanes := t.lanes }

theorem RecordMoved.refl (s : State) : RecordMoved s s := rfl

theorem RecordMoved.trans {s t u : State} (h : RecordMoved s t) (g : RecordMoved t u) : RecordMoved s u := by
  rw [RecordMoved] at h g ⊢
  generalize u = v at g
  rw [g, h]

theorem WorkSettled.recordMoved {s t : State} (h : WorkSettled s t) : RecordMoved s t := by
  rw [WorkSettled] at h
  rw [RecordMoved]
  generalize t = u at h
  rw [h]

theorem Talked.recordMoved {ns : List Nat} {s t : State} (h : Talked ns s t) : RecordMoved s t := by
  have moved := h.frame
  rw [RecordMoved]
  clear h
  generalize t = u at moved
  rw [moved]

/-- The services' counters as the record gives them. -/
def servicesTaken (ch : Nat) (r : Record) (s : State) : State :=
  (List.range 8).foldl (fun (s : State) i =>
    match r.services[i]? with
    | none => s
    | some e => modSvc ((chSvcs ch).getD i 0) (fun x => { x with
        seq := e.seqNext, fecCol := e.fecCol, fecRow := e.fecRow, fecPos := e.fecPos, ccVideo := e.cc / 16, ccPmt := e.cc % 16
        ccPat := e.patCc }) s) s

theorem servicesTaken_frame (ch : Nat) (r : Record) (s : State) : servicesTaken ch r s = { s with svcs := (servicesTaken ch r s).svcs } := by
  unfold servicesTaken
  generalize List.range 8 = l
  induction l generalizing s with
  | nil => rfl
  | cons i l ih =>
    rw [List.foldl_cons, ih]
    split <;> rfl

theorem takeCounters_moves (ch : Nat) (r : Record) (s : State) :
    RecordMoved s (takeCounters ch r s) ∧ ((chan s ch).st ≠ .draining → LastKept s (takeCounters ch r s)) := by
  unfold takeCounters
  extract_lets numbered ended summed
  have hnumbered : numbered = { s with svcs := numbered.svcs } := servicesTaken_frame ch r s
  clear_value numbered
  have hsummed : RecordMoved numbered summed ∧ LastKept numbered summed := ⟨rfl, ⟨fun _ => rfl⟩⟩
  have hstill : (chan summed ch).st = (chan numbered ch).st := by
    have hended : (chan ended ch).st = (chan numbered ch).st := st_modChan ch _ numbered ch
    clear_value ended
    refine (st_modChan ch _ ended ch fun c => ?_).trans hended
    dsimp only
    split <;> rfl
  have hwas : (chan numbered ch).st = (chan s ch).st := by
    rw [hnumbered]
    rfl
  have hmoved : RecordMoved s numbered := by
    rw [RecordMoved]
    generalize numbered = u at hnumbered
    rw [hnumbered]
  have hlast : LastKept s numbered := lastKept_of_yoke (by rw [hnumbered])
  clear_value summed
  refine ⟨(hmoved.trans hsummed.1).trans ((workSettled_settle ..).recordMoved.trans (workSettled_wakeItems _).recordMoved), fun hst => ?_⟩
  have settled : LastKept summed (settle ch summed) := lastKept_settle (by rw [hstill, hwas]; exact hst)
  exact (hlast.trans hsummed.2).trans (settled.trans (lastKept_of_yoke (yokeStands_wakeItems _).yoke))

/-- The record noted as the last one received. -/
def recordNoted (r : Record) (s : State) : State :=
  modYch r.channel (fun y => { y with
    theirs := (y.theirs.filter (fun b => decide (b.picture ≠ r.picture))).drop (y.theirs.length - 15) ++ [r], lastRx := some r }) s

section

variable {s : State} {r : Record}

theorem theirRecord_of_standby (hrole : s.yoke.role = roleStandby) : theirRecord r s = comparePair r.channel
    (if (ych (recordNoted r s) r.channel).st = ysVerify ∧ (ych (recordNoted r s) r.channel).join = some (r.picture + 1)
      then takeCounters r.channel r (recordNoted r s) else recordNoted r s) := by
  unfold theirRecord
  extract_lets ch noted taken
  exact if_neg fun h => h hrole

theorem theirRecord_of_other (hrole : s.yoke.role ≠ roleStandby) : theirRecord r s = s := if_pos hrole

theorem ych_recordNoted : ych (recordNoted r s) r.channel = { ych s r.channel with
    theirs := ((ych s r.channel).theirs.filter (fun b => decide (b.picture ≠ r.picture))).drop ((ych s r.channel).theirs.length - 15) ++ [r]
    lastRx := some r } :=
  (ych_modYch r.channel _ s r.channel).trans (if_pos rfl)

theorem theirRecord_moves (hrole : s.yoke.role = roleStandby) : RecordMoved s (theirRecord r s) ∧
    ((chan s r.channel).st ≠ .draining → (ych (theirRecord r s) r.channel).lastRx = some r) := by
  have hnoted : (ych (recordNoted r s) r.channel).lastRx = some r := by rw [ych_recordNoted]
  have start : RecordMoved s (recordNoted r s) := rfl
  have hchan : chan (recordNoted r s) r.channel = chan s r.channel := rfl
  rw [theirRecord_of_standby hrole]
  generalize recordNoted r s = w at hnoted start hchan ⊢
  obtain ⟨htaken, hlast⟩ := takeCounters_moves r.channel r w
  rw [hchan] at hlast
  generalize takeCounters r.channel r w = u at htaken hlast
  split
  · exact ⟨(start.trans htaken).trans (talked_comparePair ..).recordMoved,
      fun hst => ((lastKept_comparePair ..).last _).trans (((hlast hst).last _).trans hnoted)⟩
  · exact ⟨start.trans (talked_comparePair ..).recordMoved, fun _ => ((lastKept_comparePair ..).last _).trans hnoted⟩

/-- A record that meets this part's own of the same picture, in a LOCKED channel (R371). -/
theorem theirRecord_of_locked {a : Record} (hrole : s.yoke.role = roleStandby) (hown : (ych s r.channel).own = [a])
    (htheirs : (ych s r.channel).theirs = []) (hpic : a.picture = r.picture) (hst : (ych s r.channel).st = ysLocked) :
    Counted 7 10 1 s (theirRecord r s) ∧ (ych (theirRecord r s) r.channel).own = [] ∧
      Awaits (.verdict r.channel (ych (theirRecord r s) r.channel).st (ych (theirRecord r s) r.channel).cause r.picture) (theirRecord r s) ∧
      (recordCause a r = 0 → (ych (theirRecord r s) r.channel).st = ysLocked) ∧
      (recordCause a r ≠ 0 → (ych (theirRecord r s) r.channel).st = ysDiverged ∧ (ych (theirRecord r s) r.channel).cause = recordCause a r ∧
        Counted 7 11 1 s (theirRecord r s) ∧ Counted 7 4 1 s (theirRecord r s) ∧ bitOf (page (theirRecord r s) 7).stat 6 = true) := by
  have hnoted : ych (recordNoted r s) r.channel = { ych s r.channel with theirs := [r], lastRx := some r } := by
    rw [ych_recordNoted, htheirs]
    rfl
  have hlocked : (ych (recordNoted r s) r.channel).st = ysLocked := by
    rw [hnoted]
    exact hst
  have hno : ¬((ych (recordNoted r s) r.channel).st = ysVerify ∧ (ych (recordNoted r s) r.channel).join = some (r.picture + 1)) := by
    rw [hlocked]
    exact fun h => absurd h.1 (by decide)
  rw [theirRecord_of_standby hrole, if_neg hno]
  exact comparePair_of_locked (by rw [hnoted]; exact hown) (by rw [hnoted]) hpic hlocked

end

/-! ## Verdicts -/

/-- From `s` to `t` flags, counters and the yoke's own state have moved. -/
def YokeNoted (s t : State) : Prop := t = { s with pages := t.pages, ctrs := t.ctrs, yoke := t.yoke, ic := t.ic }

theorem YokeNoted.refl (s : State) : YokeNoted s s := rfl

theorem YokeNoted.trans {s t u : State} (h : YokeNoted s t) (g : YokeNoted t u) : YokeNoted s u := by
  rw [YokeNoted] at h g ⊢
  generalize u = v at g
  rw [g, h]

theorem YokeNoted.ite {s a b : State} {c : Prop} [Decidable c] (ha : YokeNoted s a) (hb : YokeNoted s b) : YokeNoted s (if c then a else b) := by
  split
  · exact ha
  · exact hb

theorem yokeNoted_modYch (ch : Nat) (f : YCh → YCh) (s : State) : YokeNoted s (modYch ch f s) := rfl

theorem yokeNoted_yoke (y : Yoke) (s : State) : YokeNoted s { s with yoke := y } := rfl

theorem yokeNoted_bump (k n x : Nat) (s : State) : YokeNoted s (bump k n x s) := rfl

theorem yokeNoted_raiseBit (k i : Nat) (s : State) : YokeNoted s (raiseBit k i s) := by
  have moved := raiseBit_frame k i s
  rw [YokeNoted]
  generalize raiseBit k i s = t at moved
  rw [moved]

theorem yokeNoted_diverge (ch c : Nat) (s : State) : YokeNoted s (diverge ch c s) :=
  .ite (yokeNoted_modYch ..) (((yokeNoted_modYch ..).trans (yokeNoted_raiseBit ..)).trans (yokeNoted_bump ..))

theorem yokeNoted_relock (ch : Nat) (s : State) : YokeNoted s (relock ch s) :=
  .ite (.refl s) ((yokeNoted_modYch ..).trans (yokeNoted_raiseBit ..))

theorem yokeNoted_resyncFailed (ch : Nat) (s : State) : YokeNoted s (resyncFailed ch s) := by
  unfold resyncFailed
  extract_lets failed tired
  have hfailed : YokeNoted s failed := (yokeNoted_modYch ..).trans (yokeNoted_bump ..)
  clear_value failed
  have htired : YokeNoted failed tired := .ite (yokeNoted_raiseBit ..) (.refl failed)
  clear_value tired
  exact (hfailed.trans htired).trans (yokeNoted_yoke ..)

section

variable {s : State} {ch : Nat}

theorem yokeNoted_verdictOp (ch st c : Nat) (s : State) : YokeNoted s (verdictOp ch st c s) := by
  unfold verdictOp
  extract_lets was u
  have hu : YokeNoted s u := yokeNoted_relock ..
  clear_value u
  refine .ite (.refl s) (.ite (.ite ?_ hu) (.ite (.ite ?_ (yokeNoted_diverge ..)) (yokeNoted_modYch ..)))
  · exact (hu.trans (yokeNoted_yoke ..)).trans (yokeNoted_bump ..)
  · exact (yokeNoted_diverge ..).trans (yokeNoted_resyncFailed ..)

/-- The standby says that the channel is LOCKED. -/
theorem verdictOp_of_locked (hrole : s.yoke.role = roleActive) (c : Nat) : (ych (verdictOp ch ysLocked c s) ch).st = ysLocked ∧
    ((ych s ch).st ≠ ysLocked → bitOf (page (verdictOp ch ysLocked c s) 7).stat 7 = true) ∧
    ((ych s ch).st = ysVerify → Counted 7 5 1 s (verdictOp ch ysLocked c s)) := by
  have heq : verdictOp ch ysLocked c s = if (ych s ch).st = ysVerify then
        bump pgYoke 5 1 { relock ch s with yoke := { (relock ch s).yoke with resyncCh := none, resyncStep := 0 } }
      else relock ch s := (if_neg fun h => h hrole).trans (if_pos rfl)
  have hlocked : (ych (relock ch s) ch).st = ysLocked := by
    rw [ych_relock]
    split
    · rfl
    · next h => exact not_not.1 fun hne => h ⟨rfl, hne⟩
  have hbit : (ych s ch).st ≠ ysLocked → bitOf (page (relock ch s) 7).stat 7 = true := fun hne => by
    have hraise : relock ch s = raiseBit pgYoke 7 _ := if_neg hne
    rw [hraise]
    exact bitOf_of_struck (by decide) (struck_raiseBit _ (by decide) _)
  have hctr : counter (relock ch s) 7 5 = counter s 7 5 := (talked_relock (ns := []) ch s).ctr 5 (by decide) List.not_mem_nil
  rw [heq]
  generalize relock ch s = u at hlocked hbit hctr ⊢
  split
  · exact ⟨hlocked, hbit, fun _ => counted_after_kept hctr (counted_bump_same 7 5 1 u)⟩
  · next h => exact ⟨hlocked, hbit, fun hv => absurd hv h⟩

/-- The standby says that the channel is DIVERGED. -/
theorem verdictOp_of_diverged (hrole : s.yoke.role = roleActive) (c : Nat) : (ych (verdictOp ch ysDiverged c s) ch).st = ysDiverged ∧
    (ych (verdictOp ch ysDiverged c s) ch).cause = c ∧
    ((ych s ch).st ≠ ysDiverged → bitOf (page (verdictOp ch ysDiverged c s) 7).stat 6 = true ∧ Counted 7 4 1 s (verdictOp ch ysDiverged c s)) ∧
    ((ych s ch).st = ysVerify → (ych (verdictOp ch ysDiverged c s) ch).fails = (ych s ch).fails + 1 ∧
      (verdictOp ch ysDiverged c s).yoke.resyncCh = none) ∧
    (∀ k, k ≠ ch → ych (verdictOp ch ysDiverged c s) k = ych s k) := by
  have heq : verdictOp ch ysDiverged c s = if (ych s ch).st = ysVerify then resyncFailed ch (diverge ch c s) else diverge ch c s :=
    (if_neg fun h => h hrole).trans ((if_neg (by decide)).trans (if_pos rfl))
  have hself : ych (diverge ch c s) ch = { ych s ch with st := ysDiverged, cause := c } := (ych_diverge ..).trans (if_pos rfl)
  have hother : ∀ k, k ≠ ch → ych (diverge ch c s) k = ych s k := fun k hk => (ych_diverge ..).trans (if_neg hk)
  have hparts : (ych s ch).st ≠ ysDiverged → Counted 7 4 1 s (diverge ch c s) ∧ bitOf (page (diverge ch c s) 7).stat 6 = true := fun hst =>
    counted_diverge hst c
  rw [heq]
  generalize diverge ch c s = u at hself hother hparts ⊢
  split
  · have failed := talked_resyncFailed (ns := [6]) (by decide) ch u
    have hfailed : ych (resyncFailed ch u) ch = { ych u ch with fails := (ych u ch).fails + 1, join := none } := (ych_resyncFailed ..).trans (if_pos rfl)
    have hkept : ∀ k, k ≠ ch → ych (resyncFailed ch u) k = ych u k := fun k hk => (ych_resyncFailed ..).trans (if_neg hk)
    have hover : (resyncFailed ch u).yoke.resyncCh = none := rfl
    generalize resyncFailed ch u = v at failed hfailed hkept hover ⊢
    rw [hfailed, hself]
    refine ⟨rfl, rfl, fun hst => ?_, fun _ => ⟨rfl, hover⟩, fun k hk => (hkept k hk).trans (hother k hk)⟩
    obtain ⟨hfour, hbit⟩ := hparts hst
    exact ⟨failed.bits 7 6 hbit, counted_of_kept hfour (failed.ctr 4 (by decide) (by decide))⟩
  · next h =>
    rw [hself]
    exact ⟨rfl, rfl, fun hst => (hparts hst).symm, fun hv => absurd hv h, hother⟩

end

end Sys2Proof.Laws
end

section
/-! The steps of a resync (R373–R375): a request, the checkpoint, the join picture, an abort. -/

namespace Sys2Proof.Laws

open Sys2Proof Sys2Proof.Machine

/-! ## Frames of a resync -/

/-- The state that has taken a frame of header `h` in its turn. -/
def taken (h : YHdr) (s : State) : State := { s with yoke := takenTurn h s.yoke }

/-- A reliable frame that comes in its turn acts on the state that has taken it. -/
theorem exec_inTurn {c : Instr} {h : YHdr} {s : State} (hrun : inReset s = false) (hh : relHeader c = some h)
    (hch : ∀ ch, relChan c = some ch → ch < 32 * dies s) (hturn : InTurn s h) :
    exec c s = .next (deliverFrame c (taken h s)) := by
  rw [exec_of_relHeader hrun hh hch, rxRel_of_inTurn hturn, taken]

/-! ## The checkpoint -/

/-- From `s` to `t` waiting times of work have been counted. -/
def WorkDropped (s t : State) : Prop := t = { s with ctrs := t.ctrs, dsps := t.dsps }

theorem WorkDropped.trans {s t u : State} (h : WorkDropped s t) (g : WorkDropped t u) : WorkDropped s u := by
  rw [WorkDropped] at h g ⊢
  generalize u = v at g
  rw [g, h]

theorem WorkDropped.foldl {α : Type} {f : State → α → State} (h : ∀ s a, WorkDropped s (f s a)) (l : List α) (s : State) :
    WorkDropped s (l.foldl f s) := by
  induction l generalizing s with
  | nil => exact rfl
  | cons a l ih => exact (h s a).trans (ih (f s a))

theorem workDropped_modDsp (d : Nat) (f : Dsp → Dsp) (s : State) : WorkDropped s (modDsp d f s) := rfl

theorem workDropped_countWait (d : Nat) (a : Nat × Nat × Nat × Nat × Nat) (b : Nat) (s : State) : WorkDropped s (countWait d a b s) := by
  unfold countWait
  split <;> rfl

theorem workDropped_dropItems (ch : Nat) (q : Nat → Bool) (s : State) : WorkDropped s (dropItems ch q s) := by
  have ended : ∀ d q (u : State), WorkDropped u (recordEnded d q u) := fun _ _ _ =>
    (workDropped_modDsp ..).trans (.foldl (fun _ _ => workDropped_countWait ..) _ _)
  have served : ∀ d q (u : State), WorkDropped u (recordServed d q u) := fun d q u => by
    refine .foldl (fun u i => ?_) _ u
    exact workDropped_countWait ..
  unfold dropItems
  exact ((ended ..).trans (served ..)).trans (workDropped_modDsp ..)

theorem foldl_modSvc_frame (f : Svc → Svc) (l : List Nat) (s : State) :
    l.foldl (fun s v => modSvc v f s) s = { s with svcs := (l.foldl (fun s v => modSvc v f s) s).svcs } := by
  induction l generalizing s with
  | nil => rfl
  | cons v l ih =>
    rw [List.foldl_cons, ih]
    rfl

/-- Pictures that go with their items and packets. -/
theorem dropPics_moves (ch : Nat) (q : Nat → Bool) (s : State) :
    dropPics ch q s = { s with ctrs := (dropPics ch q s).ctrs, chans := (dropPics ch q s).chans, svcs := (dropPics ch q s).svcs
                               dsps := (dropPics ch q s).dsps } ∧
      (chan (dropPics ch q s) ch).pics = (chan s ch).pics.filter (fun p => !q p.n) := by
  unfold dropPics
  extract_lets gone dropped
  have hgone : (chan gone ch).pics = (chan s ch).pics.filter (fun p => !q p.n) := by
    have hset : chan gone ch = _ := (chan_modChan ..).trans (if_pos rfl)
    rw [hset]
  have hstart : gone = { s with chans := gone.chans } := rfl
  clear_value gone
  have hdropped : WorkDropped gone dropped := workDropped_dropItems ..
  have hchans : dropped.chans = gone.chans := chans_dropItems ..
  clear_value dropped
  have hsvcs := foldl_modSvc_frame (fun x => { x with queue := x.queue.filter (fun p => !q p.n) }) (chSvcs ch) dropped
  generalize (chSvcs ch).foldl (fun s v => modSvc v (fun x => { x with queue := x.queue.filter (fun p => !q p.n) }) s) dropped = t at hsvcs ⊢
  refine ⟨?_, ?_⟩
  · rw [WorkDropped] at hdropped
    generalize t = a at hsvcs ⊢
    generalize dropped = b at hdropped hsvcs
    rw [hsvcs, hdropped, hstart]
  · rw [chan_of_chans (show t.chans = gone.chans by rw [hsvcs]; exact hchans)]
    exact hgone

section

variable {s : State} {ch : Nat}

/-- The standby stops coding the channel from the checkpoint's picture on (R374). -/
theorem checkpointTaken_moves (hrole : s.yoke.role = roleStandby) (hunder : s.yoke.resyncCh = some ch) (pins n : Nat) :
    (checkpointTakenOp ch pins n s).yoke.resyncStep = 2 ∧ (ych (checkpointTakenOp ch pins n s) ch).st = ysResync ∧
      (checkpointTakenOp ch pins n s).yoke.resyncLeft = ones (BitVec.ofNat 32 pins) ∧ (ych (checkpointTakenOp ch pins n s) ch).own = [] ∧
      (ych (checkpointTakenOp ch pins n s) ch).join = none ∧
      (chan (checkpointTakenOp ch pins n s) ch).pics = (chan s ch).pics.filter (fun p => decide (p.n < n)) ∧
      checkpointTakenOp ch pins n s = { s with
        ctrs := (checkpointTakenOp ch pins n s).ctrs, chans := (checkpointTakenOp ch pins n s).chans
        svcs := (checkpointTakenOp ch pins n s).svcs, dsps := (checkpointTakenOp ch pins n s).dsps
        yoke := (checkpointTakenOp ch pins n s).yoke } := by
  unfold checkpointTakenOp
  extract_lets marked y stepped
  have hself : ych stepped ch = { ych s ch with st := ysResync, join := none, own := [] } :=
    (ych_modYch ch (fun y => { y with st := ysResync, join := none, own := [] }) s ch).trans (if_pos rfl)
  have hstart : stepped = { s with yoke := stepped.yoke } := rfl
  have hstep : stepped.yoke.resyncStep = 2 ∧ stepped.yoke.resyncLeft = ones (BitVec.ofNat 32 pins) := ⟨rfl, rfl⟩
  have hchan : chan stepped ch = chan s ch := rfl
  clear_value stepped
  rw [if_pos ⟨hrole, hunder⟩]
  obtain ⟨hframe, hpics⟩ := dropPics_moves ch (fun m => decide (n ≤ m)) stepped
  have hyoke := (yokeStands_dropPics ch (fun m => decide (n ≤ m)) stepped).yoke
  generalize dropPics ch (fun m => decide (n ≤ m)) stepped = t at hframe hpics hyoke ⊢
  have hych : ych t ch = ych stepped ch := by rw [ych, hyoke, ← ych]
  rw [hyoke, hych, hself]
  refine ⟨hstep.1, rfl, hstep.2, rfl, rfl, ?_, ?_⟩
  · rw [hpics, hchan]
    refine List.filter_congr fun p _ => ?_
    rw [← decide_not, decide_eq_decide]
    exact Nat.not_le
  · rw [← hyoke]
    generalize t = a at hframe ⊢
    rw [hframe, hstart]

/-! ## The end of a resync -/

theorem ych_releaseCkpt (ch : Nat) (s : State) (j : Nat) : ych (releaseCkpt ch s) j = ych s j := by
  unfold releaseCkpt
  split <;> rfl

theorem counted_resyncFailed (ch : Nat) (s : State) : Counted 7 6 1 s (resyncFailed ch s) := by
  unfold resyncFailed
  extract_lets failed tired
  have hfailed : Counted 7 6 1 s failed := counted_after_kept rfl (counted_bump_same 7 6 1 (modYch ch (fun y => { y with fails := y.fails + 1, join := none }) s))
  clear_value failed
  have htired : counter tired 7 6 = counter failed 7 6 := by
    by_cases h : (ych failed ch).fails = 3
    · have hset : tired = raiseBit pgYoke 8 failed := if_pos h
      rw [hset]
      exact counter_raiseBit ..
    · have hset : tired = failed := if_neg h
      rw [hset]
  clear_value tired
  exact counted_of_kept hfailed htired

/-- The channel under resync DIVERGED, its resync failed once more. -/
theorem resyncGone_moves (ch : Nat) (s : State) : (resyncGone ch s).yoke.resyncCh = none ∧ (resyncGone ch s).yoke.resyncStep = 0 ∧
    (ych (resyncGone ch s) ch).st = ysDiverged ∧ (ych (resyncGone ch s) ch).fails = (ych s ch).fails + 1 ∧
    Counted 7 6 1 s (resyncGone ch s) ∧
    resyncGone ch s = { s with pages := (resyncGone ch s).pages, ctrs := (resyncGone ch s).ctrs, chans := (resyncGone ch s).chans
                               yoke := (resyncGone ch s).yoke, ic := (resyncGone ch s).ic } := by
  have hself : ych (diverge ch (ych s ch).cause s) ch = { ych s ch with st := ysDiverged } := (ych_diverge ..).trans (if_pos rfl)
  have hctr : counter (diverge ch (ych s ch).cause s) 7 6 = counter s 7 6 :=
    (talked_diverge (ns := [4]) (by decide) ch _ s).ctr 6 (by decide) (by decide)
  have hframe := yokeNoted_diverge ch (ych s ch).cause s
  unfold resyncGone
  generalize diverge ch (ych s ch).cause s = u at hself hctr hframe ⊢
  have hfailed : ych (resyncFailed ch u) ch = { ych u ch with fails := (ych u ch).fails + 1, join := none } := (ych_resyncFailed ..).trans (if_pos rfl)
  have hover : (resyncFailed ch u).yoke.resyncCh = none ∧ (resyncFailed ch u).yoke.resyncStep = 0 := ⟨rfl, rfl⟩
  have hcount := counted_resyncFailed ch u
  have hmoved := hframe.trans (yokeNoted_resyncFailed ch u)
  generalize resyncFailed ch u = v at hfailed hover hcount hmoved ⊢
  have hych : ych (modChan ch (fun c => { c with ckptWant := false }) v) ch = ych v ch := rfl
  rw [hych, hfailed, hself]
  refine ⟨hover.1, hover.2, rfl, rfl, counted_after_kept hctr hcount, ?_⟩
  rw [YokeNoted] at hmoved
  generalize v = a at hmoved ⊢
  rw [hmoved]
  rfl

/-- A standby codes an IDR picture after an abort, and its checkpoint goes. -/
def resyncReleased (ch : Nat) (s : State) : State :=
  let t := modChan ch (fun c => { c with forceIdr := c.forceIdr || decide (s.yoke.role = roleStandby) }) s
  if (chan t ch).ckptSeat then t else releaseCkpt ch t

theorem resyncReleased_moves (ch : Nat) (s : State) : (resyncReleased ch s).yoke = s.yoke ∧ (resyncReleased ch s).ctrs = s.ctrs ∧
    (s.yoke.role = roleStandby → (chan (resyncReleased ch s) ch).forceIdr = true) ∧
    resyncReleased ch s = { s with chans := (resyncReleased ch s).chans } := by
  unfold resyncReleased
  extract_lets u
  have hforce : s.yoke.role = roleStandby → (chan u ch).forceIdr = true := fun h => by
    have hset : chan u ch = _ := (chan_modChan ..).trans (if_pos rfl)
    rw [hset, h, decide_eq_true rfl]
    exact Bool.or_true _
  have hstart : u = { s with chans := u.chans } := rfl
  have hyoke : u.yoke = s.yoke ∧ u.ctrs = s.ctrs := ⟨rfl, rfl⟩
  clear_value u
  unfold releaseCkpt
  split
  · exact ⟨hyoke.1, hyoke.2, hforce, hstart⟩
  split
  · refine ⟨hyoke.1, hyoke.2, fun h => ?_, ?_⟩
    · have hset : chan (modChan ch unpinStalls u) ch = unpinStalls (chan u ch) := (chan_modChan ..).trans (if_pos rfl)
      rw [hset]
      exact hforce h
    · generalize u = a at hstart ⊢
      rw [hstart]
      rfl
  · exact ⟨hyoke.1, hyoke.2, hforce, hstart⟩

/-- An abort that the partner has told of (R375). -/
theorem abortResync_moves (hunder : s.yoke.resyncCh = some ch) :
    (abortResync false s).yoke.resyncCh = none ∧ (abortResync false s).yoke.resyncStep = 0 ∧
      (ych (abortResync false s) ch).st = ysDiverged ∧ (ych (abortResync false s) ch).fails = (ych s ch).fails + 1 ∧
      Counted 7 6 1 s (abortResync false s) ∧ (s.yoke.role = roleStandby → (chan (abortResync false s) ch).forceIdr = true) ∧
      abortResync false s = { s with pages := (abortResync false s).pages, ctrs := (abortResync false s).ctrs
                                     chans := (abortResync false s).chans, yoke := (abortResync false s).yoke, ic := (abortResync false s).ic } := by
  have heq : abortResync false s = resyncReleased ch (resyncGone ch s) := by
    unfold abortResync resyncReleased
    rw [resyncAbort_of_under hunder, hunder]
    rfl
  have hgone := resyncGone_moves ch s
  have hrole : (resyncGone ch s).yoke.role = s.yoke.role := (talked_resyncGone (ns := [4, 6]) (by decide) (by decide) ch s).stands.1
  rw [heq]
  generalize resyncGone ch s = g at hgone hrole ⊢
  obtain ⟨hnone, hstep, hst, hfails, hcount, hframe⟩ := hgone
  obtain ⟨hyoke, hctrs, hforce, hreleased⟩ := resyncReleased_moves ch g
  generalize resyncReleased ch g = t at hyoke hctrs hforce hreleased ⊢
  have hych : ych t ch = ych g ch := by rw [ych, hyoke, ← ych]
  have hctr : counter t 7 6 = counter g 7 6 := by rw [counter, hctrs, ← counter]
  rw [hych, hyoke]
  refine ⟨hnone, hstep, hst, hfails, counted_of_kept hcount hctr, fun h => hforce (hrole.trans h), ?_⟩
  generalize t = a at hreleased ⊢
  rw [hreleased, hframe]

end

/-! ## A request -/

theorem mem_of_get_ne {α : Type} (d : Nat → α) {t : Tbl α} {k : Nat} (h : Tbl.get d t k ≠ d k) : (k, Tbl.get d t k) ∈ t := by
  induction t with
  | nil => exact absurd rfl h
  | cons e t ih =>
    obtain ⟨j, v⟩ := e
    have hget : Tbl.get d ((j, v) :: t) k = if k = j then v else Tbl.get d t k := rfl
    by_cases hk : k = j
    · rw [hget, if_pos hk, hk]
      exact List.mem_cons_self
    · rw [hget, if_neg hk] at h ⊢
      exact List.mem_cons_of_mem _ (ih h)

/-- A standby that has been asked requests a resync (R373). -/
theorem seekResync_of_asked {s : State} {ch : Nat} (hrole : s.yoke.role = roleStandby) (hnone : s.yoke.resyncCh = none)
    (hlink : s.yoke.linkLost = false) (hasked : (ych s ch).asked = true) :
    ∃ k, seekResync s = sendRel (.resync k 1 0 0) (resyncAsked k s) := by
  have hne : ych s ch ≠ {} := fun h => by
    rw [h] at hasked
    exact Bool.false_ne_true hasked
  have hmem : (ch, ych s ch) ∈ s.yoke.chs := mem_of_get_ne (fun _ => ({} : YCh)) hne
  unfold seekResync
  rw [if_pos ⟨hrole, hnone, hlink⟩]
  split
  · next k y _ => exact ⟨k, rfl⟩
  · next hfind =>
    refine absurd (List.find?_eq_none.1 hfind _ hmem) ?_
    rw [hasked]
    exact fun h => h rfl

end Sys2Proof.Laws
end

section
/-! The copies of a resync (R374, R395): stall bytes that arrive, and the frames that carry every pinned stall. -/

namespace Sys2Proof.Laws

open Sys2Proof Sys2Proof.Machine

/-! ## Bytes that arrive -/

theorem dram_storeWords (d a n : Nat) (s : State) : (storeWords d a n s).dram = s.dram := by
  refine foldl_keeps (g := State.dram) (fun s w => ?_) _ s
  exact dram_storeWord ..

/-- A byte of the memory after bytes are stored. -/
theorem dramGet_dramStore {d a : Nat} {bs : List Byte} (hend : a + bs.length ≤ 2 ^ 34) (s : State) {b : Nat} (hb : b < 2 ^ 34) (e : Nat) :
    dramGet (dramStore d a bs s) e b = if e = d ∧ a ≤ b ∧ b < a + bs.length then bs.getD (b - a) 0 else dramGet s e b := by
  have hwritten : dramGet (dramStore d a bs s) e b = dramGet (dramWrite d a bs s) e b := by
    rw [dramStore, dramGet, dram_storeWords, ← dramGet]
  rw [hwritten]
  split
  · next h =>
    obtain ⟨hd, hlo, hhi⟩ := h
    have hin : b - a < bs.length := by omega
    have hget := dramGet_dramWrite d a bs s (b - a) hin
    rw [Nat.add_sub_cancel' hlo] at hget
    rw [hd, hget, List.getD_eq_getElem _ _ hin]
  · next h =>
    refine dramGet_dramWrite_other d a bs s e b fun i hi heq => h ?_
    rw [memKey, memKey] at heq
    omega

section

variable {s : State} {ch st off : Nat} {bytes : List Byte} (hrole : s.yoke.role = roleStandby) (hunder : s.yoke.resyncCh = some ch)
  (hstep : 2 ≤ s.yoke.resyncStep) (hst : st < 16) (hlen : off + bytes.length ≤ stallSize (effW s) ch)

include hrole hunder hstep hst hlen

theorem copyInOp_eq : copyInOp ch st off bytes s = dramStore (chDie s ch) (stallAt (effW s) ch st + off) bytes s :=
  if_pos ⟨hrole, hunder, hstep, hst, hlen⟩

/-- A copy writes its bytes of the stall and nothing else of memory. -/
theorem copyInOp_moves (hend : stallAt (effW s) ch st + off + bytes.length ≤ 2 ^ 34) : AperKept s (copyInOp ch st off bytes s) ∧
    ∀ d a, a < 2 ^ 34 → dramGet (copyInOp ch st off bytes s) d a =
      if d = chDie s ch ∧ stallAt (effW s) ch st + off ≤ a ∧ a < stallAt (effW s) ch st + off + bytes.length
      then bytes.getD (a - (stallAt (effW s) ch st + off)) 0 else dramGet s d a := by
  rw [copyInOp_eq hrole hunder hstep hst hlen]
  exact ⟨aperKept_dramStore .., fun d a ha => dramGet_dramStore hend s ha d⟩

/-- A bulk copy of a stall's last bytes leaves one stall fewer. -/
theorem bulkInOp_eq : bulkInOp ch st off bytes s =
    { copyInOp ch st off bytes s with yoke := { s.yoke with
      resyncLeft := s.yoke.resyncLeft - (if s.yoke.resyncStep = 2 ∧ off + bytes.length = stallSize (effW s) ch then 1 else 0) } } := by
  have hkept := aperKept_dramStore (chDie s ch) (stallAt (effW s) ch st + off) bytes s
  have hyoke : (dramStore (chDie s ch) (stallAt (effW s) ch st + off) bytes s).yoke = s.yoke := by rw [hkept.frame]
  have hwords : effW (dramStore (chDie s ch) (stallAt (effW s) ch st + off) bytes s) = effW s := by
    rw [hkept.frame]
    rfl
  unfold bulkInOp
  rw [copyInOp_eq hrole hunder hstep hst hlen]
  dsimp only
  generalize dramStore (chDie s ch) (stallAt (effW s) ch st + off) bytes s = t at hyoke hwords ⊢
  rw [hyoke, hwords]
  by_cases h : s.yoke.resyncStep = 2 ∧ off + bytes.length = stallSize (effW s) ch
  · rw [if_pos ⟨hrole, hunder, h.1, hst, h.2⟩, if_pos h]
  · rw [if_neg (fun hc => h ⟨hc.2.2.1, hc.2.2.2.2⟩), if_neg h, Nat.sub_zero, ← hyoke]

end

/-! ## Frames that carry copies -/

/-- From `s` to `t` reliable frames have been sent, none of those that waited is forgotten, and of YOKE's counters only 8 has moved. -/
structure Copying (s t : State) : Prop where
  frame : t = { s with out := t.out, ctrs := t.ctrs, yoke := t.yoke, lanes := t.lanes }
  yoke : t.yoke = { s.yoke with seqTx := t.yoke.seqTx, unacked := t.yoke.unacked, ackDue := t.yoke.ackDue, copyN := t.yoke.copyN }
  waits : ∀ m, Awaits m s → Awaits m t
  ctr : ∀ n, n < 128 → n ≠ 8 → counter t 7 n = counter s 7 n

theorem Copying.refl (s : State) : Copying s s := ⟨rfl, rfl, fun _ h => h, fun _ _ _ => rfl⟩

theorem Copying.trans {s t u : State} (h : Copying s t) (g : Copying t u) : Copying s u where
  frame := by
    have moved := g.frame
    rw [h.frame] at moved
    exact moved
  yoke := by
    have moved := g.yoke
    rw [h.yoke] at moved
    exact moved
  waits m hm := g.waits m (h.waits m hm)
  ctr n hn h8 := (g.ctr n hn h8).trans (h.ctr n hn h8)

theorem Copying.foldl {α : Type} {f : State → α → State} (h : ∀ s a, Copying s (f s a)) (l : List α) (s : State) : Copying s (l.foldl f s) := by
  induction l generalizing s with
  | nil => exact .refl s
  | cons a l ih => exact (h s a).trans (ih (f s a))

theorem copying_sendRel (m : YMsg) (s : State) : Copying s (sendRel m s) where
  frame := by
    have moved := (framesSent_sendRel m s).frame
    generalize sendRel m s = t at moved ⊢
    rw [moved]
  yoke := by
    rw [yoke_sendRel]
    rfl
  waits m' hm := by
    obtain ⟨x, hx, hmsg⟩ := hm
    refine ⟨x, ?_, hmsg⟩
    rw [yoke_sendRel]
    exact List.mem_append_left _ hx
  ctr n hn _ := counter_sendRel m s (by omega)

/-- The frame of a copy's part `j`. -/
def copyPart (ch st kind off n : Nat) (byte : Nat → Byte) (j : Nat) : YMsg :=
  .copy ch st kind (off + 16368 * j) ((List.range (min 16368 (n - 16368 * j))).map (fun i => byte (off + 16368 * j + i)))

theorem copyFrames_eq (ch st kind off n : Nat) (byte : Nat → Byte) (s : State) : copyFrames ch st kind off n byte s =
    bump pgYoke 8 n ((List.range (cdiv n 16368)).foldl (fun s j => sendRel (copyPart ch st kind off n byte j) s) s) := rfl

theorem copying_copyFrames (ch st kind off n : Nat) (byte : Nat → Byte) (s : State) : Copying s (copyFrames ch st kind off n byte s) := by
  rw [copyFrames_eq]
  have sent : Copying s ((List.range (cdiv n 16368)).foldl (fun s j => sendRel (copyPart ch st kind off n byte j) s) s) :=
    .foldl (fun s j => copying_sendRel (copyPart ch st kind off n byte j) s) _ s
  exact sent.trans ⟨rfl, rfl, fun _ h => h, fun m hm h8 => counter_bump_other (by omega) _ _⟩

theorem counted_copyFrames (ch st kind off n : Nat) (byte : Nat → Byte) (s : State) : Counted 7 8 n s (copyFrames ch st kind off n byte s) := by
  rw [copyFrames_eq]
  refine counted_after_kept ?_ (counted_bump_same 7 8 n ((List.range (cdiv n 16368)).foldl (fun s j => sendRel (copyPart ch st kind off n byte j) s) s))
  refine foldl_keeps (g := fun s => counter s 7 8) (fun s j => ?_) _ s
  exact counter_sendRel _ s (by omega)

/-- Every part of what is copied waits for its acknowledgement. -/
theorem awaits_copyFrames {ch st kind off n j : Nat} (hj : 16368 * j < n) (byte : Nat → Byte) (s : State) :
    Awaits (copyPart ch st kind off n byte j) (copyFrames ch st kind off n byte s) := by
  have hmem : j ∈ List.range (cdiv n 16368) := by
    rw [List.mem_range, cdiv]
    omega
  have each : ∀ (l : List Nat) (u : State), j ∈ l →
      Awaits (copyPart ch st kind off n byte j) (l.foldl (fun s j => sendRel (copyPart ch st kind off n byte j) s) u) := by
    intro l
    induction l with
    | nil => exact fun _ h => absurd h List.not_mem_nil
    | cons i l ih =>
      intro u h
      rcases List.mem_cons.1 h with rfl | h
      · exact (Copying.foldl (fun s i => copying_sendRel (copyPart ch st kind off n byte i) s) l _).waits _ (awaits_sendRel ..)
      · exact ih _ h
  rw [copyFrames_eq]
  exact each _ s hmem

/-! ## Every pinned stall -/

/-- One stall copied whole. -/
def stallCopied (ch : Nat) (s : State) (i : Nat) : State := copyFrames ch i 0 0 (stallSize (effW s) ch) (stallByte s ch i) s

theorem copyPinned_eq (ch : Nat) (s : State) :
    copyPinned ch s = ((List.range 16).filter (fun i => (stall (chan s ch) i).pin)).foldl (stallCopied ch) s := rfl

theorem copying_stallCopied (ch : Nat) (s : State) (i : Nat) : Copying s (stallCopied ch s i) := copying_copyFrames ..

/-- Frames that leave read the same stalls. -/
theorem Copying.stalls {s t : State} (h : Copying s t) (ch i : Nat) :
    stallSize (effW t) ch = stallSize (effW s) ch ∧ stallByte t ch i = stallByte s ch i := by
  have moved := h.frame
  generalize t = u at moved
  rw [moved]
  exact ⟨rfl, rfl⟩

theorem copying_copyPinned (ch : Nat) (s : State) : Copying s (copyPinned ch s) := .foldl (copying_stallCopied ch) _ s

theorem counted_copyPinned (ch : Nat) (s : State) :
    Counted 7 8 (((List.range 16).filter (fun i => (stall (chan s ch) i).pin)).length * stallSize (effW s) ch) s (copyPinned ch s) := by
  rw [copyPinned_eq]
  generalize (List.range 16).filter (fun i => (stall (chan s ch) i).pin) = l
  induction l generalizing s with
  | nil =>
    rw [List.length_nil, Nat.zero_mul]
    exact (BitVec.add_zero _).symm
  | cons i l ih =>
    have rest := ih (stallCopied ch s i)
    rw [((copying_stallCopied ch s i).stalls ch i).1] at rest
    rw [List.length_cons, Nat.add_comm l.length, Nat.add_mul, Nat.one_mul]
    exact counted_trans (counted_copyFrames ..) rest

theorem awaits_copyPinned {ch i j : Nat} {s : State} (hi : i < 16) (hpin : (stall (chan s ch) i).pin = true)
    (hj : 16368 * j < stallSize (effW s) ch) :
    Awaits (copyPart ch i 0 0 (stallSize (effW s) ch) (stallByte s ch i) j) (copyPinned ch s) := by
  have hmem : i ∈ (List.range 16).filter (fun i => (stall (chan s ch) i).pin) := List.mem_filter.2 ⟨List.mem_range.2 hi, hpin⟩
  rw [copyPinned_eq]
  generalize (List.range 16).filter (fun i => (stall (chan s ch) i).pin) = l at hmem
  have each : ∀ u, Copying s u → Awaits (copyPart ch i 0 0 (stallSize (effW s) ch) (stallByte s ch i) j) (l.foldl (stallCopied ch) u) := by
    clear hpin
    induction l with
    | nil => exact absurd hmem List.not_mem_nil
    | cons k l ih =>
      intro u hu
      rcases List.mem_cons.1 hmem with h | h
      · subst h
        obtain ⟨hsize, hbyte⟩ := hu.stalls ch i
        have hhere : Awaits (copyPart ch i 0 0 (stallSize (effW s) ch) (stallByte s ch i) j) (stallCopied ch u i) := by
          rw [stallCopied, hsize, hbyte]
          exact awaits_copyFrames hj ..
        exact (Copying.foldl (copying_stallCopied ch) l _).waits _ hhere
      · exact ih h _ (hu.trans (copying_stallCopied ch u k))
  exact each s (.refl s)

end Sys2Proof.Laws
end

section
/-! The end of a bulk copy (R374), requests by register (R373, R397), and the obligation of records and resync. -/

namespace Sys2Proof.Laws

open Sys2Proof Sys2Proof.Machine

/-! ## The end of the bulk copy -/

/-- The active as its bulk copy ends: what is left counted, and the join picture `m` fixed. -/
def joinFixed (ch m : Nat) (s : State) : State :=
  let u := modYch ch (fun y => { y with join := some m }) { bump pgYoke 7 s.yoke.resyncLeft s with
    yoke := { s.yoke with resyncStep := 3, resyncLeft := 0 } }
  { u with yoke := { u.yoke with rows := u.yoke.rows.map (fun r => (r.1, r.2.1, some m)) } }

section

variable {s : State} {ch : Nat}

theorem bulkDoneOp_eq (hrole : s.yoke.role = roleActive) (hunder : s.yoke.resyncCh = some ch) (hstep : s.yoke.resyncStep = 2) :
    bulkDoneOp ch s = sendRel (.resync ch 3 0 (joinPicture s ch)) (copyPinned ch (joinFixed ch (joinPicture s ch) s)) :=
  if_pos ⟨hrole, hunder, hstep⟩

theorem joinFixed_moves (ch m : Nat) (s : State) : (joinFixed ch m s).yoke.resyncStep = 3 ∧ (joinFixed ch m s).yoke.resyncLeft = 0 ∧
    (ych (joinFixed ch m s) ch).join = some m ∧ Counted 7 7 s.yoke.resyncLeft s (joinFixed ch m s) ∧
    counter (joinFixed ch m s) 7 8 = counter s 7 8 ∧
    joinFixed ch m s = { s with ctrs := (joinFixed ch m s).ctrs, yoke := (joinFixed ch m s).yoke } := by
  refine ⟨rfl, rfl, ?_, counted_bump_same 7 7 s.yoke.resyncLeft s, counter_bump_other (by decide) _ s, rfl⟩
  have hset : ych (joinFixed ch m s) ch = { ych s ch with join := some m } :=
    (ych_modYch ch (fun y => { y with join := some m }) s ch).trans (if_pos rfl)
  rw [hset]

/-- The bulk copy of pinned stalls, ended (R374). -/
theorem bulkDone_moves (hrole : s.yoke.role = roleActive) (hunder : s.yoke.resyncCh = some ch) (hstep : s.yoke.resyncStep = 2) :
    (bulkDoneOp ch s).yoke.resyncStep = 3 ∧ (bulkDoneOp ch s).yoke.resyncLeft = 0 ∧
      (ych (bulkDoneOp ch s) ch).join = some (joinPicture s ch) ∧ Awaits (.resync ch 3 0 (joinPicture s ch)) (bulkDoneOp ch s) ∧
      Counted 7 7 s.yoke.resyncLeft s (bulkDoneOp ch s) ∧
      Counted 7 8 (((List.range 16).filter (fun i => (stall (chan s ch) i).pin)).length * stallSize (effW s) ch) s (bulkDoneOp ch s) ∧
      (∀ i j, i < 16 → (stall (chan s ch) i).pin = true → 16368 * j < stallSize (effW s) ch →
        Awaits (.copy ch i 0 (16368 * j) ((List.range (min 16368 (stallSize (effW s) ch - 16368 * j))).map
          (fun x => stallByte s ch i (16368 * j + x)))) (bulkDoneOp ch s)) ∧
      bulkDoneOp ch s = { s with out := (bulkDoneOp ch s).out, ctrs := (bulkDoneOp ch s).ctrs, yoke := (bulkDoneOp ch s).yoke
                                 lanes := (bulkDoneOp ch s).lanes } := by
  obtain ⟨hthree, hzero, hjoin, hseven, height, hframe⟩ := joinFixed_moves ch (joinPicture s ch) s
  have hpart : ∀ i j, copyPart ch i 0 0 (stallSize (effW s) ch) (stallByte s ch i) j =
      .copy ch i 0 (16368 * j) ((List.range (min 16368 (stallSize (effW s) ch - 16368 * j))).map (fun x => stallByte s ch i (16368 * j + x))) :=
    fun i j => by rw [copyPart, Nat.zero_add]
  rw [bulkDoneOp_eq hrole hunder hstep]
  generalize joinPicture s ch = m at hthree hzero hjoin hseven height hframe ⊢
  have hsame : chan (joinFixed ch m s) ch = chan s ch ∧ effW (joinFixed ch m s) = effW s ∧ (∀ i, stallByte (joinFixed ch m s) ch i = stallByte s ch i) :=
    ⟨rfl, rfl, fun _ => rfl⟩
  generalize joinFixed ch m s = u at hthree hzero hjoin hseven height hframe hsame ⊢
  obtain ⟨hchan, hwords, hbyte⟩ := hsame
  have copied := copying_copyPinned ch u
  have hcount := counted_copyPinned ch u
  have hwait : ∀ i j, i < 16 → (stall (chan u ch) i).pin = true → 16368 * j < stallSize (effW u) ch →
      Awaits (copyPart ch i 0 0 (stallSize (effW u) ch) (stallByte u ch i) j) (copyPinned ch u) := fun i j hi hpin hj => awaits_copyPinned hi hpin hj
  rw [hchan, hwords] at hcount hwait
  generalize copyPinned ch u = w at copied hcount hwait ⊢
  have sent := copying_sendRel (.resync ch 3 0 m) w
  have hlast : counter (sendRel (.resync ch 3 0 m) w) 7 8 = counter w 7 8 := counter_sendRel _ w (by omega)
  have hresync := awaits_sendRel (.resync ch 3 0 m) w
  generalize sendRel (.resync ch 3 0 m) w = t at sent hlast hresync ⊢
  have tail := copied.trans sent
  have hych : ych t ch = ych u ch := by
    have moved := tail.yoke
    rw [ych, moved]
    rfl
  refine ⟨?_, ?_, ?_, hresync, counted_of_kept hseven (tail.ctr 7 (by decide) (by decide)),
    counted_after_kept height (counted_of_kept hcount hlast), fun i j hi hpin hj => ?_, ?_⟩
  · rw [tail.yoke]
    exact hthree
  · rw [tail.yoke]
    exact hzero
  · rw [hych]
    exact hjoin
  · have waits := sent.waits _ (hwait i j hi hpin hj)
    rw [hbyte, hpart] at waits
    exact waits
  · have moved := tail.frame
    clear tail hych hlast hresync sent
    generalize t = a at moved ⊢
    rw [moved, hframe]

end

/-! ## A read that corrects -/

theorem counter_correctIn (ls : List MemRange) (s : State) {n : Nat} (hn : n < 128) : counter (correctIn ls s) 7 n = counter s 7 n := by
  refine foldl_keeps (g := fun s => counter s 7 n) (fun s d => ?_) _ s
  exact (counter_bump_other (by rw [pgMc, pkey]; omega) 1 _).trans (counter_raiseBit ..)

end Sys2Proof.Laws
end

section
/-! Records, verdicts and resync (R369–R375): the obligation of them, frame by frame. -/

namespace Sys2Proof.Laws

open Sys2Proof Sys2Proof.Machine

/-! ## Frames of a channel in their turn -/

section

variable {s : State} {h : YHdr} {ch : Nat} (hrun : inReset s = false) (hturn : InTurn s h) (hch : ch < 32 * dies s)

include hrun hturn hch

/-- A frame of the channel acts on the state that has taken it. -/
theorem exec_channelFrame {c : Instr} (hh : relHeader c = some h) (hc : relChan c = some ch) :
    exec c s = .next (deliverFrame c (taken h s)) :=
  exec_inTurn hrun hh (fun k hk => by
    rw [hc] at hk
    cases hk
    exact hch) hturn

/-- A record at the standby (R369, R371). -/
theorem exec_stateFrame_standby {r : Record} (hr : r.channel = ch) (hrole : s.yoke.role = roleStandby) : ∃ t, exec (.stateFrame h r) s = .next t ∧
    ((chan s ch).st ≠ .draining → (ych t ch).lastRx = some r) ∧
    (∀ a, (ych s ch).own = [a] → (ych s ch).theirs = [] → a.picture = r.picture → (ych s ch).st = ysLocked →
      Counted 7 10 1 s t ∧ (ych t ch).own = [] ∧ Awaits (.verdict ch (ych t ch).st (ych t ch).cause r.picture) t ∧
      (recordCause a r = 0 → (ych t ch).st = ysLocked) ∧
      (recordCause a r ≠ 0 → (ych t ch).st = ysDiverged ∧ (ych t ch).cause = recordCause a r ∧ Counted 7 11 1 s t ∧ Counted 7 4 1 s t ∧
        bitOf (page t 7).stat 6 = true)) ∧
    RecordMoved s t := by
  subst hr
  have start : RecordMoved s (taken h s) := rfl
  refine ⟨_, exec_channelFrame hrun hturn hch rfl rfl, ?_⟩
  obtain ⟨hmoved, hlast⟩ := theirRecord_moves (s := taken h s) (r := r) hrole
  exact ⟨hlast, fun a hown htheirs hpic hst => theirRecord_of_locked (s := taken h s) hrole hown htheirs hpic hst,
    start.trans hmoved⟩

/-- A copy at the standby (R374). -/
theorem exec_copies {st off : Nat} {bytes : List Byte} (hrole : s.yoke.role = roleStandby) (hunder : s.yoke.resyncCh = some ch)
    (hstep : 2 ≤ s.yoke.resyncStep) (hst : st < 16) (hlen : off + bytes.length ≤ stallSize (effW s) ch)
    (hend : stallAt (effW s) ch st + off + bytes.length ≤ 2 ^ 34) :
    (∃ t, exec (.copyBulk h ch st off bytes) s = .next t ∧
      t.yoke.resyncLeft = s.yoke.resyncLeft - (if s.yoke.resyncStep = 2 ∧ off + bytes.length = stallSize (effW s) ch then 1 else 0) ∧
      (∀ d a, d < 8 → a < 2 ^ 34 → dramGet t d a =
        if d = chDie s ch ∧ stallAt (effW s) ch st + off ≤ a ∧ a < stallAt (effW s) ch st + off + bytes.length
        then bytes.getD (a - (stallAt (effW s) ch st + off)) 0 else dramGet s d a) ∧
      t = { s with pages := t.pages, ctrs := t.ctrs, dram := t.dram, poison := t.poison, broken := t.broken, soft := t.soft, yoke := t.yoke
                   ic := t.ic }) ∧
    (∃ t, exec (.copyRow h ch st off bytes) s = .next t ∧
      (∀ d a, d < 8 → a < 2 ^ 34 → dramGet t d a =
        if d = chDie s ch ∧ stallAt (effW s) ch st + off ≤ a ∧ a < stallAt (effW s) ch st + off + bytes.length
        then bytes.getD (a - (stallAt (effW s) ch st + off)) 0 else dramGet s d a) ∧
      t = { s with pages := t.pages, ctrs := t.ctrs, dram := t.dram, poison := t.poison, broken := t.broken, soft := t.soft, yoke := t.yoke
                   ic := t.ic }) := by
  have hbulk : exec (.copyBulk h ch st off bytes) s = .next (bulkInOp ch st off bytes (taken h s)) :=
    exec_channelFrame hrun hturn hch rfl rfl
  have hrow : exec (.copyRow h ch st off bytes) s = .next (copyInOp ch st off bytes (taken h s)) :=
    exec_channelFrame hrun hturn hch rfl rfl
  have hsame : chDie (taken h s) ch = chDie s ch ∧ effW (taken h s) = effW s ∧
      (∀ d a, dramGet (taken h s) d a = dramGet s d a) := ⟨rfl, rfl, fun _ _ => rfl⟩
  have hyoke : (taken h s).yoke.role = s.yoke.role ∧
      (taken h s).yoke.resyncCh = s.yoke.resyncCh ∧
      (taken h s).yoke.resyncStep = s.yoke.resyncStep ∧
      (taken h s).yoke.resyncLeft = s.yoke.resyncLeft := ⟨rfl, rfl, rfl, rfl⟩
  have start : (taken h s) = { s with yoke := (taken h s).yoke } := rfl
  generalize taken h s = u at hbulk hrow hsame hyoke start
  obtain ⟨hdie, hwords, hbytes⟩ := hsame
  obtain ⟨hrole', hunder', hstep', hleft⟩ := hyoke
  rw [← hrole'] at hrole
  rw [← hunder'] at hunder
  rw [← hstep'] at hstep
  rw [← hwords] at hlen hend
  obtain ⟨hkept, hget⟩ := copyInOp_moves hrole hunder hstep hst hlen hend
  rw [hbulk, hrow, bulkInOp_eq hrole hunder hstep hst hlen, hleft, hstep', hwords]
  rw [hwords, hdie] at hget
  have moved := hkept.frame
  generalize copyInOp ch st off bytes u = w at hget moved
  refine ⟨⟨_, rfl, rfl, fun d a _ ha => (hget d a ha).trans (by rw [hbytes]), ?_⟩,
    ⟨_, rfl, fun d a _ ha => (hget d a ha).trans (by rw [hbytes]), ?_⟩⟩
  · generalize w.pages = pages, w.ctrs = ctrs, w.dram = dram, w.poison = poison, w.broken = broken, w.soft = soft, w.ic = ic at moved
    rw [moved, start]
  · generalize w = a at moved ⊢
    rw [moved, start]

end

/-! ## The end of the copy, and a request by register -/

theorem exec_bulkCopyDone {s : State} {ch : Nat} (hrun : inReset s = false) (hch : ch < 32 * dies s) (hrole : s.yoke.role = roleActive)
    (hunder : s.yoke.resyncCh = some ch) (hstep : s.yoke.resyncStep = 2)
    (hsound : ∀ r ∈ pinReads s ch, badWords s r.die r.addr r.len = []) :
    exec (.bulkCopyDone ch) s = .next (bulkDoneOp ch (correctIn (pinReads s ch) s)) := by
  refine (atChannel_of_running hrun hch _).trans ?_
  rw [if_pos ⟨hrole, hunder, hstep⟩, reading_of_sound hsound]

/-- The bulk copy ended, once what it read is corrected (R295, R374). -/
theorem bulkDone_afterRead {s : State} {ch : Nat} (hrole : s.yoke.role = roleActive) (hunder : s.yoke.resyncCh = some ch)
    (hstep : s.yoke.resyncStep = 2) (ls : List MemRange) :
    (bulkDoneOp ch (correctIn ls s)).yoke.resyncStep = 3 ∧ (bulkDoneOp ch (correctIn ls s)).yoke.resyncLeft = 0 ∧
      (ych (bulkDoneOp ch (correctIn ls s)) ch).join = some (joinPicture s ch) ∧
      Awaits (.resync ch 3 0 (joinPicture s ch)) (bulkDoneOp ch (correctIn ls s)) ∧
      Counted 7 7 s.yoke.resyncLeft s (bulkDoneOp ch (correctIn ls s)) ∧
      Counted 7 8 (((List.range 16).filter (fun i => (stall (chan s ch) i).pin)).length * stallSize (effW s) ch) s
        (bulkDoneOp ch (correctIn ls s)) ∧
      (∀ i j, i < 16 → (stall (chan s ch) i).pin = true → 16368 * j < stallSize (effW s) ch →
        Awaits (.copy ch i 0 (16368 * j) ((List.range (min 16368 (stallSize (effW s) ch - 16368 * j))).map
          (fun x => stallByte s ch i (16368 * j + x)))) (bulkDoneOp ch (correctIn ls s))) ∧
      bulkDoneOp ch (correctIn ls s) = { s with
        out := (bulkDoneOp ch (correctIn ls s)).out, pages := (bulkDoneOp ch (correctIn ls s)).pages
        ctrs := (bulkDoneOp ch (correctIn ls s)).ctrs, yoke := (bulkDoneOp ch (correctIn ls s)).yoke
        ic := (bulkDoneOp ch (correctIn ls s)).ic, lanes := (bulkDoneOp ch (correctIn ls s)).lanes } := by
  have read := (noted_correctIn ls s).frame
  have hctr : ∀ n, n < 128 → counter (correctIn ls s) 7 n = counter s 7 n := fun n hn => counter_correctIn ls s hn
  generalize correctIn ls s = w at read hctr ⊢
  have hsame : w.yoke = s.yoke ∧ chan w ch = chan s ch ∧ effW w = effW s ∧ joinPicture w ch = joinPicture s ch ∧
      ∀ i, stallByte w ch i = stallByte s ch i := by
    rw [read]
    exact ⟨rfl, rfl, rfl, rfl, fun _ => rfl⟩
  obtain ⟨hyoke, hchan, hwords, hpicture, hbyte⟩ := hsame
  obtain ⟨hthree, hzero, hjoin, hwait, hseven, height, hcopies, moved⟩ :=
    bulkDone_moves (s := w) (ch := ch) (by rw [hyoke]; exact hrole) (by rw [hyoke]; exact hunder) (by rw [hyoke]; exact hstep)
  rw [hchan, hwords] at height hcopies
  rw [hpicture] at hjoin hwait
  rw [hyoke] at hseven
  refine ⟨hthree, hzero, hjoin, hwait, counted_after_kept (hctr 7 (by decide)) hseven, counted_after_kept (hctr 8 (by decide)) height,
    fun i j hi hpin hj => ?_, ?_⟩
  · have waits := hcopies i j hi hpin hj
    rw [hbyte] at waits
    exact waits
  · generalize bulkDoneOp ch w = t at moved ⊢
    generalize w = a at read moved
    rw [moved, read]

/-- The host asks for the resync of channel `ch`. -/
def hostAsked (ch : Nat) (s : State) : State := modYch ch (fun y => { y with asked := true, fails := 0 }) s

theorem exec_yokeResync {s : State} {v : Word} (hrun : inReset s = false) (hkey : fld v 31 16 = 0x5E1D) (hop : fld v 3 0 = 2)
    (hrole : s.yoke.role = roleStandby) (hup : running s (fld v 11 4) = true) :
    exec (.yokeResync v) s = .next (seekResync (hostAsked (fld v 11 4) s)) := by
  refine (next_whenUp hrun (yokeCmd v)).trans (congrArg _ ?_)
  refine (if_neg fun h => h hkey).trans ((if_neg ?_).trans (if_pos ⟨hop, hrole, hup⟩))
  rw [hop]
  decide

theorem yokeCmd_of_other {v : Word} (h : fld v 31 16 ≠ 0x5E1D) (s : State) : yokeCmd v s = s := if_pos h

theorem seekResync_frame (s : State) : seekResync s = { s with
    out := (seekResync s).out, ctrs := (seekResync s).ctrs, yoke := (seekResync s).yoke, lanes := (seekResync s).lanes } := by
  have sent : ∀ (m : YMsg) (u : State), u = { s with yoke := u.yoke } → sendRel m u = { s with
      out := (sendRel m u).out, ctrs := (sendRel m u).ctrs, yoke := (sendRel m u).yoke, lanes := (sendRel m u).lanes } := fun m u hu => by
    have moved := (copying_sendRel m u).frame
    generalize sendRel m u = t at moved ⊢
    rw [moved, hu]
  unfold seekResync
  split
  · split
    · exact sent _ _ rfl
    · rfl
  · rfl

/-- The host's request (R373, R397). -/
theorem hostAsked_moves {s : State} (ch : Nat) (hrole : s.yoke.role = roleStandby) :
    (s.yoke.resyncCh = none → s.yoke.linkLost = false → (seekResync (hostAsked ch s)).yoke.resyncStep = 1 ∧
      ∃ k, (seekResync (hostAsked ch s)).yoke.resyncCh = some k ∧ RelSent (.resync k 1 0 0) s (seekResync (hostAsked ch s))) ∧
    (s.yoke.resyncCh.isSome = true → (ych (seekResync (hostAsked ch s)) ch).asked = true ∧ (ych (seekResync (hostAsked ch s)) ch).fails = 0 ∧
      (seekResync (hostAsked ch s)).out = s.out) ∧
    seekResync (hostAsked ch s) = { s with
      out := (seekResync (hostAsked ch s)).out, ctrs := (seekResync (hostAsked ch s)).ctrs, yoke := (seekResync (hostAsked ch s)).yoke
      lanes := (seekResync (hostAsked ch s)).lanes } := by
  have hself : ych (hostAsked ch s) ch = { ych s ch with asked := true, fails := 0 } := (ych_modYch ..).trans (if_pos rfl)
  have hsame : (hostAsked ch s).yoke.role = s.yoke.role ∧ (hostAsked ch s).yoke.resyncCh = s.yoke.resyncCh ∧
      (hostAsked ch s).yoke.linkLost = s.yoke.linkLost ∧ (hostAsked ch s).yoke.seqTx = s.yoke.seqTx ∧ (hostAsked ch s).out = s.out := ⟨rfl, rfl, rfl, rfl, rfl⟩
  have hlanes : ∀ m, frameLanes (hostAsked ch s) m = frameLanes s m := fun m => by cases m <;> rfl
  have start : hostAsked ch s = { s with yoke := (hostAsked ch s).yoke } := rfl
  generalize hostAsked ch s = u at hself hsame hlanes start ⊢
  obtain ⟨hurole, hunder, hlink, hseq, hout⟩ := hsame
  refine ⟨fun hnone hup => ?_, fun hbusy => ?_, ?_⟩
  · obtain ⟨k, hk⟩ := seekResync_of_asked (ch := ch) (hurole.trans hrole) (hunder.trans hnone) (hlink.trans hup) (by rw [hself])
    have hasks : (resyncAsked k u).yoke.resyncStep = 1 ∧ (resyncAsked k u).yoke.resyncCh = some k ∧ (resyncAsked k u).yoke.seqTx = u.yoke.seqTx :=
      ⟨rfl, rfl, rfl⟩
    have hways : ∀ m, frameLanes (resyncAsked k u) m = frameLanes u m := fun m => by cases m <;> rfl
    rw [hk]
    generalize resyncAsked k u = w at hasks hways ⊢
    obtain ⟨hstep, hch, hnext⟩ := hasks
    obtain ⟨hsent, hwaits, hleft⟩ := relSent_sendRel (.resync k 1 0 0) w
    have kept := (copying_sendRel (.resync k 1 0 0) w).yoke
    refine ⟨?_, k, ?_, hsent.trans (by rw [hnext, hseq]), hwaits, fun l hl => hleft l (by rw [hways, hlanes]; exact hl)⟩
    · rw [kept]
      exact hstep
    · rw [kept]
      exact hch
  · have hstill : seekResync u = u := by
      refine if_neg fun h => ?_
      rw [hunder] at h
      rw [h.2.1] at hbusy
      exact Bool.false_ne_true hbusy
    rw [hstill, hself]
    exact ⟨rfl, rfl, hout⟩
  · have moved := seekResync_frame u
    generalize seekResync u = t at moved ⊢
    rw [moved, start]

/-! ## The obligation -/

/-- Settles O40: each frame acts in its turn on the channel's yoke state, each copy on the stall that it names. -/
theorem recordsAndResync : Obligations.RecordsAndResync := by
  unfold Obligations.RecordsAndResync
  refine ⟨fun s h ch hrun hturn hch => ⟨fun r hr hrole => exec_stateFrame_standby hrun hturn hch hr hrole, fun r hr hrole => ?_,
    fun c n hrole => ?_, fun c n hrole => ?_⟩, fun s ch hrun hch => ⟨fun h hturn hrole hnone => ?_, fun h pins n hturn hrole hunder => ?_,
    fun h st off bytes hturn hrole hunder hstep hst hlen _ hend => exec_copies hrun hturn hch hrole hunder hstep hst hlen hend,
    fun hrole hunder hstep hsound => ?_, fun h m hturn hrole hunder hstep => ?_, fun h m hturn => ?_, fun h hturn hunder => ?_,
    fun v hkey hop hfld hrole hup => ?_, fun v hkey => ?_⟩⟩
  · subst hr
    exact ⟨_, (exec_channelFrame hrun hturn hch rfl rfl).trans
      (congrArg _ (theirRecord_of_other (s := taken h s) hrole)), rfl⟩
  · refine ⟨_, exec_channelFrame hrun hturn hch rfl rfl, ?_⟩
    obtain ⟨hst, hbit, hcount⟩ := verdictOp_of_locked (s := taken h s) (ch := ch) hrole c
    exact ⟨hst, hbit, hcount, (yokeNoted_yoke (takenTurn h s.yoke) s).trans (yokeNoted_verdictOp ch ysLocked c _)⟩
  · refine ⟨_, exec_channelFrame hrun hturn hch rfl rfl, ?_⟩
    obtain ⟨hst, hcause, hparts, hfails, hother⟩ := verdictOp_of_diverged (s := taken h s) (ch := ch) hrole c
    exact ⟨hst, hcause, hparts, hfails, hother, (yokeNoted_yoke (takenTurn h s.yoke) s).trans (yokeNoted_verdictOp ch ysDiverged c _)⟩
  · have heq : resyncRequestOp ch (taken h s) = modChan ch (fun c => { c with ckptWant := true })
        { taken h s with yoke := { (taken h s).yoke with resyncCh := some ch, resyncStep := 1 } } := if_pos ⟨hrole, hnone⟩
    refine ⟨_, (exec_channelFrame hrun hturn hch rfl rfl).trans (congrArg _ heq), rfl, rfl, ?_, fun k hk => ?_, rfl⟩
    · exact (chan_modChan ..).trans (if_pos rfl)
    · exact (chan_modChan ..).trans (if_neg hk)
  · refine ⟨_, exec_channelFrame hrun hturn hch rfl rfl, ?_⟩
    exact checkpointTaken_moves (s := taken h s) hrole hunder pins n
  · exact ⟨_, exec_bulkCopyDone hrun hch hrole hunder hstep hsound, bulkDone_afterRead hrole hunder hstep (pinReads s ch)⟩
  · have heq : copyDoneOp ch m false (taken h s) = modYch ch (fun y => { y with join := some m })
        { taken h s with yoke := { (taken h s).yoke with resyncStep := 3, resyncLeft := 0 } } :=
      if_pos ⟨rfl, hrole, hunder, hstep⟩
    refine ⟨_, (exec_channelFrame hrun hturn hch rfl rfl).trans (congrArg _ heq), rfl, rfl, ?_, rfl⟩
    have hset : ych (modYch ch (fun y => { y with join := some m }) { taken h s with yoke := { (taken h s).yoke with resyncStep := 3, resyncLeft := 0 } }) ch =
      _ := (ych_modYch ..).trans (if_pos rfl)
    rw [hset]
  · have heq : copyDoneOp ch m true (taken h s) = taken h s := if_neg fun hc => Bool.false_ne_true hc.1
    exact ⟨_, (exec_channelFrame hrun hturn hch rfl rfl).trans (congrArg _ heq), rfl⟩
  · have heq : deliverFrame (.resyncAbort h ch) (taken h s) = abortResync false (taken h s) := if_pos hunder
    exact ⟨_, (exec_channelFrame hrun hturn hch rfl rfl).trans (congrArg _ heq), abortResync_moves (s := taken h s) hunder⟩
  · subst hfld
    exact ⟨_, exec_yokeResync hrun hkey hop hrole hup, hostAsked_moves _ hrole⟩
  · exact ⟨(next_whenUp hrun (yokeCmd v)).trans (congrArg _ (yokeCmd_of_other hkey s)),
      (next_whenUp hrun (yokeCmd v)).trans (congrArg _ (yokeCmd_of_other hkey s))⟩

end Sys2Proof.Laws
end
